-- ==== Sys2Proof/Word.lean ====
section
/-! DEFINITION. The word types of the module: registers are 32 bits wide (R686), bytes are the unit of memory. -/

namespace Sys2Proof

/-- One register of PF0 BAR0 or VF BAR0 (R686). -/
abbrev Word := BitVec 32

/-- One byte of memory, of a descriptor or of a message. -/
abbrev Byte := BitVec 8

end Sys2Proof
end

