-- ==== Sys2Proof/Syntax.lean ====
section
/-!
DEFINITION. Syntax.lean: the commands the module takes from outside, one constructor per row of the opcode table. The
table gives no operands: they are the model's, and say what the event carries (log 54).
-/
namespace Sys2Proof

/-- Who accesses a register or a doorbell page: PF0, a VF (with or without the TDISP T bit of R53), policy firmware over
the control link (R685), the TAP (R594); or a write of the host to the configuration space of function n (log 4), whose fields are
numbered 0 VF Enable and 1 NumVFs of PF0's SR-IOV capability, 2 Message Control of a function's MSI-X capability. -/
inductive Acc where
  | pf0
  | vf (n : Nat) (t : Bool)
  | policy
  | tap
  | cfg (n : Nat)
deriving DecidableEq, Repr

/-- How a loaded value fills its register: zero or sign extended, NaN-boxed, or as an element of a vector register. -/
inductive Fill where
  | zero
  | sign
  | box
  | elem
deriving DecidableEq, Repr

/-- One thing a control hart or its vector unit did: a load of n bytes into the register at an offset of the context image
(Table 04.5), a store, an atomic that loads and stores, register bytes it computed, a read of a counter CSR (0 time, 1 cycle,
2 instret), new values of vtype, vl and fcsr, instructions retired with the vector FP64 operations and the other vector
element operations among them. -/
inductive HartOp where
  | load (a n : Nat) (e : Fill) (dst : Nat)
  | store (a : Nat) (bytes : List Byte)
  | amo (a : Nat) (bytes : List Byte) (e : Fill) (dst : Nat)
  | reg (off : Nat) (bytes : List Byte)
  | csr (i dst : Nat)
  | vcsr (vtype vl fcsr : Nat)
  | ran (n fp vec : Nat)
deriving DecidableEq, Repr

/-- A dual-clock FIFO at a stop (R581): its identifier, the scan unit that reads it, the domains that write and read it (Table 16.10), its
depth as a power of two, how many entries the writing and the reading domain had written and read in all, and the entries between. -/
structure FifoHeld where
  id : Nat
  unit : Nat
  writer : Nat
  reader : Nat
  log2 : Nat
  wrote : Nat
  taken : Nat
  words : List Nat
deriving DecidableEq, Repr

/-- A three-stage synchroniser at a stop (R581): its identifier, its scan unit, its receiving domain, its stages. -/
structure SyncHeld where
  id : Nat
  unit : Nat
  reader : Nat
  stages : Nat
deriving DecidableEq, Repr

/-- The cut of a freeze (R579 to R581): the stop cycle of each domain, and what every crossing between domains held. -/
structure Cut where
  stops : List (Nat × Nat) := []
  fifos : List FifoHeld := []
  syncs : List SyncHeld := []
deriving DecidableEq, Repr

/-- A wait load (R234): its counter or pool, and the register it loads. -/
structure WaitLoad where
  idx : Nat
  rd : Nat
deriving DecidableEq, Repr

/-- What a control hart did since its last command, in order (log 66). -/
abbrev HartRun := List HartOp

/-- What policy firmware stages in a cycle beside what the state machines make it do (R375, R423, R430, R432, R445, R473, R497, R521,
R527, R528, R667): port enables, passes and sweeps, a retirement, a failed step, a table with its header, a trigger (seconds,
nanoseconds, period in µs), a NOTICE or an NTP frame with its stamp identifier, a write of retained memory, MOD_ALERT_N, the
levels of MOD_LED0 to 2, a switchover, a restart of the standby. -/
inductive FwOut where
  | portEn (p : Nat) (on : Bool)
  | stress (d : Nat)
  | sweep (d : Nat)
  | retire (unit : Nat)
  | failStep (t : Nat)
  | table (typ num : Nat) (image : List Byte)
  | trig (k secs nanos period : Nat)
  | notice (code subject detail : Nat) (stamp : Option Nat)
  | ntp (server : Nat) (stamp : Option Nat) (bytes : List Byte)
  | retained (off : Nat) (bytes : List Byte)
  | alert (low : Bool)
  | leds (levels : Nat)
  | switchover
  | restart
deriving DecidableEq, Repr

/-- The commands of spec/opcode_table.json, one constructor per row, in its order. -/
inductive Instr where
  /-- POWER_ON (R597). -/
  | powerOn
  /-- AUX_RAIL_LOW (R673). -/
  | auxRailLow
  /-- INPUT_LOW (R502). -/
  | inputLow
  /-- INPUT_OVERVOLTAGE (R672). -/
  | inputOvervoltage
  /-- INPUT_QUALIFIED (R600). -/
  | inputQualified
  /-- RESET_ASSERT (R598). -/
  | resetAssert
  /-- RESET_RELEASE (R599). -/
  | resetRelease
  /-- TAP_RESET (R594). -/
  | tapReset
  /-- HOST_LINK_DOWN (R95). -/
  | hostLinkDown
  /-- HOST_LINK_UP (R96). -/
  | hostLinkUp (width rate : Nat) (flit : Bool)
  /-- HIF_LINK_RESUME (R97). -/
  | hifLinkResume
  /-- FLR_VF (R98). -/
  | flrVf (n : Nat)
  /-- VF_DISABLE (R98). -/
  | vfDisable (clear : Bool) (keep : Nat)
  /-- FLR_PF0 (R99). -/
  | flrPf0
  /-- HOT_RESET (R100). -/
  | hotReset
  /-- ATS_INVALIDATION (R43). -/
  | atsInvalidation (fn page pages : Nat) (deny : Bool)
  /-- MSIX_UNMASK (R93). -/
  | msixUnmask (acc : Acc) (vec : Option Nat)
  /-- MSIX_MOD_EXPIRY (R93). -/
  | msixModExpiry (r : Nat)
  /-- DOORBELL (R74). -/
  | doorbell (acc : Acc) (page off size value : Nat)
  /-- FETCH_ISSUE (R82): at most as many entries as tags are named. -/
  | fetchIssue (r : Nat) (tags : List Nat)
  /-- FETCH_READ_DONE (R78): completion status, whether the data is poisoned, the bytes. -/
  | fetchReadDone (r flt : Nat) (ep : Bool) (bytes : List Byte)
  /-- SELECTOR_WRITE (R60). -/
  | selectorWrite (acc : Acc) (a : Nat) (v : Word)
  /-- REGISTER_WRITE (R12). -/
  | registerWrite (acc : Acc) (a : Nat) (v : Word)
  /-- COMMIT_APPLY (R61). -/
  | commitApply (i : Nat) (rd : Option (List Byte))
  /-- HIF_TEN_COMMIT (R64). -/
  | hifTenCommit (acc : Acc)
  /-- HIF_TEN_ABORT (R59). -/
  | hifTenAbort (acc : Acc)
  /-- RNG_COMMIT (R66). -/
  | rngCommit (acc : Acc)
  /-- RNG_ABORT (R59). -/
  | rngAbort (acc : Acc)
  /-- PLN_COMMIT (R142). -/
  | plnCommit (acc : Acc)
  /-- PLN_ABORT (R59). -/
  | plnAbort (acc : Acc)
  /-- PLN_TQ_COMMIT (R144). -/
  | plnTqCommit (acc : Acc)
  /-- PLN_TQ_ABORT (R59). -/
  | plnTqAbort (acc : Acc)
  /-- MEM_RSV_COMMIT (R105). -/
  | memRsvCommit (acc : Acc)
  /-- MEM_RSV_ABORT (R59). -/
  | memRsvAbort (acc : Acc)
  /-- MEM_THERM_COMMIT (R143). -/
  | memThermCommit (acc : Acc)
  /-- MEM_THERM_ABORT (R59). -/
  | memThermAbort (acc : Acc)
  /-- COR_COMMIT (R172). -/
  | corCommit (acc : Acc) (win : Nat)
  /-- COR_ABORT (R59). -/
  | corAbort (acc : Acc) (win : Nat)
  /-- COR_TER_COMMIT (R171). -/
  | corTerCommit (acc : Acc) (win : Nat)
  /-- COR_TER_ABORT (R59). -/
  | corTerAbort (acc : Acc) (win : Nat)
  /-- ARR_COMMIT (R265). -/
  | arrCommit (acc : Acc)
  /-- ARR_ABORT (R59). -/
  | arrAbort (acc : Acc)
  /-- FMT_COMMIT (R197). -/
  | fmtCommit (acc : Acc)
  /-- FMT_ABORT (R59). -/
  | fmtAbort (acc : Acc)
  /-- VNL_PORT_COMMIT (R307). -/
  | vnlPortCommit (acc : Acc) (win : Nat)
  /-- VNL_PORT_ABORT (R59). -/
  | vnlPortAbort (acc : Acc) (win : Nat)
  /-- VNL_PCL_COMMIT (R308). -/
  | vnlPclCommit (acc : Acc)
  /-- VNL_PCL_ABORT (R59). -/
  | vnlPclAbort (acc : Acc)
  /-- COL_COMMIT (R336). -/
  | colCommit (acc : Acc)
  /-- COL_ABORT (R59). -/
  | colAbort (acc : Acc)
  /-- STP_TEN_COMMIT (R378). -/
  | stpTenCommit (acc : Acc)
  /-- STP_TEN_ABORT (R59). -/
  | stpTenAbort (acc : Acc)
  /-- RCK_TEN_COMMIT (R421). -/
  | rckTenCommit (acc : Acc)
  /-- RCK_TEN_ABORT (R59). -/
  | rckTenAbort (acc : Acc)
  /-- RCK_WEAR_COMMIT (R421). -/
  | rckWearCommit (acc : Acc)
  /-- RCK_WEAR_ABORT (R59). -/
  | rckWearAbort (acc : Acc)
  /-- CEL_COMMIT (R451). -/
  | celCommit (acc : Acc)
  /-- CEL_ABORT (R59). -/
  | celAbort (acc : Acc)
  /-- CEL_SVC_COMMIT (R451). -/
  | celSvcCommit (acc : Acc)
  /-- CEL_SVC_ABORT (R59). -/
  | celSvcAbort (acc : Acc)
  /-- CEL_TBL_LOAD (R451). -/
  | celTblLoad (acc : Acc)
  /-- CEL_TBL_ABORT (R59). -/
  | celTblAbort (acc : Acc)
  /-- CEL_TBL_UNLOAD (R446). -/
  | celTblUnload (acc : Acc)
  /-- ERR_COMMIT (R480). -/
  | errCommit (acc : Acc)
  /-- ERR_ABORT (R59). -/
  | errAbort (acc : Acc)
  /-- PWR_COMMIT (R510). -/
  | pwrCommit (acc : Acc)
  /-- PWR_ABORT (R59). -/
  | pwrAbort (acc : Acc)
  /-- TIM_COMMIT (R516). -/
  | timCommit (acc : Acc)
  /-- TIM_ABORT (R59). -/
  | timAbort (acc : Acc)
  /-- SEC_KEY_INSTALL (R574). -/
  | secKeyInstall (acc : Acc)
  /-- SEC_KEY_ABORT (R59). -/
  | secKeyAbort (acc : Acc)
  /-- SEC_KEY_DESTROY (R574). -/
  | secKeyDestroy (acc : Acc)
  /-- OPEN (R565). -/
  | secOpen (acc : Acc) (tok : Option (List Byte))
  /-- CLOSE (R566). -/
  | secClose (acc : Acc)
  /-- CLEAR_RETIRE (R567). -/
  | secClearRetire (acc : Acc)
  /-- SEAL (R564). -/
  | secSeal (acc : Acc) (tok : Option (List Byte))
  /-- RETIRE (R567). -/
  | secRetire (acc : Acc) (tok : Option (List Byte))
  /-- DBG_COMMIT (R595). -/
  | dbgCommit (acc : Acc)
  /-- DBG_ABORT (R59). -/
  | dbgAbort (acc : Acc)
  /-- DBG_TEN_COMMIT (R595). -/
  | dbgTenCommit (acc : Acc)
  /-- DBG_TEN_ABORT (R59). -/
  | dbgTenAbort (acc : Acc)
  /-- BOOT_COMMIT (R622). -/
  | bootCommit (acc : Acc)
  /-- BOOT_ABORT (R59). -/
  | bootAbort (acc : Acc)
  /-- VNL_ERR_CLR (R298). -/
  | vnlErrClr (acc : Acc) (p : Nat)
  /-- VNL_MEMO_CLR_LINKS (R285). -/
  | vnlMemoClrLinks (acc : Acc)
  /-- VNL_MEMO_CLR_ROUTES (R285). -/
  | vnlMemoClrRoutes (acc : Acc)
  /-- RCK_SLOT_RELEASE (R393). -/
  | rckSlotRelease (acc : Acc) (k v : Nat)
  /-- SWITCHOVER (R430). -/
  | switchover (acc : Acc)
  /-- RESTART_STANDBY (R432). -/
  | restartStandby (acc : Acc)
  /-- ERR_CLR (R480). -/
  | errClr (acc : Acc)
  /-- PWR_REQ_AWAKE (R483). -/
  | pwrReqAwake (acc : Acc)
  /-- PWR_REQ_DORMANT (R486). -/
  | pwrReqDormant (acc : Acc)
  /-- PWR_REQ_STANDBY (R483). -/
  | pwrReqStandby (acc : Acc)
  /-- TIM_NOW_NS (R514). -/
  | timNowNs (acc : Acc)
  /-- TIM_NTP_OK (R521). -/
  | timNtpOk (acc : Acc)
  /-- TIM_TXQ_POP (R527). -/
  | timTxqPop (acc : Acc)
  /-- MOD_BLK_DRAIN (R604). -/
  | modBlkDrain (acc : Acc) (v : Word)
  /-- MOD_BLK_RESET (R605). -/
  | modBlkReset (acc : Acc) (v : Word)
  /-- BOOT_FENCE_CLR (R613). -/
  | bootFenceClr (acc : Acc)
  /-- BOOK_CUR_NEXT (R632). -/
  | bookCurNext (acc : Acc)
  /-- BOOK_CLEAR (R635). -/
  | bookClear (acc : Acc)
  /-- DBG_FROST_FREEZE (R578). -/
  | dbgFrostFreeze (acc : Acc)
  /-- DBG_FROST_RESUME (R585). -/
  | dbgFrostResume (acc : Acc)
  /-- FROST_STOPPED (R579). -/
  | frostStopped (cut : Cut)
  /-- DBG_SCAN_DATA (R586). -/
  | dbgScanData (acc : Acc)
  /-- DBG_TRACE_DATA (R593). -/
  | dbgTraceData (acc : Acc)
  /-- NOP (R79). -/
  | nop (tag : Nat)
  /-- FENCE (R81). -/
  | fence (tag : Nat)
  /-- DMA_H2D (R112). -/
  | dmaH2d (tag flt : Nat) (bytes : List Byte)
  /-- DMA_D2H (R361). -/
  | dmaD2h (tag : Nat)
  /-- DMA_COPY (R111). -/
  | dmaCopy (tag : Nat)
  /-- DMA_FILL (R110). -/
  | dmaFill (tag : Nat)
  /-- DMA_DONE (R692). -/
  | dmaDone (tag : Nat)
  /-- HANDLE_CREATE (R113). -/
  | handleCreate (tag want : Nat)
  /-- HANDLE_FREE (R116). -/
  | handleFree (tag : Nat)
  /-- HANDLE_HINT (R114). -/
  | handleHint (tag : Nat)
  /-- HANDLE_QUERY (R115). -/
  | handleQuery (tag : Nat)
  /-- LAUNCH (R227). -/
  | launch (tag : Nat)
  /-- LAUNCH_CORE_START (R228). -/
  | launchCoreStart (tag c : Nat)
  /-- TILE_FIRE (R161). -/
  | tileFire (c : Nat)
  /-- TILE_COMPLETE (R164). -/
  | tileComplete (c i : Nat)
  /-- TOKEN_POST (R158). -/
  | tokenPost (i : Nat)
  /-- PLOT_END (R230). -/
  | plotEnd (c : Nat) (r : HartRun)
  /-- ABORT (R230). -/
  | plotAbort (c : Nat) (r : HartRun) (code : Nat)
  /-- HART_EXCEPTION (R230). -/
  | hartException (c : Nat) (r : HartRun) (cause : Nat)
  /-- COR_TI_PUSH (R235). -/
  | corTiPush (c : Nat) (r : HartRun) (line : Nat)
  /-- COR_TI_WAIT (R234). -/
  | corTiWait (c : Nat) (r : HartRun) (w : WaitLoad)
  /-- COR_TI_PWAIT (R234). -/
  | corTiPwait (c : Nat) (r : HartRun) (w : WaitLoad)
  /-- COR_TI_CNT (R234). -/
  | corTiCnt (c : Nat) (r : HartRun) (i v : Nat)
  /-- COR_TI_POOL (R234). -/
  | corTiPool (c : Nat) (r : HartRun) (i v : Nat)
  /-- LAUNCH_TIMEOUT (R232). -/
  | launchTimeout (tag : Nat)
  /-- QUANTUM_EXPIRY (R177). -/
  | quantumExpiry (c : Nat)
  /-- PREEMPT_LIMIT (R179). -/
  | preemptLimit (c : Nat)
  /-- SWAP_DONE (R182). -/
  | swapDone (c : Nat)
  /-- SEGMENT_ZEROIZE_DONE (R170). -/
  | segmentZeroizeDone (die seg : Nat)
  /-- CCLK_STEP (R37). -/
  | cclkStep (d : Nat)
  /-- PLANTER_DECAY (R118). -/
  | planterDecay
  /-- PAGE_ZEROIZE_DONE (R102). -/
  | pageZeroizeDone (tier stack : Nat)
  /-- MIGRATION_COPY_DONE (R127) of a page of a handle. -/
  | migrationCopyDone (h p : Nat)
  /-- MIGRATION_BACKOFF_END (R128). -/
  | migrationBackoffEnd (key : Nat)
  /-- PROMOTION_DONE (R123). -/
  | promotionDone (key : Nat)
  /-- PRESS_LINE_TIMEOUT (R131). -/
  | pressLineTimeout (stack h line : Nat)
  /-- STACK_TEMP_SAMPLE (R136). -/
  | stackTempSample (k temp : Nat)
  /-- STACK_LOST (R140). -/
  | stackLost (k : Nat)
  /-- UCIE_LANE_LOST (R18). -/
  | ucieLaneLost (d : Nat)
  /-- REFCLK_LOST (R39). -/
  | refclkLost
  /-- REFCLK_HOLDOVER_END (R39). -/
  | refclkHoldoverEnd
  /-- ALLREDUCE (R326). -/
  | allreduce (tag : Nat)
  /-- REDUCE_SCATTER (R330). -/
  | reduceScatter (tag : Nat)
  /-- ALLGATHER (R330). -/
  | allgather (tag : Nat)
  /-- BROADCAST (R330). -/
  | broadcast (tag : Nat)
  /-- BARRIER (R331). -/
  | barrier (tag : Nat)
  /-- CONTRIBUTION (R324). -/
  | contribution (i : Nat)
  /-- GLOBAL_PARTIAL (R326). -/
  | globalPartial (i : Nat)
  /-- GLOBAL_RESULT (R326). -/
  | globalResult (i : Nat)
  /-- GATHER_DATA (R327). -/
  | gatherData (i : Nat)
  /-- BARRIER_ENTER (R331). -/
  | barrierEnter (i : Nat)
  /-- BARRIER_RELEASE (R331). -/
  | barrierRelease (i : Nat)
  /-- COLLECTIVE_DONE (R329). -/
  | collectiveDone (tag : Nat)
  /-- COLL_TIMEOUT (R320). -/
  | collTimeout (tag : Nat)
  /-- STEP_OPEN (R341). -/
  | stepOpen (tag : Nat)
  /-- STEP_SEAL (R347). -/
  | stepSeal (tag : Nat)
  /-- STEP_RESYNC (R373). -/
  | stepResync (tag : Nat)
  /-- STEP_QUERY (R376). -/
  | stepQuery (tag : Nat)
  /-- REPORT (R351). -/
  | stepReport (i : Nat)
  /-- DRAW (R355). -/
  | stepDraw (i : Nat)
  /-- FAIL (R368). -/
  | stepFail (i : Nat)
  /-- DRAW_TIMEOUT (R369). -/
  | drawTimeout (t n : Nat)
  /-- DRAW_SPLIT_TIMEOUT (R369). -/
  | drawSplitTimeout (t n : Nat)
  /-- PREIMAGE_COPY_DONE (R360). -/
  | preimageCopyDone (h p b : Nat)
  /-- RESTORE_DONE (R370). -/
  | restoreDone (t : Nat) (bad : List (Nat × Nat × Nat))
  /-- MUST_HOLD_WRITE_DONE (R355). -/
  | mustHoldWriteDone
  /-- RACK_TAKE (R385). -/
  | rackTake (tag : Nat)
  /-- RACK_KEY (R382). -/
  | rackKey (tag : Nat)
  /-- RACK_RESTORE (R410). -/
  | rackRestore (tag : Nat)
  /-- RACK_SEED (R412). -/
  | rackSeed (tag : Nat)
  /-- RACK_QUERY (R394). -/
  | rackQuery (tag : Nat)
  /-- RACK_MARKS_DONE (R388). -/
  | rackMarksDone
  /-- RACK_COW_COPY_DONE (R389). -/
  | rackCowCopyDone (h p b : Nat)
  /-- COPY_PASS_DONE (R390). -/
  | copyPassDone (bad : Option Nat)
  /-- RACK_DRAIN_DONE (R394). -/
  | rackDrainDone (bad : Option Nat)
  /-- OFFER_REQ (R401). -/
  | graftOfferReq (i : Nat)
  /-- OFFER (R401). -/
  | graftOffer (i : Nat)
  /-- DATA (R403). -/
  | graftData (i : Nat)
  /-- COMMIT (R403). -/
  | graftCommit (i : Nat)
  /-- ACK (R403). -/
  | graftAck (i : Nat)
  /-- HASH (R400). -/
  | graftHash (i : Nat)
  /-- READ_REQ (R412). -/
  | graftReadReq (i : Nat)
  /-- READ_DATA (R410). -/
  | graftReadData (i : Nat)
  /-- HASH_COMPARE_TIMEOUT (R400). -/
  | hashCompareTimeout (i : Nat)
  /-- RESTORE_READ_TIMEOUT (R410). -/
  | restoreReadTimeout (tag : Nat)
  /-- SEED_DONOR_TIMEOUT (R412). -/
  | seedDonorTimeout (i : Nat)
  /-- WEAR_BUCKET_TICK (R418). -/
  | wearBucketTick
  /-- TENANT_ZEROIZE_DONE (R562). -/
  | tenantZeroizeDone (t : Nat)
  /-- TRIG_ARM (R536). -/
  | trigArm (tag : Nat)
  /-- TRIG_CANCEL (R538). -/
  | trigCancel (tag : Nat)
  /-- TRIGGER_FIRE (R530). -/
  | triggerFire (k : Nat)
  /-- SLEW_DONE (R518). -/
  | slewDone
  /-- TP_IN_EDGE (R519). -/
  | tpInEdge (width : Nat)
  /-- TPIN_MISS (R520). -/
  | tpinMiss
  /-- NTP_TIMEOUT (R521). -/
  | ntpTimeout
  /-- TP_OUT_FALL (R524). -/
  | tpOutFall
  /-- FLIT_RECEIVE (R273). -/
  | flitReceive (p corrected : Nat) (uncorr : Bool) (env plain : List Byte)
  /-- RETRY_TIMEOUT (R272). -/
  | retryTimeout (p : Nat)
  /-- WINDOW_RESTART (R299). -/
  | windowRestart (p : Nat)
  /-- HB_TIMER (R280). -/
  | hbTimer
  /-- LIGHT_LOST (R281). -/
  | lightLost (p : Nat)
  /-- LIGHT_STABLE (R281). -/
  | lightStable (p : Nat)
  /-- IDENTIFY (R281). -/
  | portIdentify (p peer peerPort circuit : Nat)
  /-- IDENT_TIMEOUT (R281). -/
  | identTimeout (p : Nat)
  /-- IDENTIFY_RETRY (R281). -/
  | identifyRetry (p peer peerPort circuit : Nat)
  /-- EQUALIZE_DONE (R286). -/
  | equalizeDone (p : Nat) (ok : Bool) (coef : Nat)
  /-- ALIGN_DONE (R281). -/
  | alignDone (p : Nat) (ok : Bool)
  /-- RETRAIN_DONE (R282). -/
  | retrainDone (p : Nat) (ok : Bool)
  /-- HELLO (R296). -/
  | hsHello (p : Nat)
  /-- CERT (R296). -/
  | hsCert (p : Nat)
  /-- TOKEN (R297). -/
  | hsToken (p : Nat)
  /-- VERDICT (R296). -/
  | hsVerdict (p : Nat)
  /-- WAIT (R296). -/
  | hsWait (p : Nat)
  /-- HANDSHAKE_RESEND (R296). -/
  | handshakeResend (p : Nat)
  /-- HANDSHAKE_TIMEOUT (R296). -/
  | handshakeTimeout (p : Nat)
  /-- HANDSHAKE_RESTART (R296). -/
  | handshakeRestart (p : Nat)
  /-- TOKEN_SIGN_DONE (R297). -/
  | tokenSignDone (p : Nat)
  /-- TOKEN_VERIFY_DONE (R297). -/
  | tokenVerifyDone (p : Nat)
  /-- SLOT_LOST (R302). -/
  | slotLost (b k : Nat)
  /-- MARGIN_MEASURE (R303). -/
  | marginMeasure (p lane pw eye : Nat)
  /-- COMMIT_STROBE (R423). -/
  | commitStrobe
  /-- FREEZE (R423). -/
  | cycleFreeze (done : Bool) (power energy dv : Nat) (fw : List FwOut)
  /-- IMAGE_RECEIVE (R424). -/
  | imageReceive (ok : Bool)
  /-- IMAGE_ACK (R433). -/
  | imageAck
  /-- BATCH_RECEIVE (R425). -/
  | batchReceive (intact : Bool)
  /-- PATH_SILENCE (R434). -/
  | pathSilence (owner ka : Bool)
  /-- WATCHDOG_EXPIRY (R430). -/
  | watchdogExpiry
  /-- CELLARER_UE (R430). -/
  | cellarerUe
  /-- OWN_GRANT (R429). -/
  | ownGrant
  /-- OWN_DEFAULT_TIMEOUT (R431). -/
  | ownDefaultTimeout
  /-- STANDBY_SYNC_DONE (R432). -/
  | standbySyncDone
  /-- NO_BATCH_TIMEOUT (R437). -/
  | noBatchTimeout
  /-- SVC_HEARTBEAT_TIMER (R438). -/
  | svcHeartbeatTimer
  /-- HEARTBEAT (R439). -/
  | svcHeartbeat (frame body : List Byte)
  /-- NOTICE (R438). -/
  | svcNotice (frame body : List Byte)
  /-- DIVERT (R301). -/
  | svcDivert (frame body : List Byte) (plains : List (List Byte))
  /-- ARP_REQUEST (R438). -/
  | arpRequest (src target : Nat)
  /-- NEIGHBOR_SOLICITATION (R438). -/
  | neighborSolicitation (src target : Nat)
  /-- ICMP_ECHO (R438). -/
  | icmpEcho (src target : Nat) (data : List Byte)
  /-- NTP_RESPONSE (R521). -/
  | ntpResponse (bytes : List Byte)
  /-- PEER_LINK_SILENCE (R439). -/
  | peerLinkSilence (b k : Nat)
  /-- PEER_SVC_SILENCE (R439). -/
  | peerSvcSilence (e : Nat)
  /-- PORT_TIMER_EXPIRY (R444). -/
  | portTimerExpiry (p : Nat)
  /-- WILT_MARGIN_CLEAR (R449). -/
  | wiltMarginClear (p : Nat)
  /-- FAULT_REPORT (R456). -/
  | faultReport (src unit core t h off : Nat)
  /-- FAULT_MESSAGE (R456). -/
  | faultMessage
  /-- COMPLEX_RESET_RELEASE (R457). -/
  | complexResetRelease
  /-- CORRECTED_ERROR (R461). -/
  | correctedError (u : Nat)
  /-- SCRUB_UE (R463). -/
  | scrubUe (h p b : Nat)
  /-- STRESS_HEAT_DONE (R474). -/
  | stressHeatDone (d : Nat)
  /-- STRESS_PASS_DONE (R475). -/
  | stressPassDone (d corner again : Nat)
  /-- CLAMP_ENGAGE (R488). -/
  | clampEngage (transient : Bool)
  /-- CLAMP_STEP (R488). -/
  | clampStep
  /-- CLAMP_RELEASE (R488). -/
  | clampRelease
  /-- PACING_WINDOW (R491). -/
  | pacingWindow (opens : Bool)
  /-- CAP_UNMET_TIMEOUT (R491). -/
  | capUnmetTimeout
  /-- DIE_TEMP_SAMPLE (R492). -/
  | dieTempSample (d t : Nat)
  /-- VINTAGE_READ (R497). -/
  | vintageRead (margins : List (BitVec 16))
  /-- MARGIN_SWEEP_DONE (R497). -/
  | marginSweepDone (d : Nat) (vfail : List Nat)
  /-- REPLAN_TIMER (R497). -/
  | replanTimer
  /-- IDLE_TIMER (R507). -/
  | idleTimer
  /-- DORMANT_ENTRY_DONE (R486). -/
  | dormantEntryDone
  /-- DORMANT_EXIT_DONE (R487). -/
  | dormantExitDone
  /-- OPENED_EXPIRY (R566). -/
  | openedExpiry
  /-- SERVICE_KEY_GRACE_END (R555). -/
  | serviceKeyGraceEnd
  /-- GET_VERSION (R550). -/
  | getVersion
  /-- GET_CAPABILITIES (R550). -/
  | getCapabilities
  /-- NEGOTIATE_ALGORITHMS (R550). -/
  | negotiateAlgorithms (offers : Bool)
  /-- GET_DIGESTS (R550). -/
  | getDigests
  /-- GET_CERTIFICATE (R550). -/
  | getCertificate (slot off len : Nat)
  /-- CHALLENGE (R550). -/
  | spdmChallenge (slot : Nat) (req : List Byte)
  /-- GET_MEASUREMENTS (R550). -/
  | getMeasurements (i : Nat) (sig : Bool) (req : List Byte)
  /-- KEY_EXCHANGE (R550). -/
  | keyExchange (id slot : Nat) (req : List Byte)
  /-- FINISH (R550). -/
  | spdmFinish (id : Nat) (ok : Bool)
  /-- END_SESSION (R550). -/
  | endSession (id : Nat)
  /-- SPDM_HEARTBEAT (R550). -/
  | spdmHeartbeat (id : Nat)
  /-- KEY_UPDATE (R550). -/
  | keyUpdate (id : Nat) (both : Bool)
  /-- CHUNK_SEND (R550). -/
  | chunkSend (first : Bool) (part : List Byte)
  /-- CHUNK_GET (R550). -/
  | chunkGet (off len : Nat)
  /-- QUERY (R551). -/
  | ideQuery (id : Nat)
  /-- KEY_PROG (R551). -/
  | keyProg (id k : Nat)
  /-- K_SET_GO (R551). -/
  | kSetGo (id k : Nat)
  /-- K_SET_STOP (R551). -/
  | kSetStop (id k : Nat)
  /-- GET_TDISP_VERSION (R551). -/
  | getTdispVersion (id : Nat)
  /-- GET_TDISP_CAPABILITIES (R551). -/
  | getTdispCapabilities (id : Nat)
  /-- LOCK_INTERFACE (R551). -/
  | lockInterface (id v : Nat)
  /-- GET_DEVICE_INTERFACE_REPORT (R551). -/
  | getDeviceInterfaceReport (id v : Nat)
  /-- GET_DEVICE_INTERFACE_STATE (R551). -/
  | getDeviceInterfaceState (id v : Nat)
  /-- START_INTERFACE (R551). -/
  | startInterface (id v nonce : Nat)
  /-- STOP_INTERFACE (R551). -/
  | stopInterface (id v : Nat)
  /-- TRACE_SAMPLE (R592). -/
  | traceSample (c pc : Nat) (mMode : Bool) (wait flags : Nat) (drained : Bool)
  /-- EXTEST (R594). -/
  | extest
  /-- IDCODE (R594). -/
  | idcode
  /-- SAMPLE_PRELOAD (R594). -/
  | samplePreload (pins load : Nat)
  /-- CLAMP (R594). -/
  | tapClamp
  /-- HIGHZ (R594). -/
  | highz
  /-- EXTEST_PULSE (R594). -/
  | extestPulse
  /-- EXTEST_TRAIN (R594). -/
  | extestTrain
  /-- DBG_ACCESS (R594). -/
  | dbgAccess (write : Bool) (o : Nat) (v : Word)
  /-- CAVE_DBG (R594). -/
  | caveDbg (op addr : Nat) (data : Word)
  /-- BYPASS (R594). -/
  | tapBypass
  /-- BOOT_STEP_DONE (R608). -/
  | bootStepDone (res : Nat) (ucie : Bool) (unit mask : Nat)
  /-- BOOT_STEP_LIMIT (R608). -/
  | bootStepLimit (unit mask : Nat)
  /-- DOWNLOAD (R619). -/
  | updDownload (acc : Acc)
  /-- VERIFY (R619). -/
  | updVerify (acc : Acc)
  /-- ACTIVATE (R619). -/
  | updActivate (acc : Acc)
  /-- CONFIRM (R619). -/
  | updConfirm (acc : Acc)
  /-- UPDATE_ABORT (R619). -/
  | updAbort (acc : Acc)
  /-- DOWNLOAD_DONE (R619). -/
  | downloadDone (data : List Byte)
  /-- VERIFY_DONE (R619). -/
  | verifyDone
  /-- HOURS_PERSIST (R629). -/
  | hoursPersist
  /-- KEEPALIVE_EDGE (R433). -/
  | keepaliveEdge (owner : Bool)
  /-- STANDBY_CYCLE (R433). -/
  | standbyCycle
  /-- STANDBY_BOOT_DONE (R432). -/
  | standbyBootDone
  /-- HOLD_UP_RUN_DOWN (R504). -/
  | holdUpRunDown
  /-- STANDBY_ENTRY_DONE (R483). -/
  | standbyEntryDone
  /-- TP_OUT_RISE (R524). -/
  | tpOutRise
  /-- CAVE_HEALTH_TEST_FAIL (R546). -/
  | caveHealthTestFail (d test : Nat)
  /-- IN_BAND_INTERRUPT (R670). -/
  | inBandInterrupt (target : Nat)
  /-- SCRUB_PASS_DONE (R463). -/
  | scrubPassDone (tier : Nat)
  /-- FROST_RESUME_DONE (R585). -/
  | frostResumeDone
deriving DecidableEq, Repr

end Sys2Proof
end

