-- ==== Sys2Proof/Decode.lean ====
section
/-! DEFINITION. Decode.lean: the command a word spells. The opcode table gives no row any bits (its commands are events and
register accesses), so no word spells one. -/

namespace Sys2Proof

/-- The command that `nbits` bits `w` spell: none, since the table gives no row bits. -/
def decodeTableWord (nbits w : Nat) : Option Instr := match nbits, w with | _, _ => none

end Sys2Proof
end

