-- ==== Sys2Proof/Config.lean ====
section
/-! DEFINITION. What one implementation fixes and the values the spec leaves open. Every constant here is opaque: no
proof can see a value of it. -/

namespace Sys2Proof.Config

/-- The n-th value the spec leaves open, `w` bits wide: nonces of the random generator (R568), bytes read from a
poisoned block (R694), micro-architectural words of a scan-out (R586). Applied to the plain counter `State.free`. -/
opaque freeValue (w : Nat) (n : Nat) : BitVec w

/-- SHA-384 of a list of bytes, as a number of 384 bits (Table 15.1; the algorithm is FIPS 180-4's, R8). -/
opaque sha384 : List Byte → BitVec 384

/-- Voltage in mV of CCLK step `k` of die `d` on the curve programmed at the factory (R494): the spec gives no
numbers. -/
opaque factoryVolt : Nat → Nat → Nat

/-- AES-256-GCM of a plaintext: key, counter, additional data, plaintext; the bits of the ciphertext and its 16-byte tag (R274;
the algorithm is NIST SP 800-38D's, R8). Keys are known by number only (R543). -/
opaque gcmBits (key iv : Nat) (aad text : List Byte) : BitVec (8 * (text.length + 16))

/-- A key the Cave derives (R545, R553): number of the secret, ASCII label and context; SP 800-108 counter mode with
HMAC-SHA-384, first 256 bits. -/
opaque kdf : Nat → List Byte → BitVec 256

/-- Verification of a signature under a peer's certificate chain (by its digest), message, signature (R297; the algorithm
is FIPS 186-5's, R8). -/
opaque verify : Nat → List Byte → List Byte → Bool

/-- Lifecycle code an alias certificate carries, by the digest of its chain (R549, R567). -/
opaque certLife : Nat → Nat

/-- Digest of the module's own certificate chain (Table 07.5). -/
opaque chainDigest : BitVec 384

/-- The module's certificate chain, alias certificate last (R549, Table 07.5). -/
opaque certChain : List Byte

/-- A signature the Cave makes with its alias key: ECDSA P-384 over a digest (Table 07.6). -/
opaque sign : BitVec 384 → BitVec 768

/-- Fused Vmax of a compute die in mV (R495): the spec gives no number. -/
opaque fusedVmax : Nat → Nat

/-- The key a wrapped key blob yields under the module's KEM key, none where decapsulation or the tag fails (R552; the
algorithms are FIPS 203's and SP 800-38D's, R8). -/
opaque unwrap : Nat → List Byte → Option Nat

/-- Verification of a signature (message, signature) under the fused debug authority key, ML-DSA-87 (R568), and under the
key a firmware image is signed with (R617; FIPS 204). -/
opaque authVerify : List Byte → List Byte → Bool

/-- SHA-384 of the Cave ROM (measurement 1 of Table 15.2): the spec gives no value. -/
opaque romDigest : BitVec 384

/-- Digest of image `i` of a slot's factory content (measurements 2 to 5): the spec gives no content. -/
opaque factoryDigest : Nat → Nat → BitVec 384

/-- Word `i` of the scan record of a unit in the n-th Frost, where the spec gives neither layout nor content of the section (R586). -/
opaque scanWord : Nat → Nat → Nat → BitVec 32

/-- MAC address of the service port (R438): the spec gives no number. -/
opaque svcMac : BitVec 48

/-- Counts of CCLK cycles of a core at a module time (seconds, nanoseconds): of the cycle counters 27 to 32 and 36 of Table
06.19, of set `256 * n + i` for counter i of a profile set n (R588), and 64 for the cycle CSR (R149). The model keeps no cycles. -/
opaque coreCycles (core what secs nanos : Nat) : BitVec 64

/-- How far the time CSR of a die is ahead of the time base at a module time, in ns plus 100: within 100 ns (R149). -/
opaque timeSkew (die secs nanos : Nat) : Fin 201

/-- Exponent of a row or column without a finite non-zero element, by its element bits: R245 gives its record a field the spec
gives no value. -/
opaque emptyExponent : List Nat → BitVec 16

/-- Bytes the flash controller relocates when so many bytes in all have been programmed and so many more are (R417): the spec gives no
numbers. -/
opaque relocated (total bytes : Nat) : Nat

end Sys2Proof.Config
end

