-- ==== Sys2Proof/Machine/Map.lean ====
section
/-!
DEFINITION. Machine/Map.lean: sparse tables as sorted lists of (key, value) pairs in one canonical form, the byte
memory in the same form, bit-field and byte-order helpers (R9: little-endian), and CRC-32C (R468).
-/
namespace Sys2Proof.Machine

/-- A table by number: keys strictly rising. -/
abbrev Map (α : Type) := List (Nat × α)

/-- The entry at a key, if the table lists one. -/
def Map.find {α : Type} (m : Map α) (k : Nat) : Option α :=
  match m with
  | [] => none
  | (j, v) :: r => if k = j then some v else Map.find r k

/-- The entry at a key, or `d` where the table lists none. -/
def Map.get {α : Type} (d : α) (m : Map α) (k : Nat) : α := (Map.find m k).getD d

/-- Puts an entry, keeping the keys rising. -/
def Map.put {α : Type} (m : Map α) (k : Nat) (v : α) : Map α :=
  match m with
  | [] => [(k, v)]
  | (j, w) :: r => if k < j then (k, v) :: (j, w) :: r else if k = j then (k, v) :: r else (j, w) :: Map.put r k v

/-- Removes an entry. -/
def Map.del {α : Type} (m : Map α) (k : Nat) : Map α := m.filter (fun e => decide (e.1 ≠ k))

/-- Puts `v`, where an unlisted key reads as `d`: the entry is removed when `v` is `d`. -/
def Map.set {α : Type} [DecidableEq α] (d : α) (m : Map α) (k : Nat) (v : α) : Map α :=
  if v = d then Map.del m k else Map.put m k v

/-- Changes the entry at `k`, where an unlisted key reads as `d`. -/
def Map.upd {α : Type} [DecidableEq α] (d : α) (m : Map α) (k : Nat) (f : α → α) : Map α :=
  Map.set d m k (f (Map.get d m k))

/-- Keeps the entries a test accepts. -/
def Map.keep {α : Type} (p : Nat → α → Bool) (m : Map α) : Map α := m.filter (fun e => p e.1 e.2)

/-- Changes every entry. -/
def Map.mapV {α : Type} (f : Nat → α → α) (m : Map α) : Map α := m.map (fun e => (e.1, f e.1 e.2))

/-- Keys strictly rising from `lo` on. -/
def Map.risesFrom {α : Type} (lo : Nat) : Map α → Bool
  | [] => true
  | (k, _) :: r => decide (lo ≤ k) && Map.risesFrom (k + 1) r

/-- The canonical form of a table: keys strictly rising. -/
def Map.wf {α : Type} (m : Map α) : Bool := Map.risesFrom 0 m

/-- The byte at an address; an unlisted address reads as zero (R102). -/
def memGet (m : List Host.Cell) (a : Nat) : Byte := Map.get (0 : Byte) m a
/-- Writes one byte, keeping the canonical form. -/
def memSet (m : List Host.Cell) (a : Nat) (b : Byte) : List Host.Cell := Map.set (0 : Byte) m a b
/-- `n` bytes from an address. -/
def memRead (m : List Host.Cell) (a : Nat) : Nat → List Byte
  | 0 => []
  | n + 1 => memGet m a :: memRead m (a + 1) n
/-- Writes bytes from an address on. -/
def memWrite (m : List Host.Cell) (a : Nat) : List Byte → List Host.Cell
  | [] => m
  | b :: r => memWrite (memSet m a b) (a + 1) r
/-- Every byte of a range becomes zero. -/
def memZero (m : List Host.Cell) (a n : Nat) : List Host.Cell :=
  m.filter (fun c => decide (c.1 < a) || decide (a + n ≤ c.1))
/-- Copies the `n` bytes at `src` to `dst`, the old bytes there going. -/
def memCopy (m : List Host.Cell) (src dst n : Nat) : List Host.Cell :=
  (m.filter (fun c => decide (src ≤ c.1) && decide (c.1 < src + n))).foldl
    (fun acc c => memSet acc (c.1 - src + dst) c.2) (memZero m dst n)
/-- No listed byte is zero. -/
def noZero (m : List Host.Cell) : Bool := m.all (fun c => decide (c.2 ≠ 0))
/-- The canonical form of memory: addresses strictly rising, no listed byte equal to what an unlisted one reads as. -/
def memWf (m : List Host.Cell) : Bool := Map.wf m && noZero m

/-- Bits hi down to lo of a number. -/
def bitsOf (x hi lo : Nat) : Nat := x / 2 ^ lo % 2 ^ (hi + 1 - lo)
/-- Bit i of a number. -/
def bitOf (x i : Nat) : Bool := decide (x / 2 ^ i % 2 = 1)
/-- A Bool as a bit. -/
def b2n (b : Bool) : Nat := if b then 1 else 0
/-- The field hi down to lo of a register. -/
def fldW (w : Word) (hi lo : Nat) : Nat := bitsOf w.toNat hi lo
/-- Bit i of a register. -/
def bitW (w : Word) (i : Nat) : Bool := bitOf w.toNat i
/-- A number as a register. -/
def wordOf (n : Nat) : Word := BitVec.ofNat 32 n
/-- Little-endian bytes of a number (R9). -/
def leB (n x : Nat) : List Byte :=
  match n with
  | 0 => []
  | k + 1 => BitVec.ofNat 8 x :: leB k (x / 256)
/-- The number little-endian bytes spell (R9). -/
def ofLe : List Byte → Nat
  | [] => 0
  | b :: r => b.toNat + 256 * ofLe r
/-- The n bytes at offset `off` of a structure, as a number. -/
def fieldAt (d : List Byte) (off n : Nat) : Nat := ofLe ((d.drop off).take n)
/-- `n` zero bytes. -/
def zeros (n : Nat) : List Byte := List.replicate n 0
/-- Adds with saturation at all ones of `w` bits. -/
def satAdd (w x n : Nat) : Nat := min (x + n) (2 ^ w - 1)
/-- True when `x` is a member. -/
def memb (x : Nat) (l : List Nat) : Bool := l.contains x
/-- Adds a member once, at the end. -/
def addOnce (x : Nat) (l : List Nat) : List Nat := if memb x l then l else l ++ [x]
/-- Removes a member. -/
def without (x : Nat) (l : List Nat) : List Nat := l.filter (fun y => decide (y ≠ x))
/-- Replaces the element at a position. -/
def setAt {α : Type} (l : List α) (i : Nat) (x : α) : List α := l.set i x
/-- Changes the element at a position. -/
def modAt {α : Type} (l : List α) (i : Nat) (f : α → α) : List α := l.modify i f

/-- One bit of the CRC-32C shift register, reflected polynomial 0x82F63B78 (R468). -/
def crcBit (c : BitVec 32) : BitVec 32 :=
  if c.getLsbD 0 then (c >>> 1) ^^^ 0x82F63B78#32 else c >>> 1
/-- One byte of CRC-32C. -/
def crcByte (c : BitVec 32) (b : Byte) : BitVec 32 :=
  crcBit (crcBit (crcBit (crcBit (crcBit (crcBit (crcBit (crcBit (c ^^^ b.setWidth 32))))))))
/-- CRC-32C of bytes: initial value all ones, result inverted (R468). -/
def crc32c (bs : List Byte) : BitVec 32 := ~~~ (bs.foldl crcByte 0xFFFFFFFF#32)

end Sys2Proof.Machine
end

