-- ==== Sys2Proof/Machine/Arith.lean ====
section
/-!
DEFINITION. Machine/Arith.lean: exact binary values, the rounding modes of R204 and R205, the element formats of
Table 05.1 and Table 05.3, the accumulation of R199 to R201 and the output conversions of Table 05.6.
Every value is exact (a sign, a Nat magnitude, an Int exponent) until one of the rounding points of R202.
-/
namespace Sys2Proof.Machine

/-- An exact value before rounding: a signed magnitude times a power of two, an infinity or NaN (R193). -/
inductive Val where
  | fin (neg : Bool) (mag : Nat) (exp : Int)
  | inf (neg : Bool)
  | nan
deriving DecidableEq, Repr

/-- The arithmetic flags of Table 05.12, one Bool each. -/
structure AFlags where
  nanIn : Bool := false
  ovf : Bool := false
  sat : Bool := false
  dfSpecial : Bool := false
  dfRange : Bool := false
  brlRange : Bool := false
  intWrap : Bool := false
deriving DecidableEq, Repr

/-- Sticky union of two flag sets (R221). -/
def AFlags.or (a b : AFlags) : AFlags :=
  { nanIn := a.nanIn || b.nanIn, ovf := a.ovf || b.ovf, sat := a.sat || b.sat,
    dfSpecial := a.dfSpecial || b.dfSpecial, dfRange := a.dfRange || b.dfRange,
    brlRange := a.brlRange || b.brlRange, intWrap := a.intWrap || b.intWrap }

/-- The flags as the byte of Table 05.12 (bit 7 reserved, zero). -/
def AFlags.toByte (a : AFlags) : BitVec 8 :=
  BitVec.ofNat 8 (a.nanIn.toNat + 2 * a.ovf.toNat + 4 * a.sat.toNat + 8 * a.dfSpecial.toNat
    + 16 * a.dfRange.toNat + 32 * a.brlRange.toNat + 64 * a.intWrap.toNat)

/-- `m · 2^e` brought to the integer grid `2^q`, truncated toward zero. -/
def gridTrunc (m : Nat) (e q : Int) : Nat :=
  if q ≤ e then m * 2 ^ (e - q).toNat else m / 2 ^ (q - e).toNat

/-- floor(log2 of `m · 2^e`) for a non-zero `m`. -/
def floorLog2 (m : Nat) (e : Int) : Int := (Nat.log2 m : Int) + e

/-- The three rounding modes of Table 06.9; `sr r` carries the 32 bits drawn by R205. -/
inductive Rnd where
  | rne
  | rtz
  | sr (r : Nat)
deriving DecidableEq, Repr

/-- Whether a truncated value moves away from zero: `lo` is the truncated integer, `rem / 2^sh` the part cut off
(R204, R205). -/
def Rnd.up (mode : Rnd) (lo rem sh : Nat) : Bool :=
  match mode with
  | .rne => decide (2 ^ sh < 2 * rem) || (decide (2 * rem = 2 ^ sh) && decide (lo % 2 = 1))
  | .rtz => false
  | .sr r => decide (r < (2 ^ 32 * rem) / 2 ^ sh)

/-- `m · 2^e` rounded in `mode` to an integer multiple of `2^q`. -/
def roundGrid (mode : Rnd) (m : Nat) (e q : Int) : Nat :=
  if q ≤ e then m * 2 ^ (e - q).toNat
  else
    let sh := (q - e).toNat
    let lo := m / 2 ^ sh
    if mode.up lo (m % 2 ^ sh) sh then lo + 1 else lo

/-- A binary floating-point target: significand width with the hidden bit, exponent of the lowest bit of a subnormal,
total width, encoding of the largest finite magnitude, encoding of infinity (none for FP8 E4M3), canonical NaN (R200). -/
structure FpFmt where
  p : Nat
  qmin : Int
  width : Nat
  maxBits : Nat
  infBits : Option Nat
  nanBits : Nat
deriving DecidableEq, Repr

def fp64 : FpFmt := ⟨53, -1074, 64, 0x7FEFFFFFFFFFFFFF, some 0x7FF0000000000000, 0x7FF8000000000000⟩
def fp32 : FpFmt := ⟨24, -149, 32, 0x7F7FFFFF, some 0x7F800000, 0x7FC00000⟩
def bf16 : FpFmt := ⟨8, -133, 16, 0x7F7F, some 0x7F80, 0x7FC0⟩
def fp16 : FpFmt := ⟨11, -24, 16, 0x7BFF, some 0x7C00, 0x7E00⟩
def e5m2 : FpFmt := ⟨3, -16, 8, 0x7B, some 0x7C, 0x7E⟩
def e4m3 : FpFmt := ⟨4, -9, 8, 0x7E, none, 0x7F⟩

/-- Encoding of the magnitude rounded in `mode` with no bound on the exponent above: consecutive encodings are
consecutive values, so one comparison with `maxBits` is the overflow condition of R203. -/
def FpFmt.roundMag (f : FpFmt) (mode : Rnd) (m : Nat) (e : Int) : Nat :=
  if m = 0 then 0
  else
    let q := max f.qmin (floorLog2 m e + 1 - (f.p : Int))
    roundGrid mode m e q + (q - f.qmin).toNat * 2 ^ (f.p - 1)

def FpFmt.withSign (f : FpFmt) (neg : Bool) (mag : Nat) : Nat :=
  if neg then mag + 2 ^ (f.width - 1) else mag

/-- Rounding of an exact value to a format with the range handling of Table 05.6 and R240. -/
def FpFmt.encode (f : FpFmt) (mode : Rnd) (v : Val) : Nat × AFlags :=
  match v with
  | .nan => (f.nanBits, {})
  | .inf neg =>
    match f.infBits with
    | some b => (f.withSign neg b, {})
    | none => (f.withSign neg f.maxBits, { sat := true })
  | .fin neg m e =>
    let mag := f.roundMag mode m e
    if mag ≤ f.maxBits then (f.withSign neg mag, {})
    else
      match f.infBits, mode with
      | some b, .rne => (f.withSign neg b, { ovf := true })
      | _, _ => (f.withSign neg f.maxBits, { sat := true })

/-- Exact decoding of a format's bits (R193). -/
def FpFmt.decode (f : FpFmt) (bits : Nat) : Val :=
  let neg := decide ((bits / 2 ^ (f.width - 1)) % 2 = 1)
  let mag := bits % 2 ^ (f.width - 1)
  let field := mag / 2 ^ (f.p - 1)
  let m := mag % 2 ^ (f.p - 1)
  match f.infBits with
  | some b =>
    if mag = b then .inf neg
    else if b < mag then .nan
    else if field = 0 then .fin neg m f.qmin
    else .fin neg (m + 2 ^ (f.p - 1)) (f.qmin + (field : Int) - 1)
  | none =>
    if mag = f.nanBits then .nan
    else if field = 0 then .fin neg m f.qmin
    else .fin neg (m + 2 ^ (f.p - 1)) (f.qmin + (field : Int) - 1)

/-- Two's complement reading of `n` bits. -/
def toSigned (n bits : Nat) : Int :=
  if bits % 2 ^ n < 2 ^ (n - 1) then (bits % 2 ^ n : Nat) else (bits % 2 ^ n : Nat) - (2 : Int) ^ n

/-- Two's complement writing of an Int in `n` bits. -/
def ofSigned (n : Nat) (v : Int) : Nat := (v % ((2 : Int) ^ n)).toNat

def Val.ofInt (v : Int) (e : Int) : Val := .fin (decide (v < 0)) v.natAbs e

/-- The signed integer of a finite value on the grid `2^q`; exact when `q` is at or below its exponent. -/
def signedOn (neg : Bool) (m : Nat) (e q : Int) : Int :=
  if neg then - (gridTrunc m e q : Int) else (gridTrunc m e q : Int)

/-- IEEE 754 addition, rounded once to FP32 with RNE: the exact zero sum is +0 unless both addends are −0 (R199, R200). -/
def addFp32 (acc : Nat) (s : Val) : Nat × AFlags :=
  match fp32.decode acc, s with
  | .nan, _ => (fp32.nanBits, {})
  | _, .nan => (fp32.nanBits, {})
  | .inf a, .inf b => if a = b then (fp32.withSign a 0x7F800000, {}) else (fp32.nanBits, {})
  | .inf a, .fin _ _ _ => (fp32.withSign a 0x7F800000, {})
  | .fin _ _ _, .inf b => (fp32.withSign b 0x7F800000, {})
  | .fin na ma ea, .fin nb mb eb =>
    let q := min ea eb
    let t := signedOn na ma ea q + signedOn nb mb eb q
    if t = 0 then (fp32.withSign (na && nb && decide (ma = 0) && decide (mb = 0)) 0, {})
    else fp32.encode .rne (Val.ofInt t q)

/-! Element formats (Table 05.1). -/

/-- Class of an operand format in Table 05.2. -/
inductive FmtClass where
  | int8 | int4 | f8 | small | half | none
deriving DecidableEq, Repr

/-- One committed trellis format table: FMT_CFG and FMT_ENTRY words (R196, Table 05.5). -/
structure FmtTable where
  cfg : Nat
  entry : Nat → Nat

def FmtTable.valid (t : FmtTable) : Bool := decide (t.cfg / 2 ^ 31 % 2 = 1)
def FmtTable.global (t : FmtTable) : Bool := decide (t.cfg / 2 ^ 30 % 2 = 1)
def FmtTable.tenant (t : FmtTable) : Nat := t.cfg / 2 ^ 12 % 4096
def FmtTable.width (t : FmtTable) : Nat := t.cfg / 2 ^ 8 % 4
def FmtTable.mx (t : FmtTable) : Bool := decide (t.cfg % 2 = 1)

/-- Format class of a code; a trellis code takes the class its table's width gives it. -/
def fmtClass (code : Nat) (tbl : FmtTable) : FmtClass :=
  if code = 0x00 then .int8
  else if code = 0x01 then .int4
  else if code = 0x02 ∨ code = 0x03 ∨ code = 0x04 ∨ code = 0x05 ∨ code = 0x09 then .f8
  else if code = 0x06 ∨ code = 0x07 ∨ code = 0x08 then .small
  else if code = 0x0A ∨ code = 0x0B then .half
  else if 0x10 ≤ code ∧ code ≤ 0x1F then (if tbl.width = 2 then .f8 else .small)
  else .none

/-- Bits one element takes in memory (R242): 4-bit elements two per byte, 6- and 8-bit one per byte, 16-bit in two. -/
def fmtBits (code : Nat) (tbl : FmtTable) : Nat :=
  if code = 0x01 ∨ code = 0x08 then 4
  else if code = 0x06 ∨ code = 0x07 then 6
  else if code = 0x0A ∨ code = 0x0B then 16
  else if 0x10 ≤ code ∧ code ≤ 0x1F then (if tbl.width = 0 then 4 else if tbl.width = 1 then 6 else 8)
  else 8

/-- Whether the format takes E8M0 block scales (R194, Table 05.5). -/
def fmtScaled (code : Nat) (tbl : FmtTable) : Bool :=
  decide (0x04 ≤ code ∧ code ≤ 0x09) || (decide (0x10 ≤ code ∧ code ≤ 0x1F) && tbl.mx)

/-- A small float of Table 05.1: significand bits below the hidden one, exponent bits, exponent offset of a normal. -/
def smallFloat (bits mbits ebits : Nat) (off : Int) : Val :=
  let neg := decide (bits / 2 ^ (mbits + ebits) % 2 = 1)
  let e := bits / 2 ^ mbits % 2 ^ ebits
  let m := bits % 2 ^ mbits
  if e = 0 then .fin neg m (off + 1) else .fin neg (2 ^ mbits + m) ((e : Int) + off)

/-- The internal element form of a code's bits, before its block scale (R193, Table 05.1, Table 05.3). -/
def decodeElem (code : Nat) (tbl : FmtTable) (bits : Nat) : Val :=
  if code = 0x00 then Val.ofInt (toSigned 8 bits) 0
  else if code = 0x01 then Val.ofInt (toSigned 4 bits) 0
  else if code = 0x02 ∨ code = 0x04 then e4m3.decode (bits % 256)
  else if code = 0x03 ∨ code = 0x05 then e5m2.decode (bits % 256)
  else if code = 0x06 then smallFloat (bits % 64) 3 2 (-4)
  else if code = 0x07 then smallFloat (bits % 64) 2 3 (-5)
  else if code = 0x08 then smallFloat (bits % 16) 1 2 (-2)
  else if code = 0x09 then Val.ofInt (toSigned 8 bits) (-6)
  else if code = 0x0A then bf16.decode (bits % 65536)
  else if code = 0x0B then fp16.decode (bits % 65536)
  else
    let w := tbl.entry (bits % 2 ^ fmtBits code tbl)
    if w / 2 ^ 31 % 2 = 1 then .nan
    else if w / 2 ^ 30 % 2 = 1 then .inf (decide (w / 2 ^ 16 % 2 = 1))
    else .fin (decide (w / 2 ^ 16 % 2 = 1)) (w / 256 % 256) (toSigned 8 w)

/-- A decoded element with its E8M0 block scale applied; a scale of 0xFF makes it NaN (R194). -/
def scaleElem (v : Val) (scale : Option Nat) : Val :=
  match scale with
  | none => v
  | some x =>
    if x = 0xFF then .nan
    else match v with
      | .fin n m e => .fin n m (e + (x : Int) - 127)
      | w => w

/-- Path of an operand pairing of Table 05.2: the integer path or the float path, whether two multiply-accumulates run
per cell per cycle, and the cycles per activation row r of R152. -/
structure Pairing where
  integer : Bool
  two : Bool
  r : Nat
deriving DecidableEq, Repr

def pairing (a b : FmtClass) : Option Pairing :=
  match a, b with
  | .int8, .int8 => some ⟨true, false, 1⟩
  | .int8, .int4 => some ⟨true, false, 1⟩
  | .int4, .int8 => some ⟨true, false, 1⟩
  | .int4, .int4 => some ⟨true, true, 1⟩
  | .f8, .f8 => some ⟨false, false, 1⟩
  | .f8, .small => some ⟨false, false, 1⟩
  | .small, .f8 => some ⟨false, false, 1⟩
  | .small, .small => some ⟨false, true, 1⟩
  | .half, .half => some ⟨false, false, 2⟩
  | _, _ => none

/-- One exact product of the float path (R199 step 1, R200). -/
def mulVal (a b : Val) : Val :=
  match a, b with
  | .nan, _ => .nan
  | _, .nan => .nan
  | .inf x, .inf y => .inf (xor x y)
  | .inf x, .fin y m _ => if m = 0 then .nan else .inf (xor x y)
  | .fin x m _, .inf y => if m = 0 then .nan else .inf (xor x y)
  | .fin x m e, .fin y n f => .fin (xor x y) (m * n) (e + f)

/-- The largest floor(log2) over the non-zero finite products of a block (R199 step 2). -/
def maxLog2 : List Val → Option Int
  | [] => none
  | .fin _ m e :: rest =>
    if m = 0 then maxLog2 rest
    else match maxLog2 rest with
      | none => some (floorLog2 m e)
      | some k => some (max k (floorLog2 m e))
  | _ :: rest => maxLog2 rest

/-- Exact sum of the products of a block, each truncated toward zero to a multiple of `2^q` (R199 steps 3 and 4). -/
def sumOnGrid (q : Int) : List Val → Int
  | [] => 0
  | .fin n m e :: rest => signedOn n m e q + sumOnGrid q rest
  | _ :: rest => sumOnGrid q rest

/-- The block sum S_b of R199 with the special values of R200. -/
def blockSum (ps : List Val) : Val :=
  let pinf := ps.any (fun p => p == Val.inf false)
  let ninf := ps.any (fun p => p == Val.inf true)
  if ps.any (fun p => p == Val.nan) || (pinf && ninf) then .nan
  else if pinf then .inf false
  else if ninf then .inf true
  else match maxLog2 ps with
    | none => .fin false 0 0
    | some e => Val.ofInt (sumOnGrid (e - 41) ps) (e - 41)

/-- One int32 addition of the integer path: the wrapped sum, and whether the exact sum left the int32 range (R201). -/
def addInt32 (a b : Int) : Int × Bool :=
  let t := a + b
  (toSigned 32 (ofSigned 32 t), decide (t < -(2 ^ 31)) || decide ((2 ^ 31 : Int) ≤ t))

/-! Output conversions and stochastic rounding. -/

/-- The 32 bits of R205, from the job seed, the plot index, the element index and the conversion number. -/
def srBits (seed plot elem conv : Nat) : Nat :=
  let m := 2 ^ 64
  let z0 := (seed % m) ^^^ ((conv % 256) * 2 ^ 56)
  let z1 := (z0 + (((plot % 2 ^ 32) * 2 ^ 32 + elem % 2 ^ 32) * 0x9E3779B97F4A7C15)) % m
  let z2 := ((z1 ^^^ (z1 / 2 ^ 30)) * 0xBF58476D1CE4E5B9) % m
  let z3 := ((z2 ^^^ (z2 / 2 ^ 27)) * 0x94D049BB133111EB) % m
  let z4 := z3 ^^^ (z3 / 2 ^ 31)
  z4 / 2 ^ 32

/-- A signed exact value rounded to an integer in `mode` (R215, BRL-16 to int32). -/
def roundInt (mode : Rnd) (neg : Bool) (m : Nat) (e : Int) : Int :=
  let r := roundGrid mode m e 0
  if neg then - (r : Int) else (r : Int)

/-- Saturation to an `n`-bit signed integer, with SAT. -/
def satInt (n : Nat) (v : Int) : Nat × AFlags :=
  if v < -(2 : Int) ^ (n - 1) then (2 ^ (n - 1), { sat := true })
  else if (2 : Int) ^ (n - 1) ≤ v then (2 ^ (n - 1) - 1, { sat := true })
  else (ofSigned n v, {})

end Sys2Proof.Machine
end

