-- ==== Sys2Proof/Machine/Barrel.lean ====
section
/-!
DEFINITION. Machine/Barrel.lean: the Barrel formats (R213 to R216), Cuvée-64 (R217 to R220) and the value kinds and
conversions of Tables 06.8 and 06.9.
-/
namespace Sys2Proof.Machine

/-- State of a Barrel or Cuvée sum (R214, Table 05.11). -/
inductive SumState where
  | finite | pinf | ninf | nan | range
deriving DecidableEq, Repr

/-- A Barrel: its state and, when finite, its value in units of the LSB weight. -/
structure Barrel where
  st : SumState
  v : Int
deriving DecidableEq, Repr

/-- A Barrel format of Table 05.10: value bits, LSB exponent offset L, bytes in memory. -/
structure BrlFmt where
  bits : Nat
  lsb : Nat
  size : Nat
deriving DecidableEq, Repr

def brl16 : BrlFmt := ⟨96, 24, 16⟩
def brl32 : BrlFmt := ⟨320, 150, 48⟩
def brl64 : BrlFmt := ⟨2176, 1100, 280⟩

/-- Whether an integer is representable in the format's value bits. -/
def BrlFmt.fits (f : BrlFmt) (v : Int) : Bool :=
  decide (-(2 : Int) ^ (f.bits - 1) ≤ v) && decide (v < (2 : Int) ^ (f.bits - 1))

/-- A value entering a Barrel; accepted finite inputs are multiples of the LSB weight, so the entry is exact (R214). -/
def BrlFmt.ofVal (f : BrlFmt) (v : Val) : Barrel :=
  match v with
  | .nan => ⟨.nan, 0⟩
  | .inf true => ⟨.ninf, 0⟩
  | .inf false => ⟨.pinf, 0⟩
  | .fin n m e =>
    let x := signedOn n m e (-(f.lsb : Int))
    if f.fits x then ⟨.finite, x⟩ else ⟨.range, 0⟩

/-- State of a sum of several values: the first of R214's cases that applies, before the range of the sum is known. -/
def sumState (l : List SumState) : SumState :=
  if l.any (· == .nan) || (l.any (· == .pinf) && l.any (· == .ninf)) then .nan
  else if l.any (· == .pinf) then .pinf
  else if l.any (· == .ninf) then .ninf
  else if l.any (· == .range) then .range
  else .finite

/-- Exact Barrel sum (R214). -/
def BrlFmt.sum (f : BrlFmt) (l : List Barrel) : Barrel :=
  match sumState (l.map (·.st)) with
  | .finite =>
    let t := (l.map (·.v)).foldl (· + ·) 0
    if f.fits t then ⟨.finite, t⟩ else ⟨.range, 0⟩
  | s => ⟨s, 0⟩

/-- The value of a Barrel as an exact value. -/
def BrlFmt.val (f : BrlFmt) (b : Barrel) : Val := Val.ofInt b.v (-(f.lsb : Int))

def sumStateCode : SumState → Nat
  | .finite => 0
  | .pinf => 1
  | .ninf => 2
  | .nan => 3
  | .range => 4

/-- Memory form of a Barrel: value bytes, state byte, reserved bytes zero (R213). -/
def BrlFmt.toBytes (f : BrlFmt) (b : Barrel) : List (BitVec 8) :=
  leB (f.bits / 8) (ofSigned f.bits b.v) ++ [BitVec.ofNat 8 (sumStateCode b.st)]
    ++ List.replicate (f.size - f.bits / 8 - 1) 0

/-- Reading of a Barrel; a state byte above 4 is NaN and sets NAN_IN (R214). -/
def BrlFmt.ofBytes (f : BrlFmt) (bs : List (BitVec 8)) : Barrel × AFlags :=
  let v := toSigned f.bits (ofLe (bs.take (f.bits / 8)))
  match (bs.getD (f.bits / 8) 0).toNat with
  | 0 => (⟨.finite, v⟩, {})
  | 1 => (⟨.pinf, 0⟩, {})
  | 2 => (⟨.ninf, 0⟩, {})
  | 3 => (⟨.nan, 0⟩, {})
  | 4 => (⟨.range, 0⟩, {})
  | _ => (⟨.nan, 0⟩, { nanIn := true })

/-- The encoding of a rounded result with a zero written as +0: a Barrel holds one zero (R209, R214). -/
def FpFmt.encodeSum (f : FpFmt) (mode : Rnd) (v : Val) : Nat × AFlags :=
  let r := f.encode mode v
  if r.1 = 2 ^ (f.width - 1) then (0, r.2) else r

/-- Rounding of a sum once to a floating-point target (R215, R220). -/
def roundSum (st : SumState) (v : Val) (tgt : FpFmt) (mode : Rnd) : Nat × AFlags :=
  match st with
  | .finite => tgt.encodeSum mode v
  | .pinf => tgt.encode mode (.inf false)
  | .ninf => tgt.encode mode (.inf true)
  | .nan => (tgt.nanBits, {})
  | .range => (tgt.nanBits, { brlRange := true })

/-- BRL-16 to int32 (R215). -/
def roundSumInt (st : SumState) (v : Val) (mode : Rnd) : Nat × AFlags :=
  match st, v with
  | .finite, .fin n m e => satInt 32 (roundInt mode n m e)
  | .pinf, _ => (2 ^ 31 - 1, { sat := true })
  | .ninf, _ => (2 ^ 31, { sat := true })
  | .range, _ => (0, { sat := true, brlRange := true })
  | _, _ => (0, { sat := true })

/-! Trimmed wire encoding (R216). -/

/-- The `n` 16-bit words of a two's complement value, lowest first. -/
def words16 : Nat → Nat → List Nat
  | 0, _ => []
  | n + 1, v => v % 65536 :: words16 n (v / 65536)

/-- Number of words left after dropping top words that repeat bit 15 of the word below them, and a lone zero word. -/
def trimTop : List Nat → List Nat
  | [] => []
  | [w] => if w = 0 then [] else [w]
  | top :: below :: rest =>
    if (top = 0 ∧ below < 32768) ∨ (top = 65535 ∧ 32768 ≤ below) then trimTop (below :: rest)
    else top :: below :: rest

/-- Leading zero words dropped, with their count. -/
def trimLow : List Nat → Nat × List Nat
  | [] => (0, [])
  | w :: rest => if w = 0 then ((trimLow rest).1 + 1, (trimLow rest).2) else (0, w :: rest)

/-- The unique minimal wire form of a Barrel (R216). -/
def BrlFmt.trim (f : BrlFmt) (b : Barrel) : List (BitVec 8) :=
  match b.st with
  | .finite =>
    let ws := (trimTop (words16 (f.bits / 16) (ofSigned f.bits b.v)).reverse).reverse
    let low := trimLow ws
    let lo := if low.2 = [] then 0 else low.1
    [BitVec.ofNat 8 lo, BitVec.ofNat 8 low.2.length] ++ low.2.flatMap (leB 2 ·)
  | st => [BitVec.ofNat 8 (sumStateCode st), 0xFF]

/-! Cuvée-64 (R217 to R220). -/

/-- A Cuvée value: state, grid bin k of bin_0, and the three bins. -/
structure Cuvee where
  st : SumState
  k : Nat
  b0 : Int
  b1 : Int
  b2 : Int
deriving DecidableEq, Repr

def Cuvee.special (s : SumState) : Cuvee := ⟨s, 0, 0, 0, 0⟩
def Cuvee.bin (c : Cuvee) : Nat → Int
  | 0 => c.b0
  | 1 => c.b1
  | 2 => c.b2
  | _ => 0

/-- chunk_g of a finite value: its part on grid bin `g` (R217). -/
def cuveeChunk (neg : Bool) (m : Nat) (e : Int) (g : Int) : Int :=
  if g < 0 then 0
  else
    signedOn neg m e (40 * g - 1120) - (2 : Int) ^ 40 * signedOn neg m e (40 * (g + 1) - 1120)

/-- from_fp64 of R219, with the special codes of Table 05.11. -/
def Cuvee.ofVal (v : Val) : Cuvee :=
  match v with
  | .nan => Cuvee.special .nan
  | .inf true => Cuvee.special .ninf
  | .inf false => Cuvee.special .pinf
  | .fin n m e =>
    if m = 0 then ⟨.finite, 0, 0, 0, 0⟩
    else
      let k := (floorLog2 m e + 1120) / 40
      ⟨.finite, k.toNat, cuveeChunk n m e k, cuveeChunk n m e (k - 1), cuveeChunk n m e (k - 2)⟩

def inInt64 (v : Int) : Bool := decide (-(2 : Int) ^ 63 ≤ v) && decide (v < (2 : Int) ^ 63)

/-- Bin `f` of `c` seen from a window whose bin_0 is grid bin `k` (R219). -/
def Cuvee.shifted (c : Cuvee) (k f : Nat) : Int :=
  if k - c.k ≤ f then c.bin (f - (k - c.k)) else 0

/-- Addition of two Cuvée values (R219); a bin outside int64 gives RANGE. -/
def Cuvee.add (a b : Cuvee) : Cuvee :=
  match sumState [a.st, b.st] with
  | .finite =>
    let k := max a.k b.k
    let c0 := a.shifted k 0 + b.shifted k 0
    let c1 := a.shifted k 1 + b.shifted k 1
    let c2 := a.shifted k 2 + b.shifted k 2
    if inInt64 c0 && inInt64 c1 && inInt64 c2 then ⟨.finite, k, c0, c1, c2⟩ else Cuvee.special .range
  | s => Cuvee.special s

def Cuvee.sum : List Cuvee → Cuvee
  | [] => ⟨.finite, 0, 0, 0, 0⟩
  | c :: rest => rest.foldl Cuvee.add c

/-- Exact value of a finite Cuvée (R218). -/
def Cuvee.val (c : Cuvee) : Val :=
  let q : Int := 40 * ((c.k : Int) - 2) - 1120
  Val.ofInt (c.b0 * 2 ^ 80 + c.b1 * 2 ^ 40 + c.b2) q

def Cuvee.toBytes (c : Cuvee) : List (BitVec 8) :=
  let code := match c.st with
    | .finite => c.k
    | .range => 0xFC
    | .ninf => 0xFD
    | .pinf => 0xFE
    | .nan => 0xFF
  BitVec.ofNat 8 code :: (leB 8 (ofSigned 64 c.b0) ++ leB 8 (ofSigned 64 c.b1) ++ leB 8 (ofSigned 64 c.b2))

/-- Reading of a Cuvée-64; an unused k is NaN and sets NAN_IN (R218). -/
def Cuvee.ofBytes (bs : List (BitVec 8)) : Cuvee × AFlags :=
  let k := (bs.getD 0 0).toNat
  let b (i : Nat) := toSigned 64 (ofLe ((bs.drop (1 + 8 * i)).take 8))
  if k ≤ 53 then (⟨.finite, k, b 0, b 1, b 2⟩, {})
  else if k = 0xFC then (Cuvee.special .range, {})
  else if k = 0xFD then (Cuvee.special .ninf, {})
  else if k = 0xFE then (Cuvee.special .pinf, {})
  else if k = 0xFF then (Cuvee.special .nan, {})
  else (Cuvee.special .nan, { nanIn := true })

/-! Value kinds (Table 06.8) and conversions (Table 06.9). -/

inductive Kind where
  | int8 | e4m3 | e5m2 | bf16 | fp16 | fp32 | fp64 | int32 | brl16 | brl32 | brl64 | cuvee
deriving DecidableEq, Repr

def kindOf (code : Nat) : Option Kind :=
  if code = 0x00 then some .int8
  else if code = 0x02 then some .e4m3
  else if code = 0x03 then some .e5m2
  else if code = 0x0A then some .bf16
  else if code = 0x0B then some .fp16
  else if code = 0x0C then some .fp32
  else if code = 0x0D then some .fp64
  else if code = 0x20 then some .int32
  else if code = 0x21 then some .brl16
  else if code = 0x22 then some .brl32
  else if code = 0x23 then some .brl64
  else if code = 0x24 then some .cuvee
  else none

def Kind.bytes : Kind → Nat
  | .int8 => 1
  | .e4m3 => 1
  | .e5m2 => 1
  | .bf16 => 2
  | .fp16 => 2
  | .fp32 => 4
  | .fp64 => 8
  | .int32 => 4
  | .brl16 => 16
  | .brl32 => 48
  | .brl64 => 280
  | .cuvee => 25

def Kind.fp : Kind → Option FpFmt
  | .e4m3 => some Machine.e4m3
  | .e5m2 => some Machine.e5m2
  | .bf16 => some Machine.bf16
  | .fp16 => some Machine.fp16
  | .fp32 => some Machine.fp32
  | .fp64 => some Machine.fp64
  | _ => none

def Kind.brl : Kind → Option BrlFmt
  | .brl16 => some Machine.brl16
  | .brl32 => some Machine.brl32
  | .brl64 => some Machine.brl64
  | _ => none

/-- Whether Table 06.9 permits a conversion with the rnd code given (0 RNE, 1 RTZ, 2 SR). -/
def convPermitted (src dst : Kind) (rnd : Nat) : Bool :=
  match src, dst with
  | .fp32, .fp32 => decide (rnd ≤ 2)
  | .fp32, .bf16 => decide (rnd ≤ 2)
  | .fp32, .fp16 => decide (rnd ≤ 2)
  | .fp32, .e4m3 => decide (rnd ≤ 2)
  | .fp32, .e5m2 => decide (rnd ≤ 2)
  | .fp32, .brl32 => decide (rnd ≤ 2)
  | .fp32, .brl64 => decide (rnd ≤ 2)
  | .int32, .int32 => decide (rnd = 0)
  | .int32, .int8 => decide (rnd = 0)
  | .int32, .fp32 => decide (rnd = 0)
  | .int32, .brl16 => decide (rnd = 0)
  | .fp64, .brl64 => decide (rnd = 0)
  | .fp64, .cuvee => decide (rnd = 0)
  | .brl16, .int32 => decide (rnd ≤ 2)
  | .brl16, .fp32 => decide (rnd ≤ 2)
  | .brl16, .fp16 => decide (rnd ≤ 2)
  | .brl16, .bf16 => decide (rnd ≤ 2)
  | .brl32, .fp32 => decide (rnd ≤ 2)
  | .brl32, .bf16 => decide (rnd ≤ 2)
  | .brl32, .fp16 => decide (rnd ≤ 2)
  | .brl32, .e4m3 => decide (rnd ≤ 2)
  | .brl32, .e5m2 => decide (rnd ≤ 2)
  | .brl64, .fp64 => decide (rnd ≤ 2)
  | .brl64, .fp32 => decide (rnd ≤ 2)
  | .cuvee, .fp64 => decide (rnd = 0)
  | _, _ => false

/-- The exact value of an element of a source kind, its sum state (finite for the plain kinds), and the flags its
reading sets. -/
def readKind (k : Kind) (bs : List (BitVec 8)) : SumState × Val × AFlags :=
  match k.fp, k.brl with
  | some f, _ => (.finite, f.decode (ofLe bs), {})
  | _, some f =>
    let r := f.ofBytes bs
    (r.1.st, f.val r.1, r.2)
  | _, _ =>
    match k with
    | .cuvee =>
      let r := Cuvee.ofBytes bs
      (r.1.st, r.1.val, r.2)
    | .int8 => (.finite, Val.ofInt (toSigned 8 (ofLe bs)) 0, {})
    | _ => (.finite, Val.ofInt (toSigned 32 (ofLe bs)) 0, {})

/-- The bytes of an element written in a target kind, from an exact value and its sum state (Table 05.6, Table 06.9,
R214, R215, R219). `isSum` marks a Barrel or Cuvée source. -/
def writeKind (k : Kind) (isSum : Bool) (st : SumState) (v : Val) (mode : Rnd) : List (BitVec 8) × AFlags :=
  match k.fp, k.brl with
  | some f, _ =>
    let r := if isSum then roundSum st v f mode else f.encode mode v
    (leB (f.width / 8) r.1, r.2)
  | _, some f => (f.toBytes (f.ofVal v), {})
  | _, _ =>
    match k with
    | .cuvee => ((Cuvee.ofVal v).toBytes, {})
    | .int8 =>
      let r := match v with
        | .fin n m e => satInt 8 (roundInt .rtz n m e)
        | _ => (0, {})
      (leB 1 r.1, r.2)
    | _ =>
      let r := roundSumInt st v mode
      (leB 4 r.1, r.2)

/-- Whether the kind is a Barrel or Cuvée sum. -/
def Kind.isSum : Kind → Bool
  | .brl16 => true
  | .brl32 => true
  | .brl64 => true
  | .cuvee => true
  | _ => false

/-- One conversion of Table 06.9 (R248). -/
def convertElem (src dst : Kind) (mode : Rnd) (bs : List (BitVec 8)) : List (BitVec 8) × AFlags :=
  let r := readKind src bs
  let w := writeKind dst src.isSum r.1 r.2.1 mode
  (w.1, r.2.2.or w.2)

end Sys2Proof.Machine
end

