-- ==== Sys2Proof/Machine/Tile.lean ====
section
/-!
DEFINITION. Machine/Tile.lean: the tile command set of chapter 06: command-block fields, operand ranges (R252), the checks
of R258, and the bytes, flags and counter advances each opcode makes. Nothing here touches State: a tile reads through a
`TileCtx` and answers a `TileOut`, which Machine/Cores.lean applies.
-/
namespace Sys2Proof.Machine

/-- What a tile can read at the moment it fires: the U-mode address space of its core (bed and terrace), the
accumulator files, the tenant's terrace segments, the format tables, its own handles and the seed. -/
structure TileCtx where
  rd : Nat → BitVec 8
  acc : Nat → BitVec 8
  segs : Nat
  tbl : Nat → FmtTable
  tenant : Nat
  handleSize : Nat → Option Nat
  hrd : Nat → Nat → BitVec 8
  seed : Nat

/-- Everything one completed tile does: bytes written to the U-mode space, to the accumulator files and to a handle,
the last stationary tile, flags, elements written as NaN under R211, and command-counter advances (R262). -/
structure TileOut where
  writes : List (Nat × BitVec 8) := []
  accW : List (Nat × BitVec 8) := []
  hW : List (Nat × Nat × BitVec 8) := []
  bank : List (BitVec 8) := []
  flags : AFlags := {}
  nans : Nat := 0
  counts : List (Nat × Nat) := []

/-- Address spaces of operand ranges: the U-mode space, the accumulator files, one handle (R252). -/
inductive Space where
  | u
  | acc
  | handle (h : Nat)
deriving DecidableEq, Repr

/-- The span of one operand, from its lowest to one past its highest byte (R252). -/
structure Span where
  space : Space
  lo : Nat
  hi : Nat
deriving DecidableEq, Repr

def Span.overlaps (a b : Span) : Bool :=
  decide (a.space = b.space) && decide (a.lo < b.hi) && decide (b.lo < a.hi)

def spansOverlap (l r : List Span) : Bool := l.any (fun a => r.any (fun b => a.overlaps b))

def bytesAt (rd : Nat → BitVec 8) (a n : Nat) : List (BitVec 8) := (List.range n).map (fun i => rd (a + i))
def natAt (rd : Nat → BitVec 8) (a n : Nat) : Nat := ofLe (bytesAt rd a n)
def putBytes (a : Nat) (bs : List (BitVec 8)) : List (Nat × BitVec 8) := bs.mapIdx (fun i b => (a + i, b))

def ceilDiv (a b : Nat) : Nat := (a + b - 1) / b

/-- Bed size and terrace base of Table 04.2. -/
def bedTop : Nat := 0x400000
def terBase : Nat := 0x10000000

/-- Span of `n` rows of `w` bytes at a stride (R252). -/
def rowsSpan (sp : Space) (base n stride w : Nat) : Span :=
  ⟨sp, base, base + (max n 1 - 1) * stride + max w 1⟩

/-- Bytes a packed row of `n` elements takes (R242). -/
def rowBytes (n bits : Nat) : Nat := if bits = 4 then ceilDiv n 2 else if bits = 16 then 2 * n else n

/-- Bits of element `k` of a packed row at `base` (R242). -/
def packedElem (rd : Nat → BitVec 8) (base k bits : Nat) : Nat :=
  if bits = 4 then (natAt rd (base + k / 2) 1 / (if k % 2 = 1 then 16 else 1)) % 16
  else if bits = 16 then natAt rd (base + 2 * k) 2
  else natAt rd (base + k) 1

/-! Decoded commands. -/

structure AmmCmd where
  fa : Nat
  fb : Nat
  dest : Bool
  aAddr : Nat
  aStride : Nat
  bAddr : Nat
  bStride : Nat
  cAddr : Nat
  cStride : Nat
  m : Nat
  kb : Nat
  nb : Nat
  asAddr : Nat
  bsAddr : Nat
  asStride : Nat
  bsStride : Nat
deriving DecidableEq, Repr

/-- Fields of Table 06.10. -/
def ammOf (b : List (BitVec 8)) : AmmCmd :=
  ⟨fieldAt b 8 1, fieldAt b 9 1, decide (fieldAt b 10 1 % 2 = 1), fieldAt b 12 4, fieldAt b 16 4, fieldAt b 20 4, fieldAt b 24 4, fieldAt b 28 4,
   fieldAt b 32 4, fieldAt b 36 2, fieldAt b 38 2, fieldAt b 40 2, fieldAt b 44 4, fieldAt b 48 4, fieldAt b 52 2, fieldAt b 54 2⟩

structure DmmCmd where
  mode : Nat
  aAddr : Nat
  aStride : Nat
  aPlane : Nat
  bAddr : Nat
  bStride : Nat
  bPlane : Nat
  pAddr : Nat
  pPlane : Nat
  m : Nat
  kb : Nat
deriving DecidableEq, Repr

/-- Fields of Table 06.11. -/
def dmmOf (b : List (BitVec 8)) : DmmCmd :=
  ⟨fieldAt b 8 1, fieldAt b 12 4, fieldAt b 16 4, fieldAt b 20 4, fieldAt b 24 4, fieldAt b 28 4, fieldAt b 32 4, fieldAt b 36 4, fieldAt b 40 4,
   fieldAt b 44 2, fieldAt b 46 2⟩

structure DecantCmd where
  src : Nat
  cols : Bool
  slices : Nat
  sAddr : Nat
  sStride : Nat
  nr : Nat
  nc : Nat
  oAddr : Nat
  oStride : Nat
  oPlane : Nat
  eAddr : Nat
deriving DecidableEq, Repr

/-- Fields of Table 06.12. -/
def decantOf (b : List (BitVec 8)) : DecantCmd :=
  ⟨fieldAt b 8 1, decide (fieldAt b 9 1 % 2 = 1), fieldAt b 10 1, fieldAt b 12 4, fieldAt b 16 4, fieldAt b 20 4, fieldAt b 24 4, fieldAt b 28 4,
   fieldAt b 32 4, fieldAt b 36 4, fieldAt b 40 4⟩

/-- DRAIN and CONVERT share Table 06.13; `drain` reads the accumulator files and implies 64 columns. -/
structure ConvCmd where
  drain : Bool
  src : Nat
  dst : Nat
  rnd : Nat
  conv : Nat
  sAddr : Nat
  sStride : Nat
  cAddr : Nat
  cStride : Nat
  nr : Nat
  nc : Nat
  plot : Nat
  oRow : Nat
  oCol : Nat
  pCols : Nat
deriving DecidableEq, Repr

def convOf (drain : Bool) (b : List (BitVec 8)) : ConvCmd :=
  ⟨drain, fieldAt b 8 1, fieldAt b 9 1, fieldAt b 10 1, fieldAt b 11 1, fieldAt b 12 4, fieldAt b 16 4, fieldAt b 20 4, fieldAt b 24 4, fieldAt b 28 4,
   (if drain then 64 else fieldAt b 32 4), fieldAt b 36 4, fieldAt b 40 4, fieldAt b 44 4, fieldAt b 48 4⟩

structure DrainDfCmd where
  frec : Bool
  mode : Nat
  dst : Nat
  pAddr : Nat
  pPlane : Nat
  m : Nat
  ea : Nat
  eb : Nat
  cAddr : Nat
  cStride : Nat
  map : Nat
deriving DecidableEq, Repr

/-- Fields of Table 06.14. -/
def drainDfOf (b : List (BitVec 8)) : DrainDfCmd :=
  ⟨decide (fieldAt b 1 1 % 2 = 1), fieldAt b 8 1, fieldAt b 9 1, fieldAt b 12 4, fieldAt b 16 4, fieldAt b 20 2, fieldAt b 24 4, fieldAt b 28 4,
   fieldAt b 32 4, fieldAt b 36 4, fieldAt b 40 4⟩

structure BsumCmd where
  kind : Nat
  count : Nat
  src : Nat
  step : Nat
  dst : Nat
  elems : Nat
deriving DecidableEq, Repr

/-- Fields of Table 06.15. -/
def bsumOf (b : List (BitVec 8)) : BsumCmd :=
  ⟨fieldAt b 8 1, fieldAt b 9 1, fieldAt b 12 4, fieldAt b 16 4, fieldAt b 20 4, fieldAt b 24 4⟩

structure XferCmd where
  sh : Bool
  dh : Bool
  srcH : Nat
  srcOff : Nat
  dstH : Nat
  dstOff : Nat
  rowB : Nat
  nr : Nat
  sStride : Nat
  dStride : Nat
deriving DecidableEq, Repr

/-- Fields of Table 06.16; a bed or terrace address is the low 32 bits of its offset field. -/
def xferOf (b : List (BitVec 8)) : XferCmd :=
  let sh := decide (fieldAt b 8 1 % 2 = 1)
  let dh := decide (fieldAt b 8 1 / 2 % 2 = 1)
  ⟨sh, dh, fieldAt b 12 3, (if sh then fieldAt b 16 6 else fieldAt b 16 4), fieldAt b 24 3, (if dh then fieldAt b 28 6 else fieldAt b 28 4),
   fieldAt b 36 4, fieldAt b 40 4, fieldAt b 44 4, fieldAt b 48 4⟩

/-- A command block by opcode (Table 06.7). -/
inductive TileCmd where
  | sync
  | xfer (c : XferCmd)
  | amm (c : AmmCmd)
  | dmm (c : DmmCmd)
  | decant (c : DecantCmd)
  | conv (c : ConvCmd)
  | drainDf (c : DrainDfCmd)
  | bsum (c : BsumCmd)
deriving DecidableEq, Repr

def tileCmdOf (b : List (BitVec 8)) : Option TileCmd :=
  let op := fieldAt b 0 1
  if op = 0x01 then some .sync
  else if op = 0x02 then some (.xfer (xferOf b))
  else if op = 0x10 then some (.amm (ammOf b))
  else if op = 0x11 then some (.dmm (dmmOf b))
  else if op = 0x18 then some (.decant (decantOf b))
  else if op = 0x19 then some (.conv (convOf true b))
  else if op = 0x1A then some (.drainDf (drainDfOf b))
  else if op = 0x1B then some (.conv (convOf false b))
  else if op = 0x1C then some (.bsum (bsumOf b))
  else none

/-- Execution resources of Table 06.7. -/
inductive Res where
  | none | arrays | decanter | transfer
deriving DecidableEq, Repr

def TileCmd.res : TileCmd → Res
  | .sync => .none
  | .xfer _ => .transfer
  | .amm _ => .arrays
  | .dmm _ => .arrays
  | .decant _ => .decanter
  | .conv _ => .decanter
  | .drainDf _ => .decanter
  | .bsum _ => .decanter

/-- Slices and slice pairs of a decanted mode (Table 05.7): 0 DF32-4, 1 DF64-8, 2 DF64-9. -/
def modeSlices (mode : Nat) : Nat := if mode = 0 then 4 else if mode = 1 then 8 else 9
def modePairs (mode : Nat) : Nat := if mode = 0 then 10 else if mode = 1 then 36 else 45

/-- Plane number of slice pair (a, b) (R244). -/
def planeNo (s a b : Nat) : Nat := (b - 1) * (s + 1) - (b - 1) * b / 2 + a - 1

def kindBytesOf (code : Nat) : Nat := match kindOf code with
  | some k => k.bytes
  | none => 1

/-- Operand ranges of a command: inputs and outputs, without the flag record and bitmap (R252). -/
def TileCmd.ranges (c : TileCmd) (tbl : Nat → FmtTable) : List Span × List Span :=
  match c with
  | .sync => ([], [])
  | .xfer x =>
    ([rowsSpan (if x.sh then .handle x.srcH else .u) x.srcOff x.nr x.sStride x.rowB],
     [rowsSpan (if x.dh then .handle x.dstH else .u) x.dstOff x.nr x.dStride x.rowB])
  | .amm x =>
    let ta := tbl (x.fa - 0x10)
    let tb := tbl (x.fb - 0x10)
    let w := match pairing (fmtClass x.fa ta) (fmtClass x.fb tb) with
      | some p => if p.two then 128 else 64
      | none => 64
    let k := max x.kb 1 * w
    let n := 64 * max x.nb 1
    ([rowsSpan .u x.aAddr x.m x.aStride (rowBytes k (fmtBits x.fa ta)),
      rowsSpan .u x.bAddr k x.bStride (rowBytes n (fmtBits x.fb tb))]
      ++ (if fmtScaled x.fa ta then [rowsSpan .u x.asAddr x.m x.asStride (k / 32)] else [])
      ++ (if fmtScaled x.fb tb then [rowsSpan .u x.bsAddr (k / 32) x.bsStride n] else []),
     [if x.dest then ⟨.acc, 0, 65536⟩ else rowsSpan .u x.cAddr x.m x.cStride (4 * n)])
  | .dmm x =>
    let s := modeSlices x.mode
    let k := 64 * max x.kb 1
    ([⟨.u, x.aAddr, x.aAddr + (s - 1) * x.aPlane + (max x.m 1 - 1) * x.aStride + k⟩,
      ⟨.u, x.bAddr, x.bAddr + (s - 1) * x.bPlane + (k - 1) * x.bStride + 64⟩],
     [⟨.u, x.pAddr, x.pAddr + (modePairs x.mode - 1) * x.pPlane + 256 * max x.m 1⟩])
  | .decant x =>
    let w := if x.src = 0x0C then 4 else 8
    ([rowsSpan .u x.sAddr x.nr x.sStride (w * max x.nc 1)],
     [⟨.u, x.oAddr, x.oAddr + (max x.slices 1 - 1) * x.oPlane + (max x.nr 1 - 1) * x.oStride + max x.nc 1⟩,
      ⟨.u, x.eAddr, x.eAddr + 4 * max (if x.cols then x.nc else x.nr) 1⟩])
  | .conv x =>
    ([if x.drain then ⟨.acc, 0, 65536⟩
      else rowsSpan .u x.sAddr x.nr x.sStride (max x.nc 1 * kindBytesOf x.src)],
     [rowsSpan .u x.cAddr x.nr x.cStride (max x.nc 1 * kindBytesOf x.dst)])
  | .drainDf x =>
    ([⟨.u, x.pAddr, x.pAddr + (modePairs x.mode - 1) * x.pPlane + 256 * max x.m 1⟩,
      ⟨.u, x.ea, x.ea + 4 * max x.m 1⟩, ⟨.u, x.eb, x.eb + 256⟩],
     [rowsSpan .u x.cAddr x.m x.cStride (64 * kindBytesOf x.dst)]
      ++ (if x.frec then [⟨.u, x.map, x.map + ceilDiv x.m 8 + 8⟩] else []))
  | .bsum x =>
    let w := max x.elems 1 * kindBytesOf x.kind
    ([rowsSpan .u x.src x.count x.step w], [⟨.u, x.dst, x.dst + w⟩])

/-- Outputs with the flag record, when the block asks for one (R238). -/
def blockRanges (b : List (BitVec 8)) (tbl : Nat → FmtTable) : List Span × List Span :=
  let r := match tileCmdOf b with
    | some c => c.ranges tbl
    | none => ([], [])
  (r.1, r.2 ++ (if fieldAt b 1 1 % 2 = 1 then [⟨.u, fieldAt b 4 4, fieldAt b 4 4 + 16⟩] else []))

/-! Checks (R258, Table 06.18). -/

/-- A run of bytes lies in the bed, or (XFER only) in the tenant's terrace segments (R251). -/
def inRegion (ter : Bool) (segs a n : Nat) : Bool :=
  decide (a + n ≤ bedTop) || (ter && decide (terBase ≤ a) && decide (a + n ≤ terBase + segs * 0x100000))
/-- Rows of an XFER side each lie in a region: the addresses touched are tested, not the span (R251). -/
def rowsIn (segs base n stride w : Nat) : Bool := (List.range n).all (fun i => inRegion true segs (base + i * stride) w)
/-- Whether every address a command touches lies where R251 allows it. -/
def inBounds (segs : Nat) (c : TileCmd) (r : List Span × List Span) : Bool :=
  match c with
  | .xfer f =>
    (f.sh || rowsIn segs f.srcOff f.nr f.sStride f.rowB) && (f.dh || rowsIn segs f.dstOff f.nr f.dStride f.rowB)
  | _ => (r.1 ++ r.2).all (fun x => match x.space with
    | .u => inRegion false segs x.lo (x.hi - x.lo)
    | _ => true)

/-- Whether a trellis code names a table the tenant may use (R198). -/
def tblUsable (x : TileCtx) (code : Nat) : Bool :=
  if 0x10 ≤ code ∧ code ≤ 0x1F then
    let t := x.tbl (code - 0x10)
    t.valid && (t.global || decide (t.tenant = x.tenant))
  else true

/-- Format and table checks: BAD_FORMAT 0x02, TABLE_INVALID 0x03. -/
def formatFault (x : TileCtx) (c : TileCmd) : Option Nat :=
  match c with
  | .amm a =>
    if !(tblUsable x a.fa && tblUsable x a.fb) then some 0x03
    else match pairing (fmtClass a.fa (x.tbl (a.fa - 0x10))) (fmtClass a.fb (x.tbl (a.fb - 0x10))) with
      | some _ => none
      | none => some 0x02
  | .dmm d => if d.mode ≤ 2 then none else some 0x02
  | .decant d =>
    if (d.src = 0x0C ∧ d.slices = 4) ∨ (d.src = 0x0D ∧ (d.slices = 8 ∨ d.slices = 9)) then none else some 0x02
  | .conv v =>
    match kindOf v.src, kindOf v.dst with
    | some s, some t =>
      if convPermitted s t v.rnd && (!v.drain || decide (v.src = 0x0C ∨ v.src = 0x20)) then none else some 0x02
    | _, _ => some 0x02
  | .drainDf d =>
    if (d.mode = 0 ∧ (d.dst = 0x0C ∨ d.dst = 0x22))
        ∨ ((d.mode = 1 ∨ d.mode = 2) ∧ (d.dst = 0x0D ∨ d.dst = 0x23)) then none else some 0x02
  | .bsum b => if 0x21 ≤ b.kind ∧ b.kind ≤ 0x24 then none else some 0x02
  | _ => none

/-- Slab and shape checks: SLAB_TOO_LONG 0x07, BAD_SHAPE 0x08. -/
def shapeFault (_x : TileCtx) (c : TileCmd) : Option Nat :=
  match c with
  | .sync => none
  | .xfer f =>
    if 1 ≤ f.rowB ∧ f.rowB ≤ 0x400000 ∧ 1 ≤ f.nr ∧ f.nr ≤ 65536 ∧ !(f.sh && f.dh) then none else some 0x08
  | .amm a =>
    let ok := 1 ≤ a.m ∧ 1 ≤ a.kb ∧ a.kb ≤ 2048 ∧ 1 ≤ a.nb ∧ a.nb ≤ 256
      ∧ (a.dest = false ∨ (ceilDiv a.m 4 ≤ 64 ∧ a.nb = 1))
    if ok then none else some 0x08
  | .dmm d =>
    if 2048 < d.kb then some 0x07
    else if 1 ≤ d.m ∧ 1 ≤ d.kb ∧ 256 * d.m ≤ d.pPlane then none else some 0x08
  | .decant d =>
    if 131072 < (if d.cols then d.nr else d.nc) then some 0x07
    else if 1 ≤ d.nr ∧ d.nr ≤ 131072 ∧ 1 ≤ d.nc ∧ d.nc ≤ 131072 then none else some 0x08
  | .conv v =>
    if v.drain then (if 1 ≤ v.nr ∧ v.nr ≤ 256 then none else some 0x08)
    else if 1 ≤ v.nr ∧ v.nr ≤ 65536 ∧ 1 ≤ v.nc ∧ v.nc ≤ 65536 then none else some 0x08
  | .drainDf d => if 1 ≤ d.m ∧ 256 * d.m ≤ d.pPlane then none else some 0x08
  | .bsum b => if 2 ≤ b.count ∧ b.count ≤ 16 ∧ 1 ≤ b.elems ∧ b.elems ≤ 65536 then none else some 0x08

/-- Handle checks of XFER (R250): BAD_HANDLE 0x06, BOUNDS 0x05. -/
def handleFault (x : TileCtx) (c : TileCmd) : Option Nat :=
  match c with
  | .xfer f =>
    let side (is : Bool) (h off stride : Nat) : Option Nat :=
      if is then
        match x.handleSize h with
        | none => some 0x06
        | some sz => if off + (f.nr - 1) * stride + f.rowB ≤ sz then none else some 0x05
      else none
    match side f.sh f.srcH f.srcOff f.sStride with
    | some e => some e
    | none => side f.dh f.dstH f.dstOff f.dStride
  | _ => none

/-- The checks a tile undergoes when it fires, in the order opcode, format, shape, bounds, handle, overlap (R258; the
spec states no order among them: log 31). -/
def tileFault (x : TileCtx) (b : List (BitVec 8)) : Option Nat :=
  match tileCmdOf b with
  | none => some 0x01
  | some c =>
    match formatFault x c with
    | some e => some e
    | none =>
      match shapeFault x c with
      | some e => some e
      | none =>
        let r := blockRanges b x.tbl
        if fieldAt b 4 4 % 16 ≠ 0 ∨ (fieldAt b 1 1 % 2 = 1 ∧ bedTop < fieldAt b 4 4 + 16) ∨ !inBounds x.segs c r then some 0x05
        else
          match handleFault x c with
          | some e => some e
          | none => if spansOverlap r.1 r.2 then some 0x04 else none

/-! Values. -/

/-- Element (i, k) of A, or (k, n) of B, decoded with its scale (Table 06.10). -/
def ammA (x : TileCtx) (a : AmmCmd) (i k : Nat) : Val :=
  let t := x.tbl (a.fa - 0x10)
  let v := decodeElem a.fa t (packedElem x.rd (a.aAddr + i * a.aStride) k (fmtBits a.fa t))
  scaleElem v (if fmtScaled a.fa t then some (natAt x.rd (a.asAddr + i * a.asStride + k / 32) 1) else none)

def ammB (x : TileCtx) (a : AmmCmd) (k n : Nat) : Val :=
  let t := x.tbl (a.fb - 0x10)
  let v := decodeElem a.fb t (packedElem x.rd (a.bAddr + k * a.bStride) n (fmtBits a.fb t))
  scaleElem v (if fmtScaled a.fb t then some (natAt x.rd (a.bsAddr + k / 32 * a.bsStride + n) 1) else none)

def valInt : Val → Int
  | .fin n m e => signedOn n m e 0
  | _ => 0

/-- One accumulation block of 32 products added into the FP32 accumulator (R199, R200). -/
def floatBlock (l : List (Val × Val)) (acc : Nat × AFlags) : Nat × AFlags :=
  let nanIn := l.any (fun p => p.1 == Val.nan || p.2 == Val.nan)
  let r := addFp32 acc.1 (blockSum (l.map (fun p => mulVal p.1 p.2)))
  (r.1, (acc.2.or r.2).or { nanIn := nanIn })

/-- One pass of the integer path: its products summed from zero in ascending K, wrapping (R201). -/
def intPass (l : List (Val × Val)) : Int × Bool :=
  l.foldl (fun s p =>
    let r := addInt32 s.1 (valInt p.1 * valInt p.2)
    (r.1, s.2 || r.2)) (0, false)

/-- Element (i, j) of an AMM result after its passes in order (R154, R199, R201). -/
def ammElem (x : TileCtx) (a : AmmCmd) (p : Pairing) (i j : Nat) : Nat × AFlags :=
  let w := if p.two then 128 else 64
  let pr (k : Nat) := (ammA x a i k, ammB x a k j)
  if p.integer then
    let step (s : Int × Bool × Bool) (q : Nat) : Int × Bool × Bool :=
      let r := intPass ((List.range w).map (fun k => pr (q * w + k)))
      if s.2.2 then (let t := addInt32 s.1 r.1; (t.1, s.2.1 || r.2 || t.2, true)) else (r.1, s.2.1 || r.2, true)
    let r := (List.range a.kb).foldl step (0, false, false)
    (ofSigned 32 r.1, { intWrap := r.2.1 })
  else
    (List.range (a.kb * (w / 32))).foldl
      (fun acc q => floatBlock ((List.range 32).map (fun k => pr (32 * q + k))) acc) (0, {})

/-- Command counter of a multiply-accumulate class (Table 06.19, 7 to 11). -/
def macCounter (fa fb : FmtClass) : Nat :=
  match fa, fb with
  | .int4, .int4 => 8
  | .int8, _ => 7
  | .int4, _ => 7
  | .half, _ => 11
  | .f8, .f8 => 9
  | _, _ => 10

/-- Bytes of the stationary bank after the last load: 64 rows of 64 elements, 16 bits each; in the two-per-cycle modes
the upper byte of an element holds the second K position of its row (R150; byte layout: log 33). -/
def bankOf (elem : Nat → Nat → Nat) (two : Bool) : List (BitVec 8) :=
  (List.range 4096).flatMap (fun i =>
    let v := if two then elem (i / 64) (i % 64) % 256 + 256 * (elem (i / 64 + 64) (i % 64) % 256)
             else elem (i / 64) (i % 64)
    leB 2 v)

def runAmm (x : TileCtx) (a : AmmCmd) : TileOut :=
  let ca := fmtClass a.fa (x.tbl (a.fa - 0x10))
  let cb := fmtClass a.fb (x.tbl (a.fb - 0x10))
  match pairing ca cb with
  | none => {}
  | some p =>
    let n := 64 * a.nb
    let w := if p.two then 128 else 64
    let mq := ceilDiv a.m 4
    let cells := (List.range a.m).flatMap (fun i => (List.range n).map (fun j => (i, j, ammElem x a p i j)))
    let fl := cells.foldl (fun f c => f.or c.2.2.2) {}
    let bits := fmtBits a.fb (x.tbl (a.fb - 0x10))
    { writes := if a.dest then [] else
        cells.flatMap (fun c => putBytes (a.cAddr + c.1 * a.cStride + 4 * c.2.1) (leB 4 c.2.2.1)),
      accW := if a.dest then
        cells.flatMap (fun c => putBytes (c.1 / mq * 16384 + c.1 % mq * 256 + 4 * c.2.1) (leB 4 c.2.2.1)) else [],
      bank := bankOf (fun r c => packedElem x.rd (a.bAddr + ((a.kb - 1) * w + r) * a.bStride) (n - 64 + c) bits) p.two,
      flags := fl,
      counts := [(3, 1), (4, a.kb * a.nb), (5, a.kb * a.nb), (6, a.kb * a.nb * a.m),
        (macCounter ca cb, a.m * n * a.kb * w)] }

def sbyte (x : TileCtx) (a : Nat) : Int := toSigned 8 (natAt x.rd a 1)

/-- Plane element of slice pair (a, b), exact in int32 by the bound of R207 (R244). -/
def dmmElem (x : TileCtx) (d : DmmCmd) (a b r j : Nat) : Int :=
  (List.range (64 * d.kb)).foldl (fun t k =>
    (addInt32 t (sbyte x (d.aAddr + (a - 1) * d.aPlane + r * d.aStride + k)
      * sbyte x (d.bAddr + (b - 1) * d.bPlane + k * d.bStride + j))).1) 0

/-- Slice pairs in pass order (R244). -/
def slicePairs (s : Nat) : List (Nat × Nat) :=
  (List.range s).flatMap (fun b => (List.range (s - b)).map (fun a => (a + 1, b + 1)))

def runDmm (x : TileCtx) (d : DmmCmd) : TileOut :=
  let s := modeSlices d.mode
  let p := modePairs d.mode
  { writes := (slicePairs s).flatMap (fun ab =>
      (List.range d.m).flatMap (fun r => (List.range 64).flatMap (fun j =>
        putBytes (d.pAddr + planeNo s ab.1 ab.2 * d.pPlane + 256 * r + 4 * j)
          (leB 4 (ofSigned 32 (dmmElem x d ab.1 ab.2 r j)))))),
    bank := bankOf (fun r c => natAt x.rd (d.bAddr + (s - 1) * d.bPlane + ((d.kb - 1) * 64 + r) * d.bStride + c) 1) false,
    counts := [(15, 1), (4, d.kb * s), (5, d.kb * s), (6, d.kb * p * d.m), (12 + d.mode, d.kb * 64 * p * d.m * 64)] }

/-- Exponent and special mark of a row or column (R206). -/
def decantExp (l : List Val) : Option Int × Bool :=
  (maxLog2 l, l.any (fun v => match v with
    | .fin _ _ _ => false
    | _ => true))

/-- Slice `i` (1 to s) of one element under row exponent `e` (R206). -/
def decantSlice (s : Nat) (e : Option Int) (v : Val) (i : Nat) : Int :=
  match e, v with
  | some e, .fin n m x =>
    let q := (gridTrunc m (x + 7 * (s : Int) - e - 1) 0 / 2 ^ (7 * (s - i))) % 128
    if n then - (q : Int) else (q : Int)
  | _, _ => 0

/-- Exponent record of a row or column: e, none, special (R245). With no finite non-zero element the spec states no e: the
value is free, and depends on the elements only (R168). -/
def expRecord (e : Option Int × Bool) (els : List Nat) : Nat :=
  match e.1 with
  | some v => ofSigned 16 v + (if e.2 then 2 ^ 17 else 0)
  | none => (Config.emptyExponent els).toNat + 2 ^ 16 + (if e.2 then 2 ^ 17 else 0)

def runDecant (x : TileCtx) (d : DecantCmd) : TileOut :=
  let f := if d.src = 0x0C then fp32 else fp64
  let w := f.width / 8
  let raw (r c : Nat) : Nat := natAt x.rd (d.sAddr + r * d.sStride + c * w) w
  let at' (r c : Nat) : Val := f.decode (raw r c)
  let lines := if d.cols then d.nc else d.nr
  let len := if d.cols then d.nr else d.nc
  let el (l k : Nat) : Val := if d.cols then at' k l else at' l k
  let exps := (List.range lines).map (fun l => decantExp ((List.range len).map (el l)))
  let slices := exps.zipIdx.flatMap (fun q =>
    (List.range len).flatMap (fun k =>
      let r := if d.cols then k else q.2
      let c := if d.cols then q.2 else k
      (List.range d.slices).map (fun i =>
        (d.oAddr + i * d.oPlane + r * d.oStride + c,
          BitVec.ofInt 8 (decantSlice d.slices q.1.1 (el q.2 k) (i + 1))))))
  { writes := slices ++ exps.zipIdx.flatMap (fun q => putBytes (d.eAddr + 4 * q.2) (leB 4
      (expRecord q.1 ((List.range len).map (fun k => if d.cols then raw k q.2 else raw q.2 k))))),
    counts := [(16, 1), (17, d.nr * d.nc)] }

/-- Index i of array file rows: row i of DRAIN comes from file i / Mq, row i mod Mq (R246). -/
def drainSrc (x : TileCtx) (m i j : Nat) : List (BitVec 8) :=
  let mq := ceilDiv m 4
  bytesAt x.acc (i / mq * 16384 + i % mq * 256 + 4 * j) 4

def rndOf (rnd : Nat) (r : Nat) : Rnd := if rnd = 0 then .rne else if rnd = 1 then .rtz else .sr r

def runConv (x : TileCtx) (v : ConvCmd) : TileOut :=
  match kindOf v.src, kindOf v.dst with
  | some s, some t =>
    let cell (i j : Nat) : List (BitVec 8) × AFlags :=
      let src := if v.drain then drainSrc x v.nr i j
        else bytesAt x.rd (v.sAddr + i * v.sStride + j * s.bytes) s.bytes
      let el := ((v.oRow + i) * v.pCols + (v.oCol + j)) % 2 ^ 32
      convertElem s t (rndOf v.rnd (srBits x.seed v.plot el v.conv)) src
    let cells := (List.range v.nr).flatMap (fun i => (List.range v.nc).map (fun j => (i, j, cell i j)))
    { writes := cells.flatMap (fun c => putBytes (v.cAddr + c.1 * v.cStride + c.2.1 * t.bytes) c.2.2.1),
      flags := cells.foldl (fun f c => f.or c.2.2.2) {},
      counts := if v.drain then [(18, 1)] else [(21, 1), (22, v.nr * v.nc)] }
  | _, _ => {}

/-- The combined slice products of one element (R208), each plane element read as int32. -/
def dfCombine (x : TileCtx) (d : DrainDfCmd) (r j : Nat) : Int :=
  let s := modeSlices d.mode
  (slicePairs s).foldl (fun t ab =>
    t + toSigned 32 (natAt x.rd (d.pAddr + planeNo s ab.1 ab.2 * d.pPlane + 256 * r + 4 * j) 4)
      * (2 : Int) ^ (7 * (2 * s - ab.1 - ab.2))) 0

/-- One decanted output: its bytes, flags, and whether it was written as NaN (R209, R211). -/
def dfElem (x : TileCtx) (d : DrainDfCmd) (r j : Nat) : List (BitVec 8) × AFlags × Bool :=
  let s := modeSlices d.mode
  let ra := natAt x.rd (d.ea + 4 * r) 4
  let rb := natAt x.rd (d.eb + 4 * j) 4
  let t := dfCombine x d r j
  let e := toSigned 16 ra + toSigned 16 rb + 2 - 14 * (s : Int)
  let lim : Int := if d.mode = 0 then 136 else 1040
  let q : Int := if d.mode = 0 then -150 else -1100
  let special := ra / 2 ^ 17 % 2 = 1 ∨ rb / 2 ^ 17 % 2 = 1
  let range := t ≠ 0 ∧ lim ≤ floorLog2 t.natAbs e
  let part : Int := if t < 0 then - (gridTrunc t.natAbs e q : Int) else (gridTrunc t.natAbs e q : Int)
  match kindOf d.dst with
  | none => ([], {}, false)
  | some k =>
    if special ∨ range then
      ((writeKind k true .nan .nan .rne).1,
        { dfSpecial := decide special, dfRange := decide (¬ special ∧ range) }, true)
    else
      let w := writeKind k true .finite (Val.ofInt part q) .rne
      (w.1, w.2, false)

/-- Bitmap bytes: bit 0 of the first byte is index 0 (R247). -/
def bitmap (n : Nat) (f : Nat → Bool) : List (BitVec 8) :=
  (List.range (ceilDiv n 8)).map (fun i =>
    BitVec.ofNat 8 ((List.range 8).foldl (fun t b => t + (if 8 * i + b < n ∧ f (8 * i + b) then 2 ^ b else 0)) 0))

def runDrainDf (x : TileCtx) (d : DrainDfCmd) : TileOut :=
  let cells := (List.range d.m).flatMap (fun r => (List.range 64).map (fun j => (r, j, dfElem x d r j)))
  let kb := kindBytesOf d.dst
  let rowNan (r : Nat) := cells.any (fun c => decide (c.1 = r) && c.2.2.2.2)
  let colNan (j : Nat) := cells.any (fun c => decide (c.2.1 = j) && c.2.2.2.2)
  { writes := cells.flatMap (fun c => putBytes (d.cAddr + c.1 * d.cStride + c.2.1 * kb) c.2.2.1)
      ++ (if d.frec then putBytes d.map (bitmap d.m rowNan ++ bitmap 64 colNan) else []),
    flags := cells.foldl (fun f c => f.or c.2.2.2.1) {},
    nans := (cells.filter (fun c => c.2.2.2.2)).length,
    counts := [(19, 1), (20, d.m * 64)] }

/-- One element of BSUM (R249). -/
def bsumElem (x : TileCtx) (b : BsumCmd) (e : Nat) : List (BitVec 8) × AFlags :=
  let w := kindBytesOf b.kind
  let ins := (List.range b.count).map (fun m => bytesAt x.rd (b.src + m * b.step + e * w) w)
  match (kindOf b.kind).bind Kind.brl with
  | some f =>
    let rs := ins.map f.ofBytes
    (f.toBytes (f.sum (rs.map (·.1))), rs.foldl (fun a r => a.or r.2) {})
  | none =>
    let rs := ins.map Cuvee.ofBytes
    ((Cuvee.sum (rs.map (·.1))).toBytes, rs.foldl (fun a r => a.or r.2) {})

def runBsum (x : TileCtx) (b : BsumCmd) : TileOut :=
  let cells := (List.range b.elems).map (fun e => (e, bsumElem x b e))
  { writes := cells.flatMap (fun c => putBytes (b.dst + c.1 * kindBytesOf b.kind) c.2.1),
    flags := cells.foldl (fun f c => f.or c.2.2) {},
    counts := [(23, 1), (24, b.elems)] }

def runXfer (x : TileCtx) (f : XferCmd) : TileOut :=
  let byte (i k : Nat) : BitVec 8 :=
    if f.sh then x.hrd f.srcH (f.srcOff + i * f.sStride + k) else x.rd (f.srcOff + i * f.sStride + k)
  let cells := (List.range f.nr).flatMap (fun i => (List.range f.rowB).map (fun k =>
    (f.dstOff + i * f.dStride + k, byte i k)))
  { writes := if f.dh then [] else cells,
    hW := if f.dh then cells.map (fun c => (f.dstH, c.1, c.2)) else [],
    counts := [(1, 1), (2, f.nr * f.rowB)] }

/-- The flag record of R238. -/
def flagRecord (fl : AFlags) (nans : Nat) : List (BitVec 8) :=
  [fl.toByte, 0, 0, 0] ++ leB 4 nans ++ List.replicate 8 0

/-- What a tile that passes its checks writes and counts, its flag record included. -/
def runTile (x : TileCtx) (b : List (BitVec 8)) : TileOut :=
  match tileCmdOf b with
  | none => {}
  | some c =>
    let o := match c with
      | .sync => { counts := [(0, 1)] }
      | .xfer f => runXfer x f
      | .amm a => runAmm x a
      | .dmm d => runDmm x d
      | .decant d => runDecant x d
      | .conv v => runConv x v
      | .drainDf d => runDrainDf x d
      | .bsum s => runBsum x s
    if fieldAt b 1 1 % 2 = 1 then { o with writes := o.writes ++ putBytes (fieldAt b 4 4) (flagRecord o.flags o.nans) } else o

end Sys2Proof.Machine
end

