-- ==== Sys2Proof/Machine/Regs.lean ====
section
/-!
DEFINITION. Machine/Regs.lean: the commit groups of Table 22.2 with their registers (address, writable bits, reset value
full and half), selectors, status registers and windows, and the plain read-write registers, as the register maps of
chapters 02 to 18 give them.
-/
namespace Sys2Proof.Machine

/-- The commit groups, in the order of Table 22.2. -/
inductive Grp where
  | hifTen | rng | pln | plnTq | memRsv | memTherm | corSlot | corTer | arr | fmt | vnlPort | vnlPcl | col | stpTen
  | rckTen | rckWear | cel | celSvc | celTbl | err | pwr | tim | secKey | secCmd | dbg | dbgTen | boot | bootUpd
deriving DecidableEq, Repr

/-- One number per group. -/
def Grp.idx : Grp → Nat
  | .hifTen => 0
  | .rng => 1
  | .pln => 2
  | .plnTq => 3
  | .memRsv => 4
  | .memTherm => 5
  | .corSlot => 6
  | .corTer => 7
  | .arr => 8
  | .fmt => 9
  | .vnlPort => 10
  | .vnlPcl => 11
  | .col => 12
  | .stpTen => 13
  | .rckTen => 14
  | .rckWear => 15
  | .cel => 16
  | .celSvc => 17
  | .celTbl => 18
  | .err => 19
  | .pwr => 20
  | .tim => 21
  | .secKey => 22
  | .secCmd => 23
  | .dbg => 24
  | .dbgTen => 25
  | .boot => 26
  | .bootUpd => 27

/-- All groups. -/
def allGrps : List Grp :=
  [.hifTen, .rng, .pln, .plnTq, .memRsv, .memTherm, .corSlot, .corTer, .arr, .fmt, .vnlPort, .vnlPcl, .col, .stpTen,
   .rckTen, .rckWear, .cel, .celSvc, .celTbl, .err, .pwr, .tim, .secKey, .secCmd, .dbg, .dbgTen, .boot, .bootUpd]

/-- A register of a commit group: address in window 0, bits a write reaches (every other bit is reserved, R10), and the
reset value of the full and of the half module. -/
structure GReg where
  addr : Nat
  mask : Nat
  full : Nat
  half : Nat
deriving DecidableEq, Repr

/-- The RWC registers of each group, lowest offset first. -/
def Grp.regs : Grp → List GReg
  | .hifTen =>
    [⟨0x100014, 0x80003FFF, 0x0, 0x0⟩,
     ⟨0x100018, 0x800FFFFF, 0x0, 0x0⟩,
     ⟨0x10001C, 0x1FFFFFFF, 0x2000, 0x2000⟩,
     ⟨0x100020, 0x800000FF, 0x0, 0x0⟩]
  | .rng =>
    [⟨0x200008, 0xFFFFF000, 0x0, 0x0⟩,
     ⟨0x20000C, 0xFFFFFFFF, 0x0, 0x0⟩,
     ⟨0x200010, 0x8FF0331F, 0x0, 0x0⟩,
     ⟨0x200014, 0x83FF07FF, 0x0, 0x0⟩]
  | .pln =>
    [⟨0x300000, 0x80FF0F0F, 0x80140300, 0x80140300⟩]
  | .plnTq =>
    [⟨0x300014, 0x1FFFFF, 0x0, 0x0⟩,
     ⟨0x300018, 0x7FFFF, 0x0, 0x0⟩,
     ⟨0x30001C, 0x7FFFF, 0x0, 0x0⟩,
     ⟨0x300020, 0x1FFFFFF, 0x0, 0x0⟩,
     ⟨0x300024, 0x1FFF, 0x1000, 0x1000⟩]
  | .memRsv =>
    [⟨0x400010, 0x3FF, 0x80, 0x40⟩,
     ⟨0x400014, 0x3FF, 0x200, 0x100⟩,
     ⟨0x400018, 0x3FF, 0x100, 0x80⟩,
     ⟨0x40001C, 0x7, 0x4, 0x4⟩,
     ⟨0x400020, 0x7FF, 0x400, 0x200⟩]
  | .memTherm =>
    [⟨0x400040, 0xF007F, 0x5F, 0x5F⟩]
  | .corSlot =>
    [⟨0x500014, 0x807F0FFF, 0x0, 0x0⟩,
     ⟨0x500018, 0xFFFFFF, 0x0, 0x0⟩]
  | .corTer =>
    [⟨0x580014, 0x80000FFF, 0x0, 0x0⟩]
  | .arr =>
    [⟨0x600010, 0x8000FFFF, 0x8000EA60, 0x8000EA60⟩]
  | .fmt => ⟨0x680004, 0xC0FFF301, 0, 0⟩ :: (List.range 256).map (fun c => ⟨0x680400 + 4 * c, 0xC001FFFF, 0, 0⟩)
  | .vnlPort =>
    [⟨0x700000, 0x800FFFFF, 0x0, 0x0⟩,
     ⟨0x700004, 0xFFFFFFFF, 0x0, 0x0⟩,
     ⟨0x700008, 0xFFFFFFF0, 0x10104080, 0x10104080⟩,
     ⟨0x70000C, 0xFFFFFF00, 0xFFC41400, 0xFFC41400⟩]
  | .vnlPcl =>
    [⟨0x780014, 0x8FFFFFFF, 0x0, 0x0⟩,
     ⟨0x780018, 0xFFFFF, 0x0, 0x0⟩,
     ⟨0x78001C, 0xFFFFF000, 0x0, 0x0⟩,
     ⟨0x780020, 0xFFFFFFFF, 0x0, 0x0⟩,
     ⟨0x780024, 0x1FFFF, 0x0, 0x0⟩]
  | .col =>
    [⟨0x800010, 0xFFFFF, 0x203E8, 0x203E8⟩]
  | .stpTen =>
    [⟨0x900014, 0xFFFF0003, 0x640001, 0x640001⟩,
     ⟨0x900018, 0x3FF07FF, 0x0, 0x0⟩]
  | .rckTen =>
    [⟨0xA00014, 0x8FFF00FF, 0x100028, 0x100028⟩]
  | .rckWear =>
    [⟨0xA000C0, 0xFFFF, 0x1564, 0xAB2⟩]
  | .cel =>
    [⟨0xB00020, 0x80FFFFFF, 0x80403000, 0x80403000⟩,
     ⟨0xB00024, 0xFFFFFFFF, 0x0, 0x0⟩,
     ⟨0xB00028, 0xFFFFFFFF, 0x0, 0x0⟩,
     ⟨0xB0002C, 0xFFFFFFFF, 0x0, 0x0⟩,
     ⟨0xB00030, 0xFFFFFFFF, 0x0, 0x0⟩,
     ⟨0xB00034, 0xFFFF, 0x0, 0x0⟩]
  | .celSvc =>
    [⟨0xB00044, 0xC00FFFFF, 0x0, 0x0⟩,
     ⟨0xB00048, 0xFFFFFFFF, 0x0, 0x0⟩,
     ⟨0xB0004C, 0xFFFFFFFF, 0x0, 0x0⟩,
     ⟨0xB00050, 0xFFFFFFFF, 0x0, 0x0⟩,
     ⟨0xB00054, 0xFFFFFFFF, 0x0, 0x0⟩,
     ⟨0xB00058, 0xFFFF, 0x0, 0x0⟩]
  | .celTbl =>
    [⟨0xB00104, 0xFFFFFFFF, 0x0, 0x0⟩,
     ⟨0xB00108, 0xFFFFFFFF, 0x0, 0x0⟩,
     ⟨0xB0010C, 0xFFFF, 0x0, 0x0⟩]
  | .err =>
    [⟨0xC00010, 0x800FFFFF, 0x800003E8, 0x800003E8⟩]
  | .pwr =>
    [⟨0xD00010, 0x8F03FFFF, 0x104B0, 0x10258⟩,
     ⟨0xD00014, 0xFFFFFFFF, 0x4B004B0, 0x2580258⟩,
     ⟨0xD00018, 0x7F, 0x64, 0x64⟩,
     ⟨0xD0001C, 0xFFFFFF, 0x1E1914, 0x1E1914⟩,
     ⟨0xD00020, 0xFFFF, 0x0, 0x0⟩]
  | .tim =>
    [⟨0xE00020, 0xFFFFFFFF, 0x0, 0x0⟩,
     ⟨0xE00024, 0xFF, 0x4, 0x4⟩,
     ⟨0xE00028, 0xFFFFFFFF, 0x0, 0x0⟩,
     ⟨0xE0002C, 0xFFFFFFFF, 0x0, 0x0⟩,
     ⟨0xE00030, 0x80FFFF00, 0xC83200, 0xC83200⟩,
     ⟨0xE00034, 0xFFFF, 0x1F4, 0x1F4⟩,
     ⟨0xE00038, 0xE000FFFF, 0x80000A40, 0x80000A40⟩]
  | .secKey =>
    [⟨0xF00014, 0xFFFFFFFF, 0x0, 0x0⟩,
     ⟨0xF00018, 0xFFFFFFFF, 0x0, 0x0⟩]
  | .secCmd =>
    [⟨0xF00050, 0xFFFFFFFF, 0x0, 0x0⟩,
     ⟨0xF00054, 0xFFFFFFFF, 0x0, 0x0⟩,
     ⟨0xF00058, 0xFFFF, 0x0, 0x0⟩]
  | .dbg =>
    [⟨0x1000010, 0xC7000003, 0x0, 0x0⟩]
  | .dbgTen =>
    [⟨0x1000104, 0xC71F0000, 0x60000, 0x60000⟩,
     ⟨0x1000108, 0xFFFFFF, 0x0, 0x0⟩,
     ⟨0x100010C, 0xFFFFF000, 0x0, 0x0⟩,
     ⟨0x1000110, 0xFFFFFFFF, 0x0, 0x0⟩,
     ⟨0x1000114, 0x8000001F, 0x4, 0x4⟩]
  | .boot =>
    [⟨0x1100010, 0x80000000, 0x80000000, 0x80000000⟩]
  | .bootUpd =>
    [⟨0x1100110, 0xFFFFFFFF, 0x0, 0x0⟩,
     ⟨0x1100114, 0xFFFFFFFF, 0x0, 0x0⟩,
     ⟨0x1100118, 0xFFFFFFFF, 0x0, 0x0⟩]

/-- The selector of a group that has one: address in window 0 and the bits of it that are not reserved. -/
def Grp.sel : Grp → Option (Nat × Nat)
  | .hifTen => some (0x100010, 0xFFF)
  | .rng => some (0x200000, 0xFFFFF)
  | .plnTq => some (0x300010, 0xFFF)
  | .corSlot => some (0x500010, 0x7)
  | .corTer => some (0x580010, 0x3F)
  | .fmt => some (0x680000, 0xF)
  | .vnlPcl => some (0x780010, 0x3)
  | .stpTen => some (0x900010, 0xFFF)
  | .rckTen => some (0xA00010, 0xFFF)
  | .celSvc => some (0xB00040, 0x1F)
  | .celTbl => some (0xB00100, 0xF0F)
  | .secKey => some (0xF00010, 0x7)
  | .dbgTen => some (0x1000100, 0xFFF)
  | .pln | .memRsv | .memTherm | .arr | .vnlPort | .col | .rckWear | .cel | .err | .pwr | .tim | .secCmd | .dbg | .boot | .bootUpd => none

/-- The status register of a group, in window 0. -/
def Grp.cstat : Grp → Nat
  | .hifTen => 0x100028
  | .rng => 0x20001C
  | .pln => 0x300008
  | .plnTq => 0x30002C
  | .memRsv => 0x400028
  | .memTherm => 0x400048
  | .corSlot => 0x500020
  | .corTer => 0x58001C
  | .arr => 0x600018
  | .fmt => 0x68000C
  | .vnlPort => 0x700014
  | .vnlPcl => 0x78002C
  | .col => 0x800018
  | .stpTen => 0x900020
  | .rckTen => 0xA0001C
  | .rckWear => 0xA000C8
  | .cel => 0xB0003C
  | .celSvc => 0xB00060
  | .celTbl => 0xB00114
  | .err => 0xC00018
  | .pwr => 0xD00028
  | .tim => 0xE00040
  | .secKey => 0xF00020
  | .secCmd => 0xF00060
  | .dbg => 0x1000018
  | .dbgTen => 0x100011C
  | .boot => 0x1100018
  | .bootUpd => 0x1100120

/-- Windows of a group: how many of its objects have a register window of their own, and the windows' distance (cores,
dies, Vine ports). -/
def Grp.windows (half : Bool) : Grp → Nat × Nat
  | .corSlot => (if half then 64 else 128, 0x1000)
  | .corTer => (if half then 2 else 4, 0x1000)
  | .vnlPort => (if half then 8 else 16, 0x4000)
  | _ => (1, 0)

/-- Number of registers of a group. -/
def Grp.size (g : Grp) : Nat := g.regs.length

/-- Reset value of register `i` of a group. -/
def Grp.reset (half : Bool) (g : Grp) (i : Nat) : Word :=
  match g.regs[i]? with
  | some r => wordOf (if half then r.half else r.full)
  | none => 0

/-- Writable bits of register `i` of a group. -/
def Grp.mask (g : Grp) (i : Nat) : Word :=
  match g.regs[i]? with
  | some r => wordOf r.mask
  | none => 0

/-- Offset of register `i` in its 1 MiB block window. -/
def Grp.offset (g : Grp) (win i : Nat) : Nat :=
  match g.regs[i]? with
  | some r => (r.addr + win * (g.windows false).2) % 0x100000
  | none => 0

/-- The register that reports a check naming no field of the group (R62): its selector, or its lowest-offset
register. -/
def Grp.selOffset (g : Grp) (win : Nat) : Nat :=
  match g.sel with
  | some (a, _) => (a + win * (g.windows false).2) % 0x100000
  | none => g.offset win 0

/-- The group, window and register position an address of PF0 BAR0 names, if it is an RWC register. -/
def grpAt (half : Bool) (a : Nat) : Option (Grp × Nat × Nat) :=
  allGrps.findSome? (fun g =>
    (List.range (g.windows half).1).findSome? (fun w =>
      (g.regs.findIdx? (fun r => decide (r.addr + w * (g.windows half).2 = a))).map (fun i => (g, w, i))))

/-- The group and window whose selector an address names, with the selector's bits. -/
def selAt (half : Bool) (a : Nat) : Option (Grp × Nat × Nat) :=
  allGrps.findSome? (fun g =>
    match g.sel with
    | none => none
    | some (b, m) =>
      (List.range (g.windows half).1).findSome? (fun w =>
        if b + w * (g.windows half).2 = a then some (g, w, m) else none))

/-- The group and window whose status register an address names. -/
def cstatAt (half : Bool) (a : Nat) : Option (Grp × Nat) :=
  allGrps.findSome? (fun g =>
    (List.range (g.windows half).1).findSome? (fun w =>
      if g.cstat + w * (g.windows half).2 = a then some (g, w) else none))

/-- Key of register `i` of object `obj` of a group in the table of committed sets. -/
def setKey (g : Grp) (obj i : Nat) : Nat := (obj * 32 + g.idx) * 512 + i
/-- Group number, object and register position of a key of that table. -/
def keyGrp (k : Nat) : Nat := k / 512 % 32
def keyObj (k : Nat) : Nat := k / 512 / 32
/-- Bits that a register at a key of that table holds; its other bits are reserved and read as zero (R10). -/
def keyMask (k : Nat) : Word :=
  match allGrps[keyGrp k]? with
  | some g => g.mask (k % 512)
  | none => 0

/-- Key of register `i` of an accessor's shadow of a group's window. -/
def shadowKey (acc : Nat) (g : Grp) (win i : Nat) : Nat := ((acc * 32 + g.idx) * 256 + win) * 512 + i

/-- Key of an accessor's status register of a group's window. -/
def statKey (acc : Nat) (g : Grp) (win : Nat) : Nat := (acc * 32 + g.idx) * 256 + win

/-- Read-write registers outside every commit group that are no group's selector: address and writable bits. -/
def plainRw : List (Nat × Nat) :=
  [(0xA00040, 0x3), (0xB00180, 0x3F), (0xC00300, 0x3), (0xD00200, 0x1F03), (0x1000040, 0x3F), (0x1000080, 0xFF),
   (0x1000084, 0x1FFFFFF), (0x1000180, 0x7F3F), (0x10001C0, 0x7F), (0x10001C4, 0xFFFFF), (0x1100040, 0xFF),
   (0x1200018, 0xFFFFFFFF), (0x120001C, 0xFFFFFFFF)]

end Sys2Proof.Machine
end

