-- ==== Sys2Proof/Machine/State.lean ====
section
/-!
DEFINITION. Machine/State.lean: the state of the module as plain data, block by block, its queue of waiting commands, the
reasons a command can stop, and the state after reset.
-/
namespace Sys2Proof.Machine

/-- Kinds of answers of the Cave on DOE or MCTP (R550, R551). -/
inductive Rsp where
  | error | version | capabilities | algorithms | digests | certificate | challengeAuth | measurements | keyExchange | finish
  | endSession | heartbeat | keyUpdate | chunkSend | chunk | ideQuery | ideKp | ideGo | ideStop
  | tdispError | tdispVersion | tdispCapabilities | tdispLock | tdispReport | tdispState | tdispStart | tdispStop
deriving DecidableEq, Repr

/-- What the module sends outside, the model's own observation list. -/
inductive Out where
  /-- A memory write to the host: function, PASID, address, bytes (R44, R46). -/
  | hostWrite (fn : Nat) (pasid : Option Nat) (addr : Nat) (data : List Byte)
  /-- An MSI-X interrupt: function, vector (R93). -/
  | msix (fn vec : Nat)
  /-- A descriptor fetch read: function, PASID, address, bytes (R83). -/
  | fetchRead (fn : Nat) (pasid : Option Nat) (addr n : Nat)
  /-- A read of host memory for a tenant or for PF0: function, PASID, address, bytes (R46, R112, R292). -/
  | hostRead (fn : Nat) (pasid : Option Nat) (addr n : Nat)
  /-- A flit envelope of a Vine port, 288 bytes (Table 07.1). -/
  | flit (port : Nat) (bytes : List Byte)
  /-- A Vine message before its flits: slot of a binding, class, destination, bytes. -/
  | vine (bind slot cls dest : Nat) (bytes : List Byte)
  /-- What the service port sends (R438, R527): 0 a service frame, 1 NTP, 2 an ARP reply, 3 a neighbour advertisement, 4 an
  ICMP echo reply; service-peer entry, server or address; bytes. -/
  | svc (proto dest : Nat) (bytes : List Byte)
  /-- An answer of the Cave on DOE or MCTP. -/
  | spdm (rsp : Rsp) (bytes : List Byte)
  /-- A completion of a configuration or memory read, a TAP shift or a register read with an effect. -/
  | value (v : Nat)
  /-- A request to the translation agent that the invalidation has completed (R43). -/
  | atsDone (fn page pages : Nat)
deriving DecidableEq, Repr

/-! ## Host link, tenants, rings (02) -/

/-- Tenant states of Table 02.2. No rule names an event that puts a tenant in QUARANTINE: DESIGN CHOICE, no command enters it (log 142). -/
inductive TenSt where
  | free | active | teardown | quarantine
deriving DecidableEq, Repr

/-- Ring states of Table 02.11. -/
inductive RingState where
  | disabled | active | draining | error
deriving DecidableEq, Repr

/-- A ring's context beside its committed registers (Table 02.9): error code, counts of 32 bits, the PASID word copied
at enable, reserved slots of a completion ring, the interrupt gap and what it owes, whether an interrupt of it is held by a mask
(R93), how often it has been enabled, the fetch reads outstanding as (first count, tags assigned to the entries). -/
structure Ring where
  st : RingState := .disabled
  err : Nat := 0
  latched : Nat := 0
  fetched : Nat := 0
  posted : Nat := 0
  consumed : Nat := 0
  pasid : Word := 0
  resv : Nat := 0
  gap : Bool := false
  owed : Bool := false
  masked : Bool := false
  gen : Nat := 0
  reads : List (Nat × List Nat) := []
deriving DecidableEq, Repr

/-- Where a live descriptor stands: fetched, waiting for a step (R344), executing, waiting for promotions, waiting for
hold or lees space, done and held with its step (R348), or lost with the link (R97). -/
inductive Stage where
  | fetched | attachWait | running | promo | holdWait | spaceWait | held | drained | lost
deriving DecidableEq, Repr

/-- One live request tag (R84): its ring, the count it was fetched at, the 64 bytes of the descriptor, its stage, the
step it attached to (R344), the held status, detail and result, data waiting to move, and a mark for its own use; of a FENCE (R81)
the counts of the descriptors it waits for, how many entries still to be fetched it waits for, and the enabling of wait_ring they belong
to. -/
structure Live where
  ring : Nat
  count : Nat
  desc : List Byte
  stage : Stage := .fetched
  step : Option Nat := none
  status : Nat := 0
  detail : Nat := 0
  result : Nat := 0
  buf : List Byte := []
  aux : Nat := 0
  waits : List Nat := []
  more : Nat := 0
  gen : Nat := 0
deriving DecidableEq, Repr

/-- What a tenant holds beside its commit groups: state, the binding it holds until it is FREE (R64): function, slot and PASID
word; lost-event count (R92), the tick of the last TAG_QUOTA_PAUSE. -/
structure Ten where
  st : TenSt := .free
  fn : Nat := 0
  slot : Nat := 0
  pasid : Word := 0
  lost : Nat := 0
  pauseAt : Option Nat := none
deriving DecidableEq, Repr

/-- The host interface: HIF_LINK fields, tracker counts, doorbell counts, the SR-IOV capability, MSI-X words, function
masks and pending bits, the tenants, rings and live tags; host ranges whose translation grants no write (R691) as
(function, first page, pages); whether the link has been up since the module reset; the fetch reads granted to each class and
tenant in the present round of arbitration (R648), by 4096 × class + tenant; ATS invalidations that wait for fetch reads, as function, first
page, pages and the reads as (ring, first count) (Table 02.21). -/
structure Hif where
  epoch : Nat := 0
  width : Nat := 0
  rate : Nat := 0
  flit : Bool := false
  resumePending : Bool := false
  ideLink : Bool := false
  up : Bool := false
  trkPeak : Nat := 0
  trkPause : Nat := 0
  dbStale : Nat := 0
  dbIgnored : Nat := 0
  vfEnable : Bool := false
  numVfs : Nat := 0
  vfIgnore : List Nat := []
  msixWords : Map Word := []
  msixFnMask : List Nat := []
  msixPend : List Nat := []
  tens : Map Ten := []
  rings : Map Ring := []
  live : Map Live := []
  denied : List (Nat × Nat × Nat) := []
  wasUp : Bool := false
  served : Map Nat := []
  invals : List (Nat × Nat × Nat × List (Nat × Nat)) := []
deriving DecidableEq, Repr

/-! ## Commit groups (02, 22) -/

/-- One commit whose checks have not run (R61): accessor code, group, window, object (none: an unbound selection), the
command value written, the snapshot in the group's register order. -/
structure PendCommit where
  acc : Nat
  grp : Grp
  win : Nat
  obj : Option Nat
  cmd : Nat
  snap : List Word
deriving DecidableEq, Repr

/-- The committed sets, shadows, status registers (result, bad_offset) and the pending commits in arrival order. -/
structure Groups where
  sets : Map Word := []
  shadows : Map Word := []
  cstat : Map (Nat × Nat) := []
  pend : List PendCommit := []
deriving DecidableEq, Repr

/-! ## Handles, pages, stacks (03) -/

/-- A tensor handle (R106, R107, Table 03.4, R380): owner, size, flags, replica count, rank and stride, rack key;
the step that created it or freed it undrawn (R117), whether it is invalid to new descriptors (R116), whether it is
reserved to a context slot or is otherwise not a tenant's to name (R173), the descriptors its pages wait for (R116), the
key and stride before an undrawn RACK_KEY (R382). -/
structure Hnd where
  tenant : Nat
  size : Nat
  replicated : Bool := false
  narrowable : Bool := false
  graftEach : Bool := false
  noRack : Bool := false
  repCount : Nat := 0
  repRank : Nat := 0
  stride : Nat := 0
  key : Nat := 0
  createdIn : Option Nat := none
  freedIn : Option Nat := none
  gone : Bool := false
  reserved : Bool := false
  waitFor : List Nat := []
  oldKeys : List (Nat × Nat × Nat) := []
deriving DecidableEq, Repr

/-- A page of a handle (R101, R118, R128): tier, stack, the preference, four access counts, abandoned moves since the
last ban, the ban on moves, the rack mark (R388), the 4 KiB blocks that are poisoned (R464) and the blocks already copied to the
rack reserve (R389). -/
structure Page where
  tier : Nat
  stack : Nat := 0
  prefTier : Nat := 0
  prefDie : Nat := 0
  c0 : Nat := 0
  c1 : Nat := 0
  c2 : Nat := 0
  c3 : Nat := 0
  abandons : Nat := 0
  banned : Bool := false
  mark : Bool := false
  poison : List Nat := []
  copied : List Nat := []
deriving DecidableEq, Repr

/-- A page move in flight (R127): the page, its destination, the page whose demotion it waits for (R121), and whether it
is a promotion an access waits for (R123), and the 64-byte lines written since its copy began (R127). -/
structure Move where
  page : Nat
  tier : Nat
  stack : Nat
  after : Option Nat := none
  promo : Bool := false
  lines : List Nat := []
deriving DecidableEq, Repr

/-- A line of a press buffer (R130): stack, tenant, handle, line number in the handle, the bytes of it written so far as
(offset in line, byte), whether it holds an uncorrectable error (Table 12.3). -/
structure PressLine where
  stack : Nat
  tenant : Nat
  hnd : Nat
  line : Nat
  data : List (Nat × Byte)
  bad : Bool := false
deriving DecidableEq, Repr

/-- A T0 stack (Table 03.10): state 0 to 3, throttle level, temperature, counts, and whether the compute complex was
reset since the trip (R138). -/
structure Stk where
  st : Nat := 0
  level : Nat := 0
  temp : Nat := 0
  thrCnt : Nat := 0
  tripCnt : Nat := 0
  resetSince : Bool := false
deriving DecidableEq, Repr

/-- A write that waits (R123, R360, R389): who made it (a request tag, or 2^20 + core for a core), its step, its handle,
byte offset and bytes, all in one 4 KiB block. -/
structure WaitW where
  who : Nat
  tenant : Nat
  step : Option Nat
  hnd : Nat
  off : Nat
  bytes : List Byte
deriving DecidableEq, Repr

/-- The Planter and the memory system. `zeroing` holds (tier, stack, pages); `therm` the thermal set in force. -/
structure Pln where
  hnds : Map Hnd := []
  pages : Map Page := []
  zeroing : List (Nat × Nat) := []
  moves : List Move := []
  press : List PressLine := []
  waits : List WaitW := []
  stk : Map Stk := []
  therm : Word := 0x5F
  retire : Word := 0
  migDone : Nat := 0
  migAbandon : Nat := 0
  hintUnmet : Nat := 0
deriving DecidableEq, Repr

/-! ## Steps (09) -/

/-- A time-base value: seconds and nanoseconds. -/
structure Time where
  s : Nat := 0
  ns : Nat := 0
deriving DecidableEq, Repr

/-- The record of counters and pools of one core slot at a step's open (R260). -/
structure CntRec where
  slot : Nat
  cnts : Map Nat
  pools : Map Nat
deriving DecidableEq, Repr

/-- A REPORT a member holds from a child (R351, Table 09.5). -/
structure Rep where
  sender : Nat
  covered : Nat
  origin : Nat
  late : Nat
  early : Nat
deriving DecidableEq, Repr

/-- An undrawn step (R340): number, open or sealed, the tag and instant of its seal, the failure recorded against it,
where its clean report stands (handed to the Cellarer, arrived in a batch, left at a strobe, sent to the parent), the children's reports, the record
of R260, and whether draw_limit_ms has passed once (R369). -/
structure StepRec where
  num : Nat
  opened : Bool := true
  sealTag : Option Nat := none
  sealAt : Time := {}
  unclean : Bool := false
  failed : Option Nat := none
  handed : Bool := false
  arrived : Bool := false
  left : Bool := false
  sent : Bool := false
  reps : List Rep := []
  record : List CntRec := []
  late : Bool := false
deriving DecidableEq, Repr

/-- Step states of Table 09.3. -/
inductive StepSt where
  | idle | run | recover
deriving DecidableEq, Repr

/-- A tenant's steps (Table 09.12): state, undrawn steps oldest first, next expected and last drawn numbers, last
failure reason, split, stall and the tick of the last SPEC_STALL, first discarded step, whether RESTORE_DONE is
pending, the reason the next opened step fails with (R367), the highest step reported to the parent (R654), the REPORTs of
steps not opened yet, and the discarded steps not opened again (R353). -/
structure TenStep where
  st : StepSt := .idle
  steps : List StepRec := []
  next : Option Nat := none
  drawn : Option Nat := none
  reason : Nat := 0
  split : Bool := false
  stall : Bool := false
  stallAt : Option Nat := none
  firstDisc : Option Nat := none
  restoring : Bool := false
  failNext : Option Nat := none
  reported : Option Nat := none
  early : List (Nat × Rep) := []
  dead : List Nat := []
deriving DecidableEq, Repr

/-- A pre-image in the lees (R360), with the mark of R387. -/
structure PreImg where
  tenant : Nat
  step : Nat
  hnd : Nat
  page : Nat
  block : Nat
  bytes : List Byte
  kept : Bool := false
deriving DecidableEq, Repr

/-- A held host write (R361): tag, step, function, PASID, address, bytes. -/
structure HoldW where
  tag : Nat
  tenant : Nat
  step : Nat
  fn : Nat
  pasid : Option Nat
  addr : Nat
  bytes : List Byte
deriving DecidableEq, Repr

/-- A held event (R363). -/
structure HoldE where
  tenant : Nat
  step : Nat
  code : Nat
  subject : Nat
  detail : Nat
deriving DecidableEq, Repr

/-- The step logic of the IOD. -/
structure Stp where
  tens : Map TenStep := []
  lees : List PreImg := []
  hold : List HoldW := []
  holdEv : List HoldE := []
  draining : List HoldW := []
  draws : Nat := 0
  fails : Nat := 0
  drawLast : Nat := 0
  drawMax : Nat := 0
  specStalls : Nat := 0
deriving DecidableEq, Repr

/-! ## Racks and grafts (10) -/

/-- One racked piece: rack key, page, block, bytes (a whole 4 KiB block before narrowing). -/
structure RackBlk where
  key : Nat
  page : Nat
  block : Nat
  bytes : List Byte
deriving DecidableEq, Repr

/-- A rack slot (R393, Table 10.12): 0 EMPTY, 1 FILLING, 2 COMPLETE; `seq` orders the COMPLETE racks, `kid` is the key
identifier (Table 15.5). -/
structure Slot where
  st : Nat := 0
  lineage : Bool := false
  grafted : Bool := false
  narrowed : Bool := false
  tenant : Nat := 0
  parcel : Nat := 0
  step : Nat := 0
  bytes : Nat := 0
  manifest : List Byte := []
  blks : List RackBlk := []
  seq : Nat := 0
  kid : Option Nat := none
deriving DecidableEq, Repr

/-- The rack being taken (R384 to R394): its descriptor, step, slot, the handles it narrows, whether the marks are set
and the copy pass is done, whether it is grafted, the reserve's contents, whether it waits for the buddy's offer (R401), narrow_ok, its
rackable handles as of its step, and their hashes once the copy pass is done. -/
structure RackJob where
  tag : Nat
  tenant : Nat
  step : Nat
  slot : Nat
  size : Nat
  narrowed : List Nat := []
  marked : Bool := false
  passed : Bool := false
  graft : Bool := false
  graftOk : Bool := false
  blks : List RackBlk := []
  asking : Bool := false
  narrowOk : Bool := false
  hs : List (Nat × Hnd) := []
  hashes : List (Nat × Nat) := []
deriving DecidableEq, Repr

/-- A graft-in entry (R401, R403, Table 10.12): image and shadow of one sender, its rack graft with its manifest; `bad`: a check of the
uncommitted data failed (R470); the step of the uncommitted shadow. -/
structure Gin where
  valid : Bool := false
  cover : Bool := false
  tenant : Nat := 0
  sender : Nat := 0
  step : Option Nat := none
  image : List RackBlk := []
  shadow : List RackBlk := []
  shadowStep : Option Nat := none
  entries : List Byte := []
  rackStep : Option Nat := none
  rack : List RackBlk := []
  rackMan : List Byte := []
  bad : Bool := false
deriving DecidableEq, Repr

/-- A tenant's graft state (Table 10.6, Table 10.12): 0 NONE, 1 FULL, 2 CURRENT, 3 STALE; `sent`: the manifest entries the buddy holds
(R403). -/
structure TenRack where
  graft : Nat := 0
  lineage : Bool := false
  cover : Bool := false
  gstep : Option Nat := none
  flight : Option Nat := none
  offer : Nat := 0
  sent : Option (List Byte) := none
  phase1 : Option Nat := none
  written : List (Nat × Nat × Nat × Nat) := []
deriving DecidableEq, Repr

/-- A restore or seed in progress (R409 to R412): its descriptor, whether it is a seed, the step, the (key, handle) map
of handles it works on, the blocks asked for and not answered as (key, block of the handle), the handles it created; its phase (0 entries asked
for, 1 and 2 as R410), where it reads (1 rack graft, 2 a slot, 3 an image), of which coordinate, from which donor, and
the manifest or its entries. -/
structure Rest where
  tag : Nat
  tenant : Nat
  seed : Bool
  step : Nat
  lineage : Bool := false
  map : List (Nat × Nat) := []
  asked : List (Nat × Nat) := []
  created : List Nat := []
  phase : Nat := 0
  kind : Nat := 0
  src : Nat := 0
  donor : Nat := 0
  entries : List Byte := []
deriving DecidableEq, Repr

/-- A hash a rank-0 member has received or owns (R400). -/
structure HashRec where
  tenant : Nat
  sender : Nat
  key : Nat
  step : Nat
  hash : Nat
  own : Bool
deriving DecidableEq, Repr

/-- A read this module owes to another member (R410, R412). -/
structure ReadOwed where
  tenant : Nat
  msg : List Byte
deriving DecidableEq, Repr

/-- The rack block. `bucket` is the wear bucket in bytes times 86,400 (so that a second's gain is exact), `total` bytes
programmed (R417). -/
structure Rck where
  slot0 : Slot := {}
  slot1 : Slot := {}
  job : Option RackJob := none
  tens : Map TenRack := []
  gin : Map Gin := []
  rests : List Rest := []
  hashes : List HashRec := []
  owed : List ReadOwed := []
  mismatch : Nat := 0
  uncompared : Nat := 0
  seq : Nat := 0
  bucket : Int := 0
  total : Nat := 0
  wearAt : Option Nat := none
deriving DecidableEq, Repr

/-! ## Vine (07) -/

/-- Port states of Table 07.2. -/
inductive PortSt where
  | off | dark | identify | equalize | align | hedged | opened | retrain | fenced
deriving DecidableEq, Repr

/-- The handshake of a hedged port (R296, R297): own challenge; the peer's HELLO (parcel, challenge, chain digest);
whether the peer's chain is known; own token being signed, issued; peer token received (160 bytes), being verified;
the verdicts given and received; the reason of a WAIT being sent; the bytes of the latest unanswered message. -/
structure Shake where
  active : Bool := false
  challenge : Nat := 0
  peerHello : Option (Nat × Nat × Nat) := none
  chain : Bool := false
  signing : Bool := false
  issued : Bool := false
  peerTok : List Byte := []
  verifying : Bool := false
  verified : Bool := false
  peerOk : Bool := false
  waiting : Option Nat := none
  latest : List Byte := []
  dead : Bool := false
deriving DecidableEq, Repr

/-- A sent flit kept until acknowledged (R271): counter, the 288 bytes as sent, class, times resent since the last
retraining, whether it has been handed over for diversion (R301). -/
structure TxFlit where
  ctr : Nat
  bytes : List Byte
  cls : Nat
  resent : Nat := 0
  div : Bool := false
deriving DecidableEq, Repr

/-- Error totals of Table 07.9. -/
structure PortErr where
  fecCorr : Nat := 0
  fecUncorr : Nat := 0
  crc : Nat := 0
  replay : Nat := 0
  replayTo : Nat := 0
  auth : Nat := 0
  badType : Nat := 0
  retrain : Nat := 0
  divert : Nat := 0
deriving DecidableEq, Repr

/-- A Vine port (Tables 07.2, 07.11): state, last reason, the peer of IDENTIFY, memo use, residue tenant; transmit counter
and retry buffer, next counter expected, credits held by class, the parts received of a message of each class and of a
diverted one, the counters accepted over the service port, keys held (the gate is open at this end); totals and window
counts, failed equalisations in a row, the ticks of its retrainings, the handshake, handshake messages received and the
part of the next; the admission as (parcel key, own challenge, peer's challenge); heartbeat, margins reported by lane, measurements of the last second by lane
as (tick, power, eye), due time. -/
structure Port where
  st : PortSt := .off
  reason : Nat := 0
  peer : Nat := 0
  peerPort : Nat := 0
  memoHit : Bool := false
  residue : Option Nat := none
  txCtr : Nat := 0
  retry : List TxFlit := []
  rxCtr : Nat := 0
  credits : List Nat := [0, 0, 0, 0]
  part : Map (List Byte) := []
  divPart : List Byte := []
  diverted : List Nat := []
  keys : Bool := false
  err : PortErr := {}
  wUncorr : Nat := 0
  wCrc : Nat := 0
  wReplay : Nat := 0
  eqFails : Nat := 0
  retrains : List Nat := []
  shake : Shake := {}
  hbAt : Option Time := none
  train : List (List Byte) := []
  trainPart : List Byte := []
  adm : Option (Nat × Nat × Nat) := none
  margins : Map (Nat × Nat) := []
  measured : Map (List (Nat × Nat × Nat)) := []
  marginAt : Option Nat := none
  lowAt : Option Nat := none
deriving DecidableEq, Repr

/-- A binding beside its committed group: next hop of every coordinate, longest route, ready mark, member table in
force as (module ID, present). -/
structure Bind where
  members : List (Nat × Bool) := []
  hops : List (Option Nat) := []
  maxHops : Nat := 0
  ready : Bool := false
  readySent : Bool := false
deriving DecidableEq, Repr

/-- A link entry of the fabric memo (R285): peer, circuit, coefficients, own and peer port, chain digest. -/
structure MemoLink where
  peer : Nat
  circuit : Nat
  coef : Nat
  port : Nat
  peerPort : Nat
  digest : Nat
deriving DecidableEq, Repr

/-- A route entry of the fabric memo (R285). -/
structure MemoRoute where
  parcel : Nat
  coord : Nat
  digest : Nat
  gen : Nat
  hops : List (Option Nat)
  maxHops : Nat
deriving DecidableEq, Repr

/-- A message waiting to be sent through a slot (R278, R301, R302): binding, slot, class, destination coordinate, bytes, and the OPEN
port in whose transmit queue it stands. -/
structure VMsg where
  bind : Nat
  slot : Nat
  cls : Nat
  dest : Nat
  bytes : List Byte
  port : Option Nat := none
deriving DecidableEq, Repr

/-- The Vine block. -/
structure Vnl where
  ports : Map Port := []
  binds : Map Bind := []
  memoLinks : List MemoLink := []
  memoRoutes : List MemoRoute := []
  memoHits : Nat := 0
  memoMisses : Nat := 0
  queue : List VMsg := []
  inbox : List (Nat × List Byte) := []
  diverts : List (Nat × List Byte) := []
deriving DecidableEq, Repr

/-! ## The cellar book (18) -/

/-- A cellar-book record before its commit (Table 18.1): seq, hours, cycles, die and crc are filled in at the commit. -/
structure Rec where
  code : Nat
  tenant : Option Nat := none
  subject : Nat := 0
  detail : Nat := 0
  step : Nat := 0
  spec : Bool := false
  at_ : Time := {}
deriving DecidableEq, Repr

/-- The cellar book: the records held as (sequence number, 64 bytes) newest last, head, floor, cursor, records waiting,
dropped counts, the hours count in units of 0.1 s with the ticks of the next unit, the count the retention array holds, whether
the next commit brings it up to date (R629), the result of the last clear. -/
structure Book where
  recs : Map (List Byte) := []
  head : Nat := 0
  floor : Nat := 0
  waiting : List Rec := []
  lost : Nat := 0
  dropped : Nat := 0
  hours : Nat := 0
  hourSub : Nat := 0
  hoursKept : Nat := 0
  hoursDue : Bool := false
  clear : Nat := 0
deriving DecidableEq, Repr

/-- A ledger record (Table 17.7). -/
structure Ldg where
  seq : Nat
  attempt : Nat
  step : Nat
  isEnd : Bool := false
  path : Nat := 0
  result : Nat := 0
  hours : Nat := 0
  cycles : Nat := 0
  ms : Nat := 0
  detail : Nat := 0
deriving DecidableEq, Repr


/-! ## Errors (12) -/

/-- A stress pass on a die (R473 to R476, Table 12.9). -/
structure Stress where
  running : Bool := false
  testing : Bool := false
  result : Nat := 0
  fails : Nat := 0
  fenced : Nat := 0
  freq : Nat := 0
  failmap : Nat := 0
  doneAt : Option Time := none
deriving DecidableEq, Repr

/-- The error collectors: the fence (R456), the compute complex reset (pending, asserted, its source, when, the tenants
reached, the die that asserted it and at which tick), ERR registers, corrected and uncorrected counts per unit, the ticks of each unit's latest corrected errors and of its last CE_LIMIT (R479), the ends of the last
complete scrubs, the stress passes. -/
structure Err where
  fence : Bool := false
  resetPend : Option Nat := none
  resetOn : Option Nat := none
  resetAt : Time := {}
  reached : List Nat := []
  resetDie : Nat := 2
  resetTick : Nat := 0
  lastInfo : Nat := 0
  lastTime : Nat := 0
  complexResets : Nat := 0
  checkFail : Nat := 0
  ce : Map Nat := []
  ue : Map Nat := []
  ceTimes : Map (List Nat) := []
  ceAt : Map Nat := []
  scrub0 : Time := {}
  scrub1 : Time := {}
  stress : Map Stress := []
deriving DecidableEq, Repr

/-! ## The Cellarer pair (11) -/

/-- An upward control-link message (R24, R349, R443, R456, R500, R502): what the owner consumes in a cycle. A fault
carries whether its step failures have already been made. -/
inductive UpMsg where
  | fault (src cls unit core : Nat) (tens : List Nat) (acted : Bool)
  | seal (t n : Nat)
  | boundary (late : Bool)
  | inputLow
  | event (tbl inst code : Nat) (tens : List Nat) (subject detail : Nat)
deriving DecidableEq, Repr

/-- A demand interval (R499 to R506): UTC second it starts at, its length in seconds, the energy count at its start in
microjoules, its cap Pd, price class, the unmet mark. -/
structure Interval where
  start : Nat
  len : Nat
  e0 : Nat := 0
  cap : Nat := 0
  cls : Nat := 0
  unmet : Bool := false
deriving DecidableEq, Repr

/-- A staged output of a control cycle (R423, R425). The first group travels in the control batch to the IOD; the others
take effect at the owner at the strobe. -/
inductive COut where
  | report (t n : Nat)
  | drawSelf (t n : Nat)
  | failUp (t n reason : Nat)
  | portEn (p : Nat) (on : Bool)
  | stress (d : Nat)
  | sweep (d : Nat)
  | clock (d k : Nat)
  | governor (level : Nat)
  | retire (unit : Nat)
  | failPol (t : Nat)
  | volt (d mv : Nat)
  | power (req det : Nat)
  | fwCap (w : Option Nat)
  | interval (v : Option Interval)
  | closeOut
  | frame (kind : Nat) (dest : Option Nat) (stamp : Option Nat) (body : List Byte)
  | ntp (server : Nat) (stamp : Option Nat) (bytes : List Byte)
  | resetLine
  | table (typ num : Nat) (image : List Byte)
  | smState (typ inst st : Nat)
  | timer (p : Nat)
  | recd (r : Rec)
  | retained (off : Nat) (bytes : List Byte)
  | trig (k : Nat) (target : Time) (period : Nat)
  | alert (low : Bool)
  | leds (levels : Nat)
  | switchover
  | restart
deriving DecidableEq, Repr

/-- A control batch: cycle number, outputs (R425), and the die that emitted it (R24). -/
structure Batch where
  cycle : Nat
  outs : List COut
  die : Nat := 0
deriving DecidableEq, Repr

/-- A buffer of the Cellarer state image region (Table 01.3, R424): the cycle it is of, how many upward messages had been consumed by its
end, and the batch that cycle emitted. What else the cycle changed stands in the owner's own fields and in `Mram`. -/
structure Image where
  cycle : Nat
  seq : Nat
  outs : List COut
deriving DecidableEq, Repr

/-- The retention array of a Cellarer (Table 01.3, Table 17.1, Table 17.6) as the last commit strobe left it (R27, R28, R601): backup
registers by address, retained memory, fabric memo, the ledger and where it goes on, whether T1 coefficients are saved, the
autostart list, the kept core fences, the slot pointer with the states of both slots, the minimum versions and its sequence; the kept
registers: MEM_RETIRE, trip counts of stacks and dies, takeovers, compute complex resets, the energy total, the power cycles, the
wear configuration, the wear bucket and total, BOOT_CFG; the two image buffers. -/
structure Mram where
  regs : Map Word := []
  retained : Map Byte := []
  memoLinks : List MemoLink := []
  memoRoutes : List MemoRoute := []
  ledger : Map Ldg := []
  ldgNext : Nat := 0
  ldgSeq : Nat := 0
  t1Coef : Bool := false
  portAuto : Map Word := []
  fences : List Nat := []
  activeSlot : Nat := 0
  trial : Bool := false
  trialCnt : Nat := 0
  stA : Nat := 0
  stB : Nat := 0
  minVer : List Nat := [0, 0, 0, 0]
  ptrSeq : Nat := 0
  retire : Word := 0
  stkTrips : Map Nat := []
  dieTrips : Map Nat := []
  hot : Nat := 0
  cold : Nat := 0
  complexResets : Nat := 0
  energy : Nat := 0
  pwrCycles : Nat := 0
  wearCfg : Word := 0
  bucket : Int := 0
  total : Nat := 0
  bootCfg : Word := 0
  img0 : Option Image := none
  img1 : Option Image := none
deriving DecidableEq, Repr

/-- A service peer (number 0 to 31) or a neighbour without an entry (32 + 16 × binding + slot) under judgement (R439,
Table 11.17): `heard`: some heartbeat came since the entry was committed. -/
structure Peer where
  verdict : Nat := 0
  svcSilent : Bool := false
  wilting : Bool := false
  heard : Bool := false
  hbAt : Option Time := none
deriving DecidableEq, Repr

/-- An installed trellis table (R441, Table 11.17). -/
structure Trellis where
  loaded : Bool := false
  source : Nat := 0
  gen : Nat := 0
  body : List Byte := []
deriving DecidableEq, Repr

/-- A wilt-list entry (Table 11.14). -/
structure Wilt where
  kind : Nat
  subject : Nat
  since : Time
deriving DecidableEq, Repr

/-- What the owner keeps for policy: the next service-frame sequence number, frame numbers seen by sender, peers, silent slots,
trellis tables, the states of the machines (fault response, link bring-up by port, power), ports whose timer runs, wilt list, the
late histories, NOTICE frames and the NTP reply that policy firmware has not taken, retained memory, MOD_ALERT_N staged low, levels of MOD_LED0 to 2, in-band interrupts
of I3C targets that policy firmware has not taken. -/
structure Pol where
  svcSeq : Nat := 0
  seen : Map (List Nat) := []
  peers : Map Peer := []
  slotSilent : List Nat := []
  tables : Map Trellis := []
  frSt : Nat := 0
  lkSt : Map Nat := []
  pmSt : Nat := 0
  timers : List Nat := []
  wilts : List Wilt := []
  late : Map (List Bool) := []
  notices : List (Nat × List Byte) := []
  ntpIn : Option (Time × List Byte) := none
  retained : Map Byte := []
  alert : Bool := false
  leds : Nat := 7
  ibis : List Nat := []
deriving DecidableEq, Repr

/-! ## Cores and launches (04, 06) -/

/-- A queued tile (R235, Table 04.5): 16-byte header, line index, re-fire mark, the launch (request tag) and plot that
pushed it, whether it has fired and whether its handle writes have been made, its command block as last read, and the block whose
ranges order it, as read at its push or when its slot became resident again (R253). -/
structure QTile where
  hdr : List Byte
  line : Nat
  refire : Bool := false
  launch : Nat := 0
  plot : Nat := 0
  fired : Bool := false
  blk : List Byte := []
  rng : List Byte := []
  wrote : Bool := false
deriving DecidableEq, Repr

/-- What a slot's hart is doing: it has no plot, it runs, or it waits (R235, R176): for counter c with a count, for
pool p, for a free queue entry. -/
inductive HartSt where
  | off | run | waitCnt (c : Nat) | waitPool (p : Nat) | waitPush (line : Nat)
deriving DecidableEq, Repr

/-- A context slot of a core (R158, R176): counters and pools, overflow and bad-post counts, the hart's state, the
queue, whether its last swap-out left a running hart and a ready tile, the wait set of that swap-out and whether one of it was posted
since, the tile flags of the current launch, staged header and WAITN (Table 06.4), whether an image has been saved, the vector and
floating-point control state (R229), instructions retired (R149), and whether the swap that moves its context out saves one that was
withdrawn meanwhile (R191). -/
structure CSlot where
  cnts : Map Nat := []
  pools : Map Nat := []
  overflow : Nat := 0
  badPost : Nat := 0
  hart : HartSt := .off
  queue : List QTile := []
  readyOut : Bool := false
  waitSet : List Nat := []
  posted : Bool := false
  flags : Nat := 0
  hdr : List Byte := List.replicate 16 0
  waitN : Nat := 1
  image : Bool := false
  vtype : Nat := 2 ^ 63
  vl : Nat := 0
  fcsr : Nat := 0
  instret : Nat := 0
  dead : Bool := false
deriving DecidableEq, Repr

/-- Core states of Table 04.8. -/
inductive CoreSt where
  | absent | fenced | idle | running | preempting | swapping
deriving DecidableEq, Repr

/-- A core: state, resident slot and whether its context was swapped out for a stress pass or a power state (R473, R486), the slot
being swapped in, slots, the counters of R262 with the latches of R263, its
fault registers and swap counts. -/
structure Core where
  st : CoreSt := .absent
  slot : Nat := 0
  empty : Bool := false
  next : Nat := 0
  slots : Map CSlot := []
  preAt : Time := {}
  counters : Map Nat := []
  latches : Map Nat := []
  swaps : Nat := 0
  discards : Nat := 0
  fltInfo : Nat := 0
  fltPlot : Nat := 0
  fltCount : Nat := 0
deriving DecidableEq, Repr

/-- A launch's part on one core (R228, R231): the plots assigned and not begun in ascending order, the plot running,
plots ended, whether it has started there, whether its slot has run since the launch (R176), whether it has ended there. -/
structure LPart where
  core : Nat
  slot : Nat
  todo : List Nat := []
  plot : Option Nat := none
  ended : Nat := 0
  started : Bool := false
  ran : Bool := false
  done : Bool := false
  startT : Time := {}
  tally : Map Nat := []
deriving DecidableEq, Repr

/-- A launch in progress (Table 06.1): its descriptor's tag, tenant, step it is attached to, and its parts; the start of
its time limit; tiles completed and the OR of their flags; the descriptor's cookie, whether counters advanced at its
start, and the format tables its tiles have named (R197). -/
structure Launch where
  tag : Nat
  tenant : Nat
  step : Option Nat
  code : Nat
  codeBytes : Nat
  entry : Nat
  seed : Nat
  arg : Nat
  limit : Nat
  parts : List LPart := []
  tiles : Nat := 0
  flags : Nat := 0
  at_ : Option Time := none
  cookie : Nat := 0
  cnt : Bool := true
  tables : List Nat := []
deriving DecidableEq, Repr

/-- A post as Table 06.5 spells it in three bytes. -/
structure Post where
  core : Nat
  pool : Bool
  idx : Nat
  count : Nat
deriving DecidableEq, Repr

/-- A post on its way (Table 04.4): the tenant, the posting core and slot where a slot posts, the step of the work. -/
structure FPost where
  tenant : Nat
  src : Option (Nat × Nat)
  step : Option Nat
  post : Post
deriving DecidableEq, Repr

/-- The compute dies: posts on their way, cores, terrace segments in zeroization as die × 64 + segment, launches in start order, CCLK step
in force and pending of each die (R36), generations of the format tables (R196). -/
structure Cor where
  cores : Map Core := []
  preemptMax : Map Nat := []
  terZero : List Nat := []
  launches : List Launch := []
  flight : List FPost := []
  cclk : Map Nat := []
  cclkPend : Map Nat := []
  fmtGen : Map Nat := []
  refLost : Bool := false
  domStopped : Bool := false
deriving DecidableEq, Repr

/-! ## Collectives (08) -/

/-- A collective in progress (R311 to R331): descriptor, binding, opcode, identifier, ring class, step, start,
digest; whether its source has been read, and the source; contributions and partials as (sender, first element, elements), results
and the stage-3 results of a REDUCE_SCATTER as (first element, elements), barrier enters; flags and count of the elements rounded
here; the first elements of the owned pieces (block and segment) that have ended stage 1, stage 2 and stage 4; whether a result could
not be written (a poisoned line). -/
structure Coll where
  tag : Nat
  bind : Nat
  opcode : Nat
  id : Nat
  desc : List Byte
  cls : Nat
  step : Option Nat := none
  at_ : Time := {}
  digest : Nat := 0
  began : Bool := false
  own : List Byte := []
  contribs : List (Nat × Nat × List (List Byte)) := []
  partials : List (Nat × Nat × List (List Byte)) := []
  results : List (Nat × List (List Byte)) := []
  globals : List (Nat × List (List Byte)) := []
  enters : List Nat := []
  flags : Nat := 0
  rounded : Nat := 0
  stage1 : List Nat := []
  stage2 : List Nat := []
  stage4 : List Nat := []
  bad : Bool := false
deriving DecidableEq, Repr

/-- The reduction engines (Table 08.9): collectives in start order, parked messages as (binding, bytes), how many
messages have been parked, counts. -/
structure Col where
  colls : List Coll := []
  parked : List (Nat × List Byte) := []
  parks : Nat := 0
  engIn : Map Nat := []
  engRound : Map Nat := []
deriving DecidableEq, Repr

/-! ## Power (13) -/

/-- Power states of Table 13.1 and 13.10. -/
inductive PowerSt where
  | off | standby | full | trimmed | dormant
deriving DecidableEq, Repr

/-- A compute die's sensors and settings (R492 to R497): hottest sensor, throttle, trip, trips kept across reset, present voltage, least slack in ps (two's complement, 16 bits), v_fail by step, a margin
sweep in progress, the second of the last VF_CURVE load. -/
structure DieP where
  temp : Nat := 0
  throttle : Bool := false
  tripped : Bool := false
  trips : Nat := 0
  volt : Nat := 0
  margin : Nat := 0
  vfail : Map Nat := []
  sweeping : Bool := false
  planAt : Option Nat := none
deriving DecidableEq, Repr

/-- The power block: state, the state Dormant was entered from, auxiliary rail and input present, input qualified, the
transition in progress (0 none, 1 entering Dormant, 2 leaving it, 3 to Standby), a wake cause met, the result of the last
request, the firmware cap (none: the envelope) and the one that waits for the exit from Dormant, governor level, clamp
engaged with the tick of its last sample, its cause and steps, pacing window, CAP_UNMET count, mean input power of the
last cycle and input voltage, the dies, the demand interval, an interval length committed since (R501), the energy total in microjoules, whether IDLE has been delivered in this idle period. -/
structure Pwr where
  st : PowerSt := .off
  from_ : PowerSt := .full
  auxRail : Bool := false
  input : Bool := false
  qualified : Bool := false
  trans : Nat := 0
  wake : Bool := false
  reqStatus : Nat := 0
  fwCap : Option Nat := none
  capNext : Option (Option Nat) := none
  level : Nat := 0
  clamp : Bool := false
  clampAt : Option Nat := none
  clampCause : Nat := 0
  clampSteps : Nat := 0
  clampCnt : Nat := 0
  pacingOpen : Bool := true
  unmet : Nat := 0
  power : Nat := 0
  volts : Nat := 0
  dies : Map DieP := []
  interval : Option Interval := none
  lenChanged : Bool := false
  energy : Nat := 0
  idle : Bool := false
deriving DecidableEq, Repr

/-! ## Time base and triggers (14) -/

/-- A trigger (R528 to R538): its state (Table 14.1), mode (Table 14.2), tenant, target, period in µs, the late mark and
lateness of the last firing, post0 and post1, the undrawn step that recorded it, the gated step, flags, whether a step of the time base has passed
the target (R531), the tick of a one-shot's firing. -/
structure Trig where
  st : Nat := 0
  mode : Nat := 0
  tenant : Nat := 0
  target : Time := {}
  period : Nat := 0
  late : Bool := false
  lateness : Nat := 0
  posts : List Byte := []
  step : Option Nat := none
  gate : Option Nat := none
  arg : Nat := 0
  stepped : Bool := false
  firedAt : Option Nat := none
deriving DecidableEq, Repr

/-- The time base. `frac` is the 32-bit fraction of a nanosecond; `slew` the offset still to be applied in units of
2^-32 ns; `latch` the seconds of the last read; `good` edges in a row, `miss` missing seconds in a row, the last edge;
`holdAt` the tick of the last entry into holdover and `holdUnc` the uncertainty kept then (none: unc_base); `backOffset`:
an offset was committed since holdover ended. -/
structure Tim where
  s : Nat := 0
  ns : Nat := 0
  frac : Nat := 0
  slew : Int := 0
  set : Bool := false
  latch : Nat := 0
  tpinLock : Bool := false
  ntpLock : Bool := false
  everLocked : Bool := false
  good : Nat := 0
  miss : Nat := 0
  capture : Time := {}
  edge : Option Time := none
  holdover : Bool := false
  holdAt : Nat := 0
  holdUnc : Option Nat := none
  backOffset : Bool := false
  tpinMiss : Nat := 0
  steps : Nat := 0
  txq : List (Nat × Time) := []
  txOvf : Nat := 0
  tpOut : Bool := false
  trigs : Map Trig := []
deriving DecidableEq, Repr

/-! ## Security (15) -/

/-- Lifecycle states (Table 15.10). -/
inductive Life where
  | blank | provisioned | sealed | opened | retired
deriving DecidableEq, Repr

/-- An SPDM session (R550). -/
structure Session where
  id : Nat
  phase : Nat
  reqKey : Nat := 0
  rspKey : Nat := 0
deriving DecidableEq, Repr

/-- The Cave and what it keeps (R542 to R568). Keys are held by number only (R543). `sealTaken`: a SEAL token takes effect at the next
reset; `caveErr` dies whose Cave is in error; the certified flag and version of the Cave image; capabilities, expiry and last reason
of lifecycle commands; `closing` (R566); parcel keys by binding; service keys; tenants with a T2 key; tenants whose zeroization is
pending with its items; SPDM connection state (0 none, 1 version, 2 capabilities, 3 algorithms agreed), sessions, a request being
assembled and the last response; IDE streams (0 the link; 1 keys programmed, 2 in use); TDI states by VF (0 CONFIG_UNLOCKED, 1
CONFIG_LOCKED, 2 RUN, 3 ERROR), nonces, and TDIs on their way to CONFIG_UNLOCKED; measurements 1 to 5 of
Table 15.2; whether Cave debug holds the Cave processor, and the working memory it wrote. -/
structure Sec where
  life : Life := .provisioned
  sealTaken : Bool := false
  caveErr : List Nat := []
  uds : Bool := true
  certified : Bool := false
  svn : Nat := 0
  caps : Nat := 0
  notAfter : Nat := 0
  cmdReason : Nat := 0
  closing : Bool := false
  nonce : Nat := 0
  parcelKeys : Map Nat := []
  svcKey : Option Nat := none
  svcPrev : Option Nat := none
  svcAt : Time := {}
  t2keys : List Nat := []
  zero : Map (List Nat) := []
  spdm : Nat := 0
  sessions : List Session := []
  chunk : List Byte := []
  chunkOut : List Byte := []
  ide : Map Nat := []
  tdi : Map Nat := []
  tdiNonce : Map Nat := []
  tdiStop : List Nat := []
  meas : List Nat := []
  caveHalt : Bool := false
  caveMem : Map Word := []
deriving DecidableEq, Repr

/-! ## The pair: what each die holds (11) -/

/-- What the standby held when its copy stopped being current (R435): the book, the retention array, the owner's own state,
and the volatile keys and sessions of the Cave (R547). -/
structure Stale where
  book : Book
  mram : Mram
  sec : Sec
  pol : Pol
  fwCap : Option Nat
  interval : Option Interval
deriving DecidableEq, Repr

/-- The Cellarer pair. `own` is 0 for CA, 1 for CB, 2 for none; `gapTo` the die the interlock is about to enable (R429);
`ca` and `cb` the states of Table 11.2; `closed` how many staged outputs the frozen cycle holds, `taken` the messages it consumed, `upSeq` how many have been consumed;
`overRow` overruns in a row; the batches on their way, the one not acknowledged, the one a new owner emits again (R434); the silent
paths as the standby and as the owner see them, when the standby last heard each; `coldReset`: the first strobe after a cold
takeover resets the compute complex (R435). -/
structure Cel where
  own : Nat := 2
  gapTo : Option Nat := none
  ca : Nat := 0
  cb : Nat := 0
  requested : Bool := false
  cycle : Nat := 0
  firstCycle : Bool := false
  frozen : Bool := false
  closed : Nat := 0
  taken : List UpMsg := []
  overRow : Nat := 0
  overruns : Nat := 0
  overAt : Option Nat := none
  up : List UpMsg := []
  upSeq : Nat := 0
  staged : List COut := []
  imageGot : Bool := false
  imageAcked : Bool := false
  batches : List Batch := []
  unacked : Option Batch := none
  again : Option Batch := none
  lastApplied : Option Nat := none
  applySilent : Bool := false
  strobeTick : Option Nat := none
  linkSilent : Bool := false
  kaSilent : Bool := false
  ownLinkSilent : Bool := false
  ownKaSilent : Bool := false
  linkAt : Time := {}
  kaAt : Time := {}
  solo : Bool := false
  switchReq : Bool := false
  hot : Nat := 0
  cold : Nat := 0
  stale : Option Stale := none
  coldReset : Bool := false
deriving DecidableEq, Repr

/-! ## Debug (16) -/

/-- A tenant's tally (R589). -/
structure Tally where
  count : Nat := 0
  held : List (Nat × List Byte) := []
deriving DecidableEq, Repr

/-- A trace sample of 16 bytes with its tenant, in a core's drain region (R592). -/
structure Sample where
  tenant : Nat
  bytes : List Byte
deriving DecidableEq, Repr

/-- A dual-clock FIFO in the cut (R581): the scan unit that reads it, its depth, its write pointer as the writing domain and its read
pointer as the reading domain held it, one bit wider than an index, and its contents. -/
structure CutFifo where
  unit : Nat
  depth : Nat
  wptr : Nat
  rptr : Nat
  words : List Nat
deriving DecidableEq, Repr

/-- A three-stage synchroniser in the cut (R581). -/
structure CutSync where
  unit : Nat
  stages : Nat
deriving DecidableEq, Repr

/-- What waits for the end of Frost (R583): what reached the host interface, and requests to the Cave, each as the command of its name. -/
inductive Late where
  | fetchReadDone (r flt : Nat) (ep : Bool) (bytes : List Byte)
  | hostLinkDown
  | hostLinkUp (width rate : Nat) (flit : Bool)
  | flrVf (n : Nat)
  | vfDisable (clear : Bool) (keep : Nat)
  | flrPf0
  | hotReset
  | atsInvalidation (fn page pages : Nat) (deny : Bool)
  | msixUnmask (acc : Acc) (vec : Option Nat)
  | registerWrite (acc : Acc) (a : Nat) (v : Word)
  | getVersion
  | getCapabilities
  | negotiateAlgorithms (offers : Bool)
  | getDigests
  | getCertificate (slot off len : Nat)
  | spdmChallenge (slot : Nat) (req : List Byte)
  | getMeasurements (i : Nat) (sig : Bool) (req : List Byte)
  | keyExchange (id slot : Nat) (req : List Byte)
  | spdmFinish (id : Nat) (ok : Bool)
  | endSession (id : Nat)
  | spdmHeartbeat (id : Nat)
  | keyUpdate (id : Nat) (both : Bool)
  | chunkSend (first : Bool) (part : List Byte)
  | chunkGet (off len : Nat)
  | ideQuery (id : Nat)
  | keyProg (id k : Nat)
  | kSetGo (id k : Nat)
  | kSetStop (id k : Nat)
  | getTdispVersion (id : Nat)
  | getTdispCapabilities (id : Nat)
  | lockInterface (id v : Nat)
  | getDeviceInterfaceReport (id v : Nat)
  | getDeviceInterfaceState (id v : Nat)
  | startInterface (id v nonce : Nat)
  | stopInterface (id v : Nat)
deriving DecidableEq, Repr

/-- The debug block, with the TAP: its instruction, what drives the pins (0 the module, 1 the preloaded values, 2 nothing, 3 pulses, 4
trains) and the preloaded values. `samples` are the cores' sample buffers, `region` their drain regions by core × 2^18 + sample,
`head` the next word of a region, `written` and `lost` the counts of each tenant's trace handle (R593). `fifos` and `syncs` by identifier: what
the cut captured of every crossing (R581); `late` what arrived at the host interface or for the Cave in Frost, for the resume (R583). `frost`: 0 running, 1 stopping, 2 frozen, 3 resuming (R578). -/
structure Dbg where
  frost : Nat := 0
  source : Nat := 0
  refused : Bool := false
  partCut : Bool := false
  count : Nat := 0
  pendFreeze : Bool := false
  pendResume : Bool := false
  stopAt : Time := {}
  stops : Map Nat := []
  fifos : Map CutFifo := []
  syncs : Map CutSync := []
  late : List Late := []
  openPorts : List Nat := []
  dbIgnored : Nat := 0
  scanLast : Nat := 0
  tally : Map Tally := []
  samples : Map (List Sample) := []
  region : Map Sample := []
  head : Map Nat := []
  written : Map Nat := []
  lost : Map Nat := []
  sampling : List Nat := []
  ir : Nat := 1
  drive : Nat := 0
  preload : Nat := 0
deriving DecidableEq, Repr

/-! ## Start-up and update (17) -/

/-- A firmware slot (R617 to R619): state (Table 17.10), the bytes programmed. -/
structure FwSlot where
  st : Nat := 0
  data : List Byte := []
deriving DecidableEq, Repr

/-- Start-up, reset, blocks and update. `step` and `path` of the boot step running (0 none), `waitInput` the wait of R600;
attempts since the last ready and in this run; `heldReset`: MOD_RST_N is asserted; results of this attempt's steps; `fails`: attempts
in a row, up to the one before, in which a step failed (R610); whether saved T1 coefficients are present, and whether this start used
them, or ran at the lower rate; the tick at the end of the reset, ticks waited, the tick the wait began; the ledger; the levels that
MOD_READY_N, MOD_ALERT_N (true: low), TP_OUT and MOD_LED0 to 2 hold during a reset (R602); the autostart list by 4 × port (cfg) and + 1 (circuit);
kept core fences; ports fenced by B14; drained and hung blocks (R604 to R606); the slot pointer, and the slot that runs; what the update engine does (0 nothing,
1 a download, 2 a verification), with the length to come; `reverify`: a verification that a loss cut short (R621); the update commands
with their group's snapshots that wait for an owner of the firmware NOR bus (R22). -/
structure Boot where
  step : Nat := 1
  path : Nat := 0
  waitInput : Bool := false
  attempt : Nat := 1
  runAttempt : Nat := 1
  halted : Bool := false
  heldReset : Bool := false
  hostReady : Bool := false
  ready : Bool := false
  b01Done : Bool := false
  retiring : Bool := false
  results : Map Nat := []
  fails : Map Nat := []
  failStep : Nat := 0
  failResult : Nat := 0
  cause : Nat := 0
  t1Coef : Bool := false
  t1Saved : Bool := false
  t1Reduced : Bool := false
  bootTick : Nat := 0
  waited : Nat := 0
  waitTick : Nat := 0
  bootMs : Nat := 0
  pwrCycles : Nat := 1
  ledger : Map Ldg := []
  ldgNext : Nat := 0
  ldgSeq : Nat := 0
  pinReady : Bool := false
  pinAlert : Bool := false
  pinTp : Bool := false
  pinLeds : Nat := 7
  portAuto : Map Word := []
  fences : List Nat := []
  fenceClr : Bool := false
  portsFenced : List Nat := []
  drained : List Nat := []
  hung : List Nat := []
  ignored : Nat := 0
  activeSlot : Nat := 0
  runSlot : Nat := 0
  trial : Bool := false
  trialCnt : Nat := 0
  slotA : FwSlot := {}
  slotB : FwSlot := {}
  minVer : List Nat := [0, 0, 0, 0]
  ptrSeq : Nat := 0
  updRun : Nat := 0
  updLen : Nat := 0
  updDone : Nat := 0
  reverify : Bool := false
  updWait : List (Nat × List Word) := []
deriving DecidableEq, Repr

/-! ## The machine -/

/-- The module. `half` and `moduleId` never change; `pending` is the queue of commands waiting, first in first out; `tick`
counts ticks of the time base; `free` numbers the values the spec leaves open; `out` lists what left the module, newest
first; `mem` is every byte of module memory; `regs` the plain read-write registers by accessor and address. -/
structure State where
  half : Bool := false
  moduleId : Nat := 0
  pending : List Instr := []
  tick : Nat := 0
  free : Nat := 0
  out : List Out := []
  mem : List Host.Cell := []
  regs : Map Word := []
  grp : Groups := {}
  hif : Hif := {}
  pln : Pln := {}
  cor : Cor := {}
  vnl : Vnl := {}
  col : Col := {}
  stp : Stp := {}
  rck : Rck := {}
  cel : Cel := {}
  pol : Pol := {}
  err : Err := {}
  pwr : Pwr := {}
  tim : Tim := {}
  sec : Sec := {}
  dbg : Dbg := {}
  boot : Boot := {}
  book : Book := {}
  mram : Mram := {}
deriving DecidableEq, Repr

/-- A step stops with a fault: the module has no stop of its own (safe: no command raises it). -/
inductive Fault where
  /-- Raised by no command: every command of the table has an effect in every state. Safe. -/
  | stopped
deriving DecidableEq, Repr

/-- A command without a meaning. -/
inductive Refusal where
  /-- Raised by `exec` for a command whose meaning has not been written, by its mnemonic. Safe. -/
  | notModelled (mnemonic : String)
deriving DecidableEq, Repr

/-- A module of a configuration at the start of boot step B01 after its first power-on: the auxiliary rail and the input present,
OWN granted to CA (R431), both Cellarers in BOOT, one B01 start record in the boot ledger, RESET and POWER_STATE waiting for the book (R509, R623), slot A ACTIVE (Table 21.13), a
full wear bucket (R418), compute dies and ports off, the host link down. The values the spec does not give are named in
notes/assumptions (1, 2, 3). -/
def State.resetOf (half : Bool) : State :=
  let bucket : Nat := (if half then 2738 else 5476) * 86400 * 1000000000
  let ledger : Map Ldg := [(0, { seq := 0, attempt := 1, step := 1, cycles := 1 })]
  { half := half
    rck := { bucket := bucket },
    cel := { own := 0, ca := 1, cb := 1 },
    pwr := { st := .standby, auxRail := true, input := true, qualified := true },
    boot := { slotA := { st := 5 }, ledger := ledger, ldgNext := 1, ldgSeq := 1 },
    book := { waiting := [{ code := 0x1100 }, { code := 0x0D00, detail := 1 }] },
    mram := { ledger := ledger, ldgNext := 1, ldgSeq := 1, stA := 5, pwrCycles := 1, bucket := bucket,
              wearCfg := Grp.reset half .rckWear 0, bootCfg := Grp.reset half .boot 0 } }

/-- The full module after its first power-on. -/
def State.reset : State := State.resetOf false

/-- The MOD_CFG pin is tied to GND: open on the full module (Table 21.3, E17). -/
def State.modCfg (s : State) : Bool := s.half

end Sys2Proof.Machine
end

