-- ==== Sys2Proof/Machine/Ops.lean ====
section
/-!
DEFINITION. Machine/Ops.lean: the named operations over registers, memory, tenants, rings, events, records and outputs
that every family of commands uses.
-/
namespace Sys2Proof.Machine

/-- What a command answers. -/
abbrev Answer := Host.Outcome State Fault Refusal

/-! ## One updater per block of State -/

def modGrp (f : Groups → Groups) (s : State) : State := { s with grp := f s.grp }
def modHif (f : Hif → Hif) (s : State) : State := { s with hif := f s.hif }
def modPln (f : Pln → Pln) (s : State) : State := { s with pln := f s.pln }
def modStp (f : Stp → Stp) (s : State) : State := { s with stp := f s.stp }
def modRck (f : Rck → Rck) (s : State) : State := { s with rck := f s.rck }
def modVnl (f : Vnl → Vnl) (s : State) : State := { s with vnl := f s.vnl }
def modBook (f : Book → Book) (s : State) : State := { s with book := f s.book }
def modCor (f : Cor → Cor) (s : State) : State := { s with cor := f s.cor }
def modCol (f : Col → Col) (s : State) : State := { s with col := f s.col }
def modCel (f : Cel → Cel) (s : State) : State := { s with cel := f s.cel }
def modPol (f : Pol → Pol) (s : State) : State := { s with pol := f s.pol }
def modErr (f : Err → Err) (s : State) : State := { s with err := f s.err }
def modPwr (f : Pwr → Pwr) (s : State) : State := { s with pwr := f s.pwr }
def modTim (f : Tim → Tim) (s : State) : State := { s with tim := f s.tim }
def modSec (f : Sec → Sec) (s : State) : State := { s with sec := f s.sec }
def modDbg (f : Dbg → Dbg) (s : State) : State := { s with dbg := f s.dbg }
def modBoot (f : Boot → Boot) (s : State) : State := { s with boot := f s.boot }
def modMram (f : Mram → Mram) (s : State) : State := { s with mram := f s.mram }
def modMem (f : List Host.Cell → List Host.Cell) (s : State) : State := { s with mem := f s.mem }

/-- Sends something outside. -/
def emit (o : Out) (s : State) : State := { s with out := o :: s.out }

/-- Ciphertext and tag as bytes: as many as the plaintext's, and 16. -/
def gcm (key iv : Nat) (aad text : List Byte) : List Byte := leB (text.length + 16) (Config.gcmBits key iv aad text).toNat

/-- The next value the spec leaves open, `w` bits wide, and the state with the counter advanced. -/
def fresh (w : Nat) (s : State) : Nat × State :=
  ((Config.freeValue w s.free).toNat, { s with free := s.free + 1 })

/-- Applies an operation when a condition holds. -/
def whenS (c : Bool) (f : State → State) (s : State) : State := if c then f s else s

/-- Folds an operation over a list. -/
def forS {α : Type} (l : List α) (f : α → State → State) (s : State) : State := l.foldl (fun s a => f a s) s

/-! ## Units present (Table 00.1) -/

def numDies (s : State) : Nat := if s.half then 2 else 4
def numCores (s : State) : Nat := if s.half then 64 else 128
def numStacks (s : State) : Nat := if s.half then 4 else 8
def numPorts (s : State) : Nat := if s.half then 8 else 16

/-- The module has error unit u (Table 12.10, R4). -/
def errUnit (s : State) (u : Nat) : Bool :=
  if u < 8 then decide (u < numStacks s) else if u < 11 then true
  else if u < 15 then decide (u - 11 < numDies s) else if u < 19 then decide (u - 15 < numDies s) else decide (u = 19)

/-! ## Committed registers (R57) -/

/-- Register `i` of the committed set of an object. -/
def cset (s : State) (g : Grp) (obj i : Nat) : Word := Map.get (g.reset s.half i) s.grp.sets (setKey g obj i)

/-- Replaces one committed register; its reserved bits stay zero (R10). -/
def csetPut (g : Grp) (obj i : Nat) (w : Word) (s : State) : State :=
  modGrp (fun x => { x with sets := Map.set (g.reset s.half i) x.sets (setKey g obj i) (w &&& g.mask i) }) s

/-- Replaces the committed set of an object in one step (R56). -/
def csetAll (g : Grp) (obj : Nat) (ws : List Word) (s : State) : State :=
  forS ws.zipIdx (fun p => csetPut g obj p.2 p.1) s

/-- Returns an object's committed set to its reset values. -/
def csetReset (g : Grp) (obj : Nat) (s : State) : State :=
  modGrp (fun x => { x with sets := Map.keep (fun k _ => decide (k / 512 ≠ obj * 32 + g.idx)) x.sets }) s

/-- A plain read-write register, by accessor code and address. -/
def rwReg (s : State) (acc a : Nat) : Word := Map.get 0 s.regs (acc * 0x10000000 + a)
/-- Writes a plain read-write register. -/
def setRw (acc a : Nat) (w : Word) (s : State) : State :=
  { s with regs := Map.set 0 s.regs (acc * 0x10000000 + a) w }

/-! ## Trellis tables (R441) -/

/-- An installed trellis table of a type and number. -/
def tableRec (s : State) (typ n : Nat) : Trellis := Map.get {} s.pol.tables (typ * 16 + n)
/-- The body of an installed table; empty where none is installed. -/
def tableBody (s : State) (typ n : Nat) : List Byte := (tableRec s typ n).body
/-- A table number is built in or installed. -/
def tableIn (s : State) (typ n : Nat) : Bool := decide (n = 0) || (tableRec s typ n).loaded

/-! ## Time (R512) -/

/-- The module time base now. -/
def nowT (s : State) : Time := ⟨s.tim.s, s.tim.ns⟩
/-- A time as nanoseconds. -/
def Time.total (t : Time) : Nat := t.s * 1000000000 + t.ns
/-- Nanoseconds from `a` to now, 0 for an instant ahead. -/
def nsSince (s : State) (a : Time) : Nat := (nowT s).total - a.total

/-! ## Tenants and their functions (R46 to R48) -/

def tenRec (s : State) (t : Nat) : Ten := Map.get {} s.hif.tens t
def setTenRec (t : Nat) (f : Ten → Ten) (s : State) : State :=
  modHif (fun h => { h with tens := Map.upd {} h.tens t f }) s
def tenActive (s : State) (t : Nat) : Bool := decide ((tenRec s t).st = .active)
/-- The function a tenant is bound to: 0 for PF0 (Table 02.8). -/
def tenFn (s : State) (t : Nat) : Nat := (tenRec s t).fn
def tenSlot (s : State) (t : Nat) : Nat := (tenRec s t).slot
/-- The PASID word as an option. -/
def pasidOf (w : Word) : Option Nat := if bitW w 31 then some (fldW w 19 0) else none
def tenPasid (s : State) (t : Nat) : Option Nat := pasidOf (tenRec s t).pasid
def tenQuota (s : State) (t : Nat) : Nat := fldW (cset s .hifTen t 2) 20 0
def tenShare (s : State) (t : Nat) : Nat := fldW (cset s .hifTen t 2) 28 21

/-- All tenants not FREE. -/
def boundTens (s : State) : List Nat := (s.hif.tens.filter (fun e => decide (e.2.st ≠ .free))).map Prod.fst
def activeTens (s : State) : List Nat := (s.hif.tens.filter (fun e => decide (e.2.st = .active))).map Prod.fst
/-- The tenant bound to a VF's slot, if any holds the pair (R64). -/
def tenAtSlot (s : State) (vf slot : Nat) : Option Nat :=
  (boundTens s).find? (fun t => decide (tenFn s t = vf) && decide (tenSlot s t = slot))

/-! ## The host writes (R44, R691) and interrupts (R93) -/

/-- The translation of a host address grants the write (R691). -/
def hostOk (s : State) (fn addr : Nat) : Bool :=
  !(s.hif.denied.any (fun d => decide (d.1 = fn) && decide (d.2.1 ≤ addr / 4096) && decide (addr / 4096 < d.2.1 + d.2.2)))

/-- Every page of a host range is one a function may reach. -/
def hostRange (s : State) (fn addr n : Nat) : Bool :=
  (List.range ((addr % 4096 + n + 4095) / 4096)).all (fun i => hostOk s fn (addr + 4096 * i))

/-- Key of an MSI-X vector of a function. -/
def vecKey (fn vec : Nat) : Nat := fn * 2048 + vec
/-- A word of an MSI-X table: the Mask bit of the vector control word is 1 after reset. PRESUMED (PCIe; log 6). -/
def msixWord (s : State) (fn i : Nat) : Word :=
  Map.get (if i % 4 = 3 then 1 else 0) s.hif.msixWords (fn * 8192 + i)
def setMsixWord (fn i : Nat) (w : Word) (s : State) : State :=
  modHif (fun h => { h with msixWords := Map.set (if i % 4 = 3 then 1 else 0) h.msixWords (fn * 8192 + i) w }) s
/-- A vector is masked by its Mask bit or by its function's Function Mask (R93). -/
def vecMasked (s : State) (fn vec : Nat) : Bool := bitW (msixWord s fn (4 * vec + 3)) 0 || memb fn s.hif.msixFnMask
/-- Sends an interrupt, or sets the pending bit of a masked vector (R93). -/
def sendIrq (fn vec : Nat) (s : State) : State :=
  if vecMasked s fn vec then modHif (fun h => { h with msixPend := addOnce (vecKey fn vec) h.msixPend }) s
  else emit (.msix fn vec) s

/-! ## Rings (R66 to R68, Table 02.10) -/

def ringRec (s : State) (r : Nat) : Ring := Map.get {} s.hif.rings r
def modRing (r : Nat) (f : Ring → Ring) (s : State) : State :=
  modHif (fun h => { h with rings := Map.upd {} h.rings r f }) s
def ringTen (r : Nat) : Nat := r / 256
def ringCfg (s : State) (r : Nat) : Word := cset s .rng r 2
def ringBase (s : State) (r : Nat) : Nat := (cset s .rng r 1).toNat * 0x100000000 + (cset s .rng r 0).toNat
def ringSize (s : State) (r : Nat) : Nat := 2 ^ fldW (ringCfg s r) 4 0
def ringType (s : State) (r : Nat) : Nat := fldW (ringCfg s r) 9 8
def ringClass (s : State) (r : Nat) : Nat := fldW (ringCfg s r) 13 12
/-- The completion ring of a submission ring, as a global index. -/
def ringCq (s : State) (r : Nat) : Nat := ringTen r * 256 + fldW (ringCfg s r) 27 20
/-- Tags live of a ring. -/
def liveOf (s : State) (r : Nat) : List Nat :=
  (s.hif.live.filter (fun e => decide (e.2.ring = r))).map Prod.fst
/-- A ring in DRAINING reaches DISABLED when nothing of it is outstanding, nor of a ring it takes completions of (R67). -/
def settleRing (r : Nat) (s : State) : State :=
  if (ringRec s r).st = .draining ∧ (liveOf s r).isEmpty ∧ (ringRec s r).reads.isEmpty ∧ (ringRec s r).resv = 0 then
    modRing r (fun x => { x with st := .disabled }) s
  else s

/-- A ring's vector, and whether its gap is not 0 µs (Table 02.10). -/
def ringVec (s : State) (r : Nat) : Nat := fldW (cset s .rng r 3) 10 0
def ringGap (s : State) (r : Nat) : Bool := decide (fldW (cset s .rng r 3) 25 16 ≠ 0)
/-- A ring raises its vector; the gap restarts when the interrupt is sent, so not while a mask holds it (R93). -/
def raiseIrq (r : Nat) (s : State) : State :=
  let fn := tenFn s (ringTen r)
  let held := vecMasked s fn (ringVec s r)
  modRing r (fun x => { x with gap := if held then x.gap else ringGap s r, owed := false, masked := held }) (sendIrq fn (ringVec s r) s)
/-- Raises a ring's interrupt after a posting: at once with `now`, else at most once per gap (R93). -/
def ringIrq (r : Nat) (now : Bool) (s : State) : State :=
  if bitW (cset s .rng r 3) 31 then
    if now || !(ringRec s r).gap then raiseIrq r s else modRing r (fun x => { x with owed := true }) s
  else s
/-- Sends the pending interrupt of a vector no longer masked; the gaps of the rings it was held for restart (R93). -/
def sendPending (fn vec : Nat) (s : State) : State :=
  if memb (vecKey fn vec) s.hif.msixPend ∧ ¬ vecMasked s fn vec then
    emit (.msix fn vec) (modHif (fun h => { h with
      msixPend := without (vecKey fn vec) h.msixPend,
      rings := Map.mapV (fun r x => if x.masked ∧ tenFn s (ringTen r) = fn ∧ ringVec s r = vec then
        { x with masked := false, gap := ringGap s r } else x) h.rings }) s)
  else s

/-- Writes one 31-byte entry plus its phase bit at the ring's posted count (R87, Table 02.17). -/
def writeEntry (r : Nat) (e : List Byte) (now : Bool) (s : State) : State :=
  let x := ringRec s r
  let n := ringSize s r
  let ph : Byte := if x.posted / n % 2 = 0 then 0x80 else 0
  ringIrq r now
    (modRing r (fun x => { x with posted := (x.posted + 1) % 0x100000000 })
      (emit (.hostWrite (tenFn s (ringTen r)) (pasidOf x.pasid) (ringBase s r + x.posted % n * 32) (e ++ [ph])) s))

/-- True when the entry at the ring's posted count can be written (R691). -/
def entryOk (s : State) (r : Nat) : Bool :=
  hostOk s (tenFn s (ringTen r)) (ringBase s r + (ringRec s r).posted % ringSize s r * 32)

/-! ## Events (R91, R92) -/

def evqOn (s : State) (t : Nat) : Bool := bitW (cset s .hifTen t 3) 31
def evqRing (s : State) (t : Nat) : Nat := t * 256 + fldW (cset s .hifTen t 3) 7 0
/-- The event ring takes an entry: enabled, ACTIVE or ERROR, not full, link up (R91, R92). -/
def evqTakes (s : State) (t : Nat) : Bool :=
  evqOn s t && s.hif.up && (decide ((ringRec s (evqRing s t)).st = .active) || decide ((ringRec s (evqRing s t)).st = .error))
  && decide (((ringRec s (evqRing s t)).posted + 0x100000000 - (ringRec s (evqRing s t)).consumed) % 0x100000000
      < ringSize s (evqRing s t))
/-- The 31 bytes of an event entry (Table 02.19). -/
def eventBytes (s : State) (t code subject detail : Nat) : List Byte :=
  leB 4 s.tim.ns ++ leB 4 s.tim.s ++ leB 2 code ++ zeros 2 ++ leB 4 subject ++ leB 4 (tenRec s t).lost ++ leB 8 detail
    ++ zeros 3
/-- Counts a dropped event (R92). -/
def dropEvent (t : Nat) (s : State) : State := setTenRec t (fun x => { x with lost := satAdd 32 x.lost 1 }) s
/-- Writes an event that its ring takes and whose translation succeeds. -/
def putEvent (t code subject detail : Nat) (s : State) : State :=
  setTenRec t (fun x => { x with lost := 0 })
    (writeEntry (evqRing s t) (eventBytes s t code subject detail) false s)
/-- Posts an event to a tenant's event ring, or drops and counts it; a failed write puts the ring in ERROR with
POST_FAULT, whose own RING_ERROR event is then dropped too (R68, R92), on a ring already in ERROR as well: DESIGN CHOICE, the spec is
silent on a further failed write there (log 143). -/
def postEvent (t code subject detail : Nat) (s : State) : State :=
  if evqTakes s t then
    if entryOk s (evqRing s t) then putEvent t code subject detail s
    else
      dropEvent t (dropEvent t
        (modRing (evqRing s t) (fun x => { x with st := if x.st = .active then .error else x.st, err := 3 }) s))
  else dropEvent t s

/-- A ring error of Table 02.12 (R68). A further cause on a ring already in ERROR replaces the code and is posted again: DESIGN
CHOICE, the spec is silent (log 143). -/
def ringError (r code : Nat) (s : State) : State :=
  postEvent (ringTen r) 0x0001 (r % 256) code
    (modRing r (fun x => { x with st := if x.st = .active then .error else x.st, err := code }) s)

/-! ## Cellar-book records (R628) -/

/-- Stages a record: at most 4,096 wait, the excess is dropped and counted (R628). -/
def addRec (r : Rec) (s : State) : State :=
  if s.book.waiting.length < 4096 then modBook (fun b => { b with waiting := b.waiting ++ [r] }) s
  else modBook (fun b => { b with lost := satAdd 32 b.lost 1, dropped := satAdd 32 b.dropped 1 }) s

/-- Records an event of the module. -/
def record (code subject detail : Nat) (s : State) : State :=
  addRec { code := code, subject := subject, detail := detail, at_ := nowT s } s
/-- Records an event that concerns a tenant. -/
def recordT (t code subject detail : Nat) (s : State) : State :=
  addRec { code := code, tenant := some t, subject := subject, detail := detail, at_ := nowT s } s
/-- Posts an event to a tenant and records it. -/
def noteT (t code subject detail : Nat) (s : State) : State :=
  recordT t code subject detail (postEvent t code subject detail s)

/-! ## The retention array (R26 to R28, R601) -/

/-- The registers of the plain table that are kept: MOD_BACKUP0 to MOD_BACKUP63. -/
def keptRegs (m : Map Word) : Map Word := Map.keep (fun k _ => decide (0x200 ≤ k) && decide (k < 0x300)) m
/-- Trip counts of the stacks, by stack. -/
def stkTrips (p : Pln) : Map Nat := (p.stk.filter (fun e => decide (e.2.tripCnt ≠ 0))).map (fun e => (e.1, e.2.tripCnt))
/-- Trip counts of the dies, by die. -/
def dieTrips (p : Pwr) : Map Nat := (p.dies.filter (fun e => decide (e.2.trips ≠ 0))).map (fun e => (e.1, e.2.trips))
/-- What the retention array holds once every kept item's present value has reached it. -/
def mramNow (s : State) : Mram :=
  { s.mram with
    regs := keptRegs s.regs, retained := s.pol.retained, memoLinks := s.vnl.memoLinks, memoRoutes := s.vnl.memoRoutes,
    ledger := s.boot.ledger, ldgNext := s.boot.ldgNext, ldgSeq := s.boot.ldgSeq, t1Coef := s.boot.t1Coef, portAuto := s.boot.portAuto,
    fences := s.boot.fences, activeSlot := s.boot.activeSlot, trial := s.boot.trial, trialCnt := s.boot.trialCnt,
    stA := s.boot.slotA.st, stB := s.boot.slotB.st, minVer := s.boot.minVer, ptrSeq := s.boot.ptrSeq, retire := s.pln.retire,
    stkTrips := stkTrips s.pln, dieTrips := dieTrips s.pwr, hot := s.cel.hot, cold := s.cel.cold,
    complexResets := s.err.complexResets, energy := s.pwr.energy, pwrCycles := s.boot.pwrCycles, wearCfg := cset s .rckWear 0 0,
    bucket := s.rck.bucket, total := s.rck.total, bootCfg := cset s .boot 0 0 }
/-- A commit of the owner: the kept items reach the retention array (R601), the hours count when it is due (R629). -/
def commitKept (s : State) : State :=
  modBook (fun b => { b with hoursKept := if b.hoursDue then b.hours else b.hoursKept, hoursDue := false }) (modMram (fun _ => mramNow s) s)

/-! ## Handles, pages and module memory (R101 to R107) -/

def hndRec (s : State) (h : Nat) : Option Hnd := Map.find s.pln.hnds h
def modHnd (h : Nat) (f : Hnd → Hnd) (s : State) : State :=
  match hndRec s h with
  | some x => modPln (fun p => { p with hnds := Map.put p.hnds h (f x) }) s
  | none => s
/-- The handle is one a descriptor of the tenant may name (R106, R116, R173). -/
def hndOk (s : State) (t h : Nat) : Bool :=
  match hndRec s h with
  | some x => decide (x.tenant = t) && !x.gone && !x.reserved
  | none => false
/-- The handle is one a descriptor of the tenant may go on using: also one freed after the descriptor started (R116). -/
def hndUsable (s : State) (tag t h : Nat) : Bool :=
  match hndRec s h with
  | some x => decide (x.tenant = t) && !x.reserved && (!x.gone || memb tag x.waitFor)
  | none => false
def hndSize (s : State) (h : Nat) : Nat := ((hndRec s h).map Hnd.size).getD 0
/-- Pages of 2 MiB a size needs. -/
def pagesOf (size : Nat) : Nat := size / 0x200000 + if size % 0x200000 = 0 then 0 else 1
/-- Key of page `p` of a handle. -/
def pageKey (h p : Nat) : Nat := h * 0x100000 + p
def pageRec (s : State) (h p : Nat) : Option Page := Map.find s.pln.pages (pageKey h p)
def modPage (h p : Nat) (f : Page → Page) (s : State) : State :=
  match pageRec s h p with
  | some x => modPln (fun y => { y with pages := Map.put y.pages (pageKey h p) (f x) }) s
  | none => s
/-- Address in the model's memory of byte `off` of a handle. -/
def hKey (h off : Nat) : Nat := h * 2 ^ 41 + off
/-- Bytes of a handle. -/
def hRead (s : State) (h off n : Nat) : List Byte := memRead s.mem (hKey h off) n
/-- Pages of one T0 stack held, moving there or in zeroization; it has 32,768. -/
def stackLoad (s : State) (k : Nat) : Nat :=
  (s.pln.pages.filter (fun e => decide (e.2.tier = 0) && decide (e.2.stack = k))).length
    + (s.pln.moves.filter (fun m => decide (m.tier = 0) && decide (m.stack = k))).length
    + (s.pln.zeroing.filter (fun z => decide (z.1 = 0) && decide (z.2 = k))).length
/-- A move is under way: the demotion before it is done and the page it freed is zeroized (R102, R121). -/
def moveRuns (s : State) (m : Move) : Bool :=
  !(s.pln.moves.any (fun x => decide (some x.page = m.after))) && (decide (m.after = none) || decide (m.tier ≠ 0) || decide (stackLoad s m.stack ≤ 32768))
/-- The lines of page `p` of a handle that a write of n bytes touches. -/
def linesIn (off n p : Nat) : List Nat :=
  let lo := max off (p * 0x200000)
  let hi := min (off + n) ((p + 1) * 0x200000)
  if hi ≤ lo then [] else (List.range ((hi - 1) / 64 + 1 - lo / 64)).map (fun i => lo % 0x200000 / 64 + i)
/-- A move's copy records the lines a write touches, up to the 1,024 that R128 asks about and one more (R127). -/
def noteLines (h off n : Nat) (s : State) (m : Move) : Move :=
  if m.page / 0x100000 = h ∧ ¬ m.promo ∧ m.lines.length ≤ 1024 ∧ moveRuns s m then
    { m with lines := m.lines ++ (linesIn off n (m.page % 0x100000)).filter (fun x => !memb x m.lines) }
  else m
/-- Writes bytes of a handle. -/
def hPut (h off : Nat) (bs : List Byte) (s : State) : State :=
  modPln (fun p => { p with moves := p.moves.map (noteLines h off bs.length s) }) (modMem (fun m => memWrite m (hKey h off) bs) s)
/-- Handles of a tenant, in ascending number. -/
def tenHnds (s : State) (t : Nat) : List (Nat × Hnd) := s.pln.hnds.filter (fun e => decide (e.2.tenant = t))
/-- Pages (key, page) of a tenant. -/
def tenPages (s : State) (t : Nat) : List (Nat × Page) :=
  s.pln.pages.filter (fun e => match hndRec s (e.1 / 0x100000) with
    | some x => decide (x.tenant = t)
    | none => false)

/-! ## Steps (R340) -/

def tstep (s : State) (t : Nat) : TenStep := Map.get {} s.stp.tens t
def modTstep (t : Nat) (f : TenStep → TenStep) (s : State) : State :=
  modStp (fun x => { x with tens := Map.upd {} x.tens t f }) s
/-- The open step of a tenant. -/
def openStep (s : State) (t : Nat) : Option Nat := ((tstep s t).steps.find? (fun r => r.opened)).map StepRec.num
def stepRec (s : State) (t n : Nat) : Option StepRec := (tstep s t).steps.find? (fun r => decide (r.num = n))
def modStep (t n : Nat) (f : StepRec → StepRec) (s : State) : State :=
  modTstep t (fun x => { x with steps := x.steps.map (fun r => if r.num = n then f r else r) }) s
/-- The oldest undrawn step. -/
def oldestStep (s : State) (t : Nat) : Option Nat := (tstep s t).steps.head?.map StepRec.num

/-! ## Bindings (R291) -/

/-- The valid binding of a tenant. -/
def bindOf (s : State) (t : Nat) : Option Nat :=
  (List.range 4).find? (fun b => bitW (cset s .vnlPcl b 0) 31 && decide (fldW (cset s .vnlPcl b 0) 27 16 = t))
def bindValid (s : State) (b : Nat) : Bool := bitW (cset s .vnlPcl b 0) 31
def bindTen (s : State) (b : Nat) : Nat := fldW (cset s .vnlPcl b 0) 27 16
def bindParcel (s : State) (b : Nat) : Nat := fldW (cset s .vnlPcl b 0) 15 0
def bindCoord (s : State) (b : Nat) : Nat := fldW (cset s .vnlPcl b 1) 15 0
def bindSplit (s : State) (b : Nat) : Nat := fldW (cset s .vnlPcl b 1) 19 16
def bindRec (s : State) (b : Nat) : Bind := Map.get {} s.vnl.binds b
def tenParcel (s : State) (t : Nat) : Nat := ((bindOf s t).map (bindParcel s)).getD 0
def tenCoord (s : State) (t : Nat) : Nat := ((bindOf s t).map (bindCoord s)).getD 0

end Sys2Proof.Machine
end

