-- ==== Sys2Proof/Machine/DbgOps.lean ====
section
/-!
DEFINITION. Machine/DbgOps.lean: which debug function is available (R569, Tables 15.12, 15.13), the start of Frost (R578), and
commands of stopped clocks.
-/
namespace Sys2Proof.Machine

/-- A command whose clock Frost stops has no effect while Frost is in force (R580 to R582). -/
def clocked (s : State) (a : Answer) : Answer := if s.dbg.frost = 0 then a else .next s

/-- What reaches the host interface or the Cave while Frost is in force waits for the resume (R583). -/
def waitsInFrost (c : Late) (s : State) (a : Answer) : Answer :=
  if s.dbg.frost = 0 then a else .next (modDbg (fun d => { d with late := d.late ++ [c] }) s)

/-- The clocks of the IOD and of the compute dies run: no Frost (R580), and MOD_REFCLK or its holdover feeds them (R39). -/
def nclkOn (s : State) : Bool := decide (s.dbg.frost = 0) && !s.cor.domStopped
/-- A command of those clocks has no effect while they stand. -/
def iodClocked (s : State) (a : Answer) : Answer := if nclkOn s then a else .next s

/-- A lifecycle token in force grants capability i (Table 15.10). -/
def hasCap (s : State) (i : Nat) : Bool := bitOf s.sec.caps i

/-- Table 15.12 for the counters (0), trace (1), Frost (2), scan-out (3) and Cave debug (5). -/
def dbgPowered (s : State) (fn : Nat) : Bool :=
  match s.pwr.st with
  | .off => false
  | .standby => decide (fn = 5)
  | .full => true
  | .trimmed => true
  | .dormant => decide (fn ≠ 1)

/-- Table 15.13: 0 none, 1 as in Sealed, 2 full. -/
def dbgPermit (s : State) (fn : Nat) : Nat :=
  match s.sec.life with
  | .blank => 2
  | .provisioned => 2
  | .sealed => if fn = 5 then 0 else if fn = 2 then 2 else 1
  | .opened => if hasCap s fn then 2 else if fn = 5 ∨ fn = 2 then 0 else 1
  | .retired => 0

/-- How far a debug function is available (R569). -/
def dbgLevel (s : State) (fn : Nat) : Nat := if dbgPowered s fn then dbgPermit s fn else 0

/-- The debug commit group has a function available. -/
def dbgGrpOpen (s : State) (g : Grp) : Bool :=
  match g with
  | .dbg => decide (dbgLevel s 0 ≠ 0) || decide (dbgLevel s 2 ≠ 0)
  | .dbgTen => decide (dbgLevel s 0 ≠ 0) || decide (dbgLevel s 1 ≠ 0)
  | _ => true

/-- A request for Frost from a source (R578): refused where it is unavailable, nothing while in force; one made while
resuming waits until every domain runs again (Table 16.11). -/
def frostAsk (src : Nat) (s : State) : State :=
  if s.dbg.frost = 1 ∨ s.dbg.frost = 2 then s
  else if dbgLevel s 2 = 0 then modDbg (fun d => { d with refused := true }) s
  else if s.dbg.frost = 3 then modDbg (fun d => { d with refused := false, pendFreeze := true, source := src }) s
  else modDbg (fun d => { d with
    refused := false, frost := 1, source := src, count := satAdd 16 d.count 1, pendResume := false, stops := [], fifos := [], syncs := [],
    partCut := false }) s

/-- Frost on a fault of class 2 or above. -/
def frostFault (cls : Nat) (s : State) : State := if 2 ≤ cls ∧ bitW (cset s .dbg 0 0) 31 then frostAsk 3 s else s
/-- What the firing of trigger 2 to 7 starts: Frost, and the sampling of tenants that wait for it (R578, R592). -/
def trigDebug (k : Nat) (s : State) : State :=
  let w := cset s .dbg 0 0
  let ts := (activeTens s).filter (fun t =>
    let x := cset s .dbgTen t 0
    bitW x 31 && bitW x 30 && decide (fldW x 26 24 = k))
  let s1 := modDbg (fun d => { d with sampling := d.sampling ++ ts.filter (fun t => !memb t d.sampling) }) s
  if bitW w 30 ∧ fldW w 26 24 = k then frostAsk 4 s1 else s1

end Sys2Proof.Machine
end

