-- ==== Sys2Proof/Machine/Shadow.lean ====
section
/-!
DEFINITION. Machine/Shadow.lean: shadows, selectors, commits and status registers of the commit groups (R55 to R62), and
the writes of registers that have no row of their own (R12).
-/
namespace Sys2Proof.Machine

/-- Number of an accessor in the tables of shadows: 0 PF0, 1 to 63 a VF, 64 policy firmware, 65 the TAP, 66 the configuration
spaces, which reach no shadow. -/
def accCode : Acc → Nat
  | .pf0 => 0
  | .vf n _ => n
  | .policy => 64
  | .tap => 65
  | .cfg _ => 66

/-- The block of an address of PF0 BAR0 (R684). -/
def blockOf (a : Nat) : Nat := a / 0x100000

/-- Policy firmware reaches the block (Table 22.1). -/
def policyReach (blk : Nat) : Bool := memb blk [7, 9, 10, 11, 12, 13, 14]

/-- The conditions of Table 22.3 that hide a block from a write, and the accessor's reach (R685): Frost, the book before
B01 has ended, the CEL block before the first owner cycle, every block but MOD, BOOT, SEC, CEL and BOOK before
host_ready. -/
def blockOpen (s : State) (acc : Acc) (blk : Nat) : Bool :=
  (decide (s.dbg.frost = 0) || decide (blk = 16))
  && (decide (blk ≠ 18) || s.boot.b01Done)
  && (decide (blk ≠ 11) || s.cel.firstCycle)
  && (s.boot.hostReady || memb blk [0, 17, 15, 11, 18] || (decide (blk = 16) && decide (acc = .tap)))
  && (match acc with
      | .pf0 => true
      | .vf _ _ => false
      | .cfg _ => false
      | .policy => policyReach blk
      | .tap => decide (blk = 16))

/-- A TDI state in which R53 governs the VF's BARs. -/
def tdiLocked (s : State) (vf : Nat) : Bool := decide (Map.get 0 s.sec.tdi vf = 1) || decide (Map.get 0 s.sec.tdi vf = 2)
/-- The VF exists (R64). -/
def vfThere (s : State) (n : Nat) : Bool := decide (1 ≤ n) && decide (n ≤ s.hif.numVfs) && s.hif.vfEnable
/-- A VF's BARs accept a request: a locked TDI's must carry the T bit (R53). -/
def vfTakes (s : State) (n : Nat) (t : Bool) : Bool := vfThere s n && (!(tdiLocked s n) || t)
/-- A VF's BAR0 takes a write (R53, R98): it accepts the request and does not ignore writes after a reset. -/
def vfOpen (s : State) (n : Nat) (t : Bool) : Bool :=
  vfTakes s n t && !(memb n s.hif.vfIgnore) && decide (s.dbg.frost = 0) && s.boot.hostReady

/-- A group has one shadow for all accessors unless it is selector-based (R61). -/
def shadowAcc (g : Grp) (acc : Acc) : Nat := if g.sel.isSome then accCode acc else 0

/-- The selector value an accessor has written for a group's window. -/
def selVal (s : State) (g : Grp) (acc : Acc) (win : Nat) : Nat :=
  match g.sel with
  | some (a, _) => (rwReg s (accCode acc) (a + win * (g.windows s.half).2)).toNat
  | none => 0

/-- The object a group's window has selected; none for a VF's unbound slot (R52). -/
def selObj (s : State) (g : Grp) (acc : Acc) (win : Nat) : Option Nat :=
  let v := selVal s g acc win
  match g with
  | .corSlot => some (win * 8 + v)
  | .corTer => some (win * 64 + v)
  | .vnlPort => some win
  | .rng =>
    match acc with
    | .vf n _ => (tenAtSlot s n (v / 256 % 256)).map (fun t => t * 256 + v % 256)
    | _ => some v
  | _ => some v

/-- A register of an accessor's shadow. -/
def shadowReg (s : State) (g : Grp) (acc : Acc) (win i : Nat) : Word :=
  Map.get (g.reset s.half i) s.grp.shadows (shadowKey (shadowAcc g acc) g win i)
def setShadow (g : Grp) (acc : Acc) (win i : Nat) (w : Word) (s : State) : State :=
  modGrp (fun x => { x with shadows := Map.set (g.reset s.half i) x.shadows (shadowKey (shadowAcc g acc) g win i) w }) s

/-- Reloads a shadow from the committed set of the selected object (R59, R60). -/
def reload (g : Grp) (acc : Acc) (win : Nat) (s : State) : State :=
  forS (List.range g.size)
    (fun i s => setShadow g acc win i
      (match selObj s g acc win with
        | some o => cset s g o i
        | none => g.reset s.half i) s) s

/-- The status register of a group's window, (result, bad_offset) (Table 02.5). -/
def cstatOf (s : State) (g : Grp) (acc : Acc) (win : Nat) : Nat × Nat :=
  Map.get (0, 0) s.grp.cstat (statKey (shadowAcc g acc) g win)
def setCstat (accN : Nat) (g : Grp) (win res off : Nat) (s : State) : State :=
  modGrp (fun x => { x with cstat := Map.set (0, 0) x.cstat (statKey accN g win) (res, off) }) s

/-- Commit result codes of Table 02.6. -/
def cOK : Nat := 0x00
def cPENDING : Nat := 0x01
def cCONFLICT : Nat := 0x02
def cRANGE : Nat := 0x03
def cBUSY : Nat := 0x04
def cDENIED : Nat := 0x05
def cNORES : Nat := 0x06

/-- The accessor's way to a group: VFs reach the ring group alone (R688). -/
def grpReach (s : State) (g : Grp) (acc : Acc) (win : Nat) : Bool :=
  decide (win < (g.windows s.half).1) &&
  (match acc with
   | .vf n t => decide (g = .rng) && vfOpen s n t
   | .cfg _ => false
   | a =>
     (decide (s.dbg.frost = 0) || decide (blockOf g.cstat = 16))
     && (match a with
         | .policy => policyReach (blockOf g.cstat)
         | .tap => decide (blockOf g.cstat = 16)
         | _ => true))

/-- A commit write (R56, R58): before host_ready it reports BUSY, where the DBG function is not available DENIED
(Table 22.3); otherwise the snapshot is taken and the checks are queued. -/
def commitWrite (g : Grp) (acc : Acc) (win cmd : Nat) (s : State) : State :=
  if grpReach s g acc win then
    let a := shadowAcc g acc
    if ¬ dbgGrpOpen s g then setCstat a g win cDENIED (g.selOffset win) s
    else if ¬ s.boot.hostReady ∧ ¬ memb (blockOf g.cstat) [0, 17, 15, 11, 18, 16] then
      setCstat a g win cBUSY (g.selOffset win) s
    else
      setCstat a g win cPENDING 0
        (modGrp (fun x => { x with pend := x.pend ++
          [{ acc := accCode acc, grp := g, win := win, obj := selObj s g acc win, cmd := cmd,
             snap := (List.range g.size).map (shadowReg s g acc win) }] }) s)
  else s

/-- An abort write reloads the shadow and keeps the status register (R59). -/
def abortWrite (g : Grp) (acc : Acc) (win : Nat) (s : State) : State :=
  if grpReach s g acc win then reload g acc win s else s

/-- A selector write takes effect at once and reloads the shadow (R60). -/
def selectorWrite (acc : Acc) (a : Nat) (v : Word) (s : State) : State :=
  match acc with
  | .vf n t =>
    if a = 0x1000 ∧ vfOpen s n t then
      reload .rng acc 0 (setRw n 0x200000 (v &&& 0xFFFF) s)
    else s
  | _ =>
    match selAt s.half a with
    | some (g, w, m) =>
      if grpReach s g acc w && blockOpen s acc (blockOf a) then
        reload g acc w (setRw (accCode acc) a (v &&& wordOf m) s)
      else s
    | none => s

/-- Clears the bits written as one (W1C). -/
def w1c (old : Nat) (v : Word) : Nat := (wordOf old &&& ~~~v).toNat

/-- A write to an MSI-X table of a function (word index); one that clears a Mask bit sends the interrupt it held (R93). -/
def msixTableWrite (fn i : Nat) (v : Word) (s : State) : State :=
  sendPending fn (i / 4) (setMsixWord fn i (if i % 4 = 3 then v &&& 1 else if i % 4 = 0 then v &&& 0xFFFFFFFC else v) s)

/-- A write by PF0, policy firmware or the TAP to a register that is neither a selector nor a command (R12): a shadow, a
plain read-write register, a backup register, an MSI-X table word, or a write-one-to-clear register. -/
def pfRegisterWrite (acc : Acc) (a : Nat) (v : Word) (s : State) : State :=
  if blockOpen s acc (blockOf a) then
    match grpAt s.half a with
    | some (g, w, i) => if grpReach s g acc w then setShadow g acc w i (v &&& g.mask i) s else s
    | none =>
      match plainRw.find? (fun p => decide (p.1 = a)) with
      | some (_, m) => setRw 0 a (v &&& wordOf m) s
      | none =>
        if 0x200 ≤ a ∧ a < 0x300 ∧ a % 4 = 0 then setRw 0 a v s
        else if 0x108000 ≤ a ∧ a < 0x110000 ∧ a % 4 = 0 then msixTableWrite 0 ((a - 0x108000) / 4) v s
        else if a = 0x100034 then modHif (fun h => { h with trkPeak := w1c h.trkPeak v }) s
        else if a = 0x90008C then modStp (fun x => { x with drawMax := w1c x.drawMax v }) s
        else if 0x500000 ≤ a ∧ a < 0x580000 ∧ a % 0x1000 = 0x38 ∧ (a - 0x500000) / 0x1000 < numCores s then
          modCor (fun x => { x with preemptMax := Map.upd 0 x.preemptMax ((a - 0x500000) / 0x1000) (fun o => w1c o v) }) s
        else s
  else s

/-- A write by a VF to its BAR0 (Table 02.4). -/
def vfRegisterWrite (n : Nat) (t : Bool) (a : Nat) (v : Word) (s : State) : State :=
  if vfOpen s n t then
    if a = 0x0010 then setRw n 0x10 (v &&& 0xFF) s
    else if 0x1000 ≤ a ∧ a < 0x1040 then
      match grpAt s.half (0x200000 + (a - 0x1000)) with
      | some (g, w, i) => if g = .rng then setShadow g (.vf n t) w i (v &&& g.mask i) s else s
      | none => s
    else if 0x8000 ≤ a ∧ a < 0x9000 ∧ a % 4 = 0 then msixTableWrite n ((a - 0x8000) / 4) v s
    else s
  else s

/-- A write to a register of a BAR that has no row of its own (R12, R686). -/
def registerWrite (acc : Acc) (a : Nat) (v : Word) (s : State) : State :=
  match acc with
  | .vf n t => vfRegisterWrite n t a v s
  | .cfg _ => s
  | _ => pfRegisterWrite acc a v s

end Sys2Proof.Machine
end

