-- ==== Sys2Proof/Machine/Ring.lean ====
section
/-!
DEFINITION. Machine/Ring.lean: doorbells, fetch, the request tracker, the start of a descriptor and its completion
(R72 to R90).
-/
namespace Sys2Proof.Machine

/-! ## Live descriptors -/

def liveRec (s : State) (tag : Nat) : Option Live := Map.find s.hif.live tag
def modLive (tag : Nat) (f : Live → Live) (s : State) : State :=
  match liveRec s tag with
  | some l => modHif (fun h => { h with live := Map.put h.live tag (f l) }) s
  | none => s
/-- Header fields of Table 02.14. -/
def opcodeOf (d : List Byte) : Nat := fieldAt d 0 1
def flagsOf (d : List Byte) : Nat := fieldAt d 1 1
def versionOf (d : List Byte) : Nat := fieldAt d 2 1
def seqOf (d : List Byte) : Nat := fieldAt d 4 4
def cookieOf (d : List Byte) : Nat := fieldAt d 8 8
def liveTen (l : Live) : Nat := ringTen l.ring
/-- A payload field of a live descriptor; zero where no descriptor holds the tag. -/
def pay (s : State) (tag off n : Nat) : Nat :=
  match liveRec s tag with
  | some l => fieldAt l.desc off n
  | none => 0

/-- The ring classes that admit each opcode (R109, R226, R312, R339, R381, R535); none: BAD_OPCODE (Table 02.15). -/
def opClasses (op : Nat) : Option (List Nat) :=
  if op = 0x00 ∨ op = 0x01 then some [0, 1, 2, 3]
  else if 0x10 ≤ op ∧ op ≤ 0x13 then some [1, 2, 3]
  else if 0x20 ≤ op ∧ op ≤ 0x23 then some [0, 1, 2, 3]
  else if op = 0x30 then some [1, 2, 3]
  else if 0x40 ≤ op ∧ op ≤ 0x43 then some [1, 2]
  else if op = 0x44 then some [0, 1, 2]
  else if op = 0x50 ∨ op = 0x51 then some [1]
  else if op = 0x52 ∨ op = 0x53 then some [0, 1, 2, 3]
  else if op = 0x60 ∨ op = 0x62 ∨ op = 0x63 then some [1, 2, 3]
  else if op = 0x61 ∨ op = 0x64 then some [0, 1, 2, 3]
  else if op = 0x70 ∨ op = 0x71 then some [0, 1, 2, 3]
  else none

/-- Status codes of Table 02.18. -/
def stOK : Nat := 0x0000
def stDISCARDED : Nat := 0x0001
def stBAD_OPCODE : Nat := 0x0010
def stBAD_VERSION : Nat := 0x0011
def stBAD_FIELD : Nat := 0x0012
def stDESC_STALE : Nat := 0x0013
def stBAD_HANDLE : Nat := 0x0014
def stDMA_FAULT : Nat := 0x0015
def stNO_SPACE : Nat := 0x0016
def stWRONG_CLASS : Nat := 0x0017
def stTEARDOWN : Nat := 0x0018
def stRETIRED : Nat := 0x0019

/-! ## Completions (R84, R87) -/

/-- The 31 bytes of a completion entry before its phase bit (Table 02.17). -/
def complBytes (s : State) (tag : Nat) (l : Live) : List Byte :=
  leB 8 (cookieOf l.desc) ++ leB 4 (seqOf l.desc) ++ leB 4 (tag + l.ring % 256 * 0x100000) ++ leB 2 l.status
    ++ leB 2 l.detail ++ leB 8 l.result ++ leB 2 (ringRec s l.ring).fetched ++ zeros 1

/-- Frees a tag and its completion-slot reservation (R84). -/
def freeTag (tag : Nat) (l : Live) (s : State) : State :=
  settleRing (ringCq s l.ring) (settleRing l.ring
    (modRing (ringCq s l.ring) (fun x => { x with resv := x.resv - 1 })
      (modHif (fun h => { h with live := Map.del h.live tag }) s)))

/-- The completion is to be written: an error always, a success when cmpl_req is set (Table 02.14). -/
def wantsPost (l : Live) : Bool := decide (l.status ≠ 0) || bitOf (flagsOf l.desc) 0

/-- Writes the completion entry of a record while its completion ring is enabled, or takes the ring error of a failed write
(R50, R68). -/
def writeCompl (tag : Nat) (l : Live) (s : State) : State :=
  if wantsPost l ∧ (ringRec s (ringCq s l.ring)).st ≠ .disabled then
    if entryOk s (ringCq s l.ring) then
      writeEntry (ringCq s l.ring) (complBytes s tag l) (bitOf (flagsOf l.desc) 1) s
    else ringError (ringCq s l.ring) 3 s
  else s

/-- Posts the completion a record holds and frees its tag; with the link down, or up and not resumed, what has to be posted
stays live until the resume (R95, R97), a success that posts nothing ends (R84). -/
def postHeld (tag : Nat) (s : State) : State :=
  match liveRec s tag with
  | none => s
  | some l =>
    if s.hif.up && !s.hif.resumePending || !(wantsPost l) then freeTag tag l (writeCompl tag l s)
    else modLive tag (fun l => { l with stage := .lost }) s

/-- Ends the execution of a descriptor: an unattached one completes, one attached to an undrawn step is held (R348). -/
def finish (tag status detail result : Nat) (s : State) : State :=
  match liveRec s tag with
  | none => s
  | some l =>
    let s1 := modLive tag (fun l => { l with status := status, detail := detail, result := result, stage := .held }) s
    match l.step with
    | some _ => s1
    | none => postHeld tag s1

/-- Completes a descriptor now with a status, whatever step it belongs to (R50, R97, R370). -/
def completeNow (tag status detail result : Nat) (s : State) : State :=
  postHeld tag (modLive tag (fun l => { l with status := status, detail := detail, result := result, stage := .held }) s)

/-! ## Doorbells (R72 to R75) -/

def sub32 (a b : Nat) : Nat := (a + 0x100000000 - b % 0x100000000) % 0x100000000
def ignoreDb (s : State) : State := modHif (fun h => { h with dbIgnored := satAdd 32 h.dbIgnored 1 }) s
def staleDb (s : State) : State := modHif (fun h => { h with dbStale := satAdd 32 h.dbStale 1 }) s

/-- The case table of R74 and R75 for an ACTIVE ring. -/
def ringBell (r index : Nat) (s : State) : State :=
  let x := ringRec s r
  if ringType s r = 0 then
    let a := sub32 index x.latched
    if a = 0 then s
    else if 2 ^ 31 ≤ a then staleDb s
    else if sub32 x.latched x.fetched + a ≤ ringSize s r then modRing r (fun x => { x with latched := index }) s
    else ringError r 1 s
  else
    let a := sub32 index x.consumed
    if a = 0 then s
    else if 2 ^ 31 ≤ a then staleDb s
    else if a ≤ sub32 x.posted x.consumed then modRing r (fun x => { x with consumed := index }) s
    else ringError r 1 s

/-- The access is to the BARs of a VF that is not there, or of a TDI that R53 governs without the T bit: Unsupported Request. -/
def accLocked (s : State) (acc : Acc) : Bool :=
  match acc with
  | .vf n t => !(vfTakes s n t)
  | _ => false
/-- The tenant of a doorbell page: PF0's page t is tenant t when bound to PF0; a VF's slot is the tenant that holds
it (Table 02.3). -/
def pageTen (s : State) (acc : Acc) (page : Nat) : Option Nat :=
  match acc with
  | .pf0 => if (tenRec s page).st ≠ .free ∧ tenFn s page = 0 then some page else none
  | .vf n _ => tenAtSlot s n page
  | _ => none

/-- A write to a doorbell page: offset, bytes written, value (R72, R73). -/
def doorbell (acc : Acc) (page off size value : Nat) (s : State) : State :=
  if s.dbg.frost ≠ 0 then modDbg (fun d => { d with dbIgnored := satAdd 32 d.dbIgnored 1 }) s
  else if accLocked s acc ∨ ¬ nclkOn s then s
  else if off ≠ 0 ∨ size ≠ 8 then ignoreDb s
  else
    match pageTen s acc page with
    | none => ignoreDb s
    | some t =>
      let r := t * 256 + bitsOf value 39 32
      if tenActive s t ∧ (ringRec s r).st = .active then ringBell r (bitsOf value 31 0) s else ignoreDb s

/-! ## Fetch (R82 to R86, R647, R648) -/

/-- Tags an outstanding fetch read of a ring has been assigned. -/
def readTags (x : Ring) : List Nat := x.reads.flatMap Prod.snd
/-- Tags live of a tenant, those assigned to its outstanding fetch reads included. -/
def tenLive (s : State) (t : Nat) : Nat :=
  (s.hif.live.filter (fun e => decide (ringTen e.2.ring = t))).length
    + ((s.hif.rings.filter (fun e => decide (ringTen e.1 = t))).map (fun e => (readTags e.2).length)).sum
/-- Tags live in the module. -/
def usedTags (s : State) : List Nat := s.hif.live.map Prod.fst ++ s.hif.rings.flatMap (fun e => readTags e.2)
def allLive (s : State) : Nat := (usedTags s).length
/-- First of the 4,096 tags that serve control-class rings alone. Which numbers they are the spec leaves to the module: DESIGN
CHOICE, the highest (R85; log 144). -/
def ctlTag : Nat := 1044480
/-- Tags free and open to a class (R85). -/
def tagsOpen (s : State) (cls : Nat) : Nat :=
  if cls = 0 then 1048576 - allLive s else ctlTag - ((usedTags s).filter (fun k => decide (k < ctlTag))).length
/-- Count of the next entry to fetch of a ring, and entries announced and not yet asked for. -/
def nextFetch (s : State) (r : Nat) : Nat := ((ringRec s r).fetched + (readTags (ringRec s r)).length) % 0x100000000
def announced (s : State) (r : Nat) : Nat := sub32 (ringRec s r).latched (nextFetch s r)
/-- Free slots of a completion ring not reserved. -/
def cqFree (s : State) (r : Nat) : Nat :=
  ringSize s r - sub32 (ringRec s r).posted (ringRec s r).consumed - (ringRec s r).resv
/-- Entries up to the end of the ring's memory, so that one read covers consecutive addresses. -/
def toWrap (s : State) (r : Nat) : Nat := ringSize s r - nextFetch s r % ringSize s r
/-- Entries a fetch read may cover now (R82, R83). -/
def fetchable (s : State) (r : Nat) : Nat :=
  let t := ringTen r
  if (ringRec s r).st = .active ∧ ringType s r = 0 ∧ (tenRec s t).st = .active ∧ s.hif.up ∧ ¬ s.hif.resumePending then
    min (min 16 (announced s r)) (min (cqFree s (ringCq s r)) (min (tenQuota s t - tenLive s t)
      (min (tagsOpen s (ringClass s r)) (toWrap s r))))
  else 0

/-- Fetch reads in flight, of a tenant and of the module (Table 19.4). -/
def tenReads (s : State) (t : Nat) : Nat :=
  ((s.hif.rings.filter (fun e => decide (ringTen e.1 = t))).map (fun e => e.2.reads.length)).sum
def allReads (s : State) : Nat := (s.hif.rings.map (fun e => e.2.reads.length)).sum
/-- Entries of a resource of `n` reserved for a share (R647). -/
def reserved (n share : Nat) : Nat := n * share / 256
/-- A ring waits for a fetch read that it may have: something to fetch, and its tenant within its reservation and a quarter of the 64
(R647). -/
def fetchWaits (s : State) (r : Nat) : Bool :=
  decide (fetchable s r ≠ 0) && decide (tenReads s (ringTen r) < reserved 64 (tenShare s (ringTen r)) + 16)
/-- Where a waiting tenant stands in the arbitration: within its reservation, beyond it with a share, best effort (R86, R648). -/
def fetchTier (s : State) (t : Nat) : Nat :=
  if tenReads s t < reserved 64 (tenShare s t) then 0 else if tenShare s t ≠ 0 then 1 else 2
/-- Weight of a tenant in its round: its share; 1 in the plain round of best effort. -/
def fetchWeight (s : State) (t : Nat) : Nat := max (tenShare s t) 1
def servedKey (cls t : Nat) : Nat := cls * 4096 + t
def servedOf (s : State) (cls t : Nat) : Nat := Map.get 0 s.hif.served (servedKey cls t)
/-- Tenants of a class and tier that wait for a fetch read. -/
def waitTens (s : State) (cls tier : Nat) : List Nat :=
  ((s.hif.rings.filter (fun e => decide (ringClass s e.1 = cls) && fetchWaits s e.1)).map (fun e => ringTen e.1)).filter
    (fun t => decide (fetchTier s t = tier))
/-- The round of a tier is over: every tenant that waits has had its weight. -/
def roundOver (s : State) (cls tier : Nat) : Bool :=
  (waitTens s cls tier).all (fun t => decide (fetchWeight s t ≤ servedOf s cls t))
/-- It is the ring's turn: a read is free of the 64; no ring of a more urgent class waits (R19 to R21, R86), no tenant of an earlier tier;
and its tenant has not had its weight in this round. Which of the tenants that may be served next comes first is left to the operand:
DESIGN CHOICE (log 145). -/
def fetchTurn (s : State) (r : Nat) : Bool :=
  let cls := ringClass s r
  let tier := fetchTier s (ringTen r)
  fetchWaits s r && decide (allReads s < 64)
  && !(s.hif.rings.any (fun e => decide (ringClass s e.1 < cls) && fetchWaits s e.1))
  && (List.range tier).all (fun k => (waitTens s cls k).isEmpty)
  && (roundOver s cls tier || decide (servedOf s cls (ringTen r) < fetchWeight s (ringTen r)))
/-- Counts a grant; a round that is over starts anew. -/
def countGrant (r : Nat) (s : State) : State :=
  let cls := ringClass s r
  let tier := fetchTier s (ringTen r)
  let anew := roundOver s cls tier
  let ts := waitTens s cls tier
  let fresh := fun (m : Map Nat) => if anew then Map.keep (fun k _ => decide (k / 4096 ≠ cls) || !(memb (k % 4096) ts)) m else m
  modHif (fun h => { h with served := Map.upd 0 (fresh h.served) (servedKey cls (ringTen r)) (fun n => n + 1) }) s

/-- TAG_QUOTA_PAUSE, at most once per 1 ms, 250,000 ticks (Table 02.20). -/
def quotaPause (t : Nat) (s : State) : State :=
  match (tenRec s t).pauseAt with
  | some k => if s.tick < k + 250000 then s else
      setTenRec t (fun x => { x with pauseAt := some s.tick }) (postEvent t 0x0003 0 0 s)
  | none => setTenRec t (fun x => { x with pauseAt := some s.tick }) (postEvent t 0x0003 0 0 s)

/-- The lowest number from `b` on that is not used: one of the first `used.length + 1`. -/
def lowUnused (used : List Nat) (b : Nat) : Nat :=
  ((List.range (used.length + 1)).find? (fun i => !memb (b + i) used)).getD 0 + b
/-- The tag the module takes: the one named if it is free and open to the class, else the lowest free one, of the control tags first for a
control-class ring (R84, R85; the spec leaves the choice to the module: log 144). -/
def pickTag (used : List Nat) (cls want : Nat) : Nat :=
  if want < (if cls = 0 then 1048576 else ctlTag) ∧ ¬ memb want used then want
  else if cls = 0 ∧ lowUnused used ctlTag < 1048576 then lowUnused used ctlTag
  else lowUnused used 0
/-- Tags for `n` entries. -/
def pickTags (cls : Nat) : Nat → List Nat → List Nat → List Nat
  | 0, _, _ => []
  | n + 1, used, want =>
    let k := pickTag used cls (want.headD 1048576)
    k :: pickTags cls n (k :: used) want.tail

/-- Issues a fetch read of at most `n` entries of a ring, with the tags its entries take, or counts why fetch pauses (R82 to R86,
Table 02.22). -/
def fetchIssue (r n : Nat) (want : List Nat) (s : State) : State :=
  let t := ringTen r
  let k := min n (fetchable s r)
  if ¬ nclkOn s ∨ memb 1 s.boot.drained ∨ memb 2 s.boot.drained then s
  else if k ≠ 0 then
    if fetchTurn s r then
      let s1 := emit (.fetchRead (tenFn s t) (pasidOf (ringRec s r).pasid) (ringBase s r + nextFetch s r % ringSize s r * 64) (k * 64))
        (modRing (ringCq s r) (fun x => { x with resv := x.resv + k })
          (modRing r (fun x => { x with reads := x.reads ++ [(nextFetch s r, pickTags (ringClass s r) k (usedTags s) want)] })
            (countGrant r s)))
      modHif (fun h => { h with trkPeak := max h.trkPeak (allLive s1) }) s1
    else s
  else if (ringRec s r).st = .active ∧ announced s r ≠ 0 ∧ s.hif.up ∧ ¬ s.hif.resumePending then
    if tagsOpen s (ringClass s r) = 0 then modHif (fun h => { h with trkPause := satAdd 32 h.trkPause 1 }) s
    else if tenQuota s t ≤ tenLive s t then quotaPause t s
    else s
  else s

/-- The first failing header check of R90, if one fails. -/
def headerFault (s : State) (r count : Nat) (d : List Byte) : Option Nat :=
  if bitW s.pln.retire 31 then some stRETIRED
  else if seqOf d ≠ count then some stDESC_STALE
  else if versionOf d ≠ 1 then some stBAD_VERSION
  else
    match opClasses (opcodeOf d) with
    | none => some stBAD_OPCODE
    | some cs => if memb (ringClass s r) cs then none else some stWRONG_CLASS

/-- A FENCE that waits for entries of a ring still to be fetched counts one of them as fetched and waits for its descriptor
(R81). -/
def fenceSees (r count : Nat) (x : Ring) (l : Live) : Live :=
  if l.stage = .running ∧ opcodeOf l.desc = 0x01 ∧ l.more ≠ 0 ∧ l.gen = x.gen ∧ ringTen l.ring * 256 + fieldAt l.desc 16 1 = r then
    { l with more := l.more - 1, waits := l.waits ++ [count] }
  else l
/-- Takes one fetched entry under its tag, then the header checks. -/
def takeEntry (r count : Nat) (d : List Byte) (tag : Nat) (s : State) : State :=
  let s1 := modHif (fun h => { h with
    live := Map.put (Map.mapV (fun _ => fenceSees r count (ringRec s r)) h.live) tag { ring := r, count := count, desc := d } }) s
  if ¬ tenActive s (ringTen r) then completeNow tag stTEARDOWN 0 0 s1
  else
    match headerFault s1 r count d with
    | some e => completeNow tag e 0 0 s1
    | none => s1

/-- Cuts bytes into descriptors of 64. -/
def chunks64 : Nat → List Byte → List (List Byte)
  | 0, _ => []
  | n + 1, bs => bs.take 64 :: chunks64 n (bs.drop 64)

/-- The oldest fetch read of a ring returns: 0 where it succeeds, else what failed (Unsupported Request, Completer Abort, poison, ATS
failure); the bytes (R78, R84, Table 02.12). One in flight when the link goes down returns all the same: DESIGN CHOICE, the spec is silent
(log 146). -/
def fetchDone (r fault : Nat) (bytes : List Byte) (s : State) : State :=
  match (ringRec s r).reads with
  | [] => s
  | (c, tags) :: rest =>
    if fault ≠ 0 then
      settleRing r (settleRing (ringCq s r)
        (ringError r 2 (modRing (ringCq s r) (fun x => { x with resv := x.resv - tags.length })
          (modRing r (fun x => { x with reads := rest }) s))))
    else
      let s1 := modRing r (fun x => { x with reads := rest, fetched := (c + tags.length) % 0x100000000 }) s
      settleRing r (forS (((chunks64 tags.length bytes).zip tags).zipIdx) (fun p s =>
        takeEntry r ((c + p.2) % 0x100000000) p.1.1 p.1.2 s) s1)

/-! ## Start of a descriptor (R79, R344, R373) -/

/-- A descriptor that has not started. -/
def unstarted (l : Live) : Bool := decide (l.stage = .fetched) || decide (l.stage = .attachWait)
/-- A descriptor that still executes or has not started; a held one has finished (R345). DEDUCED: `completed` in R79 and
R81 is read as finished executing (log 60). -/
def unfinished (l : Live) : Bool := !(decide (l.stage = .held) || decide (l.stage = .drained) || decide (l.stage = .lost))
/-- Earlier in the same ring: the fetched count is at or past both counts, so the distance orders them. -/
def earlier (s : State) (a b : Live) : Bool :=
  decide (a.ring = b.ring) && decide (sub32 (ringRec s b.ring).fetched b.count < sub32 (ringRec s a.ring).fetched a.count)
/-- Nothing holds the descriptor back in its ring: every earlier one has started, no earlier STEP_OPEN waits (R342), and
with fence set every earlier one has finished. -/
def ringTurn (s : State) (l : Live) : Bool :=
  s.hif.live.all (fun e =>
    !(earlier s e.2 l) ||
      (!(unstarted e.2) && !(decide (e.2.stage = .spaceWait) && decide (opcodeOf e.2.desc = 0x50)) && (!(bitOf (flagsOf l.desc) 2) || !(unfinished e.2))))

/-- What the start of a descriptor meets. -/
inductive Gate where
  | no
  | wait
  | drop
  | go (step : Option Nat)
deriving DecidableEq, Repr

/-- The register block that carries out an opcode (Table 22.1). -/
def opBlock (op : Nat) : Nat :=
  if op < 0x10 then 2 else if op < 0x20 then 4 else if op < 0x30 then 3 else if op < 0x40 then 5 else if op < 0x50 then 8 else if op < 0x60 then 9
  else if op < 0x70 then 10 else 14
/-- The step a descriptor attaches to at its start (R344), and what RECOVER allows (R373). Step opcodes are handled by
their own meanings. -/
def gateOf (s : State) (tag op : Nat) : Gate :=
  match liveRec s tag with
  | none => .no
  | some l =>
    if nclkOn s ∧ opcodeOf l.desc = op ∧ unstarted l ∧ ringTurn s l ∧ ¬ memb (opBlock op) s.boot.drained then
      let ts := tstep s (liveTen l)
      match ts.st with
      | .recover =>
        if op = 0x52 ∨ op = 0x53 ∨ (0x60 ≤ op ∧ op ≤ 0x6F) then .go none
        else if ringClass s l.ring ≠ 0 then .drop
        else if ts.steps.isEmpty then .go none
        else .wait
      | .idle => .go none
      | .run =>
        if op = 0x52 ∨ op = 0x53 then .go none
        else
          match openStep s (liveTen l) with
          | some n => .go (some n)
          | none => .wait
    else .no

/-- Starts a descriptor and runs `f` on the state with it started and attached; one that must wait waits (R344), one that
RECOVER refuses completes DISCARDED, detail 2 (R373). -/
def startDesc (tag op : Nat) (f : State → State) (s : State) : State :=
  match gateOf s tag op with
  | .no => s
  | .wait => modLive tag (fun l => { l with stage := .attachWait }) s
  | .drop => completeNow tag stDISCARDED 2 0 s
  | .go st => f (modLive tag (fun l => { l with stage := .running, step := st }) s)

end Sys2Proof.Machine
end

