-- ==== Sys2Proof/Machine/Mem.lean ====
section
/-!
DEFINITION. Machine/Mem.lean: the tiers, pools and pages, where the Planter places a page, the press buffer, and the one
way a write reaches a handle: through the pre-images of R360, the rack marks of R388 and R389 and the promotions of R123.
-/
namespace Sys2Proof.Machine

/-! ## Pools (R103, R104) -/

def pagesPerGib : Nat := 512
def t0Pool (s : State) : Nat := numStacks s * 64 * pagesPerGib
def rsvReg (s : State) (i : Nat) : Nat := (cset s .memRsv 0 i).toNat
/-- Pages of T1 less the 4 GiB system area, lees, rack reserve, graft reserve and must hold. -/
def t1Of (half : Bool) (lees rack graft holdQ : Nat) : Nat :=
  (if half then 768 else 1536) * pagesPerGib - (4 + lees + rack + graft) * pagesPerGib - holdQ * 128
def t1Pool (s : State) : Nat := t1Of s.half (rsvReg s 0) (rsvReg s 1) (rsvReg s 2) (rsvReg s 3)
def t2Of (half : Bool) (rack : Nat) : Nat := (if half then 1024 else 2048) * pagesPerGib - rack * pagesPerGib
def t2Pool (s : State) : Nat := t2Of s.half (rsvReg s 4)
def poolOf (s : State) (tier : Nat) : Nat := if tier = 0 then t0Pool s else if tier = 1 then t1Pool s else t2Pool s

/-- Pages held in a tier. -/
def usedIn (s : State) (tier : Nat) : Nat := (s.pln.pages.filter (fun e => decide (e.2.tier = tier))).length
/-- Pages in zeroization in a tier (R102). -/
def zeroingIn (s : State) (tier : Nat) : Nat := (s.pln.zeroing.filter (fun z => decide (z.1 = tier))).length
/-- Destination pages of moves in flight in a tier. -/
def movingTo (s : State) (tier : Nat) : Nat := (s.pln.moves.filter (fun m => decide (m.tier = tier))).length
/-- Free pages of a tier's pool, those in zeroization left out. -/
def freeIn (s : State) (tier : Nat) : Nat := poolOf s tier - usedIn s tier - zeroingIn s tier - movingTo s tier
/-- Free pages of one T0 stack. -/
def freeStack (s : State) (k : Nat) : Nat := 32768 - stackLoad s k

/-- Moves are permitted (PLN_CFG.mig_en). -/
def migEn (s : State) : Bool := bitW (cset s .pln 0 0) 31
/-- Pages of T0 stacks in service that are free or in zeroization: T0 pages a handle may be given (R102, R113, R120). -/
def freeT0 (s : State) : Nat :=
  ((List.range (numStacks s)).map (fun k => if (Map.get {} s.pln.stk k).st = 1 then
      freeStack s k + (s.pln.zeroing.filter (fun z => decide (z.1 = 0) && decide (z.2 = k))).length else 0)).sum

/-- Pages a tenant holds in a tier. -/
def tenIn (s : State) (t tier : Nat) : Nat := ((tenPages s t).filter (fun e => decide (e.2.tier = tier))).length
/-- Pages of a tenant that moves in flight bring into T0, and take out of it. -/
def movesIn (s : State) (t : Nat) : Nat :=
  ((tenPages s t).filter (fun e => decide (e.2.tier ≠ 0) && s.pln.moves.any (fun m => decide (m.page = e.1) && decide (m.tier = 0)))).length
def movesOut (s : State) (t : Nat) : Nat :=
  ((tenPages s t).filter (fun e => decide (e.2.tier = 0) && s.pln.moves.any (fun m => decide (m.page = e.1) && decide (m.tier ≠ 0)))).length
def tqTotal (s : State) (t : Nat) : Nat := (cset s .plnTq t 0).toNat
def tqFloor (s : State) (t : Nat) : Nat := (cset s .plnTq t 1).toNat
def tqCap (s : State) (t : Nat) : Nat := (cset s .plnTq t 2).toNat
def tqHandles (s : State) (t : Nat) : Nat := (cset s .plnTq t 3).toNat
def tqPress (s : State) (t : Nat) : Nat := (cset s .plnTq t 4).toNat

/-! ## Scores (R119, R122) -/

def stkRec (s : State) (k : Nat) : Stk := Map.get {} s.pln.stk k
def modStk (k : Nat) (f : Stk → Stk) (s : State) : State := modPln (fun p => { p with stk := Map.upd {} p.stk k f }) s
def dieOfStack (k : Nat) : Nat := k / 2

/-- The weights in force: w.tier for T0, T1, T2, then local, hint, move, therm (Table 03.7, or the placement trellis
table wt_tbl names, whose body holds them as bytes in that order). -/
def weights (s : State) : List Nat :=
  let n := fldW (cset s .pln 0 0) 3 0
  if n = 0 then [16, 8, 0, 1, 128, 96, 64]
  else (tableBody s 2 n).take 7 |>.map (fun b => b.toNat)

def heat (p : Page) : Nat := p.c0 + p.c1 + p.c2 + p.c3
def cntOf (p : Page) (d : Nat) : Nat := if d = 0 then p.c0 else if d = 1 then p.c1 else if d = 2 then p.c2 else p.c3
/-- 256 × the owning die's count over the heat at a stack; 0 elsewhere (R118). -/
def localShare (p : Page) (tier k : Nat) : Nat :=
  if tier = 0 ∧ heat p ≠ 0 then 256 * cntOf p (dieOfStack k) / heat p else 0
/-- The location meets tier_pref and die_pref (Table 03.4). -/
def hintMatch (p : Page) (tier k : Nat) : Nat :=
  if (p.prefTier = 0 ∨ p.prefTier = tier + 1) ∧ (p.prefDie = 0 ∨ (tier = 0 ∧ p.prefDie = dieOfStack k + 1)) then 1 else 0
/-- A page states a preference at all. -/
def hinted (p : Page) : Bool := decide (p.prefTier ≠ 0) || decide (p.prefDie ≠ 0)

/-- The score of a location (R119). `here`: the page is there now. -/
def score (s : State) (p : Page) (tier k : Nat) (here : Bool) : Int :=
  let w := weights s
  let g := fun i => (w.getD i 0 : Int)
  g tier * (min (heat p) 255 : Nat) / 16 + g 3 * (localShare p tier k : Nat) + g 4 * (hintMatch p tier k : Nat)
    - (if here then 0 else g 5) - g 6 * (if tier = 0 then ((stkRec s k).level : Int) else 0)

/-- All locations, lower tier first, lower stack first: the order that decides ties (R119). -/
def locations (s : State) : List (Nat × Nat) := ((List.range (numStacks s)).map (fun k => (0, k))) ++ [(1, 0), (2, 0)]

/-- A location is permitted to a page of tenant t (R120), with `t0` telling whether T0 is open to it. `cur` is the location the page holds
now, which stays open to it. Pages on their way to T0 count as held there: DEDUCED from R120, so that moves in flight cannot pass the cap (log
150). -/
def permitted (s : State) (t : Nat) (t0 t2 : Bool) (cur : Option (Nat × Nat)) (l : Nat × Nat) : Bool :=
  if cur = some l then true
  else if l.1 = 0 then t0 && decide ((stkRec s l.2).st = 1) && decide (tenIn s t 0 + movesIn s t < tqCap s t)
  else if l.1 = 1 then decide (0 < freeIn s 1)
  else t2 && decide (0 < freeIn s 2)

/-- The best of the permitted locations: the highest score, ties keeping the current one, then the earlier in
`locations`. -/
def bestLoc (s : State) (p : Page) (ok : Nat × Nat → Bool) (cur : Option (Nat × Nat)) : Option (Nat × Nat) :=
  let c := (cur.toList.filter ok) ++ (locations s).filter (fun l => ok l && decide (cur ≠ some l))
  c.foldl (fun b l =>
    match b with
    | none => some l
    | some m => if score s p m.1 m.2 (decide (cur = some m)) < score s p l.1 l.2 (decide (cur = some l)) then some l else b)
    none

/-- Demotions into T2 are deferred while the wear bucket is spent (R123, R418). -/
def t2Open (s : State) : Bool := decide (0 < s.rck.bucket)
/-- A page holding a pre-image of an undrawn step may not be demoted to T2 (R362). -/
def hasPreimg (s : State) (h p : Nat) : Bool := s.stp.lees.any (fun x => decide (x.hnd = h) && decide (x.page = p) && !x.kept)

/-- A stack in service has a free page. -/
def t0Free (s : State) : Bool := (List.range (numStacks s)).any (fun k => decide ((stkRec s k).st = 1) && decide (0 < freeStack s k))

/-- A T0 page that may be demoted: its handle is no context image, whose pages never leave their die's stacks (R173), its stack is in
service, and no move of it is in flight. -/
def demotable (s : State) (e : Nat × Page) : Bool :=
  decide (e.2.tier = 0) && decide ((stkRec s e.2.stack).st = 1) && !(s.pln.moves.any (fun m => decide (m.page = e.1)))
    && (match hndRec s (e.1 / 0x100000) with | some h => !h.reserved | none => false)
/-- T0 pages a tenant holds, those on their way out left out. -/
def stayT0 (s : State) (t : Nat) : Nat := tenIn s t 0 - movesOut s t
/-- The page demoted to make room in T0 for tenant a (R121): a's own lowest-scoring page, or, below its floor, the
lowest-scoring page of a tenant above its own floor; ties to the lowest handle, then page. -/
def demoteVictim (s : State) (a : Nat) : Option (Nat × Page) :=
  let own := (tenPages s a).filter (demotable s)
  let cand :=
    if stayT0 s a < tqFloor s a then
      s.pln.pages.filter (fun e => demotable s e &&
        (match hndRec s (e.1 / 0x100000) with
          | some h => decide (h.tenant ≠ a) && decide (tqFloor s h.tenant < stayT0 s h.tenant)
          | none => false))
    else own
  cand.foldl (fun b e =>
    match b with
    | none => some e
    | some x => if score s e.2 0 e.2.stack true < score s x.2 0 x.2.stack true then some e else b) none

/-- Where a demoted page goes: its best permitted location in T1 or T2 (R121). -/
def demoteLoc (s : State) (k : Nat) (p : Page) : Option (Nat × Nat) :=
  bestLoc s p (fun l => decide (l.1 ≠ 0) && (decide (l.1 = 1 ∧ 0 < freeIn s 1)
    || (decide (l.1 = 2 ∧ 0 < freeIn s 2) && t2Open s && !(hasPreimg s (k / 0x100000) (k % 0x100000))))) none

/-! ## Pages leave (R102) -/

/-- A page of a tier and stack leaves its handle or its move: it zeroizes; T2 pages rejoin the pool at once. -/
def leaves (tier stack : Nat) (l : List (Nat × Nat)) : List (Nat × Nat) := if tier = 2 then l else l ++ [(tier, stack)]
/-- A move in flight is abandoned: its destination zeroizes, moves that waited for it go, and it counts (R128, Table 03.13); a promotion is no
move of PLN_MIG_ABANDON, as it is none of PLN_MIG_DONE. -/
def dropMove (key : Nat) (s : State) : State :=
  match s.pln.moves.find? (fun m => decide (m.page = key)) with
  | none => s
  | some m =>
    modPln (fun p => { p with
      moves := p.moves.filter (fun m => decide (m.page ≠ key) && decide (m.after ≠ some key)), zeroing := leaves m.tier m.stack p.zeroing,
      migAbandon := if m.promo then p.migAbandon else satAdd 32 p.migAbandon 1 }) s
/-- A page leaves its handle: a move of it is abandoned, its bytes become zero, its location zeroizes, its mark and poison go. -/
def dropPage (h p : Nat) (s : State) : State :=
  match pageRec s h p with
  | none => s
  | some x =>
    modPln (fun y => { y with pages := Map.del y.pages (pageKey h p), zeroing := leaves x.tier x.stack y.zeroing })
      (dropMove (pageKey h p) (modMem (fun m => memZero m (hKey h (p * 0x200000)) 0x200000) s))

/-- All pages of a handle leave, and the handle's number becomes free (R106, R116). -/
def dropHnd (h : Nat) (s : State) : State :=
  let s1 := forS (List.range (pagesOf (hndSize s h))) (dropPage h) s
  modPln (fun p => { p with hnds := Map.del p.hnds h, press := p.press.filter (fun l => decide (l.hnd ≠ h)),
                            waits := p.waits.filter (fun w => decide (w.hnd ≠ h)) }) s1

/-! ## The press buffer (R130 to R135). The model's memory holds the merged view of R134; a line here is what has not
yet reached the stack. -/

def pressLines (s : State) (k t : Nat) : Nat :=
  (s.pln.press.filter (fun l => decide (l.stack = k) && decide (l.tenant = t))).length
/-- The tenant's oldest lines in a stack are written to it until it holds no more than `keep` (R131, R132). -/
def pressTrim (k t keep : Nat) (s : State) : State :=
  modPln (fun p => { p with press := (p.press.foldl (fun (a : Nat × List PressLine) l =>
    if l.stack = k ∧ l.tenant = t ∧ a.1 ≠ 0 then (a.1 - 1, a.2) else (a.1, a.2 ++ [l])) (pressLines s k t - keep, [])).2 }) s
/-- A partial write to a line of a T0 page: joins its line, leaves when whole (R131), displaces the tenant's oldest lines
at its cap (R132, R144), and is made at once when the buffer is full (R133) or the cap is 0. -/
def pressLine (k t h line : Nat) (d : List (Nat × Byte)) (s : State) : State :=
  let mine := fun (l : PressLine) => decide (l.stack = k) && decide (l.hnd = h) && decide (l.line = line)
  match s.pln.press.find? mine with
  | some l =>
    let data := d.foldl (fun m e => Map.put m e.1 e.2) l.data
    if 64 ≤ data.length then modPln (fun p => { p with press := p.press.filter (fun x => !mine x) }) s
    else modPln (fun p => { p with press := p.press.map (fun x => if mine x then { x with data := data } else x) }) s
  | none =>
    let full := decide (32768 ≤ (s.pln.press.filter (fun l => decide (l.stack = k))).length)
    if full && decide (pressLines s k t < tqPress s t) then s
    else
      let s1 := pressTrim k t (tqPress s t - 1) s
      if tqPress s t = 0 then s1
      else modPln (fun p => { p with press := p.press ++ [{ stack := k, tenant := t, hnd := h, line := line, data := d }] }) s1
/-- A whole-line write goes straight to the stack; an older partial line of it is overwritten (R130). -/
def pressWhole (h line : Nat) (s : State) : State :=
  modPln (fun p => { p with press := p.press.filter (fun l => !(decide (l.hnd = h) && decide (l.line = line))) }) s
/-- The lines a write of n bytes at byte `off` touches, as (line, first byte in line, bytes). -/
def linesOf : Nat → Nat → Nat → List (Nat × Nat × Nat)
  | 0, _, _ => []
  | fuel + 1, off, n =>
    if n = 0 then [] else
    let k := min n (64 - off % 64)
    (off / 64, off % 64, k) :: linesOf fuel (off + k) (n - k)
def pressWrite (k t h off : Nat) (bs : List Byte) (s : State) : State :=
  forS (linesOf (bs.length / 64 + 2) off bs.length) (fun x s =>
    if x.2.2 = 64 then pressWhole h x.1 s
    else pressLine k t h x.1 ((List.range x.2.2).map (fun i => (x.2.1 + i, memGet s.mem (hKey h (x.1 * 64 + x.2.1 + i))))) s) s

/-! ## Dormant (R486, R487) -/

/-- T0 and the compute dies are off: in Dormant, or on the way into it. -/
def asleep (s : State) : Bool := decide (s.pwr.st = .dormant) || decide (s.pwr.trans = 1)
/-- A wake cause (R487): Dormant is left; during entry, once the entry is complete (Table 13.11). -/
def wakeUp (s : State) : State :=
  if s.pwr.st = .dormant then modPwr (fun p => { p with trans := 2, wake := true }) s
  else if s.pwr.trans = 1 then modPwr (fun p => { p with wake := true }) s
  else s

/-! ## Writes to handles -/

/-- What holds a write back. -/
inductive Need where
  | gone | t2 | marks | stall | pre | cow | ready
deriving DecidableEq, Repr

/-- The rack in progress still sets marks on this handle's pages (R388). -/
def marking (s : State) (h : Nat) : Bool :=
  match s.rck.job, hndRec s h with
  | some j, some x => decide (j.tenant = x.tenant) && !j.marked && !x.noRack
  | _, _ => false

/-- The pre-image a step holds of a block (R360). -/
def preImgOf (s : State) (n h p b : Nat) : Option PreImg :=
  s.stp.lees.find? (fun x => decide (x.step = n) && decide (x.hnd = h) && decide (x.page = p) && decide (x.block = b))

/-- A step is speculative while an older undrawn step exists (R364). -/
def speculative (s : State) (t n : Nat) : Bool := decide (oldestStep s t ≠ some n)

/-- Bytes the tenant's pre-images hold, kept ones included (R360, R387). -/
def leesUse (s : State) (t : Nat) : Nat := 4096 * (s.stp.lees.filter (fun x => decide (x.tenant = t))).length
/-- Bytes the tenant's held writes (in whole 4 KiB units, R361) events (32 bytes, R363) and tallies (576 bytes,
R590) hold. -/
def holdUse (s : State) (t : Nat) : Nat :=
  ((s.stp.hold ++ s.stp.draining).filter (fun x => decide (x.tenant = t))).foldl (fun a x => a + (x.bytes.length + 4095) / 4096 * 4096) 0
    + 32 * (s.stp.holdEv.filter (fun x => decide (x.tenant = t))).length + 576 * (Map.get {} s.dbg.tally t).held.length
def leesQuota (s : State) (t : Nat) : Nat := fldW (cset s .stpTen t 1) 25 16 * 2 ^ 30
def holdQuota (s : State) (t : Nat) : Nat := fldW (cset s .stpTen t 1) 10 0 * 2 ^ 20
def leesStall (s : State) (t : Nat) : Bool := decide (leesQuota s t ≤ 2 * leesUse s t)
def holdStall (s : State) (t : Nat) : Bool := decide (holdQuota s t ≤ 2 * holdUse s t)

def pageIdx (off : Nat) : Nat := off / 0x200000
def blockIdx (off : Nat) : Nat := off % 0x200000 / 4096

/-- Accesses to a T0 page wait: behind the fence (R456, R458), in Dormant (R487), and while its stack is tripped or lost, to which its
controller issues nothing (R137, R139). -/
def t0Held (s : State) (x : Page) : Bool :=
  decide (x.tier = 0) && (s.err.fence || asleep s || decide ((stkRec s x.stack).st = 2) || decide ((stkRec s x.stack).st = 3))
/-- What a waiting write needs first. -/
def needOf (s : State) (w : WaitW) : Need :=
  match pageRec s w.hnd (pageIdx w.off), hndRec s w.hnd with
  | some p, some h =>
    if p.tier = 2 then .t2
    else if marking s w.hnd ∨ t0Held s p then .marks
    else
      let pre := match w.step with
        | some n => !h.reserved && (preImgOf s n w.hnd (pageIdx w.off) (blockIdx w.off)).isNone
        | none => false
      if pre then
        match w.step with
        | some n => if speculative s w.tenant n && (leesStall s w.tenant || holdStall s w.tenant) then .stall else .pre
        | none => .pre
      else if p.mark && !(memb (blockIdx w.off) p.copied) then .cow
      else .ready
  | _, _ => .gone

/-- A write lands: the bytes, the press buffer of a T0 page, the poison a whole-block write clears (R466), the block
noted for the step's graft (R402). -/
def landWrite (w : WaitW) (s : State) : State :=
  let p := pageIdx w.off
  let b := blockIdx w.off
  let s1 := hPut w.hnd w.off w.bytes s
  let s2 := match pageRec s w.hnd p with
    | some x => if x.tier = 0 then pressWrite x.stack w.tenant w.hnd w.off w.bytes s1 else s1
    | none => s1
  let s3 := if w.bytes.length = 4096 ∧ w.off % 4096 = 0 then modPage w.hnd p (fun x => { x with poison := without b x.poison }) s2 else s2
  match w.step, hndRec s w.hnd with
  | some n, some h =>
    if h.graftEach then modRck (fun r => { r with tens := Map.upd {} r.tens w.tenant (fun x =>
        { x with written := if x.written.contains (n, w.hnd, p, b) then x.written else x.written ++ [(n, w.hnd, p, b)] }) }) s3
    else s3
  | _, _ => s3

def sameBlock (a b : WaitW) : Bool := decide (a.hnd = b.hnd) && decide (a.off / 4096 = b.off / 4096)

/-- Lets every waiting write proceed that nothing holds back, in order per block. -/
def pump (s : State) : State :=
  let r := s.pln.waits.foldl (fun (acc : List WaitW × State) w =>
    if acc.1.any (sameBlock w) then (acc.1 ++ [w], acc.2)
    else
      match needOf acc.2 w with
      | .ready => (acc.1, landWrite w acc.2)
      | .gone => acc
      | _ => (acc.1 ++ [w], acc.2)) ([], s)
  modPln (fun p => { p with waits := r.1 }) r.2

/-- Whether T0 is open to a page of tenant a, and by which demotion (R120, R121): none is made while moves are not permitted. -/
def t0Way (s : State) (a : Nat) : Bool × Option (Nat × Nat × Nat × Nat) :=
  if t0Free s then (true, none)
  else if ¬ migEn s then (false, none)
  else
    match demoteVictim s a with
    | some v =>
      if v.2.mark ∨ v.2.banned then (false, none)
      else
        match demoteLoc s v.1 v.2 with
        | some l => (true, some (v.1, v.2.stack, l.1, l.2))
        | none => (false, none)
    | none => (false, none)

/-- The best location of a page (R119 to R121), with the demotion it needs first. A page is not demoted for itself. -/
def placeOf (s : State) (a key : Nat) (x : Page) (t2 : Bool) (cur : Option (Nat × Nat)) :
    Option ((Nat × Nat) × Option (Nat × Nat × Nat × Nat)) :=
  let w0 := t0Way s a
  let w := if (w0.2.map Prod.fst) = some key then (false, none) else w0
  let okStack := fun (l : Nat × Nat) =>
    match w.2 with
    | some v => decide (l.2 = v.2.1)
    | none => decide (0 < freeStack s l.2)
  (bestLoc s x (fun l => permitted s a w.1 t2 cur l && (decide (l.1 ≠ 0) || decide (cur = some l) || okStack l)) cur).map
    (fun l => (l, if l.1 = 0 ∧ cur ≠ some l then w.2 else none))

/-- The demotion a placement needs first, as a move. -/
def demotion (v : Option (Nat × Nat × Nat × Nat)) : List Move := v.toList.map (fun d => { page := d.1, tier := d.2.2.1, stack := d.2.2.2 })
/-- Starts a move, the demotion it needs first; no more than 64 are in flight (R122). -/
def startMove (key : Nat) (l : Nat × Nat) (v : Option (Nat × Nat × Nat × Nat)) (promo : Bool) (s : State) : State :=
  if 64 < s.pln.moves.length + (demotion v).length + 1 then s
  else modPln (fun z => { z with
    moves := z.moves ++ demotion v ++ [{ page := key, tier := l.1, stack := l.2, after := v.map Prod.fst, promo := promo }] }) s
/-- A hinted page is placed where its hint is not met, or stands so at an evaluation: counted (PLN_HINT_UNMET). -/
def countUnmet (x : Page) (l : Nat × Nat) (s : State) : State :=
  if hinted x ∧ hintMatch x l.1 l.2 = 0 then modPln (fun p => { p with hintUnmet := satAdd 32 p.hintUnmet 1 }) s else s

/-- Starts the promotion of a T2 page an access needs, if none is under way (R123). -/
def startPromo (h p : Nat) (s : State) : State :=
  match pageRec s h p, hndRec s h with
  | some x, some y =>
    if x.tier = 2 ∧ s.pln.moves.length < 64 ∧ ¬ s.pln.moves.any (fun m => decide (m.page = pageKey h p)) then
      match placeOf s y.tenant (pageKey h p) x false none with
      | some q => countUnmet x q.1 (startMove (pageKey h p) q.1 q.2 true s)
      | none => s
    else s
  | _, _ => s

/-- Pages (handle, page) a range of bytes touches. -/
def pagesTouched (h off n : Nat) : List (Nat × Nat) :=
  if n = 0 then [] else (List.range (pageIdx (off + n - 1) + 1 - pageIdx off)).map (fun i => (h, pageIdx off + i))
/-- Some page of a range lies in T2. -/
def touchesT2 (s : State) (h off n : Nat) : Bool :=
  (pagesTouched h off n).any (fun q => match pageRec s q.1 q.2 with | some x => decide (x.tier = 2) | none => false)
def promoteRange (h off n : Nat) (s : State) : State := forS (pagesTouched h off n) (fun q => startPromo q.1 q.2) s

/-- Pieces of a write, none crossing a 4 KiB block. -/
def pieces : Nat → Nat → List Byte → List (Nat × List Byte)
  | 0, _, _ => []
  | fuel + 1, off, bs =>
    if bs.isEmpty then [] else
    let k := min bs.length (4096 - off % 4096)
    (off, bs.take k) :: pieces fuel (off + k) (bs.drop k)

/-- Some page of a range lies in T0 where accesses wait. -/
def rangeHeld (s : State) (h off n : Nat) : Bool :=
  (pagesTouched h off n).any (fun q => match pageRec s q.1 q.2 with | some x => t0Held s x | none => false)
/-- Some page of a range lies in T0. -/
def touchesT0 (s : State) (h off n : Nat) : Bool :=
  (pagesTouched h off n).any (fun q => match pageRec s q.1 q.2 with | some x => decide (x.tier = 0) | none => false)
/-- Queues a write of bytes to a handle and lets it proceed as far as it can; one to T0 wakes the module (R487). -/
def hWrite (who t : Nat) (step : Option Nat) (h off : Nat) (bs : List Byte) (s : State) : State :=
  pump <| whenS (touchesT0 s h off bs.length) wakeUp (promoteRange h off bs.length
    (modPln (fun p => { p with waits := p.waits ++ (pieces (bs.length / 4096 + 2) off bs).map (fun x =>
      ⟨who, t, step, h, x.1, x.2⟩) }) s))

/-- Writes still waiting for a maker. -/
def writesWait (s : State) (who : Nat) : Bool := s.pln.waits.any (fun w => decide (w.who = who))

/-- Blocks of a range that are poisoned, as byte offsets in the handle. -/
def poisonedIn (s : State) (h off n : Nat) : List Nat :=
  ((pagesTouched h off n).flatMap (fun q => match pageRec s q.1 q.2 with
    | some x => x.poison.map (fun b => q.2 * 0x200000 + b * 4096)
    | none => [])).filter (fun a => decide (a < off + n) && decide (off < a + 4096))

/-- Counts line accesses of a die's cores to the pages of a range (R118). -/
def countAccess (d h off n : Nat) (s : State) : State :=
  forS (pagesTouched h off n) (fun q s =>
    let lo := max off (q.2 * 0x200000)
    let hi := min (off + n) ((q.2 + 1) * 0x200000)
    let k := (hi - 1) / 64 + 1 - lo / 64
    modPage q.1 q.2 (fun x =>
      if d = 0 then { x with c0 := min 255 (x.c0 + k) } else if d = 1 then { x with c1 := min 255 (x.c1 + k) }
      else if d = 2 then { x with c2 := min 255 (x.c2 + k) } else { x with c3 := min 255 (x.c3 + k) }) s) s

end Sys2Proof.Machine
end

