-- ==== Sys2Proof/Machine/VineOps.lean ====
section
/-!
DEFINITION. Machine/VineOps.lean: port split tables and routing (R287 to R290), messages on Vine links (R278, R301), the
gate and its closing (R293 to R295).
-/
namespace Sys2Proof.Machine

/-! ## Port split tables (R287, R288) -/

/-- A slot of a split table: global mark, index, ports. -/
structure SlotE where
  glob : Bool
  index : Nat
  ports : Nat
deriving DecidableEq, Repr

/-- A split table: twisted, L, G, Gm, the slots. -/
structure Split where
  tw : Bool
  l : Nat
  g : Nat
  gm : Nat
  slots : List SlotE
deriving DecidableEq, Repr

/-- The split table a body spells (R287, Table 07.3). -/
def splitOfBody (b : List Byte) : Split :=
  { tw := decide (fieldAt b 0 1 = 1), l := fieldAt b 1 1, g := fieldAt b 2 1, gm := fieldAt b 3 1,
    slots := (List.range (min (fieldAt b 4 1) 12)).map (fun i =>
      let e := fieldAt b (16 + 4 * i) 4
      ⟨bitOf e 20, bitsOf e 19 16, bitsOf e 15 0⟩) }

/-- Indexes are 0 to n − 1, once each. -/
def onceEach (n : Nat) (l : List Nat) : Bool := decide (l.length = n) && (List.range n).all (fun i => l.contains i)

/-- The checks of R288. -/
def splitOk (half : Bool) (b : List Byte) : Bool :=
  let x := splitOfBody b
  let n := fieldAt b 4 1
  let ports := x.slots.map SlotE.ports
  decide (b.length = 64) && decide (fieldAt b 0 1 ≤ 1) && decide (1 ≤ n) && decide (n ≤ 12)
  && ports.all (fun p => decide (p ≠ 0)) && ports.all (fun p => decide (p < (if half then 0x100 else 0x10000)))
  && (List.range 16).all (fun i => decide ((ports.filter (fun p => bitOf p i)).length ≤ 1))
  && (if x.tw then
        decide (1 ≤ x.l) && decide (x.l ≤ 6) && decide (1 ≤ x.g) && decide (x.g ≤ 10) && decide (x.l + x.g ≤ 16)
        && decide (x.g ≤ 2 ^ x.l * x.gm) && decide (n = x.l + x.gm)
        && onceEach x.l ((x.slots.filter (fun e => !e.glob)).map SlotE.index)
        && onceEach x.gm ((x.slots.filter (fun e => e.glob)).map SlotE.index)
      else decide (x.l = n) && decide (x.g = 0) && decide (x.gm = 0) && onceEach x.l (x.slots.map SlotE.index))

def bindSplitT (s : State) (b : Nat) : Split := splitOfBody (tableBody s 4 (bindSplit s b))

/-! ## Routing (R289, R290) -/

/-- The bit a slot crosses from coordinate x (R289). -/
def slotBit (t : Split) (x : Nat) (e : SlotE) : Nat :=
  if t.tw && e.glob then 2 ^ (t.l + (x % 2 ^ t.l * t.gm + e.index) % t.g) else 2 ^ e.index
/-- The neighbour of x through a slot. -/
def slotNbr (t : Split) (x : Nat) (e : SlotE) : Nat := x ^^^ slotBit t x e

/-- Some slot of local coordinate c owns global dimension g. -/
def owned (t : Split) (c g : Nat) : Bool := (List.range t.gm).any (fun j => decide ((c * t.gm + j) % t.g = g))
/-- Number of bits in which two numbers below 2^16 differ. -/
def bitDiff (a b : Nat) : Nat := ((List.range 16).filter (fun i => bitOf (a ^^^ b) i)).length
/-- Dimensions of a list in the order R290 tries them: those clear in x's target phase first (bit set in x), ascending. -/
def phases (x : Nat) (ds : List Nat) : List Nat := ds.filter (fun d => bitOf x d) ++ ds.filter (fun d => !(bitOf x d))

/-- The next hop from x toward y as the bit to flip, or none (R290). -/
def hopBit (t : Split) (present : Nat → Bool) (x y : Nat) : Option Nat :=
  let l := t.l
  let c := x % 2 ^ l
  let dg := (List.range (if t.tw then t.g else 0)).filter (fun g => bitOf (x ^^^ y) (l + g))
  let dl := (List.range l).filter (fun d => bitOf (x ^^^ y) d)
  if dg ≠ [] then
    let order := (phases (x / 2 ^ l) dg)
    match order.find? (fun g => owned t c g && present (x ^^^ 2 ^ (l + g))) with
    | some g => some (2 ^ (l + g))
    | none =>
      match order.head? with
      | none => none
      | some g =>
        let base := x - c
        let owners := (List.range (2 ^ l)).filter (fun z => owned t z g && present (base + z))
        let best := owners.foldl (fun b z =>
          match b with
          | none => some z
          | some w => if bitDiff z c < bitDiff w c then some z else some w) none
        match best with
        | none => none
        | some z => ((List.range l).find? (fun i => bitOf (c ^^^ z) i && present (x ^^^ 2 ^ i))).map (fun i => 2 ^ i)
  else ((phases x dl).find? (fun d => present (x ^^^ 2 ^ d))).map (fun d => 2 ^ d)

/-- Hops of the route from x to y, up to a number of steps; none: unreachable. -/
def routeLen (t : Split) (present : Nat → Bool) : Nat → Nat → Nat → Option Nat
  | 0, x, y => if x = y then some 0 else none
  | fuel + 1, x, y =>
    if x = y then some 0
    else
      match hopBit t present x y with
      | none => none
      | some b => (routeLen t present fuel (x ^^^ b) y).map (· + 1)

def memberAt (m : List (Nat × Bool)) (x : Nat) : Bool := ((m[x]?).map Prod.snd).getD false
/-- Coordinates present in a member table. -/
def presentOf (m : List (Nat × Bool)) : List Nat := (List.range m.length).filter (memberAt m)
/-- The table of next hops from x (as coordinates). -/
def hopTable (t : Split) (m : List (Nat × Bool)) (x : Nat) : List (Option Nat) :=
  (List.range m.length).map (fun y => (hopBit t (memberAt m) x y).map (fun b => x ^^^ b))
/-- Longest route from x; none when some present member is not reached within 64 hops (R308). -/
def longest (t : Split) (m : List (Nat × Bool)) (x : Nat) : Option Nat :=
  (presentOf m).foldl (fun a y =>
    match a, routeLen t (memberAt m) 64 x y with
    | some k, some n => some (max k n)
    | _, _ => none) (some 0)

/-- The next hop in force from this module toward a coordinate. -/
def nextHop (s : State) (b y : Nat) : Option Nat := ((bindRec s b).hops[y]?).getD none
/-- The slot that leads to a neighbour coordinate. -/
def slotTo (s : State) (b z : Nat) : Option Nat :=
  let t := bindSplitT s b
  t.slots.findIdx? (fun e => decide (slotNbr t (bindCoord s b) e = z))
/-- Ports of a slot of a binding. -/
def slotPorts (s : State) (b k : Nat) : List Nat :=
  match (bindSplitT s b).slots[k]? with
  | some e => (List.range 16).filter (fun p => bitOf e.ports p)
  | none => []
/-- The valid binding and slot a port belongs to. -/
def portBind (s : State) (p : Nat) : Option (Nat × Nat) :=
  (List.range 4).findSome? (fun b =>
    if bindValid s b then
      ((bindSplitT s b).slots.findIdx? (fun e => bitOf e.ports p)).map (fun k => (b, k))
    else none)

def portRec (s : State) (p : Nat) : Port := Map.get {} s.vnl.ports p
def modPort (p : Nat) (f : Port → Port) (s : State) : State :=
  modVnl (fun v => { v with ports := Map.upd {} v.ports p f }) s
def portUp (s : State) (p : Nat) : Bool := decide ((portRec s p).st = .opened)
def openPorts (s : State) (b k : Nat) : List Nat := (slotPorts s b k).filter (portUp s)

/-! ## Draw tree (R350) -/

/-- The root: the present member with the lowest coordinate. -/
def drawRoot (s : State) (b : Nat) : Nat := ((presentOf (bindRec s b).members).head?).getD 0
/-- The parent of a member: its next hop toward the root by R290. -/
def drawParent (s : State) (b x : Nat) : Option Nat :=
  if x = drawRoot s b then none
  else (hopBit (bindSplitT s b) (memberAt (bindRec s b).members) x (drawRoot s b)).map (fun k => x ^^^ k)
def drawChildren (s : State) (b : Nat) : List Nat :=
  (presentOf (bindRec s b).members).filter (fun z => decide (drawParent s b z = some (bindCoord s b)))
/-- The largest number of hops from any present member to the root. -/
def drawDepth (s : State) (b : Nat) : Nat :=
  (presentOf (bindRec s b).members).foldl (fun a z =>
    max a ((routeLen (bindSplitT s b) (memberAt (bindRec s b).members) 64 z (drawRoot s b)).getD 0)) 0

/-! ## Keys (R274, R553) -/

/-- A label of ASCII characters as bytes. -/
def ascii (l : List Nat) : List Byte := l.map (BitVec.ofNat 8)
/-- "JKS-VINE", "JKS-KID" (Table 15.5). -/
def lblVine : List Byte := ascii [0x4A, 0x4B, 0x53, 0x2D, 0x56, 0x49, 0x4E, 0x45]
def lblKid : List Byte := ascii [0x4A, 0x4B, 0x53, 0x2D, 0x4B, 0x49, 0x44]
/-- The parcel key a binding holds, by number. -/
def bindKey (s : State) (b : Nat) : Option Nat := Map.find s.sec.parcelKeys b
/-- The key identifier of a binding (Table 15.5): the first 8 bytes of its derivation. -/
def keyId (s : State) (b : Nat) : Option Nat :=
  (bindKey s b).map (fun k => (Config.kdf k (lblKid ++ leB 2 (bindParcel s b))).toNat % 2 ^ 64)

def portCircuit (s : State) (p : Nat) : Nat := (cset s .vnlPort p 1).toNat
/-- A direction key of an admission (Table 15.5), as a number. -/
def vineKey (pk epoch sm sp rm rp sc rc circuit : Nat) : Nat :=
  (Config.kdf pk (lblVine ++ leB 4 epoch ++ leB 3 sm ++ leB 1 sp ++ leB 3 rm ++ leB 1 rp ++ leB 16 sc ++ leB 16 rc
    ++ leB 4 circuit)).toNat
/-- The key this port sends with at an epoch. -/
def txKey (s : State) (p epoch : Nat) : Nat :=
  let x := portRec s p
  match x.adm with
  | some (pk, own, peer) => vineKey pk epoch s.moduleId p x.peer x.peerPort own peer (portCircuit s p)
  | none => 0
/-- The key this port receives with at an epoch. -/
def rxKey (s : State) (p epoch : Nat) : Nat :=
  let x := portRec s p
  match x.adm with
  | some (pk, own, peer) => vineKey pk epoch x.peer x.peerPort s.moduleId p peer own (portCircuit s p)
  | none => 0

/-! ## Envelopes (R268, R270, R271) -/

/-- Header bytes 0 to 7 of an envelope (Table 07.1). -/
def envHead (typ cls epoch : Nat) (som eom : Bool) (dest seq ack : Nat) (nak ackValid : Bool) : List Byte :=
  leB 1 (typ + cls * 16 + epoch % 2 * 64) ++ leB 1 (b2n som + b2n eom * 2) ++ leB 2 dest ++ leB 2 (seq % 4096)
    ++ leB 2 (ack % 4096 + b2n nak * 0x1000 + b2n ackValid * 0x2000)
/-- Completes an envelope with its credits word and CRC. -/
def envClose (b : List Byte) (credits : Nat) : List Byte :=
  let x := b ++ leB 4 credits
  x ++ leB 4 (crc32c x).toNat

/-- The IV number of a flit (R274): module ID, port, counter. -/
def flitIv (m p ctr : Nat) : Nat := m * 2 ^ 76 + p * 2 ^ 72 + ctr % 2 ^ 64

/-- Sends an IDLE envelope: acknowledgement or NAK, credits freed, heartbeat. -/
def sendIdle (p ack : Nat) (nak ackValid : Bool) (credits cls : Nat) (hb : Bool) (s : State) : State :=
  emit (.flit p (envClose (envHead 0 0 0 false false 0 0 ack nak ackValid ++ zeros 272)
    (credits + cls * 0x4000 + b2n hb * 0x10000))) s
/-- The acknowledgement of everything accepted so far: (sequence, meaningful). -/
def ackOf (x : Port) : Nat × Bool := ((x.rxCtr + 4095) % 4096, decide (x.rxCtr ≠ 0))

/-- Seals one DATA (1) or CTRL (2) flit: a counter value and a place in the retry buffer; with its envelope. -/
def sealFlit (p typ cls dest : Nat) (som eom : Bool) (payload : List Byte) (dv : Bool) (s : State) : List Byte × State :=
  let x := portRec s p
  let a := ackOf x
  let hd := envHead typ cls (x.txCtr / 2 ^ 32) som eom dest x.txCtr a.1 false a.2
  let env := envClose (hd ++ gcm (txKey s p (x.txCtr / 2 ^ 32)) (flitIv s.moduleId p x.txCtr) hd
    (payload ++ zeros (256 - payload.length))) 0
  (env, modPort p (fun x => { x with
    txCtr := x.txCtr + 1, retry := x.retry ++ [{ ctr := x.txCtr, bytes := env, cls := cls, div := dv }] }) s)

/-- Sends one flit on an OPEN port: it takes a credit. -/
def sendFlit (p typ cls dest : Nat) (som eom : Bool) (payload : List Byte) (s : State) : State :=
  let r := sealFlit p typ cls dest som eom payload false s
  emit (.flit p r.1) (modPort p (fun x => { x with credits := x.credits.modify cls (· - 1) }) r.2)

/-- Pieces of n bytes. -/
def chunksOf (n : Nat) : Nat → List Byte → List (List Byte)
  | 0, _ => []
  | fuel + 1, bs => if bs.length ≤ n then [bs] else bs.take n :: chunksOf n fuel (bs.drop n)
def chunks256 (bs : List Byte) : List (List Byte) := chunksOf 256 (bs.length / 256 + 1) bs

/-- Credits of a class that a governor level keeps back: all of background from level 1, half of bulk at level 3
(Table 13.3). -/
def classHold (s : State) (cls : Nat) : Nat :=
  if cls = 3 ∧ 1 ≤ s.pwr.level then 2 ^ 16 else if cls = 2 ∧ s.pwr.level = 3 then 192 else 0
/-- Flits waiting in the transmit queue of a port, of every class or of one. -/
def flitsQueued (s : State) (p : Nat) (cls : Option Nat) : Nat :=
  ((s.vnl.queue.filter (fun m => decide (m.port = some p) && (cls.isNone || decide (cls = some m.cls)))).map
    (fun m => (chunks256 m.bytes).length)).sum
/-- The OPEN port of a slot that takes a message of n flits: the fewest flits queued, ties to the lower number (R278), with room
in its transmit queue of 256 flits of the class (R647). -/
def pickPort (s : State) (b k cls n : Nat) : Option Nat :=
  if memb 7 s.boot.drained then none
  else ((openPorts s b k).filter (fun p => decide (flitsQueued s p (some cls) + n ≤ 256))).foldl (fun a p =>
    match a with
    | none => some p
    | some q => if flitsQueued s p none < flitsQueued s q none then some p else some q) none
/-- A port sends a message of n flits now: credits of its class, retry room for all of it (R271, R277), and no message of the class
before it. -/
def portTakes (s : State) (p cls n : Nat) : Bool :=
  decide (n + classHold s cls ≤ (portRec s p).credits.getD cls 0) && decide ((portRec s p).retry.length + n ≤ 2048)
    && decide (flitsQueued s p (some cls) = 0)

/-! ## Diversion (R301) -/

def countDivert (p n : Nat) (s : State) : State :=
  modPort p (fun x => { x with err := { x.err with divert := satAdd 32 x.err.divert n } }) s
/-- Hands an envelope of a slot to the owner for the service port. -/
def handOver (b k : Nat) (env : List Byte) (s : State) : State :=
  modVnl (fun v => { v with diverts := v.diverts ++ [(b * 16 + k, env)] }) s

/-- A waiting message of a slot joins the queue. -/
def queueMsg (m : VMsg) (s : State) : State := modVnl (fun v => { v with queue := v.queue ++ [m] }) s
/-- A control message for a slot with no OPEN port is sealed on a port in RETRAIN, where it is sent over the link later: it takes a
credit for each flit and room in the retry buffer (R271, R277), in order behind the others. -/
def sealMsg (p : Nat) (m : VMsg) (s : State) : State :=
  let fl := chunks256 m.bytes
  if fl.length ≤ (portRec s p).credits.getD 0 0 ∧ (portRec s p).retry.length + fl.length ≤ 2048
      ∧ ¬ s.vnl.queue.any (fun q => decide (q.bind = m.bind) && decide (q.slot = m.slot) && decide (q.cls = 0)) then
    forS fl.zipIdx (fun f s => modPort p (fun x => { x with credits := x.credits.modify 0 (· - 1) })
      (sealFlit p 2 0 m.dest (decide (f.2 = 0)) (decide (f.2 + 1 = fl.length)) f.1 false s).2) s
  else queueMsg { m with port := none } s
/-- Control-class traffic of a slot with no OPEN port: its unacknowledged control flits, then its waiting control messages
sealed on its lowest port in RETRAIN, up to 64 flits, go to the owner. -/
def divertSlot (b k : Nat) (s : State) : State :=
  if (openPorts s b k).isEmpty then
    match (slotPorts s b k).filter (fun p => decide ((portRec s p).st = .retrain) && (portRec s p).keys) with
    | [] => s
    | p :: ps =>
      let mine := fun (m : VMsg) => decide (m.bind = b) && decide (m.slot = k) && decide (m.cls = 0)
      let s1 := forS (s.vnl.queue.filter mine) (sealMsg p) (modVnl (fun v => { v with queue := v.queue.filter (fun m => !mine m) }) s)
      forS (p :: ps) (fun q s =>
        let room := 64 - (s.vnl.diverts.filter (fun d => decide (d.1 = b * 16 + k))).length
        let fl := ((portRec s q).retry.filter (fun f => decide (f.cls = 0) && !f.div)).take room
        forS fl (fun f s => handOver b k f.bytes s)
          (countDivert q fl.length (modPort q (fun x => { x with
            retry := x.retry.map (fun f => if fl.any (fun g => decide (g.ctr = f.ctr)) then { f with div := true } else f) }) s))) s1
  else s
/-- Every slot of a binding whose last OPEN port has left diverts its control traffic. -/
def divertBind (b : Nat) (s : State) : State := forS (List.range 12) (fun k => divertSlot b k) s

/-! ## Messages (R278, R302) -/

/-- The flits of a message leave on a port, one after another. -/
def sendMsg (p : Nat) (m : VMsg) (s : State) : State :=
  let fl := chunks256 m.bytes
  forS fl.zipIdx (fun f s => sendFlit p (if m.cls = 0 then 2 else 1) m.cls m.dest (decide (f.2 = 0)) (decide (f.2 + 1 = fl.length)) f.1 s) s
/-- A message goes to the port that takes it: it leaves at once or stands in that port's transmit queue; with no such port it waits for
the slot (R302). -/
def placeMsg (m : VMsg) (s : State) : State :=
  let n := (chunks256 m.bytes).length
  match pickPort s m.bind m.slot m.cls n with
  | some p => if portTakes s p m.cls n then sendMsg p m s else queueMsg { m with port := some p } s
  | none => queueMsg { m with port := none } s
/-- Sends a message of a class through a slot toward a coordinate. -/
def slotSend (b k cls dest : Nat) (bytes : List Byte) (s : State) : State := placeMsg { bind := b, slot := k, cls := cls, dest := dest, bytes := bytes } s

/-- Sends a message toward a coordinate of a binding's parcel; one to the module itself or to no reachable member goes
nowhere. A control message for a slot with no OPEN port is diverted (R301). -/
def sendTo (b cls dest : Nat) (bytes : List Byte) (s : State) : State :=
  match (nextHop s b dest).bind (slotTo s b) with
  | none => s
  | some k =>
    let s1 := emit (.vine b k cls dest bytes) (slotSend b k cls dest bytes s)
    if cls = 0 then divertSlot b k s1 else s1

/-- A waiting message tries again: on the port in whose transmit queue it stands while that is OPEN, else on any of its slot. -/
def retryMsg (m : VMsg) (s : State) : State :=
  match m.port with
  | some p =>
    if portUp s p then
      if portTakes s p m.cls (chunks256 m.bytes).length ∧ ¬ memb 7 s.boot.drained then sendMsg p m s else queueMsg m s
    else placeMsg m s
  | none => placeMsg m s
/-- Messages that wait leave once they can, control first, then step, bulk and background, in order within a class (R277). -/
def drainQueue (s : State) : State :=
  let q := s.vnl.queue
  forS (List.range 4) (fun c s => forS (q.filter (fun m => decide (m.cls = c))) retryMsg s) (modVnl (fun v => { v with queue := [] }) s)

/-! ## Port states and the gate (R281, R293, R294) -/

/-- Number of a port state (Table 07.2). -/
def portCode : PortSt → Nat
  | .off => 0 | .dark => 1 | .identify => 2 | .equalize => 3 | .align => 4 | .hedged => 5 | .opened => 6 | .retrain => 7
  | .fenced => 8

/-- An event for a state machine of the owner (Table 11.11). -/
def upEvent (tbl inst code : Nat) (tens : List Nat) (subject detail : Nat) (s : State) : State :=
  modCel (fun c => { c with up := c.up ++ [.event tbl inst code tens subject detail] }) s
/-- An event of a port for the link bring-up machine. -/
def portEvt (p code : Nat) (s : State) : State := upEvent 8 p code [] p 0 s

/-- Sends a handshake message in TRAIN flits (R269, Table 07.5): each begins with the code and a fragment number. -/
def sendTrain (p : Nat) (bytes : List Byte) (s : State) : State :=
  let code := bytes.take 1
  let fl := chunksOf 254 (bytes.length / 254 + 1) (bytes.drop 2)
  forS fl.zipIdx (fun f s =>
    let a := ackOf (portRec s p)
    emit (.flit p (envClose (envHead 3 0 0 (decide (f.2 = 0)) (decide (f.2 + 1 = fl.length)) 0 0 a.1 false a.2
      ++ code ++ leB 1 f.2 ++ f.1 ++ zeros (254 - f.1.length) ++ zeros 16) 0)) s) s
/-- Sends a handshake message and keeps it as the latest unanswered one (R296). -/
def hsSend (p : Nat) (bytes : List Byte) (s : State) : State :=
  sendTrain p bytes (modPort p (fun x => { x with shake := { x.shake with latest := bytes } }) s)

/-- A new admission: a new challenge and a HELLO (R296). -/
def hsHelloStart (p : Nat) (s : State) : State :=
  let r := fresh 128 s
  let parcel := match portBind s p with | some (b, _) => bindParcel s b | none => 0
  hsSend p (leB 1 1 ++ zeros 1 ++ leB 2 parcel ++ leB 16 r.1 ++ leB 48 Config.chainDigest.toNat)
    (modPort p (fun x => { x with shake := { active := true, challenge := r.1 } }) r.2)

def lifeCode : Life → Nat
  | .blank => 0 | .provisioned => 1 | .sealed => 2 | .opened => 3 | .retired => 4
/-- The owner's Cave is in its error state (R546). -/
def caveDown (s : State) : Bool := memb s.cel.own s.sec.caveErr

/-- A Cave may set zero_done for a port (R295): its residue tenant is none, FREE, or the binding's own. -/
def zeroDone (s : State) (p : Nat) : Bool :=
  match (portRec s p).residue with
  | none => true
  | some t => decide ((tenRec s t).st = .free) ||
      (match portBind s p with | some (b, _) => decide (bindTen s b = t) | none => false)

/-- Why no token can be issued for a port (R295, R552, R566): the reason of a WAIT. -/
def cannotIssue (s : State) (p : Nat) : Option Nat :=
  if s.sec.life = .opened then some 0x0C
  else
    match portBind s p with
    | none => some 0x07
    | some (b, _) =>
      if ¬ tenActive s (bindTen s b) ∨ bindKey s b = none then some 0x07
      else if zeroDone s p then none else some 0x0C

/-- A token is asked of the Cave, or the peer is told to wait (R296, R297); a Cave in its error state answers nothing
(R546). -/
def askToken (p : Nat) (s : State) : State :=
  if caveDown s ∨ (portRec s p).shake.issued then s
  else
    match cannotIssue s p with
    | some r => hsSend p (leB 1 5 ++ zeros 1 ++ leB 1 r) (modPort p (fun x => { x with shake := { x.shake with waiting := some r } }) s)
    | none => modPort p (fun x => { x with shake := { x.shake with waiting := none, signing := true } }) s

/-- Ports that wait to issue a token try again (Table 07.8). -/
def retryTokens (s : State) : State :=
  forS (List.range (numPorts s)) (fun p s =>
    if (portRec s p).st = .hedged ∧ (portRec s p).shake.waiting.isSome ∧ cannotIssue s p = none then askToken p s else s) s

/-- A port enters HEDGED and begins an admission. -/
def enterHedged (p : Nat) (s : State) : State := hsHelloStart p (portEvt p 1 (modPort p (fun x => { x with st := .hedged }) s))

/-- A port enters DARK. -/
def enterDark (p reason : Nat) (s : State) : State :=
  portEvt p 0 (modPort p (fun x => { x with st := .dark, reason := reason, shake := {}, train := [], trainPart := [] }) s)

/-- Every slot of a binding has an OPEN port (R305). -/
def bindReady (s : State) (b : Nat) : Bool :=
  bindValid s b && (List.range (bindSplitT s b).slots.length).all (fun k => !(openPorts s b k).isEmpty)

/-- Brings the ready mark up to date and posts PARCEL_READY when it becomes set. -/
def updReady (b : Nat) (s : State) : State :=
  let r := bindReady s b
  let was := (bindRec s b).ready
  let s1 := modVnl (fun v => { v with binds := Map.upd {} v.binds b (fun x => { x with ready := r }) }) s
  if r && !was then noteT (bindTen s b) 0x0703 0 (bindRec s b).maxHops s1 else s1

/-- The gate of a port closes (R294): receive buffers discarded, retry buffer zeroized, keys destroyed, the residue tenant
recorded. A port in OPEN returns to HEDGED; one in RETRAIN ends there once retraining completes. -/
def gateShutPort (p reason : Nat) (s : State) : State :=
  match portBind s p with
  | none => modPort p (fun x => { x with keys := false, adm := none, retry := [], part := [], divPart := [] }) s
  | some (b, _) =>
    let x := portRec s p
    if x.keys then
      let s1 := modPort p (fun x => { x with
        keys := false, adm := none, retry := [], part := [], divPart := [], txCtr := 0, rxCtr := 0,
        diverted := [], credits := [0, 0, 0, 0], reason := reason, residue := some (bindTen s b) }) s
      let s2 := noteT (bindTen s b) 0x0701 p reason s1
      let s3 := if x.st = .opened then enterHedged p s2 else s2
      updReady b s3
    else s

/-- The local gate inputs other than the tokens: binding, tenant ACTIVE, membership (Table 07.4). -/
def gateLocal (s : State) (p : Nat) : Bool :=
  match portBind s p with
  | none => false
  | some (b, k) =>
    tenActive s (bindTen s b) &&
    (match (bindSplitT s b).slots[k]? with
      | some e =>
        match (bindRec s b).members[slotNbr (bindSplitT s b) (bindCoord s b) e]? with
        | some (m, pr) => pr && decide (m = (portRec s p).peer)
        | none => false
      | none => false)

/-- The peer token of a port has run out on the module's own time base (R297). -/
def tokenExpired (s : State) (p : Nat) : Bool :=
  let t := (portRec s p).shake.peerTok
  decide (s.tim.s < fieldAt t 16 8) || decide (fieldAt t 16 8 + fieldAt t 24 4 < s.tim.s)

/-- The gate opens when every input holds at both ends (R293): keys, counters at zero, full credits (R274, R277). -/
def tryOpen (p : Nat) (s : State) : State :=
  let x := portRec s p
  if x.st = .hedged ∧ x.shake.issued ∧ x.shake.verified ∧ x.shake.peerOk ∧ gateLocal s p ∧ cannotIssue s p = none then
    match portBind s p with
    | none => s
    | some (b, _) =>
      let s1 := modPort p (fun x => { x with
        st := .opened, reason := 0, keys := true, txCtr := 0, rxCtr := 0,
        retry := [], part := [], divPart := [], diverted := [], credits := [64, 512, 384, 128], shake := {},
        adm := (bindKey s b).map (fun k => (k, x.shake.challenge, ((x.shake.peerHello.map (fun h => h.2.1)).getD 0))) }) s
      drainQueue (updReady b (portEvt p 2 (noteT (bindTen s b) 0x0700 p (bindParcel s b) s1)))
  else s

end Sys2Proof.Machine
end

