-- ==== Sys2Proof/Machine/CoreOps.lean ====
section
/-!
DEFINITION. Machine/CoreOps.lean: context slots, core memories, token counters and credit pools, and the ways work leaves
a core (R158 to R190, R228, R236, R259).
-/
namespace Sys2Proof.Machine

/-! ## Core memories -/

/-- Address in the model's memory of byte `a` of the context resident on core c, in the layout of Table 04.5. -/
def imgKey (c a : Nat) : Nat := 2 ^ 66 + c * 2 ^ 24 + a
/-- Address in the model's memory of a core's stationary bank. -/
def bankKey (c : Nat) : Nat := 2 ^ 66 + c * 2 ^ 24 + 0x800000
/-- Address in the model's memory of a byte of a terrace segment. -/
def terKey (die seg a : Nat) : Nat := 2 ^ 67 + (die * 64 + seg) * 2 ^ 20 + a
/-- Bytes of a context image (Table 04.5). -/
def imgBytes : Nat := 0x411000
def dieOfCore (c : Nat) : Nat := c / 32

def coreRec (s : State) (c : Nat) : Core := Map.get {} s.cor.cores c
def modCore (c : Nat) (f : Core → Core) (s : State) : State :=
  modCor (fun x => { x with cores := Map.upd {} x.cores c f }) s
def slotRec (s : State) (c k : Nat) : CSlot := Map.get {} (coreRec s c).slots k
def modSlot (c k : Nat) (f : CSlot → CSlot) (s : State) : State :=
  modCore c (fun x => { x with slots := Map.upd {} x.slots k f }) s

/-! ## Slots and segments (R169, R172) -/

def slotValid (s : State) (c k : Nat) : Bool := bitW (cset s .corSlot (c * 8 + k) 0) 31
def slotTen (s : State) (c k : Nat) : Nat := fldW (cset s .corSlot (c * 8 + k) 0) 11 0
def slotImg (s : State) (c k : Nat) : Nat := fldW (cset s .corSlot (c * 8 + k) 1) 23 0
/-- The slot a tenant holds on a core. -/
def slotOf (s : State) (c t : Nat) : Option Nat :=
  (List.range 8).find? (fun k => slotValid s c k && decide (slotTen s c k = t))
/-- Committed slots of a tenant as (core, slot), lowest core first. -/
def tenSlots (s : State) (t : Nat) : List (Nat × Nat) :=
  (List.range (numCores s)).filterMap (fun c => (slotOf s c t).map (fun k => (c, k)))
def segTen (s : State) (die seg : Nat) : Option Nat :=
  let w := cset s .corTer (die * 64 + seg) 0
  if bitW w 31 then some (fldW w 11 0) else none
/-- Segments a tenant holds on a die, ascending. -/
def tenSegs (s : State) (die t : Nat) : List Nat := (List.range 64).filter (fun g => decide (segTen s die g = some t))
/-- A core is fenced: by a kept fence, or by its self-test (R185, R613). -/
def coreFenced (s : State) (c : Nat) : Bool := memb c s.boot.fences || decide ((coreRec s c).st = .fenced)
/-- The key of a U-mode address of tenant t on core c (Table 04.2). -/
def uKey (s : State) (c t a : Nat) : Option Nat :=
  if a < bedTop then some (imgKey c a)
  else if terBase ≤ a then
    ((tenSegs s (dieOfCore c) t)[(a - terBase) / 0x100000]?).map (fun g => terKey (dieOfCore c) g ((a - terBase) % 0x100000))
  else none
def uGet (s : State) (c t a : Nat) : Byte := ((uKey s c t a).map (memGet s.mem)).getD 0
def uPut (c t : Nat) (w : Nat × Byte) (s : State) : State :=
  match uKey s c t w.1 with
  | some k => modMem (fun m => memSet m k w.2) s
  | none => s

/-! ## Events of a step's work (R359, R363) -/

/-- Posts an event for the work of a step: held while the step is undrawn; its record carries the step. -/
def noteWork (t : Nat) (step : Option Nat) (code subject detail : Nat) (s : State) : State :=
  match step with
  | some n =>
    if (stepRec s t n).isSome then
      addRec { code := code, tenant := some t, subject := subject, detail := detail, step := n, spec := true, at_ := nowT s }
        (modStp (fun x => { x with holdEv := x.holdEv ++ [⟨t, n, code, subject, detail⟩] }) s)
    else noteT t code subject detail s
  | none => noteT t code subject detail s

/-! ## Tokens and credits (R158 to R165, R236) -/

/-- The step a tenant's work on a slot belongs to: that of its oldest launch there. -/
def slotStep (s : State) (c t : Nat) : Option Nat :=
  match s.cor.launches.find? (fun l => decide (l.tenant = t) && l.parts.any (fun p => decide (p.core = c) && !p.done)) with
  | some l => l.step
  | none => none

/-- The launch that runs on a core's resident slot. -/
def launchAt (s : State) (c : Nat) : Option Launch :=
  s.cor.launches.find? (fun l => l.parts.any (fun p =>
    decide (p.core = c) && decide (p.slot = (coreRec s c).slot) && p.started && !p.done))
/-- Counters of a core advance: as the launch group stood when the launch that runs there started (R263, R265). -/
def cntOn (s : State) (c : Nat) : Bool :=
  match launchAt s c with
  | some l => l.cnt
  | none => bitW (cset s .arr 0 0) 31
/-- A command counter of a core advances, in the set that counts it (R262, R588), while counters advance (R263). -/
def count (c set i n : Nat) (s : State) : State :=
  if cntOn s c ∧ fldW (cset s .dbg 0 0) 1 0 = set then
    modCore c (fun x => { x with counters := Map.upd 0 x.counters i (fun v => (v + n) % 2 ^ 64) }) s
  else s

/-- Adds to a counter (pool = false) or pool of a slot, saturating: a post (R159), or counts that a discard restores
(R179). -/
def addCnt (c k : Nat) (pool : Bool) (i n : Nat) (s : State) : State :=
  let x := slotRec s c k
  let old := if pool then Map.get 0 x.pools i else Map.get 0 x.cnts i
  let v := min (old + n) 65535
  let s1 := modSlot c k (fun x => { x with
    cnts := if pool then x.cnts else Map.set 0 x.cnts i v,
    pools := if pool then Map.set 0 x.pools i v else x.pools }) s
  if 65535 < old + n then
    noteWork (slotTen s c k) (slotStep s c (slotTen s c k)) 0x0400 c (k + i * 256 + b2n pool * 0x10000)
      (count c 2 6 1 (modSlot c k (fun x => { x with overflow := satAdd 16 x.overflow 1 }) s1))
  else s1

/-- A post to a counter or pool of a slot: one that a waiting tile or the hart needed makes the slot runnable (R176), and a
waiting hart may go on at its next access. -/
def postCnt (c k : Nat) (pool : Bool) (i n : Nat) (s : State) : State :=
  modSlot c k (fun x => { x with posted := x.posted || memb (i + if pool then 256 else 0) x.waitSet }) (addCnt c k pool i n s)

/-- The post three bytes spell. -/
def postOf (b : List Byte) (off : Nat) : Post :=
  let x := fieldAt b off 3
  { core := bitsOf x 6 0, pool := bitOf x 7, idx := if bitOf x 7 then bitsOf x 13 8 else bitsOf x 15 8, count := bitsOf x 23 16 }

/-- A post arrives (R158, R159, R165): one that reaches no committed slot of its tenant is dropped and counted against the
posting slot. -/
def landPost (f : FPost) (s : State) : State :=
  let p := f.post
  match (if p.core < numCores s then slotOf s p.core f.tenant else none) with
  | some k => count p.core 2 5 1 (postCnt p.core k p.pool p.idx p.count s)
  | none =>
    match f.src with
    | some (c, k) =>
      noteWork f.tenant f.step 0x0401 c (k + p.idx * 256 + b2n p.pool * 0x10000)
        (count c 2 6 1 (modSlot c k (fun x => { x with badPost := satAdd 16 x.badPost 1 }) s))
    | none => noteWork f.tenant f.step 0x0401 p.core (p.idx * 256 + b2n p.pool * 0x10000) s

/-- A post of tenant t sets out; `src` is the posting core and slot, when a slot posts (R236, Table 04.4). -/
def makePost (t : Nat) (src : Option (Nat × Nat)) (step : Option Nat) (p : Post) (s : State) : State :=
  if p.count = 0 then s
  else
    let s1 := modCor (fun x => { x with flight := x.flight ++ [⟨t, src, step, p⟩] }) s
    match src with
    | some (c, _) => count c 2 4 1 s1
    | none => s1

/-- The counters and pools of every slot of a tenant, as a record (R260). -/
def cntRecord (s : State) (t : Nat) : List CntRec :=
  (tenSlots s t).map (fun ck => { slot := ck.1 * 8 + ck.2, cnts := (slotRec s ck.1 ck.2).cnts, pools := (slotRec s ck.1 ck.2).pools })
/-- Restores a record (R260). -/
def cntRestore (r : List CntRec) (s : State) : State :=
  forS r (fun e s => modSlot (e.slot / 8) (e.slot % 8) (fun x => { x with cnts := e.cnts, pools := e.pools }) s) s

/-! ## Launches on cores -/

def launchRec (s : State) (tag : Nat) : Option Launch := s.cor.launches.find? (fun l => decide (l.tag = tag))
def modLaunch (tag : Nat) (f : Launch → Launch) (s : State) : State :=
  modCor (fun x => { x with launches := x.launches.map (fun l => if l.tag = tag then f l else l) }) s
def modPart (tag c : Nat) (f : LPart → LPart) (s : State) : State :=
  modLaunch tag (fun l => { l with parts := l.parts.map (fun p => if p.core = c then f p else p) }) s
/-- The incomplete launch whose part runs on a core's slot: started there and not ended. -/
def runningOn (s : State) (c k : Nat) : Option (Launch × LPart) :=
  s.cor.launches.findSome? (fun l => (l.parts.find? (fun p => decide (p.core = c) && decide (p.slot = k) && p.started && !p.done)).map
    (fun p => (l, p)))
/-- A slot has an incomplete launch with plots on the core. -/
def slotBusy (s : State) (c k : Nat) : Bool :=
  s.cor.launches.any (fun l => l.parts.any (fun p => decide (p.core = c) && decide (p.slot = k) && !p.done))
/-- A slot is runnable (R176). -/
def runnable (s : State) (c k : Nat) : Bool :=
  let x := slotRec s c k
  s.cor.launches.any (fun l => l.parts.any (fun p => decide (p.core = c) && decide (p.slot = k) && !p.done && !p.ran))
    || (slotBusy s c k && (x.readyOut || x.posted))
/-- A tile's waits are all present in its slot (R160). -/
def tileReady (x : CSlot) (q : QTile) : Bool :=
  (List.range 4).all (fun i => decide (fieldAt q.hdr (2 * i + 1) 1 ≤ Map.get 0 x.cnts (fieldAt q.hdr (2 * i) 1)))
  && decide (fieldAt q.hdr 8 2 / 64 ≤ Map.get 0 x.pools (fieldAt q.hdr 8 2 % 64))
/-- Subtracts what a firing takes (R162). -/
def takeTokens (q : QTile) (x : CSlot) : CSlot :=
  let x1 := (List.range 4).foldl (fun (x : CSlot) i =>
    { x with cnts := Map.set 0 x.cnts (fieldAt q.hdr (2 * i) 1) (Map.get 0 x.cnts (fieldAt q.hdr (2 * i) 1) - fieldAt q.hdr (2 * i + 1) 1) }) x
  { x1 with pools := Map.set 0 x1.pools (fieldAt q.hdr 8 2 % 64) (Map.get 0 x1.pools (fieldAt q.hdr 8 2 % 64) - fieldAt q.hdr 8 2 / 64) }

/-- The counters of a set that count cycles (Tables 06.19 and 16.4). -/
def cycleCtrs (set : Nat) : List Nat :=
  if set = 0 then [27, 28, 29, 30, 31, 32, 36] else if set = 1 then [0, 1, 2, 3, 9, 10, 11, 13] else [0, 1, 2, 3, 8, 9]

/-- A tally record without its sequence numbers (Table 16.5): from byte 8 to byte 567. The cycle counts are free values: the
model keeps no cycles (log 65). -/
def tallyBody (t c : Nat) (err : Bool) (l : Launch) (p : LPart) (s : State) : List Byte × State :=
  let set := fldW (cset s .dbg 0 0) 1 0
  let cyc := cycleCtrs set
  let r := (List.range 64).foldl (fun (a : List Byte × State) i =>
    if memb i cyc && l.cnt then
      let f := fresh 64 a.2
      (a.1 ++ leB 8 f.1, f.2)
    else (a.1 ++ leB 8 (Map.get 0 p.tally i), a.2)) ([], s)
  let f := fresh 64 r.2
  (leB 2 t ++ leB 1 c ++ leB 1 set ++ leB 4 (b2n (!l.cnt) + 2 * b2n err) ++ leB 8 l.cookie
    ++ leB 8 (p.startT.s % 2 ^ 32 * 2 ^ 32 + p.startT.ns) ++ leB 8 (s.tim.s % 2 ^ 32 * 2 ^ 32 + s.tim.ns) ++ leB 8 f.1 ++ zeros 8 ++ r.1,
    f.2)

/-- Writes a tally record to the tenant's ring in host memory (R589). -/
def writeTally (t : Nat) (body : List Byte) (s : State) : State :=
  if bitW (cset s .dbgTen t 4) 31 then
    let c := (Map.get {} s.dbg.tally t).count + 1
    let a := (cset s .dbgTen t 3).toNat * 2 ^ 32 + (cset s .dbgTen t 2).toNat + c % 2 ^ fldW (cset s .dbgTen t 4) 4 0 * 576
    let s1 := modDbg (fun d => { d with tally := Map.upd {} d.tally t (fun x => { x with count := c }) }) s
    if hostOk s (tenFn s t) a && hostOk s (tenFn s t) (a + 575) then
      emit (.hostWrite (tenFn s t) (tenPasid s t) a (leB 8 c ++ body ++ leB 8 c)) s1
    else s1
  else s
/-- Holds the tally of work of an undrawn step, at 576 bytes, or writes it (R590). -/
def postTally (t : Nat) (step : Option Nat) (body : List Byte) (s : State) : State :=
  match step with
  | some n =>
    if (stepRec s t n).isSome then
      modDbg (fun d => { d with tally := Map.upd {} d.tally t (fun x => { x with held := x.held ++ [(n, body)] }) }) s
    else writeTally t body s
  | none => writeTally t body s
/-- The tallies of a drawn step are written. -/
def releaseTallies (t n : Nat) (s : State) : State :=
  let h := (Map.get {} s.dbg.tally t).held
  forS (h.filter (fun x => decide (x.1 = n))) (fun x => writeTally t x.2)
    (modDbg (fun d => { d with tally := Map.upd {} d.tally t (fun x => { x with held := x.held.filter (fun y => decide (y.1 ≠ n)) }) }) s)
/-- The tallies of discarded steps go. -/
def dropTallies (t n : Nat) (s : State) : State :=
  modDbg (fun d => { d with tally := Map.upd {} d.tally t (fun x => { x with held := x.held.filter (fun y => decide (y.1 < n)) }) }) s

/-- Adds the counters since the last latch to a part's tally (R263). -/
def latchPart (tag c : Nat) (s : State) : State :=
  let x := coreRec s c
  modCore c (fun x => { x with latches := x.counters })
    (modPart tag c (fun p => { p with tally := (List.range 64).foldl (fun m i =>
      Map.upd 0 m i (fun v => (v + Map.get 0 x.counters i + 2 ^ 64 - Map.get 0 x.latches i) % 2 ^ 64)) p.tally }) s)
/-- The tally of a part that ends, posted where the slot is resident or not (R263, R589). -/
def tallyPart (err : Bool) (tag c : Nat) (s : State) : State :=
  let s0 := match launchRec s tag with
    | some l =>
      match l.parts.find? (fun p => decide (p.core = c)) with
      | some p => if (coreRec s c).slot = p.slot then latchPart tag c s else s
      | none => s
    | none => s
  match launchRec s0 tag with
  | some l =>
    match l.parts.find? (fun p => decide (p.core = c)) with
    | some p =>
      let r := tallyBody l.tenant c err l p s0
      postTally l.tenant l.step r.1 r.2
    | none => s0
  | none => s0

/-- A slot whose context has no saved image: its hart and its U-mode CSRs as an image that reads zero leaves them, the tile
interface's staged header with them (R183, R234). -/
def CSlot.blank (x : CSlot) : CSlot :=
  { x with queue := [], hart := .off, flags := 0, hdr := zeros 16, waitN := 1, vtype := 2 ^ 63, vl := 0, fcsr := 0, instret := 0,
           image := false, readyOut := false, posted := false }

/-- Removes a launch's tiles and stops its hart on one core, the tiles in flight discarded without a wait; an image that
holds the launch's context, or that a swap is moving, is invalidated (R189, R191, R259). -/
def stopPart (tag : Nat) (p : LPart) (s : State) : State :=
  let x := coreRec s p.core
  let mine := s.cor.launches.any (fun l => decide (l.tag = tag)) && p.started && !p.done
  let moving := decide (x.st = .swapping) && (decide (x.slot = p.slot) || decide (x.next = p.slot)) && !p.done
  modPln (fun x => { x with waits := x.waits.filter (fun w => decide (w.who ≠ 2 ^ 20 + p.core) ||
      !((slotRec s p.core p.slot).queue.any (fun q => decide (q.launch = tag) && q.fired))) })
    (modSlot p.core p.slot (fun y => { y with
      queue := y.queue.filter (fun q => decide (q.launch ≠ tag)),
      hart := if mine then .off else y.hart,
      image := if (mine ∧ x.slot ≠ p.slot) ∨ moving then false else y.image,
      dead := y.dead || (moving && decide (x.slot = p.slot)),
      readyOut := if mine then false else y.readyOut,
      posted := if mine then false else y.posted }) s)

/-- Removes a launch from every core. -/
def dropLaunch (tag : Nat) (s : State) : State :=
  match launchRec s tag with
  | none => s
  | some l =>
    modCor (fun x => { x with launches := x.launches.filter (fun m => decide (m.tag ≠ tag)) }) (forS l.parts (stopPart tag) s)

/-- Pre-empting ends once no tile of the slot is in flight (R179, R259). -/
def settlePreempt (c : Nat) (s : State) : State :=
  let x := coreRec s c
  if x.st = .preempting ∧ ¬ (slotRec s c x.slot).queue.any QTile.fired then
    let w := min 200 (nsSince s x.preAt / 1000)
    modCor (fun y => { y with preemptMax := Map.upd 0 y.preemptMax c (max w) }) (modCore c (fun y => { y with st := .swapping }) s)
  else s

/-- A core with no incomplete launch on its resident slot is idle; one that pre-empts a slot with no tile in flight goes on
to its swap. -/
def settleCore (c : Nat) (s : State) : State :=
  settlePreempt c (modCore c (fun x => { x with st := if x.st = .running ∧ ¬ slotBusy s c x.slot then .idle else x.st }) s)
def settleCores (s : State) : State := forS (List.range (numCores s)) settleCore s

/-- The resident context of a core is zeroized: bed, accumulator files, vector and hart state, tile queue (R190). -/
def zeroContext (c : Nat) (s : State) : State :=
  modSlot c (coreRec s c).slot CSlot.blank (modMem (fun m => memZero m (imgKey c 0) imgBytes) s)

/-- A core's stationary bank becomes zero. -/
def zeroBank (c : Nat) (s : State) : State := modMem (fun m => memZero m (bankKey c) 0x2000) s

/-- A terrace segment becomes zero and counts as zeroizing (R170). -/
def zeroSegment (die seg : Nat) (s : State) : State :=
  modCor (fun x => { x with terZero := addOnce (die * 64 + seg) x.terZero }) (modMem (fun m => memZero m (terKey die seg 0) 0x100000) s)

/-- Every byte of a handle becomes zero, its marks and poison with it (R466). -/
def zeroHandle (h : Nat) (s : State) : State :=
  forS (List.range (pagesOf (hndSize s h))) (fun p s => modPage h p (fun x => { x with poison := [] }) s)
    (modMem (fun m => memZero m (hKey h 0) (hndSize s h)) s)

/-- A slot's release: its image handle returns to the tenant with its pages zero (R174). -/
def releaseSlot (c k : Nat) (s : State) : State :=
  let s1 := if slotValid s c k then modHnd (slotImg s c k) (fun x => { x with reserved := false }) (zeroHandle (slotImg s c k) s) else s
  let s2 := if (coreRec s c).slot = k then zeroContext c s1 else s1
  modSlot c k (fun _ => {}) (csetReset .corSlot (c * 8 + k) s2)

/-- Bytes of one entry of the tile queue area: header, line index, re-fire mark (R235; the order is the model's: log 151). -/
def entryBytes (q : QTile) : List Byte := (q.hdr ++ zeros 16).take 16 ++ leB 2 q.line ++ leB 1 (b2n q.refire) ++ leB 1 1
/-- The U-mode CSR area and the tile queue area of a slot's image (Table 04.5, R234; the places within them are the model's:
log 151). -/
def savedArea (cycles : Nat) (x : CSlot) : List Byte :=
  (leB 8 x.vtype ++ leB 8 x.vl ++ leB 8 x.fcsr ++ leB 8 cycles ++ leB 8 x.instret ++ (x.hdr ++ zeros 16).take 16 ++ leB 2 x.waitN
    ++ zeros 198) ++ ((x.queue.take 64).flatMap entryBytes ++ zeros 1280).take 1280
/-- The outgoing image of a swap goes to its handle, while the slot still holds it; its line accesses are counted (R118,
R182). -/
def saveImage (c k : Nat) (s : State) : State :=
  if slotValid s c k ∧ (hndRec s (slotImg s c k)).map Hnd.tenant = some (slotTen s c k) then
    let x := slotRec s c k
    countAccess (dieOfCore c) (slotImg s c k) 0 imgBytes
      (modSlot c k (fun x => { x with image := !x.dead, dead := false })
        (modMem (fun m => memCopy (memWrite m (imgKey c 0x410A00)
          (savedArea (Config.coreCycles c 64 s.tim.s s.tim.ns).toNat x)) (imgKey c 0) (hKey (slotImg s c k) 0) imgBytes) s))
  else modSlot c k (fun x => { x with dead := false }) s
/-- The incoming image of a swap, zeros where none was saved (R102, R183). -/
def loadImage (c k : Nat) (s : State) : State :=
  if (slotRec s c k).image then
    countAccess (dieOfCore c) (slotImg s c k) 0 imgBytes (modMem (fun m => memCopy m (hKey (slotImg s c k) 0) (imgKey c 0) imgBytes) s)
  else modSlot c k CSlot.blank (modMem (fun m => memZero m (imgKey c 0) imgBytes) s)
/-- The swap of R182 and R183: no byte of the outgoing context survives in the core, its stationary bank included. -/
def swapContext (c old new : Nat) (s : State) : State :=
  modCore c (fun x => { x with slot := new, empty := false, swaps := satAdd 32 x.swaps 1 })
    (zeroBank c (loadImage c new (if (coreRec s c).empty then s else saveImage c old s)))
/-- A core's resident context is swapped out and none comes in (R182, R473): the core holds none until its next swap. -/
def swapOut (c : Nat) (s : State) : State :=
  let x := coreRec s c
  if slotValid s c x.slot ∧ x.st ≠ .fenced ∧ x.st ≠ .absent ∧ ¬ x.empty then
    let s1 := saveImage c x.slot s
    modCore c (fun y => { y with empty := true, swaps := satAdd 32 y.swaps 1 }) (zeroBank c (modMem (fun m => memZero m (imgKey c 0) imgBytes) s1))
  else s

/-- The tiles in flight of a slot are discarded: the counts and credits that firing subtracted return, and each is marked for
re-fire in its place (R179, R188). -/
def dropFlight (c k : Nat) (s : State) : State :=
  let s1 := forS ((slotRec s c k).queue.filter (fun q => q.fired)) (fun q s =>
    let s2 := forS (List.range 4) (fun i s => if fieldAt q.hdr (2 * i + 1) 1 = 0 then s else
      addCnt c k false (fieldAt q.hdr (2 * i) 1) (fieldAt q.hdr (2 * i + 1) 1) s) s
    if fieldAt q.hdr 8 2 / 64 = 0 then s2 else addCnt c k true (fieldAt q.hdr 8 2 % 64) (fieldAt q.hdr 8 2 / 64) s2) s
  modPln (fun x => { x with waits := x.waits.filter (fun w => decide (w.who ≠ 2 ^ 20 + c)) })
    (modSlot c k (fun x => { x with queue := x.queue.map (fun q =>
      if q.fired then { q with fired := false, refire := true, wrote := false } else q) }) s1)
/-- Tiles discarded at pre-emption are counted (R184, R262). -/
def discardFlight (c k : Nat) (s : State) : State :=
  let n := ((slotRec s c k).queue.filter (fun q => q.fired)).length
  count c 0 25 n (modCore c (fun x => { x with discards := satAdd 32 x.discards n }) (dropFlight c k s))

end Sys2Proof.Machine
end

