-- ==== Sys2Proof/Machine/RackOps.lean ====
section
/-!
DEFINITION. Machine/RackOps.lean: racked content and keys, the effect of a RACK_TAKE, the copy pass and the drains, and the
step graft a draw starts (R380 to R405).
-/
namespace Sys2Proof.Machine

/-! ## Keys, replica groups, content (R380 to R386) -/

/-- The key and stride of a handle as of drawn step n: those before the earliest RACK_KEY of a later undrawn step. -/
def keyAt (x : Hnd) (n : Nat) : Nat × Nat :=
  match x.oldKeys.find? (fun o => decide (n < o.1)) with
  | some o => (o.2.1, o.2.2)
  | none => (x.key, x.stride)

/-- The rackable handles of a tenant in the state as of step n: not created later, not freed at or before it. -/
def rackables (s : State) (t n : Nat) : List (Nat × Hnd) :=
  (tenHnds s t).filter (fun e => !e.2.noRack && !e.2.reserved
    && (match e.2.createdIn with | some m => decide (m ≤ n) | none => true)
    && (!e.2.gone || (match e.2.freedIn with | some m => decide (n < m) | none => false)))

/-- Coordinates of a replica group, rank by rank (R383). -/
def replicaAt (x : Hnd) (stride coord j : Nat) : Int := (coord : Int) + ((j : Int) - (x.repRank : Int)) * (stride : Int)
def groupOut (x : Hnd) (stride coord entries : Nat) : Bool :=
  x.replicated && (List.range x.repCount).any (fun j =>
    decide (replicaAt x stride coord j < 0) || decide ((entries : Int) ≤ replicaAt x stride coord j))
/-- This module writes page p of the handle into its rack (R383, R390). -/
def ownsPage (x : Hnd) (p : Nat) : Bool := !x.replicated || decide (p % (max x.repCount 1) = x.repRank)
def rackedPages (x : Hnd) : List Nat := (List.range (pagesOf x.size)).filter (ownsPage x)
/-- Bytes a handle adds to R: 2 MiB a page, 1 MiB when narrowed (R391). -/
def rackBytes (x : Hnd) (narrow : Bool) : Nat := (rackedPages x).length * (if narrow then 0x100000 else 0x200000)

/-- The content of a block as of step n (R386). -/
def rackContent (s : State) (n h p b : Nat) : List Byte :=
  let pres := s.stp.lees.filter (fun x => decide (n < x.step) && decide (x.hnd = h) && decide (x.page = p) && decide (x.block = b))
  match pres.foldl (fun (a : Option PreImg) x =>
      match a with
      | some y => if x.step < y.step then some x else a
      | none => some x) none with
  | some x => x.bytes
  | none => hRead s h (p * 0x200000 + b * 4096) 4096

/-- Blocks of a handle's page that lie within its size. -/
def blocksOf (size p : Nat) : List Nat :=
  (List.range 512).filter (fun b => decide (p * 0x200000 + b * 4096 < size))

/-- Narrows the FP32 words of a block to BF16 with RNE (R392). -/
def narrowBytes : Nat → List Byte → List Byte
  | 0, _ => []
  | k + 1, bs => if bs.length < 4 then [] else (convertElem .fp32 .bf16 .rne (bs.take 4)).1 ++ narrowBytes k (bs.drop 4)
/-- Widens BF16 values exactly back to FP32 (R392). -/
def widenBytes : Nat → List Byte → List Byte
  | 0, _ => []
  | k + 1, bs => if bs.length < 2 then [] else zeros 2 ++ bs.take 2 ++ widenBytes k (bs.drop 2)
/-- Blocks a page of a handle holds in its rack: those within its size, or half as many when narrowed (R468). -/
def packedBlocks (narrow : Bool) (size p : Nat) : List Nat :=
  if narrow then (List.range 256).filter (fun j => decide (p * 0x200000 + j * 8192 < size)) else blocksOf size p
/-- The bytes of such a block, from the content of the page's blocks. -/
def packBlock (narrow : Bool) (get : Nat → List Byte) (j : Nat) : List Byte :=
  if narrow then narrowBytes 2048 (get (2 * j) ++ get (2 * j + 1)) else get j
/-- Where such a block goes in its handle, and its bytes there. -/
def unpackBlock (narrow : Bool) (p j : Nat) (bs : List Byte) : Nat × List Byte :=
  if narrow then (p * 0x200000 + j * 8192, widenBytes 2048 bs) else (p * 0x200000 + j * 4096, bs)

/-- The content of a rack's block: the copy made before a later write (R389), else R386's. -/
def jobContent (s : State) (j : RackJob) (key h p b : Nat) : List Byte :=
  match j.blks.find? (fun x => decide (x.key = key) && decide (x.page = p) && decide (x.block = b)) with
  | some x => x.bytes
  | none => rackContent s j.step h p b
/-- The hash of a handle over its racked content (R398). -/
def handleHash (s : State) (j : RackJob) (key h size : Nat) : Nat :=
  (Config.sha384 ((List.range (pagesOf size)).flatMap (fun p =>
    leB 48 (Config.sha384 (((List.range 512).flatMap (jobContent s j key h p)).take (size - p * 0x200000))).toNat))).toNat

/-! ## Completion of a rack -/

/-- Number standing for trigger k as the maker of a rack (R532). -/
def trigTag (k : Nat) : Nat := 2 ^ 20 + k
/-- A rack ends: its descriptor completes, or its trigger posts TRIGGER_RACK; the descriptor of a rack that outlived a host
link loss has been completed already (R97, Table 10.13). -/
def noTag : Nat := 2 ^ 21
/-- The end of a rack, told to its maker. -/
def rackEnd (tag t n status detail result : Nat) (s : State) : State :=
  if tag < 2 ^ 20 then finish tag status detail result s
  else if tag < 2 ^ 20 + 64 then noteT t 0x0E03 (tag - 2 ^ 20) (status + n * 0x10000) s
  else s

def setSlot (k : Nat) (f : Slot → Slot) (s : State) : State :=
  modRck (fun r => if k = 0 then { r with slot0 := f r.slot0 } else { r with slot1 := f r.slot1 }) s
def slotAt (s : State) (k : Nat) : Slot := if k = 0 then s.rck.slot0 else s.rck.slot1
def tenRack (s : State) (t : Nat) : TenRack := Map.get {} s.rck.tens t
def modTenRack (t : Nat) (f : TenRack → TenRack) (s : State) : State :=
  modRck (fun r => { r with tens := Map.upd {} r.tens t f }) s

/-- The slot a rack fills (R393). -/
def pickSlot (s : State) (t : Nat) : Option Nat :=
  match [0, 1].find? (fun k => decide ((slotAt s k).st = 0)) with
  | some k => some k
  | none =>
    match [0, 1].find? (fun k => decide ((slotAt s k).st = 2) && decide ((slotAt s k).tenant = t)) with
    | some k =>
      -- of two slots of the tenant, the older
      if (slotAt s (1 - k)).st = 2 ∧ (slotAt s (1 - k)).tenant = t ∧ (slotAt s (1 - k)).seq < (slotAt s k).seq then some (1 - k)
      else some k
    | none => [0, 1].find? (fun k => decide ((slotAt s k).st = 2) && !tenActive s (slotAt s k).tenant)

def gib : Nat := 2 ^ 30
/-- The first limit of R391 that R bytes exceed. -/
def rackLimit (s : State) (t r : Nat) (graft : Bool) : Option Nat :=
  if (rsvReg s 1) * gib < r then some 1
  else if (rsvReg s 4) * gib < 2 * r then some 2
  else if graft ∧ (tenRack s t).offer < r then some 3
  else none
def totalBytes (hs : List (Nat × Hnd)) (nar : List Nat) : Nat :=
  (hs.map (fun e => rackBytes e.2 (memb e.1 nar))).sum
/-- The next handle to narrow: the largest, ties to the lower key. -/
def nextNarrow (n : Nat) (hs : List (Nat × Hnd)) (nar : List Nat) : Option Nat :=
  ((hs.filter (fun e => e.2.narrowable && decide (e.2.size % 4 = 0) && !memb e.1 nar)).foldl (fun (a : Option (Nat × Hnd)) e =>
    match a with
    | none => some e
    | some x => if x.2.size < e.2.size ∨ (x.2.size = e.2.size ∧ (keyAt e.2 n).1 < (keyAt x.2 n).1) then some e else a) none).map Prod.fst
/-- The handles narrowed so that the rack fits, or the limit that still fails (R391). -/
def narrowFit (s : State) (t n : Nat) (graft : Bool) (hs : List (Nat × Hnd)) : Nat → List Nat → Nat ⊕ List Nat
  | 0, nar =>
    match rackLimit s t (totalBytes hs nar) graft with
    | none => .inr nar
    | some k => .inl k
  | fuel + 1, nar =>
    match rackLimit s t (totalBytes hs nar) graft with
    | none => .inr nar
    | some k =>
      match nextNarrow n hs nar with
      | some h => narrowFit s t n graft hs fuel (nar ++ [h])
      | none => .inl k

/-- The wear bucket's lower bound is reached (R418). The bucket stands in bytes times 86,400. -/
def wearRate (s : State) : Nat := fldW (cset s .rckWear 0 0) 15 0
def wearSpent (s : State) : Bool := decide (s.rck.bucket ≤ -((wearRate s : Int) * 86400 * 1000000000))
/-- Bytes programmed into T2, those the flash controller relocates with them (R417, R418); WEAR_LOW when the bucket falls through zero, at most once per hour. -/
def program (t bytes : Nat) (s : State) : State :=
  let n := bytes + Config.relocated s.rck.total bytes
  let b := s.rck.bucket - (n : Int) * 86400
  let s1 := modRck (fun r => { r with bucket := b, total := r.total + n }) s
  if 0 < s.rck.bucket ∧ b ≤ 0 then
    match s.rck.wearAt with
    | some k => if s.tim.s < k + 3600 then s1 else
        modRck (fun r => { r with wearAt := some s.tim.s }) (noteT t 0x0A04 0 ((b / (86400 * 1000000000)) % 2 ^ 32).toNat s1)
    | none => modRck (fun r => { r with wearAt := some s.tim.s }) (noteT t 0x0A04 0 ((b / (86400 * 1000000000)) % 2 ^ 32).toNat s1)
  else s1

/-- A rack is abandoned: its slot is EMPTY, its marks and kept pre-images go. -/
def dropMarks (t : Nat) (s : State) : State :=
  modPln (fun p => { p with
      pages := Map.mapV (fun k x =>
        match Map.find p.hnds (k / 0x100000) with
        | some h => if h.tenant = t then { x with mark := false, copied := [] } else x
        | none => x) p.pages })
    (modStp (fun x => { x with lees := x.lees.filter (fun y => decide (y.tenant ≠ t) || !y.kept) }) s)
def abandonRack (s : State) : State :=
  match s.rck.job with
  | none => s
  | some j => modRck (fun r => { r with job := none }) (setSlot j.slot (fun _ => {}) (dropMarks j.tenant s))

/-- The state of a rack's step is the pre-image's: it must outlive the draw of step n (R387). -/
def neededByRack (s : State) (x : PreImg) : Bool :=
  match s.rck.job with
  | some j => decide (j.tenant = x.tenant) && decide (j.step < x.step) && !j.passed &&
      (match pageRec s x.hnd x.page with
        | some p => (p.mark || !j.marked) && !memb x.block p.copied
        | none => false)
      && !(s.stp.lees.any (fun y => decide (y.hnd = x.hnd) && decide (y.page = x.page) && decide (y.block = x.block)
            && decide (j.step < y.step) && decide (y.step < x.step)))
  | none => false

/-! ## Manifests (R397) -/

/-- A manifest entry (Table 10.5); `hash` zero where a COMMIT carries it. -/
def manEntry (n h : Nat) (x : Hnd) (narrow : Bool) (hash : Nat) : List Byte :=
  leB 4 (keyAt x n).1 ++ leB 3 h ++ leB 1 (b2n x.replicated + 2 * b2n x.narrowable + 4 * b2n x.graftEach + 8 * b2n narrow)
    ++ leB 6 x.size ++ leB 2 x.repCount ++ leB 2 x.repRank ++ leB 2 (keyAt x n).2 ++ leB 4 (rackedPages x).length
    ++ leB 48 hash ++ zeros 56
/-- Handles in ascending key order. -/
def insertKey (n : Nat) (e : Nat × Hnd) : List (Nat × Hnd) → List (Nat × Hnd)
  | [] => [e]
  | f :: r => if (keyAt e.2 n).1 < (keyAt f.2 n).1 then e :: f :: r else f :: insertKey n e r
def byKey (n : Nat) (hs : List (Nat × Hnd)) : List (Nat × Hnd) := hs.foldl (fun l e => insertKey n e l) []
/-- The manifest of a rack (Table 10.4). -/
def manifestOf (s : State) (j : RackJob) (lineage : Bool) (hashes : List (Nat × Nat)) : List Byte :=
  let es := (byKey j.step j.hs).flatMap (fun e =>
    manEntry j.step e.1 e.2 (memb e.1 j.narrowed) (((hashes.find? (fun q => decide (q.1 = e.1))).map Prod.snd).getD 0))
  let members := ((bindOf s j.tenant).map (fun b => (presentOf (bindRec s b).members).length)).getD 1
  leB 1 1 ++ leB 1 (b2n lineage + 2 * b2n (!j.narrowed.isEmpty) + 4 * b2n (j.graft && j.graftOk)) ++ leB 2 (tenParcel s j.tenant)
    ++ leB 6 j.step ++ leB 2 (tenCoord s j.tenant) ++ leB 4 s.moduleId ++ leB 4 (es.length / 128) ++ leB 4 members ++ leB 8 j.size
    ++ leB 48 (Config.sha384 es).toNat ++ zeros 48 ++ es

/-- The result field of RACK_TAKE. -/
def rackResult (x : Slot) (k : Nat) : Nat :=
  x.step + b2n x.narrowed * 2 ^ 48 + b2n x.grafted * 2 ^ 49 + b2n x.lineage * 2 ^ 50 + k * 2 ^ 51
    + min 4095 ((x.bytes + gib - 1) / gib) * 2 ^ 52

/-! ## Graft messages (Table 10.7) and the step graft (R402, R403) -/

def graftHead (s : State) (msg flags t n key page block blocks value : Nat) : List Byte :=
  leB 1 msg ++ leB 1 flags ++ leB 2 (tenParcel s t) ++ leB 6 n ++ leB 2 (tenCoord s t) ++ leB 4 key ++ leB 4 page
    ++ leB 2 block ++ leB 2 blocks ++ leB 8 value
/-- One block with its CRC-32C (R468). -/
def crcBlock (bs : List Byte) : List Byte := bs ++ leB 4 (crc32c bs).toNat

def rackCfg (s : State) (t : Nat) : Word := cset s .rckTen t 0
/-- The binding and slot that lead to the buddy, when grafting is permitted and the slot has an OPEN port. -/
def buddySlot (s : State) (t : Nat) : Option (Nat × Nat) :=
  match bindOf s t with
  | some b =>
    let k := fldW (rackCfg s t) 27 24
    if bitW (rackCfg s t) 31 && !(openPorts s b k).isEmpty then some (b, k) else none
  | none => none
/-- The buddy's coordinate. -/
def buddyCoord (s : State) (b k : Nat) : Nat :=
  match (bindSplitT s b).slots[k]? with
  | some e => slotNbr (bindSplitT s b) (bindCoord s b) e
  | none => 0
/-- Sends a message to the buddy through its slot. -/
def toBuddy (b k cls : Nat) (bytes : List Byte) (s : State) : State :=
  emit (.vine b k cls (buddyCoord s b k) bytes) (slotSend b k cls (buddyCoord s b k) bytes s)

/-! ## Serving reads (R410, R412, R415) -/

/-- Pieces of 128 bytes up to the first whose size field is zero: the manifest entries a message carries. -/
def entriesOf : Nat → List Byte → List (List Byte)
  | 0, _ => []
  | k + 1, bs => if fieldAt bs 8 6 = 0 then [] else bs.take 128 :: entriesOf k (bs.drop 128)
def entries (bs : List Byte) : List (List Byte) := entriesOf (bs.length / 128 + 1) bs
def ginAt (s : State) (t z : Nat) : Option (Nat × Gin) :=
  s.rck.gin.find? (fun e => e.2.valid && decide (e.2.tenant = t) && decide (e.2.sender = z))
def blkAt (l : List RackBlk) (key p b : Nat) : List Byte :=
  match l.find? (fun x => decide (x.key = key) && decide (x.page = p) && decide (x.block = b)) with
  | some x => x.bytes
  | none => zeros 4096
/-- The usable handle of a key. -/
def hndByKey (s : State) (t key : Nat) : Option (Nat × Hnd) :=
  (tenHnds s t).find? (fun e => decide (e.2.key = key) && decide (key ≠ 0) && !e.2.gone && !e.2.reserved)
/-- The COMPLETE slot of a step and parcel. -/
def rackSlotOf (s : State) (parcel n : Nat) : Option Slot :=
  ([s.rck.slot0, s.rck.slot1].filter (fun x => decide (x.st = 2) && decide (x.step = n) && decide (x.parcel = parcel))).head?

/-- An answer to a read: status (0 answered, 1 not found, 2 refused), step, bytes (log 75). -/
structure ReadAns where
  status : Nat
  step : Nat := 0
  bytes : List Byte := []
deriving DecidableEq, Repr

/-- What a READ_REQ of tenant t gets; none: not yet. The selector in its value field is the model's (log 75): [3:0] 0 a
replica, 1 the rack graft held for src, 2 an own slot, 3 the step image of src; [4] for a seed; [31:16] src. -/
def serveRead (s : State) (t : Nat) (m : List Byte) : Option ReadAns :=
  let key := fieldAt m 12 4
  let p := fieldAt m 16 4
  let b := fieldAt m 20 2
  let n := fieldAt m 4 6
  let sel := fieldAt m 24 8
  let src := bitsOf sel 31 16
  let held := fun (st : Option Nat) (man : List Byte) (l : List RackBlk) =>
    match st with
    | none => (⟨1, 0, []⟩ : ReadAns)
    | some k => if key = 0 then ⟨0, k, man⟩ else ⟨0, k, crcBlock (blkAt l key p b)⟩
  if bitsOf sel 3 0 = 0 then
    let open_ := if bitOf sel 4 then
        (decide ((tstep s t).st = .idle) || (decide ((tstep s t).st = .recover) && !(tstep s t).restoring)) && decide ((tstep s t).drawn = some n)
      else decide ((tenRack s t).phase1 = some n)
    if open_ then
      match hndByKey s t key with
      | some e => some ⟨0, n, crcBlock (hRead s e.1 (p * 0x200000 + b * 4096) 4096)⟩
      | none => some ⟨1, 0, []⟩
    else none
  else if bitsOf sel 3 0 = 1 then
    match ginAt s t src with
    | some g => some (if g.2.rackStep = some n then held (some n) (g.2.rackMan.drop 128) g.2.rack else ⟨1, 0, []⟩)
    | none => some ⟨1, 0, []⟩
  else if bitsOf sel 3 0 = 2 then
    match rackSlotOf s (tenParcel s t) n with
    | some x => some (held (some n) (x.manifest.drop 128) x.blks)
    | none => some ⟨1, 0, []⟩
  else
    match ginAt s t src with
    | some g => some (if g.2.entries.isEmpty then ⟨1, 0, []⟩ else held g.2.step g.2.entries g.2.image)
    | none => some ⟨1, 0, []⟩
/-- The rack a read is served from carries the lineage flag. -/
def servedLineage (s : State) (t : Nat) (m : List Byte) : Bool :=
  let sel := fieldAt m 24 8
  let man := if bitsOf sel 3 0 = 1 then ((ginAt s t (bitsOf sel 31 16)).map (fun g => g.2.rackMan)).getD []
    else if bitsOf sel 3 0 = 2 then ((rackSlotOf s (tenParcel s t) (fieldAt m 4 6)).map Slot.manifest).getD [] else []
  bitOf (fieldAt man 1 1) 0
/-- Answers a READ_REQ with a READ_DATA: the request's fields, the step, the status in the top byte of value, the lineage
in its bit 0 (log 75). -/
def sendAnswer (b : Nat) (m : List Byte) (a : ReadAns) (s : State) : State :=
  let t := bindTen s b
  sendTo b 2 (fieldAt m 10 2)
    (leB 1 0x27 ++ zeros 1 ++ leB 2 (bindParcel s b) ++ leB 6 a.step ++ leB 2 (bindCoord s b) ++ (m.drop 12).take 12
      ++ leB 8 (b2n (servedLineage s t m) + a.status * 2 ^ 56) ++ a.bytes) s
/-- Serves what a tenant owes and can serve now. -/
def serveOwed (t : Nat) (s : State) : State :=
  match bindOf s t with
  | none => s
  | some b =>
    let r := s.rck.owed
    forS r (fun o s =>
      if o.tenant = t then
        match serveRead s t o.msg with
        | some a => sendAnswer b o.msg a s
        | none => modRck (fun x => { x with owed := x.owed ++ [o] }) s
      else modRck (fun x => { x with owed := x.owed ++ [o] }) s) (modRck (fun x => { x with owed := [] }) s)

/-! ## The effect of a RACK_TAKE (R384, R385) -/

/-- The size checks of a rack that fills its slot (R391): it goes on to its marks, or ends with RACK_NO_SPACE. -/
def rackFit (s : State) : State :=
  match s.rck.job with
  | none => s
  | some j =>
    let fit := if j.narrowOk then narrowFit s j.tenant j.step j.graft j.hs j.hs.length []
      else match rackLimit s j.tenant (totalBytes j.hs []) j.graft with
        | some l => .inl l
        | none => .inr []
    match fit with
    | .inl l => rackEnd j.tag j.tenant j.step 0x0600 l 0 (setSlot j.slot (fun _ => {}) (modRck (fun r => { r with job := none }) s))
    | .inr nar => modRck (fun r => { r with job := some { j with asking := false, narrowed := nar, size := totalBytes j.hs nar } }) s

/-- The checks and the effect of a rack at its effect point (R385): `tag` makes it, for step n; flags graft and
narrow_ok. With graft set the buddy is asked for an offer first (R401); without a buddy the offer is 0 (log 70). -/
def rackEffect (tag t n : Nat) (graft narrowOk : Bool) (s : State) : State :=
  let hs := rackables s t n
  let coord := tenCoord s t
  let entries := ((bindOf s t).map (fun b => (bindRec s b).members.length)).getD 0
  match hs.find? (fun e => decide ((keyAt e.2 n).1 = 0)) with
  | some e => rackEnd tag t n 0x0601 0 e.1 s
  | none =>
    match hs.find? (fun e => groupOut e.2 (keyAt e.2 n).2 coord entries) with
    | some e => rackEnd tag t n 0x0605 0 e.1 s
    | none =>
      if s.rck.job.isSome ∨ (slotAt s 0).st = 1 ∨ (slotAt s 1).st = 1 then rackEnd tag t n 0x0603 0 0 s
      else
        match pickSlot s t with
        | none => rackEnd tag t n 0x0603 0 0 s
        | some k =>
          if wearSpent s then rackEnd tag t n 0x0606 0 0 s
          else
            let job : RackJob := { tag := tag, tenant := t, step := n, slot := k, size := 0, graft := graft, narrowOk := narrowOk, hs := hs,
                                   asking := true }
            let s1 := modRck (fun r => { r with job := some job })
              (setSlot k (fun _ => { st := 1, tenant := t, parcel := tenParcel s t, step := n, kid := (bindOf s t).bind (keyId s) }) s)
            match buddySlot s t with
            | some (b, q) =>
              if graft then toBuddy b q 2 (graftHead s 0x20 0 t n 0 0 0 0 0) s1 else rackFit s1
            | none => rackFit (modTenRack t (fun x => { x with offer := 0 }) s1)

/-- Every rackable handle has a key and is replicated or grafted each step (R403). -/
def fullCover (s : State) (t n : Nat) : Bool :=
  (rackables s t n).all (fun e => decide ((keyAt e.2 n).1 ≠ 0) && (e.2.replicated || e.2.graftEach))
/-- The graft state changes to `g`, with its event when it becomes NONE (R405, Table 10.10). -/
def setGraft (t g : Nat) (s : State) : State :=
  if (tenRack s t).graft = g then s
  else noteT t 0x0A03 0 g (modTenRack t (fun x => { x with graft := g }) s)
def graftNone (t : Nat) (s : State) : State :=
  setGraft t 0 (modTenRack t (fun x => { x with flight := none, cover := false, gstep := none, sent := none }) s)

/-- Blocks (handle, page, block) of the graft of step n (R402). -/
def graftBlocks (s : State) (t n : Nat) (full : Bool) : List (Nat × Nat × Nat) :=
  if full then
    ((rackables s t n).filter (fun e => e.2.graftEach)).flatMap (fun e =>
      (List.range (pagesOf e.2.size)).flatMap (fun p => (blocksOf e.2.size p).map (fun b => (e.1, p, b))))
  else ((tenRack s t).written.filter (fun w => decide (w.1 = n) && (rackables s t n).any (fun e => decide (e.1 = w.2.1) && e.2.graftEach))).map
    (fun w => (w.2.1, w.2.2.1, w.2.2.2))

/-- The step graft a draw starts (R402, R403, R465). -/
def graftStart (t n : Nat) (s : State) : State :=
  let s0 := modTenRack t (fun x => { x with written := x.written.filter (fun w => decide (w.1 ≠ n)) }) s
  match buddySlot s t with
  | none => if (tenRack s t).graft = 0 then s0 else graftNone t s0
  | some (b, k) =>
    let full := decide ((tenRack s t).graft ≠ 2)
    let bl := graftBlocks s t n full
    let budget := fldW (rackCfg s t) 23 16 * gib
    if bl.any (fun q => match pageRec s q.1 q.2.1 with | some p => memb q.2.2 p.poison | none => false) then setGraft t 3 s0
    else if !full && decide (budget < 4096 * bl.length) then setGraft t 3 s0
    else
      let s1 := if full then setGraft t 1 s0 else s0
      let s2 := forS bl (fun q s => toBuddy b k 3
        (graftHead s 0x22 0 t n ((hndRec s q.1).map (fun h => (keyAt h n).1) |>.getD 0) q.2.1 q.2.2 1 0
          ++ crcBlock (rackContent s n q.1 q.2.1 q.2.2)) s) s1
      let ents := (byKey n (rackables s t n)).flatMap (fun e => manEntry n e.1 e.2 false 0)
      modTenRack t (fun x => { x with flight := some n, sent := some ents })
        (toBuddy b k 0 (graftHead s 0x23 (b2n full + 2 * b2n (fullCover s t n)) t n 0 0 0 0 0
          ++ (if (tenRack s t).sent = some ents then [] else ents)) s2)

/-- The clean report of the next step waits for the graft in flight (R404). -/
def graftHolds (s : State) (t : Nat) : Bool := decide ((tenRack s t).graft = 2) && (tenRack s t).flight.isSome

end Sys2Proof.Machine
end

