-- ==== Sys2Proof/Machine/StepOps.lean ====
section
/-!
DEFINITION. Machine/StepOps.lean: triggers' actions (R530 to R534), seals, reports, draws, failures and discards of steps
(R341 to R379).
-/
namespace Sys2Proof.Machine

/-! ## Triggers (R528 to R534) -/

def trigRec (s : State) (k : Nat) : Trig := Map.get {} s.tim.trigs k
def modTrig (k : Nat) (f : Trig → Trig) (s : State) : State :=
  modTim (fun x => { x with trigs := Map.upd {} x.trigs k f }) s
/-- Numbers of the triggers a tenant holds. -/
def tenTrigs (s : State) (t : Nat) : List Nat :=
  (s.tim.trigs.filter (fun e => decide (8 ≤ e.1) && decide (e.2.tenant = t) && decide (e.2.st ≠ 0))).map Prod.fst
/-- A GATE trigger holds back the opening of step n (R533). -/
def gated (s : State) (t n : Nat) : Bool :=
  (tenTrigs s t).any (fun k => decide ((trigRec s k).mode = 1) && decide ((trigRec s k).gate = some n))

/-- Lateness of a firing, and whether it is late: over 1 µs (R530). -/
def lateNs (s : State) (x : Trig) : Nat := nsSince s x.target
/-- After a firing: a one-shot trigger returns to FREE; a periodic one takes its first target after the time base. -/
def rearm (k : Nat) (s : State) : State :=
  let x := trigRec s k
  if x.period = 0 then modTrig k (fun _ => { tenant := x.tenant, firedAt := some s.tick, late := x.late, lateness := x.lateness }) s
  else
    let p := x.period * 1000
    let n := (lateNs s x) / p + 1
    let tgt := x.target.total + n * p
    modTrig k (fun y => { y with st := 2, target := ⟨tgt / 1000000000, tgt % 1000000000⟩ }) s

/-- The action of a tenant's trigger (R532, Table 14.2). -/
def trigAct (k : Nat) (s : State) : State :=
  let x := trigRec s k
  if x.mode = 0 then
    makePost x.tenant none none (postOf x.posts 3) (makePost x.tenant none none (postOf x.posts 0) s)
  else if x.mode = 2 then
    noteT x.tenant 0x0E00 k (min x.lateness (2 ^ 32 - 1) + b2n x.late * 2 ^ 32) s
  else if x.mode = 3 then
    rackEffect (trigTag k) x.tenant (((tstep s x.tenant).drawn).getD 0xFFFFFFFFFFFF) (bitOf x.arg 0) (bitOf x.arg 1) s
  else s

/-- An action of the tenant must wait (R358, R660). -/
def trigWaits (s : State) (x : Trig) : Bool :=
  (decide (x.mode = 2) || decide (x.mode = 3))
    && (!(tstep s x.tenant).steps.isEmpty || (decide (x.mode = 3) && (tstep s x.tenant).restoring))

/-- A WAITING trigger whose tenant has no undrawn step acts, with its whole delay as lateness (R534). -/
def trigRelease (t : Nat) (s : State) : State :=
  forS (tenTrigs s t) (fun k s =>
    let x := trigRec s k
    if x.st = 3 ∧ ¬ trigWaits s x then
      rearm k (trigAct k (modTrig k (fun y => { y with late := decide (1000 < lateNs s x) || y.late, lateness := lateNs s x }) s))
    else s) s

/-! ## Handles of a step (R116, R117) -/

/-- A rack whose copy pass has not ended reads the handle (R386). -/
def rackReads (s : State) (t h : Nat) : Bool :=
  match s.rck.job with
  | some j => decide (j.tenant = t) && !j.passed && j.hs.any (fun e => decide (e.1 = h))
  | none => false
/-- Handles freed outside a step, or in a drawn one, leave once every descriptor they wait for has completed (R116). -/
def settleFrees (t : Nat) (s : State) : State :=
  forS (tenHnds s t) (fun e s =>
    if e.2.gone ∧ e.2.freedIn = none then
      let w := e.2.waitFor.filter (fun g => (liveRec s g).isSome)
      if w.isEmpty ∧ ¬ rackReads s t e.1 then dropHnd e.1 s else modHnd e.1 (fun x => { x with waitFor := w }) s
    else s) s

/-! ## Seals (R345 to R349) -/

/-- Records that a step has been handed to the owner Cellarer. -/
def upMsg (m : UpMsg) (s : State) : State := modCel (fun c => { c with up := c.up ++ [m] }) s

/-- Coordinates of a seal's time in a message: seconds and nanoseconds packed (Table 09.5). -/
def packT (t : Time) : Nat := t.s % 2 ^ 32 * 2 ^ 32 + t.ns

/-- A speculative stall is on (R364): half of a quota is in use while a step is undrawn (that it takes an undrawn step is DEDUCED,
log 152). -/
def stallNow (s : State) (t : Nat) : Bool := !(tstep s t).steps.isEmpty && (leesStall s t || holdStall s t)
/-- Brings the stall mark up to date; each stall is counted, SPEC_STALL at most once per 1 ms. -/
def updStall (t : Nat) (s : State) : State :=
  let ts := tstep s t
  if stallNow s t then
    if ts.stall then s
    else
      let s1 := modStp (fun x => { x with specStalls := satAdd 32 x.specStalls 1 }) (modTstep t (fun x => { x with stall := true }) s)
      let post := match ts.stallAt with
        | some k => decide (k + 250000 ≤ s.tick)
        | none => true
      if post then
        modTstep t (fun x => { x with stallAt := some s.tick })
          (noteT t 0x0902 0 (b2n (leesStall s t) + 2 * b2n (holdStall s t)) s1)
      else s1
  else modTstep t (fun x => { x with stall := false }) s

/-! ## Discards (R370, R371) -/

/-- Handle actions of steps from n on are undone (R117, R382). -/
def undoHandles (t n : Nat) (s : State) : State :=
  forS (tenHnds s t) (fun e s =>
    if e.2.createdIn.any (fun m => decide (n ≤ m)) then dropHnd e.1 s
    else
      modHnd e.1 (fun x =>
        let y := if x.freedIn.any (fun m => decide (n ≤ m)) then { x with gone := false, freedIn := none, waitFor := [] } else x
        match y.oldKeys.find? (fun o => decide (n ≤ o.1)) with
        | some o => { y with key := o.2.1, stride := o.2.2, oldKeys := y.oldKeys.filter (fun q => decide (q.1 < n)) }
        | none => y) s) s

/-- Triggers recorded by a discarded step return to FREE; its recorded cancels are forgotten with their descriptors
(R537). -/
def dropTrigs (t n : Nat) (s : State) : State :=
  forS (tenTrigs s t) (fun k s =>
    match (trigRec s k).step with
    | some m => if n ≤ m ∧ (trigRec s k).st = 1 then modTrig k (fun _ => {}) s else s
    | none => s) s

/-- Step field of a collective message (Table 08.5). -/
def collMsgStep (m : List Byte) : Nat := fieldAt m 8 6
/-- Collectives of steps from n on are abandoned and their messages dropped (R337, R370). -/
def dropColls (t n : Nat) (s : State) : State :=
  modCol (fun c => { c with
    colls := c.colls.filter (fun x => match x.step with
      | some m => decide (bindTen s x.bind ≠ t) || decide (m < n)
      | none => true),
    parked := c.parked.filter (fun p => decide (bindTen s p.1 ≠ t) || decide (collMsgStep p.2 < n) || decide (collMsgStep p.2 = 0)) }) s

/-- A step this member has drawn, or discarded and not opened again (R353). -/
def stepOver (s : State) (t n : Nat) : Bool :=
  (match (tstep s t).drawn with | some k => decide (n ≤ k) | none => false) || memb n (tstep s t).dead
/-- Step n is failed before this member opens it: what has come in for it and later steps is dropped, and what comes later is discarded
on arrival (R337, R353). The member has nothing to undo and does not enter RECOVER: DEDUCED (log 152). -/
def dropAhead (t n : Nat) (s : State) : State :=
  if stepOver s t n then s
  else dropColls t n (modTstep t (fun x => { x with early := x.early.filter (fun r => decide (r.1 < n)), dead := addOnce n x.dead }) s)

/-- Discards step n and the steps after it (R370): RECOVER, launches and collectives abandoned, tokens restored, handle
actions undone, held contents dropped, descriptors completed DISCARDED, the event. The pre-images are written back by
RESTORE_DONE. -/
def discard (t n reason origin : Nat) (s : State) : State :=
  let gone := (tstep s t).steps.filter (fun r => decide (n ≤ r.num))
  match gone with
  | [] => dropAhead t n s
  | first :: _ =>
    let mine := s.cor.launches.filter (fun l => decide (l.tenant = t) && (match l.step with | some m => decide (n ≤ m) | none => false))
    let s1 := cntRestore first.record (modCor (fun x => { x with
        flight := x.flight.filter (fun f => decide (f.tenant ≠ t) || (match f.step with | some m => decide (m < n) | none => true)) })
      (dropTallies t n (settleCores (forS mine (fun l => dropLaunch l.tag) s))))
    let s2 := dropTrigs t n (dropColls t n (undoHandles t n s1))
    let s3 := modRck (fun r => { r with tens := Map.upd {} r.tens t (fun x => { x with written := x.written.filter (fun w => decide (w.1 < n)) }) })
      (modPln (fun p => { p with waits := p.waits.filter (fun w => decide (w.tenant ≠ t) || (match w.step with | some m => decide (m < n) | none => true)) })
        (modStp (fun x => { x with
          hold := x.hold.filter (fun h => decide (h.tenant ≠ t) || decide (h.step < n)),
          holdEv := x.holdEv.filter (fun h => decide (h.tenant ≠ t) || decide (h.step < n)),
          fails := satAdd 32 x.fails gone.length }) s2))
    let s4 := modTstep t (fun x => { x with
      st := .recover, steps := x.steps.filter (fun r => decide (r.num < n)), next := some first.num, firstDisc := some first.num,
      restoring := true, reason := reason, early := x.early.filter (fun r => decide (r.1 < n)),
      dead := (x.dead ++ gone.map StepRec.num).eraseDups }) s3
    let lives := s.hif.live.filter (fun e => decide (liveTen e.2 = t) && decide (e.2.stage ≠ .lost))
    let s5 := forS lives (fun e s =>
      match e.2.step with
      | some m =>
        if n ≤ m then
          completeNow e.1 stDISCARDED (if reason = 9 then 4 else if reason = 7 then 3 else if m = first.num then 1 else 2) 0 s
        else s
      | none =>
        if e.2.stage = .attachWait then completeNow e.1 stDISCARDED (if reason = 9 then 4 else if reason = 7 then 3 else 2) 0 s
        else if e.2.stage = .spaceWait ∧ opcodeOf e.2.desc = 0x50 ∧ fieldAt e.2.desc 16 6 ≠ first.num then completeNow e.1 stDISCARDED 2 0 s
        else s) s4
    updStall t (settleFrees t (noteT t 0x0901 origin (first.num + reason * 2 ^ 48 + gone.length * 2 ^ 56) s5))

/-- A module failure of step n (R368, R377): the event, the discard, the FAIL staged for the end of the cycle; the
fault-response machine hears of a DRAW_TIMEOUT (Table 11.11). -/
def failStep (t n reason : Nat) (s : State) : State :=
  match stepRec s t n with
  | none => s
  | some _ =>
    let s1 := noteT t 0x0900 (tenCoord s t) (n + reason * 2 ^ 48) s
    let s2 := discard t n reason (tenCoord s t) s1
    let s3 := modCel (fun c => { c with staged := c.staged ++ [.failUp t n reason] }) s2
    if reason = 4 then upMsg (.event 7 0 8 [t] n 0) s3 else s3


/-- A local failure (R367): the oldest undrawn step whose report has not left, else the next step opened. With no undrawn
step at all nothing later fails (DEDUCED, log 62). -/
def localFail (t reason : Nat) (s : State) : State :=
  match (tstep s t).steps.find? (fun r => !r.left) with
  | some r => failStep t r.num reason s
  | none => if (tstep s t).steps.isEmpty then s else modTstep t (fun x => { x with failNext := some (x.failNext.getD reason) }) s

/-! ## Finishing and sealing -/

/-- Every other descriptor attached to step n has finished executing (R345). -/
def othersDone (s : State) (t n tag : Nat) : Bool :=
  s.hif.live.all (fun e => decide (e.1 = tag) || decide (liveTen e.2 ≠ t) || decide (e.2.step ≠ some n) || !unfinished e.2)

/-- Seals the steps of a tenant whose STEP_SEAL has started and whose other descriptors have finished (R345 to R349). -/
def trySeal (t : Nat) (s : State) : State :=
  forS (tstep s t).steps (fun r s =>
    match r.sealTag with
    | none => s
    | some tag =>
      match liveRec s tag with
      | none => s
      | some l =>
        if l.stage = .running ∧ l.step = some r.num ∧ othersDone s t r.num tag then
          let s1 := modStep t r.num (fun x => { x with sealAt := nowT s }) (finish tag stOK 0 0 s)
          if bitOf (fieldAt l.desc 22 1) 1 then failStep t r.num 3 s1
          else
            match r.failed with
            | some f => failStep t r.num f s1
            | none =>
              if r.unclean then s1
              else upMsg (.seal t r.num) (modStep t r.num (fun x => { x with handed := true }) s1)
        else s) s

/-- A descriptor has finished executing: it completes or is held, what waited for it goes on. -/
def done (tag status detail result : Nat) (s : State) : State :=
  match liveRec s tag with
  | none => s
  | some l => settleFrees (liveTen l) (trySeal (liveTen l) (finish tag status detail result s))

/-! ## Opening (R341 to R343, R373, R533) -/

/-- A STEP_OPEN that passed its checks must wait (R342, R533). -/
def openWaits (s : State) (t n : Nat) : Bool :=
  let ts := tstep s t
  decide (fldW (cset s .stpTen t 0) 1 0 + 1 ≤ ts.steps.length) || stallNow s t || gated s t n || ts.restoring

/-- The first failing check of R341, as (status, detail). -/
def openFault (s : State) (t n : Nat) (first : Bool) : Option (Nat × Nat) :=
  let ts := tstep s t
  if (openStep s t).isSome then some (0x0501, 0)
  else if !first && decide (ts.next ≠ some n) then some (0x0500, 16)
  else if first && decide (ts.st ≠ .idle) then some (0x0500, 22)
  else if (match bindOf s t with | some b => !(bindRec s b).ready | none => false) then some (0x0502, 0)
  else if decide (leesQuota s t = 0) || decide (holdQuota s t = 0) then some (0x0503, 0)
  else none

/-- Opens the step of a STEP_OPEN: the record of R260, the posts of R343, the failure that waited for it (R367). -/
def openNow (tag t n : Nat) (d : List Byte) (s : State) : State :=
  let s1 := modTstep t (fun x => { x with
    st := .run, next := some ((n + 1) % 2 ^ 48), steps := x.steps ++ [{
      num := n, record := cntRecord s t, reps := (x.early.filter (fun r => decide (r.1 = n))).map Prod.snd }], failNext := none,
    firstDisc := none, early := x.early.filter (fun r => decide (r.1 ≠ n)), dead := without n x.dead })
    (modPwr (fun p => { p with idle := false }) (modLive tag (fun l => { l with step := some n, stage := .running }) s))
  let s2 := makePost t none (some n) (postOf d 27) (makePost t none (some n) (postOf d 24) (updStall t s1))
  let s3 := done tag stOK 0 0 s2
  match (tstep s t).failNext with
  | some r => failStep t n r s3
  | none => s3

/-- Tries again every STEP_OPEN of a tenant that waits (R342). -/
def wakeOpens (t : Nat) (s : State) : State :=
  forS (s.hif.live.filter (fun e => decide (liveTen e.2 = t) && decide (e.2.stage = .spaceWait) && decide (opcodeOf e.2.desc = 0x50)))
    (fun e s =>
      let n := fieldAt e.2.desc 16 6
      match openFault s t n (bitOf (fieldAt e.2.desc 22 1) 0) with
      | some f => if (openStep s t).isSome then s else done e.1 f.1 f.2 0 s
      | none => if openWaits s t n then s else openNow e.1 t n e.2.desc s) s

/-! ## Draws (R351 to R355) -/

/-- A step message (Table 09.5). -/
def stepMsg (s : State) (msg reason b n origin covered late early : Nat) : List Byte :=
  leB 1 msg ++ leB 1 reason ++ leB 2 (bindParcel s b) ++ leB 6 n ++ leB 2 (bindCoord s b) ++ leB 2 origin ++ zeros 2
    ++ leB 4 covered ++ leB 8 late ++ leB 8 early ++ zeros 220
/-- Sends a control message to every child of the draw tree. -/
def toChildren (b : Nat) (bytes : List Byte) (s : State) : State := forS (drawChildren s b) (fun z => sendTo b 0 z bytes) s
/-- Present members of a binding. -/
def members (s : State) (b : Nat) : Nat := (presentOf (bindRec s b).members).length

/-- A wilt entry joins (R449): the machine event and the record; on a full list the oldest PEER entry leaves for it. -/
def wiltJoin (kind subject : Nat) (s : State) : State :=
  if s.pol.wilts.any (fun w => decide (w.kind = kind) && decide (w.subject = subject)) then s
  else
    let full := decide (64 ≤ s.pol.wilts.length)
    match s.pol.wilts.findIdx? (fun w => decide (w.kind = 3)) with
    | none =>
      if full && decide (kind = 3) then s
      else if full then s
      else upEvent 7 0 4 [] subject kind (record 0x0B07 subject kind (modPol (fun p => { p with wilts := p.wilts ++ [⟨kind, subject, nowT s⟩] }) s))
    | some i =>
      let s1 := match s.pol.wilts[i]? with
        | some w => if full then
            upEvent 7 0 5 [] w.subject w.kind (record 0x0B08 w.subject w.kind (modPol (fun p => { p with wilts := p.wilts.eraseIdx i }) s))
          else s
        | none => s
      upEvent 7 0 4 [] subject kind (record 0x0B07 subject kind (modPol (fun p => { p with wilts := p.wilts ++ [⟨kind, subject, nowT s⟩] }) s1))
/-- A wilt entry leaves (R449). -/
def wiltLeave (kind subject : Nat) (s : State) : State :=
  if s.pol.wilts.any (fun w => decide (w.kind = kind) && decide (w.subject = subject)) then
    upEvent 7 0 5 [] subject kind (record 0x0B08 subject kind
      (modPol (fun p => { p with wilts := p.wilts.filter (fun w => decide (w.kind ≠ kind) || decide (w.subject ≠ subject)) }) s))
  else s

/-- Judges the module's own seal against the spread of a draw (R448). -/
def judgeLate (b : Nat) (own late early : Nat) (s : State) : State :=
  let ns := fun x => x / 2 ^ 32 * 1000000000 + x % 2 ^ 32
  let isLate := decide (ns early < ns late) && decide (ns late - (ns late - ns early) / 200 ≤ ns own)
  let h := ((Map.get [] s.pol.late b) ++ [isLate])
  let h := h.drop (h.length - 256)
  let k := (h.filter (fun x => x)).length
  let s1 := modPol (fun p => { p with late := Map.set [] p.late b h }) s
  if fldW (cset s .cel 0 0) 23 16 ≤ k then wiltJoin 0 b s1
  else if k < fldW (cset s .cel 0 0) 15 8 then wiltLeave 0 b s1 else s1

/-- Handle actions of a drawn step stand (R117). -/
def standHandles (t n : Nat) (s : State) : State :=
  settleFrees t (forS (tenHnds s t) (fun e s => modHnd e.1 (fun x =>
    { x with createdIn := if x.createdIn = some n then none else x.createdIn,
             freedIn := if x.freedIn = some n then none else x.freedIn,
             oldKeys := x.oldKeys.filter (fun o => decide (o.1 ≠ n)) }) s) s)

/-- The held completion of a drawn descriptor: racks and triggers take their effect, a seal reports its latency and P,
one with host writes to make waits for them, any other posts (R355). -/
def releaseOne (t n p : Nat) (lat : Nat) (tag : Nat) (s : State) : State :=
  match liveRec s tag with
  | none => s
  | some l =>
    if l.stage ≠ .held then s
    else
      let op := opcodeOf l.desc
      let s1 := modLive tag (fun l => { l with step := none }) s
      if s.stp.draining.any (fun w => decide (w.tag = tag)) then modLive tag (fun l => { l with stage := .drained }) s1
      else if op = 0x51 then completeNow tag l.status l.detail (if l.status = 0 then min lat (2 ^ 32 - 1) + p * 2 ^ 32 else 0) s1
      else if op = 0x60 ∧ l.status = 0 then
        rackEffect tag t n (bitOf (fieldAt l.desc 16 1) 0) (bitOf (fieldAt l.desc 16 1) 1) (modLive tag (fun l => { l with stage := .running }) s1)
      else if op = 0x70 ∧ l.status = 0 then
        postHeld tag (modTrig (l.result % 64) (fun x => if x.st = 1 then { x with st := 2, step := none } else x) s1)
      else if op = 0x71 ∧ l.status = 0 then
        let k := fieldAt l.desc 16 1 % 64
        if (trigRec s k).st ≠ 0 ∧ (trigRec s k).tenant = t ∧ 8 ≤ k then
          completeNow tag 0 0 (b2n (decide ((trigRec s k).st = 3 ∧ (trigRec s k).period = 0))) (modTrig k (fun _ => {}) s1)
        else completeNow tag 0x0801 0 0 s1
      else postHeld tag s1

/-- Step n of a tenant is drawn (R355): P members, with the spread of the seals for a parcel draw. -/
def drawStep (t n p : Nat) (spread : Option (Nat × Nat × Nat)) (s : State) : State :=
  match stepRec s t n with
  | none => s
  | some r =>
    if oldestStep s t ≠ some n then s
    else
      let lat := nsSince s r.sealAt
      let s1 := modStp (fun x => { x with
        lees := (x.lees.map (fun y => if decide (y.tenant = t) && decide (y.step = n) && neededByRack s y then { y with kept := true } else y)).filter
          (fun y => decide (y.tenant ≠ t) || decide (y.step ≠ n) || y.kept),
        draining := x.draining ++ x.hold.filter (fun h => decide (h.tenant = t) && decide (h.step = n)),
        hold := x.hold.filter (fun h => decide (h.tenant ≠ t) || decide (h.step ≠ n)),
        draws := satAdd 32 x.draws 1 }) s
      let s2 := match spread with
        | some (b, late, early) => judgeLate b (packT r.sealAt) late early
            (modStp (fun x => { x with drawLast := min lat (2 ^ 24 - 1), drawMax := max x.drawMax (min lat (2 ^ 24 - 1)) }) s1)
        | none => s1
      let s3 := modTstep t (fun x => { x with
        steps := x.steps.filter (fun q => decide (q.num ≠ n)), drawn := some n, dead := x.dead.filter (fun k => decide (n < k)),
        st := if x.st = .run ∧ x.steps.length ≤ 1 then .idle else x.st }) s2
      let tags := (s.hif.live.filter (fun e => decide (liveTen e.2 = t) && decide (e.2.step = some n))).map Prod.fst
      let s4 := graftStart t n (standHandles t n s3)
      let s5 := forS tags (releaseOne t n p lat) s4
      let s5 := releaseTallies t n s5
      let evs := s.stp.holdEv.filter (fun h => decide (h.tenant = t) && decide (h.step = n))
      let s6 := forS evs (fun h => postEvent h.tenant h.code h.subject h.detail)
        (modStp (fun x => { x with holdEv := x.holdEv.filter (fun h => decide (h.tenant ≠ t) || decide (h.step ≠ n)) }) s5)
      serveOwed t (wakeOpens t (trigRelease t (pump (updStall t (settleFrees t s6)))))

/-- Seal times and origin over own seal and the children's reports: (latest, its coordinate, earliest held). A REPORT
carries no early value, so the earliest is taken over what the member holds (DEDUCED, log 63). -/
def sealSpread (s : State) (b : Nat) (r : StepRec) : Nat × Nat × Nat :=
  r.reps.foldl (fun a q => (if a.1 < q.late then q.late else a.1, if a.1 < q.late then q.origin else a.2.1, min a.2.2 q.late))
    (packT r.sealAt, bindCoord s b, packT r.sealAt)

/-- The root draws (R352): DRAW to its children, then the step is drawn here. -/
def rootDraw (t b n : Nat) (r : StepRec) (s : State) : State :=
  let x := sealSpread s b r
  let p := members s b
  drawStep t n p (some (b, x.1, x.2.2)) (toChildren b (stepMsg s 0x11 0 b n x.2.1 p x.1 x.2.2) s)

/-- Sends the REPORT of step n, or draws at the root, once the member holds its own clean report and every child's
(R351, R352). -/
def tryReport (t n : Nat) (s : State) : State :=
  match stepRec s t n, bindOf s t with
  | some r, some b =>
    let cov := (r.reps.map Rep.covered).sum
    if ¬ r.arrived ∨ r.sent then s
    else if bindCoord s b = drawRoot s b then
      if cov = members s b - 1 then rootDraw t b n r (modStep t n (fun x => { x with sent := true }) s) else s
    else if (drawChildren s b).all (fun z => r.reps.any (fun q => decide (q.sender = z))) then
      match drawParent s b (bindCoord s b) with
      | none => s
      | some z =>
        let x := sealSpread s b r
        modTstep t (fun y => { y with reported := some (max n (y.reported.getD 0)) })
          (modStep t n (fun y => { y with sent := true }) (sendTo b 0 z (stepMsg s 0x10 0 b n x.2.1 (1 + cov) x.1 0) s))
    else s
  | _, _ => s

/-- FAIL for step n toward the root; at the root, down to every member unless the step is drawn, the root's own undrawn
step ending too (R368, R369). -/
def failOut (t n reason origin : Nat) (s : State) : State :=
  match bindOf s t with
  | none => s
  | some b =>
    if bindCoord s b = drawRoot s b then
      if (match (tstep s t).drawn with | some k => decide (n ≤ k) | none => false) then s
      else discard t n (if origin = bindCoord s b then reason else 2) origin (toChildren b (stepMsg s 0x12 reason b n origin 0 0 0) s)
    else
      match drawParent s b (bindCoord s b) with
      | some z => sendTo b 0 z (stepMsg s 0x12 reason b n origin 0 0 0) s
      | none => s

/-! ## RESTORE_DONE (R370, R373, R459) -/

/-- Descriptors of a tenant that waited for RESTORE_DONE: an unattached RACK_TAKE takes its effect (R384). -/
def wakeRacks (t : Nat) (s : State) : State :=
  forS (s.hif.live.filter (fun e => decide (liveTen e.2 = t) && decide (e.2.stage = .spaceWait) && decide (opcodeOf e.2.desc = 0x60)))
    (fun e s => rackEffect e.1 t (((tstep s t).drawn).getD 0xFFFFFFFFFFFF) (bitOf (fieldAt e.2.desc 16 1) 0) (bitOf (fieldAt e.2.desc 16 1) 1)
      (modLive e.1 (fun l => { l with stage := .running }) s)) s

/-- STEP_RESYNC leaves RECOVER, or sets the next step in IDLE (R373); it clears split (Table 09.12). -/
def resyncNow (tag t : Nat) (d : List Byte) (s : State) : State :=
  done tag stOK 0 0 (modTstep t (fun x => { x with
    st := if x.steps.isEmpty then .idle else .run, next := some (fieldAt d 16 6), split := false, firstDisc := none }) s)
def wakeResyncs (t : Nat) (s : State) : State :=
  forS (s.hif.live.filter (fun e => decide (liveTen e.2 = t) && decide (e.2.stage = .spaceWait) && decide (opcodeOf e.2.desc = 0x52)))
    (fun e s => resyncNow e.1 t e.2.desc (modLive e.1 (fun l => { l with stage := .running }) s)) s

/-- Writes back the pre-images of the discarded steps, the earliest of each block last to stand (R370), and posts
RESTORE_DONE. -/
def writeBack (t : Nat) (s : State) : State :=
  match (tstep s t).firstDisc with
  | none => s
  | some n =>
    let mine := s.stp.lees.filter (fun x => decide (x.tenant = t) && decide (n ≤ x.step) && !x.kept)
    let first := mine.filter (fun x => !mine.any (fun y => decide (y.hnd = x.hnd) && decide (y.page = x.page) && decide (y.block = x.block)
      && decide (y.step < x.step)))
    let s1 := forS first (fun x s =>
      if (pageRec s x.hnd x.page).isSome then
        modPage x.hnd x.page (fun p => { p with poison := without x.block p.poison })
          (modPln (fun p => { p with press := p.press.filter (fun l => decide (l.hnd ≠ x.hnd) || decide (l.line / 64 ≠ x.page * 512 + x.block)) })
            (hPut x.hnd (x.page * 0x200000 + x.block * 4096) x.bytes s))
      else s) s
    let s2 := modStp (fun y => { y with lees := y.lees.filter (fun x => decide (x.tenant ≠ t) || decide (x.step < n) || x.kept) }) s1
    noteT t 0x0903 0 n (modTstep t (fun x => { x with restoring := false }) s2)

end Sys2Proof.Machine
end

