-- ==== Sys2Proof/Machine/FaultOps.lean ====
section
/-!
DEFINITION. Machine/FaultOps.lean: the module fault path (R454 to R460), retirement (R140), gates that close with their
tenant ACTIVE (R294), teardown and the return to FREE (R49, R50, R187, R190, R416).
-/
namespace Sys2Proof.Machine

/-! ## The fault path (R454 to R460) -/

/-- A tenant has work on the module (R454). -/
def hasWork (s : State) (t : Nat) : Bool :=
  tenActive s t && (!(tstep s t).steps.isEmpty || s.cor.launches.any (fun l => decide (l.tenant = t)))
def workTens (s : State) : List Nat := (activeTens s).filter (hasWork s)
/-- Tenants with an undrawn step (source HOST_LINK, Table 12.2). -/
def undrawnTens (s : State) : List Nat := (activeTens s).filter (fun t => !(tstep s t).steps.isEmpty)

/-- The class of a source (Table 12.2). -/
def faultClass (src : Nat) : Nat :=
  if memb src [0x07, 0x08, 0x0D, 0x0E] then 2 else if src = 0x11 then 4 else 3

def stressRec (s : State) (d : Nat) : Stress := Map.get {} s.err.stress d
def modStress (d : Nat) (f : Stress → Stress) (s : State) : State :=
  modErr (fun x => { x with stress := Map.upd {} x.stress d f }) s
/-- Cores of a die. -/
def dieCores (s : State) (d : Nat) : List Nat := (List.range (numCores s)).filter (fun c => decide (dieOfCore c = d))
/-- The stationary banks of a die become zero, as a pass leaves them (R473). -/
def zeroDieBanks (d : Nat) (s : State) : State := forS (dieCores s d) zeroBank s
/-- Aborts a stress pass that runs on a die (R476). -/
def abortStress (d : Nat) (s : State) : State :=
  if (stressRec s d).running then
    record 0x0C04 (stressRec s d).failmap (d + 3 * 4)
      (modStress d (fun x => { x with running := false, testing := false, result := 3 }) (zeroDieBanks d s))
  else s
/-- A margin sweep that runs on a die ends without a result. -/
def abortSweep (d : Nat) (s : State) : State :=
  modPwr (fun p => { p with dies := Map.mapV (fun k x => if k = d then { x with sweeping := false } else x) p.dies }) s
def abortSweeps (s : State) : State :=
  modPwr (fun p => { p with dies := Map.mapV (fun _ d => { d with sweeping := false }) p.dies }) s

/-- Launches end at the fence: an unattached one completes DISCARDED, detail 4; the descriptor of an attached one waits
for the discard of its step (R458). -/
def endAllLaunches (s : State) : State :=
  settleCores (forS s.cor.launches (fun l s =>
    let s1 := dropLaunch l.tag s
    match l.step with
    | none => settleFrees l.tenant (completeNow l.tag stDISCARDED 4 0 s1)
    | some _ => s1) s)

/-- A unit reports a fault to the IOD fault logic (R456 steps 1 to 3, R460): class, unit (0xFF none), core (0xFF none),
tenants reached. The tiles in flight on a core it affects are discarded at once (R188). -/
def faultReport (src cls unit core : Nat) (tens : List Nat) (s : State) : State :=
  let s := frostFault cls s
  let s1 := modErr (fun x => { x with
    lastInfo := cls * 2 ^ 29 + src * 2 ^ 16 + unit % 256 * 256 + core % 256, lastTime := s.tim.s % 2 ^ 32 }) s
  let s2 := forS tens (fun t s => modTstep t (fun x => { x with
    steps := x.steps.map (fun r => if r.handed then r else { r with unclean := true }) }) s) s1
  let s3 := abortSweeps (forS (List.range (numDies s)) abortStress s2)
  let s4 := if 3 ≤ cls then
      endAllLaunches (modErr (fun x => { x with
        fence := true, resetPend := if x.resetOn.isSome then x.resetPend else some (x.resetPend.getD src) }) s3)
    else if core < numCores s3 then dropFlight core (coreRec s3 core).slot s3 else s3
  upMsg (.fault src cls unit core tens false) s4

/-- A class-3 fault: it reaches every tenant with work. -/
def faultAll (src unit core : Nat) (s : State) : State := faultReport src (faultClass src) unit core (workTens s) s
/-- A contained fault of one tenant. -/
def faultOne (src t : Nat) (s : State) : State := faultReport src 2 0x13 0xFF [t] s

/-- The reason a consumed fault fails a step with (R456 step 3, Table 12.11): of the causes of one cycle a class 3 or 4 fault comes
first, then the loss of the host link, which reaches every tenant with an undrawn step (R653). -/
def faultReason (s : State) (src cls : Nat) : Nat :=
  if 3 ≤ cls ∨ s.cel.up.any (fun m => match m with | .fault _ c _ _ _ _ => decide (3 ≤ c) | _ => false) then 9
  else if src = 0x0E ∨ s.cel.up.any (fun m => match m with | .fault x _ _ _ _ _ => decide (x = 0x0E) | _ => false) then 7 else 1

/-- Sets MEM_RETIRE once (R140, R141). -/
def setRetire (cause unit : Nat) (s : State) : State :=
  modPln (fun p => { p with retire := if bitW p.retire 31 then p.retire else wordOf (2 ^ 31 + unit % 16 * 256 + cause) }) s

/-! ## Gates that close (R294, R309) -/

/-- A port's gate closes; with its tenant ACTIVE the fault path runs (LINK_FAULT, Table 12.2). -/
def closePort (p reason : Nat) (s : State) : State :=
  let x := portRec s p
  let s1 := gateShutPort p reason s
  match portBind s p with
  | some (b, _) => if x.keys ∧ tenActive s (bindTen s b) then faultOne 0x0D (bindTen s b) s1 else s1
  | none => s1

/-- The buddy slot of a tenant lost its last OPEN port (R405); a rack that waits for its offer goes on with none. -/
def checkBuddy (t : Nat) (s : State) : State :=
  if (buddySlot s t).isSome then s
  else
    let s1 := if (tenRack s t).graft ≠ 0 then graftNone t s else s
    match s1.rck.job with
    | some j =>
      if j.tenant = t ∧ j.asking then rackFit (modTenRack t (fun x => { x with offer := 0 }) s1)
      else if j.tenant = t ∧ j.graft ∧ ¬ j.graftOk then modRck (fun r => { r with job := some { j with graft := false } }) s1
      else s1
    | none => s1
def checkBuddies (s : State) : State := forS ((s.rck.tens.map Prod.fst ++ (s.rck.job.map RackJob.tenant).toList).eraseDups) checkBuddy s

/-- Ports of a binding close together; the fault path runs once when the tenant is still ACTIVE (R294). -/
def closePorts (b reason : Nat) (ps : List Nat) (s : State) : State :=
  let open_ := ps.any (fun p => (portRec s p).keys)
  let s1 := forS ps (gateShutPort · reason) s
  checkBuddies (if open_ ∧ tenActive s (bindTen s b) then faultOne 0x0D (bindTen s b) s1 else s1)
def bindPorts (s : State) (b : Nat) : List Nat := (List.range 16).filter (fun p => (portBind s p).map Prod.fst = some b)
/-- A binding withdrawn (R309): its ports close, its parcel key goes, what waited for it goes, the grafts its tenant holds go (R405, Table
20.2), the history of its steps with its wilt entry too (R448: it is kept for a valid binding). -/
def unbind (b : Nat) (s : State) : State :=
  let s1 := modRck (fun r => { r with gin := Map.mapV (fun _ g => if g.valid ∧ g.tenant = bindTen s b then {} else g) r.gin })
    (closePorts b 0x12 (bindPorts s b) s)
  modSec (fun x => { x with parcelKeys := Map.del x.parcelKeys b })
    (wiltLeave 0 b (modPol (fun p => { p with late := Map.del p.late b }) (modVnl (fun v => { v with
      binds := Map.del v.binds b, queue := v.queue.filter (fun m => decide (m.bind ≠ b)), inbox := v.inbox.filter (fun m => decide (m.1 ≠ b)),
      diverts := v.diverts.filter (fun d => decide (d.1 / 16 ≠ b)) }) s1)))
/-! ## Teardown (R50, R190, R416) -/

/-- Engines of a tenant stop: launches, collectives, triggers, steps, racks; contexts and segments become zero. -/
def stopTenant (t : Nat) (s : State) : State :=
  let ls := s.cor.launches.filter (fun l => decide (l.tenant = t))
  let s1 := settleCores (forS ls (fun l => dropLaunch l.tag) s)
  let s2 := forS (tenSlots s t) (fun ck s =>
    let s := if (coreRec s ck.1).slot = ck.2 then zeroContext ck.1 s else s
    modSlot ck.1 ck.2 CSlot.blank s) s1
  let s3 := forS (List.range (numDies s)) (fun d s => forS (tenSegs s d t) (zeroSegment d) s) s2
  let s4 := forS (tenTrigs s t) (fun k => modTrig k (fun _ => {})) s3
  let s5 := modCol (fun c => { c with
    colls := c.colls.filter (fun x => decide (bindTen s x.bind ≠ t)),
    parked := c.parked.filter (fun p => decide (bindTen s p.1 ≠ t)) }) s4
  let s6 := modStp (fun x => { x with
    lees := x.lees.filter (fun y => decide (y.tenant ≠ t)), hold := x.hold.filter (fun y => decide (y.tenant ≠ t)),
    holdEv := x.holdEv.filter (fun y => decide (y.tenant ≠ t)), draining := x.draining.filter (fun y => decide (y.tenant ≠ t)) }) s5
  modTstep t (fun x => { x with st := .idle, steps := [], restoring := false, stall := false, failNext := none, firstDisc := none }) s6

/-- Racks, slots and grafts of a tenant go (R416). -/
def dropRacks (t : Nat) (s : State) : State :=
  let s1 := if (s.rck.job.map RackJob.tenant) = some t then abandonRack s else s
  let s2 := modRck (fun r => { r with
    slot0 := if r.slot0.tenant = t ∧ r.slot0.st ≠ 0 then {} else r.slot0,
    slot1 := if r.slot1.tenant = t ∧ r.slot1.st ≠ 0 then {} else r.slot1,
    gin := Map.mapV (fun _ g => if g.valid ∧ g.tenant = t then {} else g) r.gin,
    rests := r.rests.filter (fun x => decide (x.tenant ≠ t)), hashes := r.hashes.filter (fun x => decide (x.tenant ≠ t)),
    owed := r.owed.filter (fun x => decide (x.tenant ≠ t)) }) s1
  modTenRack t (fun x => { x with graft := 0, flight := none, cover := false, written := [] }) s2

/-- Every live descriptor of a tenant completes TENANT_TEARDOWN while its completion rings are enabled (R50). With the link down, or up
and not resumed, nothing is posted and the tags are freed: DESIGN CHOICE, the spec is silent there (log 146). -/
def flushLive (t : Nat) (s : State) : State :=
  forS (s.hif.live.filter (fun e => decide (liveTen e.2 = t)))
    (fun e s =>
      let s1 := modLive e.1 (fun l => { l with status := stTEARDOWN, detail := 0, result := 0, step := none, stage := .held }) s
      match liveRec s1 e.1 with
      | none => s1
      | some l =>
        if s.hif.up ∧ ¬ s.hif.resumePending then freeTag e.1 l (writeCompl e.1 l s1) else freeTag e.1 l s1) s

/-- All rings of a tenant become DISABLED (R50), those a fetch read in flight returns to once it has returned: they drain, and its
entries complete TENANT_TEARDOWN (Table 02.21). -/
def stopRings (t : Nat) (s : State) : State :=
  modHif (fun h => { h with rings := Map.mapV (fun r x =>
    if r / 256 = t then { x with st := if x.st = .disabled ∨ (x.reads = [] ∧ x.resv = 0) then .disabled else .draining } else x) h.rings }) s

/-- A tenant's trace and tally contents go (Table 15.7). -/
def dropTrace (t : Nat) (s : State) : State :=
  modDbg (fun d => { d with
    samples := Map.mapV (fun _ l => l.filter (fun x => decide (x.tenant ≠ t))) d.samples,
    region := Map.keep (fun _ x => decide (x.tenant ≠ t)) d.region,
    written := Map.del d.written t, lost := Map.del d.lost t, sampling := without t d.sampling,
    tally := Map.del d.tally t }) s

/-- The items of Table 15.7, in its order. -/
def zeroItems : List Nat := [0, 1, 2, 3, 4, 5, 6, 7, 8]

/-- A tenant enters TEARDOWN (R50, R190, R416, R538): descriptors complete, rings stop, its work and memory go, its ports
close. -/
def teardown (t : Nat) (s : State) : State :=
  if (tenRec s t).st = .active ∨ (tenRec s t).st = .quarantine then
    let s1 := stopRings t (flushLive t s)
    let s2 := setTenRec t (fun x => { x with st := .teardown }) s1
    let s3 := dropTrace t (dropRacks t (stopTenant t s2))
    let s4 := forS ((tenHnds s3 t).map Prod.fst) dropHnd s3
    let s5 := match bindOf s4 t with
      | some b => csetReset .vnlPcl b (unbind b s4)
      | none => s4
    modSec (fun x => { x with zero := Map.put x.zero t zeroItems }) s5
  else s

/-- The commit groups of a tenant, by tenant number. -/
def tenGrps : List Grp := [.hifTen, .plnTq, .stpTen, .rckTen, .dbgTen]

/-- The tenant returns to FREE (R49, R187): its slots, segments and groups at their reset values, ZEROIZED recorded
(R562), the format tables bound to it too (R198). A fetch read of its rings in flight has returned by then: DESIGN CHOICE (log 146). -/
def tenantFree (t : Nat) (s : State) : State :=
  if (tenRec s t).st = .teardown ∧ tenReads s t = 0 then
    let s1 := forS (tenSlots s t) (fun ck s => modSlot ck.1 ck.2 (fun _ => {}) (csetReset .corSlot (ck.1 * 8 + ck.2) s)) s
    let s2 := forS (List.range (numDies s)) (fun d s => forS (tenSegs s d t) (fun g => csetReset .corTer (d * 64 + g)) s) s1
    let s3 := forS tenGrps (fun g => csetReset g t) s2
    let s4 := forS (List.range 256) (fun r => csetReset .rng (t * 256 + r)) s3
    let s4 := forS (List.range 16) (fun n s =>
      if cset s .fmt n 0 ≠ Grp.reset s.half .fmt 0 ∧ ¬ bitW (cset s .fmt n 0) 30 ∧ fldW (cset s .fmt n 0) 23 12 = t then csetReset .fmt n s
      else s) s4
    let s5 := modStp (fun x => { x with tens := Map.del x.tens t }) (modRck (fun r => { r with tens := Map.del r.tens t }) s4)
    retryTokens (record 0x0F01 t 0
      (modSec (fun x => { x with zero := Map.del x.zero t })
        (modHif (fun h => { h with tens := Map.del h.tens t, rings := Map.keep (fun r _ => decide (r / 256 ≠ t)) h.rings }) s5)))
  else s

/-- Every tenant bound to a function enters TEARDOWN (R98, R99). -/
def flrTenants (f : Nat → Bool) (s : State) : State :=
  forS (boundTens s) (fun t s => if f (tenFn s t) then teardown t s else s) s

/-! ## A fault message consumed by the owner (R456 steps 3 to 5) -/

/-- Tenants reached by the faults consumed in this cycle (Table 12.11). -/
def cycleReach (s : State) : List Nat :=
  (s.cel.up.flatMap (fun m => match m with | .fault _ _ _ _ ts true => ts | _ => [])).eraseDups
/-- Fails a step of each tenant reached, records and posts the fault, and stages the reset line of class 3 and 4, once: a fault found
while a reset is pending or in progress is covered by it (R460). -/
def consumeFault (src cls unit core : Nat) (tens : List Nat) (s : State) : State :=
  let rs := faultReason s src cls
  let det := cls + unit % 256 * 256 + core % 256 * 65536
  let s1 := forS tens (fun t => localFail t rs) s
  let s2 := record 0x0C00 src det (forS tens (fun t => postEvent t 0x0C00 src det) s1)
  let s3 := upMsg (.event 7 0 0 tens src det) s2
  let s4 := if 3 ≤ cls ∧ s.err.resetPend.isSome ∧ s.err.resetOn = none ∧ ¬ s.cel.staged.contains (.resetLine) then
      modErr (fun x => { x with reached := (tens ++ cycleReach s).eraseDups }) (modCel (fun c => { c with staged := c.staged ++ [.resetLine] }) s3)
    else if s.err.resetPend.isSome ∨ s.err.resetOn.isSome then
      modErr (fun x => { x with reached := x.reached ++ tens.filter (fun t => !memb t x.reached) }) s3
    else s3
  if src = 0x06 then forS (activeTens s4) teardown s4 else s4

/-! ## The compute complex reset (R457, Table 12.3) -/

/-- The owner asserts the reset line: contexts, banks and terraces become zero; press lines have been written to their
stacks, those with an uncorrectable error are dropped and their blocks poisoned. -/
def complexReset (s : State) : State :=
  let src := s.err.resetPend.getD 0
  let s1 := forS (List.range (numCores s)) (fun c s =>
    let k := (coreRec s c).slot
    let lost := slotValid s c k && decide ((coreRec s c).st ≠ .fenced) && !(coreRec s c).empty
    let s := zeroBank c (zeroContext c s)
    modCore c (fun x => { x with st := if x.st = .fenced ∨ x.st = .absent then x.st else .idle })
      (if lost then modSlot c k (fun x => { x with image := false }) s else s)) s
  let s2 := forS (s1.pln.press.filter PressLine.bad) (fun l => modPage l.hnd (l.line / 32768) (fun x =>
    { x with poison := addOnce (l.line % 32768 / 64) x.poison }))
    (forS (List.range (numDies s)) (fun d => modMem (fun m => memZero m (terKey d 0 0) (64 * 0x100000))) s1)
  modErr (fun x => { x with fence := true, resetOn := some src, resetPend := none, resetAt := nowT s, resetDie := s.cel.own, resetTick := s.tick,
                            complexResets := satAdd 32 x.complexResets 1 })
    (modPln (fun p => { p with
      press := [], stk := Map.mapV (fun _ k => { k with resetSince := true }) p.stk }) s2)

/-- The reset line is released: COMPLEX_RESET to each tenant reached, and with detail [8] to every other ACTIVE tenant
with a segment or a slot, whose resident images are zeroized (R457). -/
def complexRelease (s : State) : State :=
  match s.err.resetOn with
  | none => s
  | some src =>
    let others := (activeTens s).filter (fun t => !memb t s.err.reached &&
      (!(tenSlots s t).isEmpty || (List.range (numDies s)).any (fun d => !(tenSegs s d t).isEmpty)))
    let s1 := forS s.err.reached (fun t => noteT t 0x0C03 0 src) s
    let s2 := forS others (fun t s =>
      noteT t 0x0C03 0 (src + 256) (forS (tenSlots s t) (fun ck s =>
        if (slotRec s ck.1 ck.2).image then s else zeroHandle (slotImg s ck.1 ck.2) s) s)) s1
    pump (modErr (fun x => { x with fence := false, resetOn := none, reached := [] }) s2)

end Sys2Proof.Machine
end

