-- ==== Sys2Proof/Machine/CelOps.lean ====
section
/-!
DEFINITION. Machine/CelOps.lean: verdicts on neighbouring modules (R439, R440), heartbeats heard, the wilt list's peers.
-/
namespace Sys2Proof.Machine

/-! ## Peers (R438, R439) -/

/-- The service-peer entry word (Table 11.17). -/
def svcWord (s : State) (e : Nat) : Word := cset s .celSvc e 0
def svcValid (s : State) (e : Nat) : Bool := bitW (svcWord s e) 31
/-- A valid entry that names a module. -/
def svcNames (s : State) (e : Nat) : Bool := svcValid s e && !(bitW (svcWord s e) 30)
/-- Valid service-peer entries. -/
def svcPeers (s : State) : List Nat := (List.range 32).filter (svcValid s)
/-- The entry that names a module. -/
def svcOf (s : State) (m : Nat) : Option Nat :=
  (List.range 32).find? (fun e => svcNames s e && decide (fldW (svcWord s e) 19 0 = m))

/-- The module behind a slot of a binding, by its member table. -/
def nbrMod (s : State) (b k : Nat) : Option Nat :=
  match (bindSplitT s b).slots[k]? with
  | none => none
  | some e =>
    match (bindRec s b).members[slotNbr (bindSplitT s b) (bindCoord s b) e]? with
    | some (m, true) => some m
    | _ => none
/-- Every slot of the valid bindings as (binding, slot). -/
def allSlots (s : State) : List (Nat × Nat) :=
  (List.range 4).flatMap (fun b =>
    if bindValid s b then (List.range (bindSplitT s b).slots.length).map (fun k => (b, k)) else [])
/-- Slots whose neighbour is module m. -/
def peerSlots (s : State) (m : Nat) : List (Nat × Nat) :=
  (allSlots s).filter (fun x => decide (nbrMod s x.1 x.2 = some m))
/-- Tenants of the bindings in which module m is a slot neighbour. -/
def peerTens (s : State) (m : Nat) : List Nat := ((peerSlots s m).map (fun x => bindTen s x.1)).eraseDups

/-- Where the verdict on module m is kept: its entry, else its first slot. -/
def peerKey (s : State) (m : Nat) : Option Nat :=
  match svcOf s m with
  | some e => some e
  | none => (peerSlots s m).head?.map (fun x => 32 + x.1 * 16 + x.2)
def peerRec (s : State) (key : Nat) : Peer := Map.get {} s.pol.peers key
def modPeer (key : Nat) (f : Peer → Peer) (s : State) : State :=
  modPol (fun p => { p with peers := Map.upd {} p.peers key f }) s

/-- The verdict that the paths of module m give (Table 11.7). -/
def verdictOf (s : State) (m key : Nat) : Nat :=
  let x := peerRec s key
  let slots := peerSlots s m
  let link := !slots.isEmpty && slots.all (fun k => memb (k.1 * 16 + k.2) s.pol.slotSilent)
  let svc := decide (key < 32) && x.svcSilent
  if !x.heard then 0 else if link && svc then 4 else if link then 2 else if svc then 3 else 1

/-- A verdict that changed is delivered to the fault-response machine, posted and recorded (R440, R443). A first judgement
of ALIVE is no return to 1 and delivers nothing (DEDUCED, log 78). -/
def verdictNote (m old v : Nat) (s : State) : State :=
  let tens := peerTens s m
  let code := if v = 1 then 0x0B06 else if v = 4 then 0x0B05 else 0x0B04
  let det := if v = 2 ∨ v = 3 then v else 0
  if v = 1 ∧ old = 0 then s
  else
    record code m det (forS tens (fun t => postEvent t code m det)
      (upEvent 7 0 (if v = 1 then 3 else if v = 4 then 2 else 1) tens m v s))
/-- Judges module m again. -/
def judgePeer (m : Nat) (s : State) : State :=
  match peerKey s m with
  | none => s
  | some key =>
    let old := (peerRec s key).verdict
    let v := verdictOf s m key
    if v = old ∨ v = 0 then s else verdictNote m old v (modPeer key (fun x => { x with verdict := v }) s)

/-- A heartbeat on a slot, over its ports or diverted (R280, R301). -/
def slotHeard (b k : Nat) (s : State) : State :=
  let s1 := modPol (fun p => { p with slotSilent := without (b * 16 + k) p.slotSilent }) s
  match nbrMod s b k with
  | none => s1
  | some m =>
    match peerKey s1 m with
    | none => s1
    | some key => judgePeer m (modPeer key (fun x => { x with heard := true }) s1)

/-- A slot has not been heard for 500 µs (R439). -/
def slotGone (b k : Nat) (s : State) : State :=
  let s1 := modPol (fun p => { p with slotSilent := addOnce (b * 16 + k) p.slotSilent }) s
  match nbrMod s b k with
  | none => s1
  | some m => judgePeer m s1

end Sys2Proof.Machine
end

