-- ==== Sys2Proof/Machine/Time.lean ====
section
/-!
DEFINITION. Machine/Time.lean: the time base, its sources and holdover (R512 to R524), time stamps (R527), triggers (R528 to
R538).
-/
namespace Sys2Proof.Machine

/-! ## The counter (R512, R518) -/

/-- A signed offset in units of 2^-32 ns is added to the time base; below zero it stands at zero. -/
def addTime (d : Int) (s : State) : State :=
  let t : Int := ((s.tim.s * 1000000000 + s.tim.ns) * 2 ^ 32 + s.tim.frac : Nat)
  let n := (t + d).toNat
  modTim (fun x => { x with
    s := n / 2 ^ 32 / 1000000000 % 2 ^ 64, ns := n / 2 ^ 32 % 1000000000, frac := n % 2 ^ 32 }) s

/-- The committed increment in units of 2^-32 ns. -/
def timIncr (s : State) : Nat := fldW (cset s .tim 0 1) 7 0 * 2 ^ 32 + (cset s .tim 0 0).toNat
def timSrc (s : State) : Word := cset s .tim 0 6
def timDisc (s : State) : Word := cset s .tim 0 4

/-- TIM_UNC (R523). -/
def timUnc (s : State) : Nat :=
  match s.tim.holdUnc with
  | none => fldW (cset s .tim 0 5) 15 0
  | some u =>
    if s.tim.holdover then min (2 ^ 32 - 1) (u + fldW (timDisc s) 15 8 * ((s.tick - s.tim.holdAt) * 4) / 10000000) else u

/-- An offset has been applied whole: the first one committed after holdover ended returns the uncertainty to unc_base
(R523). -/
def offsetApplied (s : State) : State :=
  modTim (fun x => { x with holdUnc := if x.backOffset ∧ ¬ x.holdover then none else x.holdUnc, backOffset := false }) s

/-- One TCLK edge (R512, R518): the increment, and while slewing slew_ppm of it toward the offset. -/
def tickTime (s : State) : State :=
  let i := timIncr s
  let d : Int := (i * fldW (timDisc s) 23 16 / 1000000 : Nat)
  let sl := s.tim.slew
  let part := if sl = 0 then 0 else if 0 < sl then min d sl else max (-d) sl
  let s1 := addTime (i + part) { modTim (fun x => { x with slew := x.slew - part }) s with tick := s.tick + 1 }
  if sl ≠ 0 ∧ sl = part then offsetApplied s1 else s1

/-- SLEW_DONE: a slew has applied its whole offset (R518). -/
def execSlewDone (s : State) : Answer :=
  iodClocked s (.next (if s.tim.slew = 0 then s else offsetApplied (addTime s.tim.slew (modTim (fun x => { x with slew := 0 }) s))))

/-- An event to every ACTIVE tenant and the book. -/
def noteAll (code subject detail : Nat) (s : State) : State :=
  record code subject detail (forS (activeTens s) (fun t => postEvent t code subject detail) s)

/-- A committed offset is stepped (R518, R531): the triggers it passes are marked late. -/
def stepTime (ofs : Int) (s : State) : State :=
  let s1 := addTime (ofs * 2 ^ 32) s
  let s2 := modTim (fun x => { x with
    steps := satAdd 32 x.steps 1,
    trigs := Map.mapV (fun _ y => if y.st = 2 ∧ y.target.total ≤ (nowT s1).total ∧ (nowT s).total < y.target.total then
      { y with stepped := true } else y) x.trigs }) s1
  offsetApplied (noteAll 0x0E01 0 (ofs % 2 ^ 64).toNat s2)

/-- A committed offset in nanoseconds (R517, R518): it cancels the rest of a slew; zero changes nothing. -/
def applyOffset (ofs : Int) (s : State) : State :=
  if ofs = 0 then s
  else
    let s1 := modTim (fun x => { x with slew := 0, set := true, backOffset := !x.holdover }) s
    if ofs.natAbs < 100000 ∧ ¬ bitW (timDisc s) 31 then modTim (fun x => { x with slew := ofs * 2 ^ 32 }) s1
    else stepTime ofs s1

/-- TIM_NOW_NS is read: the seconds of the same tick are latched (R514). -/
def execTimNowNs (acc : Acc) (s : State) : Answer :=
  .next (if blockOpen s acc 14 then emit (.value s.tim.ns) (modTim (fun x => { x with latch := x.s }) s) else emit (.value 0) s)

/-! ## Sources and holdover (R519 to R523) -/

/-- Holdover begins or ends with the locks (R522, R523). -/
def checkHold (s : State) : State :=
  let h := s.tim.everLocked && !s.tim.tpinLock && !s.tim.ntpLock
  if h = s.tim.holdover then s
  else
    let u := timUnc s
    noteAll 0x0E02 0 (b2n h + u * 2 ^ 32)
      (modTim (fun x => { x with holdover := h, holdAt := s.tick, holdUnc := some u, backOffset := false }) s)

/-- TP_IN_EDGE with the width of its pulse in ns: captured, and judged against the edge before it (R519, R520). -/
def tpEdge (width : Nat) (s : State) : State :=
  if width < 1000 then s
  else
    let now := nowT s
    let s1 := modTim (fun x => { x with capture := now, edge := some now }) s
    if bitW (timSrc s) 31 then
      let good := match s.tim.edge with
        | some e =>
          let d : Int := (now.total : Int) - e.total - 1000000000
          decide (d.natAbs ≤ fldW (timSrc s) 15 8 * 1000)
        | none => false
      let n := if good then s.tim.good + 1 else 0
      checkHold (modTim (fun x => { x with
        good := n, miss := if good then 0 else x.miss, tpinLock := x.tpinLock || decide (3 ≤ n),
        everLocked := x.everLocked || decide (3 ≤ n) }) s1)
    else s1
/-- TP_IN_EDGE. -/
def execTpInEdge (width : Nat) (s : State) : Answer := iodClocked s (.next (tpEdge width s))

/-- TPIN_MISS: a second without such an edge; the second in a row clears tpin_lock (R520, Table 14.5). -/
def execTpinMiss (s : State) : Answer :=
  iodClocked s (.next (if bitW (timSrc s) 31 then
      let s1 := modTim (fun x => { x with good := 0, miss := x.miss + 1, tpinMiss := satAdd 32 x.tpinMiss 1 }) s
      if 2 ≤ s1.tim.miss ∧ s1.tim.tpinLock then checkHold (record 0x0E04 0 0 (modTim (fun x => { x with tpinLock := false }) s1))
      else s1
    else s))

/-- TIM_NTP_OK (R521). -/
def execTimNtpOk (acc : Acc) (s : State) : Answer :=
  .next (if blockOpen s acc 14 then checkHold (modTim (fun x => { x with ntpLock := true, everLocked := true }) s) else s)
/-- NTP_TIMEOUT (R521). -/
def execNtpTimeout (s : State) : Answer := iodClocked s (.next (checkHold (modTim (fun x => { x with ntpLock := false }) s)))

/-- TP_OUT_RISE at a tick on which the seconds count increments (R524). -/
def execTpOutRise (s : State) : Answer :=
  iodClocked s (.next (if bitW (timSrc s) 30 ∧ s.tim.set then modTim (fun x => { x with tpOut := true }) s else s))
/-- TP_OUT_FALL 100 ms after its rise (R524). -/
def execTpOutFall (s : State) : Answer := iodClocked s (.next (modTim (fun x => { x with tpOut := false }) s))

/-- TIM_TXQ_POP (R527). -/
def execTimTxqPop (acc : Acc) (s : State) : Answer :=
  .next (if blockOpen s acc 14 then modTim (fun x => { x with txq := x.txq.drop 1 }) s else s)
/-- A service frame's transmit stamp (R527). -/
def txStamp (id : Nat) (s : State) : State :=
  modTim (fun x => if x.txq.length < 32 then { x with txq := x.txq ++ [(id, ⟨x.s, x.ns⟩)] }
    else { x with txOvf := satAdd 32 x.txOvf 1 }) s

/-! ## Triggers (R528 to R538) -/

/-- The first failing check of R536 as (status, detail), for a descriptor attached to a step. -/
def armFault (s : State) (t : Nat) (st : Option Nat) (d : List Byte) : Option (Nat × Nat) :=
  let per := fieldAt d 28 4
  let mode := bitsOf (fieldAt d 32 1) 3 0
  let g := fieldAt d 34 6
  let opened := match (tstep s t).next with | some n => n | none => 0
  let low : Bool := decide (g < opened) || (match st with | some n => decide (g ≤ n) | none => false)
  if 1000000000 ≤ fieldAt d 24 4 then some (stBAD_FIELD, 24)
  else if (per ≠ 0 ∧ per < 1000) ∨ (mode = 1 ∧ per ≠ 0) then some (stBAD_FIELD, 28)
  else if 3 < mode then some (stBAD_FIELD, 32)
  else if mode = 1 ∧ low then some (stBAD_FIELD, 34)
  else if ¬ s.tim.set then some (0x0802, 0)
  else if 8 ≤ (tenTrigs s t).length ∨ (List.range 64).all (fun k => decide (k < 8) || decide ((trigRec s k).st ≠ 0)) then some (0x0800, 0)
  else none

/-- TRIG_ARM (R535 to R537): the lowest free trigger, PENDING with an undrawn step, else ARMED. -/
def execTrigArm (tag : Nat) (s : State) : Answer :=
  .next (startDesc tag 0x70 (fun s =>
    match liveRec s tag with
    | none => s
    | some l =>
      let t := liveTen l
      let d := l.desc
      match armFault s t l.step d with
      | some f => done tag f.1 f.2 0 s
      | none =>
        match (List.range 64).find? (fun k => decide (8 ≤ k) && decide ((trigRec s k).st = 0)) with
        | none => done tag 0x0800 0 0 s
        | some k =>
          let mode := bitsOf (fieldAt d 32 1) 3 0
          done tag stOK 0 k (modTrig k (fun _ => {
            st := if l.step.isSome then 1 else 2, mode := mode, tenant := t, target := ⟨fieldAt d 16 8, fieldAt d 24 4⟩,
            period := fieldAt d 28 4, posts := (d.drop 40).take 6, step := l.step,
            gate := if mode = 1 then some (fieldAt d 34 6) else none, arg := fieldAt d 33 1 % 4 }) s)) s)

/-- What a cancel finds (R538, Table 14.8): none: not held; else whether a one-shot trigger had already fired. -/
def cancelSees (s : State) (t k : Nat) : Option Bool :=
  let x := trigRec s k
  if k < 8 ∨ x.tenant ≠ t then none
  else if x.st ≠ 0 then some (decide (x.st = 3) && decide (x.period = 0))
  else if x.firedAt = some s.tick then some true else none
/-- TRIG_CANCEL (R537, R538): at once when unattached, else recorded for its draw. -/
def execTrigCancel (tag : Nat) (s : State) : Answer :=
  .next (startDesc tag 0x71 (fun s =>
    match liveRec s tag with
    | none => s
    | some l =>
      let t := liveTen l
      let k := fieldAt l.desc 16 1 % 64
      match cancelSees s t k with
      | none => done tag 0x0801 0 0 s
      | some b =>
        if l.step.isSome then done tag stOK 0 0 s
        else wakeOpens t (done tag stOK 0 (b2n b) (modTrig k (fun _ => {}) s))) s)

/-- A trigger of the owner Cellarer fires: an interval boundary (R500), Frost or trace (R578, R592), or the strobe's
alignment (R427). -/
def ownerTrig (k : Nat) (late : Bool) (s : State) : State :=
  if k = 1 then upMsg (.boundary late) s
  else if 2 ≤ k then trigDebug k s
  else s

/-- TRIGGER_FIRE: an ARMED trigger whose target the time base has reached acts, waits or goes on (R530 to R534, R660). -/
def fireTrig (k : Nat) (s : State) : State :=
  let x := trigRec s k
  if x.st = 2 ∧ x.target.total ≤ (nowT s).total then
    let n := lateNs s x
    let late := x.stepped || decide (1000 < n)
    let s1 := modTrig k (fun y => { y with late := late, lateness := min n (2 ^ 32 - 1), stepped := false }) s
    if k < 8 then ownerTrig k late (rearm k s1)
    else if trigWaits s x then modTrig k (fun y => { y with st := 3 }) s1
    else if x.mode = 1 then wakeOpens x.tenant (rearm k s1)
    else rearm k (trigAct k s1)
  else s
/-- TRIGGER_FIRE. -/
def execTriggerFire (k : Nat) (s : State) : Answer := iodClocked s (.next (fireTrig k s))

end Sys2Proof.Machine
end

