-- ==== Sys2Proof/Machine/Tables.lean ====
section
/-!
DEFINITION. Machine/Tables.lean: trellis tables: the bounds each type keeps (R441, R442, R495, R498), installing and unloading
(R445, R446), the curves and caps read from them (R489, R494, R499).
-/
namespace Sys2Proof.Machine

/-! ## Envelope and intervals (R42, R498 to R501) -/

def envelope (s : State) : Nat := if s.half then 600 else 1200
/-- Length of a demand interval by the interval code, in seconds. -/
def ivLen (c : Nat) : Nat := if c = 0 then 300 else if c = 1 then 900 else if c = 2 then 1800 else 3600
def ivNow (s : State) : Nat := ivLen (fldW (cset s .pwr 0 0) 17 16)

/-- Entry i of a TARIFF body: start minute, cap, class. -/
def tarEntry (b : List Byte) (i : Nat) : Nat × Nat × Nat :=
  let e := fieldAt b (8 + 8 * i) 8
  (bitsOf e 10 0, bitsOf e 31 16, bitsOf e 35 32)
def tarCount (b : List Byte) : Nat := fieldAt b 0 1
/-- Every start is a multiple of an interval length in seconds. -/
def tarFits (b : List Byte) (len : Nat) : Bool :=
  (List.range (tarCount b)).all (fun i => decide ((tarEntry b i).1 * 60 % len = 0))

/-! ## Bounds (R442) -/

/-- R197's checks on a FORMAT body, its BUSY left out. -/
def fmtBodyOk (s : State) (w : Nat → Nat) : Bool :=
  !(bitOf (w 0) 31) ||
    (decide (bitsOf (w 0) 9 8 ≠ 3)
    && (List.range 256).all (fun c =>
      let e := w (c + 1)
      (decide (e % 256 < 64) || decide (192 ≤ e % 256)) && !(bitOf e 31 && bitOf e 30)
        && (decide (c < 2 ^ (4 + 2 * bitsOf (w 0) 9 8)) || decide (e = 0)))
    && (bitOf (w 0) 30 || tenActive s (bitsOf (w 0) 23 12)))

/-- A THROTTLE body: levels 1 to 8, entries in their ranges, offsets ascending, rates not rising. -/
def throttleOk (b : List Byte) : Bool :=
  let n := fieldAt b 0 1
  let e := fun i => fieldAt b (4 + 4 * i) 4
  decide (b.length = 36) && decide (1 ≤ n) && decide (n ≤ 8)
  && (List.range n).all (fun i => decide (bitsOf (e i) 7 0 ≤ 19) && decide (32 ≤ bitsOf (e i) 16 8) && decide (bitsOf (e i) 16 8 ≤ 256)
      && decide (bitsOf (e i) 31 17 = 0))
  && (List.range (n - 1)).all (fun i => decide (bitsOf (e i) 7 0 < bitsOf (e (i + 1)) 7 0)
      && decide (bitsOf (e (i + 1)) 16 8 ≤ bitsOf (e i) 16 8))

def curveFmax (b : List Byte) : Nat := fieldAt b 0 1
def curveMv (b : List Byte) (k : Nat) : Nat := fieldAt b (8 + 2 * k) 2
/-- A VF_CURVE body for die d (R495). -/
def vfOk (d : Nat) (b : List Byte) : Bool :=
  decide (b.length = 64) && decide (curveFmax b ≤ 24)
  && (List.range (curveFmax b + 1)).all (fun k => decide (600 ≤ curveMv b k) && decide (curveMv b k ≤ Config.fusedVmax d))
  && (List.range (curveFmax b)).all (fun k => decide (curveMv b k ≤ curveMv b (k + 1)))
  && (List.range 25).all (fun k => decide (k ≤ curveFmax b) || decide (curveMv b k = 0))

/-- A TARIFF body (R498). -/
def tariffOk (s : State) (b : List Byte) : Bool :=
  let n := tarCount b
  decide (b.length = 392) && decide (1 ≤ n) && decide (n ≤ 48) && decide ((tarEntry b 0).1 = 0)
  && (List.range n).all (fun i =>
      let e := fieldAt b (8 + 8 * i) 8
      decide (e = bitsOf e 10 0 + bitsOf e 31 16 * 2 ^ 16 + bitsOf e 35 32 * 2 ^ 32) && decide (bitsOf e 10 0 < 1440)
      && decide (300 ≤ bitsOf e 31 16) && decide (bitsOf e 31 16 ≤ envelope s))
  && (List.range (n - 1)).all (fun i => decide ((tarEntry b i).1 < (tarEntry b (i + 1)).1))
  && (List.range (48 - n)).all (fun i => decide (fieldAt b (8 + 8 * (n + i)) 8 = 0))
  && tarFits b (ivNow s)

/-- Actions defined for a state-machine type (Tables 11.12, 13.7). -/
def smActions (typ : Nat) : List Nat :=
  if typ = 7 then [0, 1, 2, 3, 4] else if typ = 8 then [0, 1, 2, 0x10, 0x11, 0x12, 0x13] else [0, 1, 2, 4, 0x20, 0x21, 0x22, 0x23]
/-- A state-machine body (Table 11.10). -/
def smOk (typ : Nat) (b : List Byte) : Bool :=
  let n := fieldAt b 0 1
  let k := fieldAt b 1 1
  decide (1 ≤ n) && decide (n ≤ 32) && decide (1 ≤ k) && decide (k ≤ 64) && decide (fieldAt b 2 1 < n)
  && decide (b.length = 8 + 4 * n * k)
  && (List.range (n * k)).all (fun i =>
      let e := fieldAt b (8 + 4 * i) 4
      decide (bitsOf e 7 0 < n) && memb (bitsOf e 15 8) (smActions typ) && memb (bitsOf e 23 16) (smActions typ)
        && memb (bitsOf e 31 24) (smActions typ))

/-- Type and number lie in Table 11.9. -/
def tableNamed (typ n : Nat) : Bool :=
  if typ = 1 then decide (n ≤ 15)
  else if memb typ [2, 3, 4, 7, 8, 9] then decide (1 ≤ n) && decide (n ≤ 15)
  else if typ = 5 then decide (n ≤ 3)
  else decide (typ = 6) && decide (n = 0)

/-- Word i of a FORMAT body, its reserved bits ignored (R11, R197). -/
def fmtWord (b : List Byte) (i : Nat) : Word := wordOf (fieldAt b (4 * i) 4) &&& Grp.mask .fmt i
/-- The bounds of a body (R442). -/
def bodyOk (s : State) (typ n : Nat) (b : List Byte) : Bool :=
  if typ = 1 then decide (b.length = 1028) && fmtBodyOk s (fun i => (fmtWord b i).toNat)
  else if typ = 2 then decide (b.length = 8)
  else if typ = 3 then throttleOk b
  else if typ = 4 then splitOk s.half b
  else if typ = 5 then vfOk n b
  else if typ = 6 then tariffOk s b
  else smOk typ b

/-- The header's own fields (Table 11.8): type, number, version, CRC of the body; its reserved bytes are ignored (R11). -/
def headerOk (typ n : Nat) (h b : List Byte) : Bool :=
  decide (fieldAt h 0 1 = typ) && decide (fieldAt h 1 1 = n) && decide (fieldAt h 2 1 = 1)
  && decide (fieldAt h 8 4 = (crc32c b).toNat)

/-! ## Use (R446) -/

/-- A launch in progress names format table n (R197). -/
def fmtInUse (s : State) (n : Nat) : Bool := s.cor.launches.any (fun l => memb n l.tables)
/-- A valid binding names port split table n. -/
def splitInUse (s : State) (n : Nat) : Bool := (List.range 4).any (fun b => bindValid s b && decide (bindSplit s b = n))
/-- A load that replaces a table reports BUSY (R446). -/
def loadBusy (s : State) (typ n : Nat) : Bool := (decide (typ = 1) && fmtInUse s n) || (decide (typ = 4) && splitInUse s n)
/-- A committed selector names a table (R446). -/
def tableSelected (s : State) (typ n : Nat) : Bool :=
  if typ = 1 then fmtInUse s n
  else if typ = 2 then decide (fldW (cset s .pln 0 0) 3 0 = n)
  else if typ = 3 then decide (fldW (cset s .memTherm 0 0) 19 16 = n)
  else if typ = 4 then splitInUse s n
  else if typ = 6 then bitW (cset s .pwr 0 0) 31
  else if typ = 7 then decide (fldW (cset s .cel 0 0) 3 0 = n)
  else if typ = 8 then decide (fldW (cset s .cel 0 0) 7 4 = n)
  else if typ = 9 then decide (fldW (cset s .pwr 0 0) 27 24 = n)
  else false

/-! ## Curves (R494, R496) -/

def dieP (s : State) (d : Nat) : DieP := Map.get {} s.pwr.dies d
def modDie (d : Nat) (f : DieP → DieP) (s : State) : State := modPwr (fun p => { p with dies := Map.upd {} p.dies d f }) s
/-- CCLK step of a die in force; 18 after start-up (PRESUMED the factory curve's top step, log 40). -/
def dieStep (s : State) (d : Nat) : Nat := Map.get 18 s.cor.cclk d
/-- Top step of a die's plan. -/
def fmaxStep (s : State) (d : Nat) : Nat := if (tableRec s 5 d).loaded then curveFmax (tableBody s 5 d) else 18
/-- Voltage of a step on a die's curve in force. -/
def curveVolt (s : State) (d k : Nat) : Nat :=
  if (tableRec s 5 d).loaded then curveMv (tableBody s 5 d) k else Config.factoryVolt d k

/-! ## State machines (R443, R446) -/

/-- The table in force of a machine type. -/
def smSel (s : State) (typ : Nat) : Nat :=
  if typ = 7 then fldW (cset s .cel 0 0) 3 0 else if typ = 8 then fldW (cset s .cel 0 0) 7 4 else fldW (cset s .pwr 0 0) 27 24
/-- The built-in entry of an event: its actions (R444, R508). -/
def smBuiltin (typ e : Nat) : List Nat :=
  if typ = 7 then
    if memb e [0, 1, 4, 7] then [1, 2] else if e = 2 then [1, 2, 3] else if memb e [3, 5, 6] then [1] else if e = 8 then [2] else []
  else if typ = 8 then if e = 3 then [1, 0x13] else if e = 4 then [0x10, 0x11] else []
  else if e = 3 ∨ e = 4 then [1, 2] else if e = 5 ∨ e = 6 then [1] else []
/-- The next state and actions for an event in a state (Table 11.10). -/
def smStep (s : State) (typ st e : Nat) : Nat × List Nat :=
  let n := smSel s typ
  if n = 0 then (0, smBuiltin typ e)
  else
    let b := tableBody s typ n
    if fieldAt b 1 1 ≤ e then (st, [])
    else
      let x := fieldAt b (8 + 4 * (st * fieldAt b 1 1 + e)) 4
      (bitsOf x 7 0, ([bitsOf x 15 8, bitsOf x 23 16, bitsOf x 31 24]).filter (fun a => decide (a ≠ 0)))
/-- A state that a machine's table has, else the initial one (R446). -/
def smClip (s : State) (typ st : Nat) : Nat :=
  let n := smSel s typ
  if n = 0 then 0 else if st < fieldAt (tableBody s typ n) 0 1 then st else fieldAt (tableBody s typ n) 2 1
/-- Every machine's state is one its table in force has. -/
def smFix (s : State) : State :=
  modPol (fun p => { p with frSt := smClip s 7 p.frSt, pmSt := smClip s 9 p.pmSt, lkSt := Map.mapV (fun _ x => smClip s 8 x) p.lkSt }) s

/-! ## Installing (R445, R446, R496) -/

/-- The words of a FORMAT body become the committed set of its table (R197). -/
def setFormat (n : Nat) (b : List Byte) (s : State) : State :=
  csetAll .fmt n ((List.range 257).map (fmtWord b))
    (modCor (fun c => { c with fmtGen := Map.upd 0 c.fmtGen n (fun g => (g + 1) % 65536) }) s)
/-- A checked table is installed from a source (1 firmware slot, 2 policy firmware, 3 host driver). -/
def install (typ n src : Nat) (b : List Byte) (s : State) : State :=
  let s1 := modPol (fun p => { p with tables := Map.upd {} p.tables (typ * 16 + n) (fun x =>
    { loaded := true, source := src, gen := (x.gen + 1) % 65536, body := b }) }) s
  let s2 := record 0x0B09 0 (typ + n * 2 ^ 4 + src * 2 ^ 8 + (tableRec s1 typ n).gen * 2 ^ 16) s1
  if typ = 1 then setFormat n b s2
  else if typ = 5 then
    let s3 := modDie n (fun d => { d with planAt := some s.tim.s }) (record 0x0D06 0 (n + curveFmax b * 2 ^ 8 + fieldAt b 1 1 * 2 ^ 16) s2)
    if dieStep s3 n ≤ curveFmax b then modDie n (fun d => { d with volt := curveMv b (dieStep s3 n) }) s3 else s3
  else if 7 ≤ typ then smFix s2
  else s2
/-- An installed table is unloaded; a format table's group returns to its reset values. -/
def unload (typ n : Nat) (s : State) : State :=
  let s1 := modPol (fun p => { p with tables := Map.upd {} p.tables (typ * 16 + n) (fun x => { x with loaded := false, source := 0, body := [] }) }) s
  if typ = 1 then csetReset .fmt n s1 else s1

/-! ## The cap in force (R489, R499, R506) -/

/-- The tariff is in force: enabled, loaded, the time base carries UTC. -/
def tariffOn (s : State) : Bool := bitW (cset s .pwr 0 0) 31 && (tableRec s 6 0).loaded && bitW (timSrc s) 29
/-- The entry in force at a UTC second. -/
def tarIndex (b : List Byte) (t : Nat) : Nat :=
  (((List.range (tarCount b)).filter (fun i => decide ((tarEntry b i).1 ≤ t % 86400 / 60))).getLast?).getD 0
/-- The demand cap of the interval in progress, in W. -/
def demandCap (s : State) (v : Interval) : Nat :=
  let left := (v.start + v.len) * 1000000000 - (nowT s).total
  if left = 0 then envelope s else (v.cap * v.len * 1000000 - (s.pwr.energy - v.e0)) * 1000 / left
/-- The cap in force. -/
def capNow (s : State) : Nat :=
  let w := fldW (cset s .pwr 0 0) 15 0
  let c := min (envelope s) (min w (s.pwr.fwCap.getD (envelope s)))
  if tariffOn s then
    match s.pwr.interval with
    | some v => min c (demandCap s v)
    | none => if s.pwr.lenChanged then c else min c (tarEntry (tableBody s 6 0) (tarIndex (tableBody s 6 0) s.tim.s)).2.1
  else c

end Sys2Proof.Machine
end

