-- ==== Sys2Proof/Machine/Commit.lean ====
section
/-!
DEFINITION. Machine/Commit.lean: COMMIT_APPLY: the checks of every commit group in the order its rule lists them, and what an
accepted commit does (R49, R56, R61 to R67 and the rule of each group).
-/
namespace Sys2Proof.Machine

/-! ## Results (R56, R62) -/

/-- One check: it holds, else the result code and the offset reported. -/
abbrev Check := Bool × Nat × Nat
/-- The first check that fails decides (R56). -/
def firstFail (l : List Check) : Option (Nat × Nat) := (l.find? (fun c => !c.1)).map Prod.snd
/-- A register of a snapshot. -/
def snapW (c : PendCommit) (i : Nat) : Word := c.snap.getD i 0
def snapF (c : PendCommit) (i hi lo : Nat) : Nat := fldW (snapW c i) hi lo
def snapB (c : PendCommit) (i b : Nat) : Bool := bitW (snapW c i) b
/-- Offset of register i of a commit's group; that of its selector, or of its lowest register. -/
def offOf (c : PendCommit) (i : Nat) : Nat := c.grp.offset c.win i
def offSel (c : PendCommit) : Nat := c.grp.selOffset c.win
/-- Sum of a number over the committed sets of a group's objects, one object left out. -/
def sumSets (s : State) (g : Grp) (i skip : Nat) (f : Word → Nat) : Nat :=
  (s.grp.sets.map (fun e =>
    if keyGrp e.1 = g.idx ∧ e.1 % 512 = i ∧ keyObj e.1 ≠ skip then f e.2 else 0)).sum

/-! ## Tenants and rings (R47, R49, R52, R54, R64 to R67, R554, R565) -/

/-- The binding or PASID words of a tenant's snapshot differ from the committed ones. -/
def bindChanged (s : State) (t : Nat) (c : PendCommit) : Bool :=
  decide (snapW c 0 ≠ cset s .hifTen t 0) || decide (snapW c 1 ≠ cset s .hifTen t 1)
/-- The commit only clears valid. -/
def onlyUnbinds (s : State) (t : Nat) (c : PendCommit) : Bool :=
  !snapB c 0 31 && bitW (cset s .hifTen t 0) 31 && decide (snapW c 0 = cset s .hifTen t 0 &&& 0x7FFFFFFF)
    && decide (snapW c 1 = cset s .hifTen t 1)
/-- A tenant of another number bound to a function breaks R47 beside this PASID word. One in TEARDOWN counts as bound until it is FREE:
DESIGN CHOICE, R64 says so of the (VF, slot) pair alone (log 142). -/
def pasidClash (s : State) (t fn : Nat) (p : Word) : Bool :=
  (boundTens s).any (fun u => decide (u ≠ t) && decide (tenFn s u = fn)
    && (decide (pasidOf p = none) || decide (tenPasid s u = none) || decide (pasidOf p = tenPasid s u)))

/-- The checks of the tenant group (R54, R64, R65). -/
def hifTenChecks (s : State) (t : Nat) (c : PendCommit) : List Check :=
  let fn := snapF c 0 13 8
  let slot := snapF c 0 7 0
  let st := (tenRec s t).st
  let live := decide (st = .active) || decide (st = .quarantine)
  [ (decide (s.sec.life ≠ .blank) && decide (s.sec.life ≠ .retired), cDENIED, offSel c),
    (!(decide (st ≠ .free) && tdiLocked s (tenFn s t)) || onlyUnbinds s t c, cDENIED, offSel c),
    (decide (fn = 0) || (s.hif.vfEnable && decide (fn ≤ s.hif.numVfs)), cRANGE, offOf c 0),
    (decide (fn ≠ 0) || decide (slot = 0), cRANGE, offOf c 0),
    (decide (fn = 0) || !(boundTens s).any (fun u => decide (u ≠ t) && decide (tenFn s u = fn) && decide (tenSlot s u = slot)),
      cNORES, offOf c 0),
    (!snapB c 0 31 || !pasidClash s t fn (snapW c 1), cCONFLICT, offOf c 0),
    (!bindChanged s t c || decide (st = .free) || (live && onlyUnbinds s t c), cBUSY, offOf c 0),
    (decide (1 ≤ snapF c 2 20 0) && decide (snapF c 2 20 0 ≤ 0x100000), cRANGE, offOf c 2),
    (!snapB c 3 31 || decide (ringType s (t * 256 + snapF c 3 7 0) = 2), cCONFLICT, offOf c 3),
    (decide (((activeTens s).map (fun u => if u = t then 0 else tenShare s u)).sum
        + (if snapB c 0 31 ∧ (st = .free ∨ st = .active) then snapF c 2 28 21 else 0) ≤ 256), cCONFLICT, offOf c 2) ]

/-- A committed tenant group: a FREE tenant becomes ACTIVE with a T2 key drawn (R49, R554); one whose valid was cleared is
torn down (R49), and a locked TDI of its function enters ERROR (R54), which tears down its other tenants too (R551). -/
def hifTenApply (t : Nat) (c : PendCommit) (s : State) : State :=
  let st := (tenRec s t).st
  let fn := tenFn s t
  let s1 := csetAll .hifTen t c.snap s
  if st = .free ∧ snapB c 0 31 then
    modSec (fun x => { x with t2keys := addOnce t x.t2keys })
      (modHif (fun h => { h with vfIgnore := without (snapF c 0 13 8) h.vfIgnore })
        (setTenRec t (fun x => { x with st := .active, fn := snapF c 0 13 8, slot := snapF c 0 7 0, pasid := cset s1 .hifTen t 1 }) s1))
  else if (st = .active ∨ st = .quarantine) ∧ ¬ snapB c 0 31 then
    let s2 := teardown t s1
    if tdiLocked s fn then
      forS (boundTens s2) (fun u s => if tenFn s u = fn then teardown u s else s) (modSec (fun x => { x with tdi := Map.put x.tdi fn 3 }) s2)
    else s2
  else s1

/-- The checks of the ring group (R52, R54, R66). The RANGE of type 3 (Table 02.10) stands in no list: DESIGN CHOICE, it is joined to that of
log2_size (log 143). -/
def rngChecks (s : State) (r : Nat) (c : PendCommit) : List Check :=
  let t := ringTen r
  let size := 2 ^ snapF c 2 4 0
  let typ := snapF c 2 9 8
  let en := snapB c 2 31
  let base := (snapW c 1).toNat * 0x100000000 + (snapW c 0).toNat
  let others := ((List.range 256).map (fun k => t * 256 + k)).filter (fun k => decide (k ≠ r))
  let on := fun k => bitW (ringCfg s k) 31
  [ (tenActive s t, cDENIED, offSel c),
    (!(decide (c.acc = 0) && tdiLocked s (tenFn s t)), cDENIED, offSel c),
    (decide (6 ≤ snapF c 2 4 0) && decide (snapF c 2 4 0 ≤ 16) && decide (typ ≠ 3), cRANGE, offOf c 2),
    (decide (base % max (size * if typ = 0 then 64 else 32) 4096 = 0), cCONFLICT, offOf c 0),
    (decide (snapF c 3 10 0 < if tenFn s t = 0 then 2048 else 256), cRANGE, offOf c 3),
    (!(en && decide (typ = 0)) || (on (t * 256 + snapF c 2 27 20) && decide (ringType s (t * 256 + snapF c 2 27 20) = 1)
        && decide (t * 256 + snapF c 2 27 20 ≠ r)), cCONFLICT, offOf c 2),
    (!(on r && !en && decide (ringType s r = 1)) || !others.any (fun k => decide (ringType s k = 0) && decide (ringCq s k = r)
        && decide ((ringRec s k).st ≠ .disabled)), cCONFLICT, offOf c 2),
    (!(en && decide (snapF c 2 13 12 = 0)) || decide ((others.filter (fun k => on k && decide (ringClass s k = 0))).length < 2),
      cNORES, offOf c 2),
    (!(evqOn s t && decide (evqRing s t = r)) || decide (typ = ringType s r), cCONFLICT, offOf c 2),
    (!(en && decide ((ringRec s r).st = .draining)), cBUSY, offOf c 2),
    (decide ((ringRec s r).st = .disabled)
        || (decide (snapW c 0 = cset s .rng r 0) && decide (snapW c 1 = cset s .rng r 1)
          && decide (snapW c 2 &&& 0x7FFFFFFF = ringCfg s r &&& 0x7FFFFFFF)), cBUSY, offOf c 0) ]

/-- A committed ring group (R67). -/
def rngApply (r : Nat) (c : PendCommit) (s : State) : State :=
  let st := (ringRec s r).st
  let s1 := csetAll .rng r c.snap s
  if snapB c 2 31 then
    if st = .disabled then modRing r (fun x => { st := .active, pasid := (tenRec s (ringTen r)).pasid, gen := x.gen + 1 }) s1 else s1
  else if st = .active ∨ st = .error then settleRing r (modRing r (fun x => { x with st := .draining }) s1)
  else s1

/-! ## Planter, quotas, reservations, thermal (R105, R122, R143, R144) -/

/-- The checks of the Planter group (Table 03.12). -/
def plnChecks (s : State) (c : PendCommit) : List Check :=
  [ (decide (1 ≤ snapF c 0 23 16) && decide (snapF c 0 23 16 ≤ 40), cRANGE, offOf c 0),
    (tableIn s 2 (snapF c 0 3 0), cCONFLICT, offOf c 0) ]

/-- The checks of the quota group (R144). -/
def plnTqChecks (s : State) (t : Nat) (c : PendCommit) : List Check :=
  let tot := (snapW c 0).toNat
  let flo := (snapW c 1).toNat
  let cap := (snapW c 2).toNat
  let hs := (snapW c 3).toNat
  [ (decide (flo ≤ cap) && decide (cap ≤ tot), cCONFLICT, offOf c 0),
    (decide (cap ≤ t0Pool s), cRANGE, offOf c 2),
    (decide ((snapW c 4).toNat ≤ 4096), cRANGE, offOf c 4),
    (decide (sumSets s .plnTq 0 t BitVec.toNat + tot ≤ t0Pool s + t1Pool s + t2Pool s), cCONFLICT, offOf c 0),
    (decide (sumSets s .plnTq 1 t BitVec.toNat + flo ≤ t0Pool s), cCONFLICT, offOf c 1),
    (decide (sumSets s .plnTq 3 t BitVec.toNat + hs ≤ 16777216), cCONFLICT, offOf c 3),
    (decide ((tenPages s t).length ≤ tot) && decide (tenIn s t 0 ≤ cap) && decide ((tenHnds s t).length ≤ hs), cBUSY, offOf c 0) ]

/-- Ranges of the reservation fields (Table 03.1). -/
def rsvRange (half : Bool) : List (Nat × Nat) :=
  if half then [(16, 256), (0, 384), (0, 256), (1, 4), (0, 768)] else [(16, 512), (0, 768), (0, 512), (1, 4), (0, 1536)]
/-- The checks of the reservation group (R105). -/
def memRsvChecks (s : State) (c : PendCommit) : List Check :=
  let v := fun i => (snapW c i).toNat
  let t1 := if s.half then 768 else 1536
  [ ((rsvRange s.half).zipIdx.all (fun p => decide (p.1.1 ≤ v p.2) && decide (v p.2 ≤ p.1.2)), cRANGE, offOf c 0),
    (decide (64 * 4 + 4 * (4 + v 0 + v 1 + v 2) + v 3 ≤ t1 * 4), cCONFLICT, offOf c 0),
    (decide (sumSets s .plnTq 0 0xFFFFFFFF BitVec.toNat ≤ t0Pool s + t1Of s.half (v 0) (v 1) (v 2) (v 3) + t2Of s.half (v 4))
        && decide (sumSets s .plnTq 1 0xFFFFFFFF BitVec.toNat ≤ t0Pool s), cCONFLICT, offOf c 0),
    ((activeTens s).isEmpty, cBUSY, offOf c 0) ]

/-- A committed reservation group: pages that leave a reserved area of T1 are zeroized before they join the pool, T2 pages join it at once
(R102). -/
def memRsvApply (c : PendCommit) (s : State) : State :=
  let s1 := csetAll .memRsv 0 c.snap s
  modPln (fun p => { p with zeroing := p.zeroing ++ List.replicate (t1Pool s1 - t1Pool s) (1, 0) }) s1
/-- The checks of the thermal group (Table 03.10). -/
def memThermChecks (s : State) (c : PendCommit) : List Check :=
  [ (decide (85 ≤ snapF c 0 6 0) && decide (snapF c 0 6 0 ≤ 100), cRANGE, offOf c 0),
    (tableIn s 3 (snapF c 0 19 16), cCONFLICT, offOf c 0) ]

/-! ## Context slots and terrace segments (R170 to R174) -/

/-- Least size of a context image handle (R172). -/
def imgMin : Nat := 4263936
/-- Pages of a handle that are not in T0. -/
def pagesOut (s : State) (h : Nat) : Nat :=
  ((List.range (pagesOf (hndSize s h))).filter (fun p => match pageRec s h p with | some x => decide (x.tier ≠ 0) | none => false)).length
/-- The slot's tenant or image changes, or valid is cleared. -/
def slotMoves (s : State) (o : Nat) (c : PendCommit) : Bool :=
  bitW (cset s .corSlot o 0) 31
    && (!snapB c 0 31 || decide (snapF c 0 11 0 ≠ fldW (cset s .corSlot o 0) 11 0) || decide (snapW c 1 ≠ cset s .corSlot o 1))
/-- An image handle as R172 asks. -/
def imageOk (s : State) (t h : Nat) : Bool :=
  match hndRec s h with
  | some x => decide (x.tenant = t) && !x.gone && decide (imgMin ≤ x.size) && x.noRack
  | none => false
/-- Another committed slot names the image handle. -/
def imageTaken (s : State) (o h : Nat) : Bool :=
  (List.range (numCores s * 8)).any (fun k => decide (k ≠ o) && slotValid s (k / 8) (k % 8) && decide (slotImg s (k / 8) (k % 8) = h))

/-- The checks of a slot group (R172); those on the fields apply while valid is 1 (DEDUCED, log 80). -/
def corSlotChecks (s : State) (o : Nat) (c : PendCommit) : List Check :=
  let core := o / 8
  let t := snapF c 0 11 0
  let h := snapF c 1 23 0
  let v := snapB c 0 31
  [ (decide (core < numCores s) && !coreFenced s core && decide ((coreRec s core).st ≠ .fenced), cDENIED, offSel c),
    (!v || tenActive s t, cDENIED, offOf c 0),
    (!v || (decide (1 ≤ snapF c 0 22 16) && decide (snapF c 0 22 16 ≤ 100)), cRANGE, offOf c 0),
    (!v || imageOk s t h, cCONFLICT, offOf c 0),
    (!v || !(List.range 8).any (fun k => decide (k ≠ o % 8) && slotValid s core k && decide (slotTen s core k = t)), cCONFLICT, offOf c 0),
    (!v || !imageTaken s o h, cCONFLICT, offOf c 1),
    (!v || decide (tenIn s t 0 + pagesOut s h ≤ tqCap s t), cNORES, offOf c 1),
    (!(slotMoves s o c && slotBusy s core (o % 8)), cBUSY, offOf c 0) ]

/-- The stack of a die that a page of a context image goes to: the first in service with a free page, the lower one where none
has (DEDUCED, log 81). -/
def pinStack (s : State) (d : Nat) : Nat :=
  (([2 * d, 2 * d + 1].find? (fun k => decide ((stkRec s k).st = 1) && decide (0 < freeStack s k))).getD (2 * d))
/-- A page of a context image stands on a stack of the core's die, and a move of it is abandoned (R173). -/
def pinPage (d h p : Nat) (s : State) : State :=
  match pageRec s h p with
  | none => s
  | some x =>
    let s1 := dropMove (pageKey h p) s
    if x.tier = 0 ∧ dieOfStack x.stack = d then s1
    else
      let k := pinStack s1 d
      modPln (fun y => { y with zeroing := leaves x.tier x.stack y.zeroing }) (modPage h p (fun y => { y with tier := 0, stack := k }) s1)
/-- A committed slot (R173, R174): a slot that changes hands is released first; the new image is reserved and pinned. -/
def corSlotApply (o : Nat) (c : PendCommit) (s : State) : State :=
  let core := o / 8
  let mv := slotMoves s o c
  let s1 := if mv then releaseSlot core (o % 8) s else s
  let s2 := csetAll .corSlot o c.snap s1
  let h := snapF c 1 23 0
  if snapB c 0 31 ∧ (mv ∨ ¬ bitW (cset s .corSlot o 0) 31) then
    forS (List.range (pagesOf (hndSize s2 h))) (pinPage (dieOfCore core) h)
      (modHnd h (fun x => { x with reserved := true }) (modSlot core (o % 8) (fun _ => {}) s2))
  else s2

/-- The checks of a terrace group (R171, Table 04.8). -/
def corTerChecks (s : State) (o : Nat) (c : PendCommit) : List Check :=
  let d := o / 64
  let leaves := match segTen s d (o % 64) with
    | some t => !snapB c 0 31 || decide (snapF c 0 11 0 ≠ t)
    | none => false
  let held := match segTen s d (o % 64) with
    | some t => (tenSlots s t).any (fun k => decide (dieOfCore k.1 = d))
    | none => false
  [ (!snapB c 0 31 || tenActive s (snapF c 0 11 0), cDENIED, offOf c 0),
    (!(leaves && held), cBUSY, offSel c) ]
/-- A segment that leaves its tenant is zeroized (R170). -/
def corTerApply (o : Nat) (c : PendCommit) (s : State) : State :=
  let s1 := match segTen s (o / 64) (o % 64) with
    | some t => if snapB c 0 31 ∧ snapF c 0 11 0 = t then s else zeroSegment (o / 64) (o % 64) s
    | none => s
  csetAll .corTer o c.snap s1

/-! ## Arrays, format tables, collectives, steps, racks, errors -/

/-- The checks of the ARR group (R262). -/
def arrChecks (c : PendCommit) : List Check := [ (decide (snapF c 0 15 0 ≠ 0), cRANGE, offOf c 0) ]

/-- The checks of a format group (R197): those on its content only while valid is 1. -/
def fmtChecks (s : State) (n : Nat) (c : PendCommit) : List Check :=
  let v := snapB c 0 31
  let e := fun k => (snapW c (k + 1)).toNat
  [ (!v || decide (snapF c 0 9 8 ≠ 3), cRANGE, offOf c 0),
    (!v || (List.range 256).all (fun k => decide (e k % 256 < 64) || decide (192 ≤ e k % 256)), cRANGE, offOf c 1),
    (!v || (List.range 256).all (fun k => !(bitOf (e k) 31 && bitOf (e k) 30)), cCONFLICT, offOf c 1),
    (!v || (List.range 256).all (fun k => decide (k < 2 ^ (4 + 2 * snapF c 0 9 8)) || decide (e k = 0)), cCONFLICT, offOf c 0),
    (!v || snapB c 0 30 || tenActive s (snapF c 0 23 12), cDENIED, offOf c 0),
    (!fmtInUse s n, cBUSY, offSel c) ]
def fmtApply (n : Nat) (c : PendCommit) (s : State) : State :=
  csetAll .fmt n c.snap (modCor (fun x => { x with fmtGen := Map.upd 0 x.fmtGen n (fun g => (g + 1) % 65536) }) s)

/-- The checks of the COL group (R336). -/
def colChecks (s : State) (c : PendCommit) : List Check :=
  [ (decide (snapF c 0 15 0 ≠ 0), cRANGE, offOf c 0),
    (decide (2 ≤ snapF c 0 19 16) && decide (snapF c 0 19 16 ≤ 8), cRANGE, offOf c 0),
    (s.col.colls.isEmpty, cBUSY, offOf c 0) ]

/-- The checks of the step group of a tenant (R378). -/
def stpTenChecks (s : State) (t : Nat) (c : PendCommit) : List Check :=
  [ (decide (snapF c 0 1 0 ≤ 2), cRANGE, offOf c 0),
    (decide (snapF c 0 31 16 ≠ 0), cRANGE, offOf c 0),
    (decide (snapF c 1 25 16 ≤ 512) && decide (snapF c 1 10 0 ≤ 1024), cRANGE, offOf c 1),
    (decide (sumSets s .stpTen 1 t (fun w => fldW w 25 16) + snapF c 1 25 16 ≤ rsvReg s 0), cCONFLICT, offOf c 1),
    (decide (sumSets s .stpTen 1 t (fun w => fldW w 10 0) + snapF c 1 10 0 ≤ 256 * rsvReg s 3), cCONFLICT, offOf c 1),
    (tenActive s t, cDENIED, offSel c),
    (decide ((tstep s t).st = .idle), cBUSY, offSel c) ]

/-- The checks of the rack group of a tenant (R421). -/
def rckTenChecks (s : State) (t : Nat) (c : PendCommit) : List Check :=
  let slots := match bindOf s t with
    | some b => (bindSplitT s b).slots.length
    | none => 0
  [ (tenActive s t, cDENIED, offSel c),
    (decide (1 ≤ snapF c 0 23 16) && decide (1 ≤ snapF c 0 7 0) && decide (snapF c 0 7 0 ≤ 200), cRANGE, offOf c 0),
    (!snapB c 0 31 || decide (snapF c 0 27 24 < slots), cCONFLICT, offOf c 0) ]
/-- A committed rack group (R405): without graft_en the graft state is NONE; another buddy slot leads to a buddy that holds no image, so that
the next graft is a full one (DEDUCED, log 153). -/
def rckTenApply (t : Nat) (c : PendCommit) (s : State) : State :=
  let moved := decide (snapF c 0 27 24 ≠ fldW (rackCfg s t) 27 24) && decide ((tenRack s t).graft ≠ 0)
  let s1 := csetAll .rckTen t c.snap s
  checkBuddy t (if moved then setGraft t 1 (modTenRack t (fun x => { x with flight := none, sent := none }) s1) else s1)
/-- The check of the wear group (R421). -/
def rckWearChecks (c : PendCommit) : List Check := [ (decide (snapF c 0 15 0 ≠ 0), cRANGE, offOf c 0) ]
/-- The checks of the ERR group (R480). -/
def errChecks (s : State) (c : PendCommit) : List Check :=
  [ (decide (snapF c 0 15 0 ≠ 0), cRANGE, offOf c 0),
    (decide (snapF c 0 19 16 < 2 ^ numDies s), cRANGE, offOf c 0) ]

/-! ## Vine ports and bindings (R307 to R309, R614, R615) -/

/-- B14 is bringing the port up (R615). -/
def portStarting (s : State) (p : Nat) : Bool :=
  s.boot.hostReady && !s.boot.ready && bitW (Map.get 0 s.boot.portAuto (4 * p)) 31
/-- The checks of a port group (R307, R615). -/
def vnlPortChecks (s : State) (p : Nat) (c : PendCommit) : List Check :=
  let st := (portRec s p).st
  let lim := snapW c 2
  [ (decide (p < numPorts s) && !memb p s.boot.portsFenced, cDENIED, offSel c),
    (!portStarting s p, cBUSY, offSel c),
    (decide (st = .off) || decide (st = .dark) || decide (st = .fenced)
        || (decide (snapW c 1 = cset s .vnlPort p 1) && decide (snapF c 0 19 0 = fldW (cset s .vnlPort p 0) 19 0)), cBUSY, offOf c 0),
    (!(bitW (cset s .vnlPort p 0) 31 && !snapB c 0 31 && decide (st = .opened)), cBUSY, offOf c 0),
    (decide (fldW lim 31 24 ≠ 0) && decide (fldW lim 23 16 ≠ 0) && decide (fldW lim 15 8 ≠ 0) && decide (fldW lim 7 4 ≠ 0), cRANGE, offOf c 2),
    (decide (snapF c 3 15 8 ≤ 100), cRANGE, offOf c 3) ]
/-- port_en becomes 0: the port leaves any state for OFF (Table 07.2). -/
def portOff (p : Nat) (s : State) : State :=
  checkBuddies (modPort p (fun x => { x with st := .off, shake := {}, train := [], trainPart := [] }) (closePort p 0 s))
/-- A port group in force: port_en 1 takes an OFF port to DARK and clears its totals (R298); port_en 0 takes any state to OFF.
While port_resume is 1 the autostart list follows (R614). -/
def portCommit (p : Nat) (ws : List Word) (s : State) : State :=
  let was := bitW (cset s .vnlPort p 0) 31
  let en := bitW (ws.getD 0 0) 31
  let s1 := csetAll .vnlPort p ws s
  let s2 := if bitW (cset s .boot 0 0) 31 then
      modBoot (fun b => { b with
        portAuto := Map.set 0 (Map.set 0 b.portAuto (4 * p) (if en then ws.getD 0 0 else 0)) (4 * p + 1) (if en then ws.getD 1 0 else 0) }) s1
    else s1
  if en then
    let s3 := modPort p (fun x => { x with err := {} }) s2
    if ¬ was ∧ (portRec s p).st = .off then enterDark p 0 s3 else s3
  else if was then portOff p s2
  else s2

/-- Module IDs and present flags of a member table (R292). -/
def membersOf (bs : List Byte) : Nat → List (Nat × Bool)
  | 0 => []
  | n + 1 => (fieldAt bs 0 8 % 2 ^ 20, bitOf (fieldAt bs 0 8) 20) :: membersOf (bs.drop 8) n
/-- The table read for a binding commit, when it is aligned and readable. -/
def pclTable (c : PendCommit) (rd : Option (List Byte)) : Option (List (Nat × Bool)) :=
  let n := snapF c 4 16 0
  match rd with
  | some bs => if snapF c 2 11 0 = 0 ∧ bs.length = 8 * n then some (membersOf bs n) else none
  | none => none
/-- Ports of a split table. -/
def splitPorts (x : Split) : List Nat := x.slots.flatMap (fun e => (List.range 16).filter (fun p => bitOf e.ports p))
/-- A split table is loaded, as R288 asks, its ports in no other valid binding. -/
def splitFits (s : State) (b n : Nat) : Bool :=
  (tableRec s 4 n).loaded && decide (n ≠ 0) && splitOk s.half (tableBody s 4 n)
    && (List.range 4).all (fun k => decide (k = b) || !bindValid s k
        || (splitPorts (splitOfBody (tableBody s 4 n))).all (fun p => !memb p (splitPorts (bindSplitT s k))))
/-- The checks of the binding group with valid = 1 (R308). -/
def vnlPclChecks (s : State) (b : Nat) (c : PendCommit) (rd : Option (List Byte)) : List Check :=
  let t := snapF c 0 27 16
  let n := snapF c 4 16 0
  let x := snapF c 1 15 0
  let sp := splitOfBody (tableBody s 4 (snapF c 1 19 16))
  let tbl := (pclTable c rd).getD []
  let old := bindValid s b
  if ¬ snapB c 0 31 then []
  else
  [ (tenActive s t, cDENIED, offOf c 0),
    (decide (snapF c 0 15 0 ≠ 0), cRANGE, offOf c 0),
    (decide (2 ≤ n) && decide (n ≤ 65536) && decide (x < n)
        && (!(tableRec s 4 (snapF c 1 19 16)).loaded || decide (x < 2 ^ (sp.l + sp.g))), cRANGE, offOf c 1),
    (!(List.range 4).any (fun k => decide (k ≠ b) && bindValid s k && (decide (bindParcel s k = snapF c 0 15 0) || decide (bindTen s k = t))),
      cCONFLICT, offOf c 0),
    (splitFits s b (snapF c 1 19 16), cCONFLICT, offOf c 1),
    ((pclTable c rd).isSome && decide (tbl[x]? = some (s.moduleId, true)), cCONFLICT, offOf c 1),
    ((longest sp tbl x).isSome, cCONFLICT, offSel c),
    (!old || (decide (snapF c 0 27 0 = fldW (cset s .vnlPcl b 0) 27 0) && decide (snapF c 1 19 0 = fldW (cset s .vnlPcl b 1) 19 0)),
      cBUSY, offOf c 0),
    (decide ((tstep s t).st ≠ .run), cBUSY, offSel c) ]

/-- HEDGED ports of a binding begin a new admission: what they exchanged names another binding (R296). -/
def freshShakes (b : Nat) (s : State) : State :=
  forS (bindPorts s b) (fun p s => if (portRec s p).st = .hedged then hsHelloStart p s else s) s

/-- The route entry of the memo with a key, if it holds one (R285). -/
def memoRoute (s : State) (parcel coord digest gen : Nat) : Option MemoRoute :=
  s.vnl.memoRoutes.find? (fun r => decide (r.parcel = parcel) && decide (r.coord = coord) && decide (r.digest = digest) && decide (r.gen = gen))
/-- A binding in force: the member table, the next hops computed or taken from the memo, whose entry becomes the most recently
used of four (R285, R286, R292); removed neighbours' ports close (R294). -/
def bindApply (b : Nat) (c : PendCommit) (rd : Option (List Byte)) (s : State) : State :=
  let isNew := !bindValid s b
  let tbl := (pclTable c rd).getD []
  let n := snapF c 1 19 16
  let sp := splitOfBody (tableBody s 4 n)
  let x := snapF c 1 15 0
  let gen := (tableRec s 4 n).gen
  let digest := (Config.sha384 (rd.getD [])).toNat
  let r := (memoRoute s (snapF c 0 15 0) x digest gen).getD
    { parcel := snapF c 0 15 0, coord := x, digest := digest, gen := gen, hops := hopTable sp tbl x, maxHops := (longest sp tbl x).getD 0 }
  let s1 := csetAll .vnlPcl b c.snap s
  let s2 := modVnl (fun v => { v with
    memoRoutes := (r :: v.memoRoutes.filter (fun q => decide (q ≠ r))).take 4,
    binds := Map.upd {} v.binds b (fun y => { y with members := tbl, hops := r.hops, maxHops := r.maxHops }) }) s1
  let gone := (bindPorts s2 b).filter (fun p => (portRec s2 p).keys && !gateLocal s2 p)
  let s3 := closePorts b 0x09 gone s2
  if isNew then freshShakes b s3 else updReady b s3
def vnlPclApply (b : Nat) (c : PendCommit) (rd : Option (List Byte)) (s : State) : State :=
  if snapB c 0 31 then retryTokens (bindApply b c rd s)
  else
    let s1 := csetAll .vnlPcl b c.snap (if bindValid s b then unbind b s else s)
    forS ((List.range (numPorts s)).filter (fun p => (portBind s p).map Prod.fst = some b)) (fun p s =>
      if (portRec s p).st = .hedged then hsHelloStart p s else s) s1

/-! ## Time base (R516, R517, R520) -/

def snapIncr (c : PendCommit) : Nat := snapF c 1 7 0 * 2 ^ 32 + (snapW c 0).toNat
/-- The committed offset, a signed 64-bit number of ns. -/
def snapOfs (c : PendCommit) : Int := (BitVec.ofNat 64 ((snapW c 3).toNat * 2 ^ 32 + (snapW c 2).toNat)).toInt
/-- The checks of the discipline group (R516). -/
def timChecks (s : State) (c : PendCommit) : List Check :=
  let i := snapIncr c
  [ (decide (3998 * 2 ^ 32 ≤ 1000 * i) && decide (1000 * i ≤ 4002 * 2 ^ 32), cRANGE, offOf c 0),
    (decide (1 ≤ snapF c 4 23 16) && decide (snapF c 4 23 16 ≤ 200) && decide (1 ≤ snapF c 4 15 8), cRANGE, offOf c 4),
    (decide (1 ≤ snapF c 6 15 8) && decide (snapF c 6 15 8 ≤ 100) && decide (snapF c 6 7 0 ≠ 0), cRANGE, offOf c 6),
    (!snapB c 6 29 || s.tim.set || decide (snapOfs c ≠ 0), cCONFLICT, offOf c 6),
    (decide (i = timIncr s) || !s.tim.holdover, cBUSY, offOf c 0) ]
/-- A committed discipline group: the offset is applied once and reads zero after (R517); tpin_en 0 gives up the lock. -/
def timApply (c : PendCommit) (s : State) : State :=
  let s1 := csetAll .tim 0 (setAt (setAt c.snap 2 0) 3 0) s
  let s2 := modGrp (fun g => { g with
    shadows := Map.set (Grp.reset s.half .tim 2) (Map.set (Grp.reset s.half .tim 3) g.shadows (shadowKey 0 .tim 0 3) 0) (shadowKey 0 .tim 0 2) 0 }) s1
  let s3 := if snapB c 6 31 then s2 else
    checkHold (whenS s2.tim.tpinLock (record 0x0E04 0 0) (modTim (fun x => { x with tpinLock := false, good := 0, miss := 0 }) s2))
  applyOffset (snapOfs c) s3

/-! ## Trellis tables (R442, R446, R451) -/

/-- The checks of the table group: a load, or an unload (command bit 2). -/
def celTblChecks (s : State) (sel : Nat) (c : PendCommit) (rd : Option (List Byte)) : List Check :=
  let typ := sel / 256 % 16
  let n := sel % 16
  let bs := rd.getD []
  let body := bs.drop 32
  if c.cmd = 4 then
    [ (tableNamed typ n, cRANGE, offSel c), (!tableSelected s typ n, cBUSY, offSel c) ]
  else
  [ (tableNamed typ n, cRANGE, offSel c),
    (decide (snapF c 0 2 0 = 0), cRANGE, offOf c 0),
    (decide (32 ≤ snapF c 2 15 0) && decide (snapF c 2 15 0 ≤ 16384), cRANGE, offOf c 2),
    (decide (snapF c 2 15 0 = 32 + fieldAt bs 4 4), cCONFLICT, offOf c 2),
    (decide (bs.length = snapF c 2 15 0) && headerOk typ n (bs.take 32) body && bodyOk s typ n body, cCONFLICT, offOf c 2),
    (!loadBusy s typ n, cBUSY, offSel c) ]
def celTblApply (sel : Nat) (c : PendCommit) (rd : Option (List Byte)) (s : State) : State :=
  if c.cmd = 4 then unload (sel / 256 % 16) (sel % 16) s
  else install (sel / 256 % 16) (sel % 16) 3 ((rd.getD []).drop 32) s

/-! ## Keys (R552, R574) -/

/-- The checks of the key group. -/
def secKeyChecks (s : State) (k : Nat) (c : PendCommit) (rd : Option (List Byte)) : List Check :=
  let bs := rd.getD []
  if c.cmd = 4 then [ (decide (k ≤ 4), cRANGE, offSel c), (decide (k = 4), cBUSY, offSel c) ]
  else
  [ (decide (k ≤ 4), cRANGE, offSel c),
    (decide (snapF c 0 5 0 = 0), cRANGE, offOf c 0),
    (decide (k = 4) || bindValid s k, cCONFLICT, offSel c),
    (decide (k = 4) || (bindKey s k).isNone, cBUSY, offSel c),
    (decide (fieldAt bs 2 2 = if k = 4 then 0 else bindParcel s k), cCONFLICT, offSel c),
    (decide (fieldAt bs 4 3 % 2 ^ 20 = s.moduleId), cCONFLICT, offSel c),
    (decide (bs.length = 1664) && (Config.unwrap s.moduleId bs).isSome, cCONFLICT, offSel c),
    (!bitW (timSrc s) 29 || decide (s.tim.s ≤ fieldAt bs 8 8), cRANGE, offSel c),
    (decide (s.sec.life ≠ .blank) && decide (s.sec.life ≠ .retired), cDENIED, offSel c) ]
/-- A key in force: a parcel key lets the binding's ports ask again (Table 07.8); a new service key leaves the previous one 60 s
(R555); KEY_INSTALLED is recorded (Table 15.17); the destroy command drops the service keys. -/
def secKeyApply (k : Nat) (c : PendCommit) (rd : Option (List Byte)) (s : State) : State :=
  if c.cmd = 4 then modSec (fun x => { x with svcKey := none, svcPrev := none }) s
  else
    let key := (Config.unwrap s.moduleId (rd.getD [])).getD 0
    let kid := (Config.kdf key (lblKid ++ leB 2 (if k = 4 then 0 else bindParcel s k))).toNat % 2 ^ 64
    let s1 := record 0x0F02 k kid (csetAll .secKey k c.snap s)
    if k = 4 then modSec (fun x => { x with svcPrev := x.svcKey, svcKey := some key, svcAt := nowT s }) s1
    else retryTokens (modSec (fun x => { x with parcelKeys := Map.put x.parcelKeys k key }) s1)

/-! ## Debug (R588, R592, R595) -/

/-- The checks of the main debug group. -/
def dbgChecks (s : State) (c : PendCommit) : List Check :=
  [ (decide (s.dbg.frost = 0), cBUSY, offSel c),
    (decide (snapF c 0 1 0 ≤ 2), cRANGE, offOf c 0),
    (!snapB c 0 30 || decide (2 ≤ snapF c 0 26 24), cRANGE, offOf c 0),
    (!(snapB c 0 31 || snapB c 0 30) || decide (dbgLevel s 2 ≠ 0), cDENIED, offOf c 0),
    (decide (snapF c 0 1 0 = fldW (cset s .dbg 0 0) 1 0) || s.cor.launches.isEmpty, cBUSY, offOf c 0) ]
/-- The checks of the debug group of a tenant. -/
def dbgTenChecks (s : State) (t : Nat) (c : PendCommit) : List Check :=
  let h := snapF c 1 23 0
  [ (decide (s.dbg.frost = 0), cBUSY, offSel c),
    (tenActive s t, cDENIED, offSel c),
    (decide (6 ≤ snapF c 0 20 16) && decide (snapF c 0 20 16 ≤ 16) && (!snapB c 0 30 || decide (2 ≤ snapF c 0 26 24))
        && decide (4 ≤ snapF c 4 4 0) && decide (snapF c 4 4 0 ≤ 16), cRANGE, offOf c 0),
    (!snapB c 0 31 || (hndOk s t h && decide (16448 ≤ hndSize s h) && (match hndRec s h with | some x => x.noRack | none => false)),
      cCONFLICT, offOf c 0) ]
/-- Sampling of a tenant starts at the commit, or at the firing of its trigger (R592). -/
def dbgTenApply (t : Nat) (c : PendCommit) (s : State) : State :=
  modDbg (fun d => { d with
    sampling := if snapB c 0 31 ∧ ¬ snapB c 0 30 then addOnce t d.sampling else without t d.sampling }) (csetAll .dbgTen t c.snap s)

/-! ## COMMIT_APPLY (R56, R61, R63) -/

/-- Groups whose commits the owner applies at its next commit strobe (R451, R510). -/
def atStrobe (g : Grp) : Bool := decide (g = .cel) || decide (g = .celSvc) || decide (g = .pwr)

/-- Tenants a commit of PF0 would change (R54): the object of a tenant's group, the tenants a slot, a segment, a binding or a format table
leaves and goes to. -/
def commitTens (s : State) (c : PendCommit) (o : Nat) : List Nat :=
  let one := fun (v : Bool) (t : Nat) => if v then [t] else []
  match c.grp with
  | .plnTq | .stpTen | .rckTen | .dbgTen => [o]
  | .corSlot => one (bitW (cset s .corSlot o 0) 31) (fldW (cset s .corSlot o 0) 11 0) ++ one (snapB c 0 31) (snapF c 0 11 0)
  | .corTer => one (bitW (cset s .corTer o 0) 31) (fldW (cset s .corTer o 0) 11 0) ++ one (snapB c 0 31) (snapF c 0 11 0)
  | .vnlPcl => one (bindValid s o) (bindTen s o) ++ one (snapB c 0 31) (snapF c 0 27 16)
  | .fmt => one (bitW (cset s .fmt o 0) 31 && !bitW (cset s .fmt o 0) 30) (fldW (cset s .fmt o 0) 23 12)
      ++ one (snapB c 0 31 && !snapB c 0 30) (snapF c 0 23 12)
  | _ => []
/-- A commit of PF0 would change a tenant bound to a locked TDI (R54); the tenant and ring groups say so in their own lists. -/
def tdiDenies (s : State) (c : PendCommit) (o : Nat) : Bool :=
  decide (c.acc = 0) && (commitTens s c o).any (fun t => decide ((tenRec s t).st ≠ .free) && tdiLocked s (tenFn s t))
/-- The checks of a commit's own rule. -/
def groupChecks (s : State) (c : PendCommit) (o : Nat) (rd : Option (List Byte)) : List Check :=
  match c.grp with
  | .hifTen => hifTenChecks s o c
  | .rng => rngChecks s o c
  | .pln => plnChecks s c
  | .plnTq => plnTqChecks s o c
  | .memRsv => memRsvChecks s c
  | .memTherm => memThermChecks s c
  | .corSlot => corSlotChecks s o c
  | .corTer => corTerChecks s o c
  | .arr => arrChecks c
  | .fmt => fmtChecks s o c
  | .vnlPort => vnlPortChecks s o c
  | .vnlPcl => vnlPclChecks s o c rd
  | .col => colChecks s c
  | .stpTen => stpTenChecks s o c
  | .rckTen => rckTenChecks s o c
  | .rckWear => rckWearChecks c
  | .err => errChecks s c
  | .tim => timChecks s c
  | .secKey => secKeyChecks s o c rd
  | .celTbl => celTblChecks s o c rd
  | .dbg => dbgChecks s c
  | .dbgTen => dbgTenChecks s o c
  | .boot | .bootUpd | .secCmd | .cel | .celSvc | .pwr => []

/-- The checks of a commit: R54, then its group's. -/
def commitChecks (s : State) (c : PendCommit) (o : Nat) (rd : Option (List Byte)) : List Check :=
  (!tdiDenies s c o, cDENIED, offSel c) :: groupChecks s c o rd

/-- What an accepted commit does. -/
def commitEffect (c : PendCommit) (o : Nat) (rd : Option (List Byte)) (s : State) : State :=
  match c.grp with
  | .hifTen => hifTenApply o c s
  | .rng => rngApply o c s
  | .memRsv => memRsvApply c s
  | .corSlot => corSlotApply o c s
  | .corTer => corTerApply o c s
  | .fmt => fmtApply o c s
  | .vnlPort => portCommit o c.snap s
  | .vnlPcl => vnlPclApply o c rd s
  | .rckTen => rckTenApply o c s
  | .tim => timApply c s
  | .secKey => secKeyApply o c rd s
  | .celTbl => celTblApply o c rd s
  | .dbgTen => dbgTenApply o c s
  | g => csetAll g o c.snap s

/-- The key of the accessor whose status register reports a commit. -/
def commitAcc (c : PendCommit) : Nat := if c.grp.sel.isSome then c.acc else 0
/-- The offset as the accessor sees it: a VF's ring window stands at 0x1000 of its BAR0 (Table 02.5). -/
def seenOff (c : PendCommit) (off : Nat) : Nat := if 1 ≤ c.acc ∧ c.acc ≤ 63 ∧ c.grp = .rng then 0x1000 + off else off
/-- Reports a commit's result; PENDING stays while a later commit of the same window waits (R61). -/
def reportCommit (c : PendCommit) (res off : Nat) (s : State) : State :=
  if s.grp.pend.any (fun q => decide (q.grp = c.grp) && decide (q.win = c.win) && decide (commitAcc q = commitAcc c)) then s
  else setCstat (commitAcc c) c.grp c.win res (seenOff c off) s
/-- Runs the checks of a commit taken from the queue and applies or refuses it. -/
def runCommit (c : PendCommit) (rd : Option (List Byte)) (s : State) : State :=
  match c.obj with
  | none => reportCommit c cDENIED (offSel c) s
  | some o =>
    match firstFail (commitChecks s c o rd) with
    | some (res, off) => reportCommit c res off s
    | none => reportCommit c cOK 0 (commitEffect c o rd s)
/-- The format table a commit writes, in its own group or as a trellis table of the format type (R197). -/
def fmtOf (c : PendCommit) : Option Nat :=
  match c.grp, c.obj with
  | .fmt, some n => some n
  | .celTbl, some k => if k / 256 % 16 = 1 then some (k % 16) else none
  | _, _ => none
/-- Two commits are to one object (R61): of one group, or to one format table (Table 05.13). -/
def sameObj (a b : PendCommit) : Bool :=
  (decide (a.grp = b.grp) && decide (a.obj = b.obj)) || ((fmtOf a).isSome && decide (fmtOf a = fmtOf b))
/-- A commit must wait: an earlier one to the same object has not completed (R61), the strobe applies its group, its clock is
stopped, or the Cave it needs is in its error state (R546). -/
def commitWaits (s : State) (i : Nat) (c : PendCommit) : Bool :=
  atStrobe c.grp || (s.grp.pend.take i).any (sameObj c)
    || (!nclkOn s && !(decide (s.dbg.frost ≠ 0) && (decide (c.grp = .dbg) || decide (c.grp = .dbgTen)))) || (decide (c.grp = .secKey) && caveDown s)
/-- The host memory a commit reads, as PF0 with no PASID (R292, R445, R552): address and bytes. -/
def hostRd (c : PendCommit) : Option (Nat × Nat) :=
  let a := fun i => (snapW c (i + 1)).toNat * 2 ^ 32 + (snapW c i).toNat
  match c.grp with
  | .vnlPcl => if snapB c 0 31 then some (a 2, 8 * snapF c 4 16 0) else none
  | .celTbl => if c.cmd = 4 then none else some (a 0, snapF c 2 15 0)
  | .secKey => if c.cmd = 4 then none else some (a 0, 1664)
  | _ => none
/-- A commit's read of host memory goes out; a range PF0 may not reach gives no bytes. -/
def readCommit (c : PendCommit) (rd : Option (List Byte)) (s : State) : Option (List Byte) × State :=
  match hostRd c with
  | some (a, n) => (if hostRange s 0 a n then rd else none, emit (.hostRead 0 none a n) s)
  | none => (rd, s)
/-- Commit i of those pending is checked and applied, with the bytes it reads from host memory. -/
def applyCommit (i : Nat) (rd : Option (List Byte)) (s : State) : State :=
  match s.grp.pend[i]? with
  | none => s
  | some c =>
    if commitWaits s i c then s
    else
      let r := readCommit c rd s
      runCommit c r.1 (modGrp (fun g => { g with pend := g.pend.eraseIdx i }) r.2)
/-- The host driver's commits to a format table's group that arrived before a table of policy firmware are applied before it
(R197, Table 05.13). -/
def flushFmt (n : Nat) (s : State) : State :=
  let q := s.grp.pend.filter (fun c => decide (c.grp = .fmt) && decide (c.obj = some n))
  forS q (fun c => runCommit c none)
    (modGrp (fun g => { g with pend := g.pend.filter (fun c => !(decide (c.grp = .fmt) && decide (c.obj = some n))) }) s)
/-- COMMIT_APPLY. -/
def execCommitApply (i : Nat) (rd : Option (List Byte)) (s : State) : Answer := .next (applyCommit i rd s)

end Sys2Proof.Machine
end

