-- ==== Sys2Proof/Machine/Err.lean ====
section
/-!
DEFINITION. Machine/Err.lean: faults that units report and the owner consumes, the end of a compute complex reset, corrected
errors, scrubbing, and vintage stress passes (R454 to R479).
-/
namespace Sys2Proof.Machine

/-! ## Faults (R455 to R462) -/

/-- Marks the block at a byte offset of a handle poisoned (R464). -/
def poisonAt (h off : Nat) (s : State) : State :=
  modPage h (pageIdx off) (fun x => { x with poison := addOnce (blockIdx off) x.poison }) s
/-- The unit of Table 12.10 that holds a page. -/
def pageUnit (x : Page) : Nat := if x.tier = 0 then x.stack else if x.tier = 1 then 8 else 10
def countUe (u : Nat) (s : State) : State := modErr (fun e => { e with ue := Map.upd 0 e.ue u (fun n => satAdd 32 n 1) }) s
/-- The tenants a source reaches (Table 12.2). -/
def faultReach (s : State) (src core t : Nat) : List Nat :=
  if src = 0x07 then
    let k := (coreRec s core).slot
    if ¬ (coreRec s core).empty ∧ slotValid s core k ∧ tenActive s (slotTen s core k) then [slotTen s core k] else []
  else if src = 0x08 then (if tenActive s t then [t] else [])
  else workTens s
/-- The press line that holds a byte of a handle has an uncorrectable error: it is dropped at the reset (Table 12.3). -/
def spoilLine (h off : Nat) (s : State) : State :=
  modPln (fun p => { p with press := p.press.map (fun l => if l.hnd = h ∧ l.line = off / 64 then { l with bad := true } else l) }) s
/-- FAULT_REPORT of a unit's own error, sources 0x01 to 0x09 (every other source has a command of its own): unit and core of
Table 12.10, the tenant of a PATH_PARITY, and the block (handle, byte) an uncorrectable error or a parity error on a write
poisons, or whose press line is lost (R461, R462, R464). -/
def unitFault (src unit core t h off : Nat) (s : State) : State :=
  if 1 ≤ src ∧ src ≤ 9 ∧ errUnit s unit then
    let s1 := countUe unit (if src = 0x01 ∨ src = 0x02 ∨ src = 0x08 then poisonAt h off s else if src = 0x05 then spoilLine h off s else s)
    faultReport src (faultClass src) unit core (faultReach s src core t) s1
  else s
/-- FAULT_REPORT. -/
def execFaultReport (src unit core t h off : Nat) (s : State) : Answer := iodClocked s (.next (unitFault src unit core t h off s))

/-- A FAULT message not yet acted on. -/
def freshFault (m : UpMsg) : Bool := match m with | .fault _ _ _ _ _ a => !a | _ => false
/-- Acts on the oldest FAULT message not yet acted on (R456 steps 3 to 5). -/
def actFault (s : State) : State :=
  match s.cel.up.find? freshFault with
  | some (.fault src cls u c ts _) =>
    consumeFault src cls u c ts (modCel (fun x => { x with
      up := x.up.modify ((x.up.findIdx? freshFault).getD 0) (fun _ => .fault src cls u c ts true) }) s)
  | _ => s
/-- FAULT_MESSAGE: the owner consumes it before its cycle's freeze. -/
def execFaultMessage (s : State) : Answer :=
  clocked s (.next (if s.cel.own ≠ 2 ∧ ¬ s.cel.frozen then actFault s else s))

/-- COMPLEX_RESET_RELEASE 200 µs after the assertion, by the owner that asserted the line (R457); a later owner releases it at a commit
strobe (R655). -/
def execComplexResetRelease (s : State) : Answer :=
  clocked s (.next (if s.cel.own = 2 ∨ s.cel.own ≠ s.err.resetDie then s else complexRelease s))
/-- A new owner releases the line at its first commit strobe at or after 200 µs, 50,000 ticks, from the assertion (R655). -/
def lateRelease (s : State) : State :=
  if s.err.resetOn.isSome ∧ s.cel.own ≠ s.err.resetDie ∧ s.err.resetTick + 50000 ≤ s.tick then complexRelease s else s

/-! ## Corrected errors (R461, R479) -/

def ceLimit (s : State) : Nat := fldW (cset s .err 0 0) 15 0
/-- One hour in ticks of 4 ns. -/
def hourTicks : Nat := 900000000000
/-- A unit corrects an error: counted; CE_LIMIT when ce_limit of them fall within one hour, once per unit per hour. -/
def corrected (u : Nat) (s : State) : State :=
  let l := (Map.get [] s.err.ceTimes u).filter (fun k => decide (s.tick < k + hourTicks)) ++ [s.tick]
  let l := l.drop (l.length - ceLimit s)
  let s1 := modErr (fun e => { e with ce := Map.upd 0 e.ce u (fun n => satAdd 32 n 1), ceTimes := Map.set [] e.ceTimes u l }) s
  let due : Bool := match Map.find s.err.ceAt u with
    | some k => decide (k + hourTicks ≤ s.tick)
    | none => true
  if ceLimit s ≤ l.length ∧ due then record 0x0C02 0 u (modErr (fun e => { e with ceAt := Map.put e.ceAt u s.tick }) s1) else s1
/-- CORRECTED_ERROR of a unit of Table 12.10. -/
def execCorrectedError (u : Nat) (s : State) : Answer := iodClocked s (.next (if errUnit s u then corrected u s else s))

/-- ERR_CLR (Table 12.8). -/
def execErrClr (acc : Acc) (s : State) : Answer :=
  .next (if blockOpen s acc 12 then modErr (fun e => { e with ce := [], ue := [] }) s else s)

/-! ## Scrubbing (R463, R464) -/

def scrubOn (s : State) : Bool := bitW (cset s .err 0 0) 31
/-- SCRUB_UE: scrubbing finds an uncorrectable error in a block of T0 or T1. -/
def scrubUe (h p b : Nat) (s : State) : State :=
  match pageRec s h p, hndRec s h with
  | some x, some y =>
    if scrubOn s ∧ x.tier ≠ 2 ∧ b < 512 then
      noteT y.tenant 0x0C01 h (p + b * 2 ^ 32)
        (countUe (pageUnit x) (modPage h p (fun x => { x with poison := addOnce b x.poison }) s))
    else s
  | _, _ => s
/-- SCRUB_UE. -/
def execScrubUe (h p b : Nat) (s : State) : Answer := iodClocked s (.next (scrubUe h p b s))
/-- SCRUB_PASS_DONE of T0 or T1: the age of its last complete scrub restarts (R463, Table 12.8). -/
def execScrubPassDone (tier : Nat) (s : State) : Answer :=
  iodClocked s (.next (if scrubOn s then
      modErr (fun e => { e with scrub0 := if tier = 0 then nowT s else e.scrub0, scrub1 := if tier = 1 then nowT s else e.scrub1 }) s
    else s))

/-! ## Stress passes and margin sweeps (R473 to R476, R497) -/

/-- The compute dies are powered and no transition is under way. -/
def diesOn (s : State) : Bool := (decide (s.pwr.st = .full) || decide (s.pwr.st = .trimmed)) && decide (s.pwr.trans = 0) && !s.boot.retiring
/-- No core of a die holds an incomplete launch. -/
def dieFree (s : State) (d : Nat) : Bool :=
  !(s.cor.launches.any (fun l => l.parts.any (fun p => decide (dieOfCore p.core = d) && !p.done)))
/-- A pass may start on a die (R473). -/
def passOk (s : State) (d : Nat) : Bool :=
  decide (d < numDies s) && diesOn s && bitW (cset s .err 0 0) (16 + d) && dieFree s d && !(stressRec s d).running && !(dieP s d).sweeping
/-- Every resident context of a die is swapped out to its image handle (R182, R473). -/
def saveDie (d : Nat) (s : State) : State := forS (dieCores s d) swapOut s
/-- The corner frequency in 25 MHz units: 1.05 f rounded up, at most 1.40 GHz (R474). -/
def cornerFreq (k : Nat) : Nat := min 56 ((105 * (32 + k) + 99) / 100)
/-- A staged pass starts on a die, or does not (R473, R474). -/
def startStress (d : Nat) (s : State) : State :=
  if passOk s d then
    modStress d (fun x => { x with running := true, testing := false, fails := 0, fenced := 0, failmap := 0, freq := cornerFreq (dieStep s d) })
      (saveDie d s)
  else s
/-- A staged margin sweep starts on a die, on the same conditions (R497). -/
def startSweep (d : Nat) (s : State) : State :=
  if passOk s d then modDie d (fun x => { x with sweeping := true, vfail := [] }) (saveDie d s) else s

/-- STRESS_HEAT_DONE (R474). -/
def execStressHeatDone (d : Nat) (s : State) : Answer :=
  iodClocked s (.next (if (stressRec s d).running then modStress d (fun x => { x with testing := true }) s else s))

/-- A core that failed at its operating point too is fenced, and joins the kept list (R475, R613). -/
def fenceCore (c : Nat) (s : State) : State :=
  let ts := (((List.range 8).filter (slotValid s c)).map (slotTen s c)).eraseDups
  let s1 := forS ((List.range 8).filter (slotValid s c)) (releaseSlot c) s
  let s2 := modBoot (fun b => { b with fences := addOnce c b.fences }) (modCore c (fun x => { x with st := .fenced }) s1)
  if ts.isEmpty then record 0x0C05 c 0 s2 else forS ts (fun t => noteT t 0x0C05 c 0) s2
/-- Number of bits set among 32. -/
def pop32 (m : Nat) : Nat := ((List.range 32).filter (fun i => bitOf m i)).length
/-- Results that differ from the reference values of the image: mismatches of row 1 of Table 12.6, which concern no tenant (R470). -/
def passFails (n : Nat) (s : State) : State :=
  forS (List.range n) (fun _ => record 0x0C06 0 1) (modErr (fun e => { e with checkFail := satAdd 32 e.checkFail n }) s)
/-- A pass ends with the cores that failed at the corner and, of them, at the operating point. -/
def passDone (d corner again : Nat) (s : State) : State :=
  if (stressRec s d).running ∧ (stressRec s d).testing then
    let hard := (List.range 32).filter (fun i => bitOf corner i && bitOf again i)
    let s1 := forS hard (fun i => fenceCore (32 * d + i)) (passFails (pop32 corner + hard.length) (zeroDieBanks d s))
    record 0x0C04 (corner % 2 ^ 32) (d + (if corner % 2 ^ 32 = 0 then 1 else 2) * 4)
      (modStress d (fun x => { x with
        running := false, testing := false, result := if corner % 2 ^ 32 = 0 then 1 else 2, fails := pop32 corner, fenced := hard.length,
        failmap := corner % 2 ^ 32, doneAt := some (nowT s) }) s1)
  else s
/-- STRESS_PASS_DONE. -/
def execStressPassDone (d corner again : Nat) (s : State) : Answer := iodClocked s (.next (passDone d corner again s))

/-- MARGIN_SWEEP_DONE: v_fail of steps 0 on (R497). -/
def execMarginSweepDone (d : Nat) (vfail : List Nat) (s : State) : Answer :=
  iodClocked s (.next (if (dieP s d).sweeping then
      modDie d (fun x => { x with sweeping := false, vfail := ((vfail.take 25).zipIdx).map (fun e => (e.2, e.1)) }) (zeroDieBanks d s)
    else s))

end Sys2Proof.Machine
end

