-- ==== Sys2Proof/Machine/Power.lean ====
section
/-!
DEFINITION. Machine/Power.lean: power states, requests and caps (R482 to R489), the clamp and the governor (R488 to R491), die
temperature, clocks and voltages (R36, R37, R492 to R496), ageing and the idle event (R497, R507).
-/
namespace Sys2Proof.Machine

/-! ## Power states (R482 to R487) -/

/-- Number of a power state (Table 13.1). -/
def pwrCode : PowerSt → Nat
  | .off => 0
  | .standby => 1
  | .full => 2
  | .trimmed => 3
  | .dormant => 4
/-- The module changes its power state: POWER_STATE to every ACTIVE tenant and the book (R509). -/
def setPwr (st : PowerSt) (s : State) : State :=
  if s.pwr.st = st then s else noteAll 0x0D00 0 (pwrCode st + pwrCode s.pwr.st * 8) (modPwr (fun p => { p with st := st }) s)
/-- Full or Trimmed, as the firmware cap gives it (Table 13.1). -/
def capState (s : State) (c : Option Nat) : PowerSt := if c.getD (envelope s) < envelope s then .trimmed else .full
/-- A cap action (R484, Table 13.7): in Dormant it waits for the exit. -/
def capAction (c : Option Nat) (s : State) : State :=
  if s.pwr.st = .dormant then modPwr (fun p => { p with capNext := some c }) s
  else if s.pwr.st = .full ∨ s.pwr.st = .trimmed then setPwr (capState s c) (modPwr (fun p => { p with fwCap := c }) s)
  else s

/-- No rack slot is FILLING. -/
def noFilling (s : State) : Bool := decide (s.rck.slot0.st ≠ 1) && decide (s.rck.slot1.st ≠ 1)
/-- No stress pass and no margin sweep runs. -/
def noPasses (s : State) : Bool := (List.range (numDies s)).all (fun d => !(stressRec s d).running && !(dieP s d).sweeping)
/-- The result of a request (R485). -/
def reqAnswer (r : Nat) (s : State) : State := modPwr (fun p => { p with reqStatus := r }) s

/-- What a request for a power state answers at once (R484 to R486, Table 13.2): 0 it is in force, 4 a condition fails, 1 the
transition starts. -/
def reqResult (s : State) (req : Nat) : Nat :=
  let awake := decide (s.pwr.st = .full) || decide (s.pwr.st = .trimmed)
  if req = 1 then (if s.pwr.st = .dormant then 1 else if awake then 0 else 4)
  else if req = 2 then
    if s.pwr.st = .dormant ∧ s.pwr.trans = 0 then 0
    else if awake && decide (s.pwr.trans = 0) && (workTens s).isEmpty && noFilling s && noPasses s then 1 else 4
  else if s.pwr.st = .standby then 0
  else if (awake || decide (s.pwr.st = .dormant)) && decide (s.pwr.trans = 0) && (boundTens s).isEmpty && noFilling s then 1 else 4
/-- A power request 1 (leave Dormant), 2 (Dormant) or 3 (Standby). -/
def powerReq (req : Nat) (s : State) : State :=
  let r := reqResult s req
  reqAnswer r (if r = 1 then modPwr (fun p => { p with trans := if req = 1 then 2 else if req = 2 then 1 else 3 }) s else s)
/-- PWR_REQ written with 1. -/
def execPwrReqAwake (acc : Acc) (s : State) : Answer := .next (if blockOpen s acc 13 then powerReq 1 s else s)
/-- PWR_REQ written with 2. -/
def execPwrReqDormant (acc : Acc) (s : State) : Answer := .next (if blockOpen s acc 13 then powerReq 2 s else s)
/-- PWR_REQ written with 3. -/
def execPwrReqStandby (acc : Acc) (s : State) : Answer := .next (if blockOpen s acc 13 then powerReq 3 s else s)

/-- A request that ran ends with OK. -/
def reqOk (s : State) : State := if s.pwr.reqStatus = 1 then reqAnswer 0 s else s
/-- DORMANT_ENTRY_DONE (R486): every resident context stands in its image handle; a wake cause that came meanwhile leaves at
once (Table 13.11). -/
def dormantIn (s : State) : State :=
  if s.pwr.trans = 1 then
    let s1 := forS (List.range (numDies s)) saveDie s
    reqOk (setPwr .dormant (modPwr (fun p => { p with from_ := p.st, trans := if p.wake then 2 else 0 }) s1))
  else s
/-- DORMANT_ENTRY_DONE. -/
def execDormantEntryDone (s : State) : Answer := clocked s (.next (dormantIn s))
/-- DORMANT_EXIT_DONE (R487): the state it was entered from, with the cap action that waited; WAKE where a wake cause left it; the
waiting work goes on. -/
def dormantOut (s : State) : State :=
  if s.pwr.st = .dormant ∧ s.pwr.trans = 2 then
    let c := s.pwr.capNext.getD s.pwr.fwCap
    let st := if s.pwr.capNext.isSome then capState s c else s.pwr.from_
    let s1 := setPwr st (modPwr (fun p => { p with trans := 0, wake := false, capNext := none, fwCap := c }) s)
    pump (reqOk (if s.pwr.wake then upEvent 9 0 1 [] 0 0 s1 else s1))
  else s
/-- DORMANT_EXIT_DONE. -/
def execDormantExitDone (s : State) : Answer := clocked s (.next (dormantOut s))

/-! ## Clocks and voltages (R36, R37, R496) -/

/-- After a step down the voltage is lowered to the curve's, once the die is not above its plan's top step. -/
def dropVolt (d : Nat) (s : State) : State :=
  if dieStep s d ≤ fmaxStep s d then modDie d (fun x => { x with volt := min x.volt (curveVolt s d (dieStep s d)) }) s else s
/-- CCLK_STEP: the pending step of a die takes effect. -/
def cclkStep (d : Nat) (s : State) : State :=
  match Map.find s.cor.cclkPend d with
  | none => s
  | some k =>
    let s1 := modCor (fun c => { c with cclk := Map.put c.cclk d k, cclkPend := Map.del c.cclkPend d }) s
    if k < dieStep s d then dropVolt d s1 else s1
/-- CCLK_STEP of a die. -/
def execCclkStep (d : Nat) (s : State) : Answer := iodClocked s (.next (cclkStep d s))

/-! ## The clamp (R488) -/

/-- CLAMP_ENGAGE: 5 samples above the transient limit, or 9.9 ms above the envelope; passes and sweeps end as aborted
(Table 13.11), the governor's steps on their way are overridden. -/
def clampOn (transient : Bool) (s : State) : State :=
  if s.pwr.clamp ∨ s.pwr.st = .off ∨ s.pwr.st = .standby then s
  else
    upEvent 9 0 6 [] 0 0 (modPwr (fun p => { p with
      clamp := true, clampCause := if transient then 1 else 2, clampSteps := 0, clampCnt := satAdd 32 p.clampCnt 1 })
      (modCor (fun c => { c with cclkPend := [] }) (abortSweeps (forS (List.range (numDies s)) abortStress s))))
/-- CLAMP_ENGAGE. -/
def execClampEngage (transient : Bool) (s : State) : Answer := .next (clampOn transient s)
/-- CLAMP_STEP: every present die together, one step down; at 0.80 GHz pacing of 25 % stands in (`pacePct`). -/
def clampDown (s : State) : State :=
  if s.pwr.clamp ∧ (List.range (numDies s)).any (fun d => decide (dieStep s d ≠ 0)) then
    forS (List.range (numDies s)) (fun d s => dropVolt d (modCor (fun c => { c with cclk := Map.put c.cclk d (dieStep s d - 1) }) s))
      (modPwr (fun p => { p with clampSteps := satAdd 8 p.clampSteps 1 }) s)
  else s
/-- CLAMP_STEP. -/
def execClampStep (s : State) : Answer := .next (clampDown s)
/-- CLAMP_RELEASE: the clocks stay; the engagement is recorded as CLAMP (R509). -/
def execClampRelease (s : State) : Answer :=
  .next (if s.pwr.clamp then
      record 0x0D04 0 (s.pwr.clampCause + s.pwr.clampSteps * 4) (modPwr (fun p => { p with clamp := false, clampAt := some s.tick }) s)
    else s)

/-! ## The governor (R490, R491) -/

/-- Step of a die as it will stand once what is on its way has taken effect. -/
def aimStep (s : State) (d : Nat) : Nat := Map.get (dieStep s d) s.cor.cclkPend d
/-- The die of a list that a test prefers to the one before it; ties keep the earlier. -/
def bestDie (better : Nat → Nat → Bool) (l : List Nat) : Option Nat :=
  l.foldl (fun a d => match a with
    | none => some d
    | some x => if better d x then some d else some x) none
def stepDown (s : State) (d : Nat) : List COut := [.clock d (aimStep s d - 1)]
/-- A step up: the voltage first (R496). -/
def stepUp (s : State) (d : Nat) : List COut := [.volt d (curveVolt s d (aimStep s d + 1)), .clock d (aimStep s d + 1)]
/-- The one change the governor stages in a cycle (R490, R496): P is the mean input power over the cycle. While the clamp is engaged a
step is staged and not emitted (Table 13.11). -/
def governor (s : State) : List COut :=
  let ds := List.range (numDies s)
  let low := ds.filter (fun d => decide (aimStep s d ≠ 0))
  let hot := low.filter (fun d => (dieP s d).throttle || decide (fldW (cset s .pwr 0 2) 6 0 ≤ (dieP s d).temp))
  let high := low.filter (fun d => decide (fmaxStep s d < aimStep s d))
  let cold := ds.filter (fun d => decide (aimStep s d < fmaxStep s d) && !(dieP s d).throttle)
  let p := s.pwr.power
  let c := capNow s
  if ¬ diesOn s then []
  else
    match bestDie (fun d x => decide ((dieP s x).temp < (dieP s d).temp)) hot with
    | some d => stepDown s d
    | none =>
      match high with
      | d :: _ => stepDown s d
      | [] =>
        if c < p then
          match bestDie (fun d x => decide (aimStep s x ≤ aimStep s d)) low with
          | some d => stepDown s d
          | none => if s.pwr.level < 3 then [.governor (s.pwr.level + 1)] else []
        else if p * 100 < c * 98 then
          if 0 < s.pwr.level then [.governor (s.pwr.level - 1)]
          else match bestDie (fun d x => decide (aimStep s d < aimStep s x)) cold with
            | some d => stepUp s d
            | none => []
        else []

/-- PACING_WINDOW: the first d × 100 µs of a period begin, or end. -/
def execPacingWindow (opens : Bool) (s : State) : Answer := iodClocked s (.next (modPwr (fun p => { p with pacingOpen := opens }) s))
/-- CAP_UNMET_TIMEOUT: 1 s at level 3 with P above the cap (R491). -/
def capUnmet (s : State) : State :=
  if s.pwr.level = 3 ∧ capNow s < s.pwr.power then
    upEvent 9 0 3 [] 0 0 (record 0x0D03 0 (capNow s + s.pwr.power * 2 ^ 16)
      (modPwr (fun p => { p with unmet := satAdd 32 p.unmet 1, interval := p.interval.map (fun v => { v with unmet := true }) }) s))
  else s
/-- CAP_UNMET_TIMEOUT. -/
def execCapUnmetTimeout (s : State) : Answer := clocked s (.next (capUnmet s))

/-! ## Die temperature (R492, R493) -/

/-- A die trips at 115 °C: counted, the fault path with DIE_TRIP. -/
def dieTrip (d : Nat) (s : State) : State :=
  if (dieP s d).tripped then s
  else faultAll 0x0B 0xFF 0xFF (modDie d (fun x => { x with tripped := true, trips := satAdd 32 x.trips 1 }) s)
/-- DIE_TEMP_SAMPLE: the hottest of a die's sensors. -/
def dieTemp (d t : Nat) (s : State) : State :=
  let thr := fldW (cset s .pwr 0 2) 6 0
  let x := dieP s d
  let s1 := modDie d (fun x => { x with temp := t }) s
  let s2 := if thr ≤ t ∧ ¬ x.throttle then
      upEvent 9 0 5 [] 0 0 (record 0x0D05 0 (d + t % 256 * 256) (modDie d (fun x => { x with throttle := true }) s1))
    else if t + 3 ≤ thr ∧ x.throttle then modDie d (fun x => { x with throttle := false }) s1
    else s1
  if 115 ≤ t then dieTrip d s2
  else if t + 10 ≤ thr ∧ x.tripped ∧ s.err.resetOn = none ∧ s.err.resetPend = none then
    pump (modDie d (fun x => { x with tripped := false }) s2)
  else s2
/-- DIE_TEMP_SAMPLE of a present die. -/
def execDieTempSample (d t : Nat) (s : State) : Answer := iodClocked s (.next (if d < numDies s ∧ (s.pwr.st = .full ∨ s.pwr.st = .trimmed) ∧ ¬ s.boot.retiring then dieTemp d t s else s))

/-! ## Ageing (R449, R497) and idleness (R507) -/

/-- The vintage monitors of one die are read: margin in ps, two's complement of 16 bits. -/
def vintage (d : Nat) (margin : BitVec 16) (s : State) : State :=
  let thr : Int := fldW (cset s .pwr 0 3) 7 0
  let s1 := modDie d (fun x => { x with margin := margin.toNat }) s
  let listed := s.pol.wilts.find? (fun w => decide (w.kind = 2) && decide (w.subject = d))
  match listed with
  | none =>
    let s2 := wiltJoin 2 d s1
    if margin.toInt < thr then (if s2.pol.wilts.any (fun w => decide (w.kind = 2) && decide (w.subject = d)) then upEvent 9 0 4 [] 0 0 s2 else s2)
    else s1
  | some w =>
    let replanned : Bool := match (dieP s d).planAt with
      | some k => decide (w.since.s ≤ k)
      | none => false
    if thr < margin.toInt ∧ replanned then wiltLeave 2 d s1 else s1
/-- VINTAGE_READ: the owner reads every present die, in order. -/
def execVintageRead (margins : List (BitVec 16)) (s : State) : Answer :=
  clocked s (.next (if s.cel.own = 2 ∨ ¬ diesOn s then s
    else forS (margins.take (numDies s)).zipIdx (fun m s => vintage m.2 m.1 s) s))
/-- REPLAN_TIMER: replan_days have passed (R497). -/
def execReplanTimer (s : State) : Answer := clocked s (.next (upEvent 9 0 4 [] 0 0 s))
/-- IDLE_TIMER: no tenant has had work for idle_ms; once per idle period (Table 13.6). -/
def execIdleTimer (s : State) : Answer :=
  clocked s (.next (if fldW (cset s .pwr 0 4) 15 0 ≠ 0 ∧ (workTens s).isEmpty ∧ ¬ s.pwr.idle then
      upEvent 9 0 0 [] 0 0 (modPwr (fun p => { p with idle := true }) s)
    else s))

end Sys2Proof.Machine
end

