-- ==== Sys2Proof/Machine/Cellarer.lean ====
section
/-!
DEFINITION. Machine/Cellarer.lean: the control cycle of the owner Cellarer: what it consumes and stages until its freeze (R423 to R426,
R443, R444, R500 to R505, R652), the commit strobe (R425, R430, R436, R451, R628), the batch at the IOD (R425).
-/
namespace Sys2Proof.Machine

/-! ## The dies (R428 to R430, R432, R434, R435) -/

def dieState (s : State) (d : Nat) : Nat := if d = 0 then s.cel.ca else s.cel.cb
def setDie (d st : Nat) (s : State) : State := modCel (fun c => if d = 0 then { c with ca := st } else { c with cb := st }) s
/-- A die holds OWN and runs the control cycle, from the end of B01 on (Table 11.2). -/
def ownerOn (s : State) : Bool := decide (s.cel.own ≠ 2) && decide (dieState s s.cel.own = 5)
/-- The standby die: the one in UNSYNC, SYNCING or SYNCED. -/
def standbyDie (s : State) : Option Nat := [0, 1].find? (fun d => decide (2 ≤ dieState s d) && decide (dieState s d ≤ 4))
/-- The standby is SYNCED. -/
def synced (s : State) : Bool := [0, 1].any (fun d => decide (dieState s d = 4))
/-- What the standby holds now, kept when its copy stops being current: both MRAM arrays as the last commit left them (R27, R28). -/
def saveStale (s : State) : State :=
  modCel (fun c => { c with stale := some { book := s.book, mram := s.mram, sec := s.sec, pol := s.pol, fwCap := s.pwr.fwCap, interval := s.pwr.interval } }) s
/-- The newest intact image of the two buffers (Table 01.3). -/
def newestImage (m : Mram) : Option Image :=
  match m.img0, m.img1 with
  | some x, some y => if x.cycle < y.cycle then some y else some x
  | some x, none => some x
  | none, y => y
/-- The image of the cycle that commits goes to the buffer that does not hold the one before (R26). -/
def storeImage (outs : List COut) (s : State) : State :=
  let im : Image := ⟨s.cel.cycle + 1, s.cel.upSeq, outs⟩
  modMram (fun m => if s.cel.cycle % 2 = 0 then { m with img1 := some im } else { m with img0 := some im }) s
/-- Both watching dies count both paths as heard. -/
def allHeard (s : State) : State :=
  modCel (fun c => { c with linkSilent := false, kaSilent := false, ownLinkSilent := false, ownKaSilent := false, linkAt := nowT s, kaAt := nowT s }) s
/-- The interlock takes the old owner's enables away; the new owner's come after 2 µs (R429). -/
def moveOwn (new : Nat) (s : State) : State := allHeard (setDie new 5 (modCel (fun c => { c with own := 2, gapTo := some new }) s))

/-- Staged outputs that a new owner stages again: they answer upward messages that stand in its queue, or acts of the IOD. -/
def survives (o : COut) : Bool :=
  match o with
  | .failUp _ _ _ => true
  | .resetLine => true
  | .frame k _ _ _ => decide (k = 3)
  | _ => false
/-- The batch of the newest image goes out again while it has no acknowledgement (R434). -/
def unackedBatch (new : Nat) (s : State) : Option Batch :=
  match s.cel.unacked, newestImage s.mram with
  | some _, some i => some ⟨i.cycle, i.outs, new⟩
  | _, _ => none
/-- A takeover or a fault release to a SYNCED standby (R430, R434): it resumes from its last resume point, nothing of the cycle in
progress remains; the upward messages queued since stand, and with them what they wrote: DEDUCED, it reaches MRAM at the new owner's
strobe (R601, log 154); the batch without acknowledgement goes out again; the stamp queue is empty (R527). -/
def hotTakeover (new : Nat) (s : State) : State :=
  let s1 := setDie (1 - new) 6 s
  let s2 := modCel (fun c => { c with
    frozen := false, closed := 0, taken := [], staged := c.staged.filter survives, batches := [], again := unackedBatch new s, imageGot := false,
    imageAcked := false, overRow := 0, switchReq := false, solo := true, hot := satAdd 16 c.hot 1 }) s1
  record 0x0B00 0 new (moveOwn new (modTim (fun x => { x with txq := [] }) s2))
/-- A new owner counts every step up to the highest whose REPORT the IOD has sent as reported (R654). -/
def countReported (s : State) : State :=
  let sent := fun (y : TenStep) (r : StepRec) => match y.reported with | some k => decide (r.num ≤ k) | none => false
  let mark := fun (y : TenStep) => { y with steps := y.steps.map (fun r => { r with left := r.left || sent y r }) }
  modStp (fun x => { x with tens := Map.mapV (fun _ y => mark y) x.tens }) s
/-- Boot's part of the retention array: a slot being programmed stays DOWNLOADING, since the flash holds what it holds. -/
def bootKept (m : Mram) (b : Boot) : Boot :=
  { b with
    ledger := m.ledger, ldgNext := m.ldgNext, ldgSeq := m.ldgSeq, t1Coef := m.t1Coef, portAuto := m.portAuto, fences := m.fences,
    activeSlot := m.activeSlot, trial := m.trial, trialCnt := m.trialCnt, minVer := m.minVer, ptrSeq := m.ptrSeq,
    slotA := { b.slotA with st := if b.slotA.st = 1 then 1 else m.stA }, slotB := { b.slotB with st := if b.slotB.st = 1 then 1 else m.stB } }
/-- The backup registers of the retention array beside the other plain registers. -/
def regsKept (m : Mram) (r : Map Word) : Map Word :=
  m.regs.foldl (fun r e => Map.put r e.1 e.2) (Map.keep (fun k _ => decide (k < 0x200) || decide (0x300 ≤ k)) r)
/-- The keys and sessions of a Cave whose copy is older: one installed or opened since is not held, one destroyed since is gone (R547,
R554). -/
def keysOf (x : Sec) (s : State) : State :=
  modSec (fun c => { c with
    parcelKeys := Map.keep (fun b k => decide (Map.find x.parcelKeys b = some k)) c.parcelKeys,
    svcKey := if x.svcKey = c.svcKey then c.svcKey else none, svcPrev := if x.svcPrev = c.svcPrev then c.svcPrev else none,
    sessions := c.sessions.filter (fun y => x.sessions.any (fun z => decide (z.id = y.id))) }) s
/-- A cold takeover (R435, R638): the newest image of its own MRAM, the head of the book raised to the next multiple of 2^40;
cycle numbers go on above the last one the IOD applied (DEDUCED, log 90); a kept register that a unit holds stands there and reaches the
new owner's MRAM at its strobe (DEDUCED, log 154). -/
def coldTakeover (new : Nat) (s : State) : State :=
  let s1 := setDie (1 - new) 6 s
  let s3 := match s.cel.stale with
    | none => s1
    | some x =>
      modVnl (fun v => { v with memoLinks := x.mram.memoLinks, memoRoutes := x.mram.memoRoutes }) (keysOf x.sec
        (modBoot (bootKept x.mram)
          (modPwr (fun p => { p with fwCap := x.fwCap, interval := x.interval })
            { s1 with book := x.book, regs := regsKept x.mram s1.regs, pol := { x.pol with retained := x.mram.retained }, mram := x.mram,
                      cel := { s1.cel with
                        cycle := max (((newestImage x.mram).map Image.cycle).getD 0) (s1.cel.lastApplied.getD 0) } })))
  let head := s3.book.head
  let s4 := modBook (fun b => { b with head := (head / 2 ^ 40 + 1) * 2 ^ 40, waiting := [] }) s3
  let s5 := modCel (fun c => { c with
    frozen := false, closed := 0, taken := [], staged := c.staged.filter survives, batches := [], unacked := none, again := none,
    imageGot := false, imageAcked := false, overRow := 0, switchReq := false, solo := true, stale := none, coldReset := true, cold := satAdd 16 c.cold 1 }) s4
  record 0x0B00 0 (new + 2) (record 0x1204 0 head (moveOwn new (modTim (fun x => { x with txq := [] }) (countReported s5))))
/-- A fault release (R430): a SYNCED standby resumes; without one no die holds OWN until a standby takes it cold. -/
def faultRelease (s : State) : State :=
  if s.cel.own = 2 then s
  else
    let d := s.cel.own
    if dieState s (1 - d) = 4 then hotTakeover (1 - d) s
    else modCel (fun c => { c with own := 2, gapTo := none, frozen := false, closed := 0, taken := [], overRow := 0, hot := satAdd 16 c.hot 1 }) (setDie d 6 s)
/-- The owner resets the other die (R432); it holds then what it held. -/
def restartStandby (s : State) : State :=
  if s.cel.own = 2 then s
  else
    let d := 1 - s.cel.own
    let s1 := if dieState s d = 4 then saveStale s else s
    modCel (fun c => { c with solo := true, imageGot := false, imageAcked := false, switchReq := false }) (setDie d 1 s1)
/-- The standby's copy is no longer current (R436). -/
def standbyLost (s : State) : State :=
  match standbyDie s with
  | none => s
  | some d =>
    if dieState s d = 2 then s
    else
      let s1 := if dieState s d = 4 then saveStale s else s
      upEvent 7 0 7 [] 0 0 (record 0x0B02 0 0 (modCel (fun c => { c with solo := true }) (setDie d 2 s1)))

/-! ## Consuming messages (R443, R444, R500, R503, R652) -/

/-- State of a machine instance, the outputs staged in this cycle counted. -/
def smNow (s : State) (acc : List COut) (typ inst : Nat) : Nat :=
  match acc.reverse.find? (fun o => match o with | .smState a b _ => decide (a = typ) && decide (b = inst) | _ => false) with
  | some (.smState _ _ st) => st
  | _ => if typ = 7 then s.pol.frSt else if typ = 8 then Map.get 0 s.pol.lkSt inst else s.pol.pmSt
/-- Tenants a FAIL_STEP action concerns (Table 11.12). -/
def failTens (s : State) (typ code : Nat) (tens : List Nat) : List Nat :=
  if typ = 7 ∧ 1 ≤ code ∧ code ≤ 3 then tens else undrawnTens s
/-- The body of a NOTICE frame (Table 11.5). -/
def noticeBody (code subject detail : Nat) : List Byte := leB 2 code ++ leB 4 subject ++ leB 8 detail
/-- What an action stages (Tables 11.12, 13.7), for an event with the record detail `det` of SM_RECORD. -/
def smAct (s : State) (typ inst code : Nat) (tens : List Nat) (subject detail det a : Nat) : List COut :=
  let rec_ : Rec := { code := 0x1202, subject := typ + smSel s typ * 256 + inst * 65536, detail := det, at_ := nowT s }
  if a = 1 then [.recd rec_]
  else if a = 2 then [.frame 2 none none (noticeBody code subject detail)]
  else if a = 3 then (failTens s typ code tens).map (fun t => .failPol t)
  else if a = 4 then [.fwCap (some (fldW (cset s .pwr 0 1) 15 0))]
  else if a = 0x10 then [.portEn inst false]
  else if a = 0x11 then [.portEn inst true]
  else if a = 0x12 ∨ a = 0x13 then [.timer inst]
  else if a = 0x20 then [.fwCap none]
  else if a = 0x21 then [.fwCap (some (fldW (cset s .pwr 0 1) 31 16))]
  else if a = 0x22 then [.power 2 det]
  else if a = 0x23 then [.power 1 det]
  else []
/-- Takes one event (R443). -/
def smTake (s : State) (acc : List COut) (m : UpMsg) : List COut :=
  match m with
  | .event typ inst code tens subject detail =>
    let st := smNow s acc typ inst
    let r := smStep s typ st code
    acc ++ (if r.1 = st then [] else [.smState typ inst r.1])
      ++ r.2.flatMap (smAct s typ inst code tens subject detail (code + st * 256 + r.1 * 65536))
  | _ => acc

def isEvent (m : UpMsg) : Bool := match m with | .event _ _ _ _ _ _ => true | _ => false
def isFault (m : UpMsg) : Bool := match m with | .fault _ _ _ _ _ _ => true | _ => false
def isBoundary (m : UpMsg) : Bool := match m with | .boundary _ => true | _ => false
def isLow (m : UpMsg) : Bool := match m with | .inputLow => true | _ => false

/-- INTERVAL_CLOSED of an interval (Table 13.8). -/
def closedRec (s : State) (v : Interval) (partialMark late : Bool) : Rec :=
  let ns := if partialMark then nsSince s ⟨v.start, 0⟩ else v.len * 1000000000
  { code := 0x0D01, subject := v.start % 86400 / 60, at_ := nowT s,
    detail := (s.pwr.energy - v.e0) * 1000 / max 1 ns % 2 ^ 16 + v.cap * 2 ^ 16 + v.cls * 2 ^ 32 + b2n partialMark * 2 ^ 36 + b2n late * 2 ^ 37
      + b2n v.unmet * 2 ^ 38 }
/-- An interval boundary (R500, R505): what it stages, the events it delivers, the interval it leaves open. `low`: INPUT_LOW came no
later. -/
def boundaryOuts (s : State) (late low : Bool) : List COut × List UpMsg × Option Interval :=
  let b := tableBody s 6 0
  let len := ivNow s
  let start := s.tim.s / len * len
  let i := tarIndex b start
  let e := tarEntry b i
  let new := decide (e.1 * 60 = start % 86400)
  let nxt : Option Interval := if low then none else some { start := start, len := len, e0 := s.pwr.energy, cap := e.2.1, cls := e.2.2 }
  let closing := match s.pwr.interval with
    | some v => ([COut.recd (closedRec s v low late)], [UpMsg.event 9 0 2 [] 0 0])
    | none => ([], [])
  (closing.1 ++ (if new then [.recd { code := 0x0D02, detail := i + e.2.2 * 64 + b2n low * 1024, at_ := nowT s }] else []) ++ [.interval nxt],
   closing.2 ++ (if new ∧ ¬ low then [.event 9 0 (16 + e.2.2) [] 0 0] else []), nxt)
/-- The close-out of an input loss (R503). -/
def lowOuts (s : State) (v : Option Interval) : List COut :=
  (match v with | some x => [COut.recd (closedRec s x true false)] | none => [])
    ++ [.interval none, .recd { code := 0x0D07, detail := pwrCode s.pwr.st + capNow s * 2 ^ 16, at_ := nowT s }, .closeOut]

/-- Rows 3 and 4 of Table 20.1 for the messages of a cycle: outputs, events, messages taken. -/
def timedOuts (s : State) (ups : List UpMsg) : List COut × List UpMsg × List UpMsg :=
  let bi := ups.findIdx isBoundary
  let li := ups.findIdx isLow
  let bnd := match ups[bi]? with
    | some (.boundary late) => if tariffOn s then (boundaryOuts s late (decide (li < bi)), [UpMsg.boundary late]) else (([], [], s.pwr.interval), [UpMsg.boundary late])
    | _ => (([], [], s.pwr.interval), [])
  let low := if li < ups.length then (lowOuts s bnd.1.2.2, [UpMsg.inputLow]) else ([], [])
  (bnd.1.1 ++ low.1, bnd.1.2.1, bnd.2 ++ low.2)

/-- A seal handed to the owner (R349, R404): the clean report of a bound tenant, its own draw without a binding; a report waits while a
graft is in flight; of a step that is gone nothing remains. -/
def sealOuts (s : State) (ups : List UpMsg) : List (COut × UpMsg) :=
  ups.filterMap (fun m => match m with
    | .seal t n =>
      if (bindOf s t).isNone then some (.drawSelf t n, m)
      else if (stepRec s t n).isSome ∧ graftHolds s t then none
      else some (.report t n, m)
    | _ => none)

/-- An output of policy firmware as the cycle stages it. -/
def fwStage (o : FwOut) : List COut :=
  match o with
  | .portEn p on => [.portEn p on]
  | .stress d => [.stress d]
  | .sweep d => [.sweep d]
  | .retire u => [.retire u]
  | .failStep t => [.failPol t]
  | .table typ num image => [.table typ num image]
  | .trig k secs nanos period => if k < 8 ∧ k ≠ 1 ∧ nanos < 1000000000 then [.trig k ⟨secs, nanos⟩ period] else []
  | .notice code subject detail stamp => [.frame 2 none stamp (noticeBody code subject detail)]
  | .ntp server stamp bytes => [.ntp server stamp bytes]
  | .retained off bytes => if off + bytes.length ≤ 0x40000 then [.retained off bytes] else []
  | .alert low => [.alert low]
  | .leds v => [.leds v]
  | .switchover => [.switchover]
  | .restart => [.restart]
/-- Bytes of payload an output adds to the image. -/
def outBytes (o : COut) : Nat :=
  match o with
  | .frame _ _ _ b => b.length
  | .ntp _ _ b => b.length
  | .table _ _ b => b.length
  | .retained _ b => b.length
  | _ => 0
def stagedBytes (l : List COut) : Nat := (l.map outBytes).sum
/-- Stages outputs while the image holds them (R424): one that exceeds 32 KiB is refused. -/
def stageAll (acc : List COut) (l : List COut) : List COut :=
  l.foldl (fun a o => if stagedBytes a + outBytes o ≤ 32768 then a ++ [o] else a) acc

/-- One DIVERT frame of up to four envelopes of a slot (Table 11.5), to the neighbour's entry; one without an entry goes nowhere. -/
def divertFrame (s : State) (key : Nat) (envs : List (List Byte)) : List COut :=
  match (nbrMod s (key / 16) (key % 16)).bind (svcOf s) with
  | some e => [.frame 3 (some e) none (leB 2 (bindParcel s (key / 16)) ++ leB 1 (key % 16) ++ leB 1 envs.length ++ envs.flatten)]
  | none => []
/-- The longest run of envelopes of the first one's slot, four at most. -/
def divertRun (l : List (Nat × List Byte)) : List (List Byte) :=
  match l with
  | [] => []
  | x :: r => x.2 :: ((r.take 3).takeWhile (fun y => decide (y.1 = x.1))).map Prod.snd
/-- Stages the diverted envelopes as frames while the image holds them; with those that wait. -/
def stageDiverts (s : State) : Nat → List (Nat × List Byte) → List COut → List COut × List (Nat × List Byte)
  | 0, l, acc => (acc, l)
  | n + 1, l, acc =>
    match l with
    | [] => (acc, [])
    | x :: _ =>
      let run := divertRun l
      let fr := divertFrame s x.1 run
      if stagedBytes acc + stagedBytes fr ≤ 32768 then stageDiverts s n (l.drop run.length) (acc ++ fr) else (acc, l)

/-- Acts on every FAULT message not yet acted on. -/
def actFaults (s : State) : State := forS (s.cel.up.filter freshFault) (fun _ => actFault) s

/-- The owner's work of a cycle, in the order of Table 20.1, and its freeze (R423, R652). -/
def freezeCycle (fw : List FwOut) (s : State) : State :=
  let s1 := actFaults s
  let ups := s1.cel.up
  let seals := sealOuts s1 ups
  let timed := timedOuts s1 ups
  let evs := timed.2.1 ++ (ups.filter isEvent).take (64 - timed.2.1.length)
  let acts := evs.foldl (smTake s1) []
  let base := stageAll (s1.cel.staged ++ seals.map Prod.fst ++ timed.1 ++ acts) (fw.flatMap fwStage)
  let div := stageDiverts s1 s1.vnl.diverts.length s1.vnl.diverts base
  let all := div.1 ++ governor s1
  modVnl (fun v => { v with diverts := div.2 }) (modCel (fun c => { c with
    frozen := true, staged := all, closed := all.length, imageGot := false, imageAcked := false,
    taken := ups.filter isFault ++ seals.map Prod.snd ++ timed.2.2 ++ (ups.filter isEvent).take (64 - timed.2.1.length) }) s1)
/-- FREEZE: whether policy firmware has signalled done (R426), the mean input power in W, the energy in µJ since the last freeze, the
input voltage in 0.1 V, what policy firmware stages. -/
def execCycleFreeze (done : Bool) (power energy dv : Nat) (fw : List FwOut) (s : State) : Answer :=
  clocked s (.next (
    let s1 := modPwr (fun p => { p with power := power, energy := p.energy + energy, volts := dv }) s
    if ¬ ownerOn s ∨ s.cel.frozen ∨ ¬ done then s1 else freezeCycle fw s1))

/-- IMAGE_RECEIVE at the standby, with whether the image's CRC-32C holds (R424, R433). -/
def execImageReceive (ok : Bool) (s : State) : Answer :=
  clocked s (.next (if s.cel.frozen ∧ (standbyDie s).isSome ∧ ok then
      modCel (fun c => { c with imageGot := true, linkSilent := false, linkAt := nowT s }) s
    else s))
/-- IMAGE_ACK at the owner. -/
def execImageAck (s : State) : Answer :=
  clocked s (.next (if s.cel.imageGot then modCel (fun c => { c with imageAcked := true, ownLinkSilent := false }) s else s))

/-! ## Service frames out (R438, R555) -/

/-- IV of a service frame (R555). -/
def svcIv (m die seq : Nat) : Nat := m * 2 ^ 76 + die * 2 ^ 75 + seq % 2 ^ 64
/-- Sends one frame to an entry: header, body under the service key and its tag; without a key none is sent. -/
def sendFrame (kind e : Nat) (body : List Byte) (s : State) : State :=
  match s.sec.svcKey with
  | none => s
  | some key =>
    let hd := leB 1 1 ++ leB 1 kind ++ leB 2 body.length ++ leB 3 s.moduleId ++ leB 1 s.cel.own ++ leB 8 s.pol.svcSeq ++ leB 8 (packT (nowT s))
    emit (.svc 0 e (hd ++ gcm key (svcIv s.moduleId s.cel.own s.pol.svcSeq) hd body)) (modPol (fun p => { p with svcSeq := p.svcSeq + 1 }) s)
/-- Sends a staged frame to its entry, or to every valid one, with its transmit stamp (R527). -/
def emitFrame (kind : Nat) (dest stamp : Option Nat) (body : List Byte) (s : State) : State :=
  let es := match dest with
    | some e => if svcValid s e then [e] else []
    | none => svcPeers s
  let s1 := forS es (fun e => sendFrame kind e body) s
  match stamp with
  | some i => if s.sec.svcKey.isSome ∧ ¬ es.isEmpty then txStamp i s1 else s1
  | none => s1

/-! ## What a strobe commits (R425, R445, R451, R510) -/

/-- Policy firmware fails a tenant's oldest undrawn step whose clean report has not left (R375). -/
def failPolicy (t : Nat) (s : State) : State :=
  match (tstep s t).steps.find? (fun r => !r.left) with
  | some r => failStep t r.num 7 s
  | none => s
/-- A load of a table by the host driver waits in its queue: it came first (R445). -/
def hostLoads (s : State) (typ num : Nat) : Bool :=
  s.grp.pend.any (fun c => decide (c.grp = .celTbl) && (match c.obj with | some k => decide (k / 256 % 16 = typ) && decide (k % 16 = num) | none => false))
/-- A staged table is checked and installed, or not (R442, R445, R446); behind the host driver's load of the same table it is staged
again. -/
def fwTable (typ num : Nat) (image : List Byte) (s0 : State) : State :=
  let s := if typ = 1 then flushFmt num s0 else s0
  let body := image.drop 32
  if hostLoads s typ num then modCel (fun c => { c with staged := c.staged ++ [.table typ num image] }) s
  else if tableNamed typ num ∧ image.length ≤ 16384 ∧ image.length = 32 + fieldAt image 4 4 ∧ headerOk typ num (image.take 32) body
      ∧ bodyOk s typ num body ∧ ¬ loadBusy s typ num then install typ num 2 body s
  else s
/-- A power request of the machine; one that fails is recorded (R485). -/
def smPower (req det : Nat) (s : State) : State :=
  if reqResult s req = 4 then
    reqAnswer 4 (record 0x1202 (9 + smSel s 9 * 256) det s)
  else powerReq req s
/-- After the close-out the pair stays in Standby with the auxiliary rail (R504). -/
def closeOutDone (s : State) : State := if s.pwr.auxRail then setPwr .standby (modPwr (fun p => { p with trans := 0, wake := false }) s) else s
/-- Sets the state of a machine instance. -/
def smSet (typ inst st : Nat) (s : State) : State :=
  modPol (fun p => if typ = 7 then { p with frSt := st } else if typ = 8 then { p with lkSt := Map.set 0 p.lkSt inst st } else { p with pmSt := st }) s

/-- The output goes to the IOD in the batch. -/
def inBatch (o : COut) : Bool :=
  match o with
  | .report _ _ | .drawSelf _ _ | .failUp _ _ _ | .portEn _ _ | .stress _ | .sweep _ | .clock _ _ | .governor _ | .retire _ => true
  | _ => false
/-- An output that takes effect at the owner (R425). -/
def applyOut (o : COut) (s : State) : State :=
  match o with
  | .volt d mv => if s.pwr.clamp then s else modDie d (fun x => { x with volt := mv }) s
  | .power req det => smPower req det s
  | .fwCap c => capAction c s
  | .interval v => modPwr (fun p => { p with interval := v, lenChanged := p.lenChanged && v.isNone }) s
  | .closeOut => closeOutDone s
  | .frame k d st b => emitFrame k d st b s
  | .ntp server st b =>
    let s1 := emit (.svc 1 server b) s
    match st with
    | some i => txStamp i s1
    | none => s1
  | .resetLine => if s.err.resetOn.isSome then s else complexReset s
  | .table typ num image => fwTable typ num image s
  | .smState typ inst st => smSet typ inst st s
  | .timer p => modPol (fun x => { x with timers := addOnce p x.timers }) s
  | .recd r => addRec r s
  | .retained off b => modPol (fun x => { x with retained := b.zipIdx.foldl (fun m e => Map.set 0 m (off + e.2) e.1) x.retained }) s
  | .trig k target period => modTrig k (fun _ => { st := 2, target := target, period := period }) s
  | .alert low => modPol (fun x => { x with alert := low }) s
  | .leds v => modPol (fun x => { x with leds := v % 8 }) s
  | .switchover => modCel (fun c => { c with switchReq := c.switchReq || synced s }) s
  | .restart => restartStandby s
  | .failPol t => failPolicy t s
  | .report t n => modStep t n (fun r => { r with left := true }) s
  | .drawSelf _ _ | .failUp _ _ _ | .portEn _ _ | .stress _ | .sweep _ | .clock _ _ | .governor _ | .retire _ => s

/-- Order of application: policy failures before the reports they forestall. -/
def failsFirst (l : List COut) : List COut :=
  let f := fun o => match o with | COut.failPol _ => true | _ => false
  l.filter f ++ l.filter (fun o => !f o)
/-- A clock step of the governor is not emitted while the clamp is engaged (Table 13.11). -/
def emitted (s : State) (o : COut) : Bool :=
  inBatch o && !(match o with | .clock _ _ => s.pwr.clamp | _ => false)

/-- The checks of the Cellarer's main group (R451). -/
def celChecks (s : State) (c : PendCommit) : List Check :=
  let on := snapF c 0 23 16
  let self := (List.range 4).any (fun i => decide (snapW c (i + 1) ≠ 0)) && decide (snapF c 5 15 0 ≠ 0)
  [ (decide (1 ≤ on) && decide (snapF c 0 15 8 < on), cRANGE, offOf c 0),
    (tableIn s 7 (snapF c 0 3 0) && tableIn s 8 (snapF c 0 7 4), cCONFLICT, offOf c 0),
    (!snapB c 0 31 || self, cCONFLICT, offOf c 0) ]
/-- The checks of a service-peer entry (R451). -/
def celSvcChecks (s : State) (e : Nat) (c : PendCommit) : List Check :=
  let addr := (List.range 4).any (fun i => decide (snapW c (i + 1) ≠ 0))
  [ (!snapB c 0 31 || (addr && decide (snapF c 5 15 0 ≠ 0)), cCONFLICT, if addr then offOf c 5 else offOf c 1),
    (!(snapB c 0 31 && !snapB c 0 30)
        || !(List.range 32).any (fun k => decide (k ≠ e) && svcNames s k && decide (fldW (svcWord s k) 19 0 = snapF c 0 19 0)), cCONFLICT, offOf c 0) ]
/-- A committed entry: it is not judged yet; the PEER entry of a module that lost its entry leaves the wilt list (Table 11.14). -/
def celSvcApply (e : Nat) (c : PendCommit) (s : State) : State :=
  let old := svcWord s e
  let s1 := modPol (fun p => { p with peers := Map.del p.peers e }) (csetAll .celSvc e c.snap s)
  if bitW old 31 ∧ ¬ bitW old 30 ∧ (svcOf s1 (fldW old 19 0)).isNone then wiltLeave 3 (fldW old 19 0) s1 else s1

/-- The checks of the PWR group (R501, R510). -/
def pwrChecks (s : State) (c : PendCommit) : List Check :=
  let w := fun x => decide (300 ≤ x) && decide (x ≤ envelope s)
  [ (w (snapF c 0 15 0), cRANGE, offOf c 0),
    (w (snapF c 1 15 0) && w (snapF c 1 31 16), cRANGE, offOf c 1),
    (decide (85 ≤ snapF c 2 6 0) && decide (snapF c 2 6 0 ≤ 110), cRANGE, offOf c 2),
    (decide (1 ≤ snapF c 3 23 16) && decide (5 ≤ snapF c 3 15 8) && decide (snapF c 3 15 8 ≤ 100) && decide (1 ≤ snapF c 3 7 0), cRANGE, offOf c 3),
    (tableIn s 9 (snapF c 0 27 24), cCONFLICT, offOf c 0),
    (!snapB c 0 31 || (tableRec s 6 0).loaded, cCONFLICT, offOf c 0),
    (!(tableRec s 6 0).loaded || tarFits (tableBody s 6 0) (ivLen (snapF c 0 17 16)), cCONFLICT, offOf c 0) ]
/-- A committed PWR group: a new interval length closes the current interval with the partial mark (R501). -/
def pwrApply (c : PendCommit) (s : State) : State :=
  let s1 := csetAll .pwr 0 c.snap s
  let s2 := if snapF c 0 17 16 = fldW (cset s .pwr 0 0) 17 16 then s1
    else
      let s2 := match s.pwr.interval with
        | some v => addRec (closedRec s v true false) s1
        | none => s1
      modPwr (fun p => { p with interval := none, lenChanged := true }) s2
  smFix s2

/-- Applies or refuses one commit of the groups the strobe applies. -/
def strobeOne (c : PendCommit) (s : State) : State :=
  let o := c.obj.getD 0
  let chk := match c.grp with
    | .cel => celChecks s c
    | .celSvc => celSvcChecks s o c
    | _ => pwrChecks s c
  match firstFail chk with
  | some (res, off) => reportCommit c res off s
  | none => reportCommit c cOK 0 (match c.grp with
    | .cel => smFix (csetAll .cel 0 c.snap s)
    | .celSvc => celSvcApply o c s
    | _ => pwrApply c s)
/-- The commits that wait for the strobe, in their order (R61, R451, R510). -/
def strobeCommits (s : State) : State :=
  forS s.grp.pend (fun _ s =>
    match s.grp.pend.findIdx? (fun c => atStrobe c.grp) with
    | none => s
    | some i =>
      match s.grp.pend[i]? with
      | some c => strobeOne c (modGrp (fun g => { g with pend := g.pend.eraseIdx i }) s)
      | none => s) s

/-! ## The book (R625 to R630) -/

/-- The 64 bytes of a record (Table 18.1). -/
def recBytes (s : State) (seq : Nat) (r : Rec) : List Byte :=
  let flags := b2n r.spec + 2 * b2n s.tim.set + 4 * b2n (bitW (timSrc s) 29) + 8 * (s.cel.own % 2)
  let b := leB 8 seq ++ leB 5 s.book.hours ++ leB 1 flags ++ leB 2 r.code ++ leB 4 s.boot.pwrCycles
    ++ leB 8 (if s.tim.set then packT r.at_ else 0) ++ leB 2 (match r.tenant with | some t => t % 4096 + 32768 | none => 0) ++ zeros 2
    ++ leB 4 r.subject ++ leB 8 r.detail ++ leB 6 r.step ++ zeros 10
  b ++ leB 4 (crc32c b).toNat
/-- Writes one record to its slot. -/
def putRec (r : Rec) (s : State) : State :=
  modBook (fun b => { b with
    recs := Map.put b.recs (b.head % 131072) (recBytes s b.head r), head := b.head + 1, floor := max b.floor (b.head + 1 - 131072),
    hoursDue := true }) s
/-- The records of a cycle: at most 64; after a drop a BOOK_LOSS record comes first (R628). -/
def commitBook (s : State) : State :=
  let loss : List Rec := if s.book.dropped = 0 then [] else [{ code := 0x1201, detail := s.book.dropped, at_ := nowT s }]
  let n := 64 - loss.length
  forS (loss ++ s.book.waiting.take n) putRec (modBook (fun b => { b with waiting := b.waiting.drop n, dropped := 0 }) s)

/-! ## The strobe (R423 to R436) -/

/-- Trigger 1 marks the interval boundaries while the tariff is in force (R499, R528). -/
def armBoundary (s : State) : State :=
  let p := ivNow s * 1000000
  if tariffOn s then
    if (trigRec s 1).st = 2 ∧ (trigRec s 1).period = p then s
    else modTrig 1 (fun _ => { st := 2, target := ⟨(s.tim.s / ivNow s + 1) * ivNow s, 0⟩, period := p }) s
  else modPwr (fun x => { x with interval := none }) (modTrig 1 (fun _ => {}) s)
/-- An overrun (R426): nothing commits; CYCLE_OVERRUN at most once a second; the third in a row is a fault release. -/
def overrun (s : State) : State :=
  let due : Bool := match s.cel.overAt with
    | some k => decide (k + 250000000 ≤ s.tick)
    | none => true
  let s1 := modCel (fun c => { c with
    overRow := c.overRow + 1, overruns := satAdd 32 c.overruns 1, strobeTick := some s.tick, overAt := if due then some s.tick else c.overAt }) s
  let s2 := if due then record 0x0B0A 0 0 s1 else s1
  if 3 ≤ s2.cel.overRow then faultRelease s2 else s2
/-- The reset line of a cold takeover's first commit (R435). -/
def coldLine (s : State) : State :=
  if s.cel.coldReset then
    complexReset (faultReport 0x10 3 0x13 0xFF (activeTens s) (modCel (fun c => { c with coldReset := false }) s))
  else s
/-- The standby has not acknowledged this cycle's image: it is UNSYNC (R436). -/
def checkAck (s : State) : State := if synced s ∧ ¬ s.cel.imageAcked then standbyLost s else if synced s ∨ s.cel.stale.isSome then s else saveStale s
/-- A planned switchover, at a strobe at which the standby is SYNCED (Table 11.3). The IOD takes batches from the owner alone (R24), so the
new owner emits the batch of this cycle again (DEDUCED, log 154). -/
def plannedSwitch (s : State) : State :=
  if s.cel.switchReq ∧ synced s then
    let old := s.cel.own
    record 0x0B00 0 (1 - old + 4) (setDie old 4 (moveOwn (1 - old) (modCel (fun c => { c with
      switchReq := false, batches := [], again := unackedBatch (1 - old) s }) s)))
  else s
/-- Sends the batch of the cycle to the IOD, after that of a cycle emitted again (R425, R434). -/
def sendBatch (outs : List COut) (s : State) : State :=
  modCel (fun c => { c with
    batches := c.batches ++ c.again.toList ++ [⟨c.cycle + 1, outs, c.own⟩], unacked := some ⟨c.cycle + 1, outs, c.own⟩, again := none }) s
/-- The strobe of a frozen cycle. -/
def commitCycle (s : State) : State :=
  let s1 := checkAck s
  let outs := s1.cel.staged.take s1.cel.closed
  let s2 := modCel (fun c => { c with
    staged := c.staged.drop c.closed, closed := 0, frozen := false, up := c.up.diff c.taken, upSeq := c.upSeq + c.taken.length, taken := [], overRow := 0 }) s1
  let s3 := coldLine (modPol (fun p => { p with notices := [], ntpIn := none, ibis := [] }) s2)
  let s4 := forS (failsFirst outs) applyOut s3
  let batch := outs.filter (emitted s4)
  let s5 := storeImage batch (sendBatch batch s4)
  let s6 := commitKept (commitBook (lateRelease (armBoundary (strobeCommits s5))))
  plannedSwitch (modCel (fun c => { c with strobeTick := some s.tick, cycle := c.cycle + 1, firstCycle := true }) s6)
/-- COMMIT_STROBE. -/
def execCommitStrobe (s : State) : Answer :=
  clocked s (.next (if ¬ ownerOn s then s else if s.cel.frozen then commitCycle s else overrun s))

/-! ## The batch at the IOD (R24, R425) -/

/-- A port enable of the owner: a commit of the port's group with that bit (Table 11.12), through the group's checks. -/
def portEnable (p : Nat) (on : Bool) (s : State) : State :=
  let ws := (List.range 4).map (cset s .vnlPort p)
  let ws := ws.modify 0 (fun w => if on then w ||| 0x80000000 else w &&& 0x7FFFFFFF)
  let c : PendCommit := { acc := 64, grp := .vnlPort, win := p, obj := some p, cmd := 1, snap := ws }
  if (firstFail (vnlPortChecks s p c)).isNone then portCommit p ws s else s
/-- One output of a batch takes effect at the IOD. -/
def batchOut (o : COut) (s : State) : State :=
  match o with
  | .report t n => tryReport t n (modStep t n (fun r => { r with arrived := true }) s)
  | .drawSelf t n => drawStep t n 1 none s
  | .failUp t n reason => failOut t n reason (tenCoord s t) s
  | .portEn p on => portEnable p on s
  | .stress d => startStress d s
  | .sweep d => startSweep d s
  | .clock d k => if s.pwr.clamp then s else modCor (fun c => { c with cclkPend := Map.put c.cclkPend d k }) s
  | .governor l => drainQueue (modPwr (fun p => { p with level := l }) s)
  | .retire u => setRetire 4 u s
  | _ => s
/-- The oldest batch on its way arrives: intact and from the owner it is applied once by its cycle number, and acknowledged; else it is
dropped (R24, R425). -/
def takeBatch (intact : Bool) (s : State) : State :=
  match s.cel.batches with
  | [] => s
  | b :: rest =>
    let s1 := modCel (fun c => { c with batches := rest }) s
    if ¬ intact ∨ b.die ≠ s.cel.own then s1
    else
      let done : Bool := match s.cel.lastApplied with
        | some k => decide (b.cycle ≤ k)
        | none => false
      let s2 := modCel (fun c => { c with
        applySilent := false, unacked := if c.unacked.map Batch.cycle = some b.cycle then none else c.unacked,
        lastApplied := if done then c.lastApplied else some b.cycle }) s1
      if done then s2 else forS b.outs batchOut s2
/-- BATCH_RECEIVE, with whether the batch's CRC-32C holds. -/
def execBatchReceive (intact : Bool) (s : State) : Answer := clocked s (.next (takeBatch intact s))
/-- NO_BATCH_TIMEOUT: the fault path; no heartbeat symbol until a batch is applied (R437). -/
def execNoBatchTimeout (s : State) : Answer :=
  clocked s (.next (if s.cel.applySilent then s else faultAll 0x0F 0xFF 0xFF (modCel (fun c => { c with applySilent := true }) s)))

end Sys2Proof.Machine
end

