-- ==== Sys2Proof/Machine/Planter.lean ====
section
/-!
DEFINITION. Machine/Planter.lean: the Planter's evaluations and moves, page zeroization, press-buffer timeouts, stack
temperature, and the loss of stacks and clocks (R39, R102, R118 to R141).
-/
namespace Sys2Proof.Machine

/-! ## Evaluation and moves (R118 to R122) -/

/-- Evaluates one page and starts the move it asks for (R119 to R122): none for a marked, banned or reserved page, nor for one whose stack is
tripped or lost and cannot be read (DEDUCED from R137, log 150); into T2 only while demotions are open and the page holds no pre-image (R123,
R362). -/
def evalPage (key : Nat) (s : State) : State :=
  match Map.find s.pln.pages key, hndRec s (key / 0x100000) with
  | some x, some h =>
    let cur := (x.tier, x.stack)
    let s0 := countUnmet x cur s
    if h.reserved ∨ x.mark ∨ x.banned ∨ ¬ migEn s ∨ s.pln.moves.any (fun m => decide (m.page = key))
        ∨ (x.tier = 0 ∧ (stkRec s x.stack).st ≠ 1) then s0
    else
      match placeOf s h.tenant key x (x.tier = 2 || (t2Open s && !hasPreimg s (key / 0x100000) (key % 0x100000))) (some cur) with
      | some q => if q.1 = cur ∨ x.tier = 2 ∧ q.1.1 = 2 then s0 else startMove key q.1 q.2 false s0
      | none => s0
  | _, _ => s

/-- PLANTER_DECAY: every count halves, every page is evaluated (R118, R119). -/
def execPlanterDecay (s : State) : Answer :=
  .next (whenS (nclkOn s) (fun s =>
    let s1 := modPln (fun p => { p with pages := Map.mapV (fun _ x => { x with c0 := x.c0 / 2, c1 := x.c1 / 2, c2 := x.c2 / 2, c3 := x.c3 / 2 }) p.pages }) s
    forS (s1.pln.pages.map Prod.fst) evalPage s1) s)

def moveOf (s : State) (key : Nat) : Option Move := s.pln.moves.find? (fun m => decide (m.page = key))
/-- A move ends in phase 2: the page map switches, the source zeroizes, a demotion into T2 programs flash (R127, R417). -/
def finishMove (m : Move) (s : State) : State :=
  let h := m.page / 0x100000
  let p := m.page % 0x100000
  match pageRec s h p with
  | none => dropMove m.page s
  | some x =>
    let s1 := modPage h p (fun y => { y with tier := m.tier, stack := m.stack }) s
    let s2 := modPln (fun y => { y with
      moves := y.moves.filter (fun n => decide (n.page ≠ m.page)),
      zeroing := leaves x.tier x.stack y.zeroing,
      press := y.press.filter (fun l => decide (l.hnd ≠ h) || decide (l.line / 32768 ≠ p)) }) s1
    let s3 := if m.promo then s2 else modPln (fun y => { y with migDone := satAdd 32 y.migDone 1 }) s2
    if m.tier = 2 then
      match hndRec s h with
      | some y => program y.tenant 0x200000 s3
      | none => s3
    else s3

/-- A move is abandoned for the writes it met: the page stays; three of them ban moves for 100 ms (R128). -/
def abandonMove (m : Move) (s : State) : State :=
  dropMove m.page (modPage (m.page / 0x100000) (m.page % 0x100000) (fun y =>
    if 3 ≤ y.abandons + 1 then { y with abandons := 0, banned := true } else { y with abandons := y.abandons + 1 }) s)
/-- Starts again the promotions that waiting writes need and found no room for. -/
def retryPromos (s : State) : State := forS s.pln.waits (fun w => startPromo w.hnd (pageIdx w.off)) s

/-- A move would bring a tenant past its cap, lowered since the move began (R120): it goes no further. -/
def overCap (s : State) (m : Move) : Bool :=
  decide (m.tier = 0) && (match Map.find s.pln.pages m.page, hndRec s (m.page / 0x100000) with
    | some x, some h => decide (x.tier ≠ 0) && decide (tqCap s h.tenant ≤ tenIn s h.tenant 0)
    | _, _ => false)
/-- The page map switches, or the move is given up for the cap; what waits for either goes on. -/
def endMove (m : Move) (s : State) : State := pump (retryPromos (if overCap s m then dropMove m.page s else finishMove m s))
/-- MIGRATION_COPY_DONE of a page: phase 1 ends (R127, R128); a marked page waits (R146). -/
def execMigrationCopyDone (h p : Nat) (s : State) : Answer :=
  .next (match moveOf s (pageKey h p) with
    | some m =>
      if m.promo ∨ ¬ moveRuns s m ∨ ¬ nclkOn s then s
      else if (match pageRec s h p with | some x => x.mark | none => false) then s
      else if 1024 < m.lines.length then retryPromos (abandonMove m s) else endMove m s
    | none => s)

/-- MIGRATION_BACKOFF_END (R128). -/
def execMigrationBackoffEnd (key : Nat) (s : State) : Answer :=
  .next (modPage (key / 0x100000) (key % 0x100000) (fun x => { x with banned := false }) s)

/-- PROMOTION_DONE: the T2 page stands in its new tier and what waits for it proceeds (R123). -/
def execPromotionDone (key : Nat) (s : State) : Answer :=
  .next (match moveOf s key with
    | some m => if m.promo ∧ moveRuns s m ∧ nclkOn s then endMove m s else s
    | none => s)

/-! ## Page zeroization (R102) -/

/-- Removes one entry of a list. -/
def eraseOne (x : Nat × Nat) (l : List (Nat × Nat)) : List (Nat × Nat) := l.erase x

/-- PAGE_ZEROIZE_DONE of a page of a tier and stack: it rejoins the pool; the creations that wait for a page are made by
Machine/Dma.lean's retry. -/
def zeroizeDone (tier stack : Nat) (s : State) : State :=
  retryPromos (modPln (fun p => { p with zeroing := eraseOne (tier, stack) p.zeroing }) s)

/-! ## Press buffer (R131) -/

/-- A demand read of a poisoned block (R465): the fault of its tier, unit the stack or T1. -/
def poisonFault (s : State) (h p : Nat) : State :=
  match pageRec s h p with
  | some x => if x.tier = 0 then faultAll 0x01 x.stack 0xFF s else faultAll 0x02 8 0xFF s
  | none => s

/-- PRESS_LINE_TIMEOUT: a line 4 µs old is written by read-modify-write, which consumes a poisoned block (R131, R465). -/
def execPressLineTimeout (stack h line : Nat) (s : State) : Answer :=
  .next (if s.pln.press.any (fun l => decide (l.stack = stack) && decide (l.hnd = h) && decide (l.line = line)) ∧ nclkOn s ∧ ¬ s.err.fence then
      let s1 := modPln (fun p => { p with press := p.press.filter (fun l => decide (l.stack ≠ stack) || decide (l.hnd ≠ h) || decide (l.line ≠ line)) }) s
      if (poisonedIn s h (line * 64) 64).isEmpty then s1 else poisonFault s1 h (line / 32768)
    else s)

/-! ## Stack temperature and loss (R136 to R141) -/

/-- Entry points of the throttle levels of the thermal set in force (Table 03.8, or the throttle table curve_sel names),
none above 104 °C. -/
def throttlePoints (s : State) : List Nat :=
  let w := s.pln.therm
  let thr := fldW w 6 0
  let n := fldW w 19 16
  if n = 0 then [thr, thr + 3, thr + 6, thr + 9]
  else
    let b := tableBody s 3 n
    (List.range (fieldAt b 0 1)).map (fun i => min 104 (thr + fieldAt b (4 + 4 * i) 1))
/-- Highest level whose entry point a temperature reaches. -/
def levelOf (pts : List Nat) (temp : Nat) : Nat := (pts.filter (fun e => decide (e ≤ temp))).length
/-- The level after a sample (R136); a level the curve no longer has is left at once (Table 03.13). -/
def nextLevel (pts : List Nat) (cur temp : Nat) : Nat :=
  let hi := levelOf pts temp
  if cur < hi then hi
  else
    match pts[cur - 1]? with
    | some e => if cur = 0 then 0 else if temp + 2 ≤ e then hi else cur
    | none => hi

/-- Moves from or to a stack are abandoned (Table 03.13). -/
def dropStackMoves (k : Nat) (s : State) : State :=
  retryPromos (forS (s.pln.moves.filter (fun m => (decide (m.tier = 0) && decide (m.stack = k)) ||
      (match Map.find s.pln.pages m.page with | some x => decide (x.tier = 0) && decide (x.stack = k) | none => false)))
    (fun m => dropMove m.page) s)

/-- A stack trips (R137). -/
def tripStack (k : Nat) (s : State) : State :=
  faultAll 0x0A k 0xFF (dropStackMoves k (modStk k (fun x => { x with st := 3, tripCnt := satAdd 32 x.tripCnt 1, resetSince := s.err.resetOn.isSome }) s))

/-- STACK_TEMP_SAMPLE of a stack that has been trained (R136 to R138, R143); a lost one is sampled and stays lost. -/
def execStackTempSample (k temp : Nat) (s : State) : Answer :=
  .next (let x := stkRec s k
    if x.st ≠ 0 ∧ nclkOn s then
      let s0 := modPln (fun p => { p with therm := cset s .memTherm 0 0 }) s
      let l := nextLevel (throttlePoints s0) x.level temp
      let s1 := modStk k (fun y => { y with temp := temp % 256, level := l,
                                            thrCnt := if y.level = 0 ∧ l ≠ 0 then satAdd 32 y.thrCnt 1 else y.thrCnt }) s0
      if x.st = 1 ∧ 105 ≤ temp then tripStack k s1
      else if x.st = 3 ∧ x.resetSince ∧ s.err.resetOn = none ∧ temp + 10 ≤ fldW s0.pln.therm 6 0 then modStk k (fun y => { y with st := 1 }) s1
      else s1
    else s)

/-- A stack is lost and the module retires (R139 to R141). -/
def loseStack (k : Nat) (s : State) : State := dropStackMoves k (modStk k (fun x => { x with st := 2 }) s)
/-- STACK_LOST. -/
def execStackLost (k : Nat) (s : State) : Answer :=
  .next (if k < numStacks s then faultAll 0x11 k 0xFF (setRetire 1 k (loseStack k s)) else s)
/-- UCIE_LANE_LOST: as the loss of the die's two stacks (R18). One FAULT is reported, and its unit is the lower of the two stacks: DESIGN
CHOICE, the spec names no unit of Table 12.10 and no number of FAULTs for it (log 149). -/
def execUcieLaneLost (d : Nat) (s : State) : Answer :=
  .next (if d < numDies s then faultAll 0x11 (2 * d) 0xFF (setRetire 2 d (loseStack (2 * d + 1) (loseStack (2 * d) s))) else s)

/-- REFCLK_LOST: a module fault (R39). Its unit is 19, the paths: DESIGN CHOICE, the spec names none for it (log 149). -/
def execRefclkLost (s : State) : Answer :=
  .next (if s.cor.refLost then s else faultAll 0x0C 0x13 0xFF (modCor (fun c => { c with refLost := true }) s))
/-- REFCLK_HOLDOVER_END: the domains MOD_REFCLK feeds stop (R39). -/
def execRefclkHoldoverEnd (s : State) : Answer :=
  .next (if s.cor.refLost then modCor (fun c => { c with domStopped := true }) s else s)

end Sys2Proof.Machine
end

