-- ==== Sys2Proof/Machine/Reset.lean ====
section
/-!
DEFINITION. Machine/Reset.lean: the module reset and what it keeps (R597 to R603, R609), the loss of the rails (R502), the boot ledger
(R608, R616), and the paths of the boot steps (R607, R610).
-/
namespace Sys2Proof.Machine

/-! ## What is kept (Table 17.1) -/

/-- A rack slot after a reset or a power loss: FILLING becomes EMPTY (R396). -/
def keptSlot (x : Slot) : Slot := if x.st = 2 then x else {}
/-- The rack block with its slots and wear counters. -/
def keptRck (bucket : Int) (total : Nat) (r : Rck) : Rck :=
  { slot0 := keptSlot r.slot0, slot1 := keptSlot r.slot1, seq := r.seq, bucket := bucket, total := total }
/-- The memory block with MEM_RETIRE and the trip counts. -/
def keptPln (retire : Word) (trips : Map Nat) : Pln := { retire := retire, stk := trips.map (fun e => (e.1, { tripCnt := e.2 })) }
/-- Dies with their trip counts. -/
def keptDies (trips : Map Nat) : Map DieP := trips.map (fun e => (e.1, { trips := e.2 }))
/-- The commit groups with those that are kept: RCK_WEAR_CFG and BOOT_CFG, in force and in their shadows. -/
def keptGroups (half : Bool) (wear boot : Word) : Groups :=
  let put := fun (x : Grp) (key : Nat) (v : Word) (m : Map Word) => Map.set (x.reset half 0) m key (v &&& x.mask 0)
  { sets := put .boot (setKey .boot 0 0) boot (put .rckWear (setKey .rckWear 0 0) wear [])
    shadows := put .boot (shadowKey 0 .boot 0 0) boot (put .rckWear (shadowKey 0 .rckWear 0 0) wear []) }

/-- Lifecycle after a reset: a SEAL token takes effect, Opened ends (Table 15.9). -/
def resetLife (x : Sec) : Life :=
  match x.life with
  | .provisioned => if x.sealTaken then .sealed else .provisioned
  | .opened => .sealed
  | y => y
/-! ## Pins (R602, R615, R667) -/

/-- MOD_ALERT_N is driven low. -/
def alertLow (s : State) : Bool := s.boot.halted || bitW s.pln.retire 31 || (memb 0 s.sec.caveErr && memb 1 s.sec.caveErr) || s.pol.alert
/-- Level of MOD_READY_N, MOD_ALERT_N (true: low): held or released until the end of B01. -/
def readyPin (s : State) : Bool := if s.boot.b01Done then s.boot.ready else s.boot.pinReady
def alertPin (s : State) : Bool := if s.boot.b01Done then alertLow s else s.boot.pinAlert
/-- MOD_LED0 to MOD_LED2, one bit each: policy firmware's once taken at the end of B01 (Table 17.3). -/
def ledPins (s : State) : Nat := if s.boot.b01Done then s.pol.leds else s.boot.pinLeds
/-- B06 has ended in this attempt. -/
def b06Done (s : State) : Bool := (Map.find s.boot.results 6).isSome
/-- Level of TP_OUT. -/
def tpOutPin (s : State) : Bool := if b06Done s then s.tim.tpOut else s.boot.pinTp

/-! ## The ledger (R608, R609, R616) -/

/-- Milliseconds since the end of the reset, the wait of R600 left out. -/
def bootMsNow (s : State) : Nat := (s.tick - s.boot.bootTick - s.boot.waited) / 250000
/-- A ledger record of this attempt (Table 17.7). -/
def ldgRec (s : State) (seq k : Nat) (isEnd : Bool) (path result detail : Nat) : Ldg :=
  { seq := seq, attempt := s.boot.attempt, step := k, isEnd := isEnd, path := path, result := result, hours := s.book.hours,
    cycles := s.boot.pwrCycles, ms := bootMsNow s, detail := detail }
/-- Writes a ledger record over the oldest of 256. During start-up the owner commits each at once, with every kept item: DEDUCED, no step
that fails or is cut short would be known to the next attempt otherwise (R609, log 155). -/
def ledger (k : Nat) (isEnd : Bool) (path result detail : Nat) (s : State) : State :=
  commitKept (modBoot (fun b => { b with
    ledger := Map.put b.ledger b.ldgNext (ldgRec s b.ldgSeq k isEnd path result detail),
    ldgNext := (b.ldgNext + 1) % 256, ldgSeq := b.ldgSeq + 1 }) s)
/-- The retention array with the end record of the step a reset cut short (R609). -/
def interrupted (s : State) : Mram :=
  { s.mram with
    ledger := Map.put s.mram.ledger s.mram.ldgNext (ldgRec s s.mram.ldgSeq s.boot.step true s.boot.path 3 0),
    ldgNext := (s.mram.ldgNext + 1) % 256, ldgSeq := s.mram.ldgSeq + 1 }
/-- The 64 bytes of a ledger record. -/
def ldgBytes (r : Ldg) : List Byte :=
  let b := leB 8 r.seq ++ leB 4 r.attempt ++ leB 1 r.step ++ leB 1 (b2n r.isEnd) ++ leB 1 r.path ++ leB 1 r.result ++ leB 5 r.hours ++ zeros 3
    ++ leB 4 r.cycles ++ leB 4 r.ms ++ leB 16 r.detail ++ zeros 12
  b ++ leB 4 (crc32c b).toNat

/-- Results that are failures (R608, Table 17.8). -/
def failing (r : Nat) : Bool := memb r [1, 2, 3, 5, 6]
/-- Steps whose path after a failure is "Run again" (Table 17.4). -/
def runAgain (k : Nat) : Bool := memb k [1, 5, 6, 8, 9, 13]
/-- The path of a step in this attempt: none when it has no path left (R610). -/
def bootPath (s : State) (k : Nat) : Option Nat :=
  let f := Map.get 0 s.boot.fails k
  if s.boot.retiring ∧ 10 ≤ k ∧ k ≤ 12 then some 3
  else if k = 3 ∨ k = 14 then some (if f = 0 then 0 else 3)
  else if k = 10 ∨ k = 11 then some 0
  else if runAgain k then (if f ≤ 1 then some 0 else none)
  else if k = 7 then
    if f = 0 then some 0 else if s.boot.t1Coef then (if f ≤ 2 then some f else none) else if f = 1 then some 2 else none
  else if f ≤ 1 then some f else none

/-! ## Reset (R597 to R603, R609) -/

/-- Failures in a row of every step once an attempt has ended with these results; a new run after a halt makes "Run again" available
(R610, R611). -/
def nextFails (halted : Bool) (fails results : Map Nat) : Map Nat :=
  (List.range 15).foldl (fun m k =>
    let n := if failing (Map.get 0 results k) then Map.get 0 fails k + 1 else 0
    Map.set 0 m k (if halted ∧ runAgain k then 0 else n)) []

/-- The update engine after a loss at each stage (Table 17.12). -/
def cutUpdate (b : Boot) : Boot :=
  let bad := fun (x : FwSlot) => if x.st = 1 then { x with st := 4 } else x
  { b with slotA := bad b.slotA, slotB := bad b.slotB, reverify := b.reverify || decide (b.updRun = 2), updRun := 0, updLen := 0, updDone := 0 }

/-- Every unit is in reset (R599, R601): Table 17.1 is kept, as the retention array holds it, everything else has its reset value. The
cause is 0 power-on, 1 MOD_RST_N, 2 BOOT_RETRY, 3 CLOSE. -/
def enterReset (cause : Nat) (s : State) : State :=
  let cut := decide (s.boot.step ≠ 0) && (decide (cause = 1) || decide (cause = 3))
  let m := if cut then interrupted s else s.mram
  let b := cutUpdate (bootKept m s.boot)
  let results := if cut then Map.put b.results b.step 3 else b.results
  let cycles := if cause = 0 then satAdd 32 m.pwrCycles 1 else m.pwrCycles
  let fences := if b.fenceClr then [] else m.fences
  let warm := decide (cause ≠ 0) && !s.half
  let r := fresh 128 s
  { r.2 with
    mem := [], regs := m.regs, grp := keptGroups s.half m.wearCfg m.bootCfg, hif := {}, pln := keptPln m.retire m.stkTrips, cor := {},
    vnl := { memoLinks := m.memoLinks, memoRoutes := m.memoRoutes }, col := {}, stp := {}, rck := keptRck m.bucket m.total s.rck, tim := {},
    cel := { own := 0, ca := 0, cb := 0, hot := m.hot, cold := m.cold },
    pol := { retained := m.retained },
    err := { complexResets := m.complexResets },
    pwr := { st := .standby, auxRail := s.pwr.auxRail, input := s.pwr.input, qualified := s.pwr.qualified, energy := m.energy,
             dies := keptDies m.dieTrips },
    sec := { life := s.sec.life, sealTaken := s.sec.sealTaken, uds := s.sec.uds, nonce := r.1 },
    dbg := if cause = 0 then {} else { ir := s.dbg.ir, drive := s.dbg.drive, preload := s.dbg.preload },
    book := { s.book with waiting := [], lost := 0, dropped := 0, hours := s.book.hoursKept, hourSub := 0, hoursDue := false, clear := 0 },
    mram := { m with pwrCycles := cycles, fences := fences, stA := b.slotA.st, stB := b.slotB.st },
    boot := {
      step := 0, attempt := if b.attempt = 0 then 1 else b.attempt + 1, runAttempt := if b.ready ∨ b.halted then 1 else b.runAttempt + 1,
      retiring := bitW m.retire 31, fails := nextFails b.halted b.fails results, cause := cause, t1Coef := b.t1Coef, bootTick := s.tick,
      pwrCycles := cycles, ledger := b.ledger, ldgNext := b.ldgNext,
      ldgSeq := b.ldgSeq, pinReady := warm && readyPin s, pinAlert := warm && alertPin s, pinTp := warm && tpOutPin s,
      pinLeds := if warm then ledPins s else 7,
      portAuto := b.portAuto, fences := fences, activeSlot := b.activeSlot, trial := b.trial,
      trialCnt := b.trialCnt, slotA := b.slotA, slotB := b.slotB, minVer := b.minVer, ptrSeq := b.ptrSeq, reverify := b.reverify } }

/-- A path skipped writes its end record (R610, R612); B03 skipped leaves the module without a Cave. -/
def skipStep (k : Nat) (s : State) : State :=
  let s1 := modBoot (fun b => { b with results := Map.put b.results k 4 }) (ledger k true 3 4 0 s)
  if k = 3 then modSec (fun x => { x with caveErr := [0, 1] }) s1 else s1
/-- The module is ready (R615). -/
def bootReady (s : State) : State :=
  let ms := bootMsNow s
  record 0x1101 0 (ms % 2 ^ 32 + s.boot.attempt % 256 * 2 ^ 32)
    (modBoot (fun b => { b with step := 0, ready := true, bootMs := ms, attempt := 0, runAttempt := 0, fails := [] }) s)
/-- Start-up halts at a step (R611). -/
def bootHalt (k : Nat) (s : State) : State :=
  record 0x1103 0 k (modBoot (fun b => { b with step := 0, halted := true, failStep := k }) s)
/-- B14 brings up the autostart ports: each entry's port group is committed (R614). -/
def startPorts (s : State) : State :=
  forS (List.range (numPorts s)) (fun p s =>
    let w := Map.get 0 s.boot.portAuto (4 * p)
    if bitW w 31 then portCommit p [w, Map.get 0 s.boot.portAuto (4 * p + 1), Grp.reset s.half .vnlPort 2, Grp.reset s.half .vnlPort 3] s
    else s) s
/-- Starts step k, or what follows it where it is skipped, has no path left, or waits for the input (R600, R607, R610). -/
def beginStep : Nat → Nat → State → State
  | 0, _, s => s
  | fuel + 1, k, s =>
    if 15 ≤ k then bootReady s
    else if k = 5 ∧ ¬ s.pwr.qualified then modBoot (fun b => { b with step := 0, waitInput := true, waitTick := s.tick }) s
    else
      match bootPath s k with
      | none => bootHalt k s
      | some p =>
        if p = 3 then beginStep fuel (k + 1) (skipStep k s)
        else
          let s1 := modBoot (fun b => { b with step := k, path := p }) (ledger k false p 0 0 s)
          if k = 14 then startPorts s1 else s1
/-- Start-up begins at B01 (R599); a SEAL takes effect and Opened ends (R564); the cause and a change of lifecycle are recorded. -/
def startUp (s : State) : State :=
  let s1 := record 0x1100 0 s.boot.cause (modBoot (fun b => { b with bootTick := s.tick, heldReset := false }) s)
  let l := resetLife s.sec
  let s2 := modSec (fun x => { x with life := l, sealTaken := false }) (modCel (fun c => { c with ca := 1, cb := 1 }) s1)
  beginStep 16 1 (if l = s.sec.life then s2 else record 0x0F00 0 (lifeCode l + lifeCode s.sec.life * 8) s2)
/-- Power-on, or a module reset that the owner drives: the reset and its start-up. -/
def moduleReset (cause : Nat) (s : State) : State := startUp (enterReset cause s)
/-- A reset the owner drives (R597): its outputs take effect at a commit, so its records and kept items stand (R423, R609). -/
def ownerReset (cause : Nat) (s : State) : State := moduleReset cause (commitKept (commitBook s))

/-! ## The rails (R483, R502) -/

/-- Every rail but the Cellarer rail goes off: what the IOD, the dies and the memories hold is lost, the host link goes down. -/
def railsOff (s : State) : State :=
  { s with
    mem := [], hif := {}, pln := keptPln s.pln.retire (stkTrips s.pln), cor := {},
    vnl := { memoLinks := s.vnl.memoLinks, memoRoutes := s.vnl.memoRoutes }, col := {}, stp := {},
    rck := { keptRck s.rck.bucket s.rck.total s.rck with wearAt := s.rck.wearAt },
    err := { complexResets := s.err.complexResets }, dbg := { ir := s.dbg.ir, drive := s.dbg.drive, preload := s.dbg.preload },
    sec := { s.sec with t2keys := [], zero := [], ide := [], tdi := [], tdiNonce := [], tdiStop := [], parcelKeys := [] },
    pwr := { s.pwr with dies := keptDies (dieTrips s.pwr), clamp := false, level := 0 },
    boot := { cutUpdate s.boot with step := 0, waitInput := false, hostReady := false, ready := false } }

end Sys2Proof.Machine
end

