-- ==== Sys2Proof/Machine/Boot.lean ====
section
/-!
DEFINITION. Machine/Boot.lean: power and reset events (R502, R504, R597 to R600, R671 to R673), boot steps (R607 to R615, R620), drains
and block resets (R604 to R606), firmware slots and update (R617 to R621), health of the Cave (R546).
-/
namespace Sys2Proof.Machine

/-! ## Rails, pins and power -/

/-- A power-on from Off: CA is granted OWN (R431), POWER_STATE is recorded (R509). -/
def bootFromOff (s : State) : State := record 0x0D00 0 1 (moduleReset 0 (modPwr (fun p => { p with st := .standby }) s))
/-- POWER_ON: the auxiliary rail rises from Off. -/
def execPowerOn (s : State) : Answer :=
  .next (if s.pwr.st = .off then bootFromOff (modPwr (fun p => { p with auxRail := true }) s) else s)

/-- Boot runs on the auxiliary rail alone, or waits for the input (R600). -/
def earlyBoot (s : State) : Bool := (decide (1 ≤ s.boot.step) && decide (s.boot.step ≤ 4)) || s.boot.waitInput
/-- The input is lost (R502): every rail but the Cellarer rail goes off; what runs on the auxiliary rail goes on; the pair consumes
INPUT_LOW. -/
def inputLoss (s : State) : State :=
  let s1 := modPwr (fun p => { p with input := false, qualified := false }) s
  if s.boot.heldReset then s1
  else upMsg .inputLow (if earlyBoot s then s1 else railsOff s1)
/-- INPUT_LOW: below 40 V for two samples. -/
def execInputLow (s : State) : Answer := .next (if s.pwr.st = .off ∨ ¬ s.pwr.input then s else inputLoss s)
/-- INPUT_OVERVOLTAGE: the same, and the input stage disconnects the input (R672). -/
def execInputOvervoltage (s : State) : Answer := .next (if s.pwr.st = .off ∨ ¬ s.pwr.input then s else inputLoss s)
/-- AUX_RAIL_LOW (R673): handled as INPUT_LOW; nothing of start-up runs on. -/
def execAuxRailLow (s : State) : Answer :=
  .next (if s.pwr.st = .off ∨ ¬ s.pwr.auxRail then s
    else
      let s1 := modPwr (fun p => { p with auxRail := false, input := false, qualified := false }) s
      upMsg .inputLow (railsOff s1))
/-- The module is in Off: no die holds OWN, nothing runs. -/
def goOff (s : State) : State :=
  { railsOff s with
    pwr := { s.pwr with st := .off, input := false, qualified := false, trans := 0, clamp := false, level := 0, dies := keptDies (dieTrips s.pwr) },
    cel := { own := 2, ca := 0, cb := 0, hot := s.cel.hot, cold := s.cel.cold }, pol := { retained := s.pol.retained }, tim := {},
    book := { s.book with waiting := [] } }
/-- HOLD_UP_RUN_DOWN: neither the auxiliary rail nor the input is present (R504). -/
def execHoldUpRunDown (s : State) : Answer := .next (if s.pwr.auxRail ∨ s.pwr.input ∨ s.pwr.st = .off then s else goOff s)

/-- Boots as from Off (R504), in Standby or during hold-up: nothing of a start-up stands, or one that halted after B04. -/
def bootsAnew (s : State) : Bool := decide (s.boot.step = 0) && !s.boot.heldReset && (!s.boot.halted || decide (5 ≤ s.boot.failStep))
/-- INPUT_QUALIFIED: 44 V or more for 10 ms (R483, R504, R600); from Off too (Table 13.2). -/
def execInputQualified (s : State) : Answer :=
  .next (if s.pwr.qualified then s
    else
      let s1 := modPwr (fun p => { p with input := true, qualified := true }) s
      if s.pwr.st = .off then bootFromOff s1
      else if s.boot.waitInput then
        beginStep 16 5 (modBoot (fun b => { b with waitInput := false, waited := b.waited + (s.tick - b.waitTick) }) s1)
      else if bootsAnew s then moduleReset 0 s1
      else s1)

/-- RESET_ASSERT: the filter accepts an assertion; every unit is held in reset (R598, R599). -/
def execResetAssert (s : State) : Answer :=
  .next (if s.pwr.st = .off ∨ s.boot.heldReset then s else modBoot (fun b => { b with heldReset := true }) (enterReset 1 s))
/-- RESET_RELEASE: start-up begins at B01. -/
def execResetRelease (s : State) : Answer := .next (if s.boot.heldReset then startUp s else s)
/-- STANDBY_ENTRY_DONE of a requested transition (R483, R485). -/
def execStandbyEntryDone (s : State) : Answer :=
  clocked s (.next (if s.pwr.trans = 3 then reqOk (modPwr (fun p => { p with trans := 0 }) (setPwr .standby (railsOff s))) else s))

/-! ## Firmware slots (R617, R618) -/

def slotFw (s : State) (k : Nat) : FwSlot := if k = 0 then s.boot.slotA else s.boot.slotB
def setFw (k : Nat) (f : FwSlot → FwSlot) (s : State) : State :=
  modBoot (fun b => if k = 0 then { b with slotA := f b.slotA } else { b with slotB := f b.slotB }) s
/-- A write of the slot pointer (R618). -/
def ptrWrite (f : Boot → Boot) (s : State) : State := modBoot (fun b => { f b with ptrSeq := b.ptrSeq + 1 }) s
/-- The staging slot (R619). -/
def staging (s : State) : Nat := 1 - s.boot.activeSlot
/-- Offset and size of the region of image i (Table 17.9). -/
def imgAt (i : Nat) : Nat × Nat :=
  if i = 0 then (0, 0x800000) else if i = 1 then (0x800000, 0x1000000) else if i = 2 then (0x1800000, 0x2000000) else (0x3800000, 0x100000)
/-- Bytes of a slot, erased flash past those programmed. -/
def slotBytes (data : List Byte) (off n : Nat) : List Byte :=
  let b := (data.drop off).take n
  b ++ List.replicate (n - b.length) 0xFF
/-- The header of image i and its body. -/
def imgHead (data : List Byte) (i : Nat) : List Byte := slotBytes data (imgAt i).1 8192
def imgLen (data : List Byte) (i : Nat) : Nat := fieldAt (imgHead data i) 12 4
def imgBody (data : List Byte) (i : Nat) : List Byte := slotBytes data ((imgAt i).1 + 8192) (imgLen data i)
def imgSvn (data : List Byte) (i : Nat) : Nat := fieldAt (imgHead data i) 6 2
/-- Image i verifies (R617). -/
def imgVerifies (s : State) (data : List Byte) (i : Nat) : Bool :=
  let h := imgHead data i
  decide (h.take 4 = [0x4A, 0x4B, 0x53, 0x46]) && decide (fieldAt h 4 1 = i + 1) && decide (imgLen data i ≤ (imgAt i).2 - 8192)
    && decide ((h.drop 16).take 48 = leB 48 (Config.sha384 (imgBody data i)).toNat) && Config.authVerify (h.take 64) ((h.drop 64).take 4627)
    && decide (s.boot.minVer.getD i 0 ≤ imgSvn data i)
/-- The four images of a slot verify. The bytes of a slot never downloaded are the factory's, which the spec does not give: `known`
says whether they verify (log 3). -/
def slotVerifies (s : State) (k : Nat) (known : Bool) : Bool :=
  let d := (slotFw s k).data
  if d.isEmpty then known else (List.range 4).all (imgVerifies s d)

/-- A rollback (R620): the PREVIOUS slot becomes ACTIVE, the trial slot INVALID. -/
def rollback (s : State) : State :=
  let old := s.boot.activeSlot
  record 0x1105 0 (1 - old)
    (setFw (1 - old) (fun x => { x with st := 5 }) (setFw old (fun x => { x with st := 4 })
      (ptrWrite (fun b => { b with activeSlot := 1 - old, trial := false, trialCnt := 0 }) s)))
/-- The choice of B02 (R607, R620): whether a slot boots, and the state after. `mask` bit k: the factory content of slot k verifies. -/
def slotSelect (path mask : Nat) (s : State) : Bool × State :=
  let ok := fun (s : State) (k : Nat) => slotVerifies s k (bitOf mask k)
  if s.boot.trial then
    let s1 := if s.boot.trialCnt < 3 then ptrWrite (fun b => { b with trialCnt := b.trialCnt + 1 }) s else rollback s
    let s2 := if s1.boot.trial ∧ ¬ ok s1 s1.boot.activeSlot then rollback s1 else s1
    (ok s2 s2.boot.activeSlot, s2)
  else if path = 0 then (ok s s.boot.activeSlot, s)
  else
    let k := 1 - s.boot.activeSlot
    if ((slotFw s k).st = 7 ∨ (slotFw s k).st = 3) ∧ ok s k then
      (true, setFw k (fun x => { x with st := 5 }) (setFw (1 - k) (fun x => { x with st := 4 }) (ptrWrite (fun b => { b with activeSlot := k }) s)))
    else (false, s)

/-! ## Boot steps (R607 to R615) -/

/-- The trellis tables of a set body, each with its 32-byte header (R441, R617). -/
def setTables : Nat → List Byte → List (List Byte)
  | 0, _ => []
  | n + 1, bs => if bs.length < 32 then [] else bs.take (32 + fieldAt bs 4 4) :: setTables n (bs.drop (32 + fieldAt bs 4 4))
/-- B04 installs the tables of the slot that runs. -/
def slotTables (s : State) : State :=
  let d := (slotFw s s.boot.runSlot).data
  if d.isEmpty then s
  else forS (setTables 1024 (imgBody d 3)) (fun t s =>
    let typ := fieldAt t 0 1
    let n := fieldAt t 1 1
    if tableNamed typ n ∧ headerOk typ n (t.take 32) (t.drop 32) ∧ bodyOk s typ n (t.drop 32) then install typ n 1 (t.drop 32) s else s) s
/-- Measurements 1 to 5 of Table 15.2, fixed at start-up; the digest of a factory image is open (log 3). -/
def measured (s : State) : List Nat :=
  let d := (slotFw s s.boot.runSlot).data
  Config.romDigest.toNat :: (List.range 4).map (fun i =>
    if d.isEmpty then (Config.factoryDigest s.boot.runSlot i).toNat
    else (Config.sha384 (imgHead d i ++ imgBody d i ++ (if i = 0 then leB 2 (imgSvn d 0) else []))).toNat)
/-- Die that runs start-up. -/
def bootDie (s : State) : Nat := if s.cel.own = 2 then s.cel.gapTo.getD 0 else s.cel.own
/-- What a step that passes leaves (Table 17.4). -/
def stepEffect (k path mask : Nat) (s : State) : State :=
  match k with
  | 1 => setDie (bootDie s) 5 (modCel (fun c => { c with requested := true }) (modBoot (fun b => { b with b01Done := true }) s))
  | 2 => modBoot (fun b => { b with runSlot := b.activeSlot }) s
  | 3 =>
    let h := imgHead (slotFw s s.boot.runSlot).data 0
    if (slotFw s s.boot.runSlot).data.isEmpty then modSec (fun x => { x with meas := measured s }) s
    else modSec (fun x => { x with certified := bitOf (fieldAt h 5 1) 0, svn := fieldAt h 6 2, meas := measured s }) s
  | 4 =>
    let s1 := if path = 0 then slotTables s else s
    if dieState s1 (1 - bootDie s1) = 1 then setDie (1 - bootDie s1) 3 s1 else s1
  | 7 => modBoot (fun b => { b with t1Coef := b.t1Coef || decide (path = 0), t1Saved := decide (path = 1), t1Reduced := decide (path = 2) }) s
  | 10 => forS (List.range (numDies s)) (fun d => modDie d (fun x => { x with volt := Config.factoryVolt d 18 })) s
  | 11 => modPln (fun p => { p with stk := (List.range (numStacks s)).foldl (fun m i => Map.put m i { Map.get {} p.stk i with st := 1 }) p.stk }) s
  | 12 =>
    forS (List.range (numCores s)) (fun c =>
      modCore c (fun x => { x with st := if memb c s.boot.fences ∨ bitOf mask c then .fenced else .idle })) s
  | 13 => setPwr .full (modBoot (fun b => { b with hostReady := true }) s)
  | 14 =>
    let bad := (List.range (numPorts s)).filter (bitOf mask)
    modBoot (fun b => { b with portsFenced := bad })
      (forS bad (fun p s => csetReset .vnlPort p (modVnl (fun v => { v with ports := Map.del v.ports p }) s)) s)
  | _ => s
/-- Detail of an end record (Table 17.7). -/
def stepDetail (s : State) (k mask : Nat) : Nat :=
  if k = 2 then s.boot.activeSlot
  else if k = 12 then ((List.range (numCores s)).filter (fun c => memb c s.boot.fences || bitOf mask c)).foldl (fun n c => n + 2 ^ c) 0
  else if k = 7 ∨ k = 11 ∨ k = 14 then mask % 2 ^ 128 else 0
/-- A step passes: its end record, and the next step. -/
def stepPassed (mask : Nat) (s : State) : State :=
  let k := s.boot.step
  let s1 := stepEffect k s.boot.path mask s
  beginStep 16 (k + 1) (modBoot (fun b => { b with results := Map.put b.results k 0 }) (ledger k true s.boot.path 0 (stepDetail s1 k mask) s1))
/-- Cause of a retirement at B10 or B11 (R612): `ucie` where a UCIe attachment failed to train. -/
def retireCause (k : Nat) (ucie : Bool) : Nat := if k = 11 then 3 else if ucie then 2 else 5
/-- A step fails (R608 to R612): its end record and STEP_FAILED are committed; the module retires, halts, or resets for the next
attempt. A stack that fails training is lost: the fault path runs with its FAULT record (R140). -/
def stepFailed (res : Nat) (ucie : Bool) (unit mask : Nat) (s : State) : State :=
  let k := s.boot.step
  let p := s.boot.path
  let retires := decide (k = 10) || decide (k = 11)
  let r := if retires then 6 else res
  let s1 := record 0x1102 0 (k + r * 2 ^ 8 + p * 2 ^ 16)
    (modBoot (fun b => { b with results := Map.put b.results k r, failStep := k, failResult := r }) (ledger k true p r (stepDetail s k mask) s))
  let s2 := if retires then setRetire (retireCause k ucie) unit s1 else s1
  let s2 := if r = 5 then record 0x0C06 0 0 (modErr (fun e => { e with checkFail := satAdd 32 e.checkFail 1 }) s2) else s2
  let s3 := if k = 3 then record 0x0F04 0 (bootDie s2 + unit % 256 * 256) s2 else s2
  let again := { s3 with boot := { s3.boot with fails := Map.put s3.boot.fails k (Map.get 0 s3.boot.fails k + 1) } }
  if bootPath again k = none then bootHalt k (modBoot (fun b => { b with fails := again.boot.fails }) s3)
  else ownerReset 2 (if k = 11 then actFaults (faultAll 0x11 (unit % 16) 0xFF (loseStack (unit % 16) s3)) else s3)
/-- Every autostart port that passed its test is HEDGED, FENCED or OFF (R614). -/
def portsSettled (s : State) (mask : Nat) : Bool :=
  (List.range (numPorts s)).all (fun p => !bitW (Map.get 0 s.boot.portAuto (4 * p)) 31 || bitOf mask p
    || decide ((portRec s p).st = .hedged) || decide ((portRec s p).st = .fenced) || decide ((portRec s p).st = .off))
/-- BOOT_STEP_DONE: the running step reports its result (0 OK, 1 FAIL, 5 CHECK), at B10 whether a UCIe attachment failed, the unit that
failed, and the mask of its detail; at B02 bit k of the mask says that the factory content of slot k verifies. -/
def stepDone (res : Nat) (ucie : Bool) (unit mask : Nat) (s : State) : State :=
  if s.boot.step = 0 then s
  else if s.boot.step = 2 then
    let r := slotSelect s.boot.path mask s
    if res = 0 ∧ r.1 then stepPassed mask r.2 else stepFailed (if res = 0 then 1 else res) ucie unit mask r.2
  else if res ≠ 0 then stepFailed res ucie unit mask s
  else if s.boot.step = 14 ∧ ¬ portsSettled s mask then s
  else stepPassed mask s
/-- BOOT_STEP_DONE. -/
def execBootStepDone (res : Nat) (ucie : Bool) (unit mask : Nat) (s : State) : Answer :=
  .next (if res = 0 ∨ res = 1 ∨ res = 5 then stepDone res ucie unit mask s else s)
/-- BOOT_STEP_LIMIT: the step runs past its maximum; B14 then ends as it stands (R614). -/
def execBootStepLimit (unit mask : Nat) (s : State) : Answer :=
  .next (if s.boot.step = 0 then s else if s.boot.step = 14 then stepPassed mask s
    else if s.boot.step = 2 then stepFailed 2 false unit mask (slotSelect s.boot.path mask s).2
    else stepFailed 2 false unit mask s)

/-- BOOT_FENCE_CLR (R613). -/
def execBootFenceClr (acc : Acc) (s : State) : Answer :=
  .next (if blockOpen s acc 17 then modBoot (fun b => { b with fenceClr := true }) s else s)

/-! ## Drains and block resets (R604 to R606) -/

/-- Work that a drained block held goes on. -/
def release (s : State) : State := drainQueue (pump s)
/-- MOD_BLK_DRAIN is written. -/
def execModBlkDrain (acc : Acc) (v : Word) (s : State) : Answer :=
  .next (if blockOpen s acc 0 then
      release (modBoot (fun b => { b with drained := (List.range 19).filter (fun i => decide (1 ≤ i) && bitW v i) }) s)
    else s)

/-- Nothing is in flight to, from or inside a block (MOD_BLK_IDLE). -/
def blkIdle (s : State) (b : Nat) : Bool :=
  match b with
  | 1 => s.hif.live.isEmpty && s.hif.rings.all (fun e => e.2.reads.isEmpty)
  | 2 => s.hif.live.isEmpty && s.hif.rings.all (fun e => e.2.reads.isEmpty)
  | 3 => s.pln.moves.isEmpty && s.pln.waits.isEmpty
  | 4 => s.pln.waits.isEmpty && s.pln.zeroing.isEmpty
  | 5 => s.cor.launches.isEmpty && s.cor.flight.isEmpty && s.cor.terZero.isEmpty
  | 6 => s.cor.launches.isEmpty
  | 7 => s.vnl.queue.isEmpty && s.vnl.inbox.isEmpty && s.vnl.ports.all (fun e => e.2.retry.isEmpty)
  | 8 => s.col.colls.isEmpty && s.col.parked.isEmpty
  | 9 => s.stp.draining.isEmpty
  | 10 => s.rck.job.isNone && s.rck.rests.isEmpty && s.rck.owed.isEmpty
  | 11 => s.cel.batches.isEmpty && s.cel.up.isEmpty
  | 12 => s.err.resetPend.isNone && s.err.resetOn.isNone
  | 13 => decide (s.pwr.trans = 0)
  | 15 => s.sec.zero.isEmpty
  | 16 => decide (s.dbg.frost = 0)
  | 17 => decide (s.boot.updRun = 0)
  | 18 => s.book.waiting.isEmpty
  | _ => true
/-- The groups, shadows, status registers, selectors and plain registers of a block return to their reset values; kept registers
keep theirs; commits not completed go. -/
def blkRegs (b : Nat) (s : State) : State :=
  let mine := fun (g : Nat) => allGrps.any (fun x => decide (x.idx = g) && decide (blockOf x.cstat = b))
  let kept := fun (g : Nat) => decide (g = Grp.rckWear.idx) || decide (g = Grp.boot.idx)
  { modGrp (fun x => { x with
      sets := Map.keep (fun k _ => !mine (keyGrp k) || kept (keyGrp k)) x.sets,
      shadows := Map.keep (fun k _ => !mine (k / 512 / 256 % 32) || kept (k / 512 / 256 % 32)) x.shadows,
      cstat := Map.keep (fun k _ => !mine (k / 256 % 32)) x.cstat,
      pend := x.pend.filter (fun c => !mine c.grp.idx) }) s with
    regs := Map.keep (fun k _ => decide (blockOf (k % 0x10000000) ≠ b)) s.regs }
/-- Uncommitted writes of a block go. -/
def blkUncommitted (b : Nat) (s : State) : State :=
  let mine := fun (g : Nat) => allGrps.any (fun x => decide (x.idx = g) && decide (blockOf x.cstat = b))
  let s1 := modGrp (fun x => { x with
    shadows := Map.keep (fun k _ => !mine (k / 512 / 256 % 32)) x.shadows, pend := x.pend.filter (fun c => !mine c.grp.idx) }) s
  forS [Grp.cel, .celSvc, .celTbl] (fun g s => reload g .policy 0 (reload g .pf0 0 s)) s1
/-- The unit of a block as at the end of start-up. -/
def blkUnit (b : Nat) (s : State) : State :=
  match b with
  | 1 => modHif (fun h => { h with
      trkPeak := 0, trkPause := 0, dbStale := 0, dbIgnored := 0, tens := [], msixPend := [],
      msixWords := Map.keep (fun k _ => decide (8192 ≤ k)) h.msixWords }) s
  | 2 => modHif (fun h => { h with rings := [], live := [] }) s
  | 3 => modPln (fun p => { p with hnds := [], pages := [], moves := [], waits := [], migDone := 0, migAbandon := 0, hintUnmet := 0 }) s
  | 4 => modPln (fun p => { p with
      zeroing := [], press := [], therm := 0x5F, stk := Map.mapV (fun _ k => { st := k.st, temp := k.temp, tripCnt := k.tripCnt }) p.stk }) s
  | 5 => modCor (fun c => { c with
      cores := Map.mapV (fun _ x => { st := if x.st = .fenced then .fenced else .idle, counters := x.counters, latches := x.latches }) c.cores,
      preemptMax := [], terZero := [], launches := [], flight := [] }) s
  | 6 => modCor (fun c => { c with cores := Map.mapV (fun _ x => { x with counters := [], latches := [] }) c.cores, fmtGen := [] }) s
  | 7 => modVnl (fun v => { memoLinks := v.memoLinks, memoRoutes := v.memoRoutes }) s
  | 8 => modCol (fun _ => {}) s
  | 9 => modStp (fun _ => {}) s
  | 10 => modRck (fun r => { keptRck r.bucket r.total r with wearAt := r.wearAt }) s
  | 12 => modErr (fun e => { complexResets := e.complexResets }) s
  | 13 => modPwr (fun p => { p with level := 0, reqStatus := 0, unmet := 0 }) s
  | 14 => modTim (fun _ => {}) s
  | 15 =>
    let r := fresh 128 s
    modSec (fun x => { x with
      nonce := r.1, cmdReason := 0, parcelKeys := [], svcKey := none, svcPrev := none, t2keys := [], spdm := 0, sessions := [], chunk := [],
      chunkOut := [], ide := [], tdi := [], tdiNonce := [], tdiStop := [] }) r.2
  | 16 => modDbg (fun d => { ir := d.ir, drive := d.drive, preload := d.preload }) s
  | 17 => modBoot (fun x => { cutUpdate x with fenceClr := false, updWait := [] }) s
  | 18 => modBook (fun x => { x with lost := 0, clear := 0 }) s
  | _ => s
/-- Blocks whose reset acts only while every tenant is FREE (R605). -/
def tenantBlk (b : Nat) : Bool := decide (1 ≤ b) && decide (b ≤ 10) || decide (b = 14) || decide (b = 15)
/-- One block reset. -/
def blkReset (b : Nat) (s : State) : State :=
  if (tenantBlk b ∧ ¬ (boundTens s).isEmpty) ∨ (b = 16 ∧ s.dbg.frost ≠ 0) then
    modBoot (fun x => { x with ignored := satAdd 32 x.ignored 1 }) s
  else
    let s1 := if blkIdle s b then s else modBoot (fun x => { x with hung := addOnce b x.hung }) s
    if b = 11 then blkUncommitted b s1 else blkUnit b (blkRegs b s1)
/-- MOD_BLK_RESET is written. -/
def execModBlkReset (acc : Acc) (v : Word) (s : State) : Answer :=
  .next (if blockOpen s acc 0 then forS ((List.range 19).filter (fun i => decide (1 ≤ i) && bitW v i)) blkReset s else s)

/-! ## Update (R619, R621) -/

/-- Codes of the update commands. -/
def updRec (cmd res : Nat) (s : State) : State := record 0x1104 0 (cmd + res * 8 + staging s * 2048) s
/-- A command's condition (Table 17.11): result and register of the group (none: the one R62 reports where no field is named). -/
def updFault (s : State) (cmd len : Nat) : Option (Nat × Option Nat) :=
  let st := (slotFw s (staging s)).st
  if cmd = 1 then
    if s.boot.trial then some (cBUSY, none) else if len < 8192 ∨ 72 * 0x100000 < len then some (cRANGE, some 2) else none
  else if cmd = 2 then (if st = 2 then none else some (cCONFLICT, none))
  else if cmd = 3 then (if st = 3 then none else some (cCONFLICT, none))
  else if cmd = 4 then (if s.boot.trial ∧ s.boot.ready then none else some (cCONFLICT, none))
  else (if s.boot.updRun ≠ 0 then none else some (cCONFLICT, none))
/-- Minimum versions raised to those of a slot. -/
def raisedMin (s : State) (k : Nat) : List Nat :=
  let d := (slotFw s k).data
  if d.isEmpty then s.boot.minVer else (List.range 4).map (fun i => max (s.boot.minVer.getD i 0) (imgSvn d i))
/-- What an accepted command does. -/
def updDo (cmd len : Nat) (s : State) : State :=
  let k := staging s
  if cmd = 1 then setFw k (fun _ => { st := 1 }) (modBoot (fun b => { b with updRun := 1, updLen := len, updDone := 0, reverify := false }) s)
  else if cmd = 2 then modBoot (fun b => { b with updRun := 2 }) s
  else if cmd = 3 then
    setFw k (fun x => { x with st := 6 }) (setFw (1 - k) (fun x => { x with st := 7 })
      (ptrWrite (fun b => { b with activeSlot := k, trial := true, trialCnt := 0 }) s))
  else if cmd = 4 then
    setFw s.boot.activeSlot (fun x => { x with st := 5 })
      (ptrWrite (fun b => { b with trial := false, trialCnt := 0, minVer := raisedMin s s.boot.activeSlot }) s)
  else setFw k (fun x => { x with st := 4 }) (modBoot (fun b => { b with updRun := 0, updLen := 0 }) s)
/-- An update command with the snapshot of its group: the group's check, the command's condition, its effect and its UPDATE record. -/
def updAct (cmd : Nat) (snap : List Word) (s : State) : State :=
  let sel := Grp.selOffset .bootUpd 0
  let flt : Option (Nat × Nat) :=
    if ¬ s.boot.hostReady then some (cBUSY, sel)
    else if s.sec.life = .retired then some (cDENIED, sel)
    else if fldW (snap.getD 0 0) 11 0 ≠ 0 then some (cRANGE, Grp.offset .bootUpd 0 0)
    else (updFault s cmd (snap.getD 2 0).toNat).map (fun f => (f.1, match f.2 with | some i => Grp.offset .bootUpd 0 i | none => sel))
  match flt with
  | some f => updRec cmd f.1 (setCstat 0 .bootUpd 0 f.1 f.2 s)
  | none => updDo cmd (snap.getD 2 0).toNat (updRec cmd cOK (setCstat 0 .bootUpd 0 cOK 0 (csetAll .bootUpd 0 snap s)))
/-- BOOT_UPD_CMD is written with a command. The owner alone drives the firmware NOR bus (R22): with none the command waits, PENDING. -/
def updCmd (cmd : Nat) (acc : Acc) (s : State) : State :=
  if ¬ (grpReach s .bootUpd acc 0 ∧ blockOpen s acc 17) then s
  else
    let snap := (List.range 3).map (shadowReg s .bootUpd acc 0)
    if s.cel.own = 2 then modBoot (fun b => { b with updWait := b.updWait ++ [(cmd, snap)] }) (setCstat 0 .bootUpd 0 cPENDING 0 s)
    else updAct cmd snap s
/-- The commands that waited for an owner run in their order. -/
def runUpdWait (s : State) : State := forS s.boot.updWait (fun w => updAct w.1 w.2) (modBoot (fun b => { b with updWait := [] }) s)
/-- DOWNLOAD. -/
def execUpdDownload (acc : Acc) (s : State) : Answer := .next (updCmd 1 acc s)
/-- VERIFY. -/
def execUpdVerify (acc : Acc) (s : State) : Answer := .next (updCmd 2 acc s)
/-- ACTIVATE. -/
def execUpdActivate (acc : Acc) (s : State) : Answer := .next (updCmd 3 acc s)
/-- CONFIRM. -/
def execUpdConfirm (acc : Acc) (s : State) : Answer := .next (updCmd 4 acc s)
/-- ABORT. -/
def execUpdAbort (acc : Acc) (s : State) : Answer := .next (updCmd 5 acc s)
/-- DOWNLOAD_DONE, with the bytes read from the host; the owner programs the slot (R22). -/
def execDownloadDone (data : List Byte) (s : State) : Answer :=
  clocked s (.next (if s.boot.updRun = 1 ∧ data.length = s.boot.updLen ∧ s.cel.own ≠ 2 then
      setFw (staging s) (fun _ => { st := 2, data := data }) (modBoot (fun b => { b with updRun := 0, updDone := b.updLen }) s)
    else s))
/-- VERIFY_DONE: the Cave has checked the four images, on a command, or again after a loss cut a verification short (R621). -/
def execVerifyDone (s : State) : Answer :=
  clocked s (.next (
    let k := staging s
    let again := s.boot.reverify && s.boot.ready && decide (s.boot.updRun = 0)
    if (s.boot.updRun = 2 ∨ again) ∧ (slotFw s k).st = 2 ∧ ¬ caveDown s ∧ s.cel.own ≠ 2 then
      setFw k (fun x => { x with st := if slotVerifies s k false then 3 else 4 }) (modBoot (fun b => { b with updRun := 0, reverify := false }) s)
    else s))

/-! ## The Cave and the sideband -/

/-- CAVE_HEALTH_TEST_FAIL of a die's Cave (R430, R546). -/
def execCaveHealthTestFail (d test : Nat) (s : State) : Answer :=
  clocked s (.next (if d < 2 ∧ ¬ memb d s.sec.caveErr then
      let s1 := record 0x0F04 0 (d + test % 256 * 256) (modSec (fun x => { x with caveErr := addOnce d x.caveErr }) s)
      if s.cel.own = d then faultRelease s1 else s1
    else s))
/-- IN_BAND_INTERRUPT of a target with a dynamic address (R670): it waits at the owner for policy firmware. -/
def execInBandInterrupt (target : Nat) (s : State) : Answer :=
  clocked s (.next (if ownerOn s then modPol (fun p => { p with ibis := p.ibis ++ [target] }) s else s))

end Sys2Proof.Machine
end

