-- ==== Sys2Proof/Machine/Security.lean ====
section
/-!
DEFINITION. Machine/Security.lean: lifecycle commands and tokens (R563 to R568, R575), the end of a zeroization (R562), SPDM requests
(R550), IDE key management and TDISP (R551).
-/
namespace Sys2Proof.Machine

/-! ## Lifecycle commands (R564 to R568, R575) -/

/-- Every tenant is FREE. -/
def allFree (s : State) : Bool := (boundTens s).isEmpty
/-- A lifecycle change is recorded (Table 15.17). -/
def setLife (l : Life) (caps : Nat) (s : State) : State :=
  record 0x0F00 0 (lifeCode l + lifeCode s.sec.life * 8 + caps * 64) (modSec (fun x => { x with life := l, caps := caps }) s)
/-- The command is allowed in the lifecycle (Table 15.9, R567). -/
def lifeAllows (s : State) (cmd : Nat) : Bool :=
  match s.sec.life with
  | .blank => false
  | .provisioned => decide (cmd = 4) || decide (cmd = 5)
  | .sealed => decide (cmd = 1) || decide (cmd = 5)
  | .opened => decide (cmd = 2) || decide (cmd = 5) || (decide (cmd = 3) && hasCap s 6)
  | .retired => false
/-- A token's form: version, kind, reserved bytes (Table 15.10). -/
def tokenForm (cmd : Nat) (t : List Byte) : Bool :=
  decide (t.length = 4691) && decide (fieldAt t 0 1 = 1) && decide (fieldAt t 1 1 = cmd) && decide (fieldAt t 2 2 < 128)
    && decide (fieldAt t 4 3 < 2 ^ 20) && decide (fieldAt t 7 1 = 0) && decide (fieldAt t 40 24 = 0)
/-- Why a token is refused (R568, Table 15.11), 0 when it is accepted; then what the command itself needs (R564, R565). -/
def tokenReason (s : State) (cmd : Nat) (t : List Byte) : Nat :=
  let nb := fieldAt t 8 8
  let na := fieldAt t 16 8
  if ¬ tokenForm cmd t then 9
  else if ¬ Config.authVerify (t.take 64) (t.drop 64) then 1
  else if fieldAt t 4 3 ≠ s.moduleId then 2
  else if fieldAt t 24 16 ≠ s.sec.nonce then 4
  else if ¬ bitW (timSrc s) 29 then 8
  else if s.tim.s < nb ∨ na < s.tim.s ∨ 604800 < na - nb then 3
  else if (cmd = 1 ∨ cmd = 5) ∧ (¬ allFree s ∨ (cmd = 1 ∧ ¬ noFilling s)) then 6
  else if cmd = 1 ∧ ¬ s.sec.zero.isEmpty then 7
  else 0
/-- RETIRE (R567): both slots are erased, the UDS destroyed. -/
def retireModule (s : State) : State :=
  setLife .retired 0 (modSec (fun x => { x with uds := false, notAfter := 0 }) (modRck (fun r => { r with slot0 := {}, slot1 := {} }) s))
/-- Every tenant in TEARDOWN; the module resets itself once no zeroization is pending (R566). -/
def closeModule (s : State) : State :=
  let s1 := forS (boundTens s) teardown (modSec (fun x => { x with closing := true }) s)
  if s1.sec.zero.isEmpty then ownerReset 3 s1 else s1
/-- An accepted command. -/
def secDo (cmd : Nat) (tok : List Byte) (s : State) : State :=
  if cmd = 1 then setLife .opened (fieldAt tok 2 2 % 128) (modSec (fun x => { x with notAfter := fieldAt tok 16 8 }) s)
  else if cmd = 2 then closeModule s
  else if cmd = 3 then modPln (fun p => { p with retire := 0 }) s
  else if cmd = 4 then modSec (fun x => { x with sealTaken := true }) s
  else retireModule s
/-- The refusal of a command, recorded. -/
def secRefuse (cmd reason res off : Nat) (s : State) : State :=
  record 0x0F03 0 (cmd + reason * 256) (setCstat 0 .secCmd 0 res off (modSec (fun x => { x with cmdReason := reason }) s))
/-- SEC_CMD is written with a command: the group's checks, the token read from the host (none: it could not be read), the decision of
the Cave; the nonce is new after every command. -/
def secCmd (cmd : Nat) (acc : Acc) (tok : Option (List Byte)) (s : State) : State :=
  if ¬ (grpReach s .secCmd acc 0 ∧ blockOpen s acc 15) then s
  else
    let snap := (List.range 3).map (shadowReg s .secCmd acc 0)
    let hasTok := decide (cmd = 1) || decide (cmd = 4) || decide (cmd = 5)
    let r := fresh 128 s
    let s1 := modSec (fun x => { x with nonce := r.1 }) r.2
    if fldW (snap.getD 0 0) 2 0 ≠ 0 then secRefuse cmd 9 cRANGE (Grp.offset .secCmd 0 0) s1
    else if hasTok ∧ (snap.getD 2 0).toNat ≠ 4691 then secRefuse cmd 9 cRANGE (Grp.offset .secCmd 0 2) s1
    else if ¬ lifeAllows s cmd ∨ caveDown s then secRefuse cmd 5 cDENIED (Grp.selOffset .secCmd 0) s1
    else
      let reason := if hasTok then tokenReason s cmd (tok.getD []) else 0
      if reason ≠ 0 then secRefuse cmd reason cOK 0 (csetAll .secCmd 0 snap s1)
      else secDo cmd (tok.getD []) (setCstat 0 .secCmd 0 cOK 0 (csetAll .secCmd 0 snap (modSec (fun x => { x with cmdReason := 0 }) s1)))
/-- OPEN. -/
def execSecOpen (acc : Acc) (tok : Option (List Byte)) (s : State) : Answer := .next (secCmd 1 acc tok s)
/-- CLOSE. -/
def execSecClose (acc : Acc) (s : State) : Answer := .next (secCmd 2 acc none s)
/-- CLEAR_RETIRE. -/
def execSecClearRetire (acc : Acc) (s : State) : Answer := .next (secCmd 3 acc none s)
/-- SEAL. -/
def execSecSeal (acc : Acc) (tok : Option (List Byte)) (s : State) : Answer := .next (secCmd 4 acc tok s)
/-- RETIRE. -/
def execSecRetire (acc : Acc) (tok : Option (List Byte)) (s : State) : Answer := .next (secCmd 5 acc tok s)
/-- OPENED_EXPIRY: the time base reaches the token's not_after (R566). -/
def execOpenedExpiry (s : State) : Answer :=
  clocked s (.next (if s.sec.life = .opened ∧ s.sec.notAfter ≤ s.tim.s ∧ ¬ s.sec.closing then closeModule s else s))

/-- TDIs whose tenants are all FREE reach CONFIG_UNLOCKED (R551). -/
def unlockTdis (s : State) : State :=
  let ready := s.sec.tdiStop.filter (fun v => !(boundTens s).any (fun t => decide (tenFn s t = v)))
  modSec (fun x => { x with tdi := Map.keep (fun k _ => !memb k ready) x.tdi, tdiStop := x.tdiStop.filter (fun v => !memb v ready) }) s
/-- TENANT_ZEROIZE_DONE (R562): the tenant returns to FREE; what waited for it goes on. -/
def execTenantZeroizeDone (t : Nat) (s : State) : Answer :=
  clocked s (.next (
    let s1 := unlockTdis (tenantFree t s)
    if s1.sec.closing ∧ s1.sec.zero.isEmpty then ownerReset 3 s1 else s1))
/-- SERVICE_KEY_GRACE_END (R555). -/
def execServiceKeyGraceEnd (s : State) : Answer := clocked s (.next (modSec (fun x => { x with svcPrev := none }) s))

/-! ## SPDM (R550, Table 15.2) -/

/-- Answers a request; the bytes stay for CHUNK_GET. -/
def spdmSend (r : Rsp) (b : List Byte) (s : State) : State := emit (.spdm r b) (modSec (fun x => { x with chunkOut := b }) s)
def spdmError (code : Nat) (s : State) : State := emit (.spdm .error (leB 1 code)) s
/-- A request is served: in Frost it waits for the Cave (R583); a Cave in error answers ERROR (R546); a request out of order is refused
with UnexpectedRequest (PRESUMED SPDM's codes, log 91). -/
def spdmReq (c : Late) (ok : Bool) (f : State → State) (s : State) : Answer :=
  waitsInFrost c s (.next (if caveDown s then spdmError 0x04 s else if ok then f s else spdmError 0x04 s))
/-- Algorithms have been agreed. -/
def spdmUp (s : State) : Bool := decide (s.sec.spdm = 3)
def sessionAt (s : State) (id : Nat) : Option Session := s.sec.sessions.find? (fun x => decide (x.id = id))
/-- A session whose handshake is complete. -/
def sessionOk (s : State) (id : Nat) : Bool := match sessionAt s id with | some x => decide (x.phase = 2) | none => false
def modSession (id : Nat) (f : Session → Session) (s : State) : State :=
  modSec (fun x => { x with sessions := x.sessions.map (fun y => if y.id = id then f y else y) }) s
/-- SEC_STATUS.approved (R544). -/
def approved (s : State) : Bool := decide (s.sec.life = .sealed) && s.sec.certified
/-- Content of measurement i. -/
def measurement (s : State) (i : Nat) : List Byte :=
  if 1 ≤ i ∧ i ≤ 5 then leB 48 (s.sec.meas.getD (i - 1) 0)
  else if i = 6 then leB 4 (lifeCode s.sec.life + b2n (approved s) * 8)
  else if i = 7 then
    leB 48 (Config.sha384 ((s.pol.tables.filter (fun e => e.2.loaded)).flatMap (fun e =>
      leB 1 (e.1 / 16) ++ leB 1 (e.1 % 16) ++ leB 2 e.2.gen ++ leB 48 (Config.sha384 e.2.body).toNat))).toNat
  else if i = 8 then leB 4 (if s.sec.life = .opened then s.sec.caps else 0)
  else []
/-- A block of a measurement: index, length, content. -/
def measBlock (s : State) (i : Nat) : List Byte := leB 1 i ++ leB 2 (measurement s i).length ++ measurement s i
/-- A response the alias key signs, with a fresh nonce. -/
def spdmSigned (r : Rsp) (req body : List Byte) (s : State) : State :=
  let n := fresh 256 s
  let b := body ++ leB 32 n.1
  spdmSend r (b ++ leB 96 (Config.sign (Config.sha384 (req ++ b))).toNat) n.2

/-- GET_VERSION: 1.2 and 1.3; it begins the connection anew. -/
def execGetVersion (s : State) : Answer :=
  spdmReq .getVersion true (fun s => spdmSend .version [0x12, 0x13] (modSec (fun x => { x with spdm := 1, sessions := [], chunk := [] }) s)) s
/-- GET_CAPABILITIES. -/
def execGetCapabilities (s : State) : Answer :=
  spdmReq .getCapabilities (decide (1 ≤ s.sec.spdm)) (fun s => spdmSend .capabilities [] (modSec (fun x => { x with spdm := max 2 x.spdm }) s)) s
/-- NEGOTIATE_ALGORITHMS: whether the requester offers SHA-384, ECDSA P-384, secp384r1 and AES-256-GCM. -/
def execNegotiateAlgorithms (offers : Bool) (s : State) : Answer :=
  spdmReq (.negotiateAlgorithms offers) (decide (2 ≤ s.sec.spdm) && offers) (fun s => spdmSend .algorithms [] (modSec (fun x => { x with spdm := 3 }) s)) s
/-- GET_DIGESTS: the digest of slot 0. -/
def execGetDigests (s : State) : Answer := spdmReq .getDigests (spdmUp s) (spdmSend .digests (leB 48 Config.chainDigest.toNat)) s
/-- GET_CERTIFICATE of a slot: slot 0 only; a part of the chain. -/
def execGetCertificate (slot off len : Nat) (s : State) : Answer :=
  spdmReq (.getCertificate slot off len) (spdmUp s && decide (slot = 0)) (spdmSend .certificate ((Config.certChain.drop off).take len)) s
/-- CHALLENGE of a slot, with the request's bytes. -/
def execSpdmChallenge (slot : Nat) (req : List Byte) (s : State) : Answer :=
  spdmReq (.spdmChallenge slot req) (spdmUp s && decide (slot = 0)) (spdmSigned .challengeAuth req (leB 48 Config.chainDigest.toNat)) s
/-- GET_MEASUREMENTS: index 0 asks for their number, 255 for all; signed on request. -/
def execGetMeasurements (i : Nat) (sig : Bool) (req : List Byte) (s : State) : Answer :=
  spdmReq (.getMeasurements i sig req) (spdmUp s && decide (i ≤ 8 ∨ i = 255)) (fun s =>
    let b := if i = 0 then leB 1 8 else if i = 255 then (List.range 8).flatMap (fun k => measBlock s (k + 1)) else measBlock s i
    if sig then spdmSigned .measurements req b s else spdmSend .measurements b s) s
/-- KEY_EXCHANGE of a session identifier: at most 4 sessions. -/
def execKeyExchange (id slot : Nat) (req : List Byte) (s : State) : Answer :=
  spdmReq (.keyExchange id slot req) (spdmUp s && decide (slot = 0) && decide (s.sec.sessions.length < 4) && (sessionAt s id).isNone) (fun s =>
    spdmSigned .keyExchange req (leB 2 id) (modSec (fun x => { x with sessions := x.sessions ++ [{ id := id, phase := 1 }] }) s)) s
/-- FINISH of a session: whether its HMAC verifies. -/
def execSpdmFinish (id : Nat) (ok : Bool) (s : State) : Answer :=
  spdmReq (.spdmFinish id ok) (match sessionAt s id with | some x => decide (x.phase = 1) && ok | none => false)
    (fun s => spdmSend .finish [] (modSession id (fun x => { x with phase := 2 }) s)) s
/-- END_SESSION: the session's keys are destroyed. -/
def execEndSession (id : Nat) (s : State) : Answer :=
  spdmReq (.endSession id) (sessionOk s id) (fun s => spdmSend .endSession []
    (modSec (fun x => { x with sessions := x.sessions.filter (fun y => decide (y.id ≠ id)) }) s)) s
/-- HEARTBEAT. -/
def execSpdmHeartbeat (id : Nat) (s : State) : Answer := spdmReq (.spdmHeartbeat id) (sessionOk s id) (spdmSend .heartbeat []) s
/-- KEY_UPDATE: the requester's key, or both. -/
def execKeyUpdate (id : Nat) (both : Bool) (s : State) : Answer :=
  spdmReq (.keyUpdate id both) (sessionOk s id) (fun s => spdmSend .keyUpdate []
    (modSession id (fun x => { x with reqKey := x.reqKey + 1, rspKey := if both then x.rspKey + 1 else x.rspKey }) s)) s
/-- CHUNK_SEND: parts of a large request; the first one begins it. -/
def execChunkSend (first : Bool) (part : List Byte) (s : State) : Answer :=
  spdmReq (.chunkSend first part) (decide (2 ≤ s.sec.spdm)) (fun s =>
    emit (.spdm .chunkSend []) (modSec (fun x => { x with chunk := (if first then [] else x.chunk) ++ part }) s)) s
/-- CHUNK_GET: a part of the last response. -/
def execChunkGet (off len : Nat) (s : State) : Answer :=
  spdmReq (.chunkGet off len) (decide (2 ≤ s.sec.spdm)) (fun s => emit (.spdm .chunk ((s.sec.chunkOut.drop off).take len)) s) s

/-! ## IDE_KM and TDISP in a secured session (R551) -/

/-- Streams: 0 the link's, 1 to 8 selective. -/
def ideOk (s : State) (id k : Nat) : Bool := sessionOk s id && decide (k ≤ 8)
/-- QUERY. -/
def execIdeQuery (id : Nat) (s : State) : Answer :=
  spdmReq (.ideQuery id) (sessionOk s id) (fun s => spdmSend .ideQuery ((List.range 9).flatMap (fun k => leB 1 (Map.get 0 s.sec.ide k))) s) s
/-- KEY_PROG of a stream. -/
def execKeyProg (id k : Nat) (s : State) : Answer :=
  spdmReq (.keyProg id k) (ideOk s id k) (fun s =>
    spdmSend .ideKp (leB 1 k) (modSec (fun x => { x with ide := Map.put x.ide k (max 1 (Map.get 0 x.ide k)) }) s)) s
/-- K_SET_GO: the keys programmed come into use. -/
def execKSetGo (id k : Nat) (s : State) : Answer :=
  spdmReq (.kSetGo id k) (ideOk s id k && decide (1 ≤ Map.get 0 s.sec.ide k)) (fun s =>
    spdmSend .ideGo (leB 1 k) (modHif (fun h => { h with ideLink := h.ideLink || decide (k = 0) })
      (modSec (fun x => { x with ide := Map.put x.ide k 2 }) s))) s
/-- K_SET_STOP: the stream's keys are destroyed (Table 15.3). -/
def execKSetStop (id k : Nat) (s : State) : Answer :=
  spdmReq (.kSetStop id k) (ideOk s id k) (fun s =>
    spdmSend .ideStop (leB 1 k) (modHif (fun h => { h with ideLink := h.ideLink && decide (k ≠ 0) })
      (modSec (fun x => { x with ide := Map.del x.ide k }) s))) s

/-- A TDI is a VF that exists. -/
def tdiIs (s : State) (v : Nat) : Bool := decide (1 ≤ v) && s.hif.vfEnable && decide (v ≤ s.hif.numVfs)
/-- A TDISP message in a session: answered, or refused with a TDISP error. -/
def tdisp (c : Late) (id : Nat) (ok : Bool) (f : State → State) (s : State) : Answer :=
  spdmReq c (sessionOk s id) (fun s => if ok then f s else spdmSend .tdispError [] s) s
def tdiSt (s : State) (v : Nat) : Nat := Map.get 0 s.sec.tdi v
/-- GET_TDISP_VERSION: 1.0. -/
def execGetTdispVersion (id : Nat) (s : State) : Answer := tdisp (.getTdispVersion id) id true (spdmSend .tdispVersion [0x10]) s
/-- GET_TDISP_CAPABILITIES. -/
def execGetTdispCapabilities (id : Nat) (s : State) : Answer := tdisp (.getTdispCapabilities id) id true (spdmSend .tdispCapabilities []) s
/-- LOCK_INTERFACE: refused outside Sealed; a nonce is drawn. -/
def execLockInterface (id v : Nat) (s : State) : Answer :=
  tdisp (.lockInterface id v) id (tdiIs s v && decide (s.sec.life = .sealed) && decide (tdiSt s v = 0)) (fun s =>
    let n := fresh 256 s
    spdmSend .tdispLock (leB 32 n.1) (modSec (fun x => { x with tdi := Map.put x.tdi v 1, tdiNonce := Map.put x.tdiNonce v n.1 }) n.2)) s
/-- GET_DEVICE_INTERFACE_REPORT: sizes of the VF's BAR0 and BAR2, and where its MSI-X table and pending bits stand (Tables 02.3, 02.4). -/
def execGetDeviceInterfaceReport (id v : Nat) (s : State) : Answer :=
  tdisp (.getDeviceInterfaceReport id v) id (tdiIs s v && (decide (tdiSt s v = 1) || decide (tdiSt s v = 2)))
    (spdmSend .tdispReport (leB 4 0x10000 ++ leB 4 0x100000 ++ leB 4 0x8000 ++ leB 4 0x9000)) s
/-- GET_DEVICE_INTERFACE_STATE. -/
def execGetDeviceInterfaceState (id v : Nat) (s : State) : Answer := tdisp (.getDeviceInterfaceState id v) id (tdiIs s v) (fun s => spdmSend .tdispState (leB 1 (tdiSt s v)) s) s
/-- START_INTERFACE with the nonce of the lock. -/
def execStartInterface (id v nonce : Nat) (s : State) : Answer :=
  tdisp (.startInterface id v nonce) id (tdiIs s v && decide (tdiSt s v = 1) && decide (Map.find s.sec.tdiNonce v = some nonce))
    (fun s => spdmSend .tdispStart [] (modSec (fun x => { x with tdi := Map.put x.tdi v 2, tdiNonce := Map.del x.tdiNonce v }) s)) s
/-- A TDI is stopped: out of RUN its tenants enter TEARDOWN, and it is CONFIG_UNLOCKED once they are FREE (R551). -/
def stopTdi (v : Nat) (s : State) : State :=
  unlockTdis (forS (boundTens s) (fun t s' => if tenFn s t = v ∧ tdiSt s v ≠ 1 then teardown t s' else s')
    (modSec (fun x => { x with tdiStop := addOnce v x.tdiStop, tdiNonce := Map.del x.tdiNonce v }) s))
/-- STOP_INTERFACE. -/
def execStopInterface (id v : Nat) (s : State) : Answer :=
  tdisp (.stopInterface id v) id (tdiIs s v) (fun s => spdmSend .tdispStop [] (if tdiSt s v = 0 then s else stopTdi v s)) s

end Sys2Proof.Machine
end

