-- ==== Sys2Proof/Machine/Read.lean ====
section
/-!
DEFINITION. Machine/Read.lean: what a read of a register returns: the register maps of chapters 00 to 18 and the VF map (Table
02.4), and the conditions that hide registers (Table 22.3).
-/
namespace Sys2Proof.Machine

/-- The value beside an offset in a list of registers. -/
def regIn (o : Nat) (l : List (Nat × Nat)) : Option Nat := (l.find? (fun e => decide (e.1 = o))).map Prod.snd
/-- Low and high words. -/
def lo32 (x : Nat) : Nat := x % 2 ^ 32
def hi32 (x : Nat) : Nat := x / 2 ^ 32 % 2 ^ 32
/-- A count divided and rounded up. -/
def upTo (n d : Nat) : Nat := (n + d - 1) / d
/-- Bits set at the members of a list. -/
def mask (l : List Nat) : Nat := (l.eraseDups.map (fun i => 2 ^ i)).sum
/-- A two's complement word. -/
def word32 (x : Int) : Nat := (BitVec.ofInt 32 x).toNat

/-! ## Codes -/

def tenCode : TenSt → Nat
  | .free => 0
  | .active => 1
  | .teardown => 2
  | .quarantine => 3
def ringCode : RingState → Nat
  | .disabled => 0
  | .active => 1
  | .draining => 2
  | .error => 3
def coreCode : CoreSt → Nat
  | .absent => 0
  | .fenced => 1
  | .idle => 2
  | .running => 3
  | .preempting => 4
  | .swapping => 5

/-! ## Read-only registers, block by block: the offset in the block's window, the accessor's selections -/

/-- MOD_IDENT (Table 00.2). -/
def modIdent (s : State) : Nat := (if s.half then 2 else 1) * 2 ^ 16 + 0x4100
def readMod (s : State) (o : Nat) : Option Nat :=
  regIn o [(0x0, modIdent s), (0x10, s.boot.cause), (0x14, s.boot.pwrCycles), (0x100, mask s.boot.drained),
    (0x104, mask (((List.range 19).drop 1).filter (blkIdle s))), (0x10C, mask s.boot.hung), (0x110, s.boot.ignored)]

/-- Pending bits 32 i to 32 i + 31 of a function's MSI-X PBA. -/
def pbaWord (s : State) (fn i : Nat) : Nat := mask ((List.range 32).filter (fun j => memb (vecKey fn (32 * i + j)) s.hif.msixPend))
def hifLink (s : State) : Nat :=
  s.hif.epoch % 256 * 2 ^ 24 + s.hif.width % 32 * 2 ^ 16 + s.hif.rate % 16 * 2 ^ 12 + b2n s.hif.flit * 256 + b2n s.hif.resumePending * 4
    + b2n s.hif.ideLink * 2 + b2n s.hif.up
def readHif (s : State) (t o : Nat) : Option Nat :=
  if 0x8000 ≤ o ∧ o < 0x10000 ∧ o % 4 = 0 then some (msixWord s 0 ((o - 0x8000) / 4)).toNat
  else if 0x10000 ≤ o ∧ o < 0x10100 ∧ o % 4 = 0 then some (pbaWord s 0 ((o - 0x10000) / 4))
  else regIn o [(0x0, 0x003F0C08), (0x4, hifLink s), (0x2C, tenCode (tenRec s t).st + tenLive s t * 2 ^ 11), (0x30, allLive s),
    (0x34, s.hif.trkPeak), (0x38, s.hif.trkPause), (0x40, s.hif.dbStale), (0x44, s.hif.dbIgnored)]

/-- RNG_STATUS, RNG_PI, RNG_CI, RNG_PASID of the selected ring; zero for a VF's unbound slot. -/
def readRng (s : State) (r : Option Nat) (o : Nat) : Option Nat :=
  match r with
  | some r =>
    let x := ringRec s r
    let sub := decide (ringType s r = 0)
    regIn o [(0x20, ringCode x.st + x.err % 256 * 256), (0x24, if sub then x.latched else x.posted),
      (0x28, if sub then x.fetched else x.consumed), (0x2C, x.pasid.toNat)]
  | none => none

def readPln (s : State) (t o : Nat) : Option Nat :=
  regIn o [(0x30, tenIn s t 0), (0x34, tenIn s t 1), (0x38, tenIn s t 2), (0x3C, (tenHnds s t).length), (0x80, s.pln.migDone),
    (0x84, s.pln.migAbandon), (0x88, s.pln.hintUnmet)]

def readMem (s : State) (o : Nat) : Option Nat :=
  if 0x100 ≤ o ∧ o < 0x100 + 0x10 * numStacks s then
    let x := stkRec s ((o - 0x100) / 16)
    regIn (o % 16) [(0, x.st % 4 * 2 ^ 14 + x.level % 8 * 256 + x.temp % 256), (4, x.thrCnt), (8, x.tripCnt)]
  else regIn o [(0x0, if s.half then 0x00080C0F else 0x001018FF), (0x2C, t0Pool s), (0x30, t1Pool s), (0x34, t2Pool s), (0x200, s.pln.retire.toNat)]

/-- COR_STATUS of a core (Table 04.8). -/
def corStatus (s : State) (c : Nat) : Nat :=
  let x := coreRec s c
  coreCode x.st * 2 ^ 29 + x.slot % 8 * 2 ^ 24 + (if slotValid s c x.slot then slotTen s c x.slot * 2 ^ 12 else 0)
    + mask ((List.range 8).filter (runnable s c))
/-- Bits of a die's cores that are members of a list. -/
def dieMask (s : State) (l : List Nat) (d : Nat) : Nat := mask ((l.filter (fun c => decide (c / 32 = d) && decide (c < numCores s))).map (fun c => c % 32))
def readCor (s : State) (sel : Nat) (o : Nat) : Option Nat :=
  if o < 0x80000 then
    let c := o / 0x1000
    let x := coreRec s c
    let k := slotRec s c (sel % 8)
    regIn (o % 0x1000) [(0x0, corStatus s c), (0x30, x.swaps), (0x34, x.discards), (0x38, Map.get 0 s.cor.preemptMax c),
      (0x3C, min k.badPost 65535 * 65536 + min k.overflow 65535)]
  else if o < 0xF0000 then
    let d := (o - 0x80000) / 0x1000
    regIn (o % 0x1000) [(0x0, dieMask s ((List.range (numCores s)).filter (coreFenced s)) d),
      (0x20, ((List.range 64).filter (fun g => (segTen s d g).isNone && !memb (d * 64 + g) s.cor.terZero)).length)]
  else regIn o [(0xF0000, 0x00200840)]

/-- ARR (chapter 06) and FMT (chapter 05) share a block; `n` is the selected format table. -/
def readArr (s : State) (n o : Nat) : Option Nat :=
  if 0x10000 ≤ o ∧ o < 0x10000 + 0x10 * numCores s then
    let x := coreRec s ((o - 0x10000) / 16)
    regIn (o % 16) [(0, x.fltInfo), (4, x.fltPlot), (8, x.fltCount)]
  else regIn o [(0x0, 0x00084002), (0x20, s.cor.launches.length),
    (0x80010, Map.get 0 s.cor.fmtGen n * 2 ^ 16 + min (s.cor.launches.filter (fun l => memb n l.tables)).length 65535)]

/-- The registers of a port's window (Table 07.8, Table 07.9). -/
def readPort (s : State) (p o : Nat) : Option Nat :=
  let x := portRec s p
  let m := fun l => Map.get (0, 0) x.margins l
  if 0x80 ≤ o ∧ o < 0xA0 ∧ o % 4 = 0 then some ((m ((o - 0x80) / 4)).1 * 2 ^ 16 + (m ((o - 0x80) / 4)).2 * 256)
  else regIn o
    [(0x20, portCode x.st * 2 ^ 28 + x.reason % 256 * 2 ^ 20 + x.peer % 2 ^ 20),
     (0x24, b2n x.memoHit * 2 ^ 20 + ((portBind s p).map Prod.snd).getD 15 * 2 ^ 16 + x.peerPort % 16),
     (0x28, (match x.residue with | some t => 2 ^ 31 + t * 2 ^ 16 | none => 0)
       + (if x.st = .opened then ((portBind s p).map (fun b => bindParcel s b.1)).getD 0 else 0)),
     (0x40, x.err.fecCorr), (0x44, x.err.fecUncorr), (0x48, x.err.crc), (0x4C, x.err.replay), (0x50, x.err.replayTo), (0x54, x.err.auth),
     (0x58, x.err.badType), (0x5C, x.err.retrain), (0x60, x.err.divert),
     (0xA0, match x.marginAt with | some k => min ((s.tick - k) / 250000) 65535 | none => 65535)]
def readVnl (s : State) (b o : Nat) : Option Nat :=
  if o < 0x40000 then if o % 0x4000 < 0x1000 then readPort s (o / 0x4000) (o % 0x4000) else none
  else
    let x := bindRec s b
    regIn o [(0x80000, if s.half then 0x0C0400FF else 0x0C04FFFF),
      (0x80030, b2n x.ready * 2 ^ 31 + x.maxHops % 256 * 2 ^ 16
        + mask ((List.range 16).filter (fun p => portUp s p && decide ((portBind s p).map Prod.fst = some b)))),
      (0x80040, s.vnl.memoRoutes.length * 2 ^ 16 + s.vnl.memoLinks.length), (0x80048, s.vnl.memoHits), (0x8004C, s.vnl.memoMisses)]

def readCol (s : State) (o : Nat) : Option Nat :=
  if 0x100 ≤ o ∧ o < 0x200 then
    regIn (o % 16) [(0, min (Map.get 0 s.col.engIn ((o - 0x100) / 16) / 2 ^ 20) (2 ^ 32 - 1)), (4, Map.get 0 s.col.engRound ((o - 0x100) / 16))]
  else regIn o [(0x0, 0x00104000), (0x20, s.col.colls.length), (0x24, s.col.parks)]

def readStp (s : State) (t o : Nat) : Option Nat :=
  let x := tstep s t
  let st : Nat := match x.st with | .idle => 0 | .run => 1 | .recover => 2
  let half := fun (v : Option Nat) => match v with | some n => 2 ^ 31 + hi32 n | none => 0
  regIn o [(0x0, 0x00030004),
    (0x24, st * 2 ^ 30 + x.steps.length % 4 * 2 ^ 28 + b2n x.split * 2 ^ 27 + b2n x.stall * 2 ^ 26
      + ((bindOf s t).map (drawDepth s)).getD 0 % 256 * 2 ^ 16 + x.reason % 256),
    (0x28, lo32 (x.drawn.getD 0)), (0x2C, half x.drawn), (0x30, lo32 (x.next.getD 0)), (0x34, half x.next),
    (0x38, upTo (leesUse s t) (2 ^ 20)), (0x3C, upTo (holdUse s t) (2 ^ 20)), (0x80, s.stp.draws), (0x84, s.stp.fails), (0x88, s.stp.drawLast),
    (0x8C, s.stp.drawMax), (0x90, s.stp.specStalls)]

/-- GiB of the rackable handles of a tenant that are neither replicated nor grafted each step. -/
def uncov (s : State) (t : Nat) : Nat :=
  ((tenHnds s t).map (fun e => if e.2.noRack || e.2.reserved || e.2.gone || e.2.replicated || e.2.graftEach then 0 else e.2.size)).sum
def readRck (s : State) (t o : Nat) : Option Nat :=
  let x := tenRack s t
  let g := Map.get {} s.rck.gin (rwReg s 0 0xA00040).toNat
  let half := fun (v : Option Nat) => match v with | some n => 2 ^ 31 + hi32 n | none => 0
  if 0x80 ≤ o ∧ o < 0xC0 then
    let k := slotAt s ((o - 0x80) / 0x20)
    regIn (o % 0x20) [(0, k.st * 2 ^ 30 + b2n k.lineage * 2 ^ 29 + b2n k.grafted * 2 ^ 28 + k.tenant * 2 ^ 16 + k.parcel), (4, lo32 k.step),
      (8, if k.st = 0 then 0 else 2 ^ 31 + hi32 k.step), (12, upTo k.bytes gib)]
  else regIn o [(0x0, 0x00020000),
    (0x20, x.graft * 2 ^ 30 + b2n x.lineage * 2 ^ 29 + b2n x.cover * 2 ^ 28 + ((buddySlot s t).map (fun b => buddyCoord s b.1 b.2)).getD 0),
    (0x24, lo32 (x.gstep.getD 0)), (0x28, half x.gstep), (0x2C, upTo (uncov s t) gib),
    (0x30, upTo (4096 * (s.stp.lees.filter (fun y => decide (y.tenant = t) && y.kept)).length) (2 ^ 20)),
    (0x44, b2n g.valid * 2 ^ 31 + b2n g.cover * 2 ^ 30 + g.tenant * 2 ^ 16 + g.sender), (0x48, lo32 (g.step.getD 0)), (0x4C, half g.step),
    (0x50, upTo (4096 * (g.image.length + g.shadow.length + g.rack.length)) gib), (0xCC, word32 (s.rck.bucket / (86400 * 1000000000))),
    (0xD0, lo32 (s.rck.total / 1000000000)), (0xD4, hi32 (s.rck.total / 1000000000)), (0xE0, s.rck.mismatch), (0xE4, s.rck.uncompared)]

/-- The owner, the new one during the gap of the interlock (R429). -/
def celOwner (s : State) : Nat := if s.cel.own = 2 then s.cel.gapTo.getD 0 else s.cel.own
/-- Microseconds since an instant, saturating at 255. -/
def silentUs (s : State) (a : Time) : Nat := min (nsSince s a / 1000) 255
/-- PAIR_ALARM's condition: exactly one path silent, as either die sees it (R427). -/
def pairAlarmed (s : State) : Bool := (s.cel.linkSilent != s.cel.kaSilent) || (s.cel.ownLinkSilent != s.cel.ownKaSilent)
def readCel (s : State) (svc tbl o : Nat) : Option Nat :=
  let p := peerRec s svc
  let x := tableRec s (bitsOf tbl 11 8) (bitsOf tbl 3 0)
  let w := s.pol.wilts[(rwReg s 0 0xB00180).toNat]?
  if 0x190 ≤ o ∧ o < 0x1A0 ∧ o % 4 = 0 then
    let b := (o - 0x190) / 4
    some (b2n (s.pol.wilts.any (fun y => decide (y.kind = 0) && decide (y.subject = b))) * 2 ^ 31 + ((Map.get [] s.pol.late b).filter (fun y => y)).length)
  else regIn o [(0x0, 0x00092040),
    (0x4, celOwner s % 2 * 2 ^ 31 + s.cel.ca % 8 * 2 ^ 28 + s.cel.cb % 8 * 2 ^ 25 + b2n s.cel.solo * 2 ^ 24),
    (0x8, lo32 s.cel.cycle), (0xC, hi32 s.cel.cycle),
    (0x10, b2n (pairAlarmed s) * 2 ^ 16 + silentUs s s.cel.linkAt * 256 + silentUs s s.cel.kaAt),
    (0x14, s.cel.hot * 2 ^ 16 + s.cel.cold), (0x18, s.cel.overruns),
    (0x64, p.verdict * 2 ^ 29 + b2n p.wilting * 2 ^ 28 + (match p.hbAt with | some a => min (nsSince s a / 1000000) 65535 | none => 0)),
    (0x118, b2n x.loaded * 2 ^ 31 + x.source * 2 ^ 28 + x.gen),
    (0x184, match w with | some y => 2 ^ 31 + y.kind * 2 ^ 28 + y.subject % 2 ^ 20 | none => 0),
    (0x188, match w with | some y => min (nsSince s y.since / 1000000000) (2 ^ 32 - 1) | none => 0)]

def readErr (s : State) (o : Nat) : Option Nat :=
  let x := stressRec s (rwReg s 0 0xC00300).toNat
  let hours := fun a => min (nsSince s a / 3600000000000) 65535
  if 0x100 ≤ o ∧ o < 0x100 + 0x10 * 20 then
    if errUnit s ((o - 0x100) / 16) then regIn (o % 16) [(0, Map.get 0 s.err.ce ((o - 0x100) / 16)), (4, Map.get 0 s.err.ue ((o - 0x100) / 16))]
    else none
  else if 0x304 ≤ o ∧ o < 0x310 ∧ numDies s ≤ (rwReg s 0 0xC00300).toNat then none
  else regIn o [(0x0, 0x14), (0x20, s.err.lastInfo), (0x24, s.err.lastTime), (0x28, s.err.complexResets),
    (0x2C, (s.pln.pages.map (fun e => e.2.poison.length)).sum), (0x30, s.err.checkFail), (0x34, hours s.err.scrub1 * 2 ^ 16 + hours s.err.scrub0),
    (0x304, x.result * 2 ^ 30 + b2n x.running * 2 ^ 29 + x.fails % 256 * 2 ^ 16 + x.fenced % 256 * 256 + x.freq % 256), (0x308, x.failmap),
    (0x30C, match x.doneAt with | some a => min (nsSince s a / 1000000000) (2 ^ 32 - 1) | none => 2 ^ 32 - 1)]

/-- PWR_DIE_STATUS.state: 0 unpowered, 1 running, 2 thermal throttle, 3 tripped. -/
def dieCode (s : State) (d : Nat) : Nat :=
  if !diesOn s then 0 else if (dieP s d).tripped then 3 else if (dieP s d).throttle then 2 else 1
def readPwr (s : State) (o : Nat) : Option Nat :=
  let body := tableBody s 6 0
  let i := tarIndex body s.tim.s
  let on := (tableRec s 6 0).loaded
  let sel := rwReg s 0 0xD00200
  if 0x100 ≤ o ∧ o < 0x100 + 0x20 * numDies s then
    let d := (o - 0x100) / 0x20
    let x := dieP s d
    regIn (o % 0x20) [(0, dieCode s d * 2 ^ 30 + x.temp % 256 * 2 ^ 16 + dieStep s d * 256 + fmaxStep s d),
      (4, Config.fusedVmax d % 65536 * 2 ^ 16 + x.volt % 65536),
      (8, (match x.planAt with | some k => min ((s.tim.s - k) / 86400) 65535 | none => 0) * 2 ^ 16 + x.margin % 65536), (12, x.trips)]
  else regIn o [(0x0, if s.half then 0x02EE0258 else 0x05DC04B0),
    (0x4, pwrCode s.pwr.st * 2 ^ 29 + b2n (s.pwr.clamp || (match s.pwr.clampAt with | some k => decide (s.tick - k < 250000) | none => false)) * 2 ^ 25
      + b2n (tariffOn s) * 2 ^ 24 + (if tariffOn s then (tarEntry body i).2.2 else 0) * 2 ^ 20 + s.pwr.level % 4 * 2 ^ 16 + capNow s % 65536),
    (0x8, s.pwr.volts % 65536 * 2 ^ 16 + s.pwr.power % 65536), (0x34, s.pwr.reqStatus),
    (0x40, match s.pwr.interval with | some v => (s.pwr.energy - v.e0) / 1000000 | none => 0),
    (0x44, match s.pwr.interval with | some v => min (demandCap s v) 65535 * 2 ^ 16 + v.cap % 65536 | none => 0),
    (0x48, lo32 (s.pwr.energy / 1000000000)), (0x4C, hi32 (s.pwr.energy / 1000000000)),
    (0x50, b2n on * 2 ^ 31 + (if on then tarCount body * 2 ^ 16 + (if tariffOn s then i else 0) else 0)), (0x54, s.pwr.unmet), (0x58, s.pwr.clampCnt),
    (0x204, match Map.find (dieP s (fldW sel 1 0)).vfail (fldW sel 12 8) with
      | some v => if fldW sel 1 0 < numDies s then 2 ^ 31 + v % 65536 else 0
      | none => 0)]

def readTim (s : State) (o : Nat) : Option Nat :=
  let x := s.tim
  let q := x.txq.head?
  if 0x1000 ≤ o ∧ o < 0x1400 then
    let k := (o - 0x1000) / 16
    let t := trigRec s k
    regIn (o % 16) [(0, t.st % 8 * 2 ^ 29 + b2n t.late * 2 ^ 28 + (if k < 8 ∨ t.st = 0 then 0 else t.mode % 16 * 2 ^ 24 + t.tenant % 4096 * 2 ^ 12)),
      (4, t.target.ns), (8, lo32 t.target.s), (12, min t.lateness (2 ^ 32 - 1))]
  else regIn o [(0x0, 0x00402000),
    (0x4, b2n (bitW (timSrc s) 29) * 2 ^ 31 + b2n x.holdover * 2 ^ 30 + b2n x.tpinLock * 2 ^ 29 + b2n x.ntpLock * 2 ^ 28 + b2n (decide (x.slew ≠ 0)) * 2 ^ 27
      + b2n x.set * 2 ^ 26),
    (0x8, x.ns), (0xC, lo32 x.latch), (0x10, hi32 x.latch), (0x14, min (timUnc s) (2 ^ 32 - 1)), (0x48, x.capture.ns), (0x4C, lo32 x.capture.s),
    (0x50, x.tpinMiss), (0x54, x.steps),
    (0x60, match q with | some e => 2 ^ 16 + e.1 % 65536 | none => 0), (0x64, match q with | some e => e.2.ns | none => 0),
    (0x68, match q with | some e => lo32 e.2.s | none => 0), (0x70, x.txOvf)]

/-- SEC: `k` is the selected key slot, 0 to 3 a binding's parcel key, 4 the service key. -/
def readSec (s : State) (k o : Nat) : Option Nat :=
  let key := if k = 4 then s.sec.svcKey else bindKey s k
  let kid := (key.map (fun x => (Config.kdf x (lblKid ++ leB 2 (if k = 4 then 0 else bindParcel s k))).toNat % 2 ^ 64)).getD 0
  if 0x40 ≤ o ∧ o < 0x50 ∧ o % 4 = 0 then some (s.sec.nonce / 2 ^ (8 * (o - 0x40)) % 2 ^ 32)
  else regIn o [(0x0, lifeCode s.sec.life * 2 ^ 29 + b2n (approved s) * 2 ^ 28 + b2n (decide (s.sec.caveErr ≠ [])) * 2 ^ 27 + s.sec.svn % 65536),
    (0x4, s.moduleId % 2 ^ 20), (0x8, s.sec.zero.length), (0x24, b2n key.isSome * 2 ^ 31), (0x28, lo32 kid), (0x2C, hi32 kid), (0x64, s.sec.cmdReason),
    (0x68, if s.sec.life = .opened then s.sec.caps % 65536 else 0), (0x6C, lo32 s.sec.notAfter)]

def readBoot (s : State) (o : Nat) : Option Nat :=
  let x := s.boot
  if 0x20 ≤ o ∧ o < 0x30 ∧ o % 4 = 0 then some (dieMask s x.fences ((o - 0x20) / 4))
  else if 0x80 ≤ o ∧ o < 0xC0 ∧ o % 4 = 0 then
    some (match Map.find x.ledger (rwReg s 0 0x1100040).toNat with
      | some r => fieldAt (ldgBytes r) (o - 0x80) 4
      | none => 2 ^ 32 - 1)
  else regIn o
    [(0x0, b2n x.ready * 2 ^ 31 + b2n x.hostReady * 2 ^ 30 + b2n x.halted * 2 ^ 29 + b2n x.retiring * 2 ^ 28 + b2n x.t1Saved * 2 ^ 27
      + b2n x.t1Reduced * 2 ^ 26 + x.step % 256 * 2 ^ 16 + x.failStep % 256 * 256 + x.failResult % 256),
     (0x4, x.runAttempt), (0x8, x.bootMs), (0x30, mask x.portsFenced), (0x44, x.ldgNext % 256),
     (0x100, x.slotA.st % 8 * 2 ^ 29 + x.slotB.st % 8 * 2 ^ 26 + x.activeSlot % 2 * 2 ^ 25 + b2n x.trial * 2 ^ 24 + x.trialCnt % 4 * 2 ^ 22),
     (0x104, x.minVer.getD 1 0 * 2 ^ 16 + x.minVer.getD 0 0), (0x108, x.minVer.getD 3 0 * 2 ^ 16 + x.minVer.getD 2 0), (0x124, x.updDone)]

/-- The 64-bit cursor of the book's window (R632). -/
def bookCur (s : State) : Nat := (rwReg s 0 0x120001C).toNat * 2 ^ 32 + (rwReg s 0 0x1200018).toNat
/-- BOOK_WIN_STATE (R634). -/
def winState (s : State) : Nat := if bookCur s < s.book.floor then 1 else if s.book.head ≤ bookCur s then 2 else 0
def readBook (s : State) (o : Nat) : Option Nat :=
  let b := s.book
  if 0x40 ≤ o ∧ o < 0x80 ∧ o % 4 = 0 then some (fieldAt ((Map.find b.recs (bookCur s % 131072)).getD (List.replicate 64 0xFF)) (o - 0x40) 4)
  else regIn o [(0x0, 0x00110040), (0x8, lo32 b.head), (0xC, hi32 b.head), (0x10, lo32 b.floor), (0x14, hi32 b.floor), (0x24, winState s),
    (0x2C, b.clear), (0x30, b.lost)]

/-! ## DBG (16) -/

/-- Clock domain of a scan unit (Table 16.2, Table 16.10): none for a reserved code or an absent unit. -/
def scanDomain (s : State) (u : Nat) : Option Nat :=
  if u < 0x80 then if u < numCores s then some (2 + u / 32) else none
  else if u < 0x84 then if u - 0x80 < numDies s then some (2 + (u - 0x80)) else none
  else if u = 0x90 then some 0
  else if u = 0x91 ∨ u = 0x92 then some 1
  else if u = 0x93 then some 14
  else if u = 0x94 then some 34
  else if 0xA0 ≤ u ∧ u < 0xB0 then if u - 0xA0 < numPorts s then some 1 else none
  else if 0xB0 ≤ u ∧ u < 0xC0 then some 1
  else if u = 0xC0 then some 32
  else if u = 0xC1 then some 33
  else none
/-- A clock domain of Table 16.10 that runs outside Frost: absent ones and, without powered compute dies, the dies' do not, nor those
MOD_REFCLK fed once its holdover has ended (R39). -/
def domRuns (s : State) (d : Nat) : Bool :=
  if s.cor.domStopped ∧ (1 ≤ d ∧ d ≤ 15 ∨ d = 34) then false
  else if 2 ≤ d ∧ d ≤ 5 then decide (d - 2 < numDies s) && diesOn s
  else if 6 ≤ d ∧ d ≤ 13 then decide (d - 6 < numStacks s)
  else if 16 ≤ d ∧ d ≤ 31 then decide (d - 16 < numPorts s)
  else decide (d ≤ 34)
/-- The unit's domain has stopped with Frost. -/
def unitStopped (s : State) (u : Nat) : Bool :=
  match scanDomain s u with
  | some d => domRuns s d && (Map.find s.dbg.stops d).isSome
  | none => false
/-- Word i of a section, or i = 0 its length, where the spec gives neither layout nor length: a free value (log 42, 43). -/
def openWord (s : State) (u kind i : Nat) : Nat := (Config.scanWord (256 * kind + u) i s.dbg.count).toNat
/-- A length the spec leaves open; a record has at most 2^25 words (Table 16.8). -/
def openLen (s : State) (u kind : Nat) : Nat := openWord s u kind 0 % 2 ^ 20
/-- What the cut holds of the crossings a unit reads (R581). -/
def unitFifos (s : State) (u : Nat) : List (Nat × CutFifo) := s.dbg.fifos.filter (fun e => decide (e.2.unit = u))
def unitSyncs (s : State) (u : Nat) : List (Nat × CutSync) := s.dbg.syncs.filter (fun e => decide (e.2.unit = u))
/-- The FIFO, FIFO_DATA and SYNC sections of a unit, where it has any. -/
def crossSections (s : State) (u : Nat) : List (Nat × Nat) :=
  let f := unitFifos s u
  let y := unitSyncs s u
  (if f.isEmpty then [] else [(0x11, 6 * f.length), (0x12, (f.map (fun e => e.2.words.length)).sum)])
    ++ (if y.isEmpty then [] else [(0x13, y.length)])
/-- Sections of a unit's record in ascending kind order: kind, data words (R586, Table 16.3). Which unit holds which is DEDUCED from their
names (log 42). -/
def sectionsOf (s : State) (u : Nat) : List (Nat × Nat) :=
  let x := crossSections s u
  let free := fun (k : Nat) => (k, openLen s u k)
  if u < 0x80 then
    [(1, 66), (2, 64), (3, 512), (4, 64), (5, 320), (6, 1280), (7, 2048), (8, 16384), (9, 1048576), free 0x0A, free 0x10] ++ x
  else if u < 0x84 then free 0x10 :: x ++ [(0x20, 16777216), free 0x21, free 0x22, free 0x23]
  else if 0xA0 ≤ u ∧ u < 0xB0 then x ++ [free 0x30, free 0x31]
  else if 0xB0 ≤ u ∧ u < 0xC0 then x ++ [free 0x40, free 0x41]
  else free 0x10 :: x
/-- A section of tenant class (Table 16.3). -/
def kindTenant (kind : Nat) : Bool := decide (kind < 0x10) || memb kind [0x12, 0x20, 0x22, 0x31, 0x40]
/-- The gray code of a number. -/
def gray (n : Nat) : Nat := n ^^^ (n / 2)
/-- The words of a FIFO in section 0x11: identifier, depth, write pointer gray and binary, read pointer gray and binary. The layout is a
DESIGN CHOICE, the spec names the items only (log 42). -/
def fifoWords (e : Nat × CutFifo) : List Nat := [e.1, e.2.depth, gray e.2.wptr, e.2.wptr, gray e.2.rptr, e.2.rptr]
/-- Where in a core's image area a section's bytes stand (Table 04.5). -/
def sectionKey (c kind : Nat) : Nat :=
  match kind with
  | 1 => imgKey c 0x410800
  | 2 => imgKey c 0x410900
  | 3 => imgKey c 0x410000
  | 4 => imgKey c 0x410A00
  | 7 => bankKey c
  | 8 => imgKey c 0x400000
  | _ => imgKey c 0
/-- Word `i` of the queue section: 20 bytes an entry: header, line, flags (R235). -/
def queueBytes (s : State) (c : Nat) : List Byte :=
  (slotRec s c (coreRec s c).slot).queue.flatMap (fun q => q.hdr ++ leB 2 q.line ++ leB 2 (b2n q.refire))
/-- A slot's counters and pools, 16 bits each. -/
def tokenHalf (s : State) (c i : Nat) : Nat :=
  let x := slotRec s c (i / 320)
  if i % 320 < 256 then Map.get 0 x.cnts (i % 320) else Map.get 0 x.pools (i % 320 - 256)
/-- Data word `i` of a section of a core. -/
def coreWord (s : State) (c kind i : Nat) : Nat :=
  if kind = 5 then fieldAt (queueBytes s c) (4 * i) 4
  else if kind = 6 then tokenHalf s c (2 * i) % 65536 + tokenHalf s c (2 * i + 1) % 65536 * 65536
  else ofLe (memRead s.mem (sectionKey c kind + 4 * i) 4)
/-- Data word `i` of a section of a unit; `full`: scan-out is available in full, else tenant words read as zero (R587). -/
def sectionWord (s : State) (full : Bool) (u kind i : Nat) : Nat :=
  if kindTenant kind ∧ ¬ full then 0
  else if kind < 0x0A then coreWord s u kind i
  else if kind = 0x11 then ((unitFifos s u).flatMap fifoWords).getD i 0 % 2 ^ 32
  else if kind = 0x12 then ((unitFifos s u).flatMap (fun e => e.2.words)).getD i 0 % 2 ^ 32
  else if kind = 0x13 then ((unitSyncs s u).map (fun e => e.2.stages)).getD i 0 % 2 ^ 32
  else if kind = 0x20 then ofLe (memRead s.mem (terKey (u - 0x80) 0 (4 * i)) 4)
  else openWord s u kind (i + 1)
/-- Word `i` past the header of a unit's record, among its sections: header of two words, data. -/
def sectionsAt (s : State) (full : Bool) (u : Nat) : List (Nat × Nat) → Nat → Nat
  | [], _ => 0
  | (k, n) :: r, i =>
    if i = 0 then k * 2 ^ 24 + b2n (kindTenant k) * 2 ^ 23
    else if i = 1 then n
    else if i < n + 2 then sectionWord s full u k (i - 2)
    else sectionsAt s full u r (i - (n + 2))
/-- Length of a unit's record in words. -/
def scanLen (s : State) (u : Nat) : Nat :=
  if unitStopped s u then 4 + ((sectionsOf s u).map (fun k => k.2 + 2)).sum else 4
/-- Word `i` of the record of unit `u` (R586, R587); `full`: scan-out is available in full. -/
def scanWordAt (s : State) (full : Bool) (u i : Nat) : Nat :=
  let cyc := ((scanDomain s u).bind (Map.find s.dbg.stops)).getD 0
  if i = 0 then u % 256 * 2 ^ 24
  else if i = 1 then scanLen s u
  else if i = 2 then lo32 cyc
  else if i = 3 then hi32 cyc
  else if unitStopped s u then sectionsAt s full u (sectionsOf s u) (i - 4)
  else 0
/-- Scan-out reads the stopped state, while Frost is in force. -/
def scanOn (s : State) : Bool := decide (s.dbg.frost = 2) && decide (dbgLevel s 3 ≠ 0)
def scanUnit (s : State) : Nat := fldW (rwReg s 0 0x1000080) 7 0
def scanIdx (s : State) : Nat := fldW (rwReg s 0 0x1000084) 24 0
def scanData (s : State) : Nat := if scanOn s then scanWordAt s (decide (dbgLevel s 3 = 2)) (scanUnit s) (scanIdx s) else 0
/-- Word of a core's drain region (R593), readable where trace is available in full. -/
def traceData (s : State) : Nat :=
  let c := fldW (rwReg s 0 0x10001C0) 6 0
  let i := fldW (rwReg s 0 0x10001C4) 19 0
  if dbgLevel s 1 = 2 ∧ c < numCores s then
    match Map.find s.dbg.region (c * 2 ^ 18 + i / 4) with
    | some x => fieldAt x.bytes (i % 4 * 4) 4
    | none => 0
  else 0
/-- DBG_DOM_STATUS: 0 running, 1 stopped, 2 not running. -/
def domStatus (s : State) (d : Nat) : Nat := if !domRuns s d then 2 else if (Map.find s.dbg.stops d).isSome && decide (s.dbg.frost ≠ 0) then 1 else 0
/-- The live value of the selected counter, where counters are available in full (R591). -/
def cntLive (s : State) : Nat :=
  let w := rwReg s 0 0x1000180
  let set := fldW (cset s .dbg 0 0) 1 0
  if dbgLevel s 0 = 2 ∧ fldW w 14 8 < numCores s then
    if memb (fldW w 5 0) (cycleCtrs set) then (Config.coreCycles (fldW w 14 8) (256 * set + fldW w 5 0) s.tim.s s.tim.ns).toNat
    else Map.get 0 (coreRec s (fldW w 14 8)).counters (fldW w 5 0)
  else 0
/-- The debug functions of a register of the block (R569): it reads as zero when none of them is available. -/
def dbgFns (o : Nat) : List Nat :=
  if o < 0x10 then [0, 1, 2, 3]
  else if o < 0x20 then [0, 2]
  else if o < 0x80 then [2]
  else if o < 0x100 then [3]
  else if o < 0x180 then [0, 1]
  else if o < 0x1C0 then [0]
  else [1]
def readDbg (s : State) (t o : Nat) : Option Nat :=
  let d := s.dbg
  let k := fldW (rwReg s 0 0x1000040) 5 0
  let cyc := Map.get 0 d.stops k
  regIn o [(0x0, 0x00104003),
    (0x24, d.frost % 4 * 2 ^ 30 + d.source % 8 * 2 ^ 27 + b2n d.refused * 2 ^ 26 + b2n d.partCut * 2 ^ 25 + d.count % 65536), (0x28, d.stopAt.ns),
    (0x2C, lo32 d.stopAt.s), (0x30, d.dbIgnored), (0x44, lo32 cyc), (0x48, hi32 cyc), (0x4C, domStatus s k), (0x88, scanData s),
    (0x8C, if scanOn s then scanLen s (scanUnit s) else 0), (0x120, Map.get 0 d.lost t), (0x184, lo32 (cntLive s)), (0x188, hi32 (cntLive s)),
    (0x1C8, traceData s), (0x1CC, if dbgLevel s 1 = 2 then Map.get 0 d.head (fldW (rwReg s 0 0x10001C0) 6 0) else 0)]

/-! ## A read (R690) -/

/-- The window of an absent core, die, stack or port (R4), or of a port that B14 fenced. -/
def absentWin (s : State) (a : Nat) : Bool :=
  (decide (0x500000 ≤ a) && decide (a < 0x580000) && decide (numCores s ≤ (a - 0x500000) / 0x1000))
  || (decide (0x580000 ≤ a) && decide (a < 0x5F0000) && decide (numDies s ≤ (a - 0x580000) / 0x1000))
  || (decide (0x400100 ≤ a) && decide (a < 0x400180) && decide (numStacks s ≤ (a - 0x400100) / 0x10))
  || (decide (0x610000 ≤ a) && decide (a < 0x610800) && decide (numCores s ≤ (a - 0x610000) / 0x10))
  || (decide (0x700000 ≤ a) && decide (a < 0x740000) && (decide (numPorts s ≤ (a - 0x700000) / 0x4000) || memb ((a - 0x700000) / 0x4000) s.boot.portsFenced))
  || (decide (0xD00100 ≤ a) && decide (a < 0xD00180) && decide (numDies s ≤ (a - 0xD00100) / 0x20))
  || (decide (0x1100020 ≤ a) && decide (a < 0x1100030) && decide (numDies s ≤ (a - 0x1100020) / 4))
/-- The conditions of Table 22.3, in their order. -/
def hidden (s : State) (acc : Acc) (a : Nat) : Bool :=
  let blk := blockOf a
  (decide (s.dbg.frost ≠ 0) && decide (blk ≠ 16)) || absentWin s a || (decide (blk = 18) && !s.boot.b01Done)
  || (decide (blk = 11) && !s.cel.firstCycle && decide (a ≠ 0xB00014))
  || (!s.boot.hostReady && !memb blk [0, 17, 15, 11, 18] && !(decide (blk = 16) && decide (acc = .tap)))
  || (decide (blk = 16) && (dbgFns (a % 0x100000)).all (fun f => decide (dbgLevel s f = 0)))
/-- The object a selector of the accessor names. -/
def selNum (s : State) (g : Grp) (acc : Acc) (win : Nat) : Nat := (selObj s g acc win).getD 0
/-- A read-only register of a block. -/
def readRo (s : State) (acc : Acc) (a : Nat) : Option Nat :=
  let o := a % 0x100000
  match blockOf a with
  | 0 => readMod s o
  | 1 => readHif s (selNum s .hifTen acc 0) o
  | 2 => readRng s (selObj s .rng acc 0) o
  | 3 => readPln s (selNum s .plnTq acc 0) o
  | 4 => readMem s o
  | 5 => readCor s (selVal s .corSlot acc (o / 0x1000)) o
  | 6 => readArr s (selNum s .fmt acc 0) o
  | 7 => readVnl s (selNum s .vnlPcl acc 0) o
  | 8 => readCol s o
  | 9 => readStp s (selNum s .stpTen acc 0) o
  | 10 => readRck s (selNum s .rckTen acc 0) o
  | 11 => readCel s (selNum s .celSvc acc 0) (selNum s .celTbl acc 0) o
  | 12 => readErr s o
  | 13 => readPwr s o
  | 14 => readTim s o
  | 15 => readSec s (selNum s .secKey acc 0) o
  | 16 => readDbg s (selNum s .dbgTen acc 0) o
  | 17 => readBoot s o
  | 18 => readBook s o
  | _ => none
/-- The committed value of an RWC register of the selected object (R57). -/
def readSet (s : State) (g : Grp) (acc : Acc) (win i : Nat) : Nat :=
  match selObj s g acc win with
  | some x => (cset s g x i).toNat
  | none => (g.reset s.half i).toNat
/-- What a status register reads (Table 02.5). -/
def readStat (s : State) (g : Grp) (acc : Acc) (win : Nat) : Nat := (cstatOf s g acc win).1 + (cstatOf s g acc win).2 * 4096
/-- A read of PF0 BAR0 by PF0, policy firmware or the TAP (R690). -/
def readReg (s : State) (acc : Acc) (a : Nat) : Nat :=
  if hidden s acc a then 0
  else match grpAt s.half a with
  | some (g, w, i) => readSet s g acc w i
  | none =>
    match selAt s.half a with
    | some (g, w, _) => selVal s g acc w
    | none =>
      match cstatAt s.half a with
      | some (g, w) => readStat s g acc w
      | none =>
        if plainRw.any (fun p => decide (p.1 = a)) ∨ (0x200 ≤ a ∧ a < 0x300 ∧ a % 4 = 0) then (rwReg s 0 a).toNat
        else (readRo s acc a).getD 0
/-- A read of a VF's BAR0 (Table 02.4); none: the request completes as Unsupported Request (R53). A VF that ignores writes after its
reset is read all the same (R98). -/
def readVf (s : State) (n : Nat) (t : Bool) (a : Nat) : Option Nat :=
  if ¬ vfTakes s n t then none
  else some (
    if s.dbg.frost ≠ 0 then 0
    else if a = 0 then modIdent s
    else if ¬ s.boot.hostReady then 0
    else if a = 0x10 then (rwReg s n 0x10).toNat
    else if a = 0x14 then ((tenAtSlot s n (rwReg s n 0x10).toNat).map (fun k => tenCode (tenRec s k).st)).getD 0
    else if 0x1000 ≤ a ∧ a < 0x1040 then readReg s (.vf n t) (0x200000 + (a - 0x1000))
    else if 0x8000 ≤ a ∧ a < 0x9000 ∧ a % 4 = 0 then (msixWord s n ((a - 0x8000) / 4)).toNat
    else if 0x9000 ≤ a ∧ a < 0x9020 ∧ a % 4 = 0 then pbaWord s n ((a - 0x9000) / 4)
    else 0)
/-- A read of a doorbell page of BAR2: zero (R72); none: Unsupported Request (R53). -/
def readDoorbell (s : State) (acc : Acc) : Option Nat := if accLocked s acc then none else some 0

end Sys2Proof.Machine
end

