-- ==== Sys2Proof/Machine/Book.lean ====
section
/-!
DEFINITION. Machine/Book.lean: the commands of the BOOK block (R632, R635, R636).
-/
namespace Sys2Proof.Machine

/-- BOOK_CUR_NEXT: adds 1 to the 64-bit cursor. -/
def execBookCurNext (acc : Acc) (s : State) : Answer :=
  .next (if blockOpen s acc 18 then
      let c := (bookCur s + 1) % 2 ^ 64
      setRw 0 0x120001C (wordOf (hi32 c)) (setRw 0 0x1200018 (wordOf (lo32 c)) s)
    else s)
/-- The result of a clear: in Provisioned only, with every tenant FREE. -/
def clearResult (s : State) : Nat := if s.sec.life ≠ .provisioned then cDENIED else if allFree s then cOK else cBUSY
/-- Every slot's seq becomes all ones, the floor the head; a BOOK_CLEARED record follows. -/
def clearBook (s : State) : State :=
  let b := s.book
  record 0x1200 (b.head % 2 ^ 32) b.floor
    (modBook (fun x => { x with recs := Map.mapV (fun _ r => List.replicate 8 0xFF ++ r.drop 8) x.recs, floor := x.head }) s)
/-- BOOK_CLEAR. -/
def execBookClear (acc : Acc) (s : State) : Answer :=
  .next (if blockOpen s acc 18 then
      let r := clearResult s
      modBook (fun b => { b with clear := r }) (if r = cOK then clearBook s else s)
    else s)

end Sys2Proof.Machine
end

