-- ==== Sys2Proof/Machine/Vine.lean ====
section
/-!
DEFINITION. Machine/Vine.lean: the commands of Vine ports: flits, retry, retraining (R267 to R282, R298 to R301), bring-up and
the memo (R281 to R286), the hedge handshake (R293 to R297), margins (R303, R304), and the block's direct writes.
-/
namespace Sys2Proof.Machine

/-! ## Retraining and leaving (R282, R283, R300) -/

def portLim (s : State) (p : Nat) : Word := cset s .vnlPort p 2
/-- A port leaves for DARK or FENCED: out of OPEN or RETRAIN its gate closes (R283, R294). -/
def leavePort (p : Nat) (st : PortSt) (reason : Nat) (s : State) : State :=
  let s1 := drainQueue (closePort p reason (modPort p (fun x => { x with
    st := st, reason := reason, shake := {}, train := [], trainPart := [] }) s))
  let s2 := match portBind s p with | some (b, _) => divertBind b s1 | none => s1
  checkBuddies (portEvt p (if st = .fenced then 3 else 0) s2)

/-- An OPEN port enters RETRAIN; the eighth entry within 1 s fences it (R281, R300, R301). -/
def enterRetrain (p reason : Nat) (s : State) : State :=
  let x := portRec s p
  if x.st = .opened then
    let ts := x.retrains.filter (fun k => decide (s.tick < k + 250000000)) ++ [s.tick]
    let s1 := modPort p (fun x => { x with
      retrains := ts, err := { x.err with retrain := satAdd 32 x.err.retrain 1 },
      retry := x.retry.map (fun f => { f with resent := 0 }) }) s
    if 8 ≤ ts.length then leavePort p .fenced 0x11 s1
    else
      let s2 := modPort p (fun x => { x with st := .retrain, reason := reason }) s1
      match portBind s p with
      | some (b, k) => divertSlot b k (drainQueue (updReady b s2))
      | none => s2
  else s

/-- The first flit of a resend at which a limit is reached, by its place: lim_same resends of that flit, or lim_replay resends in the
window (R299, R300). -/
def resendLimit (lim : Word) (w : Nat) (fl : List TxFlit) : Option (TxFlit × Nat) :=
  fl.zipIdx.find? (fun f => decide (fldW lim 7 4 ≤ f.1.resent + 1) || decide (fldW lim 15 8 ≤ w + f.2 + 1))
/-- Resends the retry buffer from place i on, with the original bytes (R271); a limit reached retrains at the next flit boundary, so
the flits after it are not sent (R282, R300). -/
def resendFrom (p i : Nat) (s : State) : State :=
  let x := portRec s p
  let lim := portLim s p
  let stop := resendLimit lim x.wReplay (x.retry.drop i)
  let fl := (x.retry.drop i).take (match stop with | some f => f.2 + 1 | none => x.retry.length)
  let s1 := forS fl (fun f => emit (.flit p f.bytes)) (modPort p (fun x => { x with
    retry := x.retry.mapIdx (fun j f => if i ≤ j ∧ j < i + fl.length then { f with resent := f.resent + 1 } else f),
    err := { x.err with replay := satAdd 32 x.err.replay fl.length },
    wReplay := min (fldW lim 15 8) (x.wReplay + fl.length) }) s)
  match stop with
  | some f => enterRetrain p (if fldW lim 7 4 ≤ f.1.resent + 1 then 0x10 else 0x0F) s1
  | none => s1

/-- A port returns to OPEN with its gate open and resends what is unacknowledged (R282). -/
def reopenPort (p : Nat) (s : State) : State :=
  let s1 := portEvt p 2 (modPort p (fun x => { x with st := .opened, reason := 0 }) s)
  match portBind s1 p with
  | some (b, _) => drainQueue (updReady b (resendFrom p 0 s1))
  | none => s1

/-! ## Receiving flits (R269 to R276) -/

/-- Credits, acknowledgement or NAK of an envelope (R271, R277). -/
def ackIn (p : Nat) (env : List Byte) (s : State) : State :=
  let cr := fieldAt env 280 4
  let a := fieldAt env 6 2
  let s1 := modPort p (fun x => { x with credits := x.credits.modify (bitsOf cr 15 14) (· + bitsOf cr 13 0) }) s
  let place := (portRec s1 p).retry.findIdx? (fun f => decide (f.ctr % 4096 = a % 4096))
  if bitOf a 13 then
    match place with
    | none => drainQueue s1
    | some i =>
      if bitOf a 12 then drainQueue (resendFrom p i s1)
      else drainQueue (modPort p (fun x => { x with retry := x.retry.drop (i + 1) }) s1)
  else drainQueue s1

/-- A message that has arrived whole (R278): for this module into its inbox, for another coordinate onward. -/
def arrive (b cls dest : Nat) (msg : List Byte) (s : State) : State :=
  if dest = bindCoord s b then modVnl (fun v => { v with inbox := v.inbox ++ [(b, msg)] }) s else sendTo b cls dest msg s

/-- The content of an accepted flit joins its message. -/
def takePayload (p b : Nat) (env plain : List Byte) (s : State) : State :=
  let cls := bitsOf (fieldAt env 0 1) 5 4
  let m := (if bitOf (fieldAt env 1 1) 0 then [] else Map.get [] (portRec s p).part cls) ++ plain
  if bitOf (fieldAt env 1 1) 1 then
    arrive b cls (fieldAt env 2 2) m (modPort p (fun x => { x with part := Map.set [] x.part cls [] }) s)
  else modPort p (fun x => { x with part := Map.set [] x.part cls m }) s

/-- The ciphertext and tag of an envelope under a key and counter. -/
def flitAuth (key m port ctr : Nat) (env plain : List Byte) : Bool :=
  decide ((env.drop 8).take 272 = gcm key (flitIv m port ctr) (env.take 8) plain)

/-- A DATA or CTRL flit on an OPEN port (R271, R273 to R276, R301): one that fails authentication closes the port; the next in order is
delivered, one accepted before is acknowledged and dropped, a later one is answered with a NAK; the credit of a flit returns
once, with its acceptance (log 59). Its counter is the one nearest the expected with its low bits, its key that of its epoch bit. -/
def takeFlit (p b : Nat) (env plain : List Byte) (s : State) : State :=
  let x := portRec s p
  let off := (fieldAt env 4 2 % 4096 + 4096 - x.rxCtr % 4096) % 4096
  let ctr := (if off < 2048 then x.rxCtr + off else x.rxCtr + off + (2 ^ 64 - 4096)) % 2 ^ 64
  let cls := bitsOf (fieldAt env 0 1) 5 4
  let e := if bitOf (fieldAt env 0 1) 6 = decide (ctr / 2 ^ 32 % 2 = 1) then ctr / 2 ^ 32 else ctr / 2 ^ 32 - 1
  if flitAuth (rxKey s p e) x.peer x.peerPort ctr env plain then
    if off = 0 then
      let s1 := modPort p (fun y => { y with rxCtr := y.rxCtr + 1, diverted := without x.rxCtr y.diverted }) s
      let s2 := if memb x.rxCtr x.diverted then s1 else takePayload p b env plain s1
      sendIdle p x.rxCtr false true 1 cls false s2
    else if 2048 ≤ off then sendIdle p (ackOf x).1 false (ackOf x).2 0 cls false s
    else sendIdle p x.rxCtr true true 0 cls false s
  else
    checkBuddies (closePort p 0x0E (modPort p (fun y => { y with err := { y.err with auth := satAdd 32 y.err.auth 1 } }) s))

/-- A TRAIN flit of a hedged port: its fragment joins the message (R269, Table 07.5). -/
def takeTrain (p : Nat) (env : List Byte) (s : State) : State :=
  let body := (env.drop 10).take 254
  let m := if bitOf (fieldAt env 1 1) 0 then (env.drop 8).take 1 ++ zeros 1 ++ body else (portRec s p).trainPart ++ body
  if bitOf (fieldAt env 1 1) 1 then modPort p (fun x => { x with train := x.train ++ [m], trainPart := [] }) s
  else modPort p (fun x => { x with trainPart := m }) s

def hbSeen (p : Nat) (s : State) : State :=
  let s1 := modPort p (fun x => { x with hbAt := some (nowT s) }) s
  match portBind s p with
  | some (b, k) => slotHeard b k s1
  | none => s1

/-- Counts the FEC and CRC results of a flit; one that fails is discarded, a DATA or CTRL flit answered with a NAK for the
next position, and a window limit retrains (R270, R298 to R300). -/
def badFlit (p typ : Nat) (uncorr : Bool) (s : State) : State :=
  let lim := portLim s p
  let s1 := modPort p (fun x => { x with
    err := { x.err with
      fecUncorr := if uncorr then satAdd 32 x.err.fecUncorr 1 else x.err.fecUncorr,
      crc := if uncorr then x.err.crc else satAdd 32 x.err.crc 1 },
    wUncorr := if uncorr then min (fldW lim 31 24) (x.wUncorr + 1) else x.wUncorr,
    wCrc := if uncorr then x.wCrc else min (fldW lim 23 16) (x.wCrc + 1) }) s
  let x := portRec s1 p
  let s2 := if x.st = .opened ∧ (typ = 1 ∨ typ = 2) then sendIdle p x.rxCtr true true 0 0 false s1 else s1
  if fldW lim 31 24 ≤ x.wUncorr ∨ fldW lim 23 16 ≤ x.wCrc then enterRetrain p 0x0F s2 else s2

/-- A flit arrives on port p: symbols corrected, whether a codeword was uncorrectable, the envelope, and the plaintext its
decryption yields. -/
def flitIn (p corrected : Nat) (uncorr : Bool) (env plain : List Byte) (s : State) : State :=
  let x := portRec s p
  let typ := fieldAt env 0 1 % 16
  if p < numPorts s ∧ env.length = 288 ∧ ¬ memb 7 s.boot.drained then
    let s1 := modPort p (fun x => { x with err := { x.err with fecCorr := satAdd 32 x.err.fecCorr corrected } }) s
    if uncorr ∨ fieldAt env 284 4 ≠ (crc32c (env.take 284)).toNat then badFlit p typ uncorr s1
    else if 4 ≤ typ ∨ ((typ = 1 ∨ typ = 2) ∧ x.st ≠ .opened) then
      modPort p (fun x => { x with err := { x.err with badType := satAdd 32 x.err.badType 1 } }) s1
    else
      let s2 := if bitOf (fieldAt env 280 4) 16 ∧ (x.st = .hedged ∨ x.st = .opened) then hbSeen p s1 else s1
      let s3 := if typ = 3 then (if x.st = .hedged then takeTrain p env s2 else s2)
        else if typ = 0 then s2
        else match portBind s2 p with
          | some (b, _) => takeFlit p b env plain s2
          | none => s2
      if (portRec s3 p).st = .opened then ackIn p env s3 else s3
  else s
/-- FLIT_RECEIVE (R268 to R280). -/
def execFlitReceive (p corrected : Nat) (uncorr : Bool) (env plain : List Byte) (s : State) : Answer :=
  iodClocked s <| .next (flitIn p corrected uncorr env plain s)

/-- RETRY_TIMEOUT: no acknowledgement for 8 µs (R272). -/
def execRetryTimeout (p : Nat) (s : State) : Answer :=
  iodClocked s <| .next (let x := portRec s p
    if x.st = .opened ∧ x.retry ≠ [] then
      resendFrom p 0 (modPort p (fun x => { x with err := { x.err with replayTo := satAdd 32 x.err.replayTo 1 } }) s)
    else s)
/-- WINDOW_RESTART: the window counts of a port restart (R299). -/
def execWindowRestart (p : Nat) (s : State) : Answer :=
  iodClocked s <| .next (modPort p (fun x => { x with wUncorr := 0, wCrc := 0, wReplay := 0 }) s)

/-- The owner completed a control cycle within 100 µs and batches are applied (R280, R437). -/
def hbAllowed (s : State) : Bool :=
  (match s.cel.strobeTick with | some k => decide (s.tick ≤ k + 25000) | none => false) && !s.cel.applySilent
/-- HB_TIMER: hb in one envelope of every HEDGED or OPEN port; a diverted slot heartbeat where a slot has no OPEN port
(R280, R301). -/
def hbTick (s : State) : State :=
  if hbAllowed s then
    let s1 := forS ((List.range (numPorts s)).filter (fun p => decide ((portRec s p).st = .hedged) || portUp s p))
      (fun p s => sendIdle p (ackOf (portRec s p)).1 false (ackOf (portRec s p)).2 0 0 true s) s
    forS (allSlots s1) (fun x s =>
      if (openPorts s x.1 x.2).isEmpty then
        match slotPorts s x.1 x.2 with
        | p :: _ =>
          handOver x.1 x.2 (envClose (envHead 0 0 0 false false 0 0 0 false false ++ zeros 272) 0x10000) (countDivert p 1 s)
        | [] => s
      else s) s1
  else s
/-- HB_TIMER. -/
def execHbTimer (s : State) : Answer := iodClocked s <| .next (hbTick s)

/-! ## Bring-up (R281 to R286) -/

/-- LIGHT_LOST on a lane (R281). -/
def execLightLost (p : Nat) (s : State) : Answer :=
  iodClocked s <| .next (if memb (portCode (portRec s p).st) [0, 1, 8] then s else leavePort p .dark 0x01 s)
/-- LIGHT_STABLE: light on all 8 lanes for 1 ms. -/
def execLightStable (p : Nat) (s : State) : Answer :=
  iodClocked s <| .next (if (portRec s p).st = .dark then modPort p (fun x => { x with st := .identify }) s else s)

/-- The memo link entry of a peer and circuit (R285). -/
def memoFind (s : State) (peer circuit : Nat) : Option MemoLink :=
  s.vnl.memoLinks.find? (fun e => decide (e.peer = peer) && decide (e.circuit = circuit))
def memoWithout (s : State) (peer circuit : Nat) : List MemoLink :=
  s.vnl.memoLinks.filter (fun e => decide (e.peer ≠ peer) || decide (e.circuit ≠ circuit))

/-- The IDENTIFY exchange answered (R281): disagreement stays, agreement goes on to EQUALIZE with the memo's entry. -/
def identified (p peer peerPort circuit : Nat) (s : State) : State :=
  let w := cset s .vnlPort p 0
  if fldW w 19 0 ≠ 0 ∧ fldW w 19 0 ≠ peer then modPort p (fun x => { x with reason := 0x03 }) s
  else if circuit ≠ portCircuit s p then modPort p (fun x => { x with reason := 0x04 }) s
  else
    let hit := memoFind s peer circuit
    modVnl (fun v => { v with
        memoLinks := match hit with | some e => e :: memoWithout s peer circuit | none => v.memoLinks,
        memoHits := if hit.isSome then satAdd 32 v.memoHits 1 else v.memoHits,
        memoMisses := if hit.isSome then v.memoMisses else satAdd 32 v.memoMisses 1 })
      (modPort p (fun x => { x with st := .equalize, peer := peer, peerPort := peerPort, memoHit := hit.isSome }) s)
/-- IDENTIFY: the peer's module ID, port and circuit have been exchanged. -/
def execPortIdentify (p peer peerPort circuit : Nat) (s : State) : Answer :=
  iodClocked s <| .next (if (portRec s p).st = .identify then identified p (peer % 2 ^ 20) (peerPort % 16) circuit s else s)
/-- IDENTIFY_RETRY, every 100 ms after a disagreement. -/
def execIdentifyRetry (p peer peerPort circuit : Nat) (s : State) : Answer :=
  iodClocked s <| .next (if (portRec s p).st = .identify ∧ memb (portRec s p).reason [3, 4] then
      identified p (peer % 2 ^ 20) (peerPort % 16) circuit s
    else s)
/-- IDENT_TIMEOUT: no answer within 10 ms. -/
def execIdentTimeout (p : Nat) (s : State) : Answer :=
  iodClocked s <| .next (if (portRec s p).st = .identify then leavePort p .dark 0x02 s else s)

/-- EQUALIZE_DONE with the result and, when the lanes adapted, their coefficients (R281, R286). -/
def equalized (p : Nat) (ok : Bool) (coef : Nat) (s : State) : State :=
  let x := portRec s p
  let c := portCircuit s p
  if x.st ≠ .equalize then s
  else if x.memoHit then
    if ok then modPort p (fun x => { x with st := .align, eqFails := 0 }) s
    else modVnl (fun v => { v with memoLinks := memoWithout s x.peer c }) (modPort p (fun x => { x with memoHit := false }) s)
  else if ok then
    let old := memoFind s x.peer c
    modVnl (fun v => { v with
        memoLinks := (⟨x.peer, c, coef, p, x.peerPort, (old.map MemoLink.digest).getD 0⟩ :: memoWithout s x.peer c).take 1024 })
      (modPort p (fun x => { x with st := .align, eqFails := 0 }) s)
  else if 2 ≤ x.eqFails then leavePort p .fenced 0x05 (modPort p (fun x => { x with eqFails := 0 }) s)
  else modPort p (fun x => { x with st := .identify, reason := 0x05, eqFails := x.eqFails + 1 }) s
/-- EQUALIZE_DONE. -/
def execEqualizeDone (p : Nat) (ok : Bool) (coef : Nat) (s : State) : Answer := iodClocked s <| .next (equalized p ok coef s)
/-- ALIGN_DONE: HEDGED, and OPEN at once while the gate is still open after a failed retraining (DESIGN CHOICE, log 79);
a failure returns to EQUALIZE with no memo. -/
def execAlignDone (p : Nat) (ok : Bool) (s : State) : Answer :=
  iodClocked s <| .next (let x := portRec s p
    if x.st = .align then
      if ok then (if x.keys then reopenPort p (portEvt p 1 s) else enterHedged p s)
      else modPort p (fun x => { x with st := .equalize, memoHit := false, reason := 0x06 }) s
    else s)
/-- RETRAIN_DONE: OPEN if the gate is still open, HEDGED if it closed meanwhile, EQUALIZE with no memo on failure. -/
def execRetrainDone (p : Nat) (ok : Bool) (s : State) : Answer :=
  iodClocked s <| .next (let x := portRec s p
    if x.st = .retrain then
      if ok then (if x.keys then reopenPort p s else enterHedged p s)
      else modPort p (fun x => { x with st := .equalize, memoHit := false }) s
    else s)

/-- SLOT_LOST: a slot of a valid binding without an OPEN port for 10 ms (R302). -/
def execSlotLost (b k : Nat) (s : State) : Answer :=
  iodClocked s <| .next (if bindValid s b ∧ k < (bindSplitT s b).slots.length ∧ (openPorts s b k).isEmpty then
      faultOne 0x0D (bindTen s b) (noteT (bindTen s b) 0x0702 k 0 s)
    else s)

/-! ## The handshake (R296, R297) -/

/-- The handshake message of a code that a hedged port has at the head of what it received. -/
def trainHead (s : State) (p code : Nat) : Option (List Byte) :=
  let x := portRec s p
  if x.st = .hedged then
    match x.train with
    | m :: _ => if fieldAt m 0 1 = code ∧ x.shake.active then some m else none
    | [] => none
  else none
def dropTrain (p : Nat) (s : State) : State := modPort p (fun x => { x with train := x.train.drop 1 }) s
def modShake (p : Nat) (f : Shake → Shake) (s : State) : State := modPort p (fun x => { x with shake := f x.shake }) s
/-- An answer of the peer: the latest message of one of these codes is unanswered no more. -/
def answered (p : Nat) (codes : List Nat) (s : State) : State :=
  modShake p (fun h => if memb (fieldAt h.latest 0 1) codes then { h with latest := [] } else h) s
/-- Sends the module's certificate chain (code 0x02). -/
def sendCert (p : Nat) (s : State) : State := hsSend p (leB 1 2 ++ zeros 1 ++ Config.certChain) s

/-- An attempt ends by a rejection; a new HELLO follows (R296). -/
def attemptEnds (p reason : Nat) (s : State) : State :=
  modPort p (fun x => { x with reason := reason, shake := { dead := true } }) s

/-- HELLO from the peer: its parcel, challenge and chain digest; a digest the memo holds needs no certificates (R286, log
77), and the token is asked for or refused with a WAIT. -/
def takeHello (p : Nat) (m : List Byte) (s : State) : State :=
  let x := portRec s p
  let h := (fieldAt m 2 2, fieldAt m 4 16, fieldAt m 20 48)
  let new := decide (x.shake.peerHello ≠ some h)
  let known := match memoFind s x.peer (portCircuit s p) with | some e => decide (e.digest = h.2.2) | none => false
  let s1 := modShake p (fun y => if new then
      { y with peerHello := some h, issued := false, signing := false, peerTok := [], verifying := false, verified := false,
               peerOk := false, chain := known }
    else y) s
  if new then (if known then askToken p s1 else sendCert p s1) else s1
/-- HELLO. -/
def execHsHello (p : Nat) (s : State) : Answer :=
  iodClocked s <| .next (match trainHead s p 1 with | some m => takeHello p m (dropTrain p s) | none => s)

/-- Some length of the received bytes has the digest (the chain carries no length of its own). -/
def chainIs (bs : List Byte) (digest : Nat) : Bool :=
  (List.range (bs.length + 1)).any (fun n => decide ((Config.sha384 (bs.take n)).toNat = digest))
/-- A peer token goes to the Cave for verification once its chain is known. -/
def startVerify (p : Nat) (s : State) : State :=
  let x := portRec s p
  if x.shake.chain ∧ x.shake.peerTok ≠ [] ∧ ¬ caveDown s then modShake p (fun h => { h with verifying := true }) s else s
/-- CERT from the peer: the chain of its HELLO digest, kept in the memo; the own chain follows if it has not been sent. -/
def takeCert (p : Nat) (m : List Byte) (s : State) : State :=
  let x := portRec s p
  match x.shake.peerHello with
  | none => s
  | some h =>
    if chainIs (m.drop 2) h.2.2 then
      let s1 := modVnl (fun v => { v with memoLinks := v.memoLinks.map (fun e =>
        if e.peer = x.peer ∧ e.circuit = portCircuit s p then { e with digest := h.2.2 } else e) }) (answered p [1, 2] s)
      let s2 := if x.shake.chain then sendCert p s1 else s1
      startVerify p (askToken p (modShake p (fun y => { y with chain := true }) s2))
    else attemptEnds p 0x0A (hsSend p (leB 1 4 ++ zeros 1 ++ leB 1 0x0A) s)
/-- CERT. -/
def execHsCert (p : Nat) (s : State) : Answer :=
  iodClocked s <| .next (match trainHead s p 2 with | some m => takeCert p m (dropTrain p s) | none => s)

/-- Bytes 0 to 63 of the hedge token (Table 07.6). -/
def tokenBody (s : State) (p b : Nat) : List Byte :=
  let x := portRec s p
  leB 1 1 ++ leB 1 1 ++ leB 2 (bindParcel s b) ++ leB 3 s.moduleId ++ leB 1 p ++ leB 3 x.peer ++ leB 1 x.peerPort
    ++ leB 4 (portCircuit s p) ++ leB 8 s.tim.s ++ leB 4 60 ++ leB 16 ((x.shake.peerHello.map (fun h => h.2.1)).getD 0) ++ zeros 20
/-- TOKEN_SIGN_DONE: the Cave has signed the token of a port (R295, R297). -/
def tokenSigned (p : Nat) (s : State) : State :=
  let x := portRec s p
  if x.st = .hedged ∧ x.shake.signing then
    match cannotIssue s p, portBind s p with
    | none, some (b, _) =>
      let body := tokenBody s p b
      tryOpen p (hsSend p (leB 1 3 ++ zeros 1 ++ body ++ leB 96 (Config.sign (Config.sha384 body)).toNat)
        (modShake p (fun h => { h with signing := false, issued := true }) s))
    | _, _ => askToken p (modShake p (fun h => { h with signing := false }) s)
  else s
/-- TOKEN_SIGN_DONE. -/
def execTokenSignDone (p : Nat) (s : State) : Answer := iodClocked s <| .next (tokenSigned p s)

/-- TOKEN from the peer (R297). -/
def execHsToken (p : Nat) (s : State) : Answer :=
  iodClocked s <| .next (match trainHead s p 3 with
    | some m => startVerify p (modShake p (fun h => { h with peerTok := (m.drop 2).take 160 }) (answered p [1, 2] (dropTrain p s)))
    | none => s)

/-- The verdict on a peer token: a reason of Table 07.7, 0 to accept (R293, R297, R567). -/
def tokenVerdict (s : State) (p : Nat) : Nat :=
  let x := portRec s p
  let t := x.shake.peerTok
  let digest := (x.shake.peerHello.map (fun h => h.2.2)).getD 0
  if ¬ Config.verify digest (t.take 64) (t.drop 64) ∨ Config.certLife digest ≠ lifeCode s.sec.life ∨ fieldAt t 0 1 ≠ 1
      ∨ fieldAt t 28 16 ≠ x.shake.challenge ∨ fieldAt t 4 3 ≠ x.peer ∨ fieldAt t 7 1 ≠ x.peerPort ∨ fieldAt t 8 3 ≠ s.moduleId
      ∨ fieldAt t 11 1 ≠ p ∨ fieldAt t 12 4 ≠ portCircuit s p then 0x0A
  else if tokenExpired s p then 0x0B
  else
    match portBind s p with
    | none => 0x07
    | some (b, _) =>
      if ¬ tenActive s (bindTen s b) then 0x07
      else if fieldAt t 2 2 ≠ bindParcel s b then 0x08
      else if ¬ gateLocal s p then 0x09
      else if bitOf (fieldAt t 1 1) 0 then 0 else 0x0C
/-- TOKEN_VERIFY_DONE: the Cave has verified the peer's token; the VERDICT goes out, and a rejection ends the attempt. -/
def tokenVerified (p : Nat) (s : State) : State :=
  let x := portRec s p
  if x.st = .hedged ∧ x.shake.verifying then
    let v := tokenVerdict s p
    let s1 := hsSend p (leB 1 4 ++ zeros 1 ++ leB 1 v) (modShake p (fun h => { h with verifying := false }) s)
    if v = 0 then tryOpen p (modShake p (fun h => { h with verified := true }) s1) else attemptEnds p v s1
  else s
/-- TOKEN_VERIFY_DONE. -/
def execTokenVerifyDone (p : Nat) (s : State) : Answer := iodClocked s <| .next (tokenVerified p s)

/-- VERDICT from the peer (R293, R296); the peer's token may have expired before it (Table 07.13). -/
def execHsVerdict (p : Nat) (s : State) : Answer :=
  iodClocked s <| .next (match trainHead s p 4 with
    | some m =>
      let s1 := answered p [3] (dropTrain p s)
      let v := fieldAt m 2 1
      if v ≠ 0 then attemptEnds p v s1
      else if (portRec s1 p).shake.verified ∧ tokenExpired s1 p then attemptEnds p 0x0B s1
      else tryOpen p (modShake p (fun h => { h with peerOk := true }) s1)
    | none => s)
/-- WAIT from the peer: an answer (R296). -/
def execHsWait (p : Nat) (s : State) : Answer :=
  iodClocked s <| .next (match trainHead s p 5 with | some _ => answered p [1, 2, 3] (dropTrain p s) | none => s)

/-- HANDSHAKE_RESEND: the latest unanswered message again; an end that waits to issue a token looks again first (R296). -/
def execHandshakeResend (p : Nat) (s : State) : Answer :=
  iodClocked s <| .next (let x := portRec s p
    if x.st = .hedged ∧ x.shake.active then
      if x.shake.waiting.isSome then askToken p s
      else if x.shake.latest = [] then s else sendTrain p x.shake.latest s
    else s)
/-- HANDSHAKE_TIMEOUT: no answer for 10 s (R296). -/
def execHandshakeTimeout (p : Nat) (s : State) : Answer :=
  iodClocked s <| .next (if (portRec s p).st = .hedged ∧ (portRec s p).shake.active then attemptEnds p 0x0D s else s)
/-- HANDSHAKE_RESTART: a new HELLO with a new challenge (R296). -/
def execHandshakeRestart (p : Nat) (s : State) : Answer :=
  iodClocked s <| .next (if (portRec s p).st = .hedged ∧ (portRec s p).shake.dead then hsHelloStart p s else s)

/-! ## Margins (R303, R304) -/

/-- The slot of a port is marked global in its table. -/
def globalPort (s : State) (p : Nat) : Bool :=
  match portBind s p with
  | some (b, k) => match (bindSplitT s b).slots[k]? with | some e => e.glob | none => false
  | none => false
/-- A 16-bit two's complement value. -/
def sgn16 (x : Nat) : Int := if x % 65536 < 32768 then x % 65536 else (x % 65536 : Nat) - 65536
/-- Least of the measured powers and least of the eyes. -/
def marginMin (l : List (Nat × Nat × Nat)) (pw eye : Nat) : Nat × Nat :=
  l.foldl (fun a q => (if sgn16 q.2.1 < sgn16 a.1 then q.2.1 else a.1, min q.2.2 a.2)) (pw, eye)
/-- MARGIN_MEASURE: a measurement of the power (0.1 dBm, two's complement) and eye (%) of a lane; what is reported is the minimum over
the last second. -/
def marginIn (p lane pw eye : Nat) (s : State) : State :=
  let x := portRec s p
  if (globalPort s p ∧ (x.st = .opened ∨ x.st = .retrain)) ∨ x.st = .equalize then
    let thr := cset s .vnlPort p 3
    let old := (Map.get [] x.measured (lane % 8)).filter (fun q => decide (s.tick < q.1 + 250000000))
    let s1 := modPort p (fun x => { x with
      measured := Map.put x.measured (lane % 8) (old ++ [(s.tick, pw % 65536, eye % 256)]),
      margins := Map.put x.margins (lane % 8) (marginMin old (pw % 65536) (eye % 256)),
      marginAt := some s.tick }) s
    let low := decide (sgn16 pw < sgn16 (fldW thr 31 16)) || decide (eye % 256 < fldW thr 15 8)
    let due := match x.lowAt with | some k => decide (k + 250000000 ≤ s.tick) | none => true
    if low && due then
      let s2 := upEvent 7 0 6 [] p (lane % 8) (wiltJoin 1 p (modPort p (fun x => { x with lowAt := some s.tick }) s1))
      match portBind s p with
      | some (b, _) => noteT (bindTen s b) 0x0704 p (lane % 8) s2
      | none => record 0x0704 p (lane % 8) s2
    else s1
  else s
/-- MARGIN_MEASURE. -/
def execMarginMeasure (p lane pw eye : Nat) (s : State) : Answer := iodClocked s <| .next (marginIn p lane pw eye s)

/-! ## Direct writes (Table 07.11) -/

/-- VNL_ERR_CLR: every total of the port (R298). -/
def execVnlErrClr (acc : Acc) (p : Nat) (s : State) : Answer :=
  .next (if blockOpen s acc 7 ∧ p < numPorts s then modPort p (fun x => { x with err := {} }) s else s)
/-- VNL_MEMO_CLR [0]: the link entries (R285). -/
def execVnlMemoClrLinks (acc : Acc) (s : State) : Answer :=
  .next (if blockOpen s acc 7 then modVnl (fun v => { v with memoLinks := [] }) s else s)
/-- VNL_MEMO_CLR [1]: the route entries. -/
def execVnlMemoClrRoutes (acc : Acc) (s : State) : Answer :=
  .next (if blockOpen s acc 7 then modVnl (fun v => { v with memoRoutes := [] }) s else s)

end Sys2Proof.Machine
end

