-- ==== Sys2Proof/Machine/CelSvc.lean ====
section
/-!
DEFINITION. Machine/CelSvc.lean: ownership events of the pair (R429 to R436), service frames received (R301, R438, R439, R449, R555),
the other protocols of the service port, timers of the owner (R439, R444, R449, R629).
-/
namespace Sys2Proof.Machine

/-! ## The pair (R429 to R436) -/

/-- SWITCHOVER: ignored while the standby is not SYNCED (R430). -/
def execSwitchover (acc : Acc) (s : State) : Answer :=
  .next (if blockOpen s acc 11 ∧ s.cel.own ≠ 2 ∧ synced s then modCel (fun c => { c with switchReq := true }) s else s)
/-- RESTART_STANDBY (R432). -/
def execRestartStandby (acc : Acc) (s : State) : Answer := .next (if blockOpen s acc 11 then restartStandby s else s)

/-- One path of the standby's owner, or of the owner's standby, is silent; the other is heard: PAIR_ALARM (R434, R436). -/
def pairAlarm (owner ka : Bool) (s : State) : State := record 0x0B01 0 (1 + b2n ka + 4 * b2n owner) s
/-- The standby finds a path silent (R434, R435). -/
def ownerSilent (ka : Bool) (s : State) : State :=
  match standbyDie s with
  | none => s
  | some d =>
    let both := if ka then s.cel.linkSilent else s.cel.kaSilent
    let again := if ka then s.cel.kaSilent else s.cel.linkSilent
    if both then (if dieState s d = 4 then hotTakeover d s else coldTakeover d s)
    else if again then s
    else pairAlarm false ka (modCel (fun c => if ka then { c with kaSilent := true } else { c with linkSilent := true }) s)
/-- The owner finds a path silent (R436). -/
def standbySilent (ka : Bool) (s : State) : State :=
  if s.cel.own = 2 ∨ standbyDie s = none then s
  else
    let both := if ka then s.cel.ownLinkSilent else s.cel.ownKaSilent
    let again := if ka then s.cel.ownKaSilent else s.cel.ownLinkSilent
    let s1 := modCel (fun c => if ka then { c with ownKaSilent := true } else { c with ownLinkSilent := true }) s
    if both then standbyLost s1 else if again then s else pairAlarm true ka s1
/-- PATH_SILENCE for 60 µs, as the owner or as the standby watches, of KEEPALIVE or of the private link. -/
def execPathSilence (owner ka : Bool) (s : State) : Answer :=
  clocked s (.next (if owner then standbySilent ka s else ownerSilent ka s))
/-- KEEPALIVE_EDGE at the owner or at the standby: that path is heard (R433). -/
def execKeepaliveEdge (owner : Bool) (s : State) : Answer :=
  clocked s (.next (modCel (fun c => if owner then { c with ownKaSilent := false } else { c with kaSilent := false, kaAt := nowT s }) s))
/-- STANDBY_CYCLE: it keeps the standby's KEEPALIVE timer running, and changes nothing else (R433). -/
def execStandbyCycle (s : State) : Answer := clocked s (.next s)

/-- WATCHDOG_EXPIRY of the owner (R430). -/
def execWatchdogExpiry (s : State) : Answer := clocked s (.next (faultRelease s))
/-- CELLARER_UE in the owner (R430). -/
def execCellarerUe (s : State) : Answer := clocked s (.next (faultRelease s))
/-- OWN_GRANT 2 µs after the old owner's enables went (R429): what waited for an owner of the firmware NOR bus goes on (R22). -/
def execOwnGrant (s : State) : Answer :=
  clocked s (.next (match s.cel.gapTo with
    | some d => runUpdWait (modCel (fun c => { c with own := d, gapTo := none }) s)
    | none => s))
/-- OWN_DEFAULT_TIMEOUT: CA has not requested ownership in 500 ms (R431). -/
def execOwnDefaultTimeout (s : State) : Answer :=
  clocked s (.next (if s.cel.own = 0 ∧ ¬ s.cel.requested then modCel (fun c => { c with requested := true, own := 2, gapTo := some 1 }) s else s))
/-- STANDBY_BOOT_DONE: a die that leaves BOOT as standby enters SYNCING (R432). -/
def execStandbyBootDone (s : State) : Answer :=
  clocked s (.next (match [0, 1].find? (fun d => decide (dieState s d = 1) && decide (dieState s (1 - d) = 5)) with
    | some d => allHeard (setDie d 3 s)
    | none => s))
/-- STANDBY_SYNC_DONE (R432): the copy is current, the image of this cycle with it. -/
def execStandbySyncDone (s : State) : Answer :=
  clocked s (.next (match [0, 1].find? (fun d => decide (dieState s d = 3)) with
    | some d =>
      record 0x0B03 0 0 (allHeard (modCel (fun c => { c with solo := false, stale := none, imageGot := true, imageAcked := true }) (setDie d 4 s)))
    | none => s))

/-! ## Service frames in (R301, R438, R439, R555) -/

/-- The ciphertext and tag of a frame are those of the body under a key the Cave holds. -/
def frameAuth (s : State) (b body : List Byte) : Bool :=
  let iv := svcIv (fieldAt b 4 3) (fieldAt b 7 1 % 2) (fieldAt b 8 8)
  let ok := fun k => decide (b.drop 24 = gcm k iv (b.take 24) body)
  (match s.sec.svcKey with | some k => ok k | none => false) || (match s.sec.svcPrev with | some k => ok k | none => false)
/-- A frame of a kind that the owner takes: authentic, and of a sequence number not seen from its sender. -/
def frameOk (s : State) (kind : Nat) (b body : List Byte) : Bool :=
  decide (s.cel.own ≠ 2) && !caveDown s && decide (fieldAt b 0 1 = 1) && decide (fieldAt b 1 1 = kind) && decide (fieldAt b 2 2 = body.length)
    && frameAuth s b body && !memb (fieldAt b 8 8) (Map.get [] s.pol.seen (fieldAt b 4 3))
/-- Marks a frame's sequence number as seen. -/
def sawFrame (b : List Byte) (s : State) : State :=
  modPol (fun p => { p with seen := Map.upd [] p.seen (fieldAt b 4 3) (fun l => addOnce (fieldAt b 8 8) l) }) s

/-- A HEARTBEAT of a module (R439, R449): its service path is heard; only a module with an entry is judged and listed by it. -/
def takeHeartbeat (m : Nat) (body : List Byte) (s : State) : State :=
  match svcOf s m with
  | none => s
  | some e =>
    let w := bitOf (fieldAt body 0 1) 1
    let s1 := judgePeer m (modPeer e (fun x => { x with svcSilent := false, heard := true, hbAt := some (nowT s), wilting := w }) s)
    if w then wiltJoin 3 m s1 else wiltLeave 3 m s1
/-- HEARTBEAT: the frame's UDP payload and the body its decryption yields. -/
def execSvcHeartbeat (frame body : List Byte) (s : State) : Answer :=
  clocked s (.next (if frameOk s 1 frame body ∧ body.length = 16 then takeHeartbeat (fieldAt frame 4 3) body (sawFrame frame s) else s))
/-- NOTICE: it waits for policy firmware. -/
def execSvcNotice (frame body : List Byte) (s : State) : Answer :=
  clocked s (.next (if frameOk s 2 frame body then
      modPol (fun p => { p with notices := p.notices ++ [(fieldAt frame 4 3, body)] }) (sawFrame frame s)
    else s))

/-- A diverted control flit for port p: accepted by its counter once, at most 64 ahead of the link, and its content joins the diverted
message (R301). -/
def takeDiverted (p b : Nat) (env plain : List Byte) (s : State) : State :=
  let x := portRec s p
  let off := (fieldAt env 4 2 % 4096 + 4096 - x.rxCtr % 4096) % 4096
  let ctr := x.rxCtr + off
  if 2048 ≤ off ∨ memb ctr x.diverted ∨ 64 ≤ x.diverted.length then s
  else if flitAuth (rxKey s p (ctr / 2 ^ 32)) x.peer x.peerPort ctr env plain then
    let m := (if bitOf (fieldAt env 1 1) 0 then [] else x.divPart) ++ plain
    let s1 := modPort p (fun x => { x with diverted := x.diverted ++ [ctr] }) s
    if bitOf (fieldAt env 1 1) 1 then arrive b 0 (fieldAt env 2 2) m (modPort p (fun x => { x with divPart := [] }) s1)
    else modPort p (fun x => { x with divPart := m }) s1
  else s
/-- One envelope of a DIVERT frame for a slot: a slot heartbeat, or a control flit of one of its ports. -/
def takeEnvelope (b k : Nat) (env plain : List Byte) (s : State) : State :=
  if env.length ≠ 288 ∨ fieldAt env 284 4 ≠ (crc32c (env.take 284)).toNat then s
  else
    let s1 := if bitOf (fieldAt env 280 4) 16 then slotHeard b k s else s
    if fieldAt env 0 1 % 16 = 2 ∨ (fieldAt env 0 1 % 16 = 1 ∧ bitsOf (fieldAt env 0 1) 5 4 = 0) then
      match (slotPorts s b k).find? (fun p =>
        let x := portRec s p
        let ctr := x.rxCtr + (fieldAt env 4 2 % 4096 + 4096 - x.rxCtr % 4096) % 4096
        x.keys && flitAuth (rxKey s p (ctr / 2 ^ 32)) x.peer x.peerPort ctr env plain) with
      | some p => takeDiverted p b env plain s1
      | none => s1
    else s1
/-- A DIVERT frame: the slot of the binding with its parcel that leads to the sender. -/
def takeDivert (m : Nat) (body : List Byte) (plains : List (List Byte)) (s : State) : State :=
  match (allSlots s).find? (fun x => decide (bindParcel s x.1 = fieldAt body 0 2) && decide (nbrMod s x.1 x.2 = some m)) with
  | none => s
  | some x =>
    forS (List.range (min 4 (fieldAt body 3 1))) (fun i => takeEnvelope x.1 x.2 ((body.drop (4 + 288 * i)).take 288) (plains.getD i [])) s
/-- DIVERT: the frame, its body, and the plaintexts its flits' decryption yields. -/
def execSvcDivert (frame body : List Byte) (plains : List (List Byte)) (s : State) : Answer :=
  clocked s (.next (if frameOk s 3 frame body then takeDivert (fieldAt frame 4 3) body plains (sawFrame frame s) else s))

/-! ## The other protocols of the service port (R438, R521) -/

/-- The module's own address (CEL_SELF_ADDR). -/
def selfAddr (s : State) : Nat := ((List.range 4).map (fun i => (cset s .cel 0 (i + 1)).toNat * 2 ^ (32 * i))).sum
/-- The service port answers a request for an address that is its own. -/
def svcAnswer (proto src target : Nat) (bytes : List Byte) (s : State) : State :=
  if s.cel.own ≠ 2 ∧ target = selfAddr s ∧ target ≠ 0 then emit (.svc proto src bytes) s else s
/-- ARP_REQUEST from an address for an IPv4 address, which has the form ::ffff:a.b.c.d in the registers; the reply carries the port's
own MAC address. -/
def execArpRequest (src target : Nat) (s : State) : Answer :=
  clocked s (.next (svcAnswer 2 src (0xFFFF * 2 ^ 32 + target % 2 ^ 32) (leB 6 Config.svcMac.toNat ++ leB 4 target) s))
/-- NEIGHBOR_SOLICITATION from an address for an IPv6 address. -/
def execNeighborSolicitation (src target : Nat) (s : State) : Answer :=
  clocked s (.next (svcAnswer 3 src (target % 2 ^ 128) (leB 6 Config.svcMac.toNat ++ leB 16 target) s))
/-- ICMP_ECHO: the reply returns the request's data. -/
def execIcmpEcho (src target : Nat) (data : List Byte) (s : State) : Answer := clocked s (.next (svcAnswer 4 src (target % 2 ^ 128) data s))
/-- NTP_RESPONSE: the reply and the time it came at wait for policy firmware. -/
def execNtpResponse (bytes : List Byte) (s : State) : Answer :=
  clocked s (.next (if s.cel.own = 2 then s else modPol (fun p => { p with ntpIn := some (nowT s, bytes) }) s))

/-! ## Timers of the owner (R438, R439, R444, R449, R629) -/

/-- The body of a HEARTBEAT frame (Table 11.6). -/
def hbBody (s : State) : List Byte :=
  let bad := s.pol.peers.any (fun e => decide (e.2.verdict = 2) || decide (e.2.verdict = 4))
  let wilt := s.pol.wilts.any (fun w => decide (w.kind ≠ 3))
  leB 1 (b2n bad + 2 * b2n wilt + 4 * b2n (synced s) + 8 * b2n (bitW s.pln.retire 31)) ++ zeros 3 ++ leB 8 s.cel.cycle ++ zeros 4
/-- SVC_HEARTBEAT_TIMER, every 1 ms: the frames join the staged outputs. -/
def execSvcHeartbeatTimer (s : State) : Answer :=
  clocked s (.next (if s.cel.own ≠ 2 ∧ bitW (cset s .cel 0 0) 31 then
      modCel (fun c => { c with staged := c.staged ++ [.frame 1 none none (hbBody s)] }) s
    else s))
/-- PEER_LINK_SILENCE of slot k of a binding: not heard for 500 µs. -/
def execPeerLinkSilence (b k : Nat) (s : State) : Answer := clocked s (.next (if memb k (((allSlots s).filter (fun x => decide (x.1 = b))).map Prod.snd) then slotGone b k s else s))
/-- PEER_SVC_SILENCE of an entry: no HEARTBEAT for 5 ms. -/
def execPeerSvcSilence (e : Nat) (s : State) : Answer :=
  clocked s (.next (if e < 32 ∧ svcNames s e then judgePeer (fldW (svcWord s e) 19 0) (modPeer e (fun x => { x with svcSilent := true }) s) else s))
/-- PORT_TIMER_EXPIRY: TIMER to the port's machine. -/
def execPortTimerExpiry (p : Nat) (s : State) : Answer :=
  clocked s (.next (if memb p s.pol.timers then portEvt p 4 (modPol (fun x => { x with timers := without p x.timers }) s) else s))
/-- WILT_MARGIN_CLEAR of a port (Table 11.14). -/
def execWiltMarginClear (p : Nat) (s : State) : Answer := clocked s (.next (wiltLeave 1 p s))
/-- HOURS_PERSIST: the operating-hours count reaches the retention array at the owner's next commit (R601, R629). -/
def execHoursPersist (s : State) : Answer :=
  clocked s (.next (if s.cel.own = 2 then s else modBook (fun b => { b with hoursDue := true }) s))

end Sys2Proof.Machine
end

