-- ==== Sys2Proof/Machine/Dma.lean ====
section
/-!
DEFINITION. Machine/Dma.lean: the flow opcodes NOP and FENCE (R80, R81), the DMA opcodes (R109 to R112, R361, R458, R465,
R692, R694), and the handle opcodes (R113 to R117).
-/
namespace Sys2Proof.Machine

/-! ## NOP and FENCE -/

/-- NOP: starts and completes. -/
def execNop (tag : Nat) (s : State) : Answer := .next (startDesc tag 0x00 (done tag stOK 0 0) s)

/-- A submission ring of the tenant that is enabled (R80). -/
def fenceRingOk (s : State) (r : Nat) : Bool :=
  bitW (ringCfg s r) 31 && decide (ringType s r = 0) && decide ((ringRec s r).st ≠ .disabled)
/-- What a FENCE waits for, taken at its start (R81): the live descriptors of wait_ring fetched at a count below wait_count (itself
too, log 24), and the entries from the fetched count up to wait_count when that is ahead. -/
def fenceWait (s : State) (l : Live) (r wait : Nat) : Live :=
  let f := (ringRec s r).fetched
  let behind := decide (sub32 wait f = 0) || decide (2 ^ 31 < sub32 wait f)
  { l with
    gen := (ringRec s r).gen, more := if behind then 0 else sub32 wait f,
    waits := ((s.hif.live.filter (fun e => decide (e.2.ring = r) && unfinished e.2
      && (!behind || decide (sub32 f wait < sub32 f e.2.count)))).map (fun e => e.2.count)) }
/-- Something a FENCE waits for is not over (R81): a descriptor has not completed, or an entry has not been fetched and wait_ring has not left
ACTIVE. Once wait_ring has been enabled again nothing of before is. -/
def fencePending (s : State) (l : Live) (r : Nat) : Bool :=
  let x := ringRec s r
  decide (x.gen = l.gen)
  && ((decide (l.more ≠ 0) && (decide (x.st = .active) || !x.reads.isEmpty))
    || s.hif.live.any (fun e => decide (e.2.ring = r) && memb e.2.count l.waits && unfinished e.2))
/-- The ring a FENCE waits on. -/
def fenceRing (l : Live) : Nat := ringTen l.ring * 256 + fieldAt l.desc 16 1
/-- Completes a FENCE whose wait is over. -/
def fenceTry (tag : Nat) (s : State) : State :=
  match liveRec s tag with
  | none => s
  | some l =>
    if ¬ bitOf (fieldAt l.desc 17 1) 0 then
      if s.hif.live.any (fun e => earlier s e.2 l && unfinished e.2) then s else done tag stOK 0 0 s
    else if fencePending s l (fenceRing l) then s
    else done tag stOK 0 0 s
/-- The checks of a FENCE at its start (R80, R81). -/
def fenceStart (tag : Nat) (s : State) : State :=
  match liveRec s tag with
  | none => s
  | some l =>
    let r := fenceRing l
    if ¬ bitOf (fieldAt l.desc 17 1) 0 then fenceTry tag s
    else if ¬ fenceRingOk s r then done tag stBAD_FIELD 16 0 s
    else if sub32 (fieldAt l.desc 20 4) (ringRec s r).fetched = 2 ^ 31 then done tag stBAD_FIELD 20 0 s
    else fenceTry tag (modLive tag (fun l => fenceWait s l r (fieldAt l.desc 20 4)) s)
/-- A started descriptor of an opcode that still executes. -/
def runningOp (s : State) (tag op : Nat) : Bool :=
  match liveRec s tag with
  | some l => decide (l.stage = .running) && decide (opcodeOf l.desc = op)
  | none => false
/-- FENCE: its start, and again once what it waits for may have completed. -/
def execFence (tag : Nat) (s : State) : Answer :=
  .next (if runningOp s tag 0x01 ∧ nclkOn s then fenceTry tag s else startDesc tag 0x01 (fenceStart tag) s)

/-! ## DMA (Table 03.3) -/

def dmaH (d : List Byte) : Nat := fieldAt d 16 3
def dmaOff (d : List Byte) : Nat := fieldAt d 20 6
def dmaLen (d : List Byte) : Nat := fieldAt d 28 4
def dmaAddr (d : List Byte) : Nat := fieldAt d 32 8
def dmaSrc (d : List Byte) : Nat := fieldAt d 32 3
def dmaSrcOff (d : List Byte) : Nat := fieldAt d 40 6

/-- The first failing check of R111, as (status, detail). -/
def dmaFault (s : State) (t op : Nat) (d : List Byte) : Option (Nat × Nat) :=
  let n := dmaLen d
  if n = 0 ∨ 2 ^ 30 < n then some (stBAD_FIELD, 28)
  else if ¬ hndOk s t (dmaH d) then some (stBAD_HANDLE, 0)
  else if op = 0x12 ∧ ¬ hndOk s t (dmaSrc d) then some (stBAD_HANDLE, 0)
  else if hndSize s (dmaH d) < dmaOff d + n then some (0x0100, 20)
  else if op = 0x12 ∧ hndSize s (dmaSrc d) < dmaSrcOff d + n then some (0x0100, 40)
  else if op = 0x12 ∧ dmaH d = dmaSrc d ∧ dmaOff d < dmaSrcOff d + n ∧ dmaSrcOff d < dmaOff d + n then some (0x0101, 0)
  else none

/-- Byte ranges of handles a DMA touches. -/
def dmaRanges (op : Nat) (d : List Byte) : List (Nat × Nat × Nat) :=
  (dmaH d, dmaOff d, dmaLen d) :: if op = 0x12 then [(dmaSrc d, dmaSrcOff d, dmaLen d)] else []
/-- What a DMA must wait for: promotions (R123), and what holds T0 where it touches it (R137, R458, R487). -/
def dmaBlocked (s : State) (op : Nat) (d : List Byte) : Bool :=
  (dmaRanges op d).any (fun q => touchesT2 s q.1 q.2.1 q.2.2 || rangeHeld s q.1 q.2.1 q.2.2)

/-- A partial line of a handle is written by read-modify-write now, not through the press buffer (R130, R132, R133). -/
def rmwNow (s : State) (h off : Nat) : Bool :=
  match pageRec s h (pageIdx off), hndRec s h with
  | some x, some y => if x.tier ≠ 0 then true else
      decide (tqPress s y.tenant = 0) || decide (32768 ≤ (s.pln.press.filter (fun l => decide (l.stack = x.stack))).length)
  | _, _ => false
/-- Poisoned blocks whose partial lines a write of a range reads (R466), as byte offsets in the handle. -/
def rmwPoison (s : State) (h off n : Nat) : List Nat :=
  ((if off % 64 ≠ 0 ∧ rmwNow s h off then poisonedIn s h off 1 else [])
    ++ (if (off + n) % 64 ≠ 0 ∧ rmwNow s h (off + n - 1) then poisonedIn s h (off + n - 1) 1 else []))
/-- Poisoned blocks a transfer reads on demand (R465), as (position in the transfer where the block starts, position after
it, handle, page). -/
def dmaPoison (s : State) (op : Nat) (d : List Byte) : List (Nat × Nat × Nat × Nat) :=
  let clip := fun (h base a : Nat) => (a - base, min (dmaLen d) (a + 4096 - base), h, a / 0x200000)
  (if op = 0x12 then (poisonedIn s (dmaSrc d) (dmaSrcOff d) (dmaLen d)).map (clip (dmaSrc d) (dmaSrcOff d))
    else if op = 0x11 then (poisonedIn s (dmaH d) (dmaOff d) (dmaLen d)).map (clip (dmaH d) (dmaOff d)) else [])
  ++ (if op = 0x11 then [] else (rmwPoison s (dmaH d) (dmaOff d) (dmaLen d)).map (clip (dmaH d) (dmaOff d)))
def firstPoison (l : List (Nat × Nat × Nat × Nat)) : Option (Nat × Nat × Nat × Nat) :=
  l.foldl (fun a x => match a with | none => some x | some y => if x.1 < y.1 then some x else a) none

/-- The bytes a DMA moves: those read from the host, the pattern of R110, or the source's. -/
def dmaBytes (s : State) (op : Nat) (d : List Byte) (buf : List Byte) : List Byte :=
  if op = 0x10 then buf
  else if op = 0x13 then
    let p := leB 8 (dmaAddr d)
    (List.range (dmaLen d)).map (fun i => p.getD ((dmaOff d + i) % 8) 0)
  else if op = 0x12 then hRead s (dmaSrc d) (dmaSrcOff d) (dmaLen d)
  else hRead s (dmaH d) (dmaOff d) (dmaLen d)

/-- The pages of a host range all grant writes (R691). -/
def hostRangeOk (s : State) (fn addr n : Nat) : Bool :=
  hostRange s fn addr n
/-- A host write of a tenant (R46, R112). -/
def toHost (t addr : Nat) (bs : List Byte) (s : State) : State :=
  if bs.isEmpty then s else emit (.hostWrite (tenFn s t) (tenPasid s t) addr bs) s
/-- Moves bytes at a position of the transfer to its destination. -/
def dmaPut (tag t op : Nat) (d : List Byte) (step : Option Nat) (pos : Nat) (bs : List Byte) (s : State) : State :=
  if bs.isEmpty then s
  else if op = 0x11 then toHost t (dmaAddr d + pos) bs s
  else hWrite tag t step (dmaH d) (dmaOff d + pos) bs s
/-- Bytes after the poisoned block that no poisoned block holds, as pieces (position, bytes) of one byte each. -/
def dmaAfter (bad : List (Nat × Nat × Nat × Nat)) (q : Nat) (bs : List Byte) : List (Nat × Byte) :=
  ((List.range bs.length).filter (fun i => decide (q ≤ i) && bad.all (fun x => decide (i < x.1) || decide (x.2.1 ≤ i)))).map
    (fun i => (i, bs.getD i 0))

/-- The result a running DMA will post once its writes are made. -/
def dmaEnds (tag status detail result : Nat) (s : State) : State :=
  modLive tag (fun l => { l with stage := .running, aux := 1, status := status, detail := detail, result := result }) s

/-- A DMA that consumes a poisoned block: the fault of R465; an unattached one keeps what R694 says, whether the bytes after
the block are written being open. An attached one ends with its step. -/
def dmaConsume (tag t op : Nat) (l : Live) (bs : List Byte) (b : Nat × Nat × Nat × Nat) (s : State) : State :=
  let bad := dmaPoison s op l.desc
  let s1 := poisonFault s b.2.2.1 b.2.2.2
  match l.step with
  | some _ => modLive tag (fun l => { l with aux := 2 }) s1
  | none =>
    let r := fresh 1 s1
    let s2 := dmaPut tag t op l.desc none 0 (bs.take b.1) r.2
    let s3 := if r.1 = 1 then forS (dmaAfter bad b.2.1 bs) (fun x s => dmaPut tag t op l.desc none x.1 [x.2] s) s2 else s2
    dmaEnds tag stDMA_FAULT 5 b.1 s3

/-- A DMA_D2H attached to a step: into the must hold (R361), waiting in a stall (R364), or failing the oldest step
(R365). A speculative write waits too when it would pass the quota. -/
def dmaHold (tag t n : Nat) (d bs : List Byte) (s : State) : State :=
  let need := (bs.length + 4095) / 4096 * 4096
  let past := decide (holdQuota s t < holdUse s t + need)
  if speculative s t n && (leesStall s t || holdStall s t || past) then
    modLive tag (fun l => { l with stage := .holdWait }) (updStall t s)
  else if past then failStep t n 6 s
  else
    updStall t (dmaEnds tag stOK 0 bs.length
      (modStp (fun x => { x with hold := x.hold ++ [⟨tag, t, n, tenFn s t, tenPasid s t, dmaAddr d, bs⟩] }) s))

/-- Moves the data of a DMA that passed its checks, once nothing holds it back. -/
def dmaTry (tag : Nat) (s : State) : State :=
  match liveRec s tag with
  | none => s
  | some l =>
    let op := opcodeOf l.desc
    let t := liveTen l
    let d := l.desc
    if dmaBlocked s op d then
      modLive tag (fun l => { l with stage := .promo }) (forS (dmaRanges op d) (fun q s =>
        whenS (touchesT0 s q.1 q.2.1 q.2.2) wakeUp (promoteRange q.1 q.2.1 q.2.2 s)) s)
    else
      let bs := dmaBytes s op d l.buf
      match firstPoison (dmaPoison s op d) with
      | some b => dmaConsume tag t op l bs b s
      | none =>
        if op = 0x11 then
          match l.step with
          | some n => dmaHold tag t n d bs s
          | none =>
            if hostRangeOk s (tenFn s t) (dmaAddr d) bs.length then dmaEnds tag stOK 0 bs.length (toHost t (dmaAddr d) bs s)
            else dmaEnds tag stDMA_FAULT 4 0 s
        else dmaEnds tag stOK 0 bs.length (dmaPut tag t op d l.step 0 bs s)

/-- The read of host memory a DMA_H2D makes, in its tenant's function and PASID (R46, R112). -/
def readHost (op t : Nat) (d : List Byte) (s : State) : State :=
  if op = 0x10 then emit (.hostRead (tenFn s t) (tenPasid s t) (dmaAddr d) (dmaLen d)) s else s
/-- The start of a DMA with the bytes read from the host: the checks of R111, then the move. -/
def dmaStart (tag op : Nat) (buf : List Byte) (s : State) : State :=
  startDesc tag op (fun s =>
    match liveRec s tag with
    | none => s
    | some l =>
      match dmaFault s (liveTen l) op l.desc with
      | some f => done tag f.1 f.2 0 s
      | none => dmaTry tag (readHost op (liveTen l) l.desc (modLive tag (fun l => { l with buf := buf }) s))) s

/-- DMA_H2D: with a fault code of the host read (1 to 4, R691) or the bytes read, as many as the descriptor asks for; a
host read that fails writes nothing. -/
def execDmaH2d (tag flt : Nat) (bytes : List Byte) (s : State) : Answer :=
  .next (match liveRec s tag with
    | none => s
    | some l =>
      if flt = 0 then
        if bytes.length = dmaLen l.desc ∨ (dmaFault s (liveTen l) 0x10 l.desc).isSome then dmaStart tag 0x10 bytes s else s
      else
        startDesc tag 0x10 (fun s =>
          match dmaFault s (liveTen l) 0x10 l.desc with
          | some f => done tag f.1 f.2 0 s
          | none => done tag stDMA_FAULT (flt % 8) 0 (readHost 0x10 (liveTen l) l.desc s)) s)
/-- DMA_D2H. -/
def execDmaD2h (tag : Nat) (s : State) : Answer := .next (dmaStart tag 0x11 [] s)
/-- DMA_COPY. -/
def execDmaCopy (tag : Nat) (s : State) : Answer := .next (dmaStart tag 0x12 [] s)
/-- DMA_FILL. -/
def execDmaFill (tag : Nat) (s : State) : Answer := .next (dmaStart tag 0x13 [] s)
/-- DMA_DONE: a DMA that waits goes on where it can; one whose data has all moved finishes executing (R345, R692). -/
def execDmaDone (tag : Nat) (s : State) : Answer :=
  .next (match liveRec s tag with
    | none => s
    | some l =>
      if nclkOn s ∧ 0x10 ≤ opcodeOf l.desc ∧ opcodeOf l.desc ≤ 0x13 then
        if l.stage = .promo ∨ l.stage = .holdWait then dmaTry tag s
        else if l.stage = .running ∧ l.aux = 1 ∧ ¬ writesWait s tag then done tag l.status l.detail l.result s
        else s
      else s)

/-! ## Handles (Tables 03.4 and 03.5) -/

/-- Lowest number from `k` on that a table does not list. -/
def lowFree {α : Type} : Map α → Nat → Nat
  | [], k => k
  | (j, _) :: r, k => if j = k then lowFree r (k + 1) else if j < k then lowFree r k else k
/-- The number the module takes: the one named if it is free, else the lowest free one (R106 leaves the choice open). -/
def pickHandle (s : State) (want : Nat) : Nat :=
  if want < 2 ^ 24 ∧ (hndRec s want).isNone then want else lowFree s.pln.hnds 0

/-- The HANDLE_CREATEs that wait for pages, as (tenant, pages): what the limits of R113 have already granted, so that none of them fails for
want of a page (R102). -/
def promised (s : State) : List (Nat × Nat) :=
  (s.hif.live.filter (fun e => decide (e.2.stage = .promo) && decide (opcodeOf e.2.desc = 0x20))).map
    (fun e => (liveTen e.2, pagesOf (fieldAt e.2.desc 16 6)))
def promisedTo (s : State) (t : Nat) : List Nat := ((promised s).filter (fun x => decide (x.1 = t))).map Prod.snd
/-- T0 pages that requests (tenant, pages) can take, each tenant's up to its cap (R113). -/
def takesT0 (s : State) (l : List (Nat × Nat)) : Nat :=
  ((l.map Prod.fst).eraseDups.map (fun t =>
    min ((l.filter (fun x => decide (x.1 = t))).map Prod.snd).sum (tqCap s t - tenIn s t 0 - movesIn s t))).sum
/-- The free pages, those in zeroization with them, can serve all the requests (R102, R113). -/
def roomFor (s : State) (l : List (Nat × Nat)) : Bool :=
  decide ((l.map Prod.snd).sum ≤ freeIn s 1 + zeroingIn s 1 + (freeIn s 2 + zeroingIn s 2) + min (freeT0 s) (takesT0 s l))
/-- A request finds its pages: by itself, and beside the waiting ones unless those do not fit by themselves. -/
def roomToo (s : State) (t n : Nat) : Bool :=
  roomFor s [(t, n)] && (roomFor s ((t, n) :: promised s) || !(roomFor s (promised s)))
/-- The first failing check of R113, as (status, detail). -/
def createFault (s : State) (t : Nat) (d : List Byte) : Option (Nat × Nat) :=
  let size := fieldAt d 16 6
  let n := pagesOf size
  let rep := bitOf (fieldAt d 22 1) 0
  let die := bitsOf (fieldAt d 23 1) 4 2
  if size = 0 ∨ 2 ^ 40 < size then some (stBAD_FIELD, 16)
  else if rep && decide (fieldAt d 24 2 < 2) then some (stBAD_FIELD, 24)
  else if rep && decide (fieldAt d 24 2 ≤ fieldAt d 26 2) then some (stBAD_FIELD, 26)
  else if numDies s < die then some (stBAD_FIELD, 23)
  else if tqTotal s t < (tenPages s t).length + (promisedTo s t).sum + n then some (stNO_SPACE, 1)
  else if tqHandles s t < (tenHnds s t).length + (promisedTo s t).length + 1 then some (stNO_SPACE, 2)
  else if 2 ^ 24 ≤ s.pln.hnds.length + (promised s).length ∨ ¬ roomToo s t n then some (stNO_SPACE, 3)
  else none

/-- A new page of a handle where the Planter places it (R119 to R121: no access yet counted, no current location; DEDUCED, log 61), with the
demotion its place needs first. -/
def newPlace (s : State) (h t p : Nat) (x : Page) : Option ((Nat × Nat) × Option (Nat × Nat × Nat × Nat)) := placeOf s t (pageKey h p) x true none
/-- Gives a handle its pages from number `p` on, each where the Planter places it; none while a page must wait for a zeroization (R102) or a
demotion (R121). -/
def createPages (h t tier die : Nat) : Nat → Nat → State → Option State
  | 0, _, s => some s
  | n + 1, p, s =>
    let x : Page := { tier := 0, prefTier := tier, prefDie := die }
    match newPlace s h t p x with
    | some (l, none) => createPages h t tier die n (p + 1)
        (countUnmet x l (modPln (fun y => { y with pages := Map.put y.pages (pageKey h p) { x with tier := l.1, stack := l.2 } }) s))
    | _ => none
/-- The demotion for which the first page that cannot be given waits, if it waits for one. -/
def createNeeds (h t tier die : Nat) : Nat → Nat → State → Option (Nat × Nat × Nat × Nat)
  | 0, _, _ => none
  | n + 1, p, s =>
    let x : Page := { tier := 0, prefTier := tier, prefDie := die }
    match newPlace s h t p x with
    | some (l, none) => createNeeds h t tier die n (p + 1)
        (modPln (fun y => { y with pages := Map.put y.pages (pageKey h p) { x with tier := l.1, stack := l.2 } }) s)
    | some (_, v) => v
    | none => none

/-- The demotion an operation waits for starts, if there is one. -/
def startDemotion (v : Option (Nat × Nat × Nat × Nat)) (s : State) : State :=
  if s.pln.moves.length < 64 then modPln (fun p => { p with moves := p.moves ++ demotion v }) s else s
/-- Handle `h` is made with its pages; where a page finds no location the operation waits, and the demotion it needs starts. -/
def createNew (tag t h : Nat) (hd : Hnd) (d : List Byte) (s : State) : State :=
  let n := pagesOf hd.size
  let tier := bitsOf (fieldAt d 23 1) 1 0
  let die := bitsOf (fieldAt d 23 1) 4 2
  let s0 := modPln (fun p => { p with hnds := Map.put p.hnds h hd }) s
  match createPages h t tier die n 0 s0 with
  | some s1 => done tag stOK 0 (h + n * 2 ^ 32) s1
  | none =>
    modLive tag (fun l => { l with stage := .promo }) (startDemotion (createNeeds h t tier die n 0 s0) s)
/-- Creates the handle of a HANDLE_CREATE, or waits for the zeroization of pages. -/
def createTry (tag want : Nat) (s : State) : State :=
  match liveRec s tag with
  | none => s
  | some l =>
    let t := liveTen l
    let d := l.desc
    match createFault s t d with
    | some f => done tag f.1 f.2 0 s
    | none =>
      let h := pickHandle s want
      let fl := fieldAt d 22 1
      let hd : Hnd := {
        tenant := t, size := fieldAt d 16 6, replicated := bitOf fl 0, narrowable := bitOf fl 1, graftEach := bitOf fl 2,
        noRack := bitOf fl 3, repCount := fieldAt d 24 2, repRank := fieldAt d 26 2, createdIn := l.step }
      createNew tag t h hd d s

/-- A HANDLE_CREATE that waits for pages tries again, with the lowest free number; a page still wanting only makes it wait on. -/
def createAgain (tag : Nat) (s : State) : State :=
  let s1 := modLive tag (fun l => { l with stage := .running }) s
  match liveRec s1 tag with
  | none => s
  | some l => if createFault s1 (liveTen l) l.desc = some (stNO_SPACE, 3) then s else createTry tag (2 ^ 24) s1
/-- A HANDLE_CREATE that waits for pages. -/
def createWaits (s : State) (tag : Nat) : Bool :=
  match liveRec s tag with
  | some l => decide (l.stage = .promo) && decide (opcodeOf l.desc = 0x20)
  | none => false
/-- HANDLE_CREATE; `want` is the number the module chooses where it is free. One that waits for pages tries again. -/
def execHandleCreate (tag want : Nat) (s : State) : Answer :=
  .next (if createWaits s tag ∧ nclkOn s then createAgain tag s else startDesc tag 0x20 (createTry tag want) s)
/-- HANDLE_CREATEs that wait for pages try again. -/
def retryCreates (s : State) : State :=
  forS (s.hif.live.filter (fun e => decide (e.2.stage = .promo) && decide (opcodeOf e.2.desc = 0x20)))
    (fun e s => createAgain e.1 s) s
/-- PAGE_ZEROIZE_DONE of a page of a tier and stack (R102). -/
def execPageZeroizeDone (tier stack : Nat) (s : State) : Answer :=
  .next (if (tier, stack) ∈ s.pln.zeroing then retryCreates (zeroizeDone tier stack s) else s)

/-- The payload bytes in which an opcode names handles. -/
def handleFields (op : Nat) : List Nat :=
  if op = 0x12 then [16, 32]
  else if memb op [0x10, 0x11, 0x13, 0x21, 0x22, 0x23, 0x61] then [16]
  else if 0x40 ≤ op ∧ op ≤ 0x43 then [16, 28]
  else []
/-- A started descriptor names the handle (R116); a launch's tiles may name any handle of the tenant. -/
def namesHandle (l : Live) (h : Nat) : Bool :=
  decide (opcodeOf l.desc = 0x30) || (handleFields (opcodeOf l.desc)).any (fun o => decide (fieldAt l.desc o 3 = h))
/-- Tags of started descriptors of the tenant that name the handle and have not completed. -/
def usersOf (s : State) (t tag h : Nat) : List Nat :=
  (s.hif.live.filter (fun e => decide (e.1 ≠ tag) && decide (liveTen e.2 = t) && !unstarted e.2 && namesHandle e.2 h)).map Prod.fst
/-- HANDLE_FREE (R116, R117). -/
def execHandleFree (tag : Nat) (s : State) : Answer :=
  .next (startDesc tag 0x21 (fun s =>
    match liveRec s tag with
    | none => s
    | some l =>
      let h := fieldAt l.desc 16 3
      let t := liveTen l
      if hndOk s t h then
        done tag stOK 0 0 (modHnd h (fun x => { x with gone := true, freedIn := l.step, waitFor := usersOf s t tag h }) s)
      else done tag stBAD_HANDLE 0 0 s) s)

/-- HANDLE_HINT (R114): a handle not the tenant's, a range past the last page, an absent die. -/
def execHandleHint (tag : Nat) (s : State) : Answer :=
  .next (startDesc tag 0x22 (fun s =>
    match liveRec s tag with
    | none => s
    | some l =>
      let d := l.desc
      let h := fieldAt d 16 3
      let np := pagesOf (hndSize s h)
      let fp := fieldAt d 20 4
      let cnt := if fieldAt d 24 4 = 0 then np - fp else fieldAt d 24 4
      let pref := fieldAt d 28 1
      if ¬ hndOk s (liveTen l) h then done tag stBAD_HANDLE 0 0 s
      else if np ≤ fp ∨ np < fp + cnt then done tag 0x0200 0 0 s
      else if numDies s < bitsOf pref 4 2 then done tag stBAD_FIELD 28 0 s
      else
        let ps := (List.range cnt).map (· + fp)
        let s1 := forS ps (fun p => modPage h p (fun x => { x with prefTier := bitsOf pref 1 0, prefDie := bitsOf pref 4 2 })) s
        done tag stOK 0 0 (if bitOf pref 5 then forS ps (fun p => evalPage (pageKey h p)) s1 else s1)) s)

/-- HANDLE_QUERY (R115). -/
def execHandleQuery (tag : Nat) (s : State) : Answer :=
  .next (startDesc tag 0x23 (fun s =>
    match liveRec s tag with
    | none => s
    | some l =>
      let h := fieldAt l.desc 16 3
      let k := fun tier => (s.pln.pages.filter (fun e => decide (e.1 / 0x100000 = h) && decide (e.2.tier = tier))).length
      if hndOk s (liveTen l) h then done tag stOK 0 (k 0 + k 1 * 2 ^ 21 + k 2 * 2 ^ 42) s
      else done tag stBAD_HANDLE 0 0 s) s)

end Sys2Proof.Machine
end

