-- ==== Sys2Proof/Machine/Steps.lean ====
section
/-!
DEFINITION. Machine/Steps.lean: the step opcodes, the step messages, draw timeouts, pre-image copies, restores and the
release of the must hold (R338 to R379).
-/
namespace Sys2Proof.Machine

/-! ## Step opcodes (R341 to R347, R373, R376) -/

/-- The step number a descriptor names. -/
def stepField (d : List Byte) : Nat := fieldAt d 16 6
/-- A step descriptor that ends at its start: it attaches to the step it names where that is undrawn (R344). -/
def stepErr (tag status detail : Nat) (l : Live) (s : State) : State :=
  let n := stepField l.desc
  done tag status detail 0 (modLive tag (fun l => { l with
    stage := .running, step := if (stepRec s (liveTen l) n).isSome then some n else none }) s)

/-- A STEP_OPEN or STEP_SEAL may start: it has its turn in its ring. -/
def stepTurn (s : State) (tag op : Nat) : Option Live :=
  match liveRec s tag with
  | some l => if nclkOn s ∧ opcodeOf l.desc = op ∧ unstarted l ∧ ringTurn s l ∧ ¬ memb 9 s.boot.drained then some l else none
  | none => none

/-- STEP_OPEN (R341 to R343, R373, R533). -/
def execStepOpen (tag : Nat) (s : State) : Answer :=
  .next (match stepTurn s tag 0x50 with
    | none => s
    | some l =>
      let t := liveTen l
      let n := stepField l.desc
      if (tstep s t).st = .recover ∧ (tstep s t).firstDisc ≠ some n then completeNow tag stDISCARDED 2 0 s
      else
        match openFault s t n (bitOf (fieldAt l.desc 22 1) 0) with
        | some f => stepErr tag f.1 f.2 l s
        | none =>
          if openWaits s t n then modLive tag (fun l => { l with stage := .spaceWait }) s
          else openNow tag t n l.desc s)

/-- STEP_SEAL (R345, R347): the open step closes, and seals once every other descriptor of it has finished. -/
def execStepSeal (tag : Nat) (s : State) : Answer :=
  .next (match stepTurn s tag 0x51 with
    | none => s
    | some l =>
      let t := liveTen l
      let n := stepField l.desc
      if (tstep s t).st = .recover ∧ ringClass s l.ring ≠ 0 then completeNow tag stDISCARDED 2 0 s
      else if openStep s t = some n then
        trySeal t (modStep t n (fun r => { r with opened := false, sealTag := some tag })
          (modLive tag (fun l => { l with stage := .running, step := some n }) s))
      else stepErr tag 0x0504 0 l s)

/-- STEP_RESYNC (R373): in RECOVER once the restore is done, in IDLE at once. -/
def execStepResync (tag : Nat) (s : State) : Answer :=
  .next (startDesc tag 0x52 (fun s =>
    match liveRec s tag with
    | none => s
    | some l =>
      let t := liveTen l
      match (tstep s t).st with
      | .run => done tag 0x0505 0 0 s
      | _ => if (tstep s t).restoring then modLive tag (fun l => { l with stage := .spaceWait }) s else resyncNow tag t l.desc s) s)

/-- Number of a step state (Table 09.3). -/
def stepCode : StepSt → Nat
  | .idle => 0
  | .run => 1
  | .recover => 2
/-- STEP_QUERY (R376). -/
def execStepQuery (tag : Nat) (s : State) : Answer :=
  .next (startDesc tag 0x53 (fun s =>
    match liveRec s tag with
    | none => s
    | some l =>
      let x := tstep s (liveTen l)
      done tag stOK 0 ((x.drawn.getD 0) % 2 ^ 48 + stepCode x.st * 2 ^ 48 + x.steps.length % 4 * 2 ^ 50 + x.reason % 256 * 2 ^ 52) s) s)

/-! ## Step messages (R351 to R353, R368) -/

/-- The i-th message delivered by the links and not yet taken, when its first byte is `msg` and its parcel is its
binding's. -/
def inboxAt (s : State) (i msg : Nat) : Option (Nat × List Byte) :=
  match s.vnl.inbox[i]? with
  | some m => if fieldAt m.2 0 1 = msg ∧ fieldAt m.2 2 2 = bindParcel s m.1 ∧ bindValid s m.1 ∧ nclkOn s then some m else none
  | none => none
def dropInbox (i : Nat) (s : State) : State := modVnl (fun v => { v with inbox := v.inbox.eraseIdx i }) s

/-- REPORT for a step (R351 to R353): a second one of a sender, and one for a step drawn or discarded, is dropped. -/
def takeReport (b : Nat) (m : List Byte) (s : State) : State :=
  let t := bindTen s b
  let n := fieldAt m 4 6
  let r : Rep := ⟨fieldAt m 10 2, fieldAt m 16 4, fieldAt m 12 2, fieldAt m 20 8, fieldAt m 28 8⟩
  if stepOver s t n then s
  else
    match stepRec s t n with
    | some x =>
      if x.reps.any (fun q => decide (q.sender = r.sender)) then s
      else tryReport t n (modStep t n (fun x => { x with reps := x.reps ++ [r] }) s)
    | none =>
      if (tstep s t).early.any (fun q => decide (q.1 = n) && decide (q.2.sender = r.sender)) then s
      else modTstep t (fun x => { x with early := x.early ++ [(n, r)] }) s
/-- REPORT: the i-th delivered message. -/
def execStepReport (i : Nat) (s : State) : Answer :=
  .next (match inboxAt s i 0x10 with
    | some m => takeReport m.1 m.2 (dropInbox i s)
    | none => s)

/-- DRAW (R352, R355): forwarded to the children, and the step is drawn here. -/
def takeDraw (b : Nat) (m : List Byte) (s : State) : State :=
  let t := bindTen s b
  let n := fieldAt m 4 6
  if stepOver s t n then s
  else
    let out := m.take 10 ++ leB 2 (bindCoord s b) ++ m.drop 12
    drawStep t n (fieldAt m 16 4) (some (b, fieldAt m 20 8, fieldAt m 28 8)) (toChildren b out s)
/-- DRAW: the i-th delivered message. -/
def execStepDraw (i : Nat) (s : State) : Answer :=
  .next (match inboxAt s i 0x11 with
    | some m => takeDraw m.1 m.2 (dropInbox i s)
    | none => s)

/-- FAIL (R368): up the tree it is passed on; the root sends it down unless the step is drawn; from the parent it is
forwarded and discards. A member that passes a FAIL up does not discard by it (DEDUCED, log 68). -/
def takeFail (b : Nat) (m : List Byte) (s : State) : State :=
  let t := bindTen s b
  let n := fieldAt m 4 6
  let origin := fieldAt m 12 2
  let drawn := match (tstep s t).drawn with | some k => decide (n ≤ k) | none => false
  let out := m.take 10 ++ leB 2 (bindCoord s b) ++ m.drop 12
  if bindCoord s b = drawRoot s b then
    if drawn then s else discard t n 2 origin (toChildren b out s)
  else if drawParent s b (bindCoord s b) = some (fieldAt m 10 2) then
    if drawn then s else discard t n 2 origin (toChildren b out s)
  else
    match drawParent s b (bindCoord s b) with
    | some z => sendTo b 0 z out s
    | none => s
/-- FAIL: the i-th delivered message. -/
def execStepFail (i : Nat) (s : State) : Answer :=
  .next (match inboxAt s i 0x12 with
    | some m => takeFail m.1 m.2 (dropInbox i s)
    | none => s)

/-! ## Draw timeouts (R369) -/

/-- A step that has sealed cleanly and is not drawn. -/
def sealedStep (s : State) (t n : Nat) : Option StepRec :=
  match stepRec s t n with
  | some r => if r.handed ∧ nclkOn s then some r else none
  | none => none
/-- DRAW_TIMEOUT of a step: draw_limit_ms have passed since its seal (R369). -/
def execDrawTimeout (t n : Nat) (s : State) : Answer :=
  .next (match sealedStep s t n with
    | some r =>
      if r.late then s
      else if r.left then
        modCel (fun c => { c with staged := c.staged ++ [.failUp t n 4] }) (modStep t n (fun r => { r with late := true }) s)
      else failStep t n 4 s
    | none => s)
/-- DRAW_SPLIT_TIMEOUT: a further draw_limit_ms has passed (R369). -/
def execDrawSplitTimeout (t n : Nat) (s : State) : Answer :=
  .next (match sealedStep s t n with
    | some r =>
      if r.late then
        upMsg (.event 7 0 8 [t] n 0) (discard t n 4 (tenCoord s t) (modTstep t (fun x => { x with split := true }) s))
      else s
    | none => s)

/-! ## Lees and hold (R355, R360, R364, R365, R370, R691) -/

/-- Bytes of the pre-images a rack still needs (R387). -/
def keptUse (s : State) (t : Nat) : Nat := 4096 * (s.stp.lees.filter (fun x => decide (x.tenant = t) && x.kept)).length
/-- PREIMAGE_COPY_DONE of a block (R360): the pre-image stands in the lees and the write goes on; the oldest step that
needs one past the quota fails (R365), or waits while pre-images kept for a rack take the room (R387). -/
def preimageDone (h p b : Nat) (s : State) : State :=
  match s.pln.waits.find? (fun w => decide (w.hnd = h) && decide (pageIdx w.off = p) && decide (blockIdx w.off = b)
      && decide (needOf s w = .pre)) with
  | none => s
  | some w =>
    match w.step with
    | none => s
    | some n =>
      if leesQuota s w.tenant < leesUse s w.tenant + 4096 ∧ ¬ speculative s w.tenant n then
        if leesQuota s w.tenant < leesUse s w.tenant - keptUse s w.tenant + 4096 then failStep w.tenant n 5 s else s
      else
        pump (updStall w.tenant (modStp (fun x => { x with lees := x.lees ++ [{
          tenant := w.tenant, step := n, hnd := h, page := p, block := b, bytes := hRead s h (p * 0x200000 + b * 4096) 4096 }] }) s))
/-- PREIMAGE_COPY_DONE of a block of a handle's page. -/
def execPreimageCopyDone (h p b : Nat) (s : State) : Answer := .next (if nclkOn s then preimageDone h p b s else s)

/-- A block of a tenant page is poisoned (R464), with POISON_FOUND to its tenant. -/
def markPoison (h p b : Nat) (s : State) : State :=
  match pageRec s h p, hndRec s h with
  | some _, some x => noteT x.tenant 0x0C01 h (p + b * 2 ^ 32) (modPage h p (fun y => { y with poison := addOnce b y.poison }) s)
  | _, _ => s

/-- A discarded pre-image goes to a T0 page (R459). -/
def restoresT0 (s : State) (t : Nat) : Bool :=
  match (tstep s t).firstDisc with
  | some n => s.stp.lees.any (fun x => decide (x.tenant = t) && decide (n ≤ x.step) && !x.kept &&
      (match pageRec s x.hnd x.page with | some p => decide (p.tier = 0) | none => false))
  | none => false
/-- RESTORE_DONE of a tenant: the pre-images are written back, those in `bad` with an uncorrectable error (R464); what
waited for it goes on (R370, R373, R384, R660). -/
def execRestoreDone (t : Nat) (bad : List (Nat × Nat × Nat)) (s : State) : Answer :=
  .next (if (tstep s t).restoring ∧ nclkOn s ∧ ¬ (s.err.fence ∧ restoresT0 s t) then
      let n := ((tstep s t).firstDisc).getD 0
      let hit := bad.filter (fun q => s.stp.lees.any (fun x => decide (x.tenant = t) && decide (n ≤ x.step) && !x.kept
        && decide ((x.hnd, x.page, x.block) = q)))
      let s1 := forS hit (fun q => markPoison q.1 q.2.1 q.2.2) (writeBack t s)
      serveOwed t (trigRelease t (wakeRacks t (wakeResyncs t (wakeOpens t (pump (updStall t s1))))))
    else s)

/-- MUST_HOLD_WRITE_DONE: the oldest held write of a drawn step reaches the host, and the completion of its descriptor
follows its last one (R44, R355); a failed translation drops the rest of the descriptor's data (R691). -/
def holdWriteDone (s : State) : State :=
  match s.stp.draining with
  | [] => s
  | w :: rest =>
    if s.hif.up ∧ nclkOn s then
      let ok := hostRangeOk s w.fn w.addr w.bytes.length
      let rest := if ok then rest else rest.filter (fun x => decide (x.tag ≠ w.tag))
      let s1 := modStp (fun x => { x with draining := rest }) s
      let s2 := if ok then emit (.hostWrite w.fn w.pasid w.addr w.bytes) s1
        else modLive w.tag (fun l => { l with status := stDMA_FAULT, detail := 4, result := 0 }) s1
      let s3 := wakeOpens w.tenant (pump (updStall w.tenant s2))
      if rest.any (fun x => decide (x.tag = w.tag)) then s3
      else
        match liveRec s3 w.tag with
        | some l => if l.stage = .drained then settleFrees w.tenant (postHeld w.tag s3) else s3
        | none => s3
    else s
/-- MUST_HOLD_WRITE_DONE. -/
def execMustHoldWriteDone (s : State) : Answer := .next (holdWriteDone s)

end Sys2Proof.Machine
end

