-- ==== Sys2Proof/Machine/Rack.lean ====
section
/-!
DEFINITION. Machine/Rack.lean: racks, their marks, copy pass and drains (R380 to R400), graft messages (R401 to R405),
restores and seeds (R409 to R412), and the wear bucket (R418).
-/
namespace Sys2Proof.Machine

/-! ## RACK_TAKE, RACK_KEY, RACK_QUERY, slots, wear -/

/-- The effect of an unattached RACK_TAKE: the last drawn step, or all ones (R384). -/
def rackUnattached (tag : Nat) (l : Live) (s : State) : State :=
  rackEffect tag (liveTen l) (((tstep s (liveTen l)).drawn).getD 0xFFFFFFFFFFFF) (bitOf (fieldAt l.desc 16 1) 0)
    (bitOf (fieldAt l.desc 16 1) 1) s
/-- RACK_TAKE at its start (R384, Table 10.3): attached it is held until its step is drawn; in RECOVER it waits for
RESTORE_DONE. -/
def execRackTake (tag : Nat) (s : State) : Answer :=
  .next (startDesc tag 0x60 (fun s =>
    match liveRec s tag with
    | none => s
    | some l =>
      if fieldAt l.desc 20 8 % 4096 ≠ 0 then done tag stBAD_FIELD 20 0 s
      else
        match l.step with
        | some _ => done tag stOK 0 0 s
        | none =>
          if (tstep s (liveTen l)).restoring then modLive tag (fun l => { l with stage := .spaceWait }) s
          else rackUnattached tag l s) s)

/-- RACK_KEY (R380, R382). -/
def rackKeyNow (tag : Nat) (s : State) : State :=
  match liveRec s tag with
  | none => s
  | some l =>
    let t := liveTen l
    let h := fieldAt l.desc 16 3
    let key := fieldAt l.desc 20 4
    let stride := fieldAt l.desc 24 2
    match hndRec s h with
    | none => done tag stBAD_HANDLE 0 0 s
    | some x =>
      if ¬ hndOk s t h then done tag stBAD_HANDLE 0 0 s
      else if x.noRack then done tag stBAD_FIELD 16 0 s
      else if x.replicated ∧ stride = 0 then done tag stBAD_FIELD 24 0 s
      else if key ≠ 0 ∧ (tenHnds s t).any (fun e => decide (e.1 ≠ h) && decide (e.2.key = key) && !e.2.gone) then done tag 0x0602 0 0 s
      else
        let upd := fun (x : Hnd) => { x with
          key := key, stride := if x.replicated then stride else x.stride,
          oldKeys := match l.step with
            | some n => if x.oldKeys.any (fun o => decide (o.1 = n)) then x.oldKeys else x.oldKeys ++ [(n, x.key, x.stride)]
            | none => x.oldKeys }
        done tag stOK 0 0 (modHnd h upd s)
/-- RACK_KEY. -/
def execRackKey (tag : Nat) (s : State) : Answer := .next (startDesc tag 0x61 (rackKeyNow tag) s)

/-- The slot of a tenant's newest COMPLETE rack. -/
def newestRack (s : State) (t : Nat) : Option Nat :=
  ([0, 1].filter (fun k => decide ((slotAt s k).st = 2) && decide ((slotAt s k).tenant = t))).foldl (fun a k =>
    match a with
    | none => some k
    | some j => if (slotAt s j).seq < (slotAt s k).seq then some k else a) none
/-- RACK_QUERY (R394). -/
def execRackQuery (tag : Nat) (s : State) : Answer :=
  .next (startDesc tag 0x64 (fun s =>
    match liveRec s tag with
    | none => s
    | some l =>
      match newestRack s (liveTen l) with
      | some k => done tag stOK 0 (rackResult (slotAt s k) k % 2 ^ 52 + 2 ^ 52) s
      | none => done tag stOK 0 0 s) s)

/-- RCK_SLOT_RELEASE of slot k: crypto-erased unless its tenant is ACTIVE (Table 10.11). A FILLING slot of a tenant that is
not ACTIVE does not exist (R416). -/
def execRckSlotRelease (acc : Acc) (k v : Nat) (s : State) : Answer :=
  .next (if blockOpen s acc 10 ∧ k < 2 ∧ bitOf v 0 ∧ ¬ tenActive s (slotAt s k).tenant then setSlot k (fun _ => {}) s else s)

/-- WEAR_BUCKET_TICK: a second's gain, up to a day's worth (R418). -/
def execWearBucketTick (s : State) : Answer :=
  .next (modRck (fun r => { r with
    bucket := min (r.bucket + (wearRate s : Int) * 1000000000) ((wearRate s : Int) * 86400 * 1000000000) }) s)

/-! ## Marks, copies, the copy pass -/

/-- RACK_MARKS_DONE: every page of the rack's handles is marked, with its event (R388, R420). -/
def execRackMarksDone (s : State) : Answer :=
  .next (match s.rck.job with
    | none => s
    | some j =>
      if j.asking ∨ j.marked ∨ ¬ nclkOn s then s
      else
        let s1 := forS j.hs (fun e s => forS (List.range (pagesOf e.2.size)) (fun p => modPage e.1 p (fun x => { x with mark := true, copied := [] })) s) s
        pump (noteT j.tenant 0x0A00 0 j.step (modRck (fun r => { r with job := some { j with marked := true } }) s1)))

/-- The handle of the rack in progress. -/
def jobHnd (j : RackJob) (h : Nat) : Option Hnd := (j.hs.find? (fun e => decide (e.1 = h))).map Prod.snd
/-- RACK_COW_COPY_DONE of a block: its racked content stands in the reserve and the write proceeds; a block of a page this
module does not own needs room beyond the rack itself (R389). -/
def cowDone (h p b : Nat) (s : State) : State :=
  match s.rck.job with
  | none => s
  | some j =>
    match jobHnd j h with
    | none => s
    | some x =>
      if s.pln.waits.any (fun w => decide (w.hnd = h) && decide (pageIdx w.off = p) && decide (blockIdx w.off = b) && decide (needOf s w = .cow)) then
        let extra := (j.blks.filter (fun y => j.hs.any (fun e => decide ((keyAt e.2 j.step).1 = y.key) && !ownsPage e.2 y.page))).length
        if ¬ ownsPage x p ∧ rsvReg s 1 * gib < j.size + 4096 * (extra + 1) then s
        else
          let key := (keyAt x j.step).1
          pump (modPage h p (fun y => { y with copied := y.copied ++ [b] })
            (modRck (fun r => { r with job := some { j with blks := j.blks ++ [⟨key, p, b, rackContent s j.step h p b⟩] } }) s))
      else s
/-- RACK_COW_COPY_DONE. -/
def execRackCowCopyDone (h p b : Nat) (s : State) : Answer := .next (if nclkOn s then cowDone h p b s else s)

/-- A check of Table 12.6 (row) fails for a tenant: event, record, count (R470). -/
def checkFail (t row key : Nat) (s : State) : State :=
  noteT t 0x0C06 0 (row + key * 256) (modErr (fun e => { e with checkFail := satAdd 32 e.checkFail 1 }) s)
/-- The rack ends with RACK_CHECK and its slot EMPTY. -/
def rackCheck (j : RackJob) (s : State) : State :=
  pump (rackEnd j.tag j.tenant j.step 0x0609 0 0 (abandonRack s))

/-- The coordinate of rank 0 of a replica group. -/
def rankCoord (x : Hnd) (stride coord j : Nat) : Nat := (replicaAt x stride coord j).toNat
/-- A hash of another rank meets this module's own (R400). -/
def compareHash (a own : HashRec) (s : State) : State :=
  if a.hash = own.hash then s
  else noteT a.tenant 0x0A02 a.sender a.key (modRck (fun r => { r with mismatch := satAdd 32 r.mismatch 1 }) s)
/-- This module's own hash of a key as rank 0: hashes that have arrived for it are compared. -/
def ownHash (o : HashRec) (s : State) : State :=
  let mine := fun (a : HashRec) => decide (a.tenant = o.tenant) && decide (a.key = o.key) && decide (a.step = o.step) && !a.own
  forS (s.rck.hashes.filter mine) (fun a => compareHash a o)
    (modRck (fun r => { r with hashes := (r.hashes.filter (fun a => !mine a)) ++ [o] }) s)
/-- Sends or keeps the hash of a replicated handle (R400). -/
def shareHash (j : RackJob) (key hash : Nat) (x : Hnd) (s : State) : State :=
  let coord := tenCoord s j.tenant
  if x.repRank = 0 then ownHash ⟨j.tenant, coord, key, j.step, hash, true⟩ s
  else
    match bindOf s j.tenant with
    | some b => sendTo b 2 (rankCoord x (keyAt x j.step).2 coord 0) (graftHead s 0x25 0 j.tenant j.step key 0 0 0 0 ++ leB 48 hash) s
    | none => s

/-- The blocks of a rack as it is stored: packed, owned pages only (R390, R392). -/
def packJob (s : State) (j : RackJob) : List RackBlk :=
  j.hs.flatMap (fun e =>
    let key := (keyAt e.2 j.step).1
    let nar := memb e.1 j.narrowed
    (rackedPages e.2).flatMap (fun p => (packedBlocks nar e.2.size p).map (fun b =>
      ⟨key, p, b, packBlock nar (jobContent s j key e.1 p) b⟩)))
/-- The drain to the buddy: every block, then a COMMIT with the manifest (R394; log 74). -/
def rackToBuddy (j : RackJob) (s : State) : State :=
  match buddySlot s j.tenant with
  | some (b, k) =>
    let s1 := forS j.blks (fun x s =>
      toBuddy b k 3 (graftHead s 0x22 4 j.tenant j.step x.key x.page x.block 1 0 ++ crcBlock x.bytes) s) s
    toBuddy b k 0 (graftHead s 0x23 4 j.tenant j.step 0 0 0 0 0
      ++ manifestOf s { j with graftOk := true } (!j.narrowed.isEmpty || (tenRack s j.tenant).lineage) j.hashes) s1
  | none => modRck (fun r => { r with job := some { j with graft := false } }) s

/-- Some marked page lies in T0. -/
def marksT0 (s : State) (j : RackJob) : Bool :=
  s.pln.pages.any (fun e => e.2.mark && decide (e.2.tier = 0) && (jobHnd j (e.1 / 0x100000)).isSome)
/-- COPY_PASS_DONE: every marked page has been read; `bad` names the handle whose block failed its check, if one did
(R390, R398, R400, R465, R470). It waits for an open fence where it reads T0 (R458). -/
def copyPass (bad : Option Nat) (s : State) : State :=
  match s.rck.job with
  | none => s
  | some j =>
    if ¬ j.marked ∨ j.passed ∨ ¬ nclkOn s then s
    else if (s.err.fence ∨ asleep s) ∧ marksT0 s j then wakeUp s
    else
      match bad.bind (jobHnd j) with
      | some x => rackCheck j (checkFail j.tenant 2 (keyAt x j.step).1 s)
      | none =>
        if j.hs.any (fun e => (poisonedIn s e.1 0 e.2.size).any (fun _ => true)) then rackCheck j s
        else
          let hashes := j.hs.map (fun e => (e.1, handleHash s j (keyAt e.2 j.step).1 e.1 e.2.size))
          let j1 := { j with passed := true, blks := packJob s j, hashes := hashes }
          let s1 := modRck (fun r => { r with job := some j1, hashes := r.hashes.filter (fun a => decide (a.tenant ≠ j.tenant) || !a.own) }) s
          let s2 := forS j.hs (fun e s =>
            if e.2.replicated then shareHash j1 (keyAt e.2 j.step).1 (((hashes.find? (fun q => decide (q.1 = e.1))).map Prod.snd).getD 0) e.2 s else s) s1
          let s3 := if j.graft then rackToBuddy j1 s2 else s2
          settleFrees j.tenant (pump (updStall j.tenant (dropMarks j.tenant s3)))
/-- COPY_PASS_DONE. -/
def execCopyPassDone (bad : Option Nat) (s : State) : Answer := .next (copyPass bad s)

/-- RACK_DRAIN_DONE: both drains end (R394, R395); `bad` is the key of a block whose check failed at the slot. With a
graft, it waits for the buddy's acknowledgement while the graft can still succeed. -/
def drainDone (bad : Option Nat) (s : State) : State :=
  match s.rck.job with
  | none => s
  | some j =>
    if ¬ j.passed ∨ ¬ nclkOn s ∨ (j.graft ∧ ¬ j.graftOk) then s
    else
      match bad with
      | some key => rackCheck j (checkFail j.tenant 3 key s)
      | none =>
        let t := j.tenant
        let lin := !j.narrowed.isEmpty || (tenRack s t).lineage
        let man := manifestOf s j lin j.hashes
        let s1 := program t j.size s
        let s2 := setSlot j.slot (fun x => { x with
          st := 2, lineage := lin, grafted := j.graft && j.graftOk, narrowed := !j.narrowed.isEmpty, bytes := j.size,
          manifest := man, blks := j.blks, seq := s.rck.seq }) s1
        let s3 := modRck (fun r => { r with job := none, seq := r.seq + 1 }) s2
        let s4 := match liveRec s3 j.tag with
          | some l =>
            let a := fieldAt l.desc 20 8
            let bs := man.take (fieldAt l.desc 28 4)
            if a ≠ 0 ∧ s.hif.up ∧ hostRangeOk s3 (tenFn s t) a bs.length then toHost t a bs s3 else s3
          | none => s3
        rackEnd j.tag t j.step stOK 0 (rackResult (slotAt s4 j.slot) j.slot)
          (noteT t 0x0A01 0 (j.step + b2n (j.graft && j.graftOk) * 2 ^ 48 + j.slot * 2 ^ 49) s4)
/-- RACK_DRAIN_DONE. -/
def execRackDrainDone (bad : Option Nat) (s : State) : Answer := .next (drainDone bad s)

/-! ## Offers and grafts at the buddy (R401, R403, R405, R470) -/

/-- Bytes a graft-in entry holds. -/
def ginUse (g : Gin) : Nat := 4096 * (g.image.length + g.shadow.length + g.rack.length)
def ginHeld (s : State) : Nat := (s.rck.gin.map (fun e => ginUse e.2)).sum
/-- A sender's step image: the sizes its entries name for the handles grafted each step, else what is held. -/
def imageSize (g : Gin) : Nat := 4096 * g.image.length
/-- The offer to a sender (R401): the free reserve less its image and the budget (log 71). -/
def offerFor (s : State) (t z : Nat) : Nat :=
  let g := ((ginAt s t z).map Prod.snd).getD {}
  rsvReg s 2 * gib - (ginHeld s - ginUse g) - imageSize g - fldW (rackCfg s t) 23 16 * gib
/-- OFFER_REQ: answered with an offer. -/
def execGraftOfferReq (i : Nat) (s : State) : Answer :=
  .next (match inboxAt s i 0x20 with
    | some m =>
      let t := bindTen s m.1
      sendTo m.1 2 (fieldAt m.2 10 2) (graftHead s 0x21 0 t (fieldAt m.2 4 6) 0 0 0 0 (offerFor s t (fieldAt m.2 10 2))) (dropInbox i s)
    | none => s)

/-- OFFER at the sender: the offer a rack waits for, or the buddy's refusal of data (log 72). -/
def takeOffer (t : Nat) (m : List Byte) (s : State) : State :=
  match s.rck.job with
  | some j =>
    if j.tenant = t ∧ j.asking then rackFit (modTenRack t (fun x => { x with offer := fieldAt m 24 8 }) s)
    else if bitOf (fieldAt m 1 1) 2 then
      if j.tenant = t then modRck (fun r => { r with job := some { j with graft := false } }) s else s
    else if (tenRack s t).flight.isSome then graftNone t s else s
  | none => if ¬ bitOf (fieldAt m 1 1) 2 ∧ (tenRack s t).flight.isSome then graftNone t s else s
/-- OFFER. -/
def execGraftOffer (i : Nat) (s : State) : Answer :=
  .next (match inboxAt s i 0x21 with
    | some m => takeOffer (bindTen s m.1) m.2 (dropInbox i s)
    | none => s)

/-- The entry of a sender, allocated where it has none: the lowest of the four free ones. -/
def ginFor (s : State) (t z : Nat) : Option Nat :=
  match ginAt s t z with
  | some e => some e.1
  | none => [0, 1, 2, 3].find? (fun k => !(Map.get {} s.rck.gin k).valid)
def modGin (k : Nat) (f : Gin → Gin) (s : State) : State := modRck (fun r => { r with gin := Map.upd {} r.gin k f }) s
/-- The blocks a DATA or READ_DATA carries, none where a check fails. -/
def checkedBlocks : Nat → Nat → List Byte → Option (List (Nat × List Byte))
  | 0, _, _ => some []
  | n + 1, b, bs =>
    if fieldAt bs 4096 4 = (crc32c (bs.take 4096)).toNat then (checkedBlocks n (b + 1) (bs.drop 4100)).map (fun l => (b, bs.take 4096) :: l)
    else none
/-- Puts blocks over those of the same place. -/
def mergeBlks (l new : List RackBlk) : List RackBlk :=
  l.filter (fun x => !new.any (fun y => decide (y.key = x.key) && decide (y.page = x.page) && decide (y.block = x.block))) ++ new
/-- What a graft's DATA makes of an entry: blocks of a step's graft stand in the shadow, those of a rack in the rack graft. Data of another
step than the shadow's begins a full graft, since every graft is committed before a delta follows it (R404), and discards the shadow
(R405). -/
def ginTake (rack : Bool) (n : Nat) (new : List RackBlk) (g : Gin) : Gin :=
  if rack then
    if g.rackStep.isSome then { g with rack := new, rackStep := none, rackMan := [] } else { g with rack := mergeBlks g.rack new }
  else { g with shadow := mergeBlks (if g.shadowStep = some n then g.shadow else []) new, shadowStep := some n }
/-- DATA at the buddy: to the shadow or the rack graft; a check that fails discards the shadow; no room refuses (log 72). -/
def takeData (b : Nat) (m : List Byte) (s : State) : State :=
  let t := bindTen s b
  let z := fieldAt m 10 2
  let rack := bitOf (fieldAt m 1 1) 2
  let key := fieldAt m 12 4
  let p := fieldAt m 16 4
  let n := fieldAt m 22 2
  let refuse := sendTo b 2 z (graftHead s 0x21 (b2n rack * 4) t (fieldAt m 4 6) 0 0 0 0 0)
  match ginFor s t z with
  | none => refuse s
  | some k =>
    let g := Map.get {} s.rck.gin k
    let drop := fun (g : Gin) => if rack then { g with rack := [], rackStep := none, rackMan := [], bad := true } else { g with shadow := [], bad := true }
    match checkedBlocks n (fieldAt m 20 2) (m.drop 32) with
    | none => checkFail t (if rack then 4 else 5) key (modGin k (fun g => { drop g with valid := true, tenant := t, sender := z }) s)
    | some l =>
      let g1 := ginTake rack (fieldAt m 4 6) (l.map (fun x => ⟨key, p, x.1, x.2⟩)) { g with valid := true, tenant := t, sender := z }
      if rsvReg s 2 * gib < ginHeld s - ginUse g + ginUse g1 then refuse (if g.valid then modGin k drop s else s)
      else modGin k (fun _ => g1) s
/-- DATA. -/
def execGraftData (i : Nat) (s : State) : Answer :=
  .next (match inboxAt s i 0x22 with
    | some m => takeData m.1 m.2 (dropInbox i s)
    | none => s)

/-- COMMIT at the buddy: the shadow joins the image, or replaces it after a full graft, and is acknowledged; a graft with a
failed check is acknowledged with step all ones (log 73). -/
def takeCommit (b : Nat) (m : List Byte) (s : State) : State :=
  let t := bindTen s b
  let z := fieldAt m 10 2
  let n := fieldAt m 4 6
  let rack := bitOf (fieldAt m 1 1) 2
  let ack := fun k => sendTo b 0 z (graftHead s 0x24 (b2n rack * 4) t k 0 0 0 0 0)
  match ginFor s t z with
  | none => ack 0xFFFFFFFFFFFF s
  | some k =>
    if (Map.get {} s.rck.gin k).bad then ack 0xFFFFFFFFFFFF (modGin k (fun g => { g with bad := false }) s)
    else
      ack n (modGin k (fun g =>
        let g := { g with valid := true, tenant := t, sender := z }
        if rack then { g with rackStep := some n, rackMan := (m.drop 32).take (128 + 128 * fieldAt (m.drop 32) 16 4) }
        else
          let es := (entries (m.drop 32)).flatMap (fun e => e)
          { g with image := if bitOf (fieldAt m 1 1) 0 then g.shadow else mergeBlks g.image g.shadow, shadow := [], shadowStep := none,
                   step := some n, cover := bitOf (fieldAt m 1 1) 1, entries := if es.isEmpty then g.entries else es }) s)
/-- COMMIT. -/
def execGraftCommit (i : Nat) (s : State) : Answer :=
  .next (match inboxAt s i 0x23 with
    | some m => takeCommit m.1 m.2 (dropInbox i s)
    | none => s)

/-- ACK at the sender: the graft of its step is committed and the state is CURRENT (R403, R404, R420); an acknowledgement of
no step makes it STALE (Table 12.6). -/
def takeAck (t : Nat) (m : List Byte) (s : State) : State :=
  let n := fieldAt m 4 6
  if bitOf (fieldAt m 1 1) 2 then
    match s.rck.job with
    | some j =>
      if j.tenant ≠ t ∨ ¬ j.passed then s
      else if n = j.step then modRck (fun r => { r with job := some { j with graftOk := true } }) s
      else modRck (fun r => { r with job := some { j with graft := false } }) s
    | none => s
  else if (tenRack s t).flight = some n then
    setGraft t 2 (modTenRack t (fun x => { x with flight := none, gstep := some n, cover := fullCover s t n }) s)
  else if n = 0xFFFFFFFFFFFF ∧ (tenRack s t).flight.isSome then setGraft t 3 (modTenRack t (fun x => { x with flight := none, sent := none }) s)
  else s
/-- ACK. -/
def execGraftAck (i : Nat) (s : State) : Answer :=
  .next (match inboxAt s i 0x24 with
    | some m => takeAck (bindTen s m.1) m.2 (dropInbox i s)
    | none => s)

/-- HASH at rank 0 (R400): compared with its own, or held for the second it may wait. -/
def takeHash (t : Nat) (m : List Byte) (s : State) : State :=
  let a : HashRec := ⟨t, fieldAt m 10 2, fieldAt m 12 4, fieldAt m 4 6, fieldAt m 32 48, false⟩
  match s.rck.hashes.find? (fun o => o.own && decide (o.tenant = t) && decide (o.key = a.key) && decide (o.step = a.step)) with
  | some o => compareHash a o s
  | none => modRck (fun r => { r with hashes := r.hashes ++ [a] }) s
/-- HASH. -/
def execGraftHash (i : Nat) (s : State) : Answer :=
  .next (match inboxAt s i 0x25 with
    | some m => takeHash (bindTen s m.1) m.2 (dropInbox i s)
    | none => s)
/-- HASH_COMPARE_TIMEOUT of the i-th hash held: counted and dropped (R400). -/
def execHashCompareTimeout (i : Nat) (s : State) : Answer :=
  .next (match s.rck.hashes[i]? with
    | some a => if a.own ∨ ¬ nclkOn s then s else
        modRck (fun r => { r with hashes := r.hashes.eraseIdx i, uncompared := satAdd 32 r.uncompared 1 }) s
    | none => s)

/-! ## Reads for restores and seeds (R410, R412, R415) -/

/-- READ_REQ: answered now, or owed until it can be. -/
def execGraftReadReq (i : Nat) (s : State) : Answer :=
  .next (match inboxAt s i 0x26 with
    | some m =>
      let t := bindTen s m.1
      match serveRead s t m.2 with
      | some a => sendAnswer m.1 m.2 a (dropInbox i s)
      | none => modRck (fun r => { r with owed := r.owed ++ [⟨t, m.2⟩] }) (dropInbox i s)
    | none => s)
/-- SEED_DONOR_TIMEOUT of the i-th read owed: a seed's is refused (R412). -/
def execSeedDonorTimeout (i : Nat) (s : State) : Answer :=
  .next (match s.rck.owed[i]? with
    | some o =>
      match bindOf s o.tenant with
      | some b =>
        if bitOf (fieldAt o.msg 24 8) 4 ∧ nclkOn s then
          sendAnswer b o.msg ⟨2, fieldAt o.msg 4 6, []⟩ (modRck (fun r => { r with owed := r.owed.eraseIdx i }) s)
        else s
      | none => s
    | none => s)

/-! ## RACK_RESTORE and RACK_SEED (R409 to R412, R659) -/

def modRest (tag : Nat) (f : Rest → Rest) (s : State) : State :=
  modRck (fun r => { r with rests := r.rests.map (fun x => if x.tag = tag then f x else x) }) s
def restOf (s : State) (tag : Nat) : Option Rest := s.rck.rests.find? (fun x => decide (x.tag = tag))
/-- A restore or seed ends with an error: the handles it created go first (R659). -/
def restFail (tag status result : Nat) (s : State) : State :=
  match restOf s tag with
  | none => done tag status 0 result s
  | some x =>
    done tag status 0 result (modRck (fun r => { r with rests := r.rests.filter (fun y => decide (y.tag ≠ tag)) })
      (forS x.created dropHnd s))

/-- Fields of a manifest entry (Table 10.5). -/
def entKey (e : List Byte) : Nat := fieldAt e 0 4
def entSize (e : List Byte) : Nat := fieldAt e 8 6
def entRep (e : List Byte) : Bool := bitOf (fieldAt e 7 1) 0
def entGraft (e : List Byte) : Bool := bitOf (fieldAt e 7 1) 2
def entNarrow (e : List Byte) : Bool := bitOf (fieldAt e 7 1) 3
/-- The handle an entry describes. -/
def entHnd (t key : Nat) (e : List Byte) : Hnd :=
  { tenant := t, size := entSize e, replicated := entRep e, narrowable := bitOf (fieldAt e 7 1) 1, graftEach := entGraft e,
    repCount := fieldAt e 14 2, repRank := fieldAt e 16 2, stride := fieldAt e 18 2, key := key }
/-- The limit of R113 that n more pages in one more handle exceed. -/
def roomFault (s : State) (t n : Nat) : Option Nat :=
  if tqTotal s t < (tenPages s t).length + (promisedTo s t).sum + n then some 1
  else if tqHandles s t < (tenHnds s t).length + (promisedTo s t).length + 1 then some 2
  else if 2 ^ 24 ≤ s.pln.hnds.length + (promised s).length ∨ ¬ roomToo s t n then some 3
  else none
/-- Creates the handles of a list of entries; an error detail, a wait for pages (none), or the state with their numbers. -/
def createAll (t kx : Nat) : List (List Byte) → List (Nat × Nat) → List Nat → State → Nat ⊕ Option (List (Nat × Nat) × List Nat × State)
  | [], m, c, s => .inr (some (m, c, s))
  | e :: r, m, c, s =>
    let key := entKey e ^^^ kx
    match hndByKey s t key with
    | some h => createAll t kx r (m ++ [(entKey e, h.1)]) c s
    | none =>
      let n := pagesOf (entSize e)
      match roomFault s t n with
      | some d => .inl d
      | none =>
        let h := lowFree s.pln.hnds 0
        match createPages h t 0 0 n 0 (modPln (fun p => { p with hnds := Map.put p.hnds h (entHnd t key e) }) s) with
        | some s1 => createAll t kx r (m ++ [(entKey e, h)]) (c ++ [h]) s1
        | none => .inr none

/-- The demotion for which the first of a list of entries that finds no pages waits (R121). -/
def wantedMove (t kx : Nat) : List (List Byte) → State → Option (Nat × Nat × Nat × Nat)
  | [], _ => none
  | e :: r, s =>
    let key := entKey e ^^^ kx
    if (hndByKey s t key).isSome then wantedMove t kx r s
    else
      let n := pagesOf (entSize e)
      let h := lowFree s.pln.hnds 0
      let s0 := modPln (fun p => { p with hnds := Map.put p.hnds h (entHnd t key e) }) s
      match createPages h t 0 0 n 0 s0 with
      | some s1 => wantedMove t kx r s1
      | none => createNeeds h t 0 0 n 0 s0

/-- A read request of a restore or seed (log 75). -/
def readReq (s : State) (t n key p b kind src : Nat) (seed : Bool) : List Byte :=
  graftHead s 0x26 0 t n key p b 1 (kind + b2n seed * 16 + src * 2 ^ 16)
/-- Sends a read request; none where its server cannot be reached. -/
def askRead (t z : Nat) (msg : List Byte) (s : State) : Option State :=
  match bindOf s t with
  | some b => if ((nextHop s b z).bind (slotTo s b)).isSome then some (sendTo b 2 z msg s) else none
  | none => none
/-- Asks for blocks of one handle's pages, each noted as asked; none where a server cannot be reached. -/
def askBlocks (tag t n key kind src : Nat) (seed : Bool) : List (Nat × Nat × Nat) → State → Option State
  | [], s => some s
  | (z, p, b) :: r, s =>
    match askRead t z (readReq s t n key p b kind src seed) s with
    | some s1 => askBlocks tag t n key kind src seed r (modRest tag (fun x => { x with asked := x.asked ++ [(key, p * 512 + b)] }) s1)
    | none => none

/-- A restore or seed ends well once its writes are made: the map to the host, the lineage flag, the result (R409, R410). -/
def restEnd (tag : Nat) (s : State) : State :=
  match restOf s tag, liveRec s tag with
  | some x, some l =>
    if x.phase ≠ 3 ∨ writesWait s tag then s
    else
      let kx := if x.seed then fieldAt l.desc 44 4 else 0
      let bs := (x.map.flatMap (fun e => leB 4 (e.1 ^^^ kx) ++ leB 4 e.2)).take (fieldAt l.desc 40 4)
      let a := fieldAt l.desc 32 8
      let s1 := if a ≠ 0 ∧ hostRangeOk s (tenFn s x.tenant) a bs.length then toHost x.tenant a bs s else s
      let lin := x.lineage || (tenRack s x.tenant).lineage
      done tag stOK 0 (x.step + b2n (if x.seed then (tenRack s x.tenant).lineage else x.lineage) * 2 ^ 48 + min x.map.length 32767 * 2 ^ 49)
        (modTenRack x.tenant (fun y => { y with lineage := lin })
          (modRck (fun r => { r with rests := r.rests.filter (fun y => decide (y.tag ≠ tag)) }) s1))
  | _, _ => s

/-- Writes one stored block of an entry into its handle, as unattached work does (R409). -/
def restWrite (tag t h : Nat) (nar : Bool) (size p b : Nat) (bs : List Byte) (s : State) : State :=
  let u := unpackBlock nar p b bs
  -- a handle's last page holds bytes past the size; a whole block is written (R466)
  if u.1 < size then hWrite tag t none h u.1 u.2 s else s

/-- The entry of a key. -/
def entOf (x : Rest) (key : Nat) : Option (List Byte) := (entries x.entries).find? (fun e => decide (entKey e = key))
/-- Phase 2: asks the owners for every page of a replicated handle this rank does not own (R410). -/
def phase2 (tag : Nat) (s : State) : State :=
  match restOf s tag with
  | none => s
  | some x =>
    let s0 := serveOwed x.tenant (modTenRack x.tenant (fun y => { y with phase1 := some x.step }) (modRest tag (fun y => { y with phase := 2 }) s))
    let r := (entries x.entries).foldl (fun (a : Option State) e =>
      match a, (x.map.find? (fun q => decide (q.1 = entKey e))).bind (fun q => hndRec s q.2) with
      | some s, some h =>
        let ask := ((List.range (pagesOf h.size)).filter (fun p => !ownsPage h p)).flatMap (fun p =>
          (blocksOf h.size p).map (fun b => (rankCoord h (fieldAt e 18 2) (tenCoord s x.tenant) (p % max h.repCount 1), p, b)))
        askBlocks tag x.tenant x.step (entKey e) 0 0 false ask s
      | a, _ => a) (some s0)
    match r with
    | none => restFail tag 0x060A 0 s0
    | some s1 =>
      match restOf s1 tag with
      | some y => if y.asked.isEmpty then restEnd tag (modRest tag (fun y => { y with phase := 3 }) s1) else s1
      | none => s1

/-- The key of R410's RACK_MISMATCH, if one does not match: the lowest. -/
def mismatchKey (s : State) (t : Nat) (es : List (List Byte)) : Option Nat :=
  ((tenHnds s t).filter (fun h => decide (h.2.key ≠ 0) && !h.2.noRack && !h.2.gone && !h.2.reserved
      && !es.any (fun e => decide (entKey e = h.2.key) && decide (entSize e = h.2.size)))).foldl (fun (a : Option Nat) h =>
    match a with
    | none => some h.2.key
    | some k => some (min k h.2.key)) none

/-- A restore that has its entries: the match of R410, the handles, then phase 1. -/
def restoreBegin (tag : Nat) (local_ : Option Slot) (s : State) : State :=
  match restOf s tag with
  | none => s
  | some x =>
    let es := entries x.entries
    match mismatchKey s x.tenant es with
    | some k => restFail tag 0x0607 k s
    | none =>
      match createAll x.tenant 0 es [] [] s with
      | .inl d => done tag stNO_SPACE d 0 (modRck (fun r => { r with rests := r.rests.filter (fun y => decide (y.tag ≠ tag)) }) s)
      | .inr none => startDemotion (wantedMove x.tenant 0 es s) s
      | .inr (some (m, c, s1)) =>
        let s2 := modRest tag (fun y => { y with map := m, created := c, phase := 1 }) s1
        match local_ with
        | some sl =>
          phase2 tag (forS sl.blks (fun b s =>
            match m.find? (fun q => decide (q.1 = b.key)), (es.find? (fun e => decide (entKey e = b.key))) with
            | some q, some e => restWrite tag x.tenant q.2 (entNarrow e) (entSize e) b.page b.block b.bytes s
            | _, _ => s) s2)
        | none =>
          let r := es.foldl (fun (a : Option State) e =>
            match a with
            | some s =>
              let h := entHnd x.tenant (entKey e) e
              askBlocks tag x.tenant x.step (entKey e) x.kind x.src false
                ((rackedPages h).flatMap (fun p => (packedBlocks (entNarrow e) h.size p).map (fun b => (x.donor, p, b)))) s
            | none => none) (some s2)
          match r with
          | none => restFail tag 0x060A 0 s2
          | some s3 =>
            match restOf s3 tag with
            | some y => if y.asked.isEmpty then phase2 tag s3 else s3
            | none => s3

/-- Present coordinates of a replica group of an entry of `src`, without src (R412). -/
def otherRanks (s : State) (t src : Nat) (e : List Byte) : List Nat :=
  match bindOf s t with
  | none => []
  | some b =>
    let h := entHnd t 0 e
    ((List.range h.repCount).map (replicaAt h h.stride src)).filterMap (fun c =>
      if 0 ≤ c ∧ c.toNat ≠ src ∧ memberAt (bindRec s b).members c.toNat then some c.toNat else none)
/-- The first entry a seed cannot cover. -/
def uncovered (s : State) (t src : Nat) (skip : Bool) (es : List (List Byte)) : Option Nat :=
  (es.find? (fun e => (!entGraft e && !entRep e) || (entRep e && !skip && (otherRanks s t src e).isEmpty))).map entKey
/-- The lowest of a list. -/
def lowest (l : List Nat) : Nat := l.foldl min (l.headD 0)
/-- A seed that has its entries: the checks of R412, the handles, and the reads of their blocks. -/
def seedBegin (tag : Nat) (s : State) : State :=
  match restOf s tag, liveRec s tag with
  | some x, some l =>
    let t := x.tenant
    let skip := bitOf (fieldAt l.desc 16 1) 3
    let kx := fieldAt l.desc 44 4
    let es := entries x.entries
    let seeded := es.filter (fun e => !(entRep e && skip))
    match uncovered s t x.src skip es with
    | some k => restFail tag 0x060B k s
    | none =>
      if (tstep s t).st = .recover ∧ (tstep s t).drawn ≠ some x.step then restFail tag 0x060C 0 s
      else if seeded.any (fun e => (hndByKey s t (entKey e ^^^ kx)).isSome) then restFail tag 0x0602 0 s
      else
        match createAll t kx seeded [] [] s with
        | .inl d => done tag stNO_SPACE d 0 (modRck (fun r => { r with rests := r.rests.filter (fun y => decide (y.tag ≠ tag)) }) s)
        | .inr none => startDemotion (wantedMove t kx seeded s) s
        | .inr (some (m, c, s1)) =>
          let s2 := modRest tag (fun y => { y with map := m, created := c, phase := 1 }) s1
          let r := seeded.foldl (fun (a : Option State) e =>
            match a with
            | some s =>
              let z := if entGraft e then x.donor else lowest (otherRanks s t x.src e)
              askBlocks tag t x.step (entKey e) (if entGraft e then 3 else 0) x.src true
                ((List.range (pagesOf (entSize e))).flatMap (fun p => (blocksOf (entSize e) p).map (fun b => (z, p, b)))) s
            | none => none) (some s2)
          match r with
          | none => restFail tag 0x060A 0 s2
          | some s3 =>
            match restOf s3 tag with
            | some y => if y.asked.isEmpty then restEnd tag (modRest tag (fun y => { y with phase := 3 }) s3) else s3
            | none => s3
  | _, _ => s

/-- A restore or seed runs: not in RUN, and in RECOVER once the write-back is done (R409). -/
def restGate (tag t : Nat) (f : State → State) (s : State) : State :=
  if (tstep s t).st = .run then done tag 0x0604 0 0 s
  else if (tstep s t).restoring then modLive tag (fun l => { l with stage := .promo }) s
  else f (modLive tag (fun l => { l with stage := .running, step := none }) s)
/-- Asks a donor for the entries. -/
def askEntries (tag : Nat) (x : Rest) (s : State) : State :=
  let s1 := modRck (fun r => { r with rests := r.rests ++ [{ x with asked := [(0, 0)] }] }) s
  match askRead x.tenant x.donor (readReq s x.tenant x.step 0 0 0 x.kind x.src x.seed) s1 with
  | some s2 => s2
  | none => restFail tag 0x060A 0 s1
/-- RACK_RESTORE finds its rack (R410). -/
def restoreGo (tag : Nat) (l : Live) (s : State) : State :=
  let t := liveTen l
  let d := l.desc
  let n := fieldAt d 24 6
  let x : Rest := { tag := tag, tenant := t, seed := false, step := n }
  match bitsOf (fieldAt d 16 1) 1 0 with
  | 0 =>
    let sl := slotAt s (b2n (bitOf (fieldAt d 16 1) 2))
    if sl.st = 2 ∧ sl.step = n ∧ sl.parcel = tenParcel s t ∧ sl.kid = (bindOf s t).bind (keyId s) then
      restoreBegin tag (some sl) (modRck (fun r => { r with rests := r.rests ++ [{ x with
        entries := sl.manifest.drop 128, lineage := sl.lineage, kind := 8 }] }) s)
    else done tag 0x0608 0 0 s
  | 1 => askEntries tag { x with kind := 1, src := fieldAt d 18 2, donor := fieldAt d 20 2 } s
  | 2 => askEntries tag { x with kind := 2, donor := fieldAt d 20 2 } s
  | _ => done tag stBAD_FIELD 16 0 s
/-- RACK_SEED asks the donor (R412). -/
def seedGo (tag : Nat) (l : Live) (s : State) : State :=
  askEntries tag { tag := tag, tenant := liveTen l, seed := true, step := 0, kind := 3, src := fieldAt l.desc 18 2, donor := fieldAt l.desc 20 2 } s

/-- A started restore or seed goes on where it waited: for RESTORE_DONE, for pages, for its last writes. -/
def restAgain (tag : Nat) (l : Live) (go : Nat → Live → State → State) (s : State) : State :=
  match restOf s tag with
  | none => if l.stage = .promo then restGate tag (liveTen l) (go tag l) s else s
  | some x =>
    if x.phase = 3 then restEnd tag s
    else if x.phase = 0 ∧ x.asked.isEmpty then
      if x.seed then seedBegin tag s
      else restoreBegin tag (if x.kind = 8 then some (slotAt s (b2n (bitOf (fieldAt l.desc 16 1) 2))) else none) s
    else s
/-- A restore or seed: its start, and again once what it waits for is over. -/
def restCmd (tag op : Nat) (go : Nat → Live → State → State) (s : State) : State :=
  match liveRec s tag with
  | none => s
  | some l =>
    if opcodeOf l.desc = op ∧ (l.stage = .running ∨ l.stage = .promo) ∧ nclkOn s then restAgain tag l go s
    else startDesc tag op (restGate tag (liveTen l) (go tag l)) s
/-- RACK_RESTORE. -/
def execRackRestore (tag : Nat) (s : State) : Answer := .next (restCmd tag 0x62 restoreGo s)
/-- RACK_SEED. -/
def execRackSeed (tag : Nat) (s : State) : Answer := .next (restCmd tag 0x63 seedGo s)

/-- READ_DATA at the asker: entries, or a block that is checked and written (R410, R412, R470). -/
def takeRead (t : Nat) (m : List Byte) (s : State) : State :=
  let key := fieldAt m 12 4
  let at_ := fieldAt m 16 4 * 512 + fieldAt m 20 2
  let st := fieldAt m 31 1
  match s.rck.rests.find? (fun x => decide (x.tenant = t) && x.asked.contains (key, at_)) with
  | none => s
  | some x =>
    let s1 := modRest x.tag (fun y => { y with asked := y.asked.erase (key, at_) }) s
    if st = 2 then restFail x.tag 0x060D 0 s1
    else if st ≠ 0 then restFail x.tag 0x0608 0 s1
    else if key = 0 ∧ x.phase = 0 then
      let s2 := modRest x.tag (fun y => { y with
        entries := (entries (m.drop 32)).flatMap (fun e => e), step := if y.seed then fieldAt m 4 6 else y.step, lineage := bitOf (fieldAt m 24 1) 0 }) s1
      if x.seed then seedBegin x.tag s2 else restoreBegin x.tag none s2
    else
      match checkedBlocks 1 (fieldAt m 20 2) (m.drop 32), x.map.find? (fun q => decide (q.1 = key)), entOf x key with
      | some [(b, bs)], some q, some e =>
        let nar := entNarrow e && decide (x.phase = 1) && !x.seed
        let s2 := restWrite x.tag t q.2 nar (entSize e) (fieldAt m 16 4) b bs s1
        match restOf s2 x.tag with
        | some y =>
          if y.asked.isEmpty then
            if x.phase = 1 ∧ ¬ x.seed then phase2 x.tag s2 else restEnd x.tag (modRest x.tag (fun y => { y with phase := 3 }) s2)
          else s2
        | none => s2
      | none, _, _ => restFail x.tag 0x0609 0 (checkFail t 6 key s1)
      | _, _, _ => s1
/-- READ_DATA. -/
def execGraftReadData (i : Nat) (s : State) : Answer :=
  .next (match inboxAt s i 0x27 with
    | some m => takeRead (bindTen s m.1) m.2 (dropInbox i s)
    | none => s)
/-- RESTORE_READ_TIMEOUT: 10 s have passed with a read of the descriptor unanswered (R410). -/
def execRestoreReadTimeout (tag : Nat) (s : State) : Answer :=
  .next (match restOf s tag with
    | some x => if x.asked.isEmpty ∨ ¬ nclkOn s then s else restFail tag 0x060A 0 s
    | none => s)

end Sys2Proof.Machine
end

