-- ==== Sys2Proof/Machine/Coll.lean ====
section
/-!
DEFINITION. Machine/Coll.lean: collectives and in-link exact reduction (R311 to R337): the checks of a descriptor, groups and
owners, the four stages of an all-reduce, the other opcodes, and the messages of Table 08.5.
-/
namespace Sys2Proof.Machine

/-! ## Payload (Table 08.2) and its checks (R313 to R316) -/

def cSrc (d : List Byte) : Nat := fieldAt d 16 3
def cIn (d : List Byte) : Option Kind := kindOf (fieldAt d 19 1)
def cSrcOff (d : List Byte) : Nat := fieldAt d 20 6
def cAcc (d : List Byte) : Option Kind := kindOf (fieldAt d 26 1)
def cOp (d : List Byte) : Nat := bitsOf (fieldAt d 27 1) 1 0
def cRnd (d : List Byte) : Nat := bitsOf (fieldAt d 27 1) 3 2
def cDst (d : List Byte) : Nat := fieldAt d 28 3
def cOut (d : List Byte) : Option Kind := kindOf (fieldAt d 31 1)
def cDstOff (d : List Byte) : Nat := fieldAt d 32 6
def cCount (d : List Byte) : Nat := fieldAt d 40 4
def cId (d : List Byte) : Nat := fieldAt d 44 4
def cRoot (d : List Byte) : Nat := fieldAt d 52 2
/-- Bytes of an element of a kind. -/
def kindBytes (k : Option Kind) : Nat := (k.map Kind.bytes).getD 0

/-- The digest of R317. -/
def cDigest (op : Nat) (d : List Byte) : Nat :=
  (crc32c (leB 1 op ++ (d.drop 19).take 1 ++ (d.drop 26).take 2 ++ (d.drop 31).take 1 ++ (d.drop 38).take 1 ++ (d.drop 40).take 4
    ++ (d.drop 48).take 16)).toNat

/-- The accumulators an input kind may enter (Table 08.3). -/
def accOk (i a : Kind) (count : Nat) : Bool :=
  match i, a with
  | .int8, .brl16 => true
  | .int32, .brl16 => true
  | .e4m3, .brl16 => true
  | .e4m3, .brl32 => true
  | .e5m2, .brl16 => true
  | .e5m2, .brl32 => true
  | .fp16, .brl16 => true
  | .fp16, .brl32 => true
  | .bf16, .brl32 => true
  | .fp32, .brl32 => true
  | .fp32, .brl64 => true
  | .fp64, .brl64 => decide (count ≤ 1048576)
  | .fp64, .cuvee => true
  | .brl16, .brl16 => true
  | .brl32, .brl32 => true
  | .brl64, .brl64 => true
  | .cuvee, .cuvee => true
  | _, _ => false
/-- COLL_KIND of R314, R315 and R330: the byte offset of the offending field. -/
def kindFault (op : Nat) (d : List Byte) : Option Nat :=
  match cIn d with
  | none => some 19
  | some i =>
    if op = 0x43 then none
    else if op = 0x42 then if cOut d = some i then none else some 31
    else if cOp d = 0 then
      match cAcc d with
      | none => some 26
      | some a =>
        if ¬ accOk i a (cCount d) then some 26
        else
          match cOut d with
          | none => some 31
          | some o => if o = a ∨ convPermitted a o (cRnd d) then none else some 31
    else if i.isSum then some 19
    else if cOut d = some i then none else some 31

/-- Present members of the binding, in ascending coordinate: rank k at place k. -/
def cMembers (s : State) (b : Nat) : List Nat := presentOf (bindRec s b).members
/-- First element of rank k's share of n elements among p. -/
def shareLo (n p k : Nat) : Nat := n * k / (max p 1)
def rankOf (s : State) (b x : Nat) : Nat := ((cMembers s b).findIdx? (fun z => decide (z = x))).getD 0
/-- Elements an opcode writes at this member (Table 08.6). -/
def outElems (s : State) (b op : Nat) (d : List Byte) : Nat :=
  let p := (cMembers s b).length
  let k := rankOf s b (bindCoord s b)
  if op = 0x41 then shareLo (cCount d) p (k + 1) - shareLo (cCount d) p k
  else if op = 0x42 then p * cCount d
  else if op = 0x44 then 0
  else cCount d

/-- The first failing check of R316, as (status, detail). -/
def collFault (s : State) (t op : Nat) (d : List Byte) : Option (Nat × Nat) :=
  let b? := bindOf s t
  let ready : Bool := match b? with | some b => (bindRec s b).ready | none => false
  let noRoot : Bool := match b? with | some b => !memberAt (bindRec s b).members (cRoot d) | none => false
  let busy := s.col.colls.any (fun x => decide (some x.bind = b?) && decide (x.id = cId d))
  let last : Option (Nat × Nat) := if !ready then some (0x0402, 0) else if busy then some (0x0405, 0) else none
  if op = 0x44 then last
  else if (op = 0x40 ∨ op = 0x41) ∧ (cOp d = 3 ∨ cRnd d = 3) then some (stBAD_FIELD, 27)
  else if cCount d = 0 then some (stBAD_FIELD, 40)
  else if op = 0x43 ∧ noRoot then some (stBAD_FIELD, 52)
  else
    match kindFault op d with
    | some k => some (0x0401, k)
    | none =>
      if ¬ hndOk s t (cSrc d) ∨ ¬ hndOk s t (cDst d) then some (stBAD_HANDLE, 0)
      else if hndSize s (cSrc d) < cSrcOff d + cCount d * kindBytes (cIn d) then some (0x0400, 20)
      else
        let w := if op = 0x42 ∨ op = 0x43 then kindBytes (cIn d) else kindBytes (cOut d)
        if (match b? with | some b => decide (hndSize s (cDst d) < cDstOff d + outElems s b op d * w) | none => false) then some (0x0400, 32)
        else last

/-! ## Groups and owners (R321, R322) -/

def cLc (s : State) (b : Nat) : Nat := min (bindSplitT s b).l 6
/-- Neighbourhood number of a coordinate, and its local coordinate. -/
def nbhOf (s : State) (b x : Nat) : Nat := x / 2 ^ cLc s b
def locOf (s : State) (b x : Nat) : Nat := x % 2 ^ cLc s b
def nbhMembers (s : State) (b k : Nat) : List Nat := (cMembers s b).filter (fun z => decide (nbhOf s b z = k))
/-- Numbers of the neighbourhoods with a present member, ascending. -/
def nbhs (s : State) (b : Nat) : List Nat := ((cMembers s b).map (nbhOf s b)).eraseDups
/-- The owner of block q in neighbourhood k. -/
def ownerOf (s : State) (b k q : Nat) : Nat :=
  ((nbhMembers s b k).foldl (fun (a : Option Nat) z =>
    match a with
    | none => some z
    | some w => if bitDiff (locOf s b z) q < bitDiff (locOf s b w) q then some z else some w) none).getD 0
/-- Element bounds of block q, and of sub-block h of it among n. -/
def blockLo (s : State) (b count q : Nat) : Nat := count * q / 2 ^ cLc s b
def subLo (s : State) (b count q n h : Nat) : Nat :=
  let lo := blockLo s b count q
  lo + (blockLo s b count (q + 1) - lo) * h / max n 1
/-- Blocks this module owns. -/
def ownBlocks (s : State) (b : Nat) : List Nat :=
  (List.range (2 ^ cLc s b)).filter (fun q => decide (ownerOf s b (nbhOf s b (bindCoord s b)) q = bindCoord s b))
/-- The block of an element. -/
def collBlock (s : State) (b count e : Nat) : Nat :=
  ((List.range (2 ^ cLc s b)).find? (fun q => decide (blockLo s b count q ≤ e) && decide (e < blockLo s b count (q + 1)))).getD 0
/-- Place of an element in this module's owned range, and its engine (R323). -/
def ownedPos (s : State) (b count e : Nat) : Nat :=
  let q := collBlock s b count e
  (((ownBlocks s b).filter (fun r => decide (r < q))).map (fun r => blockLo s b count (r + 1) - blockLo s b count r)).sum
    + (e - blockLo s b count q)
def engineOf (s : State) (b count e : Nat) : Nat := ownedPos s b count e / 1024 % 16

/-! ## Messages (R328, Table 08.5) -/

def splitElems (w : Nat) : Nat → List Byte → List (List Byte)
  | 0, _ => []
  | n + 1, bs => bs.take w :: splitElems w n (bs.drop w)
/-- Packs elements into messages of at most 64 flits: (first element, count, bytes). -/
def packElems : List (List Byte) → Nat → Nat × Nat × List Byte → List (Nat × Nat × List Byte)
  | [], _, cur => if cur.2.1 = 0 then [] else [cur]
  | e :: r, i, cur =>
    if cur.2.1 = 0 then packElems r (i + 1) (i, 1, e)
    else if 16352 < cur.2.2.length + e.length then cur :: packElems r (i + 1) (i, 1, e)
    else packElems r (i + 1) (cur.1, cur.2.1 + 1, cur.2.2 ++ e)

def collHead (s : State) (x : Coll) (msg kind first elems : Nat) : List Byte :=
  leB 1 msg ++ leB 1 kind ++ leB 2 (bindCoord s x.bind) ++ leB 4 x.id ++ leB 6 (x.step.getD 0) ++ zeros 2 ++ leB 6 first ++ zeros 2
    ++ leB 4 elems ++ leB 4 x.digest
/-- Sends elements from index `first` on to a member. -/
def sendElems (x : Coll) (msg kind dest first : Nat) (es : List (List Byte)) (s : State) : State :=
  forS (packElems es first (0, 0, [])) (fun m s => sendTo x.bind x.cls dest (collHead s x msg kind m.1 m.2.1 ++ m.2.2) s) s

/-! ## Accumulators (R214, R219, R315, R325) -/

/-- Value of the trimmed wire form of a Barrel (R216) and the bytes it takes. -/
def BrlFmt.untrim (bs : List Byte) : Barrel × Nat :=
  let lo := fieldAt bs 0 1
  let n := fieldAt bs 1 1
  if n = 0xFF then
    (⟨match lo with | 1 => .pinf | 2 => .ninf | 4 => .range | _ => .nan, 0⟩, 2)
  else (⟨.finite, toSigned (16 * n) (fieldAt bs 2 (2 * n)) * 2 ^ (16 * lo)⟩, 2 + 2 * n)

/-- The order of R315: −0 below +0. -/
def valLess (a b : Val) : Bool :=
  match a, b with
  | .inf true, .inf true => false
  | .inf true, _ => true
  | _, .inf true => false
  | .inf false, _ => false
  | _, .inf false => true
  | .fin n m e, .fin p k f =>
    let q := min e f
    let x := signedOn n m e q
    let y := signedOn p k f q
    if x = y then n && !p else decide (x < y)
  | _, _ => false
/-- The canonical NaN of a kind. -/
def kindNan (k : Kind) : List Byte := leB k.bytes ((k.fp.map FpFmt.nanBits).getD 0)
/-- The largest or smallest of contributions; NaN when one is (R315). -/
def pickElem (k : Kind) (max_ : Bool) (l : List (List Byte)) : List Byte :=
  if l.any (fun b => decide ((readKind k b).2.1 = .nan)) then kindNan k
  else
    l.foldl (fun a b =>
      let x := (readKind k a).2.1
      let y := (readKind k b).2.1
      if (if max_ then valLess x y else valLess y x) then b else a) (l.headD [])
/-- An input element as a memory-form accumulator, with the flags its reading sets. -/
def toAcc (i a : Kind) (b : List Byte) : List Byte × AFlags :=
  match a.brl with
  | some f =>
    if i = a then (f.toBytes (f.ofBytes b).1, (f.ofBytes b).2) else (f.toBytes (f.ofVal (readKind i b).2.1), (readKind i b).2.2)
  | none =>
    if i = a then ((Cuvee.ofBytes b).1.toBytes, (Cuvee.ofBytes b).2) else ((Cuvee.ofVal (readKind i b).2.1).toBytes, (readKind i b).2.2)
/-- Adds memory-form accumulators. -/
def addAccs (a : Kind) (l : List (List Byte)) : List Byte :=
  match a.brl with
  | some f => f.toBytes (f.sum (l.map (fun b => (f.ofBytes b).1)))
  | none => (Cuvee.sum (l.map (fun b => (Cuvee.ofBytes b).1))).toBytes
/-- The accumulator of one element from its contributions, with the flags their reading sets. -/
def accumulate (d : List Byte) (l : List (List Byte)) : List Byte × AFlags :=
  match cIn d, cAcc d with
  | some i, some a =>
    if cOp d = 0 then (addAccs a (l.map (fun b => (toAcc i a b).1)), l.foldl (fun f b => f.or (toAcc i a b).2) {})
    else (pickElem i (decide (cOp d = 1)) l, {})
  | some i, none => (pickElem i (decide (cOp d = 1)) l, {})
  | none, _ => ([], {})
/-- Combines accumulators of one element. -/
def combine (d : List Byte) (l : List (List Byte)) : List Byte :=
  if cOp d = 0 then (match cAcc d with | some a => addAccs a l | none => [])
  else (match cIn d with | some i => pickElem i (decide (cOp d = 1)) l | none => [])
/-- Wire form of an accumulator in stage 2 (Table 08.4). -/
def toWire (d : List Byte) (acc : List Byte) : List Byte :=
  if cOp d = 0 then
    match (cAcc d).bind Kind.brl with
    | some f => f.trim (f.ofBytes acc).1
    | none => acc
  else acc
/-- Reads n accumulators of the wire form. -/
def fromWire (d : List Byte) : Nat → List Byte → List (List Byte)
  | 0, _ => []
  | n + 1, bs =>
    match (if cOp d = 0 then (cAcc d).bind Kind.brl else none) with
    | some f => f.toBytes (BrlFmt.untrim bs).1 :: fromWire d n (bs.drop (BrlFmt.untrim bs).2)
    | none =>
      let w := if cOp d = 0 then 25 else kindBytes (cIn d)
      bs.take w :: fromWire d n (bs.drop w)
/-- Rounds element e once (R205, R215, R220, R333); an accumulator delivered as it is is not rounded. -/
def roundElem (d : List Byte) (e : Nat) (acc : List Byte) : List Byte × AFlags :=
  if cOp d ≠ 0 then
    (acc, match cIn d with | some i => { nanIn := decide ((readKind i acc).2.1 = .nan) } | none => {})
  else
    match cAcc d, cOut d with
    | some a, some o =>
      if a = o then (acc, {})
      else
        let mode := match cRnd d with
          | 0 => Rnd.rne
          | 1 => Rnd.rtz
          | _ => Rnd.sr (srBits (fieldAt d 56 8) (fieldAt d 48 4) e (fieldAt d 38 1))
        convertElem a o mode acc
    | _, _ => (acc, {})

/-! ## Trees (R327) -/

/-- Order in which part d crosses the dimensions, by position. -/
def treeDim (lc d j : Nat) : Nat := (d + j) % max lc 1
/-- Tree children of local coordinate c from position j on; a vacant child's own children take its place (DESIGN CHOICE,
log 76). -/
def treeKids (here : Nat → Bool) (lc d c : Nat) : Nat → Nat → List Nat
  | 0, _ => []
  | n + 1, j =>
    let z := c ^^^ 2 ^ treeDim lc d j
    (if here z then [z] else treeKids here lc d z n (j + 1)) ++ treeKids here lc d c n (j + 1)
/-- Position after the last dimension in which c differs from the root. -/
def treePos (lc d c root : Nat) : Nat :=
  (List.range lc).foldl (fun a j => if bitOf (c ^^^ root) (treeDim lc d j) then j + 1 else a) 0
/-- The coordinates this member forwards part d of a root's data to. -/
def forwardTo (s : State) (b root d : Nat) : List Nat :=
  let lc := cLc s b
  let k := nbhOf s b (bindCoord s b)
  let c := locOf s b (bindCoord s b)
  let here := fun z => memberAt (bindRec s b).members (k * 2 ^ lc + z)
  let j := treePos lc d c (locOf s b root)
  (treeKids here lc d c (lc - j) j).map (fun z => k * 2 ^ lc + z)
/-- Bounds of part d of n elements. -/
def partLo (lc n d : Nat) : Nat := n * d / max lc 1
def partOf (lc n i : Nat) : Nat := ((List.range lc).find? (fun d => decide (partLo lc n d ≤ i) && decide (i < partLo lc n (d + 1)))).getD 0
/-- The root of a gathered element, the index where its range starts, and the range's length. -/
def gatherRoot (s : State) (x : Coll) (first : Nat) : Nat × Nat × Nat :=
  let n := cCount x.desc
  if x.opcode = 0x42 then ((cMembers s x.bind).getD (first / n) 0, first / n * n, n)
  else if x.opcode = 0x43 then (cRoot x.desc, 0, n)
  else
    let q := collBlock s x.bind n first
    (ownerOf s x.bind (nbhOf s x.bind (bindCoord s x.bind)) q, blockLo s x.bind n q, blockLo s x.bind n (q + 1) - blockLo s x.bind n q)
/-- Sends elements of a range this member roots (the range from `base` of `total` elements, the elements from `lo` on), part by part,
along its trees. -/
def gatherOut (x : Coll) (kind first total lo : Nat) (es : List (List Byte)) (s : State) : State :=
  let lc := cLc s x.bind
  forS (List.range lc) (fun d s =>
    let a := max lo (first + partLo lc total d)
    let z := min (lo + es.length) (first + partLo lc total (d + 1))
    forS (forwardTo s x.bind (bindCoord s x.bind) d) (fun y => sendElems x 4 kind y a ((es.drop (a - lo)).take (z - a))) s) s

/-! ## Running a collective -/

def collAt (s : State) (tag : Nat) : Option Coll := s.col.colls.find? (fun x => decide (x.tag = tag))
def modColl (tag : Nat) (f : Coll → Coll) (s : State) : State :=
  modCol (fun c => { c with colls := c.colls.map (fun x => if x.tag = tag then f x else x) }) s
/-- Element e of a list of (first, elements) pieces. -/
def pieceAt (l : List (Nat × List (List Byte))) (e : Nat) : List Byte :=
  match l.find? (fun p => decide (p.1 ≤ e) && decide (e < p.1 + p.2.length)) with
  | some p => p.2.getD (e - p.1) []
  | none => []
/-- The pieces cover a range of elements. -/
def covers (l : List (Nat × List (List Byte))) (lo hi : Nat) : Bool :=
  decide (hi - lo ≤ (l.map (fun p => min hi (p.1 + p.2.length) - max lo p.1)).sum)
def fromSender (l : List (Nat × Nat × List (List Byte))) (z : Nat) : List (Nat × List (List Byte)) :=
  (l.filter (fun p => decide (p.1 = z))).map (fun p => (p.2.1, p.2.2))
def outKind (x : Coll) : Nat := if x.opcode = 0x42 ∨ x.opcode = 0x43 then fieldAt x.desc 19 1 else fieldAt x.desc 31 1

/-- Writes result elements to dst_handle where this member's output holds them (R329, Table 08.6). One that would read a poisoned line
runs the fault path, and the collective cannot complete with success (R465). -/
def writeResults (x : Coll) (first : Nat) (es : List (List Byte)) (s : State) : State :=
  let t := bindTen s x.bind
  let w := if x.opcode = 0x42 ∨ x.opcode = 0x43 then kindBytes (cIn x.desc) else kindBytes (cOut x.desc)
  let p := (cMembers s x.bind).length
  let k := rankOf s x.bind (bindCoord s x.bind)
  let lo := if x.opcode = 0x41 then shareLo (cCount x.desc) p k else 0
  let hi := lo + outElems s x.bind x.opcode x.desc
  let es1 := (es.take (hi - first)).drop (lo - first)
  let off := cDstOff x.desc + (max first lo - lo) * w
  let bs := es1.flatMap (fun e => e)
  if bs.isEmpty then s
  else
    match (rmwPoison s (cDst x.desc) off bs.length).head? with
    | some a => poisonFault (modColl x.tag (fun y => { y with bad := true }) s) (cDst x.desc) (a / 0x200000)
    | none => hWrite x.tag t x.step (cDst x.desc) off bs s
/-- Results reach this member: kept and written. -/
def addResults (tag first : Nat) (es : List (List Byte)) (s : State) : State :=
  match collAt s tag with
  | none => s
  | some x => writeResults x first es (modColl tag (fun y => { y with results := y.results ++ [(first, es)] }) s)

/-- Rounds the elements lo to hi of accumulators (with the flags their reading set) and makes them results. -/
def roundRange (tag lo : Nat) (accs : List (List Byte × AFlags)) (s : State) : State × List (List Byte) :=
  match collAt s tag with
  | none => (s, [])
  | some x =>
    let rs := accs.zipIdx.map (fun p => ((roundElem x.desc (lo + p.2) p.1.1), p.1.2))
    let fl := rs.foldl (fun (f : AFlags) r => f.or (r.1.2.or r.2)) {}
    let es := rs.map (fun r => r.1.1)
    let s1 := modColl tag (fun y => { y with flags := y.flags ||| fl.toByte.toNat, rounded := y.rounded + es.length }) s
    let s2 := forS (List.range es.length) (fun i s =>
      let g := engineOf s x.bind (cCount x.desc) (lo + i)
      modCol (fun c => { c with engRound := Map.set 0 c.engRound g (satAdd 32 (Map.get 0 c.engRound g) 1) }) s) s1
    (addResults tag lo es s2, es)

/-- Sends rounded elements of REDUCE_SCATTER to the members whose shares hold them (R330). -/
def toShares (x : Coll) (lo : Nat) (es : List (List Byte)) (s : State) : State :=
  let ms := cMembers s x.bind
  forS ms.zipIdx (fun m s =>
    let a := max lo (shareLo (cCount x.desc) ms.length m.2)
    let z := min (lo + es.length) (shareLo (cCount x.desc) ms.length (m.2 + 1))
    if m.1 ≠ bindCoord s x.bind ∧ a < z then sendElems x 4 (outKind x) m.1 a ((es.drop (a - lo)).take (z - a)) s else s) s

/-- Elements lo to hi of the accumulators of this neighbourhood, from the contributions. -/
def sumRange (s : State) (x : Coll) (lo hi : Nat) : List (List Byte × AFlags) :=
  let ms := nbhMembers s x.bind (nbhOf s x.bind (bindCoord s x.bind))
  let w := kindBytes (cIn x.desc)
  (List.range (hi - lo)).map (fun i =>
    accumulate x.desc (ms.map (fun z => if z = bindCoord s x.bind then (x.own.drop ((lo + i) * w)).take w else pieceAt (fromSender x.contribs z) (lo + i))))

/-- Elements of a segment of an owner's range, over its sixteen engines (R324). -/
def segSize (x : Coll) : Nat := if cAcc x.desc = some .brl64 ∧ cOp x.desc = 0 then 32768 else 262144
/-- The segment of an element this member owns. -/
def segOf (s : State) (x : Coll) (e : Nat) : Nat := ownedPos s x.bind (cCount x.desc) e / segSize x
/-- The pieces of the owned range, each of one block and one segment, as (block, first element, end) (R324, R326). -/
def ownPieces (s : State) (x : Coll) : List (Nat × Nat × Nat) :=
  (ownBlocks s x.bind).flatMap (fun q =>
    let lo := blockLo s x.bind (cCount x.desc) q
    let hi := blockLo s x.bind (cCount x.desc) (q + 1)
    let at_ := ownedPos s x.bind (cCount x.desc) lo
    (List.range ((hi - lo) / segSize x + 2)).filterMap (fun i =>
      let a := max at_ ((at_ / segSize x + i) * segSize x)
      let z := min (at_ + (hi - lo)) ((at_ / segSize x + i + 1) * segSize x)
      if a < z then some (q, lo + (a - at_), lo + (z - at_)) else none))
/-- Every contribution of this neighbourhood to elements lo to hi has arrived. -/
def stage1Done (s : State) (x : Coll) (lo hi : Nat) : Bool :=
  (nbhMembers s x.bind (nbhOf s x.bind (bindCoord s x.bind))).all (fun z => decide (z = bindCoord s x.bind) ||
    covers (fromSender x.contribs z) lo hi)
/-- The part of a piece of block q that lies in the sub-block this member rounds. -/
def ownSub (s : State) (x : Coll) (q lo hi : Nat) : Nat × Nat :=
  let ns := nbhs s x.bind
  let h := (ns.findIdx? (fun k => decide (k = nbhOf s x.bind (bindCoord s x.bind)))).getD 0
  (max lo (subLo s x.bind (cCount x.desc) q ns.length h), min hi (subLo s x.bind (cCount x.desc) q ns.length (h + 1)))
/-- Every partial of this member's part of a piece has arrived. -/
def stage2Done (s : State) (x : Coll) (q lo hi : Nat) : Bool :=
  (nbhs s x.bind).all (fun k => decide (k = nbhOf s x.bind (bindCoord s x.bind)) ||
    covers (fromSender x.partials (ownerOf s x.bind k q)) (ownSub s x q lo hi).1 (ownSub s x q lo hi).2)

/-- A piece ends stage 1: its accumulators go to the sub-block owners of the other neighbourhoods, or it is rounded here where there
is one neighbourhood (R326). -/
def endStage1 (tag q lo hi : Nat) (s : State) : State :=
  match collAt s tag with
  | none => s
  | some x =>
    let n := cCount x.desc
    let ns := nbhs s x.bind
    let s1 := modColl tag (fun y => { y with stage1 := y.stage1 ++ [lo] }) s
    if ns.length ≤ 1 then
      let r := roundRange tag lo (sumRange s x lo hi) s1
      let s2 := modColl tag (fun y => { y with stage2 := y.stage2 ++ [lo] }) r.1
      if x.opcode = 0x41 then toShares x lo r.2 s2 else s2
    else
      forS ns.zipIdx (fun k s =>
        if k.1 = nbhOf s x.bind (bindCoord s x.bind) then s
        else
          let a := max lo (subLo s x.bind n q ns.length k.2)
          let z := min hi (subLo s x.bind n q ns.length (k.2 + 1))
          sendElems x 2 (if cOp x.desc = 0 then fieldAt x.desc 26 1 else fieldAt x.desc 19 1) (ownerOf s x.bind k.1 q) a
            ((sumRange s x a z).map (fun a => toWire x.desc a.1)) s) s1
/-- A piece ends stage 2: this member's part of it is rounded, and its results go out (R326 stage 3, R330). -/
def endStage2 (tag q lo hi : Nat) (s : State) : State :=
  match collAt s tag with
  | none => s
  | some x =>
    let sub := ownSub s x q lo hi
    let ns := (nbhs s x.bind).filter (fun k => decide (k ≠ nbhOf s x.bind (bindCoord s x.bind)))
    let accs := (sumRange s x sub.1 sub.2).zipIdx.map (fun p =>
      (combine x.desc (p.1.1 :: ns.map (fun k => pieceAt (fromSender x.partials (ownerOf s x.bind k q)) (sub.1 + p.2))), p.1.2))
    let r := roundRange tag sub.1 accs (modColl tag (fun y => { y with stage2 := y.stage2 ++ [lo] }) s)
    let s1 := forS ns (fun k s => sendElems x 3 (outKind x) (ownerOf s x.bind k q) sub.1 r.2 s) r.1
    if x.opcode = 0x41 then toShares x sub.1 r.2 s1 else s1
/-- A piece ends stage 3: the owner gathers it in its neighbourhood (R326 stage 4, R327). -/
def endStage3 (tag q lo hi : Nat) (s : State) : State :=
  match collAt s tag with
  | none => s
  | some x =>
    let a := blockLo s x.bind (cCount x.desc) q
    gatherOut x (outKind x) a (blockLo s x.bind (cCount x.desc) (q + 1) - a) lo ((List.range (hi - lo)).map (fun i => pieceAt x.results (lo + i)))
      (modColl tag (fun y => { y with stage4 := y.stage4 ++ [lo] }) s)
/-- Carries one piece of a reduction as far as what has arrived allows. -/
def runPiece (tag : Nat) (p : Nat × Nat × Nat) (s : State) : State :=
  let go (want : Coll → Bool) (f : State → State) (s : State) : State :=
    match collAt s tag with
    | some x => if want x then f s else s
    | none => s
  let s1 := go (fun x => !memb p.2.1 x.stage1 && stage1Done s x p.2.1 p.2.2) (endStage1 tag p.1 p.2.1 p.2.2) s
  let s2 := go (fun x => memb p.2.1 x.stage1 && !memb p.2.1 x.stage2 && stage2Done s1 x p.1 p.2.1 p.2.2) (endStage2 tag p.1 p.2.1 p.2.2) s1
  go (fun x => decide (x.opcode = 0x40) && memb p.2.1 x.stage2 && !memb p.2.1 x.stage4 && covers x.results p.2.1 p.2.2)
    (endStage3 tag p.1 p.2.1 p.2.2) s2
/-- Carries a reduction as far as what has arrived allows: the stages in order for each piece, pieces beside one another (R326). -/
def collRun (tag : Nat) (s : State) : State :=
  match collAt s tag with
  | none => s
  | some x => if x.opcode ≠ 0x40 ∧ x.opcode ≠ 0x41 then s else forS (ownPieces s x) (runPiece tag) s

/-- Every result of a collective has arrived and every duty of this member is done. -/
def collHas (s : State) (x : Coll) : Bool :=
  let n := cCount x.desc
  if x.opcode = 0x40 then covers x.results 0 n
  else if x.opcode = 0x41 then
    let p := (cMembers s x.bind).length
    let k := rankOf s x.bind (bindCoord s x.bind)
    (ownPieces s x).all (fun q => memb q.2.1 x.stage2
        && decide (q.2.2 - q.2.1 - ((ownSub s x q.1 q.2.1 q.2.2).2 - (ownSub s x q.1 q.2.1 q.2.2).1)
          ≤ (x.globals.map (fun g => min q.2.2 (g.1 + g.2.length) - max q.2.1 g.1)).sum))
      && covers x.results (shareLo n p k) (shareLo n p (k + 1))
  else if x.opcode = 0x42 then covers x.results 0 ((cMembers s x.bind).length * n)
  else if x.opcode = 0x43 then covers x.results 0 n
  else false

/-! ## Arrival -/

/-- The segment of the last element of a message in its owner's range (R324). -/
def lastSegment (s : State) (x : Coll) (m : List Byte) : Nat := segOf s x (fieldAt m 16 6 + fieldAt m 24 4 - 1)
/-- Segments of the owned range, from the first on, that have closed: their pieces have ended a stage. -/
def closedSegs (s : State) (x : Coll) (ended : List Nat) : Nat :=
  let ps := ownPieces s x
  ((List.range ps.length).takeWhile (fun j => ps.all (fun p => decide (segOf s x p.2.1 ≠ j) || memb p.2.1 ended))).length
/-- The segment of a contribution or a partial is inside the window of its stage (R324). -/
def inWindow (s : State) (x : Coll) (m : List Byte) : Bool :=
  decide (lastSegment s x m < closedSegs s x (if fieldAt m 0 1 = 1 then x.stage1 else x.stage2) + fldW (cset s .col 0 0) 19 16)

/-- Counts the bytes of arriving elements at their engines (R323). -/
def countIn (x : Coll) (first : Nat) (sizes : List Nat) (s : State) : State :=
  forS sizes.zipIdx (fun z s =>
    let g := engineOf s x.bind (cCount x.desc) (first + z.2)
    modCol (fun c => { c with engIn := Map.set 0 c.engIn g (Map.get 0 c.engIn g + z.1) }) s) s

/-- The elements of an arriving message. -/
def msgElems (x : Coll) (m : List Byte) : List (List Byte) :=
  let n := fieldAt m 24 4
  match fieldAt m 0 1 with
  | 1 => splitElems (kindBytes (cIn x.desc)) n (m.drop 32)
  | 2 => fromWire x.desc n (m.drop 32)
  | _ => splitElems (kindBytes (kindOf (outKind x))) n (m.drop 32)

/-- A collective ends: with a status, and what it has parked here goes. -/
def collEnd (tag status detail result : Nat) (s : State) : State :=
  done tag status detail result (modCol (fun c => { c with colls := c.colls.filter (fun x => decide (x.tag ≠ tag)) }) s)
/-- A barrier's members have all entered: releases go out and the root itself completes (R331). -/
def barrierRun (tag : Nat) (s : State) : State :=
  match collAt s tag with
  | none => s
  | some x =>
    let ms := cMembers s x.bind
    if ms.head? = some (bindCoord s x.bind) ∧ ms.all (fun z => memb z x.enters) then
      collEnd tag stOK 0 0 (forS ms (fun z s => if z = bindCoord s x.bind then s else sendTo x.bind 0 z (collHead s x 6 0 0 0) s) s)
    else s

/-- A message enters its collective. -/
def collEnter (x : Coll) (m : List Byte) (s : State) : State :=
  let z := fieldAt m 2 2
  let first := fieldAt m 16 6
  let es := msgElems x m
  match fieldAt m 0 1 with
  | 1 =>
    let s0 := whenS (touchesT0 s (cDst x.desc) (cDstOff x.desc) (max 1 (outElems s x.bind x.opcode x.desc * kindBytes (cOut x.desc)))) wakeUp s
    collRun x.tag (modColl x.tag (fun y => { y with contribs := y.contribs ++ [(z, first, es)] }) (countIn x first (es.map List.length) s0))
  | 2 =>
    collRun x.tag (modColl x.tag (fun y => { y with partials := y.partials ++ [(z, first, es)] })
      (countIn x first (es.map (fun e => (toWire x.desc e).length)) s))
  | 3 =>
    if x.opcode = 0x40 then collRun x.tag (addResults x.tag first es s)
    else modColl x.tag (fun y => { y with globals := y.globals ++ [(first, es)] }) s
  | 4 =>
    let r := gatherRoot s x first
    let d := partOf (cLc s x.bind) r.2.2 (first - r.2.1)
    let s1 := if x.opcode = 0x41 ∨ nbhOf s x.bind r.1 ≠ nbhOf s x.bind (bindCoord s x.bind) then s
      else forS (forwardTo s x.bind r.1 d) (fun y => sendElems x 4 (fieldAt m 1 1) y first es) s
    addResults x.tag first es s1
  | 5 => barrierRun x.tag (modColl x.tag (fun y => { y with enters := addOnce z y.enters }) s)
  | _ => collEnd x.tag stOK 0 0 s

/-- The link fault of a binding's tenant (source LINK_FAULT). -/
def linkFault (t : Nat) (s : State) : State := faultReport 0x0D 2 0x13 0xFF [t] s
/-- A collective message: dropped when its step is discarded, parked when its collective has not started, has not read its source, or
its segment is beyond the window, a fault when its digest differs (R317, R324, R337). -/
def collTake (b : Nat) (m : List Byte) (s : State) : State :=
  let n := fieldAt m 8 6
  if n ≠ 0 ∧ memb n (tstep s (bindTen s b)).dead then s
  else
    match s.col.colls.find? (fun x => decide (x.bind = b) && decide (x.id = fieldAt m 4 4)) with
    | none => modCol (fun c => { c with parked := c.parked ++ [(b, m)] }) s
    | some x =>
      if fieldAt m 28 4 ≠ x.digest then linkFault (bindTen s b) (collEnd x.tag 0x0403 (fieldAt m 2 2) 0 s)
      else if ¬ x.began ∨ ((fieldAt m 0 1 = 1 ∨ fieldAt m 0 1 = 2) ∧ ¬ inWindow s x m) then modCol (fun c => { c with parked := c.parked ++ [(b, m)] }) s
      else collEnter x m s
/-- A message arrives: one that is parked counts in COL_PARKED. -/
def collArrive (b : Nat) (m : List Byte) (s : State) : State :=
  let s1 := collTake b m s
  if s.col.parked.length < s1.col.parked.length then modCol (fun c => { c with parks := satAdd 32 c.parks 1 }) s1 else s1
/-- Parked messages whose turn has come enter, oldest first. -/
def unparkOnce (s : State) : State :=
  let l := s.col.parked
  forS l (fun p s => collTake p.1 p.2 s) (modCol (fun c => { c with parked := [] }) s)
/-- Parked messages enter, again for each segment that one of them closes. -/
def unpark (s : State) : State := forS (List.range (s.col.parked.length + 1)) (fun _ => unparkOnce) s

/-- The i-th delivered message, when it is a collective message of the type named. -/
def collInbox (s : State) (i msg : Nat) : Option (Nat × List Byte) :=
  match s.vnl.inbox[i]? with
  | some m => if fieldAt m.2 0 1 = msg ∧ bindValid s m.1 ∧ nclkOn s then some m else none
  | none => none
def collMsg (i msg : Nat) (s : State) : State :=
  match collInbox s i msg with
  | some m => unpark (collArrive m.1 m.2 (dropInbox i s))
  | none => s
/-- CONTRIBUTION: the i-th delivered message. -/
def execContribution (i : Nat) (s : State) : Answer := .next (collMsg i 1 s)
/-- GLOBAL_PARTIAL. -/
def execGlobalPartial (i : Nat) (s : State) : Answer := .next (collMsg i 2 s)
/-- GLOBAL_RESULT. -/
def execGlobalResult (i : Nat) (s : State) : Answer := .next (collMsg i 3 s)
/-- GATHER_DATA. -/
def execGatherData (i : Nat) (s : State) : Answer := .next (collMsg i 4 s)
/-- BARRIER_ENTER. -/
def execBarrierEnter (i : Nat) (s : State) : Answer := .next (collMsg i 5 s)
/-- BARRIER_RELEASE. -/
def execBarrierRelease (i : Nat) (s : State) : Answer := .next (collMsg i 6 s)

/-! ## Starting (R318, R326, R330, R331) -/

/-- Sends this member's first messages. -/
def collFirst (tag : Nat) (s : State) : State :=
  match collAt s tag with
  | none => s
  | some x =>
    let b := x.bind
    let me := bindCoord s b
    let n := cCount x.desc
    let w := kindBytes (cIn x.desc)
    let kin := fieldAt x.desc 19 1
    if x.opcode = 0x44 then
      match (cMembers s b).head? with
      | some z => if z = me then barrierRun tag (modColl tag (fun y => { y with enters := [me] }) s) else sendTo b 0 z (collHead s x 5 0 0 0) s
      | none => s
    else if x.opcode = 0x40 ∨ x.opcode = 0x41 then
      collRun tag (forS (List.range (2 ^ cLc s b)) (fun q s =>
        let z := ownerOf s b (nbhOf s b me) q
        let lo := blockLo s b n q
        let hi := blockLo s b n (q + 1)
        if z = me then s else sendElems x 1 kin z lo (splitElems w (hi - lo) ((x.own.drop (lo * w)).take ((hi - lo) * w))) s) s)
    else if x.opcode = 0x43 ∧ cRoot x.desc ≠ me then s
    else
      let lo := if x.opcode = 0x42 then rankOf s b me * n else 0
      let es := splitElems w n x.own
      let far := (cMembers s b).filter (fun z => decide (nbhOf s b z ≠ nbhOf s b me))
      addResults tag lo es (forS far (fun z => sendElems x 4 kin z lo es) (gatherOut x kin lo es.length lo es s))

/-- A collective in progress reads its source, and what has been parked for it enters. It waits for a promotion of its source (R123),
for the fence (R458) and for a wake (R487); a poisoned source runs the fault path (R465). -/
def collGo (tag : Nat) (s : State) : State :=
  match collAt s tag with
  | none => s
  | some x =>
    let d := x.desc
    let n := if x.opcode = 0x44 ∨ (x.opcode = 0x43 ∧ cRoot d ≠ bindCoord s x.bind) then 0 else cCount d * kindBytes (cIn d)
    if touchesT2 s (cSrc d) (cSrcOff d) n ∨ rangeHeld s (cSrc d) (cSrcOff d) n then
      modLive tag (fun l => { l with stage := .promo })
        (whenS (touchesT0 s (cSrc d) (cSrcOff d) n) wakeUp (promoteRange (cSrc d) (cSrcOff d) n s))
    else
      let s1 := modLive tag (fun l => { l with stage := .running }) s
      match (poisonedIn s (cSrc d) (cSrcOff d) n).head? with
      | some a => poisonFault s1 (cSrc d) (a / 0x200000)
      | none => unpark (collFirst tag (modColl tag (fun y => { y with began := true, own := hRead s (cSrc d) (cSrcOff d) n }) s1))
/-- A collective that passed its checks is in progress from here (R318, R320). -/
def collNew (tag op : Nat) (s : State) : State :=
  match liveRec s tag with
  | none => s
  | some l =>
    match bindOf s (liveTen l) with
    | none => s
    | some b =>
      let x : Coll := { tag := tag, bind := b, opcode := op, id := cId l.desc, desc := l.desc, cls := ringClass s l.ring, step := l.step,
                        at_ := nowT s, digest := cDigest op l.desc }
      collGo tag (modCol (fun c => { c with colls := c.colls ++ [x] }) s)
/-- 64 collectives of the tenant's binding are in progress (R318). -/
def collFull (s : State) (t : Nat) : Bool :=
  match bindOf s t with
  | some b => decide (64 ≤ (s.col.colls.filter (fun x => decide (x.bind = b))).length)
  | none => false
/-- A collective opcode: its start, or again where it waited for its source. -/
def collStart (tag op : Nat) (s : State) : State :=
  match liveRec s tag with
  | none => s
  | some l =>
    if l.stage = .promo ∧ opcodeOf l.desc = op ∧ nclkOn s then collGo tag s
    else if collFull s (liveTen l) then s
    else startDesc tag op (fun s =>
      match collFault s (liveTen l) op l.desc with
      | some f => done tag f.1 f.2 0 s
      | none => collNew tag op s) s
/-- ALLREDUCE. -/
def execAllreduce (tag : Nat) (s : State) : Answer := .next (collStart tag 0x40 s)
/-- REDUCE_SCATTER. -/
def execReduceScatter (tag : Nat) (s : State) : Answer := .next (collStart tag 0x41 s)
/-- ALLGATHER. -/
def execAllgather (tag : Nat) (s : State) : Answer := .next (collStart tag 0x42 s)
/-- BROADCAST. -/
def execBroadcast (tag : Nat) (s : State) : Answer := .next (collStart tag 0x43 s)
/-- BARRIER. -/
def execBarrier (tag : Nat) (s : State) : Answer := .next (collStart tag 0x44 s)

/-- COLLECTIVE_DONE: all results are written and the descriptor completes (R329). -/
def collDone (tag : Nat) (s : State) : State :=
  match collAt s tag with
  | none => s
  | some x =>
    if x.began ∧ ¬ x.bad ∧ collHas s x ∧ ¬ writesWait s tag ∧ nclkOn s then collEnd tag stOK 0 (x.flags % 256 + x.rounded % 2 ^ 32 * 2 ^ 32) s
    else s
/-- COLLECTIVE_DONE. -/
def execCollectiveDone (tag : Nat) (s : State) : Answer := .next (collDone tag s)
/-- COLL_TIMEOUT: limit_ms after its start the collective ends and the fault path runs; one that completes at the limit
completes with OK (R320). -/
def execCollTimeout (tag : Nat) (s : State) : Answer :=
  .next (match collAt s tag with
    | none => s
    | some x =>
      if ¬ nclkOn s then s
      else if x.began ∧ ¬ x.bad ∧ collHas s x ∧ ¬ writesWait s tag then collDone tag s
      else linkFault (bindTen s x.bind) (collEnd tag 0x0404 0 0 s))

end Sys2Proof.Machine
end

