-- ==== Sys2Proof/Machine/Host.lean ====
section
/-!
DEFINITION. Machine/Host.lean: commands of the host interface: link loss and return, function resets, interrupts, doorbells,
fetch, selectors, registers without a row, and the commit and abort writes of every group (R43, R55 to R100).
-/
namespace Sys2Proof.Machine

/-- The data link goes down (R95): posting and fetching stop; every tenant with an undrawn step is faulted. -/
def linkDown (s : State) : State :=
  if s.hif.up then
    faultReport 0x0E 2 0x13 0xFF (undrawnTens s) (modHif (fun h => { h with up := false }) s)
  else s
/-- HOST_LINK_DOWN. -/
def execHostLinkDown (s : State) : Answer := waitsInFrost .hostLinkDown s (.next (linkDown s))

/-- The link returns with its width, rate and Flit Mode (R96, Table 02.8): link_epoch rises, fetch waits for
HIF_LINK_RESUME; the first link-up after a module reset is no return (DEDUCED, log 64). -/
def linkUp (width rate : Nat) (flit : Bool) (s : State) : State :=
  if s.hif.up then s
  else modHif (fun h => { h with up := true, epoch := (h.epoch + 1) % 256, width := width % 32, rate := rate % 16, flit := flit,
                                 resumePending := h.wasUp, wasUp := true }) s
/-- HOST_LINK_UP. -/
def execHostLinkUp (width rate : Nat) (flit : Bool) (s : State) : Answer :=
  waitsInFrost (.hostLinkUp width rate flit) s (.next (linkUp width rate flit s))

/-- A live descriptor of before the loss completes DISCARDED, detail 3, or 4 when the compute complex was reset (R97,
R371); a rack it takes goes on without it (Table 10.13), other work of it ends. -/
def resumeOne (tag : Nat) (s : State) : State :=
  match liveRec s tag with
  | none => s
  | some l =>
    let d := if l.stage = .lost ∧ l.status = stDISCARDED ∧ l.detail = 4 then 4 else 3
    let s1 := modRck (fun r => { r with
      job := r.job.map (fun j => if j.tag = tag then { j with tag := noTag } else j),
      rests := r.rests.filter (fun x => decide (x.tag ≠ tag)) }) (settleCores (dropLaunch tag s))
    let s2 := modCol (fun c => { c with colls := c.colls.filter (fun x => decide (x.tag ≠ tag)) })
      (modPln (fun p => { p with waits := p.waits.filter (fun w => decide (w.who ≠ tag)) }) s1)
    let s3 := modStp (fun x => { x with
      hold := x.hold.filter (fun h => decide (h.tag ≠ tag)), draining := x.draining.filter (fun h => decide (h.tag ≠ tag)) }) s2
    settleFrees (liveTen l) (completeNow tag stDISCARDED d 0 (modLive tag (fun l => { l with step := none }) s3))
/-- HIF_LINK_RESUME is written (R97). -/
def linkResume (s : State) : State :=
  if s.hif.up ∧ s.hif.resumePending then
    let s1 := modHif (fun h => { h with resumePending := false }) s
    let s2 := forS (s.hif.live.map Prod.fst) resumeOne s1
    forS (activeTens s2) (fun t => postEvent t 0x0002 0 s.hif.epoch) s2
  else s
/-- HIF_LINK_RESUME. -/
def execHifLinkResume (s : State) : Answer := .next (if blockOpen s .pf0 1 then linkResume s else s)

/-- Pending tenant commits complete before a Function Level Reset acts (Table 02.21). -/
def finishTenCommits (s : State) : State :=
  forS (s.grp.pend.filter (fun c => decide (c.grp = .hifTen))) (fun c => runCommit c none)
    (modGrp (fun g => { g with pend := g.pend.filter (fun c => decide (c.grp ≠ .hifTen)) }) s)

/-- A Function Level Reset of a VF (R98): its tenants enter TEARDOWN, its BARs ignore writes until it is bound again. Its MSI-X table and
pending bits, HIF_VTEN_SEL and ring shadow stay: DESIGN CHOICE, the spec is silent on them (log 147). -/
def flrOf (n : Nat) (s : State) : State :=
  modSec (fun x => { x with tdi := Map.del x.tdi n, tdiNonce := Map.del x.tdiNonce n })
    (modHif (fun h => { h with vfIgnore := addOnce n h.vfIgnore }) (flrTenants (fun f => decide (f = n)) s))
/-- FLR_VF. -/
def execFlrVf (n : Nat) (s : State) : Answer :=
  waitsInFrost (.flrVf n) s (.next (if 1 ≤ n ∧ n ≤ s.hif.numVfs then flrOf n (finishTenCommits s) else s))

/-- VF Enable cleared, or NumVFs lowered to `keep`: every VF removed is reset (R98). -/
def vfRemove (clear : Bool) (keep : Nat) (s : State) : State :=
  let k := if clear then 0 else min keep s.hif.numVfs
  modHif (fun h => { h with vfEnable := h.vfEnable && !clear, numVfs := if clear then h.numVfs else k })
    (forS ((List.range 64).filter (fun n => decide (k < n) && decide (n ≤ s.hif.numVfs) && s.hif.vfEnable)) flrOf (finishTenCommits s))
/-- VF_DISABLE. -/
def execVfDisable (clear : Bool) (keep : Nat) (s : State) : Answer :=
  waitsInFrost (.vfDisable clear keep) s (.next (vfRemove clear keep s))

/-- A Function Level Reset of PF0 (R99): every tenant enters TEARDOWN, every commit group returns to its reset values, so that slots are
released, ports go OFF (Table 07.2) and the TP_IN lock is given up (R520). Commits of other groups that wait are dropped; VF Enable, NumVFs,
MSI-X tables and pending bits, and registers of no commit group stay: DESIGN CHOICE, the spec is silent on them (log 147). -/
def flrPf0 (s : State) : State :=
  let s1 := flrTenants (fun _ => true) (finishTenCommits s)
  let s2 := forS (boundTens s1) (fun t s => forS (tenSlots s t) (fun ck => modSlot ck.1 ck.2 (fun _ => {})) s) s1
  let s3 := forS ((List.range (numPorts s)).filter (fun p => bitW (cset s2 .vnlPort p 0) 31)) portOff s2
  modGrp (fun _ => {}) (checkHold (modTim (fun x => { x with tpinLock := false, good := 0, miss := 0 }) s3))
/-- FLR_PF0. -/
def execFlrPf0 (s : State) : Answer := waitsInFrost .flrPf0 s (.next (flrPf0 s))
/-- HOT_RESET: as a Function Level Reset of PF0 (R100). -/
def execHotReset (s : State) : Answer := waitsInFrost .hotReset s (.next (flrPf0 s))

/-- Fetch reads of a function in flight, as (ring, first count). -/
def readsOf (s : State) (fn : Nat) : List (Nat × Nat) :=
  (s.hif.rings.filter (fun e => decide (tenFn s (ringTen e.1) = fn))).flatMap (fun e => e.2.reads.map (fun x => (e.1, x.1)))
/-- ATS_INVALIDATION of pages of a function (R43): the translations that follow grant no write with `deny` (R691; log 12); it completes
after the fetch reads in flight, which use the translation they started with (Table 02.21). -/
def execAtsInvalidation (fn page pages : Nat) (deny : Bool) (s : State) : Answer :=
  waitsInFrost (.atsInvalidation fn page pages deny) s <| .next (let s1 := modHif (fun h => { h with
      denied := h.denied.filter (fun d => decide (d ≠ (fn, page, pages))) ++ (if deny then [(fn, page, pages)] else []) }) s
    if (readsOf s fn).isEmpty then emit (.atsDone fn page pages) s1
    else modHif (fun h => { h with invals := h.invals ++ [(fn, page, pages, readsOf s fn)] }) s1)
/-- A fetch read has returned: invalidations that waited for it alone complete. -/
def settleInvals (r count : Nat) (s : State) : State :=
  let l := s.hif.invals.map (fun i => (i.1, i.2.1, i.2.2.1, i.2.2.2.erase (r, count)))
  forS (l.filter (fun i => i.2.2.2.isEmpty)) (fun i => emit (.atsDone i.1 i.2.1 i.2.2.1))
    (modHif (fun h => { h with invals := l.filter (fun i => !i.2.2.2.isEmpty) }) s)

/-- Function Mask of a function is cleared: the interrupts it held are sent (R93). -/
def unmaskFn (fn : Nat) (s : State) : State :=
  forS (s.hif.msixPend.filter (fun k => decide (k / 2048 = fn))) (fun k => sendPending fn (k % 2048))
    (modHif (fun h => { h with msixFnMask := without fn h.msixFnMask }) s)
/-- MSIX_UNMASK: of one vector, through the MSI-X table of an accessor's BAR0 (R53, R93); of a function's Function Mask, through its
configuration space. -/
def execMsixUnmask (acc : Acc) (vec : Option Nat) (s : State) : Answer :=
  .next (match acc, vec with
    | .pf0, some v => if blockOpen s .pf0 1 ∧ v < 2048 then msixTableWrite 0 (4 * v + 3) 0 s else s
    | .vf n t, some v => if vfOpen s n t ∧ v < 256 then msixTableWrite n (4 * v + 3) 0 s else s
    | .cfg n, none =>
      if s.dbg.frost = 0 then unmaskFn n s else modDbg (fun d => { d with late := d.late ++ [.msixUnmask acc vec] }) s
    | _, _ => s)
/-- MSIX_MOD_EXPIRY: the gap of a ring ends; the interrupt it owes is raised (R93, R94), with the link down as with the link up: DESIGN
CHOICE, the spec is silent there (log 146). -/
def execMsixModExpiry (r : Nat) (s : State) : Answer :=
  clocked s <| .next (let x := ringRec s r
    if x.gap then
      let s1 := modRing r (fun x => { x with gap := false }) s
      if x.owed then raiseIrq r s1 else s1
    else s)

/-- A write of the host to the configuration space of a function (Syntax.lean's numbers): VF Enable, NumVFs (R64, R98), Function Mask
(R93). -/
def cfgWrite (fn a : Nat) (v : Word) (s : State) : State :=
  if a = 0 ∧ fn = 0 then
    if bitW v 0 then modHif (fun h => { h with vfEnable := true }) s else if s.hif.vfEnable then vfRemove true 0 s else s
  else if a = 1 ∧ fn = 0 then
    if fldW v 15 0 < s.hif.numVfs then vfRemove false (fldW v 15 0) s else modHif (fun h => { h with numVfs := min (fldW v 15 0) 63 }) s
  else if a = 2 then
    if bitW v 14 then modHif (fun h => { h with msixFnMask := addOnce fn h.msixFnMask }) s else unmaskFn fn s
  else s

/-- DOORBELL: a write of `size` bytes at an offset of a doorbell page (R71 to R75). -/
def execDoorbell (acc : Acc) (page off size value : Nat) (s : State) : Answer := .next (doorbell acc page off size value s)
/-- FETCH_ISSUE of at most n entries of a ring, with the tags the module takes (R82, R84). -/
def execFetchIssue (r : Nat) (tags : List Nat) (s : State) : Answer := .next (fetchIssue r tags.length tags s)
/-- FETCH_READ_DONE: fault code or the descriptors read (R78, R84); in Frost they stand in the receive queue (R583). -/
def execFetchReadDone (r flt : Nat) (ep : Bool) (bytes : List Byte) (s : State) : Answer :=
  waitsInFrost (.fetchReadDone r flt ep bytes) s <| .next (match (ringRec s r).reads with
    | [] => s
    | (c, _) :: _ => settleInvals r c (fetchDone r (flt + b2n ep) bytes s))

/-- SELECTOR_WRITE (R60). -/
def execSelectorWrite (acc : Acc) (a : Nat) (v : Word) (s : State) : Answer := .next (selectorWrite acc a v s)
/-- REGISTER_WRITE (R12), or a write of configuration space. -/
def execRegisterWrite (acc : Acc) (a : Nat) (v : Word) (s : State) : Answer :=
  .next (match acc with
    | .cfg n =>
      if s.dbg.frost = 0 then cfgWrite n a v s else modDbg (fun d => { d with late := d.late ++ [.registerWrite acc a v] }) s
    | _ => registerWrite acc a v s)

/-! ## Commit and abort writes (R56, R59, R61) -/

/-- Commit write of the hifTen group. -/
def execHifTenCommit (acc : Acc) (s : State) : Answer := .next (commitWrite .hifTen acc 0 1 s)
/-- Abort write of the hifTen group. -/
def execHifTenAbort (acc : Acc) (s : State) : Answer := .next (abortWrite .hifTen acc 0 s)

/-- Commit write of the rng group. -/
def execRngCommit (acc : Acc) (s : State) : Answer := .next (commitWrite .rng acc 0 1 s)
/-- Abort write of the rng group. -/
def execRngAbort (acc : Acc) (s : State) : Answer := .next (abortWrite .rng acc 0 s)

/-- Commit write of the pln group. -/
def execPlnCommit (acc : Acc) (s : State) : Answer := .next (commitWrite .pln acc 0 1 s)
/-- Abort write of the pln group. -/
def execPlnAbort (acc : Acc) (s : State) : Answer := .next (abortWrite .pln acc 0 s)

/-- Commit write of the plnTq group. -/
def execPlnTqCommit (acc : Acc) (s : State) : Answer := .next (commitWrite .plnTq acc 0 1 s)
/-- Abort write of the plnTq group. -/
def execPlnTqAbort (acc : Acc) (s : State) : Answer := .next (abortWrite .plnTq acc 0 s)

/-- Commit write of the memRsv group. -/
def execMemRsvCommit (acc : Acc) (s : State) : Answer := .next (commitWrite .memRsv acc 0 1 s)
/-- Abort write of the memRsv group. -/
def execMemRsvAbort (acc : Acc) (s : State) : Answer := .next (abortWrite .memRsv acc 0 s)

/-- Commit write of the memTherm group. -/
def execMemThermCommit (acc : Acc) (s : State) : Answer := .next (commitWrite .memTherm acc 0 1 s)
/-- Abort write of the memTherm group. -/
def execMemThermAbort (acc : Acc) (s : State) : Answer := .next (abortWrite .memTherm acc 0 s)

/-- Commit write of the corSlot group. -/
def execCorCommit (acc : Acc) (win : Nat) (s : State) : Answer := .next (commitWrite .corSlot acc win 1 s)
/-- Abort write of the corSlot group. -/
def execCorAbort (acc : Acc) (win : Nat) (s : State) : Answer := .next (abortWrite .corSlot acc win s)

/-- Commit write of the corTer group. -/
def execCorTerCommit (acc : Acc) (win : Nat) (s : State) : Answer := .next (commitWrite .corTer acc win 1 s)
/-- Abort write of the corTer group. -/
def execCorTerAbort (acc : Acc) (win : Nat) (s : State) : Answer := .next (abortWrite .corTer acc win s)

/-- Commit write of the arr group. -/
def execArrCommit (acc : Acc) (s : State) : Answer := .next (commitWrite .arr acc 0 1 s)
/-- Abort write of the arr group. -/
def execArrAbort (acc : Acc) (s : State) : Answer := .next (abortWrite .arr acc 0 s)

/-- Commit write of the fmt group. -/
def execFmtCommit (acc : Acc) (s : State) : Answer := .next (commitWrite .fmt acc 0 1 s)
/-- Abort write of the fmt group. -/
def execFmtAbort (acc : Acc) (s : State) : Answer := .next (abortWrite .fmt acc 0 s)

/-- Commit write of the vnlPort group. -/
def execVnlPortCommit (acc : Acc) (win : Nat) (s : State) : Answer := .next (commitWrite .vnlPort acc win 1 s)
/-- Abort write of the vnlPort group. -/
def execVnlPortAbort (acc : Acc) (win : Nat) (s : State) : Answer := .next (abortWrite .vnlPort acc win s)

/-- Commit write of the vnlPcl group. -/
def execVnlPclCommit (acc : Acc) (s : State) : Answer := .next (commitWrite .vnlPcl acc 0 1 s)
/-- Abort write of the vnlPcl group. -/
def execVnlPclAbort (acc : Acc) (s : State) : Answer := .next (abortWrite .vnlPcl acc 0 s)

/-- Commit write of the col group. -/
def execColCommit (acc : Acc) (s : State) : Answer := .next (commitWrite .col acc 0 1 s)
/-- Abort write of the col group. -/
def execColAbort (acc : Acc) (s : State) : Answer := .next (abortWrite .col acc 0 s)

/-- Commit write of the stpTen group. -/
def execStpTenCommit (acc : Acc) (s : State) : Answer := .next (commitWrite .stpTen acc 0 1 s)
/-- Abort write of the stpTen group. -/
def execStpTenAbort (acc : Acc) (s : State) : Answer := .next (abortWrite .stpTen acc 0 s)

/-- Commit write of the rckTen group. -/
def execRckTenCommit (acc : Acc) (s : State) : Answer := .next (commitWrite .rckTen acc 0 1 s)
/-- Abort write of the rckTen group. -/
def execRckTenAbort (acc : Acc) (s : State) : Answer := .next (abortWrite .rckTen acc 0 s)

/-- Commit write of the rckWear group. -/
def execRckWearCommit (acc : Acc) (s : State) : Answer := .next (commitWrite .rckWear acc 0 1 s)
/-- Abort write of the rckWear group. -/
def execRckWearAbort (acc : Acc) (s : State) : Answer := .next (abortWrite .rckWear acc 0 s)

/-- Commit write of the cel group. -/
def execCelCommit (acc : Acc) (s : State) : Answer := .next (commitWrite .cel acc 0 1 s)
/-- Abort write of the cel group. -/
def execCelAbort (acc : Acc) (s : State) : Answer := .next (abortWrite .cel acc 0 s)

/-- Commit write of the celSvc group. -/
def execCelSvcCommit (acc : Acc) (s : State) : Answer := .next (commitWrite .celSvc acc 0 1 s)
/-- Abort write of the celSvc group. -/
def execCelSvcAbort (acc : Acc) (s : State) : Answer := .next (abortWrite .celSvc acc 0 s)

/-- Commit write of the err group. -/
def execErrCommit (acc : Acc) (s : State) : Answer := .next (commitWrite .err acc 0 1 s)
/-- Abort write of the err group. -/
def execErrAbort (acc : Acc) (s : State) : Answer := .next (abortWrite .err acc 0 s)

/-- Commit write of the pwr group. -/
def execPwrCommit (acc : Acc) (s : State) : Answer := .next (commitWrite .pwr acc 0 1 s)
/-- Abort write of the pwr group. -/
def execPwrAbort (acc : Acc) (s : State) : Answer := .next (abortWrite .pwr acc 0 s)

/-- Commit write of the tim group. -/
def execTimCommit (acc : Acc) (s : State) : Answer := .next (commitWrite .tim acc 0 1 s)
/-- Abort write of the tim group. -/
def execTimAbort (acc : Acc) (s : State) : Answer := .next (abortWrite .tim acc 0 s)

/-- Commit write of the dbg group. -/
def execDbgCommit (acc : Acc) (s : State) : Answer := .next (commitWrite .dbg acc 0 1 s)
/-- Abort write of the dbg group. -/
def execDbgAbort (acc : Acc) (s : State) : Answer := .next (abortWrite .dbg acc 0 s)

/-- Commit write of the dbgTen group. -/
def execDbgTenCommit (acc : Acc) (s : State) : Answer := .next (commitWrite .dbgTen acc 0 1 s)
/-- Abort write of the dbgTen group. -/
def execDbgTenAbort (acc : Acc) (s : State) : Answer := .next (abortWrite .dbgTen acc 0 s)

/-- Commit write of the boot group. -/
def execBootCommit (acc : Acc) (s : State) : Answer := .next (commitWrite .boot acc 0 1 s)
/-- Abort write of the boot group. -/
def execBootAbort (acc : Acc) (s : State) : Answer := .next (abortWrite .boot acc 0 s)

/-- The load command of the celTbl group (R451, R574). -/
def execCelTblLoad (acc : Acc) (s : State) : Answer := .next (commitWrite .celTbl acc 0 1 s)

/-- The unload command of the celTbl group (R451, R574). -/
def execCelTblUnload (acc : Acc) (s : State) : Answer := .next (commitWrite .celTbl acc 0 4 s)

/-- The install command of the secKey group (R451, R574). -/
def execSecKeyInstall (acc : Acc) (s : State) : Answer := .next (commitWrite .secKey acc 0 1 s)

/-- The destroy command of the secKey group (R451, R574). -/
def execSecKeyDestroy (acc : Acc) (s : State) : Answer := .next (commitWrite .secKey acc 0 4 s)
/-- Abort of the celTbl group. -/
def execCelTblAbort (acc : Acc) (s : State) : Answer := .next (abortWrite .celTbl acc 0 s)
/-- Abort of the secKey group. -/
def execSecKeyAbort (acc : Acc) (s : State) : Answer := .next (abortWrite .secKey acc 0 s)

end Sys2Proof.Machine
end

