-- ==== Sys2Proof/Machine/Trace.lean ====
section
/-!
DEFINITION. Machine/Trace.lean: the drain of a core's PC samples into its region and into the tenants' trace handles
(R593).
-/
namespace Sys2Proof.Machine

def traceHandle (s : State) (t : Nat) : Nat := fldW (cset s .dbgTen t 1) 23 0
/-- The counts of a trace handle, in its first 16 bytes. -/
def traceCounts (t : Nat) (s : State) : State :=
  let h := traceHandle s t
  if bitW (cset s .dbgTen t 0) 31 ∧ (hndRec s h).map Hnd.tenant = some t then
    hPut h 0 (leB 8 (Map.get 0 s.dbg.written t) ++ leB 8 (Map.get 0 s.dbg.lost t)) s
  else s
/-- One sample leaves a core's buffer: to the core's region, and to the tenant's trace handle; one after the tenant freed the
handle is lost and counted (Table 16.11). -/
def drainOne (c : Nat) (x : Sample) (s : State) : State :=
  let hd := Map.get 0 s.dbg.head c
  let s1 := modDbg (fun d => { d with
    region := Map.put d.region (c * 2 ^ 18 + hd / 4) x, head := Map.set 0 d.head c ((hd + 4) % 2 ^ 20) }) s
  let h := traceHandle s x.tenant
  if bitW (cset s .dbgTen x.tenant 0) 31 ∧ ¬ hndOk s x.tenant h then
    modDbg (fun d => { d with lost := Map.upd 0 d.lost x.tenant (fun n => satAdd 32 n 1) }) s1
  else if bitW (cset s .dbgTen x.tenant 0) 31 then
    let n := Map.get 0 s.dbg.written x.tenant
    traceCounts x.tenant (hPut h (64 + n % ((hndSize s h - 64) / 16) * 16) x.bytes
      (modDbg (fun d => { d with written := Map.set 0 d.written x.tenant (n + 1) }) s1))
  else s1
/-- A core drains its samples (R593). -/
def drainTrace (c : Nat) (s : State) : State :=
  forS (Map.get [] s.dbg.samples c) (drainOne c) (modDbg (fun d => { d with samples := Map.del d.samples c }) s)

end Sys2Proof.Machine
end

