-- ==== Sys2Proof/Machine/Debug.lean ====
section
/-!
DEFINITION. Machine/Debug.lean: Frost (R578 to R585), scan-out (R586, R587), trace (R592, R593) and the TAP (R594, Table 16.7).
-/
namespace Sys2Proof.Machine

/-! ## Frost -/

/-- The source of a request by its accessor: 1 the register, 2 the TAP. -/
def frostSrc (acc : Acc) : Nat := match acc with | .tap => 2 | _ => 1
/-- DBG_FROST_FREEZE: a write of 1 to DBG_FROST.freeze. -/
def execDbgFrostFreeze (acc : Acc) (s : State) : Answer := .next (if blockOpen s acc 16 then frostAsk (frostSrc acc) s else s)
/-- A write of 1 to DBG_FROST.resume: at once in Frost, when every domain has stopped while stopping (R585). -/
def frostResume (s : State) : State :=
  if dbgLevel s 2 = 0 then s
  else if s.dbg.frost = 1 then modDbg (fun d => { d with pendResume := true }) s
  else if s.dbg.frost = 2 then modDbg (fun d => { d with frost := 3 }) s
  else s
/-- DBG_FROST_RESUME. -/
def execDbgFrostResume (acc : Acc) (s : State) : Answer := .next (if blockOpen s acc 16 then frostResume s else s)
/-- A dual-clock FIFO in the cut: each pointer as its own domain held it; the entries from the read pointer up to the write pointer are
its contents (R581). -/
def cutFifo (x : FifoHeld) : CutFifo :=
  let m := 2 * 2 ^ x.log2
  { unit := x.unit, depth := 2 ^ x.log2, wptr := x.wrote % m, rptr := x.taken % m,
    words := x.words.take ((x.wrote % m + m - x.taken % m) % m) }
/-- Every running domain has stopped (R579): each with its own cycle count; a domain that was not running sets partial. Every FIFO of a
domain that stopped is frozen, the stages of every synchroniser with its receiving domain (R581). -/
def frostStopped (stops : List (Nat × Nat)) (fifos : List FifoHeld) (syncs : List SyncHeld) (s : State) : State :=
  if s.dbg.frost = 1 then
    let ds := (List.range 35).filter (domRuns s)
    modDbg (fun d => { d with
      frost := if d.pendResume then 3 else 2, pendResume := false, stopAt := nowT s, partCut := decide (ds.length < 35),
      stops := ds.map (fun k => (k, (((stops.find? (fun e => decide (e.1 = k))).map Prod.snd).getD 0) % 2 ^ 64)),
      fifos := (fifos.filter (fun x => memb x.writer ds || memb x.reader ds)).map (fun x => (x.id, cutFifo x)),
      syncs := (syncs.filter (fun x => memb x.reader ds)).map (fun x => (x.id, { unit := x.unit, stages := x.stages % 8 })),
      openPorts := (List.range (numPorts s)).filter (fun p =>
        decide ((portRec s p).st = .opened) || decide ((portRec s p).st = .retrain)) }) s
  else s
/-- FROST_STOPPED: the stop cycle of each domain, and what every crossing between domains held (log 157). -/
def execFrostStopped (cut : Cut) (s : State) : Answer := .next (frostStopped cut.stops cut.fifos cut.syncs s)
/-- The state a command answers with. -/
def stateOf (a : Answer) (s : State) : State := match a with | .next t => t | _ => s
/-- A command that waited in Frost (R583; log 158). -/
def runLate (c : Late) (s : State) : State :=
  stateOf (match c with
    | .fetchReadDone r f ep b => execFetchReadDone r f ep b s
    | .hostLinkDown => execHostLinkDown s
    | .hostLinkUp w r f => execHostLinkUp w r f s
    | .flrVf n => execFlrVf n s
    | .vfDisable c n => execVfDisable c n s
    | .flrPf0 => execFlrPf0 s
    | .hotReset => execHotReset s
    | .atsInvalidation fn p n d => execAtsInvalidation fn p n d s
    | .msixUnmask acc v => execMsixUnmask acc v s
    | .registerWrite acc a v => execRegisterWrite acc a v s
    | .getVersion => execGetVersion s
    | .getCapabilities => execGetCapabilities s
    | .negotiateAlgorithms o => execNegotiateAlgorithms o s
    | .getDigests => execGetDigests s
    | .getCertificate a b c => execGetCertificate a b c s
    | .spdmChallenge a b => execSpdmChallenge a b s
    | .getMeasurements a b c => execGetMeasurements a b c s
    | .keyExchange a b c => execKeyExchange a b c s
    | .spdmFinish a b => execSpdmFinish a b s
    | .endSession a => execEndSession a s
    | .spdmHeartbeat a => execSpdmHeartbeat a s
    | .keyUpdate a b => execKeyUpdate a b s
    | .chunkSend a b => execChunkSend a b s
    | .chunkGet a b => execChunkGet a b s
    | .ideQuery a => execIdeQuery a s
    | .keyProg a b => execKeyProg a b s
    | .kSetGo a b => execKSetGo a b s
    | .kSetStop a b => execKSetStop a b s
    | .getTdispVersion a => execGetTdispVersion a s
    | .getTdispCapabilities a => execGetTdispCapabilities a s
    | .lockInterface a b => execLockInterface a b s
    | .getDeviceInterfaceReport a b => execGetDeviceInterfaceReport a b s
    | .getDeviceInterfaceState a b => execGetDeviceInterfaceState a b s
    | .startInterface a b c => execStartInterface a b c s
    | .stopInterface a b => execStopInterface a b s) s
/-- Every domain runs again (R585): the ports that were OPEN enter RETRAIN, those in RETRAIN stay there; the FIFOs go on from the cut; what
waited is delivered; a freeze asked for meanwhile starts. -/
def frostDone (s : State) : State :=
  if s.dbg.frost = 3 then
    let s1 := forS s.dbg.openPorts (fun p => enterRetrain p 0)
      (modDbg (fun d => { d with frost := 0, openPorts := [], pendFreeze := false, fifos := [], syncs := [], late := [] }) s)
    let s2 := forS s.dbg.late runLate s1
    if s.dbg.pendFreeze then frostAsk s.dbg.source s2 else s2
  else s
/-- FROST_RESUME_DONE. -/
def execFrostResumeDone (s : State) : Answer := .next (frostDone s)

/-! ## Scan-out and trace words -/

/-- One read of DBG_SCAN_DATA: the word at the index; the index advances (R586). -/
def scanRead (s : State) : State :=
  if scanOn s then emit (.value (scanData s)) (setRw 0 0x1000084 (wordOf ((scanIdx s + 1) % 2 ^ 25)) s) else emit (.value 0) s
/-- DBG_SCAN_DATA. -/
def execDbgScanData (acc : Acc) (s : State) : Answer := .next (if blockOpen s acc 16 then scanRead s else emit (.value 0) s)
/-- One read of DBG_TRACE_DATA: the word of the selected core's drain region; the index advances (R593). -/
def traceRead (s : State) : State :=
  if dbgLevel s 1 = 2 then
    emit (.value (traceData s)) (setRw 0 0x10001C4 (wordOf ((fldW (rwReg s 0 0x10001C4) 19 0 + 1) % 2 ^ 20)) s)
  else emit (.value 0) s
/-- DBG_TRACE_DATA. -/
def execDbgTraceData (acc : Acc) (s : State) : Answer := .next (if blockOpen s acc 16 then traceRead s else emit (.value 0) s)

/-- The 16 bytes of a sample (Table 16.6). -/
def sampleBytes (s : State) (slot t pc : Nat) (mMode : Bool) (wait flags : Nat) : List Byte :=
  leB 6 pc ++ leB 1 (slot % 8 + b2n mMode * 8) ++ leB 1 wait ++ leB 2 (flags % 256) ++ leB 2 (t % 4096) ++ leB 4 s.tim.ns
/-- A sample of a resident context: taken where its tenant's sampling has started or trace is available in full; pc zero in M-mode unless
trace is available in full. A sample that finds the buffer full is lost. -/
def takeSample (c pc : Nat) (mMode : Bool) (wait flags : Nat) (s : State) : State :=
  let x := coreRec s c
  let t := slotTen s c x.slot
  let on : Bool := decide (x.st = .running) || decide (x.st = .preempting) || decide (x.st = .swapping)
  if c < numCores s ∧ slotValid s c x.slot ∧ on ∧ (dbgLevel s 1 = 2 ∨ (dbgLevel s 1 = 1 ∧ memb t s.dbg.sampling)) then
    let l := Map.get [] s.dbg.samples c
    if 1024 ≤ l.length then traceCounts t (modDbg (fun d => { d with lost := Map.upd 0 d.lost t (fun n => satAdd 32 n 1) }) s)
    else
      let pc1 := if mMode ∧ dbgLevel s 1 ≠ 2 then 0 else pc
      modDbg (fun d => { d with samples := Map.put d.samples c (l ++ [⟨t, sampleBytes s x.slot t pc1 mMode wait flags⟩]) }) s
  else s
/-- TRACE_SAMPLE on core c; `drained`: the core's DMA has drained the 512 samples that had accumulated. -/
def execTraceSample (c pc : Nat) (mMode : Bool) (wait flags : Nat) (drained : Bool) (s : State) : Answer :=
  iodClocked s <| .next (let s1 := takeSample c pc mMode wait flags s
    if drained ∧ 512 ≤ (Map.get [] s1.dbg.samples c).length then drainTrace c s1 else s1)

/-! ## The TAP -/

/-- Every boundary-scan instruction is available (Tables 15.12, 15.13). -/
def scanAll (s : State) : Bool :=
  decide (s.pwr.st ≠ .off) && (match s.sec.life with
    | .blank => true
    | .provisioned => true
    | .opened => hasCap s 4
    | _ => false)
/-- SAMPLE/PRELOAD is available. -/
def scanSample (s : State) : Bool := scanAll s || (decide (s.pwr.st ≠ .off) && (decide (s.sec.life = .sealed) || decide (s.sec.life = .opened)))
/-- An instruction that is not available selects BYPASS (R569). -/
def tapInstr (ok : Bool) (code drive : Nat) (s : State) : State :=
  modDbg (fun d => if ok then { d with ir := code, drive := drive } else { d with ir := 0xFF, drive := 0 }) s
/-- An instruction that drives the pins also selects BYPASS while a tenant is ACTIVE (R571). -/
def tapDrive (code drive : Nat) (s : State) : State := tapInstr (scanAll s && (activeTens s).isEmpty) code drive s

/-- TAP_RESET by TRST_N or TMS: IDCODE, the pins to the module (IEEE 1149.1). -/
def execTapReset (s : State) : Answer := .next (tapInstr true 1 0 s)
/-- EXTEST. -/
def execExtest (s : State) : Answer := .next (tapDrive 0x00 1 s)
/-- IDCODE: the 32-bit code is shifted out. -/
def execIdcode (s : State) : Answer :=
  .next (if s.pwr.st = .off then tapInstr false 1 0 s else emit (.value (if s.half then 0x0C13F1AB else 0x0C12F1AB)) (tapInstr true 1 0 s))
/-- SAMPLE/PRELOAD: the sampled pins are shifted out, the preload shifted in. -/
def execSamplePreload (pins load : Nat) (s : State) : Answer :=
  .next (if scanSample s then emit (.value pins) (modDbg (fun d => { d with preload := load }) (tapInstr true 0x02 0 s)) else tapInstr false 2 0 s)
/-- CLAMP. -/
def execTapClamp (s : State) : Answer := .next (tapDrive 0x04 1 s)
/-- HIGHZ. -/
def execHighz (s : State) : Answer := .next (tapDrive 0x05 2 s)
/-- EXTEST_PULSE (IEEE 1149.6). -/
def execExtestPulse (s : State) : Answer := .next (tapDrive 0x06 3 s)
/-- EXTEST_TRAIN (IEEE 1149.6). -/
def execExtestTrain (s : State) : Answer := .next (tapDrive 0x07 4 s)
/-- BYPASS, and every reserved code. -/
def execTapBypass (s : State) : Answer := .next (tapInstr false 0xFF 0 s)

/-- A write by the TAP to a register of the DBG block, at an offset of it. -/
def tapWrite (o : Nat) (v : Word) (s : State) : State :=
  let a := 0x1000000 + o
  if o = 0x20 then
    if bitW v 0 && !bitW v 1 then frostAsk 2 s else if bitW v 1 && !bitW v 0 then frostResume s else s
  else if o = 0x14 then if bitW v 1 then abortWrite .dbg .tap 0 s else if bitW v 0 then commitWrite .dbg .tap 0 1 s else s
  else if o = 0x118 then if bitW v 1 then abortWrite .dbgTen .tap 0 s else if bitW v 0 then commitWrite .dbgTen .tap 0 1 s else s
  else if o = 0x100 then selectorWrite .tap a v s
  else registerWrite .tap a v s
/-- A read by the TAP. -/
def tapRead (o : Nat) (s : State) : State :=
  if o = 0x88 then scanRead s else if o = 0x1C8 then traceRead s else emit (.value (readReg s .tap (0x1000000 + o))) s
/-- DBG_ACCESS: a 32-bit access to the DBG block with the permissions of PF0; BYPASS in Sealed and Retired. -/
def execDbgAccess (write : Bool) (o : Nat) (v : Word) (s : State) : Answer :=
  .next (
    if s.pwr.st = .off ∨ s.sec.life = .sealed ∨ s.sec.life = .retired then tapInstr false 0x10 0 s
    else
      let s1 := tapInstr true 0x10 0 s
      if 0x100000 ≤ o ∨ o % 4 ≠ 0 then (if write then s1 else emit (.value 0) s1)
      else if write then tapWrite o v s1
      else tapRead o s1)
/-- CAVE_DBG: 0 halt, 1 step, 2 run, 3 read, 4 write a word of the Cave processor's working memory; BYPASS where not available. -/
def execCaveDbg (op addr : Nat) (data : Word) (s : State) : Answer :=
  .next (
    if dbgLevel s 5 = 0 then tapInstr false 0x20 0 s
    else
      let s1 := tapInstr true 0x20 0 s
      match op with
      | 0 => modSec (fun x => { x with caveHalt := true }) s1
      | 2 => modSec (fun x => { x with caveHalt := false }) s1
      | 3 => emit (.value (Map.get 0 s.sec.caveMem addr).toNat) s1
      | 4 => modSec (fun x => { x with caveMem := Map.set 0 x.caveMem addr data }) s1
      | _ => s1)

end Sys2Proof.Machine
end

