-- ==== Sys2Proof/Machine/Launch.lean ====
section
/-!
DEFINITION. Machine/Launch.lean: launches, plots, tiles, the tile interface of the hart, token posts, and the time-slicing
of cores (R124 to R126, R158 to R184, R225 to R263). The code of a hart is outside the model: a command of a hart carries
what the hart loaded, stored and computed since its last command (HartRun; log 66).
-/
namespace Sys2Proof.Machine

/-! ## Completion of launches (R231 to R233, R259 to R263) -/

/-- A core's fault registers (R261, Table 06.23). -/
def noteFlt (c code op t plot : Nat) (s : State) : State :=
  modCore c (fun x => { x with fltInfo := code * 2 ^ 24 + op * 2 ^ 16 + t, fltPlot := plot % 2 ^ 32, fltCount := satAdd 32 x.fltCount 1 }) s

/-- A launch ends with an error on every core: its tallies, its descriptor (R259, Table 06.3). -/
def failLaunch (tag status detail result : Nat) (s : State) : State :=
  match launchRec s tag with
  | none => s
  | some l =>
    let live := l.parts.filter (fun p => p.started && !p.done)
    let s1 := forS live (fun p s => drainTrace p.core (tallyPart true tag p.core s)) s
    done tag status detail result (settleCores (dropLaunch tag s1))

/-- Ends a launch by a fault at a core: codes of Table 06.23, status and detail of Table 06.3. -/
def faultLaunch (tag c code op plot status detail : Nat) (s : State) : State :=
  match launchRec s tag with
  | none => s
  | some l => failLaunch tag status detail (plot % 2 ^ 32 + op * 2 ^ 32 + c * 2 ^ 40) (noteFlt c code op l.tenant plot s)

/-- A part whose last plot has ended and whose tiles have all completed ends on its core; the last part to end completes
the launch (R231). -/
def endPart (tag c : Nat) (s : State) : State :=
  match launchRec s tag with
  | none => s
  | some l =>
    match l.parts.find? (fun p => decide (p.core = c)) with
    | none => s
    | some p =>
      if p.started ∧ ¬ p.done ∧ p.todo.isEmpty ∧ p.plot = none ∧ ¬ (slotRec s c p.slot).queue.any (fun q => decide (q.launch = tag)) then
        let s1 := modPart tag c (fun p => { p with done := true }) (drainTrace c (tallyPart false tag c s))
        match launchRec s1 tag with
        | none => s1
        | some l1 =>
          if l1.parts.all LPart.done then
            done tag stOK 0 (l1.flags % 256 + min l1.tiles (2 ^ 32 - 1) * 2 ^ 32) (settleCores (dropLaunch tag s1))
          else settleCore c s1
      else s

/-! ## LAUNCH (R124, R125, R225 to R227, R476) -/

def lCode (d : List Byte) : Nat := fieldAt d 16 3
def lCodeBytes (d : List Byte) : Nat := fieldAt d 20 4
def lEntry (d : List Byte) : Nat := fieldAt d 24 4
def lFirst (d : List Byte) : Nat := fieldAt d 28 4
def lPlots (d : List Byte) : Nat := fieldAt d 32 4
def lMap (d : List Byte) : Nat := fieldAt d 54 3
def lMapEn (d : List Byte) : Bool := bitOf (fieldAt d 57 1) 0

/-- The first failing check of R227, as (status, detail). -/
def launchFault (s : State) (t : Nat) (d : List Byte) : Option (Nat × Nat) :=
  if ¬ hndOk s t (lCode d) then some (stBAD_HANDLE, 0)
  else if lCodeBytes d < 64 ∨ 262144 < lCodeBytes d ∨ lCodeBytes d % 64 ≠ 0 ∨ hndSize s (lCode d) < lCodeBytes d then some (stBAD_FIELD, 20)
  else if lCodeBytes d ≤ lEntry d ∨ lEntry d % 2 ≠ 0 then some (stBAD_FIELD, 24)
  else if lPlots d = 0 ∨ 2 ^ 32 < lFirst d + lPlots d then some (stBAD_FIELD, 32)
  else if fieldAt d 52 2 = 0 then some (stBAD_FIELD, 52)
  else if lMapEn d && !hndOk s t (lMap d) then some (stBAD_HANDLE, 0)
  else if lMapEn d && decide (hndSize s (lMap d) < 64 * lPlots d) then some (stBAD_FIELD, 54)
  else if (tenSlots s t).isEmpty then some (0x0304, 0)
  else none

/-- Input pages of plot i of a launch: the pages its map entry names that exist in handles of the tenant, each once
(R124, R125). -/
def plotPages (s : State) (t m i : Nat) : List Nat :=
  ((List.range 4).flatMap (fun r =>
    let b := hRead s m (64 * i + 16 * r) 16
    let h := fieldAt b 0 3
    if hndOk s t h then
      ((List.range (min (fieldAt b 8 4) (pagesOf (hndSize s h)))).map (· + fieldAt b 4 4)).filterMap (fun p =>
        if p < pagesOf (hndSize s h) then some (pageKey h p) else none)
    else [])).eraseDups
/-- Pages of a list that lie in a die's stacks. -/
def inDie (s : State) (ps : List Nat) (d : Nat) : Nat :=
  (ps.filter (fun k => match Map.find s.pln.pages k with
    | some x => decide (x.tier = 0) && decide (dieOfStack x.stack = d)
    | none => false)).length
/-- The core of one plot, among cores with the number of plots each holds so far (R124). Dies are those of the core set
(DEDUCED, log 67). -/
def coreOfPlot (s : State) (ps : List Nat) (cores : List (Nat × Nat)) : Option Nat :=
  let most := cores.foldl (fun a c => max a (inDie s ps (dieOfCore c.1))) 0
  ((cores.filter (fun c => decide (inDie s ps (dieOfCore c.1) = most))).foldl (fun (a : Option (Nat × Nat)) c =>
    match a with
    | none => some c
    | some x => if c.2 < x.2 then some c else a) none).map Prod.fst
/-- Core slots of a tenant that may take plots: none on a tripped die (R493). -/
def launchCores (s : State) (t : Nat) : List (Nat × Nat) :=
  (tenSlots s t).filter (fun c => !(Map.get {} s.pwr.dies (dieOfCore c.1)).tripped)
/-- Assigns the plots of a launch in order: for each core its plots, ascending. -/
def assignPlots (s : State) (t : Nat) (d : List Byte) : List (Nat × List Nat) :=
  (List.range (lPlots d)).foldl (fun (acc : List (Nat × List Nat)) i =>
    match coreOfPlot s (if lMapEn d then plotPages s t (lMap d) i else []) (acc.map (fun c => (c.1, c.2.length))) with
    | some c => acc.map (fun x => if x.1 = c then (x.1, x.2 ++ [lFirst d + i]) else x)
    | none => acc) ((launchCores s t).map (fun c => (c.1, [])))

/-- Makes a launch of a descriptor that passed its checks; it waits for a wake (R487) and while every
core it could use lies on a tripped die (R493); a plot map in T2 is promoted first (R123), a stress pass or margin sweep on a die
that receives plots aborts (R476). -/
def launchMake (tag : Nat) (s : State) : State :=
  match liveRec s tag with
  | none => s
  | some l =>
    let t := liveTen l
    let d := l.desc
    if asleep s ∨ (launchCores s t).isEmpty then modLive tag (fun l => { l with stage := .promo }) (wakeUp s)
    else if lMapEn d && touchesT2 s (lMap d) 0 (64 * lPlots d) then
      modLive tag (fun l => { l with stage := .promo }) (promoteRange (lMap d) 0 (64 * lPlots d) s)
    else
      let parts := (assignPlots s t d).filterMap (fun c =>
        if c.2.isEmpty then none else (slotOf s c.1 t).map (fun k => ({
          core := c.1, slot := k, todo := c.2, ran := (coreRec s c.1).st = .running && (coreRec s c.1).slot = k } : LPart)))
      let m : Launch := {
        tag := tag, tenant := t, step := l.step, code := lCode d, codeBytes := lCodeBytes d, entry := lEntry d,
        seed := fieldAt d 36 8, arg := fieldAt d 44 8, limit := fieldAt d 52 2, parts := parts, cookie := cookieOf d }
      let s1 := modLive tag (fun l => { l with stage := .running }) (modPwr (fun p => { p with idle := false })
        (modCor (fun x => { x with launches := x.launches ++ [m] }) s))
      forS (List.range (numDies s)) (fun k s => if parts.any (fun p => decide (dieOfCore p.core = k)) then abortSweep k (abortStress k s) else s) s1
/-- LAUNCH: its start, or again once the plot map has been promoted. -/
def execLaunch (tag : Nat) (s : State) : Answer :=
  .next (match liveRec s tag with
    | none => s
    | some l =>
      if l.stage = .promo ∧ opcodeOf l.desc = 0x30 ∧ nclkOn s then launchMake tag s
      else startDesc tag 0x30 (fun s =>
        match launchFault s (liveTen l) l.desc with
        | some f => done tag f.1 f.2 0 s
        | none => launchMake tag s) s)

/-! ## Start on a core (R228, R229) -/

/-- Address of a hart register in the context image (Table 04.5). -/
def xReg (i : Nat) : Nat := 0x410800 + 8 * i
/-- The hart state at a plot's start (R229). -/
def startPlot (c k entry plot arg : Nat) (s : State) : State :=
  let regs := leB 8 entry ++ (List.range 31).flatMap (fun i =>
    leB 8 (if i + 1 = 2 then 0x400000 else if i + 1 = 10 then plot else if i + 1 = 11 then arg else if i + 1 = 12 then c else 0))
  modSlot c k (fun x => { x with hart := .run, vtype := 2 ^ 63, vl := 0, fcsr := 0 })
    (modMem (fun m => memWrite (memZero m (imgKey c 0x410000) 0xA00) (imgKey c (xReg 0)) regs) s)

/-- A core goes over to another slot: at once to the swap, its clock domain running. -/
def beginSwap (c k : Nat) (s : State) : State := modCore c (fun x => { x with st := .swapping, next := k }) s

/-- The first runnable slot after the resident one, with wrap-around (R177). -/
def nextRunnable (s : State) (c : Nat) : Option Nat :=
  let k := (coreRec s c).slot
  ((List.range 7).map (fun i => (k + 1 + i) % 8)).find? (fun j => slotValid s c j && runnable s c j)
/-- The access of a hart can complete now: its count is present, an entry is free (R234, R235). -/
def accessMet (x : CSlot) : Bool :=
  match x.hart with
  | .waitCnt i => decide (max 1 x.waitN ≤ Map.get 0 x.cnts i)
  | .waitPool i => decide (max 1 x.waitN ≤ Map.get 0 x.pools i)
  | .waitPush _ => decide (x.queue.length < 64)
  | .off | .run => true
/-- The hart of a slot waits on a token (R235). -/
def hartWaits (x : CSlot) : Bool := !accessMet x
/-- The slot's queue holds a ready tile. -/
def hasReady (x : CSlot) : Bool := x.queue.any (fun q => !q.fired && tileReady x q)
/-- Counters, and pools plus 256, that the waiting tiles and the hart of a slot need (R176). -/
def waitSetOf (x : CSlot) : List Nat :=
  (((match x.hart with
    | .waitCnt i => [i]
    | .waitPool i => [256 + i]
    | _ => [])
  ++ x.queue.flatMap (fun q =>
    ((List.range 4).filter (fun i => decide (fieldAt q.hdr (2 * i + 1) 1 ≠ 0))).map (fun i => fieldAt q.hdr (2 * i) 1)
      ++ (if fieldAt q.hdr 8 2 / 64 ≠ 0 then [256 + fieldAt q.hdr 8 2 % 64] else []))).eraseDups).take 64
/-- Pre-emption starts (R179). What the resident slot waits for is noted, so that a token that arrives while it is still
resident keeps it runnable (Table 04.9). -/
def preempt (c k : Nat) (s : State) : State :=
  settlePreempt c (modCore c (fun x => { x with st := .preempting, next := k, preAt := nowT s })
    (modSlot c (coreRec s c).slot (fun x => { x with waitSet := waitSetOf x, posted := accessMet x && decide (x.hart ≠ .run ∧ x.hart ≠ .off) }) s))
/-- A slot that only waits gives way to a runnable one (R178). -/
def preemptOnWait (c : Nat) (s : State) : State :=
  let x := slotRec s c (coreRec s c).slot
  if (coreRec s c).st = .running ∧ hartWaits x ∧ ¬ hasReady x then
    match nextRunnable s c with
    | some k => preempt c k s
    | none => s
  else s

/-- The next plot of a part begins, or its hart stops. -/
def nextPlot (tag c k : Nat) (s : State) : State :=
  match launchRec s tag with
  | none => s
  | some l =>
    match l.parts.find? (fun p => decide (p.core = c)) with
    | none => s
    | some p =>
      match p.todo with
      | [] => modSlot c k (fun x => { x with hart := .off }) (modPart tag c (fun p => { p with plot := none }) s)
      | q :: r => startPlot c k l.entry q l.arg (modPart tag c (fun p => { p with plot := some q, todo := r }) s)

/-- The parts of the launches on a slot have run with it from here (R176). -/
def markRan (c k : Nat) (s : State) : State :=
  modCor (fun x => { x with launches := x.launches.map (fun l =>
    { l with parts := l.parts.map (fun p => if p.core = c ∧ p.slot = k then { p with ran := true } else p) }) }) s

/-- The launch group that applies to a launch: as it stands when the launch starts on its first core (R232, R265). -/
def Launch.begin (now : Time) (cfg : Word) (l : Launch) : Launch :=
  match l.at_ with
  | some _ => l
  | none => { l with at_ := some now, limit := min l.limit (fldW cfg 15 0), cnt := bitW cfg 31 }

/-- The launch may start on a core (R228): no earlier one of its tenant is still there, its slot is resident, the fence is
open. -/
def coreStart (tag c : Nat) (s : State) : State :=
  match launchRec s tag with
  | none => s
  | some l =>
    match l.parts.find? (fun p => decide (p.core = c)) with
    | none => s
    | some p =>
      let before := (s.cor.launches.takeWhile (fun m => decide (m.tag ≠ tag))).any (fun m =>
        decide (m.tenant = l.tenant) && m.parts.any (fun q => decide (q.core = c) && !q.done))
      let x := coreRec s c
      if p.started ∨ before ∨ s.err.fence ∨ ¬ nclkOn s then s
      else if x.st = .idle ∧ (x.slot ≠ p.slot ∨ x.empty) then beginSwap c p.slot s
      else if (x.st = .idle ∨ x.st = .running) ∧ x.slot = p.slot then
        if touchesT2 s l.code 0 l.codeBytes then promoteRange l.code 0 l.codeBytes s
        else
          match (poisonedIn s l.code 0 l.codeBytes).head? with
          | some a => poisonFault s l.code (a / 0x200000)
          | none =>
            let s1 := countAccess (dieOfCore c) l.code 0 l.codeBytes
              (modMem (fun m => memCopy m (hKey l.code 0) (imgKey c 0) l.codeBytes) s)
            let s2 := modCore c (fun x => { x with st := .running, latches := x.counters })
              (modSlot c p.slot (fun y => { y with flags := 0 }) s1)
            let s3 := modPart tag c (fun p => { p with started := true, startT := nowT s })
              (modLaunch tag (Launch.begin (nowT s) (cset s .arr 0 0)) (markRan c p.slot s2))
            nextPlot tag c p.slot s3
      else preemptOnWait c s
/-- LAUNCH_CORE_START of a launch on a core. -/
def execLaunchCoreStart (tag c : Nat) (s : State) : Answer := .next (coreStart tag c s)

/-! ## Tiles (R160 to R168, R237 to R258) -/

def fmtTab (s : State) (n : Nat) : FmtTable :=
  ⟨(cset s .fmt n 0).toNat, fun c => (cset s .fmt n (c + 1)).toNat⟩
/-- What a tile of a tenant on a core reads. -/
def tileCtx (s : State) (c : Nat) (l : Launch) : TileCtx :=
  let t := l.tenant
  { rd := uGet s c t, acc := fun a => memGet s.mem (imgKey c (0x400000 + a)),
    segs := (tenSegs s (dieOfCore c) t).length, tbl := fmtTab s, tenant := t,
    handleSize := fun h => if hndUsable s l.tag t h then some (hndSize s h) else none,
    hrd := fun h o => memGet s.mem (hKey h o), seed := l.seed }
/-- The command block at a bed line of the resident context. -/
def blockAt (s : State) (c line : Nat) : List Byte := memRead s.mem (imgKey c (line * 64)) 64
/-- The resource a block occupies (Table 06.7). -/
def blockRes (b : List Byte) : Res := ((tileCmdOf b).map TileCmd.res).getD .none
/-- A resource is free in a slot's queue: two array tiles may be in flight, one tile of each other resource (R163). -/
def resFree (q : List QTile) (r : Res) : Bool :=
  let n := (q.filter (fun x => x.fired && decide (blockRes x.blk = r))).length
  match r with
  | .none => true
  | .arrays => decide (n < 2)
  | _ => decide (n < 1)
/-- No older tile of the queue conflicts with tile i (R253). -/
def orderOk (s : State) (q : List QTile) (i : Nat) (x : QTile) : Bool :=
  let r := blockRanges x.rng (fmtTab s)
  (q.take i).all (fun y =>
    let o := blockRanges y.rng (fmtTab s)
    !(spansOverlap o.2 (r.1 ++ r.2)) && !(spansOverlap o.1 r.2))
/-- Fire pacing in percent (Table 13.3); the engaged clamp sets 25 once every die is at 0.80 GHz (R488). -/
def pacePct (s : State) : Nat :=
  if s.pwr.level = 3 ∨ (s.pwr.clamp ∧ (List.range (numDies s)).all (fun d => decide (Map.get 18 s.cor.cclk d = 0))) then 25
  else if s.pwr.level = 2 then 50 else 100
/-- Array and decanter tiles are held outside the pacing window (R491). -/
def paceHolds (s : State) (r : Res) : Bool :=
  decide (pacePct s < 100) && !s.pwr.pacingOpen && (decide (r = .arrays) || decide (r = .decanter))
/-- The oldest tile that may fire, by its place in the queue (R160, R161, R253). -/
def nextTile (s : State) (x : CSlot) : Option Nat :=
  (List.range x.queue.length).find? (fun i =>
    match x.queue[i]? with
    | some q => !q.fired && tileReady x q && resFree x.queue (blockRes q.blk) && !paceHolds s (blockRes q.blk) && orderOk s x.queue i q
    | none => false)
/-- The handle ranges of an XFER, as (handle, offset, bytes) of each row: source rows, destination rows. -/
def xferRows (b : List Byte) : List (Nat × Nat × Nat) × List (Nat × Nat × Nat) :=
  match tileCmdOf b with
  | some (.xfer f) =>
    (if f.sh then (List.range f.nr).map (fun i => (f.srcH, f.srcOff + i * f.sStride, f.rowB)) else [],
     if f.dh then (List.range f.nr).map (fun i => (f.dstH, f.dstOff + i * f.dStride, f.rowB)) else [])
  | _ => ([], [])
/-- Format tables a block names (R197). -/
def tablesOf (b : List Byte) : List Nat :=
  if fieldAt b 0 1 = 0x10 then ([fieldAt b 8 1, fieldAt b 9 1].filter (fun x => decide (0x10 ≤ x) && decide (x < 0x20))).map (· - 0x10) else []

/-- Ranges of handle rows as runs. -/
def promoteRows (l : List (Nat × Nat × Nat)) (s : State) : State := forS l (fun q => promoteRange q.1 q.2.1 q.2.2) s
def rowsT2 (s : State) (l : List (Nat × Nat × Nat)) : Bool := l.any (fun q => touchesT2 s q.1 q.2.1 q.2.2)

/-- A core's oldest ready tile fires: the block is read, the checks are made, tokens and credits are taken, but not by a tile
whose ranges overlap, which faults instead of firing (R161, R162, R166, R237, R258). -/
def tileFire (c : Nat) (s : State) : State :=
  let k := (coreRec s c).slot
  let x := slotRec s c k
  if (coreRec s c).st = .running ∧ ¬ s.err.fence ∧ nclkOn s ∧ ¬ memb 5 s.boot.drained ∧ ¬ memb 6 s.boot.drained then
    match nextTile s x with
    | none => s
    | some i =>
      match x.queue[i]?, launchRec s ((x.queue[i]?.map QTile.launch).getD 0) with
      | some q, some l =>
        let b := blockAt s c q.line
        let s1 := modLaunch q.launch (fun l => { l with tables := (l.tables ++ tablesOf b).eraseDups })
          (modSlot c k (fun x => { (takeTokens q x) with queue := x.queue.modify i (fun y => { y with fired := true, blk := b, wrote := false }) }) s)
        match tileFault (tileCtx s c l) b with
        | some e => faultLaunch q.launch c e (fieldAt b 0 1) q.plot 0x0300 e (if e = 0x04 then s else s1)
        | none =>
          let s2 := if q.refire then count c 0 26 1 s1 else s1
          preemptOnWait c (promoteRows ((xferRows b).1 ++ (xferRows b).2) s2)
      | _, _ => s
  else s
/-- TILE_FIRE on a core. -/
def execTileFire (c : Nat) (s : State) : Answer := .next (tileFire c s)

/-- Bytes of a handle write gathered into runs. -/
def gather : List (Nat × Nat × Byte) → List (Nat × Nat × List Byte)
  | [] => []
  | (h, o, b) :: r =>
    match gather r with
    | (h2, o2, bs) :: r2 => if h = h2 ∧ o + 1 = o2 then (h, o, b :: bs) :: r2 else (h, o, [b]) :: (h2, o2, bs) :: r2
    | [] => [(h, o, [b])]

/-- Counters of set 1 that a tile advances (Table 16.4): terrace bytes, handle bytes by place, partial lines. -/
def countMoves (c : Nat) (b : List Byte) (o : TileOut) (s : State) : State :=
  match tileCmdOf b with
  | some (.xfer f) =>
    let n := f.nr * f.rowB
    let place := fun (l : List (Nat × Nat × Nat)) (s : State) => forS l (fun q s =>
      match pageRec s q.1 (pageIdx q.2.1) with
      | some p => if p.tier = 1 then count c 1 8 q.2.2 s
          else if dieOfStack p.stack = dieOfCore c then count c 1 6 q.2.2 s else count c 1 7 q.2.2 s
      | none => s) s
    let s1 := if !f.sh && decide (terBase ≤ f.srcOff) then count c 1 4 n s else s
    let s2 := if !f.dh && decide (terBase ≤ f.dstOff) then count c 1 5 n s1 else s1
    let s3 := place ((xferRows b).1 ++ (xferRows b).2) s2
    forS (gather o.hW) (fun q s =>
      let m := ((linesOf (q.2.2.length / 64 + 2) q.2.1 q.2.2.length).filter (fun z => decide (z.2.2 ≠ 64))).length
      if m = 0 then s else count c 1 12 m s) s3
  | _ => s

/-- The tile has made every write: its counts, flags and posts, and it leaves the queue (R164, R231, R236, R262). -/
def retireTile (c k i : Nat) (q : QTile) (l : Launch) (o : TileOut) (s : State) : State :=
  let s1 := forS o.counts (fun n s => count c 0 n.1 n.2 s) (countMoves c q.blk o s)
  let s2 := modLaunch q.launch (fun l => { l with
    tiles := satAdd 32 l.tiles 1, flags := l.flags ||| o.flags.toByte.toNat }) s1
  let s3 := modSlot c k (fun x => { x with queue := x.queue.eraseIdx i, flags := x.flags ||| o.flags.toByte.toNat }) s2
  let s4 := makePost l.tenant (some (c, k)) l.step (postOf q.hdr 13) (makePost l.tenant (some (c, k)) l.step (postOf q.hdr 10) s3)
  endPart q.launch c s4

/-- The writes of a tile: bed and terrace, accumulator files, the stationary bank, handles (must rule, R360). -/
def tileWrites (c : Nat) (l : Launch) (o : TileOut) (s : State) : State :=
  let s1 := forS o.writes (uPut c l.tenant) s
  let s2 := modMem (o.accW.foldl (fun m w => memSet m (imgKey c (0x400000 + w.1)) w.2)) s1
  let s3 := if o.bank.isEmpty then s2 else modMem (fun m => memWrite m (bankKey c) o.bank) s2
  forS (gather o.hW) (fun w s => hWrite (2 ^ 20 + c) l.tenant l.step w.1 w.2.1 w.2.2 s) s3

/-- A tile in flight, at place i of the resident slot's queue, completes (R164): it waits for promotions and for the writes
of the must rule; a poisoned source runs the fault path (R465). -/
def tileComplete (c i : Nat) (s : State) : State :=
  let k := (coreRec s c).slot
  let x := slotRec s c k
  if ((coreRec s c).st = .running ∨ (coreRec s c).st = .preempting) ∧ nclkOn s then
    match x.queue[i]?, launchRec s ((x.queue[i]?.map QTile.launch).getD 0) with
    | some q, some l =>
      if ¬ q.fired then s
      else
        let rows := xferRows q.blk
        if rowsT2 s (rows.1 ++ rows.2) then promoteRows (rows.1 ++ rows.2) s
        else
          let o := runTile (tileCtx s c l) q.blk
          let bad := rows.1.flatMap (fun r => (poisonedIn s r.1 r.2.1 r.2.2).map (fun a => (r.1, a)))
            ++ rows.2.flatMap (fun r => (rmwPoison s r.1 r.2.1 r.2.2).map (fun a => (r.1, a)))
          match (if q.wrote then none else bad.head?) with
          | some b => poisonFault s b.1 (b.2 / 0x200000)
          | none =>
            let s1 := if q.wrote then s
              else forS (rows.1 ++ rows.2) (fun r => countAccess (dieOfCore c) r.1 r.2.1 r.2.2) (tileWrites c l o
                (modSlot c k (fun x => { x with queue := x.queue.modify i (fun y => { y with wrote := true }) }) s))
            if writesWait s1 (2 ^ 20 + c) then s1
            else settlePreempt c (retireTile c k i q l o s1)
    | _, _ => s
  else s
/-- TILE_COMPLETE of the tile at a place of a core's queue. -/
def execTileComplete (c i : Nat) (s : State) : Answer := .next (tileComplete c i s)

/-- TOKEN_POST: the i-th post on its way arrives (R158, R159, R165). -/
def execTokenPost (i : Nat) (s : State) : Answer :=
  .next (match s.cor.flight[i]? with
    | some f =>
      if nclkOn s then preemptOnWait f.post.core (landPost f (modCor (fun x => { x with flight := x.flight.eraseIdx i }) s)) else s
    | none => s)

/-! ## The hart (R230, R234, R235, R254) -/

/-- A tile of a slot's queue holds an access to n bytes back: a load behind a tile that writes them, a store behind one that
reads or writes them (R167, R254). -/
def accessWaits (s : State) (x : CSlot) (st : Bool) (a n : Nat) : Bool :=
  x.queue.any (fun q =>
    let r := blockRanges q.rng (fmtTab s)
    spansOverlap (if st then r.1 ++ r.2 else r.2) [⟨.u, a, a + n⟩])
/-- The access of a thing a hart did: whether it stores, its address and size. -/
def accessOf (o : HartOp) : Option (Bool × Nat × Nat) :=
  match o with
  | .load a n _ _ => some (false, a, n)
  | .store a b => some (true, a, b.length)
  | .amo a b _ _ => some (true, a, b.length)
  | .reg _ _ | .csr _ _ | .vcsr _ _ _ | .ran _ _ _ => none
/-- An address of the tile interface (Table 04.2). -/
def inTi (a : Nat) : Bool := decide (0x20000000 ≤ a) && decide (a < 0x20001000)
/-- The exception of an access, as its mcause code: misaligned 4 or 6, access fault 5 or 7 (R149, R169, R234; misaligned first:
log 151). -/
def accessFault (s : State) (c t : Nat) (st : Bool) (a n : Nat) : Option Nat :=
  if a % n ≠ 0 then some (if st then 6 else 4)
  else if (inTi a && decide (n = 4)) || (uKey s c t a).isSome then none
  else some (if st then 7 else 5)
/-- The exception of a thing a hart did. -/
def opFault (s : State) (c t : Nat) (o : HartOp) : Option Nat := (accessOf o).bind (fun x => accessFault s c t x.1 x.2.1 x.2.2)
/-- What of a run is done: all before the first exception. -/
def ranOps (s : State) (c t : Nat) (r : HartRun) : List HartOp := r.takeWhile (fun o => (opFault s c t o).isNone)
/-- The first exception of a run. -/
def runFault (s : State) (c t : Nat) (r : HartRun) : Option Nat := r.findSome? (opFault s c t)
/-- An access of the run waits for a tile (R167, R254): the run is held as a whole (log 66). -/
def runWaits (s : State) (c k : Nat) (r : HartRun) : Bool :=
  (ranOps s c (slotTen s c k) r).any (fun o => match accessOf o with
    | some x => accessWaits s (slotRec s c k) x.1 x.2.1 x.2.2
    | none => false)

/-- What a load from the tile interface returns, without a wait (R234, Table 06.4). -/
def tiRead (x : CSlot) (o : Nat) : Nat :=
  if o < 0x10 then fieldAt x.hdr o 4
  else if o = 0x14 then 64 - x.queue.length
  else if o = 0x18 then x.waitN
  else if o = 0x1C then x.flags % 256
  else if 0x400 ≤ o ∧ o < 0x800 then Map.get 0 x.cnts ((o - 0x400) / 4)
  else if 0xC00 ≤ o ∧ o < 0xD00 then Map.get 0 x.pools ((o - 0xC00) / 4)
  else 0
/-- Bytes a hart loads. -/
def hartLoad (s : State) (c k a n : Nat) : List Byte :=
  if inTi a then leB 4 (tiRead (slotRec s c k) (a - 0x20000000))
  else (List.range n).map (fun i => uGet s c (slotTen s c k) (a + i))
/-- The bytes a loaded value leaves in its register. -/
def fillBytes (e : Fill) (b : List Byte) : List Byte :=
  match e with
  | .zero => (b ++ zeros 8).take 8
  | .sign => (b ++ List.replicate 8 (if bitOf ((b.getLast?.getD 0).toNat) 7 then 255 else 0)).take 8
  | .box => (b ++ List.replicate 8 255).take 8
  | .elem => b
/-- Register bytes of the resident context (Table 04.5). -/
def putReg (c off : Nat) (b : List Byte) (s : State) : State :=
  if 0x410000 ≤ off ∧ off + b.length ≤ 0x410A00 then modMem (fun m => memWrite m (imgKey c off) b) s else s
/-- A store of a hart, to bed, terrace, or the staged header and COR_TI_WAITN (R234). -/
def hartStore (c k a : Nat) (b : List Byte) (s : State) : State :=
  if inTi a then
    let o := a - 0x20000000
    modSlot c k (fun x =>
      if o < 0x10 then { x with hdr := x.hdr.take o ++ b ++ x.hdr.drop (o + 4) }
      else if o = 0x18 then { x with waitN := fieldAt b 0 2 } else x) s
  else forS (b.mapIdx (fun i v => (a + i, v))) (uPut c (slotTen s c k)) s
/-- The counter CSRs of U-mode (R149): the time within 100 ns of the time base, cycles of the core (free), instructions of the
context. -/
def hartCsr (s : State) (c k i : Nat) : Nat :=
  if i = 0 then (nowT s).total + (Config.timeSkew (dieOfCore c) s.tim.s s.tim.ns).val - 100
  else if i = 1 then (Config.coreCycles c 64 s.tim.s s.tim.ns).toNat
  else (slotRec s c k).instret
/-- One thing a hart did takes effect. -/
def hartOp (c k : Nat) (o : HartOp) (s : State) : State :=
  match o with
  | .load a n e d => putReg c d (fillBytes e (hartLoad s c k a n)) s
  | .store a b => hartStore c k a b s
  | .amo a b e d => hartStore c k a b (putReg c d (fillBytes e (hartLoad s c k a b.length)) s)
  | .reg off b => putReg c off b s
  | .csr i d => putReg c d (leB 8 (hartCsr s c k i)) s
  | .vcsr v l f => modSlot c k (fun x => { x with vtype := v % 2 ^ 64, vl := l % 2 ^ 64, fcsr := f % 256 }) s
  | .ran n fp vec =>
    count c 0 35 vec (count c 0 34 fp (count c 0 33 n (modSlot c k (fun x => { x with instret := (x.instret + n) % 2 ^ 64 }) s)))
/-- A run takes effect, up to its first exception. -/
def applyRun (c k : Nat) (r : HartRun) (s : State) : State := forS (ranOps s c (slotTen s c k) r) (hartOp c k) s

/-- The hart of a core runs a plot of an incomplete launch. -/
def hartAt (s : State) (c : Nat) : Option (Nat × Launch × LPart) :=
  let k := (coreRec s c).slot
  if (coreRec s c).st = .running ∧ nclkOn s then
    match runningOn s c k with
    | some (l, p) => if p.plot.isSome ∧ (slotRec s c k).hart ≠ .off then some (k, l, p) else none
    | none => none
  else none
/-- The hart is not held at an access. -/
def hartFree (s : State) (c k : Nat) : Bool := decide ((slotRec s c k).hart = .run)
/-- A hart does a run and then one thing more, unless an access of the run raises an exception (R149, R230). -/
def hartDo (c : Nat) (r : HartRun) (f : Nat → Launch → LPart → State → State) (s : State) : State :=
  match hartAt s c with
  | some (k, l, p) =>
    if hartFree s c k ∧ ¬ runWaits s c k r then
      match runFault s c (slotTen s c k) r with
      | some e => faultLaunch l.tag c 0x10 0 (p.plot.getD 0) 0x0301 e (applyRun c k r s)
      | none => f k l p (applyRun c k r s)
    else s
  | none => s

/-- PLOT_END: ECALL 0 (R230): the next assigned plot starts at once. -/
def execPlotEnd (c : Nat) (r : HartRun) (s : State) : Answer :=
  .next (hartDo c r (fun k l _ s =>
    endPart l.tag c (nextPlot l.tag c k (modPart l.tag c (fun p => { p with ended := p.ended + 1 }) s))) s)
/-- ABORT: ECALL 1, with a0[15:0] (R230, R259). -/
def execPlotAbort (c : Nat) (r : HartRun) (code : Nat) (s : State) : Answer :=
  .next (hartDo c r (fun _ l p s => faultLaunch l.tag c 0x11 0 (p.plot.getD 0) 0x0302 (code % 65536) s) s)
/-- HART_EXCEPTION with its mcause code: any exception but those of a run's accesses (R230). -/
def execHartException (c : Nat) (r : HartRun) (cause : Nat) (s : State) : Answer :=
  .next (hartDo c r (fun _ l p s => faultLaunch l.tag c 0x10 0 (p.plot.getD 0) 0x0301 (cause % 65536) s) s)

/-! ## Pre-emption and swaps (R176 to R184) -/

/-- QUANTUM_EXPIRY (R177, R179): of a resident slot that runs, or whose launches have all ended. -/
def execQuantumExpiry (c : Nat) (s : State) : Answer :=
  .next (if ((coreRec s c).st = .running ∨ (coreRec s c).st = .idle) ∧ nclkOn s then
      match nextRunnable s c with
      | some k => preempt c k s
      | none => s
    else s)
/-- PREEMPT_LIMIT: 200 µs have passed; the tiles in flight are discarded and the swap starts (R179, R180, R184). -/
def execPreemptLimit (c : Nat) (s : State) : Answer :=
  .next (if (coreRec s c).st = .preempting ∧ nclkOn s then
      modCor (fun y => { y with preemptMax := Map.upd 0 y.preemptMax c (max 200) })
        (modCore c (fun y => { y with st := .swapping }) (discardFlight c (coreRec s c).slot s))
    else s)

/-- The parts whose tallies a swap latches: those started on a slot. -/
def startedOn (s : State) (c k : Nat) : List Nat :=
  (s.cor.launches.filter (fun l => l.parts.any (fun p => decide (p.core = c) && decide (p.slot = k) && p.started && !p.done))).map Launch.tag
/-- A swap ends: the outgoing slot's wait set is recorded, the images change places, the incoming slot's blocks are read
again (R176, R182, R183, R253). -/
def swapDone (c : Nat) (s : State) : State :=
  let old := (coreRec s c).slot
  let new := (coreRec s c).next
  let x := slotRec s c old
  let s1 := forS (startedOn s c old) (fun tag => latchPart tag c) (drainTrace c s)
  let s2 := if (coreRec s c).empty then s1
    else modSlot c old (fun y => { y with readyOut := !(hartWaits x) && hasReady x, waitSet := waitSetOf x }) s1
  let s3 := swapContext c old new s2
  let s4 := modSlot c new (fun y => { y with
    queue := y.queue.map (fun q => { q with blk := blockAt s3 c q.line, rng := blockAt s3 c q.line }) }) (markRan c new s3)
  settleCore c (modCore c (fun y => { y with st := .running, latches := y.counters }) s4)
/-- SWAP_DONE. -/
def execSwapDone (c : Nat) (s : State) : Answer :=
  .next (if (coreRec s c).st = .swapping ∧ nclkOn s ∧ ¬ s.err.fence then swapDone c s else s)

/-- Appends a tile to the queue of the resident slot, its block read for its ranges (R235, R253). -/
def pushTile (c k line : Nat) (l : Launch) (p : LPart) (s : State) : State :=
  modSlot c k (fun x => { x with
    hart := .run,
    queue := x.queue ++ [{
        hdr := x.hdr, line := line % 65536, launch := l.tag, plot := p.plot.getD 0,
        blk := blockAt s c (line % 65536), rng := blockAt s c (line % 65536) }] })
    (modLaunch l.tag (fun l => { l with tables := (l.tables ++ tablesOf (blockAt s c (line % 65536))).eraseDups }) s)
/-- A held access of a resident slot's hart is made again (R235), or a run ends with it. -/
def hartAccess (c : Nat) (me : HartSt) (r : HartRun) (f : Nat → Launch → LPart → State → State) (s : State) : State :=
  match hartAt s c with
  | some (k, l, p) => if (slotRec s c k).hart = me then f k l p s else hartDo c r f s
  | none => s
/-- COR_TI_PUSH: a push, again once an entry is free (R235). -/
def execCorTiPush (c : Nat) (r : HartRun) (line : Nat) (s : State) : Answer :=
  .next (hartAccess c (.waitPush line) r (fun k l p s =>
    if (slotRec s c k).queue.length < 64 then pushTile c k line l p s
    else preemptOnWait c (modSlot c k (fun x => { x with hart := .waitPush line }) s)) s)

/-- A wait load of a counter or pool: it subtracts COR_TI_WAITN and returns the remainder (R234). -/
def tiWait (c : Nat) (r : HartRun) (pool : Bool) (i rd : Nat) (s : State) : State :=
  let me := if pool then HartSt.waitPool i else .waitCnt i
  hartAccess c me r (fun k _ _ s =>
    let x := slotRec s c k
    let n := max 1 x.waitN
    let v := if pool then Map.get 0 x.pools i else Map.get 0 x.cnts i
    if n ≤ v then
      modSlot c k (fun x => { x with
        hart := .run, cnts := if pool then x.cnts else Map.set 0 x.cnts i (v - n), pools := if pool then Map.set 0 x.pools i (v - n) else x.pools })
        (if 1 ≤ rd ∧ rd < 32 then putReg c (xReg rd) (leB 8 (v - n)) s else s)
    else preemptOnWait c (modSlot c k (fun x => { x with hart := me }) s)) s
/-- COR_TI_WAIT on a counter. -/
def execCorTiWait (c : Nat) (r : HartRun) (w : WaitLoad) (s : State) : Answer :=
  .next (if w.idx < 256 then tiWait c r false w.idx w.rd s else s)
/-- COR_TI_PWAIT on a pool. -/
def execCorTiPwait (c : Nat) (r : HartRun) (w : WaitLoad) (s : State) : Answer :=
  .next (if w.idx < 64 then tiWait c r true w.idx w.rd s else s)

/-- A write to a counter or pool adds (R159, R234). -/
def tiAdd (c : Nat) (r : HartRun) (pool : Bool) (i v : Nat) (s : State) : State :=
  hartDo c r (fun k _ _ s => postCnt c k pool i (v % 65536) s) s
/-- COR_TI_CNT: a write. -/
def execCorTiCnt (c : Nat) (r : HartRun) (i v : Nat) (s : State) : Answer := .next (if i < 256 then tiAdd c r false i v s else s)
/-- COR_TI_POOL: a write. -/
def execCorTiPool (c : Nat) (r : HartRun) (i v : Nat) (s : State) : Answer := .next (if i < 64 then tiAdd c r true i v s else s)

/-- LAUNCH_TIMEOUT: the time limit of an incomplete launch that has started (R232); recorded at its lowest core. -/
def execLaunchTimeout (tag : Nat) (s : State) : Answer :=
  .next (match launchRec s tag with
    | some l =>
      if l.at_.isSome ∧ nclkOn s then
        let ended := (l.parts.map LPart.ended).sum
        match l.parts.head? with
        | some p => failLaunch tag 0x0303 0 (ended % 2 ^ 32) (noteFlt p.core 0x12 0 l.tenant (p.plot.getD 0) s)
        | none => s
      else s
    | none => s)

/-- SEGMENT_ZEROIZE_DONE (R170). -/
def execSegmentZeroizeDone (die seg : Nat) (s : State) : Answer :=
  .next (modCor (fun x => { x with terZero := without (die * 64 + seg) x.terZero }) s)

end Sys2Proof.Machine
end

