-- ==== Sys2Proof/Machine/Dispatch.lean ====
section
/-! DEFINITION. Machine/Dispatch.lean: one arm per command. -/
namespace Sys2Proof.Machine

def exec (i : Instr) (s : State) : Host.Outcome State Fault Refusal :=
  match i with
  | .powerOn => Sys2Proof.Machine.execPowerOn s
  | .auxRailLow => Sys2Proof.Machine.execAuxRailLow s
  | .inputLow => Sys2Proof.Machine.execInputLow s
  | .inputOvervoltage => Sys2Proof.Machine.execInputOvervoltage s
  | .inputQualified => Sys2Proof.Machine.execInputQualified s
  | .resetAssert => Sys2Proof.Machine.execResetAssert s
  | .resetRelease => Sys2Proof.Machine.execResetRelease s
  | .tapReset => Sys2Proof.Machine.execTapReset s
  | .hostLinkDown => Sys2Proof.Machine.execHostLinkDown s
  | .hostLinkUp width rate flit => Sys2Proof.Machine.execHostLinkUp width rate flit s
  | .hifLinkResume => Sys2Proof.Machine.execHifLinkResume s
  | .flrVf n => Sys2Proof.Machine.execFlrVf n s
  | .vfDisable clear keep => Sys2Proof.Machine.execVfDisable clear keep s
  | .flrPf0 => Sys2Proof.Machine.execFlrPf0 s
  | .hotReset => Sys2Proof.Machine.execHotReset s
  | .atsInvalidation fn page pages deny => Sys2Proof.Machine.execAtsInvalidation fn page pages deny s
  | .msixUnmask acc vec => Sys2Proof.Machine.execMsixUnmask acc vec s
  | .msixModExpiry r => Sys2Proof.Machine.execMsixModExpiry r s
  | .doorbell acc page off size value => Sys2Proof.Machine.execDoorbell acc page off size value s
  | .fetchIssue r tags => Sys2Proof.Machine.execFetchIssue r tags s
  | .fetchReadDone r flt ep bytes => Sys2Proof.Machine.execFetchReadDone r flt ep bytes s
  | .selectorWrite acc a v => Sys2Proof.Machine.execSelectorWrite acc a v s
  | .registerWrite acc a v => Sys2Proof.Machine.execRegisterWrite acc a v s
  | .commitApply ix rd => Sys2Proof.Machine.execCommitApply ix rd s
  | .hifTenCommit acc => Sys2Proof.Machine.execHifTenCommit acc s
  | .hifTenAbort acc => Sys2Proof.Machine.execHifTenAbort acc s
  | .rngCommit acc => Sys2Proof.Machine.execRngCommit acc s
  | .rngAbort acc => Sys2Proof.Machine.execRngAbort acc s
  | .plnCommit acc => Sys2Proof.Machine.execPlnCommit acc s
  | .plnAbort acc => Sys2Proof.Machine.execPlnAbort acc s
  | .plnTqCommit acc => Sys2Proof.Machine.execPlnTqCommit acc s
  | .plnTqAbort acc => Sys2Proof.Machine.execPlnTqAbort acc s
  | .memRsvCommit acc => Sys2Proof.Machine.execMemRsvCommit acc s
  | .memRsvAbort acc => Sys2Proof.Machine.execMemRsvAbort acc s
  | .memThermCommit acc => Sys2Proof.Machine.execMemThermCommit acc s
  | .memThermAbort acc => Sys2Proof.Machine.execMemThermAbort acc s
  | .corCommit acc win => Sys2Proof.Machine.execCorCommit acc win s
  | .corAbort acc win => Sys2Proof.Machine.execCorAbort acc win s
  | .corTerCommit acc win => Sys2Proof.Machine.execCorTerCommit acc win s
  | .corTerAbort acc win => Sys2Proof.Machine.execCorTerAbort acc win s
  | .arrCommit acc => Sys2Proof.Machine.execArrCommit acc s
  | .arrAbort acc => Sys2Proof.Machine.execArrAbort acc s
  | .fmtCommit acc => Sys2Proof.Machine.execFmtCommit acc s
  | .fmtAbort acc => Sys2Proof.Machine.execFmtAbort acc s
  | .vnlPortCommit acc win => Sys2Proof.Machine.execVnlPortCommit acc win s
  | .vnlPortAbort acc win => Sys2Proof.Machine.execVnlPortAbort acc win s
  | .vnlPclCommit acc => Sys2Proof.Machine.execVnlPclCommit acc s
  | .vnlPclAbort acc => Sys2Proof.Machine.execVnlPclAbort acc s
  | .colCommit acc => Sys2Proof.Machine.execColCommit acc s
  | .colAbort acc => Sys2Proof.Machine.execColAbort acc s
  | .stpTenCommit acc => Sys2Proof.Machine.execStpTenCommit acc s
  | .stpTenAbort acc => Sys2Proof.Machine.execStpTenAbort acc s
  | .rckTenCommit acc => Sys2Proof.Machine.execRckTenCommit acc s
  | .rckTenAbort acc => Sys2Proof.Machine.execRckTenAbort acc s
  | .rckWearCommit acc => Sys2Proof.Machine.execRckWearCommit acc s
  | .rckWearAbort acc => Sys2Proof.Machine.execRckWearAbort acc s
  | .celCommit acc => Sys2Proof.Machine.execCelCommit acc s
  | .celAbort acc => Sys2Proof.Machine.execCelAbort acc s
  | .celSvcCommit acc => Sys2Proof.Machine.execCelSvcCommit acc s
  | .celSvcAbort acc => Sys2Proof.Machine.execCelSvcAbort acc s
  | .celTblLoad acc => Sys2Proof.Machine.execCelTblLoad acc s
  | .celTblAbort acc => Sys2Proof.Machine.execCelTblAbort acc s
  | .celTblUnload acc => Sys2Proof.Machine.execCelTblUnload acc s
  | .errCommit acc => Sys2Proof.Machine.execErrCommit acc s
  | .errAbort acc => Sys2Proof.Machine.execErrAbort acc s
  | .pwrCommit acc => Sys2Proof.Machine.execPwrCommit acc s
  | .pwrAbort acc => Sys2Proof.Machine.execPwrAbort acc s
  | .timCommit acc => Sys2Proof.Machine.execTimCommit acc s
  | .timAbort acc => Sys2Proof.Machine.execTimAbort acc s
  | .secKeyInstall acc => Sys2Proof.Machine.execSecKeyInstall acc s
  | .secKeyAbort acc => Sys2Proof.Machine.execSecKeyAbort acc s
  | .secKeyDestroy acc => Sys2Proof.Machine.execSecKeyDestroy acc s
  | .secOpen acc tok => Sys2Proof.Machine.execSecOpen acc tok s
  | .secClose acc => Sys2Proof.Machine.execSecClose acc s
  | .secClearRetire acc => Sys2Proof.Machine.execSecClearRetire acc s
  | .secSeal acc tok => Sys2Proof.Machine.execSecSeal acc tok s
  | .secRetire acc tok => Sys2Proof.Machine.execSecRetire acc tok s
  | .dbgCommit acc => Sys2Proof.Machine.execDbgCommit acc s
  | .dbgAbort acc => Sys2Proof.Machine.execDbgAbort acc s
  | .dbgTenCommit acc => Sys2Proof.Machine.execDbgTenCommit acc s
  | .dbgTenAbort acc => Sys2Proof.Machine.execDbgTenAbort acc s
  | .bootCommit acc => Sys2Proof.Machine.execBootCommit acc s
  | .bootAbort acc => Sys2Proof.Machine.execBootAbort acc s
  | .vnlErrClr acc p => Sys2Proof.Machine.execVnlErrClr acc p s
  | .vnlMemoClrLinks acc => Sys2Proof.Machine.execVnlMemoClrLinks acc s
  | .vnlMemoClrRoutes acc => Sys2Proof.Machine.execVnlMemoClrRoutes acc s
  | .rckSlotRelease acc k v => Sys2Proof.Machine.execRckSlotRelease acc k v s
  | .switchover acc => Sys2Proof.Machine.execSwitchover acc s
  | .restartStandby acc => Sys2Proof.Machine.execRestartStandby acc s
  | .errClr acc => Sys2Proof.Machine.execErrClr acc s
  | .pwrReqAwake acc => Sys2Proof.Machine.execPwrReqAwake acc s
  | .pwrReqDormant acc => Sys2Proof.Machine.execPwrReqDormant acc s
  | .pwrReqStandby acc => Sys2Proof.Machine.execPwrReqStandby acc s
  | .timNowNs acc => Sys2Proof.Machine.execTimNowNs acc s
  | .timNtpOk acc => Sys2Proof.Machine.execTimNtpOk acc s
  | .timTxqPop acc => Sys2Proof.Machine.execTimTxqPop acc s
  | .modBlkDrain acc v => Sys2Proof.Machine.execModBlkDrain acc v s
  | .modBlkReset acc v => Sys2Proof.Machine.execModBlkReset acc v s
  | .bootFenceClr acc => Sys2Proof.Machine.execBootFenceClr acc s
  | .bookCurNext acc => Sys2Proof.Machine.execBookCurNext acc s
  | .bookClear acc => Sys2Proof.Machine.execBookClear acc s
  | .dbgFrostFreeze acc => Sys2Proof.Machine.execDbgFrostFreeze acc s
  | .dbgFrostResume acc => Sys2Proof.Machine.execDbgFrostResume acc s
  | .frostStopped cut => Sys2Proof.Machine.execFrostStopped cut s
  | .dbgScanData acc => Sys2Proof.Machine.execDbgScanData acc s
  | .dbgTraceData acc => Sys2Proof.Machine.execDbgTraceData acc s
  | .nop tag => Sys2Proof.Machine.execNop tag s
  | .fence tag => Sys2Proof.Machine.execFence tag s
  | .dmaH2d tag flt bytes => Sys2Proof.Machine.execDmaH2d tag flt bytes s
  | .dmaD2h tag => Sys2Proof.Machine.execDmaD2h tag s
  | .dmaCopy tag => Sys2Proof.Machine.execDmaCopy tag s
  | .dmaFill tag => Sys2Proof.Machine.execDmaFill tag s
  | .dmaDone tag => Sys2Proof.Machine.execDmaDone tag s
  | .handleCreate tag want => Sys2Proof.Machine.execHandleCreate tag want s
  | .handleFree tag => Sys2Proof.Machine.execHandleFree tag s
  | .handleHint tag => Sys2Proof.Machine.execHandleHint tag s
  | .handleQuery tag => Sys2Proof.Machine.execHandleQuery tag s
  | .launch tag => Sys2Proof.Machine.execLaunch tag s
  | .launchCoreStart tag c => Sys2Proof.Machine.execLaunchCoreStart tag c s
  | .tileFire c => Sys2Proof.Machine.execTileFire c s
  | .tileComplete c ix => Sys2Proof.Machine.execTileComplete c ix s
  | .tokenPost ix => Sys2Proof.Machine.execTokenPost ix s
  | .plotEnd c r => Sys2Proof.Machine.execPlotEnd c r s
  | .plotAbort c r code => Sys2Proof.Machine.execPlotAbort c r code s
  | .hartException c r cause => Sys2Proof.Machine.execHartException c r cause s
  | .corTiPush c r line => Sys2Proof.Machine.execCorTiPush c r line s
  | .corTiWait c r w => Sys2Proof.Machine.execCorTiWait c r w s
  | .corTiPwait c r w => Sys2Proof.Machine.execCorTiPwait c r w s
  | .corTiCnt c r ix v => Sys2Proof.Machine.execCorTiCnt c r ix v s
  | .corTiPool c r ix v => Sys2Proof.Machine.execCorTiPool c r ix v s
  | .launchTimeout tag => Sys2Proof.Machine.execLaunchTimeout tag s
  | .quantumExpiry c => Sys2Proof.Machine.execQuantumExpiry c s
  | .preemptLimit c => Sys2Proof.Machine.execPreemptLimit c s
  | .swapDone c => Sys2Proof.Machine.execSwapDone c s
  | .segmentZeroizeDone die seg => Sys2Proof.Machine.execSegmentZeroizeDone die seg s
  | .cclkStep d => Sys2Proof.Machine.execCclkStep d s
  | .planterDecay => Sys2Proof.Machine.execPlanterDecay s
  | .pageZeroizeDone tier stack => Sys2Proof.Machine.execPageZeroizeDone tier stack s
  | .migrationCopyDone h p => Sys2Proof.Machine.execMigrationCopyDone h p s
  | .migrationBackoffEnd key => Sys2Proof.Machine.execMigrationBackoffEnd key s
  | .promotionDone key => Sys2Proof.Machine.execPromotionDone key s
  | .pressLineTimeout stack h line => Sys2Proof.Machine.execPressLineTimeout stack h line s
  | .stackTempSample k temp => Sys2Proof.Machine.execStackTempSample k temp s
  | .stackLost k => Sys2Proof.Machine.execStackLost k s
  | .ucieLaneLost d => Sys2Proof.Machine.execUcieLaneLost d s
  | .refclkLost => Sys2Proof.Machine.execRefclkLost s
  | .refclkHoldoverEnd => Sys2Proof.Machine.execRefclkHoldoverEnd s
  | .allreduce tag => Sys2Proof.Machine.execAllreduce tag s
  | .reduceScatter tag => Sys2Proof.Machine.execReduceScatter tag s
  | .allgather tag => Sys2Proof.Machine.execAllgather tag s
  | .broadcast tag => Sys2Proof.Machine.execBroadcast tag s
  | .barrier tag => Sys2Proof.Machine.execBarrier tag s
  | .contribution ix => Sys2Proof.Machine.execContribution ix s
  | .globalPartial ix => Sys2Proof.Machine.execGlobalPartial ix s
  | .globalResult ix => Sys2Proof.Machine.execGlobalResult ix s
  | .gatherData ix => Sys2Proof.Machine.execGatherData ix s
  | .barrierEnter ix => Sys2Proof.Machine.execBarrierEnter ix s
  | .barrierRelease ix => Sys2Proof.Machine.execBarrierRelease ix s
  | .collectiveDone tag => Sys2Proof.Machine.execCollectiveDone tag s
  | .collTimeout tag => Sys2Proof.Machine.execCollTimeout tag s
  | .stepOpen tag => Sys2Proof.Machine.execStepOpen tag s
  | .stepSeal tag => Sys2Proof.Machine.execStepSeal tag s
  | .stepResync tag => Sys2Proof.Machine.execStepResync tag s
  | .stepQuery tag => Sys2Proof.Machine.execStepQuery tag s
  | .stepReport ix => Sys2Proof.Machine.execStepReport ix s
  | .stepDraw ix => Sys2Proof.Machine.execStepDraw ix s
  | .stepFail ix => Sys2Proof.Machine.execStepFail ix s
  | .drawTimeout t n => Sys2Proof.Machine.execDrawTimeout t n s
  | .drawSplitTimeout t n => Sys2Proof.Machine.execDrawSplitTimeout t n s
  | .preimageCopyDone h p b => Sys2Proof.Machine.execPreimageCopyDone h p b s
  | .restoreDone t bad => Sys2Proof.Machine.execRestoreDone t bad s
  | .mustHoldWriteDone => Sys2Proof.Machine.execMustHoldWriteDone s
  | .rackTake tag => Sys2Proof.Machine.execRackTake tag s
  | .rackKey tag => Sys2Proof.Machine.execRackKey tag s
  | .rackRestore tag => Sys2Proof.Machine.execRackRestore tag s
  | .rackSeed tag => Sys2Proof.Machine.execRackSeed tag s
  | .rackQuery tag => Sys2Proof.Machine.execRackQuery tag s
  | .rackMarksDone => Sys2Proof.Machine.execRackMarksDone s
  | .rackCowCopyDone h p b => Sys2Proof.Machine.execRackCowCopyDone h p b s
  | .copyPassDone bad => Sys2Proof.Machine.execCopyPassDone bad s
  | .rackDrainDone bad => Sys2Proof.Machine.execRackDrainDone bad s
  | .graftOfferReq ix => Sys2Proof.Machine.execGraftOfferReq ix s
  | .graftOffer ix => Sys2Proof.Machine.execGraftOffer ix s
  | .graftData ix => Sys2Proof.Machine.execGraftData ix s
  | .graftCommit ix => Sys2Proof.Machine.execGraftCommit ix s
  | .graftAck ix => Sys2Proof.Machine.execGraftAck ix s
  | .graftHash ix => Sys2Proof.Machine.execGraftHash ix s
  | .graftReadReq ix => Sys2Proof.Machine.execGraftReadReq ix s
  | .graftReadData ix => Sys2Proof.Machine.execGraftReadData ix s
  | .hashCompareTimeout ix => Sys2Proof.Machine.execHashCompareTimeout ix s
  | .restoreReadTimeout tag => Sys2Proof.Machine.execRestoreReadTimeout tag s
  | .seedDonorTimeout ix => Sys2Proof.Machine.execSeedDonorTimeout ix s
  | .wearBucketTick => Sys2Proof.Machine.execWearBucketTick s
  | .tenantZeroizeDone t => Sys2Proof.Machine.execTenantZeroizeDone t s
  | .trigArm tag => Sys2Proof.Machine.execTrigArm tag s
  | .trigCancel tag => Sys2Proof.Machine.execTrigCancel tag s
  | .triggerFire k => Sys2Proof.Machine.execTriggerFire k s
  | .slewDone => Sys2Proof.Machine.execSlewDone s
  | .tpInEdge width => Sys2Proof.Machine.execTpInEdge width s
  | .tpinMiss => Sys2Proof.Machine.execTpinMiss s
  | .ntpTimeout => Sys2Proof.Machine.execNtpTimeout s
  | .tpOutFall => Sys2Proof.Machine.execTpOutFall s
  | .flitReceive p corrected uncorr env plain => Sys2Proof.Machine.execFlitReceive p corrected uncorr env plain s
  | .retryTimeout p => Sys2Proof.Machine.execRetryTimeout p s
  | .windowRestart p => Sys2Proof.Machine.execWindowRestart p s
  | .hbTimer => Sys2Proof.Machine.execHbTimer s
  | .lightLost p => Sys2Proof.Machine.execLightLost p s
  | .lightStable p => Sys2Proof.Machine.execLightStable p s
  | .portIdentify p peer peerPort circuit => Sys2Proof.Machine.execPortIdentify p peer peerPort circuit s
  | .identTimeout p => Sys2Proof.Machine.execIdentTimeout p s
  | .identifyRetry p peer peerPort circuit => Sys2Proof.Machine.execIdentifyRetry p peer peerPort circuit s
  | .equalizeDone p ok coef => Sys2Proof.Machine.execEqualizeDone p ok coef s
  | .alignDone p ok => Sys2Proof.Machine.execAlignDone p ok s
  | .retrainDone p ok => Sys2Proof.Machine.execRetrainDone p ok s
  | .hsHello p => Sys2Proof.Machine.execHsHello p s
  | .hsCert p => Sys2Proof.Machine.execHsCert p s
  | .hsToken p => Sys2Proof.Machine.execHsToken p s
  | .hsVerdict p => Sys2Proof.Machine.execHsVerdict p s
  | .hsWait p => Sys2Proof.Machine.execHsWait p s
  | .handshakeResend p => Sys2Proof.Machine.execHandshakeResend p s
  | .handshakeTimeout p => Sys2Proof.Machine.execHandshakeTimeout p s
  | .handshakeRestart p => Sys2Proof.Machine.execHandshakeRestart p s
  | .tokenSignDone p => Sys2Proof.Machine.execTokenSignDone p s
  | .tokenVerifyDone p => Sys2Proof.Machine.execTokenVerifyDone p s
  | .slotLost b k => Sys2Proof.Machine.execSlotLost b k s
  | .marginMeasure p lane pw eye => Sys2Proof.Machine.execMarginMeasure p lane pw eye s
  | .commitStrobe => Sys2Proof.Machine.execCommitStrobe s
  | .cycleFreeze done power energy dv fw => Sys2Proof.Machine.execCycleFreeze done power energy dv fw s
  | .imageReceive ok => Sys2Proof.Machine.execImageReceive ok s
  | .imageAck => Sys2Proof.Machine.execImageAck s
  | .batchReceive intact => Sys2Proof.Machine.execBatchReceive intact s
  | .pathSilence owner ka => Sys2Proof.Machine.execPathSilence owner ka s
  | .watchdogExpiry => Sys2Proof.Machine.execWatchdogExpiry s
  | .cellarerUe => Sys2Proof.Machine.execCellarerUe s
  | .ownGrant => Sys2Proof.Machine.execOwnGrant s
  | .ownDefaultTimeout => Sys2Proof.Machine.execOwnDefaultTimeout s
  | .standbySyncDone => Sys2Proof.Machine.execStandbySyncDone s
  | .noBatchTimeout => Sys2Proof.Machine.execNoBatchTimeout s
  | .svcHeartbeatTimer => Sys2Proof.Machine.execSvcHeartbeatTimer s
  | .svcHeartbeat frame body => Sys2Proof.Machine.execSvcHeartbeat frame body s
  | .svcNotice frame body => Sys2Proof.Machine.execSvcNotice frame body s
  | .svcDivert frame body plains => Sys2Proof.Machine.execSvcDivert frame body plains s
  | .arpRequest src target => Sys2Proof.Machine.execArpRequest src target s
  | .neighborSolicitation src target => Sys2Proof.Machine.execNeighborSolicitation src target s
  | .icmpEcho src target data => Sys2Proof.Machine.execIcmpEcho src target data s
  | .ntpResponse bytes => Sys2Proof.Machine.execNtpResponse bytes s
  | .peerLinkSilence b k => Sys2Proof.Machine.execPeerLinkSilence b k s
  | .peerSvcSilence e => Sys2Proof.Machine.execPeerSvcSilence e s
  | .portTimerExpiry p => Sys2Proof.Machine.execPortTimerExpiry p s
  | .wiltMarginClear p => Sys2Proof.Machine.execWiltMarginClear p s
  | .faultReport src unit core t h off => Sys2Proof.Machine.execFaultReport src unit core t h off s
  | .faultMessage => Sys2Proof.Machine.execFaultMessage s
  | .complexResetRelease => Sys2Proof.Machine.execComplexResetRelease s
  | .correctedError u => Sys2Proof.Machine.execCorrectedError u s
  | .scrubUe h p b => Sys2Proof.Machine.execScrubUe h p b s
  | .stressHeatDone d => Sys2Proof.Machine.execStressHeatDone d s
  | .stressPassDone d corner again => Sys2Proof.Machine.execStressPassDone d corner again s
  | .clampEngage transient => Sys2Proof.Machine.execClampEngage transient s
  | .clampStep => Sys2Proof.Machine.execClampStep s
  | .clampRelease => Sys2Proof.Machine.execClampRelease s
  | .pacingWindow opens => Sys2Proof.Machine.execPacingWindow opens s
  | .capUnmetTimeout => Sys2Proof.Machine.execCapUnmetTimeout s
  | .dieTempSample d t => Sys2Proof.Machine.execDieTempSample d t s
  | .vintageRead margins => Sys2Proof.Machine.execVintageRead margins s
  | .marginSweepDone d vfail => Sys2Proof.Machine.execMarginSweepDone d vfail s
  | .replanTimer => Sys2Proof.Machine.execReplanTimer s
  | .idleTimer => Sys2Proof.Machine.execIdleTimer s
  | .dormantEntryDone => Sys2Proof.Machine.execDormantEntryDone s
  | .dormantExitDone => Sys2Proof.Machine.execDormantExitDone s
  | .openedExpiry => Sys2Proof.Machine.execOpenedExpiry s
  | .serviceKeyGraceEnd => Sys2Proof.Machine.execServiceKeyGraceEnd s
  | .getVersion => Sys2Proof.Machine.execGetVersion s
  | .getCapabilities => Sys2Proof.Machine.execGetCapabilities s
  | .negotiateAlgorithms offers => Sys2Proof.Machine.execNegotiateAlgorithms offers s
  | .getDigests => Sys2Proof.Machine.execGetDigests s
  | .getCertificate slot off len => Sys2Proof.Machine.execGetCertificate slot off len s
  | .spdmChallenge slot req => Sys2Proof.Machine.execSpdmChallenge slot req s
  | .getMeasurements ix sig req => Sys2Proof.Machine.execGetMeasurements ix sig req s
  | .keyExchange id slot req => Sys2Proof.Machine.execKeyExchange id slot req s
  | .spdmFinish id ok => Sys2Proof.Machine.execSpdmFinish id ok s
  | .endSession id => Sys2Proof.Machine.execEndSession id s
  | .spdmHeartbeat id => Sys2Proof.Machine.execSpdmHeartbeat id s
  | .keyUpdate id both => Sys2Proof.Machine.execKeyUpdate id both s
  | .chunkSend first part => Sys2Proof.Machine.execChunkSend first part s
  | .chunkGet off len => Sys2Proof.Machine.execChunkGet off len s
  | .ideQuery id => Sys2Proof.Machine.execIdeQuery id s
  | .keyProg id k => Sys2Proof.Machine.execKeyProg id k s
  | .kSetGo id k => Sys2Proof.Machine.execKSetGo id k s
  | .kSetStop id k => Sys2Proof.Machine.execKSetStop id k s
  | .getTdispVersion id => Sys2Proof.Machine.execGetTdispVersion id s
  | .getTdispCapabilities id => Sys2Proof.Machine.execGetTdispCapabilities id s
  | .lockInterface id v => Sys2Proof.Machine.execLockInterface id v s
  | .getDeviceInterfaceReport id v => Sys2Proof.Machine.execGetDeviceInterfaceReport id v s
  | .getDeviceInterfaceState id v => Sys2Proof.Machine.execGetDeviceInterfaceState id v s
  | .startInterface id v nonce => Sys2Proof.Machine.execStartInterface id v nonce s
  | .stopInterface id v => Sys2Proof.Machine.execStopInterface id v s
  | .traceSample c pc mMode wait flags drained => Sys2Proof.Machine.execTraceSample c pc mMode wait flags drained s
  | .extest => Sys2Proof.Machine.execExtest s
  | .idcode => Sys2Proof.Machine.execIdcode s
  | .samplePreload pins load => Sys2Proof.Machine.execSamplePreload pins load s
  | .tapClamp => Sys2Proof.Machine.execTapClamp s
  | .highz => Sys2Proof.Machine.execHighz s
  | .extestPulse => Sys2Proof.Machine.execExtestPulse s
  | .extestTrain => Sys2Proof.Machine.execExtestTrain s
  | .dbgAccess write o v => Sys2Proof.Machine.execDbgAccess write o v s
  | .caveDbg op addr data => Sys2Proof.Machine.execCaveDbg op addr data s
  | .tapBypass => Sys2Proof.Machine.execTapBypass s
  | .bootStepDone res ucie unit mask => Sys2Proof.Machine.execBootStepDone res ucie unit mask s
  | .bootStepLimit unit mask => Sys2Proof.Machine.execBootStepLimit unit mask s
  | .updDownload acc => Sys2Proof.Machine.execUpdDownload acc s
  | .updVerify acc => Sys2Proof.Machine.execUpdVerify acc s
  | .updActivate acc => Sys2Proof.Machine.execUpdActivate acc s
  | .updConfirm acc => Sys2Proof.Machine.execUpdConfirm acc s
  | .updAbort acc => Sys2Proof.Machine.execUpdAbort acc s
  | .downloadDone data => Sys2Proof.Machine.execDownloadDone data s
  | .verifyDone => Sys2Proof.Machine.execVerifyDone s
  | .hoursPersist => Sys2Proof.Machine.execHoursPersist s
  | .keepaliveEdge owner => Sys2Proof.Machine.execKeepaliveEdge owner s
  | .standbyCycle => Sys2Proof.Machine.execStandbyCycle s
  | .standbyBootDone => Sys2Proof.Machine.execStandbyBootDone s
  | .holdUpRunDown => Sys2Proof.Machine.execHoldUpRunDown s
  | .standbyEntryDone => Sys2Proof.Machine.execStandbyEntryDone s
  | .tpOutRise => Sys2Proof.Machine.execTpOutRise s
  | .caveHealthTestFail d test => Sys2Proof.Machine.execCaveHealthTestFail d test s
  | .inBandInterrupt target => Sys2Proof.Machine.execInBandInterrupt target s
  | .scrubPassDone tier => Sys2Proof.Machine.execScrubPassDone tier s
  | .frostResumeDone => Sys2Proof.Machine.execFrostResumeDone s

end Sys2Proof.Machine
end

