-- ==== Sys2Proof/Machine/Tick.lean ====
section
/-!
DEFINITION. Machine/Tick.lean: one edge of TCLK, what the module does when no command waits (log 51).
-/
namespace Sys2Proof.Machine

/-- The operating-hours count advances in every power state other than Off (R629): 25,000,000 ticks of 4 ns are 0.1 s. -/
def tickHours (s : State) : State :=
  modBook (fun b => if b.hourSub + 1 = 25000000 then { b with hours := b.hours + 1, hourSub := 0 } else { b with hourSub := b.hourSub + 1 }) s
/-- The IOD, which holds the time base, is powered and has passed B06 (Table 13.1, Table 17.4). -/
def iodOn (s : State) : Bool :=
  (decide (s.pwr.st ≠ .off) && decide (s.pwr.st ≠ .standby)) || (b06Done s && (decide (s.boot.step ≠ 0) || s.boot.halted))
/-- One edge of TCLK: nothing in Frost (R541, R580) and in Off; in reset, in Standby and once MOD_REFCLK is lost (R39) the time base stands,
and the hours count of the Cellarers' own clock goes on (R41). -/
def tickEdge (s : State) : State :=
  if s.dbg.frost ≠ 0 ∨ s.pwr.st = .off then s
  else if s.boot.heldReset then { s with tick := s.tick + 1 }
  else if iodOn s ∧ ¬ s.cor.domStopped then tickTime (tickHours s)
  else { tickHours s with tick := s.tick + 1 }

end Sys2Proof.Machine
end

