-- ==== Sys2Proof/Machine/Step.lean ====
section
/-! DEFINITION. Machine/Step.lean: one step of the module: the command at the front of its queue, or one edge of TCLK. -/

namespace Sys2Proof.Machine

/-- One step: the command at the front of the queue acts on the module with the queue's rest; on an empty queue one edge of TCLK
passes (log 51). -/
def step (s : State) : Host.Outcome State Fault Refusal :=
  match s.pending with
  | [] => .next (tickEdge s)
  | c :: r => exec c { s with pending := r }

/-- `s` with the command a word spells at the front of its queue; `s` unchanged where the word spells none. -/
def State.withFetchWord (s : State) (nbits w : Nat) : State :=
  match Sys2Proof.decodeTableWord nbits w with
  | some c => { s with pending := c :: s.pending }
  | none => s

end Sys2Proof.Machine
end

