-- ==== Sys2Proof/Safety.lean ====
section
/-!
DEFINITION. Safety.lean: what holds of every state the module can be in, and what no command changes.
-/
namespace Sys2Proof.Machine

/-- Every committed register's reserved bits are zero (R10). -/
def setsOk (m : Map Word) : Bool := m.all (fun e => decide (e.2 &&& ~~~ keyMask e.1 = 0))

/-- The invariant of the module: memory has its canonical form; reserved bits of committed registers are zero (R10); Frost is in one
of its four states (Table 16.9); the book's floor is at most its head (R626), in the copy a standby keeps too. -/
structure Inv (s : State) : Prop where
  mem : memWf s.mem = true
  sets : setsOk s.grp.sets = true
  frost : s.dbg.frost ≤ 3
  book : s.book.floor ≤ s.book.head
  stale : ∀ x, s.cel.stale = some x → x.book.floor ≤ x.book.head

/-- What no command changes: the configuration, the module's identity, the queue. -/
structure Fixed (a s : State) : Prop where
  half : s.half = a.half
  moduleId : s.moduleId = a.moduleId
  pending : s.pending = a.pending

/-- Both, of a state reached from `a`. -/
structure Kept (a s : State) : Prop where
  fixed : Fixed a s
  inv : Inv s

/-- The same of the state an answer holds. -/
def KeptA (a : State) (r : Answer) : Prop := ∀ t, r = .next t → Kept a t

/-- The parts of State. -/
inductive Part where
  | half | moduleId | pending | tick | free | out | mem | regs | grp | hif | pln | cor | vnl | col | stp | rck | cel | pol | err | pwr
  | tim | sec | dbg | boot | book | mram
deriving DecidableEq, Repr

/-- A part of `t` is what it was in `s`. -/
def Part.same (s t : State) : Part → Prop
  | .half => t.half = s.half
  | .moduleId => t.moduleId = s.moduleId
  | .pending => t.pending = s.pending
  | .tick => t.tick = s.tick
  | .free => t.free = s.free
  | .out => t.out = s.out
  | .mem => t.mem = s.mem
  | .regs => t.regs = s.regs
  | .grp => t.grp = s.grp
  | .hif => t.hif = s.hif
  | .pln => t.pln = s.pln
  | .cor => t.cor = s.cor
  | .vnl => t.vnl = s.vnl
  | .col => t.col = s.col
  | .stp => t.stp = s.stp
  | .rck => t.rck = s.rck
  | .cel => t.cel = s.cel
  | .pol => t.pol = s.pol
  | .err => t.err = s.err
  | .pwr => t.pwr = s.pwr
  | .tim => t.tim = s.tim
  | .sec => t.sec = s.sec
  | .dbg => t.dbg = s.dbg
  | .boot => t.boot = s.boot
  | .book => t.book = s.book
  | .mram => t.mram = s.mram

/-- The frame of a command: nothing but the parts named differs between `s` and `t`. -/
def Only (ps : List Part) (s t : State) : Prop := ∀ p, p ∉ ps → p.same s t

/-- The command completes from `s`: it answers a next state, and `p` holds of that state. -/
def Completes (c : Instr) (s : State) (p : State → Prop) : Prop := ∃ t, exec c s = .next t ∧ p t

/-- A descriptor starts now: it is live, its ring's order and its tenant's step let it start attached to `st` (R79, R344), the link is
up, and no step of its tenant waits for its seal. -/
structure Starts (s : State) (tag op : Nat) (l : Live) (st : Option Nat) : Prop where
  live : liveRec s tag = some l
  gate : gateOf s tag op = .go st
  link : s.hif.up = true
  resumed : s.hif.resumePending = false
  seals : ∀ r ∈ (tstep s (liveTen l)).steps, r.sealTag = none

/-- A descriptor has ended: unattached, it has completed and its tag is free (R84); attached to an undrawn step, it is held with its
status, detail and result (R348). -/
def Ended (t : State) (tag : Nat) (st : Option Nat) (status detail result : Nat) : Prop :=
  match st with
  | none => liveRec t tag = none
  | some n => ∃ l, liveRec t tag = some l ∧ l.step = some n ∧ l.stage = .held ∧ l.status = status ∧ l.detail = detail ∧ l.result = result

/-- What a commit write names: its group, accessor, window and command value. -/
structure CommitOf where
  grp : Grp
  acc : Acc
  win : Nat
  cmd : Nat
deriving DecidableEq, Repr

/-- The commit writes of the opcode table with a group of shadows: group, window, command. -/
inductive IsCommit : Instr → CommitOf → Prop where
  | hifTenCommit (acc : Acc) : IsCommit (.hifTenCommit acc) ⟨.hifTen, acc, 0, 1⟩
  | rngCommit (acc : Acc) : IsCommit (.rngCommit acc) ⟨.rng, acc, 0, 1⟩
  | plnCommit (acc : Acc) : IsCommit (.plnCommit acc) ⟨.pln, acc, 0, 1⟩
  | plnTqCommit (acc : Acc) : IsCommit (.plnTqCommit acc) ⟨.plnTq, acc, 0, 1⟩
  | memRsvCommit (acc : Acc) : IsCommit (.memRsvCommit acc) ⟨.memRsv, acc, 0, 1⟩
  | memThermCommit (acc : Acc) : IsCommit (.memThermCommit acc) ⟨.memTherm, acc, 0, 1⟩
  | corCommit (acc : Acc) (win : Nat) : IsCommit (.corCommit acc win) ⟨.corSlot, acc, win, 1⟩
  | corTerCommit (acc : Acc) (win : Nat) : IsCommit (.corTerCommit acc win) ⟨.corTer, acc, win, 1⟩
  | arrCommit (acc : Acc) : IsCommit (.arrCommit acc) ⟨.arr, acc, 0, 1⟩
  | fmtCommit (acc : Acc) : IsCommit (.fmtCommit acc) ⟨.fmt, acc, 0, 1⟩
  | vnlPortCommit (acc : Acc) (win : Nat) : IsCommit (.vnlPortCommit acc win) ⟨.vnlPort, acc, win, 1⟩
  | vnlPclCommit (acc : Acc) : IsCommit (.vnlPclCommit acc) ⟨.vnlPcl, acc, 0, 1⟩
  | colCommit (acc : Acc) : IsCommit (.colCommit acc) ⟨.col, acc, 0, 1⟩
  | stpTenCommit (acc : Acc) : IsCommit (.stpTenCommit acc) ⟨.stpTen, acc, 0, 1⟩
  | rckTenCommit (acc : Acc) : IsCommit (.rckTenCommit acc) ⟨.rckTen, acc, 0, 1⟩
  | rckWearCommit (acc : Acc) : IsCommit (.rckWearCommit acc) ⟨.rckWear, acc, 0, 1⟩
  | celCommit (acc : Acc) : IsCommit (.celCommit acc) ⟨.cel, acc, 0, 1⟩
  | celSvcCommit (acc : Acc) : IsCommit (.celSvcCommit acc) ⟨.celSvc, acc, 0, 1⟩
  | errCommit (acc : Acc) : IsCommit (.errCommit acc) ⟨.err, acc, 0, 1⟩
  | pwrCommit (acc : Acc) : IsCommit (.pwrCommit acc) ⟨.pwr, acc, 0, 1⟩
  | timCommit (acc : Acc) : IsCommit (.timCommit acc) ⟨.tim, acc, 0, 1⟩
  | dbgCommit (acc : Acc) : IsCommit (.dbgCommit acc) ⟨.dbg, acc, 0, 1⟩
  | dbgTenCommit (acc : Acc) : IsCommit (.dbgTenCommit acc) ⟨.dbgTen, acc, 0, 1⟩
  | bootCommit (acc : Acc) : IsCommit (.bootCommit acc) ⟨.boot, acc, 0, 1⟩
  | celTblLoad (acc : Acc) : IsCommit (.celTblLoad acc) ⟨.celTbl, acc, 0, 1⟩
  | celTblUnload (acc : Acc) : IsCommit (.celTblUnload acc) ⟨.celTbl, acc, 0, 4⟩
  | secKeyInstall (acc : Acc) : IsCommit (.secKeyInstall acc) ⟨.secKey, acc, 0, 1⟩
  | secKeyDestroy (acc : Acc) : IsCommit (.secKeyDestroy acc) ⟨.secKey, acc, 0, 4⟩

/-- The abort writes of the opcode table with a group of shadows. -/
inductive IsAbort : Instr → Grp → Acc → Nat → Prop where
  | hifTenAbort (acc : Acc) : IsAbort (.hifTenAbort acc) .hifTen acc 0
  | rngAbort (acc : Acc) : IsAbort (.rngAbort acc) .rng acc 0
  | plnAbort (acc : Acc) : IsAbort (.plnAbort acc) .pln acc 0
  | plnTqAbort (acc : Acc) : IsAbort (.plnTqAbort acc) .plnTq acc 0
  | memRsvAbort (acc : Acc) : IsAbort (.memRsvAbort acc) .memRsv acc 0
  | memThermAbort (acc : Acc) : IsAbort (.memThermAbort acc) .memTherm acc 0
  | corAbort (acc : Acc) (win : Nat) : IsAbort (.corAbort acc win) .corSlot acc win
  | corTerAbort (acc : Acc) (win : Nat) : IsAbort (.corTerAbort acc win) .corTer acc win
  | arrAbort (acc : Acc) : IsAbort (.arrAbort acc) .arr acc 0
  | fmtAbort (acc : Acc) : IsAbort (.fmtAbort acc) .fmt acc 0
  | vnlPortAbort (acc : Acc) (win : Nat) : IsAbort (.vnlPortAbort acc win) .vnlPort acc win
  | vnlPclAbort (acc : Acc) : IsAbort (.vnlPclAbort acc) .vnlPcl acc 0
  | colAbort (acc : Acc) : IsAbort (.colAbort acc) .col acc 0
  | stpTenAbort (acc : Acc) : IsAbort (.stpTenAbort acc) .stpTen acc 0
  | rckTenAbort (acc : Acc) : IsAbort (.rckTenAbort acc) .rckTen acc 0
  | rckWearAbort (acc : Acc) : IsAbort (.rckWearAbort acc) .rckWear acc 0
  | celAbort (acc : Acc) : IsAbort (.celAbort acc) .cel acc 0
  | celSvcAbort (acc : Acc) : IsAbort (.celSvcAbort acc) .celSvc acc 0
  | errAbort (acc : Acc) : IsAbort (.errAbort acc) .err acc 0
  | pwrAbort (acc : Acc) : IsAbort (.pwrAbort acc) .pwr acc 0
  | timAbort (acc : Acc) : IsAbort (.timAbort acc) .tim acc 0
  | dbgAbort (acc : Acc) : IsAbort (.dbgAbort acc) .dbg acc 0
  | dbgTenAbort (acc : Acc) : IsAbort (.dbgTenAbort acc) .dbgTen acc 0
  | bootAbort (acc : Acc) : IsAbort (.bootAbort acc) .boot acc 0
  | celTblAbort (acc : Acc) : IsAbort (.celTblAbort acc) .celTbl acc 0
  | secKeyAbort (acc : Acc) : IsAbort (.secKeyAbort acc) .secKey acc 0

end Sys2Proof.Machine
end

