-- ==== Sys2Proof/Certificates/Slice0/Obligations.lean ====
section
/-!
DEFINITION. Certificates/Slice0/Obligations.lean: the statements for the provers. Each says of a family of commands what the machine's next
state is, when they complete and what they leave unchanged; `Same` and its relatives (Safety.lean) compare states.
-/

open Sys2Proof Sys2Proof.Machine

/-- Derived from R423 of 11 and the opcode table: a step with a command at the front of the queue is that command on the state
with the queue's rest; the order of the queue is the order of arrival. -/
def Obligations.StepRunsTheFront : Prop :=
  ∀ (c : Instr) (q : List Instr) (s : State), step { s with pending := c :: q } = exec c { s with pending := q }

/-- Derived from R10 of 00, Table 16.9 of 16 and R626 of 18: the machine after reset meets the invariant. -/
def Obligations.ResetMeetsTheInvariant : Prop :=
 Inv State.reset

/-- Derived from R10 of 00, Table 16.9 of 16 and R626 of 18: from every state that meets the invariant a step goes on to one
that meets it: memory stays canonical, the reserved bits of committed registers stay zero, Frost stays in one of its four
states, the book's floor stays at or below its head. No step stops, changes the identity of the module, or touches more of the
queue than its front. -/
def Obligations.EveryStepKeepsTheInvariant : Prop :=
  ∀ s : State, Inv s → ∃ t, step s = .next t ∧ Inv t ∧ t.half = s.half ∧ t.moduleId = s.moduleId ∧ t.pending = s.pending.tail

/-- Derived from R10, R418, R431, R599 and R608 and Table 21.13 (values the spec gives), and from log 3, 6 and 7 (the model's
choices: the lifecycle, the level of the lamps, memory without content): the machine after reset stands at B01 on the auxiliary
rail, CA holds OWN, no tenant is bound, no ring, handle, port or plot is in use, committed registers hold their reset values.
-/
def Obligations.ResetValues : Prop :=
  (∀ g o i, cset State.reset g o i = g.reset false i) ∧ (∀ t, (tenRec State.reset t).st = .free) ∧
  (∀ p, (portRec State.reset p).st = .off) ∧ (∀ h, hndRec State.reset h = none) ∧ (∀ a, memGet State.reset.mem a = 0) ∧
  State.reset.pending = [] ∧ State.reset.pwr.st = .standby ∧ State.reset.cel.own = 0 ∧ State.reset.boot.step = 1 ∧
  State.reset.boot.hostReady = false ∧ State.reset.boot.ready = false ∧ State.reset.boot.activeSlot = 0 ∧
  State.reset.rck.bucket = 86400 * 10 ^ 9 * (wearRate State.reset : Int) ∧ State.reset.tim.set = false ∧ State.reset.sec.life = .provisioned ∧
  State.reset.pol.leds = 7 ∧ State.reset.dbg.frost = 0 ∧ State.reset.book.head = 0

/-- Derived from R58 of 02: a commit write takes its snapshot of the shadow, its status register reads PENDING, and the commit
waits behind those that arrived before; the committed sets, the shadows and everything outside the groups stay as they were.
Every commit write of the table. Forms it says complete: hifTenCommit, rngCommit, plnCommit, plnTqCommit, memRsvCommit,
memThermCommit, corCommit, corTerCommit, arrCommit, fmtCommit, vnlPortCommit, vnlPclCommit, colCommit, stpTenCommit,
rckTenCommit, rckWearCommit, celCommit, celSvcCommit, errCommit, pwrCommit, timCommit, dbgCommit, dbgTenCommit, bootCommit,
celTblLoad, celTblUnload, secKeyInstall, secKeyDestroy. -/
def Obligations.CommitWriteQueues : Prop :=
  ∀ (c : Instr) (k : CommitOf) (s : State), IsCommit c k → grpReach s k.grp k.acc k.win = true → dbgGrpOpen s k.grp = true →
    (s.boot.hostReady = true ∨ memb (blockOf k.grp.cstat) [0, 17, 15, 11, 18, 16] = true) →
    Completes c s (fun t =>
      cstatOf t k.grp k.acc k.win = (cPENDING, 0) ∧
      t.grp.pend = s.grp.pend ++ [{
        acc := accCode k.acc, grp := k.grp, win := k.win, obj := selObj s k.grp k.acc k.win, cmd := k.cmd,
        snap := (List.range k.grp.size).map (shadowReg s k.grp k.acc k.win) }] ∧
      t.grp.sets = s.grp.sets ∧ t.grp.shadows = s.grp.shadows ∧
      (∀ q, q ≠ statKey (shadowAcc k.grp k.acc) k.grp k.win → Map.get (0, 0) t.grp.cstat q = Map.get (0, 0) s.grp.cstat q) ∧
      Only [.grp] s t)

/-- Derived from R59 of 02: an abort write reloads the group's shadow from the committed set of the selected object, and the
status register, the committed sets, the pending commits and everything outside the groups stay as they were. Every abort write
of the table. Forms it says complete: hifTenAbort, rngAbort, plnAbort, plnTqAbort, memRsvAbort, memThermAbort, corAbort,
corTerAbort, arrAbort, fmtAbort, vnlPortAbort, vnlPclAbort, colAbort, stpTenAbort, rckTenAbort, rckWearAbort, celAbort,
celSvcAbort, errAbort, pwrAbort, timAbort, dbgAbort, dbgTenAbort, bootAbort, celTblAbort, secKeyAbort. -/
def Obligations.AbortWriteReloads : Prop :=
  ∀ (c : Instr) (g : Grp) (acc : Acc) (win o : Nat) (s : State), IsAbort c g acc win → grpReach s g acc win = true →
    selObj s g acc win = some o →
    Completes c s (fun t =>
      (∀ i, i < g.size → shadowReg t g acc win i = cset s g o i) ∧
      t.grp.cstat = s.grp.cstat ∧ t.grp.sets = s.grp.sets ∧ t.grp.pend = s.grp.pend ∧ Only [.grp] s t)

/-- Derived from R56, R57 and R61 of 02: a commit taken from the queue whose checks all pass replaces the committed set of its
object in one step with its snapshot (reserved bits zero, R10), every register of it, and no other register of any set; for the
groups whose commit does nothing to the sets but that (a changed reserve or buddy slot reaches the Planter's pool or the rack
besides). Further, derived from R56 and R59 of 02: a commit one of whose checks fails keeps the committed set and the shadow,
and the group's status register reports the result and offset of the first check that fails, unless a later commit of the same
window still waits. Forms it says complete: commitApply. -/
def Obligations.CommitApply : Prop :=
  (∀ (i o : Nat) (rd : Option (List Byte)) (c : PendCommit) (s : State),
    s.grp.pend[i]? = some c → commitWaits s i c = false → c.obj = some o → c.snap.length = c.grp.size →
    c.grp ∈ [Grp.pln, .plnTq, .memRsv, .memTherm, .arr, .col, .stpTen, .rckTen, .rckWear, .err, .dbg, .boot] →
    firstFail (commitChecks (modGrp (fun g => { g with pend := g.pend.eraseIdx i }) s) c o rd) = none →
    Completes (.commitApply i rd) s (fun t =>
      (∀ j, j < c.grp.size → cset t c.grp o j = snapW c j &&& c.grp.mask j) ∧
      (∀ g p j, g ≠ c.grp ∨ p ≠ o → j < 512 → cset t g p j = cset s g p j) ∧
      t.grp.pend = s.grp.pend.eraseIdx i ∧ t.grp.shadows = s.grp.shadows ∧
      (c.grp ≠ .memRsv → c.grp ≠ .rckTen → Only [.grp] s t) ∧ (c.grp = .memRsv → Only [.grp, .pln] s t) ∧
      (c.grp = .rckTen → Only [.grp, .out, .hif, .rck, .book] s t))) ∧
  ∀ (i o res off : Nat) (rd : Option (List Byte)) (c : PendCommit) (s : State),
    s.grp.pend[i]? = some c → commitWaits s i c = false → c.obj = some o →
    firstFail (commitChecks (modGrp (fun g => { g with pend := g.pend.eraseIdx i }) (readCommit c rd s).2) c o (readCommit c rd s).1)
      = some (res, off) →
    Completes (.commitApply i rd) s (fun t =>
      t.grp.sets = s.grp.sets ∧ t.grp.shadows = s.grp.shadows ∧ t.grp.pend = s.grp.pend.eraseIdx i ∧
      ((∀ q ∈ s.grp.pend.eraseIdx i, q.grp ≠ c.grp ∨ q.win ≠ c.win ∨ commitAcc q ≠ commitAcc c) →
        Map.get (0, 0) t.grp.cstat (statKey (commitAcc c) c.grp c.win) = (res, seenOff c off)) ∧
      (hostRd c = none → t.out = s.out) ∧ Only [.grp, .out] s t)

/-- Derived from R59, R60, R12 and R43 of 02: a selector write takes effect at once and reloads the shadow from the committed
set of the object then selected, for a VF in its own window too; a write to a register of a group changes that register of the
accessor's shadow alone, reserved bits zero, and no committed register; a write of configuration space sets VF Enable, raises
NumVFs or sets the Function Mask (the form of the write is the model's choice, log 4). Forms it says complete: selectorWrite,
registerWrite. -/
def Obligations.SelectorAndShadowWrites : Prop :=
  (∀ (acc : Acc) (a win m o : Nat) (g : Grp) (v : Word) (s : State), selAt s.half a = some (g, win, m) → grpReach s g acc win = true →
    blockOpen s acc (blockOf a) = true → selObj (setRw (accCode acc) a (v &&& wordOf m) s) g acc win = some o →
    Completes (.selectorWrite acc a v) s (fun t =>
      rwReg t (accCode acc) a = v &&& wordOf m ∧ (∀ i, i < g.size → shadowReg t g acc win i = cset s g o i) ∧
      t.grp.sets = s.grp.sets ∧ t.grp.cstat = s.grp.cstat ∧ Only [.grp, .regs] s t)) ∧
  (∀ (n o : Nat) (b : Bool) (v : Word) (s : State), vfOpen s n b = true →
    selObj (setRw n 0x200000 (v &&& 0xFFFF) s) .rng (.vf n b) 0 = some o →
    Completes (.selectorWrite (.vf n b) 0x1000 v) s (fun t =>
      rwReg t n 0x200000 = v &&& 0xFFFF ∧ (∀ i, i < Grp.size .rng → shadowReg t .rng (.vf n b) 0 i = cset s .rng o i) ∧
      t.grp.sets = s.grp.sets ∧ t.grp.cstat = s.grp.cstat ∧ Only [.grp, .regs] s t)) ∧
  (∀ (acc : Acc) (a win i : Nat) (g : Grp) (v : Word) (s : State), grpAt s.half a = some (g, win, i) → grpReach s g acc win = true →
    blockOpen s acc (blockOf a) = true →
    Completes (.registerWrite acc a v) s (fun t =>
      shadowReg t g acc win i = v &&& g.mask i ∧ t.grp.sets = s.grp.sets ∧ t.grp.cstat = s.grp.cstat ∧ Only [.grp] s t)) ∧
  (∀ (v : Word) (s : State), s.dbg.frost = 0 →
    (bitW v 0 = true → exec (.registerWrite (.cfg 0) 0 v) s = .next { s with hif := { s.hif with vfEnable := true } }) ∧
    (s.hif.numVfs ≤ fldW v 15 0 →
      exec (.registerWrite (.cfg 0) 1 v) s = .next { s with hif := { s.hif with numVfs := min (fldW v 15 0) 63 } }) ∧
    (∀ n, bitW v 14 = true →
      exec (.registerWrite (.cfg n) 2 v) s = .next { s with hif := { s.hif with msixFnMask := addOnce n s.hif.msixFnMask } }))

/-- STATED (R73 of 02): outside Frost and with NCLK running, where R53 lets a VF's request through, a write to a doorbell page
at another offset or of another size, to a page whose tenant is not ACTIVE, or naming a ring that is not ACTIVE, is ignored and
counted in HIF_DB_IGNORED; the ring is bits [39:32] of the value, and its reserved bits are ignored. Forms it says complete:
doorbell. -/
def Obligations.DoorbellIgnored : Prop :=
  ∀ (acc : Acc) (page off size value : Nat) (s : State), nclkOn s = true → accLocked s acc = false →
    (off ≠ 0 ∨ size ≠ 8 ∨ (∀ t, pageTen s acc page = some t →
      tenActive s t = false ∨ (ringRec s (t * 256 + bitsOf value 39 32)).st ≠ .active)) →
    Completes (.doorbell acc page off size value) s (fun t =>
      t.hif = { s.hif with dbIgnored := satAdd 32 s.hif.dbIgnored 1 } ∧ Only [.hif] s t)

/-- STATED (R74 of 02): the four cases of a doorbell of a submission ring that is ACTIVE, by a = (index − latched producer
count) mod 2^32: no effect; stale, ignored and counted in HIF_DB_STALE; the latched count becomes index; or the ring enters
ERROR with DB_OVERRUN (code 1 of Table 02.12). The model's choices it rests on: what leaves the module stands in the model's
own list `out` (log 53). Forms it says complete: doorbell. -/
def Obligations.SubmissionDoorbell : Prop :=
  ∀ (acc : Acc) (page t value r a : Nat) (s : State), nclkOn s = true → accLocked s acc = false →
    pageTen s acc page = some t → tenActive s t = true → r = t * 256 + bitsOf value 39 32 → (ringRec s r).st = .active →
    ringType s r = 0 → evqRing s t ≠ r → a = (bitsOf value 31 0 + 2 ^ 32 - (ringRec s r).latched % 2 ^ 32) % 2 ^ 32 →
    Completes (.doorbell acc page 0 8 value) s (fun u =>
      (a = 0 → u = s) ∧
      (2 ^ 31 ≤ a → u.hif = { s.hif with dbStale := satAdd 32 s.hif.dbStale 1 } ∧ Only [.hif] s u) ∧
      (0 < a → a < 2 ^ 31 → sub32 (ringRec s r).latched (ringRec s r).fetched + a ≤ ringSize s r →
        ringRec u r = { ringRec s r with latched := bitsOf value 31 0 } ∧ (∀ q, q ≠ r → ringRec u q = ringRec s q) ∧ Only [.hif] s u) ∧
      (0 < a → a < 2 ^ 31 → ringSize s r < sub32 (ringRec s r).latched (ringRec s r).fetched + a →
        (ringRec u r).st = .error ∧ (ringRec u r).err = 1 ∧ (ringRec u r).latched = (ringRec s r).latched ∧ Only [.hif, .out] s u))

/-- STATED (R75 of 02): the four cases of a doorbell of a completion or event ring that is ACTIVE, by a = (index − consumer
count) mod 2^32: no effect; stale, ignored and counted; the consumer count becomes index; or the ring enters ERROR with
DB_OVERRUN (where the event ring that would announce it is another ring, the error code stays DB_OVERRUN). The model's choices
it rests on: what leaves the module stands in the model's own list `out` (log 53). Forms it says complete: doorbell. -/
def Obligations.ConsumerDoorbell : Prop :=
  ∀ (acc : Acc) (page t value r a : Nat) (s : State), nclkOn s = true → accLocked s acc = false →
    pageTen s acc page = some t → tenActive s t = true → r = t * 256 + bitsOf value 39 32 → (ringRec s r).st = .active →
    ringType s r ≠ 0 → a = (bitsOf value 31 0 + 2 ^ 32 - (ringRec s r).consumed % 2 ^ 32) % 2 ^ 32 →
    Completes (.doorbell acc page 0 8 value) s (fun u =>
      (a = 0 → u = s) ∧
      (2 ^ 31 ≤ a → u.hif = { s.hif with dbStale := satAdd 32 s.hif.dbStale 1 } ∧ Only [.hif] s u) ∧
      (0 < a → a < 2 ^ 31 → a ≤ sub32 (ringRec s r).posted (ringRec s r).consumed →
        ringRec u r = { ringRec s r with consumed := bitsOf value 31 0 } ∧ (∀ q, q ≠ r → ringRec u q = ringRec s q) ∧ Only [.hif] s u) ∧
      (0 < a → a < 2 ^ 31 → sub32 (ringRec s r).posted (ringRec s r).consumed < a →
        (ringRec u r).st = .error ∧ (evqRing s t ≠ r → (ringRec u r).err = 1) ∧ Only [.hif, .out] s u))

/-- Derived from R76 to R86 and R43 of 02: a fetch read in its turn covers the entries R82 allows, reserves their completion
slots and a free tag each, and asks the host for 64 bytes each at their addresses; its return makes its entry live under its
tag, or, where the read failed, puts the ring in ERROR with FETCH_FAULT (code 2); an ATS invalidation completes where no fetch
uses the function's translations, and waits for the reads that do. The model's choices it rests on: what leaves the module
stands in the model's own list `out` (log 53); which free tag a fetch takes (log 144). Forms it says complete: atsInvalidation,
fetchIssue, fetchReadDone. -/
def Obligations.FetchAndInvalidate : Prop :=
  (∀ (r k : Nat) (tags : List Nat) (s : State), nclkOn s = true → memb 1 s.boot.drained = false → memb 2 s.boot.drained = false →
    k = min tags.length (fetchable s r) → 0 < k → fetchTurn s r = true → ringCq s r ≠ r →
    Completes (.fetchIssue r tags) s (fun t =>
      (∃ ts, (ringRec t r).reads = (ringRec s r).reads ++ [(nextFetch s r, ts)] ∧ ts.length = k ∧ ts.Nodup ∧ ∀ g ∈ ts, g ∉ usedTags s) ∧
      (ringRec t (ringCq s r)).resv = (ringRec s (ringCq s r)).resv + k ∧
      t.out = .fetchRead (tenFn s (ringTen r)) (pasidOf (ringRec s r).pasid) (ringBase s r + nextFetch s r % ringSize s r * 64) (k * 64)
        :: s.out ∧
      Only [.hif, .out] s t)) ∧
  (∀ (r c want : Nat) (d : List Byte) (s : State), s.dbg.frost = 0 → (ringRec s r).reads = [(c, [want])] → (ringRec s r).st = .active →
    d.length = 64 → tenActive s (ringTen r) = true → c < 2 ^ 32 → bitW s.pln.retire 31 = false → seqOf d = c → versionOf d = 1 →
    (∃ cs, opClasses (opcodeOf d) = some cs ∧ memb (ringClass s r) cs = true) →
    Completes (.fetchReadDone r 0 false d) s (fun t =>
      liveRec t want = some { ring := r, count := c, desc := d } ∧ (ringRec t r).fetched = (c + 1) % 2 ^ 32 ∧ (ringRec t r).reads = [] ∧
      (∀ g, g ≠ want → liveRec t g = (liveRec s g).map (fenceSees r c (ringRec s r))) ∧ Only [.hif, .out] s t)) ∧
  (∀ (r flt c : Nat) (ep : Bool) (ts : List Nat) (rest : List (Nat × List Nat)) (d : List Byte) (s : State), s.dbg.frost = 0 →
    (flt ≠ 0 ∨ ep = true) →
    (ringRec s r).reads = (c, ts) :: rest → (ringRec s r).st = .active → evqRing s (ringTen r) ≠ r →
    Completes (.fetchReadDone r flt ep d) s (fun t =>
      (ringRec t r).st = .error ∧ (ringRec t r).err = 2 ∧ (ringRec t r).reads = rest ∧ (ringRec t r).fetched = (ringRec s r).fetched ∧
      t.hif.live = s.hif.live ∧ Only [.hif, .out] s t)) ∧
  (∀ (fn page pages : Nat) (deny : Bool) (s : State), s.dbg.frost = 0 →
    Completes (.atsInvalidation fn page pages deny) s (fun t =>
      (readsOf s fn = [] → t.out = .atsDone fn page pages :: s.out) ∧
      (readsOf s fn ≠ [] → t.out = s.out ∧ t.hif.invals = s.hif.invals ++ [(fn, page, pages, readsOf s fn)]) ∧
      (deny = true → (fn, page, pages) ∈ t.hif.denied) ∧ (deny = false → (fn, page, pages) ∉ t.hif.denied) ∧
      (∀ x, x ≠ (fn, page, pages) → (x ∈ t.hif.denied ↔ x ∈ s.hif.denied)) ∧ Only [.hif, .out] s t))

/-- STATED (R99, R100 of 02): a Function Level Reset of PF0 puts every tenant on the module in TEARDOWN and returns every
commit group to its reset values; a hot reset of the link is handled as one. R99 names nothing else: the registers outside the
commit groups, the backup registers among them, and start-up keep their values (log 147). Forms it says complete: flrPf0,
hotReset. -/
def Obligations.ResetOfPf0 : Prop :=
  ∀ (c : Instr) (s : State), s.dbg.frost = 0 → c = .flrPf0 ∨ c = .hotReset →
    Completes c s (fun t =>
      (∀ n, (tenRec s n).st ≠ .free → (tenRec t n).st = .teardown) ∧
      (∀ g o i, cset t g o i = g.reset t.half i) ∧ (∀ g acc win i, shadowReg t g acc win i = g.reset t.half i) ∧
      exec .hotReset s = exec .flrPf0 s ∧
      t.half = s.half ∧ t.regs = s.regs ∧ t.boot = s.boot ∧ t.mram = s.mram ∧ t.tick = s.tick)

/-- Derived from R95 to R98 of 02: the loss of the link stops posting and fetching and is a fault of source HOST_LINK (0x0E,
class 2) that reaches every tenant with an undrawn step, the tenants, rings, handles and committed sets staying as they were;
its return raises link_epoch and sets resume_pending except the first time; HIF_LINK_RESUME clears resume_pending and leaves no
descriptor live; the reset of a VF tears down the tenants bound to it and has its BARs ignore writes, and clearing VF Enable or
lowering NumVFs does so for every VF it removes. Further, derived from R93 and R94 of 02: unmasking a vector sends the
interrupt it holds and clears its pending bit, clearing the Function Mask does so for each vector of the function that is not
masked itself; at the end of a ring's gap the interrupt it owes is sent and the gap restarts, or, where it owes none, the gap
ends. The model's choices it rests on: what leaves the module stands in the model's own list `out` (log 53). Forms it says
complete: hostLinkDown, hostLinkUp, hifLinkResume, flrVf, vfDisable, msixUnmask, msixModExpiry. -/
def Obligations.HostLinkAndInterrupts : Prop :=
  (∀ s : State, s.dbg.frost = 0 → s.hif.up = true →
    Completes .hostLinkDown s (fun t =>
      t.hif = { s.hif with up := false } ∧ t.pln = s.pln ∧ t.grp = s.grp ∧
      t.cel.up = s.cel.up ++ [.fault 0x0E 2 0x13 0xFF (undrawnTens s) false] ∧
      t.err.lastInfo = 2 * 2 ^ 29 + 0x0E * 2 ^ 16 + 0x13 * 256 + 0xFF)) ∧
  (∀ (w r : Nat) (fl : Bool) (s : State), s.dbg.frost = 0 → s.hif.up = false →
    exec (.hostLinkUp w r fl) s = .next { s with hif := { s.hif with
      up := true, epoch := (s.hif.epoch + 1) % 256, width := w % 32, rate := r % 16, flit := fl,
      resumePending := s.hif.wasUp, wasUp := true } }) ∧
  (∀ s : State, s.hif.up = true → s.hif.resumePending = true → blockOpen s .pf0 1 = true →
    Completes .hifLinkResume s (fun t => t.hif.resumePending = false ∧ t.hif.live = [] ∧ t.hif.up = true ∧ t.grp = s.grp)) ∧
  (∀ (n : Nat) (s : State), s.dbg.frost = 0 → 1 ≤ n → n ≤ s.hif.numVfs →
    Completes (.flrVf n) s (fun t =>
      n ∈ t.hif.vfIgnore ∧ (∀ k, k ∈ boundTens s → tenFn s k = n → (tenRec t k).st = .teardown) ∧
      ((∀ c ∈ s.grp.pend, c.grp ≠ .hifTen) → ∀ k, tenFn s k ≠ n → (tenRec t k).st = (tenRec s k).st))) ∧
  (∀ (clear : Bool) (keep : Nat) (s : State), s.dbg.frost = 0 → s.hif.numVfs ≤ 63 →
    Completes (.vfDisable clear keep) s (fun t =>
      (clear = true → t.hif.vfEnable = false ∧ t.hif.numVfs = s.hif.numVfs) ∧
      (clear = false → t.hif.vfEnable = s.hif.vfEnable ∧ t.hif.numVfs = min keep s.hif.numVfs) ∧
      (∀ n, 1 ≤ n → n ≤ s.hif.numVfs → s.hif.vfEnable = true → (clear = true ∨ keep < n) → n ∈ t.hif.vfIgnore))) ∧
  (∀ (acc : Acc) (fn vec : Nat) (s : State),
    (acc = .pf0 ∧ fn = 0 ∧ blockOpen s .pf0 1 = true ∧ vec < 2048) ∨ (∃ b, acc = .vf fn b ∧ vfOpen s fn b = true ∧ vec < 256) →
    fn ∉ s.hif.msixFnMask →
    Completes (.msixUnmask acc (some vec)) s (fun t =>
      (vecKey fn vec ∈ s.hif.msixPend → t.out = .msix fn vec :: s.out) ∧ (vecKey fn vec ∉ s.hif.msixPend → t.out = s.out) ∧
      vecKey fn vec ∉ t.hif.msixPend ∧ vecMasked t fn vec = false ∧
      (∀ k, k ≠ vecKey fn vec → (k ∈ t.hif.msixPend ↔ k ∈ s.hif.msixPend)) ∧ Only [.hif, .out] s t)) ∧
  (∀ (fn : Nat) (s : State), s.dbg.frost = 0 →
    Completes (.msixUnmask (.cfg fn) none) s (fun t =>
      fn ∉ t.hif.msixFnMask ∧
      (∀ v, v < 2048 → vecKey fn v ∈ s.hif.msixPend → bitW (msixWord s fn (4 * v + 3)) 0 = false →
        Out.msix fn v ∈ t.out ∧ vecKey fn v ∉ t.hif.msixPend) ∧ Only [.hif, .out] s t)) ∧
  (∀ (r : Nat) (s : State), s.dbg.frost = 0 → (ringRec s r).gap = true →
    Completes (.msixModExpiry r) s (fun t =>
      ((ringRec s r).owed = false → ringRec t r = { ringRec s r with gap := false } ∧ t.out = s.out) ∧
      ((ringRec s r).owed = true → vecMasked s (tenFn s (ringTen r)) (ringVec s r) = false →
        ringRec t r = { ringRec s r with gap := ringGap s r, owed := false, masked := false } ∧
        t.out = .msix (tenFn s (ringTen r)) (ringVec s r) :: s.out) ∧
      ((ringRec s r).owed = true → vecMasked s (tenFn s (ringTen r)) (ringVec s r) = true →
        ringRec t r = { ringRec s r with gap := false, owed := false, masked := true } ∧
        vecKey (tenFn s (ringTen r)) (ringVec s r) ∈ t.hif.msixPend ∧ t.out = s.out) ∧
      (∀ q, q ≠ r → ringRec t q = ringRec s q) ∧ Only [.hif, .out] s t))

/-- STATED (R512 of 14): at every TCLK edge the module adds the increment to the nanoseconds and fraction; when the nanoseconds
reach 10^9, it subtracts 10^9 and adds 1 to the seconds; the default increment is 4.0 ns. (The edge is a step on an empty
queue, the model's choice, log 51; no slew in progress, R518.) -/
def Obligations.TimeBaseTicks : Prop :=
  timIncr State.reset = 4 * 2 ^ 32 ∧
  ∀ (s : State) (n : Nat), s.pending = [] → nclkOn s = true → s.pwr.st ≠ .off → s.boot.heldReset = false → iodOn s = true →
    s.tim.slew = 0 → s.tim.ns < 10 ^ 9 → s.tim.frac < 2 ^ 32 → s.tim.s + 1 < 2 ^ 64 →
    n = s.tim.ns + (s.tim.frac + timIncr s) / 2 ^ 32 →
    ∃ t, step s = .next t ∧ t.tick = s.tick + 1 ∧ t.tim.frac = (s.tim.frac + timIncr s) % 2 ^ 32 ∧
      (n < 10 ^ 9 → t.tim.ns = n ∧ t.tim.s = s.tim.s) ∧ (10 ^ 9 ≤ n → t.tim.ns = n - 10 ^ 9 ∧ t.tim.s = s.tim.s + 1) ∧
      Only [.tim, .tick, .book] s t

/-- Derived from R514, R518 to R521, R524 and R527 of 14: reading TIM_NOW_NS latches the seconds of the same tick; the end of a
slew has applied the whole offset; an edge of TP_IN of 1 µs or more is captured, and the third good one in a row sets
tpin_lock; a missing second counts, and the second in a row clears the lock; TIM_NTP_OK sets ntp_lock and its time limit clears
it; TP_OUT rises and falls; a pop removes the oldest transmit stamp. Further, derived from R530 and R536 to R538 of 14:
TRIG_ARM takes the lowest free trigger, PENDING with an undrawn step, else ARMED, and ends OK with its number; an unattached
TRIG_CANCEL of a trigger the tenant holds frees it and ends OK. The model's choices it rests on: what leaves the module stands
in the model's own list `out` (log 53). Forms it says complete: timNowNs, timNtpOk, timTxqPop, trigArm, trigCancel,
triggerFire, slewDone, tpInEdge, tpinMiss, ntpTimeout, tpOutFall, tpOutRise. -/
def Obligations.TimeAndTriggers : Prop :=
  (∀ (acc : Acc) (s : State), blockOpen s acc 14 = true →
    exec (.timNowNs acc) s = .next { s with tim := { s.tim with latch := s.tim.s }, out := .value s.tim.ns :: s.out }) ∧
  (∀ s : State, nclkOn s = true → s.tim.slew ≠ 0 → s.tim.ns < 10 ^ 9 → s.tim.frac < 2 ^ 32 →
    0 ≤ (((s.tim.s * 10 ^ 9 + s.tim.ns) * 2 ^ 32 + s.tim.frac : Nat) : Int) + s.tim.slew →
    (((s.tim.s * 10 ^ 9 + s.tim.ns) * 2 ^ 32 + s.tim.frac : Nat) : Int) + s.tim.slew < 2 ^ 64 * 10 ^ 9 * 2 ^ 32 →
    Completes .slewDone s (fun t =>
      t.tim.slew = 0 ∧
      (((t.tim.s * 10 ^ 9 + t.tim.ns) * 2 ^ 32 + t.tim.frac : Nat) : Int)
        = (((s.tim.s * 10 ^ 9 + s.tim.ns) * 2 ^ 32 + s.tim.frac : Nat) : Int) + s.tim.slew ∧
      Only [.tim] s t)) ∧
  (∀ (width : Nat) (s : State), nclkOn s = true → 1000 ≤ width →
    Completes (.tpInEdge width) s (fun t =>
      t.tim.capture = nowT s ∧ t.tim.edge = some (nowT s) ∧
      (∀ e, bitW (timSrc s) 31 = true → s.tim.edge = some e → 2 ≤ s.tim.good →
        (((nowT s).total : Int) - e.total - 10 ^ 9).natAbs ≤ fldW (timSrc s) 15 8 * 1000 → t.tim.tpinLock = true) ∧
      Only [.tim, .hif, .out, .book] s t)) ∧
  (∀ s : State, nclkOn s = true → bitW (timSrc s) 31 = true →
    Completes .tpinMiss s (fun t =>
      t.tim.tpinMiss = satAdd 32 s.tim.tpinMiss 1 ∧ t.tim.good = 0 ∧ (1 ≤ s.tim.miss → t.tim.tpinLock = false) ∧
      (s.tim.miss = 0 → t.tim.tpinLock = s.tim.tpinLock) ∧ Only [.tim, .hif, .out, .book] s t)) ∧
  (∀ (acc : Acc) (s : State), blockOpen s acc 14 = true →
    Completes (.timNtpOk acc) s (fun t => t.tim.ntpLock = true ∧ t.tim.tpinLock = s.tim.tpinLock ∧ t.tim.holdover = false ∧
      Only [.tim, .hif, .out, .book] s t)) ∧
  (∀ s : State, nclkOn s = true →
    Completes .ntpTimeout s (fun t => t.tim.ntpLock = false ∧
      t.tim.holdover = (s.tim.everLocked && !s.tim.tpinLock) ∧ Only [.tim, .hif, .out, .book] s t)) ∧
  (∀ s : State, nclkOn s = true → bitW (timSrc s) 30 = true → s.tim.set = true →
    exec .tpOutRise s = .next { s with tim := { s.tim with tpOut := true } }) ∧
  (∀ s : State, nclkOn s = true → exec .tpOutFall s = .next { s with tim := { s.tim with tpOut := false } }) ∧
  (∀ (acc : Acc) (s : State), blockOpen s acc 14 = true →
    exec (.timTxqPop acc) s = .next { s with tim := { s.tim with txq := s.tim.txq.drop 1 } }) ∧
  (∀ (tag k : Nat) (l : Live) (st : Option Nat) (s : State), Starts s tag 0x70 l st → armFault s (liveTen l) st l.desc = none →
    8 ≤ k → k < 64 → (trigRec s k).st = 0 → (∀ j, 8 ≤ j → j < k → (trigRec s j).st ≠ 0) →
    Completes (.trigArm tag) s (fun t =>
      trigRec t k = {
        st := if st.isSome then 1 else 2, mode := bitsOf (fieldAt l.desc 32 1) 3 0, tenant := liveTen l,
        target := ⟨fieldAt l.desc 16 8, fieldAt l.desc 24 4⟩, period := fieldAt l.desc 28 4, posts := (l.desc.drop 40).take 6, step := st,
        gate := if bitsOf (fieldAt l.desc 32 1) 3 0 = 1 then some (fieldAt l.desc 34 6) else none, arg := fieldAt l.desc 33 1 % 4 } ∧
      (∀ j, j ≠ k → trigRec t j = trigRec s j) ∧ Ended t tag st 0 0 k ∧ Only [.tim, .hif, .out, .mem, .pln, .rck] s t)) ∧
  (∀ (tag k n : Nat) (l : Live) (s : State), Starts s tag 0x71 l (some n) → k = fieldAt l.desc 16 1 % 64 →
    8 ≤ k → (trigRec s k).tenant = liveTen l → (trigRec s k).st ≠ 0 →
    Completes (.trigCancel tag) s (fun t =>
      (∀ j, trigRec t j = trigRec s j) ∧ Ended t tag (some n) 0 0 0 ∧ Only [.hif, .out, .mem, .pln, .rck] s t)) ∧
  (∀ (tag k : Nat) (l : Live) (s : State), Starts s tag 0x71 l none → k = fieldAt l.desc 16 1 % 64 →
    8 ≤ k → (trigRec s k).tenant = liveTen l → (trigRec s k).st ≠ 0 →
    (∀ e ∈ s.hif.live, liveTen e.2 = liveTen l → e.2.stage ≠ .spaceWait) →
    Completes (.trigCancel tag) s (fun t =>
      (trigRec t k).st = 0 ∧ (∀ j, j ≠ k → trigRec t j = trigRec s j) ∧ liveRec t tag = none)) ∧
  (∀ (k : Nat) (s : State), nclkOn s = true → 8 ≤ k → (trigRec s k).st = 2 → (trigRec s k).target.total ≤ (nowT s).total →
    (trigRec s k).mode = 2 → (tstep s (trigRec s k).tenant).steps = [] →
    Completes (.triggerFire k) s (fun t =>
      ((trigRec s k).period = 0 → (trigRec t k).st = 0) ∧
      ((trigRec s k).period ≠ 0 → (trigRec t k).st = 2 ∧ (nowT s).total < (trigRec t k).target.total ∧
        (trigRec t k).target.total ≤ (nowT s).total + (trigRec s k).period * 1000 ∧
        ((trigRec t k).target.total - (trigRec s k).target.total) % ((trigRec s k).period * 1000) = 0) ∧
      (trigRec t k).lateness = min (nsSince s (trigRec s k).target) (2 ^ 32 - 1) ∧
      (trigRec t k).late = ((trigRec s k).stepped || decide (1000 < nsSince s (trigRec s k).target)) ∧
      (∀ j, j ≠ k → trigRec t j = trigRec s j)))

/-- STATED (R571 of 16): EXTEST, CLAMP, HIGHZ, EXTEST_PULSE and EXTEST_TRAIN select BYPASS while any tenant is ACTIVE, in every
lifecycle state; nothing but the TAP changes. Forms it says complete: extest, tapClamp, highz, extestPulse, extestTrain. -/
def Obligations.DriveSelectsBypass : Prop :=
  ∀ (c : Instr) (s : State), c ∈ [Instr.extest, .tapClamp, .highz, .extestPulse, .extestTrain] → activeTens s ≠ [] →
    Completes c s (fun t => t.dbg = { s.dbg with ir := 0xFF, drive := 0 } ∧ Only [.dbg] s t)

/-- Derived from R569, R571 and R594 of 16 (Table 16.7): the instruction register after each TAP instruction where it is
available, what then drives the pins (1 the preloaded values, 2 nothing, 3 pulses, 4 trains), what is shifted out, and BYPASS
where it is not available; a TAP reset selects IDCODE (PRESUMED, IEEE 1149.1). Further, derived from R578, R579, R581, R583,
R585, R586, R592 and R593 of 16: Frost starts where it is available, stops every domain with the cycle counts, the FIFO
pointers and entries and the synchroniser stages the event gives (log 157), resumes with the ports that were OPEN or RETRAIN in
RETRAIN and with what waited (log 158); a scan or trace read returns one word and advances its index; a sample joins its core's
buffer. The model's choices it rests on: what leaves the module stands in the model's own list `out` (log 53). Forms it says
complete: tapReset, dbgFrostFreeze, dbgFrostResume, frostStopped, dbgScanData, dbgTraceData, traceSample, extest, idcode,
samplePreload, tapClamp, highz, extestPulse, extestTrain, dbgAccess, caveDbg, tapBypass, frostResumeDone. -/
def Obligations.DebugCommands : Prop :=
  (∀ (c : Instr) (ir drive : Nat) (s : State),
    (c, ir, drive) ∈ [(Instr.extest, 0x00, 1), (.tapClamp, 0x04, 1), (.highz, 0x05, 2), (.extestPulse, 0x06, 3), (.extestTrain, 0x07, 4)] →
    activeTens s = [] → s.pwr.st ≠ .off → (s.sec.life = .blank ∨ s.sec.life = .provisioned ∨ (s.sec.life = .opened ∧ hasCap s 4 = true)) →
    Completes c s (fun t => t.dbg = { s.dbg with ir := ir, drive := drive } ∧ Only [.dbg] s t)) ∧
  (∀ s : State, s.pwr.st ≠ .off →
    Completes .idcode s (fun t =>
      t.dbg = { s.dbg with ir := 1, drive := 0 } ∧ t.out = .value (if s.half then 0x0C13F1AB else 0x0C12F1AB) :: s.out ∧
      Only [.dbg, .out] s t)) ∧
  (∀ (pins load : Nat) (s : State), s.pwr.st ≠ .off → s.sec.life ≠ .retired →
    Completes (.samplePreload pins load) s (fun t =>
      t.dbg = { s.dbg with ir := 2, drive := 0, preload := load } ∧ t.out = .value pins :: s.out ∧ Only [.dbg, .out] s t)) ∧
  (∀ s : State, Completes .tapBypass s (fun t => t.dbg = { s.dbg with ir := 0xFF, drive := 0 } ∧ Only [.dbg] s t)) ∧
  (∀ s : State, Completes .tapReset s (fun t => t.dbg = { s.dbg with ir := 1, drive := 0 } ∧ Only [.dbg] s t)) ∧
  (∀ (w : Bool) (o : Nat) (v : Word) (s : State), s.sec.life = .sealed ∨ s.sec.life = .retired →
    Completes (.dbgAccess w o v) s (fun t => t.dbg = { s.dbg with ir := 0xFF, drive := 0 } ∧ Only [.dbg] s t)) ∧
  (∀ (v : Word) (s : State), s.pwr.st = .full ∨ s.pwr.st = .trimmed → s.sec.life = .provisioned → s.dbg.frost = 0 →
    bitW v 0 = true → bitW v 1 = false →
    Completes (.dbgAccess true 0x20 v) s (fun t =>
      t.dbg.ir = 0x10 ∧ t.dbg.frost = 1 ∧ t.dbg.source = 2 ∧ t.dbg.count = satAdd 16 s.dbg.count 1 ∧ Only [.dbg] s t)) ∧
  (∀ (op addr : Nat) (d : Word) (s : State), dbgLevel s 5 = 0 →
    Completes (.caveDbg op addr d) s (fun t => t.dbg = { s.dbg with ir := 0xFF, drive := 0 } ∧ Only [.dbg] s t)) ∧
  (∀ (addr : Nat) (d : Word) (s : State), dbgLevel s 5 ≠ 0 →
    Completes (.caveDbg 4 addr d) s (fun t =>
      t.dbg.ir = 0x20 ∧ Map.get 0 t.sec.caveMem addr = d ∧
      (∀ q, q ≠ addr → Map.get 0 t.sec.caveMem q = Map.get 0 s.sec.caveMem q) ∧ Only [.dbg, .sec] s t)) ∧
  (∀ (acc : Acc) (s : State), blockOpen s acc 16 = true → dbgLevel s 2 ≠ 0 → s.dbg.frost = 0 →
    Completes (.dbgFrostFreeze acc) s (fun t =>
      t.dbg.frost = 1 ∧ t.dbg.source = (if acc = .tap then 2 else 1) ∧ t.dbg.refused = false ∧ t.dbg.count = satAdd 16 s.dbg.count 1 ∧
      Only [.dbg] s t)) ∧
  (∀ (stops : List (Nat × Nat)) (fifos : List FifoHeld) (syncs : List SyncHeld) (s : State), s.dbg.frost = 1 → s.dbg.pendResume = false →
    Completes (.frostStopped ⟨stops, fifos, syncs⟩) s (fun t =>
      (∀ x ∈ fifos, domRuns s x.writer = true ∨ domRuns s x.reader = true → x.taken ≤ x.wrote → x.wrote ≤ x.taken + 2 ^ x.log2 →
        x.words.length = x.wrote - x.taken →
        (x.id, { unit := x.unit, depth := 2 ^ x.log2, wptr := x.wrote % (2 * 2 ^ x.log2), rptr := x.taken % (2 * 2 ^ x.log2),
                 words := x.words }) ∈ t.dbg.fifos) ∧
      (∀ x ∈ syncs, domRuns s x.reader = true → (x.id, { unit := x.unit, stages := x.stages % 8 }) ∈ t.dbg.syncs) ∧
      t.dbg.frost = 2 ∧ t.dbg.stopAt = nowT s ∧ (t.dbg.partCut = true ↔ ∃ k, k < 35 ∧ domRuns s k = false) ∧
      (∀ k c, k < 35 → domRuns s k = true → stops.find? (fun e => decide (e.1 = k)) = some (k, c) → c < 2 ^ 64 →
        Map.find t.dbg.stops k = some c) ∧ Only [.dbg] s t)) ∧
  (∀ (acc : Acc) (s : State), blockOpen s acc 16 = true → dbgLevel s 2 ≠ 0 → s.dbg.frost = 2 →
    exec (.dbgFrostResume acc) s = .next { s with dbg := { s.dbg with frost := 3 } }) ∧
  (∀ s : State, s.dbg.frost = 3 → s.dbg.pendFreeze = false → s.dbg.openPorts = [] → s.dbg.late = [] →
    Completes .frostResumeDone s (fun t => t.dbg.frost = 0 ∧ t.dbg.fifos = [] ∧ t.dbg.syncs = [] ∧ Only [.dbg] s t)) ∧
  (∀ (p : Nat) (s : State), s.dbg.frost = 3 → s.dbg.pendFreeze = false → s.dbg.openPorts = [p] → s.dbg.late = [] →
    (portRec s p).st = .opened → ((portRec s p).retrains.filter (fun k => decide (s.tick < k + 250000000))).length < 7 →
    Completes .frostResumeDone s (fun t => t.dbg.frost = 0 ∧ (portRec t p).st = .retrain)) ∧
  (∀ (c : Late) (s : State), s.dbg.frost = 3 → s.dbg.pendFreeze = false → s.dbg.openPorts = [] → s.dbg.late = [c] →
    exec .frostResumeDone s = .next (runLate c { s with dbg := { s.dbg with frost := 0, fifos := [], syncs := [], late := [] } })) ∧
  (∀ (acc : Acc) (s : State), blockOpen s acc 16 = true → scanOn s = true →
    Completes (.dbgScanData acc) s (fun t =>
      t.out = .value (scanData s) :: s.out ∧ scanIdx t = (scanIdx s + 1) % 2 ^ 25 ∧ Only [.out, .regs] s t)) ∧
  (∀ (acc : Acc) (s : State), blockOpen s acc 16 = true → scanOn s = false →
    exec (.dbgScanData acc) s = .next { s with out := .value 0 :: s.out }) ∧
  (∀ (acc : Acc) (s : State), blockOpen s acc 16 = true → dbgLevel s 1 = 2 →
    Completes (.dbgTraceData acc) s (fun t =>
      t.out = .value (traceData s) :: s.out ∧ fldW (rwReg t 0 0x10001C4) 19 0 = (fldW (rwReg s 0 0x10001C4) 19 0 + 1) % 2 ^ 20 ∧
      Only [.out, .regs] s t)) ∧
  (∀ (c pc w f : Nat) (m : Bool) (s : State), nclkOn s = true → c < numCores s → (coreRec s c).st = .running →
    slotValid s c (coreRec s c).slot = true → dbgLevel s 1 ≠ 0 → slotTen s c (coreRec s c).slot ∈ s.dbg.sampling →
    (Map.get [] s.dbg.samples c).length < 1024 →
    Completes (.traceSample c pc m w f false) s (fun t =>
      Map.get [] t.dbg.samples c = Map.get [] s.dbg.samples c ++ [⟨slotTen s c (coreRec s c).slot,
        sampleBytes s (coreRec s c).slot (slotTen s c (coreRec s c).slot) (if m = true ∧ dbgLevel s 1 ≠ 2 then 0 else pc) m w f⟩] ∧
      (∀ k, k ≠ c → Map.get [] t.dbg.samples k = Map.get [] s.dbg.samples k) ∧ Only [.dbg] s t))

/-- Derived from R632, R635 and R636 of 18: BOOK_CUR_NEXT adds 1 to the 64-bit cursor; BOOK_CLEAR is accepted in Provisioned
with every tenant FREE, when the floor becomes the head and a BOOK_CLEARED record is staged, else it reports DENIED or BUSY and
clears nothing. Forms it says complete: bookCurNext, bookClear. -/
def Obligations.BookCommands : Prop :=
  (∀ (acc : Acc) (s : State), blockOpen s acc 18 = true →
    Completes (.bookCurNext acc) s (fun t => bookCur t = (bookCur s + 1) % 2 ^ 64 ∧ Only [.regs] s t)) ∧
  (∀ (acc : Acc) (s : State), blockOpen s acc 18 = true → s.sec.life = .provisioned → boundTens s = [] →
    s.book.waiting.length < 4096 →
    Completes (.bookClear acc) s (fun t =>
      t.book.clear = cOK ∧ t.book.floor = s.book.head ∧ t.book.head = s.book.head ∧
      (∃ r, t.book.waiting = s.book.waiting ++ [r] ∧ r.code = 0x1200 ∧ r.detail = s.book.floor) ∧
      (∀ e ∈ t.book.recs, e.2.take 8 = List.replicate 8 0xFF) ∧ Only [.book] s t)) ∧
  (∀ (acc : Acc) (s : State), blockOpen s acc 18 = true → s.sec.life ≠ .provisioned →
    exec (.bookClear acc) s = .next { s with book := { s.book with clear := cDENIED } }) ∧
  (∀ (acc : Acc) (s : State), blockOpen s acc 18 = true → s.sec.life = .provisioned → boundTens s ≠ [] →
    exec (.bookClear acc) s = .next { s with book := { s.book with clear := cBUSY } })

/-- Derived from R341 to R343 and R373 of 09: a STEP_OPEN in its turn that no check of R341 stops and nothing makes wait opens
its step, whose successor is then expected, and is held OK; one that must wait waits; one that a check stops ends with its
status, attached to the step it names where that is undrawn; in RECOVER one for another step than the first discarded is
discarded. The model's choices it rests on: what leaves the module stands in the model's own list `out` (log 53). Forms it says
complete: stepOpen. -/
def Obligations.StepOpenOpens : Prop :=
  ∀ (tag t n : Nat) (l : Live) (s : State), stepTurn s tag 0x50 = some l → t = liveTen l → n = stepField l.desc →
    s.hif.up = true → s.hif.resumePending = false → (∀ r ∈ (tstep s t).steps, r.sealTag = none) → (tstep s t).failNext = none →
    Completes (.stepOpen tag) s (fun u =>
      ((tstep s t).st = .recover → (tstep s t).firstDisc ≠ some n → liveRec u tag = none ∧ Only [.hif, .out] s u) ∧
      ((tstep s t).st ≠ .recover ∨ (tstep s t).firstDisc = some n →
        (openFault s t n (bitOf (fieldAt l.desc 22 1) 0) = none → openWaits s t n = true →
          liveRec u tag = some { l with stage := .spaceWait } ∧ Only [.hif] s u) ∧
        (openFault s t n (bitOf (fieldAt l.desc 22 1) 0) = none → openWaits s t n = false →
          (tstep u t).st = .run ∧ openStep u t = some n ∧ (tstep u t).next = some ((n + 1) % 2 ^ 48) ∧ (tstep u t).firstDisc = none ∧
          (tstep u t).steps.take (tstep s t).steps.length = (tstep s t).steps ∧ Ended u tag (some n) 0 0 0 ∧
          Only [.hif, .out, .mem, .pln, .rck, .stp, .pwr, .cor, .book] s u) ∧
        (∀ f, openFault s t n (bitOf (fieldAt l.desc 22 1) 0) = some f →
          Ended u tag (if (stepRec s t n).isSome then some n else none) f.1 f.2 0 ∧ Only [.hif, .out, .mem, .pln, .rck] s u)))

/-- Derived from R345 to R347 of 09: a STEP_SEAL of the open step closes it; with every other descriptor of it finished it
seals at the present time, is held OK, and a step that no failure made unclean is handed to the Cellarer; naming another step
it ends with STEP_NOT_OPEN. The model's choices it rests on: what leaves the module stands in the model's own list `out` (log
53). Forms it says complete: stepSeal. -/
def Obligations.StepSealSeals : Prop :=
  ∀ (tag t n : Nat) (l : Live) (s : State), stepTurn s tag 0x51 = some l → t = liveTen l → n = stepField l.desc →
    s.hif.up = true → s.hif.resumePending = false → (∀ r ∈ (tstep s t).steps, r.sealTag = none) → (tstep s t).st ≠ .recover →
    Completes (.stepSeal tag) s (fun u =>
      (openStep s t ≠ some n →
        Ended u tag (if (stepRec s t n).isSome then some n else none) 0x0504 0 0 ∧ Only [.hif, .out, .mem, .pln, .rck] s u) ∧
      (∀ old r, (tstep s t).steps = old ++ [r] → r.num = n → r.opened = true → openStep s t = some n → (∀ q ∈ old, q.num ≠ n) →
        (othersDone s t n tag = false →
          stepRec u t n = some { r with opened := false, sealTag := some tag } ∧
          liveRec u tag = some { l with stage := .running, step := some n } ∧ Only [.hif, .stp] s u) ∧
        (othersDone s t n tag = true → bitOf (fieldAt l.desc 22 1) 1 = false → r.failed = none →
          stepRec u t n = some { r with opened := false, sealTag := some tag, sealAt := nowT s, handed := r.handed || !r.unclean } ∧
          u.cel.up = s.cel.up ++ (if r.unclean then [] else [.seal t n]) ∧ Ended u tag (some n) 0 0 0 ∧
          Only [.hif, .stp, .cel] s u)))

/-- Derived from R373 and R376 of 09: STEP_RESYNC outside RUN, with no pre-image left to write back, makes its step the next
expected number and ends RECOVER and split, and in RUN ends with STEP_RESYNC_BUSY; STEP_QUERY answers the last drawn step, the
state, the undrawn count and the last reason. The model's choices it rests on: what leaves the module stands in the model's own
list `out` (log 53). Forms it says complete: stepResync, stepQuery. -/
def Obligations.ResyncAndQuery : Prop :=
  (∀ (tag : Nat) (l : Live) (st : Option Nat) (s : State), Starts s tag 0x52 l st → (tstep s (liveTen l)).st ≠ .run →
    (tstep s (liveTen l)).restoring = false →
    Completes (.stepResync tag) s (fun u =>
      (tstep u (liveTen l)).next = some (stepField l.desc) ∧ (tstep u (liveTen l)).split = false ∧
      (tstep u (liveTen l)).st = (if (tstep s (liveTen l)).steps.isEmpty then .idle else .run) ∧
      (tstep u (liveTen l)).steps = (tstep s (liveTen l)).steps ∧ (tstep u (liveTen l)).drawn = (tstep s (liveTen l)).drawn ∧
      (∀ k, k ≠ liveTen l → tstep u k = tstep s k) ∧ Ended u tag st 0 0 0 ∧ Only [.hif, .out, .mem, .pln, .rck, .stp] s u)) ∧
  (∀ (tag : Nat) (l : Live) (st : Option Nat) (s : State), Starts s tag 0x52 l st → (tstep s (liveTen l)).st = .run →
    Completes (.stepResync tag) s (fun u => Ended u tag st 0x0505 0 0 ∧ Only [.hif, .out, .mem, .pln, .rck] s u)) ∧
  (∀ (tag n k r : Nat) (l : Live) (st : Option Nat) (s : State), Starts s tag 0x53 l st →
    n = ((tstep s (liveTen l)).drawn).getD 0 % 2 ^ 48 → k = (tstep s (liveTen l)).steps.length → k ≤ 3 →
    r = (tstep s (liveTen l)).reason → r < 2 ^ 8 →
    Completes (.stepQuery tag) s (fun u =>
      Ended u tag st 0 0 (n + 2 ^ 48 * (match (tstep s (liveTen l)).st with | .idle => 0 | .run => 1 | .recover => 2) + 2 ^ 50 * k + 2 ^ 52 * r) ∧
      Only [.hif, .out, .mem, .pln, .rck] s u))

/-- Derived from R351 to R353 and R368 of 09: a REPORT for a step not yet open here is kept for it, a second of the same sender
and a REPORT, DRAW of a step drawn or discarded are dropped; a REPORT joins the reports of an undrawn step that has not
arrived; a DRAW of the oldest step draws it; a FAIL from the parent, of an undrawn step, discards it with reason REMOTE_FAIL
(2) and later steps too. The model's choices it rests on: messages that the links deliver wait in the model's inbox (log 99).
Forms it says complete: stepReport, stepDraw, stepFail. -/
def Obligations.StepMessages : Prop :=
  (∀ (i b : Nat) (m : List Byte) (s : State), inboxAt s i 0x10 = some (b, m) → stepOver s (bindTen s b) (fieldAt m 4 6) = false →
    stepRec s (bindTen s b) (fieldAt m 4 6) = none →
    (∀ q ∈ (tstep s (bindTen s b)).early, q.1 = fieldAt m 4 6 → q.2.sender ≠ fieldAt m 10 2) →
    Completes (.stepReport i) s (fun u =>
      (tstep u (bindTen s b)).early = (tstep s (bindTen s b)).early ++
        [(fieldAt m 4 6, ⟨fieldAt m 10 2, fieldAt m 16 4, fieldAt m 12 2, fieldAt m 20 8, fieldAt m 28 8⟩)] ∧
      u.vnl.inbox = s.vnl.inbox.eraseIdx i ∧ Only [.stp, .vnl] s u)) ∧
  (∀ (i b : Nat) (m : List Byte) (x : StepRec) (s : State), inboxAt s i 0x10 = some (b, m) →
    stepOver s (bindTen s b) (fieldAt m 4 6) = false → stepRec s (bindTen s b) (fieldAt m 4 6) = some x → x.arrived = false →
    (∀ q ∈ x.reps, q.sender ≠ fieldAt m 10 2) →
    Completes (.stepReport i) s (fun u =>
      stepRec u (bindTen s b) (fieldAt m 4 6) = some { x with
        reps := x.reps ++ [⟨fieldAt m 10 2, fieldAt m 16 4, fieldAt m 12 2, fieldAt m 20 8, fieldAt m 28 8⟩] } ∧
      u.vnl.inbox = s.vnl.inbox.eraseIdx i ∧ Only [.stp, .vnl] s u)) ∧
  (∀ (i b : Nat) (m : List Byte) (s : State), inboxAt s i 0x10 = some (b, m) → stepOver s (bindTen s b) (fieldAt m 4 6) = true →
    Completes (.stepReport i) s (fun u => u.vnl.inbox = s.vnl.inbox.eraseIdx i ∧ u.stp = s.stp ∧ Only [.vnl] s u)) ∧
  (∀ (i b : Nat) (m : List Byte) (s : State), inboxAt s i 0x11 = some (b, m) → stepOver s (bindTen s b) (fieldAt m 4 6) = true →
    Completes (.stepDraw i) s (fun u => u.vnl.inbox = s.vnl.inbox.eraseIdx i ∧ u.stp = s.stp ∧ Only [.vnl] s u)) ∧
  (∀ (i b : Nat) (m : List Byte) (s : State), inboxAt s i 0x11 = some (b, m) → stepOver s (bindTen s b) (fieldAt m 4 6) = false →
    oldestStep s (bindTen s b) = some (fieldAt m 4 6) → (∀ e ∈ s.hif.live, liveTen e.2 ≠ bindTen s b) →
    Completes (.stepDraw i) s (fun u =>
      (tstep u (bindTen s b)).drawn = some (fieldAt m 4 6) ∧ u.stp.draws = satAdd 32 s.stp.draws 1 ∧
      (tstep u (bindTen s b)).steps = (tstep s (bindTen s b)).steps.filter (fun q => decide (q.num ≠ fieldAt m 4 6)) ∧
      (∀ x ∈ u.stp.lees, x.tenant = bindTen s b → x.step = fieldAt m 4 6 → x.kept = true) ∧
      (∀ h ∈ u.stp.hold, ¬ (h.tenant = bindTen s b ∧ h.step = fieldAt m 4 6)) ∧
      u.stp.draining = s.stp.draining ++ s.stp.hold.filter (fun h => decide (h.tenant = bindTen s b) && decide (h.step = fieldAt m 4 6)))) ∧
  (∀ (i b : Nat) (m : List Byte) (x : StepRec) (s : State), inboxAt s i 0x12 = some (b, m) →
    bindCoord s b ≠ drawRoot s b → drawParent s b (bindCoord s b) = some (fieldAt m 10 2) →
    (∀ k, (tstep s (bindTen s b)).drawn = some k → k < fieldAt m 4 6) → stepRec s (bindTen s b) (fieldAt m 4 6) = some x →
    Completes (.stepFail i) s (fun u =>
      (tstep u (bindTen s b)).st = .recover ∧ (tstep u (bindTen s b)).restoring = true ∧ (tstep u (bindTen s b)).reason = 2 ∧
      (tstep u (bindTen s b)).steps = (tstep s (bindTen s b)).steps.filter (fun r => decide (r.num < fieldAt m 4 6)) ∧
      (tstep u (bindTen s b)).drawn = (tstep s (bindTen s b)).drawn ∧
      (∀ h ∈ u.stp.hold, ¬ (h.tenant = bindTen s b ∧ fieldAt m 4 6 ≤ h.step)) ∧
      (∀ k, k ≠ bindTen s b → tstep u k = tstep s k)))

/-- Derived from R369, R377 and R360 of 09: at the draw limit a step whose report has left sends FAIL and waits, one whose
report has not fails with DRAW_TIMEOUT (4) and every later step with it; a further limit discards and sets split; a pre-image
copied stands in the lees. Further, derived from R370, R355 and R44 of 09 and 02: with nothing waiting for it, RESTORE_DONE
leaves no pre-image of a discarded step and ends the restore; the oldest held write of a drawn step reaches the host at its
address and leaves the hold. The model's choices it rests on: what leaves the module stands in the model's own list `out` (log
53). Forms it says complete: drawTimeout, drawSplitTimeout, preimageCopyDone, restoreDone, mustHoldWriteDone. -/
def Obligations.StepTimersAndRestore : Prop :=
  (∀ (t n : Nat) (r : StepRec) (s : State), sealedStep s t n = some r → r.late = false → r.left = true →
    Completes (.drawTimeout t n) s (fun u =>
      stepRec u t n = some { r with late := true } ∧ u.cel.staged = s.cel.staged ++ [.failUp t n 4] ∧
      (∀ k, k ≠ t → tstep u k = tstep s k) ∧ Only [.stp, .cel] s u)) ∧
  (∀ (t n : Nat) (r : StepRec) (s : State), sealedStep s t n = some r → r.late = false → r.left = false →
    Completes (.drawTimeout t n) s (fun u =>
      (tstep u t).st = .recover ∧ (tstep u t).restoring = true ∧ (tstep u t).reason = 4 ∧
      (tstep u t).steps = (tstep s t).steps.filter (fun r => decide (r.num < n)) ∧ (tstep u t).drawn = (tstep s t).drawn ∧
      u.cel.staged = s.cel.staged ++ [.failUp t n 4] ∧ (∀ k, k ≠ t → tstep u k = tstep s k))) ∧
  (∀ (t n : Nat) (r : StepRec) (s : State), sealedStep s t n = some r → r.late = true →
    Completes (.drawSplitTimeout t n) s (fun u =>
      (tstep u t).st = .recover ∧ (tstep u t).restoring = true ∧ (tstep u t).reason = 4 ∧ (tstep u t).split = true ∧
      (tstep u t).steps = (tstep s t).steps.filter (fun r => decide (r.num < n)) ∧ (∀ k, k ≠ t → tstep u k = tstep s k))) ∧
  (∀ (h p b n : Nat) (w : WaitW) (s : State), nclkOn s = true →
    s.pln.waits.find? (fun w => decide (w.hnd = h) && decide (pageIdx w.off = p) && decide (blockIdx w.off = b)
      && decide (needOf s w = .pre)) = some w → w.step = some n →
    (leesUse s w.tenant + 4096 ≤ leesQuota s w.tenant ∨ speculative s w.tenant n = true) →
    Completes (.preimageCopyDone h p b) s (fun u =>
      u.stp.lees = s.stp.lees ++ [{
        tenant := w.tenant, step := n, hnd := h, page := p, block := b,
        bytes := hRead s h (p * 0x200000 + b * 4096) 4096 }] ∧
      Only [.stp, .mem, .pln, .rck, .out, .hif, .book] s u)) ∧
  (∀ (t n : Nat) (bad : List (Nat × Nat × Nat)) (s : State), (tstep s t).restoring = true → nclkOn s = true → s.err.fence = false →
    (tstep s t).firstDisc = some n → (∀ e ∈ s.hif.live, liveTen e.2 = t → e.2.stage ≠ .spaceWait) →
    Completes (.restoreDone t bad) s (fun u =>
      (tstep u t).restoring = false ∧ (tstep u t).st = (tstep s t).st ∧
      u.stp.lees = s.stp.lees.filter (fun x => decide (x.tenant ≠ t) || decide (x.step < n) || x.kept) ∧
      (∀ k, k ≠ t → tstep u k = tstep s k))) ∧
  (∀ (w : HoldW) (rest : List HoldW) (s : State), s.stp.draining = w :: rest → s.hif.up = true → nclkOn s = true →
    hostRangeOk s w.fn w.addr w.bytes.length = true →
    Completes .mustHoldWriteDone s (fun u =>
      u.stp.draining = rest ∧ Out.hostWrite w.fn w.pasid w.addr w.bytes ∈ u.out ∧
      ((∀ e ∈ s.hif.live, liveTen e.2 = w.tenant → e.2.stage ≠ .spaceWait) → Only [.stp, .out, .mem, .hif, .pln, .rck, .book] s u) ∧
      Only [.stp, .out, .mem, .hif, .pln, .rck, .book, .cor, .col, .cel, .pwr, .tim, .dbg] s u))

/-- Derived from R80, R81, R84 and R87 of 02: a NOP and a FENCE whose wait is over end OK, a FENCE with a wait that is not over
goes on executing, one that names no enabled submission ring of its tenant or a count half the circle away ends with BAD_FIELD,
and a FENCE that executes ends once its wait is over; an unattached NOP that asks for its completion writes its 32-byte entry
to its completion ring. The model's choices it rests on: what leaves the module stands in the model's own list `out` (log 53).
Forms it says complete: nop, fence. -/
def Obligations.FlowDescriptors : Prop :=
  (∀ (tag : Nat) (l : Live) (st : Option Nat) (s : State), Starts s tag 0x00 l st →
    Completes (.nop tag) s (fun u => Ended u tag st 0 0 0 ∧ Only [.hif, .out, .mem, .pln, .rck] s u)) ∧
  (∀ (tag : Nat) (l : Live) (s : State), Starts s tag 0x00 l none → bitOf (flagsOf l.desc) 0 = true → entryOk s (ringCq s l.ring) = true →
    (ringRec s (ringCq s l.ring)).st ≠ .disabled →
    Completes (.nop tag) s (fun u =>
      Out.hostWrite (tenFn s (ringTen (ringCq s l.ring))) (pasidOf (ringRec s (ringCq s l.ring)).pasid)
        (ringBase s (ringCq s l.ring) + (ringRec s (ringCq s l.ring)).posted % ringSize s (ringCq s l.ring) * 32)
        (leB 8 (cookieOf l.desc) ++ leB 4 (seqOf l.desc) ++ leB 4 (tag + l.ring % 256 * 0x100000) ++ zeros 12
          ++ leB 2 (ringRec s l.ring).fetched ++ zeros 1
          ++ [if (ringRec s (ringCq s l.ring)).posted / ringSize s (ringCq s l.ring) % 2 = 0 then 0x80 else 0]) ∈ u.out)) ∧
  (∀ (tag r : Nat) (l w : Live) (st : Option Nat) (s s1 : State), Starts s tag 0x01 l st → r = ringTen l.ring * 256 + fieldAt l.desc 16 1 →
    s1 = modLive tag (fun l => { l with stage := .running, step := st }) s →
    w = fenceWait s1 { l with stage := .running, step := st } r (fieldAt l.desc 20 4) →
    Completes (.fence tag) s (fun u => Only [.hif, .out, .mem, .pln, .rck] s u ∧
      (bitOf (fieldAt l.desc 17 1) 0 = false → (∀ e ∈ s.hif.live, earlier s e.2 l = true → unfinished e.2 = false) → Ended u tag st 0 0 0) ∧
      (bitOf (fieldAt l.desc 17 1) 0 = true → fenceRingOk s r = false → Ended u tag st 0x12 16 0) ∧
      (bitOf (fieldAt l.desc 17 1) 0 = true → fenceRingOk s r = true → sub32 (fieldAt l.desc 20 4) (ringRec s r).fetched = 2 ^ 31 →
        Ended u tag st 0x12 20 0) ∧
      (bitOf (fieldAt l.desc 17 1) 0 = true → fenceRingOk s r = true → sub32 (fieldAt l.desc 20 4) (ringRec s r).fetched ≠ 2 ^ 31 →
        fencePending (modLive tag (fun _ => w) s) w r = false → Ended u tag st 0 0 0) ∧
      (bitOf (fieldAt l.desc 17 1) 0 = true → fenceRingOk s r = true → sub32 (fieldAt l.desc 20 4) (ringRec s r).fetched ≠ 2 ^ 31 →
        fencePending (modLive tag (fun _ => w) s) w r = true → liveRec u tag = some w))) ∧
  (∀ (tag : Nat) (l : Live) (s : State), liveRec s tag = some l → l.stage = .running → opcodeOf l.desc = 0x01 → nclkOn s = true →
    s.hif.up = true → s.hif.resumePending = false → (∀ r ∈ (tstep s (liveTen l)).steps, r.sealTag = none) →
    bitOf (fieldAt l.desc 17 1) 0 = true → fencePending s l (fenceRing l) = false →
    Completes (.fence tag) s (fun u => Ended u tag l.step 0 0 0 ∧ Only [.hif, .out, .mem, .pln, .rck] s u))

/-- Derived from R109 to R112, R345 and R692 of 03 and 09: a DMA_H2D, DMA_COPY or DMA_FILL that no check of R111 stops,
unattached, over pages in T0 or T1 that no fence, trip, rack, poison or waiting write holds back, leaves exactly its bytes in
its handle and every other byte of memory as it was, a DMA_H2D reading them from the host in its tenant's function and PASID,
and goes on executing until DMA_DONE; one that a check stops ends with its status and writes nothing, and so does a DMA_H2D
whose host read fails. Further, derived from R112, R361, R364 and R692 of 03 and 09: an unattached DMA_D2H writes the handle's
bytes to the host address, one attached to the oldest undrawn step adds them to the must hold where the quota allows, and
neither changes memory; DMA_DONE ends a DMA whose writes are all made with its status and result. The model's choices it rests
on: what leaves the module stands in the model's own list `out` (log 53). Forms it says complete: dmaH2d, dmaD2h, dmaCopy,
dmaFill, dmaDone. -/
def Obligations.DmaTransfers : Prop :=
  (∀ (c : Instr) (op tag : Nat) (buf : List Byte) (l : Live) (st : Option Nat) (s : State),
    (c, op) ∈ [(Instr.dmaH2d tag 0 buf, 0x10), (.dmaCopy tag, 0x12), (.dmaFill tag, 0x13)] → (op ≠ 0x10 → buf = []) →
    Starts s tag op l st →
    (∀ f, dmaFault s (liveTen l) op l.desc = some f →
      Completes c s (fun u => Ended u tag st f.1 f.2 0 ∧ ((∀ e ∈ s.pln.hnds, e.2.gone = false) → u.mem = s.mem) ∧
        Only [.hif, .out, .mem, .pln, .rck] s u)) ∧
    (st = none → dmaFault s (liveTen l) op l.desc = none → (op = 0x10 → buf.length = dmaLen l.desc) →
      (∀ q ∈ dmaRanges op l.desc, ∀ i, i < q.2.2 → ∃ p, pageRec s q.1 (pageIdx (q.2.1 + i)) = some p ∧ p.tier ≤ 1 ∧ p.mark = false ∧
        p.poison = [] ∧ (p.tier = 0 → (stkRec s p.stack).st ≠ 2 ∧ (stkRec s p.stack).st ≠ 3)) →
      s.err.fence = false → asleep s = false → s.rck.job = none → s.pln.waits = [] →
      Completes c s (fun u =>
        (∃ l', liveRec u tag = some l' ∧ l'.stage = .running ∧ l'.aux = 1 ∧ l'.status = 0 ∧ l'.detail = 0 ∧ l'.result = dmaLen l.desc) ∧
        (∀ i, i < dmaLen l.desc →
          memGet u.mem (hKey (dmaH l.desc) (dmaOff l.desc) + i) = (dmaBytes s op l.desc buf).getD i 0) ∧
        (∀ a, a < hKey (dmaH l.desc) (dmaOff l.desc) ∨ hKey (dmaH l.desc) (dmaOff l.desc) + dmaLen l.desc ≤ a →
          memGet u.mem a = memGet s.mem a) ∧
        u.out = (if op = 0x10 then [.hostRead (tenFn s (liveTen l)) (tenPasid s (liveTen l)) (dmaAddr l.desc) (dmaLen l.desc)] else []) ++ s.out ∧
        u.pln.hnds = s.pln.hnds ∧ Only [.hif, .mem, .pln, .rck, .out] s u))) ∧
  (∀ (tag flt : Nat) (buf : List Byte) (l : Live) (st : Option Nat) (s : State), Starts s tag 0x10 l st → flt ≠ 0 →
    dmaFault s (liveTen l) 0x10 l.desc = none →
    Completes (.dmaH2d tag flt buf) s (fun u => Ended u tag st 0x15 (flt % 8) 0 ∧ ((∀ e ∈ s.pln.hnds, e.2.gone = false) → u.mem = s.mem) ∧
      Only [.hif, .out, .mem, .pln, .rck] s u)) ∧
  (∀ (tag : Nat) (l : Live) (st : Option Nat) (s : State), Starts s tag 0x11 l st → dmaFault s (liveTen l) 0x11 l.desc = none →
    dmaBlocked s 0x11 l.desc = false → dmaPoison s 0x11 l.desc = [] →
    Completes (.dmaD2h tag) s (fun u =>
      (st = none → hostRangeOk s (tenFn s (liveTen l)) (dmaAddr l.desc) (dmaLen l.desc) = true →
        u.out = .hostWrite (tenFn s (liveTen l)) (tenPasid s (liveTen l)) (dmaAddr l.desc) (hRead s (dmaH l.desc) (dmaOff l.desc) (dmaLen l.desc)) :: s.out ∧
        Only [.hif, .out] s u) ∧
      (st = none → hostRangeOk s (tenFn s (liveTen l)) (dmaAddr l.desc) (dmaLen l.desc) = false →
        (∃ l', liveRec u tag = some l' ∧ l'.stage = .running ∧ l'.aux = 1 ∧ l'.status = 0x15 ∧ l'.detail = 4) ∧ Only [.hif] s u) ∧
      (∀ n, st = some n → speculative s (liveTen l) n = false →
        holdUse s (liveTen l) + (dmaLen l.desc + 4095) / 4096 * 4096 ≤ holdQuota s (liveTen l) →
        u.stp.hold = s.stp.hold ++ [{
          tag := tag, tenant := liveTen l, step := n, fn := tenFn s (liveTen l), pasid := tenPasid s (liveTen l), addr := dmaAddr l.desc,
          bytes := hRead s (dmaH l.desc) (dmaOff l.desc) (dmaLen l.desc) }] ∧
        Only [.hif, .stp, .out, .book] s u))) ∧
  (∀ (tag : Nat) (l : Live) (s : State), liveRec s tag = some l → nclkOn s = true → 0x10 ≤ opcodeOf l.desc → opcodeOf l.desc ≤ 0x13 →
    l.stage = .running → l.aux = 1 → writesWait s tag = false → s.hif.up = true → s.hif.resumePending = false →
    (∀ r ∈ (tstep s (liveTen l)).steps, r.sealTag = none) →
    Completes (.dmaDone tag) s (fun u => Ended u tag l.step l.status l.detail l.result ∧ Only [.hif, .out, .mem, .pln, .rck] s u))

/-- Derived from R106, R113 and R102 of 03: a HANDLE_CREATE that passes its checks and finds its pages makes a handle with
every page and answers its number and page count; a page whose zeroization ends leaves the list of zeroing pages. Further,
derived from R114 to R117 of 03: a HANDLE_FREE of a handle no started descriptor names and no rack reads frees it, attached to
a step it marks it freed in that step; HANDLE_HINT sets the preference of each page of its range; HANDLE_QUERY counts the pages
in each tier; each ends with BAD_HANDLE on a handle that is not the tenant's. The model's choices it rests on: what leaves the
module stands in the model's own list `out` (log 53). Forms it says complete: handleCreate, handleFree, handleHint,
handleQuery, pageZeroizeDone. -/
def Obligations.HandleDescriptors : Prop :=
  (∀ (tag want h n : Nat) (l : Live) (hd : Hnd) (st : Option Nat) (s s1 : State), Starts s tag 0x20 l st →
    createFault s (liveTen l) l.desc = none → h = pickHandle s want → hndRec s h = none → n = pagesOf (fieldAt l.desc 16 6) →
    (∀ e ∈ s.pln.hnds, e.2.size ≤ 2 ^ 40) →
    hd = {
      tenant := liveTen l, size := fieldAt l.desc 16 6, replicated := bitOf (fieldAt l.desc 22 1) 0,
      narrowable := bitOf (fieldAt l.desc 22 1) 1, graftEach := bitOf (fieldAt l.desc 22 1) 2, noRack := bitOf (fieldAt l.desc 22 1) 3,
      repCount := fieldAt l.desc 24 2, repRank := fieldAt l.desc 26 2, createdIn := st } →
    createPages h (liveTen l) (bitsOf (fieldAt l.desc 23 1) 1 0) (bitsOf (fieldAt l.desc 23 1) 4 2) n 0
      (modPln (fun p => { p with hnds := Map.put p.hnds h hd }) (modLive tag (fun l => { l with stage := .running, step := st }) s)) = some s1 →
    Completes (.handleCreate tag want) s (fun u =>
      hndRec u h = some hd ∧ (∀ p, p < n → ∃ x, pageRec u h p = some x ∧ x.tier ≤ 2) ∧ Ended u tag st 0 0 (h + n * 2 ^ 32) ∧
      ((∀ e ∈ s.pln.hnds, e.2.gone = false) → u.pln.hnds = Map.put s.pln.hnds h hd) ∧ Only [.hif, .out, .mem, .pln, .rck] s u)) ∧
  (∀ (tag want : Nat) (f : Nat × Nat) (l : Live) (st : Option Nat) (s : State), Starts s tag 0x20 l st →
    createFault s (liveTen l) l.desc = some f →
    Completes (.handleCreate tag want) s (fun u => Ended u tag st f.1 f.2 0 ∧ Only [.hif, .out, .mem, .pln, .rck] s u)) ∧
  (∀ (tier stack : Nat) (s : State), (tier, stack) ∈ s.pln.zeroing → s.pln.waits = [] →
    (∀ e ∈ s.hif.live, e.2.stage = .promo → opcodeOf e.2.desc ≠ 0x20) →
    Completes (.pageZeroizeDone tier stack) s (fun u =>
      u.pln = { s.pln with zeroing := s.pln.zeroing.erase (tier, stack) } ∧ Only [.pln] s u)) ∧
  (∀ (c : Instr) (op tag : Nat) (l : Live) (st : Option Nat) (s : State),
    (c, op) ∈ [(Instr.handleFree tag, 0x21), (.handleHint tag, 0x22), (.handleQuery tag, 0x23)] → Starts s tag op l st →
    hndOk s (liveTen l) (fieldAt l.desc 16 3) = false →
    Completes c s (fun u => Ended u tag st 0x14 0 0 ∧ Only [.hif, .out, .mem, .pln, .rck] s u)) ∧
  (∀ (tag h : Nat) (l : Live) (st : Option Nat) (x : Hnd) (s : State), Starts s tag 0x21 l st → h = fieldAt l.desc 16 3 →
    hndOk s (liveTen l) h = true → hndRec s h = some x → (∀ e ∈ s.pln.hnds, e.2.gone = false) →
    (∀ e ∈ s.hif.live, e.1 ≠ tag → namesHandle e.2 h = false) → s.rck.job = none →
    Completes (.handleFree tag) s (fun u =>
      (st = none → hndRec u h = none) ∧
      (∀ n, st = some n → hndRec u h = some { x with gone := true, freedIn := some n, waitFor := [] }) ∧
      Ended u tag st 0 0 0 ∧ Only [.hif, .out, .mem, .pln, .rck] s u)) ∧
  (∀ (tag h fp cnt pref : Nat) (l : Live) (st : Option Nat) (s : State), Starts s tag 0x22 l st → h = fieldAt l.desc 16 3 →
    hndOk s (liveTen l) h = true → (∀ e ∈ s.pln.hnds, e.2.gone = false) → fp = fieldAt l.desc 20 4 →
    cnt = (if fieldAt l.desc 24 4 = 0 then pagesOf (hndSize s h) - fp else fieldAt l.desc 24 4) → pref = fieldAt l.desc 28 1 →
    fp < pagesOf (hndSize s h) → fp + cnt ≤ pagesOf (hndSize s h) → bitsOf pref 4 2 ≤ numDies s → bitOf pref 5 = false →
    Completes (.handleHint tag) s (fun u =>
      (∀ p x, fp ≤ p → p < fp + cnt → pageRec s h p = some x →
        pageRec u h p = some { x with prefTier := bitsOf pref 1 0, prefDie := bitsOf pref 4 2 }) ∧
      Ended u tag st 0 0 0 ∧ u.pln.hnds = s.pln.hnds ∧ u.mem = s.mem ∧ Only [.hif, .out, .mem, .pln, .rck] s u)) ∧
  (∀ (tag h : Nat) (l : Live) (st : Option Nat) (k : Nat → Nat) (s : State), Starts s tag 0x23 l st → h = fieldAt l.desc 16 3 →
    hndOk s (liveTen l) h = true →
    (∀ tier, k tier = (s.pln.pages.filter (fun e => decide (e.1 / 0x100000 = h) && decide (e.2.tier = tier))).length) →
    Completes (.handleQuery tag) s (fun u =>
      Ended u tag st 0 0 (k 0 + 2 ^ 21 * k 1 + 2 ^ 42 * k 2) ∧ Only [.hif, .out, .mem, .pln, .rck] s u))

/-- Derived from R225 to R229 and R124 of 06 and 03: a LAUNCH that a check stops ends with its status; one that no check stops,
awake, with a core to run on and its plot map out of T2, becomes a launch attached to its step whose plots are all given to
cores of its tenant; on a core it starts by a swap to its slot, or, resident, by its code, its first plot and a fresh hart
state in the context. The model's choices it rests on: what leaves the module stands in the model's own list `out` (log 53).
Forms it says complete: launch, launchCoreStart. -/
def Obligations.LaunchesStart : Prop :=
  (∀ (tag : Nat) (f : Nat × Nat) (l : Live) (st : Option Nat) (s : State), Starts s tag 0x30 l st → l.stage ≠ .promo →
    launchFault s (liveTen l) l.desc = some f →
    Completes (.launch tag) s (fun u => Ended u tag st f.1 f.2 0 ∧ Only [.hif, .out, .mem, .pln, .rck] s u)) ∧
  (∀ (tag : Nat) (l : Live) (st : Option Nat) (s : State), Starts s tag 0x30 l st → launchFault s (liveTen l) l.desc = none →
    asleep s = false → launchCores s (liveTen l) ≠ [] → (lMapEn l.desc && touchesT2 s (lMap l.desc) 0 (64 * lPlots l.desc)) = false →
    Completes (.launch tag) s (fun u =>
      (∃ m, u.cor.launches = s.cor.launches ++ [m] ∧ m.tag = tag ∧ m.tenant = liveTen l ∧ m.step = st ∧ m.code = lCode l.desc ∧
        m.codeBytes = lCodeBytes l.desc ∧ m.entry = lEntry l.desc ∧ m.tiles = 0 ∧ m.at_ = none ∧
        (∀ p ∈ m.parts, slotOf s p.core (liveTen l) = some p.slot ∧ p.started = false ∧ p.done = false ∧ p.todo ≠ [] ∧
          ∀ q ∈ p.todo, lFirst l.desc ≤ q ∧ q < lFirst l.desc + lPlots l.desc) ∧
        (m.parts.map (fun p => p.todo.length)).sum = lPlots l.desc) ∧
      liveRec u tag = some { l with stage := .running, step := st } ∧ u.cor.cores = s.cor.cores ∧
      Only [.hif, .pwr, .cor, .mem, .err, .book] s u)) ∧
  (∀ (tag : Nat) (l : Live) (st : Option Nat) (s : State), Starts s tag 0x30 l st → launchFault s (liveTen l) l.desc = none →
    launchCores s (liveTen l) = [] →
    Completes (.launch tag) s (fun u => liveRec u tag = some { l with stage := .promo, step := st } ∧ Only [.hif, .pwr] s u)) ∧
  (∀ (tag c : Nat) (l : Launch) (p : LPart) (s : State), launchRec s tag = some l →
    l.parts.find? (fun p => decide (p.core = c)) = some p → p.started = false →
    (∀ m ∈ s.cor.launches.takeWhile (fun m => decide (m.tag ≠ tag)), m.tenant = l.tenant → ∀ q ∈ m.parts, q.core = c → q.done = true) →
    s.err.fence = false → nclkOn s = true → (coreRec s c).st = .idle →
    (coreRec s c).slot ≠ p.slot ∨ (coreRec s c).empty = true →
    Completes (.launchCoreStart tag c) s (fun u =>
      coreRec u c = { coreRec s c with st := .swapping, next := p.slot } ∧ (∀ d, d ≠ c → coreRec u d = coreRec s d) ∧ Only [.cor] s u)) ∧
  (∀ (tag c q : Nat) (rest : List Nat) (l : Launch) (p : LPart) (s : State), launchRec s tag = some l →
    l.parts.find? (fun p => decide (p.core = c)) = some p → p.started = false → p.todo = q :: rest →
    (∀ m ∈ s.cor.launches.takeWhile (fun m => decide (m.tag ≠ tag)), m.tenant = l.tenant → ∀ q ∈ m.parts, q.core = c → q.done = true) →
    s.err.fence = false → nclkOn s = true → (coreRec s c).st = .idle ∨ (coreRec s c).st = .running → (coreRec s c).slot = p.slot →
    ((coreRec s c).st = .idle → (coreRec s c).empty = false) → touchesT2 s l.code 0 l.codeBytes = false → poisonedIn s l.code 0 l.codeBytes = [] → l.codeBytes ≤ 0x410000 → memWf s.mem = true →
    Completes (.launchCoreStart tag c) s (fun u =>
      (coreRec u c).st = .running ∧ (slotRec u c p.slot).hart = .run ∧ (slotRec u c p.slot).vtype = 2 ^ 63 ∧ (slotRec u c p.slot).vl = 0 ∧
      (slotRec u c p.slot).fcsr = 0 ∧
      memRead u.mem (imgKey c 0) l.codeBytes = hRead s l.code 0 l.codeBytes ∧
      memRead u.mem (imgKey c (xReg 0)) 8 = leB 8 l.entry ∧ memRead u.mem (imgKey c (xReg 2)) 8 = leB 8 0x400000 ∧
      memRead u.mem (imgKey c (xReg 10)) 8 = leB 8 q ∧ memRead u.mem (imgKey c (xReg 11)) 8 = leB 8 l.arg ∧
      memRead u.mem (imgKey c (xReg 12)) 8 = leB 8 c ∧ memRead u.mem (imgKey c (xReg 31)) 8 = leB 8 0 ∧
      (∀ m, launchRec u tag = some m → ∃ r, m.parts.find? (fun p => decide (p.core = c)) = some r ∧ r.plot = some q ∧ r.todo = rest ∧
        r.started = true ∧ r.ran = true) ∧
      (∀ d, d ≠ c → coreRec u d = coreRec s d) ∧ Only [.cor, .mem, .pln] s u))

/-- Derived from R159 to R166, R231, R236, R237 and R258 of 04 and 06: the oldest ready tile takes its tokens and fires, or its
launch ends with the first check that fails; a tile in flight makes exactly its writes, counts, flags and posts and leaves the
queue; a post adds to its counter or pool, saturating at 65,535, and one for a core where its tenant has no slot adds nowhere
and is counted by the slot it came from. The model's choices it rests on: what leaves the module stands in the model's own list
`out` (log 53). Forms it says complete: tileFire, tileComplete, tokenPost. -/
def Obligations.TilesAndPosts : Prop :=
  (∀ (c i : Nat) (q : QTile) (l : Launch) (s : State), (coreRec s c).st = .running → s.err.fence = false → nclkOn s = true →
    memb 5 s.boot.drained = false → memb 6 s.boot.drained = false →
    nextTile s (slotRec s c (coreRec s c).slot) = some i → (slotRec s c (coreRec s c).slot).queue[i]? = some q →
    launchRec s q.launch = some l →
    Completes (.tileFire c) s (fun u =>
      (tileFault (tileCtx s c l) (blockAt s c q.line) = none →
        (slotRec u c (coreRec s c).slot).cnts = (takeTokens q (slotRec s c (coreRec s c).slot)).cnts ∧
        (slotRec u c (coreRec s c).slot).pools = (takeTokens q (slotRec s c (coreRec s c).slot)).pools ∧
        (slotRec u c (coreRec s c).slot).queue =
          (slotRec s c (coreRec s c).slot).queue.modify i (fun y => { y with fired := true, blk := blockAt s c q.line, wrote := false }) ∧
        (∀ d, d ≠ c → coreRec u d = coreRec s d) ∧ Only [.cor, .pln] s u) ∧
      (∀ e, tileFault (tileCtx s c l) (blockAt s c q.line) = some e →
        launchRec u q.launch = none ∧ (coreRec u c).fltInfo = e * 2 ^ 24 + fieldAt (blockAt s c q.line) 0 1 * 2 ^ 16 + l.tenant ∧
        (coreRec u c).fltCount = satAdd 32 (coreRec s c).fltCount 1))) ∧
  (∀ (c i k : Nat) (q : QTile) (l : Launch) (p : LPart) (o : TileOut) (s s1 : State),
    (coreRec s c).st = .running ∨ (coreRec s c).st = .preempting → nclkOn s = true →
    k = (coreRec s c).slot → (slotRec s c k).queue[i]? = some q → launchRec s q.launch = some l → q.fired = true →
    q.wrote = false → rowsT2 s ((xferRows q.blk).1 ++ (xferRows q.blk).2) = false →
    (∀ r ∈ (xferRows q.blk).1, poisonedIn s r.1 r.2.1 r.2.2 = []) → (∀ r ∈ (xferRows q.blk).2, rmwPoison s r.1 r.2.1 r.2.2 = []) →
    o = runTile (tileCtx s c l) q.blk →
    s1 = forS ((xferRows q.blk).1 ++ (xferRows q.blk).2) (fun r => countAccess (dieOfCore c) r.1 r.2.1 r.2.2)
      (tileWrites c l o (modSlot c k (fun x => { x with queue := x.queue.modify i (fun y => { y with wrote := true }) }) s)) →
    writesWait s1 (2 ^ 20 + c) = false → l.parts.find? (fun p => decide (p.core = c)) = some p → p.plot ≠ none →
    Completes (.tileComplete c i) s (fun u =>
      u.mem = s1.mem ∧ (slotRec u c k).queue = ((slotRec s c k).queue.modify i (fun y => { y with wrote := true })).eraseIdx i ∧
      (slotRec u c k).flags = (slotRec s c k).flags ||| o.flags.toByte.toNat ∧
      (∃ m, launchRec u q.launch = some m ∧ m.tiles = satAdd 32 l.tiles 1 ∧ m.flags = l.flags ||| o.flags.toByte.toNat) ∧
      Only [.mem, .pln, .rck, .pwr, .cor] s u)) ∧
  (∀ (i k : Nat) (f : FPost) (s : State), s.cor.flight[i]? = some f → nclkOn s = true → f.post.core < numCores s →
    slotOf s f.post.core f.tenant = some k →
    Completes (.tokenPost i) s (fun u =>
      u.cor.flight = s.cor.flight.eraseIdx i ∧
      (∀ j, Map.get 0 (slotRec u f.post.core k).cnts j =
        if f.post.pool = false ∧ j = f.post.idx then min (Map.get 0 (slotRec s f.post.core k).cnts j + f.post.count) 65535
        else Map.get 0 (slotRec s f.post.core k).cnts j) ∧
      (∀ j, Map.get 0 (slotRec u f.post.core k).pools j =
        if f.post.pool = true ∧ j = f.post.idx then min (Map.get 0 (slotRec s f.post.core k).pools j + f.post.count) 65535
        else Map.get 0 (slotRec s f.post.core k).pools j) ∧
      (∀ d, d ≠ f.post.core → coreRec u d = coreRec s d) ∧
      (∀ j, (slotRec u f.post.core j).queue = (slotRec s f.post.core j).queue ∧
        (j ≠ k → (slotRec u f.post.core j).cnts = (slotRec s f.post.core j).cnts ∧
          (slotRec u f.post.core j).pools = (slotRec s f.post.core j).pools)) ∧
      Only [.out, .hif, .cor, .stp, .book] s u)) ∧
  (∀ (i : Nat) (f : FPost) (s : State), s.cor.flight[i]? = some f → nclkOn s = true →
    (f.post.core < numCores s → slotOf s f.post.core f.tenant = none) →
    Completes (.tokenPost i) s (fun u =>
      u.cor.flight = s.cor.flight.eraseIdx i ∧
      (∀ d j, (slotRec u d j).cnts = (slotRec s d j).cnts ∧ (slotRec u d j).pools = (slotRec s d j).pools ∧
        (slotRec u d j).queue = (slotRec s d j).queue) ∧
      (∀ c k, f.src = some (c, k) → (slotRec u c k).badPost = satAdd 16 (slotRec s c k).badPost 1) ∧
      Only [.out, .hif, .cor, .stp, .book] s u))

/-- Derived from R234, R235, R149 and R159 of 06 and 04: a hart's run takes effect, and then a write to a counter or pool adds
to it; a wait load takes what it waits for and returns the remainder, or waits; a push appends a queue entry while one is free,
else waits; a held access is made again. The model's choices it rests on: what a hart did since its last command is the
command's operand (log 66); what leaves the module stands in the model's own list `out` (log 53). Forms it says complete:
corTiPush, corTiWait, corTiPwait, corTiCnt, corTiPool. -/
def Obligations.HartTokens : Prop :=
  (∀ (cmd : Instr) (pool : Bool) (c i v k : Nat) (r : HartRun) (l : Launch) (p : LPart) (s : State),
    (cmd = .corTiCnt c r i v ∧ pool = false ∧ i < 256) ∨ (cmd = .corTiPool c r i v ∧ pool = true ∧ i < 64) →
    hartAt s c = some (k, l, p) → hartFree s c k = true → runWaits s c k r = false → runFault s c (slotTen s c k) r = none →
    Completes cmd s (fun u =>
      (∀ j, Map.get 0 (slotRec u c k).cnts j =
        if pool = false ∧ j = i then min (Map.get 0 (slotRec s c k).cnts j + v % 65536) 65535 else Map.get 0 (slotRec s c k).cnts j) ∧
      (∀ j, Map.get 0 (slotRec u c k).pools j =
        if pool = true ∧ j = i then min (Map.get 0 (slotRec s c k).pools j + v % 65536) 65535 else Map.get 0 (slotRec s c k).pools j) ∧
      (slotRec u c k).queue = (slotRec s c k).queue ∧ u.mem = (applyRun c k r s).mem ∧
      Only [.out, .mem, .hif, .cor, .stp, .book] s u)) ∧
  (∀ (cmd : Instr) (me : HartSt) (pool : Bool) (c i rd k n v : Nat) (r : HartRun) (l : Launch) (p : LPart) (s s0 : State),
    (cmd = .corTiWait c r ⟨i, rd⟩ ∧ me = .waitCnt i ∧ pool = false ∧ i < 256) ∨
      (cmd = .corTiPwait c r ⟨i, rd⟩ ∧ me = .waitPool i ∧ pool = true ∧ i < 64) →
    hartAt s c = some (k, l, p) →
    (hartFree s c k = true ∧ runWaits s c k r = false ∧ runFault s c (slotTen s c k) r = none ∧ s0 = applyRun c k r s) ∨
      ((slotRec s c k).hart = me ∧ s0 = s) →
    n = max 1 (slotRec s0 c k).waitN →
    v = (if pool then Map.get 0 (slotRec s c k).pools i else Map.get 0 (slotRec s c k).cnts i) →
    Completes cmd s (fun u =>
      (n ≤ v → (slotRec u c k).hart = .run ∧
        (∀ j, Map.get 0 (slotRec u c k).cnts j = if pool = false ∧ j = i then v - n else Map.get 0 (slotRec s c k).cnts j) ∧
        (∀ j, Map.get 0 (slotRec u c k).pools j = if pool = true ∧ j = i then v - n else Map.get 0 (slotRec s c k).pools j) ∧
        u.mem = (if 1 ≤ rd ∧ rd < 32 then memWrite s0.mem (imgKey c (xReg rd)) (leB 8 (v - n)) else s0.mem)) ∧
      (v < n → (slotRec u c k).hart = me ∧
        (slotRec u c k).cnts = (slotRec s c k).cnts ∧ (slotRec u c k).pools = (slotRec s c k).pools ∧ u.mem = s0.mem) ∧
      Only [.mem, .cor] s u)) ∧
  (∀ (c line k : Nat) (r : HartRun) (l : Launch) (p : LPart) (s s0 : State), hartAt s c = some (k, l, p) →
    (hartFree s c k = true ∧ runWaits s c k r = false ∧ runFault s c (slotTen s c k) r = none ∧ s0 = applyRun c k r s) ∨
      ((slotRec s c k).hart = .waitPush line ∧ s0 = s) →
    Completes (.corTiPush c r line) s (fun u =>
      ((slotRec s c k).queue.length < 64 →
        (slotRec u c k).hart = .run ∧
        ∃ x, (slotRec u c k).queue = (slotRec s c k).queue ++ [x] ∧ x.line = line % 65536 ∧ x.launch = l.tag ∧ x.plot = p.plot.getD 0 ∧
          x.fired = false ∧ x.refire = false ∧ x.hdr = (slotRec s0 c k).hdr) ∧
      (64 ≤ (slotRec s c k).queue.length → (slotRec u c k).hart = .waitPush line ∧ (slotRec u c k).queue = (slotRec s c k).queue) ∧
      u.mem = s0.mem ∧ Only [.mem, .cor] s u))

/-- Derived from R149, R230 to R232, R259 and R261 of 06 and 04: at the end of a plot the next one assigned starts, or the hart
stops, and the last plot of the last part completes the launch; ABORT, an exception, an access of a run that raises one, and
the time limit end the launch on every core with their status and set the core's fault registers. Further, derived from R170,
R176 to R183 of 04: at the end of its quantum a core with another runnable slot pre-empts, waiting for tiles in flight; at the
limit it discards them, marked for re-fire, and swaps; a swap saves the resident context to the outgoing slot's image, loads
the incoming one and makes that slot resident. The model's choices it rests on: what a hart did since its last command is the
command's operand (log 66); the places inside the saved CSR and queue areas (log 151); what leaves the module stands in the
model's own list `out` (log 53). Forms it says complete: plotEnd, plotAbort, hartException, launchTimeout, quantumExpiry,
preemptLimit, swapDone, segmentZeroizeDone. -/
def Obligations.PlotsAndSlices : Prop :=
  (∀ (c k : Nat) (r : HartRun) (l : Launch) (p : LPart) (s : State), hartAt s c = some (k, l, p) → hartFree s c k = true →
    runWaits s c k r = false → runFault s c (slotTen s c k) r = none →
    launchRec s l.tag = some l → l.parts.find? (fun p => decide (p.core = c)) = some p → p.todo ≠ [] →
    Completes (.plotEnd c r) s (fun u =>
      (slotRec u c k).hart = .run ∧ memRead u.mem (imgKey c (xReg 0)) 8 = leB 8 l.entry ∧
      memRead u.mem (imgKey c (xReg 10)) 8 = leB 8 (p.todo.headD 0) ∧
      (∃ m, launchRec u l.tag = some m ∧ ∃ x, m.parts.find? (fun p => decide (p.core = c)) = some x ∧ x.plot = some (p.todo.headD 0) ∧
        x.todo = p.todo.drop 1 ∧ x.ended = p.ended + 1) ∧ Only [.mem, .cor] s u)) ∧
  (∀ (c k : Nat) (r : HartRun) (l : Launch) (p : LPart) (s : State), hartAt s c = some (k, l, p) → hartFree s c k = true →
    runWaits s c k r = false → runFault s c (slotTen s c k) r = none →
    launchRec s l.tag = some l → l.parts.find? (fun p => decide (p.core = c)) = some p → p.todo = [] →
    (∃ q ∈ (slotRec s c p.slot).queue, q.launch = l.tag) →
    Completes (.plotEnd c r) s (fun u =>
      (slotRec u c k).hart = .off ∧
      (∃ m, launchRec u l.tag = some m ∧ ∃ x, m.parts.find? (fun p => decide (p.core = c)) = some x ∧ x.plot = none ∧ x.ended = p.ended + 1) ∧
      Only [.mem, .cor] s u)) ∧
  (∀ (c k : Nat) (r : HartRun) (l : Launch) (p : LPart) (d : Live) (s : State), hartAt s c = some (k, l, p) → hartFree s c k = true →
    runWaits s c k r = false → runFault s c (slotTen s c k) r = none →
    launchRec s l.tag = some l → l.parts = [p] → p.core = c → p.started = true → p.done = false → p.todo = [] →
    (∀ q ∈ (slotRec s c p.slot).queue, q.launch ≠ l.tag) →
    liveRec s l.tag = some d → s.hif.up = true → s.hif.resumePending = false → (∀ r ∈ (tstep s (liveTen d)).steps, r.sealTag = none) →
    Completes (.plotEnd c r) s (fun u =>
      launchRec u l.tag = none ∧ Ended u l.tag d.step 0 0 (l.flags % 256 + min l.tiles (2 ^ 32 - 1) * 2 ^ 32))) ∧
  (∀ (cmd : Instr) (code st detail c k v : Nat) (r : HartRun) (l : Launch) (p : LPart) (d : Live) (s : State),
    (cmd, code, st, detail) ∈ [(Instr.plotAbort c r v, 0x11, 0x0302, v % 65536), (.hartException c r v, 0x10, 0x0301, v % 65536)] →
    hartAt s c = some (k, l, p) → hartFree s c k = true → runWaits s c k r = false → runFault s c (slotTen s c k) r = none →
    launchRec s l.tag = some l → liveRec s l.tag = some d →
    s.hif.up = true → s.hif.resumePending = false → (∀ r ∈ (tstep s (liveTen d)).steps, r.sealTag = none) →
    Completes cmd s (fun u =>
      launchRec u l.tag = none ∧ (coreRec u c).fltInfo = code * 2 ^ 24 + l.tenant ∧ (coreRec u c).fltPlot = p.plot.getD 0 % 2 ^ 32 ∧
      (coreRec u c).fltCount = satAdd 32 (coreRec s c).fltCount 1 ∧
      Ended u l.tag d.step st detail (p.plot.getD 0 % 2 ^ 32 + c * 2 ^ 40))) ∧
  (∀ (cmd : Instr) (c k v e : Nat) (r : HartRun) (l : Launch) (p : LPart) (d : Live) (s : State),
    cmd ∈ [Instr.plotEnd c r, .plotAbort c r v, .hartException c r v, .corTiPush c r v, .corTiCnt c r 0 v, .corTiPool c r 0 v,
      .corTiWait c r ⟨0, v⟩, .corTiPwait c r ⟨0, v⟩] →
    hartAt s c = some (k, l, p) → hartFree s c k = true → runWaits s c k r = false → runFault s c (slotTen s c k) r = some e →
    launchRec s l.tag = some l → liveRec s l.tag = some d →
    s.hif.up = true → s.hif.resumePending = false → (∀ r ∈ (tstep s (liveTen d)).steps, r.sealTag = none) →
    Completes cmd s (fun u =>
      launchRec u l.tag = none ∧ (coreRec u c).fltInfo = 0x10 * 2 ^ 24 + l.tenant ∧
      Ended u l.tag d.step 0x0301 e (p.plot.getD 0 % 2 ^ 32 + c * 2 ^ 40))) ∧
  (∀ (tag : Nat) (l : Launch) (p : LPart) (rest : List LPart) (d : Live) (s : State), launchRec s tag = some l → l.parts = p :: rest →
    l.at_.isSome = true → nclkOn s = true → liveRec s tag = some d → s.hif.up = true → s.hif.resumePending = false →
    (∀ r ∈ (tstep s (liveTen d)).steps, r.sealTag = none) →
    Completes (.launchTimeout tag) s (fun u =>
      launchRec u tag = none ∧ (coreRec u p.core).fltInfo = 0x12 * 2 ^ 24 + l.tenant ∧
      Ended u tag d.step 0x0303 0 ((l.parts.map LPart.ended).sum % 2 ^ 32))) ∧
  (∀ (c : Nat) (s : State), (coreRec s c).st = .running ∨ (coreRec s c).st = .idle → nclkOn s = true →
    Completes (.quantumExpiry c) s (fun u =>
      (nextRunnable s c = none → u = s) ∧
      (∀ k, nextRunnable s c = some k → (coreRec u c).next = k ∧ (coreRec u c).slot = (coreRec s c).slot ∧
        (coreRec u c).st = (if (slotRec s c (coreRec s c).slot).queue.any QTile.fired then .preempting else .swapping) ∧
        (∀ j, (slotRec u c j).queue = (slotRec s c j).queue ∧ (slotRec u c j).hart = (slotRec s c j).hart ∧
          (slotRec u c j).cnts = (slotRec s c j).cnts ∧ (slotRec u c j).pools = (slotRec s c j).pools) ∧
        (∀ d, d ≠ c → coreRec u d = coreRec s d)) ∧ Only [.cor] s u)) ∧
  (∀ (c : Nat) (s : State), (coreRec s c).st = .preempting → nclkOn s = true →
    Completes (.preemptLimit c) s (fun u =>
      (coreRec u c).st = .swapping ∧ (coreRec u c).next = (coreRec s c).next ∧
      (slotRec u c (coreRec s c).slot).queue = (slotRec s c (coreRec s c).slot).queue.map (fun q =>
        if q.fired then { q with fired := false, refire := true, wrote := false } else q) ∧
      (coreRec u c).discards = satAdd 32 (coreRec s c).discards ((slotRec s c (coreRec s c).slot).queue.filter (fun q => q.fired)).length ∧
      200 ≤ Map.get 0 u.cor.preemptMax c ∧ (∀ d, d ≠ c → coreRec u d = coreRec s d) ∧
      Only [.out, .hif, .pln, .cor, .stp, .book] s u)) ∧
  (∀ (c old new : Nat) (s : State), (coreRec s c).st = .swapping → nclkOn s = true → s.err.fence = false → old = (coreRec s c).slot →
    new = (coreRec s c).next → old ≠ new → (coreRec s c).empty = false → slotValid s c old = true → slotImg s c old ≠ slotImg s c new →
    (hndRec s (slotImg s c old)).map Hnd.tenant = some (slotTen s c old) → c < 128 →
    Map.get [] s.dbg.samples c = [] → memWf s.mem = true →
    Completes (.swapDone c) s (fun u =>
      (coreRec u c).slot = new ∧ (coreRec u c).st = (if slotBusy s c new then .running else .idle) ∧
      (slotRec u c old).image = !(slotRec s c old).dead ∧
      memRead u.mem (hKey (slotImg s c old) 0) 0x410A00 = memRead s.mem (imgKey c 0) 0x410A00 ∧
      memRead u.mem (hKey (slotImg s c old) 0x410A00) 1536
        = savedArea (Config.coreCycles c 64 s.tim.s s.tim.ns).toNat (slotRec s c old) ∧
      ((slotRec s c new).image = true →
        memRead u.mem (imgKey c 0) imgBytes = memRead s.mem (hKey (slotImg s c new) 0) imgBytes) ∧
      ((slotRec s c new).image = false → ∀ i, i < imgBytes → memGet u.mem (imgKey c i) = 0) ∧
      (∀ i, i < 0x2000 → memGet u.mem (bankKey c + i) = 0) ∧
      (∀ d, d ≠ c → coreRec u d = coreRec s d) ∧ Only [.mem, .pln, .cor, .dbg] s u)) ∧
  (∀ (c : Nat) (s : State), (coreRec s c).st = .swapping → nclkOn s = true → s.err.fence = false → (coreRec s c).empty = true →
    Map.get [] s.dbg.samples c = [] →
    Completes (.swapDone c) s (fun u =>
      (coreRec u c).slot = (coreRec s c).next ∧ (coreRec u c).empty = false ∧
      (coreRec u c).st = (if slotBusy s c (coreRec s c).next then .running else .idle) ∧
      (∀ a, a < 2 ^ 66 → memGet u.mem a = memGet s.mem a) ∧
      (∀ d, d ≠ c → coreRec u d = coreRec s d) ∧ Only [.mem, .pln, .cor, .dbg] s u)) ∧
  (∀ (die seg : Nat) (s : State), exec (.segmentZeroizeDone die seg) s =
    .next { s with cor := { s.cor with terZero := s.cor.terZero.filter (fun x => decide (x ≠ die * 64 + seg)) } })

/-- Derived from R456, R461 and R462 of 12: a FAULT_REPORT of a unit counts the error, sets the ERR registers, sends the FAULT
message up and makes unclean every step of the tenants it reaches not yet handed over; of class 3 it raises the fence, asks for
a reset and ends every launch. Forms it says complete: faultReport. -/
def Obligations.FaultReportPath : Prop :=
  ∀ (src unit core t h off : Nat) (s : State), nclkOn s = true → 1 ≤ src → src ≤ 9 → errUnit s unit = true →
    Completes (.faultReport src unit core t h off) s (fun u =>
      u.err.lastInfo = faultClass src * 2 ^ 29 + src * 2 ^ 16 + unit % 256 * 256 + core % 256 ∧ u.err.lastTime = s.tim.s % 2 ^ 32 ∧
      Map.get 0 u.err.ue unit = satAdd 32 (Map.get 0 s.err.ue unit) 1 ∧ (∀ q, q ≠ unit → Map.get 0 u.err.ue q = Map.get 0 s.err.ue q) ∧
      (∃ ts, u.cel.up = s.cel.up ++ [.fault src (faultClass src) unit core ts false] ∧
        ∀ t ∈ ts, ∀ r ∈ (tstep u t).steps, r.handed = true ∨ r.unclean = true) ∧
      (3 ≤ faultClass src → u.err.fence = true ∧ u.cor.launches = [] ∧
        u.err.resetPend = (if s.err.resetOn.isSome then s.err.resetPend else some (s.err.resetPend.getD src))) ∧
      (faultClass src < 3 → u.err.fence = s.err.fence ∧ u.err.resetPend = s.err.resetPend ∧ u.cor.launches = s.cor.launches) ∧
      ((∀ e ∈ s.pln.hnds, e.2.gone = false) → ∀ p x, pageRec s h p = some x → pageRec u h p = some (
        if (src = 0x01 ∨ src = 0x02 ∨ src = 0x08) ∧ p = pageIdx off then { x with poison := addOnce (blockIdx off) x.poison } else x)))

/-- Derived from R456, R457, R461 to R464 of 12: the owner acts once on the oldest fault message and stages the reset line of
class 3 or 4; the release of the reset lowers the fence; corrected and scrubbed errors are counted, a scrubbed block is
poisoned; ERR_CLR clears the counts; a scrub pass restarts its tier's age. The model's choices it rests on: what leaves the
module stands in the model's own list `out` (log 53). Forms it says complete: errClr, faultMessage, complexResetRelease,
correctedError, scrubUe, scrubPassDone. -/
def Obligations.ErrorsAreCounted : Prop :=
  (∀ (src cls un c i : Nat) (ts : List Nat) (s : State), s.dbg.frost = 0 → s.cel.own ≠ 2 → s.cel.frozen = false →
    s.cel.up.findIdx? freshFault = some i → s.cel.up[i]? = some (.fault src cls un c ts false) →
    Completes .faultMessage s (fun u =>
      u.cel.up[i]? = some (.fault src cls un c ts true) ∧ (∀ j, j < i → u.cel.up[j]? = s.cel.up[j]?) ∧
      (3 ≤ cls → s.err.resetOn = none → s.err.resetPend.isSome = true → .resetLine ∈ u.cel.staged))) ∧
  (∀ s : State, s.dbg.frost = 0 → s.cel.own ≠ 2 → s.cel.up.find? freshFault = none → exec .faultMessage s = .next s) ∧
  (∀ (src : Nat) (s : State), s.dbg.frost = 0 → s.cel.own ≠ 2 → s.cel.own = s.err.resetDie → s.err.resetOn = some src →
    Completes .complexResetRelease s (fun u => u.err = { s.err with fence := false, resetOn := none, reached := [] })) ∧
  (∀ (n : Nat) (s : State), nclkOn s = true → errUnit s n = true →
    Completes (.correctedError n) s (fun u =>
      Map.get 0 u.err.ce n = satAdd 32 (Map.get 0 s.err.ce n) 1 ∧ (∀ q, q ≠ n → Map.get 0 u.err.ce q = Map.get 0 s.err.ce q) ∧
      u.err.ue = s.err.ue ∧ Only [.err, .book] s u)) ∧
  (∀ (acc : Acc) (s : State), blockOpen s acc 12 = true →
    exec (.errClr acc) s = .next { s with err := { s.err with ce := [], ue := [] } }) ∧
  (∀ (h p b : Nat) (x : Page) (y : Hnd) (s : State), nclkOn s = true → pageRec s h p = some x → hndRec s h = some y → scrubOn s = true →
    x.tier ≠ 2 → b < 512 →
    Completes (.scrubUe h p b) s (fun u =>
      pageRec u h p = some { x with poison := addOnce b x.poison } ∧
      Map.get 0 u.err.ue (pageUnit x) = satAdd 32 (Map.get 0 s.err.ue (pageUnit x)) 1 ∧ u.pln.hnds = s.pln.hnds ∧
      Only [.pln, .err, .out, .hif, .book] s u)) ∧
  (∀ (tier : Nat) (s : State), nclkOn s = true → scrubOn s = true →
    exec (.scrubPassDone tier) s = .next { s with err := { s.err with
      scrub0 := if tier = 0 then nowT s else s.err.scrub0, scrub1 := if tier = 1 then nowT s else s.err.scrub1 } })

/-- Derived from R473 to R475 and R497 of 12 and 13: a stress pass that has heated tests; at its end it reports the cores that
failed, and fences those that failed at their operating point too; a margin sweep ends with its failing voltages. Further,
derived from R136 to R141, R18 and R39 of 03, 01 and 20: a temperature sample sets a stack's level; at 105 °C the stack trips
and the fault path runs; a lost stack or die link stops its stacks, retires the module and runs the fault path; a lost
reference clock is a module fault, and its holdover's end stops the domains it feeds. The model's choices it rests on: the
units the faults of a lost die link and a lost reference clock name (log 149). Forms it says complete: stackTempSample,
stackLost, ucieLaneLost, refclkLost, refclkHoldoverEnd, stressHeatDone, stressPassDone, marginSweepDone. -/
def Obligations.StressAndStacks : Prop :=
  (∀ (d : Nat) (s : State), nclkOn s = true → (stressRec s d).running = true →
    Completes (.stressHeatDone d) s (fun u => stressRec u d = { stressRec s d with testing := true } ∧
      (∀ q, q ≠ d → stressRec u q = stressRec s q) ∧ Only [.err] s u)) ∧
  (∀ (d corner again : Nat) (s : State), nclkOn s = true → (stressRec s d).running = true → (stressRec s d).testing = true →
    Completes (.stressPassDone d corner again) s (fun u =>
      (stressRec u d).running = false ∧ (stressRec u d).testing = false ∧
      (stressRec u d).result = (if corner % 2 ^ 32 = 0 then 1 else 2) ∧ (stressRec u d).failmap = corner % 2 ^ 32 ∧
      (stressRec u d).doneAt = some (nowT s) ∧
      (∀ i, i < 32 → bitOf corner i = true → bitOf again i = true →
        (32 * d + i) ∈ u.boot.fences ∧ (coreRec u (32 * d + i)).st = .fenced) ∧
      (∀ c, c ∈ u.boot.fences → c ∈ s.boot.fences ∨ ∃ i, i < 32 ∧ c = 32 * d + i ∧ bitOf corner i = true ∧ bitOf again i = true) ∧
      (∀ q, q ≠ d → stressRec u q = stressRec s q))) ∧
  (∀ (d : Nat) (v : List Nat) (s : State), nclkOn s = true → (dieP s d).sweeping = true → v.length ≤ 25 →
    Completes (.marginSweepDone d v) s (fun u =>
      (dieP u d).sweeping = false ∧ (∀ i x, v[i]? = some x → Map.find (dieP u d).vfail i = some x) ∧
      (∀ q, q ≠ d → dieP u q = dieP s q) ∧ Only [.pwr, .mem] s u)) ∧
  (∀ (k temp : Nat) (s : State), (stkRec s k).st ≠ 0 → nclkOn s = true → temp < 105 →
    Completes (.stackTempSample k temp) s (fun u =>
      (stkRec u k).temp = temp ∧
      (stkRec u k).st = (if (stkRec s k).st = 3 ∧ (stkRec s k).resetSince = true ∧ s.err.resetOn = none ∧
        temp + 10 ≤ fldW (cset s .memTherm 0 0) 6 0 then 1 else (stkRec s k).st) ∧
      (stkRec u k).level = nextLevel (throttlePoints (modPln (fun p => { p with therm := cset s .memTherm 0 0 }) s)) (stkRec s k).level temp ∧
      (∀ q, q ≠ k → stkRec u q = stkRec s q) ∧ Only [.pln] s u)) ∧
  (∀ (k temp : Nat) (s : State), (stkRec s k).st = 1 → nclkOn s = true → 105 ≤ temp →
    Completes (.stackTempSample k temp) s (fun u =>
      (stkRec u k).st = 3 ∧ (stkRec u k).tripCnt = satAdd 32 (stkRec s k).tripCnt 1 ∧ u.err.fence = true ∧
      (∃ ts, u.cel.up = s.cel.up ++ [.fault 0x0A 3 k 0xFF ts false]) ∧ (∀ q, q ≠ k → stkRec u q = stkRec s q))) ∧
  (∀ (k : Nat) (s : State), k < numStacks s →
    Completes (.stackLost k) s (fun u =>
      (stkRec u k).st = 2 ∧ bitW u.pln.retire 31 = true ∧ u.err.fence = true ∧
      (∃ ts, u.cel.up = s.cel.up ++ [.fault 0x11 4 k 0xFF ts false]) ∧ (∀ q, q ≠ k → stkRec u q = stkRec s q))) ∧
  (∀ (d : Nat) (s : State), d < numDies s →
    Completes (.ucieLaneLost d) s (fun u =>
      (stkRec u (2 * d)).st = 2 ∧ (stkRec u (2 * d + 1)).st = 2 ∧ bitW u.pln.retire 31 = true ∧ u.err.fence = true ∧
      (∃ ts, u.cel.up = s.cel.up ++ [.fault 0x11 4 (2 * d) 0xFF ts false]))) ∧
  (∀ s : State, s.cor.refLost = false →
    Completes .refclkLost s (fun u =>
      u.cor.refLost = true ∧ u.err.fence = true ∧ ∃ ts, u.cel.up = s.cel.up ++ [.fault 0x0C 3 0x13 0xFF ts false])) ∧
  (∀ s : State, s.cor.refLost = true →
    exec .refclkHoldoverEnd s = .next { s with cor := { s.cor with domStopped := true } })

/-- Derived from R118, R127, R128 and R131 of 03: at each decay every page's counts halve; a move that ends puts its page in
its new place with its bytes unchanged, one with more than 1,024 lines written is abandoned, and so is one whose end would pass
the tenant's T0 cap (the model's choice, log 150); a back-off ends; a press line that times out leaves the buffer. Forms it
says complete: planterDecay, migrationCopyDone, migrationBackoffEnd, promotionDone, pressLineTimeout. -/
def Obligations.PlanterMoves : Prop :=
  (∀ s : State, nclkOn s = true →
    Completes .planterDecay s (fun u =>
      (∀ k x, Map.find s.pln.pages k = some x →
        Map.find u.pln.pages k = some { x with c0 := x.c0 / 2, c1 := x.c1 / 2, c2 := x.c2 / 2, c3 := x.c3 / 2 }) ∧
      u.pln.hnds = s.pln.hnds ∧ Only [.pln] s u)) ∧
  (∀ (h p key : Nat) (m : Move) (x : Page) (s : State), key = pageKey h p → moveOf s key = some m → m.promo = false → moveRuns s m = true → nclkOn s = true →
    Map.find s.pln.pages key = some x → x.mark = false → s.pln.waits = [] →
    Completes (.migrationCopyDone h p) s (fun u =>
      (m.lines.length ≤ 1024 → overCap s m = false →
        Map.find u.pln.pages key = some { x with tier := m.tier, stack := m.stack } ∧ u.pln.migDone = satAdd 32 s.pln.migDone 1) ∧
      (m.lines.length ≤ 1024 → overCap s m = true →
        Map.find u.pln.pages key = some x ∧ u.pln.migAbandon = satAdd 32 s.pln.migAbandon 1 ∧ u.pln.migDone = s.pln.migDone) ∧
      (1024 < m.lines.length →
        Map.find u.pln.pages key = some { x with
          abandons := if 2 ≤ x.abandons then 0 else x.abandons + 1, banned := decide (2 ≤ x.abandons) || x.banned } ∧
        u.pln.migAbandon = satAdd 32 s.pln.migAbandon 1 ∧ u.pln.migDone = s.pln.migDone) ∧
      moveOf u key = none ∧ (∀ k, k ≠ key → Map.find u.pln.pages k = Map.find s.pln.pages k) ∧ Only [.out, .hif, .pln, .rck, .book] s u)) ∧
  (∀ (key : Nat) (x : Page) (s : State), Map.find s.pln.pages key = some x →
    Completes (.migrationBackoffEnd key) s (fun u =>
      Map.find u.pln.pages key = some { x with banned := false } ∧
      (∀ k, k ≠ key → Map.find u.pln.pages k = Map.find s.pln.pages k) ∧ Only [.pln] s u)) ∧
  (∀ (h p key : Nat) (m : Move) (x : Page) (s : State), key = pageKey h p → moveOf s key = some m → m.promo = true → moveRuns s m = true → nclkOn s = true →
    Map.find s.pln.pages key = some x → s.pln.waits = [] → overCap s m = false →
    Completes (.promotionDone key) s (fun u =>
      Map.find u.pln.pages key = some { x with tier := m.tier, stack := m.stack } ∧ moveOf u key = none ∧
      (∀ k, k ≠ key → Map.find u.pln.pages k = Map.find s.pln.pages k) ∧ Only [.out, .hif, .pln, .rck, .book] s u)) ∧
  (∀ (k h line : Nat) (s : State), (∃ l ∈ s.pln.press, l.stack = k ∧ l.hnd = h ∧ l.line = line) → nclkOn s = true → s.err.fence = false →
    poisonedIn s h (line * 64) 64 = [] →
    Completes (.pressLineTimeout k h line) s (fun u =>
      u.pln = { s.pln with press := s.pln.press.filter (fun l => decide (l.stack ≠ k) || decide (l.hnd ≠ h) || decide (l.line ≠ line)) } ∧
      Only [.pln] s u))

/-- Derived from R312 to R318 of 08: a collective that a check of R316 stops ends with its status; one that no check stops,
whose source is readable now, is in progress with its source's bytes, attached to its step; a barrier of one member ends OK at
once. The model's choices it rests on: what leaves the module stands in the model's own list `out` (log 53). Forms it says
complete: allreduce, reduceScatter, allgather, broadcast, barrier. -/
def Obligations.CollectivesStart : Prop :=
  (∀ (c : Instr) (op tag : Nat) (f : Nat × Nat) (l : Live) (st : Option Nat) (s : State),
    (c, op) ∈ [(Instr.allreduce tag, 0x40), (.reduceScatter tag, 0x41), (.allgather tag, 0x42), (.broadcast tag, 0x43), (.barrier tag, 0x44)] →
    Starts s tag op l st → collFull s (liveTen l) = false → collFault s (liveTen l) op l.desc = some f →
    Completes c s (fun u => Ended u tag st f.1 f.2 0 ∧ Only [.hif, .out, .mem, .pln, .rck] s u)) ∧
  (∀ (c : Instr) (op tag b n : Nat) (l : Live) (st : Option Nat) (s : State),
    (c, op) ∈ [(Instr.allreduce tag, 0x40), (.reduceScatter tag, 0x41), (.allgather tag, 0x42), (.broadcast tag, 0x43)] →
    Starts s tag op l st → collFull s (liveTen l) = false → collFault s (liveTen l) op l.desc = none → bindOf s (liveTen l) = some b →
    n = (if op = 0x43 ∧ cRoot l.desc ≠ tenCoord s (liveTen l) then 0 else cCount l.desc * kindBytes (cIn l.desc)) →
    touchesT2 s (cSrc l.desc) (cSrcOff l.desc) n = false → rangeHeld s (cSrc l.desc) (cSrcOff l.desc) n = false →
    poisonedIn s (cSrc l.desc) (cSrcOff l.desc) n = [] → collAt s tag = none → s.col.parked = [] →
    Completes c s (fun u =>
      (∃ x, collAt u tag = some x ∧ x.bind = b ∧ x.opcode = op ∧ x.id = cId l.desc ∧ x.desc = l.desc ∧ x.step = st ∧ x.at_ = nowT s ∧
        x.digest = cDigest op l.desc ∧ x.began = true ∧ x.own = hRead s (cSrc l.desc) (cSrcOff l.desc) n ∧ x.contribs = [] ∧ x.partials = []) ∧
      u.col.parked = [])) ∧
  (∀ (tag b : Nat) (l : Live) (st : Option Nat) (s : State), Starts s tag 0x44 l st → collFull s (liveTen l) = false →
    collFault s (liveTen l) 0x44 l.desc = none → bindOf s (liveTen l) = some b → cMembers s b = [bindCoord s b] →
    collAt s tag = none → s.col.parked = [] →
    Completes (.barrier tag) s (fun u =>
      Ended u tag st 0 0 0 ∧ collAt u tag = none ∧ u.col.colls = s.col.colls.filter (fun x => decide (x.tag ≠ tag)) ∧
      Only [.hif, .out, .mem, .pln, .rck, .col] s u)) ∧
  (∀ (tag b z : Nat) (l : Live) (st : Option Nat) (s : State), Starts s tag 0x44 l st → collFull s (liveTen l) = false →
    collFault s (liveTen l) 0x44 l.desc = none → bindOf s (liveTen l) = some b → (cMembers s b).head? = some z → z ≠ bindCoord s b →
    collAt s tag = none → s.col.parked = [] →
    Completes (.barrier tag) s (fun u =>
      (∃ x, collAt u tag = some x ∧ x.bind = b ∧ x.opcode = 0x44 ∧ x.id = cId l.desc ∧ x.step = st ∧ x.enters = []) ∧ u.mem = s.mem))

/-- Derived from R317, R324, R328 and R331 of 08: a collective message whose collective has not started here is parked; a
contribution, partial, result or gathered range joins its collective; the root of a barrier ends it once every member has
entered, any other member at the release; one whose digest differs ends its collective with COLL_MISMATCH and runs the fault
path. The model's choices it rests on: messages that the links deliver wait in the model's inbox (log 99). Forms it says
complete: contribution, globalPartial, globalResult, gatherData, barrierEnter, barrierRelease. -/
def Obligations.CollectiveMessages : Prop :=
  (∀ (cmd : Instr) (i k b : Nat) (m : List Byte) (s : State),
    (cmd, k) ∈ [(Instr.contribution i, 1), (.globalPartial i, 2), (.globalResult i, 3), (.gatherData i, 4), (.barrierEnter i, 5), (.barrierRelease i, 6)] →
    collInbox s i k = some (b, m) → s.col.colls.find? (fun x => decide (x.bind = b) && decide (x.id = fieldAt m 4 4)) = none → s.col.parked = [] →
    (fieldAt m 8 6 = 0 ∨ fieldAt m 8 6 ∉ (tstep s (bindTen s b)).dead) →
    Completes cmd s (fun u =>
      u.col.parked = [(b, m)] ∧ u.col.parks = satAdd 32 s.col.parks 1 ∧ u.vnl.inbox = s.vnl.inbox.eraseIdx i ∧ Only [.col, .vnl] s u)) ∧
  (∀ (cmd : Instr) (i k b : Nat) (m : List Byte) (x : Coll) (s : State),
    (cmd, k) ∈ [(Instr.contribution i, 1), (.globalPartial i, 2), (.globalResult i, 3), (.gatherData i, 4)] →
    collInbox s i k = some (b, m) → (fieldAt m 8 6 = 0 ∨ fieldAt m 8 6 ∉ (tstep s (bindTen s b)).dead) →
    s.col.colls.find? (fun x => decide (x.bind = b) && decide (x.id = fieldAt m 4 4)) = some x → collAt s x.tag = some x →
    fieldAt m 28 4 = x.digest → x.began = true → (k < 3 → inWindow s x m = true) → s.col.parked = [] →
    Completes cmd s (fun u => ∃ y, collAt u x.tag = some y ∧ y.bind = x.bind ∧ y.opcode = x.opcode ∧ y.id = x.id ∧ y.own = x.own ∧
      y.contribs = (if k = 1 then x.contribs ++ [(fieldAt m 2 2, fieldAt m 16 6, msgElems x m)] else x.contribs) ∧
      y.partials = (if k = 2 then x.partials ++ [(fieldAt m 2 2, fieldAt m 16 6, msgElems x m)] else x.partials) ∧
      y.globals = (if k = 3 ∧ x.opcode ≠ 0x40 then x.globals ++ [(fieldAt m 16 6, msgElems x m)] else x.globals) ∧
      (k = 4 ∨ k = 3 ∧ x.opcode = 0x40 → y.results.take (x.results.length + 1) = x.results ++ [(fieldAt m 16 6, msgElems x m)]) ∧
      y.results.take x.results.length = x.results)) ∧
  (∀ (i b : Nat) (m : List Byte) (x : Coll) (s : State), collInbox s i 5 = some (b, m) →
    (fieldAt m 8 6 = 0 ∨ fieldAt m 8 6 ∉ (tstep s (bindTen s b)).dead) →
    s.col.colls.find? (fun x => decide (x.bind = b) && decide (x.id = fieldAt m 4 4)) = some x → collAt s x.tag = some x →
    fieldAt m 28 4 = x.digest → x.began = true → s.col.parked = [] → (cMembers s b).all (fun z => memb z (addOnce (fieldAt m 2 2) x.enters)) = false →
    Completes (.barrierEnter i) s (fun u =>
      collAt u x.tag = some { x with enters := addOnce (fieldAt m 2 2) x.enters } ∧ Only [.col, .vnl] s u)) ∧
  (∀ (cmd : Instr) (i k b : Nat) (m : List Byte) (x : Coll) (l : Live) (s : State),
    (cmd, k) ∈ [(Instr.barrierEnter i, 5), (.barrierRelease i, 6)] → collInbox s i k = some (b, m) →
    (fieldAt m 8 6 = 0 ∨ fieldAt m 8 6 ∉ (tstep s (bindTen s b)).dead) →
    s.col.colls.find? (fun x => decide (x.bind = b) && decide (x.id = fieldAt m 4 4)) = some x → collAt s x.tag = some x →
    fieldAt m 28 4 = x.digest → x.began = true → s.col.parked = [] →
    (k = 5 → (cMembers s b).head? = some (bindCoord s b) ∧ ∀ z ∈ cMembers s b, z = fieldAt m 2 2 ∨ z ∈ x.enters) →
    liveRec s x.tag = some l → s.hif.up = true → s.hif.resumePending = false → (∀ r ∈ (tstep s (liveTen l)).steps, r.sealTag = none) →
    Completes cmd s (fun u => Ended u x.tag l.step 0 0 0 ∧ collAt u x.tag = none)) ∧
  (∀ (cmd : Instr) (i k b : Nat) (m : List Byte) (x : Coll) (l : Live) (s : State),
    (cmd, k) ∈ [(Instr.contribution i, 1), (.globalPartial i, 2), (.globalResult i, 3), (.gatherData i, 4), (.barrierEnter i, 5), (.barrierRelease i, 6)] →
    collInbox s i k = some (b, m) → (fieldAt m 8 6 = 0 ∨ fieldAt m 8 6 ∉ (tstep s (bindTen s b)).dead) →
    s.col.colls.find? (fun x => decide (x.bind = b) && decide (x.id = fieldAt m 4 4)) = some x → fieldAt m 28 4 ≠ x.digest →
    s.col.parked = [] → liveRec s x.tag = some l → s.hif.up = true → s.hif.resumePending = false →
    (∀ r ∈ (tstep s (liveTen l)).steps, r.sealTag = none) →
    Completes cmd s (fun u =>
      Ended u x.tag l.step 0x0403 (fieldAt m 2 2) 0 ∧ collAt u x.tag = none ∧
      u.cel.up = s.cel.up ++ [.fault 0x0D 2 0x13 0xFF [bindTen s b] false]))

/-- Derived from R320 and R329 of 08: a collective whose results have all arrived and been written ends OK with its flags and
the number of elements rounded here; one that reaches its limit before ends with COLL_TIMEOUT and the fault path runs for its
tenant. The model's choices it rests on: what leaves the module stands in the model's own list `out` (log 53). Forms it says
complete: collectiveDone, collTimeout. -/
def Obligations.Collectives : Prop :=
  (∀ (tag : Nat) (x : Coll) (l : Live) (s : State), collAt s tag = some x → x.began = true → x.bad = false → collHas s x = true →
    writesWait s tag = false → nclkOn s = true →
    liveRec s tag = some l → s.hif.up = true → s.hif.resumePending = false → (∀ r ∈ (tstep s (liveTen l)).steps, r.sealTag = none) →
    Completes (.collectiveDone tag) s (fun u =>
      Ended u tag l.step 0 0 (x.flags % 256 + x.rounded % 2 ^ 32 * 2 ^ 32) ∧ collAt u tag = none ∧
      Only [.hif, .out, .mem, .pln, .rck, .col] s u)) ∧
  (∀ (tag : Nat) (x : Coll) (l : Live) (s : State), collAt s tag = some x →
    (x.began = false ∨ x.bad = true ∨ collHas s x = false ∨ writesWait s tag = true) → nclkOn s = true →
    liveRec s tag = some l → s.hif.up = true → s.hif.resumePending = false → (∀ r ∈ (tstep s (liveTen l)).steps, r.sealTag = none) →
    Completes (.collTimeout tag) s (fun u =>
      Ended u tag l.step 0x0404 0 0 ∧ collAt u tag = none ∧
      u.cel.up = s.cel.up ++ [.fault 0x0D 2 0x13 0xFF [bindTen s x.bind] false] ∧
      (∀ r ∈ (tstep u (bindTen s x.bind)).steps, r.handed = true ∨ r.unclean = true)))

/-- Derived from R213 and R219 of 05: the sum of Barrels is the same whatever the order of the addends, whichever of them are
infinities, NaNs or range marks. -/
def Obligations.BarrelSumAnyOrder : Prop :=
  ∀ (f : BrlFmt) (l k : List Barrel), l.Perm k → f.sum l = f.sum k

/-- Derived from R384, R385, R387 and R391 of 10: a RACK_TAKE attached to a step is held OK until the step is drawn; an
unattached one whose checks pass fills a free slot as of the last drawn step and takes the job, asking its buddy first when it
is to be grafted; a rackable handle without a key ends it with RACK_NO_KEY, and one to be grafted where no buddy stands, not to
be narrowed, ends with RACK_NO_SPACE. The model's choices it rests on: what leaves the module stands in the model's own list
`out` (log 53). Forms it says complete: rackTake. -/
def Obligations.RacksAreTaken : Prop :=
  (∀ (tag : Nat) (l : Live) (st : Option Nat) (s : State), Starts s tag 0x60 l st → fieldAt l.desc 20 8 % 4096 ≠ 0 →
    Completes (.rackTake tag) s (fun u => Ended u tag st 0x12 20 0 ∧ Only [.hif, .out, .mem, .pln, .rck] s u)) ∧
  (∀ (tag n : Nat) (l : Live) (s : State), Starts s tag 0x60 l (some n) → fieldAt l.desc 20 8 % 4096 = 0 →
    Completes (.rackTake tag) s (fun u => Ended u tag (some n) 0 0 0 ∧ u.rck.job = s.rck.job ∧ Only [.hif, .out, .mem, .pln, .rck] s u)) ∧
  (∀ (tag : Nat) (l : Live) (s : State), Starts s tag 0x60 l none → fieldAt l.desc 20 8 % 4096 = 0 → (tstep s (liveTen l)).restoring = true →
    Completes (.rackTake tag) s (fun u => liveRec u tag = some { l with stage := .spaceWait, step := none } ∧ Only [.hif] s u)) ∧
  (∀ (tag n k size : Nat) (hs : List (Nat × Hnd)) (l : Live) (s : State), Starts s tag 0x60 l none → fieldAt l.desc 20 8 % 4096 = 0 →
    (tstep s (liveTen l)).restoring = false → n = ((tstep s (liveTen l)).drawn).getD 0xFFFFFFFFFFFF → hs = rackables s (liveTen l) n →
    (∀ e ∈ hs, (keyAt e.2 n).1 ≠ 0) → (bitOf (fieldAt l.desc 16 1) 0 = true → (buddySlot s (liveTen l)).isSome = true) →
    (∀ e ∈ hs, groupOut e.2 (keyAt e.2 n).2 (tenCoord s (liveTen l))
      (((bindOf s (liveTen l)).map (fun b => (bindRec s b).members.length)).getD 0) = false) →
    s.rck.job = none → (slotAt s 0).st ≠ 1 → (slotAt s 1).st ≠ 1 → pickSlot s (liveTen l) = some k → wearSpent s = false →
    size = totalBytes hs [] → size ≤ rsvReg s 1 * gib → 2 * size ≤ rsvReg s 4 * gib →
    Completes (.rackTake tag) s (fun u =>
      (slotAt u k).st = 1 ∧ (slotAt u k).tenant = liveTen l ∧ (slotAt u k).step = n ∧ (slotAt u k).parcel = tenParcel s (liveTen l) ∧
      slotAt u (1 - k) = slotAt s (1 - k) ∧
      (bitOf (fieldAt l.desc 16 1) 0 = false →
        u.rck.job = some {
          tag := tag, tenant := liveTen l, step := n, slot := k, size := size, graft := false,
          narrowOk := bitOf (fieldAt l.desc 16 1) 1, hs := hs } ∧
        Only [.hif, .rck] s u) ∧
      (∀ b q, bitOf (fieldAt l.desc 16 1) 0 = true → buddySlot s (liveTen l) = some (b, q) →
        u.rck.job = some {
          tag := tag, tenant := liveTen l, step := n, slot := k, size := 0, graft := true,
          narrowOk := bitOf (fieldAt l.desc 16 1) 1, hs := hs, asking := true } ∧
        Out.vine b q 2 (buddyCoord s b q) (graftHead s 0x20 0 (liveTen l) n 0 0 0 0 0) ∈ u.out ∧ Only [.hif, .rck, .out, .vnl] s u))) ∧
  (∀ (tag n k size : Nat) (hs : List (Nat × Hnd)) (l : Live) (s : State), Starts s tag 0x60 l none → tag < 2 ^ 20 →
    fieldAt l.desc 20 8 % 4096 = 0 →
    (tstep s (liveTen l)).restoring = false → n = ((tstep s (liveTen l)).drawn).getD 0xFFFFFFFFFFFF → hs = rackables s (liveTen l) n →
    (∀ e ∈ hs, (keyAt e.2 n).1 ≠ 0) → bitOf (fieldAt l.desc 16 1) 0 = true → bitOf (fieldAt l.desc 16 1) 1 = false →
    buddySlot s (liveTen l) = none →
    (∀ e ∈ hs, groupOut e.2 (keyAt e.2 n).2 (tenCoord s (liveTen l))
      (((bindOf s (liveTen l)).map (fun b => (bindRec s b).members.length)).getD 0) = false) →
    s.rck.job = none → (slotAt s 0).st ≠ 1 → (slotAt s 1).st ≠ 1 → pickSlot s (liveTen l) = some k → wearSpent s = false →
    size = totalBytes hs [] → 0 < size →
    Completes (.rackTake tag) s (fun u =>
      liveRec u tag = none ∧ u.rck.job = none ∧ slotAt u k = {} ∧ slotAt u (1 - k) = slotAt s (1 - k) ∧ Only [.hif, .out, .rck] s u)) ∧
  (∀ (tag n : Nat) (e : Nat × Hnd) (l : Live) (s : State), Starts s tag 0x60 l none → tag < 2 ^ 20 → fieldAt l.desc 20 8 % 4096 = 0 →
    (tstep s (liveTen l)).restoring = false → n = ((tstep s (liveTen l)).drawn).getD 0xFFFFFFFFFFFF →
    (rackables s (liveTen l) n).find? (fun e => decide ((keyAt e.2 n).1 = 0)) = some e →
    Completes (.rackTake tag) s (fun u => liveRec u tag = none ∧ u.rck = s.rck ∧ Only [.hif, .out] s u))

/-- Derived from R380, R382, R394, R416, R418 and Table 10.11 of 10: RACK_KEY gives a handle a key no other handle of its
tenant holds; RACK_QUERY answers the newest complete rack; a released slot of a tenant that is not ACTIVE is empty; each second
refills the wear bucket to at most a day's worth. The model's choices it rests on: what leaves the module stands in the model's
own list `out` (log 53). Forms it says complete: rckSlotRelease, rackKey, rackQuery, wearBucketTick. -/
def Obligations.KeysSlotsAndWear : Prop :=
  (∀ (tag h : Nat) (x : Hnd) (l : Live) (st : Option Nat) (s : State), Starts s tag 0x61 l st → h = fieldAt l.desc 16 3 →
    hndRec s h = some x → hndOk s (liveTen l) h = true → x.noRack = false → (x.replicated = true → fieldAt l.desc 24 2 ≠ 0) →
    (∀ e ∈ tenHnds s (liveTen l), e.1 ≠ h → e.2.key = fieldAt l.desc 20 4 → fieldAt l.desc 20 4 = 0) →
    (∀ e ∈ s.pln.hnds, e.2.gone = false) →
    Completes (.rackKey tag) s (fun u =>
      (∃ y, hndRec u h = some y ∧ y.key = fieldAt l.desc 20 4 ∧ y.stride = (if x.replicated then fieldAt l.desc 24 2 else x.stride) ∧
        y.tenant = x.tenant ∧ y.size = x.size ∧ (st = none → y.oldKeys = x.oldKeys)) ∧
      (∀ q, q ≠ h → hndRec u q = hndRec s q) ∧ Ended u tag st 0 0 0 ∧ Only [.hif, .out, .mem, .pln, .rck] s u)) ∧
  (∀ (tag : Nat) (l : Live) (st : Option Nat) (s : State), Starts s tag 0x64 l st →
    Completes (.rackQuery tag) s (fun u =>
      (newestRack s (liveTen l) = none → Ended u tag st 0 0 0) ∧
      (∀ k, newestRack s (liveTen l) = some k → Ended u tag st 0 0 (rackResult (slotAt s k) k % 2 ^ 52 + 2 ^ 52)) ∧
      Only [.hif, .out, .mem, .pln, .rck] s u)) ∧
  (∀ (acc : Acc) (k v : Nat) (s : State), blockOpen s acc 10 = true → k < 2 → bitOf v 0 = true → tenActive s (slotAt s k).tenant = false →
    Completes (.rckSlotRelease acc k v) s (fun u => slotAt u k = {} ∧ slotAt u (1 - k) = slotAt s (1 - k) ∧ u.rck.job = s.rck.job ∧ Only [.rck] s u)) ∧
  (∀ (acc : Acc) (k v : Nat) (s : State), tenActive s (slotAt s k).tenant = true → exec (.rckSlotRelease acc k v) s = .next s) ∧
  (∀ s : State, exec .wearBucketTick s = .next { s with rck := { s.rck with
    bucket := min (s.rck.bucket + fldW (cset s .rckWear 0 0) 15 0 * 10 ^ 9) (fldW (cset s .rckWear 0 0) 15 0 * 86400 * 10 ^ 9) } })

/-- Derived from R388 to R395, R398 and R470 of 10 and 12: the marks of a rack stand on every page of its handles; a copy made
for a write stands in the rack; the copy pass packs the rack and lifts the marks, and a block that fails its check ends the
rack with its slot EMPTY; the drain completes the slot and counts its bytes. The model's choices it rests on: what leaves the
module stands in the model's own list `out` (log 53). Forms it says complete: rackMarksDone, rackCowCopyDone, copyPassDone,
rackDrainDone. -/
def Obligations.RacksComplete : Prop :=
  (∀ (j : RackJob) (s : State), s.rck.job = some j → j.asking = false → j.marked = false → nclkOn s = true → s.pln.waits = [] →
    Completes .rackMarksDone s (fun u =>
      u.rck.job = some { j with marked := true } ∧
      (∀ e ∈ j.hs, ∀ p y, p < pagesOf e.2.size → pageRec s e.1 p = some y → pageRec u e.1 p = some { y with mark := true, copied := [] }) ∧
      Only [.out, .hif, .pln, .rck, .book] s u)) ∧
  (∀ (h p b : Nat) (x : Hnd) (j : RackJob) (s : State), nclkOn s = true → s.rck.job = some j → jobHnd j h = some x →
    (ownsPage x p = true ∨
      j.size + 4096 * ((j.blks.filter (fun y => j.hs.any (fun e => decide ((keyAt e.2 j.step).1 = y.key) && !ownsPage e.2 y.page))).length + 1)
        ≤ rsvReg s 1 * gib) →
    s.pln.waits.any (fun w => decide (w.hnd = h) && decide (pageIdx w.off = p) && decide (blockIdx w.off = b) && decide (needOf s w = .cow)) = true →
    Completes (.rackCowCopyDone h p b) s (fun u =>
      u.rck.job = some { j with blks := j.blks ++ [⟨(keyAt x j.step).1, p, b, rackContent s j.step h p b⟩] } ∧
      (∃ y, pageRec u h p = some y ∧ b ∈ y.copied) ∧ Only [.mem, .pln, .rck] s u)) ∧
  (∀ (j : RackJob) (s : State), s.rck.job = some j → j.marked = true → j.passed = false → nclkOn s = true →
    s.err.fence = false → asleep s = false → (∀ e ∈ j.hs, poisonedIn s e.1 0 e.2.size = []) →
    Completes (.copyPassDone none) s (fun u =>
      (∃ g, u.rck.job = some { j with
        passed := true, blks := packJob s j, hashes := j.hs.map (fun e => (e.1, handleHash s j (keyAt e.2 j.step).1 e.1 e.2.size)), graft := g } ∧
        (j.graft = false → g = false)) ∧
      (∀ k y h, Map.find u.pln.pages k = some y → Map.find s.pln.hnds (k / 0x100000) = some h → h.tenant = j.tenant → y.mark = false) ∧
      (∀ x ∈ u.stp.lees, x.tenant = j.tenant → x.kept = false))) ∧
  (∀ (c : Instr) (h : Nat) (x : Hnd) (j : RackJob) (s : State), s.rck.job = some j → nclkOn s = true → jobHnd j h = some x →
    (c = .copyPassDone (some h) ∧ j.marked = true ∧ j.passed = false ∧ s.err.fence = false ∧ asleep s = false) ∨
      (∃ key, c = .rackDrainDone (some key) ∧ j.passed = true ∧ (j.graft = false ∨ j.graftOk = true)) →
    Completes c s (fun u =>
      u.rck.job = none ∧ slotAt u j.slot = {} ∧ u.err.checkFail = satAdd 32 s.err.checkFail 1)) ∧
  (∀ (j : RackJob) (s : State), s.rck.job = some j → j.passed = true → nclkOn s = true → (j.graft = false ∨ j.graftOk = true) →
    Completes (.rackDrainDone none) s (fun u =>
      u.rck.job = none ∧ (slotAt u j.slot).st = 2 ∧ (slotAt u j.slot).bytes = j.size ∧ (slotAt u j.slot).blks = j.blks ∧
      (slotAt u j.slot).step = (slotAt s j.slot).step ∧ (slotAt u j.slot).tenant = (slotAt s j.slot).tenant ∧
      (slotAt u j.slot).grafted = (j.graft && j.graftOk) ∧ (slotAt u j.slot).narrowed = !j.narrowed.isEmpty ∧
      u.rck.total = s.rck.total + (j.size + Config.relocated s.rck.total j.size) ∧
      u.rck.bucket = s.rck.bucket - (j.size + Config.relocated s.rck.total j.size) * 86400 ∧ Only [.rck, .hif, .out, .book] s u))

/-- Derived from R401 to R405, R400 and R470 of 10 and 12: an OFFER_REQ is answered with an offer; an offer that suffices lets
a rack go on; checked data joins a sender's shadow, data that fails its check discards it; a COMMIT makes the shadow the image
and is acknowledged, one of data that was dropped leaves the image, and one of a rack completes the rack; an acknowledged graft
is CURRENT; a hash without a counterpart waits and one that differs is counted. The model's choices it rests on: what leaves
the module stands in the model's own list `out` (log 53); messages that the links deliver wait in the model's inbox (log 99).
Forms it says complete: graftOfferReq, graftOffer, graftData, graftCommit, graftAck, graftHash, hashCompareTimeout. -/
def Obligations.GraftMessages : Prop :=
  (∀ (i b k : Nat) (m : List Byte) (s : State), inboxAt s i 0x20 = some (b, m) → (nextHop s b (fieldAt m 10 2)).bind (slotTo s b) = some k →
    Completes (.graftOfferReq i) s (fun u =>
      Out.vine b k 2 (fieldAt m 10 2) (graftHead s 0x21 0 (bindTen s b) (fieldAt m 4 6) 0 0 0 0 (offerFor s (bindTen s b) (fieldAt m 10 2))) ∈ u.out ∧
      u.vnl.inbox = s.vnl.inbox.eraseIdx i ∧ Only [.out, .vnl] s u)) ∧
  (∀ (i b size : Nat) (m : List Byte) (j : RackJob) (s : State), inboxAt s i 0x21 = some (b, m) → s.rck.job = some j →
    j.tenant = bindTen s b → j.asking = true → size = totalBytes j.hs [] → size ≤ rsvReg s 1 * gib → 2 * size ≤ rsvReg s 4 * gib →
    size ≤ fieldAt m 24 8 →
    Completes (.graftOffer i) s (fun u =>
      u.rck.job = some { j with asking := false, narrowed := [], size := size } ∧ (tenRack u j.tenant).offer = fieldAt m 24 8 ∧
      u.vnl.inbox = s.vnl.inbox.eraseIdx i ∧ Only [.vnl, .rck] s u)) ∧
  (∀ (i b k : Nat) (m : List Byte) (l : List (Nat × List Byte)) (s : State), inboxAt s i 0x22 = some (b, m) →
    ginFor s (bindTen s b) (fieldAt m 10 2) = some k → checkedBlocks (fieldAt m 22 2) (fieldAt m 20 2) (m.drop 32) = some l →
    ginHeld s + 4096 * fieldAt m 22 2 ≤ rsvReg s 2 * gib →
    Completes (.graftData i) s (fun u =>
      (Map.get {} u.rck.gin k).valid = true ∧ (Map.get {} u.rck.gin k).tenant = bindTen s b ∧ (Map.get {} u.rck.gin k).sender = fieldAt m 10 2 ∧
      (bitOf (fieldAt m 1 1) 2 = false →
        (Map.get {} u.rck.gin k).shadow = mergeBlks (if (Map.get {} s.rck.gin k).shadowStep = some (fieldAt m 4 6)
          then (Map.get {} s.rck.gin k).shadow else []) (l.map (fun x => ⟨fieldAt m 12 4, fieldAt m 16 4, x.1, x.2⟩)) ∧
        (Map.get {} u.rck.gin k).shadowStep = some (fieldAt m 4 6) ∧
        (Map.get {} u.rck.gin k).image = (Map.get {} s.rck.gin k).image) ∧
      (bitOf (fieldAt m 1 1) 2 = true →
        (Map.get {} u.rck.gin k).rack = (if (Map.get {} s.rck.gin k).rackStep.isSome
          then l.map (fun x => ⟨fieldAt m 12 4, fieldAt m 16 4, x.1, x.2⟩)
          else mergeBlks (Map.get {} s.rck.gin k).rack (l.map (fun x => ⟨fieldAt m 12 4, fieldAt m 16 4, x.1, x.2⟩))) ∧
        (Map.get {} u.rck.gin k).image = (Map.get {} s.rck.gin k).image) ∧
      (∀ q, q ≠ k → Map.get {} u.rck.gin q = Map.get {} s.rck.gin q) ∧ u.vnl.inbox = s.vnl.inbox.eraseIdx i ∧ Only [.vnl, .rck] s u)) ∧
  (∀ (i b k : Nat) (m : List Byte) (s : State), inboxAt s i 0x22 = some (b, m) → ginFor s (bindTen s b) (fieldAt m 10 2) = some k →
    checkedBlocks (fieldAt m 22 2) (fieldAt m 20 2) (m.drop 32) = none →
    Completes (.graftData i) s (fun u =>
      (bitOf (fieldAt m 1 1) 2 = false → (Map.get {} u.rck.gin k).shadow = []) ∧ (bitOf (fieldAt m 1 1) 2 = true → (Map.get {} u.rck.gin k).rack = []) ∧
      (Map.get {} u.rck.gin k).image = (Map.get {} s.rck.gin k).image ∧ u.err.checkFail = satAdd 32 s.err.checkFail 1 ∧
      Only [.vnl, .rck, .err, .out, .hif, .book] s u)) ∧
  (∀ (i b k q : Nat) (m : List Byte) (s : State), inboxAt s i 0x23 = some (b, m) → ginFor s (bindTen s b) (fieldAt m 10 2) = some k →
    (Map.get {} s.rck.gin k).bad = false → bitOf (fieldAt m 1 1) 2 = false → (nextHop s b (fieldAt m 10 2)).bind (slotTo s b) = some q →
    Completes (.graftCommit i) s (fun u =>
      (Map.get {} u.rck.gin k).image = (if bitOf (fieldAt m 1 1) 0 then (Map.get {} s.rck.gin k).shadow
        else mergeBlks (Map.get {} s.rck.gin k).image (Map.get {} s.rck.gin k).shadow) ∧
      (Map.get {} u.rck.gin k).shadow = [] ∧ (Map.get {} u.rck.gin k).step = some (fieldAt m 4 6) ∧
      (Map.get {} u.rck.gin k).cover = bitOf (fieldAt m 1 1) 1 ∧
      Out.vine b q 0 (fieldAt m 10 2) (graftHead s 0x24 0 (bindTen s b) (fieldAt m 4 6) 0 0 0 0 0) ∈ u.out ∧
      (∀ j, j ≠ k → Map.get {} u.rck.gin j = Map.get {} s.rck.gin j) ∧ Only [.out, .vnl, .rck] s u)) ∧
  (∀ (i b k q : Nat) (m : List Byte) (s : State), inboxAt s i 0x23 = some (b, m) → ginFor s (bindTen s b) (fieldAt m 10 2) = some k →
    (Map.get {} s.rck.gin k).bad = true ∨ bitOf (fieldAt m 1 1) 2 = true → (nextHop s b (fieldAt m 10 2)).bind (slotTo s b) = some q →
    Completes (.graftCommit i) s (fun u =>
      (Map.get {} u.rck.gin k).image = (Map.get {} s.rck.gin k).image ∧ (Map.get {} u.rck.gin k).step = (Map.get {} s.rck.gin k).step ∧
      (Map.get {} u.rck.gin k).bad = false ∧
      (Map.get {} u.rck.gin k).rackStep = (if (Map.get {} s.rck.gin k).bad then (Map.get {} s.rck.gin k).rackStep else some (fieldAt m 4 6)) ∧
      Out.vine b q 0 (fieldAt m 10 2) (graftHead s 0x24 (b2n (bitOf (fieldAt m 1 1) 2) * 4) (bindTen s b)
        (if (Map.get {} s.rck.gin k).bad then 0xFFFFFFFFFFFF else fieldAt m 4 6) 0 0 0 0 0) ∈ u.out ∧
      (∀ j, j ≠ k → Map.get {} u.rck.gin j = Map.get {} s.rck.gin j) ∧ Only [.out, .vnl, .rck] s u)) ∧
  (∀ (i b : Nat) (m : List Byte) (s : State), inboxAt s i 0x24 = some (b, m) → bitOf (fieldAt m 1 1) 2 = false →
    (tenRack s (bindTen s b)).flight = some (fieldAt m 4 6) →
    Completes (.graftAck i) s (fun u =>
      (tenRack u (bindTen s b)).graft = 2 ∧ (tenRack u (bindTen s b)).gstep = some (fieldAt m 4 6) ∧ (tenRack u (bindTen s b)).flight = none ∧
      u.rck.job = s.rck.job ∧ Only [.out, .hif, .vnl, .rck, .book] s u)) ∧
  (∀ (i b : Nat) (m : List Byte) (j : RackJob) (s : State), inboxAt s i 0x24 = some (b, m) → bitOf (fieldAt m 1 1) 2 = true →
    s.rck.job = some j → j.tenant = bindTen s b → j.passed = true →
    Completes (.graftAck i) s (fun u =>
      u.rck.job = some (if fieldAt m 4 6 = j.step then { j with graftOk := true } else { j with graft := false }) ∧ Only [.vnl, .rck] s u)) ∧
  (∀ (i b : Nat) (m : List Byte) (a : HashRec) (s : State), inboxAt s i 0x25 = some (b, m) →
    a = ⟨bindTen s b, fieldAt m 10 2, fieldAt m 12 4, fieldAt m 4 6, fieldAt m 32 48, false⟩ →
    Completes (.graftHash i) s (fun u =>
      ((∀ o ∈ s.rck.hashes, o.own = true → o.tenant = a.tenant → o.key = a.key → o.step ≠ a.step) →
        u.rck = { s.rck with hashes := s.rck.hashes ++ [a] } ∧ Only [.vnl, .rck] s u) ∧
      (∀ o, s.rck.hashes.find? (fun o => o.own && decide (o.tenant = a.tenant) && decide (o.key = a.key) && decide (o.step = a.step)) = some o →
        u.rck = { s.rck with mismatch := if a.hash = o.hash then s.rck.mismatch else satAdd 32 s.rck.mismatch 1 } ∧
        Only [.out, .hif, .vnl, .rck, .book] s u))) ∧
  (∀ (i : Nat) (a : HashRec) (s : State), s.rck.hashes[i]? = some a → a.own = false → nclkOn s = true →
    exec (.hashCompareTimeout i) s = .next { s with rck := { s.rck with
      hashes := s.rck.hashes.eraseIdx i, uncompared := satAdd 32 s.rck.uncompared 1 } })

/-- Derived from R409, R410, R412 and R659 of 10: in RUN a restore or seed is refused, one whose source code is reserved ends
with BAD_FIELD; outside it asks its donor for the entries, or its own slot answers; a read is served or owed, a refused,
missing or unanswered one ends the restore and its handles, a good one brings it nearer its end; at its end it answers the
step, the lineage flag and the number of handles. The model's choices it rests on: what leaves the module stands in the model's
own list `out` (log 53); messages that the links deliver wait in the model's inbox (log 99). Forms it says complete:
rackRestore, rackSeed, graftReadReq, graftReadData, restoreReadTimeout, seedDonorTimeout. -/
def Obligations.RestoresAndSeeds : Prop :=
  (∀ (c : Instr) (op tag : Nat) (l : Live) (st : Option Nat) (s : State), (c, op) ∈ [(Instr.rackRestore tag, 0x62), (.rackSeed tag, 0x63)] →
    Starts s tag op l st → (tstep s (liveTen l)).st = .run →
    Completes c s (fun u => Ended u tag st 0x0604 0 0 ∧ Only [.hif, .out, .mem, .pln, .rck] s u)) ∧
  (∀ (c : Instr) (op tag b z k : Nat) (l : Live) (st : Option Nat) (s : State), (c, op) ∈ [(Instr.rackRestore tag, 0x62), (.rackSeed tag, 0x63)] →
    Starts s tag op l st → (tstep s (liveTen l)).st ≠ .run → (tstep s (liveTen l)).restoring = false →
    (op = 0x62 → bitsOf (fieldAt l.desc 16 1) 1 0 = 1 ∨ bitsOf (fieldAt l.desc 16 1) 1 0 = 2) → z = fieldAt l.desc 20 2 →
    bindOf s (liveTen l) = some b → (nextHop s b z).bind (slotTo s b) = some k →
    Completes c s (fun u =>
      (∃ x, u.rck.rests = s.rck.rests ++ [x] ∧ x.tag = tag ∧ x.tenant = liveTen l ∧ x.seed = decide (op = 0x63) ∧ x.donor = z ∧
        x.asked = [(0, 0)] ∧ x.phase = 0 ∧ Out.vine b k 2 z (readReq s x.tenant x.step 0 0 0 x.kind x.src x.seed) ∈ u.out) ∧
      Only [.hif, .rck, .out, .vnl] s u)) ∧
  (∀ (tag : Nat) (l : Live) (s : State), Starts s tag 0x62 l none → (tstep s (liveTen l)).st ≠ .run → (tstep s (liveTen l)).restoring = false →
    bitsOf (fieldAt l.desc 16 1) 1 0 = 3 →
    Completes (.rackRestore tag) s (fun u => Ended u tag none 0x12 16 0 ∧ Only [.hif, .out, .mem, .pln, .rck] s u)) ∧
  (∀ (tag : Nat) (l : Live) (s : State), Starts s tag 0x62 l none → (tstep s (liveTen l)).st ≠ .run → (tstep s (liveTen l)).restoring = false →
    bitsOf (fieldAt l.desc 16 1) 1 0 = 0 → (slotAt s (b2n (bitOf (fieldAt l.desc 16 1) 2))).st ≠ 2 →
    Completes (.rackRestore tag) s (fun u => Ended u tag none 0x0608 0 0 ∧ Only [.hif, .out, .mem, .pln, .rck] s u)) ∧
  (∀ (c : Instr) (op tag : Nat) (x : Rest) (l : Live) (s : State), (c, op) ∈ [(Instr.rackRestore tag, 0x62), (.rackSeed tag, 0x63)] →
    liveRec s tag = some l → opcodeOf l.desc = op → l.stage = .running → nclkOn s = true → restOf s tag = some x → x.phase = 3 →
    writesWait s tag = false → s.hif.up = true → s.hif.resumePending = false → (∀ r ∈ (tstep s (liveTen l)).steps, r.sealTag = none) →
    Completes c s (fun u =>
      Ended u tag l.step 0 0 (x.step + b2n (if x.seed then (tenRack s x.tenant).lineage else x.lineage) * 2 ^ 48 + min x.map.length 32767 * 2 ^ 49) ∧
      u.rck.rests = s.rck.rests.filter (fun y => decide (y.tag ≠ tag)) ∧
      (tenRack u x.tenant).lineage = (x.lineage || (tenRack s x.tenant).lineage) ∧ Only [.hif, .out, .mem, .pln, .rck] s u)) ∧
  (∀ (i b : Nat) (m : List Byte) (s : State), inboxAt s i 0x26 = some (b, m) → 24 ≤ m.length →
    Completes (.graftReadReq i) s (fun u =>
      (serveRead s (bindTen s b) m = none → u.rck = { s.rck with owed := s.rck.owed ++ [⟨bindTen s b, m⟩] }) ∧
      (∀ a k, serveRead s (bindTen s b) m = some a → (nextHop s b (fieldAt m 10 2)).bind (slotTo s b) = some k → u.rck = s.rck ∧
        ∃ bytes, Out.vine b k 2 (fieldAt m 10 2) bytes ∈ u.out ∧ bytes.length = 32 + a.bytes.length ∧ bytes.drop 32 = a.bytes) ∧
      u.vnl.inbox = s.vnl.inbox.eraseIdx i ∧ Only [.out, .vnl, .rck] s u)) ∧
  (∀ (i b at_ : Nat) (m : List Byte) (x : Rest) (l : Live) (s : State), inboxAt s i 0x27 = some (b, m) →
    at_ = fieldAt m 16 4 * 512 + fieldAt m 20 2 →
    s.rck.rests.find? (fun x => decide (x.tenant = bindTen s b) && x.asked.contains (fieldAt m 12 4, at_)) = some x → fieldAt m 31 1 ≠ 0 →
    liveRec s x.tag = some l → s.hif.up = true → s.hif.resumePending = false → (∀ r ∈ (tstep s (liveTen l)).steps, r.sealTag = none) →
    restOf s x.tag = some x →
    Completes (.graftReadData i) s (fun u =>
      Ended u x.tag l.step (if fieldAt m 31 1 = 2 then 0x060D else 0x0608) 0 0 ∧
      u.rck.rests.find? (fun y => decide (y.tag = x.tag)) = none ∧ (∀ h ∈ x.created, hndRec u h = none))) ∧
  (∀ (i b at_ q : Nat) (m bs e : List Byte) (x : Rest) (s : State), inboxAt s i 0x27 = some (b, m) →
    at_ = fieldAt m 16 4 * 512 + fieldAt m 20 2 →
    s.rck.rests.find? (fun x => decide (x.tenant = bindTen s b) && x.asked.contains (fieldAt m 12 4, at_)) = some x → fieldAt m 31 1 = 0 →
    fieldAt m 12 4 ≠ 0 → checkedBlocks 1 (fieldAt m 20 2) (m.drop 32) = some [(fieldAt m 20 2, bs)] →
    x.map.find? (fun q => decide (q.1 = fieldAt m 12 4)) = some (fieldAt m 12 4, q) → entOf x (fieldAt m 12 4) = some e →
    restOf s x.tag = some x → x.asked.erase (fieldAt m 12 4, at_) ≠ [] →
    Completes (.graftReadData i) s (fun u =>
      (∃ y, restOf u x.tag = some y ∧ y.asked = x.asked.erase (fieldAt m 12 4, at_) ∧ y.phase = x.phase) ∧
      Only [.vnl, .rck, .mem, .pln, .pwr] s u)) ∧
  (∀ (tag : Nat) (x : Rest) (l : Live) (s : State), restOf s tag = some x → x.asked ≠ [] → nclkOn s = true →
    liveRec s tag = some l → s.hif.up = true → s.hif.resumePending = false → (∀ r ∈ (tstep s (liveTen l)).steps, r.sealTag = none) →
    Completes (.restoreReadTimeout tag) s (fun u =>
      Ended u tag l.step 0x060A 0 0 ∧ restOf u tag = none ∧ (∀ h ∈ x.created, hndRec u h = none) ∧ Only [.hif, .out, .mem, .pln, .rck] s u)) ∧
  (∀ (i b k : Nat) (o : ReadOwed) (s : State), s.rck.owed[i]? = some o → bindOf s o.tenant = some b → bitOf (fieldAt o.msg 24 8) 4 = true →
    nclkOn s = true → (nextHop s b (fieldAt o.msg 10 2)).bind (slotTo s b) = some k →
    Completes (.seedDonorTimeout i) s (fun u =>
      u.rck.owed = s.rck.owed.eraseIdx i ∧ (∃ bytes, Out.vine b k 2 (fieldAt o.msg 10 2) bytes ∈ u.out ∧ fieldAt bytes 31 1 = 2) ∧
      Only [.out, .vnl, .rck] s u))

/-- Derived from R484, R485 and R486 of 13: PWR_REQ answers at once what is in force (0), starts a transition whose conditions
hold (1), or refuses (4); a write that may not reach the block changes nothing. Further, derived from R483, R486 and R487 of
13: a transition that ends enters Dormant, leaves it for the state it was entered from or the one a waiting cap gives, or
enters Standby with the rails off. The model's choices it rests on: what leaves the module stands in the model's own list `out`
(log 53). Forms it says complete: pwrReqAwake, pwrReqDormant, pwrReqStandby, dormantEntryDone, dormantExitDone,
standbyEntryDone. -/
def Obligations.PowerStates : Prop :=
  (∀ (acc : Acc) (s : State), blockOpen s acc 13 = true → s.pwr.st = .dormant →
    exec (.pwrReqAwake acc) s = .next { s with pwr := { s.pwr with trans := 2, reqStatus := 1 } }) ∧
  (∀ (acc : Acc) (s : State), blockOpen s acc 13 = true → s.pwr.st = .full ∨ s.pwr.st = .trimmed →
    exec (.pwrReqAwake acc) s = .next { s with pwr := { s.pwr with reqStatus := 0 } }) ∧
  (∀ (acc : Acc) (s : State), blockOpen s acc 13 = true → s.pwr.st = .off ∨ s.pwr.st = .standby →
    exec (.pwrReqAwake acc) s = .next { s with pwr := { s.pwr with reqStatus := 4 } }) ∧
  (∀ (acc : Acc) (s : State), blockOpen s acc 13 = true → s.pwr.st = .dormant → s.pwr.trans = 0 →
    exec (.pwrReqDormant acc) s = .next { s with pwr := { s.pwr with reqStatus := 0 } }) ∧
  (∀ (acc : Acc) (s : State), blockOpen s acc 13 = true → s.pwr.st = .full ∨ s.pwr.st = .trimmed → s.pwr.trans = 0 → workTens s = [] →
    noFilling s = true → noPasses s = true →
    exec (.pwrReqDormant acc) s = .next { s with pwr := { s.pwr with trans := 1, reqStatus := 1 } }) ∧
  (∀ (acc : Acc) (s : State), blockOpen s acc 13 = true → s.pwr.st = .full ∨ s.pwr.st = .trimmed →
    workTens s ≠ [] ∨ noFilling s = false ∨ noPasses s = false →
    exec (.pwrReqDormant acc) s = .next { s with pwr := { s.pwr with reqStatus := 4 } }) ∧
  (∀ (acc : Acc) (s : State), blockOpen s acc 13 = true → s.pwr.st = .standby →
    exec (.pwrReqStandby acc) s = .next { s with pwr := { s.pwr with reqStatus := 0 } }) ∧
  (∀ (acc : Acc) (s : State), blockOpen s acc 13 = true → s.pwr.st = .full ∨ s.pwr.st = .trimmed ∨ s.pwr.st = .dormant → s.pwr.trans = 0 →
    boundTens s = [] → noFilling s = true →
    exec (.pwrReqStandby acc) s = .next { s with pwr := { s.pwr with trans := 3, reqStatus := 1 } }) ∧
  (∀ (acc : Acc) (s : State), blockOpen s acc 13 = true → s.pwr.st ≠ .standby → boundTens s ≠ [] →
    exec (.pwrReqStandby acc) s = .next { s with pwr := { s.pwr with reqStatus := 4 } }) ∧
  (∀ (acc : Acc) (c : Instr) (s : State), blockOpen s acc 13 = false →
    c ∈ [Instr.pwrReqAwake acc, .pwrReqDormant acc, .pwrReqStandby acc] → exec c s = .next s) ∧
  (∀ s : State, s.dbg.frost = 0 → s.pwr.trans = 1 →
    Completes .dormantEntryDone s (fun u =>
      u.pwr.st = .dormant ∧ u.pwr.from_ = s.pwr.st ∧ u.pwr.trans = (if s.pwr.wake then 2 else 0) ∧
      u.pwr.reqStatus = (if s.pwr.reqStatus = 1 then 0 else s.pwr.reqStatus) ∧ Only [.mem, .pln, .cor, .pwr, .hif, .out, .book] s u)) ∧
  (∀ s : State, s.dbg.frost = 0 → s.pwr.st = .dormant → s.pwr.trans = 2 →
    Completes .dormantExitDone s (fun u =>
      u.pwr.trans = 0 ∧ u.pwr.wake = false ∧ u.pwr.capNext = none ∧
      (s.pwr.capNext = none → u.pwr.st = s.pwr.from_ ∧ u.pwr.fwCap = s.pwr.fwCap) ∧
      (∀ c, s.pwr.capNext = some c → u.pwr.fwCap = c ∧ u.pwr.st = (if c.getD (envelope s) < envelope s then .trimmed else .full)) ∧
      u.cel.up = s.cel.up ++ (if s.pwr.wake then [.event 9 0 1 [] 0 0] else []) ∧
      Only [.mem, .pln, .rck, .cel, .pwr, .hif, .out, .book] s u)) ∧
  (∀ s : State, s.dbg.frost = 0 → s.pwr.trans = 3 →
    Completes .standbyEntryDone s (fun u =>
      u.pwr.st = .standby ∧ u.pwr.trans = 0 ∧ u.pwr.reqStatus = (if s.pwr.reqStatus = 1 then 0 else s.pwr.reqStatus) ∧
      u.mem = [] ∧ u.hif = {} ∧ u.cor = {} ∧ u.stp = {} ∧ u.col = {} ∧
      u.rck = { keptRck s.rck.bucket s.rck.total s.rck with wearAt := s.rck.wearAt } ∧
      u.vnl = { memoLinks := s.vnl.memoLinks, memoRoutes := s.vnl.memoRoutes } ∧ u.pln = keptPln s.pln.retire (stkTrips s.pln) ∧
      u.boot.hostReady = false ∧ u.boot.ready = false ∧
      Only [.mem, .hif, .pln, .cor, .vnl, .col, .stp, .rck, .err, .dbg, .sec, .pwr, .boot, .book] s u))

/-- Derived from R36, R37, R488, R489, R491 and R496 of 01 and 13: a pending clock step takes effect; the clamp stands in with
its cause, steps every present die down, and leaves the clocks as they are; pacing opens and shuts its window; a cap unmet is
counted and reported. The model's choices it rests on: elapsed time is counted by the model's `tick` (log 51). Forms it says
complete: cclkStep, clampEngage, clampStep, clampRelease, pacingWindow, capUnmetTimeout. -/
def Obligations.ClocksAndTheClamp : Prop :=
  (∀ (d k : Nat) (s : State), nclkOn s = true → Map.find s.cor.cclkPend d = some k →
    Completes (.cclkStep d) s (fun u =>
      dieStep u d = k ∧ Map.find u.cor.cclkPend d = none ∧ (∀ q, q ≠ d → dieStep u q = dieStep s q ∧ dieP u q = dieP s q) ∧
      (dieP u d = if k < dieStep s d ∧ k ≤ fmaxStep s d then { dieP s d with volt := min (dieP s d).volt (curveVolt s d k) } else dieP s d) ∧
      Only [.cor, .pwr] s u)) ∧
  (∀ (transient : Bool) (s : State), s.pwr.clamp = false → s.pwr.st ≠ .off → s.pwr.st ≠ .standby →
    Completes (.clampEngage transient) s (fun u =>
      u.pwr.clamp = true ∧ u.pwr.clampCause = (if transient then 1 else 2) ∧ u.pwr.clampSteps = 0 ∧
      u.pwr.clampCnt = satAdd 32 s.pwr.clampCnt 1 ∧ u.cor.cclkPend = [] ∧
      (∀ d, d < numDies s → (stressRec u d).running = false ∧ (dieP u d).sweeping = false ∧ dieStep u d = dieStep s d) ∧
      u.cel.up = s.cel.up ++ [.event 9 0 6 [] 0 0] ∧ Only [.mem, .cor, .cel, .err, .pwr, .book] s u)) ∧
  (∀ (q : Nat) (s : State), s.pwr.clamp = true → q < numDies s → dieStep s q ≠ 0 →
    Completes .clampStep s (fun u =>
      (∀ d, d < numDies s → dieStep u d = dieStep s d - 1) ∧ u.pwr.clampSteps = satAdd 8 s.pwr.clampSteps 1 ∧ u.pwr.clamp = true ∧
      Only [.cor, .pwr] s u)) ∧
  (∀ s : State, s.pwr.clamp = true →
    Completes .clampRelease s (fun u => u.pwr = { s.pwr with clamp := false, clampAt := some s.tick } ∧ Only [.pwr, .book] s u)) ∧
  (∀ (opens : Bool) (s : State), nclkOn s = true →
    exec (.pacingWindow opens) s = .next { s with pwr := { s.pwr with pacingOpen := opens } }) ∧
  (∀ s : State, s.dbg.frost = 0 → s.pwr.level = 3 → capNow s < s.pwr.power →
    Completes .capUnmetTimeout s (fun u =>
      u.pwr.unmet = satAdd 32 s.pwr.unmet 1 ∧ u.pwr.level = 3 ∧ u.cel.up = s.cel.up ++ [.event 9 0 3 [] 0 0] ∧ Only [.cel, .pwr, .book] s u))

/-- Derived from R449, R492, R493, R497 and R507 of 11 and 13: a die's temperature is kept; it throttles at its threshold and
stops 3 °C below; at 115 °C it trips, raises the fence and asks for a reset; the owner keeps a die's vintage margin, one below
its threshold joins the wilt list; the replan and idle timers report to the owner. Forms it says complete: dieTempSample,
vintageRead, replanTimer, idleTimer. -/
def Obligations.DieTemperatureAndAge : Prop :=
  (∀ (d t thr : Nat) (s : State), nclkOn s = true → d < numDies s → s.pwr.st = .full ∨ s.pwr.st = .trimmed → s.boot.retiring = false → thr = fldW (cset s .pwr 0 2) 6 0 → t < 115 →
    Completes (.dieTempSample d t) s (fun u =>
      (dieP u d).temp = t ∧
      (dieP u d).throttle = (if thr ≤ t then true else if t + 3 ≤ thr then false else (dieP s d).throttle) ∧
      (dieP u d).tripped = (if t + 10 ≤ thr ∧ s.err.resetOn = none ∧ s.err.resetPend = none then false else (dieP s d).tripped) ∧
      (dieP u d).trips = (dieP s d).trips ∧ (∀ q, q ≠ d → dieP u q = dieP s q) ∧ Only [.mem, .pln, .rck, .cel, .pwr, .book] s u)) ∧
  (∀ (d t : Nat) (s : State), nclkOn s = true → d < numDies s → s.pwr.st = .full ∨ s.pwr.st = .trimmed → s.boot.retiring = false → 115 ≤ t → (dieP s d).tripped = false →
    Completes (.dieTempSample d t) s (fun u =>
      (dieP u d).temp = t ∧ (dieP u d).tripped = true ∧ (dieP u d).trips = satAdd 32 (dieP s d).trips 1 ∧
      u.err.fence = true ∧ u.err.resetPend = (if s.err.resetOn.isSome then s.err.resetPend else some (s.err.resetPend.getD 0x0B)) ∧ u.cor.launches = [])) ∧
  (∀ (l : List (BitVec 16)) (s : State), s.dbg.frost = 0 → s.cel.own ≠ 2 → diesOn s = true →
    Completes (.vintageRead l) s (fun u =>
      (∀ i m, i < numDies s → l[i]? = some m → dieP u i = { dieP s i with margin := m.toNat }) ∧ Only [.cel, .pol, .pwr, .book] s u)) ∧
  (∀ (m : BitVec 16) (s : State), s.dbg.frost = 0 → s.cel.own ≠ 2 → diesOn s = true → m.toInt < (fldW (cset s .pwr 0 3) 7 0 : Nat) →
    s.pol.wilts.length < 64 → (∀ w ∈ s.pol.wilts, w.kind = 2 → w.subject ≠ 0) →
    Completes (.vintageRead [m]) s (fun u =>
      u.pol.wilts = s.pol.wilts ++ [⟨2, 0, nowT s⟩] ∧ UpMsg.event 9 0 4 [] 0 0 ∈ u.cel.up)) ∧
  (∀ s : State, s.dbg.frost = 0 →
    exec .replanTimer s = .next { s with cel := { s.cel with up := s.cel.up ++ [.event 9 0 4 [] 0 0] } }) ∧
  (∀ s : State, s.dbg.frost = 0 → fldW (cset s .pwr 0 4) 15 0 ≠ 0 → workTens s = [] → s.pwr.idle = false →
    exec .idleTimer s = .next { s with
      pwr := { s.pwr with idle := true }, cel := { s.cel with up := s.cel.up ++ [.event 9 0 0 [] 0 0] } })

/-- Derived from R268 to R276, R298 and R299 of 07: on an OPEN port a flit whose CRC holds and whose tag verifies is, where it
is a whole one-flit message for this module and next in order, delivered and acknowledged, where it is one already accepted
acknowledged, where a later one answered with a NAK, and neither of these delivered; one whose tag fails closes the gate; a
flit that fails FEC or CRC, has no type, or carries data on a port that is not OPEN, is counted and dropped. The model's
choices it rests on: what leaves the module stands in the model's own list `out` (log 53); messages that the links deliver wait
in the model's inbox (log 99). Forms it says complete: flitReceive. -/
def Obligations.FlitsAreTaken : Prop :=
  (∀ (p b k cls c e : Nat) (env plain : List Byte) (x : Port) (s : State), nclkOn s = true → memb 7 s.boot.drained = false → p < numPorts s →
    env.length = 288 → x = portRec s p → x.st = .opened → portBind s p = some (b, k) → fieldAt env 284 4 = (crc32c (env.take 284)).toNat →
    fieldAt env 0 1 % 16 = 1 ∨ fieldAt env 0 1 % 16 = 2 → cls = bitsOf (fieldAt env 0 1) 5 4 → bitOf (fieldAt env 280 4) 16 = false →
    bitOf (fieldAt env 6 2) 12 = false → fieldAt env 4 2 % 4096 = x.rxCtr % 4096 → bitOf (fieldAt env 1 1) 0 = true →
    bitOf (fieldAt env 1 1) 1 = true → fieldAt env 2 2 = bindCoord s b → memb x.rxCtr x.diverted = false → c = x.rxCtr % 2 ^ 64 →
    e = (if bitOf (fieldAt env 0 1) 6 = decide (c / 2 ^ 32 % 2 = 1) then c / 2 ^ 32 else c / 2 ^ 32 - 1) →
    flitAuth (rxKey s p e) x.peer x.peerPort c env plain = true →
    Completes (.flitReceive p 0 false env plain) s (fun u =>
      u.vnl.inbox = s.vnl.inbox ++ [(b, plain)] ∧ (portRec u p).rxCtr = x.rxCtr + 1 ∧ (portRec u p).st = .opened ∧
      Out.flit p (envClose (envHead 0 0 0 false false 0 0 x.rxCtr false true ++ zeros 272) (1 + cls * 0x4000 + b2n false * 0x10000)) ∈ u.out ∧
      Only [.out, .vnl] s u)) ∧
  (∀ (p b k off cls c e : Nat) (env plain : List Byte) (x : Port) (s : State), nclkOn s = true → memb 7 s.boot.drained = false →
    p < numPorts s → env.length = 288 → x = portRec s p → x.st = .opened → portBind s p = some (b, k) →
    fieldAt env 284 4 = (crc32c (env.take 284)).toNat →
    fieldAt env 0 1 % 16 = 1 ∨ fieldAt env 0 1 % 16 = 2 → cls = bitsOf (fieldAt env 0 1) 5 4 → bitOf (fieldAt env 280 4) 16 = false →
    bitOf (fieldAt env 6 2) 12 = false → off = (fieldAt env 4 2 % 4096 + 4096 - x.rxCtr % 4096) % 4096 → off ≠ 0 →
    c = (if off < 2048 then x.rxCtr + off else x.rxCtr + off + (2 ^ 64 - 4096)) % 2 ^ 64 →
    e = (if bitOf (fieldAt env 0 1) 6 = decide (c / 2 ^ 32 % 2 = 1) then c / 2 ^ 32 else c / 2 ^ 32 - 1) →
    flitAuth (rxKey s p e) x.peer x.peerPort c env plain = true →
    Completes (.flitReceive p 0 false env plain) s (fun u =>
      u.vnl.inbox = s.vnl.inbox ∧ (portRec u p).rxCtr = x.rxCtr ∧ (portRec u p).st = .opened ∧
      (off < 2048 → Out.flit p (envClose (envHead 0 0 0 false false 0 0 x.rxCtr true true ++ zeros 272)
        (0 + cls * 0x4000 + b2n false * 0x10000)) ∈ u.out) ∧
      (2048 ≤ off → Out.flit p (envClose (envHead 0 0 0 false false 0 0 (ackOf x).1 false (ackOf x).2 ++ zeros 272)
        (0 + cls * 0x4000 + b2n false * 0x10000)) ∈ u.out) ∧ Only [.out, .vnl] s u)) ∧
  (∀ (p b k off c e : Nat) (env plain : List Byte) (x : Port) (s : State), nclkOn s = true → memb 7 s.boot.drained = false →
    p < numPorts s → env.length = 288 → x = portRec s p → x.st = .opened → x.keys = true → portBind s p = some (b, k) →
    fieldAt env 284 4 = (crc32c (env.take 284)).toNat →
    fieldAt env 0 1 % 16 = 1 ∨ fieldAt env 0 1 % 16 = 2 → bitOf (fieldAt env 280 4) 16 = false →
    off = (fieldAt env 4 2 % 4096 + 4096 - x.rxCtr % 4096) % 4096 →
    c = (if off < 2048 then x.rxCtr + off else x.rxCtr + off + (2 ^ 64 - 4096)) % 2 ^ 64 →
    e = (if bitOf (fieldAt env 0 1) 6 = decide (c / 2 ^ 32 % 2 = 1) then c / 2 ^ 32 else c / 2 ^ 32 - 1) →
    flitAuth (rxKey s p e) x.peer x.peerPort c env plain = false →
    Completes (.flitReceive p 0 false env plain) s (fun u =>
      u.vnl.inbox = s.vnl.inbox ∧ (portRec u p).err.auth = satAdd 32 x.err.auth 1 ∧ (portRec u p).st = .hedged ∧
      (portRec u p).reason = 0x0E ∧ (portRec u p).keys = false ∧ (portRec u p).retry = [])) ∧
  (∀ (p : Nat) (uncorr : Bool) (env plain : List Byte) (x : Port) (s : State), nclkOn s = true → memb 7 s.boot.drained = false →
    p < numPorts s → env.length = 288 → x = portRec s p → uncorr = true ∨ fieldAt env 284 4 ≠ (crc32c (env.take 284)).toNat →
    x.wUncorr + 1 < fldW (cset s .vnlPort p 2) 31 24 → x.wCrc + 1 < fldW (cset s .vnlPort p 2) 23 16 →
    Completes (.flitReceive p 0 uncorr env plain) s (fun u =>
      u.vnl.inbox = s.vnl.inbox ∧ (portRec u p).rxCtr = x.rxCtr ∧ (portRec u p).st = x.st ∧
      (portRec u p).err.fecUncorr = (if uncorr then satAdd 32 x.err.fecUncorr 1 else x.err.fecUncorr) ∧
      (portRec u p).err.crc = (if uncorr then x.err.crc else satAdd 32 x.err.crc 1) ∧ Only [.out, .vnl] s u)) ∧
  (∀ (p n : Nat) (env plain : List Byte) (s : State), nclkOn s = true → memb 7 s.boot.drained = false → p < numPorts s → env.length = 288 →
    fieldAt env 284 4 = (crc32c (env.take 284)).toNat →
    4 ≤ fieldAt env 0 1 % 16 ∨ ((fieldAt env 0 1 % 16 = 1 ∨ fieldAt env 0 1 % 16 = 2) ∧ (portRec s p).st ≠ .opened) →
    Completes (.flitReceive p n false env plain) s (fun u =>
      (portRec u p).err.badType = satAdd 32 (portRec s p).err.badType 1 ∧
      (portRec u p).err.fecCorr = satAdd 32 (portRec s p).err.fecCorr n ∧ u.vnl.inbox = s.vnl.inbox ∧ Only [.vnl] s u)) ∧
  (∀ (p n : Nat) (env plain : List Byte) (x : Port) (s : State), nclkOn s = true → memb 7 s.boot.drained = false → p < numPorts s →
    env.length = 288 → fieldAt env 284 4 = (crc32c (env.take 284)).toNat → fieldAt env 0 1 % 16 = 0 ∨ fieldAt env 0 1 % 16 = 3 →
    x = portRec s p → x.st ≠ .opened → x.st ≠ .hedged →
    Completes (.flitReceive p n false env plain) s (fun u =>
      portRec u p = { x with err := { x.err with fecCorr := satAdd 32 x.err.fecCorr n } } ∧ (∀ q, q ≠ p → portRec u q = portRec s q) ∧
      Only [.vnl] s u)) ∧
  (∀ (p n : Nat) (uncorr : Bool) (env plain : List Byte) (s : State), memb 7 s.boot.drained = true ∨ numPorts s ≤ p ∨ env.length ≠ 288 →
    exec (.flitReceive p n uncorr env plain) s = .next s)

/-- Derived from R272, R280, R294, R299, R301 and R302 of 07: an unacknowledged flit is sent again with its original bytes and
counted; window counts restart; a heartbeat goes on every HEDGED or OPEN port while the owner completes its cycles; a slot
without an OPEN port for 10 ms faults its tenant. Further, derived from R285, R298, R303 and R304 of 07: the smallest margin of
a lane in the second is kept, one below its threshold joins the wilt list and is reported at most once a second; the clear
writes clear a port's error totals and the memo. The model's choices it rests on: what leaves the module stands in the model's
own list `out` (log 53); messages that the links deliver wait in the model's inbox (log 99); elapsed time is counted by the
model's `tick` (log 51). Forms it says complete: vnlErrClr, vnlMemoClrLinks, vnlMemoClrRoutes, retryTimeout, windowRestart,
hbTimer, slotLost, marginMeasure. -/
def Obligations.LinkUpkeep : Prop :=
  (∀ (p : Nat) (x : Port) (s : State), nclkOn s = true → x = portRec s p → x.st = .opened → x.retry ≠ [] →
    (∀ f ∈ x.retry, f.resent + 1 < fldW (cset s .vnlPort p 2) 7 4) → x.wReplay + x.retry.length < fldW (cset s .vnlPort p 2) 15 8 →
    Completes (.retryTimeout p) s (fun u =>
      (portRec u p).st = .opened ∧ (portRec u p).retry = x.retry.map (fun f => { f with resent := f.resent + 1 }) ∧
      (portRec u p).err.replayTo = satAdd 32 x.err.replayTo 1 ∧ (portRec u p).err.replay = satAdd 32 x.err.replay x.retry.length ∧
      (∀ f ∈ x.retry, Out.flit p f.bytes ∈ u.out) ∧ (∀ q, q ≠ p → portRec u q = portRec s q) ∧ Only [.out, .vnl] s u)) ∧
  (∀ (p : Nat) (s : State), (portRec s p).st ≠ .opened ∨ (portRec s p).retry = [] → exec (.retryTimeout p) s = .next s) ∧
  (∀ (p : Nat) (s : State), nclkOn s = true →
    Completes (.windowRestart p) s (fun u => portRec u p = { portRec s p with wUncorr := 0, wCrc := 0, wReplay := 0 } ∧
      (∀ q, q ≠ p → portRec u q = portRec s q) ∧ Only [.vnl] s u)) ∧
  (∀ s : State, nclkOn s = true → hbAllowed s = true →
    Completes .hbTimer s (fun u =>
      (∀ p, p < numPorts s → (portRec s p).st = .hedged ∨ (portRec s p).st = .opened →
        Out.flit p (envClose (envHead 0 0 0 false false 0 0 (ackOf (portRec s p)).1 false (ackOf (portRec s p)).2 ++ zeros 272)
          (0 + 0 * 0x4000 + b2n true * 0x10000)) ∈ u.out) ∧
      (∀ p, (portRec u p).st = (portRec s p).st) ∧ u.vnl.inbox = s.vnl.inbox ∧ Only [.out, .vnl] s u)) ∧
  (∀ s : State, hbAllowed s = false → exec .hbTimer s = .next s) ∧
  (∀ (b k : Nat) (s : State), nclkOn s = true → bindValid s b = true → k < (bindSplitT s b).slots.length → openPorts s b k = [] →
    Completes (.slotLost b k) s (fun u =>
      u.cel.up = s.cel.up ++ [.fault 0x0D 2 0x13 0xFF [bindTen s b] false] ∧ u.vnl = s.vnl ∧ u.err.fence = s.err.fence ∧
      (∀ r ∈ (tstep u (bindTen s b)).steps, r.handed = true ∨ r.unclean = true) ∧ u.err.lastInfo % 2 ^ 29 / 2 ^ 16 = 0x0D)) ∧
  (∀ (b k : Nat) (s : State), openPorts s b k ≠ [] → exec (.slotLost b k) s = .next s) ∧
  (∀ (p lane pw eye : Nat) (x : Port) (s : State), nclkOn s = true → x = portRec s p → x.st = .equalize ∨
      (globalPort s p = true ∧ (x.st = .opened ∨ x.st = .retrain)) → lane < 8 →
    Completes (.marginMeasure p lane pw eye) s (fun u =>
      Map.find (portRec u p).margins lane = some (marginMin ((Map.get [] x.measured lane).filter (fun q => decide (s.tick < q.1 + 250000000)))
        (pw % 65536) (eye % 256)) ∧ (portRec u p).marginAt = some s.tick ∧
      (∀ l, l ≠ lane → Map.find (portRec u p).margins l = Map.find x.margins l) ∧
      (sgn16 (fldW (cset s .vnlPort p 3) 31 16) ≤ sgn16 pw → fldW (cset s .vnlPort p 3) 15 8 ≤ eye % 256 → Only [.vnl] s u) ∧
      (sgn16 pw < sgn16 (fldW (cset s .vnlPort p 3) 31 16) ∨ eye % 256 < fldW (cset s .vnlPort p 3) 15 8 → x.lowAt = none →
        (portRec u p).lowAt = some s.tick ∧ UpMsg.event 7 0 6 [] p lane ∈ u.cel.up ∧
        (s.pol.wilts.length < 64 → ∃ w ∈ u.pol.wilts, w.kind = 1 ∧ w.subject = p)) ∧
      (∀ q, q ≠ p → portRec u q = portRec s q) ∧ Only [.out, .hif, .vnl, .cel, .pol, .book] s u)) ∧
  (∀ (acc : Acc) (p : Nat) (s : State), blockOpen s acc 7 = true → p < numPorts s →
    Completes (.vnlErrClr acc p) s (fun u => portRec u p = { portRec s p with err := {} } ∧
      (∀ q, q ≠ p → portRec u q = portRec s q) ∧ Only [.vnl] s u)) ∧
  (∀ (acc : Acc) (s : State), blockOpen s acc 7 = true →
    exec (.vnlMemoClrLinks acc) s = .next { s with vnl := { s.vnl with memoLinks := [] } }) ∧
  (∀ (acc : Acc) (s : State), blockOpen s acc 7 = true →
    exec (.vnlMemoClrRoutes acc) s = .next { s with vnl := { s.vnl with memoRoutes := [] } }) ∧
  (∀ (acc : Acc) (c : Instr) (p : Nat) (s : State), blockOpen s acc 7 = false →
    c ∈ [Instr.vnlErrClr acc p, .vnlMemoClrLinks acc, .vnlMemoClrRoutes acc] → exec c s = .next s)

/-- Derived from R281, R282, R283, R285, R286 and R293 of 07: a port goes from DARK to IDENTIFY to EQUALIZE to ALIGN to HEDGED,
back to DARK when it loses light or its peer does not answer, and to FENCED after the third failed equalization; the memo keeps
what a link has learnt. The model's choices it rests on: what leaves the module stands in the model's own list `out` (log 53);
a value the spec leaves open is Config.freeValue of the model's counter `free` (log 52). Forms it says complete: lightLost,
lightStable, portIdentify, identTimeout, identifyRetry, equalizeDone, alignDone, retrainDone. -/
def Obligations.PortsComeUp : Prop :=
  (∀ (p : Nat) (s : State), nclkOn s = true → memb (portCode (portRec s p).st) [0, 1, 8] = false →
    Completes (.lightLost p) s (fun u =>
      (portRec u p).st = .dark ∧ (portRec u p).reason = 1 ∧ (portRec u p).keys = false ∧ UpMsg.event 8 p 0 [] p 0 ∈ u.cel.up ∧
      (∀ q, q ≠ p → (portRec u q).st = (portRec s q).st))) ∧
  (∀ (p : Nat) (s : State), nclkOn s = true → (portRec s p).st = .dark →
    Completes (.lightStable p) s (fun u => portRec u p = { portRec s p with st := .identify } ∧
      (∀ q, q ≠ p → portRec u q = portRec s q) ∧ Only [.vnl] s u)) ∧
  (∀ (p peer pp circuit w : Nat) (c : Instr) (s : State), nclkOn s = true → (portRec s p).st = .identify → peer < 2 ^ 20 → pp < 16 →
    c = .portIdentify p peer pp circuit ∨ (c = .identifyRetry p peer pp circuit ∧ memb (portRec s p).reason [3, 4] = true) →
    w = fldW (cset s .vnlPort p 0) 19 0 →
    Completes c s (fun u =>
      (w ≠ 0 → w ≠ peer → portRec u p = { portRec s p with reason := 3 } ∧ u.vnl.memoLinks = s.vnl.memoLinks) ∧
      (w = 0 ∨ w = peer → circuit ≠ portCircuit s p → portRec u p = { portRec s p with reason := 4 } ∧ u.vnl.memoLinks = s.vnl.memoLinks) ∧
      (w = 0 ∨ w = peer → circuit = portCircuit s p →
        portRec u p = { portRec s p with st := .equalize, peer := peer, peerPort := pp, memoHit := (memoFind s peer circuit).isSome } ∧
        u.vnl.memoHits = (if (memoFind s peer circuit).isSome then satAdd 32 s.vnl.memoHits 1 else s.vnl.memoHits) ∧
        u.vnl.memoMisses = (if (memoFind s peer circuit).isSome then s.vnl.memoMisses else satAdd 32 s.vnl.memoMisses 1) ∧
        (∀ m, memoFind s peer circuit = some m → u.vnl.memoLinks.head? = some m)) ∧
      (∀ q, q ≠ p → portRec u q = portRec s q) ∧ Only [.vnl] s u)) ∧
  (∀ (p : Nat) (s : State), nclkOn s = true → (portRec s p).st = .identify →
    Completes (.identTimeout p) s (fun u => (portRec u p).st = .dark ∧ (portRec u p).reason = 2 ∧ (portRec u p).keys = false ∧
      UpMsg.event 8 p 0 [] p 0 ∈ u.cel.up ∧ (∀ q, q ≠ p → (portRec u q).st = (portRec s q).st))) ∧
  (∀ (p coef : Nat) (ok : Bool) (x : Port) (s : State), nclkOn s = true → x = portRec s p → x.st = .equalize → ok = true ∨ x.memoHit = true ∨ x.eqFails < 2 →
    Completes (.equalizeDone p ok coef) s (fun u =>
      (ok = true → portRec u p = { x with st := .align, eqFails := 0 }) ∧
      (ok = true → x.memoHit = false → ∃ m, u.vnl.memoLinks.head? = some m ∧ m.peer = x.peer ∧ m.circuit = portCircuit s p ∧ m.coef = coef) ∧
      (ok = false → x.memoHit = true → portRec u p = { x with memoHit := false } ∧ u.vnl.memoLinks = memoWithout s x.peer (portCircuit s p)) ∧
      (ok = false → x.memoHit = false → portRec u p = { x with st := .identify, reason := 5, eqFails := x.eqFails + 1 }) ∧
      (∀ q, q ≠ p → portRec u q = portRec s q) ∧ Only [.vnl] s u)) ∧
  (∀ (p coef : Nat) (s : State), nclkOn s = true → (portRec s p).st = .equalize → (portRec s p).memoHit = false → 2 ≤ (portRec s p).eqFails →
    Completes (.equalizeDone p false coef) s (fun u => (portRec u p).st = .fenced ∧ (portRec u p).reason = 5 ∧ (portRec u p).eqFails = 0 ∧
      UpMsg.event 8 p 3 [] p 0 ∈ u.cel.up)) ∧
  (∀ (p : Nat) (c : Instr) (s : State), nclkOn s = true → (portRec s p).keys = false →
    (c = .alignDone p true ∧ (portRec s p).st = .align) ∨ (c = .retrainDone p true ∧ (portRec s p).st = .retrain) →
    Completes c s (fun u =>
      (portRec u p).st = .hedged ∧ (portRec u p).shake.active = true ∧ (portRec u p).shake.challenge = (Config.freeValue 128 s.free).toNat ∧
      fieldAt (portRec u p).shake.latest 0 1 = 1 ∧ u.free = s.free + 1 ∧ u.cel.up = s.cel.up ++ [.event 8 p 1 [] p 0] ∧
      (∀ q, q ≠ p → portRec u q = portRec s q) ∧ Only [.free, .out, .vnl, .cel] s u)) ∧
  (∀ (p : Nat) (s : State), nclkOn s = true → (portRec s p).keys = true → (portRec s p).st = .retrain → (portRec s p).retry = [] →
    Completes (.retrainDone p true) s (fun u =>
      (portRec u p).st = .opened ∧ (portRec u p).reason = 0 ∧ u.cel.up = s.cel.up ++ [.event 8 p 2 [] p 0] ∧
      Only [.out, .vnl, .cel, .hif, .book] s u)) ∧
  (∀ (p : Nat) (s : State), nclkOn s = true → (portRec s p).keys = true → (portRec s p).st = .align → (portRec s p).retry = [] →
    Completes (.alignDone p true) s (fun u =>
      (portRec u p).st = .opened ∧ (portRec u p).reason = 0 ∧ u.cel.up = s.cel.up ++ [.event 8 p 1 [] p 0, .event 8 p 2 [] p 0] ∧
      Only [.out, .vnl, .cel, .hif, .book] s u)) ∧
  (∀ (p : Nat) (s : State), nclkOn s = true → (portRec s p).st = .align →
    Completes (.alignDone p false) s (fun u =>
      portRec u p = { portRec s p with st := .equalize, memoHit := false, reason := 6 } ∧ (∀ q, q ≠ p → portRec u q = portRec s q) ∧
      Only [.vnl] s u)) ∧
  (∀ (p : Nat) (s : State), nclkOn s = true → (portRec s p).st = .retrain →
    Completes (.retrainDone p false) s (fun u =>
      portRec u p = { portRec s p with st := .equalize, memoHit := false } ∧ (∀ q, q ≠ p → portRec u q = portRec s q) ∧ Only [.vnl] s u))

/-- Derived from R293, R295, R296 and R297 of 07 and Table 07.5: a new HELLO starts the peer's part anew and is answered; a
chain with the digest of the HELLO is known, another ends the attempt; a token of a known chain is verified; an accepting
VERDICT counts, a rejecting one ends the attempt; a WAIT is an answer. Further, derived from R293, R295 to R297 and Table 07.7
of 07: a signed token goes out, and one that completes the gate's inputs opens it; a token verified as Table 07.7 says is
accepted, or ends the attempt with its reason; an unanswered message is sent again; an attempt without an answer ends; after
one that ended a new HELLO with a new challenge follows. The model's choices it rests on: what leaves the module stands in the
model's own list `out` (log 53); a value the spec leaves open is Config.freeValue of the model's counter `free` (log 52). Forms
it says complete: hsHello, hsCert, hsToken, hsVerdict, hsWait, handshakeResend, handshakeTimeout, handshakeRestart,
tokenSignDone, tokenVerifyDone. -/
def Obligations.HedgeHandshake : Prop :=
  (∀ (p : Nat) (m : List Byte) (x : Port) (s : State), nclkOn s = true → trainHead s p 1 = some m → x = portRec s p →
    Completes (.hsHello p) s (fun u =>
      (portRec u p).train = x.train.drop 1 ∧ (portRec u p).st = .hedged ∧
      (x.shake.peerHello = some (fieldAt m 2 2, fieldAt m 4 16, fieldAt m 20 48) → (portRec u p).shake = x.shake ∧ u.out = s.out) ∧
      (x.shake.peerHello ≠ some (fieldAt m 2 2, fieldAt m 4 16, fieldAt m 20 48) →
        (portRec u p).shake.peerHello = some (fieldAt m 2 2, fieldAt m 4 16, fieldAt m 20 48) ∧ (portRec u p).shake.issued = false ∧
        (portRec u p).shake.verified = false ∧ (portRec u p).shake.peerOk = false ∧ (portRec u p).shake.peerTok = [] ∧
        (portRec u p).shake.challenge = x.shake.challenge ∧
        ((∀ e, memoFind s x.peer (portCircuit s p) = some e → e.digest ≠ fieldAt m 20 48) →
          (portRec u p).shake.chain = false ∧ (portRec u p).shake.latest = leB 1 2 ++ zeros 1 ++ Config.certChain)) ∧
      (∀ q, q ≠ p → portRec u q = portRec s q) ∧ Only [.out, .vnl] s u)) ∧
  (∀ (p : Nat) (m : List Byte) (h : Nat × Nat × Nat) (x : Port) (s : State), nclkOn s = true → trainHead s p 2 = some m → x = portRec s p →
    x.shake.peerHello = some h →
    Completes (.hsCert p) s (fun u =>
      (if chainIs (m.drop 2) h.2.2 then
        (portRec u p).shake.chain = true ∧ (portRec u p).shake.peerHello = some h ∧
          (∀ e ∈ u.vnl.memoLinks, e.peer = x.peer → e.circuit = portCircuit s p → e.digest = h.2.2)
      else (portRec u p).shake = { dead := true } ∧ (portRec u p).reason = 0x0A) ∧
      (portRec u p).train = x.train.drop 1 ∧ (∀ q, q ≠ p → portRec u q = portRec s q) ∧ Only [.out, .vnl] s u)) ∧
  (∀ (p : Nat) (m : List Byte) (x : Port) (s : State), nclkOn s = true → trainHead s p 3 = some m → x = portRec s p →
    Completes (.hsToken p) s (fun u =>
      (portRec u p).shake.peerTok = (m.drop 2).take 160 ∧ (portRec u p).train = x.train.drop 1 ∧
      (x.shake.chain = true → 2 < m.length → caveDown s = false → (portRec u p).shake.verifying = true) ∧
      (x.shake.chain = false ∨ caveDown s = true → (portRec u p).shake.verifying = x.shake.verifying) ∧
      (∀ q, q ≠ p → portRec u q = portRec s q) ∧ Only [.vnl] s u)) ∧
  (∀ (p : Nat) (m : List Byte) (x : Port) (s : State), nclkOn s = true → trainHead s p 4 = some m → x = portRec s p →
    Completes (.hsVerdict p) s (fun u =>
      (portRec u p).train = x.train.drop 1 ∧
      (fieldAt m 2 1 ≠ 0 → portRec u p = { x with train := x.train.drop 1, reason := fieldAt m 2 1, shake := { dead := true } }) ∧
      (fieldAt m 2 1 = 0 → x.shake.verified = true → tokenExpired s p = true →
        portRec u p = { x with train := x.train.drop 1, reason := 0x0B, shake := { dead := true } }) ∧
      (fieldAt m 2 1 = 0 → x.shake.verified = false ∨ (tokenExpired s p = false ∧ x.shake.issued = false) →
        (portRec u p).shake.peerOk = true ∧ (portRec u p).st = .hedged) ∧
      (fieldAt m 2 1 = 0 → tokenExpired s p = false → x.shake.issued = true → x.shake.verified = true → gateLocal s p = true → cannotIssue s p = none →
        (portRec u p).st = .opened ∧ (portRec u p).keys = true ∧ (portRec u p).rxCtr = 0 ∧ UpMsg.event 8 p 2 [] p 0 ∈ u.cel.up) ∧
      Only [.out, .hif, .vnl, .cel, .book] s u)) ∧
  (∀ (p : Nat) (m : List Byte) (x : Port) (s : State), nclkOn s = true → trainHead s p 5 = some m → x = portRec s p →
    Completes (.hsWait p) s (fun u =>
      portRec u p = { x with
        train := x.train.drop 1,
        shake := if memb (fieldAt x.shake.latest 0 1) [1, 2, 3] then { x.shake with latest := [] } else x.shake } ∧
      (∀ q, q ≠ p → portRec u q = portRec s q) ∧ Only [.vnl] s u)) ∧
  (∀ (p b k : Nat) (x : Port) (s : State), nclkOn s = true → x = portRec s p → x.st = .hedged → x.shake.signing = true →
    cannotIssue s p = none → portBind s p = some (b, k) →
    Completes (.tokenSignDone p) s (fun u =>
      (x.shake.verified = false ∨ x.shake.peerOk = false ∨ gateLocal s p = false →
        (portRec u p).shake.issued = true ∧ (portRec u p).shake.signing = false ∧ (portRec u p).st = .hedged ∧
        fieldAt (portRec u p).shake.latest 0 1 = 3 ∧ Only [.out, .vnl] s u) ∧
      (x.shake.verified = true → x.shake.peerOk = true → gateLocal s p = true →
        (portRec u p).st = .opened ∧ (portRec u p).keys = true ∧ (portRec u p).rxCtr = 0 ∧ (portRec u p).reason = 0 ∧
        UpMsg.event 8 p 2 [] p 0 ∈ u.cel.up ∧ Only [.out, .hif, .vnl, .cel, .book] s u))) ∧
  (∀ (p : Nat) (x : Port) (s : State), nclkOn s = true → x = portRec s p → x.st = .hedged → x.shake.verifying = true →
    x.shake.issued = false ∨ x.shake.peerOk = false →
    Completes (.tokenVerifyDone p) s (fun u =>
      (if tokenVerdict s p = 0 then
        (portRec u p).shake.verified = true ∧ (portRec u p).shake.verifying = false ∧ (portRec u p).st = .hedged
      else (portRec u p).shake = { dead := true } ∧ (portRec u p).reason = tokenVerdict s p) ∧
      (∀ q, q ≠ p → portRec u q = portRec s q) ∧ Only [.out, .vnl] s u)) ∧
  (∀ (p : Nat) (x : Port) (s : State), nclkOn s = true → x = portRec s p → x.st = .hedged → x.shake.verifying = true →
    x.shake.issued = true → x.shake.peerOk = true → cannotIssue s p = none →
    Completes (.tokenVerifyDone p) s (fun u =>
      (tokenVerdict s p = 0 → (portRec u p).st = .opened ∧ (portRec u p).keys = true ∧ (portRec u p).rxCtr = 0 ∧
        (portRec u p).reason = 0 ∧ UpMsg.event 8 p 2 [] p 0 ∈ u.cel.up) ∧
      (tokenVerdict s p ≠ 0 → (portRec u p).shake = { dead := true } ∧ (portRec u p).reason = tokenVerdict s p) ∧ Only [.out, .hif, .vnl, .cel, .book] s u)) ∧
  (∀ (p : Nat) (s : State), nclkOn s = true → (portRec s p).st = .hedged → (portRec s p).shake.active = true →
    (portRec s p).shake.waiting = none → (portRec s p).shake.latest ≠ [] →
    Completes (.handshakeResend p) s (fun u => s.out.length < u.out.length ∧ Only [.out] s u)) ∧
  (∀ (p : Nat) (s : State), nclkOn s = true → (portRec s p).st = .hedged → (portRec s p).shake.active = true →
    (portRec s p).shake.waiting.isSome = true → (portRec s p).shake.issued = false → cannotIssue s p = none → caveDown s = false →
    Completes (.handshakeResend p) s (fun u => (portRec u p).shake.signing = true ∧ (portRec u p).shake.waiting = none ∧ Only [.vnl] s u)) ∧
  (∀ (p : Nat) (s : State), nclkOn s = true → (portRec s p).st = .hedged → (portRec s p).shake.active = true →
    Completes (.handshakeTimeout p) s (fun u => portRec u p = { portRec s p with reason := 0x0D, shake := { dead := true } } ∧
      (∀ q, q ≠ p → portRec u q = portRec s q) ∧ Only [.vnl] s u)) ∧
  (∀ (p : Nat) (s : State), nclkOn s = true → (portRec s p).st = .hedged → (portRec s p).shake.dead = true →
    Completes (.handshakeRestart p) s (fun u =>
      (portRec u p).shake.active = true ∧ (portRec u p).shake.dead = false ∧
      (portRec u p).shake.challenge = (Config.freeValue 128 s.free).toNat ∧ u.free = s.free + 1 ∧
      fieldAt (portRec u p).shake.latest 0 1 = 1 ∧ (∀ q, q ≠ p → portRec u q = portRec s q) ∧ Only [.free, .out, .vnl] s u))

/-- Derived from R423 to R428, R433, R436, R437, R628 and R629 of 11 and 18: the freeze closes what the cycle staged; the image
goes to the standby and is acknowledged; the strobe of a frozen cycle numbers it, sends its batch and commits the waiting
records, one of an unfrozen cycle is an overrun; a batch of the die that holds OWN is applied once by its number; without one
the fault path runs. The model's choices it rests on: elapsed time is counted by the model's `tick` (log 51). Forms it says
complete: commitStrobe, cycleFreeze, imageReceive, imageAck, batchReceive, noBatchTimeout, hoursPersist. -/
def Obligations.TheControlCycle : Prop :=
  (∀ (done : Bool) (power energy dv : Nat) (fw : List FwOut) (s : State), s.dbg.frost = 0 →
    ownerOn s = false ∨ s.cel.frozen = true ∨ done = false →
    exec (.cycleFreeze done power energy dv fw) s = .next { s with pwr := { s.pwr with power := power, energy := s.pwr.energy + energy, volts := dv } }) ∧
  (∀ (power energy dv : Nat) (fw : List FwOut) (s : State), s.dbg.frost = 0 → ownerOn s = true → s.cel.frozen = false →
    s.cel.up.filter freshFault = [] →
    Completes (.cycleFreeze true power energy dv fw) s (fun u =>
      u.cel.frozen = true ∧ u.cel.closed = u.cel.staged.length ∧ s.cel.staged <+: u.cel.staged ∧ u.cel.up = s.cel.up ∧
      u.cel.imageGot = false ∧ u.cel.imageAcked = false ∧ u.cel.cycle = s.cel.cycle ∧
      u.pwr = { s.pwr with power := power, energy := s.pwr.energy + energy, volts := dv } ∧ Only [.vnl, .cel, .pwr] s u)) ∧
  (∀ s : State, s.dbg.frost = 0 → s.cel.frozen = true → (standbyDie s).isSome = true →
    exec (.imageReceive true) s = .next { s with cel := { s.cel with imageGot := true, linkSilent := false, linkAt := nowT s } }) ∧
  (∀ s : State, exec (.imageReceive false) s = .next s) ∧
  (∀ s : State, s.dbg.frost = 0 → s.cel.imageGot = true →
    exec .imageAck s = .next { s with cel := { s.cel with imageAcked := true, ownLinkSilent := false } }) ∧
  (∀ s : State, s.dbg.frost = 0 → ownerOn s = true → s.cel.frozen = true →
    Completes .commitStrobe s (fun u =>
      u.cel.cycle = s.cel.cycle + 1 ∧ u.cel.frozen = false ∧ u.cel.firstCycle = true ∧ u.cel.strobeTick = some s.tick ∧ u.cel.overRow = 0 ∧
      (s.pwr.clamp = false → u.cel.unacked = some ⟨s.cel.cycle + 1, (s.cel.staged.take s.cel.closed).filter inBatch, s.cel.own⟩ ∧
        (u.cel.own = s.cel.own → u.cel.batches = s.cel.batches ++ s.cel.again.toList
          ++ [⟨s.cel.cycle + 1, (s.cel.staged.take s.cel.closed).filter inBatch, s.cel.own⟩])) ∧
      (s.cel.staged = [] → s.cel.coldReset = false → s.grp.pend = [] → (synced s = true → s.cel.imageAcked = true) → s.cel.switchReq = false →
        s.err.resetOn = none → s.book.dropped = 0 → s.book.waiting.length ≤ 64 →
        u.book.head = s.book.head + s.book.waiting.length ∧ u.book.waiting = [] ∧
        u.book.hoursKept = (if s.book.hoursDue = true ∨ s.book.waiting ≠ [] then s.book.hours else s.book.hoursKept) ∧
        u.mram.regs = keptRegs s.regs ∧ u.mram.retained = s.pol.retained ∧ u.mram.bucket = s.rck.bucket))) ∧
  (∀ (old : Nat) (s : State), s.dbg.frost = 0 → ownerOn s = true → s.cel.frozen = true → s.cel.staged = [] → s.cel.coldReset = false →
    s.cel.own = old → old < 2 → s.cel.switchReq = true → dieState s (1 - old) = 4 → s.cel.imageAcked = true →
    Completes .commitStrobe s (fun u =>
      u.cel.own = 2 ∧ u.cel.gapTo = some (1 - old) ∧ dieState u old = 4 ∧ dieState u (1 - old) = 5 ∧ u.cel.switchReq = false ∧
      u.cel.batches = [])) ∧
  (∀ s : State, s.dbg.frost = 0 → ownerOn s = true → s.cel.frozen = false → s.cel.overRow < 2 →
    Completes .commitStrobe s (fun u =>
      u.cel.overRow = s.cel.overRow + 1 ∧ u.cel.overruns = satAdd 32 s.cel.overruns 1 ∧ u.cel.cycle = s.cel.cycle ∧
      u.cel.staged = s.cel.staged ∧ u.cel.batches = s.cel.batches ∧ u.cel.own = s.cel.own ∧ Only [.cel, .book] s u)) ∧
  (∀ (b : Batch) (r : List Batch) (ok : Bool) (s : State), s.dbg.frost = 0 → s.cel.batches = b :: r → ok = false ∨ b.die ≠ s.cel.own →
    exec (.batchReceive ok) s = .next { s with cel := { s.cel with batches := r } }) ∧
  (∀ (b : Batch) (r : List Batch) (s : State), s.dbg.frost = 0 → s.cel.batches = b :: r → b.die = s.cel.own →
    (∀ k, s.cel.lastApplied = some k → k < b.cycle) →
    Completes (.batchReceive true) s (fun u => u.cel.lastApplied = some b.cycle ∧ u.cel.batches = r ∧ u.cel.applySilent = false ∧
      (s.cel.unacked.map Batch.cycle = some b.cycle → u.cel.unacked = none))) ∧
  (∀ (b : Batch) (r : List Batch) (k : Nat) (s : State), s.dbg.frost = 0 → s.cel.batches = b :: r → b.die = s.cel.own →
    s.cel.lastApplied = some k → b.cycle ≤ k →
    Completes (.batchReceive true) s (fun u => u.cel.lastApplied = some k ∧ u.cel.batches = r ∧ Only [.cel] s u)) ∧
  (∀ s : State, s.dbg.frost = 0 → s.cel.applySilent = false →
    Completes .noBatchTimeout s (fun u => u.cel.applySilent = true ∧ u.err.fence = true ∧
      u.err.resetPend = (if s.err.resetOn.isSome then s.err.resetPend else some (s.err.resetPend.getD 0x0F)) ∧ u.cor.launches = [])) ∧
  (∀ s : State, s.dbg.frost = 0 → s.cel.own ≠ 2 → exec .hoursPersist s = .next { s with book := { s.book with hoursDue := true } })

/-- Derived from R429 to R436 and R638 of 11 and 18: a switchover waits for a SYNCED standby; a silent path alarms, both silent
make the standby take over, hot when SYNCED, else cold with the book's head raised, or leave the pair alone; a fault releases
OWN; the interlock grants it after the gap; a standby boots, syncs and is SYNCED; a KEEPALIVE edge is heard. Forms it says
complete: switchover, restartStandby, pathSilence, watchdogExpiry, cellarerUe, ownGrant, ownDefaultTimeout, standbySyncDone,
keepaliveEdge, standbyCycle, standbyBootDone. -/
def Obligations.ThePair : Prop :=
  (∀ (acc : Acc) (s : State), blockOpen s acc 11 = true → s.cel.own ≠ 2 → synced s = true →
    exec (.switchover acc) s = .next { s with cel := { s.cel with switchReq := true } }) ∧
  (∀ (acc : Acc) (s : State), synced s = false → exec (.switchover acc) s = .next s) ∧
  (∀ (acc : Acc) (s : State), blockOpen s acc 11 = true → s.cel.own < 2 →
    Completes (.restartStandby acc) s (fun u =>
      dieState u (1 - s.cel.own) = 1 ∧ dieState u s.cel.own = dieState s s.cel.own ∧ u.cel.own = s.cel.own ∧ u.cel.solo = true ∧
      u.cel.switchReq = false ∧
      (dieState s (1 - s.cel.own) = 4 → ∃ x, u.cel.stale = some x ∧ x.book = s.book ∧ x.mram = s.mram ∧ x.pol = s.pol) ∧ Only [.cel] s u)) ∧
  (∀ (ka : Bool) (d : Nat) (s : State), s.dbg.frost = 0 → standbyDie s = some d →
    (if ka then s.cel.linkSilent else s.cel.kaSilent) = true →
    Completes (.pathSilence false ka) s (fun u =>
      u.cel.own = 2 ∧ u.cel.gapTo = some d ∧ dieState u d = 5 ∧ dieState u (1 - d) = 6 ∧ u.cel.frozen = false ∧ u.cel.batches = [] ∧ u.tim.txq = [] ∧
      (dieState s d = 4 → u.cel.hot = satAdd 16 s.cel.hot 1 ∧ u.cel.again = unackedBatch d s ∧ u.cel.cycle = s.cel.cycle) ∧
      (dieState s d ≠ 4 → u.cel.cold = satAdd 16 s.cel.cold 1 ∧ u.cel.coldReset = true ∧ u.cel.unacked = none ∧
        u.book.head = ((match s.cel.stale with | some x => x.book.head | none => s.book.head) / 2 ^ 40 + 1) * 2 ^ 40) ∧
      Only [.regs, .mram, .vnl, .stp, .cel, .pol, .pwr, .tim, .sec, .boot, .book] s u)) ∧
  (∀ (ka : Bool) (d : Nat) (s : State), s.dbg.frost = 0 → standbyDie s = some d → s.cel.linkSilent = false → s.cel.kaSilent = false →
    Completes (.pathSilence false ka) s (fun u => u.cel.linkSilent = !ka ∧ u.cel.kaSilent = ka ∧ u.cel.own = s.cel.own ∧ Only [.cel, .book] s u)) ∧
  (∀ (ka : Bool) (d : Nat) (s : State), s.dbg.frost = 0 → standbyDie s = some d → s.cel.own ≠ 2 → d < 2 →
    Completes (.pathSilence true ka) s (fun u =>
      (if ka then u.cel.ownKaSilent else u.cel.ownLinkSilent) = true ∧ u.cel.own = s.cel.own ∧
      ((if ka then s.cel.ownLinkSilent else s.cel.ownKaSilent) = true → dieState u d = 2) ∧
      ((if ka then s.cel.ownLinkSilent else s.cel.ownKaSilent) = false → dieState u d = dieState s d) ∧ Only [.cel, .book] s u)) ∧
  (∀ (c : Instr) (d : Nat) (s : State), c ∈ [Instr.watchdogExpiry, .cellarerUe] → s.dbg.frost = 0 → s.cel.own = d → d < 2 →
    Completes c s (fun u =>
      u.cel.own = 2 ∧ dieState u d = 6 ∧ u.cel.frozen = false ∧ u.cel.hot = satAdd 16 s.cel.hot 1 ∧
      (dieState s (1 - d) = 4 → u.cel.gapTo = some (1 - d) ∧ dieState u (1 - d) = 5 ∧ u.cel.again = unackedBatch (1 - d) s) ∧
      (dieState s (1 - d) ≠ 4 → u.cel.gapTo = none ∧ dieState u (1 - d) = dieState s (1 - d)) ∧ Only [.cel, .tim, .book] s u)) ∧
  (∀ (d : Nat) (s : State), s.dbg.frost = 0 → s.cel.gapTo = some d → s.boot.updWait = [] →
    exec .ownGrant s = .next { s with cel := { s.cel with own := d, gapTo := none } }) ∧
  (∀ s : State, s.cel.gapTo = none → exec .ownGrant s = .next s) ∧
  (∀ s : State, s.dbg.frost = 0 → s.cel.own = 0 → s.cel.requested = false →
    exec .ownDefaultTimeout s = .next { s with cel := { s.cel with requested := true, own := 2, gapTo := some 1 } }) ∧
  (∀ s : State, s.cel.requested = true → exec .ownDefaultTimeout s = .next s) ∧
  (∀ (d : Nat) (s : State), s.dbg.frost = 0 → d < 2 → dieState s d = 1 → dieState s (1 - d) = 5 →
    Completes .standbyBootDone s (fun u => dieState u d = 3 ∧ dieState u (1 - d) = 5 ∧ u.cel.linkSilent = false ∧ u.cel.kaSilent = false ∧ Only [.cel] s u)) ∧
  (∀ (d : Nat) (s : State), s.dbg.frost = 0 → d < 2 → dieState s d = 3 → dieState s (1 - d) ≠ 3 →
    Completes .standbySyncDone s (fun u => dieState u d = 4 ∧ dieState u (1 - d) = dieState s (1 - d) ∧ u.cel.solo = false ∧ u.cel.stale = none ∧
      Only [.cel, .book] s u)) ∧
  (∀ s : State, s.dbg.frost = 0 → exec (.keepaliveEdge true) s = .next { s with cel := { s.cel with ownKaSilent := false } }) ∧
  (∀ s : State, s.dbg.frost = 0 → exec (.keepaliveEdge false) s = .next { s with cel := { s.cel with kaSilent := false, kaAt := nowT s } }) ∧
  (∀ s : State, exec .standbyCycle s = .next s)

/-- Derived from R301, R438, R439, R449, R521 and R555 of 07, 11 and 15: an authentic service frame not seen before is taken
once and any other ignored: a heartbeat is heard and judged, a notice waits for policy firmware, a diverted control flit joins
the inbox; the port answers for its own address only; silence is judged; a port timer and a cleared margin report to the owner.
The model's choices it rests on: what leaves the module stands in the model's own list `out` (log 53); messages that the links
deliver wait in the model's inbox (log 99). Forms it says complete: svcHeartbeatTimer, svcHeartbeat, svcNotice, svcDivert,
arpRequest, neighborSolicitation, icmpEcho, ntpResponse, peerLinkSilence, peerSvcSilence, portTimerExpiry, wiltMarginClear. -/
def Obligations.TheServicePort : Prop :=
  (∀ s : State, s.dbg.frost = 0 → s.cel.own ≠ 2 → bitW (cset s .cel 0 0) 31 = true →
    exec .svcHeartbeatTimer s = .next { s with cel := { s.cel with staged := s.cel.staged ++ [.frame 1 none none (hbBody s)] } }) ∧
  (∀ (frame body : List Byte) (e m : Nat) (s : State), s.dbg.frost = 0 → body.length = 16 → m = fieldAt frame 4 3 → svcOf s m = some e →
    Completes (.svcHeartbeat frame body) s (fun u =>
      (if frameOk s 1 frame body = true then
        memb (fieldAt frame 8 8) (Map.get [] u.pol.seen m) = true ∧ (peerRec u e).heard = true ∧ (peerRec u e).svcSilent = false ∧
        (peerRec u e).hbAt = some (nowT s) ∧ (peerRec u e).wilting = bitOf (fieldAt body 0 1) 1 ∧ (peerRec u e).verdict = verdictOf u m e
      else u = s) ∧ Only [.out, .hif, .cel, .pol, .book] s u)) ∧
  (∀ (frame body : List Byte) (s : State), s.dbg.frost = 0 →
    Completes (.svcNotice frame body) s (fun u =>
      (if frameOk s 2 frame body = true then
        u.pol.notices = s.pol.notices ++ [(fieldAt frame 4 3, body)] ∧ memb (fieldAt frame 8 8) (Map.get [] u.pol.seen (fieldAt frame 4 3)) = true
      else u = s) ∧ Only [.pol] s u)) ∧
  (∀ (frame body env plain : List Byte) (b k p off ctr : Nat) (x : Port) (s : State), s.dbg.frost = 0 → x = portRec s p →
    (allSlots s).find? (fun q => decide (bindParcel s q.1 = fieldAt body 0 2) && decide (nbrMod s q.1 q.2 = some (fieldAt frame 4 3))) = some (b, k) →
    fieldAt body 3 1 = 1 → env = (body.drop 4).take 288 → env.length = 288 → fieldAt env 284 4 = (crc32c (env.take 284)).toNat →
    bitOf (fieldAt env 280 4) 16 = false → fieldAt env 0 1 % 16 = 2 ∨ (fieldAt env 0 1 % 16 = 1 ∧ bitsOf (fieldAt env 0 1) 5 4 = 0) → slotPorts s b k = [p] → x.keys = true →
    off = (fieldAt env 4 2 % 4096 + 4096 - x.rxCtr % 4096) % 4096 → off < 2048 → ctr = x.rxCtr + off → memb ctr x.diverted = false →
    x.diverted.length < 64 → bitOf (fieldAt env 1 1) 0 = true → bitOf (fieldAt env 1 1) 1 = true → fieldAt env 2 2 = bindCoord s b →
    Completes (.svcDivert frame body [plain]) s (fun u =>
      (if frameOk s 3 frame body = true ∧ flitAuth (rxKey s p (ctr / 2 ^ 32)) x.peer x.peerPort ctr env plain = true then
        u.vnl.inbox = s.vnl.inbox ++ [(b, plain)] ∧ (portRec u p).diverted = x.diverted ++ [ctr] ∧ (portRec u p).rxCtr = x.rxCtr
      else u.vnl = s.vnl) ∧ Only [.vnl, .pol] s u)) ∧
  (∀ (src target : Nat) (s : State), s.dbg.frost = 0 → s.cel.own ≠ 2 → target < 2 ^ 32 → selfAddr s = 0xFFFF * 2 ^ 32 + target →
    exec (.arpRequest src target) s = .next { s with out := .svc 2 src (leB 6 Config.svcMac.toNat ++ leB 4 target) :: s.out }) ∧
  (∀ (src target : Nat) (s : State), s.dbg.frost = 0 → s.cel.own ≠ 2 → 0 < target → target < 2 ^ 128 → selfAddr s = target →
    exec (.neighborSolicitation src target) s = .next { s with out := .svc 3 src (leB 6 Config.svcMac.toNat ++ leB 16 target) :: s.out }) ∧
  (∀ (src target : Nat) (data : List Byte) (s : State), s.dbg.frost = 0 → s.cel.own ≠ 2 → 0 < target → target < 2 ^ 128 → selfAddr s = target →
    exec (.icmpEcho src target data) s = .next { s with out := .svc 4 src data :: s.out }) ∧
  (∀ (src target : Nat) (data : List Byte) (s : State), target < 2 ^ 128 → selfAddr s ≠ target →
    exec (.neighborSolicitation src target) s = .next s ∧ exec (.icmpEcho src target data) s = .next s) ∧
  (∀ (bytes : List Byte) (s : State), s.dbg.frost = 0 → s.cel.own ≠ 2 →
    exec (.ntpResponse bytes) s = .next { s with pol := { s.pol with ntpIn := some (nowT s, bytes) } }) ∧
  (∀ (b k m key : Nat) (s : State), s.dbg.frost = 0 → (b, k) ∈ allSlots s → nbrMod s b k = some m → peerKey s m = some key →
    (peerRec s key).heard = true →
    Completes (.peerLinkSilence b k) s (fun u => memb (b * 16 + k) u.pol.slotSilent = true ∧ (peerRec u key).verdict = verdictOf u m key ∧
      Only [.out, .hif, .cel, .pol, .book] s u)) ∧
  (∀ (e m : Nat) (s : State), s.dbg.frost = 0 → e < 32 → svcNames s e = true → m = fldW (svcWord s e) 19 0 → svcOf s m = some e →
    (peerRec s e).heard = true →
    Completes (.peerSvcSilence e) s (fun u => (peerRec u e).svcSilent = true ∧ (peerRec u e).verdict = verdictOf u m e ∧
      Only [.out, .hif, .cel, .pol, .book] s u)) ∧
  (∀ (p : Nat) (s : State), s.dbg.frost = 0 → memb p s.pol.timers = true →
    exec (.portTimerExpiry p) s = .next { s with
      pol := { s.pol with timers := without p s.pol.timers }, cel := { s.cel with up := s.cel.up ++ [.event 8 p 4 [] p 0] } }) ∧
  (∀ (p : Nat) (w : Wilt) (s : State), s.dbg.frost = 0 → w ∈ s.pol.wilts → w.kind = 1 → w.subject = p →
    Completes (.wiltMarginClear p) s (fun u =>
      u.pol.wilts = s.pol.wilts.filter (fun w => decide (w.kind ≠ 1) || decide (w.subject ≠ p)) ∧
      u.cel.up = s.cel.up ++ [.event 7 0 5 [] p 1] ∧ Only [.cel, .pol, .book] s u))

/-- Derived from R555, R562 and R564 to R568 of 15: a lifecycle command allowed in the lifecycle is decided by its token, and
has its effect or none; one not allowed is refused with reason 5; every command draws a new nonce. CLOSE, and the expiry of the
token, tear every tenant down and reset the module once all are FREE; a tenant zeroized returns to FREE with its groups at
their reset values. The model's choices it rests on: what leaves the module stands in the model's own list `out` (log 53); a
value the spec leaves open is Config.freeValue of the model's counter `free` (log 52). Forms it says complete: secOpen,
secClose, secClearRetire, secSeal, secRetire, tenantZeroizeDone, openedExpiry, serviceKeyGraceEnd. -/
def Obligations.LifecycleCommands : Prop :=
  (∀ (c : Instr) (cmd : Nat) (acc : Acc) (tok : List Byte) (s : State),
    (c, cmd) ∈ [(Instr.secOpen acc (some tok), 1), (.secSeal acc (some tok), 4), (.secRetire acc (some tok), 5)] →
    grpReach s .secCmd acc 0 = true → blockOpen s acc 15 = true → fldW (shadowReg s .secCmd acc 0 0) 2 0 = 0 →
    (shadowReg s .secCmd acc 0 2).toNat = 4691 → lifeAllows s cmd = true → caveDown s = false →
    Completes c s (fun u =>
      u.sec.nonce = (Config.freeValue 128 s.free).toNat ∧ u.free = s.free + 1 ∧ cstatOf u .secCmd acc 0 = (cOK, 0) ∧
      (if tokenReason s cmd tok = 0 then
        u.sec.cmdReason = 0 ∧
        (cmd = 1 → u.sec.life = .opened ∧ u.sec.caps = fieldAt tok 2 2 % 128 ∧ u.sec.notAfter = fieldAt tok 16 8 ∧ u.rck = s.rck) ∧
        (cmd = 4 → u.sec.life = s.sec.life ∧ u.sec.sealTaken = true ∧ u.rck = s.rck) ∧
        (cmd = 5 → u.sec.life = .retired ∧ u.sec.uds = false ∧ u.rck.slot0 = {} ∧ u.rck.slot1 = {})
      else u.sec.cmdReason = tokenReason s cmd tok ∧ u.sec.life = s.sec.life ∧ u.sec.uds = s.sec.uds ∧ u.rck = s.rck) ∧
      Only [.free, .grp, .rck, .sec, .book] s u)) ∧
  (∀ (c : Instr) (cmd : Nat) (acc : Acc) (tok : List Byte) (s : State),
    (c, cmd) ∈ [(Instr.secOpen acc (some tok), 1), (.secClose acc, 2), (.secClearRetire acc, 3), (.secSeal acc (some tok), 4),
      (.secRetire acc (some tok), 5)] →
    grpReach s .secCmd acc 0 = true → blockOpen s acc 15 = true → fldW (shadowReg s .secCmd acc 0 0) 2 0 = 0 →
    cmd = 2 ∨ cmd = 3 ∨ (shadowReg s .secCmd acc 0 2).toNat = 4691 → lifeAllows s cmd = false →
    Completes c s (fun u =>
      u.sec.cmdReason = 5 ∧ cstatOf u .secCmd acc 0 = (cDENIED, Grp.selOffset .secCmd 0) ∧ u.sec.life = s.sec.life ∧
      u.sec.nonce = (Config.freeValue 128 s.free).toNat ∧ Only [.free, .grp, .sec, .book] s u)) ∧
  (∀ (acc : Acc) (q : Nat) (s : State), grpReach s .secCmd acc 0 = true → blockOpen s acc 15 = true →
    fldW (shadowReg s .secCmd acc 0 0) 2 0 = 0 → s.sec.life = .opened → caveDown s = false →
    (tenRec s q).st = .active ∨ (tenRec s q).st = .quarantine →
    Completes (.secClose acc) s (fun u => u.sec.closing = true ∧ ∀ t, (tenRec s t).st ≠ .free → (tenRec u t).st = .teardown)) ∧
  (∀ (acc : Acc) (s : State), grpReach s .secCmd acc 0 = true → blockOpen s acc 15 = true → fldW (shadowReg s .secCmd acc 0 0) 2 0 = 0 →
    s.sec.life = .opened → caveDown s = false → boundTens s = [] → s.sec.zero = [] →
    Completes (.secClose acc) s (fun u => u.sec.life = .sealed ∧ u.sec.closing = false ∧ u.boot.cause = 3 ∧ u.hif = {} ∧
      u.rck = keptRck s.rck.bucket s.rck.total s.rck)) ∧
  (∀ (acc : Acc) (s : State), grpReach s .secCmd acc 0 = true → blockOpen s acc 15 = true → fldW (shadowReg s .secCmd acc 0 0) 2 0 = 0 →
    s.sec.life = .opened → caveDown s = false → hasCap s 6 = true →
    Completes (.secClearRetire acc) s (fun u => u.pln = { s.pln with retire := 0 } ∧ u.sec.life = .opened ∧ Only [.free, .grp, .pln, .sec] s u)) ∧
  (∀ (q : Nat) (s : State), s.dbg.frost = 0 → s.sec.life = .opened → s.sec.notAfter ≤ s.tim.s → s.sec.closing = false →
    (tenRec s q).st = .active ∨ (tenRec s q).st = .quarantine →
    Completes .openedExpiry s (fun u => u.sec.closing = true ∧ ∀ t, (tenRec s t).st ≠ .free → (tenRec u t).st = .teardown)) ∧
  (∀ s : State, s.dbg.frost = 0 → s.sec.life = .opened → s.sec.notAfter ≤ s.tim.s → s.sec.closing = false → boundTens s = [] → s.sec.zero = [] →
    Completes .openedExpiry s (fun u => u.sec.life = .sealed ∧ u.boot.cause = 3 ∧ u.hif = {} ∧ u.rck = keptRck s.rck.bucket s.rck.total s.rck)) ∧
  (∀ s : State, s.tim.s < s.sec.notAfter → exec .openedExpiry s = .next s) ∧
  (∀ (t : Nat) (s : State), s.dbg.frost = 0 → (tenRec s t).st = .teardown → tenReads s t = 0 → s.sec.closing = false →
    Completes (.tenantZeroizeDone t) s (fun u =>
      (tenRec u t).st = .free ∧ Map.find u.sec.zero t = none ∧
      (∀ g ∈ tenGrps, ∀ i, i < 512 → cset u g t i = g.reset s.half i) ∧
      (∀ q, q ≠ t → tenRec u q = tenRec s q) ∧ Only [.grp, .cor, .stp, .rck, .sec, .hif, .book, .out, .vnl] s u)) ∧
  (∀ (t : Nat) (s : State), s.dbg.frost = 0 → (tenRec s t).st = .teardown → tenReads s t = 0 → s.sec.closing = true → Map.del s.sec.zero t = [] →
    Completes (.tenantZeroizeDone t) s (fun u => u.boot.cause = 3 ∧ u.hif = {} ∧ u.sec.closing = false)) ∧
  (∀ s : State, s.dbg.frost = 0 → exec .serviceKeyGraceEnd s = .next { s with sec := { s.sec with svcPrev := none } })

/-- Derived from R546, R549, R550 and Table 15.2 of 15: a Cave in error answers every SPDM request with ERROR; else the version
begins the connection, capabilities and algorithms follow it, the chain's digest and parts, signed challenges and the
measurements are answered once the algorithms stand, sessions are made, finished, updated and ended, and large messages go in
chunks. The model's choices it rests on: what leaves the module stands in the model's own list `out` (log 53); a value the spec
leaves open is Config.freeValue of the model's counter `free` (log 52); ciphers, keys and signatures are Config's opaque
functions (log 87). Forms it says complete: getVersion, getCapabilities, negotiateAlgorithms, getDigests, getCertificate,
spdmChallenge, getMeasurements, keyExchange, spdmFinish, endSession, spdmHeartbeat, keyUpdate, chunkSend, chunkGet, ideQuery.
-/
def Obligations.SpdmRequests : Prop :=
  (∀ (c : Instr) (id i slot off len : Nat) (a : Bool) (b : List Byte) (s : State), s.dbg.frost = 0 → caveDown s = true →
    c ∈ [Instr.getVersion, .getCapabilities, .negotiateAlgorithms a, .getDigests, .getCertificate slot off len, .spdmChallenge slot b,
      .getMeasurements i a b, .keyExchange id slot b, .spdmFinish id a, .endSession id, .spdmHeartbeat id, .keyUpdate id a, .chunkSend a b,
      .chunkGet off len, .ideQuery id] →
    exec c s = .next { s with out := .spdm .error (leB 1 4) :: s.out }) ∧
  (∀ s : State, s.dbg.frost = 0 → caveDown s = false →
    exec .getVersion s = .next { s with
      out := .spdm .version [0x12, 0x13] :: s.out, sec := { s.sec with spdm := 1, sessions := [], chunk := [], chunkOut := [0x12, 0x13] } }) ∧
  (∀ s : State, s.dbg.frost = 0 → caveDown s = false → 1 ≤ s.sec.spdm →
    exec .getCapabilities s = .next { s with out := .spdm .capabilities [] :: s.out, sec := { s.sec with spdm := max 2 s.sec.spdm, chunkOut := [] } }) ∧
  (∀ s : State, s.dbg.frost = 0 → caveDown s = false → s.sec.spdm = 0 → exec .getCapabilities s = .next { s with out := .spdm .error (leB 1 4) :: s.out }) ∧
  (∀ s : State, s.dbg.frost = 0 → caveDown s = false → 2 ≤ s.sec.spdm →
    exec (.negotiateAlgorithms true) s = .next { s with out := .spdm .algorithms [] :: s.out, sec := { s.sec with spdm := 3, chunkOut := [] } }) ∧
  (∀ s : State, s.dbg.frost = 0 → caveDown s = false → exec (.negotiateAlgorithms false) s = .next { s with out := .spdm .error (leB 1 4) :: s.out }) ∧
  (∀ (first : Bool) (part : List Byte) (s : State), s.dbg.frost = 0 → caveDown s = false → 2 ≤ s.sec.spdm →
    exec (.chunkSend first part) s = .next { s with
      out := .spdm .chunkSend [] :: s.out, sec := { s.sec with chunk := (if first then [] else s.sec.chunk) ++ part } }) ∧
  (∀ (off len : Nat) (s : State), s.dbg.frost = 0 → caveDown s = false → 2 ≤ s.sec.spdm →
    exec (.chunkGet off len) s = .next { s with out := .spdm .chunk ((s.sec.chunkOut.drop off).take len) :: s.out }) ∧
  (∀ s : State, s.dbg.frost = 0 → caveDown s = false → s.sec.spdm = 3 →
    exec .getDigests s = .next { s with
      out := .spdm .digests (leB 48 Config.chainDigest.toNat) :: s.out, sec := { s.sec with chunkOut := leB 48 Config.chainDigest.toNat } }) ∧
  (∀ (off len : Nat) (s : State), s.dbg.frost = 0 → caveDown s = false → s.sec.spdm = 3 →
    exec (.getCertificate 0 off len) s = .next { s with
      out := .spdm .certificate ((Config.certChain.drop off).take len) :: s.out,
      sec := { s.sec with chunkOut := (Config.certChain.drop off).take len } }) ∧
  (∀ (slot off len : Nat) (s : State), s.dbg.frost = 0 → caveDown s = false → slot ≠ 0 →
    exec (.getCertificate slot off len) s = .next { s with out := .spdm .error (leB 1 4) :: s.out }) ∧
  (∀ (req : List Byte) (s : State), s.dbg.frost = 0 → caveDown s = false → s.sec.spdm = 3 →
    Completes (.spdmChallenge 0 req) s (fun u => ∃ b, u.out = .spdm .challengeAuth b :: s.out ∧ b.length = 176 ∧
      b.take 80 = leB 48 Config.chainDigest.toNat ++ leB 32 (Config.freeValue 256 s.free).toNat ∧
      b.drop 80 = leB 96 (Config.sign (Config.sha384 (req ++ b.take 80))).toNat ∧
      u.free = s.free + 1 ∧ u.sec = { s.sec with chunkOut := b } ∧ Only [.free, .out, .sec] s u)) ∧
  (∀ (i : Nat) (blk req : List Byte) (s : State), s.dbg.frost = 0 → caveDown s = false → s.sec.spdm = 3 → i ≤ 8 ∨ i = 255 →
    blk = (if i = 0 then leB 1 8 else if i = 255 then (List.range 8).flatMap (fun k => measBlock s (k + 1)) else measBlock s i) →
    exec (.getMeasurements i false req) s = .next { s with out := .spdm .measurements blk :: s.out, sec := { s.sec with chunkOut := blk } }) ∧
  (∀ (i : Nat) (blk body req : List Byte) (s : State), s.dbg.frost = 0 → caveDown s = false → s.sec.spdm = 3 → i ≤ 8 ∨ i = 255 →
    blk = (if i = 0 then leB 1 8 else if i = 255 then (List.range 8).flatMap (fun k => measBlock s (k + 1)) else measBlock s i) →
    body = blk ++ leB 32 (Config.freeValue 256 s.free).toNat →
    Completes (.getMeasurements i true req) s (fun u =>
      u.out = .spdm .measurements (body ++ leB 96 (Config.sign (Config.sha384 (req ++ body))).toNat) :: s.out ∧ u.free = s.free + 1 ∧
      Only [.free, .out, .sec] s u)) ∧
  (∀ (id : Nat) (req : List Byte) (s : State), s.dbg.frost = 0 → caveDown s = false → s.sec.spdm = 3 → s.sec.sessions.length < 4 → sessionAt s id = none →
    Completes (.keyExchange id 0 req) s (fun u =>
      u.sec.sessions = s.sec.sessions ++ [{ id := id, phase := 1 }] ∧ (∃ b, u.out = .spdm .keyExchange b :: s.out) ∧ u.free = s.free + 1 ∧
      Only [.free, .out, .sec] s u)) ∧
  (∀ (id : Nat) (req : List Byte) (s : State), s.dbg.frost = 0 → caveDown s = false → 4 ≤ s.sec.sessions.length →
    exec (.keyExchange id 0 req) s = .next { s with out := .spdm .error (leB 1 4) :: s.out }) ∧
  (∀ (id : Nat) (x : Session) (s : State), s.dbg.frost = 0 → caveDown s = false → sessionAt s id = some x → x.phase = 1 →
    Completes (.spdmFinish id true) s (fun u => sessionAt u id = some { x with phase := 2 } ∧ u.out = .spdm .finish [] :: s.out ∧
      Only [.out, .sec] s u)) ∧
  (∀ (id : Nat) (s : State), s.dbg.frost = 0 → caveDown s = false → exec (.spdmFinish id false) s = .next { s with out := .spdm .error (leB 1 4) :: s.out }) ∧
  (∀ (id : Nat) (x : Session) (s : State), s.dbg.frost = 0 → caveDown s = false → sessionAt s id = some x → x.phase = 2 →
    Completes (.endSession id) s (fun u => sessionAt u id = none ∧ (∀ q, q ≠ id → sessionAt u q = sessionAt s q) ∧
      u.out = .spdm .endSession [] :: s.out ∧ Only [.out, .sec] s u)) ∧
  (∀ (id : Nat) (x : Session) (s : State), s.dbg.frost = 0 → caveDown s = false → sessionAt s id = some x → x.phase = 2 →
    exec (.spdmHeartbeat id) s = .next { s with out := .spdm .heartbeat [] :: s.out, sec := { s.sec with chunkOut := [] } }) ∧
  (∀ (id : Nat) (both : Bool) (x : Session) (s : State), s.dbg.frost = 0 → caveDown s = false → sessionAt s id = some x → x.phase = 2 →
    Completes (.keyUpdate id both) s (fun u =>
      sessionAt u id = some { x with reqKey := x.reqKey + 1, rspKey := if both then x.rspKey + 1 else x.rspKey } ∧
      u.out = .spdm .keyUpdate [] :: s.out ∧ Only [.out, .sec] s u))

/-- Derived from R550, R551 and Table 15.3 of 15: in a secured session the streams of IDE are asked for, keyed, started and
stopped, and a TDI is locked in Sealed with a fresh nonce, reported, started with that nonce, and stopped, its tenants in
TEARDOWN. The model's choices it rests on: what leaves the module stands in the model's own list `out` (log 53); a value the
spec leaves open is Config.freeValue of the model's counter `free` (log 52). Forms it says complete: ideQuery, keyProg, kSetGo,
kSetStop, getTdispVersion, getTdispCapabilities, lockInterface, getDeviceInterfaceReport, getDeviceInterfaceState,
startInterface, stopInterface. -/
def Obligations.IdeAndTdisp : Prop :=
  (∀ (id : Nat) (s : State), s.dbg.frost = 0 → caveDown s = false → sessionOk s id = true →
    Completes (.ideQuery id) s (fun u => u.out = .spdm .ideQuery ((List.range 9).flatMap (fun k => leB 1 (Map.get 0 s.sec.ide k))) :: s.out ∧
      u.sec.ide = s.sec.ide ∧ Only [.out, .sec] s u)) ∧
  (∀ (id k : Nat) (s : State), s.dbg.frost = 0 → caveDown s = false → sessionOk s id = true → k ≤ 8 →
    Completes (.keyProg id k) s (fun u => Map.get 0 u.sec.ide k = max 1 (Map.get 0 s.sec.ide k) ∧
      (∀ q, q ≠ k → Map.get 0 u.sec.ide q = Map.get 0 s.sec.ide q) ∧ u.out = .spdm .ideKp (leB 1 k) :: s.out ∧ Only [.out, .sec] s u)) ∧
  (∀ (id k : Nat) (s : State), s.dbg.frost = 0 → caveDown s = false → sessionOk s id = true → k ≤ 8 → 1 ≤ Map.get 0 s.sec.ide k →
    Completes (.kSetGo id k) s (fun u => Map.get 0 u.sec.ide k = 2 ∧
      u.hif = { s.hif with ideLink := s.hif.ideLink || decide (k = 0) } ∧ (∀ q, q ≠ k → Map.get 0 u.sec.ide q = Map.get 0 s.sec.ide q) ∧
      u.out = .spdm .ideGo (leB 1 k) :: s.out ∧ Only [.hif, .out, .sec] s u)) ∧
  (∀ (id k : Nat) (s : State), s.dbg.frost = 0 → caveDown s = false → sessionOk s id = true → k ≤ 8 →
    Completes (.kSetStop id k) s (fun u => Map.get 0 u.sec.ide k = 0 ∧
      u.hif = { s.hif with ideLink := s.hif.ideLink && decide (k ≠ 0) } ∧ (∀ q, q ≠ k → Map.get 0 u.sec.ide q = Map.get 0 s.sec.ide q) ∧
      u.out = .spdm .ideStop (leB 1 k) :: s.out ∧ Only [.hif, .out, .sec] s u)) ∧
  (∀ (id k : Nat) (c : Instr) (s : State), s.dbg.frost = 0 → caveDown s = false → sessionOk s id = true → 8 < k → c ∈ [Instr.keyProg id k, .kSetGo id k, .kSetStop id k] →
    exec c s = .next { s with out := .spdm .error (leB 1 4) :: s.out }) ∧
  (∀ (id : Nat) (s : State), s.dbg.frost = 0 → caveDown s = false → sessionOk s id = true →
    exec (.getTdispVersion id) s = .next { s with out := .spdm .tdispVersion [0x10] :: s.out, sec := { s.sec with chunkOut := [0x10] } }) ∧
  (∀ (id : Nat) (s : State), s.dbg.frost = 0 → caveDown s = false → sessionOk s id = true →
    exec (.getTdispCapabilities id) s = .next { s with out := .spdm .tdispCapabilities [] :: s.out, sec := { s.sec with chunkOut := [] } }) ∧
  (∀ (id v : Nat) (s : State), s.dbg.frost = 0 → caveDown s = false → sessionOk s id = true → tdiIs s v = true →
    Completes (.getDeviceInterfaceState id v) s (fun u => u.out = .spdm .tdispState (leB 1 (tdiSt s v)) :: s.out ∧
      u.sec.tdi = s.sec.tdi ∧ Only [.out, .sec] s u)) ∧
  (∀ (id v : Nat) (s : State), s.dbg.frost = 0 → caveDown s = false → sessionOk s id = true → tdiIs s v = true → s.sec.life = .sealed → tdiSt s v = 0 →
    Completes (.lockInterface id v) s (fun u => tdiSt u v = 1 ∧
      Map.find u.sec.tdiNonce v = some (Config.freeValue 256 s.free).toNat ∧ (∀ q, q ≠ v → tdiSt u q = tdiSt s q) ∧
      u.out = .spdm .tdispLock (leB 32 (Config.freeValue 256 s.free).toNat) :: s.out ∧ u.free = s.free + 1 ∧ Only [.free, .out, .sec] s u)) ∧
  (∀ (id v : Nat) (s : State), s.dbg.frost = 0 → caveDown s = false → sessionOk s id = true → s.sec.life ≠ .sealed →
    exec (.lockInterface id v) s = .next { s with out := .spdm .tdispError [] :: s.out, sec := { s.sec with chunkOut := [] } }) ∧
  (∀ (id v : Nat) (s : State), s.dbg.frost = 0 → caveDown s = false → sessionOk s id = true → tdiIs s v = true → tdiSt s v = 1 ∨ tdiSt s v = 2 →
    Completes (.getDeviceInterfaceReport id v) s (fun u =>
      u.out = .spdm .tdispReport (leB 4 0x10000 ++ leB 4 0x100000 ++ leB 4 0x8000 ++ leB 4 0x9000) :: s.out ∧ u.sec.tdi = s.sec.tdi ∧
      Only [.out, .sec] s u)) ∧
  (∀ (id v n : Nat) (s : State), s.dbg.frost = 0 → caveDown s = false → sessionOk s id = true → tdiIs s v = true → tdiSt s v = 1 → Map.find s.sec.tdiNonce v = some n →
    Completes (.startInterface id v n) s (fun u => tdiSt u v = 2 ∧ Map.find u.sec.tdiNonce v = none ∧ u.out = .spdm .tdispStart [] :: s.out ∧
      (∀ q, q ≠ v → tdiSt u q = tdiSt s q) ∧ Only [.out, .sec] s u)) ∧
  (∀ (id v n : Nat) (s : State), s.dbg.frost = 0 → caveDown s = false → sessionOk s id = true → Map.find s.sec.tdiNonce v ≠ some n →
    exec (.startInterface id v n) s = .next { s with out := .spdm .tdispError [] :: s.out, sec := { s.sec with chunkOut := [] } }) ∧
  (∀ (id v : Nat) (s : State), s.dbg.frost = 0 → caveDown s = false → sessionOk s id = true → tdiIs s v = true → tdiSt s v = 0 →
    exec (.stopInterface id v) s = .next { s with out := .spdm .tdispStop [] :: s.out, sec := { s.sec with chunkOut := [] } }) ∧
  (∀ (id v : Nat) (s : State), s.dbg.frost = 0 → caveDown s = false → sessionOk s id = true → tdiIs s v = true → tdiSt s v ≠ 0 →
    Completes (.stopInterface id v) s (fun u =>
      Map.find u.sec.tdiNonce v = none ∧
      (tdiSt s v ≠ 1 → ∀ t, (tenRec s t).st ≠ .free → tenFn s t = v → (tenRec u t).st = .teardown) ∧
      ((∀ t ∈ boundTens s, tenFn s t ≠ v) → tdiSt u v = 0 ∧ u.hif = s.hif)))

/-- Derived from R431, R483, R502, R504, R564, R597 to R602 and R671 to R673 of 13, 15 and 17: power-on and the end of a reset
start B01; a lost input drops every rail but the Cellarer's and is told to the pair, in a reset it only clears its marks; the
run-down leaves Off, where the book and the retention array remain; a qualified input starts B05 or start-up anew; a reset
keeps what Table 17.1 lists, as the last commit left it in the retention array (log 154). The model's choices it rests on: what
leaves the module stands in the model's own list `out` (log 53); a value the spec leaves open is Config.freeValue of the
model's counter `free` (log 52); elapsed time is counted by the model's `tick` (log 51); a qualified input boots from Off as
power-on does (log 156). Forms it says complete: powerOn, auxRailLow, inputLow, inputOvervoltage, inputQualified, resetAssert,
resetRelease, holdUpRunDown. -/
def Obligations.RailsAndResets : Prop :=
  (∀ s : State, s.pwr.st = .off →
    Completes .powerOn s (fun u =>
      u.pwr.st = .standby ∧ u.pwr.auxRail = true ∧ u.cel.own = 0 ∧ u.cel.ca = 1 ∧ u.cel.cb = 1 ∧ u.boot.cause = 0 ∧
      u.boot.pwrCycles = satAdd 32 s.mram.pwrCycles 1 ∧ u.mem = [] ∧ u.hif = {} ∧ u.stp = {} ∧ u.cor = {} ∧ u.col = {} ∧
      u.rck = keptRck s.mram.bucket s.mram.total s.rck ∧ u.pln = keptPln s.mram.retire s.mram.stkTrips ∧
      u.vnl = { memoLinks := s.mram.memoLinks, memoRoutes := s.mram.memoRoutes } ∧ u.regs = s.mram.regs ∧
      u.grp = keptGroups s.half s.mram.wearCfg s.mram.bootCfg ∧ u.book.recs = s.book.recs ∧ u.book.head = s.book.head ∧
      u.book.hours = s.book.hoursKept ∧ u.sec.life = resetLife s.sec ∧ (Map.get 0 s.boot.fails 1 = 0 → u.boot.step = 1))) ∧
  (∀ s : State, s.pwr.st ≠ .off → exec .powerOn s = .next s) ∧
  (∀ (c : Instr) (s : State), c ∈ [Instr.inputLow, .inputOvervoltage] → s.pwr.st ≠ .off → s.pwr.input = true → s.boot.heldReset = true →
    exec c s = .next { s with pwr := { s.pwr with input := false, qualified := false } }) ∧
  (∀ (c : Instr) (s : State), c ∈ [Instr.inputLow, .inputOvervoltage] → s.pwr.st ≠ .off → s.pwr.input = true → s.boot.heldReset = false →
    earlyBoot s = true → exec c s = .next { s with
      pwr := { s.pwr with input := false, qualified := false }, cel := { s.cel with up := s.cel.up ++ [.inputLow] } }) ∧
  (∀ (c : Instr) (s : State), c ∈ [Instr.inputLow, .inputOvervoltage] → s.pwr.st ≠ .off → s.pwr.input = true → s.boot.heldReset = false →
    earlyBoot s = false →
    Completes c s (fun u =>
      u.pwr.input = false ∧ u.pwr.qualified = false ∧ u.pwr.st = s.pwr.st ∧ u.mem = [] ∧ u.hif = {} ∧ u.cor = {} ∧ u.stp = {} ∧ u.col = {} ∧
      u.rck = { keptRck s.rck.bucket s.rck.total s.rck with wearAt := s.rck.wearAt } ∧ u.pln = keptPln s.pln.retire (stkTrips s.pln) ∧
      u.vnl = { memoLinks := s.vnl.memoLinks, memoRoutes := s.vnl.memoRoutes } ∧ u.boot.ready = false ∧ u.boot.hostReady = false ∧
      u.cel.up = s.cel.up ++ [.inputLow] ∧
      Only [.mem, .hif, .pln, .cor, .vnl, .col, .stp, .rck, .cel, .err, .pwr, .sec, .dbg, .boot] s u)) ∧
  (∀ (c : Instr) (s : State), c ∈ [Instr.inputLow, .inputOvervoltage] → s.pwr.st = .off ∨ s.pwr.input = false → exec c s = .next s) ∧
  (∀ s : State, s.pwr.st ≠ .off → s.pwr.auxRail = true →
    Completes .auxRailLow s (fun u =>
      u.pwr.auxRail = false ∧ u.pwr.input = false ∧ u.pwr.qualified = false ∧ u.mem = [] ∧ u.hif = {} ∧ u.cor = {} ∧ u.boot.step = 0 ∧
      u.rck = { keptRck s.rck.bucket s.rck.total s.rck with wearAt := s.rck.wearAt } ∧ u.cel.up = s.cel.up ++ [.inputLow] ∧
      Only [.mem, .hif, .pln, .cor, .vnl, .col, .stp, .rck, .cel, .err, .pwr, .sec, .dbg, .boot] s u)) ∧
  (∀ s : State, s.pwr.auxRail = false → s.pwr.input = false → s.pwr.st ≠ .off →
    Completes .holdUpRunDown s (fun u =>
      u.pwr.st = .off ∧ u.cel.own = 2 ∧ u.cel.ca = 0 ∧ u.cel.cb = 0 ∧ u.cel.hot = s.cel.hot ∧ u.cel.cold = s.cel.cold ∧
      u.book = { s.book with waiting := [] } ∧ u.mram = s.mram ∧ u.tim = {} ∧ u.mem = [] ∧ u.hif = {} ∧
      u.rck = { keptRck s.rck.bucket s.rck.total s.rck with wearAt := s.rck.wearAt } ∧
      u.vnl = { memoLinks := s.vnl.memoLinks, memoRoutes := s.vnl.memoRoutes })) ∧
  (∀ s : State, s.pwr.auxRail = true ∨ s.pwr.input = true ∨ s.pwr.st = .off → exec .holdUpRunDown s = .next s) ∧
  (∀ s : State, s.pwr.st ≠ .off → s.pwr.qualified = false → s.boot.waitInput = true → bootPath s 5 = some 0 →
    Completes .inputQualified s (fun u =>
      u.pwr = { s.pwr with input := true, qualified := true } ∧ u.boot.waitInput = false ∧ u.boot.step = 5 ∧ u.boot.path = 0 ∧
      Only [.pwr, .boot, .book, .mram] s u)) ∧
  (∀ s : State, s.pwr.qualified = false → s.pwr.st = .off ∨ (s.boot.waitInput = false ∧ bootsAnew s = true) →
    Completes .inputQualified s (fun u =>
      u.pwr.input = true ∧ u.pwr.qualified = true ∧ u.pwr.st = .standby ∧ u.boot.cause = 0 ∧
      u.boot.pwrCycles = satAdd 32 s.mram.pwrCycles 1 ∧ u.cel.own = 0)) ∧
  (∀ s : State, s.pwr.st ≠ .off → s.pwr.qualified = false → s.boot.waitInput = false → bootsAnew s = false →
    exec .inputQualified s = .next { s with pwr := { s.pwr with input := true, qualified := true } }) ∧
  (∀ s : State, s.pwr.qualified = true → exec .inputQualified s = .next s) ∧
  (∀ s : State, s.pwr.st ≠ .off → s.boot.heldReset = false →
    Completes .resetAssert s (fun u =>
      u.boot.heldReset = true ∧ u.boot.cause = 1 ∧ u.mem = [] ∧ u.regs = s.mram.regs ∧ u.grp = keptGroups s.half s.mram.wearCfg s.mram.bootCfg ∧
      u.hif = {} ∧ u.pln = keptPln s.mram.retire s.mram.stkTrips ∧ u.cor = {} ∧
      u.vnl = { memoLinks := s.mram.memoLinks, memoRoutes := s.mram.memoRoutes } ∧ u.col = {} ∧ u.stp = {} ∧
      u.rck = keptRck s.mram.bucket s.mram.total s.rck ∧ u.tim = {} ∧
      u.sec.life = s.sec.life ∧ u.sec.nonce = (Config.freeValue 128 s.free).toNat ∧ u.free = s.free + 1 ∧ u.book.recs = s.book.recs ∧
      u.book.head = s.book.head ∧ u.book.hours = s.book.hoursKept ∧ u.tick = s.tick ∧ u.out = s.out)) ∧
  (∀ s : State, s.boot.heldReset = true →
    Completes .resetRelease s (fun u =>
      u.boot.heldReset = false ∧ u.cel.ca = 1 ∧ u.cel.cb = 1 ∧ u.sec.life = resetLife s.sec ∧ u.sec.sealTaken = false ∧
      (bootPath s 1 = some 0 → u.boot.step = 1 ∧ u.boot.path = 0) ∧ (bootPath s 1 = none → u.boot.halted = true ∧ u.boot.failStep = 1) ∧
      Only [.cel, .sec, .boot, .book, .mram] s u)) ∧
  (∀ s : State, s.boot.heldReset = false → exec .resetRelease s = .next s)

/-- Derived from R607 to R615 and R620 of 17: a step that passes is recorded with its effect and the next one starts; the last
makes the module ready; one that fails runs again after a reset, or halts start-up; a failure of B10 or B11 retires the module.
The model's choices it rests on: a ledger record is committed at once with every kept item (log 155). Forms it says complete:
bootStepDone, bootStepLimit. -/
def Obligations.BootSteps : Prop :=
  (∀ (k p unit mask : Nat) (ucie : Bool) (s : State), s.boot.step = k → k ∈ [1, 5, 6, 8, 9] → bootPath s (k + 1) = some p → p ≠ 3 →
    Completes (.bootStepDone 0 ucie unit mask) s (fun u =>
      u.boot.step = k + 1 ∧ u.boot.path = p ∧ Map.find u.boot.results k = some 0 ∧ u.boot.ldgSeq = s.boot.ldgSeq + 2 ∧
      u.mram.ldgSeq = s.boot.ldgSeq + 2 ∧
      (k = 1 → u.boot.b01Done = true ∧ dieState u (bootDie s) = 5) ∧ Only [.cel, .boot, .book, .mram] s u)) ∧
  (∀ (unit mask p : Nat) (ucie : Bool) (s : State), s.boot.step = 2 → s.boot.path = 0 → s.boot.trial = false →
    (slotFw s s.boot.activeSlot).data = [] → bitOf mask s.boot.activeSlot = true → bootPath s 3 = some p → p ≠ 3 →
    Completes (.bootStepDone 0 ucie unit mask) s (fun u =>
      u.boot.step = 3 ∧ u.boot.runSlot = s.boot.activeSlot ∧ Map.find u.boot.results 2 = some 0 ∧ Only [.boot, .book, .mram] s u)) ∧
  (∀ (unit mask : Nat) (ucie : Bool) (s : State), s.boot.step = 12 → bootPath s 13 = some 0 →
    Completes (.bootStepDone 0 ucie unit mask) s (fun u =>
      u.boot.step = 13 ∧ (∀ c, c < numCores s → (coreRec u c).st = (if memb c s.boot.fences ∨ bitOf mask c = true then .fenced else .idle)) ∧
      Only [.cor, .boot, .book, .mram] s u)) ∧
  (∀ (unit mask : Nat) (ucie : Bool) (s : State), s.boot.step = 13 →
    Completes (.bootStepDone 0 ucie unit mask) s (fun u =>
      u.boot.hostReady = true ∧ u.pwr.st = .full ∧ Map.find u.boot.results 13 = some 0)) ∧
  (∀ (c : Instr) (unit mask : Nat) (ucie : Bool) (s : State), s.boot.step = 14 →
    (c = .bootStepDone 0 ucie unit mask ∧ portsSettled s mask = true) ∨ c = .bootStepLimit unit mask →
    Completes c s (fun u =>
      u.boot.ready = true ∧ u.boot.step = 0 ∧ u.boot.attempt = 0 ∧ u.boot.fails = [] ∧
      u.boot.portsFenced = (List.range (numPorts s)).filter (bitOf mask) ∧
      (∀ p, p < numPorts s → bitOf mask p = true → portRec u p = {}) ∧ Only [.grp, .vnl, .boot, .book, .mram] s u)) ∧
  (∀ (c : Instr) (k res unit mask : Nat) (ucie : Bool) (s : State), s.boot.step = k → k ∈ [1, 5, 6, 8, 9, 13] →
    (c = .bootStepDone res ucie unit mask ∧ (res = 1 ∨ res = 5)) ∨ (c = .bootStepLimit unit mask ∧ res = 2) → 1 ≤ Map.get 0 s.boot.fails k →
    Completes c s (fun u =>
      u.boot.halted = true ∧ u.boot.failStep = k ∧ u.boot.failResult = res ∧ u.boot.step = 0 ∧ Map.find u.boot.results k = some res ∧
      Only [.err, .boot, .book, .mram] s u)) ∧
  (∀ (c : Instr) (k res unit mask : Nat) (ucie : Bool) (s : State), s.boot.step = k → k ∈ [1, 5, 6, 8, 9, 13] →
    (c = .bootStepDone res ucie unit mask ∧ (res = 1 ∨ res = 5)) ∨ (c = .bootStepLimit unit mask ∧ res = 2) → Map.get 0 s.boot.fails k = 0 → s.boot.halted = false →
    Completes c s (fun u => u.boot.cause = 2 ∧ u.hif = {} ∧ Map.get 0 u.boot.fails k = 1)) ∧
  (∀ (c : Instr) (k res unit mask : Nat) (ucie : Bool) (s : State), s.boot.step = k → k = 10 ∨ k = 11 →
    (c = .bootStepDone res ucie unit mask ∧ (res = 1 ∨ res = 5)) ∨ c = .bootStepLimit unit mask →
    Completes c s (fun u => u.boot.cause = 2 ∧ bitW u.pln.retire 31 = true ∧ u.boot.retiring = true)) ∧
  (∀ (c : Instr) (res unit mask : Nat) (ucie : Bool) (s : State), s.boot.step = 0 →
    c ∈ [Instr.bootStepDone res ucie unit mask, .bootStepLimit unit mask] → exec c s = .next s)

/-- Derived from R430, R546, R604 to R606, R613, R617 to R621 and R670 of 11, 15 and 17: a drain names the blocks that hold
their work; a block reset acts, or is counted as ignored while a tenant is bound; update commands act on the staging slot where
their condition holds and report CONFLICT, or the code of the failing field, where not, and wait PENDING while no die holds OWN
(the model's choice, log 154); a download and a verification end; a Cave's failed test, and an in-band interrupt, reach the
owner. The model's choices it rests on: what leaves the module stands in the model's own list `out` (log 53). Forms it says
complete: modBlkDrain, modBlkReset, bootFenceClr, updDownload, updVerify, updActivate, updConfirm, updAbort, downloadDone,
verifyDone, caveHealthTestFail, inBandInterrupt. -/
def Obligations.BlocksAndUpdate : Prop :=
  (∀ (acc : Acc) (s : State), blockOpen s acc 17 = true → exec (.bootFenceClr acc) s = .next { s with boot := { s.boot with fenceClr := true } }) ∧
  (∀ (acc : Acc) (v : Word) (s : State), blockOpen s acc 0 = true →
    Completes (.modBlkDrain acc v) s (fun u =>
      u.boot = { s.boot with drained := (List.range 19).filter (fun i => decide (1 ≤ i) && bitW v i) } ∧
      Only [.out, .mem, .pln, .vnl, .rck, .boot] s u)) ∧
  (∀ (acc : Acc) (i : Nat) (s : State), blockOpen s acc 0 = true → i ∈ [1, 2, 3, 4, 5, 6, 7, 8, 9, 10, 14, 15] → boundTens s ≠ [] →
    exec (.modBlkReset acc (wordOf (2 ^ i))) s = .next { s with boot := { s.boot with ignored := satAdd 32 s.boot.ignored 1 } }) ∧
  (∀ (acc : Acc) (s : State), blockOpen s acc 0 = true → boundTens s = [] →
    Completes (.modBlkReset acc (wordOf (2 ^ 7))) s (fun u => u.vnl = { memoLinks := s.vnl.memoLinks, memoRoutes := s.vnl.memoRoutes } ∧
      Only [.regs, .grp, .vnl, .boot] s u)) ∧
  (∀ (acc : Acc) (s : State), blockOpen s acc 0 = true → boundTens s = [] →
    Completes (.modBlkReset acc (wordOf (2 ^ 8))) s (fun u => u.col = {} ∧ (∀ i, i < 512 → cset u .col 0 i = Grp.reset s.half .col i) ∧
      Only [.regs, .grp, .col, .boot] s u)) ∧
  (∀ (acc : Acc) (s : State), blockOpen s acc 0 = true → boundTens s = [] →
    Completes (.modBlkReset acc (wordOf (2 ^ 9))) s (fun u => u.stp = {} ∧ Only [.regs, .grp, .stp, .boot] s u)) ∧
  (∀ (acc : Acc) (s : State), blockOpen s acc 0 = true → boundTens s = [] →
    Completes (.modBlkReset acc (wordOf (2 ^ 10))) s (fun u =>
      u.rck = { keptRck s.rck.bucket s.rck.total s.rck with wearAt := s.rck.wearAt } ∧ cset u .rckWear 0 0 = cset s .rckWear 0 0 ∧
      Only [.regs, .grp, .rck, .boot] s u)) ∧
  (∀ (acc : Acc) (s : State), blockOpen s acc 0 = true → boundTens s = [] →
    Completes (.modBlkReset acc (wordOf (2 ^ 14))) s (fun u => u.tim = {} ∧ Only [.regs, .grp, .tim, .boot] s u)) ∧
  (∀ (len k : Nat) (acc : Acc) (s : State), grpReach s .bootUpd acc 0 = true → blockOpen s acc 17 = true → s.boot.hostReady = true →
    s.sec.life ≠ .retired → s.cel.own ≠ 2 → fldW (shadowReg s .bootUpd acc 0 0) 11 0 = 0 → len = (shadowReg s .bootUpd acc 0 2).toNat →
    k = staging s → s.boot.activeSlot < 2 → updFault s 1 len = none →
    Completes (.updDownload acc) s (fun u => cstatOf u .bootUpd acc 0 = (cOK, 0) ∧ slotFw u k = { st := 1 } ∧ u.boot.updRun = 1 ∧
      u.boot.updLen = len ∧ Only [.grp, .boot, .book] s u)) ∧
  (∀ (len k : Nat) (acc : Acc) (s : State), grpReach s .bootUpd acc 0 = true → blockOpen s acc 17 = true → s.boot.hostReady = true →
    s.sec.life ≠ .retired → s.cel.own ≠ 2 → fldW (shadowReg s .bootUpd acc 0 0) 11 0 = 0 → len = (shadowReg s .bootUpd acc 0 2).toNat →
    k = staging s → s.boot.activeSlot < 2 → updFault s 2 len = none →
    Completes (.updVerify acc) s (fun u => cstatOf u .bootUpd acc 0 = (cOK, 0) ∧ u.boot = { s.boot with updRun := 2 } ∧ Only [.grp, .boot, .book] s u)) ∧
  (∀ (len k : Nat) (acc : Acc) (s : State), grpReach s .bootUpd acc 0 = true → blockOpen s acc 17 = true → s.boot.hostReady = true →
    s.sec.life ≠ .retired → s.cel.own ≠ 2 → fldW (shadowReg s .bootUpd acc 0 0) 11 0 = 0 → len = (shadowReg s .bootUpd acc 0 2).toNat →
    k = staging s → s.boot.activeSlot < 2 → updFault s 3 len = none →
    Completes (.updActivate acc) s (fun u => cstatOf u .bootUpd acc 0 = (cOK, 0) ∧ u.boot.activeSlot = k ∧ u.boot.trial = true ∧
      u.boot.trialCnt = 0 ∧ (slotFw u k).st = 6 ∧ (slotFw u (1 - k)).st = 7 ∧ u.boot.ptrSeq = s.boot.ptrSeq + 1 ∧ Only [.grp, .boot, .book] s u)) ∧
  (∀ (len k : Nat) (acc : Acc) (s : State), grpReach s .bootUpd acc 0 = true → blockOpen s acc 17 = true → s.boot.hostReady = true →
    s.sec.life ≠ .retired → s.cel.own ≠ 2 → fldW (shadowReg s .bootUpd acc 0 0) 11 0 = 0 → len = (shadowReg s .bootUpd acc 0 2).toNat →
    k = staging s → s.boot.activeSlot < 2 → updFault s 4 len = none →
    Completes (.updConfirm acc) s (fun u => cstatOf u .bootUpd acc 0 = (cOK, 0) ∧ u.boot.trial = false ∧ u.boot.activeSlot = 1 - k ∧
      (slotFw u (1 - k)).st = 5 ∧ u.boot.minVer = raisedMin s (1 - k) ∧ Only [.grp, .boot, .book] s u)) ∧
  (∀ (len k : Nat) (acc : Acc) (s : State), grpReach s .bootUpd acc 0 = true → blockOpen s acc 17 = true → s.boot.hostReady = true →
    s.sec.life ≠ .retired → s.cel.own ≠ 2 → fldW (shadowReg s .bootUpd acc 0 0) 11 0 = 0 → len = (shadowReg s .bootUpd acc 0 2).toNat →
    k = staging s → s.boot.activeSlot < 2 → updFault s 5 len = none →
    Completes (.updAbort acc) s (fun u => cstatOf u .bootUpd acc 0 = (cOK, 0) ∧ (slotFw u k).st = 4 ∧ u.boot.updRun = 0 ∧ Only [.grp, .boot, .book] s u)) ∧
  (∀ (c : Instr) (cmd len : Nat) (f : Nat × Option Nat) (acc : Acc) (s : State),
    (c, cmd) ∈ [(Instr.updDownload acc, 1), (.updVerify acc, 2), (.updActivate acc, 3), (.updConfirm acc, 4), (.updAbort acc, 5)] →
    grpReach s .bootUpd acc 0 = true → blockOpen s acc 17 = true → s.boot.hostReady = true → s.sec.life ≠ .retired → s.cel.own ≠ 2 →
    fldW (shadowReg s .bootUpd acc 0 0) 11 0 = 0 → len = (shadowReg s .bootUpd acc 0 2).toNat → updFault s cmd len = some f →
    Completes c s (fun u => u.boot = s.boot ∧ (cstatOf u .bootUpd acc 0).1 = f.1 ∧ Only [.grp, .book] s u)) ∧
  (∀ (c : Instr) (cmd : Nat) (acc : Acc) (s : State),
    (c, cmd) ∈ [(Instr.updDownload acc, 1), (.updVerify acc, 2), (.updActivate acc, 3), (.updConfirm acc, 4), (.updAbort acc, 5)] →
    grpReach s .bootUpd acc 0 = true → blockOpen s acc 17 = true → s.cel.own = 2 →
    Completes c s (fun u => (cstatOf u .bootUpd acc 0).1 = cPENDING ∧
      u.boot = { s.boot with updWait := s.boot.updWait ++ [(cmd, (List.range 3).map (shadowReg s .bootUpd acc 0))] } ∧
      Only [.grp, .boot] s u)) ∧
  (∀ (data : List Byte) (s : State), s.dbg.frost = 0 → s.cel.own ≠ 2 → s.boot.updRun = 1 → data.length = s.boot.updLen →
    Completes (.downloadDone data) s (fun u => slotFw u (staging s) = { st := 2, data := data } ∧ u.boot.updRun = 0 ∧
      u.boot.updDone = s.boot.updLen ∧ Only [.boot] s u)) ∧
  (∀ s : State, s.dbg.frost = 0 → s.cel.own ≠ 2 → s.boot.updRun = 2 →
    (slotFw s (staging s)).st = 2 → caveDown s = false →
    Completes .verifyDone s (fun u => (slotFw u (staging s)).st = (if slotVerifies s (staging s) false then 3 else 4) ∧ u.boot.updRun = 0 ∧
      (slotFw u (staging s)).data = (slotFw s (staging s)).data ∧ Only [.boot] s u)) ∧
  (∀ (d test : Nat) (s : State), s.dbg.frost = 0 → d < 2 → memb d s.sec.caveErr = false → s.cel.own ≠ d →
    Completes (.caveHealthTestFail d test) s (fun u => memb d u.sec.caveErr = true ∧ Only [.sec, .book] s u)) ∧
  (∀ (d test : Nat) (s : State), s.dbg.frost = 0 → d < 2 → memb d s.sec.caveErr = false → s.cel.own = d →
    Completes (.caveHealthTestFail d test) s (fun u => memb d u.sec.caveErr = true ∧ u.cel.own = 2 ∧ dieState u d = 6 ∧
      Only [.cel, .tim, .sec, .book] s u)) ∧
  (∀ (target : Nat) (s : State), s.dbg.frost = 0 → ownerOn s = true →
    exec (.inBandInterrupt target) s = .next { s with pol := { s.pol with ibis := s.pol.ibis ++ [target] } })
end

