-- ==== Sys2Proof/Laws/Mem.lean ====
section
/-!
SUPPORT. Laws/Mem.lean: tables and memory keep their canonical form under every operation; a read after a write; keys of the table of
committed sets.
-/
namespace Sys2Proof.Machine

theorem risesFrom_mono {α : Type} {m : Map α} {a b : Nat} (hab : a ≤ b) (h : Map.risesFrom b m = true) : Map.risesFrom a m = true := by
  cases m with
  | nil => rfl
  | cons e r =>
    obtain ⟨k, v⟩ := e
    simp only [Map.risesFrom, Bool.and_eq_true, decide_eq_true_eq] at h ⊢
    exact ⟨le_trans hab h.1, h.2⟩

theorem risesFrom_put {α : Type} (m : Map α) (lo k : Nat) (v : α) (hk : lo ≤ k) (h : Map.risesFrom lo m = true) :
    Map.risesFrom lo (Map.put m k v) = true := by
  induction m generalizing lo with
  | nil => simp [Map.put, Map.risesFrom, hk]
  | cons e r ih =>
    obtain ⟨j, w⟩ := e
    simp only [Map.risesFrom, Bool.and_eq_true, decide_eq_true_eq] at h
    simp only [Map.put]
    split
    · simp only [Map.risesFrom, Bool.and_eq_true, decide_eq_true_eq]
      exact ⟨hk, by omega, h.2⟩
    · split
      · simp only [Map.risesFrom, Bool.and_eq_true, decide_eq_true_eq]
        subst_vars
        exact ⟨hk, h.2⟩
      · simp only [Map.risesFrom, Bool.and_eq_true, decide_eq_true_eq]
        exact ⟨h.1, ih (j + 1) (by omega) h.2⟩

theorem risesFrom_filter {α : Type} (p : Nat × α → Bool) (m : Map α) (lo : Nat) (h : Map.risesFrom lo m = true) :
    Map.risesFrom lo (m.filter p) = true := by
  induction m generalizing lo with
  | nil => rfl
  | cons e r ih =>
    obtain ⟨j, w⟩ := e
    simp only [Map.risesFrom, Bool.and_eq_true, decide_eq_true_eq] at h
    rw [List.filter_cons]
    split
    · simp only [Map.risesFrom, Bool.and_eq_true, decide_eq_true_eq]
      exact ⟨h.1, ih (j + 1) h.2⟩
    · exact risesFrom_mono (by omega) (ih (j + 1) h.2)

theorem wf_put {α : Type} (m : Map α) (k : Nat) (v : α) (h : Map.wf m = true) : Map.wf (Map.put m k v) = true :=
  risesFrom_put m 0 k v (Nat.zero_le k) h
theorem wf_del {α : Type} (m : Map α) (k : Nat) (h : Map.wf m = true) : Map.wf (Map.del m k) = true := risesFrom_filter _ m 0 h
theorem wf_set {α : Type} [DecidableEq α] (d : α) (m : Map α) (k : Nat) (v : α) (h : Map.wf m = true) : Map.wf (Map.set d m k v) = true := by
  unfold Map.set
  split
  · exact wf_del m k h
  · exact wf_put m k v h
theorem wf_filter {α : Type} (p : Nat × α → Bool) (m : Map α) (h : Map.wf m = true) : Map.wf (m.filter p) = true :=
  risesFrom_filter p m 0 h

/-- Entries of a table after a put are the new one or old ones. -/
theorem mem_put {α : Type} {m : Map α} {k : Nat} {v : α} {e : Nat × α} (h : e ∈ Map.put m k v) : e = (k, v) ∨ e ∈ m := by
  induction m with
  | nil => simp [Map.put] at h; exact .inl h
  | cons x r ih =>
    obtain ⟨j, w⟩ := x
    simp only [Map.put] at h
    split at h
    · rcases List.mem_cons.mp h with h | h
      · exact .inl h
      · exact .inr h
    · split at h
      · rcases List.mem_cons.mp h with h | h
        · exact .inl h
        · exact .inr (List.mem_cons_of_mem _ h)
      · rcases List.mem_cons.mp h with h | h
        · exact .inr (h ▸ List.mem_cons_self)
        · rcases ih h with h | h
          · exact .inl h
          · exact .inr (List.mem_cons_of_mem _ h)
theorem mem_del {α : Type} {m : Map α} {k : Nat} {e : Nat × α} (h : e ∈ Map.del m k) : e ∈ m := List.mem_of_mem_filter h
theorem mem_set {α : Type} [DecidableEq α] {d : α} {m : Map α} {k : Nat} {v : α} {e : Nat × α} (h : e ∈ Map.set d m k v) :
    (e = (k, v) ∧ v ≠ d) ∨ e ∈ m := by
  unfold Map.set at h
  split at h
  · exact .inr (mem_del h)
  · rename_i hv
    rcases mem_put h with h | h
    · exact .inl ⟨h, hv⟩
    · exact .inr h

/-! ## What a table holds after an update -/

theorem find_put {α : Type} (m : Map α) (k q : Nat) (v : α) : Map.find (Map.put m k v) q = if q = k then some v else Map.find m q := by
  induction m with
  | nil => simp [Map.put, Map.find]
  | cons e r ih =>
    obtain ⟨j, w⟩ := e
    simp only [Map.put]
    split
    · simp only [Map.find]
    · split
      · next h => subst h; simp only [Map.find]; split <;> rfl
      · next h1 h2 =>
        simp only [Map.find, ih]
        by_cases hq : q = k
        · subst hq; simp [h2]
        · simp [hq]
theorem find_del {α : Type} (m : Map α) (k q : Nat) : Map.find (Map.del m k) q = if q = k then none else Map.find m q := by
  induction m with
  | nil => simp [Map.del, Map.find]
  | cons e r ih =>
    obtain ⟨j, w⟩ := e
    simp only [Map.del] at ih ⊢
    by_cases hj : j = k
    · subst hj
      simp only [List.filter_cons, ne_eq, not_true, decide_false, Bool.false_eq_true, if_false, ih, Map.find]
      split <;> rfl
    · simp only [List.filter_cons, ne_eq, hj, not_false_eq_true, decide_true, if_true, Map.find, ih]
      by_cases hq : q = j
      · subst hq; simp [hj]
      · simp [hq]
/-- A table reads what was set at the key, and as before elsewhere. -/
@[simp] theorem get_set {α : Type} [DecidableEq α] (d : α) (m : Map α) (k q : Nat) (v : α) :
    Map.get d (Map.set d m k v) q = if q = k then v else Map.get d m q := by
  simp only [Map.get, Map.set]
  split
  · next h => subst h; rw [find_del]; split <;> rfl
  · rw [find_put]; split <;> rfl
/-- A set at another key is not seen, whatever an unlisted key reads as. -/
theorem get_set_other {α : Type} [DecidableEq α] (d d' : α) (m : Map α) {k q : Nat} (v : α) (h : q ≠ k) :
    Map.get d (Map.set d' m k v) q = Map.get d m q := by
  simp only [Map.get, Map.set]
  split
  · rw [find_del, if_neg h]
  · rw [find_put, if_neg h]
@[simp] theorem get_put {α : Type} (d : α) (m : Map α) (k q : Nat) (v : α) :
    Map.get d (Map.put m k v) q = if q = k then v else Map.get d m q := by
  simp only [Map.get, find_put]
  split <;> rfl
@[simp] theorem get_del {α : Type} (d : α) (m : Map α) (k q : Nat) :
    Map.get d (Map.del m k) q = if q = k then d else Map.get d m q := by
  simp only [Map.get, find_del]
  split <;> rfl
@[simp] theorem get_upd {α : Type} [DecidableEq α] (d : α) (m : Map α) (k q : Nat) (f : α → α) :
    Map.get d (Map.upd d m k f) q = if q = k then f (Map.get d m k) else Map.get d m q := get_set d m k q _
/-- Memory reads the byte written at the address, and as before elsewhere. -/
@[simp] theorem memGet_set (m : List Host.Cell) (a q : Nat) (b : Byte) : memGet (memSet m a b) q = if q = a then b else memGet m q :=
  get_set 0 m a q b
theorem memGet_write (m : List Host.Cell) (a q : Nat) (bs : List Byte) :
    memGet (memWrite m a bs) q = if a ≤ q ∧ q < a + bs.length then bs.getD (q - a) 0 else memGet m q := by
  induction bs generalizing m a with
  | nil => simp only [memWrite, List.length_nil]; rw [if_neg (by omega)]
  | cons b r ih =>
    simp only [memWrite, ih, memGet_set, List.length_cons]
    by_cases h1 : q = a
    · subst h1
      rw [if_neg (by omega), if_pos rfl, if_pos (by omega)]
      simp
    · rw [if_neg h1]
      by_cases h2 : a + 1 ≤ q ∧ q < a + 1 + r.length
      · rw [if_pos h2, if_pos (by omega)]
        obtain ⟨n, rfl⟩ : ∃ n, q = a + 1 + n := ⟨q - (a + 1), by omega⟩
        simp [show a + 1 + n - a = n + 1 by omega]
      · rw [if_neg h2, if_neg (by omega)]

/-! ## Bytes of memory -/

theorem memWf_filter (p : Host.Cell → Bool) (m : List Host.Cell) (h : memWf m = true) : memWf (m.filter p) = true := by
  simp only [memWf, Bool.and_eq_true, noZero, List.all_eq_true] at h ⊢
  exact ⟨wf_filter p m h.1, fun e he => h.2 e (List.mem_of_mem_filter he)⟩
theorem memWf_set (m : List Host.Cell) (a : Nat) (v : Byte) (h : memWf m = true) : memWf (memSet m a v) = true := by
  simp only [memWf, Bool.and_eq_true, noZero, List.all_eq_true, memSet] at h ⊢
  refine ⟨wf_set 0 m a v h.1, fun e he => ?_⟩
  rcases mem_set he with ⟨rfl, hv⟩ | he
  · simpa using hv
  · exact h.2 e he
theorem memWf_write (m : List Host.Cell) (a : Nat) (bs : List Byte) (h : memWf m = true) : memWf (memWrite m a bs) = true := by
  induction bs generalizing m a with
  | nil => exact h
  | cons x r ih => exact ih _ _ (memWf_set m a x h)
theorem memWf_zero (m : List Host.Cell) (a n : Nat) (h : memWf m = true) : memWf (memZero m a n) = true := memWf_filter _ m h
theorem memWf_foldl {α : Type} (f : List Host.Cell → α → List Host.Cell) (hf : ∀ m x, memWf m = true → memWf (f m x) = true) (l : List α)
    (m : List Host.Cell) (h : memWf m = true) : memWf (l.foldl f m) = true := by
  induction l generalizing m with
  | nil => exact h
  | cons x r ih => exact ih _ (hf m x h)
theorem memWf_copy (m : List Host.Cell) (a d n : Nat) (h : memWf m = true) : memWf (memCopy m a d n) = true :=
  memWf_foldl _ (fun m _ hm => memWf_set m _ _ hm) _ _ (memWf_zero m d n h)
theorem memWf_nil : memWf [] = true := rfl

end Sys2Proof.Machine
end

