-- ==== Sys2Proof/Laws/Kept.lean ====
section
/-!
SUPPORT. Laws/Kept.lean: how the operations that build a state keep `Kept` (the invariant, and what no command changes); the files
KeptOps to KeptExec carry it through every operation and command of the model.
-/
namespace Sys2Proof.Machine

/-! ## The table of committed sets -/

theorem Grp.idx_lt (g : Grp) : g.idx < 32 := by cases g <;> decide
theorem allGrps_idx (g : Grp) : allGrps[g.idx]? = some g := by cases g <;> rfl
theorem Grp.size_le (g : Grp) : g.regs.length ≤ 512 := by cases g <;> simp [Grp.regs]
theorem setKey_grp (g : Grp) (o i : Nat) (h : i < 512) : keyGrp (setKey g o i) = g.idx := by
  have := g.idx_lt
  simp only [keyGrp, setKey]
  omega
theorem setKey_obj (g : Grp) (o i : Nat) (h : i < 512) : keyObj (setKey g o i) = o := by
  have := g.idx_lt
  simp only [keyObj, setKey]
  omega
theorem setKey_reg (g : Grp) (o i : Nat) (h : i < 512) : setKey g o i % 512 = i := by
  simp only [setKey]
  omega
/-- A register stored at its key keeps its reserved bits zero. -/
theorem setKey_mask (g : Grp) (o i : Nat) (w : Word) : (w &&& g.mask i) &&& ~~~ keyMask (setKey g o i) = 0 := by
  by_cases h : i < 512
  · have hm : keyMask (setKey g o i) = g.mask i := by
      simp only [keyMask, setKey_grp g o i h, allGrps_idx, setKey_reg g o i h]
    rw [hm]
    ext k
    simp
  · have hm : g.mask i = 0 := by
      have := g.size_le
      simp only [Grp.mask]
      rw [List.getElem?_eq_none (by omega)]
    rw [hm]
    simp

theorem setsOk_iff (m : Map Word) : setsOk m = true ↔ ∀ e ∈ m, e.2 &&& ~~~ keyMask e.1 = 0 := by
  simp [setsOk, List.all_eq_true]
theorem setsOk_set (d : Word) (m : Map Word) (g : Grp) (o i : Nat) (w : Word) (h : setsOk m = true) :
    setsOk (Map.set d m (setKey g o i) (w &&& g.mask i)) = true := by
  rw [setsOk_iff] at h ⊢
  intro e he
  rcases mem_set he with ⟨rfl, -⟩ | he
  · exact setKey_mask g o i w
  · exact h e he
theorem setsOk_filter (p : Nat × Word → Bool) (m : Map Word) (h : setsOk m = true) : setsOk (m.filter p) = true := by
  rw [setsOk_iff] at h ⊢
  exact fun e he => h e (List.mem_of_mem_filter he)

/-! ## Block updates -/

variable {a s : State}

theorem Kept.refl' (h : Inv s) : Kept s s := ⟨⟨rfl, rfl, rfl⟩, h⟩
theorem modHif_ok (f : Hif → Hif) (h : Kept a s) : Kept a (modHif f s) := ⟨⟨h.1.1, h.1.2, h.1.3⟩, ⟨h.2.1, h.2.2, h.2.3, h.2.4, h.2.5⟩⟩
theorem modPln_ok (f : Pln → Pln) (h : Kept a s) : Kept a (modPln f s) := ⟨⟨h.1.1, h.1.2, h.1.3⟩, ⟨h.2.1, h.2.2, h.2.3, h.2.4, h.2.5⟩⟩
theorem modStp_ok (f : Stp → Stp) (h : Kept a s) : Kept a (modStp f s) := ⟨⟨h.1.1, h.1.2, h.1.3⟩, ⟨h.2.1, h.2.2, h.2.3, h.2.4, h.2.5⟩⟩
theorem modRck_ok (f : Rck → Rck) (h : Kept a s) : Kept a (modRck f s) := ⟨⟨h.1.1, h.1.2, h.1.3⟩, ⟨h.2.1, h.2.2, h.2.3, h.2.4, h.2.5⟩⟩
theorem modVnl_ok (f : Vnl → Vnl) (h : Kept a s) : Kept a (modVnl f s) := ⟨⟨h.1.1, h.1.2, h.1.3⟩, ⟨h.2.1, h.2.2, h.2.3, h.2.4, h.2.5⟩⟩
theorem modCor_ok (f : Cor → Cor) (h : Kept a s) : Kept a (modCor f s) := ⟨⟨h.1.1, h.1.2, h.1.3⟩, ⟨h.2.1, h.2.2, h.2.3, h.2.4, h.2.5⟩⟩
theorem modCol_ok (f : Col → Col) (h : Kept a s) : Kept a (modCol f s) := ⟨⟨h.1.1, h.1.2, h.1.3⟩, ⟨h.2.1, h.2.2, h.2.3, h.2.4, h.2.5⟩⟩
theorem modPol_ok (f : Pol → Pol) (h : Kept a s) : Kept a (modPol f s) := ⟨⟨h.1.1, h.1.2, h.1.3⟩, ⟨h.2.1, h.2.2, h.2.3, h.2.4, h.2.5⟩⟩
theorem modErr_ok (f : Err → Err) (h : Kept a s) : Kept a (modErr f s) := ⟨⟨h.1.1, h.1.2, h.1.3⟩, ⟨h.2.1, h.2.2, h.2.3, h.2.4, h.2.5⟩⟩
theorem modPwr_ok (f : Pwr → Pwr) (h : Kept a s) : Kept a (modPwr f s) := ⟨⟨h.1.1, h.1.2, h.1.3⟩, ⟨h.2.1, h.2.2, h.2.3, h.2.4, h.2.5⟩⟩
theorem modTim_ok (f : Tim → Tim) (h : Kept a s) : Kept a (modTim f s) := ⟨⟨h.1.1, h.1.2, h.1.3⟩, ⟨h.2.1, h.2.2, h.2.3, h.2.4, h.2.5⟩⟩
theorem modSec_ok (f : Sec → Sec) (h : Kept a s) : Kept a (modSec f s) := ⟨⟨h.1.1, h.1.2, h.1.3⟩, ⟨h.2.1, h.2.2, h.2.3, h.2.4, h.2.5⟩⟩
theorem modBoot_ok (f : Boot → Boot) (h : Kept a s) : Kept a (modBoot f s) := ⟨⟨h.1.1, h.1.2, h.1.3⟩, ⟨h.2.1, h.2.2, h.2.3, h.2.4, h.2.5⟩⟩
theorem modMram_ok (f : Mram → Mram) (h : Kept a s) : Kept a (modMram f s) := ⟨⟨h.1.1, h.1.2, h.1.3⟩, ⟨h.2.1, h.2.2, h.2.3, h.2.4, h.2.5⟩⟩
theorem modMem_ok (f : List Host.Cell → List Host.Cell) (h : Kept a s) (hf : memWf (f s.mem) = true) : Kept a (modMem f s) :=
  ⟨⟨h.1.1, h.1.2, h.1.3⟩, ⟨hf, h.2.2, h.2.3, h.2.4, h.2.5⟩⟩
theorem modGrp_set (f : Groups → Groups) (hf : setsOk (f s.grp).sets = true) (h : Kept a s) : Kept a (modGrp f s) :=
  ⟨⟨h.1.1, h.1.2, h.1.3⟩, ⟨h.2.1, hf, h.2.3, h.2.4, h.2.5⟩⟩
theorem modGrp_ok (f : Groups → Groups) (h : Kept a s) (hf : (f s.grp).sets = s.grp.sets) : Kept a (modGrp f s) :=
  modGrp_set f (hf ▸ h.2.2) h
theorem modDbg_to (f : Dbg → Dbg) (hf : (f s.dbg).frost ≤ 3) (h : Kept a s) : Kept a (modDbg f s) :=
  ⟨⟨h.1.1, h.1.2, h.1.3⟩, ⟨h.2.1, h.2.2, hf, h.2.4, h.2.5⟩⟩
theorem modDbg_ok (f : Dbg → Dbg) (h : Kept a s) (hf : (f s.dbg).frost = s.dbg.frost) : Kept a (modDbg f s) := modDbg_to f (hf ▸ h.2.3) h
theorem modBook_to (f : Book → Book) (hf : (f s.book).floor ≤ (f s.book).head) (h : Kept a s) : Kept a (modBook f s) :=
  ⟨⟨h.1.1, h.1.2, h.1.3⟩, ⟨h.2.1, h.2.2, h.2.3, hf, h.2.5⟩⟩
theorem modBook_ok (f : Book → Book) (h : Kept a s) (h1 : (f s.book).floor = s.book.floor) (h2 : (f s.book).head = s.book.head) :
    Kept a (modBook f s) := modBook_to f (h1 ▸ h2 ▸ h.2.4) h
theorem modCel_to (f : Cel → Cel) (hf : ∀ x, (f s.cel).stale = some x → x.book.floor ≤ x.book.head) (h : Kept a s) : Kept a (modCel f s) :=
  ⟨⟨h.1.1, h.1.2, h.1.3⟩, ⟨h.2.1, h.2.2, h.2.3, h.2.4, hf⟩⟩
theorem modCel_ok (f : Cel → Cel) (h : Kept a s) (hf : (f s.cel).stale = s.cel.stale) : Kept a (modCel f s) :=
  modCel_to f (by rw [hf]; exact h.2.5) h
theorem modCel_none (f : Cel → Cel) (h : Kept a s) (hf : (f s.cel).stale = none) : Kept a (modCel f s) :=
  modCel_to f (by rw [hf]; intro x hx; cases hx) h

/-! ## Fields outside the blocks -/

theorem mem_ok {m : List Host.Cell} (h : Kept a s) (hm : memWf m = true) : Kept a { s with mem := m } :=
  ⟨⟨h.1.1, h.1.2, h.1.3⟩, ⟨hm, h.2.2, h.2.3, h.2.4, h.2.5⟩⟩
theorem out_ok {l : List Out} (h : Kept a s) : Kept a { s with out := l } := ⟨⟨h.1.1, h.1.2, h.1.3⟩, ⟨h.2.1, h.2.2, h.2.3, h.2.4, h.2.5⟩⟩
theorem free_ok {n : Nat} (h : Kept a s) : Kept a { s with free := n } := ⟨⟨h.1.1, h.1.2, h.1.3⟩, ⟨h.2.1, h.2.2, h.2.3, h.2.4, h.2.5⟩⟩
theorem tick_ok {n : Nat} (h : Kept a s) : Kept a { s with tick := n } := ⟨⟨h.1.1, h.1.2, h.1.3⟩, ⟨h.2.1, h.2.2, h.2.3, h.2.4, h.2.5⟩⟩
theorem mram_ok {m : Mram} (h : Kept a s) : Kept a { s with mram := m } := ⟨⟨h.1.1, h.1.2, h.1.3⟩, ⟨h.2.1, h.2.2, h.2.3, h.2.4, h.2.5⟩⟩
theorem regs_ok {m : Map Word} (h : Kept a s) : Kept a { s with regs := m } := ⟨⟨h.1.1, h.1.2, h.1.3⟩, ⟨h.2.1, h.2.2, h.2.3, h.2.4, h.2.5⟩⟩

/-! ## Control -/

theorem ite_ok {p : Prop} [Decidable p] {x y : State} (hx : Kept a x) (hy : Kept a y) : Kept a (if p then x else y) := by
  split
  · exact hx
  · exact hy
theorem emit_ok (o : Out) (h : Kept a s) : Kept a (emit o s) := out_ok h
theorem fresh_ok (w : Nat) (h : Kept a s) : Kept a (fresh w s).2 := free_ok h
theorem whenS_ok (c : Bool) (f : State → State) (hf : ∀ x, Kept a x → Kept a (f x)) (h : Kept a s) : Kept a (whenS c f s) := by
  unfold whenS
  exact ite_ok (hf s h) h
theorem foldl_ok {α : Type} (l : List α) (f : State → α → State) (hf : ∀ x y, Kept a x → Kept a (f x y)) (h : Kept a s) :
    Kept a (l.foldl f s) := by
  induction l generalizing s with
  | nil => exact h
  | cons x r ih => exact ih (hf s x h)
theorem foldl2_ok {α β : Type} (l : List α) (f : β × State → α → β × State) (hf : ∀ x y, Kept a x.2 → Kept a (f x y).2) {i : β × State}
    (h : Kept a i.2) : Kept a (l.foldl f i).2 := by
  induction l generalizing i with
  | nil => exact h
  | cons x r ih => exact ih (hf i x h)
theorem ite2_ok {β : Type} {p : Prop} [Decidable p] {x y : β × State} (hx : Kept a x.2) (hy : Kept a y.2) :
    Kept a (if p then x else y).2 := by
  split
  · exact hx
  · exact hy
theorem forS_ok {α : Type} (l : List α) (f : α → State → State) (hf : ∀ y x, Kept a x → Kept a (f y x)) (h : Kept a s) :
    Kept a (forS l f s) := foldl_ok l _ (fun x y hx => hf y x hx) h
theorem next_ok {t : State} (h : Kept a t) : KeptA a (.next t) := by
  intro u hu
  cases hu
  exact h
theorem clocked_ok {r : Answer} (h : Kept a s) (hr : KeptA a r) : KeptA a (clocked s r) := by
  unfold clocked
  split
  · exact hr
  · exact next_ok h
theorem iodClocked_ok {r : Answer} (h : Kept a s) (hr : KeptA a r) : KeptA a (iodClocked s r) := by
  unfold iodClocked
  split
  · exact hr
  · exact next_ok h
theorem waitsInFrost_ok {r : Answer} (c : Late) (h : Kept a s) (hr : KeptA a r) : KeptA a (waitsInFrost c s r) := by
  unfold waitsInFrost
  split
  · exact hr
  · exact next_ok (modDbg_ok _ h rfl)
theorem stateOf_ok {r : Answer} (hr : KeptA a r) (h : Kept a s) : Kept a (stateOf r s) := by
  unfold stateOf
  split
  · exact hr _ rfl
  · exact h
theorem iteA_ok {p : Prop} [Decidable p] {x y : Answer} (hx : KeptA a x) (hy : KeptA a y) : KeptA a (if p then x else y) := by
  split
  · exact hx
  · exact hy

end Sys2Proof.Machine
end

