-- ==== Sys2Proof/Laws/Only.lean ====
section
/-!
SUPPORT. Laws/Only.lean: how the operations that build a state keep a frame; the files OnlyOps to OnlyTick carry it through the
operations of the model.
-/
namespace Sys2Proof.Machine

variable {ps : List Part} {a s : State}

theorem Only.rfl' (ps : List Part) (s : State) : Only ps s s := fun p _ => by cases p <;> rfl
theorem Only.trans {t : State} (h : Only ps a s) (k : Only ps s t) : Only ps a t := fun p hp => by
  have x := h p hp
  have y := k p hp
  cases p <;> exact y.trans x
theorem Only.mono {qs : List Part} (h : Only ps a s) (k : ∀ p ∈ ps, p ∈ qs) : Only qs a s := fun p hp => h p (fun x => hp (k p x))
theorem only_part (f : State → State) (q : Part) (hf : ∀ p, p ≠ q → p.same s (f s)) (m : q ∈ ps) (h : Only ps a s) : Only ps a (f s) :=
  fun p hp => by
    have x := h p hp
    have y := hf p (fun e => hp (e ▸ m))
    cases p <;> exact y.trans x
theorem modGrp_only (f : Groups → Groups) (m : Part.grp ∈ ps) (h : Only ps a s) : Only ps a (modGrp f s) :=
  only_part (modGrp f) .grp (fun p hp => by cases p <;> first | rfl | exact absurd rfl hp) m h
theorem modHif_only (f : Hif → Hif) (m : Part.hif ∈ ps) (h : Only ps a s) : Only ps a (modHif f s) :=
  only_part (modHif f) .hif (fun p hp => by cases p <;> first | rfl | exact absurd rfl hp) m h
theorem modPln_only (f : Pln → Pln) (m : Part.pln ∈ ps) (h : Only ps a s) : Only ps a (modPln f s) :=
  only_part (modPln f) .pln (fun p hp => by cases p <;> first | rfl | exact absurd rfl hp) m h
theorem modStp_only (f : Stp → Stp) (m : Part.stp ∈ ps) (h : Only ps a s) : Only ps a (modStp f s) :=
  only_part (modStp f) .stp (fun p hp => by cases p <;> first | rfl | exact absurd rfl hp) m h
theorem modRck_only (f : Rck → Rck) (m : Part.rck ∈ ps) (h : Only ps a s) : Only ps a (modRck f s) :=
  only_part (modRck f) .rck (fun p hp => by cases p <;> first | rfl | exact absurd rfl hp) m h
theorem modVnl_only (f : Vnl → Vnl) (m : Part.vnl ∈ ps) (h : Only ps a s) : Only ps a (modVnl f s) :=
  only_part (modVnl f) .vnl (fun p hp => by cases p <;> first | rfl | exact absurd rfl hp) m h
theorem modBook_only (f : Book → Book) (m : Part.book ∈ ps) (h : Only ps a s) : Only ps a (modBook f s) :=
  only_part (modBook f) .book (fun p hp => by cases p <;> first | rfl | exact absurd rfl hp) m h
theorem modCor_only (f : Cor → Cor) (m : Part.cor ∈ ps) (h : Only ps a s) : Only ps a (modCor f s) :=
  only_part (modCor f) .cor (fun p hp => by cases p <;> first | rfl | exact absurd rfl hp) m h
theorem modCol_only (f : Col → Col) (m : Part.col ∈ ps) (h : Only ps a s) : Only ps a (modCol f s) :=
  only_part (modCol f) .col (fun p hp => by cases p <;> first | rfl | exact absurd rfl hp) m h
theorem modCel_only (f : Cel → Cel) (m : Part.cel ∈ ps) (h : Only ps a s) : Only ps a (modCel f s) :=
  only_part (modCel f) .cel (fun p hp => by cases p <;> first | rfl | exact absurd rfl hp) m h
theorem modPol_only (f : Pol → Pol) (m : Part.pol ∈ ps) (h : Only ps a s) : Only ps a (modPol f s) :=
  only_part (modPol f) .pol (fun p hp => by cases p <;> first | rfl | exact absurd rfl hp) m h
theorem modErr_only (f : Err → Err) (m : Part.err ∈ ps) (h : Only ps a s) : Only ps a (modErr f s) :=
  only_part (modErr f) .err (fun p hp => by cases p <;> first | rfl | exact absurd rfl hp) m h
theorem modPwr_only (f : Pwr → Pwr) (m : Part.pwr ∈ ps) (h : Only ps a s) : Only ps a (modPwr f s) :=
  only_part (modPwr f) .pwr (fun p hp => by cases p <;> first | rfl | exact absurd rfl hp) m h
theorem modTim_only (f : Tim → Tim) (m : Part.tim ∈ ps) (h : Only ps a s) : Only ps a (modTim f s) :=
  only_part (modTim f) .tim (fun p hp => by cases p <;> first | rfl | exact absurd rfl hp) m h
theorem modSec_only (f : Sec → Sec) (m : Part.sec ∈ ps) (h : Only ps a s) : Only ps a (modSec f s) :=
  only_part (modSec f) .sec (fun p hp => by cases p <;> first | rfl | exact absurd rfl hp) m h
theorem modDbg_only (f : Dbg → Dbg) (m : Part.dbg ∈ ps) (h : Only ps a s) : Only ps a (modDbg f s) :=
  only_part (modDbg f) .dbg (fun p hp => by cases p <;> first | rfl | exact absurd rfl hp) m h
theorem modBoot_only (f : Boot → Boot) (m : Part.boot ∈ ps) (h : Only ps a s) : Only ps a (modBoot f s) :=
  only_part (modBoot f) .boot (fun p hp => by cases p <;> first | rfl | exact absurd rfl hp) m h
theorem modMram_only (f : Mram → Mram) (m : Part.mram ∈ ps) (h : Only ps a s) : Only ps a (modMram f s) :=
  only_part (modMram f) .mram (fun p hp => by cases p <;> first | rfl | exact absurd rfl hp) m h
theorem modMem_only (f : List Host.Cell → List Host.Cell) (m : Part.mem ∈ ps) (h : Only ps a s) : Only ps a (modMem f s) :=
  only_part (modMem f) .mem (fun p hp => by cases p <;> first | rfl | exact absurd rfl hp) m h
theorem mem_only {x : List Host.Cell} (m : Part.mem ∈ ps) (h : Only ps a s) : Only ps a { s with mem := x } :=
  only_part (fun s => { s with mem := x }) .mem (fun p hp => by cases p <;> first | rfl | exact absurd rfl hp) m h
theorem out_only {x : List Out} (m : Part.out ∈ ps) (h : Only ps a s) : Only ps a { s with out := x } :=
  only_part (fun s => { s with out := x }) .out (fun p hp => by cases p <;> first | rfl | exact absurd rfl hp) m h
theorem free_only {x : Nat} (m : Part.free ∈ ps) (h : Only ps a s) : Only ps a { s with free := x } :=
  only_part (fun s => { s with free := x }) .free (fun p hp => by cases p <;> first | rfl | exact absurd rfl hp) m h
theorem tick_only {x : Nat} (m : Part.tick ∈ ps) (h : Only ps a s) : Only ps a { s with tick := x } :=
  only_part (fun s => { s with tick := x }) .tick (fun p hp => by cases p <;> first | rfl | exact absurd rfl hp) m h
theorem regs_only {x : Map Word} (m : Part.regs ∈ ps) (h : Only ps a s) : Only ps a { s with regs := x } :=
  only_part (fun s => { s with regs := x }) .regs (fun p hp => by cases p <;> first | rfl | exact absurd rfl hp) m h
theorem mram_only {x : Mram} (m : Part.mram ∈ ps) (h : Only ps a s) : Only ps a { s with mram := x } :=
  only_part (fun s => { s with mram := x }) .mram (fun p hp => by cases p <;> first | rfl | exact absurd rfl hp) m h
theorem ite_only {p : Prop} [Decidable p] {x y : State} (hx : Only ps a x) (hy : Only ps a y) : Only ps a (if p then x else y) := by
  split
  · exact hx
  · exact hy
theorem emit_only (o : Out) (m : Part.out ∈ ps) (h : Only ps a s) : Only ps a (emit o s) := out_only m h
theorem fresh_only (w : Nat) (m : Part.free ∈ ps) (h : Only ps a s) : Only ps a (fresh w s).2 := free_only m h
theorem whenS_only (c : Bool) (f : State → State) (hf : ∀ x, Only ps a x → Only ps a (f x)) (h : Only ps a s) : Only ps a (whenS c f s) := by
  unfold whenS
  exact ite_only (hf s h) h
theorem foldl_only {α : Type} (l : List α) (f : State → α → State) (hf : ∀ x y, Only ps a x → Only ps a (f x y)) (h : Only ps a s) :
    Only ps a (l.foldl f s) := by
  induction l generalizing s with
  | nil => exact h
  | cons x r ih => exact ih (hf s x h)
theorem foldl2_only {α β : Type} (l : List α) (f : β × State → α → β × State) (hf : ∀ x y, Only ps a x.2 → Only ps a (f x y).2) {i : β × State}
    (h : Only ps a i.2) : Only ps a (l.foldl f i).2 := by
  induction l generalizing i with
  | nil => exact h
  | cons x r ih => exact ih (hf i x h)
theorem ite2_only {β : Type} {p : Prop} [Decidable p] {x y : β × State} (hx : Only ps a x.2) (hy : Only ps a y.2) :
    Only ps a (if p then x else y).2 := by
  split
  · exact hx
  · exact hy
theorem forS_only {α : Type} (l : List α) (f : α → State → State) (hf : ∀ y x, Only ps a x → Only ps a (f y x)) (h : Only ps a s) :
    Only ps a (forS l f s) := foldl_only l _ (fun x y hx => hf y x hx) h

end Sys2Proof.Machine
end

