-- ==== Sys2Proof/Laws/OnlyOps.lean ====
section
/-!
SUPPORT. Laws/OnlyOps.lean: what the operations of Machine/Ops.lean leave as it was.
-/
namespace Sys2Proof.Machine

set_option linter.unusedTactic false
set_option linter.unreachableTactic false
set_option linter.unusedVariables false

theorem csetPut_only {fr : List Part} {base : State} (g : Grp) (obj : Nat) (i : Nat) (w : Word) (mgrp : Part.grp ∈ fr) {s : State} (hk :
    Only fr base s) : Only fr base (csetPut g obj i w s) := by
  unfold csetPut
  with_reducible repeat' (first
    | assumption | intro _ | apply ite_only | apply modGrp_only | dsimp only | split)
theorem csetAll_only {fr : List Part} {base : State} (g : Grp) (obj : Nat) (ws : List Word) (mgrp : Part.grp ∈ fr) {s : State} (hk : Only fr
    base s) : Only fr base (csetAll g obj ws s) := by
  unfold csetAll
  with_reducible repeat' (first
    | assumption | intro _ | apply ite_only | apply forS_only | apply csetPut_only | dsimp only | split)
theorem csetReset_only {fr : List Part} {base : State} (g : Grp) (obj : Nat) (mgrp : Part.grp ∈ fr) {s : State} (hk : Only fr base s) : Only
    fr base (csetReset g obj s) := by
  unfold csetReset
  with_reducible repeat' (first
    | assumption | intro _ | apply ite_only | apply modGrp_only | dsimp only | split)
theorem setRw_only {fr : List Part} {base : State} (acc : Nat) (a : Nat) (w : Word) (mregs : Part.regs ∈ fr) {s : State} (hk : Only fr base
    s) : Only fr base (setRw acc a w s) := by
  unfold setRw
  with_reducible repeat' (first
    | assumption | intro _ | apply ite_only | apply regs_only | dsimp only | split)
theorem setTenRec_only {fr : List Part} {base : State} (t : Nat) (f : Ten → Ten) (mhif : Part.hif ∈ fr) {s : State} (hk : Only fr base s) :
    Only fr base (setTenRec t f s) := by
  unfold setTenRec
  with_reducible repeat' (first
    | assumption | intro _ | apply ite_only | apply modHif_only | dsimp only | split)
theorem setMsixWord_only {fr : List Part} {base : State} (fn : Nat) (i : Nat) (w : Word) (mhif : Part.hif ∈ fr) {s : State} (hk : Only fr
    base s) : Only fr base (setMsixWord fn i w s) := by
  unfold setMsixWord
  with_reducible repeat' (first
    | assumption | intro _ | apply ite_only | apply modHif_only | dsimp only | split)
theorem sendIrq_only {fr : List Part} {base : State} (fn : Nat) (vec : Nat) (mout : Part.out ∈ fr) (mhif : Part.hif ∈ fr) {s : State} (hk :
    Only fr base s) : Only fr base (sendIrq fn vec s) := by
  unfold sendIrq
  with_reducible repeat' (first
    | assumption | intro _ | apply ite_only | apply modHif_only | apply emit_only | dsimp only | split)
theorem modRing_only {fr : List Part} {base : State} (r : Nat) (f : Ring → Ring) (mhif : Part.hif ∈ fr) {s : State} (hk : Only fr base s) :
    Only fr base (modRing r f s) := by
  unfold modRing
  with_reducible repeat' (first
    | assumption | intro _ | apply ite_only | apply modHif_only | dsimp only | split)
theorem settleRing_only {fr : List Part} {base : State} (r : Nat) (mhif : Part.hif ∈ fr) {s : State} (hk : Only fr base s) : Only fr base
    (settleRing r s) := by
  unfold settleRing
  with_reducible repeat' (first
    | assumption | intro _ | apply ite_only | apply modRing_only | dsimp only | split)
theorem raiseIrq_only {fr : List Part} {base : State} (r : Nat) (mout : Part.out ∈ fr) (mhif : Part.hif ∈ fr) {s : State} (hk : Only fr base
    s) : Only fr base (raiseIrq r s) := by
  unfold raiseIrq
  with_reducible repeat' (first
    | assumption | intro _ | apply ite_only | apply modRing_only | apply sendIrq_only | dsimp only | split)
theorem ringIrq_only {fr : List Part} {base : State} (r : Nat) (now : Bool) (mout : Part.out ∈ fr) (mhif : Part.hif ∈ fr) {s : State} (hk :
    Only fr base s) : Only fr base (ringIrq r now s) := by
  unfold ringIrq
  with_reducible repeat' (first
    | assumption | intro _ | apply ite_only | apply raiseIrq_only | apply modRing_only | dsimp only | split)
theorem sendPending_only {fr : List Part} {base : State} (fn : Nat) (vec : Nat) (mout : Part.out ∈ fr) (mhif : Part.hif ∈ fr) {s : State}
    (hk : Only fr base s) : Only fr base (sendPending fn vec s) := by
  unfold sendPending
  with_reducible repeat' (first
    | assumption | intro _ | apply ite_only | apply emit_only | apply modHif_only | dsimp only | split)
theorem writeEntry_only {fr : List Part} {base : State} (r : Nat) (e : List Byte) (now : Bool) (mout : Part.out ∈ fr) (mhif : Part.hif ∈ fr)
    {s : State} (hk : Only fr base s) : Only fr base (writeEntry r e now s) := by
  unfold writeEntry
  with_reducible repeat' (first
    | assumption | intro _ | apply ite_only | apply ringIrq_only | apply modRing_only | apply emit_only | dsimp only | split)
theorem dropEvent_only {fr : List Part} {base : State} (t : Nat) (mhif : Part.hif ∈ fr) {s : State} (hk : Only fr base s) : Only fr base
    (dropEvent t s) := by
  unfold dropEvent
  with_reducible repeat' (first
    | assumption | intro _ | apply ite_only | apply setTenRec_only | dsimp only | split)
theorem putEvent_only {fr : List Part} {base : State} (t : Nat) (code : Nat) (subject : Nat) (detail : Nat) (mout : Part.out ∈ fr) (mhif :
    Part.hif ∈ fr) {s : State} (hk : Only fr base s) : Only fr base (putEvent t code subject detail s) := by
  unfold putEvent
  with_reducible repeat' (first
    | assumption | intro _ | apply ite_only | apply setTenRec_only | apply writeEntry_only | dsimp only | split)
theorem postEvent_only {fr : List Part} {base : State} (t : Nat) (code : Nat) (subject : Nat) (detail : Nat) (mout : Part.out ∈ fr) (mhif :
    Part.hif ∈ fr) {s : State} (hk : Only fr base s) : Only fr base (postEvent t code subject detail s) := by
  unfold postEvent
  with_reducible repeat' (first
    | assumption | intro _ | apply ite_only | apply putEvent_only | apply dropEvent_only | apply modRing_only | dsimp only | split)
theorem ringError_only {fr : List Part} {base : State} (r : Nat) (code : Nat) (mout : Part.out ∈ fr) (mhif : Part.hif ∈ fr) {s : State} (hk
    : Only fr base s) : Only fr base (ringError r code s) := by
  unfold ringError
  with_reducible repeat' (first
    | assumption | intro _ | apply ite_only | apply postEvent_only | apply modRing_only | dsimp only | split)
theorem addRec_only {fr : List Part} {base : State} (r : Rec) (mbook : Part.book ∈ fr) {s : State} (hk : Only fr base s) : Only fr base
    (addRec r s) := by
  unfold addRec
  with_reducible repeat' (first
    | assumption | intro _ | apply ite_only | apply modBook_only | dsimp only | split)
theorem record_only {fr : List Part} {base : State} (code : Nat) (subject : Nat) (detail : Nat) (mbook : Part.book ∈ fr) {s : State} (hk :
    Only fr base s) : Only fr base (record code subject detail s) := by
  unfold record
  with_reducible repeat' (first
    | assumption | intro _ | apply ite_only | apply addRec_only | dsimp only | split)
theorem recordT_only {fr : List Part} {base : State} (t : Nat) (code : Nat) (subject : Nat) (detail : Nat) (mbook : Part.book ∈ fr) {s :
    State} (hk : Only fr base s) : Only fr base (recordT t code subject detail s) := by
  unfold recordT
  with_reducible repeat' (first
    | assumption | intro _ | apply ite_only | apply addRec_only | dsimp only | split)
theorem noteT_only {fr : List Part} {base : State} (t : Nat) (code : Nat) (subject : Nat) (detail : Nat) (mout : Part.out ∈ fr) (mhif :
    Part.hif ∈ fr) (mbook : Part.book ∈ fr) {s : State} (hk : Only fr base s) : Only fr base (noteT t code subject detail s) := by
  unfold noteT
  with_reducible repeat' (first
    | assumption | intro _ | apply ite_only | apply recordT_only | apply postEvent_only | dsimp only | split)
theorem commitKept_only {fr : List Part} {base : State} (mmram : Part.mram ∈ fr) (mbook : Part.book ∈ fr) {s : State} (hk : Only fr base s)
    : Only fr base (commitKept s) := by
  unfold commitKept
  with_reducible repeat' (first
    | assumption | intro _ | apply ite_only | apply modBook_only | apply modMram_only | dsimp only | split)
theorem modHnd_only {fr : List Part} {base : State} (h : Nat) (f : Hnd → Hnd) (mpln : Part.pln ∈ fr) {s : State} (hk : Only fr base s) :
    Only fr base (modHnd h f s) := by
  unfold modHnd
  with_reducible repeat' (first
    | assumption | intro _ | apply ite_only | apply modPln_only | dsimp only | split)
theorem modPage_only {fr : List Part} {base : State} (h : Nat) (p : Nat) (f : Page → Page) (mpln : Part.pln ∈ fr) {s : State} (hk : Only fr
    base s) : Only fr base (modPage h p f s) := by
  unfold modPage
  with_reducible repeat' (first
    | assumption | intro _ | apply ite_only | apply modPln_only | dsimp only | split)
theorem hPut_only {fr : List Part} {base : State} (h : Nat) (off : Nat) (bs : List Byte) (mmem : Part.mem ∈ fr) (mpln : Part.pln ∈ fr) {s :
    State} (hk : Only fr base s) : Only fr base (hPut h off bs s) := by
  unfold hPut
  with_reducible repeat' (first
    | assumption | intro _ | apply ite_only | apply modPln_only | apply modMem_only | dsimp only | split)
theorem modTstep_only {fr : List Part} {base : State} (t : Nat) (f : TenStep → TenStep) (mstp : Part.stp ∈ fr) {s : State} (hk : Only fr
    base s) : Only fr base (modTstep t f s) := by
  unfold modTstep
  with_reducible repeat' (first
    | assumption | intro _ | apply ite_only | apply modStp_only | dsimp only | split)
theorem modStep_only {fr : List Part} {base : State} (t : Nat) (n : Nat) (f : StepRec → StepRec) (mstp : Part.stp ∈ fr) {s : State} (hk :
    Only fr base s) : Only fr base (modStep t n f s) := by
  unfold modStep
  with_reducible repeat' (first
    | assumption | intro _ | apply ite_only | apply modTstep_only | dsimp only | split)

end Sys2Proof.Machine
end

