-- ==== Sys2Proof/Laws/OnlyDbgOps.lean ====
section
/-!
SUPPORT. Laws/OnlyDbgOps.lean: what the operations of Machine/DbgOps.lean leave as it was.
-/
namespace Sys2Proof.Machine

set_option linter.unusedTactic false
set_option linter.unreachableTactic false
set_option linter.unusedVariables false

theorem frostAsk_only {fr : List Part} {base : State} (src : Nat) (mdbg : Part.dbg ∈ fr) {s : State} (hk : Only fr base s) : Only fr base
    (frostAsk src s) := by
  unfold frostAsk
  with_reducible repeat' (first
    | assumption | intro _ | apply ite_only | apply modDbg_only | dsimp only | split)
theorem frostFault_only {fr : List Part} {base : State} (cls : Nat) (mdbg : Part.dbg ∈ fr) {s : State} (hk : Only fr base s) : Only fr base
    (frostFault cls s) := by
  unfold frostFault
  with_reducible repeat' (first
    | assumption | intro _ | apply ite_only | apply frostAsk_only | dsimp only | split)
theorem trigDebug_only {fr : List Part} {base : State} (k : Nat) (mdbg : Part.dbg ∈ fr) {s : State} (hk : Only fr base s) : Only fr base
    (trigDebug k s) := by
  unfold trigDebug
  with_reducible repeat' (first
    | assumption | intro _ | apply ite_only | apply modDbg_only | apply frostAsk_only | dsimp only | split)

end Sys2Proof.Machine
end

