-- ==== Sys2Proof/Laws/OnlyShadow.lean ====
section
/-!
SUPPORT. Laws/OnlyShadow.lean: what the operations of Machine/Shadow.lean leave as it was.
-/
namespace Sys2Proof.Machine

set_option linter.unusedTactic false
set_option linter.unreachableTactic false
set_option linter.unusedVariables false

theorem setShadow_only {fr : List Part} {base : State} (g : Grp) (acc : Acc) (win : Nat) (i : Nat) (w : Word) (mgrp : Part.grp ∈ fr) {s :
    State} (hk : Only fr base s) : Only fr base (setShadow g acc win i w s) := by
  unfold setShadow
  with_reducible repeat' (first
    | assumption | intro _ | apply ite_only | apply modGrp_only | dsimp only | split)
theorem reload_only {fr : List Part} {base : State} (g : Grp) (acc : Acc) (win : Nat) (mgrp : Part.grp ∈ fr) {s : State} (hk : Only fr base
    s) : Only fr base (reload g acc win s) := by
  unfold reload
  with_reducible repeat' (first
    | assumption | intro _ | apply ite_only | apply forS_only | apply setShadow_only | dsimp only | split)
theorem setCstat_only {fr : List Part} {base : State} (accN : Nat) (g : Grp) (win : Nat) (res : Nat) (off : Nat) (mgrp : Part.grp ∈ fr) {s :
    State} (hk : Only fr base s) : Only fr base (setCstat accN g win res off s) := by
  unfold setCstat
  with_reducible repeat' (first
    | assumption | intro _ | apply ite_only | apply modGrp_only | dsimp only | split)
theorem commitWrite_only {fr : List Part} {base : State} (g : Grp) (acc : Acc) (win : Nat) (cmd : Nat) (mgrp : Part.grp ∈ fr) {s : State}
    (hk : Only fr base s) : Only fr base (commitWrite g acc win cmd s) := by
  unfold commitWrite
  with_reducible repeat' (first
    | assumption | intro _ | apply ite_only | apply setCstat_only | apply modGrp_only | dsimp only | split)
theorem abortWrite_only {fr : List Part} {base : State} (g : Grp) (acc : Acc) (win : Nat) (mgrp : Part.grp ∈ fr) {s : State} (hk : Only fr
    base s) : Only fr base (abortWrite g acc win s) := by
  unfold abortWrite
  with_reducible repeat' (first
    | assumption | intro _ | apply ite_only | apply reload_only | dsimp only | split)
theorem selectorWrite_only {fr : List Part} {base : State} (acc : Acc) (a : Nat) (v : Word) (mregs : Part.regs ∈ fr) (mgrp : Part.grp ∈ fr)
    {s : State} (hk : Only fr base s) : Only fr base (selectorWrite acc a v s) := by
  unfold selectorWrite
  with_reducible repeat' (first
    | assumption | intro _ | apply ite_only | apply reload_only | apply setRw_only | dsimp only | split)
theorem msixTableWrite_only {fr : List Part} {base : State} (fn : Nat) (i : Nat) (v : Word) (mout : Part.out ∈ fr) (mhif : Part.hif ∈ fr) {s
    : State} (hk : Only fr base s) : Only fr base (msixTableWrite fn i v s) := by
  unfold msixTableWrite
  with_reducible repeat' (first
    | assumption | intro _ | apply ite_only | apply sendPending_only | apply setMsixWord_only | dsimp only | split)
theorem pfRegisterWrite_only {fr : List Part} {base : State} (acc : Acc) (a : Nat) (v : Word) (mout : Part.out ∈ fr) (mregs : Part.regs ∈
    fr) (mgrp : Part.grp ∈ fr) (mhif : Part.hif ∈ fr) (mcor : Part.cor ∈ fr) (mstp : Part.stp ∈ fr) {s : State} (hk : Only fr base s) : Only
    fr base (pfRegisterWrite acc a v s) := by
  unfold pfRegisterWrite
  with_reducible repeat' (first
    | assumption | intro _ | apply ite_only | apply setShadow_only | apply setRw_only | apply msixTableWrite_only | apply modHif_only
    | apply modStp_only | apply modCor_only | dsimp only | split)
theorem vfRegisterWrite_only {fr : List Part} {base : State} (n : Nat) (t : Bool) (a : Nat) (v : Word) (mout : Part.out ∈ fr) (mregs :
    Part.regs ∈ fr) (mgrp : Part.grp ∈ fr) (mhif : Part.hif ∈ fr) {s : State} (hk : Only fr base s) : Only fr base (vfRegisterWrite n t a v
    s) := by
  unfold vfRegisterWrite
  with_reducible repeat' (first
    | assumption | intro _ | apply ite_only | apply setRw_only | apply setShadow_only | apply msixTableWrite_only | dsimp only | split)
theorem registerWrite_only {fr : List Part} {base : State} (acc : Acc) (a : Nat) (v : Word) (mout : Part.out ∈ fr) (mregs : Part.regs ∈ fr)
    (mgrp : Part.grp ∈ fr) (mhif : Part.hif ∈ fr) (mcor : Part.cor ∈ fr) (mstp : Part.stp ∈ fr) {s : State} (hk : Only fr base s) : Only fr
    base (registerWrite acc a v s) := by
  unfold registerWrite
  with_reducible repeat' (first
    | assumption | intro _ | apply ite_only | apply vfRegisterWrite_only | apply pfRegisterWrite_only | dsimp only | split)

end Sys2Proof.Machine
end

