-- ==== Sys2Proof/Laws/OnlyRing.lean ====
section
/-!
SUPPORT. Laws/OnlyRing.lean: what the operations of Machine/Ring.lean leave as it was.
-/
namespace Sys2Proof.Machine

set_option linter.unusedTactic false
set_option linter.unreachableTactic false
set_option linter.unusedVariables false

theorem modLive_only {fr : List Part} {base : State} (tag : Nat) (f : Live → Live) (mhif : Part.hif ∈ fr) {s : State} (hk : Only fr base s)
    : Only fr base (modLive tag f s) := by
  unfold modLive
  with_reducible repeat' (first
    | assumption | intro _ | apply ite_only | apply modHif_only | dsimp only | split)
theorem freeTag_only {fr : List Part} {base : State} (tag : Nat) (l : Live) (mhif : Part.hif ∈ fr) {s : State} (hk : Only fr base s) : Only
    fr base (freeTag tag l s) := by
  unfold freeTag
  with_reducible repeat' (first
    | assumption | intro _ | apply ite_only | apply settleRing_only | apply modRing_only | apply modHif_only | dsimp only | split)
theorem writeCompl_only {fr : List Part} {base : State} (tag : Nat) (l : Live) (mout : Part.out ∈ fr) (mhif : Part.hif ∈ fr) {s : State} (hk
    : Only fr base s) : Only fr base (writeCompl tag l s) := by
  unfold writeCompl
  with_reducible repeat' (first
    | assumption | intro _ | apply ite_only | apply writeEntry_only | apply ringError_only | dsimp only | split)
theorem postHeld_only {fr : List Part} {base : State} (tag : Nat) (mout : Part.out ∈ fr) (mhif : Part.hif ∈ fr) {s : State} (hk : Only fr
    base s) : Only fr base (postHeld tag s) := by
  unfold postHeld
  with_reducible repeat' (first
    | assumption | intro _ | apply ite_only | apply freeTag_only | apply writeCompl_only | apply modLive_only | dsimp only | split)
theorem finish_only {fr : List Part} {base : State} (tag : Nat) (status : Nat) (detail : Nat) (result : Nat) (mout : Part.out ∈ fr) (mhif :
    Part.hif ∈ fr) {s : State} (hk : Only fr base s) : Only fr base (finish tag status detail result s) := by
  unfold finish
  with_reducible repeat' (first
    | assumption | intro _ | apply ite_only | apply modLive_only | apply postHeld_only | dsimp only | split)
theorem completeNow_only {fr : List Part} {base : State} (tag : Nat) (status : Nat) (detail : Nat) (result : Nat) (mout : Part.out ∈ fr)
    (mhif : Part.hif ∈ fr) {s : State} (hk : Only fr base s) : Only fr base (completeNow tag status detail result s) := by
  unfold completeNow
  with_reducible repeat' (first
    | assumption | intro _ | apply ite_only | apply postHeld_only | apply modLive_only | dsimp only | split)
theorem ignoreDb_only {fr : List Part} {base : State} (mhif : Part.hif ∈ fr) {s : State} (hk : Only fr base s) : Only fr base (ignoreDb s)
    := by
  unfold ignoreDb
  with_reducible repeat' (first
    | assumption | intro _ | apply ite_only | apply modHif_only | dsimp only | split)
theorem staleDb_only {fr : List Part} {base : State} (mhif : Part.hif ∈ fr) {s : State} (hk : Only fr base s) : Only fr base (staleDb s) :=
    by
  unfold staleDb
  with_reducible repeat' (first
    | assumption | intro _ | apply ite_only | apply modHif_only | dsimp only | split)
theorem ringBell_only {fr : List Part} {base : State} (r : Nat) (index : Nat) (mout : Part.out ∈ fr) (mhif : Part.hif ∈ fr) {s : State} (hk
    : Only fr base s) : Only fr base (ringBell r index s) := by
  unfold ringBell
  with_reducible repeat' (first
    | assumption | intro _ | apply ite_only | apply staleDb_only | apply modRing_only | apply ringError_only | dsimp only | split)
theorem doorbell_only {fr : List Part} {base : State} (acc : Acc) (page : Nat) (off : Nat) (size : Nat) (value : Nat) (mout : Part.out ∈ fr)
    (mhif : Part.hif ∈ fr) (mdbg : Part.dbg ∈ fr) {s : State} (hk : Only fr base s) : Only fr base (doorbell acc page off size value s) :=
    by
  unfold doorbell
  with_reducible repeat' (first
    | assumption | intro _ | apply ite_only | apply modDbg_only | apply ignoreDb_only | apply ringBell_only | dsimp only | split)
theorem countGrant_only {fr : List Part} {base : State} (r : Nat) (mhif : Part.hif ∈ fr) {s : State} (hk : Only fr base s) : Only fr base
    (countGrant r s) := by
  unfold countGrant
  with_reducible repeat' (first
    | assumption | intro _ | apply ite_only | apply modHif_only | dsimp only | split)
theorem quotaPause_only {fr : List Part} {base : State} (t : Nat) (mout : Part.out ∈ fr) (mhif : Part.hif ∈ fr) {s : State} (hk : Only fr
    base s) : Only fr base (quotaPause t s) := by
  unfold quotaPause
  with_reducible repeat' (first
    | assumption | intro _ | apply ite_only | apply setTenRec_only | apply postEvent_only | dsimp only | split)
theorem fetchIssue_only {fr : List Part} {base : State} (r : Nat) (n : Nat) (want : List Nat) (mout : Part.out ∈ fr) (mhif : Part.hif ∈ fr)
    {s : State} (hk : Only fr base s) : Only fr base (fetchIssue r n want s) := by
  unfold fetchIssue
  with_reducible repeat' (first
    | assumption | intro _ | apply ite_only | apply emit_only | apply modRing_only | apply countGrant_only | apply modHif_only
    | apply quotaPause_only | dsimp only | split)
theorem takeEntry_only {fr : List Part} {base : State} (r : Nat) (count : Nat) (d : List Byte) (tag : Nat) (mout : Part.out ∈ fr) (mhif :
    Part.hif ∈ fr) {s : State} (hk : Only fr base s) : Only fr base (takeEntry r count d tag s) := by
  unfold takeEntry
  with_reducible repeat' (first
    | assumption | intro _ | apply ite_only | apply modHif_only | apply completeNow_only | dsimp only | split)
theorem fetchDone_only {fr : List Part} {base : State} (r : Nat) (fault : Nat) (bytes : List Byte) (mout : Part.out ∈ fr) (mhif : Part.hif ∈
    fr) {s : State} (hk : Only fr base s) : Only fr base (fetchDone r fault bytes s) := by
  unfold fetchDone
  with_reducible repeat' (first
    | assumption | intro _ | apply ite_only | apply settleRing_only | apply ringError_only | apply modRing_only | apply forS_only
    | apply takeEntry_only | dsimp only | split)
theorem startDesc_only {fr : List Part} {base : State} (tag : Nat) (op : Nat) (f : State → State) (mout : Part.out ∈ fr) (mhif : Part.hif ∈
    fr) (hf : ∀ x, Only fr base x → Only fr base (f x)) {s : State} (hk : Only fr base s) : Only fr base (startDesc tag op f s) := by
  unfold startDesc
  with_reducible repeat' (first
    | assumption | intro _ | apply ite_only | apply modLive_only | apply completeNow_only | apply hf | dsimp only | split)

end Sys2Proof.Machine
end

