-- ==== Sys2Proof/Laws/Groups.lean ====
section
/-!
SUPPORT. Laws/Groups.lean: what reloading a shadow, replacing a committed set and posting an event do (R56, R59, R91).
-/
namespace Sys2Proof.Machine

/-! ## Shadows and committed sets -/

theorem reload_aux (g : Grp) (acc : Acc) (win o : Nat) (l : List Nat) (s0 s : State) 
  (hsel : ∀ u : State, Only [.grp] s0 u → u.grp.sets = s0.grp.sets → selObj u g acc win = some o)
  (hs : s.grp.sets = s0.grp.sets) (h3 : s.grp.cstat = s0.grp.cstat) (h4: s.grp.pend = s0.grp.pend)
  (hfr : Only [.grp] s0 s) :
  let t := forS l (fun i s => setShadow g acc win i
      (match selObj s g acc win with
        | some o => cset s g o i
        | none => g.reset s.half i) s) s
  (∀ i, shadowReg t g acc win i = if i ∈ l then cset s0 g o i else shadowReg s g acc win i) ∧ t.grp.cstat = s0.grp.cstat ∧ t.grp.sets = s0.grp.sets ∧ t.grp.pend = s0.grp.pend ∧ Only [.grp] s0 t := by
  induction l generalizing s with
  | nil => simp [forS, *]
  | cons a r ih =>
    have hx := hsel s hfr hs
    have hh : s.half = s0.half := hfr .half (by simp)
    have := ih (setShadow g acc win a (cset s g o a) s) hs h3 h4 (by intro p hp; have := hfr p hp; cases p <;> first | exact this | simp at hp)
    simp only [forS, List.foldl_cons, hx] at this ⊢
    obtain ⟨p1, p2⟩ := this
    refine ⟨fun i => ?_, p2⟩
    rw [p1 i]
    by_cases hi : i ∈ r
    · simp [hi]
    · by_cases hia : i = a
      · subst hia; simp [hi, shadowReg, setShadow, modGrp, cset, hs, hh]
      · simp only [hi, if_false, List.mem_cons, hia, or_self, shadowReg, setShadow, modGrp]
        exact get_set_other _ _ _ _ (by simp [shadowKey, hia])

theorem sel_const (g : Grp) (acc : Acc) (win : Nat) (s u : State) (hu : Only [.grp] s u) (c : u.grp.sets = s.grp.sets) : selObj u g acc win = selObj s g acc win := by
     have a : u.regs = s.regs := hu .regs (by simp)
     have b : u.hif = s.hif := hu .hif (by simp)
     have d : u.half = s.half := hu .half (by simp)
     have e1 : selVal u g acc win = selVal s g acc win := by simp [selVal, rwReg, a, d]
     have e2 : ∀ n k, tenAtSlot u n k = tenAtSlot s n k := by intro n k; simp only [tenAtSlot, boundTens, b, tenFn, tenSlot, tenRec]; rfl
     simp only [selObj, e1, e2]
theorem reload_spec (g : Grp) (acc : Acc) (win o : Nat) (s : State) (h : selObj s g acc win = some o) :
   (∀ i, i < g.size → shadowReg (reload g acc win s) g acc win i = cset s g o i) ∧ (reload g acc win s).grp.cstat = s.grp.cstat ∧ (reload g acc win s).grp.sets = s.grp.sets ∧ (reload g acc win s).grp.pend = s.grp.pend ∧ Only [.grp] s (reload g acc win s) := by
  have := reload_aux g acc win o (List.range g.size) s s (fun u hu c => by rw [← h]; exact sel_const g acc win s u hu c) rfl rfl rfl (Only.rfl' _ _)
  obtain ⟨p, q⟩ := this
  refine ⟨fun i hi => ?_, q⟩
  have := p i
  simp only [List.mem_range, hi, if_true] at this
  exact this
theorem setKey_inj (g g' : Grp) (o o' i i' : Nat) (h : i < 512) (h' : i' < 512) : setKey g o i = setKey g' o' i' ↔ g = g' ∧ o = o' ∧ i = i' := by
  constructor
  · intro e
    have a := g.idx_lt
    have b := g'.idx_lt
    simp only [setKey] at e
    have e1 : i = i' := by omega
    have e2 : g.idx = g'.idx := by omega
    have e3 : o = o' := by omega
    exact ⟨by cases g <;> cases g' <;> first | rfl | simp [Grp.idx] at e2, e3, e1⟩
  · rintro ⟨rfl, rfl, rfl⟩; rfl
theorem cset_csetPut (g : Grp) (o i : Nat) (w : Word) (s : State) (g' : Grp) (o' i' : Nat) (h : i < 512) (h' : i' < 512) :
    cset (csetPut g o i w s) g' o' i' = if g' = g ∧ o' = o ∧ i' = i then w &&& g.mask i else cset s g' o' i' := by
  simp only [cset, csetPut, modGrp]
  by_cases e : g' = g ∧ o' = o ∧ i' = i
  · obtain ⟨rfl, rfl, rfl⟩ := e
    simp
  · rw [if_neg e]
    exact get_set_other _ _ _ _ (by rw [Ne, setKey_inj _ _ _ _ _ _ h' h]; exact e)
theorem csetAll_aux (g : Grp) (o : Nat) (ws : List Word) (n : Nat) (s : State) (hn : n + ws.length ≤ 512) (g' : Grp) (o' i' : Nat) (h' : i' < 512) :
    cset (forS (ws.zipIdx n) (fun p => csetPut g o p.2 p.1) s) g' o' i' =
      if g' = g ∧ o' = o ∧ n ≤ i' ∧ i' < n + ws.length then ws.getD (i' - n) 0 &&& g.mask i' else cset s g' o' i' := by
  induction ws generalizing n s with
  | nil => simp only [List.zipIdx_nil, forS, List.foldl_nil, List.length_nil]; rw [if_neg (by omega)]
  | cons w r ih =>
    simp only [List.zipIdx_cons, forS, List.foldl_cons, List.length_cons] at ih hn ⊢
    rw [ih (n+1) _ (by omega), cset_csetPut g o n w s g' o' i' (by omega) h']
    by_cases e : g' = g ∧ o' = o
    · obtain ⟨rfl, rfl⟩ := e
      by_cases e2 : i' = n
      · subst e2; rw [if_neg (by omega)]; simp
      · by_cases e3 : n + 1 ≤ i' ∧ i' < n + 1 + r.length
        · obtain ⟨m, rfl⟩ : ∃ m, i' = n + 1 + m := ⟨i' - (n+1), by omega⟩
          rw [if_pos ⟨rfl, rfl, e3⟩, if_pos ⟨rfl, rfl, by omega, by omega⟩]
          simp [show n + 1 + m - n = m + 1 by omega]
        · rw [if_neg (by omega), if_neg (by omega), if_neg (by omega)]
    · rw [if_neg (fun h => e ⟨h.1, h.2.1⟩), if_neg (fun h => e ⟨h.1, h.2.1⟩), if_neg (fun h => e ⟨h.1, h.2.1⟩)]
theorem csetAll_frame (g : Grp) (o : Nat) (l : List (Word × Nat)) (s0 s : State) (h : Only [.grp] s0 s) (h1 : s.grp.pend = s0.grp.pend) (h2 : s.grp.shadows = s0.grp.shadows) (h3 : s.grp.cstat = s0.grp.cstat):
   let t := forS l (fun p => csetPut g o p.2 p.1) s
   Only [.grp] s0 t ∧ t.grp.pend = s0.grp.pend ∧ t.grp.shadows = s0.grp.shadows ∧ t.grp.cstat = s0.grp.cstat := by
  induction l generalizing s with
  | nil => exact ⟨h, h1, h2, h3⟩
  | cons x r ih =>
    exact ih (csetPut g o x.2 x.1 s) (by intro p hp; have := h p hp; cases p <;> first | exact this | simp at hp) h1 h2 h3

/-! ## Rings -/

theorem ringRec_modRing (r q : Nat) (f : Ring → Ring) (s : State) : ringRec (modRing r f s) q = if q = r then f (ringRec s r) else ringRec s q := by
  simp [ringRec, modRing, modHif]
theorem ringTen_of (t k : Nat) (h : k < 256) : ringTen (t * 256 + k) = t := by simp [ringTen]; omega
theorem tenset_ring (t : Nat) (f : Ten → Ten) (s : State) (q : Nat) : ringRec (setTenRec t f s) q = ringRec s q := rfl
theorem sendIrq_ring (fn v : Nat) (s : State) (q : Nat) : ringRec (sendIrq fn v s) q = ringRec s q := by unfold sendIrq; split <;> rfl
theorem raiseIrq_ring (r : Nat) (s : State) (q : Nat) :
    ∃ g o m, ringRec (raiseIrq r s) q = { ringRec s q with gap := g, owed := o, masked := m } := by
  unfold raiseIrq
  dsimp only
  rw [ringRec_modRing, sendIrq_ring, sendIrq_ring]
  split
  · next h => subst h; exact ⟨_, _, _, rfl⟩
  · exact ⟨(ringRec s q).gap, (ringRec s q).owed, (ringRec s q).masked, rfl⟩
theorem ringIrq_ring (r : Nat) (b : Bool) (s : State) (q : Nat) :
    ∃ g o m, ringRec (ringIrq r b s) q = { ringRec s q with gap := g, owed := o, masked := m } := by
  unfold ringIrq
  split
  · split
    · exact raiseIrq_ring r s q
    · rw [ringRec_modRing]
      split
      · next h => subst h; exact ⟨(ringRec s q).gap, true, (ringRec s q).masked, rfl⟩
      · exact ⟨(ringRec s q).gap, (ringRec s q).owed, (ringRec s q).masked, rfl⟩
  · exact ⟨(ringRec s q).gap, (ringRec s q).owed, (ringRec s q).masked, rfl⟩
theorem postEvent_ring_other (t c x d : Nat) (s : State) (q : Nat) (h : evqRing s t ≠ q) : (ringRec (postEvent t c x d s) q) = {(ringRec (postEvent t c x d s) q) with st := (ringRec s q).st, err := (ringRec s q).err, latched := (ringRec s q).latched} := by
  unfold postEvent
  split
  · split
    · unfold putEvent writeEntry
      rw [tenset_ring]
      obtain ⟨g, o, m, e⟩ := ringIrq_ring (evqRing s t) false (modRing (evqRing s t) (fun x => { x with posted := (x.posted + 1) % 0x100000000 }) (emit (.hostWrite (tenFn s (ringTen (evqRing s t))) (pasidOf (ringRec s (evqRing s t)).pasid) (ringBase s (evqRing s t) + (ringRec s (evqRing s t)).posted % ringSize s (evqRing s t) * 32) (eventBytes s t c x d ++ [if (ringRec s (evqRing s t)).posted / ringSize s (evqRing s t) % 2 = 0 then 0x80 else 0])) s)) q
      dsimp only
      rw [e, ringRec_modRing, if_neg (Ne.symm h)]
      rfl
    · unfold dropEvent
      rw [tenset_ring, tenset_ring, ringRec_modRing, if_neg (Ne.symm h)]
  · unfold dropEvent
    rw [tenset_ring]

theorem postEvent_st (t c x d : Nat) (s : State) (q : Nat) (h : (ringRec s q).st = .error) : (ringRec (postEvent t c x d s) q).st = .error := by
  by_cases e : evqRing s t = q
  · unfold postEvent
    split
    · split
      · unfold putEvent writeEntry
        rw [tenset_ring]
        dsimp only
        have := ringIrq_ring (evqRing s t) false (modRing (evqRing s t) (fun x => { x with posted := (x.posted + 1) % 0x100000000 }) (emit (.hostWrite (tenFn s (ringTen (evqRing s t))) (pasidOf (ringRec s (evqRing s t)).pasid) (ringBase s (evqRing s t) + (ringRec s (evqRing s t)).posted % ringSize s (evqRing s t) * 32) (eventBytes s t c x d ++ [if (ringRec s (evqRing s t)).posted / ringSize s (evqRing s t) % 2 = 0 then 0x80 else 0])) s)) q
        obtain ⟨g, o, m, e'⟩ := this
        rw [e', ringRec_modRing]
        split
        · next h => subst h; exact ‹(ringRec s _).st = _›
        · exact h
      · unfold dropEvent
        rw [tenset_ring, tenset_ring, ringRec_modRing]
        split
        · next h' => subst h'; simp [h]
        · exact h
    · unfold dropEvent; rw [tenset_ring]; exact h
  · rw [postEvent_ring_other t c x d s q e]; exact h

end Sys2Proof.Machine
end

