-- ==== Sys2Proof/Laws/OnlyMem.lean ====
section
/-!
SUPPORT. Laws/OnlyMem.lean: what the operations of Machine/Mem.lean leave as it was.
-/
namespace Sys2Proof.Machine

set_option linter.unusedTactic false
set_option linter.unreachableTactic false
set_option linter.unusedVariables false

theorem modStk_only {fr : List Part} {base : State} (k : Nat) (f : Stk → Stk) (mpln : Part.pln ∈ fr) {s : State} (hk : Only fr base s) :
    Only fr base (modStk k f s) := by
  unfold modStk
  with_reducible repeat' (first
    | assumption | intro _ | apply ite_only | apply modPln_only | dsimp only | split)
theorem dropMove_only {fr : List Part} {base : State} (key : Nat) (mpln : Part.pln ∈ fr) {s : State} (hk : Only fr base s) : Only fr base
    (dropMove key s) := by
  unfold dropMove
  with_reducible repeat' (first
    | assumption | intro _ | apply ite_only | apply modPln_only | dsimp only | split)
theorem dropPage_only {fr : List Part} {base : State} (h : Nat) (p : Nat) (mmem : Part.mem ∈ fr) (mpln : Part.pln ∈ fr) {s : State} (hk :
    Only fr base s) : Only fr base (dropPage h p s) := by
  unfold dropPage
  with_reducible repeat' (first
    | assumption | intro _ | apply ite_only | apply modPln_only | apply dropMove_only | apply modMem_only | dsimp only | split)
theorem dropHnd_only {fr : List Part} {base : State} (h : Nat) (mmem : Part.mem ∈ fr) (mpln : Part.pln ∈ fr) {s : State} (hk : Only fr base
    s) : Only fr base (dropHnd h s) := by
  unfold dropHnd
  with_reducible repeat' (first
    | assumption | intro _ | apply ite_only | apply forS_only | apply dropPage_only | apply modPln_only | dsimp only | split)
theorem pressTrim_only {fr : List Part} {base : State} (k : Nat) (t : Nat) (keep : Nat) (mpln : Part.pln ∈ fr) {s : State} (hk : Only fr
    base s) : Only fr base (pressTrim k t keep s) := by
  unfold pressTrim
  with_reducible repeat' (first
    | assumption | intro _ | apply ite_only | apply modPln_only | apply foldl_only | apply foldl2_only | apply ite2_only | dsimp only
    | split)
theorem pressLine_only {fr : List Part} {base : State} (k : Nat) (t : Nat) (h : Nat) (line : Nat) (d : List (Nat × Byte)) (mpln : Part.pln ∈
    fr) {s : State} (hk : Only fr base s) : Only fr base (pressLine k t h line d s) := by
  unfold pressLine
  with_reducible repeat' (first
    | assumption | intro _ | apply ite_only | apply modPln_only | apply pressTrim_only | apply foldl_only | apply foldl2_only
    | apply ite2_only | dsimp only | split)
theorem pressWhole_only {fr : List Part} {base : State} (h : Nat) (line : Nat) (mpln : Part.pln ∈ fr) {s : State} (hk : Only fr base s) :
    Only fr base (pressWhole h line s) := by
  unfold pressWhole
  with_reducible repeat' (first
    | assumption | intro _ | apply ite_only | apply modPln_only | dsimp only | split)
theorem pressWrite_only {fr : List Part} {base : State} (k : Nat) (t : Nat) (h : Nat) (off : Nat) (bs : List Byte) (mpln : Part.pln ∈ fr) {s
    : State} (hk : Only fr base s) : Only fr base (pressWrite k t h off bs s) := by
  unfold pressWrite
  with_reducible repeat' (first
    | assumption | intro _ | apply ite_only | apply forS_only | apply pressWhole_only | apply pressLine_only | dsimp only | split)
theorem wakeUp_only {fr : List Part} {base : State} (mpwr : Part.pwr ∈ fr) {s : State} (hk : Only fr base s) : Only fr base (wakeUp s) := by
  unfold wakeUp
  with_reducible repeat' (first
    | assumption | intro _ | apply ite_only | apply modPwr_only | dsimp only | split)
theorem landWrite_only {fr : List Part} {base : State} (w : WaitW) (mmem : Part.mem ∈ fr) (mpln : Part.pln ∈ fr) (mrck : Part.rck ∈ fr) {s :
    State} (hk : Only fr base s) : Only fr base (landWrite w s) := by
  unfold landWrite
  with_reducible repeat' (first
    | assumption | intro _ | apply ite_only | apply hPut_only | apply pressWrite_only | apply modPage_only | apply modRck_only
    | dsimp only | split)
theorem pump_only {fr : List Part} {base : State} (mmem : Part.mem ∈ fr) (mpln : Part.pln ∈ fr) (mrck : Part.rck ∈ fr) {s : State} (hk :
    Only fr base s) : Only fr base (pump s) := by
  unfold pump
  with_reducible repeat' (first
    | assumption | intro _ | apply ite_only | apply landWrite_only | apply modPln_only | apply foldl_only | apply foldl2_only
    | apply ite2_only | dsimp only | split)
theorem startMove_only {fr : List Part} {base : State} (key : Nat) (l : Nat × Nat) (v : Option (Nat × Nat × Nat × Nat)) (promo : Bool) (mpln
    : Part.pln ∈ fr) {s : State} (hk : Only fr base s) : Only fr base (startMove key l v promo s) := by
  unfold startMove
  with_reducible repeat' (first
    | assumption | intro _ | apply ite_only | apply modPln_only | dsimp only | split)
theorem countUnmet_only {fr : List Part} {base : State} (x : Page) (l : Nat × Nat) (mpln : Part.pln ∈ fr) {s : State} (hk : Only fr base s)
    : Only fr base (countUnmet x l s) := by
  unfold countUnmet
  with_reducible repeat' (first
    | assumption | intro _ | apply ite_only | apply modPln_only | dsimp only | split)
theorem startPromo_only {fr : List Part} {base : State} (h : Nat) (p : Nat) (mpln : Part.pln ∈ fr) {s : State} (hk : Only fr base s) : Only
    fr base (startPromo h p s) := by
  unfold startPromo
  with_reducible repeat' (first
    | assumption | intro _ | apply ite_only | apply countUnmet_only | apply startMove_only | dsimp only | split)
theorem promoteRange_only {fr : List Part} {base : State} (h : Nat) (off : Nat) (n : Nat) (mpln : Part.pln ∈ fr) {s : State} (hk : Only fr
    base s) : Only fr base (promoteRange h off n s) := by
  unfold promoteRange
  with_reducible repeat' (first
    | assumption | intro _ | apply ite_only | apply forS_only | apply startPromo_only | dsimp only | split)
theorem hWrite_only {fr : List Part} {base : State} (who : Nat) (t : Nat) (step : Option Nat) (h : Nat) (off : Nat) (bs : List Byte) (mmem :
    Part.mem ∈ fr) (mpln : Part.pln ∈ fr) (mrck : Part.rck ∈ fr) (mpwr : Part.pwr ∈ fr) {s : State} (hk : Only fr base s) : Only fr base
    (hWrite who t step h off bs s) := by
  unfold hWrite
  with_reducible repeat' (first
    | assumption | intro _ | apply ite_only | apply pump_only | apply whenS_only | apply wakeUp_only | apply promoteRange_only
    | apply modPln_only | dsimp only | split)
theorem countAccess_only {fr : List Part} {base : State} (d : Nat) (h : Nat) (off : Nat) (n : Nat) (mpln : Part.pln ∈ fr) {s : State} (hk :
    Only fr base s) : Only fr base (countAccess d h off n s) := by
  unfold countAccess
  with_reducible repeat' (first
    | assumption | intro _ | apply ite_only | apply forS_only | apply modPage_only | dsimp only | split)

end Sys2Proof.Machine
end

