-- ==== Sys2Proof/Laws/OnlyVineOps.lean ====
section
/-!
SUPPORT. Laws/OnlyVineOps.lean: what the operations of Machine/VineOps.lean leave as it was.
-/
namespace Sys2Proof.Machine

set_option linter.unusedTactic false
set_option linter.unreachableTactic false
set_option linter.unusedVariables false

theorem modPort_only {fr : List Part} {base : State} (p : Nat) (f : Port → Port) (mvnl : Part.vnl ∈ fr) {s : State} (hk : Only fr base s) :
    Only fr base (modPort p f s) := by
  unfold modPort
  with_reducible repeat' (first
    | assumption | intro _ | apply ite_only | apply modVnl_only | dsimp only | split)
theorem sendIdle_only {fr : List Part} {base : State} (p : Nat) (ack : Nat) (nak : Bool) (ackValid : Bool) (credits : Nat) (cls : Nat) (hb :
    Bool) (mout : Part.out ∈ fr) {s : State} (hk : Only fr base s) : Only fr base (sendIdle p ack nak ackValid credits cls hb s) := by
  unfold sendIdle
  with_reducible repeat' (first
    | assumption | intro _ | apply ite_only | apply emit_only | dsimp only | split)
theorem sealFlit_only {fr : List Part} {base : State} (p : Nat) (typ : Nat) (cls : Nat) (dest : Nat) (som : Bool) (eom : Bool) (payload :
    List Byte) (dv : Bool) (mvnl : Part.vnl ∈ fr) {s : State} (hk : Only fr base s) : Only fr base (sealFlit p typ cls dest som eom payload
    dv s).2 := by
  unfold sealFlit
  with_reducible repeat' (first
    | assumption | intro _ | apply ite_only | apply modPort_only | apply ite2_only | dsimp only | split)
theorem sendFlit_only {fr : List Part} {base : State} (p : Nat) (typ : Nat) (cls : Nat) (dest : Nat) (som : Bool) (eom : Bool) (payload :
    List Byte) (mout : Part.out ∈ fr) (mvnl : Part.vnl ∈ fr) {s : State} (hk : Only fr base s) : Only fr base (sendFlit p typ cls dest som
    eom payload s) := by
  unfold sendFlit
  with_reducible repeat' (first
    | assumption | intro _ | apply ite_only | apply sealFlit_only | apply emit_only | apply modPort_only | dsimp only | split)
theorem countDivert_only {fr : List Part} {base : State} (p : Nat) (n : Nat) (mvnl : Part.vnl ∈ fr) {s : State} (hk : Only fr base s) : Only
    fr base (countDivert p n s) := by
  unfold countDivert
  with_reducible repeat' (first
    | assumption | intro _ | apply ite_only | apply modPort_only | dsimp only | split)
theorem handOver_only {fr : List Part} {base : State} (b : Nat) (k : Nat) (env : List Byte) (mvnl : Part.vnl ∈ fr) {s : State} (hk : Only fr
    base s) : Only fr base (handOver b k env s) := by
  unfold handOver
  with_reducible repeat' (first
    | assumption | intro _ | apply ite_only | apply modVnl_only | dsimp only | split)
theorem queueMsg_only {fr : List Part} {base : State} (m : VMsg) (mvnl : Part.vnl ∈ fr) {s : State} (hk : Only fr base s) : Only fr base
    (queueMsg m s) := by
  unfold queueMsg
  with_reducible repeat' (first
    | assumption | intro _ | apply ite_only | apply modVnl_only | dsimp only | split)
theorem sealMsg_only {fr : List Part} {base : State} (p : Nat) (m : VMsg) (mvnl : Part.vnl ∈ fr) {s : State} (hk : Only fr base s) : Only fr
    base (sealMsg p m s) := by
  unfold sealMsg
  with_reducible repeat' (first
    | assumption | intro _ | apply ite_only | apply forS_only | apply modPort_only | apply sealFlit_only | apply queueMsg_only
    | dsimp only | split)
theorem divertSlot_only {fr : List Part} {base : State} (b : Nat) (k : Nat) (mvnl : Part.vnl ∈ fr) {s : State} (hk : Only fr base s) : Only
    fr base (divertSlot b k s) := by
  unfold divertSlot
  with_reducible repeat' (first
    | assumption | intro _ | apply ite_only | apply forS_only | apply sealMsg_only | apply modVnl_only | apply handOver_only
    | apply countDivert_only | apply modPort_only | dsimp only | split)
theorem divertBind_only {fr : List Part} {base : State} (b : Nat) (mvnl : Part.vnl ∈ fr) {s : State} (hk : Only fr base s) : Only fr base
    (divertBind b s) := by
  unfold divertBind
  with_reducible repeat' (first
    | assumption | intro _ | apply ite_only | apply forS_only | apply divertSlot_only | dsimp only | split)
theorem sendMsg_only {fr : List Part} {base : State} (p : Nat) (m : VMsg) (mout : Part.out ∈ fr) (mvnl : Part.vnl ∈ fr) {s : State} (hk :
    Only fr base s) : Only fr base (sendMsg p m s) := by
  unfold sendMsg
  with_reducible repeat' (first
    | assumption | intro _ | apply ite_only | apply forS_only | apply sendFlit_only | dsimp only | split)
theorem placeMsg_only {fr : List Part} {base : State} (m : VMsg) (mout : Part.out ∈ fr) (mvnl : Part.vnl ∈ fr) {s : State} (hk : Only fr
    base s) : Only fr base (placeMsg m s) := by
  unfold placeMsg
  with_reducible repeat' (first
    | assumption | intro _ | apply ite_only | apply sendMsg_only | apply queueMsg_only | dsimp only | split)
theorem slotSend_only {fr : List Part} {base : State} (b : Nat) (k : Nat) (cls : Nat) (dest : Nat) (bytes : List Byte) (mout : Part.out ∈
    fr) (mvnl : Part.vnl ∈ fr) {s : State} (hk : Only fr base s) : Only fr base (slotSend b k cls dest bytes s) := by
  unfold slotSend
  with_reducible repeat' (first
    | assumption | intro _ | apply ite_only | apply placeMsg_only | dsimp only | split)
theorem sendTo_only {fr : List Part} {base : State} (b : Nat) (cls : Nat) (dest : Nat) (bytes : List Byte) (mout : Part.out ∈ fr) (mvnl :
    Part.vnl ∈ fr) {s : State} (hk : Only fr base s) : Only fr base (sendTo b cls dest bytes s) := by
  unfold sendTo
  with_reducible repeat' (first
    | assumption | intro _ | apply ite_only | apply emit_only | apply slotSend_only | apply divertSlot_only | dsimp only | split)
theorem retryMsg_only {fr : List Part} {base : State} (m : VMsg) (mout : Part.out ∈ fr) (mvnl : Part.vnl ∈ fr) {s : State} (hk : Only fr
    base s) : Only fr base (retryMsg m s) := by
  unfold retryMsg
  with_reducible repeat' (first
    | assumption | intro _ | apply ite_only | apply sendMsg_only | apply queueMsg_only | apply placeMsg_only | dsimp only | split)
theorem drainQueue_only {fr : List Part} {base : State} (mout : Part.out ∈ fr) (mvnl : Part.vnl ∈ fr) {s : State} (hk : Only fr base s) :
    Only fr base (drainQueue s) := by
  unfold drainQueue
  with_reducible repeat' (first
    | assumption | intro _ | apply ite_only | apply forS_only | apply retryMsg_only | apply modVnl_only | dsimp only | split)
theorem upEvent_only {fr : List Part} {base : State} (tbl : Nat) (inst : Nat) (code : Nat) (tens : List Nat) (subject : Nat) (detail : Nat)
    (mcel : Part.cel ∈ fr) {s : State} (hk : Only fr base s) : Only fr base (upEvent tbl inst code tens subject detail s) := by
  unfold upEvent
  with_reducible repeat' (first
    | assumption | intro _ | apply ite_only | apply modCel_only | dsimp only | split)
theorem portEvt_only {fr : List Part} {base : State} (p : Nat) (code : Nat) (mcel : Part.cel ∈ fr) {s : State} (hk : Only fr base s) : Only
    fr base (portEvt p code s) := by
  unfold portEvt
  with_reducible repeat' (first
    | assumption | intro _ | apply ite_only | apply upEvent_only | dsimp only | split)
theorem sendTrain_only {fr : List Part} {base : State} (p : Nat) (bytes : List Byte) (mout : Part.out ∈ fr) {s : State} (hk : Only fr base
    s) : Only fr base (sendTrain p bytes s) := by
  unfold sendTrain
  with_reducible repeat' (first
    | assumption | intro _ | apply ite_only | apply forS_only | apply emit_only | dsimp only | split)
theorem hsSend_only {fr : List Part} {base : State} (p : Nat) (bytes : List Byte) (mout : Part.out ∈ fr) (mvnl : Part.vnl ∈ fr) {s : State}
    (hk : Only fr base s) : Only fr base (hsSend p bytes s) := by
  unfold hsSend
  with_reducible repeat' (first
    | assumption | intro _ | apply ite_only | apply sendTrain_only | apply modPort_only | dsimp only | split)
theorem hsHelloStart_only {fr : List Part} {base : State} (p : Nat) (mfree : Part.free ∈ fr) (mout : Part.out ∈ fr) (mvnl : Part.vnl ∈ fr)
    {s : State} (hk : Only fr base s) : Only fr base (hsHelloStart p s) := by
  unfold hsHelloStart
  with_reducible repeat' (first
    | assumption | intro _ | apply ite_only | apply fresh_only | apply hsSend_only | apply modPort_only | dsimp only | split)
theorem askToken_only {fr : List Part} {base : State} (p : Nat) (mout : Part.out ∈ fr) (mvnl : Part.vnl ∈ fr) {s : State} (hk : Only fr base
    s) : Only fr base (askToken p s) := by
  unfold askToken
  with_reducible repeat' (first
    | assumption | intro _ | apply ite_only | apply hsSend_only | apply modPort_only | dsimp only | split)
theorem retryTokens_only {fr : List Part} {base : State} (mout : Part.out ∈ fr) (mvnl : Part.vnl ∈ fr) {s : State} (hk : Only fr base s) :
    Only fr base (retryTokens s) := by
  unfold retryTokens
  with_reducible repeat' (first
    | assumption | intro _ | apply ite_only | apply forS_only | apply askToken_only | dsimp only | split)
theorem enterHedged_only {fr : List Part} {base : State} (p : Nat) (mfree : Part.free ∈ fr) (mout : Part.out ∈ fr) (mvnl : Part.vnl ∈ fr)
    (mcel : Part.cel ∈ fr) {s : State} (hk : Only fr base s) : Only fr base (enterHedged p s) := by
  unfold enterHedged
  with_reducible repeat' (first
    | assumption | intro _ | apply ite_only | apply hsHelloStart_only | apply portEvt_only | apply modPort_only | dsimp only | split)
theorem enterDark_only {fr : List Part} {base : State} (p : Nat) (reason : Nat) (mvnl : Part.vnl ∈ fr) (mcel : Part.cel ∈ fr) {s : State}
    (hk : Only fr base s) : Only fr base (enterDark p reason s) := by
  unfold enterDark
  with_reducible repeat' (first
    | assumption | intro _ | apply ite_only | apply portEvt_only | apply modPort_only | dsimp only | split)
theorem updReady_only {fr : List Part} {base : State} (b : Nat) (mout : Part.out ∈ fr) (mhif : Part.hif ∈ fr) (mvnl : Part.vnl ∈ fr) (mbook
    : Part.book ∈ fr) {s : State} (hk : Only fr base s) : Only fr base (updReady b s) := by
  unfold updReady
  with_reducible repeat' (first
    | assumption | intro _ | apply ite_only | apply modVnl_only | apply noteT_only | dsimp only | split)
theorem gateShutPort_only {fr : List Part} {base : State} (p : Nat) (reason : Nat) (mfree : Part.free ∈ fr) (mout : Part.out ∈ fr) (mhif :
    Part.hif ∈ fr) (mvnl : Part.vnl ∈ fr) (mcel : Part.cel ∈ fr) (mbook : Part.book ∈ fr) {s : State} (hk : Only fr base s) : Only fr base
    (gateShutPort p reason s) := by
  unfold gateShutPort
  with_reducible repeat' (first
    | assumption | intro _ | apply ite_only | apply modPort_only | apply noteT_only | apply enterHedged_only | apply updReady_only
    | dsimp only | split)
theorem tryOpen_only {fr : List Part} {base : State} (p : Nat) (mout : Part.out ∈ fr) (mhif : Part.hif ∈ fr) (mvnl : Part.vnl ∈ fr) (mcel :
    Part.cel ∈ fr) (mbook : Part.book ∈ fr) {s : State} (hk : Only fr base s) : Only fr base (tryOpen p s) := by
  unfold tryOpen
  with_reducible repeat' (first
    | assumption | intro _ | apply ite_only | apply modPort_only | apply drainQueue_only | apply updReady_only | apply portEvt_only
    | apply noteT_only | dsimp only | split)

end Sys2Proof.Machine
end

