-- ==== Sys2Proof/Laws/OnlyCoreOps.lean ====
section
/-!
SUPPORT. Laws/OnlyCoreOps.lean: what the operations of Machine/CoreOps.lean leave as it was.
-/
namespace Sys2Proof.Machine

set_option linter.unusedTactic false
set_option linter.unreachableTactic false
set_option linter.unusedVariables false

theorem modCore_only {fr : List Part} {base : State} (c : Nat) (f : Core → Core) (mcor : Part.cor ∈ fr) {s : State} (hk : Only fr base s) :
    Only fr base (modCore c f s) := by
  unfold modCore
  with_reducible repeat' (first
    | assumption | intro _ | apply ite_only | apply modCor_only | dsimp only | split)
theorem modSlot_only {fr : List Part} {base : State} (c : Nat) (k : Nat) (f : CSlot → CSlot) (mcor : Part.cor ∈ fr) {s : State} (hk : Only
    fr base s) : Only fr base (modSlot c k f s) := by
  unfold modSlot
  with_reducible repeat' (first
    | assumption | intro _ | apply ite_only | apply modCore_only | dsimp only | split)
theorem uPut_only {fr : List Part} {base : State} (c : Nat) (t : Nat) (w : Nat × Byte) (mmem : Part.mem ∈ fr) {s : State} (hk : Only fr base
    s) : Only fr base (uPut c t w s) := by
  unfold uPut
  with_reducible repeat' (first
    | assumption | intro _ | apply ite_only | apply modMem_only | dsimp only | split)
theorem noteWork_only {fr : List Part} {base : State} (t : Nat) (step : Option Nat) (code : Nat) (subject : Nat) (detail : Nat) (mout :
    Part.out ∈ fr) (mhif : Part.hif ∈ fr) (mstp : Part.stp ∈ fr) (mbook : Part.book ∈ fr) {s : State} (hk : Only fr base s) : Only fr base
    (noteWork t step code subject detail s) := by
  unfold noteWork
  with_reducible repeat' (first
    | assumption | intro _ | apply ite_only | apply addRec_only | apply modStp_only | apply noteT_only | dsimp only | split)
theorem count_only {fr : List Part} {base : State} (c : Nat) (set : Nat) (i : Nat) (n : Nat) (mcor : Part.cor ∈ fr) {s : State} (hk : Only
    fr base s) : Only fr base (count c set i n s) := by
  unfold count
  with_reducible repeat' (first
    | assumption | intro _ | apply ite_only | apply modCore_only | dsimp only | split)
theorem addCnt_only {fr : List Part} {base : State} (c : Nat) (k : Nat) (pool : Bool) (i : Nat) (n : Nat) (mout : Part.out ∈ fr) (mhif :
    Part.hif ∈ fr) (mcor : Part.cor ∈ fr) (mstp : Part.stp ∈ fr) (mbook : Part.book ∈ fr) {s : State} (hk : Only fr base s) : Only fr base
    (addCnt c k pool i n s) := by
  unfold addCnt
  with_reducible repeat' (first
    | assumption | intro _ | apply ite_only | apply modSlot_only | apply noteWork_only | apply count_only | dsimp only | split)
theorem postCnt_only {fr : List Part} {base : State} (c : Nat) (k : Nat) (pool : Bool) (i : Nat) (n : Nat) (mout : Part.out ∈ fr) (mhif :
    Part.hif ∈ fr) (mcor : Part.cor ∈ fr) (mstp : Part.stp ∈ fr) (mbook : Part.book ∈ fr) {s : State} (hk : Only fr base s) : Only fr base
    (postCnt c k pool i n s) := by
  unfold postCnt
  with_reducible repeat' (first
    | assumption | intro _ | apply ite_only | apply modSlot_only | apply addCnt_only | dsimp only | split)
theorem landPost_only {fr : List Part} {base : State} (f : FPost) (mout : Part.out ∈ fr) (mhif : Part.hif ∈ fr) (mcor : Part.cor ∈ fr) (mstp
    : Part.stp ∈ fr) (mbook : Part.book ∈ fr) {s : State} (hk : Only fr base s) : Only fr base (landPost f s) := by
  unfold landPost
  with_reducible repeat' (first
    | assumption | intro _ | apply ite_only | apply count_only | apply postCnt_only | apply noteWork_only | apply modSlot_only
    | dsimp only | split)
theorem makePost_only {fr : List Part} {base : State} (t : Nat) (src : Option (Nat × Nat)) (step : Option Nat) (p : Post) (mcor : Part.cor ∈
    fr) {s : State} (hk : Only fr base s) : Only fr base (makePost t src step p s) := by
  unfold makePost
  with_reducible repeat' (first
    | assumption | intro _ | apply ite_only | apply modCor_only | apply count_only | dsimp only | split)
theorem cntRestore_only {fr : List Part} {base : State} (r : List CntRec) (mcor : Part.cor ∈ fr) {s : State} (hk : Only fr base s) : Only fr
    base (cntRestore r s) := by
  unfold cntRestore
  with_reducible repeat' (first
    | assumption | intro _ | apply ite_only | apply forS_only | apply modSlot_only | dsimp only | split)
theorem modLaunch_only {fr : List Part} {base : State} (tag : Nat) (f : Launch → Launch) (mcor : Part.cor ∈ fr) {s : State} (hk : Only fr
    base s) : Only fr base (modLaunch tag f s) := by
  unfold modLaunch
  with_reducible repeat' (first
    | assumption | intro _ | apply ite_only | apply modCor_only | dsimp only | split)
theorem modPart_only {fr : List Part} {base : State} (tag : Nat) (c : Nat) (f : LPart → LPart) (mcor : Part.cor ∈ fr) {s : State} (hk : Only
    fr base s) : Only fr base (modPart tag c f s) := by
  unfold modPart
  with_reducible repeat' (first
    | assumption | intro _ | apply ite_only | apply modLaunch_only | dsimp only | split)
theorem tallyBody_only {fr : List Part} {base : State} (t : Nat) (c : Nat) (err : Bool) (l : Launch) (p : LPart) (mfree : Part.free ∈ fr) {s
    : State} (hk : Only fr base s) : Only fr base (tallyBody t c err l p s).2 := by
  unfold tallyBody
  with_reducible repeat' (first
    | assumption | intro _ | apply ite_only | apply fresh_only | apply foldl_only | apply foldl2_only | apply ite2_only | dsimp only
    | split)
theorem writeTally_only {fr : List Part} {base : State} (t : Nat) (body : List Byte) (mout : Part.out ∈ fr) (mdbg : Part.dbg ∈ fr) {s :
    State} (hk : Only fr base s) : Only fr base (writeTally t body s) := by
  unfold writeTally
  with_reducible repeat' (first
    | assumption | intro _ | apply ite_only | apply modDbg_only | apply emit_only | dsimp only | split)
theorem postTally_only {fr : List Part} {base : State} (t : Nat) (step : Option Nat) (body : List Byte) (mout : Part.out ∈ fr) (mdbg :
    Part.dbg ∈ fr) {s : State} (hk : Only fr base s) : Only fr base (postTally t step body s) := by
  unfold postTally
  with_reducible repeat' (first
    | assumption | intro _ | apply ite_only | apply modDbg_only | apply writeTally_only | dsimp only | split)
theorem releaseTallies_only {fr : List Part} {base : State} (t : Nat) (n : Nat) (mout : Part.out ∈ fr) (mdbg : Part.dbg ∈ fr) {s : State}
    (hk : Only fr base s) : Only fr base (releaseTallies t n s) := by
  unfold releaseTallies
  with_reducible repeat' (first
    | assumption | intro _ | apply ite_only | apply forS_only | apply writeTally_only | apply modDbg_only | dsimp only | split)
theorem dropTallies_only {fr : List Part} {base : State} (t : Nat) (n : Nat) (mdbg : Part.dbg ∈ fr) {s : State} (hk : Only fr base s) : Only
    fr base (dropTallies t n s) := by
  unfold dropTallies
  with_reducible repeat' (first
    | assumption | intro _ | apply ite_only | apply modDbg_only | dsimp only | split)
theorem latchPart_only {fr : List Part} {base : State} (tag : Nat) (c : Nat) (mcor : Part.cor ∈ fr) {s : State} (hk : Only fr base s) : Only
    fr base (latchPart tag c s) := by
  unfold latchPart
  with_reducible repeat' (first
    | assumption | intro _ | apply ite_only | apply modCore_only | apply modPart_only | apply foldl_only | apply foldl2_only
    | apply ite2_only | dsimp only | split)
theorem tallyPart_only {fr : List Part} {base : State} (err : Bool) (tag : Nat) (c : Nat) (mfree : Part.free ∈ fr) (mout : Part.out ∈ fr)
    (mcor : Part.cor ∈ fr) (mdbg : Part.dbg ∈ fr) {s : State} (hk : Only fr base s) : Only fr base (tallyPart err tag c s) := by
  unfold tallyPart
  with_reducible repeat' (first
    | assumption | intro _ | apply ite_only | apply latchPart_only | apply tallyBody_only | apply postTally_only | dsimp only | split)
theorem stopPart_only {fr : List Part} {base : State} (tag : Nat) (p : LPart) (mpln : Part.pln ∈ fr) (mcor : Part.cor ∈ fr) {s : State} (hk
    : Only fr base s) : Only fr base (stopPart tag p s) := by
  unfold stopPart
  with_reducible repeat' (first
    | assumption | intro _ | apply ite_only | apply modPln_only | apply modSlot_only | dsimp only | split)
theorem dropLaunch_only {fr : List Part} {base : State} (tag : Nat) (mpln : Part.pln ∈ fr) (mcor : Part.cor ∈ fr) {s : State} (hk : Only fr
    base s) : Only fr base (dropLaunch tag s) := by
  unfold dropLaunch
  with_reducible repeat' (first
    | assumption | intro _ | apply ite_only | apply modCor_only | apply forS_only | apply stopPart_only | dsimp only | split)
theorem settlePreempt_only {fr : List Part} {base : State} (c : Nat) (mcor : Part.cor ∈ fr) {s : State} (hk : Only fr base s) : Only fr base
    (settlePreempt c s) := by
  unfold settlePreempt
  with_reducible repeat' (first
    | assumption | intro _ | apply ite_only | apply modCor_only | apply modCore_only | dsimp only | split)
theorem settleCore_only {fr : List Part} {base : State} (c : Nat) (mcor : Part.cor ∈ fr) {s : State} (hk : Only fr base s) : Only fr base
    (settleCore c s) := by
  unfold settleCore
  with_reducible repeat' (first
    | assumption | intro _ | apply ite_only | apply settlePreempt_only | apply modCore_only | dsimp only | split)
theorem settleCores_only {fr : List Part} {base : State} (mcor : Part.cor ∈ fr) {s : State} (hk : Only fr base s) : Only fr base
    (settleCores s) := by
  unfold settleCores
  with_reducible repeat' (first
    | assumption | intro _ | apply ite_only | apply forS_only | apply settleCore_only | dsimp only | split)
theorem zeroContext_only {fr : List Part} {base : State} (c : Nat) (mmem : Part.mem ∈ fr) (mcor : Part.cor ∈ fr) {s : State} (hk : Only fr
    base s) : Only fr base (zeroContext c s) := by
  unfold zeroContext
  with_reducible repeat' (first
    | assumption | intro _ | apply ite_only | apply modSlot_only | apply modMem_only | dsimp only | split)
theorem zeroBank_only {fr : List Part} {base : State} (c : Nat) (mmem : Part.mem ∈ fr) {s : State} (hk : Only fr base s) : Only fr base
    (zeroBank c s) := by
  unfold zeroBank
  with_reducible repeat' (first
    | assumption | intro _ | apply ite_only | apply modMem_only | dsimp only | split)
theorem zeroSegment_only {fr : List Part} {base : State} (die : Nat) (seg : Nat) (mmem : Part.mem ∈ fr) (mcor : Part.cor ∈ fr) {s : State}
    (hk : Only fr base s) : Only fr base (zeroSegment die seg s) := by
  unfold zeroSegment
  with_reducible repeat' (first
    | assumption | intro _ | apply ite_only | apply modCor_only | apply modMem_only | dsimp only | split)
theorem zeroHandle_only {fr : List Part} {base : State} (h : Nat) (mmem : Part.mem ∈ fr) (mpln : Part.pln ∈ fr) {s : State} (hk : Only fr
    base s) : Only fr base (zeroHandle h s) := by
  unfold zeroHandle
  with_reducible repeat' (first
    | assumption | intro _ | apply ite_only | apply forS_only | apply modPage_only | apply modMem_only | dsimp only | split)
theorem releaseSlot_only {fr : List Part} {base : State} (c : Nat) (k : Nat) (mmem : Part.mem ∈ fr) (mgrp : Part.grp ∈ fr) (mpln : Part.pln
    ∈ fr) (mcor : Part.cor ∈ fr) {s : State} (hk : Only fr base s) : Only fr base (releaseSlot c k s) := by
  unfold releaseSlot
  with_reducible repeat' (first
    | assumption | intro _ | apply ite_only | apply modHnd_only | apply zeroHandle_only | apply zeroContext_only | apply modSlot_only
    | apply csetReset_only | dsimp only | split)
theorem saveImage_only {fr : List Part} {base : State} (c : Nat) (k : Nat) (mmem : Part.mem ∈ fr) (mpln : Part.pln ∈ fr) (mcor : Part.cor ∈
    fr) {s : State} (hk : Only fr base s) : Only fr base (saveImage c k s) := by
  unfold saveImage
  with_reducible repeat' (first
    | assumption | intro _ | apply ite_only | apply countAccess_only | apply modSlot_only | apply modMem_only | dsimp only | split)
theorem loadImage_only {fr : List Part} {base : State} (c : Nat) (k : Nat) (mmem : Part.mem ∈ fr) (mpln : Part.pln ∈ fr) (mcor : Part.cor ∈
    fr) {s : State} (hk : Only fr base s) : Only fr base (loadImage c k s) := by
  unfold loadImage
  with_reducible repeat' (first
    | assumption | intro _ | apply ite_only | apply countAccess_only | apply modMem_only | apply modSlot_only | dsimp only | split)
theorem swapContext_only {fr : List Part} {base : State} (c : Nat) (old : Nat) (new : Nat) (mmem : Part.mem ∈ fr) (mpln : Part.pln ∈ fr)
    (mcor : Part.cor ∈ fr) {s : State} (hk : Only fr base s) : Only fr base (swapContext c old new s) := by
  unfold swapContext
  with_reducible repeat' (first
    | assumption | intro _ | apply ite_only | apply modCore_only | apply zeroBank_only | apply loadImage_only | apply saveImage_only
    | dsimp only | split)
theorem swapOut_only {fr : List Part} {base : State} (c : Nat) (mmem : Part.mem ∈ fr) (mpln : Part.pln ∈ fr) (mcor : Part.cor ∈ fr) {s :
    State} (hk : Only fr base s) : Only fr base (swapOut c s) := by
  unfold swapOut
  with_reducible repeat' (first
    | assumption | intro _ | apply ite_only | apply saveImage_only | apply modCore_only | apply zeroBank_only | apply modMem_only
    | dsimp only | split)
theorem dropFlight_only {fr : List Part} {base : State} (c : Nat) (k : Nat) (mout : Part.out ∈ fr) (mhif : Part.hif ∈ fr) (mpln : Part.pln ∈
    fr) (mcor : Part.cor ∈ fr) (mstp : Part.stp ∈ fr) (mbook : Part.book ∈ fr) {s : State} (hk : Only fr base s) : Only fr base (dropFlight
    c k s) := by
  unfold dropFlight
  with_reducible repeat' (first
    | assumption | intro _ | apply ite_only | apply forS_only | apply addCnt_only | apply modPln_only | apply modSlot_only | dsimp only
    | split)
theorem discardFlight_only {fr : List Part} {base : State} (c : Nat) (k : Nat) (mout : Part.out ∈ fr) (mhif : Part.hif ∈ fr) (mpln :
    Part.pln ∈ fr) (mcor : Part.cor ∈ fr) (mstp : Part.stp ∈ fr) (mbook : Part.book ∈ fr) {s : State} (hk : Only fr base s) : Only fr base
    (discardFlight c k s) := by
  unfold discardFlight
  with_reducible repeat' (first
    | assumption | intro _ | apply ite_only | apply count_only | apply modCore_only | apply dropFlight_only | dsimp only | split)

end Sys2Proof.Machine
end

