-- ==== Sys2Proof/Laws/OnlyRackOps.lean ====
section
/-!
SUPPORT. Laws/OnlyRackOps.lean: what the operations of Machine/RackOps.lean leave as it was.
-/
namespace Sys2Proof.Machine

set_option linter.unusedTactic false
set_option linter.unreachableTactic false
set_option linter.unusedVariables false

theorem rackEnd_only {fr : List Part} {base : State} (tag : Nat) (t : Nat) (n : Nat) (status : Nat) (detail : Nat) (result : Nat) (mout :
    Part.out ∈ fr) (mhif : Part.hif ∈ fr) (mbook : Part.book ∈ fr) {s : State} (hk : Only fr base s) : Only fr base (rackEnd tag t n status
    detail result s) := by
  unfold rackEnd
  with_reducible repeat' (first
    | assumption | intro _ | apply ite_only | apply finish_only | apply noteT_only | dsimp only | split)
theorem setSlot_only {fr : List Part} {base : State} (k : Nat) (f : Slot → Slot) (mrck : Part.rck ∈ fr) {s : State} (hk : Only fr base s) :
    Only fr base (setSlot k f s) := by
  unfold setSlot
  with_reducible repeat' (first
    | assumption | intro _ | apply ite_only | apply modRck_only | dsimp only | split)
theorem modTenRack_only {fr : List Part} {base : State} (t : Nat) (f : TenRack → TenRack) (mrck : Part.rck ∈ fr) {s : State} (hk : Only fr
    base s) : Only fr base (modTenRack t f s) := by
  unfold modTenRack
  with_reducible repeat' (first
    | assumption | intro _ | apply ite_only | apply modRck_only | dsimp only | split)
theorem program_only {fr : List Part} {base : State} (t : Nat) (bytes : Nat) (mout : Part.out ∈ fr) (mhif : Part.hif ∈ fr) (mrck : Part.rck
    ∈ fr) (mbook : Part.book ∈ fr) {s : State} (hk : Only fr base s) : Only fr base (program t bytes s) := by
  unfold program
  with_reducible repeat' (first
    | assumption | intro _ | apply ite_only | apply modRck_only | apply noteT_only | dsimp only | split)
theorem dropMarks_only {fr : List Part} {base : State} (t : Nat) (mpln : Part.pln ∈ fr) (mstp : Part.stp ∈ fr) {s : State} (hk : Only fr
    base s) : Only fr base (dropMarks t s) := by
  unfold dropMarks
  with_reducible repeat' (first
    | assumption | intro _ | apply ite_only | apply modPln_only | apply modStp_only | dsimp only | split)
theorem abandonRack_only {fr : List Part} {base : State} (mpln : Part.pln ∈ fr) (mstp : Part.stp ∈ fr) (mrck : Part.rck ∈ fr) {s : State}
    (hk : Only fr base s) : Only fr base (abandonRack s) := by
  unfold abandonRack
  with_reducible repeat' (first
    | assumption | intro _ | apply ite_only | apply modRck_only | apply setSlot_only | apply dropMarks_only | dsimp only | split)
theorem toBuddy_only {fr : List Part} {base : State} (b : Nat) (k : Nat) (cls : Nat) (bytes : List Byte) (mout : Part.out ∈ fr) (mvnl :
    Part.vnl ∈ fr) {s : State} (hk : Only fr base s) : Only fr base (toBuddy b k cls bytes s) := by
  unfold toBuddy
  with_reducible repeat' (first
    | assumption | intro _ | apply ite_only | apply emit_only | apply slotSend_only | dsimp only | split)
theorem sendAnswer_only {fr : List Part} {base : State} (b : Nat) (m : List Byte) (a : ReadAns) (mout : Part.out ∈ fr) (mvnl : Part.vnl ∈
    fr) {s : State} (hk : Only fr base s) : Only fr base (sendAnswer b m a s) := by
  unfold sendAnswer
  with_reducible repeat' (first
    | assumption | intro _ | apply ite_only | apply sendTo_only | dsimp only | split)
theorem serveOwed_only {fr : List Part} {base : State} (t : Nat) (mout : Part.out ∈ fr) (mvnl : Part.vnl ∈ fr) (mrck : Part.rck ∈ fr) {s :
    State} (hk : Only fr base s) : Only fr base (serveOwed t s) := by
  unfold serveOwed
  with_reducible repeat' (first
    | assumption | intro _ | apply ite_only | apply forS_only | apply sendAnswer_only | apply modRck_only | dsimp only | split)
theorem rackFit_only {fr : List Part} {base : State} (mout : Part.out ∈ fr) (mhif : Part.hif ∈ fr) (mrck : Part.rck ∈ fr) (mbook : Part.book
    ∈ fr) {s : State} (hk : Only fr base s) : Only fr base (rackFit s) := by
  unfold rackFit
  with_reducible repeat' (first
    | assumption | intro _ | apply ite_only | apply rackEnd_only | apply setSlot_only | apply modRck_only | dsimp only | split)
theorem rackEffect_only {fr : List Part} {base : State} (tag : Nat) (t : Nat) (n : Nat) (graft : Bool) (narrowOk : Bool) (mout : Part.out ∈
    fr) (mhif : Part.hif ∈ fr) (mvnl : Part.vnl ∈ fr) (mrck : Part.rck ∈ fr) (mbook : Part.book ∈ fr) {s : State} (hk : Only fr base s) :
    Only fr base (rackEffect tag t n graft narrowOk s) := by
  unfold rackEffect
  with_reducible repeat' (first
    | assumption | intro _ | apply ite_only | apply rackEnd_only | apply modRck_only | apply setSlot_only | apply toBuddy_only
    | apply rackFit_only | apply modTenRack_only | dsimp only | split)
theorem setGraft_only {fr : List Part} {base : State} (t : Nat) (g : Nat) (mout : Part.out ∈ fr) (mhif : Part.hif ∈ fr) (mrck : Part.rck ∈
    fr) (mbook : Part.book ∈ fr) {s : State} (hk : Only fr base s) : Only fr base (setGraft t g s) := by
  unfold setGraft
  with_reducible repeat' (first
    | assumption | intro _ | apply ite_only | apply noteT_only | apply modTenRack_only | dsimp only | split)
theorem graftNone_only {fr : List Part} {base : State} (t : Nat) (mout : Part.out ∈ fr) (mhif : Part.hif ∈ fr) (mrck : Part.rck ∈ fr) (mbook
    : Part.book ∈ fr) {s : State} (hk : Only fr base s) : Only fr base (graftNone t s) := by
  unfold graftNone
  with_reducible repeat' (first
    | assumption | intro _ | apply ite_only | apply setGraft_only | apply modTenRack_only | dsimp only | split)
theorem graftStart_only {fr : List Part} {base : State} (t : Nat) (n : Nat) (mout : Part.out ∈ fr) (mhif : Part.hif ∈ fr) (mvnl : Part.vnl ∈
    fr) (mrck : Part.rck ∈ fr) (mbook : Part.book ∈ fr) {s : State} (hk : Only fr base s) : Only fr base (graftStart t n s) := by
  unfold graftStart
  with_reducible repeat' (first
    | assumption | intro _ | apply ite_only | apply modTenRack_only | apply graftNone_only | apply setGraft_only | apply forS_only
    | apply toBuddy_only | dsimp only | split)

end Sys2Proof.Machine
end

