-- ==== Sys2Proof/Laws/OnlyStepOps.lean ====
section
/-!
SUPPORT. Laws/OnlyStepOps.lean: what the operations of Machine/StepOps.lean leave as it was.
-/
namespace Sys2Proof.Machine

set_option linter.unusedTactic false
set_option linter.unreachableTactic false
set_option linter.unusedVariables false

theorem modTrig_only {fr : List Part} {base : State} (k : Nat) (f : Trig → Trig) (mtim : Part.tim ∈ fr) {s : State} (hk : Only fr base s) :
    Only fr base (modTrig k f s) := by
  unfold modTrig
  with_reducible repeat' (first
    | assumption | intro _ | apply ite_only | apply modTim_only | dsimp only | split)
theorem rearm_only {fr : List Part} {base : State} (k : Nat) (mtim : Part.tim ∈ fr) {s : State} (hk : Only fr base s) : Only fr base (rearm
    k s) := by
  unfold rearm
  with_reducible repeat' (first
    | assumption | intro _ | apply ite_only | apply modTrig_only | dsimp only | split)
theorem trigAct_only {fr : List Part} {base : State} (k : Nat) (mout : Part.out ∈ fr) (mhif : Part.hif ∈ fr) (mcor : Part.cor ∈ fr) (mvnl :
    Part.vnl ∈ fr) (mrck : Part.rck ∈ fr) (mbook : Part.book ∈ fr) {s : State} (hk : Only fr base s) : Only fr base (trigAct k s) := by
  unfold trigAct
  with_reducible repeat' (first
    | assumption | intro _ | apply ite_only | apply makePost_only | apply noteT_only | apply rackEffect_only | dsimp only | split)
theorem trigRelease_only {fr : List Part} {base : State} (t : Nat) (mout : Part.out ∈ fr) (mhif : Part.hif ∈ fr) (mcor : Part.cor ∈ fr)
    (mvnl : Part.vnl ∈ fr) (mrck : Part.rck ∈ fr) (mtim : Part.tim ∈ fr) (mbook : Part.book ∈ fr) {s : State} (hk : Only fr base s) : Only
    fr base (trigRelease t s) := by
  unfold trigRelease
  with_reducible repeat' (first
    | assumption | intro _ | apply ite_only | apply forS_only | apply rearm_only | apply trigAct_only | apply modTrig_only | dsimp only
    | split)
theorem settleFrees_only {fr : List Part} {base : State} (t : Nat) (mmem : Part.mem ∈ fr) (mpln : Part.pln ∈ fr) {s : State} (hk : Only fr
    base s) : Only fr base (settleFrees t s) := by
  unfold settleFrees
  with_reducible repeat' (first
    | assumption | intro _ | apply ite_only | apply forS_only | apply dropHnd_only | apply modHnd_only | dsimp only | split)
theorem upMsg_only {fr : List Part} {base : State} (m : UpMsg) (mcel : Part.cel ∈ fr) {s : State} (hk : Only fr base s) : Only fr base
    (upMsg m s) := by
  unfold upMsg
  with_reducible repeat' (first
    | assumption | intro _ | apply ite_only | apply modCel_only | dsimp only | split)
theorem updStall_only {fr : List Part} {base : State} (t : Nat) (mout : Part.out ∈ fr) (mhif : Part.hif ∈ fr) (mstp : Part.stp ∈ fr) (mbook
    : Part.book ∈ fr) {s : State} (hk : Only fr base s) : Only fr base (updStall t s) := by
  unfold updStall
  with_reducible repeat' (first
    | assumption | intro _ | apply ite_only | apply modStp_only | apply modTstep_only | apply noteT_only | dsimp only | split)
theorem undoHandles_only {fr : List Part} {base : State} (t : Nat) (n : Nat) (mmem : Part.mem ∈ fr) (mpln : Part.pln ∈ fr) {s : State} (hk :
    Only fr base s) : Only fr base (undoHandles t n s) := by
  unfold undoHandles
  with_reducible repeat' (first
    | assumption | intro _ | apply ite_only | apply forS_only | apply dropHnd_only | apply modHnd_only | dsimp only | split)
theorem dropTrigs_only {fr : List Part} {base : State} (t : Nat) (n : Nat) (mtim : Part.tim ∈ fr) {s : State} (hk : Only fr base s) : Only
    fr base (dropTrigs t n s) := by
  unfold dropTrigs
  with_reducible repeat' (first
    | assumption | intro _ | apply ite_only | apply forS_only | apply modTrig_only | dsimp only | split)
theorem dropColls_only {fr : List Part} {base : State} (t : Nat) (n : Nat) (mcol : Part.col ∈ fr) {s : State} (hk : Only fr base s) : Only
    fr base (dropColls t n s) := by
  unfold dropColls
  with_reducible repeat' (first
    | assumption | intro _ | apply ite_only | apply modCol_only | dsimp only | split)
theorem dropAhead_only {fr : List Part} {base : State} (t : Nat) (n : Nat) (mcol : Part.col ∈ fr) (mstp : Part.stp ∈ fr) {s : State} (hk :
    Only fr base s) : Only fr base (dropAhead t n s) := by
  unfold dropAhead
  with_reducible repeat' (first
    | assumption | intro _ | apply ite_only | apply dropColls_only | apply modTstep_only | dsimp only | split)
theorem discard_only {fr : List Part} {base : State} (t : Nat) (n : Nat) (reason : Nat) (origin : Nat) (mout : Part.out ∈ fr) (mmem :
    Part.mem ∈ fr) (mhif : Part.hif ∈ fr) (mpln : Part.pln ∈ fr) (mcor : Part.cor ∈ fr) (mcol : Part.col ∈ fr) (mstp : Part.stp ∈ fr) (mrck
    : Part.rck ∈ fr) (mtim : Part.tim ∈ fr) (mdbg : Part.dbg ∈ fr) (mbook : Part.book ∈ fr) {s : State} (hk : Only fr base s) : Only fr base
    (discard t n reason origin s) := by
  unfold discard
  with_reducible repeat' (first
    | assumption | intro _ | apply ite_only | apply dropAhead_only | apply cntRestore_only | apply modCor_only | apply dropTallies_only
    | apply settleCores_only | apply forS_only | apply dropLaunch_only | apply dropTrigs_only | apply dropColls_only
    | apply undoHandles_only | apply modRck_only | apply modPln_only | apply modStp_only | apply modTstep_only | apply completeNow_only
    | apply updStall_only | apply settleFrees_only | apply noteT_only | dsimp only | split)
theorem failStep_only {fr : List Part} {base : State} (t : Nat) (n : Nat) (reason : Nat) (mout : Part.out ∈ fr) (mmem : Part.mem ∈ fr) (mhif
    : Part.hif ∈ fr) (mpln : Part.pln ∈ fr) (mcor : Part.cor ∈ fr) (mcol : Part.col ∈ fr) (mstp : Part.stp ∈ fr) (mrck : Part.rck ∈ fr)
    (mcel : Part.cel ∈ fr) (mtim : Part.tim ∈ fr) (mdbg : Part.dbg ∈ fr) (mbook : Part.book ∈ fr) {s : State} (hk : Only fr base s) : Only
    fr base (failStep t n reason s) := by
  unfold failStep
  with_reducible repeat' (first
    | assumption | intro _ | apply ite_only | apply noteT_only | apply discard_only | apply modCel_only | apply upMsg_only | dsimp only
    | split)
theorem localFail_only {fr : List Part} {base : State} (t : Nat) (reason : Nat) (mout : Part.out ∈ fr) (mmem : Part.mem ∈ fr) (mhif :
    Part.hif ∈ fr) (mpln : Part.pln ∈ fr) (mcor : Part.cor ∈ fr) (mcol : Part.col ∈ fr) (mstp : Part.stp ∈ fr) (mrck : Part.rck ∈ fr) (mcel
    : Part.cel ∈ fr) (mtim : Part.tim ∈ fr) (mdbg : Part.dbg ∈ fr) (mbook : Part.book ∈ fr) {s : State} (hk : Only fr base s) : Only fr base
    (localFail t reason s) := by
  unfold localFail
  with_reducible repeat' (first
    | assumption | intro _ | apply ite_only | apply failStep_only | apply modTstep_only | dsimp only | split)
theorem trySeal_only {fr : List Part} {base : State} (t : Nat) (mout : Part.out ∈ fr) (mmem : Part.mem ∈ fr) (mhif : Part.hif ∈ fr) (mpln :
    Part.pln ∈ fr) (mcor : Part.cor ∈ fr) (mcol : Part.col ∈ fr) (mstp : Part.stp ∈ fr) (mrck : Part.rck ∈ fr) (mcel : Part.cel ∈ fr) (mtim
    : Part.tim ∈ fr) (mdbg : Part.dbg ∈ fr) (mbook : Part.book ∈ fr) {s : State} (hk : Only fr base s) : Only fr base (trySeal t s) := by
  unfold trySeal
  with_reducible repeat' (first
    | assumption | intro _ | apply ite_only | apply forS_only | apply modStep_only | apply finish_only | apply failStep_only
    | apply upMsg_only | dsimp only | split)
theorem done_only {fr : List Part} {base : State} (tag : Nat) (status : Nat) (detail : Nat) (result : Nat) (mout : Part.out ∈ fr) (mmem :
    Part.mem ∈ fr) (mhif : Part.hif ∈ fr) (mpln : Part.pln ∈ fr) (mcor : Part.cor ∈ fr) (mcol : Part.col ∈ fr) (mstp : Part.stp ∈ fr) (mrck
    : Part.rck ∈ fr) (mcel : Part.cel ∈ fr) (mtim : Part.tim ∈ fr) (mdbg : Part.dbg ∈ fr) (mbook : Part.book ∈ fr) {s : State} (hk : Only fr
    base s) : Only fr base (done tag status detail result s) := by
  unfold done
  with_reducible repeat' (first
    | assumption | intro _ | apply ite_only | apply settleFrees_only | apply trySeal_only | apply finish_only | dsimp only | split)
theorem openNow_only {fr : List Part} {base : State} (tag : Nat) (t : Nat) (n : Nat) (d : List Byte) (mout : Part.out ∈ fr) (mmem : Part.mem
    ∈ fr) (mhif : Part.hif ∈ fr) (mpln : Part.pln ∈ fr) (mcor : Part.cor ∈ fr) (mcol : Part.col ∈ fr) (mstp : Part.stp ∈ fr) (mrck :
    Part.rck ∈ fr) (mcel : Part.cel ∈ fr) (mpwr : Part.pwr ∈ fr) (mtim : Part.tim ∈ fr) (mdbg : Part.dbg ∈ fr) (mbook : Part.book ∈ fr) {s :
    State} (hk : Only fr base s) : Only fr base (openNow tag t n d s) := by
  unfold openNow
  with_reducible repeat' (first
    | assumption | intro _ | apply ite_only | apply modTstep_only | apply modPwr_only | apply modLive_only | apply makePost_only
    | apply updStall_only | apply done_only | apply failStep_only | dsimp only | split)
theorem wakeOpens_only {fr : List Part} {base : State} (t : Nat) (mout : Part.out ∈ fr) (mmem : Part.mem ∈ fr) (mhif : Part.hif ∈ fr) (mpln
    : Part.pln ∈ fr) (mcor : Part.cor ∈ fr) (mcol : Part.col ∈ fr) (mstp : Part.stp ∈ fr) (mrck : Part.rck ∈ fr) (mcel : Part.cel ∈ fr)
    (mpwr : Part.pwr ∈ fr) (mtim : Part.tim ∈ fr) (mdbg : Part.dbg ∈ fr) (mbook : Part.book ∈ fr) {s : State} (hk : Only fr base s) : Only
    fr base (wakeOpens t s) := by
  unfold wakeOpens
  with_reducible repeat' (first
    | assumption | intro _ | apply ite_only | apply forS_only | apply done_only | apply openNow_only | dsimp only | split)
theorem toChildren_only {fr : List Part} {base : State} (b : Nat) (bytes : List Byte) (mout : Part.out ∈ fr) (mvnl : Part.vnl ∈ fr) {s :
    State} (hk : Only fr base s) : Only fr base (toChildren b bytes s) := by
  unfold toChildren
  with_reducible repeat' (first
    | assumption | intro _ | apply ite_only | apply forS_only | apply sendTo_only | dsimp only | split)
theorem wiltJoin_only {fr : List Part} {base : State} (kind : Nat) (subject : Nat) (mcel : Part.cel ∈ fr) (mpol : Part.pol ∈ fr) (mbook :
    Part.book ∈ fr) {s : State} (hk : Only fr base s) : Only fr base (wiltJoin kind subject s) := by
  unfold wiltJoin
  with_reducible repeat' (first
    | assumption | intro _ | apply ite_only | apply upEvent_only | apply record_only | apply modPol_only | dsimp only | split)
theorem wiltLeave_only {fr : List Part} {base : State} (kind : Nat) (subject : Nat) (mcel : Part.cel ∈ fr) (mpol : Part.pol ∈ fr) (mbook :
    Part.book ∈ fr) {s : State} (hk : Only fr base s) : Only fr base (wiltLeave kind subject s) := by
  unfold wiltLeave
  with_reducible repeat' (first
    | assumption | intro _ | apply ite_only | apply upEvent_only | apply record_only | apply modPol_only | dsimp only | split)
theorem judgeLate_only {fr : List Part} {base : State} (b : Nat) (own : Nat) (late : Nat) (early : Nat) (mcel : Part.cel ∈ fr) (mpol :
    Part.pol ∈ fr) (mbook : Part.book ∈ fr) {s : State} (hk : Only fr base s) : Only fr base (judgeLate b own late early s) := by
  unfold judgeLate
  with_reducible repeat' (first
    | assumption | intro _ | apply ite_only | apply modPol_only | apply wiltJoin_only | apply wiltLeave_only | dsimp only | split)
theorem standHandles_only {fr : List Part} {base : State} (t : Nat) (n : Nat) (mmem : Part.mem ∈ fr) (mpln : Part.pln ∈ fr) {s : State} (hk
    : Only fr base s) : Only fr base (standHandles t n s) := by
  unfold standHandles
  with_reducible repeat' (first
    | assumption | intro _ | apply ite_only | apply settleFrees_only | apply forS_only | apply modHnd_only | dsimp only | split)
theorem releaseOne_only {fr : List Part} {base : State} (t : Nat) (n : Nat) (p : Nat) (lat : Nat) (tag : Nat) (mout : Part.out ∈ fr) (mhif :
    Part.hif ∈ fr) (mvnl : Part.vnl ∈ fr) (mrck : Part.rck ∈ fr) (mtim : Part.tim ∈ fr) (mbook : Part.book ∈ fr) {s : State} (hk : Only fr
    base s) : Only fr base (releaseOne t n p lat tag s) := by
  unfold releaseOne
  with_reducible repeat' (first
    | assumption | intro _ | apply ite_only | apply modLive_only | apply completeNow_only | apply rackEffect_only | apply postHeld_only
    | apply modTrig_only | dsimp only | split)
theorem drawStep_only {fr : List Part} {base : State} (t : Nat) (n : Nat) (p : Nat) (spread : Option (Nat × Nat × Nat)) (mout : Part.out ∈
    fr) (mmem : Part.mem ∈ fr) (mhif : Part.hif ∈ fr) (mpln : Part.pln ∈ fr) (mcor : Part.cor ∈ fr) (mvnl : Part.vnl ∈ fr) (mcol : Part.col
    ∈ fr) (mstp : Part.stp ∈ fr) (mrck : Part.rck ∈ fr) (mcel : Part.cel ∈ fr) (mpol : Part.pol ∈ fr) (mpwr : Part.pwr ∈ fr) (mtim :
    Part.tim ∈ fr) (mdbg : Part.dbg ∈ fr) (mbook : Part.book ∈ fr) {s : State} (hk : Only fr base s) : Only fr base (drawStep t n p spread
    s) := by
  unfold drawStep
  with_reducible repeat' (first
    | assumption | intro _ | apply ite_only | apply modStp_only | apply judgeLate_only | apply modTstep_only | apply graftStart_only
    | apply standHandles_only | apply forS_only | apply releaseOne_only | apply releaseTallies_only | apply postEvent_only
    | apply serveOwed_only | apply wakeOpens_only | apply trigRelease_only | apply pump_only | apply updStall_only
    | apply settleFrees_only | dsimp only | split)
theorem rootDraw_only {fr : List Part} {base : State} (t : Nat) (b : Nat) (n : Nat) (r : StepRec) (mout : Part.out ∈ fr) (mmem : Part.mem ∈
    fr) (mhif : Part.hif ∈ fr) (mpln : Part.pln ∈ fr) (mcor : Part.cor ∈ fr) (mvnl : Part.vnl ∈ fr) (mcol : Part.col ∈ fr) (mstp : Part.stp
    ∈ fr) (mrck : Part.rck ∈ fr) (mcel : Part.cel ∈ fr) (mpol : Part.pol ∈ fr) (mpwr : Part.pwr ∈ fr) (mtim : Part.tim ∈ fr) (mdbg :
    Part.dbg ∈ fr) (mbook : Part.book ∈ fr) {s : State} (hk : Only fr base s) : Only fr base (rootDraw t b n r s) := by
  unfold rootDraw
  with_reducible repeat' (first
    | assumption | intro _ | apply ite_only | apply drawStep_only | apply toChildren_only | dsimp only | split)
theorem tryReport_only {fr : List Part} {base : State} (t : Nat) (n : Nat) (mout : Part.out ∈ fr) (mmem : Part.mem ∈ fr) (mhif : Part.hif ∈
    fr) (mpln : Part.pln ∈ fr) (mcor : Part.cor ∈ fr) (mvnl : Part.vnl ∈ fr) (mcol : Part.col ∈ fr) (mstp : Part.stp ∈ fr) (mrck : Part.rck
    ∈ fr) (mcel : Part.cel ∈ fr) (mpol : Part.pol ∈ fr) (mpwr : Part.pwr ∈ fr) (mtim : Part.tim ∈ fr) (mdbg : Part.dbg ∈ fr) (mbook :
    Part.book ∈ fr) {s : State} (hk : Only fr base s) : Only fr base (tryReport t n s) := by
  unfold tryReport
  with_reducible repeat' (first
    | assumption | intro _ | apply ite_only | apply rootDraw_only | apply modStep_only | apply modTstep_only | apply sendTo_only
    | dsimp only | split)
theorem failOut_only {fr : List Part} {base : State} (t : Nat) (n : Nat) (reason : Nat) (origin : Nat) (mout : Part.out ∈ fr) (mmem :
    Part.mem ∈ fr) (mhif : Part.hif ∈ fr) (mpln : Part.pln ∈ fr) (mcor : Part.cor ∈ fr) (mvnl : Part.vnl ∈ fr) (mcol : Part.col ∈ fr) (mstp
    : Part.stp ∈ fr) (mrck : Part.rck ∈ fr) (mtim : Part.tim ∈ fr) (mdbg : Part.dbg ∈ fr) (mbook : Part.book ∈ fr) {s : State} (hk : Only fr
    base s) : Only fr base (failOut t n reason origin s) := by
  unfold failOut
  with_reducible repeat' (first
    | assumption | intro _ | apply ite_only | apply discard_only | apply toChildren_only | apply sendTo_only | dsimp only | split)
theorem wakeRacks_only {fr : List Part} {base : State} (t : Nat) (mout : Part.out ∈ fr) (mhif : Part.hif ∈ fr) (mvnl : Part.vnl ∈ fr) (mrck
    : Part.rck ∈ fr) (mbook : Part.book ∈ fr) {s : State} (hk : Only fr base s) : Only fr base (wakeRacks t s) := by
  unfold wakeRacks
  with_reducible repeat' (first
    | assumption | intro _ | apply ite_only | apply forS_only | apply rackEffect_only | apply modLive_only | dsimp only | split)
theorem resyncNow_only {fr : List Part} {base : State} (tag : Nat) (t : Nat) (d : List Byte) (mout : Part.out ∈ fr) (mmem : Part.mem ∈ fr)
    (mhif : Part.hif ∈ fr) (mpln : Part.pln ∈ fr) (mcor : Part.cor ∈ fr) (mcol : Part.col ∈ fr) (mstp : Part.stp ∈ fr) (mrck : Part.rck ∈
    fr) (mcel : Part.cel ∈ fr) (mtim : Part.tim ∈ fr) (mdbg : Part.dbg ∈ fr) (mbook : Part.book ∈ fr) {s : State} (hk : Only fr base s) :
    Only fr base (resyncNow tag t d s) := by
  unfold resyncNow
  with_reducible repeat' (first
    | assumption | intro _ | apply ite_only | apply done_only | apply modTstep_only | dsimp only | split)
theorem wakeResyncs_only {fr : List Part} {base : State} (t : Nat) (mout : Part.out ∈ fr) (mmem : Part.mem ∈ fr) (mhif : Part.hif ∈ fr)
    (mpln : Part.pln ∈ fr) (mcor : Part.cor ∈ fr) (mcol : Part.col ∈ fr) (mstp : Part.stp ∈ fr) (mrck : Part.rck ∈ fr) (mcel : Part.cel ∈
    fr) (mtim : Part.tim ∈ fr) (mdbg : Part.dbg ∈ fr) (mbook : Part.book ∈ fr) {s : State} (hk : Only fr base s) : Only fr base (wakeResyncs
    t s) := by
  unfold wakeResyncs
  with_reducible repeat' (first
    | assumption | intro _ | apply ite_only | apply forS_only | apply resyncNow_only | apply modLive_only | dsimp only | split)
theorem writeBack_only {fr : List Part} {base : State} (t : Nat) (mout : Part.out ∈ fr) (mmem : Part.mem ∈ fr) (mhif : Part.hif ∈ fr) (mpln
    : Part.pln ∈ fr) (mstp : Part.stp ∈ fr) (mbook : Part.book ∈ fr) {s : State} (hk : Only fr base s) : Only fr base (writeBack t s) := by
  unfold writeBack
  with_reducible repeat' (first
    | assumption | intro _ | apply ite_only | apply forS_only | apply modPage_only | apply modPln_only | apply hPut_only
    | apply modStp_only | apply noteT_only | apply modTstep_only | dsimp only | split)

end Sys2Proof.Machine
end

