-- ==== Sys2Proof/Laws/Desc.lean ====
section
/-!
SUPPORT. Laws/Desc.lean: how a descriptor starts and ends (R79, R84, R344, R348).
-/
namespace Sys2Proof.Machine

theorem liveRec_modLive (tag q : Nat) (f : Live → Live) (s : State) :
    liveRec (modLive tag f s) q = if q = tag then (liveRec s tag).map f else liveRec s q := by
  unfold modLive
  split
  · next l h => simp only [liveRec, modHif, find_put] at h ⊢; split <;> simp [*]
  · next h =>
    split
    · next e => subst e; simp [h]
    · rfl
theorem settleRing_live (r : Nat) (s : State) (q : Nat) : liveRec (settleRing r s) q = liveRec s q := by
  unfold settleRing
  split <;> rfl
theorem liveRec_freeTag (tag : Nat) (l : Live) (s : State) (q : Nat) :
    liveRec (freeTag tag l s) q = if q = tag then none else liveRec s q := by
  unfold freeTag
  rw [settleRing_live, settleRing_live]
  simp only [liveRec, modRing, modHif, find_del]
theorem sendIrq_live (fn vec : Nat) (s : State) (q : Nat) : liveRec (sendIrq fn vec s) q = liveRec s q := by
  unfold sendIrq
  split <;> rfl
theorem ringIrq_live (r : Nat) (now : Bool) (s : State) (q : Nat) : liveRec (ringIrq r now s) q = liveRec s q := by
  unfold ringIrq
  split
  · split
    · exact sendIrq_live _ _ s q
    · rfl
  · rfl
theorem writeEntry_live (r : Nat) (e : List Byte) (now : Bool) (s : State) (q : Nat) : liveRec (writeEntry r e now s) q = liveRec s q := by
  unfold writeEntry
  rw [ringIrq_live]
  rfl
theorem postEvent_live (t code sub det : Nat) (s : State) (q : Nat) : liveRec (postEvent t code sub det s) q = liveRec s q := by
  unfold postEvent
  split
  · split
    · unfold putEvent
      exact writeEntry_live _ _ _ s q
    · rfl
  · rfl
theorem writeCompl_live (tag : Nat) (l : Live) (s : State) (q : Nat) : liveRec (writeCompl tag l s) q = liveRec s q := by
  unfold writeCompl
  split
  · split
    · exact writeEntry_live _ _ _ s q
    · unfold ringError
      rw [postEvent_live]
      rfl
  · rfl
/-- With the link up, the completion is posted and the tag is free; the other tags stay. -/
theorem postHeld_live (tag : Nat) (s : State) (h1 : s.hif.up = true) (h2 : s.hif.resumePending = false) (q : Nat) :
    liveRec (postHeld tag s) q = if q = tag then none else liveRec s q := by
  unfold postHeld
  split
  · next h =>
    split
    · next e => rw [e]; exact h
    · rfl
  · next l h =>
    rw [if_pos (by simp [h1, h2]), liveRec_freeTag, writeCompl_live]
/-- A tenant none of whose steps waits for its seal has nothing to seal. -/
theorem trySeal_plain (t : Nat) (s : State) (h : ∀ r ∈ (tstep s t).steps, r.sealTag = none) : trySeal t s = s := by
  unfold trySeal forS
  generalize (tstep s t).steps = l at h
  induction l with
  | nil => rfl
  | cons r rest ih =>
    rw [List.foldl_cons]
    simp only [h r List.mem_cons_self]
    exact ih (fun x hx => h x (List.mem_cons_of_mem _ hx))
theorem modHnd_live (h : Nat) (f : Hnd → Hnd) (s : State) (q : Nat) : liveRec (modHnd h f s) q = liveRec s q := by
  unfold modHnd
  split <;> rfl
theorem settleFrees_hif (t : Nat) (s : State) : (settleFrees t s).hif = s.hif :=
  settleFrees_only (fr := [.mem, .pln]) t (by decide) (by decide) (Only.rfl' _ s) .hif (by decide)
theorem settleFrees_stp (t : Nat) (s : State) : (settleFrees t s).stp = s.stp :=
  settleFrees_only (fr := [.mem, .pln]) t (by decide) (by decide) (Only.rfl' _ s) .stp (by decide)
theorem finish_stp (tag a b c : Nat) (s : State) : (finish tag a b c s).stp = s.stp :=
  finish_only (fr := [.out, .hif]) tag a b c (by decide) (by decide) (Only.rfl' _ s) .stp (by decide)
theorem done_plain (tag a b c : Nat) (s : State) (l : Live) (hl : liveRec s tag = some l)
    (h : ∀ r ∈ (tstep s (liveTen l)).steps, r.sealTag = none) :
    done tag a b c s = settleFrees (liveTen l) (finish tag a b c s) := by
  simp only [done, hl]
  rw [trySeal_plain]
  simpa only [tstep, finish_stp] using h
theorem modLive_up (tag : Nat) (f : Live → Live) (s : State) : (modLive tag f s).hif.up = s.hif.up := by
  unfold modLive
  split <;> rfl
theorem modLive_resume (tag : Nat) (f : Live → Live) (s : State) : (modLive tag f s).hif.resumePending = s.hif.resumePending := by
  unfold modLive
  split <;> rfl
/-- How a descriptor of a tenant without a seal to come ends. -/
theorem done_ended (tag a b c : Nat) (s : State) (l : Live) (hl : liveRec s tag = some l) (h1 : s.hif.up = true)
    (h2 : s.hif.resumePending = false) (h : ∀ r ∈ (tstep s (liveTen l)).steps, r.sealTag = none) :
    Ended (done tag a b c s) tag l.step a b c := by
  rw [done_plain tag a b c s l hl h]
  have e : ∀ q, liveRec (settleFrees (liveTen l) (finish tag a b c s)) q = liveRec (finish tag a b c s) q := by
    intro q
    simp only [liveRec, settleFrees_hif]
  unfold Ended
  cases hs : l.step with
  | none =>
    dsimp only
    rw [e]
    unfold finish
    simp only [hl, hs]
    rw [postHeld_live _ _ (by rw [modLive_up]; exact h1) (by rw [modLive_resume]; exact h2), if_pos rfl]
  | some n =>
    dsimp only
    rw [e]
    unfold finish
    simp only [hl, hs]
    rw [liveRec_modLive, if_pos rfl, hl]
    exact ⟨_, rfl, hs, rfl, rfl, rfl, rfl⟩
/-- The end of a descriptor of a tenant without a seal to come: its frame. -/
theorem done_plain_only {fr : List Part} {base : State} (tag a b c : Nat) (s : State) (l : Live) (hl : liveRec s tag = some l)
    (h : ∀ r ∈ (tstep s (liveTen l)).steps, r.sealTag = none) (m1 : Part.hif ∈ fr) (m2 : Part.out ∈ fr) (m3 : Part.mem ∈ fr)
    (m4 : Part.pln ∈ fr) (hk : Only fr base s) : Only fr base (done tag a b c s) := by
  rw [done_plain tag a b c s l hl h]
  exact settleFrees_only _ m3 m4 (finish_only _ _ _ _ m2 m1 hk)
/-- A descriptor that starts runs its meaning on the state in which it is running and attached. -/
theorem startDesc_go {s : State} {tag op : Nat} {l : Live} {st : Option Nat} (h : Starts s tag op l st) (f : State → State) :
    startDesc tag op f s = f (modLive tag (fun l => { l with stage := .running, step := st }) s) := by
  simp only [startDesc, h.gate]
theorem started_live {s : State} {tag op : Nat} {l : Live} {st : Option Nat} (h : Starts s tag op l st) :
    liveRec (modLive tag (fun l => { l with stage := .running, step := st }) s) tag = some { l with stage := .running, step := st } := by
  rw [liveRec_modLive, if_pos rfl, h.live]
  rfl

end Sys2Proof.Machine
end

