-- ==== Sys2Proof/Laws/KeptOps.lean ====
section
/-!
SUPPORT. Laws/KeptOps.lean: every operation and command of Machine/Ops.lean keeps `Kept`.
-/
namespace Sys2Proof.Machine

set_option linter.unusedTactic false
set_option linter.unreachableTactic false
set_option linter.unusedVariables false

theorem csetPut_ok {base : State} (g : Grp) (obj : Nat) (i : Nat) (w : Word) {s : State} (hk : Kept base s) : Kept base (csetPut g obj i
    w s) := by
  unfold csetPut
  exact modGrp_set _ (setsOk_set _ _ g obj i w hk.2.2) hk
theorem csetAll_ok {base : State} (g : Grp) (obj : Nat) (ws : List Word) {s : State} (hk : Kept base s) : Kept base (csetAll g obj ws s) :=
    by
  unfold csetAll
  with_reducible repeat' (first
    | assumption | intro _ | apply ite_ok | apply forS_ok | apply csetPut_ok | dsimp only | split)
theorem csetReset_ok {base : State} (g : Grp) (obj : Nat) {s : State} (hk : Kept base s) : Kept base (csetReset g obj s) := by
  unfold csetReset
  exact modGrp_set _ (setsOk_filter _ _ hk.2.2) hk
theorem setRw_ok {base : State} (acc : Nat) (a : Nat) (w : Word) {s : State} (hk : Kept base s) : Kept base (setRw acc a w s) := by
  unfold setRw
  with_reducible repeat' (first
    | assumption | intro _ | apply ite_ok | apply regs_ok | dsimp only | split)
theorem setTenRec_ok {base : State} (t : Nat) (f : Ten → Ten) {s : State} (hk : Kept base s) : Kept base (setTenRec t f s) := by
  unfold setTenRec
  with_reducible repeat' (first
    | assumption | intro _ | apply ite_ok | apply modHif_ok | dsimp only | split)
theorem setMsixWord_ok {base : State} (fn : Nat) (i : Nat) (w : Word) {s : State} (hk : Kept base s) : Kept base (setMsixWord fn i w s) :=
    by
  unfold setMsixWord
  with_reducible repeat' (first
    | assumption | intro _ | apply ite_ok | apply modHif_ok | dsimp only | split)
theorem sendIrq_ok {base : State} (fn : Nat) (vec : Nat) {s : State} (hk : Kept base s) : Kept base (sendIrq fn vec s) := by
  unfold sendIrq
  with_reducible repeat' (first
    | assumption | intro _ | apply ite_ok | apply modHif_ok | apply emit_ok | dsimp only | split)
theorem modRing_ok {base : State} (r : Nat) (f : Ring → Ring) {s : State} (hk : Kept base s) : Kept base (modRing r f s) := by
  unfold modRing
  with_reducible repeat' (first
    | assumption | intro _ | apply ite_ok | apply modHif_ok | dsimp only | split)
theorem settleRing_ok {base : State} (r : Nat) {s : State} (hk : Kept base s) : Kept base (settleRing r s) := by
  unfold settleRing
  with_reducible repeat' (first
    | assumption | intro _ | apply ite_ok | apply modRing_ok | dsimp only | split)
theorem raiseIrq_ok {base : State} (r : Nat) {s : State} (hk : Kept base s) : Kept base (raiseIrq r s) := by
  unfold raiseIrq
  with_reducible repeat' (first
    | assumption | intro _ | apply ite_ok | apply modRing_ok | apply sendIrq_ok | dsimp only | split)
theorem ringIrq_ok {base : State} (r : Nat) (now : Bool) {s : State} (hk : Kept base s) : Kept base (ringIrq r now s) := by
  unfold ringIrq
  with_reducible repeat' (first
    | assumption | intro _ | apply ite_ok | apply raiseIrq_ok | apply modRing_ok | dsimp only | split)
theorem sendPending_ok {base : State} (fn : Nat) (vec : Nat) {s : State} (hk : Kept base s) : Kept base (sendPending fn vec s) := by
  unfold sendPending
  with_reducible repeat' (first
    | assumption | intro _ | apply ite_ok | apply emit_ok | apply modHif_ok | dsimp only | split)
theorem writeEntry_ok {base : State} (r : Nat) (e : List Byte) (now : Bool) {s : State} (hk : Kept base s) : Kept base (writeEntry r e now
    s) := by
  unfold writeEntry
  with_reducible repeat' (first
    | assumption | intro _ | apply ite_ok | apply ringIrq_ok | apply modRing_ok | apply emit_ok | dsimp only | split)
theorem dropEvent_ok {base : State} (t : Nat) {s : State} (hk : Kept base s) : Kept base (dropEvent t s) := by
  unfold dropEvent
  with_reducible repeat' (first
    | assumption | intro _ | apply ite_ok | apply setTenRec_ok | dsimp only | split)
theorem putEvent_ok {base : State} (t : Nat) (code : Nat) (subject : Nat) (detail : Nat) {s : State} (hk : Kept base s) : Kept base
    (putEvent t code subject detail s) := by
  unfold putEvent
  with_reducible repeat' (first
    | assumption | intro _ | apply ite_ok | apply setTenRec_ok | apply writeEntry_ok | dsimp only | split)
theorem postEvent_ok {base : State} (t : Nat) (code : Nat) (subject : Nat) (detail : Nat) {s : State} (hk : Kept base s) : Kept base
    (postEvent t code subject detail s) := by
  unfold postEvent
  with_reducible repeat' (first
    | assumption | intro _ | apply ite_ok | apply putEvent_ok | apply dropEvent_ok | apply modRing_ok | dsimp only | split)
theorem ringError_ok {base : State} (r : Nat) (code : Nat) {s : State} (hk : Kept base s) : Kept base (ringError r code s) := by
  unfold ringError
  with_reducible repeat' (first
    | assumption | intro _ | apply ite_ok | apply postEvent_ok | apply modRing_ok | dsimp only | split)
theorem addRec_ok {base : State} (r : Rec) {s : State} (hk : Kept base s) : Kept base (addRec r s) := by
  unfold addRec
  with_reducible repeat' (first
    | assumption | intro _ | apply ite_ok | (apply modBook_ok; rotate_left; with_unfolding_all rfl; with_unfolding_all rfl) | dsimp only
    | split)
theorem record_ok {base : State} (code : Nat) (subject : Nat) (detail : Nat) {s : State} (hk : Kept base s) : Kept base (record code subject
    detail s) := by
  unfold record
  with_reducible repeat' (first
    | assumption | intro _ | apply ite_ok | apply addRec_ok | dsimp only | split)
theorem recordT_ok {base : State} (t : Nat) (code : Nat) (subject : Nat) (detail : Nat) {s : State} (hk : Kept base s) : Kept base (recordT
    t code subject detail s) := by
  unfold recordT
  with_reducible repeat' (first
    | assumption | intro _ | apply ite_ok | apply addRec_ok | dsimp only | split)
theorem noteT_ok {base : State} (t : Nat) (code : Nat) (subject : Nat) (detail : Nat) {s : State} (hk : Kept base s) : Kept base (noteT t
    code subject detail s) := by
  unfold noteT
  with_reducible repeat' (first
    | assumption | intro _ | apply ite_ok | apply recordT_ok | apply postEvent_ok | dsimp only | split)
theorem commitKept_ok {base : State} {s : State} (hk : Kept base s) : Kept base (commitKept s) := by
  unfold commitKept
  with_reducible repeat' (first
    | assumption | intro _ | apply ite_ok | (apply modBook_ok; rotate_left; with_unfolding_all rfl; with_unfolding_all rfl)
    | apply modMram_ok | dsimp only | split)
theorem modHnd_ok {base : State} (h : Nat) (f : Hnd → Hnd) {s : State} (hk : Kept base s) : Kept base (modHnd h f s) := by
  unfold modHnd
  with_reducible repeat' (first
    | assumption | intro _ | apply ite_ok | apply modPln_ok | dsimp only | split)
theorem modPage_ok {base : State} (h : Nat) (p : Nat) (f : Page → Page) {s : State} (hk : Kept base s) : Kept base (modPage h p f s) := by
  unfold modPage
  with_reducible repeat' (first
    | assumption | intro _ | apply ite_ok | apply modPln_ok | dsimp only | split)
theorem hPut_ok {base : State} (h : Nat) (off : Nat) (bs : List Byte) {s : State} (hk : Kept base s) : Kept base (hPut h off bs s) := by
  unfold hPut
  with_reducible repeat' (first
    | assumption | intro _ | apply ite_ok | apply modPln_ok | apply modMem_ok | apply memWf_set | apply memWf_write | apply memWf_zero
    | apply memWf_copy | apply memWf_filter | refine Inv.mem (Kept.inv (a := base) ?_) | dsimp only | split)
theorem modTstep_ok {base : State} (t : Nat) (f : TenStep → TenStep) {s : State} (hk : Kept base s) : Kept base (modTstep t f s) := by
  unfold modTstep
  with_reducible repeat' (first
    | assumption | intro _ | apply ite_ok | apply modStp_ok | dsimp only | split)
theorem modStep_ok {base : State} (t : Nat) (n : Nat) (f : StepRec → StepRec) {s : State} (hk : Kept base s) : Kept base (modStep t n f s)
    := by
  unfold modStep
  with_reducible repeat' (first
    | assumption | intro _ | apply ite_ok | apply modTstep_ok | dsimp only | split)

end Sys2Proof.Machine
end

