-- ==== Sys2Proof/Laws/KeptDbgOps.lean ====
section
/-!
SUPPORT. Laws/KeptDbgOps.lean: every operation and command of Machine/DbgOps.lean keeps `Kept`.
-/
namespace Sys2Proof.Machine

set_option linter.unusedTactic false
set_option linter.unreachableTactic false
set_option linter.unusedVariables false

theorem frostAsk_ok {base : State} (src : Nat) {s : State} (hk : Kept base s) : Kept base (frostAsk src s) := by
  unfold frostAsk
  with_reducible repeat' (first
    | assumption | intro _ | apply ite_ok | (apply modDbg_ok; rotate_left; with_unfolding_all rfl)
    | (refine modDbg_to _ (by with_unfolding_all simp) ?_) | dsimp only | split)
theorem frostFault_ok {base : State} (cls : Nat) {s : State} (hk : Kept base s) : Kept base (frostFault cls s) := by
  unfold frostFault
  with_reducible repeat' (first
    | assumption | intro _ | apply ite_ok | apply frostAsk_ok | dsimp only | split)
theorem trigDebug_ok {base : State} (k : Nat) {s : State} (hk : Kept base s) : Kept base (trigDebug k s) := by
  unfold trigDebug
  with_reducible repeat' (first
    | assumption | intro _ | apply ite_ok | (apply modDbg_ok; rotate_left; with_unfolding_all rfl) | apply frostAsk_ok | dsimp only
    | split)

end Sys2Proof.Machine
end

