-- ==== Sys2Proof/Laws/KeptShadow.lean ====
section
/-!
SUPPORT. Laws/KeptShadow.lean: every operation and command of Machine/Shadow.lean keeps `Kept`.
-/
namespace Sys2Proof.Machine

set_option linter.unusedTactic false
set_option linter.unreachableTactic false
set_option linter.unusedVariables false

theorem setShadow_ok {base : State} (g : Grp) (acc : Acc) (win : Nat) (i : Nat) (w : Word) {s : State} (hk : Kept base s) : Kept base
    (setShadow g acc win i w s) := by
  unfold setShadow
  with_reducible repeat' (first
    | assumption | intro _ | apply ite_ok | (apply modGrp_ok; rotate_left; with_unfolding_all rfl) | dsimp only | split)
theorem reload_ok {base : State} (g : Grp) (acc : Acc) (win : Nat) {s : State} (hk : Kept base s) : Kept base (reload g acc win s) := by
  unfold reload
  with_reducible repeat' (first
    | assumption | intro _ | apply ite_ok | apply forS_ok | apply setShadow_ok | dsimp only | split)
theorem setCstat_ok {base : State} (accN : Nat) (g : Grp) (win : Nat) (res : Nat) (off : Nat) {s : State} (hk : Kept base s) : Kept base
    (setCstat accN g win res off s) := by
  unfold setCstat
  with_reducible repeat' (first
    | assumption | intro _ | apply ite_ok | (apply modGrp_ok; rotate_left; with_unfolding_all rfl) | dsimp only | split)
theorem commitWrite_ok {base : State} (g : Grp) (acc : Acc) (win : Nat) (cmd : Nat) {s : State} (hk : Kept base s) : Kept base (commitWrite
    g acc win cmd s) := by
  unfold commitWrite
  with_reducible repeat' (first
    | assumption | intro _ | apply ite_ok | apply setCstat_ok | (apply modGrp_ok; rotate_left; with_unfolding_all rfl) | dsimp only
    | split)
theorem abortWrite_ok {base : State} (g : Grp) (acc : Acc) (win : Nat) {s : State} (hk : Kept base s) : Kept base (abortWrite g acc win s)
    := by
  unfold abortWrite
  with_reducible repeat' (first
    | assumption | intro _ | apply ite_ok | apply reload_ok | dsimp only | split)
theorem selectorWrite_ok {base : State} (acc : Acc) (a : Nat) (v : Word) {s : State} (hk : Kept base s) : Kept base (selectorWrite acc a v
    s) := by
  unfold selectorWrite
  with_reducible repeat' (first
    | assumption | intro _ | apply ite_ok | apply reload_ok | apply setRw_ok | dsimp only | split)
theorem msixTableWrite_ok {base : State} (fn : Nat) (i : Nat) (v : Word) {s : State} (hk : Kept base s) : Kept base (msixTableWrite fn i v
    s) := by
  unfold msixTableWrite
  with_reducible repeat' (first
    | assumption | intro _ | apply ite_ok | apply sendPending_ok | apply setMsixWord_ok | dsimp only | split)
theorem pfRegisterWrite_ok {base : State} (acc : Acc) (a : Nat) (v : Word) {s : State} (hk : Kept base s) : Kept base (pfRegisterWrite acc a
    v s) := by
  unfold pfRegisterWrite
  with_reducible repeat' (first
    | assumption | intro _ | apply ite_ok | apply setShadow_ok | apply setRw_ok | apply msixTableWrite_ok | apply modHif_ok
    | apply modStp_ok | apply modCor_ok | dsimp only | split)
theorem vfRegisterWrite_ok {base : State} (n : Nat) (t : Bool) (a : Nat) (v : Word) {s : State} (hk : Kept base s) : Kept base
    (vfRegisterWrite n t a v s) := by
  unfold vfRegisterWrite
  with_reducible repeat' (first
    | assumption | intro _ | apply ite_ok | apply setRw_ok | apply setShadow_ok | apply msixTableWrite_ok | dsimp only | split)
theorem registerWrite_ok {base : State} (acc : Acc) (a : Nat) (v : Word) {s : State} (hk : Kept base s) : Kept base (registerWrite acc a v
    s) := by
  unfold registerWrite
  with_reducible repeat' (first
    | assumption | intro _ | apply ite_ok | apply vfRegisterWrite_ok | apply pfRegisterWrite_ok | dsimp only | split)

end Sys2Proof.Machine
end

