-- ==== Sys2Proof/Laws/KeptRing.lean ====
section
/-!
SUPPORT. Laws/KeptRing.lean: every operation and command of Machine/Ring.lean keeps `Kept`.
-/
namespace Sys2Proof.Machine

set_option linter.unusedTactic false
set_option linter.unreachableTactic false
set_option linter.unusedVariables false

theorem modLive_ok {base : State} (tag : Nat) (f : Live → Live) {s : State} (hk : Kept base s) : Kept base (modLive tag f s) := by
  unfold modLive
  with_reducible repeat' (first
    | assumption | intro _ | apply ite_ok | apply modHif_ok | dsimp only | split)
theorem freeTag_ok {base : State} (tag : Nat) (l : Live) {s : State} (hk : Kept base s) : Kept base (freeTag tag l s) := by
  unfold freeTag
  with_reducible repeat' (first
    | assumption | intro _ | apply ite_ok | apply settleRing_ok | apply modRing_ok | apply modHif_ok | dsimp only | split)
theorem writeCompl_ok {base : State} (tag : Nat) (l : Live) {s : State} (hk : Kept base s) : Kept base (writeCompl tag l s) := by
  unfold writeCompl
  with_reducible repeat' (first
    | assumption | intro _ | apply ite_ok | apply writeEntry_ok | apply ringError_ok | dsimp only | split)
theorem postHeld_ok {base : State} (tag : Nat) {s : State} (hk : Kept base s) : Kept base (postHeld tag s) := by
  unfold postHeld
  with_reducible repeat' (first
    | assumption | intro _ | apply ite_ok | apply freeTag_ok | apply writeCompl_ok | apply modLive_ok | dsimp only | split)
theorem finish_ok {base : State} (tag : Nat) (status : Nat) (detail : Nat) (result : Nat) {s : State} (hk : Kept base s) : Kept base (finish
    tag status detail result s) := by
  unfold finish
  with_reducible repeat' (first
    | assumption | intro _ | apply ite_ok | apply modLive_ok | apply postHeld_ok | dsimp only | split)
theorem completeNow_ok {base : State} (tag : Nat) (status : Nat) (detail : Nat) (result : Nat) {s : State} (hk : Kept base s) : Kept base
    (completeNow tag status detail result s) := by
  unfold completeNow
  with_reducible repeat' (first
    | assumption | intro _ | apply ite_ok | apply postHeld_ok | apply modLive_ok | dsimp only | split)
theorem ignoreDb_ok {base : State} {s : State} (hk : Kept base s) : Kept base (ignoreDb s) := by
  unfold ignoreDb
  with_reducible repeat' (first
    | assumption | intro _ | apply ite_ok | apply modHif_ok | dsimp only | split)
theorem staleDb_ok {base : State} {s : State} (hk : Kept base s) : Kept base (staleDb s) := by
  unfold staleDb
  with_reducible repeat' (first
    | assumption | intro _ | apply ite_ok | apply modHif_ok | dsimp only | split)
theorem ringBell_ok {base : State} (r : Nat) (index : Nat) {s : State} (hk : Kept base s) : Kept base (ringBell r index s) := by
  unfold ringBell
  with_reducible repeat' (first
    | assumption | intro _ | apply ite_ok | apply staleDb_ok | apply modRing_ok | apply ringError_ok | dsimp only | split)
theorem doorbell_ok {base : State} (acc : Acc) (page : Nat) (off : Nat) (size : Nat) (value : Nat) {s : State} (hk : Kept base s) : Kept
    base (doorbell acc page off size value s) := by
  unfold doorbell
  with_reducible repeat' (first
    | assumption | intro _ | apply ite_ok | (apply modDbg_ok; rotate_left; with_unfolding_all rfl) | apply ignoreDb_ok
    | apply ringBell_ok | dsimp only | split)
theorem countGrant_ok {base : State} (r : Nat) {s : State} (hk : Kept base s) : Kept base (countGrant r s) := by
  unfold countGrant
  with_reducible repeat' (first
    | assumption | intro _ | apply ite_ok | apply modHif_ok | dsimp only | split)
theorem quotaPause_ok {base : State} (t : Nat) {s : State} (hk : Kept base s) : Kept base (quotaPause t s) := by
  unfold quotaPause
  with_reducible repeat' (first
    | assumption | intro _ | apply ite_ok | apply setTenRec_ok | apply postEvent_ok | dsimp only | split)
theorem fetchIssue_ok {base : State} (r : Nat) (n : Nat) (want : List Nat) {s : State} (hk : Kept base s) : Kept base (fetchIssue r n want
    s) := by
  unfold fetchIssue
  with_reducible repeat' (first
    | assumption | intro _ | apply ite_ok | apply emit_ok | apply modRing_ok | apply countGrant_ok | apply modHif_ok
    | apply quotaPause_ok | dsimp only | split)
theorem takeEntry_ok {base : State} (r : Nat) (count : Nat) (d : List Byte) (tag : Nat) {s : State} (hk : Kept base s) : Kept base
    (takeEntry r count d tag s) := by
  unfold takeEntry
  with_reducible repeat' (first
    | assumption | intro _ | apply ite_ok | apply modHif_ok | apply completeNow_ok | dsimp only | split)
theorem fetchDone_ok {base : State} (r : Nat) (fault : Nat) (bytes : List Byte) {s : State} (hk : Kept base s) : Kept base (fetchDone r
    fault bytes s) := by
  unfold fetchDone
  with_reducible repeat' (first
    | assumption | intro _ | apply ite_ok | apply settleRing_ok | apply ringError_ok | apply modRing_ok | apply forS_ok
    | apply takeEntry_ok | dsimp only | split)
theorem startDesc_ok {base : State} (tag : Nat) (op : Nat) (f : State → State) (hf : ∀ x, Kept base x → Kept base (f x)) {s : State} (hk :
    Kept base s) : Kept base (startDesc tag op f s) := by
  unfold startDesc
  with_reducible repeat' (first
    | assumption | intro _ | apply ite_ok | apply modLive_ok | apply completeNow_ok | apply hf | dsimp only | split)

end Sys2Proof.Machine
end

