-- ==== Sys2Proof/Laws/KeptMem.lean ====
section
/-!
SUPPORT. Laws/KeptMem.lean: every operation and command of Machine/Mem.lean keeps `Kept`.
-/
namespace Sys2Proof.Machine

set_option linter.unusedTactic false
set_option linter.unreachableTactic false
set_option linter.unusedVariables false

theorem modStk_ok {base : State} (k : Nat) (f : Stk → Stk) {s : State} (hk : Kept base s) : Kept base (modStk k f s) := by
  unfold modStk
  with_reducible repeat' (first
    | assumption | intro _ | apply ite_ok | apply modPln_ok | dsimp only | split)
theorem dropMove_ok {base : State} (key : Nat) {s : State} (hk : Kept base s) : Kept base (dropMove key s) := by
  unfold dropMove
  with_reducible repeat' (first
    | assumption | intro _ | apply ite_ok | apply modPln_ok | dsimp only | split)
theorem dropPage_ok {base : State} (h : Nat) (p : Nat) {s : State} (hk : Kept base s) : Kept base (dropPage h p s) := by
  unfold dropPage
  with_reducible repeat' (first
    | assumption | intro _ | apply ite_ok | apply modPln_ok | apply dropMove_ok | apply modMem_ok | apply memWf_set | apply memWf_write
    | apply memWf_zero | apply memWf_copy | apply memWf_filter | refine Inv.mem (Kept.inv (a := base) ?_) | dsimp only | split)
theorem dropHnd_ok {base : State} (h : Nat) {s : State} (hk : Kept base s) : Kept base (dropHnd h s) := by
  unfold dropHnd
  with_reducible repeat' (first
    | assumption | intro _ | apply ite_ok | apply forS_ok | apply dropPage_ok | apply modPln_ok | dsimp only | split)
theorem pressTrim_ok {base : State} (k : Nat) (t : Nat) (keep : Nat) {s : State} (hk : Kept base s) : Kept base (pressTrim k t keep s) := by
  unfold pressTrim
  with_reducible repeat' (first
    | assumption | intro _ | apply ite_ok | apply modPln_ok | apply foldl_ok | apply foldl2_ok | apply ite2_ok | dsimp only | split)
theorem pressLine_ok {base : State} (k : Nat) (t : Nat) (h : Nat) (line : Nat) (d : List (Nat × Byte)) {s : State} (hk : Kept base s) : Kept
    base (pressLine k t h line d s) := by
  unfold pressLine
  with_reducible repeat' (first
    | assumption | intro _ | apply ite_ok | apply modPln_ok | apply pressTrim_ok | apply foldl_ok | apply foldl2_ok | apply ite2_ok
    | dsimp only | split)
theorem pressWhole_ok {base : State} (h : Nat) (line : Nat) {s : State} (hk : Kept base s) : Kept base (pressWhole h line s) := by
  unfold pressWhole
  with_reducible repeat' (first
    | assumption | intro _ | apply ite_ok | apply modPln_ok | dsimp only | split)
theorem pressWrite_ok {base : State} (k : Nat) (t : Nat) (h : Nat) (off : Nat) (bs : List Byte) {s : State} (hk : Kept base s) : Kept base
    (pressWrite k t h off bs s) := by
  unfold pressWrite
  with_reducible repeat' (first
    | assumption | intro _ | apply ite_ok | apply forS_ok | apply pressWhole_ok | apply pressLine_ok | dsimp only | split)
theorem wakeUp_ok {base : State} {s : State} (hk : Kept base s) : Kept base (wakeUp s) := by
  unfold wakeUp
  with_reducible repeat' (first
    | assumption | intro _ | apply ite_ok | apply modPwr_ok | dsimp only | split)
theorem landWrite_ok {base : State} (w : WaitW) {s : State} (hk : Kept base s) : Kept base (landWrite w s) := by
  unfold landWrite
  with_reducible repeat' (first
    | assumption | intro _ | apply ite_ok | apply hPut_ok | apply pressWrite_ok | apply modPage_ok | apply modRck_ok | dsimp only
    | split)
theorem pump_ok {base : State} {s : State} (hk : Kept base s) : Kept base (pump s) := by
  unfold pump
  apply modPln_ok
  have H : ∀ (l : List WaitW) (x : List WaitW × State), Kept base x.2 → Kept base (l.foldl (fun (acc : List WaitW × State) w =>
      if acc.1.any (sameBlock w) then (acc.1 ++ [w], acc.2)
      else
        match needOf acc.2 w with
        | .ready => (acc.1, landWrite w acc.2)
        | .gone => acc
        | _ => (acc.1 ++ [w], acc.2)) x).2 := by
    intro l
    induction l with
    | nil => exact fun x hx => hx
    | cons w r ih =>
      intro x hx
      refine ih _ ?_
      beta_reduce
      split
      · exact hx
      · split
        · exact landWrite_ok _ hx
        · exact hx
        · exact hx
  exact H _ _ hk
theorem startMove_ok {base : State} (key : Nat) (l : Nat × Nat) (v : Option (Nat × Nat × Nat × Nat)) (promo : Bool) {s : State} (hk : Kept
    base s) : Kept base (startMove key l v promo s) := by
  unfold startMove
  with_reducible repeat' (first
    | assumption | intro _ | apply ite_ok | apply modPln_ok | dsimp only | split)
theorem countUnmet_ok {base : State} (x : Page) (l : Nat × Nat) {s : State} (hk : Kept base s) : Kept base (countUnmet x l s) := by
  unfold countUnmet
  with_reducible repeat' (first
    | assumption | intro _ | apply ite_ok | apply modPln_ok | dsimp only | split)
theorem startPromo_ok {base : State} (h : Nat) (p : Nat) {s : State} (hk : Kept base s) : Kept base (startPromo h p s) := by
  unfold startPromo
  with_reducible repeat' (first
    | assumption | intro _ | apply ite_ok | apply countUnmet_ok | apply startMove_ok | dsimp only | split)
theorem promoteRange_ok {base : State} (h : Nat) (off : Nat) (n : Nat) {s : State} (hk : Kept base s) : Kept base (promoteRange h off n s)
    := by
  unfold promoteRange
  with_reducible repeat' (first
    | assumption | intro _ | apply ite_ok | apply forS_ok | apply startPromo_ok | dsimp only | split)
theorem hWrite_ok {base : State} (who : Nat) (t : Nat) (step : Option Nat) (h : Nat) (off : Nat) (bs : List Byte) {s : State} (hk : Kept
    base s) : Kept base (hWrite who t step h off bs s) := by
  unfold hWrite
  with_reducible repeat' (first
    | assumption | intro _ | apply ite_ok | apply pump_ok | apply whenS_ok | apply wakeUp_ok | apply promoteRange_ok | apply modPln_ok
    | dsimp only | split)
theorem countAccess_ok {base : State} (d : Nat) (h : Nat) (off : Nat) (n : Nat) {s : State} (hk : Kept base s) : Kept base (countAccess d h
    off n s) := by
  unfold countAccess
  with_reducible repeat' (first
    | assumption | intro _ | apply ite_ok | apply forS_ok | apply modPage_ok | dsimp only | split)

end Sys2Proof.Machine
end

