-- ==== Sys2Proof/Laws/KeptVineOps.lean ====
section
/-!
SUPPORT. Laws/KeptVineOps.lean: every operation and command of Machine/VineOps.lean keeps `Kept`.
-/
namespace Sys2Proof.Machine

set_option linter.unusedTactic false
set_option linter.unreachableTactic false
set_option linter.unusedVariables false

theorem modPort_ok {base : State} (p : Nat) (f : Port → Port) {s : State} (hk : Kept base s) : Kept base (modPort p f s) := by
  unfold modPort
  with_reducible repeat' (first
    | assumption | intro _ | apply ite_ok | apply modVnl_ok | dsimp only | split)
theorem sendIdle_ok {base : State} (p : Nat) (ack : Nat) (nak : Bool) (ackValid : Bool) (credits : Nat) (cls : Nat) (hb : Bool) {s : State}
    (hk : Kept base s) : Kept base (sendIdle p ack nak ackValid credits cls hb s) := by
  unfold sendIdle
  with_reducible repeat' (first
    | assumption | intro _ | apply ite_ok | apply emit_ok | dsimp only | split)
theorem sealFlit_ok {base : State} (p : Nat) (typ : Nat) (cls : Nat) (dest : Nat) (som : Bool) (eom : Bool) (payload : List Byte) (dv :
    Bool) {s : State} (hk : Kept base s) : Kept base (sealFlit p typ cls dest som eom payload dv s).2 := by
  unfold sealFlit
  with_reducible repeat' (first
    | assumption | intro _ | apply ite_ok | apply modPort_ok | apply ite2_ok | dsimp only | split)
theorem sendFlit_ok {base : State} (p : Nat) (typ : Nat) (cls : Nat) (dest : Nat) (som : Bool) (eom : Bool) (payload : List Byte) {s :
    State} (hk : Kept base s) : Kept base (sendFlit p typ cls dest som eom payload s) := by
  unfold sendFlit
  with_reducible repeat' (first
    | assumption | intro _ | apply ite_ok | apply sealFlit_ok | apply emit_ok | apply modPort_ok | dsimp only | split)
theorem countDivert_ok {base : State} (p : Nat) (n : Nat) {s : State} (hk : Kept base s) : Kept base (countDivert p n s) := by
  unfold countDivert
  with_reducible repeat' (first
    | assumption | intro _ | apply ite_ok | apply modPort_ok | dsimp only | split)
theorem handOver_ok {base : State} (b : Nat) (k : Nat) (env : List Byte) {s : State} (hk : Kept base s) : Kept base (handOver b k env s) :=
    by
  unfold handOver
  with_reducible repeat' (first
    | assumption | intro _ | apply ite_ok | apply modVnl_ok | dsimp only | split)
theorem queueMsg_ok {base : State} (m : VMsg) {s : State} (hk : Kept base s) : Kept base (queueMsg m s) := by
  unfold queueMsg
  with_reducible repeat' (first
    | assumption | intro _ | apply ite_ok | apply modVnl_ok | dsimp only | split)
theorem sealMsg_ok {base : State} (p : Nat) (m : VMsg) {s : State} (hk : Kept base s) : Kept base (sealMsg p m s) := by
  unfold sealMsg
  with_reducible repeat' (first
    | assumption | intro _ | apply ite_ok | apply forS_ok | apply modPort_ok | apply sealFlit_ok | apply queueMsg_ok | dsimp only
    | split)
theorem divertSlot_ok {base : State} (b : Nat) (k : Nat) {s : State} (hk : Kept base s) : Kept base (divertSlot b k s) := by
  unfold divertSlot
  with_reducible repeat' (first
    | assumption | intro _ | apply ite_ok | apply forS_ok | apply sealMsg_ok | apply modVnl_ok | apply handOver_ok
    | apply countDivert_ok | apply modPort_ok | dsimp only | split)
theorem divertBind_ok {base : State} (b : Nat) {s : State} (hk : Kept base s) : Kept base (divertBind b s) := by
  unfold divertBind
  with_reducible repeat' (first
    | assumption | intro _ | apply ite_ok | apply forS_ok | apply divertSlot_ok | dsimp only | split)
theorem sendMsg_ok {base : State} (p : Nat) (m : VMsg) {s : State} (hk : Kept base s) : Kept base (sendMsg p m s) := by
  unfold sendMsg
  with_reducible repeat' (first
    | assumption | intro _ | apply ite_ok | apply forS_ok | apply sendFlit_ok | dsimp only | split)
theorem placeMsg_ok {base : State} (m : VMsg) {s : State} (hk : Kept base s) : Kept base (placeMsg m s) := by
  unfold placeMsg
  with_reducible repeat' (first
    | assumption | intro _ | apply ite_ok | apply sendMsg_ok | apply queueMsg_ok | dsimp only | split)
theorem slotSend_ok {base : State} (b : Nat) (k : Nat) (cls : Nat) (dest : Nat) (bytes : List Byte) {s : State} (hk : Kept base s) : Kept
    base (slotSend b k cls dest bytes s) := by
  unfold slotSend
  with_reducible repeat' (first
    | assumption | intro _ | apply ite_ok | apply placeMsg_ok | dsimp only | split)
theorem sendTo_ok {base : State} (b : Nat) (cls : Nat) (dest : Nat) (bytes : List Byte) {s : State} (hk : Kept base s) : Kept base (sendTo b
    cls dest bytes s) := by
  unfold sendTo
  with_reducible repeat' (first
    | assumption | intro _ | apply ite_ok | apply emit_ok | apply slotSend_ok | apply divertSlot_ok | dsimp only | split)
theorem retryMsg_ok {base : State} (m : VMsg) {s : State} (hk : Kept base s) : Kept base (retryMsg m s) := by
  unfold retryMsg
  with_reducible repeat' (first
    | assumption | intro _ | apply ite_ok | apply sendMsg_ok | apply queueMsg_ok | apply placeMsg_ok | dsimp only | split)
theorem drainQueue_ok {base : State} {s : State} (hk : Kept base s) : Kept base (drainQueue s) := by
  unfold drainQueue
  with_reducible repeat' (first
    | assumption | intro _ | apply ite_ok | apply forS_ok | apply retryMsg_ok | apply modVnl_ok | dsimp only | split)
theorem upEvent_ok {base : State} (tbl : Nat) (inst : Nat) (code : Nat) (tens : List Nat) (subject : Nat) (detail : Nat) {s : State} (hk :
    Kept base s) : Kept base (upEvent tbl inst code tens subject detail s) := by
  unfold upEvent
  with_reducible repeat' (first
    | assumption | intro _ | apply ite_ok | (apply modCel_ok; rotate_left; with_unfolding_all rfl)
    | (apply modCel_none; rotate_left; with_unfolding_all rfl) | dsimp only | split)
theorem portEvt_ok {base : State} (p : Nat) (code : Nat) {s : State} (hk : Kept base s) : Kept base (portEvt p code s) := by
  unfold portEvt
  with_reducible repeat' (first
    | assumption | intro _ | apply ite_ok | apply upEvent_ok | dsimp only | split)
theorem sendTrain_ok {base : State} (p : Nat) (bytes : List Byte) {s : State} (hk : Kept base s) : Kept base (sendTrain p bytes s) := by
  unfold sendTrain
  with_reducible repeat' (first
    | assumption | intro _ | apply ite_ok | apply forS_ok | apply emit_ok | dsimp only | split)
theorem hsSend_ok {base : State} (p : Nat) (bytes : List Byte) {s : State} (hk : Kept base s) : Kept base (hsSend p bytes s) := by
  unfold hsSend
  with_reducible repeat' (first
    | assumption | intro _ | apply ite_ok | apply sendTrain_ok | apply modPort_ok | dsimp only | split)
theorem hsHelloStart_ok {base : State} (p : Nat) {s : State} (hk : Kept base s) : Kept base (hsHelloStart p s) := by
  unfold hsHelloStart
  with_reducible repeat' (first
    | assumption | intro _ | apply ite_ok | apply fresh_ok | apply hsSend_ok | apply modPort_ok | dsimp only | split)
theorem askToken_ok {base : State} (p : Nat) {s : State} (hk : Kept base s) : Kept base (askToken p s) := by
  unfold askToken
  with_reducible repeat' (first
    | assumption | intro _ | apply ite_ok | apply hsSend_ok | apply modPort_ok | dsimp only | split)
theorem retryTokens_ok {base : State} {s : State} (hk : Kept base s) : Kept base (retryTokens s) := by
  unfold retryTokens
  with_reducible repeat' (first
    | assumption | intro _ | apply ite_ok | apply forS_ok | apply askToken_ok | dsimp only | split)
theorem enterHedged_ok {base : State} (p : Nat) {s : State} (hk : Kept base s) : Kept base (enterHedged p s) := by
  unfold enterHedged
  with_reducible repeat' (first
    | assumption | intro _ | apply ite_ok | apply hsHelloStart_ok | apply portEvt_ok | apply modPort_ok | dsimp only | split)
theorem enterDark_ok {base : State} (p : Nat) (reason : Nat) {s : State} (hk : Kept base s) : Kept base (enterDark p reason s) := by
  unfold enterDark
  with_reducible repeat' (first
    | assumption | intro _ | apply ite_ok | apply portEvt_ok | apply modPort_ok | dsimp only | split)
theorem updReady_ok {base : State} (b : Nat) {s : State} (hk : Kept base s) : Kept base (updReady b s) := by
  unfold updReady
  with_reducible repeat' (first
    | assumption | intro _ | apply ite_ok | apply modVnl_ok | apply noteT_ok | dsimp only | split)
theorem gateShutPort_ok {base : State} (p : Nat) (reason : Nat) {s : State} (hk : Kept base s) : Kept base (gateShutPort p reason s) := by
  unfold gateShutPort
  with_reducible repeat' (first
    | assumption | intro _ | apply ite_ok | apply modPort_ok | apply noteT_ok | apply enterHedged_ok | apply updReady_ok | dsimp only
    | split)
theorem tryOpen_ok {base : State} (p : Nat) {s : State} (hk : Kept base s) : Kept base (tryOpen p s) := by
  unfold tryOpen
  with_reducible repeat' (first
    | assumption | intro _ | apply ite_ok | apply modPort_ok | apply drainQueue_ok | apply updReady_ok | apply portEvt_ok
    | apply noteT_ok | dsimp only | split)

end Sys2Proof.Machine
end

