-- ==== Sys2Proof/Laws/KeptCoreOps.lean ====
section
/-!
SUPPORT. Laws/KeptCoreOps.lean: every operation and command of Machine/CoreOps.lean keeps `Kept`.
-/
namespace Sys2Proof.Machine

set_option linter.unusedTactic false
set_option linter.unreachableTactic false
set_option linter.unusedVariables false

theorem modCore_ok {base : State} (c : Nat) (f : Core → Core) {s : State} (hk : Kept base s) : Kept base (modCore c f s) := by
  unfold modCore
  with_reducible repeat' (first
    | assumption | intro _ | apply ite_ok | apply modCor_ok | dsimp only | split)
theorem modSlot_ok {base : State} (c : Nat) (k : Nat) (f : CSlot → CSlot) {s : State} (hk : Kept base s) : Kept base (modSlot c k f s) := by
  unfold modSlot
  with_reducible repeat' (first
    | assumption | intro _ | apply ite_ok | apply modCore_ok | dsimp only | split)
theorem uPut_ok {base : State} (c : Nat) (t : Nat) (w : Nat × Byte) {s : State} (hk : Kept base s) : Kept base (uPut c t w s) := by
  unfold uPut
  with_reducible repeat' (first
    | assumption | intro _ | apply ite_ok | apply modMem_ok | apply memWf_set | apply memWf_write | apply memWf_zero | apply memWf_copy
    | apply memWf_filter | refine Inv.mem (Kept.inv (a := base) ?_) | dsimp only | split)
theorem noteWork_ok {base : State} (t : Nat) (step : Option Nat) (code : Nat) (subject : Nat) (detail : Nat) {s : State} (hk : Kept base s)
    : Kept base (noteWork t step code subject detail s) := by
  unfold noteWork
  with_reducible repeat' (first
    | assumption | intro _ | apply ite_ok | apply addRec_ok | apply modStp_ok | apply noteT_ok | dsimp only | split)
theorem count_ok {base : State} (c : Nat) (set : Nat) (i : Nat) (n : Nat) {s : State} (hk : Kept base s) : Kept base (count c set i n s) :=
    by
  unfold count
  with_reducible repeat' (first
    | assumption | intro _ | apply ite_ok | apply modCore_ok | dsimp only | split)
theorem addCnt_ok {base : State} (c : Nat) (k : Nat) (pool : Bool) (i : Nat) (n : Nat) {s : State} (hk : Kept base s) : Kept base (addCnt c
    k pool i n s) := by
  unfold addCnt
  with_reducible repeat' (first
    | assumption | intro _ | apply ite_ok | apply modSlot_ok | apply noteWork_ok | apply count_ok | dsimp only | split)
theorem postCnt_ok {base : State} (c : Nat) (k : Nat) (pool : Bool) (i : Nat) (n : Nat) {s : State} (hk : Kept base s) : Kept base (postCnt
    c k pool i n s) := by
  unfold postCnt
  with_reducible repeat' (first
    | assumption | intro _ | apply ite_ok | apply modSlot_ok | apply addCnt_ok | dsimp only | split)
theorem landPost_ok {base : State} (f : FPost) {s : State} (hk : Kept base s) : Kept base (landPost f s) := by
  unfold landPost
  with_reducible repeat' (first
    | assumption | intro _ | apply ite_ok | apply count_ok | apply postCnt_ok | apply noteWork_ok | apply modSlot_ok | dsimp only
    | split)
theorem makePost_ok {base : State} (t : Nat) (src : Option (Nat × Nat)) (step : Option Nat) (p : Post) {s : State} (hk : Kept base s) : Kept
    base (makePost t src step p s) := by
  unfold makePost
  with_reducible repeat' (first
    | assumption | intro _ | apply ite_ok | apply modCor_ok | apply count_ok | dsimp only | split)
theorem cntRestore_ok {base : State} (r : List CntRec) {s : State} (hk : Kept base s) : Kept base (cntRestore r s) := by
  unfold cntRestore
  with_reducible repeat' (first
    | assumption | intro _ | apply ite_ok | apply forS_ok | apply modSlot_ok | dsimp only | split)
theorem modLaunch_ok {base : State} (tag : Nat) (f : Launch → Launch) {s : State} (hk : Kept base s) : Kept base (modLaunch tag f s) := by
  unfold modLaunch
  with_reducible repeat' (first
    | assumption | intro _ | apply ite_ok | apply modCor_ok | dsimp only | split)
theorem modPart_ok {base : State} (tag : Nat) (c : Nat) (f : LPart → LPart) {s : State} (hk : Kept base s) : Kept base (modPart tag c f s)
    := by
  unfold modPart
  with_reducible repeat' (first
    | assumption | intro _ | apply ite_ok | apply modLaunch_ok | dsimp only | split)
theorem tallyBody_ok {base : State} (t : Nat) (c : Nat) (err : Bool) (l : Launch) (p : LPart) {s : State} (hk : Kept base s) : Kept base
    (tallyBody t c err l p s).2 := by
  unfold tallyBody
  with_reducible repeat' (first
    | assumption | intro _ | apply ite_ok | apply fresh_ok | apply foldl_ok | apply foldl2_ok | apply ite2_ok | dsimp only | split)
theorem writeTally_ok {base : State} (t : Nat) (body : List Byte) {s : State} (hk : Kept base s) : Kept base (writeTally t body s) := by
  unfold writeTally
  with_reducible repeat' (first
    | assumption | intro _ | apply ite_ok | (apply modDbg_ok; rotate_left; with_unfolding_all rfl) | apply emit_ok | dsimp only | split)
theorem postTally_ok {base : State} (t : Nat) (step : Option Nat) (body : List Byte) {s : State} (hk : Kept base s) : Kept base (postTally t
    step body s) := by
  unfold postTally
  with_reducible repeat' (first
    | assumption | intro _ | apply ite_ok | (apply modDbg_ok; rotate_left; with_unfolding_all rfl) | apply writeTally_ok | dsimp only
    | split)
theorem releaseTallies_ok {base : State} (t : Nat) (n : Nat) {s : State} (hk : Kept base s) : Kept base (releaseTallies t n s) := by
  unfold releaseTallies
  with_reducible repeat' (first
    | assumption | intro _ | apply ite_ok | apply forS_ok | apply writeTally_ok | (apply modDbg_ok; rotate_left; with_unfolding_all rfl)
    | dsimp only | split)
theorem dropTallies_ok {base : State} (t : Nat) (n : Nat) {s : State} (hk : Kept base s) : Kept base (dropTallies t n s) := by
  unfold dropTallies
  with_reducible repeat' (first
    | assumption | intro _ | apply ite_ok | (apply modDbg_ok; rotate_left; with_unfolding_all rfl) | dsimp only | split)
theorem latchPart_ok {base : State} (tag : Nat) (c : Nat) {s : State} (hk : Kept base s) : Kept base (latchPart tag c s) := by
  unfold latchPart
  with_reducible repeat' (first
    | assumption | intro _ | apply ite_ok | apply modCore_ok | apply modPart_ok | apply foldl_ok | apply foldl2_ok | apply ite2_ok
    | dsimp only | split)
theorem tallyPart_ok {base : State} (err : Bool) (tag : Nat) (c : Nat) {s : State} (hk : Kept base s) : Kept base (tallyPart err tag c s) :=
    by
  unfold tallyPart
  with_reducible repeat' (first
    | assumption | intro _ | apply ite_ok | apply latchPart_ok | apply tallyBody_ok | apply postTally_ok | dsimp only | split)
theorem stopPart_ok {base : State} (tag : Nat) (p : LPart) {s : State} (hk : Kept base s) : Kept base (stopPart tag p s) := by
  unfold stopPart
  with_reducible repeat' (first
    | assumption | intro _ | apply ite_ok | apply modPln_ok | apply modSlot_ok | dsimp only | split)
theorem dropLaunch_ok {base : State} (tag : Nat) {s : State} (hk : Kept base s) : Kept base (dropLaunch tag s) := by
  unfold dropLaunch
  with_reducible repeat' (first
    | assumption | intro _ | apply ite_ok | apply modCor_ok | apply forS_ok | apply stopPart_ok | dsimp only | split)
theorem settlePreempt_ok {base : State} (c : Nat) {s : State} (hk : Kept base s) : Kept base (settlePreempt c s) := by
  unfold settlePreempt
  with_reducible repeat' (first
    | assumption | intro _ | apply ite_ok | apply modCor_ok | apply modCore_ok | dsimp only | split)
theorem settleCore_ok {base : State} (c : Nat) {s : State} (hk : Kept base s) : Kept base (settleCore c s) := by
  unfold settleCore
  with_reducible repeat' (first
    | assumption | intro _ | apply ite_ok | apply settlePreempt_ok | apply modCore_ok | dsimp only | split)
theorem settleCores_ok {base : State} {s : State} (hk : Kept base s) : Kept base (settleCores s) := by
  unfold settleCores
  with_reducible repeat' (first
    | assumption | intro _ | apply ite_ok | apply forS_ok | apply settleCore_ok | dsimp only | split)
theorem zeroContext_ok {base : State} (c : Nat) {s : State} (hk : Kept base s) : Kept base (zeroContext c s) := by
  unfold zeroContext
  with_reducible repeat' (first
    | assumption | intro _ | apply ite_ok | apply modSlot_ok | apply modMem_ok | apply memWf_set | apply memWf_write | apply memWf_zero
    | apply memWf_copy | apply memWf_filter | refine Inv.mem (Kept.inv (a := base) ?_) | dsimp only | split)
theorem zeroBank_ok {base : State} (c : Nat) {s : State} (hk : Kept base s) : Kept base (zeroBank c s) := by
  unfold zeroBank
  with_reducible repeat' (first
    | assumption | intro _ | apply ite_ok | apply modMem_ok | apply memWf_set | apply memWf_write | apply memWf_zero | apply memWf_copy
    | apply memWf_filter | refine Inv.mem (Kept.inv (a := base) ?_) | dsimp only | split)
theorem zeroSegment_ok {base : State} (die : Nat) (seg : Nat) {s : State} (hk : Kept base s) : Kept base (zeroSegment die seg s) := by
  unfold zeroSegment
  with_reducible repeat' (first
    | assumption | intro _ | apply ite_ok | apply modCor_ok | apply modMem_ok | apply memWf_set | apply memWf_write | apply memWf_zero
    | apply memWf_copy | apply memWf_filter | refine Inv.mem (Kept.inv (a := base) ?_) | dsimp only | split)
theorem zeroHandle_ok {base : State} (h : Nat) {s : State} (hk : Kept base s) : Kept base (zeroHandle h s) := by
  unfold zeroHandle
  with_reducible repeat' (first
    | assumption | intro _ | apply ite_ok | apply forS_ok | apply modPage_ok | apply modMem_ok | apply memWf_set | apply memWf_write
    | apply memWf_zero | apply memWf_copy | apply memWf_filter | refine Inv.mem (Kept.inv (a := base) ?_) | dsimp only | split)
theorem releaseSlot_ok {base : State} (c : Nat) (k : Nat) {s : State} (hk : Kept base s) : Kept base (releaseSlot c k s) := by
  unfold releaseSlot
  with_reducible repeat' (first
    | assumption | intro _ | apply ite_ok | apply modHnd_ok | apply zeroHandle_ok | apply zeroContext_ok | apply modSlot_ok
    | apply csetReset_ok | dsimp only | split)
theorem saveImage_ok {base : State} (c : Nat) (k : Nat) {s : State} (hk : Kept base s) : Kept base (saveImage c k s) := by
  unfold saveImage
  with_reducible repeat' (first
    | assumption | intro _ | apply ite_ok | apply countAccess_ok | apply modSlot_ok | apply modMem_ok | apply memWf_set
    | apply memWf_write | apply memWf_zero | apply memWf_copy | apply memWf_filter | refine Inv.mem (Kept.inv (a := base) ?_)
    | dsimp only | split)
theorem loadImage_ok {base : State} (c : Nat) (k : Nat) {s : State} (hk : Kept base s) : Kept base (loadImage c k s) := by
  unfold loadImage
  with_reducible repeat' (first
    | assumption | intro _ | apply ite_ok | apply countAccess_ok | apply modMem_ok | apply memWf_set | apply memWf_write
    | apply memWf_zero | apply memWf_copy | apply memWf_filter | refine Inv.mem (Kept.inv (a := base) ?_) | apply modSlot_ok
    | dsimp only | split)
theorem swapContext_ok {base : State} (c : Nat) (old : Nat) (new : Nat) {s : State} (hk : Kept base s) : Kept base (swapContext c old new s)
    := by
  unfold swapContext
  with_reducible repeat' (first
    | assumption | intro _ | apply ite_ok | apply modCore_ok | apply zeroBank_ok | apply loadImage_ok | apply saveImage_ok | dsimp only
    | split)
theorem swapOut_ok {base : State} (c : Nat) {s : State} (hk : Kept base s) : Kept base (swapOut c s) := by
  unfold swapOut
  with_reducible repeat' (first
    | assumption | intro _ | apply ite_ok | apply saveImage_ok | apply modCore_ok | apply zeroBank_ok | apply modMem_ok
    | apply memWf_set | apply memWf_write | apply memWf_zero | apply memWf_copy | apply memWf_filter
    | refine Inv.mem (Kept.inv (a := base) ?_) | dsimp only | split)
theorem dropFlight_ok {base : State} (c : Nat) (k : Nat) {s : State} (hk : Kept base s) : Kept base (dropFlight c k s) := by
  unfold dropFlight
  with_reducible repeat' (first
    | assumption | intro _ | apply ite_ok | apply forS_ok | apply addCnt_ok | apply modPln_ok | apply modSlot_ok | dsimp only | split)
theorem discardFlight_ok {base : State} (c : Nat) (k : Nat) {s : State} (hk : Kept base s) : Kept base (discardFlight c k s) := by
  unfold discardFlight
  with_reducible repeat' (first
    | assumption | intro _ | apply ite_ok | apply count_ok | apply modCore_ok | apply dropFlight_ok | dsimp only | split)

end Sys2Proof.Machine
end

