-- ==== Sys2Proof/Laws/KeptRackOps.lean ====
section
/-!
SUPPORT. Laws/KeptRackOps.lean: every operation and command of Machine/RackOps.lean keeps `Kept`.
-/
namespace Sys2Proof.Machine

set_option linter.unusedTactic false
set_option linter.unreachableTactic false
set_option linter.unusedVariables false

theorem rackEnd_ok {base : State} (tag : Nat) (t : Nat) (n : Nat) (status : Nat) (detail : Nat) (result : Nat) {s : State} (hk : Kept base
    s) : Kept base (rackEnd tag t n status detail result s) := by
  unfold rackEnd
  with_reducible repeat' (first
    | assumption | intro _ | apply ite_ok | apply finish_ok | apply noteT_ok | dsimp only | split)
theorem setSlot_ok {base : State} (k : Nat) (f : Slot → Slot) {s : State} (hk : Kept base s) : Kept base (setSlot k f s) := by
  unfold setSlot
  with_reducible repeat' (first
    | assumption | intro _ | apply ite_ok | apply modRck_ok | dsimp only | split)
theorem modTenRack_ok {base : State} (t : Nat) (f : TenRack → TenRack) {s : State} (hk : Kept base s) : Kept base (modTenRack t f s) := by
  unfold modTenRack
  with_reducible repeat' (first
    | assumption | intro _ | apply ite_ok | apply modRck_ok | dsimp only | split)
theorem program_ok {base : State} (t : Nat) (bytes : Nat) {s : State} (hk : Kept base s) : Kept base (program t bytes s) := by
  unfold program
  with_reducible repeat' (first
    | assumption | intro _ | apply ite_ok | apply modRck_ok | apply noteT_ok | dsimp only | split)
theorem dropMarks_ok {base : State} (t : Nat) {s : State} (hk : Kept base s) : Kept base (dropMarks t s) := by
  unfold dropMarks
  with_reducible repeat' (first
    | assumption | intro _ | apply ite_ok | apply modPln_ok | apply modStp_ok | dsimp only | split)
theorem abandonRack_ok {base : State} {s : State} (hk : Kept base s) : Kept base (abandonRack s) := by
  unfold abandonRack
  with_reducible repeat' (first
    | assumption | intro _ | apply ite_ok | apply modRck_ok | apply setSlot_ok | apply dropMarks_ok | dsimp only | split)
theorem toBuddy_ok {base : State} (b : Nat) (k : Nat) (cls : Nat) (bytes : List Byte) {s : State} (hk : Kept base s) : Kept base (toBuddy b
    k cls bytes s) := by
  unfold toBuddy
  with_reducible repeat' (first
    | assumption | intro _ | apply ite_ok | apply emit_ok | apply slotSend_ok | dsimp only | split)
theorem sendAnswer_ok {base : State} (b : Nat) (m : List Byte) (a : ReadAns) {s : State} (hk : Kept base s) : Kept base (sendAnswer b m a s)
    := by
  unfold sendAnswer
  with_reducible repeat' (first
    | assumption | intro _ | apply ite_ok | apply sendTo_ok | dsimp only | split)
theorem serveOwed_ok {base : State} (t : Nat) {s : State} (hk : Kept base s) : Kept base (serveOwed t s) := by
  unfold serveOwed
  with_reducible repeat' (first
    | assumption | intro _ | apply ite_ok | apply forS_ok | apply sendAnswer_ok | apply modRck_ok | dsimp only | split)
theorem rackFit_ok {base : State} {s : State} (hk : Kept base s) : Kept base (rackFit s) := by
  unfold rackFit
  with_reducible repeat' (first
    | assumption | intro _ | apply ite_ok | apply rackEnd_ok | apply setSlot_ok | apply modRck_ok | dsimp only | split)
theorem rackEffect_ok {base : State} (tag : Nat) (t : Nat) (n : Nat) (graft : Bool) (narrowOk : Bool) {s : State} (hk : Kept base s) : Kept
    base (rackEffect tag t n graft narrowOk s) := by
  unfold rackEffect
  with_reducible repeat' (first
    | assumption | intro _ | apply ite_ok | apply rackEnd_ok | apply modRck_ok | apply setSlot_ok | apply toBuddy_ok | apply rackFit_ok
    | apply modTenRack_ok | dsimp only | split)
theorem setGraft_ok {base : State} (t : Nat) (g : Nat) {s : State} (hk : Kept base s) : Kept base (setGraft t g s) := by
  unfold setGraft
  with_reducible repeat' (first
    | assumption | intro _ | apply ite_ok | apply noteT_ok | apply modTenRack_ok | dsimp only | split)
theorem graftNone_ok {base : State} (t : Nat) {s : State} (hk : Kept base s) : Kept base (graftNone t s) := by
  unfold graftNone
  with_reducible repeat' (first
    | assumption | intro _ | apply ite_ok | apply setGraft_ok | apply modTenRack_ok | dsimp only | split)
theorem graftStart_ok {base : State} (t : Nat) (n : Nat) {s : State} (hk : Kept base s) : Kept base (graftStart t n s) := by
  unfold graftStart
  with_reducible repeat' (first
    | assumption | intro _ | apply ite_ok | apply modTenRack_ok | apply graftNone_ok | apply setGraft_ok | apply forS_ok
    | apply toBuddy_ok | dsimp only | split)

end Sys2Proof.Machine
end

