-- ==== Sys2Proof/Laws/KeptStepOps.lean ====
section
/-!
SUPPORT. Laws/KeptStepOps.lean: every operation and command of Machine/StepOps.lean keeps `Kept`.
-/
namespace Sys2Proof.Machine

set_option linter.unusedTactic false
set_option linter.unreachableTactic false
set_option linter.unusedVariables false

theorem modTrig_ok {base : State} (k : Nat) (f : Trig → Trig) {s : State} (hk : Kept base s) : Kept base (modTrig k f s) := by
  unfold modTrig
  with_reducible repeat' (first
    | assumption | intro _ | apply ite_ok | apply modTim_ok | dsimp only | split)
theorem rearm_ok {base : State} (k : Nat) {s : State} (hk : Kept base s) : Kept base (rearm k s) := by
  unfold rearm
  with_reducible repeat' (first
    | assumption | intro _ | apply ite_ok | apply modTrig_ok | dsimp only | split)
theorem trigAct_ok {base : State} (k : Nat) {s : State} (hk : Kept base s) : Kept base (trigAct k s) := by
  unfold trigAct
  with_reducible repeat' (first
    | assumption | intro _ | apply ite_ok | apply makePost_ok | apply noteT_ok | apply rackEffect_ok | dsimp only | split)
theorem trigRelease_ok {base : State} (t : Nat) {s : State} (hk : Kept base s) : Kept base (trigRelease t s) := by
  unfold trigRelease
  with_reducible repeat' (first
    | assumption | intro _ | apply ite_ok | apply forS_ok | apply rearm_ok | apply trigAct_ok | apply modTrig_ok | dsimp only | split)
theorem settleFrees_ok {base : State} (t : Nat) {s : State} (hk : Kept base s) : Kept base (settleFrees t s) := by
  unfold settleFrees
  with_reducible repeat' (first
    | assumption | intro _ | apply ite_ok | apply forS_ok | apply dropHnd_ok | apply modHnd_ok | dsimp only | split)
theorem upMsg_ok {base : State} (m : UpMsg) {s : State} (hk : Kept base s) : Kept base (upMsg m s) := by
  unfold upMsg
  with_reducible repeat' (first
    | assumption | intro _ | apply ite_ok | (apply modCel_ok; rotate_left; with_unfolding_all rfl)
    | (apply modCel_none; rotate_left; with_unfolding_all rfl) | dsimp only | split)
theorem updStall_ok {base : State} (t : Nat) {s : State} (hk : Kept base s) : Kept base (updStall t s) := by
  unfold updStall
  with_reducible repeat' (first
    | assumption | intro _ | apply ite_ok | apply modStp_ok | apply modTstep_ok | apply noteT_ok | dsimp only | split)
theorem undoHandles_ok {base : State} (t : Nat) (n : Nat) {s : State} (hk : Kept base s) : Kept base (undoHandles t n s) := by
  unfold undoHandles
  with_reducible repeat' (first
    | assumption | intro _ | apply ite_ok | apply forS_ok | apply dropHnd_ok | apply modHnd_ok | dsimp only | split)
theorem dropTrigs_ok {base : State} (t : Nat) (n : Nat) {s : State} (hk : Kept base s) : Kept base (dropTrigs t n s) := by
  unfold dropTrigs
  with_reducible repeat' (first
    | assumption | intro _ | apply ite_ok | apply forS_ok | apply modTrig_ok | dsimp only | split)
theorem dropColls_ok {base : State} (t : Nat) (n : Nat) {s : State} (hk : Kept base s) : Kept base (dropColls t n s) := by
  unfold dropColls
  with_reducible repeat' (first
    | assumption | intro _ | apply ite_ok | apply modCol_ok | dsimp only | split)
theorem dropAhead_ok {base : State} (t : Nat) (n : Nat) {s : State} (hk : Kept base s) : Kept base (dropAhead t n s) := by
  unfold dropAhead
  with_reducible repeat' (first
    | assumption | intro _ | apply ite_ok | apply dropColls_ok | apply modTstep_ok | dsimp only | split)
theorem discard_ok {base : State} (t : Nat) (n : Nat) (reason : Nat) (origin : Nat) {s : State} (hk : Kept base s) : Kept base (discard t n
    reason origin s) := by
  unfold discard
  with_reducible repeat' (first
    | assumption | intro _ | apply ite_ok | apply dropAhead_ok | apply cntRestore_ok | apply modCor_ok | apply dropTallies_ok
    | apply settleCores_ok | apply forS_ok | apply dropLaunch_ok | apply dropTrigs_ok | apply dropColls_ok | apply undoHandles_ok
    | apply modRck_ok | apply modPln_ok | apply modStp_ok | apply modTstep_ok | apply completeNow_ok | apply updStall_ok
    | apply settleFrees_ok | apply noteT_ok | dsimp only | split)
theorem failStep_ok {base : State} (t : Nat) (n : Nat) (reason : Nat) {s : State} (hk : Kept base s) : Kept base (failStep t n reason s) :=
    by
  unfold failStep
  with_reducible repeat' (first
    | assumption | intro _ | apply ite_ok | apply noteT_ok | apply discard_ok | (apply modCel_ok; rotate_left; with_unfolding_all rfl)
    | (apply modCel_none; rotate_left; with_unfolding_all rfl) | apply upMsg_ok | dsimp only | split)
theorem localFail_ok {base : State} (t : Nat) (reason : Nat) {s : State} (hk : Kept base s) : Kept base (localFail t reason s) := by
  unfold localFail
  with_reducible repeat' (first
    | assumption | intro _ | apply ite_ok | apply failStep_ok | apply modTstep_ok | dsimp only | split)
theorem trySeal_ok {base : State} (t : Nat) {s : State} (hk : Kept base s) : Kept base (trySeal t s) := by
  unfold trySeal
  with_reducible repeat' (first
    | assumption | intro _ | apply ite_ok | apply forS_ok | apply modStep_ok | apply finish_ok | apply failStep_ok | apply upMsg_ok
    | dsimp only | split)
theorem done_ok {base : State} (tag : Nat) (status : Nat) (detail : Nat) (result : Nat) {s : State} (hk : Kept base s) : Kept base (done tag
    status detail result s) := by
  unfold done
  with_reducible repeat' (first
    | assumption | intro _ | apply ite_ok | apply settleFrees_ok | apply trySeal_ok | apply finish_ok | dsimp only | split)
theorem openNow_ok {base : State} (tag : Nat) (t : Nat) (n : Nat) (d : List Byte) {s : State} (hk : Kept base s) : Kept base (openNow tag t
    n d s) := by
  unfold openNow
  with_reducible repeat' (first
    | assumption | intro _ | apply ite_ok | apply modTstep_ok | apply modPwr_ok | apply modLive_ok | apply makePost_ok
    | apply updStall_ok | apply done_ok | apply failStep_ok | dsimp only | split)
theorem wakeOpens_ok {base : State} (t : Nat) {s : State} (hk : Kept base s) : Kept base (wakeOpens t s) := by
  unfold wakeOpens
  with_reducible repeat' (first
    | assumption | intro _ | apply ite_ok | apply forS_ok | apply done_ok | apply openNow_ok | dsimp only | split)
theorem toChildren_ok {base : State} (b : Nat) (bytes : List Byte) {s : State} (hk : Kept base s) : Kept base (toChildren b bytes s) := by
  unfold toChildren
  with_reducible repeat' (first
    | assumption | intro _ | apply ite_ok | apply forS_ok | apply sendTo_ok | dsimp only | split)
theorem wiltJoin_ok {base : State} (kind : Nat) (subject : Nat) {s : State} (hk : Kept base s) : Kept base (wiltJoin kind subject s) := by
  unfold wiltJoin
  with_reducible repeat' (first
    | assumption | intro _ | apply ite_ok | apply upEvent_ok | apply record_ok | apply modPol_ok | dsimp only | split)
theorem wiltLeave_ok {base : State} (kind : Nat) (subject : Nat) {s : State} (hk : Kept base s) : Kept base (wiltLeave kind subject s) := by
  unfold wiltLeave
  with_reducible repeat' (first
    | assumption | intro _ | apply ite_ok | apply upEvent_ok | apply record_ok | apply modPol_ok | dsimp only | split)
theorem judgeLate_ok {base : State} (b : Nat) (own : Nat) (late : Nat) (early : Nat) {s : State} (hk : Kept base s) : Kept base (judgeLate b
    own late early s) := by
  unfold judgeLate
  with_reducible repeat' (first
    | assumption | intro _ | apply ite_ok | apply modPol_ok | apply wiltJoin_ok | apply wiltLeave_ok | dsimp only | split)
theorem standHandles_ok {base : State} (t : Nat) (n : Nat) {s : State} (hk : Kept base s) : Kept base (standHandles t n s) := by
  unfold standHandles
  with_reducible repeat' (first
    | assumption | intro _ | apply ite_ok | apply settleFrees_ok | apply forS_ok | apply modHnd_ok | dsimp only | split)
theorem releaseOne_ok {base : State} (t : Nat) (n : Nat) (p : Nat) (lat : Nat) (tag : Nat) {s : State} (hk : Kept base s) : Kept base
    (releaseOne t n p lat tag s) := by
  unfold releaseOne
  with_reducible repeat' (first
    | assumption | intro _ | apply ite_ok | apply modLive_ok | apply completeNow_ok | apply rackEffect_ok | apply postHeld_ok
    | apply modTrig_ok | dsimp only | split)
theorem drawStep_ok {base : State} (t : Nat) (n : Nat) (p : Nat) (spread : Option (Nat × Nat × Nat)) {s : State} (hk : Kept base s) : Kept
    base (drawStep t n p spread s) := by
  unfold drawStep
  with_reducible repeat' (first
    | assumption | intro _ | apply ite_ok | apply modStp_ok | apply judgeLate_ok | apply modTstep_ok | apply graftStart_ok
    | apply standHandles_ok | apply forS_ok | apply releaseOne_ok | apply releaseTallies_ok | apply postEvent_ok | apply serveOwed_ok
    | apply wakeOpens_ok | apply trigRelease_ok | apply pump_ok | apply updStall_ok | apply settleFrees_ok | dsimp only | split)
theorem rootDraw_ok {base : State} (t : Nat) (b : Nat) (n : Nat) (r : StepRec) {s : State} (hk : Kept base s) : Kept base (rootDraw t b n r
    s) := by
  unfold rootDraw
  with_reducible repeat' (first
    | assumption | intro _ | apply ite_ok | apply drawStep_ok | apply toChildren_ok | dsimp only | split)
theorem tryReport_ok {base : State} (t : Nat) (n : Nat) {s : State} (hk : Kept base s) : Kept base (tryReport t n s) := by
  unfold tryReport
  with_reducible repeat' (first
    | assumption | intro _ | apply ite_ok | apply rootDraw_ok | apply modStep_ok | apply modTstep_ok | apply sendTo_ok | dsimp only
    | split)
theorem failOut_ok {base : State} (t : Nat) (n : Nat) (reason : Nat) (origin : Nat) {s : State} (hk : Kept base s) : Kept base (failOut t n
    reason origin s) := by
  unfold failOut
  with_reducible repeat' (first
    | assumption | intro _ | apply ite_ok | apply discard_ok | apply toChildren_ok | apply sendTo_ok | dsimp only | split)
theorem wakeRacks_ok {base : State} (t : Nat) {s : State} (hk : Kept base s) : Kept base (wakeRacks t s) := by
  unfold wakeRacks
  with_reducible repeat' (first
    | assumption | intro _ | apply ite_ok | apply forS_ok | apply rackEffect_ok | apply modLive_ok | dsimp only | split)
theorem resyncNow_ok {base : State} (tag : Nat) (t : Nat) (d : List Byte) {s : State} (hk : Kept base s) : Kept base (resyncNow tag t d s)
    := by
  unfold resyncNow
  with_reducible repeat' (first
    | assumption | intro _ | apply ite_ok | apply done_ok | apply modTstep_ok | dsimp only | split)
theorem wakeResyncs_ok {base : State} (t : Nat) {s : State} (hk : Kept base s) : Kept base (wakeResyncs t s) := by
  unfold wakeResyncs
  with_reducible repeat' (first
    | assumption | intro _ | apply ite_ok | apply forS_ok | apply resyncNow_ok | apply modLive_ok | dsimp only | split)
theorem writeBack_ok {base : State} (t : Nat) {s : State} (hk : Kept base s) : Kept base (writeBack t s) := by
  unfold writeBack
  with_reducible repeat' (first
    | assumption | intro _ | apply ite_ok | apply forS_ok | apply modPage_ok | apply modPln_ok | apply hPut_ok | apply modStp_ok
    | apply noteT_ok | apply modTstep_ok | dsimp only | split)

end Sys2Proof.Machine
end

