-- ==== Sys2Proof/Laws/KeptFaultOps.lean ====
section
/-!
SUPPORT. Laws/KeptFaultOps.lean: every operation and command of Machine/FaultOps.lean keeps `Kept`.
-/
namespace Sys2Proof.Machine

set_option linter.unusedTactic false
set_option linter.unreachableTactic false
set_option linter.unusedVariables false

theorem modStress_ok {base : State} (d : Nat) (f : Stress → Stress) {s : State} (hk : Kept base s) : Kept base (modStress d f s) := by
  unfold modStress
  with_reducible repeat' (first
    | assumption | intro _ | apply ite_ok | apply modErr_ok | dsimp only | split)
theorem zeroDieBanks_ok {base : State} (d : Nat) {s : State} (hk : Kept base s) : Kept base (zeroDieBanks d s) := by
  unfold zeroDieBanks
  with_reducible repeat' (first
    | assumption | intro _ | apply ite_ok | apply forS_ok | apply zeroBank_ok | dsimp only | split)
theorem abortStress_ok {base : State} (d : Nat) {s : State} (hk : Kept base s) : Kept base (abortStress d s) := by
  unfold abortStress
  with_reducible repeat' (first
    | assumption | intro _ | apply ite_ok | apply record_ok | apply modStress_ok | apply zeroDieBanks_ok | dsimp only | split)
theorem abortSweep_ok {base : State} (d : Nat) {s : State} (hk : Kept base s) : Kept base (abortSweep d s) := by
  unfold abortSweep
  with_reducible repeat' (first
    | assumption | intro _ | apply ite_ok | apply modPwr_ok | dsimp only | split)
theorem abortSweeps_ok {base : State} {s : State} (hk : Kept base s) : Kept base (abortSweeps s) := by
  unfold abortSweeps
  with_reducible repeat' (first
    | assumption | intro _ | apply ite_ok | apply modPwr_ok | dsimp only | split)
theorem endAllLaunches_ok {base : State} {s : State} (hk : Kept base s) : Kept base (endAllLaunches s) := by
  unfold endAllLaunches
  with_reducible repeat' (first
    | assumption | intro _ | apply ite_ok | apply settleCores_ok | apply forS_ok | apply dropLaunch_ok | apply settleFrees_ok
    | apply completeNow_ok | dsimp only | split)
theorem faultReport_ok {base : State} (src : Nat) (cls : Nat) (unit : Nat) (core : Nat) (tens : List Nat) {s : State} (hk : Kept base s) :
    Kept base (faultReport src cls unit core tens s) := by
  unfold faultReport
  with_reducible repeat' (first
    | assumption | intro _ | apply ite_ok | apply frostFault_ok | apply modErr_ok | apply forS_ok | apply modTstep_ok
    | apply abortSweeps_ok | apply abortStress_ok | apply endAllLaunches_ok | apply dropFlight_ok | apply upMsg_ok | dsimp only | split)
theorem faultAll_ok {base : State} (src : Nat) (unit : Nat) (core : Nat) {s : State} (hk : Kept base s) : Kept base (faultAll src unit core
    s) := by
  unfold faultAll
  with_reducible repeat' (first
    | assumption | intro _ | apply ite_ok | apply faultReport_ok | dsimp only | split)
theorem faultOne_ok {base : State} (src : Nat) (t : Nat) {s : State} (hk : Kept base s) : Kept base (faultOne src t s) := by
  unfold faultOne
  with_reducible repeat' (first
    | assumption | intro _ | apply ite_ok | apply faultReport_ok | dsimp only | split)
theorem setRetire_ok {base : State} (cause : Nat) (unit : Nat) {s : State} (hk : Kept base s) : Kept base (setRetire cause unit s) := by
  unfold setRetire
  with_reducible repeat' (first
    | assumption | intro _ | apply ite_ok | apply modPln_ok | dsimp only | split)
theorem closePort_ok {base : State} (p : Nat) (reason : Nat) {s : State} (hk : Kept base s) : Kept base (closePort p reason s) := by
  unfold closePort
  with_reducible repeat' (first
    | assumption | intro _ | apply ite_ok | apply gateShutPort_ok | apply faultOne_ok | dsimp only | split)
theorem checkBuddy_ok {base : State} (t : Nat) {s : State} (hk : Kept base s) : Kept base (checkBuddy t s) := by
  unfold checkBuddy
  with_reducible repeat' (first
    | assumption | intro _ | apply ite_ok | apply graftNone_ok | apply rackFit_ok | apply modTenRack_ok | apply modRck_ok | dsimp only
    | split)
theorem checkBuddies_ok {base : State} {s : State} (hk : Kept base s) : Kept base (checkBuddies s) := by
  unfold checkBuddies
  with_reducible repeat' (first
    | assumption | intro _ | apply ite_ok | apply forS_ok | apply checkBuddy_ok | dsimp only | split)
theorem closePorts_ok {base : State} (b : Nat) (reason : Nat) (ps : List Nat) {s : State} (hk : Kept base s) : Kept base (closePorts b
    reason ps s) := by
  unfold closePorts
  with_reducible repeat' (first
    | assumption | intro _ | apply ite_ok | apply forS_ok | apply gateShutPort_ok | apply checkBuddies_ok | apply faultOne_ok
    | dsimp only | split)
theorem unbind_ok {base : State} (b : Nat) {s : State} (hk : Kept base s) : Kept base (unbind b s) := by
  unfold unbind
  with_reducible repeat' (first
    | assumption | intro _ | apply ite_ok | apply modRck_ok | apply closePorts_ok | apply modSec_ok | apply wiltLeave_ok
    | apply modPol_ok | apply modVnl_ok | dsimp only | split)
theorem stopTenant_ok {base : State} (t : Nat) {s : State} (hk : Kept base s) : Kept base (stopTenant t s) := by
  unfold stopTenant
  with_reducible repeat' (first
    | assumption | intro _ | apply ite_ok | apply settleCores_ok | apply forS_ok | apply dropLaunch_ok | apply zeroContext_ok
    | apply modSlot_ok | apply zeroSegment_ok | apply modTrig_ok | apply modCol_ok | apply modStp_ok | apply modTstep_ok | dsimp only
    | split)
theorem dropRacks_ok {base : State} (t : Nat) {s : State} (hk : Kept base s) : Kept base (dropRacks t s) := by
  unfold dropRacks
  with_reducible repeat' (first
    | assumption | intro _ | apply ite_ok | apply abandonRack_ok | apply modRck_ok | apply modTenRack_ok | dsimp only | split)
theorem flushLive_ok {base : State} (t : Nat) {s : State} (hk : Kept base s) : Kept base (flushLive t s) := by
  unfold flushLive
  with_reducible repeat' (first
    | assumption | intro _ | apply ite_ok | apply forS_ok | apply modLive_ok | apply freeTag_ok | apply writeCompl_ok | dsimp only
    | split)
theorem stopRings_ok {base : State} (t : Nat) {s : State} (hk : Kept base s) : Kept base (stopRings t s) := by
  unfold stopRings
  with_reducible repeat' (first
    | assumption | intro _ | apply ite_ok | apply modHif_ok | dsimp only | split)
theorem dropTrace_ok {base : State} (t : Nat) {s : State} (hk : Kept base s) : Kept base (dropTrace t s) := by
  unfold dropTrace
  with_reducible repeat' (first
    | assumption | intro _ | apply ite_ok | (apply modDbg_ok; rotate_left; with_unfolding_all rfl) | dsimp only | split)
theorem teardown_ok {base : State} (t : Nat) {s : State} (hk : Kept base s) : Kept base (teardown t s) := by
  unfold teardown
  with_reducible repeat' (first
    | assumption | intro _ | apply ite_ok | apply stopRings_ok | apply flushLive_ok | apply setTenRec_ok | apply dropTrace_ok
    | apply dropRacks_ok | apply stopTenant_ok | apply forS_ok | apply dropHnd_ok | apply csetReset_ok | apply unbind_ok
    | apply modSec_ok | dsimp only | split)
theorem tenantFree_ok {base : State} (t : Nat) {s : State} (hk : Kept base s) : Kept base (tenantFree t s) := by
  unfold tenantFree
  with_reducible repeat' (first
    | assumption | intro _ | apply ite_ok | apply forS_ok | apply modSlot_ok | apply csetReset_ok | apply modStp_ok | apply modRck_ok
    | apply retryTokens_ok | apply record_ok | apply modSec_ok | apply modHif_ok | dsimp only | split)
theorem flrTenants_ok {base : State} (f : Nat → Bool) {s : State} (hk : Kept base s) : Kept base (flrTenants f s) := by
  unfold flrTenants
  with_reducible repeat' (first
    | assumption | intro _ | apply ite_ok | apply forS_ok | apply teardown_ok | dsimp only | split)
theorem consumeFault_ok {base : State} (src : Nat) (cls : Nat) (unit : Nat) (core : Nat) (tens : List Nat) {s : State} (hk : Kept base s) :
    Kept base (consumeFault src cls unit core tens s) := by
  unfold consumeFault
  with_reducible repeat' (first
    | assumption | intro _ | apply ite_ok | apply forS_ok | apply localFail_ok | apply record_ok | apply postEvent_ok | apply upMsg_ok
    | apply modErr_ok | (apply modCel_ok; rotate_left; with_unfolding_all rfl)
    | (apply modCel_none; rotate_left; with_unfolding_all rfl) | apply teardown_ok | dsimp only | split)
theorem complexReset_ok {base : State} {s : State} (hk : Kept base s) : Kept base (complexReset s) := by
  unfold complexReset
  with_reducible repeat' (first
    | assumption | intro _ | apply ite_ok | apply forS_ok | apply zeroBank_ok | apply zeroContext_ok | apply modCore_ok
    | apply modSlot_ok | apply modPage_ok | apply modMem_ok | apply memWf_set | apply memWf_write | apply memWf_zero | apply memWf_copy
    | apply memWf_filter | refine Inv.mem (Kept.inv (a := base) ?_) | apply modErr_ok | apply modPln_ok | dsimp only | split)
theorem complexRelease_ok {base : State} {s : State} (hk : Kept base s) : Kept base (complexRelease s) := by
  unfold complexRelease
  with_reducible repeat' (first
    | assumption | intro _ | apply ite_ok | apply forS_ok | apply noteT_ok | apply zeroHandle_ok | apply pump_ok | apply modErr_ok
    | dsimp only | split)

end Sys2Proof.Machine
end

