-- ==== Sys2Proof/Laws/KeptCelOps.lean ====
section
/-!
SUPPORT. Laws/KeptCelOps.lean: every operation and command of Machine/CelOps.lean keeps `Kept`.
-/
namespace Sys2Proof.Machine

set_option linter.unusedTactic false
set_option linter.unreachableTactic false
set_option linter.unusedVariables false

theorem modPeer_ok {base : State} (key : Nat) (f : Peer → Peer) {s : State} (hk : Kept base s) : Kept base (modPeer key f s) := by
  unfold modPeer
  with_reducible repeat' (first
    | assumption | intro _ | apply ite_ok | apply modPol_ok | dsimp only | split)
theorem verdictNote_ok {base : State} (m : Nat) (old : Nat) (v : Nat) {s : State} (hk : Kept base s) : Kept base (verdictNote m old v s) :=
    by
  unfold verdictNote
  with_reducible repeat' (first
    | assumption | intro _ | apply ite_ok | apply record_ok | apply forS_ok | apply postEvent_ok | apply upEvent_ok | dsimp only | split)
theorem judgePeer_ok {base : State} (m : Nat) {s : State} (hk : Kept base s) : Kept base (judgePeer m s) := by
  unfold judgePeer
  with_reducible repeat' (first
    | assumption | intro _ | apply ite_ok | apply verdictNote_ok | apply modPeer_ok | dsimp only | split)
theorem slotHeard_ok {base : State} (b : Nat) (k : Nat) {s : State} (hk : Kept base s) : Kept base (slotHeard b k s) := by
  unfold slotHeard
  with_reducible repeat' (first
    | assumption | intro _ | apply ite_ok | apply modPol_ok | apply judgePeer_ok | apply modPeer_ok | dsimp only | split)
theorem slotGone_ok {base : State} (b : Nat) (k : Nat) {s : State} (hk : Kept base s) : Kept base (slotGone b k s) := by
  unfold slotGone
  with_reducible repeat' (first
    | assumption | intro _ | apply ite_ok | apply modPol_ok | apply judgePeer_ok | dsimp only | split)

end Sys2Proof.Machine
end

