-- ==== Sys2Proof/Laws/KeptTime.lean ====
section
/-!
SUPPORT. Laws/KeptTime.lean: every operation and command of Machine/Time.lean keeps `Kept`.
-/
namespace Sys2Proof.Machine

set_option linter.unusedTactic false
set_option linter.unreachableTactic false
set_option linter.unusedVariables false

theorem addTime_ok {base : State} (d : Int) {s : State} (hk : Kept base s) : Kept base (addTime d s) := by
  unfold addTime
  with_reducible repeat' (first
    | assumption | intro _ | apply ite_ok | apply modTim_ok | dsimp only | split)
theorem offsetApplied_ok {base : State} {s : State} (hk : Kept base s) : Kept base (offsetApplied s) := by
  unfold offsetApplied
  with_reducible repeat' (first
    | assumption | intro _ | apply ite_ok | apply modTim_ok | dsimp only | split)
theorem tickTime_ok {base : State} {s : State} (hk : Kept base s) : Kept base (tickTime s) := by
  unfold tickTime
  with_reducible repeat' (first
    | assumption | intro _ | apply ite_ok | apply addTime_ok | apply modTim_ok | apply offsetApplied_ok | apply tick_ok | dsimp only
    | split)
theorem execSlewDone_ok {base : State} {s : State} (hk : Kept base s) : KeptA base (execSlewDone s) := by
  unfold execSlewDone
  with_reducible repeat' (first
    | assumption | intro _ | apply ite_ok | apply iodClocked_ok | apply offsetApplied_ok | apply addTime_ok | apply modTim_ok
    | apply next_ok | apply iteA_ok | dsimp only | split)
theorem noteAll_ok {base : State} (code : Nat) (subject : Nat) (detail : Nat) {s : State} (hk : Kept base s) : Kept base (noteAll code
    subject detail s) := by
  unfold noteAll
  with_reducible repeat' (first
    | assumption | intro _ | apply ite_ok | apply record_ok | apply forS_ok | apply postEvent_ok | dsimp only | split)
theorem stepTime_ok {base : State} (ofs : Int) {s : State} (hk : Kept base s) : Kept base (stepTime ofs s) := by
  unfold stepTime
  with_reducible repeat' (first
    | assumption | intro _ | apply ite_ok | apply addTime_ok | apply modTim_ok | apply offsetApplied_ok | apply noteAll_ok | dsimp only
    | split)
theorem applyOffset_ok {base : State} (ofs : Int) {s : State} (hk : Kept base s) : Kept base (applyOffset ofs s) := by
  unfold applyOffset
  with_reducible repeat' (first
    | assumption | intro _ | apply ite_ok | apply modTim_ok | apply stepTime_ok | dsimp only | split)
theorem execTimNowNs_ok {base : State} (acc : Acc) {s : State} (hk : Kept base s) : KeptA base (execTimNowNs acc s) := by
  unfold execTimNowNs
  with_reducible repeat' (first
    | assumption | intro _ | apply ite_ok | apply emit_ok | apply modTim_ok | apply next_ok | apply iteA_ok | dsimp only | split)
theorem checkHold_ok {base : State} {s : State} (hk : Kept base s) : Kept base (checkHold s) := by
  unfold checkHold
  with_reducible repeat' (first
    | assumption | intro _ | apply ite_ok | apply noteAll_ok | apply modTim_ok | dsimp only | split)
theorem tpEdge_ok {base : State} (width : Nat) {s : State} (hk : Kept base s) : Kept base (tpEdge width s) := by
  unfold tpEdge
  with_reducible repeat' (first
    | assumption | intro _ | apply ite_ok | apply modTim_ok | apply checkHold_ok | dsimp only | split)
theorem execTpInEdge_ok {base : State} (width : Nat) {s : State} (hk : Kept base s) : KeptA base (execTpInEdge width s) := by
  unfold execTpInEdge
  with_reducible repeat' (first
    | assumption | intro _ | apply ite_ok | apply iodClocked_ok | apply tpEdge_ok | apply next_ok | apply iteA_ok | dsimp only | split)
theorem execTpinMiss_ok {base : State} {s : State} (hk : Kept base s) : KeptA base (execTpinMiss s) := by
  unfold execTpinMiss
  with_reducible repeat' (first
    | assumption | intro _ | apply ite_ok | apply iodClocked_ok | apply modTim_ok | apply checkHold_ok | apply record_ok | apply next_ok
    | apply iteA_ok | dsimp only | split)
theorem execTimNtpOk_ok {base : State} (acc : Acc) {s : State} (hk : Kept base s) : KeptA base (execTimNtpOk acc s) := by
  unfold execTimNtpOk
  with_reducible repeat' (first
    | assumption | intro _ | apply ite_ok | apply checkHold_ok | apply modTim_ok | apply next_ok | apply iteA_ok | dsimp only | split)
theorem execNtpTimeout_ok {base : State} {s : State} (hk : Kept base s) : KeptA base (execNtpTimeout s) := by
  unfold execNtpTimeout
  with_reducible repeat' (first
    | assumption | intro _ | apply ite_ok | apply iodClocked_ok | apply checkHold_ok | apply modTim_ok | apply next_ok | apply iteA_ok
    | dsimp only | split)
theorem execTpOutRise_ok {base : State} {s : State} (hk : Kept base s) : KeptA base (execTpOutRise s) := by
  unfold execTpOutRise
  with_reducible repeat' (first
    | assumption | intro _ | apply ite_ok | apply iodClocked_ok | apply modTim_ok | apply next_ok | apply iteA_ok | dsimp only | split)
theorem execTpOutFall_ok {base : State} {s : State} (hk : Kept base s) : KeptA base (execTpOutFall s) := by
  unfold execTpOutFall
  with_reducible repeat' (first
    | assumption | intro _ | apply ite_ok | apply iodClocked_ok | apply modTim_ok | apply next_ok | apply iteA_ok | dsimp only | split)
theorem execTimTxqPop_ok {base : State} (acc : Acc) {s : State} (hk : Kept base s) : KeptA base (execTimTxqPop acc s) := by
  unfold execTimTxqPop
  with_reducible repeat' (first
    | assumption | intro _ | apply ite_ok | apply modTim_ok | apply next_ok | apply iteA_ok | dsimp only | split)
theorem txStamp_ok {base : State} (id : Nat) {s : State} (hk : Kept base s) : Kept base (txStamp id s) := by
  unfold txStamp
  with_reducible repeat' (first
    | assumption | intro _ | apply ite_ok | apply modTim_ok | dsimp only | split)
theorem execTrigArm_ok {base : State} (tag : Nat) {s : State} (hk : Kept base s) : KeptA base (execTrigArm tag s) := by
  unfold execTrigArm
  with_reducible repeat' (first
    | assumption | intro _ | apply ite_ok | apply startDesc_ok | apply done_ok | apply modTrig_ok | apply next_ok | apply iteA_ok
    | dsimp only | split)
theorem execTrigCancel_ok {base : State} (tag : Nat) {s : State} (hk : Kept base s) : KeptA base (execTrigCancel tag s) := by
  unfold execTrigCancel
  with_reducible repeat' (first
    | assumption | intro _ | apply ite_ok | apply startDesc_ok | apply done_ok | apply wakeOpens_ok | apply modTrig_ok | apply next_ok
    | apply iteA_ok | dsimp only | split)
theorem ownerTrig_ok {base : State} (k : Nat) (late : Bool) {s : State} (hk : Kept base s) : Kept base (ownerTrig k late s) := by
  unfold ownerTrig
  with_reducible repeat' (first
    | assumption | intro _ | apply ite_ok | apply upMsg_ok | apply trigDebug_ok | dsimp only | split)
theorem fireTrig_ok {base : State} (k : Nat) {s : State} (hk : Kept base s) : Kept base (fireTrig k s) := by
  unfold fireTrig
  with_reducible repeat' (first
    | assumption | intro _ | apply ite_ok | apply modTrig_ok | apply ownerTrig_ok | apply rearm_ok | apply wakeOpens_ok
    | apply trigAct_ok | dsimp only | split)
theorem execTriggerFire_ok {base : State} (k : Nat) {s : State} (hk : Kept base s) : KeptA base (execTriggerFire k s) := by
  unfold execTriggerFire
  with_reducible repeat' (first
    | assumption | intro _ | apply ite_ok | apply iodClocked_ok | apply fireTrig_ok | apply next_ok | apply iteA_ok | dsimp only | split)

end Sys2Proof.Machine
end

