-- ==== Sys2Proof/Laws/KeptTables.lean ====
section
/-!
SUPPORT. Laws/KeptTables.lean: every operation and command of Machine/Tables.lean keeps `Kept`.
-/
namespace Sys2Proof.Machine

set_option linter.unusedTactic false
set_option linter.unreachableTactic false
set_option linter.unusedVariables false

theorem modDie_ok {base : State} (d : Nat) (f : DieP → DieP) {s : State} (hk : Kept base s) : Kept base (modDie d f s) := by
  unfold modDie
  with_reducible repeat' (first
    | assumption | intro _ | apply ite_ok | apply modPwr_ok | dsimp only | split)
theorem smFix_ok {base : State} {s : State} (hk : Kept base s) : Kept base (smFix s) := by
  unfold smFix
  with_reducible repeat' (first
    | assumption | intro _ | apply ite_ok | apply modPol_ok | dsimp only | split)
theorem setFormat_ok {base : State} (n : Nat) (b : List Byte) {s : State} (hk : Kept base s) : Kept base (setFormat n b s) := by
  unfold setFormat
  with_reducible repeat' (first
    | assumption | intro _ | apply ite_ok | apply csetAll_ok | apply modCor_ok | dsimp only | split)
theorem install_ok {base : State} (typ : Nat) (n : Nat) (src : Nat) (b : List Byte) {s : State} (hk : Kept base s) : Kept base (install typ
    n src b s) := by
  unfold install
  with_reducible repeat' (first
    | assumption | intro _ | apply ite_ok | apply modPol_ok | apply record_ok | apply setFormat_ok | apply modDie_ok | apply smFix_ok
    | dsimp only | split)
theorem unload_ok {base : State} (typ : Nat) (n : Nat) {s : State} (hk : Kept base s) : Kept base (unload typ n s) := by
  unfold unload
  with_reducible repeat' (first
    | assumption | intro _ | apply ite_ok | apply modPol_ok | apply csetReset_ok | dsimp only | split)

end Sys2Proof.Machine
end

