-- ==== Sys2Proof/Laws/KeptCommit.lean ====
section
/-!
SUPPORT. Laws/KeptCommit.lean: every operation and command of Machine/Commit.lean keeps `Kept`.
-/
namespace Sys2Proof.Machine

set_option linter.unusedTactic false
set_option linter.unreachableTactic false
set_option linter.unusedVariables false

theorem hifTenApply_ok {base : State} (t : Nat) (c : PendCommit) {s : State} (hk : Kept base s) : Kept base (hifTenApply t c s) := by
  unfold hifTenApply
  with_reducible repeat' (first
    | assumption | intro _ | apply ite_ok | apply csetAll_ok | apply modSec_ok | apply modHif_ok | apply setTenRec_ok
    | apply teardown_ok | apply forS_ok | dsimp only | split)
theorem rngApply_ok {base : State} (r : Nat) (c : PendCommit) {s : State} (hk : Kept base s) : Kept base (rngApply r c s) := by
  unfold rngApply
  with_reducible repeat' (first
    | assumption | intro _ | apply ite_ok | apply csetAll_ok | apply modRing_ok | apply settleRing_ok | dsimp only | split)
theorem memRsvApply_ok {base : State} (c : PendCommit) {s : State} (hk : Kept base s) : Kept base (memRsvApply c s) := by
  unfold memRsvApply
  with_reducible repeat' (first
    | assumption | intro _ | apply ite_ok | apply csetAll_ok | apply modPln_ok | dsimp only | split)
theorem pinPage_ok {base : State} (d : Nat) (h : Nat) (p : Nat) {s : State} (hk : Kept base s) : Kept base (pinPage d h p s) := by
  unfold pinPage
  with_reducible repeat' (first
    | assumption | intro _ | apply ite_ok | apply dropMove_ok | apply modPln_ok | apply modPage_ok | dsimp only | split)
theorem corSlotApply_ok {base : State} (o : Nat) (c : PendCommit) {s : State} (hk : Kept base s) : Kept base (corSlotApply o c s) := by
  unfold corSlotApply
  with_reducible repeat' (first
    | assumption | intro _ | apply ite_ok | apply releaseSlot_ok | apply csetAll_ok | apply forS_ok | apply pinPage_ok | apply modHnd_ok
    | apply modSlot_ok | dsimp only | split)
theorem corTerApply_ok {base : State} (o : Nat) (c : PendCommit) {s : State} (hk : Kept base s) : Kept base (corTerApply o c s) := by
  unfold corTerApply
  with_reducible repeat' (first
    | assumption | intro _ | apply ite_ok | apply zeroSegment_ok | apply csetAll_ok | dsimp only | split)
theorem fmtApply_ok {base : State} (n : Nat) (c : PendCommit) {s : State} (hk : Kept base s) : Kept base (fmtApply n c s) := by
  unfold fmtApply
  with_reducible repeat' (first
    | assumption | intro _ | apply ite_ok | apply csetAll_ok | apply modCor_ok | dsimp only | split)
theorem rckTenApply_ok {base : State} (t : Nat) (c : PendCommit) {s : State} (hk : Kept base s) : Kept base (rckTenApply t c s) := by
  unfold rckTenApply
  with_reducible repeat' (first
    | assumption | intro _ | apply ite_ok | apply csetAll_ok | apply checkBuddy_ok | apply setGraft_ok | apply modTenRack_ok
    | dsimp only | split)
theorem portOff_ok {base : State} (p : Nat) {s : State} (hk : Kept base s) : Kept base (portOff p s) := by
  unfold portOff
  with_reducible repeat' (first
    | assumption | intro _ | apply ite_ok | apply checkBuddies_ok | apply modPort_ok | apply closePort_ok | dsimp only | split)
theorem portCommit_ok {base : State} (p : Nat) (ws : List Word) {s : State} (hk : Kept base s) : Kept base (portCommit p ws s) := by
  unfold portCommit
  with_reducible repeat' (first
    | assumption | intro _ | apply ite_ok | apply csetAll_ok | apply modBoot_ok | apply modPort_ok | apply enterDark_ok
    | apply portOff_ok | dsimp only | split)
theorem freshShakes_ok {base : State} (b : Nat) {s : State} (hk : Kept base s) : Kept base (freshShakes b s) := by
  unfold freshShakes
  with_reducible repeat' (first
    | assumption | intro _ | apply ite_ok | apply forS_ok | apply hsHelloStart_ok | dsimp only | split)
theorem bindApply_ok {base : State} (b : Nat) (c : PendCommit) (rd : Option (List Byte)) {s : State} (hk : Kept base s) : Kept base
    (bindApply b c rd s) := by
  unfold bindApply
  with_reducible repeat' (first
    | assumption | intro _ | apply ite_ok | apply csetAll_ok | apply modVnl_ok | apply closePorts_ok | apply freshShakes_ok
    | apply updReady_ok | dsimp only | split)
theorem vnlPclApply_ok {base : State} (b : Nat) (c : PendCommit) (rd : Option (List Byte)) {s : State} (hk : Kept base s) : Kept base
    (vnlPclApply b c rd s) := by
  unfold vnlPclApply
  with_reducible repeat' (first
    | assumption | intro _ | apply ite_ok | apply retryTokens_ok | apply bindApply_ok | apply csetAll_ok | apply unbind_ok
    | apply forS_ok | apply hsHelloStart_ok | dsimp only | split)
theorem timApply_ok {base : State} (c : PendCommit) {s : State} (hk : Kept base s) : Kept base (timApply c s) := by
  unfold timApply
  with_reducible repeat' (first
    | assumption | intro _ | apply ite_ok | apply csetAll_ok | (apply modGrp_ok; rotate_left; with_unfolding_all rfl)
    | apply checkHold_ok | apply whenS_ok | apply record_ok | apply modTim_ok | apply applyOffset_ok | dsimp only | split)
theorem celTblApply_ok {base : State} (sel : Nat) (c : PendCommit) (rd : Option (List Byte)) {s : State} (hk : Kept base s) : Kept base
    (celTblApply sel c rd s) := by
  unfold celTblApply
  with_reducible repeat' (first
    | assumption | intro _ | apply ite_ok | apply unload_ok | apply install_ok | dsimp only | split)
theorem secKeyApply_ok {base : State} (k : Nat) (c : PendCommit) (rd : Option (List Byte)) {s : State} (hk : Kept base s) : Kept base
    (secKeyApply k c rd s) := by
  unfold secKeyApply
  with_reducible repeat' (first
    | assumption | intro _ | apply ite_ok | apply modSec_ok | apply record_ok | apply csetAll_ok | apply retryTokens_ok | dsimp only
    | split)
theorem dbgTenApply_ok {base : State} (t : Nat) (c : PendCommit) {s : State} (hk : Kept base s) : Kept base (dbgTenApply t c s) := by
  unfold dbgTenApply
  with_reducible repeat' (first
    | assumption | intro _ | apply ite_ok | (apply modDbg_ok; rotate_left; with_unfolding_all rfl) | apply csetAll_ok | dsimp only
    | split)
theorem commitEffect_ok {base : State} (c : PendCommit) (o : Nat) (rd : Option (List Byte)) {s : State} (hk : Kept base s) : Kept base
    (commitEffect c o rd s) := by
  unfold commitEffect
  with_reducible repeat' (first
    | assumption | intro _ | apply ite_ok | apply hifTenApply_ok | apply rngApply_ok | apply memRsvApply_ok | apply corSlotApply_ok
    | apply corTerApply_ok | apply fmtApply_ok | apply portCommit_ok | apply vnlPclApply_ok | apply rckTenApply_ok | apply timApply_ok
    | apply secKeyApply_ok | apply celTblApply_ok | apply dbgTenApply_ok | apply csetAll_ok | dsimp only | split)
theorem reportCommit_ok {base : State} (c : PendCommit) (res : Nat) (off : Nat) {s : State} (hk : Kept base s) : Kept base (reportCommit c
    res off s) := by
  unfold reportCommit
  with_reducible repeat' (first
    | assumption | intro _ | apply ite_ok | apply setCstat_ok | dsimp only | split)
theorem runCommit_ok {base : State} (c : PendCommit) (rd : Option (List Byte)) {s : State} (hk : Kept base s) : Kept base (runCommit c rd s)
    := by
  unfold runCommit
  with_reducible repeat' (first
    | assumption | intro _ | apply ite_ok | apply reportCommit_ok | apply commitEffect_ok | dsimp only | split)
theorem readCommit_ok {base : State} (c : PendCommit) (rd : Option (List Byte)) {s : State} (hk : Kept base s) : Kept base (readCommit c rd
    s).2 := by
  unfold readCommit
  with_reducible repeat' (first
    | assumption | intro _ | apply ite_ok | apply emit_ok | apply ite2_ok | dsimp only | split)
theorem applyCommit_ok {base : State} (i : Nat) (rd : Option (List Byte)) {s : State} (hk : Kept base s) : Kept base (applyCommit i rd s) :=
    by
  unfold applyCommit
  with_reducible repeat' (first
    | assumption | intro _ | apply ite_ok | apply readCommit_ok | apply runCommit_ok
    | (apply modGrp_ok; rotate_left; with_unfolding_all rfl) | dsimp only | split)
theorem flushFmt_ok {base : State} (n : Nat) {s : State} (hk : Kept base s) : Kept base (flushFmt n s) := by
  unfold flushFmt
  with_reducible repeat' (first
    | assumption | intro _ | apply ite_ok | apply forS_ok | apply runCommit_ok | (apply modGrp_ok; rotate_left; with_unfolding_all rfl)
    | dsimp only | split)
theorem execCommitApply_ok {base : State} (i : Nat) (rd : Option (List Byte)) {s : State} (hk : Kept base s) : KeptA base (execCommitApply i
    rd s) := by
  unfold execCommitApply
  with_reducible repeat' (first
    | assumption | intro _ | apply ite_ok | apply applyCommit_ok | apply next_ok | apply iteA_ok | dsimp only | split)

end Sys2Proof.Machine
end

