-- ==== Sys2Proof/Laws/KeptErr.lean ====
section
/-!
SUPPORT. Laws/KeptErr.lean: every operation and command of Machine/Err.lean keeps `Kept`.
-/
namespace Sys2Proof.Machine

set_option linter.unusedTactic false
set_option linter.unreachableTactic false
set_option linter.unusedVariables false

theorem poisonAt_ok {base : State} (h : Nat) (off : Nat) {s : State} (hk : Kept base s) : Kept base (poisonAt h off s) := by
  unfold poisonAt
  with_reducible repeat' (first
    | assumption | intro _ | apply ite_ok | apply modPage_ok | dsimp only | split)
theorem countUe_ok {base : State} (u : Nat) {s : State} (hk : Kept base s) : Kept base (countUe u s) := by
  unfold countUe
  with_reducible repeat' (first
    | assumption | intro _ | apply ite_ok | apply modErr_ok | dsimp only | split)
theorem spoilLine_ok {base : State} (h : Nat) (off : Nat) {s : State} (hk : Kept base s) : Kept base (spoilLine h off s) := by
  unfold spoilLine
  with_reducible repeat' (first
    | assumption | intro _ | apply ite_ok | apply modPln_ok | dsimp only | split)
theorem unitFault_ok {base : State} (src : Nat) (unit : Nat) (core : Nat) (t : Nat) (h : Nat) (off : Nat) {s : State} (hk : Kept base s) :
    Kept base (unitFault src unit core t h off s) := by
  unfold unitFault
  with_reducible repeat' (first
    | assumption | intro _ | apply ite_ok | apply countUe_ok | apply poisonAt_ok | apply spoilLine_ok | apply faultReport_ok
    | dsimp only | split)
theorem execFaultReport_ok {base : State} (src : Nat) (unit : Nat) (core : Nat) (t : Nat) (h : Nat) (off : Nat) {s : State} (hk : Kept base
    s) : KeptA base (execFaultReport src unit core t h off s) := by
  unfold execFaultReport
  with_reducible repeat' (first
    | assumption | intro _ | apply ite_ok | apply iodClocked_ok | apply unitFault_ok | apply next_ok | apply iteA_ok | dsimp only
    | split)
theorem actFault_ok {base : State} {s : State} (hk : Kept base s) : Kept base (actFault s) := by
  unfold actFault
  with_reducible repeat' (first
    | assumption | intro _ | apply ite_ok | apply consumeFault_ok | (apply modCel_ok; rotate_left; with_unfolding_all rfl)
    | (apply modCel_none; rotate_left; with_unfolding_all rfl) | dsimp only | split)
theorem execFaultMessage_ok {base : State} {s : State} (hk : Kept base s) : KeptA base (execFaultMessage s) := by
  unfold execFaultMessage
  with_reducible repeat' (first
    | assumption | intro _ | apply ite_ok | apply clocked_ok | apply actFault_ok | apply next_ok | apply iteA_ok | dsimp only | split)
theorem execComplexResetRelease_ok {base : State} {s : State} (hk : Kept base s) : KeptA base (execComplexResetRelease s) := by
  unfold execComplexResetRelease
  with_reducible repeat' (first
    | assumption | intro _ | apply ite_ok | apply clocked_ok | apply complexRelease_ok | apply next_ok | apply iteA_ok | dsimp only
    | split)
theorem lateRelease_ok {base : State} {s : State} (hk : Kept base s) : Kept base (lateRelease s) := by
  unfold lateRelease
  with_reducible repeat' (first
    | assumption | intro _ | apply ite_ok | apply complexRelease_ok | dsimp only | split)
theorem corrected_ok {base : State} (u : Nat) {s : State} (hk : Kept base s) : Kept base (corrected u s) := by
  unfold corrected
  with_reducible repeat' (first
    | assumption | intro _ | apply ite_ok | apply modErr_ok | apply record_ok | dsimp only | split)
theorem execCorrectedError_ok {base : State} (u : Nat) {s : State} (hk : Kept base s) : KeptA base (execCorrectedError u s) := by
  unfold execCorrectedError
  with_reducible repeat' (first
    | assumption | intro _ | apply ite_ok | apply iodClocked_ok | apply corrected_ok | apply next_ok | apply iteA_ok | dsimp only
    | split)
theorem execErrClr_ok {base : State} (acc : Acc) {s : State} (hk : Kept base s) : KeptA base (execErrClr acc s) := by
  unfold execErrClr
  with_reducible repeat' (first
    | assumption | intro _ | apply ite_ok | apply modErr_ok | apply next_ok | apply iteA_ok | dsimp only | split)
theorem scrubUe_ok {base : State} (h : Nat) (p : Nat) (b : Nat) {s : State} (hk : Kept base s) : Kept base (scrubUe h p b s) := by
  unfold scrubUe
  with_reducible repeat' (first
    | assumption | intro _ | apply ite_ok | apply noteT_ok | apply countUe_ok | apply modPage_ok | dsimp only | split)
theorem execScrubUe_ok {base : State} (h : Nat) (p : Nat) (b : Nat) {s : State} (hk : Kept base s) : KeptA base (execScrubUe h p b s) := by
  unfold execScrubUe
  with_reducible repeat' (first
    | assumption | intro _ | apply ite_ok | apply iodClocked_ok | apply scrubUe_ok | apply next_ok | apply iteA_ok | dsimp only | split)
theorem execScrubPassDone_ok {base : State} (tier : Nat) {s : State} (hk : Kept base s) : KeptA base (execScrubPassDone tier s) := by
  unfold execScrubPassDone
  with_reducible repeat' (first
    | assumption | intro _ | apply ite_ok | apply iodClocked_ok | apply modErr_ok | apply next_ok | apply iteA_ok | dsimp only | split)
theorem saveDie_ok {base : State} (d : Nat) {s : State} (hk : Kept base s) : Kept base (saveDie d s) := by
  unfold saveDie
  with_reducible repeat' (first
    | assumption | intro _ | apply ite_ok | apply forS_ok | apply swapOut_ok | dsimp only | split)
theorem startStress_ok {base : State} (d : Nat) {s : State} (hk : Kept base s) : Kept base (startStress d s) := by
  unfold startStress
  with_reducible repeat' (first
    | assumption | intro _ | apply ite_ok | apply modStress_ok | apply saveDie_ok | dsimp only | split)
theorem startSweep_ok {base : State} (d : Nat) {s : State} (hk : Kept base s) : Kept base (startSweep d s) := by
  unfold startSweep
  with_reducible repeat' (first
    | assumption | intro _ | apply ite_ok | apply modDie_ok | apply saveDie_ok | dsimp only | split)
theorem execStressHeatDone_ok {base : State} (d : Nat) {s : State} (hk : Kept base s) : KeptA base (execStressHeatDone d s) := by
  unfold execStressHeatDone
  with_reducible repeat' (first
    | assumption | intro _ | apply ite_ok | apply iodClocked_ok | apply modStress_ok | apply next_ok | apply iteA_ok | dsimp only
    | split)
theorem fenceCore_ok {base : State} (c : Nat) {s : State} (hk : Kept base s) : Kept base (fenceCore c s) := by
  unfold fenceCore
  with_reducible repeat' (first
    | assumption | intro _ | apply ite_ok | apply forS_ok | apply releaseSlot_ok | apply modBoot_ok | apply modCore_ok | apply record_ok
    | apply noteT_ok | dsimp only | split)
theorem passFails_ok {base : State} (n : Nat) {s : State} (hk : Kept base s) : Kept base (passFails n s) := by
  unfold passFails
  with_reducible repeat' (first
    | assumption | intro _ | apply ite_ok | apply forS_ok | apply record_ok | apply modErr_ok | dsimp only | split)
theorem passDone_ok {base : State} (d : Nat) (corner : Nat) (again : Nat) {s : State} (hk : Kept base s) : Kept base (passDone d corner
    again s) := by
  unfold passDone
  with_reducible repeat' (first
    | assumption | intro _ | apply ite_ok | apply forS_ok | apply fenceCore_ok | apply passFails_ok | apply zeroDieBanks_ok
    | apply record_ok | apply modStress_ok | dsimp only | split)
theorem execStressPassDone_ok {base : State} (d : Nat) (corner : Nat) (again : Nat) {s : State} (hk : Kept base s) : KeptA base
    (execStressPassDone d corner again s) := by
  unfold execStressPassDone
  with_reducible repeat' (first
    | assumption | intro _ | apply ite_ok | apply iodClocked_ok | apply passDone_ok | apply next_ok | apply iteA_ok | dsimp only | split)
theorem execMarginSweepDone_ok {base : State} (d : Nat) (vfail : List Nat) {s : State} (hk : Kept base s) : KeptA base (execMarginSweepDone
    d vfail s) := by
  unfold execMarginSweepDone
  with_reducible repeat' (first
    | assumption | intro _ | apply ite_ok | apply iodClocked_ok | apply modDie_ok | apply zeroDieBanks_ok | apply next_ok
    | apply iteA_ok | dsimp only | split)

end Sys2Proof.Machine
end

