-- ==== Sys2Proof/Laws/KeptPower.lean ====
section
/-!
SUPPORT. Laws/KeptPower.lean: every operation and command of Machine/Power.lean keeps `Kept`.
-/
namespace Sys2Proof.Machine

set_option linter.unusedTactic false
set_option linter.unreachableTactic false
set_option linter.unusedVariables false

theorem setPwr_ok {base : State} (st : PowerSt) {s : State} (hk : Kept base s) : Kept base (setPwr st s) := by
  unfold setPwr
  with_reducible repeat' (first
    | assumption | intro _ | apply ite_ok | apply noteAll_ok | apply modPwr_ok | dsimp only | split)
theorem capAction_ok {base : State} (c : Option Nat) {s : State} (hk : Kept base s) : Kept base (capAction c s) := by
  unfold capAction
  with_reducible repeat' (first
    | assumption | intro _ | apply ite_ok | apply modPwr_ok | apply setPwr_ok | dsimp only | split)
theorem reqAnswer_ok {base : State} (r : Nat) {s : State} (hk : Kept base s) : Kept base (reqAnswer r s) := by
  unfold reqAnswer
  with_reducible repeat' (first
    | assumption | intro _ | apply ite_ok | apply modPwr_ok | dsimp only | split)
theorem powerReq_ok {base : State} (req : Nat) {s : State} (hk : Kept base s) : Kept base (powerReq req s) := by
  unfold powerReq
  with_reducible repeat' (first
    | assumption | intro _ | apply ite_ok | apply reqAnswer_ok | apply modPwr_ok | dsimp only | split)
theorem execPwrReqAwake_ok {base : State} (acc : Acc) {s : State} (hk : Kept base s) : KeptA base (execPwrReqAwake acc s) := by
  unfold execPwrReqAwake
  with_reducible repeat' (first
    | assumption | intro _ | apply ite_ok | apply powerReq_ok | apply next_ok | apply iteA_ok | dsimp only | split)
theorem execPwrReqDormant_ok {base : State} (acc : Acc) {s : State} (hk : Kept base s) : KeptA base (execPwrReqDormant acc s) := by
  unfold execPwrReqDormant
  with_reducible repeat' (first
    | assumption | intro _ | apply ite_ok | apply powerReq_ok | apply next_ok | apply iteA_ok | dsimp only | split)
theorem execPwrReqStandby_ok {base : State} (acc : Acc) {s : State} (hk : Kept base s) : KeptA base (execPwrReqStandby acc s) := by
  unfold execPwrReqStandby
  with_reducible repeat' (first
    | assumption | intro _ | apply ite_ok | apply powerReq_ok | apply next_ok | apply iteA_ok | dsimp only | split)
theorem reqOk_ok {base : State} {s : State} (hk : Kept base s) : Kept base (reqOk s) := by
  unfold reqOk
  with_reducible repeat' (first
    | assumption | intro _ | apply ite_ok | apply reqAnswer_ok | dsimp only | split)
theorem dormantIn_ok {base : State} {s : State} (hk : Kept base s) : Kept base (dormantIn s) := by
  unfold dormantIn
  with_reducible repeat' (first
    | assumption | intro _ | apply ite_ok | apply forS_ok | apply saveDie_ok | apply reqOk_ok | apply setPwr_ok | apply modPwr_ok
    | dsimp only | split)
theorem execDormantEntryDone_ok {base : State} {s : State} (hk : Kept base s) : KeptA base (execDormantEntryDone s) := by
  unfold execDormantEntryDone
  with_reducible repeat' (first
    | assumption | intro _ | apply ite_ok | apply clocked_ok | apply dormantIn_ok | apply next_ok | apply iteA_ok | dsimp only | split)
theorem dormantOut_ok {base : State} {s : State} (hk : Kept base s) : Kept base (dormantOut s) := by
  unfold dormantOut
  with_reducible repeat' (first
    | assumption | intro _ | apply ite_ok | apply setPwr_ok | apply modPwr_ok | apply pump_ok | apply reqOk_ok | apply upEvent_ok
    | dsimp only | split)
theorem execDormantExitDone_ok {base : State} {s : State} (hk : Kept base s) : KeptA base (execDormantExitDone s) := by
  unfold execDormantExitDone
  with_reducible repeat' (first
    | assumption | intro _ | apply ite_ok | apply clocked_ok | apply dormantOut_ok | apply next_ok | apply iteA_ok | dsimp only | split)
theorem dropVolt_ok {base : State} (d : Nat) {s : State} (hk : Kept base s) : Kept base (dropVolt d s) := by
  unfold dropVolt
  with_reducible repeat' (first
    | assumption | intro _ | apply ite_ok | apply modDie_ok | dsimp only | split)
theorem cclkStep_ok {base : State} (d : Nat) {s : State} (hk : Kept base s) : Kept base (cclkStep d s) := by
  unfold cclkStep
  with_reducible repeat' (first
    | assumption | intro _ | apply ite_ok | apply modCor_ok | apply dropVolt_ok | dsimp only | split)
theorem execCclkStep_ok {base : State} (d : Nat) {s : State} (hk : Kept base s) : KeptA base (execCclkStep d s) := by
  unfold execCclkStep
  with_reducible repeat' (first
    | assumption | intro _ | apply ite_ok | apply iodClocked_ok | apply cclkStep_ok | apply next_ok | apply iteA_ok | dsimp only | split)
theorem clampOn_ok {base : State} (transient : Bool) {s : State} (hk : Kept base s) : Kept base (clampOn transient s) := by
  unfold clampOn
  with_reducible repeat' (first
    | assumption | intro _ | apply ite_ok | apply upEvent_ok | apply modPwr_ok | apply modCor_ok | apply abortSweeps_ok | apply forS_ok
    | apply abortStress_ok | dsimp only | split)
theorem execClampEngage_ok {base : State} (transient : Bool) {s : State} (hk : Kept base s) : KeptA base (execClampEngage transient s) := by
  unfold execClampEngage
  with_reducible repeat' (first
    | assumption | intro _ | apply ite_ok | apply clampOn_ok | apply next_ok | apply iteA_ok | dsimp only | split)
theorem clampDown_ok {base : State} {s : State} (hk : Kept base s) : Kept base (clampDown s) := by
  unfold clampDown
  with_reducible repeat' (first
    | assumption | intro _ | apply ite_ok | apply forS_ok | apply dropVolt_ok | apply modCor_ok | apply modPwr_ok | dsimp only | split)
theorem execClampStep_ok {base : State} {s : State} (hk : Kept base s) : KeptA base (execClampStep s) := by
  unfold execClampStep
  with_reducible repeat' (first
    | assumption | intro _ | apply ite_ok | apply clampDown_ok | apply next_ok | apply iteA_ok | dsimp only | split)
theorem execClampRelease_ok {base : State} {s : State} (hk : Kept base s) : KeptA base (execClampRelease s) := by
  unfold execClampRelease
  with_reducible repeat' (first
    | assumption | intro _ | apply ite_ok | apply record_ok | apply modPwr_ok | apply next_ok | apply iteA_ok | dsimp only | split)
theorem execPacingWindow_ok {base : State} (opens : Bool) {s : State} (hk : Kept base s) : KeptA base (execPacingWindow opens s) := by
  unfold execPacingWindow
  with_reducible repeat' (first
    | assumption | intro _ | apply ite_ok | apply iodClocked_ok | apply modPwr_ok | apply next_ok | apply iteA_ok | dsimp only | split)
theorem capUnmet_ok {base : State} {s : State} (hk : Kept base s) : Kept base (capUnmet s) := by
  unfold capUnmet
  with_reducible repeat' (first
    | assumption | intro _ | apply ite_ok | apply upEvent_ok | apply record_ok | apply modPwr_ok | dsimp only | split)
theorem execCapUnmetTimeout_ok {base : State} {s : State} (hk : Kept base s) : KeptA base (execCapUnmetTimeout s) := by
  unfold execCapUnmetTimeout
  with_reducible repeat' (first
    | assumption | intro _ | apply ite_ok | apply clocked_ok | apply capUnmet_ok | apply next_ok | apply iteA_ok | dsimp only | split)
theorem dieTrip_ok {base : State} (d : Nat) {s : State} (hk : Kept base s) : Kept base (dieTrip d s) := by
  unfold dieTrip
  with_reducible repeat' (first
    | assumption | intro _ | apply ite_ok | apply faultAll_ok | apply modDie_ok | dsimp only | split)
theorem dieTemp_ok {base : State} (d : Nat) (t : Nat) {s : State} (hk : Kept base s) : Kept base (dieTemp d t s) := by
  unfold dieTemp
  with_reducible repeat' (first
    | assumption | intro _ | apply ite_ok | apply modDie_ok | apply upEvent_ok | apply record_ok | apply dieTrip_ok | apply pump_ok
    | dsimp only | split)
theorem execDieTempSample_ok {base : State} (d : Nat) (t : Nat) {s : State} (hk : Kept base s) : KeptA base (execDieTempSample d t s) := by
  unfold execDieTempSample
  with_reducible repeat' (first
    | assumption | intro _ | apply ite_ok | apply iodClocked_ok | apply dieTemp_ok | apply next_ok | apply iteA_ok | dsimp only | split)
theorem vintage_ok {base : State} (d : Nat) (margin : BitVec 16) {s : State} (hk : Kept base s) : Kept base (vintage d margin s) := by
  unfold vintage
  with_reducible repeat' (first
    | assumption | intro _ | apply ite_ok | apply modDie_ok | apply wiltJoin_ok | apply upEvent_ok | apply wiltLeave_ok | dsimp only
    | split)
theorem execVintageRead_ok {base : State} (margins : List (BitVec 16)) {s : State} (hk : Kept base s) : KeptA base (execVintageRead margins
    s) := by
  unfold execVintageRead
  with_reducible repeat' (first
    | assumption | intro _ | apply ite_ok | apply clocked_ok | apply forS_ok | apply vintage_ok | apply next_ok | apply iteA_ok
    | dsimp only | split)
theorem execReplanTimer_ok {base : State} {s : State} (hk : Kept base s) : KeptA base (execReplanTimer s) := by
  unfold execReplanTimer
  with_reducible repeat' (first
    | assumption | intro _ | apply ite_ok | apply clocked_ok | apply upEvent_ok | apply next_ok | apply iteA_ok | dsimp only | split)
theorem execIdleTimer_ok {base : State} {s : State} (hk : Kept base s) : KeptA base (execIdleTimer s) := by
  unfold execIdleTimer
  with_reducible repeat' (first
    | assumption | intro _ | apply ite_ok | apply clocked_ok | apply upEvent_ok | apply modPwr_ok | apply next_ok | apply iteA_ok
    | dsimp only | split)

end Sys2Proof.Machine
end

