-- ==== Sys2Proof/Laws/KeptCellarer.lean ====
section
/-!
SUPPORT. Laws/KeptCellarer.lean: every operation and command of Machine/Cellarer.lean keeps `Kept`.
-/
namespace Sys2Proof.Machine

set_option linter.unusedTactic false
set_option linter.unreachableTactic false
set_option linter.unusedVariables false

theorem setDie_ok {base : State} (d : Nat) (st : Nat) {s : State} (hk : Kept base s) : Kept base (setDie d st s) := by
  unfold setDie
  with_reducible repeat' (first
    | assumption | intro _ | apply ite_ok | (apply modCel_ok; rotate_left; with_unfolding_all rfl)
    | (apply modCel_none; rotate_left; with_unfolding_all rfl) | dsimp only | split)
theorem saveStale_ok {base : State} {s : State} (hk : Kept base s) : Kept base (saveStale s) := by
  unfold saveStale
  refine modCel_to _ (fun x hx => ?_) hk
  cases hx
  exact hk.2.4
theorem storeImage_ok {base : State} (outs : List COut) {s : State} (hk : Kept base s) : Kept base (storeImage outs s) := by
  unfold storeImage
  with_reducible repeat' (first
    | assumption | intro _ | apply ite_ok | apply modMram_ok | dsimp only | split)
theorem allHeard_ok {base : State} {s : State} (hk : Kept base s) : Kept base (allHeard s) := by
  unfold allHeard
  with_reducible repeat' (first
    | assumption | intro _ | apply ite_ok | (apply modCel_ok; rotate_left; with_unfolding_all rfl)
    | (apply modCel_none; rotate_left; with_unfolding_all rfl) | dsimp only | split)
theorem moveOwn_ok {base : State} (new : Nat) {s : State} (hk : Kept base s) : Kept base (moveOwn new s) := by
  unfold moveOwn
  with_reducible repeat' (first
    | assumption | intro _ | apply ite_ok | apply allHeard_ok | apply setDie_ok | (apply modCel_ok; rotate_left; with_unfolding_all rfl)
    | (apply modCel_none; rotate_left; with_unfolding_all rfl) | dsimp only | split)
theorem hotTakeover_ok {base : State} (new : Nat) {s : State} (hk : Kept base s) : Kept base (hotTakeover new s) := by
  unfold hotTakeover
  with_reducible repeat' (first
    | assumption | intro _ | apply ite_ok | apply setDie_ok | (apply modCel_ok; rotate_left; with_unfolding_all rfl)
    | (apply modCel_none; rotate_left; with_unfolding_all rfl) | apply record_ok | apply moveOwn_ok | apply modTim_ok | dsimp only
    | split)
theorem countReported_ok {base : State} {s : State} (hk : Kept base s) : Kept base (countReported s) := by
  unfold countReported
  with_reducible repeat' (first
    | assumption | intro _ | apply ite_ok | apply modStp_ok | dsimp only | split)
theorem keysOf_ok {base : State} (x : Sec) {s : State} (hk : Kept base s) : Kept base (keysOf x s) := by
  unfold keysOf
  with_reducible repeat' (first
    | assumption | intro _ | apply ite_ok | apply modSec_ok | dsimp only | split)
theorem head_lift (f h : Nat) (H : f ≤ h) : f ≤ (h / 2 ^ 40 + 1) * 2 ^ 40 := by omega
theorem coldTakeover_ok {base : State} (new : Nat) {s : State} (hk : Kept base s) : Kept base (coldTakeover new s) := by
  unfold coldTakeover
  have h1 := setDie_ok (1 - new) 6 hk
  generalize setDie (1 - new) 6 s = s1 at h1 ⊢
  have h2 : Kept base (match s.cel.stale with
    | none => s1
    | some x =>
      modVnl (fun v => { v with memoLinks := x.mram.memoLinks, memoRoutes := x.mram.memoRoutes }) (keysOf x.sec
        (modBoot (bootKept x.mram)
          (modPwr (fun p => { p with fwCap := x.fwCap, interval := x.interval })
            { s1 with book := x.book, regs := regsKept x.mram s1.regs, pol := { x.pol with retained := x.mram.retained }, mram := x.mram,
                      cel := { s1.cel with
                        cycle := max (((newestImage x.mram).map Image.cycle).getD 0) (s1.cel.lastApplied.getD 0) } })))) := by
    split
    · exact h1
    · next x hx =>
      exact modVnl_ok _ (keysOf_ok _ (modBoot_ok _ (modPwr_ok _
        ⟨⟨h1.1.1, h1.1.2, h1.1.3⟩, ⟨h1.2.1, h1.2.2, h1.2.3, hk.2.5 x hx, h1.2.5⟩⟩)))
  apply record_ok
  apply record_ok
  apply moveOwn_ok
  apply modTim_ok
  apply countReported_ok
  refine modCel_none _ ?_ rfl
  exact modBook_to _ (head_lift _ _ h2.2.4) h2
theorem faultRelease_ok {base : State} {s : State} (hk : Kept base s) : Kept base (faultRelease s) := by
  unfold faultRelease
  with_reducible repeat' (first
    | assumption | intro _ | apply ite_ok | apply hotTakeover_ok | (apply modCel_ok; rotate_left; with_unfolding_all rfl)
    | (apply modCel_none; rotate_left; with_unfolding_all rfl) | apply setDie_ok | dsimp only | split)
theorem restartStandby_ok {base : State} {s : State} (hk : Kept base s) : Kept base (restartStandby s) := by
  unfold restartStandby
  with_reducible repeat' (first
    | assumption | intro _ | apply ite_ok | apply saveStale_ok | (apply modCel_ok; rotate_left; with_unfolding_all rfl)
    | (apply modCel_none; rotate_left; with_unfolding_all rfl) | apply setDie_ok | dsimp only | split)
theorem standbyLost_ok {base : State} {s : State} (hk : Kept base s) : Kept base (standbyLost s) := by
  unfold standbyLost
  with_reducible repeat' (first
    | assumption | intro _ | apply ite_ok | apply saveStale_ok | apply upEvent_ok | apply record_ok
    | (apply modCel_ok; rotate_left; with_unfolding_all rfl) | (apply modCel_none; rotate_left; with_unfolding_all rfl)
    | apply setDie_ok | dsimp only | split)
theorem actFaults_ok {base : State} {s : State} (hk : Kept base s) : Kept base (actFaults s) := by
  unfold actFaults
  with_reducible repeat' (first
    | assumption | intro _ | apply ite_ok | apply forS_ok | apply actFault_ok | dsimp only | split)
theorem freezeCycle_ok {base : State} (fw : List FwOut) {s : State} (hk : Kept base s) : Kept base (freezeCycle fw s) := by
  unfold freezeCycle
  with_reducible repeat' (first
    | assumption | intro _ | apply ite_ok | apply actFaults_ok | apply modVnl_ok
    | (apply modCel_ok; rotate_left; with_unfolding_all rfl) | (apply modCel_none; rotate_left; with_unfolding_all rfl) | apply foldl_ok
    | apply foldl2_ok | apply ite2_ok | dsimp only | split)
theorem execCycleFreeze_ok {base : State} (done : Bool) (power : Nat) (energy : Nat) (dv : Nat) (fw : List FwOut) {s : State} (hk : Kept
    base s) : KeptA base (execCycleFreeze done power energy dv fw s) := by
  unfold execCycleFreeze
  with_reducible repeat' (first
    | assumption | intro _ | apply ite_ok | apply clocked_ok | apply modPwr_ok | apply freezeCycle_ok | apply next_ok | apply iteA_ok
    | dsimp only | split)
theorem execImageReceive_ok {base : State} (ok : Bool) {s : State} (hk : Kept base s) : KeptA base (execImageReceive ok s) := by
  unfold execImageReceive
  with_reducible repeat' (first
    | assumption | intro _ | apply ite_ok | apply clocked_ok | (apply modCel_ok; rotate_left; with_unfolding_all rfl)
    | (apply modCel_none; rotate_left; with_unfolding_all rfl) | apply next_ok | apply iteA_ok | dsimp only | split)
theorem execImageAck_ok {base : State} {s : State} (hk : Kept base s) : KeptA base (execImageAck s) := by
  unfold execImageAck
  with_reducible repeat' (first
    | assumption | intro _ | apply ite_ok | apply clocked_ok | (apply modCel_ok; rotate_left; with_unfolding_all rfl)
    | (apply modCel_none; rotate_left; with_unfolding_all rfl) | apply next_ok | apply iteA_ok | dsimp only | split)
theorem sendFrame_ok {base : State} (kind : Nat) (e : Nat) (body : List Byte) {s : State} (hk : Kept base s) : Kept base (sendFrame kind e
    body s) := by
  unfold sendFrame
  with_reducible repeat' (first
    | assumption | intro _ | apply ite_ok | apply emit_ok | apply modPol_ok | dsimp only | split)
theorem emitFrame_ok {base : State} (kind : Nat) (dest : Option Nat) (stamp : Option Nat) (body : List Byte) {s : State} (hk : Kept base s)
    : Kept base (emitFrame kind dest stamp body s) := by
  unfold emitFrame
  with_reducible repeat' (first
    | assumption | intro _ | apply ite_ok | apply forS_ok | apply sendFrame_ok | apply txStamp_ok | dsimp only | split)
theorem failPolicy_ok {base : State} (t : Nat) {s : State} (hk : Kept base s) : Kept base (failPolicy t s) := by
  unfold failPolicy
  with_reducible repeat' (first
    | assumption | intro _ | apply ite_ok | apply failStep_ok | dsimp only | split)
theorem fwTable_ok {base : State} (typ : Nat) (num : Nat) (image : List Byte) {s0 : State} (hk : Kept base s0) : Kept base (fwTable typ num
    image s0) := by
  unfold fwTable
  with_reducible repeat' (first
    | assumption | intro _ | apply ite_ok | apply flushFmt_ok | (apply modCel_ok; rotate_left; with_unfolding_all rfl)
    | (apply modCel_none; rotate_left; with_unfolding_all rfl) | apply install_ok | dsimp only | split)
theorem smPower_ok {base : State} (req : Nat) (det : Nat) {s : State} (hk : Kept base s) : Kept base (smPower req det s) := by
  unfold smPower
  with_reducible repeat' (first
    | assumption | intro _ | apply ite_ok | apply reqAnswer_ok | apply record_ok | apply powerReq_ok | dsimp only | split)
theorem closeOutDone_ok {base : State} {s : State} (hk : Kept base s) : Kept base (closeOutDone s) := by
  unfold closeOutDone
  with_reducible repeat' (first
    | assumption | intro _ | apply ite_ok | apply setPwr_ok | apply modPwr_ok | dsimp only | split)
theorem smSet_ok {base : State} (typ : Nat) (inst : Nat) (st : Nat) {s : State} (hk : Kept base s) : Kept base (smSet typ inst st s) := by
  unfold smSet
  with_reducible repeat' (first
    | assumption | intro _ | apply ite_ok | apply modPol_ok | dsimp only | split)
theorem applyOut_ok {base : State} (o : COut) {s : State} (hk : Kept base s) : Kept base (applyOut o s) := by
  unfold applyOut
  with_reducible repeat' (first
    | assumption | intro _ | apply ite_ok | apply modDie_ok | apply smPower_ok | apply capAction_ok | apply modPwr_ok
    | apply closeOutDone_ok | apply emitFrame_ok | apply emit_ok | apply txStamp_ok | apply complexReset_ok | apply fwTable_ok
    | apply smSet_ok | apply modPol_ok | apply addRec_ok | apply modTrig_ok | (apply modCel_ok; rotate_left; with_unfolding_all rfl)
    | (apply modCel_none; rotate_left; with_unfolding_all rfl) | apply restartStandby_ok | apply failPolicy_ok | apply modStep_ok
    | apply foldl_ok | apply foldl2_ok | apply ite2_ok | dsimp only | split)
theorem celSvcApply_ok {base : State} (e : Nat) (c : PendCommit) {s : State} (hk : Kept base s) : Kept base (celSvcApply e c s) := by
  unfold celSvcApply
  with_reducible repeat' (first
    | assumption | intro _ | apply ite_ok | apply modPol_ok | apply csetAll_ok | apply wiltLeave_ok | dsimp only | split)
theorem pwrApply_ok {base : State} (c : PendCommit) {s : State} (hk : Kept base s) : Kept base (pwrApply c s) := by
  unfold pwrApply
  with_reducible repeat' (first
    | assumption | intro _ | apply ite_ok | apply csetAll_ok | apply addRec_ok | apply modPwr_ok | apply smFix_ok | dsimp only | split)
theorem strobeOne_ok {base : State} (c : PendCommit) {s : State} (hk : Kept base s) : Kept base (strobeOne c s) := by
  unfold strobeOne
  with_reducible repeat' (first
    | assumption | intro _ | apply ite_ok | apply reportCommit_ok | apply smFix_ok | apply csetAll_ok | apply celSvcApply_ok
    | apply pwrApply_ok | dsimp only | split)
theorem strobeCommits_ok {base : State} {s : State} (hk : Kept base s) : Kept base (strobeCommits s) := by
  unfold strobeCommits
  with_reducible repeat' (first
    | assumption | intro _ | apply ite_ok | apply forS_ok | apply strobeOne_ok | (apply modGrp_ok; rotate_left; with_unfolding_all rfl)
    | dsimp only | split)
theorem putRec_ok {base : State} (r : Rec) {s : State} (hk : Kept base s) : Kept base (putRec r s) := by
  unfold putRec
  exact modBook_to _ (by have := hk.2.4; dsimp only; omega) hk
theorem commitBook_ok {base : State} {s : State} (hk : Kept base s) : Kept base (commitBook s) := by
  unfold commitBook
  with_reducible repeat' (first
    | assumption | intro _ | apply ite_ok | apply forS_ok | apply putRec_ok
    | (apply modBook_ok; rotate_left; with_unfolding_all rfl; with_unfolding_all rfl) | dsimp only | split)
theorem armBoundary_ok {base : State} {s : State} (hk : Kept base s) : Kept base (armBoundary s) := by
  unfold armBoundary
  with_reducible repeat' (first
    | assumption | intro _ | apply ite_ok | apply modTrig_ok | apply modPwr_ok | dsimp only | split)
theorem overrun_ok {base : State} {s : State} (hk : Kept base s) : Kept base (overrun s) := by
  unfold overrun
  with_reducible repeat' (first
    | assumption | intro _ | apply ite_ok | (apply modCel_ok; rotate_left; with_unfolding_all rfl)
    | (apply modCel_none; rotate_left; with_unfolding_all rfl) | apply record_ok | apply faultRelease_ok | dsimp only | split)
theorem coldLine_ok {base : State} {s : State} (hk : Kept base s) : Kept base (coldLine s) := by
  unfold coldLine
  with_reducible repeat' (first
    | assumption | intro _ | apply ite_ok | apply complexReset_ok | apply faultReport_ok
    | (apply modCel_ok; rotate_left; with_unfolding_all rfl) | (apply modCel_none; rotate_left; with_unfolding_all rfl) | dsimp only
    | split)
theorem checkAck_ok {base : State} {s : State} (hk : Kept base s) : Kept base (checkAck s) := by
  unfold checkAck
  with_reducible repeat' (first
    | assumption | intro _ | apply ite_ok | apply standbyLost_ok | apply saveStale_ok | dsimp only | split)
theorem plannedSwitch_ok {base : State} {s : State} (hk : Kept base s) : Kept base (plannedSwitch s) := by
  unfold plannedSwitch
  with_reducible repeat' (first
    | assumption | intro _ | apply ite_ok | apply record_ok | apply setDie_ok | apply moveOwn_ok
    | (apply modCel_ok; rotate_left; with_unfolding_all rfl) | (apply modCel_none; rotate_left; with_unfolding_all rfl) | dsimp only
    | split)
theorem sendBatch_ok {base : State} (outs : List COut) {s : State} (hk : Kept base s) : Kept base (sendBatch outs s) := by
  unfold sendBatch
  with_reducible repeat' (first
    | assumption | intro _ | apply ite_ok | (apply modCel_ok; rotate_left; with_unfolding_all rfl)
    | (apply modCel_none; rotate_left; with_unfolding_all rfl) | dsimp only | split)
theorem commitCycle_ok {base : State} {s : State} (hk : Kept base s) : Kept base (commitCycle s) := by
  unfold commitCycle
  have h1 := checkAck_ok hk
  generalize checkAck s = s1 at h1 ⊢
  dsimp only
  apply plannedSwitch_ok
  refine modCel_ok _ ?_ rfl
  apply commitKept_ok
  apply commitBook_ok
  apply lateRelease_ok
  apply armBoundary_ok
  apply strobeCommits_ok
  apply storeImage_ok
  apply sendBatch_ok
  refine forS_ok _ _ (fun y x hx => applyOut_ok y hx) ?_
  exact coldLine_ok (modPol_ok _ (modCel_ok _ h1 rfl))
theorem execCommitStrobe_ok {base : State} {s : State} (hk : Kept base s) : KeptA base (execCommitStrobe s) := by
  unfold execCommitStrobe
  with_reducible repeat' (first
    | assumption | intro _ | apply ite_ok | apply clocked_ok | apply commitCycle_ok | apply overrun_ok | apply next_ok | apply iteA_ok
    | dsimp only | split)
theorem portEnable_ok {base : State} (p : Nat) (on : Bool) {s : State} (hk : Kept base s) : Kept base (portEnable p on s) := by
  unfold portEnable
  with_reducible repeat' (first
    | assumption | intro _ | apply ite_ok | apply portCommit_ok | dsimp only | split)
theorem batchOut_ok {base : State} (o : COut) {s : State} (hk : Kept base s) : Kept base (batchOut o s) := by
  unfold batchOut
  with_reducible repeat' (first
    | assumption | intro _ | apply ite_ok | apply tryReport_ok | apply modStep_ok | apply drawStep_ok | apply failOut_ok
    | apply portEnable_ok | apply startStress_ok | apply startSweep_ok | apply modCor_ok | apply drainQueue_ok | apply modPwr_ok
    | apply setRetire_ok | dsimp only | split)
theorem takeBatch_ok {base : State} (intact : Bool) {s : State} (hk : Kept base s) : Kept base (takeBatch intact s) := by
  unfold takeBatch
  with_reducible repeat' (first
    | assumption | intro _ | apply ite_ok | (apply modCel_ok; rotate_left; with_unfolding_all rfl)
    | (apply modCel_none; rotate_left; with_unfolding_all rfl) | apply forS_ok | apply batchOut_ok | dsimp only | split)
theorem execBatchReceive_ok {base : State} (intact : Bool) {s : State} (hk : Kept base s) : KeptA base (execBatchReceive intact s) := by
  unfold execBatchReceive
  with_reducible repeat' (first
    | assumption | intro _ | apply ite_ok | apply clocked_ok | apply takeBatch_ok | apply next_ok | apply iteA_ok | dsimp only | split)
theorem execNoBatchTimeout_ok {base : State} {s : State} (hk : Kept base s) : KeptA base (execNoBatchTimeout s) := by
  unfold execNoBatchTimeout
  with_reducible repeat' (first
    | assumption | intro _ | apply ite_ok | apply clocked_ok | apply faultAll_ok
    | (apply modCel_ok; rotate_left; with_unfolding_all rfl) | (apply modCel_none; rotate_left; with_unfolding_all rfl) | apply next_ok
    | apply iteA_ok | dsimp only | split)

end Sys2Proof.Machine
end

