-- ==== Sys2Proof/Laws/KeptPlanter.lean ====
section
/-!
SUPPORT. Laws/KeptPlanter.lean: every operation and command of Machine/Planter.lean keeps `Kept`.
-/
namespace Sys2Proof.Machine

set_option linter.unusedTactic false
set_option linter.unreachableTactic false
set_option linter.unusedVariables false

theorem evalPage_ok {base : State} (key : Nat) {s : State} (hk : Kept base s) : Kept base (evalPage key s) := by
  unfold evalPage
  with_reducible repeat' (first
    | assumption | intro _ | apply ite_ok | apply countUnmet_ok | apply startMove_ok | dsimp only | split)
theorem execPlanterDecay_ok {base : State} {s : State} (hk : Kept base s) : KeptA base (execPlanterDecay s) := by
  unfold execPlanterDecay
  with_reducible repeat' (first
    | assumption | intro _ | apply ite_ok | apply whenS_ok | apply modPln_ok | apply forS_ok | apply evalPage_ok | apply next_ok
    | apply iteA_ok | dsimp only | split)
theorem finishMove_ok {base : State} (m : Move) {s : State} (hk : Kept base s) : Kept base (finishMove m s) := by
  unfold finishMove
  with_reducible repeat' (first
    | assumption | intro _ | apply ite_ok | apply dropMove_ok | apply modPage_ok | apply modPln_ok | apply program_ok | dsimp only
    | split)
theorem abandonMove_ok {base : State} (m : Move) {s : State} (hk : Kept base s) : Kept base (abandonMove m s) := by
  unfold abandonMove
  with_reducible repeat' (first
    | assumption | intro _ | apply ite_ok | apply dropMove_ok | apply modPage_ok | dsimp only | split)
theorem retryPromos_ok {base : State} {s : State} (hk : Kept base s) : Kept base (retryPromos s) := by
  unfold retryPromos
  with_reducible repeat' (first
    | assumption | intro _ | apply ite_ok | apply forS_ok | apply startPromo_ok | dsimp only | split)
theorem endMove_ok {base : State} (m : Move) {s : State} (hk : Kept base s) : Kept base (endMove m s) := by
  unfold endMove
  with_reducible repeat' (first
    | assumption | intro _ | apply ite_ok | apply pump_ok | apply retryPromos_ok | apply dropMove_ok | apply finishMove_ok | dsimp only
    | split)
theorem execMigrationCopyDone_ok {base : State} (h : Nat) (p : Nat) {s : State} (hk : Kept base s) : KeptA base (execMigrationCopyDone h p
    s) := by
  unfold execMigrationCopyDone
  with_reducible repeat' (first
    | assumption | intro _ | apply ite_ok | apply retryPromos_ok | apply abandonMove_ok | apply endMove_ok | apply next_ok
    | apply iteA_ok | dsimp only | split)
theorem execMigrationBackoffEnd_ok {base : State} (key : Nat) {s : State} (hk : Kept base s) : KeptA base (execMigrationBackoffEnd key s) :=
    by
  unfold execMigrationBackoffEnd
  with_reducible repeat' (first
    | assumption | intro _ | apply ite_ok | apply modPage_ok | apply next_ok | apply iteA_ok | dsimp only | split)
theorem execPromotionDone_ok {base : State} (key : Nat) {s : State} (hk : Kept base s) : KeptA base (execPromotionDone key s) := by
  unfold execPromotionDone
  with_reducible repeat' (first
    | assumption | intro _ | apply ite_ok | apply endMove_ok | apply next_ok | apply iteA_ok | dsimp only | split)
theorem zeroizeDone_ok {base : State} (tier : Nat) (stack : Nat) {s : State} (hk : Kept base s) : Kept base (zeroizeDone tier stack s) := by
  unfold zeroizeDone
  with_reducible repeat' (first
    | assumption | intro _ | apply ite_ok | apply retryPromos_ok | apply modPln_ok | dsimp only | split)
theorem poisonFault_ok {base : State} (h : Nat) (p : Nat) {s : State} (hk : Kept base s) : Kept base (poisonFault s h p) := by
  unfold poisonFault
  with_reducible repeat' (first
    | assumption | intro _ | apply ite_ok | apply faultAll_ok | dsimp only | split)
theorem execPressLineTimeout_ok {base : State} (stack : Nat) (h : Nat) (line : Nat) {s : State} (hk : Kept base s) : KeptA base
    (execPressLineTimeout stack h line s) := by
  unfold execPressLineTimeout
  with_reducible repeat' (first
    | assumption | intro _ | apply ite_ok | apply modPln_ok | apply poisonFault_ok | apply next_ok | apply iteA_ok | dsimp only | split)
theorem dropStackMoves_ok {base : State} (k : Nat) {s : State} (hk : Kept base s) : Kept base (dropStackMoves k s) := by
  unfold dropStackMoves
  with_reducible repeat' (first
    | assumption | intro _ | apply ite_ok | apply retryPromos_ok | apply forS_ok | apply dropMove_ok | dsimp only | split)
theorem tripStack_ok {base : State} (k : Nat) {s : State} (hk : Kept base s) : Kept base (tripStack k s) := by
  unfold tripStack
  with_reducible repeat' (first
    | assumption | intro _ | apply ite_ok | apply faultAll_ok | apply dropStackMoves_ok | apply modStk_ok | dsimp only | split)
theorem execStackTempSample_ok {base : State} (k : Nat) (temp : Nat) {s : State} (hk : Kept base s) : KeptA base (execStackTempSample k temp
    s) := by
  unfold execStackTempSample
  with_reducible repeat' (first
    | assumption | intro _ | apply ite_ok | apply modPln_ok | apply modStk_ok | apply tripStack_ok | apply next_ok | apply iteA_ok
    | dsimp only | split)
theorem loseStack_ok {base : State} (k : Nat) {s : State} (hk : Kept base s) : Kept base (loseStack k s) := by
  unfold loseStack
  with_reducible repeat' (first
    | assumption | intro _ | apply ite_ok | apply dropStackMoves_ok | apply modStk_ok | dsimp only | split)
theorem execStackLost_ok {base : State} (k : Nat) {s : State} (hk : Kept base s) : KeptA base (execStackLost k s) := by
  unfold execStackLost
  with_reducible repeat' (first
    | assumption | intro _ | apply ite_ok | apply faultAll_ok | apply setRetire_ok | apply loseStack_ok | apply next_ok | apply iteA_ok
    | dsimp only | split)
theorem execUcieLaneLost_ok {base : State} (d : Nat) {s : State} (hk : Kept base s) : KeptA base (execUcieLaneLost d s) := by
  unfold execUcieLaneLost
  with_reducible repeat' (first
    | assumption | intro _ | apply ite_ok | apply faultAll_ok | apply setRetire_ok | apply loseStack_ok | apply next_ok | apply iteA_ok
    | dsimp only | split)
theorem execRefclkLost_ok {base : State} {s : State} (hk : Kept base s) : KeptA base (execRefclkLost s) := by
  unfold execRefclkLost
  with_reducible repeat' (first
    | assumption | intro _ | apply ite_ok | apply faultAll_ok | apply modCor_ok | apply next_ok | apply iteA_ok | dsimp only | split)
theorem execRefclkHoldoverEnd_ok {base : State} {s : State} (hk : Kept base s) : KeptA base (execRefclkHoldoverEnd s) := by
  unfold execRefclkHoldoverEnd
  with_reducible repeat' (first
    | assumption | intro _ | apply ite_ok | apply modCor_ok | apply next_ok | apply iteA_ok | dsimp only | split)

end Sys2Proof.Machine
end

