-- ==== Sys2Proof/Laws/KeptReset.lean ====
section
/-!
SUPPORT. Laws/KeptReset.lean: every operation and command of Machine/Reset.lean keeps `Kept`.
-/
namespace Sys2Proof.Machine

set_option linter.unusedTactic false
set_option linter.unreachableTactic false
set_option linter.unusedVariables false

theorem ledger_ok {base : State} (k : Nat) (isEnd : Bool) (path : Nat) (result : Nat) (detail : Nat) {s : State} (hk : Kept base s) : Kept
    base (ledger k isEnd path result detail s) := by
  unfold ledger
  with_reducible repeat' (first
    | assumption | intro _ | apply ite_ok | apply commitKept_ok | apply modBoot_ok | dsimp only | split)
theorem keptGroups_sets (half : Bool) (wear boot : Word) : setsOk (keptGroups half wear boot).sets = true :=
  setsOk_set _ _ .boot 0 0 _ (setsOk_set _ _ .rckWear 0 0 _ rfl)
theorem enterReset_ok {base : State} (cause : Nat) {s : State} (hk : Kept base s) : Kept base (enterReset cause s) := by
  unfold enterReset
  have h := fresh_ok 128 hk
  dsimp only
  refine ⟨⟨h.1.1, h.1.2, h.1.3⟩, ⟨rfl, keptGroups_sets _ _ _, ?_, hk.2.4, fun x hx => nomatch hx⟩⟩
  dsimp only
  split <;> exact Nat.zero_le _
theorem skipStep_ok {base : State} (k : Nat) {s : State} (hk : Kept base s) : Kept base (skipStep k s) := by
  unfold skipStep
  with_reducible repeat' (first
    | assumption | intro _ | apply ite_ok | apply modBoot_ok | apply ledger_ok | apply modSec_ok | dsimp only | split)
theorem bootReady_ok {base : State} {s : State} (hk : Kept base s) : Kept base (bootReady s) := by
  unfold bootReady
  with_reducible repeat' (first
    | assumption | intro _ | apply ite_ok | apply record_ok | apply modBoot_ok | dsimp only | split)
theorem bootHalt_ok {base : State} (k : Nat) {s : State} (hk : Kept base s) : Kept base (bootHalt k s) := by
  unfold bootHalt
  with_reducible repeat' (first
    | assumption | intro _ | apply ite_ok | apply record_ok | apply modBoot_ok | dsimp only | split)
theorem startPorts_ok {base : State} {s : State} (hk : Kept base s) : Kept base (startPorts s) := by
  unfold startPorts
  with_reducible repeat' (first
    | assumption | intro _ | apply ite_ok | apply forS_ok | apply portCommit_ok | dsimp only | split)
theorem beginStep_ok {base : State} (fuel k : Nat) {s : State} (hk : Kept base s) : Kept base (beginStep fuel k s) := by
  induction fuel generalizing k s with
  | zero => exact hk
  | succ n ih =>
    unfold beginStep
    refine ite_ok (bootReady_ok hk) (ite_ok (modBoot_ok _ hk) ?_)
    split
    · exact bootHalt_ok _ hk
    · next p hp =>
      dsimp only
      refine ite_ok (ih _ (skipStep_ok _ hk)) ?_
      exact ite_ok (startPorts_ok (modBoot_ok _ (ledger_ok _ _ _ _ _ hk))) (modBoot_ok _ (ledger_ok _ _ _ _ _ hk))
theorem startUp_ok {base : State} {s : State} (hk : Kept base s) : Kept base (startUp s) := by
  unfold startUp
  have h1 := record_ok 0x1100 0 s.boot.cause (modBoot_ok (fun b => { b with bootTick := s.tick, heldReset := false }) hk)
  have h2 := modSec_ok (fun x => { x with life := resetLife s.sec, sealTaken := false })
    (modCel_ok (fun c => { c with ca := 1, cb := 1 }) h1 rfl)
  exact beginStep_ok _ _ (ite_ok h2 (record_ok _ _ _ h2))
theorem moduleReset_ok {base : State} (cause : Nat) {s : State} (hk : Kept base s) : Kept base (moduleReset cause s) := by
  unfold moduleReset
  with_reducible repeat' (first
    | assumption | intro _ | apply ite_ok | apply startUp_ok | apply enterReset_ok | dsimp only | split)
theorem ownerReset_ok {base : State} (cause : Nat) {s : State} (hk : Kept base s) : Kept base (ownerReset cause s) := by
  unfold ownerReset
  with_reducible repeat' (first
    | assumption | intro _ | apply ite_ok | apply moduleReset_ok | apply commitKept_ok | apply commitBook_ok | dsimp only | split)
theorem railsOff_ok {base : State} {s : State} (hk : Kept base s) : Kept base (railsOff s) := by
  unfold railsOff
  exact ⟨⟨hk.1.1, hk.1.2, hk.1.3⟩, ⟨rfl, hk.2.2, Nat.zero_le _, hk.2.4, hk.2.5⟩⟩

end Sys2Proof.Machine
end

