-- ==== Sys2Proof/Laws/KeptBoot.lean ====
section
/-!
SUPPORT. Laws/KeptBoot.lean: every operation and command of Machine/Boot.lean keeps `Kept`.
-/
namespace Sys2Proof.Machine

set_option linter.unusedTactic false
set_option linter.unreachableTactic false
set_option linter.unusedVariables false

theorem bootFromOff_ok {base : State} {s : State} (hk : Kept base s) : Kept base (bootFromOff s) := by
  unfold bootFromOff
  with_reducible repeat' (first
    | assumption | intro _ | apply ite_ok | apply record_ok | apply moduleReset_ok | apply modPwr_ok | dsimp only | split)
theorem execPowerOn_ok {base : State} {s : State} (hk : Kept base s) : KeptA base (execPowerOn s) := by
  unfold execPowerOn
  with_reducible repeat' (first
    | assumption | intro _ | apply ite_ok | apply bootFromOff_ok | apply modPwr_ok | apply next_ok | apply iteA_ok | dsimp only | split)
theorem inputLoss_ok {base : State} {s : State} (hk : Kept base s) : Kept base (inputLoss s) := by
  unfold inputLoss
  with_reducible repeat' (first
    | assumption | intro _ | apply ite_ok | apply modPwr_ok | apply upMsg_ok | apply railsOff_ok | dsimp only | split)
theorem execInputLow_ok {base : State} {s : State} (hk : Kept base s) : KeptA base (execInputLow s) := by
  unfold execInputLow
  with_reducible repeat' (first
    | assumption | intro _ | apply ite_ok | apply inputLoss_ok | apply next_ok | apply iteA_ok | dsimp only | split)
theorem execInputOvervoltage_ok {base : State} {s : State} (hk : Kept base s) : KeptA base (execInputOvervoltage s) := by
  unfold execInputOvervoltage
  with_reducible repeat' (first
    | assumption | intro _ | apply ite_ok | apply inputLoss_ok | apply next_ok | apply iteA_ok | dsimp only | split)
theorem execAuxRailLow_ok {base : State} {s : State} (hk : Kept base s) : KeptA base (execAuxRailLow s) := by
  unfold execAuxRailLow
  with_reducible repeat' (first
    | assumption | intro _ | apply ite_ok | apply modPwr_ok | apply upMsg_ok | apply railsOff_ok | apply next_ok | apply iteA_ok
    | dsimp only | split)
theorem goOff_ok {base : State} {s : State} (hk : Kept base s) : Kept base (goOff s) := by
  unfold goOff
  have h := railsOff_ok hk
  exact ⟨⟨h.1.1, h.1.2, h.1.3⟩, ⟨h.2.1, h.2.2, h.2.3, hk.2.4, fun x hx => nomatch hx⟩⟩
theorem execHoldUpRunDown_ok {base : State} {s : State} (hk : Kept base s) : KeptA base (execHoldUpRunDown s) := by
  unfold execHoldUpRunDown
  with_reducible repeat' (first
    | assumption | intro _ | apply ite_ok | apply goOff_ok | apply next_ok | apply iteA_ok | dsimp only | split)
theorem execInputQualified_ok {base : State} {s : State} (hk : Kept base s) : KeptA base (execInputQualified s) := by
  unfold execInputQualified
  with_reducible repeat' (first
    | assumption | intro _ | apply ite_ok | apply modPwr_ok | apply bootFromOff_ok | apply modBoot_ok | apply moduleReset_ok
    | apply beginStep_ok | apply next_ok | apply iteA_ok | dsimp only | split)
theorem execResetAssert_ok {base : State} {s : State} (hk : Kept base s) : KeptA base (execResetAssert s) := by
  unfold execResetAssert
  with_reducible repeat' (first
    | assumption | intro _ | apply ite_ok | apply modBoot_ok | apply enterReset_ok | apply next_ok | apply iteA_ok | dsimp only | split)
theorem execResetRelease_ok {base : State} {s : State} (hk : Kept base s) : KeptA base (execResetRelease s) := by
  unfold execResetRelease
  with_reducible repeat' (first
    | assumption | intro _ | apply ite_ok | apply startUp_ok | apply next_ok | apply iteA_ok | dsimp only | split)
theorem execStandbyEntryDone_ok {base : State} {s : State} (hk : Kept base s) : KeptA base (execStandbyEntryDone s) := by
  unfold execStandbyEntryDone
  with_reducible repeat' (first
    | assumption | intro _ | apply ite_ok | apply clocked_ok | apply reqOk_ok | apply modPwr_ok | apply setPwr_ok | apply railsOff_ok
    | apply next_ok | apply iteA_ok | dsimp only | split)
theorem setFw_ok {base : State} (k : Nat) (f : FwSlot → FwSlot) {s : State} (hk : Kept base s) : Kept base (setFw k f s) := by
  unfold setFw
  with_reducible repeat' (first
    | assumption | intro _ | apply ite_ok | apply modBoot_ok | dsimp only | split)
theorem ptrWrite_ok {base : State} (f : Boot → Boot) {s : State} (hk : Kept base s) : Kept base (ptrWrite f s) := by
  unfold ptrWrite
  with_reducible repeat' (first
    | assumption | intro _ | apply ite_ok | apply modBoot_ok | dsimp only | split)
theorem rollback_ok {base : State} {s : State} (hk : Kept base s) : Kept base (rollback s) := by
  unfold rollback
  with_reducible repeat' (first
    | assumption | intro _ | apply ite_ok | apply record_ok | apply setFw_ok | apply ptrWrite_ok | dsimp only | split)
theorem slotSelect_ok {base : State} (path : Nat) (mask : Nat) {s : State} (hk : Kept base s) : Kept base (slotSelect path mask s).2 := by
  unfold slotSelect
  with_reducible repeat' (first
    | assumption | intro _ | apply ite_ok | apply ptrWrite_ok | apply rollback_ok | apply setFw_ok | apply ite2_ok | dsimp only | split)
theorem slotTables_ok {base : State} {s : State} (hk : Kept base s) : Kept base (slotTables s) := by
  unfold slotTables
  with_reducible repeat' (first
    | assumption | intro _ | apply ite_ok | apply forS_ok | apply install_ok | dsimp only | split)
theorem stepEffect_ok {base : State} (k : Nat) (path : Nat) (mask : Nat) {s : State} (hk : Kept base s) : Kept base (stepEffect k path mask
    s) := by
  unfold stepEffect
  with_reducible repeat' (first
    | assumption | intro _ | apply ite_ok | apply setDie_ok | (apply modCel_ok; rotate_left; with_unfolding_all rfl)
    | (apply modCel_none; rotate_left; with_unfolding_all rfl) | apply modBoot_ok | apply modSec_ok | apply slotTables_ok
    | apply forS_ok | apply modDie_ok | apply modPln_ok | apply modCore_ok | apply setPwr_ok | apply csetReset_ok | apply modVnl_ok
    | apply foldl_ok | apply foldl2_ok | apply ite2_ok | dsimp only | split)
theorem stepPassed_ok {base : State} (mask : Nat) {s : State} (hk : Kept base s) : Kept base (stepPassed mask s) := by
  unfold stepPassed
  exact beginStep_ok _ _ (modBoot_ok _ (ledger_ok _ _ _ _ _ (stepEffect_ok _ _ _ hk)))
theorem stepFailed_ok {base : State} (res : Nat) (ucie : Bool) (unit : Nat) (mask : Nat) {s : State} (hk : Kept base s) : Kept base
    (stepFailed res ucie unit mask s) := by
  unfold stepFailed
  with_reducible repeat' (first
    | assumption | intro _ | apply ite_ok | apply record_ok | apply modBoot_ok | apply ledger_ok | apply setRetire_ok | apply modErr_ok
    | apply bootHalt_ok | apply ownerReset_ok | apply actFaults_ok | apply faultAll_ok | apply loseStack_ok | dsimp only | split)
theorem stepDone_ok {base : State} (res : Nat) (ucie : Bool) (unit : Nat) (mask : Nat) {s : State} (hk : Kept base s) : Kept base (stepDone
    res ucie unit mask s) := by
  unfold stepDone
  with_reducible repeat' (first
    | assumption | intro _ | apply ite_ok | apply slotSelect_ok | apply stepPassed_ok | apply stepFailed_ok | dsimp only | split)
theorem execBootStepDone_ok {base : State} (res : Nat) (ucie : Bool) (unit : Nat) (mask : Nat) {s : State} (hk : Kept base s) : KeptA base
    (execBootStepDone res ucie unit mask s) := by
  unfold execBootStepDone
  with_reducible repeat' (first
    | assumption | intro _ | apply ite_ok | apply stepDone_ok | apply next_ok | apply iteA_ok | dsimp only | split)
theorem execBootStepLimit_ok {base : State} (unit : Nat) (mask : Nat) {s : State} (hk : Kept base s) : KeptA base (execBootStepLimit unit
    mask s) := by
  unfold execBootStepLimit
  with_reducible repeat' (first
    | assumption | intro _ | apply ite_ok | apply stepPassed_ok | apply stepFailed_ok | apply slotSelect_ok | apply next_ok
    | apply iteA_ok | dsimp only | split)
theorem execBootFenceClr_ok {base : State} (acc : Acc) {s : State} (hk : Kept base s) : KeptA base (execBootFenceClr acc s) := by
  unfold execBootFenceClr
  with_reducible repeat' (first
    | assumption | intro _ | apply ite_ok | apply modBoot_ok | apply next_ok | apply iteA_ok | dsimp only | split)
theorem release_ok {base : State} {s : State} (hk : Kept base s) : Kept base (release s) := by
  unfold release
  with_reducible repeat' (first
    | assumption | intro _ | apply ite_ok | apply drainQueue_ok | apply pump_ok | dsimp only | split)
theorem execModBlkDrain_ok {base : State} (acc : Acc) (v : Word) {s : State} (hk : Kept base s) : KeptA base (execModBlkDrain acc v s) := by
  unfold execModBlkDrain
  with_reducible repeat' (first
    | assumption | intro _ | apply ite_ok | apply release_ok | apply modBoot_ok | apply next_ok | apply iteA_ok | dsimp only | split)
theorem blkRegs_ok {base : State} (b : Nat) {s : State} (hk : Kept base s) : Kept base (blkRegs b s) := by
  unfold blkRegs
  exact regs_ok (modGrp_set _ (setsOk_filter _ _ hk.2.2) hk)
theorem blkUncommitted_ok {base : State} (b : Nat) {s : State} (hk : Kept base s) : Kept base (blkUncommitted b s) := by
  unfold blkUncommitted
  with_reducible repeat' (first
    | assumption | intro _ | apply ite_ok | (apply modGrp_ok; rotate_left; with_unfolding_all rfl) | apply forS_ok | apply reload_ok
    | dsimp only | split)
theorem blkUnit_ok {base : State} (b : Nat) {s : State} (hk : Kept base s) : Kept base (blkUnit b s) := by
  unfold blkUnit
  with_reducible repeat' (first
    | assumption | intro _ | apply ite_ok | apply modHif_ok | apply modPln_ok | apply modCor_ok | apply modVnl_ok | apply modCol_ok
    | apply modStp_ok | apply modRck_ok | apply modErr_ok | apply modPwr_ok | apply modTim_ok | apply fresh_ok | apply modSec_ok
    | (apply modDbg_ok; rotate_left; with_unfolding_all rfl) | (refine modDbg_to _ (by with_unfolding_all simp) ?_) | apply modBoot_ok
    | (apply modBook_ok; rotate_left; with_unfolding_all rfl; with_unfolding_all rfl) | dsimp only | split)
theorem blkReset_ok {base : State} (b : Nat) {s : State} (hk : Kept base s) : Kept base (blkReset b s) := by
  unfold blkReset
  with_reducible repeat' (first
    | assumption | intro _ | apply ite_ok | apply modBoot_ok | apply blkUncommitted_ok | apply blkUnit_ok | apply blkRegs_ok
    | dsimp only | split)
theorem execModBlkReset_ok {base : State} (acc : Acc) (v : Word) {s : State} (hk : Kept base s) : KeptA base (execModBlkReset acc v s) := by
  unfold execModBlkReset
  with_reducible repeat' (first
    | assumption | intro _ | apply ite_ok | apply forS_ok | apply blkReset_ok | apply next_ok | apply iteA_ok | dsimp only | split)
theorem updRec_ok {base : State} (cmd : Nat) (res : Nat) {s : State} (hk : Kept base s) : Kept base (updRec cmd res s) := by
  unfold updRec
  with_reducible repeat' (first
    | assumption | intro _ | apply ite_ok | apply record_ok | dsimp only | split)
theorem updDo_ok {base : State} (cmd : Nat) (len : Nat) {s : State} (hk : Kept base s) : Kept base (updDo cmd len s) := by
  unfold updDo
  with_reducible repeat' (first
    | assumption | intro _ | apply ite_ok | apply setFw_ok | apply modBoot_ok | apply ptrWrite_ok | dsimp only | split)
theorem updAct_ok {base : State} (cmd : Nat) (snap : List Word) {s : State} (hk : Kept base s) : Kept base (updAct cmd snap s) := by
  unfold updAct
  with_reducible repeat' (first
    | assumption | intro _ | apply ite_ok | apply updRec_ok | apply setCstat_ok | apply updDo_ok | apply csetAll_ok | dsimp only | split)
theorem updCmd_ok {base : State} (cmd : Nat) (acc : Acc) {s : State} (hk : Kept base s) : Kept base (updCmd cmd acc s) := by
  unfold updCmd
  with_reducible repeat' (first
    | assumption | intro _ | apply ite_ok | apply modBoot_ok | apply setCstat_ok | apply updAct_ok | dsimp only | split)
theorem runUpdWait_ok {base : State} {s : State} (hk : Kept base s) : Kept base (runUpdWait s) := by
  unfold runUpdWait
  with_reducible repeat' (first
    | assumption | intro _ | apply ite_ok | apply forS_ok | apply updAct_ok | apply modBoot_ok | dsimp only | split)
theorem execUpdDownload_ok {base : State} (acc : Acc) {s : State} (hk : Kept base s) : KeptA base (execUpdDownload acc s) := by
  unfold execUpdDownload
  with_reducible repeat' (first
    | assumption | intro _ | apply ite_ok | apply updCmd_ok | apply next_ok | apply iteA_ok | dsimp only | split)
theorem execUpdVerify_ok {base : State} (acc : Acc) {s : State} (hk : Kept base s) : KeptA base (execUpdVerify acc s) := by
  unfold execUpdVerify
  with_reducible repeat' (first
    | assumption | intro _ | apply ite_ok | apply updCmd_ok | apply next_ok | apply iteA_ok | dsimp only | split)
theorem execUpdActivate_ok {base : State} (acc : Acc) {s : State} (hk : Kept base s) : KeptA base (execUpdActivate acc s) := by
  unfold execUpdActivate
  with_reducible repeat' (first
    | assumption | intro _ | apply ite_ok | apply updCmd_ok | apply next_ok | apply iteA_ok | dsimp only | split)
theorem execUpdConfirm_ok {base : State} (acc : Acc) {s : State} (hk : Kept base s) : KeptA base (execUpdConfirm acc s) := by
  unfold execUpdConfirm
  with_reducible repeat' (first
    | assumption | intro _ | apply ite_ok | apply updCmd_ok | apply next_ok | apply iteA_ok | dsimp only | split)
theorem execUpdAbort_ok {base : State} (acc : Acc) {s : State} (hk : Kept base s) : KeptA base (execUpdAbort acc s) := by
  unfold execUpdAbort
  with_reducible repeat' (first
    | assumption | intro _ | apply ite_ok | apply updCmd_ok | apply next_ok | apply iteA_ok | dsimp only | split)
theorem execDownloadDone_ok {base : State} (data : List Byte) {s : State} (hk : Kept base s) : KeptA base (execDownloadDone data s) := by
  unfold execDownloadDone
  with_reducible repeat' (first
    | assumption | intro _ | apply ite_ok | apply clocked_ok | apply setFw_ok | apply modBoot_ok | apply next_ok | apply iteA_ok
    | dsimp only | split)
theorem execVerifyDone_ok {base : State} {s : State} (hk : Kept base s) : KeptA base (execVerifyDone s) := by
  unfold execVerifyDone
  with_reducible repeat' (first
    | assumption | intro _ | apply ite_ok | apply clocked_ok | apply setFw_ok | apply modBoot_ok | apply next_ok | apply iteA_ok
    | dsimp only | split)
theorem execCaveHealthTestFail_ok {base : State} (d : Nat) (test : Nat) {s : State} (hk : Kept base s) : KeptA base (execCaveHealthTestFail
    d test s) := by
  unfold execCaveHealthTestFail
  with_reducible repeat' (first
    | assumption | intro _ | apply ite_ok | apply clocked_ok | apply record_ok | apply modSec_ok | apply faultRelease_ok | apply next_ok
    | apply iteA_ok | dsimp only | split)
theorem execInBandInterrupt_ok {base : State} (target : Nat) {s : State} (hk : Kept base s) : KeptA base (execInBandInterrupt target s) :=
    by
  unfold execInBandInterrupt
  with_reducible repeat' (first
    | assumption | intro _ | apply ite_ok | apply clocked_ok | apply modPol_ok | apply next_ok | apply iteA_ok | dsimp only | split)

end Sys2Proof.Machine
end

