-- ==== Sys2Proof/Laws/KeptSecurity.lean ====
section
/-!
SUPPORT. Laws/KeptSecurity.lean: every operation and command of Machine/Security.lean keeps `Kept`.
-/
namespace Sys2Proof.Machine

set_option linter.unusedTactic false
set_option linter.unreachableTactic false
set_option linter.unusedVariables false

theorem setLife_ok {base : State} (l : Life) (caps : Nat) {s : State} (hk : Kept base s) : Kept base (setLife l caps s) := by
  unfold setLife
  with_reducible repeat' (first
    | assumption | intro _ | apply ite_ok | apply record_ok | apply modSec_ok | dsimp only | split)
theorem retireModule_ok {base : State} {s : State} (hk : Kept base s) : Kept base (retireModule s) := by
  unfold retireModule
  with_reducible repeat' (first
    | assumption | intro _ | apply ite_ok | apply setLife_ok | apply modSec_ok | apply modRck_ok | dsimp only | split)
theorem closeModule_ok {base : State} {s : State} (hk : Kept base s) : Kept base (closeModule s) := by
  unfold closeModule
  with_reducible repeat' (first
    | assumption | intro _ | apply ite_ok | apply forS_ok | apply teardown_ok | apply modSec_ok | apply ownerReset_ok | dsimp only
    | split)
theorem secDo_ok {base : State} (cmd : Nat) (tok : List Byte) {s : State} (hk : Kept base s) : Kept base (secDo cmd tok s) := by
  unfold secDo
  with_reducible repeat' (first
    | assumption | intro _ | apply ite_ok | apply setLife_ok | apply modSec_ok | apply closeModule_ok | apply modPln_ok
    | apply retireModule_ok | dsimp only | split)
theorem secRefuse_ok {base : State} (cmd : Nat) (reason : Nat) (res : Nat) (off : Nat) {s : State} (hk : Kept base s) : Kept base (secRefuse
    cmd reason res off s) := by
  unfold secRefuse
  with_reducible repeat' (first
    | assumption | intro _ | apply ite_ok | apply record_ok | apply setCstat_ok | apply modSec_ok | dsimp only | split)
theorem secCmd_ok {base : State} (cmd : Nat) (acc : Acc) (tok : Option (List Byte)) {s : State} (hk : Kept base s) : Kept base (secCmd cmd
    acc tok s) := by
  unfold secCmd
  with_reducible repeat' (first
    | assumption | intro _ | apply ite_ok | apply fresh_ok | apply modSec_ok | apply secRefuse_ok | apply csetAll_ok | apply secDo_ok
    | apply setCstat_ok | dsimp only | split)
theorem execSecOpen_ok {base : State} (acc : Acc) (tok : Option (List Byte)) {s : State} (hk : Kept base s) : KeptA base (execSecOpen acc
    tok s) := by
  unfold execSecOpen
  with_reducible repeat' (first
    | assumption | intro _ | apply ite_ok | apply secCmd_ok | apply next_ok | apply iteA_ok | dsimp only | split)
theorem execSecClose_ok {base : State} (acc : Acc) {s : State} (hk : Kept base s) : KeptA base (execSecClose acc s) := by
  unfold execSecClose
  with_reducible repeat' (first
    | assumption | intro _ | apply ite_ok | apply secCmd_ok | apply next_ok | apply iteA_ok | dsimp only | split)
theorem execSecClearRetire_ok {base : State} (acc : Acc) {s : State} (hk : Kept base s) : KeptA base (execSecClearRetire acc s) := by
  unfold execSecClearRetire
  with_reducible repeat' (first
    | assumption | intro _ | apply ite_ok | apply secCmd_ok | apply next_ok | apply iteA_ok | dsimp only | split)
theorem execSecSeal_ok {base : State} (acc : Acc) (tok : Option (List Byte)) {s : State} (hk : Kept base s) : KeptA base (execSecSeal acc
    tok s) := by
  unfold execSecSeal
  with_reducible repeat' (first
    | assumption | intro _ | apply ite_ok | apply secCmd_ok | apply next_ok | apply iteA_ok | dsimp only | split)
theorem execSecRetire_ok {base : State} (acc : Acc) (tok : Option (List Byte)) {s : State} (hk : Kept base s) : KeptA base (execSecRetire
    acc tok s) := by
  unfold execSecRetire
  with_reducible repeat' (first
    | assumption | intro _ | apply ite_ok | apply secCmd_ok | apply next_ok | apply iteA_ok | dsimp only | split)
theorem execOpenedExpiry_ok {base : State} {s : State} (hk : Kept base s) : KeptA base (execOpenedExpiry s) := by
  unfold execOpenedExpiry
  with_reducible repeat' (first
    | assumption | intro _ | apply ite_ok | apply clocked_ok | apply closeModule_ok | apply next_ok | apply iteA_ok | dsimp only | split)
theorem unlockTdis_ok {base : State} {s : State} (hk : Kept base s) : Kept base (unlockTdis s) := by
  unfold unlockTdis
  with_reducible repeat' (first
    | assumption | intro _ | apply ite_ok | apply modSec_ok | dsimp only | split)
theorem execTenantZeroizeDone_ok {base : State} (t : Nat) {s : State} (hk : Kept base s) : KeptA base (execTenantZeroizeDone t s) := by
  unfold execTenantZeroizeDone
  with_reducible repeat' (first
    | assumption | intro _ | apply ite_ok | apply clocked_ok | apply unlockTdis_ok | apply tenantFree_ok | apply ownerReset_ok
    | apply next_ok | apply iteA_ok | dsimp only | split)
theorem execServiceKeyGraceEnd_ok {base : State} {s : State} (hk : Kept base s) : KeptA base (execServiceKeyGraceEnd s) := by
  unfold execServiceKeyGraceEnd
  with_reducible repeat' (first
    | assumption | intro _ | apply ite_ok | apply clocked_ok | apply modSec_ok | apply next_ok | apply iteA_ok | dsimp only | split)
theorem spdmSend_ok {base : State} (r : Rsp) (b : List Byte) {s : State} (hk : Kept base s) : Kept base (spdmSend r b s) := by
  unfold spdmSend
  with_reducible repeat' (first
    | assumption | intro _ | apply ite_ok | apply emit_ok | apply modSec_ok | dsimp only | split)
theorem spdmError_ok {base : State} (code : Nat) {s : State} (hk : Kept base s) : Kept base (spdmError code s) := by
  unfold spdmError
  with_reducible repeat' (first
    | assumption | intro _ | apply ite_ok | apply emit_ok | dsimp only | split)
theorem spdmReq_ok {base : State} (c : Late) (ok : Bool) (f : State → State) (hf : ∀ x, Kept base x → Kept base (f x)) {s : State} (hk :
    Kept base s) : KeptA base (spdmReq c ok f s) := by
  unfold spdmReq
  with_reducible repeat' (first
    | assumption | intro _ | apply ite_ok | apply waitsInFrost_ok | apply spdmError_ok | apply hf | apply next_ok | apply iteA_ok
    | dsimp only | split)
theorem modSession_ok {base : State} (id : Nat) (f : Session → Session) {s : State} (hk : Kept base s) : Kept base (modSession id f s) := by
  unfold modSession
  with_reducible repeat' (first
    | assumption | intro _ | apply ite_ok | apply modSec_ok | dsimp only | split)
theorem spdmSigned_ok {base : State} (r : Rsp) (req : List Byte) (body : List Byte) {s : State} (hk : Kept base s) : Kept base (spdmSigned r
    req body s) := by
  unfold spdmSigned
  with_reducible repeat' (first
    | assumption | intro _ | apply ite_ok | apply fresh_ok | apply spdmSend_ok | dsimp only | split)
theorem execGetVersion_ok {base : State} {s : State} (hk : Kept base s) : KeptA base (execGetVersion s) := by
  unfold execGetVersion
  with_reducible repeat' (first
    | assumption | intro _ | apply ite_ok | apply spdmReq_ok | apply spdmSend_ok | apply modSec_ok | apply next_ok | apply iteA_ok
    | dsimp only | split)
theorem execGetCapabilities_ok {base : State} {s : State} (hk : Kept base s) : KeptA base (execGetCapabilities s) := by
  unfold execGetCapabilities
  with_reducible repeat' (first
    | assumption | intro _ | apply ite_ok | apply spdmReq_ok | apply spdmSend_ok | apply modSec_ok | apply next_ok | apply iteA_ok
    | dsimp only | split)
theorem execNegotiateAlgorithms_ok {base : State} (offers : Bool) {s : State} (hk : Kept base s) : KeptA base (execNegotiateAlgorithms
    offers s) := by
  unfold execNegotiateAlgorithms
  with_reducible repeat' (first
    | assumption | intro _ | apply ite_ok | apply spdmReq_ok | apply spdmSend_ok | apply modSec_ok | apply next_ok | apply iteA_ok
    | dsimp only | split)
theorem execGetDigests_ok {base : State} {s : State} (hk : Kept base s) : KeptA base (execGetDigests s) := by
  unfold execGetDigests
  with_reducible repeat' (first
    | assumption | intro _ | apply ite_ok | apply spdmReq_ok | apply spdmSend_ok | apply next_ok | apply iteA_ok | dsimp only | split)
theorem execGetCertificate_ok {base : State} (slot : Nat) (off : Nat) (len : Nat) {s : State} (hk : Kept base s) : KeptA base
    (execGetCertificate slot off len s) := by
  unfold execGetCertificate
  with_reducible repeat' (first
    | assumption | intro _ | apply ite_ok | apply spdmReq_ok | apply spdmSend_ok | apply next_ok | apply iteA_ok | dsimp only | split)
theorem execSpdmChallenge_ok {base : State} (slot : Nat) (req : List Byte) {s : State} (hk : Kept base s) : KeptA base (execSpdmChallenge
    slot req s) := by
  unfold execSpdmChallenge
  with_reducible repeat' (first
    | assumption | intro _ | apply ite_ok | apply spdmReq_ok | apply spdmSigned_ok | apply next_ok | apply iteA_ok | dsimp only | split)
theorem execGetMeasurements_ok {base : State} (i : Nat) (sig : Bool) (req : List Byte) {s : State} (hk : Kept base s) : KeptA base
    (execGetMeasurements i sig req s) := by
  unfold execGetMeasurements
  with_reducible repeat' (first
    | assumption | intro _ | apply ite_ok | apply spdmReq_ok | apply spdmSigned_ok | apply spdmSend_ok | apply next_ok | apply iteA_ok
    | dsimp only | split)
theorem execKeyExchange_ok {base : State} (id : Nat) (slot : Nat) (req : List Byte) {s : State} (hk : Kept base s) : KeptA base
    (execKeyExchange id slot req s) := by
  unfold execKeyExchange
  with_reducible repeat' (first
    | assumption | intro _ | apply ite_ok | apply spdmReq_ok | apply spdmSigned_ok | apply modSec_ok | apply next_ok | apply iteA_ok
    | dsimp only | split)
theorem execSpdmFinish_ok {base : State} (id : Nat) (ok : Bool) {s : State} (hk : Kept base s) : KeptA base (execSpdmFinish id ok s) := by
  unfold execSpdmFinish
  with_reducible repeat' (first
    | assumption | intro _ | apply ite_ok | apply spdmReq_ok | apply spdmSend_ok | apply modSession_ok | apply next_ok | apply iteA_ok
    | dsimp only | split)
theorem execEndSession_ok {base : State} (id : Nat) {s : State} (hk : Kept base s) : KeptA base (execEndSession id s) := by
  unfold execEndSession
  with_reducible repeat' (first
    | assumption | intro _ | apply ite_ok | apply spdmReq_ok | apply spdmSend_ok | apply modSec_ok | apply next_ok | apply iteA_ok
    | dsimp only | split)
theorem execSpdmHeartbeat_ok {base : State} (id : Nat) {s : State} (hk : Kept base s) : KeptA base (execSpdmHeartbeat id s) := by
  unfold execSpdmHeartbeat
  with_reducible repeat' (first
    | assumption | intro _ | apply ite_ok | apply spdmReq_ok | apply spdmSend_ok | apply next_ok | apply iteA_ok | dsimp only | split)
theorem execKeyUpdate_ok {base : State} (id : Nat) (both : Bool) {s : State} (hk : Kept base s) : KeptA base (execKeyUpdate id both s) := by
  unfold execKeyUpdate
  with_reducible repeat' (first
    | assumption | intro _ | apply ite_ok | apply spdmReq_ok | apply spdmSend_ok | apply modSession_ok | apply next_ok | apply iteA_ok
    | dsimp only | split)
theorem execChunkSend_ok {base : State} (first : Bool) (part : List Byte) {s : State} (hk : Kept base s) : KeptA base (execChunkSend first
    part s) := by
  unfold execChunkSend
  with_reducible repeat' (first
    | assumption | intro _ | apply ite_ok | apply spdmReq_ok | apply emit_ok | apply modSec_ok | apply next_ok | apply iteA_ok
    | dsimp only | split)
theorem execChunkGet_ok {base : State} (off : Nat) (len : Nat) {s : State} (hk : Kept base s) : KeptA base (execChunkGet off len s) := by
  unfold execChunkGet
  with_reducible repeat' (first
    | assumption | intro _ | apply ite_ok | apply spdmReq_ok | apply emit_ok | apply next_ok | apply iteA_ok | dsimp only | split)
theorem execIdeQuery_ok {base : State} (id : Nat) {s : State} (hk : Kept base s) : KeptA base (execIdeQuery id s) := by
  unfold execIdeQuery
  with_reducible repeat' (first
    | assumption | intro _ | apply ite_ok | apply spdmReq_ok | apply spdmSend_ok | apply next_ok | apply iteA_ok | dsimp only | split)
theorem execKeyProg_ok {base : State} (id : Nat) (k : Nat) {s : State} (hk : Kept base s) : KeptA base (execKeyProg id k s) := by
  unfold execKeyProg
  with_reducible repeat' (first
    | assumption | intro _ | apply ite_ok | apply spdmReq_ok | apply spdmSend_ok | apply modSec_ok | apply next_ok | apply iteA_ok
    | dsimp only | split)
theorem execKSetGo_ok {base : State} (id : Nat) (k : Nat) {s : State} (hk : Kept base s) : KeptA base (execKSetGo id k s) := by
  unfold execKSetGo
  with_reducible repeat' (first
    | assumption | intro _ | apply ite_ok | apply spdmReq_ok | apply spdmSend_ok | apply modHif_ok | apply modSec_ok | apply next_ok
    | apply iteA_ok | dsimp only | split)
theorem execKSetStop_ok {base : State} (id : Nat) (k : Nat) {s : State} (hk : Kept base s) : KeptA base (execKSetStop id k s) := by
  unfold execKSetStop
  with_reducible repeat' (first
    | assumption | intro _ | apply ite_ok | apply spdmReq_ok | apply spdmSend_ok | apply modHif_ok | apply modSec_ok | apply next_ok
    | apply iteA_ok | dsimp only | split)
theorem tdisp_ok {base : State} (c : Late) (id : Nat) (ok : Bool) (f : State → State) (hf : ∀ x, Kept base x → Kept base (f x)) {s : State}
    (hk : Kept base s) : KeptA base (tdisp c id ok f s) := by
  unfold tdisp
  with_reducible repeat' (first
    | assumption | intro _ | apply ite_ok | apply spdmReq_ok | apply spdmSend_ok | apply hf | apply next_ok | apply iteA_ok | dsimp only
    | split)
theorem execGetTdispVersion_ok {base : State} (id : Nat) {s : State} (hk : Kept base s) : KeptA base (execGetTdispVersion id s) := by
  unfold execGetTdispVersion
  with_reducible repeat' (first
    | assumption | intro _ | apply ite_ok | apply tdisp_ok | apply spdmSend_ok | apply next_ok | apply iteA_ok | dsimp only | split)
theorem execGetTdispCapabilities_ok {base : State} (id : Nat) {s : State} (hk : Kept base s) : KeptA base (execGetTdispCapabilities id s) :=
    by
  unfold execGetTdispCapabilities
  with_reducible repeat' (first
    | assumption | intro _ | apply ite_ok | apply tdisp_ok | apply spdmSend_ok | apply next_ok | apply iteA_ok | dsimp only | split)
theorem execLockInterface_ok {base : State} (id : Nat) (v : Nat) {s : State} (hk : Kept base s) : KeptA base (execLockInterface id v s) :=
    by
  unfold execLockInterface
  with_reducible repeat' (first
    | assumption | intro _ | apply ite_ok | apply tdisp_ok | apply fresh_ok | apply spdmSend_ok | apply modSec_ok | apply next_ok
    | apply iteA_ok | dsimp only | split)
theorem execGetDeviceInterfaceReport_ok {base : State} (id : Nat) (v : Nat) {s : State} (hk : Kept base s) : KeptA base
    (execGetDeviceInterfaceReport id v s) := by
  unfold execGetDeviceInterfaceReport
  with_reducible repeat' (first
    | assumption | intro _ | apply ite_ok | apply tdisp_ok | apply spdmSend_ok | apply next_ok | apply iteA_ok | dsimp only | split)
theorem execGetDeviceInterfaceState_ok {base : State} (id : Nat) (v : Nat) {s : State} (hk : Kept base s) : KeptA base
    (execGetDeviceInterfaceState id v s) := by
  unfold execGetDeviceInterfaceState
  with_reducible repeat' (first
    | assumption | intro _ | apply ite_ok | apply tdisp_ok | apply spdmSend_ok | apply next_ok | apply iteA_ok | dsimp only | split)
theorem execStartInterface_ok {base : State} (id : Nat) (v : Nat) (nonce : Nat) {s : State} (hk : Kept base s) : KeptA base
    (execStartInterface id v nonce s) := by
  unfold execStartInterface
  with_reducible repeat' (first
    | assumption | intro _ | apply ite_ok | apply tdisp_ok | apply spdmSend_ok | apply modSec_ok | apply next_ok | apply iteA_ok
    | dsimp only | split)
theorem stopTdi_ok {base : State} (v : Nat) {s : State} (hk : Kept base s) : Kept base (stopTdi v s) := by
  unfold stopTdi
  with_reducible repeat' (first
    | assumption | intro _ | apply ite_ok | apply unlockTdis_ok | apply forS_ok | apply teardown_ok | apply modSec_ok | dsimp only
    | split)
theorem execStopInterface_ok {base : State} (id : Nat) (v : Nat) {s : State} (hk : Kept base s) : KeptA base (execStopInterface id v s) :=
    by
  unfold execStopInterface
  with_reducible repeat' (first
    | assumption | intro _ | apply ite_ok | apply tdisp_ok | apply spdmSend_ok | apply stopTdi_ok | apply next_ok | apply iteA_ok
    | dsimp only | split)

end Sys2Proof.Machine
end

