-- ==== Sys2Proof/Laws/KeptBook.lean ====
section
/-!
SUPPORT. Laws/KeptBook.lean: every operation and command of Machine/Book.lean keeps `Kept`.
-/
namespace Sys2Proof.Machine

set_option linter.unusedTactic false
set_option linter.unreachableTactic false
set_option linter.unusedVariables false

theorem execBookCurNext_ok {base : State} (acc : Acc) {s : State} (hk : Kept base s) : KeptA base (execBookCurNext acc s) := by
  unfold execBookCurNext
  with_reducible repeat' (first
    | assumption | intro _ | apply ite_ok | apply setRw_ok | apply next_ok | apply iteA_ok | dsimp only | split)
theorem clearBook_ok {base : State} {s : State} (hk : Kept base s) : Kept base (clearBook s) := by
  unfold clearBook
  exact record_ok _ _ _ (modBook_to _ (Nat.le_refl _) hk)
theorem execBookClear_ok {base : State} (acc : Acc) {s : State} (hk : Kept base s) : KeptA base (execBookClear acc s) := by
  unfold execBookClear
  with_reducible repeat' (first
    | assumption | intro _ | apply ite_ok | (apply modBook_ok; rotate_left; with_unfolding_all rfl; with_unfolding_all rfl)
    | apply clearBook_ok | apply next_ok | apply iteA_ok | dsimp only | split)

end Sys2Proof.Machine
end

