-- ==== Sys2Proof/Laws/KeptVine.lean ====
section
/-!
SUPPORT. Laws/KeptVine.lean: every operation and command of Machine/Vine.lean keeps `Kept`.
-/
namespace Sys2Proof.Machine

set_option linter.unusedTactic false
set_option linter.unreachableTactic false
set_option linter.unusedVariables false

theorem leavePort_ok {base : State} (p : Nat) (st : PortSt) (reason : Nat) {s : State} (hk : Kept base s) : Kept base (leavePort p st reason
    s) := by
  unfold leavePort
  with_reducible repeat' (first
    | assumption | intro _ | apply ite_ok | apply drainQueue_ok | apply closePort_ok | apply modPort_ok | apply divertBind_ok
    | apply checkBuddies_ok | apply portEvt_ok | dsimp only | split)
theorem enterRetrain_ok {base : State} (p : Nat) (reason : Nat) {s : State} (hk : Kept base s) : Kept base (enterRetrain p reason s) := by
  unfold enterRetrain
  with_reducible repeat' (first
    | assumption | intro _ | apply ite_ok | apply modPort_ok | apply leavePort_ok | apply divertSlot_ok | apply drainQueue_ok
    | apply updReady_ok | dsimp only | split)
theorem resendFrom_ok {base : State} (p : Nat) (i : Nat) {s : State} (hk : Kept base s) : Kept base (resendFrom p i s) := by
  unfold resendFrom
  with_reducible repeat' (first
    | assumption | intro _ | apply ite_ok | apply forS_ok | apply emit_ok | apply modPort_ok | apply enterRetrain_ok | dsimp only
    | split)
theorem reopenPort_ok {base : State} (p : Nat) {s : State} (hk : Kept base s) : Kept base (reopenPort p s) := by
  unfold reopenPort
  with_reducible repeat' (first
    | assumption | intro _ | apply ite_ok | apply portEvt_ok | apply modPort_ok | apply drainQueue_ok | apply updReady_ok
    | apply resendFrom_ok | dsimp only | split)
theorem ackIn_ok {base : State} (p : Nat) (env : List Byte) {s : State} (hk : Kept base s) : Kept base (ackIn p env s) := by
  unfold ackIn
  with_reducible repeat' (first
    | assumption | intro _ | apply ite_ok | apply modPort_ok | apply drainQueue_ok | apply resendFrom_ok | dsimp only | split)
theorem arrive_ok {base : State} (b : Nat) (cls : Nat) (dest : Nat) (msg : List Byte) {s : State} (hk : Kept base s) : Kept base (arrive b
    cls dest msg s) := by
  unfold arrive
  with_reducible repeat' (first
    | assumption | intro _ | apply ite_ok | apply modVnl_ok | apply sendTo_ok | dsimp only | split)
theorem takePayload_ok {base : State} (p : Nat) (b : Nat) (env : List Byte) (plain : List Byte) {s : State} (hk : Kept base s) : Kept base
    (takePayload p b env plain s) := by
  unfold takePayload
  with_reducible repeat' (first
    | assumption | intro _ | apply ite_ok | apply arrive_ok | apply modPort_ok | dsimp only | split)
theorem takeFlit_ok {base : State} (p : Nat) (b : Nat) (env : List Byte) (plain : List Byte) {s : State} (hk : Kept base s) : Kept base
    (takeFlit p b env plain s) := by
  unfold takeFlit
  with_reducible repeat' (first
    | assumption | intro _ | apply ite_ok | apply modPort_ok | apply takePayload_ok | apply sendIdle_ok | apply checkBuddies_ok
    | apply closePort_ok | dsimp only | split)
theorem takeTrain_ok {base : State} (p : Nat) (env : List Byte) {s : State} (hk : Kept base s) : Kept base (takeTrain p env s) := by
  unfold takeTrain
  with_reducible repeat' (first
    | assumption | intro _ | apply ite_ok | apply modPort_ok | dsimp only | split)
theorem hbSeen_ok {base : State} (p : Nat) {s : State} (hk : Kept base s) : Kept base (hbSeen p s) := by
  unfold hbSeen
  with_reducible repeat' (first
    | assumption | intro _ | apply ite_ok | apply modPort_ok | apply slotHeard_ok | dsimp only | split)
theorem badFlit_ok {base : State} (p : Nat) (typ : Nat) (uncorr : Bool) {s : State} (hk : Kept base s) : Kept base (badFlit p typ uncorr s)
    := by
  unfold badFlit
  with_reducible repeat' (first
    | assumption | intro _ | apply ite_ok | apply modPort_ok | apply sendIdle_ok | apply enterRetrain_ok | dsimp only | split)
theorem flitIn_ok {base : State} (p : Nat) (corrected : Nat) (uncorr : Bool) (env : List Byte) (plain : List Byte) {s : State} (hk : Kept
    base s) : Kept base (flitIn p corrected uncorr env plain s) := by
  unfold flitIn
  with_reducible repeat' (first
    | assumption | intro _ | apply ite_ok | apply modPort_ok | apply badFlit_ok | apply hbSeen_ok | apply takeTrain_ok
    | apply takeFlit_ok | apply ackIn_ok | dsimp only | split)
theorem execFlitReceive_ok {base : State} (p : Nat) (corrected : Nat) (uncorr : Bool) (env : List Byte) (plain : List Byte) {s : State} (hk
    : Kept base s) : KeptA base (execFlitReceive p corrected uncorr env plain s) := by
  unfold execFlitReceive
  with_reducible repeat' (first
    | assumption | intro _ | apply ite_ok | apply iodClocked_ok | apply flitIn_ok | apply next_ok | apply iteA_ok | dsimp only | split)
theorem execRetryTimeout_ok {base : State} (p : Nat) {s : State} (hk : Kept base s) : KeptA base (execRetryTimeout p s) := by
  unfold execRetryTimeout
  with_reducible repeat' (first
    | assumption | intro _ | apply ite_ok | apply iodClocked_ok | apply resendFrom_ok | apply modPort_ok | apply next_ok | apply iteA_ok
    | dsimp only | split)
theorem execWindowRestart_ok {base : State} (p : Nat) {s : State} (hk : Kept base s) : KeptA base (execWindowRestart p s) := by
  unfold execWindowRestart
  with_reducible repeat' (first
    | assumption | intro _ | apply ite_ok | apply iodClocked_ok | apply modPort_ok | apply next_ok | apply iteA_ok | dsimp only | split)
theorem hbTick_ok {base : State} {s : State} (hk : Kept base s) : Kept base (hbTick s) := by
  unfold hbTick
  with_reducible repeat' (first
    | assumption | intro _ | apply ite_ok | apply forS_ok | apply sendIdle_ok | apply handOver_ok | apply countDivert_ok | dsimp only
    | split)
theorem execHbTimer_ok {base : State} {s : State} (hk : Kept base s) : KeptA base (execHbTimer s) := by
  unfold execHbTimer
  with_reducible repeat' (first
    | assumption | intro _ | apply ite_ok | apply iodClocked_ok | apply hbTick_ok | apply next_ok | apply iteA_ok | dsimp only | split)
theorem execLightLost_ok {base : State} (p : Nat) {s : State} (hk : Kept base s) : KeptA base (execLightLost p s) := by
  unfold execLightLost
  with_reducible repeat' (first
    | assumption | intro _ | apply ite_ok | apply iodClocked_ok | apply leavePort_ok | apply next_ok | apply iteA_ok | dsimp only
    | split)
theorem execLightStable_ok {base : State} (p : Nat) {s : State} (hk : Kept base s) : KeptA base (execLightStable p s) := by
  unfold execLightStable
  with_reducible repeat' (first
    | assumption | intro _ | apply ite_ok | apply iodClocked_ok | apply modPort_ok | apply next_ok | apply iteA_ok | dsimp only | split)
theorem identified_ok {base : State} (p : Nat) (peer : Nat) (peerPort : Nat) (circuit : Nat) {s : State} (hk : Kept base s) : Kept base
    (identified p peer peerPort circuit s) := by
  unfold identified
  with_reducible repeat' (first
    | assumption | intro _ | apply ite_ok | apply modPort_ok | apply modVnl_ok | dsimp only | split)
theorem execPortIdentify_ok {base : State} (p : Nat) (peer : Nat) (peerPort : Nat) (circuit : Nat) {s : State} (hk : Kept base s) : KeptA
    base (execPortIdentify p peer peerPort circuit s) := by
  unfold execPortIdentify
  with_reducible repeat' (first
    | assumption | intro _ | apply ite_ok | apply iodClocked_ok | apply identified_ok | apply next_ok | apply iteA_ok | dsimp only
    | split)
theorem execIdentifyRetry_ok {base : State} (p : Nat) (peer : Nat) (peerPort : Nat) (circuit : Nat) {s : State} (hk : Kept base s) : KeptA
    base (execIdentifyRetry p peer peerPort circuit s) := by
  unfold execIdentifyRetry
  with_reducible repeat' (first
    | assumption | intro _ | apply ite_ok | apply iodClocked_ok | apply identified_ok | apply next_ok | apply iteA_ok | dsimp only
    | split)
theorem execIdentTimeout_ok {base : State} (p : Nat) {s : State} (hk : Kept base s) : KeptA base (execIdentTimeout p s) := by
  unfold execIdentTimeout
  with_reducible repeat' (first
    | assumption | intro _ | apply ite_ok | apply iodClocked_ok | apply leavePort_ok | apply next_ok | apply iteA_ok | dsimp only
    | split)
theorem equalized_ok {base : State} (p : Nat) (ok : Bool) (coef : Nat) {s : State} (hk : Kept base s) : Kept base (equalized p ok coef s) :=
    by
  unfold equalized
  with_reducible repeat' (first
    | assumption | intro _ | apply ite_ok | apply modPort_ok | apply modVnl_ok | apply leavePort_ok | dsimp only | split)
theorem execEqualizeDone_ok {base : State} (p : Nat) (ok : Bool) (coef : Nat) {s : State} (hk : Kept base s) : KeptA base (execEqualizeDone
    p ok coef s) := by
  unfold execEqualizeDone
  with_reducible repeat' (first
    | assumption | intro _ | apply ite_ok | apply iodClocked_ok | apply equalized_ok | apply next_ok | apply iteA_ok | dsimp only
    | split)
theorem execAlignDone_ok {base : State} (p : Nat) (ok : Bool) {s : State} (hk : Kept base s) : KeptA base (execAlignDone p ok s) := by
  unfold execAlignDone
  with_reducible repeat' (first
    | assumption | intro _ | apply ite_ok | apply iodClocked_ok | apply reopenPort_ok | apply portEvt_ok | apply enterHedged_ok
    | apply modPort_ok | apply next_ok | apply iteA_ok | dsimp only | split)
theorem execRetrainDone_ok {base : State} (p : Nat) (ok : Bool) {s : State} (hk : Kept base s) : KeptA base (execRetrainDone p ok s) := by
  unfold execRetrainDone
  with_reducible repeat' (first
    | assumption | intro _ | apply ite_ok | apply iodClocked_ok | apply reopenPort_ok | apply enterHedged_ok | apply modPort_ok
    | apply next_ok | apply iteA_ok | dsimp only | split)
theorem execSlotLost_ok {base : State} (b : Nat) (k : Nat) {s : State} (hk : Kept base s) : KeptA base (execSlotLost b k s) := by
  unfold execSlotLost
  with_reducible repeat' (first
    | assumption | intro _ | apply ite_ok | apply iodClocked_ok | apply faultOne_ok | apply noteT_ok | apply next_ok | apply iteA_ok
    | dsimp only | split)
theorem dropTrain_ok {base : State} (p : Nat) {s : State} (hk : Kept base s) : Kept base (dropTrain p s) := by
  unfold dropTrain
  with_reducible repeat' (first
    | assumption | intro _ | apply ite_ok | apply modPort_ok | dsimp only | split)
theorem modShake_ok {base : State} (p : Nat) (f : Shake → Shake) {s : State} (hk : Kept base s) : Kept base (modShake p f s) := by
  unfold modShake
  with_reducible repeat' (first
    | assumption | intro _ | apply ite_ok | apply modPort_ok | dsimp only | split)
theorem answered_ok {base : State} (p : Nat) (codes : List Nat) {s : State} (hk : Kept base s) : Kept base (answered p codes s) := by
  unfold answered
  with_reducible repeat' (first
    | assumption | intro _ | apply ite_ok | apply modShake_ok | dsimp only | split)
theorem sendCert_ok {base : State} (p : Nat) {s : State} (hk : Kept base s) : Kept base (sendCert p s) := by
  unfold sendCert
  with_reducible repeat' (first
    | assumption | intro _ | apply ite_ok | apply hsSend_ok | dsimp only | split)
theorem attemptEnds_ok {base : State} (p : Nat) (reason : Nat) {s : State} (hk : Kept base s) : Kept base (attemptEnds p reason s) := by
  unfold attemptEnds
  with_reducible repeat' (first
    | assumption | intro _ | apply ite_ok | apply modPort_ok | dsimp only | split)
theorem takeHello_ok {base : State} (p : Nat) (m : List Byte) {s : State} (hk : Kept base s) : Kept base (takeHello p m s) := by
  unfold takeHello
  with_reducible repeat' (first
    | assumption | intro _ | apply ite_ok | apply modShake_ok | apply askToken_ok | apply sendCert_ok | dsimp only | split)
theorem execHsHello_ok {base : State} (p : Nat) {s : State} (hk : Kept base s) : KeptA base (execHsHello p s) := by
  unfold execHsHello
  with_reducible repeat' (first
    | assumption | intro _ | apply ite_ok | apply iodClocked_ok | apply takeHello_ok | apply dropTrain_ok | apply next_ok
    | apply iteA_ok | dsimp only | split)
theorem startVerify_ok {base : State} (p : Nat) {s : State} (hk : Kept base s) : Kept base (startVerify p s) := by
  unfold startVerify
  with_reducible repeat' (first
    | assumption | intro _ | apply ite_ok | apply modShake_ok | dsimp only | split)
theorem takeCert_ok {base : State} (p : Nat) (m : List Byte) {s : State} (hk : Kept base s) : Kept base (takeCert p m s) := by
  unfold takeCert
  with_reducible repeat' (first
    | assumption | intro _ | apply ite_ok | apply modVnl_ok | apply answered_ok | apply sendCert_ok | apply startVerify_ok
    | apply askToken_ok | apply modShake_ok | apply attemptEnds_ok | apply hsSend_ok | dsimp only | split)
theorem execHsCert_ok {base : State} (p : Nat) {s : State} (hk : Kept base s) : KeptA base (execHsCert p s) := by
  unfold execHsCert
  with_reducible repeat' (first
    | assumption | intro _ | apply ite_ok | apply iodClocked_ok | apply takeCert_ok | apply dropTrain_ok | apply next_ok | apply iteA_ok
    | dsimp only | split)
theorem tokenSigned_ok {base : State} (p : Nat) {s : State} (hk : Kept base s) : Kept base (tokenSigned p s) := by
  unfold tokenSigned
  with_reducible repeat' (first
    | assumption | intro _ | apply ite_ok | apply tryOpen_ok | apply hsSend_ok | apply modShake_ok | apply askToken_ok | dsimp only
    | split)
theorem execTokenSignDone_ok {base : State} (p : Nat) {s : State} (hk : Kept base s) : KeptA base (execTokenSignDone p s) := by
  unfold execTokenSignDone
  with_reducible repeat' (first
    | assumption | intro _ | apply ite_ok | apply iodClocked_ok | apply tokenSigned_ok | apply next_ok | apply iteA_ok | dsimp only
    | split)
theorem execHsToken_ok {base : State} (p : Nat) {s : State} (hk : Kept base s) : KeptA base (execHsToken p s) := by
  unfold execHsToken
  with_reducible repeat' (first
    | assumption | intro _ | apply ite_ok | apply iodClocked_ok | apply startVerify_ok | apply modShake_ok | apply answered_ok
    | apply dropTrain_ok | apply next_ok | apply iteA_ok | dsimp only | split)
theorem tokenVerified_ok {base : State} (p : Nat) {s : State} (hk : Kept base s) : Kept base (tokenVerified p s) := by
  unfold tokenVerified
  with_reducible repeat' (first
    | assumption | intro _ | apply ite_ok | apply hsSend_ok | apply modShake_ok | apply tryOpen_ok | apply attemptEnds_ok | dsimp only
    | split)
theorem execTokenVerifyDone_ok {base : State} (p : Nat) {s : State} (hk : Kept base s) : KeptA base (execTokenVerifyDone p s) := by
  unfold execTokenVerifyDone
  with_reducible repeat' (first
    | assumption | intro _ | apply ite_ok | apply iodClocked_ok | apply tokenVerified_ok | apply next_ok | apply iteA_ok | dsimp only
    | split)
theorem execHsVerdict_ok {base : State} (p : Nat) {s : State} (hk : Kept base s) : KeptA base (execHsVerdict p s) := by
  unfold execHsVerdict
  with_reducible repeat' (first
    | assumption | intro _ | apply ite_ok | apply iodClocked_ok | apply answered_ok | apply dropTrain_ok | apply attemptEnds_ok
    | apply tryOpen_ok | apply modShake_ok | apply next_ok | apply iteA_ok | dsimp only | split)
theorem execHsWait_ok {base : State} (p : Nat) {s : State} (hk : Kept base s) : KeptA base (execHsWait p s) := by
  unfold execHsWait
  with_reducible repeat' (first
    | assumption | intro _ | apply ite_ok | apply iodClocked_ok | apply answered_ok | apply dropTrain_ok | apply next_ok | apply iteA_ok
    | dsimp only | split)
theorem execHandshakeResend_ok {base : State} (p : Nat) {s : State} (hk : Kept base s) : KeptA base (execHandshakeResend p s) := by
  unfold execHandshakeResend
  with_reducible repeat' (first
    | assumption | intro _ | apply ite_ok | apply iodClocked_ok | apply askToken_ok | apply sendTrain_ok | apply next_ok | apply iteA_ok
    | dsimp only | split)
theorem execHandshakeTimeout_ok {base : State} (p : Nat) {s : State} (hk : Kept base s) : KeptA base (execHandshakeTimeout p s) := by
  unfold execHandshakeTimeout
  with_reducible repeat' (first
    | assumption | intro _ | apply ite_ok | apply iodClocked_ok | apply attemptEnds_ok | apply next_ok | apply iteA_ok | dsimp only
    | split)
theorem execHandshakeRestart_ok {base : State} (p : Nat) {s : State} (hk : Kept base s) : KeptA base (execHandshakeRestart p s) := by
  unfold execHandshakeRestart
  with_reducible repeat' (first
    | assumption | intro _ | apply ite_ok | apply iodClocked_ok | apply hsHelloStart_ok | apply next_ok | apply iteA_ok | dsimp only
    | split)
theorem marginIn_ok {base : State} (p : Nat) (lane : Nat) (pw : Nat) (eye : Nat) {s : State} (hk : Kept base s) : Kept base (marginIn p lane
    pw eye s) := by
  unfold marginIn
  with_reducible repeat' (first
    | assumption | intro _ | apply ite_ok | apply modPort_ok | apply upEvent_ok | apply wiltJoin_ok | apply noteT_ok | apply record_ok
    | dsimp only | split)
theorem execMarginMeasure_ok {base : State} (p : Nat) (lane : Nat) (pw : Nat) (eye : Nat) {s : State} (hk : Kept base s) : KeptA base
    (execMarginMeasure p lane pw eye s) := by
  unfold execMarginMeasure
  with_reducible repeat' (first
    | assumption | intro _ | apply ite_ok | apply iodClocked_ok | apply marginIn_ok | apply next_ok | apply iteA_ok | dsimp only | split)
theorem execVnlErrClr_ok {base : State} (acc : Acc) (p : Nat) {s : State} (hk : Kept base s) : KeptA base (execVnlErrClr acc p s) := by
  unfold execVnlErrClr
  with_reducible repeat' (first
    | assumption | intro _ | apply ite_ok | apply modPort_ok | apply next_ok | apply iteA_ok | dsimp only | split)
theorem execVnlMemoClrLinks_ok {base : State} (acc : Acc) {s : State} (hk : Kept base s) : KeptA base (execVnlMemoClrLinks acc s) := by
  unfold execVnlMemoClrLinks
  with_reducible repeat' (first
    | assumption | intro _ | apply ite_ok | apply modVnl_ok | apply next_ok | apply iteA_ok | dsimp only | split)
theorem execVnlMemoClrRoutes_ok {base : State} (acc : Acc) {s : State} (hk : Kept base s) : KeptA base (execVnlMemoClrRoutes acc s) := by
  unfold execVnlMemoClrRoutes
  with_reducible repeat' (first
    | assumption | intro _ | apply ite_ok | apply modVnl_ok | apply next_ok | apply iteA_ok | dsimp only | split)

end Sys2Proof.Machine
end

