-- ==== Sys2Proof/Laws/KeptCelSvc.lean ====
section
/-!
SUPPORT. Laws/KeptCelSvc.lean: every operation and command of Machine/CelSvc.lean keeps `Kept`.
-/
namespace Sys2Proof.Machine

set_option linter.unusedTactic false
set_option linter.unreachableTactic false
set_option linter.unusedVariables false

theorem execSwitchover_ok {base : State} (acc : Acc) {s : State} (hk : Kept base s) : KeptA base (execSwitchover acc s) := by
  unfold execSwitchover
  with_reducible repeat' (first
    | assumption | intro _ | apply ite_ok | (apply modCel_ok; rotate_left; with_unfolding_all rfl)
    | (apply modCel_none; rotate_left; with_unfolding_all rfl) | apply next_ok | apply iteA_ok | dsimp only | split)
theorem execRestartStandby_ok {base : State} (acc : Acc) {s : State} (hk : Kept base s) : KeptA base (execRestartStandby acc s) := by
  unfold execRestartStandby
  with_reducible repeat' (first
    | assumption | intro _ | apply ite_ok | apply restartStandby_ok | apply next_ok | apply iteA_ok | dsimp only | split)
theorem pairAlarm_ok {base : State} (owner : Bool) (ka : Bool) {s : State} (hk : Kept base s) : Kept base (pairAlarm owner ka s) := by
  unfold pairAlarm
  with_reducible repeat' (first
    | assumption | intro _ | apply ite_ok | apply record_ok | dsimp only | split)
theorem ownerSilent_ok {base : State} (ka : Bool) {s : State} (hk : Kept base s) : Kept base (ownerSilent ka s) := by
  unfold ownerSilent
  with_reducible repeat' (first
    | assumption | intro _ | apply ite_ok | apply hotTakeover_ok | apply coldTakeover_ok | apply pairAlarm_ok
    | (apply modCel_ok; rotate_left; with_unfolding_all rfl) | (apply modCel_none; rotate_left; with_unfolding_all rfl) | dsimp only
    | split)
theorem standbySilent_ok {base : State} (ka : Bool) {s : State} (hk : Kept base s) : Kept base (standbySilent ka s) := by
  unfold standbySilent
  with_reducible repeat' (first
    | assumption | intro _ | apply ite_ok | (apply modCel_ok; rotate_left; with_unfolding_all rfl)
    | (apply modCel_none; rotate_left; with_unfolding_all rfl) | apply standbyLost_ok | apply pairAlarm_ok | dsimp only | split)
theorem execPathSilence_ok {base : State} (owner : Bool) (ka : Bool) {s : State} (hk : Kept base s) : KeptA base (execPathSilence owner ka
    s) := by
  unfold execPathSilence
  with_reducible repeat' (first
    | assumption | intro _ | apply ite_ok | apply clocked_ok | apply standbySilent_ok | apply ownerSilent_ok | apply next_ok
    | apply iteA_ok | dsimp only | split)
theorem execKeepaliveEdge_ok {base : State} (owner : Bool) {s : State} (hk : Kept base s) : KeptA base (execKeepaliveEdge owner s) := by
  unfold execKeepaliveEdge
  with_reducible repeat' (first
    | assumption | intro _ | apply ite_ok | apply clocked_ok | (apply modCel_ok; rotate_left; with_unfolding_all rfl)
    | (apply modCel_none; rotate_left; with_unfolding_all rfl) | apply next_ok | apply iteA_ok | dsimp only | split)
theorem execStandbyCycle_ok {base : State} {s : State} (hk : Kept base s) : KeptA base (execStandbyCycle s) := by
  unfold execStandbyCycle
  with_reducible repeat' (first
    | assumption | intro _ | apply ite_ok | apply clocked_ok | apply next_ok | apply iteA_ok | dsimp only | split)
theorem execWatchdogExpiry_ok {base : State} {s : State} (hk : Kept base s) : KeptA base (execWatchdogExpiry s) := by
  unfold execWatchdogExpiry
  with_reducible repeat' (first
    | assumption | intro _ | apply ite_ok | apply clocked_ok | apply faultRelease_ok | apply next_ok | apply iteA_ok | dsimp only
    | split)
theorem execCellarerUe_ok {base : State} {s : State} (hk : Kept base s) : KeptA base (execCellarerUe s) := by
  unfold execCellarerUe
  with_reducible repeat' (first
    | assumption | intro _ | apply ite_ok | apply clocked_ok | apply faultRelease_ok | apply next_ok | apply iteA_ok | dsimp only
    | split)
theorem execOwnGrant_ok {base : State} {s : State} (hk : Kept base s) : KeptA base (execOwnGrant s) := by
  unfold execOwnGrant
  with_reducible repeat' (first
    | assumption | intro _ | apply ite_ok | apply clocked_ok | apply runUpdWait_ok
    | (apply modCel_ok; rotate_left; with_unfolding_all rfl) | (apply modCel_none; rotate_left; with_unfolding_all rfl) | apply next_ok
    | apply iteA_ok | dsimp only | split)
theorem execOwnDefaultTimeout_ok {base : State} {s : State} (hk : Kept base s) : KeptA base (execOwnDefaultTimeout s) := by
  unfold execOwnDefaultTimeout
  with_reducible repeat' (first
    | assumption | intro _ | apply ite_ok | apply clocked_ok | (apply modCel_ok; rotate_left; with_unfolding_all rfl)
    | (apply modCel_none; rotate_left; with_unfolding_all rfl) | apply next_ok | apply iteA_ok | dsimp only | split)
theorem execStandbyBootDone_ok {base : State} {s : State} (hk : Kept base s) : KeptA base (execStandbyBootDone s) := by
  unfold execStandbyBootDone
  with_reducible repeat' (first
    | assumption | intro _ | apply ite_ok | apply clocked_ok | apply allHeard_ok | apply setDie_ok | apply next_ok | apply iteA_ok
    | dsimp only | split)
theorem execStandbySyncDone_ok {base : State} {s : State} (hk : Kept base s) : KeptA base (execStandbySyncDone s) := by
  unfold execStandbySyncDone
  with_reducible repeat' (first
    | assumption | intro _ | apply ite_ok | apply clocked_ok | apply record_ok | apply allHeard_ok
    | (apply modCel_ok; rotate_left; with_unfolding_all rfl) | (apply modCel_none; rotate_left; with_unfolding_all rfl)
    | apply setDie_ok | apply next_ok | apply iteA_ok | dsimp only | split)
theorem sawFrame_ok {base : State} (b : List Byte) {s : State} (hk : Kept base s) : Kept base (sawFrame b s) := by
  unfold sawFrame
  with_reducible repeat' (first
    | assumption | intro _ | apply ite_ok | apply modPol_ok | dsimp only | split)
theorem takeHeartbeat_ok {base : State} (m : Nat) (body : List Byte) {s : State} (hk : Kept base s) : Kept base (takeHeartbeat m body s) :=
    by
  unfold takeHeartbeat
  with_reducible repeat' (first
    | assumption | intro _ | apply ite_ok | apply judgePeer_ok | apply modPeer_ok | apply wiltJoin_ok | apply wiltLeave_ok | dsimp only
    | split)
theorem execSvcHeartbeat_ok {base : State} (frame : List Byte) (body : List Byte) {s : State} (hk : Kept base s) : KeptA base
    (execSvcHeartbeat frame body s) := by
  unfold execSvcHeartbeat
  with_reducible repeat' (first
    | assumption | intro _ | apply ite_ok | apply clocked_ok | apply takeHeartbeat_ok | apply sawFrame_ok | apply next_ok
    | apply iteA_ok | dsimp only | split)
theorem execSvcNotice_ok {base : State} (frame : List Byte) (body : List Byte) {s : State} (hk : Kept base s) : KeptA base (execSvcNotice
    frame body s) := by
  unfold execSvcNotice
  with_reducible repeat' (first
    | assumption | intro _ | apply ite_ok | apply clocked_ok | apply modPol_ok | apply sawFrame_ok | apply next_ok | apply iteA_ok
    | dsimp only | split)
theorem takeDiverted_ok {base : State} (p : Nat) (b : Nat) (env : List Byte) (plain : List Byte) {s : State} (hk : Kept base s) : Kept base
    (takeDiverted p b env plain s) := by
  unfold takeDiverted
  with_reducible repeat' (first
    | assumption | intro _ | apply ite_ok | apply modPort_ok | apply arrive_ok | dsimp only | split)
theorem takeEnvelope_ok {base : State} (b : Nat) (k : Nat) (env : List Byte) (plain : List Byte) {s : State} (hk : Kept base s) : Kept base
    (takeEnvelope b k env plain s) := by
  unfold takeEnvelope
  with_reducible repeat' (first
    | assumption | intro _ | apply ite_ok | apply slotHeard_ok | apply takeDiverted_ok | dsimp only | split)
theorem takeDivert_ok {base : State} (m : Nat) (body : List Byte) (plains : List (List Byte)) {s : State} (hk : Kept base s) : Kept base
    (takeDivert m body plains s) := by
  unfold takeDivert
  with_reducible repeat' (first
    | assumption | intro _ | apply ite_ok | apply forS_ok | apply takeEnvelope_ok | dsimp only | split)
theorem execSvcDivert_ok {base : State} (frame : List Byte) (body : List Byte) (plains : List (List Byte)) {s : State} (hk : Kept base s) :
    KeptA base (execSvcDivert frame body plains s) := by
  unfold execSvcDivert
  with_reducible repeat' (first
    | assumption | intro _ | apply ite_ok | apply clocked_ok | apply takeDivert_ok | apply sawFrame_ok | apply next_ok | apply iteA_ok
    | dsimp only | split)
theorem svcAnswer_ok {base : State} (proto : Nat) (src : Nat) (target : Nat) (bytes : List Byte) {s : State} (hk : Kept base s) : Kept base
    (svcAnswer proto src target bytes s) := by
  unfold svcAnswer
  with_reducible repeat' (first
    | assumption | intro _ | apply ite_ok | apply emit_ok | dsimp only | split)
theorem execArpRequest_ok {base : State} (src : Nat) (target : Nat) {s : State} (hk : Kept base s) : KeptA base (execArpRequest src target
    s) := by
  unfold execArpRequest
  with_reducible repeat' (first
    | assumption | intro _ | apply ite_ok | apply clocked_ok | apply svcAnswer_ok | apply next_ok | apply iteA_ok | dsimp only | split)
theorem execNeighborSolicitation_ok {base : State} (src : Nat) (target : Nat) {s : State} (hk : Kept base s) : KeptA base
    (execNeighborSolicitation src target s) := by
  unfold execNeighborSolicitation
  with_reducible repeat' (first
    | assumption | intro _ | apply ite_ok | apply clocked_ok | apply svcAnswer_ok | apply next_ok | apply iteA_ok | dsimp only | split)
theorem execIcmpEcho_ok {base : State} (src : Nat) (target : Nat) (data : List Byte) {s : State} (hk : Kept base s) : KeptA base
    (execIcmpEcho src target data s) := by
  unfold execIcmpEcho
  with_reducible repeat' (first
    | assumption | intro _ | apply ite_ok | apply clocked_ok | apply svcAnswer_ok | apply next_ok | apply iteA_ok | dsimp only | split)
theorem execNtpResponse_ok {base : State} (bytes : List Byte) {s : State} (hk : Kept base s) : KeptA base (execNtpResponse bytes s) := by
  unfold execNtpResponse
  with_reducible repeat' (first
    | assumption | intro _ | apply ite_ok | apply clocked_ok | apply modPol_ok | apply next_ok | apply iteA_ok | dsimp only | split)
theorem execSvcHeartbeatTimer_ok {base : State} {s : State} (hk : Kept base s) : KeptA base (execSvcHeartbeatTimer s) := by
  unfold execSvcHeartbeatTimer
  with_reducible repeat' (first
    | assumption | intro _ | apply ite_ok | apply clocked_ok | (apply modCel_ok; rotate_left; with_unfolding_all rfl)
    | (apply modCel_none; rotate_left; with_unfolding_all rfl) | apply next_ok | apply iteA_ok | dsimp only | split)
theorem execPeerLinkSilence_ok {base : State} (b : Nat) (k : Nat) {s : State} (hk : Kept base s) : KeptA base (execPeerLinkSilence b k s) :=
    by
  unfold execPeerLinkSilence
  with_reducible repeat' (first
    | assumption | intro _ | apply ite_ok | apply clocked_ok | apply slotGone_ok | apply next_ok | apply iteA_ok | dsimp only | split)
theorem execPeerSvcSilence_ok {base : State} (e : Nat) {s : State} (hk : Kept base s) : KeptA base (execPeerSvcSilence e s) := by
  unfold execPeerSvcSilence
  with_reducible repeat' (first
    | assumption | intro _ | apply ite_ok | apply clocked_ok | apply judgePeer_ok | apply modPeer_ok | apply next_ok | apply iteA_ok
    | dsimp only | split)
theorem execPortTimerExpiry_ok {base : State} (p : Nat) {s : State} (hk : Kept base s) : KeptA base (execPortTimerExpiry p s) := by
  unfold execPortTimerExpiry
  with_reducible repeat' (first
    | assumption | intro _ | apply ite_ok | apply clocked_ok | apply portEvt_ok | apply modPol_ok | apply next_ok | apply iteA_ok
    | dsimp only | split)
theorem execWiltMarginClear_ok {base : State} (p : Nat) {s : State} (hk : Kept base s) : KeptA base (execWiltMarginClear p s) := by
  unfold execWiltMarginClear
  with_reducible repeat' (first
    | assumption | intro _ | apply ite_ok | apply clocked_ok | apply wiltLeave_ok | apply next_ok | apply iteA_ok | dsimp only | split)
theorem execHoursPersist_ok {base : State} {s : State} (hk : Kept base s) : KeptA base (execHoursPersist s) := by
  unfold execHoursPersist
  with_reducible repeat' (first
    | assumption | intro _ | apply ite_ok | apply clocked_ok
    | (apply modBook_ok; rotate_left; with_unfolding_all rfl; with_unfolding_all rfl) | apply next_ok | apply iteA_ok | dsimp only
    | split)

end Sys2Proof.Machine
end

