-- ==== Sys2Proof/Laws/KeptDma.lean ====
section
/-!
SUPPORT. Laws/KeptDma.lean: every operation and command of Machine/Dma.lean keeps `Kept`.
-/
namespace Sys2Proof.Machine

set_option linter.unusedTactic false
set_option linter.unreachableTactic false
set_option linter.unusedVariables false

theorem execNop_ok {base : State} (tag : Nat) {s : State} (hk : Kept base s) : KeptA base (execNop tag s) := by
  unfold execNop
  with_reducible repeat' (first
    | assumption | intro _ | apply ite_ok | apply startDesc_ok | apply done_ok | apply next_ok | apply iteA_ok | dsimp only | split)
theorem fenceTry_ok {base : State} (tag : Nat) {s : State} (hk : Kept base s) : Kept base (fenceTry tag s) := by
  unfold fenceTry
  with_reducible repeat' (first
    | assumption | intro _ | apply ite_ok | apply done_ok | dsimp only | split)
theorem fenceStart_ok {base : State} (tag : Nat) {s : State} (hk : Kept base s) : Kept base (fenceStart tag s) := by
  unfold fenceStart
  with_reducible repeat' (first
    | assumption | intro _ | apply ite_ok | apply fenceTry_ok | apply done_ok | apply modLive_ok | dsimp only | split)
theorem execFence_ok {base : State} (tag : Nat) {s : State} (hk : Kept base s) : KeptA base (execFence tag s) := by
  unfold execFence
  with_reducible repeat' (first
    | assumption | intro _ | apply ite_ok | apply fenceTry_ok | apply startDesc_ok | apply fenceStart_ok | apply next_ok | apply iteA_ok
    | dsimp only | split)
theorem toHost_ok {base : State} (t : Nat) (addr : Nat) (bs : List Byte) {s : State} (hk : Kept base s) : Kept base (toHost t addr bs s) :=
    by
  unfold toHost
  with_reducible repeat' (first
    | assumption | intro _ | apply ite_ok | apply emit_ok | dsimp only | split)
theorem dmaPut_ok {base : State} (tag : Nat) (t : Nat) (op : Nat) (d : List Byte) (step : Option Nat) (pos : Nat) (bs : List Byte) {s :
    State} (hk : Kept base s) : Kept base (dmaPut tag t op d step pos bs s) := by
  unfold dmaPut
  with_reducible repeat' (first
    | assumption | intro _ | apply ite_ok | apply toHost_ok | apply hWrite_ok | dsimp only | split)
theorem dmaEnds_ok {base : State} (tag : Nat) (status : Nat) (detail : Nat) (result : Nat) {s : State} (hk : Kept base s) : Kept base
    (dmaEnds tag status detail result s) := by
  unfold dmaEnds
  with_reducible repeat' (first
    | assumption | intro _ | apply ite_ok | apply modLive_ok | dsimp only | split)
theorem dmaConsume_ok {base : State} (tag : Nat) (t : Nat) (op : Nat) (l : Live) (bs : List Byte) (b : Nat × Nat × Nat × Nat) {s : State}
    (hk : Kept base s) : Kept base (dmaConsume tag t op l bs b s) := by
  unfold dmaConsume
  with_reducible repeat' (first
    | assumption | intro _ | apply ite_ok | apply poisonFault_ok | apply modLive_ok | apply fresh_ok | apply dmaPut_ok | apply forS_ok
    | apply dmaEnds_ok | dsimp only | split)
theorem dmaHold_ok {base : State} (tag : Nat) (t : Nat) (n : Nat) (d : List Byte) (bs : List Byte) {s : State} (hk : Kept base s) : Kept
    base (dmaHold tag t n d bs s) := by
  unfold dmaHold
  with_reducible repeat' (first
    | assumption | intro _ | apply ite_ok | apply modLive_ok | apply updStall_ok | apply failStep_ok | apply dmaEnds_ok
    | apply modStp_ok | dsimp only | split)
theorem dmaTry_ok {base : State} (tag : Nat) {s : State} (hk : Kept base s) : Kept base (dmaTry tag s) := by
  unfold dmaTry
  with_reducible repeat' (first
    | assumption | intro _ | apply ite_ok | apply modLive_ok | apply forS_ok | apply whenS_ok | apply wakeUp_ok | apply promoteRange_ok
    | apply dmaConsume_ok | apply dmaHold_ok | apply dmaEnds_ok | apply toHost_ok | apply dmaPut_ok | dsimp only | split)
theorem readHost_ok {base : State} (op : Nat) (t : Nat) (d : List Byte) {s : State} (hk : Kept base s) : Kept base (readHost op t d s) := by
  unfold readHost
  with_reducible repeat' (first
    | assumption | intro _ | apply ite_ok | apply emit_ok | dsimp only | split)
theorem dmaStart_ok {base : State} (tag : Nat) (op : Nat) (buf : List Byte) {s : State} (hk : Kept base s) : Kept base (dmaStart tag op buf
    s) := by
  unfold dmaStart
  with_reducible repeat' (first
    | assumption | intro _ | apply ite_ok | apply startDesc_ok | apply done_ok | apply dmaTry_ok | apply readHost_ok | apply modLive_ok
    | dsimp only | split)
theorem execDmaH2d_ok {base : State} (tag : Nat) (flt : Nat) (bytes : List Byte) {s : State} (hk : Kept base s) : KeptA base (execDmaH2d tag
    flt bytes s) := by
  unfold execDmaH2d
  with_reducible repeat' (first
    | assumption | intro _ | apply ite_ok | apply dmaStart_ok | apply startDesc_ok | apply done_ok | apply readHost_ok | apply next_ok
    | apply iteA_ok | dsimp only | split)
theorem execDmaD2h_ok {base : State} (tag : Nat) {s : State} (hk : Kept base s) : KeptA base (execDmaD2h tag s) := by
  unfold execDmaD2h
  with_reducible repeat' (first
    | assumption | intro _ | apply ite_ok | apply dmaStart_ok | apply next_ok | apply iteA_ok | dsimp only | split)
theorem execDmaCopy_ok {base : State} (tag : Nat) {s : State} (hk : Kept base s) : KeptA base (execDmaCopy tag s) := by
  unfold execDmaCopy
  with_reducible repeat' (first
    | assumption | intro _ | apply ite_ok | apply dmaStart_ok | apply next_ok | apply iteA_ok | dsimp only | split)
theorem execDmaFill_ok {base : State} (tag : Nat) {s : State} (hk : Kept base s) : KeptA base (execDmaFill tag s) := by
  unfold execDmaFill
  with_reducible repeat' (first
    | assumption | intro _ | apply ite_ok | apply dmaStart_ok | apply next_ok | apply iteA_ok | dsimp only | split)
theorem execDmaDone_ok {base : State} (tag : Nat) {s : State} (hk : Kept base s) : KeptA base (execDmaDone tag s) := by
  unfold execDmaDone
  with_reducible repeat' (first
    | assumption | intro _ | apply ite_ok | apply dmaTry_ok | apply done_ok | apply next_ok | apply iteA_ok | dsimp only | split)
theorem startDemotion_ok {base : State} (v : Option (Nat × Nat × Nat × Nat)) {s : State} (hk : Kept base s) : Kept base (startDemotion v s)
    := by
  unfold startDemotion
  with_reducible repeat' (first
    | assumption | intro _ | apply ite_ok | apply modPln_ok | dsimp only | split)
theorem createPages_some {base : State} (h t tier die : Nat) (n p : Nat) (s : State) (hk : Kept base s) (u : State)
    (hu : createPages h t tier die n p s = some u) : Kept base u := by
  induction n generalizing p s with
  | zero => cases hu; exact hk
  | succ n ih =>
    unfold createPages at hu
    dsimp only at hu
    split at hu
    · exact ih _ _ (countUnmet_ok _ _ (modPln_ok _ hk)) hu
    · cases hu
theorem createNew_ok {base : State} (tag : Nat) (t : Nat) (h : Nat) (hd : Hnd) (d : List Byte) {s : State} (hk : Kept base s) : Kept base
    (createNew tag t h hd d s) := by
  unfold createNew
  dsimp only
  split
  · next h => exact done_ok _ _ _ _ (createPages_some _ _ _ _ _ _ _ (modPln_ok _ hk) _ h)
  · exact modLive_ok _ _ (startDemotion_ok _ hk)
theorem createTry_ok {base : State} (tag : Nat) (want : Nat) {s : State} (hk : Kept base s) : Kept base (createTry tag want s) := by
  unfold createTry
  with_reducible repeat' (first
    | assumption | intro _ | apply ite_ok | apply done_ok | apply createNew_ok | dsimp only | split)
theorem createAgain_ok {base : State} (tag : Nat) {s : State} (hk : Kept base s) : Kept base (createAgain tag s) := by
  unfold createAgain
  with_reducible repeat' (first
    | assumption | intro _ | apply ite_ok | apply modLive_ok | apply createTry_ok | dsimp only | split)
theorem execHandleCreate_ok {base : State} (tag : Nat) (want : Nat) {s : State} (hk : Kept base s) : KeptA base (execHandleCreate tag want
    s) := by
  unfold execHandleCreate
  with_reducible repeat' (first
    | assumption | intro _ | apply ite_ok | apply createAgain_ok | apply startDesc_ok | apply createTry_ok | apply next_ok
    | apply iteA_ok | dsimp only | split)
theorem retryCreates_ok {base : State} {s : State} (hk : Kept base s) : Kept base (retryCreates s) := by
  unfold retryCreates
  with_reducible repeat' (first
    | assumption | intro _ | apply ite_ok | apply forS_ok | apply createAgain_ok | dsimp only | split)
theorem execPageZeroizeDone_ok {base : State} (tier : Nat) (stack : Nat) {s : State} (hk : Kept base s) : KeptA base (execPageZeroizeDone
    tier stack s) := by
  unfold execPageZeroizeDone
  with_reducible repeat' (first
    | assumption | intro _ | apply ite_ok | apply retryCreates_ok | apply zeroizeDone_ok | apply next_ok | apply iteA_ok | dsimp only
    | split)
theorem execHandleFree_ok {base : State} (tag : Nat) {s : State} (hk : Kept base s) : KeptA base (execHandleFree tag s) := by
  unfold execHandleFree
  with_reducible repeat' (first
    | assumption | intro _ | apply ite_ok | apply startDesc_ok | apply done_ok | apply modHnd_ok | apply next_ok | apply iteA_ok
    | dsimp only | split)
theorem execHandleHint_ok {base : State} (tag : Nat) {s : State} (hk : Kept base s) : KeptA base (execHandleHint tag s) := by
  unfold execHandleHint
  with_reducible repeat' (first
    | assumption | intro _ | apply ite_ok | apply startDesc_ok | apply done_ok | apply forS_ok | apply modPage_ok | apply evalPage_ok
    | apply next_ok | apply iteA_ok | dsimp only | split)
theorem execHandleQuery_ok {base : State} (tag : Nat) {s : State} (hk : Kept base s) : KeptA base (execHandleQuery tag s) := by
  unfold execHandleQuery
  with_reducible repeat' (first
    | assumption | intro _ | apply ite_ok | apply startDesc_ok | apply done_ok | apply next_ok | apply iteA_ok | dsimp only | split)

end Sys2Proof.Machine
end

