-- ==== Sys2Proof/Laws/KeptSteps.lean ====
section
/-!
SUPPORT. Laws/KeptSteps.lean: every operation and command of Machine/Steps.lean keeps `Kept`.
-/
namespace Sys2Proof.Machine

set_option linter.unusedTactic false
set_option linter.unreachableTactic false
set_option linter.unusedVariables false

theorem stepErr_ok {base : State} (tag : Nat) (status : Nat) (detail : Nat) (l : Live) {s : State} (hk : Kept base s) : Kept base (stepErr
    tag status detail l s) := by
  unfold stepErr
  with_reducible repeat' (first
    | assumption | intro _ | apply ite_ok | apply done_ok | apply modLive_ok | dsimp only | split)
theorem execStepOpen_ok {base : State} (tag : Nat) {s : State} (hk : Kept base s) : KeptA base (execStepOpen tag s) := by
  unfold execStepOpen
  with_reducible repeat' (first
    | assumption | intro _ | apply ite_ok | apply completeNow_ok | apply stepErr_ok | apply modLive_ok | apply openNow_ok
    | apply next_ok | apply iteA_ok | dsimp only | split)
theorem execStepSeal_ok {base : State} (tag : Nat) {s : State} (hk : Kept base s) : KeptA base (execStepSeal tag s) := by
  unfold execStepSeal
  with_reducible repeat' (first
    | assumption | intro _ | apply ite_ok | apply completeNow_ok | apply trySeal_ok | apply modStep_ok | apply modLive_ok
    | apply stepErr_ok | apply next_ok | apply iteA_ok | dsimp only | split)
theorem execStepResync_ok {base : State} (tag : Nat) {s : State} (hk : Kept base s) : KeptA base (execStepResync tag s) := by
  unfold execStepResync
  with_reducible repeat' (first
    | assumption | intro _ | apply ite_ok | apply startDesc_ok | apply done_ok | apply modLive_ok | apply resyncNow_ok | apply next_ok
    | apply iteA_ok | dsimp only | split)
theorem execStepQuery_ok {base : State} (tag : Nat) {s : State} (hk : Kept base s) : KeptA base (execStepQuery tag s) := by
  unfold execStepQuery
  with_reducible repeat' (first
    | assumption | intro _ | apply ite_ok | apply startDesc_ok | apply done_ok | apply next_ok | apply iteA_ok | dsimp only | split)
theorem dropInbox_ok {base : State} (i : Nat) {s : State} (hk : Kept base s) : Kept base (dropInbox i s) := by
  unfold dropInbox
  with_reducible repeat' (first
    | assumption | intro _ | apply ite_ok | apply modVnl_ok | dsimp only | split)
theorem takeReport_ok {base : State} (b : Nat) (m : List Byte) {s : State} (hk : Kept base s) : Kept base (takeReport b m s) := by
  unfold takeReport
  with_reducible repeat' (first
    | assumption | intro _ | apply ite_ok | apply tryReport_ok | apply modStep_ok | apply modTstep_ok | dsimp only | split)
theorem execStepReport_ok {base : State} (i : Nat) {s : State} (hk : Kept base s) : KeptA base (execStepReport i s) := by
  unfold execStepReport
  with_reducible repeat' (first
    | assumption | intro _ | apply ite_ok | apply takeReport_ok | apply dropInbox_ok | apply next_ok | apply iteA_ok | dsimp only
    | split)
theorem takeDraw_ok {base : State} (b : Nat) (m : List Byte) {s : State} (hk : Kept base s) : Kept base (takeDraw b m s) := by
  unfold takeDraw
  with_reducible repeat' (first
    | assumption | intro _ | apply ite_ok | apply drawStep_ok | apply toChildren_ok | dsimp only | split)
theorem execStepDraw_ok {base : State} (i : Nat) {s : State} (hk : Kept base s) : KeptA base (execStepDraw i s) := by
  unfold execStepDraw
  with_reducible repeat' (first
    | assumption | intro _ | apply ite_ok | apply takeDraw_ok | apply dropInbox_ok | apply next_ok | apply iteA_ok | dsimp only | split)
theorem takeFail_ok {base : State} (b : Nat) (m : List Byte) {s : State} (hk : Kept base s) : Kept base (takeFail b m s) := by
  unfold takeFail
  with_reducible repeat' (first
    | assumption | intro _ | apply ite_ok | apply discard_ok | apply toChildren_ok | apply sendTo_ok | dsimp only | split)
theorem execStepFail_ok {base : State} (i : Nat) {s : State} (hk : Kept base s) : KeptA base (execStepFail i s) := by
  unfold execStepFail
  with_reducible repeat' (first
    | assumption | intro _ | apply ite_ok | apply takeFail_ok | apply dropInbox_ok | apply next_ok | apply iteA_ok | dsimp only | split)
theorem execDrawTimeout_ok {base : State} (t : Nat) (n : Nat) {s : State} (hk : Kept base s) : KeptA base (execDrawTimeout t n s) := by
  unfold execDrawTimeout
  with_reducible repeat' (first
    | assumption | intro _ | apply ite_ok | (apply modCel_ok; rotate_left; with_unfolding_all rfl)
    | (apply modCel_none; rotate_left; with_unfolding_all rfl) | apply modStep_ok | apply failStep_ok | apply next_ok | apply iteA_ok
    | dsimp only | split)
theorem execDrawSplitTimeout_ok {base : State} (t : Nat) (n : Nat) {s : State} (hk : Kept base s) : KeptA base (execDrawSplitTimeout t n s)
    := by
  unfold execDrawSplitTimeout
  with_reducible repeat' (first
    | assumption | intro _ | apply ite_ok | apply upMsg_ok | apply discard_ok | apply modTstep_ok | apply next_ok | apply iteA_ok
    | dsimp only | split)
theorem preimageDone_ok {base : State} (h : Nat) (p : Nat) (b : Nat) {s : State} (hk : Kept base s) : Kept base (preimageDone h p b s) := by
  unfold preimageDone
  with_reducible repeat' (first
    | assumption | intro _ | apply ite_ok | apply failStep_ok | apply pump_ok | apply updStall_ok | apply modStp_ok | dsimp only | split)
theorem execPreimageCopyDone_ok {base : State} (h : Nat) (p : Nat) (b : Nat) {s : State} (hk : Kept base s) : KeptA base
    (execPreimageCopyDone h p b s) := by
  unfold execPreimageCopyDone
  with_reducible repeat' (first
    | assumption | intro _ | apply ite_ok | apply preimageDone_ok | apply next_ok | apply iteA_ok | dsimp only | split)
theorem markPoison_ok {base : State} (h : Nat) (p : Nat) (b : Nat) {s : State} (hk : Kept base s) : Kept base (markPoison h p b s) := by
  unfold markPoison
  with_reducible repeat' (first
    | assumption | intro _ | apply ite_ok | apply noteT_ok | apply modPage_ok | dsimp only | split)
theorem execRestoreDone_ok {base : State} (t : Nat) (bad : List (Nat × Nat × Nat)) {s : State} (hk : Kept base s) : KeptA base
    (execRestoreDone t bad s) := by
  unfold execRestoreDone
  with_reducible repeat' (first
    | assumption | intro _ | apply ite_ok | apply forS_ok | apply markPoison_ok | apply writeBack_ok | apply serveOwed_ok
    | apply trigRelease_ok | apply wakeRacks_ok | apply wakeResyncs_ok | apply wakeOpens_ok | apply pump_ok | apply updStall_ok
    | apply next_ok | apply iteA_ok | dsimp only | split)
theorem holdWriteDone_ok {base : State} {s : State} (hk : Kept base s) : Kept base (holdWriteDone s) := by
  unfold holdWriteDone
  with_reducible repeat' (first
    | assumption | intro _ | apply ite_ok | apply modStp_ok | apply emit_ok | apply modLive_ok | apply wakeOpens_ok | apply pump_ok
    | apply updStall_ok | apply settleFrees_ok | apply postHeld_ok | dsimp only | split)
theorem execMustHoldWriteDone_ok {base : State} {s : State} (hk : Kept base s) : KeptA base (execMustHoldWriteDone s) := by
  unfold execMustHoldWriteDone
  with_reducible repeat' (first
    | assumption | intro _ | apply ite_ok | apply holdWriteDone_ok | apply next_ok | apply iteA_ok | dsimp only | split)

end Sys2Proof.Machine
end

