-- ==== Sys2Proof/Laws/KeptRack.lean ====
section
/-!
SUPPORT. Laws/KeptRack.lean: every operation and command of Machine/Rack.lean keeps `Kept`.
-/
namespace Sys2Proof.Machine

set_option linter.unusedTactic false
set_option linter.unreachableTactic false
set_option linter.unusedVariables false

theorem rackUnattached_ok {base : State} (tag : Nat) (l : Live) {s : State} (hk : Kept base s) : Kept base (rackUnattached tag l s) := by
  unfold rackUnattached
  with_reducible repeat' (first
    | assumption | intro _ | apply ite_ok | apply rackEffect_ok | dsimp only | split)
theorem execRackTake_ok {base : State} (tag : Nat) {s : State} (hk : Kept base s) : KeptA base (execRackTake tag s) := by
  unfold execRackTake
  with_reducible repeat' (first
    | assumption | intro _ | apply ite_ok | apply startDesc_ok | apply done_ok | apply modLive_ok | apply rackUnattached_ok
    | apply next_ok | apply iteA_ok | dsimp only | split)
theorem rackKeyNow_ok {base : State} (tag : Nat) {s : State} (hk : Kept base s) : Kept base (rackKeyNow tag s) := by
  unfold rackKeyNow
  with_reducible repeat' (first
    | assumption | intro _ | apply ite_ok | apply done_ok | apply modHnd_ok | dsimp only | split)
theorem execRackKey_ok {base : State} (tag : Nat) {s : State} (hk : Kept base s) : KeptA base (execRackKey tag s) := by
  unfold execRackKey
  with_reducible repeat' (first
    | assumption | intro _ | apply ite_ok | apply startDesc_ok | apply rackKeyNow_ok | apply next_ok | apply iteA_ok | dsimp only
    | split)
theorem execRackQuery_ok {base : State} (tag : Nat) {s : State} (hk : Kept base s) : KeptA base (execRackQuery tag s) := by
  unfold execRackQuery
  with_reducible repeat' (first
    | assumption | intro _ | apply ite_ok | apply startDesc_ok | apply done_ok | apply next_ok | apply iteA_ok | dsimp only | split)
theorem execRckSlotRelease_ok {base : State} (acc : Acc) (k : Nat) (v : Nat) {s : State} (hk : Kept base s) : KeptA base (execRckSlotRelease
    acc k v s) := by
  unfold execRckSlotRelease
  with_reducible repeat' (first
    | assumption | intro _ | apply ite_ok | apply setSlot_ok | apply next_ok | apply iteA_ok | dsimp only | split)
theorem execWearBucketTick_ok {base : State} {s : State} (hk : Kept base s) : KeptA base (execWearBucketTick s) := by
  unfold execWearBucketTick
  with_reducible repeat' (first
    | assumption | intro _ | apply ite_ok | apply modRck_ok | apply next_ok | apply iteA_ok | dsimp only | split)
theorem execRackMarksDone_ok {base : State} {s : State} (hk : Kept base s) : KeptA base (execRackMarksDone s) := by
  unfold execRackMarksDone
  with_reducible repeat' (first
    | assumption | intro _ | apply ite_ok | apply forS_ok | apply modPage_ok | apply pump_ok | apply noteT_ok | apply modRck_ok
    | apply next_ok | apply iteA_ok | dsimp only | split)
theorem cowDone_ok {base : State} (h : Nat) (p : Nat) (b : Nat) {s : State} (hk : Kept base s) : Kept base (cowDone h p b s) := by
  unfold cowDone
  with_reducible repeat' (first
    | assumption | intro _ | apply ite_ok | apply pump_ok | apply modPage_ok | apply modRck_ok | dsimp only | split)
theorem execRackCowCopyDone_ok {base : State} (h : Nat) (p : Nat) (b : Nat) {s : State} (hk : Kept base s) : KeptA base (execRackCowCopyDone
    h p b s) := by
  unfold execRackCowCopyDone
  with_reducible repeat' (first
    | assumption | intro _ | apply ite_ok | apply cowDone_ok | apply next_ok | apply iteA_ok | dsimp only | split)
theorem checkFail_ok {base : State} (t : Nat) (row : Nat) (key : Nat) {s : State} (hk : Kept base s) : Kept base (checkFail t row key s) :=
    by
  unfold checkFail
  with_reducible repeat' (first
    | assumption | intro _ | apply ite_ok | apply noteT_ok | apply modErr_ok | dsimp only | split)
theorem rackCheck_ok {base : State} (j : RackJob) {s : State} (hk : Kept base s) : Kept base (rackCheck j s) := by
  unfold rackCheck
  with_reducible repeat' (first
    | assumption | intro _ | apply ite_ok | apply pump_ok | apply rackEnd_ok | apply abandonRack_ok | dsimp only | split)
theorem compareHash_ok {base : State} (a : HashRec) (own : HashRec) {s : State} (hk : Kept base s) : Kept base (compareHash a own s) := by
  unfold compareHash
  with_reducible repeat' (first
    | assumption | intro _ | apply ite_ok | apply noteT_ok | apply modRck_ok | dsimp only | split)
theorem ownHash_ok {base : State} (o : HashRec) {s : State} (hk : Kept base s) : Kept base (ownHash o s) := by
  unfold ownHash
  with_reducible repeat' (first
    | assumption | intro _ | apply ite_ok | apply forS_ok | apply compareHash_ok | apply modRck_ok | dsimp only | split)
theorem shareHash_ok {base : State} (j : RackJob) (key : Nat) (hash : Nat) (x : Hnd) {s : State} (hk : Kept base s) : Kept base (shareHash j
    key hash x s) := by
  unfold shareHash
  with_reducible repeat' (first
    | assumption | intro _ | apply ite_ok | apply ownHash_ok | apply sendTo_ok | dsimp only | split)
theorem rackToBuddy_ok {base : State} (j : RackJob) {s : State} (hk : Kept base s) : Kept base (rackToBuddy j s) := by
  unfold rackToBuddy
  with_reducible repeat' (first
    | assumption | intro _ | apply ite_ok | apply forS_ok | apply toBuddy_ok | apply modRck_ok | dsimp only | split)
theorem copyPass_ok {base : State} (bad : Option Nat) {s : State} (hk : Kept base s) : Kept base (copyPass bad s) := by
  unfold copyPass
  with_reducible repeat' (first
    | assumption | intro _ | apply ite_ok | apply wakeUp_ok | apply rackCheck_ok | apply checkFail_ok | apply modRck_ok | apply forS_ok
    | apply shareHash_ok | apply rackToBuddy_ok | apply settleFrees_ok | apply pump_ok | apply updStall_ok | apply dropMarks_ok
    | dsimp only | split)
theorem execCopyPassDone_ok {base : State} (bad : Option Nat) {s : State} (hk : Kept base s) : KeptA base (execCopyPassDone bad s) := by
  unfold execCopyPassDone
  with_reducible repeat' (first
    | assumption | intro _ | apply ite_ok | apply copyPass_ok | apply next_ok | apply iteA_ok | dsimp only | split)
theorem drainDone_ok {base : State} (bad : Option Nat) {s : State} (hk : Kept base s) : Kept base (drainDone bad s) := by
  unfold drainDone
  with_reducible repeat' (first
    | assumption | intro _ | apply ite_ok | apply rackCheck_ok | apply checkFail_ok | apply program_ok | apply setSlot_ok
    | apply modRck_ok | apply toHost_ok | apply rackEnd_ok | apply noteT_ok | dsimp only | split)
theorem execRackDrainDone_ok {base : State} (bad : Option Nat) {s : State} (hk : Kept base s) : KeptA base (execRackDrainDone bad s) := by
  unfold execRackDrainDone
  with_reducible repeat' (first
    | assumption | intro _ | apply ite_ok | apply drainDone_ok | apply next_ok | apply iteA_ok | dsimp only | split)
theorem execGraftOfferReq_ok {base : State} (i : Nat) {s : State} (hk : Kept base s) : KeptA base (execGraftOfferReq i s) := by
  unfold execGraftOfferReq
  with_reducible repeat' (first
    | assumption | intro _ | apply ite_ok | apply sendTo_ok | apply dropInbox_ok | apply next_ok | apply iteA_ok | dsimp only | split)
theorem takeOffer_ok {base : State} (t : Nat) (m : List Byte) {s : State} (hk : Kept base s) : Kept base (takeOffer t m s) := by
  unfold takeOffer
  with_reducible repeat' (first
    | assumption | intro _ | apply ite_ok | apply rackFit_ok | apply modTenRack_ok | apply modRck_ok | apply graftNone_ok | dsimp only
    | split)
theorem execGraftOffer_ok {base : State} (i : Nat) {s : State} (hk : Kept base s) : KeptA base (execGraftOffer i s) := by
  unfold execGraftOffer
  with_reducible repeat' (first
    | assumption | intro _ | apply ite_ok | apply takeOffer_ok | apply dropInbox_ok | apply next_ok | apply iteA_ok | dsimp only | split)
theorem modGin_ok {base : State} (k : Nat) (f : Gin → Gin) {s : State} (hk : Kept base s) : Kept base (modGin k f s) := by
  unfold modGin
  with_reducible repeat' (first
    | assumption | intro _ | apply ite_ok | apply modRck_ok | dsimp only | split)
theorem takeData_ok {base : State} (b : Nat) (m : List Byte) {s : State} (hk : Kept base s) : Kept base (takeData b m s) := by
  unfold takeData
  with_reducible repeat' (first
    | assumption | intro _ | apply ite_ok | apply sendTo_ok | apply checkFail_ok | apply modGin_ok | dsimp only | split)
theorem execGraftData_ok {base : State} (i : Nat) {s : State} (hk : Kept base s) : KeptA base (execGraftData i s) := by
  unfold execGraftData
  with_reducible repeat' (first
    | assumption | intro _ | apply ite_ok | apply takeData_ok | apply dropInbox_ok | apply next_ok | apply iteA_ok | dsimp only | split)
theorem takeCommit_ok {base : State} (b : Nat) (m : List Byte) {s : State} (hk : Kept base s) : Kept base (takeCommit b m s) := by
  unfold takeCommit
  with_reducible repeat' (first
    | assumption | intro _ | apply ite_ok | apply sendTo_ok | apply modGin_ok | dsimp only | split)
theorem execGraftCommit_ok {base : State} (i : Nat) {s : State} (hk : Kept base s) : KeptA base (execGraftCommit i s) := by
  unfold execGraftCommit
  with_reducible repeat' (first
    | assumption | intro _ | apply ite_ok | apply takeCommit_ok | apply dropInbox_ok | apply next_ok | apply iteA_ok | dsimp only
    | split)
theorem takeAck_ok {base : State} (t : Nat) (m : List Byte) {s : State} (hk : Kept base s) : Kept base (takeAck t m s) := by
  unfold takeAck
  with_reducible repeat' (first
    | assumption | intro _ | apply ite_ok | apply modRck_ok | apply setGraft_ok | apply modTenRack_ok | dsimp only | split)
theorem execGraftAck_ok {base : State} (i : Nat) {s : State} (hk : Kept base s) : KeptA base (execGraftAck i s) := by
  unfold execGraftAck
  with_reducible repeat' (first
    | assumption | intro _ | apply ite_ok | apply takeAck_ok | apply dropInbox_ok | apply next_ok | apply iteA_ok | dsimp only | split)
theorem takeHash_ok {base : State} (t : Nat) (m : List Byte) {s : State} (hk : Kept base s) : Kept base (takeHash t m s) := by
  unfold takeHash
  with_reducible repeat' (first
    | assumption | intro _ | apply ite_ok | apply compareHash_ok | apply modRck_ok | dsimp only | split)
theorem execGraftHash_ok {base : State} (i : Nat) {s : State} (hk : Kept base s) : KeptA base (execGraftHash i s) := by
  unfold execGraftHash
  with_reducible repeat' (first
    | assumption | intro _ | apply ite_ok | apply takeHash_ok | apply dropInbox_ok | apply next_ok | apply iteA_ok | dsimp only | split)
theorem execHashCompareTimeout_ok {base : State} (i : Nat) {s : State} (hk : Kept base s) : KeptA base (execHashCompareTimeout i s) := by
  unfold execHashCompareTimeout
  with_reducible repeat' (first
    | assumption | intro _ | apply ite_ok | apply modRck_ok | apply next_ok | apply iteA_ok | dsimp only | split)
theorem execGraftReadReq_ok {base : State} (i : Nat) {s : State} (hk : Kept base s) : KeptA base (execGraftReadReq i s) := by
  unfold execGraftReadReq
  with_reducible repeat' (first
    | assumption | intro _ | apply ite_ok | apply sendAnswer_ok | apply dropInbox_ok | apply modRck_ok | apply next_ok | apply iteA_ok
    | dsimp only | split)
theorem execSeedDonorTimeout_ok {base : State} (i : Nat) {s : State} (hk : Kept base s) : KeptA base (execSeedDonorTimeout i s) := by
  unfold execSeedDonorTimeout
  with_reducible repeat' (first
    | assumption | intro _ | apply ite_ok | apply sendAnswer_ok | apply modRck_ok | apply next_ok | apply iteA_ok | dsimp only | split)
theorem modRest_ok {base : State} (tag : Nat) (f : Rest → Rest) {s : State} (hk : Kept base s) : Kept base (modRest tag f s) := by
  unfold modRest
  with_reducible repeat' (first
    | assumption | intro _ | apply ite_ok | apply modRck_ok | dsimp only | split)
theorem restFail_ok {base : State} (tag : Nat) (status : Nat) (result : Nat) {s : State} (hk : Kept base s) : Kept base (restFail tag status
    result s) := by
  unfold restFail
  with_reducible repeat' (first
    | assumption | intro _ | apply ite_ok | apply done_ok | apply modRck_ok | apply forS_ok | apply dropHnd_ok | dsimp only | split)
theorem restEnd_ok {base : State} (tag : Nat) {s : State} (hk : Kept base s) : Kept base (restEnd tag s) := by
  unfold restEnd
  with_reducible repeat' (first
    | assumption | intro _ | apply ite_ok | apply toHost_ok | apply done_ok | apply modTenRack_ok | apply modRck_ok | dsimp only | split)
theorem restWrite_ok {base : State} (tag : Nat) (t : Nat) (h : Nat) (nar : Bool) (size : Nat) (p : Nat) (b : Nat) (bs : List Byte) {s :
    State} (hk : Kept base s) : Kept base (restWrite tag t h nar size p b bs s) := by
  unfold restWrite
  with_reducible repeat' (first
    | assumption | intro _ | apply ite_ok | apply hWrite_ok | dsimp only | split)
theorem askRead_some {base : State} (t z : Nat) (msg : List Byte) {s : State} (hk : Kept base s) (u : State)
    (hu : askRead t z msg s = some u) : Kept base u := by
  unfold askRead at hu
  split at hu
  · split at hu
    · cases hu; exact sendTo_ok _ _ _ _ hk
    · cases hu
  · cases hu
theorem askBlocks_some {base : State} (tag t n key kind src : Nat) (seed : Bool) (l : List (Nat × Nat × Nat)) {s : State} (hk : Kept base s)
    (u : State) (hu : askBlocks tag t n key kind src seed l s = some u) : Kept base u := by
  induction l generalizing s with
  | nil => cases hu; exact hk
  | cons x r ih =>
    obtain ⟨z, p, b⟩ := x
    unfold askBlocks at hu
    split at hu
    · next s1 h => exact ih (modRest_ok _ _ (askRead_some _ _ _ hk _ h)) hu
    · cases hu
/-- A fold over states that may be absent keeps what each step keeps. -/
theorem foldO {base : State} {α : Type} (l : List α) (f : Option State → α → Option State)
    (hf : ∀ (y : Option State) (e : α), (∀ t, y = some t → Kept base t) → ∀ t, f y e = some t → Kept base t) (i : Option State)
    (hi : ∀ t, i = some t → Kept base t) {u : State} (hu : l.foldl f i = some u) : Kept base u := by
  induction l generalizing i with
  | nil => exact hi _ hu
  | cons x r ih => exact ih _ (hf i x hi) hu
theorem phase2_ok {base : State} (tag : Nat) {s : State} (hk : Kept base s) : Kept base (phase2 tag s) := by
  unfold phase2
  split
  · exact hk
  · next x hx =>
    dsimp only
    have h0 := serveOwed_ok x.tenant (modTenRack_ok x.tenant (fun y => { y with phase1 := some x.step })
      (modRest_ok tag (fun y => { y with phase := 2 }) hk))
    generalize serveOwed x.tenant _ = s0 at h0 ⊢
    split
    · exact restFail_ok _ _ _ h0
    · next s1 h =>
      have h1 : Kept base s1 := by
        refine foldO _ _ (fun y e hy t ht => ?_) _ (fun t ht => ?_) h
        · split at ht
          · next hy' hh => cases hy'; exact askBlocks_some _ _ _ _ _ _ _ _ (hy _ rfl) _ ht
          · exact hy _ ht
        · cases ht; exact h0
      split
      · exact ite_ok (restEnd_ok _ (modRest_ok _ _ h1)) h1
      · exact h1
theorem createAll_some {base : State} (t kx : Nat) (l : List (List Byte)) (m : List (Nat × Nat)) (c : List Nat) {s : State}
    (hk : Kept base s) (m' : List (Nat × Nat)) (c' : List Nat) (u : State)
    (hu : createAll t kx l m c s = .inr (some (m', c', u))) : Kept base u := by
  induction l generalizing m c s with
  | nil => cases hu; exact hk
  | cons e r ih =>
    unfold createAll at hu
    dsimp only at hu
    split at hu
    · exact ih _ _ hk hu
    · split at hu
      · cases hu
      · split at hu
        · next s1 h => exact ih _ _ (createPages_some _ _ _ _ _ _ _ (modPln_ok _ hk) _ h) hu
        · cases hu
theorem restoreBegin_ok {base : State} (tag : Nat) (local_ : Option Slot) {s : State} (hk : Kept base s) : Kept base (restoreBegin tag
    local_ s) := by
  unfold restoreBegin
  split
  · exact hk
  · next x hx =>
    dsimp only
    split
    · exact restFail_ok _ _ _ hk
    · split
      · exact done_ok _ _ _ _ (modRck_ok _ hk)
      · exact startDemotion_ok _ hk
      · next m c s1 h =>
        have h1 : Kept base s1 := createAll_some _ _ _ _ _ hk _ _ _ h
        have h2 := modRest_ok tag (fun y => { y with map := m, created := c, phase := 1 }) h1
        generalize modRest tag (fun y => { y with map := m, created := c, phase := 1 }) s1 = s2 at h2 ⊢
        split
        · refine phase2_ok _ (forS_ok _ _ (fun y z hz => ?_) h2)
          split
          · exact restWrite_ok _ _ _ _ _ _ _ _ hz
          · exact hz
        · split
          · exact restFail_ok _ _ _ h2
          · next s3 h =>
            have h3 : Kept base s3 := by
              refine foldO _ _ (fun y e hy t ht => ?_) _ (fun t ht => ?_) h
              · split at ht
                · exact askBlocks_some _ _ _ _ _ _ _ _ (hy _ rfl) _ ht
                · cases ht
              · cases ht; exact h2
            split
            · exact ite_ok (phase2_ok _ h3) h3
            · exact h3
theorem seedBegin_ok {base : State} (tag : Nat) {s : State} (hk : Kept base s) : Kept base (seedBegin tag s) := by
  unfold seedBegin
  split
  · next x l hx hl =>
    dsimp only
    split
    · exact restFail_ok _ _ _ hk
    · refine ite_ok (restFail_ok _ _ _ hk) (ite_ok (restFail_ok _ _ _ hk) ?_)
      split
      · exact done_ok _ _ _ _ (modRck_ok _ hk)
      · exact startDemotion_ok _ hk
      · next m c s1 h =>
        have h1 : Kept base s1 := createAll_some _ _ _ _ _ hk _ _ _ h
        have h2 := modRest_ok tag (fun y => { y with map := m, created := c, phase := 1 }) h1
        generalize modRest tag (fun y => { y with map := m, created := c, phase := 1 }) s1 = s2 at h2 ⊢
        split
        · exact restFail_ok _ _ _ h2
        · next s3 h =>
          have h3 : Kept base s3 := by
            refine foldO _ _ (fun y e hy t ht => ?_) _ (fun t ht => ?_) h
            · split at ht
              · exact askBlocks_some _ _ _ _ _ _ _ _ (hy _ rfl) _ ht
              · cases ht
            · cases ht; exact h2
          split
          · exact ite_ok (restEnd_ok _ (modRest_ok _ _ h3)) h3
          · exact h3
  · exact hk
theorem restGate_ok {base : State} (tag : Nat) (t : Nat) (f : State → State) (hf : ∀ x, Kept base x → Kept base (f x)) {s : State} (hk :
    Kept base s) : Kept base (restGate tag t f s) := by
  unfold restGate
  with_reducible repeat' (first
    | assumption | intro _ | apply ite_ok | apply done_ok | apply modLive_ok | apply hf | dsimp only | split)
theorem askEntries_ok {base : State} (tag : Nat) (x : Rest) {s : State} (hk : Kept base s) : Kept base (askEntries tag x s) := by
  unfold askEntries
  have h1 := modRck_ok (fun r => { r with rests := r.rests ++ [{ x with asked := [(0, 0)] }] }) hk
  dsimp only
  split
  · next h => exact askRead_some _ _ _ h1 _ h
  · exact restFail_ok _ _ _ h1
theorem restoreGo_ok {base : State} (tag : Nat) (l : Live) {s : State} (hk : Kept base s) : Kept base (restoreGo tag l s) := by
  unfold restoreGo
  with_reducible repeat' (first
    | assumption | intro _ | apply ite_ok | apply restoreBegin_ok | apply modRck_ok | apply done_ok | apply askEntries_ok | dsimp only
    | split)
theorem seedGo_ok {base : State} (tag : Nat) (l : Live) {s : State} (hk : Kept base s) : Kept base (seedGo tag l s) := by
  unfold seedGo
  with_reducible repeat' (first
    | assumption | intro _ | apply ite_ok | apply askEntries_ok | dsimp only | split)
theorem restAgain_ok {base : State} (tag : Nat) (l : Live) (go : Nat → Live → State → State) (hgo : ∀ y0 y1 x, Kept base x → Kept base (go
    y0 y1 x)) {s : State} (hk : Kept base s) : Kept base (restAgain tag l go s) := by
  unfold restAgain
  with_reducible repeat' (first
    | assumption | intro _ | apply ite_ok | apply restGate_ok | apply restEnd_ok | apply seedBegin_ok | apply restoreBegin_ok
    | apply hgo | dsimp only | split)
theorem restCmd_ok {base : State} (tag : Nat) (op : Nat) (go : Nat → Live → State → State) (hgo : ∀ y0 y1 x, Kept base x → Kept base (go y0
    y1 x)) {s : State} (hk : Kept base s) : Kept base (restCmd tag op go s) := by
  unfold restCmd
  with_reducible repeat' (first
    | assumption | intro _ | apply ite_ok | apply restAgain_ok | apply startDesc_ok | apply restGate_ok | apply hgo | dsimp only | split)
theorem execRackRestore_ok {base : State} (tag : Nat) {s : State} (hk : Kept base s) : KeptA base (execRackRestore tag s) := by
  unfold execRackRestore
  with_reducible repeat' (first
    | assumption | intro _ | apply ite_ok | apply restCmd_ok | apply restoreGo_ok | apply next_ok | apply iteA_ok | dsimp only | split)
theorem execRackSeed_ok {base : State} (tag : Nat) {s : State} (hk : Kept base s) : KeptA base (execRackSeed tag s) := by
  unfold execRackSeed
  with_reducible repeat' (first
    | assumption | intro _ | apply ite_ok | apply restCmd_ok | apply seedGo_ok | apply next_ok | apply iteA_ok | dsimp only | split)
theorem takeRead_ok {base : State} (t : Nat) (m : List Byte) {s : State} (hk : Kept base s) : Kept base (takeRead t m s) := by
  unfold takeRead
  with_reducible repeat' (first
    | assumption | intro _ | apply ite_ok | apply modRest_ok | apply restFail_ok | apply seedBegin_ok | apply restoreBegin_ok
    | apply restWrite_ok | apply phase2_ok | apply restEnd_ok | apply checkFail_ok | dsimp only | split)
theorem execGraftReadData_ok {base : State} (i : Nat) {s : State} (hk : Kept base s) : KeptA base (execGraftReadData i s) := by
  unfold execGraftReadData
  with_reducible repeat' (first
    | assumption | intro _ | apply ite_ok | apply takeRead_ok | apply dropInbox_ok | apply next_ok | apply iteA_ok | dsimp only | split)
theorem execRestoreReadTimeout_ok {base : State} (tag : Nat) {s : State} (hk : Kept base s) : KeptA base (execRestoreReadTimeout tag s) :=
    by
  unfold execRestoreReadTimeout
  with_reducible repeat' (first
    | assumption | intro _ | apply ite_ok | apply restFail_ok | apply next_ok | apply iteA_ok | dsimp only | split)

end Sys2Proof.Machine
end

