-- ==== Sys2Proof/Laws/KeptColl.lean ====
section
/-!
SUPPORT. Laws/KeptColl.lean: every operation and command of Machine/Coll.lean keeps `Kept`.
-/
namespace Sys2Proof.Machine

set_option linter.unusedTactic false
set_option linter.unreachableTactic false
set_option linter.unusedVariables false

theorem sendElems_ok {base : State} (x : Coll) (msg : Nat) (kind : Nat) (dest : Nat) (first : Nat) (es : List (List Byte)) {s : State} (hk :
    Kept base s) : Kept base (sendElems x msg kind dest first es s) := by
  unfold sendElems
  with_reducible repeat' (first
    | assumption | intro _ | apply ite_ok | apply forS_ok | apply sendTo_ok | dsimp only | split)
theorem gatherOut_ok {base : State} (x : Coll) (kind : Nat) (first : Nat) (total : Nat) (lo : Nat) (es : List (List Byte)) {s : State} (hk :
    Kept base s) : Kept base (gatherOut x kind first total lo es s) := by
  unfold gatherOut
  with_reducible repeat' (first
    | assumption | intro _ | apply ite_ok | apply forS_ok | apply sendElems_ok | dsimp only | split)
theorem modColl_ok {base : State} (tag : Nat) (f : Coll → Coll) {s : State} (hk : Kept base s) : Kept base (modColl tag f s) := by
  unfold modColl
  with_reducible repeat' (first
    | assumption | intro _ | apply ite_ok | apply modCol_ok | dsimp only | split)
theorem writeResults_ok {base : State} (x : Coll) (first : Nat) (es : List (List Byte)) {s : State} (hk : Kept base s) : Kept base
    (writeResults x first es s) := by
  unfold writeResults
  with_reducible repeat' (first
    | assumption | intro _ | apply ite_ok | apply poisonFault_ok | apply modColl_ok | apply hWrite_ok | dsimp only | split)
theorem addResults_ok {base : State} (tag : Nat) (first : Nat) (es : List (List Byte)) {s : State} (hk : Kept base s) : Kept base
    (addResults tag first es s) := by
  unfold addResults
  with_reducible repeat' (first
    | assumption | intro _ | apply ite_ok | apply writeResults_ok | apply modColl_ok | dsimp only | split)
theorem roundRange_ok {base : State} (tag : Nat) (lo : Nat) (accs : List (List Byte × AFlags)) {s : State} (hk : Kept base s) : Kept base
    (roundRange tag lo accs s).1 := by
  unfold roundRange
  with_reducible repeat' (first
    | assumption | intro _ | apply ite_ok | apply modColl_ok | apply forS_ok | apply modCol_ok | apply addResults_ok | apply foldl_ok
    | apply foldl2_ok | apply ite2_ok | dsimp only | split)
theorem toShares_ok {base : State} (x : Coll) (lo : Nat) (es : List (List Byte)) {s : State} (hk : Kept base s) : Kept base (toShares x lo
    es s) := by
  unfold toShares
  with_reducible repeat' (first
    | assumption | intro _ | apply ite_ok | apply forS_ok | apply sendElems_ok | dsimp only | split)
theorem endStage1_ok {base : State} (tag : Nat) (q : Nat) (lo : Nat) (hi : Nat) {s : State} (hk : Kept base s) : Kept base (endStage1 tag q
    lo hi s) := by
  unfold endStage1
  with_reducible repeat' (first
    | assumption | intro _ | apply ite_ok | apply modColl_ok | apply roundRange_ok | apply toShares_ok | apply forS_ok
    | apply sendElems_ok | dsimp only | split)
theorem endStage2_ok {base : State} (tag : Nat) (q : Nat) (lo : Nat) (hi : Nat) {s : State} (hk : Kept base s) : Kept base (endStage2 tag q
    lo hi s) := by
  unfold endStage2
  with_reducible repeat' (first
    | assumption | intro _ | apply ite_ok | apply roundRange_ok | apply modColl_ok | apply forS_ok | apply sendElems_ok
    | apply toShares_ok | dsimp only | split)
theorem endStage3_ok {base : State} (tag : Nat) (q : Nat) (lo : Nat) (hi : Nat) {s : State} (hk : Kept base s) : Kept base (endStage3 tag q
    lo hi s) := by
  unfold endStage3
  with_reducible repeat' (first
    | assumption | intro _ | apply ite_ok | apply gatherOut_ok | apply modColl_ok | dsimp only | split)
theorem runPiece_ok {base : State} (tag : Nat) (p : Nat × Nat × Nat) {s : State} (hk : Kept base s) : Kept base (runPiece tag p s) := by
  unfold runPiece
  with_reducible repeat' (first
    | assumption | intro _ | apply ite_ok | apply endStage1_ok | apply endStage2_ok | apply endStage3_ok | dsimp only | split)
theorem collRun_ok {base : State} (tag : Nat) {s : State} (hk : Kept base s) : Kept base (collRun tag s) := by
  unfold collRun
  with_reducible repeat' (first
    | assumption | intro _ | apply ite_ok | apply forS_ok | apply runPiece_ok | dsimp only | split)
theorem countIn_ok {base : State} (x : Coll) (first : Nat) (sizes : List Nat) {s : State} (hk : Kept base s) : Kept base (countIn x first
    sizes s) := by
  unfold countIn
  with_reducible repeat' (first
    | assumption | intro _ | apply ite_ok | apply forS_ok | apply modCol_ok | dsimp only | split)
theorem collEnd_ok {base : State} (tag : Nat) (status : Nat) (detail : Nat) (result : Nat) {s : State} (hk : Kept base s) : Kept base
    (collEnd tag status detail result s) := by
  unfold collEnd
  with_reducible repeat' (first
    | assumption | intro _ | apply ite_ok | apply done_ok | apply modCol_ok | dsimp only | split)
theorem barrierRun_ok {base : State} (tag : Nat) {s : State} (hk : Kept base s) : Kept base (barrierRun tag s) := by
  unfold barrierRun
  with_reducible repeat' (first
    | assumption | intro _ | apply ite_ok | apply collEnd_ok | apply forS_ok | apply sendTo_ok | dsimp only | split)
theorem collEnter_ok {base : State} (x : Coll) (m : List Byte) {s : State} (hk : Kept base s) : Kept base (collEnter x m s) := by
  unfold collEnter
  with_reducible repeat' (first
    | assumption | intro _ | apply ite_ok | apply whenS_ok | apply wakeUp_ok | apply collRun_ok | apply modColl_ok | apply countIn_ok
    | apply addResults_ok | apply forS_ok | apply sendElems_ok | apply barrierRun_ok | apply collEnd_ok | dsimp only | split)
theorem linkFault_ok {base : State} (t : Nat) {s : State} (hk : Kept base s) : Kept base (linkFault t s) := by
  unfold linkFault
  with_reducible repeat' (first
    | assumption | intro _ | apply ite_ok | apply faultReport_ok | dsimp only | split)
theorem collTake_ok {base : State} (b : Nat) (m : List Byte) {s : State} (hk : Kept base s) : Kept base (collTake b m s) := by
  unfold collTake
  with_reducible repeat' (first
    | assumption | intro _ | apply ite_ok | apply modCol_ok | apply linkFault_ok | apply collEnd_ok | apply collEnter_ok | dsimp only
    | split)
theorem collArrive_ok {base : State} (b : Nat) (m : List Byte) {s : State} (hk : Kept base s) : Kept base (collArrive b m s) := by
  unfold collArrive
  with_reducible repeat' (first
    | assumption | intro _ | apply ite_ok | apply collTake_ok | apply modCol_ok | dsimp only | split)
theorem unparkOnce_ok {base : State} {s : State} (hk : Kept base s) : Kept base (unparkOnce s) := by
  unfold unparkOnce
  with_reducible repeat' (first
    | assumption | intro _ | apply ite_ok | apply forS_ok | apply collTake_ok | apply modCol_ok | dsimp only | split)
theorem unpark_ok {base : State} {s : State} (hk : Kept base s) : Kept base (unpark s) := by
  unfold unpark
  with_reducible repeat' (first
    | assumption | intro _ | apply ite_ok | apply forS_ok | apply unparkOnce_ok | dsimp only | split)
theorem collMsg_ok {base : State} (i : Nat) (msg : Nat) {s : State} (hk : Kept base s) : Kept base (collMsg i msg s) := by
  unfold collMsg
  with_reducible repeat' (first
    | assumption | intro _ | apply ite_ok | apply unpark_ok | apply collArrive_ok | apply dropInbox_ok | dsimp only | split)
theorem execContribution_ok {base : State} (i : Nat) {s : State} (hk : Kept base s) : KeptA base (execContribution i s) := by
  unfold execContribution
  with_reducible repeat' (first
    | assumption | intro _ | apply ite_ok | apply collMsg_ok | apply next_ok | apply iteA_ok | dsimp only | split)
theorem execGlobalPartial_ok {base : State} (i : Nat) {s : State} (hk : Kept base s) : KeptA base (execGlobalPartial i s) := by
  unfold execGlobalPartial
  with_reducible repeat' (first
    | assumption | intro _ | apply ite_ok | apply collMsg_ok | apply next_ok | apply iteA_ok | dsimp only | split)
theorem execGlobalResult_ok {base : State} (i : Nat) {s : State} (hk : Kept base s) : KeptA base (execGlobalResult i s) := by
  unfold execGlobalResult
  with_reducible repeat' (first
    | assumption | intro _ | apply ite_ok | apply collMsg_ok | apply next_ok | apply iteA_ok | dsimp only | split)
theorem execGatherData_ok {base : State} (i : Nat) {s : State} (hk : Kept base s) : KeptA base (execGatherData i s) := by
  unfold execGatherData
  with_reducible repeat' (first
    | assumption | intro _ | apply ite_ok | apply collMsg_ok | apply next_ok | apply iteA_ok | dsimp only | split)
theorem execBarrierEnter_ok {base : State} (i : Nat) {s : State} (hk : Kept base s) : KeptA base (execBarrierEnter i s) := by
  unfold execBarrierEnter
  with_reducible repeat' (first
    | assumption | intro _ | apply ite_ok | apply collMsg_ok | apply next_ok | apply iteA_ok | dsimp only | split)
theorem execBarrierRelease_ok {base : State} (i : Nat) {s : State} (hk : Kept base s) : KeptA base (execBarrierRelease i s) := by
  unfold execBarrierRelease
  with_reducible repeat' (first
    | assumption | intro _ | apply ite_ok | apply collMsg_ok | apply next_ok | apply iteA_ok | dsimp only | split)
theorem collFirst_ok {base : State} (tag : Nat) {s : State} (hk : Kept base s) : Kept base (collFirst tag s) := by
  unfold collFirst
  with_reducible repeat' (first
    | assumption | intro _ | apply ite_ok | apply barrierRun_ok | apply modColl_ok | apply sendTo_ok | apply collRun_ok | apply forS_ok
    | apply sendElems_ok | apply addResults_ok | apply gatherOut_ok | dsimp only | split)
theorem collGo_ok {base : State} (tag : Nat) {s : State} (hk : Kept base s) : Kept base (collGo tag s) := by
  unfold collGo
  with_reducible repeat' (first
    | assumption | intro _ | apply ite_ok | apply modLive_ok | apply whenS_ok | apply wakeUp_ok | apply promoteRange_ok
    | apply poisonFault_ok | apply unpark_ok | apply collFirst_ok | apply modColl_ok | dsimp only | split)
theorem collNew_ok {base : State} (tag : Nat) (op : Nat) {s : State} (hk : Kept base s) : Kept base (collNew tag op s) := by
  unfold collNew
  with_reducible repeat' (first
    | assumption | intro _ | apply ite_ok | apply collGo_ok | apply modCol_ok | dsimp only | split)
theorem collStart_ok {base : State} (tag : Nat) (op : Nat) {s : State} (hk : Kept base s) : Kept base (collStart tag op s) := by
  unfold collStart
  with_reducible repeat' (first
    | assumption | intro _ | apply ite_ok | apply collGo_ok | apply startDesc_ok | apply done_ok | apply collNew_ok | dsimp only | split)
theorem execAllreduce_ok {base : State} (tag : Nat) {s : State} (hk : Kept base s) : KeptA base (execAllreduce tag s) := by
  unfold execAllreduce
  with_reducible repeat' (first
    | assumption | intro _ | apply ite_ok | apply collStart_ok | apply next_ok | apply iteA_ok | dsimp only | split)
theorem execReduceScatter_ok {base : State} (tag : Nat) {s : State} (hk : Kept base s) : KeptA base (execReduceScatter tag s) := by
  unfold execReduceScatter
  with_reducible repeat' (first
    | assumption | intro _ | apply ite_ok | apply collStart_ok | apply next_ok | apply iteA_ok | dsimp only | split)
theorem execAllgather_ok {base : State} (tag : Nat) {s : State} (hk : Kept base s) : KeptA base (execAllgather tag s) := by
  unfold execAllgather
  with_reducible repeat' (first
    | assumption | intro _ | apply ite_ok | apply collStart_ok | apply next_ok | apply iteA_ok | dsimp only | split)
theorem execBroadcast_ok {base : State} (tag : Nat) {s : State} (hk : Kept base s) : KeptA base (execBroadcast tag s) := by
  unfold execBroadcast
  with_reducible repeat' (first
    | assumption | intro _ | apply ite_ok | apply collStart_ok | apply next_ok | apply iteA_ok | dsimp only | split)
theorem execBarrier_ok {base : State} (tag : Nat) {s : State} (hk : Kept base s) : KeptA base (execBarrier tag s) := by
  unfold execBarrier
  with_reducible repeat' (first
    | assumption | intro _ | apply ite_ok | apply collStart_ok | apply next_ok | apply iteA_ok | dsimp only | split)
theorem collDone_ok {base : State} (tag : Nat) {s : State} (hk : Kept base s) : Kept base (collDone tag s) := by
  unfold collDone
  with_reducible repeat' (first
    | assumption | intro _ | apply ite_ok | apply collEnd_ok | dsimp only | split)
theorem execCollectiveDone_ok {base : State} (tag : Nat) {s : State} (hk : Kept base s) : KeptA base (execCollectiveDone tag s) := by
  unfold execCollectiveDone
  with_reducible repeat' (first
    | assumption | intro _ | apply ite_ok | apply collDone_ok | apply next_ok | apply iteA_ok | dsimp only | split)
theorem execCollTimeout_ok {base : State} (tag : Nat) {s : State} (hk : Kept base s) : KeptA base (execCollTimeout tag s) := by
  unfold execCollTimeout
  with_reducible repeat' (first
    | assumption | intro _ | apply ite_ok | apply collDone_ok | apply linkFault_ok | apply collEnd_ok | apply next_ok | apply iteA_ok
    | dsimp only | split)

end Sys2Proof.Machine
end

