-- ==== Sys2Proof/Laws/KeptHost.lean ====
section
/-!
SUPPORT. Laws/KeptHost.lean: every operation and command of Machine/Host.lean keeps `Kept`.
-/
namespace Sys2Proof.Machine

set_option linter.unusedTactic false
set_option linter.unreachableTactic false
set_option linter.unusedVariables false

theorem linkDown_ok {base : State} {s : State} (hk : Kept base s) : Kept base (linkDown s) := by
  unfold linkDown
  with_reducible repeat' (first
    | assumption | intro _ | apply ite_ok | apply faultReport_ok | apply modHif_ok | dsimp only | split)
theorem execHostLinkDown_ok {base : State} {s : State} (hk : Kept base s) : KeptA base (execHostLinkDown s) := by
  unfold execHostLinkDown
  with_reducible repeat' (first
    | assumption | intro _ | apply ite_ok | apply waitsInFrost_ok | apply linkDown_ok | apply next_ok | apply iteA_ok | dsimp only
    | split)
theorem linkUp_ok {base : State} (width : Nat) (rate : Nat) (flit : Bool) {s : State} (hk : Kept base s) : Kept base (linkUp width rate flit
    s) := by
  unfold linkUp
  with_reducible repeat' (first
    | assumption | intro _ | apply ite_ok | apply modHif_ok | dsimp only | split)
theorem execHostLinkUp_ok {base : State} (width : Nat) (rate : Nat) (flit : Bool) {s : State} (hk : Kept base s) : KeptA base
    (execHostLinkUp width rate flit s) := by
  unfold execHostLinkUp
  with_reducible repeat' (first
    | assumption | intro _ | apply ite_ok | apply waitsInFrost_ok | apply linkUp_ok | apply next_ok | apply iteA_ok | dsimp only | split)
theorem resumeOne_ok {base : State} (tag : Nat) {s : State} (hk : Kept base s) : Kept base (resumeOne tag s) := by
  unfold resumeOne
  with_reducible repeat' (first
    | assumption | intro _ | apply ite_ok | apply modRck_ok | apply settleCores_ok | apply dropLaunch_ok | apply modCol_ok
    | apply modPln_ok | apply modStp_ok | apply settleFrees_ok | apply completeNow_ok | apply modLive_ok | dsimp only | split)
theorem linkResume_ok {base : State} {s : State} (hk : Kept base s) : Kept base (linkResume s) := by
  unfold linkResume
  with_reducible repeat' (first
    | assumption | intro _ | apply ite_ok | apply modHif_ok | apply forS_ok | apply resumeOne_ok | apply postEvent_ok | dsimp only
    | split)
theorem execHifLinkResume_ok {base : State} {s : State} (hk : Kept base s) : KeptA base (execHifLinkResume s) := by
  unfold execHifLinkResume
  with_reducible repeat' (first
    | assumption | intro _ | apply ite_ok | apply linkResume_ok | apply next_ok | apply iteA_ok | dsimp only | split)
theorem finishTenCommits_ok {base : State} {s : State} (hk : Kept base s) : Kept base (finishTenCommits s) := by
  unfold finishTenCommits
  with_reducible repeat' (first
    | assumption | intro _ | apply ite_ok | apply forS_ok | apply runCommit_ok | (apply modGrp_ok; rotate_left; with_unfolding_all rfl)
    | dsimp only | split)
theorem flrOf_ok {base : State} (n : Nat) {s : State} (hk : Kept base s) : Kept base (flrOf n s) := by
  unfold flrOf
  with_reducible repeat' (first
    | assumption | intro _ | apply ite_ok | apply modSec_ok | apply modHif_ok | apply flrTenants_ok | dsimp only | split)
theorem execFlrVf_ok {base : State} (n : Nat) {s : State} (hk : Kept base s) : KeptA base (execFlrVf n s) := by
  unfold execFlrVf
  with_reducible repeat' (first
    | assumption | intro _ | apply ite_ok | apply waitsInFrost_ok | apply flrOf_ok | apply finishTenCommits_ok | apply next_ok
    | apply iteA_ok | dsimp only | split)
theorem vfRemove_ok {base : State} (clear : Bool) (keep : Nat) {s : State} (hk : Kept base s) : Kept base (vfRemove clear keep s) := by
  unfold vfRemove
  with_reducible repeat' (first
    | assumption | intro _ | apply ite_ok | apply modHif_ok | apply forS_ok | apply flrOf_ok | apply finishTenCommits_ok | dsimp only
    | split)
theorem execVfDisable_ok {base : State} (clear : Bool) (keep : Nat) {s : State} (hk : Kept base s) : KeptA base (execVfDisable clear keep s)
    := by
  unfold execVfDisable
  with_reducible repeat' (first
    | assumption | intro _ | apply ite_ok | apply waitsInFrost_ok | apply vfRemove_ok | apply next_ok | apply iteA_ok | dsimp only
    | split)
theorem flrPf0_ok {base : State} {s : State} (hk : Kept base s) : Kept base (flrPf0 s) := by
  unfold flrPf0
  refine modGrp_set _ rfl ?_
  with_reducible repeat' (first
    | assumption | intro _ | apply checkHold_ok | apply modTim_ok | apply forS_ok | apply portOff_ok | apply modSlot_ok
    | apply flrTenants_ok | apply finishTenCommits_ok)
theorem execFlrPf0_ok {base : State} {s : State} (hk : Kept base s) : KeptA base (execFlrPf0 s) := by
  unfold execFlrPf0
  with_reducible repeat' (first
    | assumption | intro _ | apply ite_ok | apply waitsInFrost_ok | apply flrPf0_ok | apply next_ok | apply iteA_ok | dsimp only | split)
theorem execHotReset_ok {base : State} {s : State} (hk : Kept base s) : KeptA base (execHotReset s) := by
  unfold execHotReset
  with_reducible repeat' (first
    | assumption | intro _ | apply ite_ok | apply waitsInFrost_ok | apply flrPf0_ok | apply next_ok | apply iteA_ok | dsimp only | split)
theorem execAtsInvalidation_ok {base : State} (fn : Nat) (page : Nat) (pages : Nat) (deny : Bool) {s : State} (hk : Kept base s) : KeptA
    base (execAtsInvalidation fn page pages deny s) := by
  unfold execAtsInvalidation
  with_reducible repeat' (first
    | assumption | intro _ | apply ite_ok | apply waitsInFrost_ok | apply modHif_ok | apply emit_ok | apply next_ok | apply iteA_ok
    | dsimp only | split)
theorem settleInvals_ok {base : State} (r : Nat) (count : Nat) {s : State} (hk : Kept base s) : Kept base (settleInvals r count s) := by
  unfold settleInvals
  with_reducible repeat' (first
    | assumption | intro _ | apply ite_ok | apply forS_ok | apply emit_ok | apply modHif_ok | dsimp only | split)
theorem unmaskFn_ok {base : State} (fn : Nat) {s : State} (hk : Kept base s) : Kept base (unmaskFn fn s) := by
  unfold unmaskFn
  with_reducible repeat' (first
    | assumption | intro _ | apply ite_ok | apply forS_ok | apply sendPending_ok | apply modHif_ok | dsimp only | split)
theorem execMsixUnmask_ok {base : State} (acc : Acc) (vec : Option Nat) {s : State} (hk : Kept base s) : KeptA base (execMsixUnmask acc vec
    s) := by
  unfold execMsixUnmask
  with_reducible repeat' (first
    | assumption | intro _ | apply ite_ok | apply msixTableWrite_ok | apply unmaskFn_ok
    | (apply modDbg_ok; rotate_left; with_unfolding_all rfl) | apply next_ok | apply iteA_ok | dsimp only | split)
theorem execMsixModExpiry_ok {base : State} (r : Nat) {s : State} (hk : Kept base s) : KeptA base (execMsixModExpiry r s) := by
  unfold execMsixModExpiry
  with_reducible repeat' (first
    | assumption | intro _ | apply ite_ok | apply clocked_ok | apply modRing_ok | apply raiseIrq_ok | apply next_ok | apply iteA_ok
    | dsimp only | split)
theorem cfgWrite_ok {base : State} (fn : Nat) (a : Nat) (v : Word) {s : State} (hk : Kept base s) : Kept base (cfgWrite fn a v s) := by
  unfold cfgWrite
  with_reducible repeat' (first
    | assumption | intro _ | apply ite_ok | apply modHif_ok | apply vfRemove_ok | apply unmaskFn_ok | dsimp only | split)
theorem execDoorbell_ok {base : State} (acc : Acc) (page : Nat) (off : Nat) (size : Nat) (value : Nat) {s : State} (hk : Kept base s) :
    KeptA base (execDoorbell acc page off size value s) := by
  unfold execDoorbell
  with_reducible repeat' (first
    | assumption | intro _ | apply ite_ok | apply doorbell_ok | apply next_ok | apply iteA_ok | dsimp only | split)
theorem execFetchIssue_ok {base : State} (r : Nat) (tags : List Nat) {s : State} (hk : Kept base s) : KeptA base (execFetchIssue r tags s)
    := by
  unfold execFetchIssue
  with_reducible repeat' (first
    | assumption | intro _ | apply ite_ok | apply fetchIssue_ok | apply next_ok | apply iteA_ok | dsimp only | split)
theorem execFetchReadDone_ok {base : State} (r : Nat) (flt : Nat) (ep : Bool) (bytes : List Byte) {s : State} (hk : Kept base s) : KeptA
    base (execFetchReadDone r flt ep bytes s) := by
  unfold execFetchReadDone
  with_reducible repeat' (first
    | assumption | intro _ | apply ite_ok | apply waitsInFrost_ok | apply settleInvals_ok | apply fetchDone_ok | apply next_ok
    | apply iteA_ok | dsimp only | split)
theorem execSelectorWrite_ok {base : State} (acc : Acc) (a : Nat) (v : Word) {s : State} (hk : Kept base s) : KeptA base (execSelectorWrite
    acc a v s) := by
  unfold execSelectorWrite
  with_reducible repeat' (first
    | assumption | intro _ | apply ite_ok | apply selectorWrite_ok | apply next_ok | apply iteA_ok | dsimp only | split)
theorem execRegisterWrite_ok {base : State} (acc : Acc) (a : Nat) (v : Word) {s : State} (hk : Kept base s) : KeptA base (execRegisterWrite
    acc a v s) := by
  unfold execRegisterWrite
  with_reducible repeat' (first
    | assumption | intro _ | apply ite_ok | apply cfgWrite_ok | (apply modDbg_ok; rotate_left; with_unfolding_all rfl)
    | apply registerWrite_ok | apply next_ok | apply iteA_ok | dsimp only | split)
theorem execHifTenCommit_ok {base : State} (acc : Acc) {s : State} (hk : Kept base s) : KeptA base (execHifTenCommit acc s) := by
  unfold execHifTenCommit
  with_reducible repeat' (first
    | assumption | intro _ | apply ite_ok | apply commitWrite_ok | apply next_ok | apply iteA_ok | dsimp only | split)
theorem execHifTenAbort_ok {base : State} (acc : Acc) {s : State} (hk : Kept base s) : KeptA base (execHifTenAbort acc s) := by
  unfold execHifTenAbort
  with_reducible repeat' (first
    | assumption | intro _ | apply ite_ok | apply abortWrite_ok | apply next_ok | apply iteA_ok | dsimp only | split)
theorem execRngCommit_ok {base : State} (acc : Acc) {s : State} (hk : Kept base s) : KeptA base (execRngCommit acc s) := by
  unfold execRngCommit
  with_reducible repeat' (first
    | assumption | intro _ | apply ite_ok | apply commitWrite_ok | apply next_ok | apply iteA_ok | dsimp only | split)
theorem execRngAbort_ok {base : State} (acc : Acc) {s : State} (hk : Kept base s) : KeptA base (execRngAbort acc s) := by
  unfold execRngAbort
  with_reducible repeat' (first
    | assumption | intro _ | apply ite_ok | apply abortWrite_ok | apply next_ok | apply iteA_ok | dsimp only | split)
theorem execPlnCommit_ok {base : State} (acc : Acc) {s : State} (hk : Kept base s) : KeptA base (execPlnCommit acc s) := by
  unfold execPlnCommit
  with_reducible repeat' (first
    | assumption | intro _ | apply ite_ok | apply commitWrite_ok | apply next_ok | apply iteA_ok | dsimp only | split)
theorem execPlnAbort_ok {base : State} (acc : Acc) {s : State} (hk : Kept base s) : KeptA base (execPlnAbort acc s) := by
  unfold execPlnAbort
  with_reducible repeat' (first
    | assumption | intro _ | apply ite_ok | apply abortWrite_ok | apply next_ok | apply iteA_ok | dsimp only | split)
theorem execPlnTqCommit_ok {base : State} (acc : Acc) {s : State} (hk : Kept base s) : KeptA base (execPlnTqCommit acc s) := by
  unfold execPlnTqCommit
  with_reducible repeat' (first
    | assumption | intro _ | apply ite_ok | apply commitWrite_ok | apply next_ok | apply iteA_ok | dsimp only | split)
theorem execPlnTqAbort_ok {base : State} (acc : Acc) {s : State} (hk : Kept base s) : KeptA base (execPlnTqAbort acc s) := by
  unfold execPlnTqAbort
  with_reducible repeat' (first
    | assumption | intro _ | apply ite_ok | apply abortWrite_ok | apply next_ok | apply iteA_ok | dsimp only | split)
theorem execMemRsvCommit_ok {base : State} (acc : Acc) {s : State} (hk : Kept base s) : KeptA base (execMemRsvCommit acc s) := by
  unfold execMemRsvCommit
  with_reducible repeat' (first
    | assumption | intro _ | apply ite_ok | apply commitWrite_ok | apply next_ok | apply iteA_ok | dsimp only | split)
theorem execMemRsvAbort_ok {base : State} (acc : Acc) {s : State} (hk : Kept base s) : KeptA base (execMemRsvAbort acc s) := by
  unfold execMemRsvAbort
  with_reducible repeat' (first
    | assumption | intro _ | apply ite_ok | apply abortWrite_ok | apply next_ok | apply iteA_ok | dsimp only | split)
theorem execMemThermCommit_ok {base : State} (acc : Acc) {s : State} (hk : Kept base s) : KeptA base (execMemThermCommit acc s) := by
  unfold execMemThermCommit
  with_reducible repeat' (first
    | assumption | intro _ | apply ite_ok | apply commitWrite_ok | apply next_ok | apply iteA_ok | dsimp only | split)
theorem execMemThermAbort_ok {base : State} (acc : Acc) {s : State} (hk : Kept base s) : KeptA base (execMemThermAbort acc s) := by
  unfold execMemThermAbort
  with_reducible repeat' (first
    | assumption | intro _ | apply ite_ok | apply abortWrite_ok | apply next_ok | apply iteA_ok | dsimp only | split)
theorem execCorCommit_ok {base : State} (acc : Acc) (win : Nat) {s : State} (hk : Kept base s) : KeptA base (execCorCommit acc win s) := by
  unfold execCorCommit
  with_reducible repeat' (first
    | assumption | intro _ | apply ite_ok | apply commitWrite_ok | apply next_ok | apply iteA_ok | dsimp only | split)
theorem execCorAbort_ok {base : State} (acc : Acc) (win : Nat) {s : State} (hk : Kept base s) : KeptA base (execCorAbort acc win s) := by
  unfold execCorAbort
  with_reducible repeat' (first
    | assumption | intro _ | apply ite_ok | apply abortWrite_ok | apply next_ok | apply iteA_ok | dsimp only | split)
theorem execCorTerCommit_ok {base : State} (acc : Acc) (win : Nat) {s : State} (hk : Kept base s) : KeptA base (execCorTerCommit acc win s)
    := by
  unfold execCorTerCommit
  with_reducible repeat' (first
    | assumption | intro _ | apply ite_ok | apply commitWrite_ok | apply next_ok | apply iteA_ok | dsimp only | split)
theorem execCorTerAbort_ok {base : State} (acc : Acc) (win : Nat) {s : State} (hk : Kept base s) : KeptA base (execCorTerAbort acc win s) :=
    by
  unfold execCorTerAbort
  with_reducible repeat' (first
    | assumption | intro _ | apply ite_ok | apply abortWrite_ok | apply next_ok | apply iteA_ok | dsimp only | split)
theorem execArrCommit_ok {base : State} (acc : Acc) {s : State} (hk : Kept base s) : KeptA base (execArrCommit acc s) := by
  unfold execArrCommit
  with_reducible repeat' (first
    | assumption | intro _ | apply ite_ok | apply commitWrite_ok | apply next_ok | apply iteA_ok | dsimp only | split)
theorem execArrAbort_ok {base : State} (acc : Acc) {s : State} (hk : Kept base s) : KeptA base (execArrAbort acc s) := by
  unfold execArrAbort
  with_reducible repeat' (first
    | assumption | intro _ | apply ite_ok | apply abortWrite_ok | apply next_ok | apply iteA_ok | dsimp only | split)
theorem execFmtCommit_ok {base : State} (acc : Acc) {s : State} (hk : Kept base s) : KeptA base (execFmtCommit acc s) := by
  unfold execFmtCommit
  with_reducible repeat' (first
    | assumption | intro _ | apply ite_ok | apply commitWrite_ok | apply next_ok | apply iteA_ok | dsimp only | split)
theorem execFmtAbort_ok {base : State} (acc : Acc) {s : State} (hk : Kept base s) : KeptA base (execFmtAbort acc s) := by
  unfold execFmtAbort
  with_reducible repeat' (first
    | assumption | intro _ | apply ite_ok | apply abortWrite_ok | apply next_ok | apply iteA_ok | dsimp only | split)
theorem execVnlPortCommit_ok {base : State} (acc : Acc) (win : Nat) {s : State} (hk : Kept base s) : KeptA base (execVnlPortCommit acc win
    s) := by
  unfold execVnlPortCommit
  with_reducible repeat' (first
    | assumption | intro _ | apply ite_ok | apply commitWrite_ok | apply next_ok | apply iteA_ok | dsimp only | split)
theorem execVnlPortAbort_ok {base : State} (acc : Acc) (win : Nat) {s : State} (hk : Kept base s) : KeptA base (execVnlPortAbort acc win s)
    := by
  unfold execVnlPortAbort
  with_reducible repeat' (first
    | assumption | intro _ | apply ite_ok | apply abortWrite_ok | apply next_ok | apply iteA_ok | dsimp only | split)
theorem execVnlPclCommit_ok {base : State} (acc : Acc) {s : State} (hk : Kept base s) : KeptA base (execVnlPclCommit acc s) := by
  unfold execVnlPclCommit
  with_reducible repeat' (first
    | assumption | intro _ | apply ite_ok | apply commitWrite_ok | apply next_ok | apply iteA_ok | dsimp only | split)
theorem execVnlPclAbort_ok {base : State} (acc : Acc) {s : State} (hk : Kept base s) : KeptA base (execVnlPclAbort acc s) := by
  unfold execVnlPclAbort
  with_reducible repeat' (first
    | assumption | intro _ | apply ite_ok | apply abortWrite_ok | apply next_ok | apply iteA_ok | dsimp only | split)
theorem execColCommit_ok {base : State} (acc : Acc) {s : State} (hk : Kept base s) : KeptA base (execColCommit acc s) := by
  unfold execColCommit
  with_reducible repeat' (first
    | assumption | intro _ | apply ite_ok | apply commitWrite_ok | apply next_ok | apply iteA_ok | dsimp only | split)
theorem execColAbort_ok {base : State} (acc : Acc) {s : State} (hk : Kept base s) : KeptA base (execColAbort acc s) := by
  unfold execColAbort
  with_reducible repeat' (first
    | assumption | intro _ | apply ite_ok | apply abortWrite_ok | apply next_ok | apply iteA_ok | dsimp only | split)
theorem execStpTenCommit_ok {base : State} (acc : Acc) {s : State} (hk : Kept base s) : KeptA base (execStpTenCommit acc s) := by
  unfold execStpTenCommit
  with_reducible repeat' (first
    | assumption | intro _ | apply ite_ok | apply commitWrite_ok | apply next_ok | apply iteA_ok | dsimp only | split)
theorem execStpTenAbort_ok {base : State} (acc : Acc) {s : State} (hk : Kept base s) : KeptA base (execStpTenAbort acc s) := by
  unfold execStpTenAbort
  with_reducible repeat' (first
    | assumption | intro _ | apply ite_ok | apply abortWrite_ok | apply next_ok | apply iteA_ok | dsimp only | split)
theorem execRckTenCommit_ok {base : State} (acc : Acc) {s : State} (hk : Kept base s) : KeptA base (execRckTenCommit acc s) := by
  unfold execRckTenCommit
  with_reducible repeat' (first
    | assumption | intro _ | apply ite_ok | apply commitWrite_ok | apply next_ok | apply iteA_ok | dsimp only | split)
theorem execRckTenAbort_ok {base : State} (acc : Acc) {s : State} (hk : Kept base s) : KeptA base (execRckTenAbort acc s) := by
  unfold execRckTenAbort
  with_reducible repeat' (first
    | assumption | intro _ | apply ite_ok | apply abortWrite_ok | apply next_ok | apply iteA_ok | dsimp only | split)
theorem execRckWearCommit_ok {base : State} (acc : Acc) {s : State} (hk : Kept base s) : KeptA base (execRckWearCommit acc s) := by
  unfold execRckWearCommit
  with_reducible repeat' (first
    | assumption | intro _ | apply ite_ok | apply commitWrite_ok | apply next_ok | apply iteA_ok | dsimp only | split)
theorem execRckWearAbort_ok {base : State} (acc : Acc) {s : State} (hk : Kept base s) : KeptA base (execRckWearAbort acc s) := by
  unfold execRckWearAbort
  with_reducible repeat' (first
    | assumption | intro _ | apply ite_ok | apply abortWrite_ok | apply next_ok | apply iteA_ok | dsimp only | split)
theorem execCelCommit_ok {base : State} (acc : Acc) {s : State} (hk : Kept base s) : KeptA base (execCelCommit acc s) := by
  unfold execCelCommit
  with_reducible repeat' (first
    | assumption | intro _ | apply ite_ok | apply commitWrite_ok | apply next_ok | apply iteA_ok | dsimp only | split)
theorem execCelAbort_ok {base : State} (acc : Acc) {s : State} (hk : Kept base s) : KeptA base (execCelAbort acc s) := by
  unfold execCelAbort
  with_reducible repeat' (first
    | assumption | intro _ | apply ite_ok | apply abortWrite_ok | apply next_ok | apply iteA_ok | dsimp only | split)
theorem execCelSvcCommit_ok {base : State} (acc : Acc) {s : State} (hk : Kept base s) : KeptA base (execCelSvcCommit acc s) := by
  unfold execCelSvcCommit
  with_reducible repeat' (first
    | assumption | intro _ | apply ite_ok | apply commitWrite_ok | apply next_ok | apply iteA_ok | dsimp only | split)
theorem execCelSvcAbort_ok {base : State} (acc : Acc) {s : State} (hk : Kept base s) : KeptA base (execCelSvcAbort acc s) := by
  unfold execCelSvcAbort
  with_reducible repeat' (first
    | assumption | intro _ | apply ite_ok | apply abortWrite_ok | apply next_ok | apply iteA_ok | dsimp only | split)
theorem execErrCommit_ok {base : State} (acc : Acc) {s : State} (hk : Kept base s) : KeptA base (execErrCommit acc s) := by
  unfold execErrCommit
  with_reducible repeat' (first
    | assumption | intro _ | apply ite_ok | apply commitWrite_ok | apply next_ok | apply iteA_ok | dsimp only | split)
theorem execErrAbort_ok {base : State} (acc : Acc) {s : State} (hk : Kept base s) : KeptA base (execErrAbort acc s) := by
  unfold execErrAbort
  with_reducible repeat' (first
    | assumption | intro _ | apply ite_ok | apply abortWrite_ok | apply next_ok | apply iteA_ok | dsimp only | split)
theorem execPwrCommit_ok {base : State} (acc : Acc) {s : State} (hk : Kept base s) : KeptA base (execPwrCommit acc s) := by
  unfold execPwrCommit
  with_reducible repeat' (first
    | assumption | intro _ | apply ite_ok | apply commitWrite_ok | apply next_ok | apply iteA_ok | dsimp only | split)
theorem execPwrAbort_ok {base : State} (acc : Acc) {s : State} (hk : Kept base s) : KeptA base (execPwrAbort acc s) := by
  unfold execPwrAbort
  with_reducible repeat' (first
    | assumption | intro _ | apply ite_ok | apply abortWrite_ok | apply next_ok | apply iteA_ok | dsimp only | split)
theorem execTimCommit_ok {base : State} (acc : Acc) {s : State} (hk : Kept base s) : KeptA base (execTimCommit acc s) := by
  unfold execTimCommit
  with_reducible repeat' (first
    | assumption | intro _ | apply ite_ok | apply commitWrite_ok | apply next_ok | apply iteA_ok | dsimp only | split)
theorem execTimAbort_ok {base : State} (acc : Acc) {s : State} (hk : Kept base s) : KeptA base (execTimAbort acc s) := by
  unfold execTimAbort
  with_reducible repeat' (first
    | assumption | intro _ | apply ite_ok | apply abortWrite_ok | apply next_ok | apply iteA_ok | dsimp only | split)
theorem execDbgCommit_ok {base : State} (acc : Acc) {s : State} (hk : Kept base s) : KeptA base (execDbgCommit acc s) := by
  unfold execDbgCommit
  with_reducible repeat' (first
    | assumption | intro _ | apply ite_ok | apply commitWrite_ok | apply next_ok | apply iteA_ok | dsimp only | split)
theorem execDbgAbort_ok {base : State} (acc : Acc) {s : State} (hk : Kept base s) : KeptA base (execDbgAbort acc s) := by
  unfold execDbgAbort
  with_reducible repeat' (first
    | assumption | intro _ | apply ite_ok | apply abortWrite_ok | apply next_ok | apply iteA_ok | dsimp only | split)
theorem execDbgTenCommit_ok {base : State} (acc : Acc) {s : State} (hk : Kept base s) : KeptA base (execDbgTenCommit acc s) := by
  unfold execDbgTenCommit
  with_reducible repeat' (first
    | assumption | intro _ | apply ite_ok | apply commitWrite_ok | apply next_ok | apply iteA_ok | dsimp only | split)
theorem execDbgTenAbort_ok {base : State} (acc : Acc) {s : State} (hk : Kept base s) : KeptA base (execDbgTenAbort acc s) := by
  unfold execDbgTenAbort
  with_reducible repeat' (first
    | assumption | intro _ | apply ite_ok | apply abortWrite_ok | apply next_ok | apply iteA_ok | dsimp only | split)
theorem execBootCommit_ok {base : State} (acc : Acc) {s : State} (hk : Kept base s) : KeptA base (execBootCommit acc s) := by
  unfold execBootCommit
  with_reducible repeat' (first
    | assumption | intro _ | apply ite_ok | apply commitWrite_ok | apply next_ok | apply iteA_ok | dsimp only | split)
theorem execBootAbort_ok {base : State} (acc : Acc) {s : State} (hk : Kept base s) : KeptA base (execBootAbort acc s) := by
  unfold execBootAbort
  with_reducible repeat' (first
    | assumption | intro _ | apply ite_ok | apply abortWrite_ok | apply next_ok | apply iteA_ok | dsimp only | split)
theorem execCelTblLoad_ok {base : State} (acc : Acc) {s : State} (hk : Kept base s) : KeptA base (execCelTblLoad acc s) := by
  unfold execCelTblLoad
  with_reducible repeat' (first
    | assumption | intro _ | apply ite_ok | apply commitWrite_ok | apply next_ok | apply iteA_ok | dsimp only | split)
theorem execCelTblUnload_ok {base : State} (acc : Acc) {s : State} (hk : Kept base s) : KeptA base (execCelTblUnload acc s) := by
  unfold execCelTblUnload
  with_reducible repeat' (first
    | assumption | intro _ | apply ite_ok | apply commitWrite_ok | apply next_ok | apply iteA_ok | dsimp only | split)
theorem execSecKeyInstall_ok {base : State} (acc : Acc) {s : State} (hk : Kept base s) : KeptA base (execSecKeyInstall acc s) := by
  unfold execSecKeyInstall
  with_reducible repeat' (first
    | assumption | intro _ | apply ite_ok | apply commitWrite_ok | apply next_ok | apply iteA_ok | dsimp only | split)
theorem execSecKeyDestroy_ok {base : State} (acc : Acc) {s : State} (hk : Kept base s) : KeptA base (execSecKeyDestroy acc s) := by
  unfold execSecKeyDestroy
  with_reducible repeat' (first
    | assumption | intro _ | apply ite_ok | apply commitWrite_ok | apply next_ok | apply iteA_ok | dsimp only | split)
theorem execCelTblAbort_ok {base : State} (acc : Acc) {s : State} (hk : Kept base s) : KeptA base (execCelTblAbort acc s) := by
  unfold execCelTblAbort
  with_reducible repeat' (first
    | assumption | intro _ | apply ite_ok | apply abortWrite_ok | apply next_ok | apply iteA_ok | dsimp only | split)
theorem execSecKeyAbort_ok {base : State} (acc : Acc) {s : State} (hk : Kept base s) : KeptA base (execSecKeyAbort acc s) := by
  unfold execSecKeyAbort
  with_reducible repeat' (first
    | assumption | intro _ | apply ite_ok | apply abortWrite_ok | apply next_ok | apply iteA_ok | dsimp only | split)

end Sys2Proof.Machine
end

