-- ==== Sys2Proof/Laws/KeptTrace.lean ====
section
/-!
SUPPORT. Laws/KeptTrace.lean: every operation and command of Machine/Trace.lean keeps `Kept`.
-/
namespace Sys2Proof.Machine

set_option linter.unusedTactic false
set_option linter.unreachableTactic false
set_option linter.unusedVariables false

theorem traceCounts_ok {base : State} (t : Nat) {s : State} (hk : Kept base s) : Kept base (traceCounts t s) := by
  unfold traceCounts
  with_reducible repeat' (first
    | assumption | intro _ | apply ite_ok | apply hPut_ok | dsimp only | split)
theorem drainOne_ok {base : State} (c : Nat) (x : Sample) {s : State} (hk : Kept base s) : Kept base (drainOne c x s) := by
  unfold drainOne
  with_reducible repeat' (first
    | assumption | intro _ | apply ite_ok | (apply modDbg_ok; rotate_left; with_unfolding_all rfl) | apply traceCounts_ok
    | apply hPut_ok | dsimp only | split)
theorem drainTrace_ok {base : State} (c : Nat) {s : State} (hk : Kept base s) : Kept base (drainTrace c s) := by
  unfold drainTrace
  with_reducible repeat' (first
    | assumption | intro _ | apply ite_ok | apply forS_ok | apply drainOne_ok | (apply modDbg_ok; rotate_left; with_unfolding_all rfl)
    | dsimp only | split)

end Sys2Proof.Machine
end

