-- ==== Sys2Proof/Laws/KeptDebug.lean ====
section
/-!
SUPPORT. Laws/KeptDebug.lean: every operation and command of Machine/Debug.lean keeps `Kept`.
-/
namespace Sys2Proof.Machine

set_option linter.unusedTactic false
set_option linter.unreachableTactic false
set_option linter.unusedVariables false

theorem execDbgFrostFreeze_ok {base : State} (acc : Acc) {s : State} (hk : Kept base s) : KeptA base (execDbgFrostFreeze acc s) := by
  unfold execDbgFrostFreeze
  with_reducible repeat' (first
    | assumption | intro _ | apply ite_ok | apply frostAsk_ok | apply next_ok | apply iteA_ok | dsimp only | split)
theorem frostResume_ok {base : State} {s : State} (hk : Kept base s) : Kept base (frostResume s) := by
  unfold frostResume
  with_reducible repeat' (first
    | assumption | intro _ | apply ite_ok | (apply modDbg_ok; rotate_left; with_unfolding_all rfl)
    | (refine modDbg_to _ (by with_unfolding_all simp) ?_) | dsimp only | split)
theorem execDbgFrostResume_ok {base : State} (acc : Acc) {s : State} (hk : Kept base s) : KeptA base (execDbgFrostResume acc s) := by
  unfold execDbgFrostResume
  with_reducible repeat' (first
    | assumption | intro _ | apply ite_ok | apply frostResume_ok | apply next_ok | apply iteA_ok | dsimp only | split)
theorem frostStopped_ok {base : State} (stops : List (Nat × Nat)) (fifos : List FifoHeld) (syncs : List SyncHeld) {s : State}
    (hk : Kept base s) : Kept base (frostStopped stops fifos syncs s) := by
  unfold frostStopped
  split
  · exact modDbg_to _ (by dsimp only; split <;> decide) hk
  · exact hk
theorem execFrostStopped_ok {base : State} (cut : Cut) {s : State} (hk : Kept base s) : KeptA base (execFrostStopped cut s) := by
  unfold execFrostStopped
  with_reducible repeat' (first
    | assumption | intro _ | apply ite_ok | apply frostStopped_ok | apply next_ok | apply iteA_ok | dsimp only | split)
theorem runLate_ok {base : State} (c : Late) {s : State} (hk : Kept base s) : Kept base (runLate c s) := by
  unfold runLate
  with_reducible repeat' (first
    | assumption | intro _ | apply ite_ok | apply stateOf_ok | apply execFetchReadDone_ok | apply execHostLinkDown_ok
    | apply execHostLinkUp_ok | apply execFlrVf_ok | apply execVfDisable_ok | apply execFlrPf0_ok | apply execHotReset_ok
    | apply execAtsInvalidation_ok | apply execMsixUnmask_ok | apply execRegisterWrite_ok | apply execGetVersion_ok
    | apply execGetCapabilities_ok | apply execNegotiateAlgorithms_ok | apply execGetDigests_ok | apply execGetCertificate_ok
    | apply execSpdmChallenge_ok | apply execGetMeasurements_ok | apply execKeyExchange_ok | apply execSpdmFinish_ok
    | apply execEndSession_ok | apply execSpdmHeartbeat_ok | apply execKeyUpdate_ok | apply execChunkSend_ok | apply execChunkGet_ok
    | apply execIdeQuery_ok | apply execKeyProg_ok | apply execKSetGo_ok | apply execKSetStop_ok | apply execGetTdispVersion_ok
    | apply execGetTdispCapabilities_ok | apply execLockInterface_ok | apply execGetDeviceInterfaceReport_ok
    | apply execGetDeviceInterfaceState_ok | apply execStartInterface_ok | apply execStopInterface_ok | dsimp only | split)
theorem frostDone_ok {base : State} {s : State} (hk : Kept base s) : Kept base (frostDone s) := by
  unfold frostDone
  with_reducible repeat' (first
    | assumption | intro _ | apply ite_ok | apply forS_ok | apply enterRetrain_ok
    | (apply modDbg_ok; rotate_left; with_unfolding_all rfl) | (refine modDbg_to _ (by with_unfolding_all simp) ?_) | apply runLate_ok
    | apply frostAsk_ok | dsimp only | split)
theorem execFrostResumeDone_ok {base : State} {s : State} (hk : Kept base s) : KeptA base (execFrostResumeDone s) := by
  unfold execFrostResumeDone
  with_reducible repeat' (first
    | assumption | intro _ | apply ite_ok | apply frostDone_ok | apply next_ok | apply iteA_ok | dsimp only | split)
theorem scanRead_ok {base : State} {s : State} (hk : Kept base s) : Kept base (scanRead s) := by
  unfold scanRead
  with_reducible repeat' (first
    | assumption | intro _ | apply ite_ok | apply emit_ok | apply setRw_ok | dsimp only | split)
theorem execDbgScanData_ok {base : State} (acc : Acc) {s : State} (hk : Kept base s) : KeptA base (execDbgScanData acc s) := by
  unfold execDbgScanData
  with_reducible repeat' (first
    | assumption | intro _ | apply ite_ok | apply scanRead_ok | apply emit_ok | apply next_ok | apply iteA_ok | dsimp only | split)
theorem traceRead_ok {base : State} {s : State} (hk : Kept base s) : Kept base (traceRead s) := by
  unfold traceRead
  with_reducible repeat' (first
    | assumption | intro _ | apply ite_ok | apply emit_ok | apply setRw_ok | dsimp only | split)
theorem execDbgTraceData_ok {base : State} (acc : Acc) {s : State} (hk : Kept base s) : KeptA base (execDbgTraceData acc s) := by
  unfold execDbgTraceData
  with_reducible repeat' (first
    | assumption | intro _ | apply ite_ok | apply traceRead_ok | apply emit_ok | apply next_ok | apply iteA_ok | dsimp only | split)
theorem takeSample_ok {base : State} (c : Nat) (pc : Nat) (mMode : Bool) (wait : Nat) (flags : Nat) {s : State} (hk : Kept base s) : Kept
    base (takeSample c pc mMode wait flags s) := by
  unfold takeSample
  with_reducible repeat' (first
    | assumption | intro _ | apply ite_ok | apply traceCounts_ok | (apply modDbg_ok; rotate_left; with_unfolding_all rfl) | dsimp only
    | split)
theorem execTraceSample_ok {base : State} (c : Nat) (pc : Nat) (mMode : Bool) (wait : Nat) (flags : Nat) (drained : Bool) {s : State} (hk :
    Kept base s) : KeptA base (execTraceSample c pc mMode wait flags drained s) := by
  unfold execTraceSample
  with_reducible repeat' (first
    | assumption | intro _ | apply ite_ok | apply iodClocked_ok | apply takeSample_ok | apply drainTrace_ok | apply next_ok
    | apply iteA_ok | dsimp only | split)
theorem tapInstr_ok {base : State} (ok : Bool) (code : Nat) (drive : Nat) {s : State} (hk : Kept base s) : Kept base (tapInstr ok code drive
    s) := by
  unfold tapInstr
  with_reducible repeat' (first
    | assumption | intro _ | apply ite_ok | (apply modDbg_ok; rotate_left; with_unfolding_all rfl) | dsimp only | split)
theorem tapDrive_ok {base : State} (code : Nat) (drive : Nat) {s : State} (hk : Kept base s) : Kept base (tapDrive code drive s) := by
  unfold tapDrive
  with_reducible repeat' (first
    | assumption | intro _ | apply ite_ok | apply tapInstr_ok | dsimp only | split)
theorem execTapReset_ok {base : State} {s : State} (hk : Kept base s) : KeptA base (execTapReset s) := by
  unfold execTapReset
  with_reducible repeat' (first
    | assumption | intro _ | apply ite_ok | apply tapInstr_ok | apply next_ok | apply iteA_ok | dsimp only | split)
theorem execExtest_ok {base : State} {s : State} (hk : Kept base s) : KeptA base (execExtest s) := by
  unfold execExtest
  with_reducible repeat' (first
    | assumption | intro _ | apply ite_ok | apply tapDrive_ok | apply next_ok | apply iteA_ok | dsimp only | split)
theorem execIdcode_ok {base : State} {s : State} (hk : Kept base s) : KeptA base (execIdcode s) := by
  unfold execIdcode
  with_reducible repeat' (first
    | assumption | intro _ | apply ite_ok | apply tapInstr_ok | apply emit_ok | apply next_ok | apply iteA_ok | dsimp only | split)
theorem execSamplePreload_ok {base : State} (pins : Nat) (load : Nat) {s : State} (hk : Kept base s) : KeptA base (execSamplePreload pins
    load s) := by
  unfold execSamplePreload
  with_reducible repeat' (first
    | assumption | intro _ | apply ite_ok | apply emit_ok | (apply modDbg_ok; rotate_left; with_unfolding_all rfl) | apply tapInstr_ok
    | apply next_ok | apply iteA_ok | dsimp only | split)
theorem execTapClamp_ok {base : State} {s : State} (hk : Kept base s) : KeptA base (execTapClamp s) := by
  unfold execTapClamp
  with_reducible repeat' (first
    | assumption | intro _ | apply ite_ok | apply tapDrive_ok | apply next_ok | apply iteA_ok | dsimp only | split)
theorem execHighz_ok {base : State} {s : State} (hk : Kept base s) : KeptA base (execHighz s) := by
  unfold execHighz
  with_reducible repeat' (first
    | assumption | intro _ | apply ite_ok | apply tapDrive_ok | apply next_ok | apply iteA_ok | dsimp only | split)
theorem execExtestPulse_ok {base : State} {s : State} (hk : Kept base s) : KeptA base (execExtestPulse s) := by
  unfold execExtestPulse
  with_reducible repeat' (first
    | assumption | intro _ | apply ite_ok | apply tapDrive_ok | apply next_ok | apply iteA_ok | dsimp only | split)
theorem execExtestTrain_ok {base : State} {s : State} (hk : Kept base s) : KeptA base (execExtestTrain s) := by
  unfold execExtestTrain
  with_reducible repeat' (first
    | assumption | intro _ | apply ite_ok | apply tapDrive_ok | apply next_ok | apply iteA_ok | dsimp only | split)
theorem execTapBypass_ok {base : State} {s : State} (hk : Kept base s) : KeptA base (execTapBypass s) := by
  unfold execTapBypass
  with_reducible repeat' (first
    | assumption | intro _ | apply ite_ok | apply tapInstr_ok | apply next_ok | apply iteA_ok | dsimp only | split)
theorem tapWrite_ok {base : State} (o : Nat) (v : Word) {s : State} (hk : Kept base s) : Kept base (tapWrite o v s) := by
  unfold tapWrite
  with_reducible repeat' (first
    | assumption | intro _ | apply ite_ok | apply frostAsk_ok | apply frostResume_ok | apply abortWrite_ok | apply commitWrite_ok
    | apply selectorWrite_ok | apply registerWrite_ok | dsimp only | split)
theorem tapRead_ok {base : State} (o : Nat) {s : State} (hk : Kept base s) : Kept base (tapRead o s) := by
  unfold tapRead
  with_reducible repeat' (first
    | assumption | intro _ | apply ite_ok | apply scanRead_ok | apply traceRead_ok | apply emit_ok | dsimp only | split)
theorem execDbgAccess_ok {base : State} (write : Bool) (o : Nat) (v : Word) {s : State} (hk : Kept base s) : KeptA base (execDbgAccess write
    o v s) := by
  unfold execDbgAccess
  with_reducible repeat' (first
    | assumption | intro _ | apply ite_ok | apply tapInstr_ok | apply emit_ok | apply tapWrite_ok | apply tapRead_ok | apply next_ok
    | apply iteA_ok | dsimp only | split)
theorem execCaveDbg_ok {base : State} (op : Nat) (addr : Nat) (data : Word) {s : State} (hk : Kept base s) : KeptA base (execCaveDbg op addr
    data s) := by
  unfold execCaveDbg
  with_reducible repeat' (first
    | assumption | intro _ | apply ite_ok | apply tapInstr_ok | apply modSec_ok | apply emit_ok | apply next_ok | apply iteA_ok
    | dsimp only | split)

end Sys2Proof.Machine
end

