-- ==== Sys2Proof/Laws/KeptLaunch.lean ====
section
/-!
SUPPORT. Laws/KeptLaunch.lean: every operation and command of Machine/Launch.lean keeps `Kept`.
-/
namespace Sys2Proof.Machine

set_option linter.unusedTactic false
set_option linter.unreachableTactic false
set_option linter.unusedVariables false

theorem noteFlt_ok {base : State} (c : Nat) (code : Nat) (op : Nat) (t : Nat) (plot : Nat) {s : State} (hk : Kept base s) : Kept base
    (noteFlt c code op t plot s) := by
  unfold noteFlt
  with_reducible repeat' (first
    | assumption | intro _ | apply ite_ok | apply modCore_ok | dsimp only | split)
theorem failLaunch_ok {base : State} (tag : Nat) (status : Nat) (detail : Nat) (result : Nat) {s : State} (hk : Kept base s) : Kept base
    (failLaunch tag status detail result s) := by
  unfold failLaunch
  with_reducible repeat' (first
    | assumption | intro _ | apply ite_ok | apply forS_ok | apply drainTrace_ok | apply tallyPart_ok | apply done_ok
    | apply settleCores_ok | apply dropLaunch_ok | dsimp only | split)
theorem faultLaunch_ok {base : State} (tag : Nat) (c : Nat) (code : Nat) (op : Nat) (plot : Nat) (status : Nat) (detail : Nat) {s : State}
    (hk : Kept base s) : Kept base (faultLaunch tag c code op plot status detail s) := by
  unfold faultLaunch
  with_reducible repeat' (first
    | assumption | intro _ | apply ite_ok | apply failLaunch_ok | apply noteFlt_ok | dsimp only | split)
theorem endPart_ok {base : State} (tag : Nat) (c : Nat) {s : State} (hk : Kept base s) : Kept base (endPart tag c s) := by
  unfold endPart
  with_reducible repeat' (first
    | assumption | intro _ | apply ite_ok | apply modPart_ok | apply drainTrace_ok | apply tallyPart_ok | apply done_ok
    | apply settleCores_ok | apply dropLaunch_ok | apply settleCore_ok | dsimp only | split)
theorem launchMake_ok {base : State} (tag : Nat) {s : State} (hk : Kept base s) : Kept base (launchMake tag s) := by
  unfold launchMake
  with_reducible repeat' (first
    | assumption | intro _ | apply ite_ok | apply modLive_ok | apply wakeUp_ok | apply promoteRange_ok | apply modPwr_ok
    | apply modCor_ok | apply forS_ok | apply abortSweep_ok | apply abortStress_ok | dsimp only | split)
theorem execLaunch_ok {base : State} (tag : Nat) {s : State} (hk : Kept base s) : KeptA base (execLaunch tag s) := by
  unfold execLaunch
  with_reducible repeat' (first
    | assumption | intro _ | apply ite_ok | apply launchMake_ok | apply startDesc_ok | apply done_ok | apply next_ok | apply iteA_ok
    | dsimp only | split)
theorem startPlot_ok {base : State} (c : Nat) (k : Nat) (entry : Nat) (plot : Nat) (arg : Nat) {s : State} (hk : Kept base s) : Kept base
    (startPlot c k entry plot arg s) := by
  unfold startPlot
  with_reducible repeat' (first
    | assumption | intro _ | apply ite_ok | apply modSlot_ok | apply modMem_ok | apply memWf_set | apply memWf_write | apply memWf_zero
    | apply memWf_copy | apply memWf_filter | refine Inv.mem (Kept.inv (a := base) ?_) | dsimp only | split)
theorem beginSwap_ok {base : State} (c : Nat) (k : Nat) {s : State} (hk : Kept base s) : Kept base (beginSwap c k s) := by
  unfold beginSwap
  with_reducible repeat' (first
    | assumption | intro _ | apply ite_ok | apply modCore_ok | dsimp only | split)
theorem preempt_ok {base : State} (c : Nat) (k : Nat) {s : State} (hk : Kept base s) : Kept base (preempt c k s) := by
  unfold preempt
  with_reducible repeat' (first
    | assumption | intro _ | apply ite_ok | apply settlePreempt_ok | apply modCore_ok | apply modSlot_ok | dsimp only | split)
theorem preemptOnWait_ok {base : State} (c : Nat) {s : State} (hk : Kept base s) : Kept base (preemptOnWait c s) := by
  unfold preemptOnWait
  with_reducible repeat' (first
    | assumption | intro _ | apply ite_ok | apply preempt_ok | dsimp only | split)
theorem nextPlot_ok {base : State} (tag : Nat) (c : Nat) (k : Nat) {s : State} (hk : Kept base s) : Kept base (nextPlot tag c k s) := by
  unfold nextPlot
  with_reducible repeat' (first
    | assumption | intro _ | apply ite_ok | apply modSlot_ok | apply modPart_ok | apply startPlot_ok | dsimp only | split)
theorem markRan_ok {base : State} (c : Nat) (k : Nat) {s : State} (hk : Kept base s) : Kept base (markRan c k s) := by
  unfold markRan
  with_reducible repeat' (first
    | assumption | intro _ | apply ite_ok | apply modCor_ok | dsimp only | split)
theorem coreStart_ok {base : State} (tag : Nat) (c : Nat) {s : State} (hk : Kept base s) : Kept base (coreStart tag c s) := by
  unfold coreStart
  with_reducible repeat' (first
    | assumption | intro _ | apply ite_ok | apply beginSwap_ok | apply promoteRange_ok | apply poisonFault_ok | apply countAccess_ok
    | apply modMem_ok | apply memWf_set | apply memWf_write | apply memWf_zero | apply memWf_copy | apply memWf_filter
    | refine Inv.mem (Kept.inv (a := base) ?_) | apply modCore_ok | apply modSlot_ok | apply modPart_ok | apply modLaunch_ok
    | apply markRan_ok | apply nextPlot_ok | apply preemptOnWait_ok | dsimp only | split)
theorem execLaunchCoreStart_ok {base : State} (tag : Nat) (c : Nat) {s : State} (hk : Kept base s) : KeptA base (execLaunchCoreStart tag c
    s) := by
  unfold execLaunchCoreStart
  with_reducible repeat' (first
    | assumption | intro _ | apply ite_ok | apply coreStart_ok | apply next_ok | apply iteA_ok | dsimp only | split)
theorem promoteRows_ok {base : State} (l : List (Nat × Nat × Nat)) {s : State} (hk : Kept base s) : Kept base (promoteRows l s) := by
  unfold promoteRows
  with_reducible repeat' (first
    | assumption | intro _ | apply ite_ok | apply forS_ok | apply promoteRange_ok | dsimp only | split)
theorem tileFire_ok {base : State} (c : Nat) {s : State} (hk : Kept base s) : Kept base (tileFire c s) := by
  unfold tileFire
  with_reducible repeat' (first
    | assumption | intro _ | apply ite_ok | apply modLaunch_ok | apply modSlot_ok | apply faultLaunch_ok | apply count_ok
    | apply preemptOnWait_ok | apply promoteRows_ok | dsimp only | split)
theorem execTileFire_ok {base : State} (c : Nat) {s : State} (hk : Kept base s) : KeptA base (execTileFire c s) := by
  unfold execTileFire
  with_reducible repeat' (first
    | assumption | intro _ | apply ite_ok | apply tileFire_ok | apply next_ok | apply iteA_ok | dsimp only | split)
theorem countMoves_ok {base : State} (c : Nat) (b : List Byte) (o : TileOut) {s : State} (hk : Kept base s) : Kept base (countMoves c b o s)
    := by
  unfold countMoves
  with_reducible repeat' (first
    | assumption | intro _ | apply ite_ok | apply forS_ok | apply count_ok | dsimp only | split)
theorem retireTile_ok {base : State} (c : Nat) (k : Nat) (i : Nat) (q : QTile) (l : Launch) (o : TileOut) {s : State} (hk : Kept base s) :
    Kept base (retireTile c k i q l o s) := by
  unfold retireTile
  with_reducible repeat' (first
    | assumption | intro _ | apply ite_ok | apply forS_ok | apply count_ok | apply countMoves_ok | apply modLaunch_ok | apply modSlot_ok
    | apply makePost_ok | apply endPart_ok | dsimp only | split)
theorem tileWrites_ok {base : State} (c : Nat) (l : Launch) (o : TileOut) {s : State} (hk : Kept base s) : Kept base (tileWrites c l o s)
    := by
  unfold tileWrites
  refine forS_ok _ _ (fun y x hx => hWrite_ok _ _ _ _ _ _ hx) ?_
  have h1 := forS_ok o.writes (uPut c l.tenant) (fun y x hx => uPut_ok _ _ _ hx) hk
  generalize forS o.writes (uPut c l.tenant) s = s1 at h1 ⊢
  have h2 : Kept base { s1 with mem := o.accW.foldl (fun m w => memSet m (imgKey c (0x400000 + w.1)) w.2) s1.mem } :=
    mem_ok h1 (memWf_foldl _ (fun m x hm => memWf_set m _ _ hm) _ _ h1.2.1)
  exact ite_ok h2 (mem_ok h2 (memWf_write _ _ _ h2.2.1))
theorem tileComplete_ok {base : State} (c : Nat) (i : Nat) {s : State} (hk : Kept base s) : Kept base (tileComplete c i s) := by
  unfold tileComplete
  with_reducible repeat' (first
    | assumption | intro _ | apply ite_ok | apply promoteRows_ok | apply poisonFault_ok | apply forS_ok | apply countAccess_ok
    | apply tileWrites_ok | apply modSlot_ok | apply settlePreempt_ok | apply retireTile_ok | dsimp only | split)
theorem execTileComplete_ok {base : State} (c : Nat) (i : Nat) {s : State} (hk : Kept base s) : KeptA base (execTileComplete c i s) := by
  unfold execTileComplete
  with_reducible repeat' (first
    | assumption | intro _ | apply ite_ok | apply tileComplete_ok | apply next_ok | apply iteA_ok | dsimp only | split)
theorem execTokenPost_ok {base : State} (i : Nat) {s : State} (hk : Kept base s) : KeptA base (execTokenPost i s) := by
  unfold execTokenPost
  with_reducible repeat' (first
    | assumption | intro _ | apply ite_ok | apply preemptOnWait_ok | apply landPost_ok | apply modCor_ok | apply next_ok | apply iteA_ok
    | dsimp only | split)
theorem putReg_ok {base : State} (c : Nat) (off : Nat) (b : List Byte) {s : State} (hk : Kept base s) : Kept base (putReg c off b s) := by
  unfold putReg
  with_reducible repeat' (first
    | assumption | intro _ | apply ite_ok | apply modMem_ok | apply memWf_set | apply memWf_write | apply memWf_zero | apply memWf_copy
    | apply memWf_filter | refine Inv.mem (Kept.inv (a := base) ?_) | dsimp only | split)
theorem hartStore_ok {base : State} (c : Nat) (k : Nat) (a : Nat) (b : List Byte) {s : State} (hk : Kept base s) : Kept base (hartStore c k
    a b s) := by
  unfold hartStore
  with_reducible repeat' (first
    | assumption | intro _ | apply ite_ok | apply modSlot_ok | apply forS_ok | apply uPut_ok | dsimp only | split)
theorem hartOp_ok {base : State} (c : Nat) (k : Nat) (o : HartOp) {s : State} (hk : Kept base s) : Kept base (hartOp c k o s) := by
  unfold hartOp
  with_reducible repeat' (first
    | assumption | intro _ | apply ite_ok | apply putReg_ok | apply hartStore_ok | apply modSlot_ok | apply count_ok | dsimp only
    | split)
theorem applyRun_ok {base : State} (c : Nat) (k : Nat) (r : HartRun) {s : State} (hk : Kept base s) : Kept base (applyRun c k r s) := by
  unfold applyRun
  with_reducible repeat' (first
    | assumption | intro _ | apply ite_ok | apply forS_ok | apply hartOp_ok | dsimp only | split)
theorem hartDo_ok {base : State} (c : Nat) (r : HartRun) (f : Nat → Launch → LPart → State → State) (hf : ∀ y0 y1 y2 x, Kept base x → Kept
    base (f y0 y1 y2 x)) {s : State} (hk : Kept base s) : Kept base (hartDo c r f s) := by
  unfold hartDo
  with_reducible repeat' (first
    | assumption | intro _ | apply ite_ok | apply faultLaunch_ok | apply applyRun_ok | apply hf | dsimp only | split)
theorem execPlotEnd_ok {base : State} (c : Nat) (r : HartRun) {s : State} (hk : Kept base s) : KeptA base (execPlotEnd c r s) := by
  unfold execPlotEnd
  with_reducible repeat' (first
    | assumption | intro _ | apply ite_ok | apply hartDo_ok | apply endPart_ok | apply nextPlot_ok | apply modPart_ok | apply next_ok
    | apply iteA_ok | dsimp only | split)
theorem execPlotAbort_ok {base : State} (c : Nat) (r : HartRun) (code : Nat) {s : State} (hk : Kept base s) : KeptA base (execPlotAbort c r
    code s) := by
  unfold execPlotAbort
  with_reducible repeat' (first
    | assumption | intro _ | apply ite_ok | apply hartDo_ok | apply faultLaunch_ok | apply next_ok | apply iteA_ok | dsimp only | split)
theorem execHartException_ok {base : State} (c : Nat) (r : HartRun) (cause : Nat) {s : State} (hk : Kept base s) : KeptA base
    (execHartException c r cause s) := by
  unfold execHartException
  with_reducible repeat' (first
    | assumption | intro _ | apply ite_ok | apply hartDo_ok | apply faultLaunch_ok | apply next_ok | apply iteA_ok | dsimp only | split)
theorem execQuantumExpiry_ok {base : State} (c : Nat) {s : State} (hk : Kept base s) : KeptA base (execQuantumExpiry c s) := by
  unfold execQuantumExpiry
  with_reducible repeat' (first
    | assumption | intro _ | apply ite_ok | apply preempt_ok | apply next_ok | apply iteA_ok | dsimp only | split)
theorem execPreemptLimit_ok {base : State} (c : Nat) {s : State} (hk : Kept base s) : KeptA base (execPreemptLimit c s) := by
  unfold execPreemptLimit
  with_reducible repeat' (first
    | assumption | intro _ | apply ite_ok | apply modCor_ok | apply modCore_ok | apply discardFlight_ok | apply next_ok | apply iteA_ok
    | dsimp only | split)
theorem swapDone_ok {base : State} (c : Nat) {s : State} (hk : Kept base s) : Kept base (swapDone c s) := by
  unfold swapDone
  with_reducible repeat' (first
    | assumption | intro _ | apply ite_ok | apply forS_ok | apply latchPart_ok | apply drainTrace_ok | apply modSlot_ok
    | apply swapContext_ok | apply markRan_ok | apply settleCore_ok | apply modCore_ok | dsimp only | split)
theorem execSwapDone_ok {base : State} (c : Nat) {s : State} (hk : Kept base s) : KeptA base (execSwapDone c s) := by
  unfold execSwapDone
  with_reducible repeat' (first
    | assumption | intro _ | apply ite_ok | apply swapDone_ok | apply next_ok | apply iteA_ok | dsimp only | split)
theorem pushTile_ok {base : State} (c : Nat) (k : Nat) (line : Nat) (l : Launch) (p : LPart) {s : State} (hk : Kept base s) : Kept base
    (pushTile c k line l p s) := by
  unfold pushTile
  with_reducible repeat' (first
    | assumption | intro _ | apply ite_ok | apply modSlot_ok | apply modLaunch_ok | dsimp only | split)
theorem hartAccess_ok {base : State} (c : Nat) (me : HartSt) (r : HartRun) (f : Nat → Launch → LPart → State → State) (hf : ∀ y0 y1 y2 x,
    Kept base x → Kept base (f y0 y1 y2 x)) {s : State} (hk : Kept base s) : Kept base (hartAccess c me r f s) := by
  unfold hartAccess
  with_reducible repeat' (first
    | assumption | intro _ | apply ite_ok | apply hartDo_ok | apply hf | dsimp only | split)
theorem execCorTiPush_ok {base : State} (c : Nat) (r : HartRun) (line : Nat) {s : State} (hk : Kept base s) : KeptA base (execCorTiPush c r
    line s) := by
  unfold execCorTiPush
  with_reducible repeat' (first
    | assumption | intro _ | apply ite_ok | apply hartAccess_ok | apply pushTile_ok | apply preemptOnWait_ok | apply modSlot_ok
    | apply next_ok | apply iteA_ok | dsimp only | split)
theorem tiWait_ok {base : State} (c : Nat) (r : HartRun) (pool : Bool) (i : Nat) (rd : Nat) {s : State} (hk : Kept base s) : Kept base
    (tiWait c r pool i rd s) := by
  unfold tiWait
  with_reducible repeat' (first
    | assumption | intro _ | apply ite_ok | apply hartAccess_ok | apply modSlot_ok | apply putReg_ok | apply preemptOnWait_ok
    | dsimp only | split)
theorem execCorTiWait_ok {base : State} (c : Nat) (r : HartRun) (w : WaitLoad) {s : State} (hk : Kept base s) : KeptA base (execCorTiWait c
    r w s) := by
  unfold execCorTiWait
  with_reducible repeat' (first
    | assumption | intro _ | apply ite_ok | apply tiWait_ok | apply next_ok | apply iteA_ok | dsimp only | split)
theorem execCorTiPwait_ok {base : State} (c : Nat) (r : HartRun) (w : WaitLoad) {s : State} (hk : Kept base s) : KeptA base (execCorTiPwait
    c r w s) := by
  unfold execCorTiPwait
  with_reducible repeat' (first
    | assumption | intro _ | apply ite_ok | apply tiWait_ok | apply next_ok | apply iteA_ok | dsimp only | split)
theorem tiAdd_ok {base : State} (c : Nat) (r : HartRun) (pool : Bool) (i : Nat) (v : Nat) {s : State} (hk : Kept base s) : Kept base (tiAdd
    c r pool i v s) := by
  unfold tiAdd
  with_reducible repeat' (first
    | assumption | intro _ | apply ite_ok | apply hartDo_ok | apply postCnt_ok | dsimp only | split)
theorem execCorTiCnt_ok {base : State} (c : Nat) (r : HartRun) (i : Nat) (v : Nat) {s : State} (hk : Kept base s) : KeptA base (execCorTiCnt
    c r i v s) := by
  unfold execCorTiCnt
  with_reducible repeat' (first
    | assumption | intro _ | apply ite_ok | apply tiAdd_ok | apply next_ok | apply iteA_ok | dsimp only | split)
theorem execCorTiPool_ok {base : State} (c : Nat) (r : HartRun) (i : Nat) (v : Nat) {s : State} (hk : Kept base s) : KeptA base
    (execCorTiPool c r i v s) := by
  unfold execCorTiPool
  with_reducible repeat' (first
    | assumption | intro _ | apply ite_ok | apply tiAdd_ok | apply next_ok | apply iteA_ok | dsimp only | split)
theorem execLaunchTimeout_ok {base : State} (tag : Nat) {s : State} (hk : Kept base s) : KeptA base (execLaunchTimeout tag s) := by
  unfold execLaunchTimeout
  with_reducible repeat' (first
    | assumption | intro _ | apply ite_ok | apply failLaunch_ok | apply noteFlt_ok | apply next_ok | apply iteA_ok | dsimp only | split)
theorem execSegmentZeroizeDone_ok {base : State} (die : Nat) (seg : Nat) {s : State} (hk : Kept base s) : KeptA base (execSegmentZeroizeDone
    die seg s) := by
  unfold execSegmentZeroizeDone
  with_reducible repeat' (first
    | assumption | intro _ | apply ite_ok | apply modCor_ok | apply next_ok | apply iteA_ok | dsimp only | split)

end Sys2Proof.Machine
end

