-- ==== Sys2Proof/Laws/KeptTick.lean ====
section
/-!
SUPPORT. Laws/KeptTick.lean: every operation and command of Machine/Tick.lean keeps `Kept`.
-/
namespace Sys2Proof.Machine

set_option linter.unusedTactic false
set_option linter.unreachableTactic false
set_option linter.unusedVariables false

theorem tickHours_ok {base : State} {s : State} (hk : Kept base s) : Kept base (tickHours s) := by
  unfold tickHours
  exact modBook_to _ (by split <;> exact hk.2.4) hk
theorem tickEdge_ok {base : State} {s : State} (hk : Kept base s) : Kept base (tickEdge s) := by
  unfold tickEdge
  with_reducible repeat' (first
    | assumption | intro _ | apply ite_ok | apply tickTime_ok | apply tickHours_ok | apply tick_ok | dsimp only | split)

end Sys2Proof.Machine
end

