-- ==== Sys2Proof/Laws/OnlyFaultOps.lean ====
section
/-!
SUPPORT. Laws/OnlyFaultOps.lean: what the operations of Machine/FaultOps.lean leave as it was.
-/
namespace Sys2Proof.Machine

set_option linter.unusedTactic false
set_option linter.unreachableTactic false
set_option linter.unusedVariables false

theorem modStress_only {fr : List Part} {base : State} (d : Nat) (f : Stress → Stress) (merr : Part.err ∈ fr) {s : State} (hk : Only fr base
    s) : Only fr base (modStress d f s) := by
  unfold modStress
  with_reducible repeat' (first
    | assumption | intro _ | apply ite_only | apply modErr_only | dsimp only | split)
theorem zeroDieBanks_only {fr : List Part} {base : State} (d : Nat) (mmem : Part.mem ∈ fr) {s : State} (hk : Only fr base s) : Only fr base
    (zeroDieBanks d s) := by
  unfold zeroDieBanks
  with_reducible repeat' (first
    | assumption | intro _ | apply ite_only | apply forS_only | apply zeroBank_only | dsimp only | split)
theorem abortStress_only {fr : List Part} {base : State} (d : Nat) (mmem : Part.mem ∈ fr) (merr : Part.err ∈ fr) (mbook : Part.book ∈ fr) {s
    : State} (hk : Only fr base s) : Only fr base (abortStress d s) := by
  unfold abortStress
  with_reducible repeat' (first
    | assumption | intro _ | apply ite_only | apply record_only | apply modStress_only | apply zeroDieBanks_only | dsimp only | split)
theorem abortSweep_only {fr : List Part} {base : State} (d : Nat) (mpwr : Part.pwr ∈ fr) {s : State} (hk : Only fr base s) : Only fr base
    (abortSweep d s) := by
  unfold abortSweep
  with_reducible repeat' (first
    | assumption | intro _ | apply ite_only | apply modPwr_only | dsimp only | split)
theorem abortSweeps_only {fr : List Part} {base : State} (mpwr : Part.pwr ∈ fr) {s : State} (hk : Only fr base s) : Only fr base
    (abortSweeps s) := by
  unfold abortSweeps
  with_reducible repeat' (first
    | assumption | intro _ | apply ite_only | apply modPwr_only | dsimp only | split)
theorem endAllLaunches_only {fr : List Part} {base : State} (mout : Part.out ∈ fr) (mmem : Part.mem ∈ fr) (mhif : Part.hif ∈ fr) (mpln :
    Part.pln ∈ fr) (mcor : Part.cor ∈ fr) {s : State} (hk : Only fr base s) : Only fr base (endAllLaunches s) := by
  unfold endAllLaunches
  with_reducible repeat' (first
    | assumption | intro _ | apply ite_only | apply settleCores_only | apply forS_only | apply dropLaunch_only | apply settleFrees_only
    | apply completeNow_only | dsimp only | split)
theorem faultReport_only {fr : List Part} {base : State} (src : Nat) (cls : Nat) (unit : Nat) (core : Nat) (tens : List Nat) (mout :
    Part.out ∈ fr) (mmem : Part.mem ∈ fr) (mhif : Part.hif ∈ fr) (mpln : Part.pln ∈ fr) (mcor : Part.cor ∈ fr) (mstp : Part.stp ∈ fr) (mcel
    : Part.cel ∈ fr) (merr : Part.err ∈ fr) (mpwr : Part.pwr ∈ fr) (mdbg : Part.dbg ∈ fr) (mbook : Part.book ∈ fr) {s : State} (hk : Only fr
    base s) : Only fr base (faultReport src cls unit core tens s) := by
  unfold faultReport
  with_reducible repeat' (first
    | assumption | intro _ | apply ite_only | apply frostFault_only | apply modErr_only | apply forS_only | apply modTstep_only
    | apply abortSweeps_only | apply abortStress_only | apply endAllLaunches_only | apply dropFlight_only | apply upMsg_only
    | dsimp only | split)
theorem faultAll_only {fr : List Part} {base : State} (src : Nat) (unit : Nat) (core : Nat) (mout : Part.out ∈ fr) (mmem : Part.mem ∈ fr)
    (mhif : Part.hif ∈ fr) (mpln : Part.pln ∈ fr) (mcor : Part.cor ∈ fr) (mstp : Part.stp ∈ fr) (mcel : Part.cel ∈ fr) (merr : Part.err ∈
    fr) (mpwr : Part.pwr ∈ fr) (mdbg : Part.dbg ∈ fr) (mbook : Part.book ∈ fr) {s : State} (hk : Only fr base s) : Only fr base (faultAll
    src unit core s) := by
  unfold faultAll
  with_reducible repeat' (first
    | assumption | intro _ | apply ite_only | apply faultReport_only | dsimp only | split)
theorem faultOne_only {fr : List Part} {base : State} (src : Nat) (t : Nat) (mout : Part.out ∈ fr) (mmem : Part.mem ∈ fr) (mhif : Part.hif ∈
    fr) (mpln : Part.pln ∈ fr) (mcor : Part.cor ∈ fr) (mstp : Part.stp ∈ fr) (mcel : Part.cel ∈ fr) (merr : Part.err ∈ fr) (mpwr : Part.pwr
    ∈ fr) (mdbg : Part.dbg ∈ fr) (mbook : Part.book ∈ fr) {s : State} (hk : Only fr base s) : Only fr base (faultOne src t s) := by
  unfold faultOne
  with_reducible repeat' (first
    | assumption | intro _ | apply ite_only | apply faultReport_only | dsimp only | split)
theorem setRetire_only {fr : List Part} {base : State} (cause : Nat) (unit : Nat) (mpln : Part.pln ∈ fr) {s : State} (hk : Only fr base s) :
    Only fr base (setRetire cause unit s) := by
  unfold setRetire
  with_reducible repeat' (first
    | assumption | intro _ | apply ite_only | apply modPln_only | dsimp only | split)
theorem closePort_only {fr : List Part} {base : State} (p : Nat) (reason : Nat) (mfree : Part.free ∈ fr) (mout : Part.out ∈ fr) (mmem :
    Part.mem ∈ fr) (mhif : Part.hif ∈ fr) (mpln : Part.pln ∈ fr) (mcor : Part.cor ∈ fr) (mvnl : Part.vnl ∈ fr) (mstp : Part.stp ∈ fr) (mcel
    : Part.cel ∈ fr) (merr : Part.err ∈ fr) (mpwr : Part.pwr ∈ fr) (mdbg : Part.dbg ∈ fr) (mbook : Part.book ∈ fr) {s : State} (hk : Only fr
    base s) : Only fr base (closePort p reason s) := by
  unfold closePort
  with_reducible repeat' (first
    | assumption | intro _ | apply ite_only | apply gateShutPort_only | apply faultOne_only | dsimp only | split)
theorem checkBuddy_only {fr : List Part} {base : State} (t : Nat) (mout : Part.out ∈ fr) (mhif : Part.hif ∈ fr) (mrck : Part.rck ∈ fr)
    (mbook : Part.book ∈ fr) {s : State} (hk : Only fr base s) : Only fr base (checkBuddy t s) := by
  unfold checkBuddy
  with_reducible repeat' (first
    | assumption | intro _ | apply ite_only | apply graftNone_only | apply rackFit_only | apply modTenRack_only | apply modRck_only
    | dsimp only | split)
theorem checkBuddies_only {fr : List Part} {base : State} (mout : Part.out ∈ fr) (mhif : Part.hif ∈ fr) (mrck : Part.rck ∈ fr) (mbook :
    Part.book ∈ fr) {s : State} (hk : Only fr base s) : Only fr base (checkBuddies s) := by
  unfold checkBuddies
  with_reducible repeat' (first
    | assumption | intro _ | apply ite_only | apply forS_only | apply checkBuddy_only | dsimp only | split)
theorem closePorts_only {fr : List Part} {base : State} (b : Nat) (reason : Nat) (ps : List Nat) (mfree : Part.free ∈ fr) (mout : Part.out ∈
    fr) (mmem : Part.mem ∈ fr) (mhif : Part.hif ∈ fr) (mpln : Part.pln ∈ fr) (mcor : Part.cor ∈ fr) (mvnl : Part.vnl ∈ fr) (mstp : Part.stp
    ∈ fr) (mrck : Part.rck ∈ fr) (mcel : Part.cel ∈ fr) (merr : Part.err ∈ fr) (mpwr : Part.pwr ∈ fr) (mdbg : Part.dbg ∈ fr) (mbook :
    Part.book ∈ fr) {s : State} (hk : Only fr base s) : Only fr base (closePorts b reason ps s) := by
  unfold closePorts
  with_reducible repeat' (first
    | assumption | intro _ | apply ite_only | apply forS_only | apply gateShutPort_only | apply checkBuddies_only | apply faultOne_only
    | dsimp only | split)
theorem unbind_only {fr : List Part} {base : State} (b : Nat) (mfree : Part.free ∈ fr) (mout : Part.out ∈ fr) (mmem : Part.mem ∈ fr) (mhif :
    Part.hif ∈ fr) (mpln : Part.pln ∈ fr) (mcor : Part.cor ∈ fr) (mvnl : Part.vnl ∈ fr) (mstp : Part.stp ∈ fr) (mrck : Part.rck ∈ fr) (mcel
    : Part.cel ∈ fr) (mpol : Part.pol ∈ fr) (merr : Part.err ∈ fr) (mpwr : Part.pwr ∈ fr) (msec : Part.sec ∈ fr) (mdbg : Part.dbg ∈ fr)
    (mbook : Part.book ∈ fr) {s : State} (hk : Only fr base s) : Only fr base (unbind b s) := by
  unfold unbind
  with_reducible repeat' (first
    | assumption | intro _ | apply ite_only | apply modRck_only | apply closePorts_only | apply modSec_only | apply wiltLeave_only
    | apply modPol_only | apply modVnl_only | dsimp only | split)
theorem stopTenant_only {fr : List Part} {base : State} (t : Nat) (mmem : Part.mem ∈ fr) (mpln : Part.pln ∈ fr) (mcor : Part.cor ∈ fr) (mcol
    : Part.col ∈ fr) (mstp : Part.stp ∈ fr) (mtim : Part.tim ∈ fr) {s : State} (hk : Only fr base s) : Only fr base (stopTenant t s) := by
  unfold stopTenant
  with_reducible repeat' (first
    | assumption | intro _ | apply ite_only | apply settleCores_only | apply forS_only | apply dropLaunch_only | apply zeroContext_only
    | apply modSlot_only | apply zeroSegment_only | apply modTrig_only | apply modCol_only | apply modStp_only | apply modTstep_only
    | dsimp only | split)
theorem dropRacks_only {fr : List Part} {base : State} (t : Nat) (mpln : Part.pln ∈ fr) (mstp : Part.stp ∈ fr) (mrck : Part.rck ∈ fr) {s :
    State} (hk : Only fr base s) : Only fr base (dropRacks t s) := by
  unfold dropRacks
  with_reducible repeat' (first
    | assumption | intro _ | apply ite_only | apply abandonRack_only | apply modRck_only | apply modTenRack_only | dsimp only | split)
theorem flushLive_only {fr : List Part} {base : State} (t : Nat) (mout : Part.out ∈ fr) (mhif : Part.hif ∈ fr) {s : State} (hk : Only fr
    base s) : Only fr base (flushLive t s) := by
  unfold flushLive
  with_reducible repeat' (first
    | assumption | intro _ | apply ite_only | apply forS_only | apply modLive_only | apply freeTag_only | apply writeCompl_only
    | dsimp only | split)
theorem stopRings_only {fr : List Part} {base : State} (t : Nat) (mhif : Part.hif ∈ fr) {s : State} (hk : Only fr base s) : Only fr base
    (stopRings t s) := by
  unfold stopRings
  with_reducible repeat' (first
    | assumption | intro _ | apply ite_only | apply modHif_only | dsimp only | split)
theorem dropTrace_only {fr : List Part} {base : State} (t : Nat) (mdbg : Part.dbg ∈ fr) {s : State} (hk : Only fr base s) : Only fr base
    (dropTrace t s) := by
  unfold dropTrace
  with_reducible repeat' (first
    | assumption | intro _ | apply ite_only | apply modDbg_only | dsimp only | split)
theorem teardown_only {fr : List Part} {base : State} (t : Nat) (mfree : Part.free ∈ fr) (mout : Part.out ∈ fr) (mmem : Part.mem ∈ fr) (mgrp
    : Part.grp ∈ fr) (mhif : Part.hif ∈ fr) (mpln : Part.pln ∈ fr) (mcor : Part.cor ∈ fr) (mvnl : Part.vnl ∈ fr) (mcol : Part.col ∈ fr)
    (mstp : Part.stp ∈ fr) (mrck : Part.rck ∈ fr) (mcel : Part.cel ∈ fr) (mpol : Part.pol ∈ fr) (merr : Part.err ∈ fr) (mpwr : Part.pwr ∈
    fr) (mtim : Part.tim ∈ fr) (msec : Part.sec ∈ fr) (mdbg : Part.dbg ∈ fr) (mbook : Part.book ∈ fr) {s : State} (hk : Only fr base s) :
    Only fr base (teardown t s) := by
  unfold teardown
  with_reducible repeat' (first
    | assumption | intro _ | apply ite_only | apply stopRings_only | apply flushLive_only | apply setTenRec_only | apply dropTrace_only
    | apply dropRacks_only | apply stopTenant_only | apply forS_only | apply dropHnd_only | apply csetReset_only | apply unbind_only
    | apply modSec_only | dsimp only | split)
theorem tenantFree_only {fr : List Part} {base : State} (t : Nat) (mout : Part.out ∈ fr) (mgrp : Part.grp ∈ fr) (mhif : Part.hif ∈ fr) (mcor
    : Part.cor ∈ fr) (mvnl : Part.vnl ∈ fr) (mstp : Part.stp ∈ fr) (mrck : Part.rck ∈ fr) (msec : Part.sec ∈ fr) (mbook : Part.book ∈ fr) {s
    : State} (hk : Only fr base s) : Only fr base (tenantFree t s) := by
  unfold tenantFree
  with_reducible repeat' (first
    | assumption | intro _ | apply ite_only | apply forS_only | apply modSlot_only | apply csetReset_only | apply modStp_only
    | apply modRck_only | apply retryTokens_only | apply record_only | apply modSec_only | apply modHif_only | dsimp only | split)
theorem flrTenants_only {fr : List Part} {base : State} (f : Nat → Bool) (mfree : Part.free ∈ fr) (mout : Part.out ∈ fr) (mmem : Part.mem ∈
    fr) (mgrp : Part.grp ∈ fr) (mhif : Part.hif ∈ fr) (mpln : Part.pln ∈ fr) (mcor : Part.cor ∈ fr) (mvnl : Part.vnl ∈ fr) (mcol : Part.col
    ∈ fr) (mstp : Part.stp ∈ fr) (mrck : Part.rck ∈ fr) (mcel : Part.cel ∈ fr) (mpol : Part.pol ∈ fr) (merr : Part.err ∈ fr) (mpwr :
    Part.pwr ∈ fr) (mtim : Part.tim ∈ fr) (msec : Part.sec ∈ fr) (mdbg : Part.dbg ∈ fr) (mbook : Part.book ∈ fr) {s : State} (hk : Only fr
    base s) : Only fr base (flrTenants f s) := by
  unfold flrTenants
  with_reducible repeat' (first
    | assumption | intro _ | apply ite_only | apply forS_only | apply teardown_only | dsimp only | split)
theorem consumeFault_only {fr : List Part} {base : State} (src : Nat) (cls : Nat) (unit : Nat) (core : Nat) (tens : List Nat) (mfree :
    Part.free ∈ fr) (mout : Part.out ∈ fr) (mmem : Part.mem ∈ fr) (mgrp : Part.grp ∈ fr) (mhif : Part.hif ∈ fr) (mpln : Part.pln ∈ fr) (mcor
    : Part.cor ∈ fr) (mvnl : Part.vnl ∈ fr) (mcol : Part.col ∈ fr) (mstp : Part.stp ∈ fr) (mrck : Part.rck ∈ fr) (mcel : Part.cel ∈ fr)
    (mpol : Part.pol ∈ fr) (merr : Part.err ∈ fr) (mpwr : Part.pwr ∈ fr) (mtim : Part.tim ∈ fr) (msec : Part.sec ∈ fr) (mdbg : Part.dbg ∈
    fr) (mbook : Part.book ∈ fr) {s : State} (hk : Only fr base s) : Only fr base (consumeFault src cls unit core tens s) := by
  unfold consumeFault
  with_reducible repeat' (first
    | assumption | intro _ | apply ite_only | apply forS_only | apply localFail_only | apply record_only | apply postEvent_only
    | apply upMsg_only | apply modErr_only | apply modCel_only | apply teardown_only | dsimp only | split)
theorem complexReset_only {fr : List Part} {base : State} (mmem : Part.mem ∈ fr) (mpln : Part.pln ∈ fr) (mcor : Part.cor ∈ fr) (merr :
    Part.err ∈ fr) {s : State} (hk : Only fr base s) : Only fr base (complexReset s) := by
  unfold complexReset
  with_reducible repeat' (first
    | assumption | intro _ | apply ite_only | apply forS_only | apply zeroBank_only | apply zeroContext_only | apply modCore_only
    | apply modSlot_only | apply modPage_only | apply modMem_only | apply modErr_only | apply modPln_only | dsimp only | split)
theorem complexRelease_only {fr : List Part} {base : State} (mout : Part.out ∈ fr) (mmem : Part.mem ∈ fr) (mhif : Part.hif ∈ fr) (mpln :
    Part.pln ∈ fr) (mrck : Part.rck ∈ fr) (merr : Part.err ∈ fr) (mbook : Part.book ∈ fr) {s : State} (hk : Only fr base s) : Only fr base
    (complexRelease s) := by
  unfold complexRelease
  with_reducible repeat' (first
    | assumption | intro _ | apply ite_only | apply forS_only | apply noteT_only | apply zeroHandle_only | apply pump_only
    | apply modErr_only | dsimp only | split)

end Sys2Proof.Machine
end

