-- ==== Sys2Proof/Laws/OnlyCelOps.lean ====
section
/-!
SUPPORT. Laws/OnlyCelOps.lean: what the operations of Machine/CelOps.lean leave as it was.
-/
namespace Sys2Proof.Machine

set_option linter.unusedTactic false
set_option linter.unreachableTactic false
set_option linter.unusedVariables false

theorem modPeer_only {fr : List Part} {base : State} (key : Nat) (f : Peer → Peer) (mpol : Part.pol ∈ fr) {s : State} (hk : Only fr base s)
    : Only fr base (modPeer key f s) := by
  unfold modPeer
  with_reducible repeat' (first
    | assumption | intro _ | apply ite_only | apply modPol_only | dsimp only | split)
theorem verdictNote_only {fr : List Part} {base : State} (m : Nat) (old : Nat) (v : Nat) (mout : Part.out ∈ fr) (mhif : Part.hif ∈ fr) (mcel
    : Part.cel ∈ fr) (mbook : Part.book ∈ fr) {s : State} (hk : Only fr base s) : Only fr base (verdictNote m old v s) := by
  unfold verdictNote
  with_reducible repeat' (first
    | assumption | intro _ | apply ite_only | apply record_only | apply forS_only | apply postEvent_only | apply upEvent_only
    | dsimp only | split)
theorem judgePeer_only {fr : List Part} {base : State} (m : Nat) (mout : Part.out ∈ fr) (mhif : Part.hif ∈ fr) (mcel : Part.cel ∈ fr) (mpol
    : Part.pol ∈ fr) (mbook : Part.book ∈ fr) {s : State} (hk : Only fr base s) : Only fr base (judgePeer m s) := by
  unfold judgePeer
  with_reducible repeat' (first
    | assumption | intro _ | apply ite_only | apply verdictNote_only | apply modPeer_only | dsimp only | split)
theorem slotHeard_only {fr : List Part} {base : State} (b : Nat) (k : Nat) (mout : Part.out ∈ fr) (mhif : Part.hif ∈ fr) (mcel : Part.cel ∈
    fr) (mpol : Part.pol ∈ fr) (mbook : Part.book ∈ fr) {s : State} (hk : Only fr base s) : Only fr base (slotHeard b k s) := by
  unfold slotHeard
  with_reducible repeat' (first
    | assumption | intro _ | apply ite_only | apply modPol_only | apply judgePeer_only | apply modPeer_only | dsimp only | split)
theorem slotGone_only {fr : List Part} {base : State} (b : Nat) (k : Nat) (mout : Part.out ∈ fr) (mhif : Part.hif ∈ fr) (mcel : Part.cel ∈
    fr) (mpol : Part.pol ∈ fr) (mbook : Part.book ∈ fr) {s : State} (hk : Only fr base s) : Only fr base (slotGone b k s) := by
  unfold slotGone
  with_reducible repeat' (first
    | assumption | intro _ | apply ite_only | apply modPol_only | apply judgePeer_only | dsimp only | split)

end Sys2Proof.Machine
end

