-- ==== Sys2Proof/Laws/OnlyTime.lean ====
section
/-!
SUPPORT. Laws/OnlyTime.lean: what the operations of Machine/Time.lean leave as it was.
-/
namespace Sys2Proof.Machine

set_option linter.unusedTactic false
set_option linter.unreachableTactic false
set_option linter.unusedVariables false

theorem addTime_only {fr : List Part} {base : State} (d : Int) (mtim : Part.tim ∈ fr) {s : State} (hk : Only fr base s) : Only fr base
    (addTime d s) := by
  unfold addTime
  with_reducible repeat' (first
    | assumption | intro _ | apply ite_only | apply modTim_only | dsimp only | split)
theorem offsetApplied_only {fr : List Part} {base : State} (mtim : Part.tim ∈ fr) {s : State} (hk : Only fr base s) : Only fr base
    (offsetApplied s) := by
  unfold offsetApplied
  with_reducible repeat' (first
    | assumption | intro _ | apply ite_only | apply modTim_only | dsimp only | split)
theorem tickTime_only {fr : List Part} {base : State} (mtick : Part.tick ∈ fr) (mtim : Part.tim ∈ fr) {s : State} (hk : Only fr base s) :
    Only fr base (tickTime s) := by
  unfold tickTime
  with_reducible repeat' (first
    | assumption | intro _ | apply ite_only | apply addTime_only | apply modTim_only | apply offsetApplied_only | apply tick_only
    | dsimp only | split)
theorem noteAll_only {fr : List Part} {base : State} (code : Nat) (subject : Nat) (detail : Nat) (mout : Part.out ∈ fr) (mhif : Part.hif ∈
    fr) (mbook : Part.book ∈ fr) {s : State} (hk : Only fr base s) : Only fr base (noteAll code subject detail s) := by
  unfold noteAll
  with_reducible repeat' (first
    | assumption | intro _ | apply ite_only | apply record_only | apply forS_only | apply postEvent_only | dsimp only | split)
theorem stepTime_only {fr : List Part} {base : State} (ofs : Int) (mout : Part.out ∈ fr) (mhif : Part.hif ∈ fr) (mtim : Part.tim ∈ fr)
    (mbook : Part.book ∈ fr) {s : State} (hk : Only fr base s) : Only fr base (stepTime ofs s) := by
  unfold stepTime
  with_reducible repeat' (first
    | assumption | intro _ | apply ite_only | apply addTime_only | apply modTim_only | apply offsetApplied_only | apply noteAll_only
    | dsimp only | split)
theorem applyOffset_only {fr : List Part} {base : State} (ofs : Int) (mout : Part.out ∈ fr) (mhif : Part.hif ∈ fr) (mtim : Part.tim ∈ fr)
    (mbook : Part.book ∈ fr) {s : State} (hk : Only fr base s) : Only fr base (applyOffset ofs s) := by
  unfold applyOffset
  with_reducible repeat' (first
    | assumption | intro _ | apply ite_only | apply modTim_only | apply stepTime_only | dsimp only | split)
theorem checkHold_only {fr : List Part} {base : State} (mout : Part.out ∈ fr) (mhif : Part.hif ∈ fr) (mtim : Part.tim ∈ fr) (mbook :
    Part.book ∈ fr) {s : State} (hk : Only fr base s) : Only fr base (checkHold s) := by
  unfold checkHold
  with_reducible repeat' (first
    | assumption | intro _ | apply ite_only | apply noteAll_only | apply modTim_only | dsimp only | split)
theorem tpEdge_only {fr : List Part} {base : State} (width : Nat) (mout : Part.out ∈ fr) (mhif : Part.hif ∈ fr) (mtim : Part.tim ∈ fr)
    (mbook : Part.book ∈ fr) {s : State} (hk : Only fr base s) : Only fr base (tpEdge width s) := by
  unfold tpEdge
  with_reducible repeat' (first
    | assumption | intro _ | apply ite_only | apply modTim_only | apply checkHold_only | dsimp only | split)
theorem txStamp_only {fr : List Part} {base : State} (id : Nat) (mtim : Part.tim ∈ fr) {s : State} (hk : Only fr base s) : Only fr base
    (txStamp id s) := by
  unfold txStamp
  with_reducible repeat' (first
    | assumption | intro _ | apply ite_only | apply modTim_only | dsimp only | split)
theorem ownerTrig_only {fr : List Part} {base : State} (k : Nat) (late : Bool) (mcel : Part.cel ∈ fr) (mdbg : Part.dbg ∈ fr) {s : State} (hk
    : Only fr base s) : Only fr base (ownerTrig k late s) := by
  unfold ownerTrig
  with_reducible repeat' (first
    | assumption | intro _ | apply ite_only | apply upMsg_only | apply trigDebug_only | dsimp only | split)
theorem fireTrig_only {fr : List Part} {base : State} (k : Nat) (mout : Part.out ∈ fr) (mmem : Part.mem ∈ fr) (mhif : Part.hif ∈ fr) (mpln :
    Part.pln ∈ fr) (mcor : Part.cor ∈ fr) (mvnl : Part.vnl ∈ fr) (mcol : Part.col ∈ fr) (mstp : Part.stp ∈ fr) (mrck : Part.rck ∈ fr) (mcel
    : Part.cel ∈ fr) (mpwr : Part.pwr ∈ fr) (mtim : Part.tim ∈ fr) (mdbg : Part.dbg ∈ fr) (mbook : Part.book ∈ fr) {s : State} (hk : Only fr
    base s) : Only fr base (fireTrig k s) := by
  unfold fireTrig
  with_reducible repeat' (first
    | assumption | intro _ | apply ite_only | apply modTrig_only | apply ownerTrig_only | apply rearm_only | apply wakeOpens_only
    | apply trigAct_only | dsimp only | split)

end Sys2Proof.Machine
end

