-- ==== Sys2Proof/Laws/OnlyTables.lean ====
section
/-!
SUPPORT. Laws/OnlyTables.lean: what the operations of Machine/Tables.lean leave as it was.
-/
namespace Sys2Proof.Machine

set_option linter.unusedTactic false
set_option linter.unreachableTactic false
set_option linter.unusedVariables false

theorem modDie_only {fr : List Part} {base : State} (d : Nat) (f : DieP → DieP) (mpwr : Part.pwr ∈ fr) {s : State} (hk : Only fr base s) :
    Only fr base (modDie d f s) := by
  unfold modDie
  with_reducible repeat' (first
    | assumption | intro _ | apply ite_only | apply modPwr_only | dsimp only | split)
theorem smFix_only {fr : List Part} {base : State} (mpol : Part.pol ∈ fr) {s : State} (hk : Only fr base s) : Only fr base (smFix s) := by
  unfold smFix
  with_reducible repeat' (first
    | assumption | intro _ | apply ite_only | apply modPol_only | dsimp only | split)
theorem setFormat_only {fr : List Part} {base : State} (n : Nat) (b : List Byte) (mgrp : Part.grp ∈ fr) (mcor : Part.cor ∈ fr) {s : State}
    (hk : Only fr base s) : Only fr base (setFormat n b s) := by
  unfold setFormat
  with_reducible repeat' (first
    | assumption | intro _ | apply ite_only | apply csetAll_only | apply modCor_only | dsimp only | split)
theorem install_only {fr : List Part} {base : State} (typ : Nat) (n : Nat) (src : Nat) (b : List Byte) (mgrp : Part.grp ∈ fr) (mcor :
    Part.cor ∈ fr) (mpol : Part.pol ∈ fr) (mpwr : Part.pwr ∈ fr) (mbook : Part.book ∈ fr) {s : State} (hk : Only fr base s) : Only fr base
    (install typ n src b s) := by
  unfold install
  with_reducible repeat' (first
    | assumption | intro _ | apply ite_only | apply modPol_only | apply record_only | apply setFormat_only | apply modDie_only
    | apply smFix_only | dsimp only | split)
theorem unload_only {fr : List Part} {base : State} (typ : Nat) (n : Nat) (mgrp : Part.grp ∈ fr) (mpol : Part.pol ∈ fr) {s : State} (hk :
    Only fr base s) : Only fr base (unload typ n s) := by
  unfold unload
  with_reducible repeat' (first
    | assumption | intro _ | apply ite_only | apply modPol_only | apply csetReset_only | dsimp only | split)

end Sys2Proof.Machine
end

