-- ==== Sys2Proof/Laws/OnlyCommit.lean ====
section
/-!
SUPPORT. Laws/OnlyCommit.lean: what the operations of Machine/Commit.lean leave as it was.
-/
namespace Sys2Proof.Machine

set_option linter.unusedTactic false
set_option linter.unreachableTactic false
set_option linter.unusedVariables false

theorem hifTenApply_only {fr : List Part} {base : State} (t : Nat) (c : PendCommit) (mfree : Part.free ∈ fr) (mout : Part.out ∈ fr) (mmem :
    Part.mem ∈ fr) (mgrp : Part.grp ∈ fr) (mhif : Part.hif ∈ fr) (mpln : Part.pln ∈ fr) (mcor : Part.cor ∈ fr) (mvnl : Part.vnl ∈ fr) (mcol
    : Part.col ∈ fr) (mstp : Part.stp ∈ fr) (mrck : Part.rck ∈ fr) (mcel : Part.cel ∈ fr) (mpol : Part.pol ∈ fr) (merr : Part.err ∈ fr)
    (mpwr : Part.pwr ∈ fr) (mtim : Part.tim ∈ fr) (msec : Part.sec ∈ fr) (mdbg : Part.dbg ∈ fr) (mbook : Part.book ∈ fr) {s : State} (hk :
    Only fr base s) : Only fr base (hifTenApply t c s) := by
  unfold hifTenApply
  with_reducible repeat' (first
    | assumption | intro _ | apply ite_only | apply csetAll_only | apply modSec_only | apply modHif_only | apply setTenRec_only
    | apply teardown_only | apply forS_only | dsimp only | split)
theorem rngApply_only {fr : List Part} {base : State} (r : Nat) (c : PendCommit) (mgrp : Part.grp ∈ fr) (mhif : Part.hif ∈ fr) {s : State}
    (hk : Only fr base s) : Only fr base (rngApply r c s) := by
  unfold rngApply
  with_reducible repeat' (first
    | assumption | intro _ | apply ite_only | apply csetAll_only | apply modRing_only | apply settleRing_only | dsimp only | split)
theorem memRsvApply_only {fr : List Part} {base : State} (c : PendCommit) (mgrp : Part.grp ∈ fr) (mpln : Part.pln ∈ fr) {s : State} (hk :
    Only fr base s) : Only fr base (memRsvApply c s) := by
  unfold memRsvApply
  with_reducible repeat' (first
    | assumption | intro _ | apply ite_only | apply csetAll_only | apply modPln_only | dsimp only | split)
theorem pinPage_only {fr : List Part} {base : State} (d : Nat) (h : Nat) (p : Nat) (mpln : Part.pln ∈ fr) {s : State} (hk : Only fr base s)
    : Only fr base (pinPage d h p s) := by
  unfold pinPage
  with_reducible repeat' (first
    | assumption | intro _ | apply ite_only | apply dropMove_only | apply modPln_only | apply modPage_only | dsimp only | split)
theorem corSlotApply_only {fr : List Part} {base : State} (o : Nat) (c : PendCommit) (mmem : Part.mem ∈ fr) (mgrp : Part.grp ∈ fr) (mpln :
    Part.pln ∈ fr) (mcor : Part.cor ∈ fr) {s : State} (hk : Only fr base s) : Only fr base (corSlotApply o c s) := by
  unfold corSlotApply
  with_reducible repeat' (first
    | assumption | intro _ | apply ite_only | apply releaseSlot_only | apply csetAll_only | apply forS_only | apply pinPage_only
    | apply modHnd_only | apply modSlot_only | dsimp only | split)
theorem corTerApply_only {fr : List Part} {base : State} (o : Nat) (c : PendCommit) (mmem : Part.mem ∈ fr) (mgrp : Part.grp ∈ fr) (mcor :
    Part.cor ∈ fr) {s : State} (hk : Only fr base s) : Only fr base (corTerApply o c s) := by
  unfold corTerApply
  with_reducible repeat' (first
    | assumption | intro _ | apply ite_only | apply zeroSegment_only | apply csetAll_only | dsimp only | split)
theorem fmtApply_only {fr : List Part} {base : State} (n : Nat) (c : PendCommit) (mgrp : Part.grp ∈ fr) (mcor : Part.cor ∈ fr) {s : State}
    (hk : Only fr base s) : Only fr base (fmtApply n c s) := by
  unfold fmtApply
  with_reducible repeat' (first
    | assumption | intro _ | apply ite_only | apply csetAll_only | apply modCor_only | dsimp only | split)
theorem rckTenApply_only {fr : List Part} {base : State} (t : Nat) (c : PendCommit) (mout : Part.out ∈ fr) (mgrp : Part.grp ∈ fr) (mhif :
    Part.hif ∈ fr) (mrck : Part.rck ∈ fr) (mbook : Part.book ∈ fr) {s : State} (hk : Only fr base s) : Only fr base (rckTenApply t c s) :=
    by
  unfold rckTenApply
  with_reducible repeat' (first
    | assumption | intro _ | apply ite_only | apply csetAll_only | apply checkBuddy_only | apply setGraft_only | apply modTenRack_only
    | dsimp only | split)
theorem portOff_only {fr : List Part} {base : State} (p : Nat) (mfree : Part.free ∈ fr) (mout : Part.out ∈ fr) (mmem : Part.mem ∈ fr) (mhif
    : Part.hif ∈ fr) (mpln : Part.pln ∈ fr) (mcor : Part.cor ∈ fr) (mvnl : Part.vnl ∈ fr) (mstp : Part.stp ∈ fr) (mrck : Part.rck ∈ fr)
    (mcel : Part.cel ∈ fr) (merr : Part.err ∈ fr) (mpwr : Part.pwr ∈ fr) (mdbg : Part.dbg ∈ fr) (mbook : Part.book ∈ fr) {s : State} (hk :
    Only fr base s) : Only fr base (portOff p s) := by
  unfold portOff
  with_reducible repeat' (first
    | assumption | intro _ | apply ite_only | apply checkBuddies_only | apply modPort_only | apply closePort_only | dsimp only | split)
theorem portCommit_only {fr : List Part} {base : State} (p : Nat) (ws : List Word) (mfree : Part.free ∈ fr) (mout : Part.out ∈ fr) (mmem :
    Part.mem ∈ fr) (mgrp : Part.grp ∈ fr) (mhif : Part.hif ∈ fr) (mpln : Part.pln ∈ fr) (mcor : Part.cor ∈ fr) (mvnl : Part.vnl ∈ fr) (mstp
    : Part.stp ∈ fr) (mrck : Part.rck ∈ fr) (mcel : Part.cel ∈ fr) (merr : Part.err ∈ fr) (mpwr : Part.pwr ∈ fr) (mdbg : Part.dbg ∈ fr)
    (mboot : Part.boot ∈ fr) (mbook : Part.book ∈ fr) {s : State} (hk : Only fr base s) : Only fr base (portCommit p ws s) := by
  unfold portCommit
  with_reducible repeat' (first
    | assumption | intro _ | apply ite_only | apply csetAll_only | apply modBoot_only | apply modPort_only | apply enterDark_only
    | apply portOff_only | dsimp only | split)
theorem freshShakes_only {fr : List Part} {base : State} (b : Nat) (mfree : Part.free ∈ fr) (mout : Part.out ∈ fr) (mvnl : Part.vnl ∈ fr) {s
    : State} (hk : Only fr base s) : Only fr base (freshShakes b s) := by
  unfold freshShakes
  with_reducible repeat' (first
    | assumption | intro _ | apply ite_only | apply forS_only | apply hsHelloStart_only | dsimp only | split)
theorem bindApply_only {fr : List Part} {base : State} (b : Nat) (c : PendCommit) (rd : Option (List Byte)) (mfree : Part.free ∈ fr) (mout :
    Part.out ∈ fr) (mmem : Part.mem ∈ fr) (mgrp : Part.grp ∈ fr) (mhif : Part.hif ∈ fr) (mpln : Part.pln ∈ fr) (mcor : Part.cor ∈ fr) (mvnl
    : Part.vnl ∈ fr) (mstp : Part.stp ∈ fr) (mrck : Part.rck ∈ fr) (mcel : Part.cel ∈ fr) (merr : Part.err ∈ fr) (mpwr : Part.pwr ∈ fr)
    (mdbg : Part.dbg ∈ fr) (mbook : Part.book ∈ fr) {s : State} (hk : Only fr base s) : Only fr base (bindApply b c rd s) := by
  unfold bindApply
  with_reducible repeat' (first
    | assumption | intro _ | apply ite_only | apply csetAll_only | apply modVnl_only | apply closePorts_only | apply freshShakes_only
    | apply updReady_only | dsimp only | split)
theorem vnlPclApply_only {fr : List Part} {base : State} (b : Nat) (c : PendCommit) (rd : Option (List Byte)) (mfree : Part.free ∈ fr) (mout
    : Part.out ∈ fr) (mmem : Part.mem ∈ fr) (mgrp : Part.grp ∈ fr) (mhif : Part.hif ∈ fr) (mpln : Part.pln ∈ fr) (mcor : Part.cor ∈ fr)
    (mvnl : Part.vnl ∈ fr) (mstp : Part.stp ∈ fr) (mrck : Part.rck ∈ fr) (mcel : Part.cel ∈ fr) (mpol : Part.pol ∈ fr) (merr : Part.err ∈
    fr) (mpwr : Part.pwr ∈ fr) (msec : Part.sec ∈ fr) (mdbg : Part.dbg ∈ fr) (mbook : Part.book ∈ fr) {s : State} (hk : Only fr base s) :
    Only fr base (vnlPclApply b c rd s) := by
  unfold vnlPclApply
  with_reducible repeat' (first
    | assumption | intro _ | apply ite_only | apply retryTokens_only | apply bindApply_only | apply csetAll_only | apply unbind_only
    | apply forS_only | apply hsHelloStart_only | dsimp only | split)
theorem timApply_only {fr : List Part} {base : State} (c : PendCommit) (mout : Part.out ∈ fr) (mgrp : Part.grp ∈ fr) (mhif : Part.hif ∈ fr)
    (mtim : Part.tim ∈ fr) (mbook : Part.book ∈ fr) {s : State} (hk : Only fr base s) : Only fr base (timApply c s) := by
  unfold timApply
  with_reducible repeat' (first
    | assumption | intro _ | apply ite_only | apply csetAll_only | apply modGrp_only | apply checkHold_only | apply whenS_only
    | apply record_only | apply modTim_only | apply applyOffset_only | dsimp only | split)
theorem celTblApply_only {fr : List Part} {base : State} (sel : Nat) (c : PendCommit) (rd : Option (List Byte)) (mgrp : Part.grp ∈ fr) (mcor
    : Part.cor ∈ fr) (mpol : Part.pol ∈ fr) (mpwr : Part.pwr ∈ fr) (mbook : Part.book ∈ fr) {s : State} (hk : Only fr base s) : Only fr base
    (celTblApply sel c rd s) := by
  unfold celTblApply
  with_reducible repeat' (first
    | assumption | intro _ | apply ite_only | apply unload_only | apply install_only | dsimp only | split)
theorem secKeyApply_only {fr : List Part} {base : State} (k : Nat) (c : PendCommit) (rd : Option (List Byte)) (mout : Part.out ∈ fr) (mgrp :
    Part.grp ∈ fr) (mvnl : Part.vnl ∈ fr) (msec : Part.sec ∈ fr) (mbook : Part.book ∈ fr) {s : State} (hk : Only fr base s) : Only fr base
    (secKeyApply k c rd s) := by
  unfold secKeyApply
  with_reducible repeat' (first
    | assumption | intro _ | apply ite_only | apply modSec_only | apply record_only | apply csetAll_only | apply retryTokens_only
    | dsimp only | split)
theorem dbgTenApply_only {fr : List Part} {base : State} (t : Nat) (c : PendCommit) (mgrp : Part.grp ∈ fr) (mdbg : Part.dbg ∈ fr) {s :
    State} (hk : Only fr base s) : Only fr base (dbgTenApply t c s) := by
  unfold dbgTenApply
  with_reducible repeat' (first
    | assumption | intro _ | apply ite_only | apply modDbg_only | apply csetAll_only | dsimp only | split)
theorem commitEffect_only {fr : List Part} {base : State} (c : PendCommit) (o : Nat) (rd : Option (List Byte)) (mfree : Part.free ∈ fr)
    (mout : Part.out ∈ fr) (mmem : Part.mem ∈ fr) (mgrp : Part.grp ∈ fr) (mhif : Part.hif ∈ fr) (mpln : Part.pln ∈ fr) (mcor : Part.cor ∈
    fr) (mvnl : Part.vnl ∈ fr) (mcol : Part.col ∈ fr) (mstp : Part.stp ∈ fr) (mrck : Part.rck ∈ fr) (mcel : Part.cel ∈ fr) (mpol : Part.pol
    ∈ fr) (merr : Part.err ∈ fr) (mpwr : Part.pwr ∈ fr) (mtim : Part.tim ∈ fr) (msec : Part.sec ∈ fr) (mdbg : Part.dbg ∈ fr) (mboot :
    Part.boot ∈ fr) (mbook : Part.book ∈ fr) {s : State} (hk : Only fr base s) : Only fr base (commitEffect c o rd s) := by
  unfold commitEffect
  with_reducible repeat' (first
    | assumption | intro _ | apply ite_only | apply hifTenApply_only | apply rngApply_only | apply memRsvApply_only
    | apply corSlotApply_only | apply corTerApply_only | apply fmtApply_only | apply portCommit_only | apply vnlPclApply_only
    | apply rckTenApply_only | apply timApply_only | apply secKeyApply_only | apply celTblApply_only | apply dbgTenApply_only
    | apply csetAll_only | dsimp only | split)
theorem reportCommit_only {fr : List Part} {base : State} (c : PendCommit) (res : Nat) (off : Nat) (mgrp : Part.grp ∈ fr) {s : State} (hk :
    Only fr base s) : Only fr base (reportCommit c res off s) := by
  unfold reportCommit
  with_reducible repeat' (first
    | assumption | intro _ | apply ite_only | apply setCstat_only | dsimp only | split)
theorem runCommit_only {fr : List Part} {base : State} (c : PendCommit) (rd : Option (List Byte)) (mfree : Part.free ∈ fr) (mout : Part.out
    ∈ fr) (mmem : Part.mem ∈ fr) (mgrp : Part.grp ∈ fr) (mhif : Part.hif ∈ fr) (mpln : Part.pln ∈ fr) (mcor : Part.cor ∈ fr) (mvnl :
    Part.vnl ∈ fr) (mcol : Part.col ∈ fr) (mstp : Part.stp ∈ fr) (mrck : Part.rck ∈ fr) (mcel : Part.cel ∈ fr) (mpol : Part.pol ∈ fr) (merr
    : Part.err ∈ fr) (mpwr : Part.pwr ∈ fr) (mtim : Part.tim ∈ fr) (msec : Part.sec ∈ fr) (mdbg : Part.dbg ∈ fr) (mboot : Part.boot ∈ fr)
    (mbook : Part.book ∈ fr) {s : State} (hk : Only fr base s) : Only fr base (runCommit c rd s) := by
  unfold runCommit
  with_reducible repeat' (first
    | assumption | intro _ | apply ite_only | apply reportCommit_only | apply commitEffect_only | dsimp only | split)
theorem readCommit_only {fr : List Part} {base : State} (c : PendCommit) (rd : Option (List Byte)) (mout : Part.out ∈ fr) {s : State} (hk :
    Only fr base s) : Only fr base (readCommit c rd s).2 := by
  unfold readCommit
  with_reducible repeat' (first
    | assumption | intro _ | apply ite_only | apply emit_only | apply ite2_only | dsimp only | split)
theorem applyCommit_only {fr : List Part} {base : State} (i : Nat) (rd : Option (List Byte)) (mfree : Part.free ∈ fr) (mout : Part.out ∈ fr)
    (mmem : Part.mem ∈ fr) (mgrp : Part.grp ∈ fr) (mhif : Part.hif ∈ fr) (mpln : Part.pln ∈ fr) (mcor : Part.cor ∈ fr) (mvnl : Part.vnl ∈
    fr) (mcol : Part.col ∈ fr) (mstp : Part.stp ∈ fr) (mrck : Part.rck ∈ fr) (mcel : Part.cel ∈ fr) (mpol : Part.pol ∈ fr) (merr : Part.err
    ∈ fr) (mpwr : Part.pwr ∈ fr) (mtim : Part.tim ∈ fr) (msec : Part.sec ∈ fr) (mdbg : Part.dbg ∈ fr) (mboot : Part.boot ∈ fr) (mbook :
    Part.book ∈ fr) {s : State} (hk : Only fr base s) : Only fr base (applyCommit i rd s) := by
  unfold applyCommit
  with_reducible repeat' (first
    | assumption | intro _ | apply ite_only | apply readCommit_only | apply runCommit_only | apply modGrp_only | dsimp only | split)
theorem flushFmt_only {fr : List Part} {base : State} (n : Nat) (mfree : Part.free ∈ fr) (mout : Part.out ∈ fr) (mmem : Part.mem ∈ fr) (mgrp
    : Part.grp ∈ fr) (mhif : Part.hif ∈ fr) (mpln : Part.pln ∈ fr) (mcor : Part.cor ∈ fr) (mvnl : Part.vnl ∈ fr) (mcol : Part.col ∈ fr)
    (mstp : Part.stp ∈ fr) (mrck : Part.rck ∈ fr) (mcel : Part.cel ∈ fr) (mpol : Part.pol ∈ fr) (merr : Part.err ∈ fr) (mpwr : Part.pwr ∈
    fr) (mtim : Part.tim ∈ fr) (msec : Part.sec ∈ fr) (mdbg : Part.dbg ∈ fr) (mboot : Part.boot ∈ fr) (mbook : Part.book ∈ fr) {s : State}
    (hk : Only fr base s) : Only fr base (flushFmt n s) := by
  unfold flushFmt
  with_reducible repeat' (first
    | assumption | intro _ | apply ite_only | apply forS_only | apply runCommit_only | apply modGrp_only | dsimp only | split)

end Sys2Proof.Machine
end

