-- ==== Sys2Proof/Laws/OnlyErr.lean ====
section
/-!
SUPPORT. Laws/OnlyErr.lean: what the operations of Machine/Err.lean leave as it was.
-/
namespace Sys2Proof.Machine

set_option linter.unusedTactic false
set_option linter.unreachableTactic false
set_option linter.unusedVariables false

theorem poisonAt_only {fr : List Part} {base : State} (h : Nat) (off : Nat) (mpln : Part.pln ∈ fr) {s : State} (hk : Only fr base s) : Only
    fr base (poisonAt h off s) := by
  unfold poisonAt
  with_reducible repeat' (first
    | assumption | intro _ | apply ite_only | apply modPage_only | dsimp only | split)
theorem countUe_only {fr : List Part} {base : State} (u : Nat) (merr : Part.err ∈ fr) {s : State} (hk : Only fr base s) : Only fr base
    (countUe u s) := by
  unfold countUe
  with_reducible repeat' (first
    | assumption | intro _ | apply ite_only | apply modErr_only | dsimp only | split)
theorem spoilLine_only {fr : List Part} {base : State} (h : Nat) (off : Nat) (mpln : Part.pln ∈ fr) {s : State} (hk : Only fr base s) : Only
    fr base (spoilLine h off s) := by
  unfold spoilLine
  with_reducible repeat' (first
    | assumption | intro _ | apply ite_only | apply modPln_only | dsimp only | split)
theorem unitFault_only {fr : List Part} {base : State} (src : Nat) (unit : Nat) (core : Nat) (t : Nat) (h : Nat) (off : Nat) (mout :
    Part.out ∈ fr) (mmem : Part.mem ∈ fr) (mhif : Part.hif ∈ fr) (mpln : Part.pln ∈ fr) (mcor : Part.cor ∈ fr) (mstp : Part.stp ∈ fr) (mcel
    : Part.cel ∈ fr) (merr : Part.err ∈ fr) (mpwr : Part.pwr ∈ fr) (mdbg : Part.dbg ∈ fr) (mbook : Part.book ∈ fr) {s : State} (hk : Only fr
    base s) : Only fr base (unitFault src unit core t h off s) := by
  unfold unitFault
  with_reducible repeat' (first
    | assumption | intro _ | apply ite_only | apply countUe_only | apply poisonAt_only | apply spoilLine_only | apply faultReport_only
    | dsimp only | split)
theorem actFault_only {fr : List Part} {base : State} (mfree : Part.free ∈ fr) (mout : Part.out ∈ fr) (mmem : Part.mem ∈ fr) (mgrp :
    Part.grp ∈ fr) (mhif : Part.hif ∈ fr) (mpln : Part.pln ∈ fr) (mcor : Part.cor ∈ fr) (mvnl : Part.vnl ∈ fr) (mcol : Part.col ∈ fr) (mstp
    : Part.stp ∈ fr) (mrck : Part.rck ∈ fr) (mcel : Part.cel ∈ fr) (mpol : Part.pol ∈ fr) (merr : Part.err ∈ fr) (mpwr : Part.pwr ∈ fr)
    (mtim : Part.tim ∈ fr) (msec : Part.sec ∈ fr) (mdbg : Part.dbg ∈ fr) (mbook : Part.book ∈ fr) {s : State} (hk : Only fr base s) : Only
    fr base (actFault s) := by
  unfold actFault
  with_reducible repeat' (first
    | assumption | intro _ | apply ite_only | apply consumeFault_only | apply modCel_only | dsimp only | split)
theorem lateRelease_only {fr : List Part} {base : State} (mout : Part.out ∈ fr) (mmem : Part.mem ∈ fr) (mhif : Part.hif ∈ fr) (mpln :
    Part.pln ∈ fr) (mrck : Part.rck ∈ fr) (merr : Part.err ∈ fr) (mbook : Part.book ∈ fr) {s : State} (hk : Only fr base s) : Only fr base
    (lateRelease s) := by
  unfold lateRelease
  with_reducible repeat' (first
    | assumption | intro _ | apply ite_only | apply complexRelease_only | dsimp only | split)
theorem corrected_only {fr : List Part} {base : State} (u : Nat) (merr : Part.err ∈ fr) (mbook : Part.book ∈ fr) {s : State} (hk : Only fr
    base s) : Only fr base (corrected u s) := by
  unfold corrected
  with_reducible repeat' (first
    | assumption | intro _ | apply ite_only | apply modErr_only | apply record_only | dsimp only | split)
theorem scrubUe_only {fr : List Part} {base : State} (h : Nat) (p : Nat) (b : Nat) (mout : Part.out ∈ fr) (mhif : Part.hif ∈ fr) (mpln :
    Part.pln ∈ fr) (merr : Part.err ∈ fr) (mbook : Part.book ∈ fr) {s : State} (hk : Only fr base s) : Only fr base (scrubUe h p b s) := by
  unfold scrubUe
  with_reducible repeat' (first
    | assumption | intro _ | apply ite_only | apply noteT_only | apply countUe_only | apply modPage_only | dsimp only | split)
theorem saveDie_only {fr : List Part} {base : State} (d : Nat) (mmem : Part.mem ∈ fr) (mpln : Part.pln ∈ fr) (mcor : Part.cor ∈ fr) {s :
    State} (hk : Only fr base s) : Only fr base (saveDie d s) := by
  unfold saveDie
  with_reducible repeat' (first
    | assumption | intro _ | apply ite_only | apply forS_only | apply swapOut_only | dsimp only | split)
theorem startStress_only {fr : List Part} {base : State} (d : Nat) (mmem : Part.mem ∈ fr) (mpln : Part.pln ∈ fr) (mcor : Part.cor ∈ fr)
    (merr : Part.err ∈ fr) {s : State} (hk : Only fr base s) : Only fr base (startStress d s) := by
  unfold startStress
  with_reducible repeat' (first
    | assumption | intro _ | apply ite_only | apply modStress_only | apply saveDie_only | dsimp only | split)
theorem startSweep_only {fr : List Part} {base : State} (d : Nat) (mmem : Part.mem ∈ fr) (mpln : Part.pln ∈ fr) (mcor : Part.cor ∈ fr) (mpwr
    : Part.pwr ∈ fr) {s : State} (hk : Only fr base s) : Only fr base (startSweep d s) := by
  unfold startSweep
  with_reducible repeat' (first
    | assumption | intro _ | apply ite_only | apply modDie_only | apply saveDie_only | dsimp only | split)
theorem fenceCore_only {fr : List Part} {base : State} (c : Nat) (mout : Part.out ∈ fr) (mmem : Part.mem ∈ fr) (mgrp : Part.grp ∈ fr) (mhif
    : Part.hif ∈ fr) (mpln : Part.pln ∈ fr) (mcor : Part.cor ∈ fr) (mboot : Part.boot ∈ fr) (mbook : Part.book ∈ fr) {s : State} (hk : Only
    fr base s) : Only fr base (fenceCore c s) := by
  unfold fenceCore
  with_reducible repeat' (first
    | assumption | intro _ | apply ite_only | apply forS_only | apply releaseSlot_only | apply modBoot_only | apply modCore_only
    | apply record_only | apply noteT_only | dsimp only | split)
theorem passFails_only {fr : List Part} {base : State} (n : Nat) (merr : Part.err ∈ fr) (mbook : Part.book ∈ fr) {s : State} (hk : Only fr
    base s) : Only fr base (passFails n s) := by
  unfold passFails
  with_reducible repeat' (first
    | assumption | intro _ | apply ite_only | apply forS_only | apply record_only | apply modErr_only | dsimp only | split)
theorem passDone_only {fr : List Part} {base : State} (d : Nat) (corner : Nat) (again : Nat) (mout : Part.out ∈ fr) (mmem : Part.mem ∈ fr)
    (mgrp : Part.grp ∈ fr) (mhif : Part.hif ∈ fr) (mpln : Part.pln ∈ fr) (mcor : Part.cor ∈ fr) (merr : Part.err ∈ fr) (mboot : Part.boot ∈
    fr) (mbook : Part.book ∈ fr) {s : State} (hk : Only fr base s) : Only fr base (passDone d corner again s) := by
  unfold passDone
  with_reducible repeat' (first
    | assumption | intro _ | apply ite_only | apply forS_only | apply fenceCore_only | apply passFails_only | apply zeroDieBanks_only
    | apply record_only | apply modStress_only | dsimp only | split)

end Sys2Proof.Machine
end

