-- ==== Sys2Proof/Laws/OnlyPower.lean ====
section
/-!
SUPPORT. Laws/OnlyPower.lean: what the operations of Machine/Power.lean leave as it was.
-/
namespace Sys2Proof.Machine

set_option linter.unusedTactic false
set_option linter.unreachableTactic false
set_option linter.unusedVariables false

theorem setPwr_only {fr : List Part} {base : State} (st : PowerSt) (mout : Part.out ∈ fr) (mhif : Part.hif ∈ fr) (mpwr : Part.pwr ∈ fr)
    (mbook : Part.book ∈ fr) {s : State} (hk : Only fr base s) : Only fr base (setPwr st s) := by
  unfold setPwr
  with_reducible repeat' (first
    | assumption | intro _ | apply ite_only | apply noteAll_only | apply modPwr_only | dsimp only | split)
theorem capAction_only {fr : List Part} {base : State} (c : Option Nat) (mout : Part.out ∈ fr) (mhif : Part.hif ∈ fr) (mpwr : Part.pwr ∈ fr)
    (mbook : Part.book ∈ fr) {s : State} (hk : Only fr base s) : Only fr base (capAction c s) := by
  unfold capAction
  with_reducible repeat' (first
    | assumption | intro _ | apply ite_only | apply modPwr_only | apply setPwr_only | dsimp only | split)
theorem reqAnswer_only {fr : List Part} {base : State} (r : Nat) (mpwr : Part.pwr ∈ fr) {s : State} (hk : Only fr base s) : Only fr base
    (reqAnswer r s) := by
  unfold reqAnswer
  with_reducible repeat' (first
    | assumption | intro _ | apply ite_only | apply modPwr_only | dsimp only | split)
theorem powerReq_only {fr : List Part} {base : State} (req : Nat) (mpwr : Part.pwr ∈ fr) {s : State} (hk : Only fr base s) : Only fr base
    (powerReq req s) := by
  unfold powerReq
  with_reducible repeat' (first
    | assumption | intro _ | apply ite_only | apply reqAnswer_only | apply modPwr_only | dsimp only | split)
theorem reqOk_only {fr : List Part} {base : State} (mpwr : Part.pwr ∈ fr) {s : State} (hk : Only fr base s) : Only fr base (reqOk s) := by
  unfold reqOk
  with_reducible repeat' (first
    | assumption | intro _ | apply ite_only | apply reqAnswer_only | dsimp only | split)
theorem dormantIn_only {fr : List Part} {base : State} (mout : Part.out ∈ fr) (mmem : Part.mem ∈ fr) (mhif : Part.hif ∈ fr) (mpln : Part.pln
    ∈ fr) (mcor : Part.cor ∈ fr) (mpwr : Part.pwr ∈ fr) (mbook : Part.book ∈ fr) {s : State} (hk : Only fr base s) : Only fr base (dormantIn
    s) := by
  unfold dormantIn
  with_reducible repeat' (first
    | assumption | intro _ | apply ite_only | apply forS_only | apply saveDie_only | apply reqOk_only | apply setPwr_only
    | apply modPwr_only | dsimp only | split)
theorem dormantOut_only {fr : List Part} {base : State} (mout : Part.out ∈ fr) (mmem : Part.mem ∈ fr) (mhif : Part.hif ∈ fr) (mpln :
    Part.pln ∈ fr) (mrck : Part.rck ∈ fr) (mcel : Part.cel ∈ fr) (mpwr : Part.pwr ∈ fr) (mbook : Part.book ∈ fr) {s : State} (hk : Only fr
    base s) : Only fr base (dormantOut s) := by
  unfold dormantOut
  with_reducible repeat' (first
    | assumption | intro _ | apply ite_only | apply setPwr_only | apply modPwr_only | apply pump_only | apply reqOk_only
    | apply upEvent_only | dsimp only | split)
theorem dropVolt_only {fr : List Part} {base : State} (d : Nat) (mpwr : Part.pwr ∈ fr) {s : State} (hk : Only fr base s) : Only fr base
    (dropVolt d s) := by
  unfold dropVolt
  with_reducible repeat' (first
    | assumption | intro _ | apply ite_only | apply modDie_only | dsimp only | split)
theorem cclkStep_only {fr : List Part} {base : State} (d : Nat) (mcor : Part.cor ∈ fr) (mpwr : Part.pwr ∈ fr) {s : State} (hk : Only fr base
    s) : Only fr base (cclkStep d s) := by
  unfold cclkStep
  with_reducible repeat' (first
    | assumption | intro _ | apply ite_only | apply modCor_only | apply dropVolt_only | dsimp only | split)
theorem clampOn_only {fr : List Part} {base : State} (transient : Bool) (mmem : Part.mem ∈ fr) (mcor : Part.cor ∈ fr) (mcel : Part.cel ∈ fr)
    (merr : Part.err ∈ fr) (mpwr : Part.pwr ∈ fr) (mbook : Part.book ∈ fr) {s : State} (hk : Only fr base s) : Only fr base (clampOn
    transient s) := by
  unfold clampOn
  with_reducible repeat' (first
    | assumption | intro _ | apply ite_only | apply upEvent_only | apply modPwr_only | apply modCor_only | apply abortSweeps_only
    | apply forS_only | apply abortStress_only | dsimp only | split)
theorem clampDown_only {fr : List Part} {base : State} (mcor : Part.cor ∈ fr) (mpwr : Part.pwr ∈ fr) {s : State} (hk : Only fr base s) :
    Only fr base (clampDown s) := by
  unfold clampDown
  with_reducible repeat' (first
    | assumption | intro _ | apply ite_only | apply forS_only | apply dropVolt_only | apply modCor_only | apply modPwr_only | dsimp only
    | split)
theorem capUnmet_only {fr : List Part} {base : State} (mcel : Part.cel ∈ fr) (mpwr : Part.pwr ∈ fr) (mbook : Part.book ∈ fr) {s : State} (hk
    : Only fr base s) : Only fr base (capUnmet s) := by
  unfold capUnmet
  with_reducible repeat' (first
    | assumption | intro _ | apply ite_only | apply upEvent_only | apply record_only | apply modPwr_only | dsimp only | split)
theorem dieTrip_only {fr : List Part} {base : State} (d : Nat) (mout : Part.out ∈ fr) (mmem : Part.mem ∈ fr) (mhif : Part.hif ∈ fr) (mpln :
    Part.pln ∈ fr) (mcor : Part.cor ∈ fr) (mstp : Part.stp ∈ fr) (mcel : Part.cel ∈ fr) (merr : Part.err ∈ fr) (mpwr : Part.pwr ∈ fr) (mdbg
    : Part.dbg ∈ fr) (mbook : Part.book ∈ fr) {s : State} (hk : Only fr base s) : Only fr base (dieTrip d s) := by
  unfold dieTrip
  with_reducible repeat' (first
    | assumption | intro _ | apply ite_only | apply faultAll_only | apply modDie_only | dsimp only | split)
theorem dieTemp_only {fr : List Part} {base : State} (d : Nat) (t : Nat) (mout : Part.out ∈ fr) (mmem : Part.mem ∈ fr) (mhif : Part.hif ∈
    fr) (mpln : Part.pln ∈ fr) (mcor : Part.cor ∈ fr) (mstp : Part.stp ∈ fr) (mrck : Part.rck ∈ fr) (mcel : Part.cel ∈ fr) (merr : Part.err
    ∈ fr) (mpwr : Part.pwr ∈ fr) (mdbg : Part.dbg ∈ fr) (mbook : Part.book ∈ fr) {s : State} (hk : Only fr base s) : Only fr base (dieTemp d
    t s) := by
  unfold dieTemp
  with_reducible repeat' (first
    | assumption | intro _ | apply ite_only | apply modDie_only | apply upEvent_only | apply record_only | apply dieTrip_only
    | apply pump_only | dsimp only | split)
theorem vintage_only {fr : List Part} {base : State} (d : Nat) (margin : BitVec 16) (mcel : Part.cel ∈ fr) (mpol : Part.pol ∈ fr) (mpwr :
    Part.pwr ∈ fr) (mbook : Part.book ∈ fr) {s : State} (hk : Only fr base s) : Only fr base (vintage d margin s) := by
  unfold vintage
  with_reducible repeat' (first
    | assumption | intro _ | apply ite_only | apply modDie_only | apply wiltJoin_only | apply upEvent_only | apply wiltLeave_only
    | dsimp only | split)

end Sys2Proof.Machine
end

