-- ==== Sys2Proof/Laws/OnlyCellarer.lean ====
section
/-!
SUPPORT. Laws/OnlyCellarer.lean: what the operations of Machine/Cellarer.lean leave as it was.
-/
namespace Sys2Proof.Machine

set_option linter.unusedTactic false
set_option linter.unreachableTactic false
set_option linter.unusedVariables false

theorem setDie_only {fr : List Part} {base : State} (d : Nat) (st : Nat) (mcel : Part.cel ∈ fr) {s : State} (hk : Only fr base s) : Only fr
    base (setDie d st s) := by
  unfold setDie
  with_reducible repeat' (first
    | assumption | intro _ | apply ite_only | apply modCel_only | dsimp only | split)
theorem saveStale_only {fr : List Part} {base : State} (mcel : Part.cel ∈ fr) {s : State} (hk : Only fr base s) : Only fr base (saveStale s)
    := by
  unfold saveStale
  with_reducible repeat' (first
    | assumption | intro _ | apply ite_only | apply modCel_only | dsimp only | split)
theorem storeImage_only {fr : List Part} {base : State} (outs : List COut) (mmram : Part.mram ∈ fr) {s : State} (hk : Only fr base s) : Only
    fr base (storeImage outs s) := by
  unfold storeImage
  with_reducible repeat' (first
    | assumption | intro _ | apply ite_only | apply modMram_only | dsimp only | split)
theorem allHeard_only {fr : List Part} {base : State} (mcel : Part.cel ∈ fr) {s : State} (hk : Only fr base s) : Only fr base (allHeard s)
    := by
  unfold allHeard
  with_reducible repeat' (first
    | assumption | intro _ | apply ite_only | apply modCel_only | dsimp only | split)
theorem moveOwn_only {fr : List Part} {base : State} (new : Nat) (mcel : Part.cel ∈ fr) {s : State} (hk : Only fr base s) : Only fr base
    (moveOwn new s) := by
  unfold moveOwn
  with_reducible repeat' (first
    | assumption | intro _ | apply ite_only | apply allHeard_only | apply setDie_only | apply modCel_only | dsimp only | split)
theorem hotTakeover_only {fr : List Part} {base : State} (new : Nat) (mcel : Part.cel ∈ fr) (mtim : Part.tim ∈ fr) (mbook : Part.book ∈ fr)
    {s : State} (hk : Only fr base s) : Only fr base (hotTakeover new s) := by
  unfold hotTakeover
  with_reducible repeat' (first
    | assumption | intro _ | apply ite_only | apply setDie_only | apply modCel_only | apply record_only | apply moveOwn_only
    | apply modTim_only | dsimp only | split)
theorem countReported_only {fr : List Part} {base : State} (mstp : Part.stp ∈ fr) {s : State} (hk : Only fr base s) : Only fr base
    (countReported s) := by
  unfold countReported
  with_reducible repeat' (first
    | assumption | intro _ | apply ite_only | apply modStp_only | dsimp only | split)
theorem keysOf_only {fr : List Part} {base : State} (x : Sec) (msec : Part.sec ∈ fr) {s : State} (hk : Only fr base s) : Only fr base
    (keysOf x s) := by
  unfold keysOf
  with_reducible repeat' (first
    | assumption | intro _ | apply ite_only | apply modSec_only | dsimp only | split)
theorem coldTakeover_only {fr : List Part} {base : State} (new : Nat) (mmram : Part.mram ∈ fr) (mregs : Part.regs ∈ fr) (mvnl : Part.vnl ∈ fr)
    (mstp : Part.stp ∈ fr) (mcel : Part.cel ∈ fr) (mpol : Part.pol ∈ fr) (mpwr : Part.pwr ∈ fr) (mtim : Part.tim ∈ fr) (msec : Part.sec ∈ fr)
    (mboot : Part.boot ∈ fr) (mbook : Part.book ∈ fr) {s : State} (hk : Only fr base s) : Only fr base (coldTakeover new s) := by
  unfold coldTakeover
  intro p hp
  have h1 : Only fr base (setDie (1 - new) 6 s) := by apply setDie_only <;> assumption
  generalize setDie (1 - new) 6 s = s1 at h1 ⊢
  revert p
  show Only fr base _
  apply record_only <;> try assumption
  apply record_only <;> try assumption
  apply moveOwn_only <;> try assumption
  apply modTim_only _ mtim
  apply countReported_only <;> try assumption
  apply modCel_only _ mcel
  apply modBook_only _ mbook
  split
  · exact h1
  · next x hx =>
    apply modVnl_only _ mvnl
    apply keysOf_only <;> try assumption
    apply modBoot_only _ mboot
    apply modPwr_only _ mpwr
    intro p hp
    have := h1 p hp
    cases p <;> first | exact this | exact absurd ‹_› hp
theorem faultRelease_only {fr : List Part} {base : State} (mcel : Part.cel ∈ fr) (mtim : Part.tim ∈ fr) (mbook : Part.book ∈ fr) {s : State}
    (hk : Only fr base s) : Only fr base (faultRelease s) := by
  unfold faultRelease
  with_reducible repeat' (first
    | assumption | intro _ | apply ite_only | apply hotTakeover_only | apply modCel_only | apply setDie_only | dsimp only | split)
theorem restartStandby_only {fr : List Part} {base : State} (mcel : Part.cel ∈ fr) {s : State} (hk : Only fr base s) : Only fr base
    (restartStandby s) := by
  unfold restartStandby
  with_reducible repeat' (first
    | assumption | intro _ | apply ite_only | apply saveStale_only | apply modCel_only | apply setDie_only | dsimp only | split)
theorem standbyLost_only {fr : List Part} {base : State} (mcel : Part.cel ∈ fr) (mbook : Part.book ∈ fr) {s : State} (hk : Only fr base s) :
    Only fr base (standbyLost s) := by
  unfold standbyLost
  with_reducible repeat' (first
    | assumption | intro _ | apply ite_only | apply saveStale_only | apply upEvent_only | apply record_only | apply modCel_only
    | apply setDie_only | dsimp only | split)
theorem actFaults_only {fr : List Part} {base : State} (mfree : Part.free ∈ fr) (mout : Part.out ∈ fr) (mmem : Part.mem ∈ fr) (mgrp :
    Part.grp ∈ fr) (mhif : Part.hif ∈ fr) (mpln : Part.pln ∈ fr) (mcor : Part.cor ∈ fr) (mvnl : Part.vnl ∈ fr) (mcol : Part.col ∈ fr) (mstp
    : Part.stp ∈ fr) (mrck : Part.rck ∈ fr) (mcel : Part.cel ∈ fr) (mpol : Part.pol ∈ fr) (merr : Part.err ∈ fr) (mpwr : Part.pwr ∈ fr)
    (mtim : Part.tim ∈ fr) (msec : Part.sec ∈ fr) (mdbg : Part.dbg ∈ fr) (mbook : Part.book ∈ fr) {s : State} (hk : Only fr base s) : Only
    fr base (actFaults s) := by
  unfold actFaults
  with_reducible repeat' (first
    | assumption | intro _ | apply ite_only | apply forS_only | apply actFault_only | dsimp only | split)
theorem freezeCycle_only {fr : List Part} {base : State} (fw : List FwOut) (mfree : Part.free ∈ fr) (mout : Part.out ∈ fr) (mmem : Part.mem
    ∈ fr) (mgrp : Part.grp ∈ fr) (mhif : Part.hif ∈ fr) (mpln : Part.pln ∈ fr) (mcor : Part.cor ∈ fr) (mvnl : Part.vnl ∈ fr) (mcol :
    Part.col ∈ fr) (mstp : Part.stp ∈ fr) (mrck : Part.rck ∈ fr) (mcel : Part.cel ∈ fr) (mpol : Part.pol ∈ fr) (merr : Part.err ∈ fr) (mpwr
    : Part.pwr ∈ fr) (mtim : Part.tim ∈ fr) (msec : Part.sec ∈ fr) (mdbg : Part.dbg ∈ fr) (mbook : Part.book ∈ fr) {s : State} (hk : Only fr
    base s) : Only fr base (freezeCycle fw s) := by
  unfold freezeCycle
  with_reducible repeat' (first
    | assumption | intro _ | apply ite_only | apply actFaults_only | apply modVnl_only | apply modCel_only | apply foldl_only
    | apply foldl2_only | apply ite2_only | dsimp only | split)
theorem sendFrame_only {fr : List Part} {base : State} (kind : Nat) (e : Nat) (body : List Byte) (mout : Part.out ∈ fr) (mpol : Part.pol ∈
    fr) {s : State} (hk : Only fr base s) : Only fr base (sendFrame kind e body s) := by
  unfold sendFrame
  with_reducible repeat' (first
    | assumption | intro _ | apply ite_only | apply emit_only | apply modPol_only | dsimp only | split)
theorem emitFrame_only {fr : List Part} {base : State} (kind : Nat) (dest : Option Nat) (stamp : Option Nat) (body : List Byte) (mout :
    Part.out ∈ fr) (mpol : Part.pol ∈ fr) (mtim : Part.tim ∈ fr) {s : State} (hk : Only fr base s) : Only fr base (emitFrame kind dest stamp
    body s) := by
  unfold emitFrame
  with_reducible repeat' (first
    | assumption | intro _ | apply ite_only | apply forS_only | apply sendFrame_only | apply txStamp_only | dsimp only | split)
theorem failPolicy_only {fr : List Part} {base : State} (t : Nat) (mout : Part.out ∈ fr) (mmem : Part.mem ∈ fr) (mhif : Part.hif ∈ fr) (mpln
    : Part.pln ∈ fr) (mcor : Part.cor ∈ fr) (mcol : Part.col ∈ fr) (mstp : Part.stp ∈ fr) (mrck : Part.rck ∈ fr) (mcel : Part.cel ∈ fr)
    (mtim : Part.tim ∈ fr) (mdbg : Part.dbg ∈ fr) (mbook : Part.book ∈ fr) {s : State} (hk : Only fr base s) : Only fr base (failPolicy t s)
    := by
  unfold failPolicy
  with_reducible repeat' (first
    | assumption | intro _ | apply ite_only | apply failStep_only | dsimp only | split)
theorem fwTable_only {fr : List Part} {base : State} (typ : Nat) (num : Nat) (image : List Byte) (mfree : Part.free ∈ fr) (mout : Part.out ∈
    fr) (mmem : Part.mem ∈ fr) (mgrp : Part.grp ∈ fr) (mhif : Part.hif ∈ fr) (mpln : Part.pln ∈ fr) (mcor : Part.cor ∈ fr) (mvnl : Part.vnl
    ∈ fr) (mcol : Part.col ∈ fr) (mstp : Part.stp ∈ fr) (mrck : Part.rck ∈ fr) (mcel : Part.cel ∈ fr) (mpol : Part.pol ∈ fr) (merr :
    Part.err ∈ fr) (mpwr : Part.pwr ∈ fr) (mtim : Part.tim ∈ fr) (msec : Part.sec ∈ fr) (mdbg : Part.dbg ∈ fr) (mboot : Part.boot ∈ fr)
    (mbook : Part.book ∈ fr) {s0 : State} (hk : Only fr base s0) : Only fr base (fwTable typ num image s0) := by
  unfold fwTable
  with_reducible repeat' (first
    | assumption | intro _ | apply ite_only | apply flushFmt_only | apply modCel_only | apply install_only | dsimp only | split)
theorem smPower_only {fr : List Part} {base : State} (req : Nat) (det : Nat) (mpwr : Part.pwr ∈ fr) (mbook : Part.book ∈ fr) {s : State} (hk
    : Only fr base s) : Only fr base (smPower req det s) := by
  unfold smPower
  with_reducible repeat' (first
    | assumption | intro _ | apply ite_only | apply reqAnswer_only | apply record_only | apply powerReq_only | dsimp only | split)
theorem closeOutDone_only {fr : List Part} {base : State} (mout : Part.out ∈ fr) (mhif : Part.hif ∈ fr) (mpwr : Part.pwr ∈ fr) (mbook :
    Part.book ∈ fr) {s : State} (hk : Only fr base s) : Only fr base (closeOutDone s) := by
  unfold closeOutDone
  with_reducible repeat' (first
    | assumption | intro _ | apply ite_only | apply setPwr_only | apply modPwr_only | dsimp only | split)
theorem smSet_only {fr : List Part} {base : State} (typ : Nat) (inst : Nat) (st : Nat) (mpol : Part.pol ∈ fr) {s : State} (hk : Only fr base
    s) : Only fr base (smSet typ inst st s) := by
  unfold smSet
  with_reducible repeat' (first
    | assumption | intro _ | apply ite_only | apply modPol_only | dsimp only | split)
theorem applyOut_only {fr : List Part} {base : State} (o : COut) (mfree : Part.free ∈ fr) (mout : Part.out ∈ fr) (mmem : Part.mem ∈ fr)
    (mgrp : Part.grp ∈ fr) (mhif : Part.hif ∈ fr) (mpln : Part.pln ∈ fr) (mcor : Part.cor ∈ fr) (mvnl : Part.vnl ∈ fr) (mcol : Part.col ∈
    fr) (mstp : Part.stp ∈ fr) (mrck : Part.rck ∈ fr) (mcel : Part.cel ∈ fr) (mpol : Part.pol ∈ fr) (merr : Part.err ∈ fr) (mpwr : Part.pwr
    ∈ fr) (mtim : Part.tim ∈ fr) (msec : Part.sec ∈ fr) (mdbg : Part.dbg ∈ fr) (mboot : Part.boot ∈ fr) (mbook : Part.book ∈ fr) {s : State}
    (hk : Only fr base s) : Only fr base (applyOut o s) := by
  unfold applyOut
  with_reducible repeat' (first
    | assumption | intro _ | apply ite_only | apply modDie_only | apply smPower_only | apply capAction_only | apply modPwr_only
    | apply closeOutDone_only | apply emitFrame_only | apply emit_only | apply txStamp_only | apply complexReset_only
    | apply fwTable_only | apply smSet_only | apply modPol_only | apply addRec_only | apply modTrig_only | apply modCel_only
    | apply restartStandby_only | apply failPolicy_only | apply modStep_only | apply foldl_only | apply foldl2_only | apply ite2_only
    | dsimp only | split)
theorem celSvcApply_only {fr : List Part} {base : State} (e : Nat) (c : PendCommit) (mgrp : Part.grp ∈ fr) (mcel : Part.cel ∈ fr) (mpol :
    Part.pol ∈ fr) (mbook : Part.book ∈ fr) {s : State} (hk : Only fr base s) : Only fr base (celSvcApply e c s) := by
  unfold celSvcApply
  with_reducible repeat' (first
    | assumption | intro _ | apply ite_only | apply modPol_only | apply csetAll_only | apply wiltLeave_only | dsimp only | split)
theorem pwrApply_only {fr : List Part} {base : State} (c : PendCommit) (mgrp : Part.grp ∈ fr) (mpol : Part.pol ∈ fr) (mpwr : Part.pwr ∈ fr)
    (mbook : Part.book ∈ fr) {s : State} (hk : Only fr base s) : Only fr base (pwrApply c s) := by
  unfold pwrApply
  with_reducible repeat' (first
    | assumption | intro _ | apply ite_only | apply csetAll_only | apply addRec_only | apply modPwr_only | apply smFix_only | dsimp only
    | split)
theorem strobeOne_only {fr : List Part} {base : State} (c : PendCommit) (mgrp : Part.grp ∈ fr) (mcel : Part.cel ∈ fr) (mpol : Part.pol ∈ fr)
    (mpwr : Part.pwr ∈ fr) (mbook : Part.book ∈ fr) {s : State} (hk : Only fr base s) : Only fr base (strobeOne c s) := by
  unfold strobeOne
  with_reducible repeat' (first
    | assumption | intro _ | apply ite_only | apply reportCommit_only | apply smFix_only | apply csetAll_only | apply celSvcApply_only
    | apply pwrApply_only | dsimp only | split)
theorem strobeCommits_only {fr : List Part} {base : State} (mgrp : Part.grp ∈ fr) (mcel : Part.cel ∈ fr) (mpol : Part.pol ∈ fr) (mpwr :
    Part.pwr ∈ fr) (mbook : Part.book ∈ fr) {s : State} (hk : Only fr base s) : Only fr base (strobeCommits s) := by
  unfold strobeCommits
  with_reducible repeat' (first
    | assumption | intro _ | apply ite_only | apply forS_only | apply strobeOne_only | apply modGrp_only | dsimp only | split)
theorem putRec_only {fr : List Part} {base : State} (r : Rec) (mbook : Part.book ∈ fr) {s : State} (hk : Only fr base s) : Only fr base
    (putRec r s) := by
  unfold putRec
  with_reducible repeat' (first
    | assumption | intro _ | apply ite_only | apply modBook_only | dsimp only | split)
theorem commitBook_only {fr : List Part} {base : State} (mbook : Part.book ∈ fr) {s : State} (hk : Only fr base s) : Only fr base
    (commitBook s) := by
  unfold commitBook
  with_reducible repeat' (first
    | assumption | intro _ | apply ite_only | apply forS_only | apply putRec_only | apply modBook_only | dsimp only | split)
theorem armBoundary_only {fr : List Part} {base : State} (mpwr : Part.pwr ∈ fr) (mtim : Part.tim ∈ fr) {s : State} (hk : Only fr base s) :
    Only fr base (armBoundary s) := by
  unfold armBoundary
  with_reducible repeat' (first
    | assumption | intro _ | apply ite_only | apply modTrig_only | apply modPwr_only | dsimp only | split)
theorem overrun_only {fr : List Part} {base : State} (mcel : Part.cel ∈ fr) (mtim : Part.tim ∈ fr) (mbook : Part.book ∈ fr) {s : State} (hk
    : Only fr base s) : Only fr base (overrun s) := by
  unfold overrun
  with_reducible repeat' (first
    | assumption | intro _ | apply ite_only | apply modCel_only | apply record_only | apply faultRelease_only | dsimp only | split)
theorem coldLine_only {fr : List Part} {base : State} (mout : Part.out ∈ fr) (mmem : Part.mem ∈ fr) (mhif : Part.hif ∈ fr) (mpln : Part.pln
    ∈ fr) (mcor : Part.cor ∈ fr) (mstp : Part.stp ∈ fr) (mcel : Part.cel ∈ fr) (merr : Part.err ∈ fr) (mpwr : Part.pwr ∈ fr) (mdbg :
    Part.dbg ∈ fr) (mbook : Part.book ∈ fr) {s : State} (hk : Only fr base s) : Only fr base (coldLine s) := by
  unfold coldLine
  with_reducible repeat' (first
    | assumption | intro _ | apply ite_only | apply complexReset_only | apply faultReport_only | apply modCel_only | dsimp only | split)
theorem checkAck_only {fr : List Part} {base : State} (mcel : Part.cel ∈ fr) (mbook : Part.book ∈ fr) {s : State} (hk : Only fr base s) :
    Only fr base (checkAck s) := by
  unfold checkAck
  with_reducible repeat' (first
    | assumption | intro _ | apply ite_only | apply standbyLost_only | apply saveStale_only | dsimp only | split)
theorem plannedSwitch_only {fr : List Part} {base : State} (mcel : Part.cel ∈ fr) (mbook : Part.book ∈ fr) {s : State} (hk : Only fr base s)
    : Only fr base (plannedSwitch s) := by
  unfold plannedSwitch
  with_reducible repeat' (first
    | assumption | intro _ | apply ite_only | apply record_only | apply setDie_only | apply moveOwn_only | apply modCel_only
    | dsimp only | split)
theorem sendBatch_only {fr : List Part} {base : State} (outs : List COut) (mcel : Part.cel ∈ fr) {s : State} (hk : Only fr base s) : Only fr
    base (sendBatch outs s) := by
  unfold sendBatch
  with_reducible repeat' (first
    | assumption | intro _ | apply ite_only | apply modCel_only | dsimp only | split)
theorem commitCycle_only {fr : List Part} {base : State} (mfree : Part.free ∈ fr) (mout : Part.out ∈ fr) (mmem : Part.mem ∈ fr) (mmram :
    Part.mram ∈ fr) (mgrp : Part.grp ∈ fr) (mhif : Part.hif ∈ fr) (mpln : Part.pln ∈ fr) (mcor : Part.cor ∈ fr) (mvnl : Part.vnl ∈ fr) (mcol
    : Part.col ∈ fr) (mstp : Part.stp ∈ fr) (mrck : Part.rck ∈ fr) (mcel : Part.cel ∈ fr) (mpol : Part.pol ∈ fr) (merr : Part.err ∈ fr)
    (mpwr : Part.pwr ∈ fr) (mtim : Part.tim ∈ fr) (msec : Part.sec ∈ fr) (mdbg : Part.dbg ∈ fr) (mboot : Part.boot ∈ fr) (mbook : Part.book
    ∈ fr) {s : State} (hk : Only fr base s) : Only fr base (commitCycle s) := by
  unfold commitCycle
  with_reducible repeat' (first
    | assumption | intro _ | apply ite_only | apply checkAck_only | apply modCel_only | apply coldLine_only | apply modPol_only
    | apply forS_only | apply applyOut_only | apply storeImage_only | apply sendBatch_only | apply commitKept_only
    | apply commitBook_only | apply lateRelease_only | apply armBoundary_only | apply strobeCommits_only | apply plannedSwitch_only
    | dsimp only | split)
theorem portEnable_only {fr : List Part} {base : State} (p : Nat) (on : Bool) (mfree : Part.free ∈ fr) (mout : Part.out ∈ fr) (mmem :
    Part.mem ∈ fr) (mgrp : Part.grp ∈ fr) (mhif : Part.hif ∈ fr) (mpln : Part.pln ∈ fr) (mcor : Part.cor ∈ fr) (mvnl : Part.vnl ∈ fr) (mstp
    : Part.stp ∈ fr) (mrck : Part.rck ∈ fr) (mcel : Part.cel ∈ fr) (merr : Part.err ∈ fr) (mpwr : Part.pwr ∈ fr) (mdbg : Part.dbg ∈ fr)
    (mboot : Part.boot ∈ fr) (mbook : Part.book ∈ fr) {s : State} (hk : Only fr base s) : Only fr base (portEnable p on s) := by
  unfold portEnable
  with_reducible repeat' (first
    | assumption | intro _ | apply ite_only | apply portCommit_only | dsimp only | split)
theorem batchOut_only {fr : List Part} {base : State} (o : COut) (mfree : Part.free ∈ fr) (mout : Part.out ∈ fr) (mmem : Part.mem ∈ fr)
    (mgrp : Part.grp ∈ fr) (mhif : Part.hif ∈ fr) (mpln : Part.pln ∈ fr) (mcor : Part.cor ∈ fr) (mvnl : Part.vnl ∈ fr) (mcol : Part.col ∈
    fr) (mstp : Part.stp ∈ fr) (mrck : Part.rck ∈ fr) (mcel : Part.cel ∈ fr) (mpol : Part.pol ∈ fr) (merr : Part.err ∈ fr) (mpwr : Part.pwr
    ∈ fr) (mtim : Part.tim ∈ fr) (mdbg : Part.dbg ∈ fr) (mboot : Part.boot ∈ fr) (mbook : Part.book ∈ fr) {s : State} (hk : Only fr base s)
    : Only fr base (batchOut o s) := by
  unfold batchOut
  with_reducible repeat' (first
    | assumption | intro _ | apply ite_only | apply tryReport_only | apply modStep_only | apply drawStep_only | apply failOut_only
    | apply portEnable_only | apply startStress_only | apply startSweep_only | apply modCor_only | apply drainQueue_only
    | apply modPwr_only | apply setRetire_only | dsimp only | split)
theorem takeBatch_only {fr : List Part} {base : State} (intact : Bool) (mfree : Part.free ∈ fr) (mout : Part.out ∈ fr) (mmem : Part.mem ∈
    fr) (mgrp : Part.grp ∈ fr) (mhif : Part.hif ∈ fr) (mpln : Part.pln ∈ fr) (mcor : Part.cor ∈ fr) (mvnl : Part.vnl ∈ fr) (mcol : Part.col
    ∈ fr) (mstp : Part.stp ∈ fr) (mrck : Part.rck ∈ fr) (mcel : Part.cel ∈ fr) (mpol : Part.pol ∈ fr) (merr : Part.err ∈ fr) (mpwr :
    Part.pwr ∈ fr) (mtim : Part.tim ∈ fr) (mdbg : Part.dbg ∈ fr) (mboot : Part.boot ∈ fr) (mbook : Part.book ∈ fr) {s : State} (hk : Only fr
    base s) : Only fr base (takeBatch intact s) := by
  unfold takeBatch
  with_reducible repeat' (first
    | assumption | intro _ | apply ite_only | apply modCel_only | apply forS_only | apply batchOut_only | dsimp only | split)

end Sys2Proof.Machine
end

