-- ==== Sys2Proof/Laws/OnlyPlanter.lean ====
section
/-!
SUPPORT. Laws/OnlyPlanter.lean: what the operations of Machine/Planter.lean leave as it was.
-/
namespace Sys2Proof.Machine

set_option linter.unusedTactic false
set_option linter.unreachableTactic false
set_option linter.unusedVariables false

theorem evalPage_only {fr : List Part} {base : State} (key : Nat) (mpln : Part.pln ∈ fr) {s : State} (hk : Only fr base s) : Only fr base
    (evalPage key s) := by
  unfold evalPage
  with_reducible repeat' (first
    | assumption | intro _ | apply ite_only | apply countUnmet_only | apply startMove_only | dsimp only | split)
theorem finishMove_only {fr : List Part} {base : State} (m : Move) (mout : Part.out ∈ fr) (mhif : Part.hif ∈ fr) (mpln : Part.pln ∈ fr)
    (mrck : Part.rck ∈ fr) (mbook : Part.book ∈ fr) {s : State} (hk : Only fr base s) : Only fr base (finishMove m s) := by
  unfold finishMove
  with_reducible repeat' (first
    | assumption | intro _ | apply ite_only | apply dropMove_only | apply modPage_only | apply modPln_only | apply program_only
    | dsimp only | split)
theorem abandonMove_only {fr : List Part} {base : State} (m : Move) (mpln : Part.pln ∈ fr) {s : State} (hk : Only fr base s) : Only fr base
    (abandonMove m s) := by
  unfold abandonMove
  with_reducible repeat' (first
    | assumption | intro _ | apply ite_only | apply dropMove_only | apply modPage_only | dsimp only | split)
theorem retryPromos_only {fr : List Part} {base : State} (mpln : Part.pln ∈ fr) {s : State} (hk : Only fr base s) : Only fr base
    (retryPromos s) := by
  unfold retryPromos
  with_reducible repeat' (first
    | assumption | intro _ | apply ite_only | apply forS_only | apply startPromo_only | dsimp only | split)
theorem endMove_only {fr : List Part} {base : State} (m : Move) (mout : Part.out ∈ fr) (mmem : Part.mem ∈ fr) (mhif : Part.hif ∈ fr) (mpln :
    Part.pln ∈ fr) (mrck : Part.rck ∈ fr) (mbook : Part.book ∈ fr) {s : State} (hk : Only fr base s) : Only fr base (endMove m s) := by
  unfold endMove
  with_reducible repeat' (first
    | assumption | intro _ | apply ite_only | apply pump_only | apply retryPromos_only | apply dropMove_only | apply finishMove_only
    | dsimp only | split)
theorem zeroizeDone_only {fr : List Part} {base : State} (tier : Nat) (stack : Nat) (mpln : Part.pln ∈ fr) {s : State} (hk : Only fr base s)
    : Only fr base (zeroizeDone tier stack s) := by
  unfold zeroizeDone
  with_reducible repeat' (first
    | assumption | intro _ | apply ite_only | apply retryPromos_only | apply modPln_only | dsimp only | split)
theorem poisonFault_only {fr : List Part} {base : State} (h : Nat) (p : Nat) (mout : Part.out ∈ fr) (mmem : Part.mem ∈ fr) (mhif : Part.hif
    ∈ fr) (mpln : Part.pln ∈ fr) (mcor : Part.cor ∈ fr) (mstp : Part.stp ∈ fr) (mcel : Part.cel ∈ fr) (merr : Part.err ∈ fr) (mpwr :
    Part.pwr ∈ fr) (mdbg : Part.dbg ∈ fr) (mbook : Part.book ∈ fr) {s : State} (hk : Only fr base s) : Only fr base (poisonFault s h p) :=
    by
  unfold poisonFault
  with_reducible repeat' (first
    | assumption | intro _ | apply ite_only | apply faultAll_only | dsimp only | split)
theorem dropStackMoves_only {fr : List Part} {base : State} (k : Nat) (mpln : Part.pln ∈ fr) {s : State} (hk : Only fr base s) : Only fr
    base (dropStackMoves k s) := by
  unfold dropStackMoves
  with_reducible repeat' (first
    | assumption | intro _ | apply ite_only | apply retryPromos_only | apply forS_only | apply dropMove_only | dsimp only | split)
theorem tripStack_only {fr : List Part} {base : State} (k : Nat) (mout : Part.out ∈ fr) (mmem : Part.mem ∈ fr) (mhif : Part.hif ∈ fr) (mpln
    : Part.pln ∈ fr) (mcor : Part.cor ∈ fr) (mstp : Part.stp ∈ fr) (mcel : Part.cel ∈ fr) (merr : Part.err ∈ fr) (mpwr : Part.pwr ∈ fr)
    (mdbg : Part.dbg ∈ fr) (mbook : Part.book ∈ fr) {s : State} (hk : Only fr base s) : Only fr base (tripStack k s) := by
  unfold tripStack
  with_reducible repeat' (first
    | assumption | intro _ | apply ite_only | apply faultAll_only | apply dropStackMoves_only | apply modStk_only | dsimp only | split)
theorem loseStack_only {fr : List Part} {base : State} (k : Nat) (mpln : Part.pln ∈ fr) {s : State} (hk : Only fr base s) : Only fr base
    (loseStack k s) := by
  unfold loseStack
  with_reducible repeat' (first
    | assumption | intro _ | apply ite_only | apply dropStackMoves_only | apply modStk_only | dsimp only | split)

end Sys2Proof.Machine
end

