-- ==== Sys2Proof/Laws/OnlyReset.lean ====
section
/-!
SUPPORT. Laws/OnlyReset.lean: what the operations of Machine/Reset.lean leave as it was.
-/
namespace Sys2Proof.Machine

set_option linter.unusedTactic false
set_option linter.unreachableTactic false
set_option linter.unusedVariables false

theorem ledger_only {fr : List Part} {base : State} (k : Nat) (isEnd : Bool) (path : Nat) (result : Nat) (detail : Nat) (mmram : Part.mram ∈
    fr) (mboot : Part.boot ∈ fr) (mbook : Part.book ∈ fr) {s : State} (hk : Only fr base s) : Only fr base (ledger k isEnd path result
    detail s) := by
  unfold ledger
  with_reducible repeat' (first
    | assumption | intro _ | apply ite_only | apply commitKept_only | apply modBoot_only | dsimp only | split)
theorem skipStep_only {fr : List Part} {base : State} (k : Nat) (mmram : Part.mram ∈ fr) (msec : Part.sec ∈ fr) (mboot : Part.boot ∈ fr)
    (mbook : Part.book ∈ fr) {s : State} (hk : Only fr base s) : Only fr base (skipStep k s) := by
  unfold skipStep
  with_reducible repeat' (first
    | assumption | intro _ | apply ite_only | apply modBoot_only | apply ledger_only | apply modSec_only | dsimp only | split)
theorem bootReady_only {fr : List Part} {base : State} (mboot : Part.boot ∈ fr) (mbook : Part.book ∈ fr) {s : State} (hk : Only fr base s) :
    Only fr base (bootReady s) := by
  unfold bootReady
  with_reducible repeat' (first
    | assumption | intro _ | apply ite_only | apply record_only | apply modBoot_only | dsimp only | split)
theorem bootHalt_only {fr : List Part} {base : State} (k : Nat) (mboot : Part.boot ∈ fr) (mbook : Part.book ∈ fr) {s : State} (hk : Only fr
    base s) : Only fr base (bootHalt k s) := by
  unfold bootHalt
  with_reducible repeat' (first
    | assumption | intro _ | apply ite_only | apply record_only | apply modBoot_only | dsimp only | split)
theorem startPorts_only {fr : List Part} {base : State} (mfree : Part.free ∈ fr) (mout : Part.out ∈ fr) (mmem : Part.mem ∈ fr) (mgrp :
    Part.grp ∈ fr) (mhif : Part.hif ∈ fr) (mpln : Part.pln ∈ fr) (mcor : Part.cor ∈ fr) (mvnl : Part.vnl ∈ fr) (mstp : Part.stp ∈ fr) (mrck
    : Part.rck ∈ fr) (mcel : Part.cel ∈ fr) (merr : Part.err ∈ fr) (mpwr : Part.pwr ∈ fr) (mdbg : Part.dbg ∈ fr) (mboot : Part.boot ∈ fr)
    (mbook : Part.book ∈ fr) {s : State} (hk : Only fr base s) : Only fr base (startPorts s) := by
  unfold startPorts
  with_reducible repeat' (first
    | assumption | intro _ | apply ite_only | apply forS_only | apply portCommit_only | dsimp only | split)
theorem railsOff_only {fr : List Part} {base : State} (mmem : Part.mem ∈ fr) (mhif : Part.hif ∈ fr) (mpln : Part.pln ∈ fr) (mcor :
    Part.cor ∈ fr) (mvnl : Part.vnl ∈ fr) (mcol : Part.col ∈ fr) (mstp : Part.stp ∈ fr) (mrck : Part.rck ∈ fr) (merr : Part.err ∈ fr)
    (mpwr : Part.pwr ∈ fr) (msec : Part.sec ∈ fr) (mdbg : Part.dbg ∈ fr) (mboot : Part.boot ∈ fr) {s : State} (hk : Only fr base s) :
    Only fr base (railsOff s) := by
  unfold railsOff
  intro p hp
  have := hk p hp
  cases p <;> first | exact this | exact absurd ‹_› hp

end Sys2Proof.Machine
end

