-- ==== Sys2Proof/Laws/OnlyBoot.lean ====
section
/-!
SUPPORT. Laws/OnlyBoot.lean: what the operations of Machine/Boot.lean leave as it was.
-/
namespace Sys2Proof.Machine

set_option linter.unusedTactic false
set_option linter.unreachableTactic false
set_option linter.unusedVariables false

theorem inputLoss_only {fr : List Part} {base : State} (mmem : Part.mem ∈ fr) (mhif : Part.hif ∈ fr) (mpln : Part.pln ∈ fr) (mcor : Part.cor
    ∈ fr) (mvnl : Part.vnl ∈ fr) (mcol : Part.col ∈ fr) (mstp : Part.stp ∈ fr) (mrck : Part.rck ∈ fr) (mcel : Part.cel ∈ fr) (merr :
    Part.err ∈ fr) (mpwr : Part.pwr ∈ fr) (msec : Part.sec ∈ fr) (mdbg : Part.dbg ∈ fr) (mboot : Part.boot ∈ fr) {s : State} (hk : Only fr
    base s) : Only fr base (inputLoss s) := by
  unfold inputLoss
  with_reducible repeat' (first
    | assumption | intro _ | apply ite_only | apply modPwr_only | apply upMsg_only | apply railsOff_only | dsimp only | split)
theorem setFw_only {fr : List Part} {base : State} (k : Nat) (f : FwSlot → FwSlot) (mboot : Part.boot ∈ fr) {s : State} (hk : Only fr base
    s) : Only fr base (setFw k f s) := by
  unfold setFw
  with_reducible repeat' (first
    | assumption | intro _ | apply ite_only | apply modBoot_only | dsimp only | split)
theorem ptrWrite_only {fr : List Part} {base : State} (f : Boot → Boot) (mboot : Part.boot ∈ fr) {s : State} (hk : Only fr base s) : Only fr
    base (ptrWrite f s) := by
  unfold ptrWrite
  with_reducible repeat' (first
    | assumption | intro _ | apply ite_only | apply modBoot_only | dsimp only | split)
theorem rollback_only {fr : List Part} {base : State} (mboot : Part.boot ∈ fr) (mbook : Part.book ∈ fr) {s : State} (hk : Only fr base s) :
    Only fr base (rollback s) := by
  unfold rollback
  with_reducible repeat' (first
    | assumption | intro _ | apply ite_only | apply record_only | apply setFw_only | apply ptrWrite_only | dsimp only | split)
theorem slotSelect_only {fr : List Part} {base : State} (path : Nat) (mask : Nat) (mboot : Part.boot ∈ fr) (mbook : Part.book ∈ fr) {s :
    State} (hk : Only fr base s) : Only fr base (slotSelect path mask s).2 := by
  unfold slotSelect
  with_reducible repeat' (first
    | assumption | intro _ | apply ite_only | apply ptrWrite_only | apply rollback_only | apply setFw_only | apply ite2_only
    | dsimp only | split)
theorem slotTables_only {fr : List Part} {base : State} (mgrp : Part.grp ∈ fr) (mcor : Part.cor ∈ fr) (mpol : Part.pol ∈ fr) (mpwr :
    Part.pwr ∈ fr) (mbook : Part.book ∈ fr) {s : State} (hk : Only fr base s) : Only fr base (slotTables s) := by
  unfold slotTables
  with_reducible repeat' (first
    | assumption | intro _ | apply ite_only | apply forS_only | apply install_only | dsimp only | split)
theorem stepEffect_only {fr : List Part} {base : State} (k : Nat) (path : Nat) (mask : Nat) (mout : Part.out ∈ fr) (mgrp : Part.grp ∈ fr)
    (mhif : Part.hif ∈ fr) (mpln : Part.pln ∈ fr) (mcor : Part.cor ∈ fr) (mvnl : Part.vnl ∈ fr) (mcel : Part.cel ∈ fr) (mpol : Part.pol ∈
    fr) (mpwr : Part.pwr ∈ fr) (msec : Part.sec ∈ fr) (mboot : Part.boot ∈ fr) (mbook : Part.book ∈ fr) {s : State} (hk : Only fr base s) :
    Only fr base (stepEffect k path mask s) := by
  unfold stepEffect
  with_reducible repeat' (first
    | assumption | intro _ | apply ite_only | apply setDie_only | apply modCel_only | apply modBoot_only | apply modSec_only
    | apply slotTables_only | apply forS_only | apply modDie_only | apply modPln_only | apply modCore_only | apply setPwr_only
    | apply csetReset_only | apply modVnl_only | apply foldl_only | apply foldl2_only | apply ite2_only | dsimp only | split)
theorem release_only {fr : List Part} {base : State} (mout : Part.out ∈ fr) (mmem : Part.mem ∈ fr) (mpln : Part.pln ∈ fr) (mvnl : Part.vnl ∈
    fr) (mrck : Part.rck ∈ fr) {s : State} (hk : Only fr base s) : Only fr base (release s) := by
  unfold release
  with_reducible repeat' (first
    | assumption | intro _ | apply ite_only | apply drainQueue_only | apply pump_only | dsimp only | split)
theorem blkRegs_only {fr : List Part} {base : State} (b : Nat) (mregs : Part.regs ∈ fr) (mgrp : Part.grp ∈ fr) {s : State} (hk : Only fr
    base s) : Only fr base (blkRegs b s) := by
  unfold blkRegs
  apply regs_only <;> try assumption
  apply modGrp_only <;> assumption
theorem blkUncommitted_only {fr : List Part} {base : State} (b : Nat) (mgrp : Part.grp ∈ fr) {s : State} (hk : Only fr base s) : Only fr
    base (blkUncommitted b s) := by
  unfold blkUncommitted
  with_reducible repeat' (first
    | assumption | intro _ | apply ite_only | apply modGrp_only | apply forS_only | apply reload_only | dsimp only | split)
theorem blkUnit_only {fr : List Part} {base : State} (b : Nat) (mfree : Part.free ∈ fr) (mhif : Part.hif ∈ fr) (mpln : Part.pln ∈ fr) (mcor
    : Part.cor ∈ fr) (mvnl : Part.vnl ∈ fr) (mcol : Part.col ∈ fr) (mstp : Part.stp ∈ fr) (mrck : Part.rck ∈ fr) (merr : Part.err ∈ fr)
    (mpwr : Part.pwr ∈ fr) (mtim : Part.tim ∈ fr) (msec : Part.sec ∈ fr) (mdbg : Part.dbg ∈ fr) (mboot : Part.boot ∈ fr) (mbook : Part.book
    ∈ fr) {s : State} (hk : Only fr base s) : Only fr base (blkUnit b s) := by
  unfold blkUnit
  with_reducible repeat' (first
    | assumption | intro _ | apply ite_only | apply modHif_only | apply modPln_only | apply modCor_only | apply modVnl_only
    | apply modCol_only | apply modStp_only | apply modRck_only | apply modErr_only | apply modPwr_only | apply modTim_only
    | apply fresh_only | apply modSec_only | apply modDbg_only | apply modBoot_only | apply modBook_only | dsimp only | split)
theorem blkReset_only {fr : List Part} {base : State} (b : Nat) (mfree : Part.free ∈ fr) (mregs : Part.regs ∈ fr) (mgrp : Part.grp ∈ fr)
    (mhif : Part.hif ∈ fr) (mpln : Part.pln ∈ fr) (mcor : Part.cor ∈ fr) (mvnl : Part.vnl ∈ fr) (mcol : Part.col ∈ fr) (mstp : Part.stp ∈
    fr) (mrck : Part.rck ∈ fr) (merr : Part.err ∈ fr) (mpwr : Part.pwr ∈ fr) (mtim : Part.tim ∈ fr) (msec : Part.sec ∈ fr) (mdbg : Part.dbg
    ∈ fr) (mboot : Part.boot ∈ fr) (mbook : Part.book ∈ fr) {s : State} (hk : Only fr base s) : Only fr base (blkReset b s) := by
  unfold blkReset
  with_reducible repeat' (first
    | assumption | intro _ | apply ite_only | apply modBoot_only | apply blkUncommitted_only | apply blkUnit_only | apply blkRegs_only
    | dsimp only | split)
theorem updRec_only {fr : List Part} {base : State} (cmd : Nat) (res : Nat) (mbook : Part.book ∈ fr) {s : State} (hk : Only fr base s) :
    Only fr base (updRec cmd res s) := by
  unfold updRec
  with_reducible repeat' (first
    | assumption | intro _ | apply ite_only | apply record_only | dsimp only | split)
theorem updDo_only {fr : List Part} {base : State} (cmd : Nat) (len : Nat) (mboot : Part.boot ∈ fr) {s : State} (hk : Only fr base s) : Only
    fr base (updDo cmd len s) := by
  unfold updDo
  with_reducible repeat' (first
    | assumption | intro _ | apply ite_only | apply setFw_only | apply modBoot_only | apply ptrWrite_only | dsimp only | split)
theorem updAct_only {fr : List Part} {base : State} (cmd : Nat) (snap : List Word) (mgrp : Part.grp ∈ fr) (mboot : Part.boot ∈ fr) (mbook :
    Part.book ∈ fr) {s : State} (hk : Only fr base s) : Only fr base (updAct cmd snap s) := by
  unfold updAct
  with_reducible repeat' (first
    | assumption | intro _ | apply ite_only | apply updRec_only | apply setCstat_only | apply updDo_only | apply csetAll_only
    | dsimp only | split)
theorem updCmd_only {fr : List Part} {base : State} (cmd : Nat) (acc : Acc) (mgrp : Part.grp ∈ fr) (mboot : Part.boot ∈ fr) (mbook :
    Part.book ∈ fr) {s : State} (hk : Only fr base s) : Only fr base (updCmd cmd acc s) := by
  unfold updCmd
  with_reducible repeat' (first
    | assumption | intro _ | apply ite_only | apply modBoot_only | apply setCstat_only | apply updAct_only | dsimp only | split)
theorem runUpdWait_only {fr : List Part} {base : State} (mgrp : Part.grp ∈ fr) (mboot : Part.boot ∈ fr) (mbook : Part.book ∈ fr) {s : State}
    (hk : Only fr base s) : Only fr base (runUpdWait s) := by
  unfold runUpdWait
  with_reducible repeat' (first
    | assumption | intro _ | apply ite_only | apply forS_only | apply updAct_only | apply modBoot_only | dsimp only | split)

end Sys2Proof.Machine
end

