-- ==== Sys2Proof/Laws/OnlySecurity.lean ====
section
/-!
SUPPORT. Laws/OnlySecurity.lean: what the operations of Machine/Security.lean leave as it was.
-/
namespace Sys2Proof.Machine

set_option linter.unusedTactic false
set_option linter.unreachableTactic false
set_option linter.unusedVariables false

theorem setLife_only {fr : List Part} {base : State} (l : Life) (caps : Nat) (msec : Part.sec ∈ fr) (mbook : Part.book ∈ fr) {s : State} (hk
    : Only fr base s) : Only fr base (setLife l caps s) := by
  unfold setLife
  with_reducible repeat' (first
    | assumption | intro _ | apply ite_only | apply record_only | apply modSec_only | dsimp only | split)
theorem retireModule_only {fr : List Part} {base : State} (mrck : Part.rck ∈ fr) (msec : Part.sec ∈ fr) (mbook : Part.book ∈ fr) {s : State}
    (hk : Only fr base s) : Only fr base (retireModule s) := by
  unfold retireModule
  with_reducible repeat' (first
    | assumption | intro _ | apply ite_only | apply setLife_only | apply modSec_only | apply modRck_only | dsimp only | split)
theorem secRefuse_only {fr : List Part} {base : State} (cmd : Nat) (reason : Nat) (res : Nat) (off : Nat) (mgrp : Part.grp ∈ fr) (msec :
    Part.sec ∈ fr) (mbook : Part.book ∈ fr) {s : State} (hk : Only fr base s) : Only fr base (secRefuse cmd reason res off s) := by
  unfold secRefuse
  with_reducible repeat' (first
    | assumption | intro _ | apply ite_only | apply record_only | apply setCstat_only | apply modSec_only | dsimp only | split)
theorem unlockTdis_only {fr : List Part} {base : State} (msec : Part.sec ∈ fr) {s : State} (hk : Only fr base s) : Only fr base (unlockTdis
    s) := by
  unfold unlockTdis
  with_reducible repeat' (first
    | assumption | intro _ | apply ite_only | apply modSec_only | dsimp only | split)
theorem spdmSend_only {fr : List Part} {base : State} (r : Rsp) (b : List Byte) (mout : Part.out ∈ fr) (msec : Part.sec ∈ fr) {s : State}
    (hk : Only fr base s) : Only fr base (spdmSend r b s) := by
  unfold spdmSend
  with_reducible repeat' (first
    | assumption | intro _ | apply ite_only | apply emit_only | apply modSec_only | dsimp only | split)
theorem spdmError_only {fr : List Part} {base : State} (code : Nat) (mout : Part.out ∈ fr) {s : State} (hk : Only fr base s) : Only fr base
    (spdmError code s) := by
  unfold spdmError
  with_reducible repeat' (first
    | assumption | intro _ | apply ite_only | apply emit_only | dsimp only | split)
theorem modSession_only {fr : List Part} {base : State} (id : Nat) (f : Session → Session) (msec : Part.sec ∈ fr) {s : State} (hk : Only fr
    base s) : Only fr base (modSession id f s) := by
  unfold modSession
  with_reducible repeat' (first
    | assumption | intro _ | apply ite_only | apply modSec_only | dsimp only | split)
theorem spdmSigned_only {fr : List Part} {base : State} (r : Rsp) (req : List Byte) (body : List Byte) (mfree : Part.free ∈ fr) (mout :
    Part.out ∈ fr) (msec : Part.sec ∈ fr) {s : State} (hk : Only fr base s) : Only fr base (spdmSigned r req body s) := by
  unfold spdmSigned
  with_reducible repeat' (first
    | assumption | intro _ | apply ite_only | apply fresh_only | apply spdmSend_only | dsimp only | split)
theorem stopTdi_only {fr : List Part} {base : State} (v : Nat) (mfree : Part.free ∈ fr) (mout : Part.out ∈ fr) (mmem : Part.mem ∈ fr) (mgrp
    : Part.grp ∈ fr) (mhif : Part.hif ∈ fr) (mpln : Part.pln ∈ fr) (mcor : Part.cor ∈ fr) (mvnl : Part.vnl ∈ fr) (mcol : Part.col ∈ fr)
    (mstp : Part.stp ∈ fr) (mrck : Part.rck ∈ fr) (mcel : Part.cel ∈ fr) (mpol : Part.pol ∈ fr) (merr : Part.err ∈ fr) (mpwr : Part.pwr ∈
    fr) (mtim : Part.tim ∈ fr) (msec : Part.sec ∈ fr) (mdbg : Part.dbg ∈ fr) (mbook : Part.book ∈ fr) {s : State} (hk : Only fr base s) :
    Only fr base (stopTdi v s) := by
  unfold stopTdi
  with_reducible repeat' (first
    | assumption | intro _ | apply ite_only | apply unlockTdis_only | apply forS_only | apply teardown_only | apply modSec_only
    | dsimp only | split)

end Sys2Proof.Machine
end

