-- ==== Sys2Proof/Laws/OnlyBook.lean ====
section
/-!
SUPPORT. Laws/OnlyBook.lean: what the operations of Machine/Book.lean leave as it was.
-/
namespace Sys2Proof.Machine

set_option linter.unusedTactic false
set_option linter.unreachableTactic false
set_option linter.unusedVariables false

theorem clearBook_only {fr : List Part} {base : State} (mbook : Part.book ∈ fr) {s : State} (hk : Only fr base s) : Only fr base (clearBook
    s) := by
  unfold clearBook
  with_reducible repeat' (first
    | assumption | intro _ | apply ite_only | apply record_only | apply modBook_only | dsimp only | split)

end Sys2Proof.Machine
end

