-- ==== Sys2Proof/Laws/OnlyVine.lean ====
section
/-!
SUPPORT. Laws/OnlyVine.lean: what the operations of Machine/Vine.lean leave as it was.
-/
namespace Sys2Proof.Machine

set_option linter.unusedTactic false
set_option linter.unreachableTactic false
set_option linter.unusedVariables false

theorem leavePort_only {fr : List Part} {base : State} (p : Nat) (st : PortSt) (reason : Nat) (mfree : Part.free ∈ fr) (mout : Part.out ∈
    fr) (mmem : Part.mem ∈ fr) (mhif : Part.hif ∈ fr) (mpln : Part.pln ∈ fr) (mcor : Part.cor ∈ fr) (mvnl : Part.vnl ∈ fr) (mstp : Part.stp
    ∈ fr) (mrck : Part.rck ∈ fr) (mcel : Part.cel ∈ fr) (merr : Part.err ∈ fr) (mpwr : Part.pwr ∈ fr) (mdbg : Part.dbg ∈ fr) (mbook :
    Part.book ∈ fr) {s : State} (hk : Only fr base s) : Only fr base (leavePort p st reason s) := by
  unfold leavePort
  with_reducible repeat' (first
    | assumption | intro _ | apply ite_only | apply drainQueue_only | apply closePort_only | apply modPort_only | apply divertBind_only
    | apply checkBuddies_only | apply portEvt_only | dsimp only | split)
theorem enterRetrain_only {fr : List Part} {base : State} (p : Nat) (reason : Nat) (mfree : Part.free ∈ fr) (mout : Part.out ∈ fr) (mmem :
    Part.mem ∈ fr) (mhif : Part.hif ∈ fr) (mpln : Part.pln ∈ fr) (mcor : Part.cor ∈ fr) (mvnl : Part.vnl ∈ fr) (mstp : Part.stp ∈ fr) (mrck
    : Part.rck ∈ fr) (mcel : Part.cel ∈ fr) (merr : Part.err ∈ fr) (mpwr : Part.pwr ∈ fr) (mdbg : Part.dbg ∈ fr) (mbook : Part.book ∈ fr) {s
    : State} (hk : Only fr base s) : Only fr base (enterRetrain p reason s) := by
  unfold enterRetrain
  with_reducible repeat' (first
    | assumption | intro _ | apply ite_only | apply modPort_only | apply leavePort_only | apply divertSlot_only | apply drainQueue_only
    | apply updReady_only | dsimp only | split)
theorem resendFrom_only {fr : List Part} {base : State} (p : Nat) (i : Nat) (mfree : Part.free ∈ fr) (mout : Part.out ∈ fr) (mmem : Part.mem
    ∈ fr) (mhif : Part.hif ∈ fr) (mpln : Part.pln ∈ fr) (mcor : Part.cor ∈ fr) (mvnl : Part.vnl ∈ fr) (mstp : Part.stp ∈ fr) (mrck :
    Part.rck ∈ fr) (mcel : Part.cel ∈ fr) (merr : Part.err ∈ fr) (mpwr : Part.pwr ∈ fr) (mdbg : Part.dbg ∈ fr) (mbook : Part.book ∈ fr) {s :
    State} (hk : Only fr base s) : Only fr base (resendFrom p i s) := by
  unfold resendFrom
  with_reducible repeat' (first
    | assumption | intro _ | apply ite_only | apply forS_only | apply emit_only | apply modPort_only | apply enterRetrain_only
    | dsimp only | split)
theorem reopenPort_only {fr : List Part} {base : State} (p : Nat) (mfree : Part.free ∈ fr) (mout : Part.out ∈ fr) (mmem : Part.mem ∈ fr)
    (mhif : Part.hif ∈ fr) (mpln : Part.pln ∈ fr) (mcor : Part.cor ∈ fr) (mvnl : Part.vnl ∈ fr) (mstp : Part.stp ∈ fr) (mrck : Part.rck ∈
    fr) (mcel : Part.cel ∈ fr) (merr : Part.err ∈ fr) (mpwr : Part.pwr ∈ fr) (mdbg : Part.dbg ∈ fr) (mbook : Part.book ∈ fr) {s : State} (hk
    : Only fr base s) : Only fr base (reopenPort p s) := by
  unfold reopenPort
  with_reducible repeat' (first
    | assumption | intro _ | apply ite_only | apply portEvt_only | apply modPort_only | apply drainQueue_only | apply updReady_only
    | apply resendFrom_only | dsimp only | split)
theorem ackIn_only {fr : List Part} {base : State} (p : Nat) (env : List Byte) (mfree : Part.free ∈ fr) (mout : Part.out ∈ fr) (mmem :
    Part.mem ∈ fr) (mhif : Part.hif ∈ fr) (mpln : Part.pln ∈ fr) (mcor : Part.cor ∈ fr) (mvnl : Part.vnl ∈ fr) (mstp : Part.stp ∈ fr) (mrck
    : Part.rck ∈ fr) (mcel : Part.cel ∈ fr) (merr : Part.err ∈ fr) (mpwr : Part.pwr ∈ fr) (mdbg : Part.dbg ∈ fr) (mbook : Part.book ∈ fr) {s
    : State} (hk : Only fr base s) : Only fr base (ackIn p env s) := by
  unfold ackIn
  with_reducible repeat' (first
    | assumption | intro _ | apply ite_only | apply modPort_only | apply drainQueue_only | apply resendFrom_only | dsimp only | split)
theorem arrive_only {fr : List Part} {base : State} (b : Nat) (cls : Nat) (dest : Nat) (msg : List Byte) (mout : Part.out ∈ fr) (mvnl :
    Part.vnl ∈ fr) {s : State} (hk : Only fr base s) : Only fr base (arrive b cls dest msg s) := by
  unfold arrive
  with_reducible repeat' (first
    | assumption | intro _ | apply ite_only | apply modVnl_only | apply sendTo_only | dsimp only | split)
theorem takePayload_only {fr : List Part} {base : State} (p : Nat) (b : Nat) (env : List Byte) (plain : List Byte) (mout : Part.out ∈ fr)
    (mvnl : Part.vnl ∈ fr) {s : State} (hk : Only fr base s) : Only fr base (takePayload p b env plain s) := by
  unfold takePayload
  with_reducible repeat' (first
    | assumption | intro _ | apply ite_only | apply arrive_only | apply modPort_only | dsimp only | split)
theorem takeFlit_only {fr : List Part} {base : State} (p : Nat) (b : Nat) (env : List Byte) (plain : List Byte) (mfree : Part.free ∈ fr)
    (mout : Part.out ∈ fr) (mmem : Part.mem ∈ fr) (mhif : Part.hif ∈ fr) (mpln : Part.pln ∈ fr) (mcor : Part.cor ∈ fr) (mvnl : Part.vnl ∈
    fr) (mstp : Part.stp ∈ fr) (mrck : Part.rck ∈ fr) (mcel : Part.cel ∈ fr) (merr : Part.err ∈ fr) (mpwr : Part.pwr ∈ fr) (mdbg : Part.dbg
    ∈ fr) (mbook : Part.book ∈ fr) {s : State} (hk : Only fr base s) : Only fr base (takeFlit p b env plain s) := by
  unfold takeFlit
  with_reducible repeat' (first
    | assumption | intro _ | apply ite_only | apply modPort_only | apply takePayload_only | apply sendIdle_only
    | apply checkBuddies_only | apply closePort_only | dsimp only | split)
theorem takeTrain_only {fr : List Part} {base : State} (p : Nat) (env : List Byte) (mvnl : Part.vnl ∈ fr) {s : State} (hk : Only fr base s)
    : Only fr base (takeTrain p env s) := by
  unfold takeTrain
  with_reducible repeat' (first
    | assumption | intro _ | apply ite_only | apply modPort_only | dsimp only | split)
theorem hbSeen_only {fr : List Part} {base : State} (p : Nat) (mout : Part.out ∈ fr) (mhif : Part.hif ∈ fr) (mvnl : Part.vnl ∈ fr) (mcel :
    Part.cel ∈ fr) (mpol : Part.pol ∈ fr) (mbook : Part.book ∈ fr) {s : State} (hk : Only fr base s) : Only fr base (hbSeen p s) := by
  unfold hbSeen
  with_reducible repeat' (first
    | assumption | intro _ | apply ite_only | apply modPort_only | apply slotHeard_only | dsimp only | split)
theorem badFlit_only {fr : List Part} {base : State} (p : Nat) (typ : Nat) (uncorr : Bool) (mfree : Part.free ∈ fr) (mout : Part.out ∈ fr)
    (mmem : Part.mem ∈ fr) (mhif : Part.hif ∈ fr) (mpln : Part.pln ∈ fr) (mcor : Part.cor ∈ fr) (mvnl : Part.vnl ∈ fr) (mstp : Part.stp ∈
    fr) (mrck : Part.rck ∈ fr) (mcel : Part.cel ∈ fr) (merr : Part.err ∈ fr) (mpwr : Part.pwr ∈ fr) (mdbg : Part.dbg ∈ fr) (mbook :
    Part.book ∈ fr) {s : State} (hk : Only fr base s) : Only fr base (badFlit p typ uncorr s) := by
  unfold badFlit
  with_reducible repeat' (first
    | assumption | intro _ | apply ite_only | apply modPort_only | apply sendIdle_only | apply enterRetrain_only | dsimp only | split)
theorem flitIn_only {fr : List Part} {base : State} (p : Nat) (corrected : Nat) (uncorr : Bool) (env : List Byte) (plain : List Byte) (mfree
    : Part.free ∈ fr) (mout : Part.out ∈ fr) (mmem : Part.mem ∈ fr) (mhif : Part.hif ∈ fr) (mpln : Part.pln ∈ fr) (mcor : Part.cor ∈ fr)
    (mvnl : Part.vnl ∈ fr) (mstp : Part.stp ∈ fr) (mrck : Part.rck ∈ fr) (mcel : Part.cel ∈ fr) (mpol : Part.pol ∈ fr) (merr : Part.err ∈
    fr) (mpwr : Part.pwr ∈ fr) (mdbg : Part.dbg ∈ fr) (mbook : Part.book ∈ fr) {s : State} (hk : Only fr base s) : Only fr base (flitIn p
    corrected uncorr env plain s) := by
  unfold flitIn
  with_reducible repeat' (first
    | assumption | intro _ | apply ite_only | apply modPort_only | apply badFlit_only | apply hbSeen_only | apply takeTrain_only
    | apply takeFlit_only | apply ackIn_only | dsimp only | split)
theorem hbTick_only {fr : List Part} {base : State} (mout : Part.out ∈ fr) (mvnl : Part.vnl ∈ fr) {s : State} (hk : Only fr base s) : Only
    fr base (hbTick s) := by
  unfold hbTick
  with_reducible repeat' (first
    | assumption | intro _ | apply ite_only | apply forS_only | apply sendIdle_only | apply handOver_only | apply countDivert_only
    | dsimp only | split)
theorem identified_only {fr : List Part} {base : State} (p : Nat) (peer : Nat) (peerPort : Nat) (circuit : Nat) (mvnl : Part.vnl ∈ fr) {s :
    State} (hk : Only fr base s) : Only fr base (identified p peer peerPort circuit s) := by
  unfold identified
  with_reducible repeat' (first
    | assumption | intro _ | apply ite_only | apply modPort_only | apply modVnl_only | dsimp only | split)
theorem equalized_only {fr : List Part} {base : State} (p : Nat) (ok : Bool) (coef : Nat) (mfree : Part.free ∈ fr) (mout : Part.out ∈ fr)
    (mmem : Part.mem ∈ fr) (mhif : Part.hif ∈ fr) (mpln : Part.pln ∈ fr) (mcor : Part.cor ∈ fr) (mvnl : Part.vnl ∈ fr) (mstp : Part.stp ∈
    fr) (mrck : Part.rck ∈ fr) (mcel : Part.cel ∈ fr) (merr : Part.err ∈ fr) (mpwr : Part.pwr ∈ fr) (mdbg : Part.dbg ∈ fr) (mbook :
    Part.book ∈ fr) {s : State} (hk : Only fr base s) : Only fr base (equalized p ok coef s) := by
  unfold equalized
  with_reducible repeat' (first
    | assumption | intro _ | apply ite_only | apply modPort_only | apply modVnl_only | apply leavePort_only | dsimp only | split)
theorem dropTrain_only {fr : List Part} {base : State} (p : Nat) (mvnl : Part.vnl ∈ fr) {s : State} (hk : Only fr base s) : Only fr base
    (dropTrain p s) := by
  unfold dropTrain
  with_reducible repeat' (first
    | assumption | intro _ | apply ite_only | apply modPort_only | dsimp only | split)
theorem modShake_only {fr : List Part} {base : State} (p : Nat) (f : Shake → Shake) (mvnl : Part.vnl ∈ fr) {s : State} (hk : Only fr base s)
    : Only fr base (modShake p f s) := by
  unfold modShake
  with_reducible repeat' (first
    | assumption | intro _ | apply ite_only | apply modPort_only | dsimp only | split)
theorem answered_only {fr : List Part} {base : State} (p : Nat) (codes : List Nat) (mvnl : Part.vnl ∈ fr) {s : State} (hk : Only fr base s)
    : Only fr base (answered p codes s) := by
  unfold answered
  with_reducible repeat' (first
    | assumption | intro _ | apply ite_only | apply modShake_only | dsimp only | split)
theorem sendCert_only {fr : List Part} {base : State} (p : Nat) (mout : Part.out ∈ fr) (mvnl : Part.vnl ∈ fr) {s : State} (hk : Only fr base
    s) : Only fr base (sendCert p s) := by
  unfold sendCert
  with_reducible repeat' (first
    | assumption | intro _ | apply ite_only | apply hsSend_only | dsimp only | split)
theorem attemptEnds_only {fr : List Part} {base : State} (p : Nat) (reason : Nat) (mvnl : Part.vnl ∈ fr) {s : State} (hk : Only fr base s) :
    Only fr base (attemptEnds p reason s) := by
  unfold attemptEnds
  with_reducible repeat' (first
    | assumption | intro _ | apply ite_only | apply modPort_only | dsimp only | split)
theorem takeHello_only {fr : List Part} {base : State} (p : Nat) (m : List Byte) (mout : Part.out ∈ fr) (mvnl : Part.vnl ∈ fr) {s : State}
    (hk : Only fr base s) : Only fr base (takeHello p m s) := by
  unfold takeHello
  with_reducible repeat' (first
    | assumption | intro _ | apply ite_only | apply modShake_only | apply askToken_only | apply sendCert_only | dsimp only | split)
theorem startVerify_only {fr : List Part} {base : State} (p : Nat) (mvnl : Part.vnl ∈ fr) {s : State} (hk : Only fr base s) : Only fr base
    (startVerify p s) := by
  unfold startVerify
  with_reducible repeat' (first
    | assumption | intro _ | apply ite_only | apply modShake_only | dsimp only | split)
theorem takeCert_only {fr : List Part} {base : State} (p : Nat) (m : List Byte) (mout : Part.out ∈ fr) (mvnl : Part.vnl ∈ fr) {s : State}
    (hk : Only fr base s) : Only fr base (takeCert p m s) := by
  unfold takeCert
  with_reducible repeat' (first
    | assumption | intro _ | apply ite_only | apply modVnl_only | apply answered_only | apply sendCert_only | apply startVerify_only
    | apply askToken_only | apply modShake_only | apply attemptEnds_only | apply hsSend_only | dsimp only | split)
theorem tokenSigned_only {fr : List Part} {base : State} (p : Nat) (mout : Part.out ∈ fr) (mhif : Part.hif ∈ fr) (mvnl : Part.vnl ∈ fr)
    (mcel : Part.cel ∈ fr) (mbook : Part.book ∈ fr) {s : State} (hk : Only fr base s) : Only fr base (tokenSigned p s) := by
  unfold tokenSigned
  with_reducible repeat' (first
    | assumption | intro _ | apply ite_only | apply tryOpen_only | apply hsSend_only | apply modShake_only | apply askToken_only
    | dsimp only | split)
theorem tokenVerified_only {fr : List Part} {base : State} (p : Nat) (mout : Part.out ∈ fr) (mhif : Part.hif ∈ fr) (mvnl : Part.vnl ∈ fr)
    (mcel : Part.cel ∈ fr) (mbook : Part.book ∈ fr) {s : State} (hk : Only fr base s) : Only fr base (tokenVerified p s) := by
  unfold tokenVerified
  with_reducible repeat' (first
    | assumption | intro _ | apply ite_only | apply hsSend_only | apply modShake_only | apply tryOpen_only | apply attemptEnds_only
    | dsimp only | split)
theorem marginIn_only {fr : List Part} {base : State} (p : Nat) (lane : Nat) (pw : Nat) (eye : Nat) (mout : Part.out ∈ fr) (mhif : Part.hif
    ∈ fr) (mvnl : Part.vnl ∈ fr) (mcel : Part.cel ∈ fr) (mpol : Part.pol ∈ fr) (mbook : Part.book ∈ fr) {s : State} (hk : Only fr base s) :
    Only fr base (marginIn p lane pw eye s) := by
  unfold marginIn
  with_reducible repeat' (first
    | assumption | intro _ | apply ite_only | apply modPort_only | apply upEvent_only | apply wiltJoin_only | apply noteT_only
    | apply record_only | dsimp only | split)

end Sys2Proof.Machine
end

