-- ==== Sys2Proof/Laws/OnlyCelSvc.lean ====
section
/-!
SUPPORT. Laws/OnlyCelSvc.lean: what the operations of Machine/CelSvc.lean leave as it was.
-/
namespace Sys2Proof.Machine

set_option linter.unusedTactic false
set_option linter.unreachableTactic false
set_option linter.unusedVariables false

theorem pairAlarm_only {fr : List Part} {base : State} (owner : Bool) (ka : Bool) (mbook : Part.book ∈ fr) {s : State} (hk : Only fr base s)
    : Only fr base (pairAlarm owner ka s) := by
  unfold pairAlarm
  with_reducible repeat' (first
    | assumption | intro _ | apply ite_only | apply record_only | dsimp only | split)
theorem ownerSilent_only {fr : List Part} {base : State} (ka : Bool) (mmram : Part.mram ∈ fr) (mregs : Part.regs ∈ fr) (mvnl : Part.vnl ∈
    fr) (mstp : Part.stp ∈ fr) (mcel : Part.cel ∈ fr) (mpol : Part.pol ∈ fr) (mpwr : Part.pwr ∈ fr) (mtim : Part.tim ∈ fr) (msec : Part.sec
    ∈ fr) (mboot : Part.boot ∈ fr) (mbook : Part.book ∈ fr) {s : State} (hk : Only fr base s) : Only fr base (ownerSilent ka s) := by
  unfold ownerSilent
  with_reducible repeat' (first
    | assumption | intro _ | apply ite_only | apply hotTakeover_only | apply coldTakeover_only | apply pairAlarm_only
    | apply modCel_only | dsimp only | split)
theorem standbySilent_only {fr : List Part} {base : State} (ka : Bool) (mcel : Part.cel ∈ fr) (mbook : Part.book ∈ fr) {s : State} (hk :
    Only fr base s) : Only fr base (standbySilent ka s) := by
  unfold standbySilent
  with_reducible repeat' (first
    | assumption | intro _ | apply ite_only | apply modCel_only | apply standbyLost_only | apply pairAlarm_only | dsimp only | split)
theorem sawFrame_only {fr : List Part} {base : State} (b : List Byte) (mpol : Part.pol ∈ fr) {s : State} (hk : Only fr base s) : Only fr
    base (sawFrame b s) := by
  unfold sawFrame
  with_reducible repeat' (first
    | assumption | intro _ | apply ite_only | apply modPol_only | dsimp only | split)
theorem takeHeartbeat_only {fr : List Part} {base : State} (m : Nat) (body : List Byte) (mout : Part.out ∈ fr) (mhif : Part.hif ∈ fr) (mcel
    : Part.cel ∈ fr) (mpol : Part.pol ∈ fr) (mbook : Part.book ∈ fr) {s : State} (hk : Only fr base s) : Only fr base (takeHeartbeat m body
    s) := by
  unfold takeHeartbeat
  with_reducible repeat' (first
    | assumption | intro _ | apply ite_only | apply judgePeer_only | apply modPeer_only | apply wiltJoin_only | apply wiltLeave_only
    | dsimp only | split)
theorem takeDiverted_only {fr : List Part} {base : State} (p : Nat) (b : Nat) (env : List Byte) (plain : List Byte) (mout : Part.out ∈ fr)
    (mvnl : Part.vnl ∈ fr) {s : State} (hk : Only fr base s) : Only fr base (takeDiverted p b env plain s) := by
  unfold takeDiverted
  with_reducible repeat' (first
    | assumption | intro _ | apply ite_only | apply modPort_only | apply arrive_only | dsimp only | split)
theorem takeEnvelope_only {fr : List Part} {base : State} (b : Nat) (k : Nat) (env : List Byte) (plain : List Byte) (mout : Part.out ∈ fr)
    (mhif : Part.hif ∈ fr) (mvnl : Part.vnl ∈ fr) (mcel : Part.cel ∈ fr) (mpol : Part.pol ∈ fr) (mbook : Part.book ∈ fr) {s : State} (hk :
    Only fr base s) : Only fr base (takeEnvelope b k env plain s) := by
  unfold takeEnvelope
  with_reducible repeat' (first
    | assumption | intro _ | apply ite_only | apply slotHeard_only | apply takeDiverted_only | dsimp only | split)
theorem takeDivert_only {fr : List Part} {base : State} (m : Nat) (body : List Byte) (plains : List (List Byte)) (mout : Part.out ∈ fr)
    (mhif : Part.hif ∈ fr) (mvnl : Part.vnl ∈ fr) (mcel : Part.cel ∈ fr) (mpol : Part.pol ∈ fr) (mbook : Part.book ∈ fr) {s : State} (hk :
    Only fr base s) : Only fr base (takeDivert m body plains s) := by
  unfold takeDivert
  with_reducible repeat' (first
    | assumption | intro _ | apply ite_only | apply forS_only | apply takeEnvelope_only | dsimp only | split)
theorem svcAnswer_only {fr : List Part} {base : State} (proto : Nat) (src : Nat) (target : Nat) (bytes : List Byte) (mout : Part.out ∈ fr)
    {s : State} (hk : Only fr base s) : Only fr base (svcAnswer proto src target bytes s) := by
  unfold svcAnswer
  with_reducible repeat' (first
    | assumption | intro _ | apply ite_only | apply emit_only | dsimp only | split)

end Sys2Proof.Machine
end

