-- ==== Sys2Proof/Laws/OnlyDma.lean ====
section
/-!
SUPPORT. Laws/OnlyDma.lean: what the operations of Machine/Dma.lean leave as it was.
-/
namespace Sys2Proof.Machine

set_option linter.unusedTactic false
set_option linter.unreachableTactic false
set_option linter.unusedVariables false

theorem fenceTry_only {fr : List Part} {base : State} (tag : Nat) (mout : Part.out ∈ fr) (mmem : Part.mem ∈ fr) (mhif : Part.hif ∈ fr) (mpln
    : Part.pln ∈ fr) (mcor : Part.cor ∈ fr) (mcol : Part.col ∈ fr) (mstp : Part.stp ∈ fr) (mrck : Part.rck ∈ fr) (mcel : Part.cel ∈ fr)
    (mtim : Part.tim ∈ fr) (mdbg : Part.dbg ∈ fr) (mbook : Part.book ∈ fr) {s : State} (hk : Only fr base s) : Only fr base (fenceTry tag s)
    := by
  unfold fenceTry
  with_reducible repeat' (first
    | assumption | intro _ | apply ite_only | apply done_only | dsimp only | split)
theorem fenceStart_only {fr : List Part} {base : State} (tag : Nat) (mout : Part.out ∈ fr) (mmem : Part.mem ∈ fr) (mhif : Part.hif ∈ fr)
    (mpln : Part.pln ∈ fr) (mcor : Part.cor ∈ fr) (mcol : Part.col ∈ fr) (mstp : Part.stp ∈ fr) (mrck : Part.rck ∈ fr) (mcel : Part.cel ∈
    fr) (mtim : Part.tim ∈ fr) (mdbg : Part.dbg ∈ fr) (mbook : Part.book ∈ fr) {s : State} (hk : Only fr base s) : Only fr base (fenceStart
    tag s) := by
  unfold fenceStart
  with_reducible repeat' (first
    | assumption | intro _ | apply ite_only | apply fenceTry_only | apply done_only | apply modLive_only | dsimp only | split)
theorem toHost_only {fr : List Part} {base : State} (t : Nat) (addr : Nat) (bs : List Byte) (mout : Part.out ∈ fr) {s : State} (hk : Only fr
    base s) : Only fr base (toHost t addr bs s) := by
  unfold toHost
  with_reducible repeat' (first
    | assumption | intro _ | apply ite_only | apply emit_only | dsimp only | split)
theorem dmaPut_only {fr : List Part} {base : State} (tag : Nat) (t : Nat) (op : Nat) (d : List Byte) (step : Option Nat) (pos : Nat) (bs :
    List Byte) (mout : Part.out ∈ fr) (mmem : Part.mem ∈ fr) (mpln : Part.pln ∈ fr) (mrck : Part.rck ∈ fr) (mpwr : Part.pwr ∈ fr) {s :
    State} (hk : Only fr base s) : Only fr base (dmaPut tag t op d step pos bs s) := by
  unfold dmaPut
  with_reducible repeat' (first
    | assumption | intro _ | apply ite_only | apply toHost_only | apply hWrite_only | dsimp only | split)
theorem dmaEnds_only {fr : List Part} {base : State} (tag : Nat) (status : Nat) (detail : Nat) (result : Nat) (mhif : Part.hif ∈ fr) {s :
    State} (hk : Only fr base s) : Only fr base (dmaEnds tag status detail result s) := by
  unfold dmaEnds
  with_reducible repeat' (first
    | assumption | intro _ | apply ite_only | apply modLive_only | dsimp only | split)
theorem dmaConsume_only {fr : List Part} {base : State} (tag : Nat) (t : Nat) (op : Nat) (l : Live) (bs : List Byte) (b : Nat × Nat × Nat ×
    Nat) (mfree : Part.free ∈ fr) (mout : Part.out ∈ fr) (mmem : Part.mem ∈ fr) (mhif : Part.hif ∈ fr) (mpln : Part.pln ∈ fr) (mcor :
    Part.cor ∈ fr) (mstp : Part.stp ∈ fr) (mrck : Part.rck ∈ fr) (mcel : Part.cel ∈ fr) (merr : Part.err ∈ fr) (mpwr : Part.pwr ∈ fr) (mdbg
    : Part.dbg ∈ fr) (mbook : Part.book ∈ fr) {s : State} (hk : Only fr base s) : Only fr base (dmaConsume tag t op l bs b s) := by
  unfold dmaConsume
  with_reducible repeat' (first
    | assumption | intro _ | apply ite_only | apply poisonFault_only | apply modLive_only | apply fresh_only | apply dmaPut_only
    | apply forS_only | apply dmaEnds_only | dsimp only | split)
theorem dmaHold_only {fr : List Part} {base : State} (tag : Nat) (t : Nat) (n : Nat) (d : List Byte) (bs : List Byte) (mout : Part.out ∈ fr)
    (mmem : Part.mem ∈ fr) (mhif : Part.hif ∈ fr) (mpln : Part.pln ∈ fr) (mcor : Part.cor ∈ fr) (mcol : Part.col ∈ fr) (mstp : Part.stp ∈
    fr) (mrck : Part.rck ∈ fr) (mcel : Part.cel ∈ fr) (mtim : Part.tim ∈ fr) (mdbg : Part.dbg ∈ fr) (mbook : Part.book ∈ fr) {s : State} (hk
    : Only fr base s) : Only fr base (dmaHold tag t n d bs s) := by
  unfold dmaHold
  with_reducible repeat' (first
    | assumption | intro _ | apply ite_only | apply modLive_only | apply updStall_only | apply failStep_only | apply dmaEnds_only
    | apply modStp_only | dsimp only | split)
theorem dmaTry_only {fr : List Part} {base : State} (tag : Nat) (mfree : Part.free ∈ fr) (mout : Part.out ∈ fr) (mmem : Part.mem ∈ fr) (mhif
    : Part.hif ∈ fr) (mpln : Part.pln ∈ fr) (mcor : Part.cor ∈ fr) (mcol : Part.col ∈ fr) (mstp : Part.stp ∈ fr) (mrck : Part.rck ∈ fr)
    (mcel : Part.cel ∈ fr) (merr : Part.err ∈ fr) (mpwr : Part.pwr ∈ fr) (mtim : Part.tim ∈ fr) (mdbg : Part.dbg ∈ fr) (mbook : Part.book ∈
    fr) {s : State} (hk : Only fr base s) : Only fr base (dmaTry tag s) := by
  unfold dmaTry
  with_reducible repeat' (first
    | assumption | intro _ | apply ite_only | apply modLive_only | apply forS_only | apply whenS_only | apply wakeUp_only
    | apply promoteRange_only | apply dmaConsume_only | apply dmaHold_only | apply dmaEnds_only | apply toHost_only | apply dmaPut_only
    | dsimp only | split)
theorem readHost_only {fr : List Part} {base : State} (op : Nat) (t : Nat) (d : List Byte) (mout : Part.out ∈ fr) {s : State} (hk : Only fr
    base s) : Only fr base (readHost op t d s) := by
  unfold readHost
  with_reducible repeat' (first
    | assumption | intro _ | apply ite_only | apply emit_only | dsimp only | split)
theorem dmaStart_only {fr : List Part} {base : State} (tag : Nat) (op : Nat) (buf : List Byte) (mfree : Part.free ∈ fr) (mout : Part.out ∈
    fr) (mmem : Part.mem ∈ fr) (mhif : Part.hif ∈ fr) (mpln : Part.pln ∈ fr) (mcor : Part.cor ∈ fr) (mcol : Part.col ∈ fr) (mstp : Part.stp
    ∈ fr) (mrck : Part.rck ∈ fr) (mcel : Part.cel ∈ fr) (merr : Part.err ∈ fr) (mpwr : Part.pwr ∈ fr) (mtim : Part.tim ∈ fr) (mdbg :
    Part.dbg ∈ fr) (mbook : Part.book ∈ fr) {s : State} (hk : Only fr base s) : Only fr base (dmaStart tag op buf s) := by
  unfold dmaStart
  with_reducible repeat' (first
    | assumption | intro _ | apply ite_only | apply startDesc_only | apply done_only | apply dmaTry_only | apply readHost_only
    | apply modLive_only | dsimp only | split)
theorem startDemotion_only {fr : List Part} {base : State} (v : Option (Nat × Nat × Nat × Nat)) (mpln : Part.pln ∈ fr) {s : State} (hk :
    Only fr base s) : Only fr base (startDemotion v s) := by
  unfold startDemotion
  with_reducible repeat' (first
    | assumption | intro _ | apply ite_only | apply modPln_only | dsimp only | split)
theorem createPages_only {fr : List Part} {base : State} (mpln : Part.pln ∈ fr) (h t tier die : Nat) (n p : Nat) (s : State)
    (hk : Only fr base s) (u : State) (hu : createPages h t tier die n p s = some u) : Only fr base u := by
  induction n generalizing p s with
  | zero => cases hu; exact hk
  | succ n ih =>
    unfold createPages at hu
    dsimp only at hu
    split at hu
    · exact ih _ _ (countUnmet_only _ _ mpln (modPln_only _ mpln hk)) hu
    · cases hu
theorem createNew_only {fr : List Part} {base : State} (tag : Nat) (t : Nat) (h : Nat) (hd : Hnd) (d : List Byte) (mout : Part.out ∈ fr)
    (mmem : Part.mem ∈ fr) (mhif : Part.hif ∈ fr) (mpln : Part.pln ∈ fr) (mcor : Part.cor ∈ fr) (mcol : Part.col ∈ fr) (mstp : Part.stp ∈
    fr) (mrck : Part.rck ∈ fr) (mcel : Part.cel ∈ fr) (mtim : Part.tim ∈ fr) (mdbg : Part.dbg ∈ fr) (mbook : Part.book ∈ fr) {s : State}
    (hk : Only fr base s) : Only fr base (createNew tag t h hd d s) := by
  unfold createNew
  dsimp only
  split
  · next h =>
    apply done_only <;> try assumption
    exact createPages_only mpln _ _ _ _ _ _ _ (modPln_only _ mpln hk) _ h
  · exact modLive_only _ _ mhif (startDemotion_only _ mpln hk)
theorem createTry_only {fr : List Part} {base : State} (tag : Nat) (want : Nat) (mout : Part.out ∈ fr) (mmem : Part.mem ∈ fr) (mhif :
    Part.hif ∈ fr) (mpln : Part.pln ∈ fr) (mcor : Part.cor ∈ fr) (mcol : Part.col ∈ fr) (mstp : Part.stp ∈ fr) (mrck : Part.rck ∈ fr) (mcel
    : Part.cel ∈ fr) (mtim : Part.tim ∈ fr) (mdbg : Part.dbg ∈ fr) (mbook : Part.book ∈ fr) {s : State} (hk : Only fr base s) : Only fr base
    (createTry tag want s) := by
  unfold createTry
  with_reducible repeat' (first
    | assumption | intro _ | apply ite_only | apply done_only | apply createNew_only | dsimp only | split)
theorem createAgain_only {fr : List Part} {base : State} (tag : Nat) (mout : Part.out ∈ fr) (mmem : Part.mem ∈ fr) (mhif : Part.hif ∈ fr)
    (mpln : Part.pln ∈ fr) (mcor : Part.cor ∈ fr) (mcol : Part.col ∈ fr) (mstp : Part.stp ∈ fr) (mrck : Part.rck ∈ fr) (mcel : Part.cel ∈
    fr) (mtim : Part.tim ∈ fr) (mdbg : Part.dbg ∈ fr) (mbook : Part.book ∈ fr) {s : State} (hk : Only fr base s) : Only fr base (createAgain
    tag s) := by
  unfold createAgain
  with_reducible repeat' (first
    | assumption | intro _ | apply ite_only | apply modLive_only | apply createTry_only | dsimp only | split)
theorem retryCreates_only {fr : List Part} {base : State} (mout : Part.out ∈ fr) (mmem : Part.mem ∈ fr) (mhif : Part.hif ∈ fr) (mpln :
    Part.pln ∈ fr) (mcor : Part.cor ∈ fr) (mcol : Part.col ∈ fr) (mstp : Part.stp ∈ fr) (mrck : Part.rck ∈ fr) (mcel : Part.cel ∈ fr) (mtim
    : Part.tim ∈ fr) (mdbg : Part.dbg ∈ fr) (mbook : Part.book ∈ fr) {s : State} (hk : Only fr base s) : Only fr base (retryCreates s) := by
  unfold retryCreates
  with_reducible repeat' (first
    | assumption | intro _ | apply ite_only | apply forS_only | apply createAgain_only | dsimp only | split)

end Sys2Proof.Machine
end

