-- ==== Sys2Proof/Laws/OnlySteps.lean ====
section
/-!
SUPPORT. Laws/OnlySteps.lean: what the operations of Machine/Steps.lean leave as it was.
-/
namespace Sys2Proof.Machine

set_option linter.unusedTactic false
set_option linter.unreachableTactic false
set_option linter.unusedVariables false

theorem stepErr_only {fr : List Part} {base : State} (tag : Nat) (status : Nat) (detail : Nat) (l : Live) (mout : Part.out ∈ fr) (mmem :
    Part.mem ∈ fr) (mhif : Part.hif ∈ fr) (mpln : Part.pln ∈ fr) (mcor : Part.cor ∈ fr) (mcol : Part.col ∈ fr) (mstp : Part.stp ∈ fr) (mrck
    : Part.rck ∈ fr) (mcel : Part.cel ∈ fr) (mtim : Part.tim ∈ fr) (mdbg : Part.dbg ∈ fr) (mbook : Part.book ∈ fr) {s : State} (hk : Only fr
    base s) : Only fr base (stepErr tag status detail l s) := by
  unfold stepErr
  with_reducible repeat' (first
    | assumption | intro _ | apply ite_only | apply done_only | apply modLive_only | dsimp only | split)
theorem dropInbox_only {fr : List Part} {base : State} (i : Nat) (mvnl : Part.vnl ∈ fr) {s : State} (hk : Only fr base s) : Only fr base
    (dropInbox i s) := by
  unfold dropInbox
  with_reducible repeat' (first
    | assumption | intro _ | apply ite_only | apply modVnl_only | dsimp only | split)
theorem takeReport_only {fr : List Part} {base : State} (b : Nat) (m : List Byte) (mout : Part.out ∈ fr) (mmem : Part.mem ∈ fr) (mhif :
    Part.hif ∈ fr) (mpln : Part.pln ∈ fr) (mcor : Part.cor ∈ fr) (mvnl : Part.vnl ∈ fr) (mcol : Part.col ∈ fr) (mstp : Part.stp ∈ fr) (mrck
    : Part.rck ∈ fr) (mcel : Part.cel ∈ fr) (mpol : Part.pol ∈ fr) (mpwr : Part.pwr ∈ fr) (mtim : Part.tim ∈ fr) (mdbg : Part.dbg ∈ fr)
    (mbook : Part.book ∈ fr) {s : State} (hk : Only fr base s) : Only fr base (takeReport b m s) := by
  unfold takeReport
  with_reducible repeat' (first
    | assumption | intro _ | apply ite_only | apply tryReport_only | apply modStep_only | apply modTstep_only | dsimp only | split)
theorem takeDraw_only {fr : List Part} {base : State} (b : Nat) (m : List Byte) (mout : Part.out ∈ fr) (mmem : Part.mem ∈ fr) (mhif :
    Part.hif ∈ fr) (mpln : Part.pln ∈ fr) (mcor : Part.cor ∈ fr) (mvnl : Part.vnl ∈ fr) (mcol : Part.col ∈ fr) (mstp : Part.stp ∈ fr) (mrck
    : Part.rck ∈ fr) (mcel : Part.cel ∈ fr) (mpol : Part.pol ∈ fr) (mpwr : Part.pwr ∈ fr) (mtim : Part.tim ∈ fr) (mdbg : Part.dbg ∈ fr)
    (mbook : Part.book ∈ fr) {s : State} (hk : Only fr base s) : Only fr base (takeDraw b m s) := by
  unfold takeDraw
  with_reducible repeat' (first
    | assumption | intro _ | apply ite_only | apply drawStep_only | apply toChildren_only | dsimp only | split)
theorem takeFail_only {fr : List Part} {base : State} (b : Nat) (m : List Byte) (mout : Part.out ∈ fr) (mmem : Part.mem ∈ fr) (mhif :
    Part.hif ∈ fr) (mpln : Part.pln ∈ fr) (mcor : Part.cor ∈ fr) (mvnl : Part.vnl ∈ fr) (mcol : Part.col ∈ fr) (mstp : Part.stp ∈ fr) (mrck
    : Part.rck ∈ fr) (mtim : Part.tim ∈ fr) (mdbg : Part.dbg ∈ fr) (mbook : Part.book ∈ fr) {s : State} (hk : Only fr base s) : Only fr base
    (takeFail b m s) := by
  unfold takeFail
  with_reducible repeat' (first
    | assumption | intro _ | apply ite_only | apply discard_only | apply toChildren_only | apply sendTo_only | dsimp only | split)
theorem preimageDone_only {fr : List Part} {base : State} (h : Nat) (p : Nat) (b : Nat) (mout : Part.out ∈ fr) (mmem : Part.mem ∈ fr) (mhif
    : Part.hif ∈ fr) (mpln : Part.pln ∈ fr) (mcor : Part.cor ∈ fr) (mcol : Part.col ∈ fr) (mstp : Part.stp ∈ fr) (mrck : Part.rck ∈ fr)
    (mcel : Part.cel ∈ fr) (mtim : Part.tim ∈ fr) (mdbg : Part.dbg ∈ fr) (mbook : Part.book ∈ fr) {s : State} (hk : Only fr base s) : Only
    fr base (preimageDone h p b s) := by
  unfold preimageDone
  with_reducible repeat' (first
    | assumption | intro _ | apply ite_only | apply failStep_only | apply pump_only | apply updStall_only | apply modStp_only
    | dsimp only | split)
theorem markPoison_only {fr : List Part} {base : State} (h : Nat) (p : Nat) (b : Nat) (mout : Part.out ∈ fr) (mhif : Part.hif ∈ fr) (mpln :
    Part.pln ∈ fr) (mbook : Part.book ∈ fr) {s : State} (hk : Only fr base s) : Only fr base (markPoison h p b s) := by
  unfold markPoison
  with_reducible repeat' (first
    | assumption | intro _ | apply ite_only | apply noteT_only | apply modPage_only | dsimp only | split)
theorem holdWriteDone_only {fr : List Part} {base : State} (mout : Part.out ∈ fr) (mmem : Part.mem ∈ fr) (mhif : Part.hif ∈ fr) (mpln :
    Part.pln ∈ fr) (mcor : Part.cor ∈ fr) (mcol : Part.col ∈ fr) (mstp : Part.stp ∈ fr) (mrck : Part.rck ∈ fr) (mcel : Part.cel ∈ fr) (mpwr
    : Part.pwr ∈ fr) (mtim : Part.tim ∈ fr) (mdbg : Part.dbg ∈ fr) (mbook : Part.book ∈ fr) {s : State} (hk : Only fr base s) : Only fr base
    (holdWriteDone s) := by
  unfold holdWriteDone
  with_reducible repeat' (first
    | assumption | intro _ | apply ite_only | apply modStp_only | apply emit_only | apply modLive_only | apply wakeOpens_only
    | apply pump_only | apply updStall_only | apply settleFrees_only | apply postHeld_only | dsimp only | split)

end Sys2Proof.Machine
end

