-- ==== Sys2Proof/Laws/OnlyRack.lean ====
section
/-!
SUPPORT. Laws/OnlyRack.lean: what the operations of Machine/Rack.lean leave as it was.
-/
namespace Sys2Proof.Machine

set_option linter.unusedTactic false
set_option linter.unreachableTactic false
set_option linter.unusedVariables false

theorem rackUnattached_only {fr : List Part} {base : State} (tag : Nat) (l : Live) (mout : Part.out ∈ fr) (mhif : Part.hif ∈ fr) (mvnl :
    Part.vnl ∈ fr) (mrck : Part.rck ∈ fr) (mbook : Part.book ∈ fr) {s : State} (hk : Only fr base s) : Only fr base (rackUnattached tag l s)
    := by
  unfold rackUnattached
  with_reducible repeat' (first
    | assumption | intro _ | apply ite_only | apply rackEffect_only | dsimp only | split)
theorem rackKeyNow_only {fr : List Part} {base : State} (tag : Nat) (mout : Part.out ∈ fr) (mmem : Part.mem ∈ fr) (mhif : Part.hif ∈ fr)
    (mpln : Part.pln ∈ fr) (mcor : Part.cor ∈ fr) (mcol : Part.col ∈ fr) (mstp : Part.stp ∈ fr) (mrck : Part.rck ∈ fr) (mcel : Part.cel ∈
    fr) (mtim : Part.tim ∈ fr) (mdbg : Part.dbg ∈ fr) (mbook : Part.book ∈ fr) {s : State} (hk : Only fr base s) : Only fr base (rackKeyNow
    tag s) := by
  unfold rackKeyNow
  with_reducible repeat' (first
    | assumption | intro _ | apply ite_only | apply done_only | apply modHnd_only | dsimp only | split)
theorem cowDone_only {fr : List Part} {base : State} (h : Nat) (p : Nat) (b : Nat) (mmem : Part.mem ∈ fr) (mpln : Part.pln ∈ fr) (mrck :
    Part.rck ∈ fr) {s : State} (hk : Only fr base s) : Only fr base (cowDone h p b s) := by
  unfold cowDone
  with_reducible repeat' (first
    | assumption | intro _ | apply ite_only | apply pump_only | apply modPage_only | apply modRck_only | dsimp only | split)
theorem checkFail_only {fr : List Part} {base : State} (t : Nat) (row : Nat) (key : Nat) (mout : Part.out ∈ fr) (mhif : Part.hif ∈ fr) (merr
    : Part.err ∈ fr) (mbook : Part.book ∈ fr) {s : State} (hk : Only fr base s) : Only fr base (checkFail t row key s) := by
  unfold checkFail
  with_reducible repeat' (first
    | assumption | intro _ | apply ite_only | apply noteT_only | apply modErr_only | dsimp only | split)
theorem rackCheck_only {fr : List Part} {base : State} (j : RackJob) (mout : Part.out ∈ fr) (mmem : Part.mem ∈ fr) (mhif : Part.hif ∈ fr)
    (mpln : Part.pln ∈ fr) (mstp : Part.stp ∈ fr) (mrck : Part.rck ∈ fr) (mbook : Part.book ∈ fr) {s : State} (hk : Only fr base s) : Only
    fr base (rackCheck j s) := by
  unfold rackCheck
  with_reducible repeat' (first
    | assumption | intro _ | apply ite_only | apply pump_only | apply rackEnd_only | apply abandonRack_only | dsimp only | split)
theorem compareHash_only {fr : List Part} {base : State} (a : HashRec) (own : HashRec) (mout : Part.out ∈ fr) (mhif : Part.hif ∈ fr) (mrck :
    Part.rck ∈ fr) (mbook : Part.book ∈ fr) {s : State} (hk : Only fr base s) : Only fr base (compareHash a own s) := by
  unfold compareHash
  with_reducible repeat' (first
    | assumption | intro _ | apply ite_only | apply noteT_only | apply modRck_only | dsimp only | split)
theorem ownHash_only {fr : List Part} {base : State} (o : HashRec) (mout : Part.out ∈ fr) (mhif : Part.hif ∈ fr) (mrck : Part.rck ∈ fr)
    (mbook : Part.book ∈ fr) {s : State} (hk : Only fr base s) : Only fr base (ownHash o s) := by
  unfold ownHash
  with_reducible repeat' (first
    | assumption | intro _ | apply ite_only | apply forS_only | apply compareHash_only | apply modRck_only | dsimp only | split)
theorem shareHash_only {fr : List Part} {base : State} (j : RackJob) (key : Nat) (hash : Nat) (x : Hnd) (mout : Part.out ∈ fr) (mhif :
    Part.hif ∈ fr) (mvnl : Part.vnl ∈ fr) (mrck : Part.rck ∈ fr) (mbook : Part.book ∈ fr) {s : State} (hk : Only fr base s) : Only fr base
    (shareHash j key hash x s) := by
  unfold shareHash
  with_reducible repeat' (first
    | assumption | intro _ | apply ite_only | apply ownHash_only | apply sendTo_only | dsimp only | split)
theorem rackToBuddy_only {fr : List Part} {base : State} (j : RackJob) (mout : Part.out ∈ fr) (mvnl : Part.vnl ∈ fr) (mrck : Part.rck ∈ fr)
    {s : State} (hk : Only fr base s) : Only fr base (rackToBuddy j s) := by
  unfold rackToBuddy
  with_reducible repeat' (first
    | assumption | intro _ | apply ite_only | apply forS_only | apply toBuddy_only | apply modRck_only | dsimp only | split)
theorem copyPass_only {fr : List Part} {base : State} (bad : Option Nat) (mout : Part.out ∈ fr) (mmem : Part.mem ∈ fr) (mhif : Part.hif ∈
    fr) (mpln : Part.pln ∈ fr) (mvnl : Part.vnl ∈ fr) (mstp : Part.stp ∈ fr) (mrck : Part.rck ∈ fr) (merr : Part.err ∈ fr) (mpwr : Part.pwr
    ∈ fr) (mbook : Part.book ∈ fr) {s : State} (hk : Only fr base s) : Only fr base (copyPass bad s) := by
  unfold copyPass
  with_reducible repeat' (first
    | assumption | intro _ | apply ite_only | apply wakeUp_only | apply rackCheck_only | apply checkFail_only | apply modRck_only
    | apply forS_only | apply shareHash_only | apply rackToBuddy_only | apply settleFrees_only | apply pump_only | apply updStall_only
    | apply dropMarks_only | dsimp only | split)
theorem drainDone_only {fr : List Part} {base : State} (bad : Option Nat) (mout : Part.out ∈ fr) (mmem : Part.mem ∈ fr) (mhif : Part.hif ∈
    fr) (mpln : Part.pln ∈ fr) (mstp : Part.stp ∈ fr) (mrck : Part.rck ∈ fr) (merr : Part.err ∈ fr) (mbook : Part.book ∈ fr) {s : State} (hk
    : Only fr base s) : Only fr base (drainDone bad s) := by
  unfold drainDone
  with_reducible repeat' (first
    | assumption | intro _ | apply ite_only | apply rackCheck_only | apply checkFail_only | apply program_only | apply setSlot_only
    | apply modRck_only | apply toHost_only | apply rackEnd_only | apply noteT_only | dsimp only | split)
theorem takeOffer_only {fr : List Part} {base : State} (t : Nat) (m : List Byte) (mout : Part.out ∈ fr) (mhif : Part.hif ∈ fr) (mrck :
    Part.rck ∈ fr) (mbook : Part.book ∈ fr) {s : State} (hk : Only fr base s) : Only fr base (takeOffer t m s) := by
  unfold takeOffer
  with_reducible repeat' (first
    | assumption | intro _ | apply ite_only | apply rackFit_only | apply modTenRack_only | apply modRck_only | apply graftNone_only
    | dsimp only | split)
theorem modGin_only {fr : List Part} {base : State} (k : Nat) (f : Gin → Gin) (mrck : Part.rck ∈ fr) {s : State} (hk : Only fr base s) :
    Only fr base (modGin k f s) := by
  unfold modGin
  with_reducible repeat' (first
    | assumption | intro _ | apply ite_only | apply modRck_only | dsimp only | split)
theorem takeData_only {fr : List Part} {base : State} (b : Nat) (m : List Byte) (mout : Part.out ∈ fr) (mhif : Part.hif ∈ fr) (mvnl :
    Part.vnl ∈ fr) (mrck : Part.rck ∈ fr) (merr : Part.err ∈ fr) (mbook : Part.book ∈ fr) {s : State} (hk : Only fr base s) : Only fr base
    (takeData b m s) := by
  unfold takeData
  with_reducible repeat' (first
    | assumption | intro _ | apply ite_only | apply sendTo_only | apply checkFail_only | apply modGin_only | dsimp only | split)
theorem takeCommit_only {fr : List Part} {base : State} (b : Nat) (m : List Byte) (mout : Part.out ∈ fr) (mvnl : Part.vnl ∈ fr) (mrck :
    Part.rck ∈ fr) {s : State} (hk : Only fr base s) : Only fr base (takeCommit b m s) := by
  unfold takeCommit
  with_reducible repeat' (first
    | assumption | intro _ | apply ite_only | apply sendTo_only | apply modGin_only | dsimp only | split)
theorem takeAck_only {fr : List Part} {base : State} (t : Nat) (m : List Byte) (mout : Part.out ∈ fr) (mhif : Part.hif ∈ fr) (mrck :
    Part.rck ∈ fr) (mbook : Part.book ∈ fr) {s : State} (hk : Only fr base s) : Only fr base (takeAck t m s) := by
  unfold takeAck
  with_reducible repeat' (first
    | assumption | intro _ | apply ite_only | apply modRck_only | apply setGraft_only | apply modTenRack_only | dsimp only | split)
theorem takeHash_only {fr : List Part} {base : State} (t : Nat) (m : List Byte) (mout : Part.out ∈ fr) (mhif : Part.hif ∈ fr) (mrck :
    Part.rck ∈ fr) (mbook : Part.book ∈ fr) {s : State} (hk : Only fr base s) : Only fr base (takeHash t m s) := by
  unfold takeHash
  with_reducible repeat' (first
    | assumption | intro _ | apply ite_only | apply compareHash_only | apply modRck_only | dsimp only | split)
theorem modRest_only {fr : List Part} {base : State} (tag : Nat) (f : Rest → Rest) (mrck : Part.rck ∈ fr) {s : State} (hk : Only fr base s)
    : Only fr base (modRest tag f s) := by
  unfold modRest
  with_reducible repeat' (first
    | assumption | intro _ | apply ite_only | apply modRck_only | dsimp only | split)
theorem restFail_only {fr : List Part} {base : State} (tag : Nat) (status : Nat) (result : Nat) (mout : Part.out ∈ fr) (mmem : Part.mem ∈
    fr) (mhif : Part.hif ∈ fr) (mpln : Part.pln ∈ fr) (mcor : Part.cor ∈ fr) (mcol : Part.col ∈ fr) (mstp : Part.stp ∈ fr) (mrck : Part.rck
    ∈ fr) (mcel : Part.cel ∈ fr) (mtim : Part.tim ∈ fr) (mdbg : Part.dbg ∈ fr) (mbook : Part.book ∈ fr) {s : State} (hk : Only fr base s) :
    Only fr base (restFail tag status result s) := by
  unfold restFail
  with_reducible repeat' (first
    | assumption | intro _ | apply ite_only | apply done_only | apply modRck_only | apply forS_only | apply dropHnd_only | dsimp only
    | split)
theorem restEnd_only {fr : List Part} {base : State} (tag : Nat) (mout : Part.out ∈ fr) (mmem : Part.mem ∈ fr) (mhif : Part.hif ∈ fr) (mpln
    : Part.pln ∈ fr) (mcor : Part.cor ∈ fr) (mcol : Part.col ∈ fr) (mstp : Part.stp ∈ fr) (mrck : Part.rck ∈ fr) (mcel : Part.cel ∈ fr)
    (mtim : Part.tim ∈ fr) (mdbg : Part.dbg ∈ fr) (mbook : Part.book ∈ fr) {s : State} (hk : Only fr base s) : Only fr base (restEnd tag s)
    := by
  unfold restEnd
  with_reducible repeat' (first
    | assumption | intro _ | apply ite_only | apply toHost_only | apply done_only | apply modTenRack_only | apply modRck_only
    | dsimp only | split)
theorem restWrite_only {fr : List Part} {base : State} (tag : Nat) (t : Nat) (h : Nat) (nar : Bool) (size : Nat) (p : Nat) (b : Nat) (bs :
    List Byte) (mmem : Part.mem ∈ fr) (mpln : Part.pln ∈ fr) (mrck : Part.rck ∈ fr) (mpwr : Part.pwr ∈ fr) {s : State} (hk : Only fr base s)
    : Only fr base (restWrite tag t h nar size p b bs s) := by
  unfold restWrite
  with_reducible repeat' (first
    | assumption | intro _ | apply ite_only | apply hWrite_only | dsimp only | split)
theorem askRead_only {fr : List Part} {base : State} (mout : Part.out ∈ fr) (mvnl : Part.vnl ∈ fr) (t z : Nat) (msg : List Byte) {s :
    State} (hk : Only fr base s) (u : State)
    (hu : askRead t z msg s = some u) : Only fr base u := by
  unfold askRead at hu
  split at hu
  · split at hu
    · cases hu; apply sendTo_only <;> assumption
    · cases hu
  · cases hu
theorem askBlocks_only {fr : List Part} {base : State} (mout : Part.out ∈ fr) (mvnl : Part.vnl ∈ fr) (mrck : Part.rck ∈ fr) (tag t n key
    kind src : Nat) (seed : Bool) (l : List (Nat × Nat × Nat)) {s : State} (hk : Only fr base s)
    (u : State) (hu : askBlocks tag t n key kind src seed l s = some u) : Only fr base u := by
  induction l generalizing s with
  | nil => cases hu; exact hk
  | cons x r ih =>
    obtain ⟨z, p, b⟩ := x
    unfold askBlocks at hu
    split at hu
    · next s1 h => exact ih (modRest_only _ _ mrck (askRead_only mout mvnl _ _ _ hk _ h)) hu
    · cases hu
/-- A fold over states that may be absent keeps what each step keeps. -/
theorem foldOOnly {fr : List Part} {base : State} {α : Type} (l : List α) (f : Option State → α → Option State)
    (hf : ∀ (y : Option State) (e : α), (∀ t, y = some t → Only fr base t) → ∀ t, f y e = some t → Only fr base t) (i : Option State)
    (hi : ∀ t, i = some t → Only fr base t) {u : State} (hu : l.foldl f i = some u) : Only fr base u := by
  induction l generalizing i with
  | nil => exact hi _ hu
  | cons x r ih => exact ih _ (hf i x hi) hu
theorem phase2_only {fr : List Part} {base : State} (tag : Nat) (mout : Part.out ∈ fr) (mmem : Part.mem ∈ fr) (mhif : Part.hif ∈ fr)
    (mpln : Part.pln ∈ fr) (mcor : Part.cor ∈ fr) (mvnl : Part.vnl ∈ fr) (mcol : Part.col ∈ fr) (mstp : Part.stp ∈ fr) (mrck : Part.rck ∈
    fr) (mcel : Part.cel ∈ fr) (mtim : Part.tim ∈ fr) (mdbg : Part.dbg ∈ fr) (mbook : Part.book ∈ fr) {s : State} (hk : Only fr base s) :
    Only fr base (phase2 tag s) := by
  unfold phase2
  split
  · exact hk
  · next x hx =>
    dsimp only
    have h0 : Only fr base (serveOwed x.tenant (modTenRack x.tenant (fun y => { y with phase1 := some x.step })
      (modRest tag (fun y => { y with phase := 2 }) s))) := by
      apply serveOwed_only <;> try assumption
      apply modTenRack_only <;> try assumption
      exact modRest_only _ _ mrck hk
    generalize serveOwed x.tenant _ = s0 at h0 ⊢
    split
    · apply restFail_only <;> assumption
    · next s1 h =>
      have h1 : Only fr base s1 := by
        refine foldOOnly _ _ (fun y e hy t ht => ?_) _ (fun t ht => ?_) h
        · split at ht
          · next hy' hh => cases hy'; exact askBlocks_only mout mvnl mrck _ _ _ _ _ _ _ _ (hy _ rfl) _ ht
          · exact hy _ ht
        · cases ht; exact h0
      split
      · refine ite_only ?_ h1
        apply restEnd_only <;> try assumption
        exact modRest_only _ _ mrck h1
      · exact h1
theorem createAll_only {fr : List Part} {base : State} (mpln : Part.pln ∈ fr) (t kx : Nat) (l : List (List Byte)) (m : List (Nat × Nat))
    (c : List Nat) {s : State}
    (hk : Only fr base s) (m' : List (Nat × Nat)) (c' : List Nat) (u : State)
    (hu : createAll t kx l m c s = .inr (some (m', c', u))) : Only fr base u := by
  induction l generalizing m c s with
  | nil => cases hu; exact hk
  | cons e r ih =>
    unfold createAll at hu
    dsimp only at hu
    split at hu
    · exact ih _ _ hk hu
    · split at hu
      · cases hu
      · split at hu
        · next s1 h => exact ih _ _ (createPages_only mpln _ _ _ _ _ _ _ (modPln_only _ mpln hk) _ h) hu
        · cases hu
theorem restoreBegin_only {fr : List Part} {base : State} (tag : Nat) (local_ : Option Slot) (mout : Part.out ∈ fr) (mmem : Part.mem ∈
    fr) (mhif : Part.hif ∈ fr) (mpln : Part.pln ∈ fr) (mcor : Part.cor ∈ fr) (mvnl : Part.vnl ∈ fr) (mcol : Part.col ∈ fr) (mstp :
    Part.stp ∈ fr) (mrck : Part.rck ∈ fr) (mcel : Part.cel ∈ fr) (mpwr : Part.pwr ∈ fr) (mtim : Part.tim ∈ fr) (mdbg : Part.dbg ∈ fr)
    (mbook : Part.book ∈ fr) {s : State} (hk : Only fr base s) : Only fr base (restoreBegin tag local_ s) := by
  unfold restoreBegin
  split
  · exact hk
  · next x hx =>
    dsimp only
    split
    · apply restFail_only <;> assumption
    · split
      · apply done_only <;> try assumption
        exact modRck_only _ mrck hk
      · exact startDemotion_only _ mpln hk
      · next m c s1 h =>
        have h1 : Only fr base s1 := createAll_only mpln _ _ _ _ _ hk _ _ _ h
        have h2 : Only fr base (modRest tag (fun y => { y with map := m, created := c, phase := 1 }) s1) := modRest_only _ _ mrck h1
        generalize modRest tag (fun y => { y with map := m, created := c, phase := 1 }) s1 = s2 at h2 ⊢
        split
        · apply phase2_only <;> try assumption
          refine forS_only _ _ (fun y z hz => ?_) h2
          split
          · apply restWrite_only <;> assumption
          · exact hz
        · split
          · apply restFail_only <;> assumption
          · next s3 h =>
            have h3 : Only fr base s3 := by
              refine foldOOnly _ _ (fun y e hy t ht => ?_) _ (fun t ht => ?_) h
              · split at ht
                · exact askBlocks_only mout mvnl mrck _ _ _ _ _ _ _ _ (hy _ rfl) _ ht
                · cases ht
              · cases ht; exact h2
            split
            · refine ite_only ?_ h3
              apply phase2_only <;> assumption
            · exact h3
theorem seedBegin_only {fr : List Part} {base : State} (tag : Nat) (mout : Part.out ∈ fr) (mmem : Part.mem ∈ fr) (mhif : Part.hif ∈ fr)
    (mpln : Part.pln ∈ fr) (mcor : Part.cor ∈ fr) (mvnl : Part.vnl ∈ fr) (mcol : Part.col ∈ fr) (mstp : Part.stp ∈ fr) (mrck : Part.rck ∈
    fr) (mcel : Part.cel ∈ fr) (mtim : Part.tim ∈ fr) (mdbg : Part.dbg ∈ fr) (mbook : Part.book ∈ fr) {s : State} (hk : Only fr base s) :
    Only fr base (seedBegin tag s) := by
  unfold seedBegin
  split
  · next x l hx hl =>
    dsimp only
    split
    · apply restFail_only <;> assumption
    · refine ite_only ?_ (ite_only ?_ ?_)
      · apply restFail_only <;> assumption
      · apply restFail_only <;> assumption
      · split
        · apply done_only <;> try assumption
          exact modRck_only _ mrck hk
        · exact startDemotion_only _ mpln hk
        · next m c s1 h =>
          have h1 : Only fr base s1 := createAll_only mpln _ _ _ _ _ hk _ _ _ h
          have h2 : Only fr base (modRest tag (fun y => { y with map := m, created := c, phase := 1 }) s1) := modRest_only _ _ mrck h1
          generalize modRest tag (fun y => { y with map := m, created := c, phase := 1 }) s1 = s2 at h2 ⊢
          split
          · apply restFail_only <;> assumption
          · next s3 h =>
            have h3 : Only fr base s3 := by
              refine foldOOnly _ _ (fun y e hy t ht => ?_) _ (fun t ht => ?_) h
              · split at ht
                · exact askBlocks_only mout mvnl mrck _ _ _ _ _ _ _ _ (hy _ rfl) _ ht
                · cases ht
              · cases ht; exact h2
            split
            · refine ite_only ?_ h3
              apply restEnd_only <;> try assumption
              exact modRest_only _ _ mrck h3
            · exact h3
  · exact hk
theorem restGate_only {fr : List Part} {base : State} (tag : Nat) (t : Nat) (f : State → State) (mout : Part.out ∈ fr) (mmem : Part.mem ∈
    fr) (mhif : Part.hif ∈ fr) (mpln : Part.pln ∈ fr) (mcor : Part.cor ∈ fr) (mcol : Part.col ∈ fr) (mstp : Part.stp ∈ fr) (mrck : Part.rck
    ∈ fr) (mcel : Part.cel ∈ fr) (mtim : Part.tim ∈ fr) (mdbg : Part.dbg ∈ fr) (mbook : Part.book ∈ fr) (hf : ∀ x, Only fr base x → Only fr
    base (f x)) {s : State} (hk : Only fr base s) : Only fr base (restGate tag t f s) := by
  unfold restGate
  with_reducible repeat' (first
    | assumption | intro _ | apply ite_only | apply done_only | apply modLive_only | apply hf | dsimp only | split)
theorem askEntries_only {fr : List Part} {base : State} (tag : Nat) (x : Rest) (mout : Part.out ∈ fr) (mmem : Part.mem ∈ fr) (mhif :
    Part.hif ∈ fr) (mpln : Part.pln ∈ fr) (mcor : Part.cor ∈ fr) (mvnl : Part.vnl ∈ fr) (mcol : Part.col ∈ fr) (mstp : Part.stp ∈ fr)
    (mrck : Part.rck ∈ fr) (mcel : Part.cel ∈ fr) (mtim : Part.tim ∈ fr) (mdbg : Part.dbg ∈ fr) (mbook : Part.book ∈ fr) {s : State} (hk
    : Only fr base s) : Only fr base (askEntries tag x s) := by
  unfold askEntries
  dsimp only
  split
  · next h => exact askRead_only mout mvnl _ _ _ (modRck_only _ mrck hk) _ h
  · apply restFail_only <;> try assumption
    exact modRck_only _ mrck hk
theorem restoreGo_only {fr : List Part} {base : State} (tag : Nat) (l : Live) (mout : Part.out ∈ fr) (mmem : Part.mem ∈ fr) (mhif : Part.hif
    ∈ fr) (mpln : Part.pln ∈ fr) (mcor : Part.cor ∈ fr) (mvnl : Part.vnl ∈ fr) (mcol : Part.col ∈ fr) (mstp : Part.stp ∈ fr) (mrck :
    Part.rck ∈ fr) (mcel : Part.cel ∈ fr) (mpwr : Part.pwr ∈ fr) (mtim : Part.tim ∈ fr) (mdbg : Part.dbg ∈ fr) (mbook : Part.book ∈ fr) {s :
    State} (hk : Only fr base s) : Only fr base (restoreGo tag l s) := by
  unfold restoreGo
  with_reducible repeat' (first
    | assumption | intro _ | apply ite_only | apply restoreBegin_only | apply modRck_only | apply done_only | apply askEntries_only
    | dsimp only | split)
theorem seedGo_only {fr : List Part} {base : State} (tag : Nat) (l : Live) (mout : Part.out ∈ fr) (mmem : Part.mem ∈ fr) (mhif : Part.hif ∈
    fr) (mpln : Part.pln ∈ fr) (mcor : Part.cor ∈ fr) (mvnl : Part.vnl ∈ fr) (mcol : Part.col ∈ fr) (mstp : Part.stp ∈ fr) (mrck : Part.rck
    ∈ fr) (mcel : Part.cel ∈ fr) (mtim : Part.tim ∈ fr) (mdbg : Part.dbg ∈ fr) (mbook : Part.book ∈ fr) {s : State} (hk : Only fr base s) :
    Only fr base (seedGo tag l s) := by
  unfold seedGo
  with_reducible repeat' (first
    | assumption | intro _ | apply ite_only | apply askEntries_only | dsimp only | split)
theorem restAgain_only {fr : List Part} {base : State} (tag : Nat) (l : Live) (go : Nat → Live → State → State) (mout : Part.out ∈ fr) (mmem
    : Part.mem ∈ fr) (mhif : Part.hif ∈ fr) (mpln : Part.pln ∈ fr) (mcor : Part.cor ∈ fr) (mvnl : Part.vnl ∈ fr) (mcol : Part.col ∈ fr)
    (mstp : Part.stp ∈ fr) (mrck : Part.rck ∈ fr) (mcel : Part.cel ∈ fr) (mpwr : Part.pwr ∈ fr) (mtim : Part.tim ∈ fr) (mdbg : Part.dbg ∈
    fr) (mbook : Part.book ∈ fr) (hgo : ∀ y0 y1 x, Only fr base x → Only fr base (go y0 y1 x)) {s : State} (hk : Only fr base s) : Only fr
    base (restAgain tag l go s) := by
  unfold restAgain
  with_reducible repeat' (first
    | assumption | intro _ | apply ite_only | apply restGate_only | apply restEnd_only | apply seedBegin_only | apply restoreBegin_only
    | apply hgo | dsimp only | split)
theorem restCmd_only {fr : List Part} {base : State} (tag : Nat) (op : Nat) (go : Nat → Live → State → State) (mout : Part.out ∈ fr) (mmem :
    Part.mem ∈ fr) (mhif : Part.hif ∈ fr) (mpln : Part.pln ∈ fr) (mcor : Part.cor ∈ fr) (mvnl : Part.vnl ∈ fr) (mcol : Part.col ∈ fr) (mstp
    : Part.stp ∈ fr) (mrck : Part.rck ∈ fr) (mcel : Part.cel ∈ fr) (mpwr : Part.pwr ∈ fr) (mtim : Part.tim ∈ fr) (mdbg : Part.dbg ∈ fr)
    (mbook : Part.book ∈ fr) (hgo : ∀ y0 y1 x, Only fr base x → Only fr base (go y0 y1 x)) {s : State} (hk : Only fr base s) : Only fr base
    (restCmd tag op go s) := by
  unfold restCmd
  with_reducible repeat' (first
    | assumption | intro _ | apply ite_only | apply restAgain_only | apply startDesc_only | apply restGate_only | apply hgo | dsimp only
    | split)
theorem takeRead_only {fr : List Part} {base : State} (t : Nat) (m : List Byte) (mout : Part.out ∈ fr) (mmem : Part.mem ∈ fr) (mhif :
    Part.hif ∈ fr) (mpln : Part.pln ∈ fr) (mcor : Part.cor ∈ fr) (mvnl : Part.vnl ∈ fr) (mcol : Part.col ∈ fr) (mstp : Part.stp ∈ fr) (mrck
    : Part.rck ∈ fr) (mcel : Part.cel ∈ fr) (merr : Part.err ∈ fr) (mpwr : Part.pwr ∈ fr) (mtim : Part.tim ∈ fr) (mdbg : Part.dbg ∈ fr)
    (mbook : Part.book ∈ fr) {s : State} (hk : Only fr base s) : Only fr base (takeRead t m s) := by
  unfold takeRead
  with_reducible repeat' (first
    | assumption | intro _ | apply ite_only | apply modRest_only | apply restFail_only | apply seedBegin_only | apply restoreBegin_only
    | apply restWrite_only | apply phase2_only | apply restEnd_only | apply checkFail_only | dsimp only | split)

end Sys2Proof.Machine
end

