-- ==== Sys2Proof/Laws/OnlyColl.lean ====
section
/-!
SUPPORT. Laws/OnlyColl.lean: what the operations of Machine/Coll.lean leave as it was.
-/
namespace Sys2Proof.Machine

set_option linter.unusedTactic false
set_option linter.unreachableTactic false
set_option linter.unusedVariables false

theorem sendElems_only {fr : List Part} {base : State} (x : Coll) (msg : Nat) (kind : Nat) (dest : Nat) (first : Nat) (es : List (List
    Byte)) (mout : Part.out ∈ fr) (mvnl : Part.vnl ∈ fr) {s : State} (hk : Only fr base s) : Only fr base (sendElems x msg kind dest first
    es s) := by
  unfold sendElems
  with_reducible repeat' (first
    | assumption | intro _ | apply ite_only | apply forS_only | apply sendTo_only | dsimp only | split)
theorem gatherOut_only {fr : List Part} {base : State} (x : Coll) (kind : Nat) (first : Nat) (total : Nat) (lo : Nat) (es : List (List
    Byte)) (mout : Part.out ∈ fr) (mvnl : Part.vnl ∈ fr) {s : State} (hk : Only fr base s) : Only fr base (gatherOut x kind first total lo
    es s) := by
  unfold gatherOut
  with_reducible repeat' (first
    | assumption | intro _ | apply ite_only | apply forS_only | apply sendElems_only | dsimp only | split)
theorem modColl_only {fr : List Part} {base : State} (tag : Nat) (f : Coll → Coll) (mcol : Part.col ∈ fr) {s : State} (hk : Only fr base s)
    : Only fr base (modColl tag f s) := by
  unfold modColl
  with_reducible repeat' (first
    | assumption | intro _ | apply ite_only | apply modCol_only | dsimp only | split)
theorem writeResults_only {fr : List Part} {base : State} (x : Coll) (first : Nat) (es : List (List Byte)) (mout : Part.out ∈ fr) (mmem :
    Part.mem ∈ fr) (mhif : Part.hif ∈ fr) (mpln : Part.pln ∈ fr) (mcor : Part.cor ∈ fr) (mcol : Part.col ∈ fr) (mstp : Part.stp ∈ fr) (mrck
    : Part.rck ∈ fr) (mcel : Part.cel ∈ fr) (merr : Part.err ∈ fr) (mpwr : Part.pwr ∈ fr) (mdbg : Part.dbg ∈ fr) (mbook : Part.book ∈ fr) {s
    : State} (hk : Only fr base s) : Only fr base (writeResults x first es s) := by
  unfold writeResults
  with_reducible repeat' (first
    | assumption | intro _ | apply ite_only | apply poisonFault_only | apply modColl_only | apply hWrite_only | dsimp only | split)
theorem addResults_only {fr : List Part} {base : State} (tag : Nat) (first : Nat) (es : List (List Byte)) (mout : Part.out ∈ fr) (mmem :
    Part.mem ∈ fr) (mhif : Part.hif ∈ fr) (mpln : Part.pln ∈ fr) (mcor : Part.cor ∈ fr) (mcol : Part.col ∈ fr) (mstp : Part.stp ∈ fr) (mrck
    : Part.rck ∈ fr) (mcel : Part.cel ∈ fr) (merr : Part.err ∈ fr) (mpwr : Part.pwr ∈ fr) (mdbg : Part.dbg ∈ fr) (mbook : Part.book ∈ fr) {s
    : State} (hk : Only fr base s) : Only fr base (addResults tag first es s) := by
  unfold addResults
  with_reducible repeat' (first
    | assumption | intro _ | apply ite_only | apply writeResults_only | apply modColl_only | dsimp only | split)
theorem roundRange_only {fr : List Part} {base : State} (tag : Nat) (lo : Nat) (accs : List (List Byte × AFlags)) (mout : Part.out ∈ fr)
    (mmem : Part.mem ∈ fr) (mhif : Part.hif ∈ fr) (mpln : Part.pln ∈ fr) (mcor : Part.cor ∈ fr) (mcol : Part.col ∈ fr) (mstp : Part.stp ∈
    fr) (mrck : Part.rck ∈ fr) (mcel : Part.cel ∈ fr) (merr : Part.err ∈ fr) (mpwr : Part.pwr ∈ fr) (mdbg : Part.dbg ∈ fr) (mbook :
    Part.book ∈ fr) {s : State} (hk : Only fr base s) : Only fr base (roundRange tag lo accs s).1 := by
  unfold roundRange
  with_reducible repeat' (first
    | assumption | intro _ | apply ite_only | apply modColl_only | apply forS_only | apply modCol_only | apply addResults_only
    | apply foldl_only | apply foldl2_only | apply ite2_only | dsimp only | split)
theorem toShares_only {fr : List Part} {base : State} (x : Coll) (lo : Nat) (es : List (List Byte)) (mout : Part.out ∈ fr) (mvnl : Part.vnl
    ∈ fr) {s : State} (hk : Only fr base s) : Only fr base (toShares x lo es s) := by
  unfold toShares
  with_reducible repeat' (first
    | assumption | intro _ | apply ite_only | apply forS_only | apply sendElems_only | dsimp only | split)
theorem endStage1_only {fr : List Part} {base : State} (tag : Nat) (q : Nat) (lo : Nat) (hi : Nat) (mout : Part.out ∈ fr) (mmem : Part.mem ∈
    fr) (mhif : Part.hif ∈ fr) (mpln : Part.pln ∈ fr) (mcor : Part.cor ∈ fr) (mvnl : Part.vnl ∈ fr) (mcol : Part.col ∈ fr) (mstp : Part.stp
    ∈ fr) (mrck : Part.rck ∈ fr) (mcel : Part.cel ∈ fr) (merr : Part.err ∈ fr) (mpwr : Part.pwr ∈ fr) (mdbg : Part.dbg ∈ fr) (mbook :
    Part.book ∈ fr) {s : State} (hk : Only fr base s) : Only fr base (endStage1 tag q lo hi s) := by
  unfold endStage1
  with_reducible repeat' (first
    | assumption | intro _ | apply ite_only | apply modColl_only | apply roundRange_only | apply toShares_only | apply forS_only
    | apply sendElems_only | dsimp only | split)
theorem endStage2_only {fr : List Part} {base : State} (tag : Nat) (q : Nat) (lo : Nat) (hi : Nat) (mout : Part.out ∈ fr) (mmem : Part.mem ∈
    fr) (mhif : Part.hif ∈ fr) (mpln : Part.pln ∈ fr) (mcor : Part.cor ∈ fr) (mvnl : Part.vnl ∈ fr) (mcol : Part.col ∈ fr) (mstp : Part.stp
    ∈ fr) (mrck : Part.rck ∈ fr) (mcel : Part.cel ∈ fr) (merr : Part.err ∈ fr) (mpwr : Part.pwr ∈ fr) (mdbg : Part.dbg ∈ fr) (mbook :
    Part.book ∈ fr) {s : State} (hk : Only fr base s) : Only fr base (endStage2 tag q lo hi s) := by
  unfold endStage2
  with_reducible repeat' (first
    | assumption | intro _ | apply ite_only | apply roundRange_only | apply modColl_only | apply forS_only | apply sendElems_only
    | apply toShares_only | dsimp only | split)
theorem endStage3_only {fr : List Part} {base : State} (tag : Nat) (q : Nat) (lo : Nat) (hi : Nat) (mout : Part.out ∈ fr) (mvnl : Part.vnl ∈
    fr) (mcol : Part.col ∈ fr) {s : State} (hk : Only fr base s) : Only fr base (endStage3 tag q lo hi s) := by
  unfold endStage3
  with_reducible repeat' (first
    | assumption | intro _ | apply ite_only | apply gatherOut_only | apply modColl_only | dsimp only | split)
theorem runPiece_only {fr : List Part} {base : State} (tag : Nat) (p : Nat × Nat × Nat) (mout : Part.out ∈ fr) (mmem : Part.mem ∈ fr) (mhif
    : Part.hif ∈ fr) (mpln : Part.pln ∈ fr) (mcor : Part.cor ∈ fr) (mvnl : Part.vnl ∈ fr) (mcol : Part.col ∈ fr) (mstp : Part.stp ∈ fr)
    (mrck : Part.rck ∈ fr) (mcel : Part.cel ∈ fr) (merr : Part.err ∈ fr) (mpwr : Part.pwr ∈ fr) (mdbg : Part.dbg ∈ fr) (mbook : Part.book ∈
    fr) {s : State} (hk : Only fr base s) : Only fr base (runPiece tag p s) := by
  unfold runPiece
  with_reducible repeat' (first
    | assumption | intro _ | apply ite_only | apply endStage1_only | apply endStage2_only | apply endStage3_only | dsimp only | split)
theorem collRun_only {fr : List Part} {base : State} (tag : Nat) (mout : Part.out ∈ fr) (mmem : Part.mem ∈ fr) (mhif : Part.hif ∈ fr) (mpln
    : Part.pln ∈ fr) (mcor : Part.cor ∈ fr) (mvnl : Part.vnl ∈ fr) (mcol : Part.col ∈ fr) (mstp : Part.stp ∈ fr) (mrck : Part.rck ∈ fr)
    (mcel : Part.cel ∈ fr) (merr : Part.err ∈ fr) (mpwr : Part.pwr ∈ fr) (mdbg : Part.dbg ∈ fr) (mbook : Part.book ∈ fr) {s : State} (hk :
    Only fr base s) : Only fr base (collRun tag s) := by
  unfold collRun
  with_reducible repeat' (first
    | assumption | intro _ | apply ite_only | apply forS_only | apply runPiece_only | dsimp only | split)
theorem countIn_only {fr : List Part} {base : State} (x : Coll) (first : Nat) (sizes : List Nat) (mcol : Part.col ∈ fr) {s : State} (hk :
    Only fr base s) : Only fr base (countIn x first sizes s) := by
  unfold countIn
  with_reducible repeat' (first
    | assumption | intro _ | apply ite_only | apply forS_only | apply modCol_only | dsimp only | split)
theorem collEnd_only {fr : List Part} {base : State} (tag : Nat) (status : Nat) (detail : Nat) (result : Nat) (mout : Part.out ∈ fr) (mmem :
    Part.mem ∈ fr) (mhif : Part.hif ∈ fr) (mpln : Part.pln ∈ fr) (mcor : Part.cor ∈ fr) (mcol : Part.col ∈ fr) (mstp : Part.stp ∈ fr) (mrck
    : Part.rck ∈ fr) (mcel : Part.cel ∈ fr) (mtim : Part.tim ∈ fr) (mdbg : Part.dbg ∈ fr) (mbook : Part.book ∈ fr) {s : State} (hk : Only fr
    base s) : Only fr base (collEnd tag status detail result s) := by
  unfold collEnd
  with_reducible repeat' (first
    | assumption | intro _ | apply ite_only | apply done_only | apply modCol_only | dsimp only | split)
theorem barrierRun_only {fr : List Part} {base : State} (tag : Nat) (mout : Part.out ∈ fr) (mmem : Part.mem ∈ fr) (mhif : Part.hif ∈ fr)
    (mpln : Part.pln ∈ fr) (mcor : Part.cor ∈ fr) (mvnl : Part.vnl ∈ fr) (mcol : Part.col ∈ fr) (mstp : Part.stp ∈ fr) (mrck : Part.rck ∈
    fr) (mcel : Part.cel ∈ fr) (mtim : Part.tim ∈ fr) (mdbg : Part.dbg ∈ fr) (mbook : Part.book ∈ fr) {s : State} (hk : Only fr base s) :
    Only fr base (barrierRun tag s) := by
  unfold barrierRun
  with_reducible repeat' (first
    | assumption | intro _ | apply ite_only | apply collEnd_only | apply forS_only | apply sendTo_only | dsimp only | split)
theorem collEnter_only {fr : List Part} {base : State} (x : Coll) (m : List Byte) (mout : Part.out ∈ fr) (mmem : Part.mem ∈ fr) (mhif :
    Part.hif ∈ fr) (mpln : Part.pln ∈ fr) (mcor : Part.cor ∈ fr) (mvnl : Part.vnl ∈ fr) (mcol : Part.col ∈ fr) (mstp : Part.stp ∈ fr) (mrck
    : Part.rck ∈ fr) (mcel : Part.cel ∈ fr) (merr : Part.err ∈ fr) (mpwr : Part.pwr ∈ fr) (mtim : Part.tim ∈ fr) (mdbg : Part.dbg ∈ fr)
    (mbook : Part.book ∈ fr) {s : State} (hk : Only fr base s) : Only fr base (collEnter x m s) := by
  unfold collEnter
  with_reducible repeat' (first
    | assumption | intro _ | apply ite_only | apply whenS_only | apply wakeUp_only | apply collRun_only | apply modColl_only
    | apply countIn_only | apply addResults_only | apply forS_only | apply sendElems_only | apply barrierRun_only | apply collEnd_only
    | dsimp only | split)
theorem linkFault_only {fr : List Part} {base : State} (t : Nat) (mout : Part.out ∈ fr) (mmem : Part.mem ∈ fr) (mhif : Part.hif ∈ fr) (mpln
    : Part.pln ∈ fr) (mcor : Part.cor ∈ fr) (mstp : Part.stp ∈ fr) (mcel : Part.cel ∈ fr) (merr : Part.err ∈ fr) (mpwr : Part.pwr ∈ fr)
    (mdbg : Part.dbg ∈ fr) (mbook : Part.book ∈ fr) {s : State} (hk : Only fr base s) : Only fr base (linkFault t s) := by
  unfold linkFault
  with_reducible repeat' (first
    | assumption | intro _ | apply ite_only | apply faultReport_only | dsimp only | split)
theorem collTake_only {fr : List Part} {base : State} (b : Nat) (m : List Byte) (mout : Part.out ∈ fr) (mmem : Part.mem ∈ fr) (mhif :
    Part.hif ∈ fr) (mpln : Part.pln ∈ fr) (mcor : Part.cor ∈ fr) (mvnl : Part.vnl ∈ fr) (mcol : Part.col ∈ fr) (mstp : Part.stp ∈ fr) (mrck
    : Part.rck ∈ fr) (mcel : Part.cel ∈ fr) (merr : Part.err ∈ fr) (mpwr : Part.pwr ∈ fr) (mtim : Part.tim ∈ fr) (mdbg : Part.dbg ∈ fr)
    (mbook : Part.book ∈ fr) {s : State} (hk : Only fr base s) : Only fr base (collTake b m s) := by
  unfold collTake
  with_reducible repeat' (first
    | assumption | intro _ | apply ite_only | apply modCol_only | apply linkFault_only | apply collEnd_only | apply collEnter_only
    | dsimp only | split)
theorem collArrive_only {fr : List Part} {base : State} (b : Nat) (m : List Byte) (mout : Part.out ∈ fr) (mmem : Part.mem ∈ fr) (mhif :
    Part.hif ∈ fr) (mpln : Part.pln ∈ fr) (mcor : Part.cor ∈ fr) (mvnl : Part.vnl ∈ fr) (mcol : Part.col ∈ fr) (mstp : Part.stp ∈ fr) (mrck
    : Part.rck ∈ fr) (mcel : Part.cel ∈ fr) (merr : Part.err ∈ fr) (mpwr : Part.pwr ∈ fr) (mtim : Part.tim ∈ fr) (mdbg : Part.dbg ∈ fr)
    (mbook : Part.book ∈ fr) {s : State} (hk : Only fr base s) : Only fr base (collArrive b m s) := by
  unfold collArrive
  with_reducible repeat' (first
    | assumption | intro _ | apply ite_only | apply collTake_only | apply modCol_only | dsimp only | split)
theorem unparkOnce_only {fr : List Part} {base : State} (mout : Part.out ∈ fr) (mmem : Part.mem ∈ fr) (mhif : Part.hif ∈ fr) (mpln :
    Part.pln ∈ fr) (mcor : Part.cor ∈ fr) (mvnl : Part.vnl ∈ fr) (mcol : Part.col ∈ fr) (mstp : Part.stp ∈ fr) (mrck : Part.rck ∈ fr) (mcel
    : Part.cel ∈ fr) (merr : Part.err ∈ fr) (mpwr : Part.pwr ∈ fr) (mtim : Part.tim ∈ fr) (mdbg : Part.dbg ∈ fr) (mbook : Part.book ∈ fr) {s
    : State} (hk : Only fr base s) : Only fr base (unparkOnce s) := by
  unfold unparkOnce
  with_reducible repeat' (first
    | assumption | intro _ | apply ite_only | apply forS_only | apply collTake_only | apply modCol_only | dsimp only | split)
theorem unpark_only {fr : List Part} {base : State} (mout : Part.out ∈ fr) (mmem : Part.mem ∈ fr) (mhif : Part.hif ∈ fr) (mpln : Part.pln ∈
    fr) (mcor : Part.cor ∈ fr) (mvnl : Part.vnl ∈ fr) (mcol : Part.col ∈ fr) (mstp : Part.stp ∈ fr) (mrck : Part.rck ∈ fr) (mcel : Part.cel
    ∈ fr) (merr : Part.err ∈ fr) (mpwr : Part.pwr ∈ fr) (mtim : Part.tim ∈ fr) (mdbg : Part.dbg ∈ fr) (mbook : Part.book ∈ fr) {s : State}
    (hk : Only fr base s) : Only fr base (unpark s) := by
  unfold unpark
  with_reducible repeat' (first
    | assumption | intro _ | apply ite_only | apply forS_only | apply unparkOnce_only | dsimp only | split)
theorem collMsg_only {fr : List Part} {base : State} (i : Nat) (msg : Nat) (mout : Part.out ∈ fr) (mmem : Part.mem ∈ fr) (mhif : Part.hif ∈
    fr) (mpln : Part.pln ∈ fr) (mcor : Part.cor ∈ fr) (mvnl : Part.vnl ∈ fr) (mcol : Part.col ∈ fr) (mstp : Part.stp ∈ fr) (mrck : Part.rck
    ∈ fr) (mcel : Part.cel ∈ fr) (merr : Part.err ∈ fr) (mpwr : Part.pwr ∈ fr) (mtim : Part.tim ∈ fr) (mdbg : Part.dbg ∈ fr) (mbook :
    Part.book ∈ fr) {s : State} (hk : Only fr base s) : Only fr base (collMsg i msg s) := by
  unfold collMsg
  with_reducible repeat' (first
    | assumption | intro _ | apply ite_only | apply unpark_only | apply collArrive_only | apply dropInbox_only | dsimp only | split)
theorem collFirst_only {fr : List Part} {base : State} (tag : Nat) (mout : Part.out ∈ fr) (mmem : Part.mem ∈ fr) (mhif : Part.hif ∈ fr)
    (mpln : Part.pln ∈ fr) (mcor : Part.cor ∈ fr) (mvnl : Part.vnl ∈ fr) (mcol : Part.col ∈ fr) (mstp : Part.stp ∈ fr) (mrck : Part.rck ∈
    fr) (mcel : Part.cel ∈ fr) (merr : Part.err ∈ fr) (mpwr : Part.pwr ∈ fr) (mtim : Part.tim ∈ fr) (mdbg : Part.dbg ∈ fr) (mbook :
    Part.book ∈ fr) {s : State} (hk : Only fr base s) : Only fr base (collFirst tag s) := by
  unfold collFirst
  with_reducible repeat' (first
    | assumption | intro _ | apply ite_only | apply barrierRun_only | apply modColl_only | apply sendTo_only | apply collRun_only
    | apply forS_only | apply sendElems_only | apply addResults_only | apply gatherOut_only | dsimp only | split)
theorem collGo_only {fr : List Part} {base : State} (tag : Nat) (mout : Part.out ∈ fr) (mmem : Part.mem ∈ fr) (mhif : Part.hif ∈ fr) (mpln :
    Part.pln ∈ fr) (mcor : Part.cor ∈ fr) (mvnl : Part.vnl ∈ fr) (mcol : Part.col ∈ fr) (mstp : Part.stp ∈ fr) (mrck : Part.rck ∈ fr) (mcel
    : Part.cel ∈ fr) (merr : Part.err ∈ fr) (mpwr : Part.pwr ∈ fr) (mtim : Part.tim ∈ fr) (mdbg : Part.dbg ∈ fr) (mbook : Part.book ∈ fr) {s
    : State} (hk : Only fr base s) : Only fr base (collGo tag s) := by
  unfold collGo
  with_reducible repeat' (first
    | assumption | intro _ | apply ite_only | apply modLive_only | apply whenS_only | apply wakeUp_only | apply promoteRange_only
    | apply poisonFault_only | apply unpark_only | apply collFirst_only | apply modColl_only | dsimp only | split)
theorem collNew_only {fr : List Part} {base : State} (tag : Nat) (op : Nat) (mout : Part.out ∈ fr) (mmem : Part.mem ∈ fr) (mhif : Part.hif ∈
    fr) (mpln : Part.pln ∈ fr) (mcor : Part.cor ∈ fr) (mvnl : Part.vnl ∈ fr) (mcol : Part.col ∈ fr) (mstp : Part.stp ∈ fr) (mrck : Part.rck
    ∈ fr) (mcel : Part.cel ∈ fr) (merr : Part.err ∈ fr) (mpwr : Part.pwr ∈ fr) (mtim : Part.tim ∈ fr) (mdbg : Part.dbg ∈ fr) (mbook :
    Part.book ∈ fr) {s : State} (hk : Only fr base s) : Only fr base (collNew tag op s) := by
  unfold collNew
  with_reducible repeat' (first
    | assumption | intro _ | apply ite_only | apply collGo_only | apply modCol_only | dsimp only | split)
theorem collStart_only {fr : List Part} {base : State} (tag : Nat) (op : Nat) (mout : Part.out ∈ fr) (mmem : Part.mem ∈ fr) (mhif : Part.hif
    ∈ fr) (mpln : Part.pln ∈ fr) (mcor : Part.cor ∈ fr) (mvnl : Part.vnl ∈ fr) (mcol : Part.col ∈ fr) (mstp : Part.stp ∈ fr) (mrck :
    Part.rck ∈ fr) (mcel : Part.cel ∈ fr) (merr : Part.err ∈ fr) (mpwr : Part.pwr ∈ fr) (mtim : Part.tim ∈ fr) (mdbg : Part.dbg ∈ fr) (mbook
    : Part.book ∈ fr) {s : State} (hk : Only fr base s) : Only fr base (collStart tag op s) := by
  unfold collStart
  with_reducible repeat' (first
    | assumption | intro _ | apply ite_only | apply collGo_only | apply startDesc_only | apply done_only | apply collNew_only
    | dsimp only | split)
theorem collDone_only {fr : List Part} {base : State} (tag : Nat) (mout : Part.out ∈ fr) (mmem : Part.mem ∈ fr) (mhif : Part.hif ∈ fr) (mpln
    : Part.pln ∈ fr) (mcor : Part.cor ∈ fr) (mcol : Part.col ∈ fr) (mstp : Part.stp ∈ fr) (mrck : Part.rck ∈ fr) (mcel : Part.cel ∈ fr)
    (mtim : Part.tim ∈ fr) (mdbg : Part.dbg ∈ fr) (mbook : Part.book ∈ fr) {s : State} (hk : Only fr base s) : Only fr base (collDone tag s)
    := by
  unfold collDone
  with_reducible repeat' (first
    | assumption | intro _ | apply ite_only | apply collEnd_only | dsimp only | split)

end Sys2Proof.Machine
end

