-- ==== Sys2Proof/Laws/OnlyHost.lean ====
section
/-!
SUPPORT. Laws/OnlyHost.lean: what the operations of Machine/Host.lean leave as it was.
-/
namespace Sys2Proof.Machine

set_option linter.unusedTactic false
set_option linter.unreachableTactic false
set_option linter.unusedVariables false

theorem linkDown_only {fr : List Part} {base : State} (mout : Part.out ∈ fr) (mmem : Part.mem ∈ fr) (mhif : Part.hif ∈ fr) (mpln : Part.pln
    ∈ fr) (mcor : Part.cor ∈ fr) (mstp : Part.stp ∈ fr) (mcel : Part.cel ∈ fr) (merr : Part.err ∈ fr) (mpwr : Part.pwr ∈ fr) (mdbg :
    Part.dbg ∈ fr) (mbook : Part.book ∈ fr) {s : State} (hk : Only fr base s) : Only fr base (linkDown s) := by
  unfold linkDown
  with_reducible repeat' (first
    | assumption | intro _ | apply ite_only | apply faultReport_only | apply modHif_only | dsimp only | split)
theorem linkUp_only {fr : List Part} {base : State} (width : Nat) (rate : Nat) (flit : Bool) (mhif : Part.hif ∈ fr) {s : State} (hk : Only
    fr base s) : Only fr base (linkUp width rate flit s) := by
  unfold linkUp
  with_reducible repeat' (first
    | assumption | intro _ | apply ite_only | apply modHif_only | dsimp only | split)
theorem resumeOne_only {fr : List Part} {base : State} (tag : Nat) (mout : Part.out ∈ fr) (mmem : Part.mem ∈ fr) (mhif : Part.hif ∈ fr)
    (mpln : Part.pln ∈ fr) (mcor : Part.cor ∈ fr) (mcol : Part.col ∈ fr) (mstp : Part.stp ∈ fr) (mrck : Part.rck ∈ fr) {s : State} (hk :
    Only fr base s) : Only fr base (resumeOne tag s) := by
  unfold resumeOne
  with_reducible repeat' (first
    | assumption | intro _ | apply ite_only | apply modRck_only | apply settleCores_only | apply dropLaunch_only | apply modCol_only
    | apply modPln_only | apply modStp_only | apply settleFrees_only | apply completeNow_only | apply modLive_only | dsimp only | split)
theorem linkResume_only {fr : List Part} {base : State} (mout : Part.out ∈ fr) (mmem : Part.mem ∈ fr) (mhif : Part.hif ∈ fr) (mpln :
    Part.pln ∈ fr) (mcor : Part.cor ∈ fr) (mcol : Part.col ∈ fr) (mstp : Part.stp ∈ fr) (mrck : Part.rck ∈ fr) {s : State} (hk : Only fr
    base s) : Only fr base (linkResume s) := by
  unfold linkResume
  with_reducible repeat' (first
    | assumption | intro _ | apply ite_only | apply modHif_only | apply forS_only | apply resumeOne_only | apply postEvent_only
    | dsimp only | split)
theorem finishTenCommits_only {fr : List Part} {base : State} (mfree : Part.free ∈ fr) (mout : Part.out ∈ fr) (mmem : Part.mem ∈ fr) (mgrp :
    Part.grp ∈ fr) (mhif : Part.hif ∈ fr) (mpln : Part.pln ∈ fr) (mcor : Part.cor ∈ fr) (mvnl : Part.vnl ∈ fr) (mcol : Part.col ∈ fr) (mstp
    : Part.stp ∈ fr) (mrck : Part.rck ∈ fr) (mcel : Part.cel ∈ fr) (mpol : Part.pol ∈ fr) (merr : Part.err ∈ fr) (mpwr : Part.pwr ∈ fr)
    (mtim : Part.tim ∈ fr) (msec : Part.sec ∈ fr) (mdbg : Part.dbg ∈ fr) (mboot : Part.boot ∈ fr) (mbook : Part.book ∈ fr) {s : State} (hk :
    Only fr base s) : Only fr base (finishTenCommits s) := by
  unfold finishTenCommits
  with_reducible repeat' (first
    | assumption | intro _ | apply ite_only | apply forS_only | apply runCommit_only | apply modGrp_only | dsimp only | split)
theorem flrOf_only {fr : List Part} {base : State} (n : Nat) (mfree : Part.free ∈ fr) (mout : Part.out ∈ fr) (mmem : Part.mem ∈ fr) (mgrp :
    Part.grp ∈ fr) (mhif : Part.hif ∈ fr) (mpln : Part.pln ∈ fr) (mcor : Part.cor ∈ fr) (mvnl : Part.vnl ∈ fr) (mcol : Part.col ∈ fr) (mstp
    : Part.stp ∈ fr) (mrck : Part.rck ∈ fr) (mcel : Part.cel ∈ fr) (mpol : Part.pol ∈ fr) (merr : Part.err ∈ fr) (mpwr : Part.pwr ∈ fr)
    (mtim : Part.tim ∈ fr) (msec : Part.sec ∈ fr) (mdbg : Part.dbg ∈ fr) (mbook : Part.book ∈ fr) {s : State} (hk : Only fr base s) : Only
    fr base (flrOf n s) := by
  unfold flrOf
  with_reducible repeat' (first
    | assumption | intro _ | apply ite_only | apply modSec_only | apply modHif_only | apply flrTenants_only | dsimp only | split)
theorem vfRemove_only {fr : List Part} {base : State} (clear : Bool) (keep : Nat) (mfree : Part.free ∈ fr) (mout : Part.out ∈ fr) (mmem :
    Part.mem ∈ fr) (mgrp : Part.grp ∈ fr) (mhif : Part.hif ∈ fr) (mpln : Part.pln ∈ fr) (mcor : Part.cor ∈ fr) (mvnl : Part.vnl ∈ fr) (mcol
    : Part.col ∈ fr) (mstp : Part.stp ∈ fr) (mrck : Part.rck ∈ fr) (mcel : Part.cel ∈ fr) (mpol : Part.pol ∈ fr) (merr : Part.err ∈ fr)
    (mpwr : Part.pwr ∈ fr) (mtim : Part.tim ∈ fr) (msec : Part.sec ∈ fr) (mdbg : Part.dbg ∈ fr) (mboot : Part.boot ∈ fr) (mbook : Part.book
    ∈ fr) {s : State} (hk : Only fr base s) : Only fr base (vfRemove clear keep s) := by
  unfold vfRemove
  with_reducible repeat' (first
    | assumption | intro _ | apply ite_only | apply modHif_only | apply forS_only | apply flrOf_only | apply finishTenCommits_only
    | dsimp only | split)
theorem flrPf0_only {fr : List Part} {base : State} (mfree : Part.free ∈ fr) (mout : Part.out ∈ fr) (mmem : Part.mem ∈ fr) (mgrp : Part.grp
    ∈ fr) (mhif : Part.hif ∈ fr) (mpln : Part.pln ∈ fr) (mcor : Part.cor ∈ fr) (mvnl : Part.vnl ∈ fr) (mcol : Part.col ∈ fr) (mstp :
    Part.stp ∈ fr) (mrck : Part.rck ∈ fr) (mcel : Part.cel ∈ fr) (mpol : Part.pol ∈ fr) (merr : Part.err ∈ fr) (mpwr : Part.pwr ∈ fr) (mtim
    : Part.tim ∈ fr) (msec : Part.sec ∈ fr) (mdbg : Part.dbg ∈ fr) (mboot : Part.boot ∈ fr) (mbook : Part.book ∈ fr) {s : State} (hk : Only
    fr base s) : Only fr base (flrPf0 s) := by
  unfold flrPf0
  with_reducible repeat' (first
    | assumption | intro _ | apply ite_only | apply flrTenants_only | apply finishTenCommits_only | apply forS_only | apply modSlot_only
    | apply portOff_only | apply modGrp_only | apply checkHold_only | apply modTim_only | dsimp only | split)
theorem settleInvals_only {fr : List Part} {base : State} (r : Nat) (count : Nat) (mout : Part.out ∈ fr) (mhif : Part.hif ∈ fr) {s : State}
    (hk : Only fr base s) : Only fr base (settleInvals r count s) := by
  unfold settleInvals
  with_reducible repeat' (first
    | assumption | intro _ | apply ite_only | apply forS_only | apply emit_only | apply modHif_only | dsimp only | split)
theorem unmaskFn_only {fr : List Part} {base : State} (fn : Nat) (mout : Part.out ∈ fr) (mhif : Part.hif ∈ fr) {s : State} (hk : Only fr
    base s) : Only fr base (unmaskFn fn s) := by
  unfold unmaskFn
  with_reducible repeat' (first
    | assumption | intro _ | apply ite_only | apply forS_only | apply sendPending_only | apply modHif_only | dsimp only | split)
theorem cfgWrite_only {fr : List Part} {base : State} (fn : Nat) (a : Nat) (v : Word) (mfree : Part.free ∈ fr) (mout : Part.out ∈ fr) (mmem
    : Part.mem ∈ fr) (mgrp : Part.grp ∈ fr) (mhif : Part.hif ∈ fr) (mpln : Part.pln ∈ fr) (mcor : Part.cor ∈ fr) (mvnl : Part.vnl ∈ fr)
    (mcol : Part.col ∈ fr) (mstp : Part.stp ∈ fr) (mrck : Part.rck ∈ fr) (mcel : Part.cel ∈ fr) (mpol : Part.pol ∈ fr) (merr : Part.err ∈
    fr) (mpwr : Part.pwr ∈ fr) (mtim : Part.tim ∈ fr) (msec : Part.sec ∈ fr) (mdbg : Part.dbg ∈ fr) (mboot : Part.boot ∈ fr) (mbook :
    Part.book ∈ fr) {s : State} (hk : Only fr base s) : Only fr base (cfgWrite fn a v s) := by
  unfold cfgWrite
  with_reducible repeat' (first
    | assumption | intro _ | apply ite_only | apply modHif_only | apply vfRemove_only | apply unmaskFn_only | dsimp only | split)

end Sys2Proof.Machine
end

