-- ==== Sys2Proof/Laws/OnlyTrace.lean ====
section
/-!
SUPPORT. Laws/OnlyTrace.lean: what the operations of Machine/Trace.lean leave as it was.
-/
namespace Sys2Proof.Machine

set_option linter.unusedTactic false
set_option linter.unreachableTactic false
set_option linter.unusedVariables false

theorem traceCounts_only {fr : List Part} {base : State} (t : Nat) (mmem : Part.mem ∈ fr) (mpln : Part.pln ∈ fr) {s : State} (hk : Only fr
    base s) : Only fr base (traceCounts t s) := by
  unfold traceCounts
  with_reducible repeat' (first
    | assumption | intro _ | apply ite_only | apply hPut_only | dsimp only | split)
theorem drainOne_only {fr : List Part} {base : State} (c : Nat) (x : Sample) (mmem : Part.mem ∈ fr) (mpln : Part.pln ∈ fr) (mdbg : Part.dbg
    ∈ fr) {s : State} (hk : Only fr base s) : Only fr base (drainOne c x s) := by
  unfold drainOne
  with_reducible repeat' (first
    | assumption | intro _ | apply ite_only | apply modDbg_only | apply traceCounts_only | apply hPut_only | dsimp only | split)
theorem drainTrace_only {fr : List Part} {base : State} (c : Nat) (mmem : Part.mem ∈ fr) (mpln : Part.pln ∈ fr) (mdbg : Part.dbg ∈ fr) {s :
    State} (hk : Only fr base s) : Only fr base (drainTrace c s) := by
  unfold drainTrace
  with_reducible repeat' (first
    | assumption | intro _ | apply ite_only | apply forS_only | apply drainOne_only | apply modDbg_only | dsimp only | split)

end Sys2Proof.Machine
end

