-- ==== Sys2Proof/Laws/OnlyDebug.lean ====
section
/-!
SUPPORT. Laws/OnlyDebug.lean: what the operations of Machine/Debug.lean leave as it was.
-/
namespace Sys2Proof.Machine

set_option linter.unusedTactic false
set_option linter.unreachableTactic false
set_option linter.unusedVariables false

theorem frostResume_only {fr : List Part} {base : State} (mdbg : Part.dbg ∈ fr) {s : State} (hk : Only fr base s) : Only fr base
    (frostResume s) := by
  unfold frostResume
  with_reducible repeat' (first
    | assumption | intro _ | apply ite_only | apply modDbg_only | dsimp only | split)
theorem frostStopped_only {fr : List Part} {base : State} (stops : List (Nat × Nat)) (fifos : List FifoHeld) (syncs : List SyncHeld) (mdbg :
    Part.dbg ∈ fr) {s : State} (hk : Only fr base s) : Only fr base (frostStopped stops fifos syncs s) := by
  unfold frostStopped
  with_reducible repeat' (first
    | assumption | intro _ | apply ite_only | apply modDbg_only | dsimp only | split)
theorem scanRead_only {fr : List Part} {base : State} (mout : Part.out ∈ fr) (mregs : Part.regs ∈ fr) {s : State} (hk : Only fr base s) :
    Only fr base (scanRead s) := by
  unfold scanRead
  with_reducible repeat' (first
    | assumption | intro _ | apply ite_only | apply emit_only | apply setRw_only | dsimp only | split)
theorem traceRead_only {fr : List Part} {base : State} (mout : Part.out ∈ fr) (mregs : Part.regs ∈ fr) {s : State} (hk : Only fr base s) :
    Only fr base (traceRead s) := by
  unfold traceRead
  with_reducible repeat' (first
    | assumption | intro _ | apply ite_only | apply emit_only | apply setRw_only | dsimp only | split)
theorem takeSample_only {fr : List Part} {base : State} (c : Nat) (pc : Nat) (mMode : Bool) (wait : Nat) (flags : Nat) (mmem : Part.mem ∈
    fr) (mpln : Part.pln ∈ fr) (mdbg : Part.dbg ∈ fr) {s : State} (hk : Only fr base s) : Only fr base (takeSample c pc mMode wait flags s)
    := by
  unfold takeSample
  with_reducible repeat' (first
    | assumption | intro _ | apply ite_only | apply traceCounts_only | apply modDbg_only | dsimp only | split)
theorem tapInstr_only {fr : List Part} {base : State} (ok : Bool) (code : Nat) (drive : Nat) (mdbg : Part.dbg ∈ fr) {s : State} (hk : Only
    fr base s) : Only fr base (tapInstr ok code drive s) := by
  unfold tapInstr
  with_reducible repeat' (first
    | assumption | intro _ | apply ite_only | apply modDbg_only | dsimp only | split)
theorem tapDrive_only {fr : List Part} {base : State} (code : Nat) (drive : Nat) (mdbg : Part.dbg ∈ fr) {s : State} (hk : Only fr base s) :
    Only fr base (tapDrive code drive s) := by
  unfold tapDrive
  with_reducible repeat' (first
    | assumption | intro _ | apply ite_only | apply tapInstr_only | dsimp only | split)
theorem tapWrite_only {fr : List Part} {base : State} (o : Nat) (v : Word) (mout : Part.out ∈ fr) (mregs : Part.regs ∈ fr) (mgrp : Part.grp
    ∈ fr) (mhif : Part.hif ∈ fr) (mcor : Part.cor ∈ fr) (mstp : Part.stp ∈ fr) (mdbg : Part.dbg ∈ fr) {s : State} (hk : Only fr base s) :
    Only fr base (tapWrite o v s) := by
  unfold tapWrite
  with_reducible repeat' (first
    | assumption | intro _ | apply ite_only | apply frostAsk_only | apply frostResume_only | apply abortWrite_only
    | apply commitWrite_only | apply selectorWrite_only | apply registerWrite_only | dsimp only | split)
theorem tapRead_only {fr : List Part} {base : State} (o : Nat) (mout : Part.out ∈ fr) (mregs : Part.regs ∈ fr) {s : State} (hk : Only fr
    base s) : Only fr base (tapRead o s) := by
  unfold tapRead
  with_reducible repeat' (first
    | assumption | intro _ | apply ite_only | apply scanRead_only | apply traceRead_only | apply emit_only | dsimp only | split)

end Sys2Proof.Machine
end

