-- ==== Sys2Proof/Laws/OnlyLaunch.lean ====
section
/-!
SUPPORT. Laws/OnlyLaunch.lean: what the operations of Machine/Launch.lean leave as it was.
-/
namespace Sys2Proof.Machine

set_option linter.unusedTactic false
set_option linter.unreachableTactic false
set_option linter.unusedVariables false

theorem noteFlt_only {fr : List Part} {base : State} (c : Nat) (code : Nat) (op : Nat) (t : Nat) (plot : Nat) (mcor : Part.cor ∈ fr) {s :
    State} (hk : Only fr base s) : Only fr base (noteFlt c code op t plot s) := by
  unfold noteFlt
  with_reducible repeat' (first
    | assumption | intro _ | apply ite_only | apply modCore_only | dsimp only | split)
theorem failLaunch_only {fr : List Part} {base : State} (tag : Nat) (status : Nat) (detail : Nat) (result : Nat) (mfree : Part.free ∈ fr)
    (mout : Part.out ∈ fr) (mmem : Part.mem ∈ fr) (mhif : Part.hif ∈ fr) (mpln : Part.pln ∈ fr) (mcor : Part.cor ∈ fr) (mcol : Part.col ∈
    fr) (mstp : Part.stp ∈ fr) (mrck : Part.rck ∈ fr) (mcel : Part.cel ∈ fr) (mtim : Part.tim ∈ fr) (mdbg : Part.dbg ∈ fr) (mbook :
    Part.book ∈ fr) {s : State} (hk : Only fr base s) : Only fr base (failLaunch tag status detail result s) := by
  unfold failLaunch
  with_reducible repeat' (first
    | assumption | intro _ | apply ite_only | apply forS_only | apply drainTrace_only | apply tallyPart_only | apply done_only
    | apply settleCores_only | apply dropLaunch_only | dsimp only | split)
theorem faultLaunch_only {fr : List Part} {base : State} (tag : Nat) (c : Nat) (code : Nat) (op : Nat) (plot : Nat) (status : Nat) (detail :
    Nat) (mfree : Part.free ∈ fr) (mout : Part.out ∈ fr) (mmem : Part.mem ∈ fr) (mhif : Part.hif ∈ fr) (mpln : Part.pln ∈ fr) (mcor :
    Part.cor ∈ fr) (mcol : Part.col ∈ fr) (mstp : Part.stp ∈ fr) (mrck : Part.rck ∈ fr) (mcel : Part.cel ∈ fr) (mtim : Part.tim ∈ fr) (mdbg
    : Part.dbg ∈ fr) (mbook : Part.book ∈ fr) {s : State} (hk : Only fr base s) : Only fr base (faultLaunch tag c code op plot status detail
    s) := by
  unfold faultLaunch
  with_reducible repeat' (first
    | assumption | intro _ | apply ite_only | apply failLaunch_only | apply noteFlt_only | dsimp only | split)
theorem endPart_only {fr : List Part} {base : State} (tag : Nat) (c : Nat) (mfree : Part.free ∈ fr) (mout : Part.out ∈ fr) (mmem : Part.mem
    ∈ fr) (mhif : Part.hif ∈ fr) (mpln : Part.pln ∈ fr) (mcor : Part.cor ∈ fr) (mcol : Part.col ∈ fr) (mstp : Part.stp ∈ fr) (mrck :
    Part.rck ∈ fr) (mcel : Part.cel ∈ fr) (mtim : Part.tim ∈ fr) (mdbg : Part.dbg ∈ fr) (mbook : Part.book ∈ fr) {s : State} (hk : Only fr
    base s) : Only fr base (endPart tag c s) := by
  unfold endPart
  with_reducible repeat' (first
    | assumption | intro _ | apply ite_only | apply modPart_only | apply drainTrace_only | apply tallyPart_only | apply done_only
    | apply settleCores_only | apply dropLaunch_only | apply settleCore_only | dsimp only | split)
theorem launchMake_only {fr : List Part} {base : State} (tag : Nat) (mmem : Part.mem ∈ fr) (mhif : Part.hif ∈ fr) (mpln : Part.pln ∈ fr)
    (mcor : Part.cor ∈ fr) (merr : Part.err ∈ fr) (mpwr : Part.pwr ∈ fr) (mbook : Part.book ∈ fr) {s : State} (hk : Only fr base s) : Only
    fr base (launchMake tag s) := by
  unfold launchMake
  with_reducible repeat' (first
    | assumption | intro _ | apply ite_only | apply modLive_only | apply wakeUp_only | apply promoteRange_only | apply modPwr_only
    | apply modCor_only | apply forS_only | apply abortSweep_only | apply abortStress_only | dsimp only | split)
theorem startPlot_only {fr : List Part} {base : State} (c : Nat) (k : Nat) (entry : Nat) (plot : Nat) (arg : Nat) (mmem : Part.mem ∈ fr)
    (mcor : Part.cor ∈ fr) {s : State} (hk : Only fr base s) : Only fr base (startPlot c k entry plot arg s) := by
  unfold startPlot
  with_reducible repeat' (first
    | assumption | intro _ | apply ite_only | apply modSlot_only | apply modMem_only | dsimp only | split)
theorem beginSwap_only {fr : List Part} {base : State} (c : Nat) (k : Nat) (mcor : Part.cor ∈ fr) {s : State} (hk : Only fr base s) : Only
    fr base (beginSwap c k s) := by
  unfold beginSwap
  with_reducible repeat' (first
    | assumption | intro _ | apply ite_only | apply modCore_only | dsimp only | split)
theorem preempt_only {fr : List Part} {base : State} (c : Nat) (k : Nat) (mcor : Part.cor ∈ fr) {s : State} (hk : Only fr base s) : Only fr
    base (preempt c k s) := by
  unfold preempt
  with_reducible repeat' (first
    | assumption | intro _ | apply ite_only | apply settlePreempt_only | apply modCore_only | apply modSlot_only | dsimp only | split)
theorem preemptOnWait_only {fr : List Part} {base : State} (c : Nat) (mcor : Part.cor ∈ fr) {s : State} (hk : Only fr base s) : Only fr base
    (preemptOnWait c s) := by
  unfold preemptOnWait
  with_reducible repeat' (first
    | assumption | intro _ | apply ite_only | apply preempt_only | dsimp only | split)
theorem nextPlot_only {fr : List Part} {base : State} (tag : Nat) (c : Nat) (k : Nat) (mmem : Part.mem ∈ fr) (mcor : Part.cor ∈ fr) {s :
    State} (hk : Only fr base s) : Only fr base (nextPlot tag c k s) := by
  unfold nextPlot
  with_reducible repeat' (first
    | assumption | intro _ | apply ite_only | apply modSlot_only | apply modPart_only | apply startPlot_only | dsimp only | split)
theorem markRan_only {fr : List Part} {base : State} (c : Nat) (k : Nat) (mcor : Part.cor ∈ fr) {s : State} (hk : Only fr base s) : Only fr
    base (markRan c k s) := by
  unfold markRan
  with_reducible repeat' (first
    | assumption | intro _ | apply ite_only | apply modCor_only | dsimp only | split)
theorem coreStart_only {fr : List Part} {base : State} (tag : Nat) (c : Nat) (mout : Part.out ∈ fr) (mmem : Part.mem ∈ fr) (mhif : Part.hif
    ∈ fr) (mpln : Part.pln ∈ fr) (mcor : Part.cor ∈ fr) (mstp : Part.stp ∈ fr) (mcel : Part.cel ∈ fr) (merr : Part.err ∈ fr) (mpwr :
    Part.pwr ∈ fr) (mdbg : Part.dbg ∈ fr) (mbook : Part.book ∈ fr) {s : State} (hk : Only fr base s) : Only fr base (coreStart tag c s) :=
    by
  unfold coreStart
  with_reducible repeat' (first
    | assumption | intro _ | apply ite_only | apply beginSwap_only | apply promoteRange_only | apply poisonFault_only
    | apply countAccess_only | apply modMem_only | apply modCore_only | apply modSlot_only | apply modPart_only | apply modLaunch_only
    | apply markRan_only | apply nextPlot_only | apply preemptOnWait_only | dsimp only | split)
theorem promoteRows_only {fr : List Part} {base : State} (l : List (Nat × Nat × Nat)) (mpln : Part.pln ∈ fr) {s : State} (hk : Only fr base
    s) : Only fr base (promoteRows l s) := by
  unfold promoteRows
  with_reducible repeat' (first
    | assumption | intro _ | apply ite_only | apply forS_only | apply promoteRange_only | dsimp only | split)
theorem tileFire_only {fr : List Part} {base : State} (c : Nat) (mfree : Part.free ∈ fr) (mout : Part.out ∈ fr) (mmem : Part.mem ∈ fr) (mhif
    : Part.hif ∈ fr) (mpln : Part.pln ∈ fr) (mcor : Part.cor ∈ fr) (mcol : Part.col ∈ fr) (mstp : Part.stp ∈ fr) (mrck : Part.rck ∈ fr)
    (mcel : Part.cel ∈ fr) (mtim : Part.tim ∈ fr) (mdbg : Part.dbg ∈ fr) (mbook : Part.book ∈ fr) {s : State} (hk : Only fr base s) : Only
    fr base (tileFire c s) := by
  unfold tileFire
  with_reducible repeat' (first
    | assumption | intro _ | apply ite_only | apply modLaunch_only | apply modSlot_only | apply faultLaunch_only | apply count_only
    | apply preemptOnWait_only | apply promoteRows_only | dsimp only | split)
theorem countMoves_only {fr : List Part} {base : State} (c : Nat) (b : List Byte) (o : TileOut) (mcor : Part.cor ∈ fr) {s : State} (hk :
    Only fr base s) : Only fr base (countMoves c b o s) := by
  unfold countMoves
  with_reducible repeat' (first
    | assumption | intro _ | apply ite_only | apply forS_only | apply count_only | dsimp only | split)
theorem retireTile_only {fr : List Part} {base : State} (c : Nat) (k : Nat) (i : Nat) (q : QTile) (l : Launch) (o : TileOut) (mfree :
    Part.free ∈ fr) (mout : Part.out ∈ fr) (mmem : Part.mem ∈ fr) (mhif : Part.hif ∈ fr) (mpln : Part.pln ∈ fr) (mcor : Part.cor ∈ fr) (mcol
    : Part.col ∈ fr) (mstp : Part.stp ∈ fr) (mrck : Part.rck ∈ fr) (mcel : Part.cel ∈ fr) (mtim : Part.tim ∈ fr) (mdbg : Part.dbg ∈ fr)
    (mbook : Part.book ∈ fr) {s : State} (hk : Only fr base s) : Only fr base (retireTile c k i q l o s) := by
  unfold retireTile
  with_reducible repeat' (first
    | assumption | intro _ | apply ite_only | apply forS_only | apply count_only | apply countMoves_only | apply modLaunch_only
    | apply modSlot_only | apply makePost_only | apply endPart_only | dsimp only | split)
theorem tileWrites_only {fr : List Part} {base : State} (c : Nat) (l : Launch) (o : TileOut) (mmem : Part.mem ∈ fr) (mpln : Part.pln ∈ fr)
    (mrck : Part.rck ∈ fr) (mpwr : Part.pwr ∈ fr) {s : State} (hk : Only fr base s) : Only fr base (tileWrites c l o s) := by
  unfold tileWrites
  with_reducible repeat' (first
    | assumption | intro _ | apply ite_only | apply forS_only | apply uPut_only | apply modMem_only | apply hWrite_only
    | apply foldl_only | apply foldl2_only | apply ite2_only | dsimp only | split)
theorem tileComplete_only {fr : List Part} {base : State} (c : Nat) (i : Nat) (mfree : Part.free ∈ fr) (mout : Part.out ∈ fr) (mmem :
    Part.mem ∈ fr) (mhif : Part.hif ∈ fr) (mpln : Part.pln ∈ fr) (mcor : Part.cor ∈ fr) (mcol : Part.col ∈ fr) (mstp : Part.stp ∈ fr) (mrck
    : Part.rck ∈ fr) (mcel : Part.cel ∈ fr) (merr : Part.err ∈ fr) (mpwr : Part.pwr ∈ fr) (mtim : Part.tim ∈ fr) (mdbg : Part.dbg ∈ fr)
    (mbook : Part.book ∈ fr) {s : State} (hk : Only fr base s) : Only fr base (tileComplete c i s) := by
  unfold tileComplete
  with_reducible repeat' (first
    | assumption | intro _ | apply ite_only | apply promoteRows_only | apply poisonFault_only | apply forS_only | apply countAccess_only
    | apply tileWrites_only | apply modSlot_only | apply settlePreempt_only | apply retireTile_only | dsimp only | split)
theorem putReg_only {fr : List Part} {base : State} (c : Nat) (off : Nat) (b : List Byte) (mmem : Part.mem ∈ fr) {s : State} (hk : Only fr
    base s) : Only fr base (putReg c off b s) := by
  unfold putReg
  with_reducible repeat' (first
    | assumption | intro _ | apply ite_only | apply modMem_only | dsimp only | split)
theorem hartStore_only {fr : List Part} {base : State} (c : Nat) (k : Nat) (a : Nat) (b : List Byte) (mmem : Part.mem ∈ fr) (mcor : Part.cor
    ∈ fr) {s : State} (hk : Only fr base s) : Only fr base (hartStore c k a b s) := by
  unfold hartStore
  with_reducible repeat' (first
    | assumption | intro _ | apply ite_only | apply modSlot_only | apply forS_only | apply uPut_only | dsimp only | split)
theorem hartOp_only {fr : List Part} {base : State} (c : Nat) (k : Nat) (o : HartOp) (mmem : Part.mem ∈ fr) (mcor : Part.cor ∈ fr) {s :
    State} (hk : Only fr base s) : Only fr base (hartOp c k o s) := by
  unfold hartOp
  with_reducible repeat' (first
    | assumption | intro _ | apply ite_only | apply putReg_only | apply hartStore_only | apply modSlot_only | apply count_only
    | dsimp only | split)
theorem applyRun_only {fr : List Part} {base : State} (c : Nat) (k : Nat) (r : HartRun) (mmem : Part.mem ∈ fr) (mcor : Part.cor ∈ fr) {s :
    State} (hk : Only fr base s) : Only fr base (applyRun c k r s) := by
  unfold applyRun
  with_reducible repeat' (first
    | assumption | intro _ | apply ite_only | apply forS_only | apply hartOp_only | dsimp only | split)
theorem hartDo_only {fr : List Part} {base : State} (c : Nat) (r : HartRun) (f : Nat → Launch → LPart → State → State) (mfree : Part.free ∈
    fr) (mout : Part.out ∈ fr) (mmem : Part.mem ∈ fr) (mhif : Part.hif ∈ fr) (mpln : Part.pln ∈ fr) (mcor : Part.cor ∈ fr) (mcol : Part.col
    ∈ fr) (mstp : Part.stp ∈ fr) (mrck : Part.rck ∈ fr) (mcel : Part.cel ∈ fr) (mtim : Part.tim ∈ fr) (mdbg : Part.dbg ∈ fr) (mbook :
    Part.book ∈ fr) (hf : ∀ y0 y1 y2 x, Only fr base x → Only fr base (f y0 y1 y2 x)) {s : State} (hk : Only fr base s) : Only fr base
    (hartDo c r f s) := by
  unfold hartDo
  with_reducible repeat' (first
    | assumption | intro _ | apply ite_only | apply faultLaunch_only | apply applyRun_only | apply hf | dsimp only | split)
theorem swapDone_only {fr : List Part} {base : State} (c : Nat) (mmem : Part.mem ∈ fr) (mpln : Part.pln ∈ fr) (mcor : Part.cor ∈ fr) (mdbg :
    Part.dbg ∈ fr) {s : State} (hk : Only fr base s) : Only fr base (swapDone c s) := by
  unfold swapDone
  with_reducible repeat' (first
    | assumption | intro _ | apply ite_only | apply forS_only | apply latchPart_only | apply drainTrace_only | apply modSlot_only
    | apply swapContext_only | apply markRan_only | apply settleCore_only | apply modCore_only | dsimp only | split)
theorem pushTile_only {fr : List Part} {base : State} (c : Nat) (k : Nat) (line : Nat) (l : Launch) (p : LPart) (mcor : Part.cor ∈ fr) {s :
    State} (hk : Only fr base s) : Only fr base (pushTile c k line l p s) := by
  unfold pushTile
  with_reducible repeat' (first
    | assumption | intro _ | apply ite_only | apply modSlot_only | apply modLaunch_only | dsimp only | split)
theorem hartAccess_only {fr : List Part} {base : State} (c : Nat) (me : HartSt) (r : HartRun) (f : Nat → Launch → LPart → State → State)
    (mfree : Part.free ∈ fr) (mout : Part.out ∈ fr) (mmem : Part.mem ∈ fr) (mhif : Part.hif ∈ fr) (mpln : Part.pln ∈ fr) (mcor : Part.cor ∈
    fr) (mcol : Part.col ∈ fr) (mstp : Part.stp ∈ fr) (mrck : Part.rck ∈ fr) (mcel : Part.cel ∈ fr) (mtim : Part.tim ∈ fr) (mdbg : Part.dbg
    ∈ fr) (mbook : Part.book ∈ fr) (hf : ∀ y0 y1 y2 x, Only fr base x → Only fr base (f y0 y1 y2 x)) {s : State} (hk : Only fr base s) :
    Only fr base (hartAccess c me r f s) := by
  unfold hartAccess
  with_reducible repeat' (first
    | assumption | intro _ | apply ite_only | apply hartDo_only | apply hf | dsimp only | split)
theorem tiWait_only {fr : List Part} {base : State} (c : Nat) (r : HartRun) (pool : Bool) (i : Nat) (rd : Nat) (mfree : Part.free ∈ fr)
    (mout : Part.out ∈ fr) (mmem : Part.mem ∈ fr) (mhif : Part.hif ∈ fr) (mpln : Part.pln ∈ fr) (mcor : Part.cor ∈ fr) (mcol : Part.col ∈
    fr) (mstp : Part.stp ∈ fr) (mrck : Part.rck ∈ fr) (mcel : Part.cel ∈ fr) (mtim : Part.tim ∈ fr) (mdbg : Part.dbg ∈ fr) (mbook :
    Part.book ∈ fr) {s : State} (hk : Only fr base s) : Only fr base (tiWait c r pool i rd s) := by
  unfold tiWait
  with_reducible repeat' (first
    | assumption | intro _ | apply ite_only | apply hartAccess_only | apply modSlot_only | apply putReg_only | apply preemptOnWait_only
    | dsimp only | split)
theorem tiAdd_only {fr : List Part} {base : State} (c : Nat) (r : HartRun) (pool : Bool) (i : Nat) (v : Nat) (mfree : Part.free ∈ fr) (mout
    : Part.out ∈ fr) (mmem : Part.mem ∈ fr) (mhif : Part.hif ∈ fr) (mpln : Part.pln ∈ fr) (mcor : Part.cor ∈ fr) (mcol : Part.col ∈ fr)
    (mstp : Part.stp ∈ fr) (mrck : Part.rck ∈ fr) (mcel : Part.cel ∈ fr) (mtim : Part.tim ∈ fr) (mdbg : Part.dbg ∈ fr) (mbook : Part.book ∈
    fr) {s : State} (hk : Only fr base s) : Only fr base (tiAdd c r pool i v s) := by
  unfold tiAdd
  with_reducible repeat' (first
    | assumption | intro _ | apply ite_only | apply hartDo_only | apply postCnt_only | dsimp only | split)

end Sys2Proof.Machine
end

