-- ==== Sys2Proof/Laws/OnlyTick.lean ====
section
/-!
SUPPORT. Laws/OnlyTick.lean: what the operations of Machine/Tick.lean leave as it was.
-/
namespace Sys2Proof.Machine

set_option linter.unusedTactic false
set_option linter.unreachableTactic false
set_option linter.unusedVariables false

theorem tickHours_only {fr : List Part} {base : State} (mbook : Part.book ∈ fr) {s : State} (hk : Only fr base s) : Only fr base (tickHours
    s) := by
  unfold tickHours
  with_reducible repeat' (first
    | assumption | intro _ | apply ite_only | apply modBook_only | dsimp only | split)
theorem tickEdge_only {fr : List Part} {base : State} (mtick : Part.tick ∈ fr) (mtim : Part.tim ∈ fr) (mbook : Part.book ∈ fr) {s : State}
    (hk : Only fr base s) : Only fr base (tickEdge s) := by
  unfold tickEdge
  with_reducible repeat' (first
    | assumption | intro _ | apply ite_only | apply tickTime_only | apply tickHours_only | apply tick_only | dsimp only | split)

end Sys2Proof.Machine
end

