-- ==== Sys2Proof/Laws/State.lean ====
section
/-!
SUPPORT. Laws/State.lean: what each update of a part of State leaves in every field, so that no proof unfolds a record update.
-/
namespace Sys2Proof.Machine

/-! `modGrp` -/

@[simp] theorem modGrp_half (f : Groups → Groups) (s : State) : (modGrp f s).half = s.half := rfl
@[simp] theorem modGrp_moduleId (f : Groups → Groups) (s : State) : (modGrp f s).moduleId = s.moduleId := rfl
@[simp] theorem modGrp_pending (f : Groups → Groups) (s : State) : (modGrp f s).pending = s.pending := rfl
@[simp] theorem modGrp_tick (f : Groups → Groups) (s : State) : (modGrp f s).tick = s.tick := rfl
@[simp] theorem modGrp_free (f : Groups → Groups) (s : State) : (modGrp f s).free = s.free := rfl
@[simp] theorem modGrp_out (f : Groups → Groups) (s : State) : (modGrp f s).out = s.out := rfl
@[simp] theorem modGrp_mem (f : Groups → Groups) (s : State) : (modGrp f s).mem = s.mem := rfl
@[simp] theorem modGrp_regs (f : Groups → Groups) (s : State) : (modGrp f s).regs = s.regs := rfl
@[simp] theorem modGrp_grp (f : Groups → Groups) (s : State) : (modGrp f s).grp = f s.grp := rfl
@[simp] theorem modGrp_hif (f : Groups → Groups) (s : State) : (modGrp f s).hif = s.hif := rfl
@[simp] theorem modGrp_pln (f : Groups → Groups) (s : State) : (modGrp f s).pln = s.pln := rfl
@[simp] theorem modGrp_cor (f : Groups → Groups) (s : State) : (modGrp f s).cor = s.cor := rfl
@[simp] theorem modGrp_vnl (f : Groups → Groups) (s : State) : (modGrp f s).vnl = s.vnl := rfl
@[simp] theorem modGrp_col (f : Groups → Groups) (s : State) : (modGrp f s).col = s.col := rfl
@[simp] theorem modGrp_stp (f : Groups → Groups) (s : State) : (modGrp f s).stp = s.stp := rfl
@[simp] theorem modGrp_rck (f : Groups → Groups) (s : State) : (modGrp f s).rck = s.rck := rfl
@[simp] theorem modGrp_cel (f : Groups → Groups) (s : State) : (modGrp f s).cel = s.cel := rfl
@[simp] theorem modGrp_pol (f : Groups → Groups) (s : State) : (modGrp f s).pol = s.pol := rfl
@[simp] theorem modGrp_err (f : Groups → Groups) (s : State) : (modGrp f s).err = s.err := rfl
@[simp] theorem modGrp_pwr (f : Groups → Groups) (s : State) : (modGrp f s).pwr = s.pwr := rfl
@[simp] theorem modGrp_tim (f : Groups → Groups) (s : State) : (modGrp f s).tim = s.tim := rfl
@[simp] theorem modGrp_sec (f : Groups → Groups) (s : State) : (modGrp f s).sec = s.sec := rfl
@[simp] theorem modGrp_dbg (f : Groups → Groups) (s : State) : (modGrp f s).dbg = s.dbg := rfl
@[simp] theorem modGrp_boot (f : Groups → Groups) (s : State) : (modGrp f s).boot = s.boot := rfl
@[simp] theorem modGrp_book (f : Groups → Groups) (s : State) : (modGrp f s).book = s.book := rfl
@[simp] theorem modGrp_mram (f : Groups → Groups) (s : State) : (modGrp f s).mram = s.mram := rfl

/-! `modHif` -/

@[simp] theorem modHif_half (f : Hif → Hif) (s : State) : (modHif f s).half = s.half := rfl
@[simp] theorem modHif_moduleId (f : Hif → Hif) (s : State) : (modHif f s).moduleId = s.moduleId := rfl
@[simp] theorem modHif_pending (f : Hif → Hif) (s : State) : (modHif f s).pending = s.pending := rfl
@[simp] theorem modHif_tick (f : Hif → Hif) (s : State) : (modHif f s).tick = s.tick := rfl
@[simp] theorem modHif_free (f : Hif → Hif) (s : State) : (modHif f s).free = s.free := rfl
@[simp] theorem modHif_out (f : Hif → Hif) (s : State) : (modHif f s).out = s.out := rfl
@[simp] theorem modHif_mem (f : Hif → Hif) (s : State) : (modHif f s).mem = s.mem := rfl
@[simp] theorem modHif_regs (f : Hif → Hif) (s : State) : (modHif f s).regs = s.regs := rfl
@[simp] theorem modHif_grp (f : Hif → Hif) (s : State) : (modHif f s).grp = s.grp := rfl
@[simp] theorem modHif_hif (f : Hif → Hif) (s : State) : (modHif f s).hif = f s.hif := rfl
@[simp] theorem modHif_pln (f : Hif → Hif) (s : State) : (modHif f s).pln = s.pln := rfl
@[simp] theorem modHif_cor (f : Hif → Hif) (s : State) : (modHif f s).cor = s.cor := rfl
@[simp] theorem modHif_vnl (f : Hif → Hif) (s : State) : (modHif f s).vnl = s.vnl := rfl
@[simp] theorem modHif_col (f : Hif → Hif) (s : State) : (modHif f s).col = s.col := rfl
@[simp] theorem modHif_stp (f : Hif → Hif) (s : State) : (modHif f s).stp = s.stp := rfl
@[simp] theorem modHif_rck (f : Hif → Hif) (s : State) : (modHif f s).rck = s.rck := rfl
@[simp] theorem modHif_cel (f : Hif → Hif) (s : State) : (modHif f s).cel = s.cel := rfl
@[simp] theorem modHif_pol (f : Hif → Hif) (s : State) : (modHif f s).pol = s.pol := rfl
@[simp] theorem modHif_err (f : Hif → Hif) (s : State) : (modHif f s).err = s.err := rfl
@[simp] theorem modHif_pwr (f : Hif → Hif) (s : State) : (modHif f s).pwr = s.pwr := rfl
@[simp] theorem modHif_tim (f : Hif → Hif) (s : State) : (modHif f s).tim = s.tim := rfl
@[simp] theorem modHif_sec (f : Hif → Hif) (s : State) : (modHif f s).sec = s.sec := rfl
@[simp] theorem modHif_dbg (f : Hif → Hif) (s : State) : (modHif f s).dbg = s.dbg := rfl
@[simp] theorem modHif_boot (f : Hif → Hif) (s : State) : (modHif f s).boot = s.boot := rfl
@[simp] theorem modHif_book (f : Hif → Hif) (s : State) : (modHif f s).book = s.book := rfl
@[simp] theorem modHif_mram (f : Hif → Hif) (s : State) : (modHif f s).mram = s.mram := rfl

/-! `modPln` -/

@[simp] theorem modPln_half (f : Pln → Pln) (s : State) : (modPln f s).half = s.half := rfl
@[simp] theorem modPln_moduleId (f : Pln → Pln) (s : State) : (modPln f s).moduleId = s.moduleId := rfl
@[simp] theorem modPln_pending (f : Pln → Pln) (s : State) : (modPln f s).pending = s.pending := rfl
@[simp] theorem modPln_tick (f : Pln → Pln) (s : State) : (modPln f s).tick = s.tick := rfl
@[simp] theorem modPln_free (f : Pln → Pln) (s : State) : (modPln f s).free = s.free := rfl
@[simp] theorem modPln_out (f : Pln → Pln) (s : State) : (modPln f s).out = s.out := rfl
@[simp] theorem modPln_mem (f : Pln → Pln) (s : State) : (modPln f s).mem = s.mem := rfl
@[simp] theorem modPln_regs (f : Pln → Pln) (s : State) : (modPln f s).regs = s.regs := rfl
@[simp] theorem modPln_grp (f : Pln → Pln) (s : State) : (modPln f s).grp = s.grp := rfl
@[simp] theorem modPln_hif (f : Pln → Pln) (s : State) : (modPln f s).hif = s.hif := rfl
@[simp] theorem modPln_pln (f : Pln → Pln) (s : State) : (modPln f s).pln = f s.pln := rfl
@[simp] theorem modPln_cor (f : Pln → Pln) (s : State) : (modPln f s).cor = s.cor := rfl
@[simp] theorem modPln_vnl (f : Pln → Pln) (s : State) : (modPln f s).vnl = s.vnl := rfl
@[simp] theorem modPln_col (f : Pln → Pln) (s : State) : (modPln f s).col = s.col := rfl
@[simp] theorem modPln_stp (f : Pln → Pln) (s : State) : (modPln f s).stp = s.stp := rfl
@[simp] theorem modPln_rck (f : Pln → Pln) (s : State) : (modPln f s).rck = s.rck := rfl
@[simp] theorem modPln_cel (f : Pln → Pln) (s : State) : (modPln f s).cel = s.cel := rfl
@[simp] theorem modPln_pol (f : Pln → Pln) (s : State) : (modPln f s).pol = s.pol := rfl
@[simp] theorem modPln_err (f : Pln → Pln) (s : State) : (modPln f s).err = s.err := rfl
@[simp] theorem modPln_pwr (f : Pln → Pln) (s : State) : (modPln f s).pwr = s.pwr := rfl
@[simp] theorem modPln_tim (f : Pln → Pln) (s : State) : (modPln f s).tim = s.tim := rfl
@[simp] theorem modPln_sec (f : Pln → Pln) (s : State) : (modPln f s).sec = s.sec := rfl
@[simp] theorem modPln_dbg (f : Pln → Pln) (s : State) : (modPln f s).dbg = s.dbg := rfl
@[simp] theorem modPln_boot (f : Pln → Pln) (s : State) : (modPln f s).boot = s.boot := rfl
@[simp] theorem modPln_book (f : Pln → Pln) (s : State) : (modPln f s).book = s.book := rfl
@[simp] theorem modPln_mram (f : Pln → Pln) (s : State) : (modPln f s).mram = s.mram := rfl

/-! `modStp` -/

@[simp] theorem modStp_half (f : Stp → Stp) (s : State) : (modStp f s).half = s.half := rfl
@[simp] theorem modStp_moduleId (f : Stp → Stp) (s : State) : (modStp f s).moduleId = s.moduleId := rfl
@[simp] theorem modStp_pending (f : Stp → Stp) (s : State) : (modStp f s).pending = s.pending := rfl
@[simp] theorem modStp_tick (f : Stp → Stp) (s : State) : (modStp f s).tick = s.tick := rfl
@[simp] theorem modStp_free (f : Stp → Stp) (s : State) : (modStp f s).free = s.free := rfl
@[simp] theorem modStp_out (f : Stp → Stp) (s : State) : (modStp f s).out = s.out := rfl
@[simp] theorem modStp_mem (f : Stp → Stp) (s : State) : (modStp f s).mem = s.mem := rfl
@[simp] theorem modStp_regs (f : Stp → Stp) (s : State) : (modStp f s).regs = s.regs := rfl
@[simp] theorem modStp_grp (f : Stp → Stp) (s : State) : (modStp f s).grp = s.grp := rfl
@[simp] theorem modStp_hif (f : Stp → Stp) (s : State) : (modStp f s).hif = s.hif := rfl
@[simp] theorem modStp_pln (f : Stp → Stp) (s : State) : (modStp f s).pln = s.pln := rfl
@[simp] theorem modStp_cor (f : Stp → Stp) (s : State) : (modStp f s).cor = s.cor := rfl
@[simp] theorem modStp_vnl (f : Stp → Stp) (s : State) : (modStp f s).vnl = s.vnl := rfl
@[simp] theorem modStp_col (f : Stp → Stp) (s : State) : (modStp f s).col = s.col := rfl
@[simp] theorem modStp_stp (f : Stp → Stp) (s : State) : (modStp f s).stp = f s.stp := rfl
@[simp] theorem modStp_rck (f : Stp → Stp) (s : State) : (modStp f s).rck = s.rck := rfl
@[simp] theorem modStp_cel (f : Stp → Stp) (s : State) : (modStp f s).cel = s.cel := rfl
@[simp] theorem modStp_pol (f : Stp → Stp) (s : State) : (modStp f s).pol = s.pol := rfl
@[simp] theorem modStp_err (f : Stp → Stp) (s : State) : (modStp f s).err = s.err := rfl
@[simp] theorem modStp_pwr (f : Stp → Stp) (s : State) : (modStp f s).pwr = s.pwr := rfl
@[simp] theorem modStp_tim (f : Stp → Stp) (s : State) : (modStp f s).tim = s.tim := rfl
@[simp] theorem modStp_sec (f : Stp → Stp) (s : State) : (modStp f s).sec = s.sec := rfl
@[simp] theorem modStp_dbg (f : Stp → Stp) (s : State) : (modStp f s).dbg = s.dbg := rfl
@[simp] theorem modStp_boot (f : Stp → Stp) (s : State) : (modStp f s).boot = s.boot := rfl
@[simp] theorem modStp_book (f : Stp → Stp) (s : State) : (modStp f s).book = s.book := rfl
@[simp] theorem modStp_mram (f : Stp → Stp) (s : State) : (modStp f s).mram = s.mram := rfl

/-! `modRck` -/

@[simp] theorem modRck_half (f : Rck → Rck) (s : State) : (modRck f s).half = s.half := rfl
@[simp] theorem modRck_moduleId (f : Rck → Rck) (s : State) : (modRck f s).moduleId = s.moduleId := rfl
@[simp] theorem modRck_pending (f : Rck → Rck) (s : State) : (modRck f s).pending = s.pending := rfl
@[simp] theorem modRck_tick (f : Rck → Rck) (s : State) : (modRck f s).tick = s.tick := rfl
@[simp] theorem modRck_free (f : Rck → Rck) (s : State) : (modRck f s).free = s.free := rfl
@[simp] theorem modRck_out (f : Rck → Rck) (s : State) : (modRck f s).out = s.out := rfl
@[simp] theorem modRck_mem (f : Rck → Rck) (s : State) : (modRck f s).mem = s.mem := rfl
@[simp] theorem modRck_regs (f : Rck → Rck) (s : State) : (modRck f s).regs = s.regs := rfl
@[simp] theorem modRck_grp (f : Rck → Rck) (s : State) : (modRck f s).grp = s.grp := rfl
@[simp] theorem modRck_hif (f : Rck → Rck) (s : State) : (modRck f s).hif = s.hif := rfl
@[simp] theorem modRck_pln (f : Rck → Rck) (s : State) : (modRck f s).pln = s.pln := rfl
@[simp] theorem modRck_cor (f : Rck → Rck) (s : State) : (modRck f s).cor = s.cor := rfl
@[simp] theorem modRck_vnl (f : Rck → Rck) (s : State) : (modRck f s).vnl = s.vnl := rfl
@[simp] theorem modRck_col (f : Rck → Rck) (s : State) : (modRck f s).col = s.col := rfl
@[simp] theorem modRck_stp (f : Rck → Rck) (s : State) : (modRck f s).stp = s.stp := rfl
@[simp] theorem modRck_rck (f : Rck → Rck) (s : State) : (modRck f s).rck = f s.rck := rfl
@[simp] theorem modRck_cel (f : Rck → Rck) (s : State) : (modRck f s).cel = s.cel := rfl
@[simp] theorem modRck_pol (f : Rck → Rck) (s : State) : (modRck f s).pol = s.pol := rfl
@[simp] theorem modRck_err (f : Rck → Rck) (s : State) : (modRck f s).err = s.err := rfl
@[simp] theorem modRck_pwr (f : Rck → Rck) (s : State) : (modRck f s).pwr = s.pwr := rfl
@[simp] theorem modRck_tim (f : Rck → Rck) (s : State) : (modRck f s).tim = s.tim := rfl
@[simp] theorem modRck_sec (f : Rck → Rck) (s : State) : (modRck f s).sec = s.sec := rfl
@[simp] theorem modRck_dbg (f : Rck → Rck) (s : State) : (modRck f s).dbg = s.dbg := rfl
@[simp] theorem modRck_boot (f : Rck → Rck) (s : State) : (modRck f s).boot = s.boot := rfl
@[simp] theorem modRck_book (f : Rck → Rck) (s : State) : (modRck f s).book = s.book := rfl
@[simp] theorem modRck_mram (f : Rck → Rck) (s : State) : (modRck f s).mram = s.mram := rfl

/-! `modVnl` -/

@[simp] theorem modVnl_half (f : Vnl → Vnl) (s : State) : (modVnl f s).half = s.half := rfl
@[simp] theorem modVnl_moduleId (f : Vnl → Vnl) (s : State) : (modVnl f s).moduleId = s.moduleId := rfl
@[simp] theorem modVnl_pending (f : Vnl → Vnl) (s : State) : (modVnl f s).pending = s.pending := rfl
@[simp] theorem modVnl_tick (f : Vnl → Vnl) (s : State) : (modVnl f s).tick = s.tick := rfl
@[simp] theorem modVnl_free (f : Vnl → Vnl) (s : State) : (modVnl f s).free = s.free := rfl
@[simp] theorem modVnl_out (f : Vnl → Vnl) (s : State) : (modVnl f s).out = s.out := rfl
@[simp] theorem modVnl_mem (f : Vnl → Vnl) (s : State) : (modVnl f s).mem = s.mem := rfl
@[simp] theorem modVnl_regs (f : Vnl → Vnl) (s : State) : (modVnl f s).regs = s.regs := rfl
@[simp] theorem modVnl_grp (f : Vnl → Vnl) (s : State) : (modVnl f s).grp = s.grp := rfl
@[simp] theorem modVnl_hif (f : Vnl → Vnl) (s : State) : (modVnl f s).hif = s.hif := rfl
@[simp] theorem modVnl_pln (f : Vnl → Vnl) (s : State) : (modVnl f s).pln = s.pln := rfl
@[simp] theorem modVnl_cor (f : Vnl → Vnl) (s : State) : (modVnl f s).cor = s.cor := rfl
@[simp] theorem modVnl_vnl (f : Vnl → Vnl) (s : State) : (modVnl f s).vnl = f s.vnl := rfl
@[simp] theorem modVnl_col (f : Vnl → Vnl) (s : State) : (modVnl f s).col = s.col := rfl
@[simp] theorem modVnl_stp (f : Vnl → Vnl) (s : State) : (modVnl f s).stp = s.stp := rfl
@[simp] theorem modVnl_rck (f : Vnl → Vnl) (s : State) : (modVnl f s).rck = s.rck := rfl
@[simp] theorem modVnl_cel (f : Vnl → Vnl) (s : State) : (modVnl f s).cel = s.cel := rfl
@[simp] theorem modVnl_pol (f : Vnl → Vnl) (s : State) : (modVnl f s).pol = s.pol := rfl
@[simp] theorem modVnl_err (f : Vnl → Vnl) (s : State) : (modVnl f s).err = s.err := rfl
@[simp] theorem modVnl_pwr (f : Vnl → Vnl) (s : State) : (modVnl f s).pwr = s.pwr := rfl
@[simp] theorem modVnl_tim (f : Vnl → Vnl) (s : State) : (modVnl f s).tim = s.tim := rfl
@[simp] theorem modVnl_sec (f : Vnl → Vnl) (s : State) : (modVnl f s).sec = s.sec := rfl
@[simp] theorem modVnl_dbg (f : Vnl → Vnl) (s : State) : (modVnl f s).dbg = s.dbg := rfl
@[simp] theorem modVnl_boot (f : Vnl → Vnl) (s : State) : (modVnl f s).boot = s.boot := rfl
@[simp] theorem modVnl_book (f : Vnl → Vnl) (s : State) : (modVnl f s).book = s.book := rfl
@[simp] theorem modVnl_mram (f : Vnl → Vnl) (s : State) : (modVnl f s).mram = s.mram := rfl

/-! `modBook` -/

@[simp] theorem modBook_half (f : Book → Book) (s : State) : (modBook f s).half = s.half := rfl
@[simp] theorem modBook_moduleId (f : Book → Book) (s : State) : (modBook f s).moduleId = s.moduleId := rfl
@[simp] theorem modBook_pending (f : Book → Book) (s : State) : (modBook f s).pending = s.pending := rfl
@[simp] theorem modBook_tick (f : Book → Book) (s : State) : (modBook f s).tick = s.tick := rfl
@[simp] theorem modBook_free (f : Book → Book) (s : State) : (modBook f s).free = s.free := rfl
@[simp] theorem modBook_out (f : Book → Book) (s : State) : (modBook f s).out = s.out := rfl
@[simp] theorem modBook_mem (f : Book → Book) (s : State) : (modBook f s).mem = s.mem := rfl
@[simp] theorem modBook_regs (f : Book → Book) (s : State) : (modBook f s).regs = s.regs := rfl
@[simp] theorem modBook_grp (f : Book → Book) (s : State) : (modBook f s).grp = s.grp := rfl
@[simp] theorem modBook_hif (f : Book → Book) (s : State) : (modBook f s).hif = s.hif := rfl
@[simp] theorem modBook_pln (f : Book → Book) (s : State) : (modBook f s).pln = s.pln := rfl
@[simp] theorem modBook_cor (f : Book → Book) (s : State) : (modBook f s).cor = s.cor := rfl
@[simp] theorem modBook_vnl (f : Book → Book) (s : State) : (modBook f s).vnl = s.vnl := rfl
@[simp] theorem modBook_col (f : Book → Book) (s : State) : (modBook f s).col = s.col := rfl
@[simp] theorem modBook_stp (f : Book → Book) (s : State) : (modBook f s).stp = s.stp := rfl
@[simp] theorem modBook_rck (f : Book → Book) (s : State) : (modBook f s).rck = s.rck := rfl
@[simp] theorem modBook_cel (f : Book → Book) (s : State) : (modBook f s).cel = s.cel := rfl
@[simp] theorem modBook_pol (f : Book → Book) (s : State) : (modBook f s).pol = s.pol := rfl
@[simp] theorem modBook_err (f : Book → Book) (s : State) : (modBook f s).err = s.err := rfl
@[simp] theorem modBook_pwr (f : Book → Book) (s : State) : (modBook f s).pwr = s.pwr := rfl
@[simp] theorem modBook_tim (f : Book → Book) (s : State) : (modBook f s).tim = s.tim := rfl
@[simp] theorem modBook_sec (f : Book → Book) (s : State) : (modBook f s).sec = s.sec := rfl
@[simp] theorem modBook_dbg (f : Book → Book) (s : State) : (modBook f s).dbg = s.dbg := rfl
@[simp] theorem modBook_boot (f : Book → Book) (s : State) : (modBook f s).boot = s.boot := rfl
@[simp] theorem modBook_book (f : Book → Book) (s : State) : (modBook f s).book = f s.book := rfl
@[simp] theorem modBook_mram (f : Book → Book) (s : State) : (modBook f s).mram = s.mram := rfl

/-! `modCor` -/

@[simp] theorem modCor_half (f : Cor → Cor) (s : State) : (modCor f s).half = s.half := rfl
@[simp] theorem modCor_moduleId (f : Cor → Cor) (s : State) : (modCor f s).moduleId = s.moduleId := rfl
@[simp] theorem modCor_pending (f : Cor → Cor) (s : State) : (modCor f s).pending = s.pending := rfl
@[simp] theorem modCor_tick (f : Cor → Cor) (s : State) : (modCor f s).tick = s.tick := rfl
@[simp] theorem modCor_free (f : Cor → Cor) (s : State) : (modCor f s).free = s.free := rfl
@[simp] theorem modCor_out (f : Cor → Cor) (s : State) : (modCor f s).out = s.out := rfl
@[simp] theorem modCor_mem (f : Cor → Cor) (s : State) : (modCor f s).mem = s.mem := rfl
@[simp] theorem modCor_regs (f : Cor → Cor) (s : State) : (modCor f s).regs = s.regs := rfl
@[simp] theorem modCor_grp (f : Cor → Cor) (s : State) : (modCor f s).grp = s.grp := rfl
@[simp] theorem modCor_hif (f : Cor → Cor) (s : State) : (modCor f s).hif = s.hif := rfl
@[simp] theorem modCor_pln (f : Cor → Cor) (s : State) : (modCor f s).pln = s.pln := rfl
@[simp] theorem modCor_cor (f : Cor → Cor) (s : State) : (modCor f s).cor = f s.cor := rfl
@[simp] theorem modCor_vnl (f : Cor → Cor) (s : State) : (modCor f s).vnl = s.vnl := rfl
@[simp] theorem modCor_col (f : Cor → Cor) (s : State) : (modCor f s).col = s.col := rfl
@[simp] theorem modCor_stp (f : Cor → Cor) (s : State) : (modCor f s).stp = s.stp := rfl
@[simp] theorem modCor_rck (f : Cor → Cor) (s : State) : (modCor f s).rck = s.rck := rfl
@[simp] theorem modCor_cel (f : Cor → Cor) (s : State) : (modCor f s).cel = s.cel := rfl
@[simp] theorem modCor_pol (f : Cor → Cor) (s : State) : (modCor f s).pol = s.pol := rfl
@[simp] theorem modCor_err (f : Cor → Cor) (s : State) : (modCor f s).err = s.err := rfl
@[simp] theorem modCor_pwr (f : Cor → Cor) (s : State) : (modCor f s).pwr = s.pwr := rfl
@[simp] theorem modCor_tim (f : Cor → Cor) (s : State) : (modCor f s).tim = s.tim := rfl
@[simp] theorem modCor_sec (f : Cor → Cor) (s : State) : (modCor f s).sec = s.sec := rfl
@[simp] theorem modCor_dbg (f : Cor → Cor) (s : State) : (modCor f s).dbg = s.dbg := rfl
@[simp] theorem modCor_boot (f : Cor → Cor) (s : State) : (modCor f s).boot = s.boot := rfl
@[simp] theorem modCor_book (f : Cor → Cor) (s : State) : (modCor f s).book = s.book := rfl
@[simp] theorem modCor_mram (f : Cor → Cor) (s : State) : (modCor f s).mram = s.mram := rfl

/-! `modCol` -/

@[simp] theorem modCol_half (f : Col → Col) (s : State) : (modCol f s).half = s.half := rfl
@[simp] theorem modCol_moduleId (f : Col → Col) (s : State) : (modCol f s).moduleId = s.moduleId := rfl
@[simp] theorem modCol_pending (f : Col → Col) (s : State) : (modCol f s).pending = s.pending := rfl
@[simp] theorem modCol_tick (f : Col → Col) (s : State) : (modCol f s).tick = s.tick := rfl
@[simp] theorem modCol_free (f : Col → Col) (s : State) : (modCol f s).free = s.free := rfl
@[simp] theorem modCol_out (f : Col → Col) (s : State) : (modCol f s).out = s.out := rfl
@[simp] theorem modCol_mem (f : Col → Col) (s : State) : (modCol f s).mem = s.mem := rfl
@[simp] theorem modCol_regs (f : Col → Col) (s : State) : (modCol f s).regs = s.regs := rfl
@[simp] theorem modCol_grp (f : Col → Col) (s : State) : (modCol f s).grp = s.grp := rfl
@[simp] theorem modCol_hif (f : Col → Col) (s : State) : (modCol f s).hif = s.hif := rfl
@[simp] theorem modCol_pln (f : Col → Col) (s : State) : (modCol f s).pln = s.pln := rfl
@[simp] theorem modCol_cor (f : Col → Col) (s : State) : (modCol f s).cor = s.cor := rfl
@[simp] theorem modCol_vnl (f : Col → Col) (s : State) : (modCol f s).vnl = s.vnl := rfl
@[simp] theorem modCol_col (f : Col → Col) (s : State) : (modCol f s).col = f s.col := rfl
@[simp] theorem modCol_stp (f : Col → Col) (s : State) : (modCol f s).stp = s.stp := rfl
@[simp] theorem modCol_rck (f : Col → Col) (s : State) : (modCol f s).rck = s.rck := rfl
@[simp] theorem modCol_cel (f : Col → Col) (s : State) : (modCol f s).cel = s.cel := rfl
@[simp] theorem modCol_pol (f : Col → Col) (s : State) : (modCol f s).pol = s.pol := rfl
@[simp] theorem modCol_err (f : Col → Col) (s : State) : (modCol f s).err = s.err := rfl
@[simp] theorem modCol_pwr (f : Col → Col) (s : State) : (modCol f s).pwr = s.pwr := rfl
@[simp] theorem modCol_tim (f : Col → Col) (s : State) : (modCol f s).tim = s.tim := rfl
@[simp] theorem modCol_sec (f : Col → Col) (s : State) : (modCol f s).sec = s.sec := rfl
@[simp] theorem modCol_dbg (f : Col → Col) (s : State) : (modCol f s).dbg = s.dbg := rfl
@[simp] theorem modCol_boot (f : Col → Col) (s : State) : (modCol f s).boot = s.boot := rfl
@[simp] theorem modCol_book (f : Col → Col) (s : State) : (modCol f s).book = s.book := rfl
@[simp] theorem modCol_mram (f : Col → Col) (s : State) : (modCol f s).mram = s.mram := rfl

/-! `modCel` -/

@[simp] theorem modCel_half (f : Cel → Cel) (s : State) : (modCel f s).half = s.half := rfl
@[simp] theorem modCel_moduleId (f : Cel → Cel) (s : State) : (modCel f s).moduleId = s.moduleId := rfl
@[simp] theorem modCel_pending (f : Cel → Cel) (s : State) : (modCel f s).pending = s.pending := rfl
@[simp] theorem modCel_tick (f : Cel → Cel) (s : State) : (modCel f s).tick = s.tick := rfl
@[simp] theorem modCel_free (f : Cel → Cel) (s : State) : (modCel f s).free = s.free := rfl
@[simp] theorem modCel_out (f : Cel → Cel) (s : State) : (modCel f s).out = s.out := rfl
@[simp] theorem modCel_mem (f : Cel → Cel) (s : State) : (modCel f s).mem = s.mem := rfl
@[simp] theorem modCel_regs (f : Cel → Cel) (s : State) : (modCel f s).regs = s.regs := rfl
@[simp] theorem modCel_grp (f : Cel → Cel) (s : State) : (modCel f s).grp = s.grp := rfl
@[simp] theorem modCel_hif (f : Cel → Cel) (s : State) : (modCel f s).hif = s.hif := rfl
@[simp] theorem modCel_pln (f : Cel → Cel) (s : State) : (modCel f s).pln = s.pln := rfl
@[simp] theorem modCel_cor (f : Cel → Cel) (s : State) : (modCel f s).cor = s.cor := rfl
@[simp] theorem modCel_vnl (f : Cel → Cel) (s : State) : (modCel f s).vnl = s.vnl := rfl
@[simp] theorem modCel_col (f : Cel → Cel) (s : State) : (modCel f s).col = s.col := rfl
@[simp] theorem modCel_stp (f : Cel → Cel) (s : State) : (modCel f s).stp = s.stp := rfl
@[simp] theorem modCel_rck (f : Cel → Cel) (s : State) : (modCel f s).rck = s.rck := rfl
@[simp] theorem modCel_cel (f : Cel → Cel) (s : State) : (modCel f s).cel = f s.cel := rfl
@[simp] theorem modCel_pol (f : Cel → Cel) (s : State) : (modCel f s).pol = s.pol := rfl
@[simp] theorem modCel_err (f : Cel → Cel) (s : State) : (modCel f s).err = s.err := rfl
@[simp] theorem modCel_pwr (f : Cel → Cel) (s : State) : (modCel f s).pwr = s.pwr := rfl
@[simp] theorem modCel_tim (f : Cel → Cel) (s : State) : (modCel f s).tim = s.tim := rfl
@[simp] theorem modCel_sec (f : Cel → Cel) (s : State) : (modCel f s).sec = s.sec := rfl
@[simp] theorem modCel_dbg (f : Cel → Cel) (s : State) : (modCel f s).dbg = s.dbg := rfl
@[simp] theorem modCel_boot (f : Cel → Cel) (s : State) : (modCel f s).boot = s.boot := rfl
@[simp] theorem modCel_book (f : Cel → Cel) (s : State) : (modCel f s).book = s.book := rfl
@[simp] theorem modCel_mram (f : Cel → Cel) (s : State) : (modCel f s).mram = s.mram := rfl

/-! `modPol` -/

@[simp] theorem modPol_half (f : Pol → Pol) (s : State) : (modPol f s).half = s.half := rfl
@[simp] theorem modPol_moduleId (f : Pol → Pol) (s : State) : (modPol f s).moduleId = s.moduleId := rfl
@[simp] theorem modPol_pending (f : Pol → Pol) (s : State) : (modPol f s).pending = s.pending := rfl
@[simp] theorem modPol_tick (f : Pol → Pol) (s : State) : (modPol f s).tick = s.tick := rfl
@[simp] theorem modPol_free (f : Pol → Pol) (s : State) : (modPol f s).free = s.free := rfl
@[simp] theorem modPol_out (f : Pol → Pol) (s : State) : (modPol f s).out = s.out := rfl
@[simp] theorem modPol_mem (f : Pol → Pol) (s : State) : (modPol f s).mem = s.mem := rfl
@[simp] theorem modPol_regs (f : Pol → Pol) (s : State) : (modPol f s).regs = s.regs := rfl
@[simp] theorem modPol_grp (f : Pol → Pol) (s : State) : (modPol f s).grp = s.grp := rfl
@[simp] theorem modPol_hif (f : Pol → Pol) (s : State) : (modPol f s).hif = s.hif := rfl
@[simp] theorem modPol_pln (f : Pol → Pol) (s : State) : (modPol f s).pln = s.pln := rfl
@[simp] theorem modPol_cor (f : Pol → Pol) (s : State) : (modPol f s).cor = s.cor := rfl
@[simp] theorem modPol_vnl (f : Pol → Pol) (s : State) : (modPol f s).vnl = s.vnl := rfl
@[simp] theorem modPol_col (f : Pol → Pol) (s : State) : (modPol f s).col = s.col := rfl
@[simp] theorem modPol_stp (f : Pol → Pol) (s : State) : (modPol f s).stp = s.stp := rfl
@[simp] theorem modPol_rck (f : Pol → Pol) (s : State) : (modPol f s).rck = s.rck := rfl
@[simp] theorem modPol_cel (f : Pol → Pol) (s : State) : (modPol f s).cel = s.cel := rfl
@[simp] theorem modPol_pol (f : Pol → Pol) (s : State) : (modPol f s).pol = f s.pol := rfl
@[simp] theorem modPol_err (f : Pol → Pol) (s : State) : (modPol f s).err = s.err := rfl
@[simp] theorem modPol_pwr (f : Pol → Pol) (s : State) : (modPol f s).pwr = s.pwr := rfl
@[simp] theorem modPol_tim (f : Pol → Pol) (s : State) : (modPol f s).tim = s.tim := rfl
@[simp] theorem modPol_sec (f : Pol → Pol) (s : State) : (modPol f s).sec = s.sec := rfl
@[simp] theorem modPol_dbg (f : Pol → Pol) (s : State) : (modPol f s).dbg = s.dbg := rfl
@[simp] theorem modPol_boot (f : Pol → Pol) (s : State) : (modPol f s).boot = s.boot := rfl
@[simp] theorem modPol_book (f : Pol → Pol) (s : State) : (modPol f s).book = s.book := rfl
@[simp] theorem modPol_mram (f : Pol → Pol) (s : State) : (modPol f s).mram = s.mram := rfl

/-! `modErr` -/

@[simp] theorem modErr_half (f : Err → Err) (s : State) : (modErr f s).half = s.half := rfl
@[simp] theorem modErr_moduleId (f : Err → Err) (s : State) : (modErr f s).moduleId = s.moduleId := rfl
@[simp] theorem modErr_pending (f : Err → Err) (s : State) : (modErr f s).pending = s.pending := rfl
@[simp] theorem modErr_tick (f : Err → Err) (s : State) : (modErr f s).tick = s.tick := rfl
@[simp] theorem modErr_free (f : Err → Err) (s : State) : (modErr f s).free = s.free := rfl
@[simp] theorem modErr_out (f : Err → Err) (s : State) : (modErr f s).out = s.out := rfl
@[simp] theorem modErr_mem (f : Err → Err) (s : State) : (modErr f s).mem = s.mem := rfl
@[simp] theorem modErr_regs (f : Err → Err) (s : State) : (modErr f s).regs = s.regs := rfl
@[simp] theorem modErr_grp (f : Err → Err) (s : State) : (modErr f s).grp = s.grp := rfl
@[simp] theorem modErr_hif (f : Err → Err) (s : State) : (modErr f s).hif = s.hif := rfl
@[simp] theorem modErr_pln (f : Err → Err) (s : State) : (modErr f s).pln = s.pln := rfl
@[simp] theorem modErr_cor (f : Err → Err) (s : State) : (modErr f s).cor = s.cor := rfl
@[simp] theorem modErr_vnl (f : Err → Err) (s : State) : (modErr f s).vnl = s.vnl := rfl
@[simp] theorem modErr_col (f : Err → Err) (s : State) : (modErr f s).col = s.col := rfl
@[simp] theorem modErr_stp (f : Err → Err) (s : State) : (modErr f s).stp = s.stp := rfl
@[simp] theorem modErr_rck (f : Err → Err) (s : State) : (modErr f s).rck = s.rck := rfl
@[simp] theorem modErr_cel (f : Err → Err) (s : State) : (modErr f s).cel = s.cel := rfl
@[simp] theorem modErr_pol (f : Err → Err) (s : State) : (modErr f s).pol = s.pol := rfl
@[simp] theorem modErr_err (f : Err → Err) (s : State) : (modErr f s).err = f s.err := rfl
@[simp] theorem modErr_pwr (f : Err → Err) (s : State) : (modErr f s).pwr = s.pwr := rfl
@[simp] theorem modErr_tim (f : Err → Err) (s : State) : (modErr f s).tim = s.tim := rfl
@[simp] theorem modErr_sec (f : Err → Err) (s : State) : (modErr f s).sec = s.sec := rfl
@[simp] theorem modErr_dbg (f : Err → Err) (s : State) : (modErr f s).dbg = s.dbg := rfl
@[simp] theorem modErr_boot (f : Err → Err) (s : State) : (modErr f s).boot = s.boot := rfl
@[simp] theorem modErr_book (f : Err → Err) (s : State) : (modErr f s).book = s.book := rfl
@[simp] theorem modErr_mram (f : Err → Err) (s : State) : (modErr f s).mram = s.mram := rfl

/-! `modPwr` -/

@[simp] theorem modPwr_half (f : Pwr → Pwr) (s : State) : (modPwr f s).half = s.half := rfl
@[simp] theorem modPwr_moduleId (f : Pwr → Pwr) (s : State) : (modPwr f s).moduleId = s.moduleId := rfl
@[simp] theorem modPwr_pending (f : Pwr → Pwr) (s : State) : (modPwr f s).pending = s.pending := rfl
@[simp] theorem modPwr_tick (f : Pwr → Pwr) (s : State) : (modPwr f s).tick = s.tick := rfl
@[simp] theorem modPwr_free (f : Pwr → Pwr) (s : State) : (modPwr f s).free = s.free := rfl
@[simp] theorem modPwr_out (f : Pwr → Pwr) (s : State) : (modPwr f s).out = s.out := rfl
@[simp] theorem modPwr_mem (f : Pwr → Pwr) (s : State) : (modPwr f s).mem = s.mem := rfl
@[simp] theorem modPwr_regs (f : Pwr → Pwr) (s : State) : (modPwr f s).regs = s.regs := rfl
@[simp] theorem modPwr_grp (f : Pwr → Pwr) (s : State) : (modPwr f s).grp = s.grp := rfl
@[simp] theorem modPwr_hif (f : Pwr → Pwr) (s : State) : (modPwr f s).hif = s.hif := rfl
@[simp] theorem modPwr_pln (f : Pwr → Pwr) (s : State) : (modPwr f s).pln = s.pln := rfl
@[simp] theorem modPwr_cor (f : Pwr → Pwr) (s : State) : (modPwr f s).cor = s.cor := rfl
@[simp] theorem modPwr_vnl (f : Pwr → Pwr) (s : State) : (modPwr f s).vnl = s.vnl := rfl
@[simp] theorem modPwr_col (f : Pwr → Pwr) (s : State) : (modPwr f s).col = s.col := rfl
@[simp] theorem modPwr_stp (f : Pwr → Pwr) (s : State) : (modPwr f s).stp = s.stp := rfl
@[simp] theorem modPwr_rck (f : Pwr → Pwr) (s : State) : (modPwr f s).rck = s.rck := rfl
@[simp] theorem modPwr_cel (f : Pwr → Pwr) (s : State) : (modPwr f s).cel = s.cel := rfl
@[simp] theorem modPwr_pol (f : Pwr → Pwr) (s : State) : (modPwr f s).pol = s.pol := rfl
@[simp] theorem modPwr_err (f : Pwr → Pwr) (s : State) : (modPwr f s).err = s.err := rfl
@[simp] theorem modPwr_pwr (f : Pwr → Pwr) (s : State) : (modPwr f s).pwr = f s.pwr := rfl
@[simp] theorem modPwr_tim (f : Pwr → Pwr) (s : State) : (modPwr f s).tim = s.tim := rfl
@[simp] theorem modPwr_sec (f : Pwr → Pwr) (s : State) : (modPwr f s).sec = s.sec := rfl
@[simp] theorem modPwr_dbg (f : Pwr → Pwr) (s : State) : (modPwr f s).dbg = s.dbg := rfl
@[simp] theorem modPwr_boot (f : Pwr → Pwr) (s : State) : (modPwr f s).boot = s.boot := rfl
@[simp] theorem modPwr_book (f : Pwr → Pwr) (s : State) : (modPwr f s).book = s.book := rfl
@[simp] theorem modPwr_mram (f : Pwr → Pwr) (s : State) : (modPwr f s).mram = s.mram := rfl

/-! `modTim` -/

@[simp] theorem modTim_half (f : Tim → Tim) (s : State) : (modTim f s).half = s.half := rfl
@[simp] theorem modTim_moduleId (f : Tim → Tim) (s : State) : (modTim f s).moduleId = s.moduleId := rfl
@[simp] theorem modTim_pending (f : Tim → Tim) (s : State) : (modTim f s).pending = s.pending := rfl
@[simp] theorem modTim_tick (f : Tim → Tim) (s : State) : (modTim f s).tick = s.tick := rfl
@[simp] theorem modTim_free (f : Tim → Tim) (s : State) : (modTim f s).free = s.free := rfl
@[simp] theorem modTim_out (f : Tim → Tim) (s : State) : (modTim f s).out = s.out := rfl
@[simp] theorem modTim_mem (f : Tim → Tim) (s : State) : (modTim f s).mem = s.mem := rfl
@[simp] theorem modTim_regs (f : Tim → Tim) (s : State) : (modTim f s).regs = s.regs := rfl
@[simp] theorem modTim_grp (f : Tim → Tim) (s : State) : (modTim f s).grp = s.grp := rfl
@[simp] theorem modTim_hif (f : Tim → Tim) (s : State) : (modTim f s).hif = s.hif := rfl
@[simp] theorem modTim_pln (f : Tim → Tim) (s : State) : (modTim f s).pln = s.pln := rfl
@[simp] theorem modTim_cor (f : Tim → Tim) (s : State) : (modTim f s).cor = s.cor := rfl
@[simp] theorem modTim_vnl (f : Tim → Tim) (s : State) : (modTim f s).vnl = s.vnl := rfl
@[simp] theorem modTim_col (f : Tim → Tim) (s : State) : (modTim f s).col = s.col := rfl
@[simp] theorem modTim_stp (f : Tim → Tim) (s : State) : (modTim f s).stp = s.stp := rfl
@[simp] theorem modTim_rck (f : Tim → Tim) (s : State) : (modTim f s).rck = s.rck := rfl
@[simp] theorem modTim_cel (f : Tim → Tim) (s : State) : (modTim f s).cel = s.cel := rfl
@[simp] theorem modTim_pol (f : Tim → Tim) (s : State) : (modTim f s).pol = s.pol := rfl
@[simp] theorem modTim_err (f : Tim → Tim) (s : State) : (modTim f s).err = s.err := rfl
@[simp] theorem modTim_pwr (f : Tim → Tim) (s : State) : (modTim f s).pwr = s.pwr := rfl
@[simp] theorem modTim_tim (f : Tim → Tim) (s : State) : (modTim f s).tim = f s.tim := rfl
@[simp] theorem modTim_sec (f : Tim → Tim) (s : State) : (modTim f s).sec = s.sec := rfl
@[simp] theorem modTim_dbg (f : Tim → Tim) (s : State) : (modTim f s).dbg = s.dbg := rfl
@[simp] theorem modTim_boot (f : Tim → Tim) (s : State) : (modTim f s).boot = s.boot := rfl
@[simp] theorem modTim_book (f : Tim → Tim) (s : State) : (modTim f s).book = s.book := rfl
@[simp] theorem modTim_mram (f : Tim → Tim) (s : State) : (modTim f s).mram = s.mram := rfl

/-! `modSec` -/

@[simp] theorem modSec_half (f : Sec → Sec) (s : State) : (modSec f s).half = s.half := rfl
@[simp] theorem modSec_moduleId (f : Sec → Sec) (s : State) : (modSec f s).moduleId = s.moduleId := rfl
@[simp] theorem modSec_pending (f : Sec → Sec) (s : State) : (modSec f s).pending = s.pending := rfl
@[simp] theorem modSec_tick (f : Sec → Sec) (s : State) : (modSec f s).tick = s.tick := rfl
@[simp] theorem modSec_free (f : Sec → Sec) (s : State) : (modSec f s).free = s.free := rfl
@[simp] theorem modSec_out (f : Sec → Sec) (s : State) : (modSec f s).out = s.out := rfl
@[simp] theorem modSec_mem (f : Sec → Sec) (s : State) : (modSec f s).mem = s.mem := rfl
@[simp] theorem modSec_regs (f : Sec → Sec) (s : State) : (modSec f s).regs = s.regs := rfl
@[simp] theorem modSec_grp (f : Sec → Sec) (s : State) : (modSec f s).grp = s.grp := rfl
@[simp] theorem modSec_hif (f : Sec → Sec) (s : State) : (modSec f s).hif = s.hif := rfl
@[simp] theorem modSec_pln (f : Sec → Sec) (s : State) : (modSec f s).pln = s.pln := rfl
@[simp] theorem modSec_cor (f : Sec → Sec) (s : State) : (modSec f s).cor = s.cor := rfl
@[simp] theorem modSec_vnl (f : Sec → Sec) (s : State) : (modSec f s).vnl = s.vnl := rfl
@[simp] theorem modSec_col (f : Sec → Sec) (s : State) : (modSec f s).col = s.col := rfl
@[simp] theorem modSec_stp (f : Sec → Sec) (s : State) : (modSec f s).stp = s.stp := rfl
@[simp] theorem modSec_rck (f : Sec → Sec) (s : State) : (modSec f s).rck = s.rck := rfl
@[simp] theorem modSec_cel (f : Sec → Sec) (s : State) : (modSec f s).cel = s.cel := rfl
@[simp] theorem modSec_pol (f : Sec → Sec) (s : State) : (modSec f s).pol = s.pol := rfl
@[simp] theorem modSec_err (f : Sec → Sec) (s : State) : (modSec f s).err = s.err := rfl
@[simp] theorem modSec_pwr (f : Sec → Sec) (s : State) : (modSec f s).pwr = s.pwr := rfl
@[simp] theorem modSec_tim (f : Sec → Sec) (s : State) : (modSec f s).tim = s.tim := rfl
@[simp] theorem modSec_sec (f : Sec → Sec) (s : State) : (modSec f s).sec = f s.sec := rfl
@[simp] theorem modSec_dbg (f : Sec → Sec) (s : State) : (modSec f s).dbg = s.dbg := rfl
@[simp] theorem modSec_boot (f : Sec → Sec) (s : State) : (modSec f s).boot = s.boot := rfl
@[simp] theorem modSec_book (f : Sec → Sec) (s : State) : (modSec f s).book = s.book := rfl
@[simp] theorem modSec_mram (f : Sec → Sec) (s : State) : (modSec f s).mram = s.mram := rfl

/-! `modDbg` -/

@[simp] theorem modDbg_half (f : Dbg → Dbg) (s : State) : (modDbg f s).half = s.half := rfl
@[simp] theorem modDbg_moduleId (f : Dbg → Dbg) (s : State) : (modDbg f s).moduleId = s.moduleId := rfl
@[simp] theorem modDbg_pending (f : Dbg → Dbg) (s : State) : (modDbg f s).pending = s.pending := rfl
@[simp] theorem modDbg_tick (f : Dbg → Dbg) (s : State) : (modDbg f s).tick = s.tick := rfl
@[simp] theorem modDbg_free (f : Dbg → Dbg) (s : State) : (modDbg f s).free = s.free := rfl
@[simp] theorem modDbg_out (f : Dbg → Dbg) (s : State) : (modDbg f s).out = s.out := rfl
@[simp] theorem modDbg_mem (f : Dbg → Dbg) (s : State) : (modDbg f s).mem = s.mem := rfl
@[simp] theorem modDbg_regs (f : Dbg → Dbg) (s : State) : (modDbg f s).regs = s.regs := rfl
@[simp] theorem modDbg_grp (f : Dbg → Dbg) (s : State) : (modDbg f s).grp = s.grp := rfl
@[simp] theorem modDbg_hif (f : Dbg → Dbg) (s : State) : (modDbg f s).hif = s.hif := rfl
@[simp] theorem modDbg_pln (f : Dbg → Dbg) (s : State) : (modDbg f s).pln = s.pln := rfl
@[simp] theorem modDbg_cor (f : Dbg → Dbg) (s : State) : (modDbg f s).cor = s.cor := rfl
@[simp] theorem modDbg_vnl (f : Dbg → Dbg) (s : State) : (modDbg f s).vnl = s.vnl := rfl
@[simp] theorem modDbg_col (f : Dbg → Dbg) (s : State) : (modDbg f s).col = s.col := rfl
@[simp] theorem modDbg_stp (f : Dbg → Dbg) (s : State) : (modDbg f s).stp = s.stp := rfl
@[simp] theorem modDbg_rck (f : Dbg → Dbg) (s : State) : (modDbg f s).rck = s.rck := rfl
@[simp] theorem modDbg_cel (f : Dbg → Dbg) (s : State) : (modDbg f s).cel = s.cel := rfl
@[simp] theorem modDbg_pol (f : Dbg → Dbg) (s : State) : (modDbg f s).pol = s.pol := rfl
@[simp] theorem modDbg_err (f : Dbg → Dbg) (s : State) : (modDbg f s).err = s.err := rfl
@[simp] theorem modDbg_pwr (f : Dbg → Dbg) (s : State) : (modDbg f s).pwr = s.pwr := rfl
@[simp] theorem modDbg_tim (f : Dbg → Dbg) (s : State) : (modDbg f s).tim = s.tim := rfl
@[simp] theorem modDbg_sec (f : Dbg → Dbg) (s : State) : (modDbg f s).sec = s.sec := rfl
@[simp] theorem modDbg_dbg (f : Dbg → Dbg) (s : State) : (modDbg f s).dbg = f s.dbg := rfl
@[simp] theorem modDbg_boot (f : Dbg → Dbg) (s : State) : (modDbg f s).boot = s.boot := rfl
@[simp] theorem modDbg_book (f : Dbg → Dbg) (s : State) : (modDbg f s).book = s.book := rfl
@[simp] theorem modDbg_mram (f : Dbg → Dbg) (s : State) : (modDbg f s).mram = s.mram := rfl

/-! `modBoot` -/

@[simp] theorem modBoot_half (f : Boot → Boot) (s : State) : (modBoot f s).half = s.half := rfl
@[simp] theorem modBoot_moduleId (f : Boot → Boot) (s : State) : (modBoot f s).moduleId = s.moduleId := rfl
@[simp] theorem modBoot_pending (f : Boot → Boot) (s : State) : (modBoot f s).pending = s.pending := rfl
@[simp] theorem modBoot_tick (f : Boot → Boot) (s : State) : (modBoot f s).tick = s.tick := rfl
@[simp] theorem modBoot_free (f : Boot → Boot) (s : State) : (modBoot f s).free = s.free := rfl
@[simp] theorem modBoot_out (f : Boot → Boot) (s : State) : (modBoot f s).out = s.out := rfl
@[simp] theorem modBoot_mem (f : Boot → Boot) (s : State) : (modBoot f s).mem = s.mem := rfl
@[simp] theorem modBoot_regs (f : Boot → Boot) (s : State) : (modBoot f s).regs = s.regs := rfl
@[simp] theorem modBoot_grp (f : Boot → Boot) (s : State) : (modBoot f s).grp = s.grp := rfl
@[simp] theorem modBoot_hif (f : Boot → Boot) (s : State) : (modBoot f s).hif = s.hif := rfl
@[simp] theorem modBoot_pln (f : Boot → Boot) (s : State) : (modBoot f s).pln = s.pln := rfl
@[simp] theorem modBoot_cor (f : Boot → Boot) (s : State) : (modBoot f s).cor = s.cor := rfl
@[simp] theorem modBoot_vnl (f : Boot → Boot) (s : State) : (modBoot f s).vnl = s.vnl := rfl
@[simp] theorem modBoot_col (f : Boot → Boot) (s : State) : (modBoot f s).col = s.col := rfl
@[simp] theorem modBoot_stp (f : Boot → Boot) (s : State) : (modBoot f s).stp = s.stp := rfl
@[simp] theorem modBoot_rck (f : Boot → Boot) (s : State) : (modBoot f s).rck = s.rck := rfl
@[simp] theorem modBoot_cel (f : Boot → Boot) (s : State) : (modBoot f s).cel = s.cel := rfl
@[simp] theorem modBoot_pol (f : Boot → Boot) (s : State) : (modBoot f s).pol = s.pol := rfl
@[simp] theorem modBoot_err (f : Boot → Boot) (s : State) : (modBoot f s).err = s.err := rfl
@[simp] theorem modBoot_pwr (f : Boot → Boot) (s : State) : (modBoot f s).pwr = s.pwr := rfl
@[simp] theorem modBoot_tim (f : Boot → Boot) (s : State) : (modBoot f s).tim = s.tim := rfl
@[simp] theorem modBoot_sec (f : Boot → Boot) (s : State) : (modBoot f s).sec = s.sec := rfl
@[simp] theorem modBoot_dbg (f : Boot → Boot) (s : State) : (modBoot f s).dbg = s.dbg := rfl
@[simp] theorem modBoot_boot (f : Boot → Boot) (s : State) : (modBoot f s).boot = f s.boot := rfl
@[simp] theorem modBoot_book (f : Boot → Boot) (s : State) : (modBoot f s).book = s.book := rfl
@[simp] theorem modBoot_mram (f : Boot → Boot) (s : State) : (modBoot f s).mram = s.mram := rfl

/-! `modMram` -/

@[simp] theorem modMram_half (f : Mram → Mram) (s : State) : (modMram f s).half = s.half := rfl
@[simp] theorem modMram_moduleId (f : Mram → Mram) (s : State) : (modMram f s).moduleId = s.moduleId := rfl
@[simp] theorem modMram_pending (f : Mram → Mram) (s : State) : (modMram f s).pending = s.pending := rfl
@[simp] theorem modMram_tick (f : Mram → Mram) (s : State) : (modMram f s).tick = s.tick := rfl
@[simp] theorem modMram_free (f : Mram → Mram) (s : State) : (modMram f s).free = s.free := rfl
@[simp] theorem modMram_out (f : Mram → Mram) (s : State) : (modMram f s).out = s.out := rfl
@[simp] theorem modMram_mem (f : Mram → Mram) (s : State) : (modMram f s).mem = s.mem := rfl
@[simp] theorem modMram_regs (f : Mram → Mram) (s : State) : (modMram f s).regs = s.regs := rfl
@[simp] theorem modMram_grp (f : Mram → Mram) (s : State) : (modMram f s).grp = s.grp := rfl
@[simp] theorem modMram_hif (f : Mram → Mram) (s : State) : (modMram f s).hif = s.hif := rfl
@[simp] theorem modMram_pln (f : Mram → Mram) (s : State) : (modMram f s).pln = s.pln := rfl
@[simp] theorem modMram_cor (f : Mram → Mram) (s : State) : (modMram f s).cor = s.cor := rfl
@[simp] theorem modMram_vnl (f : Mram → Mram) (s : State) : (modMram f s).vnl = s.vnl := rfl
@[simp] theorem modMram_col (f : Mram → Mram) (s : State) : (modMram f s).col = s.col := rfl
@[simp] theorem modMram_stp (f : Mram → Mram) (s : State) : (modMram f s).stp = s.stp := rfl
@[simp] theorem modMram_rck (f : Mram → Mram) (s : State) : (modMram f s).rck = s.rck := rfl
@[simp] theorem modMram_cel (f : Mram → Mram) (s : State) : (modMram f s).cel = s.cel := rfl
@[simp] theorem modMram_pol (f : Mram → Mram) (s : State) : (modMram f s).pol = s.pol := rfl
@[simp] theorem modMram_err (f : Mram → Mram) (s : State) : (modMram f s).err = s.err := rfl
@[simp] theorem modMram_pwr (f : Mram → Mram) (s : State) : (modMram f s).pwr = s.pwr := rfl
@[simp] theorem modMram_tim (f : Mram → Mram) (s : State) : (modMram f s).tim = s.tim := rfl
@[simp] theorem modMram_sec (f : Mram → Mram) (s : State) : (modMram f s).sec = s.sec := rfl
@[simp] theorem modMram_dbg (f : Mram → Mram) (s : State) : (modMram f s).dbg = s.dbg := rfl
@[simp] theorem modMram_boot (f : Mram → Mram) (s : State) : (modMram f s).boot = s.boot := rfl
@[simp] theorem modMram_book (f : Mram → Mram) (s : State) : (modMram f s).book = s.book := rfl
@[simp] theorem modMram_mram (f : Mram → Mram) (s : State) : (modMram f s).mram = f s.mram := rfl

/-! `modMem` -/

@[simp] theorem modMem_half (f : List Host.Cell → List Host.Cell) (s : State) : (modMem f s).half = s.half := rfl
@[simp] theorem modMem_moduleId (f : List Host.Cell → List Host.Cell) (s : State) : (modMem f s).moduleId = s.moduleId := rfl
@[simp] theorem modMem_pending (f : List Host.Cell → List Host.Cell) (s : State) : (modMem f s).pending = s.pending := rfl
@[simp] theorem modMem_tick (f : List Host.Cell → List Host.Cell) (s : State) : (modMem f s).tick = s.tick := rfl
@[simp] theorem modMem_free (f : List Host.Cell → List Host.Cell) (s : State) : (modMem f s).free = s.free := rfl
@[simp] theorem modMem_out (f : List Host.Cell → List Host.Cell) (s : State) : (modMem f s).out = s.out := rfl
@[simp] theorem modMem_mem (f : List Host.Cell → List Host.Cell) (s : State) : (modMem f s).mem = f s.mem := rfl
@[simp] theorem modMem_regs (f : List Host.Cell → List Host.Cell) (s : State) : (modMem f s).regs = s.regs := rfl
@[simp] theorem modMem_grp (f : List Host.Cell → List Host.Cell) (s : State) : (modMem f s).grp = s.grp := rfl
@[simp] theorem modMem_hif (f : List Host.Cell → List Host.Cell) (s : State) : (modMem f s).hif = s.hif := rfl
@[simp] theorem modMem_pln (f : List Host.Cell → List Host.Cell) (s : State) : (modMem f s).pln = s.pln := rfl
@[simp] theorem modMem_cor (f : List Host.Cell → List Host.Cell) (s : State) : (modMem f s).cor = s.cor := rfl
@[simp] theorem modMem_vnl (f : List Host.Cell → List Host.Cell) (s : State) : (modMem f s).vnl = s.vnl := rfl
@[simp] theorem modMem_col (f : List Host.Cell → List Host.Cell) (s : State) : (modMem f s).col = s.col := rfl
@[simp] theorem modMem_stp (f : List Host.Cell → List Host.Cell) (s : State) : (modMem f s).stp = s.stp := rfl
@[simp] theorem modMem_rck (f : List Host.Cell → List Host.Cell) (s : State) : (modMem f s).rck = s.rck := rfl
@[simp] theorem modMem_cel (f : List Host.Cell → List Host.Cell) (s : State) : (modMem f s).cel = s.cel := rfl
@[simp] theorem modMem_pol (f : List Host.Cell → List Host.Cell) (s : State) : (modMem f s).pol = s.pol := rfl
@[simp] theorem modMem_err (f : List Host.Cell → List Host.Cell) (s : State) : (modMem f s).err = s.err := rfl
@[simp] theorem modMem_pwr (f : List Host.Cell → List Host.Cell) (s : State) : (modMem f s).pwr = s.pwr := rfl
@[simp] theorem modMem_tim (f : List Host.Cell → List Host.Cell) (s : State) : (modMem f s).tim = s.tim := rfl
@[simp] theorem modMem_sec (f : List Host.Cell → List Host.Cell) (s : State) : (modMem f s).sec = s.sec := rfl
@[simp] theorem modMem_dbg (f : List Host.Cell → List Host.Cell) (s : State) : (modMem f s).dbg = s.dbg := rfl
@[simp] theorem modMem_boot (f : List Host.Cell → List Host.Cell) (s : State) : (modMem f s).boot = s.boot := rfl
@[simp] theorem modMem_book (f : List Host.Cell → List Host.Cell) (s : State) : (modMem f s).book = s.book := rfl
@[simp] theorem modMem_mram (f : List Host.Cell → List Host.Cell) (s : State) : (modMem f s).mram = s.mram := rfl

/-! `emit` and `fresh` -/

@[simp] theorem emit_half (o : Out) (s : State) : (emit o s).half = s.half := rfl
@[simp] theorem emit_moduleId (o : Out) (s : State) : (emit o s).moduleId = s.moduleId := rfl
@[simp] theorem emit_pending (o : Out) (s : State) : (emit o s).pending = s.pending := rfl
@[simp] theorem emit_tick (o : Out) (s : State) : (emit o s).tick = s.tick := rfl
@[simp] theorem emit_free (o : Out) (s : State) : (emit o s).free = s.free := rfl
@[simp] theorem emit_out (o : Out) (s : State) : (emit o s).out = o :: s.out := rfl
@[simp] theorem emit_mem (o : Out) (s : State) : (emit o s).mem = s.mem := rfl
@[simp] theorem emit_regs (o : Out) (s : State) : (emit o s).regs = s.regs := rfl
@[simp] theorem emit_grp (o : Out) (s : State) : (emit o s).grp = s.grp := rfl
@[simp] theorem emit_hif (o : Out) (s : State) : (emit o s).hif = s.hif := rfl
@[simp] theorem emit_pln (o : Out) (s : State) : (emit o s).pln = s.pln := rfl
@[simp] theorem emit_cor (o : Out) (s : State) : (emit o s).cor = s.cor := rfl
@[simp] theorem emit_vnl (o : Out) (s : State) : (emit o s).vnl = s.vnl := rfl
@[simp] theorem emit_col (o : Out) (s : State) : (emit o s).col = s.col := rfl
@[simp] theorem emit_stp (o : Out) (s : State) : (emit o s).stp = s.stp := rfl
@[simp] theorem emit_rck (o : Out) (s : State) : (emit o s).rck = s.rck := rfl
@[simp] theorem emit_cel (o : Out) (s : State) : (emit o s).cel = s.cel := rfl
@[simp] theorem emit_pol (o : Out) (s : State) : (emit o s).pol = s.pol := rfl
@[simp] theorem emit_err (o : Out) (s : State) : (emit o s).err = s.err := rfl
@[simp] theorem emit_pwr (o : Out) (s : State) : (emit o s).pwr = s.pwr := rfl
@[simp] theorem emit_tim (o : Out) (s : State) : (emit o s).tim = s.tim := rfl
@[simp] theorem emit_sec (o : Out) (s : State) : (emit o s).sec = s.sec := rfl
@[simp] theorem emit_dbg (o : Out) (s : State) : (emit o s).dbg = s.dbg := rfl
@[simp] theorem emit_boot (o : Out) (s : State) : (emit o s).boot = s.boot := rfl
@[simp] theorem emit_book (o : Out) (s : State) : (emit o s).book = s.book := rfl
@[simp] theorem emit_mram (o : Out) (s : State) : (emit o s).mram = s.mram := rfl
@[simp] theorem fresh_half (w : Nat) (s : State) : (fresh w s).2.half = s.half := rfl
@[simp] theorem fresh_moduleId (w : Nat) (s : State) : (fresh w s).2.moduleId = s.moduleId := rfl
@[simp] theorem fresh_pending (w : Nat) (s : State) : (fresh w s).2.pending = s.pending := rfl
@[simp] theorem fresh_tick (w : Nat) (s : State) : (fresh w s).2.tick = s.tick := rfl
@[simp] theorem fresh_free (w : Nat) (s : State) : (fresh w s).2.free = s.free + 1 := rfl
@[simp] theorem fresh_out (w : Nat) (s : State) : (fresh w s).2.out = s.out := rfl
@[simp] theorem fresh_mem (w : Nat) (s : State) : (fresh w s).2.mem = s.mem := rfl
@[simp] theorem fresh_regs (w : Nat) (s : State) : (fresh w s).2.regs = s.regs := rfl
@[simp] theorem fresh_grp (w : Nat) (s : State) : (fresh w s).2.grp = s.grp := rfl
@[simp] theorem fresh_hif (w : Nat) (s : State) : (fresh w s).2.hif = s.hif := rfl
@[simp] theorem fresh_pln (w : Nat) (s : State) : (fresh w s).2.pln = s.pln := rfl
@[simp] theorem fresh_cor (w : Nat) (s : State) : (fresh w s).2.cor = s.cor := rfl
@[simp] theorem fresh_vnl (w : Nat) (s : State) : (fresh w s).2.vnl = s.vnl := rfl
@[simp] theorem fresh_col (w : Nat) (s : State) : (fresh w s).2.col = s.col := rfl
@[simp] theorem fresh_stp (w : Nat) (s : State) : (fresh w s).2.stp = s.stp := rfl
@[simp] theorem fresh_rck (w : Nat) (s : State) : (fresh w s).2.rck = s.rck := rfl
@[simp] theorem fresh_cel (w : Nat) (s : State) : (fresh w s).2.cel = s.cel := rfl
@[simp] theorem fresh_pol (w : Nat) (s : State) : (fresh w s).2.pol = s.pol := rfl
@[simp] theorem fresh_err (w : Nat) (s : State) : (fresh w s).2.err = s.err := rfl
@[simp] theorem fresh_pwr (w : Nat) (s : State) : (fresh w s).2.pwr = s.pwr := rfl
@[simp] theorem fresh_tim (w : Nat) (s : State) : (fresh w s).2.tim = s.tim := rfl
@[simp] theorem fresh_sec (w : Nat) (s : State) : (fresh w s).2.sec = s.sec := rfl
@[simp] theorem fresh_dbg (w : Nat) (s : State) : (fresh w s).2.dbg = s.dbg := rfl
@[simp] theorem fresh_boot (w : Nat) (s : State) : (fresh w s).2.boot = s.boot := rfl
@[simp] theorem fresh_book (w : Nat) (s : State) : (fresh w s).2.book = s.book := rfl
@[simp] theorem fresh_mram (w : Nat) (s : State) : (fresh w s).2.mram = s.mram := rfl

end Sys2Proof.Machine
end

