-- ==== Sys2Proof/WellFormed.lean ====
section
/-!
DEFINITION. WellFormed.lean: which commands can be spelled: identifiers within the widths of Table 00.7 and the units of Table 00.1.
-/
namespace Sys2Proof

/-- A number below a bound. -/
def below (n x : Nat) : Bool := decide (x < n)
/-- A list of a fixed length. -/
def lenIs (n : Nat) (l : List Byte) : Bool := decide (l.length = n)
/-- The VF of an accessor is 1 to 63 (Table 02.1). -/
def accOk (a : Acc) : Bool :=
  match a with
  | .vf n _ => decide (1 ≤ n) && decide (n ≤ 63)
  | .cfg n => decide (n ≤ 63)
  | .pf0 | .policy | .tap => true
/-- A register of the context image holds an access of some bytes (Table 04.5). -/
def dstOk (off n : Nat) : Bool := decide (0x410000 ≤ off) && decide (off + n ≤ 0x410A00)
/-- An access to the tile interface that is a command of its own: a push, a wait load, a write to a counter or pool (R234). -/
def tiCommand (st : Bool) (a : Nat) : Bool :=
  decide (0x20000000 ≤ a) && decide (a < 0x20001000) &&
    (let o := a - 0x20000000
     if st then decide (o = 0x10) || decide (0x400 ≤ o) else decide (0x800 ≤ o) && (decide (o < 0xC00) || decide (0xD00 ≤ o)))
/-- A thing a hart did that a run can hold. -/
def hartOpOk (o : HartOp) : Bool :=
  match o with
  | .load a n e d => (n == 1 || n == 2 || n == 4 || n == 8) && dstOk d (if e = .elem then n else 8) && !tiCommand false a
  | .store a b => (b.length == 1 || b.length == 2 || b.length == 4 || b.length == 8) && !tiCommand true a
  | .amo a b _ d => (b.length == 4 || b.length == 8) && dstOk d 8 && !tiCommand true a && !tiCommand false a
  | .reg o b => dstOk o b.length
  | .csr i d => below 3 i && dstOk d 8
  | .vcsr v l f => below (2 ^ 64) v && below (2 ^ 64) l && below 256 f
  | .ran _ _ _ => true
def runOk (r : HartRun) : Bool := r.all hartOpOk

/-- A command that can be spelled. -/
def Instr.wellFormed (i : Instr) : Bool :=
  match i with
  | .powerOn => true
  | .auxRailLow => true
  | .inputLow => true
  | .inputOvervoltage => true
  | .inputQualified => true
  | .resetAssert => true
  | .resetRelease => true
  | .tapReset => true
  | .hostLinkDown => true
  | .hostLinkUp _ _ _ => true
  | .hifLinkResume => true
  | .flrVf n => below 64 n
  | .vfDisable _ _ => true
  | .flrPf0 => true
  | .hotReset => true
  | .atsInvalidation fn _ _ _ => below 64 fn
  | .msixUnmask acc _ => accOk acc
  | .msixModExpiry r => below 1048576 r
  | .doorbell acc _ _ _ _ => accOk acc
  | .fetchIssue r _ => below 1048576 r
  | .fetchReadDone r _ _ _ => below 1048576 r
  | .selectorWrite acc _ _ => accOk acc
  | .registerWrite acc _ _ => accOk acc
  | .commitApply _ _ => true
  | .hifTenCommit acc => accOk acc
  | .hifTenAbort acc => accOk acc
  | .rngCommit acc => accOk acc
  | .rngAbort acc => accOk acc
  | .plnCommit acc => accOk acc
  | .plnAbort acc => accOk acc
  | .plnTqCommit acc => accOk acc
  | .plnTqAbort acc => accOk acc
  | .memRsvCommit acc => accOk acc
  | .memRsvAbort acc => accOk acc
  | .memThermCommit acc => accOk acc
  | .memThermAbort acc => accOk acc
  | .corCommit acc win => accOk acc && below 128 win
  | .corAbort acc win => accOk acc && below 128 win
  | .corTerCommit acc win => accOk acc && below 128 win
  | .corTerAbort acc win => accOk acc && below 128 win
  | .arrCommit acc => accOk acc
  | .arrAbort acc => accOk acc
  | .fmtCommit acc => accOk acc
  | .fmtAbort acc => accOk acc
  | .vnlPortCommit acc win => accOk acc && below 128 win
  | .vnlPortAbort acc win => accOk acc && below 128 win
  | .vnlPclCommit acc => accOk acc
  | .vnlPclAbort acc => accOk acc
  | .colCommit acc => accOk acc
  | .colAbort acc => accOk acc
  | .stpTenCommit acc => accOk acc
  | .stpTenAbort acc => accOk acc
  | .rckTenCommit acc => accOk acc
  | .rckTenAbort acc => accOk acc
  | .rckWearCommit acc => accOk acc
  | .rckWearAbort acc => accOk acc
  | .celCommit acc => accOk acc
  | .celAbort acc => accOk acc
  | .celSvcCommit acc => accOk acc
  | .celSvcAbort acc => accOk acc
  | .celTblLoad acc => accOk acc
  | .celTblAbort acc => accOk acc
  | .celTblUnload acc => accOk acc
  | .errCommit acc => accOk acc
  | .errAbort acc => accOk acc
  | .pwrCommit acc => accOk acc
  | .pwrAbort acc => accOk acc
  | .timCommit acc => accOk acc
  | .timAbort acc => accOk acc
  | .secKeyInstall acc => accOk acc
  | .secKeyAbort acc => accOk acc
  | .secKeyDestroy acc => accOk acc
  | .secOpen acc _ => accOk acc
  | .secClose acc => accOk acc
  | .secClearRetire acc => accOk acc
  | .secSeal acc _ => accOk acc
  | .secRetire acc _ => accOk acc
  | .dbgCommit acc => accOk acc
  | .dbgAbort acc => accOk acc
  | .dbgTenCommit acc => accOk acc
  | .dbgTenAbort acc => accOk acc
  | .bootCommit acc => accOk acc
  | .bootAbort acc => accOk acc
  | .vnlErrClr acc p => accOk acc && below 16 p
  | .vnlMemoClrLinks acc => accOk acc
  | .vnlMemoClrRoutes acc => accOk acc
  | .rckSlotRelease acc _ _ => accOk acc
  | .switchover acc => accOk acc
  | .restartStandby acc => accOk acc
  | .errClr acc => accOk acc
  | .pwrReqAwake acc => accOk acc
  | .pwrReqDormant acc => accOk acc
  | .pwrReqStandby acc => accOk acc
  | .timNowNs acc => accOk acc
  | .timNtpOk acc => accOk acc
  | .timTxqPop acc => accOk acc
  | .modBlkDrain acc _ => accOk acc
  | .modBlkReset acc _ => accOk acc
  | .bootFenceClr acc => accOk acc
  | .bookCurNext acc => accOk acc
  | .bookClear acc => accOk acc
  | .dbgFrostFreeze acc => accOk acc
  | .dbgFrostResume acc => accOk acc
  | .frostStopped cut => cut.fifos.all (fun x =>
      decide (x.taken ≤ x.wrote) && decide (x.wrote ≤ x.taken + 2 ^ x.log2) && decide (x.words.length = x.wrote - x.taken))
  | .dbgScanData acc => accOk acc
  | .dbgTraceData acc => accOk acc
  | .nop tag => below 1048576 tag
  | .fence tag => below 1048576 tag
  | .dmaH2d tag _ _ => below 1048576 tag
  | .dmaD2h tag => below 1048576 tag
  | .dmaCopy tag => below 1048576 tag
  | .dmaFill tag => below 1048576 tag
  | .dmaDone tag => below 1048576 tag
  | .handleCreate tag _ => below 1048576 tag
  | .handleFree tag => below 1048576 tag
  | .handleHint tag => below 1048576 tag
  | .handleQuery tag => below 1048576 tag
  | .launch tag => below 1048576 tag
  | .launchCoreStart tag c => below 1048576 tag && below 128 c
  | .tileFire c => below 128 c
  | .tileComplete c i => below 128 c && below 64 i
  | .tokenPost _ => true
  | .plotEnd c r => below 128 c && runOk r
  | .plotAbort c r _ => below 128 c && runOk r
  | .hartException c r _ => below 128 c && runOk r
  | .corTiPush c r _ => below 128 c && runOk r
  | .corTiWait c r w => below 128 c && runOk r && below 256 w.idx && below 32 w.rd
  | .corTiPwait c r w => below 128 c && runOk r && below 64 w.idx && below 32 w.rd
  | .corTiCnt c r i _ => below 128 c && runOk r && below 256 i
  | .corTiPool c r i _ => below 128 c && runOk r && below 64 i
  | .launchTimeout tag => below 1048576 tag
  | .quantumExpiry c => below 128 c
  | .preemptLimit c => below 128 c
  | .swapDone c => below 128 c
  | .segmentZeroizeDone die seg => below 4 die && below 64 seg
  | .cclkStep d => below 4 d
  | .planterDecay => true
  | .pageZeroizeDone tier stack => below 3 tier && below 8 stack
  | .migrationCopyDone h p => below 16777216 h && below 1048576 p
  | .migrationBackoffEnd _ => true
  | .promotionDone _ => true
  | .pressLineTimeout stack h _ => below 8 stack && below 16777216 h
  | .stackTempSample k _ => below 8 k
  | .stackLost k => below 8 k
  | .ucieLaneLost d => below 4 d
  | .refclkLost => true
  | .refclkHoldoverEnd => true
  | .allreduce tag => below 1048576 tag
  | .reduceScatter tag => below 1048576 tag
  | .allgather tag => below 1048576 tag
  | .broadcast tag => below 1048576 tag
  | .barrier tag => below 1048576 tag
  | .contribution _ => true
  | .globalPartial _ => true
  | .globalResult _ => true
  | .gatherData _ => true
  | .barrierEnter _ => true
  | .barrierRelease _ => true
  | .collectiveDone tag => below 1048576 tag
  | .collTimeout tag => below 1048576 tag
  | .stepOpen tag => below 1048576 tag
  | .stepSeal tag => below 1048576 tag
  | .stepResync tag => below 1048576 tag
  | .stepQuery tag => below 1048576 tag
  | .stepReport _ => true
  | .stepDraw _ => true
  | .stepFail _ => true
  | .drawTimeout t _ => below 4096 t
  | .drawSplitTimeout t _ => below 4096 t
  | .preimageCopyDone h p b => below 16777216 h && below 1048576 p && below 512 b
  | .restoreDone t _ => below 4096 t
  | .mustHoldWriteDone => true
  | .rackTake tag => below 1048576 tag
  | .rackKey tag => below 1048576 tag
  | .rackRestore tag => below 1048576 tag
  | .rackSeed tag => below 1048576 tag
  | .rackQuery tag => below 1048576 tag
  | .rackMarksDone => true
  | .rackCowCopyDone h p b => below 16777216 h && below 1048576 p && below 512 b
  | .copyPassDone _ => true
  | .rackDrainDone _ => true
  | .graftOfferReq _ => true
  | .graftOffer _ => true
  | .graftData _ => true
  | .graftCommit _ => true
  | .graftAck _ => true
  | .graftHash _ => true
  | .graftReadReq _ => true
  | .graftReadData _ => true
  | .hashCompareTimeout _ => true
  | .restoreReadTimeout tag => below 1048576 tag
  | .seedDonorTimeout _ => true
  | .wearBucketTick => true
  | .tenantZeroizeDone t => below 4096 t
  | .trigArm tag => below 1048576 tag
  | .trigCancel tag => below 1048576 tag
  | .triggerFire k => below 64 k
  | .slewDone => true
  | .tpInEdge _ => true
  | .tpinMiss => true
  | .ntpTimeout => true
  | .tpOutFall => true
  | .flitReceive p _ _ env plain => below 16 p && lenIs 288 env && lenIs 256 plain
  | .retryTimeout p => below 16 p
  | .windowRestart p => below 16 p
  | .hbTimer => true
  | .lightLost p => below 16 p
  | .lightStable p => below 16 p
  | .portIdentify p _ _ _ => below 16 p
  | .identTimeout p => below 16 p
  | .identifyRetry p _ _ _ => below 16 p
  | .equalizeDone p _ _ => below 16 p
  | .alignDone p _ => below 16 p
  | .retrainDone p _ => below 16 p
  | .hsHello p => below 16 p
  | .hsCert p => below 16 p
  | .hsToken p => below 16 p
  | .hsVerdict p => below 16 p
  | .hsWait p => below 16 p
  | .handshakeResend p => below 16 p
  | .handshakeTimeout p => below 16 p
  | .handshakeRestart p => below 16 p
  | .tokenSignDone p => below 16 p
  | .tokenVerifyDone p => below 16 p
  | .slotLost b k => below 4 b && below 12 k
  | .marginMeasure p lane _ _ => below 16 p && below 8 lane
  | .commitStrobe => true
  | .cycleFreeze _ _ _ _ _ => true
  | .imageReceive _ => true
  | .imageAck => true
  | .batchReceive _ => true
  | .pathSilence _ _ => true
  | .watchdogExpiry => true
  | .cellarerUe => true
  | .ownGrant => true
  | .ownDefaultTimeout => true
  | .standbySyncDone => true
  | .noBatchTimeout => true
  | .svcHeartbeatTimer => true
  | .svcHeartbeat _ _ => true
  | .svcNotice _ _ => true
  | .svcDivert _ _ _ => true
  | .arpRequest _ _ => true
  | .neighborSolicitation _ _ => true
  | .icmpEcho _ _ _ => true
  | .ntpResponse _ => true
  | .peerLinkSilence b k => below 4 b && below 12 k
  | .peerSvcSilence e => below 32 e
  | .portTimerExpiry p => below 16 p
  | .wiltMarginClear p => below 16 p
  | .faultReport _ _ core t h _ => below 256 core && below 4096 t && below 16777216 h
  | .faultMessage => true
  | .complexResetRelease => true
  | .correctedError u => below 20 u
  | .scrubUe h p b => below 16777216 h && below 1048576 p && below 512 b
  | .stressHeatDone d => below 4 d
  | .stressPassDone d corner again => below 4 d && below 4294967296 corner && below 4294967296 again
  | .clampEngage _ => true
  | .clampStep => true
  | .clampRelease => true
  | .pacingWindow _ => true
  | .capUnmetTimeout => true
  | .dieTempSample d t => below 4 d && below 4096 t
  | .vintageRead _ => true
  | .marginSweepDone d _ => below 4 d
  | .replanTimer => true
  | .idleTimer => true
  | .dormantEntryDone => true
  | .dormantExitDone => true
  | .openedExpiry => true
  | .serviceKeyGraceEnd => true
  | .getVersion => true
  | .getCapabilities => true
  | .negotiateAlgorithms _ => true
  | .getDigests => true
  | .getCertificate _ _ _ => true
  | .spdmChallenge _ _ => true
  | .getMeasurements _ _ _ => true
  | .keyExchange _ _ _ => true
  | .spdmFinish _ _ => true
  | .endSession _ => true
  | .spdmHeartbeat _ => true
  | .keyUpdate _ _ => true
  | .chunkSend _ _ => true
  | .chunkGet _ _ => true
  | .ideQuery _ => true
  | .keyProg _ k => below 9 k
  | .kSetGo _ k => below 9 k
  | .kSetStop _ k => below 9 k
  | .getTdispVersion _ => true
  | .getTdispCapabilities _ => true
  | .lockInterface _ v => below 64 v
  | .getDeviceInterfaceReport _ v => below 64 v
  | .getDeviceInterfaceState _ v => below 64 v
  | .startInterface _ v _ => below 64 v
  | .stopInterface _ v => below 64 v
  | .traceSample c _ _ _ _ _ => below 128 c
  | .extest => true
  | .idcode => true
  | .samplePreload _ _ => true
  | .tapClamp => true
  | .highz => true
  | .extestPulse => true
  | .extestTrain => true
  | .dbgAccess _ _ _ => true
  | .caveDbg _ _ _ => true
  | .tapBypass => true
  | .bootStepDone _ _ _ mask => below 4294967296 mask
  | .bootStepLimit _ mask => below 4294967296 mask
  | .updDownload acc => accOk acc
  | .updVerify acc => accOk acc
  | .updActivate acc => accOk acc
  | .updConfirm acc => accOk acc
  | .updAbort acc => accOk acc
  | .downloadDone _ => true
  | .verifyDone => true
  | .hoursPersist => true
  | .keepaliveEdge _ => true
  | .standbyCycle => true
  | .standbyBootDone => true
  | .holdUpRunDown => true
  | .standbyEntryDone => true
  | .tpOutRise => true
  | .caveHealthTestFail d _ => below 4 d
  | .inBandInterrupt _ => true
  | .scrubPassDone tier => below 3 tier
  | .frostResumeDone => true

end Sys2Proof
end

