-- ==== Sys2Proof/Tests/Slice0.lean ====
section
/-!
SUPPORT. Tests/Slice0.lean: for every statement a state and operands that meet the premises of each of its clauses; one ill-formed command for each
check of WellFormed; a few values the spec prints. Section Snn holds the witnesses of one chapter's statements.
-/
namespace Sys2Proof.Tests

set_option linter.unusedVariables false
set_option Elab.async false

open Sys2Proof Sys2Proof.Machine

/-- The module after start-up: Full power, host link up, owner CA. -/
def up : State :=
  { State.reset with
    pwr := { State.reset.pwr with st := .full }
    boot := { State.reset.boot with step := 0, b01Done := true, hostReady := true, ready := true }
    hif := { up := true }
    cel := { own := 0, ca := 5, cb := 4, firstCycle := true } }
/-- Bytes of a descriptor: zero but for the fields given as (offset, length, value). -/
def dsc (fs : List (Nat × Nat × Nat)) : List Byte :=
  fs.foldl (fun d f => d.take f.1 ++ leB f.2.1 f.2.2 ++ d.drop (f.1 + f.2.1)) (zeros 64)
/-- A live descriptor of tenant 1, ring 1, which asks for its completion. -/
def lv (fs : List (Nat × Nat × Nat)) : Live := { ring := 257, count := 0, desc := dsc ([(1, 1, 1), (2, 1, 1)] ++ fs) }
/-- Tenant 1 is ACTIVE with completion ring 0, submission ring 1 and event ring 2, and these descriptors are live. -/
def ten (live : List (Nat × Live)) : State :=
  csetPut .hifTen 1 0 0x80000000 (csetPut .hifTen 1 3 0x80000002
    (csetPut .rng 256 2 0x80000106 (csetPut .rng 257 2 0x80001006 (csetPut .rng 258 2 0x80000206
      { up with hif := { up.hif with
        tens := [(1, { st := .active })]
        rings := [(256, { st := .active }), (257, { st := .active, latched := 8, fetched := 1 }), (258, { st := .active })]
        live := live } }))))
/-- The same with step 5 of tenant 1 open. -/
def run1 (s : State) : State := modTstep 1 (fun _ => { st := .run, steps := [{ num := 5 }], next := some 6 }) s
/-- Binding 0 joins tenant 1 to parcel 0x77 of two members, this module at the coordinate. -/
def bnd (coord : Nat) (s : State) : State :=
  csetPut .vnlPcl 0 0 0x80010077 (csetPut .vnlPcl 0 1 (wordOf (0x10000 + coord))
    { s with
      pol := { s.pol with tables := [(65, { loaded := true, body := [0, 1, 0, 0, 1, 0, 0, 0, 0, 0, 0, 0, 0, 0, 0, 0, 3, 0, 0, 0] ++ zeros 44 })] }
      vnl := { s.vnl with binds := [(0, { members := [(10, true), (11, true)], hops := [some 0, some 1], maxHops := 1, ready := true })] } })
/-- A message received on binding 0. -/
def inb (m : List Byte) (s : State) : State := modVnl (fun v => { v with inbox := [(0, m)] }) s
/-- 256 bytes but for the fields given. -/
def msg (fs : List (Nat × Nat × Nat)) : List Byte :=
  fs.foldl (fun d f => d.take f.1 ++ leB f.2.1 f.2.2 ++ d.drop (f.1 + f.2.1)) (zeros 256)
/-- A handle of tenant 1 with one page in T1. -/
def hnd1 (h : Nat) (s : State) : State :=
  modPln (fun p => { p with hnds := Map.put p.hnds h { tenant := 1, size := 0x200000 }, pages := Map.put p.pages (pageKey h 0) { tier := 1 } }) s
/-- A little-endian number has the bytes asked for. -/
theorem leB_len (n x : Nat) : (leB n x).length = n := by
  induction n generalizing x with
  | zero => rfl
  | succ k ih => simp [leB, ih]
/-- The CRC of an envelope closed by `envClose` holds. -/
theorem crc_env (b : List Byte) (n : Nat) (h : b.length = 280) :
    fieldAt (envClose b n) 284 4 = (crc32c ((envClose b n).take 284)).toNat := by
  have hx : (b ++ leB 4 n).length = 284 := by simp [h, leB]
  have ht : (b ++ leB 4 n ++ leB 4 (crc32c (b ++ leB 4 n)).toNat).take 284 = b ++ leB 4 n := by rw [← hx, List.take_left]
  have hd : ∀ l : List Byte, (b ++ leB 4 n ++ l).drop 284 = l := fun l => by rw [← hx, List.drop_left]
  have hc : ∀ c : BitVec 32, ofLe ((leB 4 c.toNat).take 4) = c.toNat := fun c => by
    have := c.isLt
    simp [leB, ofLe, BitVec.toNat_ofNat]
    omega
  rw [fieldAt, envClose, ht, hd, hc]

/-- What `Starts` asks, one evaluation. -/
theorem starts_of {s : State} {tag op : Nat} {l : Live} {st : Option Nat} (hg : gateOf s tag op = .go st)
    (h : liveRec s tag = some l ∧ s.hif.up = true ∧ s.hif.resumePending = false ∧ ∀ r ∈ (tstep s (liveTen l)).steps, r.sealTag = none) :
    Starts s tag op l st :=
  ⟨h.1, hg, h.2.1, h.2.2.1, h.2.2.2⟩

/-- The premise of EveryStepKeepsTheInvariant is met by the machine after reset. -/
theorem wit_EveryStepKeepsTheInvariant : ∃ s : State, Inv s :=
  ⟨State.reset, rfl, rfl, by decide, by decide, fun x hx => by cases hx⟩

namespace S01

/-- The premises of CommitWriteQueues are met. -/
theorem wit_CommitWriteQueues :
    ∃ (c : Instr) (k : CommitOf) (s : State), (grpReach s k.grp k.acc k.win = true ∧ dbgGrpOpen s k.grp = true ∧ ((s.boot.hostReady = true ∨ memb
      (blockOf k.grp.cstat) [0, 17, 15, 11, 18, 16] = true))) ∧ (IsCommit c k) :=
  ⟨(.plnCommit .pf0), (⟨.pln, .pf0, 0, 1⟩), up, by decide +kernel, by constructor⟩

/-- The premises of AbortWriteReloads are met. -/
theorem wit_AbortWriteReloads :
    ∃ (c : Instr) (g : Grp) (acc : Acc) (win : Nat) (o : Nat) (s : State), (grpReach s g acc win = true ∧ selObj s g acc win = some o) ∧ (IsAbort c g
      acc win) :=
  ⟨(.plnAbort .pf0), .pln, .pf0, 0, 0, up, by decide +kernel, by constructor⟩

end S01

namespace S02

def pc : PendCommit := { acc := 0, grp := .pln, win := 0, obj := some 0, cmd := 1, snap := (List.range Grp.pln.size).map (fun i => Grp.pln.reset false i) }
def upC : State := modGrp (fun g => { g with pend := [pc] }) up
def pcB : PendCommit := { pc with snap := (List.range Grp.pln.size).map (fun _ => 0xFFFFFFFF) }
def upCB : State := modGrp (fun g => { g with pend := [pcB] }) up

/-- The premises of each clause of CommitApply are met, once for each of its cases. -/
theorem wit_CommitApply :
    (∃ (i : Nat) (o : Nat) (rd : Option (List Byte)) (c : PendCommit) (s : State), s.grp.pend[i]? = some c ∧ commitWaits s i c = false ∧ c.obj = some
      o ∧ c.snap.length = c.grp.size ∧ c.grp ∈ [Grp.pln, .plnTq, .memRsv, .memTherm, .arr, .col, .stpTen, .rckTen, .rckWear, .err, .dbg, .boot] ∧
      firstFail (commitChecks (modGrp (fun g => { g with pend := g.pend.eraseIdx i }) s) c o rd) = none) ∧
    (∃ (i : Nat) (o : Nat) (res : Nat) (off : Nat) (rd : Option (List Byte)) (c : PendCommit) (s : State), s.grp.pend[i]? = some c ∧ commitWaits s i
      c = false ∧ c.obj = some o ∧ firstFail (commitChecks (modGrp (fun g => { g with pend := g.pend.eraseIdx i }) (readCommit c rd s).2) c o
      (readCommit c rd s).1) = some (res, off)) :=
  ⟨⟨0, 0, none, pc, upC, by decide +kernel⟩,
   ⟨0, 0, (((firstFail (commitChecks (modGrp (fun g => { g with pend := g.pend.eraseIdx 0 }) upCB) pcB 0 none)).getD (0,0)).1), (((firstFail
      (commitChecks (modGrp (fun g => { g with pend := g.pend.eraseIdx 0 }) upCB) pcB 0 none)).getD (0,0)).2), none, pcB, upCB, by decide +kernel⟩⟩

end S02

namespace S03

def rg (f : Ring → Ring) (r : Nat) : State := modRing r f (ten [])

/-- The premises of DoorbellIgnored are met. -/
theorem wit_DoorbellIgnored :
    ∃ (acc : Acc) (page : Nat) (off : Nat) (size : Nat) (value : Nat) (s : State), nclkOn s = true ∧ accLocked s acc = false ∧ ((off ≠ 0 ∨ size ≠ 8 ∨
      (∀ t, pageTen s acc page = some t → tenActive s t = false ∨ (ringRec s (t * 256 + bitsOf value 39 32)).st ≠ .active))) :=
  ⟨.pf0, 1, 4, 8, 0, (ten []), by decide +kernel⟩

/-- The premises of each clause of SubmissionDoorbell are met, once for each of its cases. -/
theorem wit_SubmissionDoorbell :
    (∃ (acc : Acc) (page : Nat) (t : Nat) (value : Nat) (r : Nat) (a : Nat) (s : State), nclkOn s = true ∧ accLocked s acc = false ∧ pageTen s acc
      page = some t ∧ tenActive s t = true ∧ r = t * 256 + bitsOf value 39 32 ∧ (ringRec s r).st = .active ∧ ringType s r = 0 ∧ evqRing s t ≠ r ∧ a =
      (bitsOf value 31 0 + 2 ^ 32 - (ringRec s r).latched % 2 ^ 32) % 2 ^ 32) ∧
    (∃ (acc : Acc) (page : Nat) (t : Nat) (value : Nat) (r : Nat) (a : Nat) (s : State), nclkOn s = true ∧ accLocked s acc = false ∧ pageTen s acc
      page = some t ∧ tenActive s t = true ∧ r = t * 256 + bitsOf value 39 32 ∧ (ringRec s r).st = .active ∧ ringType s r = 0 ∧ evqRing s t ≠ r ∧ a =
      (bitsOf value 31 0 + 2 ^ 32 - (ringRec s r).latched % 2 ^ 32) % 2 ^ 32) ∧
    (∃ (acc : Acc) (page : Nat) (t : Nat) (value : Nat) (r : Nat) (a : Nat) (s : State), nclkOn s = true ∧ accLocked s acc = false ∧ pageTen s acc
      page = some t ∧ tenActive s t = true ∧ r = t * 256 + bitsOf value 39 32 ∧ (ringRec s r).st = .active ∧ ringType s r = 0 ∧ evqRing s t ≠ r ∧ a =
      (bitsOf value 31 0 + 2 ^ 32 - (ringRec s r).latched % 2 ^ 32) % 2 ^ 32) ∧
    (∃ (acc : Acc) (page : Nat) (t : Nat) (value : Nat) (r : Nat) (a : Nat) (s : State), nclkOn s = true ∧ accLocked s acc = false ∧ pageTen s acc
      page = some t ∧ tenActive s t = true ∧ r = t * 256 + bitsOf value 39 32 ∧ (ringRec s r).st = .active ∧ ringType s r = 0 ∧ evqRing s t ≠ r ∧ a =
      (bitsOf value 31 0 + 2 ^ 32 - (ringRec s r).latched % 2 ^ 32) % 2 ^ 32) :=
  ⟨⟨.pf0, 1, 1, (0x100000000+9), 257, 1, (ten []), by decide +kernel⟩,
   ⟨.pf0, 1, 1, 0x100000005, 257, 0xFFFFFFFD, (ten []), by decide +kernel⟩,
   ⟨.pf0, 1, 1, 0x100000100, 257, 0xF8, (ten []), by decide +kernel⟩,
   ⟨.pf0, 1, 1, 0x100000008, 257, 0, (ten []), by decide +kernel⟩⟩

/-- The premises of each clause of ConsumerDoorbell are met, once for each of its cases. -/
theorem wit_ConsumerDoorbell :
    (∃ (acc : Acc) (page : Nat) (t : Nat) (value : Nat) (r : Nat) (a : Nat) (s : State), nclkOn s = true ∧ accLocked s acc = false ∧ pageTen s acc
      page = some t ∧ tenActive s t = true ∧ r = t * 256 + bitsOf value 39 32 ∧ (ringRec s r).st = .active ∧ ringType s r ≠ 0 ∧ a = (bitsOf value 31
      0 + 2 ^ 32 - (ringRec s r).consumed % 2 ^ 32) % 2 ^ 32) ∧
    (∃ (acc : Acc) (page : Nat) (t : Nat) (value : Nat) (r : Nat) (a : Nat) (s : State), nclkOn s = true ∧ accLocked s acc = false ∧ pageTen s acc
      page = some t ∧ tenActive s t = true ∧ r = t * 256 + bitsOf value 39 32 ∧ (ringRec s r).st = .active ∧ ringType s r ≠ 0 ∧ a = (bitsOf value 31
      0 + 2 ^ 32 - (ringRec s r).consumed % 2 ^ 32) % 2 ^ 32) ∧
    (∃ (acc : Acc) (page : Nat) (t : Nat) (value : Nat) (r : Nat) (a : Nat) (s : State), nclkOn s = true ∧ accLocked s acc = false ∧ pageTen s acc
      page = some t ∧ tenActive s t = true ∧ r = t * 256 + bitsOf value 39 32 ∧ (ringRec s r).st = .active ∧ ringType s r ≠ 0 ∧ a = (bitsOf value 31
      0 + 2 ^ 32 - (ringRec s r).consumed % 2 ^ 32) % 2 ^ 32) ∧
    (∃ (acc : Acc) (page : Nat) (t : Nat) (value : Nat) (r : Nat) (a : Nat) (s : State), nclkOn s = true ∧ accLocked s acc = false ∧ pageTen s acc
      page = some t ∧ tenActive s t = true ∧ r = t * 256 + bitsOf value 39 32 ∧ (ringRec s r).st = .active ∧ ringType s r ≠ 0 ∧ a = (bitsOf value 31
      0 + 2 ^ 32 - (ringRec s r).consumed % 2 ^ 32) % 2 ^ 32) :=
  ⟨⟨.pf0, 1, 1, 5, 256, 5, (rg (fun x => {x with posted := 5}) 256), by decide +kernel⟩,
   ⟨.pf0, 1, 1, 6, 256, 6, (rg (fun x => {x with posted := 5}) 256), by decide +kernel⟩,
   ⟨.pf0, 1, 1, 0xFFFFFFF0, 256, 0xFFFFFFF0, (rg (fun x => {x with posted := 5}) 256), by decide +kernel⟩,
   ⟨.pf0, 1, 1, 0x200000006, 258, 6, (rg (fun x => {x with posted := 5}) 258), by decide +kernel⟩⟩

/-- The premises of each clause of FetchAndInvalidate are met, once for each of its cases. -/
theorem wit_FetchAndInvalidate :
    (∃ (r : Nat) (k : Nat) (tags : List Nat) (s : State), nclkOn s = true ∧ memb 1 s.boot.drained = false ∧ memb 2 s.boot.drained = false ∧ k = min
      tags.length (fetchable s r) ∧ 0 < k ∧ fetchTurn s r = true ∧ ringCq s r ≠ r) ∧
    (∃ (r : Nat) (c : Nat) (want : Nat) (d : List Byte) (s : State), (s.dbg.frost = 0 ∧ (ringRec s r).reads = [(c, [want])] ∧ (ringRec s r).st =
      .active ∧ d.length = 64 ∧ tenActive s (ringTen r) = true ∧ c < 2 ^ 32 ∧ bitW s.pln.retire 31 = false ∧ seqOf d = c ∧ versionOf d = 1) ∧ ((∃ cs,
      opClasses (opcodeOf d) = some cs ∧ memb (ringClass s r) cs = true))) ∧
    (∃ (r : Nat) (flt : Nat) (c : Nat) (ep : Bool) (ts : List Nat) (rest : List (Nat × List Nat)) (d : List Byte) (s : State), s.dbg.frost = 0 ∧
      ((flt ≠ 0 ∨ ep = true)) ∧ (ringRec s r).reads = (c, ts) :: rest ∧ (ringRec s r).st = .active ∧ evqRing s (ringTen r) ≠ r) ∧
    (∃ (fn : Nat) (page : Nat) (pages : Nat) (deny : Bool) (s : State), s.dbg.frost = 0) :=
  ⟨⟨257, 3, [77, 78, 79], (ten []), by decide +kernel⟩,
   ⟨257, 7, 33, (dsc [(2,1,1),(4,4,7),(0,1,0x30)]), (rg (fun x => {x with reads := [(7,[33])]}) 257), by decide +kernel, ⟨_, rfl, by decide +kernel⟩⟩,
   ⟨257, 2, 7, false, [33], [], [], (rg (fun x => {x with reads := [(7,[33])]}) 257), by decide +kernel⟩,
   ⟨0, 5, 2, true, (ten []), by decide +kernel⟩⟩

end S03

namespace S04

def ln : State := modHif (fun h => { h with resumePending := true }) (ten [(7, { lv [] with stage := .lost, status := 3 })])
def vf3 : State := csetPut .hifTen 1 0 0x80000200 (modHif (fun h => { h with numVfs := 3, vfEnable := true }) (ten [(7, lv [])]))
def pnd : State := modHif (fun h => { h with msixPend := [5] }) up

open S02 in
/-- The premises of each clause of SelectorAndShadowWrites are met, once for each of its cases. -/
theorem wit_SelectorAndShadowWrites :
    (∃ (acc : Acc) (a : Nat) (win : Nat) (m : Nat) (o : Nat) (g : Grp) (v : Word) (s : State), selAt s.half a = some (g, win, m) ∧ grpReach s g acc
      win = true ∧ blockOpen s acc (blockOf a) = true ∧ selObj (setRw (accCode acc) a (v &&& wordOf m) s) g acc win = some o) ∧
    (∃ (n : Nat) (o : Nat) (b : Bool) (v : Word) (s : State), vfOpen s n b = true ∧ selObj (setRw n 0x200000 (v &&& 0xFFFF) s) .rng (.vf n b) 0 =
      some o) ∧
    (∃ (acc : Acc) (a : Nat) (win : Nat) (i : Nat) (g : Grp) (v : Word) (s : State), grpAt s.half a = some (g, win, i) ∧ grpReach s g acc win = true
      ∧ blockOpen s acc (blockOf a) = true) ∧
    (∃ (v : Word) (s : State), s.dbg.frost = 0) ∧
    (∃ (v : Word) (s : State), s.dbg.frost = 0) :=
  ⟨⟨.pf0, 0x300010, 0, 0xFFF, 3, .plnTq, 3, up, by decide +kernel⟩,
   ⟨2, 257, true, 1, (modHif (fun h => { h with tens := [(1, { st := .active, fn := 2, slot := 0 })] }) vf3), by decide +kernel⟩,
   ⟨.pf0, 0x300000, 0, 0, .pln, 0xFFFFFFFF, up, by decide +kernel⟩,
   ⟨3, up, by decide +kernel⟩,
   ⟨0x00010001, vf3, by decide +kernel⟩⟩

/-- The premises of each clause of ResetOfPf0 are met, once for each of its cases. -/
theorem wit_ResetOfPf0 :
    (∃ (c : Instr) (s : State), s.dbg.frost = 0 ∧ (c = .flrPf0 ∨ c = .hotReset)) ∧
    (∃ (c : Instr) (s : State), s.dbg.frost = 0 ∧ (c = .flrPf0 ∨ c = .hotReset)) :=
  ⟨⟨.flrPf0, (ten [(7,lv [])]), by decide +kernel⟩,
   ⟨.hotReset, vf3, by decide +kernel⟩⟩

end S04

namespace S05

def trg (s : State) (k : Nat) (x : Trig) : State := modTrig k (fun _ => x) { s with tim := { s.tim with set := true, s := 3, ns := 999999999 } }
def arm : Live := lv [(0,1,0x70), (16,8,9), (32,1,2), (24,4,5)]
def can : Live := lv [(0,1,0x71), (16,1,9)]

open S04 in
/-- The premises of each clause of HostLinkAndInterrupts are met, once for each of its cases. -/
theorem wit_HostLinkAndInterrupts :
    (∃ (s : State), s.dbg.frost = 0 ∧ s.hif.up = true) ∧
    (∃ (w : Nat) (r : Nat) (fl : Bool) (s : State), s.dbg.frost = 0 ∧ s.hif.up = false) ∧
    (∃ (s : State), s.hif.up = true ∧ s.hif.resumePending = true ∧ blockOpen s .pf0 1 = true) ∧
    (∃ (n : Nat) (s : State), s.dbg.frost = 0 ∧ 1 ≤ n ∧ n ≤ s.hif.numVfs) ∧
    (∃ (clear : Bool) (keep : Nat) (s : State), s.dbg.frost = 0 ∧ s.hif.numVfs ≤ 63) ∧
    (∃ (acc : Acc) (fn : Nat) (vec : Nat) (s : State), ((acc = .pf0 ∧ fn = 0 ∧ blockOpen s .pf0 1 = true ∧ vec < 2048) ∨ (∃ b, acc = .vf fn b ∧
      vfOpen s fn b = true ∧ vec < 256)) ∧ fn ∉ s.hif.msixFnMask) ∧
    (∃ (fn : Nat) (s : State), s.dbg.frost = 0) ∧
    (∃ (r : Nat) (s : State), s.dbg.frost = 0 ∧ (ringRec s r).gap = true) :=
  ⟨⟨up, by decide +kernel⟩,
   ⟨16, 5, true, ({ up with hif := {} }), by decide +kernel⟩,
   ⟨ln, by decide +kernel⟩,
   ⟨2, vf3, by decide +kernel⟩,
   ⟨true, 0, vf3, by decide +kernel⟩,
   ⟨.pf0, 0, 5, pnd, by decide +kernel⟩,
   ⟨0, (modHif (fun h => { h with msixFnMask := [0] }) pnd), by decide +kernel⟩,
   ⟨258, (csetPut .rng 258 3 0x80050003 (modRing 258 (fun r => { r with gap := true, owed := true }) (ten []))), by decide +kernel⟩⟩

/-- The premises of TimeBaseTicks are met. -/
theorem wit_TimeBaseTicks :
    ∃ (s : State) (n : Nat), s.pending = [] ∧ nclkOn s = true ∧ s.pwr.st ≠ .off ∧ s.boot.heldReset = false ∧ iodOn s = true ∧ s.tim.slew = 0 ∧
      s.tim.ns < 10 ^ 9 ∧ s.tim.frac < 2 ^ 32 ∧ s.tim.s + 1 < 2 ^ 64 ∧ n = s.tim.ns + (s.tim.frac + timIncr s) / 2 ^ 32 :=
  ⟨up, 4, by decide +kernel⟩

open S04 in
/-- The premises of each clause of TimeAndTriggers are met, once for each of its cases. -/
theorem wit_TimeAndTriggers :
    (∃ (acc : Acc) (s : State), blockOpen s acc 14 = true) ∧
    (∃ (s : State), nclkOn s = true ∧ s.tim.slew ≠ 0 ∧ s.tim.ns < 10 ^ 9 ∧ s.tim.frac < 2 ^ 32 ∧ 0 ≤ (((s.tim.s * 10 ^ 9 + s.tim.ns) * 2 ^ 32 +
      s.tim.frac : Nat) : Int) + s.tim.slew ∧ (((s.tim.s * 10 ^ 9 + s.tim.ns) * 2 ^ 32 + s.tim.frac : Nat) : Int) + s.tim.slew < 2 ^ 64 * 10 ^ 9 * 2
      ^ 32) ∧
    (∃ (width : Nat) (s : State), nclkOn s = true ∧ 1000 ≤ width) ∧
    (∃ (s : State), nclkOn s = true ∧ bitW (timSrc s) 31 = true) ∧
    (∃ (acc : Acc) (s : State), blockOpen s acc 14 = true) ∧
    (∃ (s : State), nclkOn s = true) ∧
    (∃ (s : State), nclkOn s = true ∧ bitW (timSrc s) 30 = true ∧ s.tim.set = true) ∧
    (∃ (s : State), nclkOn s = true) ∧
    (∃ (acc : Acc) (s : State), blockOpen s acc 14 = true) ∧
    (∃ (tag : Nat) (k : Nat) (l : Live) (st : Option Nat) (s : State), (armFault s (liveTen l) st l.desc = none ∧ 8 ≤ k ∧ k < 64 ∧ (trigRec s k).st =
      0 ∧ ((∀ j, 8 ≤ j → j < k → (trigRec s j).st ≠ 0))) ∧ (Starts s tag 0x70 l st)) ∧
    (∃ (tag : Nat) (k : Nat) (n : Nat) (l : Live) (s : State), (k = fieldAt l.desc 16 1 % 64 ∧ 8 ≤ k ∧ (trigRec s k).tenant = liveTen l ∧ (trigRec s
      k).st ≠ 0) ∧ (Starts s tag 0x71 l (some n))) ∧
    (∃ (tag : Nat) (k : Nat) (l : Live) (s : State), (k = fieldAt l.desc 16 1 % 64 ∧ 8 ≤ k ∧ (trigRec s k).tenant = liveTen l ∧ (trigRec s k).st ≠ 0
      ∧ ((∀ e ∈ s.hif.live, liveTen e.2 = liveTen l → e.2.stage ≠ .spaceWait))) ∧ (Starts s tag 0x71 l none)) ∧
    (∃ (k : Nat) (s : State), nclkOn s = true ∧ 8 ≤ k ∧ (trigRec s k).st = 2 ∧ (trigRec s k).target.total ≤ (nowT s).total ∧ (trigRec s k).mode = 2 ∧
      (tstep s (trigRec s k).tenant).steps = []) :=
  ⟨⟨.pf0, up, by decide +kernel⟩,
   ⟨({ up with tim := { up.tim with s := 5, slew := -3 * 2^32 - 7 } }), by decide +kernel⟩,
   ⟨1000, up, by decide +kernel⟩,
   ⟨up, by decide +kernel⟩,
   ⟨.pf0, up, by decide +kernel⟩,
   ⟨up, by decide +kernel⟩,
   ⟨(csetPut .tim 0 6 0x40000000 { up with tim := { up.tim with set := true } }), by decide +kernel⟩,
   ⟨up, by decide +kernel⟩,
   ⟨.pf0, up, by decide +kernel⟩,
   ⟨33, 8, arm, none, (trg (ten [(33,arm)]) 9 {}), by decide +kernel, starts_of (by decide +kernel) (by decide +kernel)⟩,
   ⟨33, 9, 5, can, (trg (run1 (ten [(33,can)])) 9 {st := 2, mode := 2, tenant := 1}), by decide +kernel, starts_of (by decide +kernel) (by
      decide +kernel)⟩,
   ⟨33, 9, can, (trg (ten [(33,can)]) 9 {st := 2, mode := 2, tenant := 1}), by decide +kernel, starts_of (by decide +kernel) (by decide +kernel)⟩,
   ⟨8, (trg (ten []) 8 {st := 2, mode := 2, tenant := 1, target := ⟨3,1⟩, period := 0}), by decide +kernel⟩⟩

end S05

namespace S06

def db (f : Dbg → Dbg) : State := { up with dbg := f up.dbg }
def smp : State := { ten [] with dbg := { up.dbg with sampling := [1] }, cor := { up.cor with cores := [(3, { st := .running, slot := 2 })] } }

/-- The premises of DriveSelectsBypass are met. -/
theorem wit_DriveSelectsBypass :
    ∃ (c : Instr) (s : State), c ∈ [Instr.extest, .tapClamp, .highz, .extestPulse, .extestTrain] ∧ activeTens s ≠ [] :=
  ⟨.extest, (ten []), by decide +kernel⟩

/-- The premises of each clause of DebugCommands are met, once for each of its cases. -/
theorem wit_DebugCommands :
    (∃ (c : Instr) (ir : Nat) (drive : Nat) (s : State), (c, ir, drive) ∈ [(Instr.extest, 0x00, 1), (.tapClamp, 0x04, 1), (.highz, 0x05, 2),
      (.extestPulse, 0x06, 3), (.extestTrain, 0x07, 4)] ∧ activeTens s = [] ∧ s.pwr.st ≠ .off ∧ ((s.sec.life = .blank ∨ s.sec.life = .provisioned ∨
      (s.sec.life = .opened ∧ hasCap s 4 = true)))) ∧
    (∃ (s : State), s.pwr.st ≠ .off) ∧
    (∃ (pins : Nat) (load : Nat) (s : State), s.pwr.st ≠ .off ∧ s.sec.life ≠ .retired) ∧
    (∃ (w : Bool) (o : Nat) (v : Word) (s : State), (s.sec.life = .sealed ∨ s.sec.life = .retired)) ∧
    (∃ (v : Word) (s : State), (s.pwr.st = .full ∨ s.pwr.st = .trimmed) ∧ s.sec.life = .provisioned ∧ s.dbg.frost = 0 ∧ bitW v 0 = true ∧ bitW v 1 =
      false) ∧
    (∃ (op : Nat) (addr : Nat) (d : Word) (s : State), dbgLevel s 5 = 0) ∧
    (∃ (addr : Nat) (d : Word) (s : State), dbgLevel s 5 ≠ 0) ∧
    (∃ (acc : Acc) (s : State), blockOpen s acc 16 = true ∧ dbgLevel s 2 ≠ 0 ∧ s.dbg.frost = 0) ∧
    (∃ (stops : List (Nat × Nat)) (fifos : List FifoHeld) (syncs : List SyncHeld) (s : State), s.dbg.frost = 1 ∧ s.dbg.pendResume = false) ∧
    (∃ (acc : Acc) (s : State), blockOpen s acc 16 = true ∧ dbgLevel s 2 ≠ 0 ∧ s.dbg.frost = 2) ∧
    (∃ (s : State), s.dbg.frost = 3 ∧ s.dbg.pendFreeze = false ∧ s.dbg.openPorts = [] ∧ s.dbg.late = []) ∧
    (∃ (p : Nat) (s : State), s.dbg.frost = 3 ∧ s.dbg.pendFreeze = false ∧ s.dbg.openPorts = [p] ∧ s.dbg.late = [] ∧ (portRec s p).st = .opened ∧
      ((portRec s p).retrains.filter (fun k => decide (s.tick < k + 250000000))).length < 7) ∧
    (∃ (c : Late) (s : State), s.dbg.frost = 3 ∧ s.dbg.pendFreeze = false ∧ s.dbg.openPorts = [] ∧ s.dbg.late = [c]) ∧
    (∃ (acc : Acc) (s : State), blockOpen s acc 16 = true ∧ scanOn s = true) ∧
    (∃ (acc : Acc) (s : State), blockOpen s acc 16 = true ∧ scanOn s = false) ∧
    (∃ (acc : Acc) (s : State), blockOpen s acc 16 = true ∧ dbgLevel s 1 = 2) ∧
    (∃ (c : Nat) (pc : Nat) (w : Nat) (f : Nat) (m : Bool) (s : State), nclkOn s = true ∧ c < numCores s ∧ (coreRec s c).st = .running ∧ slotValid s
      c (coreRec s c).slot = true ∧ dbgLevel s 1 ≠ 0 ∧ slotTen s c (coreRec s c).slot ∈ s.dbg.sampling ∧ (Map.get [] s.dbg.samples c).length < 1024)
      :=
  ⟨⟨.extest, 0, 1, up, by decide +kernel⟩,
   ⟨up, by decide +kernel⟩,
   ⟨5, 6, up, by decide +kernel⟩,
   ⟨true, 0x20, 1, ({ up with sec := { up.sec with life := .sealed } }), by decide +kernel⟩,
   ⟨1, up, by decide +kernel⟩,
   ⟨4, 9, 7, ({ up with sec := { up.sec with life := .sealed } }), by decide +kernel⟩,
   ⟨9, 7, up, by decide +kernel⟩,
   ⟨.pf0, up, by decide +kernel⟩,
   ⟨[(2,5),(3,6)], [⟨1,3,1,2,3,13,10,[1,2,3]⟩], [⟨2,3,2,5⟩], (db (fun d => { d with frost := 1 })), by decide +kernel⟩,
   ⟨.pf0, (db (fun d => { d with frost := 2 })), by decide +kernel⟩,
   ⟨(db (fun d => { d with frost := 3 })), by decide +kernel⟩,
   ⟨2, ({ db (fun d => { d with frost := 3, openPorts := [2] }) with vnl := { up.vnl with ports := [(2, { st := .opened })] } }), by decide +kernel⟩,
   ⟨.hostLinkDown, (db (fun d => { d with frost := 3, late := [.hostLinkDown] })), by decide +kernel⟩,
   ⟨.pf0, (db (fun d => { d with frost := 2 })), by decide +kernel⟩,
   ⟨.pf0, up, by decide +kernel⟩,
   ⟨.pf0, up, by decide +kernel⟩,
   ⟨3, 0x1234, 5, 6, true, (csetPut .corSlot 26 0 0x80000001 smp), by decide +kernel⟩⟩

/-- The premises of each clause of BookCommands are met, once for each of its cases. -/
theorem wit_BookCommands :
    (∃ (acc : Acc) (s : State), blockOpen s acc 18 = true) ∧
    (∃ (acc : Acc) (s : State), blockOpen s acc 18 = true ∧ s.sec.life = .provisioned ∧ boundTens s = [] ∧ s.book.waiting.length < 4096) ∧
    (∃ (acc : Acc) (s : State), blockOpen s acc 18 = true ∧ s.sec.life ≠ .provisioned) ∧
    (∃ (acc : Acc) (s : State), blockOpen s acc 18 = true ∧ s.sec.life = .provisioned ∧ boundTens s ≠ []) :=
  ⟨⟨.pf0, up, by decide +kernel⟩,
   ⟨.pf0, ({ up with book := { up.book with head := 9 } }), by decide +kernel⟩,
   ⟨.pf0, ({ up with sec := { up.sec with life := .sealed } }), by decide +kernel⟩,
   ⟨.pf0, (ten []), by decide +kernel⟩⟩

end S06

namespace S07

def so (n f : Nat) : Live := lv [(0,1,0x50), (16,6,n), (22,1,f)]
def qs : State → State := fun s => csetPut .stpTen 1 1 0x00010001 s
def ss (n f : Nat) : Live := lv [(0,1,0x51), (16,6,n), (22,1,f)]
def rs : Live := lv [(0,1,0x52), (16,6,99)]
def rq : Live := lv [(0,1,0x53)]
def rec1 (s : State) : State := modTstep 1 (fun _ => { st := .recover, next := some 6, firstDisc := some 6, drawn := some 5, reason := 4 }) s
def stt (f : TenStep → TenStep) (s : State) : State := modTstep 1 f s
def held : Live := { lv [(0,1,0)] with stage := .held, step := some 5 }
def rep (n : Nat) : List Byte := msg [(0,1,0x10),(2,2,0x77),(4,6,n),(10,2,1),(12,2,1),(16,4,1),(20,8,4),(28,8,3)]
def drw (n : Nat) : List Byte := msg [(0,1,0x11),(2,2,0x77),(4,6,n),(10,2,0)]
def fai (n : Nat) : List Byte := msg [(0,1,0x12),(1,1,7),(2,2,0x77),(4,6,n),(10,2,0),(12,2,1)]
def busy : State := { run1 (hnd1 5 (ten [])) with stp := { (run1 (ten [])).stp with
  lees := [⟨1,5,5,0,0,[],false⟩, ⟨2,5,5,0,0,[],false⟩], hold := [⟨3,1,5,0,none,0,[1]⟩,⟨4,2,5,0,none,0,[1]⟩] } }
def hd (f : StepRec → StepRec) (s : State) : State := modStep 1 5 f s
def pre : State := qs { busy with pln := { busy.pln with waits := [⟨7,1,some 5,5,4096,[9]⟩] }, stp := { busy.stp with lees := [] } }
def rst : State := { rec1 busy with stp := { (rec1 busy).stp with tens := [(1,{ st := .recover, next := some 6, firstDisc := some 5, restoring := true })] } }
def drn : State := { run1 (ten []) with stp := { (run1 (ten [])).stp with draining := [⟨3,1,4,0,none,0x1000,[1]⟩,⟨4,2,5,0,none,0,[1]⟩] } }

/-- The premises of StepOpenOpens are met. -/
theorem wit_StepOpenOpens :
    ∃ (tag : Nat) (t : Nat) (n : Nat) (l : Live) (s : State), stepTurn s tag 0x50 = some l ∧ t = liveTen l ∧ n = stepField l.desc ∧ s.hif.up = true ∧
      s.hif.resumePending = false ∧ ((∀ r ∈ (tstep s t).steps, r.sealTag = none)) ∧ (tstep s t).failNext = none :=
  ⟨9, 1, 5, (so 5 1), (qs (ten [(9,so 5 1)])), by decide +kernel⟩

/-- The premises of StepSealSeals are met. -/
theorem wit_StepSealSeals :
    ∃ (tag : Nat) (t : Nat) (n : Nat) (l : Live) (s : State), stepTurn s tag 0x51 = some l ∧ t = liveTen l ∧ n = stepField l.desc ∧ s.hif.up = true ∧
      s.hif.resumePending = false ∧ ((∀ r ∈ (tstep s t).steps, r.sealTag = none)) ∧ (tstep s t).st ≠ .recover :=
  ⟨9, 1, 5, (ss 5 0), (run1 (ten [(9,ss 5 0)])), by decide +kernel⟩

/-- The premises of each clause of ResyncAndQuery are met, once for each of its cases. -/
theorem wit_ResyncAndQuery :
    (∃ (tag : Nat) (l : Live) (st : Option Nat) (s : State), ((tstep s (liveTen l)).st ≠ .run ∧ (tstep s (liveTen l)).restoring = false) ∧ (Starts s
      tag 0x52 l st)) ∧
    (∃ (tag : Nat) (l : Live) (st : Option Nat) (s : State), ((tstep s (liveTen l)).st = .run) ∧ (Starts s tag 0x52 l st)) ∧
    (∃ (tag : Nat) (n : Nat) (k : Nat) (r : Nat) (l : Live) (st : Option Nat) (s : State), (n = ((tstep s (liveTen l)).drawn).getD 0 % 2 ^ 48 ∧ k =
      (tstep s (liveTen l)).steps.length ∧ k ≤ 3 ∧ r = (tstep s (liveTen l)).reason ∧ r < 2 ^ 8) ∧ (Starts s tag 0x53 l st)) :=
  ⟨⟨9, rs, none, (ten [(9,rs)]), by decide +kernel, starts_of (by decide +kernel) (by decide +kernel)⟩,
   ⟨9, rs, none, (run1 (ten [(9,rs)])), by decide +kernel, starts_of (by decide +kernel) (by decide +kernel)⟩,
   ⟨9, 0, 1, 0, rq, none, (run1 (ten [(9,rq)])), by decide +kernel, starts_of (by decide +kernel) (by decide +kernel)⟩⟩

/-- The premises of each clause of StepMessages are met, once for each of its cases. -/
theorem wit_StepMessages :
    (∃ (i : Nat) (b : Nat) (m : List Byte) (s : State), (stepOver s (bindTen s b) (fieldAt m 4 6) = false ∧ stepRec s (bindTen s b) (fieldAt m 4 6) =
      none ∧ ((∀ q ∈ (tstep s (bindTen s b)).early, q.1 = fieldAt m 4 6 → q.2.sender ≠ fieldAt m 10 2))) ∧ (inboxAt s i 0x10 = some (b, m))) ∧
    (∃ (i : Nat) (b : Nat) (m : List Byte) (x : StepRec) (s : State), (stepOver s (bindTen s b) (fieldAt m 4 6) = false ∧ stepRec s (bindTen s b)
      (fieldAt m 4 6) = some x ∧ x.arrived = false ∧ ((∀ q ∈ x.reps, q.sender ≠ fieldAt m 10 2))) ∧ (inboxAt s i 0x10 = some (b, m))) ∧
    (∃ (i : Nat) (b : Nat) (m : List Byte) (s : State), (stepOver s (bindTen s b) (fieldAt m 4 6) = true) ∧ (inboxAt s i 0x10 = some (b, m))) ∧
    (∃ (i : Nat) (b : Nat) (m : List Byte) (s : State), (stepOver s (bindTen s b) (fieldAt m 4 6) = true) ∧ (inboxAt s i 0x11 = some (b, m))) ∧
    (∃ (i : Nat) (b : Nat) (m : List Byte) (s : State), (stepOver s (bindTen s b) (fieldAt m 4 6) = false ∧ oldestStep s (bindTen s b) = some
      (fieldAt m 4 6) ∧ ((∀ e ∈ s.hif.live, liveTen e.2 ≠ bindTen s b))) ∧ (inboxAt s i 0x11 = some (b, m))) ∧
    (∃ (i : Nat) (b : Nat) (m : List Byte) (x : StepRec) (s : State), (bindCoord s b ≠ drawRoot s b ∧ drawParent s b (bindCoord s b) = some (fieldAt
      m 10 2) ∧ ((∀ k, (tstep s (bindTen s b)).drawn = some k → k < fieldAt m 4 6)) ∧ stepRec s (bindTen s b) (fieldAt m 4 6) = some x) ∧ (inboxAt s
      i 0x12 = some (b, m))) :=
  ⟨⟨0, 0, (rep 6), (inb (rep 6) (bnd 0 (run1 (ten [])))), by decide +kernel, by rfl⟩,
   ⟨0, 0, (rep 5), ({ num := 5 }), (inb (rep 5) (bnd 0 (run1 (ten [])))), by decide +kernel, by rfl⟩,
   ⟨0, 0, (rep 5), (inb (rep 5) (bnd 0 (rec1 (ten [])))), by decide +kernel, by rfl⟩,
   ⟨0, 0, (drw 5), (inb (drw 5) (bnd 1 (rec1 (ten [])))), by decide +kernel, by rfl⟩,
   ⟨0, 0, (drw 5), (inb (drw 5) (bnd 1 (run1 (ten [])))), by decide +kernel, by rfl⟩,
   ⟨0, 0, (fai 5), ({ num := 5 }), (inb (fai 5) (bnd 1 busy)), by decide +kernel, by rfl⟩⟩

/-- The premises of each clause of StepTimersAndRestore are met, once for each of its cases. -/
theorem wit_StepTimersAndRestore :
    (∃ (t : Nat) (n : Nat) (r : StepRec) (s : State), sealedStep s t n = some r ∧ r.late = false ∧ r.left = true) ∧
    (∃ (t : Nat) (n : Nat) (r : StepRec) (s : State), sealedStep s t n = some r ∧ r.late = false ∧ r.left = false) ∧
    (∃ (t : Nat) (n : Nat) (r : StepRec) (s : State), sealedStep s t n = some r ∧ r.late = true) ∧
    (∃ (h : Nat) (p : Nat) (b : Nat) (n : Nat) (w : WaitW) (s : State), nclkOn s = true ∧ s.pln.waits.find? (fun w => decide (w.hnd = h) && decide
      (pageIdx w.off = p) && decide (blockIdx w.off = b) && decide (needOf s w = .pre)) = some w ∧ w.step = some n ∧ ((leesUse s w.tenant + 4096 ≤
      leesQuota s w.tenant ∨ speculative s w.tenant n = true))) ∧
    (∃ (t : Nat) (n : Nat) (bad : List (Nat × Nat × Nat)) (s : State), (tstep s t).restoring = true ∧ nclkOn s = true ∧ s.err.fence = false ∧ (tstep
      s t).firstDisc = some n ∧ ((∀ e ∈ s.hif.live, liveTen e.2 = t → e.2.stage ≠ .spaceWait))) ∧
    (∃ (w : HoldW) (rest : List HoldW) (s : State), s.stp.draining = w :: rest ∧ s.hif.up = true ∧ nclkOn s = true ∧ hostRangeOk s w.fn w.addr
      w.bytes.length = true) :=
  ⟨⟨1, 5, ({ num := 5,handed := true, left := true }), (hd (fun r => { r with handed := true, left := true }) busy), by decide +kernel⟩,
   ⟨1, 5, { num := 5, handed := true }, (hd (fun r => { r with handed := true }) (bnd 1 busy)), by decide +kernel⟩,
   ⟨1, 5, ({ num := 5,handed := true, left := true, late := true }), (hd (fun r => { r with handed := true, left := true, late := true }) (bnd 1
      busy)), by decide +kernel⟩,
   ⟨5, 0, 1, 5, (⟨7,1,some 5,5,4096,[9]⟩), pre, by decide +kernel⟩,
   ⟨1, 5, ([]), rst, by decide +kernel⟩,
   ⟨(⟨3,1,4,0,none,0x1000,[1]⟩), ([⟨4,2,5,0,none,0,[1]⟩]), drn, by decide +kernel⟩⟩

end S07

namespace S08

def nop : Live := lv [(0,1,0),(8,8,0x1234567890)]
def fen (r w c : Nat) : Live := { lv [(0,1,1),(16,1,r),(17,1,w),(20,4,c)] with count := 3 }
def fenS (x : Live) (o : List (Nat × Live)) : State := modRing 257 (fun r => { r with fetched := 4 }) (ten ([(9,x)] ++ o))
def dma (op off n addr : Nat) (so : Nat) : Live := lv [(0,1,op),(16,3,5),(20,6,off),(28,4,n),(32,8,addr),(40,6,so)]
def t0h (s : State) : State := modPln (fun p => { p with hnds := Map.put p.hnds 6 { tenant := 1, size := 0x400000 }, pages := Map.put (Map.put p.pages (pageKey 6 0) { tier := 0, stack := 3 }) (pageKey 6 1) { tier := 1 } }) s
def mm (s : State) : State := { s with mem := memWrite (memWrite s.mem (hKey 5 0) [1,2,3,4,5,6,7,8,9,10]) (hKey 6 0x1FFFFA) [11,12,13,14,15,16,17,18,19,20] }
def ds (l : Live) : State := mm (t0h (hnd1 5 (ten [(9,l)])))
def dmb (op h off n addr so : Nat) : Live := lv [(0,1,op),(16,3,h),(20,6,off),(28,4,n),(32,8,addr),(40,6,so)]
def qt (s : State) : State := csetPut .stpTen 1 1 0x00010001 s
def cr (sz fl pf : Nat) : Live := lv [(0,1,0x20),(16,6,sz),(22,1,fl),(23,1,pf),(24,2,2),(26,2,1)]
def crS (l : Live) : State := csetPut .plnTq 1 0 100 (csetPut .plnTq 1 2 50 (csetPut .plnTq 1 3 9 (hnd1 5 (ten [(9,l)]))))
def hin (pref fp cnt h : Nat) : Live := lv [(0,1,0x22),(16,3,h),(20,4,fp),(24,4,cnt),(28,1,pref)]

/-- The premises of each clause of FlowDescriptors are met, once for each of its cases. -/
theorem wit_FlowDescriptors :
    (∃ (tag : Nat) (l : Live) (st : Option Nat) (s : State), Starts s tag 0x00 l st) ∧
    (∃ (tag : Nat) (l : Live) (s : State), (bitOf (flagsOf l.desc) 0 = true ∧ entryOk s (ringCq s l.ring) = true ∧ (ringRec s (ringCq s l.ring)).st ≠
      .disabled) ∧ (Starts s tag 0x00 l none)) ∧
    (∃ (tag : Nat) (r : Nat) (l : Live) (w : Live) (st : Option Nat) (s : State) (s1 : State), (r = ringTen l.ring * 256 + fieldAt l.desc 16 1 ∧ w =
      fenceWait s1 { l with stage := .running, step := st } r (fieldAt l.desc 20 4)) ∧ (Starts s tag 0x01 l st) ∧ (s1 = modLive tag (fun l =>
      { l with stage := .running, step := st }) s)) ∧
    (∃ (tag : Nat) (r : Nat) (l : Live) (w : Live) (st : Option Nat) (s : State) (s1 : State), (r = ringTen l.ring * 256 + fieldAt l.desc 16 1 ∧ w =
      fenceWait s1 { l with stage := .running, step := st } r (fieldAt l.desc 20 4)) ∧ (Starts s tag 0x01 l st) ∧ (s1 = modLive tag (fun l =>
      { l with stage := .running, step := st }) s)) ∧
    (∃ (tag : Nat) (l : Live) (s : State), liveRec s tag = some l ∧ l.stage = .running ∧ opcodeOf l.desc = 0x01 ∧ nclkOn s = true ∧ s.hif.up = true ∧
      s.hif.resumePending = false ∧ ((∀ r ∈ (tstep s (liveTen l)).steps, r.sealTag = none)) ∧ bitOf (fieldAt l.desc 17 1) 0 = true ∧ fencePending s l
      (fenceRing l) = false) :=
  ⟨⟨9, nop, none, (ten [(9,nop)]), starts_of (by decide +kernel) (by decide +kernel)⟩,
   ⟨9, nop, (ten [(9,nop)]), by decide +kernel, starts_of (by decide +kernel) (by decide +kernel)⟩,
   ⟨9, 257, (fen 1 0 0), (fenceWait (modLive 9 (fun l => { l with stage := .running, step := none }) (fenS (fen 1 0 0) []))
      { fen 1 0 0 with stage := .running } 257 (fieldAt (fen 1 0 0).desc 20 4)), none, (fenS (fen 1 0 0) []), (modLive 9 (fun l =>
      { l with stage := .running, step := none }) (fenS (fen 1 0 0) [])), by decide +kernel, starts_of (by decide +kernel) (by decide +kernel), rfl⟩,
   ⟨9, 257, (fen 1 1 8), (fenceWait (modLive 9 (fun l => { l with stage := .running, step := none }) (fenS (fen 1 1 8)
      [(8,{ nop with stage := .running })])) { fen 1 1 8 with stage := .running } 257 (fieldAt (fen 1 1 8).desc 20 4)), none, (fenS (fen 1 1 8)
      [(8,{ nop with stage := .running })]), (modLive 9 (fun l => { l with stage := .running, step := none }) (fenS (fen 1 1 8)
      [(8,{ nop with stage := .running })])), by decide +kernel, starts_of (by decide +kernel) (by decide +kernel), rfl⟩,
   ⟨9, { fen 1 1 0 with stage := .running }, (fenS { fen 1 1 0 with stage := .running } []), by decide +kernel⟩⟩

/-- The premises of each clause of DmaTransfers are met, once for each of its cases. -/
theorem wit_DmaTransfers :
    (∃ (c : Instr) (op : Nat) (tag : Nat) (buf : List Byte) (l : Live) (st : Option Nat) (s : State), ((c, op) ∈ [(Instr.dmaH2d tag 0 buf, 0x10),
      (.dmaCopy tag, 0x12), (.dmaFill tag, 0x13)] ∧ ((op ≠ 0x10 → buf = []))) ∧ (Starts s tag op l st)) ∧
    (∃ (tag : Nat) (flt : Nat) (buf : List Byte) (l : Live) (st : Option Nat) (s : State), (flt ≠ 0 ∧ dmaFault s (liveTen l) 0x10 l.desc = none) ∧
      (Starts s tag 0x10 l st)) ∧
    (∃ (tag : Nat) (l : Live) (st : Option Nat) (s : State), (dmaFault s (liveTen l) 0x11 l.desc = none ∧ dmaBlocked s 0x11 l.desc = false ∧
      dmaPoison s 0x11 l.desc = []) ∧ (Starts s tag 0x11 l st)) ∧
    (∃ (tag : Nat) (l : Live) (s : State), liveRec s tag = some l ∧ nclkOn s = true ∧ 0x10 ≤ opcodeOf l.desc ∧ opcodeOf l.desc ≤ 0x13 ∧ l.stage =
      .running ∧ l.aux = 1 ∧ writesWait s tag = false ∧ s.hif.up = true ∧ s.hif.resumePending = false ∧ ((∀ r ∈ (tstep s (liveTen l)).steps,
      r.sealTag = none))) :=
  ⟨⟨(.dmaH2d 9 0 []), 0x10, 9, ([]), (dma 0x10 0x1FFFFF 2 0 0), none, (ds (dma 0x10 0x1FFFFF 2 0 0)), by decide +kernel, starts_of (by
      decide +kernel) (by decide +kernel)⟩,
   ⟨9, 2, [], (dma 0x10 0x1FFFFE 2 0 0), none, (ds (dma 0x10 0x1FFFFE 2 0 0)), by decide +kernel, starts_of (by decide +kernel) (by decide +kernel)⟩,
   ⟨9, (dma 0x11 2 5 0x123456 0), none, (ds (dma 0x11 2 5 0x123456 0)), by decide +kernel, starts_of (by decide +kernel) (by decide +kernel)⟩,
   ⟨9, ({ dma 0x11 2 5 0x123456 0 with stage := .running, aux := 1, status := 3, result := 4 }), (ten
      [(9,{ dma 0x11 2 5 0x123456 0 with stage := .running, aux := 1, status := 3, result := 4 })]), by decide +kernel⟩⟩

/-- The premises of each clause of HandleDescriptors are met, once for each of its cases. -/
theorem wit_HandleDescriptors :
    (∃ (tag : Nat) (want : Nat) (h : Nat) (n : Nat) (l : Live) (hd : Hnd) (st : Option Nat) (s : State) (s1 : State), (createFault s (liveTen l)
      l.desc = none ∧ h = pickHandle s want ∧ hndRec s h = none ∧ n = pagesOf (fieldAt l.desc 16 6) ∧ ((∀ e ∈ s.pln.hnds, e.2.size ≤ 2 ^ 40)) ∧ hd =
      { tenant := liveTen l, size := fieldAt l.desc 16 6, replicated := bitOf (fieldAt l.desc 22 1) 0, narrowable := bitOf (fieldAt l.desc 22 1) 1, graftEach := bitOf (fieldAt l.desc 22 1) 2, noRack := bitOf (fieldAt l.desc 22 1) 3, repCount := fieldAt l.desc 24 2, repRank := fieldAt l.desc 26 2, createdIn := st }
      ∧ createPages h (liveTen l) (bitsOf (fieldAt l.desc 23 1) 1 0) (bitsOf (fieldAt l.desc 23 1) 4 2) n 0 (modPln (fun p =>
      { p with hnds := Map.put p.hnds h hd }) (modLive tag (fun l => { l with stage := .running, step := st }) s)) = some s1) ∧ (Starts s tag 0x20 l
      st)) ∧
    (∃ (tag : Nat) (want : Nat) (f : Nat × Nat) (l : Live) (st : Option Nat) (s : State), (createFault s (liveTen l) l.desc = some f) ∧ (Starts s tag
      0x20 l st)) ∧
    (∃ (tier : Nat) (stack : Nat) (s : State), (tier, stack) ∈ s.pln.zeroing ∧ s.pln.waits = [] ∧ ((∀ e ∈ s.hif.live, e.2.stage = .promo → opcodeOf
      e.2.desc ≠ 0x20))) ∧
    (∃ (c : Instr) (op : Nat) (tag : Nat) (l : Live) (st : Option Nat) (s : State), ((c, op) ∈ [(Instr.handleFree tag, 0x21), (.handleHint tag,
      0x22), (.handleQuery tag, 0x23)] ∧ hndOk s (liveTen l) (fieldAt l.desc 16 3) = false) ∧ (Starts s tag op l st)) ∧
    (∃ (tag : Nat) (h : Nat) (l : Live) (st : Option Nat) (x : Hnd) (s : State), (h = fieldAt l.desc 16 3 ∧ hndOk s (liveTen l) h = true ∧ hndRec s h
      = some x ∧ ((∀ e ∈ s.pln.hnds, e.2.gone = false)) ∧ ((∀ e ∈ s.hif.live, e.1 ≠ tag → namesHandle e.2 h = false)) ∧ s.rck.job = none) ∧ (Starts s
      tag 0x21 l st)) ∧
    (∃ (tag : Nat) (h : Nat) (fp : Nat) (cnt : Nat) (pref : Nat) (l : Live) (st : Option Nat) (s : State), (h = fieldAt l.desc 16 3 ∧ hndOk s
      (liveTen l) h = true ∧ ((∀ e ∈ s.pln.hnds, e.2.gone = false)) ∧ fp = fieldAt l.desc 20 4 ∧ cnt = (if fieldAt l.desc 24 4 = 0 then pagesOf
      (hndSize s h) - fp else fieldAt l.desc 24 4) ∧ pref = fieldAt l.desc 28 1 ∧ fp < pagesOf (hndSize s h) ∧ fp + cnt ≤ pagesOf (hndSize s h) ∧
      bitsOf pref 4 2 ≤ numDies s ∧ bitOf pref 5 = false) ∧ (Starts s tag 0x22 l st)) ∧
    (∃ (tag : Nat) (h : Nat) (l : Live) (st : Option Nat) (k : Nat → Nat) (s : State), (h = fieldAt l.desc 16 3 ∧ hndOk s (liveTen l) h = true) ∧
      (Starts s tag 0x23 l st) ∧ ((∀ tier, k tier = (s.pln.pages.filter (fun e => decide (e.1 / 0x100000 = h) && decide (e.2.tier = tier))).length)))
      :=
  ⟨⟨9, 77, 77, (pagesOf (fieldAt (cr 0x200000 0 0).desc 16 6)), (cr 0x200000 0 0),
      ({ tenant := 1, size := fieldAt (cr 0x200000 0 0).desc 16 6, replicated := bitOf (fieldAt (cr 0x200000 0 0).desc 22 1) 0, narrowable := bitOf (fieldAt (cr 0x200000 0 0).desc 22 1) 1, graftEach := bitOf (fieldAt (cr 0x200000 0 0).desc 22 1) 2, noRack := bitOf (fieldAt (cr 0x200000 0 0).desc 22 1) 3, repCount := fieldAt (cr 0x200000 0 0).desc 24 2, repRank := fieldAt (cr 0x200000 0 0).desc 26 2, createdIn := none }),
      none, (crS (cr 0x200000 0 0)), ((createPages 77 (liveTen (cr 0x200000 0 0)) (bitsOf (fieldAt (cr 0x200000 0 0).desc 23 1) 1 0) (bitsOf (fieldAt
      (cr 0x200000 0 0).desc 23 1) 4 2) (pagesOf (fieldAt (cr 0x200000 0 0).desc 16 6)) 0 (modPln (fun p =>
      { p with hnds := Map.put p.hnds 77 ({ tenant := 1, size := fieldAt (cr 0x200000 0 0).desc 16 6, replicated := bitOf (fieldAt (cr 0x200000 0 0).desc 22 1) 0, narrowable := bitOf (fieldAt (cr 0x200000 0 0).desc 22 1) 1, graftEach := bitOf (fieldAt (cr 0x200000 0 0).desc 22 1) 2, noRack := bitOf (fieldAt (cr 0x200000 0 0).desc 22 1) 3, repCount := fieldAt (cr 0x200000 0 0).desc 24 2, repRank := fieldAt (cr 0x200000 0 0).desc 26 2, createdIn := none }) })
      (modLive 9 (fun l => { l with stage := .running, step := none }) (crS (cr 0x200000 0 0))))).getD (crS (cr 0x200000 0 0))), by decide +kernel,
      starts_of (by decide +kernel) (by decide +kernel)⟩,
   ⟨9, 77, ((createFault (crS (cr 0 0 0)) 1 (cr 0 0 0).desc).getD (0,0)), (cr 0 0 0), none, (crS (cr 0 0 0)), by decide +kernel, starts_of (by
      decide +kernel) (by decide +kernel)⟩,
   ⟨0, 3, (modPln (fun p => { p with zeroing := [(1,0),(0,3),(0,3)] }) (ten [])), by decide +kernel⟩,
   ⟨(.handleFree 9), 0x21, 9, (lv [(0,1,0x21),(16,3,5)]), none, (ten [(9,lv [(0,1,0x21),(16,3,5)])]), by decide +kernel, starts_of (by
      decide +kernel) (by decide +kernel)⟩,
   ⟨9, 5, (lv [(0,1,0x21),(16,3,5)]), none, ({ tenant := 1, size := 0x200000 }), (ds (lv [(0,1,0x21),(16,3,5)])), by decide +kernel, starts_of (by
      decide +kernel) (by decide +kernel)⟩,
   ⟨9, 6, 0, 2, 6, (hin 6 0 0 6), none, (ds (hin 6 0 0 6)), by decide +kernel, starts_of (by decide +kernel) (by decide +kernel)⟩,
   ⟨9, 6, (lv [(0,1,0x23),(16,3,6)]), none, (fun tier => ((ds (lv [(0,1,0x23),(16,3,6)])).pln.pages.filter (fun e => decide (e.1 / 0x100000 = 6) &&
      decide (e.2.tier = tier))).length), (ds (lv [(0,1,0x23),(16,3,6)])), by decide +kernel, starts_of (by decide +kernel) (by decide +kernel), fun
      _ => rfl⟩⟩

end S08

namespace S09

def ld (fs : List (Nat × Nat × Nat)) : Live := lv ([(0,1,0x30),(8,8,77),(16,3,5),(20,4,128),(24,4,64),(28,4,10),(32,4,3),(36,8,9),(44,8,8),(52,2,100)] ++ fs)
/-- Tenant 1 holds slot 2 of core 3 and slot 1 of core 40. -/
def cs (x : Core) (ls : List Launch) (l : Live) : State :=
  csetPut .corSlot 26 0 0x80000001 (csetPut .corSlot 26 1 7 (csetPut .corSlot 321 0 0x80000001 (csetPut .corSlot 321 1 8
    (csetPut .corSlot 28 0 0x80000002 (csetPut .corSlot 28 1 9
      (modCor (fun y => { y with cores := [(3, x)], launches := ls }) (hnd1 5 (ten [(9, l)]))))))))
def lau (ps : List LPart) : Launch := { tag := 9, tenant := 1, step := none, code := 5, codeBytes := 128, entry := 64, seed := 3, arg := 8, limit := 100, parts := ps, at_ := some ⟨0,0⟩ }
def lrun : Live := { ld [] with stage := .running }
def part : LPart := { core := 3, slot := 2, todo := [11, 12], plot := some 10, started := true }
def pt0 : LPart := { core := 3, slot := 2, todo := [10, 11], started := false }
def core2 (x : CSlot) (st : CoreSt) : Core := { st := st, slot := 2, next := 4, slots := [(2, x)] }
def qt0 : QTile := { hdr := leB 1 7 ++ leB 1 2 ++ zeros 6 ++ leB 2 (64*3+5) ++ leB 3 0 ++ zeros 3, line := 6, launch := 9, plot := 10 }
def syn (op : Byte) (s : State) : State := { s with mem := memWrite s.mem (imgKey 3 (6*64)) ([op, 1, 0, 0, 0, 0, 1, 0]) }
def tok : CSlot := { cnts := [(7,3)], pools := [(5,4)], queue := [{ qt0 with hdr := (leB 1 7 ++ leB 1 9 ++ zeros 14) }, qt0], hart := .run }
def tokF : CSlot := { tok with queue := [{ qt0 with fired := true, blk := ([1, 0, 0, 0, 0, 0, 1, 0] ++ zeros 56) }, qt0] }
def tf (op : Byte) : State := syn op (cs (core2 tok .running) [lau [part]] lrun)
def tc : State := cs (core2 tokF .running) [lau [part]] lrun
def fp (core : Nat) (pool : Bool) (i n : Nat) : FPost := { tenant := 1, src := none, step := none, post := ⟨core, pool, i, n⟩ }
def fl (f : FPost) : State := modCor (fun y => { y with flight := [f, f] }) tc
def ht (x : CSlot) : State := cs (core2 x .running) [lau [part]] lrun
def hr : HartRun := [.store 0x100 [5], .load 0x100 1 .zero 0x410008, .store 0x20000018 [2, 0, 0, 0], .csr 2 0x410010, .ran 3 0 1]
def memC (s : State) : State := { s with mem := memWrite s.mem (hKey 5 0) [1,2,3] }
def sw (img : Bool) : State := csetPut .corSlot 28 1 0x99 { cs { core2 tokF .swapping with slots := [(2, tokF), (4, { image := img })] } [lau [part]] lrun with mem := memWrite (memWrite [] (imgKey 3 0) [1,2,3]) (hKey 0x99 0) [4,5,6,7] }
def swh (img empty : Bool) : State := modCore 3 (fun x => { x with empty := empty }) (hnd1 7 (hnd1 0x99 (sw img)))

/-- The premises of each clause of LaunchesStart are met, once for each of its cases. -/
theorem wit_LaunchesStart :
    (∃ (tag : Nat) (f : Nat × Nat) (l : Live) (st : Option Nat) (s : State), (l.stage ≠ .promo ∧ launchFault s (liveTen l) l.desc = some f) ∧ (Starts
      s tag 0x30 l st)) ∧
    (∃ (tag : Nat) (l : Live) (st : Option Nat) (s : State), (launchFault s (liveTen l) l.desc = none ∧ asleep s = false ∧ launchCores s (liveTen l)
      ≠ [] ∧ (lMapEn l.desc && touchesT2 s (lMap l.desc) 0 (64 * lPlots l.desc)) = false) ∧ (Starts s tag 0x30 l st)) ∧
    (∃ (tag : Nat) (l : Live) (st : Option Nat) (s : State), (launchFault s (liveTen l) l.desc = none ∧ launchCores s (liveTen l) = []) ∧ (Starts s
      tag 0x30 l st)) ∧
    (∃ (tag : Nat) (c : Nat) (l : Launch) (p : LPart) (s : State), launchRec s tag = some l ∧ l.parts.find? (fun p => decide (p.core = c)) = some p ∧
      p.started = false ∧ ((∀ m ∈ s.cor.launches.takeWhile (fun m => decide (m.tag ≠ tag)), m.tenant = l.tenant → ∀ q ∈ m.parts, q.core = c → q.done
      = true)) ∧ s.err.fence = false ∧ nclkOn s = true ∧ (coreRec s c).st = .idle ∧ ((coreRec s c).slot ≠ p.slot ∨ (coreRec s c).empty = true)) ∧
    (∃ (tag : Nat) (c : Nat) (q : Nat) (rest : List Nat) (l : Launch) (p : LPart) (s : State), launchRec s tag = some l ∧ l.parts.find? (fun p =>
      decide (p.core = c)) = some p ∧ p.started = false ∧ p.todo = q :: rest ∧ ((∀ m ∈ s.cor.launches.takeWhile (fun m => decide (m.tag ≠ tag)),
      m.tenant = l.tenant → ∀ q ∈ m.parts, q.core = c → q.done = true)) ∧ s.err.fence = false ∧ nclkOn s = true ∧ ((coreRec s c).st = .idle ∨
      (coreRec s c).st = .running) ∧ (coreRec s c).slot = p.slot ∧ (((coreRec s c).st = .idle → (coreRec s c).empty = false)) ∧ touchesT2 s l.code 0
      l.codeBytes = false ∧ poisonedIn s l.code 0 l.codeBytes = [] ∧ l.codeBytes ≤ 0x410000 ∧ memWf s.mem = true) :=
  ⟨⟨9, ((launchFault (cs {} [] (ld [(52,2,0)])) 1 (ld [(52,2,0)]).desc).getD (0,0)), (ld [(52,2,0)]), none, (cs {} [] (ld [(52,2,0)])), by
      decide +kernel, starts_of (by decide +kernel) (by decide +kernel)⟩,
   ⟨9, (ld []), none, (cs {} [] (ld [])), by decide +kernel, starts_of (by decide +kernel) (by decide +kernel)⟩,
   ⟨9, (ld []), none, (modPwr (fun p => { p with dies := [(0,{ tripped := true }),(1,{ tripped := true })] }) (cs {} [] (ld []))), by decide +kernel,
      starts_of (by decide +kernel) (by decide +kernel)⟩,
   ⟨9, 3, (lau [pt0]), pt0, (cs { core2 {} .idle with slot := 4 } [lau [pt0]] lrun), by decide +kernel⟩,
   ⟨9, 3, 10, ([11]), (lau [pt0]), pt0, (memC (cs (core2 {} .idle) [lau [pt0]] lrun)), by decide +kernel⟩⟩

/-- The premises of each clause of TilesAndPosts are met, once for each of its cases. -/
theorem wit_TilesAndPosts :
    (∃ (c : Nat) (i : Nat) (q : QTile) (l : Launch) (s : State), (coreRec s c).st = .running ∧ s.err.fence = false ∧ nclkOn s = true ∧ memb 5
      s.boot.drained = false ∧ memb 6 s.boot.drained = false ∧ nextTile s (slotRec s c (coreRec s c).slot) = some i ∧ (slotRec s c (coreRec s
      c).slot).queue[i]? = some q ∧ launchRec s q.launch = some l) ∧
    (∃ (c : Nat) (i : Nat) (k : Nat) (q : QTile) (l : Launch) (p : LPart) (o : TileOut) (s : State) (s1 : State), (((coreRec s c).st = .running ∨
      (coreRec s c).st = .preempting) ∧ nclkOn s = true ∧ k = (coreRec s c).slot ∧ (slotRec s c k).queue[i]? = some q ∧ launchRec s q.launch = some l
      ∧ q.fired = true ∧ q.wrote = false ∧ rowsT2 s ((xferRows q.blk).1 ++ (xferRows q.blk).2) = false ∧ ((∀ r ∈ (xferRows q.blk).1, poisonedIn s r.1
      r.2.1 r.2.2 = [])) ∧ ((∀ r ∈ (xferRows q.blk).2, rmwPoison s r.1 r.2.1 r.2.2 = [])) ∧ writesWait s1 (2 ^ 20 + c) = false ∧ l.parts.find? (fun p
      => decide (p.core = c)) = some p ∧ p.plot ≠ none) ∧ (o = runTile (tileCtx s c l) q.blk) ∧ (s1 = forS ((xferRows q.blk).1 ++ (xferRows q.blk).2)
      (fun r => countAccess (dieOfCore c) r.1 r.2.1 r.2.2) (tileWrites c l o (modSlot c k (fun x =>
      { x with queue := x.queue.modify i (fun y => { y with wrote := true }) }) s)))) ∧
    (∃ (i : Nat) (k : Nat) (f : FPost) (s : State), s.cor.flight[i]? = some f ∧ nclkOn s = true ∧ f.post.core < numCores s ∧ slotOf s f.post.core
      f.tenant = some k) ∧
    (∃ (i : Nat) (f : FPost) (s : State), s.cor.flight[i]? = some f ∧ nclkOn s = true ∧ ((f.post.core < numCores s → slotOf s f.post.core f.tenant =
      none))) :=
  ⟨⟨3, 1, qt0, (lau [part]), (tf 1), by decide +kernel⟩,
   ⟨3, 0, 2, { qt0 with fired := true, blk := ([1, 0, 0, 0, 0, 0, 1, 0] ++ zeros 56) }, (lau [part]), part, (runTile (tileCtx tc 3 (lau [part]))
      ({ qt0 with fired := true, blk := ([1, 0, 0, 0, 0, 0, 1, 0] ++ zeros 56) } : QTile).blk), tc, (tileWrites 3 (lau [part]) (runTile (tileCtx tc 3
      (lau [part])) ({ qt0 with fired := true, blk := ([1, 0, 0, 0, 0, 0, 1, 0] ++ zeros 56) } : QTile).blk) (modSlot 3 2 (fun x =>
      { x with queue := x.queue.modify 0 (fun y => { y with wrote := true }) }) tc)), by decide +kernel, rfl, rfl⟩,
   ⟨1, 2, (fp 3 false 7 65535), (fl (fp 3 false 7 65535)), by decide +kernel⟩,
   ⟨0, (fp 4 true 5 1), (fl (fp 4 true 5 1)), by decide +kernel⟩⟩

/-- The premises of each clause of HartTokens are met, once for each of its cases. -/
theorem wit_HartTokens :
    (∃ (cmd : Instr) (pool : Bool) (c : Nat) (i : Nat) (v : Nat) (k : Nat) (r : HartRun) (l : Launch) (p : LPart) (s : State), ((cmd = .corTiCnt c r
      i v ∧ pool = false ∧ i < 256) ∨ (cmd = .corTiPool c r i v ∧ pool = true ∧ i < 64)) ∧ hartAt s c = some (k, l, p) ∧ hartFree s c k = true ∧
      runWaits s c k r = false ∧ runFault s c (slotTen s c k) r = none) ∧
    (∃ (cmd : Instr) (me : HartSt) (pool : Bool) (c : Nat) (i : Nat) (rd : Nat) (k : Nat) (n : Nat) (v : Nat) (r : HartRun) (l : Launch) (p : LPart)
      (s : State) (s0 : State), ((cmd = .corTiWait c r ⟨i, rd⟩ ∧ me = .waitCnt i ∧ pool = false ∧ i < 256) ∨ (cmd = .corTiPwait c r ⟨i, rd⟩ ∧ me =
      .waitPool i ∧ pool = true ∧ i < 64)) ∧ hartAt s c = some (k, l, p) ∧ ((hartFree s c k = true ∧ runWaits s c k r = false ∧ runFault s c (slotTen
      s c k) r = none ∧ s0 = applyRun c k r s) ∨ ((slotRec s c k).hart = me ∧ s0 = s)) ∧ n = max 1 (slotRec s0 c k).waitN ∧ v = (if pool then Map.get
      0 (slotRec s c k).pools i else Map.get 0 (slotRec s c k).cnts i)) ∧
    (∃ (cmd : Instr) (me : HartSt) (pool : Bool) (c : Nat) (i : Nat) (rd : Nat) (k : Nat) (n : Nat) (v : Nat) (r : HartRun) (l : Launch) (p : LPart)
      (s : State) (s0 : State), ((cmd = .corTiWait c r ⟨i, rd⟩ ∧ me = .waitCnt i ∧ pool = false ∧ i < 256) ∨ (cmd = .corTiPwait c r ⟨i, rd⟩ ∧ me =
      .waitPool i ∧ pool = true ∧ i < 64)) ∧ hartAt s c = some (k, l, p) ∧ ((hartFree s c k = true ∧ runWaits s c k r = false ∧ runFault s c (slotTen
      s c k) r = none ∧ s0 = applyRun c k r s) ∨ ((slotRec s c k).hart = me ∧ s0 = s)) ∧ n = max 1 (slotRec s0 c k).waitN ∧ v = (if pool then Map.get
      0 (slotRec s c k).pools i else Map.get 0 (slotRec s c k).cnts i)) ∧
    (∃ (cmd : Instr) (me : HartSt) (pool : Bool) (c : Nat) (i : Nat) (rd : Nat) (k : Nat) (n : Nat) (v : Nat) (r : HartRun) (l : Launch) (p : LPart)
      (s : State) (s0 : State), ((cmd = .corTiWait c r ⟨i, rd⟩ ∧ me = .waitCnt i ∧ pool = false ∧ i < 256) ∨ (cmd = .corTiPwait c r ⟨i, rd⟩ ∧ me =
      .waitPool i ∧ pool = true ∧ i < 64)) ∧ hartAt s c = some (k, l, p) ∧ ((hartFree s c k = true ∧ runWaits s c k r = false ∧ runFault s c (slotTen
      s c k) r = none ∧ s0 = applyRun c k r s) ∨ ((slotRec s c k).hart = me ∧ s0 = s)) ∧ n = max 1 (slotRec s0 c k).waitN ∧ v = (if pool then Map.get
      0 (slotRec s c k).pools i else Map.get 0 (slotRec s c k).cnts i)) ∧
    (∃ (c : Nat) (line : Nat) (k : Nat) (r : HartRun) (l : Launch) (p : LPart) (s : State) (s0 : State), hartAt s c = some (k, l, p) ∧ ((hartFree s c
      k = true ∧ runWaits s c k r = false ∧ runFault s c (slotTen s c k) r = none ∧ s0 = applyRun c k r s) ∨ ((slotRec s c k).hart = .waitPush line ∧
      s0 = s))) :=
  ⟨⟨(.corTiCnt 3 hr 7 65534), false, 3, 7, 65534, 2, hr, (lau [part]), part, (ht tok), by decide +kernel⟩,
   ⟨(.corTiWait 3 hr ⟨7, 5⟩), (.waitCnt 7), false, 3, 7, 5, 2, 2, 3, hr, (lau [part]), part, (ht tok), (applyRun 3 2 hr (ht tok)), by decide +kernel⟩,
   ⟨(.corTiPwait 3 [] ⟨5, 0⟩), (.waitPool 5), true, 3, 5, 0, 2, 1, 4, [], (lau [part]), part, (ht { tok with hart := .waitPool 5 }), (ht
      { tok with hart := .waitPool 5 }), by decide +kernel⟩,
   ⟨(.corTiPwait 3 [] ⟨6, 0⟩), (.waitPool 6), true, 3, 6, 0, 2, 9, 0, [], (lau [part]), part, (ht { tok with waitN := 9 }), (applyRun 3 2 [] (ht
      { tok with waitN := 9 })), by decide +kernel⟩,
   ⟨3, 0x10005, 2, hr, (lau [part]), part, (ht tok), (applyRun 3 2 hr (ht tok)), by decide +kernel⟩⟩

/-- The premises of each clause of PlotsAndSlices are met, once for each of its cases. -/
theorem wit_PlotsAndSlices :
    (∃ (c : Nat) (k : Nat) (r : HartRun) (l : Launch) (p : LPart) (s : State), hartAt s c = some (k, l, p) ∧ hartFree s c k = true ∧ runWaits s c k r
      = false ∧ runFault s c (slotTen s c k) r = none ∧ launchRec s l.tag = some l ∧ l.parts.find? (fun p => decide (p.core = c)) = some p ∧ p.todo ≠
      []) ∧
    (∃ (c : Nat) (k : Nat) (r : HartRun) (l : Launch) (p : LPart) (s : State), hartAt s c = some (k, l, p) ∧ hartFree s c k = true ∧ runWaits s c k r
      = false ∧ runFault s c (slotTen s c k) r = none ∧ launchRec s l.tag = some l ∧ l.parts.find? (fun p => decide (p.core = c)) = some p ∧ p.todo =
      [] ∧ ((∃ q ∈ (slotRec s c p.slot).queue, q.launch = l.tag))) ∧
    (∃ (c : Nat) (k : Nat) (r : HartRun) (l : Launch) (p : LPart) (d : Live) (s : State), hartAt s c = some (k, l, p) ∧ hartFree s c k = true ∧
      runWaits s c k r = false ∧ runFault s c (slotTen s c k) r = none ∧ launchRec s l.tag = some l ∧ l.parts = [p] ∧ p.core = c ∧ p.started = true ∧
      p.done = false ∧ p.todo = [] ∧ ((∀ q ∈ (slotRec s c p.slot).queue, q.launch ≠ l.tag)) ∧ liveRec s l.tag = some d ∧ s.hif.up = true ∧
      s.hif.resumePending = false ∧ ((∀ r ∈ (tstep s (liveTen d)).steps, r.sealTag = none))) ∧
    (∃ (cmd : Instr) (code : Nat) (st : Nat) (detail : Nat) (c : Nat) (k : Nat) (v : Nat) (r : HartRun) (l : Launch) (p : LPart) (d : Live) (s :
      State), (cmd, code, st, detail) ∈ [(Instr.plotAbort c r v, 0x11, 0x0302, v % 65536), (.hartException c r v, 0x10, 0x0301, v % 65536)] ∧ hartAt
      s c = some (k, l, p) ∧ hartFree s c k = true ∧ runWaits s c k r = false ∧ runFault s c (slotTen s c k) r = none ∧ launchRec s l.tag = some l ∧
      liveRec s l.tag = some d ∧ s.hif.up = true ∧ s.hif.resumePending = false ∧ ((∀ r ∈ (tstep s (liveTen d)).steps, r.sealTag = none))) ∧
    (∃ (cmd : Instr) (c : Nat) (k : Nat) (v : Nat) (e : Nat) (r : HartRun) (l : Launch) (p : LPart) (d : Live) (s : State), cmd ∈ [Instr.plotEnd c r,
      .plotAbort c r v, .hartException c r v, .corTiPush c r v, .corTiCnt c r 0 v, .corTiPool c r 0 v, .corTiWait c r ⟨0, v⟩, .corTiPwait c r ⟨0, v⟩]
      ∧ hartAt s c = some (k, l, p) ∧ hartFree s c k = true ∧ runWaits s c k r = false ∧ runFault s c (slotTen s c k) r = some e ∧ launchRec s l.tag
      = some l ∧ liveRec s l.tag = some d ∧ s.hif.up = true ∧ s.hif.resumePending = false ∧ ((∀ r ∈ (tstep s (liveTen d)).steps, r.sealTag = none))) ∧
    (∃ (cmd : Instr) (c : Nat) (k : Nat) (v : Nat) (e : Nat) (r : HartRun) (l : Launch) (p : LPart) (d : Live) (s : State), cmd ∈ [Instr.plotEnd c r,
      .plotAbort c r v, .hartException c r v, .corTiPush c r v, .corTiCnt c r 0 v, .corTiPool c r 0 v, .corTiWait c r ⟨0, v⟩, .corTiPwait c r ⟨0, v⟩]
      ∧ hartAt s c = some (k, l, p) ∧ hartFree s c k = true ∧ runWaits s c k r = false ∧ runFault s c (slotTen s c k) r = some e ∧ launchRec s l.tag
      = some l ∧ liveRec s l.tag = some d ∧ s.hif.up = true ∧ s.hif.resumePending = false ∧ ((∀ r ∈ (tstep s (liveTen d)).steps, r.sealTag = none))) ∧
    (∃ (tag : Nat) (l : Launch) (p : LPart) (rest : List LPart) (d : Live) (s : State), launchRec s tag = some l ∧ l.parts = p :: rest ∧ l.at_.isSome
      = true ∧ nclkOn s = true ∧ liveRec s tag = some d ∧ s.hif.up = true ∧ s.hif.resumePending = false ∧ ((∀ r ∈ (tstep s (liveTen d)).steps,
      r.sealTag = none))) ∧
    (∃ (c : Nat) (s : State), ((coreRec s c).st = .running ∨ (coreRec s c).st = .idle) ∧ nclkOn s = true) ∧
    (∃ (c : Nat) (s : State), ((coreRec s c).st = .running ∨ (coreRec s c).st = .idle) ∧ nclkOn s = true) ∧
    (∃ (c : Nat) (s : State), (coreRec s c).st = .preempting ∧ nclkOn s = true) ∧
    (∃ (c : Nat) (old : Nat) (new : Nat) (s : State), (coreRec s c).st = .swapping ∧ nclkOn s = true ∧ s.err.fence = false ∧ old = (coreRec s c).slot
      ∧ new = (coreRec s c).next ∧ old ≠ new ∧ (coreRec s c).empty = false ∧ slotValid s c old = true ∧ slotImg s c old ≠ slotImg s c new ∧ (hndRec s
      (slotImg s c old)).map Hnd.tenant = some (slotTen s c old) ∧ c < 128 ∧ Map.get [] s.dbg.samples c = [] ∧ memWf s.mem = true) ∧
    (∃ (c : Nat) (old : Nat) (new : Nat) (s : State), (coreRec s c).st = .swapping ∧ nclkOn s = true ∧ s.err.fence = false ∧ old = (coreRec s c).slot
      ∧ new = (coreRec s c).next ∧ old ≠ new ∧ (coreRec s c).empty = false ∧ slotValid s c old = true ∧ slotImg s c old ≠ slotImg s c new ∧ (hndRec s
      (slotImg s c old)).map Hnd.tenant = some (slotTen s c old) ∧ c < 128 ∧ Map.get [] s.dbg.samples c = [] ∧ memWf s.mem = true) ∧
    (∃ (c : Nat) (s : State), (coreRec s c).st = .swapping ∧ nclkOn s = true ∧ s.err.fence = false ∧ (coreRec s c).empty = true ∧ Map.get []
      s.dbg.samples c = []) :=
  ⟨⟨3, 2, hr, (lau [part]), part, (ht tok), by decide +kernel⟩,
   ⟨3, 2, hr, (lau [{ part with todo := [] }]), ({ part with todo := [] }), (cs (core2 tok .running) [lau [{ part with todo := [] }]] lrun), by
      decide +kernel⟩,
   ⟨3, 2, hr, (lau [{ part with todo := [] }]), { part with todo := [] }, lrun, (cs (core2 { tok with queue := [] } .running) [lau
      [{ part with todo := [] }]] lrun), by decide +kernel⟩,
   ⟨(.plotAbort 3 hr 0x10007), 0x11, 0x0302, 7, 3, 2, 0x10007, hr, (lau [part]), part, lrun, (ht tok), by decide +kernel⟩,
   ⟨(.plotAbort 3 [.store 0x101 [5, 6]] 7), 3, 2, 7, 6, [.store 0x101 [5, 6]], (lau [part]), part, lrun, (ht tok), by decide +kernel⟩,
   ⟨(.corTiWait 3 [.load 0xF0000000 4 .zero 0x410008] ⟨0, 7⟩), 3, 2, 7, 5, [.load 0xF0000000 4 .zero 0x410008], (lau [part]), part, lrun, (ht tok),
      by decide +kernel⟩,
   ⟨9, (lau [part]), part, ([]), lrun, (ht tok), by decide +kernel⟩,
   ⟨3, (ht tok), by decide +kernel⟩,
   ⟨3, (cs { core2 tokF .running with slots := [(2, tokF), (4, {})] } [lau [part],
      { lau [{ part with slot := 4, started := false }] with tag := 10, tenant := 2 }] lrun), by decide +kernel⟩,
   ⟨3, (cs (core2 tokF .preempting) [lau [part]] lrun), by decide +kernel⟩,
   ⟨3, 2, 4, (swh true false), by decide +kernel⟩,
   ⟨3, 2, 4, (swh false false), by decide +kernel⟩,
   ⟨3, (swh true true), by decide +kernel⟩⟩

end S09

namespace S10

def spl (s : State) : State := { s with stp := { s.stp with lees := [⟨1,5,5,0,0,[],false⟩] } }
def b10 : State := run1 (hnd1 5 (ten [(9, lv [])]))
def lau (ps : List LPart) : Launch := { tag := 9, tenant := 1, step := none, code := 5, codeBytes := 128, entry := 64, seed := 3, arg := 8, limit := 100, parts := ps, at_ := some ⟨0,0⟩ }
def part : LPart := { core := 3, slot := 2, todo := [11, 12], plot := some 10, started := true }
def lrun : Live := { lv [(0,1,0x30)] with stage := .running }
def cs (ls : List Launch) : State :=
  csetPut .corSlot 26 0 0x80000001 (csetPut .corSlot 26 1 7 (modCor (fun y => { y with cores := [(3, { st := .running, slot := 2 })], launches := ls }) (hnd1 5 (ten [(9, lrun)]))))
def upf (l : List UpMsg) (s : State) : State := modCel (fun c => { c with up := l }) s
def er (f : Err → Err) (s : State) : State := { s with err := f s.err }
def mv (m : Move) (s : State) : State := modPln (fun p => { p with moves := [m] }) s
def pg (x : Page) (s : State) : State := modPln (fun p => { p with pages := Map.put p.pages (pageKey 5 0) x }) s
def stk (k : Nat) (x : Stk) (s : State) : State := modPln (fun p => { p with stk := [(k, x)] }) s

/-- The premises of FaultReportPath are met. -/
theorem wit_FaultReportPath :
    ∃ (src : Nat) (unit : Nat) (core : Nat) (t : Nat) (h : Nat) (off : Nat) (s : State), nclkOn s = true ∧ 1 ≤ src ∧ src ≤ 9 ∧ errUnit s unit = true
      :=
  ⟨1, 3, 3, 1, 5, 0x3000, b10, by decide +kernel⟩

open S04 in
/-- The premises of each clause of ErrorsAreCounted are met, once for each of its cases. -/
theorem wit_ErrorsAreCounted :
    (∃ (src : Nat) (cls : Nat) (un : Nat) (c : Nat) (i : Nat) (ts : List Nat) (s : State), s.dbg.frost = 0 ∧ s.cel.own ≠ 2 ∧ s.cel.frozen = false ∧
      s.cel.up.findIdx? freshFault = some i ∧ s.cel.up[i]? = some (.fault src cls un c ts false)) ∧
    (∃ (s : State), s.dbg.frost = 0 ∧ s.cel.own ≠ 2 ∧ s.cel.up.find? freshFault = none) ∧
    (∃ (src : Nat) (s : State), s.dbg.frost = 0 ∧ s.cel.own ≠ 2 ∧ s.cel.own = s.err.resetDie ∧ s.err.resetOn = some src) ∧
    (∃ (n : Nat) (s : State), nclkOn s = true ∧ errUnit s n = true) ∧
    (∃ (acc : Acc) (s : State), blockOpen s acc 12 = true) ∧
    (∃ (h : Nat) (p : Nat) (b : Nat) (x : Page) (y : Hnd) (s : State), nclkOn s = true ∧ pageRec s h p = some x ∧ hndRec s h = some y ∧ scrubOn s =
      true ∧ x.tier ≠ 2 ∧ b < 512) ∧
    (∃ (tier : Nat) (s : State), nclkOn s = true ∧ scrubOn s = true) :=
  ⟨⟨3, 3, 4, 5, 1, ([1]), (upf [.inputLow, .fault 3 3 4 5 [1] false] b10), by decide +kernel⟩,
   ⟨up, by decide +kernel⟩,
   ⟨3, (er (fun e => { e with fence := true, resetOn := some 3, reached := [1], resetDie := 0 }) (stk 2 { st := 3 } b10)), by decide +kernel⟩,
   ⟨2, vf3, by decide +kernel⟩,
   ⟨.pf0, (er (fun e => { e with ce := [(3,2^32-1)] }) b10), by decide +kernel⟩,
   ⟨5, 0, 511, ({ tier := 1 }), ({ tenant := 1, size := 0x200000 }), b10, by decide +kernel⟩,
   ⟨0, b10, by decide +kernel⟩⟩

/-- The premises of each clause of StressAndStacks are met, once for each of its cases. -/
theorem wit_StressAndStacks :
    (∃ (d : Nat) (s : State), nclkOn s = true ∧ (stressRec s d).running = true) ∧
    (∃ (d : Nat) (corner : Nat) (again : Nat) (s : State), nclkOn s = true ∧ (stressRec s d).running = true ∧ (stressRec s d).testing = true) ∧
    (∃ (d : Nat) (v : List Nat) (s : State), nclkOn s = true ∧ (dieP s d).sweeping = true ∧ v.length ≤ 25) ∧
    (∃ (k : Nat) (temp : Nat) (s : State), (stkRec s k).st ≠ 0 ∧ nclkOn s = true ∧ temp < 105) ∧
    (∃ (k : Nat) (temp : Nat) (s : State), (stkRec s k).st = 1 ∧ nclkOn s = true ∧ 105 ≤ temp) ∧
    (∃ (k : Nat) (s : State), k < numStacks s) ∧
    (∃ (d : Nat) (s : State), d < numDies s) ∧
    (∃ (s : State), s.cor.refLost = false) ∧
    (∃ (s : State), s.cor.refLost = true) :=
  ⟨⟨1, (er (fun e => { e with stress := [(1,{ running := true })] }) b10), by decide +kernel⟩,
   ⟨1, 5, 1, (er (fun e => { e with stress := [(1,{ running := true, testing := true })] }) b10), by decide +kernel⟩,
   ⟨1, ([600,601,602]), (modPwr (fun p => { p with dies := [(1,{ sweeping := true, vfail := [(3,7)] })] }) b10), by decide +kernel⟩,
   ⟨2, 0, (stk 2 { st := 1, level := 1, temp := 90 } b10), by decide +kernel⟩,
   ⟨2, 105, (stk 2 { st := 1, level := 1, temp := 90 } b10), by decide +kernel⟩,
   ⟨0, b10, by decide +kernel⟩,
   ⟨0, b10, by decide +kernel⟩,
   ⟨b10, by decide +kernel⟩,
   ⟨(modCor (fun x => { x with refLost := true }) b10), by decide +kernel⟩⟩

open S04 in
/-- The premises of each clause of PlanterMoves are met, once for each of its cases. -/
theorem wit_PlanterMoves :
    (∃ (s : State), nclkOn s = true) ∧
    (∃ (h : Nat) (p : Nat) (key : Nat) (m : Move) (x : Page) (s : State), key = pageKey h p ∧ moveOf s key = some m ∧ m.promo = false ∧ moveRuns s m
      = true ∧ nclkOn s = true ∧ Map.find s.pln.pages key = some x ∧ x.mark = false ∧ s.pln.waits = []) ∧
    (∃ (key : Nat) (x : Page) (s : State), Map.find s.pln.pages key = some x) ∧
    (∃ (h : Nat) (p : Nat) (key : Nat) (m : Move) (x : Page) (s : State), key = pageKey h p ∧ moveOf s key = some m ∧ m.promo = true ∧ moveRuns s m =
      true ∧ nclkOn s = true ∧ Map.find s.pln.pages key = some x ∧ s.pln.waits = [] ∧ overCap s m = false) ∧
    (∃ (k : Nat) (h : Nat) (line : Nat) (s : State), ((∃ l ∈ s.pln.press, l.stack = k ∧ l.hnd = h ∧ l.line = line)) ∧ nclkOn s = true ∧ s.err.fence =
      false ∧ poisonedIn s h (line * 64) 64 = []) :=
  ⟨⟨up, by decide +kernel⟩,
   ⟨5, 0, (pageKey 5 0), ({ page := pageKey 5 0, tier := 0, stack := 3 }), ({ tier := 1, c0 := 5, abandons := 0 }), (mv
      { page := pageKey 5 0, tier := 0, stack := 3 } (pg { tier := 1, c0 := 5, abandons := 0 } b10)), by decide +kernel⟩,
   ⟨(pageKey 5 0), ({ tier := 1, banned := true }), (pg { tier := 1, banned := true } b10), by decide +kernel⟩,
   ⟨5, 0, (pageKey 5 0), ({ page := pageKey 5 0, tier := 1, stack := 0, promo := true }), ({ tier := 2, c0 := 5, poison := [3] }), (mv
      { page := pageKey 5 0, tier := 1, stack := 0, promo := true } (pg { tier := 2, c0 := 5, poison := [3] } b10)), by decide +kernel⟩,
   ⟨1, 5, 3, (modPln (fun p => { p with press := [⟨1,1,5,3,[(0,1)],false⟩,⟨1,1,5,4,[(0,1)],false⟩] }) b10), by decide +kernel⟩⟩

/-- The premises of BarrelSumAnyOrder are met. -/
theorem wit_BarrelSumAnyOrder :
    ∃ (f : BrlFmt) (l : List Barrel) (k : List Barrel), l.Perm k :=
  ⟨brl16, [⟨.finite, 1⟩, ⟨.finite, 2⟩], [⟨.finite, 2⟩, ⟨.finite, 1⟩], by decide +kernel⟩

end S10

namespace S11

def cdl (op : Nat) (fs : List (Nat × Nat × Nat)) : Live := { lv ([(0,1,op),(16,3,5),(19,1,0x20),(26,1,0x21),(28,3,6),(31,1,0x21),(40,4,8),(44,4,77)] ++ fs) with stage := .fetched }
def cS (coord : Nat) (l : Live) : State :=
  bnd coord (modPln (fun p => { p with hnds := Map.put p.hnds 6 { tenant := 1, size := 0x200000 }, pages := Map.put p.pages (pageKey 6 0) { tier := 0 } }) (hnd1 5
    { ten [(9, l)] with mem := memWrite [] (hKey 5 0) [1,2,3,4,5,6,7,8,9] }))
def solo1 (s : State) : State := modVnl (fun v => { v with binds := [(0, { members := [(10, true), (11, false)], hops := [some 0, none], ready := true })] }) s
def col (op : Nat) (l : Live) : Coll := { tag := 9, bind := 0, opcode := op, id := 77, desc := l.desc, cls := 1, own := (List.range 32).map (BitVec.ofNat 8), digest := cDigest op l.desc, began := true }
def run9 (l : Live) : Live := { l with stage := .running }
def wC (c : Coll) (s : State) : State := modCol (fun x => { x with colls := [c] }) s
def cm (k : Nat) (dig : Nat) (fs : List (Nat × Nat × Nat)) (data : List Byte) : List Byte := (msg ([(0,1,k),(1,1,0x20),(2,2,1),(4,4,77),(24,4,2),(28,4,dig)] ++ fs)).take 32 ++ data
def elc : List Byte := [1,0,0,0,2,0,0,0]
def two0 : State := solo1 (cS 0 (cdl 0x40 []))

/-- The premises of each clause of CollectivesStart are met, once for each of its cases. -/
theorem wit_CollectivesStart :
    (∃ (c : Instr) (op : Nat) (tag : Nat) (f : Nat × Nat) (l : Live) (st : Option Nat) (s : State), ((c, op) ∈ [(Instr.allreduce tag, 0x40),
      (.reduceScatter tag, 0x41), (.allgather tag, 0x42), (.broadcast tag, 0x43), (.barrier tag, 0x44)] ∧ collFull s (liveTen l) = false ∧ collFault
      s (liveTen l) op l.desc = some f) ∧ (Starts s tag op l st)) ∧
    (∃ (c : Instr) (op : Nat) (tag : Nat) (b : Nat) (n : Nat) (l : Live) (st : Option Nat) (s : State), ((c, op) ∈ [(Instr.allreduce tag, 0x40),
      (.reduceScatter tag, 0x41), (.allgather tag, 0x42), (.broadcast tag, 0x43)] ∧ collFull s (liveTen l) = false ∧ collFault s (liveTen l) op
      l.desc = none ∧ bindOf s (liveTen l) = some b ∧ n = (if op = 0x43 ∧ cRoot l.desc ≠ tenCoord s (liveTen l) then 0 else cCount l.desc * kindBytes
      (cIn l.desc)) ∧ touchesT2 s (cSrc l.desc) (cSrcOff l.desc) n = false ∧ rangeHeld s (cSrc l.desc) (cSrcOff l.desc) n = false ∧ poisonedIn s
      (cSrc l.desc) (cSrcOff l.desc) n = [] ∧ collAt s tag = none ∧ s.col.parked = []) ∧ (Starts s tag op l st)) ∧
    (∃ (tag : Nat) (b : Nat) (l : Live) (st : Option Nat) (s : State), (collFull s (liveTen l) = false ∧ collFault s (liveTen l) 0x44 l.desc = none ∧
      bindOf s (liveTen l) = some b ∧ cMembers s b = [bindCoord s b] ∧ collAt s tag = none ∧ s.col.parked = []) ∧ (Starts s tag 0x44 l st)) ∧
    (∃ (tag : Nat) (b : Nat) (z : Nat) (l : Live) (st : Option Nat) (s : State), (collFull s (liveTen l) = false ∧ collFault s (liveTen l) 0x44
      l.desc = none ∧ bindOf s (liveTen l) = some b ∧ (cMembers s b).head? = some z ∧ z ≠ bindCoord s b ∧ collAt s tag = none ∧ s.col.parked = []) ∧
      (Starts s tag 0x44 l st)) :=
  ⟨⟨(.allreduce 9), 0x40, 9, ((collFault (cS 0 (cdl 0x40 [(40,4,0)])) 1 0x40 (cdl 0x40 [(40,4,0)]).desc).getD (0,0)), (cdl 0x40 [(40,4,0)]), none,
      (cS 0 (cdl 0x40 [(40,4,0)])), by decide +kernel, starts_of (by decide +kernel) (by decide +kernel)⟩,
   ⟨(.allreduce 9), 0x40, 9, 0, 32, (cdl 0x40 []), none, (cS 0 (cdl 0x40 [])), by decide +kernel, starts_of (by decide +kernel) (by decide +kernel)⟩,
   ⟨9, 0, (cdl 0x44 []), none, (solo1 (cS 0 (cdl 0x44 []))), by decide +kernel, starts_of (by decide +kernel) (by decide +kernel)⟩,
   ⟨9, 0, 0, (cdl 0x44 []), none, (cS 1 (cdl 0x44 [])), by decide +kernel, starts_of (by decide +kernel) (by decide +kernel)⟩⟩

/-- The premises of each clause of CollectiveMessages are met, once for each of its cases. -/
theorem wit_CollectiveMessages :
    (∃ (cmd : Instr) (i : Nat) (k : Nat) (b : Nat) (m : List Byte) (s : State), (cmd, k) ∈ [(Instr.contribution i, 1), (.globalPartial i, 2),
      (.globalResult i, 3), (.gatherData i, 4), (.barrierEnter i, 5), (.barrierRelease i, 6)] ∧ collInbox s i k = some (b, m) ∧ s.col.colls.find?
      (fun x => decide (x.bind = b) && decide (x.id = fieldAt m 4 4)) = none ∧ s.col.parked = [] ∧ ((fieldAt m 8 6 = 0 ∨ fieldAt m 8 6 ∉ (tstep s
      (bindTen s b)).dead))) ∧
    (∃ (cmd : Instr) (i : Nat) (k : Nat) (b : Nat) (m : List Byte) (x : Coll) (s : State), (cmd, k) ∈ [(Instr.contribution i, 1), (.globalPartial i,
      2), (.globalResult i, 3), (.gatherData i, 4)] ∧ collInbox s i k = some (b, m) ∧ ((fieldAt m 8 6 = 0 ∨ fieldAt m 8 6 ∉ (tstep s (bindTen s
      b)).dead)) ∧ s.col.colls.find? (fun x => decide (x.bind = b) && decide (x.id = fieldAt m 4 4)) = some x ∧ collAt s x.tag = some x ∧ fieldAt m
      28 4 = x.digest ∧ x.began = true ∧ ((k < 3 → inWindow s x m = true)) ∧ s.col.parked = []) ∧
    (∃ (i : Nat) (b : Nat) (m : List Byte) (x : Coll) (s : State), collInbox s i 5 = some (b, m) ∧ ((fieldAt m 8 6 = 0 ∨ fieldAt m 8 6 ∉ (tstep s
      (bindTen s b)).dead)) ∧ s.col.colls.find? (fun x => decide (x.bind = b) && decide (x.id = fieldAt m 4 4)) = some x ∧ collAt s x.tag = some x ∧
      fieldAt m 28 4 = x.digest ∧ x.began = true ∧ s.col.parked = [] ∧ (cMembers s b).all (fun z => memb z (addOnce (fieldAt m 2 2) x.enters)) =
      false) ∧
    (∃ (cmd : Instr) (i : Nat) (k : Nat) (b : Nat) (m : List Byte) (x : Coll) (l : Live) (s : State), (cmd, k) ∈ [(Instr.barrierEnter i, 5),
      (.barrierRelease i, 6)] ∧ collInbox s i k = some (b, m) ∧ ((fieldAt m 8 6 = 0 ∨ fieldAt m 8 6 ∉ (tstep s (bindTen s b)).dead)) ∧
      s.col.colls.find? (fun x => decide (x.bind = b) && decide (x.id = fieldAt m 4 4)) = some x ∧ collAt s x.tag = some x ∧ fieldAt m 28 4 =
      x.digest ∧ x.began = true ∧ s.col.parked = [] ∧ ((k = 5 → (cMembers s b).head? = some (bindCoord s b) ∧ ∀ z ∈ cMembers s b, z = fieldAt m 2 2 ∨
      z ∈ x.enters)) ∧ liveRec s x.tag = some l ∧ s.hif.up = true ∧ s.hif.resumePending = false ∧ ((∀ r ∈ (tstep s (liveTen l)).steps, r.sealTag =
      none))) ∧
    (∃ (cmd : Instr) (i : Nat) (k : Nat) (b : Nat) (m : List Byte) (x : Coll) (l : Live) (s : State), (cmd, k) ∈ [(Instr.contribution i, 1),
      (.globalPartial i, 2), (.globalResult i, 3), (.gatherData i, 4), (.barrierEnter i, 5), (.barrierRelease i, 6)] ∧ collInbox s i k = some (b, m)
      ∧ ((fieldAt m 8 6 = 0 ∨ fieldAt m 8 6 ∉ (tstep s (bindTen s b)).dead)) ∧ s.col.colls.find? (fun x => decide (x.bind = b) && decide (x.id =
      fieldAt m 4 4)) = some x ∧ fieldAt m 28 4 ≠ x.digest ∧ s.col.parked = [] ∧ liveRec s x.tag = some l ∧ s.hif.up = true ∧ s.hif.resumePending =
      false ∧ ((∀ r ∈ (tstep s (liveTen l)).steps, r.sealTag = none))) :=
  ⟨⟨(.contribution 0), 0, 1, 0, (cm 1 5 [] []), (inb (cm 1 5 [] []) (cS 0 (cdl 0x40 []))), by decide +kernel⟩,
   ⟨(.contribution 0), 0, 1, 0, (cm 1 (cDigest 0x40 (cdl 0x40 [(27,1,1),(31,1,0x20)]).desc) [] elc), (col 0x40 (cdl 0x40 [(27,1,1),(31,1,0x20)])),
      (wC (col 0x40 (cdl 0x40 [(27,1,1),(31,1,0x20)])) (inb (cm 1 (cDigest 0x40 (cdl 0x40 [(27,1,1),(31,1,0x20)]).desc) [] elc) (cS 0 (run9 (cdl 0x40
      [(27,1,1),(31,1,0x20)]))))), by decide +kernel⟩,
   ⟨0, 0, (cm 5 (cDigest 0x44 (cdl 0x44 []).desc) [] []), (col 0x44 (cdl 0x44 [])), (wC (col 0x44 (cdl 0x44 [])) (inb (cm 5 (cDigest 0x44 (cdl 0x44
      []).desc) [] []) (cS 0 (run9 (cdl 0x44 []))))), by decide +kernel⟩,
   ⟨(.barrierEnter 0), 0, 5, 0, (cm 5 (cDigest 0x44 (cdl 0x44 []).desc) [] []), ({ col 0x44 (cdl 0x44 []) with enters := [0] }), (run9 (cdl 0x44
      [])), (wC { col 0x44 (cdl 0x44 []) with enters := [0] } (inb (cm 5 (cDigest 0x44 (cdl 0x44 []).desc) [] []) (cS 0 (run9 (cdl 0x44 []))))), by
      decide +kernel⟩,
   ⟨(.contribution 0), 0, 1, 0, (cm 1 3 [] []), (col 0x40 (cdl 0x40 [])), (run9 (cdl 0x40 [])), (run1 (wC (col 0x40 (cdl 0x40 [])) (inb (cm 1 3 []
      []) (cS 0 (run9 (cdl 0x40 [])))))), by decide +kernel⟩⟩

/-- The premises of each clause of Collectives are met, once for each of its cases. -/
theorem wit_Collectives :
    (∃ (tag : Nat) (x : Coll) (l : Live) (s : State), collAt s tag = some x ∧ x.began = true ∧ x.bad = false ∧ collHas s x = true ∧ writesWait s tag
      = false ∧ nclkOn s = true ∧ liveRec s tag = some l ∧ s.hif.up = true ∧ s.hif.resumePending = false ∧ ((∀ r ∈ (tstep s (liveTen l)).steps,
      r.sealTag = none))) ∧
    (∃ (tag : Nat) (x : Coll) (l : Live) (s : State), collAt s tag = some x ∧ ((x.began = false ∨ x.bad = true ∨ collHas s x = false ∨ writesWait s
      tag = true)) ∧ nclkOn s = true ∧ liveRec s tag = some l ∧ s.hif.up = true ∧ s.hif.resumePending = false ∧ ((∀ r ∈ (tstep s (liveTen l)).steps,
      r.sealTag = none))) :=
  ⟨⟨9, ({ col 0x43 (cdl 0x43 []) with results := [(0,List.replicate 8 [1,2,3,4])], flags := 3, rounded := 5 }), (run9 (cdl 0x43 [])), (wC
      { col 0x43 (cdl 0x43 []) with results := [(0,List.replicate 8 [1,2,3,4])], flags := 3, rounded := 5 } (cS 1 (run9 (cdl 0x43 [])))), by
      decide +kernel⟩,
   ⟨9, (col 0x43 (cdl 0x43 [])), (run9 (cdl 0x43 [])), (run1 (wC (col 0x43 (cdl 0x43 [])) (cS 1 (run9 (cdl 0x43 []))))), by decide +kernel⟩⟩

end S11

namespace S12

def tk (fs : List (Nat × Nat × Nat)) : Live := lv ([(0,1,0x60)] ++ fs)
def h5 : Hnd := { tenant := 1, size := 8192, key := 7 }
def rs0 (l : Live) : State :=
  csetPut .rckTen 1 0 0x80100028 (bnd 0 (modPln (fun p => { p with hnds := [(5, h5)], pages := [(pageKey 5 0, { tier := 1 })] })
    { ten [(9, l)] with mem := memWrite [] (hKey 5 0) [1,2,3], stp := { tens := [(1, { drawn := some 4 })] }, rck := { up.rck with bucket := 5 * 86400000000000 } }))
def op1 (s : State) : State := modVnl (fun v => { v with ports := [(0, { st := .opened, keys := true })] }) s
def kz (s : State) : State := modPln (fun p => { p with hnds := [(5, { h5 with key := 0 })] }) s
def job : RackJob := { tag := 9, tenant := 1, step := 4, slot := 1, size := 0x200000, hs := [(5, h5)] }
def jS (j : RackJob) (s : State) : State := modRck (fun r => { r with job := some j, slot1 := { st := 1, tenant := 1, step := 4, parcel := 0x77 } }) s
def held9 : Live := { tk [] with stage := .running }
def rj (j : RackJob) : State := jS j (rs0 held9)
def mkp (s : State) : State := modPln (fun p => { p with pages := [(pageKey 5 0, { tier := 1, mark := true })], waits := [⟨9,1,none,5,4096,[9]⟩] }) (run1 s)
def mk2 (s : State) : State := modStp (fun x => { x with lees := [⟨1,5,5,0,0,[],true⟩] }) (modPln (fun p => { p with pages := [(pageKey 5 0, { tier := 1, mark := true })] }) s)
def gm (k : Nat) (fs : List (Nat × Nat × Nat)) (d : List Byte) : List Byte := (msg ([(0,1,k),(2,2,0x77),(4,6,4),(10,2,1)] ++ fs)).take 32 ++ d
def gS (m : List Byte) : State := inb m (rs0 (lv []))
def gin (g : Gin) (s : State) : State := modRck (fun r => { r with gin := [(0,{ valid := true, tenant := 3, sender := 1 }), (2, g)] }) s
def g1 : Gin := { valid := true, tenant := 1, sender := 1, step := some 3, image := [⟨7,0,0,[1]⟩, ⟨7,0,1,[2]⟩], shadow := [⟨7,0,1,[3]⟩] }
def blk (b : Byte) : List Byte := crcBlock (List.replicate 4096 b)
def tr (f : TenRack → TenRack) (s : State) : State := modTenRack 1 f s
def oh (h : Nat) : HashRec := ⟨1, 0, 7, 4, h, true⟩
def ah : HashRec := ⟨1, 1, 7, 4, 0x55, false⟩
def rl (op : Nat) (fs : List (Nat × Nat × Nat)) : Live := lv ([(0,1,op),(20,2,1),(24,6,4)] ++ fs)
def rr (l : Live) : State := rs0 l
def rest9 : Rest := { tag := 9, tenant := 1, seed := false, step := 4, map := [(7,5)], asked := [(7,0),(7,1)], created := [5], phase := 1, kind := 1, donor := 1, entries := leB 4 7 ++ leB 3 5 ++ leB 1 0 ++ leB 6 8192 ++ zeros 114 }
def ws (x : Rest) (s : State) : State := modRck (fun r => { r with rests := [x] }) s
def rk9 : Live := { rl 0x62 [] with stage := .running }
def owed1 : ReadOwed := ⟨1, gm 0x26 [(24,8,16)] []⟩
theorem gm_drop (k : Nat) (fs : List (Nat × Nat × Nat)) (d : List Byte)
    (h : ((msg ([(0,1,k),(2,2,0x77),(4,6,4),(10,2,1)] ++ fs)).take 32).length = 32) : (gm k fs d).drop 32 = d := by
  rw [gm, List.drop_left' h]
theorem chk1 (n f g : Nat) (d bs : List Byte) (hn : n = 1) (hf : f = g) (hl : bs.length = 4096) (hd : d = crcBlock bs) :
    checkedBlocks n f d = some [(g, bs)] := by
  have hc : ofLe ((leB 4 (crc32c bs).toNat).take 4) = (crc32c bs).toNat := by
    have := (crc32c bs).isLt
    simp [leB, ofLe, BitVec.toNat_ofNat]
    omega
  subst hn hf hd
  simp [checkedBlocks, crcBlock, fieldAt, hl, hc]

/-- The premises of each clause of RacksAreTaken are met, once for each of its cases. -/
theorem wit_RacksAreTaken :
    (∃ (tag : Nat) (l : Live) (st : Option Nat) (s : State), (fieldAt l.desc 20 8 % 4096 ≠ 0) ∧ (Starts s tag 0x60 l st)) ∧
    (∃ (tag : Nat) (n : Nat) (l : Live) (s : State), (fieldAt l.desc 20 8 % 4096 = 0) ∧ (Starts s tag 0x60 l (some n))) ∧
    (∃ (tag : Nat) (l : Live) (s : State), (fieldAt l.desc 20 8 % 4096 = 0 ∧ (tstep s (liveTen l)).restoring = true) ∧ (Starts s tag 0x60 l none)) ∧
    (∃ (tag : Nat) (n : Nat) (k : Nat) (size : Nat) (hs : List (Nat × Hnd)) (l : Live) (s : State), (fieldAt l.desc 20 8 % 4096 = 0 ∧ (tstep s
      (liveTen l)).restoring = false ∧ n = ((tstep s (liveTen l)).drawn).getD 0xFFFFFFFFFFFF ∧ hs = rackables s (liveTen l) n ∧ ((∀ e ∈ hs, (keyAt
      e.2 n).1 ≠ 0)) ∧ ((bitOf (fieldAt l.desc 16 1) 0 = true → (buddySlot s (liveTen l)).isSome = true)) ∧ ((∀ e ∈ hs, groupOut e.2 (keyAt e.2 n).2
      (tenCoord s (liveTen l)) (((bindOf s (liveTen l)).map (fun b => (bindRec s b).members.length)).getD 0) = false)) ∧ s.rck.job = none ∧ (slotAt s
      0).st ≠ 1 ∧ (slotAt s 1).st ≠ 1 ∧ pickSlot s (liveTen l) = some k ∧ wearSpent s = false ∧ size = totalBytes hs [] ∧ size ≤ rsvReg s 1 * gib ∧ 2
      * size ≤ rsvReg s 4 * gib) ∧ (Starts s tag 0x60 l none)) ∧
    (∃ (tag : Nat) (n : Nat) (k : Nat) (size : Nat) (hs : List (Nat × Hnd)) (l : Live) (s : State), (fieldAt l.desc 20 8 % 4096 = 0 ∧ (tstep s
      (liveTen l)).restoring = false ∧ n = ((tstep s (liveTen l)).drawn).getD 0xFFFFFFFFFFFF ∧ hs = rackables s (liveTen l) n ∧ ((∀ e ∈ hs, (keyAt
      e.2 n).1 ≠ 0)) ∧ ((bitOf (fieldAt l.desc 16 1) 0 = true → (buddySlot s (liveTen l)).isSome = true)) ∧ ((∀ e ∈ hs, groupOut e.2 (keyAt e.2 n).2
      (tenCoord s (liveTen l)) (((bindOf s (liveTen l)).map (fun b => (bindRec s b).members.length)).getD 0) = false)) ∧ s.rck.job = none ∧ (slotAt s
      0).st ≠ 1 ∧ (slotAt s 1).st ≠ 1 ∧ pickSlot s (liveTen l) = some k ∧ wearSpent s = false ∧ size = totalBytes hs [] ∧ size ≤ rsvReg s 1 * gib ∧ 2
      * size ≤ rsvReg s 4 * gib) ∧ (Starts s tag 0x60 l none)) ∧
    (∃ (tag : Nat) (n : Nat) (k : Nat) (size : Nat) (hs : List (Nat × Hnd)) (l : Live) (s : State), (tag < 2 ^ 20 ∧ fieldAt l.desc 20 8 % 4096 = 0 ∧
      (tstep s (liveTen l)).restoring = false ∧ n = ((tstep s (liveTen l)).drawn).getD 0xFFFFFFFFFFFF ∧ hs = rackables s (liveTen l) n ∧ ((∀ e ∈ hs,
      (keyAt e.2 n).1 ≠ 0)) ∧ bitOf (fieldAt l.desc 16 1) 0 = true ∧ bitOf (fieldAt l.desc 16 1) 1 = false ∧ buddySlot s (liveTen l) = none ∧ ((∀ e ∈
      hs, groupOut e.2 (keyAt e.2 n).2 (tenCoord s (liveTen l)) (((bindOf s (liveTen l)).map (fun b => (bindRec s b).members.length)).getD 0) =
      false)) ∧ s.rck.job = none ∧ (slotAt s 0).st ≠ 1 ∧ (slotAt s 1).st ≠ 1 ∧ pickSlot s (liveTen l) = some k ∧ wearSpent s = false ∧ size =
      totalBytes hs [] ∧ 0 < size) ∧ (Starts s tag 0x60 l none)) ∧
    (∃ (tag : Nat) (n : Nat) (e : Nat × Hnd) (l : Live) (s : State), (tag < 2 ^ 20 ∧ fieldAt l.desc 20 8 % 4096 = 0 ∧ (tstep s (liveTen l)).restoring
      = false ∧ n = ((tstep s (liveTen l)).drawn).getD 0xFFFFFFFFFFFF ∧ (rackables s (liveTen l) n).find? (fun e => decide ((keyAt e.2 n).1 = 0)) =
      some e) ∧ (Starts s tag 0x60 l none)) :=
  ⟨⟨9, (tk [(20,8,5)]), none, (rs0 (tk [(20,8,5)])), by decide +kernel, starts_of (by decide +kernel) (by decide +kernel)⟩,
   ⟨9, 5, (tk [(16,1,1)]), (run1 (rs0 (tk [(16,1,1)]))), by decide +kernel, starts_of (by decide +kernel) (by decide +kernel)⟩,
   ⟨9, (tk []), (modTstep 1 (fun x => { x with st := .recover, restoring := true }) (rs0 (tk []))), by decide +kernel, starts_of (by decide +kernel)
      (by decide +kernel)⟩,
   ⟨9, 4, 0, 0x200000, (rackables (id (rs0 (tk []))) 1 4), (tk []), (id (rs0 (tk []))), by decide +kernel, starts_of (by decide +kernel) (by
      decide +kernel)⟩,
   ⟨9, 4, 0, 0x200000, (rackables (op1 (rs0 (tk [(16,1,1)]))) 1 4), (tk [(16,1,1)]), (op1 (rs0 (tk [(16,1,1)]))), by decide +kernel, starts_of (by
      decide +kernel) (by decide +kernel)⟩,
   ⟨9, 4, 0, 0x200000, (rackables (rs0 (tk [(16,1,1)])) 1 4), (tk [(16,1,1)]), (rs0 (tk [(16,1,1)])), by decide +kernel, starts_of (by
      decide +kernel) (by decide +kernel)⟩,
   ⟨9, 4, ((5,{ h5 with key := 0 })), (tk []), (kz (rs0 (tk []))), by decide +kernel, starts_of (by decide +kernel) (by decide +kernel)⟩⟩

/-- The premises of each clause of KeysSlotsAndWear are met, once for each of its cases. -/
theorem wit_KeysSlotsAndWear :
    (∃ (tag : Nat) (h : Nat) (x : Hnd) (l : Live) (st : Option Nat) (s : State), (h = fieldAt l.desc 16 3 ∧ hndRec s h = some x ∧ hndOk s (liveTen l)
      h = true ∧ x.noRack = false ∧ ((x.replicated = true → fieldAt l.desc 24 2 ≠ 0)) ∧ ((∀ e ∈ tenHnds s (liveTen l), e.1 ≠ h → e.2.key = fieldAt
      l.desc 20 4 → fieldAt l.desc 20 4 = 0)) ∧ ((∀ e ∈ s.pln.hnds, e.2.gone = false))) ∧ (Starts s tag 0x61 l st)) ∧
    (∃ (tag : Nat) (l : Live) (st : Option Nat) (s : State), Starts s tag 0x64 l st) ∧
    (∃ (acc : Acc) (k : Nat) (v : Nat) (s : State), blockOpen s acc 10 = true ∧ k < 2 ∧ bitOf v 0 = true ∧ tenActive s (slotAt s k).tenant = false) ∧
    (∃ (acc : Acc) (k : Nat) (v : Nat) (s : State), tenActive s (slotAt s k).tenant = true) :=
  ⟨⟨9, 5, h5, (lv [(0,1,0x61),(16,3,5),(20,4,99)]), none, (rs0 (lv [(0,1,0x61),(16,3,5),(20,4,99)])), by decide +kernel, starts_of (by
      decide +kernel) (by decide +kernel)⟩,
   ⟨9, (lv [(0,1,0x64)]), none, (rs0 (lv [(0,1,0x64)])), starts_of (by decide +kernel) (by decide +kernel)⟩,
   ⟨.pf0, 1, 1, (modRck (fun r => { r with slot1 := { st := 2, tenant := 3 }, slot0 := { st := 2 } }) (rs0 (tk []))), by decide +kernel⟩,
   ⟨.pf0, 1, 1, (modRck (fun r => { r with slot1 := { st := 2, tenant := 1 }, slot0 := { st := 2 } }) (rs0 (tk []))), by decide +kernel⟩⟩

/-- The premises of each clause of RacksComplete are met, once for each of its cases. -/
theorem wit_RacksComplete :
    (∃ (j : RackJob) (s : State), s.rck.job = some j ∧ j.asking = false ∧ j.marked = false ∧ nclkOn s = true ∧ s.pln.waits = []) ∧
    (∃ (h : Nat) (p : Nat) (b : Nat) (x : Hnd) (j : RackJob) (s : State), nclkOn s = true ∧ s.rck.job = some j ∧ jobHnd j h = some x ∧ ((ownsPage x p
      = true ∨ j.size + 4096 * ((j.blks.filter (fun y => j.hs.any (fun e => decide ((keyAt e.2 j.step).1 = y.key) && !ownsPage e.2 y.page))).length +
      1) ≤ rsvReg s 1 * gib)) ∧ s.pln.waits.any (fun w => decide (w.hnd = h) && decide (pageIdx w.off = p) && decide (blockIdx w.off = b) && decide
      (needOf s w = .cow)) = true) ∧
    (∃ (j : RackJob) (s : State), (s.rck.job = some j ∧ j.marked = true ∧ j.passed = false ∧ nclkOn s = true ∧ s.err.fence = false ∧ asleep s =
      false) ∧ ((∀ e ∈ j.hs, poisonedIn s e.1 0 e.2.size = []))) ∧
    (∃ (c : Instr) (h : Nat) (x : Hnd) (j : RackJob) (s : State), (s.rck.job = some j ∧ nclkOn s = true ∧ jobHnd j h = some x) ∧ ((c = .copyPassDone
      (some h) ∧ j.marked = true ∧ j.passed = false ∧ s.err.fence = false ∧ asleep s = false) ∨ (∃ key, c = .rackDrainDone (some key) ∧ j.passed =
      true ∧ (j.graft = false ∨ j.graftOk = true)))) ∧
    (∃ (j : RackJob) (s : State), s.rck.job = some j ∧ j.passed = true ∧ nclkOn s = true ∧ ((j.graft = false ∨ j.graftOk = true))) :=
  ⟨⟨job, (rj job), by decide +kernel⟩,
   ⟨5, 0, 1, h5, ({ job with marked := true }), (mkp (rj { job with marked := true })), by decide +kernel⟩,
   ⟨({ job with marked := true }), (mk2 (rj { job with marked := true })), by decide +kernel, by decide +kernel⟩,
   ⟨(.copyPassDone (some 5)), 5, h5, ({ job with marked := true }), (mk2 (rj { job with marked := true })), by decide +kernel, Or.inl (by
      decide +kernel)⟩,
   ⟨({ job with marked := true, passed := true }), (mk2 (rj { job with marked := true, passed := true })), by decide +kernel⟩⟩

/-- The premises of each clause of GraftMessages are met, once for each of its cases. -/
theorem wit_GraftMessages :
    (∃ (i : Nat) (b : Nat) (k : Nat) (m : List Byte) (s : State), ((nextHop s b (fieldAt m 10 2)).bind (slotTo s b) = some k) ∧ (inboxAt s i 0x20 =
      some (b, m))) ∧
    (∃ (i : Nat) (b : Nat) (size : Nat) (m : List Byte) (j : RackJob) (s : State), (s.rck.job = some j ∧ j.tenant = bindTen s b ∧ j.asking = true ∧
      size = totalBytes j.hs [] ∧ size ≤ rsvReg s 1 * gib ∧ 2 * size ≤ rsvReg s 4 * gib ∧ size ≤ fieldAt m 24 8) ∧ (inboxAt s i 0x21 = some (b, m))) ∧
    (∃ (i : Nat) (b : Nat) (k : Nat) (m : List Byte) (l : List (Nat × List Byte)) (s : State), (ginFor s (bindTen s b) (fieldAt m 10 2) = some k ∧
      ginHeld s + 4096 * fieldAt m 22 2 ≤ rsvReg s 2 * gib) ∧ (inboxAt s i 0x22 = some (b, m)) ∧ (checkedBlocks (fieldAt m 22 2) (fieldAt m 20 2)
      (m.drop 32) = some l)) ∧
    (∃ (i : Nat) (b : Nat) (k : Nat) (m : List Byte) (s : State), (ginFor s (bindTen s b) (fieldAt m 10 2) = some k ∧ checkedBlocks (fieldAt m 22 2)
      (fieldAt m 20 2) (m.drop 32) = none) ∧ (inboxAt s i 0x22 = some (b, m))) ∧
    (∃ (i : Nat) (b : Nat) (k : Nat) (q : Nat) (m : List Byte) (s : State), (ginFor s (bindTen s b) (fieldAt m 10 2) = some k ∧ (Map.get {} s.rck.gin
      k).bad = false ∧ bitOf (fieldAt m 1 1) 2 = false ∧ (nextHop s b (fieldAt m 10 2)).bind (slotTo s b) = some q) ∧ (inboxAt s i 0x23 = some (b,
      m))) ∧
    (∃ (i : Nat) (b : Nat) (k : Nat) (q : Nat) (m : List Byte) (s : State), (ginFor s (bindTen s b) (fieldAt m 10 2) = some k ∧ ((Map.get {}
      s.rck.gin k).bad = true ∨ bitOf (fieldAt m 1 1) 2 = true) ∧ (nextHop s b (fieldAt m 10 2)).bind (slotTo s b) = some q) ∧ (inboxAt s i 0x23 =
      some (b, m))) ∧
    (∃ (i : Nat) (b : Nat) (k : Nat) (q : Nat) (m : List Byte) (s : State), (ginFor s (bindTen s b) (fieldAt m 10 2) = some k ∧ ((Map.get {}
      s.rck.gin k).bad = true ∨ bitOf (fieldAt m 1 1) 2 = true) ∧ (nextHop s b (fieldAt m 10 2)).bind (slotTo s b) = some q) ∧ (inboxAt s i 0x23 =
      some (b, m))) ∧
    (∃ (i : Nat) (b : Nat) (m : List Byte) (s : State), (bitOf (fieldAt m 1 1) 2 = false ∧ (tenRack s (bindTen s b)).flight = some (fieldAt m 4 6)) ∧
      (inboxAt s i 0x24 = some (b, m))) ∧
    (∃ (i : Nat) (b : Nat) (m : List Byte) (j : RackJob) (s : State), (bitOf (fieldAt m 1 1) 2 = true ∧ s.rck.job = some j ∧ j.tenant = bindTen s b ∧
      j.passed = true) ∧ (inboxAt s i 0x24 = some (b, m))) ∧
    (∃ (i : Nat) (b : Nat) (m : List Byte) (a : HashRec) (s : State), (a = ⟨bindTen s b, fieldAt m 10 2, fieldAt m 12 4, fieldAt m 4 6, fieldAt m 32
      48, false⟩) ∧ (inboxAt s i 0x25 = some (b, m))) ∧
    (∃ (i : Nat) (a : HashRec) (s : State), s.rck.hashes[i]? = some a ∧ a.own = false ∧ nclkOn s = true) :=
  ⟨⟨0, 0, 0, (gm 0x20 [] []), (gS (gm 0x20 [] [])), by decide +kernel, by rfl⟩,
   ⟨0, 0, 0x200000, (gm 0x21 [(24,8,0x200000)] []), ({ job with asking := true, graft := true }), (inb (gm 0x21 [(24,8,0x200000)] []) (rj
      { job with asking := true, graft := true })), by decide +kernel, by rfl⟩,
   ⟨0, 0, 2, (gm 0x22 [(1,1,0),(12,4,7),(16,4,0),(20,2,1),(22,2,1)] (blk 9)), ([(1,List.replicate 4096 9)]), (gin g1 (gS (gm 0x22
      [(1,1,0),(12,4,7),(16,4,0),(20,2,1),(22,2,1)] (blk 9)))), by decide +kernel, by rfl, chk1 _ _ _ _ _ (by decide +kernel) (by decide +kernel) (by
      decide +kernel) (gm_drop _ _ _ (by decide +kernel))⟩,
   ⟨0, 0, 2, (gm 0x22 [(1,1,0),(12,4,7),(20,2,1),(22,2,1)] [1,2]), (gin g1 (gS (gm 0x22 [(1,1,0),(12,4,7),(20,2,1),(22,2,1)] [1,2]))), by
      decide +kernel, by rfl⟩,
   ⟨0, 0, 2, 0, (gm 0x23 [(1,1,0)] []), (gin g1 (gS (gm 0x23 [(1,1,0)] []))), by decide +kernel, by rfl⟩,
   ⟨0, 0, 2, 0, (gm 0x23 [(1,1,4)] []), (gin g1 (gS (gm 0x23 [(1,1,4)] []))), by decide +kernel, by rfl⟩,
   ⟨0, 0, 2, 0, (gm 0x23 [(1,1,0)] []), (gin { g1 with bad := true } (gS (gm 0x23 [(1,1,0)] []))), by decide +kernel, by rfl⟩,
   ⟨0, 0, (gm 0x24 [] []), (tr (fun x => { x with flight := some 4, graft := 1 }) (gS (gm 0x24 [] []))), by decide +kernel, by rfl⟩,
   ⟨0, 0, (gm 0x24 [(1,1,4)] []), ({ job with passed := true, graft := true }), (inb (gm 0x24 [(1,1,4)] []) (rj
      { job with passed := true, graft := true })), by decide +kernel, by rfl⟩,
   ⟨0, 0, (gm 0x25 [(12,4,7)] (leB 48 0x55)), ah, (modRck (fun r => { r with hashes := [] }) (gS (gm 0x25 [(12,4,7)] (leB 48 0x55)))), by
      decide +kernel, by rfl⟩,
   ⟨1, ah, (modRck (fun r => { r with hashes := [oh 3, ah] }) (gS [])), by decide +kernel⟩⟩

/-- The premises of each clause of RestoresAndSeeds are met, once for each of its cases. -/
theorem wit_RestoresAndSeeds :
    (∃ (c : Instr) (op : Nat) (tag : Nat) (l : Live) (st : Option Nat) (s : State), ((c, op) ∈ [(Instr.rackRestore tag, 0x62), (.rackSeed tag, 0x63)]
      ∧ (tstep s (liveTen l)).st = .run) ∧ (Starts s tag op l st)) ∧
    (∃ (c : Instr) (op : Nat) (tag : Nat) (b : Nat) (z : Nat) (k : Nat) (l : Live) (st : Option Nat) (s : State), ((c, op) ∈ [(Instr.rackRestore tag,
      0x62), (.rackSeed tag, 0x63)] ∧ (tstep s (liveTen l)).st ≠ .run ∧ (tstep s (liveTen l)).restoring = false ∧ ((op = 0x62 → bitsOf (fieldAt
      l.desc 16 1) 1 0 = 1 ∨ bitsOf (fieldAt l.desc 16 1) 1 0 = 2)) ∧ z = fieldAt l.desc 20 2 ∧ bindOf s (liveTen l) = some b ∧ (nextHop s b z).bind
      (slotTo s b) = some k) ∧ (Starts s tag op l st)) ∧
    (∃ (tag : Nat) (l : Live) (s : State), ((tstep s (liveTen l)).st ≠ .run ∧ (tstep s (liveTen l)).restoring = false ∧ bitsOf (fieldAt l.desc 16 1)
      1 0 = 3) ∧ (Starts s tag 0x62 l none)) ∧
    (∃ (tag : Nat) (l : Live) (s : State), ((tstep s (liveTen l)).st ≠ .run ∧ (tstep s (liveTen l)).restoring = false ∧ bitsOf (fieldAt l.desc 16 1)
      1 0 = 0 ∧ (slotAt s (b2n (bitOf (fieldAt l.desc 16 1) 2))).st ≠ 2) ∧ (Starts s tag 0x62 l none)) ∧
    (∃ (c : Instr) (op : Nat) (tag : Nat) (x : Rest) (l : Live) (s : State), (c, op) ∈ [(Instr.rackRestore tag, 0x62), (.rackSeed tag, 0x63)] ∧
      liveRec s tag = some l ∧ opcodeOf l.desc = op ∧ l.stage = .running ∧ nclkOn s = true ∧ restOf s tag = some x ∧ x.phase = 3 ∧ writesWait s tag =
      false ∧ s.hif.up = true ∧ s.hif.resumePending = false ∧ ((∀ r ∈ (tstep s (liveTen l)).steps, r.sealTag = none))) ∧
    (∃ (i : Nat) (b : Nat) (m : List Byte) (s : State), (24 ≤ m.length) ∧ (inboxAt s i 0x26 = some (b, m))) ∧
    (∃ (i : Nat) (b : Nat) (at_ : Nat) (m : List Byte) (x : Rest) (l : Live) (s : State), (at_ = fieldAt m 16 4 * 512 + fieldAt m 20 2 ∧
      s.rck.rests.find? (fun x => decide (x.tenant = bindTen s b) && x.asked.contains (fieldAt m 12 4, at_)) = some x ∧ fieldAt m 31 1 ≠ 0 ∧ liveRec
      s x.tag = some l ∧ s.hif.up = true ∧ s.hif.resumePending = false ∧ ((∀ r ∈ (tstep s (liveTen l)).steps, r.sealTag = none)) ∧ restOf s x.tag =
      some x) ∧ (inboxAt s i 0x27 = some (b, m))) ∧
    (∃ (i : Nat) (b : Nat) (at_ : Nat) (q : Nat) (m : List Byte) (bs : List Byte) (e : List Byte) (x : Rest) (s : State), (at_ = fieldAt m 16 4 * 512
      + fieldAt m 20 2 ∧ s.rck.rests.find? (fun x => decide (x.tenant = bindTen s b) && x.asked.contains (fieldAt m 12 4, at_)) = some x ∧ fieldAt m
      31 1 = 0 ∧ fieldAt m 12 4 ≠ 0 ∧ x.map.find? (fun q => decide (q.1 = fieldAt m 12 4)) = some (fieldAt m 12 4, q) ∧ entOf x (fieldAt m 12 4) =
      some e ∧ restOf s x.tag = some x ∧ x.asked.erase (fieldAt m 12 4, at_) ≠ []) ∧ (inboxAt s i 0x27 = some (b, m)) ∧ (checkedBlocks 1 (fieldAt m
      20 2) (m.drop 32) = some [(fieldAt m 20 2, bs)])) ∧
    (∃ (tag : Nat) (x : Rest) (l : Live) (s : State), restOf s tag = some x ∧ x.asked ≠ [] ∧ nclkOn s = true ∧ liveRec s tag = some l ∧ s.hif.up =
      true ∧ s.hif.resumePending = false ∧ ((∀ r ∈ (tstep s (liveTen l)).steps, r.sealTag = none))) ∧
    (∃ (i : Nat) (b : Nat) (k : Nat) (o : ReadOwed) (s : State), s.rck.owed[i]? = some o ∧ bindOf s o.tenant = some b ∧ bitOf (fieldAt o.msg 24 8) 4
      = true ∧ nclkOn s = true ∧ (nextHop s b (fieldAt o.msg 10 2)).bind (slotTo s b) = some k) :=
  ⟨⟨(.rackRestore 9), 0x62, 9, (rl 0x62 []), (some 5), (run1 (rr (rl 0x62 []))), by decide +kernel, starts_of (by decide +kernel) (by
      decide +kernel)⟩,
   ⟨(.rackRestore 9), 0x62, 9, 0, 1, 0, (rl 0x62 [(16,1,1)]), none, (rr (rl 0x62 [(16,1,1)])), by decide +kernel, starts_of (by decide +kernel) (by
      decide +kernel)⟩,
   ⟨9, (rl 0x62 [(16,1,3)]), (rr (rl 0x62 [(16,1,3)])), by decide +kernel, starts_of (by decide +kernel) (by decide +kernel)⟩,
   ⟨9, (rl 0x62 []), (rr (rl 0x62 [])), by decide +kernel, starts_of (by decide +kernel) (by decide +kernel)⟩,
   ⟨(.rackRestore 9), 0x62, 9, ({ rest9 with phase := 3, asked := [], lineage := true }), rk9, (ws
      { rest9 with phase := 3, asked := [], lineage := true } (rr rk9)), by decide +kernel⟩,
   ⟨0, 0, (gm 0x26 [(12,4,7),(24,8,0)] []), (gS (gm 0x26 [(12,4,7),(24,8,0)] [])), by decide +kernel, by rfl⟩,
   ⟨0, 0, 0, (gm 0x27 [(12,4,7),(31,1,1)] []), rest9, rk9, (inb (gm 0x27 [(12,4,7),(31,1,1)] []) (ws rest9 (rr rk9))), by decide +kernel, by rfl⟩,
   ⟨0, 0, 1, 5, (gm 0x27 [(12,4,7),(20,2,1)] (blk 9)), (List.replicate 4096 9), rest9.entries, rest9, (inb (gm 0x27 [(12,4,7),(20,2,1)] (blk 9)) (ws
      rest9 (rr rk9))), by decide +kernel, by rfl, chk1 _ _ _ _ _ (by decide +kernel) (by decide +kernel) (by decide +kernel) (gm_drop _ _ _ (by
      decide +kernel))⟩,
   ⟨9, rest9, rk9, (ws rest9 (rr rk9)), by decide +kernel⟩,
   ⟨0, 0, 0, owed1, (modRck (fun r => { r with owed := [owed1] }) (rr rk9)), by decide +kernel⟩⟩

end S12

namespace S13

def pw (f : Pwr → Pwr) (s : State) : State := { s with pwr := f s.pwr }
def wk (s : State) : State := s
def fill (s : State) : State := modRck (fun r => { r with slot1 := { st := 1, tenant := 1, step := 4 } }) s
def strs (s : State) : State := { s with err := { s.err with stress := [(1,{ running := true, testing := true })] } }
def dd (d : Nat) (x : DieP) (s : State) : State := pw (fun p => { p with dies := [(d, x)] }) s
def ck (l : List (Nat × Nat)) (pd : List (Nat × Nat)) (s : State) : State := modCor (fun c => { c with cclk := l, cclkPend := pd }) s
def wkt : State := run1 (ten [(9, lv [])])
def thrS (t : Nat) (s : State) : State := csetPut .pwr 0 2 (wordOf t) s

/-- The premises of each clause of PowerStates are met, once for each of its cases. -/
theorem wit_PowerStates :
    (∃ (acc : Acc) (s : State), blockOpen s acc 13 = true ∧ s.pwr.st = .dormant) ∧
    (∃ (acc : Acc) (s : State), blockOpen s acc 13 = true ∧ (s.pwr.st = .full ∨ s.pwr.st = .trimmed)) ∧
    (∃ (acc : Acc) (s : State), blockOpen s acc 13 = true ∧ (s.pwr.st = .off ∨ s.pwr.st = .standby)) ∧
    (∃ (acc : Acc) (s : State), blockOpen s acc 13 = true ∧ s.pwr.st = .dormant ∧ s.pwr.trans = 0) ∧
    (∃ (acc : Acc) (s : State), blockOpen s acc 13 = true ∧ (s.pwr.st = .full ∨ s.pwr.st = .trimmed) ∧ s.pwr.trans = 0 ∧ workTens s = [] ∧ noFilling
      s = true ∧ noPasses s = true) ∧
    (∃ (acc : Acc) (s : State), blockOpen s acc 13 = true ∧ (s.pwr.st = .full ∨ s.pwr.st = .trimmed) ∧ (workTens s ≠ [] ∨ noFilling s = false ∨
      noPasses s = false)) ∧
    (∃ (acc : Acc) (s : State), blockOpen s acc 13 = true ∧ s.pwr.st = .standby) ∧
    (∃ (acc : Acc) (s : State), blockOpen s acc 13 = true ∧ (s.pwr.st = .full ∨ s.pwr.st = .trimmed ∨ s.pwr.st = .dormant) ∧ s.pwr.trans = 0 ∧
      boundTens s = [] ∧ noFilling s = true) ∧
    (∃ (acc : Acc) (s : State), blockOpen s acc 13 = true ∧ s.pwr.st ≠ .standby ∧ boundTens s ≠ []) ∧
    (∃ (acc : Acc) (c : Instr) (s : State), blockOpen s acc 13 = false ∧ c ∈ [Instr.pwrReqAwake acc, .pwrReqDormant acc, .pwrReqStandby acc]) ∧
    (∃ (s : State), s.dbg.frost = 0 ∧ s.pwr.trans = 1) ∧
    (∃ (s : State), s.dbg.frost = 0 ∧ s.pwr.st = .dormant ∧ s.pwr.trans = 2) ∧
    (∃ (s : State), s.dbg.frost = 0 ∧ s.pwr.trans = 3) :=
  ⟨⟨.pf0, (pw (fun p => { p with st := .dormant, trans := 0 }) (up)), by decide +kernel⟩,
   ⟨.pf0, up, by decide +kernel⟩,
   ⟨.pf0, (pw (fun p => { p with st := .standby }) up), by decide +kernel⟩,
   ⟨.pf0, (pw (fun p => { p with st := .dormant }) (up)), by decide +kernel⟩,
   ⟨.pf0, up, by decide +kernel⟩,
   ⟨.pf0, wkt, by decide +kernel⟩,
   ⟨.pf0, (pw (fun p => { p with st := .standby }) (up)), by decide +kernel⟩,
   ⟨.pf0, up, by decide +kernel⟩,
   ⟨.pf0, wkt, by decide +kernel⟩,
   ⟨(.vf 1 true), (.pwrReqAwake (.vf 1 true)), up, by decide +kernel⟩,
   ⟨(pw (fun p => { p with trans := 1, wake := true, reqStatus := 1 }) (up)), by decide +kernel⟩,
   ⟨(pw (fun p => { p with st := .dormant, trans := 2, from_ := .trimmed, wake := true, capNext := none, reqStatus := 1 }) (up)), by decide +kernel⟩,
   ⟨(pw (fun p => { p with trans := 3, reqStatus := 1 }) (up)), by decide +kernel⟩⟩

/-- The premises of each clause of ClocksAndTheClamp are met, once for each of its cases. -/
theorem wit_ClocksAndTheClamp :
    (∃ (d : Nat) (k : Nat) (s : State), nclkOn s = true ∧ Map.find s.cor.cclkPend d = some k) ∧
    (∃ (transient : Bool) (s : State), s.pwr.clamp = false ∧ s.pwr.st ≠ .off ∧ s.pwr.st ≠ .standby) ∧
    (∃ (q : Nat) (s : State), s.pwr.clamp = true ∧ q < numDies s ∧ dieStep s q ≠ 0) ∧
    (∃ (s : State), s.pwr.clamp = true) ∧
    (∃ (opens : Bool) (s : State), nclkOn s = true) ∧
    (∃ (s : State), s.dbg.frost = 0 ∧ s.pwr.level = 3 ∧ capNow s < s.pwr.power) :=
  ⟨⟨1, 9, (ck [(1,10)] [(1,9)] (dd 1 { volt := 700 } up)), by decide +kernel⟩,
   ⟨true, up, by decide +kernel⟩,
   ⟨1, (ck [(1,3),(0,0)] [] (pw (fun p => { p with clamp := true, clampSteps := 0 }) (up))), by decide +kernel⟩,
   ⟨(pw (fun p => { p with clamp := true, clampCause := 2, clampSteps := 4 }) (up)), by decide +kernel⟩,
   ⟨false, up, by decide +kernel⟩,
   ⟨(pw (fun p => { p with level := 3, power := 2^20 }) (up)), by decide +kernel⟩⟩

open S05 in
/-- The premises of each clause of DieTemperatureAndAge are met, once for each of its cases. -/
theorem wit_DieTemperatureAndAge :
    (∃ (d : Nat) (t : Nat) (thr : Nat) (s : State), nclkOn s = true ∧ d < numDies s ∧ (s.pwr.st = .full ∨ s.pwr.st = .trimmed) ∧ s.boot.retiring =
      false ∧ thr = fldW (cset s .pwr 0 2) 6 0 ∧ t < 115) ∧
    (∃ (d : Nat) (t : Nat) (s : State), nclkOn s = true ∧ d < numDies s ∧ (s.pwr.st = .full ∨ s.pwr.st = .trimmed) ∧ s.boot.retiring = false ∧ 115 ≤
      t ∧ (dieP s d).tripped = false) ∧
    (∃ (l : List (BitVec 16)) (s : State), s.dbg.frost = 0 ∧ s.cel.own ≠ 2 ∧ diesOn s = true) ∧
    (∃ (m : BitVec 16) (s : State), s.dbg.frost = 0 ∧ s.cel.own ≠ 2 ∧ diesOn s = true ∧ m.toInt < (fldW (cset s .pwr 0 3) 7 0 : Nat) ∧
      s.pol.wilts.length < 64 ∧ ((∀ w ∈ s.pol.wilts, w.kind = 2 → w.subject ≠ 0))) ∧
    (∃ (s : State), s.dbg.frost = 0) ∧
    (∃ (s : State), s.dbg.frost = 0 ∧ fldW (cset s .pwr 0 4) 15 0 ≠ 0 ∧ workTens s = [] ∧ s.pwr.idle = false) :=
  ⟨⟨1, 0, 95, (thrS 95 (dd 1 { throttle := true, tripped := true } (wkt))), by decide +kernel⟩,
   ⟨1, 115, (thrS 95 wkt), by decide +kernel⟩,
   ⟨([5,0xFFFE,7,9,11]), wkt, by decide +kernel⟩,
   ⟨0xFFFE, wkt, by decide +kernel⟩,
   ⟨up, by decide +kernel⟩,
   ⟨(csetPut .pwr 0 4 5 up), by decide +kernel⟩⟩

end S13

namespace S14

def env (typ cls : Nat) (som eom : Bool) (dest seq a : Nat) (hb : Bool) (data : List Byte) : List Byte :=
  envClose (envHead typ cls 0 som eom dest seq a false false ++ (data ++ zeros 272).take 272) (5 + 0x4000 * cls + b2n hb * 0x10000)
def prt (p : Nat) (x : Port) (s : State) : State := modVnl (fun v => { v with ports := Map.put v.ports p x }) s
def lims (p : Nat) (s : State) : State := csetPut .vnlPort p 2 0x0A0B0C50 s
def wk : State := bnd 1 (run1 (ten [(9, lv [])]))
def ov : Port := { st := .opened, keys := true, peer := 10, peerPort := 2, rxCtr := 4095, adm := some (1,2,3) }
def fl (c : Nat) : TxFlit := { ctr := c, bytes := [BitVec.ofNat 8 c], cls := 1 }
def ml (p c : Nat) : MemoLink := ⟨p, c, 7, 0, 2, 0⟩
def own (s : State) : State := modCel (fun c => { c with strobeTick := some 0 }) s
def memo (l : List MemoLink) (s : State) : State := modVnl (fun v => { v with memoLinks := l, memoHits := 3 }) s
def upk : State := csetPut .vnlPort 0 0 0x8000000A (csetPut .vnlPort 0 1 77 up)
/-- A one-flit message of 256 zero bytes as module 10, port 2 seals it for port 0 of `wk`: class, sequence number, counter. -/
def sealedEnv (cls seqn ctr : Nat) : List Byte :=
  let hd := envHead 1 cls 0 true true 1 seqn 0 false false
  envClose (hd ++ gcm (rxKey (prt 0 ov wk) 0 0) (flitIv 10 2 ctr) hd (zeros 256)) 5
/-- Its envelope is whole and authentic. -/
theorem sealed_env (cls seqn ctr : Nat) : (sealedEnv cls seqn ctr).length = 288 ∧
    fieldAt (sealedEnv cls seqn ctr) 284 4 = (crc32c ((sealedEnv cls seqn ctr).take 284)).toNat ∧
    bitOf (fieldAt (sealedEnv cls seqn ctr) 280 4) 16 = false ∧
    flitAuth (rxKey (prt 0 ov wk) 0 0) 10 2 ctr (sealedEnv cls seqn ctr) (zeros 256) = true := by
  let hd := envHead 1 cls 0 true true 1 seqn 0 false false
  let ct := gcm (rxKey (prt 0 ov wk) 0 0) (flitIv 10 2 ctr) hd (zeros 256)
  have hh : hd.length = 8 := by simp [hd, envHead, leB_len]
  have hc : ct.length = 272 := (leB_len _ _).trans (congrArg (· + 16) List.length_replicate)
  have hb : (hd ++ ct).length = 280 := by simp [hh, hc]
  have hs : ∀ l : List Byte, (hd ++ ct ++ l).take 8 = hd := fun l => by rw [List.append_assoc, ← hh, List.take_left]
  have ht : ∀ l : List Byte, ((hd ++ ct ++ l).drop 8).take 272 = ct := fun l => by
    rw [List.append_assoc, ← hh, List.drop_left, ← hc, List.take_left]
  have he : sealedEnv cls seqn ctr = hd ++ ct ++ (leB 4 5 ++ leB 4 (crc32c (hd ++ ct ++ leB 4 5)).toNat) := by
    rw [sealedEnv, envClose, List.append_assoc]
  refine ⟨?_, crc_env _ _ hb, ?_, ?_⟩
  · rw [he, List.length_append, hb]
    simp [leB_len]
  · rw [he, fieldAt, ← hb, List.drop_left, List.take_left' (leB_len 4 5)]
    decide
  · rw [he, flitAuth, hs, ht]
    exact decide_eq_true rfl
/-- A flit whose plaintext is too short does not authenticate. -/
theorem short_tag (key ctr : Nat) (env : List Byte) (h : env.length = 288) : flitAuth key 10 2 ctr env [] = false := by
  refine decide_eq_false fun he => ?_
  have := congrArg List.length he
  simp [gcm, leB_len, h] at this

/-- The premises of each clause of FlitsAreTaken are met, once for each of its cases. -/
theorem wit_FlitsAreTaken :
    (∃ (p : Nat) (b : Nat) (k : Nat) (cls : Nat) (c : Nat) (e : Nat) (env : List Byte) (plain : List Byte) (x : Port) (s : State), (nclkOn s = true ∧
      memb 7 s.boot.drained = false ∧ p < numPorts s ∧ x = portRec s p ∧ x.st = .opened ∧ portBind s p = some (b, k) ∧ (fieldAt env 0 1 % 16 = 1 ∨
      fieldAt env 0 1 % 16 = 2) ∧ cls = bitsOf (fieldAt env 0 1) 5 4 ∧ bitOf (fieldAt env 6 2) 12 = false ∧ fieldAt env 4 2 % 4096 = x.rxCtr % 4096 ∧
      bitOf (fieldAt env 1 1) 0 = true ∧ bitOf (fieldAt env 1 1) 1 = true ∧ fieldAt env 2 2 = bindCoord s b ∧ memb x.rxCtr x.diverted = false ∧ c =
      x.rxCtr % 2 ^ 64 ∧ e = (if bitOf (fieldAt env 0 1) 6 = decide (c / 2 ^ 32 % 2 = 1) then c / 2 ^ 32 else c / 2 ^ 32 - 1)) ∧ (env.length = 288) ∧
      (fieldAt env 284 4 = (crc32c (env.take 284)).toNat) ∧ (bitOf (fieldAt env 280 4) 16 = false) ∧ (flitAuth (rxKey s p e) x.peer x.peerPort c env
      plain = true)) ∧
    (∃ (p : Nat) (b : Nat) (k : Nat) (off : Nat) (cls : Nat) (c : Nat) (e : Nat) (env : List Byte) (plain : List Byte) (x : Port) (s : State),
      (nclkOn s = true ∧ memb 7 s.boot.drained = false ∧ p < numPorts s ∧ x = portRec s p ∧ x.st = .opened ∧ portBind s p = some (b, k) ∧ (fieldAt
      env 0 1 % 16 = 1 ∨ fieldAt env 0 1 % 16 = 2) ∧ cls = bitsOf (fieldAt env 0 1) 5 4 ∧ bitOf (fieldAt env 6 2) 12 = false ∧ off = (fieldAt env 4 2
      % 4096 + 4096 - x.rxCtr % 4096) % 4096 ∧ off ≠ 0 ∧ c = (if off < 2048 then x.rxCtr + off else x.rxCtr + off + (2 ^ 64 - 4096)) % 2 ^ 64 ∧ e =
      (if bitOf (fieldAt env 0 1) 6 = decide (c / 2 ^ 32 % 2 = 1) then c / 2 ^ 32 else c / 2 ^ 32 - 1)) ∧ (env.length = 288) ∧ (fieldAt env 284 4 =
      (crc32c (env.take 284)).toNat) ∧ (bitOf (fieldAt env 280 4) 16 = false) ∧ (flitAuth (rxKey s p e) x.peer x.peerPort c env plain = true)) ∧
    (∃ (p : Nat) (b : Nat) (k : Nat) (off : Nat) (c : Nat) (e : Nat) (env : List Byte) (plain : List Byte) (x : Port) (s : State), (nclkOn s = true ∧
      memb 7 s.boot.drained = false ∧ p < numPorts s ∧ env.length = 288 ∧ x = portRec s p ∧ x.st = .opened ∧ x.keys = true ∧ portBind s p = some (b,
      k) ∧ (fieldAt env 0 1 % 16 = 1 ∨ fieldAt env 0 1 % 16 = 2) ∧ bitOf (fieldAt env 280 4) 16 = false ∧ off = (fieldAt env 4 2 % 4096 + 4096 -
      x.rxCtr % 4096) % 4096 ∧ c = (if off < 2048 then x.rxCtr + off else x.rxCtr + off + (2 ^ 64 - 4096)) % 2 ^ 64 ∧ e = (if bitOf (fieldAt env 0 1)
      6 = decide (c / 2 ^ 32 % 2 = 1) then c / 2 ^ 32 else c / 2 ^ 32 - 1)) ∧ (fieldAt env 284 4 = (crc32c (env.take 284)).toNat) ∧ (flitAuth (rxKey
      s p e) x.peer x.peerPort c env plain = false)) ∧
    (∃ (p : Nat) (uncorr : Bool) (env : List Byte) (plain : List Byte) (x : Port) (s : State), (nclkOn s = true ∧ memb 7 s.boot.drained = false ∧ p <
      numPorts s ∧ env.length = 288 ∧ x = portRec s p ∧ x.wUncorr + 1 < fldW (cset s .vnlPort p 2) 31 24 ∧ x.wCrc + 1 < fldW (cset s .vnlPort p 2) 23
      16) ∧ (uncorr = true ∨ fieldAt env 284 4 ≠ (crc32c (env.take 284)).toNat)) ∧
    (∃ (p : Nat) (n : Nat) (env : List Byte) (plain : List Byte) (s : State), (nclkOn s = true ∧ memb 7 s.boot.drained = false ∧ p < numPorts s ∧
      env.length = 288 ∧ (4 ≤ fieldAt env 0 1 % 16 ∨ ((fieldAt env 0 1 % 16 = 1 ∨ fieldAt env 0 1 % 16 = 2) ∧ (portRec s p).st ≠ .opened))) ∧
      (fieldAt env 284 4 = (crc32c (env.take 284)).toNat)) ∧
    (∃ (p : Nat) (n : Nat) (env : List Byte) (plain : List Byte) (x : Port) (s : State), (nclkOn s = true ∧ memb 7 s.boot.drained = false ∧ p <
      numPorts s ∧ env.length = 288 ∧ (fieldAt env 0 1 % 16 = 0 ∨ fieldAt env 0 1 % 16 = 3) ∧ x = portRec s p ∧ x.st ≠ .opened ∧ x.st ≠ .hedged) ∧
      (fieldAt env 284 4 = (crc32c (env.take 284)).toNat)) ∧
    (∃ (p : Nat) (n : Nat) (uncorr : Bool) (env : List Byte) (plain : List Byte) (s : State), (memb 7 s.boot.drained = true ∨ numPorts s ≤ p ∨
      env.length ≠ 288)) :=
  ⟨⟨0, 0, 0, 0, 4095, 0, (sealedEnv 0 4095 4095), (zeros 256), ov, (prt 0 ov wk), by decide +kernel, (sealed_env _ _ _).1, (sealed_env _ _ _).2.1,
      (sealed_env _ _ _).2.2.1, (sealed_env _ _ _).2.2.2⟩,
   ⟨0, 0, 0, 1, 2, 4096, 0, (sealedEnv 2 0 4096), (zeros 256), ov, (prt 0 ov wk), by decide +kernel, (sealed_env _ _ _).1, (sealed_env _ _ _).2.1,
      (sealed_env _ _ _).2.2.1, (sealed_env _ _ _).2.2.2⟩,
   ⟨0, 0, 0, 1, 4096, 0, (env 1 2 true true 1 0 0 false []), [], ov, (prt 0 (ov) wk), by decide +kernel, crc_env _ _ (by decide +kernel), short_tag _
      _ _ (by decide +kernel)⟩,
   ⟨0, true, (env 1 2 true true 1 4095 0 false []), ([]), ov, (lims 0 (prt 0 (ov) wk)), by decide +kernel, Or.inl (by decide)⟩,
   ⟨0, 0, (env 4 2 true true 1 4095 0 true []), ([]), (prt 0 (ov) wk), by decide +kernel, crc_env _ _ (by decide +kernel)⟩,
   ⟨0, 2, (env 0 2 true true 1 4095 0 false []), [], { ov with st := .retrain }, (prt 0 { ov with st := .retrain } wk), by decide +kernel, crc_env _
      _ (by decide +kernel)⟩,
   ⟨0, 3, true, (zeros 287), [], wk, by decide +kernel⟩⟩

/-- The premises of each clause of PortsComeUp are met, once for each of its cases. -/
theorem wit_PortsComeUp :
    (∃ (p : Nat) (s : State), nclkOn s = true ∧ memb (portCode (portRec s p).st) [0, 1, 8] = false) ∧
    (∃ (p : Nat) (s : State), nclkOn s = true ∧ (portRec s p).st = .dark) ∧
    (∃ (p : Nat) (peer : Nat) (pp : Nat) (circuit : Nat) (w : Nat) (c : Instr) (s : State), nclkOn s = true ∧ (portRec s p).st = .identify ∧ peer < 2
      ^ 20 ∧ pp < 16 ∧ (c = .portIdentify p peer pp circuit ∨ (c = .identifyRetry p peer pp circuit ∧ memb (portRec s p).reason [3, 4] = true)) ∧ w =
      fldW (cset s .vnlPort p 0) 19 0) ∧
    (∃ (p : Nat) (s : State), nclkOn s = true ∧ (portRec s p).st = .identify) ∧
    (∃ (p : Nat) (coef : Nat) (ok : Bool) (x : Port) (s : State), nclkOn s = true ∧ x = portRec s p ∧ x.st = .equalize ∧ (ok = true ∨ x.memoHit =
      true ∨ x.eqFails < 2)) ∧
    (∃ (p : Nat) (coef : Nat) (s : State), nclkOn s = true ∧ (portRec s p).st = .equalize ∧ (portRec s p).memoHit = false ∧ 2 ≤ (portRec s
      p).eqFails) ∧
    (∃ (p : Nat) (c : Instr) (s : State), nclkOn s = true ∧ (portRec s p).keys = false ∧ ((c = .alignDone p true ∧ (portRec s p).st = .align) ∨ (c =
      .retrainDone p true ∧ (portRec s p).st = .retrain))) ∧
    (∃ (p : Nat) (s : State), nclkOn s = true ∧ (portRec s p).keys = true ∧ (portRec s p).st = .retrain ∧ (portRec s p).retry = []) ∧
    (∃ (p : Nat) (s : State), nclkOn s = true ∧ (portRec s p).keys = true ∧ (portRec s p).st = .align ∧ (portRec s p).retry = []) ∧
    (∃ (p : Nat) (s : State), nclkOn s = true ∧ (portRec s p).st = .align) ∧
    (∃ (p : Nat) (s : State), nclkOn s = true ∧ (portRec s p).st = .retrain) :=
  ⟨⟨0, (prt 0 ov wk), by decide +kernel⟩,
   ⟨0, (prt 0 { st := .dark, reason := 2 } wk), by decide +kernel⟩,
   ⟨0, 10, 2, 77, 10, (.portIdentify 0 10 2 77), ((prt 0 { st := .identify, reason := 0 } upk)), by decide +kernel⟩,
   ⟨0, (prt 0 { st := .identify } wk), by decide +kernel⟩,
   ⟨0, 9, true, ({ st := .equalize, peer := 10, eqFails := 1 }), ((prt 0 ({ st := .equalize, peer := 10, eqFails := 1 }) (csetPut .vnlPort 0 1 77
      wk))), by decide +kernel⟩,
   ⟨0, 9, (prt 0 { st := .equalize, eqFails := 2 } wk), by decide +kernel⟩,
   ⟨0, (.alignDone 0 true), (prt 0 { st := .align } wk), by decide +kernel⟩,
   ⟨0, (prt 0 { ov with st := .retrain } wk), by decide +kernel⟩,
   ⟨0, (prt 0 { ov with st := .align } wk), by decide +kernel⟩,
   ⟨0, (prt 0 { st := .align, memoHit := true } wk), by decide +kernel⟩,
   ⟨0, (prt 0 { ov with st := .retrain } wk), by decide +kernel⟩⟩

end S14

namespace S15

def prt (p : Nat) (x : Port) (s : State) : State := modVnl (fun v => { v with ports := Map.put v.ports p x }) s
def wk : State := csetPut .vnlPcl 0 2 0x80000001 (bnd 1 (run1 (ten [(9, lv [])])))
def wkk : State := { wk with sec := { wk.sec with parcelKeys := [(0, 77), (1, 78)] } }
def hp (sh : Shake) (tr : List (List Byte)) : Port := { st := .hedged, peer := 10, peerPort := 2, shake := sh, train := tr }
def ml (p c d : Nat) : MemoLink := ⟨p, c, 7, 0, 2, d⟩
def memo (l : List MemoLink) (s : State) : State := modVnl (fun v => { v with memoLinks := l, memoHits := 3 }) s
def hello : List Byte := leB 1 1 ++ zeros 1 ++ leB 2 0x77 ++ leB 16 5 ++ leB 48 0
def sh0 : Shake := { active := true, challenge := 5, latest := leB 2 1 }
def wilt (n : Nat) (s : State) : State := { s with pol := { s.pol with wilts := (List.range n).map (fun i => ⟨3, i, {}⟩) } }

open S14 in
/-- The premises of each clause of LinkUpkeep are met, once for each of its cases. -/
theorem wit_LinkUpkeep :
    (∃ (p : Nat) (x : Port) (s : State), nclkOn s = true ∧ x = portRec s p ∧ x.st = .opened ∧ x.retry ≠ [] ∧ ((∀ f ∈ x.retry, f.resent + 1 < fldW
      (cset s .vnlPort p 2) 7 4)) ∧ x.wReplay + x.retry.length < fldW (cset s .vnlPort p 2) 15 8) ∧
    (∃ (p : Nat) (s : State), ((portRec s p).st ≠ .opened ∨ (portRec s p).retry = [])) ∧
    (∃ (p : Nat) (s : State), nclkOn s = true) ∧
    (∃ (s : State), nclkOn s = true ∧ hbAllowed s = true) ∧
    (∃ (s : State), hbAllowed s = false) ∧
    (∃ (b : Nat) (k : Nat) (s : State), nclkOn s = true ∧ bindValid s b = true ∧ k < (bindSplitT s b).slots.length ∧ openPorts s b k = []) ∧
    (∃ (b : Nat) (k : Nat) (s : State), openPorts s b k ≠ []) ∧
    (∃ (p : Nat) (lane : Nat) (pw : Nat) (eye : Nat) (x : Port) (s : State), nclkOn s = true ∧ x = portRec s p ∧ (x.st = .equalize ∨ (globalPort s p
      = true ∧ (x.st = .opened ∨ x.st = .retrain))) ∧ lane < 8) ∧
    (∃ (acc : Acc) (p : Nat) (s : State), blockOpen s acc 7 = true ∧ p < numPorts s) ∧
    (∃ (acc : Acc) (s : State), blockOpen s acc 7 = true) ∧
    (∃ (acc : Acc) (s : State), blockOpen s acc 7 = true) ∧
    (∃ (acc : Acc) (c : Instr) (p : Nat) (s : State), blockOpen s acc 7 = false ∧ c ∈ [Instr.vnlErrClr acc p, .vnlMemoClrLinks acc, .vnlMemoClrRoutes
      acc]) :=
  ⟨⟨0, ({ ov with retry := [fl 0, fl 1] }), (lims 0 (prt 0 ({ ov with retry := [fl 0, fl 1] }) wk)), by decide +kernel⟩,
   ⟨0, wk, by decide +kernel⟩,
   ⟨0, (prt 0 { ov with wUncorr := 8, wCrc := 9, wReplay := 2 } wk), by decide +kernel⟩,
   ⟨(own up), by decide +kernel⟩,
   ⟨(prt 0 ov wk), by decide +kernel⟩,
   ⟨0, 0, wk, by decide +kernel⟩,
   ⟨0, 0, (prt 0 ov wk), by decide +kernel⟩,
   ⟨0, 0, 0, 32, ({ st := .equalize, lowAt := none, margins := [(2,(3,4)),(3,(4,5))] }), (wilt 0 (csetPut .vnlPort 0 3 0xFFFE2000 (prt 0
      ({ st := .equalize, lowAt := none, margins := [(2,(3,4)),(3,(4,5))] }) wkk))), by decide +kernel⟩,
   ⟨.pf0, 15, (prt 15 { st := .opened, err := { crc := 3 } } up), by decide +kernel⟩,
   ⟨.pf0, (memo [ml 1 2 3] up), by decide +kernel⟩,
   ⟨.pf0, (memo [ml 1 2 3] up), by decide +kernel⟩,
   ⟨(.vf 1 true), (.vnlErrClr (.vf 1 true) 0), 0, up, by decide +kernel⟩⟩

/-- The premises of each clause of HedgeHandshake are met, once for each of its cases. -/
theorem wit_HedgeHandshake :
    (∃ (p : Nat) (m : List Byte) (x : Port) (s : State), nclkOn s = true ∧ trainHead s p 1 = some m ∧ x = portRec s p) ∧
    (∃ (p : Nat) (m : List Byte) (h : Nat × Nat × Nat) (x : Port) (s : State), nclkOn s = true ∧ trainHead s p 2 = some m ∧ x = portRec s p ∧
      x.shake.peerHello = some h) ∧
    (∃ (p : Nat) (m : List Byte) (x : Port) (s : State), nclkOn s = true ∧ trainHead s p 3 = some m ∧ x = portRec s p) ∧
    (∃ (p : Nat) (m : List Byte) (x : Port) (s : State), nclkOn s = true ∧ trainHead s p 4 = some m ∧ x = portRec s p) ∧
    (∃ (p : Nat) (m : List Byte) (x : Port) (s : State), nclkOn s = true ∧ trainHead s p 5 = some m ∧ x = portRec s p) ∧
    (∃ (p : Nat) (b : Nat) (k : Nat) (x : Port) (s : State), nclkOn s = true ∧ x = portRec s p ∧ x.st = .hedged ∧ x.shake.signing = true ∧
      cannotIssue s p = none ∧ portBind s p = some (b, k)) ∧
    (∃ (p : Nat) (x : Port) (s : State), nclkOn s = true ∧ x = portRec s p ∧ x.st = .hedged ∧ x.shake.verifying = true ∧ (x.shake.issued = false ∨
      x.shake.peerOk = false)) ∧
    (∃ (p : Nat) (x : Port) (s : State), nclkOn s = true ∧ x = portRec s p ∧ x.st = .hedged ∧ x.shake.verifying = true ∧ x.shake.issued = true ∧
      x.shake.peerOk = true ∧ cannotIssue s p = none) ∧
    (∃ (p : Nat) (s : State), nclkOn s = true ∧ (portRec s p).st = .hedged ∧ (portRec s p).shake.active = true ∧ (portRec s p).shake.waiting = none ∧
      (portRec s p).shake.latest ≠ []) ∧
    (∃ (p : Nat) (s : State), nclkOn s = true ∧ (portRec s p).st = .hedged ∧ (portRec s p).shake.active = true ∧ (portRec s p).shake.waiting.isSome =
      true ∧ (portRec s p).shake.issued = false ∧ cannotIssue s p = none ∧ caveDown s = false) ∧
    (∃ (p : Nat) (s : State), nclkOn s = true ∧ (portRec s p).st = .hedged ∧ (portRec s p).shake.active = true) ∧
    (∃ (p : Nat) (s : State), nclkOn s = true ∧ (portRec s p).st = .hedged ∧ (portRec s p).shake.dead = true) :=
  ⟨⟨0, hello, (hp (sh0) [hello, [1]]), (prt 0 (hp (sh0) [hello, [1]]) (wk)), by decide +kernel⟩,
   ⟨0, ((leB 1 2 ++ zeros 1 ++ leB 3 9)), ((0x77,5,0)), (hp ({ sh0 with peerHello := some (0x77,5,0) }) [(leB 1 2 ++ zeros 1 ++ leB 3 9)]), (prt 0
      (hp ({ sh0 with peerHello := some (0x77,5,0) }) [(leB 1 2 ++ zeros 1 ++ leB 3 9)]) (wk)), by decide +kernel⟩,
   ⟨0, ((leB 1 3 ++ zeros 1 ++ leB 160 9)), (hp (sh0) [(leB 1 3 ++ zeros 1 ++ leB 160 9)]), (prt 0 (hp (sh0) [(leB 1 3 ++ zeros 1 ++ leB 160 9)])
      (wk)), by decide +kernel⟩,
   ⟨0, ((leB 1 4 ++ zeros 1 ++ leB 1 0)), (hp (sh0) [(leB 1 4 ++ zeros 1 ++ leB 1 0)]), (prt 0 (hp (sh0) [(leB 1 4 ++ zeros 1 ++ leB 1 0)]) (wk)), by
      decide +kernel⟩,
   ⟨0, ((leB 1 5 ++ zeros 1 ++ leB 1 7)), (hp (sh0) [(leB 1 5 ++ zeros 1 ++ leB 1 7)]), (prt 0 (hp (sh0) [(leB 1 5 ++ zeros 1 ++ leB 1 7)]) (wk)), by
      decide +kernel⟩,
   ⟨0, 0, 0, (hp ({ sh0 with signing := true }) []), (prt 0 (hp ({ sh0 with signing := true }) []) wkk), by decide +kernel⟩,
   ⟨0, (hp ({ sh0 with verifying := true }) []), (prt 0 (hp ({ sh0 with verifying := true }) []) wkk), by decide +kernel⟩,
   ⟨0, (hp ({ sh0 with verifying := true, issued := true, peerOk := true }) []), (prt 0 (hp
      ({ sh0 with verifying := true, issued := true, peerOk := true }) []) wkk), by decide +kernel⟩,
   ⟨0, (prt 0 (hp { sh0 with latest := [1] } []) wkk), by decide +kernel⟩,
   ⟨0, (prt 0 (hp { sh0 with waiting := some 7 } []) wkk), by decide +kernel⟩,
   ⟨0, (prt 0 (hp sh0 []) wkk), by decide +kernel⟩,
   ⟨0, (prt 0 (hp { dead := true } []) up), by decide +kernel⟩⟩

end S15

namespace S16

def ce (f : Cel → Cel) (s : State) : State := { s with cel := f s.cel }
def bk (f : Book → Book) (s : State) : State := { s with book := f s.book }
def po (f : Pol → Pol) (s : State) : State := { s with pol := f s.pol }
def wk : State := bnd 1 (run1 (ten [(9, lv [])]))
def prt (p : Nat) (x : Port) (s : State) : State := modVnl (fun v => { v with ports := Map.put v.ports p x }) s
def rc (n : Nat) : Rec := { code := 0x900, subject := n, at_ := {} }
def fz (s : State) : State := ce (fun c => { c with frozen := true, staged := [.clock 1 3, .retire 2, .recd (rc 3), .leds 3], closed := 3 }) s
def fr (kind m seqn len : Nat) : List Byte := leB 1 1 ++ leB 1 kind ++ leB 2 len ++ leB 3 m ++ leB 1 0 ++ leB 8 seqn ++ leB 8 0
def svc (s : State) : State := csetPut .celSvc 3 0 0x8000000A { s with sec := { s.sec with svcKey := some 7 } }
def env (typ cls : Nat) (som eom : Bool) (dest seq a : Nat) (hb : Bool) (data : List Byte) : List Byte :=
  envClose (envHead typ cls 0 som eom dest seq a false false ++ (data ++ zeros 272).take 272) (5 + 0x4000 * cls + b2n hb * 0x10000)
def dv (d : List Byte) (seq : Nat) : List Byte := leB 2 0x77 ++ [0, 1] ++ env 2 2 true true 1 seq 0 false d
def one (s : State) : State := { s with pol := { s.pol with tables := [(65, { loaded := true, body := [0, 1, 0, 0, 1, 0, 0, 0, 0, 0, 0, 0, 0, 0, 0, 0, 1, 0, 0, 0] ++ zeros 44 })] } }
def a6 (l : List Nat) (s : State) : State := (l.zipIdx).foldl (fun s e => csetPut .cel 0 (e.2 + 1) (wordOf e.1) s) s
theorem dv_env (d : List Byte) (q : Nat) (h : (env 2 2 true true 1 q 0 false d).length = 288) :
    env 2 2 true true 1 q 0 false d = ((dv d q).drop 4).take 288 := by
  have h4 : (leB 2 0x77 ++ [0, 1] : List Byte).length = 4 := by simp [leB]
  rw [dv, List.drop_left' h4, List.take_of_length_le (by omega)]

/-- The premises of each clause of TheControlCycle are met, once for each of its cases. -/
theorem wit_TheControlCycle :
    (∃ (done : Bool) (power : Nat) (energy : Nat) (dv : Nat) (fw : List FwOut) (s : State), s.dbg.frost = 0 ∧ (ownerOn s = false ∨ s.cel.frozen =
      true ∨ done = false)) ∧
    (∃ (power : Nat) (energy : Nat) (dv : Nat) (fw : List FwOut) (s : State), s.dbg.frost = 0 ∧ ownerOn s = true ∧ s.cel.frozen = false ∧
      s.cel.up.filter freshFault = []) ∧
    (∃ (s : State), s.dbg.frost = 0 ∧ s.cel.frozen = true ∧ (standbyDie s).isSome = true) ∧
    (∃ (s : State), s.dbg.frost = 0 ∧ s.cel.imageGot = true) ∧
    (∃ (s : State), s.dbg.frost = 0 ∧ ownerOn s = true ∧ s.cel.frozen = true) ∧
    (∃ (old : Nat) (s : State), s.dbg.frost = 0 ∧ ownerOn s = true ∧ s.cel.frozen = true ∧ s.cel.staged = [] ∧ s.cel.coldReset = false ∧ s.cel.own =
      old ∧ old < 2 ∧ s.cel.switchReq = true ∧ dieState s (1 - old) = 4 ∧ s.cel.imageAcked = true) ∧
    (∃ (s : State), s.dbg.frost = 0 ∧ ownerOn s = true ∧ s.cel.frozen = false ∧ s.cel.overRow < 2) ∧
    (∃ (b : Batch) (r : List Batch) (ok : Bool) (s : State), s.dbg.frost = 0 ∧ s.cel.batches = b :: r ∧ (ok = false ∨ b.die ≠ s.cel.own)) ∧
    (∃ (b : Batch) (r : List Batch) (ok : Bool) (s : State), s.dbg.frost = 0 ∧ s.cel.batches = b :: r ∧ (ok = false ∨ b.die ≠ s.cel.own)) ∧
    (∃ (b : Batch) (r : List Batch) (s : State), s.dbg.frost = 0 ∧ s.cel.batches = b :: r ∧ b.die = s.cel.own ∧ ((∀ k, s.cel.lastApplied = some k → k
      < b.cycle))) ∧
    (∃ (b : Batch) (r : List Batch) (k : Nat) (s : State), s.dbg.frost = 0 ∧ s.cel.batches = b :: r ∧ b.die = s.cel.own ∧ s.cel.lastApplied = some k
      ∧ b.cycle ≤ k) ∧
    (∃ (s : State), s.dbg.frost = 0 ∧ s.cel.applySilent = false) ∧
    (∃ (s : State), s.dbg.frost = 0 ∧ s.cel.own ≠ 2) :=
  ⟨⟨false, 5, 6, 7, ([]), up, by decide +kernel⟩,
   ⟨5, 6, 7, ([]), up, by decide +kernel⟩,
   ⟨(fz wk), by decide +kernel⟩,
   ⟨(ce (fun c => { c with imageGot := true }) wk), by decide +kernel⟩,
   ⟨(fz (up)), by decide +kernel⟩,
   ⟨0, (ce (fun c => { c with frozen := true, imageAcked := true, switchReq := true }) up), by decide +kernel⟩,
   ⟨(ce (fun c => { c with overRow := 0, staged := [.leds 3], up := [.inputLow] }) wk), by decide +kernel⟩,
   ⟨{ cycle := 5, outs := [.leds 3] }, [], false, (ce (fun c => { c with batches := [{ cycle := 5, outs := [.leds 3] }] }) wk), by decide +kernel⟩,
   ⟨{ cycle := 5, outs := [.leds 3], die := 1 }, [], true, (ce (fun c => { c with batches := [{ cycle := 5, outs := [.leds 3], die := 1 }] }) wk), by
      decide +kernel⟩,
   ⟨{ cycle := 5, outs := [.report 1 5, .drawSelf 1 5, .failUp 1 5 3, .portEn 0 true, .portEn 2 false, .stress 1, .sweep 2, .clock 1 3, .governor 2, .retire 4] },
      [{ cycle := 6, outs := [] }], (ce (fun c =>
      { c with unacked := some { cycle := 5, outs := [] }, lastApplied := none, batches := [{ cycle := 5, outs := [.report 1 5, .drawSelf 1 5, .failUp 1 5 3, .portEn 0 true, .portEn 2 false, .stress 1, .sweep 2, .clock 1 3, .governor 2, .retire 4] }, { cycle := 6, outs := [] }] })
      wk), by decide +kernel⟩,
   ⟨{ cycle := 5, outs := [.report 1 5, .drawSelf 1 5, .failUp 1 5 3, .portEn 0 true, .portEn 2 false, .stress 1, .sweep 2, .clock 1 3, .governor 2, .retire 4] },
      [{ cycle := 6, outs := [] }], 5, (ce (fun c =>
      { c with unacked := some { cycle := 5, outs := [] }, lastApplied := some 5, batches := [{ cycle := 5, outs := [.report 1 5, .drawSelf 1 5, .failUp 1 5 3, .portEn 0 true, .portEn 2 false, .stress 1, .sweep 2, .clock 1 3, .governor 2, .retire 4] }, { cycle := 6, outs := [] }] })
      wk), by decide +kernel⟩,
   ⟨wk, by decide +kernel⟩,
   ⟨(bk (fun b => { b with hours := 9 }) wk), by decide +kernel⟩⟩

open S05 in
/-- The premises of each clause of ThePair are met, once for each of its cases. -/
theorem wit_ThePair :
    (∃ (acc : Acc) (s : State), blockOpen s acc 11 = true ∧ s.cel.own ≠ 2 ∧ synced s = true) ∧
    (∃ (acc : Acc) (s : State), synced s = false) ∧
    (∃ (acc : Acc) (s : State), blockOpen s acc 11 = true ∧ s.cel.own < 2) ∧
    (∃ (ka : Bool) (d : Nat) (s : State), s.dbg.frost = 0 ∧ standbyDie s = some d ∧ (if ka then s.cel.linkSilent else s.cel.kaSilent) = true) ∧
    (∃ (ka : Bool) (d : Nat) (s : State), s.dbg.frost = 0 ∧ standbyDie s = some d ∧ s.cel.linkSilent = false ∧ s.cel.kaSilent = false) ∧
    (∃ (ka : Bool) (d : Nat) (s : State), s.dbg.frost = 0 ∧ standbyDie s = some d ∧ s.cel.own ≠ 2 ∧ d < 2) ∧
    (∃ (c : Instr) (d : Nat) (s : State), c ∈ [Instr.watchdogExpiry, .cellarerUe] ∧ s.dbg.frost = 0 ∧ s.cel.own = d ∧ d < 2) ∧
    (∃ (d : Nat) (s : State), s.dbg.frost = 0 ∧ s.cel.gapTo = some d ∧ s.boot.updWait = []) ∧
    (∃ (s : State), s.cel.gapTo = none) ∧
    (∃ (s : State), s.dbg.frost = 0 ∧ s.cel.own = 0 ∧ s.cel.requested = false) ∧
    (∃ (s : State), s.cel.requested = true) ∧
    (∃ (d : Nat) (s : State), s.dbg.frost = 0 ∧ d < 2 ∧ dieState s d = 1 ∧ dieState s (1 - d) = 5) ∧
    (∃ (d : Nat) (s : State), s.dbg.frost = 0 ∧ d < 2 ∧ dieState s d = 3 ∧ dieState s (1 - d) ≠ 3) ∧
    (∃ (s : State), s.dbg.frost = 0) ∧
    (∃ (s : State), s.dbg.frost = 0) :=
  ⟨⟨.pf0, up, by decide +kernel⟩,
   ⟨.pf0, (ce (fun c => { c with cb := 3 }) up), by decide +kernel⟩,
   ⟨.pf0, (ce (fun c => { c with cb := 0, switchReq := true }) wk), by decide +kernel⟩,
   ⟨true, 1, (ce (fun c => { c with linkSilent := true, kaSilent := true }) (up)), by decide +kernel⟩,
   ⟨true, 1, ((up)), by decide +kernel⟩,
   ⟨true, 1, (ce (fun c => { c with ownLinkSilent := true, ownKaSilent := true }) (up)), by decide +kernel⟩,
   ⟨.watchdogExpiry, 0, up, by decide +kernel⟩,
   ⟨1, (ce (fun c => { c with own := 2, gapTo := some 1 }) up), by decide +kernel⟩,
   ⟨up, by decide +kernel⟩,
   ⟨up, by decide +kernel⟩,
   ⟨(ce (fun c => { c with requested := true }) up), by decide +kernel⟩,
   ⟨1, (ce (fun c => { c with cb := 1, linkSilent := true }) up), by decide +kernel⟩,
   ⟨1, (ce (fun c => { c with cb := 3, solo := true }) wk), by decide +kernel⟩,
   ⟨up, by decide +kernel⟩,
   ⟨up, by decide +kernel⟩⟩

/-- The premises of each clause of TheServicePort are met, once for each of its cases. -/
theorem wit_TheServicePort :
    (∃ (s : State), s.dbg.frost = 0 ∧ s.cel.own ≠ 2 ∧ bitW (cset s .cel 0 0) 31 = true) ∧
    (∃ (frame : List Byte) (body : List Byte) (e : Nat) (m : Nat) (s : State), s.dbg.frost = 0 ∧ body.length = 16 ∧ m = fieldAt frame 4 3 ∧ svcOf s m
      = some e) ∧
    (∃ (frame : List Byte) (body : List Byte) (s : State), s.dbg.frost = 0) ∧
    (∃ (frame : List Byte) (body : List Byte) (env : List Byte) (plain : List Byte) (b : Nat) (k : Nat) (p : Nat) (off : Nat) (ctr : Nat) (x : Port)
      (s : State), (s.dbg.frost = 0 ∧ x = portRec s p ∧ (allSlots s).find? (fun q => decide (bindParcel s q.1 = fieldAt body 0 2) && decide (nbrMod s
      q.1 q.2 = some (fieldAt frame 4 3))) = some (b, k) ∧ fieldAt body 3 1 = 1 ∧ env.length = 288 ∧ bitOf (fieldAt env 280 4) 16 = false ∧ (fieldAt
      env 0 1 % 16 = 2 ∨ (fieldAt env 0 1 % 16 = 1 ∧ bitsOf (fieldAt env 0 1) 5 4 = 0)) ∧ slotPorts s b k = [p] ∧ x.keys = true ∧ off = (fieldAt env
      4 2 % 4096 + 4096 - x.rxCtr % 4096) % 4096 ∧ off < 2048 ∧ ctr = x.rxCtr + off ∧ memb ctr x.diverted = false ∧ x.diverted.length < 64 ∧ bitOf
      (fieldAt env 1 1) 0 = true ∧ bitOf (fieldAt env 1 1) 1 = true ∧ fieldAt env 2 2 = bindCoord s b) ∧ (env = (body.drop 4).take 288) ∧ (fieldAt
      env 284 4 = (crc32c (env.take 284)).toNat)) ∧
    (∃ (src : Nat) (target : Nat) (s : State), s.dbg.frost = 0 ∧ s.cel.own ≠ 2 ∧ target < 2 ^ 32 ∧ selfAddr s = 0xFFFF * 2 ^ 32 + target) ∧
    (∃ (src : Nat) (target : Nat) (s : State), s.dbg.frost = 0 ∧ s.cel.own ≠ 2 ∧ 0 < target ∧ target < 2 ^ 128 ∧ selfAddr s = target) ∧
    (∃ (src : Nat) (target : Nat) (data : List Byte) (s : State), s.dbg.frost = 0 ∧ s.cel.own ≠ 2 ∧ 0 < target ∧ target < 2 ^ 128 ∧ selfAddr s =
      target) ∧
    (∃ (src : Nat) (target : Nat) (data : List Byte) (s : State), target < 2 ^ 128 ∧ selfAddr s ≠ target) ∧
    (∃ (bytes : List Byte) (s : State), s.dbg.frost = 0 ∧ s.cel.own ≠ 2) ∧
    (∃ (b : Nat) (k : Nat) (m : Nat) (key : Nat) (s : State), s.dbg.frost = 0 ∧ (b, k) ∈ allSlots s ∧ nbrMod s b k = some m ∧ peerKey s m = some key
      ∧ (peerRec s key).heard = true) ∧
    (∃ (e : Nat) (m : Nat) (s : State), s.dbg.frost = 0 ∧ e < 32 ∧ svcNames s e = true ∧ m = fldW (svcWord s e) 19 0 ∧ svcOf s m = some e ∧ (peerRec
      s e).heard = true) ∧
    (∃ (p : Nat) (s : State), s.dbg.frost = 0 ∧ memb p s.pol.timers = true) ∧
    (∃ (p : Nat) (w : Wilt) (s : State), s.dbg.frost = 0 ∧ w ∈ s.pol.wilts ∧ w.kind = 1 ∧ w.subject = p) :=
  ⟨⟨(csetPut .cel 0 0 0x80000000 wk), by decide +kernel⟩,
   ⟨(fr 1 10 5 16 ++ zeros 16), (leB 16 0), 3, 10, (svc wk), by decide +kernel⟩,
   ⟨(fr 2 10 5 16 ++ zeros 16), (leB 16 3), (svc wk), by decide +kernel⟩,
   ⟨(fr 3 10 5 292 ++ zeros 292), (dv [] 4095), (env 2 2 true true 1 4095 0 false []), ([1,2]), 0, 0, 0, 0, 4095, ({ keys := true, rxCtr := 4095 }),
      (csetPut .vnlPcl 0 3 0 (prt 0 ({ keys := true, rxCtr := 4095 }) (svc (one wk)))), by decide +kernel, dv_env _ _ (by decide +kernel), crc_env _
      _ (by decide +kernel)⟩,
   ⟨5, 0x01020304, (a6 [0x01020304, 0xFFFF, 0, 0] up), by decide +kernel⟩,
   ⟨5, 0x00000004000000030000000200000001, (a6 [1, 2, 3, 4] up), by decide +kernel⟩,
   ⟨5, 0x00000004000000030000000200000001, ([1]), (a6 [1, 2, 3, 4] up), by decide +kernel⟩,
   ⟨5, 9, ([1]), (a6 [1, 2, 3, 4] up), by decide +kernel⟩,
   ⟨([1]), wk, by decide +kernel⟩,
   ⟨0, 0, 10, 3, (po (fun p => { p with peers := [(3,{ heard := true, verdict := 1 })] }) (svc wk)), by decide +kernel⟩,
   ⟨3, 10, (po (fun p => { p with peers := [(3,{ heard := true, verdict := 1 })] }) (svc wk)), by decide +kernel⟩,
   ⟨3, (po (fun p => { p with timers := [1,3] }) wk), by decide +kernel⟩,
   ⟨3, (⟨1,3,{}⟩), (po (fun p => { p with wilts := [⟨2,3,{}⟩,⟨1,3,{}⟩,⟨1,4,{}⟩] }) wk), by decide +kernel⟩⟩

end S16

namespace S17

def se (f : Sec → Sec) (s : State) : State := { s with sec := f s.sec }
def wk : State := bnd 1 (run1 (ten [(9, lv [])]))
def shd (s : State) : State := setShadow .secCmd .pf0 0 2 4691 s
def lf (l : Life) (s : State) : State := se (fun x => { x with life := l, caps := 127 }) s
def tokB (k : Nat) (na : Nat) : List Byte := leB 1 1 ++ leB 1 k ++ leB 2 5 ++ leB 3 0 ++ leB 1 0 ++ leB 8 0 ++ leB 8 na ++ leB 16 0 ++ zeros 24 ++ zeros 4627
def sp (n : Nat) (s : State) : State := se (fun x => { x with spdm := n, chunkOut := [1,2,3], chunk := [9] }) s
def ses (l : List Session) (s : State) : State := se (fun x => { x with sessions := l, chunkOut := [4] }) s
def s2 : Session := { id := 2, phase := 2, reqKey := 4, rspKey := 5 }
def vfs (s : State) : State := modHif (fun h => { h with vfEnable := true, numVfs := 4 }) s
def io (s : State) : State := vfs (ses [s2, { id := 3, phase := 1 }] (sp 3 s))
def td (f : Sec → Sec) (s : State) : State := se f (io s)

open S05 in
/-- The premises of each clause of LifecycleCommands are met, once for each of its cases. -/
theorem wit_LifecycleCommands :
    (∃ (c : Instr) (cmd : Nat) (acc : Acc) (tok : List Byte) (s : State), (grpReach s .secCmd acc 0 = true ∧ blockOpen s acc 15 = true ∧ fldW
      (shadowReg s .secCmd acc 0 0) 2 0 = 0 ∧ (shadowReg s .secCmd acc 0 2).toNat = 4691 ∧ lifeAllows s cmd = true ∧ caveDown s = false) ∧ ((c, cmd)
      ∈ [(Instr.secOpen acc (some tok), 1), (.secSeal acc (some tok), 4), (.secRetire acc (some tok), 5)])) ∧
    (∃ (c : Instr) (cmd : Nat) (acc : Acc) (tok : List Byte) (s : State), (grpReach s .secCmd acc 0 = true ∧ blockOpen s acc 15 = true ∧ fldW
      (shadowReg s .secCmd acc 0 0) 2 0 = 0 ∧ (cmd = 2 ∨ cmd = 3 ∨ (shadowReg s .secCmd acc 0 2).toNat = 4691) ∧ lifeAllows s cmd = false) ∧ ((c,
      cmd) ∈ [(Instr.secOpen acc (some tok), 1), (.secClose acc, 2), (.secClearRetire acc, 3), (.secSeal acc (some tok), 4), (.secRetire acc (some
      tok), 5)])) ∧
    (∃ (acc : Acc) (q : Nat) (s : State), grpReach s .secCmd acc 0 = true ∧ blockOpen s acc 15 = true ∧ fldW (shadowReg s .secCmd acc 0 0) 2 0 = 0 ∧
      s.sec.life = .opened ∧ caveDown s = false ∧ ((tenRec s q).st = .active ∨ (tenRec s q).st = .quarantine)) ∧
    (∃ (acc : Acc) (s : State), grpReach s .secCmd acc 0 = true ∧ blockOpen s acc 15 = true ∧ fldW (shadowReg s .secCmd acc 0 0) 2 0 = 0 ∧ s.sec.life
      = .opened ∧ caveDown s = false ∧ boundTens s = [] ∧ s.sec.zero = []) ∧
    (∃ (acc : Acc) (s : State), grpReach s .secCmd acc 0 = true ∧ blockOpen s acc 15 = true ∧ fldW (shadowReg s .secCmd acc 0 0) 2 0 = 0 ∧ s.sec.life
      = .opened ∧ caveDown s = false ∧ hasCap s 6 = true) ∧
    (∃ (q : Nat) (s : State), s.dbg.frost = 0 ∧ s.sec.life = .opened ∧ s.sec.notAfter ≤ s.tim.s ∧ s.sec.closing = false ∧ ((tenRec s q).st = .active
      ∨ (tenRec s q).st = .quarantine)) ∧
    (∃ (s : State), s.dbg.frost = 0 ∧ s.sec.life = .opened ∧ s.sec.notAfter ≤ s.tim.s ∧ s.sec.closing = false ∧ boundTens s = [] ∧ s.sec.zero = []) ∧
    (∃ (s : State), s.tim.s < s.sec.notAfter) ∧
    (∃ (t : Nat) (s : State), s.dbg.frost = 0 ∧ (tenRec s t).st = .teardown ∧ tenReads s t = 0 ∧ s.sec.closing = false) ∧
    (∃ (t : Nat) (s : State), s.dbg.frost = 0 ∧ (tenRec s t).st = .teardown ∧ tenReads s t = 0 ∧ s.sec.closing = true ∧ Map.del s.sec.zero t = []) ∧
    (∃ (s : State), s.dbg.frost = 0) :=
  ⟨⟨(.secOpen .pf0 (some (tokB 1 0))), 1, .pf0, (tokB 1 0), (shd (lf .sealed up)), by decide +kernel, by simp⟩,
   ⟨(.secOpen .pf0 (some [])), 1, .pf0, ([]), (shd (lf .provisioned up)), by decide +kernel, by simp⟩,
   ⟨.pf0, 1, (lf .opened wk), by decide +kernel⟩,
   ⟨.pf0, (lf .opened up), by decide +kernel⟩,
   ⟨.pf0, (lf .opened up), by decide +kernel⟩,
   ⟨1, (lf .opened wk), by decide +kernel⟩,
   ⟨(lf .opened up), by decide +kernel⟩,
   ⟨(se (fun x => { x with notAfter := 5 }) (lf .opened up)), by decide +kernel⟩,
   ⟨1, ({ wk with hif := { wk.hif with tens := [(1,{ st := .teardown }),(2,{ st := .active })] } }), by decide +kernel⟩,
   ⟨1, (se (fun x => { x with closing := true, zero := [(1,[1])] }) ({ wk with hif := { wk.hif with tens := [(1,{ st := .teardown })] } })), by
      decide +kernel⟩,
   ⟨up, by decide +kernel⟩⟩

/-- The premises of each clause of SpdmRequests are met, once for each of its cases. -/
theorem wit_SpdmRequests :
    (∃ (c : Instr) (id : Nat) (i : Nat) (slot : Nat) (off : Nat) (len : Nat) (a : Bool) (b : List Byte) (s : State), s.dbg.frost = 0 ∧ caveDown s =
      true ∧ c ∈ [Instr.getVersion, .getCapabilities, .negotiateAlgorithms a, .getDigests, .getCertificate slot off len, .spdmChallenge slot b,
      .getMeasurements i a b, .keyExchange id slot b, .spdmFinish id a, .endSession id, .spdmHeartbeat id, .keyUpdate id a, .chunkSend a b, .chunkGet
      off len, .ideQuery id]) ∧
    (∃ (s : State), s.dbg.frost = 0 ∧ caveDown s = false) ∧
    (∃ (s : State), s.dbg.frost = 0 ∧ caveDown s = false ∧ 1 ≤ s.sec.spdm) ∧
    (∃ (s : State), s.dbg.frost = 0 ∧ caveDown s = false ∧ s.sec.spdm = 0) ∧
    (∃ (s : State), s.dbg.frost = 0 ∧ caveDown s = false ∧ 2 ≤ s.sec.spdm) ∧
    (∃ (s : State), s.dbg.frost = 0 ∧ caveDown s = false) ∧
    (∃ (first : Bool) (part : List Byte) (s : State), s.dbg.frost = 0 ∧ caveDown s = false ∧ 2 ≤ s.sec.spdm) ∧
    (∃ (off : Nat) (len : Nat) (s : State), s.dbg.frost = 0 ∧ caveDown s = false ∧ 2 ≤ s.sec.spdm) ∧
    (∃ (s : State), s.dbg.frost = 0 ∧ caveDown s = false ∧ s.sec.spdm = 3) ∧
    (∃ (off : Nat) (len : Nat) (s : State), s.dbg.frost = 0 ∧ caveDown s = false ∧ s.sec.spdm = 3) ∧
    (∃ (slot : Nat) (off : Nat) (len : Nat) (s : State), s.dbg.frost = 0 ∧ caveDown s = false ∧ slot ≠ 0) ∧
    (∃ (req : List Byte) (s : State), s.dbg.frost = 0 ∧ caveDown s = false ∧ s.sec.spdm = 3) ∧
    (∃ (i : Nat) (blk : List Byte) (req : List Byte) (s : State), (s.dbg.frost = 0 ∧ caveDown s = false ∧ s.sec.spdm = 3 ∧ (i ≤ 8 ∨ i = 255)) ∧ (blk
      = (if i = 0 then leB 1 8 else if i = 255 then (List.range 8).flatMap (fun k => measBlock s (k + 1)) else measBlock s i))) ∧
    (∃ (i : Nat) (blk : List Byte) (req : List Byte) (s : State), (s.dbg.frost = 0 ∧ caveDown s = false ∧ s.sec.spdm = 3 ∧ (i ≤ 8 ∨ i = 255)) ∧ (blk
      = (if i = 0 then leB 1 8 else if i = 255 then (List.range 8).flatMap (fun k => measBlock s (k + 1)) else measBlock s i))) ∧
    (∃ (i : Nat) (blk : List Byte) (body : List Byte) (req : List Byte) (s : State), (s.dbg.frost = 0 ∧ caveDown s = false ∧ s.sec.spdm = 3 ∧ (i ≤ 8
      ∨ i = 255)) ∧ (blk = (if i = 0 then leB 1 8 else if i = 255 then (List.range 8).flatMap (fun k => measBlock s (k + 1)) else measBlock s i)) ∧
      (body = blk ++ leB 32 (Config.freeValue 256 s.free).toNat)) ∧
    (∃ (id : Nat) (req : List Byte) (s : State), s.dbg.frost = 0 ∧ caveDown s = false ∧ s.sec.spdm = 3 ∧ s.sec.sessions.length < 4 ∧ sessionAt s id =
      none) ∧
    (∃ (id : Nat) (req : List Byte) (s : State), s.dbg.frost = 0 ∧ caveDown s = false ∧ 4 ≤ s.sec.sessions.length) ∧
    (∃ (id : Nat) (x : Session) (s : State), s.dbg.frost = 0 ∧ caveDown s = false ∧ sessionAt s id = some x ∧ x.phase = 1) ∧
    (∃ (id : Nat) (s : State), s.dbg.frost = 0 ∧ caveDown s = false) ∧
    (∃ (id : Nat) (x : Session) (s : State), s.dbg.frost = 0 ∧ caveDown s = false ∧ sessionAt s id = some x ∧ x.phase = 2) ∧
    (∃ (id : Nat) (x : Session) (s : State), s.dbg.frost = 0 ∧ caveDown s = false ∧ sessionAt s id = some x ∧ x.phase = 2) ∧
    (∃ (id : Nat) (both : Bool) (x : Session) (s : State), s.dbg.frost = 0 ∧ caveDown s = false ∧ sessionAt s id = some x ∧ x.phase = 2) :=
  ⟨⟨.getVersion, 2, 1, 0, 1, 2, true, ([1]), (se (fun x => { x with caveErr := [0] }) wk), by decide +kernel⟩,
   ⟨(sp 3 wk), by decide +kernel⟩,
   ⟨(sp 1 wk), by decide +kernel⟩,
   ⟨(sp 0 wk), by decide +kernel⟩,
   ⟨(sp 2 wk), by decide +kernel⟩,
   ⟨(sp 3 wk), by decide +kernel⟩,
   ⟨true, ([7]), (sp 2 wk), by decide +kernel⟩,
   ⟨1, 5, (sp 2 wk), by decide +kernel⟩,
   ⟨(sp 3 wk), by decide +kernel⟩,
   ⟨1, 5, (sp 3 wk), by decide +kernel⟩,
   ⟨1, 1, 5, (sp 3 wk), by decide +kernel⟩,
   ⟨([1]), (sp 3 wk), by decide +kernel⟩,
   ⟨1, (measBlock (sp 3 wk) 1), [1], (sp 3 wk), by decide +kernel, rfl⟩,
   ⟨255, ((List.range 8).flatMap (fun k => measBlock (sp 3 wk) (k + 1))), [1], (sp 3 wk), by decide +kernel, rfl⟩,
   ⟨0, (leB 1 8), (leB 1 8 ++ leB 32 (Config.freeValue 256 (sp 3 wk).free).toNat), [1], (sp 3 wk), by decide +kernel, rfl, rfl⟩,
   ⟨7, ([1]), (ses [s2] (sp 3 wk)), by decide +kernel⟩,
   ⟨7, ([1]), (ses [s2,s2,s2,s2] (sp 3 wk)), by decide +kernel⟩,
   ⟨3, ({ id := 3, phase := 1 }), (io wk), by decide +kernel⟩,
   ⟨2, (io wk), by decide +kernel⟩,
   ⟨2, s2, (io wk), by decide +kernel⟩,
   ⟨2, s2, (io wk), by decide +kernel⟩,
   ⟨2, true, s2, (io wk), by decide +kernel⟩⟩

/-- The premises of each clause of IdeAndTdisp are met, once for each of its cases. -/
theorem wit_IdeAndTdisp :
    (∃ (id : Nat) (s : State), s.dbg.frost = 0 ∧ caveDown s = false ∧ sessionOk s id = true) ∧
    (∃ (id : Nat) (k : Nat) (s : State), s.dbg.frost = 0 ∧ caveDown s = false ∧ sessionOk s id = true ∧ k ≤ 8) ∧
    (∃ (id : Nat) (k : Nat) (s : State), s.dbg.frost = 0 ∧ caveDown s = false ∧ sessionOk s id = true ∧ k ≤ 8 ∧ 1 ≤ Map.get 0 s.sec.ide k) ∧
    (∃ (id : Nat) (k : Nat) (s : State), s.dbg.frost = 0 ∧ caveDown s = false ∧ sessionOk s id = true ∧ k ≤ 8) ∧
    (∃ (id : Nat) (k : Nat) (c : Instr) (s : State), s.dbg.frost = 0 ∧ caveDown s = false ∧ sessionOk s id = true ∧ 8 < k ∧ c ∈ [Instr.keyProg id k,
      .kSetGo id k, .kSetStop id k]) ∧
    (∃ (id : Nat) (s : State), s.dbg.frost = 0 ∧ caveDown s = false ∧ sessionOk s id = true) ∧
    (∃ (id : Nat) (s : State), s.dbg.frost = 0 ∧ caveDown s = false ∧ sessionOk s id = true) ∧
    (∃ (id : Nat) (v : Nat) (s : State), s.dbg.frost = 0 ∧ caveDown s = false ∧ sessionOk s id = true ∧ tdiIs s v = true) ∧
    (∃ (id : Nat) (v : Nat) (s : State), s.dbg.frost = 0 ∧ caveDown s = false ∧ sessionOk s id = true ∧ tdiIs s v = true ∧ s.sec.life = .sealed ∧
      tdiSt s v = 0) ∧
    (∃ (id : Nat) (v : Nat) (s : State), s.dbg.frost = 0 ∧ caveDown s = false ∧ sessionOk s id = true ∧ s.sec.life ≠ .sealed) ∧
    (∃ (id : Nat) (v : Nat) (s : State), s.dbg.frost = 0 ∧ caveDown s = false ∧ sessionOk s id = true ∧ tdiIs s v = true ∧ (tdiSt s v = 1 ∨ tdiSt s v
      = 2)) ∧
    (∃ (id : Nat) (v : Nat) (n : Nat) (s : State), s.dbg.frost = 0 ∧ caveDown s = false ∧ sessionOk s id = true ∧ tdiIs s v = true ∧ tdiSt s v = 1 ∧
      Map.find s.sec.tdiNonce v = some n) ∧
    (∃ (id : Nat) (v : Nat) (n : Nat) (s : State), s.dbg.frost = 0 ∧ caveDown s = false ∧ sessionOk s id = true ∧ Map.find s.sec.tdiNonce v ≠ some n)
      ∧
    (∃ (id : Nat) (v : Nat) (s : State), s.dbg.frost = 0 ∧ caveDown s = false ∧ sessionOk s id = true ∧ tdiIs s v = true ∧ tdiSt s v = 0) ∧
    (∃ (id : Nat) (v : Nat) (s : State), s.dbg.frost = 0 ∧ caveDown s = false ∧ sessionOk s id = true ∧ tdiIs s v = true ∧ tdiSt s v ≠ 0) :=
  ⟨⟨2, (io wk), by decide +kernel⟩,
   ⟨2, 0, (io wk), by decide +kernel⟩,
   ⟨2, 0, (td (fun x => { x with ide := [(0,1),(3,2)] }) wk), by decide +kernel⟩,
   ⟨2, 0, (io wk), by decide +kernel⟩,
   ⟨2, 9, (Instr.keyProg 2 9), (io wk), by decide +kernel⟩,
   ⟨2, (io wk), by decide +kernel⟩,
   ⟨2, (io wk), by decide +kernel⟩,
   ⟨2, 4, (td (fun x => { x with tdi := [(4,2)] }) wk), by decide +kernel⟩,
   ⟨2, 4, (lf .sealed (io wk)), by decide +kernel⟩,
   ⟨2, 4, (lf .opened (io wk)), by decide +kernel⟩,
   ⟨2, 4, (td (fun x => { x with tdi := [(4,1)] }) wk), by decide +kernel⟩,
   ⟨2, 4, 7, (td (fun x => { x with tdi := [(4,1)], tdiNonce := [(4,7)] }) wk), by decide +kernel⟩,
   ⟨2, 4, 7, (td (fun x => { x with tdi := [(4,1)], tdiNonce := [(4,8)] }) wk), by decide +kernel⟩,
   ⟨2, 4, (io wk), by decide +kernel⟩,
   ⟨2, 1, (td (fun x => { x with tdi := [(1,2),(4,1)], tdiNonce := [(4,8)] }) wk), by decide +kernel⟩⟩

end S17

namespace S18

def bo (f : Boot → Boot) (s : State) : State := { s with boot := f s.boot }
def pw (f : Pwr → Pwr) (s : State) : State := { s with pwr := f s.pwr }
def wk : State := bnd 1 (run1 (ten [(9, lv [])]))
def rich : State := hnd1 5 (inb [1,2] (csetPut .rckWear 0 0 7 { wk with
  regs := [(0x210, 5), (0x300010, 3)]
  mem := memWrite [] 7 [1,2,3]
  rck := { wk.rck with slot1 := { st := 1, tenant := 1, step := 4 } }
  book := { wk.book with waiting := [{ code := 3, at_ := {} }], head := 7, recs := [(3, [1])] }
  vnl := { wk.vnl with memoLinks := [⟨1,2,3,4,5,6⟩], ports := [(0, { st := .opened, keys := true, retry := [⟨1,[2],0,0,false⟩] })] }
  sec := { wk.sec with sealTaken := true, zero := [(3,[1])], parcelKeys := [(0,7)] }
  cel := { wk.cel with hot := 3, cold := 4 }
  }))
def st (k : Nat) (s : State) : State := bo (fun b => { b with step := k, ready := false, hostReady := decide (14 ≤ k) }) s
def inp (s : State) : State := pw (fun p => { p with input := true, auxRail := true }) s
def br (k : Nat) : State := { State.reset with boot := { State.reset.boot with step := k } }
def usd (v : Word) (s : State) : State := setShadow .bootUpd .pf0 0 2 v s
def fwA (k : Nat) (s : State) : State := bo (fun b => { b with slotB := { st := k, data := [1,2] } }) s

open S04 in
open S06 in
/-- The premises of each clause of RailsAndResets are met, once for each of its cases. -/
theorem wit_RailsAndResets :
    (∃ (s : State), s.pwr.st = .off) ∧
    (∃ (s : State), s.pwr.st ≠ .off) ∧
    (∃ (c : Instr) (s : State), c ∈ [Instr.inputLow, .inputOvervoltage] ∧ s.pwr.st ≠ .off ∧ s.pwr.input = true ∧ s.boot.heldReset = true) ∧
    (∃ (c : Instr) (s : State), c ∈ [Instr.inputLow, .inputOvervoltage] ∧ s.pwr.st ≠ .off ∧ s.pwr.input = true ∧ s.boot.heldReset = false ∧ earlyBoot
      s = true) ∧
    (∃ (c : Instr) (s : State), c ∈ [Instr.inputLow, .inputOvervoltage] ∧ s.pwr.st ≠ .off ∧ s.pwr.input = true ∧ s.boot.heldReset = false ∧ earlyBoot
      s = false) ∧
    (∃ (c : Instr) (s : State), c ∈ [Instr.inputLow, .inputOvervoltage] ∧ (s.pwr.st = .off ∨ s.pwr.input = false)) ∧
    (∃ (s : State), s.pwr.st ≠ .off ∧ s.pwr.auxRail = true) ∧
    (∃ (s : State), s.pwr.auxRail = false ∧ s.pwr.input = false ∧ s.pwr.st ≠ .off) ∧
    (∃ (s : State), (s.pwr.auxRail = true ∨ s.pwr.input = true ∨ s.pwr.st = .off)) ∧
    (∃ (s : State), s.pwr.st ≠ .off ∧ s.pwr.qualified = false ∧ s.boot.waitInput = true ∧ bootPath s 5 = some 0) ∧
    (∃ (s : State), s.pwr.qualified = false ∧ (s.pwr.st = .off ∨ (s.boot.waitInput = false ∧ bootsAnew s = true))) ∧
    (∃ (s : State), s.pwr.qualified = false ∧ (s.pwr.st = .off ∨ (s.boot.waitInput = false ∧ bootsAnew s = true))) ∧
    (∃ (s : State), s.pwr.st ≠ .off ∧ s.pwr.qualified = false ∧ s.boot.waitInput = false ∧ bootsAnew s = false) ∧
    (∃ (s : State), s.pwr.qualified = true) ∧
    (∃ (s : State), s.pwr.st ≠ .off ∧ s.boot.heldReset = false) ∧
    (∃ (s : State), s.boot.heldReset = true) ∧
    (∃ (s : State), s.boot.heldReset = false) :=
  ⟨⟨(pw (fun p => { p with st := .off }) (up)), by decide +kernel⟩,
   ⟨up, by decide +kernel⟩,
   ⟨.inputLow, (bo (fun b => { b with heldReset := true }) (inp rich)), by decide +kernel⟩,
   ⟨.inputLow, (bo (fun b => { b with waitInput := true }) (inp rich)), by decide +kernel⟩,
   ⟨.inputLow, (inp (up)), by decide +kernel⟩,
   ⟨.inputLow, (pw (fun p => { p with input := false }) rich), by decide +kernel⟩,
   ⟨(inp (up)), by decide +kernel⟩,
   ⟨(pw (fun p => { p with auxRail := false, input := false }) rich), by decide +kernel⟩,
   ⟨up, by decide +kernel⟩,
   ⟨(pw (fun p => { p with qualified := false }) (bo (fun b => { b with waitInput := true, step := 0 }) (br 3))), by decide +kernel⟩,
   ⟨(pw (fun p => { p with qualified := false, st := .standby }) up), by decide +kernel⟩,
   ⟨(pw (fun p => { p with qualified := false, st := .off }) up), by decide +kernel⟩,
   ⟨(pw (fun p => { p with qualified := false }) (br 3)), by decide +kernel⟩,
   ⟨up, by decide +kernel⟩,
   ⟨up, by decide +kernel⟩,
   ⟨(bo (fun b => { b with heldReset := true, fails := [] }) (up)), by decide +kernel⟩,
   ⟨rich, by decide +kernel⟩⟩

/-- The premises of each clause of BootSteps are met, once for each of its cases. -/
theorem wit_BootSteps :
    (∃ (k : Nat) (p : Nat) (unit : Nat) (mask : Nat) (ucie : Bool) (s : State), s.boot.step = k ∧ k ∈ [1, 5, 6, 8, 9] ∧ bootPath s (k + 1) = some p ∧
      p ≠ 3) ∧
    (∃ (unit : Nat) (mask : Nat) (p : Nat) (ucie : Bool) (s : State), s.boot.step = 2 ∧ s.boot.path = 0 ∧ s.boot.trial = false ∧ (slotFw s
      s.boot.activeSlot).data = [] ∧ bitOf mask s.boot.activeSlot = true ∧ bootPath s 3 = some p ∧ p ≠ 3) ∧
    (∃ (unit : Nat) (mask : Nat) (ucie : Bool) (s : State), s.boot.step = 12 ∧ bootPath s 13 = some 0) ∧
    (∃ (unit : Nat) (mask : Nat) (ucie : Bool) (s : State), s.boot.step = 13) ∧
    (∃ (c : Instr) (unit : Nat) (mask : Nat) (ucie : Bool) (s : State), s.boot.step = 14 ∧ ((c = .bootStepDone 0 ucie unit mask ∧ portsSettled s mask
      = true) ∨ c = .bootStepLimit unit mask)) ∧
    (∃ (c : Instr) (k : Nat) (res : Nat) (unit : Nat) (mask : Nat) (ucie : Bool) (s : State), s.boot.step = k ∧ k ∈ [1, 5, 6, 8, 9, 13] ∧ ((c =
      .bootStepDone res ucie unit mask ∧ (res = 1 ∨ res = 5)) ∨ (c = .bootStepLimit unit mask ∧ res = 2)) ∧ 1 ≤ Map.get 0 s.boot.fails k) ∧
    (∃ (c : Instr) (k : Nat) (res : Nat) (unit : Nat) (mask : Nat) (ucie : Bool) (s : State), s.boot.step = k ∧ k ∈ [1, 5, 6, 8, 9, 13] ∧ ((c =
      .bootStepDone res ucie unit mask ∧ (res = 1 ∨ res = 5)) ∨ (c = .bootStepLimit unit mask ∧ res = 2)) ∧ Map.get 0 s.boot.fails k = 0 ∧
      s.boot.halted = false) ∧
    (∃ (c : Instr) (k : Nat) (res : Nat) (unit : Nat) (mask : Nat) (ucie : Bool) (s : State), s.boot.step = k ∧ (k = 10 ∨ k = 11) ∧ ((c =
      .bootStepDone res ucie unit mask ∧ (res = 1 ∨ res = 5)) ∨ c = .bootStepLimit unit mask)) ∧
    (∃ (c : Instr) (res : Nat) (unit : Nat) (mask : Nat) (ucie : Bool) (s : State), s.boot.step = 0 ∧ c ∈ [Instr.bootStepDone res ucie unit mask,
      .bootStepLimit unit mask]) :=
  ⟨⟨1, 0, 3, 0, false, (br 1), by decide +kernel⟩,
   ⟨0, 1, 0, false, (br 2), by decide +kernel⟩,
   ⟨0, 5, false, (br 12), by decide +kernel⟩,
   ⟨0, 5, false, (br 13), by decide +kernel⟩,
   ⟨(.bootStepDone 0 false 0 5), 0, 5, false, (br 14), by decide +kernel⟩,
   ⟨(.bootStepDone 5 false 0 0), 1, 5, 0, 0, false, (bo (fun b => { b with fails := [(1, 1)] }) (br 1)), by decide +kernel⟩,
   ⟨(.bootStepDone 1 false 0 0), 1, 1, 0, 0, false, (bo (fun b => { b with fails := [] }) (br 1)), by decide +kernel⟩,
   ⟨(.bootStepDone 1 true 3 0), 10, 1, 3, 0, true, (br 10), by decide +kernel⟩,
   ⟨(.bootStepDone 1 true 3 4), 1, 3, 4, true, rich, by decide +kernel⟩⟩

/-- The premises of each clause of BlocksAndUpdate are met, once for each of its cases. -/
theorem wit_BlocksAndUpdate :
    (∃ (acc : Acc) (s : State), blockOpen s acc 17 = true) ∧
    (∃ (acc : Acc) (v : Word) (s : State), blockOpen s acc 0 = true) ∧
    (∃ (acc : Acc) (i : Nat) (s : State), blockOpen s acc 0 = true ∧ i ∈ [1, 2, 3, 4, 5, 6, 7, 8, 9, 10, 14, 15] ∧ boundTens s ≠ []) ∧
    (∃ (acc : Acc) (s : State), blockOpen s acc 0 = true ∧ boundTens s = []) ∧
    (∃ (acc : Acc) (s : State), blockOpen s acc 0 = true ∧ boundTens s = []) ∧
    (∃ (acc : Acc) (s : State), blockOpen s acc 0 = true ∧ boundTens s = []) ∧
    (∃ (acc : Acc) (s : State), blockOpen s acc 0 = true ∧ boundTens s = []) ∧
    (∃ (acc : Acc) (s : State), blockOpen s acc 0 = true ∧ boundTens s = []) ∧
    (∃ (len : Nat) (k : Nat) (acc : Acc) (s : State), grpReach s .bootUpd acc 0 = true ∧ blockOpen s acc 17 = true ∧ s.boot.hostReady = true ∧
      s.sec.life ≠ .retired ∧ s.cel.own ≠ 2 ∧ fldW (shadowReg s .bootUpd acc 0 0) 11 0 = 0 ∧ len = (shadowReg s .bootUpd acc 0 2).toNat ∧ k = staging
      s ∧ s.boot.activeSlot < 2 ∧ updFault s 1 len = none) ∧
    (∃ (len : Nat) (k : Nat) (acc : Acc) (s : State), grpReach s .bootUpd acc 0 = true ∧ blockOpen s acc 17 = true ∧ s.boot.hostReady = true ∧
      s.sec.life ≠ .retired ∧ s.cel.own ≠ 2 ∧ fldW (shadowReg s .bootUpd acc 0 0) 11 0 = 0 ∧ len = (shadowReg s .bootUpd acc 0 2).toNat ∧ k = staging
      s ∧ s.boot.activeSlot < 2 ∧ updFault s 2 len = none) ∧
    (∃ (len : Nat) (k : Nat) (acc : Acc) (s : State), grpReach s .bootUpd acc 0 = true ∧ blockOpen s acc 17 = true ∧ s.boot.hostReady = true ∧
      s.sec.life ≠ .retired ∧ s.cel.own ≠ 2 ∧ fldW (shadowReg s .bootUpd acc 0 0) 11 0 = 0 ∧ len = (shadowReg s .bootUpd acc 0 2).toNat ∧ k = staging
      s ∧ s.boot.activeSlot < 2 ∧ updFault s 3 len = none) ∧
    (∃ (len : Nat) (k : Nat) (acc : Acc) (s : State), grpReach s .bootUpd acc 0 = true ∧ blockOpen s acc 17 = true ∧ s.boot.hostReady = true ∧
      s.sec.life ≠ .retired ∧ s.cel.own ≠ 2 ∧ fldW (shadowReg s .bootUpd acc 0 0) 11 0 = 0 ∧ len = (shadowReg s .bootUpd acc 0 2).toNat ∧ k = staging
      s ∧ s.boot.activeSlot < 2 ∧ updFault s 4 len = none) ∧
    (∃ (len : Nat) (k : Nat) (acc : Acc) (s : State), grpReach s .bootUpd acc 0 = true ∧ blockOpen s acc 17 = true ∧ s.boot.hostReady = true ∧
      s.sec.life ≠ .retired ∧ s.cel.own ≠ 2 ∧ fldW (shadowReg s .bootUpd acc 0 0) 11 0 = 0 ∧ len = (shadowReg s .bootUpd acc 0 2).toNat ∧ k = staging
      s ∧ s.boot.activeSlot < 2 ∧ updFault s 5 len = none) ∧
    (∃ (c : Instr) (cmd : Nat) (len : Nat) (f : Nat × Option Nat) (acc : Acc) (s : State), (c, cmd) ∈ [(Instr.updDownload acc, 1), (.updVerify acc,
      2), (.updActivate acc, 3), (.updConfirm acc, 4), (.updAbort acc, 5)] ∧ grpReach s .bootUpd acc 0 = true ∧ blockOpen s acc 17 = true ∧
      s.boot.hostReady = true ∧ s.sec.life ≠ .retired ∧ s.cel.own ≠ 2 ∧ fldW (shadowReg s .bootUpd acc 0 0) 11 0 = 0 ∧ len = (shadowReg s .bootUpd
      acc 0 2).toNat ∧ updFault s cmd len = some f) ∧
    (∃ (c : Instr) (cmd : Nat) (acc : Acc) (s : State), (c, cmd) ∈ [(Instr.updDownload acc, 1), (.updVerify acc, 2), (.updActivate acc, 3),
      (.updConfirm acc, 4), (.updAbort acc, 5)] ∧ grpReach s .bootUpd acc 0 = true ∧ blockOpen s acc 17 = true ∧ s.cel.own = 2) ∧
    (∃ (data : List Byte) (s : State), s.dbg.frost = 0 ∧ s.cel.own ≠ 2 ∧ s.boot.updRun = 1 ∧ data.length = s.boot.updLen) ∧
    (∃ (s : State), s.dbg.frost = 0 ∧ s.cel.own ≠ 2 ∧ s.boot.updRun = 2 ∧ (slotFw s (staging s)).st = 2 ∧ caveDown s = false) ∧
    (∃ (d : Nat) (test : Nat) (s : State), s.dbg.frost = 0 ∧ d < 2 ∧ memb d s.sec.caveErr = false ∧ s.cel.own ≠ d) ∧
    (∃ (d : Nat) (test : Nat) (s : State), s.dbg.frost = 0 ∧ d < 2 ∧ memb d s.sec.caveErr = false ∧ s.cel.own = d) ∧
    (∃ (target : Nat) (s : State), s.dbg.frost = 0 ∧ ownerOn s = true) :=
  ⟨⟨.pf0, rich, by decide +kernel⟩,
   ⟨.pf0, 0xFFFFFFFF, rich, by decide +kernel⟩,
   ⟨.pf0, 1, rich, by decide +kernel⟩,
   ⟨.pf0, up, by decide +kernel⟩,
   ⟨.pf0, up, by decide +kernel⟩,
   ⟨.pf0, up, by decide +kernel⟩,
   ⟨.pf0, up, by decide +kernel⟩,
   ⟨.pf0, up, by decide +kernel⟩,
   ⟨9000, 1, .pf0, (usd 9000 (bo (fun b => { b with activeSlot := 0, trial := false, updRun := 0, ready := true }) (fwA 2 rich))), by decide +kernel⟩,
   ⟨9000, 1, .pf0, (usd 9000 (bo (fun b => { b with activeSlot := 0, trial := false, updRun := 0, ready := true }) (fwA 2 rich))), by decide +kernel⟩,
   ⟨9000, 1, .pf0, (usd 9000 (bo (fun b => { b with activeSlot := 0, trial := false, updRun := 0, ready := true }) (fwA 3 rich))), by decide +kernel⟩,
   ⟨9000, 1, .pf0, (usd 9000 (bo (fun b => { b with activeSlot := 0, trial := true, updRun := 0, ready := true }) (fwA 3 rich))), by decide +kernel⟩,
   ⟨9000, 1, .pf0, (usd 9000 (bo (fun b => { b with activeSlot := 0, trial := false, updRun := 1, ready := true }) (fwA 1 rich))), by decide +kernel⟩,
   ⟨(.updDownload .pf0), 1, 9000, (cBUSY, none), .pf0, (usd 9000 (bo (fun b => { b with activeSlot := 0, trial := true, updRun := 0, ready := true })
      (fwA 2 rich))), by decide +kernel⟩,
   ⟨(.updDownload .pf0), 1, .pf0, (modCel (fun c => { c with own := 2 }) (usd 9000 (bo (fun b =>
      { b with activeSlot := 0, trial := true, updRun := 0, ready := true }) (fwA 2 rich)))), by decide +kernel⟩,
   ⟨([1,2,3]), (bo (fun b => { b with updRun := 1, updLen := 3 }) rich), by decide +kernel⟩,
   ⟨(bo (fun b => { b with updRun := 2 }) (fwA 2 rich)), by decide +kernel⟩,
   ⟨1, 3, up, by decide +kernel⟩,
   ⟨0, 3, up, by decide +kernel⟩,
   ⟨9, rich, by decide +kernel⟩⟩

end S18

/-! ## WellFormed refuses one ill-formed command for each of its checks -/

theorem wf_acc : (Instr.hifTenCommit (.vf 64 false)).wellFormed = false := by decide
theorem wf_acc_win : (Instr.corCommit .pf0 128).wellFormed = false := by decide
theorem wf_acc_port : (Instr.vnlErrClr .pf0 16).wellFormed = false := by decide
theorem wf_function : (Instr.flrVf 64).wellFormed = false := by decide
theorem wf_ats_function : (Instr.atsInvalidation 64 0 0 false).wellFormed = false := by decide
theorem wf_ring : (Instr.msixModExpiry 1048576).wellFormed = false := by decide
theorem wf_tag : (Instr.nop 1048576).wellFormed = false := by decide
theorem wf_tag_core : (Instr.launchCoreStart 0 128).wellFormed = false := by decide
theorem wf_core : (Instr.tileFire 128).wellFormed = false := by decide
theorem wf_core_tile : (Instr.tileComplete 0 64).wellFormed = false := by decide
theorem wf_hart_run : (Instr.plotEnd 0 [.reg 0x40FFFF [0, 0]]).wellFormed = false := by decide
theorem wf_counter : (Instr.corTiWait 0 [] ⟨256, 0⟩).wellFormed = false := by decide
theorem wf_pool : (Instr.corTiPwait 0 [] ⟨64, 0⟩).wellFormed = false := by decide
theorem wf_segment : (Instr.segmentZeroizeDone 0 64).wellFormed = false := by decide
theorem wf_die : (Instr.cclkStep 4).wellFormed = false := by decide
theorem wf_tier : (Instr.pageZeroizeDone 3 0).wellFormed = false := by decide
theorem wf_stack : (Instr.stackLost 8).wellFormed = false := by decide
theorem wf_handle : (Instr.pressLineTimeout 0 16777216 0).wellFormed = false := by decide
theorem wf_page : (Instr.scrubUe 0 1048576 0).wellFormed = false := by decide
theorem wf_block : (Instr.preimageCopyDone 0 0 512).wellFormed = false := by decide
theorem wf_tenant : (Instr.drawTimeout 4096 0).wellFormed = false := by decide
theorem wf_trigger : (Instr.triggerFire 64).wellFormed = false := by decide
theorem wf_port : (Instr.retryTimeout 16).wellFormed = false := by decide
theorem wf_lane : (Instr.marginMeasure 0 8 0 0).wellFormed = false := by decide
theorem wf_slot : (Instr.slotLost 0 12).wellFormed = false := by decide
theorem wf_peer : (Instr.peerSvcSilence 32).wellFormed = false := by decide
theorem wf_unit : (Instr.correctedError 20).wellFormed = false := by decide
theorem wf_corners : (Instr.stressPassDone 0 4294967296 0).wellFormed = false := by decide
theorem wf_temperature : (Instr.dieTempSample 0 4096).wellFormed = false := by decide
theorem wf_stream : (Instr.keyProg 0 9).wellFormed = false := by decide
theorem wf_vf : (Instr.lockInterface 0 64).wellFormed = false := by decide
theorem wf_boot_mask : (Instr.bootStepLimit 0 4294967296).wellFormed = false := by decide

/-! ## Values printed in the spec, and check values of the standards it names -/

/-- The check value of CRC-32C (R9: Castagnoli, reflected) over the nine digits. -/
theorem test_crc32c : crc32c [0x31, 0x32, 0x33, 0x34, 0x35, 0x36, 0x37, 0x38, 0x39] = 0xE3069283#32 := by decide +kernel
/-- Table 00.2: MOD_IDENT of the full module. -/
theorem test_mod_ident : readReg State.reset .pf0 0 = 0x00014100 := by decide +kernel
/-- Tables 03.9 and 10.11: reset values of MEM_RSV_LEES and RCK_WEAR_CFG (full module). -/
theorem test_reset_registers : readReg up .pf0 0x400010 = 0x80 ∧ readReg up .pf0 0xA000C0 = 0x1564 := by decide +kernel
/-- Table 12.1 of R690: before host_ready a register outside the early blocks reads zero. -/
theorem test_hidden_before_host_ready : readReg State.reset .pf0 0x400010 = 0 := by decide +kernel
/-- R512: a tick adds 4 ns. -/
theorem test_idle_tick : (match step { up with boot := { up.boot with b01Done := true } } with | .next t => t.tick | _ => 0) = up.tick + 1 := by
  decide +kernel

/-- The worked example of 16_frost_counters_and_trace.md: 8 entries, write pointer 13 (gray 0b1011), read pointer 10 (gray 0b1111), three
entries in the queue. -/
theorem test_fifo_cut : (fun f => (gray f.wptr, gray f.rptr, f.words.length))
    (cutFifo { id := 0, unit := 0, writer := 0, reader := 1, log2 := 3, wrote := 13, taken := 10, words := [1, 2, 3, 4] })
      = (11, 15, 3) := by decide +kernel
/-- R600: right after reset MRAM holds what the machine holds. -/
theorem test_mram_reset : State.reset.mram = mramNow State.reset := by decide +kernel

end Sys2Proof.Tests
end

section
/-!
What every step of the module keeps (R10 of 00, Table 16.9 of 16, R626 of 18), and what the machine holds after reset. The law of
each command (`exec…_ok` of Laws/Kept*.lean) speaks of the state its answer holds, if it holds one; here stands that every command
answers a state, and both together give the rule of a step.
-/
namespace Sys2Proof.Machine

/-! ## Every command goes on -/

/-- The answer is a next state. -/
def Goes (r : Answer) : Prop := ∃ t, r = .next t

section
variable {s : State} {r : Answer}

theorem clocked_goes (h : Goes r) : Goes (clocked s r) := by
  unfold clocked
  split
  · exact h
  · exact ⟨s, rfl⟩
theorem iodClocked_goes (h : Goes r) : Goes (iodClocked s r) := by
  unfold iodClocked
  split
  · exact h
  · exact ⟨s, rfl⟩
theorem waitsInFrost_goes {c : Late} (h : Goes r) : Goes (waitsInFrost c s r) := by
  unfold waitsInFrost
  split
  · exact h
  · exact ⟨_, rfl⟩

end

/-- Every command goes on: host and Cave traffic at once or kept for the resume (R583), the commands of stopped clocks without
effect (R580, R39), all others at once. -/
theorem exec_goes (c : Instr) (s : State) : Goes (exec c s) := by
  cases c with
  | hostLinkDown | hostLinkUp | flrVf | vfDisable | flrPf0 | hotReset | atsInvalidation | fetchReadDone | getVersion
  | getCapabilities | negotiateAlgorithms | getDigests | getCertificate | spdmChallenge | getMeasurements | keyExchange
  | spdmFinish | endSession | spdmHeartbeat | keyUpdate | chunkSend | chunkGet | ideQuery | keyProg | kSetGo | kSetStop
  | getTdispVersion | getTdispCapabilities | lockInterface | getDeviceInterfaceReport | getDeviceInterfaceState
  | startInterface | stopInterface =>
    exact waitsInFrost_goes ⟨_, rfl⟩
  | msixModExpiry | tenantZeroizeDone | commitStrobe | cycleFreeze | imageReceive | imageAck | batchReceive | pathSilence
  | watchdogExpiry | cellarerUe | ownGrant | ownDefaultTimeout | standbySyncDone | noBatchTimeout | svcHeartbeatTimer
  | svcHeartbeat | svcNotice | svcDivert | arpRequest | neighborSolicitation | icmpEcho | ntpResponse | peerLinkSilence
  | peerSvcSilence | portTimerExpiry | wiltMarginClear | faultMessage | complexResetRelease | capUnmetTimeout | vintageRead
  | replanTimer | idleTimer | dormantEntryDone | dormantExitDone | openedExpiry | serviceKeyGraceEnd | downloadDone
  | verifyDone | hoursPersist | keepaliveEdge | standbyCycle | standbyBootDone | standbyEntryDone | caveHealthTestFail
  | inBandInterrupt =>
    exact clocked_goes ⟨_, rfl⟩
  | cclkStep | triggerFire | slewDone | tpInEdge | tpinMiss | ntpTimeout | tpOutFall | flitReceive | retryTimeout
  | windowRestart | hbTimer | lightLost | lightStable | portIdentify | identTimeout | identifyRetry | equalizeDone | alignDone
  | retrainDone | hsHello | hsCert | hsToken | hsVerdict | hsWait | handshakeResend | handshakeTimeout | handshakeRestart
  | tokenSignDone | tokenVerifyDone | slotLost | marginMeasure | faultReport | correctedError | scrubUe | stressHeatDone
  | stressPassDone | pacingWindow | dieTempSample | marginSweepDone | traceSample | tpOutRise | scrubPassDone =>
    exact iodClocked_goes ⟨_, rfl⟩
  | _ => exact ⟨_, rfl⟩

/-! ## Every command keeps the invariant, the identity and the queue -/

theorem exec_ok {base s : State} (hk : Kept base s) : (c : Instr) → KeptA base (exec c s)
  | .powerOn => execPowerOn_ok hk
  | .auxRailLow => execAuxRailLow_ok hk
  | .inputLow => execInputLow_ok hk
  | .inputOvervoltage => execInputOvervoltage_ok hk
  | .inputQualified => execInputQualified_ok hk
  | .resetAssert => execResetAssert_ok hk
  | .resetRelease => execResetRelease_ok hk
  | .tapReset => execTapReset_ok hk
  | .hostLinkDown => execHostLinkDown_ok hk
  | .hostLinkUp _ _ _ => execHostLinkUp_ok _ _ _ hk
  | .hifLinkResume => execHifLinkResume_ok hk
  | .flrVf _ => execFlrVf_ok _ hk
  | .vfDisable _ _ => execVfDisable_ok _ _ hk
  | .flrPf0 => execFlrPf0_ok hk
  | .hotReset => execHotReset_ok hk
  | .atsInvalidation _ _ _ _ => execAtsInvalidation_ok _ _ _ _ hk
  | .msixUnmask _ _ => execMsixUnmask_ok _ _ hk
  | .msixModExpiry _ => execMsixModExpiry_ok _ hk
  | .doorbell _ _ _ _ _ => execDoorbell_ok _ _ _ _ _ hk
  | .fetchIssue _ _ => execFetchIssue_ok _ _ hk
  | .fetchReadDone _ _ _ _ => execFetchReadDone_ok _ _ _ _ hk
  | .selectorWrite _ _ _ => execSelectorWrite_ok _ _ _ hk
  | .registerWrite _ _ _ => execRegisterWrite_ok _ _ _ hk
  | .commitApply _ _ => execCommitApply_ok _ _ hk
  | .hifTenCommit _ => execHifTenCommit_ok _ hk
  | .hifTenAbort _ => execHifTenAbort_ok _ hk
  | .rngCommit _ => execRngCommit_ok _ hk
  | .rngAbort _ => execRngAbort_ok _ hk
  | .plnCommit _ => execPlnCommit_ok _ hk
  | .plnAbort _ => execPlnAbort_ok _ hk
  | .plnTqCommit _ => execPlnTqCommit_ok _ hk
  | .plnTqAbort _ => execPlnTqAbort_ok _ hk
  | .memRsvCommit _ => execMemRsvCommit_ok _ hk
  | .memRsvAbort _ => execMemRsvAbort_ok _ hk
  | .memThermCommit _ => execMemThermCommit_ok _ hk
  | .memThermAbort _ => execMemThermAbort_ok _ hk
  | .corCommit _ _ => execCorCommit_ok _ _ hk
  | .corAbort _ _ => execCorAbort_ok _ _ hk
  | .corTerCommit _ _ => execCorTerCommit_ok _ _ hk
  | .corTerAbort _ _ => execCorTerAbort_ok _ _ hk
  | .arrCommit _ => execArrCommit_ok _ hk
  | .arrAbort _ => execArrAbort_ok _ hk
  | .fmtCommit _ => execFmtCommit_ok _ hk
  | .fmtAbort _ => execFmtAbort_ok _ hk
  | .vnlPortCommit _ _ => execVnlPortCommit_ok _ _ hk
  | .vnlPortAbort _ _ => execVnlPortAbort_ok _ _ hk
  | .vnlPclCommit _ => execVnlPclCommit_ok _ hk
  | .vnlPclAbort _ => execVnlPclAbort_ok _ hk
  | .colCommit _ => execColCommit_ok _ hk
  | .colAbort _ => execColAbort_ok _ hk
  | .stpTenCommit _ => execStpTenCommit_ok _ hk
  | .stpTenAbort _ => execStpTenAbort_ok _ hk
  | .rckTenCommit _ => execRckTenCommit_ok _ hk
  | .rckTenAbort _ => execRckTenAbort_ok _ hk
  | .rckWearCommit _ => execRckWearCommit_ok _ hk
  | .rckWearAbort _ => execRckWearAbort_ok _ hk
  | .celCommit _ => execCelCommit_ok _ hk
  | .celAbort _ => execCelAbort_ok _ hk
  | .celSvcCommit _ => execCelSvcCommit_ok _ hk
  | .celSvcAbort _ => execCelSvcAbort_ok _ hk
  | .celTblLoad _ => execCelTblLoad_ok _ hk
  | .celTblAbort _ => execCelTblAbort_ok _ hk
  | .celTblUnload _ => execCelTblUnload_ok _ hk
  | .errCommit _ => execErrCommit_ok _ hk
  | .errAbort _ => execErrAbort_ok _ hk
  | .pwrCommit _ => execPwrCommit_ok _ hk
  | .pwrAbort _ => execPwrAbort_ok _ hk
  | .timCommit _ => execTimCommit_ok _ hk
  | .timAbort _ => execTimAbort_ok _ hk
  | .secKeyInstall _ => execSecKeyInstall_ok _ hk
  | .secKeyAbort _ => execSecKeyAbort_ok _ hk
  | .secKeyDestroy _ => execSecKeyDestroy_ok _ hk
  | .secOpen _ _ => execSecOpen_ok _ _ hk
  | .secClose _ => execSecClose_ok _ hk
  | .secClearRetire _ => execSecClearRetire_ok _ hk
  | .secSeal _ _ => execSecSeal_ok _ _ hk
  | .secRetire _ _ => execSecRetire_ok _ _ hk
  | .dbgCommit _ => execDbgCommit_ok _ hk
  | .dbgAbort _ => execDbgAbort_ok _ hk
  | .dbgTenCommit _ => execDbgTenCommit_ok _ hk
  | .dbgTenAbort _ => execDbgTenAbort_ok _ hk
  | .bootCommit _ => execBootCommit_ok _ hk
  | .bootAbort _ => execBootAbort_ok _ hk
  | .vnlErrClr _ _ => execVnlErrClr_ok _ _ hk
  | .vnlMemoClrLinks _ => execVnlMemoClrLinks_ok _ hk
  | .vnlMemoClrRoutes _ => execVnlMemoClrRoutes_ok _ hk
  | .rckSlotRelease _ _ _ => execRckSlotRelease_ok _ _ _ hk
  | .switchover _ => execSwitchover_ok _ hk
  | .restartStandby _ => execRestartStandby_ok _ hk
  | .errClr _ => execErrClr_ok _ hk
  | .pwrReqAwake _ => execPwrReqAwake_ok _ hk
  | .pwrReqDormant _ => execPwrReqDormant_ok _ hk
  | .pwrReqStandby _ => execPwrReqStandby_ok _ hk
  | .timNowNs _ => execTimNowNs_ok _ hk
  | .timNtpOk _ => execTimNtpOk_ok _ hk
  | .timTxqPop _ => execTimTxqPop_ok _ hk
  | .modBlkDrain _ _ => execModBlkDrain_ok _ _ hk
  | .modBlkReset _ _ => execModBlkReset_ok _ _ hk
  | .bootFenceClr _ => execBootFenceClr_ok _ hk
  | .bookCurNext _ => execBookCurNext_ok _ hk
  | .bookClear _ => execBookClear_ok _ hk
  | .dbgFrostFreeze _ => execDbgFrostFreeze_ok _ hk
  | .dbgFrostResume _ => execDbgFrostResume_ok _ hk
  | .frostStopped _ => execFrostStopped_ok _ hk
  | .dbgScanData _ => execDbgScanData_ok _ hk
  | .dbgTraceData _ => execDbgTraceData_ok _ hk
  | .nop _ => execNop_ok _ hk
  | .fence _ => execFence_ok _ hk
  | .dmaH2d _ _ _ => execDmaH2d_ok _ _ _ hk
  | .dmaD2h _ => execDmaD2h_ok _ hk
  | .dmaCopy _ => execDmaCopy_ok _ hk
  | .dmaFill _ => execDmaFill_ok _ hk
  | .dmaDone _ => execDmaDone_ok _ hk
  | .handleCreate _ _ => execHandleCreate_ok _ _ hk
  | .handleFree _ => execHandleFree_ok _ hk
  | .handleHint _ => execHandleHint_ok _ hk
  | .handleQuery _ => execHandleQuery_ok _ hk
  | .launch _ => execLaunch_ok _ hk
  | .launchCoreStart _ _ => execLaunchCoreStart_ok _ _ hk
  | .tileFire _ => execTileFire_ok _ hk
  | .tileComplete _ _ => execTileComplete_ok _ _ hk
  | .tokenPost _ => execTokenPost_ok _ hk
  | .plotEnd _ _ => execPlotEnd_ok _ _ hk
  | .plotAbort _ _ _ => execPlotAbort_ok _ _ _ hk
  | .hartException _ _ _ => execHartException_ok _ _ _ hk
  | .corTiPush _ _ _ => execCorTiPush_ok _ _ _ hk
  | .corTiWait _ _ _ => execCorTiWait_ok _ _ _ hk
  | .corTiPwait _ _ _ => execCorTiPwait_ok _ _ _ hk
  | .corTiCnt _ _ _ _ => execCorTiCnt_ok _ _ _ _ hk
  | .corTiPool _ _ _ _ => execCorTiPool_ok _ _ _ _ hk
  | .launchTimeout _ => execLaunchTimeout_ok _ hk
  | .quantumExpiry _ => execQuantumExpiry_ok _ hk
  | .preemptLimit _ => execPreemptLimit_ok _ hk
  | .swapDone _ => execSwapDone_ok _ hk
  | .segmentZeroizeDone _ _ => execSegmentZeroizeDone_ok _ _ hk
  | .cclkStep _ => execCclkStep_ok _ hk
  | .planterDecay => execPlanterDecay_ok hk
  | .pageZeroizeDone _ _ => execPageZeroizeDone_ok _ _ hk
  | .migrationCopyDone _ _ => execMigrationCopyDone_ok _ _ hk
  | .migrationBackoffEnd _ => execMigrationBackoffEnd_ok _ hk
  | .promotionDone _ => execPromotionDone_ok _ hk
  | .pressLineTimeout _ _ _ => execPressLineTimeout_ok _ _ _ hk
  | .stackTempSample _ _ => execStackTempSample_ok _ _ hk
  | .stackLost _ => execStackLost_ok _ hk
  | .ucieLaneLost _ => execUcieLaneLost_ok _ hk
  | .refclkLost => execRefclkLost_ok hk
  | .refclkHoldoverEnd => execRefclkHoldoverEnd_ok hk
  | .allreduce _ => execAllreduce_ok _ hk
  | .reduceScatter _ => execReduceScatter_ok _ hk
  | .allgather _ => execAllgather_ok _ hk
  | .broadcast _ => execBroadcast_ok _ hk
  | .barrier _ => execBarrier_ok _ hk
  | .contribution _ => execContribution_ok _ hk
  | .globalPartial _ => execGlobalPartial_ok _ hk
  | .globalResult _ => execGlobalResult_ok _ hk
  | .gatherData _ => execGatherData_ok _ hk
  | .barrierEnter _ => execBarrierEnter_ok _ hk
  | .barrierRelease _ => execBarrierRelease_ok _ hk
  | .collectiveDone _ => execCollectiveDone_ok _ hk
  | .collTimeout _ => execCollTimeout_ok _ hk
  | .stepOpen _ => execStepOpen_ok _ hk
  | .stepSeal _ => execStepSeal_ok _ hk
  | .stepResync _ => execStepResync_ok _ hk
  | .stepQuery _ => execStepQuery_ok _ hk
  | .stepReport _ => execStepReport_ok _ hk
  | .stepDraw _ => execStepDraw_ok _ hk
  | .stepFail _ => execStepFail_ok _ hk
  | .drawTimeout _ _ => execDrawTimeout_ok _ _ hk
  | .drawSplitTimeout _ _ => execDrawSplitTimeout_ok _ _ hk
  | .preimageCopyDone _ _ _ => execPreimageCopyDone_ok _ _ _ hk
  | .restoreDone _ _ => execRestoreDone_ok _ _ hk
  | .mustHoldWriteDone => execMustHoldWriteDone_ok hk
  | .rackTake _ => execRackTake_ok _ hk
  | .rackKey _ => execRackKey_ok _ hk
  | .rackRestore _ => execRackRestore_ok _ hk
  | .rackSeed _ => execRackSeed_ok _ hk
  | .rackQuery _ => execRackQuery_ok _ hk
  | .rackMarksDone => execRackMarksDone_ok hk
  | .rackCowCopyDone _ _ _ => execRackCowCopyDone_ok _ _ _ hk
  | .copyPassDone _ => execCopyPassDone_ok _ hk
  | .rackDrainDone _ => execRackDrainDone_ok _ hk
  | .graftOfferReq _ => execGraftOfferReq_ok _ hk
  | .graftOffer _ => execGraftOffer_ok _ hk
  | .graftData _ => execGraftData_ok _ hk
  | .graftCommit _ => execGraftCommit_ok _ hk
  | .graftAck _ => execGraftAck_ok _ hk
  | .graftHash _ => execGraftHash_ok _ hk
  | .graftReadReq _ => execGraftReadReq_ok _ hk
  | .graftReadData _ => execGraftReadData_ok _ hk
  | .hashCompareTimeout _ => execHashCompareTimeout_ok _ hk
  | .restoreReadTimeout _ => execRestoreReadTimeout_ok _ hk
  | .seedDonorTimeout _ => execSeedDonorTimeout_ok _ hk
  | .wearBucketTick => execWearBucketTick_ok hk
  | .tenantZeroizeDone _ => execTenantZeroizeDone_ok _ hk
  | .trigArm _ => execTrigArm_ok _ hk
  | .trigCancel _ => execTrigCancel_ok _ hk
  | .triggerFire _ => execTriggerFire_ok _ hk
  | .slewDone => execSlewDone_ok hk
  | .tpInEdge _ => execTpInEdge_ok _ hk
  | .tpinMiss => execTpinMiss_ok hk
  | .ntpTimeout => execNtpTimeout_ok hk
  | .tpOutFall => execTpOutFall_ok hk
  | .flitReceive _ _ _ _ _ => execFlitReceive_ok _ _ _ _ _ hk
  | .retryTimeout _ => execRetryTimeout_ok _ hk
  | .windowRestart _ => execWindowRestart_ok _ hk
  | .hbTimer => execHbTimer_ok hk
  | .lightLost _ => execLightLost_ok _ hk
  | .lightStable _ => execLightStable_ok _ hk
  | .portIdentify _ _ _ _ => execPortIdentify_ok _ _ _ _ hk
  | .identTimeout _ => execIdentTimeout_ok _ hk
  | .identifyRetry _ _ _ _ => execIdentifyRetry_ok _ _ _ _ hk
  | .equalizeDone _ _ _ => execEqualizeDone_ok _ _ _ hk
  | .alignDone _ _ => execAlignDone_ok _ _ hk
  | .retrainDone _ _ => execRetrainDone_ok _ _ hk
  | .hsHello _ => execHsHello_ok _ hk
  | .hsCert _ => execHsCert_ok _ hk
  | .hsToken _ => execHsToken_ok _ hk
  | .hsVerdict _ => execHsVerdict_ok _ hk
  | .hsWait _ => execHsWait_ok _ hk
  | .handshakeResend _ => execHandshakeResend_ok _ hk
  | .handshakeTimeout _ => execHandshakeTimeout_ok _ hk
  | .handshakeRestart _ => execHandshakeRestart_ok _ hk
  | .tokenSignDone _ => execTokenSignDone_ok _ hk
  | .tokenVerifyDone _ => execTokenVerifyDone_ok _ hk
  | .slotLost _ _ => execSlotLost_ok _ _ hk
  | .marginMeasure _ _ _ _ => execMarginMeasure_ok _ _ _ _ hk
  | .commitStrobe => execCommitStrobe_ok hk
  | .cycleFreeze _ _ _ _ _ => execCycleFreeze_ok _ _ _ _ _ hk
  | .imageReceive _ => execImageReceive_ok _ hk
  | .imageAck => execImageAck_ok hk
  | .batchReceive _ => execBatchReceive_ok _ hk
  | .pathSilence _ _ => execPathSilence_ok _ _ hk
  | .watchdogExpiry => execWatchdogExpiry_ok hk
  | .cellarerUe => execCellarerUe_ok hk
  | .ownGrant => execOwnGrant_ok hk
  | .ownDefaultTimeout => execOwnDefaultTimeout_ok hk
  | .standbySyncDone => execStandbySyncDone_ok hk
  | .noBatchTimeout => execNoBatchTimeout_ok hk
  | .svcHeartbeatTimer => execSvcHeartbeatTimer_ok hk
  | .svcHeartbeat _ _ => execSvcHeartbeat_ok _ _ hk
  | .svcNotice _ _ => execSvcNotice_ok _ _ hk
  | .svcDivert _ _ _ => execSvcDivert_ok _ _ _ hk
  | .arpRequest _ _ => execArpRequest_ok _ _ hk
  | .neighborSolicitation _ _ => execNeighborSolicitation_ok _ _ hk
  | .icmpEcho _ _ _ => execIcmpEcho_ok _ _ _ hk
  | .ntpResponse _ => execNtpResponse_ok _ hk
  | .peerLinkSilence _ _ => execPeerLinkSilence_ok _ _ hk
  | .peerSvcSilence _ => execPeerSvcSilence_ok _ hk
  | .portTimerExpiry _ => execPortTimerExpiry_ok _ hk
  | .wiltMarginClear _ => execWiltMarginClear_ok _ hk
  | .faultReport _ _ _ _ _ _ => execFaultReport_ok _ _ _ _ _ _ hk
  | .faultMessage => execFaultMessage_ok hk
  | .complexResetRelease => execComplexResetRelease_ok hk
  | .correctedError _ => execCorrectedError_ok _ hk
  | .scrubUe _ _ _ => execScrubUe_ok _ _ _ hk
  | .stressHeatDone _ => execStressHeatDone_ok _ hk
  | .stressPassDone _ _ _ => execStressPassDone_ok _ _ _ hk
  | .clampEngage _ => execClampEngage_ok _ hk
  | .clampStep => execClampStep_ok hk
  | .clampRelease => execClampRelease_ok hk
  | .pacingWindow _ => execPacingWindow_ok _ hk
  | .capUnmetTimeout => execCapUnmetTimeout_ok hk
  | .dieTempSample _ _ => execDieTempSample_ok _ _ hk
  | .vintageRead _ => execVintageRead_ok _ hk
  | .marginSweepDone _ _ => execMarginSweepDone_ok _ _ hk
  | .replanTimer => execReplanTimer_ok hk
  | .idleTimer => execIdleTimer_ok hk
  | .dormantEntryDone => execDormantEntryDone_ok hk
  | .dormantExitDone => execDormantExitDone_ok hk
  | .openedExpiry => execOpenedExpiry_ok hk
  | .serviceKeyGraceEnd => execServiceKeyGraceEnd_ok hk
  | .getVersion => execGetVersion_ok hk
  | .getCapabilities => execGetCapabilities_ok hk
  | .negotiateAlgorithms _ => execNegotiateAlgorithms_ok _ hk
  | .getDigests => execGetDigests_ok hk
  | .getCertificate _ _ _ => execGetCertificate_ok _ _ _ hk
  | .spdmChallenge _ _ => execSpdmChallenge_ok _ _ hk
  | .getMeasurements _ _ _ => execGetMeasurements_ok _ _ _ hk
  | .keyExchange _ _ _ => execKeyExchange_ok _ _ _ hk
  | .spdmFinish _ _ => execSpdmFinish_ok _ _ hk
  | .endSession _ => execEndSession_ok _ hk
  | .spdmHeartbeat _ => execSpdmHeartbeat_ok _ hk
  | .keyUpdate _ _ => execKeyUpdate_ok _ _ hk
  | .chunkSend _ _ => execChunkSend_ok _ _ hk
  | .chunkGet _ _ => execChunkGet_ok _ _ hk
  | .ideQuery _ => execIdeQuery_ok _ hk
  | .keyProg _ _ => execKeyProg_ok _ _ hk
  | .kSetGo _ _ => execKSetGo_ok _ _ hk
  | .kSetStop _ _ => execKSetStop_ok _ _ hk
  | .getTdispVersion _ => execGetTdispVersion_ok _ hk
  | .getTdispCapabilities _ => execGetTdispCapabilities_ok _ hk
  | .lockInterface _ _ => execLockInterface_ok _ _ hk
  | .getDeviceInterfaceReport _ _ => execGetDeviceInterfaceReport_ok _ _ hk
  | .getDeviceInterfaceState _ _ => execGetDeviceInterfaceState_ok _ _ hk
  | .startInterface _ _ _ => execStartInterface_ok _ _ _ hk
  | .stopInterface _ _ => execStopInterface_ok _ _ hk
  | .traceSample _ _ _ _ _ _ => execTraceSample_ok _ _ _ _ _ _ hk
  | .extest => execExtest_ok hk
  | .idcode => execIdcode_ok hk
  | .samplePreload _ _ => execSamplePreload_ok _ _ hk
  | .tapClamp => execTapClamp_ok hk
  | .highz => execHighz_ok hk
  | .extestPulse => execExtestPulse_ok hk
  | .extestTrain => execExtestTrain_ok hk
  | .dbgAccess _ _ _ => execDbgAccess_ok _ _ _ hk
  | .caveDbg _ _ _ => execCaveDbg_ok _ _ _ hk
  | .tapBypass => execTapBypass_ok hk
  | .bootStepDone _ _ _ _ => execBootStepDone_ok _ _ _ _ hk
  | .bootStepLimit _ _ => execBootStepLimit_ok _ _ hk
  | .updDownload _ => execUpdDownload_ok _ hk
  | .updVerify _ => execUpdVerify_ok _ hk
  | .updActivate _ => execUpdActivate_ok _ hk
  | .updConfirm _ => execUpdConfirm_ok _ hk
  | .updAbort _ => execUpdAbort_ok _ hk
  | .downloadDone _ => execDownloadDone_ok _ hk
  | .verifyDone => execVerifyDone_ok hk
  | .hoursPersist => execHoursPersist_ok hk
  | .keepaliveEdge _ => execKeepaliveEdge_ok _ hk
  | .standbyCycle => execStandbyCycle_ok hk
  | .standbyBootDone => execStandbyBootDone_ok hk
  | .holdUpRunDown => execHoldUpRunDown_ok hk
  | .standbyEntryDone => execStandbyEntryDone_ok hk
  | .tpOutRise => execTpOutRise_ok hk
  | .caveHealthTestFail _ _ => execCaveHealthTestFail_ok _ _ hk
  | .inBandInterrupt _ => execInBandInterrupt_ok _ hk
  | .scrubPassDone _ => execScrubPassDone_ok _ hk
  | .frostResumeDone => execFrostResumeDone_ok hk

/-! ## Every step -/

theorem exec_next_kept {base s : State} (hk : Kept base s) (c : Instr) : ∃ t, exec c s = .next t ∧ Kept base t := by
  obtain ⟨t, ht⟩ := exec_goes c s
  exact ⟨t, ht, exec_ok hk c t ht⟩

/-- The queue is no part of the invariant. -/
theorem Inv.withPending {s : State} (h : Inv s) (q : List Instr) : Inv { s with pending := q } :=
  ⟨h.mem, h.sets, h.frost, h.book, h.stale⟩

/-- A step goes on to a state that keeps, of the state without the front of its queue, everything `Kept` names. -/
theorem step_next_kept {s : State} (h : Inv s) : ∃ t, step s = .next t ∧ Kept { s with pending := s.pending.tail } t := by
  have hk := Kept.refl' (h.withPending s.pending.tail)
  unfold step
  split
  next hp =>
    have hs : { s with pending := s.pending.tail } = s := by rw [hp, List.tail_nil, ← hp]
    rw [hs] at hk ⊢
    exact ⟨tickEdge s, rfl, tickEdge_ok hk⟩
  next c q hp =>
    rw [hp, List.tail_cons] at hk ⊢
    exact exec_next_kept hk c

/-- Settles O3: the laws of the commands and of the TCLK edge, from the state whose queue has lost its front. -/
theorem everyStepKeepsTheInvariant : Obligations.EveryStepKeepsTheInvariant := by
  intro s h
  obtain ⟨t, ht, ⟨hhalf, hid, hq⟩, hinv⟩ := step_next_kept h
  exact ⟨t, ht, hinv, hhalf, hid, hq⟩

/-! ## The machine after reset -/

/-- No register has been committed after reset, so each reads its reset value. -/
theorem cset_reset (g : Grp) (o i : Nat) : cset State.reset g o i = g.reset false i := rfl

/-- The wear rate of the full module after reset, in GB per day (R418). -/
theorem wearRate_reset : wearRate State.reset = 5476 := by
  rw [wearRate, cset_reset]
  decide

/-- Settles O2: memory and the committed sets are empty, Frost is not in force, the book stands at its start and no standby holds a
copy of it. -/
theorem resetMeetsTheInvariant : Obligations.ResetMeetsTheInvariant where
  mem := rfl
  sets := rfl
  frost := Nat.zero_le 3
  book := le_rfl
  stale := fun _ hx => nomatch hx

/-- Settles O4: the tables of `State.reset` that list nothing answer their defaults, the bucket is `wearRate_reset`. -/
theorem resetValues : Obligations.ResetValues := by
  refine ⟨cset_reset, fun _ => rfl, fun _ => rfl, fun _ => rfl, fun _ => rfl, rfl, rfl, rfl, rfl, rfl, rfl, rfl, ?_,
    rfl, rfl, rfl, rfl, rfl⟩
  rw [wearRate_reset]
  rfl

end Sys2Proof.Machine
end

section
/-!
The clock steps of the compute dies, the clamp, the pacing window and the cap that stays unmet (R36, R37 of 01; R488, R489, R491, R496
of 13).
-/
namespace Sys2Proof.Machine

/-! ## Commands whose clock runs -/

theorem clocked_running {s : State} (h : s.dbg.frost = 0) (r : Answer) : clocked s r = r := if_pos h
theorem iodClocked_running {s : State} (h : nclkOn s = true) (r : Answer) : iodClocked s r = r := if_pos h

/-! ## A loop over numbers, seen through one reading of the state -/

section
variable {β : Type} (π : State → β) {l : List Nat} {f : Nat → State → State}

/-- A reading that no turn of a loop changes is the same after the loop. -/
theorem forS_keeps (h : ∀ q ∈ l, ∀ x, π (f q x) = π x) (s : State) : π (forS l f s) = π s := by
  induction l generalizing s with
  | nil => rfl
  | cons q r ih =>
    calc π (forS r f (f q s)) = π (f q s) := ih (fun p hp => h p (List.mem_cons_of_mem q hp)) (f q s)
      _ = π s := h q List.mem_cons_self s

/-- A reading that only turn `d` of a loop changes is after the loop what that one turn makes of it. -/
theorem forS_once {d : Nat} {g : β → β} (own : ∀ x, π (f d x) = g (π x)) (other : ∀ q, q ≠ d → ∀ x, π (f q x) = π x) (hn : l.Nodup)
    (hd : d ∈ l) (s : State) : π (forS l f s) = g (π s) := by
  induction l generalizing s with
  | nil => cases hd
  | cons q r ih =>
    obtain ⟨hq, hr⟩ := List.nodup_cons.mp hn
    by_cases e : q = d
    · subst e
      calc π (forS r f (f q s)) = π (f q s) := forS_keeps π (fun p hp => other p (fun e => hq (e ▸ hp))) (f q s)
        _ = g (π s) := own s
    · calc π (forS r f (f q s)) = g (π (f q s)) := ih hr ((List.mem_cons.mp hd).resolve_left (Ne.symm e)) (f q s)
        _ = g (π s) := by rw [other q e s]

end

/-- A change of every entry, read at a key: the changed entry, where an unlisted one reads as before. -/
theorem get_mapV {α : Type} (d : α) (m : Map α) (f : Nat → α → α) (k : Nat) (hd : f k d = d) :
    Map.get d (Map.mapV f m) k = f k (Map.get d m k) := by
  induction m with
  | nil => exact hd.symm
  | cons e r ih =>
    obtain ⟨j, v⟩ := e
    by_cases h : k = j
    · subst h
      simp [Map.get, Map.find, Map.mapV]
    · simpa [Map.get, Map.find, Map.mapV, h] using ih

/-! ## What a die reads after an update -/

@[simp] theorem dieP_modDie (d q : Nat) (f : DieP → DieP) (s : State) :
    dieP (modDie d f s) q = if q = d then f (dieP s d) else dieP s q := get_upd ({} : DieP) s.pwr.dies d q f
@[simp] theorem dieP_modCor (f : Cor → Cor) (s : State) (q : Nat) : dieP (modCor f s) q = dieP s q := rfl
@[simp] theorem stressRec_modStress (d q : Nat) (f : Stress → Stress) (s : State) :
    stressRec (modStress d f s) q = if q = d then f (stressRec s d) else stressRec s q := get_upd ({} : Stress) s.err.stress d q f
@[simp] theorem dieP_abortSweeps (s : State) (q : Nat) : dieP (abortSweeps s) q = { dieP s q with sweeping := false } :=
  get_mapV ({} : DieP) s.pwr.dies (fun _ x => { x with sweeping := false }) q rfl

@[simp] theorem stressRec_abortSweeps (s : State) (d : Nat) : stressRec (abortSweeps s) d = stressRec s d := rfl
@[simp] theorem dieStep_abortSweeps (s : State) (d : Nat) : dieStep (abortSweeps s) d = dieStep s d := rfl

theorem dieStep_of_cor {s u : State} (h : u.cor = s.cor) (d : Nat) : dieStep u d = dieStep s d := by rw [dieStep, h, dieStep]
theorem stressRec_of_err {s u : State} (h : u.err = s.err) (d : Nat) : stressRec u d = stressRec s d := by rw [stressRec, h, stressRec]

/-- A record of the book leaves every other part. -/
theorem record_frame (code subject detail : Nat) (s : State) : Only [.book] s (record code subject detail s) :=
  record_only code subject detail (by simp) (Only.rfl' _ s)

/-! ## The voltage follows a step down (R496) -/

theorem dropVolt_frame (d : Nat) (s : State) : Only [.pwr] s (dropVolt d s) := dropVolt_only d (by simp) (Only.rfl' _ s)

@[simp] theorem dieStep_dropVolt (d q : Nat) (s : State) : dieStep (dropVolt d s) q = dieStep s q :=
  dieStep_of_cor (dropVolt_frame d s .cor (by decide)) q

theorem dieP_dropVolt (d q : Nat) (s : State) :
    dieP (dropVolt d s) q =
      if q = d ∧ dieStep s d ≤ fmaxStep s d then { dieP s d with volt := min (dieP s d).volt (curveVolt s d (dieStep s d)) }
      else dieP s q := by
  unfold dropVolt
  split
  next h => simp [h]
  next h => simp [h]

/-- The voltage is a die's own: the rest of the power block stays. -/
theorem dropVolt_pwr (d : Nat) (s : State) : (dropVolt d s).pwr = { s.pwr with dies := (dropVolt d s).pwr.dies } := by
  unfold dropVolt
  split
  · rfl
  · rfl

/-! ## A clock step takes effect (R36, R37) -/

/-- The pending step `k` of a die stands, and pends no more. -/
def takeStep (d k : Nat) (s : State) : State :=
  modCor (fun c => { c with cclk := Map.put c.cclk d k, cclkPend := Map.del c.cclkPend d }) s

@[simp] theorem dieStep_takeStep (d k q : Nat) (s : State) : dieStep (takeStep d k s) q = if q = d then k else dieStep s q :=
  get_put 18 s.cor.cclk d q k
@[simp] theorem dieP_takeStep (d k q : Nat) (s : State) : dieP (takeStep d k s) q = dieP s q := rfl
theorem takeStep_notPending (d k : Nat) (s : State) : Map.find (takeStep d k s).cor.cclkPend d = none :=
  (find_del s.cor.cclkPend d d).trans (if_pos rfl)

/-- CCLK_STEP of a die with a pending step. -/
theorem cclkStep_pending {d k : Nat} {s : State} (h : Map.find s.cor.cclkPend d = some k) :
    cclkStep d s = if k < dieStep s d then dropVolt d (takeStep d k s) else takeStep d k s := by
  rw [cclkStep, h]
  rfl

/-- CCLK_STEP acts on the clocks as the pending step does, whether or not the voltage follows it. -/
theorem cclkStep_cor {d k : Nat} {s : State} (h : Map.find s.cor.cclkPend d = some k) : (cclkStep d s).cor = (takeStep d k s).cor := by
  rw [cclkStep_pending h]
  split
  · exact dropVolt_frame d _ .cor (by decide)
  · rfl

theorem dieStep_cclkStep {d k : Nat} {s : State} (h : Map.find s.cor.cclkPend d = some k) (q : Nat) :
    dieStep (cclkStep d s) q = if q = d then k else dieStep s q := by
  rw [dieStep_of_cor (cclkStep_cor h), dieStep_takeStep]

/-- The step and the plan the voltage is lowered to are those of the step taken. -/
theorem dieP_cclkStep {d k : Nat} {s : State} (h : Map.find s.cor.cclkPend d = some k) (q : Nat) :
    dieP (cclkStep d s) q =
      if q = d ∧ k < dieStep s d ∧ k ≤ fmaxStep s d then { dieP s d with volt := min (dieP s d).volt (curveVolt s d k) }
      else dieP s q := by
  have plan : fmaxStep (takeStep d k s) d = fmaxStep s d := rfl
  have volt : curveVolt (takeStep d k s) d k = curveVolt s d k := rfl
  rw [cclkStep_pending h]
  split
  next hk => simp [dieP_dropVolt, plan, volt, hk]
  next hk => simp [hk]

theorem cclkStep_completes {d k : Nat} {s : State} (hn : nclkOn s = true) (h : Map.find s.cor.cclkPend d = some k) :
    Completes (.cclkStep d) s (fun u =>
      dieStep u d = k ∧ Map.find u.cor.cclkPend d = none ∧ (∀ q, q ≠ d → dieStep u q = dieStep s q ∧ dieP u q = dieP s q) ∧
      (dieP u d = if k < dieStep s d ∧ k ≤ fmaxStep s d then { dieP s d with volt := min (dieP s d).volt (curveVolt s d k) } else dieP s d) ∧
      Only [.cor, .pwr] s u) := by
  refine ⟨cclkStep d s, iodClocked_running hn _, ?_, ?_, fun q hq => ⟨?_, ?_⟩, ?_, cclkStep_only d (by simp) (by simp) (Only.rfl' _ s)⟩
  · rw [dieStep_cclkStep h, if_pos rfl]
  · rw [cclkStep_cor h, takeStep_notPending]
  · rw [dieStep_cclkStep h, if_neg hq]
  · rw [dieP_cclkStep h, if_neg (fun x => hq x.1)]
  · simp only [dieP_cclkStep h, true_and]

/-! ## The clamp is engaged (R488) -/

/-- The abort of a pass ends the pass of its own die alone. -/
theorem abortStress_running (d q : Nat) (s : State) :
    (stressRec (abortStress q s) d).running = if d = q then false else (stressRec s d).running := by
  unfold abortStress
  split
  next h =>
    have banks : (zeroDieBanks q s).err = s.err := zeroDieBanks_only (fr := [.mem]) q (by simp) (Only.rfl' _ s) .err (by decide)
    rw [stressRec_of_err (record_frame _ _ _ _ .err (by decide)), stressRec_modStress]
    split
    · rfl
    · rw [stressRec_of_err banks]
  next h =>
    split
    next e => rw [e]; exact Bool.eq_false_iff.mpr h
    · rfl

/-- Every pass that runs on a present die ends as aborted. -/
def abortPasses (s : State) : State := forS (List.range (numDies s)) abortStress s

theorem abortPasses_frame (s : State) : Only [.mem, .err, .book] s (abortPasses s) :=
  forS_only _ _ (fun d _ => abortStress_only d (by simp) (by simp) (by simp)) (Only.rfl' _ s)

theorem abortPasses_running {d : Nat} {s : State} (hd : d < numDies s) : (stressRec (abortPasses s) d).running = false :=
  forS_once (fun x => (stressRec x d).running) (g := fun _ => false) (fun x => by simp [abortStress_running])
    (fun q hq x => by simp [abortStress_running, hq.symm]) List.nodup_range (List.mem_range.mpr hd) s

/-- The clamp is engaged with its cause: the governor's steps on their way are gone, the engagement is counted and reported. -/
def clampIn (transient : Bool) (s : State) : State :=
  upEvent 9 0 6 [] 0 0 (modPwr (fun p => { p with
    clamp := true, clampCause := if transient then 1 else 2, clampSteps := 0, clampCnt := satAdd 32 p.clampCnt 1 })
    (modCor (fun c => { c with cclkPend := [] }) s))

@[simp] theorem clampIn_cor (transient : Bool) (s : State) : (clampIn transient s).cor = { s.cor with cclkPend := [] } := rfl
@[simp] theorem clampIn_cel (transient : Bool) (s : State) :
    (clampIn transient s).cel = { s.cel with up := s.cel.up ++ [.event 9 0 6 [] 0 0] } := rfl
@[simp] theorem clampIn_pwr (transient : Bool) (s : State) :
    (clampIn transient s).pwr = { s.pwr with
      clamp := true, clampCause := if transient then 1 else 2, clampSteps := 0, clampCnt := satAdd 32 s.pwr.clampCnt 1 } := rfl
@[simp] theorem stressRec_clampIn (transient : Bool) (s : State) (d : Nat) : stressRec (clampIn transient s) d = stressRec s d := rfl
@[simp] theorem dieP_clampIn (transient : Bool) (s : State) (d : Nat) : dieP (clampIn transient s) d = dieP s d := rfl
@[simp] theorem dieStep_clampIn (transient : Bool) (s : State) (d : Nat) : dieStep (clampIn transient s) d = dieStep s d := rfl

/-- CLAMP_ENGAGE of a powered module whose clamp is not engaged. -/
theorem clampOn_released {transient : Bool} {s : State} (hc : s.pwr.clamp = false) (ho : s.pwr.st ≠ .off) (hs : s.pwr.st ≠ .standby) :
    clampOn transient s = clampIn transient (abortSweeps (abortPasses s)) :=
  if_neg (by simp [hc, ho, hs])

theorem clampEngage_completes {transient : Bool} {s : State} (hc : s.pwr.clamp = false) (ho : s.pwr.st ≠ .off) (hs : s.pwr.st ≠ .standby) :
    Completes (.clampEngage transient) s (fun u =>
      u.pwr.clamp = true ∧ u.pwr.clampCause = (if transient then 1 else 2) ∧ u.pwr.clampSteps = 0 ∧
      u.pwr.clampCnt = satAdd 32 s.pwr.clampCnt 1 ∧ u.cor.cclkPend = [] ∧
      (∀ d, d < numDies s → (stressRec u d).running = false ∧ (dieP u d).sweeping = false ∧ dieStep u d = dieStep s d) ∧
      u.cel.up = s.cel.up ++ [.event 9 0 6 [] 0 0] ∧ Only [.mem, .cor, .cel, .err, .pwr, .book] s u) := by
  have frame : Only [.mem, .cor, .cel, .err, .pwr, .book] s (clampOn transient s) :=
    clampOn_only transient (by simp) (by simp) (by simp) (by simp) (by simp) (by simp) (Only.rfl' _ s)
  have pwr : (abortPasses s).pwr = s.pwr := abortPasses_frame s .pwr (by decide)
  have cor : (abortPasses s).cor = s.cor := abortPasses_frame s .cor (by decide)
  have cel : (abortPasses s).cel = s.cel := abortPasses_frame s .cel (by decide)
  refine ⟨clampOn transient s, rfl, ?_⟩
  rw [clampOn_released hc ho hs] at frame ⊢
  have engaged := clampIn_pwr transient (abortSweeps (abortPasses s))
  refine ⟨congrArg Pwr.clamp engaged, congrArg Pwr.clampCause engaged, congrArg Pwr.clampSteps engaged, ?_, ?_,
    fun d hd => ⟨?_, ?_, ?_⟩, ?_, frame⟩
  · rw [engaged, abortSweeps, modPwr_pwr, pwr]
  · rw [clampIn_cor]
  · rw [stressRec_clampIn, stressRec_abortSweeps, abortPasses_running hd]
  · rw [dieP_clampIn, dieP_abortSweeps]
  · rw [dieStep_clampIn, dieStep_abortSweeps, dieStep_of_cor cor]
  · rw [clampIn_cel, abortSweeps, modPwr_cel, cel]

/-! ## The clamp steps down (R488) -/

/-- One die goes one step down, its voltage after it. -/
def downOne (d : Nat) (s : State) : State := dropVolt d (modCor (fun c => { c with cclk := Map.put c.cclk d (dieStep s d - 1) }) s)

theorem dieStep_downOne (d q : Nat) (s : State) : dieStep (downOne d s) q = if q = d then dieStep s d - 1 else dieStep s q :=
  (dieStep_dropVolt d q _).trans (get_put 18 s.cor.cclk d q (dieStep s d - 1))

/-- CLAMP_STEP of an engaged clamp while a present die stands above the lowest step. -/
theorem clampDown_engaged {q : Nat} {s : State} (hc : s.pwr.clamp = true) (hq : q < numDies s) (h0 : dieStep s q ≠ 0) :
    clampDown s = forS (List.range (numDies s)) downOne (modPwr (fun p => { p with clampSteps := satAdd 8 p.clampSteps 1 }) s) :=
  if_pos ⟨hc, List.any_eq_true.mpr ⟨q, List.mem_range.mpr hq, decide_eq_true h0⟩⟩

theorem clampStep_completes {q : Nat} {s : State} (hc : s.pwr.clamp = true) (hq : q < numDies s) (h0 : dieStep s q ≠ 0) :
    Completes .clampStep s (fun u =>
      (∀ d, d < numDies s → dieStep u d = dieStep s d - 1) ∧ u.pwr.clampSteps = satAdd 8 s.pwr.clampSteps 1 ∧ u.pwr.clamp = true ∧
      Only [.cor, .pwr] s u) := by
  refine ⟨clampDown s, rfl, fun d hd => ?_, ?_, ?_, clampDown_only (by simp) (by simp) (Only.rfl' _ s)⟩
  · rw [clampDown_engaged hc hq h0]
    exact forS_once (fun x => dieStep x d) (g := (· - 1)) (fun x => by simp [dieStep_downOne])
      (fun p hp x => by simp [dieStep_downOne, hp.symm]) List.nodup_range (List.mem_range.mpr hd) _
  · rw [clampDown_engaged hc hq h0]
    exact forS_keeps (fun x => x.pwr.clampSteps) (fun p _ x => by rw [downOne, dropVolt_pwr]; rfl) _
  · rw [clampDown_engaged hc hq h0]
    exact (forS_keeps (fun x => x.pwr.clamp) (fun p _ x => by rw [downOne, dropVolt_pwr]; rfl) _).trans hc

/-! ## The clamp is released (R488) -/

theorem clampRelease_completes {s : State} (hc : s.pwr.clamp = true) :
    Completes .clampRelease s (fun u => u.pwr = { s.pwr with clamp := false, clampAt := some s.tick } ∧ Only [.pwr, .book] s u) :=
  ⟨record 0x0D04 0 (s.pwr.clampCause + s.pwr.clampSteps * 4) (modPwr (fun p => { p with clamp := false, clampAt := some s.tick }) s),
    congrArg Host.Outcome.next (if_pos hc), record_frame _ _ _ _ .pwr (by decide),
    record_only _ _ _ (by simp) (modPwr_only _ (by simp) (Only.rfl' _ s))⟩

/-! ## Pacing and the unmet cap (R489, R491) -/

theorem exec_pacingWindow {opens : Bool} {s : State} (hn : nclkOn s = true) :
    exec (.pacingWindow opens) s = .next { s with pwr := { s.pwr with pacingOpen := opens } } := iodClocked_running hn _

/-- The cap is unmet: counted, and so marked in the demand interval. -/
def noteUnmet (s : State) : State :=
  modPwr (fun p => { p with unmet := satAdd 32 p.unmet 1, interval := p.interval.map (fun v => { v with unmet := true }) }) s

/-- CAP_UNMET_TIMEOUT at level 3 with the input power above the cap. -/
theorem capUnmet_above {s : State} (hl : s.pwr.level = 3) (hp : capNow s < s.pwr.power) :
    capUnmet s = upEvent 9 0 3 [] 0 0 (record 0x0D03 0 (capNow s + s.pwr.power * 2 ^ 16) (noteUnmet s)) := if_pos ⟨hl, hp⟩

theorem capUnmetTimeout_completes {s : State} (hf : s.dbg.frost = 0) (hl : s.pwr.level = 3) (hp : capNow s < s.pwr.power) :
    Completes .capUnmetTimeout s (fun u =>
      u.pwr.unmet = satAdd 32 s.pwr.unmet 1 ∧ u.pwr.level = 3 ∧ u.cel.up = s.cel.up ++ [.event 9 0 3 [] 0 0] ∧
      Only [.cel, .pwr, .book] s u) := by
  have recorded := record_frame 0x0D03 0 (capNow s + s.pwr.power * 2 ^ 16) (noteUnmet s)
  have pwr := recorded .pwr (by decide)
  have cel := recorded .cel (by decide)
  refine ⟨capUnmet s, clocked_running hf _, ?_, ?_, ?_, capUnmet_only (by simp) (by simp) (by simp) (Only.rfl' _ s)⟩
  · rw [capUnmet_above hl hp]
    exact congrArg Pwr.unmet pwr
  · rw [capUnmet_above hl hp]
    exact (congrArg Pwr.level pwr).trans hl
  · rw [capUnmet_above hl hp]
    exact congrArg (fun c : Cel => c.up ++ [.event 9 0 3 [] 0 0]) cel

/-- Settles O46: each command by its own theorem; the loops over the dies by `forS_once`, since only a die's own turn touches it. -/
theorem clocksAndTheClamp : Obligations.ClocksAndTheClamp :=
  ⟨fun _ _ _ hn h => cclkStep_completes hn h, fun _ _ hc ho hs => clampEngage_completes hc ho hs,
    fun _ _ hc hq h0 => clampStep_completes hc hq h0, fun _ hc => clampRelease_completes hc, fun _ _ hn => exec_pacingWindow hn,
    fun _ hf hl hp => capUnmetTimeout_completes hf hl hp⟩

end Sys2Proof.Machine
end

section
/-!
Shadows, selectors, commits and doorbells of the host interface (R12, R43, R56, R59 to R61, R73 to R75 of 02).
-/
namespace Sys2Proof.Machine

/-! ## Commands the host reaches while no Frost is in force -/

theorem waitsInFrost_running {s : State} (h : s.dbg.frost = 0) (c : Late) (r : Answer) : waitsInFrost c s r = r := if_pos h
theorem frost_of_nclkOn {s : State} (h : nclkOn s = true) : s.dbg.frost = 0 := by
  simp only [nclkOn, Bool.and_eq_true, decide_eq_true_eq] at h
  exact h.1

/-! ## Abort writes (R59) -/

/-- Every abort write of the table is one operation, with its group, accessor and window. -/
theorem exec_abort {c : Instr} {g : Grp} {acc : Acc} {win : Nat} (h : IsAbort c g acc win) (s : State) :
    exec c s = .next (abortWrite g acc win s) := by
  cases h <;> rfl

/-- Settles O6: an abort write that reaches its group is a reload of the shadow. -/
theorem abortWriteReloads : Obligations.AbortWriteReloads := by
  intro c g acc win o s hc hreach hsel
  obtain ⟨shadow, cstat, sets, pend, frame⟩ := reload_spec g acc win o s hsel
  exact ⟨reload g acc win s, (exec_abort hc s).trans (congrArg Host.Outcome.next (if_pos hreach)), shadow, cstat, sets, pend, frame⟩

/-! ## Selector writes (R59, R60) -/

@[simp] theorem rwReg_setRw_same (acc a : Nat) (w : Word) (s : State) : rwReg (setRw acc a w s) acc a = w :=
  (get_set 0 s.regs _ _ w).trans (if_pos rfl)
@[simp] theorem cset_setRw (acc a : Nat) (w : Word) (s : State) (g : Grp) (o i : Nat) : cset (setRw acc a w s) g o i = cset s g o i := rfl

/-- A selector that takes effect, and the reload of its shadow after it. -/
theorem reload_setRw {g : Grp} {acc : Acc} {win o a : Nat} {w : Word} {s : State}
    (hsel : selObj (setRw (accCode acc) a w s) g acc win = some o) :
    let t := reload g acc win (setRw (accCode acc) a w s)
    rwReg t (accCode acc) a = w ∧ (∀ i, i < g.size → shadowReg t g acc win i = cset s g o i) ∧
      t.grp.sets = s.grp.sets ∧ t.grp.cstat = s.grp.cstat ∧ Only [.grp, .regs] s t := by
  obtain ⟨shadow, cstat, sets, _, frame⟩ := reload_spec g acc win o _ hsel
  have regs := frame .regs (by decide)
  refine ⟨?_, shadow, sets, cstat, ?_⟩
  · rw [rwReg, regs]
    exact rwReg_setRw_same _ _ _ _
  · exact (setRw_only _ _ _ (by decide) (Only.rfl' _ s)).trans (frame.mono (by decide))

/-- A selector write of an accessor that reaches the selector's block. -/
theorem selectorWrite_reload {acc : Acc} {a win m : Nat} {g : Grp} {v : Word} {s : State} (hat : selAt s.half a = some (g, win, m))
    (hreach : grpReach s g acc win = true) (hopen : blockOpen s acc (blockOf a) = true) :
    selectorWrite acc a v s = reload g acc win (setRw (accCode acc) a (v &&& wordOf m) s) := by
  cases acc with
  | vf n t => simp [blockOpen] at hopen
  | cfg n => simp [blockOpen] at hopen
  | pf0 => simp [selectorWrite, hat, hreach, hopen]
  | policy => simp [selectorWrite, hat, hreach, hopen]
  | tap => simp [selectorWrite, hat, hreach, hopen]

theorem selectorWrite_vf {n : Nat} {b : Bool} {v : Word} {s : State} (h : vfOpen s n b = true) :
    selectorWrite (.vf n b) 0x1000 v s = reload .rng (.vf n b) 0 (setRw n 0x200000 (v &&& 0xFFFF) s) := if_pos ⟨rfl, h⟩

/-! ## Writes to a register of a group, and of configuration space (R12, R43) -/

@[simp] theorem shadowReg_setShadow_same (g : Grp) (acc : Acc) (win i : Nat) (w : Word) (s : State) :
    shadowReg (setShadow g acc win i w s) g acc win i = w := (get_set _ s.grp.shadows _ _ w).trans (if_pos rfl)

/-- A write to a register of a group by an accessor that reaches the group and its block. -/
theorem exec_registerWrite_group {acc : Acc} {a win i : Nat} {g : Grp} {v : Word} {s : State} (hat : grpAt s.half a = some (g, win, i))
    (hreach : grpReach s g acc win = true) (hopen : blockOpen s acc (blockOf a) = true) :
    exec (.registerWrite acc a v) s = .next (setShadow g acc win i (v &&& g.mask i) s) := by
  have write : pfRegisterWrite acc a v s = setShadow g acc win i (v &&& g.mask i) s := by simp [pfRegisterWrite, hat, hreach, hopen]
  cases acc with
  | vf n t => simp [blockOpen] at hopen
  | cfg n => simp [blockOpen] at hopen
  | pf0 => exact congrArg Host.Outcome.next write
  | policy => exact congrArg Host.Outcome.next write
  | tap => exact congrArg Host.Outcome.next write

theorem exec_registerWrite_cfg {s : State} (h : s.dbg.frost = 0) (n a : Nat) (v : Word) :
    exec (.registerWrite (.cfg n) a v) s = .next (cfgWrite n a v s) := congrArg Host.Outcome.next (if_pos h)

/-- Settles O8: a selector write is a reload after the register is set, a register write sets one register of the shadow. -/
theorem selectorAndShadowWrites : Obligations.SelectorAndShadowWrites := by
  refine ⟨fun acc a win m o g v s hat hreach hopen hsel => ?_, fun n o b v s hopen hsel => ?_, fun acc a win i g v s hat hreach hopen => ?_,
    fun v s hf => ⟨fun h0 => ?_, fun hn => ?_, fun n h14 => ?_⟩⟩
  · exact ⟨_, congrArg Host.Outcome.next (selectorWrite_reload hat hreach hopen), reload_setRw hsel⟩
  · exact ⟨_, congrArg Host.Outcome.next (selectorWrite_vf hopen), reload_setRw (acc := .vf n b) hsel⟩
  · exact ⟨_, exec_registerWrite_group hat hreach hopen, shadowReg_setShadow_same g acc win i _ s, rfl, rfl,
      setShadow_only g acc win i _ (by decide) (Only.rfl' _ s)⟩
  · rw [exec_registerWrite_cfg hf, cfgWrite, if_pos ⟨rfl, rfl⟩, if_pos h0]
    rfl
  · rw [exec_registerWrite_cfg hf, cfgWrite, if_neg (by decide), if_pos ⟨rfl, rfl⟩, if_neg (Nat.not_lt.mpr hn)]
    rfl
  · rw [exec_registerWrite_cfg hf, cfgWrite, if_neg (by simp), if_neg (by simp), if_pos rfl, if_pos h14]
    rfl

/-! ## Commits (R56) -/

/-- A queued commit of the reserve group that names object 1, where its checks meet nothing to refuse; the group has one object, number 0. -/
def strayReserve : PendCommit :=
  { acc := 0, grp := .memRsv, win := 0, obj := some 1, cmd := 1, snap := [0x81, 0x200, 0x100, 4, 0x400] }
/-- The module after reset with that commit in its queue. -/
def strayReserveQueued : State := modGrp (fun g => { g with pend := [strayReserve] }) State.reset

/-- The commit has been applied to object 0: object 1 reads its reset value, not the snapshot. -/
theorem cset_strayReserve : cset (applyCommit 0 none strayReserveQueued) .memRsv 1 0 = 0x80 := by decide +kernel
theorem strayReserve_passes :
    firstFail (commitChecks (modGrp (fun g => { g with pend := g.pend.eraseIdx 0 }) strayReserveQueued) strayReserve 1 none) = none := by
  decide +kernel

/-- Refutes O7: the statement bounds neither the state nor the commit's object, and a commit of the reserve group replaces object 0
whatever object it names, so the object named here keeps its reset value. (A commit write always queues object 0 for that group.) -/
theorem not_commitApply : ¬ Obligations.CommitApply := by
  intro h
  obtain ⟨t, ht, replaced, _⟩ := h.1 0 1 none strayReserve strayReserveQueued rfl (by decide) rfl rfl (by decide) strayReserve_passes
  obtain rfl : applyCommit 0 none strayReserveQueued = t := Host.Outcome.next.inj ht
  have reads := replaced 0 (by decide)
  rw [show strayReserve.grp = .memRsv from rfl, cset_strayReserve] at reads
  exact absurd reads (by decide)

/-! ## Doorbells (R73 to R75) -/

section
variable {acc : Acc} {page value : Nat} {s : State} (hn : nclkOn s = true) (hl : accLocked s acc = false)
include hn hl

/-- A doorbell at another offset or of another size. -/
theorem doorbell_malformed {off size : Nat} (h : off ≠ 0 ∨ size ≠ 8) : doorbell acc page off size value s = ignoreDb s := by
  simp [doorbell, frost_of_nclkOn hn, hn, hl, h]

/-- A doorbell of a page that is no tenant's. -/
theorem doorbell_unowned (hp : pageTen s acc page = none) : doorbell acc page 0 8 value s = ignoreDb s := by
  simp [doorbell, frost_of_nclkOn hn, hn, hl, hp]

/-- A doorbell of a tenant's page rings where the tenant and the ring it names are ACTIVE. -/
theorem doorbell_owned {t : Nat} (hp : pageTen s acc page = some t) :
    doorbell acc page 0 8 value s =
      if tenActive s t ∧ (ringRec s (t * 256 + bitsOf value 39 32)).st = .active then
        ringBell (t * 256 + bitsOf value 39 32) (bitsOf value 31 0) s
      else ignoreDb s := by
  simp [doorbell, frost_of_nclkOn hn, hn, hl, hp]

end

theorem ignoreDb_counts (s : State) :
    (ignoreDb s).hif = { s.hif with dbIgnored := satAdd 32 s.hif.dbIgnored 1 } ∧ Only [.hif] s (ignoreDb s) :=
  ⟨rfl, ignoreDb_only (by decide) (Only.rfl' _ s)⟩
theorem staleDb_counts (s : State) :
    (staleDb s).hif = { s.hif with dbStale := satAdd 32 s.hif.dbStale 1 } ∧ Only [.hif] s (staleDb s) :=
  ⟨rfl, staleDb_only (by decide) (Only.rfl' _ s)⟩

/-- Settles O9: each of the refused doorbells takes a branch that counts it. -/
theorem doorbellIgnored : Obligations.DoorbellIgnored := by
  intro acc page off size value s hn hl hbad
  have ignored : doorbell acc page off size value s = ignoreDb s := by
    by_cases hform : off ≠ 0 ∨ size ≠ 8
    · exact doorbell_malformed hn hl hform
    · obtain ⟨rfl, rfl⟩ : off = 0 ∧ size = 8 := by omega
      have hring := (hbad.resolve_left (absurd rfl)).resolve_left (absurd rfl)
      cases hp : pageTen s acc page with
      | none => exact doorbell_unowned hn hl hp
      | some t =>
        rw [doorbell_owned hn hl hp]
        refine if_neg fun ⟨hact, hst⟩ => ?_
        obtain hten | hst' := hring t hp
        · exact absurd (hten.symm.trans hact) (by decide)
        · exact hst' hst
  exact ⟨_, congrArg Host.Outcome.next ignored, ignoreDb_counts s⟩

/-- A ring of a doorbell's tenant belongs to that tenant. -/
theorem ringTen_doorbell (t value : Nat) : ringTen (t * 256 + bitsOf value 39 32) = t :=
  ringTen_of t _ (Nat.mod_lt _ (by decide))

/-- A change of one ring's record: that record, and no other, in the host interface alone. -/
theorem modRing_alone (r : Nat) (f : Ring → Ring) (s : State) :
    ringRec (modRing r f s) r = f (ringRec s r) ∧ (∀ q, q ≠ r → ringRec (modRing r f s) q = ringRec s q) ∧ Only [.hif] s (modRing r f s) :=
  ⟨(ringRec_modRing r r f s).trans (if_pos rfl), fun q hq => (ringRec_modRing r q f s).trans (if_neg hq),
    modRing_only r f (by decide) (Only.rfl' _ s)⟩

/-! ## Ring errors (R68) -/

theorem raiseIrq_ringRec_other {r q : Nat} (h : q ≠ r) (s : State) : ringRec (raiseIrq r s) q = ringRec s q := by
  rw [raiseIrq, ringRec_modRing, if_neg h, sendIrq_ring]
theorem ringIrq_ringRec_other {r q : Nat} (h : q ≠ r) (now : Bool) (s : State) : ringRec (ringIrq r now s) q = ringRec s q := by
  unfold ringIrq
  split
  · split
    · exact raiseIrq_ringRec_other h s
    · rw [ringRec_modRing, if_neg h]
  · rfl
/-- An entry written to a ring leaves the records of the other rings. -/
theorem writeEntry_ringRec_other {r q : Nat} (h : q ≠ r) (e : List Byte) (now : Bool) (s : State) :
    ringRec (writeEntry r e now s) q = ringRec s q := by
  rw [writeEntry, ringIrq_ringRec_other h, ringRec_modRing, if_neg h]
  rfl
/-- An event posted to a tenant leaves the records of all rings but its event ring. -/
theorem postEvent_ringRec_other {t q : Nat} (h : q ≠ evqRing s t) (code subject detail : Nat) :
    ringRec (postEvent t code subject detail s) q = ringRec s q := by
  unfold postEvent
  split
  · split
    · rw [putEvent, tenset_ring, writeEntry_ringRec_other h]
    · rw [dropEvent, dropEvent, tenset_ring, tenset_ring, ringRec_modRing, if_neg h]
  · rw [dropEvent, tenset_ring]

/-- The record of a ring that meets an error of Table 02.12. -/
def Ring.failed (code : Nat) (x : Ring) : Ring := { x with st := if x.st = .active then .error else x.st, err := code }

theorem ringError_eq (r code : Nat) (s : State) :
    ringError r code s = postEvent (ringTen r) 0x0001 (r % 256) code (modRing r (Ring.failed code) s) := rfl
/-- A ring error, where the event that announces it goes to another ring. -/
theorem ringRec_ringError {r : Nat} {s : State} (h : r ≠ evqRing s (ringTen r)) (code : Nat) :
    ringRec (ringError r code s) r = (ringRec s r).failed code := by
  have other : r ≠ evqRing (modRing r (Ring.failed code) s) (ringTen r) := h
  rw [ringError_eq, postEvent_ringRec_other other, ringRec_modRing, if_pos rfl]
/-- An ACTIVE ring that meets an error is in ERROR, its own event ring too. -/
theorem ringError_st {r : Nat} {s : State} (h : (ringRec s r).st = .active) (code : Nat) : (ringRec (ringError r code s) r).st = .error := by
  refine postEvent_st _ _ _ _ _ _ ?_
  rw [ringRec_modRing, if_pos rfl, if_pos h]
theorem ringError_frame (r code : Nat) (s : State) : Only [.hif, .out] s (ringError r code s) :=
  ringError_only r code (by decide) (by decide) (Only.rfl' _ s)

/-! ## The case tables of R74 and R75 -/

theorem ringBell_submission {r : Nat} {s : State} (h : ringType s r = 0) (index : Nat) :
    ringBell r index s =
      if sub32 index (ringRec s r).latched = 0 then s
      else if 2 ^ 31 ≤ sub32 index (ringRec s r).latched then staleDb s
      else if sub32 (ringRec s r).latched (ringRec s r).fetched + sub32 index (ringRec s r).latched ≤ ringSize s r then
        modRing r (fun x => { x with latched := index }) s
      else ringError r 1 s := if_pos h
theorem ringBell_consumer {r : Nat} {s : State} (h : ringType s r ≠ 0) (index : Nat) :
    ringBell r index s =
      if sub32 index (ringRec s r).consumed = 0 then s
      else if 2 ^ 31 ≤ sub32 index (ringRec s r).consumed then staleDb s
      else if sub32 index (ringRec s r).consumed ≤ sub32 (ringRec s r).posted (ringRec s r).consumed then
        modRing r (fun x => { x with consumed := index }) s
      else ringError r 1 s := if_neg h

/-- Settles O10: one case of R74 for each value of `a`, the overrun by `ringRec_ringError`. -/
theorem submissionDoorbell : Obligations.SubmissionDoorbell := by
  intro acc page t value r a s hn hl hp hact hr hst htype hevq ha
  have hten : ringTen r = t := hr ▸ ringTen_doorbell t value
  have hsub : sub32 (bitsOf value 31 0) (ringRec s r).latched = a := ha.symm
  refine ⟨_, congrArg Host.Outcome.next ((doorbell_owned hn hl hp).trans (if_pos ⟨hact, hr ▸ hst⟩)), ?_⟩
  rw [← hr, ringBell_submission htype, hsub]
  refine ⟨fun h0 => if_pos h0, fun hstale => ?_, fun hpos hlt hfit => ?_, fun hpos hlt hover => ?_⟩
  · rw [if_neg (by omega), if_pos hstale]
    exact staleDb_counts s
  · rw [if_neg (by omega), if_neg (by omega), if_pos hfit]
    exact modRing_alone r _ s
  · rw [if_neg (by omega), if_neg (by omega), if_neg (by omega), ringRec_ringError (by rw [hten]; exact hevq.symm)]
    exact ⟨if_pos hst, rfl, rfl, ringError_frame r 1 s⟩

/-- Settles O11: one case of R75 for each value of `a`; on its own event ring the error's code is the announcement's to change. -/
theorem consumerDoorbell : Obligations.ConsumerDoorbell := by
  intro acc page t value r a s hn hl hp hact hr hst htype ha
  have hten : ringTen r = t := hr ▸ ringTen_doorbell t value
  have hsub : sub32 (bitsOf value 31 0) (ringRec s r).consumed = a := ha.symm
  refine ⟨_, congrArg Host.Outcome.next ((doorbell_owned hn hl hp).trans (if_pos ⟨hact, hr ▸ hst⟩)), ?_⟩
  rw [← hr, ringBell_consumer htype, hsub]
  refine ⟨fun h0 => if_pos h0, fun hstale => ?_, fun hpos hlt hfit => ?_, fun hpos hlt hover => ?_⟩
  · rw [if_neg (by omega), if_pos hstale]
    exact staleDb_counts s
  · rw [if_neg (by omega), if_neg (by omega), if_pos hfit]
    exact modRing_alone r _ s
  · rw [if_neg (by omega), if_neg (by omega), if_neg (by omega)]
    refine ⟨ringError_st hst 1, fun hevq => ?_, ringError_frame r 1 s⟩
    rw [ringRec_ringError (by rw [hten]; exact hevq.symm)]
    rfl

end Sys2Proof.Machine
end

section
/-!
The flow descriptors NOP and FENCE and the entry a completion writes (R79 to R81, R84, R87 of 02).
-/
namespace Sys2Proof.Machine

/-! ## A change of one live descriptor -/

theorem modLive_of_live {s : State} {tag : Nat} {l : Live} (h : liveRec s tag = some l) (f : Live → Live) :
    modLive tag f s = modHif (fun x => { x with live := Map.put x.live tag (f l) }) s := by
  unfold modLive
  rw [h]

theorem put_put {α : Type} (m : Map α) (k : Nat) (v w : α) : Map.put (Map.put m k v) k w = Map.put m k w := by
  induction m with
  | nil => simp [Map.put]
  | cons e r ih =>
    obtain ⟨j, x⟩ := e
    obtain hlt | rfl | hgt := Nat.lt_trichotomy k j
    · simp [Map.put, hlt]
    · simp [Map.put]
    · simp [Map.put, hgt.not_gt, hgt.ne', ih]

/-- Of two changes of one descriptor the later stands. -/
theorem modLive_modLive {s : State} {tag : Nat} {l : Live} (h : liveRec s tag = some l) (f g : Live → Live) :
    modLive tag g (modLive tag f s) = modLive tag (fun _ => g (f l)) s := by
  have changed : liveRec (modLive tag f s) tag = some (f l) := by rw [liveRec_modLive, if_pos rfl, h]; rfl
  rw [modLive_of_live changed, modLive_of_live h, modLive_of_live h]
  simp [modHif, put_put]

theorem modLive_frame (tag : Nat) (f : Live → Live) (s : State) : Only [.hif] s (modLive tag f s) :=
  modLive_only tag f (by decide) (Only.rfl' _ s)

section
variable (tag : Nat) (f : Live → Live) (s : State)

@[simp] theorem modLive_rings : (modLive tag f s).hif.rings = s.hif.rings := by unfold modLive; split <;> rfl
@[simp] theorem modLive_tens : (modLive tag f s).hif.tens = s.hif.tens := by unfold modLive; split <;> rfl
@[simp] theorem modLive_denied : (modLive tag f s).hif.denied = s.hif.denied := by unfold modLive; split <;> rfl
@[simp] theorem modLive_grp : (modLive tag f s).grp = s.grp := modLive_frame tag f s .grp (by decide)
@[simp] theorem modLive_half : (modLive tag f s).half = s.half := modLive_frame tag f s .half (by decide)
@[simp] theorem modLive_stp : (modLive tag f s).stp = s.stp := modLive_frame tag f s .stp (by decide)
@[simp] theorem ringRec_modLive (r : Nat) : ringRec (modLive tag f s) r = ringRec s r := by simp [ringRec]
@[simp] theorem tenFn_modLive (t : Nat) : tenFn (modLive tag f s) t = tenFn s t := by simp [tenFn, tenRec]
@[simp] theorem cset_modLive (g : Grp) (o i : Nat) : cset (modLive tag f s) g o i = cset s g o i := by simp [cset]
@[simp] theorem ringCfg_modLive (r : Nat) : ringCfg (modLive tag f s) r = ringCfg s r := cset_modLive tag f s .rng r 2
@[simp] theorem ringType_modLive (r : Nat) : ringType (modLive tag f s) r = ringType s r := by simp [ringType]
@[simp] theorem ringSize_modLive (r : Nat) : ringSize (modLive tag f s) r = ringSize s r := by simp [ringSize]
@[simp] theorem ringBase_modLive (r : Nat) : ringBase (modLive tag f s) r = ringBase s r := by simp [ringBase]
@[simp] theorem ringCq_modLive (r : Nat) : ringCq (modLive tag f s) r = ringCq s r := by simp [ringCq]
@[simp] theorem entryOk_modLive (r : Nat) : entryOk (modLive tag f s) r = entryOk s r := by simp [entryOk, hostOk]
@[simp] theorem complBytes_modLive (k : Nat) (l : Live) : complBytes (modLive tag f s) k l = complBytes s k l := by simp [complBytes]
@[simp] theorem fenceRingOk_modLive (r : Nat) : fenceRingOk (modLive tag f s) r = fenceRingOk s r := by simp [fenceRingOk]
@[simp] theorem tstep_modLive (t : Nat) : tstep (modLive tag f s) t = tstep s t := by simp [tstep]

end

/-! ## A descriptor that runs, and its end -/

/-- A live descriptor whose tenant's steps wait for no seal, with the link up and resumed: what `done` needs of a state. -/
structure MayEnd (s : State) (tag : Nat) (l : Live) : Prop where
  live : liveRec s tag = some l
  link : s.hif.up = true
  resumed : s.hif.resumePending = false
  seals : ∀ r ∈ (tstep s (liveTen l)).steps, r.sealTag = none

theorem MayEnd.changed {s : State} {tag : Nat} {l : Live} (h : MayEnd s tag l) (f : Live → Live) (hring : (f l).ring = l.ring) :
    MayEnd (modLive tag f s) tag (f l) where
  live := by rw [liveRec_modLive, if_pos rfl, h.live]; rfl
  link := (modLive_up tag f s).trans h.link
  resumed := (modLive_resume tag f s).trans h.resumed
  seals := by rw [tstep_modLive, liveTen, hring]; exact h.seals

/-- A descriptor as it runs, attached to `st`. -/
def Live.started (st : Option Nat) (l : Live) : Live := { l with stage := .running, step := st }

theorem Starts.mayEnd {s : State} {tag op : Nat} {l : Live} {st : Option Nat} (h : Starts s tag op l st) :
    MayEnd (modLive tag (Live.started st) s) tag (l.started st) :=
  MayEnd.changed ⟨h.live, h.link, h.resumed, h.seals⟩ (Live.started st) rfl

/-- The parts of the state that the end of a flow descriptor may touch. -/
def flowParts : List Part := [.hif, .out, .mem, .pln, .rck]

theorem MayEnd.ends {base s : State} {tag : Nat} {l : Live} (h : MayEnd s tag l) (frame : Only flowParts base s) (status detail : Nat) :
    Ended (done tag status detail 0 s) tag l.step status detail 0 ∧ Only flowParts base (done tag status detail 0 s) :=
  ⟨done_ended tag status detail 0 s l h.live h.link h.resumed h.seals,
    done_plain_only tag status detail 0 s l h.live h.seals (by decide) (by decide) (by decide) (by decide) frame⟩

theorem modLive_flow (tag : Nat) (f : Live → Live) (s : State) : Only flowParts s (modLive tag f s) := (modLive_frame tag f s).mono (by decide)

/-! ## NOP (R80) -/

theorem exec_nop {s : State} {tag : Nat} {l : Live} {st : Option Nat} (h : Starts s tag 0x00 l st) :
    exec (.nop tag) s = .next (done tag 0 0 0 (modLive tag (Live.started st) s)) :=
  congrArg Host.Outcome.next (startDesc_go h _)

/-! ## The entry of a completion (R84, R87) -/

/-- The entry an unattached descriptor leaves on its completion ring, with its phase bit: the ring's host write. -/
def complWrite (s : State) (tag : Nat) (l : Live) : Out :=
  .hostWrite (tenFn s (ringTen (ringCq s l.ring))) (pasidOf (ringRec s (ringCq s l.ring)).pasid)
    (ringBase s (ringCq s l.ring) + (ringRec s (ringCq s l.ring)).posted % ringSize s (ringCq s l.ring) * 32)
    (complBytes s tag l ++ [if (ringRec s (ringCq s l.ring)).posted / ringSize s (ringCq s l.ring) % 2 = 0 then 0x80 else 0])

@[simp] theorem complWrite_modLive (k : Nat) (f : Live → Live) (s : State) (tag : Nat) (l : Live) :
    complWrite (modLive k f s) tag l = complWrite s tag l := by simp [complWrite]

theorem mem_out_sendIrq {o : Out} {s : State} (h : o ∈ s.out) (fn vec : Nat) : o ∈ (sendIrq fn vec s).out := by
  unfold sendIrq
  split
  · exact h
  · exact List.mem_cons_of_mem _ h
theorem mem_out_ringIrq {o : Out} {s : State} (h : o ∈ s.out) (r : Nat) (now : Bool) : o ∈ (ringIrq r now s).out := by
  unfold ringIrq
  split
  · split
    · exact mem_out_sendIrq h _ _
    · exact h
  · exact h
theorem settleRing_out (r : Nat) (s : State) : (settleRing r s).out = s.out :=
  settleRing_only (fr := [.hif]) r (by decide) (Only.rfl' _ s) .out (by decide)
theorem freeTag_out (tag : Nat) (l : Live) (s : State) : (freeTag tag l s).out = s.out :=
  freeTag_only (fr := [.hif]) tag l (by decide) (Only.rfl' _ s) .out (by decide)

/-- A completion that is to be written, on an enabled ring whose translation succeeds. -/
theorem complWrite_mem_writeCompl {s : State} {tag : Nat} {l : Live} (hw : wantsPost l = true)
    (hst : (ringRec s (ringCq s l.ring)).st ≠ .disabled) (hok : entryOk s (ringCq s l.ring) = true) :
    complWrite s tag l ∈ (writeCompl tag l s).out := by
  rw [writeCompl, if_pos ⟨hw, hst⟩, if_pos hok, writeEntry]
  exact mem_out_ringIrq List.mem_cons_self _ _

/-- The record `finish` leaves of a descriptor that ends. -/
def Live.over (status detail result : Nat) (l : Live) : Live :=
  { l with status := status, detail := detail, result := result, stage := .held }

/-- The end of an unattached descriptor: its completion is written and its tag freed (R84). -/
theorem MayEnd.finish_eq {s : State} {tag : Nat} {l : Live} (h : MayEnd s tag l) (hstep : l.step = none) (status detail result : Nat) :
    finish tag status detail result s =
      freeTag tag (l.over status detail result)
        (writeCompl tag (l.over status detail result) (modLive tag (Live.over status detail result) s)) := by
  have held := h.changed (Live.over status detail result) rfl
  have posted : finish tag status detail result s = postHeld tag (modLive tag (Live.over status detail result) s) := by
    simp only [finish, h.live, hstep]
    rfl
  rw [posted]
  simp [postHeld, held.live, held.link, held.resumed]

/-- What the end of a descriptor sends is what its completion sends. -/
theorem MayEnd.done_out {s : State} {tag : Nat} {l : Live} (h : MayEnd s tag l) (hstep : l.step = none) (status detail result : Nat) :
    (done tag status detail result s).out =
      (writeCompl tag (l.over status detail result) (modLive tag (Live.over status detail result) s)).out := by
  have frees : ∀ x, (settleFrees (liveTen l) x).out = x.out := fun x =>
    settleFrees_only (fr := [.mem, .pln]) (liveTen l) (by decide) (by decide) (Only.rfl' _ x) .out (by decide)
  rw [done_plain tag status detail result s l h.live h.seals, frees, h.finish_eq hstep, freeTag_out]

/-- A NOP that asks for its completion writes the entry of status OK. -/
theorem nop_complWrite {s : State} {tag : Nat} {l : Live} (h : Starts s tag 0x00 l none) (hw : bitOf (flagsOf l.desc) 0 = true)
    (hok : entryOk s (ringCq s l.ring) = true) (hst : (ringRec s (ringCq s l.ring)).st ≠ .disabled) :
    complWrite s tag ((l.started none).over 0 0 0) ∈ (done tag 0 0 0 (modLive tag (Live.started none) s)).out := by
  rw [h.mayEnd.done_out rfl]
  have written := complWrite_mem_writeCompl (s := modLive tag (Live.over 0 0 0) (modLive tag (Live.started none) s))
    (tag := tag) (l := (l.started none).over 0 0 0) (by simp [wantsPost, Live.over, Live.started, hw])
    (by simpa [Live.over, Live.started] using hst) (by simpa [Live.over, Live.started] using hok)
  simpa using written

/-- The bytes of that entry (Table 02.17): the status, detail and result of an OK are twelve zero bytes. -/
theorem complWrite_ok (s : State) (tag : Nat) (l : Live) :
    complWrite s tag ((l.started none).over 0 0 0) =
      .hostWrite (tenFn s (ringTen (ringCq s l.ring))) (pasidOf (ringRec s (ringCq s l.ring)).pasid)
        (ringBase s (ringCq s l.ring) + (ringRec s (ringCq s l.ring)).posted % ringSize s (ringCq s l.ring) * 32)
        (leB 8 (cookieOf l.desc) ++ leB 4 (seqOf l.desc) ++ leB 4 (tag + l.ring % 256 * 0x100000) ++ zeros 12
          ++ leB 2 (ringRec s l.ring).fetched ++ zeros 1
          ++ [if (ringRec s (ringCq s l.ring)).posted / ringSize s (ringCq s l.ring) % 2 = 0 then 0x80 else 0]) := by
  have ok : ∀ bs : List Byte, leB 2 0 ++ (leB 2 0 ++ (leB 8 0 ++ bs)) = zeros 12 ++ bs := fun _ => rfl
  simp only [complWrite, complBytes, Live.over, Live.started, List.append_assoc, ok]
  rfl

/-! ## FENCE (R80, R81) -/

theorem Starts.unstarted {s : State} {tag op : Nat} {l : Live} {st : Option Nat} (h : Starts s tag op l st) : unstarted l = true := by
  have gate := h.gate
  simp only [gateOf, h.live] at gate
  split at gate
  next hc => exact hc.2.2.1
  next => cases gate

/-- A FENCE that has not started does so: it is not yet one that executes. -/
theorem exec_fence_start {s : State} {tag : Nat} {l : Live} {st : Option Nat} (h : Starts s tag 0x01 l st) :
    exec (.fence tag) s = .next (fenceStart tag (modLive tag (Live.started st) s)) := by
  have idle : l.stage ≠ .running := by
    intro hrun
    have := h.unstarted
    simp [unstarted, hrun] at this
  have starts : execFence tag s = .next (startDesc tag 0x01 (fenceStart tag) s) := by simp [execFence, runningOp, h.live, idle]
  exact starts.trans (congrArg Host.Outcome.next (startDesc_go h _))

/-- A FENCE that executes looks again whether its wait is over. -/
theorem exec_fence_again {s : State} {tag : Nat} {l : Live} (hl : liveRec s tag = some l) (hrun : l.stage = .running)
    (hop : opcodeOf l.desc = 0x01) (hn : nclkOn s = true) : exec (.fence tag) s = .next (fenceTry tag s) :=
  congrArg Host.Outcome.next (if_pos ⟨by simp [runningOp, hl, hrun, hop], hn⟩)

section
variable {s : State} {tag : Nat} {l : Live} (hl : liveRec s tag = some l)
include hl

/-! A FENCE of all earlier descriptors of its ring: flag bit 0 clear. -/

theorem fenceStart_all (hall : bitOf (fieldAt l.desc 17 1) 0 = false) : fenceStart tag s = fenceTry tag s := by simp [fenceStart, hl, hall]
theorem fenceTry_all (hall : bitOf (fieldAt l.desc 17 1) 0 = false) :
    fenceTry tag s = if s.hif.live.any (fun e => earlier s e.2 l && unfinished e.2) then s else done tag 0 0 0 s := by
  simp [fenceTry, hl, hall, stOK]

/-! A counted FENCE: flag bit 0 set. -/

variable (hcounted : bitOf (fieldAt l.desc 17 1) 0 = true)
include hcounted

theorem fenceStart_badRing (hring : fenceRingOk s (fenceRing l) = false) : fenceStart tag s = done tag 0x12 16 0 s := by
  simp [fenceStart, hl, hcounted, hring, stBAD_FIELD]
theorem fenceStart_badCount (hring : fenceRingOk s (fenceRing l) = true)
    (hcount : sub32 (fieldAt l.desc 20 4) (ringRec s (fenceRing l)).fetched = 2 ^ 31) : fenceStart tag s = done tag 0x12 20 0 s := by
  simp [fenceStart, hl, hcounted, hring, hcount, stBAD_FIELD]
theorem fenceStart_counted (hring : fenceRingOk s (fenceRing l) = true)
    (hcount : sub32 (fieldAt l.desc 20 4) (ringRec s (fenceRing l)).fetched ≠ 2 ^ 31) :
    fenceStart tag s = fenceTry tag (modLive tag (fun _ => fenceWait s l (fenceRing l) (fieldAt l.desc 20 4)) s) := by
  simp only [fenceStart, hl]
  rw [if_neg (by simp [hcounted]), if_neg (by simp [hring]), if_neg hcount, modLive_of_live hl, modLive_of_live hl]
theorem fenceTry_counted : fenceTry tag s = if fencePending s l (fenceRing l) then s else done tag 0 0 0 s := by
  simp [fenceTry, hl, hcounted, stOK]

end

/-- The order of two descriptors of a ring is that of their counts, whatever else of them has changed. -/
theorem earlier_congr {s u : State} {a b a' b' : Live} (hrec : ∀ r, ringRec u r = ringRec s r) (har : a'.ring = a.ring) (hac : a'.count = a.count)
    (hbr : b'.ring = b.ring) (hbc : b'.count = b.count) : earlier u a' b' = earlier s a b := by
  simp [earlier, hrec, har, hac, hbr, hbc]
theorem earlier_self (s : State) (l : Live) : earlier s l l = false := by simp [earlier]

/-- A FENCE that starts waits for nothing where every earlier descriptor of its ring has finished: it is not earlier than itself. -/
theorem fenceAll_over {s : State} {tag : Nat} {l : Live} (st : Option Nat) (hl : liveRec s tag = some l)
    (h : ∀ e ∈ s.hif.live, earlier s e.2 l = true → unfinished e.2 = false) :
    (modLive tag (Live.started st) s).hif.live.any
      (fun e => earlier (modLive tag (Live.started st) s) e.2 (l.started st) && unfinished e.2) = false := by
  have recs : ∀ r, ringRec (modLive tag (Live.started st) s) r = ringRec s r := ringRec_modLive tag _ s
  refine List.any_eq_false.mpr fun e he => ?_
  rw [modLive_of_live hl] at he
  obtain rfl | hold := mem_put he
  · have self : earlier (modLive tag (Live.started st) s) (l.started st) (l.started st) = false := earlier_self _ _
    simp [self]
  · rw [earlier_congr (a' := e.2) (b' := l.started st) (b := l) recs rfl rfl rfl rfl]
    cases hearlier : earlier s e.2 l with
    | false => simp
    | true => simp [h e hold hearlier]

/-! The start of a FENCE, in each of its four cases. -/

/-- A counted FENCE as it runs, with what it waits for (R81). -/
def fenceRun (s : State) (tag : Nat) (l : Live) (st : Option Nat) : Live :=
  fenceWait (modLive tag (Live.started st) s) (l.started st) (fenceRing l) (fieldAt l.desc 20 4)

section
variable {s : State} {tag : Nat} {l : Live} {st : Option Nat} (h : Starts s tag 0x01 l st)
include h

theorem Starts.fence_all (hall : bitOf (fieldAt l.desc 17 1) 0 = false) :
    fenceStart tag (modLive tag (Live.started st) s) =
      if (modLive tag (Live.started st) s).hif.live.any
        (fun e => earlier (modLive tag (Live.started st) s) e.2 (l.started st) && unfinished e.2) then modLive tag (Live.started st) s
      else done tag 0 0 0 (modLive tag (Live.started st) s) := by
  rw [fenceStart_all h.mayEnd.live hall, fenceTry_all h.mayEnd.live hall]

theorem Starts.fenceRun_mayEnd : MayEnd (modLive tag (fun _ => fenceRun s tag l st) s) tag (fenceRun s tag l st) := by
  have twice := modLive_modLive h.live (Live.started st) (fun _ => fenceRun s tag l st)
  exact twice ▸ h.mayEnd.changed (fun _ => fenceRun s tag l st) rfl

variable (hcounted : bitOf (fieldAt l.desc 17 1) 0 = true)
include hcounted

theorem Starts.fence_badRing (hring : fenceRingOk s (fenceRing l) = false) :
    fenceStart tag (modLive tag (Live.started st) s) = done tag 0x12 16 0 (modLive tag (Live.started st) s) :=
  fenceStart_badRing h.mayEnd.live hcounted (by rw [fenceRingOk_modLive]; exact hring)

variable (hring : fenceRingOk s (fenceRing l) = true)
include hring

theorem Starts.fence_badCount (hcount : sub32 (fieldAt l.desc 20 4) (ringRec s (fenceRing l)).fetched = 2 ^ 31) :
    fenceStart tag (modLive tag (Live.started st) s) = done tag 0x12 20 0 (modLive tag (Live.started st) s) :=
  fenceStart_badCount h.mayEnd.live hcounted (by rw [fenceRingOk_modLive]; exact hring) (by rw [ringRec_modLive]; exact hcount)

theorem Starts.fence_counted (hcount : sub32 (fieldAt l.desc 20 4) (ringRec s (fenceRing l)).fetched ≠ 2 ^ 31) :
    fenceStart tag (modLive tag (Live.started st) s) =
      if fencePending (modLive tag (fun _ => fenceRun s tag l st) s) (fenceRun s tag l st) (fenceRing l) then
        modLive tag (fun _ => fenceRun s tag l st) s
      else done tag 0 0 0 (modLive tag (fun _ => fenceRun s tag l st) s) := by
  rw [fenceStart_counted h.mayEnd.live hcounted (by rw [fenceRingOk_modLive]; exact hring) (by rw [ringRec_modLive]; exact hcount),
    modLive_modLive h.live]
  exact fenceTry_counted h.fenceRun_mayEnd.live hcounted

end

/-- A FENCE that starts touches no more than the end of a flow descriptor. -/
theorem Starts.fence_frame {s : State} {tag : Nat} {l : Live} {st : Option Nat} (h : Starts s tag 0x01 l st) :
    Only flowParts s (fenceStart tag (modLive tag (Live.started st) s)) := by
  have ended := h.mayEnd.ends (modLive_flow tag _ s)
  cases hcounted : bitOf (fieldAt l.desc 17 1) 0 with
  | false =>
    rw [h.fence_all hcounted]
    exact ite_only (modLive_flow tag _ s) (ended 0 0).2
  | true =>
    cases hring : fenceRingOk s (fenceRing l) with
    | false =>
      rw [h.fence_badRing hcounted hring]
      exact (ended 0x12 16).2
    | true =>
      by_cases hcount : sub32 (fieldAt l.desc 20 4) (ringRec s (fenceRing l)).fetched = 2 ^ 31
      · rw [h.fence_badCount hcounted hring hcount]
        exact (ended 0x12 20).2
      · rw [h.fence_counted hcounted hring hcount]
        exact ite_only (modLive_flow tag _ s) (h.fenceRun_mayEnd.ends (modLive_flow tag _ s) 0 0).2

/-- Settles O25: a NOP is `done`, a FENCE is `done` wherever its wait is over, and what `done` leaves is `MayEnd.ends`. -/
theorem flowDescriptors : Obligations.FlowDescriptors := by
  refine ⟨fun tag l st s h => ?_, fun tag l s h hw hok hst => ?_, fun tag r l w st s s1 h hr hs1 hw => ?_,
    fun tag l s hl hrun hop hn hup hres hseals hcounted hover => ?_⟩
  · exact ⟨_, exec_nop h, h.mayEnd.ends (modLive_flow tag _ s) 0 0⟩
  · exact ⟨_, exec_nop h, complWrite_ok s tag l ▸ nop_complWrite h hw hok hst⟩
  · obtain rfl : r = fenceRing l := hr
    obtain rfl : w = fenceRun s tag l st := by rw [hw, hs1]; rfl
    have ended := fun status detail => (h.mayEnd.ends (modLive_flow tag _ s) status detail).1
    have run := h.fenceRun_mayEnd
    refine ⟨_, exec_fence_start h, h.fence_frame, fun hall hover => ?_, fun hc hring => ?_, fun hc hring hcount => ?_,
      fun hc hring hcount hpend => ?_, fun hc hring hcount hpend => ?_⟩
    · rw [h.fence_all hall, fenceAll_over st h.live hover]
      exact ended 0 0
    · rw [h.fence_badRing hc hring]
      exact ended 0x12 16
    · rw [h.fence_badCount hc hring hcount]
      exact ended 0x12 20
    · rw [h.fence_counted hc hring hcount, hpend]
      exact (run.ends (modLive_flow tag _ s) 0 0).1
    · rw [h.fence_counted hc hring hcount, hpend]
      exact run.live
  · have ended := MayEnd.ends ⟨hl, hup, hres, hseals⟩ (Only.rfl' flowParts s) 0 0
    refine ⟨_, exec_fence_again hl hrun hop hn, ?_⟩
    rw [fenceTry_counted hl hcounted, hover]
    exact ended

end Sys2Proof.Machine
end

section
/-!
Fetch reads and ATS invalidations (R43, R76 to R86 of 02).
-/
namespace Sys2Proof.Machine

/-! ## A loop over any list, seen through one reading of the state -/

/-- A reading that no turn of a loop changes is the same after the loop. -/
theorem forS_reads {α β : Type} (π : State → β) {l : List α} {f : α → State → State} (h : ∀ q ∈ l, ∀ x, π (f q x) = π x) (s : State) :
    π (forS l f s) = π s := by
  induction l generalizing s with
  | nil => rfl
  | cons q r ih => exact (ih (fun p hp => h p (List.mem_cons_of_mem q hp)) (f q s)).trans (h q List.mem_cons_self s)

/-! ## What a change of a ring or of a tenant's record leaves -/

@[simp] theorem modRing_out (r : Nat) (f : Ring → Ring) (s : State) : (modRing r f s).out = s.out := rfl
@[simp] theorem modRing_liveMap (r : Nat) (f : Ring → Ring) (s : State) : (modRing r f s).hif.live = s.hif.live := rfl
@[simp] theorem setTenRec_liveMap (t : Nat) (f : Ten → Ten) (s : State) : (setTenRec t f s).hif.live = s.hif.live := rfl

/-! ## The tags a fetch read takes (R84, R85) -/

/-- Among as many consecutive numbers as a list has entries, and one more, one is not in the list. -/
theorem exists_unused (used : List Nat) (b : Nat) : ∃ i ∈ List.range (used.length + 1), memb (b + i) used = false := by
  by_contra hall
  have within : (List.range (used.length + 1)).map (b + ·) ⊆ used := by
    intro x hx
    obtain ⟨i, hi, rfl⟩ := List.mem_map.mp hx
    by_contra hx
    exact hall ⟨i, hi, by simpa [memb] using hx⟩
  have distinct : ((List.range (used.length + 1)).map (b + ·)).Nodup := List.nodup_range.map (add_right_injective b)
  have := (List.subperm_of_subset distinct within).length_le
  simp at this

theorem lowUnused_not_mem (used : List Nat) (b : Nat) : lowUnused used b ∉ used := by
  obtain ⟨i, hi, hfree⟩ := exists_unused used b
  have found : ((List.range (used.length + 1)).find? (fun i => !memb (b + i) used)).isSome :=
    List.find?_isSome.mpr ⟨i, hi, by simp [hfree]⟩
  obtain ⟨k, hk⟩ := Option.isSome_iff_exists.mp found
  have free := List.find?_some hk
  rw [lowUnused, hk, Option.getD_some, Nat.add_comm]
  simpa [memb] using free

/-- The tag taken is not in use, whichever of the three ways it was found. -/
theorem pickTag_not_mem (used : List Nat) (cls want : Nat) : pickTag used cls want ∉ used := by
  unfold pickTag
  by_cases hwant : want < (if cls = 0 then 1048576 else ctlTag) ∧ ¬ memb want used
  · rw [if_pos hwant]
    simpa [memb] using hwant.2
  · rw [if_neg hwant]
    split
    · exact lowUnused_not_mem used ctlTag
    · exact lowUnused_not_mem used 0

theorem pickTags_length (cls n : Nat) (used want : List Nat) : (pickTags cls n used want).length = n := by
  induction n generalizing used want with
  | zero => rfl
  | succ n ih => simp [pickTags, ih]

theorem pickTags_fresh (cls n : Nat) (used want : List Nat) :
    (pickTags cls n used want).Nodup ∧ ∀ g ∈ pickTags cls n used want, g ∉ used := by
  induction n generalizing used want with
  | zero => simp [pickTags]
  | succ n ih =>
    let k := pickTag used cls (want.headD 1048576)
    obtain ⟨distinct, unused⟩ := ih (k :: used) want.tail
    refine ⟨List.nodup_cons.mpr ⟨fun hk => unused k hk List.mem_cons_self, distinct⟩, fun g hg => ?_⟩
    obtain rfl | hg := List.mem_cons.mp hg
    · exact pickTag_not_mem used cls _
    · exact fun hu => unused g hg (List.mem_cons_of_mem _ hu)

/-! ## A fetch read goes out (R82 to R84) -/

/-- The grant of a fetch read of `k` entries: counted, its tags taken, its completion slots reserved, the read sent. -/
def fetchGrant (r k : Nat) (tags : List Nat) (s : State) : State :=
  emit (.fetchRead (tenFn s (ringTen r)) (pasidOf (ringRec s r).pasid) (ringBase s r + nextFetch s r % ringSize s r * 64) (k * 64))
    (modRing (ringCq s r) (fun x => { x with resv := x.resv + k })
      (modRing r (fun x => { x with reads := x.reads ++ [(nextFetch s r, pickTags (ringClass s r) k (usedTags s) tags)] })
        (countGrant r s)))

/-- The read goes out where the clock runs, nothing drains, there is something to fetch and it is the ring's turn. -/
theorem fetchIssue_grants {r k n : Nat} {tags : List Nat} {s : State} (hn : nclkOn s = true) (h1 : memb 1 s.boot.drained = false)
    (h2 : memb 2 s.boot.drained = false) (hk : k = min n (fetchable s r)) (hpos : 0 < k) (hturn : fetchTurn s r = true) :
    fetchIssue r n tags s = modHif (fun h => { h with trkPeak := max h.trkPeak (allLive (fetchGrant r k tags s)) }) (fetchGrant r k tags s) := by
  subst hk
  simp only [fetchIssue]
  rw [if_neg (by simp [hn, h1, h2]), if_pos (by omega), if_pos hturn]
  rfl

theorem ringRec_emit (o : Out) (s : State) (q : Nat) : ringRec (emit o s) q = ringRec s q := rfl
theorem countGrant_out (r : Nat) (s : State) : (countGrant r s).out = s.out := rfl
theorem fetchGrant_out (r k : Nat) (tags : List Nat) (s : State) :
    (fetchGrant r k tags s).out =
      .fetchRead (tenFn s (ringTen r)) (pasidOf (ringRec s r).pasid) (ringBase s r + nextFetch s r % ringSize s r * 64) (k * 64) :: s.out := by
  rw [fetchGrant, emit_out, modRing_out, modRing_out, countGrant_out]
theorem ringRec_countGrant (r q : Nat) (s : State) : ringRec (countGrant r s) q = ringRec s q := rfl

theorem fetchGrant_frame (r k : Nat) (tags : List Nat) (s : State) : Only [.hif, .out] s (fetchGrant r k tags s) :=
  emit_only _ (by decide) (modRing_only _ _ (by decide) (modRing_only _ _ (by decide) (countGrant_only r (by decide) (Only.rfl' _ s))))

theorem ringRec_fetchGrant {r : Nat} {s : State} (hcq : ringCq s r ≠ r) (k : Nat) (tags : List Nat) (q : Nat) :
    ringRec (fetchGrant r k tags s) q =
      if q = ringCq s r then { ringRec s q with resv := (ringRec s q).resv + k }
      else if q = r then
        { ringRec s q with reads := (ringRec s q).reads ++ [(nextFetch s r, pickTags (ringClass s r) k (usedTags s) tags)] }
      else ringRec s q := by
  rw [fetchGrant, ringRec_emit]
  simp only [ringRec_modRing, ringRec_countGrant]
  by_cases h : q = ringCq s r
  · subst h
    simp [hcq]
  · by_cases h' : q = r
    · subst h'
      simp [h]
    · simp [h, h']

theorem fetchIssue_completes {r k : Nat} {tags : List Nat} {s : State} (hn : nclkOn s = true) (h1 : memb 1 s.boot.drained = false)
    (h2 : memb 2 s.boot.drained = false) (hk : k = min tags.length (fetchable s r)) (hpos : 0 < k) (hturn : fetchTurn s r = true)
    (hcq : ringCq s r ≠ r) :
    Completes (.fetchIssue r tags) s (fun t =>
      (∃ ts, (ringRec t r).reads = (ringRec s r).reads ++ [(nextFetch s r, ts)] ∧ ts.length = k ∧ ts.Nodup ∧ ∀ g ∈ ts, g ∉ usedTags s) ∧
      (ringRec t (ringCq s r)).resv = (ringRec s (ringCq s r)).resv + k ∧
      t.out = .fetchRead (tenFn s (ringTen r)) (pasidOf (ringRec s r).pasid) (ringBase s r + nextFetch s r % ringSize s r * 64) (k * 64)
        :: s.out ∧
      Only [.hif, .out] s t) := by
  refine ⟨_, congrArg Host.Outcome.next (fetchIssue_grants hn h1 h2 hk hpos hturn),
    ⟨pickTags (ringClass s r) k (usedTags s) tags, ?_, pickTags_length _ _ _ _, pickTags_fresh _ _ _ _⟩, ?_, fetchGrant_out r k tags s, modHif_only _ (by decide) (fetchGrant_frame r k tags s)⟩
  · change (ringRec (fetchGrant r k tags s) r).reads = _
    rw [ringRec_fetchGrant hcq, if_neg hcq.symm, if_pos rfl]
  · change (ringRec (fetchGrant r k tags s) (ringCq s r)).resv = _
    rw [ringRec_fetchGrant hcq, if_pos rfl]

/-! ## A fetch read returns (R78, R84) -/

/-- A ring that is not DRAINING stays as it is. -/
theorem settleRing_steady {r : Nat} {s : State} (h : (ringRec s r).st ≠ .draining) : settleRing r s = s := if_neg (fun hd => h hd.1)

theorem settleInvals_hif (r c : Nat) (s : State) : ∃ invals, (settleInvals r c s).hif = { s.hif with invals := invals } := by
  have emits : ∀ (l : List (Nat × Nat × Nat × List (Nat × Nat))) (x : State),
      (forS l (fun i => emit (.atsDone i.1 i.2.1 i.2.2.1)) x).hif = x.hif :=
    fun _ => forS_reads State.hif (fun _ _ _ => rfl)
  unfold settleInvals
  dsimp only
  rw [emits]
  exact ⟨_, rfl⟩
theorem ringRec_settleInvals (r c q : Nat) (s : State) : ringRec (settleInvals r c s) q = ringRec s q := by
  obtain ⟨invals, h⟩ := settleInvals_hif r c s
  rw [ringRec, h]
  rfl
theorem settleInvals_live (r c : Nat) (s : State) : (settleInvals r c s).hif.live = s.hif.live := by
  obtain ⟨invals, h⟩ := settleInvals_hif r c s
  rw [h]

/-- The oldest fetch read of a ring returns outside Frost. -/
theorem exec_fetchReadDone {r flt c : Nat} {ep : Bool} {ts : List Nat} {rest : List (Nat × List Nat)} {d : List Byte} {s : State}
    (hf : s.dbg.frost = 0) (hr : (ringRec s r).reads = (c, ts) :: rest) :
    exec (.fetchReadDone r flt ep d) s = .next (settleInvals r c (fetchDone r (flt + b2n ep) d s)) := by
  refine (waitsInFrost_running hf _ _).trans ?_
  rw [hr]

theorem fetchReadDone_frame (r c flt : Nat) (d : List Byte) (s : State) : Only [.hif, .out] s (settleInvals r c (fetchDone r flt d s)) :=
  settleInvals_only r c (by decide) (by decide) (fetchDone_only r flt d (by decide) (by decide) (Only.rfl' _ s))

/-- A fetched entry under its tag, seen by the FENCEs that wait for it (R81). -/
def entryLive (r count : Nat) (d : List Byte) (tag : Nat) (s : State) : State :=
  modHif (fun h => { h with
    live := Map.put (Map.mapV (fun _ => fenceSees r count (ringRec s r)) h.live) tag { ring := r, count := count, desc := d } }) s

theorem find_mapV {α : Type} (m : Map α) (f : Nat → α → α) (k : Nat) : Map.find (Map.mapV f m) k = (Map.find m k).map (f k) := by
  induction m with
  | nil => rfl
  | cons e r ih =>
    obtain ⟨j, v⟩ := e
    by_cases h : k = j
    · subst h
      simp [Map.find, Map.mapV]
    · simpa [Map.find, Map.mapV, h] using ih

theorem liveRec_entryLive (r count : Nat) (d : List Byte) (tag : Nat) (s : State) (g : Nat) :
    liveRec (entryLive r count d tag s) g =
      if g = tag then some { ring := r, count := count, desc := d } else (liveRec s g).map (fenceSees r count (ringRec s r)) := by
  simp only [liveRec, entryLive, modHif_hif, find_put, find_mapV]

/-- An entry of an ACTIVE tenant whose header no check of R90 stops. -/
theorem takeEntry_live {r count tag : Nat} {d : List Byte} {s : State} (hact : tenActive s (ringTen r) = true)
    (hok : headerFault s r count d = none) : takeEntry r count d tag s = entryLive r count d tag s := by
  unfold takeEntry
  rw [if_neg (by simp [hact])]
  split
  next e he =>
    have fault : headerFault s r count d = some e := he
    simp [hok] at fault
  next => rfl

theorem headerFault_none {r count : Nat} {d : List Byte} {s : State} (hret : bitW s.pln.retire 31 = false) (hseq : seqOf d = count)
    (hver : versionOf d = 1) (hop : ∃ cs, opClasses (opcodeOf d) = some cs ∧ memb (ringClass s r) cs = true) :
    headerFault s r count d = none := by
  obtain ⟨cs, hcs, hcls⟩ := hop
  simp [headerFault, hret, hseq, hver, hcs, hcls]

/-- The record of a ring whose read of one entry has returned. -/
def Ring.fetchedOne (c : Nat) (x : Ring) : Ring := { x with reads := [], fetched := (c + 1) % 0x100000000 }

/-- A read of one entry returns it. -/
theorem fetchDone_one {r c want : Nat} {d : List Byte} {s : State} (hr : (ringRec s r).reads = [(c, [want])])
    (hst : (ringRec s r).st = .active) (hd : d.length = 64) (hc : c < 2 ^ 32) (hact : tenActive s (ringTen r) = true)
    (hok : headerFault s r c d = none) :
    fetchDone r 0 d s = entryLive r c d want (modRing r (Ring.fetchedOne c) s) := by
  have entry : ((chunks64 1 d).zip [want]).zipIdx = [((d, want), 0)] := by simp [chunks64, List.take_of_length_le hd.le]
  have count : (c + 0) % 0x100000000 = c := by omega
  have live : takeEntry r c d want (modRing r (Ring.fetchedOne c) s) = entryLive r c d want (modRing r (Ring.fetchedOne c) s) :=
    takeEntry_live hact hok
  have steady : (ringRec (entryLive r c d want (modRing r (Ring.fetchedOne c) s)) r).st ≠ .draining := by
    have : (ringRec (modRing r (Ring.fetchedOne c) s) r).st = .active := by rw [ringRec_modRing, if_pos rfl]; exact hst
    exact fun h => absurd (this.symm.trans h) (by decide)
  unfold fetchDone
  rw [hr]
  change settleRing r (forS (((chunks64 1 d).zip [want]).zipIdx) (fun p x => takeEntry r ((c + p.2) % 0x100000000) p.1.1 p.1.2 x)
    (modRing r (Ring.fetchedOne c) s)) = _
  rw [entry]
  change settleRing r (takeEntry r ((c + 0) % 0x100000000) d want (modRing r (Ring.fetchedOne c) s)) = _
  rw [count, live, settleRing_steady steady]

theorem fetchReadDone_returns {r c want : Nat} {d : List Byte} {s : State} (hf : s.dbg.frost = 0) (hr : (ringRec s r).reads = [(c, [want])])
    (hst : (ringRec s r).st = .active) (hd : d.length = 64) (hact : tenActive s (ringTen r) = true) (hc : c < 2 ^ 32)
    (hok : headerFault s r c d = none) :
    Completes (.fetchReadDone r 0 false d) s (fun t =>
      liveRec t want = some { ring := r, count := c, desc := d } ∧ (ringRec t r).fetched = (c + 1) % 2 ^ 32 ∧ (ringRec t r).reads = [] ∧
      (∀ g, g ≠ want → liveRec t g = (liveRec s g).map (fenceSees r c (ringRec s r))) ∧ Only [.hif, .out] s t) := by
  have record : ringRec (modRing r (Ring.fetchedOne c) s) r = (ringRec s r).fetchedOne c := (ringRec_modRing r r _ s).trans (if_pos rfl)
  have live : ∀ g, liveRec (settleInvals r c (fetchDone r 0 d s)) g =
      if g = want then some { ring := r, count := c, desc := d } else (liveRec s g).map (fenceSees r c (ringRec s r)) := by
    intro g
    rw [liveRec, settleInvals_live, fetchDone_one hr hst hd hc hact hok]
    refine (liveRec_entryLive r c d want _ g).trans ?_
    rw [record]
    rfl
  have ring : ringRec (settleInvals r c (fetchDone r 0 d s)) r = (ringRec s r).fetchedOne c := by
    rw [ringRec_settleInvals, fetchDone_one hr hst hd hc hact hok]
    exact record
  exact ⟨_, exec_fetchReadDone hf hr, (live want).trans (if_pos rfl), congrArg Ring.fetched ring, congrArg Ring.reads ring,
    fun g hg => (live g).trans (if_neg hg), fetchReadDone_frame r c 0 d s⟩

/-! ## A fetch read fails (R78, Table 02.12) -/

/-! What a posting changes of the host interface: the records of rings and the pending bits, and the count of lost events. -/

theorem sendIrq_hif (fn vec : Nat) (s : State) : ∃ pend, (sendIrq fn vec s).hif = { s.hif with msixPend := pend } := by
  unfold sendIrq
  split
  · exact ⟨_, rfl⟩
  · exact ⟨_, rfl⟩
theorem raiseIrq_hif (r : Nat) (s : State) : ∃ rings pend, (raiseIrq r s).hif = { s.hif with rings := rings, msixPend := pend } := by
  obtain ⟨pend, h⟩ := sendIrq_hif (tenFn s (ringTen r)) (ringVec s r) s
  unfold raiseIrq
  dsimp only
  rw [modRing, modHif_hif, h]
  exact ⟨_, _, rfl⟩
theorem ringIrq_hif (r : Nat) (now : Bool) (s : State) :
    ∃ rings pend, (ringIrq r now s).hif = { s.hif with rings := rings, msixPend := pend } := by
  unfold ringIrq
  split
  · split
    · exact raiseIrq_hif r s
    · exact ⟨_, _, rfl⟩
  · exact ⟨_, _, rfl⟩
theorem writeEntry_hif (r : Nat) (e : List Byte) (now : Bool) (s : State) :
    ∃ rings pend, (writeEntry r e now s).hif = { s.hif with rings := rings, msixPend := pend } := by
  unfold writeEntry
  dsimp only
  obtain ⟨rings, pend, h⟩ := ringIrq_hif r now (modRing r (fun x => { x with posted := (x.posted + 1) % 0x100000000 })
    (emit (.hostWrite (tenFn s (ringTen r)) (pasidOf (ringRec s r).pasid)
      (ringBase s r + (ringRec s r).posted % ringSize s r * 32)
      (e ++ [if (ringRec s r).posted / ringSize s r % 2 = 0 then 0x80 else 0])) s))
  exact ⟨rings, pend, h⟩
theorem postEvent_liveMap (t code subject detail : Nat) (s : State) : (postEvent t code subject detail s).hif.live = s.hif.live := by
  unfold postEvent
  split
  · split
    · obtain ⟨rings, pend, h⟩ := writeEntry_hif (evqRing s t) (eventBytes s t code subject detail) false s
      rw [putEvent, setTenRec_liveMap, h]
    · rw [dropEvent, setTenRec_liveMap, dropEvent, setTenRec_liveMap, modRing_liveMap]
  · rw [dropEvent, setTenRec_liveMap]
theorem ringError_liveMap (r code : Nat) (s : State) : (ringError r code s).hif.live = s.hif.live := by
  rw [ringError_eq, postEvent_liveMap, modRing_liveMap]

/-- The oldest read of a ring whose entries do not come: it is gone, with the completion slots its entries had. -/
def readGone (r : Nat) (ts : List Nat) (rest : List (Nat × List Nat)) (s : State) : State :=
  modRing (ringCq s r) (fun x => { x with resv := x.resv - ts.length }) (modRing r (fun x => { x with reads := rest }) s)

theorem fetchDone_fault {r flt c : Nat} {ts : List Nat} {rest : List (Nat × List Nat)} {s : State} (hflt : flt ≠ 0)
    (hr : (ringRec s r).reads = (c, ts) :: rest) (d : List Byte) :
    fetchDone r flt d s = settleRing r (settleRing (ringCq s r) (ringError r 2 (readGone r ts rest s))) := by
  unfold fetchDone
  rw [hr]
  exact if_pos hflt

theorem settleRing_ringRec_other {r q : Nat} (h : q ≠ r) (s : State) : ringRec (settleRing r s) q = ringRec s q := by
  unfold settleRing
  split
  · rw [ringRec_modRing, if_neg h]
  · rfl
theorem settleRing_liveMap (r : Nat) (s : State) : (settleRing r s).hif.live = s.hif.live := by
  unfold settleRing
  split
  · rfl
  · rfl

/-- Settling any ring leaves the record of a ring that is not DRAINING. -/
theorem settleRing_ringRec_steady {q : Nat} {s : State} (h : (ringRec s q).st ≠ .draining) (r : Nat) :
    ringRec (settleRing r s) q = ringRec s q := by
  by_cases hq : q = r
  · subst hq
    rw [settleRing_steady h]
  · exact settleRing_ringRec_other hq s

/-- The record of a ring whose reads but the rest are gone. -/
def Ring.leftWith (rest : List (Nat × List Nat)) (resv : Nat) (x : Ring) : Ring := { x with reads := rest, resv := resv }

theorem ringRec_readGone (r : Nat) (ts : List Nat) (rest : List (Nat × List Nat)) (s : State) :
    ∃ resv, ringRec (readGone r ts rest s) r = (ringRec s r).leftWith rest resv := by
  by_cases h : r = ringCq s r
  · rw [readGone, ← h, ringRec_modRing, if_pos rfl, ringRec_modRing, if_pos rfl]
    exact ⟨_, rfl⟩
  · rw [readGone, ringRec_modRing, if_neg h, ringRec_modRing, if_pos rfl]
    exact ⟨_, rfl⟩

theorem fetchReadDone_faults {r flt c : Nat} {ep : Bool} {ts : List Nat} {rest : List (Nat × List Nat)} {d : List Byte} {s : State}
    (hf : s.dbg.frost = 0) (hflt : flt ≠ 0 ∨ ep = true) (hr : (ringRec s r).reads = (c, ts) :: rest) (hst : (ringRec s r).st = .active)
    (hevq : evqRing s (ringTen r) ≠ r) :
    Completes (.fetchReadDone r flt ep d) s (fun t =>
      (ringRec t r).st = .error ∧ (ringRec t r).err = 2 ∧ (ringRec t r).reads = rest ∧ (ringRec t r).fetched = (ringRec s r).fetched ∧
      t.hif.live = s.hif.live ∧ Only [.hif, .out] s t) := by
  have fault : flt + b2n ep ≠ 0 := by
    obtain h | rfl := hflt
    · omega
    · simp [b2n]
  obtain ⟨resv, gone⟩ := ringRec_readGone r ts rest s
  have failed : ringRec (ringError r 2 (readGone r ts rest s)) r = ((ringRec s r).leftWith rest resv).failed 2 := by
    have other : r ≠ evqRing (readGone r ts rest s) (ringTen r) := hevq.symm
    rw [ringRec_ringError other, gone]
  have error : (ringRec (ringError r 2 (readGone r ts rest s)) r).st = .error := by rw [failed]; exact if_pos hst
  have ring : ringRec (settleInvals r c (fetchDone r (flt + b2n ep) d s)) r =
      ((ringRec s r).leftWith rest resv).failed 2 := by
    have first := settleRing_ringRec_steady (by rw [error]; decide) (ringCq s r)
    rw [ringRec_settleInvals, fetchDone_fault fault hr, settleRing_ringRec_steady (by rw [first, error]; decide), first, failed]
  have live : (settleInvals r c (fetchDone r (flt + b2n ep) d s)).hif.live = s.hif.live := by
    rw [settleInvals_live, fetchDone_fault fault hr, settleRing_liveMap, settleRing_liveMap, ringError_liveMap, readGone,
      modRing_liveMap, modRing_liveMap]
  refine ⟨_, exec_fetchReadDone hf hr, ?_, ?_, ?_, ?_, live, fetchReadDone_frame r c _ d s⟩
  · rw [ring]
    exact if_pos hst
  · rw [ring]
    rfl
  · rw [ring]
    rfl
  · rw [ring]
    rfl

/-! ## ATS invalidations (R43) -/

/-- The ranges that grant no write once an invalidation has named one. -/
def deniedAfter (x : Nat × Nat × Nat) (deny : Bool) (l : List (Nat × Nat × Nat)) : List (Nat × Nat × Nat) :=
  l.filter (fun d => decide (d ≠ x)) ++ (if deny then [x] else [])

theorem mem_deniedAfter (x y : Nat × Nat × Nat) (deny : Bool) (l : List (Nat × Nat × Nat)) :
    y ∈ deniedAfter x deny l ↔ (y ≠ x ∧ y ∈ l) ∨ (y = x ∧ deny = true) := by
  cases deny <;> simp [deniedAfter, and_comm]

/-- The state once the translations that follow an invalidation are in force. -/
def translated (x : Nat × Nat × Nat) (deny : Bool) (s : State) : State := modHif (fun h => { h with denied := deniedAfter x deny h.denied }) s

theorem exec_atsInvalidation {s : State} (hf : s.dbg.frost = 0) (fn page pages : Nat) (deny : Bool) :
    exec (.atsInvalidation fn page pages deny) s = .next (
      if (readsOf s fn).isEmpty then emit (.atsDone fn page pages) (translated (fn, page, pages) deny s)
      else modHif (fun h => { h with invals := h.invals ++ [(fn, page, pages, readsOf s fn)] }) (translated (fn, page, pages) deny s)) :=
  waitsInFrost_running hf _ _

theorem atsInvalidation_completes {s : State} (hf : s.dbg.frost = 0) (fn page pages : Nat) (deny : Bool) :
    Completes (.atsInvalidation fn page pages deny) s (fun t =>
      (readsOf s fn = [] → t.out = .atsDone fn page pages :: s.out) ∧
      (readsOf s fn ≠ [] → t.out = s.out ∧ t.hif.invals = s.hif.invals ++ [(fn, page, pages, readsOf s fn)]) ∧
      (deny = true → (fn, page, pages) ∈ t.hif.denied) ∧ (deny = false → (fn, page, pages) ∉ t.hif.denied) ∧
      (∀ x, x ≠ (fn, page, pages) → (x ∈ t.hif.denied ↔ x ∈ s.hif.denied)) ∧ Only [.hif, .out] s t) := by
  have frame : Only [.hif, .out] s (translated (fn, page, pages) deny s) := modHif_only _ (by decide) (Only.rfl' _ s)
  have members : ∀ l, l = deniedAfter (fn, page, pages) deny s.hif.denied →
      (deny = true → (fn, page, pages) ∈ l) ∧ (deny = false → (fn, page, pages) ∉ l) ∧
        (∀ x, x ≠ (fn, page, pages) → (x ∈ l ↔ x ∈ s.hif.denied)) := by
    rintro l rfl
    refine ⟨fun h => ?_, fun h => ?_, fun x hx => ?_⟩
    · simp [mem_deniedAfter, h]
    · simp [mem_deniedAfter, h]
    · simp [mem_deniedAfter, hx]
  refine ⟨_, exec_atsInvalidation hf fn page pages deny, ?_⟩
  by_cases hreads : readsOf s fn = []
  · obtain ⟨denied, granted, others⟩ := members _ rfl
    rw [if_pos (by simp [hreads])]
    exact ⟨fun _ => rfl, fun h => absurd hreads h, denied, granted, others, emit_only _ (by decide) frame⟩
  · obtain ⟨denied, granted, others⟩ := members _ rfl
    rw [if_neg (by simp [hreads])]
    exact ⟨fun h => absurd h hreads, fun _ => ⟨rfl, rfl⟩, denied, granted, others, modHif_only _ (by decide) frame⟩

/-- Settles O12: the grant of a read, its return, its failure and the invalidation, each by its own theorem. -/
theorem fetchAndInvalidate : Obligations.FetchAndInvalidate :=
  ⟨fun _ _ _ _ hn h1 h2 hk hpos hturn hcq => fetchIssue_completes hn h1 h2 hk hpos hturn hcq,
    fun _ _ _ _ _ hf hr hst hd hact hc hret hseq hver hop =>
      fetchReadDone_returns hf hr hst hd hact hc (headerFault_none hret hseq hver hop),
    fun _ _ _ _ _ _ _ _ hf hflt hr hst hevq => fetchReadDone_faults hf hflt hr hst hevq,
    fun fn page pages deny _ hf => atsInvalidation_completes hf fn page pages deny⟩

end Sys2Proof.Machine
end

section
/-!
Function Level Resets, the reset of PF0 and of the link (R98 to R100 of 02): the states of the tenants through teardown and the commits
that a reset completes.
-/
namespace Sys2Proof.Machine

/-! ## The states of the tenants -/

/-- The state of each tenant (Table 02.2). -/
def tenSt (s : State) : Nat → TenSt := fun n => (tenRec s n).st

/-- The parts of the state outside the host interface. -/
def offHif : List Part :=
  [.half, .moduleId, .pending, .tick, .free, .out, .mem, .regs, .grp, .pln, .cor, .vnl, .col, .stp, .rck, .cel, .pol, .err, .pwr, .tim, .sec,
    .dbg, .boot, .book, .mram]

theorem tenSt_of_tens {s u : State} (h : u.hif.tens = s.hif.tens) : tenSt u = tenSt s := by
  funext n
  rw [tenSt, tenRec, h]
  rfl
/-- An operation outside the host interface leaves the states of the tenants. -/
theorem tenSt_of_only {s u : State} (h : Only offHif s u) : tenSt u = tenSt s := tenSt_of_tens (congrArg Hif.tens (h .hif (by decide)))

/-- A change of one tenant's record: its state is what the change makes of it, the others' stay. -/
theorem tenSt_setTenRec (t : Nat) (f : Ten → Ten) (s : State) : tenSt (setTenRec t f s) = Function.update (tenSt s) t (f (tenRec s t)).st := by
  funext n
  simp only [tenSt, tenRec, setTenRec, modHif_hif, get_upd, Function.update_apply]
  split
  · rfl
  · rfl
theorem tenSt_setTenRec_same {t : Nat} {f : Ten → Ten} {s : State} (h : (f (tenRec s t)).st = (tenRec s t).st) :
    tenSt (setTenRec t f s) = tenSt s := by
  rw [tenSt_setTenRec, h]
  exact Function.update_eq_self t (tenSt s)

theorem tenSt_modHif {f : Hif → Hif} {s : State} (h : (f s.hif).tens = s.hif.tens) : tenSt (modHif f s) = tenSt s := tenSt_of_tens h
@[simp] theorem tenSt_modSec (f : Sec → Sec) (s : State) : tenSt (modSec f s) = tenSt s := rfl

/-! ## Postings leave the states of the tenants -/

section
variable (s : State)

@[simp] theorem tenSt_modRing (r : Nat) (f : Ring → Ring) : tenSt (modRing r f s) = tenSt s := rfl
@[simp] theorem tenSt_writeEntry (r : Nat) (e : List Byte) (now : Bool) : tenSt (writeEntry r e now s) = tenSt s := by
  obtain ⟨rings, pend, h⟩ := writeEntry_hif r e now s
  exact tenSt_of_tens (by rw [h])
@[simp] theorem tenSt_dropEvent (t : Nat) : tenSt (dropEvent t s) = tenSt s := tenSt_setTenRec_same rfl
@[simp] theorem tenSt_putEvent (t code subject detail : Nat) : tenSt (putEvent t code subject detail s) = tenSt s := by
  rw [putEvent, tenSt_setTenRec_same rfl, tenSt_writeEntry]
@[simp] theorem tenSt_postEvent (t code subject detail : Nat) : tenSt (postEvent t code subject detail s) = tenSt s := by
  unfold postEvent
  split
  · split
    · rw [tenSt_putEvent]
    · rw [tenSt_dropEvent, tenSt_dropEvent, tenSt_modRing]
  · rw [tenSt_dropEvent]
@[simp] theorem tenSt_ringError (r code : Nat) : tenSt (ringError r code s) = tenSt s := by rw [ringError_eq, tenSt_postEvent, tenSt_modRing]
@[simp] theorem tenSt_record (code subject detail : Nat) : tenSt (record code subject detail s) = tenSt s :=
  tenSt_of_only (record_only _ _ _ (by decide) (Only.rfl' _ s))
@[simp] theorem tenSt_noteT (t code subject detail : Nat) : tenSt (noteT t code subject detail s) = tenSt s :=
  (tenSt_of_only (recordT_only _ _ _ _ (by decide) (Only.rfl' _ _))).trans (tenSt_postEvent s t code subject detail)
@[simp] theorem tenSt_noteAll (code subject detail : Nat) : tenSt (noteAll code subject detail s) = tenSt s := by
  rw [noteAll, tenSt_record, forS_reads tenSt fun t _ x => tenSt_postEvent x t code subject detail]

/-! ## Completions leave the states of the tenants -/

@[simp] theorem tenSt_modLive (tag : Nat) (f : Live → Live) : tenSt (modLive tag f s) = tenSt s := tenSt_of_tens (modLive_tens tag f s)
@[simp] theorem tenSt_settleRing (r : Nat) : tenSt (settleRing r s) = tenSt s := by
  unfold settleRing
  split
  · rw [tenSt_modRing]
  · rfl
@[simp] theorem tenSt_freeTag (tag : Nat) (l : Live) : tenSt (freeTag tag l s) = tenSt s := by
  rw [freeTag, tenSt_settleRing, tenSt_settleRing, tenSt_modRing]
  rfl
@[simp] theorem tenSt_writeCompl (tag : Nat) (l : Live) : tenSt (writeCompl tag l s) = tenSt s := by
  unfold writeCompl
  split
  · split
    · rw [tenSt_writeEntry]
    · rw [tenSt_ringError]
  · rfl
@[simp] theorem tenSt_postHeld (tag : Nat) : tenSt (postHeld tag s) = tenSt s := by
  unfold postHeld
  split
  · rfl
  · split
    · rw [tenSt_freeTag, tenSt_writeCompl]
    · rw [tenSt_modLive]
@[simp] theorem tenSt_finish (tag status detail result : Nat) : tenSt (finish tag status detail result s) = tenSt s := by
  unfold finish
  split
  · rfl
  · dsimp only
    split
    · rw [tenSt_modLive]
    · rw [tenSt_postHeld, tenSt_modLive]

/-! ## Racks, grafts and ports leave the states of the tenants -/

@[simp] theorem tenSt_modTenRack (t : Nat) (f : TenRack → TenRack) : tenSt (modTenRack t f s) = tenSt s := rfl
@[simp] theorem tenSt_rackEnd (tag t n status detail result : Nat) : tenSt (rackEnd tag t n status detail result s) = tenSt s := by
  unfold rackEnd
  split
  · rw [tenSt_finish]
  · split
    · rw [tenSt_noteT]
    · rfl
@[simp] theorem tenSt_rackFit : tenSt (rackFit s) = tenSt s := by
  unfold rackFit
  split
  · rfl
  · dsimp only
    split
    · rw [tenSt_rackEnd]
      exact tenSt_of_only (setSlot_only _ _ (by decide) (modRck_only _ (by decide) (Only.rfl' _ s)))
    · rfl
@[simp] theorem tenSt_setGraft (t g : Nat) : tenSt (setGraft t g s) = tenSt s := by
  unfold setGraft
  split
  · rfl
  · rw [tenSt_noteT, tenSt_modTenRack]
@[simp] theorem tenSt_graftNone (t : Nat) : tenSt (graftNone t s) = tenSt s := by rw [graftNone, tenSt_setGraft, tenSt_modTenRack]
@[simp] theorem tenSt_checkBuddy (t : Nat) : tenSt (checkBuddy t s) = tenSt s := by
  have none : tenSt (if (tenRack s t).graft ≠ 0 then graftNone t s else s) = tenSt s := by
    split
    · rw [tenSt_graftNone]
    · rfl
  unfold checkBuddy
  split
  · rfl
  · dsimp only
    split
    · split
      · rw [tenSt_rackFit, tenSt_modTenRack, none]
      · split
        · exact none
        · exact none
    · exact none
@[simp] theorem tenSt_checkBuddies : tenSt (checkBuddies s) = tenSt s := forS_reads tenSt (fun t _ x => tenSt_checkBuddy x t) s
@[simp] theorem tenSt_updReady (b : Nat) : tenSt (updReady b s) = tenSt s := by
  unfold updReady
  dsimp only
  split
  · rw [tenSt_noteT]
    rfl
  · rfl
@[simp] theorem tenSt_gateShutPort (p reason : Nat) : tenSt (gateShutPort p reason s) = tenSt s := by
  unfold gateShutPort
  split
  · exact tenSt_of_only (modPort_only _ _ (by decide) (Only.rfl' _ s))
  · dsimp only
    split
    · rw [tenSt_updReady]
      split
      · refine (tenSt_of_only (enterHedged_only _ (by decide) (by decide) (by decide) (by decide) (Only.rfl' _ _))).trans ?_
        rw [tenSt_noteT]
        exact tenSt_of_only (modPort_only _ _ (by decide) (Only.rfl' _ s))
      · rw [tenSt_noteT]
        exact tenSt_of_only (modPort_only _ _ (by decide) (Only.rfl' _ s))
    · rfl

/-! ## Faults and gates leave the states of the tenants -/

theorem numCores_le : numCores s ≤ 128 := by
  unfold numCores
  split <;> decide

/-- A contained fault that names no core touches nothing of the host interface: it completes no descriptor. -/
theorem faultReport_contained_hif (src unit : Nat) (tens : List Nat) : (faultReport src 2 unit 0xFF tens s).hif = s.hif := by
  have off : ∀ {x u : State}, Only offHif x u → u.hif = x.hif := fun h => h .hif (by decide)
  have noCore : ∀ x : State, ¬ 0xFF < numCores x := fun x => by have := numCores_le x; omega
  simp only [faultReport]
  rw [if_neg (by decide), if_neg (noCore _)]
  refine (off (upMsg_only _ (by decide) (abortSweeps_only (by decide) (forS_only _ _
    (fun d _ => abortStress_only d (by decide) (by decide) (by decide)) (Only.rfl' _ _))))).trans ?_
  refine (off (forS_only _ _ (fun t _ => modTstep_only t _ (by decide)) (Only.rfl' _ _))).trans ?_
  exact off (modErr_only _ (by decide) (frostFault_only 2 (by decide) (Only.rfl' _ s)))

@[simp] theorem tenSt_faultOne (src t : Nat) : tenSt (faultOne src t s) = tenSt s :=
  tenSt_of_tens (congrArg Hif.tens (faultReport_contained_hif s src 0x13 [t]))
@[simp] theorem tenSt_closePort (p reason : Nat) : tenSt (closePort p reason s) = tenSt s := by
  unfold closePort
  dsimp only
  split
  · split
    · rw [tenSt_faultOne, tenSt_gateShutPort]
    · rw [tenSt_gateShutPort]
  · rw [tenSt_gateShutPort]
@[simp] theorem tenSt_closePorts (b reason : Nat) (ps : List Nat) : tenSt (closePorts b reason ps s) = tenSt s := by
  have shut : tenSt (forS ps (gateShutPort · reason) s) = tenSt s := forS_reads tenSt (fun p _ x => tenSt_gateShutPort x p reason) s
  unfold closePorts
  dsimp only
  rw [tenSt_checkBuddies]
  split
  · rw [tenSt_faultOne, shut]
  · exact shut
@[simp] theorem tenSt_unbind (b : Nat) : tenSt (unbind b s) = tenSt s := by
  unfold unbind
  refine (tenSt_of_only (modSec_only _ (by decide) (wiltLeave_only _ _ (by decide) (by decide) (by decide)
    (modPol_only _ (by decide) (modVnl_only _ (by decide) (modRck_only _ (by decide) (Only.rfl' _ _))))))).trans ?_
  rw [tenSt_closePorts]
@[simp] theorem tenSt_portOff (p : Nat) : tenSt (portOff p s) = tenSt s := by
  rw [portOff, tenSt_checkBuddies]
  refine (tenSt_of_only (modPort_only _ _ (by decide) (Only.rfl' _ _))).trans ?_
  rw [tenSt_closePort]
@[simp] theorem tenSt_checkHold : tenSt (checkHold s) = tenSt s := by
  unfold checkHold
  dsimp only
  split
  · rfl
  · rw [tenSt_noteAll]
    rfl

/-! ## Teardown (R49, R50) -/

@[simp] theorem tenSt_flushLive (t : Nat) : tenSt (flushLive t s) = tenSt s := by
  refine forS_reads tenSt (fun e _ x => ?_) s
  dsimp only
  split
  · rw [tenSt_modLive]
  · split
    · rw [tenSt_freeTag, tenSt_writeCompl, tenSt_modLive]
    · rw [tenSt_freeTag, tenSt_modLive]
@[simp] theorem tenSt_stopRings (t : Nat) : tenSt (stopRings t s) = tenSt s := rfl

/-- What follows the change of state in a teardown: the tenant's work, memory and binding go. -/
def teardownRest (t : Nat) (s : State) : State :=
  let s3 := dropTrace t (dropRacks t (stopTenant t s))
  let s4 := forS ((tenHnds s3 t).map Prod.fst) dropHnd s3
  let s5 := match bindOf s4 t with
    | some b => csetReset .vnlPcl b (unbind b s4)
    | none => s4
  modSec (fun x => { x with zero := Map.put x.zero t zeroItems }) s5

theorem tenSt_teardownRest (t : Nat) : tenSt (teardownRest t s) = tenSt s := by
  have stopped : Only offHif s (dropTrace t (dropRacks t (stopTenant t s))) :=
    dropTrace_only t (by decide) (dropRacks_only t (by decide) (by decide) (by decide)
      (stopTenant_only t (by decide) (by decide) (by decide) (by decide) (by decide) (by decide) (Only.rfl' _ s)))
  have dropped := tenSt_of_only (forS_only ((tenHnds (dropTrace t (dropRacks t (stopTenant t s))) t).map Prod.fst) dropHnd
    (fun h _ => dropHnd_only h (by decide) (by decide)) stopped)
  unfold teardownRest
  dsimp only
  refine Eq.trans ?_ dropped
  generalize forS _ dropHnd _ = x
  rw [tenSt_modSec]
  split
  · refine (tenSt_of_only (csetReset_only _ _ (by decide) (Only.rfl' _ _))).trans ?_
    rw [tenSt_unbind]
  · rfl

theorem teardown_bound {t : Nat} {s : State} (h : tenSt s t = .active ∨ tenSt s t = .quarantine) :
    teardown t s = teardownRest t (setTenRec t (fun x => { x with st := .teardown }) (stopRings t (flushLive t s))) := if_pos h
theorem teardown_unbound {t : Nat} {s : State} (h : ¬ (tenSt s t = .active ∨ tenSt s t = .quarantine)) : teardown t s = s := if_neg h

/-- A teardown puts an ACTIVE or QUARANTINE tenant in TEARDOWN and leaves the states of the others. -/
theorem tenSt_teardown (t : Nat) :
    tenSt (teardown t s) = if tenSt s t = .active ∨ tenSt s t = .quarantine then Function.update (tenSt s) t .teardown else tenSt s := by
  split
  next h => rw [teardown_bound h, tenSt_teardownRest, tenSt_setTenRec, tenSt_stopRings, tenSt_flushLive]
  next h => rw [teardown_unbound h]

/-- No teardown frees a tenant. -/
theorem teardown_ne_free {n : Nat} (h : tenSt s n ≠ .free) (t : Nat) : tenSt (teardown t s) n ≠ .free := by
  rw [tenSt_teardown]
  split
  · rw [Function.update_apply]
    split
    · decide
    · exact h
  · exact h
/-- A teardown keeps a tenant in TEARDOWN, and leaves its own tenant there unless it is FREE. -/
theorem teardown_keeps {n : Nat} (h : tenSt s n = .free ∨ tenSt s n = .teardown) (t : Nat) :
    tenSt (teardown t s) n = .free ∨ tenSt (teardown t s) n = .teardown := by
  rw [tenSt_teardown]
  split
  · rw [Function.update_apply]
    split
    · exact .inr rfl
    · exact h
  · exact h
theorem teardown_own (n : Nat) : tenSt (teardown n s) n = .free ∨ tenSt (teardown n s) n = .teardown := by
  rw [tenSt_teardown]
  split
  · exact .inr (Function.update_self n _ _)
  next h => cases hst : tenSt s n <;> simp [hst] at h ⊢

end

/-! ## A loop keeps a property, and its turn for one element establishes it -/

theorem forS_holds {α : Type} (P : State → Prop) {l : List α} {f : α → State → State} (h : ∀ q ∈ l, ∀ x, P x → P (f q x)) {s : State}
    (hs : P s) : P (forS l f s) := by
  induction l generalizing s with
  | nil => exact hs
  | cons q r ih => exact ih (fun p hp => h p (List.mem_cons_of_mem q hp)) (h q List.mem_cons_self s hs)
theorem forS_establishes {α : Type} (P : State → Prop) {l : List α} {f : α → State → State} {d : α} (hd : d ∈ l) (own : ∀ x, P (f d x))
    (keep : ∀ q ∈ l, ∀ x, P x → P (f q x)) (s : State) : P (forS l f s) := by
  induction l generalizing s with
  | nil => cases hd
  | cons q r ih =>
    obtain rfl | hr := List.mem_cons.mp hd
    · exact forS_holds P (fun p hp => keep p (List.mem_cons_of_mem d hp)) (own s)
    · exact ih hr (fun p hp => keep p (List.mem_cons_of_mem q hp)) (f q s)

/-! ## The commits that a reset completes (Table 02.21) -/

theorem csetAll_off (g : Grp) (o : Nat) (ws : List Word) (s : State) : Only offHif s (csetAll g o ws s) :=
  csetAll_only g o ws (by decide) (Only.rfl' _ s)

/-- A commit of a tenant's group frees no tenant: it activates a FREE one or tears tenants down. -/
theorem hifTenApply_ne_free {s : State} {n : Nat} (h : tenSt s n ≠ .free) (t : Nat) (c : PendCommit) : tenSt (hifTenApply t c s) n ≠ .free := by
  have set := tenSt_of_only (csetAll_off .hifTen t c.snap s)
  unfold hifTenApply
  dsimp only
  split
  · rw [tenSt_modSec, tenSt_modHif rfl, tenSt_setTenRec, Function.update_apply]
    split
    · exact (by decide : TenSt.active ≠ TenSt.free)
    · rw [set]
      exact h
  · split
    · have torn : tenSt (teardown t (csetAll .hifTen t c.snap s)) n ≠ .free := teardown_ne_free _ (by rw [set]; exact h) t
      split
      · refine forS_holds (fun x => tenSt x n ≠ .free) (fun u _ x hx => ?_) torn
        split
        · exact teardown_ne_free x hx u
        · exact hx
      · exact torn
    · rw [set]
      exact h

/-- The parts of the state that the reset of PF0 may touch: what R99 does not name stays. -/
def resetParts : List Part :=
  [.free, .out, .mem, .grp, .hif, .pln, .cor, .vnl, .col, .stp, .rck, .cel, .pol, .err, .pwr, .tim, .sec, .dbg, .book]

section
variable {base : State} {c : PendCommit} (hc : c.grp = .hifTen) (rd : Option (List Byte))
include hc

theorem commitEffect_hifTen (o : Nat) (s : State) : commitEffect c o rd s = hifTenApply o c s := by
  unfold commitEffect
  rw [hc]
theorem hifTenCommit_frame {s : State} (h : Only resetParts base s) : Only resetParts base (runCommit c rd s) := by
  have report : ∀ res off {x : State}, Only resetParts base x → Only resetParts base (reportCommit c res off x) :=
    fun res off _ hx => reportCommit_only c res off (by decide) hx
  unfold runCommit
  split
  · exact report _ _ h
  · split
    · exact report _ _ h
    · rw [commitEffect_hifTen hc]
      refine report _ _ (hifTenApply_only _ c ?_ ?_ ?_ ?_ ?_ ?_ ?_ ?_ ?_ ?_ ?_ ?_ ?_ ?_ ?_ ?_ ?_ ?_ ?_ h) <;> decide
theorem hifTenCommit_ne_free {n : Nat} {s : State} (h : tenSt s n ≠ .free) : tenSt (runCommit c rd s) n ≠ .free := by
  have report : ∀ res off (x : State), tenSt (reportCommit c res off x) = tenSt x :=
    fun res off x => tenSt_of_only (reportCommit_only c res off (by decide) (Only.rfl' _ x))
  unfold runCommit
  split
  · rw [report]
    exact h
  · split
    · rw [report]
      exact h
    · rw [report, commitEffect_hifTen hc]
      exact hifTenApply_ne_free h _ c

end

theorem finishTenCommits_frame (s : State) : Only resetParts s (finishTenCommits s) :=
  forS_holds (Only resetParts s) (fun _ hc _ hx => hifTenCommit_frame (of_decide_eq_true (List.mem_filter.mp hc).2) none hx)
    (modGrp_only _ (by decide) (Only.rfl' _ s))
theorem finishTenCommits_ne_free {s : State} {n : Nat} (h : tenSt s n ≠ .free) : tenSt (finishTenCommits s) n ≠ .free :=
  forS_holds (fun x => tenSt x n ≠ .free) (fun _ hc _ hx => hifTenCommit_ne_free (of_decide_eq_true (List.mem_filter.mp hc).2) none hx) h

/-! ## The reset of PF0 (R99) and of the link (R100) -/

/-- A tenant that is not FREE is among the bound ones. -/
theorem mem_boundTens {s : State} {n : Nat} (h : tenSt s n ≠ .free) : n ∈ boundTens s := by
  have listed : ∀ m : Map Ten, (Map.get {} m n).st ≠ .free → ∃ e ∈ m, e.1 = n ∧ e.2.st ≠ .free := by
    intro m hm
    induction m with
    | nil => exact absurd rfl hm
    | cons e r ih =>
      by_cases hn : n = e.1
      · exact ⟨e, List.mem_cons_self, hn.symm, by simpa [Map.get, Map.find, hn] using hm⟩
      · obtain ⟨x, hx, hst⟩ := ih (by simpa [Map.get, Map.find, hn] using hm)
        exact ⟨x, List.mem_cons_of_mem e hx, hst⟩
  obtain ⟨e, he, rfl, hst⟩ := listed s.hif.tens h
  exact List.mem_map.mpr ⟨e, List.mem_filter.mpr ⟨he, decide_eq_true hst⟩, rfl⟩

/-- The reset of every function tears down every tenant that is not FREE. -/
theorem flrTenants_all {s : State} {n : Nat} (h : tenSt s n ≠ .free) : tenSt (flrTenants (fun _ => true) s) n = .teardown := by
  have down : tenSt (flrTenants (fun _ => true) s) n = .free ∨ tenSt (flrTenants (fun _ => true) s) n = .teardown :=
    forS_establishes (fun x => tenSt x n = .free ∨ tenSt x n = .teardown) (mem_boundTens h) (fun x => teardown_own x n)
      (fun t _ x hx => teardown_keeps x hx t) s
  have bound : tenSt (flrTenants (fun _ => true) s) n ≠ .free :=
    forS_holds (fun x => tenSt x n ≠ .free) (fun t _ x hx => teardown_ne_free x hx t) h
  exact down.resolve_left bound

/-- What the reset of PF0 does before the groups return to their reset values. -/
def flrPf0Work (s : State) : State :=
  let s1 := flrTenants (fun _ => true) (finishTenCommits s)
  let s2 := forS (boundTens s1) (fun t s => forS (tenSlots s t) (fun ck => modSlot ck.1 ck.2 (fun _ => {})) s) s1
  let s3 := forS ((List.range (numPorts s)).filter (fun p => bitW (cset s2 .vnlPort p 0) 31)) portOff s2
  checkHold (modTim (fun x => { x with tpinLock := false, good := 0, miss := 0 }) s3)

theorem flrPf0_eq (s : State) : flrPf0 s = modGrp (fun _ => {}) (flrPf0Work s) := rfl

theorem flrTenants_frame {base s : State} (f : Nat → Bool) (h : Only resetParts base s) : Only resetParts base (flrTenants f s) := by
  refine flrTenants_only f ?_ ?_ ?_ ?_ ?_ ?_ ?_ ?_ ?_ ?_ ?_ ?_ ?_ ?_ ?_ ?_ ?_ ?_ ?_ h <;> decide
theorem portOff_frame {base s : State} (p : Nat) (h : Only resetParts base s) : Only resetParts base (portOff p s) := by
  refine portOff_only p ?_ ?_ ?_ ?_ ?_ ?_ ?_ ?_ ?_ ?_ ?_ ?_ ?_ ?_ h <;> decide

theorem flrPf0_frame (s : State) : Only resetParts s (flrPf0 s) := by
  have torn := flrTenants_frame (fun _ => true) (finishTenCommits_frame s)
  have released := forS_only (boundTens (flrTenants (fun _ => true) (finishTenCommits s)))
    (fun t s => forS (tenSlots s t) (fun ck => modSlot ck.1 ck.2 (fun _ => {})) s)
    (fun t x hx => forS_only (tenSlots x t) _ (fun ck _ => modSlot_only ck.1 ck.2 _ (by decide)) hx) torn
  exact modGrp_only _ (by decide) (checkHold_only (by decide) (by decide) (by decide) (by decide)
    (modTim_only _ (by decide) (forS_only _ _ (fun p _ => portOff_frame p) released)))

theorem flrPf0_tenants {s : State} {n : Nat} (h : tenSt s n ≠ .free) : tenSt (flrPf0 s) n = .teardown := by
  have torn := flrTenants_all (finishTenCommits_ne_free h)
  have slots : ∀ x : State, ∀ l, tenSt (forS l (fun t s => forS (tenSlots s t) (fun ck => modSlot ck.1 ck.2 (fun _ => {})) s) x) = tenSt x :=
    fun x l => tenSt_of_only (forS_only l _ (fun t y hy => forS_only (tenSlots y t) _
      (fun ck _ => modSlot_only ck.1 ck.2 _ (by decide)) hy) (Only.rfl' _ x))
  have ports : ∀ x : State, ∀ l, tenSt (forS l portOff x) = tenSt x := fun x l => forS_reads tenSt (fun p _ y => tenSt_portOff y p) x
  have work : tenSt (flrPf0Work s) = tenSt (flrTenants (fun _ => true) (finishTenCommits s)) := by
    rw [flrPf0Work, tenSt_checkHold, tenSt_of_only (modTim_only (ps := offHif) _ (by decide) (Only.rfl' _ _)), ports, slots]
  rw [flrPf0_eq, tenSt_of_only (modGrp_only (ps := offHif) _ (by decide) (Only.rfl' _ _)), work, torn]

theorem exec_flrPf0 {s : State} (h : s.dbg.frost = 0) : exec .flrPf0 s = .next (flrPf0 s) := waitsInFrost_running h _ _
theorem exec_hotReset {s : State} (h : s.dbg.frost = 0) : exec .hotReset s = .next (flrPf0 s) := waitsInFrost_running h _ _

/-- Settles O13: both resets are `flrPf0`, whose tenants are `flrPf0_tenants` and whose groups are empty tables. -/
theorem resetOfPf0 : Obligations.ResetOfPf0 := by
  intro c s hf hc
  have runs : exec c s = .next (flrPf0 s) := by
    obtain rfl | rfl := hc
    · exact exec_flrPf0 hf
    · exact exec_hotReset hf
  have frame := flrPf0_frame s
  refine ⟨flrPf0 s, runs, fun n hn => flrPf0_tenants hn, fun g o i => ?_, fun g acc win i => ?_,
    (exec_hotReset hf).trans (exec_flrPf0 hf).symm, frame .half (by decide), frame .regs (by decide), frame .boot (by decide),
    frame .mram (by decide), frame .tick (by decide)⟩
  · rw [flrPf0_eq]
    rfl
  · rw [flrPf0_eq]
    rfl

/-! ## The reset of a VF (R98) -/

/-- A state whose table of tenants lists tenant 5 twice, so that it is bound by the table's entries and FREE by its record. -/
def listedTwice : State :=
  modHif (fun h => { h with numVfs := 1, tens := [(5, { st := .free, fn := 1 }), (5, { st := .active })] }) State.reset

theorem finishTenCommits_listedTwice : finishTenCommits listedTwice = listedTwice := rfl
theorem flrTenants_listedTwice : flrTenants (fun f => decide (f = 1)) listedTwice = listedTwice := rfl

/-- Refutes O14: the clause of the reset of a VF speaks of every entry of the tenants' table, and nothing says that the table lists a
tenant once; the tenant listed twice counts as bound, and its record stays FREE. (The module's own tables list a tenant once.) -/
theorem not_hostLinkAndInterrupts : ¬ Obligations.HostLinkAndInterrupts := by
  intro h
  obtain ⟨_, _, _, resetOfVf, _⟩ := h
  obtain ⟨t, ht, _, torn, _⟩ := resetOfVf 1 listedTwice rfl (by decide) (by decide)
  obtain rfl : flrOf 1 listedTwice = t := Host.Outcome.next.inj ht
  have down := torn 5 (by decide) (by decide)
  exact absurd down (by decide)

end Sys2Proof.Machine
end

section
/-!
The pages of the Planter: its evaluations and moves, the end of a back-off, and the press buffer's timeouts (R118, R127, R128, R131 of
03).
-/
namespace Sys2Proof.Machine

/-! ## Pages -/

theorem pageKey_split (key : Nat) : pageKey (key / 0x100000) (key % 0x100000) = key := by
  unfold pageKey
  omega

theorem modPage_of_page {s : State} {h p : Nat} {x : Page} (hx : pageRec s h p = some x) (f : Page → Page) :
    modPage h p f s = modPln (fun y => { y with pages := Map.put y.pages (pageKey h p) (f x) }) s := by
  unfold modPage
  rw [hx]

/-- A change of a page named by its key. -/
theorem modPage_of_key {s : State} {key : Nat} {x : Page} (hx : Map.find s.pln.pages key = some x) (f : Page → Page) :
    modPage (key / 0x100000) (key % 0x100000) f s = modPln (fun y => { y with pages := Map.put y.pages key (f x) }) s := by
  have here : pageRec s (key / 0x100000) (key % 0x100000) = some x := by rw [pageRec, pageKey_split]; exact hx
  rw [modPage_of_page here, pageKey_split]

/-! ## Placements and evaluations move no page yet (R119 to R122) -/

section
variable (s : State)

@[simp] theorem startMove_pages (key : Nat) (l : Nat × Nat) (v : Option (Nat × Nat × Nat × Nat)) (promo : Bool) :
    (startMove key l v promo s).pln.pages = s.pln.pages := by unfold startMove; split <;> rfl
@[simp] theorem startMove_hnds (key : Nat) (l : Nat × Nat) (v : Option (Nat × Nat × Nat × Nat)) (promo : Bool) :
    (startMove key l v promo s).pln.hnds = s.pln.hnds := by unfold startMove; split <;> rfl
@[simp] theorem countUnmet_pages (x : Page) (l : Nat × Nat) : (countUnmet x l s).pln.pages = s.pln.pages := by
  unfold countUnmet; split <;> rfl
@[simp] theorem countUnmet_hnds (x : Page) (l : Nat × Nat) : (countUnmet x l s).pln.hnds = s.pln.hnds := by
  unfold countUnmet; split <;> rfl

/-- An evaluation counts an unmet hint and starts a move, or does neither. -/
theorem evalPage_cases (key : Nat) :
    evalPage key s = s ∨ (∃ x l, evalPage key s = countUnmet x l s) ∨
      ∃ x l k q v, evalPage key s = startMove k q v false (countUnmet x l s) := by
  unfold evalPage
  split
  next =>
    dsimp only
    split
    · exact .inr (.inl ⟨_, _, rfl⟩)
    · split
      · split
        · exact .inr (.inl ⟨_, _, rfl⟩)
        · exact .inr (.inr ⟨_, _, _, _, _, rfl⟩)
      · exact .inr (.inl ⟨_, _, rfl⟩)
  next => exact .inl rfl

theorem evalPage_pages (key : Nat) : (evalPage key s).pln.pages = s.pln.pages := by
  obtain e | ⟨x, l, e⟩ | ⟨x, l, k, q, v, e⟩ := evalPage_cases s key <;> simp [e]
theorem evalPage_hnds (key : Nat) : (evalPage key s).pln.hnds = s.pln.hnds := by
  obtain e | ⟨x, l, e⟩ | ⟨x, l, k, q, v, e⟩ := evalPage_cases s key <;> simp [e]

end

/-! ## The decay (R118) -/

/-- A page whose access counts have halved. -/
def halvedCounts (x : Page) : Page := { x with c0 := x.c0 / 2, c1 := x.c1 / 2, c2 := x.c2 / 2, c3 := x.c3 / 2 }
/-- The state in which every page's counts have halved, before the evaluations of the decay. -/
def decayed (s : State) : State := modPln (fun p => { p with pages := Map.mapV (fun _ => halvedCounts) p.pages }) s

theorem exec_planterDecay {s : State} (hn : nclkOn s = true) :
    exec .planterDecay s = .next (forS ((decayed s).pln.pages.map Prod.fst) evalPage (decayed s)) :=
  congrArg Host.Outcome.next (if_pos hn)

/-! ## The end of a move (R127, R128) -/

theorem retryPromos_idle {s : State} (h : s.pln.waits = []) : retryPromos s = s := by
  unfold retryPromos
  rw [h]
  rfl
theorem pump_idle {s : State} (h : s.pln.waits = []) : pump s = s := by
  unfold pump
  rw [h, List.foldl_nil]
  exact congrArg (fun p => { s with pln := p }) (show { s.pln with waits := [] } = s.pln by rw [← h])

theorem program_pln (t n : Nat) (s : State) : (program t n s).pln = s.pln :=
  program_only (fr := [.out, .hif, .rck, .book]) t n (by decide) (by decide) (by decide) (by decide) (Only.rfl' _ s) .pln (by decide)

section
variable {s : State} {m : Move}

theorem move_page {key : Nat} (h : moveOf s key = some m) : m.page = key := by simpa using List.find?_some h

/-- What an abandoned move leaves of the Planter's tables. -/
theorem dropMove_pln (h : moveOf s m.page = some m) :
    (dropMove m.page s).pln = { s.pln with
      moves := s.pln.moves.filter (fun n => decide (n.page ≠ m.page) && decide (n.after ≠ some m.page))
      zeroing := leaves m.tier m.stack s.pln.zeroing
      migAbandon := if m.promo then s.pln.migAbandon else satAdd 32 s.pln.migAbandon 1 } := by
  have found : s.pln.moves.find? (fun n => decide (n.page = m.page)) = some m := h
  unfold dropMove
  rw [found]
  rfl

/-- What a move that ends leaves of the Planter's tables: its page in the new place, its old place zeroizing. -/
theorem finishMove_pln {x : Page} (hx : Map.find s.pln.pages m.page = some x) :
    (finishMove m s).pln = { s.pln with
      pages := Map.put s.pln.pages m.page { x with tier := m.tier, stack := m.stack }
      moves := s.pln.moves.filter (fun n => decide (n.page ≠ m.page))
      zeroing := leaves x.tier x.stack s.pln.zeroing
      press := s.pln.press.filter (fun l => decide (l.hnd ≠ m.page / 0x100000) || decide (l.line / 32768 ≠ m.page % 0x100000))
      migDone := if m.promo then s.pln.migDone else satAdd 32 s.pln.migDone 1 } := by
  have here : pageRec s (m.page / 0x100000) (m.page % 0x100000) = some x := by rw [pageRec, pageKey_split]; exact hx
  simp only [finishMove, here, modPage_of_key hx]
  split
  next =>
    split
    · rw [program_pln]
      cases m.promo <;> rfl
    · cases m.promo <;> rfl
  next => cases m.promo <;> rfl

/-- A page after the writes its move met: three in a row ban its moves. -/
def Page.abandoned (x : Page) : Page :=
  { x with abandons := if 2 ≤ x.abandons then 0 else x.abandons + 1, banned := decide (2 ≤ x.abandons) || x.banned }

/-- A move abandoned for the writes it met: its page notes it, and the move goes. -/
theorem abandonMove_of_page {x : Page} (hx : Map.find s.pln.pages m.page = some x) :
    abandonMove m s = dropMove m.page (modPln (fun y => { y with pages := Map.put y.pages m.page x.abandoned }) s) := by
  unfold abandonMove
  rw [modPage_of_key hx]
  have note : (if 3 ≤ x.abandons + 1 then { x with abandons := 0, banned := true } else { x with abandons := x.abandons + 1 }) = x.abandoned := by
    unfold Page.abandoned
    by_cases h : 2 ≤ x.abandons
    · rw [if_pos (by omega)]; simp [h]
    · rw [if_neg (by omega)]; simp [h]
  rw [note]

theorem abandonMove_pln {x : Page} (hm : moveOf s m.page = some m) (hx : Map.find s.pln.pages m.page = some x) :
    (abandonMove m s).pln = { s.pln with
      pages := Map.put s.pln.pages m.page x.abandoned
      moves := s.pln.moves.filter (fun n => decide (n.page ≠ m.page) && decide (n.after ≠ some m.page))
      zeroing := leaves m.tier m.stack s.pln.zeroing
      migAbandon := if m.promo then s.pln.migAbandon else satAdd 32 s.pln.migAbandon 1 } := by
  have noted : moveOf (modPln (fun y => { y with pages := Map.put y.pages m.page x.abandoned }) s) m.page = some m := hm
  rw [abandonMove_of_page hx, dropMove_pln noted]
  rfl

/-- A move ends where nothing waits for it: its page map switches, or the cap gives it up. -/
theorem endMove_idle {x : Page} (hm : moveOf s m.page = some m) (hx : Map.find s.pln.pages m.page = some x) (hw : s.pln.waits = []) :
    endMove m s = if overCap s m then dropMove m.page s else finishMove m s := by
  have quiet : (if overCap s m then dropMove m.page s else finishMove m s).pln.waits = [] := by
    split
    · rw [dropMove_pln hm]; exact hw
    · rw [finishMove_pln hx]; exact hw
  rw [endMove, retryPromos_idle quiet, pump_idle quiet]

/-- No move of a page is left once the page's moves are filtered out. -/
theorem find_move_filter_eq_none (l : List Move) (key : Nat) (q : Move → Bool) (hq : ∀ n, q n = true → n.page ≠ key) :
    (l.filter q).find? (fun n => decide (n.page = key)) = none :=
  List.find?_eq_none.mpr fun n hn => by simpa using hq n (List.mem_filter.mp hn).2

theorem moveOf_dropMove (h : moveOf s m.page = some m) : moveOf (dropMove m.page s) m.page = none := by
  rw [moveOf, dropMove_pln h]
  exact find_move_filter_eq_none _ _ _ fun n hn => by simp at hn; exact hn.1
theorem moveOf_abandonMove {x : Page} (hm : moveOf s m.page = some m) (hx : Map.find s.pln.pages m.page = some x) :
    moveOf (abandonMove m s) m.page = none := by
  rw [moveOf, abandonMove_pln hm hx]
  exact find_move_filter_eq_none _ _ _ fun n hn => by simp at hn; exact hn.1
theorem moveOf_finishMove {x : Page} (hx : Map.find s.pln.pages m.page = some x) : moveOf (finishMove m s) m.page = none := by
  rw [moveOf, finishMove_pln hx]
  exact find_move_filter_eq_none _ _ _ fun n hn => by simpa using hn

end

/-- The parts of the state that the end of a move may touch. -/
def moveParts : List Part := [.out, .hif, .pln, .rck, .book]

theorem dropMove_frame (key : Nat) (s : State) : Only moveParts s (dropMove key s) := dropMove_only key (by decide) (Only.rfl' _ s)
theorem finishMove_frame (m : Move) (s : State) : Only moveParts s (finishMove m s) :=
  finishMove_only m (by decide) (by decide) (by decide) (by decide) (by decide) (Only.rfl' _ s)
theorem abandonMove_frame (m : Move) (s : State) : Only moveParts s (abandonMove m s) := abandonMove_only m (by decide) (Only.rfl' _ s)

/-- The copy of a move ends while nothing waits: it is abandoned for the writes it met, given up for the cap, or it ends. -/
theorem exec_migrationCopyDone {h p : Nat} {m : Move} {x : Page} {s : State} (hm : moveOf s (pageKey h p) = some m) (hpromo : m.promo = false)
    (hruns : moveRuns s m = true) (hn : nclkOn s = true) (hx : Map.find s.pln.pages (pageKey h p) = some x) (hmark : x.mark = false)
    (hw : s.pln.waits = []) :
    exec (.migrationCopyDone h p) s = .next (if 1024 < m.lines.length then abandonMove m s
      else if overCap s m then dropMove m.page s else finishMove m s) := by
  have own : m.page = pageKey h p := move_page hm
  have here : pageRec s h p = some x := hx
  rw [← own] at hm hx
  have quiet : (abandonMove m s).pln.waits = [] := by
    rw [abandonMove_pln hm hx]
    exact hw
  show execMigrationCopyDone h p s = _
  simp only [execMigrationCopyDone, ← own, hm, here, hpromo, hruns, hn, hmark, endMove_idle hm hx hw, retryPromos_idle quiet]
  simp

theorem exec_promotionDone {key : Nat} {m : Move} {x : Page} {s : State} (hm : moveOf s key = some m) (hpromo : m.promo = true)
    (hruns : moveRuns s m = true) (hn : nclkOn s = true) (hx : Map.find s.pln.pages key = some x) (hw : s.pln.waits = [])
    (hcap : overCap s m = false) : exec (.promotionDone key) s = .next (finishMove m s) := by
  obtain rfl : m.page = key := move_page hm
  show execPromotionDone m.page s = _
  simp [execPromotionDone, hm, hpromo, hruns, hn, endMove_idle hm hx hw, hcap]

/-! ## The press buffer (R131) -/

/-- The press buffer without a line. -/
def withoutLine (k h line : Nat) (s : State) : State :=
  modPln (fun p => { p with press := p.press.filter (fun l => decide (l.stack ≠ k) || decide (l.hnd ≠ h) || decide (l.line ≠ line)) }) s

theorem exec_pressLineTimeout {k h line : Nat} {s : State} (hl : ∃ l ∈ s.pln.press, l.stack = k ∧ l.hnd = h ∧ l.line = line)
    (hn : nclkOn s = true) (hf : s.err.fence = false) (hp : poisonedIn s h (line * 64) 64 = []) :
    exec (.pressLineTimeout k h line) s = .next (withoutLine k h line s) := by
  have listed : s.pln.press.any (fun l => decide (l.stack = k) && decide (l.hnd = h) && decide (l.line = line)) = true := by
    obtain ⟨l, hmem, rfl, rfl, rfl⟩ := hl
    exact List.any_eq_true.mpr ⟨l, hmem, by simp⟩
  show execPressLineTimeout k h line s = _
  rw [execPressLineTimeout, if_pos ⟨listed, hn, by simp [hf]⟩]
  simp [hp, withoutLine]

/-- Settles O35: a decay is `decayed` and evaluations that move no page, a move ends as `finishMove`, `dropMove` or `abandonMove`
says, and a back-off and a press line end as one update of their table. -/
theorem planterMoves : Obligations.PlanterMoves := by
  refine ⟨fun s hn => ?_, fun h p key m x s hkey hm hpromo hruns hn hx hmark hw => ?_, fun key x s hx => ?_,
    fun h p key m x s hkey hm hpromo hruns hn hx hw hcap => ?_, fun k h line s hl hn hf hp => ?_⟩
  · refine ⟨_, exec_planterDecay hn, fun k x hx => ?_, ?_, ?_⟩
    · rw [forS_reads (fun y => y.pln.pages) (fun q _ y => evalPage_pages y q)]
      simp [decayed, find_mapV, hx, halvedCounts]
    · rw [forS_reads (fun y => y.pln.hnds) (fun q _ y => evalPage_hnds y q)]
      rfl
    · exact forS_only _ _ (fun q y hy => evalPage_only q (by decide) hy) (modPln_only _ (by decide) (Only.rfl' _ s))
  · subst hkey
    refine ⟨_, exec_migrationCopyDone hm hpromo hruns hn hx hmark hw, ?_⟩
    obtain own : m.page = pageKey h p := move_page hm
    rw [← own] at hm hx ⊢
    by_cases hlines : 1024 < m.lines.length
    · rw [if_pos hlines]
      refine ⟨fun hle => absurd hlines (by omega), fun hle => absurd hlines (by omega), fun _ => ?_, moveOf_abandonMove hm hx, fun k hk => ?_,
        abandonMove_frame m s⟩
      · simp [abandonMove_pln hm hx, find_put, hpromo, Page.abandoned]
      · simp [abandonMove_pln hm hx, find_put, hk]
    · rw [if_neg hlines]
      cases hcap : overCap s m with
      | true =>
        refine ⟨fun _ h => absurd h (by decide), fun _ _ => ?_, fun hgt => absurd hgt hlines, moveOf_dropMove hm, fun k hk => ?_,
          dropMove_frame m.page s⟩
        · simp [dropMove_pln hm, hx, hpromo]
        · simp [dropMove_pln hm]
      | false =>
        refine ⟨fun _ _ => ?_, fun _ h => absurd h (by decide), fun hgt => absurd hgt hlines, moveOf_finishMove hx, fun k hk => ?_,
          finishMove_frame m s⟩
        · simp [finishMove_pln hx, find_put, hpromo]
        · simp [finishMove_pln hx, find_put, hk]
  · refine ⟨_, rfl, ?_⟩
    rw [modPage_of_key hx]
    refine ⟨by simp [find_put], fun k hk => by simp [find_put, hk], modPln_only _ (by decide) (Only.rfl' _ s)⟩
  · refine ⟨_, exec_promotionDone hm hpromo hruns hn hx hw hcap, ?_⟩
    obtain rfl : m.page = key := move_page hm
    refine ⟨?_, moveOf_finishMove hx, fun k hk => ?_, finishMove_frame m s⟩
    · simp [finishMove_pln hx, find_put]
    · simp [finishMove_pln hx, find_put, hk]
  · exact ⟨_, exec_pressLineTimeout hl hn hf hp, rfl, modPln_only _ (by decide) (Only.rfl' _ s)⟩

end Sys2Proof.Machine
end

section
/-!
How a descriptor that names handles ends, and what frees handles: the rules that the DMA and handle opcodes share (R84, R106, R116,
R348).
-/
namespace Sys2Proof.Machine

/-! ## Entries of a table -/

theorem mem_of_find {α : Type} {m : Map α} {k : Nat} {v : α} (h : Map.find m k = some v) : (k, v) ∈ m := by
  induction m with
  | nil => cases h
  | cons e r ih =>
    obtain ⟨j, w⟩ := e
    by_cases hk : k = j
    · obtain rfl : w = v := by simpa [Map.find, hk] using h
      exact hk ▸ List.mem_cons_self
    · exact List.mem_cons_of_mem _ (ih (by simpa [Map.find, hk] using h))
theorem key_ne_of_find_none {α : Type} {m : Map α} {k : Nat} (h : Map.find m k = none) : ∀ e ∈ m, e.1 ≠ k := by
  induction m with
  | nil => exact fun e he => absurd he List.not_mem_nil
  | cons x r ih =>
    obtain ⟨j, w⟩ := x
    by_cases hk : k = j
    · simp [Map.find, hk] at h
    · have rest : Map.find r k = none := by simpa [Map.find, hk] using h
      exact fun e he => (List.mem_cons.mp he).elim (fun e' => e' ▸ Ne.symm hk) (ih rest e)
theorem mem_put_self {α : Type} (m : Map α) (k : Nat) (v : α) : (k, v) ∈ Map.put m k v := mem_of_find (by rw [find_put, if_pos rfl])
/-- A test that accepts neither the old entry at a key nor the new one sees no change. -/
theorem filter_put {α : Type} {m : Map α} {k : Nat} {v w : α} {p : Nat × α → Bool} (hm : Map.find m k = some w) (hw : p (k, w) = false)
    (hv : p (k, v) = false) : (Map.put m k v).filter p = m.filter p := by
  induction m with
  | nil => cases hm
  | cons e r ih =>
    obtain ⟨j, x⟩ := e
    obtain hlt | rfl | hgt := Nat.lt_trichotomy k j
    · simp [Map.put, hlt, List.filter_cons, hv]
    · obtain rfl : x = w := by simpa [Map.find] using hm
      simp [Map.put, hv, hw]
    · have rest : Map.find r k = some w := by simpa [Map.find, hgt.ne'] using hm
      simp [Map.put, hgt.not_gt, hgt.ne', List.filter_cons, ih rest]

/-! ## What the change of a live descriptor leaves of the Planter, of memory and of what the module sent -/

section
variable (tag : Nat) (f : Live → Live) (s : State)

@[simp] theorem modLive_pln : (modLive tag f s).pln = s.pln := modLive_frame tag f s .pln (by decide)
@[simp] theorem modLive_mem : (modLive tag f s).mem = s.mem := modLive_frame tag f s .mem (by decide)
@[simp] theorem modLive_out : (modLive tag f s).out = s.out := modLive_frame tag f s .out (by decide)
@[simp] theorem modLive_rck : (modLive tag f s).rck = s.rck := modLive_frame tag f s .rck (by decide)
@[simp] theorem hndRec_modLive (h : Nat) : hndRec (modLive tag f s) h = hndRec s h := by simp [hndRec]
@[simp] theorem pageRec_modLive (h p : Nat) : pageRec (modLive tag f s) h p = pageRec s h p := by simp [pageRec]
@[simp] theorem hndOk_modLive (t h : Nat) : hndOk (modLive tag f s) t h = hndOk s t h := by simp [hndOk]
@[simp] theorem hndSize_modLive (h : Nat) : hndSize (modLive tag f s) h = hndSize s h := by simp [hndSize]

end

/-! ## Handles -/

theorem modHnd_of_hnd {s : State} {h : Nat} {x : Hnd} (hx : hndRec s h = some x) (f : Hnd → Hnd) :
    modHnd h f s = modPln (fun p => { p with hnds := Map.put p.hnds h (f x) }) s := by
  unfold modHnd
  rw [hx]
theorem hndRec_modHnd (h q : Nat) (f : Hnd → Hnd) (s : State) :
    hndRec (modHnd h f s) q = if q = h then (hndRec s h).map f else hndRec s q := by
  unfold modHnd
  split
  next x hx => simp only [hndRec, modPln_pln, find_put] at hx ⊢; split <;> simp [hx]
  next hx =>
    split
    next e => rw [e, hx]; rfl
    next => rfl
@[simp] theorem modHnd_pages (h : Nat) (f : Hnd → Hnd) (s : State) : (modHnd h f s).pln.pages = s.pln.pages := by
  unfold modHnd
  split <;> rfl

@[simp] theorem dropMove_pages (key : Nat) (s : State) : (dropMove key s).pln.pages = s.pln.pages := by
  unfold dropMove
  split <;> rfl
@[simp] theorem dropMove_hnds (key : Nat) (s : State) : (dropMove key s).pln.hnds = s.pln.hnds := by
  unfold dropMove
  split <;> rfl
@[simp] theorem dropPage_hnds (h p : Nat) (s : State) : (dropPage h p s).pln.hnds = s.pln.hnds := by
  unfold dropPage
  split <;> simp
theorem find_dropPage {h p k : Nat} (hk : k ≠ pageKey h p) (s : State) :
    Map.find (dropPage h p s).pln.pages k = Map.find s.pln.pages k := by
  unfold dropPage
  split <;> simp [find_del, hk]
/-- A handle that leaves is gone from the table, and no other. -/
@[simp] theorem dropHnd_hnds (h : Nat) (s : State) : (dropHnd h s).pln.hnds = Map.del s.pln.hnds h := by
  simp only [dropHnd, modPln_pln]
  rw [forS_reads (fun x => x.pln.hnds) (fun p _ x => dropPage_hnds h p x)]
/-- Only the pages of its size leave with a handle. -/
theorem find_dropHnd {h k : Nat} (s : State) (hk : ∀ p < pagesOf (hndSize s h), k ≠ pageKey h p) :
    Map.find (dropHnd h s).pln.pages k = Map.find s.pln.pages k := by
  simp only [dropHnd, modPln_pln]
  exact forS_reads (fun x => Map.find x.pln.pages k) (fun p hp x => find_dropPage (hk p (List.mem_range.mp hp)) x) s

/-! ## Freed handles leave (R116) -/

/-- The turn of one handle of a tenant in `settleFrees`. -/
def settleFree (t : Nat) (e : Nat × Hnd) (s : State) : State :=
  if e.2.gone ∧ e.2.freedIn = none then
    if (e.2.waitFor.filter (fun g => (liveRec s g).isSome)).isEmpty ∧ ¬ rackReads s t e.1 then dropHnd e.1 s
    else modHnd e.1 (fun x => { x with waitFor := e.2.waitFor.filter (fun g => (liveRec s g).isSome) }) s
  else s

theorem settleFrees_eq (t : Nat) (s : State) : settleFrees t s = forS (tenHnds s t) (settleFree t) s := rfl
theorem settleFree_stays {t : Nat} {e : Nat × Hnd} (h : e.2.gone = true → e.2.freedIn ≠ none) (s : State) : settleFree t e s = s :=
  if_neg (fun hc => h hc.1 hc.2)
/-- A handle's turn leaves it, drops it, or notes which descriptors it still waits for. -/
theorem settleFree_cases (t : Nat) (e : Nat × Hnd) (s : State) :
    settleFree t e s = s ∨ settleFree t e s = dropHnd e.1 s ∨ ∃ w, settleFree t e s = modHnd e.1 (fun x => { x with waitFor := w }) s := by
  unfold settleFree
  split
  · split
    · exact .inr (.inl rfl)
    · exact .inr (.inr ⟨_, rfl⟩)
  · exact .inl rfl
theorem settleFree_rck (t : Nat) (e : Nat × Hnd) (s : State) : (settleFree t e s).rck = s.rck := by
  obtain h | h | ⟨w, h⟩ := settleFree_cases t e s <;> rw [h]
  · exact dropHnd_only (fr := [.mem, .pln]) e.1 (by decide) (by decide) (Only.rfl' _ s) .rck (by decide)
  · exact modHnd_only (fr := [.pln]) e.1 _ (by decide) (Only.rfl' _ s) .rck (by decide)

/-- Where no handle waits to leave, none does. -/
theorem settleFrees_idle {t : Nat} {s : State} (h : ∀ e ∈ s.pln.hnds, e.2.gone = true → e.2.freedIn ≠ none) : settleFrees t s = s :=
  forS_reads id (fun e he x => settleFree_stays (h e (List.mem_filter.mp he).1) x) s

/-! ## The end of a descriptor, whatever its result -/

section
variable {s : State} {tag : Nat} {l : Live}

theorem finish_pln (tag a b c : Nat) (s : State) : (finish tag a b c s).pln = s.pln :=
  finish_only (fr := [.out, .hif]) tag a b c (by decide) (by decide) (Only.rfl' _ s) .pln (by decide)
theorem finish_mem (tag a b c : Nat) (s : State) : (finish tag a b c s).mem = s.mem :=
  finish_only (fr := [.out, .hif]) tag a b c (by decide) (by decide) (Only.rfl' _ s) .mem (by decide)
theorem finish_rck (tag a b c : Nat) (s : State) : (finish tag a b c s).rck = s.rck :=
  finish_only (fr := [.out, .hif]) tag a b c (by decide) (by decide) (Only.rfl' _ s) .rck (by decide)

theorem MayEnd.endsWith {base : State} (h : MayEnd s tag l) (frame : Only flowParts base s) (status detail result : Nat) :
    Ended (done tag status detail result s) tag l.step status detail result ∧ Only flowParts base (done tag status detail result s) :=
  ⟨done_ended tag status detail result s l h.live h.link h.resumed h.seals,
    done_plain_only tag status detail result s l h.live h.seals (by decide) (by decide) (by decide) (by decide) frame⟩

theorem MayEnd.done_eq (h : MayEnd s tag l) (status detail result : Nat) :
    done tag status detail result s = settleFrees (liveTen l) (finish tag status detail result s) :=
  done_plain tag status detail result s l h.live h.seals

/-- Where no handle waits to leave, the end of a descriptor touches neither the Planter's tables nor memory. -/
theorem MayEnd.done_quiet (h : MayEnd s tag l) (hq : ∀ e ∈ s.pln.hnds, e.2.gone = true → e.2.freedIn ≠ none) (status detail result : Nat) :
    (done tag status detail result s).pln = s.pln ∧ (done tag status detail result s).mem = s.mem := by
  rw [h.done_eq, settleFrees_idle (by rw [finish_pln]; exact hq)]
  exact ⟨finish_pln tag status detail result s, finish_mem tag status detail result s⟩

/-- A change of parts that the end of a descriptor does not read. -/
theorem MayEnd.of_only {ps : List Part} {u : State} (h : MayEnd s tag l) (hk : Only ps s u) (hhif : Part.hif ∉ ps) (hstp : Part.stp ∉ ps) :
    MayEnd u tag l := by
  have hif : u.hif = s.hif := hk .hif hhif
  have stp : u.stp = s.stp := hk .stp hstp
  exact ⟨by rw [liveRec, hif]; exact h.live, by rw [hif]; exact h.link, by rw [hif]; exact h.resumed, by rw [tstep, stp]; exact h.seals⟩

end

/-- A tenant's handles none of which has been freed. -/
theorem notGone_stays {s : State} (h : ∀ e ∈ s.pln.hnds, e.2.gone = false) : ∀ e ∈ s.pln.hnds, e.2.gone = true → e.2.freedIn ≠ none :=
  fun e he hg => absurd (h e he) (by simp [hg])

end Sys2Proof.Machine
end

section
/-!
Tensor handles: their creation with every page, their freeing, hints, queries, and the pages whose zeroization ends (R102, R106, R113
to R117 of 03).
-/
namespace Sys2Proof.Machine

/-! ## Where the Planter may place a new page (R119 to R121) -/

theorem locations_tier {s : State} {l : Nat × Nat} (h : l ∈ locations s) : l.1 ≤ 2 := by
  obtain h | h := List.mem_append.mp h
  · obtain ⟨k, -, rfl⟩ := List.mem_map.mp h
    exact Nat.zero_le 2
  · obtain rfl | rfl : l = (1, 0) ∨ l = (2, 0) := by simpa using h
    · decide
    · decide

/-- A search that takes each element or keeps what it has finds an element, or keeps what it starts with. -/
theorem foldl_choice_mem {α : Type} {f : Option α → α → Option α} (hf : ∀ b x, f b x = some x ∨ f b x = b) {c : List α} {b : Option α}
    {l : α} (h : c.foldl f b = some l) : l ∈ c ∨ b = some l := by
  induction c generalizing b with
  | nil => exact .inr h
  | cons x r ih =>
    obtain hr | hx := ih h
    · exact .inl (List.mem_cons_of_mem x hr)
    · obtain e | e := hf b x
      · exact .inl (Option.some.inj (e.symm.trans hx) ▸ List.mem_cons_self)
      · exact .inr (e.symm.trans hx)
theorem bestLoc_tier {s : State} {x : Page} {ok : Nat × Nat → Bool} {l : Nat × Nat} (h : bestLoc s x ok none = some l) : l.1 ≤ 2 := by
  unfold bestLoc at h
  refine (foldl_choice_mem (fun b y => ?_) h).elim (fun hl => ?_) (fun hl => ?_)
  · cases b with
    | none => exact .inl rfl
    | some m =>
      dsimp only
      split
      · exact .inl rfl
      · exact .inr rfl
  · exact locations_tier (List.mem_filter.mp (by simpa using hl)).1
  · cases hl
theorem newPlace_tier {s : State} {h t p : Nat} {x : Page} {l : Nat × Nat} {v : Option (Nat × Nat × Nat × Nat)}
    (hp : newPlace s h t p x = some (l, v)) : l.1 ≤ 2 := by
  obtain ⟨q, hq, e⟩ := Option.map_eq_some_iff.mp hp
  obtain rfl : q = l := congrArg Prod.fst e
  exact bestLoc_tier hq

/-! ## A handle gets its pages (R113) -/

section
variable {h t tier die : Nat}

/-- The first page finds its place, and the rest theirs after it. -/
theorem createPages_succ {n p : Nat} {s u : State} (hu : createPages h t tier die (n + 1) p s = some u) :
    ∃ x l, x.tier ≤ 2 ∧ createPages h t tier die n (p + 1)
      (countUnmet { tier := 0, prefTier := tier, prefDie := die } l
        (modPln (fun y => { y with pages := Map.put y.pages (pageKey h p) x }) s)) = some u := by
  unfold createPages at hu
  dsimp only at hu
  split at hu
  next l hl => exact ⟨_, l, newPlace_tier hl, hu⟩
  next => cases hu

theorem createPages_hnds {n p : Nat} {s u : State} (hu : createPages h t tier die n p s = some u) : u.pln.hnds = s.pln.hnds := by
  induction n generalizing p s with
  | zero => cases hu; rfl
  | succ n ih =>
    obtain ⟨x, l, -, hr⟩ := createPages_succ hu
    simpa using ih hr
theorem find_createPages {n p k : Nat} {s u : State} (hk : ∀ q, p ≤ q → k ≠ pageKey h q) (hu : createPages h t tier die n p s = some u) :
    Map.find u.pln.pages k = Map.find s.pln.pages k := by
  induction n generalizing p s with
  | zero => cases hu; rfl
  | succ n ih =>
    obtain ⟨x, l, -, hr⟩ := createPages_succ hu
    rw [ih (fun q hq => hk q (by omega)) hr]
    simp [find_put, hk p (Nat.le_refl p)]
/-- Each page of the handle stands in a tier. -/
theorem createPages_page {n p q : Nat} {s u : State} (hu : createPages h t tier die n p s = some u) (hlo : p ≤ q) (hhi : q < p + n) :
    ∃ x, pageRec u h q = some x ∧ x.tier ≤ 2 := by
  induction n generalizing p s with
  | zero => omega
  | succ n ih =>
    obtain ⟨x, l, hx, hr⟩ := createPages_succ hu
    obtain rfl | hlt := Nat.eq_or_lt_of_le hlo
    · refine ⟨x, ?_, hx⟩
      rw [pageRec, find_createPages (fun r hr => by unfold pageKey; omega) hr]
      simp [find_put]
    · exact ih hr hlt (by omega)

end

/-! ## The new handle stays when freed ones leave -/

theorem pagesOf_le {size : Nat} (h : size ≤ 2 ^ 40) : pagesOf size ≤ 2 ^ 19 := by
  unfold pagesOf
  split <;> omega
theorem hndSize_le {s : State} (h : ∀ e ∈ s.pln.hnds, e.2.size ≤ 2 ^ 40) (q : Nat) : hndSize s q ≤ 2 ^ 40 := by
  unfold hndSize
  cases hq : hndRec s q with
  | none => exact Nat.zero_le _
  | some x => exact h _ (mem_of_find hq)
/-- Pages of two handles have different keys. -/
theorem pageKey_ne {h g p q : Nat} (hg : g ≠ h) (hp : p < 2 ^ 19) (hq : q < 2 ^ 19) : pageKey h p ≠ pageKey g q := by
  unfold pageKey
  omega

/-- A handle stands with its pages among handles of at most 1 TiB, so that no page key of another one is one of its own. -/
structure StandsWith (s : State) (h n : Nat) (x : Hnd) : Prop where
  listed : hndRec s h = some x
  pages : ∀ p, p < n → ∃ y, pageRec s h p = some y ∧ y.tier ≤ 2
  sizes : ∀ e ∈ s.pln.hnds, e.2.size ≤ 2 ^ 40

section
variable {s : State} {h n g : Nat} {x : Hnd} (hs : StandsWith s h n x) (hg : g ≠ h)
include hs hg

theorem StandsWith.dropHnd (hn : n ≤ 2 ^ 19) : StandsWith (dropHnd g s) h n x where
  listed := by rw [hndRec, dropHnd_hnds, find_del, if_neg hg.symm]; exact hs.listed
  pages p hp := by
    have other : ∀ q < pagesOf (hndSize s g), pageKey h p ≠ pageKey g q := fun q hq =>
      pageKey_ne hg (by omega) (Nat.lt_of_lt_of_le hq (pagesOf_le (hndSize_le hs.sizes g)))
    rw [pageRec, find_dropHnd s other]
    exact hs.pages p hp
  sizes e he := hs.sizes e (by rw [dropHnd_hnds] at he; exact mem_del he)

theorem StandsWith.modHnd (f : Hnd → Hnd) (hf : ∀ y, (f y).size = y.size) : StandsWith (modHnd g f s) h n x where
  listed := by rw [hndRec_modHnd, if_neg hg.symm]; exact hs.listed
  pages p hp := by rw [pageRec, modHnd_pages]; exact hs.pages p hp
  sizes e he := by
    cases hlisted : hndRec s g with
    | none =>
      rw [Machine.modHnd, hlisted] at he
      exact hs.sizes e he
    | some y =>
      rw [modHnd_of_hnd hlisted] at he
      obtain rfl | hold := mem_put he
      · exact (hf y).trans_le (hs.sizes _ (mem_of_find hlisted))
      · exact hs.sizes e hold

end

theorem StandsWith.of_pln {s u : State} {h n : Nat} {x : Hnd} (hs : StandsWith s h n x) (hp : u.pln = s.pln) : StandsWith u h n x where
  listed := by rw [hndRec, hp]; exact hs.listed
  pages p hlt := by rw [pageRec, hp]; exact hs.pages p hlt
  sizes := by rw [hp]; exact hs.sizes

/-- A handle that has not been freed stays with its pages while others of its tenant leave. -/
theorem StandsWith.settleFrees {s : State} {h n : Nat} {x : Hnd} (hs : StandsWith s h n x) (hn : n ≤ 2 ^ 19) (t : Nat)
    (hself : ∀ e ∈ s.pln.hnds, e.1 = h → e.2.gone = false) : StandsWith (settleFrees t s) h n x := by
  rw [settleFrees_eq]
  refine forS_holds (fun u => StandsWith u h n x) (fun e he u hu => ?_) hs
  by_cases hg : e.1 = h
  · have kept := hself e (List.mem_filter.mp he).1 hg
    rw [settleFree_stays (fun hgone => absurd kept (by simp [hgone])) u]
    exact hu
  · obtain e' | e' | ⟨w, e'⟩ := settleFree_cases t e u <;> rw [e']
    · exact hu
    · exact hu.dropHnd hg hn
    · exact hu.modHnd hg _ fun y => rfl

/-! ## The start of a HANDLE_CREATE (R106, R113) -/

theorem Starts.opcode {s : State} {tag op : Nat} {l : Live} {st : Option Nat} (h : Starts s tag op l st) : opcodeOf l.desc = op := by
  have gate := h.gate
  simp only [gateOf, h.live] at gate
  split at gate
  next hc => exact hc.2.1
  next => cases gate
theorem Starts.stage_ne {s : State} {tag op : Nat} {l : Live} {st : Option Nat} (h : Starts s tag op l st) {g : Stage} (h1 : g ≠ .fetched)
    (h2 : g ≠ .attachWait) : l.stage ≠ g := by
  have before := h.unstarted
  intro e
  simp [Machine.unstarted, e, h1, h2] at before

@[simp] theorem numDies_modLive (tag : Nat) (f : Live → Live) (s : State) : numDies (modLive tag f s) = numDies s := by simp [numDies]
@[simp] theorem pickHandle_modLive (tag : Nat) (f : Live → Live) (s : State) (want : Nat) :
    pickHandle (modLive tag f s) want = pickHandle s want := by simp [pickHandle]

section
variable {s : State} {tag : Nat} {l : Live} {st : Option Nat} (h : Starts s tag 0x20 l st)
include h

/-- The descriptor that starts is none of the creations that wait for pages. -/
theorem Starts.promised_started : promised (modLive tag (Live.started st) s) = promised s := by
  have notPromo := h.stage_ne (g := .promo) (by decide) (by decide)
  unfold promised
  rw [modLive_of_live h.live, modHif_hif, filter_put h.live (by simp [notPromo]) (by simp [Live.started])]
theorem Starts.createFault_started (t : Nat) (d : List Byte) :
    createFault (modLive tag (Live.started st) s) t d = createFault s t d := by
  simp only [createFault, roomToo, promisedTo, h.promised_started]
  rw [modLive_of_live h.live]
  rfl

theorem exec_handleCreate (want : Nat) :
    exec (.handleCreate tag want) s = .next (createTry tag want (modLive tag (Live.started st) s)) := by
  have fresh : createWaits s tag = false := by simp [createWaits, h.live, h.stage_ne (g := .promo) (by decide) (by decide)]
  have starts : execHandleCreate tag want s = .next (startDesc tag 0x20 (createTry tag want) s) := by simp [execHandleCreate, fresh]
  exact starts.trans (congrArg Host.Outcome.next (startDesc_go h _))

theorem Starts.createTry_fault (want : Nat) {f : Nat × Nat} (hf : createFault s (liveTen l) l.desc = some f) :
    createTry tag want (modLive tag (Live.started st) s) = done tag f.1 f.2 0 (modLive tag (Live.started st) s) := by
  have fault : createFault (modLive tag (Live.started st) s) (liveTen (l.started st)) (l.started st).desc = some f :=
    (h.createFault_started _ _).trans hf
  simp only [createTry, h.mayEnd.live, fault]

/-- The handle a HANDLE_CREATE makes (Table 03.4). -/
def newHnd (l : Live) (st : Option Nat) : Hnd :=
  { tenant := liveTen l, size := fieldAt l.desc 16 6, replicated := bitOf (fieldAt l.desc 22 1) 0, narrowable := bitOf (fieldAt l.desc 22 1) 1,
    graftEach := bitOf (fieldAt l.desc 22 1) 2, noRack := bitOf (fieldAt l.desc 22 1) 3, repCount := fieldAt l.desc 24 2,
    repRank := fieldAt l.desc 26 2, createdIn := st }
/-- The state in which the handle `k` of a HANDLE_CREATE is listed and has no page yet. -/
def withHnd (k : Nat) (x : Hnd) (s : State) : State := modPln (fun p => { p with hnds := Map.put p.hnds k x }) s

theorem Starts.createTry_made (want : Nat) {u : State} (hf : createFault s (liveTen l) l.desc = none)
    (hu : createPages (pickHandle s want) (liveTen l) (bitsOf (fieldAt l.desc 23 1) 1 0) (bitsOf (fieldAt l.desc 23 1) 4 2)
      (pagesOf (fieldAt l.desc 16 6)) 0 (withHnd (pickHandle s want) (newHnd l st) (modLive tag (Live.started st) s)) = some u) :
    createTry tag want (modLive tag (Live.started st) s) =
      done tag 0 0 (pickHandle s want + pagesOf (fieldAt l.desc 16 6) * 2 ^ 32) u := by
  have fault : createFault (modLive tag (Live.started st) s) (liveTen (l.started st)) (l.started st).desc = none :=
    (h.createFault_started _ _).trans hf
  simp only [createTry, h.mayEnd.live, fault, pickHandle_modLive]
  unfold createNew
  dsimp only
  split
  next v hv => rw [show v = u from Option.some.inj (hv.symm.trans hu)]; rfl
  next hv => cases hv.symm.trans hu

end

theorem createFault_size {s : State} {t : Nat} {d : List Byte} (h : createFault s t d = none) : fieldAt d 16 6 ≤ 2 ^ 40 := by
  by_contra hgt
  have fault : createFault s t d = some (stBAD_FIELD, 16) := if_pos (Or.inr (Nat.lt_of_not_le hgt))
  exact absurd (h.symm.trans fault) (by simp)

/-! ## Zeroization (R102) -/

theorem retryCreates_idle {s : State} (h : ∀ e ∈ s.hif.live, e.2.stage = .promo → opcodeOf e.2.desc ≠ 0x20) : retryCreates s = s := by
  have none : s.hif.live.filter (fun e => decide (e.2.stage = .promo) && decide (opcodeOf e.2.desc = 0x20)) = [] :=
    List.filter_eq_nil_iff.mpr fun e he => by simpa using h e he
  unfold retryCreates
  rw [none]
  rfl
theorem exec_pageZeroizeDone {tier stack : Nat} {s : State} (hz : (tier, stack) ∈ s.pln.zeroing) (hw : s.pln.waits = [])
    (hl : ∀ e ∈ s.hif.live, e.2.stage = .promo → opcodeOf e.2.desc ≠ 0x20) :
    exec (.pageZeroizeDone tier stack) s = .next (modPln (fun p => { p with zeroing := p.zeroing.erase (tier, stack) }) s) := by
  have zeroized : zeroizeDone tier stack s = modPln (fun p => { p with zeroing := p.zeroing.erase (tier, stack) }) s :=
    retryPromos_idle (s := modPln _ s) hw
  refine (congrArg Host.Outcome.next (if_pos hz)).trans (congrArg Host.Outcome.next ?_)
  rw [zeroized]
  exact retryCreates_idle hl

/-! ## HANDLE_FREE, HANDLE_HINT and HANDLE_QUERY (R114 to R117) -/

section
variable {s : State} {tag : Nat} {l : Live} {st : Option Nat}

theorem exec_handleFree (h : Starts s tag 0x21 l st) :
    exec (.handleFree tag) s = .next (
      if hndOk s (liveTen l) (fieldAt l.desc 16 3) then
        done tag 0 0 0 (modHnd (fieldAt l.desc 16 3) (fun x => { x with
          gone := true, freedIn := st,
          waitFor := usersOf (modLive tag (Live.started st) s) (liveTen l) tag (fieldAt l.desc 16 3) }) (modLive tag (Live.started st) s))
      else done tag 0x14 0 0 (modLive tag (Live.started st) s)) := by
  refine congrArg Host.Outcome.next ((startDesc_go h _).trans ?_)
  simp only [started_live h, hndOk_modLive]
  rfl

/-- The pages a HANDLE_HINT names, once their preference is set. -/
def hintedPages (d : List Byte) (cnt : Nat) (s : State) : State :=
  forS ((List.range cnt).map (· + fieldAt d 20 4)) (fun p => modPage (fieldAt d 16 3) p (fun x =>
    { x with prefTier := bitsOf (fieldAt d 28 1) 1 0, prefDie := bitsOf (fieldAt d 28 1) 4 2 })) s

/-- The number of pages a HANDLE_HINT names: those to the end of the handle where it gives none. -/
def hintCount (s : State) (d : List Byte) : Nat :=
  if fieldAt d 24 4 = 0 then pagesOf (hndSize s (fieldAt d 16 3)) - fieldAt d 20 4 else fieldAt d 24 4

theorem exec_handleHint_bad (h : Starts s tag 0x22 l st) (hok : hndOk s (liveTen l) (fieldAt l.desc 16 3) = false) :
    exec (.handleHint tag) s = .next (done tag 0x14 0 0 (modLive tag (Live.started st) s)) := by
  refine congrArg Host.Outcome.next ((startDesc_go h _).trans ?_)
  have bad : hndOk s (ringTen l.ring) (fieldAt l.desc 16 3) = false := hok
  simp only [started_live h, hndOk_modLive, liveTen, bad]
  rfl
theorem exec_handleHint (h : Starts s tag 0x22 l st) (hok : hndOk s (liveTen l) (fieldAt l.desc 16 3) = true)
    (hfirst : fieldAt l.desc 20 4 < pagesOf (hndSize s (fieldAt l.desc 16 3)))
    (hlast : fieldAt l.desc 20 4 + hintCount s l.desc ≤ pagesOf (hndSize s (fieldAt l.desc 16 3)))
    (hdie : bitsOf (fieldAt l.desc 28 1) 4 2 ≤ numDies s) (hnow : bitOf (fieldAt l.desc 28 1) 5 = false) :
    exec (.handleHint tag) s = .next (done tag 0 0 0 (hintedPages l.desc (hintCount s l.desc) (modLive tag (Live.started st) s))) := by
  refine congrArg Host.Outcome.next ((startDesc_go h _).trans ?_)
  have ok : hndOk s (ringTen l.ring) (fieldAt l.desc 16 3) = true := hok
  unfold hintCount at hlast ⊢
  simp only [started_live h, hndOk_modLive, hndSize_modLive, numDies_modLive, liveTen, ok, hnow]
  rw [if_neg (by simp), if_neg (by omega), if_neg (Nat.not_lt.mpr hdie)]
  rfl

/-- Pages of a handle in a tier. -/
def pagesIn (s : State) (h tier : Nat) : Nat :=
  (s.pln.pages.filter (fun e => decide (e.1 / 0x100000 = h) && decide (e.2.tier = tier))).length

theorem exec_handleQuery (h : Starts s tag 0x23 l st) :
    exec (.handleQuery tag) s = .next (
      if hndOk s (liveTen l) (fieldAt l.desc 16 3) then
        done tag 0 0 (pagesIn s (fieldAt l.desc 16 3) 0 + pagesIn s (fieldAt l.desc 16 3) 1 * 2 ^ 21
          + pagesIn s (fieldAt l.desc 16 3) 2 * 2 ^ 42) (modLive tag (Live.started st) s)
      else done tag 0x14 0 0 (modLive tag (Live.started st) s)) := by
  refine congrArg Host.Outcome.next ((startDesc_go h _).trans ?_)
  simp only [started_live h, hndOk_modLive, modLive_pln]
  rfl

/-- No other descriptor uses a handle that no other live descriptor names. -/
theorem Starts.usersOf_started {op : Nat} (h : Starts s tag op l st) {t g : Nat}
    (hu : ∀ e ∈ s.hif.live, e.1 ≠ tag → namesHandle e.2 g = false) : usersOf (modLive tag (Live.started st) s) t tag g = [] := by
  unfold usersOf
  rw [modLive_of_live h.live, List.map_eq_nil_iff, List.filter_eq_nil_iff]
  intro e he
  obtain rfl | hold := mem_put he
  · simp
  · by_cases htag : e.1 = tag
    · simp [htag]
    · simp [hu e hold htag]

/-- The handle of a HANDLE_FREE once freed: with no user left it waits for nothing. -/
def Hnd.freed (st : Option Nat) (x : Hnd) : Hnd := { x with gone := true, freedIn := st, waitFor := [] }

end

/-! ## What the end of each leaves -/

theorem find_modPage (h p k : Nat) (f : Page → Page) (s : State) :
    Map.find (modPage h p f s).pln.pages k = if k = pageKey h p then (Map.find s.pln.pages k).map f else Map.find s.pln.pages k := by
  unfold modPage
  split
  next x hx => simp only [pageRec] at hx; simp only [modPln_pln, find_put]; split <;> simp_all
  next hx =>
    split
    next e => rw [e, show Map.find s.pln.pages (pageKey h p) = none from hx]; rfl
    next => rfl
@[simp] theorem modPage_hnds (h p : Nat) (f : Page → Page) (s : State) : (modPage h p f s).pln.hnds = s.pln.hnds := by
  unfold modPage
  split <;> rfl

section
variable (d : List Byte) (cnt : Nat) (s : State)

theorem hintedPages_only {ps : List Part} {a : State} (m : Part.pln ∈ ps) (h : Only ps a s) : Only ps a (hintedPages d cnt s) :=
  forS_only _ _ (fun p _ hx => modPage_only _ p _ m hx) h
theorem hintedPages_hnds : (hintedPages d cnt s).pln.hnds = s.pln.hnds :=
  forS_reads (fun x => x.pln.hnds) (fun p _ x => modPage_hnds _ p _ x) s
/-- Each page named has its preference once the loop has passed it. -/
theorem pageRec_hintedPages {p : Nat} (hlo : fieldAt d 20 4 ≤ p) (hhi : p < fieldAt d 20 4 + cnt) :
    pageRec (hintedPages d cnt s) (fieldAt d 16 3) p = (pageRec s (fieldAt d 16 3) p).map
      (fun x => { x with prefTier := bitsOf (fieldAt d 28 1) 1 0, prefDie := bitsOf (fieldAt d 28 1) 4 2 }) := by
  refine forS_once (fun x => pageRec x (fieldAt d 16 3) p) (d := p) (g := Option.map _) (fun x => ?_) (fun q hq x => ?_) ?_ ?_ s
  · rw [pageRec, find_modPage, if_pos rfl]
    rfl
  · rw [pageRec, find_modPage, if_neg (by unfold pageKey; omega)]
    rfl
  · exact List.nodup_range.map (fun a b e => by simpa using e)
  · exact List.mem_map.mpr ⟨p - fieldAt d 20 4, List.mem_range.mpr (by omega), by omega⟩

end

/-- A freed handle with no user, and no rack in progress, leaves. -/
theorem settleFrees_drops {s : State} {t h : Nat} {x : Hnd} (hx : (h, x) ∈ tenHnds s t) (hgone : x.gone = true) (hin : x.freedIn = none)
    (hwait : x.waitFor = []) (hjob : s.rck.job = none) :
    hndRec (settleFrees t s) h = none := by
  rw [settleFrees_eq]
  have own : ∀ u : State, u.rck.job = none → settleFree t (h, x) u = dropHnd h u := fun u hu => by
    simp [settleFree, hgone, hin, hwait, rackReads, hu]
  have left : ∀ e u, (settleFree t e u).rck.job = none → u.rck.job = none := fun e u hu => by rwa [settleFree_rck] at hu
  have dropped : (forS (tenHnds s t) (settleFree t) s).rck.job = none → hndRec (forS (tenHnds s t) (settleFree t) s) h = none := by
    refine forS_establishes (fun u => u.rck.job = none → hndRec u h = none) hx (fun u hu => ?_) (fun e he u hu hj => ?_) s
    · rw [own u (left _ u hu), hndRec, dropHnd_hnds, find_del, if_pos rfl]
    · have before := hu (left e u hj)
      obtain e' | e' | ⟨w, e'⟩ := settleFree_cases t e u <;> rw [e']
      · exact before
      · rw [hndRec, dropHnd_hnds, find_del]
        split
        · rfl
        · exact before
      · rw [hndRec_modHnd]
        split
        next eq => rw [← eq, before]; rfl
        next => exact before
  refine dropped ?_
  rw [forS_reads (fun u => u.rck) (fun e _ u => settleFree_rck t e u)]
  exact hjob

/-! A HANDLE_FREE that has freed its handle. -/

/-- The state in which handle `g`, with the record `x`, has been freed by a descriptor that runs and no other uses it. -/
def freeing (g tag : Nat) (st : Option Nat) (x : Hnd) (s : State) : State :=
  modPln (fun p => { p with hnds := Map.put p.hnds g (x.freed st) }) (modLive tag (Live.started st) s)

theorem freeing_frame (g tag : Nat) (st : Option Nat) (x : Hnd) (s : State) : Only flowParts s (freeing g tag st x s) :=
  modPln_only _ (by decide) (modLive_flow tag _ s)

section
variable {s : State} {tag g : Nat} {l : Live} {st : Option Nat} {x : Hnd} (h : Starts s tag 0x21 l st)
include h

theorem freeing_mayEnd : MayEnd (freeing g tag st x s) tag (l.started st) :=
  h.mayEnd.of_only (modPln_only (ps := [.pln]) _ (by decide) (Only.rfl' _ _)) (by decide) (by decide)

/-- Freed outside a step, the handle leaves at the end of its HANDLE_FREE. -/
theorem freeing_leaves (hx : hndRec s g = some x) (hok : hndOk s (liveTen l) g = true) (hst : st = none) (hjob : s.rck.job = none) :
    hndRec (done tag 0 0 0 (freeing g tag st x s)) g = none := by
  have tenant : x.tenant = liveTen l := by
    simp only [hndOk, hx, Bool.and_eq_true, decide_eq_true_eq] at hok
    exact hok.1.1
  rw [(freeing_mayEnd h).done_eq]
  refine settleFrees_drops (x := x.freed st) (List.mem_filter.mpr ⟨?_, decide_eq_true tenant⟩) rfl hst rfl ?_
  · rw [finish_pln]
    exact mem_put_self _ _ _
  · rw [finish_rck]
    exact (modLive_rck _ _ s).symm ▸ hjob

/-- Freed in a step, the handle stays, marked, until the step is drawn (R117). -/
theorem freeing_stays (hgone : ∀ e ∈ s.pln.hnds, e.2.gone = false) {n : Nat} (hst : st = some n) :
    hndRec (done tag 0 0 0 (freeing g tag st x s)) g = some { x with gone := true, freedIn := some n, waitFor := [] } := by
  rw [hndRec, ((freeing_mayEnd h).done_quiet (fun e he hg => ?_) 0 0 0).1]
  · simp [freeing, find_put, Hnd.freed, hst]
  · obtain rfl | hold := mem_put he
    · simp [Hnd.freed, hst]
    · rw [modLive_pln] at hold
      exact absurd (hgone e hold) (by simp [hg])

end

theorem exec_handleFree_ok {s : State} {tag : Nat} {l : Live} {st : Option Nat} {x : Hnd} (h : Starts s tag 0x21 l st)
    (hok : hndOk s (liveTen l) (fieldAt l.desc 16 3) = true) (hx : hndRec s (fieldAt l.desc 16 3) = some x)
    (hnames : ∀ e ∈ s.hif.live, e.1 ≠ tag → namesHandle e.2 (fieldAt l.desc 16 3) = false) :
    exec (.handleFree tag) s = .next (done tag 0 0 0 (freeing (fieldAt l.desc 16 3) tag st x s)) := by
  have runs := (exec_handleFree h).trans (congrArg _ (if_pos hok))
  rwa [h.usersOf_started hnames, modHnd_of_hnd ((hndRec_modLive tag (Live.started st) s _).trans hx)] at runs

/-! A HANDLE_CREATE that has made its handle. -/

section
variable {s u : State} {tag k n tier die : Nat} {l : Live} {st : Option Nat} (h : Starts s tag 0x20 l st)
  (hu : createPages k (liveTen l) tier die n 0 (withHnd k (newHnd l st) (modLive tag (Live.started st) s)) = some u)

include hu in
theorem handleMade_hnds : u.pln.hnds = Map.put s.pln.hnds k (newHnd l st) := by
  rw [createPages_hnds hu]
  simp [withHnd]

include hu in
theorem handleMade_frame : Only flowParts s u := createPages_only (by decide) _ _ _ _ _ _ _ (modPln_only _ (by decide) (modLive_flow tag _ s)) u hu

include h hu in
theorem handleMade_mayEnd : MayEnd u tag (l.started st) :=
  h.mayEnd.of_only (createPages_only (fr := [.pln]) (by decide) _ _ _ _ _ _ _ (modPln_only _ (by decide) (Only.rfl' _ _)) u hu) (by decide)
    (by decide)

include hu in
theorem handleMade_stands (hsize : fieldAt l.desc 16 6 ≤ 2 ^ 40) (hsizes : ∀ e ∈ s.pln.hnds, e.2.size ≤ 2 ^ 40) :
    StandsWith u k n (newHnd l st) where
  listed := by rw [hndRec, handleMade_hnds hu, find_put, if_pos rfl]
  pages p hp := createPages_page hu (Nat.zero_le p) (by omega)
  sizes e he := by
    rw [handleMade_hnds hu] at he
    obtain rfl | hold := mem_put he
    · exact hsize
    · exact hsizes e hold

include h hu in
/-- The handle stands with its pages once its HANDLE_CREATE has ended. -/
theorem handleMade_done (hfree : hndRec s k = none) (hn : n ≤ 2 ^ 19) (hsize : fieldAt l.desc 16 6 ≤ 2 ^ 40)
    (hsizes : ∀ e ∈ s.pln.hnds, e.2.size ≤ 2 ^ 40) (result : Nat) : StandsWith (done tag 0 0 result u) k n (newHnd l st) := by
  have notGone : ∀ e ∈ u.pln.hnds, e.1 = k → e.2.gone = false := fun e he hkey => by
    rw [handleMade_hnds hu] at he
    obtain rfl | hold := mem_put he
    · rfl
    · exact absurd hkey (key_ne_of_find_none hfree e hold)
  rw [(handleMade_mayEnd h hu).done_eq]
  exact ((handleMade_stands hu hsize hsizes).of_pln (finish_pln tag 0 0 result u)).settleFrees hn _
    (by rw [finish_pln]; exact notGone)

include h hu in
/-- Where no handle has been freed, the new one is the only change of the table of handles. -/
theorem handleMade_quiet (hgone : ∀ e ∈ s.pln.hnds, e.2.gone = false) (result : Nat) :
    (done tag 0 0 result u).pln.hnds = Map.put s.pln.hnds k (newHnd l st) := by
  have notGone : ∀ e ∈ u.pln.hnds, e.2.gone = false := fun e he => by
    rw [handleMade_hnds hu] at he
    obtain rfl | hold := mem_put he
    · rfl
    · exact hgone e hold
  rw [((handleMade_mayEnd h hu).done_quiet (notGone_stays notGone) 0 0 result).1, handleMade_hnds hu]

end

/-! A HANDLE_HINT that has set its preferences. -/

section
variable {s : State} {tag : Nat} {l : Live} {st : Option Nat} (h : Starts s tag 0x22 l st) (cnt : Nat)
include h

theorem hintedPages_mayEnd : MayEnd (hintedPages l.desc cnt (modLive tag (Live.started st) s)) tag (l.started st) :=
  h.mayEnd.of_only (hintedPages_only l.desc cnt _ (ps := [.pln]) (by decide) (Only.rfl' _ _)) (by decide) (by decide)

/-- Its end touches no table of the Planter and no memory where no handle has been freed. -/
theorem hintedPages_quiet (hgone : ∀ e ∈ s.pln.hnds, e.2.gone = false) :
    (done tag 0 0 0 (hintedPages l.desc cnt (modLive tag (Live.started st) s))).pln
        = (hintedPages l.desc cnt (modLive tag (Live.started st) s)).pln ∧
      (done tag 0 0 0 (hintedPages l.desc cnt (modLive tag (Live.started st) s))).mem = s.mem := by
  obtain ⟨pln, mem⟩ := (hintedPages_mayEnd h cnt).done_quiet (by rw [hintedPages_hnds, modLive_pln]; exact notGone_stays hgone) 0 0 0
  have frame : Only [.pln] (modLive tag (Live.started st) s) (hintedPages l.desc cnt (modLive tag (Live.started st) s)) :=
    hintedPages_only _ _ _ (by decide) (Only.rfl' _ _)
  exact ⟨pln, mem.trans ((frame .mem (by decide)).trans (modLive_mem _ _ s))⟩

end

/-- Settles O27: each opcode starts, does its one change of the Planter's tables, and is `done`; what `done` leaves of the tables is
said by the handles that have been freed. -/
theorem handleDescriptors : Obligations.HandleDescriptors := by
  refine ⟨fun tag want h n l hd st s s1 hst hfault hh hfree hn hsizes hhd hpages => ?_, fun tag want f l st s hst hfault => ?_,
    fun tier stack s hz hw hl => ?_, fun c op tag l st s hc hst hbad => ?_, fun tag h l st x s hst hh hok hx hgone hnames hjob => ?_,
    fun tag h fp cnt pref l st s hst hh hok hgone hfp hcnt hpref hfirst hlast hdie hnow => ?_, fun tag h l st k s hst hh hok hk => ?_⟩
  · subst hh hn
    obtain rfl : hd = newHnd l st := hhd
    obtain ⟨ended, only⟩ := (handleMade_mayEnd hst hpages).endsWith (handleMade_frame hpages) 0 0
      (pickHandle s want + pagesOf (fieldAt l.desc 16 6) * 2 ^ 32)
    have size := createFault_size hfault
    have stands := handleMade_done hst hpages hfree (pagesOf_le size) size hsizes
    exact ⟨_, (exec_handleCreate hst want).trans (congrArg _ (hst.createTry_made want hfault hpages)), (stands _).listed, (stands _).pages, ended,
      fun hgone => handleMade_quiet hst hpages hgone _, only⟩
  · refine ⟨_, exec_handleCreate hst want, ?_⟩
    rw [hst.createTry_fault want hfault]
    exact hst.mayEnd.endsWith (modLive_flow tag _ s) f.1 f.2 0
  · exact ⟨_, exec_pageZeroizeDone hz hw hl, rfl, modPln_only _ (by decide) (Only.rfl' _ s)⟩
  · have ended := hst.mayEnd.endsWith (modLive_flow tag _ s) 0x14 0 0
    simp only [List.mem_cons, List.not_mem_nil, or_false, Prod.mk.injEq] at hc
    obtain ⟨rfl, rfl⟩ | ⟨rfl, rfl⟩ | ⟨rfl, rfl⟩ := hc
    · exact ⟨_, (exec_handleFree hst).trans (congrArg _ (if_neg (by simp [hbad]))), ended⟩
    · exact ⟨_, exec_handleHint_bad hst hbad, ended⟩
    · exact ⟨_, (exec_handleQuery hst).trans (congrArg _ (if_neg (by simp [hbad]))), ended⟩
  · subst hh
    obtain ⟨ended, only⟩ := (freeing_mayEnd hst).endsWith (freeing_frame _ tag st x s) 0 0 0
    exact ⟨_, exec_handleFree_ok hst hok hx hnames, fun hnone => freeing_leaves hst hx hok hnone hjob,
      fun n hsome => freeing_stays hst hgone hsome, ended, only⟩
  · subst hh hfp hpref
    obtain rfl : cnt = hintCount s l.desc := hcnt
    obtain ⟨pln, mem⟩ := hintedPages_quiet hst (hintCount s l.desc) hgone
    obtain ⟨ended, only⟩ := (hintedPages_mayEnd hst (hintCount s l.desc)).endsWith
      (hintedPages_only _ _ _ (by decide) (modLive_flow tag _ s)) 0 0 0
    refine ⟨_, exec_handleHint hst hok hfirst hlast hdie hnow, fun p x hlo hhi hx => ?_, ended, ?_, mem, only⟩
    · rw [pageRec, pln]
      refine (pageRec_hintedPages l.desc _ _ hlo hhi).trans ?_
      rw [pageRec_modLive, hx]
      rfl
    · rw [pln, hintedPages_hnds, modLive_pln]
  · subst hh
    refine ⟨_, (exec_handleQuery hst).trans (congrArg _ (if_pos hok)), ?_⟩
    have result : k 0 + 2 ^ 21 * k 1 + 2 ^ 42 * k 2 = pagesIn s (fieldAt l.desc 16 3) 0 + pagesIn s (fieldAt l.desc 16 3) 1 * 2 ^ 21
        + pagesIn s (fieldAt l.desc 16 3) 2 * 2 ^ 42 := by
      simp only [hk, pagesIn, Nat.mul_comm]
    rw [result]
    exact hst.mayEnd.endsWith (modLive_flow tag _ s) 0 0 _

end Sys2Proof.Machine
end

section
/-!
Writes to handles that nothing holds back: they land in order, byte for byte, and touch no page, handle or stack (R102, R123, R130,
R388).
-/
namespace Sys2Proof.Machine

/-! ## Bytes in pieces -/

theorem memRead_length (m : List Host.Cell) (a n : Nat) : (memRead m a n).length = n := by
  induction n generalizing a with
  | zero => rfl
  | succ n ih => simp [memRead, ih]
theorem memWrite_append (m : List Host.Cell) (a : Nat) (xs ys : List Byte) :
    memWrite m a (xs ++ ys) = memWrite (memWrite m a xs) (a + xs.length) ys := by
  induction xs generalizing m a with
  | nil => rfl
  | cons x r ih =>
    rw [List.cons_append, memWrite, ih, memWrite, List.length_cons]
    congr 1
    omega

/-- The pieces of a write begin within it. -/
theorem pieces_within {fuel off : Nat} {bs : List Byte} : ∀ x ∈ pieces fuel off bs, off ≤ x.1 ∧ x.1 < off + bs.length := by
  induction fuel generalizing off bs with
  | zero => exact fun x hx => absurd hx List.not_mem_nil
  | succ fuel ih =>
    intro x hx
    unfold pieces at hx
    split at hx
    next => cases hx
    next hne =>
      have pos : 0 < bs.length := List.length_pos_iff.mpr (by simpa using hne)
      obtain rfl | hr := List.mem_cons.mp hx
      · exact ⟨Nat.le_refl off, by dsimp only; omega⟩
      · have inRest := ih x hr
        rw [List.length_drop] at inRest
        omega

/-- Written one after another, the pieces of a write are the write. -/
theorem memWrite_pieces (base : Nat) {fuel off : Nat} {bs : List Byte} (hfuel : 0 < bs.length → off % 4096 + bs.length ≤ 4096 * fuel)
    (m : List Host.Cell) : (pieces fuel off bs).foldl (fun m x => memWrite m (base + x.1) x.2) m = memWrite m (base + off) bs := by
  induction fuel generalizing off bs m with
  | zero =>
    obtain rfl : bs = [] := List.length_eq_zero_iff.mp (by omega)
    rfl
  | succ fuel ih =>
    unfold pieces
    split
    next he =>
      obtain rfl : bs = [] := by simpa using he
      rfl
    next =>
      have first : (bs.take (min bs.length (4096 - off % 4096))).length = min bs.length (4096 - off % 4096) := by
        rw [List.length_take]
        omega
      have rest : 0 < (bs.drop (min bs.length (4096 - off % 4096))).length → (off + min bs.length (4096 - off % 4096)) % 4096
          + (bs.drop (min bs.length (4096 - off % 4096))).length ≤ 4096 * fuel := by
        rw [List.length_drop]
        intro hpos
        rw [Nat.min_eq_right (by omega)] at hpos ⊢
        omega
      rw [List.foldl_cons, ih rest, ← Nat.add_assoc]
      conv_rhs => rw [← List.take_append_drop (min bs.length (4096 - off % 4096)) bs, memWrite_append, first]

/-! ## What a landing write leaves -/

/-- The pages, handles and stacks of `u` are those of `s`; nothing but memory and the Planter's tables differs. -/
structure SamePlaces (s u : State) : Prop where
  pages : ∀ k, Map.find u.pln.pages k = Map.find s.pln.pages k
  hnds : u.pln.hnds = s.pln.hnds
  stk : u.pln.stk = s.pln.stk
  frame : Only [.mem, .pln] s u

theorem SamePlaces.refl (s : State) : SamePlaces s s := ⟨fun _ => rfl, rfl, rfl, Only.rfl' _ s⟩
theorem SamePlaces.trans {s u v : State} (h : SamePlaces s u) (k : SamePlaces u v) : SamePlaces s v :=
  ⟨fun i => (k.pages i).trans (h.pages i), k.hnds.trans h.hnds, k.stk.trans h.stk, h.frame.trans k.frame⟩
/-- A change of the Planter's tables that spares pages, handles and stacks. -/
theorem SamePlaces.modPln {s u : State} (h : SamePlaces s u) (f : Pln → Pln) (hp : (f u.pln).pages = u.pln.pages)
    (hh : (f u.pln).hnds = u.pln.hnds) (hk : (f u.pln).stk = u.pln.stk) : SamePlaces s (Machine.modPln f u) :=
  h.trans ⟨fun k => congrArg (Map.find · k) hp, hh, hk, modPln_only f (by decide) (Only.rfl' _ u)⟩

section
variable (k t h : Nat)

/-- A write through the press buffer changes no more than the buffer. -/
theorem pressTrim_press (keep : Nat) (s : State) : ∃ ls, pressTrim k t keep s = modPln (fun p => { p with press := ls }) s := ⟨_, rfl⟩
theorem pressLine_press (line : Nat) (d : List (Nat × Byte)) (s : State) :
    ∃ ls, pressLine k t h line d s = modPln (fun p => { p with press := ls }) s := by
  unfold pressLine
  dsimp only
  split
  · split
    · exact ⟨_, rfl⟩
    · exact ⟨_, rfl⟩
  · split
    · exact ⟨s.pln.press, rfl⟩
    · split
      · exact pressTrim_press k t _ s
      · exact ⟨_, rfl⟩
theorem pressWrite_samePlaces (off : Nat) (bs : List Byte) (s : State) :
    SamePlaces s (pressWrite k t h off bs s) ∧ (pressWrite k t h off bs s).mem = s.mem := by
  refine forS_holds (fun u => SamePlaces s u ∧ u.mem = s.mem) (fun x _ u hu => ?_) ⟨SamePlaces.refl s, rfl⟩
  obtain ⟨same, mem⟩ := hu
  split
  · exact ⟨same.modPln _ rfl rfl rfl, mem⟩
  · obtain ⟨ls, e⟩ := pressLine_press k t h x.1 ((List.range x.2.2).map (fun i => (x.2.1 + i, memGet u.mem (hKey h (x.1 * 64 + x.2.1 + i))))) u
    rw [e]
    exact ⟨same.modPln _ rfl rfl rfl, mem⟩

end

/-- A page open to accesses: in T0 or T1, unmarked, without poison, on no lost or tripped stack. -/
structure OpenPage (s : State) (p : Page) : Prop where
  tier : p.tier ≤ 1
  mark : p.mark = false
  poison : p.poison = []
  stack : p.tier = 0 → (stkRec s p.stack).st ≠ 2 ∧ (stkRec s p.stack).st ≠ 3
/-- Neither a fence nor Dormant nor a rack holds writes back. -/
structure Unheld (s : State) : Prop where
  fence : s.err.fence = false
  awake : asleep s = false
  job : s.rck.job = none
/-- A write outside steps that nothing holds back. -/
structure ClearWrite (s : State) (w : WaitW) : Prop where
  page : ∃ p, pageRec s w.hnd (pageIdx w.off) = some p ∧ OpenPage s p
  hnd : ∃ x, hndRec s w.hnd = some x
  step : w.step = none

theorem SamePlaces.unheld {s u : State} (h : SamePlaces s u) (hs : Unheld s) : Unheld u where
  fence := by rw [show u.err = s.err from h.frame .err (by decide)]; exact hs.fence
  awake := by rw [asleep, show u.pwr = s.pwr from h.frame .pwr (by decide)]; exact hs.awake
  job := by rw [show u.rck = s.rck from h.frame .rck (by decide)]; exact hs.job
theorem SamePlaces.openPage {s u : State} (h : SamePlaces s u) {p : Page} (hp : OpenPage s p) : OpenPage u p where
  tier := hp.tier
  mark := hp.mark
  poison := hp.poison
  stack := by unfold stkRec; rw [h.stk]; exact hp.stack
theorem SamePlaces.clearWrite {s u : State} (h : SamePlaces s u) {w : WaitW} (hw : ClearWrite s w) : ClearWrite u w where
  page := hw.page.imp fun p hp => ⟨(h.pages _).trans hp.1, h.openPage hp.2⟩
  hnd := by unfold hndRec; rw [h.hnds]; exact hw.hnd
  step := hw.step

theorem OpenPage.t0Held {s : State} {p : Page} (hp : OpenPage s p) (hs : Unheld s) : t0Held s p = false := by
  by_cases h0 : p.tier = 0
  · obtain ⟨notLost, notTripped⟩ := hp.stack h0
    simp [Machine.t0Held, hs.fence, hs.awake, notLost, notTripped]
  · simp [Machine.t0Held, h0]
theorem ClearWrite.ready {s : State} {w : WaitW} (hw : ClearWrite s w) (hs : Unheld s) : needOf s w = .ready := by
  obtain ⟨p, hp, hopen⟩ := hw.page
  obtain ⟨x, hx⟩ := hw.hnd
  have tier : p.tier ≠ 2 := fun h => absurd hopen.tier (by omega)
  simp [needOf, hp, hx, tier, marking, hs.job, hopen.t0Held hs, hw.step, hopen.mark]

theorem without_nil_poison {p : Page} (hp : p.poison = []) (b : Nat) : { p with poison := without b p.poison } = p := by
  rw [hp]
  exact congrArg (fun l => { p with poison := l }) hp.symm
/-- Taking a block off the poison of a page that has none changes no place. -/
theorem unpoison_samePlaces {s : State} {h i : Nat} {p : Page} (hp : pageRec s h i = some p) (hnone : p.poison = []) (b : Nat) :
    SamePlaces s (modPage h i (fun x => { x with poison := without b x.poison }) s) ∧
      (modPage h i (fun x => { x with poison := without b x.poison }) s).mem = s.mem := by
  rw [modPage_of_page hp, without_nil_poison hnone]
  refine ⟨⟨fun k => ?_, rfl, rfl, modPln_only _ (by decide) (Only.rfl' _ s)⟩, rfl⟩
  rw [modPln_pln, find_put]
  split
  next e => rw [e]; exact hp.symm
  next => rfl

/-- The bytes of a write stand in memory, through the press buffer where the page is of T0. -/
def pressPut (p : Page) (w : WaitW) (s : State) : State :=
  if p.tier = 0 then pressWrite p.stack w.tenant w.hnd w.off w.bytes (hPut w.hnd w.off w.bytes s) else hPut w.hnd w.off w.bytes s

theorem pressPut_samePlaces (p : Page) (w : WaitW) (s : State) :
    SamePlaces s (pressPut p w s) ∧ (pressPut p w s).mem = memWrite s.mem (hKey w.hnd w.off) w.bytes := by
  have put : SamePlaces s (hPut w.hnd w.off w.bytes s) := ⟨fun _ => rfl, rfl, rfl, hPut_only _ _ _ (by decide) (by decide) (Only.rfl' _ s)⟩
  unfold pressPut
  split
  · obtain ⟨same, mem⟩ := pressWrite_samePlaces p.stack w.tenant w.hnd w.off w.bytes (hPut w.hnd w.off w.bytes s)
    exact ⟨put.trans same, mem⟩
  · exact ⟨put, rfl⟩
theorem landWrite_eq {s : State} {w : WaitW} {p : Page} (hp : pageRec s w.hnd (pageIdx w.off) = some p) (hstep : w.step = none) :
    landWrite w s = if w.bytes.length = 4096 ∧ w.off % 4096 = 0 then
        modPage w.hnd (pageIdx w.off) (fun x => { x with poison := without (blockIdx w.off) x.poison }) (pressPut p w s)
      else pressPut p w s := by
  simp only [landWrite, hp, hstep, pressPut]

/-- A write that lands outside steps changes its bytes of memory and no place. -/
theorem ClearWrite.landWrite {s : State} {w : WaitW} (hw : ClearWrite s w) :
    SamePlaces s (landWrite w s) ∧ (landWrite w s).mem = memWrite s.mem (hKey w.hnd w.off) w.bytes := by
  obtain ⟨p, hp, hopen⟩ := hw.page
  obtain ⟨same, mem⟩ := pressPut_samePlaces p w s
  rw [landWrite_eq hp hw.step]
  split
  · obtain ⟨sameToo, memToo⟩ := unpoison_samePlaces ((same.pages _).trans hp) hopen.poison (blockIdx w.off)
    exact ⟨same.trans sameToo, memToo.trans mem⟩
  · exact ⟨same, mem⟩

/-! ## The writes that wait land (R123) -/

/-- Writes that nothing holds back, one after another. -/
theorem landWrites {s : State} {ws : List WaitW} (hw : ∀ w ∈ ws, ClearWrite s w) :
    SamePlaces s (forS ws landWrite s) ∧
      (forS ws landWrite s).mem = ws.foldl (fun m w => memWrite m (hKey w.hnd w.off) w.bytes) s.mem := by
  induction ws generalizing s with
  | nil => exact ⟨SamePlaces.refl s, rfl⟩
  | cons w r ih =>
    obtain ⟨same, mem⟩ := (hw w List.mem_cons_self).landWrite
    obtain ⟨sameRest, memRest⟩ := ih fun x hx => same.clearWrite (hw x (List.mem_cons_of_mem w hx))
    exact ⟨same.trans sameRest, memRest.trans (by rw [mem]; rfl)⟩

/-- A pass over writes that nothing holds back lands each of them and keeps none waiting. -/
theorem foldl_landWrite {f : List WaitW × State → WaitW → List WaitW × State}
    (hf : ∀ u w, Unheld u → ClearWrite u w → f ([], u) w = ([], landWrite w u)) {s : State} {ws : List WaitW} (hs : Unheld s)
    (hw : ∀ w ∈ ws, ClearWrite s w) : ws.foldl f ([], s) = ([], forS ws landWrite s) := by
  induction ws generalizing s with
  | nil => rfl
  | cons w r ih =>
    have same := (hw w List.mem_cons_self).landWrite.1
    rw [List.foldl_cons, hf s w hs (hw w List.mem_cons_self)]
    exact ih (same.unheld hs) fun x hx => same.clearWrite (hw x (List.mem_cons_of_mem w hx))
theorem pump_clear {s : State} (hs : Unheld s) (hw : ∀ w ∈ s.pln.waits, ClearWrite s w) :
    pump s = modPln (fun p => { p with waits := [] }) (forS s.pln.waits landWrite s) := by
  unfold pump
  rw [foldl_landWrite (fun u w hu hc => ?_) hs hw]
  simp [hc.ready hu]

theorem wakeUp_awake {s : State} (h : asleep s = false) : wakeUp s = s := by
  simp only [asleep, Bool.or_eq_false_iff, decide_eq_false_iff_not] at h
  rw [wakeUp, if_neg h.1, if_neg h.2]
theorem startPromo_idle {s : State} {h p : Nat} (hp : ∀ x, pageRec s h p = some x → x.tier ≠ 2) : startPromo h p s = s := by
  unfold startPromo
  split
  next x y hx hy => exact if_neg fun hc => hp x hx hc.1
  next => rfl

/-- The pieces of a write wait. -/
def queueWrite (who t : Nat) (step : Option Nat) (h off : Nat) (bs : List Byte) (s : State) : State :=
  modPln (fun p => { p with waits := p.waits ++ (pieces (bs.length / 4096 + 2) off bs).map (fun x => ⟨who, t, step, h, x.1, x.2⟩) }) s
theorem hWrite_eq (who t : Nat) (step : Option Nat) (h off : Nat) (bs : List Byte) (s : State) :
    hWrite who t step h off bs s =
      pump (whenS (touchesT0 s h off bs.length) wakeUp (promoteRange h off bs.length (queueWrite who t step h off bs s))) := rfl

/-! ## A range of bytes whose pages are open -/

/-- Every byte of a range lies in an open page. -/
def RangeOpen (s : State) (h off n : Nat) : Prop := ∀ i, i < n → ∃ p, pageRec s h (pageIdx (off + i)) = some p ∧ OpenPage s p

/-- A page that a range touches holds a byte of it. -/
theorem touched_byte {h off n : Nat} {q : Nat × Nat} (hq : q ∈ pagesTouched h off n) : ∃ i, i < n ∧ q = (h, pageIdx (off + i)) := by
  unfold pagesTouched at hq
  split at hq
  next => cases hq
  next hn =>
    obtain ⟨k, hk, rfl⟩ := List.mem_map.mp hq
    have last := List.mem_range.mp hk
    unfold pageIdx at last ⊢
    obtain rfl | hpos := Nat.eq_zero_or_pos k
    · exact ⟨0, by omega, rfl⟩
    · refine ⟨(off / 0x200000 + k) * 0x200000 - off, by omega, ?_⟩
      rw [Nat.add_sub_cancel' (by omega), Nat.mul_div_cancel _ (by decide)]

section
variable {s : State} {h off n : Nat} (hr : RangeOpen s h off n)
include hr

theorem RangeOpen.touched {q : Nat × Nat} (hq : q ∈ pagesTouched h off n) : ∃ p, pageRec s q.1 q.2 = some p ∧ OpenPage s p := by
  obtain ⟨i, hi, rfl⟩ := touched_byte hq
  exact hr i hi
theorem RangeOpen.sub {off' n' : Nat} (hlo : off ≤ off') (hhi : off' + n' ≤ off + n) : RangeOpen s h off' n' := fun i hi => by
  have here := hr (off' - off + i) (by omega)
  rwa [show off + (off' - off + i) = off' + i by omega] at here
theorem RangeOpen.touchesT2 : touchesT2 s h off n = false :=
  List.any_eq_false.mpr fun q hq => by
    obtain ⟨p, hp, hopen⟩ := hr.touched hq
    have tier : p.tier ≠ 2 := fun e => absurd hopen.tier (by omega)
    simp [hp, tier]
theorem RangeOpen.rangeHeld (hs : Unheld s) : rangeHeld s h off n = false :=
  List.any_eq_false.mpr fun q hq => by
    obtain ⟨p, hp, hopen⟩ := hr.touched hq
    simp [hp, hopen.t0Held hs]
theorem RangeOpen.poisonedIn : poisonedIn s h off n = [] := by
  refine List.filter_eq_nil_iff.mpr fun a ha => ?_
  obtain ⟨q, hq, hin⟩ := List.mem_flatMap.mp ha
  obtain ⟨p, hp, hopen⟩ := hr.touched hq
  simp [hp, hopen.poison] at hin
theorem RangeOpen.promoteRange : promoteRange h off n s = s := by
  refine forS_holds (· = s) (fun q hq u hu => ?_) rfl
  obtain ⟨p, hp, hopen⟩ := hr.touched hq
  rw [hu]
  refine startPromo_idle fun x hx => ?_
  obtain rfl : p = x := Option.some.inj (hp.symm.trans hx)
  exact fun e => absurd hopen.tier (by omega)

theorem RangeOpen.samePlaces {u : State} (hu : SamePlaces s u) : RangeOpen u h off n := fun i hi =>
  (hr i hi).imp fun _ hp => ⟨(hu.pages _).trans hp.1, hu.openPage hp.2⟩

/-- A write outside steps to open pages lands whole: its bytes of memory, no place, nothing left waiting. -/
theorem RangeOpen.hWrite (hs : Unheld s) (hw : s.pln.waits = []) {x : Hnd} (hx : hndRec s h = some x) (who t : Nat) {bs : List Byte}
    (hn : n = bs.length) :
    SamePlaces s (hWrite who t none h off bs s) ∧ (hWrite who t none h off bs s).mem = memWrite s.mem (hKey h off) bs := by
  subst hn
  have queued : SamePlaces s (queueWrite who t none h off bs s) := (SamePlaces.refl s).modPln _ rfl rfl rfl
  have waits : (queueWrite who t none h off bs s).pln.waits
      = (pieces (bs.length / 4096 + 2) off bs).map (fun x => ⟨who, t, none, h, x.1, x.2⟩) := by
    simp [queueWrite, hw]
  have clear : ∀ w ∈ (queueWrite who t none h off bs s).pln.waits, ClearWrite (queueWrite who t none h off bs s) w := fun w hmem => by
    rw [waits] at hmem
    obtain ⟨y, hy, rfl⟩ := List.mem_map.mp hmem
    obtain ⟨lo, hi⟩ := pieces_within y hy
    have page := (hr.samePlaces queued) (y.1 - off) (by omega)
    rw [Nat.add_sub_cancel' lo] at page
    exact ⟨page, ⟨x, hx⟩, rfl⟩
  have unheld := queued.unheld hs
  have pumped : Machine.hWrite who t none h off bs s = pump (queueWrite who t none h off bs s) := by
    rw [hWrite_eq, (hr.samePlaces queued).promoteRange, whenS, wakeUp_awake unheld.awake, ite_self]
  rw [pumped, pump_clear unheld clear]
  obtain ⟨landed, mem⟩ := landWrites clear
  refine ⟨(queued.trans landed).modPln _ rfl rfl rfl, mem.trans ?_⟩
  rw [waits, List.foldl_map]
  exact memWrite_pieces (h * 2 ^ 41) (fun _ => by omega) s.mem

end

end Sys2Proof.Machine
end

section
/-!
The DMA opcodes: what each writes and where, and how it ends (R109 to R112, R345, R361, R364, R691, R692 of 03 and 09).
-/
namespace Sys2Proof.Machine

/-! ## The start of a DMA (R111) -/

@[simp] theorem dmaFault_modLive (tag : Nat) (f : Live → Live) (s : State) (t op : Nat) (d : List Byte) :
    dmaFault (modLive tag f s) t op d = dmaFault s t op d := by simp [dmaFault]

/-- A DMA as it runs, with the bytes read from the host. -/
def Live.dmaRun (st : Option Nat) (buf : List Byte) (l : Live) : Live := { l with stage := .running, step := st, buf := buf }
/-- The state in which a DMA moves its data: it runs, and a DMA_H2D has made its host read. -/
def dmaReady (op tag : Nat) (l : Live) (st : Option Nat) (buf : List Byte) (s : State) : State :=
  readHost op (liveTen l) l.desc (modLive tag (Live.dmaRun st buf) s)

section
variable {s : State} {op tag : Nat} {l : Live} {st : Option Nat}

theorem dmaStart_fault (h : Starts s tag op l st) (buf : List Byte) {f : Nat × Nat} (hf : dmaFault s (liveTen l) op l.desc = some f) :
    dmaStart tag op buf s = done tag f.1 f.2 0 (modLive tag (Live.started st) s) := by
  refine (startDesc_go h _).trans ?_
  have fault : dmaFault s (ringTen l.ring) op l.desc = some f := hf
  simp only [started_live h, dmaFault_modLive, liveTen, fault]
  rfl
theorem dmaStart_runs (h : Starts s tag op l st) (buf : List Byte) (hf : dmaFault s (liveTen l) op l.desc = none) :
    dmaStart tag op buf s = dmaTry tag (dmaReady op tag l st buf s) := by
  refine (startDesc_go h _).trans ?_
  have fault : dmaFault s (ringTen l.ring) op l.desc = none := hf
  simp only [started_live h, dmaFault_modLive, liveTen, fault]
  rw [modLive_modLive h.live, dmaReady, modLive_of_live h.live, modLive_of_live h.live]
  rfl

/-- A DMA_H2D whose host read succeeds, a DMA_COPY and a DMA_FILL start alike. -/
theorem exec_dmaIn {c : Instr} {buf : List Byte} (hc : (c, op) ∈ [(Instr.dmaH2d tag 0 buf, 0x10), (.dmaCopy tag, 0x12), (.dmaFill tag, 0x13)])
    (hbuf : op ≠ 0x10 → buf = []) (h : Starts s tag op l st)
    (hlen : op = 0x10 → buf.length = dmaLen l.desc ∨ (dmaFault s (liveTen l) 0x10 l.desc).isSome = true) :
    exec c s = .next (dmaStart tag op buf s) := by
  simp only [List.mem_cons, List.not_mem_nil, or_false, Prod.mk.injEq] at hc
  obtain ⟨rfl, rfl⟩ | ⟨rfl, rfl⟩ | ⟨rfl, rfl⟩ := hc
  · show execDmaH2d tag 0 buf s = _
    simp only [execDmaH2d, h.live]
    rw [if_pos trivial, if_pos (hlen rfl)]
  · rw [hbuf (by decide)]
    rfl
  · rw [hbuf (by decide)]
    rfl

theorem exec_dmaH2d_fault {flt : Nat} {buf : List Byte} (h : Starts s tag 0x10 l st) (hflt : flt ≠ 0)
    (hf : dmaFault s (liveTen l) 0x10 l.desc = none) :
    exec (.dmaH2d tag flt buf) s = .next (done tag 0x15 (flt % 8) 0 (readHost 0x10 (liveTen l) l.desc (modLive tag (Live.started st) s))) := by
  show execDmaH2d tag flt buf s = _
  simp only [execDmaH2d, h.live]
  rw [if_neg hflt]
  refine congrArg Host.Outcome.next ((startDesc_go h _).trans ?_)
  simp only [dmaFault_modLive, hf]
  rfl

theorem exec_dmaDone (hl : liveRec s tag = some l) (hn : nclkOn s = true) (hlo : 0x10 ≤ opcodeOf l.desc) (hhi : opcodeOf l.desc ≤ 0x13)
    (hrun : l.stage = .running) (haux : l.aux = 1) (hw : writesWait s tag = false) :
    exec (.dmaDone tag) s = .next (done tag l.status l.detail l.result s) := by
  show execDmaDone tag s = _
  simp [execDmaDone, hl, hn, hlo, hhi, hrun, haux, hw]

/-! ## The state in which a DMA moves its data -/

/-- It differs from the state before in the live descriptors and the host read alone. -/
theorem dmaReady_eq (h : Starts s tag op l st) (buf : List Byte) :
    dmaReady op tag l st buf s = { s with
      hif := { s.hif with live := Map.put s.hif.live tag (l.dmaRun st buf) },
      out := (if op = 0x10 then [.hostRead (tenFn s (liveTen l)) (tenPasid s (liveTen l)) (dmaAddr l.desc) (dmaLen l.desc)] else []) ++ s.out } := by
  rw [dmaReady, modLive_of_live h.live, readHost]
  split <;> rfl
theorem dmaReady_modLive (hne : op ≠ 0x10) (buf : List Byte) : dmaReady op tag l st buf s = modLive tag (Live.dmaRun st buf) s := if_neg hne
theorem dmaReady_live (h : Starts s tag op l st) (buf : List Byte) : liveRec (dmaReady op tag l st buf s) tag = some (l.dmaRun st buf) := by
  rw [dmaReady_eq h, liveRec, find_put, if_pos rfl]

/-- A DMA that nothing holds back and that reads no poison writes its bytes to its handle. -/
theorem dmaTry_in {u : State} (hl : liveRec u tag = some l) (hop : opcodeOf l.desc = op) (hne : op ≠ 0x11)
    (hblocked : dmaBlocked u op l.desc = false) (hpoison : dmaPoison u op l.desc = []) :
    dmaTry tag u = dmaEnds tag 0 0 (dmaBytes u op l.desc l.buf).length
      (dmaPut tag (liveTen l) op l.desc l.step 0 (dmaBytes u op l.desc l.buf) u) := by
  simp [dmaTry, hl, hop, hne, hblocked, hpoison, firstPoison, stOK]

end

/-! ## What a DMA needs of the pages it touches (R111, R123, R465) -/

theorem OpenPage.of_pln {s u : State} {p : Page} (h : OpenPage s p) (hp : u.pln = s.pln) : OpenPage u p :=
  ⟨h.tier, h.mark, h.poison, by unfold stkRec; rw [hp]; exact h.stack⟩
theorem RangeOpen.of_pln {s u : State} {h off n : Nat} (hr : RangeOpen s h off n) (hp : u.pln = s.pln) : RangeOpen u h off n := fun i hi =>
  (hr i hi).imp fun _ hx => ⟨by rw [pageRec, hp]; exact hx.1, hx.2.of_pln hp⟩

/-- Every range of a DMA lies in open pages. -/
def DmaOpen (s : State) (op : Nat) (d : List Byte) : Prop := ∀ q ∈ dmaRanges op d, RangeOpen s q.1 q.2.1 q.2.2

section
variable {s : State} {t op : Nat} {d : List Byte}

theorem dmaFault_none (h : dmaFault s t op d = none) : 0 < dmaLen d ∧ hndOk s t (dmaH d) = true := by
  have len : ¬(dmaLen d = 0 ∨ 2 ^ 30 < dmaLen d) := fun hc =>
    absurd (h.symm.trans (show dmaFault s t op d = some (stBAD_FIELD, 28) from if_pos hc)) (by simp)
  have own : ¬¬hndOk s t (dmaH d) = true := fun hc =>
    absurd (h.symm.trans (show dmaFault s t op d = some (stBAD_HANDLE, 0) from (if_neg len).trans (if_pos hc))) (by simp)
  exact ⟨by omega, not_not.mp own⟩
theorem hndOk_some {h : Nat} (hok : hndOk s t h = true) : ∃ x, hndRec s h = some x := by
  cases hx : hndRec s h with
  | none => simp [hndOk, hx] at hok
  | some x => exact ⟨x, rfl⟩

theorem DmaOpen.own (ho : DmaOpen s op d) : RangeOpen s (dmaH d) (dmaOff d) (dmaLen d) := ho _ List.mem_cons_self
theorem DmaOpen.source (ho : DmaOpen s 0x12 d) : RangeOpen s (dmaSrc d) (dmaSrcOff d) (dmaLen d) :=
  ho _ (List.mem_cons_of_mem _ (List.mem_singleton.mpr rfl))
theorem DmaOpen.blocked (ho : DmaOpen s op d) (hs : Unheld s) : dmaBlocked s op d = false :=
  List.any_eq_false.mpr fun q hq => by simp [(ho q hq).touchesT2, (ho q hq).rangeHeld hs]
theorem RangeOpen.rmwPoison {h off n : Nat} (hr : RangeOpen s h off n) (hn : 0 < n) : rmwPoison s h off n = [] := by
  have first : Machine.poisonedIn s h off 1 = [] := (hr.sub (Nat.le_refl off) (by omega)).poisonedIn
  have last : Machine.poisonedIn s h (off + n - 1) 1 = [] := (hr.sub (by omega) (by omega)).poisonedIn
  simp [Machine.rmwPoison, first, last]
theorem DmaOpen.poison (ho : DmaOpen s op d) (hne : op ≠ 0x11) (hn : 0 < dmaLen d) : dmaPoison s op d = [] := by
  by_cases hcopy : op = 0x12
  · subst hcopy
    simp [dmaPoison, ho.source.poisonedIn, ho.own.rmwPoison hn]
  · simp [dmaPoison, hcopy, hne, ho.own.rmwPoison hn]

/-- The bytes a DMA moves are as many as its length says. -/
theorem dmaBytes_length {buf : List Byte} (hop : op = 0x10 ∨ op = 0x12 ∨ op = 0x13) (hbuf : op = 0x10 → buf.length = dmaLen d) :
    (dmaBytes s op d buf).length = dmaLen d := by
  obtain rfl | rfl | rfl := hop
  · exact hbuf rfl
  · exact memRead_length _ _ _
  · exact (List.length_map _).trans List.length_range

end

/-! ## A DMA into a handle (R109, R110, R112) -/

section
variable {s : State} {op tag : Nat} {l : Live} {buf : List Byte} (h : Starts s tag op l none) (hs : Unheld s)
  (hop : op = 0x10 ∨ op = 0x12 ∨ op = 0x13) (hf : dmaFault s (liveTen l) op l.desc = none) (hbuf : op = 0x10 → buf.length = dmaLen l.desc)
  (ho : DmaOpen s op l.desc)

/-- The state after a DMA has written its bytes, before its result is noted. -/
def dmaWritten (op tag : Nat) (l : Live) (buf : List Byte) (s : State) : State :=
  hWrite tag (liveTen l) none (dmaH l.desc) (dmaOff l.desc) (dmaBytes s op l.desc buf) (dmaReady op tag l none buf s)

include h hs hop hf hbuf ho

theorem dmaWritten_lands (hw : s.pln.waits = []) :
    SamePlaces (dmaReady op tag l none buf s) (dmaWritten op tag l buf s) ∧
      (dmaWritten op tag l buf s).mem = memWrite s.mem (hKey (dmaH l.desc) (dmaOff l.desc)) (dmaBytes s op l.desc buf) := by
  obtain ⟨-, hok⟩ := dmaFault_none hf
  obtain ⟨x, hx⟩ := hndOk_some hok
  have ready := dmaReady_eq h buf
  have pln : (dmaReady op tag l none buf s).pln = s.pln := by rw [ready]
  have mem : (dmaReady op tag l none buf s).mem = s.mem := by rw [ready]
  have unheld : Unheld (dmaReady op tag l none buf s) := by rw [ready]; exact ⟨hs.fence, hs.awake, hs.job⟩
  have lands := (ho.own.of_pln pln).hWrite unheld (by rw [pln]; exact hw) (x := x) (by rw [hndRec, pln]; exact hx) tag (liveTen l)
    (dmaBytes_length (s := s) hop hbuf).symm
  rwa [mem] at lands

theorem dmaTry_written : dmaTry tag (dmaReady op tag l none buf s) = dmaEnds tag 0 0 (dmaLen l.desc) (dmaWritten op tag l buf s) := by
  obtain ⟨pos, -⟩ := dmaFault_none hf
  have ne : op ≠ 0x11 := by omega
  have ready := dmaReady_eq h buf
  have blocked : dmaBlocked (dmaReady op tag l none buf s) op l.desc = false := by
    rw [ready]
    exact ho.blocked hs
  have poison : dmaPoison (dmaReady op tag l none buf s) op l.desc = [] := by
    rw [ready]
    exact ho.poison ne pos
  have bytes : dmaBytes (dmaReady op tag l none buf s) op l.desc (l.dmaRun none buf).buf = dmaBytes s op l.desc buf := by
    rw [ready]
    rfl
  have length := dmaBytes_length (s := s) hop hbuf
  have nonempty : (dmaBytes s op l.desc buf).isEmpty = false := by
    rw [List.isEmpty_eq_false_iff, ← List.length_pos_iff]
    omega
  rw [dmaTry_in (l := l.dmaRun none buf) (dmaReady_live h buf) h.opcode ne blocked poison]
  simp only [show (l.dmaRun none buf).desc = l.desc from rfl, bytes, length, dmaPut, nonempty, ne]
  rfl

end

/-! ## A DMA to the host (R112, R361, R364) -/

section
variable {s u : State} {tag t n : Nat} {l : Live} {st : Option Nat} {d bs : List Byte}

/-- A DMA_D2H that nothing holds back and that reads no poison sends its bytes, or brings them to the must hold of its step. -/
theorem dmaTry_unattached (hl : liveRec u tag = some l) (hop : opcodeOf l.desc = 0x11) (hblocked : dmaBlocked u 0x11 l.desc = false)
    (hpoison : dmaPoison u 0x11 l.desc = []) (hstep : l.step = none) :
    dmaTry tag u = if hostRangeOk u (tenFn u (liveTen l)) (dmaAddr l.desc) (dmaLen l.desc) then
        dmaEnds tag 0 0 (dmaLen l.desc) (toHost (liveTen l) (dmaAddr l.desc) (hRead u (dmaH l.desc) (dmaOff l.desc) (dmaLen l.desc)) u)
      else dmaEnds tag 0x15 4 0 u := by
  simp [dmaTry, hl, hop, hblocked, hpoison, hstep, firstPoison, dmaBytes, hRead, memRead_length, stOK, stDMA_FAULT]
theorem dmaTry_attached (hl : liveRec u tag = some l) (hop : opcodeOf l.desc = 0x11) (hblocked : dmaBlocked u 0x11 l.desc = false)
    (hpoison : dmaPoison u 0x11 l.desc = []) (hstep : l.step = some n) :
    dmaTry tag u = dmaHold tag (liveTen l) n l.desc (hRead u (dmaH l.desc) (dmaOff l.desc) (dmaLen l.desc)) u := by
  simp [dmaTry, hl, hop, hblocked, hpoison, hstep, firstPoison, dmaBytes]

theorem updStall_hold (t : Nat) (s : State) : (updStall t s).stp.hold = s.stp.hold := by
  have noted : ∀ x : State, ∀ code sub det, (noteT t code sub det x).stp = x.stp := fun x code sub det =>
    noteT_only (fr := [.out, .hif, .book]) t code sub det (by decide) (by decide) (by decide) (Only.rfl' _ x) .stp (by decide)
  have either : ∀ (c : Bool) (x y : State), x.stp.hold = s.stp.hold → y.stp.hold = s.stp.hold → (if c then x else y).stp.hold = s.stp.hold :=
    fun c x y hx hy => by cases c <;> assumption
  unfold updStall
  dsimp only
  split
  · split
    · rfl
    · exact either _ _ _ (by simp [modTstep, noted]) rfl
  · rfl

/-- What a host write of the oldest undrawn step adds to the must hold (R361). -/
def heldWrite (s : State) (tag t n : Nat) (d bs : List Byte) : HoldW :=
  { tag := tag, tenant := t, step := n, fn := tenFn s t, pasid := tenPasid s t, addr := dmaAddr d, bytes := bs }
theorem dmaHold_fits (hspec : speculative s t n = false) (hfits : holdUse s t + (bs.length + 4095) / 4096 * 4096 ≤ holdQuota s t) :
    dmaHold tag t n d bs s = updStall t (dmaEnds tag 0 0 bs.length
      (modStp (fun x => { x with hold := x.hold ++ [heldWrite s tag t n d bs] }) s)) := by
  simp only [dmaHold, hspec, Bool.false_and]
  rw [if_neg (by simp), if_neg (by simpa using hfits)]
  rfl

end

/-! ## The statement -/

theorem dmaReady_frame (op tag : Nat) (l : Live) (st : Option Nat) (buf : List Byte) (s : State) :
    Only [.hif, .out] s (dmaReady op tag l st buf s) :=
  readHost_only op _ _ (by decide) (modLive_only tag _ (by decide) (Only.rfl' _ s))

/-- A DMA that no check stops, unattached, over open pages: its bytes stand in its handle, and it goes on executing. -/
theorem dmaIn_writes {s : State} {op tag : Nat} {l : Live} {buf : List Byte} (h : Starts s tag op l none) (hs : Unheld s)
    (hop : op = 0x10 ∨ op = 0x12 ∨ op = 0x13) (hf : dmaFault s (liveTen l) op l.desc = none) (hbuf : op = 0x10 → buf.length = dmaLen l.desc)
    (ho : DmaOpen s op l.desc) (hw : s.pln.waits = []) {u : State} (hu : u = dmaTry tag (dmaReady op tag l none buf s)) :
    (∃ l', liveRec u tag = some l' ∧ l'.stage = .running ∧ l'.aux = 1 ∧ l'.status = 0 ∧ l'.detail = 0 ∧ l'.result = dmaLen l.desc) ∧
    u.mem = memWrite s.mem (hKey (dmaH l.desc) (dmaOff l.desc)) (dmaBytes s op l.desc buf) ∧
    u.out = (if op = 0x10 then [.hostRead (tenFn s (liveTen l)) (tenPasid s (liveTen l)) (dmaAddr l.desc) (dmaLen l.desc)] else []) ++ s.out ∧
    u.pln.hnds = s.pln.hnds ∧ Only [.hif, .mem, .pln, .rck, .out] s u := by
  obtain ⟨same, mem⟩ := dmaWritten_lands h hs hop hf hbuf ho hw
  rw [dmaTry_written h hs hop hf hbuf ho] at hu
  have ready := dmaReady_eq h buf
  have hif : (dmaWritten op tag l buf s).hif = (dmaReady op tag l none buf s).hif := same.frame .hif (by decide)
  have out : (dmaWritten op tag l buf s).out = (dmaReady op tag l none buf s).out := same.frame .out (by decide)
  have live : liveRec (dmaWritten op tag l buf s) tag = some (l.dmaRun none buf) := by
    rw [liveRec, hif]
    exact dmaReady_live h buf
  subst hu
  refine ⟨⟨_, by rw [dmaEnds, liveRec_modLive, if_pos rfl, live]; rfl, rfl, rfl, rfl, rfl, rfl⟩, ?_, ?_, ?_, ?_⟩
  · rw [dmaEnds, modLive_mem]
    exact mem
  · rw [dmaEnds, modLive_out, out, ready]
  · rw [dmaEnds, modLive_pln, same.hnds, ready]
  · exact dmaEnds_only _ _ _ _ (by decide) (((dmaReady_frame op tag l none buf s).mono (by decide)).trans (same.frame.mono (by decide)))

section
variable {s : State} {tag : Nat} {l : Live} {st : Option Nat} (h : Starts s tag 0x11 l st) (hb : dmaBlocked s 0x11 l.desc = false)
  (hp : dmaPoison s 0x11 l.desc = [])
include h hb hp

/-- An unattached DMA_D2H that nothing holds back writes to the host where its range grants it, and else notes the fault. -/
theorem dmaD2h_unattached (hst : st = none) :
    dmaTry tag (dmaReady 0x11 tag l st [] s) =
      if hostRangeOk s (tenFn s (liveTen l)) (dmaAddr l.desc) (dmaLen l.desc) then
        dmaEnds tag 0 0 (dmaLen l.desc) (toHost (liveTen l) (dmaAddr l.desc) (hRead s (dmaH l.desc) (dmaOff l.desc) (dmaLen l.desc))
          (dmaReady 0x11 tag l st [] s))
      else dmaEnds tag 0x15 4 0 (dmaReady 0x11 tag l st [] s) := by
  have ready := dmaReady_eq h []
  have runs := dmaTry_unattached (l := l.dmaRun st []) (dmaReady_live h []) h.opcode (by rw [ready]; exact hb) (by rw [ready]; exact hp) hst
  rw [runs, ready]
  rfl

/-- One attached to the oldest undrawn step notes its write in the must hold where the quota allows. -/
theorem dmaD2h_attached {n : Nat} (hst : st = some n) (hspec : speculative s (liveTen l) n = false)
    (hfits : holdUse s (liveTen l) + (dmaLen l.desc + 4095) / 4096 * 4096 ≤ holdQuota s (liveTen l)) :
    dmaTry tag (dmaReady 0x11 tag l st [] s) = updStall (liveTen l) (dmaEnds tag 0 0 (dmaLen l.desc)
      (modStp (fun x => { x with hold := x.hold ++
        [heldWrite s tag (liveTen l) n l.desc (hRead s (dmaH l.desc) (dmaOff l.desc) (dmaLen l.desc))] }) (dmaReady 0x11 tag l st [] s))) := by
  have ready := dmaReady_eq h []
  have runs := dmaTry_attached (l := l.dmaRun st []) (dmaReady_live h []) h.opcode (by rw [ready]; exact hb) (by rw [ready]; exact hp) hst
  have length : (hRead s (dmaH l.desc) (dmaOff l.desc) (dmaLen l.desc)).length = dmaLen l.desc := memRead_length _ _ _
  have holds := dmaHold_fits (tag := tag) (d := l.desc) (s := dmaReady 0x11 tag l st [] s) (t := liveTen l) (n := n)
    (bs := hRead s (dmaH l.desc) (dmaOff l.desc) (dmaLen l.desc)) (by rw [ready]; exact hspec) (by rw [length, ready]; exact hfits)
  rw [length] at holds
  refine runs.trans (Eq.trans ?_ (holds.trans ?_))
  · rw [ready]
    rfl
  · rw [ready]
    rfl

end

/-- Settles O26: a DMA that a check stops is `done`, one into a handle is `dmaIn_writes`, one to the host `dmaD2h_unattached` or
`dmaD2h_attached`, and DMA_DONE is `done` with what the DMA has noted. -/
theorem dmaTransfers : Obligations.DmaTransfers := by
  refine ⟨fun c op tag buf l st s hc hbuf h => ⟨fun f hf => ?_, fun hst hf hlen hopen hfence hawake hjob hw => ?_⟩,
    fun tag flt buf l st s h hflt hf => ?_, fun tag l st s h hf hb hp => ?_, fun tag l s hl hn hlo hhi hrun haux hw hup hres hseals => ?_⟩
  · refine ⟨_, exec_dmaIn hc hbuf h (fun hop => .inr (by subst hop; rw [hf]; rfl)), ?_⟩
    rw [dmaStart_fault h buf hf]
    obtain ⟨ended, only⟩ := h.mayEnd.endsWith (modLive_flow tag _ s) f.1 f.2 0
    refine ⟨ended, fun hgone => ?_, only⟩
    rw [(h.mayEnd.done_quiet (by rw [modLive_pln]; exact notGone_stays hgone) _ _ _).2, modLive_mem]
  · subst hst
    have hop : op = 0x10 ∨ op = 0x12 ∨ op = 0x13 := by
      simp only [List.mem_cons, List.not_mem_nil, or_false, Prod.mk.injEq] at hc
      exact hc.imp And.right (Or.imp And.right And.right)
    have pagesOpen : DmaOpen s op l.desc := fun q hq i hi => by
      obtain ⟨p, hpage, tier, mark, poison, stack⟩ := hopen q hq i hi
      exact ⟨p, hpage, tier, mark, poison, stack⟩
    refine ⟨_, exec_dmaIn hc hbuf h (fun e => .inl (hlen e)), ?_⟩
    rw [dmaStart_runs h buf hf]
    obtain ⟨running, mem, out, hnds, only⟩ := dmaIn_writes h ⟨hfence, hawake, hjob⟩ hop hf hlen pagesOpen hw rfl
    have length := dmaBytes_length (s := s) hop hlen
    refine ⟨running, fun i hi => ?_, fun a ha => ?_, out, hnds, only⟩
    · rw [mem, memGet_write, if_pos (by omega), Nat.add_sub_cancel_left]
    · rw [mem, memGet_write, if_neg (by omega)]
  · have run := h.mayEnd.of_only (readHost_only (fr := [.out]) 0x10 (liveTen l) l.desc (by decide) (Only.rfl' _ _)) (by decide) (by decide)
    have pln : (readHost 0x10 (liveTen l) l.desc (modLive tag (Live.started st) s)).pln = s.pln := modLive_pln tag _ s
    obtain ⟨ended, only⟩ := run.endsWith (readHost_only 0x10 (liveTen l) l.desc (by decide) (modLive_flow tag _ s)) 0x15 (flt % 8) 0
    refine ⟨_, exec_dmaH2d_fault h hflt hf, ended, fun hgone => ?_, only⟩
    rw [(run.done_quiet (by rw [pln]; exact notGone_stays hgone) _ _ _).2]
    exact modLive_mem tag _ s
  · obtain ⟨pos, -⟩ := dmaFault_none hf
    have ready := dmaReady_eq h []
    have frame := dmaReady_frame 0x11 tag l st [] s
    refine ⟨_, congrArg Host.Outcome.next (dmaStart_runs h [] hf), fun hst hok => ?_, fun hst hbad => ?_, fun n hst hspec hfits => ?_⟩
    · have sent : (hRead s (dmaH l.desc) (dmaOff l.desc) (dmaLen l.desc)).isEmpty = false := by
        rw [List.isEmpty_eq_false_iff, ← List.length_pos_iff, hRead, memRead_length]
        exact pos
      rw [dmaD2h_unattached h hb hp hst, if_pos hok]
      refine ⟨?_, dmaEnds_only _ _ _ _ (by decide) (toHost_only _ _ _ (by decide) frame)⟩
      rw [dmaEnds, modLive_out, toHost, sent, ready]
      rfl
    · rw [dmaD2h_unattached h hb hp hst, if_neg (by simp [hbad])]
      refine ⟨⟨_, by rw [dmaEnds, liveRec_modLive, if_pos rfl, dmaReady_live h]; rfl, rfl, rfl, rfl, rfl⟩, ?_⟩
      rw [dmaReady_modLive (by decide)]
      exact dmaEnds_only _ _ _ _ (by decide) (modLive_frame tag _ s)
    · rw [dmaD2h_attached h hb hp hst hspec hfits]
      refine ⟨?_, updStall_only _ (by decide) (by decide) (by decide) (by decide)
        (dmaEnds_only _ _ _ _ (by decide) (modStp_only _ (by decide) (frame.mono (by decide))))⟩
      rw [updStall_hold, dmaEnds, modLive_stp, modStp_stp, ready]
      rfl
  · obtain ⟨ended, only⟩ := MayEnd.endsWith ⟨hl, hup, hres, hseals⟩ (Only.rfl' flowParts s) l.status l.detail l.result
    exact ⟨_, exec_dmaDone hl hn hlo hhi hrun haux hw, ended, only.mono (by decide)⟩

end Sys2Proof.Machine
end

section
/-!
Tiles and the posts of tokens (R158 to R166, R231, R236, R237, R258, R261 of 04 and 06).
-/
namespace Sys2Proof.Machine

/-! ## Cores, slots and launches after an update -/

@[simp] theorem coreRec_modCore (c d : Nat) (f : Core → Core) (s : State) :
    coreRec (modCore c f s) d = if d = c then f (coreRec s c) else coreRec s d := get_upd ({} : Core) s.cor.cores c d f
@[simp] theorem coreRec_modSlot_other {c d : Nat} (h : d ≠ c) (k : Nat) (f : CSlot → CSlot) (s : State) :
    coreRec (modSlot c k f s) d = coreRec s d := (coreRec_modCore c d _ s).trans (if_neg h)
@[simp] theorem resident_modSlot (c k d : Nat) (f : CSlot → CSlot) (s : State) : (coreRec (modSlot c k f s) d).slot = (coreRec s d).slot := by
  rw [modSlot, coreRec_modCore]
  split
  · next h => rw [h]
  · rfl
@[simp] theorem slotRec_modSlot (c k d j : Nat) (f : CSlot → CSlot) (s : State) :
    slotRec (modSlot c k f s) d j = if d = c ∧ j = k then f (slotRec s c k) else slotRec s d j := by
  rw [slotRec, modSlot, coreRec_modCore]
  by_cases h : d = c
  · simp only [h, if_true, true_and, get_upd]
    rfl
  · simp only [h, if_false, false_and]
    rfl
@[simp] theorem coreRec_modLaunch (tag : Nat) (f : Launch → Launch) (s : State) (d : Nat) : coreRec (modLaunch tag f s) d = coreRec s d := rfl
@[simp] theorem slotRec_modLaunch (tag : Nat) (f : Launch → Launch) (s : State) (d j : Nat) :
    slotRec (modLaunch tag f s) d j = slotRec s d j := rfl
@[simp] theorem launchRec_modSlot (c k : Nat) (f : CSlot → CSlot) (s : State) (t : Nat) : launchRec (modSlot c k f s) t = launchRec s t := rfl
theorem coreRec_of_cores {s u : State} (h : u.cor.cores = s.cor.cores) (d : Nat) : coreRec u d = coreRec s d := by
  rw [coreRec, h, coreRec]
theorem slotRec_of_cores {s u : State} (h : u.cor.cores = s.cor.cores) (d k : Nat) : slotRec u d k = slotRec s d k := by
  rw [slotRec, coreRec_of_cores h, slotRec]
theorem launchRec_of_launches {s u : State} (h : u.cor.launches = s.cor.launches) (t : Nat) : launchRec u t = launchRec s t := by
  rw [launchRec, h, launchRec]

/-- A launch's record after a change that keeps its tag. -/
theorem launchRec_modLaunch {tag : Nat} {f : Launch → Launch} (hf : ∀ l, (f l).tag = l.tag) (s : State) (t : Nat) :
    launchRec (modLaunch tag f s) t = (launchRec s t).map (fun l => if l.tag = tag then f l else l) := by
  rw [launchRec, modLaunch, modCor_cor, List.find?_map, launchRec]
  congr 2
  funext l
  simp only [Function.comp_apply]
  split
  · rw [hf]
  · rfl
theorem launchRec_tag {s : State} {t : Nat} {l : Launch} (h : launchRec s t = some l) : l.tag = t :=
  of_decide_eq_true (List.find?_some (p := fun m : Launch => decide (m.tag = t)) h)
theorem launchRec_modLaunch_same {tag : Nat} {f : Launch → Launch} {s : State} {l : Launch} (h : launchRec s tag = some l)
    (hf : ∀ l, (f l).tag = l.tag := by intro _; rfl) : launchRec (modLaunch tag f s) tag = some (f l) := by
  rw [launchRec_modLaunch hf, h, Option.map_some, if_pos (launchRec_tag h)]

/-! ## What a fault leaves on record stands (R259, R261) -/

/-- The parts of the state other than the compute dies, of those the end of a launch touches. -/
def offCor : List Part := [.free, .out, .mem, .hif, .pln, .col, .stp, .rck, .cel, .tim, .dbg, .book]

/-- The cores' fault registers are as in `a`, and a launch that is gone there is gone. -/
structure FaultStands (a s : State) : Prop where
  info : ∀ c, (coreRec s c).fltInfo = (coreRec a c).fltInfo
  count : ∀ c, (coreRec s c).fltCount = (coreRec a c).fltCount
  gone : ∀ t, launchRec a t = none → launchRec s t = none

namespace FaultStands
variable {a s : State}

theorem refl (a : State) : FaultStands a a := ⟨fun _ => rfl, fun _ => rfl, fun _ h => h⟩
theorem of_cor {u : State} (h : FaultStands a s) (e : u.cor = s.cor) : FaultStands a u where
  info c := by rw [coreRec_of_cores (congrArg Cor.cores e), h.info]
  count c := by rw [coreRec_of_cores (congrArg Cor.cores e), h.count]
  gone t ht := by rw [launchRec_of_launches (congrArg Cor.launches e), h.gone t ht]
theorem of_only {u : State} (h : FaultStands a s) (k : Only offCor s u) : FaultStands a u := h.of_cor (k .cor (by decide))
theorem modCor {f : Cor → Cor} (h : FaultStands a s) (hc : (f s.cor).cores = s.cor.cores := by rfl)
    (hl : (f s.cor).launches ⊆ s.cor.launches := by exact List.Subset.refl _) : FaultStands a (modCor f s) where
  info c := by rw [coreRec_of_cores hc, h.info]
  count c := by rw [coreRec_of_cores hc, h.count]
  gone t ht := List.find?_eq_none.mpr (fun l m => List.find?_eq_none.mp (h.gone t ht) l (hl m))
theorem modCore {f : Core → Core} (h : FaultStands a s) (c : Nat) (hi : ∀ x, (f x).fltInfo = x.fltInfo := by intro _; rfl)
    (hn : ∀ x, (f x).fltCount = x.fltCount := by intro _; rfl) : FaultStands a (modCore c f s) where
  info d := by
    rw [coreRec_modCore, ← h.info]
    split
    · next e => rw [hi, e]
    · rfl
  count d := by
    rw [coreRec_modCore, ← h.count]
    split
    · next e => rw [hn, e]
    · rfl
  gone := h.gone
theorem modSlot {f : CSlot → CSlot} (h : FaultStands a s) (c k : Nat) : FaultStands a (modSlot c k f s) :=
  FaultStands.modCore h c
theorem modLaunch {f : Launch → Launch} (h : FaultStands a s) (tag : Nat) (hf : ∀ l, (f l).tag = l.tag := by intro _; rfl) :
    FaultStands a (modLaunch tag f s) where
  info := h.info
  count := h.count
  gone t ht := by rw [launchRec_modLaunch hf, h.gone t ht, Option.map_none]
theorem forS {α : Type} {l : List α} {f : α → State → State} (h : FaultStands a s) (hf : ∀ q x, FaultStands a x → FaultStands a (f q x)) :
    FaultStands a (forS l f s) := forS_holds (FaultStands a) (fun q _ => hf q) h

/-- Both branches of a test keep the record. -/
theorem if_ok {p : Prop} [Decidable p] {x y : State} (hx : FaultStands a x) (hy : FaultStands a y) : FaultStands a (if p then x else y) := by
  split
  · exact hx
  · exact hy

theorem settlePreempt (h : FaultStands a s) (c : Nat) : FaultStands a (settlePreempt c s) := by
  unfold Machine.settlePreempt
  dsimp only
  split
  · exact FaultStands.modCor (h.modCore c)
  · exact h
theorem settleCore (h : FaultStands a s) (c : Nat) : FaultStands a (settleCore c s) := (FaultStands.modCore h c).settlePreempt c
theorem settleCores (h : FaultStands a s) : FaultStands a (settleCores s) := h.forS (fun c _ hx => hx.settleCore c)
theorem cntRestore (h : FaultStands a s) (r : List CntRec) : FaultStands a (cntRestore r s) := h.forS (fun _ _ hx => hx.modSlot _ _)
theorem stopPart (h : FaultStands a s) (tag : Nat) (p : LPart) : FaultStands a (stopPart tag p s) := (h.modSlot p.core p.slot).of_cor rfl
theorem dropLaunch (h : FaultStands a s) (tag : Nat) : FaultStands a (dropLaunch tag s) := by
  unfold Machine.dropLaunch
  split
  · exact h
  · exact FaultStands.modCor (h.forS (fun p _ hx => hx.stopPart tag p)) (hl := by exact List.filter_subset_self _)
theorem latchPart (h : FaultStands a s) (tag c : Nat) : FaultStands a (latchPart tag c s) :=
  FaultStands.modCore (FaultStands.modLaunch h tag) c
theorem tallyPart (h : FaultStands a s) (err : Bool) (tag c : Nat) : FaultStands a (tallyPart err tag c s) := by
  unfold Machine.tallyPart
  extract_lets s0
  have h0 : FaultStands a s0 := by
    unfold s0
    split
    · split
      · exact if_ok (h.latchPart tag c) h
      · exact h
    · exact h
  clear_value s0
  split
  · split
    · exact h0.of_only (postTally_only _ _ _ (by decide) (by decide) (tallyBody_only _ _ _ _ _ (by decide) (Only.rfl' _ s0)))
    · exact h0
  · exact h0

theorem discard (h : FaultStands a s) (t n reason origin : Nat) : FaultStands a (discard t n reason origin s) := by
  unfold Machine.discard
  dsimp only
  split
  · exact h.of_only (dropAhead_only t n (by decide) (by decide) (Only.rfl' _ s))
  · next first _ _ =>
    refine FaultStands.of_only (FaultStands.cntRestore ?restored first.record)
      (updStall_only t (by decide) (by decide) (by decide) (by decide) (settleFrees_only t (by decide) (by decide)
      (noteT_only t _ _ _ (by decide) (by decide) (by decide) (forS_only _ _ (fun e x hx => ?ended) (modTstep_only t _ (by decide)
      (modRck_only _ (by decide) (modPln_only _ (by decide) (modStp_only _ (by decide) (dropTrigs_only t n (by decide)
      (dropColls_only t n (by decide) (undoHandles_only t n (by decide) (by decide) (Only.rfl' _ _))))))))))))
    case restored =>
      refine FaultStands.modCor (FaultStands.of_only (FaultStands.settleCores ?_) (dropTallies_only t n (by decide) (Only.rfl' _ _)))
      exact h.forS (fun l _ hx => hx.dropLaunch l.tag)
    case ended =>
      split
      · exact ite_only (completeNow_only _ _ _ _ (by decide) (by decide) hx) hx
      · exact ite_only (completeNow_only _ _ _ _ (by decide) (by decide) hx)
          (ite_only (completeNow_only _ _ _ _ (by decide) (by decide) hx) hx)
theorem failStep (h : FaultStands a s) (t n reason : Nat) : FaultStands a (failStep t n reason s) := by
  unfold Machine.failStep
  split
  · exact h
  · have noted := h.of_only (noteT_only t 0x0900 (tenCoord s t) (n + reason * 2 ^ 48) (by decide) (by decide) (by decide) (Only.rfl' _ s))
    refine (FaultStands.discard noted t n reason (tenCoord s t)).of_only (ite_only (upMsg_only _ (by decide) ?staged) ?staged)
    exact modCel_only _ (by decide) (Only.rfl' _ _)

theorem trySeal (h : FaultStands a s) (t : Nat) : FaultStands a (trySeal t s) := by
  refine h.forS (fun r x hx => ?_)
  split
  · exact hx
  · split
    · exact hx
    · next tag _ _ l _ =>
      have held (f : StepRec → StepRec) : FaultStands a (modStep t r.num f (finish tag stOK 0 0 x)) :=
        hx.of_only (modStep_only t r.num f (by decide) (finish_only tag stOK 0 0 (by decide) (by decide) (Only.rfl' _ x)))
      dsimp only
      split
      · split
        · exact (held _).failStep t r.num 3
        · split
          · next f _ => exact (held _).failStep t r.num f
          · split
            · exact held _
            · exact FaultStands.of_only (held _) (upMsg_only _ (by decide) (modStep_only t r.num _ (by decide) (Only.rfl' _ _)))
      · exact hx
theorem done (h : FaultStands a s) (tag status detail result : Nat) : FaultStands a (done tag status detail result s) := by
  unfold Machine.done
  split
  · exact h
  · exact ((h.of_only (finish_only tag status detail result (by decide) (by decide) (Only.rfl' _ s))).trySeal _).of_only
      (settleFrees_only _ (by decide) (by decide) (Only.rfl' _ _))

end FaultStands

/-! ## A launch that a fault ends (R258, R259, R261) -/

theorem launchRec_dropLaunch (tag : Nat) (s : State) : launchRec (dropLaunch tag s) tag = none := by
  unfold dropLaunch
  split
  · assumption
  · refine List.find?_eq_none.mpr (fun l hl => ?_)
    simpa using (List.mem_filter.mp hl).2

/-- The launch of a tag is gone, and core c has noted the fault. -/
structure Faulted (tag c info n : Nat) (u : State) : Prop where
  gone : launchRec u tag = none
  info : (coreRec u c).fltInfo = info
  count : (coreRec u c).fltCount = n

theorem FaultStands.failLaunch {a s : State} (h : FaultStands a s) (tag status detail result : Nat) :
    FaultStands a (failLaunch tag status detail result s) := by
  unfold Machine.failLaunch
  split
  · exact h
  · refine FaultStands.done (FaultStands.settleCores (FaultStands.dropLaunch (h.forS (fun p x hx => ?_)) tag)) tag status detail result
    exact (hx.tallyPart true tag p.core).of_only (drainTrace_only p.core (by decide) (by decide) (by decide) (Only.rfl' _ _))
theorem failLaunch_gone (tag status detail result : Nat) (s : State) : launchRec (failLaunch tag status detail result s) tag = none := by
  unfold failLaunch
  split
  · assumption
  · exact ((FaultStands.refl _).settleCores.done tag status detail result).gone tag (launchRec_dropLaunch tag _)
theorem faultLaunch_faults {tag : Nat} {l : Launch} {s : State} (h : launchRec s tag = some l) (c code op plot status detail : Nat) :
    Faulted tag c (code * 2 ^ 24 + op * 2 ^ 16 + l.tenant) (satAdd 32 (coreRec s c).fltCount 1)
      (faultLaunch tag c code op plot status detail s) := by
  simp only [faultLaunch, h]
  have stands := (FaultStands.refl (noteFlt c code op l.tenant plot s)).failLaunch tag status detail
    (plot % 2 ^ 32 + op * 2 ^ 32 + c * 2 ^ 40)
  exact ⟨failLaunch_gone _ _ _ _ _, by rw [stands.info, noteFlt, coreRec_modCore, if_pos rfl],
    by rw [stands.count, noteFlt, coreRec_modCore, if_pos rfl]⟩

/-! ## What counting and pre-emption leave of the tiles and tokens (R176 to R179, R262) -/

/-- Two records of a slot hold the same tokens, tiles, flags and count of bad posts. -/
structure CSlot.SameTiles (x y : CSlot) : Prop where
  cnts : y.cnts = x.cnts
  pools : y.pools = x.pools
  queue : y.queue = x.queue
  flags : y.flags = x.flags
  badPost : y.badPost = x.badPost

theorem CSlot.SameTiles.refl (x : CSlot) : CSlot.SameTiles x x := ⟨rfl, rfl, rfl, rfl, rfl⟩
theorem CSlot.SameTiles.trans {x y z : CSlot} (h : CSlot.SameTiles x y) (k : CSlot.SameTiles y z) : CSlot.SameTiles x z :=
  ⟨k.cnts.trans h.cnts, k.pools.trans h.pools, k.queue.trans h.queue, k.flags.trans h.flags, k.badPost.trans h.badPost⟩

/-- From `a` to `s` only core c may differ, and that neither in its resident slot nor in the tiles and tokens of a slot; the launches
are those of `a`. -/
structure Steady (c : Nat) (a s : State) : Prop where
  others : ∀ d, d ≠ c → coreRec s d = coreRec a d
  resident : (coreRec s c).slot = (coreRec a c).slot
  slots : ∀ k, CSlot.SameTiles (slotRec a c k) (slotRec s c k)
  launches : s.cor.launches = a.cor.launches

namespace Steady
variable {c : Nat} {a s : State}

theorem refl (c : Nat) (a : State) : Steady c a a := ⟨fun _ _ => rfl, rfl, fun _ => .refl _, rfl⟩
theorem of_cores {u : State} (h : Steady c a s) (e : u.cor.cores = s.cor.cores) (l : u.cor.launches = s.cor.launches) : Steady c a u where
  others d hd := by rw [coreRec_of_cores e, h.others d hd]
  resident := by rw [coreRec_of_cores e, h.resident]
  slots k := by
    rw [slotRec_of_cores e]
    exact h.slots k
  launches := l.trans h.launches
theorem of_cor {u : State} (h : Steady c a s) (e : u.cor = s.cor) : Steady c a u := h.of_cores (by rw [e]) (by rw [e])
theorem modCore {f : Core → Core} (h : Steady c a s) (hr : ∀ x, (f x).slot = x.slot := by intro _; rfl)
    (hs : ∀ x, (f x).slots = x.slots := by intro _; rfl) : Steady c a (modCore c f s) where
  others d hd := by rw [coreRec_modCore, if_neg hd, h.others d hd]
  resident := by rw [coreRec_modCore, if_pos rfl, hr, h.resident]
  slots k := by
    have same : slotRec (Machine.modCore c f s) c k = slotRec s c k := by rw [slotRec, coreRec_modCore, if_pos rfl, hs, slotRec]
    rw [same]
    exact h.slots k
  launches := h.launches
theorem modSlot {f : CSlot → CSlot} (h : Steady c a s) (k : Nat) (hf : ∀ x, CSlot.SameTiles x (f x)) : Steady c a (modSlot c k f s) where
  others d hd := by rw [coreRec_modSlot_other hd, h.others d hd]
  resident := by rw [resident_modSlot, h.resident]
  slots j := by
    rw [slotRec_modSlot]
    split
    · next e =>
      rw [e.2]
      exact (h.slots k).trans (hf _)
    · exact h.slots j
  launches := h.launches

theorem count (h : Steady c a s) (set i n : Nat) : Steady c a (count c set i n s) := by
  unfold Machine.count
  split
  · exact Steady.modCore h
  · exact h
theorem modCor {f : Cor → Cor} (h : Steady c a s) (hc : (f s.cor).cores = s.cor.cores := by rfl)
    (hl : (f s.cor).launches = s.cor.launches := by rfl) : Steady c a (modCor f s) := h.of_cores hc hl
theorem settlePreempt (h : Steady c a s) : Steady c a (settlePreempt c s) := by
  unfold Machine.settlePreempt
  dsimp only
  split
  · exact Steady.modCor (Steady.modCore h)
  · exact h
theorem preempt (h : Steady c a s) (k : Nat) : Steady c a (preempt c k s) := by
  refine Steady.settlePreempt (Steady.modCore (h.modSlot _ (fun x => ?_)))
  exact ⟨rfl, rfl, rfl, rfl, rfl⟩
theorem preemptOnWait (h : Steady c a s) : Steady c a (preemptOnWait c s) := by
  unfold Machine.preemptOnWait
  dsimp only
  split
  · split
    · exact h.preempt _
    · exact h
  · exact h
/-- A post that sets out changes no core but its counters. -/
theorem makePost (h : Steady c a s) (t k : Nat) (step : Option Nat) (p : Post) : Steady c a (makePost t (some (c, k)) step p s) := by
  unfold Machine.makePost
  split
  · exact h
  · exact Steady.count (Steady.modCor h) 2 4 1
theorem forS {α : Type} {l : List α} {f : α → State → State} (h : Steady c a s) (hf : ∀ q x, Steady c a x → Steady c a (f q x)) :
    Steady c a (forS l f s) := forS_holds (Steady c a) (fun q _ => hf q) h
/-- Both branches of a test leave the core steady. -/
theorem if_ok {p : Prop} [Decidable p] {x y : State} (hx : Steady c a x) (hy : Steady c a y) : Steady c a (if p then x else y) := by
  split
  · exact hx
  · exact hy
theorem countMoves (h : Steady c a s) (b : List Byte) (o : TileOut) : Steady c a (countMoves c b o s) := by
  unfold Machine.countMoves
  split
  · next f _ =>
    dsimp only
    refine Steady.forS (Steady.forS ?terraces (fun q x hx => ?place)) (fun q x hx => if_ok hx (hx.count 1 12 _))
    case terraces => exact if_ok (if_ok (h.count 1 4 _) h |>.count 1 5 _) (if_ok (h.count 1 4 _) h)
    case place =>
      split
      · exact if_ok (hx.count 1 8 _) (if_ok (hx.count 1 6 _) (hx.count 1 7 _))
      · exact hx
  · exact h

theorem launchRec_eq (h : Steady c a s) (t : Nat) : launchRec s t = launchRec a t := launchRec_of_launches h.launches t
/-- The same tiles and tokens stand in every slot of every core. -/
theorem tiles (h : Steady c a s) (d k : Nat) : CSlot.SameTiles (slotRec a d k) (slotRec s d k) := by
  by_cases hd : d = c
  · rw [hd]
    exact h.slots k
  · rw [slotRec, slotRec, h.others d hd]
    exact .refl _

end Steady

/-! ## Tokens are added (R159, R165) -/

/-- A slot whose counter or pool i holds v. -/
def CSlot.holding (pool : Bool) (i v : Nat) (x : CSlot) : CSlot :=
  { x with cnts := if pool then x.cnts else Map.set 0 x.cnts i v, pools := if pool then Map.set 0 x.pools i v else x.pools }
/-- What a counter or pool of a slot holds. -/
def CSlot.held (pool : Bool) (i : Nat) (x : CSlot) : Nat := if pool then Map.get 0 x.pools i else Map.get 0 x.cnts i
/-- The state in which counter or pool i of slot k of core c has gained n, saturating. -/
def gained (c k : Nat) (pool : Bool) (i n : Nat) (s : State) : State :=
  modSlot c k (CSlot.holding pool i (min ((slotRec s c k).held pool i + n) 65535)) s
/-- `addCnt` adds, and notes an overflow beside it. -/
theorem addCnt_eq (c k : Nat) (pool : Bool) (i n : Nat) (s : State) :
    addCnt c k pool i n s = if 65535 < (slotRec s c k).held pool i + n then
      noteWork (slotTen s c k) (slotStep s c (slotTen s c k)) 0x0400 c (k + i * 256 + b2n pool * 0x10000)
        (count c 2 6 1 (modSlot c k (fun x => { x with overflow := satAdd 16 x.overflow 1 }) (gained c k pool i n s)))
      else gained c k pool i n s := rfl

/-- From `s` to `u` counter or pool i of slot k of core c has gained n, and no other token, no tile and no other core differs. -/
structure Gains (c k : Nat) (pool : Bool) (i n : Nat) (s u : State) : Prop where
  cnts : ∀ j, Map.get 0 (slotRec u c k).cnts j =
    if pool = false ∧ j = i then min (Map.get 0 (slotRec s c k).cnts j + n) 65535 else Map.get 0 (slotRec s c k).cnts j
  pools : ∀ j, Map.get 0 (slotRec u c k).pools j =
    if pool = true ∧ j = i then min (Map.get 0 (slotRec s c k).pools j + n) 65535 else Map.get 0 (slotRec s c k).pools j
  others : ∀ d, d ≠ c → coreRec u d = coreRec s d
  queues : ∀ j, (slotRec u c j).queue = (slotRec s c j).queue
  slots : ∀ j, j ≠ k → (slotRec u c j).cnts = (slotRec s c j).cnts ∧ (slotRec u c j).pools = (slotRec s c j).pools

theorem gains_of_steady {c k i n : Nat} {pool : Bool} {s u : State} (h : Steady c (gained c k pool i n s) u) : Gains c k pool i n s u := by
  unfold gained at h
  have own := h.slots k
  rw [slotRec_modSlot, if_pos ⟨rfl, rfl⟩] at own
  refine ⟨fun j => ?_, fun j => ?_, fun d hd => ?_, fun j => ?_, fun j hj => ?_⟩
  · rw [own.cnts]
    cases pool
    · simp only [CSlot.holding, CSlot.held, Bool.false_eq_true, if_false, get_set, true_and]
      split
      · next e => rw [e]
      · rfl
    · rfl
  · rw [own.pools]
    cases pool
    · rfl
    · simp only [CSlot.holding, CSlot.held, if_true, get_set, true_and]
      split
      · next e => rw [e]
      · rfl
  · rw [h.others d hd, coreRec_modSlot_other hd]
  · rw [(h.slots j).queue, slotRec_modSlot]
    split
    · next e => rw [e.2, CSlot.holding]
    · rfl
  · have other := h.slots j
    rw [slotRec_modSlot, if_neg (fun e => hj e.2)] at other
    exact ⟨other.cnts, other.pools⟩

theorem noteWork_cor (t : Nat) (step : Option Nat) (code subject detail : Nat) (s : State) :
    (noteWork t step code subject detail s).cor = s.cor :=
  noteWork_only (fr := offCor) t step code subject detail (by decide) (by decide) (by decide) (by decide) (Only.rfl' _ s) .cor (by decide)
theorem addCnt_steady (c k : Nat) (pool : Bool) (i n : Nat) (s : State) :
    Steady c (gained c k pool i n s) (addCnt c k pool i n s) := by
  rw [addCnt_eq]
  split
  · refine Steady.of_cor (Steady.count (Steady.modSlot (Steady.refl c _) k (fun x => ?_)) 2 6 1) (noteWork_cor _ _ _ _ _ _)
    exact ⟨rfl, rfl, rfl, rfl, rfl⟩
  · exact Steady.refl c _
theorem postCnt_steady (c k : Nat) (pool : Bool) (i n : Nat) (s : State) :
    Steady c (gained c k pool i n s) (postCnt c k pool i n s) := by
  refine (addCnt_steady c k pool i n s).modSlot k (fun x => ?_)
  exact ⟨rfl, rfl, rfl, rfl, rfl⟩

/-! ## Posts on their way (R158, R165, R236) -/

@[simp] theorem count_flight (c set i n : Nat) (s : State) : (count c set i n s).cor.flight = s.cor.flight := by
  unfold count
  split <;> rfl
@[simp] theorem addCnt_flight (c k : Nat) (pool : Bool) (i n : Nat) (s : State) : (addCnt c k pool i n s).cor.flight = s.cor.flight := by
  rw [addCnt_eq]
  split
  · rw [noteWork_cor, count_flight]
    rfl
  · rfl
@[simp] theorem settlePreempt_flight (c : Nat) (s : State) : (settlePreempt c s).cor.flight = s.cor.flight := by
  unfold settlePreempt
  dsimp only
  split <;> rfl
@[simp] theorem preemptOnWait_flight (c : Nat) (s : State) : (preemptOnWait c s).cor.flight = s.cor.flight := by
  unfold preemptOnWait
  dsimp only
  split
  · split
    · exact settlePreempt_flight c _
    · rfl
  · rfl

section
variable {f : FPost} {s : State}

theorem landPost_reaches {k : Nat} (hc : f.post.core < numCores s) (hk : slotOf s f.post.core f.tenant = some k) :
    landPost f s = count f.post.core 2 5 1 (postCnt f.post.core k f.post.pool f.post.idx f.post.count s) := by simp [landPost, hc, hk]

variable (stray : f.post.core < numCores s → slotOf s f.post.core f.tenant = none)
include stray

theorem landPost_stray {c k : Nat} (hsrc : f.src = some (c, k)) :
    landPost f s = noteWork f.tenant f.step 0x0401 c (k + f.post.idx * 256 + b2n f.post.pool * 0x10000)
      (count c 2 6 1 (modSlot c k (fun x => { x with badPost := satAdd 16 x.badPost 1 }) s)) := by
  have unreached : (if f.post.core < numCores s then slotOf s f.post.core f.tenant else none) = none := ite_eq_right_iff.mpr stray
  simp [landPost, unreached, hsrc]
theorem landPost_stray_unsourced (hsrc : f.src = none) :
    landPost f s = noteWork f.tenant f.step 0x0401 f.post.core (f.post.idx * 256 + b2n f.post.pool * 0x10000) s := by
  have unreached : (if f.post.core < numCores s then slotOf s f.post.core f.tenant else none) = none := ite_eq_right_iff.mpr stray
  simp [landPost, unreached, hsrc]

end

/-! ## A token post arrives (R158, R159, R165) -/

/-- The state in which a post has left its place among those on their way. -/
def postTaken (i : Nat) (s : State) : State := modCor (fun x => { x with flight := x.flight.eraseIdx i }) s

section
variable {i : Nat} {f : FPost} {s : State}

theorem exec_tokenPost (hf : s.cor.flight[i]? = some f) (hn : nclkOn s = true) :
    exec (.tokenPost i) s = .next (preemptOnWait f.post.core (landPost f (postTaken i s))) := by
  show execTokenPost i s = _
  simp [execTokenPost, hf, hn, postTaken]
/-- The frame of an arrival. -/
theorem landPost_frame (f : FPost) (i c : Nat) (s : State) :
    Only [.out, .hif, .cor, .stp, .book] s (preemptOnWait c (landPost f (postTaken i s))) :=
  preemptOnWait_only c (by decide) (landPost_only f (by decide) (by decide) (by decide) (by decide) (by decide)
    (modCor_only _ (by decide) (Only.rfl' _ s)))

theorem tokenPost_reaches {k : Nat} (hf : s.cor.flight[i]? = some f) (hn : nclkOn s = true) (hc : f.post.core < numCores s)
    (hk : slotOf s f.post.core f.tenant = some k) :
    Completes (.tokenPost i) s (fun u => u.cor.flight = s.cor.flight.eraseIdx i ∧
      Gains f.post.core k f.post.pool f.post.idx f.post.count s u ∧ Only [.out, .hif, .cor, .stp, .book] s u) := by
  refine ⟨_, exec_tokenPost hf hn, ?_, ?_, landPost_frame f i f.post.core s⟩
  · rw [preemptOnWait_flight, landPost_reaches (s := postTaken i s) hc hk, count_flight, postCnt]
    exact addCnt_flight _ _ _ _ _ _
  · rw [landPost_reaches (s := postTaken i s) hc hk]
    obtain ⟨cnts, pools, others, queues, slots⟩ := gains_of_steady
      ((postCnt_steady f.post.core k f.post.pool f.post.idx f.post.count (postTaken i s)).count 2 5 1).preemptOnWait
    exact ⟨cnts, pools, others, queues, slots⟩

/-- A post for a core where its tenant has no slot is counted by the slot it came from, and by none where no slot sent it. -/
theorem landPost_strays (stray : f.post.core < numCores s → slotOf s f.post.core f.tenant = none) :
    (landPost f s).cor.flight = s.cor.flight ∧
    (∀ d j, (slotRec (landPost f s) d j).cnts = (slotRec s d j).cnts ∧ (slotRec (landPost f s) d j).pools = (slotRec s d j).pools ∧
      (slotRec (landPost f s) d j).queue = (slotRec s d j).queue) ∧
    (∀ c k, f.src = some (c, k) → (slotRec (landPost f s) c k).badPost = satAdd 16 (slotRec s c k).badPost 1) := by
  cases hsrc : f.src with
  | none =>
    rw [landPost_stray_unsourced stray hsrc]
    have same := noteWork_cor f.tenant f.step 0x0401 f.post.core (f.post.idx * 256 + b2n f.post.pool * 0x10000) s
    refine ⟨congrArg Cor.flight same, fun d j => ?_, fun c k hck => nomatch hck⟩
    rw [slotRec_of_cores (congrArg Cor.cores same)]
    exact ⟨rfl, rfl, rfl⟩
  | some src =>
    obtain ⟨c, k⟩ := src
    rw [landPost_stray stray hsrc]
    refine ⟨?_, fun d j => ?_, fun c' k' hck => ?_⟩
    · rw [noteWork_cor, count_flight]
      rfl
    all_goals rw [slotRec_of_cores (congrArg Cor.cores (noteWork_cor _ _ _ _ _ _))]
    · have counted := (Steady.refl c (modSlot c k (fun x => { x with badPost := satAdd 16 x.badPost 1 }) s)).count 2 6 1
      obtain ⟨cnts, pools, queue, -, -⟩ := counted.tiles d j
      rw [cnts, pools, queue, slotRec_modSlot]
      split
      · next e =>
        rw [e.1, e.2]
        exact ⟨rfl, rfl, rfl⟩
      · exact ⟨rfl, rfl, rfl⟩
    · cases hck
      rw [(((Steady.refl c _).count 2 6 1).slots k).badPost, slotRec_modSlot, if_pos ⟨rfl, rfl⟩]

theorem tokenPost_strays (hf : s.cor.flight[i]? = some f) (hn : nclkOn s = true)
    (stray : f.post.core < numCores s → slotOf s f.post.core f.tenant = none) :
    Completes (.tokenPost i) s (fun u => u.cor.flight = s.cor.flight.eraseIdx i ∧
      (∀ d j, (slotRec u d j).cnts = (slotRec s d j).cnts ∧ (slotRec u d j).pools = (slotRec s d j).pools ∧
        (slotRec u d j).queue = (slotRec s d j).queue) ∧
      (∀ c k, f.src = some (c, k) → (slotRec u c k).badPost = satAdd 16 (slotRec s c k).badPost 1) ∧
      Only [.out, .hif, .cor, .stp, .book] s u) := by
  obtain ⟨flight, kept, counted⟩ := landPost_strays (s := postTaken i s) stray
  have tiles := ((Steady.refl f.post.core (landPost f (postTaken i s))).preemptOnWait).tiles
  refine ⟨_, exec_tokenPost hf hn, ?_, fun d j => ?_, fun c k hsrc => ?_, landPost_frame f i f.post.core s⟩
  · rw [preemptOnWait_flight, flight]
    rfl
  · obtain ⟨cnts, pools, queue⟩ := kept d j
    exact ⟨(tiles d j).cnts.trans cnts, (tiles d j).pools.trans pools, (tiles d j).queue.trans queue⟩
  · exact (tiles c k).badPost.trans (counted c k hsrc)

end

/-! ## A tile fires (R161, R162, R166, R237, R258) -/

/-- A slot whose tile i has taken its tokens and fires with a block. -/
def CSlot.fire (i : Nat) (q : QTile) (b : List Byte) (x : CSlot) : CSlot :=
  { takeTokens q x with queue := x.queue.modify i (fun y => { y with fired := true, blk := b, wrote := false }) }
/-- The state in which tile i of core c's resident slot has fired. -/
def firedState (c i : Nat) (q : QTile) (s : State) : State :=
  modLaunch q.launch (fun l => { l with tables := (l.tables ++ tablesOf (blockAt s c q.line)).eraseDups })
    (modSlot c (coreRec s c).slot (CSlot.fire i q (blockAt s c q.line)) s)

/-- Tile i, `q` of launch `l`, is the one that core c fires next. -/
structure FiresNext (c i : Nat) (q : QTile) (l : Launch) (s : State) : Prop where
  running : (coreRec s c).st = .running
  fence : s.err.fence = false
  clock : nclkOn s = true
  cores : memb 5 s.boot.drained = false
  arrays : memb 6 s.boot.drained = false
  next : nextTile s (slotRec s c (coreRec s c).slot) = some i
  tile : (slotRec s c (coreRec s c).slot).queue[i]? = some q
  launch : launchRec s q.launch = some l

section
variable {c i : Nat} {q : QTile} {l : Launch} {s : State} (h : FiresNext c i q l s)
include h

theorem FiresNext.sound (hf : tileFault (tileCtx s c l) (blockAt s c q.line) = none) :
    tileFire c s = preemptOnWait c (promoteRows ((xferRows (blockAt s c q.line)).1 ++ (xferRows (blockAt s c q.line)).2)
      (if q.refire then count c 0 26 1 (firedState c i q s) else firedState c i q s)) := by
  obtain ⟨running, fence, clock, cores, arrays, next, tile, launch⟩ := h
  simp only [tileFire, running, fence, clock, cores, arrays, next, tile, launch, hf, Bool.false_eq_true, not_false_eq_true, and_self, if_true,
    Option.map_some, Option.getD_some]
  rfl
theorem FiresNext.faulty {e : Nat} (hf : tileFault (tileCtx s c l) (blockAt s c q.line) = some e) :
    tileFire c s = faultLaunch q.launch c e (fieldAt (blockAt s c q.line) 0 1) q.plot 0x0300 e
      (if e = 0x04 then s else firedState c i q s) := by
  obtain ⟨running, fence, clock, cores, arrays, next, tile, launch⟩ := h
  simp only [tileFire, running, fence, clock, cores, arrays, next, tile, launch, hf, Bool.false_eq_true, not_false_eq_true, and_self, if_true,
    Option.map_some, Option.getD_some]
  rfl

/-- A tile without a fault takes its tokens and is in flight; handle pages it needs may start to move. -/
theorem FiresNext.fires (hf : tileFault (tileCtx s c l) (blockAt s c q.line) = none) :
    Steady c (firedState c i q s) (tileFire c s) ∧ Only [.cor, .pln] s (tileFire c s) := by
  have counted (x : State) : Steady c x (if q.refire then count c 0 26 1 x else x) :=
    Steady.if_ok ((Steady.refl c x).count 0 26 1) (.refl c x)
  rw [h.sound hf]
  constructor
  · refine Steady.preemptOnWait ((counted _).of_cor ?_)
    exact promoteRows_only (fr := [.pln]) _ (by decide) (Only.rfl' _ _) .cor (by decide)
  · have fired : Only [.cor, .pln] s (firedState c i q s) := modLaunch_only _ _ (by decide) (modSlot_only _ _ _ (by decide) (Only.rfl' _ s))
    exact preemptOnWait_only c (by decide) (promoteRows_only _ (by decide) (ite_only (count_only c 0 26 1 (by decide) fired) fired))

theorem FiresNext.faults {e : Nat} (hf : tileFault (tileCtx s c l) (blockAt s c q.line) = some e) :
    Faulted q.launch c (e * 2 ^ 24 + fieldAt (blockAt s c q.line) 0 1 * 2 ^ 16 + l.tenant) (satAdd 32 (coreRec s c).fltCount 1)
      (tileFire c s) := by
  rw [h.faulty hf]
  split
  · exact faultLaunch_faults h.launch c _ _ _ _ _
  · have launch : launchRec (firedState c i q s) q.launch =
        some { l with tables := (l.tables ++ tablesOf (blockAt s c q.line)).eraseDups } := launchRec_modLaunch_same h.launch
    have untouched : (coreRec (firedState c i q s) c).fltCount = (coreRec s c).fltCount := by
      rw [firedState, coreRec_modLaunch, modSlot, coreRec_modCore, if_pos rfl]
    rw [← untouched]
    exact faultLaunch_faults launch c _ _ _ _ _

end

/-! ## A tile completes (R164, R231, R236) -/

/-- A slot from which tile i has gone, with the flags it raised. -/
def CSlot.retire (i flags : Nat) (x : CSlot) : CSlot := { x with queue := x.queue.eraseIdx i, flags := x.flags ||| flags }
/-- A launch with one more tile completed, and the flags it raised. -/
def Launch.tileDone (flags : Nat) (l : Launch) : Launch := { l with tiles := satAdd 32 l.tiles 1, flags := l.flags ||| flags }
/-- A slot whose tile i has made its writes. -/
def CSlot.wrote (i : Nat) (x : CSlot) : CSlot := { x with queue := x.queue.modify i (fun y => { y with wrote := true }) }
/-- The state in which tile i of slot k, in flight, has made its writes (R164, R360). -/
def writtenState (c k i : Nat) (q : QTile) (l : Launch) (o : TileOut) (s : State) : State :=
  forS ((xferRows q.blk).1 ++ (xferRows q.blk).2) (fun r => countAccess (dieOfCore c) r.1 r.2.1 r.2.2)
    (tileWrites c l o (modSlot c k (CSlot.wrote i) s))
/-- The state in which it has left the queue and its launch has counted it. -/
def retiredState (c k i : Nat) (q : QTile) (o : TileOut) (s : State) : State :=
  modSlot c k (CSlot.retire i o.flags.toByte.toNat) (modLaunch q.launch (Launch.tileDone o.flags.toByte.toNat)
    (forS o.counts (fun n s => count c 0 n.1 n.2 s) (countMoves c q.blk o s)))

theorem writtenState_only (c k i : Nat) (q : QTile) (l : Launch) (o : TileOut) (s : State) :
    Only [.mem, .pln, .rck, .pwr] (modSlot c k (CSlot.wrote i) s) (writtenState c k i q l o s) :=
  forS_only _ _ (fun r _ hx => countAccess_only _ r.1 r.2.1 r.2.2 (by decide) hx)
    (tileWrites_only c l o (by decide) (by decide) (by decide) (by decide) (Only.rfl' _ _))
theorem writtenState_cor (c k i : Nat) (q : QTile) (l : Launch) (o : TileOut) (s : State) :
    (writtenState c k i q l o s).cor = (modSlot c k (CSlot.wrote i) s).cor := writtenState_only c k i q l o s .cor (by decide)

/-- While a plot runs on a core its part does not end (R231). -/
theorem endPart_plot {tag c : Nat} {l : Launch} {p : LPart} {s : State} (hl : launchRec s tag = some l)
    (hp : l.parts.find? (fun p => decide (p.core = c)) = some p) (hplot : p.plot ≠ none) : endPart tag c s = s := by
  simp [endPart, hl, hp, hplot]

section
variable {c k i : Nat} {q : QTile} {l : Launch} {p : LPart} {s : State} (o : TileOut)

theorem counts_steady (c : Nat) (b : List Byte) (s : State) :
    Steady c s (forS o.counts (fun n s => count c 0 n.1 n.2 s) (countMoves c b o s)) :=
  ((Steady.refl c s).countMoves b o).forS (fun n _ hx => hx.count 0 n.1 n.2)
theorem retiredState_slot (c k i : Nat) (q : QTile) (s : State) :
    CSlot.SameTiles (CSlot.retire i o.flags.toByte.toNat (slotRec s c k)) (slotRec (retiredState c k i q o s) c k) := by
  obtain ⟨cnts, pools, queue, flags, badPost⟩ := (counts_steady o c q.blk s).slots k
  rw [retiredState, slotRec_modSlot, if_pos ⟨rfl, rfl⟩, slotRec_modLaunch]
  exact ⟨cnts, pools, congrArg (List.eraseIdx · i) queue, congrArg (· ||| o.flags.toByte.toNat) flags, badPost⟩

variable (hl : launchRec s q.launch = some l)
include hl

theorem launchRec_retiredState : launchRec (retiredState c k i q o s) q.launch = some (l.tileDone o.flags.toByte.toNat) := by
  rw [retiredState, launchRec_modSlot]
  exact launchRec_modLaunch_same (((counts_steady o c q.blk s).launchRec_eq _).trans hl)
theorem retireTile_retires (hp : l.parts.find? (fun p => decide (p.core = c)) = some p) (hplot : p.plot ≠ none) :
    Steady c (retiredState c k i q o s) (retireTile c k i q l o s) ∧ Only [.cor] s (retireTile c k i q l o s) := by
  have posts := ((Steady.refl c (retiredState c k i q o s)).makePost l.tenant k l.step
    (postOf q.hdr 10)).makePost l.tenant k l.step (postOf q.hdr 13)
  have ends := endPart_plot ((posts.launchRec_eq q.launch).trans (launchRec_retiredState o hl)) hp hplot
  have retires : retireTile c k i q l o s = makePost l.tenant (some (c, k)) l.step (postOf q.hdr 13)
      (makePost l.tenant (some (c, k)) l.step (postOf q.hdr 10) (retiredState c k i q o s)) := ends
  rw [retires]
  refine ⟨posts, makePost_only _ _ _ _ (by decide) (makePost_only _ _ _ _ (by decide) (modSlot_only _ _ _ (by decide)
    (modLaunch_only _ _ (by decide) (forS_only _ _ (fun n _ hx => count_only c 0 n.1 n.2 (by decide) hx)
      (countMoves_only c q.blk o (by decide) (Only.rfl' _ s))))))⟩

end

/-- A tile in flight, all of whose pages are open and sound, makes its writes now and retires. -/
structure CompletesNow (c i k : Nat) (q : QTile) (l : Launch) (p : LPart) (s : State) : Prop where
  running : (coreRec s c).st = .running ∨ (coreRec s c).st = .preempting
  clock : nclkOn s = true
  resident : k = (coreRec s c).slot
  tile : (slotRec s c k).queue[i]? = some q
  launch : launchRec s q.launch = some l
  fired : q.fired = true
  unwritten : q.wrote = false
  present : rowsT2 s ((xferRows q.blk).1 ++ (xferRows q.blk).2) = false
  sources : ∀ r ∈ (xferRows q.blk).1, poisonedIn s r.1 r.2.1 r.2.2 = []
  targets : ∀ r ∈ (xferRows q.blk).2, rmwPoison s r.1 r.2.1 r.2.2 = []
  part : l.parts.find? (fun p => decide (p.core = c)) = some p
  plot : p.plot ≠ none

section
variable {c i k : Nat} {q : QTile} {l : Launch} {p : LPart} {s : State} (h : CompletesNow c i k q l p s)
include h

theorem CompletesNow.retires (hw : writesWait (writtenState c k i q l (runTile (tileCtx s c l) q.blk) s) (2 ^ 20 + c) = false) :
    tileComplete c i s = settlePreempt c (retireTile c k i q l (runTile (tileCtx s c l) q.blk)
      (writtenState c k i q l (runTile (tileCtx s c l) q.blk) s)) := by
  obtain ⟨running, clock, resident, tile, launch, fired, unwritten, present, sources, targets, -, -⟩ := h
  subst resident
  have sound : (xferRows q.blk).1.flatMap (fun r => (poisonedIn s r.1 r.2.1 r.2.2).map (fun a => (r.1, a)))
      ++ (xferRows q.blk).2.flatMap (fun r => (rmwPoison s r.1 r.2.1 r.2.2).map (fun a => (r.1, a))) = [] := by
    rw [List.append_eq_nil_iff, List.flatMap_eq_nil_iff, List.flatMap_eq_nil_iff]
    exact ⟨fun r hr => by rw [sources r hr, List.map_nil], fun r hr => by rw [targets r hr, List.map_nil]⟩
  simp only [tileComplete, running, clock, tile, launch, fired, unwritten, present, sound, and_self, if_true, not_true_eq_false, if_false,
    Option.map_some, Option.getD_some, Bool.false_eq_true, List.head?_nil]
  exact if_neg (Bool.eq_false_iff.mp hw)

/-- It makes exactly its writes, and leaves its queue with its flags and its launch's count (R164, R231). -/
theorem CompletesNow.completes {o : TileOut} (ho : o = runTile (tileCtx s c l) q.blk)
    (hw : writesWait (writtenState c k i q l o s) (2 ^ 20 + c) = false) :
    Completes (.tileComplete c i) s (fun u =>
      u.mem = (writtenState c k i q l o s).mem ∧
      CSlot.SameTiles (CSlot.retire i o.flags.toByte.toNat (CSlot.wrote i (slotRec s c k))) (slotRec u c k) ∧
      launchRec u q.launch = some (l.tileDone o.flags.toByte.toNat) ∧ Only [.mem, .pln, .rck, .pwr, .cor] s u) := by
  subst ho
  have cor := writtenState_cor c k i q l (runTile (tileCtx s c l) q.blk) s
  have launch := (launchRec_of_launches (congrArg Cor.launches cor) q.launch).trans h.launch
  have slot : slotRec (writtenState c k i q l (runTile (tileCtx s c l) q.blk) s) c k = CSlot.wrote i (slotRec s c k) := by
    rw [slotRec_of_cores (congrArg Cor.cores cor), slotRec_modSlot, if_pos ⟨rfl, rfl⟩]
  obtain ⟨steady, frame⟩ := retireTile_retires (k := k) (i := i) (runTile (tileCtx s c l) q.blk) launch h.part h.plot
  have after := steady.settlePreempt
  have only := settlePreempt_only c (by decide) frame
  refine ⟨_, congrArg Host.Outcome.next (h.retires hw), only .mem (by decide), ?_, ?_, ?_⟩
  · rw [← slot]
    exact (retiredState_slot _ c k i q _).trans (after.slots k)
  · exact (after.launchRec_eq q.launch).trans (launchRec_retiredState _ launch)
  · exact (((modSlot_only c k _ (by decide) (Only.rfl' _ s)).trans ((writtenState_only c k i q l _ s).mono (by decide))).trans
      (only.mono (by decide)))

end

/-- Settles O29: a tile that fires is `FiresNext.fires` or, at a fault, `FiresNext.faults`; one that completes is `CompletesNow.completes`;
a post that arrives is `tokenPost_reaches` or `tokenPost_strays`. -/
theorem tilesAndPosts : Obligations.TilesAndPosts := by
  refine ⟨fun c i q l s running fence clock cores arrays next tile launch => ?_,
    fun c i k q l p o s s1 running clock resident tile launch fired unwritten present sources targets ho hs1 hw part plot => ?_,
    fun i k f s hf hn hc hk => ?_, fun i f s hf hn stray => tokenPost_strays hf hn stray⟩
  · have h : FiresNext c i q l s := ⟨running, fence, clock, cores, arrays, next, tile, launch⟩
    refine ⟨_, rfl, fun sound => ?_, fun e fault => ?_⟩
    · obtain ⟨steady, only⟩ := h.fires sound
      have slot := steady.slots (coreRec s c).slot
      rw [firedState, slotRec_modLaunch, slotRec_modSlot, if_pos ⟨rfl, rfl⟩] at slot
      refine ⟨slot.cnts, slot.pools, slot.queue, fun d hd => ?_, only⟩
      rw [steady.others d hd, firedState, coreRec_modLaunch, coreRec_modSlot_other hd]
    · obtain ⟨gone, info, count⟩ := h.faults fault
      exact ⟨gone, info, count⟩
  · have h : CompletesNow c i k q l p s :=
      ⟨running, clock, resident, tile, launch, fired, unwritten, present, sources, targets, part, plot⟩
    have written : s1 = writtenState c k i q l o s := hs1
    rw [written] at hw ⊢
    obtain ⟨u, next, mem, slot, counted, only⟩ := h.completes ho hw
    exact ⟨u, next, mem, slot.queue, slot.flags, ⟨_, counted, rfl, rfl⟩, only⟩
  · obtain ⟨u, next, flight, ⟨cnts, pools, others, queues, slots⟩, only⟩ := tokenPost_reaches hf hn hc hk
    exact ⟨u, next, flight, cnts, pools, others, fun j => ⟨queues j, slots j⟩, only⟩

end Sys2Proof.Machine
end

section
/-!
The order of the addends of a Barrel sum (R213, R214, R219 of 05).
-/
namespace Sys2Proof.Machine

/-- The state of a sum asks only which states occur among the addends (R214). -/
theorem sumState_perm {l k : List SumState} (h : l.Perm k) : sumState l = sumState k := by
  unfold sumState
  rw [h.any_eq (f := (· == .nan)), h.any_eq (f := (· == .pinf)), h.any_eq (f := (· == .ninf)), h.any_eq (f := (· == .range))]

/-- Settles O39: the sum is made of the addends' joint state (`sumState_perm`) and their integer total, and its range check reads
that total alone. -/
theorem barrelSumAnyOrder : Obligations.BarrelSumAnyOrder := by
  intro f l k h
  have state : sumState (l.map (·.st)) = sumState (k.map (·.st)) := sumState_perm (h.map _)
  have total : (l.map (·.v)).foldl (· + ·) 0 = (k.map (·.v)).foldl (· + ·) 0 := (h.map _).foldl_eq 0
  unfold BrlFmt.sum
  rw [state, total]

end Sys2Proof.Machine
end

section
/-!
A hart's run, its writes and wait loads of counters and pools, and its pushes of queue entries (R149, R159, R230, R234, R235 of 04 and
06).
-/
namespace Sys2Proof.Machine

/-! ## Slots and cores through pre-emption (R178, R179) -/

/-- A change of a core beside its slots. -/
theorem slotRec_modCore {f : Core → Core} (c d k : Nat) (s : State) (hs : ∀ x, (f x).slots = x.slots := by intro _; rfl) :
    slotRec (modCore c f s) d k = slotRec s d k := by
  rw [slotRec, coreRec_modCore]
  split
  · next e => rw [hs, e, slotRec]
  · rfl
/-- The times of pre-emptions are kept beside the cores. -/
theorem coreRec_preemptMax (g : Map Nat → Map Nat) (s : State) (d : Nat) :
    coreRec (modCor (fun y => { y with preemptMax := g y.preemptMax }) s) d = coreRec s d := rfl
/-- A core that pre-empts a slot with no tile in flight goes on to its swap, and nothing else of any core differs. -/
theorem coreRec_settlePreempt (c d : Nat) (s : State) :
    coreRec (settlePreempt c s) d =
      if d = c ∧ (coreRec s c).st = .preempting ∧ (slotRec s c (coreRec s c).slot).queue.any QTile.fired = false then
        { coreRec s c with st := .swapping }
      else coreRec s d := by
  by_cases h : (coreRec s c).st = .preempting ∧ (slotRec s c (coreRec s c).slot).queue.any QTile.fired = false
  · simp only [and_iff_left h]
    have swaps : settlePreempt c s = modCor (fun y => { y with
        preemptMax := Map.upd 0 y.preemptMax c (max (min 200 (nsSince s (coreRec s c).preAt / 1000))) })
        (modCore c (fun y => { y with st := .swapping }) s) := if_pos (by simpa using h)
    rw [swaps, coreRec_preemptMax (fun m => Map.upd 0 m c _), coreRec_modCore]
  · have stays : settlePreempt c s = s := if_neg (by simpa using h)
    rw [if_neg (fun e => h e.2), stays]
@[simp] theorem slotRec_settlePreempt (c d k : Nat) (s : State) : slotRec (settlePreempt c s) d k = slotRec s d k := by
  rw [slotRec, coreRec_settlePreempt]
  split
  · next e => rw [e.1, slotRec]
  · rfl

/-- A slot that has noted what it waits for. -/
def CSlot.noted (x : CSlot) : CSlot :=
  { x with waitSet := waitSetOf x, posted := accessMet x && decide (x.hart ≠ .run ∧ x.hart ≠ .off) }
theorem slotRec_preempt (c k d j : Nat) (s : State) :
    slotRec (preempt c k s) d j = if d = c ∧ j = (coreRec s c).slot then (slotRec s c j).noted else slotRec s d j := by
  rw [preempt, slotRec_settlePreempt, slotRec_modCore, slotRec_modSlot]
  split
  · next e => rw [e.2, CSlot.noted]
  · rfl
/-- Pre-emption leaves every hart at what it does. -/
@[simp] theorem hart_preemptOnWait (c d j : Nat) (s : State) : (slotRec (preemptOnWait c s) d j).hart = (slotRec s d j).hart := by
  unfold preemptOnWait
  dsimp only
  split
  · split
    · rw [slotRec_preempt]
      split
      · next e => rw [e.1, CSlot.noted]
      · rfl
    · rfl
  · rfl

/-! ## What a run changes (R149, R234) -/

section
variable {c k : Nat} {a s : State}

theorem Steady.putReg (h : Steady c a s) (off : Nat) (b : List Byte) : Steady c a (putReg c off b s) :=
  h.of_cor (putReg_only (fr := [.mem]) c off b (by decide) (Only.rfl' _ s) .cor (by decide))
theorem Steady.hartStore (h : Steady c a s) (x : Nat) (b : List Byte) : Steady c a (hartStore c k x b s) := by
  unfold Machine.hartStore
  dsimp only
  split
  · refine h.modSlot k (fun y => ?_)
    split
    · exact ⟨rfl, rfl, rfl, rfl, rfl⟩
    · split
      · exact ⟨rfl, rfl, rfl, rfl, rfl⟩
      · exact .refl y
  · exact h.forS (fun w x hx => hx.of_cor (uPut_only (fr := [.mem]) c _ w (by decide) (Only.rfl' _ x) .cor (by decide)))
theorem Steady.hartOp (h : Steady c a s) (o : HartOp) : Steady c a (hartOp c k o s) := by
  cases o with
  | load x n e d => exact h.putReg _ _
  | store x b => exact h.hartStore x b
  | amo x b e d => exact (h.putReg _ _).hartStore x b
  | reg off b => exact h.putReg off b
  | csr i d => exact h.putReg d _
  | vcsr v l f => exact h.modSlot k (fun x => ⟨rfl, rfl, rfl, rfl, rfl⟩)
  | ran n fp vec =>
    refine (((h.modSlot k (fun _ => ?_)).count 0 33 n).count 0 34 fp).count 0 35 vec
    exact ⟨rfl, rfl, rfl, rfl, rfl⟩

end

/-- A run keeps tokens, tiles and launches. -/
theorem applyRun_steady (c k : Nat) (r : HartRun) (s : State) : Steady c s (applyRun c k r s) :=
  (Steady.refl c s).forS (fun o _ hx => hx.hartOp o)
theorem applyRun_frame (c k : Nat) (r : HartRun) (s : State) : Only [.mem, .cor] s (applyRun c k r s) :=
  applyRun_only c k r (by decide) (by decide) (Only.rfl' _ s)

/-! ## A run that ends with a thing more, and accesses that are held (R149, R235) -/

/-- The hart of core c, on a plot of part `p` of launch `l` in slot k, can make run `r` now. -/
structure HartRuns (c k : Nat) (r : HartRun) (l : Launch) (p : LPart) (s : State) : Prop where
  here : hartAt s c = some (k, l, p)
  free : hartFree s c k = true
  unblocked : runWaits s c k r = false

/-- An access to be made at `me` from `s`: by a hart after a sound run, or again by one held at it; `s0` is where it is made. -/
inductive AccessFrom (c k : Nat) (r : HartRun) (me : HartSt) (s : State) : State → Prop where
  | fresh (free : hartFree s c k = true) (unblocked : runWaits s c k r = false) (sound : runFault s c (slotTen s c k) r = none) :
      AccessFrom c k r me s (applyRun c k r s)
  | again (held : (slotRec s c k).hart = me) : AccessFrom c k r me s s

section
variable {c k : Nat} {r : HartRun} {l : Launch} {p : LPart} {s : State} (f : Nat → Launch → LPart → State → State)

theorem HartRuns.sound (h : HartRuns c k r l p s) (sound : runFault s c (slotTen s c k) r = none) :
    hartDo c r f s = f k l p (applyRun c k r s) := by simp [hartDo, h.here, h.free, h.unblocked, sound]
theorem HartRuns.raises (h : HartRuns c k r l p s) {e : Nat} (raised : runFault s c (slotTen s c k) r = some e) :
    hartDo c r f s = faultLaunch l.tag c 0x10 0 (p.plot.getD 0) 0x0301 e (applyRun c k r s) := by
  simp [hartDo, h.here, h.free, h.unblocked, raised]
/-- A hart that is not held makes its run before an access. -/
theorem HartRuns.access (h : HartRuns c k r l p s) {me : HartSt} (hme : me ≠ .run) : hartAccess c me r f s = hartDo c r f s := by
  have running : (slotRec s c k).hart ≠ me := (of_decide_eq_true h.free : (slotRec s c k).hart = .run) ▸ hme.symm
  simp [hartAccess, h.here, running]
theorem AccessFrom.makes {me : HartSt} {s0 : State} (h : AccessFrom c k r me s s0) (here : hartAt s c = some (k, l, p))
    (hme : me ≠ .run) : hartAccess c me r f s = f k l p s0 := by
  cases h with
  | fresh free unblocked sound =>
    have runs : HartRuns c k r l p s := ⟨here, free, unblocked⟩
    rw [runs.access f hme, runs.sound f sound]
  | again held => simp [hartAccess, here, held]

theorem AccessFrom.steady {me : HartSt} {s0 : State} (h : AccessFrom c k r me s s0) : Steady c s s0 := by
  cases h with
  | fresh free unblocked sound => exact applyRun_steady c k r s
  | again held => exact .refl c s
theorem AccessFrom.frame {me : HartSt} {s0 : State} (h : AccessFrom c k r me s s0) : Only [.mem, .cor] s s0 := by
  cases h with
  | fresh free unblocked sound => exact applyRun_frame c k r s
  | again held => exact Only.rfl' _ s

end

/-- An access that is not met now: the hart is held at it, and its slot may give way. -/
def heldAt (c k : Nat) (me : HartSt) (s : State) : State := preemptOnWait c (modSlot c k (fun x => { x with hart := me }) s)

section
variable (c k : Nat) (me : HartSt) (s : State)

theorem heldAt_steady : Steady c s (heldAt c k me s) := by
  refine ((Steady.refl c s).modSlot k (fun _ => ?_)).preemptOnWait
  exact ⟨rfl, rfl, rfl, rfl, rfl⟩
theorem heldAt_frame : Only [.cor] s (heldAt c k me s) :=
  preemptOnWait_only c (by decide) (modSlot_only c k _ (by decide) (Only.rfl' _ s))
theorem heldAt_hart : (slotRec (heldAt c k me s) c k).hart = me := by
  rw [heldAt, hart_preemptOnWait, slotRec_modSlot, if_pos ⟨rfl, rfl⟩]

end

/-! ## A write to a counter or pool (R159, R234) -/

section
variable {cmd : Instr} {pool : Bool} {c i v k : Nat} {r : HartRun} {l : Launch} {p : LPart} {s : State}

theorem HartRuns.exec_write (h : HartRuns c k r l p s) (sound : runFault s c (slotTen s c k) r = none)
    (hcmd : (cmd = .corTiCnt c r i v ∧ pool = false ∧ i < 256) ∨ (cmd = .corTiPool c r i v ∧ pool = true ∧ i < 64)) :
    exec cmd s = .next (postCnt c k pool i (v % 65536) (applyRun c k r s)) := by
  have does (b : Bool) : tiAdd c r b i v s = postCnt c k b i (v % 65536) (applyRun c k r s) := h.sound _ sound
  obtain ⟨rfl, rfl, hi⟩ | ⟨rfl, rfl, hi⟩ := hcmd
  · show execCorTiCnt c r i v s = _
    rw [execCorTiCnt, if_pos hi, does]
  · show execCorTiPool c r i v s = _
    rw [execCorTiPool, if_pos hi, does]

end

/-! ## A wait load (R234, R235) -/

/-- The hart's state at a wait load of a counter or pool. -/
def HartSt.waitOn (pool : Bool) (i : Nat) : HartSt := if pool then .waitPool i else .waitCnt i
theorem HartSt.waitOn_ne_run (pool : Bool) (i : Nat) : HartSt.waitOn pool i ≠ .run := by cases pool <;> nofun

/-- A slot whose hart runs on with its counter or pool i at v. -/
def CSlot.loaded (pool : Bool) (i v : Nat) (x : CSlot) : CSlot := { x.holding pool i v with hart := .run }
/-- The state in which a wait load has returned v, to register rd. -/
def waitMet (c k : Nat) (pool : Bool) (i rd v : Nat) (s : State) : State :=
  modSlot c k (CSlot.loaded pool i v) (if 1 ≤ rd ∧ rd < 32 then putReg c (xReg rd) (leB 8 v) s else s)
/-- A wait load made now. -/
def waitLoad (c k : Nat) (pool : Bool) (i rd : Nat) (s : State) : State :=
  if max 1 (slotRec s c k).waitN ≤ (slotRec s c k).held pool i then
    waitMet c k pool i rd ((slotRec s c k).held pool i - max 1 (slotRec s c k).waitN) s
  else heldAt c k (HartSt.waitOn pool i) s

theorem tiWait_eq (c : Nat) (r : HartRun) (pool : Bool) (i rd : Nat) (s : State) :
    tiWait c r pool i rd s = hartAccess c (HartSt.waitOn pool i) r (fun k _ _ => waitLoad c k pool i rd) s := rfl

section
variable {cmd : Instr} {me : HartSt} {pool : Bool} {c i rd k : Nat} {r : HartRun} {l : Launch} {p : LPart} {s s0 : State}

/-- The two wait loads. -/
theorem exec_wait (hcmd : (cmd = .corTiWait c r ⟨i, rd⟩ ∧ me = .waitCnt i ∧ pool = false ∧ i < 256) ∨
      (cmd = .corTiPwait c r ⟨i, rd⟩ ∧ me = .waitPool i ∧ pool = true ∧ i < 64)) :
    me = HartSt.waitOn pool i ∧ exec cmd s = .next (tiWait c r pool i rd s) := by
  obtain ⟨rfl, rfl, rfl, hi⟩ | ⟨rfl, rfl, rfl, hi⟩ := hcmd
  · refine ⟨rfl, ?_⟩
    show execCorTiWait c r ⟨i, rd⟩ s = _
    rw [execCorTiWait, if_pos hi]
  · refine ⟨rfl, ?_⟩
    show execCorTiPwait c r ⟨i, rd⟩ s = _
    rw [execCorTiPwait, if_pos hi]

/-- Every hart register lies in the register area of the image (Table 04.5). -/
theorem putReg_xReg (c v : Nat) (hrd : rd < 32) (s : State) :
    putReg c (xReg rd) (leB 8 v) s = modMem (fun m => memWrite m (imgKey c (xReg rd)) (leB 8 v)) s := by
  have length : (leB 8 v).length = 8 := rfl
  exact if_pos (by rw [length]; unfold xReg; omega)

theorem waitMet_slot (c k : Nat) (pool : Bool) (i rd v : Nat) (s : State) :
    slotRec (waitMet c k pool i rd v s) c k = (slotRec s c k).loaded pool i v := by
  rw [waitMet, slotRec_modSlot, if_pos ⟨rfl, rfl⟩]
  split
  · next h => rw [putReg_xReg c v h.2 s]; rfl
  · rfl
theorem waitMet_mem (c k : Nat) (pool : Bool) (i rd v : Nat) (s : State) :
    (waitMet c k pool i rd v s).mem = if 1 ≤ rd ∧ rd < 32 then memWrite s.mem (imgKey c (xReg rd)) (leB 8 v) else s.mem := by
  show (if 1 ≤ rd ∧ rd < 32 then putReg c (xReg rd) (leB 8 v) s else s).mem = _
  split
  · next h => rw [putReg_xReg c v h.2 s]; rfl
  · rfl
theorem waitMet_frame (c k : Nat) (pool : Bool) (i rd v : Nat) (s : State) : Only [.mem, .cor] s (waitMet c k pool i rd v s) :=
  modSlot_only c k _ (by decide) (ite_only (putReg_only c _ _ (by decide) (Only.rfl' _ s)) (Only.rfl' _ s))

/-- What a slot's counters and pools read when one of them holds v. -/
theorem CSlot.loaded_cnts (pool : Bool) (i v j : Nat) (x : CSlot) :
    Map.get 0 (x.loaded pool i v).cnts j = if pool = false ∧ j = i then v else Map.get 0 x.cnts j := by
  cases pool <;> simp [CSlot.loaded, CSlot.holding]
theorem CSlot.loaded_pools (pool : Bool) (i v j : Nat) (x : CSlot) :
    Map.get 0 (x.loaded pool i v).pools j = if pool = true ∧ j = i then v else Map.get 0 x.pools j := by
  cases pool <;> simp [CSlot.loaded, CSlot.holding]

end

/-! ## A push of a queue entry (R235, R253) -/

/-- The entry a push appends. -/
def entryOf (s : State) (c k line : Nat) (l : Launch) (p : LPart) : QTile :=
  { hdr := (slotRec s c k).hdr, line := line % 65536, launch := l.tag, plot := p.plot.getD 0,
    blk := blockAt s c (line % 65536), rng := blockAt s c (line % 65536) }

section
variable {c k line : Nat} {r : HartRun} {l : Launch} {p : LPart} {s s0 : State}

theorem pushTile_slot :
    slotRec (pushTile c k line l p s) c k =
      { slotRec s c k with hart := .run, queue := (slotRec s c k).queue ++ [entryOf s c k line l p] } := by
  rw [pushTile, slotRec_modSlot, if_pos ⟨rfl, rfl⟩]
  rfl

theorem AccessFrom.exec_push (h : AccessFrom c k r (.waitPush line) s s0) (here : hartAt s c = some (k, l, p)) :
    exec (.corTiPush c r line) s =
      .next (if (slotRec s0 c k).queue.length < 64 then pushTile c k line l p s0 else heldAt c k (.waitPush line) s0) :=
  congrArg Host.Outcome.next (h.makes _ here nofun)

end

/-- Settles O30: the run is `applyRun_steady`; a write is a post, whose `Gains` are those of O29; a wait load made from `s0` is
`waitLoad`, a push there appends or is held (`heldAt`). -/
theorem hartTokens : Obligations.HartTokens := by
  refine ⟨fun cmd pool c i v k r l p s hcmd here free unblocked sound => ?_,
    fun cmd me pool c i rd k n v r l p s s0 hcmd here made hn hv => ?_,
    fun c line k r l p s s0 here made => ?_⟩
  · have runs : HartRuns c k r l p s := ⟨here, free, unblocked⟩
    have tiles := (applyRun_steady c k r s).slots k
    obtain ⟨cnts, pools, -, queues, -⟩ := gains_of_steady (postCnt_steady c k pool i (v % 65536) (applyRun c k r s))
    have posted : Only [.out, .hif, .cor, .stp, .book] (applyRun c k r s) (postCnt c k pool i (v % 65536) (applyRun c k r s)) :=
      postCnt_only c k pool i _ (by decide) (by decide) (by decide) (by decide) (by decide) (Only.rfl' _ _)
    refine ⟨_, runs.exec_write sound hcmd, fun j => ?_, fun j => ?_, ?_, posted .mem (by decide), ?_⟩
    · rw [cnts, tiles.cnts]
    · rw [pools, tiles.pools]
    · rw [queues, tiles.queue]
    · exact ((applyRun_frame c k r s).mono (by decide)).trans (posted.mono (by decide))
  · obtain ⟨rfl, does⟩ := exec_wait (s := s) hcmd
    have access : AccessFrom c k r (HartSt.waitOn pool i) s s0 := by
      obtain ⟨free, unblocked, sound, rfl⟩ | ⟨held, rfl⟩ := made
      · exact .fresh free unblocked sound
      · exact .again held
    have tiles := access.steady.slots k
    have hv : (slotRec s0 c k).held pool i = v := by rw [hv, CSlot.held, tiles.cnts, tiles.pools]
    rw [tiWait_eq, access.makes _ here (HartSt.waitOn_ne_run pool i), waitLoad, hv, ← hn] at does
    refine ⟨_, does, fun enough => ?_, fun short => ?_, ?_⟩
    · rw [if_pos enough, waitMet_slot, waitMet_mem]
      refine ⟨rfl, fun j => ?_, fun j => ?_, rfl⟩
      · rw [CSlot.loaded_cnts, tiles.cnts]
      · rw [CSlot.loaded_pools, tiles.pools]
    · rw [if_neg (Nat.not_le.mpr short)]
      have kept := (heldAt_steady c k (HartSt.waitOn pool i) s0).slots k
      exact ⟨heldAt_hart c k _ s0, kept.cnts.trans tiles.cnts, kept.pools.trans tiles.pools, heldAt_frame c k _ s0 .mem (by decide)⟩
    · exact access.frame.trans (ite_only (waitMet_frame c k pool i rd _ s0) ((heldAt_frame c k _ s0).mono (by decide)))
  · have access : AccessFrom c k r (.waitPush line) s s0 := by
      obtain ⟨free, unblocked, sound, rfl⟩ | ⟨held, rfl⟩ := made
      · exact .fresh free unblocked sound
      · exact .again held
    have queue := (access.steady.slots k).queue
    have pushed : Only [.cor] s0 (if (slotRec s0 c k).queue.length < 64 then pushTile c k line l p s0 else heldAt c k (.waitPush line) s0) :=
      ite_only (pushTile_only c k line l p (by decide) (Only.rfl' _ s0)) (heldAt_frame c k _ s0)
    refine ⟨_, access.exec_push here, fun room => ?_, fun full => ?_, pushed .mem (by decide), access.frame.trans (pushed.mono (by decide))⟩
    · rw [if_pos (by rw [queue]; exact room), pushTile_slot, queue]
      exact ⟨rfl, entryOf s0 c k line l p, rfl, rfl, rfl, rfl, rfl, rfl, rfl⟩
    · rw [if_neg (by rw [queue]; exact Nat.not_lt.mpr full)]
      exact ⟨heldAt_hart c k _ s0, ((heldAt_steady c k _ s0).slots k).queue.trans queue⟩

end Sys2Proof.Machine
end

section
/-!
What memory reads after a range of it is zeroed or copied, and bytes in blocks of eight (R9, R102, R182).
-/
namespace Sys2Proof.Machine

/-! ## Zeroed and copied ranges -/

/-- A test on keys alone hides the entries it refuses. -/
theorem find_filter_key {α : Type} (p : Nat → Bool) (m : Map α) (k : Nat) :
    Map.find (m.filter (fun e => p e.1)) k = if p k then Map.find m k else none := by
  induction m with
  | nil => simp [Map.find]
  | cons e r ih =>
    obtain ⟨j, v⟩ := e
    by_cases hk : k = j
    · subst hk
      cases hp : p k <;> simp [Map.find, hp, ih]
    · cases hp : p j <;> simp [Map.find, hp, hk, ih]
theorem memGet_zero (m : List Host.Cell) (a n q : Nat) : memGet (memZero m a n) q = if a ≤ q ∧ q < a + n then 0 else memGet m q := by
  unfold memGet Map.get memZero
  rw [find_filter_key (fun x => decide (x < a) || decide (a + n ≤ x))]
  by_cases h : a ≤ q ∧ q < a + n
  · rw [if_neg (by simp; omega), if_pos h]
    rfl
  · rw [if_pos (by simp; omega), if_neg h]

theorem find_below {α : Type} {m : Map α} {lo k : Nat} (h : Map.risesFrom lo m = true) (hk : k < lo) : Map.find m k = none := by
  induction m generalizing lo with
  | nil => rfl
  | cons e r ih =>
    obtain ⟨j, v⟩ := e
    obtain ⟨hj, hr⟩ : lo ≤ j ∧ Map.risesFrom (j + 1) r = true := by simpa [Map.risesFrom] using h
    rw [Map.find, if_neg (by omega), ih hr (by omega)]
/-- Cells moved to a new place are read there. -/
theorem memGet_moved {src dst lo : Nat} {l : List Host.Cell} (hl : Map.risesFrom lo l = true) (hsrc : ∀ e ∈ l, src ≤ e.1)
    (acc : List Host.Cell) (i : Nat) :
    memGet (l.foldl (fun acc e => memSet acc (e.1 - src + dst) e.2) acc) (dst + i) = (Map.find l (src + i)).getD (memGet acc (dst + i)) := by
  induction l generalizing acc lo with
  | nil => rfl
  | cons e r ih =>
    obtain ⟨j, v⟩ := e
    obtain ⟨-, hr⟩ : lo ≤ j ∧ Map.risesFrom (j + 1) r = true := by simpa [Map.risesFrom] using hl
    have hj : src ≤ j := hsrc _ List.mem_cons_self
    rw [List.foldl_cons, ih hr (fun e he => hsrc e (List.mem_cons_of_mem _ he)), Map.find, memGet_set]
    by_cases here : src + i = j
    · rw [if_pos here, if_pos (by omega), find_below hr (by omega)]
      rfl
    · rw [if_neg here, if_neg (by omega)]
/-- A copy is not seen outside its destination. -/
theorem memGet_copy_outside {m : List Host.Cell} {src dst n q : Nat} (hq : q < dst ∨ dst + n ≤ q) :
    memGet (memCopy m src dst n) q = memGet m q := by
  have zeroed : memGet (memZero m dst n) q = memGet m q := by rw [memGet_zero, if_neg (by omega)]
  have moved (l : List Host.Cell) (hl : ∀ e ∈ l, src ≤ e.1 ∧ e.1 < src + n) (acc : List Host.Cell) :
      memGet (l.foldl (fun acc e => memSet acc (e.1 - src + dst) e.2) acc) q = memGet acc q := by
    induction l generalizing acc with
    | nil => rfl
    | cons e r ih =>
      have he := hl e List.mem_cons_self
      rw [List.foldl_cons, ih (fun x hx => hl x (List.mem_cons_of_mem _ hx)), memGet_set, if_neg (by omega)]
  rw [memCopy, moved _ (fun e he => by simpa using (List.mem_filter.mp he).2), zeroed]
/-- A copy reads at its destination what its source held, even where the two overlap. -/
theorem memGet_copy {m : List Host.Cell} (hm : memWf m = true) (src dst : Nat) {n i : Nat} (hi : i < n) :
    memGet (memCopy m src dst n) (dst + i) = memGet m (src + i) := by
  obtain ⟨rises, -⟩ : Map.wf m = true ∧ noZero m = true := by simpa [memWf] using hm
  rw [memCopy, memGet_moved (risesFrom_filter _ m 0 rises) (fun e he => (by simpa using (List.mem_filter.mp he).2 : _ ∧ _).1),
    find_filter_key (fun x => decide (src ≤ x) && decide (x < src + n)), if_pos (by simp; omega), memGet_zero, if_pos (by omega)]
  rfl

/-! ## Ranges that read alike -/

theorem memRead_congr {m m' : List Host.Cell} {a a' n : Nat} (h : ∀ i, i < n → memGet m (a + i) = memGet m' (a' + i)) :
    memRead m a n = memRead m' a' n := by
  induction n generalizing a a' with
  | zero => rfl
  | succ n ih =>
    have tails := ih (a := a + 1) (a' := a' + 1) (fun i hi => by
      have next := h (i + 1) (by omega)
      rwa [show a + 1 + i = a + (i + 1) by omega, show a' + 1 + i = a' + (i + 1) by omega])
    rw [memRead, memRead, tails]
    congr 1
    simpa using h 0 (by omega)
/-- A range reads the bytes that stand in it. -/
theorem memRead_bytes {m : List Host.Cell} {a : Nat} {bs : List Byte} (h : ∀ i, i < bs.length → memGet m (a + i) = bs.getD i 0) :
    memRead m a bs.length = bs := by
  induction bs generalizing a with
  | nil => rfl
  | cons b r ih =>
    rw [List.length_cons, memRead, ih (fun i hi => by
      rw [show a + 1 + i = a + (i + 1) by omega, h (i + 1) (by simpa using hi), List.getD_cons_succ])]
    congr 1
    simpa using h 0 (by simp)
theorem memGet_write_outside {m : List Host.Cell} {a q : Nat} {bs : List Byte} (hq : q < a ∨ a + bs.length ≤ q) :
    memGet (memWrite m a bs) q = memGet m q := by rw [memGet_write, if_neg (by omega)]

/-! ## Numbers in blocks of eight bytes -/

theorem leB_length (n x : Nat) : (leB n x).length = n := by
  induction n generalizing x with
  | zero => rfl
  | succ n ih => rw [leB, List.length_cons, ih]
theorem getD_blocks (l : List Nat) (f : Nat → Nat) {j i : Nat} (hj : j < l.length) (hi : i < 8) :
    (l.flatMap (fun x => leB 8 (f x))).getD (8 * j + i) 0 = (leB 8 (f l[j])).getD i 0 := by
  induction l generalizing j with
  | nil => cases hj
  | cons x r ih =>
    rw [List.flatMap_cons]
    cases j with
    | zero =>
      rw [List.getD_append _ _ _ _ (by rw [leB_length]; omega)]
      congr 1
      omega
    | succ j =>
      rw [List.getD_append_right _ _ _ _ (by rw [leB_length]; omega), leB_length, show 8 * (j + 1) + i - 8 = 8 * j + i by omega,
        ih (by simpa using hj)]
      rfl

end Sys2Proof.Machine
end

section
/-!
The parts of a launch, the start of a plot, and the start of a launch on a core (R176, R228, R229 of 04 and 06).
-/
namespace Sys2Proof.Machine

/-! ## The part of a launch on a core -/

/-- A launch whose part on core c is changed. -/
def Launch.onCore (c : Nat) (f : LPart → LPart) (l : Launch) : Launch :=
  { l with parts := l.parts.map (fun p => if p.core = c then f p else p) }
/-- The part on core c after a change that keeps its core. -/
theorem find_onCore {f : LPart → LPart} (c : Nat) (l : Launch) (hf : ∀ p, (f p).core = p.core := by intro _; rfl) :
    (l.onCore c f).parts.find? (fun p => decide (p.core = c)) = (l.parts.find? (fun p => decide (p.core = c))).map f := by
  have core : ((fun p : LPart => decide (p.core = c)) ∘ fun p => if p.core = c then f p else p) = fun p => decide (p.core = c) := by
    funext p
    simp only [Function.comp_apply]
    split
    · rw [hf]
    · rfl
  rw [Launch.onCore, List.find?_map, core]
  cases h : l.parts.find? (fun p => decide (p.core = c)) with
  | none => rfl
  | some p =>
    have here : p.core = c := by simpa using List.find?_some h
    simp [here]
theorem launchRec_modPart {tag : Nat} {l : Launch} {s : State} (h : launchRec s tag = some l) (c : Nat) (f : LPart → LPart) :
    launchRec (modPart tag c f s) tag = some (l.onCore c f) := launchRec_modLaunch_same h

/-- A launch whose part has run with slot k of core c (R176). -/
def Launch.ranOn (c k : Nat) (l : Launch) : Launch :=
  { l with parts := l.parts.map (fun p => if p.core = c ∧ p.slot = k then { p with ran := true } else p) }
theorem launchRec_markRan {tag : Nat} {l : Launch} {s : State} (h : launchRec s tag = some l) (c k : Nat) :
    launchRec (markRan c k s) tag = some (l.ranOn c k) := by
  have same : launchRec (markRan c k s) tag = (launchRec s tag).map (Launch.ranOn c k) := by
    rw [launchRec, markRan, modCor_cor, List.find?_map]
    rfl
  rw [same, h]
  rfl
theorem find_ranOn (c k : Nat) (l : Launch) :
    (l.ranOn c k).parts.find? (fun p => decide (p.core = c)) =
      (l.parts.find? (fun p => decide (p.core = c))).map (fun p => if p.slot = k then { p with ran := true } else p) := by
  have core : ((fun p : LPart => decide (p.core = c)) ∘ fun p => if p.core = c ∧ p.slot = k then { p with ran := true } else p) =
      fun p => decide (p.core = c) := by
    funext p
    simp only [Function.comp_apply]
    split <;> rfl
  rw [Launch.ranOn, List.find?_map, core]
  cases h : l.parts.find? (fun p => decide (p.core = c)) with
  | none => rfl
  | some p =>
    have here : p.core = c := by simpa using List.find?_some h
    simp [here]

/-! ## What a change of a core, a slot or a launch leaves -/

@[simp] theorem modCore_mem (c : Nat) (f : Core → Core) (s : State) : (modCore c f s).mem = s.mem := rfl
@[simp] theorem modSlot_mem (c k : Nat) (f : CSlot → CSlot) (s : State) : (modSlot c k f s).mem = s.mem := rfl
@[simp] theorem modLaunch_mem (tag : Nat) (f : Launch → Launch) (s : State) : (modLaunch tag f s).mem = s.mem := rfl
@[simp] theorem modPart_mem (tag c : Nat) (f : LPart → LPart) (s : State) : (modPart tag c f s).mem = s.mem := rfl
@[simp] theorem markRan_mem (c k : Nat) (s : State) : (markRan c k s).mem = s.mem := rfl
@[simp] theorem coreRec_modPart (tag c : Nat) (f : LPart → LPart) (s : State) (d : Nat) : coreRec (modPart tag c f s) d = coreRec s d := rfl
@[simp] theorem coreRec_markRan (c k : Nat) (s : State) (d : Nat) : coreRec (markRan c k s) d = coreRec s d := rfl
@[simp] theorem coreRec_modMem (f : List Host.Cell → List Host.Cell) (s : State) (d : Nat) : coreRec (modMem f s) d = coreRec s d := rfl
@[simp] theorem slotRec_modPart (tag c : Nat) (f : LPart → LPart) (s : State) (d j : Nat) :
    slotRec (modPart tag c f s) d j = slotRec s d j := rfl
@[simp] theorem slotRec_modMem (f : List Host.Cell → List Host.Cell) (s : State) (d j : Nat) : slotRec (modMem f s) d j = slotRec s d j := rfl

/-! ## A plot begins (R229, R230) -/

/-- What hart register j holds at the start of a plot; 0 is the program counter. -/
def plotReg (entry plot arg c j : Nat) : Nat :=
  if j = 0 then entry else if j = 2 then 0x400000 else if j = 10 then plot else if j = 11 then arg else if j = 12 then c else 0
/-- A slot whose hart stands at the start of a plot. -/
def CSlot.fresh (x : CSlot) : CSlot := { x with hart := .run, vtype := 2 ^ 63, vl := 0, fcsr := 0 }
/-- A part that begins the next of its plots. -/
def LPart.begins (q : Nat) (rest : List Nat) (p : LPart) : LPart := { p with plot := some q, todo := rest }
/-- A part whose hart stops. -/
def LPart.stops (p : LPart) : LPart := { p with plot := none }

section
variable {c k entry q arg : Nat} {s : State}

theorem startPlot_eq : startPlot c k entry q arg s = modSlot c k CSlot.fresh (modMem (fun m =>
    memWrite (memZero m (imgKey c 0x410000) 0xA00) (imgKey c (xReg 0)) ((List.range 32).flatMap (fun j => leB 8 (plotReg entry q arg c j)))) s) :=
  rfl
/-- The registers of the context after a plot's start. -/
theorem memRead_startPlot {j : Nat} (hj : j < 32) :
    memRead (startPlot c k entry q arg s).mem (imgKey c (xReg j)) 8 = leB 8 (plotReg entry q arg c j) := by
  have length : ((List.range 32).flatMap (fun j => leB 8 (plotReg entry q arg c j))).length = 256 := by simp [leB_length]
  refine memRead_bytes (bs := leB 8 (plotReg entry q arg c j)) (fun i hi => ?_)
  rw [leB_length] at hi
  have place : imgKey c (xReg j) + i = imgKey c (xReg 0) + (8 * j + i) := by unfold imgKey xReg; omega
  rw [startPlot_eq, modSlot_mem, modMem_mem, place, memGet_write, if_pos (by rw [length]; omega), Nat.add_sub_cancel_left,
    getD_blocks _ _ (by simpa using hj) hi, List.getElem_range]
/-- Below the hart's registers the context stays as it was, its bed and accumulator files. -/
theorem memGet_startPlot {i : Nat} (hi : i < 0x410000) :
    memGet (startPlot c k entry q arg s).mem (imgKey c 0 + i) = memGet s.mem (imgKey c 0 + i) := by
  rw [startPlot_eq, modSlot_mem, modMem_mem, memGet_write_outside (.inl (by unfold imgKey xReg; omega)), memGet_zero,
    if_neg (by unfold imgKey; omega)]
theorem startPlot_slot : slotRec (startPlot c k entry q arg s) c k = (slotRec s c k).fresh := by
  rw [startPlot_eq, slotRec_modSlot, if_pos ⟨rfl, rfl⟩, slotRec_modMem]

variable {tag : Nat} {l : Launch} {p : LPart} (hl : launchRec s tag = some l)
  (hp : l.parts.find? (fun p => decide (p.core = c)) = some p)
include hl hp

theorem nextPlot_begins {rest : List Nat} (htodo : p.todo = q :: rest) :
    nextPlot tag c k s = startPlot c k l.entry q l.arg (modPart tag c (LPart.begins q rest) s) := by
  simp only [nextPlot, hl, hp, htodo]
  rfl
theorem nextPlot_stops (htodo : p.todo = []) :
    nextPlot tag c k s = modSlot c k (fun x => { x with hart := .off }) (modPart tag c LPart.stops s) := by
  simp only [nextPlot, hl, hp, htodo]
  rfl

end

/-! ## LAUNCH_CORE_START (R228, R229) -/

/-- A part of a launch that has not started on its core may do so: no earlier launch of the tenant is still there. -/
structure StartsOn (tag c : Nat) (l : Launch) (p : LPart) (s : State) : Prop where
  launch : launchRec s tag = some l
  part : l.parts.find? (fun p => decide (p.core = c)) = some p
  unstarted : p.started = false
  first : ∀ m ∈ s.cor.launches.takeWhile (fun m => decide (m.tag ≠ tag)), m.tenant = l.tenant →
    ∀ q ∈ m.parts, q.core = c → q.done = true
  fence : s.err.fence = false
  clock : nclkOn s = true

/-- The state in which a launch's code stands in the resident context of core c. -/
def codeCopied (c : Nat) (l : Launch) (s : State) : State :=
  countAccess (dieOfCore c) l.code 0 l.codeBytes (modMem (fun m => memCopy m (hKey l.code 0) (imgKey c 0) l.codeBytes) s)
/-- The state in which core c runs on slot k, its tile flags clear and its counters latched. -/
def coreRuns (c k : Nat) (s : State) : State :=
  modCore c (fun x => { x with st := .running, latches := x.counters }) (modSlot c k (fun y => { y with flags := 0 }) s)
/-- A part that starts. -/
def LPart.starts (now : Time) (p : LPart) : LPart := { p with started := true, startT := now }
/-- The state in which a launch has started on core c and its first plot there is still to begin. -/
def coreStarted (tag c k : Nat) (l : Launch) (s : State) : State :=
  modPart tag c (LPart.starts (nowT s))
    (modLaunch tag (Launch.begin (nowT s) (cset s .arr 0 0)) (markRan c k (coreRuns c k (codeCopied c l s))))

section
variable {tag c : Nat} {l : Launch} {p : LPart} {s : State}

theorem StartsOn.alone (h : StartsOn tag c l p s) : (s.cor.launches.takeWhile (fun m => decide (m.tag ≠ tag))).any (fun m =>
    decide (m.tenant = l.tenant) && m.parts.any (fun q => decide (q.core = c) && !q.done)) = false := by
  refine List.any_eq_false.mpr (fun m hm => ?_)
  simp only [Bool.and_eq_true, decide_eq_true_eq, List.any_eq_true, Bool.not_eq_true', not_and, not_exists]
  intro tenant q hq core
  simp [h.first m hm tenant q hq core]
/-- An idle core that holds another slot, or none, swaps to the launch's. -/
theorem StartsOn.swaps (h : StartsOn tag c l p s) (idle : (coreRec s c).st = .idle)
    (other : (coreRec s c).slot ≠ p.slot ∨ (coreRec s c).empty = true) : coreStart tag c s = beginSwap c p.slot s := by
  simp only [coreStart, h.launch, h.part, h.alone, h.unstarted, h.fence, h.clock]
  simp [idle, other]
theorem StartsOn.begins (h : StartsOn tag c l p s) (st : (coreRec s c).st = .idle ∨ (coreRec s c).st = .running)
    (slot : (coreRec s c).slot = p.slot) (held : (coreRec s c).st = .idle → (coreRec s c).empty = false)
    (present : touchesT2 s l.code 0 l.codeBytes = false) (sound : poisonedIn s l.code 0 l.codeBytes = []) :
    coreStart tag c s = nextPlot tag c p.slot (coreStarted tag c p.slot l s) := by
  have resident : ¬ ((coreRec s c).st = .idle ∧ ((coreRec s c).slot ≠ p.slot ∨ (coreRec s c).empty = true)) := by
    rintro ⟨idle, other | empty⟩
    · exact other slot
    · rw [held idle] at empty
      cases empty
  simp only [coreStart, h.launch, h.part, h.alone, h.unstarted, h.fence, h.clock, present, sound]
  rw [if_neg (by simp), if_neg resident, if_pos ⟨st, slot⟩]
  rfl

end

section
variable {tag c k : Nat} {l : Launch} {p : LPart} {s : State}

theorem codeCopied_frame : Only [.mem, .pln] s (codeCopied c l s) :=
  countAccess_only _ _ _ _ (by decide) (modMem_only _ (by decide) (Only.rfl' _ s))
theorem codeCopied_mem : (codeCopied c l s).mem = memCopy s.mem (hKey l.code 0) (imgKey c 0) l.codeBytes :=
  countAccess_only (fr := [.pln]) _ _ _ _ (by decide) (Only.rfl' _ (modMem _ s)) .mem (by decide)
theorem coreStarted_frame : Only [.mem, .pln, .cor] s (coreStarted tag c k l s) :=
  modPart_only _ _ _ (by decide) (modLaunch_only _ _ (by decide) (markRan_only _ _ (by decide) (modCore_only _ _ (by decide)
    (modSlot_only _ _ _ (by decide) (codeCopied_frame.mono (by decide))))))
theorem coreStarted_mem : (coreStarted tag c k l s).mem = (codeCopied c l s).mem := by simp [coreStarted, coreRuns]
theorem coreRec_coreStarted (d : Nat) : coreRec (coreStarted tag c k l s) d = coreRec (coreRuns c k (codeCopied c l s)) d := by
  rw [coreStarted, coreRec_modPart, coreRec_modLaunch, coreRec_markRan]
theorem coreRec_codeCopied (d : Nat) : coreRec (codeCopied c l s) d = coreRec s d :=
  coreRec_of_cores (congrArg Cor.cores (codeCopied_frame .cor (by decide))) d

/-- The launch as it stands when its part on core c, in slot k, has started. -/
def Launch.startedOn (c k : Nat) (now : Time) (cfg : Word) (l : Launch) : Launch :=
  ((l.ranOn c k).begin now cfg).onCore c (LPart.starts now)

theorem Launch.begin_eqs (now : Time) (cfg : Word) (l : Launch) :
    (l.begin now cfg).tag = l.tag ∧ (l.begin now cfg).parts = l.parts ∧ (l.begin now cfg).entry = l.entry ∧ (l.begin now cfg).arg = l.arg := by
  unfold Launch.begin
  split <;> exact ⟨rfl, rfl, rfl, rfl⟩
theorem launchRec_coreStarted (hl : launchRec s tag = some l) :
    launchRec (coreStarted tag c k l s) tag = some (l.startedOn c k (nowT s) (cset s .arr 0 0)) := by
  have copied : launchRec (coreRuns c k (codeCopied c l s)) tag = some l :=
    (launchRec_of_launches (congrArg Cor.launches (codeCopied_frame .cor (by decide))) tag).trans hl
  exact launchRec_modPart (launchRec_modLaunch_same (launchRec_markRan copied c k) (fun m => (m.begin_eqs _ _).1)) c _
theorem find_startedOn (now : Time) (cfg : Word) (hp : l.parts.find? (fun p => decide (p.core = c)) = some p) :
    (l.startedOn c p.slot now cfg).parts.find? (fun p => decide (p.core = c)) = some { p with ran := true, started := true, startT := now } := by
  rw [Launch.startedOn, find_onCore, ((l.ranOn c p.slot).begin_eqs now cfg).2.1, find_ranOn, hp, Option.map_some, if_pos rfl]
  rfl

end

/-- The state in which a launch has started on core c with plot q. -/
def plotBegun (tag c k : Nat) (l : Launch) (q : Nat) (rest : List Nat) (s : State) : State :=
  startPlot c k l.entry q l.arg (modPart tag c (LPart.begins q rest) (coreStarted tag c k l s))

section
variable {tag c q : Nat} {rest : List Nat} {l : Launch} {p : LPart} {s : State} (h : StartsOn tag c l p s)
include h

theorem StartsOn.plot (htodo : p.todo = q :: rest) : nextPlot tag c p.slot (coreStarted tag c p.slot l s) = plotBegun tag c p.slot l q rest s := by
  obtain ⟨-, -, entry, arg⟩ := (l.ranOn c p.slot).begin_eqs (nowT s) (cset s .arr 0 0)
  have begins := nextPlot_begins (k := p.slot) (launchRec_coreStarted (c := c) (k := p.slot) h.launch) (find_startedOn _ _ h.part) htodo
  rw [begins, plotBegun]
  congr 1
theorem StartsOn.plotBegun_part : ∀ m, launchRec (plotBegun tag c p.slot l q rest s) tag = some m →
    ∃ r, m.parts.find? (fun p => decide (p.core = c)) = some r ∧ r.plot = some q ∧ r.todo = rest ∧ r.started = true ∧ r.ran = true := by
  intro m hm
  have begun : launchRec (plotBegun tag c p.slot l q rest s) tag = some _ :=
    launchRec_modPart (launchRec_coreStarted (c := c) (k := p.slot) h.launch) c (LPart.begins q rest)
  cases begun.symm.trans hm
  rw [find_onCore, find_startedOn _ _ h.part]
  exact ⟨_, rfl, rfl, rfl, rfl, rfl⟩

end

section
variable {tag c k q : Nat} {rest : List Nat} {l : Launch} {s : State}

theorem plotBegun_frame : Only [.cor, .mem, .pln] s (plotBegun tag c k l q rest s) :=
  startPlot_only _ _ _ _ _ (by decide) (by decide) (modPart_only _ _ _ (by decide) (coreStarted_frame.mono (by decide)))
theorem coreRec_plotBegun_other {d : Nat} (hd : d ≠ c) : coreRec (plotBegun tag c k l q rest s) d = coreRec s d := by
  rw [plotBegun, startPlot_eq, coreRec_modSlot_other hd, coreRec_modMem, coreRec_modPart, coreRec_coreStarted, coreRuns, coreRec_modCore,
    if_neg hd, coreRec_modSlot_other hd, coreRec_codeCopied]
theorem plotBegun_running : (coreRec (plotBegun tag c k l q rest s) c).st = .running := by
  rw [plotBegun, startPlot_eq, modSlot, coreRec_modCore, if_pos rfl, coreRec_modMem, coreRec_modPart, coreRec_coreStarted, coreRuns,
    coreRec_modCore, if_pos rfl]
/-- The code stands at the bottom of the context, as it is in its handle. -/
theorem plotBegun_code (hm : memWf s.mem = true) (hn : l.codeBytes ≤ 0x410000) :
    memRead (plotBegun tag c k l q rest s).mem (imgKey c 0) l.codeBytes = hRead s l.code 0 l.codeBytes := by
  refine memRead_congr (fun i hi => ?_)
  rw [plotBegun, memGet_startPlot (by omega), modPart_mem, coreStarted_mem, codeCopied_mem, memGet_copy hm _ _ hi]

end

end Sys2Proof.Machine
end

section
/-!
LAUNCH: its checks, and the plots it gives to the cores of its tenant (R124, R225 to R227, R476, R487, R493 of 03, 06, 12 and 13).
-/
namespace Sys2Proof.Machine

/-! ## The core of a plot (R124) -/

theorem foldl_max_ge {α : Type} (f : α → Nat) (l : List α) (b : Nat) : b ≤ l.foldl (fun a x => max a (f x)) b := by
  induction l generalizing b with
  | nil => exact Nat.le_refl b
  | cons x r ih => exact (Nat.le_max_left b (f x)).trans (ih _)
/-- The greatest value is where the search began, or an element has it. -/
theorem foldl_max_attained {α : Type} (f : α → Nat) (l : List α) (b : Nat) :
    l.foldl (fun a x => max a (f x)) b = b ∨ ∃ x ∈ l, f x = l.foldl (fun a x => max a (f x)) b := by
  induction l generalizing b with
  | nil => exact .inl rfl
  | cons x r ih =>
    rw [List.foldl_cons]
    obtain e | ⟨y, hy, e⟩ := ih (max b (f x))
    · rw [e]
      obtain hb | hx := max_choice b (f x)
      · exact .inl hb
      · exact .inr ⟨x, List.mem_cons_self, hx.symm⟩
    · exact .inr ⟨y, List.mem_cons_of_mem x hy, e⟩
theorem exists_max {α : Type} (f : α → Nat) {l : List α} (hl : l ≠ []) : ∃ x ∈ l, f x = l.foldl (fun a x => max a (f x)) 0 := by
  obtain e | h := foldl_max_attained f l 0
  · cases l with
    | nil => exact absurd rfl hl
    | cons x r =>
      have least : max 0 (f x) ≤ (x :: r).foldl (fun a x => max a (f x)) 0 := foldl_max_ge f r (max 0 (f x))
      exact ⟨x, List.mem_cons_self, by omega⟩
  · exact h
/-- A search that always holds something has found something in a list that is not empty. -/
theorem foldl_choice_some {α : Type} {f : Option α → α → Option α} (hf : ∀ b x, (f b x).isSome = true) {l : List α} (hl : l ≠ []) :
    ∃ x, l.foldl f none = some x := by
  obtain ⟨r, x, rfl⟩ := List.eq_nil_or_concat l |>.resolve_left hl
  rw [List.concat_eq_append, List.foldl_append]
  exact Option.isSome_iff_exists.mp (hf _ x)
/-- Of two cores the one with fewer plots, the earlier of equals. -/
def lighter (a : Option (Nat × Nat)) (c : Nat × Nat) : Option (Nat × Nat) :=
  match a with
  | none => some c
  | some x => if c.2 < x.2 then some c else a
theorem lighter_some (a : Option (Nat × Nat)) (c : Nat × Nat) : (lighter a c).isSome = true := by
  cases a with
  | none => rfl
  | some x => rw [lighter]; split <;> rfl
theorem lighter_choice (a : Option (Nat × Nat)) (c : Nat × Nat) : lighter a c = some c ∨ lighter a c = a := by
  cases a with
  | none => exact .inl rfl
  | some x => exact ite_eq_or_eq _ _ _
/-- The cores whose die holds the most of a plot's pages. -/
def nearest (s : State) (ps : List Nat) (cores : List (Nat × Nat)) : List (Nat × Nat) :=
  cores.filter (fun c => decide (inDie s ps (dieOfCore c.1) = cores.foldl (fun a c => max a (inDie s ps (dieOfCore c.1))) 0))
theorem coreOfPlot_eq (s : State) (ps : List Nat) (cores : List (Nat × Nat)) :
    coreOfPlot s ps cores = ((nearest s ps cores).foldl lighter none).map Prod.fst := rfl
/-- A plot finds a core among those there are. -/
theorem coreOfPlot_mem (s : State) (ps : List Nat) {cores : List (Nat × Nat)} (hc : cores ≠ []) :
    ∃ c ∈ cores.map Prod.fst, coreOfPlot s ps cores = some c := by
  obtain ⟨x, hx, most⟩ := exists_max (fun c : Nat × Nat => inDie s ps (dieOfCore c.1)) hc
  have found : nearest s ps cores ≠ [] := List.ne_nil_of_mem (List.mem_filter.mpr ⟨hx, decide_eq_true most⟩)
  obtain ⟨y, hy⟩ := foldl_choice_some lighter_some found
  have member := (foldl_choice_mem lighter_choice hy).resolve_right nofun
  exact ⟨y.1, List.mem_map_of_mem (List.mem_filter.mp member).1, by rw [coreOfPlot_eq, hy]; rfl⟩

/-! ## The plots of a launch (R124, R226) -/

/-- The table of assignments after one more plot. -/
def assignOne (s : State) (t : Nat) (d : List Byte) (acc : List (Nat × List Nat)) (i : Nat) : List (Nat × List Nat) :=
  match coreOfPlot s (if lMapEn d then plotPages s t (lMap d) i else []) (acc.map (fun c => (c.1, c.2.length))) with
  | some c => acc.map (fun x => if x.1 = c then (x.1, x.2 ++ [lFirst d + i]) else x)
  | none => acc
theorem assignPlots_eq (s : State) (t : Nat) (d : List Byte) :
    assignPlots s t d = (List.range (lPlots d)).foldl (assignOne s t d) ((launchCores s t).map (fun c => (c.1, []))) := rfl

/-- One more plot for one of distinct cores is one more in all. -/
theorem sum_give {c q : Nat} {acc : List (Nat × List Nat)} (hn : (acc.map Prod.fst).Nodup) (hc : c ∈ acc.map Prod.fst) :
    ((acc.map (fun x => if x.1 = c then (x.1, x.2 ++ [q]) else x)).map (fun x => x.2.length)).sum =
      (acc.map (fun x => x.2.length)).sum + 1 := by
  induction acc with
  | nil => cases hc
  | cons x r ih =>
    obtain ⟨hx, hr⟩ := List.nodup_cons.mp hn
    simp only [List.map_cons, List.sum_cons]
    by_cases here : x.1 = c
    · have rest : r.map (fun x => if x.1 = c then (x.1, x.2 ++ [q]) else x) = r :=
        (List.map_congr_left (fun y hy => if_neg (fun e => hx (by rw [here, ← e]; exact List.mem_map_of_mem hy)))).trans (List.map_id r)
      rw [rest, if_pos here, List.length_append, List.length_singleton]
      omega
    · rw [if_neg here, ih hr ((List.mem_cons.mp hc).resolve_left (Ne.symm here))]
      omega

/-- The assignments of the first n plots of a launch: each core of `keys` once, only plots of the n, as many as n. -/
structure Assigned (keys : List Nat) (first n : Nat) (acc : List (Nat × List Nat)) : Prop where
  cores : acc.map Prod.fst = keys
  plots : ∀ x ∈ acc, ∀ q ∈ x.2, first ≤ q ∧ q < first + n
  count : (acc.map (fun x => x.2.length)).sum = n

theorem Assigned.one {keys : List Nat} {n : Nat} {acc : List (Nat × List Nat)} (s : State) (t : Nat) (d : List Byte)
    (h : Assigned keys (lFirst d) n acc) (hk : keys.Nodup) (hne : keys ≠ []) : Assigned keys (lFirst d) (n + 1) (assignOne s t d acc n) := by
  obtain ⟨cores, plots, count⟩ := h
  have nonempty : acc.map (fun c => (c.1, c.2.length)) ≠ [] := by
    rintro e
    rw [List.map_eq_nil_iff] at e
    exact hne (by rw [← cores, e]; rfl)
  obtain ⟨c, hc, found⟩ := coreOfPlot_mem s (if lMapEn d then plotPages s t (lMap d) n else []) nonempty
  have hc : c ∈ acc.map Prod.fst := by simpa using hc
  have given : assignOne s t d acc n = acc.map (fun x => if x.1 = c then (x.1, x.2 ++ [lFirst d + n]) else x) := by
    rw [assignOne, found]
  rw [given]
  refine ⟨?_, fun x hx q hq => ?_, ?_⟩
  · rw [← cores, List.map_map]
    exact List.map_congr_left (fun x _ => by simp only [Function.comp_apply]; split <;> rfl)
  · obtain ⟨y, hy, rfl⟩ := List.mem_map.mp hx
    have old := plots y hy q
    split at hq
    · obtain hq | hq := List.mem_append.mp hq
      · have := old hq
        omega
      · have := List.mem_singleton.mp hq
        omega
    · have := old hq
      omega
  · rw [sum_give (cores ▸ hk) hc, count]

/-! ## The cores of a tenant (R172, R493) -/

theorem mem_tenSlots {s : State} {t : Nat} {x : Nat × Nat} (h : x ∈ tenSlots s t) : slotOf s x.1 t = some x.2 := by
  obtain ⟨c, -, hx⟩ := List.mem_filterMap.mp h
  obtain ⟨k, hk, rfl⟩ := Option.map_eq_some_iff.mp hx
  exact hk
theorem tenSlots_cores (s : State) (t : Nat) :
    (tenSlots s t).map Prod.fst = (List.range (numCores s)).filter (fun c => (slotOf s c t).isSome) := by
  rw [tenSlots, List.map_filterMap, ← List.filterMap_eq_filter]
  congr 1
  funext c
  cases h : slotOf s c t <;> simp [Option.guard, h]
theorem launchCores_nodup (s : State) (t : Nat) : ((launchCores s t).map Prod.fst).Nodup := by
  have all : ((tenSlots s t).map Prod.fst).Nodup := by
    rw [tenSlots_cores]
    exact List.nodup_range.filter _
  exact all.sublist (List.filter_sublist.map _)

theorem assignPlots_assigned {s : State} {t : Nat} (hne : launchCores s t ≠ []) (d : List Byte) :
    Assigned ((launchCores s t).map Prod.fst) (lFirst d) (lPlots d) (assignPlots s t d) := by
  rw [assignPlots_eq]
  generalize lPlots d = n
  induction n with
  | zero =>
    refine ⟨by simp, fun x hx q hq => ?_, by simp [Function.comp_def]⟩
    obtain ⟨y, -, rfl⟩ := List.mem_map.mp hx
    cases hq
  | succ n ih =>
    rw [List.range_succ, List.foldl_append]
    exact ih.one s t d (launchCores_nodup s t) (by simpa using hne)

/-! ## The parts of a launch (R225) -/

/-- The part a core's assignment makes, if it has any plot. -/
def corePart (s : State) (t : Nat) (c : Nat × List Nat) : Option LPart :=
  if c.2.isEmpty then none else (slotOf s c.1 t).map (fun k => ({
    core := c.1, slot := k, todo := c.2, ran := (coreRec s c.1).st = .running && (coreRec s c.1).slot = k } : LPart))
theorem corePart_some {s : State} {t : Nat} {c : Nat × List Nat} {p : LPart} (h : corePart s t c = some p) :
    slotOf s p.core t = some p.slot ∧ p.started = false ∧ p.done = false ∧ p.todo ≠ [] ∧ p.todo = c.2 := by
  unfold corePart at h
  split at h
  · cases h
  · next nonempty =>
    obtain ⟨k, hk, rfl⟩ := Option.map_eq_some_iff.mp h
    exact ⟨hk, rfl, rfl, by simpa using nonempty, rfl⟩
theorem sum_parts {s : State} {t : Nat} {acc : List (Nat × List Nat)} (h : ∀ x ∈ acc, (slotOf s x.1 t).isSome = true) :
    ((acc.filterMap (corePart s t)).map (fun p => p.todo.length)).sum = (acc.map (fun x => x.2.length)).sum := by
  induction acc with
  | nil => rfl
  | cons x r ih =>
    have rest := ih (fun y hy => h y (List.mem_cons_of_mem x hy))
    obtain ⟨k, hk⟩ := Option.isSome_iff_exists.mp (h x List.mem_cons_self)
    obtain ⟨c, plots⟩ := x
    cases plots with
    | nil => simpa [List.filterMap_cons, corePart] using rest
    | cons q qs => simpa [List.filterMap_cons, corePart, hk] using rest

/-- The parts of the launch of a descriptor. -/
def launchParts (s : State) (t : Nat) (d : List Byte) : List LPart := (assignPlots s t d).filterMap (corePart s t)
theorem slotOf_assigned {s : State} {t : Nat} (hne : launchCores s t ≠ []) (d : List Byte) :
    ∀ x ∈ assignPlots s t d, (slotOf s x.1 t).isSome = true := by
  intro x hx
  have key : x.1 ∈ (launchCores s t).map Prod.fst := (assignPlots_assigned hne d).cores ▸ List.mem_map_of_mem hx
  obtain ⟨y, hy, e⟩ := List.mem_map.mp key
  rw [← e, mem_tenSlots (List.mem_filter.mp hy).1]
  rfl
theorem launchParts_plots {s : State} {t : Nat} (hne : launchCores s t ≠ []) (d : List Byte) :
    ((launchParts s t d).map (fun p => p.todo.length)).sum = lPlots d :=
  (sum_parts (slotOf_assigned hne d)).trans (assignPlots_assigned hne d).count
theorem mem_launchParts {s : State} {t : Nat} (hne : launchCores s t ≠ []) {d : List Byte} {p : LPart} (hp : p ∈ launchParts s t d) :
    slotOf s p.core t = some p.slot ∧ p.started = false ∧ p.done = false ∧ p.todo ≠ [] ∧
      ∀ q ∈ p.todo, lFirst d ≤ q ∧ q < lFirst d + lPlots d := by
  obtain ⟨c, hc, made⟩ := List.mem_filterMap.mp hp
  obtain ⟨slot, unstarted, live, nonempty, todo⟩ := corePart_some made
  exact ⟨slot, unstarted, live, nonempty, fun q hq => (assignPlots_assigned hne d).plots c hc q (todo ▸ hq)⟩

/-! ## LAUNCH (R225 to R227) -/

section
variable (tag : Nat) (f : Live → Live) (s : State)

@[simp] theorem slotOf_modLive (c t : Nat) : slotOf (modLive tag f s) c t = slotOf s c t := by
  have sets : cset (modLive tag f s) = cset s := by
    funext g o i
    exact cset_modLive tag f s g o i
  unfold slotOf slotValid slotTen
  rw [sets]
@[simp] theorem tenSlots_modLive (t : Nat) : tenSlots (modLive tag f s) t = tenSlots s t := by simp [tenSlots, numCores]
@[simp] theorem launchFault_modLive (t : Nat) (d : List Byte) : launchFault (modLive tag f s) t d = launchFault s t d := by
  simp [launchFault]
@[simp] theorem modLive_pwr : (modLive tag f s).pwr = s.pwr := modLive_frame tag f s .pwr (by decide)
@[simp] theorem modLive_cor : (modLive tag f s).cor = s.cor := modLive_frame tag f s .cor (by decide)
@[simp] theorem launchCores_modLive (t : Nat) : launchCores (modLive tag f s) t = launchCores s t := by simp [launchCores]
@[simp] theorem asleep_modLive : asleep (modLive tag f s) = asleep s := by simp [asleep]
@[simp] theorem touchesT2_modLive (h off n : Nat) : touchesT2 (modLive tag f s) h off n = touchesT2 s h off n := by simp [touchesT2]

end

/-- A descriptor that waits to be promoted. -/
def Live.awaits (l : Live) : Live := { l with stage := .promo }
/-- A descriptor that runs. -/
def Live.runs (l : Live) : Live := { l with stage := .running }
/-- The launch a descriptor becomes. -/
def launchOf (s : State) (tag : Nat) (l : Live) : Launch :=
  { tag := tag, tenant := liveTen l, step := l.step, code := lCode l.desc, codeBytes := lCodeBytes l.desc, entry := lEntry l.desc,
    seed := fieldAt l.desc 36 8, arg := fieldAt l.desc 44 8, limit := fieldAt l.desc 52 2, parts := launchParts s (liveTen l) l.desc,
    cookie := cookieOf l.desc }
/-- The state in which a descriptor has become a launch. -/
def launched (tag : Nat) (l : Live) (s : State) : State :=
  modLive tag Live.runs (modPwr (fun p => { p with idle := false })
    (modCor (fun x => { x with launches := x.launches ++ [launchOf s tag l] }) s))
/-- Stress passes and margin sweeps end on the dies that receive plots (R476). -/
def diesCleared (parts : List LPart) (s : State) : State :=
  forS (List.range (numDies s)) (fun k x =>
    if parts.any (fun p => decide (dieOfCore p.core = k)) then abortSweep k (abortStress k x) else x) s
theorem diesCleared_frame (parts : List LPart) (s : State) : Only [.mem, .err, .book, .pwr] s (diesCleared parts s) :=
  forS_only _ _ (fun k _ hx => ite_only (abortSweep_only k (by decide) (abortStress_only k (by decide) (by decide) (by decide) hx)) hx)
    (Only.rfl' _ s)

section
variable {tag : Nat} {l : Live} {s : State} (hl : liveRec s tag = some l)
include hl

theorem launchMake_waits (empty : launchCores s (liveTen l) = []) : launchMake tag s = modLive tag Live.awaits (wakeUp s) := by
  simp only [launchMake, hl, empty]
  rw [if_pos (by simp)]
  rfl
theorem launchMake_makes (awake : asleep s = false) (nonempty : launchCores s (liveTen l) ≠ [])
    (present : (lMapEn l.desc && touchesT2 s (lMap l.desc) 0 (64 * lPlots l.desc)) = false) :
    launchMake tag s = diesCleared (launchParts s (liveTen l) l.desc) (launched tag l s) := by
  have cores : (launchCores s (liveTen l)).isEmpty = false := by simpa using nonempty
  have dies : numDies (launched tag l s) = numDies s := numDies_modLive _ _ _
  rw [diesCleared, dies]
  simp only [launchMake, hl, awake, cores, present]
  rfl

end

section
variable {tag : Nat} {l : Live} {st : Option Nat} {s : State} (h : Starts s tag 0x30 l st)
include h

/-- A LAUNCH that starts has never waited, so its checks come first (R227). -/
theorem Starts.exec_launch_stops {f : Nat × Nat} (hf : launchFault s (liveTen l) l.desc = some f) :
    exec (.launch tag) s = .next (done tag f.1 f.2 0 (modLive tag (Live.started st) s)) := by
  have fresh := h.stage_ne (g := .promo) (by decide) (by decide)
  show execLaunch tag s = _
  simp only [execLaunch, h.live, fresh, false_and, if_false]
  rw [startDesc_go h, launchFault_modLive, hf]
  rfl
theorem Starts.exec_launch_makes (hf : launchFault s (liveTen l) l.desc = none) :
    exec (.launch tag) s = .next (launchMake tag (modLive tag (Live.started st) s)) := by
  have fresh := h.stage_ne (g := .promo) (by decide) (by decide)
  show execLaunch tag s = _
  simp only [execLaunch, h.live, fresh, false_and, if_false]
  rw [startDesc_go h, launchFault_modLive, hf]
  rfl

end

/-- What has become of a descriptor, and of the table of launches, once its launch is made. -/
theorem cleared_launched {tag : Nat} {l : Live} {s : State} (hl : liveRec s tag = some l) (parts : List LPart) :
    (diesCleared parts (launched tag l s)).cor = { s.cor with launches := s.cor.launches ++ [launchOf s tag l] } ∧
    liveRec (diesCleared parts (launched tag l s)) tag = some l.runs ∧
    Only [.hif, .pwr, .cor, .mem, .err, .book] s (diesCleared parts (launched tag l s)) := by
  have frame := diesCleared_frame parts (launched tag l s)
  have hif : (diesCleared parts (launched tag l s)).hif = (launched tag l s).hif := frame .hif (by decide)
  refine ⟨(frame .cor (by decide)).trans ?_, ?_, ?_⟩
  · rw [launched, modLive_cor, modPwr_cor, modCor_cor]
  · rw [liveRec, hif, ← liveRec, launched, liveRec_modLive, if_pos rfl]
    exact congrArg (Option.map Live.runs) hl
  · exact Only.trans (modLive_only _ _ (by decide) (modPwr_only _ (by decide) (modCor_only _ (by decide) (Only.rfl' _ s))))
      (frame.mono (by decide))

/-- Settles O28: a LAUNCH that a check stops is `done`, one that starts is `launchMake`, whose parts are `launchParts`; on a core its
start is `StartsOn.swaps` or, resident, `StartsOn.begins`, which leaves `plotBegun`. -/
theorem launchesStart : Obligations.LaunchesStart := by
  refine ⟨fun tag f l st s h _ hf => ?_, fun tag l st s h hf awake nonempty present => ?_, fun tag l st s h hf empty => ?_,
    fun tag c l p s launch part unstarted first fence clock idle other => ?_,
    fun tag c q rest l p s launch part unstarted htodo first fence clock state slot held present sound hn hm => ?_⟩
  · exact ⟨_, h.exec_launch_stops hf, h.mayEnd.ends (modLive_flow tag _ s) f.1 f.2⟩
  · have live := h.mayEnd.live
    obtain ⟨cor, running, frame⟩ := cleared_launched live (launchParts (modLive tag (Live.started st) s) (liveTen l) l.desc)
    have cores : launchCores (modLive tag (Live.started st) s) (liveTen l) ≠ [] := by rwa [launchCores_modLive]
    have makes := launchMake_makes live (by rwa [asleep_modLive]) cores (by rw [touchesT2_modLive]; exact present)
    refine ⟨_, (h.exec_launch_makes hf).trans (congrArg Host.Outcome.next makes), ?_, running, ?_, ?_⟩
    · refine ⟨launchOf (modLive tag (Live.started st) s) tag (l.started st), ?_, rfl, rfl, rfl, rfl, rfl, rfl, rfl, rfl,
        fun p hp => ?_, launchParts_plots cores l.desc⟩
      · exact (congrArg Cor.launches cor).trans (by rw [modLive_cor])
      · obtain ⟨slot, rest⟩ := mem_launchParts cores hp
        exact ⟨by rwa [slotOf_modLive] at slot, rest⟩
    · exact (congrArg Cor.cores cor).trans (by rw [modLive_cor])
    · exact ((modLive_frame tag _ s).mono (by decide)).trans frame
  · have waits := launchMake_waits h.mayEnd.live (by rw [launchCores_modLive]; exact empty)
    have woken : Only [.pwr] (modLive tag (Live.started st) s) (wakeUp (modLive tag (Live.started st) s)) :=
      wakeUp_only (by decide) (Only.rfl' _ _)
    have live : liveRec (wakeUp (modLive tag (Live.started st) s)) tag = some (l.started st) := by
      rw [liveRec, woken .hif (by decide)]
      exact h.mayEnd.live
    refine ⟨_, (h.exec_launch_makes hf).trans (congrArg Host.Outcome.next waits), ?_, ?_⟩
    · rw [liveRec_modLive, if_pos rfl, live]
      rfl
    · exact modLive_only _ _ (by decide) (((modLive_frame tag _ s).mono (by decide)).trans (woken.mono (by decide)))
  · have h : StartsOn tag c l p s := ⟨launch, part, unstarted, first, fence, clock⟩
    refine ⟨_, congrArg Host.Outcome.next (h.swaps idle other), ?_, fun d hd => ?_, modCore_only _ _ (by decide) (Only.rfl' _ s)⟩
    · rw [beginSwap, coreRec_modCore, if_pos rfl]
    · rw [beginSwap, coreRec_modCore, if_neg hd]
  · have h : StartsOn tag c l p s := ⟨launch, part, unstarted, first, fence, clock⟩
    have begins := (h.begins state slot held present sound).trans (h.plot htodo)
    have hart : slotRec (plotBegun tag c p.slot l q rest s) c p.slot = CSlot.fresh _ := startPlot_slot
    have reg (j : Nat) (hj : j < 32) : memRead (plotBegun tag c p.slot l q rest s).mem (imgKey c (xReg j)) 8 =
        leB 8 (plotReg l.entry q l.arg c j) := memRead_startPlot hj
    refine ⟨_, congrArg Host.Outcome.next begins, plotBegun_running, congrArg CSlot.hart hart, congrArg CSlot.vtype hart,
      congrArg CSlot.vl hart, congrArg CSlot.fcsr hart, plotBegun_code hm hn, reg 0 (by decide), reg 2 (by decide), reg 10 (by decide),
      reg 11 (by decide), reg 12 (by decide), reg 31 (by decide), h.plotBegun_part, fun d hd => coreRec_plotBegun_other hd, plotBegun_frame⟩

end Sys2Proof.Machine
end

section
/-!
How plots and launches end (R149, R230 to R232, R259, R261 of 04 and 06).
-/
namespace Sys2Proof.Machine

/-! ## What of a core only faults, discards and swaps change -/

/-- A core but for its state, its slots and its counters: the slots resident and next, the fault registers, the counts of discards and
swaps. -/
def Core.ledger (x : Core) : Core := { x with st := .absent, slots := [], counters := [], latches := [] }
/-- Every core's ledger is as in `a`. -/
def SameLedger (a s : State) : Prop := ∀ d, (coreRec s d).ledger = (coreRec a d).ledger

namespace SameLedger
variable {a s : State}

theorem refl (a : State) : SameLedger a a := fun _ => rfl
theorem fltPlot (h : SameLedger a s) (d : Nat) : (coreRec s d).fltPlot = (coreRec a d).fltPlot :=
  have e := congrArg Core.fltPlot (h d)
  e
theorem fltCount (h : SameLedger a s) (d : Nat) : (coreRec s d).fltCount = (coreRec a d).fltCount :=
  have e := congrArg Core.fltCount (h d)
  e
theorem next (h : SameLedger a s) (d : Nat) : (coreRec s d).next = (coreRec a d).next :=
  have e := congrArg Core.next (h d)
  e
theorem discards (h : SameLedger a s) (d : Nat) : (coreRec s d).discards = (coreRec a d).discards :=
  have e := congrArg Core.discards (h d)
  e
theorem trans {t : State} (h : SameLedger a s) (k : SameLedger s t) : SameLedger a t := fun d => (k d).trans (h d)
theorem of_cor {u : State} (h : SameLedger a s) (e : u.cor = s.cor) : SameLedger a u := fun d =>
  (congrArg Core.ledger (coreRec_of_cores (congrArg Cor.cores e) d)).trans (h d)
theorem modCor {f : Cor → Cor} (h : SameLedger a s) (hc : (f s.cor).cores = s.cor.cores := by rfl) : SameLedger a (modCor f s) := fun d =>
  (congrArg Core.ledger (coreRec_of_cores hc d)).trans (h d)
theorem modCore {f : Core → Core} (h : SameLedger a s) (c : Nat) (hf : ∀ x, (f x).ledger = x.ledger := by intro _; rfl) :
    SameLedger a (modCore c f s) := fun d => by
  rw [coreRec_modCore, ← h d]
  split
  · next e => rw [hf, e]
  · rfl
theorem modSlot {f : CSlot → CSlot} (h : SameLedger a s) (c k : Nat) : SameLedger a (modSlot c k f s) := SameLedger.modCore h c
theorem forS {α : Type} {l : List α} {f : α → State → State} (h : SameLedger a s) (hf : ∀ q x, SameLedger a x → SameLedger a (f q x)) :
    SameLedger a (forS l f s) := forS_holds (SameLedger a) (fun q _ => hf q) h
/-- Both branches of a test keep the ledgers. -/
theorem if_ok {p : Prop} [Decidable p] {x y : State} (hx : SameLedger a x) (hy : SameLedger a y) : SameLedger a (if p then x else y) := by
  split
  · exact hx
  · exact hy

theorem count (h : SameLedger a s) (c set i n : Nat) : SameLedger a (count c set i n s) := if_ok (SameLedger.modCore h c) h
theorem addCnt (h : SameLedger a s) (c k : Nat) (pool : Bool) (i n : Nat) : SameLedger a (addCnt c k pool i n s) := by
  rw [addCnt_eq]
  exact if_ok (SameLedger.of_cor (((h.modSlot c k).modSlot c k).count c 2 6 1) (noteWork_cor _ _ _ _ _ _)) (h.modSlot c k)
theorem putReg (h : SameLedger a s) (c off : Nat) (b : List Byte) : SameLedger a (putReg c off b s) :=
  h.of_cor (putReg_only (fr := [.mem]) c off b (by decide) (Only.rfl' _ s) .cor (by decide))
theorem hartStore (h : SameLedger a s) (c k x : Nat) (b : List Byte) : SameLedger a (hartStore c k x b s) :=
  if_ok (h.modSlot c k)
    (h.forS (fun w x hx => hx.of_cor (uPut_only (fr := [.mem]) c _ w (by decide) (Only.rfl' _ x) .cor (by decide))))
theorem hartOp (h : SameLedger a s) (c k : Nat) (o : HartOp) : SameLedger a (hartOp c k o s) := by
  cases o with
  | load x n e d => exact h.putReg c _ _
  | store x b => exact h.hartStore c k x b
  | amo x b e d => exact (h.putReg c _ _).hartStore c k x b
  | reg off b => exact h.putReg c off b
  | csr i d => exact h.putReg c d _
  | vcsr v l f => exact h.modSlot c k
  | ran n fp vec => exact (((h.modSlot c k).count c 0 33 n).count c 0 34 fp).count c 0 35 vec
theorem applyRun (h : SameLedger a s) (c k : Nat) (r : HartRun) : SameLedger a (applyRun c k r s) :=
  h.forS (fun o _ hx => hx.hartOp c k o)
theorem settlePreempt (h : SameLedger a s) (c : Nat) : SameLedger a (settlePreempt c s) := fun d => by
  rw [coreRec_settlePreempt]
  split
  · next e => rw [e.1]; exact h c
  · exact h d
theorem settleCores (h : SameLedger a s) : SameLedger a (settleCores s) :=
  h.forS (fun c _ hx => (SameLedger.modCore hx c).settlePreempt c)
theorem dropLaunch (h : SameLedger a s) (tag : Nat) : SameLedger a (dropLaunch tag s) := by
  unfold Machine.dropLaunch
  split
  · exact h
  · exact SameLedger.modCor (h.forS (fun p _ hx => (hx.modSlot p.core p.slot).of_cor rfl))
theorem latchPart (h : SameLedger a s) (tag c : Nat) : SameLedger a (latchPart tag c s) := SameLedger.modCore (SameLedger.modCor h) c

end SameLedger

/-! ## Tallies (R263, R589) -/

/-- The tally of a part that ends changes only what the part has counted. -/
theorem tallyPart_cases (err : Bool) (tag c : Nat) (s : State) :
    (tallyPart err tag c s).cor = s.cor ∨ (tallyPart err tag c s).cor = (latchPart tag c s).cor := by
  unfold tallyPart
  extract_lets s0
  have latched : s0 = s ∨ s0 = latchPart tag c s := by
    unfold s0
    split
    · split
      · exact (ite_eq_or_eq _ _ _).symm
      · exact .inl rfl
    · exact .inl rfl
  clear_value s0
  have same : ∀ u : State, u.cor = s0.cor → u.cor = s.cor ∨ u.cor = (latchPart tag c s).cor := fun u hu => by
    obtain rfl | rfl := latched
    · exact .inl hu
    · exact .inr hu
  split
  · split
    · exact same _ (postTally_only _ _ _ (by decide) (by decide) (tallyBody_only _ _ _ _ _ (by decide) (Only.rfl' offCor s0)) .cor (by decide))
    · exact same s0 rfl
  · exact same s0 rfl
theorem SameLedger.tallyPart {a s : State} (h : SameLedger a s) (err : Bool) (tag c : Nat) : SameLedger a (tallyPart err tag c s) := by
  obtain e | e := tallyPart_cases err tag c s
  · exact h.of_cor e
  · exact (h.latchPart tag c).of_cor e
theorem drainTrace_cor (c : Nat) (s : State) : (drainTrace c s).cor = s.cor :=
  drainTrace_only (fr := offCor) c (by decide) (by decide) (by decide) (Only.rfl' _ s) .cor (by decide)
/-- A latch moves what a core counted since the last one to the part's tally. -/
theorem latchPart_eq (tag c : Nat) (s : State) : ∃ f : LPart → LPart,
    (∀ p, (f p).core = p.core ∧ (f p).slot = p.slot ∧ (f p).done = p.done) ∧
    latchPart tag c s = modCore c (fun x => { x with latches := x.counters }) (modPart tag c f s) := by
  refine ⟨_, ?_, rfl⟩
  exact fun p => ⟨rfl, rfl, rfl⟩
@[simp] theorem launchRec_modCore (c : Nat) (f : Core → Core) (s : State) (t : Nat) : launchRec (modCore c f s) t = launchRec s t := rfl
/-- A launch whose part on core c has been tallied. -/
theorem launchRec_tallyPart {tag : Nat} {l : Launch} {s : State} (h : launchRec s tag = some l) (err : Bool) (c : Nat) :
    ∃ f : LPart → LPart, (∀ p, (f p).core = p.core) ∧ launchRec (tallyPart err tag c s) tag = some (l.onCore c f) := by
  obtain e | e := tallyPart_cases err tag c s
  · refine ⟨id, fun _ => rfl, ?_⟩
    rw [launchRec_of_launches (congrArg Cor.launches e), h]
    simp [Launch.onCore]
  · obtain ⟨f, keeps, latched⟩ := latchPart_eq tag c s
    refine ⟨f, fun p => (keeps p).1, ?_⟩
    rw [launchRec_of_launches (congrArg Cor.launches e), latched, launchRec_modCore, launchRec_modPart h]

/-! ## The end of a launch with an error (R259, R261) -/

/-- The parts of the state that the end of a launch touches before its descriptor completes. -/
def tallyParts : List Part := [.free, .out, .mem, .pln, .cor, .dbg]
/-- The state in which a launch has left every core, its tallies posted. -/
def launchGone (tag : Nat) (l : Launch) (s : State) : State :=
  settleCores (dropLaunch tag (forS (l.parts.filter (fun p => p.started && !p.done))
    (fun p s => drainTrace p.core (tallyPart true tag p.core s)) s))

section
variable {tag : Nat} {l : Launch} {d : Live} {s : State}

theorem launchGone_frame : Only tallyParts s (launchGone tag l s) :=
  settleCores_only (by decide) (dropLaunch_only tag (by decide) (by decide) (forS_only _ _ (fun p _ hx =>
    drainTrace_only p.core (by decide) (by decide) (by decide)
      (tallyPart_only true tag p.core (by decide) (by decide) (by decide) (by decide) hx)) (Only.rfl' _ s)))
theorem launchGone_ledger : SameLedger s (launchGone tag l s) :=
  SameLedger.settleCores (SameLedger.dropLaunch ((SameLedger.refl s).forS (fun p _ hx =>
    (hx.tallyPart true tag p.core).of_cor (drainTrace_cor p.core _))) tag)
theorem MayEnd.done_cor (h : MayEnd s tag d) (status detail result : Nat) : (done tag status detail result s).cor = s.cor :=
  (h.endsWith (Only.rfl' flowParts s) status detail result).2 .cor (by decide)

variable (hl : launchRec s tag = some l) (hd : MayEnd s tag d)
include hl hd

theorem failLaunch_ends (status detail result : Nat) :
    Ended (failLaunch tag status detail result s) tag d.step status detail result ∧ SameLedger s (failLaunch tag status detail result s) := by
  have fails : failLaunch tag status detail result s = done tag status detail result (launchGone tag l s) := by
    simp only [failLaunch, hl]
    rfl
  have gone : MayEnd (launchGone tag l s) tag d := hd.of_only launchGone_frame (by decide) (by decide)
  rw [fails]
  exact ⟨(gone.endsWith (Only.rfl' _ _) status detail result).1, launchGone_ledger.of_cor (gone.done_cor status detail result)⟩
theorem faultLaunch_ends (c code op plot status detail : Nat) :
    Ended (faultLaunch tag c code op plot status detail s) tag d.step status detail (plot % 2 ^ 32 + op * 2 ^ 32 + c * 2 ^ 40) ∧
      (coreRec (faultLaunch tag c code op plot status detail s) c).fltPlot = plot % 2 ^ 32 := by
  have faults : faultLaunch tag c code op plot status detail s =
      failLaunch tag status detail (plot % 2 ^ 32 + op * 2 ^ 32 + c * 2 ^ 40) (noteFlt c code op l.tenant plot s) := by
    simp only [faultLaunch, hl]
  have noted : MayEnd (noteFlt c code op l.tenant plot s) tag d :=
    hd.of_only (noteFlt_only (fr := [.cor]) _ _ _ _ _ (by decide) (Only.rfl' _ s)) (by decide) (by decide)
  obtain ⟨ended, ledger⟩ := failLaunch_ends (s := noteFlt c code op l.tenant plot s) hl noted status detail
    (plot % 2 ^ 32 + op * 2 ^ 32 + c * 2 ^ 40)
  rw [faults]
  refine ⟨ended, (ledger.fltPlot c).trans ?_⟩
  rw [noteFlt, coreRec_modCore, if_pos rfl]

end

/-! ## A fault after a run (R149, R230) -/

section
variable {c k : Nat} {r : HartRun} {l : Launch} {d : Live} {s : State} (hl : launchRec s l.tag = some l) (hd : MayEnd s l.tag d)
include hl hd

/-- A fault that ends a launch from the state a run leaves: the launch is gone, the core has noted the fault, the descriptor has its
status. -/
theorem faultAfterRun (code plot status detail : Nat) :
    Faulted l.tag c (code * 2 ^ 24 + l.tenant) (satAdd 32 (coreRec s c).fltCount 1)
        (faultLaunch l.tag c code 0 plot status detail (applyRun c k r s)) ∧
      (coreRec (faultLaunch l.tag c code 0 plot status detail (applyRun c k r s)) c).fltPlot = plot % 2 ^ 32 ∧
      Ended (faultLaunch l.tag c code 0 plot status detail (applyRun c k r s)) l.tag d.step status detail (plot % 2 ^ 32 + c * 2 ^ 40) := by
  have launch : launchRec (applyRun c k r s) l.tag = some l := ((applyRun_steady c k r s).launchRec_eq l.tag).trans hl
  have mayEnd : MayEnd (applyRun c k r s) l.tag d := hd.of_only (applyRun_frame c k r s) (by decide) (by decide)
  obtain ⟨gone, info, count⟩ := faultLaunch_faults launch c code 0 plot status detail
  obtain ⟨ended, fltPlot⟩ := faultLaunch_ends launch mayEnd c code 0 plot status detail
  have counted : (coreRec (applyRun c k r s) c).fltCount = (coreRec s c).fltCount :=
    ((SameLedger.refl s).applyRun c k r).fltCount c
  rw [counted] at count
  exact ⟨⟨gone, by simpa using info, count⟩, fltPlot, by simpa using ended⟩

end

/-- Each command of a hart raises the first exception of its run (R149, R234). -/
theorem HartRuns.exec_raises {cmd : Instr} {c k v e : Nat} {r : HartRun} {l : Launch} {p : LPart} {s : State} (h : HartRuns c k r l p s)
    (raised : runFault s c (slotTen s c k) r = some e)
    (hcmd : cmd ∈ [Instr.plotEnd c r, .plotAbort c r v, .hartException c r v, .corTiPush c r v, .corTiCnt c r 0 v, .corTiPool c r 0 v,
      .corTiWait c r ⟨0, v⟩, .corTiPwait c r ⟨0, v⟩]) :
    exec cmd s = .next (faultLaunch l.tag c 0x10 0 (p.plot.getD 0) 0x0301 e (applyRun c k r s)) := by
  have raises (f : Nat → Launch → LPart → State → State) := congrArg (Host.Outcome.next (φ := Fault) (ρ := Refusal)) (h.raises f raised)
  have held {me : HartSt} (hme : me ≠ .run) (f : Nat → Launch → LPart → State → State) :=
    (congrArg (Host.Outcome.next (φ := Fault) (ρ := Refusal)) (h.access f hme)).trans (raises f)
  have add (pool : Bool) : Host.Outcome.next (φ := Fault) (ρ := Refusal) (tiAdd c r pool 0 v s) = _ := raises _
  have wait (pool : Bool) : Host.Outcome.next (φ := Fault) (ρ := Refusal) (tiWait c r pool 0 v s) = _ := held (HartSt.waitOn_ne_run pool 0) _
  simp only [List.mem_cons, List.not_mem_nil, or_false] at hcmd
  obtain rfl | rfl | rfl | rfl | rfl | rfl | rfl | rfl := hcmd
  case inl => exact raises _
  case inr.inl => exact raises _
  case inr.inr.inl => exact raises _
  case inr.inr.inr.inl => exact held (me := .waitPush v) nofun _
  case inr.inr.inr.inr.inl => exact add false
  case inr.inr.inr.inr.inr.inl => exact add true
  case inr.inr.inr.inr.inr.inr.inl => exact wait false
  case inr.inr.inr.inr.inr.inr.inr => exact wait true

/-! ## The end of a plot (R230, R231) -/

/-- A part one more of whose plots has ended. -/
def LPart.plotEnds (p : LPart) : LPart := { p with ended := p.ended + 1 }
/-- A part that has ended on its core. -/
def LPart.finished (p : LPart) : LPart := { p with done := true }

theorem HartRuns.exec_plotEnd {c k : Nat} {r : HartRun} {l : Launch} {p : LPart} {s : State} (h : HartRuns c k r l p s)
    (sound : runFault s c (slotTen s c k) r = none) :
    exec (.plotEnd c r) s =
      .next (endPart l.tag c (nextPlot l.tag c k (modPart l.tag c LPart.plotEnds (applyRun c k r s)))) :=
  congrArg Host.Outcome.next (h.sound _ sound)

section
variable {tag c k : Nat} {l : Launch} {p : LPart} {s : State} (hl : launchRec s tag = some l)
  (hp : l.parts.find? (fun p => decide (p.core = c)) = some p)
include hl hp

/-- A part whose tiles are not all complete does not end. -/
theorem endPart_tiles (tiles : ∃ q ∈ (slotRec s c p.slot).queue, q.launch = tag) : endPart tag c s = s := by
  have queued : (slotRec s c p.slot).queue.any (fun q => decide (q.launch = tag)) = true := by simpa using tiles
  simp [endPart, hl, hp, queued]

/-- The state in which a core has ended a part, its tally posted. -/
def partOver (tag c : Nat) (s : State) : State := modPart tag c LPart.finished (drainTrace c (tallyPart false tag c s))
omit hl hp in
theorem partOver_frame : Only tallyParts s (partOver tag c s) :=
  modPart_only _ _ _ (by decide) (drainTrace_only c (by decide) (by decide) (by decide)
    (tallyPart_only false tag c (by decide) (by decide) (by decide) (by decide) (Only.rfl' _ s)))
omit hp in
theorem launchRec_partOver : ∃ f : LPart → LPart, (∀ p, (f p).core = p.core) ∧
    launchRec (partOver tag c s) tag = some ((l.onCore c f).onCore c LPart.finished) := by
  obtain ⟨f, core, tallied⟩ := launchRec_tallyPart hl false c
  refine ⟨f, core, launchRec_modPart ?_ c LPart.finished⟩
  exact (launchRec_of_launches (congrArg Cor.launches (drainTrace_cor c _)) tag).trans tallied

omit hp in
/-- The only part of a launch, its plots ended and its tiles complete, completes the launch (R231). -/
theorem endPart_completes (only : l.parts = [p]) (core : p.core = c) (started : p.started = true) (live : p.done = false)
    (todo : p.todo = []) (plot : p.plot = none) (tiles : ∀ q ∈ (slotRec s c p.slot).queue, q.launch ≠ tag) :
    endPart tag c s = done tag 0 0 (l.flags % 256 + min l.tiles (2 ^ 32 - 1) * 2 ^ 32)
      (settleCores (dropLaunch tag (partOver tag c s))) := by
  obtain ⟨f, keeps, overRec⟩ := launchRec_partOver (c := c) hl
  have part : l.parts.find? (fun p => decide (p.core = c)) = some p := by simp [only, core]
  have tilesGone : (slotRec s c p.slot).queue.any (fun q => decide (q.launch = tag)) = false := by simpa using tiles
  have all : ((l.onCore c f).onCore c LPart.finished).parts.all LPart.done = true := by
    simp [Launch.onCore, only, core, keeps, LPart.finished]
  have finished : modPart tag c (fun p => { p with done := true }) (drainTrace c (tallyPart false tag c s)) = partOver tag c s := rfl
  simp only [endPart, hl, part, finished, overRec, all]
  exact if_pos ⟨started, by simp [live], by simp [todo], plot, by simp [tilesGone]⟩

end

end Sys2Proof.Machine
end

section
/-!
How a quantum and a pre-emption end (R176 to R180, R184 of 04).
-/
namespace Sys2Proof.Machine

/-! ## Pre-emption starts (R177, R179) -/

section
variable (c k : Nat) (s : State)

theorem coreRec_preempt : (coreRec (preempt c k s) c).next = k ∧ (coreRec (preempt c k s) c).slot = (coreRec s c).slot ∧
    (coreRec (preempt c k s) c).st =
      if (slotRec s c (coreRec s c).slot).queue.any QTile.fired then .preempting else .swapping := by
  rw [preempt, coreRec_settlePreempt, coreRec_modCore, if_pos rfl, slotRec_modCore, slotRec_modSlot]
  simp only [resident_modSlot, and_self, if_true, true_and]
  cases (slotRec s c (coreRec s c).slot).queue.any QTile.fired <;> exact ⟨rfl, rfl, rfl⟩
/-- What a slot waits for is noted beside its tiles, tokens and hart. -/
theorem slot_preempt (j : Nat) : (slotRec (preempt c k s) c j).queue = (slotRec s c j).queue ∧
    (slotRec (preempt c k s) c j).hart = (slotRec s c j).hart ∧ (slotRec (preempt c k s) c j).cnts = (slotRec s c j).cnts ∧
    (slotRec (preempt c k s) c j).pools = (slotRec s c j).pools := by
  rw [slotRec_preempt]
  split <;> exact ⟨rfl, rfl, rfl, rfl⟩

end

/-- The end of a quantum does nothing where no other slot is runnable. -/
theorem exec_quantumExpiry {c : Nat} {s : State} (st : (coreRec s c).st = .running ∨ (coreRec s c).st = .idle) (clock : nclkOn s = true) :
    exec (.quantumExpiry c) s = .next ((nextRunnable s c).elim s (fun k => preempt c k s)) := by
  show execQuantumExpiry c s = _
  rw [execQuantumExpiry, if_pos ⟨st, clock⟩]
  cases nextRunnable s c <;> rfl

/-! ## Tiles in flight are discarded (R179, R180, R184) -/

/-- A tile in flight goes back to its place, marked for re-fire. -/
def QTile.dropped (q : QTile) : QTile := if q.fired then { q with fired := false, refire := true, wrote := false } else q

section
variable (c k : Nat) (pool : Bool) (i n : Nat) (s : State)

theorem coreRec_addCnt_other {d : Nat} (hd : d ≠ c) : coreRec (addCnt c k pool i n s) d = coreRec s d := by
  rw [(addCnt_steady c k pool i n s).others d hd, gained, coreRec_modSlot_other hd]
theorem queue_addCnt (j : Nat) : (slotRec (addCnt c k pool i n s) c j).queue = (slotRec s c j).queue :=
  (gains_of_steady (addCnt_steady c k pool i n s)).queues j

end

/-- The tokens a tile in flight took return (R179). -/
def tokensBack (c k : Nat) (q : QTile) (s : State) : State :=
  let s2 := forS (List.range 4) (fun i s => if fieldAt q.hdr (2 * i + 1) 1 = 0 then s else
    addCnt c k false (fieldAt q.hdr (2 * i) 1) (fieldAt q.hdr (2 * i + 1) 1) s) s
  if fieldAt q.hdr 8 2 / 64 = 0 then s2 else addCnt c k true (fieldAt q.hdr 8 2 % 64) (fieldAt q.hdr 8 2 / 64) s2
/-- What `addCnt` keeps, the return of all tokens keeps. -/
theorem tokensBack_keeps {P : State → Prop} {c k : Nat} (add : ∀ pool i n x, P x → P (addCnt c k pool i n x)) (l : List QTile) {s : State}
    (hs : P s) : P (forS l (tokensBack c k) s) := by
  refine forS_holds P (fun q _ x hx => ?_) hs
  have counters : P (forS (List.range 4) (fun i s => if fieldAt q.hdr (2 * i + 1) 1 = 0 then s else
      addCnt c k false (fieldAt q.hdr (2 * i) 1) (fieldAt q.hdr (2 * i + 1) 1) s) x) := by
    refine forS_holds P (fun i _ y hy => ?_) hx
    split
    · exact hy
    · exact add _ _ _ y hy
  unfold tokensBack
  dsimp only
  split
  · exact counters
  · exact add _ _ _ _ counters

section
variable (c k : Nat) (s : State)

/-- The state in which the tiles in flight of a slot wait again, and their core no longer waits for their writes. -/
def flightDropped (s1 : State) : State :=
  modPln (fun x => { x with waits := x.waits.filter (fun w => decide (w.who ≠ 2 ^ 20 + c)) })
    (modSlot c k (fun x => { x with queue := x.queue.map QTile.dropped }) s1)
theorem dropFlight_eq :
    dropFlight c k s = flightDropped c k (forS ((slotRec s c k).queue.filter (fun q => q.fired)) (tokensBack c k) s) := rfl
theorem queue_dropFlight : (slotRec (dropFlight c k s) c k).queue = (slotRec s c k).queue.map QTile.dropped := by
  have queue := tokensBack_keeps (P := fun x => (slotRec x c k).queue = (slotRec s c k).queue) (c := c) (k := k)
    (fun pool i n x hx => (queue_addCnt c k pool i n x k).trans hx) ((slotRec s c k).queue.filter (fun q => q.fired)) rfl
  rw [dropFlight_eq, flightDropped]
  show (slotRec (modSlot c k _ _) c k).queue = _
  rw [slotRec_modSlot, if_pos ⟨rfl, rfl⟩, queue]
theorem coreRec_dropFlight_other {d : Nat} (hd : d ≠ c) : coreRec (dropFlight c k s) d = coreRec s d := by
  have other := tokensBack_keeps (P := fun x => coreRec x d = coreRec s d) (c := c) (k := k)
    (fun pool i n x hx => (coreRec_addCnt_other c k pool i n x hd).trans hx) ((slotRec s c k).queue.filter (fun q => q.fired)) rfl
  rw [dropFlight_eq, flightDropped]
  show coreRec (modSlot c k _ _) d = _
  rw [coreRec_modSlot_other hd, other]
theorem dropFlight_ledger : SameLedger s (dropFlight c k s) := by
  have ledger := tokensBack_keeps (P := SameLedger s) (c := c) (k := k) (fun pool i n x hx => hx.addCnt c k pool i n)
    ((slotRec s c k).queue.filter (fun q => q.fired)) (SameLedger.refl s)
  rw [dropFlight_eq, flightDropped]
  exact (ledger.modSlot c k).of_cor rfl

/-- The tiles of slot k that are in flight. -/
def inFlight : Nat := ((slotRec s c k).queue.filter (fun q => q.fired)).length
theorem discardFlight_steady : Steady c (dropFlight c k s) (discardFlight c k s) :=
  Steady.count (Steady.modCore (.refl c _)) 0 25 _
theorem count_ledger (set i n : Nat) : SameLedger s (count c set i n s) := (SameLedger.refl s).count c set i n
theorem discardFlight_core : (coreRec (discardFlight c k s) c).next = (coreRec s c).next ∧
    (coreRec (discardFlight c k s) c).discards = satAdd 32 (coreRec s c).discards (inFlight c k s) := by
  have counted := count_ledger c (modCore c (fun x => { x with discards := satAdd 32 x.discards (inFlight c k s) }) (dropFlight c k s))
    0 25 (inFlight c k s)
  have dropped := dropFlight_ledger c k s
  refine ⟨(counted.next c).trans ?_, (counted.discards c).trans ?_⟩
  · rw [coreRec_modCore, if_pos rfl]
    exact dropped.next c
  · rw [coreRec_modCore, if_pos rfl]
    exact congrArg (satAdd 32 · _) (dropped.discards c)

end

/-- The state after the limit of a pre-emption. -/
def limitReached (c : Nat) (s : State) : State :=
  modCor (fun y => { y with preemptMax := Map.upd 0 y.preemptMax c (max 200) })
    (modCore c (fun y => { y with st := .swapping }) (discardFlight c (coreRec s c).slot s))
theorem exec_preemptLimit {c : Nat} {s : State} (st : (coreRec s c).st = .preempting) (clock : nclkOn s = true) :
    exec (.preemptLimit c) s = .next (limitReached c s) := by
  show execPreemptLimit c s = _
  rw [execPreemptLimit, if_pos ⟨st, clock⟩]
  rfl
section
variable (c : Nat) (s : State)

theorem coreRec_limitReached (d : Nat) : coreRec (limitReached c s) d =
    if d = c then { coreRec (discardFlight c (coreRec s c).slot s) c with st := .swapping }
    else coreRec (discardFlight c (coreRec s c).slot s) d := by
  rw [limitReached, coreRec_preemptMax (fun m => Map.upd 0 m c (max 200)), coreRec_modCore]
theorem limitReached_frame : Only [.out, .hif, .pln, .cor, .stp, .book] s (limitReached c s) :=
  modCor_only _ (by decide) (modCore_only _ _ (by decide) (discardFlight_only _ _ (by decide) (by decide) (by decide) (by decide)
    (by decide) (by decide) (Only.rfl' _ s)))
theorem queue_limitReached : (slotRec (limitReached c s) c (coreRec s c).slot).queue =
    (slotRec s c (coreRec s c).slot).queue.map QTile.dropped := by
  rw [slotRec, coreRec_limitReached, if_pos rfl]
  exact (((discardFlight_steady c _ s).slots _).queue).trans (queue_dropFlight c _ s)
theorem coreRec_limitReached_other {d : Nat} (hd : d ≠ c) : coreRec (limitReached c s) d = coreRec s d := by
  rw [coreRec_limitReached, if_neg hd, (discardFlight_steady c _ s).others d hd, coreRec_dropFlight_other c _ s hd]
/-- The longest pre-emption of the core is at least the limit. -/
theorem limitReached_max : 200 ≤ Map.get 0 (limitReached c s).cor.preemptMax c := by
  rw [limitReached, modCor_cor, get_upd, if_pos rfl]
  exact Nat.le_max_left 200 _

end

end Sys2Proof.Machine
end

section
/-!
The swap of core slots (R174, R176, R182, R183 of 04).
-/
namespace Sys2Proof.Machine

/-! ## Where images lie (Table 04.5) -/

/-- The parts of the state a swap touches. -/
def swapParts : List Part := [.mem, .pln, .cor, .dbg]
theorem cset_of_swap {s u : State} (h : Only swapParts s u) : cset u = cset s := by
  funext g o i
  rw [cset, h .half (by decide), h .grp (by decide), cset]
theorem slotImg_of_swap {s u : State} (h : Only swapParts s u) (c k : Nat) : slotImg u c k = slotImg s c k := by
  rw [slotImg, cset_of_swap h, slotImg]
theorem slotValid_of_swap {s u : State} (h : Only swapParts s u) (c k : Nat) : slotValid u c k = slotValid s c k := by
  rw [slotValid, cset_of_swap h, slotValid]
theorem slotTen_of_swap {s u : State} (h : Only swapParts s u) (c k : Nat) : slotTen u c k = slotTen s c k := by
  rw [slotTen, cset_of_swap h, slotTen]
/-- The image handle of a slot has a number of 24 bits, so its bytes lie below every core's memories. -/
theorem slotImg_lt (s : State) (c k : Nat) : slotImg s c k < 2 ^ 24 := Nat.mod_lt _ (by decide)
theorem hKey_image_lt (s : State) (c k : Nat) {i : Nat} (hi : i < imgBytes) : hKey (slotImg s c k) 0 + i < 2 ^ 66 := by
  have number := slotImg_lt s c k
  unfold imgBytes at hi
  unfold hKey
  omega
theorem imgKey_ge (c a : Nat) : 2 ^ 66 ≤ imgKey c a := by unfold imgKey; omega

/-! ## A context leaves its core (R174, R182) -/

theorem savedArea_length (cycles : Nat) (x : CSlot) : (savedArea cycles x).length = 1536 := by
  simp only [savedArea, zeros, List.length_append, List.length_take, List.length_replicate, leB_length]
  omega

/-- Memory after a context is saved: its CSR and queue areas are written, and the image is copied to its handle. -/
def savedMem (s : State) (c k : Nat) : List Host.Cell :=
  memCopy (memWrite s.mem (imgKey c 0x410A00) (savedArea (Config.coreCycles c 64 s.tim.s s.tim.ns).toNat (slotRec s c k)))
    (imgKey c 0) (hKey (slotImg s c k) 0) imgBytes
/-- A slot whose context has been saved, unless it was withdrawn meanwhile (R191). -/
def CSlot.saved (x : CSlot) : CSlot := { x with image := !x.dead, dead := false }

section
variable {s : State} {c k : Nat}

theorem savedMem_wf (hm : memWf s.mem = true) : memWf (savedMem s c k) = true := memWf_copy _ _ _ _ (memWf_write _ _ _ hm)
/-- The image holds bed, accumulator files and registers as the core did. -/
theorem savedMem_context (hm : memWf s.mem = true) {i : Nat} (hi : i < 0x410A00) :
    memGet (savedMem s c k) (hKey (slotImg s c k) 0 + i) = memGet s.mem (imgKey c 0 + i) := by
  rw [savedMem, memGet_copy (memWf_write _ _ _ hm) _ _ (by unfold imgBytes; omega), memGet_write_outside]
  unfold imgKey
  omega
/-- Behind them it holds the CSRs and the tile queue. -/
theorem savedMem_area (hm : memWf s.mem = true) {i : Nat} (hi : i < 1536) :
    memGet (savedMem s c k) (hKey (slotImg s c k) 0x410A00 + i) =
      (savedArea (Config.coreCycles c 64 s.tim.s s.tim.ns).toNat (slotRec s c k)).getD i 0 := by
  have length := savedArea_length (Config.coreCycles c 64 s.tim.s s.tim.ns).toNat (slotRec s c k)
  have source : imgKey c 0 + (0x410A00 + i) = imgKey c 0x410A00 + i := by unfold imgKey; omega
  have place : hKey (slotImg s c k) 0x410A00 + i = hKey (slotImg s c k) 0 + (0x410A00 + i) := by unfold hKey; omega
  rw [place, savedMem, memGet_copy (memWf_write _ _ _ hm) _ _ (by unfold imgBytes; omega), source, memGet_write,
    if_pos ⟨Nat.le_add_right _ _, by omega⟩, Nat.add_sub_cancel_left]
/-- The image of any other handle stays as it was. -/
theorem savedMem_other {h i : Nat} (hh : h < 2 ^ 24) (hne : slotImg s c k ≠ h) (hi : i < imgBytes) :
    memGet (savedMem s c k) (hKey h 0 + i) = memGet s.mem (hKey h 0 + i) := by
  unfold imgBytes at hi
  rw [savedMem, memGet_copy_outside, memGet_write_outside]
  · unfold hKey imgKey
    omega
  · unfold hKey imgBytes
    omega
theorem saveImage_saves (valid : slotValid s c k = true) (owner : (hndRec s (slotImg s c k)).map Hnd.tenant = some (slotTen s c k)) :
    saveImage c k s = countAccess (dieOfCore c) (slotImg s c k) 0 imgBytes (modSlot c k CSlot.saved (modMem (fun _ => savedMem s c k) s)) :=
  if_pos ⟨valid, owner⟩

end

theorem countAccess_frame (d h off n : Nat) (s : State) : Only [.pln] s (countAccess d h off n s) :=
  countAccess_only d h off n (by decide) (Only.rfl' _ s)
theorem countAccess_mem (d h off n : Nat) (s : State) : (countAccess d h off n s).mem = s.mem := countAccess_frame d h off n s .mem (by decide)
theorem slotRec_countAccess (d h off n : Nat) (s : State) (c k : Nat) : slotRec (countAccess d h off n s) c k = slotRec s c k :=
  slotRec_of_cores (congrArg Cor.cores (countAccess_frame d h off n s .cor (by decide))) c k
theorem coreRec_countAccess (d h off n : Nat) (s : State) (c : Nat) : coreRec (countAccess d h off n s) c = coreRec s c :=
  coreRec_of_cores (congrArg Cor.cores (countAccess_frame d h off n s .cor (by decide))) c

/-! ## A context comes in (R183) -/

section
variable (c k : Nat) (s : State)

theorem loadImage_mem : (loadImage c k s).mem =
    if (slotRec s c k).image then memCopy s.mem (hKey (slotImg s c k) 0) (imgKey c 0) imgBytes else memZero s.mem (imgKey c 0) imgBytes := by
  unfold loadImage
  split
  · exact countAccess_mem _ _ _ _ _
  · rfl
/-- What lies below the cores' memories stays. -/
theorem loadImage_below {q : Nat} (hq : q < 2 ^ 66) : memGet (loadImage c k s).mem q = memGet s.mem q := by
  have below := imgKey_ge c 0
  rw [loadImage_mem]
  split
  · rw [memGet_copy_outside (.inl (by omega))]
  · rw [memGet_zero, if_neg (by omega)]
theorem slotRec_loadImage_other {j : Nat} (hj : j ≠ k) : slotRec (loadImage c k s) c j = slotRec s c j := by
  unfold loadImage
  split
  · exact slotRec_countAccess _ _ _ _ _ _ _
  · rw [slotRec_modSlot, if_neg (fun e => hj e.2), slotRec_modMem]
theorem coreRec_loadImage_other {d : Nat} (hd : d ≠ c) : coreRec (loadImage c k s) d = coreRec s d := by
  unfold loadImage
  split
  · exact coreRec_countAccess _ _ _ _ _ _
  · rw [coreRec_modSlot_other hd, coreRec_modMem]
theorem coreRec_saveImage_other {d : Nat} (hd : d ≠ c) : coreRec (saveImage c k s) d = coreRec s d := by
  unfold saveImage
  split
  · rw [coreRec_countAccess, coreRec_modSlot_other hd, coreRec_modMem]
  · exact coreRec_modSlot_other hd _ _ _

end

/-! ## The swap proper (R182, R183) -/

/-- The state in which the outgoing context of a core is saved, if it holds one. -/
def savedOut (c old : Nat) (s : State) : State := if (coreRec s c).empty then s else saveImage c old s
theorem swapContext_eq (c old new : Nat) (s : State) : swapContext c old new s =
    modCore c (fun x => { x with slot := new, empty := false, swaps := satAdd 32 x.swaps 1 }) (zeroBank c (loadImage c new (savedOut c old s))) :=
  rfl

section
variable (c old new : Nat) (s : State)

theorem coreRec_swapContext : (coreRec (swapContext c old new s) c).slot = new ∧ (coreRec (swapContext c old new s) c).empty = false := by
  rw [swapContext_eq, coreRec_modCore, if_pos rfl]
  exact ⟨rfl, rfl⟩
theorem coreRec_swapContext_other {d : Nat} (hd : d ≠ c) : coreRec (swapContext c old new s) d = coreRec s d := by
  rw [swapContext_eq, coreRec_modCore, if_neg hd, zeroBank, coreRec_modMem, coreRec_loadImage_other _ _ _ hd, savedOut]
  split
  · rfl
  · exact coreRec_saveImage_other c old s hd
theorem slotRec_swapContext (j : Nat) : slotRec (swapContext c old new s) c j = slotRec (loadImage c new (savedOut c old s)) c j := by
  rw [swapContext_eq, slotRec_modCore, zeroBank, slotRec_modMem]
theorem swapContext_mem : (swapContext c old new s).mem = memZero (loadImage c new (savedOut c old s)).mem (bankKey c) 0x2000 := rfl
/-- The stationary bank comes out of a swap zero. -/
theorem swapContext_bank {i : Nat} (hi : i < 0x2000) : memGet (swapContext c old new s).mem (bankKey c + i) = 0 := by
  rw [swapContext_mem, memGet_zero, if_pos (by omega)]
theorem swapContext_below {q : Nat} (hq : q < 2 ^ 66) : memGet (swapContext c old new s).mem q = memGet (savedOut c old s).mem q := by
  rw [swapContext_mem, memGet_zero, if_neg (by unfold bankKey; omega), loadImage_below c new _ hq]
theorem swapContext_image {i : Nat} (hi : i < imgBytes) :
    memGet (swapContext c old new s).mem (imgKey c 0 + i) = memGet (loadImage c new (savedOut c old s)).mem (imgKey c 0 + i) := by
  unfold imgBytes at hi
  rw [swapContext_mem, memGet_zero, if_neg (by unfold bankKey imgKey; omega)]

end

/-! ## What the start of a swap latches (R176, R182, R263) -/

/-- A part that has not ended in slot k of core c. -/
def LPart.busyOn (c k : Nat) (p : LPart) : Bool := decide (p.core = c) && decide (p.slot = k) && !p.done
theorem slotBusy_eq (s : State) (c k : Nat) : slotBusy s c k = s.cor.launches.any (fun l => l.parts.any (LPart.busyOn c k)) := rfl
theorem slotBusy_of_launches {s u : State} (h : u.cor.launches = s.cor.launches) (c k : Nat) : slotBusy u c k = slotBusy s c k := by
  rw [slotBusy, h, slotBusy]
@[simp] theorem slotBusy_modCore (d : Nat) (f : Core → Core) (s : State) (c k : Nat) : slotBusy (modCore d f s) c k = slotBusy s c k := rfl
@[simp] theorem slotBusy_modSlot (d j : Nat) (f : CSlot → CSlot) (s : State) (c k : Nat) : slotBusy (modSlot d j f s) c k = slotBusy s c k := rfl
theorem any_map_parts {g : LPart → LPart} {c k : Nat} (hg : ∀ p, (g p).busyOn c k = p.busyOn c k) (ps : List LPart) :
    (ps.map g).any (LPart.busyOn c k) = ps.any (LPart.busyOn c k) := by
  rw [List.any_map]
  exact congrArg ps.any (funext hg)
theorem slotBusy_modPart {f : LPart → LPart} (hf : ∀ p, (f p).core = p.core ∧ (f p).slot = p.slot ∧ (f p).done = p.done) (tag d : Nat)
    (s : State) (c k : Nat) : slotBusy (modPart tag d f s) c k = slotBusy s c k := by
  rw [slotBusy_eq, modPart, modLaunch, modCor_cor, List.any_map, slotBusy_eq]
  refine congrArg s.cor.launches.any (funext fun l => ?_)
  simp only [Function.comp_apply]
  split
  · refine any_map_parts (fun p => ?_) l.parts
    obtain ⟨core, slot, done⟩ := hf p
    split
    · rw [LPart.busyOn, core, slot, done, LPart.busyOn]
    · rfl
  · rfl
theorem slotBusy_markRan (d j : Nat) (s : State) (c k : Nat) : slotBusy (markRan d j s) c k = slotBusy s c k := by
  rw [slotBusy_eq, markRan, modCor_cor, List.any_map, slotBusy_eq]
  exact congrArg s.cor.launches.any (funext fun l => any_map_parts (fun p => by split <;> rfl) l.parts)

/-- From `s` to `u` the counters of core c are latched for its parts, and nothing else of cores and launches that a swap reads differs. -/
structure Latched (c : Nat) (s u : State) : Prop where
  others : ∀ d, d ≠ c → coreRec u d = coreRec s d
  empty : (coreRec u c).empty = (coreRec s c).empty
  slots : ∀ k, slotRec u c k = slotRec s c k
  busy : ∀ k, slotBusy u c k = slotBusy s c k
  frame : Only [.cor, .dbg] s u

/-- The state in which a swap has latched the counters of the outgoing slot's parts. -/
def swapLatched (c : Nat) (s : State) : State :=
  forS (startedOn s c (coreRec s c).slot) (fun tag => latchPart tag c) (drainTrace c s)
theorem drainTrace_idle {c : Nat} {s : State} (h : Map.get [] s.dbg.samples c = []) :
    drainTrace c s = modDbg (fun d => { d with samples := Map.del d.samples c }) s := by
  unfold drainTrace
  rw [h]
  rfl
theorem swapLatched_latched {c : Nat} {s : State} (h : Map.get [] s.dbg.samples c = []) : Latched c s (swapLatched c s) := by
  unfold swapLatched
  rw [drainTrace_idle h]
  refine forS_holds (Latched c s) (fun tag _ x hx => ?_) ⟨fun _ _ => rfl, rfl, fun _ => rfl, fun _ => rfl,
    modDbg_only _ (by decide) (Only.rfl' _ s)⟩
  obtain ⟨f, keeps, latched⟩ := latchPart_eq tag c x
  refine ⟨fun d hd => ?_, ?_, fun k => ?_, fun k => ?_, latchPart_only tag c (by decide) hx.frame⟩
  · rw [latched, coreRec_modCore, if_neg hd, coreRec_modPart, hx.others d hd]
  · rw [latched, coreRec_modCore, if_pos rfl]
    exact hx.empty
  · rw [latched, slotRec_modCore, slotRec_modPart, hx.slots]
  · rw [latched, slotBusy_modCore, slotBusy_modPart keeps, hx.busy]

/-! ## SWAP_DONE (R176, R182, R183, R253) -/

/-- A core that runs stays so or is idle, as its slot is busy. -/
theorem coreRec_settleCore {c : Nat} {s : State} (h : (coreRec s c).st = .running) :
    coreRec (settleCore c s) c = { coreRec s c with st := if slotBusy s c (coreRec s c).slot then .running else .idle } := by
  rw [settleCore, coreRec_settlePreempt, coreRec_modCore, if_pos rfl]
  cases hb : slotBusy s c (coreRec s c).slot <;> simp [h]
theorem coreRec_settleCore_other {c d : Nat} (hd : d ≠ c) (s : State) : coreRec (settleCore c s) d = coreRec s d := by
  rw [settleCore, coreRec_settlePreempt, if_neg (fun e => hd e.1), coreRec_modCore, if_neg hd]
theorem slotRec_settleCore (c d k : Nat) (s : State) : slotRec (settleCore c s) d k = slotRec s d k := by
  rw [settleCore, slotRec_settlePreempt, slotRec_modCore]
theorem settleCore_mem (c : Nat) (s : State) : (settleCore c s).mem = s.mem :=
  settleCore_only (fr := [.cor]) c (by decide) (Only.rfl' _ s) .mem (by decide)

/-- A slot that notes at its swap-out whether a tile of it is ready and what it waits for (R176). -/
def CSlot.swapsOut (ready : Bool) (waits : List Nat) (y : CSlot) : CSlot := { y with readyOut := ready, waitSet := waits }
/-- The state from which contexts change places. -/
def swapReady (c : Nat) (s : State) : State :=
  if (coreRec s c).empty then swapLatched c s
  else modSlot c (coreRec s c).slot (CSlot.swapsOut
    (!(hartWaits (slotRec s c (coreRec s c).slot)) && hasReady (slotRec s c (coreRec s c).slot))
    (waitSetOf (slotRec s c (coreRec s c).slot))) (swapLatched c s)
/-- The state in which contexts have changed places. -/
def swapMoved (c : Nat) (s : State) : State := swapContext c (coreRec s c).slot (coreRec s c).next (swapReady c s)
/-- A slot whose tiles have their blocks read again (R253). -/
def CSlot.reread (blk : Nat → List Byte) (y : CSlot) : CSlot :=
  { y with queue := y.queue.map (fun q => { q with blk := blk q.line, rng := blk q.line }) }
/-- The state in which the incoming slot runs. -/
def swapResumed (c : Nat) (s : State) : State :=
  modCore c (fun y => { y with st := .running, latches := y.counters })
    (modSlot c (coreRec s c).next (CSlot.reread (blockAt (swapMoved c s) c)) (markRan c (coreRec s c).next (swapMoved c s)))
theorem swapDone_eq (c : Nat) (s : State) : swapDone c s = settleCore c (swapResumed c s) := rfl
theorem exec_swapDone {c : Nat} {s : State} (st : (coreRec s c).st = .swapping) (clock : nclkOn s = true) (fence : s.err.fence = false) :
    exec (.swapDone c) s = .next (swapDone c s) := by
  show execSwapDone c s = _
  rw [execSwapDone, if_pos ⟨st, clock, by simp [fence]⟩]

section
variable {c : Nat} {s : State} (h : Map.get [] s.dbg.samples c = [])
include h

theorem swapReady_frame : Only [.cor, .dbg] s (swapReady c s) :=
  ite_only (swapLatched_latched h).frame (modSlot_only _ _ _ (by decide) (swapLatched_latched h).frame)
theorem coreRec_swapReady_other {d : Nat} (hd : d ≠ c) : coreRec (swapReady c s) d = coreRec s d := by
  have latched := swapLatched_latched h
  unfold swapReady
  split
  · exact latched.others d hd
  · rw [coreRec_modSlot_other hd, latched.others d hd]
theorem slotBusy_swapReady (k : Nat) : slotBusy (swapReady c s) c k = slotBusy s c k := by
  have latched := swapLatched_latched h
  unfold swapReady
  split
  · exact latched.busy k
  · exact latched.busy k
theorem empty_swapReady : (coreRec (swapReady c s) c).empty = (coreRec s c).empty := by
  have latched := swapLatched_latched h
  unfold swapReady
  split
  · exact latched.empty
  · rw [modSlot, coreRec_modCore, if_pos rfl]
    exact latched.empty
/-- Every slot as it was, but for what the outgoing one notes. -/
theorem slotRec_swapReady (k : Nat) : ∃ ready waits, slotRec (swapReady c s) c k = (slotRec s c k).swapsOut ready waits := by
  have slots := (swapLatched_latched h).slots
  have plain : slotRec s c k = (slotRec s c k).swapsOut (slotRec s c k).readyOut (slotRec s c k).waitSet := rfl
  unfold swapReady
  split
  · exact ⟨_, _, (slots k).trans plain⟩
  · rw [slotRec_modSlot]
    split
    · next e =>
      rw [e.2, slots]
      exact ⟨_, _, rfl⟩
    · exact ⟨_, _, (slots k).trans plain⟩
theorem savedMem_swapReady (k : Nat) : savedMem (swapReady c s) c k = savedMem s c k := by
  have frame := swapReady_frame h
  obtain ⟨ready, waits, slot⟩ := slotRec_swapReady h k
  rw [savedMem, frame .mem (by decide), frame .tim (by decide), slotImg_of_swap (frame.mono (by decide)), slot, savedMem]
  rfl

end

theorem loadImage_launches (c k : Nat) (s : State) : (loadImage c k s).cor.launches = s.cor.launches := by
  unfold loadImage
  split
  · rw [countAccess_frame _ _ _ _ _ .cor (by decide)]
    rfl
  · rfl
theorem savedOut_launches (c old : Nat) (s : State) : (savedOut c old s).cor.launches = s.cor.launches := by
  unfold savedOut saveImage
  split
  · rfl
  · split
    · rw [countAccess_frame _ _ _ _ _ .cor (by decide)]
      rfl
    · rfl
theorem swapContext_launches (c old new : Nat) (s : State) : (swapContext c old new s).cor.launches = s.cor.launches :=
  (loadImage_launches c new (savedOut c old s)).trans (savedOut_launches c old s)

section
variable {c : Nat} {s : State}

theorem swapDone_mem : (swapDone c s).mem = (swapMoved c s).mem := by
  rw [swapDone_eq, settleCore_mem, swapResumed, modCore_mem, modSlot_mem, markRan_mem]
/-- Every slot but the incoming one is as its context left it. -/
theorem slotRec_swapDone {j : Nat} (hj : j ≠ (coreRec s c).next) : slotRec (swapDone c s) c j = slotRec (swapMoved c s) c j := by
  rw [swapDone_eq, slotRec_settleCore, swapResumed, slotRec_modCore, slotRec_modSlot, if_neg (fun e => hj e.2)]
  rfl
theorem coreRec_swapResumed : (coreRec (swapResumed c s) c).st = .running ∧ (coreRec (swapResumed c s) c).slot = (coreRec s c).next ∧
    (coreRec (swapResumed c s) c).empty = false := by
  obtain ⟨slot, full⟩ := coreRec_swapContext c (coreRec s c).slot (coreRec s c).next (swapReady c s)
  rw [← swapMoved] at slot full
  rw [swapResumed, coreRec_modCore, if_pos rfl, modSlot, coreRec_modCore, if_pos rfl, coreRec_markRan]
  exact ⟨rfl, slot, full⟩

variable (h : Map.get [] s.dbg.samples c = [])
include h

/-- The incoming slot is resident, and its core runs if it has work there (R183). -/
theorem coreRec_swapDone : (coreRec (swapDone c s) c).slot = (coreRec s c).next ∧ (coreRec (swapDone c s) c).empty = false ∧
    (coreRec (swapDone c s) c).st = if slotBusy s c (coreRec s c).next then .running else .idle := by
  obtain ⟨running, slot, full⟩ := coreRec_swapResumed (c := c) (s := s)
  have busy : slotBusy (swapResumed c s) c (coreRec s c).next = slotBusy s c (coreRec s c).next := by
    rw [swapResumed, slotBusy_modCore, slotBusy_modSlot, slotBusy_markRan, swapMoved, slotBusy_of_launches (swapContext_launches _ _ _ _),
      slotBusy_swapReady h]
  rw [swapDone_eq, coreRec_settleCore running, slot, busy]
  generalize coreRec (swapResumed c s) c = x at full ⊢
  exact ⟨rfl, full, rfl⟩
theorem coreRec_swapDone_other {d : Nat} (hd : d ≠ c) : coreRec (swapDone c s) d = coreRec s d := by
  rw [swapDone_eq, coreRec_settleCore_other hd, swapResumed, coreRec_modCore, if_neg hd, coreRec_modSlot_other hd, coreRec_markRan, swapMoved,
    coreRec_swapContext_other _ _ _ _ hd, coreRec_swapReady_other h hd]
/-- A core that held no context saves none. -/
theorem swapDone_empty (empty : (coreRec s c).empty = true) {q : Nat} (hq : q < 2 ^ 66) : memGet (swapDone c s).mem q = memGet s.mem q := by
  rw [swapDone_mem, swapMoved, swapContext_below _ _ _ _ hq, savedOut, if_pos ((empty_swapReady h).trans empty),
    swapReady_frame h .mem (by decide)]

end

/-- A swap whose outgoing slot holds a context with an image of its tenant's, and whose incoming slot is another with another image. -/
structure Exchanges (c old new : Nat) (s : State) : Prop where
  out : old = (coreRec s c).slot
  incomingSlot : new = (coreRec s c).next
  ne : old ≠ new
  full : (coreRec s c).empty = false
  valid : slotValid s c old = true
  images : slotImg s c old ≠ slotImg s c new
  owner : (hndRec s (slotImg s c old)).map Hnd.tenant = some (slotTen s c old)
  quiet : Map.get [] s.dbg.samples c = []
  wf : memWf s.mem = true

section
variable {c old new : Nat} {s : State} (h : Exchanges c old new s)
include h

/-- The outgoing context is saved. -/
theorem Exchanges.saves : savedOut c old (swapReady c s) =
    countAccess (dieOfCore c) (slotImg (swapReady c s) c old) 0 imgBytes
      (modSlot c old CSlot.saved (modMem (fun _ => savedMem (swapReady c s) c old) (swapReady c s))) := by
  have frame := swapReady_frame h.quiet
  have same : Only swapParts s (swapReady c s) := frame.mono (by decide)
  rw [savedOut, if_neg (by rw [empty_swapReady h.quiet, h.full]; exact Bool.false_ne_true)]
  refine saveImage_saves ((slotValid_of_swap same c old).trans h.valid) ?_
  have pln : (swapReady c s).pln = s.pln := frame .pln (by decide)
  have hnd : ∀ i, hndRec (swapReady c s) i = hndRec s i := fun i => by rw [hndRec, pln, hndRec]
  rw [hnd, slotImg_of_swap same, slotTen_of_swap same]
  exact h.owner
theorem Exchanges.saved_mem : (savedOut c old (swapReady c s)).mem = savedMem s c old := by
  rw [h.saves, countAccess_mem, modSlot_mem, modMem_mem, savedMem_swapReady h.quiet]
theorem Exchanges.saved_slot : ∃ ready waits,
    slotRec (savedOut c old (swapReady c s)) c old = ((slotRec s c old).swapsOut ready waits).saved := by
  obtain ⟨ready, waits, slot⟩ := slotRec_swapReady h.quiet old
  refine ⟨ready, waits, ?_⟩
  rw [h.saves, slotRec_countAccess, slotRec_modSlot, if_pos ⟨rfl, rfl⟩, slotRec_modMem, slot]
theorem Exchanges.incoming : (slotRec (savedOut c old (swapReady c s)) c new).image = (slotRec s c new).image := by
  obtain ⟨ready, waits, slot⟩ := slotRec_swapReady h.quiet new
  rw [h.saves, slotRec_countAccess, slotRec_modSlot, if_neg (fun e => h.ne e.2.symm), slotRec_modMem, slot]
  rfl
theorem Exchanges.moved : swapMoved c s = swapContext c old new (swapReady c s) := by rw [swapMoved, ← h.out, ← h.incomingSlot]

/-- The outgoing slot has an image, unless it was withdrawn meanwhile. -/
theorem Exchanges.image : (slotRec (swapDone c s) c old).image = !(slotRec s c old).dead := by
  obtain ⟨ready, waits, slot⟩ := h.saved_slot
  rw [slotRec_swapDone (h.incomingSlot ▸ h.ne), h.moved, slotRec_swapContext, slotRec_loadImage_other _ _ _ h.ne, slot]
  rfl
/-- Handles hold after the swap what they hold once the outgoing context is saved. -/
theorem Exchanges.below {q : Nat} (hq : q < 2 ^ 66) : memGet (swapDone c s).mem q = memGet (savedMem s c old) q := by
  rw [swapDone_mem, h.moved, swapContext_below _ _ _ _ hq, h.saved_mem]
theorem Exchanges.context :
    memRead (swapDone c s).mem (hKey (slotImg s c old) 0) 0x410A00 = memRead s.mem (imgKey c 0) 0x410A00 :=
  memRead_congr (fun i hi => by
    rw [h.below (hKey_image_lt s c old (by unfold imgBytes; omega)), savedMem_context h.wf hi])
theorem Exchanges.area : memRead (swapDone c s).mem (hKey (slotImg s c old) 0x410A00) 1536 =
    savedArea (Config.coreCycles c 64 s.tim.s s.tim.ns).toNat (slotRec s c old) := by
  have length := savedArea_length (Config.coreCycles c 64 s.tim.s s.tim.ns).toNat (slotRec s c old)
  rw [← length]
  refine memRead_bytes (fun i hi => ?_)
  rw [length] at hi
  have place : hKey (slotImg s c old) 0x410A00 + i = hKey (slotImg s c old) 0 + (0x410A00 + i) := by unfold hKey; omega
  rw [place, h.below (hKey_image_lt s c old (by unfold imgBytes; omega)), ← place, savedMem_area h.wf hi]
/-- A saved image comes in as it lies in its handle. -/
theorem Exchanges.loaded (saved : (slotRec s c new).image = true) :
    memRead (swapDone c s).mem (imgKey c 0) imgBytes = memRead s.mem (hKey (slotImg s c new) 0) imgBytes := by
  refine memRead_congr (fun i hi => ?_)
  have same : slotImg (savedOut c old (swapReady c s)) c new = slotImg s c new :=
    slotImg_of_swap (((swapReady_frame h.quiet).mono (by decide)).trans
      (ite_only (Only.rfl' _ _) (saveImage_only c old (by decide) (by decide) (by decide) (Only.rfl' _ _)))) c new
  rw [swapDone_mem, h.moved, swapContext_image _ _ _ _ hi, loadImage_mem, if_pos (h.incoming.trans saved), h.saved_mem, same,
    memGet_copy (savedMem_wf h.wf) _ _ hi, savedMem_other (slotImg_lt s c new) h.images hi]
/-- Where none was saved, the context comes in zero. -/
theorem Exchanges.zeroed (unsaved : (slotRec s c new).image = false) {i : Nat} (hi : i < imgBytes) :
    memGet (swapDone c s).mem (imgKey c i) = 0 := by
  have place : imgKey c i = imgKey c 0 + i := by unfold imgKey; omega
  rw [place, swapDone_mem, h.moved, swapContext_image _ _ _ _ hi, loadImage_mem, if_neg (by rw [h.incoming, unsaved]; exact Bool.false_ne_true),
    memGet_zero, if_pos (by omega)]
theorem Exchanges.bank {i : Nat} (hi : i < 0x2000) : memGet (swapDone c s).mem (bankKey c + i) = 0 := by
  rw [swapDone_mem, h.moved, swapContext_bank _ _ _ _ hi]

end

end Sys2Proof.Machine
end

section
/-!
Plots, launches and slices end as 04 and 06 say.
-/
namespace Sys2Proof.Machine

/-! ## A plot ends on its core (R230, R231) -/

/-- A hart that makes a sound run, on the part of a launch that is in the table. -/
structure EndsPlot (c k : Nat) (r : HartRun) (l : Launch) (p : LPart) (s : State) : Prop where
  runs : HartRuns c k r l p s
  sound : runFault s c (slotTen s c k) r = none
  launch : launchRec s l.tag = some l
  part : l.parts.find? (fun p => decide (p.core = c)) = some p

/-- The state in which the run of a plot that ends has been made, and the plot counted. -/
def plotCounted (c k : Nat) (r : HartRun) (tag : Nat) (s : State) : State := modPart tag c LPart.plotEnds (applyRun c k r s)
/-- The state in which the next plot of a part has begun. -/
def plotFollows (c k : Nat) (r : HartRun) (l : Launch) (q : Nat) (rest : List Nat) (s : State) : State :=
  startPlot c k l.entry q l.arg (modPart l.tag c (LPart.begins q rest) (plotCounted c k r l.tag s))
/-- The state in which a part has no plot left and its hart is off. -/
def hartStops (c k : Nat) (r : HartRun) (tag : Nat) (s : State) : State :=
  modSlot c k (fun x => { x with hart := .off }) (modPart tag c LPart.stops (plotCounted c k r tag s))

section
variable {c k : Nat} {r : HartRun} {l : Launch} {p : LPart} {s : State}

theorem plotCounted_frame (tag : Nat) : Only [.mem, .cor] s (plotCounted c k r tag s) :=
  modPart_only _ _ _ (by decide) (applyRun_frame c k r s)
theorem hartStops_frame (tag : Nat) : Only [.mem, .cor] s (hartStops c k r tag s) :=
  modSlot_only _ _ _ (by decide) (modPart_only _ _ _ (by decide) (plotCounted_frame tag))
theorem plotFollows_frame (q : Nat) (rest : List Nat) : Only [.mem, .cor] s (plotFollows c k r l q rest s) :=
  startPlot_only _ _ _ _ _ (by decide) (by decide) (modPart_only _ _ _ (by decide) (plotCounted_frame l.tag))
theorem hartStops_hart (tag : Nat) : (slotRec (hartStops c k r tag s) c k).hart = .off := by
  rw [hartStops, slotRec_modSlot, if_pos ⟨rfl, rfl⟩]
/-- A hart that stops leaves its core's tiles. -/
theorem queue_hartStops (tag j : Nat) : (slotRec (hartStops c k r tag s) c j).queue = (slotRec s c j).queue := by
  have queue : (slotRec (plotCounted c k r tag s) c j).queue = (slotRec s c j).queue := by
    rw [plotCounted, slotRec_modPart, ((applyRun_steady c k r s).slots j).queue]
  rw [hartStops, slotRec_modSlot, slotRec_modPart]
  split
  · next e =>
    obtain ⟨-, rfl⟩ := e
    exact queue
  · exact queue

variable (h : EndsPlot c k r l p s)
include h

theorem EndsPlot.counted : launchRec (plotCounted c k r l.tag s) l.tag = some (l.onCore c LPart.plotEnds) :=
  launchRec_modPart (((applyRun_steady c k r s).launchRec_eq l.tag).trans h.launch) c LPart.plotEnds
theorem EndsPlot.countedPart : (l.onCore c LPart.plotEnds).parts.find? (fun p => decide (p.core = c)) = some p.plotEnds := by
  rw [find_onCore, h.part]
  rfl
/-- A part with plots left begins the next. -/
theorem EndsPlot.exec_follows {q : Nat} {rest : List Nat} (todo : p.todo = q :: rest) :
    exec (.plotEnd c r) s = .next (plotFollows c k r l q rest s) ∧
    ∃ m, launchRec (plotFollows c k r l q rest s) l.tag = some m ∧
      m.parts.find? (fun p => decide (p.core = c)) = some (p.plotEnds.begins q rest) := by
  have begins : nextPlot l.tag c k (plotCounted c k r l.tag s) = plotFollows c k r l q rest s :=
    nextPlot_begins h.counted h.countedPart (show p.plotEnds.todo = q :: rest from todo)
  have launch : launchRec (plotFollows c k r l q rest s) l.tag = some ((l.onCore c LPart.plotEnds).onCore c (LPart.begins q rest)) :=
    launchRec_modPart h.counted c _
  have part : ((l.onCore c LPart.plotEnds).onCore c (LPart.begins q rest)).parts.find? (fun p => decide (p.core = c)) =
      some (p.plotEnds.begins q rest) := by
    rw [find_onCore, h.countedPart]
    rfl
  refine ⟨?_, _, launch, part⟩
  have goesOn := h.runs.exec_plotEnd h.sound
  rw [← plotCounted, begins, endPart_plot launch part nofun] at goesOn
  exact goesOn

variable (todo : p.todo = [])
include todo

/-- A part without plots left is given its end, its hart off. -/
theorem EndsPlot.exec_stops : exec (.plotEnd c r) s = .next (endPart l.tag c (hartStops c k r l.tag s)) ∧
    launchRec (hartStops c k r l.tag s) l.tag = some ((l.onCore c LPart.plotEnds).onCore c LPart.stops) ∧
    ((l.onCore c LPart.plotEnds).onCore c LPart.stops).parts.find? (fun p => decide (p.core = c)) = some p.plotEnds.stops := by
  have stops : nextPlot l.tag c k (plotCounted c k r l.tag s) = hartStops c k r l.tag s :=
    nextPlot_stops h.counted h.countedPart (show p.plotEnds.todo = [] from todo)
  refine ⟨?_, launchRec_modPart h.counted c _, ?_⟩
  · rw [← stops]
    exact h.runs.exec_plotEnd h.sound
  · rw [find_onCore, h.countedPart]
    rfl

end

/-- The end of the last plot of a launch's only part completes the launch, no tile of its queued. -/
theorem EndsPlot.completes {c k : Nat} {r : HartRun} {l : Launch} {p : LPart} {d : Live} {s : State} (h : EndsPlot c k r l p s)
    (only : l.parts = [p]) (core : p.core = c) (started : p.started = true) (live : p.done = false) (todo : p.todo = [])
    (tiles : ∀ q ∈ (slotRec s c p.slot).queue, q.launch ≠ l.tag) (hd : MayEnd s l.tag d) :
    Completes (.plotEnd c r) s (fun u =>
      launchRec u l.tag = none ∧ Ended u l.tag d.step 0 0 (l.flags % 256 + min l.tiles (2 ^ 32 - 1) * 2 ^ 32)) := by
  obtain ⟨ends, launch, -⟩ := h.exec_stops todo
  have parts : ((l.onCore c LPart.plotEnds).onCore c LPart.stops).parts = [p.plotEnds.stops] := by
    simp [Launch.onCore, only, core, LPart.plotEnds]
  rw [endPart_completes launch parts core started live todo rfl (fun q hq => tiles q (queue_hartStops (s := s) l.tag p.slot ▸ hq))] at ends
  have gone : Only tallyParts s (settleCores (dropLaunch l.tag (partOver l.tag c (hartStops c k r l.tag s)))) :=
    settleCores_only (by decide) (dropLaunch_only l.tag (by decide) (by decide)
      (((hartStops_frame l.tag).mono (by decide)).trans partOver_frame))
  have mayEnd := hd.of_only gone (by decide) (by decide)
  exact ⟨_, ends, ((FaultStands.refl _).settleCores.done l.tag _ _ _).gone l.tag (launchRec_dropLaunch l.tag _),
    (mayEnd.endsWith (Only.rfl' _ _) _ _ _).1⟩

/-! ## The time limit of a launch (R232, R261) -/

section
variable {tag : Nat} {l : Launch} {p : LPart} {rest : List LPart} {d : Live} {s : State} (hl : launchRec s tag = some l)
include hl

/-- The fault is noted at the lowest core (log 38). -/
theorem exec_launchTimeout (parts : l.parts = p :: rest) (begun : l.at_.isSome = true) (clock : nclkOn s = true) :
    exec (.launchTimeout tag) s = .next (failLaunch tag 0x0303 0 ((l.parts.map LPart.ended).sum % 2 ^ 32)
      (noteFlt p.core 0x12 0 l.tenant (p.plot.getD 0) s)) := by
  show execLaunchTimeout tag s = _
  simp [execLaunchTimeout, hl, parts, begun, clock]
theorem launchTimeout_ends (hd : MayEnd s tag d) (parts : l.parts = p :: rest) (begun : l.at_.isSome = true) (clock : nclkOn s = true) :
    Completes (.launchTimeout tag) s (fun u =>
      launchRec u tag = none ∧ (coreRec u p.core).fltInfo = 0x12 * 2 ^ 24 + l.tenant ∧
      Ended u tag d.step 0x0303 0 ((l.parts.map LPart.ended).sum % 2 ^ 32)) := by
  have noted : MayEnd (noteFlt p.core 0x12 0 l.tenant (p.plot.getD 0) s) tag d :=
    hd.of_only (noteFlt_only (fr := [.cor]) _ _ _ _ _ (by decide) (Only.rfl' _ s)) (by decide) (by decide)
  have stands := (FaultStands.refl (noteFlt p.core 0x12 0 l.tenant (p.plot.getD 0) s)).failLaunch tag 0x0303 0
    ((l.parts.map LPart.ended).sum % 2 ^ 32)
  refine ⟨_, exec_launchTimeout hl parts begun clock, failLaunch_gone _ _ _ _ _, ?_,
    (failLaunch_ends (s := noteFlt p.core 0x12 0 l.tenant (p.plot.getD 0) s) hl noted _ _ _).1⟩
  rw [stands.info, noteFlt, coreRec_modCore, if_pos rfl, Nat.zero_mul, Nat.add_zero]

end

/-- Settles O31: a plot's end is `plotFollows`, `hartStops` or, at the last of a launch, `EndsPlot.completes`; a fault of a run is
`faultAfterRun`, the time limit `launchTimeout_ends`; a quantum's end is `preempt`, its limit `limitReached`, and what a swap moves is
said by `Exchanges`. -/
theorem plotsAndSlices : Obligations.PlotsAndSlices := by
  refine ⟨fun c k r l p s here free unblocked sound launch part todo => ?next,
    fun c k r l p s here free unblocked sound launch part todo tiles => ?tiles,
    fun c k r l p d s here free unblocked sound launch only core started live todo tiles hd link resumed seals => ?last,
    fun cmd code st detail c k v r l p d s hcmd here free unblocked sound launch hd link resumed seals => ?abort,
    fun cmd c k v e r l p d s hcmd here free unblocked raised launch hd link resumed seals => ?raised,
    fun tag l p rest d s launch parts begun clock hd link resumed seals =>
      launchTimeout_ends launch ⟨hd, link, resumed, seals⟩ parts begun clock,
    fun c s st clock => ?quantum, fun c s st clock => ?limit,
    fun c old new s st clock fence out next ne full valid images owner _ quiet wf => ?swap,
    fun c s st clock fence empty quiet => ?first, fun die seg s => rfl⟩
  case next =>
    have h : EndsPlot c k r l p s := ⟨⟨here, free, unblocked⟩, sound, launch, part⟩
    obtain ⟨q, rest, todo⟩ := List.exists_cons_of_ne_nil todo
    obtain ⟨does, m, launch, part⟩ := h.exec_follows todo
    have hart : slotRec (plotFollows c k r l q rest s) c k = CSlot.fresh _ := startPlot_slot
    rw [todo]
    exact ⟨_, does, congrArg CSlot.hart hart, memRead_startPlot (j := 0) (by decide), memRead_startPlot (j := 10) (by decide),
      ⟨m, launch, _, part, rfl, rfl, rfl⟩, plotFollows_frame q rest⟩
  case tiles =>
    have h : EndsPlot c k r l p s := ⟨⟨here, free, unblocked⟩, sound, launch, part⟩
    obtain ⟨does, launch, part⟩ := h.exec_stops todo
    have queued : ∃ q ∈ (slotRec (hartStops c k r l.tag s) c p.plotEnds.stops.slot).queue, q.launch = l.tag := by
      rw [queue_hartStops]
      exact tiles
    rw [endPart_tiles launch part queued] at does
    exact ⟨_, does, hartStops_hart l.tag, ⟨_, launch, _, part, rfl, rfl⟩, hartStops_frame l.tag⟩
  case last =>
    have part : l.parts.find? (fun p => decide (p.core = c)) = some p := by simp [only, core]
    have h : EndsPlot c k r l p s := ⟨⟨here, free, unblocked⟩, sound, launch, part⟩
    exact h.completes only core started live todo tiles ⟨hd, link, resumed, seals⟩
  case abort =>
    have runs : HartRuns c k r l p s := ⟨here, free, unblocked⟩
    obtain ⟨⟨gone, info, count⟩, plot, ended⟩ := faultAfterRun (c := c) (k := k) (r := r) launch ⟨hd, link, resumed, seals⟩
      code (p.plot.getD 0) st detail
    have does : exec cmd s = .next (faultLaunch l.tag c code 0 (p.plot.getD 0) st detail (applyRun c k r s)) := by
      simp only [List.mem_cons, List.not_mem_nil, or_false, Prod.mk.injEq] at hcmd
      obtain ⟨rfl, rfl, rfl, rfl⟩ | ⟨rfl, rfl, rfl, rfl⟩ := hcmd
      · exact congrArg Host.Outcome.next (runs.sound _ sound)
      · exact congrArg Host.Outcome.next (runs.sound _ sound)
    exact ⟨_, does, gone, info, plot, count, ended⟩
  case raised =>
    have runs : HartRuns c k r l p s := ⟨here, free, unblocked⟩
    obtain ⟨⟨gone, info, -⟩, -, ended⟩ := faultAfterRun (c := c) (k := k) (r := r) launch ⟨hd, link, resumed, seals⟩
      0x10 (p.plot.getD 0) 0x0301 e
    exact ⟨_, runs.exec_raises raised hcmd, gone, info, ended⟩
  case quantum =>
    refine ⟨_, exec_quantumExpiry st clock, fun none => by rw [none]; rfl, fun k found => ?_, ?_⟩
    · obtain ⟨next, slot, state⟩ := coreRec_preempt c k s
      rw [found]
      exact ⟨next, slot, state, slot_preempt c k s, fun d hd => ((Steady.refl c s).preempt k).others d hd⟩
    · cases nextRunnable s c with
      | none => exact Only.rfl' _ s
      | some k => exact preempt_only c k (by decide) (Only.rfl' _ s)
  case limit =>
    obtain ⟨next, discards⟩ := discardFlight_core c (coreRec s c).slot s
    refine ⟨_, exec_preemptLimit st clock, ?_, ?_, queue_limitReached c s, ?_, limitReached_max c s,
      fun d hd => coreRec_limitReached_other c s hd, limitReached_frame c s⟩
    · rw [coreRec_limitReached, if_pos rfl]
    · rw [coreRec_limitReached, if_pos rfl]
      exact next
    · rw [coreRec_limitReached, if_pos rfl]
      exact discards
  case swap =>
    have h : Exchanges c old new s := ⟨out, next, ne, full, valid, images, owner, quiet, wf⟩
    obtain ⟨slot, -, state⟩ := coreRec_swapDone quiet
    rw [← next] at slot state
    exact ⟨_, exec_swapDone st clock fence, slot, state, h.image, h.context, h.area, h.loaded, fun zero i hi => h.zeroed zero hi,
      fun i hi => h.bank hi, fun d hd => coreRec_swapDone_other quiet hd,
      swapDone_only c (by decide) (by decide) (by decide) (by decide) (Only.rfl' _ s)⟩
  case first =>
    obtain ⟨slot, full, state⟩ := coreRec_swapDone quiet
    exact ⟨_, exec_swapDone st clock fence, slot, full, state, fun a ha => swapDone_empty quiet empty ha,
      fun d hd => coreRec_swapDone_other quiet hd,
      swapDone_only c (by decide) (by decide) (by decide) (by decide) (Only.rfl' _ s)⟩

end Sys2Proof.Machine
end

section
/-!
The ports of the Vine (07): what the operations on a link leave of the ports' records, of the inbox and of what has been sent.
-/
namespace Sys2Proof.Machine

/-! ## The record of one port -/

@[simp] theorem portRec_modPort (p q : Nat) (f : Port → Port) (s : State) :
    portRec (modPort p f s) q = if q = p then f (portRec s p) else portRec s q := get_upd ({} : Port) s.vnl.ports p q f
@[simp] theorem portRec_sendIdle (p ack : Nat) (nak valid : Bool) (credits cls : Nat) (hb : Bool) (s : State) (q : Nat) :
    portRec (sendIdle p ack nak valid credits cls hb s) q = portRec s q := rfl
theorem sendIdle_sent (p ack : Nat) (nak valid : Bool) (credits cls : Nat) (hb : Bool) (s : State) :
    Out.flit p (envClose (envHead 0 0 0 false false 0 0 ack nak valid ++ zeros 272) (credits + cls * 0x4000 + b2n hb * 0x10000)) ∈
      (sendIdle p ack nak valid credits cls hb s).out := List.mem_cons_self
@[simp] theorem portBind_modPort (p q : Nat) (f : Port → Port) (s : State) : portBind (modPort p f s) q = portBind s q := rfl
@[simp] theorem portRec_portEvt (p code : Nat) (s : State) (q : Nat) : portRec (portEvt p code s) q = portRec s q := rfl

theorem portRec_of_ports {s u : State} (h : u.vnl.ports = s.vnl.ports) (q : Nat) : portRec u q = portRec s q := by rw [portRec, h, portRec]
theorem portRec_of_vnl {s u : State} (h : u.vnl = s.vnl) (q : Nat) : portRec u q = portRec s q := portRec_of_ports (by rw [h]) q

/-! ## Traffic on the links (R271, R277, R278, R301) -/

/-- A port's record but for what sending changes of it: the counter, the retry buffer, the credits and the count of diversions. -/
def Port.bare (x : Port) : Port := { x with txCtr := 0, retry := [], credits := [], err := { x.err with divert := 0 } }

/-- Between `a` and `s` messages have left or wait: no port has changed but by sending, nothing has been received. -/
structure Traffic (a s : State) : Prop where
  ports : ∀ q, (portRec s q).bare = (portRec a q).bare
  inbox : s.vnl.inbox = a.vnl.inbox
  sent : ∀ o ∈ a.out, o ∈ s.out
  frame : Only [.out, .vnl] a s

namespace Traffic

variable {a s : State}

theorem refl (a : State) : Traffic a a := ⟨fun _ => rfl, rfl, fun _ h => h, Only.rfl' _ a⟩
theorem modPort {f : Port → Port} (h : Traffic a s) (p : Nat) (hf : ∀ x, (f x).bare = x.bare := by intro _; rfl) :
    Traffic a (modPort p f s) where
  ports q := by
    rw [portRec_modPort]
    split
    · next e => rw [hf, h.ports, e]
    · exact h.ports q
  inbox := h.inbox
  sent := h.sent
  frame := modPort_only p f (by decide) h.frame
theorem modVnl {f : Vnl → Vnl} (h : Traffic a s) (hp : (f s.vnl).ports = s.vnl.ports := by rfl)
    (hi : (f s.vnl).inbox = s.vnl.inbox := by rfl) :
    Traffic a (modVnl f s) where
  ports q := by rw [portRec_of_ports (s := s) hp, h.ports]
  inbox := hi.trans h.inbox
  sent := h.sent
  frame := modVnl_only f (by decide) h.frame
theorem emit (h : Traffic a s) (o : Out) : Traffic a (emit o s) where
  ports := h.ports
  inbox := h.inbox
  sent x hx := List.mem_cons_of_mem o (h.sent x hx)
  frame := emit_only o (by decide) h.frame
theorem forS {α : Type} {l : List α} {f : α → State → State} (h : Traffic a s) (hf : ∀ q x, Traffic a x → Traffic a (f q x)) :
    Traffic a (forS l f s) := by
  induction l generalizing s with
  | nil => exact h
  | cons q r ih => exact ih (hf q s h)

theorem sealFlit (h : Traffic a s) (p typ cls dest : Nat) (som eom : Bool) (payload : List Byte) (dv : Bool) :
    Traffic a (sealFlit p typ cls dest som eom payload dv s).2 := h.modPort p
theorem sendFlit (h : Traffic a s) (p typ cls dest : Nat) (som eom : Bool) (payload : List Byte) :
    Traffic a (sendFlit p typ cls dest som eom payload s) := by
  have sealed := h.sealFlit p typ cls dest som eom payload false
  exact Traffic.emit (sealed.modPort p) _
theorem countDivert (h : Traffic a s) (p n : Nat) : Traffic a (countDivert p n s) := h.modPort p
theorem handOver (h : Traffic a s) (b k : Nat) (env : List Byte) : Traffic a (handOver b k env s) := h.modVnl
theorem queueMsg (h : Traffic a s) (m : VMsg) : Traffic a (queueMsg m s) := h.modVnl
theorem sealMsg (h : Traffic a s) (p : Nat) (m : VMsg) : Traffic a (sealMsg p m s) := by
  unfold Machine.sealMsg
  dsimp only
  split
  · exact h.forS fun _ _ hx => (hx.sealFlit ..).modPort p
  · exact h.queueMsg _
theorem sendMsg (h : Traffic a s) (p : Nat) (m : VMsg) : Traffic a (sendMsg p m s) := h.forS fun _ _ hx => hx.sendFlit ..
theorem placeMsg (h : Traffic a s) (m : VMsg) : Traffic a (placeMsg m s) := by
  unfold Machine.placeMsg
  dsimp only
  split
  · split
    · exact h.sendMsg _ m
    · exact h.queueMsg _
  · exact h.queueMsg _
theorem retryMsg (h : Traffic a s) (m : VMsg) : Traffic a (retryMsg m s) := by
  unfold Machine.retryMsg
  split
  · split
    · split
      · exact h.sendMsg _ m
      · exact h.queueMsg m
    · exact h.placeMsg m
  · exact h.placeMsg m
theorem drainQueue (h : Traffic a s) : Traffic a (drainQueue s) :=
  Traffic.forS (h.modVnl) fun _ _ hx => hx.forS fun m _ hy => hy.retryMsg m
theorem divertSlot (h : Traffic a s) (b k : Nat) : Traffic a (divertSlot b k s) := by
  unfold Machine.divertSlot
  split
  · split
    · exact h
    · exact Traffic.forS (Traffic.forS (h.modVnl) fun m _ hx => hx.sealMsg _ m) fun q _ hx =>
        Traffic.forS (Traffic.countDivert (hx.modPort q) q _) fun f _ hy => hy.handOver b k f.bytes
  · exact h
theorem divertBind (h : Traffic a s) (b : Nat) : Traffic a (divertBind b s) := h.forS fun k _ hx => hx.divertSlot b k

end Traffic

end Sys2Proof.Machine
end

section
/-!
The hedge and the gate of a port (R281, R293 to R297 of 07): what the handshake's operations make of the port's record, when the gate
opens and how it closes.
-/
namespace Sys2Proof.Machine

/-! ## Postings and the ready mark leave the ports -/

theorem noteT_frame (t code subject detail : Nat) (s : State) : Only [.out, .hif, .book] s (noteT t code subject detail s) :=
  noteT_only t code subject detail (by decide) (by decide) (by decide) (Only.rfl' _ s)
@[simp] theorem noteT_vnl (t code subject detail : Nat) (s : State) : (noteT t code subject detail s).vnl = s.vnl :=
  noteT_frame t code subject detail s .vnl (by decide)
@[simp] theorem noteT_cel (t code subject detail : Nat) (s : State) : (noteT t code subject detail s).cel = s.cel :=
  noteT_frame t code subject detail s .cel (by decide)
@[simp] theorem portRec_noteT (t code subject detail : Nat) (s : State) (q : Nat) : portRec (noteT t code subject detail s) q = portRec s q :=
  portRec_of_vnl (noteT_vnl t code subject detail s) q

theorem updReady_vnl (b : Nat) (s : State) : ∃ binds, (updReady b s).vnl = { s.vnl with binds := binds } := by
  unfold updReady
  dsimp only
  split
  · exact ⟨_, noteT_vnl ..⟩
  · exact ⟨_, rfl⟩
@[simp] theorem portRec_updReady (b : Nat) (s : State) (q : Nat) : portRec (updReady b s) q = portRec s q := by
  obtain ⟨binds, h⟩ := updReady_vnl b s
  exact portRec_of_ports (by rw [h]) q
@[simp] theorem updReady_inbox (b : Nat) (s : State) : (updReady b s).vnl.inbox = s.vnl.inbox := by
  obtain ⟨binds, h⟩ := updReady_vnl b s
  rw [h]
@[simp] theorem updReady_cel (b : Nat) (s : State) : (updReady b s).cel = s.cel :=
  updReady_only (fr := [.out, .hif, .vnl, .book]) b (by decide) (by decide) (by decide) (by decide) (Only.rfl' _ s) .cel (by decide)

@[simp] theorem portEvt_vnl (p code : Nat) (s : State) : (portEvt p code s).vnl = s.vnl := rfl
@[simp] theorem portEvt_up (p code : Nat) (s : State) : (portEvt p code s).cel.up = s.cel.up ++ [.event 8 p code [] p 0] := rfl

/-! ## A change of one port beside what is sent -/

/-- `a` with other port records, other output and another count of free values. -/
def onLinks (a : State) (ports : Map Port) (out : List Out) (free : Nat) : State :=
  { a with vnl := { a.vnl with ports := ports }, out := out, free := free }

/-- `s` is `a` but for the record of port `p`, which is `y`, for what has been sent and for the free values drawn. -/
structure Moves (p : Nat) (y : Port) (a s : State) : Prop where
  port : portRec s p = y
  others : ∀ q, q ≠ p → portRec s q = portRec a q
  rest : s = onLinks a s.vnl.ports s.out s.free

namespace Moves

variable {p : Nat} {y : Port} {a s : State}

theorem refl (p : Nat) (a : State) : Moves p (portRec a p) a a := ⟨rfl, fun _ _ => rfl, rfl⟩
theorem modPort (h : Moves p y a s) (f : Port → Port) : Moves p (f y) a (modPort p f s) where
  port := by rw [portRec_modPort, if_pos rfl, h.port]
  others q hq := by rw [portRec_modPort, if_neg hq, h.others q hq]
  rest := by
    conv_lhs => rw [h.rest]
    rfl
theorem emit (h : Moves p y a s) (o : Out) : Moves p y a (emit o s) where
  port := h.port
  others := h.others
  rest := by
    conv_lhs => rw [h.rest]
    rfl
theorem fresh (h : Moves p y a s) (w : Nat) : Moves p y a (fresh w s).2 where
  port := h.port
  others := h.others
  rest := by
    conv_lhs => rw [h.rest]
    rfl
theorem modShake (h : Moves p y a s) (f : Shake → Shake) : Moves p { y with shake := f y.shake } a (modShake p f s) :=
  h.modPort fun x => { x with shake := f x.shake }
theorem forS {α : Type} {l : List α} {f : α → State → State} (h : Moves p y a s) (hf : ∀ q x, Moves p y a x → Moves p y a (f q x)) :
    Moves p y a (forS l f s) := by
  induction l generalizing s with
  | nil => exact h
  | cons q r ih => exact ih (hf q s h)
theorem sendTrain (h : Moves p y a s) (q : Nat) (bytes : List Byte) : Moves p y a (sendTrain q bytes s) := h.forS fun _ _ hx => hx.emit _
theorem hsSend (h : Moves p y a s) (bytes : List Byte) :
    Moves p { y with shake := { y.shake with latest := bytes } } a (hsSend p bytes s) :=
  (h.modPort fun x => { x with shake := { x.shake with latest := bytes } }).sendTrain p bytes
theorem answered (h : Moves p y a s) (codes : List Nat) :
    Moves p { y with shake := if memb (fieldAt y.shake.latest 0 1) codes then { y.shake with latest := [] } else y.shake } a
      (answered p codes s) :=
  h.modShake fun x => if memb (fieldAt x.latest 0 1) codes then { x with latest := [] } else x

/-! What is read of the rest. -/

theorem vnl (h : Moves p y a s) : s.vnl = { a.vnl with ports := s.vnl.ports } := congrArg State.vnl h.rest
theorem inbox (h : Moves p y a s) : s.vnl.inbox = a.vnl.inbox := by rw [h.vnl]
theorem portBind (h : Moves p y a s) (q : Nat) : portBind s q = portBind a q := by
  rw [h.rest]
  rfl
theorem caveDown (h : Moves p y a s) : caveDown s = caveDown a := by
  rw [h.rest]
  rfl
theorem cannotIssue (h : Moves p y a s) (hr : y.residue = (portRec a p).residue) : cannotIssue s p = cannotIssue a p := by
  have zero : zeroDone s p = zeroDone a p := by
    unfold zeroDone
    rw [h.port, hr, h.rest]
    rfl
  unfold Machine.cannotIssue
  rw [zero, h.rest]
  rfl
theorem gateLocal (h : Moves p y a s) (hp : y.peer = (portRec a p).peer) : gateLocal s p = gateLocal a p := by
  unfold Machine.gateLocal
  rw [h.port, hp, h.rest]
  rfl
theorem tokenExpired (h : Moves p y a s) (ht : y.shake.peerTok = (portRec a p).shake.peerTok) : tokenExpired s p = tokenExpired a p := by
  unfold Machine.tokenExpired
  rw [h.port, ht, h.rest]
  rfl

end Moves

/-! ## A new admission (R296) -/

/-- The handshake of an admission whose HELLO, with challenge `c`, has just gone out. -/
structure Shake.Begins (c : Nat) (h : Shake) : Prop where
  active : h.active = true
  dead : h.dead = false
  challenge : h.challenge = c
  hello : fieldAt h.latest 0 1 = 1

theorem hsSend_free (p : Nat) (bytes : List Byte) (s : State) : (hsSend p bytes s).free = s.free :=
  hsSend_only (fr := [.out, .vnl]) p bytes (by decide) (by decide) (Only.rfl' _ s) .free (by decide)
theorem hsHelloStart_free (p : Nat) (s : State) : (hsHelloStart p s).free = s.free + 1 := hsSend_free p _ _
theorem hsHelloStart_moves (p : Nat) (s : State) :
    ∃ h : Shake, h.Begins (Config.freeValue 128 s.free).toNat ∧ Moves p { portRec s p with shake := h } s (hsHelloStart p s) :=
  ⟨_, ⟨rfl, rfl, rfl, rfl⟩,
    (((Moves.refl p s).fresh 128).modPort fun x => { x with shake := { active := true, challenge := (fresh 128 s).1 } }).hsSend _⟩

/-- A port enters HEDGED and begins an admission: the ports but for itself, the owner's messages and the inbox. -/
theorem enterHedged_begins (p : Nat) (s : State) :
    ∃ h : Shake, h.Begins (Config.freeValue 128 s.free).toNat ∧
      Moves p { portRec s p with st := .hedged, shake := h } (portEvt p 1 s) (enterHedged p s) := by
  obtain ⟨h, begins, moves⟩ := hsHelloStart_moves p (portEvt p 1 (modPort p (fun x => { x with st := .hedged }) s))
  refine ⟨h, begins, ?_, ?_, ?_⟩
  · rw [enterHedged, moves.port, portRec_portEvt, portRec_modPort, if_pos rfl]
  · intro q hq
    rw [enterHedged, moves.others q hq, portRec_portEvt, portRec_modPort, if_neg hq, portRec_portEvt]
  · exact moves.rest
theorem enterHedged_free (p : Nat) (s : State) : (enterHedged p s).free = s.free + 1 := hsHelloStart_free p _
theorem enterHedged_up (p : Nat) (s : State) : (enterHedged p s).cel.up = s.cel.up ++ [.event 8 p 1 [] p 0] := by
  obtain ⟨h, -, moves⟩ := enterHedged_begins p s
  exact congrArg (fun x => x.cel.up) moves.rest

/-! ## The gate opens (R293) -/

/-- Every input of the gate of a port holds. -/
structure GateReady (s : State) (p : Nat) : Prop where
  hedged : (portRec s p).st = .hedged
  issued : (portRec s p).shake.issued = true
  verified : (portRec s p).shake.verified = true
  peerOk : (portRec s p).shake.peerOk = true
  inputs : gateLocal s p = true
  token : cannotIssue s p = none

theorem portBind_of_cannotIssue {s : State} {p : Nat} (h : cannotIssue s p = none) : ∃ b k, portBind s p = some (b, k) := by
  unfold cannotIssue at h
  split at h
  · cases h
  · split at h
    · cases h
    · next b k bound => exact ⟨b, k, bound⟩

/-- A port whose gate is open at this end, its counters at zero. -/
structure Port.Opened (x : Port) : Prop where
  st : x.st = .opened
  keys : x.keys = true
  rxCtr : x.rxCtr = 0
  reason : x.reason = 0

theorem Port.Opened.of_bare {x y : Port} (h : x.Opened) (e : y.bare = x.bare) : y.Opened where
  st := (congrArg Port.st e).trans h.st
  keys := (congrArg Port.keys e).trans h.keys
  rxCtr := (congrArg Port.rxCtr e).trans h.rxCtr
  reason := (congrArg Port.reason e).trans h.reason

theorem drainQueue_traffic (s : State) : Traffic s (drainQueue s) := (Traffic.refl s).drainQueue
@[simp] theorem drainQueue_cel (s : State) : (drainQueue s).cel = s.cel := (drainQueue_traffic s).frame .cel (by decide)

theorem GateReady.opens {s : State} {p : Nat} (h : GateReady s p) :
    (portRec (tryOpen p s) p).Opened ∧ (tryOpen p s).cel.up = s.cel.up ++ [.event 8 p 2 [] p 0] := by
  obtain ⟨b, k, bound⟩ := portBind_of_cannotIssue h.token
  unfold tryOpen
  dsimp only
  rw [if_pos ⟨h.hedged, h.issued, h.verified, h.peerOk, h.inputs, h.token⟩, bound]
  refine ⟨Port.Opened.of_bare ?_ ((drainQueue_traffic _).ports p), ?_⟩
  · rw [portRec_updReady, portRec_portEvt, portRec_noteT, portRec_modPort, if_pos rfl]
    exact ⟨rfl, rfl, rfl, rfl⟩
  · rw [drainQueue_cel, updReady_cel, portEvt_up, noteT_cel]
    rfl
/-- An input is missing: the gate stays shut. -/
theorem tryOpen_waits {s : State} {p : Nat} (h : (portRec s p).shake.issued = false ∨ (portRec s p).shake.verified = false ∨
    (portRec s p).shake.peerOk = false ∨ gateLocal s p = false) : tryOpen p s = s := by
  refine if_neg ?_
  rintro ⟨-, issued, verified, peerOk, inputs, -⟩
  simp [issued, verified, peerOk, inputs] at h

/-! ## The gate closes (R294) -/

theorem faultOne_frame (src t : Nat) (s : State) :
    Only [.out, .mem, .hif, .pln, .cor, .stp, .cel, .err, .pwr, .dbg, .book] s (faultOne src t s) :=
  faultOne_only src t (by decide) (by decide) (by decide) (by decide) (by decide) (by decide) (by decide) (by decide) (by decide) (by decide)
    (by decide) (Only.rfl' _ s)
theorem checkBuddies_frame (s : State) : Only [.out, .hif, .rck, .book] s (checkBuddies s) :=
  checkBuddies_only (by decide) (by decide) (by decide) (by decide) (Only.rfl' _ s)
@[simp] theorem checkBuddies_vnl (s : State) : (checkBuddies s).vnl = s.vnl := checkBuddies_frame s .vnl (by decide)
@[simp] theorem checkBuddies_cel (s : State) : (checkBuddies s).cel = s.cel := checkBuddies_frame s .cel (by decide)
@[simp] theorem portRec_checkBuddies (s : State) (q : Nat) : portRec (checkBuddies s) q = portRec s q := portRec_of_vnl (checkBuddies_vnl s) q

@[simp] theorem closePort_vnl (p reason : Nat) (s : State) : (closePort p reason s).vnl = (gateShutPort p reason s).vnl := by
  unfold closePort
  dsimp only
  split
  · split
    · exact faultOne_frame _ _ _ .vnl (by decide)
    · rfl
  · rfl
@[simp] theorem portRec_closePort (p reason : Nat) (s : State) (q : Nat) :
    portRec (closePort p reason s) q = portRec (gateShutPort p reason s) q := portRec_of_vnl (closePort_vnl p reason s) q

/-- What shutting the gate makes of a record: keys, buffers and counters go, the reason and the residue tenant stay. -/
def Port.shut (reason residue : Nat) (x : Port) : Port :=
  { x with
    keys := false, adm := none, retry := [], part := [], divPart := [], txCtr := 0, rxCtr := 0,
    diverted := [], credits := [0, 0, 0, 0], reason := reason, residue := some residue }

section
variable {p b k : Nat} {s : State} (reason : Nat)

theorem gateShutPort_unbound (bound : portBind s p = none) : gateShutPort p reason s =
    modPort p (fun x => { x with keys := false, adm := none, retry := [], part := [], divPart := [] }) s := by rw [gateShutPort, bound]
theorem gateShutPort_closed (bound : portBind s p = some (b, k)) (keys : (portRec s p).keys = false) : gateShutPort p reason s = s := by
  simp [gateShutPort, bound, keys]
theorem gateShutPort_away (bound : portBind s p = some (b, k)) (keys : (portRec s p).keys = true) (st : (portRec s p).st ≠ .opened) :
    gateShutPort p reason s = updReady b (noteT (bindTen s b) 0x0701 p reason (modPort p (Port.shut reason (bindTen s b)) s)) := by
  simp only [gateShutPort, bound, keys, st, if_true, if_false]
  rfl
theorem gateShutPort_opened (bound : portBind s p = some (b, k)) (keys : (portRec s p).keys = true) (st : (portRec s p).st = .opened) :
    gateShutPort p reason s =
      updReady b (enterHedged p (noteT (bindTen s b) 0x0701 p reason (modPort p (Port.shut reason (bindTen s b)) s))) := by
  simp only [gateShutPort, bound, keys, st, if_true]
  rfl

end

theorem portRec_gateShutPort_other {p q : Nat} (hq : q ≠ p) (reason : Nat) (s : State) :
    portRec (gateShutPort p reason s) q = portRec s q := by
  obtain bound | ⟨⟨b, k⟩, bound⟩ := (portBind s p).eq_none_or_eq_some
  · rw [gateShutPort_unbound reason bound, portRec_modPort, if_neg hq]
  · cases keys : (portRec s p).keys
    · rw [gateShutPort_closed reason bound keys]
    · by_cases st : (portRec s p).st = .opened
      · obtain ⟨h, -, moves⟩ := enterHedged_begins p (noteT (bindTen s b) 0x0701 p reason (modPort p (Port.shut reason (bindTen s b)) s))
        rw [gateShutPort_opened reason bound keys st, portRec_updReady, moves.others q hq, portRec_portEvt, portRec_noteT, portRec_modPort,
          if_neg hq]
      · rw [gateShutPort_away reason bound keys st, portRec_updReady, portRec_noteT, portRec_modPort, if_neg hq]

/-- The gate of a port outside OPEN is shut: its state stays. -/
theorem gateShutPort_leaves {p reason : Nat} {s : State} (st : (portRec s p).st ≠ .opened) (hr : (portRec s p).reason = reason) :
    (portRec (gateShutPort p reason s) p).st = (portRec s p).st ∧ (portRec (gateShutPort p reason s) p).reason = reason ∧
      (portRec (gateShutPort p reason s) p).keys = false ∧ (portRec (gateShutPort p reason s) p).eqFails = (portRec s p).eqFails := by
  obtain bound | ⟨⟨b, k⟩, bound⟩ := (portBind s p).eq_none_or_eq_some
  · rw [gateShutPort_unbound reason bound, portRec_modPort, if_pos rfl]
    exact ⟨rfl, hr, rfl, rfl⟩
  · cases keys : (portRec s p).keys
    · rw [gateShutPort_closed reason bound keys]
      exact ⟨rfl, hr, keys, rfl⟩
    · rw [gateShutPort_away reason bound keys st, portRec_updReady, portRec_noteT, portRec_modPort, if_pos rfl]
      exact ⟨rfl, rfl, rfl, rfl⟩

/-- The gate of an OPEN port is shut: it is HEDGED again, the totals stand. -/
theorem gateShutPort_hedges {p b k : Nat} {s : State} (bound : portBind s p = some (b, k)) (keys : (portRec s p).keys = true)
    (st : (portRec s p).st = .opened) (reason : Nat) : ∃ h : Shake,
    portRec (gateShutPort p reason s) p = { (portRec s p).shut reason (bindTen s b) with st := .hedged, shake := h } ∧
      (gateShutPort p reason s).vnl.inbox = s.vnl.inbox := by
  obtain ⟨h, -, moves⟩ := enterHedged_begins p (noteT (bindTen s b) 0x0701 p reason (modPort p (Port.shut reason (bindTen s b)) s))
  refine ⟨h, ?_, ?_⟩
  · rw [gateShutPort_opened reason bound keys st, portRec_updReady, moves.port, portRec_noteT, portRec_modPort, if_pos rfl]
  · rw [gateShutPort_opened reason bound keys st, updReady_inbox, moves.inbox, portEvt_vnl, noteT_vnl]
    rfl

end Sys2Proof.Machine
end

section
/-!
What a port does with a received flit (R268 to R276, R298 and R299 of 07).
-/
namespace Sys2Proof.Machine

/-! ## Acknowledgements and credits (R271, R277) -/

/-- An envelope without a NAK frees what it acknowledges and lets waiting messages leave. -/
theorem ackIn_traffic {p : Nat} {env : List Byte} (nak : bitOf (fieldAt env 6 2) 12 = false) (s : State) : Traffic s (ackIn p env s) := by
  have credited := (Traffic.refl s).modPort p (f := fun x => { x with
    credits := x.credits.modify (bitsOf (fieldAt env 280 4) 15 14) (· + bitsOf (fieldAt env 280 4) 13 0) })
  unfold ackIn
  dsimp only
  split
  · split
    · exact credited.drainQueue
    · rw [nak, if_neg Bool.false_ne_true]
      exact Traffic.drainQueue (credited.modPort p)
  · exact credited.drainQueue

/-! ## A sound flit reaches its port (R268 to R270) -/

/-- The symbols that FEC corrected are counted, in a port's record and in the state. -/
def Port.corrected (n : Nat) (x : Port) : Port := { x with err := { x.err with fecCorr := satAdd 32 x.err.fecCorr n } }
def fecCounted (p n : Nat) (s : State) : State :=
  modPort p (fun x => { x with err := { x.err with fecCorr := satAdd 32 x.err.fecCorr n } }) s

theorem portRec_fecCounted (p n : Nat) (s : State) : portRec (fecCounted p n s) p = (portRec s p).corrected n :=
  (portRec_modPort ..).trans (if_pos rfl)
theorem fecCounted_frame (p n : Nat) (s : State) : Only [.vnl] s (fecCounted p n s) := modPort_only _ _ (by decide) (Only.rfl' _ s)

/-- A whole envelope at a port of the module while Vine is not drained. -/
structure Arrives (p : Nat) (env : List Byte) (s : State) : Prop where
  drained : memb 7 s.boot.drained = false
  here : p < numPorts s
  length : env.length = 288

section
variable {p n : Nat} {env plain : List Byte} {s : State}

theorem exec_flitReceive (clock : nclkOn s = true) (n : Nat) (uncorr : Bool) (env plain : List Byte) :
    exec (.flitReceive p n uncorr env plain) s = .next (flitIn p n uncorr env plain s) := iodClocked_running clock _

theorem Arrives.bad {uncorr : Bool} (h : Arrives p env s) (bad : uncorr = true ∨ fieldAt env 284 4 ≠ (crc32c (env.take 284)).toNat) :
    flitIn p n uncorr env plain s = badFlit p (fieldAt env 0 1 % 16) uncorr (fecCounted p n s) := by
  unfold flitIn
  dsimp only
  rw [if_pos ⟨h.here, h.length, by simp [h.drained]⟩, if_pos bad]
  rfl
theorem Arrives.badType (h : Arrives p env s) (crc : fieldAt env 284 4 = (crc32c (env.take 284)).toNat)
    (typ : 4 ≤ fieldAt env 0 1 % 16 ∨ ((fieldAt env 0 1 % 16 = 1 ∨ fieldAt env 0 1 % 16 = 2) ∧ (portRec s p).st ≠ .opened)) :
    flitIn p n false env plain s =
      modPort p (fun x => { x with err := { x.err with badType := satAdd 32 x.err.badType 1 } }) (fecCounted p n s) := by
  unfold flitIn
  dsimp only
  rw [if_pos ⟨h.here, h.length, by simp [h.drained]⟩, if_neg (by simp [crc]), if_pos typ]
  rfl
/-- An IDLE or TRAIN flit on a port neither HEDGED nor OPEN has no other effect. -/
theorem Arrives.idle (h : Arrives p env s) (crc : fieldAt env 284 4 = (crc32c (env.take 284)).toNat)
    (typ : fieldAt env 0 1 % 16 = 0 ∨ fieldAt env 0 1 % 16 = 3) (opened : (portRec s p).st ≠ .opened) (hedged : (portRec s p).st ≠ .hedged) :
    flitIn p n false env plain s = fecCounted p n s := by
  obtain typ | typ := typ
  · simp [flitIn, fecCounted, h.here, h.length, h.drained, crc, typ, opened, hedged]
  · simp [flitIn, fecCounted, h.here, h.length, h.drained, crc, typ, opened, hedged]
end

/-- A sound DATA or CTRL flit without a heartbeat at an OPEN port of binding `b`. -/
structure Carries (p b : Nat) (env : List Byte) (s : State) : Prop extends Arrives p env s where
  crc : fieldAt env 284 4 = (crc32c (env.take 284)).toNat
  typ : fieldAt env 0 1 % 16 = 1 ∨ fieldAt env 0 1 % 16 = 2
  opened : (portRec s p).st = .opened
  quiet : bitOf (fieldAt env 280 4) 16 = false
  bound : ∃ k, portBind s p = some (b, k)

section
variable {p b n : Nat} {env plain : List Byte} {s : State}

/-- `takeFlit` judges it; a port still OPEN then takes its acknowledgement. -/
theorem Carries.acknowledges (h : Carries p b env s) (still : (portRec (takeFlit p b env plain (fecCounted p n s)) p).st = .opened) :
    flitIn p n false env plain s = ackIn p env (takeFlit p b env plain (fecCounted p n s)) := by
  obtain ⟨k, bound⟩ := h.bound
  rw [fecCounted] at still ⊢
  obtain typ | typ := h.typ
  · simp [flitIn, h.here, h.length, h.drained, h.crc, typ, h.opened, h.quiet, bound, still]
  · simp [flitIn, h.here, h.length, h.drained, h.crc, typ, h.opened, h.quiet, bound, still]
theorem Carries.closes (h : Carries p b env s) (shut : (portRec (takeFlit p b env plain (fecCounted p n s)) p).st ≠ .opened) :
    flitIn p n false env plain s = takeFlit p b env plain (fecCounted p n s) := by
  obtain ⟨k, bound⟩ := h.bound
  rw [fecCounted] at shut ⊢
  obtain typ | typ := h.typ
  · simp [flitIn, h.here, h.length, h.drained, h.crc, typ, h.opened, h.quiet, bound, shut]
  · simp [flitIn, h.here, h.length, h.drained, h.crc, typ, h.opened, h.quiet, bound, shut]

end

/-! ## The place and the tag of a flit (R271, R274, R275) -/

/-- How far a flit is ahead of the next one expected, by the low bits of its counter. -/
def flitOff (x : Port) (env : List Byte) : Nat := (fieldAt env 4 2 % 4096 + 4096 - x.rxCtr % 4096) % 4096
/-- The counter nearest the expected with those low bits. -/
def flitCtr (x : Port) (env : List Byte) : Nat :=
  (if flitOff x env < 2048 then x.rxCtr + flitOff x env else x.rxCtr + flitOff x env + (2 ^ 64 - 4096)) % 2 ^ 64
/-- The epoch of its key, by its epoch bit. -/
def flitEpoch (x : Port) (env : List Byte) : Nat :=
  if bitOf (fieldAt env 0 1) 6 = decide (flitCtr x env / 2 ^ 32 % 2 = 1) then flitCtr x env / 2 ^ 32 else flitCtr x env / 2 ^ 32 - 1
/-- The tag verifies. -/
def authentic (s : State) (p : Nat) (env plain : List Byte) : Bool :=
  flitAuth (rxKey s p (flitEpoch (portRec s p) env)) (portRec s p).peer (portRec s p).peerPort (flitCtr (portRec s p) env) env plain

theorem authentic_fecCounted (p n : Nat) (env plain : List Byte) (s : State) :
    authentic (fecCounted p n s) p env plain = authentic s p env plain := by
  unfold authentic rxKey
  rw [portRec_fecCounted]
  rfl

/-- The counter of a flit is accepted. -/
def Port.accept (ctr : Nat) (x : Port) : Port := { x with rxCtr := x.rxCtr + 1, diverted := without ctr x.diverted }
/-- No part of a message of the class is left. -/
def Port.whole (cls : Nat) (x : Port) : Port := { x with part := Map.set [] x.part cls [] }
/-- A failed tag is counted. -/
def Port.forged (x : Port) : Port := { x with err := { x.err with auth := satAdd 32 x.err.auth 1 } }
/-- A message joins the inbox. -/
def deliver (b : Nat) (msg : List Byte) (s : State) : State := modVnl (fun v => { v with inbox := v.inbox ++ [(b, msg)] }) s
@[simp] theorem portRec_deliver (b : Nat) (msg : List Byte) (s : State) (q : Nat) : portRec (deliver b msg s) q = portRec s q := rfl

section
variable {p b : Nat} {env plain : List Byte} {s : State}

/-- The flit that comes next, a whole message for this module, is delivered and acknowledged with its credit. -/
theorem takeFlit_next (auth : authentic s p env plain = true) (off : flitOff (portRec s p) env = 0)
    (first : memb (portRec s p).rxCtr (portRec s p).diverted = false) (som : bitOf (fieldAt env 1 1) 0 = true)
    (eom : bitOf (fieldAt env 1 1) 1 = true) (dest : fieldAt env 2 2 = bindCoord s b) :
    takeFlit p b env plain s = sendIdle p (portRec s p).rxCtr false true 1 (bitsOf (fieldAt env 0 1) 5 4) false
      (deliver b plain (modPort p (Port.whole (bitsOf (fieldAt env 0 1) 5 4)) (modPort p (Port.accept (portRec s p).rxCtr) s))) := by
  refine (if_pos auth).trans ((if_pos off).trans ?_)
  dsimp only
  rw [first, if_neg Bool.false_ne_true]
  unfold takePayload
  dsimp only
  rw [som, eom, if_pos rfl, if_pos rfl]
  exact congrArg _ (if_pos dest)
/-- A flit accepted before is acknowledged. -/
theorem takeFlit_again (auth : authentic s p env plain = true) (off : 2048 ≤ flitOff (portRec s p) env) :
    takeFlit p b env plain s =
      sendIdle p (ackOf (portRec s p)).1 false (ackOf (portRec s p)).2 0 (bitsOf (fieldAt env 0 1) 5 4) false s :=
  (if_pos auth).trans ((if_neg (by change ¬ flitOff (portRec s p) env = 0; omega)).trans (if_pos off))
/-- A later flit is answered with a NAK. -/
theorem takeFlit_gap (auth : authentic s p env plain = true) (off : flitOff (portRec s p) env ≠ 0) (ahead : flitOff (portRec s p) env < 2048) :
    takeFlit p b env plain s = sendIdle p (portRec s p).rxCtr true true 0 (bitsOf (fieldAt env 0 1) 5 4) false s :=
  (if_pos auth).trans ((if_neg off).trans (if_neg (by change ¬ 2048 ≤ flitOff (portRec s p) env; omega)))
/-- A flit whose tag fails closes the gate. -/
theorem takeFlit_forged (auth : authentic s p env plain = false) :
    takeFlit p b env plain s = checkBuddies (closePort p 0x0E (modPort p Port.forged s)) :=
  if_neg (by change ¬ authentic s p env plain = true; simp [auth])

end

/-! ## What FLIT_RECEIVE does (R268 to R276, R298, R299) -/

section
variable {p b n : Nat} {env plain : List Byte} {s : State}

/-- A sound flit that leaves its port OPEN, as `t`: what follows is traffic. -/
theorem Carries.acknowledged {t : State} (h : Carries p b env s) (clock : nclkOn s = true) (nak : bitOf (fieldAt env 6 2) 12 = false)
    (taken : takeFlit p b env plain (fecCounted p n s) = t) (still : (portRec t p).st = .opened) :
    ∃ u, exec (.flitReceive p n false env plain) s = .next u ∧ Traffic t u := by
  subst taken
  exact ⟨_, (exec_flitReceive clock n false env plain).trans (congrArg _ (h.acknowledges still)), ackIn_traffic nak _⟩

theorem Carries.receives (h : Carries p b env s) (clock : nclkOn s = true) (nak : bitOf (fieldAt env 6 2) 12 = false)
    (off : flitOff (portRec s p) env = 0) (som : bitOf (fieldAt env 1 1) 0 = true) (eom : bitOf (fieldAt env 1 1) 1 = true)
    (dest : fieldAt env 2 2 = bindCoord s b) (first : memb (portRec s p).rxCtr (portRec s p).diverted = false)
    (auth : authentic s p env plain = true) :
    Completes (.flitReceive p 0 false env plain) s (fun u =>
      u.vnl.inbox = s.vnl.inbox ++ [(b, plain)] ∧ (portRec u p).rxCtr = (portRec s p).rxCtr + 1 ∧ (portRec u p).st = .opened ∧
      Out.flit p (envClose (envHead 0 0 0 false false 0 0 (portRec s p).rxCtr false true ++ zeros 272)
        (1 + bitsOf (fieldAt env 0 1) 5 4 * 0x4000 + b2n false * 0x10000)) ∈ u.out ∧
      Only [.out, .vnl] s u) := by
  have port := portRec_fecCounted p 0 s
  have taken := takeFlit_next (b := b) ((authentic_fecCounted p 0 env plain s).trans auth) (by rw [port]; exact off)
    (by rw [port]; exact first) som eom dest
  rw [port] at taken
  have after : portRec (takeFlit p b env plain (fecCounted p 0 s)) p =
      (((portRec s p).corrected 0).accept (portRec s p).rxCtr).whole (bitsOf (fieldAt env 0 1) 5 4) := by
    rw [taken, portRec_sendIdle, portRec_deliver, portRec_modPort, if_pos rfl, portRec_modPort, if_pos rfl, port]
    rfl
  obtain ⟨u, does, traffic⟩ := h.acknowledged clock nak taken (by rw [← taken, after]; exact h.opened)
  rw [← taken] at traffic
  have bare := traffic.ports p
  rw [after] at bare
  refine ⟨u, does, ?_, (congrArg Port.rxCtr bare :), (congrArg Port.st bare).trans h.opened, traffic.sent _ ?_, ?_⟩
  · rw [traffic.inbox, taken]
    rfl
  · rw [taken]
    exact sendIdle_sent ..
  · refine Only.trans ?_ traffic.frame
    rw [taken]
    exact sendIdle_only _ _ _ _ _ _ _ (by decide) (modVnl_only _ (by decide) (modPort_only _ _ (by decide) (modPort_only _ _ (by decide)
      ((fecCounted_frame p 0 s).mono (by decide)))))

/-- An authentic flit out of its place is answered, and nothing of it is delivered. -/
theorem Carries.answers (h : Carries p b env s) (clock : nclkOn s = true) (nak : bitOf (fieldAt env 6 2) 12 = false)
    (off : flitOff (portRec s p) env ≠ 0) (auth : authentic s p env plain = true) :
    Completes (.flitReceive p 0 false env plain) s (fun u =>
      u.vnl.inbox = s.vnl.inbox ∧ (portRec u p).rxCtr = (portRec s p).rxCtr ∧ (portRec u p).st = .opened ∧
      (flitOff (portRec s p) env < 2048 → Out.flit p (envClose (envHead 0 0 0 false false 0 0 (portRec s p).rxCtr true true ++ zeros 272)
        (0 + bitsOf (fieldAt env 0 1) 5 4 * 0x4000 + b2n false * 0x10000)) ∈ u.out) ∧
      (2048 ≤ flitOff (portRec s p) env → Out.flit p (envClose (envHead 0 0 0 false false 0 0 (ackOf (portRec s p)).1 false
        (ackOf (portRec s p)).2 ++ zeros 272) (0 + bitsOf (fieldAt env 0 1) 5 4 * 0x4000 + b2n false * 0x10000)) ∈ u.out) ∧
      Only [.out, .vnl] s u) := by
  have port := portRec_fecCounted p 0 s
  have auth' := (authentic_fecCounted p 0 env plain s).trans auth
  have off' : flitOff (portRec (fecCounted p 0 s) p) env = flitOff (portRec s p) env := by rw [port]; rfl
  obtain ⟨ack, naks, valid, taken, late, ahead⟩ : ∃ ack naks valid,
      takeFlit p b env plain (fecCounted p 0 s) =
        sendIdle p ack naks valid 0 (bitsOf (fieldAt env 0 1) 5 4) false (fecCounted p 0 s) ∧
      (flitOff (portRec s p) env < 2048 → ack = (portRec s p).rxCtr ∧ naks = true ∧ valid = true) ∧
      (2048 ≤ flitOff (portRec s p) env → ack = (ackOf (portRec s p)).1 ∧ naks = false ∧ valid = (ackOf (portRec s p)).2) := by
    by_cases ahead : flitOff (portRec s p) env < 2048
    · refine ⟨_, _, _, takeFlit_gap auth' (by rw [off']; exact off) (by rw [off']; exact ahead), fun _ => by rw [port]; exact ⟨rfl, rfl, rfl⟩,
         fun h => by omega⟩
    · refine ⟨_, _, _, takeFlit_again auth' (by rw [off']; omega), fun h => by omega, fun _ => by rw [port]; exact ⟨rfl, rfl, rfl⟩⟩
  obtain ⟨u, does, traffic⟩ := h.acknowledged clock nak taken (by rw [portRec_sendIdle, port]; exact h.opened)
  have bare := traffic.ports p
  rw [portRec_sendIdle, port] at bare
  refine ⟨u, does, traffic.inbox, (congrArg Port.rxCtr bare :), (congrArg Port.st bare).trans h.opened, fun k => traffic.sent _ ?_,
    fun k => traffic.sent _ ?_, ?_⟩
  · obtain ⟨place, asks, counts⟩ := late k
    rw [place, asks, counts]
    exact sendIdle_sent ..
  · obtain ⟨place, asks, counts⟩ := ahead k
    rw [place, asks, counts]
    exact sendIdle_sent ..
  · exact Only.trans (sendIdle_only _ _ _ _ _ _ _ (by decide) ((fecCounted_frame p 0 s).mono (by decide))) traffic.frame

/-- A flit whose tag fails closes the gate of its port. -/
theorem Carries.forged (h : Carries p b env s) (clock : nclkOn s = true) (keys : (portRec s p).keys = true)
    (auth : authentic s p env plain = false) :
    Completes (.flitReceive p 0 false env plain) s (fun u =>
      u.vnl.inbox = s.vnl.inbox ∧ (portRec u p).err.auth = satAdd 32 (portRec s p).err.auth 1 ∧ (portRec u p).st = .hedged ∧
      (portRec u p).reason = 0x0E ∧ (portRec u p).keys = false ∧ (portRec u p).retry = []) := by
  obtain ⟨k, bound⟩ := h.bound
  have taken := takeFlit_forged (b := b) ((authentic_fecCounted p 0 env plain s).trans auth)
  have port : portRec (modPort p Port.forged (fecCounted p 0 s)) p = ((portRec s p).corrected 0).forged := by
    rw [portRec_modPort, if_pos rfl, portRec_fecCounted]
  obtain ⟨g, hedged, inbox⟩ := gateShutPort_hedges (s := modPort p Port.forged (fecCounted p 0 s)) bound (by rw [port]; exact keys) (by rw [port]; exact h.opened) 0x0E
  rw [port] at hedged
  have after := (congrArg (portRec · p) taken).trans ((portRec_checkBuddies _ p).trans ((portRec_closePort ..).trans hedged))
  refine ⟨_, (exec_flitReceive clock 0 false env plain).trans (congrArg _ (h.closes ?_)), ?_⟩
  · rw [after]
    exact PortSt.noConfusion
  · dsimp only
    rw [after]
    refine ⟨?_, rfl, rfl, rfl, rfl, rfl⟩
    rw [taken, checkBuddies_vnl, closePort_vnl, inbox]
    rfl

end

/-! ## Flits that are counted and dropped (R270, R298) -/

/-- What a flit that fails FEC or CRC leaves of a port's record, below the limits of its window. -/
def Port.damaged (uncorr : Bool) (lim : Word) (x : Port) : Port :=
  { x with
    err := { x.err with
      fecUncorr := if uncorr then satAdd 32 x.err.fecUncorr 1 else x.err.fecUncorr,
      crc := if uncorr then x.err.crc else satAdd 32 x.err.crc 1 },
    wUncorr := if uncorr then min (fldW lim 31 24) (x.wUncorr + 1) else x.wUncorr,
    wCrc := if uncorr then x.wCrc else min (fldW lim 23 16) (x.wCrc + 1) }

theorem portRec_damaged (p : Nat) (uncorr : Bool) (lim : Word) (s : State) :
    portRec (modPort p (Port.damaged uncorr lim) s) p = (portRec s p).damaged uncorr lim := (portRec_modPort ..).trans (if_pos rfl)

/-- Below its window's limits the port does not retrain; an OPEN one asks for the flit again. -/
theorem badFlit_within {p : Nat} {uncorr : Bool} {s : State} (hu : (portRec s p).wUncorr + 1 < fldW (cset s .vnlPort p 2) 31 24)
    (hc : (portRec s p).wCrc + 1 < fldW (cset s .vnlPort p 2) 23 16) (typ : Nat) :
    badFlit p typ uncorr s =
      if (portRec (modPort p (Port.damaged uncorr (portLim s p)) s) p).st = .opened ∧ (typ = 1 ∨ typ = 2) then
        sendIdle p (portRec (modPort p (Port.damaged uncorr (portLim s p)) s) p).rxCtr true true 0 0 false
          (modPort p (Port.damaged uncorr (portLim s p)) s)
      else modPort p (Port.damaged uncorr (portLim s p)) s := by
  refine if_neg ?_
  change ¬ (fldW (portLim s p) 31 24 ≤ (portRec (modPort p (Port.damaged uncorr (portLim s p)) s) p).wUncorr ∨
    fldW (portLim s p) 23 16 ≤ (portRec (modPort p (Port.damaged uncorr (portLim s p)) s) p).wCrc)
  rw [portRec_damaged]
  cases uncorr
  · simp [Port.damaged, portLim]
    omega
  · simp [Port.damaged, portLim]
    omega

section
variable {p n : Nat} {env plain : List Byte} {s : State}

theorem Arrives.dropped {uncorr : Bool} (h : Arrives p env s) (clock : nclkOn s = true)
    (bad : uncorr = true ∨ fieldAt env 284 4 ≠ (crc32c (env.take 284)).toNat)
    (hu : (portRec s p).wUncorr + 1 < fldW (cset s .vnlPort p 2) 31 24) (hc : (portRec s p).wCrc + 1 < fldW (cset s .vnlPort p 2) 23 16) :
    Completes (.flitReceive p n uncorr env plain) s (fun u => u.vnl.inbox = s.vnl.inbox ∧
      portRec u p = ((portRec s p).corrected n).damaged uncorr (portLim s p) ∧ Only [.out, .vnl] s u) := by
  have port := portRec_fecCounted p n s
  have within := badFlit_within (uncorr := uncorr) (s := fecCounted p n s) (by rw [port]; exact hu) (by rw [port]; exact hc)
    (fieldAt env 0 1 % 16)
  have counted : Only [.out, .vnl] s (modPort p (Port.damaged uncorr (portLim (fecCounted p n s) p)) (fecCounted p n s)) :=
    modPort_only _ _ (by decide) ((fecCounted_frame p n s).mono (by decide))
  refine ⟨_, (exec_flitReceive clock n uncorr env plain).trans (congrArg _ ((h.bad bad).trans within)), ?_⟩
  split
  · refine ⟨rfl, ?_, sendIdle_only _ _ _ _ _ _ _ (by decide) counted⟩
    rw [portRec_sendIdle, portRec_damaged, port]
    rfl
  · refine ⟨rfl, ?_, counted⟩
    rw [portRec_damaged, port]
    rfl

end

/-- Settles O48: a sound flit in its place is `Carries.receives`, one out of it `Carries.answers`, a forged one `Carries.forged`; a damaged
one is `Arrives.dropped`. -/
theorem flitsAreTaken : Obligations.FlitsAreTaken := by
  refine ⟨?next, ?other, ?forged, ?damaged, ?badType, ?idle, ?nowhere⟩
  case next =>
    rintro p b k cls c e env plain x s clock drained here length rfl opened bound crc typ rfl quiet nak place som eom dest first rfl rfl auth
    have off : flitOff (portRec s p) env = 0 := by
      rw [flitOff, place]
      omega
    have ctr : flitCtr (portRec s p) env = (portRec s p).rxCtr % 2 ^ 64 := by rw [flitCtr, off, if_pos (by decide), Nat.add_zero]
    have h : Carries p b env s := ⟨⟨drained, here, length⟩, crc, typ, opened, quiet, k, bound⟩
    exact h.receives clock nak off som eom dest first (by rw [authentic, flitEpoch, ctr]; exact auth)
  case other =>
    rintro p b k off cls c e env plain x s clock drained here length rfl opened bound crc typ rfl quiet nak rfl out rfl rfl auth
    have h : Carries p b env s := ⟨⟨drained, here, length⟩, crc, typ, opened, quiet, k, bound⟩
    exact h.answers clock nak out auth
  case forged =>
    rintro p b k off c e env plain x s clock drained here length rfl opened keys bound crc typ quiet rfl rfl rfl auth
    have h : Carries p b env s := ⟨⟨drained, here, length⟩, crc, typ, opened, quiet, k, bound⟩
    exact h.forged clock keys auth
  case damaged =>
    rintro p uncorr env plain x s clock drained here length rfl bad hu hc
    have h : Arrives p env s := ⟨drained, here, length⟩
    obtain ⟨u, does, inbox, port, frame⟩ := h.dropped (n := 0) (plain := plain) clock bad hu hc
    refine ⟨u, does, inbox, ?_⟩
    rw [port]
    exact ⟨rfl, rfl, rfl, rfl, frame⟩
  case badType =>
    intro p n env plain s clock drained here length crc typ
    have h : Arrives p env s := ⟨drained, here, length⟩
    refine ⟨_, (exec_flitReceive clock n false env plain).trans (congrArg _ (h.badType crc typ)), ?_⟩
    dsimp only
    rw [portRec_modPort, if_pos rfl, portRec_fecCounted]
    exact ⟨rfl, rfl, rfl, modPort_only _ _ (by decide) (fecCounted_frame p n s)⟩
  case idle =>
    rintro p n env plain x s clock drained here length crc typ rfl opened hedged
    have h : Arrives p env s := ⟨drained, here, length⟩
    exact ⟨_, (exec_flitReceive clock n false env plain).trans (congrArg _ (h.idle crc typ opened hedged)), portRec_fecCounted p n s,
      fun q hq => (portRec_modPort ..).trans (if_neg hq), fecCounted_frame p n s⟩
  case nowhere =>
    intro p n uncorr env plain s away
    have stays : flitIn p n uncorr env plain s = s := by
      refine if_neg ?_
      rintro ⟨here, length, drained⟩
      simp [here.not_ge, length, drained] at away
    change iodClocked s (.next (flitIn p n uncorr env plain s)) = .next s
    rw [stays, iodClocked, ite_self]

end Sys2Proof.Machine
end

section
/-!
Retries, heartbeats, lost slots and margins of the links (R272, R280, R285, R294, R298, R299, R301 to R304 of 07).
-/
namespace Sys2Proof.Machine

/-! ## Sending a list (R269, R271) -/

theorem forS_emit {α : Type} (l : List α) (f : α → Out) (s : State) :
    forS l (fun a => emit (f a)) s = { s with out := (l.map f).reverse ++ s.out } := by
  induction l generalizing s with
  | nil => rfl
  | cons a r ih =>
    refine (ih (emit (f a) s)).trans ?_
    simp [emit]

/-! ## Retries (R271, R272, R299) -/

/-- Every flit of the retry buffer goes out once more and is counted. -/
def Port.resent (lim : Word) (x : Port) : Port :=
  { x with
    retry := x.retry.map (fun f => { f with resent := f.resent + 1 }),
    err := { x.err with replay := satAdd 32 x.err.replay x.retry.length },
    wReplay := min (fldW lim 15 8) (x.wReplay + x.retry.length) }
/-- A timeout of the retry buffer is counted. -/
def Port.timedOut (x : Port) : Port := { x with err := { x.err with replayTo := satAdd 32 x.err.replayTo 1 } }

theorem resendLimit_none {lim : Word} {w : Nat} {l : List TxFlit} (few : ∀ f ∈ l, f.resent + 1 < fldW lim 7 4)
    (room : w + l.length < fldW lim 15 8) : resendLimit lim w l = none := by
  rw [resendLimit, List.find?_eq_none]
  rintro ⟨f, i⟩ hf
  obtain ⟨-, hi, -⟩ := List.mem_zipIdx hf
  have := few f (List.fst_mem_of_mem_zipIdx hf)
  simp
  omega

theorem modPort_congr {p : Nat} {f g : Port → Port} {s : State} (h : f (portRec s p) = g (portRec s p)) : modPort p f s = modPort p g s :=
  congrArg (fun x => modVnl (fun v => { v with ports := Map.set {} v.ports p x }) s) h

theorem mapIdx_below {α : Type} (f : α → α) (l : List α) : l.mapIdx (fun j a => if 0 ≤ j ∧ j < 0 + l.length then f a else a) = l.map f := by
  refine List.ext_getElem (by simp) fun i hi hj => ?_
  simp at hi
  simp [hi]

/-- Below both limits the whole buffer goes out again, with its original bytes. -/
theorem resendFrom_within {p : Nat} {s : State} (few : ∀ f ∈ (portRec s p).retry, f.resent + 1 < fldW (portLim s p) 7 4)
    (room : (portRec s p).wReplay + (portRec s p).retry.length < fldW (portLim s p) 15 8) :
    resendFrom p 0 s =
      forS (portRec s p).retry (fun f => emit (.flit p f.bytes)) (modPort p (Port.resent (portLim s p)) s) := by
  have stop := resendLimit_none few room
  unfold resendFrom
  simp only [List.drop_zero, stop, List.take_length]
  refine congrArg _ (modPort_congr ?_)
  rw [mapIdx_below]
  rfl

theorem retryTimeout_completes {p : Nat} {s : State} (clock : nclkOn s = true) (st : (portRec s p).st = .opened) (waits : (portRec s p).retry ≠ [])
    (few : ∀ f ∈ (portRec s p).retry, f.resent + 1 < fldW (portLim s p) 7 4)
    (room : (portRec s p).wReplay + (portRec s p).retry.length < fldW (portLim s p) 15 8) :
    Completes (.retryTimeout p) s (fun u => portRec u p = (portRec s p).timedOut.resent (portLim s p) ∧
      (∀ f ∈ (portRec s p).retry, Out.flit p f.bytes ∈ u.out) ∧ (∀ q, q ≠ p → portRec u q = portRec s q) ∧ Only [.out, .vnl] s u) := by
  have port : portRec (modPort p Port.timedOut s) p = (portRec s p).timedOut := (portRec_modPort ..).trans (if_pos rfl)
  have within := resendFrom_within (p := p) (s := modPort p Port.timedOut s) (by rw [port]; exact few) (by rw [port]; exact room)
  rw [forS_emit] at within
  refine ⟨_, (iodClocked_running clock _).trans (congrArg _ ((if_pos ⟨st, waits⟩).trans within)), ?_, ?_, ?_, ?_⟩
  · change portRec (modPort p (Port.resent (portLim s p)) (modPort p Port.timedOut s)) p = _
    rw [portRec_modPort, if_pos rfl, port]
  · intro f hf
    refine List.mem_append_left _ (List.mem_reverse.mpr (List.mem_map.mpr ⟨f, ?_, rfl⟩))
    rw [port]
    exact hf
  · intro q hq
    change portRec (modPort p (Port.resent (portLim s p)) (modPort p Port.timedOut s)) q = _
    rw [portRec_modPort, if_neg hq, portRec_modPort, if_neg hq]
  · exact out_only (by decide) (modPort_only _ _ (by decide) (modPort_only _ _ (by decide) (Only.rfl' _ s)))

/-! ## Heartbeats (R280) -/

/-- The envelope with which a port says that it is alive. -/
def beat (s : State) (p : Nat) : Out :=
  .flit p (envClose (envHead 0 0 0 false false 0 0 (ackOf (portRec s p)).1 false (ackOf (portRec s p)).2 ++ zeros 272)
    (0 + 0 * 0x4000 + b2n true * 0x10000))

/-- Heartbeats change no port, so each carries the acknowledgement its port had before. -/
theorem forS_beat {a s : State} (l : List Nat) (h : s.vnl = a.vnl) :
    forS l (fun p s => sendIdle p (ackOf (portRec s p)).1 false (ackOf (portRec s p)).2 0 0 true s) s = forS l (fun p => emit (beat a p)) s := by
  induction l generalizing s with
  | nil => simp only [forS, List.foldl_nil]
  | cons p r ih =>
    have same : sendIdle p (ackOf (portRec s p)).1 false (ackOf (portRec s p)).2 0 0 true s = emit (beat a p) s := by
      rw [portRec_of_vnl h]
      rfl
    simp only [forS, List.foldl_cons] at ih ⊢
    rw [same]
    exact ih h

/-- The ports that say so: each HEDGED or OPEN port of the module. -/
def livePorts (s : State) : List Nat := (List.range (numPorts s)).filter (fun p => decide ((portRec s p).st = .hedged) || portUp s p)
/-- The module once they have. -/
def beaten (s : State) : State := { s with out := ((livePorts s).map (beat s)).reverse ++ s.out }

theorem beat_mem_beaten {s : State} {p : Nat} (here : p < numPorts s) (st : (portRec s p).st = .hedged ∨ (portRec s p).st = .opened) :
    beat s p ∈ (beaten s).out := by
  have live : p ∈ livePorts s := by simpa [livePorts, here, portUp] using st
  exact List.mem_append_left _ (List.mem_reverse.mpr (List.mem_map.mpr ⟨p, live, rfl⟩))

/-- After the heartbeats of the ports only slots without an OPEN port hand one over. -/
theorem hbTick_traffic {s : State} (allowed : hbAllowed s = true) : Traffic (beaten s) (hbTick s) := by
  have sends := (forS_beat (livePorts s) rfl).trans (forS_emit (livePorts s) (beat s) s)
  rw [livePorts] at sends
  unfold hbTick
  rw [if_pos allowed, sends]
  refine (Traffic.refl (beaten s)).forS fun x t ht => ?_
  split
  · split
    · exact (ht.countDivert _ 1).handOver _ _ _
    · exact ht
  · exact ht

theorem hbTimer_completes {s : State} (clock : nclkOn s = true) (allowed : hbAllowed s = true) :
    Completes .hbTimer s (fun u =>
      (∀ p, p < numPorts s → (portRec s p).st = .hedged ∨ (portRec s p).st = .opened → beat s p ∈ u.out) ∧
      (∀ p, (portRec u p).st = (portRec s p).st) ∧ u.vnl.inbox = s.vnl.inbox ∧ Only [.out, .vnl] s u) := by
  have tick := hbTick_traffic allowed
  exact ⟨_, iodClocked_running clock _, fun p here st => tick.sent _ (beat_mem_beaten here st), fun p => (congrArg Port.st (tick.ports p) :),
    tick.inbox, hbTick_only (by decide) (by decide) (Only.rfl' _ s)⟩

/-! ## A contained fault (R456, R460) -/

/-- Every step of a tenant that has not been handed over becomes unclean. -/
def uncleaned (t : Nat) (s : State) : State :=
  modTstep t (fun x => { x with steps := x.steps.map (fun r => if r.handed then r else { r with unclean := true }) }) s
/-- The fault logic notes a fault: class, source, unit and core. -/
def faultNoted (src cls unit core : Nat) (s : State) : State :=
  modErr (fun x => { x with
    lastInfo := cls * 2 ^ 29 + src * 2 ^ 16 + unit % 256 * 256 + core % 256, lastTime := s.tim.s % 2 ^ 32 }) s

theorem faultOne_eq (src t : Nat) (s : State) : faultOne src t s =
    upMsg (.fault src 2 0x13 0xFF [t] false) (abortSweeps (abortPasses (uncleaned t (faultNoted src 2 0x13 0xFF (frostFault 2 s))))) := by
  have noCore : ∀ x : State, ¬ 0xFF < numCores x := fun x => by have := numCores_le (s := x); omega
  simp only [faultOne, faultReport]
  rw [if_neg (by decide), if_neg (noCore _)]
  rfl

section
variable (src t : Nat) (s : State)

theorem frostFault_frame (cls : Nat) : Only [.dbg] s (frostFault cls s) := frostFault_only cls (by decide) (Only.rfl' _ s)
theorem faultOne_vnl : (faultOne src t s).vnl = s.vnl := faultOne_frame src t s .vnl (by decide)
theorem faultOne_up : (faultOne src t s).cel.up = s.cel.up ++ [.fault src 2 0x13 0xFF [t] false] := by
  have passes := abortPasses_frame (uncleaned t (faultNoted src 2 0x13 0xFF (frostFault 2 s))) .cel (by decide)
  have frost := frostFault_frame s 2 .cel (by decide)
  rw [faultOne_eq]
  exact congrArg (fun c => c.up ++ [.fault src 2 0x13 0xFF [t] false]) (passes.trans frost)
theorem faultOne_unclean : ∀ r ∈ (tstep (faultOne src t s) t).steps, r.handed = true ∨ r.unclean = true := by
  have passes := abortPasses_frame (uncleaned t (faultNoted src 2 0x13 0xFF (frostFault 2 s))) .stp (by decide)
  have steps : tstep (faultOne src t s) t = tstep (uncleaned t (faultNoted src 2 0x13 0xFF (frostFault 2 s))) t := by
    rw [faultOne_eq]
    exact congrArg (fun x : Stp => Map.get {} x.tens t) passes
  rw [steps, uncleaned, tstep, modTstep, modStp_stp, get_upd, if_pos rfl]
  intro r hr
  obtain ⟨q, -, rfl⟩ := List.mem_map.mp hr
  by_cases handed : q.handed
  · simp [handed]
  · simp [handed]

/-- Aborting passes and sweeps leaves the fence and the last fault noted. -/
theorem abortStress_noted (d : Nat) : (abortStress d s).err.fence = s.err.fence ∧ (abortStress d s).err.lastInfo = s.err.lastInfo := by
  have banks : (zeroDieBanks d s).err = s.err := zeroDieBanks_only (fr := [.mem]) d (by decide) (Only.rfl' _ s) .err (by decide)
  unfold abortStress
  split
  · have recorded := record_frame 0x0C04 (stressRec s d).failmap (d + 3 * 4)
      (modStress d (fun x => { x with running := false, testing := false, result := 3 }) (zeroDieBanks d s)) .err (by decide)
    rw [recorded, modStress, modErr_err, banks]
    exact ⟨rfl, rfl⟩
  · exact ⟨rfl, rfl⟩
theorem abortPasses_noted : (abortPasses s).err.fence = s.err.fence ∧ (abortPasses s).err.lastInfo = s.err.lastInfo :=
  ⟨forS_keeps (fun x => x.err.fence) (fun d _ x => (abortStress_noted x d).1) s,
    forS_keeps (fun x => x.err.lastInfo) (fun d _ x => (abortStress_noted x d).2) s⟩
theorem faultOne_fence : (faultOne src t s).err.fence = s.err.fence := by
  have passes := (abortPasses_noted (uncleaned t (faultNoted src 2 0x13 0xFF (frostFault 2 s)))).1
  have frost := frostFault_frame s 2 .err (by decide)
  rw [faultOne_eq]
  exact passes.trans (congrArg Err.fence frost :)
theorem faultOne_info : (faultOne src t s).err.lastInfo = 2 * 2 ^ 29 + src * 2 ^ 16 + 0x13 * 256 + 0xFF := by
  rw [faultOne_eq]
  exact (abortPasses_noted (uncleaned t (faultNoted src 2 0x13 0xFF (frostFault 2 s)))).2

end

/-! ## A slot without an OPEN port (R302) -/

theorem exec_slotLost {b k : Nat} {s : State} (clock : nclkOn s = true) (valid : bindValid s b = true)
    (here : k < (bindSplitT s b).slots.length) (none : openPorts s b k = []) :
    exec (.slotLost b k) s = .next (faultOne 0x0D (bindTen s b) (noteT (bindTen s b) 0x0702 k 0 s)) := by
  refine (iodClocked_running clock _).trans (congrArg _ (if_pos ⟨valid, here, ?_⟩))
  rw [none]
  rfl

/-! ## Margins (R303, R304, R449) -/

/-- With room on the wilt list a port or path that is not on it joins, and one that is stays. -/
theorem wiltJoin_lists {kind subject : Nat} {s : State} (room : s.pol.wilts.length < 64) :
    ∃ w ∈ (wiltJoin kind subject s).pol.wilts, w.kind = kind ∧ w.subject = subject := by
  have joined : ∀ x : State, x.pol.wilts = s.pol.wilts ++ [⟨kind, subject, nowT s⟩] → ∃ w ∈ x.pol.wilts, w.kind = kind ∧ w.subject = subject :=
    fun x hx => ⟨⟨kind, subject, nowT s⟩, by simp [hx], rfl, rfl⟩
  have notFull : decide (64 ≤ s.pol.wilts.length) = false := by simpa using room
  unfold wiltJoin
  split
  · next listed =>
    obtain ⟨w, hw, same⟩ := List.any_eq_true.mp listed
    exact ⟨w, hw, by simpa using same⟩
  · dsimp only
    split
    · simp only [notFull, Bool.false_and, Bool.false_eq_true, if_false]
      exact joined _ (congrArg Pol.wilts (record_frame 0x0B07 subject kind _ .pol (by decide)))
    · simp only [notFull, Bool.false_eq_true, if_false]
      split
      · exact joined _ (congrArg Pol.wilts (record_frame 0x0B07 subject kind _ .pol (by decide)))
      · exact joined _ (congrArg Pol.wilts (record_frame 0x0B07 subject kind _ .pol (by decide)))

/-- The measurements of a lane within the last second. -/
def recentMargins (x : Port) (tick lane : Nat) : List (Nat × Nat × Nat) :=
  (Map.get [] x.measured lane).filter (fun q => decide (tick < q.1 + 250000000))
/-- A measurement of a lane joins them, and the least of them is what is reported. -/
def Port.measures (tick lane pw eye : Nat) (x : Port) : Port :=
  { x with
    measured := Map.put x.measured lane (recentMargins x tick lane ++ [(tick, pw % 65536, eye % 256)]),
    margins := Map.put x.margins lane (marginMin (recentMargins x tick lane) (pw % 65536) (eye % 256)),
    marginAt := some tick }
/-- A measurement is below the port's thresholds of power or eye. -/
def marginLow (thr : Word) (pw eye : Nat) : Bool := decide (sgn16 pw < sgn16 (fldW thr 31 16)) || decide (eye % 256 < fldW thr 15 8)
/-- A second has passed since the last report. -/
def reportDue (x : Port) (tick : Nat) : Bool := match x.lowAt with | some k => decide (k + 250000000 ≤ tick) | none => true

/-- A low margin puts the port on the wilt list and is reported to the owner. -/
def marginTold (p lane : Nat) (s : State) : State :=
  upEvent 7 0 6 [] p lane (wiltJoin 1 p (modPort p (fun x => { x with lowAt := some s.tick }) s))
/-- It is posted to the tenant of the port, or recorded where it has none. -/
def marginNoted (p lane : Nat) (bound : Option (Nat × Nat)) (a s : State) : State :=
  match bound with
  | some (b, _) => noteT (bindTen a b) 0x0704 p lane s
  | none => record 0x0704 p lane s

section
variable (p lane : Nat) (bound : Option (Nat × Nat)) (a s : State)

theorem marginNoted_frame : Only [.out, .hif, .book] s (marginNoted p lane bound a s) := by
  obtain _ | ⟨b, k⟩ := bound
  · exact (record_frame 0x0704 p lane s).mono (by decide)
  · exact noteT_frame (bindTen a b) 0x0704 p lane s
theorem marginTold_up : UpMsg.event 7 0 6 [] p lane ∈ (marginTold p lane s).cel.up := List.mem_append_right _ List.mem_cons_self
theorem marginTold_port (q : Nat) :
    portRec (marginTold p lane s) q = if q = p then { portRec s p with lowAt := some s.tick } else portRec s q := by
  have joins := wiltJoin_only (fr := [.cel, .pol, .book]) 1 p (by decide) (by decide) (by decide)
    (Only.rfl' _ (modPort p (fun x => { x with lowAt := some s.tick }) s)) .vnl (by decide)
  exact (portRec_of_vnl joins q).trans (portRec_modPort ..)

end

theorem marginIn_eq {p lane : Nat} (pw eye : Nat) {s : State} (hl : lane < 8)
    (on : (globalPort s p = true ∧ ((portRec s p).st = .opened ∨ (portRec s p).st = .retrain)) ∨ (portRec s p).st = .equalize) :
    marginIn p lane pw eye s =
      if marginLow (cset s .vnlPort p 3) pw eye && reportDue (portRec s p) s.tick then
        marginNoted p lane (portBind s p) s (marginTold p lane (modPort p (Port.measures s.tick lane pw eye) s))
      else modPort p (Port.measures s.tick lane pw eye) s := by
  unfold marginIn
  dsimp only
  rw [if_pos on, Nat.mod_eq_of_lt hl]
  have kept : modPort p (fun x => { x with
      measured := Map.put x.measured lane (recentMargins (portRec s p) s.tick lane ++ [(s.tick, pw % 65536, eye % 256)]),
      margins := Map.put x.margins lane (marginMin (recentMargins (portRec s p) s.tick lane) (pw % 65536) (eye % 256)),
      marginAt := some s.tick }) s = modPort p (Port.measures s.tick lane pw eye) s := modPort_congr rfl
  rw [recentMargins] at kept
  rw [kept]
  rfl

section
variable {p lane : Nat} {s : State} (pw eye : Nat)
  (on : (globalPort s p = true ∧ ((portRec s p).st = .opened ∨ (portRec s p).st = .retrain)) ∨ (portRec s p).st = .equalize) (hl : lane < 8)
include on hl

theorem marginIn_low (low : marginLow (cset s .vnlPort p 3) pw eye = true) (due : reportDue (portRec s p) s.tick = true) :
    marginIn p lane pw eye s = marginNoted p lane (portBind s p) s (marginTold p lane (modPort p (Port.measures s.tick lane pw eye) s)) := by
  refine (marginIn_eq pw eye hl on).trans (if_pos ?_)
  rw [low, due]
  rfl
theorem marginIn_kept (kept : marginLow (cset s .vnlPort p 3) pw eye = false ∨ reportDue (portRec s p) s.tick = false) :
    marginIn p lane pw eye s = modPort p (Port.measures s.tick lane pw eye) s := by
  refine (marginIn_eq pw eye hl on).trans (if_neg ?_)
  rw [Bool.and_eq_true, not_and_or, Bool.not_eq_true, Bool.not_eq_true]
  exact kept

/-- Whether reported or not, the measurement is kept in the port's record and no other port changes. -/
theorem marginIn_port (q : Nat) : ∃ at_, portRec (marginIn p lane pw eye s) q =
    if q = p then { (portRec s p).measures s.tick lane pw eye with lowAt := at_ } else portRec s q := by
  by_cases low : marginLow (cset s .vnlPort p 3) pw eye = true ∧ reportDue (portRec s p) s.tick = true
  · refine ⟨some s.tick, ?_⟩
    rw [marginIn_low pw eye on hl low.1 low.2, portRec_of_vnl (marginNoted_frame p lane _ s _ .vnl (by decide)), marginTold_port]
    split
    · rw [portRec_modPort, if_pos rfl]
      rfl
    · next hq => rw [portRec_modPort, if_neg hq]
  · refine ⟨(portRec s p).lowAt, ?_⟩
    rw [not_and_or, Bool.not_eq_true, Bool.not_eq_true] at low
    rw [marginIn_kept pw eye on hl low, portRec_modPort]
    rfl

/-- A first low margin is reported: to the owner and on the wilt list. -/
theorem marginIn_reports (low : marginLow (cset s .vnlPort p 3) pw eye = true) (first : (portRec s p).lowAt = none) :
    (portRec (marginIn p lane pw eye s) p).lowAt = some s.tick ∧ UpMsg.event 7 0 6 [] p lane ∈ (marginIn p lane pw eye s).cel.up ∧
      (s.pol.wilts.length < 64 → ∃ w ∈ (marginIn p lane pw eye s).pol.wilts, w.kind = 1 ∧ w.subject = p) := by
  have due : reportDue (portRec s p) s.tick = true := by rw [reportDue, first]
  have noted := marginNoted_frame p lane (portBind s p) s (marginTold p lane (modPort p (Port.measures s.tick lane pw eye) s))
  rw [marginIn_low pw eye on hl low due]
  refine ⟨?_, ?_, fun room => ?_⟩
  · rw [portRec_of_vnl (noted .vnl (by decide)), marginTold_port, if_pos rfl]
    rfl
  · have told := noted .cel (by decide)
    rw [Part.same] at told
    rw [told]
    exact marginTold_up ..
  · have told := noted .pol (by decide)
    rw [Part.same] at told
    rw [told]
    exact wiltJoin_lists room

end

/-! ## Every command of the upkeep -/

/-- Settles O49: a retry is `resendFrom_within`, the heartbeats `hbTick_traffic`, a lost slot `faultOne_eq`, a margin `marginIn_port` and
`marginIn_reports`; the other commands change one table. -/
theorem linkUpkeep : Obligations.LinkUpkeep := by
  refine ⟨?retry, ?noRetry, ?window, ?beat, ?noBeat, ?lost, ?notLost, ?margin, ?errors, fun acc s open_ => congrArg _ (if_pos open_),
    fun acc s open_ => congrArg _ (if_pos open_), ?closed⟩
  case retry =>
    rintro p x s clock rfl st waits few room
    obtain ⟨u, does, port, sent, others, frame⟩ := retryTimeout_completes clock st waits few room
    refine ⟨u, does, ?_⟩
    dsimp only
    rw [port]
    exact ⟨st, rfl, rfl, rfl, sent, others, frame⟩
  case noRetry =>
    intro p s idle
    refine ite_eq_right_iff.mpr fun _ => congrArg _ (if_neg ?_)
    rintro ⟨st, waits⟩
    simp [st, waits] at idle
  case window =>
    exact fun p s clock => ⟨_, iodClocked_running clock _, (portRec_modPort ..).trans (if_pos rfl),
      fun q hq => (portRec_modPort ..).trans (if_neg hq), modPort_only _ _ (by decide) (Only.rfl' _ s)⟩
  case beat => exact fun s clock allowed => hbTimer_completes clock allowed
  case noBeat =>
    intro s silent
    refine ite_eq_right_iff.mpr fun _ => congrArg _ (if_neg ?_)
    rw [silent]
    exact Bool.false_ne_true
  case lost =>
    intro b k s clock valid here none
    have noted := noteT_frame (bindTen s b) 0x0702 k 0 s
    refine ⟨_, exec_slotLost clock valid here none, ?_, (faultOne_vnl ..).trans (noteT_vnl ..),
      (faultOne_fence ..).trans (congrArg Err.fence (noted .err (by decide))), faultOne_unclean _ _ _, ?_⟩
    · rw [faultOne_up, noteT_cel]
    · rw [faultOne_info]
      decide
  case notLost =>
    intro b k s some
    refine ite_eq_right_iff.mpr fun _ => congrArg _ (if_neg ?_)
    rintro ⟨-, -, none⟩
    exact some (List.isEmpty_iff.mp none)
  case margin =>
    rintro p lane pw eye x s clock rfl on hl
    obtain ⟨at_, port⟩ := marginIn_port pw eye on.symm hl p
    rw [if_pos rfl] at port
    refine ⟨_, iodClocked_running clock _, ?_, ?_, fun l hl => ?_, fun power width => ?_, fun low first => ?_, fun q hq => ?_,
      marginIn_only p lane pw eye (by decide) (by decide) (by decide) (by decide) (by decide) (by decide) (Only.rfl' _ s)⟩
    · rw [port]
      exact (find_put ..).trans (if_pos rfl)
    · rw [port]
      rfl
    · rw [port]
      exact (find_put ..).trans (if_neg hl)
    · rw [marginIn_kept pw eye on.symm ‹_› (.inl (by simp [marginLow, power, width]))]
      exact modPort_only _ _ (by decide) (Only.rfl' _ s)
    · exact marginIn_reports pw eye on.symm hl (by simpa [marginLow] using low) first
    · obtain ⟨at_, other⟩ := marginIn_port pw eye on.symm hl q
      rw [other, if_neg hq]
  case errors =>
    exact fun acc p s open_ here => ⟨_, congrArg Host.Outcome.next (if_pos ⟨open_, here⟩), (portRec_modPort ..).trans (if_pos rfl),
      fun q hq => (portRec_modPort ..).trans (if_neg hq), modPort_only _ _ (by decide) (Only.rfl' _ s)⟩
  case closed =>
    intro acc c p s closed hc
    have shut : ¬ blockOpen s acc 7 = true := by simp [closed]
    simp only [List.mem_cons, List.not_mem_nil, or_false] at hc
    obtain rfl | rfl | rfl := hc
    · exact congrArg _ (if_neg fun h => shut h.1)
    · exact congrArg _ (if_neg shut)
    · exact congrArg _ (if_neg shut)

end Sys2Proof.Machine
end

section
/-!
A port's way from DARK to HEDGED and its failures (R281 to R283, R285, R286 and R293 of 07).
-/
namespace Sys2Proof.Machine

/-! ## A port leaves for DARK or FENCED (R283, R294) -/

/-- The record of a port that leaves, before its gate is shut. -/
def Port.left (st : PortSt) (reason : Nat) (x : Port) : Port := { x with st := st, reason := reason, shake := {}, train := [], trainPart := [] }

/-- What leaving shows: the port's state, reason and keys, the owner's event, the states of the others. -/
structure Leaves (p : Nat) (goal : PortSt) (reason : Nat) (s u : State) : Prop where
  st : (portRec u p).st = goal
  reason : (portRec u p).reason = reason
  keys : (portRec u p).keys = false
  eqFails : (portRec u p).eqFails = (portRec s p).eqFails
  told : UpMsg.event 8 p (if goal = .fenced then 3 else 0) [] p 0 ∈ u.cel.up
  others : ∀ q, q ≠ p → (portRec u q).st = (portRec s q).st

/-- Once the gate is shut only traffic, the owner's event and the check of the buddies follow. -/
theorem leavePort_traffic (p : Nat) (goal : PortSt) (reason : Nat) (s : State) :
    ∃ t, Traffic (closePort p reason (modPort p (Port.left goal reason) s)) t ∧
      leavePort p goal reason s = checkBuddies (portEvt p (if goal = .fenced then 3 else 0) t) := by
  have drained := drainQueue_traffic (closePort p reason (modPort p (Port.left goal reason) s))
  obtain bound | ⟨⟨b, k⟩, bound⟩ := (portBind s p).eq_none_or_eq_some
  · refine ⟨_, drained, ?_⟩
    unfold leavePort
    dsimp only
    rw [bound]
    rfl
  · refine ⟨_, drained.divertBind b, ?_⟩
    unfold leavePort
    dsimp only
    rw [bound]
    rfl

theorem leavePort_leaves {p : Nat} {goal : PortSt} (away : goal ≠ .opened) (reason : Nat) (s : State) :
    Leaves p goal reason s (leavePort p goal reason s) := by
  have port : portRec (modPort p (Port.left goal reason) s) p = (portRec s p).left goal reason := (portRec_modPort ..).trans (if_pos rfl)
  obtain ⟨shutSt, shutReason, shutKeys, shutFails⟩ :=
    gateShutPort_leaves (p := p) (reason := reason) (s := modPort p (Port.left goal reason) s) (by rw [port]; exact away) (by rw [port]; rfl)
  rw [port] at shutSt shutFails
  obtain ⟨t, traffic, same⟩ := leavePort_traffic p goal reason s
  have bare : ∀ q, (portRec (leavePort p goal reason s) q).bare =
      (portRec (gateShutPort p reason (modPort p (Port.left goal reason) s)) q).bare := by
    intro q
    rw [same, portRec_checkBuddies, portRec_portEvt, traffic.ports, portRec_closePort]
  refine ⟨(congrArg Port.st (bare p) :).trans shutSt, (congrArg Port.reason (bare p) :).trans shutReason,
    (congrArg Port.keys (bare p) :).trans shutKeys, (congrArg Port.eqFails (bare p) :).trans shutFails, ?_, fun q hq => ?_⟩
  · rw [same, checkBuddies_cel, portEvt_up]
    exact List.mem_append_right _ List.mem_cons_self
  · have other := bare q
    rw [portRec_gateShutPort_other hq, portRec_modPort, if_neg hq] at other
    exact (congrArg Port.st other :)

/-! ## IDENTIFY (R281, R285) -/

section
variable {p peer pp circuit w : Nat} {s : State} (hw : w = fldW (cset s .vnlPort p 0) 19 0)
include hw

theorem identified_otherPeer (want : w ≠ 0) (other : w ≠ peer) :
    identified p peer pp circuit s = modPort p (fun x => { x with reason := 0x03 }) s := if_pos (hw ▸ ⟨want, other⟩)
theorem identified_otherCircuit (peer_ok : w = 0 ∨ w = peer) (other : circuit ≠ portCircuit s p) :
    identified p peer pp circuit s = modPort p (fun x => { x with reason := 0x04 }) s := by
  subst hw
  exact (if_neg (by omega)).trans (if_pos other)
theorem identified_agrees (peer_ok : w = 0 ∨ w = peer) (same : circuit = portCircuit s p) :
    ∃ f : Vnl → Vnl, identified p peer pp circuit s =
        modVnl f (modPort p (fun x => { x with st := .equalize, peer := peer, peerPort := pp, memoHit := (memoFind s peer circuit).isSome }) s) ∧
      ∀ v, (f v).ports = v.ports ∧
        (f v).memoHits = (if (memoFind s peer circuit).isSome then satAdd 32 v.memoHits 1 else v.memoHits) ∧
        (f v).memoMisses = (if (memoFind s peer circuit).isSome then v.memoMisses else satAdd 32 v.memoMisses 1) ∧
        (∀ m, memoFind s peer circuit = some m → (f v).memoLinks.head? = some m) := by
  subst hw
  refine ⟨_, (if_neg (by omega)).trans (if_neg (by simp [same])), fun v => ⟨rfl, rfl, rfl, fun m hit => ?_⟩⟩
  simp [hit]

end

/-! ## EQUALIZE and ALIGN (R281, R282, R286) -/

section
variable {p coef : Nat} {s : State} (st : (portRec s p).st = .equalize)
include st

theorem equalized_memo (hit : (portRec s p).memoHit = true) :
    equalized p true coef s = modPort p (fun x => { x with st := .align, eqFails := 0 }) s :=
  (if_neg (by simp [st])).trans ((if_pos hit).trans (if_pos rfl))
theorem equalized_stale (hit : (portRec s p).memoHit = true) :
    equalized p false coef s = modVnl (fun v => { v with memoLinks := memoWithout s (portRec s p).peer (portCircuit s p) })
      (modPort p (fun x => { x with memoHit := false }) s) :=
  (if_neg (by simp [st])).trans ((if_pos hit).trans (if_neg Bool.false_ne_true))
theorem equalized_learns (miss : (portRec s p).memoHit = false) : ∃ (digest : Nat) (rest : List MemoLink),
    equalized p true coef s =
      modVnl (fun v => { v with memoLinks := ⟨(portRec s p).peer, portCircuit s p, coef, p, (portRec s p).peerPort, digest⟩ :: rest })
        (modPort p (fun x => { x with st := .align, eqFails := 0 }) s) :=
  ⟨_, _, (if_neg (by simp [st])).trans ((if_neg (by simp [miss])).trans (if_pos rfl))⟩
theorem equalized_fails (miss : (portRec s p).memoHit = false) (few : (portRec s p).eqFails < 2) :
    equalized p false coef s =
      modPort p (fun x => { x with st := .identify, reason := 0x05, eqFails := (portRec s p).eqFails + 1 }) s :=
  (if_neg (by simp [st])).trans ((if_neg (by simp [miss])).trans ((if_neg Bool.false_ne_true).trans ((if_neg (by omega)).trans
    (modPort_congr rfl))))
theorem equalized_fenced (miss : (portRec s p).memoHit = false) (many : 2 ≤ (portRec s p).eqFails) :
    equalized p false coef s = leavePort p .fenced 0x05 (modPort p (fun x => { x with eqFails := 0 }) s) :=
  (if_neg (by simp [st])).trans ((if_neg (by simp [miss])).trans ((if_neg Bool.false_ne_true).trans (if_pos many)))

end

/-! ## Back to OPEN (R282) -/

/-- An empty retry buffer sends nothing again: only the counts of the resends are written. -/
theorem resendFrom_empty {p : Nat} {s : State} (empty : (portRec s p).retry = []) :
    ∃ f : Port → Port, resendFrom p 0 s = modPort p f s ∧ ∀ x, (f x).st = x.st ∧ (f x).reason = x.reason := by
  have stop : resendLimit (portLim s p) (portRec s p).wReplay [] = none := rfl
  unfold resendFrom
  simp only [empty, List.drop_nil, stop, List.take_nil]
  exact ⟨_, rfl, fun _ => ⟨rfl, rfl⟩⟩

/-- A port is OPEN again and the owner is told. -/
def reopened (p : Nat) (s : State) : State := portEvt p 2 (modPort p (fun x => { x with st := .opened, reason := 0 }) s)
theorem portRec_reopened (p : Nat) (s : State) : portRec (reopened p s) p = { portRec s p with st := .opened, reason := 0 } :=
  (portRec_modPort ..).trans (if_pos rfl)
theorem reopened_frame (p : Nat) (s : State) : Only [.out, .vnl, .cel, .hif, .book] s (reopened p s) :=
  portEvt_only p 2 (by decide) (modPort_only _ _ (by decide) (Only.rfl' _ s))
theorem reopenPort_unbound {p : Nat} {s : State} (bound : portBind s p = none) : reopenPort p s = reopened p s := by
  have same : portBind (reopened p s) p = none := bound
  rw [reopened] at same ⊢
  simp [reopenPort, same]
theorem reopenPort_bound {p b k : Nat} {s : State} (bound : portBind s p = some (b, k)) :
    reopenPort p s = drainQueue (updReady b (resendFrom p 0 (reopened p s))) := by
  have same : portBind (reopened p s) p = some (b, k) := bound
  rw [reopened] at same ⊢
  simp [reopenPort, same]

/-- With nothing unacknowledged a port whose gate is still open returns to OPEN. -/
theorem reopenPort_opens {p : Nat} {s : State} (empty : (portRec s p).retry = []) :
    (portRec (reopenPort p s) p).st = .opened ∧ (portRec (reopenPort p s) p).reason = 0 ∧
      (reopenPort p s).cel.up = s.cel.up ++ [.event 8 p 2 [] p 0] ∧ Only [.out, .vnl, .cel, .hif, .book] s (reopenPort p s) := by
  obtain bound | ⟨⟨b, k⟩, bound⟩ := (portBind s p).eq_none_or_eq_some
  · rw [reopenPort_unbound bound, portRec_reopened]
    exact ⟨rfl, rfl, rfl, reopened_frame p s⟩
  · obtain ⟨f, resent, keeps⟩ := resendFrom_empty (p := p) (s := reopened p s) (by rw [portRec_reopened]; exact empty)
    have bare := (drainQueue_traffic (updReady b (modPort p f (reopened p s)))).ports p
    rw [portRec_updReady, portRec_modPort, if_pos rfl, portRec_reopened] at bare
    rw [reopenPort_bound bound, resent]
    refine ⟨(congrArg Port.st bare :).trans (keeps _).1, (congrArg Port.reason bare :).trans (keeps _).2, ?_,
      drainQueue_only (by decide) (by decide) (updReady_only b (by decide) (by decide) (by decide) (by decide)
        (modPort_only _ _ (by decide) (reopened_frame p s)))⟩
    rw [drainQueue_cel, updReady_cel]
    rfl

/-! ## What the bring-up of a port does -/

/-- A port changes its record and nothing else. -/
theorem completes_modPort {c : Instr} {p : Nat} {f : Port → Port} {s : State} (h : exec c s = .next (modPort p f s)) :
    Completes c s (fun u => portRec u p = f (portRec s p) ∧ (∀ q, q ≠ p → portRec u q = portRec s q) ∧ Only [.vnl] s u) :=
  ⟨_, h, (portRec_modPort ..).trans (if_pos rfl), fun q hq => (portRec_modPort ..).trans (if_neg hq), modPort_only _ _ (by decide) (Only.rfl' _ s)⟩

/-- IDENTIFY and its repetition: the two disagreements stay, agreement goes on with the memo's entry (R281, R285). -/
theorem identified_does {p peer pp circuit w : Nat} {s : State} (hw : w = fldW (cset s .vnlPort p 0) 19 0) :
    let u := identified p peer pp circuit s
    (w ≠ 0 → w ≠ peer → portRec u p = { portRec s p with reason := 3 } ∧ u.vnl.memoLinks = s.vnl.memoLinks) ∧
    (w = 0 ∨ w = peer → circuit ≠ portCircuit s p → portRec u p = { portRec s p with reason := 4 } ∧ u.vnl.memoLinks = s.vnl.memoLinks) ∧
    (w = 0 ∨ w = peer → circuit = portCircuit s p →
      portRec u p = { portRec s p with st := .equalize, peer := peer, peerPort := pp, memoHit := (memoFind s peer circuit).isSome } ∧
      u.vnl.memoHits = (if (memoFind s peer circuit).isSome then satAdd 32 s.vnl.memoHits 1 else s.vnl.memoHits) ∧
      u.vnl.memoMisses = (if (memoFind s peer circuit).isSome then s.vnl.memoMisses else satAdd 32 s.vnl.memoMisses 1) ∧
      (∀ m, memoFind s peer circuit = some m → u.vnl.memoLinks.head? = some m)) ∧
    (∀ q, q ≠ p → portRec u q = portRec s q) ∧ Only [.vnl] s u := by
  intro u
  refine ⟨fun want other => ?_, fun agrees other => ?_, fun agrees same => ?_, fun q hq => ?_,
    identified_only p peer pp circuit (by decide) (Only.rfl' _ s)⟩
  · rw [show u = _ from identified_otherPeer hw want other, portRec_modPort, if_pos rfl]
    exact ⟨rfl, rfl⟩
  · rw [show u = _ from identified_otherCircuit hw agrees other, portRec_modPort, if_pos rfl]
    exact ⟨rfl, rfl⟩
  · obtain ⟨f, does, keeps⟩ := identified_agrees (pp := pp) hw agrees same
    obtain ⟨ports, hits, misses, first⟩ := keeps (modPort p (fun x => { x with
      st := .equalize, peer := peer, peerPort := pp, memoHit := (memoFind s peer circuit).isSome }) s).vnl
    rw [show u = _ from does, portRec_of_ports ports, portRec_modPort, if_pos rfl]
    exact ⟨rfl, hits, misses, first⟩
  · by_cases agrees : w = 0 ∨ w = peer
    · by_cases same : circuit = portCircuit s p
      · obtain ⟨f, does, keeps⟩ := identified_agrees (pp := pp) hw agrees same
        rw [show u = _ from does, portRec_of_ports (keeps _).1, portRec_modPort, if_neg hq]
      · rw [show u = _ from identified_otherCircuit hw agrees same, portRec_modPort, if_neg hq]
    · rw [not_or] at agrees
      rw [show u = _ from identified_otherPeer hw agrees.1 agrees.2, portRec_modPort, if_neg hq]

/-- A port's record changes, and of the links nothing else but what `g` writes. -/
theorem changes_port_and_memo {p : Nat} {f : Port → Port} {g : Vnl → Vnl} {s u : State} (h : u = modVnl g (modPort p f s))
    (keeps : ∀ v, (g v).ports = v.ports := by intro _; rfl) :
    portRec u p = f (portRec s p) ∧ (∀ q, q ≠ p → portRec u q = portRec s q) ∧ Only [.vnl] s u := by
  subst h
  exact ⟨(portRec_of_ports (keeps _) p).trans ((portRec_modPort ..).trans (if_pos rfl)),
    fun q hq => (portRec_of_ports (keeps _) q).trans ((portRec_modPort ..).trans (if_neg hq)),
    modVnl_only _ (by decide) (modPort_only _ _ (by decide) (Only.rfl' _ s))⟩

/-- An equalization that does not fence its port: with a memo, from nothing, or to be tried again (R281, R286). -/
theorem equalized_does {p : Nat} (coef : Nat) {ok : Bool} {s : State} (st : (portRec s p).st = .equalize)
    (stays : ok = true ∨ (portRec s p).memoHit = true ∨ (portRec s p).eqFails < 2) :
    let x := portRec s p
    let u := equalized p ok coef s
    (ok = true → portRec u p = { x with st := .align, eqFails := 0 }) ∧
    (ok = true → x.memoHit = false → ∃ m, u.vnl.memoLinks.head? = some m ∧ m.peer = x.peer ∧ m.circuit = portCircuit s p ∧ m.coef = coef) ∧
    (ok = false → x.memoHit = true → portRec u p = { x with memoHit := false } ∧ u.vnl.memoLinks = memoWithout s x.peer (portCircuit s p)) ∧
    (ok = false → x.memoHit = false → portRec u p = { x with st := .identify, reason := 5, eqFails := x.eqFails + 1 }) ∧
    (∀ q, q ≠ p → portRec u q = portRec s q) ∧ Only [.vnl] s u := by
  intro x u
  cases ok with
  | true =>
    obtain hit | miss := Bool.eq_false_or_eq_true x.memoHit
    · obtain ⟨port, rest⟩ := changes_port_and_memo (g := id) (equalized_memo (coef := coef) st hit)
      exact ⟨fun _ => port, fun _ miss => absurd miss (by simp [hit]), nofun, nofun, rest⟩
    · obtain ⟨digest, others, learns⟩ := equalized_learns (coef := coef) st miss
      obtain ⟨port, rest⟩ := changes_port_and_memo learns
      exact ⟨fun _ => port, fun _ _ => ⟨_, congrArg (fun y => y.vnl.memoLinks.head?) learns, rfl, rfl, rfl⟩, nofun, nofun, rest⟩
  | false =>
    obtain hit | miss := Bool.eq_false_or_eq_true x.memoHit
    · have stale := equalized_stale (coef := coef) st hit
      obtain ⟨port, rest⟩ := changes_port_and_memo stale
      exact ⟨nofun, nofun, fun _ _ => ⟨port, congrArg (fun y => y.vnl.memoLinks) stale⟩, fun _ miss => absurd miss (by simp [hit]), rest⟩
    · have few : x.eqFails < 2 := by simpa [miss, x] using stays
      obtain ⟨port, rest⟩ := changes_port_and_memo (g := id) (equalized_fails (coef := coef) st miss few)
      exact ⟨nofun, nofun, fun _ hit => absurd hit (by simp [miss]), fun _ _ => port, rest⟩

/-- A port whose gate is shut enters HEDGED and sends its HELLO. -/
theorem enterHedged_does (p : Nat) (s : State) :
    let u := enterHedged p s
    (portRec u p).st = .hedged ∧ (portRec u p).shake.active = true ∧ (portRec u p).shake.challenge = (Config.freeValue 128 s.free).toNat ∧
      fieldAt (portRec u p).shake.latest 0 1 = 1 ∧ u.free = s.free + 1 ∧ u.cel.up = s.cel.up ++ [.event 8 p 1 [] p 0] ∧
      (∀ q, q ≠ p → portRec u q = portRec s q) ∧ Only [.free, .out, .vnl, .cel] s u := by
  obtain ⟨h, begins, moves⟩ := enterHedged_begins p s
  dsimp only
  rw [moves.port]
  exact ⟨rfl, begins.active, begins.challenge, begins.hello, enterHedged_free p s, enterHedged_up p s, moves.others,
    enterHedged_only p (by decide) (by decide) (by decide) (by decide) (Only.rfl' _ s)⟩

/-- Settles O50: leaving is `leavePort_leaves`, the exchanges `identified_does` and `equalized_does`, the hedge `enterHedged_does`, the
return to OPEN `reopenPort_opens`; the rest changes one record. -/
theorem portsComeUp : Obligations.PortsComeUp := by
  refine ⟨?lost, ?stable, ?identify, ?silent, ?equalize, ?fenced, ?hedged, ?reopened, ?aligned, ?misaligned, ?untrained⟩
  case lost =>
    intro p s clock lit
    have left := leavePort_leaves (p := p) (goal := .dark) (by decide) 1 s
    exact ⟨_, (iodClocked_running clock _).trans (congrArg Host.Outcome.next (if_neg (by simp [lit]))), left.st, left.reason, left.keys,
      left.told, left.others⟩
  case stable =>
    intro p s clock st
    refine completes_modPort (f := fun x => { x with st := .identify }) ?_
    exact (iodClocked_running clock _).trans (congrArg Host.Outcome.next (if_pos st))
  case identify =>
    intro p peer pp circuit w c s clock st hpeer hpp hc hw
    refine ⟨_, ?_, identified_does (peer := peer) (pp := pp) (circuit := circuit) hw⟩
    obtain rfl | ⟨rfl, disagreed⟩ := hc
    · refine (iodClocked_running clock _).trans (congrArg Host.Outcome.next ((if_pos st).trans ?_))
      rw [Nat.mod_eq_of_lt hpeer, Nat.mod_eq_of_lt hpp]
    · refine (iodClocked_running clock _).trans (congrArg Host.Outcome.next ((if_pos ⟨st, disagreed⟩).trans ?_))
      rw [Nat.mod_eq_of_lt hpeer, Nat.mod_eq_of_lt hpp]
  case silent =>
    intro p s clock st
    have left := leavePort_leaves (p := p) (goal := .dark) (by decide) 2 s
    exact ⟨_, (iodClocked_running clock _).trans (congrArg Host.Outcome.next (if_pos st)), left.st, left.reason, left.keys,
      left.told, left.others⟩
  case equalize =>
    rintro p coef ok x s clock rfl st stays
    exact ⟨_, iodClocked_running clock _, equalized_does coef st stays⟩
  case fenced =>
    intro p coef s clock st miss many
    have left := leavePort_leaves (p := p) (goal := .fenced) (by decide) 5 (modPort p (fun x => { x with eqFails := 0 }) s)
    have fails := left.eqFails
    rw [portRec_modPort, if_pos rfl] at fails
    exact ⟨_, (iodClocked_running clock _).trans (congrArg _ (equalized_fenced st miss many)), left.st, left.reason, fails, left.told⟩
  case hedged =>
    intro p c s clock keys hc
    refine ⟨_, ?_, enterHedged_does p s⟩
    have shut : ¬ (portRec s p).keys = true := by simp [keys]
    obtain ⟨rfl, st⟩ | ⟨rfl, st⟩ := hc
    · exact (iodClocked_running clock _).trans (congrArg Host.Outcome.next ((if_pos st).trans ((if_pos rfl).trans (if_neg shut))))
    · exact (iodClocked_running clock _).trans (congrArg Host.Outcome.next ((if_pos st).trans ((if_pos rfl).trans (if_neg shut))))
  case reopened =>
    intro p s clock keys st empty
    exact ⟨_, (iodClocked_running clock _).trans (congrArg Host.Outcome.next ((if_pos st).trans ((if_pos rfl).trans (if_pos keys)))),
      reopenPort_opens empty⟩
  case aligned =>
    intro p s clock keys st empty
    obtain ⟨opened, reason, up, frame⟩ := reopenPort_opens (p := p) (s := portEvt p 1 s) empty
    refine ⟨_, (iodClocked_running clock _).trans (congrArg Host.Outcome.next ((if_pos st).trans ((if_pos rfl).trans (if_pos keys)))),
      opened, reason, ?_, (portEvt_only p 1 (by decide) (Only.rfl' _ s)).trans frame⟩
    rw [up, portEvt_up, List.append_assoc]
    rfl
  case misaligned =>
    intro p s clock st
    refine completes_modPort (f := fun x => { x with st := .equalize, memoHit := false, reason := 6 }) ?_
    exact (iodClocked_running clock _).trans (congrArg Host.Outcome.next ((if_pos st).trans (if_neg Bool.false_ne_true)))
  case untrained =>
    intro p s clock st
    refine completes_modPort (f := fun x => { x with st := .equalize, memoHit := false }) ?_
    exact (iodClocked_running clock _).trans (congrArg Host.Outcome.next ((if_pos st).trans (if_neg Bool.false_ne_true)))

end Sys2Proof.Machine
end

section
/-!
The messages, tokens and verdicts of the hedge handshake (R293, R295 to R297 of 07).
-/
namespace Sys2Proof.Machine

/-! ## What a handshake's operations make of a port (R296, R297) -/

theorem trainHead_hedged {s : State} {p code : Nat} {m : List Byte} (head : trainHead s p code = some m) : (portRec s p).st = .hedged := by
  unfold trainHead at head
  dsimp only at head
  split at head
  · assumption
  · cases head

/-- The port's record once the head of what it received is taken. -/
def Port.next (x : Port) : Port := { x with train := x.train.drop 1 }
theorem moves_of_port {p : Nat} {x : Port} {s : State} (hx : x = portRec s p) : Moves p x s s := hx ▸ Moves.refl p s
theorem dropTrain_moves {p : Nat} {x : Port} {s : State} (hx : x = portRec s p) : Moves p x.next s (dropTrain p s) :=
  (moves_of_port hx).modPort Port.next

/-- An attempt that has ended with a reason (R296). -/
def Port.ended (reason : Nat) (x : Port) : Port := { x with reason := reason, shake := { dead := true } }

/-- A port's record with another handshake. -/
def Port.hand (k : Shake) (x : Port) : Port := { x with shake := k }

namespace Moves

variable {p : Nat} {x : Port} {k : Shake} {a s : State}

theorem hand (h : Moves p x a s) : Moves p (x.hand x.shake) a s := h
theorem shake (h : Moves p (x.hand k) a s) (f : Shake → Shake) : Moves p (x.hand (f k)) a (Machine.modShake p f s) := h.modShake f
theorem tells (h : Moves p (x.hand k) a s) (bytes : List Byte) : Moves p (x.hand { k with latest := bytes }) a (Machine.hsSend p bytes s) :=
  h.hsSend bytes
theorem heard (h : Moves p (x.hand k) a s) (codes : List Nat) :
    ∃ l, Moves p (x.hand { k with latest := l }) a (Machine.answered p codes s) := by
  refine ⟨if memb (fieldAt k.latest 0 1) codes then [] else k.latest, ?_⟩
  have heard := h.shake fun y => if memb (fieldAt y.latest 0 1) codes then { y with latest := [] } else y
  split
  · next code => rwa [if_pos code] at heard
  · next code => rwa [if_neg code] at heard
theorem ends (h : Moves p x a s) (reason : Nat) : Moves p (x.ended reason) a (attemptEnds p reason s) := h.modPort (Port.ended reason)
/-- A token is asked for, a WAIT goes out, or nothing happens: the peer's part stays. -/
theorem askToken (h : Moves p (x.hand k) a s) :
    ∃ w l g, Moves p (x.hand { k with waiting := w, latest := l, signing := g }) a (Machine.askToken p s) := by
  unfold Machine.askToken
  split
  · exact ⟨_, _, _, h⟩
  · split
    · next r _ => exact ⟨_, _, _, (h.shake fun y => { y with waiting := some r }).tells _⟩
    · exact ⟨_, _, _, h.shake fun y => { y with waiting := none, signing := true }⟩
/-- A token of a known chain goes to a Cave that answers. -/
theorem startVerify (h : Moves p (x.hand k) a s) : ∃ v, Moves p (x.hand { k with verifying := v }) a (Machine.startVerify p s) ∧
    (k.chain = true → k.peerTok ≠ [] → Machine.caveDown a = false → v = true) ∧
    (k.chain = false ∨ Machine.caveDown a = true → v = k.verifying) := by
  unfold Machine.startVerify
  rw [h.port, h.caveDown]
  dsimp only [Port.hand]
  split
  · next ready => exact ⟨_, h.shake fun y => { y with verifying := true }, fun _ _ _ => rfl, fun no => by simp [ready] at no⟩
  · next unready => exact ⟨_, h, fun chain token up => absurd ⟨chain, token, by simp [up]⟩ unready, fun _ => rfl⟩

/-- With every input there the gate opens. -/
theorem gateReady (h : Moves p x a s) (hedged : x.st = .hedged) (issued : x.shake.issued = true) (verified : x.shake.verified = true)
    (peerOk : x.shake.peerOk = true) (inputs : Machine.gateLocal a p = true) (token : Machine.cannotIssue a p = none)
    (peer : x.peer = (portRec a p).peer := by rfl) (residue : x.residue = (portRec a p).residue := by rfl) : GateReady s p where
  hedged := h.port ▸ hedged
  issued := h.port ▸ issued
  verified := h.port ▸ verified
  peerOk := h.port ▸ peerOk
  inputs := (h.gateLocal peer).trans inputs
  token := (h.cannotIssue residue).trans token
/-- Without one of them nothing follows. -/
theorem gateWaits (h : Moves p x a s)
    (missing : x.shake.issued = false ∨ x.shake.verified = false ∨ x.shake.peerOk = false ∨ Machine.gateLocal a p = false)
    (peer : x.peer = (portRec a p).peer := by rfl) : tryOpen p s = s := by
  rw [← h.gateLocal peer, ← h.port] at missing
  exact tryOpen_waits missing

end Moves

/-- What a port has received stays when its gate opens. -/
theorem tryOpen_train (p : Nat) (s : State) : (portRec (tryOpen p s) p).train = (portRec s p).train := by
  unfold tryOpen
  dsimp only
  split
  · split
    · rfl
    · refine (congrArg Port.train ((drainQueue_traffic _).ports p) :).trans ?_
      rw [portRec_updReady, portRec_portEvt, portRec_noteT, portRec_modPort, if_pos rfl]
      rfl
  · rfl

/-- The gate opens and the owner is told. -/
theorem GateReady.opens_told {s : State} {p : Nat} (h : GateReady s p) :
    (portRec (tryOpen p s) p).Opened ∧ UpMsg.event 8 p 2 [] p 0 ∈ (tryOpen p s).cel.up := by
  obtain ⟨opened, up⟩ := h.opens
  exact ⟨opened, up ▸ List.mem_append_right _ List.mem_cons_self⟩

/-! ## HELLO (R286, R296) -/

/-- What a HELLO says: the peer's parcel, challenge and chain digest. -/
def helloOf (m : List Byte) : Nat × Nat × Nat := (fieldAt m 2 2, fieldAt m 4 16, fieldAt m 20 48)
/-- The peer's part begins anew. -/
def Shake.greeted (m : List Byte) (known : Bool) (h : Shake) : Shake :=
  { h with
    peerHello := some (helloOf m), issued := false, signing := false, peerTok := [], verifying := false, verified := false,
    peerOk := false, chain := known }

section
variable {p : Nat} {m : List Byte} {s : State}

theorem takeHello_again (same : (portRec s p).shake.peerHello = some (helloOf m)) : takeHello p m s = modShake p (fun y => y) s := by
  rw [helloOf] at same
  simp [takeHello, same]
theorem takeHello_known {e : MemoLink} (new : (portRec s p).shake.peerHello ≠ some (helloOf m))
    (found : memoFind s (portRec s p).peer (portCircuit s p) = some e) (digest : e.digest = fieldAt m 20 48) :
    takeHello p m s = askToken p (modShake p (Shake.greeted m true) s) := by
  have isNew : decide ((portRec s p).shake.peerHello ≠ some (helloOf m)) = true := decide_eq_true new
  have isKnown : decide (e.digest = fieldAt m 20 48) = true := decide_eq_true digest
  rw [helloOf] at isNew
  unfold takeHello
  simp only [isNew, found, isKnown, if_true]
  rfl
theorem takeHello_unknown (new : (portRec s p).shake.peerHello ≠ some (helloOf m))
    (unknown : ∀ e, memoFind s (portRec s p).peer (portCircuit s p) = some e → e.digest ≠ fieldAt m 20 48) :
    takeHello p m s = sendCert p (modShake p (Shake.greeted m false) s) := by
  have isNew : decide ((portRec s p).shake.peerHello ≠ some (helloOf m)) = true := decide_eq_true new
  rw [helloOf] at isNew
  unfold takeHello
  obtain found | ⟨e, found⟩ := (memoFind s (portRec s p).peer (portCircuit s p)).eq_none_or_eq_some
  · simp only [isNew, found, if_true]
    rfl
  · have notKnown : decide (e.digest = fieldAt m 20 48) = false := decide_eq_false (unknown e found)
    simp only [isNew, found, notKnown, if_true]
    rfl

end

/-- A HELLO that the port has heard before changes nothing. -/
theorem takeHello_again_moves {p : Nat} {m : List Byte} {x : Port} {s : State} (hx : x = portRec s p)
    (same : x.shake.peerHello = some (helloOf m)) : Moves p x s (takeHello p m s) ∧ (takeHello p m s).out = s.out := by
  rw [takeHello_again (hx ▸ same)]
  exact ⟨(moves_of_port hx).modShake fun y => y, rfl⟩
/-- A new one begins the peer's part anew; an unknown chain is asked for. -/
theorem takeHello_new_moves {p : Nat} {m : List Byte} {x : Port} {s : State} (hx : x = portRec s p)
    (new : x.shake.peerHello ≠ some (helloOf m)) : ∃ known w l g,
      Moves p (x.hand { x.shake.greeted m known with waiting := w, latest := l, signing := g }) s (takeHello p m s) ∧
      ((∀ e, memoFind s x.peer (portCircuit s p) = some e → e.digest ≠ fieldAt m 20 48) →
        known = false ∧ l = leB 1 2 ++ zeros 1 ++ Config.certChain) := by
  have start := (moves_of_port hx).hand
  by_cases unknown : ∀ e, memoFind s x.peer (portCircuit s p) = some e → e.digest ≠ fieldAt m 20 48
  · rw [takeHello_unknown (hx ▸ new) (hx ▸ unknown)]
    exact ⟨false, _, _, _, (start.shake (Shake.greeted m false)).tells _, fun _ => ⟨rfl, rfl⟩⟩
  · have known := unknown
    push Not at known
    obtain ⟨e, found, digest⟩ := known
    obtain ⟨w, l, g, moves⟩ := (start.shake (Shake.greeted m true)).askToken
    rw [takeHello_known (hx ▸ new) (hx ▸ found) digest]
    exact ⟨true, w, l, g, moves, fun none => absurd none unknown⟩

/-! ## CERT (R286, R296) -/

/-- The memo's entries of a peer and circuit keep a chain's digest. -/
def memoDigest (peer circuit digest : Nat) (l : List MemoLink) : List MemoLink :=
  l.map (fun e => if e.peer = peer ∧ e.circuit = circuit then { e with digest := digest } else e)
theorem memoDigest_kept {peer circuit digest : Nat} {l : List MemoLink} :
    ∀ e ∈ memoDigest peer circuit digest l, e.peer = peer → e.circuit = circuit → e.digest = digest := by
  intro e he hp hc
  obtain ⟨q, -, rfl⟩ := List.mem_map.mp he
  by_cases same : q.peer = peer ∧ q.circuit = circuit
  · rw [if_pos same]
  · rw [if_neg same] at hp hc
    exact absurd ⟨hp, hc⟩ same

/-- The memo keeps the digest of the peer's chain, and CERT has answered what went out. -/
def certHeard (p digest : Nat) (s : State) : State :=
  modVnl (fun v => { v with memoLinks := memoDigest (portRec s p).peer (portCircuit s p) digest v.memoLinks }) (answered p [1, 2] s)
theorem certHeard_others {p q : Nat} (hq : q ≠ p) (digest : Nat) (s : State) : portRec (certHeard p digest s) q = portRec s q :=
  ((Moves.refl p s).answered [1, 2]).others q hq

section
variable {p : Nat} {m : List Byte} {h : Nat × Nat × Nat} {s : State} (hello : (portRec s p).shake.peerHello = some h)
include hello

theorem takeCert_other (other : chainIs (m.drop 2) h.2.2 = false) :
    takeCert p m s = attemptEnds p 0x0A (hsSend p (leB 1 4 ++ zeros 1 ++ leB 1 0x0A) s) := by simp [takeCert, hello, other]
theorem takeCert_chain {x : Port} (hx : x = portRec s p) (chain : chainIs (m.drop 2) h.2.2 = true) : ∃ k : Shake,
    k.chain = true ∧ k.peerHello = some h ∧ Moves p (x.hand k) (certHeard p h.2.2 s) (takeCert p m s) := by
  obtain ⟨l, heard⟩ := (moves_of_port hx).hand.heard [1, 2]
  have start : Moves p (x.hand { x.shake with latest := l }) (certHeard p h.2.2 s) (certHeard p h.2.2 s) :=
    ⟨heard.port, fun _ _ => rfl, rfl⟩
  have sent : ∃ l, Moves p (x.hand { x.shake with latest := l }) (certHeard p h.2.2 s)
      (if (portRec s p).shake.chain then sendCert p (certHeard p h.2.2 s) else certHeard p h.2.2 s) := by
    split
    · exact ⟨_, start.tells _⟩
    · exact ⟨_, start⟩
  obtain ⟨l, sent⟩ := sent
  obtain ⟨w, l, g, asked⟩ := (sent.shake fun y => { y with chain := true }).askToken
  obtain ⟨v, started, -⟩ := asked.startVerify
  have same : takeCert p m s = startVerify p (askToken p (modShake p (fun y => { y with chain := true })
      (if (portRec s p).shake.chain then sendCert p (certHeard p h.2.2 s) else certHeard p h.2.2 s))) := by
    simp only [takeCert, hello, chain, if_true]
    rfl
  rw [same]
  refine ⟨_, ?chain, ?hello, started⟩
  case chain => rfl
  case hello => exact hx ▸ hello

end

/-! ## Resending (R296) -/

theorem forS_out_length {α : Type} (l : List α) {f : α → State → State} (one : ∀ q x, (f q x).out.length = x.out.length + 1) (s : State) :
    (forS l f s).out.length = s.out.length + l.length := by
  induction l generalizing s with
  | nil => rfl
  | cons q r ih =>
    refine (ih (f q s)).trans ?_
    rw [one, List.length_cons]
    omega
theorem chunksOf_length_pos (n k : Nat) (bs : List Byte) : 0 < (chunksOf n (k + 1) bs).length := by
  unfold chunksOf
  split
  · exact Nat.zero_lt_one
  · exact Nat.zero_lt_succ _
/-- A message goes out in one TRAIN flit or more. -/
theorem sendTrain_longer (p : Nat) (bytes : List Byte) (s : State) : s.out.length < (sendTrain p bytes s).out.length := by
  have chunks := chunksOf_length_pos 254 (bytes.length / 254) (bytes.drop 2)
  unfold sendTrain
  dsimp only
  rw [forS_out_length _ (fun _ _ => rfl), List.length_zipIdx]
  omega

/-! ## The Cave's tokens (R293, R295, R297) -/

/-- The Cave has signed the token of a port that may have one: TOKEN goes out and the gate is tried. -/
def tokenSent (p b : Nat) (s : State) : State :=
  hsSend p (leB 1 3 ++ zeros 1 ++ tokenBody s p b ++ leB 96 (Config.sign (Config.sha384 (tokenBody s p b))).toNat)
    (modShake p (fun h => { h with signing := false, issued := true }) s)
theorem tokenSigned_issues {p b k : Nat} {s : State} (hedged : (portRec s p).st = .hedged) (signing : (portRec s p).shake.signing = true)
    (token : cannotIssue s p = none) (bound : portBind s p = some (b, k)) : tokenSigned p s = tryOpen p (tokenSent p b s) := by
  refine (if_pos ⟨hedged, signing⟩).trans ?_
  rw [token, bound]
  rfl
theorem tokenSent_frame (p b : Nat) (s : State) : Only [.out, .vnl] s (tokenSent p b s) :=
  hsSend_only p _ (by decide) (by decide) (modShake_only p _ (by decide) (Only.rfl' _ s))
/-- The Cave has verified the peer's token: the VERDICT goes out. -/
def verdictSent (p : Nat) (s : State) : State :=
  hsSend p (leB 1 4 ++ zeros 1 ++ leB 1 (tokenVerdict s p)) (modShake p (fun h => { h with verifying := false }) s)
theorem verdictSent_moves {p : Nat} {x : Port} {s : State} (hx : x = portRec s p) : Moves p
    (x.hand { x.shake with verifying := false, latest := leB 1 4 ++ zeros 1 ++ leB 1 (tokenVerdict s p) }) s (verdictSent p s) :=
  ((moves_of_port hx).hand.shake fun y => { y with verifying := false }).tells _
theorem verdictSent_frame (p : Nat) (s : State) : Only [.out, .vnl] s (verdictSent p s) :=
  hsSend_only p _ (by decide) (by decide) (modShake_only p _ (by decide) (Only.rfl' _ s))
theorem tokenVerified_accepts {p : Nat} {s : State} (hedged : (portRec s p).st = .hedged) (verifying : (portRec s p).shake.verifying = true)
    (accepted : tokenVerdict s p = 0) :
    tokenVerified p s = tryOpen p (modShake p (fun h => { h with verified := true }) (verdictSent p s)) :=
  (if_pos ⟨hedged, verifying⟩).trans (if_pos accepted)
theorem tokenVerified_rejects {p : Nat} {s : State} (hedged : (portRec s p).st = .hedged) (verifying : (portRec s p).shake.verifying = true)
    (rejected : tokenVerdict s p ≠ 0) : tokenVerified p s = attemptEnds p (tokenVerdict s p) (verdictSent p s) :=
  (if_pos ⟨hedged, verifying⟩).trans (if_neg rejected)

theorem gateLocal_of_verdict {s : State} {p : Nat} (accepted : tokenVerdict s p = 0) : gateLocal s p = true := by
  by_contra shut
  unfold tokenVerdict at accepted
  grind

/-! ## What each message does -/

section
variable {p : Nat} {m : List Byte} {x : Port} {s : State} (clock : nclkOn s = true) (hx : x = portRec s p)
include clock hx

theorem hsHello_completes (head : trainHead s p 1 = some m) :
    Completes (.hsHello p) s (fun u =>
      (portRec u p).train = x.train.drop 1 ∧ (portRec u p).st = .hedged ∧
      (x.shake.peerHello = some (helloOf m) → (portRec u p).shake = x.shake ∧ u.out = s.out) ∧
      (x.shake.peerHello ≠ some (helloOf m) →
        (portRec u p).shake.peerHello = some (helloOf m) ∧ (portRec u p).shake.issued = false ∧
        (portRec u p).shake.verified = false ∧ (portRec u p).shake.peerOk = false ∧ (portRec u p).shake.peerTok = [] ∧
        (portRec u p).shake.challenge = x.shake.challenge ∧
        ((∀ e, memoFind s x.peer (portCircuit s p) = some e → e.digest ≠ fieldAt m 20 48) →
          (portRec u p).shake.chain = false ∧ (portRec u p).shake.latest = leB 1 2 ++ zeros 1 ++ Config.certChain)) ∧
      (∀ q, q ≠ p → portRec u q = portRec s q) ∧ Only [.out, .vnl] s u) := by
  have dropped := dropTrain_moves hx
  have hedged : x.st = .hedged := hx ▸ trainHead_hedged head
  have others : ∀ y, Moves p y (dropTrain p s) (takeHello p m (dropTrain p s)) →
      ∀ q, q ≠ p → portRec (takeHello p m (dropTrain p s)) q = portRec s q :=
    fun y moves q hq => (moves.others q hq).trans (dropped.others q hq)
  have frame : Only [.out, .vnl] s (takeHello p m (dropTrain p s)) :=
    takeHello_only p m (by decide) (by decide) (dropTrain_only p (by decide) (Only.rfl' _ s))
  refine ⟨_, (iodClocked_running clock _).trans (congrArg Host.Outcome.next (by rw [head])), ?_⟩
  dsimp only
  by_cases same : x.shake.peerHello = some (helloOf m)
  · obtain ⟨moves, out⟩ := takeHello_again_moves dropped.port.symm same
    rw [moves.port]
    exact ⟨rfl, hedged, fun _ => ⟨rfl, out⟩, fun new => absurd same new, others _ moves, frame⟩
  · obtain ⟨known, w, l, g, moves, unknown⟩ := takeHello_new_moves dropped.port.symm same
    rw [moves.port]
    exact ⟨rfl, hedged, fun old => absurd old same, fun _ => ⟨rfl, rfl, rfl, rfl, rfl, rfl, unknown⟩, others _ moves, frame⟩

theorem hsCert_completes {h : Nat × Nat × Nat} (head : trainHead s p 2 = some m) (hello : x.shake.peerHello = some h) :
    Completes (.hsCert p) s (fun u =>
      (if chainIs (m.drop 2) h.2.2 then
        (portRec u p).shake.chain = true ∧ (portRec u p).shake.peerHello = some h ∧
          (∀ e ∈ u.vnl.memoLinks, e.peer = x.peer → e.circuit = portCircuit s p → e.digest = h.2.2)
      else (portRec u p).shake = { dead := true } ∧ (portRec u p).reason = 0x0A) ∧
      (portRec u p).train = x.train.drop 1 ∧ (∀ q, q ≠ p → portRec u q = portRec s q) ∧ Only [.out, .vnl] s u) := by
  have dropped := dropTrain_moves hx
  have hello' : (portRec (dropTrain p s) p).shake.peerHello = some h := by rw [dropped.port]; exact hello
  have frame : Only [.out, .vnl] s (takeCert p m (dropTrain p s)) :=
    takeCert_only p m (by decide) (by decide) (dropTrain_only p (by decide) (Only.rfl' _ s))
  refine ⟨_, (iodClocked_running clock _).trans (congrArg Host.Outcome.next (by rw [head])), ?_⟩
  dsimp only
  cases chain : chainIs (m.drop 2) h.2.2 with
  | true =>
    obtain ⟨k, known, kept, moves⟩ := takeCert_chain hello' dropped.port.symm chain
    rw [if_pos rfl, moves.port, moves.vnl]
    refine ⟨⟨known, kept, fun e he => ?_⟩, rfl,
      fun q hq => (moves.others q hq).trans ((certHeard_others hq ..).trans (dropped.others q hq)), frame⟩
    have digest := memoDigest_kept e he
    rw [dropped.port] at digest
    exact digest
  | false =>
    have ended := (dropped.hand.tells (leB 1 4 ++ zeros 1 ++ leB 1 0x0A)).ends 0x0A
    rw [takeCert_other hello' chain] at frame ⊢
    rw [if_neg Bool.false_ne_true, ended.port]
    exact ⟨⟨rfl, rfl⟩, rfl, ended.others, frame⟩

theorem hsToken_completes (head : trainHead s p 3 = some m) :
    Completes (.hsToken p) s (fun u =>
      (portRec u p).shake.peerTok = (m.drop 2).take 160 ∧ (portRec u p).train = x.train.drop 1 ∧
      (x.shake.chain = true → 2 < m.length → caveDown s = false → (portRec u p).shake.verifying = true) ∧
      (x.shake.chain = false ∨ caveDown s = true → (portRec u p).shake.verifying = x.shake.verifying) ∧
      (∀ q, q ≠ p → portRec u q = portRec s q) ∧ Only [.vnl] s u) := by
  obtain ⟨l, heard⟩ := (dropTrain_moves hx).hand.heard [1, 2]
  obtain ⟨v, moves, starts, waits⟩ := (heard.shake fun y => { y with peerTok := (m.drop 2).take 160 }).startVerify
  refine ⟨_, (iodClocked_running clock _).trans (congrArg Host.Outcome.next (by rw [head])), ?_⟩
  dsimp only
  rw [moves.port]
  refine ⟨rfl, rfl, fun chain long up => starts chain (List.ne_nil_of_length_pos ?_) up, waits, moves.others,
    startVerify_only p (by decide) (modShake_only p _ (by decide) (answered_only p _ (by decide) (dropTrain_only p (by decide) (Only.rfl' _ s))))⟩
  simp
  omega

theorem hsWait_completes (head : trainHead s p 5 = some m) :
    Completes (.hsWait p) s (fun u =>
      portRec u p = { x with
        train := x.train.drop 1,
        shake := if memb (fieldAt x.shake.latest 0 1) [1, 2, 3] then { x.shake with latest := [] } else x.shake } ∧
      (∀ q, q ≠ p → portRec u q = portRec s q) ∧ Only [.vnl] s u) := by
  have heard := (dropTrain_moves hx).answered [1, 2, 3]
  exact ⟨_, (iodClocked_running clock _).trans (congrArg Host.Outcome.next (by rw [head])), heard.port, heard.others,
    answered_only p _ (by decide) (dropTrain_only p (by decide) (Only.rfl' _ s))⟩

/-- The peer's VERDICT (R293, R296, R297). -/
theorem hsVerdict_completes (head : trainHead s p 4 = some m) :
    Completes (.hsVerdict p) s (fun u =>
      (portRec u p).train = x.train.drop 1 ∧
      (fieldAt m 2 1 ≠ 0 → portRec u p = { x with train := x.train.drop 1, reason := fieldAt m 2 1, shake := { dead := true } }) ∧
      (fieldAt m 2 1 = 0 → x.shake.verified = true → tokenExpired s p = true →
        portRec u p = { x with train := x.train.drop 1, reason := 0x0B, shake := { dead := true } }) ∧
      (fieldAt m 2 1 = 0 → x.shake.verified = false ∨ (tokenExpired s p = false ∧ x.shake.issued = false) →
        (portRec u p).shake.peerOk = true ∧ (portRec u p).st = .hedged) ∧
      (fieldAt m 2 1 = 0 → tokenExpired s p = false → x.shake.issued = true → x.shake.verified = true → gateLocal s p = true →
        cannotIssue s p = none →
        (portRec u p).st = .opened ∧ (portRec u p).keys = true ∧ (portRec u p).rxCtr = 0 ∧ UpMsg.event 8 p 2 [] p 0 ∈ u.cel.up) ∧
      Only [.out, .hif, .vnl, .cel, .book] s u) := by
  have hedged : x.st = .hedged := hx ▸ trainHead_hedged head
  have noted : Only [.out, .hif, .vnl, .cel, .book] s (answered p [3] (dropTrain p s)) :=
    answered_only p _ (by decide) (dropTrain_only p (by decide) (Only.rfl' _ s))
  obtain ⟨l, heard⟩ := (dropTrain_moves hx).hand.heard [3]
  have expired : tokenExpired (answered p [3] (dropTrain p s)) p = tokenExpired s p := heard.tokenExpired (hx ▸ rfl)
  have does : exec (.hsVerdict p) s = .next
      (if fieldAt m 2 1 ≠ 0 then attemptEnds p (fieldAt m 2 1) (answered p [3] (dropTrain p s))
      else if x.shake.verified ∧ tokenExpired s p then attemptEnds p 0x0B (answered p [3] (dropTrain p s))
      else tryOpen p (modShake p (fun h => { h with peerOk := true }) (answered p [3] (dropTrain p s)))) := by
    refine (iodClocked_running clock _).trans ?_
    rw [head]
    dsimp only
    rw [heard.port, expired]
    rfl
  refine ⟨_, does, ?_⟩
  dsimp only
  by_cases accepts : fieldAt m 2 1 = 0
  · rw [if_neg (not_not.mpr accepts)]
    by_cases late : x.shake.verified = true ∧ tokenExpired s p = true
    · have ended := heard.ends 0x0B
      obtain ⟨verified, past⟩ := late
      rw [if_pos ⟨verified, past⟩, ended.port]
      exact ⟨rfl, fun rejects => absurd accepts rejects, fun _ _ _ => rfl, fun _ early => by simp [verified, past] at early,
        fun _ early => absurd early (by simp [past]), attemptEnds_only p _ (by decide) noted⟩
    · have counts := heard.shake fun y => { y with peerOk := true }
      rw [if_neg late]
      refine ⟨?_, fun rejects => absurd accepts rejects, fun _ verified expired => absurd ⟨verified, expired⟩ late, fun _ waits => ?_,
        fun _ _ issued verified inputs token => ?_,
        tryOpen_only p (by decide) (by decide) (by decide) (by decide) (by decide) (modShake_only p _ (by decide) noted)⟩
      · rw [tryOpen_train, counts.port]
        rfl
      · rw [counts.gateWaits (waits.elim (fun h => .inr (.inl h)) fun h => .inl h.2) (hx ▸ rfl), counts.port]
        exact ⟨rfl, hedged⟩
      · obtain ⟨opened, told⟩ := (counts.gateReady hedged issued verified rfl inputs token (hx ▸ rfl) (hx ▸ rfl)).opens_told
        exact ⟨opened.st, opened.keys, opened.rxCtr, told⟩
  · have ended := heard.ends (fieldAt m 2 1)
    rw [if_pos accepts, ended.port]
    exact ⟨rfl, fun _ => rfl, fun zero => absurd zero accepts, fun zero => absurd zero accepts, fun zero => absurd zero accepts,
      attemptEnds_only p _ (by decide) noted⟩

/-! ## What the Cave's tokens do (R295, R297) -/

theorem tokenSignDone_completes {b k : Nat} (hedged : x.st = .hedged) (signing : x.shake.signing = true) (token : cannotIssue s p = none)
    (bound : portBind s p = some (b, k)) :
    Completes (.tokenSignDone p) s (fun u =>
      (x.shake.verified = false ∨ x.shake.peerOk = false ∨ gateLocal s p = false →
        (portRec u p).shake.issued = true ∧ (portRec u p).shake.signing = false ∧ (portRec u p).st = .hedged ∧
        fieldAt (portRec u p).shake.latest 0 1 = 3 ∧ Only [.out, .vnl] s u) ∧
      (x.shake.verified = true → x.shake.peerOk = true → gateLocal s p = true →
        (portRec u p).st = .opened ∧ (portRec u p).keys = true ∧ (portRec u p).rxCtr = 0 ∧ (portRec u p).reason = 0 ∧
        UpMsg.event 8 p 2 [] p 0 ∈ u.cel.up ∧ Only [.out, .hif, .vnl, .cel, .book] s u)) := by
  have sent := ((moves_of_port hx).hand.shake fun y => { y with signing := false, issued := true }).tells
    (leB 1 3 ++ zeros 1 ++ tokenBody s p b ++ leB 96 (Config.sign (Config.sha384 (tokenBody s p b))).toNat)
  change Moves p _ s (tokenSent p b s) at sent
  refine ⟨_, (iodClocked_running clock _).trans (congrArg _ (tokenSigned_issues (hx ▸ hedged) (hx ▸ signing) token bound)),
    fun missing => ?_, fun verified peerOk inputs => ?_⟩
  · rw [sent.gateWaits (.inr missing) (hx ▸ rfl), sent.port]
    exact ⟨rfl, rfl, hedged, rfl, tokenSent_frame p b s⟩
  · obtain ⟨opened, told⟩ := (sent.gateReady hedged rfl verified peerOk inputs token (hx ▸ rfl) (hx ▸ rfl)).opens_told
    exact ⟨opened.st, opened.keys, opened.rxCtr, opened.reason, told,
      tryOpen_only p (by decide) (by decide) (by decide) (by decide) (by decide) ((tokenSent_frame p b s).mono (by decide))⟩

theorem tokenVerifyDone_completes (hedged : x.st = .hedged) (verifying : x.shake.verifying = true)
    (missing : x.shake.issued = false ∨ x.shake.peerOk = false) :
    Completes (.tokenVerifyDone p) s (fun u =>
      (if tokenVerdict s p = 0 then
        (portRec u p).shake.verified = true ∧ (portRec u p).shake.verifying = false ∧ (portRec u p).st = .hedged
      else (portRec u p).shake = { dead := true } ∧ (portRec u p).reason = tokenVerdict s p) ∧
      (∀ q, q ≠ p → portRec u q = portRec s q) ∧ Only [.out, .vnl] s u) := by
  refine ⟨_, iodClocked_running clock _, ?_⟩
  dsimp only
  by_cases accepted : tokenVerdict s p = 0
  · have counts := (verdictSent_moves hx).shake fun y => { y with verified := true }
    have waits := counts.gateWaits (missing.elim .inl fun h => .inr (.inr (.inl h))) (hx ▸ rfl)
    rw [if_pos accepted, tokenVerified_accepts (hx ▸ hedged) (hx ▸ verifying) accepted, waits, counts.port]
    exact ⟨⟨rfl, rfl, hedged⟩, counts.others, modShake_only p _ (by decide) (verdictSent_frame p s)⟩
  · have ended := (verdictSent_moves hx).ends (tokenVerdict s p)
    rw [if_neg accepted, tokenVerified_rejects (hx ▸ hedged) (hx ▸ verifying) accepted, ended.port]
    exact ⟨⟨rfl, rfl⟩, ended.others, attemptEnds_only p _ (by decide) (verdictSent_frame p s)⟩
theorem tokenVerifyDone_opens (hedged : x.st = .hedged) (verifying : x.shake.verifying = true) (issued : x.shake.issued = true)
    (peerOk : x.shake.peerOk = true) (token : cannotIssue s p = none) :
    Completes (.tokenVerifyDone p) s (fun u =>
      (tokenVerdict s p = 0 → (portRec u p).st = .opened ∧ (portRec u p).keys = true ∧ (portRec u p).rxCtr = 0 ∧
        (portRec u p).reason = 0 ∧ UpMsg.event 8 p 2 [] p 0 ∈ u.cel.up) ∧
      (tokenVerdict s p ≠ 0 → (portRec u p).shake = { dead := true } ∧ (portRec u p).reason = tokenVerdict s p) ∧
      Only [.out, .hif, .vnl, .cel, .book] s u) := by
  refine ⟨_, iodClocked_running clock _, fun accepted => ?_, fun rejected => ?_,
    tokenVerified_only p (by decide) (by decide) (by decide) (by decide) (by decide) (Only.rfl' _ s)⟩
  · have counts := (verdictSent_moves hx).shake fun y => { y with verified := true }
    obtain ⟨opened, told⟩ :=
      (counts.gateReady hedged issued rfl peerOk (gateLocal_of_verdict accepted) token (hx ▸ rfl) (hx ▸ rfl)).opens_told
    rw [tokenVerified_accepts (hx ▸ hedged) (hx ▸ verifying) accepted]
    exact ⟨opened.st, opened.keys, opened.rxCtr, opened.reason, told⟩
  · have ended := (verdictSent_moves hx).ends (tokenVerdict s p)
    rw [tokenVerified_rejects (hx ▸ hedged) (hx ▸ verifying) rejected, ended.port]
    exact ⟨rfl, rfl⟩

end

/-- Settles O51: each message is a change of the port's handshake (`Moves`), and the gate opens by `GateReady.opens`; an unanswered
message goes out again by `sendTrain_longer`. -/
theorem hedgeHandshake : Obligations.HedgeHandshake := by
  refine ⟨fun p m x s clock head hx => hsHello_completes clock hx head, fun p m h x s clock head hx hello => hsCert_completes clock hx head hello,
    fun p m x s clock head hx => hsToken_completes clock hx head, fun p m x s clock head hx => hsVerdict_completes clock hx head,
    fun p m x s clock head hx => hsWait_completes clock hx head,
    fun p b k x s clock hx hedged signing token bound => tokenSignDone_completes clock hx hedged signing token bound,
    fun p x s clock hx hedged verifying missing => tokenVerifyDone_completes clock hx hedged verifying missing,
    fun p x s clock hx hedged verifying issued peerOk token => tokenVerifyDone_opens clock hx hedged verifying issued peerOk token,
    ?resend, ?ask, ?timeout, ?restart⟩
  case resend =>
    intro p s clock hedged active idle latest
    have does : exec (.handshakeResend p) s = .next (sendTrain p (portRec s p).shake.latest s) :=
      (iodClocked_running clock _).trans (congrArg Host.Outcome.next
        ((if_pos ⟨hedged, active⟩).trans ((if_neg (by simp [idle])).trans (if_neg latest))))
    exact ⟨_, does, sendTrain_longer .., sendTrain_only p _ (by decide) (Only.rfl' _ s)⟩
  case ask =>
    intro p s clock hedged active waits issued token up
    have asks : askToken p s = modPort p (fun x => { x with shake := { x.shake with waiting := none, signing := true } }) s := by
      simp [askToken, up, issued, token]
    have does : exec (.handshakeResend p) s = .next (askToken p s) :=
      (iodClocked_running clock _).trans (congrArg Host.Outcome.next ((if_pos ⟨hedged, active⟩).trans (if_pos waits)))
    refine ⟨_, does, ?_⟩
    dsimp only
    rw [asks, portRec_modPort, if_pos rfl]
    exact ⟨rfl, rfl, modPort_only _ _ (by decide) (Only.rfl' _ s)⟩
  case timeout =>
    intro p s clock hedged active
    refine completes_modPort (f := Port.ended 0x0D) ?_
    exact (iodClocked_running clock _).trans (congrArg Host.Outcome.next (if_pos ⟨hedged, active⟩))
  case restart =>
    intro p s clock hedged dead
    obtain ⟨h, begins, moves⟩ := hsHelloStart_moves p s
    refine ⟨_, (iodClocked_running clock _).trans (congrArg Host.Outcome.next (if_pos ⟨hedged, dead⟩)), ?_⟩
    dsimp only
    rw [moves.port]
    exact ⟨begins.active, begins.dead, begins.challenge, hsHelloStart_free p s, begins.hello, moves.others,
      hsHelloStart_only p (by decide) (by decide) (by decide) (Only.rfl' _ s)⟩

end Sys2Proof.Machine
end

section
/-!
Service frames, answers of the service port and judged peers (R301, R438, R439, R449, R521 and R555 of 07, 11 and 15).
-/
namespace Sys2Proof.Machine

/-! ## The wilt list (R449) -/

@[simp] theorem record_pol (code subject detail : Nat) (s : State) : (record code subject detail s).pol = s.pol :=
  record_frame code subject detail s .pol (by decide)
@[simp] theorem record_cel (code subject detail : Nat) (s : State) : (record code subject detail s).cel = s.cel :=
  record_frame code subject detail s .cel (by decide)

/-- A policy state that differs from that of `s` in the wilt list at most. -/
def WiltsOf (s u : State) : Prop := ∃ w, u.pol = { s.pol with wilts := w }
theorem WiltsOf.refl (s : State) : WiltsOf s s := ⟨_, rfl⟩
theorem WiltsOf.change {s u : State} (h : WiltsOf s u) (f : List Wilt → List Wilt) (code up subject kind : Nat) :
    WiltsOf s (upEvent 7 0 up [] subject kind (record code subject kind (modPol (fun p => { p with wilts := f p.wilts }) u))) := by
  obtain ⟨w, pol⟩ := h
  refine ⟨f w, (record_pol ..).trans ?_⟩
  rw [modPol_pol, pol]
theorem wiltJoin_wilts (kind subject : Nat) (s : State) : WiltsOf s (wiltJoin kind subject s) := by
  have joins : ∀ u, WiltsOf s u → WiltsOf s (upEvent 7 0 4 [] subject kind
      (record 0x0B07 subject kind (modPol (fun p => { p with wilts := p.wilts ++ [⟨kind, subject, nowT s⟩] }) u))) :=
    fun u h => h.change (· ++ [⟨kind, subject, nowT s⟩]) 0x0B07 4 subject kind
  unfold wiltJoin
  split
  · exact .refl s
  · dsimp only
    split
    · split
      · exact .refl s
      · split
        · exact .refl s
        · exact joins s (.refl s)
    · next i _ =>
      split
      · next w _ =>
        split
        · exact joins _ ((WiltsOf.refl s).change (·.eraseIdx i) 0x0B08 5 w.subject w.kind)
        · exact joins s (.refl s)
      · exact joins s (.refl s)

/-- A listed port or path leaves the list and the owner is told. -/
theorem wiltLeave_listed {kind subject : Nat} {w : Wilt} {s : State} (listed : w ∈ s.pol.wilts) (hk : w.kind = kind) (hs : w.subject = subject) :
    (wiltLeave kind subject s).pol =
      { s.pol with wilts := s.pol.wilts.filter (fun w => decide (w.kind ≠ kind) || decide (w.subject ≠ subject)) } ∧
      (wiltLeave kind subject s).cel.up = s.cel.up ++ [.event 7 0 5 [] subject kind] := by
  have any : s.pol.wilts.any (fun w => decide (w.kind = kind) && decide (w.subject = subject)) = true :=
    List.any_eq_true.mpr ⟨w, listed, by simp [hk, hs]⟩
  rw [wiltLeave, if_pos any]
  exact ⟨record_pol .., congrArg (fun c : Cel => c.up ++ [UpMsg.event 7 0 5 [] subject kind]) (record_cel ..)⟩
theorem wiltLeave_wilts (kind subject : Nat) (s : State) : WiltsOf s (wiltLeave kind subject s) := by
  unfold wiltLeave
  split
  · exact (WiltsOf.refl s).change (·.filter fun w => decide (w.kind ≠ kind) || decide (w.subject ≠ subject)) 0x0B08 5 subject kind
  · exact .refl s

/-! ## The verdict on a peer (R439, R440) -/

theorem memb_addOnce (x : Nat) (l : List Nat) : memb x (addOnce x l) = true := by
  unfold addOnce
  split
  · assumption
  · simp [memb]

/-- What the slots that lead to a module are read from: the committed sets, the bindings and the installed tables. -/
def slotView (s : State) : State := { half := s.half, grp := s.grp, vnl := s.vnl, pol := { tables := s.pol.tables } }
theorem peerSlots_slotView (s : State) (m : Nat) : peerSlots (slotView s) m = peerSlots s m := rfl

/-- `u` is `a` after module m has been judged, whose verdict stands at `key`; the wilt list may have changed. -/
structure Judged (m key : Nat) (a u : State) : Prop where
  record : peerRec u key = { peerRec a key with verdict := verdictOf a m key }
  pol : ∃ peers wilts, u.pol = { a.pol with peers := peers, wilts := wilts }
  frame : Only [.out, .hif, .cel, .pol, .book] a u

namespace Judged

variable {m key : Nat} {a u : State}

theorem seen (h : Judged m key a u) : u.pol.seen = a.pol.seen := by
  obtain ⟨peers, wilts, pol⟩ := h.pol
  rw [pol]
theorem silent (h : Judged m key a u) : u.pol.slotSilent = a.pol.slotSilent := by
  obtain ⟨peers, wilts, pol⟩ := h.pol
  rw [pol]
theorem slots (h : Judged m key a u) : peerSlots u m = peerSlots a m := by
  obtain ⟨peers, wilts, pol⟩ := h.pol
  have half : u.half = a.half := h.frame .half (by decide)
  have grp : u.grp = a.grp := h.frame .grp (by decide)
  have vnl : u.vnl = a.vnl := h.frame .vnl (by decide)
  rw [← peerSlots_slotView u, slotView, half, grp, vnl, pol]
  rfl
/-- The verdict is what the paths of the module give now. -/
theorem verdict (h : Judged m key a u) : (peerRec u key).verdict = verdictOf u m key := by
  have again : verdictOf u m key = verdictOf a m key := by
    unfold verdictOf
    dsimp only
    rw [h.record, h.slots, h.silent]
  rw [again, h.record]
theorem wilts {v : State} (h : Judged m key a u) (pol : WiltsOf u v)
    (frame : Only [.out, .hif, .cel, .pol, .book] u v) : Judged m key a v := by
  obtain ⟨w, listed⟩ := pol
  obtain ⟨peers, old, judged⟩ := h.pol
  refine ⟨?_, ⟨peers, w, by rw [listed, judged]⟩, h.frame.trans frame⟩
  rw [← h.record, peerRec, listed]
  rfl

end Judged

theorem verdictOf_heard {s : State} {m key : Nat} (heard : (peerRec s key).heard = true) : verdictOf s m key ≠ 0 := by
  unfold verdictOf
  dsimp only
  rw [heard]
  split_ifs <;> simp_all

/-- Module m's peer record with a new verdict, which is noted where it differs. -/
def Peer.found (v : Nat) (x : Peer) : Peer := { x with verdict := v }
theorem judgePeer_differs {m key : Nat} {s : State} (entry : peerKey s m = some key) (heard : (peerRec s key).heard = true)
    (differs : verdictOf s m key ≠ (peerRec s key).verdict) :
    judgePeer m s = verdictNote m (peerRec s key).verdict (verdictOf s m key) (modPeer key (Peer.found (verdictOf s m key)) s) := by
  unfold judgePeer
  rw [entry]
  exact if_neg (by rintro (same | none); exacts [differs same, verdictOf_heard heard none])
theorem judgePeer_same {m key : Nat} {s : State} (entry : peerKey s m = some key) (same : verdictOf s m key = (peerRec s key).verdict) :
    judgePeer m s = s := by
  unfold judgePeer
  rw [entry]
  exact if_pos (.inl same)

theorem judgePeer_judged {m key : Nat} {s : State} (entry : peerKey s m = some key) (heard : (peerRec s key).heard = true) :
    Judged m key s (judgePeer m s) := by
  by_cases same : verdictOf s m key = (peerRec s key).verdict
  · rw [judgePeer_same entry same]
    exact ⟨by rw [same], ⟨_, _, rfl⟩, Only.rfl' _ s⟩
  · have pol : (judgePeer m s).pol = (modPeer key (Peer.found (verdictOf s m key)) s).pol := by
      rw [judgePeer_differs entry heard same]
      exact verdictNote_only (fr := [.out, .hif, .cel, .book]) m _ _ (by decide) (by decide) (by decide) (by decide) (Only.rfl' _ _) .pol
        (by decide)
    refine ⟨?_, ⟨_, _, pol⟩, judgePeer_only m (by decide) (by decide) (by decide) (by decide) (by decide) (Only.rfl' _ s)⟩
    rw [peerRec, pol]
    exact (get_upd {} s.pol.peers key key _).trans (if_pos rfl)

/-! ## Service frames (R301, R438, R439, R449) -/

theorem sawFrame_seen (frame : List Byte) (s : State) :
    memb (fieldAt frame 8 8) (Map.get [] (sawFrame frame s).pol.seen (fieldAt frame 4 3)) = true := by
  have seen : Map.get [] (sawFrame frame s).pol.seen (fieldAt frame 4 3) =
      addOnce (fieldAt frame 8 8) (Map.get [] s.pol.seen (fieldAt frame 4 3)) :=
    (get_upd [] s.pol.seen (fieldAt frame 4 3) (fieldAt frame 4 3) _).trans (if_pos rfl)
  rw [seen]
  exact memb_addOnce ..

/-- A HEARTBEAT is heard at a time; the peer may say that it is wilting. -/
def Peer.beats (at_ : Time) (wilting : Bool) (x : Peer) : Peer :=
  { x with svcSilent := false, heard := true, hbAt := some at_, wilting := wilting }
theorem peerRec_modPeer (key : Nat) (f : Peer → Peer) (s : State) : peerRec (modPeer key f s) key = f (peerRec s key) :=
  (get_upd ({} : Peer) s.pol.peers key key f).trans (if_pos rfl)

theorem takeHeartbeat_judged {m e : Nat} {s : State} (entry : svcOf s m = some e) (body : List Byte) :
    Judged m e (modPeer e (Peer.beats (nowT s) (bitOf (fieldAt body 0 1) 1)) s) (takeHeartbeat m body s) := by
  have judged : Judged m e (modPeer e (Peer.beats (nowT s) (bitOf (fieldAt body 0 1) 1)) s)
      (judgePeer m (modPeer e (Peer.beats (nowT s) (bitOf (fieldAt body 0 1) 1)) s)) := by
    refine judgePeer_judged ?_ (by rw [peerRec_modPeer]; rfl)
    have same : svcOf (modPeer e (Peer.beats (nowT s) (bitOf (fieldAt body 0 1) 1)) s) m = some e := entry
    rw [peerKey, same]
  have eq : takeHeartbeat m body s =
      if bitOf (fieldAt body 0 1) 1 then wiltJoin 3 m (judgePeer m (modPeer e (Peer.beats (nowT s) (bitOf (fieldAt body 0 1) 1)) s))
      else wiltLeave 3 m (judgePeer m (modPeer e (Peer.beats (nowT s) (bitOf (fieldAt body 0 1) 1)) s)) := by
    unfold takeHeartbeat
    rw [entry]
    rfl
  rw [eq]
  split
  · exact judged.wilts (wiltJoin_wilts ..) (wiltJoin_only 3 m (by decide) (by decide) (by decide) (Only.rfl' _ _))
  · exact judged.wilts (wiltLeave_wilts ..) (wiltLeave_only 3 m (by decide) (by decide) (by decide) (Only.rfl' _ _))

theorem svcHeartbeat_completes {frame body : List Byte} {e m : Nat} {s : State} (frost : s.dbg.frost = 0) (length : body.length = 16)
    (hm : m = fieldAt frame 4 3) (entry : svcOf s m = some e) :
    Completes (.svcHeartbeat frame body) s (fun u =>
      (if frameOk s 1 frame body = true then
        memb (fieldAt frame 8 8) (Map.get [] u.pol.seen m) = true ∧ (peerRec u e).heard = true ∧ (peerRec u e).svcSilent = false ∧
        (peerRec u e).hbAt = some (nowT s) ∧ (peerRec u e).wilting = bitOf (fieldAt body 0 1) 1 ∧ (peerRec u e).verdict = verdictOf u m e
      else u = s) ∧ Only [.out, .hif, .cel, .pol, .book] s u) := by
  subst hm
  by_cases ok : frameOk s 1 frame body = true
  · have saw : Only [.out, .hif, .cel, .pol, .book] s (sawFrame frame s) := sawFrame_only frame (by decide) (Only.rfl' _ s)
    have judged := takeHeartbeat_judged (s := sawFrame frame s) entry body
    refine ⟨_, (clocked_running frost _).trans (congrArg Host.Outcome.next (if_pos ⟨ok, length⟩)), ?_,
      takeHeartbeat_only _ body (by decide) (by decide) (by decide) (by decide) (by decide) saw⟩
    rw [if_pos ok]
    refine ⟨?_, ?_, ?_, ?_, ?_, judged.verdict⟩
    · rw [judged.seen]
      exact sawFrame_seen frame s
    · rw [judged.record, peerRec_modPeer]
      rfl
    · rw [judged.record, peerRec_modPeer]
      rfl
    · rw [judged.record, peerRec_modPeer]
      rfl
    · rw [judged.record, peerRec_modPeer]
      rfl
  · refine ⟨s, (clocked_running frost _).trans (congrArg Host.Outcome.next (if_neg fun h => ok h.1)), ?_, Only.rfl' _ s⟩
    rw [if_neg ok]

theorem svcNotice_completes {frame body : List Byte} {s : State} (frost : s.dbg.frost = 0) :
    Completes (.svcNotice frame body) s (fun u =>
      (if frameOk s 2 frame body = true then
        u.pol.notices = s.pol.notices ++ [(fieldAt frame 4 3, body)] ∧ memb (fieldAt frame 8 8) (Map.get [] u.pol.seen (fieldAt frame 4 3)) = true
      else u = s) ∧ Only [.pol] s u) := by
  by_cases ok : frameOk s 2 frame body = true
  · refine ⟨_, (clocked_running frost _).trans (congrArg Host.Outcome.next (if_pos ok)), ?_,
      modPol_only _ (by decide) (sawFrame_only frame (by decide) (Only.rfl' _ s))⟩
    rw [if_pos ok]
    exact ⟨rfl, sawFrame_seen frame s⟩
  · refine ⟨s, (clocked_running frost _).trans (congrArg Host.Outcome.next (if_neg ok)), ?_, Only.rfl' _ s⟩
    rw [if_neg ok]

/-! ## Diverted control flits (R301) -/

/-- The counter of a diverted flit: the first from the expected one on with its low bits. -/
def divertCtr (x : Port) (env : List Byte) : Nat := x.rxCtr + flitOff x env
/-- Its tag verifies at a port. -/
def divertAuth (s : State) (p : Nat) (env plain : List Byte) : Bool :=
  flitAuth (rxKey s p (divertCtr (portRec s p) env / 2 ^ 32)) (portRec s p).peer (portRec s p).peerPort (divertCtr (portRec s p) env) env plain

/-- A whole envelope of a control flit without a heartbeat. -/
structure Control (env : List Byte) : Prop where
  length : env.length = 288
  crc : fieldAt env 284 4 = (crc32c (env.take 284)).toNat
  quiet : bitOf (fieldAt env 280 4) 16 = false
  typ : fieldAt env 0 1 % 16 = 2 ∨ (fieldAt env 0 1 % 16 = 1 ∧ bitsOf (fieldAt env 0 1) 5 4 = 0)

section
variable {b k p : Nat} {env plain : List Byte} {s : State}

theorem takeEnvelope_control (control : Control env) (ports : slotPorts s b k = [p]) (keys : (portRec s p).keys = true) :
    takeEnvelope b k env plain s = if divertAuth s p env plain then takeDiverted p b env plain s else s := by
  obtain ⟨length, crc, quiet, typ⟩ := control
  unfold takeEnvelope
  rw [if_neg (by simp [length, crc]), quiet, if_neg Bool.false_ne_true]
  refine (if_pos typ).trans ?_
  have found : (slotPorts s b k).find? (fun q => (portRec s q).keys && divertAuth s q env plain) =
      if divertAuth s p env plain then some p else none := by simp [ports, keys, List.find?_singleton]
  split
  · next q hq =>
    have same := found.symm.trans hq
    split at same
    · next auth =>
      rw [if_pos auth, Option.some.inj same]
    · cases same
  · next hq =>
    have same := found.symm.trans hq
    split at same
    · cases same
    · next auth => rw [if_neg auth]

/-- A whole message of one flit at the right place is delivered once. -/
theorem takeDiverted_whole (auth : divertAuth s p env plain = true) (ahead : flitOff (portRec s p) env < 2048)
    (fresh : memb (divertCtr (portRec s p) env) (portRec s p).diverted = false) (room : (portRec s p).diverted.length < 64)
    (som : bitOf (fieldAt env 1 1) 0 = true) (eom : bitOf (fieldAt env 1 1) 1 = true) (dest : fieldAt env 2 2 = bindCoord s b) :
    takeDiverted p b env plain s = deliver b plain (modPort p (fun x => { x with divPart := [] })
      (modPort p (fun x => { x with diverted := x.diverted ++ [divertCtr (portRec s p) env] }) s)) := by
  unfold takeDiverted
  refine (if_neg ?_).trans ((if_pos auth).trans ?_)
  · rw [not_or, not_or, not_le, not_le]
    exact ⟨ahead, by rw [divertCtr, flitOff] at fresh; simp [fresh], room⟩
  · rw [som, eom]
    exact if_pos dest

theorem takeDivert_one {m : Nat} {body : List Byte} (slot : (allSlots s).find? (fun x =>
      decide (bindParcel s x.1 = fieldAt body 0 2) && decide (nbrMod s x.1 x.2 = some m)) = some (b, k)) (one : fieldAt body 3 1 = 1) :
    takeDivert m body [plain] s = takeEnvelope b k ((body.drop 4).take 288) plain s := by
  unfold takeDivert
  rw [slot, one]
  rfl

end

/-- A DIVERT frame with one control flit that is a whole message for this module. -/
theorem svcDivert_completes {frame body env plain : List Byte} {b k p : Nat} {x : Port} {s : State} (frost : s.dbg.frost = 0)
    (hx : x = portRec s p)
    (slot : (allSlots s).find? (fun q =>
      decide (bindParcel s q.1 = fieldAt body 0 2) && decide (nbrMod s q.1 q.2 = some (fieldAt frame 4 3))) = some (b, k))
    (one : fieldAt body 3 1 = 1) (henv : env = (body.drop 4).take 288) (control : Control env) (ports : slotPorts s b k = [p])
    (keys : x.keys = true) (ahead : flitOff x env < 2048) (fresh : memb (divertCtr x env) x.diverted = false) (room : x.diverted.length < 64)
    (som : bitOf (fieldAt env 1 1) 0 = true) (eom : bitOf (fieldAt env 1 1) 1 = true) (dest : fieldAt env 2 2 = bindCoord s b) :
    Completes (.svcDivert frame body [plain]) s (fun u =>
      (if frameOk s 3 frame body = true ∧
          flitAuth (rxKey s p (divertCtr x env / 2 ^ 32)) x.peer x.peerPort (divertCtr x env) env plain = true then
        u.vnl.inbox = s.vnl.inbox ++ [(b, plain)] ∧ (portRec u p).diverted = x.diverted ++ [divertCtr x env] ∧ (portRec u p).rxCtr = x.rxCtr
      else u.vnl = s.vnl) ∧ Only [.vnl, .pol] s u) := by
  subst hx
  have saw : Only [.vnl, .pol] s (sawFrame frame s) := sawFrame_only frame (by decide) (Only.rfl' _ s)
  by_cases ok : frameOk s 3 frame body = true
  · have eq : takeDivert (fieldAt frame 4 3) body [plain] (sawFrame frame s) =
        if divertAuth s p env plain then takeDiverted p b env plain (sawFrame frame s) else sawFrame frame s := by
      rw [takeDivert_one (s := sawFrame frame s) slot one, ← henv]
      exact takeEnvelope_control (s := sawFrame frame s) control ports keys
    refine ⟨_, (clocked_running frost _).trans (congrArg Host.Outcome.next (if_pos ok)), ?_⟩
    dsimp only
    rw [eq]
    by_cases auth : divertAuth s p env plain = true
    · rw [if_pos auth, if_pos ⟨ok, auth⟩, takeDiverted_whole (s := sawFrame frame s) auth ahead fresh room som eom dest]
      refine ⟨⟨rfl, ?_, ?_⟩, modVnl_only _ (by decide) (modPort_only _ _ (by decide) (modPort_only _ _ (by decide) saw))⟩
      · rw [portRec_deliver, portRec_modPort, if_pos rfl, portRec_modPort, if_pos rfl]
        rfl
      · rw [portRec_deliver, portRec_modPort, if_pos rfl, portRec_modPort, if_pos rfl]
        rfl
    · rw [if_neg auth, if_neg fun h => auth h.2]
      exact ⟨rfl, saw⟩
  · refine ⟨s, (clocked_running frost _).trans (congrArg Host.Outcome.next (if_neg ok)), ?_, Only.rfl' _ s⟩
    rw [if_neg fun h => ok h.1]

/-! ## The port's own address (R438, R521) -/

theorem svcAnswer_own {s : State} (owner : s.cel.own ≠ 2) {target : Nat} (own : selfAddr s = target) (some : target ≠ 0) (proto src : Nat)
    (bytes : List Byte) : svcAnswer proto src target bytes s = emit (.svc proto src bytes) s := if_pos ⟨owner, own.symm, some⟩
theorem svcAnswer_other {s : State} {target : Nat} (other : selfAddr s ≠ target) (proto src : Nat) (bytes : List Byte) :
    svcAnswer proto src target bytes s = s := if_neg fun h => other h.2.1.symm

/-! ## Silence (R439) -/

theorem slotGone_judged {b k m key : Nat} {s : State} (nbr : nbrMod s b k = some m) (entry : peerKey s m = some key)
    (heard : (peerRec s key).heard = true) :
    Judged m key (modPol (fun p => { p with slotSilent := addOnce (b * 16 + k) p.slotSilent }) s) (slotGone b k s) := by
  have eq : slotGone b k s = judgePeer m (modPol (fun p => { p with slotSilent := addOnce (b * 16 + k) p.slotSilent }) s) := by
    unfold slotGone
    dsimp only
    rw [nbr]
  rw [eq]
  exact judgePeer_judged entry heard

/-- Settles O54: a heartbeat is `takeHeartbeat_judged`, a diverted flit `takeEnvelope_control` with `takeDiverted_whole`, a silence
`judgePeer_judged`; the other commands change one place. -/
theorem theServicePort : Obligations.TheServicePort := by
  refine ⟨?beat, fun frame body e m s frost length hm entry => svcHeartbeat_completes frost length hm entry,
    fun frame body s frost => svcNotice_completes frost, ?divert, ?arp, ?neighbor, ?echo, ?others, ?time, ?link, ?service, ?timer, ?margin⟩
  case beat =>
    exact fun s frost owner enabled => (clocked_running frost _).trans (congrArg Host.Outcome.next (if_pos ⟨owner, enabled⟩))
  case divert =>
    rintro frame body env plain b k p off ctr x s frost hx slot one henv length crc quiet typ ports keys rfl ahead rfl
      fresh room som eom dest
    exact svcDivert_completes frost hx slot one henv ⟨length, crc, quiet, typ⟩ ports keys ahead fresh room som eom dest
  case arp =>
    intro src target s frost owner small own
    have answers := svcAnswer_own owner own (by omega) 2 src (leB 6 Config.svcMac.toNat ++ leB 4 target)
    refine (clocked_running frost _).trans (congrArg Host.Outcome.next ?_)
    rw [Nat.mod_eq_of_lt small]
    exact answers
  case neighbor =>
    intro src target s frost owner pos small own
    have answers := svcAnswer_own owner own (by omega) 3 src (leB 6 Config.svcMac.toNat ++ leB 16 target)
    refine (clocked_running frost _).trans (congrArg Host.Outcome.next ?_)
    rw [Nat.mod_eq_of_lt small]
    exact answers
  case echo =>
    intro src target data s frost owner pos small own
    have answers := svcAnswer_own owner own (by omega) 4 src data
    refine (clocked_running frost _).trans (congrArg Host.Outcome.next ?_)
    rw [Nat.mod_eq_of_lt small]
    exact answers
  case others =>
    intro src target data s small other
    have silent : ∀ proto bytes, clocked s (.next (svcAnswer proto src (target % 2 ^ 128) bytes s)) = .next s := by
      intro proto bytes
      rw [Nat.mod_eq_of_lt small, svcAnswer_other other]
      exact ite_self _
    exact ⟨silent 3 _, silent 4 data⟩
  case time =>
    exact fun bytes s frost owner => (clocked_running frost _).trans (congrArg Host.Outcome.next (if_neg owner))
  case link =>
    intro b k m key s frost slot nbr entry heard
    have listed : memb k (((allSlots s).filter (fun x => decide (x.1 = b))).map Prod.snd) = true := by
      simpa [memb] using slot
    have judged := slotGone_judged nbr entry heard
    refine ⟨_, (clocked_running frost _).trans (congrArg Host.Outcome.next (if_pos listed)), ?_, judged.verdict,
      slotGone_only b k (by decide) (by decide) (by decide) (by decide) (by decide) (Only.rfl' _ s)⟩
    rw [judged.silent]
    exact memb_addOnce ..
  case service =>
    rintro e m s frost he names rfl entry heard
    have judged : Judged (fldW (svcWord s e) 19 0) e (modPeer e (fun x => { x with svcSilent := true }) s)
        (judgePeer (fldW (svcWord s e) 19 0) (modPeer e (fun x => { x with svcSilent := true }) s)) := by
      refine judgePeer_judged ?_ (by rw [peerRec_modPeer]; exact heard)
      rw [peerKey, show svcOf (modPeer e (fun x => { x with svcSilent := true }) s) (fldW (svcWord s e) 19 0) = some e from entry]
    refine ⟨_, (clocked_running frost _).trans (congrArg Host.Outcome.next (if_pos ⟨he, names⟩)), ?_, judged.verdict,
      judgePeer_only _ (by decide) (by decide) (by decide) (by decide) (by decide) (modPeer_only e _ (by decide) (Only.rfl' _ s))⟩
    rw [judged.record, peerRec_modPeer]
  case timer =>
    exact fun p s frost runs => (clocked_running frost _).trans (congrArg Host.Outcome.next (if_pos runs))
  case margin =>
    intro p w s frost listed hk hs
    obtain ⟨pol, up⟩ := wiltLeave_listed listed hk hs
    exact ⟨_, clocked_running frost _, congrArg Pol.wilts pol, up, wiltLeave_only 1 p (by decide) (by decide) (by decide) (Only.rfl' _ s)⟩

end Sys2Proof.Machine
end

section
/-!
Collectives as they run: what stays of a collective while it carries on, and how far it has come (R323 to R330 of 08).
-/
namespace Sys2Proof.Machine

/-! ## One collective changes -/

theorem collAt_tag {s : State} {tag : Nat} {x : Coll} (h : collAt s tag = some x) : x.tag = tag := by simpa using List.find?_some h
theorem collAt_modColl {tag : Nat} {f : Coll → Coll} (hf : ∀ x, (f x).tag = x.tag) {x : Coll} {s : State} (h : collAt s tag = some x) :
    collAt (modColl tag f s) tag = some (f x) := by
  have same : ((fun y : Coll => decide (y.tag = tag)) ∘ fun y => if y.tag = tag then f y else y) = fun y => decide (y.tag = tag) := by
    funext y
    by_cases hy : y.tag = tag <;> simp [hy, hf]
  rw [collAt, modColl, modCol_col, List.find?_map, same]
  simp [show s.col.colls.find? (fun y => decide (y.tag = tag)) = some x from h, collAt_tag h]

/-! ## A collective goes on -/

/-- A collective without what its stages change: results, flags, the pieces that have ended, and whether a result could be written. -/
def Coll.core (x : Coll) : Coll :=
  { x with results := [], flags := 0, rounded := 0, stage1 := [], stage2 := [], stage4 := [], bad := false }

/-- `y` is the collective `x` further on: only its stages have moved, and no result is lost. -/
structure Coll.Leads (x y : Coll) : Prop where
  core : y.core = x.core
  results : x.results <+: y.results

namespace Coll.Leads

theorem refl (x : Coll) : x.Leads x := ⟨rfl, List.prefix_rfl⟩
theorem trans {x y z : Coll} (h : x.Leads y) (k : y.Leads z) : x.Leads z := ⟨k.core.trans h.core, h.results.trans k.results⟩
section
variable {x y : Coll} (h : x.Leads y)
include h
theorem tag : y.tag = x.tag := (congrArg Coll.tag h.core :)
theorem bind : y.bind = x.bind := (congrArg Coll.bind h.core :)
theorem opcode : y.opcode = x.opcode := (congrArg Coll.opcode h.core :)
theorem id : y.id = x.id := (congrArg Coll.id h.core :)
theorem desc : y.desc = x.desc := (congrArg Coll.desc h.core :)
theorem step : y.step = x.step := (congrArg Coll.step h.core :)
theorem at_ : y.at_ = x.at_ := (congrArg Coll.at_ h.core :)
theorem digest : y.digest = x.digest := (congrArg Coll.digest h.core :)
theorem began : y.began = x.began := (congrArg Coll.began h.core :)
theorem own : y.own = x.own := (congrArg Coll.own h.core :)
theorem contribs : y.contribs = x.contribs := (congrArg Coll.contribs h.core :)
theorem partials : y.partials = x.partials := (congrArg Coll.partials h.core :)
theorem globals : y.globals = x.globals := (congrArg Coll.globals h.core :)
theorem enters : y.enters = x.enters := (congrArg Coll.enters h.core :)
theorem results_take : y.results.take x.results.length = x.results := (List.prefix_iff_eq_take.mp h.results).symm
end

end Coll.Leads

/-- The collective `x` is in progress, as it was or further on, and no message is parked. -/
structure GoesOn (x : Coll) (s : State) : Prop where
  stands : ∃ y, collAt s x.tag = some y ∧ x.Leads y
  empty : s.col.parked = []

namespace GoesOn
variable {x y : Coll} {s u : State}

theorem here (h : collAt s x.tag = some x) (empty : s.col.parked = []) : GoesOn x s := ⟨⟨x, h, .refl x⟩, empty⟩
theorem of_leads (h : GoesOn y s) (k : x.Leads y) : GoesOn x s := by
  obtain ⟨z, at_, leads⟩ := h.stands
  exact ⟨⟨z, k.tag ▸ at_, k.trans leads⟩, h.empty⟩
/-- Every collective that stands in a state where `x` goes on, under its tag, is `x` further on. -/
theorem at_leads (h : GoesOn x s) (at_ : collAt s x.tag = some y) : x.Leads y := by
  obtain ⟨z, hz, leads⟩ := h.stands
  obtain rfl : z = y := Option.some.inj (hz.symm.trans at_)
  exact leads
theorem of_col (h : GoesOn x s) (same : u.col = s.col) : GoesOn x u := by
  obtain ⟨y, at_, leads⟩ := h.stands
  exact ⟨⟨y, by rw [collAt, same]; exact at_, leads⟩, by rw [same]; exact h.empty⟩
theorem of_only {ps : List Part} (h : GoesOn x s) (frame : Only ps s u) (hcol : Part.col ∉ ps) : GoesOn x u := h.of_col (frame .col hcol)
/-- A stage moves on. -/
theorem modColl (h : GoesOn x s) {f : Coll → Coll} (hf : ∀ y, Coll.Leads y (f y)) : GoesOn x (modColl x.tag f s) := by
  obtain ⟨y, at_, leads⟩ := h.stands
  exact ⟨⟨f y, collAt_modColl (fun z => (hf z).tag) at_, leads.trans (hf y)⟩, h.empty⟩
/-- Counts of the reduction engines change. -/
theorem modCol (h : GoesOn x s) {f : Col → Col} (hc : (f s.col).colls = s.col.colls) (hp : (f s.col).parked = s.col.parked) :
    GoesOn x (modCol f s) := by
  obtain ⟨y, at_, leads⟩ := h.stands
  exact ⟨⟨y, by rw [collAt, modCol_col, hc]; exact at_, leads⟩, hp.trans h.empty⟩
theorem forS {α : Type} {l : List α} {f : α → State → State} (h : GoesOn x s) (hf : ∀ q t, GoesOn x t → GoesOn x (f q t)) :
    GoesOn x (forS l f s) := forS_holds (GoesOn x) (fun q _ => hf q) h
theorem if_ok {p : Prop} [Decidable p] {t : State} (hs : GoesOn x s) (ht : GoesOn x t) : GoesOn x (if p then s else t) := by
  split <;> assumption

theorem sendTo (h : GoesOn x s) (b cls dest : Nat) (bytes : List Byte) : GoesOn x (sendTo b cls dest bytes s) :=
  h.of_only (sendTo_only (fr := [.out, .vnl]) b cls dest bytes (by decide) (by decide) (Only.rfl' _ s)) (by decide)
theorem sendElems (h : GoesOn x s) (y : Coll) (msg kind dest first : Nat) (es : List (List Byte)) :
    GoesOn x (sendElems y msg kind dest first es s) :=
  h.of_only (sendElems_only (fr := [.out, .vnl]) y msg kind dest first es (by decide) (by decide) (Only.rfl' _ s)) (by decide)
theorem gatherOut (h : GoesOn x s) (y : Coll) (kind first total lo : Nat) (es : List (List Byte)) :
    GoesOn x (gatherOut y kind first total lo es s) :=
  h.of_only (gatherOut_only (fr := [.out, .vnl]) y kind first total lo es (by decide) (by decide) (Only.rfl' _ s)) (by decide)
theorem toShares (h : GoesOn x s) (y : Coll) (lo : Nat) (es : List (List Byte)) : GoesOn x (toShares y lo es s) :=
  h.of_only (toShares_only (fr := [.out, .vnl]) y lo es (by decide) (by decide) (Only.rfl' _ s)) (by decide)
theorem wakeUp (h : GoesOn x s) : GoesOn x (wakeUp s) := h.of_only (wakeUp_only (fr := [.pwr]) (by decide) (Only.rfl' _ s)) (by decide)

/-! ### Results (R329, R465) -/

theorem hWrite (h : GoesOn x s) (who t : Nat) (step : Option Nat) (g off : Nat) (bs : List Byte) : GoesOn x (hWrite who t step g off bs s) :=
  h.of_only (hWrite_only (fr := [.mem, .pln, .rck, .pwr]) who t step g off bs (by decide) (by decide) (by decide) (by decide)
    (Only.rfl' _ s)) (by decide)
theorem poisonFault (h : GoesOn x s) (g p : Nat) : GoesOn x (poisonFault s g p) :=
  h.of_only (poisonFault_only (fr := [.out, .mem, .hif, .pln, .cor, .stp, .cel, .err, .pwr, .dbg, .book]) g p (by decide) (by decide)
    (by decide) (by decide) (by decide) (by decide) (by decide) (by decide) (by decide) (by decide) (by decide) (Only.rfl' _ s)) (by decide)
theorem writeResults (h : GoesOn x s) (hy : y.tag = x.tag) (first : Nat) (es : List (List Byte)) : GoesOn x (writeResults y first es s) := by
  unfold Machine.writeResults
  dsimp only
  refine if_ok h ?_
  split
  · rw [hy]
    exact poisonFault (modColl h (f := fun z => { z with bad := true }) fun _ => ⟨rfl, List.prefix_rfl⟩) _ _
  · exact h.hWrite _ _ _ _ _ _

end GoesOn

/-- A collective with further results. -/
def Coll.withResults (first : Nat) (es : List (List Byte)) (x : Coll) : Coll := { x with results := x.results ++ [(first, es)] }
theorem Coll.leads_withResults (first : Nat) (es : List (List Byte)) (x : Coll) : x.Leads (x.withResults first es) :=
  ⟨rfl, List.prefix_append ..⟩

theorem addResults_keeps {x : Coll} {s : State} (at_ : collAt s x.tag = some x) (empty : s.col.parked = []) (first : Nat)
    (es : List (List Byte)) : GoesOn (x.withResults first es) (addResults x.tag first es s) := by
  have kept : GoesOn (x.withResults first es) (modColl x.tag (Coll.withResults first es) s) :=
    .here (collAt_modColl (f := Coll.withResults first es) (fun _ => rfl) at_) empty
  rw [addResults, at_]
  exact kept.writeResults rfl first es

namespace GoesOn
variable {x : Coll} {s : State}

theorem addResults (h : GoesOn x s) (first : Nat) (es : List (List Byte)) : GoesOn x (addResults x.tag first es s) := by
  obtain ⟨y, at_, leads⟩ := h.stands
  rw [← leads.tag] at at_ ⊢
  exact (addResults_keeps at_ h.empty first es).of_leads (leads.trans (y.leads_withResults first es))
theorem roundRange (h : GoesOn x s) (lo : Nat) (accs : List (List Byte × AFlags)) : GoesOn x (roundRange x.tag lo accs s).1 := by
  unfold Machine.roundRange
  split
  · exact h
  · dsimp only
    refine (forS ?_ fun _ _ ht => ?_).addResults _ _
    · exact h.modColl fun _ => ⟨rfl, List.prefix_rfl⟩
    · exact ht.modCol rfl rfl

/-! ### The stages of a reduction (R326, R330) -/

theorem endStage1 (h : GoesOn x s) (q lo hi : Nat) : GoesOn x (endStage1 x.tag q lo hi s) := by
  have ended := h.modColl (f := fun y => { y with stage1 := y.stage1 ++ [lo] }) fun _ => ⟨rfl, List.prefix_rfl⟩
  unfold Machine.endStage1
  split
  next => exact h
  next y _ =>
    have rounded := (ended.roundRange lo (sumRange s y lo hi)).modColl
      (f := fun y => { y with stage2 := y.stage2 ++ [lo] }) fun _ => ⟨rfl, List.prefix_rfl⟩
    exact if_ok (if_ok (rounded.toShares _ _ _) rounded) (ended.forS fun _ _ ht => if_ok ht (ht.sendElems _ _ _ _ _ _))
theorem endStage2 (h : GoesOn x s) (q lo hi : Nat) : GoesOn x (endStage2 x.tag q lo hi s) := by
  have ended := h.modColl (f := fun y => { y with stage2 := y.stage2 ++ [lo] }) fun _ => ⟨rfl, List.prefix_rfl⟩
  unfold Machine.endStage2
  split
  next => exact h
  next =>
    dsimp only
    split
    · exact toShares (forS (ended.roundRange _ _) fun _ _ ht => ht.sendElems _ _ _ _ _ _) _ _ _
    · exact forS (ended.roundRange _ _) fun _ _ ht => ht.sendElems _ _ _ _ _ _
theorem endStage3 (h : GoesOn x s) (q lo hi : Nat) : GoesOn x (endStage3 x.tag q lo hi s) := by
  unfold Machine.endStage3
  split
  · exact h
  · exact gatherOut (modColl h (f := fun z => { z with stage4 := z.stage4 ++ [lo] }) fun _ => ⟨rfl, List.prefix_rfl⟩) _ _ _ _ _ _
/-- One stage of a piece, where the collective is ready for it. -/
theorem stage (h : GoesOn x s) (want : Coll → Bool) {f : State → State} (hf : ∀ t, GoesOn x t → GoesOn x (f t)) :
    GoesOn x (match collAt s x.tag with
      | some y => if want y then f s else s
      | none => s) := by
  split
  · exact if_ok (hf s h) h
  · exact h
theorem runPiece (h : GoesOn x s) (p : Nat × Nat × Nat) : GoesOn x (runPiece x.tag p s) :=
  ((h.stage _ fun _ ht => ht.endStage1 _ _ _).stage _ fun _ ht => ht.endStage2 _ _ _).stage _ fun _ ht => ht.endStage3 _ _ _
theorem collRun (h : GoesOn x s) : GoesOn x (collRun x.tag s) := by
  unfold Machine.collRun
  split
  · exact h
  · exact if_ok h (h.forS fun p _ ht => ht.runPiece p)
theorem countIn (h : GoesOn x s) (y : Coll) (first : Nat) (sizes : List Nat) : GoesOn x (countIn y first sizes s) :=
  h.forS fun _ _ ht => ht.modCol rfl rfl

end GoesOn

end Sys2Proof.Machine
end

section
/-!
How collectives end: with their results, at their limit, and the barriers, whose root ends them once every member has entered (R320,
R329, R331 of 08).
-/
namespace Sys2Proof.Machine

/-! ## The end of a collective (R329) -/

/-- The parts of the state that the end of a collective may touch. -/
def collEndParts : List Part := [.hif, .out, .mem, .pln, .rck, .col]

/-- The reduction engines without the collective of a tag. -/
def Col.without (tag : Nat) (c : Col) : Col := { c with colls := c.colls.filter (fun x => decide (x.tag ≠ tag)) }
/-- What a collective leaves that has ended: its descriptor has, and it is in progress no more. -/
structure CollEnded (tag status detail result : Nat) (st : Option Nat) (s u : State) : Prop where
  ended : Ended u tag st status detail result
  col : u.col = s.col.without tag
  frame : Only collEndParts s u

theorem without_modColl {tag : Nat} {f : Coll → Coll} (hf : ∀ x, (f x).tag = x.tag) (s : State) :
    (modColl tag f s).col.without tag = s.col.without tag := by
  refine congrArg (fun l => { s.col with colls := l }) ?_
  rw [modColl, modCol_col]
  induction s.col.colls with
  | nil => rfl
  | cons x r ih => by_cases hx : x.tag = tag <;> simp_all

section
variable {tag status detail result : Nat} {st : Option Nat} {s t u : State}

theorem MayEnd.collEnd {l : Live} (h : MayEnd s tag l) (status detail result : Nat) :
    CollEnded tag status detail result l.step s (collEnd tag status detail result s) := by
  obtain ⟨ended, frame⟩ := (h.of_only (modCol_only (ps := [.col]) (Col.without tag) (by decide) (Only.rfl' _ s))
    (by decide) (by decide)).endsWith (Only.rfl' flowParts _) status detail result
  exact ⟨ended, frame .col (by decide), (modCol_only _ (by decide) (Only.rfl' _ s)).trans (frame.mono (by decide))⟩
theorem CollEnded.gone (h : CollEnded tag status detail result st s u) : collAt u tag = none := by
  rw [collAt, h.col, List.find?_eq_none]
  intro x hx
  simpa using (List.mem_filter.mp hx).2
theorem CollEnded.since (h : CollEnded tag status detail result st t u) (col : t.col.without tag = s.col.without tag)
    (frame : Only collEndParts s t) : CollEnded tag status detail result st s u := ⟨h.ended, h.col.trans col, frame.trans h.frame⟩
theorem CollEnded.parked (h : CollEnded tag status detail result st s u) : u.col.parked = s.col.parked := by rw [h.col]; rfl

/-! ## The link fault (R317, R320, R456) -/

/-- A fault of a link completes no descriptor. -/
theorem Ended.linkFault (h : Ended s tag st status detail result) (t : Nat) : Ended (linkFault t s) tag st status detail result := by
  have live : liveRec (Machine.linkFault t s) tag = liveRec s tag :=
    congrArg (fun x : Hif => Map.find x.live tag) (faultReport_contained_hif s 0x0D 0x13 [t])
  unfold Ended at h ⊢
  rw [live]
  exact h
theorem linkFault_col (t : Nat) (s : State) : (linkFault t s).col = s.col := faultOne_frame 0x0D t s .col (by decide)
theorem collAt_linkFault (t : Nat) (s : State) (tag : Nat) : collAt (linkFault t s) tag = collAt s tag := by
  rw [collAt, linkFault_col, collAt]
theorem CollEnded.fault_up (h : CollEnded tag status detail result st s u) (t : Nat) :
    (linkFault t u).cel.up = s.cel.up ++ [.fault 0x0D 2 0x13 0xFF [t] false] := by
  have same : u.cel = s.cel := h.frame .cel (by decide)
  exact (faultOne_up 0x0D t u).trans (by rw [same])

end

/-! ## COLLECTIVE_DONE and COLL_TIMEOUT (R320, R329) -/

section
variable {tag : Nat} {x : Coll} {s : State} (at_ : collAt s tag = some x) (clock : nclkOn s = true)
include at_ clock

theorem exec_collectiveDone (began : x.began = true) (good : x.bad = false) (has : collHas s x = true) (written : writesWait s tag = false) :
    exec (.collectiveDone tag) s = .next (collEnd tag 0 0 (x.flags % 256 + x.rounded % 2 ^ 32 * 2 ^ 32) s) := by
  show Host.Outcome.next (collDone tag s) = _
  simp only [collDone, at_]
  rw [if_pos ⟨began, by simp [good], has, by simp [written], clock⟩]
  rfl
theorem exec_collTimeout (late : x.began = false ∨ x.bad = true ∨ collHas s x = false ∨ writesWait s tag = true) :
    exec (.collTimeout tag) s = .next (linkFault (bindTen s x.bind) (collEnd tag 0x0404 0 0 s)) := by
  have notReady : ¬(x.began = true ∧ ¬x.bad = true ∧ collHas s x = true ∧ ¬writesWait s tag = true) := by
    rintro ⟨began, good, has, written⟩
    simp [began, good, has, written] at late
  show execCollTimeout tag s = _
  simp only [execCollTimeout, at_]
  rw [if_neg (by simp [clock]), if_neg notReady]

end

/-! ## Barriers (R331) -/

/-- The root of a barrier of a binding releases the other members. -/
def released (b : Nat) (x : Coll) (s : State) : State :=
  forS (cMembers s b) (fun z t => if z = bindCoord t b then t else sendTo b 0 z (collHead t x 6 0 0 0) t) s
theorem released_frame (b : Nat) (x : Coll) (s : State) : Only [.out, .vnl] s (released b x s) :=
  forS_only _ _ (fun z _ ht => ite_only ht (sendTo_only b 0 z _ (by decide) (by decide) ht)) (Only.rfl' _ s)
theorem released_alone {b : Nat} {s : State} (alone : cMembers s b = [bindCoord s b]) (x : Coll) : released b x s = s := by
  rw [released, alone]
  exact if_pos rfl

section
variable {tag b : Nat} {x : Coll} {s : State} (at_ : collAt s tag = some x) (bind : x.bind = b)
include at_ bind

theorem barrierRun_ends (root : (cMembers s b).head? = some (bindCoord s b)) (entered : ∀ z ∈ cMembers s b, z ∈ x.enters) :
    barrierRun tag s = collEnd tag 0 0 0 (released b x s) := by
  subst bind
  have all : (cMembers s x.bind).all (fun z => memb z x.enters) = true := by simpa [memb] using entered
  simp only [barrierRun, at_, if_pos (And.intro root all)]
  rfl
theorem barrierRun_waits (missing : (cMembers s b).all (fun z => memb z x.enters) = false) : barrierRun tag s = s := by
  subst bind
  simp [barrierRun, at_, missing]

end

/-- Settles O38: both ends are `collEnd`, what it leaves is `MayEnd.collEnd`, and the fault path is that of one tenant. -/
theorem collectives : Obligations.Collectives := by
  refine ⟨fun tag x l s at_ began good has written clock live link resumed seals => ?_,
    fun tag x l s at_ late clock live link resumed seals => ?_⟩
  · have ends := MayEnd.collEnd ⟨live, link, resumed, seals⟩ 0 0 (x.flags % 256 + x.rounded % 2 ^ 32 * 2 ^ 32)
    exact ⟨_, exec_collectiveDone at_ clock began good has written, ends.ended, ends.gone, ends.frame⟩
  · have ends := MayEnd.collEnd ⟨live, link, resumed, seals⟩ 0x0404 0 0
    exact ⟨_, exec_collTimeout at_ clock late, ends.ended.linkFault _, (collAt_linkFault ..).trans ends.gone, ends.fault_up _,
      faultOne_unclean 0x0D _ _⟩

end Sys2Proof.Machine
end

section
/-!
The start of a collective: its checks, its source, its first messages (R312 to R318, R326, R330, R331 of 08).
-/
namespace Sys2Proof.Machine

/-! ## A collective begins -/

/-- The collective a descriptor becomes that starts attached to `st` (R318). -/
def newColl (s : State) (tag op b : Nat) (l : Live) (st : Option Nat) : Coll :=
  { tag := tag, bind := b, opcode := op, id := cId l.desc, desc := l.desc, cls := ringClass s l.ring, step := st, at_ := nowT s,
    digest := cDigest op l.desc }
/-- A collective that has read its source. -/
def Coll.reads (source : List Byte) (x : Coll) : Coll := { x with began := true, own := source }
/-- The state in which a descriptor has become a collective and runs. -/
def withColl (tag op b : Nat) (l : Live) (st : Option Nat) (s : State) : State :=
  modCol (fun c => { c with colls := c.colls ++ [newColl s tag op b l st] }) (modLive tag (Live.started st) s)
/-- The collective once it has read `n` bytes of its source. -/
def begunColl (s : State) (tag op b n : Nat) (l : Live) (st : Option Nat) : Coll :=
  { newColl s tag op b l st with began := true, own := hRead s (cSrc l.desc) (cSrcOff l.desc) n }
/-- The state in which it has. -/
def collBegun (tag op b n : Nat) (l : Live) (st : Option Nat) (s : State) : State :=
  modColl tag (Coll.reads (hRead s (cSrc l.desc) (cSrcOff l.desc) n)) (withColl tag op b l st s)
/-- Bytes a collective reads of its source: none for a barrier, nor for a broadcast of another member (R331). -/
def sourceBytes (s : State) (x : Coll) : Nat :=
  if x.opcode = 0x44 ∨ (x.opcode = 0x43 ∧ cRoot x.desc ≠ bindCoord s x.bind) then 0 else cCount x.desc * kindBytes (cIn x.desc)

section
variable (tag : Nat) (f : Live → Live) (s : State)

@[simp] theorem modLive_vnl : (modLive tag f s).vnl = s.vnl := modLive_frame tag f s .vnl (by decide)
@[simp] theorem modLive_col : (modLive tag f s).col = s.col := modLive_frame tag f s .col (by decide)
@[simp] theorem modLive_err : (modLive tag f s).err = s.err := modLive_frame tag f s .err (by decide)
@[simp] theorem modLive_tim : (modLive tag f s).tim = s.tim := modLive_frame tag f s .tim (by decide)
@[simp] theorem bindOf_modLive (t : Nat) : bindOf (modLive tag f s) t = bindOf s t := by simp [bindOf]
@[simp] theorem bindCoord_modLive (b : Nat) : bindCoord (modLive tag f s) b = bindCoord s b := by simp [bindCoord]
@[simp] theorem bindRec_modLive (b : Nat) : bindRec (modLive tag f s) b = bindRec s b := by simp [bindRec]
@[simp] theorem collFault_modLive (t op : Nat) (d : List Byte) : collFault (modLive tag f s) t op d = collFault s t op d := by
  simp [collFault, outElems, cMembers, rankOf]
@[simp] theorem stkRec_modLive (k : Nat) : stkRec (modLive tag f s) k = stkRec s k := by simp [stkRec]
@[simp] theorem t0Held_modLive (x : Page) : t0Held (modLive tag f s) x = t0Held s x := by
  rw [t0Held, t0Held, modLive_err, asleep_modLive, stkRec_modLive]
theorem modLive_modCol (g : Col → Col) : modLive tag f (modCol g s) = modCol g (modLive tag f s) := by
  unfold modLive
  split
  · next h => rw [show liveRec s tag = _ from h]; rfl
  · next h => rw [show liveRec s tag = _ from h]
@[simp] theorem rangeHeld_modLive (h off n : Nat) : rangeHeld (modLive tag f s) h off n = rangeHeld s h off n := by simp [rangeHeld]
@[simp] theorem poisonedIn_modLive (h off n : Nat) : poisonedIn (modLive tag f s) h off n = poisonedIn s h off n := by simp [poisonedIn]

end

section
variable {tag op : Nat} {l : Live} {st : Option Nat} {s : State} (h : Starts s tag op l st)
include h

/-- A collective that starts has not waited for its source, so its checks come first (R316). -/
theorem Starts.collStart_stops (room : collFull s (liveTen l) = false) {f : Nat × Nat} (hf : collFault s (liveTen l) op l.desc = some f) :
    collStart tag op s = done tag f.1 f.2 0 (modLive tag (Live.started st) s) := by
  have fresh := h.stage_ne (g := .promo) (by decide) (by decide)
  simp only [collStart, h.live, fresh, false_and, if_false, room]
  rw [if_neg (by decide), startDesc_go h, collFault_modLive, hf]
  rfl
theorem Starts.collStart_passes (room : collFull s (liveTen l) = false) (hf : collFault s (liveTen l) op l.desc = none) :
    collStart tag op s = collNew tag op (modLive tag (Live.started st) s) := by
  have fresh := h.stage_ne (g := .promo) (by decide) (by decide)
  simp only [collStart, h.live, fresh, false_and, if_false, room]
  rw [if_neg (by decide), startDesc_go h, collFault_modLive, hf]
  rfl
theorem Starts.collNew_eq {b : Nat} (bound : bindOf s (liveTen l) = some b) :
    collNew tag op (modLive tag (Live.started st) s) = collGo tag (withColl tag op b l st s) := by
  have bound' : bindOf (modLive tag (Live.started st) s) (liveTen (l.started st)) = some b := (bindOf_modLive ..).trans bound
  simp only [collNew, h.mayEnd.live, bound']
  simp [withColl, newColl, Live.started, ringClass, nowT]

end

theorem exec_collStart {c : Instr} {tag op : Nat} (s : State) (hc : (c, op) ∈
    [(Instr.allreduce tag, 0x40), (.reduceScatter tag, 0x41), (.allgather tag, 0x42), (.broadcast tag, 0x43), (.barrier tag, 0x44)]) :
    exec c s = .next (collStart tag op s) := by
  simp only [List.mem_cons, List.not_mem_nil, or_false, Prod.mk.injEq] at hc
  obtain ⟨rfl, rfl⟩ | ⟨rfl, rfl⟩ | ⟨rfl, rfl⟩ | ⟨rfl, rfl⟩ | ⟨rfl, rfl⟩ := hc <;> rfl

/-! ## The source (R123, R458, R465) -/

/-- Where a round of the parked messages changes nothing, they stay. -/
theorem unpark_once {s : State} (once : unparkOnce s = s) : unpark s = s := by
  have rounds : ∀ l : List Nat, forS l (fun _ => unparkOnce) s = s := fun l => by
    induction l with
    | nil => rfl
    | cons _ r ih => exact (congrArg (forS r _) once).trans ih
  exact rounds _
theorem unpark_empty {s : State} (h : s.col.parked = []) : unpark s = s := by
  refine unpark_once ?_
  rw [unparkOnce, h]
  change { s with col := { s.col with parked := [] } } = s
  rw [← h]

/-- Bytes of a handle that can be read now: none lies in T2, in a T0 that is held, or is poisoned. -/
structure Readable (s : State) (g off n : Nat) : Prop where
  present : touchesT2 s g off n = false
  free : rangeHeld s g off n = false
  clean : poisonedIn s g off n = []

theorem readable_none (s : State) (g off : Nat) : Readable s g off 0 := by
  constructor <;> simp [touchesT2, rangeHeld, poisonedIn, pagesTouched]

section
variable {tag op b n : Nat} {l : Live} {st : Option Nat} {s : State}

theorem collAt_withColl (new : collAt s tag = none) : collAt (withColl tag op b l st s) tag = some (newColl s tag op b l st) := by
  have others : s.col.colls.find? (fun x => decide (x.tag = tag)) = none := new
  simp [collAt, withColl, List.find?_append, others, newColl]
theorem collAt_begun (new : collAt s tag = none) : collAt (collBegun tag op b n l st s) tag = some (begunColl s tag op b n l st) :=
  collAt_modColl (f := Coll.reads _) (fun _ => rfl) (collAt_withColl new)
/-- The descriptor of a collective runs from its start. -/
theorem Starts.withColl_runs (h : Starts s tag op l st) :
    modLive tag (fun x => { x with stage := .running }) (withColl tag op b l st s) = withColl tag op b l st s := by
  rw [withColl, modLive_modCol, modLive_modLive h.live, modLive_of_live h.live, modLive_of_live h.live]
  rfl

end

/-- A collective in progress whose source is readable begins. -/
theorem collGo_begins {x : Coll} {tag : Nat} {s : State} (at_ : collAt s tag = some x)
    (source : Readable s (cSrc x.desc) (cSrcOff x.desc) (sourceBytes s x)) :
    collGo tag s = unpark (collFirst tag (modColl tag (Coll.reads (hRead s (cSrc x.desc) (cSrcOff x.desc) (sourceBytes s x)))
      (modLive tag (fun l => { l with stage := .running }) s))) := by
  simp only [sourceBytes] at source ⊢
  simp only [collGo, at_, source.present, source.free, source.clean]
  rfl

section
variable {tag op b n : Nat} {l : Live} {st : Option Nat} {s : State}

theorem sourceBytes_withColl (x : Coll) : sourceBytes (withColl tag op b l st s) x = sourceBytes s x := by
  have coord : bindCoord (withColl tag op b l st s) x.bind = bindCoord s x.bind := bindCoord_modLive tag _ s x.bind
  rw [sourceBytes, coord, sourceBytes]
theorem Readable.withColl {g off : Nat} (h : Readable s g off n) : Readable (withColl tag op b l st s) g off n where
  present := (touchesT2_modLive tag (Live.started st) s _ _ _).trans h.present
  free := (rangeHeld_modLive tag (Live.started st) s _ _ _).trans h.free
  clean := (poisonedIn_modLive tag (Live.started st) s _ _ _).trans h.clean
theorem hRead_withColl (g off : Nat) : hRead (withColl tag op b l st s) g off n = hRead s g off n :=
  congrArg (fun m => memRead m (hKey g off) n) (modLive_mem tag (Live.started st) s)

/-- A collective that starts with its source readable begins at once. -/
theorem Starts.collStart_begins (h : Starts s tag op l st) (room : collFull s (liveTen l) = false)
    (passes : collFault s (liveTen l) op l.desc = none) (bound : bindOf s (liveTen l) = some b) (new : collAt s tag = none)
    (bytes : sourceBytes s (newColl s tag op b l st) = n) (source : Readable s (cSrc l.desc) (cSrcOff l.desc) n) :
    collStart tag op s = unpark (collFirst tag (collBegun tag op b n l st s)) := by
  have begins := collGo_begins (collAt_withColl (op := op) (b := b) (l := l) (st := st) new)
  rw [sourceBytes_withColl, bytes, hRead_withColl, h.withColl_runs] at begins
  rw [h.collStart_passes room passes, h.collNew_eq bound]
  exact begins source.withColl

end

/-! ## First messages (R326, R330, R331) -/

theorem GoesOn.collFirst {x : Coll} {s : State} (h : GoesOn x s) (reduces : x.opcode ≠ 0x44) : GoesOn x (collFirst x.tag s) := by
  unfold Machine.collFirst
  split
  next => exact h
  next y hy =>
    have same := (h.at_leads hy).opcode
    dsimp only
    rw [if_neg (same ▸ reduces)]
    refine if_ok ?_ (if_ok h ?_)
    · exact collRun (forS h fun q t ht => if_ok ht (ht.sendElems _ _ _ _ _ _))
    · exact addResults (forS (h.gatherOut _ _ _ _ _ _) fun q t ht => ht.sendElems _ _ _ _ _ _) _ _

/-- A barrier that members have entered. -/
def Coll.entered (zs : List Nat) (x : Coll) : Coll := { x with enters := zs }

section
variable {tag b : Nat} {x : Coll} {s : State} (at_ : collAt s tag = some x) (bind : x.bind = b) (barrier : x.opcode = 0x44)
include at_ bind barrier

/-- A member of a barrier that is not its root enters by a message to the root. -/
theorem collFirst_enters {z : Nat} (root : (cMembers s b).head? = some z) (other : z ≠ bindCoord s b) :
    collFirst tag s = sendTo b 0 z (collHead s x 5 0 0 0) s := by
  subst bind
  simp only [collFirst, at_, barrier, root, if_pos, if_neg other]
theorem collFirst_enters_frame {z : Nat} (root : (cMembers s b).head? = some z) (other : z ≠ bindCoord s b) :
    Only [.out, .vnl] s (collFirst tag s) := by
  rw [collFirst_enters at_ bind barrier root other]
  exact sendTo_only b 0 z _ (by decide) (by decide) (Only.rfl' _ s)
/-- The root of a barrier enters by itself. -/
theorem collFirst_root (root : (cMembers s b).head? = some (bindCoord s b)) :
    collFirst tag s = barrierRun tag (modColl tag (Coll.entered [bindCoord s b]) s) := by
  subst bind
  simp only [collFirst, at_, barrier, root, if_pos]
  rfl

end

/-! ## What a collective that has begun leaves of the state -/

section
variable (tag op b n : Nat) (l : Live) (st : Option Nat) (s : State)

theorem collBegun_frame : Only [.hif, .col] s (collBegun tag op b n l st s) :=
  modColl_only tag _ (by decide) (modCol_only _ (by decide) ((modLive_frame tag _ s).mono (by decide)))
theorem collBegun_parked : (collBegun tag op b n l st s).col.parked = s.col.parked :=
  (congrArg Col.parked (modLive_col tag (Live.started st) s) :)
theorem without_collBegun : (collBegun tag op b n l st s).col.without tag = s.col.without tag := by
  rw [collBegun, without_modColl (f := Coll.reads _) fun _ => rfl]
  simp [withColl, newColl, Col.without]
theorem cMembers_begun (k : Nat) : cMembers (collBegun tag op b n l st s) k = cMembers s k :=
  congrArg (fun x : Bind => presentOf x.members) (bindRec_modLive tag (Live.started st) s k)
theorem bindCoord_begun (k : Nat) : bindCoord (collBegun tag op b n l st s) k = bindCoord s k :=
  bindCoord_modLive tag (Live.started st) s k

end

theorem Starts.mayEnd_begun {tag op : Nat} {l : Live} {st : Option Nat} {s : State} (h : Starts s tag op l st) (b n : Nat) :
    MayEnd (collBegun tag op b n l st s) tag (l.started st) :=
  h.mayEnd.of_only (ps := [.col]) (modColl_only tag _ (by decide) (modCol_only _ (by decide) (Only.rfl' _ _))) (by decide) (by decide)
theorem collBegun_goesOn {tag : Nat} {s : State} (new : collAt s tag = none) (empty : s.col.parked = []) (op b n : Nat) (l : Live)
    (st : Option Nat) : GoesOn (begunColl s tag op b n l st) (collBegun tag op b n l st s) :=
  .here (collAt_begun new) ((collBegun_parked ..).trans empty)

/-- The only member of a barrier ends it by its own entering (R331). -/
theorem collFirst_alone {tag b : Nat} {x : Coll} {l : Live} {s : State} (at_ : collAt s tag = some x) (bind : x.bind = b)
    (barrier : x.opcode = 0x44) (alone : cMembers s b = [bindCoord s b]) (h : MayEnd s tag l) :
    CollEnded tag 0 0 0 l.step s (collFirst tag s) := by
  have root := congrArg List.head? alone
  have entered : collAt (modColl tag (Coll.entered [bindCoord s b]) s) tag = some (x.entered [bindCoord s b]) :=
    collAt_modColl (f := Coll.entered _) (fun _ => rfl) at_
  have frame : Only [.col] s (modColl tag (Coll.entered [bindCoord s b]) s) := modColl_only tag _ (by decide) (Only.rfl' _ s)
  have nobody : released b (x.entered [bindCoord s b]) (modColl tag (Coll.entered [bindCoord s b]) s) =
      modColl tag (Coll.entered [bindCoord s b]) s :=
    released_alone (s := modColl tag (Coll.entered [bindCoord s b]) s) alone _
  rw [collFirst_root at_ bind barrier root, barrierRun_ends entered bind root (fun z hz => alone ▸ hz), nobody]
  exact ((h.of_only frame (by decide) (by decide)).collEnd 0 0 0).since (without_modColl (f := Coll.entered _) (fun _ => rfl) s)
    (frame.mono (by decide))

/-- Settles O36: a check ends a descriptor as `done`; where none does, the descriptor becomes the collective of `collStart_begins`, whose
first messages keep it (`GoesOn.collFirst`) but at the only member of a barrier. -/
theorem collectivesStart : Obligations.CollectivesStart := by
  refine ⟨fun c op tag f l st s hc h room hf => ?stops,
    fun c op tag b n l st s hc h room passes bound hn present free clean new empty => ?begins,
    fun tag b l st s h room passes bound alone new empty => ?alone,
    fun tag b z l st s h room passes bound root other new empty => ?enters⟩
  case stops =>
    exact ⟨_, (exec_collStart s hc).trans (congrArg _ (h.collStart_stops room hf)),
      h.mayEnd.endsWith (modLive_flow tag _ s) _ _ _⟩
  case begins =>
    have reduces : op ≠ 0x44 := by
      rintro rfl
      simp at hc
    have coord : tenCoord s (liveTen l) = bindCoord s b := by simp [tenCoord, bound]
    have bytes : sourceBytes s (newColl s tag op b l st) = n := by
      simp [sourceBytes, newColl, reduces, hn, coord]
    have goes := (collBegun_goesOn new empty op b n l st).collFirst reduces
    obtain ⟨y, at_, leads⟩ := goes.stands
    refine ⟨_, (exec_collStart s (List.mem_append_left [(.barrier tag, 0x44)] hc)).trans
      (congrArg _ ((h.collStart_begins room passes bound new bytes ⟨present, free, clean⟩).trans (unpark_empty goes.empty))),
      ⟨y, at_, leads.bind, leads.opcode, leads.id, leads.desc, leads.step, leads.at_, leads.digest, leads.began, leads.own,
        leads.contribs, leads.partials⟩, goes.empty⟩
  case alone =>
    have members : cMembers (collBegun tag 0x44 b 0 l st s) b = [bindCoord (collBegun tag 0x44 b 0 l st s) b] := by
      rw [cMembers_begun, alone, bindCoord_begun]
    have ends := (collFirst_alone (collAt_begun new) rfl rfl members (h.mayEnd_begun b 0)).since (without_collBegun ..)
      ((collBegun_frame tag 0x44 b 0 l st s).mono (by decide))
    exact ⟨_, (exec_collStart s (by simp)).trans (congrArg _ ((h.collStart_begins room passes bound new rfl (readable_none s _ _)).trans
      (unpark_empty (ends.parked.trans empty)))), ends.ended, ends.gone, congrArg Col.colls ends.col, ends.frame⟩
  case enters =>
    have frame := collFirst_enters_frame (collAt_begun (op := 0x44) (n := 0) (l := l) (st := st) new) rfl rfl
      ((congrArg List.head? (cMembers_begun ..)).trans root) (by rw [bindCoord_begun]; exact other)
    have goes := (collBegun_goesOn new empty 0x44 b 0 l st).of_only frame (by decide)
    obtain ⟨y, at_, leads⟩ := goes.stands
    exact ⟨_, (exec_collStart s (by simp)).trans (congrArg _ ((h.collStart_begins room passes bound new rfl (readable_none s _ _)).trans
      (unpark_empty goes.empty))), ⟨y, at_, leads.bind, leads.opcode, leads.id, leads.step, leads.enters⟩,
      (frame .mem (by decide)).trans (collBegun_frame tag 0x44 b 0 l st s .mem (by decide))⟩

end Sys2Proof.Machine
end

section
/-!
The messages of a collective: parked, entered, or differing from it (R317, R324, R328, R331 of 08).
-/
namespace Sys2Proof.Machine

/-! ## A message arrives (R324, R337) -/

/-- The collective of a binding that a message names. -/
def collOf (s : State) (b : Nat) (m : List Byte) : Option Coll :=
  s.col.colls.find? (fun x => decide (x.bind = b) && decide (x.id = fieldAt m 4 4))

theorem collOf_bind {s : State} {b : Nat} {m : List Byte} {x : Coll} (h : collOf s b m = some x) : x.bind = b := by
  have found := List.find?_some h
  simp only [Bool.and_eq_true, decide_eq_true_eq] at found
  exact found.1

/-- The message is of a step that this member has discarded (R337). -/
abbrev MsgDead (s : State) (b : Nat) (m : List Byte) : Prop :=
  fieldAt m 8 6 ≠ 0 ∧ memb (fieldAt m 8 6) (tstep s (bindTen s b)).dead = true

/-- A collective message of type `k` is delivered, of no discarded step, with nothing parked. -/
structure CollArrives (s : State) (i k b : Nat) (m : List Byte) : Prop where
  inbox : collInbox s i k = some (b, m)
  alive : fieldAt m 8 6 = 0 ∨ fieldAt m 8 6 ∉ (tstep s (bindTen s b)).dead
  empty : s.col.parked = []

theorem exec_collMsg {cmd : Instr} {i k : Nat} (s : State) (hc : (cmd, k) ∈ [(Instr.contribution i, 1), (.globalPartial i, 2),
    (.globalResult i, 3), (.gatherData i, 4), (.barrierEnter i, 5), (.barrierRelease i, 6)]) : exec cmd s = .next (collMsg i k s) := by
  simp only [List.mem_cons, List.not_mem_nil, or_false, Prod.mk.injEq] at hc
  obtain ⟨rfl, rfl⟩ | ⟨rfl, rfl⟩ | ⟨rfl, rfl⟩ | ⟨rfl, rfl⟩ | ⟨rfl, rfl⟩ | ⟨rfl, rfl⟩ := hc <;> rfl

section
variable {i k b : Nat} {m : List Byte} {x : Coll} {s : State} (h : CollArrives s i k b m)
include h

theorem CollArrives.type : fieldAt m 0 1 = k := by
  have inbox := h.inbox
  unfold collInbox at inbox
  split at inbox
  · split at inbox
    · next hm =>
      obtain rfl := Option.some.inj inbox
      exact hm.1
    · cases inbox
  · cases inbox
theorem CollArrives.not_dead : ¬MsgDead s b m := by
  rintro ⟨step, dead⟩
  exact h.alive.elim step fun alive => alive (by simpa [memb] using dead)
theorem CollArrives.collMsg_eq : collMsg i k s = unpark (collArrive b m (dropInbox i s)) := by
  rw [collMsg, h.inbox]
/-- A message that is not parked is taken. -/
theorem CollArrives.takes (kept : (collTake b m (dropInbox i s)).col.parked = []) : collMsg i k s = collTake b m (dropInbox i s) := by
  have arrives : collArrive b m (dropInbox i s) = collTake b m (dropInbox i s) := by
    rw [collArrive]
    exact if_neg (by simp [kept])
  rw [h.collMsg_eq, arrives, unpark_empty kept]

end

/-- A state with one more message parked (R324). -/
def parkedWith (b : Nat) (m : List Byte) (s : State) : State := modCol (fun c => { c with parked := c.parked ++ [(b, m)] }) s

section
variable {b : Nat} {m : List Byte} {x : Coll} {s : State} (alive : ¬MsgDead s b m)
include alive

theorem collTake_parks (unknown : collOf s b m = none) : collTake b m s = parkedWith b m s := by
  rw [collTake, if_neg alive, ← collOf, unknown]
  rfl
theorem collTake_differs (found : collOf s b m = some x) (differs : fieldAt m 28 4 ≠ x.digest) :
    collTake b m s = linkFault (bindTen s b) (collEnd x.tag 0x0403 (fieldAt m 2 2) 0 s) := by
  rw [collTake, if_neg alive, ← collOf, found]
  exact if_pos differs
theorem collTake_enters (found : collOf s b m = some x) (agrees : fieldAt m 28 4 = x.digest) (began : x.began = true)
    (window : fieldAt m 0 1 = 1 ∨ fieldAt m 0 1 = 2 → inWindow s x m = true) : collTake b m s = collEnter x m s := by
  have enters : ¬(¬x.began = true ∨ ((fieldAt m 0 1 = 1 ∨ fieldAt m 0 1 = 2) ∧ ¬inWindow s x m = true)) := by
    rintro (late | ⟨early, beyond⟩)
    · exact late began
    · exact beyond (window early)
  rw [collTake, if_neg alive, ← collOf, found]
  exact (if_neg (not_not_intro agrees)).trans (if_neg enters)

end

theorem unparkOnce_parked {b : Nat} {m : List Byte} {s : State} (unknown : collOf s b m = none) (parked : s.col.parked = [(b, m)])
    (alive : ¬MsgDead s b m) : unparkOnce s = s := by
  have again := collTake_parks (s := modCol (fun c => { c with parked := [] }) s) alive unknown
  rw [unparkOnce, parked]
  refine again.trans ?_
  change { s with col := { s.col with parked := [(b, m)] } } = s
  rw [← parked]

/-- What parking a message leaves (R324). -/
theorem CollArrives.parks {i k b : Nat} {m : List Byte} {s : State} (h : CollArrives s i k b m) (unknown : collOf s b m = none) :
    collMsg i k s = modCol (fun c => { c with parks := satAdd 32 c.parks 1 }) (parkedWith b m (dropInbox i s)) := by
  have arrives : collArrive b m (dropInbox i s) =
      modCol (fun c => { c with parks := satAdd 32 c.parks 1 }) (parkedWith b m (dropInbox i s)) := by
    rw [collArrive, collTake_parks (s := dropInbox i s) h.not_dead unknown]
    refine if_pos ?_
    simp [parkedWith]
  rw [h.collMsg_eq, arrives]
  exact unpark_once (unparkOnce_parked unknown (by simp [parkedWith, dropInbox, h.empty]) h.not_dead)

/-! ## A message enters its collective (R328) -/

/-- A collective with a further contribution, partial, or stage-3 result of another neighbourhood. -/
def Coll.withContrib (e : Nat × Nat × List (List Byte)) (x : Coll) : Coll := { x with contribs := x.contribs ++ [e] }
def Coll.withPartial (e : Nat × Nat × List (List Byte)) (x : Coll) : Coll := { x with partials := x.partials ++ [e] }
def Coll.withGlobal (e : Nat × List (List Byte)) (x : Coll) : Coll := { x with globals := x.globals ++ [e] }

/-- A change of a collective that leaves alone what its stages change. -/
theorem GoesOn.changes {x : Coll} {s : State} (h : GoesOn x s) {f : Coll → Coll} (tag : ∀ y, (f y).tag = y.tag)
    (core : ∀ y, (f y).core = f y.core) (results : ∀ y, (f y).results = y.results) : GoesOn (f x) (Machine.modColl x.tag f s) := by
  obtain ⟨y, at_, leads⟩ := h.stands
  refine ⟨⟨f y, by rw [tag x]; exact collAt_modColl tag at_, ?_, ?_⟩, h.empty⟩
  · rw [core, core, leads.core]
  · rw [results, results]
    exact leads.results

section
variable {x : Coll} {m : List Byte} {s : State}

theorem collEnter_contribution (h : GoesOn x s) (type : fieldAt m 0 1 = 1) :
    GoesOn (x.withContrib (fieldAt m 2 2, fieldAt m 16 6, msgElems x m)) (collEnter x m s) := by
  have woken : ∀ c, GoesOn x (whenS c wakeUp s) := fun c => GoesOn.if_ok h.wakeUp h
  simp only [collEnter, type]
  exact (((woken _).countIn x _ _).changes (f := Coll.withContrib _) (fun _ => rfl) (fun _ => rfl) (fun _ => rfl)).collRun
theorem collEnter_partial (h : GoesOn x s) (type : fieldAt m 0 1 = 2) :
    GoesOn (x.withPartial (fieldAt m 2 2, fieldAt m 16 6, msgElems x m)) (collEnter x m s) := by
  simp only [collEnter, type]
  exact ((h.countIn x _ _).changes (f := Coll.withPartial _) (fun _ => rfl) (fun _ => rfl) (fun _ => rfl)).collRun
theorem collEnter_global (h : GoesOn x s) (type : fieldAt m 0 1 = 3) (other : x.opcode ≠ 0x40) :
    GoesOn (x.withGlobal (fieldAt m 16 6, msgElems x m)) (collEnter x m s) := by
  simp only [collEnter, type, if_neg other]
  exact h.changes (f := Coll.withGlobal _) (fun _ => rfl) (fun _ => rfl) (fun _ => rfl)

variable (at_ : collAt s x.tag = some x) (empty : s.col.parked = [])
include at_ empty

theorem collEnter_result (type : fieldAt m 0 1 = 3) (allreduce : x.opcode = 0x40) :
    GoesOn (x.withResults (fieldAt m 16 6) (msgElems x m)) (collEnter x m s) := by
  simp only [collEnter, type, if_pos allreduce]
  exact (addResults_keeps at_ empty _ _).collRun
theorem collEnter_gathered (type : fieldAt m 0 1 = 4) :
    GoesOn (x.withResults (fieldAt m 16 6) (msgElems x m)) (collEnter x m s) := by
  have forwarded : ∀ (p : Prop) [Decidable p] (ys : List Nat) (kind first : Nat) (es : List (List Byte)),
      (if p then s else forS ys (fun y => sendElems x 4 kind y first es) s).col = s.col := fun p _ ys kind first es =>
    ite_only (ps := [.out, .vnl]) (Only.rfl' _ s) (forS_only _ _ (fun y _ => sendElems_only x 4 kind y first es (by decide) (by decide))
      (Only.rfl' _ s)) .col (by decide)
  simp only [collEnter, type]
  refine addResults_keeps ?_ ?_ _ _
  · rw [collAt, forwarded]
    exact at_
  · rw [forwarded]
    exact empty

end

/-- A collective that a message of type 1 to 4 has entered (Table 08.5). -/
def Coll.received (m : List Byte) (x : Coll) : Coll :=
  { x with
    contribs := if fieldAt m 0 1 = 1 then x.contribs ++ [(fieldAt m 2 2, fieldAt m 16 6, msgElems x m)] else x.contribs
    partials := if fieldAt m 0 1 = 2 then x.partials ++ [(fieldAt m 2 2, fieldAt m 16 6, msgElems x m)] else x.partials
    globals := if fieldAt m 0 1 = 3 ∧ x.opcode ≠ 0x40 then x.globals ++ [(fieldAt m 16 6, msgElems x m)] else x.globals
    results := if fieldAt m 0 1 = 4 ∨ fieldAt m 0 1 = 3 ∧ x.opcode = 0x40 then x.results ++ [(fieldAt m 16 6, msgElems x m)]
      else x.results }

theorem Coll.results_received (m : List Byte) (x : Coll) : x.results <+: (x.received m).results := by
  unfold Coll.received
  dsimp only
  split
  · exact List.prefix_append ..
  · exact List.prefix_rfl

theorem collEnter_received {x : Coll} {m : List Byte} {s : State} (at_ : collAt s x.tag = some x) (empty : s.col.parked = [])
    (type : fieldAt m 0 1 = 1 ∨ fieldAt m 0 1 = 2 ∨ fieldAt m 0 1 = 3 ∨ fieldAt m 0 1 = 4) :
    GoesOn (x.received m) (collEnter x m s) := by
  have here := GoesOn.here at_ empty
  obtain type | type | type | type := type
  · simpa [Coll.received, Coll.withContrib, type] using collEnter_contribution here type
  · simpa [Coll.received, Coll.withPartial, type] using collEnter_partial here type
  · by_cases allreduce : x.opcode = 0x40
    · simpa [Coll.received, Coll.withResults, type, allreduce] using collEnter_result at_ empty type allreduce
    · simpa [Coll.received, Coll.withGlobal, type, allreduce] using collEnter_global here type allreduce
  · simpa [Coll.received, Coll.withResults, type] using collEnter_gathered at_ empty type

/-! ## Barriers and messages that differ (R317, R331) -/

section
variable {x : Coll} {m : List Byte} {s : State}

theorem collEnter_barrier (type : fieldAt m 0 1 = 5) : collEnter x m s =
    barrierRun x.tag (modColl x.tag (fun y => y.entered (addOnce (fieldAt m 2 2) y.enters)) s) := by
  simp only [collEnter, type]
  rfl
theorem collEnter_release (type : fieldAt m 0 1 = 6) : collEnter x m s = collEnd x.tag 0 0 0 s := by
  simp only [collEnter, type]
  rfl
theorem collAt_barrier (at_ : collAt s x.tag = some x) :
    collAt (modColl x.tag (fun y => y.entered (addOnce (fieldAt m 2 2) y.enters)) s) x.tag =
      some (x.entered (addOnce (fieldAt m 2 2) x.enters)) :=
  collAt_modColl (f := fun y => y.entered (addOnce (fieldAt m 2 2) y.enters)) (fun _ => rfl) at_

end

theorem MayEnd.dropInbox {tag : Nat} {l : Live} {s : State} (h : MayEnd s tag l) (i : Nat) : MayEnd (dropInbox i s) tag l :=
  h.of_only (ps := [.vnl]) (dropInbox_only i (by decide) (Only.rfl' _ s)) (by decide) (by decide)

/-- A message that names a collective in progress, which has begun and agrees with it. -/
structure CollAgrees (s : State) (b : Nat) (m : List Byte) (x : Coll) : Prop where
  found : collOf s b m = some x
  at_ : collAt s x.tag = some x
  digest : fieldAt m 28 4 = x.digest
  began : x.began = true

theorem mem_addOnce {z y : Nat} {l : List Nat} (h : z = y ∨ z ∈ l) : z ∈ addOnce y l := by
  unfold addOnce
  split
  · next hy => exact h.elim (fun e => e ▸ by simpa [memb] using hy) id
  · exact List.mem_append.mpr (h.symm.imp id List.mem_singleton.mpr)

section
variable {i k b : Nat} {m : List Byte} {x : Coll} {l : Live} {s : State} (h : CollArrives s i k b m)
include h

/-- A message that agrees and whose segment is inside the window enters. -/
theorem CollArrives.enters (agrees : CollAgrees s b m x) (window : k < 3 → inWindow s x m = true)
    (kept : (collEnter x m (dropInbox i s)).col.parked = []) : collMsg i k s = collEnter x m (dropInbox i s) := by
  have enters : collTake b m (dropInbox i s) = collEnter x m (dropInbox i s) :=
    collTake_enters (s := dropInbox i s) h.not_dead agrees.found agrees.digest agrees.began
      fun early => window (by have := h.type; omega)
  exact (h.takes (by rw [enters]; exact kept)).trans enters

/-- The last entering ends a barrier at its root, a release at any other member. -/
theorem CollArrives.ends_barrier (agrees : CollAgrees s b m x) (type : k = 5 ∨ k = 6)
    (last : k = 5 → (cMembers s b).head? = some (bindCoord s b) ∧ ∀ z ∈ cMembers s b, z = fieldAt m 2 2 ∨ z ∈ x.enters)
    (live : MayEnd s x.tag l) : ∃ t, CollEnded x.tag 0 0 0 l.step t (collMsg i k s) := by
  obtain rfl | rfl := type
  · obtain ⟨root, all⟩ := last rfl
    have entered := collAt_barrier (m := m) (s := dropInbox i s) agrees.at_
    have runs := barrierRun_ends entered (collOf_bind agrees.found :) root fun z hz => mem_addOnce (all z hz)
    have frame := released_frame b (x.entered (addOnce (fieldAt m 2 2) x.enters))
      (modColl x.tag (fun y => y.entered (addOnce (fieldAt m 2 2) y.enters)) (dropInbox i s))
    have ends := (((live.dropInbox i).of_only (ps := [.col]) (modColl_only _ _ (by decide) (Only.rfl' _ _)) (by decide)
      (by decide)).of_only frame (by decide) (by decide)).collEnd 0 0 0
    have parked := (congrArg Col.parked (frame .col (by decide))).trans h.empty
    rw [← runs, ← collEnter_barrier h.type] at ends
    rw [← h.enters agrees (fun early => absurd early (by decide)) (ends.parked.trans parked)] at ends
    exact ⟨_, ends⟩
  · have ends := (live.dropInbox i).collEnd 0 0 0
    rw [← collEnter_release h.type] at ends
    rw [← h.enters agrees (fun early => absurd early (by decide)) (ends.parked.trans h.empty)] at ends
    exact ⟨_, ends⟩

end

/-- Settles O37: a message that names no collective parks (`CollArrives.parks`), one that agrees enters (`collEnter_received`,
`CollArrives.ends_barrier`), and one that differs ends its collective before the link fault. -/
theorem collectiveMessages : Obligations.CollectiveMessages := by
  refine ⟨fun cmd i k b m s hc inbox unknown empty alive => ?parks,
    fun cmd i k b m x s hc inbox alive found at_ digest began window empty => ?enters,
    fun i b m x s inbox alive found at_ digest began empty missing => ?waits,
    fun cmd i k b m x l s hc inbox alive found at_ digest began empty last live link resumed seals => ?barrier,
    fun cmd i k b m x l s hc inbox alive found differs empty live link resumed seals => ?differs⟩
  case parks =>
    have parks := CollArrives.parks ⟨inbox, alive, empty⟩ unknown
    refine ⟨_, (exec_collMsg s hc).trans (congrArg _ parks), ?_, rfl, rfl, ?_⟩
    · simp [parkedWith, dropInbox, empty]
    · exact modCol_only _ (by decide) (modCol_only _ (by decide) (dropInbox_only i (by decide) (Only.rfl' _ s)))
  case enters =>
    have arrives : CollArrives s i k b m := ⟨inbox, alive, empty⟩
    have type : k = 1 ∨ k = 2 ∨ k = 3 ∨ k = 4 := by
      simp only [List.mem_cons, List.not_mem_nil, or_false, Prod.mk.injEq] at hc
      omega
    have goes := collEnter_received (m := m) (s := dropInbox i s) at_ empty (by rw [arrives.type]; exact type)
    obtain ⟨y, hy, leads⟩ := goes.stands
    have takes := arrives.enters ⟨found, at_, digest, began⟩ window goes.empty
    obtain rfl := arrives.type
    refine ⟨_, (exec_collMsg s (List.mem_append_left [(.barrierEnter i, 5), (.barrierRelease i, 6)] hc)).trans (congrArg _ takes),
      y, hy, leads.bind, leads.opcode, leads.id, leads.own, leads.contribs, leads.partials, leads.globals, fun gathered => ?_, ?_⟩
    · have results : (x.received m).results = x.results ++ [(fieldAt m 16 6, msgElems x m)] := if_pos gathered
      have kept := leads.results_take
      rwa [results, List.length_append, List.length_singleton] at kept
    · exact (List.prefix_iff_eq_take.mp ((x.results_received m).trans leads.results)).symm
  case waits =>
    have arrives : CollArrives s i 5 b m := ⟨inbox, alive, empty⟩
    have entered := collAt_barrier (m := m) (s := dropInbox i s) at_
    have takes := (collEnter_barrier arrives.type).trans (barrierRun_waits entered (collOf_bind found :) missing)
    have enters := arrives.enters ⟨found, at_, digest, began⟩ (fun early => absurd early (by decide)) (by rw [takes]; exact empty)
    exact ⟨_, (exec_collMsg s (by simp)).trans (congrArg _ (enters.trans takes)), entered,
      modColl_only _ _ (by decide) (dropInbox_only i (by decide) (Only.rfl' _ s))⟩
  case barrier =>
    have type : k = 5 ∨ k = 6 := by
      simp only [List.mem_cons, List.not_mem_nil, or_false, Prod.mk.injEq] at hc
      omega
    obtain ⟨t, ends⟩ := CollArrives.ends_barrier ⟨inbox, alive, empty⟩ ⟨found, at_, digest, began⟩ type last
      ⟨live, link, resumed, seals⟩
    have taken := List.mem_append_right
      [(Instr.contribution i, 1), (.globalPartial i, 2), (.globalResult i, 3), (.gatherData i, 4)] hc
    exact ⟨_, exec_collMsg s taken, ends.ended, ends.gone⟩
  case differs =>
    have arrives : CollArrives s i k b m := ⟨inbox, alive, empty⟩
    have ends := (MayEnd.dropInbox ⟨live, link, resumed, seals⟩ i).collEnd 0x0403 (fieldAt m 2 2) 0
    have faults := collTake_differs (s := dropInbox i s) arrives.not_dead found differs
    have kept : (collTake b m (dropInbox i s)).col.parked = [] := by
      rw [faults, linkFault_col]
      exact ends.parked.trans empty
    exact ⟨_, (exec_collMsg s hc).trans (congrArg _ ((arrives.takes kept).trans faults)), ends.ended.linkFault _,
      (collAt_linkFault ..).trans ends.gone, ends.fault_up _⟩

end Sys2Proof.Machine
end

section
/-!
The records of the job steps after an update, and what a discard and a failure make of them (R340, R364, R368 to R371 of 09).
-/
namespace Sys2Proof.Machine

/-! ## A tenant's steps after an update -/

theorem tstep_of_stp {s u : State} (h : u.stp = s.stp) (t : Nat) : tstep u t = tstep s t := by rw [tstep, h, tstep]
@[simp] theorem tstep_modTstep (t k : Nat) (f : TenStep → TenStep) (s : State) :
    tstep (modTstep t f s) k = if k = t then f (tstep s t) else tstep s k := get_upd ({} : TenStep) s.stp.tens t k f
@[simp] theorem tstep_modStep (t n k : Nat) (f : StepRec → StepRec) (s : State) : tstep (modStep t n f s) k =
    if k = t then { tstep s t with steps := (tstep s t).steps.map (fun r => if r.num = n then f r else r) } else tstep s k :=
  tstep_modTstep ..
theorem stepRec_of_stp {s u : State} (h : u.stp = s.stp) (t n : Nat) : stepRec u t n = stepRec s t n := by
  rw [stepRec, tstep_of_stp h, stepRec]
theorem stepRec_num {s : State} {t n : Nat} {r : StepRec} (h : stepRec s t n = some r) : r.num = n := by simpa using List.find?_some h
theorem stepRec_mem {s : State} {t n : Nat} {r : StepRec} (h : stepRec s t n = some r) : r ∈ (tstep s t).steps := List.mem_of_find?_eq_some h

/-- A change of one step that keeps its number. -/
theorem stepRec_modStep {s : State} {t n : Nat} {r : StepRec} (h : stepRec s t n = some r) {f : StepRec → StepRec}
    (hf : ∀ x, (f x).num = x.num := by intro _; rfl) : stepRec (modStep t n f s) t n = some (f r) := by
  have same : ((fun x : StepRec => decide (x.num = n)) ∘ fun x => if x.num = n then f x else x) = fun x => decide (x.num = n) := by
    funext x
    by_cases hx : x.num = n <;> simp [hx, hf]
  rw [stepRec, tstep_modStep, if_pos rfl, List.find?_map, same, ← stepRec, h]
  simp [stepRec_num h]

/-! ## Events leave the live descriptors and the steps (R91, R92) -/

@[simp] theorem noteT_stp (t code subject detail : Nat) (s : State) : (noteT t code subject detail s).stp = s.stp :=
  noteT_frame t code subject detail s .stp (by decide)
theorem dropEvent_hif (t : Nat) (s : State) : (dropEvent t s).hif =
    { s.hif with tens := Map.upd {} s.hif.tens t (fun x => { x with lost := satAdd 32 x.lost 1 }) } := rfl
/-- An event changes of the host interface the tenants' counts of lost events, the rings and the pending interrupts. -/
theorem postEvent_hif (t code subject detail : Nat) (s : State) :
    ∃ tens rings pend, (postEvent t code subject detail s).hif = { s.hif with tens := tens, rings := rings, msixPend := pend } := by
  unfold postEvent
  split
  · split
    · obtain ⟨rings, pend, h⟩ := writeEntry_hif (evqRing s t) (eventBytes s t code subject detail) false s
      exact ⟨_, rings, pend, by rw [putEvent, setTenRec, modHif_hif, h]⟩
    · exact ⟨_, _, _, by rw [dropEvent_hif, dropEvent_hif, modRing, modHif_hif]⟩
  · exact ⟨_, _, _, dropEvent_hif t s⟩
theorem noteT_hif (t code subject detail : Nat) (s : State) :
    ∃ tens rings pend, (noteT t code subject detail s).hif = { s.hif with tens := tens, rings := rings, msixPend := pend } := by
  rw [noteT, recordT_only (fr := [.book]) t code subject detail (by decide) (Only.rfl' _ _) .hif (by decide)]
  exact postEvent_hif t code subject detail s
theorem noteT_liveMap (t code subject detail : Nat) (s : State) : (noteT t code subject detail s).hif.live = s.hif.live := by
  obtain ⟨_, _, _, e⟩ := noteT_hif t code subject detail s
  rw [e]

/-! ## The stall mark (R364) -/

/-- A tenant's steps without the stall mark and the tick of its event. -/
def TenStep.unstalled (x : TenStep) : TenStep := { x with stall := false, stallAt := none }

/-- From `a` to `s` nothing of the steps and of the host interface has changed but the stall of tenant t and what its event posts. -/
structure Restalls (t : Nat) (a s : State) : Prop where
  own : (tstep s t).unstalled = (tstep a t).unstalled
  others : ∀ k, k ≠ t → tstep s k = tstep a k
  rest : ∃ tens n, s.stp = { a.stp with tens := tens, specStalls := n }
  hif : ∃ tens rings pend, s.hif = { a.hif with tens := tens, rings := rings, msixPend := pend }

namespace Restalls
variable {t : Nat} {a s : State}

theorem refl (t : Nat) (a : State) : Restalls t a a := ⟨rfl, fun _ _ => rfl, ⟨_, _, rfl⟩, ⟨_, _, _, rfl⟩⟩
theorem noteT (h : Restalls t a s) (x code subject detail : Nat) : Restalls t a (noteT x code subject detail s) where
  own := by rw [tstep_of_stp (noteT_stp ..), h.own]
  others k hk := by rw [tstep_of_stp (noteT_stp ..), h.others k hk]
  rest := noteT_stp x code subject detail s ▸ h.rest
  hif := by
    obtain ⟨_, _, _, e⟩ := h.hif
    obtain ⟨tens, rings, pend, noted⟩ := noteT_hif x code subject detail s
    exact ⟨tens, rings, pend, by rw [noted, e]⟩
theorem counted (h : Restalls t a s) : Restalls t a (modStp (fun x => { x with specStalls := satAdd 32 x.specStalls 1 }) s) where
  own := h.own
  others := h.others
  rest := by
    obtain ⟨_, _, e⟩ := h.rest
    exact ⟨_, _, by rw [modStp_stp, e]⟩
  hif := h.hif
theorem marked (h : Restalls t a s) {f : TenStep → TenStep} (hf : ∀ x, (f x).unstalled = x.unstalled := by intro _; rfl) :
    Restalls t a (modTstep t f s) where
  own := by rw [tstep_modTstep, if_pos rfl, hf, h.own]
  others k hk := by rw [tstep_modTstep, if_neg hk, h.others k hk]
  rest := by
    obtain ⟨_, _, e⟩ := h.rest
    exact ⟨_, _, by rw [modTstep, modStp_stp, e]⟩
  hif := h.hif
theorem if_ok {p : Prop} [Decidable p] {x y : State} (hx : Restalls t a x) (hy : Restalls t a y) : Restalls t a (if p then x else y) := by
  split
  · exact hx
  · exact hy

section
variable (h : Restalls t a s)
include h
theorem steps : (tstep s t).steps = (tstep a t).steps := (congrArg TenStep.steps h.own :)
theorem st : (tstep s t).st = (tstep a t).st := (congrArg TenStep.st h.own :)
theorem drawn : (tstep s t).drawn = (tstep a t).drawn := (congrArg TenStep.drawn h.own :)
theorem reason : (tstep s t).reason = (tstep a t).reason := (congrArg TenStep.reason h.own :)
theorem split : (tstep s t).split = (tstep a t).split := (congrArg TenStep.split h.own :)
theorem restoring : (tstep s t).restoring = (tstep a t).restoring := (congrArg TenStep.restoring h.own :)
theorem live : s.hif.live = a.hif.live := by obtain ⟨_, _, _, e⟩ := h.hif; rw [e]
theorem link : s.hif.up = a.hif.up := by obtain ⟨_, _, _, e⟩ := h.hif; rw [e]
theorem resumed : s.hif.resumePending = a.hif.resumePending := by obtain ⟨_, _, _, e⟩ := h.hif; rw [e]
theorem lees : s.stp.lees = a.stp.lees := by obtain ⟨_, _, e⟩ := h.rest; rw [e]
theorem hold : s.stp.hold = a.stp.hold := by obtain ⟨_, _, e⟩ := h.rest; rw [e]
theorem draining : s.stp.draining = a.stp.draining := by obtain ⟨_, _, e⟩ := h.rest; rw [e]
theorem draws : s.stp.draws = a.stp.draws := by obtain ⟨_, _, e⟩ := h.rest; rw [e]
end

end Restalls

theorem updStall_restalls (t : Nat) (s : State) : Restalls t s (updStall t s) := by
  have here := Restalls.refl t s
  unfold updStall
  dsimp only
  split
  · split
    · exact here
    · exact Restalls.if_ok (Restalls.marked ((Restalls.counted (Restalls.marked here)).noteT _ _ _ _)) (Restalls.counted (Restalls.marked here))
  · exact Restalls.marked here

/-! ## Steps are discarded (R370, R371) -/

/-- A tenant's steps once those from n on, `gone` of them with `first` the oldest, are discarded. -/
def TenStep.discarded (n reason : Nat) (first : StepRec) (gone : List StepRec) (x : TenStep) : TenStep :=
  { x with
    st := .recover, steps := x.steps.filter (fun r => decide (r.num < n)), next := some first.num, firstDisc := some first.num,
    restoring := true, reason := reason, early := x.early.filter (fun r => decide (r.1 < n)),
    dead := (x.dead ++ gone.map StepRec.num).eraseDups }
/-- The must hold without the writes and events of tenant t's steps from n on, `k` of which have failed. -/
def Stp.withdrawn (t n k : Nat) (x : Stp) : Stp :=
  { x with
    hold := x.hold.filter (fun h => decide (h.tenant ≠ t) || decide (h.step < n)),
    holdEv := x.holdEv.filter (fun h => decide (h.tenant ≠ t) || decide (h.step < n)),
    fails := satAdd 32 x.fails k }

theorem modTstep_stp {s u : State} (h : u.stp = s.stp) (t : Nat) (f : TenStep → TenStep) (g : Stp → Stp) (r : Rck → Rck) (p : Pln → Pln) :
    (modTstep t f (modRck r (modPln p (modStp g u)))).stp = (modTstep t f (modStp g s)).stp := by simp [modTstep, h]

/-- What a discard leaves of the steps, before the stall mark is brought up to date. -/
theorem discard_stp {t n : Nat} {first : StepRec} {rest : List StepRec} {s : State}
    (gone : (tstep s t).steps.filter (fun r => decide (n ≤ r.num)) = first :: rest) (reason origin : Nat) :
    ∃ u, discard t n reason origin s = updStall t u ∧
      u.stp = (modTstep t (TenStep.discarded n reason first (first :: rest)) (modStp (Stp.withdrawn t n (rest.length + 1)) s)).stp := by
  unfold discard
  dsimp only
  rw [gone]
  refine ⟨_, rfl, (settleFrees_stp _ _).trans ((noteT_stp ..).trans ?_)⟩
  refine (forS_only (ps := [.out, .hif]) _ _ (fun e x hx => ?_) (Only.rfl' _ _) .stp (by decide)).trans ?_
  · split
    · exact ite_only (completeNow_only _ _ _ _ (by decide) (by decide) hx) hx
    · exact ite_only (completeNow_only _ _ _ _ (by decide) (by decide) hx)
        (ite_only (completeNow_only _ _ _ _ (by decide) (by decide) hx) hx)
  · refine modTstep_stp (s := s) ?_ t _ _ _ _
    exact dropTrigs_only (fr := [.pln, .cor, .mem, .tim, .col, .dbg]) t n (by decide) (dropColls_only t n (by decide)
      (undoHandles_only t n (by decide) (by decide) (cntRestore_only _ (by decide) (modCor_only _ (by decide)
      (dropTallies_only t n (by decide) (settleCores_only (by decide)
      (forS_only _ _ (fun l x hx => dropLaunch_only l.tag (by decide) (by decide) hx) (Only.rfl' _ s)))))))) .stp (by decide)

/-- The steps of tenant t from n on are discarded for a reason, and nothing of any other tenant's steps has changed. -/
structure Discards (t n reason : Nat) (s u : State) : Prop where
  st : (tstep u t).st = .recover
  restoring : (tstep u t).restoring = true
  reason : (tstep u t).reason = reason
  steps : (tstep u t).steps = (tstep s t).steps.filter (fun r => decide (r.num < n))
  drawn : (tstep u t).drawn = (tstep s t).drawn
  split : (tstep u t).split = (tstep s t).split
  hold : ∀ h ∈ u.stp.hold, ¬ (h.tenant = t ∧ n ≤ h.step)
  others : ∀ k, k ≠ t → tstep u k = tstep s k

theorem discard_discards {t n : Nat} {r : StepRec} {s : State} (known : stepRec s t n = some r) (reason origin : Nat) :
    Discards t n reason s (discard t n reason origin s) := by
  have listed : r ∈ (tstep s t).steps.filter (fun r => decide (n ≤ r.num)) :=
    List.mem_filter.mpr ⟨stepRec_mem known, by simp [stepRec_num known]⟩
  obtain ⟨first, rest, gone⟩ := List.exists_cons_of_ne_nil (List.ne_nil_of_mem listed)
  obtain ⟨u, done, stp⟩ := discard_stp gone reason origin
  have stalls := updStall_restalls t u
  have own : tstep u t = (tstep s t).discarded n reason first (first :: rest) :=
    (tstep_of_stp stp t).trans ((tstep_modTstep ..).trans (if_pos rfl))
  have other : ∀ k, k ≠ t → tstep u k = tstep s k := fun k hk => (tstep_of_stp stp k).trans ((tstep_modTstep ..).trans (if_neg hk))
  have hold : u.stp.hold = s.stp.hold.filter (fun h => decide (h.tenant ≠ t) || decide (h.step < n)) := congrArg Stp.hold stp
  rw [done]
  refine ⟨by rw [stalls.st, own]; rfl, by rw [stalls.restoring, own]; rfl, by rw [stalls.reason, own]; rfl, by rw [stalls.steps, own]; rfl,
    by rw [stalls.drawn, own]; rfl, by rw [stalls.split, own]; rfl, fun h hh => ?_, fun k hk => (stalls.others k hk).trans (other k hk)⟩
  rw [stalls.hold, hold] at hh
  have kept := (List.mem_filter.mp hh).2
  simp only [Bool.or_eq_true, decide_eq_true_eq] at kept
  omega

theorem Discards.of_stp {t n reason : Nat} {a s u v : State} (h : Discards t n reason s u) (start : s.stp = a.stp) (stop : v.stp = u.stp) :
    Discards t n reason a v := by
  have own := tstep_of_stp start t
  have left := tstep_of_stp stop t
  exact ⟨by rw [left, h.st], by rw [left, h.restoring], by rw [left, h.reason], by rw [left, h.steps, own], by rw [left, h.drawn, own],
    by rw [left, h.split, own], stop ▸ h.hold, fun k hk => by rw [tstep_of_stp stop, h.others k hk, tstep_of_stp start]⟩

theorem Discards.upMsg {t n reason : Nat} {s u : State} (h : Discards t n reason s u) (m : UpMsg) : Discards t n reason s (upMsg m u) :=
  h.of_stp rfl rfl

/-- A discard does not speak to the Cellarer. -/
theorem discard_cel (t n reason origin : Nat) (s : State) : (discard t n reason origin s).cel = s.cel :=
  discard_only (fr := [.out, .mem, .hif, .pln, .cor, .col, .stp, .rck, .tim, .dbg, .book]) t n reason origin (by decide) (by decide) (by decide)
    (by decide) (by decide) (by decide) (by decide) (by decide) (by decide) (by decide) (by decide) (Only.rfl' _ s) .cel (by decide)

/-- A step that has failed here: it is discarded, and its FAIL waits for the end of the control cycle (R368). -/
structure Fails (t n reason : Nat) (s u : State) : Prop where
  discards : Discards t n reason s u
  staged : u.cel.staged = s.cel.staged ++ [.failUp t n reason]

theorem Discards.fails {t n reason : Nat} {s u : State} (h : Discards t n reason s u) (cel : u.cel = s.cel) :
    Fails t n reason s (modCel (fun c => { c with staged := c.staged ++ [.failUp t n reason] }) u) where
  discards := h.of_stp rfl rfl
  staged := by rw [modCel_cel, cel]
theorem Fails.upMsg {t n reason : Nat} {s u : State} (h : Fails t n reason s u) (m : UpMsg) : Fails t n reason s (upMsg m u) where
  discards := h.discards.upMsg m
  staged := h.staged

/-- A module failure of an undrawn step (R368). -/
theorem failStep_fails {t n : Nat} {r : StepRec} {s : State} (known : stepRec s t n = some r) (reason : Nat) :
    Fails t n reason s (failStep t n reason s) := by
  have noted := noteT_stp t 0x0900 (tenCoord s t) (n + reason * 2 ^ 48) s
  have discards := discard_discards ((stepRec_of_stp noted t n).trans known) reason (tenCoord s t)
  have fails := (discards.of_stp noted rfl).fails ((discard_cel ..).trans (noteT_cel ..))
  rw [failStep, known]
  dsimp only
  split
  · exact fails.upMsg _
  · exact fails

end Sys2Proof.Machine
end

section
/-!
The step descriptors: STEP_OPEN, STEP_SEAL, STEP_RESYNC and STEP_QUERY (R341 to R347, R373, R376 of 09).
-/
namespace Sys2Proof.Machine

/-! ## A STEP_OPEN or STEP_SEAL in its turn -/

theorem stepTurn_live {s : State} {tag op : Nat} {l : Live} (h : stepTurn s tag op = some l) : liveRec s tag = some l := by
  unfold stepTurn at h
  split at h
  · next live =>
    split at h
    · exact live.trans h
    · cases h
  · cases h

/-- One whose check fails ends attached to the step it names, where that is undrawn (R344). -/
theorem stepErr_ends {s : State} {tag : Nat} {l : Live} (h : MayEnd s tag l) (status detail : Nat) :
    Ended (stepErr tag status detail l s) tag (if (stepRec s (liveTen l) (stepField l.desc)).isSome then some (stepField l.desc) else none)
      status detail 0 ∧ Only flowParts s (stepErr tag status detail l s) :=
  (h.changed (fun x => { x with
    stage := .running, step := if (stepRec s (liveTen x) (stepField l.desc)).isSome then some (stepField l.desc) else none }) rfl).endsWith
    (modLive_flow tag _ s) status detail 0

/-- A descriptor that RECOVER refuses completes at once (R373). -/
theorem completeNow_completes {s : State} (link : s.hif.up = true) (resumed : s.hif.resumePending = false) (tag status detail result : Nat) :
    liveRec (completeNow tag status detail result s) tag = none ∧ Only [.hif, .out] s (completeNow tag status detail result s) := by
  refine ⟨?_, completeNow_only tag status detail result (by decide) (by decide) (Only.rfl' _ s)⟩
  rw [completeNow, postHeld_live _ _ ((modLive_up ..).trans link) ((modLive_resume ..).trans resumed), if_pos rfl]

/-! ## A step opens (R341 to R343) -/

/-- A tenant's steps with step n open, the counters recorded (R260). -/
def TenStep.opening (n : Nat) (record : List CntRec) (x : TenStep) : TenStep :=
  { x with
    st := .run, next := some ((n + 1) % 2 ^ 48), steps := x.steps ++ [{
      num := n, record := record, reps := (x.early.filter (fun r => decide (r.1 = n))).map Prod.snd }], failNext := none,
    firstDisc := none, early := x.early.filter (fun r => decide (r.1 ≠ n)), dead := without n x.dead }
/-- Step n is open and its STEP_OPEN executes. -/
def stepOpened (tag t n : Nat) (s : State) : State :=
  modTstep t (TenStep.opening n (cntRecord s t))
    (modPwr (fun p => { p with idle := false }) (modLive tag (fun l => { l with step := some n, stage := .running }) s))
/-- The step is open and its posts have set out (R343): its STEP_OPEN may end. -/
def openReady (tag t n : Nat) (d : List Byte) (s : State) : State :=
  makePost t none (some n) (postOf d 27) (makePost t none (some n) (postOf d 24) (updStall t (stepOpened tag t n s)))

/-- The parts of the state that an opening touches before its STEP_OPEN ends. -/
def openParts : List Part := [.hif, .out, .stp, .pwr, .cor, .book]

section
variable {tag t n : Nat} {d : List Byte} {l : Live} {s : State}

theorem openNow_eq (sound : (tstep s t).failNext = none) : openNow tag t n d s = done tag stOK 0 0 (openReady tag t n d s) := by
  simp only [openNow, sound]
  rfl
theorem posted_frame (t n : Nat) (d : List Byte) (s : State) :
    Only [.cor] s (makePost t none (some n) (postOf d 27) (makePost t none (some n) (postOf d 24) s)) :=
  makePost_only _ _ _ _ (by decide) (makePost_only _ _ _ _ (by decide) (Only.rfl' _ s))
theorem stepOpened_frame : Only [.hif, .stp, .pwr] s (stepOpened tag t n s) :=
  modTstep_only t _ (by decide) (modPwr_only _ (by decide) (modLive_only tag _ (by decide) (Only.rfl' _ s)))
theorem openReady_frame : Only openParts s (openReady tag t n d s) :=
  (updStall_only t (by decide) (by decide) (by decide) (by decide) (stepOpened_frame.mono (by decide))).trans
    ((posted_frame t n d _).mono (by decide))

theorem tstep_stepOpened : tstep (stepOpened tag t n s) t = (tstep s t).opening n (cntRecord s t) := by
  rw [stepOpened, tstep_modTstep, if_pos rfl]
  exact congrArg (TenStep.opening n (cntRecord s t)) (tstep_modLive tag _ s t)
/-- The opened step is the newest, its tenant's steps are in RUN. -/
theorem openReady_restalls : Restalls t (stepOpened tag t n s) (updStall t (stepOpened tag t n s)) := updStall_restalls t _
theorem tstep_openReady : (tstep (openReady tag t n d s) t).unstalled = ((tstep s t).opening n (cntRecord s t)).unstalled := by
  rw [openReady, tstep_of_stp (posted_frame t n d _ .stp (by decide)), openReady_restalls.own, tstep_stepOpened]

theorem MayEnd.openReady (h : MayEnd s tag l) (mine : t = liveTen l) (n : Nat) (d : List Byte) :
    MayEnd (openReady tag t n d s) tag { l with step := some n, stage := .running } := by
  have started := h.changed (fun l => { l with step := some n, stage := .running }) rfl
  have stalls : Restalls t (stepOpened tag t n s) (updStall t (stepOpened tag t n s)) := openReady_restalls
  refine MayEnd.of_only ⟨?_, stalls.link.trans started.link, stalls.resumed.trans started.resumed, ?_⟩ (posted_frame t n d _) (by decide) (by decide)
  · rw [liveRec, stalls.live]
    exact started.live
  · have steps : (tstep (updStall t (stepOpened tag t n s)) t).steps = _ := stalls.steps.trans (congrArg TenStep.steps tstep_stepOpened)
    subst mine
    intro r hr
    change r ∈ (tstep (updStall (liveTen l) (stepOpened tag (liveTen l) n s)) (liveTen l)).steps at hr
    rw [steps] at hr
    obtain old | new := List.mem_append.mp hr
    · exact h.seals r old
    · rw [List.mem_singleton.mp new]

/-- What an open step leaves: it is the newest of its tenant's, which are in RUN, and its successor is expected (R342, R343). -/
structure Opens (t n : Nat) (s u : State) : Prop where
  st : (tstep u t).st = .run
  steps : ∃ r, (tstep u t).steps = (tstep s t).steps ++ [r] ∧ r.num = n ∧ r.opened = true
  next : (tstep u t).next = some ((n + 1) % 2 ^ 48)
  firstDisc : (tstep u t).firstDisc = none

theorem openNow_opens (h : MayEnd s tag l) (mine : t = liveTen l) (sound : (tstep s t).failNext = none) :
    Opens t n s (openNow tag t n d s) ∧ Ended (openNow tag t n d s) tag (some n) 0 0 0 ∧
      Only [.hif, .out, .mem, .pln, .rck, .stp, .pwr, .cor, .book] s (openNow tag t n d s) := by
  rw [openNow_eq sound]
  obtain ⟨ended, frame⟩ := (h.openReady mine n d).endsWith (Only.rfl' _ _) stOK 0 0
  have own : (tstep (done tag stOK 0 0 (openReady tag t n d s)) t).unstalled = _ :=
    (congrArg TenStep.unstalled (tstep_of_stp (frame .stp (by decide)) t)).trans tstep_openReady
  exact ⟨⟨(congrArg TenStep.st own :), ⟨_, (congrArg TenStep.steps own :), rfl, rfl⟩, (congrArg TenStep.next own :),
    (congrArg TenStep.firstDisc own :)⟩, ended, (openReady_frame.mono (by decide)).trans (frame.mono (by decide))⟩

theorem Opens.openStep {u : State} (h : Opens t n s u) (none : openStep s t = none) : openStep u t = some n := by
  obtain ⟨r, steps, num, opened⟩ := h.steps
  rw [Machine.openStep, Option.map_eq_none_iff] at none
  rw [Machine.openStep, steps, List.find?_append, none]
  simp [opened, num]
theorem Opens.take {u : State} (h : Opens t n s u) : (tstep u t).steps.take (tstep s t).steps.length = (tstep s t).steps := by
  obtain ⟨r, steps, -⟩ := h.steps
  rw [steps, List.take_left]

end

/-- A STEP_OPEN that R341 does not stop finds no open step. -/
theorem openFault_none {s : State} {t n : Nat} {first : Bool} (h : openFault s t n first = none) : openStep s t = none := by
  unfold openFault at h
  split at h
  · cases h
  · next closed => simpa using closed

/-- What a STEP_OPEN does in its turn. -/
def openTry (tag : Nat) (l : Live) (s : State) : State :=
  if (tstep s (liveTen l)).st = .recover ∧ (tstep s (liveTen l)).firstDisc ≠ some (stepField l.desc) then completeNow tag stDISCARDED 2 0 s
  else
    match openFault s (liveTen l) (stepField l.desc) (bitOf (fieldAt l.desc 22 1) 0) with
    | some f => stepErr tag f.1 f.2 l s
    | none =>
      if openWaits s (liveTen l) (stepField l.desc) then modLive tag (fun l => { l with stage := .spaceWait }) s
      else openNow tag (liveTen l) (stepField l.desc) l.desc s
theorem exec_stepOpen {s : State} {tag : Nat} {l : Live} (turn : stepTurn s tag 0x50 = some l) :
    exec (.stepOpen tag) s = .next (openTry tag l s) := by
  change execStepOpen tag s = _
  rw [execStepOpen, turn]
  rfl

/-- Settles O20: each branch of a STEP_OPEN in its turn by its own lemma: `completeNow_completes`, `stepErr_ends`, `openNow_opens`. -/
theorem stepOpenOpens : Obligations.StepOpenOpens := by
  intro tag t n l s turn mine names link resumed seals sound
  subst mine names
  have live := stepTurn_live turn
  have ends : MayEnd s tag l := ⟨live, link, resumed, seals⟩
  refine ⟨_, exec_stepOpen turn, fun recover other => ?discarded, fun tries => ?tried⟩
  case discarded =>
    rw [openTry, if_pos ⟨recover, other⟩]
    exact completeNow_completes link resumed tag stDISCARDED 2 0
  case tried =>
    rw [openTry, if_neg (by tauto)]
    refine ⟨fun passes waits => ?waits, fun passes free => ?opens, fun f fails => ?fails⟩
    case waits =>
      simp only [passes, if_pos waits]
      exact ⟨by rw [liveRec_modLive, if_pos rfl, live]; rfl, modLive_frame tag _ s⟩
    case opens =>
      simp only [passes, free]
      obtain ⟨opens, ended, frame⟩ := openNow_opens (n := stepField l.desc) (d := l.desc) ends rfl sound
      exact ⟨opens.st, opens.openStep (openFault_none passes), opens.next, opens.firstDisc, opens.take, ended, frame⟩
    case fails =>
      simp only [fails]
      exact stepErr_ends ends f.1 f.2

end Sys2Proof.Machine
end

section
/-!
STEP_SEAL: the open step closes and seals (R345 to R349 of 09).
-/
namespace Sys2Proof.Machine

/-- A test that accepts whatever stands at a key does not see what is put there. -/
theorem all_put {α : Type} {p : Nat × α → Bool} {k : Nat} (h : ∀ v, p (k, v) = true) (m : Map α) (v : α) : (Map.put m k v).all p = m.all p := by
  induction m with
  | nil => simp [Map.put, h]
  | cons e r ih =>
    obtain ⟨j, w⟩ := e
    obtain lt | rfl | gt := Nat.lt_trichotomy k j
    · simp [Map.put, lt, h]
    · simp [Map.put, h]
    · simp [Map.put, gt.not_gt, gt.ne', ih]

/-- Whether the others have finished does not hang on the seal's own descriptor (R345). -/
theorem othersDone_modLive (t n tag : Nat) (f : Live → Live) (s : State) : othersDone (modLive tag f s) t n tag = othersDone s t n tag := by
  unfold modLive
  split
  · exact all_put (fun _ => by simp) s.hif.live _
  · rfl

/-! ## One turn of the seals (R345 to R349) -/

/-- What `trySeal` does at one step. -/
def sealOne (t : Nat) (r : StepRec) (s : State) : State :=
  match r.sealTag with
  | none => s
  | some tag =>
    match liveRec s tag with
    | none => s
    | some l =>
      if l.stage = .running ∧ l.step = some r.num ∧ othersDone s t r.num tag then
        let s1 := modStep t r.num (fun x => { x with sealAt := nowT s }) (finish tag stOK 0 0 s)
        if bitOf (fieldAt l.desc 22 1) 1 then failStep t r.num 3 s1
        else
          match r.failed with
          | some f => failStep t r.num f s1
          | none =>
            if r.unclean then s1
            else upMsg (.seal t r.num) (modStep t r.num (fun x => { x with handed := true }) s1)
      else s
theorem trySeal_eq (t : Nat) (s : State) : trySeal t s = forS (tstep s t).steps (sealOne t) s := rfl

/-- Only the newest step may have its STEP_SEAL started. -/
theorem trySeal_newest {t : Nat} {old : List StepRec} {r : StepRec} {s : State} (steps : (tstep s t).steps = old ++ [r])
    (plain : ∀ q ∈ old, q.sealTag = none) : trySeal t s = sealOne t r s := by
  have passed : ∀ l : List StepRec, (∀ q ∈ l, q.sealTag = none) → forS l (sealOne t) s = s := fun l hl => by
    induction l with
    | nil => rfl
    | cons q rest ih =>
      have turn : sealOne t q s = s := by simp only [sealOne, hl q List.mem_cons_self]
      rw [forS, List.foldl_cons, turn]
      exact ih fun p hp => hl p (List.mem_cons_of_mem q hp)
  rw [trySeal_eq, steps, forS, List.foldl_append]
  exact congrArg (sealOne t r) (passed old plain)

/-- A step whose STEP_SEAL executes. -/
structure Sealing (t tag : Nat) (r : StepRec) (l : Live) (s : State) : Prop where
  by_ : r.sealTag = some tag
  live : liveRec s tag = some l
  runs : l.stage = .running
  attached : l.step = some r.num

theorem finish_attached {s : State} {tag n : Nat} {l : Live} (live : liveRec s tag = some l) (attached : l.step = some n)
    (status detail result : Nat) : finish tag status detail result s = modLive tag (Live.over status detail result) s := by
  simp only [finish, live, attached]
  rfl

section
variable {t tag : Nat} {r : StepRec} {l : Live} {s : State} (h : Sealing t tag r l s)
include h

theorem Sealing.waits (busy : othersDone s t r.num tag = false) : sealOne t r s = s := by
  simp only [sealOne, h.by_, h.live]
  exact if_neg fun done => absurd done.2.2 (by simp [busy])
/-- A seal that meets no failure, and its report where nothing made the step unclean (R346, R347). -/
theorem Sealing.seals (finished : othersDone s t r.num tag = true) (kept : bitOf (fieldAt l.desc 22 1) 1 = false) (sound : r.failed = none) :
    sealOne t r s =
      let s1 := modStep t r.num (fun x => { x with sealAt := nowT s }) (modLive tag (Live.over 0 0 0) s)
      if r.unclean then s1 else upMsg (.seal t r.num) (modStep t r.num (fun x => { x with handed := true }) s1) := by
  simp only [sealOne, h.by_, h.live, sound]
  rw [if_pos ⟨h.runs, h.attached, finished⟩, if_neg (by simp [kept]), finish_attached h.live h.attached]
  rfl

end

/-! ## STEP_SEAL -/

/-- The step is closed and its STEP_SEAL executes. -/
def closing (tag t n : Nat) (s : State) : State :=
  modStep t n (fun r => { r with opened := false, sealTag := some tag }) (modLive tag (Live.started (some n)) s)

theorem exec_stepSeal {s : State} {tag : Nat} {l : Live} (turn : stepTurn s tag 0x51 = some l) (runs : (tstep s (liveTen l)).st ≠ .recover) :
    exec (.stepSeal tag) s = .next (if openStep s (liveTen l) = some (stepField l.desc) then
      trySeal (liveTen l) (closing tag (liveTen l) (stepField l.desc) s) else stepErr tag 0x0504 0 l s) := by
  change execStepSeal tag s = _
  rw [execStepSeal, turn]
  exact congrArg Host.Outcome.next (if_neg fun refused => runs refused.1)

/-- The newest step is the one of its number. -/
theorem stepRec_newest {t n : Nat} {old : List StepRec} {r : StepRec} {s : State} (steps : (tstep s t).steps = old ++ [r]) (num : r.num = n)
    (others : ∀ q ∈ old, q.num ≠ n) : stepRec s t n = some r := by
  rw [stepRec, steps, List.find?_append, List.find?_eq_none.mpr (by simpa using others)]
  simp [num]

section
variable {tag t n : Nat} {l : Live} {s : State}

theorem closing_frame : Only [.hif, .stp] s (closing tag t n s) := modStep_only t n _ (by decide) (modLive_only tag _ (by decide) (Only.rfl' _ s))
theorem closing_live (live : liveRec s tag = some l) : liveRec (closing tag t n s) tag = some (l.started (some n)) := by
  change liveRec (modLive tag (Live.started (some n)) s) tag = _
  rw [liveRec_modLive, if_pos rfl, live]
  rfl
theorem stepRec_closing {r : StepRec} (known : stepRec s t n = some r) :
    stepRec (closing tag t n s) t n = some { r with opened := false, sealTag := some tag } :=
  stepRec_modStep ((stepRec_of_stp (modLive_stp ..) t n).trans known)
theorem closing_steps {old : List StepRec} {r : StepRec} (steps : (tstep s t).steps = old ++ [r]) (num : r.num = n)
    (others : ∀ q ∈ old, q.num ≠ n) : (tstep (closing tag t n s) t).steps = old ++ [{ r with opened := false, sealTag := some tag }] := by
  have kept : old.map (fun r => if r.num = n then { r with opened := false, sealTag := some tag } else r) = old :=
    (List.map_congr_left fun q hq => if_neg (others q hq)).trans (List.map_id old)
  rw [closing, tstep_modStep, if_pos rfl, tstep_modLive]
  simp [steps, num, kept]

/-- What the seal of the newest step, its only one, comes to. -/
theorem trySeal_closing {old : List StepRec} {r : StepRec} (steps : (tstep s t).steps = old ++ [r]) (num : r.num = n)
    (others : ∀ q ∈ old, q.num ≠ n) (plain : ∀ q ∈ (tstep s t).steps, q.sealTag = none) :
    trySeal t (closing tag t n s) = sealOne t { r with opened := false, sealTag := some tag } (closing tag t n s) :=
  trySeal_newest (closing_steps steps num others) fun q hq => plain q (steps ▸ List.mem_append_left _ hq)

end

/-- A change of a step's record, and a message to the Cellarer, leave how a descriptor has ended. -/
theorem Ended.modStep {s : State} {tag : Nat} {st : Option Nat} {status detail result : Nat} (h : Ended s tag st status detail result)
    (t n : Nat) (f : StepRec → StepRec) : Ended (modStep t n f s) tag st status detail result := h
theorem Ended.upMsg {s : State} {tag : Nat} {st : Option Nat} {status detail result : Nat} (h : Ended s tag st status detail result)
    (m : UpMsg) : Ended (upMsg m s) tag st status detail result := h

/-- What a clean or unclean seal leaves of its step (R346, R347). -/
def StepRec.sealed (tag : Nat) (now : Time) (r : StepRec) : StepRec :=
  { r with opened := false, sealTag := some tag, sealAt := now, handed := r.handed || !r.unclean }

/-- The step is sealed, its STEP_SEAL held OK, and a clean one is told to the Cellarer. -/
structure Seals (tag t n : Nat) (r : StepRec) (s u : State) : Prop where
  rec_ : stepRec u t n = some (r.sealed tag (nowT s))
  up : u.cel.up = s.cel.up ++ (if r.unclean then [] else [.seal t n])
  ended : Ended u tag (some n) 0 0 0
  frame : Only [.hif, .stp, .cel] s u

theorem closing_seals {tag t n : Nat} {l : Live} {r : StepRec} {s : State} (live : liveRec s tag = some l) (known : stepRec s t n = some r)
    (finished : othersDone s t n tag = true) (kept : bitOf (fieldAt l.desc 22 1) 1 = false) (sound : r.failed = none) :
    Seals tag t n r s (sealOne t { r with opened := false, sealTag := some tag } (closing tag t n s)) := by
  have num := stepRec_num known
  subst num
  have here : Sealing t tag { r with opened := false, sealTag := some tag } (l.started (some r.num)) (closing tag t r.num s) :=
    ⟨rfl, closing_live live, rfl, rfl⟩
  have done : othersDone (closing tag t r.num s) t r.num tag = true := (othersDone_modLive ..).trans finished
  have now : nowT (closing tag t r.num s) = nowT s := congrArg (fun x : Tim => (⟨x.s, x.ns⟩ : Time)) (closing_frame .tim (by decide))
  rw [here.seals done kept sound]
  dsimp only
  rw [now]
  have held : liveRec (modLive tag (Live.over 0 0 0) (closing tag t r.num s)) tag = some ((l.started (some r.num)).over 0 0 0) := by
    rw [liveRec_modLive, if_pos rfl, closing_live live]
    rfl
  have ended : Ended (modLive tag (Live.over 0 0 0) (closing tag t r.num s)) tag (some r.num) 0 0 0 := ⟨_, held, rfl, rfl, rfl, rfl, rfl⟩
  have before : stepRec (modLive tag (Live.over 0 0 0) (closing tag t r.num s)) t r.num = _ :=
    (stepRec_of_stp (modLive_stp ..) t r.num).trans (stepRec_closing known)
  have frame : Only [.hif, .stp] s (modLive tag (Live.over 0 0 0) (closing tag t r.num s)) := modLive_only tag _ (by decide) closing_frame
  generalize modLive tag (Live.over 0 0 0) (closing tag t r.num s) = m at ended before frame
  have cel : m.cel = s.cel := frame .cel (by decide)
  have timed := stepRec_modStep (f := fun x => { x with sealAt := nowT s }) before
  have timedFrame : Only [.hif, .stp, .cel] s (modStep t r.num (fun x => { x with sealAt := nowT s }) m) :=
    modStep_only t r.num _ (by decide) (frame.mono (by decide))
  split
  · next unclean =>
    exact ⟨by rw [timed]; simp [StepRec.sealed, unclean], (congrArg Cel.up cel).trans (by simp [unclean]), ended.modStep t r.num _, timedFrame⟩
  · next clean =>
    refine ⟨(stepRec_modStep (f := fun x => { x with handed := true }) timed).trans ?_,
      (congrArg (fun c : Cel => c.up ++ [.seal t r.num]) cel).trans (by simp [clean]), Ended.upMsg ((ended.modStep t r.num _).modStep t r.num _) _,
      upMsg_only _ (by decide) (modStep_only t r.num _ (by decide) timedFrame)⟩
    simp [StepRec.sealed, clean]

/-- Settles O21: a STEP_SEAL of another step is `stepErr_ends`; the open step closes, and its one turn of the seals waits
(`Sealing.waits`) or seals (`closing_seals`). -/
theorem stepSealSeals : Obligations.StepSealSeals := by
  intro tag t n l s turn mine names link resumed plain runs
  subst mine names
  have live := stepTurn_live turn
  refine ⟨_, exec_stepSeal turn runs, fun other => ?other, fun old r steps num opened is others => ?own⟩
  case other =>
    rw [if_neg other]
    exact stepErr_ends ⟨live, link, resumed, plain⟩ 0x0504 0
  case own =>
    have known := stepRec_newest steps num others
    rw [if_pos is, trySeal_closing steps num others plain]
    refine ⟨fun busy => ?waits, fun finished kept sound => ?seals⟩
    case waits =>
      have here : Sealing (liveTen l) tag { r with opened := false, sealTag := some tag } (l.started (some (stepField l.desc)))
        (closing tag (liveTen l) (stepField l.desc) s) := ⟨rfl, closing_live live, rfl, congrArg some num.symm⟩
      rw [here.waits (by rw [num]; exact (othersDone_modLive ..).trans busy)]
      exact ⟨stepRec_closing known, closing_live live, closing_frame⟩
    case seals =>
      have seals := closing_seals live known finished kept sound
      exact ⟨seals.rec_, seals.up, seals.ended, seals.frame⟩

end Sys2Proof.Machine
end

section
/-!
STEP_RESYNC and STEP_QUERY (R373, R376 of 09).
-/
namespace Sys2Proof.Machine

theorem started_tstep {tag : Nat} {st : Option Nat} {s : State} (t : Nat) : tstep (modLive tag (Live.started st) s) t = tstep s t :=
  tstep_modLive tag _ s t

/-! ## STEP_RESYNC (R373) -/

/-- A tenant's steps go on from step n (R373, Table 09.12). -/
def TenStep.resynced (n : Nat) (x : TenStep) : TenStep :=
  { x with st := if x.steps.isEmpty then .idle else .run, next := some n, split := false, firstDisc := none }

/-- What a STEP_RESYNC that starts does. -/
def resyncTry (tag : Nat) (s : State) : State :=
  match liveRec s tag with
  | none => s
  | some l =>
    match (tstep s (liveTen l)).st with
    | .run => done tag 0x0505 0 0 s
    | _ =>
      if (tstep s (liveTen l)).restoring then modLive tag (fun l => { l with stage := .spaceWait }) s
      else resyncNow tag (liveTen l) l.desc s

section
variable {tag : Nat} {l : Live} {s : State} (live : liveRec s tag = some l)
include live

theorem resyncTry_run (run : (tstep s (liveTen l)).st = .run) : resyncTry tag s = done tag 0x0505 0 0 s := by
  simp only [resyncTry, live, run]
theorem resyncTry_goes (idle : (tstep s (liveTen l)).st ≠ .run) (restored : (tstep s (liveTen l)).restoring = false) :
    resyncTry tag s = done tag 0 0 0 (modTstep (liveTen l) (TenStep.resynced (stepField l.desc)) s) := by
  have goes : resyncTry tag s = resyncNow tag (liveTen l) l.desc s := by
    cases st : (tstep s (liveTen l)).st with
    | run => exact absurd st idle
    | idle => simp [resyncTry, live, st, restored]
    | recover => simp [resyncTry, live, st, restored]
  exact goes

end

section
variable {tag : Nat} {l : Live} {st : Option Nat} {s : State} (h : Starts s tag 0x52 l st)
include h

theorem exec_stepResync : exec (.stepResync tag) s = .next (resyncTry tag (modLive tag (Live.started st) s)) :=
  congrArg Host.Outcome.next (startDesc_go h _)
theorem exec_stepResync_run (run : (tstep s (liveTen l)).st = .run) :
    exec (.stepResync tag) s = .next (done tag 0x0505 0 0 (modLive tag (Live.started st) s)) :=
  (exec_stepResync h).trans (congrArg _ (resyncTry_run h.mayEnd.live (by rw [started_tstep]; exact run)))
theorem exec_stepResync_goes (idle : (tstep s (liveTen l)).st ≠ .run) (restored : (tstep s (liveTen l)).restoring = false) :
    exec (.stepResync tag) s = .next (done tag 0 0 0
      (modTstep (liveTen l) (TenStep.resynced (stepField l.desc)) (modLive tag (Live.started st) s))) :=
  (exec_stepResync h).trans (congrArg _ (resyncTry_goes (l := l.started st) h.mayEnd.live (by rw [started_tstep]; exact idle)
    (by rw [started_tstep]; exact restored)))

end

/-- A change of a tenant's steps that keeps their records. -/
theorem MayEnd.modTstep {s : State} {tag : Nat} {l : Live} (h : MayEnd s tag l) (t : Nat) {f : TenStep → TenStep}
    (hf : ∀ x, (f x).steps = x.steps) : MayEnd (modTstep t f s) tag l where
  live := h.live
  link := h.link
  resumed := h.resumed
  seals := by
    rw [tstep_modTstep]
    split
    · next e => rw [hf, ← e]; exact h.seals
    · exact h.seals

/-! ## STEP_QUERY (R376) -/

/-- The result of a STEP_QUERY. -/
def queryResult (x : TenStep) : Nat :=
  x.drawn.getD 0 % 2 ^ 48 + stepCode x.st * 2 ^ 48 + x.steps.length % 4 * 2 ^ 50 + x.reason % 256 * 2 ^ 52

theorem exec_stepQuery {tag : Nat} {l : Live} {st : Option Nat} {s : State} (h : Starts s tag 0x53 l st) :
    exec (.stepQuery tag) s = .next (done tag 0 0 (queryResult (tstep s (liveTen l))) (modLive tag (Live.started st) s)) := by
  refine congrArg Host.Outcome.next ((startDesc_go h _).trans ?_)
  simp only [started_live h]
  exact congrArg (fun x => done tag 0 0 (queryResult x) (modLive tag (Live.started st) s)) (started_tstep (liveTen l))

/-- Settles O22: STEP_RESYNC in RUN and STEP_QUERY are a `done`; outside RUN the steps are `TenStep.resynced` before it. -/
theorem resyncAndQuery : Obligations.ResyncAndQuery := by
  refine ⟨fun tag l st s h idle restored => ?goes, fun tag l st s h run => ?busy, fun tag n k r l st s h hn hk le hr lt => ?query⟩
  case goes =>
    have ends := h.mayEnd.modTstep (liveTen l) (f := TenStep.resynced (stepField l.desc)) fun _ => rfl
    obtain ⟨ended, frame⟩ := ends.endsWith (Only.rfl' _ _) 0 0 0
    have stp : (done tag 0 0 0 (modTstep (liveTen l) (TenStep.resynced (stepField l.desc)) (modLive tag (Live.started st) s))).stp =
      _ := frame .stp (by decide)
    have own := (tstep_of_stp stp (liveTen l)).trans ((tstep_modTstep ..).trans (if_pos rfl))
    rw [started_tstep] at own
    refine ⟨_, exec_stepResync_goes h idle restored, (congrArg TenStep.next own :), (congrArg TenStep.split own :), (congrArg TenStep.st own :),
      (congrArg TenStep.steps own :), (congrArg TenStep.drawn own :), fun k hk => ?_, ended, ?_⟩
    · rw [tstep_of_stp stp, tstep_modTstep, if_neg hk, started_tstep]
    · exact (modTstep_only _ _ (by decide) ((modLive_flow tag _ s).mono (by decide))).trans (frame.mono (by decide))
  case busy =>
    exact ⟨_, exec_stepResync_run h run, h.mayEnd.endsWith (modLive_flow tag _ s) 0x0505 0 0⟩
  case query =>
    have result : queryResult (tstep s (liveTen l)) = n + 2 ^ 48 * stepCode (tstep s (liveTen l)).st + 2 ^ 50 * k + 2 ^ 52 * r := by
      have count : k % 4 = k := Nat.mod_eq_of_lt (Nat.lt_succ_of_le le)
      have reason : r % 256 = r := Nat.mod_eq_of_lt lt
      rw [queryResult, ← hn, ← hk, ← hr, count, reason]
      ring
    have runs := exec_stepQuery h
    rw [result] at runs
    exact ⟨_, runs, h.mayEnd.endsWith (modLive_flow tag _ s) 0 0 _⟩

end Sys2Proof.Machine
end

section
/-!
Draws of a step, and what they leave of the steps of a tenant with no descriptor live (R117, R352 to R355, R402, R534 of 09 and 14).
-/
namespace Sys2Proof.Machine

/-! ## A tenant without live descriptors -/

theorem writeCompl_liveMap (tag : Nat) (l : Live) (s : State) : (writeCompl tag l s).hif.live = s.hif.live := by
  unfold writeCompl
  split
  · split
    · obtain ⟨_, _, e⟩ := writeEntry_hif (ringCq s l.ring) (complBytes s tag l) (bitOf (flagsOf l.desc) 1) s
      rw [e]
    · exact ringError_liveMap ..
  · rfl
theorem freeTag_liveMap (tag : Nat) (l : Live) (s : State) : (freeTag tag l s).hif.live = Map.del s.hif.live tag := by
  rw [freeTag, settleRing_liveMap, settleRing_liveMap]
  rfl

/-- No descriptor of tenant t is live. -/
def NoneLive (t : Nat) (s : State) : Prop := ∀ e ∈ s.hif.live, liveTen e.2 ≠ t

namespace NoneLive
variable {t : Nat} {s : State}

theorem of_live {u : State} (h : NoneLive t s) (e : u.hif.live = s.hif.live) : NoneLive t u := fun x hx => h x (e ▸ hx)
theorem of_only {ps : List Part} {u : State} (h : NoneLive t s) (k : Only ps s u) (m : Part.hif ∉ ps) : NoneLive t u :=
  h.of_live (congrArg Hif.live (k .hif m))
theorem if_ok {p : Prop} [Decidable p] {x y : State} (hx : NoneLive t x) (hy : NoneLive t y) : NoneLive t (if p then x else y) := by
  split
  · exact hx
  · exact hy
theorem forS {α : Type} {l : List α} {f : α → State → State} (h : NoneLive t s) (hf : ∀ q x, NoneLive t x → NoneLive t (f q x)) :
    NoneLive t (forS l f s) := forS_holds (NoneLive t) (fun q _ => hf q) h

theorem noteT (h : NoneLive t s) (x code subject detail : Nat) : NoneLive t (noteT x code subject detail s) :=
  h.of_live (noteT_liveMap ..)
theorem updStall (h : NoneLive t s) (k : Nat) : NoneLive t (updStall k s) := h.of_live (updStall_restalls k s).live
theorem modLive (h : NoneLive t s) (tag : Nat) {f : Live → Live} (hf : ∀ l, (f l).ring = l.ring := by intro _; rfl) :
    NoneLive t (modLive tag f s) := by
  unfold Machine.modLive
  split
  · next l live =>
    intro e he
    obtain rfl | old := mem_put he
    · rw [liveTen, hf]
      exact h _ (mem_of_find live)
    · exact h e old
  · exact h
theorem postHeld (h : NoneLive t s) (tag : Nat) : NoneLive t (postHeld tag s) := by
  unfold Machine.postHeld
  split
  · exact h
  · refine if_ok (fun e he => ?_) (h.modLive tag)
    rw [freeTag_liveMap, writeCompl_liveMap] at he
    exact h e (List.mem_of_mem_filter he)
theorem modTstep (h : NoneLive t s) (k : Nat) (f : TenStep → TenStep) : NoneLive t (modTstep k f s) := h
theorem modTenRack (h : NoneLive t s) (x : Nat) (f : TenRack → TenRack) : NoneLive t (modTenRack x f s) := h
theorem toBuddy (h : NoneLive t s) (b k c : Nat) (bytes : List Byte) : NoneLive t (toBuddy b k c bytes s) :=
  h.of_only (toBuddy_only (fr := [.out, .vnl]) b k c bytes (by decide) (by decide) (Only.rfl' _ s)) (by decide)
theorem finish (h : NoneLive t s) (tag status detail result : Nat) : NoneLive t (finish tag status detail result s) := by
  unfold Machine.finish
  split
  · exact h
  · dsimp only
    split
    · exact h.modLive tag
    · exact NoneLive.postHeld (h.modLive tag) tag

theorem rackEnd (h : NoneLive t s) (tag x n status detail result : Nat) : NoneLive t (rackEnd tag x n status detail result s) :=
  if_ok (h.finish tag status detail result) (if_ok (h.noteT _ _ _ _) h)
theorem rackFit (h : NoneLive t s) : NoneLive t (rackFit s) := by
  unfold Machine.rackFit
  split
  · exact h
  · dsimp only
    split
    · exact NoneLive.rackEnd (h.of_only (setSlot_only (fr := [.rck]) _ _ (by decide) (modRck_only _ (by decide) (Only.rfl' _ s))) (by decide))
        _ _ _ _ _ _
    · exact h
theorem rackEffect (h : NoneLive t s) (tag x n : Nat) (graft narrow : Bool) : NoneLive t (rackEffect tag x n graft narrow s) := by
  unfold Machine.rackEffect
  dsimp only
  have filled (k : Nat) (f : Slot → Slot) (g : Rck → Rck) : NoneLive t (modRck g (setSlot k f s)) :=
    h.of_only (modRck_only (ps := [.rck]) g (by decide) (setSlot_only k f (by decide) (Only.rfl' _ s))) (by decide)
  split
  · exact h.rackEnd _ _ _ _ _ _
  · split
    · exact h.rackEnd _ _ _ _ _ _
    · refine if_ok (h.rackEnd _ _ _ _ _ _) ?_
      split
      · exact h.rackEnd _ _ _ _ _ _
      · refine if_ok (h.rackEnd _ _ _ _ _ _) ?_
        split
        · exact if_ok (NoneLive.toBuddy (filled _ _ _) _ _ _ _) (NoneLive.rackFit (filled _ _ _))
        · exact NoneLive.rackFit (NoneLive.modTenRack (filled _ _ _) _ _)

theorem setGraft (h : NoneLive t s) (x g : Nat) : NoneLive t (setGraft x g s) := by
  unfold Machine.setGraft
  split
  · exact h
  · exact NoneLive.noteT (h.modTenRack x _) _ _ _ _
theorem graftStart (h : NoneLive t s) (x n : Nat) : NoneLive t (graftStart x n s) := by
  unfold Machine.graftStart
  dsimp only
  have unwritten := h.modTenRack x (fun y => { y with written := y.written.filter (fun w => decide (w.1 ≠ n)) })
  generalize Machine.modTenRack x (fun y => { y with written := y.written.filter (fun w => decide (w.1 ≠ n)) }) s = s0 at unwritten ⊢
  split
  · exact if_ok unwritten (NoneLive.setGraft (unwritten.modTenRack x _) _ _)
  · refine if_ok (unwritten.setGraft _ _) (if_ok (unwritten.setGraft _ _) (NoneLive.modTenRack (NoneLive.toBuddy (NoneLive.forS ?_ ?_) _ _ _ _) _ _))
    · exact if_ok (unwritten.setGraft _ _) unwritten
    · exact fun _ _ hy => hy.toBuddy _ _ _ _

theorem trigAct (h : NoneLive t s) (k : Nat) : NoneLive t (trigAct k s) := by
  have posted (x : Nat) (p q : Post) : NoneLive t (makePost x none none p (makePost x none none q s)) :=
    h.of_only (makePost_only (fr := [.cor]) _ _ _ _ (by decide) (makePost_only _ _ _ _ (by decide) (Only.rfl' _ s))) (by decide)
  exact if_ok (posted _ _ _) (if_ok (h.noteT _ _ _ _) (if_ok (h.rackEffect _ _ _ _ _) h))
theorem trigRelease (h : NoneLive t s) (x : Nat) : NoneLive t (trigRelease x s) := h.forS fun k _ hy =>
  if_ok ((NoneLive.trigAct (NoneLive.of_only hy (modTrig_only (fr := [.tim]) k _ (by decide) (Only.rfl' _ _)) (by decide)) k).of_only
    (rearm_only (fr := [.tim]) k (by decide) (Only.rfl' _ _)) (by decide)) hy

end NoneLive

/-- No descriptor of the tenant waits for a step or for the lees. -/
def NoWait (t : Nat) (s : State) : Prop := ∀ e ∈ s.hif.live, liveTen e.2 = t → e.2.stage ≠ .spaceWait

theorem NoneLive.noWait {t : Nat} {s : State} (h : NoneLive t s) : NoWait t s := fun e he mine => absurd mine (h e he)
theorem NoWait.of_live {t : Nat} {s u : State} (h : NoWait t s) (e : u.hif.live = s.hif.live) : NoWait t u := fun x hx => h x (e ▸ hx)
theorem NoWait.filter_nil {t : Nat} {s : State} (h : NoWait t s) (op : Nat) :
    s.hif.live.filter (fun e => decide (liveTen e.2 = t) && decide (e.2.stage = .spaceWait) && decide (opcodeOf e.2.desc = op)) = [] :=
  List.filter_eq_nil_iff.mpr fun e he waits => by
    simp only [Bool.and_eq_true, decide_eq_true_eq] at waits
    exact h e he waits.1.1 waits.1.2

theorem wakeOpens_idle {t : Nat} {s : State} (h : NoWait t s) : wakeOpens t s = s := by
  rw [wakeOpens, h.filter_nil]
  rfl
theorem wakeResyncs_idle {t : Nat} {s : State} (h : NoWait t s) : wakeResyncs t s = s := by
  rw [wakeResyncs, h.filter_nil]
  rfl
theorem wakeRacks_idle {t : Nat} {s : State} (h : NoWait t s) : wakeRacks t s = s := by
  rw [wakeRacks, h.filter_nil]
  rfl

/-! ## A draw (R355) -/

/-- A tenant's steps once step n is drawn. -/
def TenStep.drew (n : Nat) (x : TenStep) : TenStep :=
  { x with
    steps := x.steps.filter (fun q => decide (q.num ≠ n)), drawn := some n, dead := x.dead.filter (fun k => decide (n < k)),
    st := if x.st = .run ∧ x.steps.length ≤ 1 then .idle else x.st }
/-- The lees and the must hold once step n of tenant t is drawn: a rack may still need pre-images of it, its held writes are to go out. -/
def Stp.drew (t n : Nat) (needed : PreImg → Bool) (x : Stp) : Stp :=
  { x with
    lees := (x.lees.map (fun y => if decide (y.tenant = t) && decide (y.step = n) && needed y then { y with kept := true } else y)).filter
      (fun y => decide (y.tenant ≠ t) || decide (y.step ≠ n) || y.kept),
    draining := x.draining ++ x.hold.filter (fun h => decide (h.tenant = t) && decide (h.step = n)),
    hold := x.hold.filter (fun h => decide (h.tenant ≠ t) || decide (h.step ≠ n)),
    draws := satAdd 32 x.draws 1 }

/-- Step n of tenant t, which has no descriptor live, is drawn between `s` and `u`; the measures of draws and the held events aside. -/
structure Drew (t n : Nat) (s u : State) : Prop where
  none : NoneLive t u
  stp : ∃ last max evs, u.stp = { (modTstep t (TenStep.drew n) (modStp (Stp.drew t n (neededByRack s)) s)).stp with
    drawLast := last, drawMax := max, holdEv := evs }

section
variable {t n : Nat} {s u : State}

theorem Drew.of_same (h : Drew t n s u) {v : State} (none : NoneLive t v) (e : v.stp = u.stp) : Drew t n s v where
  none := none
  stp := e ▸ h.stp
theorem Drew.of_only {ps : List Part} (h : Drew t n s u) {v : State} (k : Only ps u v) (hif : Part.hif ∉ ps) (stp : Part.stp ∉ ps) :
    Drew t n s v := h.of_same (h.none.of_only k hif) (k .stp stp)
theorem Drew.graftStart (h : Drew t n s u) : Drew t n s (graftStart t n u) :=
  h.of_same (h.none.graftStart t n)
    (graftStart_only (fr := [.out, .hif, .vnl, .rck, .book]) t n (by decide) (by decide) (by decide) (by decide) (by decide) (Only.rfl' _ u)
      .stp (by decide))
theorem Drew.postEvent (h : Drew t n s u) (k code subject detail : Nat) : Drew t n s (postEvent k code subject detail u) :=
  h.of_same (h.none.of_live (postEvent_liveMap ..))
    (postEvent_only (fr := [.out, .hif]) k code subject detail (by decide) (by decide) (Only.rfl' _ u) .stp (by decide))
theorem Drew.withEvents (h : Drew t n s u) (f : List HoldE → List HoldE) :
    Drew t n s (modStp (fun x => { x with holdEv := f x.holdEv }) u) where
  none := h.none
  stp := by
    obtain ⟨last, max, _, e⟩ := h.stp
    exact ⟨last, max, _, by rw [modStp_stp, e]⟩
theorem Drew.forS {α : Type} {l : List α} {f : α → State → State} (h : Drew t n s u) (hf : ∀ q x, Drew t n s x → Drew t n s (f q x)) :
    Drew t n s (forS l f u) := forS_holds (Drew t n s) (fun q _ => hf q) h

/-- A draw within the module is not measured. -/
theorem drew_alone (none : NoneLive t s) : Drew t n s (modTstep t (TenStep.drew n) (modStp (Stp.drew t n (neededByRack s)) s)) :=
  ⟨none, _, _, _, rfl⟩
/-- The measures of a draw of the parcel and the judging of its lateness (R352, R448) touch no more of the steps. -/
theorem drew_measured (none : NoneLive t s) (b own late early : Nat) (f g : Nat → Nat) :
    Drew t n s (modTstep t (TenStep.drew n) (judgeLate b own late early
      (modStp (fun x => { x with drawLast := f x.drawLast, drawMax := g x.drawMax }) (modStp (Stp.drew t n (neededByRack s)) s)))) := by
  have judged (x : State) : Only [.cel, .pol, .book] x (judgeLate b own late early x) :=
    judgeLate_only b own late early (by decide) (by decide) (by decide) (Only.rfl' _ x)
  generalize hx : modStp _ (modStp (Stp.drew t n (neededByRack s)) s) = x
  refine ⟨NoneLive.modTstep (NoneLive.of_only (hx ▸ none) (judged x) (by decide)) t _, f s.stp.drawLast, g s.stp.drawMax, s.stp.holdEv, ?_⟩
  rw [modTstep, modStp_stp, judged x .stp (by decide), ← hx]
  rfl

/-- What follows a draw before the tenant's steps go on: handles stand, the step graft starts, tallies and held events leave (R355). -/
def drawTail (t n : Nat) (evs : List HoldE) (s : State) : State :=
  settleFrees t (forS evs (fun h => postEvent h.tenant h.code h.subject h.detail)
    (modStp (fun x => { x with holdEv := x.holdEv.filter (fun h => decide (h.tenant ≠ t) || decide (h.step ≠ n)) })
      (releaseTallies t n (graftStart t n (standHandles t n s)))))
theorem Drew.tail (h : Drew t n s u) (evs : List HoldE) : Drew t n s (drawTail t n evs u) := by
  have stands := h.of_only (standHandles_only (fr := [.mem, .pln]) t n (by decide) (by decide) (Only.rfl' _ u)) (by decide) (by decide)
  have told := stands.graftStart.of_only (releaseTallies_only (fr := [.out, .dbg]) t n (by decide) (by decide) (Only.rfl' _ _)) (by decide)
    (by decide)
  exact Drew.of_only (Drew.forS (told.withEvents (List.filter _)) fun h x hx => hx.postEvent _ _ _ _)
    (settleFrees_only (fr := [.mem, .pln]) t (by decide) (by decide) (Only.rfl' _ _)) (by decide) (by decide)

theorem forS_nil {α : Type} (f : α → State → State) (s : State) : forS [] f s = s := rfl
theorem oldest_known (oldest : oldestStep s t = some n) : ∃ r, stepRec s t n = some r := by
  rw [oldestStep] at oldest
  obtain ⟨r, head, rfl⟩ := Option.map_eq_some_iff.mp oldest
  obtain ⟨rest, steps⟩ := List.head?_eq_some_iff.mp head
  exact ⟨r, by rw [stepRec, steps]; simp⟩

/-- What a draw comes to for a tenant without live descriptors, before what waited for it goes on. -/
theorem drawStep_draws (oldest : oldestStep s t = some n) (none : NoneLive t s) (p : Nat) (spread : Option (Nat × Nat × Nat)) :
    ∃ u, drawStep t n p spread s = serveOwed t (wakeOpens t (trigRelease t (pump (updStall t u)))) ∧ Drew t n s u := by
  obtain ⟨r, known⟩ := oldest_known oldest
  have nothing : s.hif.live.filter (fun e => decide (liveTen e.2 = t) && decide (e.2.step = some n)) = [] :=
    List.filter_eq_nil_iff.mpr fun e he mine => none e he (by
      simp only [Bool.and_eq_true, decide_eq_true_eq] at mine
      exact mine.1)
  simp only [drawStep, known, oldest, nothing, List.map_nil, forS_nil]
  rw [if_neg (by simp)]
  match spread with
  | .none => exact ⟨_, rfl, (drew_alone none).tail (s.stp.holdEv.filter (fun h => decide (h.tenant = t) && decide (h.step = n)))⟩
  | some (b, late, early) =>
    exact ⟨_, rfl, (drew_measured none b (packT r.sealAt) late early (fun _ => min (nsSince s r.sealAt) (2 ^ 24 - 1))
      (fun x => max x (min (nsSince s r.sealAt) (2 ^ 24 - 1)))).tail
        (s.stp.holdEv.filter (fun h => decide (h.tenant = t) && decide (h.step = n)))⟩

end

end Sys2Proof.Machine
end

section
/-!
The messages of job steps: REPORT, DRAW and FAIL (R351 to R353, R368 of 09).
-/
namespace Sys2Proof.Machine

/-! ## A step is drawn for a tenant without live descriptors (R355) -/

/-- What a draw of step n of tenant t leaves of its steps, of the lees and of the must hold. -/
structure Draws (t n : Nat) (s u : State) : Prop where
  drawn : (tstep u t).drawn = some n
  counted : u.stp.draws = satAdd 32 s.stp.draws 1
  steps : (tstep u t).steps = (tstep s t).steps.filter (fun q => decide (q.num ≠ n))
  lees : ∀ x ∈ u.stp.lees, x.tenant = t → x.step = n → x.kept = true
  hold : ∀ h ∈ u.stp.hold, ¬ (h.tenant = t ∧ h.step = n)
  draining : u.stp.draining = s.stp.draining ++ s.stp.hold.filter (fun h => decide (h.tenant = t) && decide (h.step = n))

section
variable {t n : Nat} {s u : State}

theorem Drew.tstep_eq (h : Drew t n s u) : tstep u t = (tstep s t).drew n := by
  obtain ⟨last, max, evs, stp⟩ := h.stp
  rw [tstep, stp]
  exact (tstep_modTstep t t (TenStep.drew n) (modStp (Stp.drew t n (neededByRack s)) s)).trans (if_pos rfl)
theorem Drew.draws (h : Drew t n s u) : Draws t n s u := by
  have own := h.tstep_eq
  obtain ⟨last, max, evs, stp⟩ := h.stp
  refine ⟨by rw [own]; rfl, by rw [stp]; rfl, by rw [own]; rfl, fun x hx ten step => ?_, fun w hw => ?_, by rw [stp]; rfl⟩
  · rw [stp] at hx
    have kept := (List.mem_filter.mp hx).2
    simpa [ten, step] using kept
  · rw [stp] at hw
    have kept := (List.mem_filter.mp hw).2
    simp only [Bool.or_eq_true, decide_eq_true_eq] at kept
    tauto

/-- Bringing the stall mark up to date and what follows a draw leave what the draw made. -/
theorem Draws.of_restalls {v : State} (h : Draws t n s u) (k : Restalls t u v) : Draws t n s v :=
  ⟨k.drawn.trans h.drawn, k.draws.trans h.counted, k.steps.trans h.steps, k.lees ▸ h.lees, k.hold ▸ h.hold, k.draining.trans h.draining⟩
theorem Draws.of_stp {v : State} (h : Draws t n s u) (e : v.stp = u.stp) : Draws t n s v :=
  ⟨by rw [tstep_of_stp e, h.drawn], by rw [e, h.counted], by rw [tstep_of_stp e, h.steps], e ▸ h.lees, e ▸ h.hold, by rw [e, h.draining]⟩
theorem Draws.since {a : State} (h : Draws t n s u) (e : s.stp = a.stp) : Draws t n a u :=
  ⟨h.drawn, by rw [h.counted, e], by rw [h.steps, tstep_of_stp e], h.lees, h.hold, by rw [h.draining, e]⟩

theorem drawStep_leaves (oldest : oldestStep s t = some n) (none : NoneLive t s) (p : Nat) (spread : Option (Nat × Nat × Nat)) :
    Draws t n s (drawStep t n p spread s) := by
  obtain ⟨u, draw, drew⟩ := drawStep_draws oldest none p spread
  have pumped : Only [.mem, .pln, .rck] (updStall t u) (pump (updStall t u)) :=
    pump_only (by decide) (by decide) (by decide) (Only.rfl' _ _)
  have released : Only [.out, .hif, .cor, .vnl, .rck, .tim, .book] (pump (updStall t u)) (trigRelease t (pump (updStall t u))) :=
    trigRelease_only t (by decide) (by decide) (by decide) (by decide) (by decide) (by decide) (by decide) (Only.rfl' _ _)
  have still : NoneLive t (trigRelease t (pump (updStall t u))) :=
    NoneLive.trigRelease (NoneLive.of_only (drew.none.updStall t) pumped (by decide)) t
  rw [draw, wakeOpens_idle still.noWait]
  refine (drew.draws.of_restalls (updStall_restalls t u)).of_stp ?_
  exact (serveOwed_only (fr := [.out, .vnl, .rck]) t (by decide) (by decide) (by decide) (Only.rfl' _ _) .stp (by decide)).trans
    ((released .stp (by decide)).trans (pumped .stp (by decide)))

end

/-! ## A message is taken (R351 to R353, R368) -/

/-- The message stands in the inbox: it leaves it, and nothing else has changed. -/
theorem dropInbox_frame (i : Nat) (s : State) : Only [.vnl] s (dropInbox i s) := dropInbox_only i (by decide) (Only.rfl' _ s)

section
variable {i b : Nat} {m : List Byte} {s : State}

theorem exec_stepReport (h : inboxAt s i 0x10 = some (b, m)) : exec (.stepReport i) s = .next (takeReport b m (dropInbox i s)) := by
  change execStepReport i s = _
  rw [execStepReport, h]
theorem exec_stepDraw (h : inboxAt s i 0x11 = some (b, m)) : exec (.stepDraw i) s = .next (takeDraw b m (dropInbox i s)) := by
  change execStepDraw i s = _
  rw [execStepDraw, h]
theorem exec_stepFail (h : inboxAt s i 0x12 = some (b, m)) : exec (.stepFail i) s = .next (takeFail b m (dropInbox i s)) := by
  change execStepFail i s = _
  rw [execStepFail, h]

/-- The report a REPORT carries (Table 09.5). -/
def reportOf (m : List Byte) : Rep := ⟨fieldAt m 10 2, fieldAt m 16 4, fieldAt m 12 2, fieldAt m 20 8, fieldAt m 28 8⟩
/-- A step, or the reports kept for later ones, with one more report. -/
def StepRec.reported (r : Rep) (x : StepRec) : StepRec := { x with reps := x.reps ++ [r] }
def TenStep.reportedEarly (n : Nat) (r : Rep) (x : TenStep) : TenStep := { x with early := x.early ++ [(n, r)] }

theorem takeReport_over (past : stepOver s (bindTen s b) (fieldAt m 4 6) = true) : takeReport b m s = s := if_pos past
theorem takeReport_early (open_ : stepOver s (bindTen s b) (fieldAt m 4 6) = false) (unknown : stepRec s (bindTen s b) (fieldAt m 4 6) = none)
    (new : ∀ q ∈ (tstep s (bindTen s b)).early, q.1 = fieldAt m 4 6 → q.2.sender ≠ fieldAt m 10 2) :
    takeReport b m s = modTstep (bindTen s b) (TenStep.reportedEarly (fieldAt m 4 6) (reportOf m)) s := by
  simp only [takeReport, open_, unknown]
  rw [if_neg (by simp)]
  refine if_neg fun known => ?_
  obtain ⟨q, hq, same⟩ := List.any_eq_true.mp known
  simp only [Bool.and_eq_true, decide_eq_true_eq] at same
  exact new q hq same.1 same.2
theorem takeReport_joins {x : StepRec} (open_ : stepOver s (bindTen s b) (fieldAt m 4 6) = false)
    (known : stepRec s (bindTen s b) (fieldAt m 4 6) = some x) (new : ∀ q ∈ x.reps, q.sender ≠ fieldAt m 10 2) :
    takeReport b m s = tryReport (bindTen s b) (fieldAt m 4 6) (modStep (bindTen s b) (fieldAt m 4 6) (StepRec.reported (reportOf m)) s) := by
  simp only [takeReport, open_, known]
  rw [if_neg (by simp)]
  refine if_neg fun twice => ?_
  obtain ⟨q, hq, same⟩ := List.any_eq_true.mp twice
  exact new q hq (by simpa using same)
/-- No report leaves before the member's own has arrived (R351). -/
theorem tryReport_waits {t n : Nat} {x : StepRec} (known : stepRec s t n = some x) (waits : x.arrived = false) : tryReport t n s = s := by
  rw [tryReport, known]
  split
  · next r _ e _ =>
    obtain rfl := Option.some.inj e
    exact if_pos (.inl (by simp [waits]))
  · rfl

theorem takeDraw_over (past : stepOver s (bindTen s b) (fieldAt m 4 6) = true) : takeDraw b m s = s := if_pos past
theorem takeDraw_draws (open_ : stepOver s (bindTen s b) (fieldAt m 4 6) = false)
    (oldest : oldestStep s (bindTen s b) = some (fieldAt m 4 6)) (none : NoneLive (bindTen s b) s) :
    Draws (bindTen s b) (fieldAt m 4 6) s (takeDraw b m s) := by
  rw [takeDraw]
  dsimp only
  rw [if_neg (by simp [open_])]
  have told : ∀ bytes, Only [.out, .vnl] s (toChildren b bytes s) := fun bytes =>
    toChildren_only b bytes (by decide) (by decide) (Only.rfl' _ s)
  refine (drawStep_leaves ?_ (none.of_only (told _) (by decide)) _ _).since (told _ .stp (by decide))
  rw [oldestStep, tstep_of_stp (told _ .stp (by decide))]
  exact oldest

/-- A FAIL from the parent for an undrawn step (R368). -/
theorem takeFail_discards {x : StepRec} (leaf : bindCoord s b ≠ drawRoot s b)
    (parent : drawParent s b (bindCoord s b) = some (fieldAt m 10 2))
    (undrawn : ∀ k, (tstep s (bindTen s b)).drawn = some k → k < fieldAt m 4 6) (known : stepRec s (bindTen s b) (fieldAt m 4 6) = some x) :
    Discards (bindTen s b) (fieldAt m 4 6) 2 s (takeFail b m s) := by
  have told : ∀ bytes, (toChildren b bytes s).stp = s.stp := fun bytes =>
    toChildren_only (fr := [.out, .vnl]) b bytes (by decide) (by decide) (Only.rfl' _ s) .stp (by decide)
  simp only [takeFail, if_neg leaf, if_pos parent]
  split
  · next k drawn =>
    rw [if_neg (by have := undrawn k drawn; simp; omega)]
    exact (discard_discards ((stepRec_of_stp (told _) ..).trans known) 2 _).of_stp (told _) rfl
  · exact (discard_discards ((stepRec_of_stp (told _) ..).trans known) 2 _).of_stp (told _) rfl

end

/-- Settles O23: a REPORT is kept, joins or is dropped (`takeReport_early`, `takeReport_joins`, `takeReport_over`), a DRAW draws
(`takeDraw_draws`), a FAIL discards (`takeFail_discards`); each on the state whose inbox the message has left. -/
theorem stepMessages : Obligations.StepMessages := by
  refine ⟨fun i b m s inbox open_ unknown new => ?early, fun i b m x s inbox open_ known waits new => ?joins,
    fun i b m s inbox past => ?report, fun i b m s inbox past => ?draw, fun i b m s inbox open_ oldest none => ?draws,
    fun i b m x s inbox leaf parent undrawn known => ?fails⟩
  case early =>
    have kept := takeReport_early (s := dropInbox i s) open_ unknown new
    refine ⟨_, (exec_stepReport inbox).trans (congrArg _ kept), ?_, rfl, ?_⟩
    · exact congrArg TenStep.early ((tstep_modTstep ..).trans (if_pos rfl))
    · exact modTstep_only _ _ (by decide) ((dropInbox_frame i s).mono (by decide))
  case joins =>
    have joins := takeReport_joins (s := dropInbox i s) open_ known new
    have joined : stepRec (modStep (bindTen s b) (fieldAt m 4 6) (StepRec.reported (reportOf m)) (dropInbox i s)) (bindTen s b)
      (fieldAt m 4 6) = some (x.reported (reportOf m)) := stepRec_modStep (s := dropInbox i s) known
    refine ⟨_, (exec_stepReport inbox).trans (congrArg _ (joins.trans (tryReport_waits joined waits))), joined, rfl, ?_⟩
    exact modStep_only _ _ _ (by decide) ((dropInbox_frame i s).mono (by decide))
  case report =>
    exact ⟨_, (exec_stepReport inbox).trans (congrArg _ (takeReport_over (s := dropInbox i s) past)), rfl, rfl, dropInbox_frame i s⟩
  case draw =>
    exact ⟨_, (exec_stepDraw inbox).trans (congrArg _ (takeDraw_over (s := dropInbox i s) past)), rfl, rfl, dropInbox_frame i s⟩
  case draws =>
    have draws := takeDraw_draws (s := dropInbox i s) open_ oldest none
    exact ⟨_, exec_stepDraw inbox, draws.drawn, draws.counted, draws.steps, draws.lees, draws.hold, draws.draining⟩
  case fails =>
    have discards := takeFail_discards (s := dropInbox i s) leaf parent undrawn known
    exact ⟨_, exec_stepFail inbox, discards.st, discards.restoring, discards.reason, discards.steps, discards.drawn, discards.hold,
      discards.others⟩

end Sys2Proof.Machine
end

section
/-!
What the sending of held writes leaves to be sent, and what stays sent (R44, R355 of 02 and 09).
-/
namespace Sys2Proof.Machine

/-- From `a` to `s` the writes of drawn steps still to go out are the same, and what had left the module has left it. -/
structure Sends (a s : State) : Prop where
  draining : s.stp.draining = a.stp.draining
  out : a.out ⊆ s.out

/-- The parts other than the steps and what leaves the module, of those an opening that waited may touch. -/
def offSends : List Part := [.mem, .hif, .pln, .rck, .book, .cor, .col, .cel, .pwr, .tim, .dbg]

namespace Sends
variable {a s : State}

theorem refl (a : State) : Sends a a := ⟨rfl, fun _ h => h⟩
theorem of_only {u : State} (h : Sends a s) (k : Only offSends s u) : Sends a u where
  draining := by rw [k .stp (by decide), h.draining]
  out _ ho := k .out (by decide) ▸ h.out ho
theorem emit (h : Sends a s) (o : Out) : Sends a (emit o s) := ⟨h.draining, fun _ ho => List.mem_cons_of_mem _ (h.out ho)⟩
theorem modStp (h : Sends a s) {f : Stp → Stp} (hf : (f s.stp).draining = s.stp.draining) : Sends a (modStp f s) :=
  ⟨hf.trans h.draining, h.out⟩
theorem modTstep (h : Sends a s) (t : Nat) (f : TenStep → TenStep) : Sends a (modTstep t f s) := h.modStp rfl
theorem modStep (h : Sends a s) (t n : Nat) (f : StepRec → StepRec) : Sends a (modStep t n f s) := h.modTstep t _
theorem modLive (h : Sends a s) (tag : Nat) (f : Live → Live) : Sends a (modLive tag f s) :=
  h.of_only (modLive_only tag f (by decide) (Only.rfl' _ s))
theorem modRck (h : Sends a s) (f : Rck → Rck) : Sends a (modRck f s) := ⟨h.draining, h.out⟩
theorem modPln (h : Sends a s) (f : Pln → Pln) : Sends a (modPln f s) := ⟨h.draining, h.out⟩
theorem settleFrees (h : Sends a s) (t : Nat) : Sends a (settleFrees t s) :=
  h.of_only (settleFrees_only t (by decide) (by decide) (Only.rfl' _ s))
theorem makePost (h : Sends a s) (t : Nat) (src : Option (Nat × Nat)) (step : Option Nat) (p : Post) : Sends a (makePost t src step p s) :=
  h.of_only (makePost_only t src step p (by decide) (Only.rfl' _ s))
theorem if_ok {p : Prop} [Decidable p] {x y : State} (hx : Sends a x) (hy : Sends a y) : Sends a (if p then x else y) := by
  split
  · exact hx
  · exact hy
theorem forS {α : Type} {l : List α} {f : α → State → State} (h : Sends a s) (hf : ∀ q x, Sends a x → Sends a (f q x)) :
    Sends a (forS l f s) := forS_holds (Sends a) (fun q _ => hf q) h

theorem ringIrq (h : Sends a s) (r : Nat) (now : Bool) : Sends a (ringIrq r now s) where
  draining := by rw [ringIrq_only (fr := [.out, .hif]) r now (by decide) (by decide) (Only.rfl' _ s) .stp (by decide), h.draining]
  out _ ho := mem_out_ringIrq (h.out ho) r now
theorem writeEntry (h : Sends a s) (r : Nat) (e : List Byte) (now : Bool) : Sends a (writeEntry r e now s) :=
  Sends.ringIrq (Sends.of_only (h.emit _) (modRing_only r _ (by decide) (Only.rfl' _ _))) r now
theorem postEvent (h : Sends a s) (t code subject detail : Nat) : Sends a (postEvent t code subject detail s) :=
  if_ok (if_ok (Sends.of_only (h.writeEntry _ _ _) (setTenRec_only t _ (by decide) (Only.rfl' _ _)))
    (h.of_only (dropEvent_only t (by decide) (dropEvent_only t (by decide) (modRing_only _ _ (by decide) (Only.rfl' _ s))))))
    (h.of_only (dropEvent_only t (by decide) (Only.rfl' _ s)))
theorem noteT (h : Sends a s) (t code subject detail : Nat) : Sends a (noteT t code subject detail s) :=
  (h.postEvent t code subject detail).of_only (recordT_only t code subject detail (by decide) (Only.rfl' _ _))
theorem writeCompl (h : Sends a s) (tag : Nat) (l : Live) : Sends a (writeCompl tag l s) :=
  if_ok (if_ok (h.writeEntry _ _ _)
    (Sends.postEvent (h.of_only (modRing_only _ _ (by decide) (Only.rfl' _ s))) _ _ _ _)) h
theorem postHeld (h : Sends a s) (tag : Nat) : Sends a (postHeld tag s) := by
  unfold Machine.postHeld
  split
  · exact h
  · next l _ => exact if_ok ((h.writeCompl tag l).of_only (freeTag_only tag l (by decide) (Only.rfl' _ _))) (h.modLive tag _)
theorem completeNow (h : Sends a s) (tag status detail result : Nat) : Sends a (completeNow tag status detail result s) :=
  Sends.postHeld (h.modLive tag _) tag
theorem finish (h : Sends a s) (tag status detail result : Nat) : Sends a (finish tag status detail result s) := by
  unfold Machine.finish
  split
  · exact h
  · dsimp only
    split
    · exact h.modLive tag _
    · exact h.completeNow tag status detail result

theorem updStall (h : Sends a s) (t : Nat) : Sends a (updStall t s) := by
  unfold Machine.updStall
  dsimp only
  split
  · exact if_ok h (if_ok (Sends.modTstep (Sends.noteT (Sends.modStp (h.modTstep t _) rfl) _ _ _ _) t _) (Sends.modStp (h.modTstep t _) rfl))
  · exact h.modTstep t _
theorem dropAhead (h : Sends a s) (t n : Nat) : Sends a (dropAhead t n s) :=
  if_ok h ((h.modTstep t _).of_only (dropColls_only t n (by decide) (Only.rfl' _ _)))
theorem discard (h : Sends a s) (t n reason origin : Nat) : Sends a (discard t n reason origin s) := by
  unfold Machine.discard
  dsimp only
  split
  · exact h.dropAhead t n
  · refine Sends.updStall (Sends.settleFrees (Sends.noteT (Sends.forS (Sends.modTstep (Sends.modRck (Sends.modPln (Sends.modStp
      (h.of_only ?undone) ?same) _) _) t _) fun e x hx => ?ended) _ _ _ _) t) t
    case undone =>
      exact dropTrigs_only t n (by decide) (dropColls_only t n (by decide) (undoHandles_only t n (by decide) (by decide)
        (cntRestore_only _ (by decide) (modCor_only _ (by decide) (dropTallies_only t n (by decide) (settleCores_only (by decide)
        (forS_only _ _ (fun l x hx => dropLaunch_only l.tag (by decide) (by decide) hx) (Only.rfl' _ s))))))))
    case same => rfl
    case ended =>
      split
      · exact if_ok (hx.completeNow _ _ _ _) hx
      · exact if_ok (hx.completeNow _ _ _ _) (if_ok (hx.completeNow _ _ _ _) hx)
theorem failStep (h : Sends a s) (t n reason : Nat) : Sends a (failStep t n reason s) := by
  unfold Machine.failStep
  split
  · exact h
  · refine Sends.of_only ((h.noteT t 0x0900 (tenCoord s t) (n + reason * 2 ^ 48)).discard t n reason (tenCoord s t))
      (ite_only (upMsg_only _ (by decide) ?staged) ?staged)
    exact modCel_only _ (by decide) (Only.rfl' _ _)

theorem sealOne (h : Sends a s) (t : Nat) (r : StepRec) : Sends a (sealOne t r s) := by
  unfold Machine.sealOne
  split
  · exact h
  · split
    · exact h
    · next tag _ _ l _ =>
      have sealed : Sends a (Machine.modStep t r.num (fun x => { x with sealAt := nowT s }) (Machine.finish tag stOK 0 0 s)) :=
        (h.finish tag stOK 0 0).modStep t r.num _
      refine if_ok (if_ok (sealed.failStep t r.num 3) ?_) h
      split
      · exact sealed.failStep t r.num _
      · exact if_ok sealed (Sends.of_only (sealed.modStep t r.num _) (upMsg_only _ (by decide) (Only.rfl' _ _)))
theorem trySeal (h : Sends a s) (t : Nat) : Sends a (trySeal t s) := trySeal_eq t s ▸ h.forS fun r _ hx => hx.sealOne t r
theorem done (h : Sends a s) (tag status detail result : Nat) : Sends a (done tag status detail result s) := by
  unfold Machine.done
  split
  · exact h
  · exact Sends.settleFrees (Sends.trySeal (h.finish tag status detail result) _) _

theorem openNow (h : Sends a s) (tag t n : Nat) (d : List Byte) : Sends a (openNow tag t n d s) := by
  have opened : Sends a (stepOpened tag t n s) :=
    Sends.modTstep (Sends.of_only (h.modLive tag _) (modPwr_only _ (by decide) (Only.rfl' _ _))) t _
  have ended : Sends a (Machine.done tag stOK 0 0 (openReady tag t n d s)) :=
    Sends.done (Sends.makePost (Sends.makePost (opened.updStall t) _ _ _ _) _ _ _ _) tag stOK 0 0
  unfold Machine.openNow
  dsimp only
  split
  · exact Sends.failStep ended t n _
  · exact ended
/-- A STEP_OPEN that waited and is tried again. -/
theorem wakeOpens (h : Sends a s) (t : Nat) : Sends a (wakeOpens t s) := h.forS fun e x hx => by
  dsimp only
  split
  · exact if_ok hx (hx.done _ _ _ _)
  · exact if_ok hx (hx.openNow _ _ _ _)

end Sends
end Sys2Proof.Machine
end

section
/-!
The draw limits, the pre-images, their restore and the held writes that go out (R44, R355, R360, R369, R370, R377 of 02 and 09).
-/
namespace Sys2Proof.Machine

/-! ## What waits in the placement goes on without the steps and the host interface -/

theorem pump_frame (s : State) : Only [.mem, .pln, .rck] s (pump s) := pump_only (by decide) (by decide) (by decide) (Only.rfl' _ s)
theorem pump_stp (s : State) : (pump s).stp = s.stp := pump_frame s .stp (by decide)
theorem pump_liveMap (s : State) : (pump s).hif.live = s.hif.live := congrArg Hif.live (pump_frame s .hif (by decide))

/-! ## Draw limits (R369) -/

theorem sealedStep_known {s : State} {t n : Nat} {r : StepRec} (h : sealedStep s t n = some r) : stepRec s t n = some r := by
  unfold sealedStep at h
  split at h
  · next known =>
    split at h
    · exact known.trans h
    · cases h
  · cases h

/-- A step at its draw limit. -/
def StepRec.lateOnce (r : StepRec) : StepRec := { r with late := true }
/-- A tenant's steps when the draw of one is in doubt for good. -/
def TenStep.splitOff (x : TenStep) : TenStep := { x with split := true }

section
variable {s : State} {t n : Nat} {r : StepRec} (sealed : sealedStep s t n = some r)
include sealed

theorem exec_drawTimeout_left (first : r.late = false) (left : r.left = true) : exec (.drawTimeout t n) s =
    .next (modCel (fun c => { c with staged := c.staged ++ [.failUp t n 4] }) (modStep t n StepRec.lateOnce s)) := by
  change execDrawTimeout t n s = _
  simp only [execDrawTimeout, sealed, first, left]
  rfl
theorem exec_drawTimeout_kept (first : r.late = false) (kept : r.left = false) : exec (.drawTimeout t n) s = .next (failStep t n 4 s) := by
  change execDrawTimeout t n s = _
  simp only [execDrawTimeout, sealed, first, kept]
  rfl
theorem exec_drawSplitTimeout (late : r.late = true) : exec (.drawSplitTimeout t n) s =
    .next (upMsg (.event 7 0 8 [t] n 0) (discard t n 4 (tenCoord s t) (modTstep t TenStep.splitOff s))) := by
  change execDrawSplitTimeout t n s = _
  simp only [execDrawSplitTimeout, sealed, late]
  rfl

/-- A discard after a split leaves the split. -/
theorem split_discards (origin : Nat) (m : UpMsg) :
    Discards t n 4 (modTstep t TenStep.splitOff s) (upMsg m (discard t n 4 origin (modTstep t TenStep.splitOff s))) := by
  have known : stepRec (modTstep t TenStep.splitOff s) t n = some r := by
    rw [stepRec, tstep_modTstep, if_pos rfl]
    exact sealedStep_known sealed
  exact (discard_discards known 4 origin).upMsg m

end

/-! ## Pre-images (R360) -/

/-- The pre-image that a waiting write needs first. -/
def preImageOf (s : State) (w : WaitW) (n h p b : Nat) : PreImg :=
  { tenant := w.tenant, step := n, hnd := h, page := p, block := b, bytes := hRead s h (p * 0x200000 + b * 4096) 4096 }

theorem exec_preimageCopyDone {h p b n : Nat} {w : WaitW} {s : State} (on : nclkOn s = true)
    (found : s.pln.waits.find? (fun w => decide (w.hnd = h) && decide (pageIdx w.off = p) && decide (blockIdx w.off = b)
      && decide (needOf s w = .pre)) = some w) (step : w.step = some n)
    (room : leesUse s w.tenant + 4096 ≤ leesQuota s w.tenant ∨ speculative s w.tenant n = true) :
    exec (.preimageCopyDone h p b) s =
      .next (pump (updStall w.tenant (modStp (fun x => { x with lees := x.lees ++ [preImageOf s w n h p b] }) s))) := by
  change execPreimageCopyDone h p b s = _
  simp only [execPreimageCopyDone, if_pos on, preimageDone, found, step]
  exact congrArg Host.Outcome.next (if_neg fun full => room.elim (fun fits => by omega) full.2)

/-! ## The restore (R370) -/

/-- A tenant's steps once their pre-images are written back. -/
def TenStep.restored (x : TenStep) : TenStep := { x with restoring := false }
/-- The lees without the pre-images of tenant t's steps from n on, but for those a rack needs. -/
def Stp.wroteBack (t n : Nat) (x : Stp) : Stp :=
  { x with lees := x.lees.filter (fun y => decide (y.tenant ≠ t) || decide (y.step < n) || y.kept) }

/-- From `s` to `u` the pre-images of tenant t's steps from n on are written back, and no descriptor has changed. -/
structure WroteBack (t n : Nat) (s u : State) : Prop where
  stp : u.stp = (modTstep t TenStep.restored (modStp (Stp.wroteBack t n) s)).stp
  live : u.hif.live = s.hif.live

section
variable {t n : Nat} {s u : State}

theorem WroteBack.noteT (h : WroteBack t n s u) (k code subject detail : Nat) : WroteBack t n s (noteT k code subject detail u) :=
  ⟨(noteT_stp ..).trans h.stp, (noteT_liveMap ..).trans h.live⟩
theorem WroteBack.of_only {ps : List Part} {v : State} (h : WroteBack t n s u) (k : Only ps u v) (stp : Part.stp ∉ ps) (hif : Part.hif ∉ ps) :
    WroteBack t n s v := ⟨(k .stp stp).trans h.stp, (congrArg Hif.live (k .hif hif)).trans h.live⟩
theorem wroteBack_of_only {x : State} (frame : Only [.mem, .pln] s x) :
    WroteBack t n s (modTstep t TenStep.restored (modStp (Stp.wroteBack t n) x)) := by
  have stp : x.stp = s.stp := frame .stp (by decide)
  refine ⟨?_, congrArg Hif.live (frame .hif (by decide))⟩
  rw [modTstep, modTstep, modStp_stp, modStp_stp, modStp_stp, modStp_stp, stp]
theorem writeBack_wroteBack (first : (tstep s t).firstDisc = some n) : WroteBack t n s (writeBack t s) := by
  unfold writeBack
  simp only [first]
  generalize hx : forS _ _ s = x
  have frame : Only [.mem, .pln] s x := hx ▸ forS_only _ _
    (fun y z hz => ite_only (modPage_only _ _ _ (by decide) (modPln_only _ (by decide) (hPut_only _ _ _ (by decide) (by decide) hz))) hz)
    (Only.rfl' _ s)
  exact (wroteBack_of_only frame).noteT t 0x0903 0 n
theorem WroteBack.markPoison (h : WroteBack t n s u) (k p b : Nat) : WroteBack t n s (markPoison k p b u) := by
  unfold Machine.markPoison
  split
  · exact (h.of_only (modPage_only (fr := [.pln]) k p _ (by decide) (Only.rfl' _ u)) (by decide) (by decide)).noteT _ _ _ _
  · exact h

/-- What waited for RESTORE_DONE and is none of these descriptors leaves the steps as they are. -/
def restoreTail (t : Nat) (s : State) : State :=
  serveOwed t (trigRelease t (wakeRacks t (wakeResyncs t (wakeOpens t (pump (updStall t s))))))

theorem exec_restoreDone (bad : List (Nat × Nat × Nat)) (first : (tstep s t).firstDisc = some n) (restoring : (tstep s t).restoring = true)
    (on : nclkOn s = true) (open_ : s.err.fence = false) : ∃ u, exec (.restoreDone t bad) s = .next (restoreTail t u) ∧ WroteBack t n s u := by
  refine ⟨_, congrArg Host.Outcome.next (if_pos ⟨restoring, on, fun held => by simp [open_] at held⟩), ?_⟩
  exact forS_holds (WroteBack t n s) (fun q _ x hx => hx.markPoison q.1 q.2.1 q.2.2) (writeBack_wroteBack first)

theorem restoreTail_restalls (none : NoWait t s) : ∃ v, Restalls t s v ∧ (restoreTail t s).stp = v.stp := by
  have stalls := updStall_restalls t s
  have still : NoWait t (pump (updStall t s)) := none.of_live ((pump_liveMap _).trans stalls.live)
  have released : Only [.out, .hif, .cor, .vnl, .rck, .tim, .book] (pump (updStall t s)) (serveOwed t (trigRelease t (pump (updStall t s)))) :=
    serveOwed_only t (by decide) (by decide) (by decide) (trigRelease_only t (by decide) (by decide) (by decide) (by decide) (by decide)
      (by decide) (by decide) (Only.rfl' _ _))
  refine ⟨_, stalls, ?_⟩
  rw [restoreTail, wakeOpens_idle still, wakeResyncs_idle still, wakeRacks_idle still]
  exact (released .stp (by decide)).trans (pump_stp _)

end

/-! ## A held write goes out (R44, R355) -/

/-- The oldest held write has left the module, `rest` are to follow; what waited for the room it took goes on. -/
def holdSent (w : HoldW) (rest : List HoldW) (s : State) : State :=
  pump (updStall w.tenant (emit (.hostWrite w.fn w.pasid w.addr w.bytes) (modStp (fun x => { x with draining := rest }) s)))

section
variable {w : HoldW} {rest : List HoldW} {s : State}

theorem holdWriteDone_sends (queue : s.stp.draining = w :: rest) (link : s.hif.up = true) (on : nclkOn s = true)
    (range : hostRangeOk s w.fn w.addr w.bytes.length = true) :
    holdWriteDone s = wakeOpens w.tenant (holdSent w rest s) ∨
      holdWriteDone s = settleFrees w.tenant (postHeld w.tag (wakeOpens w.tenant (holdSent w rest s))) := by
  simp only [holdWriteDone, queue, range, if_true]
  rw [if_pos ⟨link, on⟩]
  split
  · exact .inl rfl
  · split
    · split
      · exact .inr rfl
      · exact .inl rfl
    · exact .inl rfl

theorem holdSent_frame : Only [.stp, .out, .mem, .hif, .pln, .rck, .book] s (holdSent w rest s) :=
  pump_only (by decide) (by decide) (by decide) (updStall_only _ (by decide) (by decide) (by decide) (by decide)
    (emit_only _ (by decide) (modStp_only _ (by decide) (Only.rfl' _ s))))
theorem holdSent_live : (holdSent w rest s).hif.live = s.hif.live := (pump_liveMap _).trans (updStall_restalls w.tenant _).live
/-- The write is out and the others still to go are `rest`. -/
theorem holdSent_sends :
    Sends (emit (.hostWrite w.fn w.pasid w.addr w.bytes) (modStp (fun x => { x with draining := rest }) s)) (holdSent w rest s) :=
  ((Sends.refl _).updStall w.tenant).of_only ((pump_frame _).mono (by decide))

theorem wakeOpens_frame (t : Nat) : Only [.stp, .out, .mem, .hif, .pln, .rck, .book, .cor, .col, .cel, .pwr, .tim, .dbg] s (wakeOpens t s) :=
  wakeOpens_only t (by decide) (by decide) (by decide) (by decide) (by decide) (by decide) (by decide) (by decide) (by decide) (by decide)
    (by decide) (by decide) (by decide) (Only.rfl' _ s)
theorem posted_drained_frame (t tag : Nat) : Only [.stp, .out, .mem, .hif, .pln, .rck, .book] s (settleFrees t (postHeld tag s)) :=
  settleFrees_only t (by decide) (by decide) (postHeld_only tag (by decide) (by decide) (Only.rfl' _ s))

/-- What the sending of a held write comes to, whether or not the completion of its descriptor follows. -/
theorem holdWriteDone_holds {P : State → Prop} (queue : s.stp.draining = w :: rest) (link : s.hif.up = true) (on : nclkOn s = true)
    (range : hostRangeOk s w.fn w.addr w.bytes.length = true) (woken : P (wakeOpens w.tenant (holdSent w rest s)))
    (posted : ∀ u, P u → P (settleFrees w.tenant (postHeld w.tag u))) : P (holdWriteDone s) := by
  obtain e | e := holdWriteDone_sends queue link on range
  · exact e ▸ woken
  · exact e ▸ posted _ woken

end

/-- Settles O24: `exec_drawTimeout_left`, `failStep_fails` and `split_discards` at the draw limits, `exec_preimageCopyDone`, the restore by
`exec_restoreDone` and `restoreTail_restalls`, and the held write by `holdWriteDone_holds`. -/
theorem stepTimersAndRestore : Obligations.StepTimersAndRestore := by
  refine ⟨fun t n r s sealed first left => ?left, fun t n r s sealed first kept => ?kept, fun t n r s sealed late => ?split,
    fun h p b n w s on found step room => ?preimage, fun t n bad s restoring on open_ first none => ?restore,
    fun w rest s queue link on range => ?send⟩
  case left =>
    refine ⟨_, exec_drawTimeout_left sealed first left, stepRec_modStep (sealedStep_known sealed), rfl, fun k hk => ?_, ?_⟩
    · exact (tstep_modStep ..).trans (if_neg hk)
    · exact modCel_only _ (by decide) (modStep_only t n _ (by decide) (Only.rfl' _ s))
  case kept =>
    obtain ⟨discards, staged⟩ := failStep_fails (sealedStep_known sealed) 4
    exact ⟨_, exec_drawTimeout_kept sealed first kept, discards.st, discards.restoring, discards.reason, discards.steps, discards.drawn, staged,
      discards.others⟩
  case split =>
    have discards := split_discards sealed (tenCoord s t) (.event 7 0 8 [t] n 0)
    have own : tstep (modTstep t TenStep.splitOff s) t = (tstep s t).splitOff := (tstep_modTstep ..).trans (if_pos rfl)
    refine ⟨_, exec_drawSplitTimeout sealed late, discards.st, discards.restoring, discards.reason, ?_, ?_, fun k hk => ?_⟩
    · exact discards.split.trans (congrArg TenStep.split own)
    · exact discards.steps.trans (by rw [own]; rfl)
    · exact (discards.others k hk).trans ((tstep_modTstep ..).trans (if_neg hk))
  case preimage =>
    refine ⟨_, exec_preimageCopyDone on found step room, ?_, ?_⟩
    · exact (congrArg Stp.lees (pump_stp _)).trans (updStall_restalls w.tenant _).lees
    · exact pump_only (by decide) (by decide) (by decide) (updStall_only _ (by decide) (by decide) (by decide) (by decide)
        (modStp_only _ (by decide) (Only.rfl' _ s)))
  case restore =>
    obtain ⟨u, runs, back⟩ := exec_restoreDone bad first restoring on open_
    obtain ⟨v, stalls, stp⟩ := restoreTail_restalls (NoWait.of_live none back.live)
    have own : tstep u t = (tstep s t).restored := (tstep_of_stp back.stp t).trans ((tstep_modTstep ..).trans (if_pos rfl))
    refine ⟨_, runs, ?_, ?_, ?_, fun k hk => ?_⟩
    · rw [tstep_of_stp stp, stalls.restoring, own]; rfl
    · rw [tstep_of_stp stp, stalls.st, own]; rfl
    · rw [stp, stalls.lees, back.stp]; rfl
    · rw [tstep_of_stp stp, stalls.others k hk, tstep_of_stp back.stp, tstep_modTstep, if_neg hk]; rfl
  case send =>
    have sends := holdWriteDone_holds (P := Sends _) queue link on range (holdSent_sends.wakeOpens w.tenant)
      fun u hu => (hu.postHeld w.tag).settleFrees w.tenant
    refine ⟨_, rfl, sends.draining, sends.out List.mem_cons_self, fun none => ?_, ?_⟩
    · refine holdWriteDone_holds (P := Only _ s) queue link on range ?_ fun u hu => hu.trans (posted_drained_frame w.tenant w.tag)
      rw [wakeOpens_idle (NoWait.of_live none holdSent_live)]
      exact holdSent_frame
    · exact holdWriteDone_holds (P := Only _ s) queue link on range ((holdSent_frame.mono (by decide)).trans (wakeOpens_frame w.tenant))
        fun u hu => hu.trans ((posted_drained_frame w.tenant w.tag).mono (by decide))

end Sys2Proof.Machine
end

section
/-!
The tables of the rack block: what an update of a slot, of a tenant's graft state, of a sender's entry and of a restore leaves of them
(Table 10.12), and what the messages of racks, grafts and reads leave of the links (R278, R401).
-/
namespace Sys2Proof.Machine

/-! ## Slots -/

theorem setSlot_rck (k : Nat) (f : Slot → Slot) (s : State) : (setSlot k f s).rck = { s.rck with
    slot0 := if k = 0 then f s.rck.slot0 else s.rck.slot0
    slot1 := if k = 0 then s.rck.slot1 else f s.rck.slot1 } := by
  by_cases h : k = 0 <;> simp [setSlot, h]
@[simp] theorem setSlot_job (k : Nat) (f : Slot → Slot) (s : State) : (setSlot k f s).rck.job = s.rck.job := by rw [setSlot_rck]
theorem slotAt_of_rck {s u : State} (h : u.rck = s.rck) (k : Nat) : slotAt u k = slotAt s k := by rw [slotAt, h, slotAt]
@[simp] theorem slotAt_setSlot_same (k : Nat) (f : Slot → Slot) (s : State) : slotAt (setSlot k f s) k = f (slotAt s k) := by
  by_cases h : k = 0 <;> simp [slotAt, setSlot_rck, h]
theorem slotAt_setSlot_other {k : Nat} (hk : k < 2) (f : Slot → Slot) (s : State) :
    slotAt (setSlot k f s) (1 - k) = slotAt s (1 - k) := by
  obtain rfl | rfl : k = 0 ∨ k = 1 := by omega
  · rfl
  · rfl
theorem setSlot_frame (k : Nat) (f : Slot → Slot) (s : State) : Only [.rck] s (setSlot k f s) :=
  setSlot_only k f (by decide) (Only.rfl' _ s)

/-- A rack fills one of the two slots. -/
theorem pickSlot_lt {s : State} {t k : Nat} (h : pickSlot s t = some k) : k < 2 := by
  have listed : ∀ {p : Nat → Bool} {q : Nat}, [0, 1].find? p = some q → q < 2 := fun found => by
    have := List.mem_of_find?_eq_some found
    simp only [List.mem_cons, List.not_mem_nil, or_false] at this
    omega
  unfold pickSlot at h
  split at h
  · next found => exact Option.some.inj h ▸ listed found
  · split at h
    · next found =>
      have := listed found
      split at h
      · exact Option.some.inj h ▸ by omega
      · exact Option.some.inj h ▸ this
    · exact listed h

/-! ## Tenants' graft states, entries of senders, restores -/

@[simp] theorem tenRack_modTenRack (t q : Nat) (f : TenRack → TenRack) (s : State) :
    tenRack (modTenRack t f s) q = if q = t then f (tenRack s t) else tenRack s q := get_upd ({} : TenRack) s.rck.tens t q f
theorem tenRack_of_rck {s u : State} (h : u.rck = s.rck) (t : Nat) : tenRack u t = tenRack s t := by rw [tenRack, h, tenRack]
@[simp] theorem get_modGin (k q : Nat) (f : Gin → Gin) (s : State) : Map.get {} (modGin k f s).rck.gin q =
    if q = k then f (Map.get {} s.rck.gin k) else Map.get {} s.rck.gin q := get_upd ({} : Gin) s.rck.gin k q f
theorem modGin_frame (k : Nat) (f : Gin → Gin) (s : State) : Only [.rck] s (modGin k f s) := modGin_only k f (by decide) (Only.rfl' _ s)

theorem restOf_tag {s : State} {tag : Nat} {x : Rest} (h : restOf s tag = some x) : x.tag = tag := by simpa using List.find?_some h
theorem restOf_of_rests {s u : State} (h : u.rck.rests = s.rck.rests) (tag : Nat) : restOf u tag = restOf s tag := by
  rw [restOf, h, restOf]
theorem restOf_modRest {tag : Nat} {x : Rest} {s : State} (h : restOf s tag = some x) {f : Rest → Rest}
    (hf : ∀ y, (f y).tag = y.tag := by intro _; rfl) : restOf (modRest tag f s) tag = some (f x) := by
  have same : ((fun y : Rest => decide (y.tag = tag)) ∘ fun y => if y.tag = tag then f y else y) = fun y => decide (y.tag = tag) := by
    funext y
    by_cases hy : y.tag = tag <;> simp [hy, hf]
  rw [restOf, modRest, modRck_rck, List.find?_map, same, ← restOf, h]
  simp [restOf_tag h]
/-- No restore of a tag stands once those of the tag are taken out. -/
theorem find_rests_without (l : List Rest) (tag : Nat) :
    (l.filter (fun y => decide (y.tag ≠ tag))).find? (fun y => decide (y.tag = tag)) = none :=
  List.find?_eq_none.mpr fun y hy => by simpa using List.of_mem_filter hy

/-! ## Messages (R278) -/

section
variable (b k cls dest : Nat) (bytes : List Byte) (s : State)

theorem sendTo_traffic : Traffic s (sendTo b cls dest bytes s) := by
  unfold sendTo
  split
  · exact Traffic.refl s
  · next k _ =>
    have sent : Traffic s (emit (.vine b k cls dest bytes) (slotSend b k cls dest bytes s)) := ((Traffic.refl s).placeMsg _).emit _
    dsimp only
    split
    · exact sent.divertSlot b k
    · exact sent
theorem toBuddy_traffic : Traffic s (toBuddy b k cls bytes s) := ((Traffic.refl s).placeMsg _).emit _
theorem toBuddy_sends : Out.vine b k cls (buddyCoord s b k) bytes ∈ (toBuddy b k cls bytes s).out := List.mem_cons_self

variable {b k dest s}

theorem sendTo_sends (way : (nextHop s b dest).bind (slotTo s b) = some k) :
    Out.vine b k cls dest bytes ∈ (sendTo b cls dest bytes s).out := by
  unfold sendTo
  rw [way]
  dsimp only
  split
  · exact ((Traffic.refl _).divertSlot b k).sent _ List.mem_cons_self
  · exact List.mem_cons_self

end

/-! ## What the end of a descriptor and of a rack leaves -/

section
variable {s : State} {tag : Nat} {l : Live}

theorem MayEnd.done_frame (h : MayEnd s tag l) (status detail result : Nat) :
    Only [.hif, .out, .mem, .pln] s (done tag status detail result s) :=
  done_plain_only tag status detail result s l h.live h.seals (by decide) (by decide) (by decide) (by decide) (Only.rfl' _ s)
theorem MayEnd.done_rck (h : MayEnd s tag l) (status detail result : Nat) : (done tag status detail result s).rck = s.rck :=
  h.done_frame status detail result .rck (by decide)
theorem MayEnd.finish_gone (h : MayEnd s tag l) (hstep : l.step = none) (status detail result : Nat) :
    liveRec (finish tag status detail result s) tag = none := by
  rw [h.finish_eq hstep, liveRec_freeTag, if_pos rfl]

end

theorem finish_frame (tag a b c : Nat) (s : State) : Only [.out, .hif] s (finish tag a b c s) :=
  finish_only tag a b c (by decide) (by decide) (Only.rfl' _ s)
theorem rackEnd_frame (tag t n status detail result : Nat) (s : State) :
    Only [.out, .hif, .book] s (rackEnd tag t n status detail result s) :=
  rackEnd_only tag t n status detail result (by decide) (by decide) (by decide) (Only.rfl' _ s)
/-- The end of a rack that a descriptor takes is the end of the descriptor. -/
theorem rackEnd_descriptor {tag : Nat} (h : tag < 2 ^ 20) (t n status detail result : Nat) (s : State) :
    rackEnd tag t n status detail result s = finish tag status detail result s := if_pos h

end Sys2Proof.Machine
end


section
/-!
RACK_TAKE: when it takes a rack (R384, R385, R387, R391, R401 of 10).
-/
namespace Sys2Proof.Machine

/-! ## What the start of a descriptor leaves of what a rack is judged by -/

section
variable (tag : Nat) (f : Live → Live) (s : State)

theorem slotAt_modLive (k : Nat) : slotAt (modLive tag f s) k = slotAt s k := slotAt_of_rck (modLive_rck tag f s) k
theorem rackables_modLive (t n : Nat) : rackables (modLive tag f s) t n = rackables s t n := by simp [rackables, tenHnds]
theorem tenParcel_modLive (t : Nat) : tenParcel (modLive tag f s) t = tenParcel s t := by unfold modLive; split <;> rfl
theorem tenCoord_modLive (t : Nat) : tenCoord (modLive tag f s) t = tenCoord s t := by unfold modLive; split <;> rfl
theorem buddySlot_modLive (t : Nat) : buddySlot (modLive tag f s) t = buddySlot s t := by unfold modLive; split <;> rfl
theorem buddyCoord_modLive (b k : Nat) : buddyCoord (modLive tag f s) b k = buddyCoord s b k := by unfold modLive; split <;> rfl
theorem pickSlot_modLive (t : Nat) : pickSlot (modLive tag f s) t = pickSlot s t := by unfold modLive; split <;> rfl
theorem wearSpent_modLive : wearSpent (modLive tag f s) = wearSpent s := by unfold modLive; split <;> rfl
theorem rsvReg_modLive (i : Nat) : rsvReg (modLive tag f s) i = rsvReg s i := by simp [rsvReg]
theorem graftHead_modLive (msg flags t n key page block blocks value : Nat) :
    graftHead (modLive tag f s) msg flags t n key page block blocks value = graftHead s msg flags t n key page block blocks value := by
  simp [graftHead, tenParcel_modLive, tenCoord_modLive]

end

/-! ## The branches of a RACK_TAKE (Table 10.3) -/

section
variable {s : State} {tag : Nat} {l : Live} {st : Option Nat}

theorem exec_rackTake (h : Starts s tag 0x60 l st) : exec (.rackTake tag) s = .next (
    if fieldAt l.desc 20 8 % 4096 ≠ 0 then done tag stBAD_FIELD 20 0 (modLive tag (Live.started st) s)
    else
      match st with
      | some _ => done tag stOK 0 0 (modLive tag (Live.started st) s)
      | none =>
        if (tstep s (liveTen l)).restoring then
          modLive tag (fun l => { l with stage := .spaceWait }) (modLive tag (Live.started st) s)
        else rackEffect tag (liveTen l) (((tstep s (liveTen l)).drawn).getD 0xFFFFFFFFFFFF) (bitOf (fieldAt l.desc 16 1) 0)
          (bitOf (fieldAt l.desc 16 1) 1) (modLive tag (Live.started st) s)) := by
  refine congrArg Host.Outcome.next ((startDesc_go h _).trans ?_)
  simp only [started_live h, ← tstep_modLive tag (Live.started st) s]
  cases st <;> rfl
theorem exec_rackTake_now (h : Starts s tag 0x60 l none) (aligned : fieldAt l.desc 20 8 % 4096 = 0)
    (restored : (tstep s (liveTen l)).restoring = false) : exec (.rackTake tag) s = .next (
      rackEffect tag (liveTen l) (((tstep s (liveTen l)).drawn).getD 0xFFFFFFFFFFFF) (bitOf (fieldAt l.desc 16 1) 0)
        (bitOf (fieldAt l.desc 16 1) 1) (modLive tag (Live.started none) s)) := by
  rw [exec_rackTake h, if_neg (not_not_intro aligned)]
  simp only [restored]
  rfl

end

/-! ## The size checks (R391) -/

section
variable {s : State} {t r : Nat}

theorem rackLimit_within {graft : Bool} (rack : r ≤ rsvReg s 1 * gib) (drain : 2 * r ≤ rsvReg s 4 * gib)
    (offer : graft = true → r ≤ (tenRack s t).offer) : rackLimit s t r graft = none := by
  rw [rackLimit, if_neg (Nat.not_lt.mpr rack), if_neg (Nat.not_lt.mpr drain)]
  exact if_neg fun exceeds => Nat.not_lt.mpr (offer exceeds.1) exceeds.2
/-- A graft that exceeds its offer exceeds some limit. -/
theorem rackLimit_offer (exceeds : (tenRack s t).offer < r) : ∃ d, rackLimit s t r true = some d := by
  unfold rackLimit
  split
  · exact ⟨1, rfl⟩
  · split
    · exact ⟨2, rfl⟩
    · exact ⟨3, if_pos ⟨rfl, exceeds⟩⟩
/-- What fits needs no narrowing. (The limit is a name in the proof, lest the kernel compute its bounds of
gigabytes.) -/
theorem narrowFit_within {n : Nat} {graft : Bool} {hs : List (Nat × Hnd)} {nar : List Nat}
    (within : rackLimit s t (totalBytes hs nar) graft = none) (fuel : Nat) : narrowFit s t n graft hs fuel nar = .inr nar := by
  delta narrowFit narrowFit._f
  obtain ⟨limit, hlimit⟩ : ∃ limit, rackLimit s t = limit := ⟨_, rfl⟩
  rw [hlimit] at within ⊢
  have fits : ∀ narrower : Nat → Nat ⊕ List Nat,
      (match limit (totalBytes hs nar) graft with | none => .inr nar | some d => narrower d) = Sum.inr nar := by
    rw [within]
    exact fun _ => rfl
  cases fuel with
  | zero => exact fits Sum.inl
  | succ fuel => exact fits _

/-- A rack that its size lets go on. -/
def RackJob.sized (j : RackJob) : RackJob := { j with asking := false, narrowed := [], size := totalBytes j.hs [] }

theorem rackFit_within {j : RackJob} (job : s.rck.job = some j) (within : rackLimit s j.tenant (totalBytes j.hs []) j.graft = none) :
    rackFit s = modRck (fun r => { r with job := some j.sized }) s := by
  unfold rackFit
  rw [job]
  simp only [narrowFit_within within, within, ite_self]
  rfl
theorem rackFit_refused {j : RackJob} {d : Nat} (job : s.rck.job = some j) (strict : j.narrowOk = false)
    (exceeds : rackLimit s j.tenant (totalBytes j.hs []) j.graft = some d) : rackFit s =
      rackEnd j.tag j.tenant j.step 0x0600 d 0 (setSlot j.slot (fun _ => {}) (modRck (fun r => { r with job := none }) s)) := by
  unfold rackFit
  rw [job]
  simp only [strict, exceeds]
  rfl

end

/-! ## The effect point (R385) -/

/-- The checks that a rack of tenant t for step n meets before its size are passed, and it fills slot k. -/
structure RackPasses (s : State) (t n k : Nat) : Prop where
  keyed : ∀ e ∈ rackables s t n, (keyAt e.2 n).1 ≠ 0
  inside : ∀ e ∈ rackables s t n, groupOut e.2 (keyAt e.2 n).2 (tenCoord s t)
    (((bindOf s t).map (fun b => (bindRec s b).members.length)).getD 0) = false
  idle : s.rck.job = none
  free0 : (slotAt s 0).st ≠ 1
  free1 : (slotAt s 1).st ≠ 1
  slot : pickSlot s t = some k
  wear : wearSpent s = false

theorem RackPasses.modLive {s : State} {t n k : Nat} (h : RackPasses s t n k) (tag : Nat) (f : Live → Live) :
    RackPasses (modLive tag f s) t n k where
  keyed := by rw [rackables_modLive]; exact h.keyed
  inside := by simpa only [rackables_modLive, tenCoord_modLive, bindOf_modLive, bindRec_modLive] using h.inside
  idle := by rw [modLive_rck]; exact h.idle
  free0 := by rw [slotAt_modLive]; exact h.free0
  free1 := by rw [slotAt_modLive]; exact h.free1
  slot := by rw [pickSlot_modLive]; exact h.slot
  wear := by rw [wearSpent_modLive]; exact h.wear

/-- The rack being taken at its effect point, its size still unknown. -/
def newJob (s : State) (tag t n k : Nat) (graft narrowOk : Bool) : RackJob :=
  { tag := tag, tenant := t, step := n, slot := k, size := 0, graft := graft, narrowOk := narrowOk, hs := rackables s t n, asking := true }
/-- The slot it fills. -/
def newSlot (s : State) (t n : Nat) : Slot :=
  { st := 1, tenant := t, parcel := tenParcel s t, step := n, kid := (bindOf s t).bind (keyId s) }
/-- The state in which the rack has taken its slot. -/
def slotTaken (tag t n k : Nat) (graft narrowOk : Bool) (s : State) : State :=
  modRck (fun r => { r with job := some (newJob s tag t n k graft narrowOk) }) (setSlot k (fun _ => newSlot s t n) s)

section
variable {s : State} {tag t n k : Nat} {graft narrowOk : Bool}

theorem slotTaken_frame : Only [.rck] s (slotTaken tag t n k graft narrowOk s) := modRck_only _ (by decide) (setSlot_frame k _ s)
theorem slotAt_slotTaken : slotAt (slotTaken tag t n k graft narrowOk s) k = newSlot s t n := slotAt_setSlot_same k _ s
theorem slotAt_slotTaken_other (hk : k < 2) : slotAt (slotTaken tag t n k graft narrowOk s) (1 - k) = slotAt s (1 - k) :=
  slotAt_setSlot_other hk _ s

/-- A rack without a buddy reckons with an offer of 0 (log 70). -/
def noOffer (t : Nat) (s : State) : State := modTenRack t (fun x => { x with offer := 0 }) s

/-- A rack that passes takes its slot, and asks its buddy if it is to be grafted, else goes on to its size checks. -/
theorem RackPasses.rackEffect_eq (h : RackPasses s t n k) (tag : Nat) (graft narrowOk : Bool) : rackEffect tag t n graft narrowOk s =
    match buddySlot s t with
    | some (b, q) =>
      if graft then toBuddy b q 2 (graftHead s 0x20 0 t n 0 0 0 0 0) (slotTaken tag t n k graft narrowOk s)
      else rackFit (slotTaken tag t n k graft narrowOk s)
    | none => rackFit (noOffer t (slotTaken tag t n k graft narrowOk s)) := by
  have keyed : (rackables s t n).find? (fun e => decide ((keyAt e.2 n).1 = 0)) = none :=
    List.find?_eq_none.mpr fun e he => by simpa using h.keyed e he
  have inside : (rackables s t n).find? (fun e => groupOut e.2 (keyAt e.2 n).2 (tenCoord s t)
      (((bindOf s t).map (fun b => (bindRec s b).members.length)).getD 0)) = none :=
    List.find?_eq_none.mpr fun e he => by simp [h.inside e he]
  have free : ¬(s.rck.job.isSome = true ∨ (slotAt s 0).st = 1 ∨ (slotAt s 1).st = 1) := by
    simp [h.idle, h.free0, h.free1]
  unfold rackEffect
  simp only [keyed, inside, if_neg free, h.slot, h.wear]
  rfl

/-- What a rack that is not narrowed and fits has taken: its slot, and the job with its size. -/
theorem RackPasses.fits (h : RackPasses s t n k) (tag : Nat) (narrowOk : Bool) (rack : totalBytes (rackables s t n) [] ≤ rsvReg s 1 * gib)
    (drain : 2 * totalBytes (rackables s t n) [] ≤ rsvReg s 4 * gib) :
    slotAt (rackEffect tag t n false narrowOk s) k = newSlot s t n ∧
      slotAt (rackEffect tag t n false narrowOk s) (1 - k) = slotAt s (1 - k) ∧
      (rackEffect tag t n false narrowOk s).rck.job = some (newJob s tag t n k false narrowOk).sized ∧
      Only [.rck] s (rackEffect tag t n false narrowOk s) := by
  have other : slotAt (slotTaken tag t n k false narrowOk s) (1 - k) = slotAt s (1 - k) := slotAt_slotTaken_other (pickSlot_lt h.slot)
  have taken : slotAt (slotTaken tag t n k false narrowOk s) k = newSlot s t n := slotAt_slotTaken
  have fits : ∀ u, u.rck.job = some (newJob s tag t n k false narrowOk) → Only [.rck] s u →
      rackFit u = modRck (fun r => { r with job := some (newJob s tag t n k false narrowOk).sized }) u := fun u job frame => by
    have grp : rsvReg u = rsvReg s := by funext i; rw [rsvReg, cset, frame .grp (by decide), frame .half (by decide)]; rfl
    exact rackFit_within job (rackLimit_within (by rw [grp]; exact rack) (by rw [grp]; exact drain) fun e => nomatch e)
  rw [h.rackEffect_eq]
  split
  · rw [if_neg (by decide), fits _ rfl slotTaken_frame]
    exact ⟨taken, other, rfl, modRck_only _ (by decide) slotTaken_frame⟩
  · have frame := modTenRack_only t (fun x => { x with offer := 0 }) (by decide)
      (slotTaken_frame (s := s) (tag := tag) (t := t) (n := n) (k := k) (graft := false) (narrowOk := narrowOk))
    rw [fits (noOffer t _) rfl frame]
    exact ⟨taken, other, rfl, modRck_only _ (by decide) frame⟩

/-- A rack to be grafted has taken its slot and asks its buddy for an offer (R401). -/
theorem RackPasses.asks {b q : Nat} (h : RackPasses s t n k) (tag : Nat) (narrowOk : Bool) (buddy : buddySlot s t = some (b, q)) :
    slotAt (rackEffect tag t n true narrowOk s) k = newSlot s t n ∧
      slotAt (rackEffect tag t n true narrowOk s) (1 - k) = slotAt s (1 - k) ∧
      (rackEffect tag t n true narrowOk s).rck.job = some (newJob s tag t n k true narrowOk) ∧
      Out.vine b q 2 (buddyCoord s b q) (graftHead s 0x20 0 t n 0 0 0 0 0) ∈ (rackEffect tag t n true narrowOk s).out ∧
      Only [.rck, .out, .vnl] s (rackEffect tag t n true narrowOk s) := by
  have asked := h.rackEffect_eq tag true narrowOk
  rw [buddy] at asked
  rw [asked]
  have traffic := toBuddy_traffic b q 2 (graftHead s 0x20 0 t n 0 0 0 0 0) (slotTaken tag t n k true narrowOk s)
  have rck := traffic.frame .rck (by decide)
  refine ⟨(slotAt_of_rck rck k).trans slotAt_slotTaken, (slotAt_of_rck rck (1 - k)).trans (slotAt_slotTaken_other (pickSlot_lt h.slot)),
    congrArg Rck.job rck, toBuddy_sends .., ?_⟩
  exact (slotTaken_frame.mono (by decide)).trans (traffic.frame.mono (by decide))

/-- A rack to be grafted whose tenant has no buddy, not to be narrowed, ends at its size checks with its slot EMPTY. -/
theorem RackPasses.alone (h : RackPasses s t n k) (tag : Nat) (none : buddySlot s t = none) (pos : 0 < totalBytes (rackables s t n) []) :
    ∃ d, ∃ u, rackEffect tag t n true false s = rackEnd tag t n 0x0600 d 0 u ∧ u.rck.job = .none ∧ slotAt u k = {} ∧
      slotAt u (1 - k) = slotAt s (1 - k) ∧ Only [.rck] s u := by
  have effect := h.rackEffect_eq tag true false
  rw [none] at effect
  obtain ⟨d, exceeds⟩ := rackLimit_offer (s := noOffer t (slotTaken tag t n k true false s)) (t := t)
    (r := totalBytes (rackables s t n) []) (by simpa [noOffer] using pos)
  have refused := rackFit_refused (s := noOffer t (slotTaken tag t n k true false s)) (j := newJob s tag t n k true false) rfl rfl exceeds
  have hk := pickSlot_lt h.slot
  have other : slotAt (slotTaken tag t n k true false s) (1 - k) = slotAt s (1 - k) := slotAt_slotTaken_other hk
  refine ⟨d, _, effect.trans refused, setSlot_job .., slotAt_setSlot_same .., (slotAt_setSlot_other hk ..).trans other, ?_⟩
  exact setSlot_only _ _ (by decide) (modRck_only _ (by decide) (modTenRack_only _ _ (by decide) slotTaken_frame))

end

/-- A rackable handle without a key ends the rack (R385). -/
theorem rackEffect_keyless {s : State} {t n : Nat} {e : Nat × Hnd}
    (found : (rackables s t n).find? (fun e => decide ((keyAt e.2 n).1 = 0)) = some e) (tag : Nat) (graft narrowOk : Bool) :
    rackEffect tag t n graft narrowOk s = rackEnd tag t n 0x0601 0 e.1 s := by
  unfold rackEffect
  simp only [found]

/-- Settles O40: each branch of a RACK_TAKE by `exec_rackTake`; the effect point by `RackPasses.fits`, `RackPasses.asks` and
`RackPasses.alone`, or `rackEffect_keyless`. -/
theorem racksAreTaken : Obligations.RacksAreTaken := by
  refine ⟨fun tag l st s h bad => ?reserved, fun tag n l s h aligned => ?attached, fun tag l s h aligned restoring => ?restoring,
    fun tag n k size hs l s h aligned restored hn hhs keyed buddy inside idle free0 free1 slot wear hsize rack drain => ?taken,
    fun tag n k size hs l s h small aligned restored hn hhs keyed grafts strict alone inside idle free0 free1 slot wear hsize pos => ?alone,
    fun tag n e l s h small aligned restored hn found => ?keyless⟩
  case reserved =>
    exact ⟨_, (exec_rackTake h).trans (congrArg _ (if_pos bad)), h.mayEnd.endsWith (modLive_flow tag _ s) 0x12 20 0⟩
  case attached =>
    obtain ⟨ends, frame⟩ := h.mayEnd.endsWith (modLive_flow tag _ s) 0 0 0
    refine ⟨_, (exec_rackTake h).trans (congrArg _ (if_neg (not_not_intro aligned))), ends, ?_, frame⟩
    exact congrArg Rck.job ((h.mayEnd.done_rck 0 0 0).trans (modLive_rck ..))
  case restoring =>
    refine ⟨_, (exec_rackTake h).trans (congrArg _ ((if_neg (not_not_intro aligned)).trans (if_pos restoring))), ?_, ?_⟩
    · rw [modLive_modLive h.live, liveRec_modLive, if_pos rfl, h.live]
      rfl
    · exact modLive_only tag _ (by decide) (modLive_frame tag _ s)
  case taken =>
    subst hn hhs hsize
    have passes := RackPasses.modLive ⟨keyed, inside, idle, free0, free1, slot, wear⟩ tag (Live.started none)
    have started : Only [.hif, .rck] s (modLive tag (Live.started none) s) := (modLive_frame tag _ s).mono (by decide)
    refine ⟨_, exec_rackTake_now h aligned restored, ?_⟩
    cases grafts : bitOf (fieldAt l.desc 16 1) 0 with
    | false =>
      obtain ⟨mine, other, job, frame⟩ := passes.fits tag (bitOf (fieldAt l.desc 16 1) 1)
        (by simpa only [rackables_modLive, rsvReg_modLive]) (by simpa only [rackables_modLive, rsvReg_modLive])
      rw [newSlot, tenParcel_modLive] at mine
      rw [newJob, rackables_modLive] at job
      rw [slotAt_modLive] at other
      exact ⟨by rw [mine], by rw [mine], by rw [mine], by rw [mine], other, fun _ => ⟨job, started.trans (frame.mono (by decide))⟩,
        nofun⟩
    | true =>
      obtain ⟨⟨b, q⟩, found⟩ := Option.isSome_iff_exists.mp (buddy grafts)
      obtain ⟨mine, other, job, sent, frame⟩ := passes.asks tag (bitOf (fieldAt l.desc 16 1) 1) ((buddySlot_modLive ..).trans found)
      rw [newSlot, tenParcel_modLive] at mine
      rw [newJob, rackables_modLive] at job
      rw [slotAt_modLive] at other
      rw [buddyCoord_modLive, graftHead_modLive] at sent
      refine ⟨by rw [mine], by rw [mine], by rw [mine], by rw [mine], other, nofun, fun b' q' _ same => ?_⟩
      obtain ⟨rfl, rfl⟩ := Prod.mk.inj (Option.some.inj (found.symm.trans same))
      exact ⟨job, sent, (started.mono (by decide)).trans (frame.mono (by decide))⟩
  case alone =>
    subst hn hhs hsize
    have passes := RackPasses.modLive ⟨keyed, inside, idle, free0, free1, slot, wear⟩ tag (Live.started none)
    obtain ⟨d, u, effect, job, mine, other, frame⟩ := passes.alone tag ((buddySlot_modLive ..).trans alone)
      (by rw [rackables_modLive]; exact pos)
    rw [rackEnd_descriptor small] at effect
    have rck := finish_rck tag 0x0600 d 0 u
    refine ⟨_, exec_rackTake_now h aligned restored, ?_⟩
    rw [grafts, strict, effect]
    refine ⟨?_, by rw [rck, job], (slotAt_of_rck rck k).trans mine, ((slotAt_of_rck rck _).trans other).trans (slotAt_modLive ..), ?_⟩
    · exact (h.mayEnd.of_only frame (by decide) (by decide)).finish_gone rfl 0x0600 d 0
    · exact (((modLive_frame tag _ s).mono (by decide)).trans (frame.mono (by decide))).trans ((finish_frame _ _ _ _ _).mono (by decide))
  case keyless =>
    subst hn
    have effect := rackEffect_keyless ((congrArg (List.find? _) (rackables_modLive tag (Live.started none) s _ _)).trans found) tag
      (bitOf (fieldAt l.desc 16 1) 0) (bitOf (fieldAt l.desc 16 1) 1)
    rw [rackEnd_descriptor small] at effect
    refine ⟨_, exec_rackTake_now h aligned restored, ?_⟩
    rw [effect]
    refine ⟨h.mayEnd.finish_gone rfl 0x0601 0 e.1, (finish_rck ..).trans (modLive_rck ..), ?_⟩
    exact ((modLive_frame tag _ s).mono (by decide)).trans ((finish_frame _ _ _ _ _).mono (by decide))

end Sys2Proof.Machine
end

section
/-!
Rack keys and queries, released slots and the wear bucket (R380, R382, R394, R416, R418 of 10).
-/
namespace Sys2Proof.Machine

/-! ## RACK_KEY (R380, R382) -/

/-- The record RACK_KEY leaves of a handle: its key, its stride and, for one attached to a step, what they were before the step. -/
def Hnd.keyed (l : Live) (x : Hnd) : Hnd := { x with
  key := fieldAt l.desc 20 4, stride := if x.replicated then fieldAt l.desc 24 2 else x.stride,
  oldKeys := match l.step with
    | some n => if x.oldKeys.any (fun o => decide (o.1 = n)) then x.oldKeys else x.oldKeys ++ [(n, x.key, x.stride)]
    | none => x.oldKeys }

/-- A key that no other handle of the tenant holds is given. -/
theorem rackKeyNow_eq {s : State} {tag : Nat} {l : Live} {x : Hnd} (live : liveRec s tag = some l)
    (hx : hndRec s (fieldAt l.desc 16 3) = some x) (usable : hndOk s (liveTen l) (fieldAt l.desc 16 3) = true) (racked : x.noRack = false)
    (strided : x.replicated = true → fieldAt l.desc 24 2 ≠ 0)
    (unique : ∀ e ∈ tenHnds s (liveTen l), e.1 ≠ fieldAt l.desc 16 3 → e.2.key = fieldAt l.desc 20 4 → fieldAt l.desc 20 4 = 0) :
    rackKeyNow tag s = done tag 0 0 0 (modHnd (fieldAt l.desc 16 3) (Hnd.keyed l) s) := by
  have taken : ¬(fieldAt l.desc 20 4 ≠ 0 ∧ (tenHnds s (liveTen l)).any (fun e =>
      decide (e.1 ≠ fieldAt l.desc 16 3) && decide (e.2.key = fieldAt l.desc 20 4) && !e.2.gone) = true) := by
    rintro ⟨keyed, other⟩
    obtain ⟨e, mem, same⟩ := List.any_eq_true.mp other
    simp only [Bool.and_eq_true, decide_eq_true_eq] at same
    exact keyed (unique e mem same.1.1 same.1.2)
  unfold rackKeyNow
  simp only [live, hx]
  rw [if_neg (not_not_intro usable), if_neg (by simp [racked]), if_neg (fun c => strided c.1 c.2), if_neg taken]
  rfl

theorem hnd_gone_of_mem_modHnd {s : State} (kept : ∀ e ∈ s.pln.hnds, e.2.gone = false) (h : Nat) {f : Hnd → Hnd}
    (hf : ∀ x, (f x).gone = x.gone) : ∀ e ∈ (modHnd h f s).pln.hnds, e.2.gone = false := by
  intro e mem
  cases found : hndRec s h with
  | none => exact kept e (by simpa only [modHnd, found] using mem)
  | some x =>
    rw [modHnd_of_hnd found, modPln_pln] at mem
    obtain rfl | old := mem_put mem
    · exact (hf x).trans (kept _ (mem_of_find found))
    · exact kept e old

/-! ## RACK_QUERY (R394) -/

theorem tenHnds_modLive (tag : Nat) (f : Live → Live) (s : State) (t : Nat) : tenHnds (modLive tag f s) t = tenHnds s t := by simp [tenHnds]
theorem newestRack_modLive (tag : Nat) (f : Live → Live) (s : State) (t : Nat) : newestRack (modLive tag f s) t = newestRack s t := by
  simp only [newestRack, slotAt_modLive]

/-- The result of a RACK_QUERY: the newest complete rack, with its mark, or 0. -/
def rackAnswer (s : State) (t : Nat) : Nat :=
  match newestRack s t with
  | some k => rackResult (slotAt s k) k % 2 ^ 52 + 2 ^ 52
  | none => 0

theorem liveTen_started (st : Option Nat) (l : Live) : liveTen (l.started st) = liveTen l := rfl
theorem exec_rackQuery {s : State} {tag : Nat} {l : Live} {st : Option Nat} (h : Starts s tag 0x64 l st) :
    exec (.rackQuery tag) s = .next (done tag 0 0 (rackAnswer s (liveTen (l.started st))) (modLive tag (Live.started st) s)) := by
  refine congrArg Host.Outcome.next ((startDesc_go h _).trans ?_)
  have live : liveRec (modLive tag (fun l => { l with stage := .running, step := st }) s) tag = some (l.started st) := h.mayEnd.live
  simp only [live, rackAnswer, newestRack_modLive, slotAt_modLive]
  cases newestRack s (liveTen (l.started st)) <;> rfl

/-- Settles O41: the key by `rackKeyNow_eq`, the query by `exec_rackQuery`, the slot and the bucket by their instructions' one branch. -/
theorem keysSlotsAndWear : Obligations.KeysSlotsAndWear := by
  refine ⟨fun tag h x l st s starts hh hx usable racked strided unique kept => ?key, fun tag l st s starts => ?query,
    fun acc k v s opened hk release gone => ?release, fun acc k v s active => ?active, fun s => ?wear⟩
  case key =>
    subst hh
    let u := modLive tag (Live.started st) s
    have effect : exec (.rackKey tag) s = .next (done tag 0 0 0 (modHnd (fieldAt l.desc 16 3) (Hnd.keyed (l.started st)) u)) :=
      congrArg Host.Outcome.next ((startDesc_go starts _).trans (rackKeyNow_eq (l := l.started st) starts.mayEnd.live
        ((hndRec_modLive ..).trans hx) ((hndOk_modLive ..).trans usable) racked strided (by rw [tenHnds_modLive]; exact unique)))
    have frame : Only [.pln] u (modHnd (fieldAt l.desc 16 3) (Hnd.keyed (l.started st)) u) := modHnd_only _ _ (by decide) (Only.rfl' _ u)
    have ends := starts.mayEnd.of_only frame (by decide) (by decide)
    have plain : ∀ e ∈ u.pln.hnds, e.2.gone = false := by rw [show u.pln = s.pln from modLive_pln ..]; exact kept
    obtain ⟨ended, only⟩ := ends.endsWith (((modLive_flow tag _ s)).trans (frame.mono (by decide))) 0 0 0
    have pln := (ends.done_quiet (notGone_stays (hnd_gone_of_mem_modHnd plain _ fun _ => rfl)) 0 0 0).1
    have hnds : ∀ q, hndRec (done tag 0 0 0 (modHnd (fieldAt l.desc 16 3) (Hnd.keyed (l.started st)) u)) q =
        if q = fieldAt l.desc 16 3 then (hndRec s (fieldAt l.desc 16 3)).map (Hnd.keyed (l.started st)) else hndRec s q := fun q => by
      rw [hndRec, pln, ← hndRec, hndRec_modHnd, hndRec_modLive, hndRec_modLive]
    refine ⟨_, effect, ⟨x.keyed (l.started st), by rw [hnds, if_pos rfl, hx]; rfl, rfl, rfl, rfl, rfl, ?_⟩,
      fun q hq => by rw [hnds, if_neg hq], ended, only⟩
    rintro rfl
    rfl
  case query =>
    obtain ⟨ended, frame⟩ := starts.mayEnd.endsWith (modLive_flow tag _ s) 0 0 (rackAnswer s (liveTen l))
    refine ⟨_, exec_rackQuery starts, fun none => ?_, fun k some => ?_, frame⟩
    · simp only [rackAnswer, liveTen_started, none] at ended ⊢
      exact ended
    · simp only [rackAnswer, liveTen_started, some] at ended ⊢
      exact ended
  case release =>
    refine ⟨_, congrArg Host.Outcome.next (if_pos ⟨opened, hk, release, by simp [gone]⟩), ?_, ?_, setSlot_job .., setSlot_frame _ _ _⟩
    · exact slotAt_setSlot_same ..
    · exact slotAt_setSlot_other hk ..
  case active => exact congrArg Host.Outcome.next (if_neg fun c => c.2.2.2 active)
  case wear => exact congrArg Host.Outcome.next (by norm_num [wearRate, modRck])

end Sys2Proof.Machine
end

section
/-!
The messages of grafts: offers, data, commits, acknowledgements and hashes (R400 to R405 of 10, R470 of 12).
-/
namespace Sys2Proof.Machine

/-! ## A message of a graft is taken -/

section
variable {i b : Nat} {m : List Byte} {s : State}

theorem exec_graftOfferReq (h : inboxAt s i 0x20 = some (b, m)) : exec (.graftOfferReq i) s = .next (sendTo b 2 (fieldAt m 10 2)
    (graftHead s 0x21 0 (bindTen s b) (fieldAt m 4 6) 0 0 0 0 (offerFor s (bindTen s b) (fieldAt m 10 2))) (dropInbox i s)) := by
  change execGraftOfferReq i s = _
  rw [execGraftOfferReq, h]
theorem exec_graftOffer (h : inboxAt s i 0x21 = some (b, m)) :
    exec (.graftOffer i) s = .next (takeOffer (bindTen s b) m (dropInbox i s)) := by
  change execGraftOffer i s = _
  rw [execGraftOffer, h]
theorem exec_graftData (h : inboxAt s i 0x22 = some (b, m)) : exec (.graftData i) s = .next (takeData b m (dropInbox i s)) := by
  change execGraftData i s = _
  rw [execGraftData, h]
theorem exec_graftCommit (h : inboxAt s i 0x23 = some (b, m)) : exec (.graftCommit i) s = .next (takeCommit b m (dropInbox i s)) := by
  change execGraftCommit i s = _
  rw [execGraftCommit, h]
theorem exec_graftAck (h : inboxAt s i 0x24 = some (b, m)) : exec (.graftAck i) s = .next (takeAck (bindTen s b) m (dropInbox i s)) := by
  change execGraftAck i s = _
  rw [execGraftAck, h]
theorem exec_graftHash (h : inboxAt s i 0x25 = some (b, m)) : exec (.graftHash i) s = .next (takeHash (bindTen s b) m (dropInbox i s)) := by
  change execGraftHash i s = _
  rw [execGraftHash, h]

end

/-! ## Offers (R401) -/

/-- An offer to a rack that asked for it and fits lets the rack go on. -/
theorem takeOffer_goes {s : State} {j : RackJob} {m : List Byte} (job : s.rck.job = some j) (asking : j.asking = true)
    (rack : totalBytes j.hs [] ≤ rsvReg s 1 * gib) (drain : 2 * totalBytes j.hs [] ≤ rsvReg s 4 * gib)
    (offer : totalBytes j.hs [] ≤ fieldAt m 24 8) : takeOffer j.tenant m s =
      modRck (fun r => { r with job := some j.sized }) (modTenRack j.tenant (fun x => { x with offer := fieldAt m 24 8 }) s) := by
  unfold takeOffer
  rw [job]
  exact (if_pos ⟨rfl, asking⟩).trans (rackFit_within job (rackLimit_within rack drain fun _ => by simpa using offer))

/-! ## What senders hold (Table 10.12), and DATA (R402, R405, R470) -/

theorem ginUse_le_ginHeld (s : State) (k : Nat) : ginUse (Map.get {} s.rck.gin k) ≤ ginHeld s := by
  cases found : Map.find s.rck.gin k with
  | none => rw [Map.get, found]; exact Nat.zero_le _
  | some g =>
    rw [Map.get, found]
    exact List.le_sum_of_mem (List.mem_map.mpr ⟨(k, g), mem_of_find found, rfl⟩)
theorem length_mergeBlks_le (l new : List RackBlk) : (mergeBlks l new).length ≤ l.length + new.length := by
  rw [mergeBlks, List.length_append]
  exact Nat.add_le_add_right (List.length_filter_le _ _) _
theorem ginUse_ginTake_le (rack : Bool) (n : Nat) (new : List RackBlk) (g : Gin) :
    ginUse (ginTake rack n new g) ≤ ginUse g + 4096 * new.length := by
  have merged := length_mergeBlks_le g.rack new
  have shadowed := length_mergeBlks_le (if g.shadowStep = some n then g.shadow else []) new
  have kept : (if g.shadowStep = some n then g.shadow else []).length ≤ g.shadow.length := by split <;> simp
  simp only [ginUse, ginTake]
  split
  · split <;> dsimp only <;> omega
  · dsimp only; omega
/-- What data leaves of an entry: whose it is, and the image. -/
theorem ginTake_keeps (rack : Bool) (n : Nat) (new : List RackBlk) (g : Gin) : (ginTake rack n new g).valid = g.valid ∧
    (ginTake rack n new g).tenant = g.tenant ∧ (ginTake rack n new g).sender = g.sender ∧ (ginTake rack n new g).image = g.image := by
  unfold ginTake
  split
  · split <;> exact ⟨rfl, rfl, rfl, rfl⟩
  · exact ⟨rfl, rfl, rfl, rfl⟩
theorem ginTake_step (n : Nat) (new : List RackBlk) (g : Gin) :
    ginTake false n new g = { g with shadow := mergeBlks (if g.shadowStep = some n then g.shadow else []) new, shadowStep := some n } := rfl
theorem ginTake_rack (n : Nat) (new : List RackBlk) (g : Gin) :
    (ginTake true n new g).rack = if g.rackStep.isSome then new else mergeBlks g.rack new := by
  cases h : g.rackStep <;> simp [ginTake, h]
theorem length_of_checkedBlocks {n b : Nat} {bs : List Byte} {l : List (Nat × List Byte)} (h : checkedBlocks n b bs = some l) :
    l.length = n := by
  induction n generalizing b bs l with
  | zero => cases h; rfl
  | succ n ih =>
    rw [checkedBlocks] at h
    split at h
    · obtain ⟨r, hr, rfl⟩ := Option.map_eq_some_iff.mp h
      rw [List.length_cons, ih hr]
    · cases h

/-- The blocks of a DATA, of the key and page it names. -/
def dataBlks (m : List Byte) (l : List (Nat × List Byte)) : List RackBlk := l.map (fun x => ⟨fieldAt m 12 4, fieldAt m 16 4, x.1, x.2⟩)
/-- A sender's entry, as of the message taken. -/
def Gin.of (t : Nat) (m : List Byte) (g : Gin) : Gin := { g with valid := true, tenant := t, sender := fieldAt m 10 2 }
/-- What data that passes its checks makes of an entry. -/
def Gin.joined (t : Nat) (m : List Byte) (l : List (Nat × List Byte)) (g : Gin) : Gin :=
  ginTake (bitOf (fieldAt m 1 1) 2) (fieldAt m 4 6) (dataBlks m l) (g.of t m)
/-- What data that fails its check leaves of an entry (R405). -/
def Gin.dropped (rack : Bool) (g : Gin) : Gin :=
  if rack then { g with rack := [], rackStep := none, rackMan := [], bad := true } else { g with shadow := [], bad := true }

section
variable {s : State} {b k : Nat} {m : List Byte} (entry : ginFor s (bindTen s b) (fieldAt m 10 2) = some k)
include entry

theorem takeData_joins {l : List (Nat × List Byte)} (checked : checkedBlocks (fieldAt m 22 2) (fieldAt m 20 2) (m.drop 32) = some l)
    (room : ginHeld s + 4096 * fieldAt m 22 2 ≤ rsvReg s 2 * gib) : takeData b m s =
      modGin k (Gin.joined (bindTen s b) m l) s := by
  have held := ginUse_le_ginHeld s k
  have use := ginUse_ginTake_le (bitOf (fieldAt m 1 1) 2) (fieldAt m 4 6) (dataBlks m l) ((Map.get {} s.rck.gin k).of (bindTen s b) m)
  rw [show ginUse ((Map.get {} s.rck.gin k).of (bindTen s b) m) = ginUse (Map.get {} s.rck.gin k) from rfl, dataBlks, List.length_map,
    length_of_checkedBlocks checked] at use
  unfold takeData
  simp only [entry, checked]
  exact if_neg (Nat.not_lt.mpr (by unfold Gin.of at use; omega))
theorem takeData_fails (checked : checkedBlocks (fieldAt m 22 2) (fieldAt m 20 2) (m.drop 32) = none) : takeData b m s =
    checkFail (bindTen s b) (if bitOf (fieldAt m 1 1) 2 then 4 else 5) (fieldAt m 12 4)
      (modGin k (fun g => (g.dropped (bitOf (fieldAt m 1 1) 2)).of (bindTen s b) m) s) := by
  unfold takeData
  simp only [entry, checked]
  rfl

/-! ## COMMIT (R403, R405) -/

theorem takeCommit_bad (bad : (Map.get {} s.rck.gin k).bad = true) : takeCommit b m s = sendTo b 0 (fieldAt m 10 2)
    (graftHead s 0x24 (b2n (bitOf (fieldAt m 1 1) 2) * 4) (bindTen s b) 0xFFFFFFFFFFFF 0 0 0 0 0)
    (modGin k (fun g => { g with bad := false }) s) := by
  unfold takeCommit
  simp only [entry]
  exact if_pos bad
theorem takeCommit_rack (sound : (Map.get {} s.rck.gin k).bad = false) (rack : bitOf (fieldAt m 1 1) 2 = true) :
    takeCommit b m s = sendTo b 0 (fieldAt m 10 2)
      (graftHead s 0x24 (b2n (bitOf (fieldAt m 1 1) 2) * 4) (bindTen s b) (fieldAt m 4 6) 0 0 0 0 0)
      (modGin k (fun g => { g.of (bindTen s b) m with
        rackStep := some (fieldAt m 4 6), rackMan := (m.drop 32).take (128 + 128 * fieldAt (m.drop 32) 16 4) }) s) := by
  unfold takeCommit
  simp only [entry, sound, rack]
  rfl
/-- The entry a step's COMMIT leaves: its shadow is the image. -/
def Gin.committed (t : Nat) (m : List Byte) (g : Gin) : Gin :=
  { g.of t m with
    image := if bitOf (fieldAt m 1 1) 0 then g.shadow else mergeBlks g.image g.shadow, shadow := [], shadowStep := none
    step := some (fieldAt m 4 6), cover := bitOf (fieldAt m 1 1) 1
    entries := if ((Machine.entries (m.drop 32)).flatMap (fun e => e)).isEmpty then g.entries
      else (Machine.entries (m.drop 32)).flatMap (fun e => e) }
theorem takeCommit_step (sound : (Map.get {} s.rck.gin k).bad = false) (step : bitOf (fieldAt m 1 1) 2 = false) :
    takeCommit b m s = sendTo b 0 (fieldAt m 10 2) (graftHead s 0x24 0 (bindTen s b) (fieldAt m 4 6) 0 0 0 0 0)
      (modGin k (Gin.committed (bindTen s b) m) s) := by
  unfold takeCommit
  simp only [entry, sound, step]
  rfl

end

theorem get_gin_of_upd {s u : State} {k : Nat} {f : Gin → Gin} (h : u.rck.gin = Map.upd {} s.rck.gin k f) (q : Nat) :
    Map.get {} u.rck.gin q = if q = k then f (Map.get {} s.rck.gin k) else Map.get {} s.rck.gin q := by rw [h, get_upd]
/-- An entry changed and its sender answered. -/
theorem sendTo_modGin {s : State} {b dest q : Nat} (k cls : Nat) (f : Gin → Gin) (bytes : List Byte)
    (way : (nextHop s b dest).bind (slotTo s b) = some q) :
    (sendTo b cls dest bytes (modGin k f s)).rck.gin = Map.upd {} s.rck.gin k f ∧
      Out.vine b q cls dest bytes ∈ (sendTo b cls dest bytes (modGin k f s)).out ∧
      Only [.out, .vnl, .rck] s (sendTo b cls dest bytes (modGin k f s)) := by
  have traffic := sendTo_traffic b cls dest bytes (modGin k f s)
  refine ⟨congrArg Rck.gin (traffic.frame .rck (by decide)), sendTo_sends cls bytes way, ?_⟩
  exact ((modGin_frame k f s).mono (by decide)).trans (traffic.frame.mono (by decide))

/-! ## ACK (R391, R402) -/

@[simp] theorem setGraft_job (t g : Nat) (s : State) : (setGraft t g s).rck.job = s.rck.job := by
  unfold setGraft
  split
  · rfl
  · rw [noteT_frame _ _ _ _ _ .rck (by decide)]
    rfl
theorem tenRack_setGraft (t g : Nat) (s : State) : tenRack (setGraft t g s) t = { tenRack s t with graft := g } := by
  unfold setGraft
  split
  · next same => rw [← same]
  · rw [tenRack_of_rck (noteT_frame _ _ _ _ _ .rck (by decide)), tenRack_modTenRack, if_pos rfl]

/-- The step graft in flight that is acknowledged is the tenant's. -/
theorem takeAck_graft {s : State} {t : Nat} {m : List Byte} (step : bitOf (fieldAt m 1 1) 2 = false)
    (flight : (tenRack s t).flight = some (fieldAt m 4 6)) : takeAck t m s =
      setGraft t 2 (modTenRack t (fun x => { x with
        flight := none, gstep := some (fieldAt m 4 6), cover := fullCover s t (fieldAt m 4 6) }) s) := by
  unfold takeAck
  rw [if_neg (by simp [step])]
  exact if_pos flight
theorem takeAck_rack {s : State} {j : RackJob} {m : List Byte} (rack : bitOf (fieldAt m 1 1) 2 = true) (job : s.rck.job = some j)
    (passed : j.passed = true) : takeAck j.tenant m s =
      modRck (fun r => { r with
        job := some (if fieldAt m 4 6 = j.step then { j with graftOk := true } else { j with graft := false }) }) s := by
  unfold takeAck
  simp only [rack, job, passed]
  by_cases same : fieldAt m 4 6 = j.step <;> simp [same]

/-! ## HASH (R400) -/

theorem compareHash_rck (a o : HashRec) (s : State) : (compareHash a o s).rck =
    { s.rck with mismatch := if a.hash = o.hash then s.rck.mismatch else satAdd 32 s.rck.mismatch 1 } := by
  unfold compareHash
  split
  · rfl
  · rw [noteT_frame _ _ _ _ _ .rck (by decide)]
    rfl
/-- The hash a message brings. -/
def hashOf (t : Nat) (m : List Byte) : HashRec := ⟨t, fieldAt m 10 2, fieldAt m 12 4, fieldAt m 4 6, fieldAt m 32 48, false⟩
/-- This module's own hash of the key and step of another's. -/
def twin (s : State) (a : HashRec) : Option HashRec :=
  s.rck.hashes.find? (fun o => o.own && decide (o.tenant = a.tenant) && decide (o.key = a.key) && decide (o.step = a.step))
theorem takeHash_eq (t : Nat) (m : List Byte) (s : State) : takeHash t m s =
    match twin s (hashOf t m) with
    | some o => compareHash (hashOf t m) o s
    | none => modRck (fun r => { r with hashes := r.hashes ++ [hashOf t m] }) s := rfl
theorem twin_none {s : State} {a : HashRec}
    (h : ∀ o ∈ s.rck.hashes, o.own = true → o.tenant = a.tenant → o.key = a.key → o.step ≠ a.step) : twin s a = none :=
  List.find?_eq_none.mpr fun o ho same => by
    simp only [Bool.and_eq_true, decide_eq_true_eq] at same
    exact h o ho same.1.1.1 same.1.1.2 same.1.2 same.2
theorem compareHash_frame (a o : HashRec) (s : State) : Only [.out, .hif, .rck, .book] s (compareHash a o s) :=
  compareHash_only a o (by decide) (by decide) (by decide) (by decide) (Only.rfl' _ s)

/-- Settles O43: an OFFER_REQ by `sendTo_sends`; each other message by what taking it makes of the rack block (`takeOffer_goes`,
`takeData_joins`, `takeData_fails`, `takeCommit_step`, `takeCommit_bad`, `takeCommit_rack`, `takeAck_graft`, `takeAck_rack`,
`compareHash_rck`). -/
theorem graftMessages : Obligations.GraftMessages := by
  refine ⟨fun i b k m s h way => ?request, fun i b size m j s h job mine asking hsize rack drain offer => ?offer,
    fun i b k m l s h entry checked room => ?data, fun i b k m s h entry checked => ?failing,
    fun i b k q m s h entry sound step way => ?step, fun i b k q m s h entry other way => ?other,
    fun i b m s h step flight => ?acked, fun i b m j s h rack job mine passed => ?rackAcked, fun i b m a s h ha => ?hash,
    fun i a s found other running => ?timeout⟩
  case request =>
    have traffic := sendTo_traffic b 2 (fieldAt m 10 2) (graftHead s 0x21 0 (bindTen s b) (fieldAt m 4 6) 0 0 0 0
      (offerFor s (bindTen s b) (fieldAt m 10 2))) (dropInbox i s)
    refine ⟨_, exec_graftOfferReq h, sendTo_sends 2 _ way, traffic.inbox, ?_⟩
    exact ((dropInbox_frame i s).mono (by decide)).trans (traffic.frame.mono (by decide))
  case offer =>
    subst hsize
    have goes := takeOffer_goes (s := dropInbox i s) (m := m) job asking rack drain offer
    rw [mine] at goes
    refine ⟨_, (exec_graftOffer h).trans (congrArg _ goes), rfl, ?_, rfl, ?_⟩
    · rw [mine]
      exact congrArg TenRack.offer ((tenRack_modTenRack _ _ (fun x => { x with offer := fieldAt m 24 8 }) _).trans (if_pos rfl))
    · exact modRck_only _ (by decide) (modTenRack_only _ _ (by decide) ((dropInbox_frame i s).mono (by decide)))
  case data =>
    refine ⟨_, (exec_graftData h).trans (congrArg _ (takeData_joins (s := dropInbox i s) entry checked room)), ?_⟩
    have gin := fun q => get_modGin k q (Gin.joined (bindTen s b) m l) (dropInbox i s)
    have mine := (gin k).trans (if_pos rfl)
    obtain ⟨valid, tenant, sender, image⟩ := ginTake_keeps (bitOf (fieldAt m 1 1) 2) (fieldAt m 4 6) (dataBlks m l)
      ((Map.get {} s.rck.gin k).of (bindTen s b) m)
    refine ⟨(congrArg Gin.valid mine).trans valid, (congrArg Gin.tenant mine).trans tenant, (congrArg Gin.sender mine).trans sender,
      fun step => ?_, fun rack => ?_, fun q hq => (gin q).trans (if_neg hq), rfl, ?_⟩
    · rw [Gin.joined, step, ginTake_step] at mine
      exact ⟨congrArg Gin.shadow mine, congrArg Gin.shadowStep mine, (congrArg Gin.image mine).trans rfl⟩
    · refine ⟨(congrArg Gin.rack mine).trans ?_, (congrArg Gin.image mine).trans image⟩
      rw [Gin.joined, rack]
      exact ginTake_rack ..
    · exact modGin_only k _ (by decide) ((dropInbox_frame i s).mono (by decide))
  case failing =>
    refine ⟨_, (exec_graftData h).trans (congrArg _ (takeData_fails (s := dropInbox i s) entry checked)), ?_⟩
    have noted := noteT_frame (bindTen s b) 0x0C06 0 ((if bitOf (fieldAt m 1 1) 2 then 4 else 5) + fieldAt m 12 4 * 256)
      (modErr (fun e => { e with checkFail := satAdd 32 e.checkFail 1 })
        (modGin k (fun g => (g.dropped (bitOf (fieldAt m 1 1) 2)).of (bindTen s b) m) (dropInbox i s)))
    have mine := (get_gin_of_upd (s := s) (f := fun g => (g.dropped (bitOf (fieldAt m 1 1) 2)).of (bindTen s b) m)
      (congrArg Rck.gin (noted .rck (by decide))) k).trans (if_pos rfl)
    refine ⟨fun step => (congrArg Gin.shadow mine).trans ?_, fun rack => (congrArg Gin.rack mine).trans ?_,
      (congrArg Gin.image mine).trans ?_, congrArg Err.checkFail (noted .err (by decide)), ?_⟩
    · rw [step]; rfl
    · rw [rack]; rfl
    · cases bitOf (fieldAt m 1 1) 2 <;> rfl
    · exact checkFail_only _ _ _ (by decide) (by decide) (by decide) (by decide)
        (modGin_only k _ (by decide) ((dropInbox_frame i s).mono (by decide)))
  case step =>
    obtain ⟨gin, sent, frame⟩ := sendTo_modGin (s := dropInbox i s) k 0 (Gin.committed (bindTen s b) m)
      (graftHead s 0x24 0 (bindTen s b) (fieldAt m 4 6) 0 0 0 0 0) way
    have entries := get_gin_of_upd (s := s) gin
    have mine := (entries k).trans (if_pos rfl)
    exact ⟨_, (exec_graftCommit h).trans (congrArg _ (takeCommit_step (s := dropInbox i s) entry sound step)),
      congrArg Gin.image mine, congrArg Gin.shadow mine, congrArg Gin.step mine, congrArg Gin.cover mine, sent,
      fun j hj => (entries j).trans (if_neg hj), ((dropInbox_frame i s).mono (by decide)).trans frame⟩
  case other =>
    cases bad : (Map.get {} s.rck.gin k).bad with
    | true =>
      obtain ⟨gin, sent, frame⟩ := sendTo_modGin (s := dropInbox i s) k 0 (fun g => { g with bad := false })
        (graftHead s 0x24 (b2n (bitOf (fieldAt m 1 1) 2) * 4) (bindTen s b) 0xFFFFFFFFFFFF 0 0 0 0 0) way
      have entries := get_gin_of_upd (s := s) gin
      have mine := (entries k).trans (if_pos rfl)
      exact ⟨_, (exec_graftCommit h).trans (congrArg _ (takeCommit_bad (s := dropInbox i s) entry bad)),
        (congrArg Gin.image mine).trans rfl, (congrArg Gin.step mine).trans rfl, congrArg Gin.bad mine,
        (congrArg Gin.rackStep mine).trans rfl, sent,
        fun j hj => (entries j).trans (if_neg hj), ((dropInbox_frame i s).mono (by decide)).trans frame⟩
    | false =>
      have rack : bitOf (fieldAt m 1 1) 2 = true := other.resolve_left (by simp [bad])
      obtain ⟨gin, sent, frame⟩ := sendTo_modGin (s := dropInbox i s) k 0 (fun g => { g.of (bindTen s b) m with
          rackStep := some (fieldAt m 4 6), rackMan := (m.drop 32).take (128 + 128 * fieldAt (m.drop 32) 16 4) })
        (graftHead s 0x24 (b2n (bitOf (fieldAt m 1 1) 2) * 4) (bindTen s b) (fieldAt m 4 6) 0 0 0 0 0) way
      have entries := get_gin_of_upd (s := s) gin
      have mine := (entries k).trans (if_pos rfl)
      exact ⟨_, (exec_graftCommit h).trans (congrArg _ (takeCommit_rack (s := dropInbox i s) entry bad rack)),
        (congrArg Gin.image mine).trans rfl, (congrArg Gin.step mine).trans rfl, (congrArg Gin.bad mine).trans bad,
        congrArg Gin.rackStep mine, sent,
        fun j hj => (entries j).trans (if_neg hj), ((dropInbox_frame i s).mono (by decide)).trans frame⟩
  case acked =>
    let f : TenRack → TenRack := fun x => { x with
      flight := none, gstep := some (fieldAt m 4 6), cover := fullCover s (bindTen s b) (fieldAt m 4 6) }
    have mine : tenRack (setGraft (bindTen s b) 2 (modTenRack (bindTen s b) f (dropInbox i s))) (bindTen s b) =
        { f (tenRack s (bindTen s b)) with graft := 2 } := by
      rw [tenRack_setGraft, tenRack_modTenRack, if_pos rfl]
      rfl
    refine ⟨_, (exec_graftAck h).trans (congrArg _ (takeAck_graft (s := dropInbox i s) step flight)),
      congrArg TenRack.graft mine, congrArg TenRack.gstep mine, congrArg TenRack.flight mine, setGraft_job .., ?_⟩
    exact setGraft_only _ _ (by decide) (by decide) (by decide) (by decide)
      (modTenRack_only _ _ (by decide) ((dropInbox_frame i s).mono (by decide)))
  case rackAcked =>
    have acked := (congrArg (fun t => takeAck t m (dropInbox i s)) mine.symm).trans (takeAck_rack (s := dropInbox i s) rack job passed)
    exact ⟨_, (exec_graftAck h).trans (congrArg _ acked), rfl, modRck_only _ (by decide) ((dropInbox_frame i s).mono (by decide))⟩
  case hash =>
    subst ha
    refine ⟨_, exec_graftHash h, fun first => ?_, fun o found => ?_⟩
    · rw [takeHash_eq, twin_none (s := dropInbox i s) (a := hashOf (bindTen s b) m) first]
      exact ⟨rfl, modRck_only _ (by decide) ((dropInbox_frame i s).mono (by decide))⟩
    · rw [takeHash_eq, show twin (dropInbox i s) (hashOf (bindTen s b) m) = some o from found]
      exact ⟨compareHash_rck .., ((dropInbox_frame i s).mono (by decide)).trans ((compareHash_frame _ o _).mono (by decide))⟩
  case timeout =>
    change execHashCompareTimeout i s = _
    simp only [execHashCompareTimeout, found]
    exact congrArg Host.Outcome.next (if_neg (by simp [other, running]))

end Sys2Proof.Machine
end

section
/-!
What waiting writes leave as they land (R360, R388): the handles, the pages up to their poison, and of the rack block all but the tenants'
graft state, where the blocks written in a step are noted (R402).
-/
namespace Sys2Proof.Machine

/-- Between s and u waiting writes may have landed. -/
structure Landed (s u : State) : Prop where
  hnds : u.pln.hnds = s.pln.hnds
  pages : ∀ k, ∃ l, Map.find u.pln.pages k = (Map.find s.pln.pages k).map (fun y => { y with poison := l })
  rck : ∃ tens, u.rck = { s.rck with tens := tens }
  frame : Only [.mem, .pln, .rck] s u

namespace Landed

variable {s u v : State}

theorem of_samePlaces (h : SamePlaces s u) : Landed s u where
  hnds := h.hnds
  pages k := by
    rw [h.pages]
    cases Map.find s.pln.pages k with
    | none => exact ⟨[], rfl⟩
    | some y => exact ⟨y.poison, rfl⟩
  rck := ⟨s.rck.tens, h.frame .rck (by decide)⟩
  frame := h.frame.mono (by decide)
theorem refl (s : State) : Landed s s := of_samePlaces (SamePlaces.refl s)
theorem trans (h : Landed s u) (g : Landed u v) : Landed s v where
  hnds := g.hnds.trans h.hnds
  pages k := by
    obtain ⟨l, hl⟩ := h.pages k
    obtain ⟨l', hl'⟩ := g.pages k
    exact ⟨l', by rw [hl', hl, Option.map_map]; rfl⟩
  rck := by
    obtain ⟨tens, ht⟩ := h.rck
    obtain ⟨tens', ht'⟩ := g.rck
    exact ⟨tens', by rw [ht', ht]⟩
  frame := h.frame.trans g.frame
theorem noteWritten (tens : Map TenRack) : Landed s (modRck (fun r => { r with tens := tens }) s) where
  hnds := rfl
  pages := (refl s).pages
  rck := ⟨tens, rfl⟩
  frame := modRck_only _ (by decide) (Only.rfl' _ s)
theorem modWaits (ws : List WaitW) : Landed s (modPln (fun p => { p with waits := ws }) s) where
  hnds := rfl
  pages := (refl s).pages
  rck := ⟨s.rck.tens, rfl⟩
  frame := modPln_only _ (by decide) (Only.rfl' _ s)
/-- A page whose poison alone changes. -/
theorem repoison (h p : Nat) (f : List Nat → List Nat) : Landed s (modPage h p (fun x => { x with poison := f x.poison }) s) where
  hnds := modPage_hnds ..
  pages k := by
    rw [find_modPage]
    split
    · cases Map.find s.pln.pages k with
      | none => exact ⟨[], rfl⟩
      | some y => exact ⟨f y.poison, rfl⟩
    · exact (refl s).pages k
  rck := ⟨s.rck.tens, (modPage_only h p _ (by decide) (Only.rfl' [.pln] s)) .rck (by decide)⟩
  frame := modPage_only h p _ (by decide) (Only.rfl' _ s)

/-! What follows of the tables. -/

theorem job (h : Landed s u) : u.rck.job = s.rck.job := by
  obtain ⟨tens, e⟩ := h.rck
  rw [e]
theorem rests (h : Landed s u) : u.rck.rests = s.rck.rests := by
  obtain ⟨tens, e⟩ := h.rck
  rw [e]
theorem slotAt (h : Landed s u) (k : Nat) : slotAt u k = slotAt s k := by
  obtain ⟨tens, e⟩ := h.rck
  rw [Machine.slotAt, e, Machine.slotAt]
theorem page (h : Landed s u) {k : Nat} {y : Page} (found : Map.find s.pln.pages k = some y) :
    ∃ l, Map.find u.pln.pages k = some { y with poison := l } := by
  obtain ⟨l, e⟩ := h.pages k
  exact ⟨l, by rw [e, found]; rfl⟩
theorem page_back (h : Landed s u) {k : Nat} {z : Page} (found : Map.find u.pln.pages k = some z) :
    ∃ y l, Map.find s.pln.pages k = some y ∧ z = { y with poison := l } := by
  obtain ⟨l, e⟩ := h.pages k
  obtain ⟨y, hy, same⟩ := Option.map_eq_some_iff.mp (e.symm.trans found)
  exact ⟨y, l, hy, same.symm⟩

end Landed

/-- A write that lands, of a step or of none. -/
theorem landWrite_landed (w : WaitW) (s : State) : Landed s (landWrite w s) := by
  have put : SamePlaces s (hPut w.hnd w.off w.bytes s) :=
    ⟨fun _ => rfl, rfl, rfl, hPut_only _ _ _ (by decide) (by decide) (Only.rfl' _ s)⟩
  have pressed : Landed s (match pageRec s w.hnd (pageIdx w.off) with
      | some x => if x.tier = 0 then pressWrite x.stack w.tenant w.hnd w.off w.bytes (hPut w.hnd w.off w.bytes s)
        else hPut w.hnd w.off w.bytes s
      | none => hPut w.hnd w.off w.bytes s) := by
    split
    · next x _ => exact .of_samePlaces (pressPut_samePlaces x w s).1
    · exact .of_samePlaces put
  have whole : ∀ u, Landed s u → Landed s (if w.bytes.length = 4096 ∧ w.off % 4096 = 0 then
      modPage w.hnd (pageIdx w.off) (fun x => { x with poison := without (blockIdx w.off) x.poison }) u else u) := fun u hu => by
    split
    · exact hu.trans (.repoison ..)
    · exact hu
  unfold landWrite
  dsimp only
  split
  · split
    · exact (whole _ pressed).trans (.noteWritten _)
    · exact whole _ pressed
  · exact whole _ pressed

/-- Writes that proceed, in whatever number. -/
theorem pump_landed (s : State) : Landed s (pump s) := by
  unfold pump
  refine Landed.trans (List.foldlRecOn (motive := fun acc : List WaitW × State => Landed s acc.2) _ _ (Landed.refl s) fun acc h w _ => ?_)
    (Landed.modWaits _)
  split
  · exact h
  · split
    · exact h.trans (landWrite_landed w acc.2)
    · exact h
    · exact h

/-- A write of a handle leaves the restores. -/
theorem hWrite_rests (who t : Nat) (step : Option Nat) (h off : Nat) (bs : List Byte) (s : State) :
    (hWrite who t step h off bs s).rck.rests = s.rck.rests := by
  have queued : Only [.pln, .pwr] s
      (whenS (touchesT0 s h off bs.length) wakeUp (promoteRange h off bs.length (queueWrite who t step h off bs s))) :=
    whenS_only _ _ (fun u hu => wakeUp_only (by decide) hu)
      (promoteRange_only h off _ (by decide) (modPln_only _ (by decide) (Only.rfl' _ s)))
  rw [hWrite_eq, (pump_landed _).rests, queued .rck (by decide)]

end Sys2Proof.Machine
end

section
/-!
RACK_RESTORE and RACK_SEED from their request to their end, and the reads that serve them (R409, R410, R412, R659 of 10).
-/
namespace Sys2Proof.Machine

/-! ## What the start of a descriptor leaves of the ways of messages -/

section
variable (tag : Nat) (f : Live → Live) (s : State)

theorem nextHop_modLive (b z : Nat) : nextHop (modLive tag f s) b z = nextHop s b z := by unfold modLive; split <;> rfl
theorem slotTo_modLive (b z : Nat) : slotTo (modLive tag f s) b z = slotTo s b z := by unfold modLive; split <;> rfl
theorem readReq_modLive (t n key p b kind src : Nat) (seed : Bool) :
    readReq (modLive tag f s) t n key p b kind src seed = readReq s t n key p b kind src seed := graftHead_modLive ..

end

/-! ## Handles that a restore created go (R659) -/

theorem hndRec_dropHnd (h q : Nat) (s : State) : hndRec (dropHnd h s) q = if q = h then none else hndRec s q := by
  rw [hndRec, dropHnd_hnds, find_del, hndRec]
theorem dropHnds_frame (hs : List Nat) (s : State) : Only [.mem, .pln] s (forS hs dropHnd s) :=
  forS_holds (Only [.mem, .pln] s) (fun h _ _ hu => dropHnd_only h (by decide) (by decide) hu) (Only.rfl' _ s)
theorem hndRec_dropHnds {h : Nat} {hs : List Nat} (mem : h ∈ hs) (s : State) : hndRec (forS hs dropHnd s) h = none :=
  forS_establishes (fun u => hndRec u h = none) mem (fun u => by rw [hndRec_dropHnd, if_pos rfl])
    (fun q _ u hu => by rw [hndRec_dropHnd, hu, ite_self]) s
/-- No handle comes back as freed ones leave. -/
theorem hndRec_settleFrees {h : Nat} {s : State} (gone : hndRec s h = none) (t : Nat) : hndRec (settleFrees t s) h = none := by
  refine forS_holds (fun u => hndRec u h = none) (fun e _ u hu => ?_) gone
  change hndRec (settleFree t e u) h = none
  obtain stays | drops | ⟨w, waits⟩ := settleFree_cases t e u
  · rw [stays, hu]
  · rw [drops, hndRec_dropHnd, hu, ite_self]
  · rw [waits, hndRec_modHnd]
    split
    · next same => rw [← same, hu]; rfl
    · exact hu
theorem MayEnd.hndRec_done {s : State} {tag h : Nat} {l : Live} (may : MayEnd s tag l) (gone : hndRec s h = none)
    (status detail result : Nat) : hndRec (done tag status detail result s) h = none := by
  rw [may.done_eq]
  exact hndRec_settleFrees (by rw [hndRec, finish_pln]; exact gone) _

/-! ## The end of a restore or seed -/

/-- A restore that fails: its handles go, it is forgotten, its descriptor ends. -/
theorem MayEnd.restFail {s : State} {tag : Nat} {l : Live} {x : Rest} (may : MayEnd s tag l) (rest : restOf s tag = some x)
    (status : Nat) : Ended (restFail tag status 0 s) tag l.step status 0 0 ∧ restOf (restFail tag status 0 s) tag = none ∧
      (∀ h ∈ x.created, hndRec (restFail tag status 0 s) h = none) ∧ Only flowParts s (restFail tag status 0 s) := by
  have fails : Machine.restFail tag status 0 s = done tag status 0 0 (modRck (fun r => { r with
      rests := r.rests.filter (fun y => decide (y.tag ≠ tag)) }) (forS x.created dropHnd s)) := by
    unfold Machine.restFail
    rw [rest]
  have dropped : Only [.rck, .mem, .pln] s (modRck (fun r => { r with
      rests := r.rests.filter (fun y => decide (y.tag ≠ tag)) }) (forS x.created dropHnd s)) :=
    modRck_only _ (by decide) ((dropHnds_frame x.created s).mono (by decide))
  have mayToo := may.of_only dropped (by decide) (by decide)
  obtain ⟨ended, frame⟩ := mayToo.endsWith (dropped.mono (by decide)) status 0 0
  rw [fails]
  refine ⟨ended, ?_, fun h mem => mayToo.hndRec_done (hndRec_dropHnds mem s) status 0 0, frame⟩
  rw [restOf, mayToo.done_rck]
  exact find_rests_without ..

/-- The end of a restore whose writes are made, at the host and in the rack block. -/
theorem restEnd_done {s : State} {tag : Nat} {l : Live} {x : Rest} (live : liveRec s tag = some l) (rest : restOf s tag = some x)
    (last : x.phase = 3) (written : writesWait s tag = false) : ∃ u, Only [.out] s u ∧ restEnd tag s =
      done tag 0 0 (x.step + b2n (if x.seed then (tenRack s x.tenant).lineage else x.lineage) * 2 ^ 48 + min x.map.length 32767 * 2 ^ 49)
        (modTenRack x.tenant (fun y => { y with lineage := x.lineage || (tenRack s x.tenant).lineage })
          (modRck (fun r => { r with rests := r.rests.filter (fun y => decide (y.tag ≠ tag)) }) u)) := by
  unfold restEnd
  rw [rest, live]
  dsimp only
  rw [if_neg (by simp [last, written])]
  exact ⟨_, ite_only (toHost_only _ _ _ (by decide) (Only.rfl' _ s)) (Only.rfl' _ s), rfl⟩

/-! ## The start of a restore or seed (R409) -/

/-- What a restore, or a seed, begins with. -/
def restGo (op : Nat) : Nat → Live → State → State := if op = 0x62 then restoreGo else seedGo

theorem exec_restCmd {c : Instr} {op tag : Nat} (kind : (c, op) ∈ [(Instr.rackRestore tag, 0x62), (.rackSeed tag, 0x63)]) (s : State) :
    exec c s = .next (restCmd tag op (restGo op) s) := by
  simp only [List.mem_cons, List.not_mem_nil, or_false, Prod.mk.injEq] at kind
  obtain ⟨rfl, rfl⟩ | ⟨rfl, rfl⟩ := kind
  · rfl
  · rfl

/-- A descriptor that runs unattached. -/
def Live.detached (l : Live) : Live := { l with stage := .running, step := none }

section
variable {s : State} {tag op : Nat} {l : Live} {st : Option Nat} (h : Starts s tag op l st) (go : Nat → Live → State → State)
include h

theorem restCmd_starts : restCmd tag op go s = restGate tag (liveTen l) (go tag l) (modLive tag (Live.started st) s) := by
  unfold restCmd
  rw [h.live]
  dsimp only
  rw [if_neg]
  · exact startDesc_go h _
  · rintro ⟨_, running | promo, _⟩
    · exact h.stage_ne (by decide) (by decide) running
    · exact h.stage_ne (by decide) (by decide) promo
/-- In RUN it is refused. -/
theorem restCmd_refused (run : (tstep s (liveTen l)).st = .run) :
    restCmd tag op go s = done tag 0x0604 0 0 (modLive tag (Live.started st) s) := by
  rw [restCmd_starts h, restGate, if_pos ((congrArg TenStep.st (tstep_modLive ..)).trans run)]
/-- Outside RUN it runs, unattached. -/
theorem restCmd_goes (idle : (tstep s (liveTen l)).st ≠ .run) (restored : (tstep s (liveTen l)).restoring = false) :
    restCmd tag op go s = go tag l (modLive tag (fun _ => l.detached) s) := by
  rw [restCmd_starts h, restGate, tstep_modLive, if_neg idle, if_neg (by simp [restored]), modLive_modLive h.live]
  rfl
theorem Starts.mayEnd_detached : MayEnd (modLive tag (fun _ => l.detached) s) tag l.detached :=
  MayEnd.changed ⟨h.live, h.link, h.resumed, h.seals⟩ (fun _ => l.detached) rfl

end

/-! ## The donor is asked (R410, R412) -/

/-- What asking for the entries leaves: the restore, and its request on the way to the donor. -/
theorem askEntries_asks {s : State} {x : Rest} {b k : Nat} (bound : bindOf s x.tenant = some b)
    (way : (nextHop s b x.donor).bind (slotTo s b) = some k) (tag : Nat) :
    (askEntries tag x s).rck.rests = s.rck.rests ++ [{ x with asked := [(0, 0)] }] ∧
      Out.vine b k 2 x.donor (readReq s x.tenant x.step 0 0 0 x.kind x.src x.seed) ∈ (askEntries tag x s).out ∧
      Only [.rck, .out, .vnl] s (askEntries tag x s) := by
  let msg := readReq s x.tenant x.step 0 0 0 x.kind x.src x.seed
  let u := modRck (fun r => { r with rests := r.rests ++ [{ x with asked := [(0, 0)] }] }) s
  have asked : askRead x.tenant x.donor msg u = some (sendTo b 2 x.donor msg u) := by
    rw [askRead, show bindOf u x.tenant = some b from bound]
    exact if_pos (Option.isSome_iff_exists.mpr ⟨k, way⟩)
  have sends : askEntries tag x s = sendTo b 2 x.donor msg u := by
    unfold askEntries
    dsimp only
    rw [asked]
  have traffic := sendTo_traffic b 2 x.donor msg u
  rw [sends]
  refine ⟨congrArg Rck.rests (traffic.frame .rck (by decide)), sendTo_sends 2 msg way, ?_⟩
  exact (modRck_only _ (by decide) (Only.rfl' _ s)).trans (traffic.frame.mono (by decide))
/-- A restore from copies of the given kind elsewhere, held for src. -/
def restFrom (tag : Nat) (l : Live) (kind src : Nat) : Rest :=
  { tag := tag, tenant := liveTen l, seed := false, step := fieldAt l.desc 24 6, kind := kind, src := src, donor := fieldAt l.desc 20 2 }
/-- A restore of another module's rack graft or replica, and a seed, ask for the entries. -/
theorem restGo_asks {op tag : Nat} {l : Live} (kind : op = 0x62 ∨ op = 0x63)
    (remote : op = 0x62 → bitsOf (fieldAt l.desc 16 1) 1 0 = 1 ∨ bitsOf (fieldAt l.desc 16 1) 1 0 = 2) (s : State) :
    ∃ x : Rest, restGo op tag l s = askEntries tag x s ∧ x.tag = tag ∧ x.tenant = liveTen l ∧ x.seed = decide (op = 0x63) ∧
      x.donor = fieldAt l.desc 20 2 ∧ x.phase = 0 := by
  obtain rfl | rfl := kind
  · obtain one | two := remote rfl
    · exact ⟨restFrom tag l 1 (fieldAt l.desc 18 2), by rw [restGo, if_pos rfl, restoreGo, one]; rfl, rfl, rfl, rfl, rfl, rfl⟩
    · exact ⟨restFrom tag l 2 0, by rw [restGo, if_pos rfl, restoreGo, two]; rfl, rfl, rfl, rfl, rfl, rfl⟩
  · exact ⟨_, rfl, rfl, rfl, rfl, rfl, rfl⟩

/-! ## Reads are served (R410, R412) -/

/-- The 24 bytes of an answer before its last field: Table 10.7, with the place the request names. -/
def answerPlace (s : State) (b : Nat) (m : List Byte) (a : ReadAns) : List Byte :=
  leB 1 0x27 ++ zeros 1 ++ leB 2 (bindParcel s b) ++ leB 6 a.step ++ leB 2 (bindCoord s b) ++ (m.drop 12).take 12
/-- The bytes of an answer: the lineage flag and the status stand in its last field. -/
def answerBytes (s : State) (b : Nat) (m : List Byte) (a : ReadAns) : List Byte :=
  answerPlace s b m a ++ leB 8 (b2n (servedLineage s (bindTen s b) m) + a.status * 2 ^ 56) ++ a.bytes

section
variable {s : State} {b : Nat} {m : List Byte} {a : ReadAns}

theorem length_answerPlace (long : 24 ≤ m.length) : (answerPlace s b m a).length = 24 := by
  simp only [answerPlace, List.length_append, leB_length, zeros, List.length_replicate, List.length_take, List.length_drop]
  omega
theorem length_answerHead (long : 24 ≤ m.length) (v : Nat) : (answerPlace s b m a ++ leB 8 v).length = 32 := by
  rw [List.length_append, length_answerPlace long, leB_length]
theorem status_answerBytes (long : 24 ≤ m.length) (small : a.status < 256) : fieldAt (answerBytes s b m a) 31 1 = a.status := by
  have last : (answerBytes s b m a).drop 31 =
      (leB 8 (b2n (servedLineage s (bindTen s b) m) + a.status * 2 ^ 56)).drop 7 ++ a.bytes := by
    rw [answerBytes, List.append_assoc, List.drop_append, length_answerPlace long,
      List.drop_of_length_le (by rw [length_answerPlace long]; omega), List.nil_append, List.drop_append_of_le_length (by rw [leB_length]; omega)]
  have flag : b2n (servedLineage s (bindTen s b) m) ≤ 1 := by unfold b2n; split <;> omega
  rw [fieldAt, last]
  simp only [leB, List.drop_succ_cons, List.drop_zero, List.cons_append, List.take_succ_cons, List.take_zero, ofLe, BitVec.toNat_ofNat]
  omega

end

theorem exec_graftReadReq {i b : Nat} {m : List Byte} {s : State} (h : inboxAt s i 0x26 = some (b, m)) : exec (.graftReadReq i) s = .next (
    match serveRead s (bindTen s b) m with
    | some a => sendTo b 2 (fieldAt m 10 2) (answerBytes (dropInbox i s) b m a) (dropInbox i s)
    | none => modRck (fun r => { r with owed := r.owed ++ [⟨bindTen s b, m⟩] }) (dropInbox i s)) := by
  change execGraftReadReq i s = _
  rw [execGraftReadReq, h]
  dsimp only
  cases serveRead s (bindTen s b) m <;> rfl
/-- A field of which a bit is set lies in the message. -/
theorem length_of_bitOf_fieldAt {m : List Byte} {off n i : Nat} (set : bitOf (fieldAt m off n) i = true) : off < m.length := by
  by_contra short
  rw [fieldAt, List.drop_of_length_le (Nat.not_lt.mp short), List.take_nil, ofLe, bitOf, Nat.zero_div] at set
  cases set

/-! ## Answers at the asker (R410, R470) -/

theorem exec_graftReadData {i b : Nat} {m : List Byte} {s : State} (h : inboxAt s i 0x27 = some (b, m)) :
    exec (.graftReadData i) s = .next (takeRead (bindTen s b) m (dropInbox i s)) := by
  change execGraftReadData i s = _
  rw [execGraftReadData, h]

theorem restWrite_rests (tag t h : Nat) (nar : Bool) (size p b : Nat) (bs : List Byte) (s : State) :
    (restWrite tag t h nar size p b bs s).rck.rests = s.rck.rests := by
  unfold restWrite
  dsimp only
  split
  · exact hWrite_rests ..
  · rfl

/-- The block of a handle that a message of a read is of. -/
def askedAt (m : List Byte) : Nat × Nat := (fieldAt m 12 4, fieldAt m 16 4 * 512 + fieldAt m 20 2)
/-- A restore that no longer asks for it. -/
def Rest.answered (m : List Byte) (x : Rest) : Rest := { x with asked := x.asked.erase (askedAt m) }

section
variable {s : State} {t : Nat} {m : List Byte} {x : Rest}
  (asks : s.rck.rests.find? (fun x => decide (x.tenant = t) && x.asked.contains (askedAt m)) = some x)
include asks

theorem takeRead_fails (bad : fieldAt m 31 1 ≠ 0) : takeRead t m s =
    restFail x.tag (if fieldAt m 31 1 = 2 then 0x060D else 0x0608) 0 (modRest x.tag (Rest.answered m) s) := by
  unfold askedAt at asks
  unfold takeRead
  dsimp only
  rw [asks]
  dsimp only
  by_cases refused : fieldAt m 31 1 = 2
  · rw [if_pos refused, if_pos refused]
    rfl
  · rw [if_neg refused, if_neg refused, if_pos bad]
    rfl
/-- A block that passes its check is written; the restore goes on while it still asks for others. -/
theorem takeRead_writes {q : Nat} {bs e : List Byte} (good : fieldAt m 31 1 = 0) (block : fieldAt m 12 4 ≠ 0)
    (checked : checkedBlocks 1 (fieldAt m 20 2) (m.drop 32) = some [(fieldAt m 20 2, bs)])
    (mapped : x.map.find? (fun q => decide (q.1 = fieldAt m 12 4)) = some (fieldAt m 12 4, q)) (entry : entOf x (fieldAt m 12 4) = some e)
    (rest : restOf s x.tag = some x) (others : x.asked.erase (askedAt m) ≠ []) :
    takeRead t m s = restWrite x.tag t q (entNarrow e && decide (x.phase = 1) && !x.seed) (entSize e) (fieldAt m 16 4) (fieldAt m 20 2) bs
      (modRest x.tag (Rest.answered m) s) := by
  have still : restOf (restWrite x.tag t q (entNarrow e && decide (x.phase = 1) && !x.seed) (entSize e) (fieldAt m 16 4) (fieldAt m 20 2) bs
      (modRest x.tag (Rest.answered m) s)) x.tag = some (x.answered m) :=
    (restOf_of_rests (restWrite_rests ..) _).trans (restOf_modRest rest)
  unfold askedAt at asks
  unfold takeRead
  dsimp only
  rw [asks]
  dsimp only
  rw [if_neg (by simp [good]), if_neg (not_not_intro good), if_neg (fun c => block c.1), checked, mapped, entry]
  dsimp only
  rw [show (fun y : Rest => { y with asked := y.asked.erase (fieldAt m 12 4, fieldAt m 16 4 * 512 + fieldAt m 20 2) }) = Rest.answered m
    from rfl, still]
  exact if_neg fun c => others (List.isEmpty_iff.mp c)

end

theorem exec_seedDonorTimeout {i b : Nat} {o : ReadOwed} {s : State} (owed : s.rck.owed[i]? = some o) (bound : bindOf s o.tenant = some b)
    (seed : bitOf (fieldAt o.msg 24 8) 4 = true) (running : nclkOn s = true) : exec (.seedDonorTimeout i) s = .next (
      sendTo b 2 (fieldAt o.msg 10 2)
        (answerBytes (modRck (fun r => { r with owed := r.owed.eraseIdx i }) s) b o.msg ⟨2, fieldAt o.msg 4 6, []⟩)
        (modRck (fun r => { r with owed := r.owed.eraseIdx i }) s)) := by
  change execSeedDonorTimeout i s = _
  unfold execSeedDonorTimeout
  rw [owed]
  dsimp only
  rw [bound]
  exact congrArg _ (if_pos ⟨seed, running⟩)

/-- Settles O44: the start by `restCmd_refused` and `restCmd_goes`, then `restGo_asks` and `askEntries_asks`; the end by `restEnd_done`;
a read served by `exec_graftReadReq` and `exec_seedDonorTimeout`; its answer by `takeRead_writes` and `takeRead_fails`; each failure by
`MayEnd.restFail`. -/
theorem restoresAndSeeds : Obligations.RestoresAndSeeds := by
  refine ⟨fun c op tag l st s kind h run => ?refused, fun c op tag b z k l st s kind h idle restored remote hz bound way => ?asks,
    fun tag l s h idle restored reserved => ?reserved, fun tag l s h idle restored own empty => ?missing,
    fun c op tag x l s kind live hop running clock rest last written link resumed seals => ?ends, fun i b m s h long => ?read,
    fun i b at_ m x l s h hat asks bad live link resumed seals rest => ?failing,
    fun i b at_ q m bs e x s h hat asks good block checked mapped entry rest others => ?block,
    fun tag x l s rest asks clock live link resumed seals => ?unanswered, fun i b k o s owed bound seed clock way => ?donor⟩
  case refused =>
    obtain ⟨ended, frame⟩ := h.mayEnd.endsWith (modLive_flow tag _ s) 0x0604 0 0
    exact ⟨_, (exec_restCmd kind s).trans (congrArg _ (restCmd_refused h _ run)), ended, frame⟩
  case asks =>
    have which : op = 0x62 ∨ op = 0x63 := by
      simp only [List.mem_cons, List.not_mem_nil, or_false, Prod.mk.injEq] at kind
      exact kind.imp And.right And.right
    have started := modLive_frame tag (fun _ => l.detached) s
    obtain ⟨x, asks, xtag, tenant, seed, donor, phase⟩ := restGo_asks (tag := tag) which remote (modLive tag (fun _ => l.detached) s)
    subst hz
    rw [← donor] at way ⊢
    obtain ⟨rests, sent, frame⟩ := askEntries_asks (s := modLive tag (fun _ => l.detached) s) (x := x) (b := b) (k := k)
      (by rw [tenant, bindOf_modLive, bound]) (by rw [nextHop_modLive, funext (slotTo_modLive tag (fun _ => l.detached) s b), way]) tag
    rw [readReq_modLive] at sent
    rw [modLive_rck] at rests
    exact ⟨_, (exec_restCmd kind s).trans (congrArg _ ((restCmd_goes h _ idle restored).trans asks)),
      ⟨{ x with asked := [(0, 0)] }, rests, xtag, tenant, seed, rfl, rfl, phase, sent⟩,
      (started.mono (by decide)).trans (frame.mono (by decide))⟩
  case reserved =>
    obtain ⟨ended, frame⟩ := (Starts.mayEnd_detached h).endsWith (modLive_flow tag _ s) 0x12 16 0
    refine ⟨_, congrArg Host.Outcome.next ((restCmd_goes h restoreGo idle restored).trans ?_), ended, frame⟩
    rw [restoreGo, reserved]
    rfl
  case missing =>
    obtain ⟨ended, frame⟩ := (Starts.mayEnd_detached h).endsWith (modLive_flow tag _ s) 0x0608 0 0
    refine ⟨_, congrArg Host.Outcome.next ((restCmd_goes h restoreGo idle restored).trans ?_), ended, frame⟩
    rw [restoreGo, own]
    exact if_neg fun c => empty ((congrArg Slot.st (slotAt_modLive ..)).symm.trans c.1)
  case ends =>
    have may : MayEnd s tag l := ⟨live, link, resumed, seals⟩
    obtain ⟨u, out, ends⟩ := restEnd_done live rest last written
    have again : restCmd tag op (restGo op) s = restEnd tag s := by
      unfold restCmd
      rw [live]
      dsimp only
      rw [if_pos ⟨hop, .inl running, clock⟩, restAgain, rest]
      exact if_pos last
    have closed : Only [.out, .rck] s (modTenRack x.tenant (fun y => { y with lineage := x.lineage || (tenRack s x.tenant).lineage })
        (modRck (fun r => { r with rests := r.rests.filter (fun y => decide (y.tag ≠ tag)) }) u)) :=
      modTenRack_only _ _ (by decide) (modRck_only _ (by decide) (out.mono (by decide)))
    have mayToo := may.of_only closed (by decide) (by decide)
    obtain ⟨ended, frame⟩ := mayToo.endsWith (closed.mono (by decide)) 0 0
      (x.step + b2n (if x.seed then (tenRack s x.tenant).lineage else x.lineage) * 2 ^ 48 + min x.map.length 32767 * 2 ^ 49)
    have rck := mayToo.done_rck 0 0
      (x.step + b2n (if x.seed then (tenRack s x.tenant).lineage else x.lineage) * 2 ^ 48 + min x.map.length 32767 * 2 ^ 49)
    refine ⟨_, (exec_restCmd kind s).trans (congrArg _ (again.trans ends)), ended, (congrArg Rck.rests rck).trans ?_, ?_, frame⟩
    · exact congrArg (fun r : Rck => r.rests.filter (fun y => decide (y.tag ≠ tag))) (out .rck (by decide))
    · rw [tenRack_of_rck rck, tenRack_modTenRack, if_pos rfl]
  case read =>
    refine ⟨_, exec_graftReadReq h, ?_⟩
    cases served : serveRead s (bindTen s b) m with
    | none =>
      exact ⟨fun _ => rfl, nofun, rfl, modRck_only _ (by decide) ((dropInbox_frame i s).mono (by decide))⟩
    | some a =>
      have traffic := sendTo_traffic b 2 (fieldAt m 10 2) (answerBytes (dropInbox i s) b m a) (dropInbox i s)
      refine ⟨nofun, fun a' k same way => ?_, traffic.inbox, ?_⟩
      · obtain rfl := Option.some.inj same
        have head := length_answerHead (s := dropInbox i s) (b := b) (a := a) long
        refine ⟨traffic.frame .rck (by decide), answerBytes (dropInbox i s) b m a, sendTo_sends 2 _ way, ?_, ?_⟩
        · rw [answerBytes, List.length_append, head]
        · rw [answerBytes, List.drop_left' (head _)]
      · exact ((dropInbox_frame i s).mono (by decide)).trans (traffic.frame.mono (by decide))
  case failing =>
    subst hat
    have frame : Only [.vnl, .rck] s (modRest x.tag (Rest.answered m) (dropInbox i s)) :=
      modRest_only _ _ (by decide) ((dropInbox_frame i s).mono (by decide))
    have may := MayEnd.of_only ⟨live, link, resumed, seals⟩ frame (by decide) (by decide)
    obtain ⟨ended, forgotten, gone, _⟩ := may.restFail (restOf_modRest rest) (if fieldAt m 31 1 = 2 then 0x060D else 0x0608)
    exact ⟨_, (exec_graftReadData h).trans (congrArg _ (takeRead_fails (s := dropInbox i s) asks bad)), ended, forgotten, gone⟩
  case block =>
    subst hat
    refine ⟨_, (exec_graftReadData h).trans (congrArg _
      (takeRead_writes (s := dropInbox i s) asks good block checked mapped entry rest others)), ⟨x.answered m, ?_, rfl, rfl⟩, ?_⟩
    · exact (restOf_of_rests (restWrite_rests ..) _).trans (restOf_modRest (s := dropInbox i s) rest)
    · exact restWrite_only _ _ _ _ _ _ _ _ (by decide) (by decide) (by decide) (by decide)
        (modRest_only _ _ (by decide) ((dropInbox_frame i s).mono (by decide)))
  case unanswered =>
    obtain ⟨ended, forgotten, gone, frame⟩ := MayEnd.restFail ⟨live, link, resumed, seals⟩ rest 0x060A
    refine ⟨_, ?_, ended, forgotten, gone, frame⟩
    change execRestoreReadTimeout tag s = _
    unfold execRestoreReadTimeout
    rw [rest]
    exact congrArg _ (if_neg (by simp [asks, clock]))
  case donor =>
    have traffic := sendTo_traffic b 2 (fieldAt o.msg 10 2)
      (answerBytes (modRck (fun r => { r with owed := r.owed.eraseIdx i }) s) b o.msg ⟨2, fieldAt o.msg 4 6, []⟩)
      (modRck (fun r => { r with owed := r.owed.eraseIdx i }) s)
    refine ⟨_, exec_seedDonorTimeout owed bound seed clock, congrArg Rck.owed (traffic.frame .rck (by decide)),
      ⟨_, sendTo_sends 2 _ way, status_answerBytes (length_of_bitOf_fieldAt seed).le (show 2 < 256 by decide)⟩, ?_⟩
    exact (modRck_only _ (by decide) (Only.rfl' _ s)).trans (traffic.frame.mono (by decide))

end Sys2Proof.Machine
end

section
/-!
The marks of a rack, its copies, its copy pass and its drains (R388 to R395, R398 of 10, R470 of 12).
-/
namespace Sys2Proof.Machine

/-! ## Marks (R388) -/

/-- A page with a rack's mark, none of its blocks copied yet. -/
def Page.marked (x : Page) : Page := { x with mark := true, copied := [] }

/-- Pages are marked where the list names them, whatever the order and however often. -/
theorem find_markPages (l : List ((Nat × Hnd) × Nat)) (k : Nat) (s : State) :
    Map.find (forS l (fun q => modPage q.1.1 q.2 Page.marked) s).pln.pages k =
      if ∃ q ∈ l, k = pageKey q.1.1 q.2 then (Map.find s.pln.pages k).map Page.marked else Map.find s.pln.pages k := by
  have twice : ∀ o : Option Page, (o.map Page.marked).map Page.marked = o.map Page.marked := fun o => by rw [Option.map_map]; rfl
  induction l generalizing s with
  | nil => simp [forS]
  | cons q r ih =>
    change Map.find (forS r _ (modPage q.1.1 q.2 Page.marked s)).pln.pages k = _
    rw [ih, find_modPage]
    by_cases later : ∃ p ∈ r, k = pageKey p.1.1 p.2 <;> by_cases now : k = pageKey q.1.1 q.2
    · rw [if_pos later, if_pos now, if_pos ⟨q, List.mem_cons_self, now⟩, twice]
    · obtain ⟨p, mem, same⟩ := later
      rw [if_pos ⟨p, mem, same⟩, if_neg now, if_pos ⟨p, List.mem_cons_of_mem q mem, same⟩]
    · rw [if_neg later, if_pos now, if_pos ⟨q, List.mem_cons_self, now⟩]
    · rw [if_neg later, if_neg now, if_neg]
      rintro ⟨p, mem, same⟩
      obtain rfl | rest := List.mem_cons.mp mem
      · exact now same
      · exact later ⟨p, rest, same⟩

/-- The pages of a rack's handles. -/
def jobPages (j : RackJob) : List ((Nat × Hnd) × Nat) := j.hs.flatMap (fun e => (List.range (pagesOf e.2.size)).map (Prod.mk e))
/-- The state in which a rack's pages are marked. -/
def pagesMarked (j : RackJob) (s : State) : State := forS (jobPages j) (fun q => modPage q.1.1 q.2 Page.marked) s

theorem pagesMarked_eq (j : RackJob) (s : State) : pagesMarked j s =
    forS j.hs (fun e s => forS (List.range (pagesOf e.2.size))
      (fun p => modPage e.1 p (fun x => { x with mark := true, copied := [] })) s) s := by
  simp only [pagesMarked, jobPages, forS, List.foldl_flatMap, List.foldl_map]
  rfl
theorem pagesMarked_frame (j : RackJob) (s : State) : Only [.pln] s (pagesMarked j s) :=
  forS_holds (Only [.pln] s) (fun _ _ _ hu => modPage_only _ _ _ (by decide) hu) (Only.rfl' _ s)
theorem pagesMarked_waits (j : RackJob) (s : State) : (pagesMarked j s).pln.waits = s.pln.waits :=
  forS_reads (fun u => u.pln.waits) (fun q _ u => by unfold modPage; split <;> rfl) s
theorem pageRec_pagesMarked {j : RackJob} {e : Nat × Hnd} {p : Nat} {y : Page} {s : State} (mem : e ∈ j.hs) (hp : p < pagesOf e.2.size)
    (found : pageRec s e.1 p = some y) : pageRec (pagesMarked j s) e.1 p = some y.marked := by
  rw [pageRec, pagesMarked, find_markPages, if_pos, ← pageRec, found]
  · rfl
  · exact ⟨(e, p), List.mem_flatMap.mpr ⟨e, mem, List.mem_map.mpr ⟨p, List.mem_range.mpr hp, rfl⟩⟩, rfl⟩

theorem exec_rackMarksDone {j : RackJob} {s : State} (job : s.rck.job = some j) (asked : j.asking = false) (first : j.marked = false)
    (running : nclkOn s = true) : exec .rackMarksDone s = .next (
      pump (noteT j.tenant 0x0A00 0 j.step (modRck (fun r => { r with job := some { j with marked := true } }) (pagesMarked j s)))) := by
  change execRackMarksDone s = _
  unfold execRackMarksDone
  rw [job, pagesMarked_eq]
  exact congrArg _ (if_neg (by simp [asked, first, running]))

/-! ## Copies (R389) -/

theorem page_of_needOf_cow {s : State} {w : WaitW} (cow : needOf s w = .cow) : ∃ y, pageRec s w.hnd (pageIdx w.off) = some y := by
  cases found : pageRec s w.hnd (pageIdx w.off) with
  | some y => exact ⟨y, rfl⟩
  | none =>
    unfold needOf at cow
    rw [found] at cow
    cases cow
/-- The page of a block for which a write waits. -/
theorem page_of_waits {s : State} {h p b : Nat} (waits : s.pln.waits.any (fun w => decide (w.hnd = h) && decide (pageIdx w.off = p) &&
    decide (blockIdx w.off = b) && decide (needOf s w = .cow)) = true) : ∃ y, pageRec s h p = some y := by
  obtain ⟨w, _, same⟩ := List.any_eq_true.mp waits
  simp only [Bool.and_eq_true, decide_eq_true_eq] at same
  obtain ⟨⟨⟨rfl, rfl⟩, _⟩, cow⟩ := same
  exact page_of_needOf_cow cow

/-- The state in which a copy stands in the rack, before the write proceeds. -/
def copyMade (j : RackJob) (x : Hnd) (h p b : Nat) (s : State) : State :=
  modPage h p (fun y => { y with copied := y.copied ++ [b] })
    (modRck (fun r => { r with job := some { j with blks := j.blks ++ [⟨(keyAt x j.step).1, p, b, rackContent s j.step h p b⟩] } }) s)
theorem exec_rackCowCopyDone {h p b : Nat} {x : Hnd} {j : RackJob} {s : State} (running : nclkOn s = true) (job : s.rck.job = some j)
    (racked : jobHnd j h = some x)
    (room : ownsPage x p = true ∨ j.size + 4096 * ((j.blks.filter (fun y => j.hs.any (fun e =>
      decide ((keyAt e.2 j.step).1 = y.key) && !ownsPage e.2 y.page))).length + 1) ≤ rsvReg s 1 * gib)
    (waits : s.pln.waits.any (fun w => decide (w.hnd = h) && decide (pageIdx w.off = p) && decide (blockIdx w.off = b) &&
      decide (needOf s w = .cow)) = true) : exec (.rackCowCopyDone h p b) s = .next (pump (copyMade j x h p b s)) := by
  change Host.Outcome.next (if nclkOn s then cowDone h p b s else s) = _
  rw [if_pos running]
  unfold cowDone
  rw [job]
  dsimp only
  rw [racked]
  dsimp only
  rw [if_pos waits, if_neg]
  · rfl
  · rintro ⟨foreign, full⟩
    exact room.elim foreign (Nat.not_le.mpr full)

/-! ## A rack that fails its check (R470) -/

/-- The end of a rack that fails: the descriptor, or the policy, is told; the slot is EMPTY. -/
theorem rackCheck_ends {j : RackJob} {s : State} (job : s.rck.job = some j) : (rackCheck j s).rck.job = none ∧
    slotAt (rackCheck j s) j.slot = {} ∧ (rackCheck j s).err = s.err := by
  have ended := rackEnd_frame j.tag j.tenant j.step 0x0609 0 0 (abandonRack s)
  have landed := pump_landed (rackEnd j.tag j.tenant j.step 0x0609 0 0 (abandonRack s))
  have abandoned : abandonRack s = modRck (fun r => { r with job := none }) (setSlot j.slot (fun _ => {}) (dropMarks j.tenant s)) := by
    unfold abandonRack
    rw [job]
  refine ⟨landed.job.trans ?_, (landed.slotAt _).trans ?_, (landed.frame .err (by decide)).trans ((ended .err (by decide)).trans ?_)⟩
  · rw [ended .rck (by decide), abandoned]
    rfl
  · rw [slotAt_of_rck (ended .rck (by decide)), abandoned]
    exact slotAt_setSlot_same ..
  · exact abandonRack_only (fr := [.pln, .stp, .rck]) (by decide) (by decide) (by decide) (Only.rfl' _ s) .err (by decide)
theorem checkFail_frame (t row key : Nat) (s : State) : Only [.out, .hif, .err, .book] s (checkFail t row key s) :=
  checkFail_only t row key (by decide) (by decide) (by decide) (by decide) (Only.rfl' _ s)
theorem checkFail_counts (t row key : Nat) (s : State) : (checkFail t row key s).err.checkFail = satAdd 32 s.err.checkFail 1 :=
  congrArg Err.checkFail (noteT_frame _ _ _ _ _ .err (by decide))
/-- A block of a rack that fails its check. -/
theorem rackCheck_checkFail {j : RackJob} {s : State} (job : s.rck.job = some j) (row key : Nat) :
    (rackCheck j (checkFail j.tenant row key s)).rck.job = none ∧ slotAt (rackCheck j (checkFail j.tenant row key s)) j.slot = {} ∧
      (rackCheck j (checkFail j.tenant row key s)).err.checkFail = satAdd 32 s.err.checkFail 1 := by
  obtain ⟨ended, empty, err⟩ := rackCheck_ends ((congrArg Rck.job (checkFail_frame j.tenant row key s .rck (by decide))).trans job)
  exact ⟨ended, empty, (congrArg Err.checkFail err).trans (checkFail_counts ..)⟩

theorem copyPass_bad {j : RackJob} {h : Nat} {x : Hnd} {s : State} (job : s.rck.job = some j) (marked : j.marked = true)
    (first : j.passed = false) (running : nclkOn s = true) (fence : s.err.fence = false) (awake : asleep s = false)
    (racked : jobHnd j h = some x) : copyPass (some h) s = rackCheck j (checkFail j.tenant 2 (keyAt x j.step).1 s) := by
  unfold copyPass
  rw [job]
  dsimp only
  rw [if_neg (by simp [marked, first, running]), if_neg (by simp [fence, awake]), Option.bind_some, racked]
theorem drainDone_bad {j : RackJob} {s : State} (job : s.rck.job = some j) (passed : j.passed = true) (running : nclkOn s = true)
    (ready : j.graft = false ∨ j.graftOk = true) (key : Nat) : drainDone (some key) s = rackCheck j (checkFail j.tenant 3 key s) := by
  unfold drainDone
  rw [job]
  dsimp only
  rw [if_neg]
  rintro (c | c | ⟨c, d⟩)
  · exact c passed
  · exact c running
  · exact ready.elim (by simp [c]) d

/-! ## Pages leave as freed handles do (R116) -/

theorem find_of_dropPage {h p k : Nat} {y : Page} {s : State} (found : Map.find (dropPage h p s).pln.pages k = some y) :
    Map.find s.pln.pages k = some y := by
  by_cases same : k = pageKey h p
  · unfold dropPage at found
    split at found
    · exact found
    · simp [find_del, same] at found
  · rwa [find_dropPage same] at found
theorem find_of_dropHnd {h k : Nat} {y : Page} {s : State} (found : Map.find (dropHnd h s).pln.pages k = some y) :
    Map.find s.pln.pages k = some y :=
  forS_holds (fun u => Map.find u.pln.pages k = some y → Map.find s.pln.pages k = some y)
    (fun _ _ _ hu found => hu (find_of_dropPage found)) id (l := List.range (pagesOf (hndSize s h))) (f := dropPage h) found
theorem find_of_settleFrees {t k : Nat} {y : Page} {s : State} (found : Map.find (settleFrees t s).pln.pages k = some y) :
    Map.find s.pln.pages k = some y := by
  refine forS_holds (fun u => Map.find u.pln.pages k = some y → Map.find s.pln.pages k = some y) (fun e _ u hu later => hu ?_) id found
  change Map.find (settleFree t e u).pln.pages k = some y at later
  obtain stays | drops | ⟨w, waits⟩ := settleFree_cases t e u
  · rwa [stays] at later
  · exact find_of_dropHnd (drops ▸ later)
  · rwa [waits, modHnd_pages] at later

/-! ## The copy pass (R390, R398, R400) -/

theorem ownHash_job (o : HashRec) (s : State) : (ownHash o s).rck.job = s.rck.job :=
  forS_holds (fun u => u.rck.job = s.rck.job) (fun a _ u hu => (congrArg Rck.job (compareHash_rck a o u)).trans hu) rfl
theorem shareHash_job (j : RackJob) (key hash : Nat) (x : Hnd) (s : State) : (shareHash j key hash x s).rck.job = s.rck.job := by
  unfold shareHash
  dsimp only
  split
  · exact ownHash_job ..
  · split
    · exact congrArg Rck.job ((sendTo_traffic ..).frame .rck (by decide))
    · rfl
/-- The drain to the buddy keeps the rack, but for the graft where no buddy stands any more. -/
theorem rackToBuddy_job {j : RackJob} {s : State} (job : s.rck.job = some j) :
    ∃ g, (rackToBuddy j s).rck.job = some { j with graft := g } := by
  unfold rackToBuddy
  split
  · next b k _ =>
    have traffic := (Traffic.refl s).forS (l := j.blks) (f := fun x s => toBuddy b k 3
      (graftHead s 0x22 4 j.tenant j.step x.key x.page x.block 1 0 ++ crcBlock x.bytes) s) fun _ _ h => (h.placeMsg _).emit _
    exact ⟨j.graft, (congrArg Rck.job ((toBuddy_traffic ..).frame .rck (by decide))).trans
      ((congrArg Rck.job (traffic.frame .rck (by decide))).trans job)⟩
  · exact ⟨false, rfl⟩

/-- A rack whose copy pass is done. -/
def RackJob.packed (s : State) (j : RackJob) : RackJob := { j with
  passed := true, blks := packJob s j, hashes := j.hs.map (fun e => (e.1, handleHash s j (keyAt e.2 j.step).1 e.1 e.2.size)) }

/-- The hash of a handle as its copy pass finds it. -/
def RackJob.hash (s : State) (j : RackJob) (h : Nat) : Nat :=
  (((j.packed s).hashes.find? (fun q => decide (q.1 = h))).map Prod.snd).getD 0
/-- The state in which the rack is packed and the hashes of its replicated handles are shared (R400). -/
def hashesShared (j : RackJob) (s : State) : State :=
  forS j.hs (fun e u => if e.2.replicated then shareHash (j.packed s) (keyAt e.2 j.step).1 (j.hash s e.1) e.2 u else u)
    (modRck (fun r => { r with
      job := some (j.packed s), hashes := r.hashes.filter (fun a => decide (a.tenant ≠ j.tenant) || !a.own) }) s)
/-- The state in which the copy pass is done and the marks still stand. -/
def rackPassed (j : RackJob) (s : State) : State :=
  if j.graft then rackToBuddy (j.packed s) (hashesShared j s) else hashesShared j s

theorem hashesShared_job (j : RackJob) (s : State) : (hashesShared j s).rck.job = some (j.packed s) := by
  refine forS_holds (fun u => u.rck.job = some (j.packed s)) (fun e _ u hu => ?_) rfl
  split
  · exact (shareHash_job ..).trans hu
  · exact hu
theorem hashesShared_frame (j : RackJob) (s : State) : Only [.out, .hif, .vnl, .rck, .book] s (hashesShared j s) := by
  refine forS_holds (Only _ s) (fun e _ u hu => ?_) (modRck_only _ (by decide) (Only.rfl' _ s))
  exact ite_only (shareHash_only _ _ _ _ (by decide) (by decide) (by decide) (by decide) (by decide) hu) hu
theorem rackPassed_job (j : RackJob) (s : State) :
    ∃ g, (rackPassed j s).rck.job = some { j.packed s with graft := g } ∧ (j.graft = false → g = false) := by
  unfold rackPassed
  cases grafts : j.graft with
  | true =>
    obtain ⟨g, hg⟩ := rackToBuddy_job (hashesShared_job j s)
    exact ⟨g, hg, nofun⟩
  | false => exact ⟨(j.packed s).graft, hashesShared_job j s, fun _ => grafts⟩
theorem rackPassed_frame (j : RackJob) (s : State) : Only [.out, .hif, .vnl, .rck, .book] s (rackPassed j s) :=
  ite_only (rackToBuddy_only _ (by decide) (by decide) (by decide) (hashesShared_frame j s)) (hashesShared_frame j s)

theorem copyPass_packs {j : RackJob} {s : State} (job : s.rck.job = some j) (marked : j.marked = true) (first : j.passed = false)
    (running : nclkOn s = true) (fence : s.err.fence = false) (awake : asleep s = false)
    (sound : ∀ e ∈ j.hs, poisonedIn s e.1 0 e.2.size = []) :
    copyPass none s = settleFrees j.tenant (pump (updStall j.tenant (dropMarks j.tenant (rackPassed j s)))) := by
  have whole : j.hs.any (fun e => (poisonedIn s e.1 0 e.2.size).any (fun _ => true)) = false :=
    List.any_eq_false.mpr fun e mem => by simp [sound e mem]
  unfold copyPass
  rw [job]
  dsimp only
  rw [if_neg (by simp [marked, first, running]), if_neg (by simp [fence, awake]), Option.bind_none]
  dsimp only
  rw [if_neg (by simp [whole])]
  rfl

/-- No page of the tenant keeps a mark. -/
theorem mark_of_dropMarks {t k : Nat} {y : Page} {h : Hnd} {s : State} (found : Map.find (dropMarks t s).pln.pages k = some y)
    (owner : Map.find s.pln.hnds (k / 0x100000) = some h) (mine : h.tenant = t) : y.mark = false := by
  rw [show (dropMarks t s).pln.pages = Map.mapV (fun k x => match Map.find s.pln.hnds (k / 0x100000) with
    | some h => if h.tenant = t then { x with mark := false, copied := [] } else x
    | none => x) s.pln.pages from rfl, find_mapV, owner] at found
  obtain ⟨x, _, rfl⟩ := Option.map_eq_some_iff.mp found
  simp only [mine, if_true]
theorem lees_of_dropMarks {t : Nat} {s : State} {x : PreImg} (mem : x ∈ (dropMarks t s).stp.lees) (mine : x.tenant = t) :
    x.kept = false := by
  have spared := List.of_mem_filter (show x ∈ s.stp.lees.filter (fun y => decide (y.tenant ≠ t) || !y.kept) from mem)
  simpa [mine] using spared

/-- What the copy pass leaves once the marks are lifted: the rack, unmarked pages, no kept pre-image. -/
theorem copyPass_lifts {t : Nat} {s u : State} (hu : u = settleFrees t (pump (updStall t (dropMarks t s)))) :
    u.rck.job = s.rck.job ∧
      (∀ k y h, Map.find u.pln.pages k = some y → Map.find s.pln.hnds (k / 0x100000) = some h → h.tenant = t → y.mark = false) ∧
      (∀ x ∈ u.stp.lees, x.tenant = t → x.kept = false) := by
  subst hu
  have lifted : Only [.pln, .stp] s (dropMarks t s) := dropMarks_only t (by decide) (by decide) (Only.rfl' _ s)
  have stalled : Only [.out, .hif, .stp, .book] (dropMarks t s) (updStall t (dropMarks t s)) :=
    updStall_only t (by decide) (by decide) (by decide) (by decide) (Only.rfl' _ _)
  have landed := pump_landed (updStall t (dropMarks t s))
  have settled : Only [.mem, .pln] (pump (updStall t (dropMarks t s))) (settleFrees t (pump (updStall t (dropMarks t s)))) :=
    settleFrees_only t (by decide) (by decide) (Only.rfl' _ _)
  refine ⟨?_, fun k y h found owner mine => ?_, fun x mem mine => ?_⟩
  · rw [settled .rck (by decide), landed.job, stalled .rck (by decide), lifted .rck (by decide)]
  · obtain ⟨z, l, before, rfl⟩ := landed.page_back (find_of_settleFrees found)
    rw [stalled .pln (by decide)] at before
    exact mark_of_dropMarks (y := z) before owner mine
  · rw [settleFrees_stp, pump_stp, (updStall_restalls t _).lees] at mem
    exact lees_of_dropMarks mem mine

/-! ## The drain (R394, R395, R418) -/

/-- What the bytes programmed into T2 count for. -/
def Rck.programmed (n : Nat) (r : Rck) : Rck := { r with
  bucket := r.bucket - ((n + Config.relocated r.total n : Nat) : Int) * 86400, total := r.total + (n + Config.relocated r.total n) }
theorem program_rck (t n : Nat) (s : State) : ∃ w, (program t n s).rck = { s.rck.programmed n with wearAt := w } := by
  have noted : ∀ u, u.rck = s.rck.programmed n → ∀ c b d, (noteT t c b d u).rck = s.rck.programmed n := fun u hu c b d =>
    (noteT_frame t c b d u .rck (by decide)).trans hu
  unfold program
  dsimp only
  split
  · split
    · split
      · exact ⟨s.rck.wearAt, rfl⟩
      · exact ⟨some s.tim.s, congrArg (fun r : Rck => { r with wearAt := some s.tim.s }) (noted _ rfl _ _ _)⟩
    · exact ⟨some s.tim.s, congrArg (fun r : Rck => { r with wearAt := some s.tim.s }) (noted _ rfl _ _ _)⟩
  · exact ⟨s.rck.wearAt, rfl⟩

/-- The manifest of a drained rack, with the tenant's lineage flag. -/
def RackJob.manifest (s : State) (j : RackJob) : List Byte :=
  manifestOf s j (!j.narrowed.isEmpty || (tenRack s j.tenant).lineage) j.hashes
/-- The slot of a drained rack: COMPLETE, with what the rack holds. -/
def Slot.filled (s : State) (j : RackJob) (x : Slot) : Slot := { x with
  st := 2, lineage := !j.narrowed.isEmpty || (tenRack s j.tenant).lineage, grafted := j.graft && j.graftOk
  narrowed := !j.narrowed.isEmpty, bytes := j.size, manifest := j.manifest s, blks := j.blks, seq := s.rck.seq }
/-- The state in which the slot is COMPLETE. -/
def slotFilled (j : RackJob) (s : State) : State :=
  modRck (fun r => { r with job := none, seq := r.seq + 1 }) (setSlot j.slot (Slot.filled s j) (program j.tenant j.size s))

theorem slotFilled_frame (j : RackJob) (s : State) : Only [.rck, .hif, .out, .book] s (slotFilled j s) :=
  modRck_only _ (by decide) (setSlot_only _ _ (by decide)
    (program_only _ _ (by decide) (by decide) (by decide) (by decide) (Only.rfl' _ s)))
theorem slotAt_slotFilled (j : RackJob) (s : State) : slotAt (slotFilled j s) j.slot = (slotAt s j.slot).filled s j := by
  obtain ⟨w, programmed⟩ := program_rck j.tenant j.size s
  refine (slotAt_setSlot_same ..).trans (congrArg (Slot.filled s j) ?_)
  rw [slotAt, programmed]
  rfl
theorem slotFilled_counts (j : RackJob) (s : State) : (slotFilled j s).rck.bucket = (s.rck.programmed j.size).bucket ∧
    (slotFilled j s).rck.total = (s.rck.programmed j.size).total := by
  obtain ⟨w, programmed⟩ := program_rck j.tenant j.size s
  have kept : ∀ u, (setSlot j.slot (Slot.filled s j) u).rck.bucket = u.rck.bucket ∧
      (setSlot j.slot (Slot.filled s j) u).rck.total = u.rck.total := fun u => by rw [setSlot_rck]; exact ⟨rfl, rfl⟩
  obtain ⟨bucket, total⟩ := kept (program j.tenant j.size s)
  exact ⟨bucket.trans (by rw [programmed]), total.trans (by rw [programmed])⟩

/-- The drain ends: the slot is COMPLETE, its manifest at the host where the descriptor asks for it, the descriptor or the policy told. -/
theorem drainDone_fills {j : RackJob} {s : State} (job : s.rck.job = some j) (passed : j.passed = true) (running : nclkOn s = true)
    (ready : j.graft = false ∨ j.graftOk = true) : ∃ u, Only [.out] (slotFilled j s) u ∧ drainDone none s =
      rackEnd j.tag j.tenant j.step stOK 0 (rackResult (slotAt u j.slot) j.slot)
        (noteT j.tenant 0x0A01 0 (j.step + b2n (j.graft && j.graftOk) * 2 ^ 48 + j.slot * 2 ^ 49) u) := by
  unfold drainDone
  rw [job]
  dsimp only
  rw [if_neg]
  · refine ⟨_, ?_, rfl⟩
    change Only [.out] (slotFilled j s) (match liveRec (slotFilled j s) j.tag with | some l => _ | none => slotFilled j s)
    split
    · exact ite_only (toHost_only _ _ _ (by decide) (Only.rfl' _ _)) (Only.rfl' _ _)
    · exact Only.rfl' _ _
  · rintro (c | c | ⟨c, d⟩)
    · exact c passed
    · exact c running
    · exact ready.elim (by simp [c]) d

/-- Settles O42: the marks by `pageRec_pagesMarked`, a copy by `exec_rackCowCopyDone`, the copy pass by `copyPass_packs` and
`copyPass_lifts`, a failing check by `rackCheck_checkFail`, the drain by `drainDone_fills`. What `pump` lets proceed is `pump_landed`. -/
theorem racksComplete : Obligations.RacksComplete := by
  refine ⟨fun j s job asked first running idle => ?marks, fun h p b x j s running job racked room waits => ?copy,
    fun j s job marked first running fence awake sound => ?pass, fun c h x j s job running racked which => ?failing,
    fun j s job passed running ready => ?drain⟩
  case marks =>
    have noted := noteT_frame j.tenant 0x0A00 0 j.step
      (modRck (fun r => { r with job := some { j with marked := true } }) (pagesMarked j s))
    have pln := noted .pln (by decide)
    have still := pump_idle ((congrArg Pln.waits pln).trans ((pagesMarked_waits j s).trans idle))
    refine ⟨_, (exec_rackMarksDone job asked first running).trans (congrArg _ still), congrArg Rck.job (noted .rck (by decide)),
      fun e mem p y hp found => ?_, ?_⟩
    · exact (congrArg (fun x : Pln => Map.find x.pages (pageKey e.1 p)) pln).trans (pageRec_pagesMarked mem hp found)
    · exact (modRck_only _ (by decide) ((pagesMarked_frame j s).mono (by decide))).trans (noted.mono (by decide))
  case copy =>
    have landed := pump_landed (copyMade j x h p b s)
    obtain ⟨y, found⟩ := page_of_waits waits
    have copied : pageRec (copyMade j x h p b s) h p = some { y with copied := y.copied ++ [b] } := by
      rw [pageRec, copyMade, find_modPage, if_pos rfl]
      exact congrArg (Option.map _) found
    obtain ⟨l, later⟩ := landed.page copied
    have made : Only [.mem, .pln, .rck] s (copyMade j x h p b s) :=
      modPage_only _ _ _ (by decide) (modRck_only _ (by decide) (Only.rfl' _ s))
    refine ⟨_, exec_rackCowCopyDone running job racked room waits, landed.job.trans ?_, ⟨_, later, by simp⟩, made.trans landed.frame⟩
    exact congrArg Rck.job (modPage_only (fr := [.pln]) h p _ (by decide) (Only.rfl' _ _) .rck (by decide))
  case pass =>
    have packs := copyPass_packs job marked first running fence awake sound
    obtain ⟨g, packed, grafts⟩ := rackPassed_job j s
    obtain ⟨kept, unmarked, released⟩ := copyPass_lifts packs
    have pln := rackPassed_frame j s .pln (by decide)
    refine ⟨_, rfl, ⟨g, kept.trans packed, grafts⟩, fun k y h found owner => unmarked k y h found ?_, released⟩
    exact (congrArg (fun x : Pln => Map.find x.hnds (k / 0x100000)) pln).trans owner
  case failing =>
    obtain ⟨rfl, marked, first, fence, awake⟩ | ⟨key, rfl, passed, ready⟩ := which
    · exact ⟨_, congrArg Host.Outcome.next (copyPass_bad job marked first running fence awake racked), rackCheck_checkFail job _ _⟩
    · exact ⟨_, congrArg Host.Outcome.next (drainDone_bad job passed running ready key), rackCheck_checkFail job _ _⟩
  case drain =>
    obtain ⟨u, out, ends⟩ := drainDone_fills job passed running ready
    have noted := noteT_frame j.tenant 0x0A01 0 (j.step + b2n (j.graft && j.graftOk) * 2 ^ 48 + j.slot * 2 ^ 49) u
    have ended := rackEnd_frame j.tag j.tenant j.step stOK 0 (rackResult (slotAt u j.slot) j.slot)
      (noteT j.tenant 0x0A01 0 (j.step + b2n (j.graft && j.graftOk) * 2 ^ 48 + j.slot * 2 ^ 49) u)
    have rck := (ended .rck (by decide)).trans ((noted .rck (by decide)).trans (out .rck (by decide)))
    have filled := (slotAt_of_rck rck j.slot).trans (slotAt_slotFilled j s)
    obtain ⟨bucket, total⟩ := slotFilled_counts j s
    refine ⟨_, congrArg Host.Outcome.next ends, congrArg Rck.job rck, congrArg Slot.st filled, congrArg Slot.bytes filled,
      congrArg Slot.blks filled, (congrArg Slot.step filled).trans rfl, (congrArg Slot.tenant filled).trans rfl, congrArg Slot.grafted filled,
      congrArg Slot.narrowed filled, (congrArg Rck.total rck).trans total, ?_, ?_⟩
    · rw [congrArg Rck.bucket rck, bucket, Rck.programmed]
      push_cast
      rfl
    · exact (slotFilled_frame j s).trans ((out.mono (by decide)).trans ((noted.mono (by decide)).trans (ended.mono (by decide))))

end Sys2Proof.Machine
end

section
/-!
One step of the module (R423 of 11), the edge of TCLK (R512 of 14), the TAP's drive instructions (R571 of 16) and the book's commands
(R632, R635, R636 of 18).
-/
namespace Sys2Proof.Machine

/-- Settles O1: the queue's front and rest are what `step` reads. -/
theorem stepRunsTheFront : Obligations.StepRunsTheFront := fun _ _ _ => rfl

/-! ## The time base at an edge of TCLK (R512) -/

/-- The time base as one number of units of 2^-32 ns. -/
def timeUnits (s : State) : Nat := (s.tim.s * 1000000000 + s.tim.ns) * 2 ^ 32 + s.tim.frac

/-- What `addTime` leaves of the time base, where the sum is the number `n`. -/
theorem addTime_tim {d : Int} {n : Nat} {s : State} (h : (timeUnits s : Int) + d = n) :
    (addTime d s).tim = { s.tim with
      s := n / 2 ^ 32 / 1000000000 % 2 ^ 64, ns := n / 2 ^ 32 % 1000000000, frac := n % 2 ^ 32 } := by
  have units : ((timeUnits s : Int) + d).toNat = n := by omega
  rw [← units]
  rfl

/-- The seconds, nanoseconds and fraction of a number of units are those of its parts, once the nanoseconds lie below two seconds. -/
theorem units_carry {a b f i n m : Nat} (hm : m = b + (f + i) / 2 ^ 32) (hn : n = (a * 1000000000 + b) * 2 ^ 32 + f + i)
    (ha : a + 1 < 2 ^ 64) :
    n % 2 ^ 32 = (f + i) % 2 ^ 32 ∧
    (m < 10 ^ 9 → n / 2 ^ 32 % 1000000000 = m ∧ n / 2 ^ 32 / 1000000000 % 2 ^ 64 = a) ∧
    (10 ^ 9 ≤ m → m < 2 * 10 ^ 9 → n / 2 ^ 32 % 1000000000 = m - 10 ^ 9 ∧ n / 2 ^ 32 / 1000000000 % 2 ^ 64 = a + 1) := by
  omega

/-- The increment is below 256 ns: it has eight bits of nanoseconds. -/
theorem timIncr_lt (s : State) : timIncr s < 256 * 2 ^ 32 := by
  have whole : fldW (cset s .tim 0 1) 7 0 < 256 := Nat.mod_lt _ (by decide)
  have part : (cset s .tim 0 0).toNat < 2 ^ 32 := (cset s .tim 0 0).isLt
  unfold timIncr
  omega

/-- An edge with no slew in progress adds the increment. -/
theorem tickTime_steady {s : State} (h : s.tim.slew = 0) :
    tickTime s = addTime (timIncr s) { modTim (fun x => { x with slew := 0 }) s with tick := s.tick + 1 } := by
  simp [tickTime, h, modTim]

/-- An edge while the IOD and its clock run. -/
theorem tickEdge_runs {s : State} (hn : nclkOn s = true) (ho : s.pwr.st ≠ .off) (hr : s.boot.heldReset = false) (hi : iodOn s = true) :
    tickEdge s = tickTime (tickHours s) := by
  simp only [nclkOn, Bool.and_eq_true, decide_eq_true_eq, Bool.not_eq_true'] at hn
  simp [tickEdge, hn, ho, hr, hi]

/-- Settles O15: the edge is `tickTime` after the hours' count, which leaves the time base; the carry is `units_carry`. -/
theorem timeBaseTicks : Obligations.TimeBaseTicks := by
  refine ⟨by decide, fun s n empty clock power held iod slew ns frac sec sum => ?_⟩
  have below := timIncr_lt s
  have edge : tickEdge s = addTime (timIncr s) { modTim (fun x => { x with slew := 0 }) (tickHours s) with tick := s.tick + 1 } :=
    (tickEdge_runs clock power held iod).trans (tickTime_steady slew)
  have base := addTime_tim (s := { modTim (fun x => { x with slew := 0 }) (tickHours s) with tick := s.tick + 1 })
    (n := timeUnits s + timIncr s) (d := timIncr s) (Nat.cast_add _ _).symm
  rw [← edge] at base
  obtain ⟨rest, small, carried⟩ := units_carry sum (n := timeUnits s + timIncr s) rfl sec
  refine ⟨tickEdge s, by rw [step, empty], by rw [edge]; rfl, by rw [base, rest], fun h => ?_, fun h => ?_, ?_⟩
  · rw [base]
    exact small h
  · rw [base]
    exact carried h (by omega)
  · rw [edge]
    exact modTim_only _ (by decide) (tick_only (by decide) (modTim_only _ (by decide) (modBook_only _ (by decide) (Only.rfl' _ s))))

/-! ## The TAP's drive instructions (R569, R571) -/

theorem tapInstr_frame (ok : Bool) (code drive : Nat) (s : State) : Only [.dbg] s (tapInstr ok code drive s) :=
  modDbg_only _ (by decide) (Only.rfl' _ s)
theorem tapInstr_selects (code drive : Nat) (s : State) : (tapInstr true code drive s).dbg = { s.dbg with ir := code, drive := drive } := rfl
theorem tapInstr_bypasses (code drive : Nat) (s : State) : (tapInstr false code drive s).dbg = { s.dbg with ir := 0xFF, drive := 0 } := rfl

/-- A drive instruction with its code and what it drives the pins with (Table 16.7). -/
theorem exec_drive {c : Instr} {ir drive : Nat} (h : (c, ir, drive) ∈
    [(Instr.extest, 0x00, 1), (.tapClamp, 0x04, 1), (.highz, 0x05, 2), (.extestPulse, 0x06, 3), (.extestTrain, 0x07, 4)]) (s : State) :
    exec c s = .next (tapDrive ir drive s) := by
  simp only [List.mem_cons, Prod.mk.injEq, List.not_mem_nil, or_false] at h
  obtain ⟨rfl, rfl, rfl⟩ | ⟨rfl, rfl, rfl⟩ | ⟨rfl, rfl, rfl⟩ | ⟨rfl, rfl, rfl⟩ | ⟨rfl, rfl, rfl⟩ := h <;> rfl

theorem tapDrive_active {s : State} (h : activeTens s ≠ []) (ir drive : Nat) : tapDrive ir drive s = tapInstr false ir drive s := by
  simp [tapDrive, List.isEmpty_eq_false_iff.mpr h]

/-- Settles O17: each instruction is `tapDrive`, which an ACTIVE tenant makes BYPASS. -/
theorem driveSelectsBypass : Obligations.DriveSelectsBypass := by
  intro c s hc active
  obtain ⟨ir, drive, row⟩ : ∃ ir drive, (c, ir, drive) ∈
      [(Instr.extest, 0x00, 1), (.tapClamp, 0x04, 1), (.highz, 0x05, 2), (.extestPulse, 0x06, 3), (.extestTrain, 0x07, 4)] := by
    simp only [List.mem_cons, List.not_mem_nil, or_false] at hc
    obtain rfl | rfl | rfl | rfl | rfl := hc <;> simp
  exact ⟨_, (exec_drive row s).trans (congrArg _ (tapDrive_active active ir drive)), tapInstr_bypasses ir drive s, tapInstr_frame _ _ _ s⟩

/-! ## The book's cursor and its clear (R632, R635, R636) -/

@[simp] theorem rwReg_setRw (acc a acc' a' : Nat) (w : Word) (s : State) :
    rwReg (setRw acc a w s) acc' a' = if acc' * 0x10000000 + a' = acc * 0x10000000 + a then w else rwReg s acc' a' :=
  get_set 0 s.regs _ _ w

theorem bookCur_setRw (lo hi : Word) (s : State) :
    bookCur (setRw 0 0x120001C hi (setRw 0 0x1200018 lo s)) = hi.toNat * 2 ^ 32 + lo.toNat := by
  simp [bookCur]

theorem exec_bookCurNext {acc : Acc} {s : State} (h : blockOpen s acc 18 = true) :
    Completes (.bookCurNext acc) s (fun t => bookCur t = (bookCur s + 1) % 2 ^ 64 ∧ Only [.regs] s t) := by
  refine ⟨_, congrArg Host.Outcome.next (if_pos h), ?_, setRw_only _ _ _ (by decide) (setRw_only _ _ _ (by decide) (Only.rfl' _ s))⟩
  rw [bookCur_setRw]
  simp only [wordOf, hi32, lo32, BitVec.toNat_ofNat]
  omega

theorem addRec_room {s : State} (h : s.book.waiting.length < 4096) (r : Rec) :
    addRec r s = modBook (fun b => { b with waiting := b.waiting ++ [r] }) s := if_pos h

/-- BOOK_CLEAR of an open block answers its result, and clears the book where that is OK. -/
theorem exec_bookClear {acc : Acc} {s : State} (h : blockOpen s acc 18 = true) :
    exec (.bookClear acc) s = .next (modBook (fun b => { b with clear := clearResult s }) (if clearResult s = cOK then clearBook s else s)) :=
  congrArg Host.Outcome.next (if_pos h)

/-- The result of a clear, case by case (R636). -/
theorem clearResult_free {s : State} (hl : s.sec.life = .provisioned) (hb : boundTens s = []) : clearResult s = cOK := by
  simp [clearResult, hl, allFree, hb]
theorem clearResult_denied {s : State} (hl : s.sec.life ≠ .provisioned) : clearResult s = cDENIED := if_pos hl
theorem clearResult_bound {s : State} (hl : s.sec.life = .provisioned) (hb : boundTens s ≠ []) : clearResult s = cBUSY := by
  simp [clearResult, hl, allFree, hb]

/-- The record that a cleared book stages, and the book it leaves. -/
theorem clearBook_book {s : State} (room : s.book.waiting.length < 4096) :
    (clearBook s).book = { s.book with
      recs := Map.mapV (fun _ r => List.replicate 8 0xFF ++ r.drop 8) s.book.recs, floor := s.book.head,
      waiting := s.book.waiting ++ [{ code := 0x1200, subject := s.book.head % 2 ^ 32, detail := s.book.floor, at_ := nowT s }] } := by
  have cleared : (modBook (fun x => { x with
      recs := Map.mapV (fun _ r => List.replicate 8 0xFF ++ r.drop 8) x.recs, floor := x.head }) s).book.waiting.length < 4096 := room
  exact congrArg State.book (addRec_room cleared _)

/-- Settles O19: the cursor by its two registers, a clear by its result. -/
theorem bookCommands : Obligations.BookCommands := by
  refine ⟨fun acc s => exec_bookCurNext, fun acc s opened life free room => ?_, fun acc s opened life => ?_, fun acc s opened life bound => ?_⟩
  · have book := clearBook_book room
    refine ⟨_, exec_bookClear opened, ?_, ?_⟩
    · exact clearResult_free life free
    rw [if_pos (clearResult_free life free)]
    refine ⟨congrArg Book.floor book, (congrArg Book.head book).trans rfl, ⟨_, congrArg Book.waiting book, rfl, rfl⟩, fun e mem => ?_, ?_⟩
    · obtain ⟨x, -, rfl⟩ := List.mem_map.mp ((congrArg Book.recs book) ▸ mem)
      rfl
    · exact modBook_only _ (by decide) (record_only _ _ _ (by decide) (modBook_only _ (by decide) (Only.rfl' _ s)))
  · rw [exec_bookClear opened, clearResult_denied life]
    rfl
  · rw [exec_bookClear opened, clearResult_bound life bound]
    rfl

end Sys2Proof.Machine
end

section
/-!
The fault path of class 3 and 4 (R454 to R460 of 12): the fence, the pending reset and the launches that end at it.
-/
namespace Sys2Proof.Machine

/-! ## What the memory stacks keep while launches end and moves go -/

/-- The stacks and MEM_RETIRE. -/
def stkPart (s : State) : Map Stk × Word := (s.pln.stk, s.pln.retire)

theorem stkPart_of_pln {s u : State} (h : u.pln = s.pln) : stkPart u = stkPart s := by rw [stkPart, h, stkPart]
theorem stkRec_of_stkPart {s u : State} (h : stkPart u = stkPart s) (k : Nat) : stkRec u k = stkRec s k := by
  rw [stkRec, show u.pln.stk = s.pln.stk from congrArg Prod.fst h, stkRec]
theorem stkPart_dropMove (key : Nat) (s : State) : stkPart (dropMove key s) = stkPart s := by
  unfold dropMove
  split <;> rfl
theorem stkPart_dropPage (h p : Nat) (s : State) : stkPart (dropPage h p s) = stkPart s := by
  unfold dropPage
  split
  · rfl
  · exact stkPart_dropMove _ _
theorem stkPart_dropHnd (h : Nat) (s : State) : stkPart (dropHnd h s) = stkPart s :=
  forS_reads stkPart (fun p _ x => stkPart_dropPage h p x) s
theorem stkPart_modHnd (h : Nat) (f : Hnd → Hnd) (s : State) : stkPart (modHnd h f s) = stkPart s := by
  unfold modHnd
  split <;> rfl
theorem stkPart_settleFrees (t : Nat) (s : State) : stkPart (settleFrees t s) = stkPart s := by
  rw [settleFrees_eq]
  refine forS_reads stkPart (fun e _ x => ?_) s
  obtain same | drops | ⟨w, notes⟩ := settleFree_cases t e x
  · rw [same]
  · rw [drops, stkPart_dropHnd]
  · rw [notes, stkPart_modHnd]
theorem stkPart_startPromo (h p : Nat) (s : State) : stkPart (startPromo h p s) = stkPart s := by
  unfold startPromo
  split
  · split
    · split
      · unfold countUnmet startMove
        split <;> split <;> rfl
      · rfl
    · rfl
  · rfl
theorem stkPart_retryPromos (s : State) : stkPart (retryPromos s) = stkPart s :=
  forS_reads stkPart (fun w _ x => stkPart_startPromo w.hnd (pageIdx w.off) x) s
theorem stkPart_dropStackMoves (k : Nat) (s : State) : stkPart (dropStackMoves k s) = stkPart s :=
  (stkPart_retryPromos _).trans (forS_reads stkPart (fun m _ x => stkPart_dropMove m.page x) s)

/-! ## The end of a launch -/

/-- Ending one launch leaves the stacks and the reference clock's mark, and takes its tag from the list. -/
theorem stopPart_launches (tag : Nat) (p : LPart) (s : State) : (stopPart tag p s).cor.launches = s.cor.launches := rfl
theorem stopParts_launches (tag : Nat) (ps : List LPart) (s : State) : (forS ps (stopPart tag) s).cor.launches = s.cor.launches :=
  forS_reads (fun x => x.cor.launches) (fun p _ x => stopPart_launches tag p x) s
theorem dropLaunch_launches (tag : Nat) (s : State) :
    (dropLaunch tag s).cor.launches = s.cor.launches.filter (fun m => decide (m.tag ≠ tag)) := by
  unfold dropLaunch
  split
  · next gone =>
    exact (List.filter_eq_self.mpr (fun m mem => by simpa using List.find?_eq_none.mp gone m mem)).symm
  · next l found => exact congrArg (List.filter _) (stopParts_launches tag l.parts s)
theorem stkPart_dropLaunch (tag : Nat) (s : State) : stkPart (dropLaunch tag s) = stkPart s := by
  unfold dropLaunch
  split
  · rfl
  · next l _ => exact forS_reads (f := stopPart tag) (l := l.parts) stkPart (fun _ _ _ => rfl) s
theorem refLost_dropLaunch (tag : Nat) (s : State) : (dropLaunch tag s).cor.refLost = s.cor.refLost := by
  unfold dropLaunch
  split
  · rfl
  · next l _ => exact forS_reads (f := stopPart tag) (l := l.parts) (fun x => x.cor.refLost) (fun _ _ _ => rfl) s

theorem settlePreempt_launches (c : Nat) (s : State) : (settlePreempt c s).cor.launches = s.cor.launches := by
  unfold settlePreempt
  dsimp only
  split <;> rfl
theorem settlePreempt_refLost (c : Nat) (s : State) : (settlePreempt c s).cor.refLost = s.cor.refLost := by
  unfold settlePreempt
  dsimp only
  split <;> rfl
theorem settleCores_launches (s : State) : (settleCores s).cor.launches = s.cor.launches :=
  forS_reads (f := settleCore) (fun x => x.cor.launches) (fun c _ _ => settlePreempt_launches c _) s
theorem settleCores_refLost (s : State) : (settleCores s).cor.refLost = s.cor.refLost :=
  forS_reads (f := settleCore) (fun x => x.cor.refLost) (fun c _ _ => settlePreempt_refLost c _) s

/-- One launch ends at the fence: an unattached one completes (R458). -/
def endLaunch (l : Launch) (s : State) : State :=
  match l.step with
  | none => settleFrees l.tenant (completeNow l.tag stDISCARDED 4 0 (dropLaunch l.tag s))
  | some _ => dropLaunch l.tag s

theorem endAllLaunches_eq (s : State) : endAllLaunches s = settleCores (forS s.cor.launches endLaunch s) := rfl
theorem completed_frame (t tag status detail result : Nat) (s : State) :
    Only [.out, .hif, .mem, .pln] s (settleFrees t (completeNow tag status detail result s)) :=
  settleFrees_only t (by decide) (by decide) (completeNow_only tag status detail result (by decide) (by decide) (Only.rfl' _ s))
theorem endLaunch_cor (l : Launch) (s : State) : (endLaunch l s).cor = (dropLaunch l.tag s).cor := by
  unfold endLaunch
  split
  · exact completed_frame _ _ _ _ _ _ .cor (by decide)
  · rfl
theorem stkPart_endLaunch (l : Launch) (s : State) : stkPart (endLaunch l s) = stkPart s := by
  unfold endLaunch
  split
  · have completed : Only [.out, .hif] (dropLaunch l.tag s) (completeNow l.tag stDISCARDED 4 0 (dropLaunch l.tag s)) :=
      completeNow_only _ _ _ _ (by decide) (by decide) (Only.rfl' _ _)
    rw [stkPart_settleFrees, stkPart_of_pln (completed .pln (by decide)), stkPart_dropLaunch]
  · exact stkPart_dropLaunch _ _

/-- No launch is left: each turn takes its own tag from the list, and no turn adds one. -/
theorem endAllLaunches_launches (s : State) : (endAllLaunches s).cor.launches = [] := by
  rw [endAllLaunches_eq, settleCores_launches]
  have turn : ∀ l x, (endLaunch l x).cor.launches = x.cor.launches.filter (fun m => decide (m.tag ≠ l.tag)) := fun l x => by
    rw [endLaunch_cor, dropLaunch_launches]
  have fewer : (forS s.cor.launches endLaunch s).cor.launches ⊆ s.cor.launches :=
    forS_holds (fun x => x.cor.launches ⊆ s.cor.launches) (fun l _ x hx m mem => hx (List.mem_of_mem_filter (turn l x ▸ mem)))
      (List.Subset.refl _)
  refine List.eq_nil_iff_forall_not_mem.mpr (fun l mem => ?_)
  have gone : ∀ m ∈ (forS s.cor.launches endLaunch s).cor.launches, m.tag ≠ l.tag :=
    forS_establishes (fun x => ∀ m ∈ x.cor.launches, m.tag ≠ l.tag) (fewer mem)
      (fun x m hm => by
        rw [turn l x] at hm
        exact of_decide_eq_true (List.mem_filter.mp hm).2)
      (fun q _ x hx m hm => hx m (List.mem_of_mem_filter (turn q x ▸ hm))) s
  exact gone l mem rfl

theorem stkPart_endAllLaunches (s : State) : stkPart (endAllLaunches s) = stkPart s := by
  have cores : (endAllLaunches s).pln = (forS s.cor.launches endLaunch s).pln :=
    settleCores_only (fr := [.cor]) (by decide) (Only.rfl' _ _) .pln (by decide)
  rw [stkPart_of_pln cores]
  exact forS_reads stkPart (fun l _ x => stkPart_endLaunch l x) s
theorem refLost_endAllLaunches (s : State) : (endAllLaunches s).cor.refLost = s.cor.refLost := by
  rw [endAllLaunches_eq, settleCores_refLost]
  exact forS_reads (fun x => x.cor.refLost) (fun l _ x => by rw [endLaunch_cor, refLost_dropLaunch]) s
theorem endAllLaunches_frame (s : State) : Only [.out, .mem, .hif, .pln, .cor] s (endAllLaunches s) :=
  endAllLaunches_only (by decide) (by decide) (by decide) (by decide) (by decide) (Only.rfl' _ s)

/-! ## A fault of class 3 or 4 (R456, R458, R460) -/

/-- The fence rises and the reset that is due is pending. -/
def fenced (src : Nat) (s : State) : State :=
  modErr (fun x => { x with fence := true, resetPend := if x.resetOn.isSome then x.resetPend else some (x.resetPend.getD src) }) s

/-- The state in which the fence rises: the fault is noted, the steps of the tenants reached are unclean, passes and sweeps aborted. -/
def faultMarked (src cls unit core : Nat) (tens : List Nat) (s : State) : State :=
  abortSweeps (abortPasses (forS tens uncleaned (faultNoted src cls unit core (frostFault cls s))))

theorem faultReport_high {src cls unit core : Nat} {tens : List Nat} (high : 3 ≤ cls) (s : State) :
    faultReport src cls unit core tens s =
      upMsg (.fault src cls unit core tens false) (endAllLaunches (fenced src (faultMarked src cls unit core tens s))) := by
  have dies : numDies (forS tens uncleaned (faultNoted src cls unit core (frostFault cls s))) = numDies (frostFault cls s) :=
    forS_reads (f := uncleaned) numDies (fun _ _ _ => rfl) _
  simp only [faultReport]
  rw [if_pos high, faultMarked, abortPasses, dies]
  rfl

theorem unclean_frame (src cls unit core : Nat) (tens : List Nat) (s : State) :
    Only [.stp, .err, .dbg] s (forS tens uncleaned (faultNoted src cls unit core (frostFault cls s))) :=
  forS_only _ _ (fun t x => modTstep_only t _ (by decide)) (modErr_only _ (by decide) ((frostFault_frame s cls).mono (by decide)))
theorem abortSweeps_frame (s : State) : Only [.pwr] s (abortSweeps s) := abortSweeps_only (by decide) (Only.rfl' _ s)
theorem faultMarked_frame (src cls unit core : Nat) (tens : List Nat) (s : State) :
    Only [.mem, .stp, .err, .pwr, .dbg, .book] s (faultMarked src cls unit core tens s) :=
  ((unclean_frame src cls unit core tens s).mono (by decide)).trans
    (((abortPasses_frame _).mono (by decide)).trans ((abortSweeps_frame _).mono (by decide)))

/-- The abort of a pass touches the passes' records only. -/
theorem abortStress_err (d : Nat) (s : State) : (abortStress d s).err = { s.err with stress := (abortStress d s).err.stress } := by
  have banks : (zeroDieBanks d s).err = s.err := zeroDieBanks_only (fr := [.mem]) d (by decide) (Only.rfl' _ s) .err (by decide)
  unfold abortStress
  split
  · have recorded := record_frame 0x0C04 (stressRec s d).failmap (d + 3 * 4)
      (modStress d (fun x => { x with running := false, testing := false, result := 3 }) (zeroDieBanks d s)) .err (by decide)
    rw [recorded, modStress, modErr_err, banks]
  · rfl

/-- What the fault logic keeps of a pending reset. -/
def resetDue (s : State) : Option Nat × Option Nat := (s.err.resetOn, s.err.resetPend)

theorem resetDue_abortStress (d : Nat) (s : State) : resetDue (abortStress d s) = resetDue s := by
  rw [resetDue, abortStress_err]
  rfl
theorem resetDue_of_err {s u : State} (h : u.err = s.err) : resetDue u = resetDue s := by rw [resetDue, h, resetDue]
theorem resetDue_faultMarked (src cls unit core : Nat) (tens : List Nat) (s : State) :
    resetDue (faultMarked src cls unit core tens s) = resetDue s := by
  have passes : resetDue (abortPasses (forS tens uncleaned (faultNoted src cls unit core (frostFault cls s)))) = _ :=
    forS_reads resetDue (fun d _ x => resetDue_abortStress d x) _
  have steps : resetDue (forS tens uncleaned (faultNoted src cls unit core (frostFault cls s))) =
      resetDue (frostFault cls s) := forS_reads (f := uncleaned) resetDue (fun _ _ _ => rfl) _
  exact passes.trans (steps.trans (resetDue_of_err (frostFault_frame s cls .err (by decide))))

/-- What a fault of class 3 or 4 leaves: the fence, a reset that is due, no launch, its message to the owner; the dies and stacks are as
they were but for their sweeps. -/
structure Fences (src cls unit : Nat) (tens : List Nat) (s u : State) : Prop where
  fence : u.err.fence = true
  pend : u.err.resetPend = (if s.err.resetOn.isSome then s.err.resetPend else some (s.err.resetPend.getD src))
  launches : u.cor.launches = []
  up : u.cel.up = s.cel.up ++ [.fault src cls unit 0xFF tens false]
  cel : u.cel = { s.cel with up := u.cel.up }
  pwr : u.pwr = (abortSweeps s).pwr
  stks : stkPart u = stkPart s
  refLost : u.cor.refLost = s.cor.refLost

theorem faultReport_fences {src cls unit : Nat} {tens : List Nat} (high : 3 ≤ cls) (s : State) :
    Fences src cls unit tens s (faultReport src cls unit 0xFF tens s) := by
  have marked := faultMarked_frame src cls unit 0xFF tens s
  have due := resetDue_faultMarked src cls unit 0xFF tens s
  have ended := endAllLaunches_frame (fenced src (faultMarked src cls unit 0xFF tens s))
  have err : (faultReport src cls unit 0xFF tens s).err = (fenced src (faultMarked src cls unit 0xFF tens s)).err := by
    rw [faultReport_high high]
    exact ended .err (by decide)
  have cel : (faultReport src cls unit 0xFF tens s).cel = { s.cel with up := s.cel.up ++ [UpMsg.fault src cls unit 0xFF tens false] } := by
    rw [faultReport_high high]
    exact congrArg (fun c : Cel => { c with up := c.up ++ [UpMsg.fault src cls unit 0xFF tens false] })
      ((ended .cel (by decide)).trans (marked .cel (by decide)))
  have on : (faultMarked src cls unit 0xFF tens s).err.resetOn = s.err.resetOn := congrArg Prod.fst due
  have pend : (faultMarked src cls unit 0xFF tens s).err.resetPend = s.err.resetPend := congrArg Prod.snd due
  have plnMarked : (fenced src (faultMarked src cls unit 0xFF tens s)).pln = s.pln := marked .pln (by decide)
  have corMarked : (fenced src (faultMarked src cls unit 0xFF tens s)).cor = s.cor := marked .cor (by decide)
  refine ⟨by rw [err]; rfl, ?_, ?_, by rw [cel], by rw [cel], ?_, ?_, ?_⟩
  · rw [err, fenced, modErr_err, on, pend]
  · rw [faultReport_high high]
    exact endAllLaunches_launches _
  · rw [faultReport_high high]
    have passes := (unclean_frame src cls unit 0xFF tens s).mono (qs := [.mem, .stp, .err, .dbg, .book]) (by decide)
    have before := passes.trans ((abortPasses_frame _).mono (by decide)) .pwr (by decide)
    exact (ended .pwr (by decide)).trans (congrArg (fun p : Pwr => { p with dies := Map.mapV (fun _ d => { d with sweeping := false }) p.dies }) before)
  · rw [faultReport_high high]
    exact (stkPart_endAllLaunches _).trans (stkPart_of_pln plnMarked)
  · rw [faultReport_high high]
    exact (refLost_endAllLaunches _).trans (congrArg Cor.refLost corMarked)

/-- A die after such a fault reads as before but for a sweep that ends. -/
theorem Fences.die {src cls unit : Nat} {tens : List Nat} {s u : State} (h : Fences src cls unit tens s u) (q : Nat) :
    dieP u q = { dieP s q with sweeping := false } := by
  rw [dieP, h.pwr]
  exact dieP_abortSweeps s q

theorem faultAll_fences {src unit cls : Nat} (hc : faultClass src = cls) (high : 3 ≤ cls) (s : State) :
    Fences src cls unit (workTens s) s (faultAll src unit 0xFF s) := by
  rw [faultAll, hc]
  exact faultReport_fences high s

end Sys2Proof.Machine
end

section
/-!
Power requests and the transitions they start (R483 to R487 of 13), die temperatures, vintage margins and the owner's timers (R449 of 11;
R492, R493, R497, R507 of 13).
-/
namespace Sys2Proof.Machine

/-! ## What a request answers (R484 to R486) -/

/-- The requests of PWR_REQ with their numbers. -/
theorem exec_powerReq {c : Instr} {acc : Acc} {req : Nat}
    (h : (c, req) ∈ [(Instr.pwrReqAwake acc, 1), (.pwrReqDormant acc, 2), (.pwrReqStandby acc, 3)]) (s : State) :
    exec c s = .next (if blockOpen s acc 13 then powerReq req s else s) := by
  simp only [List.mem_cons, Prod.mk.injEq, List.not_mem_nil, or_false] at h
  obtain ⟨rfl, rfl⟩ | ⟨rfl, rfl⟩ | ⟨rfl, rfl⟩ := h <;> rfl

/-- A request that starts no transition leaves its answer alone. -/
theorem powerReq_answers {req r : Nat} {s : State} (h : reqResult s req = r) (hr : r ≠ 1) :
    powerReq req s = { s with pwr := { s.pwr with reqStatus := r } } := by
  rw [powerReq, h, if_neg hr]
  rfl
/-- A request whose conditions hold starts its transition. -/
theorem powerReq_starts {req : Nat} {s : State} (h : reqResult s req = 1) :
    powerReq req s = { s with pwr := { s.pwr with trans := if req = 1 then 2 else if req = 2 then 1 else 3, reqStatus := 1 } } := by
  rw [powerReq, h, if_pos rfl]
  rfl

section
variable {acc : Acc} {s : State}

theorem exec_answers {c : Instr} {req r : Nat} (hc : (c, req) ∈ [(Instr.pwrReqAwake acc, 1), (.pwrReqDormant acc, 2), (.pwrReqStandby acc, 3)])
    (opened : blockOpen s acc 13 = true) (h : reqResult s req = r) (hr : r ≠ 1) :
    exec c s = .next { s with pwr := { s.pwr with reqStatus := r } } := by
  rw [exec_powerReq hc, if_pos opened, powerReq_answers h hr]
theorem exec_starts {c : Instr} {req : Nat} (hc : (c, req) ∈ [(Instr.pwrReqAwake acc, 1), (.pwrReqDormant acc, 2), (.pwrReqStandby acc, 3)])
    (opened : blockOpen s acc 13 = true) (h : reqResult s req = 1) :
    exec c s = .next { s with pwr := { s.pwr with trans := if req = 1 then 2 else if req = 2 then 1 else 3, reqStatus := 1 } } := by
  rw [exec_powerReq hc, if_pos opened, powerReq_starts h]

end

/-! ## A change of the power state (R509) -/

theorem noteAll_frame (code subject detail : Nat) (s : State) : Only [.hif, .out, .book] s (noteAll code subject detail s) :=
  noteAll_only code subject detail (by decide) (by decide) (by decide) (Only.rfl' _ s)
/-- With no tenant ACTIVE an announcement is a record alone. -/
theorem noteAll_quiet {s : State} (h : activeTens s = []) (code subject detail : Nat) :
    noteAll code subject detail s = record code subject detail s := by
  rw [noteAll, h]
  rfl
theorem setPwr_pwr (st : PowerSt) (s : State) : (setPwr st s).pwr = { s.pwr with st := st } := by
  unfold setPwr
  split
  next h => rw [← h]
  next h => exact noteAll_frame _ _ _ _ .pwr (by decide)
theorem setPwr_frame (st : PowerSt) (s : State) : Only [.out, .hif, .pwr, .book] s (setPwr st s) :=
  setPwr_only st (by decide) (by decide) (by decide) (by decide) (Only.rfl' _ s)
theorem setPwr_quiet {s : State} (h : activeTens s = []) (st : PowerSt) : Only [.pwr, .book] s (setPwr st s) := by
  have silent : activeTens (modPwr (fun p => { p with st := st }) s) = [] := h
  unfold setPwr
  rw [noteAll_quiet silent]
  exact ite_only (Only.rfl' _ s) (record_only _ _ _ (by decide) (modPwr_only _ (by decide) (Only.rfl' _ s)))
theorem reqOk_pwr (s : State) : (reqOk s).pwr = { s.pwr with reqStatus := if s.pwr.reqStatus = 1 then 0 else s.pwr.reqStatus } := by
  unfold reqOk
  split <;> rfl
theorem reqOk_frame (s : State) : Only [.pwr] s (reqOk s) := reqOk_only (by decide) (Only.rfl' _ s)

/-! ## Transitions end (R483, R486, R487) -/

theorem dormantEntryDone_completes {s : State} (frost : s.dbg.frost = 0) (trans : s.pwr.trans = 1) :
    Completes .dormantEntryDone s (fun u =>
      u.pwr.st = .dormant ∧ u.pwr.from_ = s.pwr.st ∧ u.pwr.trans = (if s.pwr.wake then 2 else 0) ∧
      u.pwr.reqStatus = (if s.pwr.reqStatus = 1 then 0 else s.pwr.reqStatus) ∧ Only [.mem, .pln, .cor, .pwr, .hif, .out, .book] s u) := by
  have saved : (forS (List.range (numDies s)) saveDie s).pwr = s.pwr :=
    forS_only (ps := [.mem, .pln, .cor]) _ _ (fun d x => saveDie_only d (by decide) (by decide) (by decide)) (Only.rfl' _ s) .pwr (by decide)
  have pwr : (dormantIn s).pwr = { s.pwr with
      from_ := s.pwr.st, trans := if s.pwr.wake then 2 else 0, st := .dormant,
      reqStatus := if s.pwr.reqStatus = 1 then 0 else s.pwr.reqStatus } := by
    rw [dormantIn, if_pos trans, reqOk_pwr, setPwr_pwr, modPwr_pwr, saved]
  exact ⟨_, clocked_running frost _, congrArg Pwr.st pwr, congrArg Pwr.from_ pwr, congrArg Pwr.trans pwr, congrArg Pwr.reqStatus pwr,
    dormantIn_only (by decide) (by decide) (by decide) (by decide) (by decide) (by decide) (by decide) (Only.rfl' _ s)⟩

/-- The state that a Dormant module leaves for, and the cap in force there (R487). -/
def exitCap (s : State) : Option Nat := s.pwr.capNext.getD s.pwr.fwCap
def exitSt (s : State) : PowerSt := if s.pwr.capNext.isSome then capState s (exitCap s) else s.pwr.from_
/-- The module has left Dormant. -/
def awoken (s : State) : State :=
  setPwr (exitSt s) (modPwr (fun p => { p with trans := 0, wake := false, capNext := none, fwCap := exitCap s }) s)
/-- A wake cause is told to the owner. -/
def wakeTold (wake : Bool) (s : State) : State := if wake then upEvent 9 0 1 [] 0 0 s else s

theorem wakeTold_up (wake : Bool) (s : State) :
    (wakeTold wake s).cel.up = s.cel.up ++ (if wake then [.event 9 0 1 [] 0 0] else []) := by
  cases wake
  · exact (List.append_nil _).symm
  · rfl
theorem wakeTold_pwr (wake : Bool) (s : State) : (wakeTold wake s).pwr = s.pwr := by cases wake <;> rfl

theorem dormantOut_leaves {s : State} (st : s.pwr.st = .dormant) (trans : s.pwr.trans = 2) :
    dormantOut s = pump (reqOk (wakeTold s.pwr.wake (awoken s))) := if_pos ⟨st, trans⟩

theorem dormantExitDone_completes {s : State} (frost : s.dbg.frost = 0) (st : s.pwr.st = .dormant) (trans : s.pwr.trans = 2) :
    Completes .dormantExitDone s (fun u =>
      u.pwr.trans = 0 ∧ u.pwr.wake = false ∧ u.pwr.capNext = none ∧
      (s.pwr.capNext = none → u.pwr.st = s.pwr.from_ ∧ u.pwr.fwCap = s.pwr.fwCap) ∧
      (∀ c, s.pwr.capNext = some c → u.pwr.fwCap = c ∧ u.pwr.st = (if c.getD (envelope s) < envelope s then .trimmed else .full)) ∧
      u.cel.up = s.cel.up ++ (if s.pwr.wake then [.event 9 0 1 [] 0 0] else []) ∧
      Only [.mem, .pln, .rck, .cel, .pwr, .hif, .out, .book] s u) := by
  have pwr : (dormantOut s).pwr = { s.pwr with
      trans := 0, wake := false, capNext := none, fwCap := exitCap s, st := exitSt s,
      reqStatus := if s.pwr.reqStatus = 1 then 0 else s.pwr.reqStatus } := by
    rw [dormantOut_leaves st trans, pump_frame _ .pwr (by decide), reqOk_pwr, wakeTold_pwr, awoken, setPwr_pwr, modPwr_pwr]
  have up : (dormantOut s).cel.up = s.cel.up ++ (if s.pwr.wake then [.event 9 0 1 [] 0 0] else []) := by
    have awake : (awoken s).cel = s.cel := setPwr_frame _ _ .cel (by decide)
    rw [dormantOut_leaves st trans, pump_frame _ .cel (by decide), reqOk_frame _ .cel (by decide), wakeTold_up, awake]
  refine ⟨_, clocked_running frost _, congrArg Pwr.trans pwr, congrArg Pwr.wake pwr, congrArg Pwr.capNext pwr, fun none => ?_, fun c waits => ?_, up,
    dormantOut_only (by decide) (by decide) (by decide) (by decide) (by decide) (by decide) (by decide) (by decide) (Only.rfl' _ s)⟩
  · simp [pwr, exitSt, exitCap, none]
  · simp [pwr, exitSt, exitCap, waits, capState]

theorem standbyEntryDone_completes {s : State} (frost : s.dbg.frost = 0) (trans : s.pwr.trans = 3) :
    Completes .standbyEntryDone s (fun u =>
      u.pwr.st = .standby ∧ u.pwr.trans = 0 ∧ u.pwr.reqStatus = (if s.pwr.reqStatus = 1 then 0 else s.pwr.reqStatus) ∧
      u.mem = [] ∧ u.hif = {} ∧ u.cor = {} ∧ u.stp = {} ∧ u.col = {} ∧
      u.rck = { keptRck s.rck.bucket s.rck.total s.rck with wearAt := s.rck.wearAt } ∧
      u.vnl = { memoLinks := s.vnl.memoLinks, memoRoutes := s.vnl.memoRoutes } ∧ u.pln = keptPln s.pln.retire (stkTrips s.pln) ∧
      u.boot.hostReady = false ∧ u.boot.ready = false ∧
      Only [.mem, .hif, .pln, .cor, .vnl, .col, .stp, .rck, .err, .dbg, .sec, .pwr, .boot, .book] s u) := by
  have pwr : (reqOk (modPwr (fun p => { p with trans := 0 }) (setPwr .standby (railsOff s)))).pwr =
      { (railsOff s).pwr with st := .standby, trans := 0, reqStatus := if s.pwr.reqStatus = 1 then 0 else s.pwr.reqStatus } := by
    rw [reqOk_pwr, modPwr_pwr, setPwr_pwr]
    rfl
  have quiet : Only [.pwr, .book] (railsOff s) (reqOk (modPwr (fun p => { p with trans := 0 }) (setPwr .standby (railsOff s)))) :=
    reqOk_only (by decide) (modPwr_only _ (by decide) (setPwr_quiet (s := railsOff s) rfl _))
  have boot := quiet .boot (by decide)
  refine ⟨_, (clocked_running frost _).trans (congrArg Host.Outcome.next (if_pos trans)), congrArg Pwr.st pwr, congrArg Pwr.trans pwr,
    congrArg Pwr.reqStatus pwr, quiet .mem (by decide), quiet .hif (by decide), quiet .cor (by decide), quiet .stp (by decide),
    quiet .col (by decide), quiet .rck (by decide), quiet .vnl (by decide), quiet .pln (by decide),
    (congrArg Boot.hostReady boot :), (congrArg Boot.ready boot :), ?_⟩
  exact (railsOff_only (by decide) (by decide) (by decide) (by decide) (by decide) (by decide) (by decide) (by decide) (by decide) (by decide)
    (by decide) (by decide) (by decide) (Only.rfl' _ s)).trans (quiet.mono (by decide))

/-- Settles O45: each request by what `reqResult` answers in its state, each transition's end by its own theorem. -/
theorem powerStates : Obligations.PowerStates := by
  refine ⟨fun acc s opened st => exec_starts (req := 1) (by simp) opened (by simp [reqResult, st]),
    fun acc s opened st => exec_answers (req := 1) (by simp) opened ?awake (by decide),
    fun acc s opened st => exec_answers (req := 1) (by simp) opened ?asleep (by decide),
    fun acc s opened st trans => exec_answers (req := 2) (by simp) opened (by simp [reqResult, st, trans]) (by decide),
    fun acc s opened st trans idle filled passes => exec_starts (req := 2) (by simp) opened ?rest,
    fun acc s opened st busy => exec_answers (req := 2) (by simp) opened ?busy (by decide),
    fun acc s opened st => exec_answers (req := 3) (by simp) opened (by simp [reqResult, st]) (by decide),
    fun acc s opened st trans free filled => exec_starts (req := 3) (by simp) opened ?down,
    fun acc s opened st bound => exec_answers (req := 3) (by simp) opened (by simp [reqResult, st, bound]) (by decide),
    fun acc c s shut which => ?shut,
    fun s frost trans => dormantEntryDone_completes frost trans, fun s frost st trans => dormantExitDone_completes frost st trans,
    fun s frost trans => standbyEntryDone_completes frost trans⟩
  case awake => obtain st | st := st <;> simp [reqResult, st]
  case asleep => obtain st | st := st <;> simp [reqResult, st]
  case rest => obtain st | st := st <;> simp [reqResult, st, trans, idle, filled, passes]
  case busy =>
    obtain st | st := st
    all_goals obtain busy | busy | busy := busy <;> simp [reqResult, st, busy]
  case down => obtain st | st | st := st <;> simp [reqResult, st, trans, free, filled]
  case shut =>
    obtain ⟨req, row⟩ : ∃ req, (c, req) ∈ [(Instr.pwrReqAwake acc, 1), (.pwrReqDormant acc, 2), (.pwrReqStandby acc, 3)] := by
      simp only [List.mem_cons, List.not_mem_nil, or_false] at which
      obtain rfl | rfl | rfl := which <;> simp
    rw [exec_powerReq row, shut]
    rfl

end Sys2Proof.Machine
end

section
/-!
Die temperatures and trips, vintage margins and the owner's timers (R449 of 11; R492, R493, R497, R507 of 13).
-/
namespace Sys2Proof.Machine

theorem dieP_of_pwr {s u : State} (h : u.pwr = s.pwr) (q : Nat) : dieP u q = dieP s q := by rw [dieP, h, dieP]
theorem modDie_frame (d : Nat) (f : DieP → DieP) (s : State) : Only [.pwr] s (modDie d f s) := modPwr_only _ (by decide) (Only.rfl' _ s)
theorem upEvent_frame (tbl inst code : Nat) (tens : List Nat) (subject detail : Nat) (s : State) :
    Only [.cel] s (upEvent tbl inst code tens subject detail s) := modCel_only _ (by decide) (Only.rfl' _ s)

/-! ## A sample below the trip (R492, R493) -/

/-- The throttle of a die after a sample `t` with the threshold `thr`. -/
def throttledAt (thr t : Nat) (x : DieP) : Bool := if thr ≤ t then true else if t + 3 ≤ thr then false else x.throttle

/-- The sample is kept, and the die throttles or stops throttling by it. -/
def sampled (d t thr : Nat) (s : State) : State :=
  if thr ≤ t ∧ ¬ (dieP s d).throttle then
    upEvent 9 0 5 [] 0 0 (record 0x0D05 0 (d + t % 256 * 256)
      (modDie d (fun x => { x with throttle := true }) (modDie d (fun x => { x with temp := t }) s)))
  else if t + 3 ≤ thr ∧ (dieP s d).throttle then
    modDie d (fun x => { x with throttle := false }) (modDie d (fun x => { x with temp := t }) s)
  else modDie d (fun x => { x with temp := t }) s

theorem sampled_frame (d t thr : Nat) (s : State) : Only [.cel, .pwr, .book] s (sampled d t thr s) := by
  have kept := (modDie_frame d (fun x => { x with temp := t }) s).mono (qs := [.cel, .pwr, .book]) (by decide)
  refine ite_only ?_ (ite_only ?_ kept)
  · exact (kept.trans ((modDie_frame _ _ _).mono (by decide))).trans
      (((record_frame _ _ _ _).mono (by decide)).trans ((upEvent_frame _ _ _ _ _ _ _).mono (by decide)))
  · exact kept.trans ((modDie_frame _ _ _).mono (by decide))

theorem dieP_sampled (d t thr q : Nat) (s : State) :
    dieP (sampled d t thr s) q =
      if q = d then { dieP s d with temp := t, throttle := throttledAt thr t (dieP s d) } else dieP s q := by
  by_cases hq : q = d
  · subst hq
    have noted : ∀ x : State, dieP (upEvent 9 0 5 [] 0 0 (record 0x0D05 0 (q + t % 256 * 256) x)) q = dieP x q := fun x =>
      dieP_of_pwr (record_frame _ _ _ x .pwr (by decide)) q
    unfold sampled throttledAt
    split
    next h => simp [noted, h.1]
    next h =>
      split
      next h' => simp [show ¬ thr ≤ t by omega, h'.1]
      next h' =>
        by_cases hot : thr ≤ t
        · have on : (dieP s q).throttle = true := by simpa [hot] using h
          simp [hot, on]
        · by_cases cool : t + 3 ≤ thr
          · have off : (dieP s q).throttle = false := by simpa [cool] using h'
            simp [hot, cool, off]
          · simp [hot, cool]
  · have noted : ∀ x : State, dieP (upEvent 9 0 5 [] 0 0 (record 0x0D05 0 (d + t % 256 * 256) x)) q = dieP x q := fun x =>
      dieP_of_pwr (record_frame _ _ _ x .pwr (by decide)) q
    unfold sampled
    split
    · simp [noted, hq]
    · split <;> simp [hq]

/-- A sample below 115 °C ends a trip where the die has cooled and no reset is due, else leaves it. -/
theorem dieTemp_below {d t : Nat} {s : State} (h : t < 115) :
    dieTemp d t s =
      if t + 10 ≤ fldW (cset s .pwr 0 2) 6 0 ∧ (dieP s d).tripped ∧ s.err.resetOn = none ∧ s.err.resetPend = none then
        pump (modDie d (fun x => { x with tripped := false }) (sampled d t (fldW (cset s .pwr 0 2) 6 0) s))
      else sampled d t (fldW (cset s .pwr 0 2) 6 0) s := if_neg (by omega)
theorem dieTemp_above {d t : Nat} {s : State} (h : 115 ≤ t) : dieTemp d t s = dieTrip d (sampled d t (fldW (cset s .pwr 0 2) 6 0) s) := if_pos h

/-- DIE_TEMP_SAMPLE of a present die of an awake module. -/
theorem exec_dieTempSample {d t : Nat} {s : State} (clock : nclkOn s = true) (here : d < numDies s)
    (awake : s.pwr.st = .full ∨ s.pwr.st = .trimmed) (stays : s.boot.retiring = false) :
    exec (.dieTempSample d t) s = .next (dieTemp d t s) :=
  (iodClocked_running clock _).trans (congrArg Host.Outcome.next (if_pos ⟨here, awake, by simp [stays]⟩))

theorem dieP_dieTemp_below {d t thr : Nat} {s : State} (h : t < 115) (hthr : thr = fldW (cset s .pwr 0 2) 6 0) (q : Nat) :
    dieP (dieTemp d t s) q = if q = d then
        { dieP s d with
          temp := t, throttle := throttledAt thr t (dieP s d),
          tripped := (if t + 10 ≤ thr ∧ s.err.resetOn = none ∧ s.err.resetPend = none then false else (dieP s d).tripped) }
      else dieP s q := by
  rw [dieTemp_below h, ← hthr]
  split
  next cools =>
    have landed := dieP_of_pwr (pump_frame (modDie d (fun x => { x with tripped := false }) (sampled d t thr s)) .pwr (by decide)) q
    rw [landed, dieP_modDie, dieP_sampled, dieP_sampled, if_pos rfl]
    by_cases hq : q = d
    · simp [hq, cools.1, cools.2.2]
    · simp [hq]
  next stays =>
    rw [dieP_sampled]
    by_cases hq : q = d
    · have kept : (if t + 10 ≤ thr ∧ s.err.resetOn = none ∧ s.err.resetPend = none then false else (dieP s d).tripped) = (dieP s d).tripped := by
        split
        next due => simpa [due] using stays
        next => rfl
      simp [hq, kept]
    · simp [hq]

theorem dieTemp_below_frame {d t : Nat} {s : State} (h : t < 115) : Only [.mem, .pln, .rck, .cel, .pwr, .book] s (dieTemp d t s) := by
  have kept := (sampled_frame d t (fldW (cset s .pwr 0 2) 6 0) s).mono (qs := [.mem, .pln, .rck, .cel, .pwr, .book]) (by decide)
  rw [dieTemp_below h]
  exact ite_only ((kept.trans ((modDie_frame _ _ _).mono (by decide))).trans ((pump_frame _).mono (by decide))) kept

/-! ## A die trips (R493) -/

/-- The die is marked as tripped, and the trip counted. -/
def tripNoted (d : Nat) (s : State) : State := modDie d (fun x => { x with tripped := true, trips := satAdd 32 x.trips 1 }) s

theorem dieTrip_trips {d : Nat} {s : State} (h : (dieP s d).tripped = false) : dieTrip d s = faultAll 0x0B 0xFF 0xFF (tripNoted d s) :=
  if_neg (by simp [h])

theorem dieTempSample_trips {d t : Nat} {s : State} (clock : nclkOn s = true) (here : d < numDies s)
    (awake : s.pwr.st = .full ∨ s.pwr.st = .trimmed) (stays : s.boot.retiring = false) (hot : 115 ≤ t) (h : (dieP s d).tripped = false) :
    Completes (.dieTempSample d t) s (fun u =>
      (dieP u d).temp = t ∧ (dieP u d).tripped = true ∧ (dieP u d).trips = satAdd 32 (dieP s d).trips 1 ∧ u.err.fence = true ∧
      u.err.resetPend = (if s.err.resetOn.isSome then s.err.resetPend else some (s.err.resetPend.getD 0x0B)) ∧ u.cor.launches = []) := by
  have die := dieP_sampled d t (fldW (cset s .pwr 0 2) 6 0) d s
  have err := sampled_frame d t (fldW (cset s .pwr 0 2) 6 0) s .err (by decide)
  rw [if_pos rfl] at die
  have trips := faultAll_fences (src := 0x0B) (unit := 0xFF) (cls := 3) rfl le_rfl (tripNoted d (sampled d t (fldW (cset s .pwr 0 2) 6 0) s))
  have after := trips.die d
  rw [tripNoted, dieP_modDie, if_pos rfl, die] at after
  refine ⟨_, exec_dieTempSample clock here awake stays, ?_⟩
  rw [dieTemp_above hot, dieTrip_trips (by rw [die]; exact h)]
  refine ⟨congrArg DieP.temp after, congrArg DieP.tripped after, congrArg DieP.trips after, trips.fence, ?_, trips.launches⟩
  exact trips.pend.trans (congrArg (fun e : Err => if e.resetOn.isSome then e.resetPend else some (e.resetPend.getD 0x0B)) err)

/-! ## Vintage margins (R449, R497) -/

theorem wiltJoin_frame (kind subject : Nat) (s : State) : Only [.cel, .pol, .book] s (wiltJoin kind subject s) :=
  wiltJoin_only kind subject (by decide) (by decide) (by decide) (Only.rfl' _ s)
theorem wiltLeave_frame (kind subject : Nat) (s : State) : Only [.cel, .pol, .book] s (wiltLeave kind subject s) :=
  wiltLeave_only kind subject (by decide) (by decide) (by decide) (Only.rfl' _ s)

/-- Reading a die's monitors sets its margin, whatever the wilt list does. -/
theorem vintage_pwr (d : Nat) (m : BitVec 16) (s : State) : (vintage d m s).pwr = (modDie d (fun x => { x with margin := m.toNat }) s).pwr := by
  have joined := wiltJoin_frame 2 d (modDie d (fun x => { x with margin := m.toNat }) s) .pwr (by decide)
  have left := wiltLeave_frame 2 d (modDie d (fun x => { x with margin := m.toNat }) s) .pwr (by decide)
  unfold vintage
  dsimp only
  split
  · split
    · split <;> exact joined
    · rfl
  · split
    · split
      · exact left
      · rfl
    · split
      · exact left
      · rfl
theorem dieP_vintage (d q : Nat) (m : BitVec 16) (s : State) :
    dieP (vintage d m s) q = if q = d then { dieP s d with margin := m.toNat } else dieP s q := by
  rw [dieP_of_pwr (vintage_pwr d m s), dieP_modDie]

/-- The owner reads the monitors of the dies from `n` on, in order. -/
def vintages (l : List (BitVec 16)) (n : Nat) (s : State) : State := forS (l.zipIdx n) (fun m s => vintage m.2 m.1 s) s

theorem vintages_cons (m : BitVec 16) (l : List (BitVec 16)) (n : Nat) (s : State) :
    vintages (m :: l) n s = vintages l (n + 1) (vintage n m s) := rfl
theorem dieP_vintages_before {l : List (BitVec 16)} {n q : Nat} (h : q < n) (s : State) : dieP (vintages l n s) q = dieP s q := by
  induction l generalizing n s with
  | nil => rfl
  | cons m r ih => rw [vintages_cons, ih (by omega), dieP_vintage, if_neg (by omega)]
/-- Each die gets the margin at its place. -/
theorem dieP_vintages {l : List (BitVec 16)} {n i : Nat} {m : BitVec 16} (h : l[i]? = some m) (s : State) :
    dieP (vintages l n s) (n + i) = { dieP s (n + i) with margin := m.toNat } := by
  induction l generalizing n i s with
  | nil => cases h
  | cons x r ih =>
    rw [vintages_cons]
    cases i with
    | zero =>
      obtain rfl : x = m := by simpa using h
      rw [dieP_vintages_before (by omega), dieP_vintage, if_pos (Nat.add_zero n)]
      rfl
    | succ j =>
      rw [show n + (j + 1) = n + 1 + j by omega, ih h, dieP_vintage, if_neg (by omega)]

theorem exec_vintageRead {l : List (BitVec 16)} {s : State} (frost : s.dbg.frost = 0) (owned : s.cel.own ≠ 2) (dies : diesOn s = true) :
    exec (.vintageRead l) s = .next (vintages (l.take (numDies s)) 0 s) :=
  (clocked_running frost _).trans (congrArg Host.Outcome.next (if_neg (by simp [owned, dies])))

/-- A subject that is not on a list with room joins it at its end. -/
theorem wiltJoin_joins {kind subject : Nat} {s : State} (room : s.pol.wilts.length < 64)
    (new : s.pol.wilts.any (fun w => decide (w.kind = kind) && decide (w.subject = subject)) = false) :
    (wiltJoin kind subject s).pol.wilts = s.pol.wilts ++ [⟨kind, subject, nowT s⟩] := by
  have roomy : ¬ 64 ≤ s.pol.wilts.length := by omega
  unfold wiltJoin
  rw [new, if_neg (by decide)]
  dsimp only
  split
  · simp [roomy, upEvent]
  · split <;> simp [roomy, upEvent]

/-- A die whose margin falls below the threshold and is not on the list joins it, and the owner plans anew (R497). -/
theorem vintage_below {d : Nat} {m : BitVec 16} {s : State} (low : m.toInt < (fldW (cset s .pwr 0 3) 7 0 : Nat))
    (room : s.pol.wilts.length < 64) (new : ∀ w ∈ s.pol.wilts, w.kind = 2 → w.subject ≠ d) :
    vintage d m s = upEvent 9 0 4 [] 0 0 (wiltJoin 2 d (modDie d (fun x => { x with margin := m.toNat }) s)) := by
  have unlisted : s.pol.wilts.find? (fun w => decide (w.kind = 2) && decide (w.subject = d)) = none :=
    List.find?_eq_none.mpr (fun w mem => by simpa using new w mem)
  have listed : (wiltJoin 2 d (modDie d (fun x => { x with margin := m.toNat }) s)).pol.wilts.any
      (fun w => decide (w.kind = 2) && decide (w.subject = d)) = true := by
    obtain ⟨w, mem, hk, hs⟩ := wiltJoin_lists (kind := 2) (subject := d) (s := modDie d (fun x => { x with margin := m.toNat }) s) room
    exact List.any_eq_true.mpr ⟨w, mem, by simp [hk, hs]⟩
  unfold vintage
  simp only [unlisted, low, if_true, listed]

/-- Settles O47: a sample below the trip by `dieP_dieTemp_below`, one that trips the die is a fault of class 3 (`faultAll_fences`), the
margins by `dieP_vintages`, the wilt list by `wiltJoin_joins`. -/
theorem dieTemperatureAndAge : Obligations.DieTemperatureAndAge := by
  refine ⟨fun d t thr s clock here awake stays hthr below => ?sample,
    fun d t s clock here awake stays hot sound => dieTempSample_trips clock here awake stays hot sound,
    fun l s frost owned dies => ?read, fun m s frost owned dies low room new => ?low, fun s frost => clocked_running frost _,
    fun s frost limit idle quiet => ?idle⟩
  case sample =>
    have dies := dieP_dieTemp_below (d := d) below hthr
    have own := dies d
    rw [if_pos rfl] at own
    exact ⟨_, exec_dieTempSample clock here awake stays, congrArg DieP.temp own, congrArg DieP.throttle own, congrArg DieP.tripped own,
      (congrArg DieP.trips own :).trans rfl, fun q hq => (dies q).trans (if_neg hq), dieTemp_below_frame below⟩
  case read =>
    refine ⟨_, exec_vintageRead frost owned dies, fun i m here found => ?_, ?_⟩
    · have taken : (l.take (numDies s))[i]? = some m := by rw [List.getElem?_take_of_lt here, found]
      simpa using dieP_vintages (n := 0) taken s
    · exact forS_only _ _ (fun m x => vintage_only m.2 m.1 (by decide) (by decide) (by decide) (by decide)) (Only.rfl' _ s)
  case low =>
    have one : [m].take (numDies s) = [m] := List.take_of_length_le (by simp only [numDies]; split <;> simp)
    have joins := wiltJoin_joins (kind := 2) (subject := 0) (s := modDie 0 (fun x => { x with margin := m.toNat }) s) room
      (List.any_eq_false.mpr (fun w mem => by simpa using new w mem))
    refine ⟨_, exec_vintageRead frost owned dies, ?_⟩
    rw [one, show vintages [m] 0 s = vintage 0 m s from rfl, vintage_below low room new]
    exact ⟨joins, List.mem_append_right _ (List.mem_singleton_self _)⟩
  case idle => exact (clocked_running frost _).trans (congrArg Host.Outcome.next (if_pos ⟨limit, by simp [idle], by simp [quiet]⟩))

end Sys2Proof.Machine
end

section
/-!
The owner's handling of fault messages, the reset's release, corrected and scrubbed errors (R456, R457, R461 to R464 of 12).
-/
namespace Sys2Proof.Machine

/-! ## What is told to the owner stays told -/

/-- The parts of the state other than the owner's and the power's. -/
def offCel : List Part :=
  [.half, .moduleId, .pending, .tick, .free, .out, .mem, .regs, .grp, .hif, .pln, .cor, .vnl, .col, .stp, .rck, .pol, .err, .tim, .sec,
    .dbg, .boot, .book, .mram]

/-- The owner's state beside its messages and what its cycle has staged. -/
def Cel.off (c : Cel) : Cel := { c with up := [], staged := [] }

/-- Messages to the owner and what its cycle has staged only grow; nothing else of its state changes, nor the clamp. -/
structure Tells (a s : State) : Prop where
  up : a.cel.up <+: s.cel.up
  staged : a.cel.staged <+: s.cel.staged
  rest : s.cel.off = a.cel.off
  clamp : s.pwr.clamp = a.pwr.clamp

namespace Tells
variable {a s u : State}

theorem refl (a : State) : Tells a a := ⟨List.prefix_refl _, List.prefix_refl _, rfl, rfl⟩
theorem trans (h : Tells a s) (k : Tells s u) : Tells a u :=
  ⟨h.up.trans k.up, h.staged.trans k.staged, k.rest.trans h.rest, k.clamp.trans h.clamp⟩
theorem of_cel (h : Tells a s) (e : u.cel = s.cel) (c : u.pwr.clamp = s.pwr.clamp) : Tells a u :=
  ⟨e ▸ h.up, e ▸ h.staged, e ▸ h.rest, c.trans h.clamp⟩
theorem of_only (h : Tells a s) (k : Only offCel s u) : Tells a u :=
  h.of_cel (k .cel (by decide)) (congrArg Pwr.clamp (k .pwr (by decide) : u.pwr = s.pwr))
theorem upMsg (h : Tells a s) (m : UpMsg) : Tells a (upMsg m s) := ⟨h.up.trans (List.prefix_append _ _), h.staged, h.rest, h.clamp⟩
theorem upEvent (h : Tells a s) (tbl inst code : Nat) (tens : List Nat) (subject detail : Nat) :
    Tells a (upEvent tbl inst code tens subject detail s) := ⟨h.up.trans (List.prefix_append _ _), h.staged, h.rest, h.clamp⟩
theorem stage (h : Tells a s) (o : COut) : Tells a (modCel (fun c => { c with staged := c.staged ++ [o] }) s) :=
  ⟨h.up, h.staged.trans (List.prefix_append _ _), h.rest, h.clamp⟩
theorem if_ok {p : Prop} [Decidable p] {x y : State} (hx : Tells a x) (hy : Tells a y) : Tells a (if p then x else y) := by
  split
  · exact hx
  · exact hy
theorem forS {α : Type} {l : List α} {f : α → State → State} (h : Tells a s) (hf : ∀ q x, Tells a x → Tells a (f q x)) : Tells a (forS l f s) :=
  forS_holds (Tells a) (fun q _ => hf q) h

theorem modPol (h : Tells a s) (f : Pol → Pol) : Tells a (modPol f s) := h.of_cel rfl rfl
theorem modVnl (h : Tells a s) (f : Vnl → Vnl) : Tells a (modVnl f s) := h.of_cel rfl rfl
theorem modRck (h : Tells a s) (f : Rck → Rck) : Tells a (modRck f s) := h.of_cel rfl rfl
theorem modSec (h : Tells a s) (f : Sec → Sec) : Tells a (modSec f s) := h.of_cel rfl rfl
theorem modErr (h : Tells a s) (f : Err → Err) : Tells a (modErr f s) := h.of_cel rfl rfl
theorem csetReset (h : Tells a s) (g : Grp) (obj : Nat) : Tells a (csetReset g obj s) := h.of_cel rfl rfl

theorem abortSweeps (h : Tells a s) : Tells a (abortSweeps s) := h.of_cel rfl rfl

theorem failStep (h : Tells a s) (t n reason : Nat) : Tells a (failStep t n reason s) := by
  unfold Machine.failStep
  split
  · exact h
  · have discarded : Tells a (discard t n reason (tenCoord s t) (noteT t 0x0900 (tenCoord s t) (n + reason * 2 ^ 48) s)) :=
      h.of_only (discard_only _ _ _ _ (by decide) (by decide) (by decide) (by decide) (by decide) (by decide) (by decide) (by decide)
        (by decide) (by decide) (by decide) ((noteT_frame _ _ _ _ s).mono (by decide)))
    exact if_ok ((discarded.stage _).upMsg _) (discarded.stage _)
theorem localFail (h : Tells a s) (t reason : Nat) : Tells a (localFail t reason s) := by
  unfold Machine.localFail
  split
  · exact h.failStep _ _ _
  · exact if_ok h (h.of_cel rfl rfl)
theorem faultOne (h : Tells a s) (src t : Nat) : Tells a (faultOne src t s) := by
  rw [faultOne_eq]
  refine Tells.upMsg (Tells.abortSweeps (h.of_only ?_)) _
  exact ((frostFault_frame s 2).mono (by decide)).trans ((modErr_only _ (by decide) (Only.rfl' _ _)).trans
    ((modTstep_only t _ (by decide) (Only.rfl' _ _)).trans ((abortPasses_frame _).mono (by decide))))
theorem enterHedged (h : Tells a s) (p : Nat) : Tells a (enterHedged p s) := by
  have shut : Tells a (modPort p (fun x => { x with st := .hedged }) s) := h.of_cel rfl rfl
  exact (Tells.upEvent shut 8 p 1 [] p 0).of_only (hsHelloStart_only p (by decide) (by decide) (by decide) (Only.rfl' _ _))
theorem gateShutPort (h : Tells a s) (p reason : Nat) : Tells a (gateShutPort p reason s) := by
  unfold Machine.gateShutPort
  split
  · exact h.of_cel rfl rfl
  · next b k _ =>
    have noted := h.of_only (((modPort_only p (fun x => { x with
        keys := false, adm := none, retry := [], part := [], divPart := [], txCtr := 0, rxCtr := 0,
        diverted := [], credits := [0, 0, 0, 0], reason := reason, residue := some (bindTen s b) }) (by decide) (Only.rfl' _ s)).trans
      ((noteT_frame (bindTen s b) 0x0701 p reason _).mono (by decide))))
    exact if_ok (Tells.of_only (if_ok (noted.enterHedged p) noted)
      (updReady_only b (by decide) (by decide) (by decide) (by decide) (Only.rfl' _ _))) h
theorem closePorts (h : Tells a s) (b reason : Nat) (ps : List Nat) : Tells a (closePorts b reason ps s) := by
  have shut : Tells a (Machine.forS ps (Machine.gateShutPort · reason) s) := h.forS (fun p _ hx => hx.gateShutPort p reason)
  exact (if_ok (shut.faultOne _ _) shut).of_only (checkBuddies_only (by decide) (by decide) (by decide) (by decide) (Only.rfl' _ _))
theorem wiltLeave (h : Tells a s) (kind subject : Nat) : Tells a (wiltLeave kind subject s) := by
  exact if_ok (((h.modPol _).of_only ((record_frame 0x0B08 subject kind _).mono (by decide))).upEvent _ _ _ _ _ _) h
theorem unbind (h : Tells a s) (b : Nat) : Tells a (unbind b s) := by
  unfold Machine.unbind
  exact Tells.modSec (Tells.wiltLeave (Tells.modPol (Tells.modVnl (Tells.modRck (h.closePorts b 0x12 (bindPorts s b)) _) _) _) 0 b) _
theorem teardownRest (h : Tells a s) (t : Nat) : Tells a (teardownRest t s) := by
  have stopped : Only offCel s (dropTrace t (dropRacks t (stopTenant t s))) :=
    dropTrace_only t (by decide) (dropRacks_only t (by decide) (by decide) (by decide)
      (stopTenant_only t (by decide) (by decide) (by decide) (by decide) (by decide) (by decide) (Only.rfl' _ s)))
  have dropped := h.of_only (stopped.trans ((dropHnds_frame
    ((tenHnds (dropTrace t (dropRacks t (stopTenant t s))) t).map Prod.fst) _).mono (by decide)))
  unfold Machine.teardownRest
  refine Tells.modSec ?_ _
  revert dropped
  generalize Machine.forS _ dropHnd _ = x
  intro dropped
  split
  · exact (dropped.unbind _).csetReset _ _
  · exact dropped
theorem teardown (h : Tells a s) (t : Nat) : Tells a (teardown t s) := by
  by_cases bound : tenSt s t = .active ∨ tenSt s t = .quarantine
  · rw [teardown_bound bound]
    exact Tells.teardownRest (h.of_only (setTenRec_only t _ (by decide) (stopRings_only t (by decide)
      (flushLive_only t (by decide) (by decide) (Only.rfl' _ s))))) t
  · rw [teardown_unbound bound]
    exact h

end Tells

/-! ## The owner consumes a fault message (R456, R460) -/

/-- The detail of a FAULT event: class, unit and core. -/
def faultDetail (cls unit core : Nat) : Nat := cls + unit % 256 * 256 + core % 256 * 65536
/-- The tenants reached have failed a step, and the fault is posted, recorded and told on. -/
def faultTold (src cls unit core : Nat) (tens : List Nat) (s : State) : State :=
  upMsg (.event 7 0 0 tens src (faultDetail cls unit core)) (record 0x0C00 src (faultDetail cls unit core)
    (forS tens (fun t => postEvent t 0x0C00 src (faultDetail cls unit core)) (forS tens (fun t => localFail t (faultReason s src cls)) s)))
/-- The reset line of class 3 or 4 is staged once. -/
def faultLined (src cls unit core : Nat) (tens : List Nat) (s : State) : State :=
  if 3 ≤ cls ∧ s.err.resetPend.isSome ∧ s.err.resetOn = none ∧ ¬ s.cel.staged.contains (.resetLine) then
    modErr (fun x => { x with reached := (tens ++ cycleReach s).eraseDups })
      (modCel (fun c => { c with staged := c.staged ++ [.resetLine] }) (faultTold src cls unit core tens s))
  else if s.err.resetPend.isSome ∨ s.err.resetOn.isSome then
    modErr (fun x => { x with reached := x.reached ++ tens.filter (fun t => !memb t x.reached) }) (faultTold src cls unit core tens s)
  else faultTold src cls unit core tens s

section
variable {src cls unit core : Nat} {tens : List Nat} {a s : State}

theorem consumeFault_eq : consumeFault src cls unit core tens s =
    if src = 0x06 then forS (activeTens (faultLined src cls unit core tens s)) teardown (faultLined src cls unit core tens s)
    else faultLined src cls unit core tens s := rfl

theorem Tells.faultTold (h : Tells a s) : Tells a (faultTold src cls unit core tens s) := by
  have failed := h.forS (l := tens) (fun t _ hx => Tells.localFail hx t (faultReason s src cls))
  have posted := failed.forS (l := tens) (fun t _ hx => hx.of_only
    (postEvent_only t 0x0C00 src (faultDetail cls unit core) (by decide) (by decide) (Only.rfl' _ _)))
  exact (posted.of_only ((record_frame 0x0C00 src (faultDetail cls unit core) _).mono (by decide))).upMsg _
theorem Tells.faultLined (h : Tells a s) : Tells a (faultLined src cls unit core tens s) :=
  Tells.if_ok ((h.faultTold.stage .resetLine).modErr _) (Tells.if_ok (h.faultTold.modErr _) h.faultTold)
theorem faultLined_tells : Tells (faultLined src cls unit core tens s) (consumeFault src cls unit core tens s) := by
  rw [consumeFault_eq]
  exact Tells.if_ok ((Tells.refl _).forS (fun t _ hx => hx.teardown t)) (Tells.refl _)

/-- What was told before a fault is consumed stays told. -/
theorem consumeFault_keepsUp {i : Nat} {m : UpMsg} (h : s.cel.up[i]? = some m) : (consumeFault src cls unit core tens s).cel.up[i]? = some m := by
  obtain ⟨rest, more⟩ := ((Tells.refl s).faultLined (src := src) (cls := cls) (unit := unit) (core := core) (tens := tens)).up.trans
    faultLined_tells.up
  rw [← more, List.getElem?_append_left (List.getElem?_eq_some_iff.mp h).1, h]

/-- A fault of class 3 or 4 whose reset is due and not asserted leaves the reset line staged. -/
theorem consumeFault_line (high : 3 ≤ cls) (released : s.err.resetOn = none) (due : s.err.resetPend.isSome = true) :
    .resetLine ∈ (consumeFault src cls unit core tens s).cel.staged := by
  refine faultLined_tells.staged.subset ?_
  by_cases staged : s.cel.staged.contains (.resetLine)
  · exact ((Tells.refl s).faultLined).staged.subset (List.contains_iff_mem.mp staged)
  · unfold faultLined
    rw [if_pos ⟨high, due, released, staged⟩]
    exact List.mem_append_right _ (List.mem_singleton_self _)

end

/-- The oldest message not yet acted on stands where `findIdx?` finds it. -/
theorem find?_of_findIdx? {α : Type} {l : List α} {p : α → Bool} {i : Nat} (h : l.findIdx? p = some i) : l.find? p = l[i]? := by
  rw [List.find?_eq_getElem?_findIdx, (List.findIdx?_eq_some_iff_findIdx_eq.mp h).2]

/-- The message at place `i` is replaced. -/
def upSet (i : Nat) (m : UpMsg) (s : State) : State := modCel (fun x => { x with up := x.up.modify i (fun _ => m) }) s

/-- FAULT_MESSAGE before the freeze marks the oldest message as acted on, and consumes it. -/
theorem exec_faultMessage {s : State} {src cls un c i : Nat} {ts : List Nat} (frost : s.dbg.frost = 0) (owned : s.cel.own ≠ 2)
    (thawed : s.cel.frozen = false) (at_ : s.cel.up.findIdx? freshFault = some i) (msg : s.cel.up[i]? = some (.fault src cls un c ts false)) :
    exec .faultMessage s = .next (consumeFault src cls un c ts (upSet i (.fault src cls un c ts true) s)) := by
  refine (clocked_running frost _).trans (congrArg Host.Outcome.next ((if_pos ⟨owned, by simp [thawed]⟩).trans ?_))
  have oldest : s.cel.up.find? freshFault = some (.fault src cls un c ts false) := (find?_of_findIdx? at_).trans msg
  simp only [actFault, oldest, upSet, modCel, at_, Option.getD_some]

theorem faultMessage_completes {s : State} {src cls un c i : Nat} {ts : List Nat} (frost : s.dbg.frost = 0) (owned : s.cel.own ≠ 2)
    (thawed : s.cel.frozen = false) (at_ : s.cel.up.findIdx? freshFault = some i) (msg : s.cel.up[i]? = some (.fault src cls un c ts false)) :
    Completes .faultMessage s (fun u =>
      u.cel.up[i]? = some (.fault src cls un c ts true) ∧ (∀ j, j < i → u.cel.up[j]? = s.cel.up[j]?) ∧
      (3 ≤ cls → s.err.resetOn = none → s.err.resetPend.isSome = true → .resetLine ∈ u.cel.staged)) := by
  have here := (List.getElem?_eq_some_iff.mp msg).1
  have acted : (upSet i (.fault src cls un c ts true) s).cel.up[i]? = some (.fault src cls un c ts true) := by simp [upSet, msg]
  have before : ∀ j m, j < i → s.cel.up[j]? = some m → (upSet i (.fault src cls un c ts true) s).cel.up[j]? = some m := fun j m hj hm => by
    simp [upSet, show i ≠ j by omega, hm]
  refine ⟨_, exec_faultMessage frost owned thawed at_ msg, consumeFault_keepsUp acted, fun j hj => ?_, fun high released due => ?_⟩
  · have stands : s.cel.up[j]? = some (s.cel.up[j]'(by omega)) := List.getElem?_eq_getElem _
    rw [consumeFault_keepsUp (before j _ hj stands), stands]
  · exact consumeFault_line (s := upSet i (.fault src cls un c ts true) s) high released due

/-! ## The compute complex reset is released (R457) -/

theorem zeroHandle_frame (h : Nat) (s : State) : Only [.mem, .pln] s (zeroHandle h s) := zeroHandle_only h (by decide) (by decide) (Only.rfl' _ s)

/-- The release lowers the fence; its notes, the images it zeroizes and the writes that waited touch nothing else of the error block. -/
theorem complexRelease_err {src : Nat} {s : State} (on : s.err.resetOn = some src) :
    (complexRelease s).err = { s.err with fence := false, resetOn := none, reached := [] } := by
  unfold complexRelease
  rw [on]
  dsimp only
  refine (pump_frame _ .err (by decide)).trans (congrArg (fun e : Err => { e with fence := false, resetOn := none, reached := [] }) ?_)
  refine forS_only (ps := [.out, .hif, .book, .mem, .pln]) _ _ (fun t x hx => ?_)
    (forS_only _ _ (fun t x => noteT_only t 0x0C03 0 src (by decide) (by decide) (by decide)) (Only.rfl' _ s)) .err (by decide)
  exact noteT_only t 0x0C03 0 (src + 256) (by decide) (by decide) (by decide) (forS_only _ _ (fun ck y hy =>
    ite_only hy (zeroHandle_only _ (by decide) (by decide) hy)) hx)

/-! ## Corrected and uncorrectable errors (R461 to R464) -/

/-- A corrected error of a unit is counted, and `l` are the ticks of those within the hour. -/
def ceCounted (n : Nat) (l : List Nat) (s : State) : State :=
  modErr (fun e => { e with ce := Map.upd 0 e.ce n (fun k => satAdd 32 k 1), ceTimes := Map.set [] e.ceTimes n l }) s

/-- Whether or not CE_LIMIT is recorded with it, the error is counted. -/
theorem corrected_cases (n : Nat) (s : State) : ∃ l,
    corrected n s = record 0x0C02 0 n (modErr (fun e => { e with ceAt := Map.put e.ceAt n s.tick }) (ceCounted n l s)) ∨
    corrected n s = ceCounted n l s := ⟨_, ite_eq_or_eq _ _ _⟩
theorem corrected_counts (n : Nat) (s : State) :
    (corrected n s).err.ce = Map.upd 0 s.err.ce n (fun k => satAdd 32 k 1) ∧ (corrected n s).err.ue = s.err.ue := by
  obtain ⟨l, noted | quiet⟩ := corrected_cases n s
  · rw [noted, record_frame _ _ _ _ .err (by decide)]
    exact ⟨rfl, rfl⟩
  · rw [quiet]
    exact ⟨rfl, rfl⟩

/-- SCRUB_UE of a block of T0 or T1 while scrubbing is on. -/
theorem scrubUe_finds {h p b : Nat} {x : Page} {y : Hnd} {s : State} (page : pageRec s h p = some x) (hnd : hndRec s h = some y)
    (on : scrubOn s = true) (tier : x.tier ≠ 2) (block : b < 512) :
    scrubUe h p b s = noteT y.tenant 0x0C01 h (p + b * 2 ^ 32)
      (countUe (pageUnit x) (modPage h p (fun x => { x with poison := addOnce b x.poison }) s)) := by
  simp only [scrubUe, page, hnd]
  exact if_pos ⟨on, tier, block⟩

theorem modPage_found {h p : Nat} {x : Page} {s : State} (page : pageRec s h p = some x) (f : Page → Page) :
    modPage h p f s = modPln (fun y => { y with pages := Map.put y.pages (pageKey h p) (f x) }) s := by simp only [modPage, page]

theorem scrubUe_completes {h p b : Nat} {x : Page} {y : Hnd} {s : State} (clock : nclkOn s = true) (page : pageRec s h p = some x)
    (hnd : hndRec s h = some y) (on : scrubOn s = true) (tier : x.tier ≠ 2) (block : b < 512) :
    Completes (.scrubUe h p b) s (fun u =>
      pageRec u h p = some { x with poison := addOnce b x.poison } ∧
      Map.get 0 u.err.ue (pageUnit x) = satAdd 32 (Map.get 0 s.err.ue (pageUnit x)) 1 ∧ u.pln.hnds = s.pln.hnds ∧
      Only [.pln, .err, .out, .hif, .book] s u) := by
  have noted := noteT_frame y.tenant 0x0C01 h (p + b * 2 ^ 32)
    (countUe (pageUnit x) (modPage h p (fun x => { x with poison := addOnce b x.poison }) s))
  refine ⟨_, (iodClocked_running clock _).trans (congrArg Host.Outcome.next (scrubUe_finds page hnd on tier block)), ?_, ?_, ?_, ?_⟩
  · rw [pageRec, noted .pln (by decide), modPage_found page]
    exact (find_put _ _ _ _).trans (if_pos rfl)
  · rw [noted .err (by decide), modPage_found page]
    simp [countUe]
  · rw [noted .pln (by decide), modPage_found page]
    rfl
  · exact (modErr_only _ (by decide) (modPage_only h p _ (by decide) (Only.rfl' _ s))).trans (noted.mono (by decide))

/-- Settles O33: the oldest message by `consumeFault_keepsUp` and `consumeFault_line`, the release by `complexRelease_err`, the counts by
their own theorems. -/
theorem errorsAreCounted : Obligations.ErrorsAreCounted := by
  refine ⟨fun src cls un c i ts s frost owned thawed at_ msg => faultMessage_completes frost owned thawed at_ msg,
    fun s frost owned none => ?idle, fun src s frost owned mine on => ?release, fun n s clock unit => ?corrected,
    fun acc s opened => congrArg Host.Outcome.next (if_pos opened),
    fun h p b x y s clock page hnd on tier block => scrubUe_completes clock page hnd on tier block,
    fun tier s clock on => (iodClocked_running clock _).trans (congrArg Host.Outcome.next (if_pos on))⟩
  case idle =>
    have still : actFault s = s := by simp only [actFault, none]
    refine (clocked_running frost _).trans (congrArg Host.Outcome.next ?_)
    rw [still, ite_self]
  case release =>
    exact ⟨_, (clocked_running frost _).trans (congrArg Host.Outcome.next (if_neg (not_or.mpr ⟨owned, not_not.mpr mine⟩))), complexRelease_err on⟩
  case corrected =>
    obtain ⟨ce, ue⟩ := corrected_counts n s
    refine ⟨_, (iodClocked_running clock _).trans (congrArg Host.Outcome.next (if_pos unit)), ?_, fun q hq => ?_, ue,
      corrected_only n (by decide) (by decide) (Only.rfl' _ s)⟩
    · rw [ce, get_upd, if_pos rfl]
    · rw [ce, get_upd, if_neg hq]

end Sys2Proof.Machine
end

section
/-!
Stress passes and margin sweeps (R473 to R475, R497 of 12 and 13), stack temperatures, lost stacks, die links and clocks (R136 to R141 of
03, R18, R39 of 01).
-/
namespace Sys2Proof.Machine

/-! ## A core is fenced (R475, R613) -/

/-- The image handle of a slot is zeroized and freed. -/
def imageFreed (c k : Nat) (s : State) : State :=
  if slotValid s c k then modHnd (slotImg s c k) (fun x => { x with reserved := false }) (zeroHandle (slotImg s c k) s) else s
theorem coreRec_imageFreed (c k d : Nat) (s : State) : coreRec (imageFreed c k s) d = coreRec s d := by
  have freed : Only [.mem, .pln] s (imageFreed c k s) :=
    ite_only (modHnd_only _ _ (by decide) ((zeroHandle_frame _ s).mono (by decide))) (Only.rfl' _ s)
  exact coreRec_of_cores (congrArg Cor.cores (freed .cor (by decide))) d
theorem coreRec_zeroContext_other {c d : Nat} (h : d ≠ c) (s : State) : coreRec (zeroContext c s) d = coreRec s d :=
  coreRec_modSlot_other h _ _ _
theorem coreRec_releaseSlot_other {c d : Nat} (h : d ≠ c) (k : Nat) (s : State) : coreRec (releaseSlot c k s) d = coreRec s d := by
  have blank : coreRec (if (coreRec s c).slot = k then zeroContext c (imageFreed c k s) else imageFreed c k s) d = coreRec s d := by
    split
    · rw [coreRec_zeroContext_other h, coreRec_imageFreed]
    · rw [coreRec_imageFreed]
  exact (coreRec_modSlot_other h k _ _).trans blank

/-- The slots of a core are released. -/
def slotsReleased (c : Nat) (s : State) : State := forS ((List.range 8).filter (slotValid s c)) (releaseSlot c) s
/-- The core is fenced, and on the kept list. -/
def fencedOff (c : Nat) (s : State) : State :=
  modBoot (fun b => { b with fences := addOnce c b.fences }) (modCore c (fun x => { x with st := .fenced }) (slotsReleased c s))

theorem fenceCore_told (c : Nat) (s : State) : Only [.out, .hif, .book] (fencedOff c s) (fenceCore c s) := by
  have told : ∀ ts : List Nat, Only [.out, .hif, .book] (fencedOff c s)
      (if ts.isEmpty then record 0x0C05 c 0 (fencedOff c s) else forS ts (fun t => noteT t 0x0C05 c 0) (fencedOff c s)) := fun ts =>
    ite_only ((record_frame _ _ _ _).mono (by decide))
      (forS_only _ _ (fun t x => noteT_only t 0x0C05 c 0 (by decide) (by decide) (by decide)) (Only.rfl' _ _))
  exact told _
theorem slotsReleased_boot (c : Nat) (s : State) : (slotsReleased c s).boot = s.boot :=
  forS_only (ps := [.mem, .grp, .pln, .cor]) _ _ (fun k x => releaseSlot_only c k (by decide) (by decide) (by decide) (by decide))
    (Only.rfl' _ s) .boot (by decide)

theorem fenceCore_fences (c : Nat) (s : State) : (fenceCore c s).boot.fences = addOnce c s.boot.fences := by
  rw [fenceCore_told c s .boot (by decide), fencedOff, modBoot_boot, modCore, modCor_boot, slotsReleased_boot]
theorem fenceCore_err (c : Nat) (s : State) : (fenceCore c s).err = s.err :=
  (fenceCore_told c s .err (by decide)).trans (forS_only (ps := [.mem, .grp, .pln, .cor]) _ _
    (fun k x => releaseSlot_only c k (by decide) (by decide) (by decide) (by decide)) (Only.rfl' _ s) .err (by decide))
/-- Its own core is fenced; the others are untouched. -/
theorem fenceCore_core (c d : Nat) (s : State) :
    (coreRec (fenceCore c s) d).st = if d = c then .fenced else (coreRec s d).st := by
  rw [coreRec_of_cores (congrArg Cor.cores (fenceCore_told c s .cor (by decide)))]
  change (coreRec (modCore c (fun x => { x with st := .fenced }) (slotsReleased c s)) d).st = _
  rw [coreRec_modCore]
  split
  · rfl
  · next other =>
    exact congrArg Core.st (forS_reads (fun x => coreRec x d) (fun k _ x => coreRec_releaseSlot_other other k x) s)

theorem mem_addOnce_iff {x y : Nat} {l : List Nat} : y ∈ addOnce x l ↔ y = x ∨ y ∈ l := by
  unfold addOnce memb
  split
  next listed =>
    have mem : x ∈ l := by simpa using listed
    exact ⟨.inr, fun h => h.elim (fun e => e ▸ mem) id⟩
  next => simp [or_comm]

/-! ## The end of a stress pass (R475) -/

/-- The cores of a die that failed at the corner and at their operating point. -/
def hardFails (corner again : Nat) : List Nat := (List.range 32).filter (fun i => bitOf corner i && bitOf again i)
theorem mem_hardFails {corner again i : Nat} : i ∈ hardFails corner again ↔ i < 32 ∧ bitOf corner i = true ∧ bitOf again i = true := by
  simp [hardFails]

/-- The failures of a pass are recorded, and its hard ones fenced. -/
def passFenced (d corner again : Nat) (s : State) : State :=
  forS (hardFails corner again) (fun i => fenceCore (32 * d + i))
    (passFails (pop32 corner + (hardFails corner again).length) (zeroDieBanks d s))
/-- The pass is over, with its result. -/
def passOver (corner again : Nat) (at_ : Time) (x : Stress) : Stress :=
  { x with
    running := false, testing := false, result := if corner % 2 ^ 32 = 0 then 1 else 2, fails := pop32 corner,
    fenced := (hardFails corner again).length, failmap := corner % 2 ^ 32, doneAt := some at_ }

theorem passDone_ends {d corner again : Nat} {s : State} (running : (stressRec s d).running = true) (testing : (stressRec s d).testing = true) :
    passDone d corner again s = record 0x0C04 (corner % 2 ^ 32) (d + (if corner % 2 ^ 32 = 0 then 1 else 2) * 4)
      (modStress d (passOver corner again (nowT s)) (passFenced d corner again s)) := if_pos ⟨running, testing⟩

theorem passFails_stress (n : Nat) (s : State) : (passFails n s).err.stress = s.err.stress := by
  have noted : (passFails n s).err = (modErr (fun e => { e with checkFail := satAdd 32 e.checkFail n }) s).err :=
    forS_only (ps := [.book]) _ _ (fun _ x => record_only 0x0C06 0 1 (by decide)) (Only.rfl' _ _) .err (by decide)
  rw [noted]
  rfl
theorem stressRec_passFenced (d corner again q : Nat) (s : State) : stressRec (passFenced d corner again s) q = stressRec s q := by
  have banks : (zeroDieBanks d s).err = s.err := zeroDieBanks_only (fr := [.mem]) d (by decide) (Only.rfl' _ s) .err (by decide)
  refine (forS_reads (fun x => stressRec x q) (fun i _ x => stressRec_of_err (fenceCore_err _ x) q) _).trans ?_
  rw [stressRec, passFails_stress, banks, stressRec]
/-- The failures recorded and the banks zeroized leave the kept list. -/
theorem passFails_fences (d n : Nat) (s : State) : (passFails n (zeroDieBanks d s)).boot.fences = s.boot.fences := by
  have noted : (passFails n (zeroDieBanks d s)).boot = (zeroDieBanks d s).boot :=
    forS_only (ps := [.err, .book]) _ _ (fun _ x => record_only 0x0C06 0 1 (by decide)) (modErr_only _ (by decide) (Only.rfl' _ _)) .boot (by decide)
  rw [noted, zeroDieBanks_only (fr := [.mem]) d (by decide) (Only.rfl' _ s) .boot (by decide)]

theorem passFenced_fences {d corner again c : Nat} {s : State} (h : c ∈ (passFenced d corner again s).boot.fences) :
    c ∈ s.boot.fences ∨ ∃ i, i < 32 ∧ c = 32 * d + i ∧ bitOf corner i = true ∧ bitOf again i = true := by
  have all := forS_holds (l := hardFails corner again) (f := fun i => fenceCore (32 * d + i))
    (fun x => ∀ c ∈ x.boot.fences, c ∈ s.boot.fences ∨ ∃ i, i < 32 ∧ c = 32 * d + i ∧ bitOf corner i = true ∧ bitOf again i = true)
    (fun i hi x hx c hc => by
      rw [fenceCore_fences, mem_addOnce_iff] at hc
      obtain rfl | hc := hc
      · obtain ⟨low, soft, hard⟩ := mem_hardFails.mp hi
        exact .inr ⟨i, low, rfl, soft, hard⟩
      · exact hx c hc)
    (s := passFails (pop32 corner + (hardFails corner again).length) (zeroDieBanks d s))
    (fun c hc => .inl (passFails_fences d _ s ▸ hc))
  exact all c h
theorem passFenced_core {d corner again i : Nat} (h : i ∈ hardFails corner again) (s : State) :
    32 * d + i ∈ (passFenced d corner again s).boot.fences ∧ (coreRec (passFenced d corner again s) (32 * d + i)).st = .fenced := by
  refine forS_establishes (fun x => 32 * d + i ∈ x.boot.fences ∧ (coreRec x (32 * d + i)).st = .fenced) h (fun x => ?own)
    (fun j _ x hx => ?keep) _
  case own => exact ⟨by rw [fenceCore_fences]; exact mem_addOnce_iff.mpr (.inl rfl), by rw [fenceCore_core, if_pos rfl]⟩
  case keep =>
    refine ⟨by rw [fenceCore_fences]; exact mem_addOnce_iff.mpr (.inr hx.1), ?_⟩
    rw [fenceCore_core]
    split
    · rfl
    · exact hx.2

theorem stressPassDone_completes {d corner again : Nat} {s : State} (clock : nclkOn s = true) (running : (stressRec s d).running = true)
    (testing : (stressRec s d).testing = true) :
    Completes (.stressPassDone d corner again) s (fun u =>
      (stressRec u d).running = false ∧ (stressRec u d).testing = false ∧
      (stressRec u d).result = (if corner % 2 ^ 32 = 0 then 1 else 2) ∧ (stressRec u d).failmap = corner % 2 ^ 32 ∧
      (stressRec u d).doneAt = some (nowT s) ∧
      (∀ i, i < 32 → bitOf corner i = true → bitOf again i = true →
        (32 * d + i) ∈ u.boot.fences ∧ (coreRec u (32 * d + i)).st = .fenced) ∧
      (∀ c, c ∈ u.boot.fences → c ∈ s.boot.fences ∨ ∃ i, i < 32 ∧ c = 32 * d + i ∧ bitOf corner i = true ∧ bitOf again i = true) ∧
      (∀ q, q ≠ d → stressRec u q = stressRec s q)) := by
  have recorded := record_frame 0x0C04 (corner % 2 ^ 32) (d + (if corner % 2 ^ 32 = 0 then 1 else 2) * 4)
    (modStress d (passOver corner again (nowT s)) (passFenced d corner again s))
  rw [← passDone_ends running testing] at recorded
  have boot : (passDone d corner again s).boot = (passFenced d corner again s).boot := recorded .boot (by decide)
  have cor : (passDone d corner again s).cor = (passFenced d corner again s).cor := recorded .cor (by decide)
  have pass : ∀ q, stressRec (passDone d corner again s) q =
      if q = d then passOver corner again (nowT s) (stressRec s d) else stressRec s q := fun q => by
    rw [stressRec_of_err (recorded .err (by decide)), stressRec_modStress, stressRec_passFenced, stressRec_passFenced]
  have own := pass d
  rw [if_pos rfl] at own
  refine ⟨_, iodClocked_running clock _, congrArg Stress.running own, congrArg Stress.testing own, congrArg Stress.result own,
    congrArg Stress.failmap own, congrArg Stress.doneAt own, fun i low soft hard => ?_, fun c hc => ?_, fun q hq => (pass q).trans (if_neg hq)⟩
  · obtain ⟨listed, st⟩ := passFenced_core (d := d) (mem_hardFails.mpr ⟨low, soft, hard⟩) s
    exact ⟨boot ▸ listed, (congrArg Core.st (coreRec_of_cores (congrArg Cor.cores cor) _)).trans st⟩
  · exact passFenced_fences (boot ▸ hc)

/-! ## The end of a margin sweep (R497) -/

/-- A list by place, as a table from `n` on. -/
theorem find_zipIdx {α : Type} {l : List α} {i : Nat} {x : α} (n : Nat) (h : l[i]? = some x) :
    Map.find ((l.zipIdx n).map (fun e => (e.2, e.1))) (n + i) = some x := by
  induction l generalizing n i with
  | nil => cases h
  | cons y r ih =>
    rw [List.zipIdx_cons, List.map_cons, Map.find]
    cases i with
    | zero =>
      obtain rfl : y = x := by simpa using h
      exact if_pos rfl
    | succ j =>
      rw [if_neg (by omega), show n + (j + 1) = n + 1 + j by omega]
      exact ih (n + 1) h

theorem marginSweepDone_completes {d : Nat} {v : List Nat} {s : State} (clock : nclkOn s = true) (sweeping : (dieP s d).sweeping = true)
    (short : v.length ≤ 25) :
    Completes (.marginSweepDone d v) s (fun u =>
      (dieP u d).sweeping = false ∧ (∀ i x, v[i]? = some x → Map.find (dieP u d).vfail i = some x) ∧
      (∀ q, q ≠ d → dieP u q = dieP s q) ∧ Only [.pwr, .mem] s u) := by
  have banks : Only [.mem] s (zeroDieBanks d s) := zeroDieBanks_only d (by decide) (Only.rfl' _ s)
  refine ⟨_, (iodClocked_running clock _).trans (congrArg Host.Outcome.next (if_pos sweeping)), ?_, fun i x found => ?_, fun q hq => ?_, ?_⟩
  · rw [dieP_modDie, if_pos rfl]
  · rw [dieP_modDie, if_pos rfl, List.take_of_length_le short]
    simpa using find_zipIdx 0 found
  · rw [dieP_modDie, if_neg hq, dieP_of_pwr (banks .pwr (by decide))]
  · exact (banks.mono (by decide)).trans ((modDie_frame _ _ _).mono (by decide))

/-! ## Stacks (R136 to R141) -/

@[simp] theorem stkRec_modStk (k q : Nat) (f : Stk → Stk) (s : State) :
    stkRec (modStk k f s) q = if q = k then f (stkRec s k) else stkRec s q := get_upd ({} : Stk) s.pln.stk k q f

/-- The sample of a stack is kept, with the level it gives (R137). -/
def stackSampled (k temp : Nat) (s : State) : State :=
  let s0 := modPln (fun p => { p with therm := cset s .memTherm 0 0 }) s
  let l := nextLevel (throttlePoints s0) (stkRec s k).level temp
  modStk k (fun y => { y with temp := temp % 256, level := l, thrCnt := if y.level = 0 ∧ l ≠ 0 then satAdd 32 y.thrCnt 1 else y.thrCnt }) s0

theorem stackSampled_frame (k temp : Nat) (s : State) : Only [.pln] s (stackSampled k temp s) :=
  modPln_only _ (by decide) (modPln_only _ (by decide) (Only.rfl' _ s))
theorem stkRec_stackSampled_other {k q : Nat} (hq : q ≠ k) (temp : Nat) (s : State) : stkRec (stackSampled k temp s) q = stkRec s q :=
  (stkRec_modStk k q _ _).trans (if_neg hq)
theorem stkRec_stackSampled_same (k temp : Nat) (s : State) : ∃ n, stkRec (stackSampled k temp s) k = { stkRec s k with
    temp := temp % 256, thrCnt := n,
    level := nextLevel (throttlePoints (modPln (fun p => { p with therm := cset s .memTherm 0 0 }) s)) (stkRec s k).level temp } :=
  ⟨_, (stkRec_modStk k k _ _).trans (if_pos rfl)⟩

/-- STACK_TEMP_SAMPLE of a stack that is present. -/
theorem exec_stackTempSample {k temp : Nat} {s : State} (present : (stkRec s k).st ≠ 0) (clock : nclkOn s = true) :
    exec (.stackTempSample k temp) s = .next (
      if (stkRec s k).st = 1 ∧ 105 ≤ temp then tripStack k (stackSampled k temp s)
      else if (stkRec s k).st = 3 ∧ (stkRec s k).resetSince ∧ s.err.resetOn = none ∧ temp + 10 ≤ fldW (cset s .memTherm 0 0) 6 0 then
        modStk k (fun y => { y with st := 1 }) (stackSampled k temp s)
      else stackSampled k temp s) := congrArg Host.Outcome.next (if_pos ⟨present, clock⟩)

theorem stackTempSample_below {k temp : Nat} {s : State} (present : (stkRec s k).st ≠ 0) (clock : nclkOn s = true) (below : temp < 105) :
    Completes (.stackTempSample k temp) s (fun u =>
      (stkRec u k).temp = temp ∧
      (stkRec u k).st = (if (stkRec s k).st = 3 ∧ (stkRec s k).resetSince = true ∧ s.err.resetOn = none ∧
        temp + 10 ≤ fldW (cset s .memTherm 0 0) 6 0 then 1 else (stkRec s k).st) ∧
      (stkRec u k).level = nextLevel (throttlePoints (modPln (fun p => { p with therm := cset s .memTherm 0 0 }) s)) (stkRec s k).level temp ∧
      (∀ q, q ≠ k → stkRec u q = stkRec s q) ∧ Only [.pln] s u) := by
  obtain ⟨n, own⟩ := stkRec_stackSampled_same k temp s
  have small : temp % 256 = temp := Nat.mod_eq_of_lt (by omega)
  have cool : ¬ ((stkRec s k).st = 1 ∧ 105 ≤ temp) := by omega
  refine ⟨_, exec_stackTempSample present clock, ?_⟩
  rw [if_neg cool]
  split
  next returns =>
    refine ⟨?_, ?_, ?_, fun q hq => ?_, modPln_only _ (by decide) (stackSampled_frame k temp s)⟩
    · rw [stkRec_modStk, if_pos rfl, own, small]
    · rw [stkRec_modStk, if_pos rfl]
    · rw [stkRec_modStk, if_pos rfl, own]
    · rw [stkRec_modStk, if_neg hq, stkRec_stackSampled_other hq]
  next stays =>
    refine ⟨by rw [own, small], by rw [own], by rw [own], fun q hq => stkRec_stackSampled_other hq temp s, stackSampled_frame k temp s⟩

/-- The stack is marked as tripped and its moves go. -/
def tripMarked (k : Nat) (s : State) : State :=
  dropStackMoves k (modStk k (fun x => { x with st := 3, tripCnt := satAdd 32 x.tripCnt 1, resetSince := s.err.resetOn.isSome }) s)
theorem dropStackMoves_frame (k : Nat) (s : State) : Only [.pln] s (dropStackMoves k s) := dropStackMoves_only k (by decide) (Only.rfl' _ s)
theorem stkRec_dropStackMoves (k q : Nat) (s : State) : stkRec (dropStackMoves k s) q = stkRec s q :=
  stkRec_of_stkPart (stkPart_dropStackMoves k s) q

theorem stackTempSample_trips {k temp : Nat} {s : State} (inService : (stkRec s k).st = 1) (clock : nclkOn s = true) (hot : 105 ≤ temp) :
    Completes (.stackTempSample k temp) s (fun u =>
      (stkRec u k).st = 3 ∧ (stkRec u k).tripCnt = satAdd 32 (stkRec s k).tripCnt 1 ∧ u.err.fence = true ∧
      (∃ ts, u.cel.up = s.cel.up ++ [.fault 0x0A 3 k 0xFF ts false]) ∧ (∀ q, q ≠ k → stkRec u q = stkRec s q)) := by
  obtain ⟨n, own⟩ := stkRec_stackSampled_same k temp s
  have fault := faultAll_fences (src := 0x0A) (unit := k) (cls := 3) rfl le_rfl (tripMarked k (stackSampled k temp s))
  have cel : (tripMarked k (stackSampled k temp s)).cel = s.cel :=
    (dropStackMoves_frame k _ .cel (by decide)).trans (stackSampled_frame k temp s .cel (by decide))
  have stk : ∀ q, stkRec (faultAll 0x0A k 0xFF (tripMarked k (stackSampled k temp s))) q =
      if q = k then { stkRec (stackSampled k temp s) k with
        st := 3, tripCnt := satAdd 32 (stkRec (stackSampled k temp s) k).tripCnt 1, resetSince := (stackSampled k temp s).err.resetOn.isSome }
      else stkRec (stackSampled k temp s) q := fun q => by
    rw [stkRec_of_stkPart fault.stks, tripMarked, stkRec_dropStackMoves, stkRec_modStk]
  have tripped := stk k
  rw [if_pos rfl, own] at tripped
  refine ⟨_, (exec_stackTempSample (by rw [inService]; decide) clock).trans (congrArg Host.Outcome.next (if_pos ⟨inService, hot⟩)),
    congrArg Stk.st tripped, congrArg Stk.tripCnt tripped, fault.fence, ⟨_, fault.up.trans (by rw [cel])⟩, fun q hq => ?_⟩
  rw [show tripStack k (stackSampled k temp s) = faultAll 0x0A k 0xFF (tripMarked k (stackSampled k temp s)) from rfl, stk, if_neg hq,
    stkRec_stackSampled_other hq]

/-! ## Lost stacks, die links and clocks (R18, R39, R140) -/

theorem loseStack_frame (k : Nat) (s : State) : Only [.pln] s (loseStack k s) :=
  (modPln_only _ (by decide) (Only.rfl' _ s)).trans (dropStackMoves_frame k _)
theorem stkRec_loseStack (k q : Nat) (s : State) : stkRec (loseStack k s) q = if q = k then { stkRec s k with st := 2 } else stkRec s q := by
  rw [loseStack, stkRec_dropStackMoves, stkRec_modStk]
theorem stkRec_setRetire (cause unit q : Nat) (s : State) : stkRec (setRetire cause unit s) q = stkRec s q := rfl
theorem setRetire_frame (cause unit : Nat) (s : State) : Only [.pln] s (setRetire cause unit s) := modPln_only _ (by decide) (Only.rfl' _ s)
/-- MEM_RETIRE is valid once it has been set. -/
theorem setRetire_valid {cause : Nat} (h : cause < 256) (unit : Nat) (s : State) : bitW (setRetire cause unit s).pln.retire 31 = true := by
  simp only [setRetire, modPln_pln]
  split
  next valid => exact valid
  next =>
    simp only [bitW, bitOf, wordOf, BitVec.toNat_ofNat, decide_eq_true_eq]
    omega

/-- A module fault that retires the module runs the fault path of class 4. -/
theorem retired_fences {src cause unit unit' : Nat} {s x : State} (hc : faultClass src = 4) (low : cause < 256) (cel : x.cel = s.cel) :
    bitW (faultAll src unit 0xFF (setRetire cause unit' x)).pln.retire 31 = true ∧ (faultAll src unit 0xFF (setRetire cause unit' x)).err.fence = true ∧
    (∃ ts, (faultAll src unit 0xFF (setRetire cause unit' x)).cel.up = s.cel.up ++ [.fault src 4 unit 0xFF ts false]) ∧
    (∀ q, stkRec (faultAll src unit 0xFF (setRetire cause unit' x)) q = stkRec x q) := by
  have fault := faultAll_fences (unit := unit) hc (by decide) (setRetire cause unit' x)
  have told : (setRetire cause unit' x).cel.up = s.cel.up := congrArg Cel.up ((setRetire_frame cause unit' x .cel (by decide)).trans cel)
  have retire : (faultAll src unit 0xFF (setRetire cause unit' x)).pln.retire = (setRetire cause unit' x).pln.retire := congrArg Prod.snd fault.stks
  exact ⟨by rw [retire]; exact setRetire_valid low unit' x, fault.fence, ⟨_, told ▸ fault.up⟩,
    fun q => (stkRec_of_stkPart fault.stks q).trans (stkRec_setRetire cause unit' q x)⟩

theorem stackLost_completes {k : Nat} {s : State} (here : k < numStacks s) :
    Completes (.stackLost k) s (fun u =>
      (stkRec u k).st = 2 ∧ bitW u.pln.retire 31 = true ∧ u.err.fence = true ∧
      (∃ ts, u.cel.up = s.cel.up ++ [.fault 0x11 4 k 0xFF ts false]) ∧ (∀ q, q ≠ k → stkRec u q = stkRec s q)) := by
  obtain ⟨valid, fence, told, stk⟩ := retired_fences (src := 0x11) (cause := 1) (unit := k) (unit' := k) rfl (by decide)
    (loseStack_frame k s .cel (by decide))
  refine ⟨_, congrArg Host.Outcome.next (if_pos here), ?_, valid, fence, told, fun q hq => ?_⟩
  · rw [stk, stkRec_loseStack, if_pos rfl]
  · rw [stk, stkRec_loseStack, if_neg hq]

theorem ucieLaneLost_completes {d : Nat} {s : State} (here : d < numDies s) :
    Completes (.ucieLaneLost d) s (fun u =>
      (stkRec u (2 * d)).st = 2 ∧ (stkRec u (2 * d + 1)).st = 2 ∧ bitW u.pln.retire 31 = true ∧ u.err.fence = true ∧
      (∃ ts, u.cel.up = s.cel.up ++ [.fault 0x11 4 (2 * d) 0xFF ts false])) := by
  obtain ⟨valid, fence, told, stk⟩ := retired_fences (src := 0x11) (cause := 2) (unit := 2 * d) (unit' := d)
    (x := loseStack (2 * d + 1) (loseStack (2 * d) s)) rfl (by decide)
    ((loseStack_frame (2 * d + 1) _ .cel (by decide)).trans (loseStack_frame (2 * d) s .cel (by decide)))
  refine ⟨_, congrArg Host.Outcome.next (if_pos here), ?_, ?_, valid, fence, told⟩
  · rw [stk, stkRec_loseStack, if_neg (by omega), stkRec_loseStack, if_pos rfl]
  · rw [stk, stkRec_loseStack, if_pos rfl]

theorem refclkLost_completes {s : State} (fed : s.cor.refLost = false) :
    Completes .refclkLost s (fun u =>
      u.cor.refLost = true ∧ u.err.fence = true ∧ ∃ ts, u.cel.up = s.cel.up ++ [.fault 0x0C 3 0x13 0xFF ts false]) := by
  have fault := faultAll_fences (src := 0x0C) (unit := 0x13) (cls := 3) rfl le_rfl (modCor (fun c => { c with refLost := true }) s)
  exact ⟨_, congrArg Host.Outcome.next (if_neg (by simp [fed])), fault.refLost, fault.fence, _, fault.up⟩

/-- Settles O34: passes and sweeps by their own theorems; a tripped stack, a lost stack, die link or clock is a fault of class 3 or 4
(`faultAll_fences`), which leaves the stacks as they were marked. -/
theorem stressAndStacks : Obligations.StressAndStacks := by
  refine ⟨fun d s clock running => ?heat, fun d corner again s clock running testing => stressPassDone_completes clock running testing,
    fun d v s clock sweeping short => marginSweepDone_completes clock sweeping short,
    fun k temp s present clock below => stackTempSample_below present clock below,
    fun k temp s inService clock hot => stackTempSample_trips inService clock hot, fun k s here => stackLost_completes here,
    fun d s here => ucieLaneLost_completes here, fun s fed => refclkLost_completes fed,
    fun s lost => congrArg Host.Outcome.next (if_pos lost)⟩
  case heat =>
    refine ⟨_, (iodClocked_running clock _).trans (congrArg Host.Outcome.next (if_pos running)), ?_, fun q hq => ?_,
      modErr_only _ (by decide) (Only.rfl' _ s)⟩
    · rw [stressRec_modStress, if_pos rfl]
    · rw [stressRec_modStress, if_neg hq]

end Sys2Proof.Machine
end

section
/-!
The time base's sources, slews, pulses and stamps, and its triggers (R514 to R538 of 14).
-/
namespace Sys2Proof.Machine

/-! ## Holdover follows the locks (R522, R523) -/

theorem modTim_frame (f : Tim → Tim) (s : State) : Only [.tim] s (modTim f s) := modTim_only f (by decide) (Only.rfl' _ s)

/-- Holdover stands exactly while a source has been locked and none is. -/
theorem checkHold_holdover (s : State) :
    (checkHold s).tim.holdover = (s.tim.everLocked && !s.tim.tpinLock && !s.tim.ntpLock) := by
  unfold checkHold
  dsimp only
  split
  next h => exact h.symm
  next h => exact congrArg Tim.holdover (noteAll_frame _ _ _ _ .tim (by decide))

/-- Beside holdover's own fields the check leaves the time base. -/
theorem checkHold_tim (s : State) : ∃ h k u b,
    (checkHold s).tim = { s.tim with holdover := h, holdAt := k, holdUnc := u, backOffset := b } := by
  unfold checkHold
  dsimp only
  split
  next h => exact ⟨_, _, _, _, rfl⟩
  next h => exact ⟨_, _, _, _, noteAll_frame _ _ _ _ .tim (by decide)⟩
theorem checkHold_frame (s : State) : Only [.tim, .hif, .out, .book] s (checkHold s) :=
  checkHold_only (by decide) (by decide) (by decide) (by decide) (Only.rfl' _ s)

theorem checkHold_tpinLock (s : State) : (checkHold s).tim.tpinLock = s.tim.tpinLock := by
  obtain ⟨h, k, u, b, e⟩ := checkHold_tim s
  rw [e]
theorem checkHold_ntpLock (s : State) : (checkHold s).tim.ntpLock = s.tim.ntpLock := by
  obtain ⟨h, k, u, b, e⟩ := checkHold_tim s
  rw [e]

/-! ## A slew's end (R518) -/

/-- A number of units below the seconds' range is the number of its parts. -/
theorem units_parts {n : Nat} (h : n < 2 ^ 64 * 10 ^ 9 * 2 ^ 32) :
    (n / 2 ^ 32 / 1000000000 % 2 ^ 64 * 1000000000 + n / 2 ^ 32 % 1000000000) * 2 ^ 32 + n % 2 ^ 32 = n := by
  omega

/-- An offset that keeps the time base in its range is added whole. -/
theorem addTime_timeUnits {d : Int} {s : State} (low : 0 ≤ (timeUnits s : Int) + d)
    (high : (timeUnits s : Int) + d < 2 ^ 64 * 10 ^ 9 * 2 ^ 32) : (timeUnits (addTime d s) : Int) = timeUnits s + d := by
  obtain ⟨n, sum⟩ := Int.eq_ofNat_of_zero_le low
  have parts := units_parts (n := n) (by omega)
  rw [sum, timeUnits, addTime_tim sum]
  exact_mod_cast parts

theorem exec_slewDone {s : State} (clock : nclkOn s = true) (slewing : s.tim.slew ≠ 0)
    (low : 0 ≤ (timeUnits s : Int) + s.tim.slew) (high : (timeUnits s : Int) + s.tim.slew < 2 ^ 64 * 10 ^ 9 * 2 ^ 32) :
    Completes .slewDone s (fun t => t.tim.slew = 0 ∧ (timeUnits t : Int) = timeUnits s + s.tim.slew ∧ Only [.tim] s t) :=
  ⟨_, (iodClocked_running clock _).trans (congrArg Host.Outcome.next (if_neg slewing)), rfl,
    addTime_timeUnits (s := modTim (fun x => { x with slew := 0 }) s) low high,
    (modTim_frame _ s).trans ((addTime_only _ (by decide) (Only.rfl' _ _)).trans (modTim_frame _ _))⟩

/-! ## The edges of TP_IN (R519, R520) -/

/-- An edge captured, before it is judged. -/
def edgeCaptured (s : State) : State := modTim (fun x => { x with capture := nowT s, edge := some (nowT s) }) s

/-- An edge judged with `n` good ones in a row: the third sets the lock. -/
def edgeJudged (n : Nat) (s : State) : State :=
  checkHold (modTim (fun x => { x with
    good := n, miss := if n = 0 then x.miss else 0, tpinLock := x.tpinLock || decide (3 ≤ n),
    everLocked := x.everLocked || decide (3 ≤ n) }) (edgeCaptured s))

theorem edgeCaptured_frame (s : State) : Only [.tim] s (edgeCaptured s) := modTim_frame _ s
theorem edgeJudged_tim (n : Nat) (s : State) :
    (edgeJudged n s).tim.capture = nowT s ∧ (edgeJudged n s).tim.edge = some (nowT s) ∧
      (edgeJudged n s).tim.tpinLock = (s.tim.tpinLock || decide (3 ≤ n)) := by
  obtain ⟨h, k, u, b, e⟩ := checkHold_tim (modTim (fun x => { x with
    good := n, miss := if n = 0 then x.miss else 0, tpinLock := x.tpinLock || decide (3 ≤ n),
    everLocked := x.everLocked || decide (3 ≤ n) }) (edgeCaptured s))
  rw [edgeJudged, e]
  exact ⟨rfl, rfl, rfl⟩
theorem edgeJudged_frame (n : Nat) (s : State) : Only [.tim, .hif, .out, .book] s (edgeJudged n s) :=
  ((edgeCaptured_frame s).trans (modTim_frame _ _)).mono (by decide) |>.trans (checkHold_frame _)

/-- Whether an edge follows the one before it by a second, within the tolerance. -/
def edgeGood (s : State) : Bool :=
  match s.tim.edge with
  | some e => decide ((((nowT s).total : Int) - e.total - 1000000000).natAbs ≤ fldW (timSrc s) 15 8 * 1000)
  | none => false

theorem tpEdge_off {width : Nat} {s : State} (wide : 1000 ≤ width) (off : bitW (timSrc s) 31 = false) :
    tpEdge width s = edgeCaptured s := by
  simp [tpEdge, Nat.not_lt.mpr wide, off, edgeCaptured]
theorem tpEdge_on {width : Nat} {s : State} (wide : 1000 ≤ width) (on : bitW (timSrc s) 31 = true) :
    tpEdge width s = edgeJudged (if edgeGood s then s.tim.good + 1 else 0) s := by
  have judged : tpEdge width s = checkHold (modTim (fun x => { x with
      good := if edgeGood s then s.tim.good + 1 else 0, miss := if edgeGood s then 0 else x.miss,
      tpinLock := x.tpinLock || decide (3 ≤ if edgeGood s then s.tim.good + 1 else 0),
      everLocked := x.everLocked || decide (3 ≤ if edgeGood s then s.tim.good + 1 else 0) }) (edgeCaptured s)) := by
    rw [tpEdge, if_neg (Nat.not_lt.mpr wide)]
    exact if_pos on
  rw [judged, edgeJudged]
  cases edgeGood s <;> rfl

theorem exec_tpInEdge {width : Nat} {s : State} (clock : nclkOn s = true) (wide : 1000 ≤ width) :
    Completes (.tpInEdge width) s (fun t =>
      t.tim.capture = nowT s ∧ t.tim.edge = some (nowT s) ∧
      (∀ e, bitW (timSrc s) 31 = true → s.tim.edge = some e → 2 ≤ s.tim.good →
        (((nowT s).total : Int) - e.total - 10 ^ 9).natAbs ≤ fldW (timSrc s) 15 8 * 1000 → t.tim.tpinLock = true) ∧
      Only [.tim, .hif, .out, .book] s t) := by
  have runs : exec (.tpInEdge width) s = .next (tpEdge width s) := iodClocked_running clock _
  cases on : bitW (timSrc s) 31 with
  | false =>
    rw [tpEdge_off wide on] at runs
    exact ⟨_, runs, rfl, rfl, fun _ h => absurd h (by decide), (edgeCaptured_frame s).mono (by decide)⟩
  | true =>
    rw [tpEdge_on wide on] at runs
    obtain ⟨capture, edge, lock⟩ := edgeJudged_tim (if edgeGood s then s.tim.good + 1 else 0) s
    refine ⟨_, runs, capture, edge, fun e _ before goods near => ?_, edgeJudged_frame _ s⟩
    have good : edgeGood s = true := by
      rw [edgeGood, before]
      exact decide_eq_true near
    have third : 3 ≤ s.tim.good + 1 := by omega
    rw [lock, good, if_pos rfl, decide_eq_true third, Bool.or_true]

/-- A second missed, before its second in a row is judged. -/
def secondMissed (s : State) : State :=
  modTim (fun x => { x with good := 0, miss := x.miss + 1, tpinMiss := satAdd 32 x.tpinMiss 1 }) s
/-- The lock lost, with its record. -/
def tpinLost (s : State) : State := checkHold (record 0x0E04 0 0 (modTim (fun x => { x with tpinLock := false }) s))

theorem tpinLost_tim (s : State) : ∃ h k u b,
    (tpinLost s).tim = { s.tim with tpinLock := false, holdover := h, holdAt := k, holdUnc := u, backOffset := b } := by
  obtain ⟨h, k, u, b, e⟩ := checkHold_tim (record 0x0E04 0 0 (modTim (fun x => { x with tpinLock := false }) s))
  refine ⟨h, k, u, b, e.trans ?_⟩
  rw [record_frame _ _ _ _ .tim (by decide)]
  rfl
theorem tpinLost_frame (s : State) : Only [.tim, .hif, .out, .book] s (tpinLost s) :=
  (((modTim_frame _ s).mono (by decide)).trans ((record_frame _ _ _ _).mono (by decide))).trans (checkHold_frame _)

theorem exec_tpinMiss {s : State} (clock : nclkOn s = true) (on : bitW (timSrc s) 31 = true) :
    exec .tpinMiss s =
      .next (if 2 ≤ s.tim.miss + 1 ∧ s.tim.tpinLock = true then tpinLost (secondMissed s) else secondMissed s) :=
  (iodClocked_running clock _).trans (congrArg Host.Outcome.next (if_pos on))

theorem tpinMiss_counts {s : State} (clock : nclkOn s = true) (on : bitW (timSrc s) 31 = true) :
    Completes .tpinMiss s (fun t =>
      t.tim.tpinMiss = satAdd 32 s.tim.tpinMiss 1 ∧ t.tim.good = 0 ∧ (1 ≤ s.tim.miss → t.tim.tpinLock = false) ∧
      (s.tim.miss = 0 → t.tim.tpinLock = s.tim.tpinLock) ∧ Only [.tim, .hif, .out, .book] s t) := by
  have missed : Only [.tim, .hif, .out, .book] s (secondMissed s) := (modTim_frame _ s).mono (by decide)
  refine ⟨_, exec_tpinMiss clock on, ?_⟩
  by_cases lost : 2 ≤ s.tim.miss + 1 ∧ s.tim.tpinLock = true
  · rw [if_pos lost]
    obtain ⟨h, k, u, b, e⟩ := tpinLost_tim (secondMissed s)
    refine ⟨by rw [e]; rfl, by rw [e]; rfl, fun _ => by rw [e], fun first => ?_, missed.trans (tpinLost_frame _)⟩
    omega
  · rw [if_neg lost]
    refine ⟨rfl, rfl, fun second => ?_, fun _ => rfl, missed⟩
    have unlocked : ¬ s.tim.tpinLock = true := fun locked => lost ⟨by omega, locked⟩
    exact Bool.eq_false_of_not_eq_true unlocked

/-! ## The NTP lock (R521) -/

theorem ntpOk_locks {acc : Acc} {s : State} (opened : blockOpen s acc 14 = true) :
    Completes (.timNtpOk acc) s (fun t => t.tim.ntpLock = true ∧ t.tim.tpinLock = s.tim.tpinLock ∧ t.tim.holdover = false ∧
      Only [.tim, .hif, .out, .book] s t) :=
  ⟨_, congrArg Host.Outcome.next (if_pos opened), checkHold_ntpLock _, checkHold_tpinLock _,
    (checkHold_holdover _).trans (Bool.and_false _), ((modTim_frame _ s).mono (by decide)).trans (checkHold_frame _)⟩

theorem ntpTimeout_unlocks {s : State} (clock : nclkOn s = true) :
    Completes .ntpTimeout s (fun t => t.tim.ntpLock = false ∧
      t.tim.holdover = (s.tim.everLocked && !s.tim.tpinLock) ∧ Only [.tim, .hif, .out, .book] s t) :=
  ⟨_, iodClocked_running clock _, checkHold_ntpLock _, (checkHold_holdover _).trans (Bool.and_true _),
    ((modTim_frame _ s).mono (by decide)).trans (checkHold_frame _)⟩

/-! ## Triggers: their records -/

theorem trigRec_of_tim {s u : State} (h : u.tim = s.tim) (k : Nat) : trigRec u k = trigRec s k := by rw [trigRec, h, trigRec]
@[simp] theorem trigRec_modTrig (k q : Nat) (f : Trig → Trig) (s : State) :
    trigRec (modTrig k f s) q = if q = k then f (trigRec s k) else trigRec s q := get_upd (α := Trig) {} s.tim.trigs k q f
theorem modTrig_frame (k : Nat) (f : Trig → Trig) (s : State) : Only [.tim] s (modTrig k f s) := modTrig_only k f (by decide) (Only.rfl' _ s)

/-! ## TRIG_ARM (R535 to R537) -/

/-- The trigger a descriptor arms, attached to `st`. -/
def armedTrig (t : Nat) (st : Option Nat) (d : List Byte) : Trig where
  st := if st.isSome then 1 else 2
  mode := bitsOf (fieldAt d 32 1) 3 0
  tenant := t
  target := ⟨fieldAt d 16 8, fieldAt d 24 4⟩
  period := fieldAt d 28 4
  posts := (d.drop 40).take 6
  step := st
  gate := if bitsOf (fieldAt d 32 1) 3 0 = 1 then some (fieldAt d 34 6) else none
  arg := fieldAt d 33 1 % 4

/-- The first free trigger of a tenant's is the lowest. -/
theorem freeTrig_lowest {s : State} {k : Nat} (low : 8 ≤ k) (high : k < 64) (free : (trigRec s k).st = 0)
    (lowest : ∀ j, 8 ≤ j → j < k → (trigRec s j).st ≠ 0) :
    (List.range 64).find? (fun k => decide (8 ≤ k) && decide ((trigRec s k).st = 0)) = some k := by
  refine List.find?_range_eq_some.mpr ⟨by simp [low, free], List.mem_range.mpr high, fun j below => ?_⟩
  by_cases own : 8 ≤ j
  · simp [lowest j own below]
  · simp [own]

theorem armFault_of {s u : State} (tim : u.tim = s.tim) (stp : u.stp = s.stp) (t : Nat) (st : Option Nat) (d : List Byte) :
    armFault u t st d = armFault s t st d := by
  unfold armFault tenTrigs trigRec tstep
  rw [tim, stp]

/-- What TRIG_ARM does once its descriptor runs. -/
def startTrig (tag : Nat) (s : State) : State :=
  match liveRec s tag with
  | none => s
  | some l =>
    match armFault s (liveTen l) l.step l.desc with
    | some f => done tag f.1 f.2 0 s
    | none =>
      match (List.range 64).find? (fun k => decide (8 ≤ k) && decide ((trigRec s k).st = 0)) with
      | none => done tag 0x0800 0 0 s
      | some k => done tag stOK 0 k (modTrig k (fun _ => armedTrig (liveTen l) l.step l.desc) s)

section
variable {s : State} {tag k : Nat} {l : Live} {st : Option Nat}

/-- A trigger armed by the descriptor that runs under the tag. -/
theorem startTrig_arms (live : liveRec s tag = some l) (ok : armFault s (liveTen l) l.step l.desc = none)
    (low : 8 ≤ k) (high : k < 64) (free : (trigRec s k).st = 0) (lowest : ∀ j, 8 ≤ j → j < k → (trigRec s j).st ≠ 0) :
    startTrig tag s = done tag stOK 0 k (modTrig k (fun _ => armedTrig (liveTen l) l.step l.desc) s) := by
  simp only [startTrig, live, ok, freeTrig_lowest low high free lowest]

theorem exec_trigArm (h : Starts s tag 0x70 l st) (ok : armFault s (liveTen l) st l.desc = none)
    (low : 8 ≤ k) (high : k < 64) (free : (trigRec s k).st = 0) (lowest : ∀ j, 8 ≤ j → j < k → (trigRec s j).st ≠ 0) :
    exec (.trigArm tag) s = .next (done tag 0 0 k
      (modTrig k (fun _ => armedTrig (liveTen l) st l.desc) (modLive tag (Live.started st) s))) := by
  have recs := trigRec_of_tim (modLive_tim tag (Live.started st) s)
  have starts : exec (.trigArm tag) s = .next (startTrig tag (modLive tag (Live.started st) s)) :=
    congrArg Host.Outcome.next (startDesc_go h (startTrig tag))
  refine starts.trans (congrArg _ (startTrig_arms h.mayEnd.live ?_ low high ?_ fun j own below => ?_))
  · exact (armFault_of (modLive_tim _ _ _) (modLive_stp _ _ _) _ _ _).trans ok
  · exact (congrArg Trig.st (recs k)).trans free
  · exact (recs j).symm ▸ lowest j own below

theorem trigArm_arms (h : Starts s tag 0x70 l st) (ok : armFault s (liveTen l) st l.desc = none)
    (low : 8 ≤ k) (high : k < 64) (free : (trigRec s k).st = 0) (lowest : ∀ j, 8 ≤ j → j < k → (trigRec s j).st ≠ 0) :
    Completes (.trigArm tag) s (fun t => trigRec t k = armedTrig (liveTen l) st l.desc ∧ (∀ j, j ≠ k → trigRec t j = trigRec s j) ∧
      Ended t tag st 0 0 k ∧ Only [.tim, .hif, .out, .mem, .pln, .rck] s t) := by
  have armed := h.mayEnd.of_only (modTrig_frame k (fun _ => armedTrig (liveTen l) st l.desc) _) (by decide) (by decide)
  have recs := trigRec_of_tim (armed.done_frame 0 0 k .tim (by decide))
  refine ⟨_, exec_trigArm h ok low high free lowest, ?_, fun j other => ?_, (armed.endsWith (Only.rfl' _ _) 0 0 k).1, ?_⟩
  · rw [recs, trigRec_modTrig, if_pos rfl]
  · rw [recs, trigRec_modTrig, if_neg other]
    exact trigRec_of_tim (modLive_tim _ _ _) j
  · exact (((modLive_frame _ _ s).mono (by decide)).trans ((modTrig_frame k _ _).mono (by decide))).trans
      ((armed.done_frame 0 0 k).mono (by decide))

end

/-! ## TRIG_CANCEL (R537, R538) -/

/-- What TRIG_CANCEL does once its descriptor runs. -/
def endTrig (tag : Nat) (s : State) : State :=
  match liveRec s tag with
  | none => s
  | some l =>
    match cancelSees s (liveTen l) (fieldAt l.desc 16 1 % 64) with
    | none => done tag 0x0801 0 0 s
    | some b =>
      if l.step.isSome then done tag stOK 0 0 s
      else wakeOpens (liveTen l) (done tag stOK 0 (b2n b) (modTrig (fieldAt l.desc 16 1 % 64) (fun _ => {}) s))

section
variable {s : State} {tag k : Nat} {l : Live}

theorem cancelSees_held {t : Nat} (low : 8 ≤ k) (mine : (trigRec s k).tenant = t) (held : (trigRec s k).st ≠ 0) :
    cancelSees s t k = some (decide ((trigRec s k).st = 3) && decide ((trigRec s k).period = 0)) := by
  simp [cancelSees, Nat.not_lt.mpr low, mine, held]

theorem exec_trigCancel {st : Option Nat} (h : Starts s tag 0x71 l st) :
    exec (.trigCancel tag) s = .next (endTrig tag (modLive tag (Live.started st) s)) :=
  congrArg Host.Outcome.next (startDesc_go h (endTrig tag))

/-- A cancel that finds the trigger held: at once when unattached, else at its draw. -/
theorem endTrig_held (live : liveRec s tag = some l) (named : k = fieldAt l.desc 16 1 % 64)
    (low : 8 ≤ k) (mine : (trigRec s k).tenant = liveTen l) (held : (trigRec s k).st ≠ 0) :
    endTrig tag s = if l.step.isSome then done tag 0 0 0 s
      else wakeOpens (liveTen l) (done tag 0 0 (b2n (decide ((trigRec s k).st = 3) && decide ((trigRec s k).period = 0)))
        (modTrig k (fun _ => {}) s)) := by
  subst named
  simp only [endTrig, live, cancelSees_held low mine held]
  rfl

theorem exec_trigCancel_held {st : Option Nat} (h : Starts s tag 0x71 l st) (named : k = fieldAt l.desc 16 1 % 64)
    (low : 8 ≤ k) (mine : (trigRec s k).tenant = liveTen l) (held : (trigRec s k).st ≠ 0) :
    exec (.trigCancel tag) s = .next (if st.isSome then done tag 0 0 0 (modLive tag (Live.started st) s)
      else wakeOpens (liveTen l) (done tag 0 0 (b2n (decide ((trigRec s k).st = 3) && decide ((trigRec s k).period = 0)))
        (modTrig k (fun _ => {}) (modLive tag (Live.started st) s)))) := by
  have recs := trigRec_of_tim (modLive_tim tag (Live.started st) s) k
  have ends := endTrig_held h.mayEnd.live named low ((congrArg Trig.tenant recs).trans mine) ((congrArg Trig.st recs).symm ▸ held)
  rw [recs] at ends
  exact (exec_trigCancel h).trans (congrArg Host.Outcome.next ends)

theorem trigCancel_attached {n : Nat} (h : Starts s tag 0x71 l (some n)) (named : k = fieldAt l.desc 16 1 % 64)
    (low : 8 ≤ k) (mine : (trigRec s k).tenant = liveTen l) (held : (trigRec s k).st ≠ 0) :
    Completes (.trigCancel tag) s (fun t =>
      (∀ j, trigRec t j = trigRec s j) ∧ Ended t tag (some n) 0 0 0 ∧ Only [.hif, .out, .mem, .pln, .rck] s t) := by
  obtain ⟨ended, frame⟩ := h.mayEnd.endsWith (modLive_flow tag _ s) 0 0 0
  exact ⟨_, exec_trigCancel_held h named low mine held, trigRec_of_tim (frame .tim (by decide)), ended, frame⟩

/-- The descriptors live after the end of an unattached one were so before it. -/
theorem MayEnd.mem_done_live {e : Nat × Live} (h : MayEnd s tag l) (hstep : l.step = none) {status detail result : Nat}
    (mem : e ∈ (done tag status detail result s).hif.live) : e = (tag, l.over status detail result) ∨ e ∈ s.hif.live := by
  rw [h.done_eq, settleFrees_hif, h.finish_eq hstep, freeTag_liveMap, writeCompl_liveMap, modLive_of_live h.live] at mem
  exact mem_put (mem_del mem)

theorem trigCancel_frees (h : Starts s tag 0x71 l none) (named : k = fieldAt l.desc 16 1 % 64)
    (low : 8 ≤ k) (mine : (trigRec s k).tenant = liveTen l) (held : (trigRec s k).st ≠ 0)
    (idle : NoWait (liveTen l) s) :
    Completes (.trigCancel tag) s (fun t =>
      (trigRec t k).st = 0 ∧ (∀ j, j ≠ k → trigRec t j = trigRec s j) ∧ liveRec t tag = none) := by
  have freed := h.mayEnd.of_only (modTrig_frame k (fun _ => {}) _) (by decide) (by decide)
  have wakes : ∀ result, wakeOpens (liveTen l) (done tag 0 0 result (modTrig k (fun _ => {}) (modLive tag (Live.started none) s))) =
      done tag 0 0 result (modTrig k (fun _ => {}) (modLive tag (Live.started none) s)) := by
    refine fun result => wakeOpens_idle fun e mem ten => ?_
    obtain rfl | mem := freed.mem_done_live rfl mem
    · simp [Live.over]
    have put : e ∈ Map.put s.hif.live tag (l.started none) := by
      have started : (modLive tag (Live.started none) s).hif.live = Map.put s.hif.live tag (l.started none) := by
        rw [modLive_of_live h.live]
        rfl
      exact started ▸ mem
    obtain rfl | old := mem_put put
    · simp [Live.started]
    · exact idle e old ten
  refine ⟨_, (exec_trigCancel_held h named low mine held).trans (congrArg Host.Outcome.next (wakes _)), ?_, fun j other => ?_,
    (freed.endsWith (Only.rfl' _ _) 0 0 _).1⟩
  · rw [trigRec_of_tim (freed.done_frame 0 0 _ .tim (by decide)), trigRec_modTrig, if_pos rfl]
  · rw [trigRec_of_tim (freed.done_frame 0 0 _ .tim (by decide)), trigRec_modTrig, if_neg other]
    exact trigRec_of_tim (modLive_tim _ _ _) j

end

/-! ## TRIGGER_FIRE (R530 to R534) -/

/-- A trigger that acts, with its lateness. -/
def Trig.fired (s : State) (x : Trig) : Trig :=
  { x with late := x.stepped || decide (1000 < nsSince s x.target), lateness := min (nsSince s x.target) (2 ^ 32 - 1), stepped := false }

/-- The next target of a periodic trigger. -/
def nextTarget (s : State) (x : Trig) : Nat := x.target.total + (nsSince s x.target / (x.period * 1000) + 1) * (x.period * 1000)

/-- What firing leaves of a trigger: free when it has no period, else armed for its first target ahead. -/
def Trig.rearmed (s : State) (x : Trig) : Trig :=
  if x.period = 0 then { tenant := x.tenant, firedAt := some s.tick, late := x.late, lateness := x.lateness }
  else
    { x with st := 2, target := ⟨nextTarget s x / 1000000000, nextTarget s x % 1000000000⟩ }

/-- A trigger's record changes as the change of the record it has. -/
theorem modTrig_congr {k : Nat} {f g : Trig → Trig} {s : State} (h : f (trigRec s k) = g (trigRec s k)) : modTrig k f s = modTrig k g s :=
  congrArg (fun x => modTim (fun y => { y with trigs := Map.set {} y.trigs k x }) s) h

theorem rearm_eq (k : Nat) (s : State) : rearm k s = modTrig k (Trig.rearmed s) s := by
  unfold rearm
  by_cases once : (trigRec s k).period = 0
  · exact (if_pos once).trans (modTrig_congr (if_pos once).symm)
  · exact (if_neg once).trans (modTrig_congr (if_neg once).symm)

theorem rearmed_once {s : State} {x : Trig} (once : x.period = 0) :
    x.rearmed s = { tenant := x.tenant, firedAt := some s.tick, late := x.late, lateness := x.lateness } := if_pos once
theorem rearmed_again {s : State} {x : Trig} (again : x.period ≠ 0) :
    x.rearmed s = { x with st := 2, target := ⟨nextTarget s x / 1000000000, nextTarget s x % 1000000000⟩ } := if_neg again
theorem rearmed_late (s : State) (x : Trig) : (x.rearmed s).late = x.late ∧ (x.rearmed s).lateness = x.lateness := by
  unfold Trig.rearmed
  split <;> exact ⟨rfl, rfl⟩

theorem time_total (n : Nat) : Time.total ⟨n / 1000000000, n % 1000000000⟩ = n := Nat.div_add_mod' n 1000000000

/-- The next target lies ahead by at most a period, and a whole number of periods after the target reached. -/
theorem nextTarget_ahead {s : State} {x : Trig} (reached : x.target.total ≤ (nowT s).total) (again : x.period ≠ 0) :
    (nowT s).total < nextTarget s x ∧ nextTarget s x ≤ (nowT s).total + x.period * 1000 ∧
      (nextTarget s x - x.target.total) % (x.period * 1000) = 0 := by
  have whole := Nat.div_add_mod' (nsSince s x.target) (x.period * 1000)
  have part := Nat.mod_lt (nsSince s x.target) (y := x.period * 1000) (by omega)
  have since : nsSince s x.target = (nowT s).total - x.target.total := rfl
  have next : nextTarget s x = x.target.total + (nsSince s x.target / (x.period * 1000) * (x.period * 1000) + x.period * 1000) := by
    rw [nextTarget, Nat.add_mul, Nat.one_mul]
  refine ⟨by omega, by omega, ?_⟩
  rw [nextTarget, Nat.add_sub_cancel_left]
  exact Nat.mul_mod_left _ _

/-- A trigger of a tenant's that need not wait acts with its lateness, and is armed again or freed. -/
theorem fireTrig_acts {k : Nat} {s : State} (low : 8 ≤ k) (armed : (trigRec s k).st = 2)
    (reached : (trigRec s k).target.total ≤ (nowT s).total) (goes : trigWaits s (trigRec s k) = false) (mode : (trigRec s k).mode ≠ 1) :
    fireTrig k s = rearm k (trigAct k (modTrig k (Trig.fired s) s)) := by
  rw [← modTrig_congr (k := k) (s := s) (g := Trig.fired s) (f := fun y => { y with
    late := (trigRec s k).stepped || decide (1000 < nsSince s (trigRec s k).target),
    lateness := min (nsSince s (trigRec s k).target) (2 ^ 32 - 1), stepped := false }) rfl]
  rw [fireTrig, if_pos ⟨armed, reached⟩]
  dsimp only
  rw [if_neg (Nat.not_lt.mpr low), goes, if_neg (by decide), if_neg mode]
  rfl

/-- A trigger of mode 2 acts by its event, which leaves the time base. -/
theorem trigAct_tim {k : Nat} {s : State} (mode : (trigRec s k).mode = 2) : (trigAct k s).tim = s.tim := by
  have acts : trigAct k s = noteT (trigRec s k).tenant 0x0E00 k
      (min (trigRec s k).lateness (2 ^ 32 - 1) + b2n (trigRec s k).late * 2 ^ 32) s := by
    simp [trigAct, mode]
  rw [acts]
  exact noteT_frame _ _ _ _ _ .tim (by decide)

theorem triggerFire_notes {k : Nat} {s : State} (clock : nclkOn s = true) (low : 8 ≤ k) (armed : (trigRec s k).st = 2)
    (reached : (trigRec s k).target.total ≤ (nowT s).total) (mode : (trigRec s k).mode = 2)
    (free : (tstep s (trigRec s k).tenant).steps = []) :
    Completes (.triggerFire k) s (fun t =>
      ((trigRec s k).period = 0 → (trigRec t k).st = 0) ∧
      ((trigRec s k).period ≠ 0 → (trigRec t k).st = 2 ∧ (nowT s).total < (trigRec t k).target.total ∧
        (trigRec t k).target.total ≤ (nowT s).total + (trigRec s k).period * 1000 ∧
        ((trigRec t k).target.total - (trigRec s k).target.total) % ((trigRec s k).period * 1000) = 0) ∧
      (trigRec t k).lateness = min (nsSince s (trigRec s k).target) (2 ^ 32 - 1) ∧
      (trigRec t k).late = ((trigRec s k).stepped || decide (1000 < nsSince s (trigRec s k).target)) ∧
      (∀ j, j ≠ k → trigRec t j = trigRec s j)) := by
  have goes : trigWaits s (trigRec s k) = false := by simp [trigWaits, mode, free]
  have fires := fireTrig_acts low armed reached goes (by simp [mode])
  have runs : exec (.triggerFire k) s = .next (fireTrig k s) := iodClocked_running clock _
  have marked : trigRec (modTrig k (Trig.fired s) s) k = Trig.fired s (trigRec s k) := by rw [trigRec_modTrig, if_pos rfl]
  have tim := trigAct_tim ((congrArg Trig.mode marked).trans mode)
  rw [fires, rearm_eq] at runs
  generalize trigAct k (modTrig k (Trig.fired s) s) = u at runs tim
  have mine : trigRec (modTrig k (Trig.rearmed u) u) k = (Trig.fired s (trigRec s k)).rearmed u := by
    rw [trigRec_modTrig, if_pos rfl, trigRec_of_tim tim, marked]
  have now : nowT u = nowT s := by rw [nowT, tim]; rfl
  obtain ⟨late, lateness⟩ := rearmed_late u (Trig.fired s (trigRec s k))
  refine ⟨_, runs, fun once => ?_, fun again => ?_, ?_, ?_, fun j other => ?_⟩
  · rw [mine, rearmed_once (x := Trig.fired s (trigRec s k)) once]
  · have next : nextTarget u (Trig.fired s (trigRec s k)) = nextTarget s (trigRec s k) := by
      simp only [nextTarget, nsSince, now, Trig.fired]
    rw [mine, rearmed_again (x := Trig.fired s (trigRec s k)) again]
    dsimp only
    rw [time_total, next]
    exact ⟨rfl, nextTarget_ahead reached again⟩
  · rw [mine, lateness, Trig.fired]
  · rw [mine, late, Trig.fired]
  · rw [trigRec_modTrig, if_neg other, trigRec_of_tim tim, trigRec_modTrig, if_neg other]

/-- Settles O16: the time base's clauses by what `checkHold` and `addTime` leave, the triggers' by their records and by the end of
the descriptor that arms or cancels one. -/
theorem timeAndTriggers : Obligations.TimeAndTriggers := by
  refine ⟨fun acc s opened => congrArg Host.Outcome.next (if_pos opened), fun s clock slewing _ _ => exec_slewDone clock slewing,
    fun width s => exec_tpInEdge, fun s => tpinMiss_counts, fun acc s => ntpOk_locks, fun s => ntpTimeout_unlocks,
    fun s clock on set => (iodClocked_running clock _).trans (congrArg Host.Outcome.next (if_pos ⟨on, set⟩)),
    fun s clock => iodClocked_running clock _, fun acc s opened => congrArg Host.Outcome.next (if_pos opened),
    fun tag k l st s => trigArm_arms, fun tag k n l s => trigCancel_attached, fun tag k l s => trigCancel_frees,
    fun k s => triggerFire_notes⟩

end Sys2Proof.Machine
end

section
/-!
Debug: the TAP's instructions, Frost, scan-out and trace (R569 to R594 of 16).
-/
namespace Sys2Proof.Machine

theorem modDbg_frame (f : Dbg → Dbg) (s : State) : Only [.dbg] s (modDbg f s) := modDbg_only f (by decide) (Only.rfl' _ s)
theorem emit_frame (o : Out) (s : State) : Only [.out] s (emit o s) := emit_only o (by decide) (Only.rfl' _ s)
theorem setRw_frame (acc a : Nat) (w : Word) (s : State) : Only [.regs] s (setRw acc a w s) := setRw_only acc a w (by decide) (Only.rfl' _ s)

/-! ## Availability (Tables 15.12, 15.13, 16.7) -/

theorem scanAll_open {s : State} (power : s.pwr.st ≠ .off)
    (life : s.sec.life = .blank ∨ s.sec.life = .provisioned ∨ (s.sec.life = .opened ∧ hasCap s 4 = true)) : scanAll s = true := by
  obtain blank | provisioned | ⟨opened, cap⟩ := life
  · simp [scanAll, power, blank]
  · simp [scanAll, power, provisioned]
  · simp [scanAll, power, opened, cap]

theorem scanSample_unretired {s : State} (power : s.pwr.st ≠ .off) (life : s.sec.life ≠ .retired) : scanSample s = true := by
  cases h : s.sec.life with
  | blank => simp [scanSample, scanAll, power, h]
  | provisioned => simp [scanSample, scanAll, power, h]
  | sealed => simp [scanSample, scanAll, power, h]
  | opened => simp [scanSample, scanAll, power, h]
  | retired => exact absurd h life

/-- Frost is available in full in Provisioned with the module's power on. -/
theorem frostLevel_provisioned {s : State} (power : s.pwr.st = .full ∨ s.pwr.st = .trimmed) (life : s.sec.life = .provisioned) :
    dbgLevel s 2 = 2 := by
  obtain full | trimmed := power
  · simp [dbgLevel, dbgPowered, dbgPermit, full, life]
  · simp [dbgLevel, dbgPowered, dbgPermit, trimmed, life]

theorem dbgLevel_le (s : State) (fn : Nat) : dbgLevel s fn ≤ 2 := by
  have permit : dbgPermit s fn ≤ 2 := by
    unfold dbgPermit
    split
    · exact Nat.le_refl 2
    · exact Nat.le_refl 2
    · split
      · decide
      · split <;> decide
    · split
      · decide
      · split <;> decide
    · decide
  unfold dbgLevel
  split
  · exact permit
  · decide

/-! ## The TAP -/

theorem exec_idcode {s : State} (power : s.pwr.st ≠ .off) :
    exec .idcode s = .next (emit (.value (if s.half then 0x0C13F1AB else 0x0C12F1AB)) (tapInstr true 1 0 s)) :=
  congrArg Host.Outcome.next (if_neg power)

theorem exec_samplePreload {pins load : Nat} {s : State} (power : s.pwr.st ≠ .off) (life : s.sec.life ≠ .retired) :
    exec (.samplePreload pins load) s =
      .next (emit (.value pins) (modDbg (fun d => { d with preload := load }) (tapInstr true 0x02 0 s))) :=
  congrArg Host.Outcome.next (if_pos (scanSample_unretired power life))

theorem exec_dbgAccess_denied {w : Bool} {o : Nat} {v : Word} {s : State} (life : s.sec.life = .sealed ∨ s.sec.life = .retired) :
    exec (.dbgAccess w o v) s = .next (tapInstr false 0x10 0 s) := congrArg Host.Outcome.next (if_pos (.inr life))

theorem exec_caveDbg_denied {op addr : Nat} {d : Word} {s : State} (level : dbgLevel s 5 = 0) :
    exec (.caveDbg op addr d) s = .next (tapInstr false 0x20 0 s) := congrArg Host.Outcome.next (if_pos level)

theorem exec_caveDbg_write {addr : Nat} {d : Word} {s : State} (level : dbgLevel s 5 ≠ 0) :
    exec (.caveDbg 4 addr d) s =
      .next (modSec (fun x => { x with caveMem := Map.set 0 x.caveMem addr d }) (tapInstr true 0x20 0 s)) :=
  congrArg Host.Outcome.next (if_neg level)

/-! ## Frost starts (R578) -/

/-- The debug state as a freeze that is available leaves it. -/
def Dbg.freezing (src : Nat) (d : Dbg) : Dbg :=
  { d with
    refused := false, frost := 1, source := src, count := satAdd 16 d.count 1, pendResume := false, stops := [], fifos := [], syncs := [],
    partCut := false }

theorem frostAsk_starts {src : Nat} {s : State} (level : dbgLevel s 2 ≠ 0) (idle : s.dbg.frost = 0) :
    frostAsk src s = modDbg (Dbg.freezing src) s := by
  have off : ¬ (s.dbg.frost = 1 ∨ s.dbg.frost = 2) := by omega
  have still : ¬ s.dbg.frost = 3 := by omega
  rw [frostAsk, if_neg off, if_neg level, if_neg still]
  rfl

theorem exec_dbgAccess_freeze {v : Word} {s : State} (power : s.pwr.st = .full ∨ s.pwr.st = .trimmed) (life : s.sec.life = .provisioned)
    (idle : s.dbg.frost = 0) (freeze : bitW v 0 = true) (resume : bitW v 1 = false) :
    exec (.dbgAccess true 0x20 v) s = .next (modDbg (Dbg.freezing 2) (tapInstr true 0x10 0 s)) := by
  have permitted : ¬ (s.pwr.st = .off ∨ s.sec.life = .sealed ∨ s.sec.life = .retired) := by
    rintro (off | sealed | retired)
    · rw [off] at power
      simp at power
    · rw [life] at sealed
      simp at sealed
    · rw [life] at retired
      simp at retired
  have asks : tapWrite 0x20 v (tapInstr true 0x10 0 s) = frostAsk 2 (tapInstr true 0x10 0 s) := by simp [tapWrite, freeze, resume]
  have level : dbgLevel (tapInstr true 0x10 0 s) 2 ≠ 0 := (frostLevel_provisioned (s := tapInstr true 0x10 0 s) power life).symm ▸ by decide
  exact (congrArg Host.Outcome.next (if_neg permitted)).trans (congrArg Host.Outcome.next (asks.trans (frostAsk_starts level idle)))

theorem exec_dbgFrostFreeze {acc : Acc} {s : State} (opened : blockOpen s acc 16 = true) (level : dbgLevel s 2 ≠ 0)
    (idle : s.dbg.frost = 0) : exec (.dbgFrostFreeze acc) s = .next (modDbg (Dbg.freezing (frostSrc acc)) s) :=
  (congrArg Host.Outcome.next (if_pos opened)).trans (congrArg Host.Outcome.next (frostAsk_starts level idle))

theorem frostSrc_eq (acc : Acc) : frostSrc acc = if acc = .tap then 2 else 1 := by
  cases acc with
  | tap => rfl
  | _ => simp [frostSrc]

theorem exec_dbgFrostResume {acc : Acc} {s : State} (opened : blockOpen s acc 16 = true) (level : dbgLevel s 2 ≠ 0)
    (frozen : s.dbg.frost = 2) : exec (.dbgFrostResume acc) s = .next { s with dbg := { s.dbg with frost := 3 } } := by
  have resumes : frostResume s = modDbg (fun d => { d with frost := 3 }) s := by simp [frostResume, level, frozen]
  exact (congrArg Host.Outcome.next (if_pos opened)).trans (congrArg Host.Outcome.next resumes)

/-! ## What Frost holds (R579, R581) -/

theorem domRuns_lt {s : State} {k : Nat} (h : domRuns s k = true) : k < 35 := by
  by_contra beyond
  have dies : ¬ (2 ≤ k ∧ k ≤ 5) := by omega
  have stks : ¬ (6 ≤ k ∧ k ≤ 13) := by omega
  have ports : ¬ (16 ≤ k ∧ k ≤ 31) := by omega
  have none : ¬ k ≤ 34 := by omega
  simp [domRuns, dies, stks, ports, none] at h

/-- The domains that run when Frost stops them. -/
def runningDoms (s : State) : List Nat := (List.range 35).filter (domRuns s)

theorem mem_runningDoms {s : State} {k : Nat} : k ∈ runningDoms s ↔ domRuns s k = true := by
  simp only [runningDoms, List.mem_filter, List.mem_range, and_iff_right_iff_imp]
  exact domRuns_lt
theorem memb_runningDoms (s : State) (k : Nat) : memb k (runningDoms s) = domRuns s k := by
  rw [memb, Bool.eq_iff_iff, List.contains_iff_mem, mem_runningDoms]

/-- The cut is in parts where a domain was not running. -/
theorem partCut_iff (s : State) : (runningDoms s).length < 35 ↔ ∃ k, k < 35 ∧ domRuns s k = false := by
  have most : (runningDoms s).length ≤ (List.range 35).length := List.length_filter_le _ _
  have whole : (runningDoms s).length = 35 ↔ ∀ k < 35, domRuns s k = true := by
    simpa [runningDoms] using (List.length_filter_eq_length_iff (l := List.range 35) (p := domRuns s))
  rw [List.length_range] at most
  constructor
  · intro short
    by_contra all
    have full : (runningDoms s).length = 35 := whole.mpr fun k hk => by
      by_contra stopped
      exact all ⟨k, hk, Bool.eq_false_of_not_eq_true stopped⟩
    omega
  · rintro ⟨k, hk, stopped⟩
    have short : (runningDoms s).length ≠ 35 := fun full => by simp [whole.mp full k hk] at stopped
    omega

/-- The value of a key in a map made from a list of keys. -/
theorem find_map_keys {α : Type} (f : Nat → α) {k : Nat} {ks : List Nat} (h : k ∈ ks) : Map.find (ks.map (fun q => (q, f q))) k = some (f k) := by
  induction ks with
  | nil => simp at h
  | cons q r ih =>
    by_cases e : k = q
    · exact (if_pos e).trans (e ▸ rfl)
    · exact (if_neg e).trans (ih ((List.mem_cons.mp h).resolve_left e))

/-- What lies between two pointers of a ring of `m` is their distance, below `m`. -/
theorem pointers_span {a b m : Nat} (order : a ≤ b) (room : b - a < m) : (b % m + m - a % m) % m = b - a := by
  obtain ⟨d, rfl⟩ := Nat.exists_eq_add_of_le order
  rw [Nat.add_sub_cancel_left] at room ⊢
  have below : a % m < m := Nat.mod_lt _ (by omega)
  have sum : (a + d) % m = (a % m + d) % m := by rw [Nat.add_mod, Nat.mod_eq_of_lt room]
  rw [sum]
  by_cases wrap : a % m + d < m
  · rw [Nat.mod_eq_of_lt wrap, show a % m + d + m - a % m = d + m by omega, Nat.add_mod_right, Nat.mod_eq_of_lt room]
  · have wrapped : (a % m + d) % m = a % m + d - m := by rw [Nat.mod_eq_sub_mod (by omega), Nat.mod_eq_of_lt (by omega)]
    rw [wrapped, show a % m + d - m + m - a % m = d by omega, Nat.mod_eq_of_lt room]

/-- A FIFO that has taken no more than it wrote, and holds what lies between, is cut with all it holds. -/
theorem cutFifo_whole {x : FifoHeld} (order : x.taken ≤ x.wrote) (room : x.wrote ≤ x.taken + 2 ^ x.log2)
    (held : x.words.length = x.wrote - x.taken) :
    cutFifo x = {
      unit := x.unit, depth := 2 ^ x.log2, wptr := x.wrote % (2 * 2 ^ x.log2), rptr := x.taken % (2 * 2 ^ x.log2), words := x.words } := by
  have depth : 0 < 2 ^ x.log2 := Nat.two_pow_pos _
  have span := pointers_span order (m := 2 * 2 ^ x.log2) (by omega)
  simp only [cutFifo, span, ← held, List.take_length]

/-- The debug state as the last domain that stops leaves it (no resume asked for). -/
def Dbg.cut (s : State) (stops : List (Nat × Nat)) (fifos : List FifoHeld) (syncs : List SyncHeld) (d : Dbg) : Dbg :=
  { d with
    frost := 2
    pendResume := false
    stopAt := nowT s
    partCut := decide ((runningDoms s).length < 35)
    stops := (runningDoms s).map (fun k => (k, (((stops.find? (fun e => decide (e.1 = k))).map Prod.snd).getD 0) % 2 ^ 64))
    fifos := (fifos.filter (fun x => memb x.writer (runningDoms s) || memb x.reader (runningDoms s))).map (fun x => (x.id, cutFifo x))
    syncs := (syncs.filter (fun x => memb x.reader (runningDoms s))).map (fun x => (x.id, { unit := x.unit, stages := x.stages % 8 }))
    openPorts := (List.range (numPorts s)).filter (fun p =>
      decide ((portRec s p).st = .opened) || decide ((portRec s p).st = .retrain)) }

theorem exec_frostStopped {stops : List (Nat × Nat)} {fifos : List FifoHeld} {syncs : List SyncHeld} {s : State} (stopping : s.dbg.frost = 1)
    (stays : s.dbg.pendResume = false) : exec (.frostStopped ⟨stops, fifos, syncs⟩) s = .next (modDbg (Dbg.cut s stops fifos syncs) s) := by
  have cuts : frostStopped stops fifos syncs s = modDbg (Dbg.cut s stops fifos syncs) s := by
    rw [frostStopped, if_pos stopping]
    simp only [modDbg, stays]
    rfl
  exact congrArg Host.Outcome.next cuts

theorem frostStopped_holds {stops : List (Nat × Nat)} {fifos : List FifoHeld} {syncs : List SyncHeld} {s : State}
    (stopping : s.dbg.frost = 1) (stays : s.dbg.pendResume = false) :
    Completes (.frostStopped ⟨stops, fifos, syncs⟩) s (fun t =>
      (∀ x ∈ fifos, domRuns s x.writer = true ∨ domRuns s x.reader = true → x.taken ≤ x.wrote → x.wrote ≤ x.taken + 2 ^ x.log2 →
        x.words.length = x.wrote - x.taken →
        (x.id, { unit := x.unit, depth := 2 ^ x.log2, wptr := x.wrote % (2 * 2 ^ x.log2), rptr := x.taken % (2 * 2 ^ x.log2),
                 words := x.words }) ∈ t.dbg.fifos) ∧
      (∀ x ∈ syncs, domRuns s x.reader = true → (x.id, { unit := x.unit, stages := x.stages % 8 }) ∈ t.dbg.syncs) ∧
      t.dbg.frost = 2 ∧ t.dbg.stopAt = nowT s ∧ (t.dbg.partCut = true ↔ ∃ k, k < 35 ∧ domRuns s k = false) ∧
      (∀ k c, k < 35 → domRuns s k = true → stops.find? (fun e => decide (e.1 = k)) = some (k, c) → c < 2 ^ 64 →
        Map.find t.dbg.stops k = some c) ∧ Only [.dbg] s t) := by
  refine ⟨_, exec_frostStopped stopping stays, fun x mem runs order room held => ?_, fun x mem runs => ?_, rfl, rfl, ?_,
    fun k c _ runs found small => ?_, modDbg_frame _ s⟩
  · have frozen : x ∈ fifos.filter (fun x => memb x.writer (runningDoms s) || memb x.reader (runningDoms s)) :=
      List.mem_filter.mpr ⟨mem, by simpa [memb_runningDoms] using runs⟩
    exact cutFifo_whole order room held ▸ List.mem_map_of_mem frozen
  · have stopped : x ∈ syncs.filter (fun x => memb x.reader (runningDoms s)) :=
      List.mem_filter.mpr ⟨mem, (memb_runningDoms s x.reader).trans runs⟩
    exact List.mem_map.mpr ⟨x, stopped, rfl⟩
  · exact decide_eq_true_iff.trans (partCut_iff s)
  · have counted := find_map_keys (fun k => (((stops.find? (fun e => decide (e.1 = k))).map Prod.snd).getD 0) % 2 ^ 64)
      (mem_runningDoms.mpr runs)
    rw [found] at counted
    exact counted.trans (congrArg some (Nat.mod_eq_of_lt small))

/-! ## Frost's end (R583, R585) -/

/-- The state as every domain runs again, before the ports retrain and what waited is delivered. -/
def thawed (s : State) : State :=
  modDbg (fun d => { d with frost := 0, openPorts := [], pendFreeze := false, fifos := [], syncs := [], late := [] }) s

theorem exec_frostResumeDone {s : State} (resuming : s.dbg.frost = 3) (freeze : s.dbg.pendFreeze = false) :
    exec .frostResumeDone s = .next (forS s.dbg.late runLate (forS s.dbg.openPorts (fun p => enterRetrain p 0) (thawed s))) := by
  have done : frostDone s = forS s.dbg.late runLate (forS s.dbg.openPorts (fun p => enterRetrain p 0) (thawed s)) := by
    rw [frostDone, if_pos resuming, freeze]
    rfl
  exact congrArg Host.Outcome.next done

theorem thawed_eq {s : State} (freeze : s.dbg.pendFreeze = false) (ports : s.dbg.openPorts = []) :
    thawed s = { s with dbg := { s.dbg with frost := 0, fifos := [], syncs := [], late := [] } } := by
  rw [thawed, modDbg, ← ports, ← freeze]

theorem updReady_dbg (b : Nat) (s : State) : (updReady b s).dbg = s.dbg :=
  updReady_only (fr := [.out, .hif, .vnl, .book]) b (by decide) (by decide) (by decide) (by decide) (Only.rfl' _ s) .dbg (by decide)

/-- An OPEN port as it enters RETRAIN, before its binding's traffic is placed again. -/
def retraining (p reason : Nat) (s : State) : State :=
  modPort p (fun x => { x with st := .retrain, reason := reason }) (modPort p (fun x => { x with
    retrains := (portRec s p).retrains.filter (fun k => decide (s.tick < k + 250000000)) ++ [s.tick],
    err := { x.err with retrain := satAdd 32 x.err.retrain 1 },
    retry := x.retry.map (fun f => { f with resent := 0 }) }) s)

theorem enterRetrain_opened {p reason : Nat} {s : State} (opened : (portRec s p).st = .opened)
    (few : ((portRec s p).retrains.filter (fun k => decide (s.tick < k + 250000000))).length < 7) :
    enterRetrain p reason s = match portBind s p with
      | some (b, k) => divertSlot b k (drainQueue (updReady b (retraining p reason s)))
      | none => retraining p reason s := by
  have below : ¬ 8 ≤ ((portRec s p).retrains.filter (fun k => decide (s.tick < k + 250000000)) ++ [s.tick]).length := by
    rw [List.length_append, List.length_singleton]
    omega
  exact (if_pos opened).trans (if_neg below)

theorem retraining_st (p reason : Nat) (s : State) : (portRec (retraining p reason s) p).st = .retrain := by simp [retraining]
theorem bare_st (x : Port) : x.bare.st = x.st := rfl

/-- Such a port retrains; what its binding then sends touches no port's state. -/
theorem enterRetrain_retrains {p reason : Nat} {s : State} (opened : (portRec s p).st = .opened)
    (few : ((portRec s p).retrains.filter (fun k => decide (s.tick < k + 250000000))).length < 7) :
    (enterRetrain p reason s).dbg = s.dbg ∧ (portRec (enterRetrain p reason s) p).st = .retrain := by
  rw [enterRetrain_opened opened few]
  split
  next b k _ =>
    have sent := Traffic.divertSlot (Traffic.drainQueue (Traffic.refl (updReady b (retraining p reason s)))) b k
    refine ⟨(sent.frame .dbg (by decide)).trans (updReady_dbg b _), ?_⟩
    rw [← bare_st, sent.ports, bare_st, portRec_updReady, retraining_st]
  next => exact ⟨rfl, retraining_st p reason s⟩

theorem frostResume_retrains {p : Nat} {s : State} (resuming : s.dbg.frost = 3) (freeze : s.dbg.pendFreeze = false)
    (ports : s.dbg.openPorts = [p]) (late : s.dbg.late = []) (opened : (portRec s p).st = .opened)
    (few : ((portRec s p).retrains.filter (fun k => decide (s.tick < k + 250000000))).length < 7) :
    Completes .frostResumeDone s (fun t => t.dbg.frost = 0 ∧ (portRec t p).st = .retrain) := by
  obtain ⟨dbg, st⟩ := enterRetrain_retrains (reason := 0) (s := thawed s) opened few
  refine ⟨_, exec_frostResumeDone resuming freeze, ?_⟩
  rw [late, ports]
  exact ⟨congrArg Dbg.frost dbg, st⟩

/-! ## Scan-out and trace (R586, R592, R593) -/

/-- An index register reads back the index that fits it. -/
theorem fldW_wordOf {n h : Nat} (fits : n < 2 ^ (h + 1)) (high : h < 32) : fldW (wordOf n) h 0 = n := by
  have word : n < 2 ^ 32 := lt_of_lt_of_le fits (Nat.pow_le_pow_right (by decide) high)
  calc fldW (wordOf n) h 0 = n % 2 ^ 32 / 2 ^ 0 % 2 ^ (h + 1 - 0) := rfl
    _ = n := by rw [Nat.mod_eq_of_lt word, Nat.pow_zero, Nat.div_one, Nat.sub_zero, Nat.mod_eq_of_lt fits]

theorem exec_dbgScanData {acc : Acc} {s : State} (opened : blockOpen s acc 16 = true) :
    exec (.dbgScanData acc) s = .next (scanRead s) := congrArg Host.Outcome.next (if_pos opened)

theorem scanData_reads {acc : Acc} {s : State} (opened : blockOpen s acc 16 = true) (on : scanOn s = true) :
    Completes (.dbgScanData acc) s (fun t =>
      t.out = .value (scanData s) :: s.out ∧ scanIdx t = (scanIdx s + 1) % 2 ^ 25 ∧ Only [.out, .regs] s t) := by
  have reads : scanRead s = emit (.value (scanData s)) (setRw 0 0x1000084 (wordOf ((scanIdx s + 1) % 2 ^ 25)) s) := if_pos on
  refine ⟨_, (exec_dbgScanData opened).trans (congrArg _ reads), rfl, ?_,
    ((setRw_frame _ _ _ s).mono (by decide)).trans ((emit_frame _ _).mono (by decide))⟩
  have index : rwReg (setRw 0 0x1000084 (wordOf ((scanIdx s + 1) % 2 ^ 25)) s) 0 0x1000084 = wordOf ((scanIdx s + 1) % 2 ^ 25) := by
    rw [rwReg_setRw, if_pos rfl]
  exact (congrArg (fldW · 24 0) index).trans (fldW_wordOf (Nat.mod_lt _ (by decide)) (by decide))

theorem traceData_reads {acc : Acc} {s : State} (opened : blockOpen s acc 16 = true) (level : dbgLevel s 1 = 2) :
    Completes (.dbgTraceData acc) s (fun t =>
      t.out = .value (traceData s) :: s.out ∧ fldW (rwReg t 0 0x10001C4) 19 0 = (fldW (rwReg s 0 0x10001C4) 19 0 + 1) % 2 ^ 20 ∧
      Only [.out, .regs] s t) := by
  refine ⟨_, (congrArg Host.Outcome.next (if_pos opened)).trans (congrArg Host.Outcome.next (if_pos level)), rfl, ?_,
    ((setRw_frame _ _ _ s).mono (by decide)).trans ((emit_frame _ _).mono (by decide))⟩
  have index : rwReg (setRw 0 0x10001C4 (wordOf ((fldW (rwReg s 0 0x10001C4) 19 0 + 1) % 2 ^ 20)) s) 0 0x10001C4 =
      wordOf ((fldW (rwReg s 0 0x10001C4) 19 0 + 1) % 2 ^ 20) := by
    rw [rwReg_setRw, if_pos rfl]
  exact (congrArg (fldW · 19 0) index).trans (fldW_wordOf (Nat.mod_lt _ (by decide)) (by decide))

/-- The sample of a resident context, as it stands in its core's buffer. -/
def sampleOf (c pc w f : Nat) (m : Bool) (s : State) : Sample :=
  ⟨slotTen s c (coreRec s c).slot,
    sampleBytes s (coreRec s c).slot (slotTen s c (coreRec s c).slot) (if m = true ∧ dbgLevel s 1 ≠ 2 then 0 else pc) m w f⟩

theorem exec_traceSample {c pc w f : Nat} {m : Bool} {s : State} (clock : nclkOn s = true) (core : c < numCores s)
    (runs : (coreRec s c).st = .running) (valid : slotValid s c (coreRec s c).slot = true) (level : dbgLevel s 1 ≠ 0)
    (sampling : slotTen s c (coreRec s c).slot ∈ s.dbg.sampling) (room : (Map.get [] s.dbg.samples c).length < 1024) :
    exec (.traceSample c pc m w f false) s =
      .next (modDbg (fun d => { d with samples := Map.put d.samples c (Map.get [] s.dbg.samples c ++ [sampleOf c pc w f m s]) }) s) := by
  have traced : dbgLevel s 1 = 2 ∨ (dbgLevel s 1 = 1 ∧ memb (slotTen s c (coreRec s c).slot) s.dbg.sampling = true) := by
    have enough : dbgLevel s 1 = 2 ∨ dbgLevel s 1 = 1 := by
      have most := dbgLevel_le s 1
      omega
    exact enough.imp id fun some => ⟨some, by simpa [memb] using sampling⟩
  have resident : (decide ((coreRec s c).st = .running) || decide ((coreRec s c).st = .preempting)
    || decide ((coreRec s c).st = .swapping)) = true := by simp [runs]
  have takes : takeSample c pc m w f s =
      modDbg (fun d => { d with samples := Map.put d.samples c (Map.get [] s.dbg.samples c ++ [sampleOf c pc w f m s]) }) s :=
    (if_pos ⟨core, valid, resident, traced⟩).trans (if_neg (Nat.not_le.mpr room))
  exact (iodClocked_running clock _).trans (congrArg Host.Outcome.next ((if_neg fun h => by cases h.1).trans takes))

/-- Settles O18: each TAP instruction is `tapInstr`; a freeze is `Dbg.freezing`, its end `Dbg.cut`; the resume is `thawed`, then the
ports' retraining and what waited. -/
theorem debugCommands : Obligations.DebugCommands := by
  refine ⟨fun c ir drive s row idle power life => ?_, fun s power => ?_, fun pins load s power life => ?_, fun s => ?_, fun s => ?_,
    fun w o v s life => ?_, fun v s power life idle freeze resume => ?_, fun op addr d s level => ?_, fun addr d s level => ?_,
    fun acc s opened level idle => ?_, fun stops fifos syncs s => frostStopped_holds, fun acc s => exec_dbgFrostResume,
    fun s resuming freeze ports late => ?_, fun p s => frostResume_retrains, fun c s resuming freeze ports late => ?_,
    fun acc s => scanData_reads, fun acc s opened off => ?_, fun acc s => traceData_reads,
    fun c pc w f m s clock core runs valid level sampling room => ?_⟩
  · have available : tapDrive ir drive s = tapInstr true ir drive s := by simp [tapDrive, idle, scanAll_open power life]
    exact ⟨_, (exec_drive row s).trans (congrArg _ available), tapInstr_selects ir drive s, tapInstr_frame _ _ _ s⟩
  · exact ⟨_, exec_idcode power, rfl, rfl, ((tapInstr_frame _ _ _ s).mono (by decide)).trans ((emit_frame _ _).mono (by decide))⟩
  · exact ⟨_, exec_samplePreload power life, rfl, rfl,
      ((tapInstr_frame _ _ _ s).trans (modDbg_frame _ _)).mono (by decide) |>.trans ((emit_frame _ _).mono (by decide))⟩
  · exact ⟨_, rfl, tapInstr_bypasses 0xFF 0 s, tapInstr_frame _ _ _ s⟩
  · exact ⟨_, rfl, tapInstr_selects 1 0 s, tapInstr_frame _ _ _ s⟩
  · exact ⟨_, exec_dbgAccess_denied life, tapInstr_bypasses 0x10 0 s, tapInstr_frame _ _ _ s⟩
  · exact ⟨_, exec_dbgAccess_freeze power life idle freeze resume, rfl, rfl, rfl, rfl, (tapInstr_frame _ _ _ s).trans (modDbg_frame _ _)⟩
  · exact ⟨_, exec_caveDbg_denied level, tapInstr_bypasses 0x20 0 s, tapInstr_frame _ _ _ s⟩
  · exact ⟨_, exec_caveDbg_write level, rfl, (get_set 0 s.sec.caveMem addr addr d).trans (if_pos rfl),
      fun q other => (get_set 0 s.sec.caveMem addr q d).trans (if_neg other),
      ((tapInstr_frame _ _ _ s).mono (by decide)).trans (modSec_only _ (by decide) (Only.rfl' _ _))⟩
  · exact ⟨_, exec_dbgFrostFreeze opened level idle, rfl, frostSrc_eq acc, rfl, rfl, modDbg_frame _ s⟩
  · have runs := exec_frostResumeDone resuming freeze
    rw [late, ports] at runs
    exact ⟨_, runs, rfl, rfl, rfl, show Only [.dbg] s (thawed s) from modDbg_frame _ s⟩
  · have runs := exec_frostResumeDone resuming freeze
    rw [late, ports] at runs
    exact runs.trans (congrArg (fun x => Host.Outcome.next (runLate c x)) (thawed_eq freeze ports))
  · exact (exec_dbgScanData opened).trans (congrArg Host.Outcome.next (if_neg (by rw [off]; decide)))
  · refine ⟨_, exec_traceSample clock core runs valid level sampling room, ?_, fun k other => ?_, modDbg_frame _ s⟩
    · exact (get_put [] s.dbg.samples c c _).trans (if_pos rfl)
    · exact (get_put [] s.dbg.samples c k _).trans (if_neg other)

end Sys2Proof.Machine
end

section
/-!
What the owner's state keeps while a batch or a strobe's outputs take effect (R423 to R436 of 11).
-/
namespace Sys2Proof.Machine

namespace Tells
variable {a s u : State}

/-! ## Steps and draws -/

theorem modPwr (h : Tells a s) (f : Pwr → Pwr) (c : (f s.pwr).clamp = s.pwr.clamp) : Tells a (modPwr f s) := h.of_cel rfl c
theorem modDie (h : Tells a s) (d : Nat) (f : DieP → DieP) : Tells a (modDie d f s) := h.of_cel rfl rfl
theorem modGrp (h : Tells a s) (f : Groups → Groups) : Tells a (modGrp f s) := h.of_cel rfl rfl
theorem modStp (h : Tells a s) (f : Stp → Stp) : Tells a (modStp f s) := h.of_cel rfl rfl
theorem modTstep (h : Tells a s) (t : Nat) (f : TenStep → TenStep) : Tells a (modTstep t f s) := h.of_cel rfl rfl
theorem modPort (h : Tells a s) (p : Nat) (f : Port → Port) : Tells a (modPort p f s) := h.of_cel rfl rfl
theorem noted (h : Tells a s) (t code subject detail : Nat) : Tells a (noteT t code subject detail s) :=
  h.of_only ((noteT_frame _ _ _ _ s).mono (by decide))
theorem recorded (h : Tells a s) (code subject detail : Nat) : Tells a (record code subject detail s) :=
  h.of_only ((record_frame _ _ _ s).mono (by decide))

/-- One step of `trySeal`: it hands a clean seal to the owner, or fails the step. -/
theorem trySeal (h : Tells a s) (t : Nat) : Tells a (trySeal t s) := by
  refine h.forS fun r x hx => ?_
  split
  · exact hx
  · next tag _ =>
    split
    · exact hx
    · next l _ =>
      have sealed : Tells a (modStep t r.num (fun y => { y with sealAt := nowT x }) (finish tag stOK 0 0 x)) :=
        hx.of_only (modTstep_only t _ (by decide) ((finish_frame _ _ _ _ x).mono (by decide)))
      refine if_ok (if_ok (sealed.failStep t r.num 3) ?_) hx
      split
      · exact sealed.failStep _ _ _
      · exact if_ok sealed (Tells.upMsg (sealed.of_only (modTstep_only t _ (by decide) (Only.rfl' _ _))) _)
theorem done (h : Tells a s) (tag status detail result : Nat) : Tells a (done tag status detail result s) := by
  unfold Machine.done
  split
  · exact h
  · next l _ =>
    have ended : Tells a (Machine.trySeal (liveTen l) (finish tag status detail result s)) :=
      Tells.trySeal (h.of_only ((finish_frame _ _ _ _ s).mono (by decide))) _
    exact ended.of_only (settleFrees_only _ (by decide) (by decide) (Only.rfl' _ _))

/-- The state as a step opens, before its descriptor ends. -/
theorem openNow (h : Tells a s) (tag t n : Nat) (d : List Byte) : Tells a (openNow tag t n d s) := by
  have opened : Tells a (Machine.modPwr (fun p => { p with idle := false })
      (modLive tag (fun l => { l with step := some n, stage := .running }) s)) :=
    Tells.modPwr (h.of_only ((modLive_frame _ _ s).mono (by decide))) _ rfl
  have posted := opened.of_only (makePost_only t none (some n) (postOf d 27) (by decide) (makePost_only t none (some n) (postOf d 24) (by decide)
    (updStall_only t (by decide) (by decide) (by decide) (by decide) (modTstep_only t (fun x => { x with
      st := .run, next := some ((n + 1) % 2 ^ 48), steps := x.steps ++ [{
        num := n, record := cntRecord s t, reps := (x.early.filter (fun r => decide (r.1 = n))).map Prod.snd }], failNext := none,
      firstDisc := none, early := x.early.filter (fun r => decide (r.1 ≠ n)), dead := without n x.dead }) (by decide) (Only.rfl' _ _)))))
  unfold Machine.openNow
  dsimp only
  split
  · exact (posted.done _ _ _ _).failStep _ _ _
  · exact posted.done _ _ _ _
theorem wakeOpens (h : Tells a s) (t : Nat) : Tells a (wakeOpens t s) := by
  refine h.forS fun e x hx => ?_
  dsimp only
  split
  · exact if_ok hx (hx.done _ _ _ _)
  · exact if_ok hx (hx.openNow _ _ _ _)

theorem wiltJoin (h : Tells a s) (kind subject : Nat) : Tells a (wiltJoin kind subject s) := by
  have joins : ∀ {x : State}, Tells a x → Tells a (Machine.upEvent 7 0 4 [] subject kind (record 0x0B07 subject kind
      (Machine.modPol (fun p => { p with wilts := p.wilts ++ [⟨kind, subject, nowT s⟩] }) x))) :=
    fun hx => ((hx.modPol _).recorded _ _ _).upEvent _ _ _ _ _ _
  unfold Machine.wiltJoin
  dsimp only
  refine if_ok h ?_
  split
  · exact if_ok h (if_ok h (joins h))
  · next i _ =>
    refine joins ?_
    split
    · exact if_ok (((h.modPol _).recorded _ _ _).upEvent _ _ _ _ _ _) h
    · exact h
theorem judgeLate (h : Tells a s) (b own late early : Nat) : Tells a (judgeLate b own late early s) := by
  unfold Machine.judgeLate
  exact if_ok ((h.modPol _).wiltJoin 0 b) (if_ok ((h.modPol _).wiltLeave 0 b) (h.modPol _))


end Tells

/-- What a draw frees and posts once its step is taken out. -/
def drawFrees (t n p lat : Nat) (tags : List Nat) (evs : List HoldE) (s : State) : State :=
  trigRelease t (pump (updStall t (settleFrees t (forS evs (fun e => postEvent e.tenant e.code e.subject e.detail)
    (modStp (fun x => { x with holdEv := x.holdEv.filter (fun h => decide (h.tenant ≠ t) || decide (h.step ≠ n)) })
      (releaseTallies t n (forS tags (releaseOne t n p lat) (graftStart t n (standHandles t n s)))))))))

theorem drawStep_idle {t n p : Nat} {spread : Option (Nat × Nat × Nat)} {s : State} (other : oldestStep s t ≠ some n) :
    drawStep t n p spread s = s := by
  unfold drawStep
  split
  · rfl
  · exact if_pos other

/-- A draw of the oldest step takes it out and judges its marks, then frees what it held. -/
theorem drawStep_taken {t n : Nat} {s : State} (oldest : oldestStep s t = some n) (p : Nat) (spread : Option (Nat × Nat × Nat)) :
    ∃ u lat tags evs, drawStep t n p spread s = serveOwed t (wakeOpens t (drawFrees t n p lat tags evs u)) ∧ Tells s u := by
  obtain ⟨r, known⟩ := oldest_known oldest
  simp only [drawStep, known, oldest]
  rw [if_neg (by simp)]
  match spread with
  | none => exact ⟨_, _, _, _, rfl, ((Tells.refl s).modStp _).modTstep t _⟩
  | some (b, late, early) =>
    exact ⟨_, _, _, _, rfl, (Tells.judgeLate (((Tells.refl s).modStp _).modStp _) b (packT r.sealAt) late early).modTstep t _⟩

namespace Tells
variable {a s u : State}

/-- What a draw frees and posts once its step is taken out: nothing of it is told to the owner. -/
theorem drawFrees (h : Tells a s) (t n p lat : Nat) (tags : List Nat) (evs : List HoldE) :
    Tells a (drawFrees t n p lat tags evs s) := by
  have stood : Tells a (graftStart t n (standHandles t n s)) :=
    h.of_only (graftStart_only t n (by decide) (by decide) (by decide) (by decide) (by decide)
      (standHandles_only t n (by decide) (by decide) (Only.rfl' _ s)))
  have released := stood.forS (l := tags) (f := releaseOne t n p lat) fun q x hx => hx.of_only
    (releaseOne_only t n p lat q (by decide) (by decide) (by decide) (by decide) (by decide) (by decide) (Only.rfl' _ x))
  have tallied := released.of_only (modStp_only (fun x => { x with
    holdEv := x.holdEv.filter (fun h => decide (h.tenant ≠ t) || decide (h.step ≠ n)) }) (by decide)
      (releaseTallies_only t n (by decide) (by decide) (Only.rfl' _ _)))
  have posted := tallied.forS (l := evs) (f := fun e => postEvent e.tenant e.code e.subject e.detail) fun q x hx => hx.of_only
    (postEvent_only _ _ _ _ (by decide) (by decide) (Only.rfl' _ x))
  have settled := posted.of_only (settleFrees_only t (by decide) (by decide) (Only.rfl' _ _))
  have stalled := settled.of_only (updStall_only t (by decide) (by decide) (by decide) (by decide) (Only.rfl' _ _))
  have pumped := stalled.of_only ((pump_frame _).mono (by decide))
  exact pumped.of_only (trigRelease_only t (by decide) (by decide) (by decide) (by decide) (by decide) (by decide) (by decide) (Only.rfl' _ _))

theorem drawStep (h : Tells a s) (t n p : Nat) (spread : Option (Nat × Nat × Nat)) : Tells a (drawStep t n p spread s) := by
  by_cases oldest : oldestStep s t = some n
  · obtain ⟨u, lat, tags, evs, draws, tells⟩ := drawStep_taken oldest p spread
    rw [draws]
    exact ((h.trans tells).drawFrees t n p lat tags evs).wakeOpens t |>.of_only (serveOwed_only t (by decide) (by decide) (by decide) (Only.rfl' _ _))
  · rw [drawStep_idle oldest]
    exact h
theorem rootDraw (h : Tells a s) (t b n : Nat) (r : StepRec) : Tells a (rootDraw t b n r s) := by
  unfold Machine.rootDraw
  refine Tells.drawStep ?_ _ _ _ _
  exact h.of_only (toChildren_only _ _ (by decide) (by decide) (Only.rfl' _ s))
theorem tryReport (h : Tells a s) (t n : Nat) : Tells a (tryReport t n s) := by
  unfold Machine.tryReport
  split
  · next r b _ _ =>
    dsimp only
    split
    · exact h
    · split
      · exact if_ok (Tells.rootDraw (h.of_only (modTstep_only t _ (by decide) (Only.rfl' _ _))) _ _ _ _) h
      · split
        · split
          · exact h
          · exact h.of_only (modTstep_only t _ (by decide) (modTstep_only t _ (by decide)
              (sendTo_only _ _ _ _ (by decide) (by decide) (Only.rfl' _ _))))
        · exact h
  · exact h

/-! ## Ports (R61, R285, R297) -/

theorem closePort (h : Tells a s) (p reason : Nat) : Tells a (closePort p reason s) := by
  unfold Machine.closePort
  dsimp only
  split
  · exact if_ok ((h.gateShutPort p reason).faultOne _ _) (h.gateShutPort p reason)
  · exact h.gateShutPort p reason
theorem enterDark (h : Tells a s) (p reason : Nat) : Tells a (enterDark p reason s) := (h.modPort p _).upEvent _ _ _ _ _ _
theorem portOff (h : Tells a s) (p : Nat) : Tells a (portOff p s) :=
  Tells.of_only ((h.closePort p 0).modPort p _) (checkBuddies_only (by decide) (by decide) (by decide) (by decide) (Only.rfl' _ _))
theorem portCommit (h : Tells a s) (p : Nat) (ws : List Word) : Tells a (portCommit p ws s) := by
  have set : ∀ f, Tells a (if bitW (cset s .boot 0 0) 31 then modBoot f (csetAll .vnlPort p ws s) else csetAll .vnlPort p ws s) := by
    have all : Tells a (csetAll .vnlPort p ws s) := h.of_only (csetAll_only _ _ _ (by decide) (Only.rfl' _ s))
    exact fun f => if_ok (all.of_cel rfl rfl) all
  unfold Machine.portCommit
  dsimp only
  refine if_ok (if_ok (Tells.enterDark ((set _).modPort p _) p 0) ((set _).modPort p _)) (if_ok ((set _).portOff p) (set _))
theorem portEnable (h : Tells a s) (p : Nat) (on : Bool) : Tells a (portEnable p on s) := if_ok (h.portCommit p _) h

/-! ## A batch at the IOD (R24, R425) -/

theorem saveDie (h : Tells a s) (d : Nat) : Tells a (saveDie d s) := h.forS fun c x hx =>
  hx.of_only (swapOut_only c (by decide) (by decide) (by decide) (Only.rfl' _ x))

/-- One output of a batch. -/
theorem batchOut (h : Tells a s) (o : COut) : Tells a (batchOut o s) := by
  cases o with
  | report t n => exact Tells.tryReport (h.modTstep t _) t n
  | drawSelf t n => exact h.drawStep t n 1 none
  | failUp t n reason =>
    exact h.of_only (failOut_only t n reason _ (by decide) (by decide) (by decide) (by decide) (by decide) (by decide) (by decide) (by decide)
      (by decide) (by decide) (by decide) (by decide) (Only.rfl' _ s))
  | portEn p on => exact h.portEnable p on
  | stress d => exact if_ok (Tells.modErr (h.saveDie d) _) h
  | sweep d => exact if_ok (Tells.modDie (h.saveDie d) d _) h
  | clock d k => exact if_ok h (h.of_cel rfl rfl)
  | governor l => exact Tells.of_only (h.modPwr _ rfl) (drainQueue_only (by decide) (by decide) (Only.rfl' _ _))
  | retire u => exact h.of_only (setRetire_only 4 u (by decide) (Only.rfl' _ s))
  | _ => exact h
theorem batch (h : Tells a s) (l : List COut) : Tells a (Machine.forS l Machine.batchOut s) := h.forS fun o _ hx => hx.batchOut o

/-! ## A strobe's outputs (R425, R445, R451, R510) -/

theorem failPolicy (h : Tells a s) (t : Nat) : Tells a (failPolicy t s) := by
  unfold Machine.failPolicy
  split
  · exact h.failStep _ _ _
  · exact h
theorem reported (h : Tells a s) (c : PendCommit) (res off : Nat) : Tells a (reportCommit c res off s) :=
  h.of_only (reportCommit_only c res off (by decide) (Only.rfl' _ s))

/-- The commits of a format table before the owner's own take effect. -/
theorem flushFmt (h : Tells a s) (n : Nat) : Tells a (flushFmt n s) := by
  refine forS_holds (Tells a) (fun c mem x hx => ?_) (h.modGrp _)
  have grp : c.grp = .fmt := by
    have fits := (List.mem_filter.mp mem).2
    simp only [Bool.and_eq_true, decide_eq_true_eq] at fits
    exact fits.1
  unfold runCommit
  split
  · exact hx.reported _ _ _
  · split
    · exact hx.reported _ _ _
    · next o _ _ _ =>
      have effect : commitEffect c o none x = fmtApply o c x := by simp only [commitEffect, grp]
      rw [effect]
      exact Tells.reported (hx.of_only (fmtApply_only o c (by decide) (by decide) (Only.rfl' _ x))) _ _ _
theorem install (h : Tells a s) (typ n src : Nat) (b : List Byte) : Tells a (install typ n src b s) := by
  have named := (h.modPol (fun p => { p with tables := Map.upd {} p.tables (typ * 16 + n) (fun x =>
    { loaded := true, source := src, gen := (x.gen + 1) % 65536, body := b }) })).recorded
  unfold Machine.install
  dsimp only
  refine if_ok ((named _ _ _).of_only (setFormat_only n b (by decide) (by decide) (Only.rfl' _ _))) (if_ok ?_
    (if_ok ((named _ _ _).of_only (smFix_only (by decide) (Only.rfl' _ _))) (named _ _ _)))
  have planned := fun c u d c' u' d' f => Tells.modDie (Tells.recorded (named c u d) c' u' d') n f
  exact if_ok (Tells.modDie (planned _ _ _ _ _ _ _) n _) (planned _ _ _ _ _ _ _)
theorem fwTable (h : Tells a s) (typ num : Nat) (image : List Byte) : Tells a (fwTable typ num image s) := by
  have flushed : Tells a (if typ = 1 then Machine.flushFmt num s else s) := if_ok (h.flushFmt num) h
  exact if_ok (flushed.stage _) (if_ok (flushed.install _ _ _ _) flushed)

theorem setPwr (h : Tells a s) (st : PowerSt) : Tells a (setPwr st s) :=
  if_ok h (Tells.of_only (h.modPwr (fun p => { p with st := st }) rfl) ((noteAll_frame _ _ _ _).mono (by decide)))
theorem capAction (h : Tells a s) (c : Option Nat) : Tells a (capAction c s) :=
  if_ok (h.modPwr _ rfl) (if_ok (Tells.setPwr (h.modPwr _ rfl) _) h)
theorem powerReq (h : Tells a s) (req : Nat) : Tells a (powerReq req s) := by
  have starts : ∀ k, Tells a (if reqResult s req = 1 then Machine.modPwr (fun p => { p with trans := k }) s else s) :=
    fun k => if_ok (h.modPwr _ rfl) h
  exact Tells.modPwr (starts _) (fun p => { p with reqStatus := reqResult s req }) rfl
theorem smPower (h : Tells a s) (req det : Nat) : Tells a (smPower req det s) :=
  if_ok (Tells.modPwr (h.recorded _ _ _) _ rfl) (h.powerReq req)

end Tells

end Sys2Proof.Machine
end

section
/-!
The control cycle of the owner: freeze, image, strobe, batch (R423 to R428, R433, R436, R437 of 11; R628, R629 of 18).
-/
namespace Sys2Proof.Machine

/-! ## What a strobe's outputs leave of the owner's state -/

/-- The owner's state beside its messages, its stage and the standby's: what an output that takes effect at the owner leaves. -/
def Cel.offPair (c : Cel) : Cel :=
  { c with
    up := [], staged := [], ca := 0, cb := 0, imageGot := false, imageAcked := false, solo := false, switchReq := false, stale := none,
    coldReset := false }

theorem offPair_off (c : Cel) : c.off.offPair = c.offPair := rfl

/-- What an output that takes effect at the owner changes of it: its messages, its stage and the standby's state. -/
structure Applies (a s : State) : Prop where
  rest : s.cel.offPair = a.cel.offPair
  clamp : s.pwr.clamp = a.pwr.clamp

theorem Tells.applies {a s : State} (h : Tells a s) : Applies a s :=
  ⟨by rw [← offPair_off, h.rest, offPair_off], h.clamp⟩
theorem Applies.trans {a s u : State} (h : Applies a s) (k : Applies s u) : Applies a u := ⟨k.rest.trans h.rest, k.clamp.trans h.clamp⟩
theorem Applies.refl (s : State) : Applies s s := ⟨rfl, rfl⟩

theorem setDie_offPair (d st : Nat) (s : State) : (setDie d st s).cel.offPair = s.cel.offPair := by
  unfold setDie modCel
  dsimp only
  split <;> rfl

theorem restartStandby_applies (s : State) : Applies s (restartStandby s) := by
  unfold restartStandby
  split
  · exact Applies.refl s
  · refine ⟨?_, congrArg Pwr.clamp (modCel_only _ (by decide) (setDie_only (fr := [.cel]) _ _ (by decide)
      (ite_only (saveStale_only (by decide) (Only.rfl' _ s)) (Only.rfl' _ s))) .pwr (by decide))⟩
    refine (setDie_offPair _ _ _).trans ?_
    split <;> rfl

/-- One output that takes effect at the owner. -/
theorem applyOut_applies (o : COut) (s : State) : Applies s (applyOut o s) := by
  have none := Tells.refl s
  cases o with
  | volt d mv => exact (Tells.if_ok none (none.modDie d _)).applies
  | power req det => exact (none.smPower req det).applies
  | fwCap c => exact (none.capAction c).applies
  | interval v => exact ⟨rfl, rfl⟩
  | closeOut => exact (Tells.if_ok ((none.modPwr _ rfl).setPwr .standby) none).applies
  | frame k d st b => exact (none.of_only (emitFrame_only k d st b (by decide) (by decide) (by decide) (Only.rfl' _ s))).applies
  | ntp server st b =>
    cases st with
    | none => exact ⟨rfl, rfl⟩
    | some i => exact ⟨rfl, rfl⟩
  | resetLine => exact (Tells.if_ok none (none.of_only (complexReset_only (by decide) (by decide) (by decide) (by decide) (Only.rfl' _ s)))).applies
  | table typ num image => exact (none.fwTable typ num image).applies
  | recd r => exact (none.of_only (addRec_only r (by decide) (Only.rfl' _ s))).applies
  | restart => exact restartStandby_applies s
  | failPol t => exact (none.failPolicy t).applies
  | _ => exact ⟨rfl, rfl⟩

theorem applyOuts_applies (l : List COut) (s : State) : Applies s (forS l applyOut s) :=
  forS_holds (Applies s) (fun o _ _ hx => hx.trans (applyOut_applies o _)) (Applies.refl s)

theorem coldLine_applies (s : State) : Applies s (coldLine s) := by
  unfold coldLine
  split
  · have fences := faultReport_fences (src := 0x10) (cls := 3) (unit := 0x13) (tens := activeTens s) (Nat.le_refl 3)
      (modCel (fun c => { c with coldReset := false }) s)
    have line : Only [.mem, .pln, .cor, .err] _ (complexReset (faultReport 0x10 3 0x13 0xFF (activeTens s)
      (modCel (fun c => { c with coldReset := false }) s))) := complexReset_only (by decide) (by decide) (by decide) (by decide) (Only.rfl' _ _)
    refine ⟨?_, ?_⟩
    · rw [line .cel (by decide), fences.cel]
      rfl
    · rw [line .pwr (by decide), fences.pwr]
      rfl
  · exact Applies.refl s

/-! ## The commits of a strobe (R61, R451, R510) -/

theorem Tells.strobeOne {a s : State} (h : Tells a s) (c : PendCommit) : Tells a (strobeOne c s) := by
  have peers : Tells a (celSvcApply (c.obj.getD 0) c s) := by
    have set : Tells a (Machine.modPol (fun p => { p with peers := Map.del p.peers (c.obj.getD 0) }) (csetAll .celSvc (c.obj.getD 0) c.snap s)) :=
      (h.of_only (csetAll_only _ _ _ (by decide) (Only.rfl' _ s))).modPol _
    exact if_ok (set.wiltLeave 3 _) set
  have power : Tells a (pwrApply c s) := by
    have set : Tells a (csetAll .pwr 0 c.snap s) := h.of_only (csetAll_only _ _ _ (by decide) (Only.rfl' _ s))
    refine Tells.of_only ?_ (smFix_only (by decide) (Only.rfl' _ _))
    refine if_ok set (Tells.modPwr ?_ _ rfl)
    split
    · exact set.of_only (addRec_only _ (by decide) (Only.rfl' _ _))
    · exact set
  have desk : Tells a (smFix (csetAll .cel 0 c.snap s)) :=
    h.of_only (smFix_only (by decide) (csetAll_only _ _ _ (by decide) (Only.rfl' _ s)))
  unfold Machine.strobeOne
  dsimp only
  split
  · exact h.reported _ _ _
  · refine Tells.reported ?_ _ _ _
    split
    · exact desk
    · exact peers
    · exact power
theorem Tells.strobeCommits {a s : State} (h : Tells a s) : Tells a (strobeCommits s) := by
  refine h.forS fun _ x hx => ?_
  split
  · exact hx
  · split
    · exact Tells.strobeOne (hx.modGrp _) _
    · exact hx

/-- What a strobe does between its batch and its count: commits, the boundaries' trigger, the reset's late release, the book. -/
def strobeRest (s : State) : State := commitKept (commitBook (lateRelease (armBoundary (strobeCommits s))))

theorem strobeRest_tells (s : State) : Tells s (strobeRest s) := by
  have armed : Tells s (armBoundary (strobeCommits s)) := by
    have committed := (Tells.refl s).strobeCommits
    exact Tells.if_ok (Tells.if_ok committed (committed.of_cel rfl rfl)) (committed.of_cel rfl rfl)
  exact armed.of_only (commitKept_only (by decide) (by decide) (commitBook_only (by decide)
    (lateRelease_only (by decide) (by decide) (by decide) (by decide) (by decide) (by decide) (by decide) (Only.rfl' _ _))))

/-! ## The strobe of a frozen cycle, in its parts (R425) -/

/-- The outputs that the freeze closed. -/
def strobeOuts (s : State) : List COut := (checkAck s).cel.staged.take (checkAck s).cel.closed
/-- The cycle is closed: what it took leaves the queue, what it staged is taken. -/
def strobeClosed (s : State) : State :=
  modPol (fun p => { p with notices := [], ntpIn := none, ibis := [] }) (modCel (fun c => { c with
    staged := c.staged.drop c.closed, closed := 0, frozen := false, up := c.up.diff c.taken, upSeq := c.upSeq + c.taken.length, taken := [],
    overRow := 0 }) (checkAck s))
/-- Its outputs have taken effect at the owner. -/
def strobeApplied (s : State) : State := forS (failsFirst (strobeOuts s)) applyOut (coldLine (strobeClosed s))
/-- The outputs of the batch. -/
def strobeBatch (s : State) : List COut := (strobeOuts s).filter (emitted (strobeApplied s))
/-- The batch has left. -/
def strobeSent (s : State) : State := storeImage (strobeBatch s) (sendBatch (strobeBatch s) (strobeApplied s))
/-- The cycle has its number. -/
def strobeCounted (s : State) : State :=
  modCel (fun c => { c with strobeTick := some s.tick, cycle := c.cycle + 1, firstCycle := true }) (strobeRest (strobeSent s))

theorem commitCycle_eq (s : State) : commitCycle s = plannedSwitch (strobeCounted s) := rfl

theorem exec_commitStrobe {s : State} (frost : s.dbg.frost = 0) (owns : ownerOn s = true) (frozen : s.cel.frozen = true) :
    exec .commitStrobe s = .next (plannedSwitch (strobeCounted s)) := by
  refine (clocked_running frost _).trans (congrArg Host.Outcome.next ?_)
  rw [if_neg (by simp [owns]), if_pos frozen, commitCycle_eq]

theorem setDie_staged (d st : Nat) (s : State) : (setDie d st s).cel.staged = s.cel.staged := by
  unfold setDie modCel
  dsimp only
  split <;> rfl

theorem standbyLost_cel (s : State) : (standbyLost s).cel.offPair = s.cel.offPair ∧ (standbyLost s).cel.staged = s.cel.staged := by
  unfold standbyLost
  split
  · exact ⟨rfl, rfl⟩
  · next d _ =>
    split
    · exact ⟨rfl, rfl⟩
    · generalize saved : (if dieState s d = 4 then saveStale s else s) = x
      have kept : x.cel.offPair = s.cel.offPair ∧ x.cel.staged = s.cel.staged := by
        rw [← saved]
        split <;> exact ⟨rfl, rfl⟩
      have told := record_frame 0x0B02 0 0 (modCel (fun c => { c with solo := true }) (setDie d 2 x)) .cel (by decide)
      exact ⟨(congrArg Cel.offPair told).trans ((setDie_offPair d 2 x).trans kept.1),
        (congrArg Cel.staged told).trans ((setDie_staged d 2 x).trans kept.2)⟩

/-- The judging of the acknowledgement leaves the cycle's own work. -/
theorem checkAck_cel (s : State) : (checkAck s).cel.offPair = s.cel.offPair ∧ (checkAck s).cel.staged = s.cel.staged := by
  unfold checkAck
  split
  · exact standbyLost_cel s
  · split <;> exact ⟨rfl, rfl⟩
theorem checkAck_frame (s : State) : Only [.cel, .book] s (checkAck s) := checkAck_only (by decide) (by decide) (Only.rfl' _ s)
/-- An image acknowledged, or no standby to do so: only what the standby holds may be kept. -/
theorem checkAck_acked {s : State} (acked : synced s = true → s.cel.imageAcked = true) :
    ∃ x, checkAck s = modCel (fun c => { c with stale := x }) s := by
  unfold checkAck
  rw [if_neg fun h => h.2 (acked h.1)]
  split
  · exact ⟨s.cel.stale, rfl⟩
  · exact ⟨_, rfl⟩

theorem strobeOuts_eq (s : State) : strobeOuts s = s.cel.staged.take s.cel.closed := by
  obtain ⟨rest, staged⟩ := checkAck_cel s
  have closed : (checkAck s).cel.closed = s.cel.closed := (congrArg Cel.closed rest :)
  rw [strobeOuts, staged, closed]

/-- The batch that a strobe sends. -/
def strobeSends (s : State) : Batch := ⟨s.cel.cycle + 1, strobeBatch s, s.cel.own⟩

theorem strobeApplied_applies (s : State) : Applies (strobeClosed s) (strobeApplied s) :=
  (coldLine_applies _).trans (applyOuts_applies _ _)
theorem strobeClosed_clamp (s : State) : (strobeClosed s).pwr.clamp = s.pwr.clamp :=
  congrArg Pwr.clamp (checkAck_frame s .pwr (by decide))

/-- The owner's state once a frozen cycle has its number. -/
theorem strobeCounted_cel (s : State) : (strobeCounted s).cel.offPair =
    { s.cel.offPair with
      closed := 0, frozen := false, upSeq := s.cel.upSeq + s.cel.taken.length, taken := [], overRow := 0,
      batches := s.cel.batches ++ s.cel.again.toList ++ [strobeSends s], unacked := some (strobeSends s), again := none,
      cycle := s.cel.cycle + 1, strobeTick := some s.tick, firstCycle := true } := by
  have closed : (strobeClosed s).cel.offPair = { s.cel.offPair with
      closed := 0, frozen := false, upSeq := s.cel.upSeq + s.cel.taken.length, taken := [], overRow := 0 } :=
    congrArg (fun c : Cel => { c with closed := 0, frozen := false, upSeq := c.upSeq + c.taken.length, taken := [], overRow := 0 })
      (checkAck_cel s).1
  have applied : (strobeApplied s).cel.offPair = _ := (strobeApplied_applies s).rest.trans closed
  have sent : (strobeSent s).cel.offPair = _ := congrArg (fun c : Cel => { c with
    batches := c.batches ++ c.again.toList ++ [(⟨c.cycle + 1, strobeBatch s, c.own⟩ : Batch)],
    unacked := some (⟨c.cycle + 1, strobeBatch s, c.own⟩ : Batch), again := none }) applied
  have rest : (strobeRest (strobeSent s)).cel.offPair = _ := (strobeRest_tells (strobeSent s)).applies.rest.trans sent
  exact congrArg (fun c : Cel => { c with strobeTick := some s.tick, cycle := c.cycle + 1, firstCycle := true }) rest

/-- With no clamp the batch holds every closed output that goes to the IOD. -/
theorem strobeBatch_unclamped {s : State} (free : s.pwr.clamp = false) :
    strobeBatch s = (s.cel.staged.take s.cel.closed).filter inBatch := by
  have clamp : (strobeApplied s).pwr.clamp = false := (strobeApplied_applies s).clamp.trans ((strobeClosed_clamp s).trans free)
  have emits : emitted (strobeApplied s) = inBatch := by
    funext o
    unfold emitted
    rw [clamp]
    cases o <;> rfl
  rw [strobeBatch, strobeOuts_eq, emits]

/-! ## The dies of the pair (R428, R429) -/

theorem setDie_cel (d st : Nat) (s : State) :
    (setDie d st s).cel = { s.cel with ca := if d = 0 then st else s.cel.ca, cb := if d = 0 then s.cel.cb else st } := by
  unfold setDie modCel
  dsimp only
  split <;> rfl
theorem dieState_of_cel {s u : State} (h : u.cel = s.cel) (d : Nat) : dieState u d = dieState s d := by rw [dieState, h, dieState]
/-- The state of a die after a change of one. -/
theorem dieState_setDie (d st q : Nat) (hd : d < 2) (hq : q < 2) (s : State) :
    dieState (setDie d st s) q = if q = d then st else dieState s q := by
  simp only [dieState, setDie_cel]
  by_cases zero : d = 0
  · subst zero
    by_cases own : q = 0
    · simp [own]
    · simp [own]
  · have one : d = 1 := by omega
    subst one
    by_cases own : q = 0
    · simp [own]
    · have : q = 1 := by omega
      simp [this]

/-- OWN moves: no die holds it until the gap ends, and both paths count as heard. -/
theorem moveOwn_cel (new : Nat) (s : State) : (moveOwn new s).cel = { s.cel with
    own := 2, gapTo := some new, ca := if new = 0 then 5 else s.cel.ca, cb := if new = 0 then s.cel.cb else 5,
    linkSilent := false, kaSilent := false, ownLinkSilent := false, ownKaSilent := false,
    linkAt := nowT s, kaAt := nowT s } := by
  have set := setDie_cel new 5 (modCel (fun c => { c with own := 2, gapTo := some new }) s)
  have now : nowT (setDie new 5 (modCel (fun c => { c with own := 2, gapTo := some new }) s)) = nowT s := rfl
  simp only [moveOwn, allHeard, modCel] at set ⊢
  rw [set]
  rfl
theorem dieState_moveOwn (new q : Nat) (hn : new < 2) (hq : q < 2) (s : State) :
    dieState (moveOwn new s) q = if q = new then 5 else dieState s q :=
  dieState_setDie new 5 q hn hq (modCel (fun c => { c with own := 2, gapTo := some new }) s)

/-! ## The planned switchover (R429, R433) -/

/-- A strobe with no switchover asked for, or no SYNCED standby, moves nothing. -/
theorem plannedSwitch_stays {s : State} (h : ¬ (s.cel.switchReq = true ∧ synced s = true)) : plannedSwitch s = s := if_neg h

/-- The state as OWN is about to move at a strobe. -/
def switching (s : State) : State :=
  modCel (fun c => { c with switchReq := false, batches := [], again := unackedBatch (1 - s.cel.own) s }) s

theorem plannedSwitch_moves {s : State} (h : s.cel.switchReq = true ∧ synced s = true) :
    (plannedSwitch s).cel = (setDie s.cel.own 4 (moveOwn (1 - s.cel.own) (switching s))).cel := by
  rw [plannedSwitch, if_pos h]
  exact record_frame _ _ _ _ .cel (by decide)

/-- What a strobe counted stays counted through the switchover. -/
theorem plannedSwitch_cel (s : State) :
    (plannedSwitch s).cel.cycle = s.cel.cycle ∧ (plannedSwitch s).cel.frozen = s.cel.frozen ∧
    (plannedSwitch s).cel.firstCycle = s.cel.firstCycle ∧ (plannedSwitch s).cel.strobeTick = s.cel.strobeTick ∧
    (plannedSwitch s).cel.overRow = s.cel.overRow ∧ (plannedSwitch s).cel.unacked = s.cel.unacked ∧
    ((plannedSwitch s).cel.own = 2 ∨ plannedSwitch s = s) := by
  by_cases h : s.cel.switchReq = true ∧ synced s = true
  · rw [plannedSwitch_moves h, setDie_cel, moveOwn_cel]
    exact ⟨rfl, rfl, rfl, rfl, rfl, rfl, .inl rfl⟩
  · rw [plannedSwitch_stays h]
    exact ⟨rfl, rfl, rfl, rfl, rfl, rfl, .inr rfl⟩

/-! ## The book's commit (R625 to R629) -/

theorem putRec_book (r : Rec) (s : State) :
    (putRec r s).book.head = s.book.head + 1 ∧ (putRec r s).book.waiting = s.book.waiting ∧ (putRec r s).book.hours = s.book.hours ∧
      (putRec r s).book.hoursKept = s.book.hoursKept ∧ (putRec r s).book.hoursDue = true := ⟨rfl, rfl, rfl, rfl, rfl⟩
theorem putRecs_book (l : List Rec) (s : State) :
    (forS l putRec s).book.head = s.book.head + l.length ∧ (forS l putRec s).book.waiting = s.book.waiting ∧
      (forS l putRec s).book.hours = s.book.hours ∧ (forS l putRec s).book.hoursKept = s.book.hoursKept ∧
      (forS l putRec s).book.hoursDue = (s.book.hoursDue || !l.isEmpty) := by
  induction l generalizing s with
  | nil => exact ⟨rfl, rfl, rfl, rfl, by simp [forS_nil]⟩
  | cons r l ih =>
    obtain ⟨head, waiting, hours, kept, due⟩ := ih (putRec r s)
    refine ⟨head.trans ?_, waiting, hours, kept, due.trans ?_⟩
    · rw [(putRec_book r s).1, List.length_cons]
      omega
    · simp [(putRec_book r s).2.2.2.2]

/-- Where none was dropped and at most 64 wait, every waiting record is written. -/
theorem commitBook_all {s : State} (none : s.book.dropped = 0) (few : s.book.waiting.length ≤ 64) :
    (commitBook s).book.head = s.book.head + s.book.waiting.length ∧ (commitBook s).book.waiting = [] ∧
      (commitBook s).book.hours = s.book.hours ∧ (commitBook s).book.hoursKept = s.book.hoursKept ∧
      (commitBook s).book.hoursDue = (s.book.hoursDue || !s.book.waiting.isEmpty) := by
  have all : commitBook s = forS s.book.waiting putRec (modBook (fun b => { b with waiting := [], dropped := 0 }) s) := by
    have drop : s.book.waiting.drop 64 = [] := List.drop_eq_nil_of_le few
    simp only [commitBook, none, if_pos, List.length_nil, Nat.sub_zero, List.nil_append, List.take_of_length_le few, modBook, drop]
  rw [all]
  exact putRecs_book _ _

/-- A strobe that applies no output, commits no group and releases no reset writes the book and the retention array. -/
theorem strobeRest_quiet {s : State} (pend : s.grp.pend = []) (reset : s.err.resetOn = none) :
    ∃ u, strobeRest s = commitKept (commitBook u) ∧ Only [.pwr, .tim] s u := by
  refine ⟨armBoundary s, ?_, armBoundary_only (by decide) (by decide) (Only.rfl' _ s)⟩
  have commits : strobeCommits s = s := by
    rw [strobeCommits, pend]
    rfl
  have err : (armBoundary s).err = s.err := armBoundary_only (fr := [.pwr, .tim]) (by decide) (by decide) (Only.rfl' _ s) .err (by decide)
  have late : lateRelease (armBoundary s) = armBoundary s := if_neg (by rw [err, reset]; simp)
  rw [strobeRest, commits, late]

/-! ## A strobe with nothing staged (R425, R628, R629) -/

section
variable {s : State} (staged : s.cel.staged = []) (cold : s.cel.coldReset = false) (acked : synced s = true → s.cel.imageAcked = true)
include staged cold acked

/-- With nothing staged no output takes effect, and the owner's state changes by the cycle's own count alone. -/
theorem strobeSent_quiet : Only [.cel, .pol, .mram] s (strobeSent s) ∧ (strobeSent s).pol.retained = s.pol.retained ∧
    (∃ x, (strobeSent s).cel.off = { s.cel.off with
      stale := x, closed := 0, frozen := false, upSeq := s.cel.upSeq + s.cel.taken.length, taken := [], overRow := 0,
      batches := s.cel.batches ++ s.cel.again.toList ++ [strobeSends s], unacked := some (strobeSends s), again := none }) := by
  obtain ⟨x, ack⟩ := checkAck_acked acked
  have outs : strobeOuts s = [] := by rw [strobeOuts_eq, staged, List.take_nil]
  have dry : coldLine (strobeClosed s) = strobeClosed s := by
    refine if_neg ?_
    rw [strobeClosed, ack]
    simp [modPol, modCel, cold]
  have applied : strobeApplied s = strobeClosed s := by
    rw [strobeApplied, outs, dry]
    rfl
  have sent : strobeSent s = storeImage (strobeBatch s) (sendBatch (strobeBatch s) (strobeClosed s)) := by rw [strobeSent, applied]
  rw [sent, strobeClosed, ack]
  refine ⟨?_, rfl, x, rfl⟩
  exact modMram_only _ (by decide) (modCel_only _ (by decide) (modPol_only _ (by decide) (modCel_only _ (by decide)
    (modCel_only _ (by decide) (Only.rfl' _ s)))))

/-- The owner's state after such a strobe. -/
theorem strobeCounted_quiet : ∃ x, (strobeCounted s).cel.off = { s.cel.off with
    stale := x, closed := 0, frozen := false, upSeq := s.cel.upSeq + s.cel.taken.length, taken := [], overRow := 0,
    batches := s.cel.batches ++ s.cel.again.toList ++ [strobeSends s], unacked := some (strobeSends s), again := none,
    cycle := s.cel.cycle + 1, strobeTick := some s.tick, firstCycle := true } := by
  obtain ⟨-, -, x, sent⟩ := strobeSent_quiet staged cold acked
  have rest : (strobeRest (strobeSent s)).cel.off = _ := (strobeRest_tells (strobeSent s)).rest.trans sent
  exact ⟨x, congrArg (fun c : Cel => { c with strobeTick := some s.tick, cycle := c.cycle + 1, firstCycle := true }) rest⟩

/-- The book and the retention array after such a strobe, no commit pending and no reset asserted. -/
theorem strobeCounted_keeps (pend : s.grp.pend = []) (reset : s.err.resetOn = none) (none : s.book.dropped = 0)
    (few : s.book.waiting.length ≤ 64) :
    (strobeCounted s).book.head = s.book.head + s.book.waiting.length ∧ (strobeCounted s).book.waiting = [] ∧
    (strobeCounted s).book.hoursKept = (if s.book.hoursDue = true ∨ s.book.waiting ≠ [] then s.book.hours else s.book.hoursKept) ∧
    (strobeCounted s).mram.regs = keptRegs s.regs ∧ (strobeCounted s).mram.retained = s.pol.retained ∧
    (strobeCounted s).mram.bucket = s.rck.bucket := by
  obtain ⟨only, retained, -⟩ := strobeSent_quiet staged cold acked
  obtain ⟨u, rest, same⟩ := strobeRest_quiet (s := strobeSent s) ((congrArg Groups.pend (only .grp (by decide))).trans pend)
    ((congrArg Err.resetOn (only .err (by decide))).trans reset)
  have book : u.book = s.book := (same .book (by decide)).trans (only .book (by decide))
  have written := commitBook_only (fr := [.book]) (by decide) (Only.rfl' _ u)
  obtain ⟨head, waiting, hours, kept, due⟩ := commitBook_all (s := u) (by rw [book, none]) (by rw [book]; exact few)
  rw [book] at head hours kept due
  have counted : (strobeCounted s).book = (commitKept (commitBook u)).book ∧ (strobeCounted s).mram = (commitKept (commitBook u)).mram := by
    rw [strobeCounted, rest]
    exact ⟨rfl, rfl⟩
  have mram : (strobeCounted s).mram = mramNow (commitBook u) := counted.2
  refine ⟨(congrArg Book.head counted.1).trans head, (congrArg Book.waiting counted.1).trans waiting,
    (congrArg Book.hoursKept counted.1).trans ?_, ?_, ?_, ?_⟩
  · change (if (commitBook u).book.hoursDue then (commitBook u).book.hours else (commitBook u).book.hoursKept) = _
    rw [hours, kept, due]
    cases s.book.waiting with
    | nil => simp
    | cons r l => simp
  · rw [mram]
    exact congrArg keptRegs ((written .regs (by decide)).trans ((same .regs (by decide)).trans (only .regs (by decide))))
  · rw [mram]
    exact (congrArg Pol.retained ((written .pol (by decide)).trans (same .pol (by decide)))).trans retained
  · rw [mram]
    exact congrArg Rck.bucket ((written .rck (by decide)).trans ((same .rck (by decide)).trans (only .rck (by decide))))

end

/-! ## The strobe (R425, R426, R429) -/

theorem commitStrobe_commits {s : State} (frost : s.dbg.frost = 0) (owns : ownerOn s = true) (frozen : s.cel.frozen = true) :
    Completes .commitStrobe s (fun u =>
      u.cel.cycle = s.cel.cycle + 1 ∧ u.cel.frozen = false ∧ u.cel.firstCycle = true ∧ u.cel.strobeTick = some s.tick ∧ u.cel.overRow = 0 ∧
      (s.pwr.clamp = false → u.cel.unacked = some ⟨s.cel.cycle + 1, (s.cel.staged.take s.cel.closed).filter inBatch, s.cel.own⟩ ∧
        (u.cel.own = s.cel.own → u.cel.batches = s.cel.batches ++ s.cel.again.toList
          ++ [⟨s.cel.cycle + 1, (s.cel.staged.take s.cel.closed).filter inBatch, s.cel.own⟩])) ∧
      (s.cel.staged = [] → s.cel.coldReset = false → s.grp.pend = [] → (synced s = true → s.cel.imageAcked = true) → s.cel.switchReq = false →
        s.err.resetOn = none → s.book.dropped = 0 → s.book.waiting.length ≤ 64 →
        u.book.head = s.book.head + s.book.waiting.length ∧ u.book.waiting = [] ∧
        u.book.hoursKept = (if s.book.hoursDue = true ∨ s.book.waiting ≠ [] then s.book.hours else s.book.hoursKept) ∧
        u.mram.regs = keptRegs s.regs ∧ u.mram.retained = s.pol.retained ∧ u.mram.bucket = s.rck.bucket)) := by
  have counted := strobeCounted_cel s
  obtain ⟨cycle, thawed, first, tick, row, unacked, own⟩ := plannedSwitch_cel (strobeCounted s)
  refine ⟨_, exec_commitStrobe frost owns frozen, cycle.trans (congrArg Cel.cycle counted :), thawed.trans (congrArg Cel.frozen counted :),
    first.trans (congrArg Cel.firstCycle counted :), tick.trans (congrArg Cel.strobeTick counted :), row.trans (congrArg Cel.overRow counted :),
    fun free => ?_, fun staged cold pend acked still reset none few => ?_⟩
  · have sends : strobeSends s = ⟨s.cel.cycle + 1, (s.cel.staged.take s.cel.closed).filter inBatch, s.cel.own⟩ := by
      rw [strobeSends, strobeBatch_unclamped free]
    rw [← sends]
    refine ⟨unacked.trans (congrArg Cel.unacked counted :), fun same => ?_⟩
    have held : s.cel.own ≠ 2 := by
      simp only [ownerOn, Bool.and_eq_true, decide_eq_true_eq] at owns
      exact owns.1
    rw [own.resolve_left (by rw [same]; exact held)]
    exact (congrArg Cel.batches counted :)
  · obtain ⟨x, quiet⟩ := strobeCounted_quiet staged cold acked
    have req : (strobeCounted s).cel.switchReq = false := (congrArg Cel.switchReq quiet :).trans still
    rw [plannedSwitch_stays (by rw [req]; simp)]
    exact strobeCounted_keeps staged cold acked pend reset none few

theorem commitStrobe_switches {old : Nat} {s : State} (frost : s.dbg.frost = 0) (owns : ownerOn s = true) (frozen : s.cel.frozen = true)
    (staged : s.cel.staged = []) (cold : s.cel.coldReset = false) (own : s.cel.own = old) (low : old < 2) (asked : s.cel.switchReq = true)
    (ready : dieState s (1 - old) = 4) (acked : s.cel.imageAcked = true) :
    Completes .commitStrobe s (fun u =>
      u.cel.own = 2 ∧ u.cel.gapTo = some (1 - old) ∧ dieState u old = 4 ∧ dieState u (1 - old) = 5 ∧ u.cel.switchReq = false ∧
      u.cel.batches = []) := by
  obtain ⟨x, quiet⟩ := strobeCounted_quiet staged cold fun _ => acked
  have ca : (strobeCounted s).cel.ca = s.cel.ca := (congrArg Cel.ca quiet :)
  have cb : (strobeCounted s).cel.cb = s.cel.cb := (congrArg Cel.cb quiet :)
  have dies : ∀ d, dieState (strobeCounted s) d = dieState s d := fun d => by rw [dieState, dieState, ca, cb]
  have mine : (strobeCounted s).cel.own = old := (congrArg Cel.own quiet :).trans own
  have req : (strobeCounted s).cel.switchReq = true ∧ synced (strobeCounted s) = true := by
    refine ⟨(congrArg Cel.switchReq quiet :).trans asked, List.any_eq_true.mpr ⟨1 - old, ?_, by rw [dies, ready]; rfl⟩⟩
    obtain rfl | rfl : old = 0 ∨ old = 1 := by omega
    · simp
    · simp
  have cel := plannedSwitch_moves req
  rw [mine] at cel
  have apart : old ≠ 1 - old := by omega
  refine ⟨_, exec_commitStrobe frost owns frozen, ?_, ?_, ?_, ?_, ?_, ?_⟩
  · rw [cel, setDie_cel, moveOwn_cel]
  · rw [cel, setDie_cel, moveOwn_cel]
  · rw [dieState_of_cel cel, dieState_setDie _ _ _ low low, if_pos rfl]
  · rw [dieState_of_cel cel, dieState_setDie _ _ _ low (by omega), if_neg (Ne.symm apart), dieState_moveOwn _ _ (by omega) (by omega),
      if_pos rfl]
  · rw [cel, setDie_cel, moveOwn_cel]
    rfl
  · rw [cel, setDie_cel, moveOwn_cel]
    rfl

/-! ## The freeze (R423, R424, R652) -/

/-- What the power monitor measured since the last freeze. -/
def metered (power energy dv : Nat) (s : State) : State :=
  modPwr (fun p => { p with power := power, energy := p.energy + energy, volts := dv }) s

theorem exec_cycleFreeze {done : Bool} {power energy dv : Nat} {fw : List FwOut} {s : State} (frost : s.dbg.frost = 0) :
    exec (.cycleFreeze done power energy dv fw) s =
      .next (if ¬ ownerOn (metered power energy dv s) ∨ s.cel.frozen ∨ ¬ done then metered power energy dv s
        else freezeCycle fw (metered power energy dv s)) := clocked_running frost _

theorem stageAll_prefix (acc l : List COut) : acc <+: stageAll acc l := by
  unfold stageAll
  induction l generalizing acc with
  | nil => exact List.prefix_refl acc
  | cons o r ih =>
    refine List.IsPrefix.trans ?_ (ih _)
    dsimp only
    split
    · exact List.prefix_append _ _
    · exact List.prefix_refl acc
theorem stageDiverts_prefix (s : State) (n : Nat) (l : List (Nat × List Byte)) (acc : List COut) : acc <+: (stageDiverts s n l acc).1 := by
  induction n generalizing l acc with
  | zero => exact List.prefix_refl acc
  | succ n ih =>
    cases l with
    | nil => exact List.prefix_refl acc
    | cons x r =>
      simp only [stageDiverts]
      split
      · exact (List.prefix_append _ _).trans (ih _ _)
      · exact List.prefix_refl acc

/-- With no fault message left to act on, the freeze stages after what was staged, and closes all of it. -/
theorem freezeCycle_closes {fw : List FwOut} {s : State} (acted : s.cel.up.filter freshFault = []) :
    ∃ all taken div, freezeCycle fw s = modVnl (fun v => { v with diverts := div }) (modCel (fun c => { c with
      frozen := true, staged := all, closed := all.length, imageGot := false, imageAcked := false, taken := taken }) s) ∧ s.cel.staged <+: all := by
  have idle : actFaults s = s := by
    rw [actFaults, acted]
    rfl
  unfold freezeCycle
  rw [idle]
  refine ⟨_, _, _, rfl, ?_⟩
  simp only [List.append_assoc]
  exact (List.prefix_append _ _).trans ((stageAll_prefix _ _).trans ((stageDiverts_prefix _ _ _ _).trans (List.prefix_append _ _)))

theorem cycleFreeze_closes {power energy dv : Nat} {fw : List FwOut} {s : State} (frost : s.dbg.frost = 0) (owns : ownerOn s = true)
    (open_ : s.cel.frozen = false) (acted : s.cel.up.filter freshFault = []) :
    Completes (.cycleFreeze true power energy dv fw) s (fun u =>
      u.cel.frozen = true ∧ u.cel.closed = u.cel.staged.length ∧ s.cel.staged <+: u.cel.staged ∧ u.cel.up = s.cel.up ∧
      u.cel.imageGot = false ∧ u.cel.imageAcked = false ∧ u.cel.cycle = s.cel.cycle ∧
      u.pwr = { s.pwr with power := power, energy := s.pwr.energy + energy, volts := dv } ∧ Only [.vnl, .cel, .pwr] s u) := by
  obtain ⟨all, taken, div, closes, more⟩ := freezeCycle_closes (fw := fw) (s := metered power energy dv s) acted
  have goes : ¬ (¬ ownerOn (metered power energy dv s) ∨ s.cel.frozen ∨ ¬ true) := by
    have owner : ownerOn (metered power energy dv s) = true := owns
    simp [owner, open_]
  refine ⟨_, (exec_cycleFreeze frost).trans (congrArg Host.Outcome.next ((if_neg goes).trans closes)), rfl, rfl, more, rfl, rfl, rfl, rfl, rfl, ?_⟩
  exact modVnl_only _ (by decide) (modCel_only _ (by decide) (modPwr_only _ (by decide) (Only.rfl' _ s)))

/-! ## A strobe of an unfrozen cycle (R426) -/

theorem exec_overrun {s : State} (frost : s.dbg.frost = 0) (owns : ownerOn s = true) (open_ : s.cel.frozen = false) :
    exec .commitStrobe s = .next (overrun s) := by
  refine (clocked_running frost _).trans (congrArg Host.Outcome.next ?_)
  rw [if_neg (by simp [owns]), if_neg (by simp [open_])]

/-- An overrun as counted. -/
def overrunCounted (due : Bool) (s : State) : State :=
  modCel (fun c => { c with
    overRow := c.overRow + 1, overruns := satAdd 32 c.overruns 1, strobeTick := some s.tick, overAt := if due then some s.tick else c.overAt }) s
/-- An overrun as counted, and noted where its record is due. -/
def overrunNoted (due : Bool) (s : State) : State :=
  if due then record 0x0B0A 0 0 (overrunCounted due s) else overrunCounted due s

theorem overrun_eq (s : State) :
    ∃ due, overrun s = if 3 ≤ (overrunNoted due s).cel.overRow then faultRelease (overrunNoted due s) else overrunNoted due s :=
  ⟨_, rfl⟩
theorem overrunNoted_frame (due : Bool) (s : State) : Only [.book] (overrunCounted due s) (overrunNoted due s) :=
  ite_only (record_frame _ _ _ _) (Only.rfl' _ _)

/-- The overrun is counted; the first two in a row release nothing. -/
theorem overrun_counts {s : State} (few : s.cel.overRow < 2) : ∃ x,
    (overrun s).cel = { s.cel with
      overRow := s.cel.overRow + 1, overruns := satAdd 32 s.cel.overruns 1, strobeTick := some s.tick, overAt := x } ∧
    Only [.cel, .book] s (overrun s) := by
  obtain ⟨due, noted⟩ := overrun_eq s
  have cel : (overrunNoted due s).cel = (overrunCounted due s).cel := overrunNoted_frame due s .cel (by decide)
  have row : ¬ 3 ≤ (overrunNoted due s).cel.overRow := by
    rw [cel]
    exact Nat.not_le.mpr (Nat.succ_lt_succ few)
  rw [noted, if_neg row]
  exact ⟨_, cel, Only.trans (modCel_only _ (by decide) (Only.rfl' _ s)) ((overrunNoted_frame due s).mono (by decide))⟩

/-! ## A batch at the IOD (R425) -/

theorem exec_batchReceive {ok : Bool} {s : State} (frost : s.dbg.frost = 0) : exec (.batchReceive ok) s = .next (takeBatch ok s) :=
  clocked_running frost _

section
variable {b : Batch} {r : List Batch} {s : State} (first : s.cel.batches = b :: r)
include first

theorem takeBatch_drops {ok : Bool} (bad : ok = false ∨ b.die ≠ s.cel.own) :
    takeBatch ok s = { s with cel := { s.cel with batches := r } } := by
  have drops : ¬ ok = true ∨ b.die ≠ s.cel.own := bad.imp (fun h => by simp [h]) id
  simp only [takeBatch, first]
  exact if_pos drops

/-- The batch as an intact one of the owner's is acknowledged; `last` the number of the last batch applied. -/
def acknowledged (b : Batch) (r : List Batch) (last : Option Nat) (s : State) : State :=
  modCel (fun c => { c with
    batches := r, applySilent := false, unacked := if c.unacked.map Batch.cycle = some b.cycle then none else c.unacked, lastApplied := last }) s

variable (mine : b.die = s.cel.own)
include mine

theorem takeBatch_applies (new : ∀ k, s.cel.lastApplied = some k → k < b.cycle) :
    takeBatch true s = forS b.outs batchOut (acknowledged b r (some b.cycle) s) := by
  simp only [takeBatch, first]
  rw [if_neg (by simp [mine])]
  cases last : s.cel.lastApplied with
  | none => simp [modCel, acknowledged]
  | some k => simp [modCel, acknowledged, Nat.not_le.mpr (new k last)]
theorem takeBatch_twice {k : Nat} (last : s.cel.lastApplied = some k) (old : b.cycle ≤ k) :
    takeBatch true s = acknowledged b r (some k) s := by
  simp only [takeBatch, first]
  rw [if_neg (by simp [mine])]
  simp [modCel, acknowledged, last, old]

end

theorem batchReceive_applies {b : Batch} {r : List Batch} {s : State} (frost : s.dbg.frost = 0) (first : s.cel.batches = b :: r)
    (mine : b.die = s.cel.own) (new : ∀ k, s.cel.lastApplied = some k → k < b.cycle) :
    Completes (.batchReceive true) s (fun u => u.cel.lastApplied = some b.cycle ∧ u.cel.batches = r ∧ u.cel.applySilent = false ∧
      (s.cel.unacked.map Batch.cycle = some b.cycle → u.cel.unacked = none)) := by
  have rest := ((Tells.refl (acknowledged b r (some b.cycle) s)).batch b.outs).rest
  refine ⟨_, (exec_batchReceive frost).trans (congrArg _ (takeBatch_applies first mine new)), (congrArg Cel.lastApplied rest :),
    (congrArg Cel.batches rest :), (congrArg Cel.applySilent rest :), fun named => (congrArg Cel.unacked rest :).trans (if_pos named)⟩

/-- NO_BATCH_TIMEOUT runs the fault path of source 0x0F. -/
theorem noBatch_fences {s : State} (frost : s.dbg.frost = 0) (heard : s.cel.applySilent = false) :
    Completes .noBatchTimeout s (fun u => u.cel.applySilent = true ∧ u.err.fence = true ∧
      u.err.resetPend = (if s.err.resetOn.isSome then s.err.resetPend else some (s.err.resetPend.getD 0x0F)) ∧ u.cor.launches = []) := by
  have fences := faultAll_fences (src := 0x0F) (unit := 0xFF) (cls := 3) (by decide) (Nat.le_refl 3)
    (modCel (fun c => { c with applySilent := true }) s)
  refine ⟨_, (clocked_running frost _).trans (congrArg Host.Outcome.next (if_neg (by simp [heard]))), ?_, fences.fence, fences.pend, fences.launches⟩
  rw [fences.cel]
  rfl

/-- Settles O52: the freeze is `freezeCycle_closes`, the strobe `commitStrobe_commits` and `commitStrobe_switches`, an overrun
`overrun_counts`; a batch is acknowledged, and its outputs leave the owner's state (`Tells.batch`). -/
theorem theControlCycle : Obligations.TheControlCycle := by
  refine ⟨fun done power energy dv fw s frost waits => ?_, fun power energy dv fw s => cycleFreeze_closes, fun s frost frozen standby => ?_,
    fun s => ?_, fun s frost got => (clocked_running frost _).trans (congrArg Host.Outcome.next (if_pos got)), fun s => commitStrobe_commits,
    fun old s => commitStrobe_switches, fun s frost owns open_ few => ?_, fun b r ok s frost first bad => ?_, fun b r s => batchReceive_applies,
    fun b r k s frost first mine last old => ?_, fun s => noBatch_fences,
    fun s frost owned => (clocked_running frost _).trans (congrArg Host.Outcome.next (if_neg owned))⟩
  · have stays : ¬ ownerOn (metered power energy dv s) ∨ s.cel.frozen ∨ ¬ done = true := by
      obtain off | frozen | early := waits
      · have idle : ownerOn (metered power energy dv s) = false := off
        exact .inl (by simp [idle])
      · exact .inr (.inl frozen)
      · exact .inr (.inr (by simp [early]))
    exact (exec_cycleFreeze frost).trans (congrArg Host.Outcome.next (if_pos stays))
  · exact (clocked_running frost _).trans (congrArg Host.Outcome.next (if_pos ⟨frozen, standby, rfl⟩))
  · have bad : ¬ (s.cel.frozen = true ∧ (standbyDie s).isSome = true ∧ false = true) := by simp
    exact (congrArg (clocked s) (congrArg Host.Outcome.next (if_neg bad))).trans (ite_self _)
  · obtain ⟨x, cel, frame⟩ := overrun_counts few
    refine ⟨_, exec_overrun frost owns open_, by rw [cel], by rw [cel], by rw [cel], by rw [cel], by rw [cel], by rw [cel], frame⟩
  · exact (exec_batchReceive frost).trans (congrArg _ (takeBatch_drops first bad))
  · exact ⟨_, (exec_batchReceive frost).trans (congrArg _ (takeBatch_twice first mine last old)), rfl, rfl, modCel_only _ (by decide) (Only.rfl' _ s)⟩

end Sys2Proof.Machine
end

section
/-!
The Cellarer pair: switchover, takeover, release and grant of OWN (R429 to R436 of 11, R638 of 18).
-/
namespace Sys2Proof.Machine

/-! ## Which die a search finds -/

theorem find_die {p : Nat → Bool} {d : Nat} (low : d < 2) (own : p d = true) (other : p (1 - d) = false) : [0, 1].find? p = some d := by
  obtain rfl | rfl : d = 0 ∨ d = 1 := by omega
  · simp [own]
  · have zero : p 0 = false := other
    simp [zero, own]

theorem standbyDie_spec {s : State} {d : Nat} (h : standbyDie s = some d) : d < 2 ∧ 2 ≤ dieState s d ∧ dieState s d ≤ 4 := by
  have mem := List.mem_of_find?_eq_some h
  have fits := List.find?_some h
  simp only [Bool.and_eq_true, decide_eq_true_eq] at fits
  refine ⟨?_, fits⟩
  simp only [List.mem_cons, List.not_mem_nil, or_false] at mem
  omega

theorem standbyDie_of_cel {s u : State} (h : ∀ d, dieState u d = dieState s d) : standbyDie u = standbyDie s := by
  simp only [standbyDie, h]

/-! ## A takeover (R430, R434, R435, R527, R638) -/

@[simp] theorem record_head (code subject detail : Nat) (s : State) : (record code subject detail s).book.head = s.book.head := by
  unfold record addRec
  split <;> rfl

/-- After a takeover the new owner's die runs and the old one's is held. -/
theorem dieState_taken {new q : Nat} {s x : State} (ca : x.cel.ca = (setDie (1 - new) 6 s).cel.ca) (cb : x.cel.cb = (setDie (1 - new) 6 s).cel.cb)
    (hn : new < 2) (hq : q < 2) : dieState (moveOwn new x) q = if q = new then 5 else 6 := by
  rw [dieState_moveOwn new q hn hq]
  by_cases own : q = new
  · rw [if_pos own, if_pos own]
  · have other : q = 1 - new := by omega
    have same : dieState x q = dieState (setDie (1 - new) 6 s) q := by rw [dieState, ca, cb, dieState]
    rw [if_neg own, if_neg own, same, dieState_setDie _ _ _ (by omega) hq, if_pos other]

/-- The state of a hot takeover before OWN moves. -/
def hotReady (new : Nat) (s : State) : State :=
  modTim (fun x => { x with txq := [] }) (modCel (fun c => { c with
    frozen := false, closed := 0, taken := [], staged := c.staged.filter survives, batches := [], again := unackedBatch new s, imageGot := false,
    imageAcked := false, overRow := 0, switchReq := false, solo := true, hot := satAdd 16 c.hot 1 }) (setDie (1 - new) 6 s))

theorem hotTakeover_moves (new : Nat) (s : State) : Only [.book] (moveOwn new (hotReady new s)) (hotTakeover new s) := record_frame _ _ _ _
theorem hotTakeover_cel (new : Nat) (s : State) : (hotTakeover new s).cel = (moveOwn new (hotReady new s)).cel :=
  hotTakeover_moves new s .cel (by decide)
theorem hotTakeover_frame (new : Nat) (s : State) : Only [.cel, .tim, .book] s (hotTakeover new s) :=
  hotTakeover_only new (by decide) (by decide) (by decide) (Only.rfl' _ s)
theorem dieState_hotTakeover {new q : Nat} (s : State) (hn : new < 2) (hq : q < 2) :
    dieState (hotTakeover new s) q = if q = new then 5 else 6 :=
  (dieState_of_cel (hotTakeover_cel new s) q).trans (dieState_taken rfl rfl hn hq)
theorem hotReady_cel (new : Nat) (s : State) :
    (hotReady new s).cel.hot = satAdd 16 s.cel.hot 1 ∧ (hotReady new s).cel.cycle = s.cel.cycle := by
  have cel := setDie_offPair (1 - new) 6 s
  exact ⟨(congrArg (fun c : Cel => satAdd 16 c.hot 1) cel :), (congrArg Cel.cycle cel :)⟩

/-- The state of a cold takeover with the copy that the new owner's die holds. -/
def coldCopied (new : Nat) (s : State) : State :=
  match s.cel.stale with
  | none => setDie (1 - new) 6 s
  | some x =>
    modVnl (fun v => { v with memoLinks := x.mram.memoLinks, memoRoutes := x.mram.memoRoutes }) (keysOf x.sec
      (modBoot (bootKept x.mram)
        (modPwr (fun p => { p with fwCap := x.fwCap, interval := x.interval })
          { setDie (1 - new) 6 s with
            book := x.book, regs := regsKept x.mram (setDie (1 - new) 6 s).regs, pol := { x.pol with retained := x.mram.retained }, mram := x.mram,
            cel := { (setDie (1 - new) 6 s).cel with
              cycle := max (((newestImage x.mram).map Image.cycle).getD 0) ((setDie (1 - new) 6 s).cel.lastApplied.getD 0) } })))
/-- The head of the book as that copy holds it. -/
def staleHead (s : State) : Nat := match s.cel.stale with | some x => x.book.head | none => s.book.head

theorem coldCopied_spec (new : Nat) (s : State) :
    (coldCopied new s).book.head = staleHead s ∧ (coldCopied new s).cel.cold = s.cel.cold ∧
      (coldCopied new s).cel.ca = (setDie (1 - new) 6 s).cel.ca ∧ (coldCopied new s).cel.cb = (setDie (1 - new) 6 s).cel.cb := by
  have cold : (setDie (1 - new) 6 s).cel.cold = s.cel.cold := (congrArg Cel.cold (setDie_offPair (1 - new) 6 s) :)
  unfold coldCopied staleHead
  cases s.cel.stale with
  | none => exact ⟨rfl, cold, rfl, rfl⟩
  | some x => exact ⟨rfl, cold, rfl, rfl⟩

/-- The state of a cold takeover before OWN moves. -/
def coldReady (new : Nat) (s : State) : State :=
  modTim (fun x => { x with txq := [] }) (countReported (modCel (fun c => { c with
    frozen := false, closed := 0, taken := [], staged := c.staged.filter survives, batches := [], unacked := none, again := none,
    imageGot := false, imageAcked := false, overRow := 0, switchReq := false, solo := true, stale := none, coldReset := true,
    cold := satAdd 16 c.cold 1 })
    (modBook (fun b => { b with head := ((coldCopied new s).book.head / 2 ^ 40 + 1) * 2 ^ 40, waiting := [] }) (coldCopied new s))))

theorem coldTakeover_eq (new : Nat) (s : State) : coldTakeover new s =
    record 0x0B00 0 (new + 2) (record 0x1204 0 (coldCopied new s).book.head (moveOwn new (coldReady new s))) := by
  unfold coldTakeover coldReady coldCopied
  cases s.cel.stale <;> rfl

theorem coldTakeover_moves (new : Nat) (s : State) : Only [.book] (moveOwn new (coldReady new s)) (coldTakeover new s) := by
  rw [coldTakeover_eq]
  exact (record_frame _ _ _ _).trans (record_frame _ _ _ _)
theorem coldTakeover_cel (new : Nat) (s : State) : (coldTakeover new s).cel = (moveOwn new (coldReady new s)).cel :=
  coldTakeover_moves new s .cel (by decide)
theorem coldTakeover_head (new : Nat) (s : State) : (coldTakeover new s).book.head = (staleHead s / 2 ^ 40 + 1) * 2 ^ 40 := by
  rw [coldTakeover_eq, record_head, record_head]
  exact congrArg (fun h => (h / 2 ^ 40 + 1) * 2 ^ 40) (coldCopied_spec new s).1
theorem dieState_coldTakeover {new q : Nat} (s : State) (hn : new < 2) (hq : q < 2) :
    dieState (coldTakeover new s) q = if q = new then 5 else 6 :=
  (dieState_of_cel (coldTakeover_cel new s) q).trans
    (dieState_taken (coldCopied_spec new s).2.2.1 (coldCopied_spec new s).2.2.2 hn hq)
theorem coldTakeover_frame (new : Nat) (s : State) :
    Only [.regs, .mram, .vnl, .stp, .cel, .pol, .pwr, .tim, .sec, .boot, .book] s (coldTakeover new s) :=
  coldTakeover_only new (by decide) (by decide) (by decide) (by decide) (by decide) (by decide) (by decide) (by decide) (by decide) (by decide)
    (by decide) (Only.rfl' _ s)

/-! ## Silent paths (R433 to R436) -/

theorem exec_pathSilence {owner ka : Bool} {s : State} (frost : s.dbg.frost = 0) :
    exec (.pathSilence owner ka) s = .next (if owner then standbySilent ka s else ownerSilent ka s) := clocked_running frost _

/-- Both paths silent: the standby takes over, hot when SYNCED, else cold. -/
theorem ownerSilent_takes {ka : Bool} {d : Nat} {s : State} (standby : standbyDie s = some d)
    (both : (if ka then s.cel.linkSilent else s.cel.kaSilent) = true) :
    ownerSilent ka s = if dieState s d = 4 then hotTakeover d s else coldTakeover d s := by
  simp only [ownerSilent, standby]
  exact if_pos both

theorem pathSilence_takes {ka : Bool} {d : Nat} {s : State} (frost : s.dbg.frost = 0) (standby : standbyDie s = some d)
    (both : (if ka then s.cel.linkSilent else s.cel.kaSilent) = true) :
    Completes (.pathSilence false ka) s (fun u =>
      u.cel.own = 2 ∧ u.cel.gapTo = some d ∧ dieState u d = 5 ∧ dieState u (1 - d) = 6 ∧ u.cel.frozen = false ∧ u.cel.batches = [] ∧ u.tim.txq = [] ∧
      (dieState s d = 4 → u.cel.hot = satAdd 16 s.cel.hot 1 ∧ u.cel.again = unackedBatch d s ∧ u.cel.cycle = s.cel.cycle) ∧
      (dieState s d ≠ 4 → u.cel.cold = satAdd 16 s.cel.cold 1 ∧ u.cel.coldReset = true ∧ u.cel.unacked = none ∧
        u.book.head = (staleHead s / 2 ^ 40 + 1) * 2 ^ 40) ∧
      Only [.regs, .mram, .vnl, .stp, .cel, .pol, .pwr, .tim, .sec, .boot, .book] s u) := by
  obtain ⟨low, -⟩ := standbyDie_spec standby
  have apart : 1 - d ≠ d := by omega
  have runs := (exec_pathSilence (owner := false) (ka := ka) frost).trans (congrArg Host.Outcome.next (ownerSilent_takes standby both))
  by_cases ready : dieState s d = 4
  · rw [if_pos ready] at runs
    have cel := (hotTakeover_cel d s).trans (moveOwn_cel d (hotReady d s))
    obtain ⟨hot, cycle⟩ := hotReady_cel d s
    refine ⟨_, runs, by rw [cel], by rw [cel], (dieState_hotTakeover s low low).trans (if_pos rfl),
      (dieState_hotTakeover s low (by omega)).trans (if_neg apart), by rw [cel]; rfl, by rw [cel]; rfl,
      congrArg Tim.txq (hotTakeover_moves d s .tim (by decide)), fun _ => ⟨by rw [cel]; exact hot, by rw [cel]; rfl, by rw [cel]; exact cycle⟩,
      fun h => absurd ready h, (hotTakeover_frame d s).mono (by decide)⟩
  · rw [if_neg ready] at runs
    have cel := (coldTakeover_cel d s).trans (moveOwn_cel d (coldReady d s))
    have cold := congrArg (satAdd 16 · 1) (coldCopied_spec d s).2.1
    refine ⟨_, runs, by rw [cel], by rw [cel], (dieState_coldTakeover s low low).trans (if_pos rfl),
      (dieState_coldTakeover s low (by omega)).trans (if_neg apart), by rw [cel]; rfl, by rw [cel]; rfl,
      congrArg Tim.txq (coldTakeover_moves d s .tim (by decide)), fun h => absurd h ready,
      fun _ => ⟨by rw [cel]; exact cold, by rw [cel]; rfl, by rw [cel]; rfl, coldTakeover_head d s⟩, coldTakeover_frame d s⟩

theorem pairAlarm_frame (owner ka : Bool) (s : State) : Only [.book] s (pairAlarm owner ka s) := record_frame _ _ _ s

theorem pathSilence_alarms {ka : Bool} {d : Nat} {s : State} (frost : s.dbg.frost = 0) (standby : standbyDie s = some d)
    (link : s.cel.linkSilent = false) (keep : s.cel.kaSilent = false) :
    Completes (.pathSilence false ka) s (fun u => u.cel.linkSilent = !ka ∧ u.cel.kaSilent = ka ∧ u.cel.own = s.cel.own ∧ Only [.cel, .book] s u) := by
  have alarms : ownerSilent ka s =
      pairAlarm false ka (modCel (fun c => if ka then { c with kaSilent := true } else { c with linkSilent := true }) s) := by
    simp [ownerSilent, standby, link, keep]
  have told := pairAlarm_frame false ka (modCel (fun c => if ka then { c with kaSilent := true } else { c with linkSilent := true }) s)
  refine ⟨_, (exec_pathSilence (owner := false) frost).trans (congrArg _ alarms), ?_, ?_, ?_,
    Only.trans (modCel_only _ (by decide) (Only.rfl' _ s)) (told.mono (by decide))⟩
  · rw [told .cel (by decide)]
    cases ka
    · rfl
    · exact link
  · rw [told .cel (by decide)]
    cases ka
    · exact keep
    · rfl
  · rw [told .cel (by decide)]
    cases ka <;> rfl

/-! ## The owner's watch of its standby (R436) -/

/-- A path of the standby silent, as the owner finds it. -/
def ownerPath (ka : Bool) (s : State) : State :=
  modCel (fun c => if ka then { c with ownKaSilent := true } else { c with ownLinkSilent := true }) s

theorem ownerPath_marks (ka : Bool) (s : State) :
    (if ka then (ownerPath ka s).cel.ownKaSilent else (ownerPath ka s).cel.ownLinkSilent) = true := by cases ka <;> rfl
theorem ownerPath_own (ka : Bool) (s : State) : (ownerPath ka s).cel.own = s.cel.own := by cases ka <;> rfl
theorem dieState_ownerPath (ka : Bool) (s : State) (d : Nat) : dieState (ownerPath ka s) d = dieState s d := by cases ka <;> rfl
theorem ownerPath_frame (ka : Bool) (s : State) : Only [.cel] s (ownerPath ka s) := modCel_only _ (by decide) (Only.rfl' _ s)

/-- A standby lost is UNSYNC; the owner and the paths' marks stay. -/
theorem standbyLost_unsyncs {d : Nat} {s : State} (standby : standbyDie s = some d) :
    dieState (standbyLost s) d = 2 ∧ (standbyLost s).cel.own = s.cel.own ∧ (standbyLost s).cel.ownKaSilent = s.cel.ownKaSilent ∧
      (standbyLost s).cel.ownLinkSilent = s.cel.ownLinkSilent := by
  obtain ⟨low, -⟩ := standbyDie_spec standby
  have kept := (standbyLost_cel s).1
  refine ⟨?_, (congrArg Cel.own kept :), (congrArg Cel.ownKaSilent kept :), (congrArg Cel.ownLinkSilent kept :)⟩
  simp only [standbyLost, standby]
  split
  next h => exact h
  next h =>
    refine (dieState_of_cel (s := upEvent 7 0 7 [] 0 0 (modCel (fun c => { c with solo := true })
      (setDie d 2 (if dieState s d = 4 then saveStale s else s)))) ?_ d).trans ((dieState_setDie d 2 d low low _).trans (if_pos rfl))
    have told := record_frame 0x0B02 0 0 (modCel (fun c => { c with solo := true })
      (setDie d 2 (if dieState s d = 4 then saveStale s else s))) .cel (by decide)
    exact congrArg (fun c : Cel => { c with up := c.up ++ [UpMsg.event 7 0 7 [] 0 0] }) told

/-- The owner's finding of a silent path, by what it knew of the other and of this one. -/
theorem standbySilent_cases {ka : Bool} {d : Nat} {s : State} (standby : standbyDie s = some d) (owned : s.cel.own ≠ 2) :
    standbySilent ka s = if (if ka then s.cel.ownLinkSilent else s.cel.ownKaSilent) = true then standbyLost (ownerPath ka s)
      else if (if ka then s.cel.ownKaSilent else s.cel.ownLinkSilent) = true then s else pairAlarm true ka (ownerPath ka s) :=
  if_neg (by simp [owned, standby])

theorem pathSilence_unsyncs {ka : Bool} {d : Nat} {s : State} (frost : s.dbg.frost = 0) (standby : standbyDie s = some d) (owned : s.cel.own ≠ 2) :
    Completes (.pathSilence true ka) s (fun u =>
      (if ka then u.cel.ownKaSilent else u.cel.ownLinkSilent) = true ∧ u.cel.own = s.cel.own ∧
      ((if ka then s.cel.ownLinkSilent else s.cel.ownKaSilent) = true → dieState u d = 2) ∧
      ((if ka then s.cel.ownLinkSilent else s.cel.ownKaSilent) = false → dieState u d = dieState s d) ∧ Only [.cel, .book] s u) := by
  have runs := (exec_pathSilence (owner := true) (ka := ka) frost).trans (congrArg Host.Outcome.next (standbySilent_cases standby owned))
  have marked := ownerPath_frame ka s
  by_cases both : (if ka then s.cel.ownLinkSilent else s.cel.ownKaSilent) = true
  · rw [if_pos both] at runs
    have watched : standbyDie (ownerPath ka s) = some d := (standbyDie_of_cel (dieState_ownerPath ka s)).trans standby
    obtain ⟨unsync, own, keep, link⟩ := standbyLost_unsyncs watched
    refine ⟨_, runs, by rw [keep, link]; exact ownerPath_marks ka s, own.trans (ownerPath_own ka s), fun _ => unsync,
      fun h => absurd (both.symm.trans h) (by decide), Only.trans (marked.mono (by decide)) (standbyLost_only (by decide) (by decide) (Only.rfl' _ _))⟩
  · rw [if_neg both] at runs
    by_cases again : (if ka then s.cel.ownKaSilent else s.cel.ownLinkSilent) = true
    · rw [if_pos again] at runs
      exact ⟨_, runs, again, rfl, fun h => absurd h both, fun _ => rfl, Only.rfl' _ s⟩
    · rw [if_neg again] at runs
      have told := pairAlarm_frame true ka (ownerPath ka s)
      have cel := told .cel (by decide)
      refine ⟨_, runs, by rw [cel]; exact ownerPath_marks ka s, (congrArg Cel.own cel).trans (ownerPath_own ka s), fun h => absurd h both,
        fun _ => (dieState_of_cel cel d).trans (dieState_ownerPath ka s d), Only.trans (marked.mono (by decide)) (told.mono (by decide))⟩

/-! ## A fault releases OWN (R430) -/

theorem faultRelease_hot {d : Nat} {s : State} (own : s.cel.own = d) (low : d < 2) (ready : dieState s (1 - d) = 4) :
    faultRelease s = hotTakeover (1 - d) s := by
  have held : s.cel.own ≠ 2 := by omega
  rw [faultRelease, if_neg held]
  simp only [own]
  exact if_pos ready
/-- Without a SYNCED standby no die holds OWN. -/
theorem faultRelease_alone {d : Nat} {s : State} (own : s.cel.own = d) (low : d < 2) (unready : dieState s (1 - d) ≠ 4) :
    faultRelease s = modCel (fun c => { c with
      own := 2, gapTo := none, frozen := false, closed := 0, taken := [], overRow := 0, hot := satAdd 16 c.hot 1 }) (setDie d 6 s) := by
  have held : s.cel.own ≠ 2 := by omega
  rw [faultRelease, if_neg held]
  simp only [own]
  exact if_neg unready

theorem faultRelease_releases {d : Nat} {s : State} (own : s.cel.own = d) (low : d < 2) :
    (faultRelease s).cel.own = 2 ∧ dieState (faultRelease s) d = 6 ∧ (faultRelease s).cel.frozen = false ∧
      (faultRelease s).cel.hot = satAdd 16 s.cel.hot 1 ∧
      (dieState s (1 - d) = 4 → (faultRelease s).cel.gapTo = some (1 - d) ∧ dieState (faultRelease s) (1 - d) = 5 ∧
        (faultRelease s).cel.again = unackedBatch (1 - d) s) ∧
      (dieState s (1 - d) ≠ 4 → (faultRelease s).cel.gapTo = none ∧ dieState (faultRelease s) (1 - d) = dieState s (1 - d)) := by
  have apart : d ≠ 1 - d := by omega
  by_cases ready : dieState s (1 - d) = 4
  · have cel := (hotTakeover_cel (1 - d) s).trans (moveOwn_cel (1 - d) (hotReady (1 - d) s))
    rw [faultRelease_hot own low ready]
    refine ⟨by rw [cel], (dieState_hotTakeover s (by omega) low).trans (if_neg apart), by rw [cel]; rfl,
      by rw [cel]; exact (hotReady_cel (1 - d) s).1,
      fun _ => ⟨by rw [cel], (dieState_hotTakeover s (by omega) (by omega)).trans (if_pos rfl), by rw [cel]; rfl⟩, fun h => absurd ready h⟩
  · have set := setDie_offPair d 6 s
    rw [faultRelease_alone own low ready]
    refine ⟨rfl, (dieState_setDie d 6 d low low s).trans (if_pos rfl), rfl, (congrArg (fun c : Cel => satAdd 16 c.hot 1) set :),
      fun h => absurd h ready, fun _ => ⟨rfl, (dieState_setDie d 6 (1 - d) low (by omega) s).trans (if_neg (Ne.symm apart))⟩⟩

theorem exec_release {c : Instr} {s : State} (row : c ∈ [Instr.watchdogExpiry, .cellarerUe]) (frost : s.dbg.frost = 0) :
    exec c s = .next (faultRelease s) := by
  simp only [List.mem_cons, List.not_mem_nil, or_false] at row
  obtain rfl | rfl := row
  · exact clocked_running frost _
  · exact clocked_running frost _

/-! ## The standby's restart and its way back (R432) -/

theorem restartStandby_restarts {s : State} (low : s.cel.own < 2) :
    restartStandby s = modCel (fun c => { c with solo := true, imageGot := false, imageAcked := false, switchReq := false })
      (setDie (1 - s.cel.own) 1 (if dieState s (1 - s.cel.own) = 4 then saveStale s else s)) := by
  rw [restartStandby, if_neg (by omega)]

theorem restart_holds {acc : Acc} {s : State} (opened : blockOpen s acc 11 = true) (low : s.cel.own < 2) :
    Completes (.restartStandby acc) s (fun u =>
      dieState u (1 - s.cel.own) = 1 ∧ dieState u s.cel.own = dieState s s.cel.own ∧ u.cel.own = s.cel.own ∧ u.cel.solo = true ∧
      u.cel.switchReq = false ∧
      (dieState s (1 - s.cel.own) = 4 → ∃ x, u.cel.stale = some x ∧ x.book = s.book ∧ x.mram = s.mram ∧ x.pol = s.pol) ∧ Only [.cel] s u) := by
  have apart : s.cel.own ≠ 1 - s.cel.own := by omega
  have runs : exec (.restartStandby acc) s = _ := (congrArg Host.Outcome.next (if_pos opened)).trans
    (congrArg Host.Outcome.next (restartStandby_restarts low))
  generalize saved : (if dieState s (1 - s.cel.own) = 4 then saveStale s else s) = x at runs
  have dies : ∀ d, dieState x d = dieState s d := fun d => by
    rw [← saved]
    split <;> rfl
  have own : x.cel.own = s.cel.own := by
    rw [← saved]
    split <;> rfl
  have frame : Only [.cel] s x := saved ▸ ite_only (saveStale_only (by decide) (Only.rfl' _ s)) (Only.rfl' _ s)
  have set := setDie_cel (1 - s.cel.own) 1 x
  refine ⟨_, runs, (dieState_setDie _ 1 _ (by omega) (by omega) x).trans (if_pos rfl),
    ((dieState_setDie _ 1 _ (by omega) low x).trans (if_neg apart)).trans (dies _), (congrArg Cel.own set :).trans own, rfl, rfl, fun ready => ?_,
    modCel_only _ (by decide) (setDie_only _ _ (by decide) frame)⟩
  rw [if_pos ready] at saved
  exact ⟨_, (congrArg Cel.stale set :).trans (congrArg (fun y : State => y.cel.stale) saved.symm), rfl, rfl, rfl⟩

theorem standbyBootDone_syncs {d : Nat} {s : State} (frost : s.dbg.frost = 0) (low : d < 2) (booting : dieState s d = 1)
    (owner : dieState s (1 - d) = 5) : exec .standbyBootDone s = .next (allHeard (setDie d 3 s)) := by
  have found : [0, 1].find? (fun d => decide (dieState s d = 1) && decide (dieState s (1 - d) = 5)) = some d :=
    find_die low (by simp [booting, owner]) (by simp [owner])
  refine (clocked_running frost _).trans (congrArg Host.Outcome.next ?_)
  rw [found]

theorem standbySyncDone_syncs {d : Nat} {s : State} (frost : s.dbg.frost = 0) (low : d < 2) (syncing : dieState s d = 3)
    (other : dieState s (1 - d) ≠ 3) :
    exec .standbySyncDone s = .next (record 0x0B03 0 0 (allHeard (modCel (fun c => { c with
      solo := false, stale := none, imageGot := true, imageAcked := true }) (setDie d 4 s)))) := by
  have found : [0, 1].find? (fun d => decide (dieState s d = 3)) = some d := find_die low (by simp [syncing]) (by simp [other])
  refine (clocked_running frost _).trans (congrArg Host.Outcome.next ?_)
  rw [found]

/-- Where no firmware command waits for an owner, none runs. -/
theorem runUpdWait_none {s : State} (none : s.boot.updWait = []) : runUpdWait s = s := by
  have same : modBoot (fun b => { b with updWait := [] }) s = s := by rw [modBoot, ← none]
  rw [runUpdWait, none]
  exact same

/-- Settles O53: a takeover moves OWN (`moveOwn_cel`), a release is `faultRelease_releases`; the standby's way from its restart to SYNCED is
that of its die's state. -/
theorem thePair : Obligations.ThePair := by
  refine ⟨fun acc s opened owned ready => congrArg Host.Outcome.next (if_pos ⟨opened, owned, ready⟩), fun acc s unready => ?_,
    fun acc s => restart_holds, fun ka d s frost standby both => pathSilence_takes frost standby both, fun ka d s => pathSilence_alarms,
    fun ka d s frost standby owned _ => pathSilence_unsyncs frost standby owned, fun c d s row frost own low => ?_,
    fun d s frost gap none => ?_, fun s gap => ?_, fun s frost own still => ?_, fun s asked => ?_, fun d s frost low booting owner => ?_,
    fun d s frost low syncing other => ?_, fun s frost => clocked_running frost _, fun s frost => clocked_running frost _, fun s => ite_self _⟩
  · exact congrArg Host.Outcome.next (if_neg (by simp [unready]))
  · obtain ⟨free, held, thawed, hot, ready, alone⟩ := faultRelease_releases own low
    exact ⟨_, exec_release row frost, free, held, thawed, hot, ready, alone, faultRelease_only (by decide) (by decide) (by decide) (Only.rfl' _ s)⟩
  · refine (clocked_running frost _).trans (congrArg Host.Outcome.next ?_)
    rw [gap]
    exact runUpdWait_none (s := modCel (fun c => { c with own := d, gapTo := .none }) s) none
  · refine (congrArg (fun x => clocked s (.next x)) ?_).trans (ite_self _)
    rw [gap]
  · exact (clocked_running frost _).trans (congrArg Host.Outcome.next (if_pos ⟨own, by simp [still]⟩))
  · exact (congrArg (fun x => clocked s (.next x)) (if_neg (by simp [asked]))).trans (ite_self _)
  · exact ⟨_, standbyBootDone_syncs frost low booting owner, (dieState_setDie d 3 d low low s).trans (if_pos rfl),
      ((dieState_setDie d 3 (1 - d) low (by omega) s).trans (if_neg (by omega))).trans owner, rfl, rfl,
      modCel_only _ (by decide) (setDie_only _ _ (by decide) (Only.rfl' _ s))⟩
  · have told := record_frame 0x0B03 0 0 (allHeard (modCel (fun c => { c with
      solo := false, stale := none, imageGot := true, imageAcked := true }) (setDie d 4 s)))
    have cel := told .cel (by decide)
    exact ⟨_, standbySyncDone_syncs frost low syncing other,
      (dieState_of_cel cel d).trans ((dieState_setDie d 4 d low low s).trans (if_pos rfl)),
      (dieState_of_cel cel (1 - d)).trans ((dieState_setDie d 4 (1 - d) low (by omega) s).trans (if_neg (by omega))),
      congrArg Cel.solo cel, congrArg Cel.stale cel,
      Only.trans (modCel_only _ (by decide) (modCel_only _ (by decide) (setDie_only _ _ (by decide) (Only.rfl' _ s)))) (told.mono (by decide))⟩

end Sys2Proof.Machine
end

section
/-!
SPDM requests (R546, R549, R550, Table 15.2 of 15).
-/
namespace Sys2Proof.Machine

/-! ## How a request is served -/

/-- A Cave in error answers ERROR (R546). -/
theorem spdmReq_down {c : Late} {ok : Bool} {f : State → State} {s : State} (running : s.dbg.frost = 0) (down : caveDown s = true) :
    spdmReq c ok f s = .next (spdmError 4 s) := by
  rw [spdmReq, waitsInFrost_running running, if_pos down]

theorem spdmReq_served {c : Late} {ok : Bool} {f : State → State} {s : State} (running : s.dbg.frost = 0) (up : caveDown s = false)
    (inOrder : ok = true) : spdmReq c ok f s = .next (f s) := by
  rw [spdmReq, waitsInFrost_running running, if_neg (by simp [up]), if_pos inOrder]

theorem spdmReq_refused {c : Late} {ok : Bool} {f : State → State} {s : State} (running : s.dbg.frost = 0) (up : caveDown s = false)
    (outOfOrder : ok = false) : spdmReq c ok f s = .next (spdmError 4 s) := by
  rw [spdmReq, waitsInFrost_running running, if_neg (by simp [up]), if_neg (by simp [outOfOrder])]

theorem spdmUp_of {s : State} (agreed : s.sec.spdm = 3) : spdmUp s = true := decide_eq_true agreed
theorem spdmUp_slot0 {s : State} (agreed : s.sec.spdm = 3) : (spdmUp s && decide (0 = 0)) = true := by simp [spdmUp, agreed]

/-- A Cave in error answers every request alike. -/
theorem spdm_down {c : Instr} {id i slot off len : Nat} {a : Bool} {b : List Byte} {s : State} (running : s.dbg.frost = 0)
    (down : caveDown s = true) (h : c ∈ [Instr.getVersion, .getCapabilities, .negotiateAlgorithms a, .getDigests, .getCertificate slot off len,
      .spdmChallenge slot b, .getMeasurements i a b, .keyExchange id slot b, .spdmFinish id a, .endSession id, .spdmHeartbeat id,
      .keyUpdate id a, .chunkSend a b, .chunkGet off len, .ideQuery id]) :
    exec c s = .next (spdmError 4 s) := by
  simp only [List.mem_cons, List.not_mem_nil, or_false] at h
  rcases h with rfl | rfl | rfl | rfl | rfl | rfl | rfl | rfl | rfl | rfl | rfl | rfl | rfl | rfl | rfl <;>
    · rw [exec]
      exact spdmReq_down running down

/-! ## Signed responses -/

/-- What the Cave signs: the body and a fresh nonce; then the signature over request and body. -/
def signedBytes (req body : List Byte) (s : State) : List Byte :=
  let b := body ++ leB 32 (Config.freeValue 256 s.free).toNat
  b ++ leB 96 (Config.sign (Config.sha384 (req ++ b))).toNat

theorem spdmSigned_eq (r : Rsp) (req body : List Byte) (s : State) :
    spdmSigned r req body s = { s with
      free := s.free + 1, out := .spdm r (signedBytes req body s) :: s.out, sec := { s.sec with chunkOut := signedBytes req body s } } := rfl

theorem signed_frame {r : Rsp} {b : List Byte} {x : Sec} (s : State) :
    Only [.free, .out, .sec] s { s with free := s.free + 1, out := .spdm r b :: s.out, sec := x } :=
  emit_only (.spdm r b) (by decide) (modSec_only (fun _ => x) (by decide) (free_only (by decide) (Only.rfl' _ s)))

theorem send_frame {r : Rsp} {b : List Byte} {x : Sec} (s : State) :
    Only [.out, .sec] s { s with out := .spdm r b :: s.out, sec := x } :=
  emit_only (.spdm r b) (by decide) (modSec_only (fun _ => x) (by decide) (Only.rfl' _ s))

/-- A challenge is answered by the chain's digest and a nonce, 80 bytes, and their signature (Table 15.2). -/
theorem challenge_answered {req : List Byte} {s : State} (running : s.dbg.frost = 0) (up : caveDown s = false) (agreed : s.sec.spdm = 3) :
    Completes (.spdmChallenge 0 req) s (fun u => ∃ b, u.out = .spdm .challengeAuth b :: s.out ∧ b.length = 176 ∧
      b.take 80 = leB 48 Config.chainDigest.toNat ++ leB 32 (Config.freeValue 256 s.free).toNat ∧
      b.drop 80 = leB 96 (Config.sign (Config.sha384 (req ++ b.take 80))).toNat ∧
      u.free = s.free + 1 ∧ u.sec = { s.sec with chunkOut := b } ∧ Only [.free, .out, .sec] s u) := by
  have first : (leB 48 Config.chainDigest.toNat ++ leB 32 (Config.freeValue 256 s.free).toNat).length = 80 := by
    simp only [List.length_append, leB_length]
  have front : (signedBytes req (leB 48 Config.chainDigest.toNat) s).take 80 =
      leB 48 Config.chainDigest.toNat ++ leB 32 (Config.freeValue 256 s.free).toNat := List.take_left' first
  refine ⟨_, spdmReq_served running up (spdmUp_slot0 agreed), signedBytes req (leB 48 Config.chainDigest.toNat) s, rfl, ?_, front, ?_,
    rfl, rfl, signed_frame s⟩
  · simp only [signedBytes, List.length_append, leB_length]
  · rw [front]
    exact List.drop_left' first

/-! ## Measurements -/

/-- The block that answers GET_MEASUREMENTS: the number, all of them, or one. -/
def measAnswer (s : State) (i : Nat) : List Byte :=
  if i = 0 then leB 1 8 else if i = 255 then (List.range 8).flatMap (fun k => measBlock s (k + 1)) else measBlock s i

theorem measurements_served {i : Nat} {sig : Bool} {req : List Byte} {s : State} (running : s.dbg.frost = 0) (up : caveDown s = false)
    (agreed : s.sec.spdm = 3) (index : i ≤ 8 ∨ i = 255) :
    exec (.getMeasurements i sig req) s =
      .next (if sig then spdmSigned .measurements req (measAnswer s i) s else spdmSend .measurements (measAnswer s i) s) :=
  (spdmReq_served running up (by simp [spdmUp, agreed, index]) : execGetMeasurements i sig req s = _)

/-! ## Sessions -/

theorem sessionAt_id {s : State} {id : Nat} {x : Session} (h : sessionAt s id = some x) : x.id = id := by
  simpa using List.find?_some h

theorem sessionOk_of {s : State} {id : Nat} {x : Session} (h : sessionAt s id = some x) (phase : x.phase = 2) : sessionOk s id = true := by
  simp [sessionOk, h, phase]

/-- A session of an identifier after each of that identifier has been changed. -/
theorem sessionAt_modSession {id : Nat} {f : Session → Session} {s : State} {x : Session} (keeps : ∀ y, (f y).id = y.id)
    (h : sessionAt s id = some x) : sessionAt (modSession id f s) id = some (f x) := by
  have same : ((fun y : Session => decide (y.id = id)) ∘ fun y => if y.id = id then f y else y) = fun y => decide (y.id = id) := by
    funext y
    by_cases mine : y.id = id <;> simp [mine, keeps]
  have found : s.sec.sessions.find? (fun y => decide (y.id = id)) = some x := h
  rw [sessionAt, modSession, modSec, List.find?_map, same, found, Option.map_some, if_pos (sessionAt_id h)]

/-- The sessions without those of an identifier. -/
def dropSession (id : Nat) (s : State) : State :=
  modSec (fun x => { x with sessions := x.sessions.filter (fun y => decide (y.id ≠ id)) }) s

theorem sessionAt_dropSession_same (id : Nat) (s : State) : sessionAt (dropSession id s) id = none := by
  simp [sessionAt, dropSession, modSec, List.find?_eq_none]

theorem sessionAt_dropSession_other {id q : Nat} (s : State) (other : q ≠ id) : sessionAt (dropSession id s) q = sessionAt s q := by
  rw [sessionAt, dropSession, modSec, List.find?_filter, sessionAt]
  congr 1
  funext y
  by_cases mine : y.id = q
  · simp [mine, other]
  · simp [mine]

theorem sessionAt_send {r : Rsp} {b : List Byte} {s : State} (id : Nat) : sessionAt (spdmSend r b s) id = sessionAt s id := rfl

/-- A free identifier of at most four takes the key exchange. -/
theorem keyExchange_begins {id : Nat} {req : List Byte} {s : State} (running : s.dbg.frost = 0) (up : caveDown s = false)
    (agreed : s.sec.spdm = 3) (room : s.sec.sessions.length < 4) (new : sessionAt s id = none) :
    Completes (.keyExchange id 0 req) s (fun u =>
      u.sec.sessions = s.sec.sessions ++ [{ id := id, phase := 1 }] ∧ (∃ b, u.out = .spdm .keyExchange b :: s.out) ∧ u.free = s.free + 1 ∧
      Only [.free, .out, .sec] s u) :=
  ⟨_, (spdmReq_served running up (by simp [spdmUp, agreed, room, new]) : execKeyExchange id 0 req s = _), rfl, ⟨_, rfl⟩, rfl, signed_frame s⟩

theorem finish_completes {id : Nat} {x : Session} {s : State} (running : s.dbg.frost = 0) (up : caveDown s = false)
    (found : sessionAt s id = some x) (phase : x.phase = 1) :
    Completes (.spdmFinish id true) s (fun u =>
      sessionAt u id = some { x with phase := 2 } ∧ u.out = .spdm .finish [] :: s.out ∧ Only [.out, .sec] s u) :=
  ⟨_, (spdmReq_served running up (by simp [found, phase]) : execSpdmFinish id true s = _),
    (sessionAt_send id).trans (sessionAt_modSession (fun _ => rfl) found), rfl, send_frame s⟩

theorem finish_refused {id : Nat} {s : State} (running : s.dbg.frost = 0) (up : caveDown s = false) :
    exec (.spdmFinish id false) s = .next (spdmError 4 s) :=
  (spdmReq_refused running up (by cases sessionAt s id <;> simp) : execSpdmFinish id false s = _)

theorem keyUpdate_updates {id : Nat} {both : Bool} {x : Session} {s : State} (running : s.dbg.frost = 0) (up : caveDown s = false)
    (found : sessionAt s id = some x) (phase : x.phase = 2) :
    Completes (.keyUpdate id both) s (fun u =>
      sessionAt u id = some { x with reqKey := x.reqKey + 1, rspKey := if both then x.rspKey + 1 else x.rspKey } ∧
      u.out = .spdm .keyUpdate [] :: s.out ∧ Only [.out, .sec] s u) :=
  ⟨_, (spdmReq_served running up (sessionOk_of found phase) : execKeyUpdate id both s = _),
    (sessionAt_send id).trans (sessionAt_modSession (fun _ => rfl) found), rfl, send_frame s⟩

theorem endSession_ends {id : Nat} {x : Session} {s : State} (running : s.dbg.frost = 0) (up : caveDown s = false)
    (found : sessionAt s id = some x) (phase : x.phase = 2) :
    Completes (.endSession id) s (fun u => sessionAt u id = none ∧ (∀ q, q ≠ id → sessionAt u q = sessionAt s q) ∧
      u.out = .spdm .endSession [] :: s.out ∧ Only [.out, .sec] s u) :=
  ⟨_, (spdmReq_served running up (sessionOk_of found phase) : execEndSession id s = _), sessionAt_dropSession_same id s,
    fun _ other => sessionAt_dropSession_other s other, rfl, send_frame s⟩

/-- Settles O56: a request is served, refused, or answered by a Cave in error; a signed answer is `signedBytes`. -/
theorem spdmRequests : Obligations.SpdmRequests := by
  refine ⟨fun c id i slot off len a b s running down h => spdm_down running down h,
    fun s running up => (spdmReq_served running up rfl : execGetVersion s = _),
    fun s running up begun => (spdmReq_served running up (decide_eq_true begun) : execGetCapabilities s = _),
    fun s running up none => (spdmReq_refused running up (by simp [none]) : execGetCapabilities s = _),
    fun s running up begun => (spdmReq_served running up (by simp [begun]) : execNegotiateAlgorithms true s = _),
    fun s running up => (spdmReq_refused running up (by simp) : execNegotiateAlgorithms false s = _),
    fun first part s running up begun => (spdmReq_served running up (decide_eq_true begun) : execChunkSend first part s = _),
    fun off len s running up begun => spdmReq_served running up (decide_eq_true begun),
    fun s running up agreed => spdmReq_served running up (spdmUp_of agreed),
    fun off len s running up agreed => spdmReq_served running up (spdmUp_slot0 agreed),
    fun slot off len s running up other => spdmReq_refused running up (by simp [other]),
    fun req s => challenge_answered,
    fun i blk req s running up agreed index block => block ▸ measurements_served running up agreed index,
    fun i blk body req s running up agreed index block signed => ?_,
    fun id req s => keyExchange_begins,
    fun id req s running up full => (spdmReq_refused running up (by simp [full]) : execKeyExchange id 0 req s = _),
    fun id x s => finish_completes, fun id s => finish_refused, fun id x s => endSession_ends,
    fun id x s running up found phase => spdmReq_served running up (sessionOk_of found phase),
    fun id both x s => keyUpdate_updates⟩
  subst signed block
  exact ⟨_, measurements_served running up agreed index, rfl, rfl, signed_frame s⟩

end Sys2Proof.Machine
end

section
/-!
IDE streams and TDISP interfaces (R550, R551, Table 15.3 of 15), and what a teardown changes of the security block (R562).
-/
namespace Sys2Proof.Machine

/-! ## What a teardown changes of the security block -/

theorem unbind_sec (b : Nat) (s : State) : (unbind b s).sec = { s.sec with parcelKeys := Map.del s.sec.parcelKeys b } := by
  have left : (wiltLeave 0 b (modPol (fun p => { p with late := Map.del p.late b }) (modVnl (fun v => { v with
      binds := Map.del v.binds b, queue := v.queue.filter (fun m => decide (m.bind ≠ b)), inbox := v.inbox.filter (fun m => decide (m.1 ≠ b)),
      diverts := v.diverts.filter (fun d => decide (d.1 / 16 ≠ b)) })
      (modRck (fun r => { r with gin := Map.mapV (fun _ g => if g.valid ∧ g.tenant = bindTen s b then {} else g) r.gin })
        (closePorts b 0x12 (bindPorts s b) s))))).sec = s.sec :=
    wiltLeave_only (fr := [.free, .out, .mem, .hif, .pln, .cor, .vnl, .stp, .rck, .cel, .pol, .err, .pwr, .dbg, .book]) _ _
      (by decide) (by decide) (by decide) (modPol_only _ (by decide) (modVnl_only _ (by decide) (modRck_only _ (by decide)
        (closePorts_only _ _ _ (by decide) (by decide) (by decide) (by decide) (by decide) (by decide) (by decide) (by decide) (by decide)
          (by decide) (by decide) (by decide) (by decide) (by decide) (Only.rfl' _ s))))) .sec (by decide)
  rw [unbind, modSec, left]

/-- What a teardown does to the tenant's hold on the security block: its zeroization begins. -/
theorem teardownRest_sec (t : Nat) (s : State) :
    ∃ keys, (teardownRest t s).sec = { s.sec with parcelKeys := keys, zero := Map.put s.sec.zero t zeroItems } := by
  have dropped : (forS ((tenHnds (dropTrace t (dropRacks t (stopTenant t s))) t).map Prod.fst) dropHnd
      (dropTrace t (dropRacks t (stopTenant t s)))).sec = s.sec :=
    forS_only (ps := [.mem, .pln, .cor, .col, .stp, .rck, .tim, .dbg]) _ dropHnd (fun h _ => dropHnd_only h (by decide) (by decide))
      (dropTrace_only t (by decide) (dropRacks_only t (by decide) (by decide) (by decide)
        (stopTenant_only t (by decide) (by decide) (by decide) (by decide) (by decide) (by decide) (Only.rfl' _ s)))) .sec (by decide)
  rw [teardownRest]
  dsimp only
  generalize forS _ dropHnd _ = x at dropped ⊢
  split
  · next b _ =>
    have reset : (csetReset .vnlPcl b (unbind b x)).sec = (unbind b x).sec :=
      csetReset_only (fr := [.grp]) _ _ (by decide) (Only.rfl' _ _) .sec (by decide)
    exact ⟨_, by rw [modSec, reset, unbind_sec, dropped]⟩
  · exact ⟨_, by rw [modSec, dropped]⟩

/-- A teardown leaves the security block but for the tenant's keys and its zeroization, which is pending once the tenant was bound. -/
theorem teardown_sec (t : Nat) (s : State) : ∃ keys, (teardown t s).sec = { s.sec with
    parcelKeys := keys
    zero := if tenSt s t = .active ∨ tenSt s t = .quarantine then Map.put s.sec.zero t zeroItems else s.sec.zero } := by
  by_cases bound : tenSt s t = .active ∨ tenSt s t = .quarantine
  · have flushed : (setTenRec t (fun x => { x with st := .teardown }) (stopRings t (flushLive t s))).sec = s.sec :=
      modHif_only _ (by decide) (modHif_only _ (by decide) (flushLive_only (fr := [.out, .hif]) t (by decide) (by decide) (Only.rfl' _ s)))
        .sec (by decide)
    obtain ⟨keys, rest⟩ := teardownRest_sec t (setTenRec t (fun x => { x with st := .teardown }) (stopRings t (flushLive t s)))
    exact ⟨keys, by rw [teardown_bound bound, rest, flushed, if_pos bound]⟩
  · exact ⟨_, by rw [teardown_unbound bound, if_neg bound]⟩

/-! ## IDE streams -/

theorem ideOk_of {id k : Nat} {s : State} (session : sessionOk s id = true) (stream : k ≤ 8) : ideOk s id k = true := by
  simp [ideOk, session, stream]

theorem keyProg_keys {id k : Nat} {s : State} (running : s.dbg.frost = 0) (up : caveDown s = false) (session : sessionOk s id = true)
    (stream : k ≤ 8) :
    Completes (.keyProg id k) s (fun u => Map.get 0 u.sec.ide k = max 1 (Map.get 0 s.sec.ide k) ∧
      (∀ q, q ≠ k → Map.get 0 u.sec.ide q = Map.get 0 s.sec.ide q) ∧ u.out = .spdm .ideKp (leB 1 k) :: s.out ∧ Only [.out, .sec] s u) := by
  refine ⟨_, (spdmReq_served running up (ideOk_of session stream) : execKeyProg id k s = _), ?_, fun q other => ?_, rfl, send_frame s⟩
  · exact (get_put _ _ _ _ _).trans (if_pos rfl)
  · exact (get_put _ _ _ _ _).trans (if_neg other)

theorem kSetGo_starts {id k : Nat} {s : State} (running : s.dbg.frost = 0) (up : caveDown s = false) (session : sessionOk s id = true)
    (stream : k ≤ 8) (keyed : 1 ≤ Map.get 0 s.sec.ide k) :
    Completes (.kSetGo id k) s (fun u => Map.get 0 u.sec.ide k = 2 ∧
      u.hif = { s.hif with ideLink := s.hif.ideLink || decide (k = 0) } ∧ (∀ q, q ≠ k → Map.get 0 u.sec.ide q = Map.get 0 s.sec.ide q) ∧
      u.out = .spdm .ideGo (leB 1 k) :: s.out ∧ Only [.hif, .out, .sec] s u) := by
  refine ⟨_, (spdmReq_served running up (by simp [ideOk_of session stream, keyed]) : execKSetGo id k s = _), ?_, rfl, fun q other => ?_, rfl,
    spdmSend_only _ _ (by decide) (by decide) (modHif_only _ (by decide) (modSec_only _ (by decide) (Only.rfl' _ s)))⟩
  · exact (get_put _ _ _ _ _).trans (if_pos rfl)
  · exact (get_put _ _ _ _ _).trans (if_neg other)

theorem kSetStop_stops {id k : Nat} {s : State} (running : s.dbg.frost = 0) (up : caveDown s = false) (session : sessionOk s id = true)
    (stream : k ≤ 8) :
    Completes (.kSetStop id k) s (fun u => Map.get 0 u.sec.ide k = 0 ∧
      u.hif = { s.hif with ideLink := s.hif.ideLink && decide (k ≠ 0) } ∧ (∀ q, q ≠ k → Map.get 0 u.sec.ide q = Map.get 0 s.sec.ide q) ∧
      u.out = .spdm .ideStop (leB 1 k) :: s.out ∧ Only [.hif, .out, .sec] s u) := by
  refine ⟨_, (spdmReq_served running up (ideOk_of session stream) : execKSetStop id k s = _), ?_, rfl, fun q other => ?_, rfl,
    spdmSend_only _ _ (by decide) (by decide) (modHif_only _ (by decide) (modSec_only _ (by decide) (Only.rfl' _ s)))⟩
  · exact (get_del _ _ _ _).trans (if_pos rfl)
  · exact (get_del _ _ _ _).trans (if_neg other)

/-- A stream past the eighth is refused. -/
theorem ide_refused {id k : Nat} {c : Instr} {s : State} (running : s.dbg.frost = 0) (up : caveDown s = false) (past : 8 < k)
    (h : c ∈ [Instr.keyProg id k, .kSetGo id k, .kSetStop id k]) : exec c s = .next (spdmError 4 s) := by
  have none : ideOk s id k = false := by simp [ideOk, past]
  simp only [List.mem_cons, List.not_mem_nil, or_false] at h
  rcases h with rfl | rfl | rfl
  · exact (spdmReq_refused running up none : execKeyProg id k s = _)
  · exact (spdmReq_refused running up (by simp [none]) : execKSetGo id k s = _)
  · exact (spdmReq_refused running up none : execKSetStop id k s = _)

/-! ## TDISP messages -/

theorem tdisp_served {c : Late} {id : Nat} {ok : Bool} {f : State → State} {s : State} (running : s.dbg.frost = 0) (up : caveDown s = false)
    (session : sessionOk s id = true) (allowed : ok = true) : tdisp c id ok f s = .next (f s) := by
  rw [tdisp, spdmReq_served running up session, if_pos allowed]

theorem tdisp_refused {c : Late} {id : Nat} {ok : Bool} {f : State → State} {s : State} (running : s.dbg.frost = 0) (up : caveDown s = false)
    (session : sessionOk s id = true) (denied : ok = false) : tdisp c id ok f s = .next (spdmSend .tdispError [] s) := by
  rw [tdisp, spdmReq_served running up session, if_neg (by simp [denied])]

theorem lockInterface_locks {id v : Nat} {s : State} (running : s.dbg.frost = 0) (up : caveDown s = false) (session : sessionOk s id = true)
    (exists_ : tdiIs s v = true) (closed : s.sec.life = .sealed) (unlocked : tdiSt s v = 0) :
    Completes (.lockInterface id v) s (fun u => tdiSt u v = 1 ∧
      Map.find u.sec.tdiNonce v = some (Config.freeValue 256 s.free).toNat ∧ (∀ q, q ≠ v → tdiSt u q = tdiSt s q) ∧
      u.out = .spdm .tdispLock (leB 32 (Config.freeValue 256 s.free).toNat) :: s.out ∧ u.free = s.free + 1 ∧ Only [.free, .out, .sec] s u) := by
  refine ⟨_, (tdisp_served running up session (by simp [exists_, closed, unlocked]) : execLockInterface id v s = _), ?_, ?_,
    fun q other => ?_, rfl, rfl, signed_frame s⟩
  · exact (get_put _ _ _ _ _).trans (if_pos rfl)
  · exact (find_put _ _ _ _).trans (if_pos rfl)
  · exact (get_put _ _ _ _ _).trans (if_neg other)

theorem startInterface_starts {id v n : Nat} {s : State} (running : s.dbg.frost = 0) (up : caveDown s = false) (session : sessionOk s id = true)
    (exists_ : tdiIs s v = true) (locked : tdiSt s v = 1) (nonce : Map.find s.sec.tdiNonce v = some n) :
    Completes (.startInterface id v n) s (fun u => tdiSt u v = 2 ∧ Map.find u.sec.tdiNonce v = none ∧ u.out = .spdm .tdispStart [] :: s.out ∧
      (∀ q, q ≠ v → tdiSt u q = tdiSt s q) ∧ Only [.out, .sec] s u) := by
  refine ⟨_, (tdisp_served running up session (by simp [exists_, locked, nonce]) : execStartInterface id v n s = _), ?_, ?_, rfl,
    fun q other => ?_, send_frame s⟩
  · exact (get_put _ _ _ _ _).trans (if_pos rfl)
  · exact (find_del _ _ _).trans (if_pos rfl)
  · exact (get_put _ _ _ _ _).trans (if_neg other)

/-! ## A TDI is stopped (R551) -/

/-- A TDI marked as stopping, its nonce gone. -/
def markStop (v : Nat) (s : State) : State :=
  modSec (fun x => { x with tdiStop := addOnce v x.tdiStop, tdiNonce := Map.del x.tdiNonce v }) s
/-- The TDI's tenants enter TEARDOWN, unless it was only locked. -/
def stopTens (v : Nat) (s : State) : State :=
  forS (boundTens s) (fun t s' => if tenFn s t = v ∧ tdiSt s v ≠ 1 then teardown t s' else s') (markStop v s)

theorem stopTdi_eq (v : Nat) (s : State) : stopTdi v s = unlockTdis (stopTens v s) := rfl

theorem unlockTdis_frame (s : State) : Only [.sec] s (unlockTdis s) := unlockTdis_only (by decide) (Only.rfl' _ s)

/-- A stopping TDI without a bound tenant is CONFIG_UNLOCKED. -/
theorem unlockTdis_unlocks {v : Nat} {s : State} (stopping : v ∈ s.sec.tdiStop) (free : ∀ t ∈ boundTens s, tenFn s t ≠ v) :
    tdiSt (unlockTdis s) v = 0 := by
  have ready : memb v (s.sec.tdiStop.filter (fun v => !(boundTens s).any (fun t => decide (tenFn s t = v)))) = true := by
    rw [memb, List.contains_iff_mem, List.mem_filter]
    refine ⟨stopping, ?_⟩
    simp only [Bool.not_eq_true', List.any_eq_false, decide_eq_true_eq]
    exact free
  simp only [tdiSt, unlockTdis, modSec, Map.get, Map.keep]
  rw [find_filter_key (fun k => !memb k _), if_neg (by rw [ready]; decide)]
  rfl

theorem teardown_nonce (t : Nat) (s : State) : (teardown t s).sec.tdiNonce = s.sec.tdiNonce := by
  obtain ⟨keys, sec⟩ := teardown_sec t s
  rw [sec]

theorem stopTens_nonce (v : Nat) (s : State) : Map.find (stopTens v s).sec.tdiNonce v = none := by
  have kept : (stopTens v s).sec.tdiNonce = (markStop v s).sec.tdiNonce := forS_reads (fun x => x.sec.tdiNonce) (fun t _ x => by
    split
    · exact teardown_nonce t x
    · rfl) _
  rw [kept]
  exact (find_del _ _ _).trans (if_pos rfl)

/-- Out of RUN each bound tenant of the TDI enters TEARDOWN. -/
theorem stopTens_down {v t : Nat} {s : State} (run : tdiSt s v ≠ 1) (bound : tenSt s t ≠ .free) (mine : tenFn s t = v) :
    tenSt (stopTens v s) t = .teardown := by
  have down : tenSt (stopTens v s) t = .free ∨ tenSt (stopTens v s) t = .teardown :=
    forS_establishes (fun x => tenSt x t = .free ∨ tenSt x t = .teardown) (mem_boundTens bound)
      (fun x => by rw [if_pos ⟨mine, run⟩]; exact teardown_own x t) (fun q _ x hx => by
        split
        · exact teardown_keeps x hx q
        · exact hx) _
  have held : tenSt (stopTens v s) t ≠ .free := forS_holds (fun x => tenSt x t ≠ .free) (fun q _ x hx => by
    split
    · exact teardown_ne_free x hx q
    · exact hx) (show tenSt (markStop v s) t ≠ .free from bound)
  exact down.resolve_left held

/-- Without a bound tenant of the TDI nothing is torn down. -/
theorem stopTens_none {v : Nat} {s : State} (free : ∀ t ∈ boundTens s, tenFn s t ≠ v) : stopTens v s = markStop v s :=
  forS_reads id (fun t ht _ => if_neg (fun h => free t ht h.1)) _

theorem stopInterface_stops {id v : Nat} {s : State} (running : s.dbg.frost = 0) (up : caveDown s = false) (session : sessionOk s id = true)
    (exists_ : tdiIs s v = true) (locked : tdiSt s v ≠ 0) :
    Completes (.stopInterface id v) s (fun u =>
      Map.find u.sec.tdiNonce v = none ∧
      (tdiSt s v ≠ 1 → ∀ t, (tenRec s t).st ≠ .free → tenFn s t = v → (tenRec u t).st = .teardown) ∧
      ((∀ t ∈ boundTens s, tenFn s t ≠ v) → tdiSt u v = 0 ∧ u.hif = s.hif)) := by
  have hif : (spdmSend .tdispStop [] (stopTdi v s)).hif = (stopTens v s).hif := rfl
  refine ⟨spdmSend .tdispStop [] (stopTdi v s), ?_, stopTens_nonce v s, fun run t bound mine => ?_, fun free => ?_⟩
  · refine (tdisp_served running up session exists_ : execStopInterface id v s = _).trans ?_
    rw [if_neg locked]
  · exact (congrFun (tenSt_of_tens (congrArg Hif.tens hif)) t).trans (stopTens_down run bound mine)
  · have none := stopTens_none free
    have tdi : (spdmSend .tdispStop [] (stopTdi v s)).sec.tdi = (unlockTdis (stopTens v s)).sec.tdi := rfl
    refine ⟨?_, hif.trans ((congrArg State.hif none).trans rfl)⟩
    rw [tdiSt, tdi, none]
    exact unlockTdis_unlocks (s := markStop v s) (mem_addOnce_iff.mpr (.inl rfl)) free

/-- Settles O57: the streams are entries of one table; a TDI is stopped by `stopTdi`, whose teardowns leave the nonces. -/
theorem ideAndTdisp : Obligations.IdeAndTdisp := by
  refine ⟨fun id s running up session => ⟨_, (spdmReq_served running up session : execIdeQuery id s = _), rfl, rfl, send_frame s⟩,
    fun id k s => keyProg_keys, fun id k s => kSetGo_starts, fun id k s => kSetStop_stops,
    fun id k c s running up _ past h => ide_refused running up past h,
    fun id s running up session => (tdisp_served running up session rfl : execGetTdispVersion id s = _),
    fun id s running up session => (tdisp_served running up session rfl : execGetTdispCapabilities id s = _),
    fun id v s running up session exists_ =>
      ⟨_, (tdisp_served running up session exists_ : execGetDeviceInterfaceState id v s = _), rfl, rfl, send_frame s⟩,
    fun id v s => lockInterface_locks,
    fun id v s running up session other => (tdisp_refused running up session (by simp [other]) : execLockInterface id v s = _),
    fun id v s running up session exists_ locked =>
      ⟨_, (tdisp_served running up session (by simpa [exists_] using locked) : execGetDeviceInterfaceReport id v s = _), rfl, rfl, send_frame s⟩,
    fun id v n s => startInterface_starts,
    fun id v n s running up session other => (tdisp_refused running up session (by simp [other]) : execStartInterface id v n s = _),
    fun id v s running up session exists_ unlocked => ?_,
    fun id v s => stopInterface_stops⟩
  refine (tdisp_served running up session exists_ : execStopInterface id v s = _).trans ?_
  rw [if_pos unlocked]
  rfl

end Sys2Proof.Machine
end

section
/-!
Drains, block resets, firmware update commands, the Cave's failed test and in-band interrupts (R430 of 11, R546 of 15, R604 to R606, R613,
R617 to R621, R670 of 17).
-/
namespace Sys2Proof.Machine

/-! ## Status registers of commit groups -/

theorem cstatOf_of_grp {s u : State} (h : u.grp = s.grp) (g : Grp) (acc : Acc) (win : Nat) : cstatOf u g acc win = cstatOf s g acc win := by
  rw [cstatOf, cstatOf, h]

@[simp] theorem cstatOf_setCstat (g : Grp) (acc : Acc) (win res off : Nat) (s : State) :
    cstatOf (setCstat (shadowAcc g acc) g win res off s) g acc win = (res, off) :=
  (get_set _ _ _ _ _).trans (if_pos rfl)


/-! ## Update commands (R619, R621) -/

/-- The group's registers as the command takes them. -/
def updSnap (acc : Acc) (s : State) : List Word := (List.range 3).map (shadowReg s .bootUpd acc 0)
/-- A command taken: the group committed, its status and its record. -/
def updTaken (cmd : Nat) (snap : List Word) (s : State) : State :=
  updRec cmd cOK (setCstat 0 .bootUpd 0 cOK 0 (csetAll .bootUpd 0 snap s))

theorem updRec_frame (cmd res : Nat) (s : State) : Only [.book] s (updRec cmd res s) := record_frame _ _ _ s
theorem updDo_frame (cmd len : Nat) (s : State) : Only [.boot] s (updDo cmd len s) := updDo_only _ _ (by decide) (Only.rfl' _ s)

theorem updTaken_frame (cmd : Nat) (snap : List Word) (s : State) : Only [.grp, .book] s (updTaken cmd snap s) :=
  record_only _ _ _ (by decide) (setCstat_only _ _ _ _ _ (by decide) (csetAll_only _ _ _ (by decide) (Only.rfl' _ s)))
theorem updTaken_boot (cmd : Nat) (snap : List Word) (s : State) : (updTaken cmd snap s).boot = s.boot :=
  updTaken_frame cmd snap s .boot (by decide)

theorem updTaken_ok (cmd len : Nat) (snap : List Word) (acc : Acc) (s : State) :
    cstatOf (updDo cmd len (updTaken cmd snap s)) .bootUpd acc 0 = (cOK, 0) := by
  rw [cstatOf_of_grp (updDo_frame cmd len _ .grp (by decide)), updTaken, cstatOf_of_grp (updRec_frame _ _ _ .grp (by decide))]
  exact cstatOf_setCstat .bootUpd acc 0 cOK 0 _

theorem updDone_frame (cmd len : Nat) (snap : List Word) (s : State) : Only [.grp, .boot, .book] s (updDo cmd len (updTaken cmd snap s)) :=
  updDo_only _ _ (by decide) (record_only _ _ _ (by decide)
    (setCstat_only _ _ _ _ _ (by decide) (csetAll_only _ _ _ (by decide) (Only.rfl' _ s))))

/-- An update command with its number (Table 17.11). -/
def IsUpd (acc : Acc) (c : Instr) (cmd : Nat) : Prop :=
  (c, cmd) ∈ [(Instr.updDownload acc, 1), (.updVerify acc, 2), (.updActivate acc, 3), (.updConfirm acc, 4), (.updAbort acc, 5)]

theorem exec_upd {c : Instr} {cmd : Nat} {acc : Acc} (h : IsUpd acc c cmd) (s : State) : exec c s = .next (updCmd cmd acc s) := by
  simp only [IsUpd, List.mem_cons, Prod.mk.injEq, List.not_mem_nil, or_false] at h
  rcases h with ⟨rfl, rfl⟩ | ⟨rfl, rfl⟩ | ⟨rfl, rfl⟩ | ⟨rfl, rfl⟩ | ⟨rfl, rfl⟩ <;> rfl

theorem updCmd_runs {cmd : Nat} {acc : Acc} {s : State} (reach : grpReach s .bootUpd acc 0 = true) (opened : blockOpen s acc 17 = true)
    (owned : s.cel.own ≠ 2) : updCmd cmd acc s = updAct cmd (updSnap acc s) s := by
  rw [updCmd, if_neg (not_not.mpr ⟨reach, opened⟩)]
  exact if_neg owned

/-- While no die holds OWN the command waits. -/
theorem updCmd_waits {cmd : Nat} {acc : Acc} {s : State} (reach : grpReach s .bootUpd acc 0 = true) (opened : blockOpen s acc 17 = true)
    (unowned : s.cel.own = 2) : updCmd cmd acc s =
      modBoot (fun b => { b with updWait := b.updWait ++ [(cmd, updSnap acc s)] }) (setCstat 0 .bootUpd 0 cPENDING 0 s) := by
  rw [updCmd, if_neg (not_not.mpr ⟨reach, opened⟩)]
  exact if_pos unowned

section Accepted
variable {cmd len : Nat} {acc : Acc} {s : State} (ready : s.boot.hostReady = true) (life : s.sec.life ≠ .retired)
  (field : fldW (shadowReg s .bootUpd acc 0 0) 11 0 = 0) (length : len = (shadowReg s .bootUpd acc 0 2).toNat)
include ready life field length

theorem updAct_accepted (fit : updFault s cmd len = none) :
    updAct cmd (updSnap acc s) s = updDo cmd len (updTaken cmd (updSnap acc s) s) := by
  have word : ((updSnap acc s).getD 2 0).toNat = len := length.symm
  have zero : fldW ((updSnap acc s).getD 0 0) 11 0 = 0 := field
  simp only [updAct, word, zero, fit, ready, life, ne_eq, not_true_eq_false, if_false, Option.map_none, updTaken]

theorem updAct_refused {f : Nat × Option Nat} (fault : updFault s cmd len = some f) :
    ∃ off, updAct cmd (updSnap acc s) s = updRec cmd f.1 (setCstat 0 .bootUpd 0 f.1 off s) := by
  have word : ((updSnap acc s).getD 2 0).toNat = len := length.symm
  have zero : fldW ((updSnap acc s).getD 0 0) 11 0 = 0 := field
  simp only [updAct, word, zero, fault, ready, life, ne_eq, not_true_eq_false, if_false, Option.map_some]
  exact ⟨_, rfl⟩

/-- A command whose condition holds. -/
theorem upd_done {c : Instr} (h : IsUpd acc c cmd) (reach : grpReach s .bootUpd acc 0 = true) (opened : blockOpen s acc 17 = true)
    (owned : s.cel.own ≠ 2) (fit : updFault s cmd len = none) {p : State → Prop}
    (effect : ∀ x : State, x.boot = s.boot → p (updDo cmd len x)) :
    Completes c s (fun u => cstatOf u .bootUpd acc 0 = (cOK, 0) ∧ p u ∧ Only [.grp, .boot, .book] s u) := by
  refine ⟨_, exec_upd h s, ?_⟩
  rw [updCmd_runs reach opened owned, updAct_accepted ready life field length fit]
  exact ⟨updTaken_ok _ _ _ _ _, effect _ (updTaken_boot _ _ _), updDone_frame _ _ _ _⟩

/-- A command whose condition fails leaves the update engine. -/
theorem upd_refused {c : Instr} {f : Nat × Option Nat} (h : IsUpd acc c cmd) (reach : grpReach s .bootUpd acc 0 = true)
    (opened : blockOpen s acc 17 = true) (owned : s.cel.own ≠ 2) (fault : updFault s cmd len = some f) :
    Completes c s (fun u => u.boot = s.boot ∧ (cstatOf u .bootUpd acc 0).1 = f.1 ∧ Only [.grp, .book] s u) := by
  obtain ⟨off, refused⟩ := updAct_refused ready life field length fault
  refine ⟨_, exec_upd h s, ?_⟩
  rw [updCmd_runs reach opened owned, refused]
  have frame : Only [.grp, .book] s (updRec cmd f.1 (setCstat 0 .bootUpd 0 f.1 off s)) :=
    record_only _ _ _ (by decide) (setCstat_only _ _ _ _ _ (by decide) (Only.rfl' _ s))
  refine ⟨frame .boot (by decide), ?_, frame⟩
  rw [cstatOf_of_grp (updRec_frame _ _ _ .grp (by decide))]
  exact congrArg Prod.fst (cstatOf_setCstat .bootUpd acc 0 f.1 off s)
end Accepted

theorem upd_pending {c : Instr} {cmd : Nat} {acc : Acc} {s : State} (h : IsUpd acc c cmd) (reach : grpReach s .bootUpd acc 0 = true)
    (opened : blockOpen s acc 17 = true) (unowned : s.cel.own = 2) :
    Completes c s (fun u => (cstatOf u .bootUpd acc 0).1 = cPENDING ∧
      u.boot = { s.boot with updWait := s.boot.updWait ++ [(cmd, (List.range 3).map (shadowReg s .bootUpd acc 0))] } ∧
      Only [.grp, .boot] s u) := by
  refine ⟨_, exec_upd h s, ?_⟩
  rw [updCmd_waits reach opened unowned]
  exact ⟨congrArg Prod.fst (cstatOf_setCstat .bootUpd acc 0 cPENDING 0 s), rfl,
    modBoot_only _ (by decide) (setCstat_only _ _ _ _ _ (by decide) (Only.rfl' _ s))⟩

/-! ## Firmware slots -/

theorem slotFw_setFw (k : Nat) (f : FwSlot → FwSlot) (s : State) : slotFw (setFw k f s) k = f (slotFw s k) := by
  unfold slotFw setFw modBoot
  split <;> rfl

theorem slotFw_setFw_other {k j : Nat} {f : FwSlot → FwSlot} {s : State} (low : k < 2) (other : j = 1 - k) :
    slotFw (setFw k f s) j = slotFw s j := by
  obtain rfl | rfl : k = 0 ∨ k = 1 := by omega
  · subst other
    rfl
  · subst other
    rfl

theorem slotFw_of_boot {s u : State} (h : u.boot = s.boot) (k : Nat) : slotFw u k = slotFw s k := by rw [slotFw, slotFw, h]
theorem staging_of_boot {s u : State} (h : u.boot = s.boot) : staging u = staging s := by rw [staging, staging, h]
theorem raisedMin_of_boot {s u : State} (h : u.boot = s.boot) (k : Nat) : raisedMin u k = raisedMin s k := by
  rw [raisedMin, raisedMin, slotFw_of_boot h, h]

/-- What a change of one slot leaves of the update engine. -/
def Boot.offSlots (b : Boot) : Boot := { b with slotA := {}, slotB := {} }
theorem setFw_offSlots (k : Nat) (f : FwSlot → FwSlot) (s : State) : (setFw k f s).boot.offSlots = s.boot.offSlots := by
  unfold setFw modBoot
  dsimp only
  split <;> rfl

theorem download_effect {len k : Nat} {s x : State} (same : x.boot = s.boot) (slot : k = staging s) :
    slotFw (updDo 1 len x) k = { st := 1 } ∧ (updDo 1 len x).boot.updRun = 1 ∧ (updDo 1 len x).boot.updLen = len := by
  rw [slot, ← staging_of_boot same]
  have off := setFw_offSlots (staging x) (fun _ => { st := 1 })
    (modBoot (fun b => { b with updRun := 1, updLen := len, updDone := 0, reverify := false }) x)
  exact ⟨(slotFw_setFw (staging x) (fun _ => { st := 1 }) _ :), (congrArg Boot.updRun off :), (congrArg Boot.updLen off :)⟩

theorem activate_effect {len k : Nat} {s x : State} (same : x.boot = s.boot) (slot : k = staging s) (low : s.boot.activeSlot < 2) :
    (updDo 3 len x).boot.activeSlot = k ∧ (updDo 3 len x).boot.trial = true ∧ (updDo 3 len x).boot.trialCnt = 0 ∧
      (slotFw (updDo 3 len x) k).st = 6 ∧ (slotFw (updDo 3 len x) (1 - k)).st = 7 ∧ (updDo 3 len x).boot.ptrSeq = s.boot.ptrSeq + 1 := by
  have small : k < 2 := by rw [slot, staging]; omega
  have written : updDo 3 len x = setFw k (fun x => { x with st := 6 }) (setFw (1 - k) (fun x => { x with st := 7 })
      (ptrWrite (fun b => { b with activeSlot := k, trial := true, trialCnt := 0 }) x)) := by rw [slot, ← staging_of_boot same]; rfl
  have off := (setFw_offSlots k (fun x => { x with st := 6 }) (setFw (1 - k) (fun x => { x with st := 7 })
      (ptrWrite (fun b => { b with activeSlot := k, trial := true, trialCnt := 0 }) x))).trans (setFw_offSlots _ _ _)
  rw [written]
  refine ⟨(congrArg Boot.activeSlot off :), (congrArg Boot.trial off :), (congrArg Boot.trialCnt off :), ?_, ?_,
    (congrArg Boot.ptrSeq off :).trans (congrArg (fun b => b.ptrSeq + 1) same)⟩
  · rw [slotFw_setFw]
  · rw [slotFw_setFw_other small rfl, slotFw_setFw]

theorem confirm_effect {len k : Nat} {s x : State} (same : x.boot = s.boot) (slot : k = staging s) (low : s.boot.activeSlot < 2) :
    (updDo 4 len x).boot.trial = false ∧ (updDo 4 len x).boot.activeSlot = 1 - k ∧ (slotFw (updDo 4 len x) (1 - k)).st = 5 ∧
      (updDo 4 len x).boot.minVer = raisedMin s (1 - k) := by
  have mine : x.boot.activeSlot = 1 - k := by rw [same, slot, staging]; omega
  have written : updDo 4 len x = setFw (1 - k) (fun x => { x with st := 5 })
      (ptrWrite (fun b => { b with trial := false, trialCnt := 0, minVer := raisedMin s (1 - k) }) x) := by
    rw [← raisedMin_of_boot same, ← mine]; rfl
  have off := setFw_offSlots (1 - k) (fun x => { x with st := 5 })
    (ptrWrite (fun b => { b with trial := false, trialCnt := 0, minVer := raisedMin s (1 - k) }) x)
  rw [written]
  exact ⟨(congrArg Boot.trial off :), (congrArg Boot.activeSlot off :).trans mine, by rw [slotFw_setFw], (congrArg Boot.minVer off :)⟩

theorem abort_effect {len k : Nat} {s x : State} (same : x.boot = s.boot) (slot : k = staging s) :
    (slotFw (updDo 5 len x) k).st = 4 ∧ (updDo 5 len x).boot.updRun = 0 := by
  rw [slot, ← staging_of_boot same]
  have off := setFw_offSlots (staging x) (fun x => { x with st := 4 }) (modBoot (fun b => { b with updRun := 0, updLen := 0 }) x)
  exact ⟨(congrArg FwSlot.st (slotFw_setFw (staging x) (fun x => { x with st := 4 }) _) :), (congrArg Boot.updRun off :)⟩

/-- The bytes read from the host are programmed into the staging slot. -/
theorem downloadDone_programs {data : List Byte} {s : State} (running : s.dbg.frost = 0) (owned : s.cel.own ≠ 2) (run : s.boot.updRun = 1)
    (length : data.length = s.boot.updLen) :
    Completes (.downloadDone data) s (fun u => slotFw u (staging s) = { st := 2, data := data } ∧ u.boot.updRun = 0 ∧
      u.boot.updDone = s.boot.updLen ∧ Only [.boot] s u) := by
  have off := setFw_offSlots (staging s) (fun _ => { st := 2, data := data }) (modBoot (fun b => { b with updRun := 0, updDone := b.updLen }) s)
  refine ⟨setFw (staging s) (fun _ => { st := 2, data := data }) (modBoot (fun b => { b with updRun := 0, updDone := b.updLen }) s), ?_,
    slotFw_setFw _ _ _, (congrArg Boot.updRun off :), (congrArg Boot.updDone off :),
    setFw_only _ _ (by decide) (modBoot_only _ (by decide) (Only.rfl' _ s))⟩
  exact (clocked_running running _).trans (congrArg Host.Outcome.next (if_pos ⟨run, length, owned⟩))

/-- The Cave's check of the staging slot. -/
theorem verifyDone_verifies {s : State} (running : s.dbg.frost = 0) (owned : s.cel.own ≠ 2) (run : s.boot.updRun = 2)
    (loaded : (slotFw s (staging s)).st = 2) (up : caveDown s = false) :
    Completes .verifyDone s (fun u => (slotFw u (staging s)).st = (if slotVerifies s (staging s) false then 3 else 4) ∧ u.boot.updRun = 0 ∧
      (slotFw u (staging s)).data = (slotFw s (staging s)).data ∧ Only [.boot] s u) := by
  have off := setFw_offSlots (staging s) (fun x => { x with st := if slotVerifies s (staging s) false then 3 else 4 })
    (modBoot (fun b => { b with updRun := 0, reverify := false }) s)
  have own := slotFw_setFw (staging s) (fun x => { x with st := if slotVerifies s (staging s) false then 3 else 4 })
    (modBoot (fun b => { b with updRun := 0, reverify := false }) s)
  refine ⟨_, (clocked_running running _).trans (congrArg Host.Outcome.next (if_pos ⟨.inl run, loaded, by simp [up], owned⟩)),
    congrArg FwSlot.st own, (congrArg Boot.updRun off :), (congrArg FwSlot.data own).trans rfl,
    setFw_only _ _ (by decide) (modBoot_only _ (by decide) (Only.rfl' _ s))⟩

/-! ## Drains and block resets (R604 to R606) -/

theorem modBlkDrain_drains {acc : Acc} {v : Word} {s : State} (opened : blockOpen s acc 0 = true) :
    Completes (.modBlkDrain acc v) s (fun u =>
      u.boot = { s.boot with drained := (List.range 19).filter (fun i => decide (1 ≤ i) && bitW v i) } ∧
      Only [.out, .mem, .pln, .vnl, .rck, .boot] s u) := by
  let x := modBoot (fun b => { b with drained := (List.range 19).filter (fun i => decide (1 ≤ i) && bitW v i) }) s
  refine ⟨release x, congrArg Host.Outcome.next (if_pos opened), ?_,
    release_only (by decide) (by decide) (by decide) (by decide) (by decide) (modBoot_only _ (by decide) (Only.rfl' _ s))⟩
  exact release_only (fr := [.out, .mem, .pln, .vnl, .rck]) (by decide) (by decide) (by decide) (by decide) (by decide) (Only.rfl' _ x)
    .boot (by decide)

/-- A write of one block's bit resets that block. -/
theorem exec_modBlkReset {acc : Acc} {i : Nat} {s : State} (opened : blockOpen s acc 0 = true) (low : 1 ≤ i ∧ i < 19) :
    exec (.modBlkReset acc (wordOf (2 ^ i))) s = .next (blkReset i s) := by
  have one : (List.range 19).filter (fun j => decide (1 ≤ j) && bitW (wordOf (2 ^ i)) j) = [i] := by
    obtain ⟨pos, small⟩ := low
    interval_cases i <;> decide
  exact congrArg Host.Outcome.next ((if_pos opened).trans (congrArg (fun l => forS l blkReset s) one))

/-- While a tenant is bound the reset of a tenants' block is counted as ignored (R605). -/
theorem blkReset_ignored {b : Nat} {s : State} (tenants : tenantBlk b = true) (bound : boundTens s ≠ []) :
    blkReset b s = modBoot (fun x => { x with ignored := satAdd 32 x.ignored 1 }) s :=
  if_pos (.inl ⟨tenants, by rwa [List.isEmpty_iff]⟩)

/-- A state marked where a reset cuts work off. -/
def markHung (b : Nat) (s : State) : State := if blkIdle s b then s else modBoot (fun x => { x with hung := addOnce b x.hung }) s
theorem markHung_frame (b : Nat) (s : State) : Only [.boot] s (markHung b s) :=
  ite_only (Only.rfl' _ s) (modBoot_only _ (by decide) (Only.rfl' _ s))

theorem blkReset_acts {b : Nat} {s : State} (free : boundTens s = []) (other : b ≠ 16 ∧ b ≠ 11) :
    blkReset b s = blkUnit b (blkRegs b (markHung b s)) := by
  rw [blkReset, if_neg (by simp [free, other.1])]
  exact if_neg other.2

/-- What stands before the unit of a block is reset. -/
theorem blkRegs_markHung_only {ps : List Part} (b : Nat) (s : State) (regs : Part.regs ∈ ps) (grp : Part.grp ∈ ps) (boot : Part.boot ∈ ps) :
    Only ps s (blkRegs b (markHung b s)) :=
  regs_only regs (modGrp_only _ grp (ite_only (Only.rfl' _ s) (modBoot_only _ boot (Only.rfl' _ s))))

/-- The committed sets of group number `g` stand through a reset of block `b`: another block's, or kept (Table 17.1). -/
def keepsSets (b g : Nat) : Bool :=
  !allGrps.any (fun x => decide (x.idx = g) && decide (blockOf x.cstat = b)) || (decide (g = Grp.rckWear.idx) || decide (g = Grp.boot.idx))

theorem cset_blkRegs (b : Nat) (g : Grp) (obj i : Nat) (s : State) (small : i < 512) :
    cset (blkRegs b s) g obj i = if keepsSets b g.idx then cset s g obj i else g.reset s.half i := by
  have key : Map.find (Map.keep (fun k _ => keepsSets b (keyGrp k)) s.grp.sets) (setKey g obj i) =
      if keepsSets b g.idx then Map.find s.grp.sets (setKey g obj i) else none := by
    rw [Map.keep, find_filter_key (fun k => keepsSets b (keyGrp k)), setKey_grp g obj i small]
  have sets : (blkRegs b s).grp.sets = Map.keep (fun k _ => keepsSets b (keyGrp k)) s.grp.sets := rfl
  have half : (blkRegs b s).half = s.half := rfl
  rw [cset, sets, half, Map.get, key]
  split <;> rfl

theorem cset_markHung (b : Nat) (g : Grp) (obj i : Nat) (s : State) : cset (markHung b s) g obj i = cset s g obj i := by
  have grp : (markHung b s).grp = s.grp := markHung_frame b s .grp (by decide)
  have half : (markHung b s).half = s.half := markHung_frame b s .half (by decide)
  rw [cset, grp, half, cset]

section Reset
variable {acc : Acc} {s : State} (opened : blockOpen s acc 0 = true) (free : boundTens s = [])
include opened free

/-- With every tenant FREE a block's reset takes its registers, then its unit. -/
theorem modBlkReset_acts {b : Nat} (low : 1 ≤ b ∧ b < 19) (other : b ≠ 16 ∧ b ≠ 11) {p : State → Prop}
    (effect : p (blkUnit b (blkRegs b (markHung b s)))) : Completes (.modBlkReset acc (wordOf (2 ^ b))) s p :=
  ⟨_, (exec_modBlkReset opened low).trans (congrArg Host.Outcome.next (blkReset_acts free other)), effect⟩

theorem resetVine_resets : Completes (.modBlkReset acc (wordOf (2 ^ 7))) s (fun u =>
    u.vnl = { memoLinks := s.vnl.memoLinks, memoRoutes := s.vnl.memoRoutes } ∧ Only [.regs, .grp, .vnl, .boot] s u) := by
  refine modBlkReset_acts opened free (by decide) (by decide) ⟨?_,
    modVnl_only _ (by decide) (blkRegs_markHung_only 7 s (by decide) (by decide) (by decide))⟩
  have vnl : (blkRegs 7 (markHung 7 s)).vnl = s.vnl :=
    blkRegs_markHung_only (ps := [.regs, .grp, .boot]) 7 s (by decide) (by decide) (by decide) .vnl (by decide)
  rw [blkUnit, modVnl, vnl]

theorem resetCol_resets : Completes (.modBlkReset acc (wordOf (2 ^ 8))) s (fun u =>
    u.col = {} ∧ (∀ i, i < 512 → cset u .col 0 i = Grp.reset s.half .col i) ∧ Only [.regs, .grp, .col, .boot] s u) := by
  refine modBlkReset_acts opened free (by decide) (by decide) ⟨rfl, fun i small => ?_,
    modCol_only _ (by decide) (blkRegs_markHung_only 8 s (by decide) (by decide) (by decide))⟩
  refine (cset_blkRegs 8 .col 0 i (markHung 8 s) small).trans ?_
  rw [if_neg (by decide)]
  exact congrArg (fun h => Grp.reset h .col i) (markHung_frame 8 s .half (by decide))

theorem resetStp_resets : Completes (.modBlkReset acc (wordOf (2 ^ 9))) s (fun u => u.stp = {} ∧ Only [.regs, .grp, .stp, .boot] s u) :=
  modBlkReset_acts opened free (by decide) (by decide)
    ⟨rfl, modStp_only _ (by decide) (blkRegs_markHung_only 9 s (by decide) (by decide) (by decide))⟩

theorem resetRck_resets : Completes (.modBlkReset acc (wordOf (2 ^ 10))) s (fun u =>
    u.rck = { keptRck s.rck.bucket s.rck.total s.rck with wearAt := s.rck.wearAt } ∧ cset u .rckWear 0 0 = cset s .rckWear 0 0 ∧
    Only [.regs, .grp, .rck, .boot] s u) := by
  refine modBlkReset_acts opened free (by decide) (by decide) ⟨?_, ?_,
    modRck_only _ (by decide) (blkRegs_markHung_only 10 s (by decide) (by decide) (by decide))⟩
  · have rck : (blkRegs 10 (markHung 10 s)).rck = s.rck :=
      blkRegs_markHung_only (ps := [.regs, .grp, .boot]) 10 s (by decide) (by decide) (by decide) .rck (by decide)
    rw [blkUnit, modRck, rck]
  · refine (cset_blkRegs 10 .rckWear 0 0 (markHung 10 s) (by decide)).trans ?_
    rw [if_pos (by decide)]
    exact cset_markHung 10 .rckWear 0 0 s

theorem resetTim_resets : Completes (.modBlkReset acc (wordOf (2 ^ 14))) s (fun u => u.tim = {} ∧ Only [.regs, .grp, .tim, .boot] s u) :=
  modBlkReset_acts opened free (by decide) (by decide)
    ⟨rfl, modTim_only _ (by decide) (blkRegs_markHung_only 14 s (by decide) (by decide) (by decide))⟩
end Reset

/-! ## The Cave and the sideband -/

/-- A Cave in error with its event. -/
def caveFailed (d test : Nat) (s : State) : State :=
  record 0x0F04 0 (d + test % 256 * 256) (modSec (fun x => { x with caveErr := addOnce d x.caveErr }) s)
theorem caveFailed_frame (d test : Nat) (s : State) : Only [.sec, .book] s (caveFailed d test s) :=
  record_only _ _ _ (by decide) (modSec_only _ (by decide) (Only.rfl' _ s))
theorem caveFailed_marks (d test : Nat) (s : State) : memb d (caveFailed d test s).sec.caveErr = true := by
  have sec : (caveFailed d test s).sec = { s.sec with caveErr := addOnce d s.sec.caveErr } := record_frame _ _ _ _ .sec (by decide)
  rw [sec]
  exact memb_addOnce d _

theorem exec_caveFail {d : Nat} (test : Nat) {s : State} (running : s.dbg.frost = 0) (low : d < 2) (well : memb d s.sec.caveErr = false) :
    exec (.caveHealthTestFail d test) s =
      .next (if s.cel.own = d then faultRelease (caveFailed d test s) else caveFailed d test s) :=
  (clocked_running running _).trans (congrArg Host.Outcome.next (if_pos ⟨low, by simp [well]⟩))

/-- The Cave of the die that holds OWN releases it (R430). -/
theorem caveFail_releases {d test : Nat} {s : State} (running : s.dbg.frost = 0) (low : d < 2) (well : memb d s.sec.caveErr = false)
    (own : s.cel.own = d) :
    Completes (.caveHealthTestFail d test) s (fun u =>
      memb d u.sec.caveErr = true ∧ u.cel.own = 2 ∧ dieState u d = 6 ∧ Only [.cel, .tim, .sec, .book] s u) := by
  have held : (caveFailed d test s).cel.own = d := (congrArg Cel.own (caveFailed_frame d test s .cel (by decide))).trans own
  obtain ⟨released, failed, -⟩ := faultRelease_releases held low
  have sec : (faultRelease (caveFailed d test s)).sec = (caveFailed d test s).sec :=
    faultRelease_only (fr := [.cel, .tim, .book]) (by decide) (by decide) (by decide) (Only.rfl' _ _) .sec (by decide)
  refine ⟨_, (exec_caveFail test running low well).trans (congrArg Host.Outcome.next (if_pos own)), ?_, released, failed,
    faultRelease_only (by decide) (by decide) (by decide) (record_only _ _ _ (by decide) (modSec_only _ (by decide) (Only.rfl' _ s)))⟩
  rw [sec]
  exact caveFailed_marks d test s

theorem caveFail_other {d test : Nat} {s : State} (running : s.dbg.frost = 0) (low : d < 2) (well : memb d s.sec.caveErr = false)
    (other : s.cel.own ≠ d) :
    Completes (.caveHealthTestFail d test) s (fun u => memb d u.sec.caveErr = true ∧ Only [.sec, .book] s u) :=
  ⟨_, (exec_caveFail test running low well).trans (congrArg Host.Outcome.next (if_neg other)), caveFailed_marks d test s,
    caveFailed_frame d test s⟩

/-- Settles O60: an update command is taken, refused or kept waiting by `updCmd`, its effect is that of `updDo`; a block reset is
`blkUnit` over `blkRegs`. -/
theorem blocksAndUpdate : Obligations.BlocksAndUpdate := by
  refine ⟨fun acc s opened => congrArg Host.Outcome.next (if_pos opened), fun acc v s => modBlkDrain_drains,
    fun acc i s opened block bound => ?_, fun acc s => resetVine_resets, fun acc s => resetCol_resets, fun acc s => resetStp_resets,
    fun acc s => resetRck_resets, fun acc s => resetTim_resets,
    fun len k acc s reach opened ready life owned field length slot low fit => ?_,
    fun len k acc s reach opened ready life owned field length slot low fit => ?_,
    fun len k acc s reach opened ready life owned field length slot low fit => ?_,
    fun len k acc s reach opened ready life owned field length slot low fit => ?_,
    fun len k acc s reach opened ready life owned field length slot low fit => ?_,
    fun c cmd len f acc s h reach opened ready life owned field length fault =>
      upd_refused ready life field length h reach opened owned fault,
    fun c cmd acc s h reach opened unowned => upd_pending h reach opened unowned,
    fun data s => downloadDone_programs, fun s => verifyDone_verifies, fun d test s => caveFail_other, fun d test s => caveFail_releases,
    fun target s running owner => (clocked_running running _).trans (congrArg Host.Outcome.next (if_pos owner))⟩
  · have tenants : tenantBlk i = true ∧ 1 ≤ i ∧ i < 19 := by
      simp only [List.mem_cons, List.not_mem_nil, or_false] at block
      simp only [tenantBlk, Bool.or_eq_true, Bool.and_eq_true, decide_eq_true_eq]
      omega
    exact (exec_modBlkReset opened tenants.2).trans (congrArg Host.Outcome.next (blkReset_ignored tenants.1 bound))
  · obtain ⟨u, runs, status, ⟨loaded, run, size⟩, frame⟩ := upd_done (c := .updDownload acc) ready life field length
      (by simp [IsUpd]) reach opened owned fit
      (p := fun u => slotFw u k = { st := 1 } ∧ u.boot.updRun = 1 ∧ u.boot.updLen = len) fun x same => download_effect same slot
    exact ⟨u, runs, status, loaded, run, size, frame⟩
  · exact upd_done ready life field length (by simp [IsUpd]) reach opened owned fit
      fun x same => congrArg (fun b : Boot => { b with updRun := 2 }) same
  · obtain ⟨u, runs, status, ⟨active, trial, count, new, old, seq⟩, frame⟩ := upd_done (c := .updActivate acc) ready
      life field length (by simp [IsUpd]) reach opened owned fit
      (p := fun u => u.boot.activeSlot = k ∧ u.boot.trial = true ∧ u.boot.trialCnt = 0 ∧ (slotFw u k).st = 6 ∧
        (slotFw u (1 - k)).st = 7 ∧ u.boot.ptrSeq = s.boot.ptrSeq + 1) fun x same => activate_effect same slot low
    exact ⟨u, runs, status, active, trial, count, new, old, seq, frame⟩
  · obtain ⟨u, runs, status, ⟨trial, active, st, vers⟩, frame⟩ := upd_done (c := .updConfirm acc) ready life field length
      (by simp [IsUpd]) reach opened owned fit (p := fun u => u.boot.trial = false ∧ u.boot.activeSlot = 1 - k ∧ (slotFw u (1 - k)).st = 5 ∧
        u.boot.minVer = raisedMin s (1 - k)) fun x same => confirm_effect same slot low
    exact ⟨u, runs, status, trial, active, st, vers, frame⟩
  · obtain ⟨u, runs, status, ⟨st, run⟩, frame⟩ := upd_done (c := .updAbort acc) ready life field length (by simp [IsUpd])
      reach opened owned fit
      (p := fun u => (slotFw u k).st = 4 ∧ u.boot.updRun = 0) fun x same => abort_effect same slot
    exact ⟨u, runs, status, st, run, frame⟩

end Sys2Proof.Machine
end

section
/-!
The module reset and the beginning of start-up: what a reset leaves (Table 17.1; R597 to R602), what B01 begins with (R599, R607, R610).
-/
namespace Sys2Proof.Machine

/-! ## The boot ledger and events -/

/-- The book without what waits for a commit. -/
def Book.written (b : Book) : Book := { b with waiting := [], lost := 0, dropped := 0, hoursKept := 0, hoursDue := false }
theorem record_written (code subject detail : Nat) (s : State) : (record code subject detail s).book.written = s.book.written := by
  unfold record addRec modBook
  split <;> rfl

/-- The ledger's place in the state of start-up. -/
def Boot.offLedger (b : Boot) : Boot := { b with ledger := [], ldgNext := 0, ldgSeq := 0 }
theorem ledger_written (k : Nat) (isEnd : Bool) (path result detail : Nat) (s : State) :
    (ledger k isEnd path result detail s).book.written = s.book.written := rfl
theorem ledger_frame (k : Nat) (isEnd : Bool) (path result detail : Nat) (s : State) :
    Only [.boot, .book, .mram] s (ledger k isEnd path result detail s) :=
  ledger_only _ _ _ _ _ (by decide) (by decide) (by decide) (Only.rfl' _ s)

/-! ## A step of start-up begins (R607, R610) -/

/-- A step that starts on a path: its start record, then the step. -/
def startStep (k p : Nat) (s : State) : State := modBoot (fun b => { b with step := k, path := p }) (ledger k false p 0 0 s)
theorem startStep_frame (k p : Nat) (s : State) : Only [.boot, .book, .mram] s (startStep k p s) :=
  modBoot_only _ (by decide) (ledger_only _ _ _ _ _ (by decide) (by decide) (by decide) (Only.rfl' _ s))
theorem startStep_boot (k p : Nat) (s : State) :
    (startStep k p s).boot.offLedger = ({ s.boot with step := k, path := p } : Boot).offLedger := rfl
theorem startStep_written (k p : Nat) (s : State) : (startStep k p s).book.written = s.book.written := ledger_written k false p 0 0 s

theorem beginStep_starts {n k p : Nat} {s : State} (low : k < 14) (input : k ≠ 5 ∨ s.pwr.qualified = true) (path : bootPath s k = some p)
    (goes : p ≠ 3) : beginStep (n + 1) k s = startStep k p s := by
  have early : ¬ 15 ≤ k := by omega
  have waits : ¬ (k = 5 ∧ ¬ s.pwr.qualified = true) := fun h => input.elim (fun other => other h.1) h.2
  simp only [beginStep, if_neg early, if_neg waits, path, if_neg goes, if_neg (Nat.ne_of_lt low), startStep]

theorem beginStep_halts {n k : Nat} {s : State} (low : k < 14) (input : k ≠ 5 ∨ s.pwr.qualified = true) (path : bootPath s k = none) :
    beginStep (n + 1) k s = bootHalt k s := by
  have early : ¬ 15 ≤ k := by omega
  have waits : ¬ (k = 5 ∧ ¬ s.pwr.qualified = true) := fun h => input.elim (fun other => other h.1) h.2
  simp only [beginStep, if_neg early, if_neg waits, path]

/-! ## Start-up begins at B01 (R599) -/

/-- Start-up's records and lifecycle, before B01. -/
def startHead (s : State) : State :=
  let s1 := record 0x1100 0 s.boot.cause (modBoot (fun b => { b with bootTick := s.tick, heldReset := false }) s)
  let l := resetLife s.sec
  let s2 := modSec (fun x => { x with life := l, sealTaken := false }) (modCel (fun c => { c with ca := 1, cb := 1 }) s1)
  if l = s.sec.life then s2 else record 0x0F00 0 (lifeCode l + lifeCode s.sec.life * 8) s2

theorem startUp_eq (s : State) : startUp s = beginStep 16 1 (startHead s) := rfl

theorem startHead_spec (s : State) :
    Only [.cel, .sec, .boot, .book] s (startHead s) ∧ (startHead s).cel = { s.cel with ca := 1, cb := 1 } ∧
      (startHead s).sec = { s.sec with life := resetLife s.sec, sealTaken := false } ∧
      (startHead s).boot = { s.boot with bootTick := s.tick, heldReset := false } ∧ (startHead s).book.written = s.book.written := by
  let s1 := record 0x1100 0 s.boot.cause (modBoot (fun b => { b with bootTick := s.tick, heldReset := false }) s)
  let s2 := modSec (fun x => { x with life := resetLife s.sec, sealTaken := false }) (modCel (fun c => { c with ca := 1, cb := 1 }) s1)
  have first : Only [.book] (modBoot (fun b => { b with bootTick := s.tick, heldReset := false }) s) s1 := record_frame _ _ _ _
  have sec : s1.sec = s.sec := first .sec (by decide)
  have cel : s1.cel = s.cel := first .cel (by decide)
  have boot : s1.boot = { s.boot with bootTick := s.tick, heldReset := false } := first .boot (by decide)
  have second : Only [.cel, .sec, .boot, .book] s s2 :=
    modSec_only _ (by decide) (modCel_only _ (by decide) (record_only _ _ _ (by decide) (modBoot_only _ (by decide) (Only.rfl' _ s))))
  have same : s2.cel = { s.cel with ca := 1, cb := 1 } ∧ s2.sec = { s.sec with life := resetLife s.sec, sealTaken := false } ∧
      s2.boot = { s.boot with bootTick := s.tick, heldReset := false } ∧ s2.book.written = s.book.written :=
    ⟨congrArg (fun c : Cel => { c with ca := 1, cb := 1 }) cel,
      congrArg (fun x : Sec => { x with life := resetLife s.sec, sealTaken := false }) sec, boot, record_written _ _ _ _⟩
  have head : startHead s = if resetLife s.sec = s.sec.life then s2
      else record 0x0F00 0 (lifeCode (resetLife s.sec) + lifeCode s.sec.life * 8) s2 := rfl
  obtain ⟨cel2, sec2, boot2, book2⟩ := same
  rw [head]
  split
  · exact ⟨second, cel2, sec2, boot2, book2⟩
  · have last := record_frame 0x0F00 0 (lifeCode (resetLife s.sec) + lifeCode s.sec.life * 8) s2
    exact ⟨record_only _ _ _ (by decide) second, (last .cel (by decide)).trans cel2, (last .sec (by decide)).trans sec2,
      (last .boot (by decide)).trans boot2, (record_written _ _ _ _).trans book2⟩

/-- What start-up does to the state it begins on. -/
structure StartsUp (a s : State) : Prop where
  frame : Only [.cel, .sec, .boot, .book, .mram] a s
  cel : s.cel = { a.cel with ca := 1, cb := 1 }
  sec : s.sec = { a.sec with life := resetLife a.sec, sealTaken := false }
  book : s.book.written = a.book.written
  cause : s.boot.cause = a.boot.cause
  cycles : s.boot.pwrCycles = a.boot.pwrCycles
  fails : s.boot.fails = a.boot.fails
  retiring : s.boot.retiring = a.boot.retiring
  released : s.boot.heldReset = false
  begins : bootPath a 1 = some 0 → s.boot.step = 1 ∧ s.boot.path = 0
  halts : bootPath a 1 = none → s.boot.halted = true ∧ s.boot.failStep = 1

/-- B01 runs while it has failed at most once in a row. -/
theorem bootPath_one (s : State) : bootPath s 1 = if Map.get 0 s.boot.fails 1 ≤ 1 then some 0 else none := by
  simp [bootPath, runAgain, memb]

theorem startUp_starts (s : State) : StartsUp s (startUp s) := by
  obtain ⟨frame, cel, sec, boot, book⟩ := startHead_spec s
  have path : bootPath (startHead s) 1 = bootPath s 1 := by rw [bootPath_one, bootPath_one, boot]
  have known := bootPath_one s
  rw [startUp_eq]
  split at known
  · rw [beginStep_starts (by decide) (.inl (by decide)) (path.trans known) (by decide)]
    have later := startStep_frame 1 0 (startHead s)
    have rest : (startStep 1 0 (startHead s)).boot.offLedger =
        ({ s.boot with bootTick := s.tick, heldReset := false, step := 1, path := 0 } : Boot).offLedger := by rw [startStep_boot, boot]
    exact {
      frame := modBoot_only _ (by decide) (ledger_only _ _ _ _ _ (by decide) (by decide) (by decide) (frame.mono (by decide)))
      cel := (later .cel (by decide)).trans cel
      sec := (later .sec (by decide)).trans sec
      book := (startStep_written 1 0 _).trans book
      cause := (congrArg Boot.cause rest :)
      cycles := (congrArg Boot.pwrCycles rest :)
      fails := (congrArg Boot.fails rest :)
      retiring := (congrArg Boot.retiring rest :)
      released := (congrArg Boot.heldReset rest :)
      begins := fun _ => ⟨(congrArg Boot.step rest :), (congrArg Boot.path rest :)⟩
      halts := fun none => absurd (known.symm.trans none) (by decide) }
  · rw [beginStep_halts (by decide) (.inl (by decide)) (path.trans known)]
    have later : Only [.book] (modBoot (fun b => { b with step := 0, halted := true, failStep := 1 }) (startHead s)) (bootHalt 1 (startHead s)) :=
      record_frame _ _ _ _
    have rest : (bootHalt 1 (startHead s)).boot =
        { s.boot with bootTick := s.tick, heldReset := false, step := 0, halted := true, failStep := 1 } :=
      (later .boot (by decide)).trans (congrArg (fun b : Boot => { b with step := 0, halted := true, failStep := 1 }) boot)
    exact {
      frame := record_only _ _ _ (by decide) (modBoot_only _ (by decide) (frame.mono (by decide)))
      cel := (later .cel (by decide)).trans cel
      sec := (later .sec (by decide)).trans sec
      book := (record_written _ _ _ _).trans book
      cause := (congrArg Boot.cause rest :)
      cycles := (congrArg Boot.pwrCycles rest :)
      fails := (congrArg Boot.fails rest :)
      retiring := (congrArg Boot.retiring rest :)
      released := (congrArg Boot.heldReset rest :)
      begins := fun some => absurd (known.symm.trans some) (by decide)
      halts := fun _ => ⟨(congrArg Boot.halted rest :), (congrArg Boot.failStep rest :)⟩ }

/-! ## Every unit in reset (R599, R601; Table 17.1) -/

/-- The retention array without the ledger. -/
def Mram.offLedger (m : Mram) : Mram := { m with ledger := [], ldgNext := 0, ldgSeq := 0 }
/-- The retention array as a reset reads it: with the end record of a step it cut short. -/
def resetMram (cause : Nat) (s : State) : Mram :=
  if decide (s.boot.step ≠ 0) && (decide (cause = 1) || decide (cause = 3)) then interrupted s else s.mram
theorem resetMram_kept (cause : Nat) (s : State) : (resetMram cause s).offLedger = s.mram.offLedger := by
  unfold resetMram
  split <;> rfl
/-- The results of the attempt a reset ends. -/
def resetResults (cause : Nat) (s : State) : Map Nat :=
  if decide (s.boot.step ≠ 0) && (decide (cause = 1) || decide (cause = 3)) then Map.put s.boot.results s.boot.step 3 else s.boot.results

/-- What a reset leaves, with what the retention array keeps (Table 17.1). -/
structure Resets (cause : Nat) (s u : State) : Prop where
  mem : u.mem = []
  regs : u.regs = s.mram.regs
  grp : u.grp = keptGroups s.half s.mram.wearCfg s.mram.bootCfg
  hif : u.hif = {}
  pln : u.pln = keptPln s.mram.retire s.mram.stkTrips
  cor : u.cor = {}
  vnl : u.vnl = { memoLinks := s.mram.memoLinks, memoRoutes := s.mram.memoRoutes }
  col : u.col = {}
  stp : u.stp = {}
  rck : u.rck = keptRck s.mram.bucket s.mram.total s.rck
  tim : u.tim = {}
  own : u.cel.own = 0
  power : u.pwr.st = .standby
  rails : u.pwr.auxRail = s.pwr.auxRail ∧ u.pwr.input = s.pwr.input ∧ u.pwr.qualified = s.pwr.qualified
  life : u.sec.life = s.sec.life ∧ u.sec.sealTaken = s.sec.sealTaken ∧ u.sec.closing = false
  nonce : u.sec.nonce = (Config.freeValue 128 s.free).toNat ∧ u.free = s.free + 1
  book : u.book.recs = s.book.recs ∧ u.book.head = s.book.head ∧ u.book.hours = s.book.hoursKept
  origin : u.boot.cause = cause
  cycles : u.boot.pwrCycles = if cause = 0 then satAdd 32 s.mram.pwrCycles 1 else s.mram.pwrCycles
  retiring : u.boot.retiring = bitW s.mram.retire 31
  fails : u.boot.fails = nextFails s.boot.halted s.boot.fails (resetResults cause s)
  time : u.tick = s.tick ∧ u.out = s.out

theorem enterReset_resets (cause : Nat) (s : State) : Resets cause s (enterReset cause s) := by
  have kept := resetMram_kept cause s
  exact {
    mem := rfl, hif := rfl, cor := rfl, col := rfl, stp := rfl, tim := rfl, own := rfl, power := rfl, rails := ⟨rfl, rfl, rfl⟩
    life := ⟨rfl, rfl, rfl⟩, nonce := ⟨rfl, rfl⟩, book := ⟨rfl, rfl, rfl⟩, origin := rfl, time := ⟨rfl, rfl⟩, fails := rfl
    regs := (congrArg Mram.regs kept :)
    grp := (congrArg (fun m => keptGroups s.half m.wearCfg m.bootCfg) kept :)
    pln := (congrArg (fun m => keptPln m.retire m.stkTrips) kept :)
    vnl := (congrArg (fun m => ({ memoLinks := m.memoLinks, memoRoutes := m.memoRoutes } : Vnl)) kept :)
    rck := (congrArg (fun m => keptRck m.bucket m.total s.rck) kept :)
    cycles := (congrArg (fun m => if cause = 0 then satAdd 32 m.pwrCycles 1 else m.pwrCycles) kept :)
    retiring := (congrArg (fun m => bitW m.retire 31) kept :) }

/-! ## Failures in a row (R610, R611) -/

theorem get_foldl_set (f : Nat → Nat) (n k : Nat) :
    Map.get 0 ((List.range n).foldl (fun m q => Map.set 0 m q (f q)) []) k = if k < n then f k else 0 := by
  induction n with
  | zero => rfl
  | succ n ih =>
    rw [List.range_succ, List.foldl_append, List.foldl_cons, List.foldl_nil, get_set, ih]
    by_cases here : k = n
    · subst here
      rw [if_pos rfl, if_pos (Nat.lt_succ_self _)]
    · rw [if_neg here]
      by_cases below : k < n
      · rw [if_pos below, if_pos (by omega)]
      · rw [if_neg below, if_neg (by omega)]

theorem get_nextFails {halted : Bool} {fails results : Map Nat} {k : Nat} (low : k < 15) :
    Map.get 0 (nextFails halted fails results) k =
      if halted ∧ runAgain k then 0 else if failing (Map.get 0 results k) then Map.get 0 fails k + 1 else 0 :=
  (get_foldl_set _ 15 k).trans (if_pos low)

end Sys2Proof.Machine
end

section
/-!
Rails, inputs and resets (R431 of 11, R483, R502, R504 of 13, R564 of 15, R597 to R602, R671 to R673 of 17).
-/
namespace Sys2Proof.Machine

/-! ## A reset with its start-up (R597, R599) -/

/-- What a reset and the beginning of its start-up leave. -/
structure Restarts (cause : Nat) (s u : State) : Prop where
  mem : u.mem = []
  regs : u.regs = s.mram.regs
  grp : u.grp = keptGroups s.half s.mram.wearCfg s.mram.bootCfg
  hif : u.hif = {}
  pln : u.pln = keptPln s.mram.retire s.mram.stkTrips
  cor : u.cor = {}
  vnl : u.vnl = { memoLinks := s.mram.memoLinks, memoRoutes := s.mram.memoRoutes }
  col : u.col = {}
  stp : u.stp = {}
  rck : u.rck = keptRck s.mram.bucket s.mram.total s.rck
  dies : u.cel.own = 0 ∧ u.cel.ca = 1 ∧ u.cel.cb = 1
  power : u.pwr.st = .standby
  rails : u.pwr.auxRail = s.pwr.auxRail ∧ u.pwr.input = s.pwr.input ∧ u.pwr.qualified = s.pwr.qualified
  life : u.sec.life = resetLife s.sec ∧ u.sec.closing = false
  book : u.book.recs = s.book.recs ∧ u.book.head = s.book.head ∧ u.book.hours = s.book.hoursKept
  origin : u.boot.cause = cause
  cycles : u.boot.pwrCycles = if cause = 0 then satAdd 32 s.mram.pwrCycles 1 else s.mram.pwrCycles
  retiring : u.boot.retiring = bitW s.mram.retire 31
  fails : u.boot.fails = nextFails s.boot.halted s.boot.fails (resetResults cause s)
  begins : Map.get 0 s.boot.fails 1 = 0 → u.boot.step = 1

/-- A first failure of B01 leaves its path (R610). -/
theorem bootPath_reset {cause : Nat} {s u : State} (h : Resets cause s u) (fresh : Map.get 0 s.boot.fails 1 = 0) : bootPath u 1 = some 0 := by
  have few : Map.get 0 u.boot.fails 1 ≤ 1 := by
    rw [h.fails, get_nextFails (by decide), fresh]
    split
    · decide
    · split <;> decide
  rw [bootPath_one, if_pos few]

theorem moduleReset_restarts (cause : Nat) (s : State) : Restarts cause s (moduleReset cause s) := by
  have reset := enterReset_resets cause s
  have start := startUp_starts (enterReset cause s)
  have pwr : (moduleReset cause s).pwr = (enterReset cause s).pwr := start.frame .pwr (by decide)
  have life : resetLife (enterReset cause s).sec = resetLife s.sec := by
    rw [resetLife, resetLife, reset.life.1, reset.life.2.1]
  exact {
    mem := (start.frame .mem (by decide)).trans reset.mem
    regs := (start.frame .regs (by decide)).trans reset.regs
    grp := (start.frame .grp (by decide)).trans reset.grp
    hif := (start.frame .hif (by decide)).trans reset.hif
    pln := (start.frame .pln (by decide)).trans reset.pln
    cor := (start.frame .cor (by decide)).trans reset.cor
    vnl := (start.frame .vnl (by decide)).trans reset.vnl
    col := (start.frame .col (by decide)).trans reset.col
    stp := (start.frame .stp (by decide)).trans reset.stp
    rck := (start.frame .rck (by decide)).trans reset.rck
    dies := ⟨(congrArg Cel.own start.cel :).trans reset.own, (congrArg Cel.ca start.cel :), (congrArg Cel.cb start.cel :)⟩
    power := (congrArg Pwr.st pwr).trans reset.power
    rails := by rw [pwr]; exact reset.rails
    life := ⟨(congrArg Sec.life start.sec :).trans life, (congrArg Sec.closing start.sec :).trans reset.life.2.2⟩
    book := ⟨(congrArg Book.recs start.book :).trans reset.book.1, (congrArg Book.head start.book :).trans reset.book.2.1,
      (congrArg Book.hours start.book :).trans reset.book.2.2⟩
    origin := start.cause.trans reset.origin
    cycles := start.cycles.trans reset.cycles
    retiring := start.retiring.trans reset.retiring
    fails := start.fails.trans reset.fails
    begins := fun fresh => (start.begins (bootPath_reset reset fresh)).1 }

/-- An event after the restart leaves it. -/
theorem Restarts.event {cause : Nat} {s u : State} (h : Restarts cause s u) (code subject detail : Nat) :
    Restarts cause s (record code subject detail u) := by
  have last := record_frame code subject detail u
  have written := record_written code subject detail u
  have cel : (record code subject detail u).cel = u.cel := last .cel (by decide)
  have pwr : (record code subject detail u).pwr = u.pwr := last .pwr (by decide)
  have sec : (record code subject detail u).sec = u.sec := last .sec (by decide)
  have boot : (record code subject detail u).boot = u.boot := last .boot (by decide)
  exact {
    mem := (last .mem (by decide)).trans h.mem
    regs := (last .regs (by decide)).trans h.regs
    grp := (last .grp (by decide)).trans h.grp
    hif := (last .hif (by decide)).trans h.hif
    pln := (last .pln (by decide)).trans h.pln
    cor := (last .cor (by decide)).trans h.cor
    vnl := (last .vnl (by decide)).trans h.vnl
    col := (last .col (by decide)).trans h.col
    stp := (last .stp (by decide)).trans h.stp
    rck := (last .rck (by decide)).trans h.rck
    dies := cel ▸ h.dies
    power := pwr ▸ h.power
    rails := pwr ▸ h.rails
    life := sec ▸ h.life
    book := ⟨(congrArg Book.recs written :).trans h.book.1, (congrArg Book.head written :).trans h.book.2.1,
      (congrArg Book.hours written :).trans h.book.2.2⟩
    origin := boot ▸ h.origin
    cycles := boot ▸ h.cycles
    retiring := boot ▸ h.retiring
    fails := boot ▸ h.fails
    begins := boot ▸ h.begins }

/-! ## Power-on -/

/-- A power-on from Off restarts the module in Standby (R431, R509). -/
theorem bootFromOff_restarts (s : State) : Restarts 0 (modPwr (fun p => { p with st := .standby }) s) (bootFromOff s) :=
  (moduleReset_restarts 0 _).event _ _ _

theorem powerOn_boots {s : State} (off : s.pwr.st = .off) :
    Completes .powerOn s (fun u =>
      u.pwr.st = .standby ∧ u.pwr.auxRail = true ∧ u.cel.own = 0 ∧ u.cel.ca = 1 ∧ u.cel.cb = 1 ∧ u.boot.cause = 0 ∧
      u.boot.pwrCycles = satAdd 32 s.mram.pwrCycles 1 ∧ u.mem = [] ∧ u.hif = {} ∧ u.stp = {} ∧ u.cor = {} ∧ u.col = {} ∧
      u.rck = keptRck s.mram.bucket s.mram.total s.rck ∧ u.pln = keptPln s.mram.retire s.mram.stkTrips ∧
      u.vnl = { memoLinks := s.mram.memoLinks, memoRoutes := s.mram.memoRoutes } ∧ u.regs = s.mram.regs ∧
      u.grp = keptGroups s.half s.mram.wearCfg s.mram.bootCfg ∧ u.book.recs = s.book.recs ∧ u.book.head = s.book.head ∧
      u.book.hours = s.book.hoursKept ∧ u.sec.life = resetLife s.sec ∧ (Map.get 0 s.boot.fails 1 = 0 → u.boot.step = 1)) := by
  refine ⟨_, congrArg Host.Outcome.next (if_pos off), ?_⟩
  have h := bootFromOff_restarts (modPwr (fun p => { p with auxRail := true }) s)
  exact ⟨h.power, h.rails.1, h.dies.1, h.dies.2.1, h.dies.2.2, h.origin, h.cycles, h.mem, h.hif, h.stp, h.cor, h.col, h.rck, h.pln, h.vnl,
    h.regs, h.grp, h.book.1, h.book.2.1, h.book.2.2, h.life.1, h.begins⟩

/-! ## A lost input (R502, R672, R673) -/

/-- The marks of a lost input. -/
def inputGone (s : State) : State := modPwr (fun p => { p with input := false, qualified := false }) s

theorem exec_inputLost {c : Instr} (h : c ∈ [Instr.inputLow, .inputOvervoltage]) (s : State) :
    exec c s = .next (if s.pwr.st = .off ∨ ¬ s.pwr.input = true then s else inputLoss s) := by
  simp only [List.mem_cons, List.not_mem_nil, or_false] at h
  rcases h with rfl | rfl <;> rfl

/-- What the loss of every rail but the Cellarer's leaves. -/
theorem railsOff_frame (s : State) : Only [.mem, .hif, .pln, .cor, .vnl, .col, .stp, .rck, .err, .pwr, .sec, .dbg, .boot] s (railsOff s) := by
  intro p h
  cases p with
  | half | moduleId | pending | tick | free | out | regs | grp | cel | pol | tim | book | mram => rfl
  | _ => exact absurd (by decide) h

theorem inputLost_drops {c : Instr} {s : State} (h : c ∈ [Instr.inputLow, .inputOvervoltage]) (on : s.pwr.st ≠ .off)
    (input : s.pwr.input = true) (released : s.boot.heldReset = false) (late : earlyBoot s = false) :
    Completes c s (fun u =>
      u.pwr.input = false ∧ u.pwr.qualified = false ∧ u.pwr.st = s.pwr.st ∧ u.mem = [] ∧ u.hif = {} ∧ u.cor = {} ∧ u.stp = {} ∧ u.col = {} ∧
      u.rck = { keptRck s.rck.bucket s.rck.total s.rck with wearAt := s.rck.wearAt } ∧ u.pln = keptPln s.pln.retire (stkTrips s.pln) ∧
      u.vnl = { memoLinks := s.vnl.memoLinks, memoRoutes := s.vnl.memoRoutes } ∧ u.boot.ready = false ∧ u.boot.hostReady = false ∧
      u.cel.up = s.cel.up ++ [.inputLow] ∧
      Only [.mem, .hif, .pln, .cor, .vnl, .col, .stp, .rck, .cel, .err, .pwr, .sec, .dbg, .boot] s u) := by
  refine ⟨upMsg .inputLow (railsOff (inputGone s)), ?_, rfl, rfl, rfl, rfl, rfl, rfl, rfl, rfl, rfl, rfl, rfl, rfl, rfl, rfl,
    modCel_only _ (by decide) ((modPwr_only _ (by decide) (Only.rfl' _ s)).trans ((railsOff_frame _).mono (by decide)))⟩
  rw [exec_inputLost h, if_neg (by simp [on, input]), inputLoss]
  rw [if_neg (by simp [released]), if_neg (by simp [late])]
  rfl

theorem inputLost_early {c : Instr} {s : State} (h : c ∈ [Instr.inputLow, .inputOvervoltage]) (on : s.pwr.st ≠ .off)
    (input : s.pwr.input = true) (released : s.boot.heldReset = false) (early : earlyBoot s = true) :
    exec c s = .next (upMsg .inputLow (inputGone s)) := by
  rw [exec_inputLost h, if_neg (by simp [on, input]), inputLoss]
  rw [if_neg (by simp [released]), if_pos early]
  rfl

/-- In a reset the loss only clears its marks. -/
theorem inputLost_held {c : Instr} {s : State} (h : c ∈ [Instr.inputLow, .inputOvervoltage]) (on : s.pwr.st ≠ .off)
    (input : s.pwr.input = true) (held : s.boot.heldReset = true) : exec c s = .next (inputGone s) := by
  rw [exec_inputLost h, if_neg (by simp [on, input]), inputLoss]
  exact congrArg Host.Outcome.next (if_pos held)

theorem auxRailLow_drops {s : State} (on : s.pwr.st ≠ .off) (rail : s.pwr.auxRail = true) :
    Completes .auxRailLow s (fun u =>
      u.pwr.auxRail = false ∧ u.pwr.input = false ∧ u.pwr.qualified = false ∧ u.mem = [] ∧ u.hif = {} ∧ u.cor = {} ∧ u.boot.step = 0 ∧
      u.rck = { keptRck s.rck.bucket s.rck.total s.rck with wearAt := s.rck.wearAt } ∧ u.cel.up = s.cel.up ++ [.inputLow] ∧
      Only [.mem, .hif, .pln, .cor, .vnl, .col, .stp, .rck, .cel, .err, .pwr, .sec, .dbg, .boot] s u) :=
  ⟨_, congrArg Host.Outcome.next (if_neg (by simp [on, rail])), rfl, rfl, rfl, rfl, rfl, rfl, rfl, rfl, rfl,
    modCel_only _ (by decide) ((modPwr_only _ (by decide) (Only.rfl' _ s)).trans ((railsOff_frame _).mono (by decide)))⟩

/-- The run-down of the hold-up leaves Off (R504). -/
theorem holdUp_runsDown {s : State} (rail : s.pwr.auxRail = false) (input : s.pwr.input = false) (on : s.pwr.st ≠ .off) :
    exec .holdUpRunDown s = .next (goOff s) :=
  congrArg Host.Outcome.next (if_neg (by simp [on, rail, input]))

/-! ## A qualified input (R483, R504, R600) -/

/-- The marks of a qualified input. -/
def inputGood (s : State) : State := modPwr (fun p => { p with input := true, qualified := true }) s

/-- Start-up that waited for the input goes on at B05. -/
theorem inputQualified_resumes {s : State} (on : s.pwr.st ≠ .off) (unqualified : s.pwr.qualified = false) (waits : s.boot.waitInput = true)
    (path : bootPath s 5 = some 0) :
    Completes .inputQualified s (fun u =>
      u.pwr = { s.pwr with input := true, qualified := true } ∧ u.boot.waitInput = false ∧ u.boot.step = 5 ∧ u.boot.path = 0 ∧
      Only [.pwr, .boot, .book, .mram] s u) := by
  let x := modBoot (fun b => { b with waitInput := false, waited := b.waited + (s.tick - b.waitTick) }) (inputGood s)
  have goes : beginStep 16 5 x = startStep 5 0 x := beginStep_starts (by decide) (.inr rfl) (path : bootPath x 5 = some 0) (by decide)
  have rest := startStep_boot 5 0 x
  have runs : exec .inputQualified s = .next (beginStep 16 5 x) := by
    refine congrArg Host.Outcome.next ?_
    rw [if_neg (by simp [unqualified])]
    exact (if_neg on).trans (if_pos waits)
  refine ⟨startStep 5 0 x, runs.trans (congrArg Host.Outcome.next goes), startStep_frame 5 0 x .pwr (by decide),
    (congrArg Boot.waitInput rest :), (congrArg Boot.step rest :), (congrArg Boot.path rest :), ?_⟩
  exact Only.trans (modBoot_only _ (by decide) (modPwr_only _ (by decide) (Only.rfl' _ s))) ((startStep_frame 5 0 x).mono (by decide))

/-- From Off, or where start-up begins anew, the qualified input is a power-on. -/
theorem inputQualified_boots {s : State} (unqualified : s.pwr.qualified = false)
    (anew : s.pwr.st = .off ∨ (s.boot.waitInput = false ∧ bootsAnew s = true)) :
    Completes .inputQualified s (fun u =>
      u.pwr.input = true ∧ u.pwr.qualified = true ∧ u.pwr.st = .standby ∧ u.boot.cause = 0 ∧
      u.boot.pwrCycles = satAdd 32 s.mram.pwrCycles 1 ∧ u.cel.own = 0) := by
  by_cases off : s.pwr.st = .off
  · have h := bootFromOff_restarts (inputGood s)
    refine ⟨bootFromOff (inputGood s), congrArg Host.Outcome.next ?_, h.rails.2.1, h.rails.2.2, h.power, h.origin, h.cycles, h.dies.1⟩
    rw [if_neg (by simp [unqualified])]
    exact if_pos off
  · obtain ⟨waits, fresh⟩ := anew.resolve_left off
    have h := moduleReset_restarts 0 (inputGood s)
    refine ⟨moduleReset 0 (inputGood s), congrArg Host.Outcome.next ?_, h.rails.2.1, h.rails.2.2, h.power, h.origin, h.cycles, h.dies.1⟩
    rw [if_neg (by simp [unqualified])]
    exact (if_neg off).trans ((if_neg (by simp [waits])).trans (if_pos fresh))

theorem inputQualified_marks {s : State} (on : s.pwr.st ≠ .off) (unqualified : s.pwr.qualified = false) (waits : s.boot.waitInput = false)
    (stands : bootsAnew s = false) : exec .inputQualified s = .next (inputGood s) := by
  refine congrArg Host.Outcome.next ?_
  rw [if_neg (by simp [unqualified])]
  exact (if_neg on).trans ((if_neg (by simp [waits])).trans (if_neg (by simp [stands])))

/-! ## The reset pin (R598, R599) -/

theorem resetAssert_resets {s : State} (on : s.pwr.st ≠ .off) (released : s.boot.heldReset = false) :
    Completes .resetAssert s (fun u =>
      u.boot.heldReset = true ∧ u.boot.cause = 1 ∧ u.mem = [] ∧ u.regs = s.mram.regs ∧ u.grp = keptGroups s.half s.mram.wearCfg s.mram.bootCfg ∧
      u.hif = {} ∧ u.pln = keptPln s.mram.retire s.mram.stkTrips ∧ u.cor = {} ∧
      u.vnl = { memoLinks := s.mram.memoLinks, memoRoutes := s.mram.memoRoutes } ∧ u.col = {} ∧ u.stp = {} ∧
      u.rck = keptRck s.mram.bucket s.mram.total s.rck ∧ u.tim = {} ∧
      u.sec.life = s.sec.life ∧ u.sec.nonce = (Config.freeValue 128 s.free).toNat ∧ u.free = s.free + 1 ∧ u.book.recs = s.book.recs ∧
      u.book.head = s.book.head ∧ u.book.hours = s.book.hoursKept ∧ u.tick = s.tick ∧ u.out = s.out) := by
  have h := enterReset_resets 1 s
  exact ⟨_, congrArg Host.Outcome.next (if_neg (by simp [on, released])), rfl, rfl, h.mem, h.regs, h.grp, h.hif, h.pln, h.cor, h.vnl, h.col,
    h.stp, h.rck, h.tim, h.life.1, h.nonce.1, h.nonce.2, h.book.1, h.book.2.1, h.book.2.2, h.time.1, h.time.2⟩

theorem resetRelease_starts {s : State} (held : s.boot.heldReset = true) :
    Completes .resetRelease s (fun u =>
      u.boot.heldReset = false ∧ u.cel.ca = 1 ∧ u.cel.cb = 1 ∧ u.sec.life = resetLife s.sec ∧ u.sec.sealTaken = false ∧
      (bootPath s 1 = some 0 → u.boot.step = 1 ∧ u.boot.path = 0) ∧ (bootPath s 1 = none → u.boot.halted = true ∧ u.boot.failStep = 1) ∧
      Only [.cel, .sec, .boot, .book, .mram] s u) := by
  have h := startUp_starts s
  exact ⟨startUp s, congrArg Host.Outcome.next (if_pos held), h.released, (congrArg Cel.ca h.cel :), (congrArg Cel.cb h.cel :),
    (congrArg Sec.life h.sec :), (congrArg Sec.sealTaken h.sec :), h.begins, h.halts, h.frame⟩

/-- Settles O58: a power-on is a `Restarts` of cause 0, a reset the pin holds a `Resets` of cause 1; the rails' loss is `railsOff`. -/
theorem railsAndResets : Obligations.RailsAndResets := by
  refine ⟨fun s => powerOn_boots, fun s on => congrArg Host.Outcome.next (if_neg on),
    fun c s h on input held => inputLost_held h on input held, fun c s h on input released early => inputLost_early h on input released early,
    fun c s h on input released late => inputLost_drops h on input released late, fun c s h none => ?_, fun s => auxRailLow_drops,
    fun s rail input on => ⟨_, holdUp_runsDown rail input on, rfl, rfl, rfl, rfl, rfl, rfl, rfl, rfl, rfl, rfl, rfl, rfl, rfl⟩,
    fun s stays => congrArg Host.Outcome.next (if_pos (by simpa using stays)), fun s => inputQualified_resumes, fun s => inputQualified_boots,
    fun s => inputQualified_marks, fun s good => congrArg Host.Outcome.next (if_pos good), fun s => resetAssert_resets,
    fun s => resetRelease_starts, fun s free => congrArg Host.Outcome.next (if_neg (by simp [free]))⟩
  rw [exec_inputLost h, if_pos (by simpa using none)]

end Sys2Proof.Machine
end

section
/-!
What the fault path leaves of the memory stacks and of MEM_RETIRE while the owner consumes its messages (R140, R456).
-/
namespace Sys2Proof.Machine

/-! ## Whatever a fault does, the stacks' records and MEM_RETIRE stand -/

/-- The parts of the state other than the memory's. -/
def offPln : List Part :=
  [.half, .moduleId, .pending, .tick, .free, .out, .mem, .regs, .grp, .hif, .cor, .vnl, .col, .stp, .rck, .cel, .pol, .err, .pwr, .tim,
    .sec, .dbg, .boot, .book, .mram]

/-- The stacks' records and MEM_RETIRE are those of `a`. -/
def Spares (a s : State) : Prop := stkPart s = stkPart a

namespace Spares
variable {a s u : State}

theorem refl (a : State) : Spares a a := rfl
theorem of_eq (h : Spares a s) (k : stkPart u = stkPart s) : Spares a u := k.trans h
theorem of_only (h : Spares a s) (k : Only offPln s u) : Spares a u := h.of_eq (stkPart_of_pln (k .pln (by decide)))
theorem if_ok {p : Prop} [Decidable p] {x y : State} (hx : Spares a x) (hy : Spares a y) : Spares a (if p then x else y) := by
  split
  · exact hx
  · exact hy
theorem forS {α : Type} {l : List α} {f : α → State → State} (h : Spares a s) (hf : ∀ q x, Spares a x → Spares a (f q x)) :
    Spares a (forS l f s) :=
  forS_holds (Spares a) (fun q _ => hf q) h

theorem modCel (h : Spares a s) (f : Cel → Cel) : Spares a (modCel f s) := h.of_eq rfl
theorem modErr (h : Spares a s) (f : Err → Err) : Spares a (modErr f s) := h.of_eq rfl
theorem modSec (h : Spares a s) (f : Sec → Sec) : Spares a (modSec f s) := h.of_eq rfl
theorem modRck (h : Spares a s) (f : Rck → Rck) : Spares a (modRck f s) := h.of_eq rfl
theorem modStp (h : Spares a s) (f : Stp → Stp) : Spares a (modStp f s) := h.of_eq rfl
theorem modTstep (h : Spares a s) (t : Nat) (f : TenStep → TenStep) : Spares a (modTstep t f s) := h.of_eq rfl
theorem modCor (h : Spares a s) (f : Cor → Cor) : Spares a (modCor f s) := h.of_eq rfl
theorem settleCores (h : Spares a s) : Spares a (settleCores s) := h.of_only (settleCores_only (by decide) (Only.rfl' _ s))
theorem cntRestore (h : Spares a s) (l : List CntRec) : Spares a (cntRestore l s) := h.of_only (cntRestore_only l (by decide) (Only.rfl' _ s))
theorem dropTallies (h : Spares a s) (t n : Nat) : Spares a (dropTallies t n s) := h.of_only (dropTallies_only t n (by decide) (Only.rfl' _ s))
theorem dropColls (h : Spares a s) (t n : Nat) : Spares a (dropColls t n s) := h.of_only (dropColls_only t n (by decide) (Only.rfl' _ s))
theorem dropTrigs (h : Spares a s) (t n : Nat) : Spares a (dropTrigs t n s) := h.of_only (dropTrigs_only t n (by decide) (Only.rfl' _ s))
theorem csetReset (h : Spares a s) (g : Grp) (obj : Nat) : Spares a (csetReset g obj s) := h.of_eq rfl
theorem modWaits (h : Spares a s) (f : List WaitW → List WaitW) : Spares a (modPln (fun p => { p with waits := f p.waits }) s) := h.of_eq rfl

theorem dropLaunches (h : Spares a s) (ls : List Launch) : Spares a (Machine.forS ls (fun l => dropLaunch l.tag) s) :=
  h.forS (fun l x hx => hx.of_eq (stkPart_dropLaunch l.tag x))
theorem dropHnds (h : Spares a s) (l : List Nat) : Spares a (Machine.forS l dropHnd s) :=
  h.forS (fun q x hx => hx.of_eq (stkPart_dropHnd q x))
theorem noted (h : Spares a s) (t code subject detail : Nat) : Spares a (noteT t code subject detail s) :=
  h.of_only ((noteT_frame t code subject detail s).mono (by decide))

theorem undoHandles (h : Spares a s) (t n : Nat) : Spares a (undoHandles t n s) := by
  refine h.forS (fun e x hx => ?_)
  split
  · exact hx.of_eq (stkPart_dropHnd e.1 x)
  · exact hx.of_eq (stkPart_modHnd e.1 _ x)

theorem discard (h : Spares a s) (t n reason origin : Nat) : Spares a (discard t n reason origin s) := by
  unfold Machine.discard
  dsimp only
  cases (tstep s t).steps.filter (fun r => decide (n ≤ r.num)) with
  | nil => exact h.of_only (dropAhead_only t n (by decide) (by decide) (Only.rfl' _ s))
  | cons first rest =>
    have undone := fun ls f => (((((((h.dropLaunches ls).settleCores).dropTallies t n).modCor f).cntRestore first.record).undoHandles
      t n).dropColls t n).dropTrigs t n
    refine Spares.of_only (Spares.of_eq (Spares.noted (Spares.forS (Spares.modTstep (Spares.modRck (Spares.modWaits (Spares.modStp
      (undone _ _) _) _) _) _ _) fun e x hx => ?lives) _ _ _ _) (stkPart_settleFrees t _))
      (updStall_only t (by decide) (by decide) (by decide) (by decide) (Only.rfl' _ _))
    case lives =>
      have done : ∀ d, Spares a (completeNow e.1 stDISCARDED d 0 x) := fun d =>
        hx.of_only (completeNow_only _ _ _ _ (by decide) (by decide) (Only.rfl' _ x))
      split
      · exact if_ok (done _) hx
      · exact if_ok (done _) (if_ok (done _) hx)

theorem failStep (h : Spares a s) (t n reason : Nat) : Spares a (failStep t n reason s) := by
  unfold Machine.failStep
  split
  · exact h
  · have staged := ((h.noted t 0x0900 (tenCoord s t) (n + reason * 2 ^ 48)).discard t n reason (tenCoord s t)).modCel
      (fun c => { c with staged := c.staged ++ [.failUp t n reason] })
    exact if_ok (staged.modCel _) staged
theorem localFail (h : Spares a s) (t reason : Nat) : Spares a (localFail t reason s) := by
  unfold Machine.localFail
  split
  · exact h.failStep _ _ _
  · exact if_ok h (h.of_eq rfl)

theorem abandonRack (h : Spares a s) : Spares a (abandonRack s) := by
  unfold Machine.abandonRack
  split
  · exact h
  · next j _ =>
    have marks : Spares a (dropMarks j.tenant s) := h.of_eq rfl
    exact (marks.of_only (setSlot_only _ _ (by decide) (Only.rfl' _ _))).modRck _
theorem dropRacks (h : Spares a s) (t : Nat) : Spares a (dropRacks t s) := by
  have job : Spares a (if s.rck.job.map RackJob.tenant = some t then Machine.abandonRack s else s) := if_ok h.abandonRack h
  exact job.of_eq rfl

theorem faultOne (h : Spares a s) (src t : Nat) : Spares a (faultOne src t s) := by
  rw [faultOne_eq]
  refine h.of_only ?_
  exact modCel_only _ (by decide) (abortSweeps_only (by decide) (((frostFault_frame s 2).mono (by decide)).trans
    ((modErr_only _ (by decide) (Only.rfl' _ _)).trans ((modTstep_only t _ (by decide) (Only.rfl' _ _)).trans
      ((abortPasses_frame _).mono (by decide))))))
theorem closePorts (h : Spares a s) (b reason : Nat) (ps : List Nat) : Spares a (closePorts b reason ps s) := by
  have shut : Spares a (Machine.forS ps (gateShutPort · reason) s) := h.forS fun p x hx =>
    hx.of_only (gateShutPort_only p reason (by decide) (by decide) (by decide) (by decide) (by decide) (by decide) (Only.rfl' _ x))
  exact (if_ok (shut.faultOne _ _) shut).of_only ((checkBuddies_frame _).mono (by decide))
theorem unbind (h : Spares a s) (b : Nat) : Spares a (unbind b s) := by
  have shut := h.closePorts b 0x12 (bindPorts s b)
  exact shut.of_only (modSec_only _ (by decide) (wiltLeave_only _ _ (by decide) (by decide) (by decide) (modPol_only _ (by decide)
    (modVnl_only _ (by decide) (modRck_only _ (by decide) (Only.rfl' _ _))))))

theorem stopTenant (h : Spares a s) (t : Nat) : Spares a (stopTenant t s) := by
  have settled := (h.dropLaunches (s.cor.launches.filter (fun l => decide (l.tenant = t)))).of_only
    (settleCores_only (by decide) (Only.rfl' _ _))
  have slots := settled.forS (l := tenSlots s t) (f := fun ck s =>
    modSlot ck.1 ck.2 CSlot.blank (if (coreRec s ck.1).slot = ck.2 then zeroContext ck.1 s else s)) fun ck x hx =>
      hx.of_only (modSlot_only _ _ _ (by decide) (ite_only (zeroContext_only _ (by decide) (by decide) (Only.rfl' _ x)) (Only.rfl' _ x)))
  have segs := slots.forS (l := List.range (numDies s)) (f := fun d s => Machine.forS (tenSegs s d t) (zeroSegment d) s) fun d x hx =>
    hx.of_only (forS_only _ _ (fun g _ => zeroSegment_only d g (by decide) (by decide)) (Only.rfl' _ x))
  have trigs := segs.forS (l := tenTrigs s t) (f := fun k => modTrig k (fun _ => {})) fun k x hx =>
    hx.of_only (modTrig_only k _ (by decide) (Only.rfl' _ x))
  exact trigs.of_eq rfl
theorem teardownRest (h : Spares a s) (t : Nat) : Spares a (teardownRest t s) := by
  have stopped : Spares a (dropTrace t (Machine.dropRacks t (Machine.stopTenant t s))) :=
    ((h.stopTenant t).dropRacks t).of_only (dropTrace_only t (by decide) (Only.rfl' _ _))
  have dropped := stopped.dropHnds ((tenHnds (dropTrace t (Machine.dropRacks t (Machine.stopTenant t s))) t).map Prod.fst)
  unfold Machine.teardownRest
  refine Spares.modSec ?_ _
  revert dropped
  generalize Machine.forS _ dropHnd _ = x
  intro dropped
  split
  · exact (dropped.unbind _).csetReset _ _
  · exact dropped
theorem teardown (h : Spares a s) (t : Nat) : Spares a (teardown t s) := by
  by_cases bound : tenSt s t = .active ∨ tenSt s t = .quarantine
  · rw [teardown_bound bound]
    exact Spares.teardownRest (h.of_only (setTenRec_only t _ (by decide) (stopRings_only t (by decide)
      (flushLive_only t (by decide) (by decide) (Only.rfl' _ s))))) t
  · rw [teardown_unbound bound]
    exact h

section
variable {src cls unit core : Nat} {tens : List Nat}

theorem consumeFault (h : Spares a s) : Spares a (consumeFault src cls unit core tens s) := by
  have failed := h.forS (l := tens) (fun t _ hx => Spares.localFail hx t (faultReason s src cls))
  have told : Spares a (faultTold src cls unit core tens s) := (failed.forS (l := tens) (fun t x hx => hx.of_only
    (postEvent_only t 0x0C00 src (faultDetail cls unit core) (by decide) (by decide) (Only.rfl' _ x)))).of_only
      (modCel_only _ (by decide) (record_only _ _ _ (by decide) (Only.rfl' _ _)))
  have lined : Spares a (faultLined src cls unit core tens s) :=
    if_ok ((told.modCel _).modErr _) (if_ok (told.modErr _) told)
  rw [consumeFault_eq]
  exact if_ok (lined.forS (fun t _ hx => hx.teardown t)) lined
end

/-- Whatever faults the owner acts on. -/
theorem actFaults (h : Spares a s) : Spares a (actFaults s) := by
  refine h.forS fun _ x hx => ?_
  unfold actFault
  split
  · exact Spares.consumeFault (hx.of_eq rfl)
  · exact hx

end Spares

end Sys2Proof.Machine
end

section
/-!
Boot steps that pass, fail or retire the module (R607 to R615, R620 of 17).
-/
namespace Sys2Proof.Machine

/-! ## The paths of the steps (R610) -/

theorem bootPath_of {s u : State} (fails : u.boot.fails = s.boot.fails) (retiring : u.boot.retiring = s.boot.retiring)
    (coef : u.boot.t1Coef = s.boot.t1Coef) (k : Nat) : bootPath u k = bootPath s k := by
  rw [bootPath, fails, retiring, coef, bootPath]

/-- A step that runs again has its path while it has failed at most once in a row. -/
theorem bootPath_again {k : Nat} (again : k ∈ [1, 5, 6, 8, 9, 13]) (s : State) :
    bootPath s k = if Map.get 0 s.boot.fails k ≤ 1 then some 0 else none := by
  simp only [List.mem_cons, List.not_mem_nil, or_false] at again
  rcases again with rfl | rfl | rfl | rfl | rfl | rfl <;> simp [bootPath, runAgain, memb]

/-- B10 and B11 always have a path. -/
theorem bootPath_train {k : Nat} (train : k = 10 ∨ k = 11) (s : State) : bootPath s k ≠ none := by
  rcases train with rfl | rfl
  · unfold bootPath
    dsimp only
    split <;> simp
  · unfold bootPath
    dsimp only
    split <;> simp

theorem bootPath_ports (s : State) : bootPath s 14 = some 0 ∨ bootPath s 14 = some 3 := by
  unfold bootPath
  dsimp only
  rw [if_neg (by omega), if_pos (by decide)]
  split
  · exact .inl rfl
  · exact .inr rfl

/-! ## A step passes (R608) -/

/-- A step's effect and its end record. -/
def passedStep (mask : Nat) (s : State) : State :=
  let s1 := stepEffect s.boot.step s.boot.path mask s
  modBoot (fun b => { b with results := Map.put b.results s.boot.step 0 })
    (ledger s.boot.step true s.boot.path 0 (stepDetail s1 s.boot.step mask) s1)

theorem stepPassed_eq (mask : Nat) (s : State) : stepPassed mask s = beginStep 16 (s.boot.step + 1) (passedStep mask s) := rfl

section
variable {k p mask : Nat} {s e : State} (step : s.boot.step = k) (effect : stepEffect k s.boot.path mask s = e)
include step effect

theorem passedStep_boot : (passedStep mask s).boot.offLedger = ({ e.boot with results := Map.put e.boot.results k 0 } : Boot).offLedger := by
  subst step effect
  rfl
theorem passedStep_seq : (passedStep mask s).boot.ldgSeq = e.boot.ldgSeq + 1 := by
  subst step effect
  rfl
theorem passedStep_frame : Only [.boot, .book, .mram] e (passedStep mask s) := by
  subst step effect
  exact modBoot_only _ (by decide) (ledger_only _ _ _ _ _ (by decide) (by decide) (by decide) (Only.rfl' _ _))

/-- The next step starts on its path. -/
theorem stepPassed_starts (low : k + 1 < 14) (input : k + 1 ≠ 5) (path : bootPath e (k + 1) = some p) (goes : p ≠ 3) :
    stepPassed mask s = startStep (k + 1) p (passedStep mask s) := by
  have boot := passedStep_boot step effect
  have same : bootPath (passedStep mask s) (k + 1) = bootPath e (k + 1) :=
    bootPath_of (congrArg Boot.fails boot :) (congrArg Boot.retiring boot :) (congrArg Boot.t1Coef boot :) _
  rw [stepPassed_eq, step]
  exact beginStep_starts low (.inl input) (same.trans path) goes

/-- What the state of start-up is once the next step has started: that of the step's effect, its result and two ledger records. -/
theorem started_boot : (startStep (k + 1) p (passedStep mask s)).boot.offLedger =
    ({ e.boot with results := Map.put e.boot.results k 0, step := k + 1, path := p } : Boot).offLedger :=
  (startStep_boot (k + 1) p _).trans
    (congrArg (fun b : Boot => ({ b with step := k + 1, path := p } : Boot)) (passedStep_boot step effect))
theorem started_seq : (startStep (k + 1) p (passedStep mask s)).boot.ldgSeq = e.boot.ldgSeq + 2 ∧
    (startStep (k + 1) p (passedStep mask s)).mram.ldgSeq = e.boot.ldgSeq + 2 :=
  have next := congrArg (· + 1) (passedStep_seq step effect)
  ⟨next, next⟩
theorem started_frame : Only [.boot, .book, .mram] e (startStep (k + 1) p (passedStep mask s)) :=
  (passedStep_frame step effect).trans (startStep_frame _ _ _)
end

/-- A step other than B02 and B14 that reports OK passes. -/
theorem exec_stepDone {ucie : Bool} {unit mask : Nat} {s : State} (runs : s.boot.step ≠ 0) (other : s.boot.step ≠ 2 ∧ s.boot.step ≠ 14) :
    exec (.bootStepDone 0 ucie unit mask) s = .next (stepPassed mask s) := by
  refine congrArg Host.Outcome.next ?_
  simp [stepDone, runs, other.1, other.2]

theorem stepEffect_plain {k : Nat} (plain : k ∈ [5, 6, 8, 9]) (path mask : Nat) (s : State) : stepEffect k path mask s = s := by
  simp only [List.mem_cons, List.not_mem_nil, or_false] at plain
  rcases plain with rfl | rfl | rfl | rfl <;> rfl

theorem dieState_setDie_same (d st : Nat) (s : State) : dieState (setDie d st s) d = st := by
  unfold dieState setDie modCel
  dsimp only
  split <;> rfl

/-- B01's effect leaves the rest of start-up's state (Table 17.4). -/
def cellarStarted (s : State) : State :=
  setDie (bootDie s) 5 (modCel (fun c => { c with requested := true }) (modBoot (fun b => { b with b01Done := true }) s))

theorem plainStep_passes {k p unit mask : Nat} {ucie : Bool} {s : State} (step : s.boot.step = k) (plain : k ∈ [1, 5, 6, 8, 9])
    (path : bootPath s (k + 1) = some p) (goes : p ≠ 3) :
    Completes (.bootStepDone 0 ucie unit mask) s (fun u =>
      u.boot.step = k + 1 ∧ u.boot.path = p ∧ Map.find u.boot.results k = some 0 ∧ u.boot.ldgSeq = s.boot.ldgSeq + 2 ∧
      u.mram.ldgSeq = s.boot.ldgSeq + 2 ∧
      (k = 1 → u.boot.b01Done = true ∧ dieState u (bootDie s) = 5) ∧ Only [.cel, .boot, .book, .mram] s u) := by
  have low : k ≠ 0 ∧ k ≠ 2 ∧ k ≠ 14 ∧ k + 1 < 14 ∧ k + 1 ≠ 5 := by
    simp only [List.mem_cons, List.not_mem_nil, or_false] at plain
    omega
  obtain ⟨pos, two, ports, early, input⟩ := low
  have runs : exec (.bootStepDone 0 ucie unit mask) s = .next (stepPassed mask s) := exec_stepDone (by omega) (by omega)
  rcases List.mem_cons.mp plain with rfl | later
  · have effect : stepEffect 1 s.boot.path mask s = cellarStarted s := rfl
    have boot : (cellarStarted s).boot = { s.boot with b01Done := true } :=
      setDie_only (fr := [.cel]) _ _ (by decide) (Only.rfl' _ _) .boot (by decide)
    have same : bootPath (cellarStarted s) 2 = bootPath s 2 := bootPath_of (by rw [boot]) (by rw [boot]) (by rw [boot]) 2
    have started := started_boot (p := p) step effect
    obtain ⟨seq, kept⟩ := started_seq (p := p) step effect
    have frame := started_frame (p := p) step effect
    rw [stepPassed_starts step effect early input (same.trans path) goes] at runs
    rw [boot] at seq kept
    refine ⟨_, runs, (congrArg Boot.step started :), (congrArg Boot.path started :), ?_, seq, kept, fun _ => ⟨?_, ?_⟩, ?_⟩
    · exact (congrArg (fun b : Boot => Map.find b.results 1) started :).trans ((find_put _ _ _ _).trans (if_pos rfl))
    · exact (congrArg Boot.b01Done started :).trans (congrArg Boot.b01Done boot)
    · exact (dieState_of_cel (frame .cel (by decide)) _).trans (dieState_setDie_same _ _ _)
    · exact Only.trans (setDie_only _ _ (by decide) (modCel_only _ (by decide) (modBoot_only _ (by decide) (Only.rfl' _ s))))
        (frame.mono (by decide))
  · have effect : stepEffect k s.boot.path mask s = s := stepEffect_plain later _ _ _
    have started := started_boot (p := p) step effect
    obtain ⟨seq, kept⟩ := started_seq (p := p) step effect
    rw [stepPassed_starts step effect early input path goes] at runs
    refine ⟨_, runs, (congrArg Boot.step started :), (congrArg Boot.path started :), ?_, seq, kept, fun one => ?_,
      (started_frame step effect).mono (by decide)⟩
    · exact (congrArg (fun b : Boot => Map.find b.results k) started :).trans ((find_put _ _ _ _).trans (if_pos rfl))
    · subst one
      exact absurd later (by decide)

/-! ## The choice of the slot passes (B02, R607, R620) -/

theorem slotSelect_first {mask : Nat} {s : State} (trial : s.boot.trial = false) (factory : (slotFw s s.boot.activeSlot).data = [])
    (known : bitOf mask s.boot.activeSlot = true) : slotSelect 0 mask s = (true, s) := by
  simp [slotSelect, trial, slotVerifies, factory, known]

theorem slotStep_passes {unit mask p : Nat} {ucie : Bool} {s : State} (step : s.boot.step = 2) (first : s.boot.path = 0)
    (trial : s.boot.trial = false) (factory : (slotFw s s.boot.activeSlot).data = []) (known : bitOf mask s.boot.activeSlot = true)
    (path : bootPath s 3 = some p) (goes : p ≠ 3) :
    Completes (.bootStepDone 0 ucie unit mask) s (fun u =>
      u.boot.step = 3 ∧ u.boot.runSlot = s.boot.activeSlot ∧ Map.find u.boot.results 2 = some 0 ∧ Only [.boot, .book, .mram] s u) := by
  have effect : stepEffect 2 s.boot.path mask s = modBoot (fun b => { b with runSlot := b.activeSlot }) s := rfl
  have started := started_boot (p := p) step effect
  have runs : exec (.bootStepDone 0 ucie unit mask) s = .next (stepPassed mask s) := by
    refine congrArg Host.Outcome.next ?_
    simp only [stepDone, step, first, slotSelect_first trial factory known]
    rfl
  rw [stepPassed_starts step effect (by decide) (by decide) path goes] at runs
  refine ⟨_, runs, (congrArg Boot.step started :), (congrArg Boot.runSlot started :), ?_,
    Only.trans (modBoot_only _ (by decide) (Only.rfl' _ s)) (started_frame step effect)⟩
  exact (congrArg (fun b : Boot => Map.find b.results 2) started :).trans ((find_put _ _ _ _).trans (if_pos rfl))

/-! ## The cores are ready (B12, R613) -/

/-- A core's state after B12. -/
def bootedCore (s : State) (mask c : Nat) (x : Core) : Core :=
  { x with st := if memb c s.boot.fences ∨ bitOf mask c then .fenced else .idle }
/-- The cores after B12. -/
def coresStarted (mask : Nat) (s : State) : State :=
  forS (List.range (numCores s)) (fun c => modCore c (bootedCore s mask c)) s

theorem coresStarted_frame (mask : Nat) (s : State) : Only [.cor] s (coresStarted mask s) :=
  forS_only _ _ (fun c _ => modCore_only c _ (by decide)) (Only.rfl' _ s)
theorem coresStarted_core {mask c : Nat} {s : State} (there : c < numCores s) :
    coreRec (coresStarted mask s) c = bootedCore s mask c (coreRec s c) :=
  forS_once (fun x => coreRec x c) (fun x => (coreRec_modCore c c _ x).trans (if_pos rfl))
    (fun q other x => (coreRec_modCore q c _ x).trans (if_neg (Ne.symm other))) List.nodup_range (List.mem_range.mpr there) s

theorem coreStep_passes {unit mask : Nat} {ucie : Bool} {s : State} (step : s.boot.step = 12) (path : bootPath s 13 = some 0) :
    Completes (.bootStepDone 0 ucie unit mask) s (fun u =>
      u.boot.step = 13 ∧ (∀ c, c < numCores s → (coreRec u c).st = (if memb c s.boot.fences ∨ bitOf mask c = true then .fenced else .idle)) ∧
      Only [.cor, .boot, .book, .mram] s u) := by
  have effect : stepEffect 12 s.boot.path mask s = coresStarted mask s := rfl
  have boot : (coresStarted mask s).boot = s.boot := coresStarted_frame mask s .boot (by decide)
  have same : bootPath (coresStarted mask s) 13 = bootPath s 13 := bootPath_of (by rw [boot]) (by rw [boot]) (by rw [boot]) 13
  have started := started_boot (p := 0) step effect
  have frame := started_frame (p := 0) step effect
  have runs : exec (.bootStepDone 0 ucie unit mask) s = .next (stepPassed mask s) := exec_stepDone (by omega) (by omega)
  rw [stepPassed_starts step effect (by decide) (by decide) (same.trans path) (by decide)] at runs
  refine ⟨_, runs, (congrArg Boot.step started :), fun c there => ?_,
    Only.trans ((coresStarted_frame mask s).mono (by decide)) (frame.mono (by decide))⟩
  rw [coreRec, frame .cor (by decide)]
  exact congrArg Core.st (coresStarted_core there)

/-! ## The host is let in (B13, R615) -/

/-- Start-up's state without the autostart words of the ports. -/
def Boot.offAuto (b : Boot) : Boot := { b with portAuto := [] }
/-- The autostart of the ports leaves the power's state and start-up's but for the ports' words. -/
def Autostarts (a s : State) : Prop := s.boot.offAuto = a.boot.offAuto ∧ s.pwr = a.pwr

theorem Autostarts.of_only {a s u : State} (h : Autostarts a s) (k : Only [.grp, .vnl, .cel] s u) : Autostarts a u :=
  ⟨(congrArg Boot.offAuto (k .boot (by decide))).trans h.1, (k .pwr (by decide)).trans h.2⟩
theorem Autostarts.if_ok {a : State} {p : Prop} [Decidable p] {x y : State} (hx : Autostarts a x) (hy : Autostarts a y) :
    Autostarts a (if p then x else y) := by
  split
  · exact hx
  · exact hy
theorem Autostarts.words {a s : State} (h : Autostarts a s) (f : Boot → Map Word) :
    Autostarts a (modBoot (fun b => { b with portAuto := f b }) s) := ⟨h.1, h.2⟩

/-- An enabled port's group. -/
theorem portCommit_autostarts {p : Nat} {ws : List Word} {a s : State} (h : Autostarts a s) (on : bitW (ws.getD 0 0) 31 = true) :
    Autostarts a (portCommit p ws s) := by
  have put : Autostarts a (csetAll .vnlPort p ws s) := h.of_only (csetAll_only _ _ _ (by decide) (Only.rfl' _ s))
  have port : ∀ x, Autostarts a x → Autostarts a (modPort p (fun x => { x with err := {} }) x) := fun x hx =>
    hx.of_only (modPort_only p _ (by decide) (Only.rfl' _ x))
  unfold portCommit
  dsimp only
  rw [if_pos on]
  exact Autostarts.if_ok ((port _ (Autostarts.if_ok (put.words _) put)).of_only (enterDark_only _ _ (by decide) (by decide) (Only.rfl' _ _)))
    (port _ (Autostarts.if_ok (put.words _) put))

theorem startPorts_autostarts (s : State) : Autostarts s (startPorts s) := by
  refine forS_holds (Autostarts s) (fun p _ x h => ?_) ⟨rfl, rfl⟩
  dsimp only
  split
  · next on => exact portCommit_autostarts h on
  · exact h

/-- What the module's readiness leaves of start-up's state (R615). -/
theorem bootReady_boot (s : State) : (bootReady s).boot =
    { s.boot with step := 0, ready := true, bootMs := bootMsNow s, attempt := 0, runAttempt := 0, fails := [] } :=
  record_frame _ _ _ _ .boot (by decide)
theorem bootReady_frame (s : State) : Only [.boot, .book] s (bootReady s) :=
  record_only _ _ _ (by decide) (modBoot_only _ (by decide) (Only.rfl' _ s))

theorem beginStep_ports {n : Nat} {s : State} (path : bootPath s 14 = some 0) : beginStep (n + 1) 14 s = startPorts (startStep 14 0 s) := by
  simp only [beginStep, path, startStep]
  simp

theorem beginStep_noPorts {n : Nat} {s : State} (path : bootPath s 14 = some 3) : beginStep (n + 2) 14 s = bootReady (skipStep 14 s) := by
  simp only [beginStep, path]
  simp

/-- The state of start-up after B13's effect. -/
def hostLetIn (s : State) : State := setPwr .full (modBoot (fun b => { b with hostReady := true }) s)

theorem hostStep_passes {unit mask : Nat} {ucie : Bool} {s : State} (step : s.boot.step = 13) :
    Completes (.bootStepDone 0 ucie unit mask) s (fun u =>
      u.boot.hostReady = true ∧ u.pwr.st = .full ∧ Map.find u.boot.results 13 = some 0) := by
  have effect : stepEffect 13 s.boot.path mask s = hostLetIn s := rfl
  have letIn : (hostLetIn s).boot = { s.boot with hostReady := true } := setPwr_frame .full _ .boot (by decide)
  have full : (hostLetIn s).pwr.st = .full := congrArg Pwr.st (setPwr_pwr .full _)
  have boot := passedStep_boot step effect
  have pwr : (passedStep mask s).pwr.st = .full := (congrArg Pwr.st (passedStep_frame step effect .pwr (by decide))).trans full
  have ready : (passedStep mask s).boot.hostReady = true := (congrArg Boot.hostReady boot :).trans (congrArg Boot.hostReady letIn)
  have result : Map.find (passedStep mask s).boot.results 13 = some 0 :=
    (congrArg (fun b : Boot => Map.find b.results 13) boot :).trans ((find_put _ _ _ _).trans (if_pos rfl))
  have runs : exec (.bootStepDone 0 ucie unit mask) s = .next (stepPassed mask s) := exec_stepDone (by omega) (by omega)
  rw [stepPassed_eq, step] at runs
  generalize passedStep mask s = x at *
  obtain path | path := bootPath_ports x
  · rw [beginStep_ports path] at runs
    obtain ⟨auto, power⟩ := startPorts_autostarts (startStep 14 0 x)
    have next := startStep_boot 14 0 x
    exact ⟨_, runs, (congrArg Boot.hostReady auto :).trans ((congrArg Boot.hostReady next :).trans ready),
      (congrArg Pwr.st (power.trans (startStep_frame 14 0 x .pwr (by decide)))).trans pwr,
      (congrArg (fun b : Boot => Map.find b.results 13) auto :).trans ((congrArg (fun b : Boot => Map.find b.results 13) next :).trans result)⟩
  · rw [beginStep_noPorts path] at runs
    have done := bootReady_boot (skipStep 14 x)
    have skipped : (skipStep 14 x).boot.offLedger = ({ x.boot with results := Map.put x.boot.results 14 4 } : Boot).offLedger := rfl
    have power : (skipStep 14 x).pwr = x.pwr := ledger_frame 14 true 3 4 0 x .pwr (by decide)
    refine ⟨_, runs, (congrArg Boot.hostReady done).trans ((congrArg Boot.hostReady skipped :).trans ready),
      (congrArg Pwr.st ((bootReady_frame _ .pwr (by decide)).trans power)).trans pwr, ?_⟩
    refine (congrArg (fun b : Boot => Map.find b.results 13) done).trans ((congrArg (fun b : Boot => Map.find b.results 13) skipped :).trans ?_)
    exact (find_put _ _ _ _).trans ((if_neg (by decide)).trans result)

/-! ## The ports are settled and the module is ready (B14, R614, R615) -/

/-- The ports that failed their test. -/
def badPorts (mask : Nat) (s : State) : List Nat := (List.range (numPorts s)).filter (bitOf mask)
/-- A port that failed is dropped. -/
def dropPort (p : Nat) (s : State) : State := csetReset .vnlPort p (modVnl (fun v => { v with ports := Map.del v.ports p }) s)
/-- B14's effect. -/
def portsPassed (mask : Nat) (s : State) : State :=
  modBoot (fun b => { b with portsFenced := badPorts mask s }) (forS (badPorts mask s) dropPort s)

theorem dropPorts_frame (l : List Nat) (s : State) : Only [.grp, .vnl] s (forS l dropPort s) :=
  forS_only _ _ (fun p _ hx => csetReset_only _ _ (by decide) (modVnl_only _ (by decide) hx)) (Only.rfl' _ s)

theorem portRec_dropPort (p q : Nat) (s : State) : portRec (dropPort p s) q = if q = p then {} else portRec s q :=
  get_del ({} : Port) s.vnl.ports p q

theorem portRec_dropPorts {p : Nat} {l : List Nat} (dropped : p ∈ l) (s : State) : portRec (forS l dropPort s) p = {} :=
  forS_establishes (fun x => portRec x p = {}) dropped (fun x => (portRec_dropPort p p x).trans (if_pos rfl))
    (fun q _ x hx => by
      rw [portRec_dropPort]
      split
      · rfl
      · exact hx) s

theorem portStep_ends {c : Instr} {unit mask : Nat} {ucie : Bool} {s : State} (step : s.boot.step = 14)
    (h : (c = .bootStepDone 0 ucie unit mask ∧ portsSettled s mask = true) ∨ c = .bootStepLimit unit mask) :
    Completes c s (fun u =>
      u.boot.ready = true ∧ u.boot.step = 0 ∧ u.boot.attempt = 0 ∧ u.boot.fails = [] ∧
      u.boot.portsFenced = (List.range (numPorts s)).filter (bitOf mask) ∧
      (∀ p, p < numPorts s → bitOf mask p = true → portRec u p = {}) ∧ Only [.grp, .vnl, .boot, .book, .mram] s u) := by
  have runs : exec c s = .next (bootReady (passedStep mask s)) := by
    have last : stepPassed mask s = bootReady (passedStep mask s) := by rw [stepPassed_eq, step]; rfl
    rw [← last]
    rcases h with ⟨rfl, settled⟩ | rfl
    · refine congrArg Host.Outcome.next ?_
      simp [stepDone, step, settled]
    · refine congrArg Host.Outcome.next ?_
      simp [step]
  have effect : stepEffect 14 s.boot.path mask s = portsPassed mask s := rfl
  have boot : (passedStep mask s).boot.portsFenced = badPorts mask s := (congrArg Boot.portsFenced (passedStep_boot step effect) :)
  have frame := (passedStep_frame step effect).trans ((bootReady_frame _).mono (by decide))
  have done := bootReady_boot (passedStep mask s)
  refine ⟨_, runs, congrArg Boot.ready done, congrArg Boot.step done, congrArg Boot.attempt done, congrArg Boot.fails done,
    (congrArg Boot.portsFenced done).trans boot, fun p there bad => ?_,
    Only.trans (modBoot_only _ (by decide) ((dropPorts_frame _ s).mono (by decide))) (frame.mono (by decide))⟩
  rw [portRec, frame .vnl (by decide)]
  exact portRec_dropPorts (List.mem_filter.mpr ⟨List.mem_range.mpr there, bad⟩) s

/-! ## A reset the owner drives (R423, R597, R609) -/

/-- The records and kept items stand before the reset. -/
def committed (s : State) : State := commitKept (commitBook s)
theorem commitBook_frame (s : State) : Only [.book] s (commitBook s) := commitBook_only (by decide) (Only.rfl' _ s)
theorem committed_frame (s : State) : Only [.book, .mram] s (committed s) :=
  commitKept_only (by decide) (by decide) (commitBook_only (by decide) (Only.rfl' _ s))
theorem committed_boot (s : State) : (committed s).boot = s.boot := committed_frame s .boot (by decide)
theorem committed_retire (s : State) : (committed s).mram.retire = s.pln.retire :=
  congrArg Pln.retire (commitBook_frame s .pln (by decide))
theorem committed_rack (s : State) : (committed s).mram.bucket = s.rck.bucket ∧ (committed s).mram.total = s.rck.total :=
  have rck := commitBook_frame s .rck (by decide)
  ⟨congrArg Rck.bucket rck, congrArg Rck.total rck⟩
theorem ownerReset_restarts (cause : Nat) (s : State) : Restarts cause (committed s) (ownerReset cause s) := moduleReset_restarts cause _

/-! ## A step fails (R608 to R612) -/

/-- The end record and the event of a step that failed. -/
def failedStep (k r d : Nat) (s : State) : State :=
  record 0x1102 0 (k + r * 2 ^ 8 + s.boot.path * 2 ^ 16)
    (modBoot (fun b => { b with results := Map.put b.results k r, failStep := k, failResult := r }) (ledger k true s.boot.path r d s))
/-- A failed check is counted. -/
def countCheck (r : Nat) (s : State) : State :=
  if r = 5 then record 0x0C06 0 0 (modErr (fun e => { e with checkFail := satAdd 32 e.checkFail 1 }) s) else s
/-- One more failure in a row. -/
def countFail (k : Nat) (s : State) : State :=
  modBoot (fun b => { b with fails := Map.put b.fails k (Map.get 0 b.fails k + 1) }) s

theorem failedStep_boot (k r d : Nat) (s : State) : (failedStep k r d s).boot.offLedger =
    ({ s.boot with results := Map.put s.boot.results k r, failStep := k, failResult := r } : Boot).offLedger :=
  have event : (failedStep k r d s).boot = (modBoot (fun b => { b with results := Map.put b.results k r, failStep := k, failResult := r })
      (ledger k true s.boot.path r d s)).boot := record_frame _ _ _ _ .boot (by decide)
  (congrArg Boot.offLedger event).trans rfl
theorem failedStep_frame (k r d : Nat) (s : State) : Only [.boot, .book, .mram] s (failedStep k r d s) :=
  record_only _ _ _ (by decide) (modBoot_only _ (by decide) (ledger_only _ _ _ _ _ (by decide) (by decide) (by decide) (Only.rfl' _ s)))
theorem countCheck_frame (r : Nat) (s : State) : Only [.err, .book] s (countCheck r s) :=
  ite_only (record_only _ _ _ (by decide) (modErr_only _ (by decide) (Only.rfl' _ s))) (Only.rfl' _ s)

/-- A step that runs again halts start-up, or the module resets for the next attempt. -/
theorem stepFailed_again {k res unit mask : Nat} {ucie : Bool} {s : State} (step : s.boot.step = k) (again : k ∈ [1, 5, 6, 8, 9, 13]) :
    stepFailed res ucie unit mask s =
      if bootPath (countFail k (countCheck res (failedStep k res (stepDetail s k mask) s))) k = none then
        bootHalt k (countFail k (countCheck res (failedStep k res (stepDetail s k mask) s)))
      else ownerReset 2 (countCheck res (failedStep k res (stepDetail s k mask) s)) := by
  subst step
  have other : s.boot.step ≠ 10 ∧ s.boot.step ≠ 11 ∧ s.boot.step ≠ 3 := by
    simp only [List.mem_cons, List.not_mem_nil, or_false] at again
    omega
  simp only [stepFailed, other.1, other.2.1, other.2.2, decide_false, Bool.or_self, Bool.false_eq_true, if_false]
  rfl

/-- B10 and B11 retire the module, which resets; a stack that fails its training runs the fault path. -/
theorem stepFailed_retires {k res unit mask : Nat} {ucie : Bool} {s : State} (step : s.boot.step = k) (train : k = 10 ∨ k = 11) :
    stepFailed res ucie unit mask s =
      let x := setRetire (retireCause k ucie) unit (failedStep k 6 (stepDetail s k mask) s)
      ownerReset 2 (if k = 11 then actFaults (faultAll 0x11 (unit % 16) 0xFF (loseStack (unit % 16) x)) else x) := by
  subst step
  have retires : (decide (s.boot.step = 10) || decide (s.boot.step = 11)) = true := by simpa using train
  have path := bootPath_train train (countFail s.boot.step (setRetire (retireCause s.boot.step ucie) unit
    (failedStep s.boot.step 6 (stepDetail s s.boot.step mask) s)))
  have other : s.boot.step ≠ 3 := by omega
  simp only [stepFailed, retires, if_true, other, if_false]
  exact if_neg path

/-- A step that reports a failure or runs past its maximum fails. -/
theorem exec_stepFails {c : Instr} {res unit mask : Nat} {ucie : Bool} {s : State} (runs : s.boot.step ≠ 0)
    (other : s.boot.step ≠ 2 ∧ s.boot.step ≠ 14)
    (h : (c = .bootStepDone res ucie unit mask ∧ (res = 1 ∨ res = 5)) ∨ (c = .bootStepLimit unit mask ∧ res = 2)) :
    ∃ by_, exec c s = .next (stepFailed res by_ unit mask s) := by
  rcases h with ⟨rfl, result⟩ | ⟨rfl, rfl⟩
  · refine ⟨ucie, congrArg Host.Outcome.next ?_⟩
    have failed : res ≠ 0 := by omega
    simp [stepDone, runs, other.1, failed, result]
  · refine ⟨false, congrArg Host.Outcome.next ?_⟩
    simp [runs, other.1, other.2]

section
variable {c : Instr} {k res unit mask : Nat} {ucie : Bool} {s : State} (step : s.boot.step = k) (again : k ∈ [1, 5, 6, 8, 9, 13])
  (h : (c = .bootStepDone res ucie unit mask ∧ (res = 1 ∨ res = 5)) ∨ (c = .bootStepLimit unit mask ∧ res = 2))
include step again h

/-- The second failure in a row halts start-up (R611). -/
theorem stepFails_halts (failed : 1 ≤ Map.get 0 s.boot.fails k) :
    Completes c s (fun u =>
      u.boot.halted = true ∧ u.boot.failStep = k ∧ u.boot.failResult = res ∧ u.boot.step = 0 ∧ Map.find u.boot.results k = some res ∧
      Only [.err, .boot, .book, .mram] s u) := by
  have other : s.boot.step ≠ 0 ∧ s.boot.step ≠ 2 ∧ s.boot.step ≠ 14 := by
    simp only [List.mem_cons, List.not_mem_nil, or_false] at again
    omega
  obtain ⟨by_, runs⟩ := exec_stepFails other.1 other.2 h
  rw [stepFailed_again step again] at runs
  have boot := failedStep_boot k res (stepDetail s k mask) s
  have frame := (failedStep_frame k res (stepDetail s k mask) s).mono (qs := [.err, .boot, .book, .mram]) (by decide) |>.trans
    ((countCheck_frame res _).mono (by decide))
  have counted : (countCheck res (failedStep k res (stepDetail s k mask) s)).boot = (failedStep k res (stepDetail s k mask) s).boot :=
    countCheck_frame res _ .boot (by decide)
  generalize countCheck res (failedStep k res (stepDetail s k mask) s) = x at runs frame counted
  rw [← counted] at boot
  have path : bootPath (countFail k x) k = none := by
    have twice : Map.get 0 (countFail k x).boot.fails k = Map.get 0 s.boot.fails k + 1 :=
      (get_put _ _ _ _ _).trans ((if_pos rfl).trans (congrArg (fun b : Boot => Map.get 0 b.fails k + 1) boot :))
    rw [bootPath_again again, twice, if_neg (by omega)]
  rw [if_pos path] at runs
  have halt : (bootHalt k (countFail k x)).boot = { (countFail k x).boot with step := 0, halted := true, failStep := k } :=
    record_frame 0x1103 0 k _ .boot (by decide)
  refine ⟨_, runs, congrArg Boot.halted halt, congrArg Boot.failStep halt, (congrArg Boot.failResult halt).trans (congrArg Boot.failResult boot :),
    congrArg Boot.step halt, ?_, record_only _ _ _ (by decide) (modBoot_only _ (by decide) (modBoot_only _ (by decide) frame))⟩
  exact (congrArg (fun b : Boot => Map.find b.results k) halt).trans ((congrArg (fun b : Boot => Map.find b.results k) boot :).trans
    ((find_put _ _ _ _).trans (if_pos rfl)))

/-- The first failure in a row resets the module for the next attempt (R610). -/
theorem stepFails_retries (fresh : Map.get 0 s.boot.fails k = 0) (runs : s.boot.halted = false) :
    Completes c s (fun u => u.boot.cause = 2 ∧ u.hif = {} ∧ Map.get 0 u.boot.fails k = 1) := by
  have other : s.boot.step ≠ 0 ∧ s.boot.step ≠ 2 ∧ s.boot.step ≠ 14 ∧ k < 15 := by
    simp only [List.mem_cons, List.not_mem_nil, or_false] at again
    omega
  have failed : failing res = true := by
    obtain ⟨-, rfl | rfl⟩ | ⟨-, rfl⟩ := h <;> rfl
  obtain ⟨by_, done⟩ := exec_stepFails other.1 ⟨other.2.1, other.2.2.1⟩ h
  rw [stepFailed_again step again] at done
  have boot := failedStep_boot k res (stepDetail s k mask) s
  have counted : (countCheck res (failedStep k res (stepDetail s k mask) s)).boot = (failedStep k res (stepDetail s k mask) s).boot :=
    countCheck_frame res _ .boot (by decide)
  generalize countCheck res (failedStep k res (stepDetail s k mask) s) = x at done counted
  rw [← counted] at boot
  have path : bootPath (countFail k x) k = some 0 := by
    have once : Map.get 0 (countFail k x).boot.fails k = 1 :=
      (get_put _ _ _ _ _).trans ((if_pos rfl).trans ((congrArg (fun b : Boot => Map.get 0 b.fails k + 1) boot :).trans
        (congrArg (· + 1) fresh)))
    rw [bootPath_again again, once, if_pos (by decide)]
  rw [if_neg (by rw [path]; decide)] at done
  have restart := ownerReset_restarts 2 x
  refine ⟨_, done, restart.origin, restart.hif, ?_⟩
  have result : Map.get 0 x.boot.results k = res := (congrArg (fun b : Boot => Map.get 0 b.results k) boot :).trans
    ((get_put _ _ _ _ _).trans (if_pos rfl))
  have before : Map.get 0 x.boot.fails k = 0 := (congrArg (fun b : Boot => Map.get 0 b.fails k) boot :).trans fresh
  have going : x.boot.halted = false := (congrArg Boot.halted boot :).trans runs
  have results : resetResults 2 (committed x) = x.boot.results := by rw [resetResults, if_neg (by simp), committed_boot]
  rw [restart.fails, results, committed_boot, get_nextFails other.2.2.2, going, result, failed, before]
  rfl
end

/-- A failure of B10 or B11 retires the module (R612). -/
theorem trainFails_retires {c : Instr} {k res unit mask : Nat} {ucie : Bool} {s : State} (step : s.boot.step = k) (train : k = 10 ∨ k = 11)
    (h : (c = .bootStepDone res ucie unit mask ∧ (res = 1 ∨ res = 5)) ∨ c = .bootStepLimit unit mask) :
    Completes c s (fun u => u.boot.cause = 2 ∧ bitW u.pln.retire 31 = true ∧ u.boot.retiring = true) := by
  have runs : ∃ r by_, exec c s = .next (stepFailed r by_ unit mask s) := by
    rcases h with told | rfl
    · exact ⟨res, exec_stepFails (by omega) (by omega) (.inl told)⟩
    · exact ⟨2, exec_stepFails (res := 2) (ucie := ucie) (by omega) (by omega) (.inr ⟨rfl, rfl⟩)⟩
  obtain ⟨r, by_, runs⟩ := runs
  rw [stepFailed_retires step train] at runs
  have small : retireCause k by_ < 256 := by
    unfold retireCause
    split
    · decide
    · split <;> decide
  have retired := setRetire_valid small unit (failedStep k 6 (stepDetail s k mask) s)
  dsimp only at runs
  generalize setRetire (retireCause k by_) unit (failedStep k 6 (stepDetail s k mask) s) = x at runs retired
  have lost : Spares (loseStack (unit % 16) x) (actFaults (faultAll 0x11 (unit % 16) 0xFF (loseStack (unit % 16) x))) :=
    Spares.actFaults (faultAll_fences (src := 0x11) rfl (by decide) _).stks
  have valid : bitW (if k = 11 then actFaults (faultAll 0x11 (unit % 16) 0xFF (loseStack (unit % 16) x)) else x).pln.retire 31 = true := by
    split
    · have retire := congrArg Prod.snd lost
      have dropped : (loseStack (unit % 16) x).pln.retire = x.pln.retire := congrArg Prod.snd (stkPart_dropStackMoves _ _)
      exact (congrArg (bitW · 31) (retire.trans dropped)).trans retired
    · exact retired
  have restart := ownerReset_restarts 2 (if k = 11 then actFaults (faultAll 0x11 (unit % 16) 0xFF (loseStack (unit % 16) x)) else x)
  refine ⟨_, runs, restart.origin, ?_, ?_⟩
  · rw [restart.pln, keptPln, committed_retire]
    exact valid
  · rw [restart.retiring, committed_retire]
    exact valid

/-- Settles O59: a step passes by its effect, its end record and `beginStep`; one that fails halts or resets by `stepFailed_again`, or
retires by `stepFailed_retires`. -/
theorem bootSteps : Obligations.BootSteps := by
  refine ⟨fun k p unit mask ucie s => plainStep_passes, fun unit mask p ucie s => slotStep_passes, fun unit mask ucie s => coreStep_passes,
    fun unit mask ucie s => hostStep_passes, fun c unit mask ucie s step h => portStep_ends step h,
    fun c k res unit mask ucie s step again h failed => stepFails_halts step again h failed,
    fun c k res unit mask ucie s step again h fresh runs => stepFails_retries step again h fresh runs,
    fun c k res unit mask ucie s step train h => trainFails_retires step train h, fun c res unit mask ucie s idle h => ?_⟩
  simp only [List.mem_cons, List.not_mem_nil, or_false] at h
  rcases h with rfl | rfl
  · refine congrArg Host.Outcome.next ?_
    rw [stepDone, if_pos idle, ite_self]
  · exact congrArg Host.Outcome.next (if_pos idle)

end Sys2Proof.Machine
end

section
/-!
Lifecycle commands, CLOSE, the token's expiry and zeroized tenants (R555, R562, R564 to R568 of 15).
-/
namespace Sys2Proof.Machine

/-! ## A lifecycle command (R564, R567, R568) -/

/-- The nonce is drawn anew (R568). -/
def nonceDrawn (s : State) : State := modSec (fun x => { x with nonce := (fresh 128 s).1 }) (fresh 128 s).2
/-- The group's registers as the command takes them. -/
def secSnap (acc : Acc) (s : State) : List Word := (List.range 3).map (shadowReg s .secCmd acc 0)
/-- A command taken: the group committed, its status, no reason. -/
def secTaken (acc : Acc) (s : State) : State :=
  setCstat 0 .secCmd 0 cOK 0 (csetAll .secCmd 0 (secSnap acc s) (modSec (fun x => { x with cmdReason := 0 }) (nonceDrawn s)))

theorem nonceDrawn_frame (s : State) : Only [.free, .sec] s (nonceDrawn s) := modSec_only _ (by decide) (fresh_only 128 (by decide) (Only.rfl' _ s))
theorem secTaken_frame (acc : Acc) (s : State) : Only [.free, .grp, .sec] s (secTaken acc s) :=
  setCstat_only _ _ _ _ _ (by decide) (csetAll_only _ _ _ (by decide) (modSec_only _ (by decide) ((nonceDrawn_frame s).mono (by decide))))
theorem secTaken_put (acc : Acc) (s : State) : Only [.grp] (modSec (fun x => { x with cmdReason := 0 }) (nonceDrawn s)) (secTaken acc s) :=
  setCstat_only _ _ _ _ _ (by decide) (csetAll_only _ _ _ (by decide) (Only.rfl' _ _))
theorem secTaken_sec (acc : Acc) (s : State) :
    (secTaken acc s).sec = { s.sec with nonce := (Config.freeValue 128 s.free).toNat, cmdReason := 0 } := secTaken_put acc s .sec (by decide)
theorem secTaken_free (acc : Acc) (s : State) : (secTaken acc s).free = s.free + 1 := secTaken_put acc s .free (by decide)
theorem secTaken_ok (acc : Acc) (s : State) : cstatOf (secTaken acc s) .secCmd acc 0 = (cOK, 0) := cstatOf_setCstat .secCmd acc 0 cOK 0 _

/-- What a refusal leaves (Table 15.11). -/
theorem secRefuse_spec (cmd reason res off : Nat) (acc : Acc) (s : State) :
    (secRefuse cmd reason res off s).sec = { s.sec with cmdReason := reason } ∧ (secRefuse cmd reason res off s).free = s.free ∧
      cstatOf (secRefuse cmd reason res off s) .secCmd acc 0 = (res, off) ∧ Only [.grp, .sec, .book] s (secRefuse cmd reason res off s) := by
  have last := record_frame 0x0F03 0 (cmd + reason * 256) (setCstat 0 .secCmd 0 res off (modSec (fun x => { x with cmdReason := reason }) s))
  refine ⟨last .sec (by decide), last .free (by decide), ?_, record_only _ _ _ (by decide) (setCstat_only _ _ _ _ _ (by decide)
    (modSec_only _ (by decide) (Only.rfl' _ s)))⟩
  exact (cstatOf_of_grp (last .grp (by decide)) _ _ _).trans (cstatOf_setCstat .secCmd acc 0 res off _)

section
variable {cmd : Nat} {acc : Acc} {tok : Option (List Byte)} {s : State} (reach : grpReach s .secCmd acc 0 = true)
  (opened : blockOpen s acc 15 = true) (field : fldW (shadowReg s .secCmd acc 0 0) 2 0 = 0)
include reach opened field

/-- A command the lifecycle does not allow (R567). -/
theorem secCmd_denied (length : cmd = 2 ∨ cmd = 3 ∨ (shadowReg s .secCmd acc 0 2).toNat = 4691) (denied : lifeAllows s cmd = false) :
    secCmd cmd acc tok s = secRefuse cmd 5 cDENIED (Grp.selOffset .secCmd 0) (nonceDrawn s) := by
  have zero : ¬ fldW ((secSnap acc s).getD 0 0) 2 0 ≠ 0 := not_not.mpr field
  have size : ¬ (((decide (cmd = 1) || decide (cmd = 4) || decide (cmd = 5)) = true) ∧ ((secSnap acc s).getD 2 0).toNat ≠ 4691) := by
    rintro ⟨token, other⟩
    have word : ((secSnap acc s).getD 2 0).toNat = (shadowReg s .secCmd acc 0 2).toNat := rfl
    simp only [Bool.or_eq_true, decide_eq_true_eq] at token
    omega
  rw [secCmd, if_neg (not_not.mpr ⟨reach, opened⟩)]
  exact (if_neg zero).trans ((if_neg size).trans (if_pos (.inl (by simp [denied]))))

/-- A command without a token, in a lifecycle that allows it. -/
theorem secCmd_plain (plain : cmd = 2 ∨ cmd = 3) (allowed : lifeAllows s cmd = true) (up : caveDown s = false) :
    secCmd cmd acc tok s = secDo cmd (tok.getD []) (secTaken acc s) := by
  have zero : ¬ fldW ((secSnap acc s).getD 0 0) 2 0 ≠ 0 := not_not.mpr field
  have none : (decide (cmd = 1) || decide (cmd = 4) || decide (cmd = 5)) = false := by
    rcases plain with rfl | rfl <;> rfl
  rw [secCmd, if_neg (not_not.mpr ⟨reach, opened⟩)]
  refine (if_neg zero).trans ((if_neg (by simp [none])).trans ((if_neg (by simp [allowed, up])).trans ?_))
  simp only [none, Bool.false_eq_true, if_false]
  rfl

section
variable {t : List Byte} (token : cmd = 1 ∨ cmd = 4 ∨ cmd = 5) (length : (shadowReg s .secCmd acc 0 2).toNat = 4691)
  (allowed : lifeAllows s cmd = true) (up : caveDown s = false)
include token length allowed up

/-- A command with a token: the token decides (R568). -/
theorem secCmd_token : secCmd cmd acc (some t) s =
    if tokenReason s cmd t ≠ 0 then secRefuse cmd (tokenReason s cmd t) cOK 0 (csetAll .secCmd 0 (secSnap acc s) (nonceDrawn s))
    else secDo cmd t (secTaken acc s) := by
  have zero : ¬ fldW ((secSnap acc s).getD 0 0) 2 0 ≠ 0 := not_not.mpr field
  have has : (decide (cmd = 1) || decide (cmd = 4) || decide (cmd = 5)) = true := by
    rcases token with rfl | rfl | rfl <;> rfl
  have size : ¬ (((decide (cmd = 1) || decide (cmd = 4) || decide (cmd = 5)) = true) ∧ ((secSnap acc s).getD 2 0).toNat ≠ 4691) :=
    fun other => other.2 length
  rw [secCmd, if_neg (not_not.mpr ⟨reach, opened⟩)]
  refine (if_neg zero).trans ((if_neg size).trans ((if_neg (by simp [allowed, up])).trans ?_))
  simp only [has, if_true]
  rfl
end
end

/-- CLEAR_RETIRE's effect. -/
theorem secDo_clears (t : List Byte) (x : State) : secDo 3 t x = modPln (fun p => { p with retire := 0 }) x := by
  rw [secDo, if_neg (by decide), if_neg (by decide), if_pos rfl]

/-- The effect of an accepted command with a token (R564, R565, R567). -/
theorem secDo_effect {cmd : Nat} {t : List Byte} {x : State} (token : cmd = 1 ∨ cmd = 4 ∨ cmd = 5) :
    (secDo cmd t x).sec.nonce = x.sec.nonce ∧ (secDo cmd t x).sec.cmdReason = x.sec.cmdReason ∧ Only [.rck, .sec, .book] x (secDo cmd t x) ∧
    (cmd = 1 → (secDo cmd t x).sec.life = .opened ∧ (secDo cmd t x).sec.caps = fieldAt t 2 2 % 128 ∧
      (secDo cmd t x).sec.notAfter = fieldAt t 16 8 ∧ (secDo cmd t x).rck = x.rck) ∧
    (cmd = 4 → (secDo cmd t x).sec.life = x.sec.life ∧ (secDo cmd t x).sec.sealTaken = true ∧ (secDo cmd t x).rck = x.rck) ∧
    (cmd = 5 → (secDo cmd t x).sec.life = .retired ∧ (secDo cmd t x).sec.uds = false ∧ (secDo cmd t x).rck.slot0 = {} ∧
      (secDo cmd t x).rck.slot1 = {}) := by
  rcases token with rfl | rfl | rfl
  · let y := modSec (fun z => { z with life := .opened, caps := fieldAt t 2 2 % 128 }) (modSec (fun z => { z with notAfter := fieldAt t 16 8 }) x)
    have last : Only [.book] y (secDo 1 t x) := record_frame _ _ _ _
    have sec : (secDo 1 t x).sec = y.sec := last .sec (by decide)
    refine ⟨(congrArg Sec.nonce sec :), (congrArg Sec.cmdReason sec :),
      record_only _ _ _ (by decide) (modSec_only _ (by decide) (modSec_only _ (by decide)
      (Only.rfl' _ x))), fun _ => ⟨(congrArg Sec.life sec :), (congrArg Sec.caps sec :), (congrArg Sec.notAfter sec :), last .rck (by decide)⟩,
      fun h => absurd h (by decide), fun h => absurd h (by decide)⟩
  · exact ⟨rfl, rfl, modSec_only _ (by decide) (Only.rfl' _ x), fun h => absurd h (by decide), fun _ => ⟨rfl, rfl, rfl⟩,
      fun h => absurd h (by decide)⟩
  · let y := modSec (fun z => { z with life := .retired, caps := 0 }) (modSec (fun z => { z with uds := false, notAfter := 0 })
      (modRck (fun r => { r with slot0 := {}, slot1 := {} }) x))
    have last : Only [.book] y (secDo 5 t x) := record_frame _ _ _ _
    have sec : (secDo 5 t x).sec = y.sec := last .sec (by decide)
    have rck : (secDo 5 t x).rck = y.rck := last .rck (by decide)
    refine ⟨(congrArg Sec.nonce sec :), (congrArg Sec.cmdReason sec :),
      record_only _ _ _ (by decide) (modSec_only _ (by decide) (modSec_only _ (by decide)
      (modRck_only _ (by decide) (Only.rfl' _ x)))), fun h => absurd h (by decide), fun h => absurd h (by decide),
      fun _ => ⟨(congrArg Sec.life sec :), (congrArg Sec.uds sec :), (congrArg Rck.slot0 rck :), (congrArg Rck.slot1 rck :)⟩⟩

theorem secToken_decides {c : Instr} {cmd : Nat} {acc : Acc} {tok : List Byte} {s : State}
    (h : (c, cmd) ∈ [(Instr.secOpen acc (some tok), 1), (.secSeal acc (some tok), 4), (.secRetire acc (some tok), 5)])
    (reach : grpReach s .secCmd acc 0 = true) (opened : blockOpen s acc 15 = true) (field : fldW (shadowReg s .secCmd acc 0 0) 2 0 = 0)
    (length : (shadowReg s .secCmd acc 0 2).toNat = 4691) (allowed : lifeAllows s cmd = true) (up : caveDown s = false) :
    Completes c s (fun u =>
      u.sec.nonce = (Config.freeValue 128 s.free).toNat ∧ u.free = s.free + 1 ∧ cstatOf u .secCmd acc 0 = (cOK, 0) ∧
      (if tokenReason s cmd tok = 0 then
        u.sec.cmdReason = 0 ∧
        (cmd = 1 → u.sec.life = .opened ∧ u.sec.caps = fieldAt tok 2 2 % 128 ∧ u.sec.notAfter = fieldAt tok 16 8 ∧ u.rck = s.rck) ∧
        (cmd = 4 → u.sec.life = s.sec.life ∧ u.sec.sealTaken = true ∧ u.rck = s.rck) ∧
        (cmd = 5 → u.sec.life = .retired ∧ u.sec.uds = false ∧ u.rck.slot0 = {} ∧ u.rck.slot1 = {})
      else u.sec.cmdReason = tokenReason s cmd tok ∧ u.sec.life = s.sec.life ∧ u.sec.uds = s.sec.uds ∧ u.rck = s.rck) ∧
      Only [.free, .grp, .rck, .sec, .book] s u) := by
  have runs : exec c s = .next (secCmd cmd acc (some tok) s) ∧ (cmd = 1 ∨ cmd = 4 ∨ cmd = 5) := by
    simp only [List.mem_cons, Prod.mk.injEq, List.not_mem_nil, or_false] at h
    rcases h with ⟨rfl, rfl⟩ | ⟨rfl, rfl⟩ | ⟨rfl, rfl⟩ <;> exact ⟨rfl, by decide⟩
  obtain ⟨runs, token⟩ := runs
  rw [secCmd_token reach opened field token length allowed up] at runs
  by_cases accepted : tokenReason s cmd tok = 0
  · rw [if_neg (not_not.mpr accepted)] at runs
    obtain ⟨nonce, reason, frame, one, four, five⟩ := secDo_effect (t := tok) (x := secTaken acc s) token
    have sec := secTaken_sec acc s
    have rck : (secTaken acc s).rck = s.rck := secTaken_frame acc s .rck (by decide)
    refine ⟨_, runs, nonce.trans ((congrArg Sec.nonce sec :)), (frame .free (by decide)).trans (secTaken_free acc s),
      (cstatOf_of_grp (frame .grp (by decide)) _ _ _).trans (secTaken_ok acc s), ?_,
      Only.trans ((secTaken_frame acc s).mono (by decide)) (frame.mono (by decide))⟩
    rw [if_pos accepted]
    rw [rck] at one four
    rw [sec] at four
    exact ⟨reason.trans ((congrArg Sec.cmdReason sec :)), one, four, five⟩
  · rw [if_pos accepted] at runs
    have put : Only [.grp] (nonceDrawn s) (csetAll .secCmd 0 (secSnap acc s) (nonceDrawn s)) := csetAll_only _ _ _ (by decide) (Only.rfl' _ _)
    obtain ⟨sec, free, stat, frame⟩ := secRefuse_spec cmd (tokenReason s cmd tok) cOK 0 acc (csetAll .secCmd 0 (secSnap acc s) (nonceDrawn s))
    rw [show (csetAll .secCmd 0 (secSnap acc s) (nonceDrawn s)).sec = (nonceDrawn s).sec from put .sec (by decide)] at sec
    have all : Only [.free, .grp, .rck, .sec, .book] s _ :=
      ((nonceDrawn_frame s).mono (by decide)).trans ((put.mono (by decide)).trans (frame.mono (by decide)))
    refine ⟨_, runs, (congrArg Sec.nonce sec :), free.trans (put .free (by decide)), stat, ?_, all⟩
    rw [if_neg accepted]
    exact ⟨(congrArg Sec.cmdReason sec :), (congrArg Sec.life sec :), (congrArg Sec.uds sec :),
      (frame .rck (by decide)).trans ((put .rck (by decide)).trans (nonceDrawn_frame s .rck (by decide)))⟩

theorem secCommand_denied {c : Instr} {cmd : Nat} {acc : Acc} {tok : List Byte} {s : State}
    (h : (c, cmd) ∈ [(Instr.secOpen acc (some tok), 1), (.secClose acc, 2), (.secClearRetire acc, 3), (.secSeal acc (some tok), 4),
      (.secRetire acc (some tok), 5)])
    (reach : grpReach s .secCmd acc 0 = true) (opened : blockOpen s acc 15 = true) (field : fldW (shadowReg s .secCmd acc 0 0) 2 0 = 0)
    (length : cmd = 2 ∨ cmd = 3 ∨ (shadowReg s .secCmd acc 0 2).toNat = 4691) (denied : lifeAllows s cmd = false) :
    Completes c s (fun u =>
      u.sec.cmdReason = 5 ∧ cstatOf u .secCmd acc 0 = (cDENIED, Grp.selOffset .secCmd 0) ∧ u.sec.life = s.sec.life ∧
      u.sec.nonce = (Config.freeValue 128 s.free).toNat ∧ Only [.free, .grp, .sec, .book] s u) := by
  have runs : ∃ t, exec c s = .next (secCmd cmd acc t s) := by
    simp only [List.mem_cons, Prod.mk.injEq, List.not_mem_nil, or_false] at h
    rcases h with ⟨rfl, rfl⟩ | ⟨rfl, rfl⟩ | ⟨rfl, rfl⟩ | ⟨rfl, rfl⟩ | ⟨rfl, rfl⟩ <;> exact ⟨_, rfl⟩
  obtain ⟨t, runs⟩ := runs
  rw [secCmd_denied reach opened field length denied] at runs
  obtain ⟨sec, -, stat, frame⟩ := secRefuse_spec cmd 5 cDENIED (Grp.selOffset .secCmd 0) acc (nonceDrawn s)
  exact ⟨_, runs, (congrArg Sec.cmdReason sec :), stat, (congrArg Sec.life sec :), (congrArg Sec.nonce sec :),
    ((nonceDrawn_frame s).mono (by decide)).trans (frame.mono (by decide))⟩

/-! ## CLOSE and the token's expiry (R566) -/

/-- Every tenant in TEARDOWN, the module closing. -/
def closingDown (s : State) : State := forS (boundTens s) teardown (modSec (fun x => { x with closing := true }) s)
theorem closeModule_eq (s : State) : closeModule s = if (closingDown s).sec.zero.isEmpty then ownerReset 3 (closingDown s) else closingDown s := rfl

theorem closingDown_closing (s : State) : (closingDown s).sec.closing = true :=
  forS_holds (fun x => x.sec.closing = true) (fun t _ x hx => by
    obtain ⟨keys, sec⟩ := teardown_sec t x
    rw [sec]
    exact hx) rfl

theorem closingDown_down {s : State} {t : Nat} (bound : tenSt s t ≠ .free) : tenSt (closingDown s) t = .teardown := by
  have down : tenSt (closingDown s) t = .free ∨ tenSt (closingDown s) t = .teardown :=
    forS_establishes (fun x => tenSt x t = .free ∨ tenSt x t = .teardown) (mem_boundTens bound) (fun x => teardown_own x t)
      (fun q _ x hx => teardown_keeps x hx q) _
  have held : tenSt (closingDown s) t ≠ .free := forS_holds (fun x => tenSt x t ≠ .free) (fun q _ x hx => teardown_ne_free x hx q)
    (show tenSt (modSec (fun x => { x with closing := true }) s) t ≠ .free from bound)
  exact down.resolve_left held

/-- A tenant's zeroization is pending, or its teardown is still to come. -/
def ZeroDue (q : Nat) (x : State) : Prop := x.sec.zero ≠ [] ∨ tenSt x q = .active ∨ tenSt x q = .quarantine

theorem put_ne_nil {α : Type} (m : Map α) (k : Nat) (v : α) : Map.put m k v ≠ [] := by
  unfold Map.put
  split
  · exact List.cons_ne_nil _ _
  · split
    · exact List.cons_ne_nil _ _
    · split <;> exact List.cons_ne_nil _ _

theorem teardown_zeroDue {q t : Nat} {x : State} (h : ZeroDue q x) : ZeroDue q (teardown t x) := by
  obtain ⟨keys, sec⟩ := teardown_sec t x
  by_cases bound : tenSt x t = .active ∨ tenSt x t = .quarantine
  · left
    rw [sec, if_pos bound]
    exact put_ne_nil _ _ _
  · rw [teardown_unbound bound]
    exact h

/-- While a tenant had to be torn down its zeroization is pending. -/
theorem closingDown_zero {s : State} {q : Nat} (bound : tenSt s q = .active ∨ tenSt s q = .quarantine) : (closingDown s).sec.zero ≠ [] := by
  have due : ZeroDue q (closingDown s) := forS_holds (ZeroDue q) (fun t _ x hx => teardown_zeroDue hx) (.inr bound)
  have torn : tenSt (closingDown s) q = .teardown := closingDown_down (by rcases bound with h | h <;> rw [h] <;> decide)
  refine due.resolve_right ?_
  rw [torn]
  decide

theorem closeModule_waits {s : State} {q : Nat} (bound : tenSt s q = .active ∨ tenSt s q = .quarantine) : closeModule s = closingDown s := by
  rw [closeModule_eq, if_neg (by simpa using closingDown_zero bound)]

/-- With every tenant FREE and no zeroization pending CLOSE resets the module. -/
theorem closeModule_resets {s : State} (free : boundTens s = []) (zero : s.sec.zero = []) :
    closeModule s = ownerReset 3 (modSec (fun x => { x with closing := true }) s) := by
  have none : closingDown s = modSec (fun x => { x with closing := true }) s := by rw [closingDown, free]; rfl
  have clean : (modSec (fun x => { x with closing := true }) s).sec.zero = [] := zero
  rw [closeModule_eq, none, if_pos (by rw [clean]; rfl)]

theorem committed_rck (s : State) : (committed s).rck = s.rck := committed_frame s .rck (by decide)
theorem committed_sec (s : State) : (committed s).sec = s.sec := committed_frame s .sec (by decide)

/-- The reset of a CLOSE: Opened has ended (R564). -/
theorem closed_spec {s : State} (opened : s.sec.life = .opened) :
    (ownerReset 3 s).sec.life = .sealed ∧ (ownerReset 3 s).sec.closing = false ∧ (ownerReset 3 s).boot.cause = 3 ∧ (ownerReset 3 s).hif = {} ∧
      (ownerReset 3 s).rck = keptRck s.rck.bucket s.rck.total s.rck := by
  have h := ownerReset_restarts 3 s
  obtain ⟨bucket, total⟩ := committed_rack s
  refine ⟨?_, h.life.2, h.origin, h.hif, ?_⟩
  · rw [h.life.1, committed_sec, resetLife, opened]
  · rw [h.rck, bucket, total, committed_rck]

/-- CLEAR_RETIRE on the state `x` in which the command was taken. -/
theorem clearedRetire_completes {acc : Acc} {s x : State}
    (runs : exec (.secClearRetire acc) s = .next (modPln (fun p => { p with retire := 0 }) x)) (pln : x.pln = s.pln)
    (life : x.sec.life = .opened) (frame : Only [.free, .grp, .pln, .sec] s x) :
    Completes (.secClearRetire acc) s (fun u => u.pln = { s.pln with retire := 0 } ∧ u.sec.life = .opened ∧ Only [.free, .grp, .pln, .sec] s u) :=
  ⟨_, runs, congrArg (fun p : Pln => { p with retire := 0 }) pln, life, modPln_only _ (by decide) frame⟩

section
variable {acc : Acc} {s : State} (reach : grpReach s .secCmd acc 0 = true) (open_ : blockOpen s acc 15 = true)
  (field : fldW (shadowReg s .secCmd acc 0 0) 2 0 = 0) (opened : s.sec.life = .opened) (up : caveDown s = false)
include reach open_ field opened up

theorem exec_secClose : exec (.secClose acc) s = .next (closeModule (secTaken acc s)) :=
  congrArg Host.Outcome.next (secCmd_plain reach open_ field (.inl rfl) (by simp [lifeAllows, opened]) up)

theorem secClose_closes {q : Nat} (bound : (tenRec s q).st = .active ∨ (tenRec s q).st = .quarantine) :
    Completes (.secClose acc) s (fun u => u.sec.closing = true ∧ ∀ t, (tenRec s t).st ≠ .free → (tenRec u t).st = .teardown) := by
  have same : tenSt (secTaken acc s) = tenSt s := tenSt_of_only ((secTaken_frame acc s).mono (by decide))
  have waits := closeModule_waits (s := secTaken acc s) (q := q) (by rw [same]; exact bound)
  exact ⟨_, (exec_secClose reach open_ field opened up).trans (congrArg Host.Outcome.next waits), closingDown_closing _,
    fun t held => closingDown_down (by rw [same]; exact held)⟩

theorem secClose_resets (free : boundTens s = []) (zero : s.sec.zero = []) :
    Completes (.secClose acc) s (fun u => u.sec.life = .sealed ∧ u.sec.closing = false ∧ u.boot.cause = 3 ∧ u.hif = {} ∧
      u.rck = keptRck s.rck.bucket s.rck.total s.rck) := by
  have hif : (secTaken acc s).hif = s.hif := secTaken_frame acc s .hif (by decide)
  have rck : (secTaken acc s).rck = s.rck := secTaken_frame acc s .rck (by decide)
  have sec := secTaken_sec acc s
  have life : (secTaken acc s).sec.life = .opened := (congrArg Sec.life sec :).trans opened
  have none : (secTaken acc s).sec.zero = [] := (congrArg Sec.zero sec :).trans zero
  have runs := exec_secClose reach open_ field opened up
  generalize secTaken acc s = x at hif rck life none runs
  have spec := closed_spec (s := modSec (fun y => { y with closing := true }) x) life
  rw [modSec_rck, rck] at spec
  rw [closeModule_resets (by rw [boundTens, hif]; exact free) none] at runs
  exact ⟨_, runs, spec⟩

theorem secClearRetire_clears (cap : hasCap s 6 = true) :
    Completes (.secClearRetire acc) s (fun u => u.pln = { s.pln with retire := 0 } ∧ u.sec.life = .opened ∧ Only [.free, .grp, .pln, .sec] s u) := by
  have allowed : lifeAllows s 3 = true := by simp [lifeAllows, opened, cap]
  have runs : exec (.secClearRetire acc) s = .next (secCmd 3 acc none s) := rfl
  rw [secCmd_plain reach open_ field (.inr rfl) allowed up, secDo_clears] at runs
  exact clearedRetire_completes runs (secTaken_frame acc s .pln (by decide)) ((congrArg Sec.life (secTaken_sec acc s) :).trans opened)
    ((secTaken_frame acc s).mono (by decide))
end

section
variable {s : State} (running : s.dbg.frost = 0) (opened : s.sec.life = .opened) (expired : s.sec.notAfter ≤ s.tim.s)
  (once : s.sec.closing = false)
include running opened expired once

theorem exec_openedExpiry : exec .openedExpiry s = .next (closeModule s) :=
  (clocked_running running _).trans (congrArg Host.Outcome.next (if_pos ⟨opened, expired, by simp [once]⟩))

theorem openedExpiry_closes {q : Nat} (bound : (tenRec s q).st = .active ∨ (tenRec s q).st = .quarantine) :
    Completes .openedExpiry s (fun u => u.sec.closing = true ∧ ∀ t, (tenRec s t).st ≠ .free → (tenRec u t).st = .teardown) :=
  ⟨_, (exec_openedExpiry running opened expired once).trans (congrArg Host.Outcome.next (closeModule_waits bound)), closingDown_closing s,
    fun _ held => closingDown_down held⟩

theorem openedExpiry_resets (free : boundTens s = []) (zero : s.sec.zero = []) :
    Completes .openedExpiry s (fun u => u.sec.life = .sealed ∧ u.boot.cause = 3 ∧ u.hif = {} ∧ u.rck = keptRck s.rck.bucket s.rck.total s.rck) := by
  obtain ⟨life, -, cause, hif, rck⟩ := closed_spec (s := modSec (fun x => { x with closing := true }) s) opened
  exact ⟨_, (exec_openedExpiry running opened expired once).trans (congrArg Host.Outcome.next (closeModule_resets free zero)), life, cause, hif,
    rck⟩
end

theorem openedExpiry_early {s : State} (early : s.tim.s < s.sec.notAfter) : exec .openedExpiry s = .next s := by
  have still : ¬ (s.sec.life = .opened ∧ s.sec.notAfter ≤ s.tim.s ∧ ¬ s.sec.closing = true) := fun h => absurd h.2.1 (by omega)
  by_cases running : s.dbg.frost = 0
  · exact (clocked_running running _).trans (congrArg Host.Outcome.next (if_neg still))
  · exact if_neg running

/-! ## A tenant zeroized (R562) -/

/-- A reset of a group's object reaches that object alone. -/
theorem cset_csetReset (g h : Grp) (o p i : Nat) (s : State) (small : i < 512) :
    cset (csetReset h p s) g o i = if o * 32 + g.idx = p * 32 + h.idx then g.reset s.half i else cset s g o i := by
  have half : (csetReset h p s).half = s.half := rfl
  have sets : (csetReset h p s).grp.sets = Map.keep (fun k _ => decide (k / 512 ≠ p * 32 + h.idx)) s.grp.sets := rfl
  have key : setKey g o i / 512 = o * 32 + g.idx := by
    unfold setKey
    omega
  rw [cset, sets, half, Map.get, Map.keep, find_filter_key (fun k => decide (k / 512 ≠ p * 32 + h.idx)), key]
  by_cases mine : o * 32 + g.idx = p * 32 + h.idx
  · rw [if_neg (by simp [mine]), if_pos mine]
    rfl
  · rw [if_pos (by simp [mine]), if_neg mine, cset, Map.get]

/-- A register of a tenant's group reads its reset value. -/
def AtReset (g : Grp) (t i : Nat) (x : State) : Prop := cset x g t i = g.reset x.half i
theorem csetReset_own {g : Grp} {t i : Nat} (small : i < 512) (x : State) : AtReset g t i (csetReset g t x) :=
  (cset_csetReset g g t t i x small).trans (if_pos rfl)
theorem AtReset.csetReset {g : Grp} {t i : Nat} {x : State} (h : AtReset g t i x) (small : i < 512) (g' : Grp) (o : Nat) :
    AtReset g t i (csetReset g' o x) := by
  refine (cset_csetReset g g' t o i x small).trans ?_
  split
  · rfl
  · exact h
theorem AtReset.of_only {g : Grp} {t i : Nat} {s u : State} (h : AtReset g t i s)
    (k : Only [.out, .hif, .cor, .vnl, .stp, .rck, .sec, .book] s u) : AtReset g t i u := by
  have grp : u.grp = s.grp := k .grp (by decide)
  have half : u.half = s.half := k .half (by decide)
  rw [AtReset, cset, grp, half]
  exact h

/-- The tenant's slots, segments and groups are at their reset values. -/
def tenantCleared (t : Nat) (s : State) : State :=
  let s1 := forS (tenSlots s t) (fun ck s => modSlot ck.1 ck.2 (fun _ => {}) (csetReset .corSlot (ck.1 * 8 + ck.2) s)) s
  let s2 := forS (List.range (numDies s)) (fun d s => forS (tenSegs s d t) (fun g => csetReset .corTer (d * 64 + g)) s) s1
  let s3 := forS tenGrps (fun g => csetReset g t) s2
  let s4 := forS (List.range 256) (fun r => csetReset .rng (t * 256 + r)) s3
  let s4 := forS (List.range 16) (fun n s =>
    if cset s .fmt n 0 ≠ Grp.reset s.half .fmt 0 ∧ ¬ bitW (cset s .fmt n 0) 30 ∧ fldW (cset s .fmt n 0) 23 12 = t then csetReset .fmt n s
    else s) s4
  modStp (fun x => { x with tens := Map.del x.tens t }) (modRck (fun r => { r with tens := Map.del r.tens t }) s4)
/-- The tenant itself is FREE, its zeroization no longer pending. -/
def tenantGone (t : Nat) (s : State) : State :=
  modSec (fun x => { x with zero := Map.del x.zero t })
    (modHif (fun h => { h with tens := Map.del h.tens t, rings := Map.keep (fun r _ => decide (r / 256 ≠ t)) h.rings }) s)

theorem tenantFree_eq {t : Nat} {s : State} (down : (tenRec s t).st = .teardown) (reads : tenReads s t = 0) :
    tenantFree t s = retryTokens (record 0x0F01 t 0 (tenantGone t (tenantCleared t s))) := if_pos ⟨down, reads⟩

theorem tenantCleared_frame (t : Nat) (s : State) : Only [.grp, .cor, .stp, .rck] s (tenantCleared t s) := by
  unfold tenantCleared
  dsimp only
  refine modStp_only _ (by decide) (modRck_only _ (by decide) (forS_only _ _ (fun n x hx => ?_) (forS_only _ _ (fun r x =>
    csetReset_only _ _ (by decide)) (forS_only _ _ (fun g x => csetReset_only _ _ (by decide)) (forS_only _ _ (fun d x =>
      forS_only _ _ (fun g y => csetReset_only _ _ (by decide))) (forS_only _ _ (fun ck x hx => ?_) (Only.rfl' _ s)))))))
  · exact ite_only (csetReset_only _ _ (by decide) hx) hx
  · exact modSlot_only _ _ _ (by decide) (csetReset_only _ _ (by decide) hx)

theorem tenantCleared_reset {t i : Nat} {g : Grp} (mine : g ∈ tenGrps) (small : i < 512) (s : State) : AtReset g t i (tenantCleared t s) := by
  unfold tenantCleared
  dsimp only
  refine AtReset.of_only ?_ (modStp_only _ (by decide) (modRck_only _ (by decide) (Only.rfl' _ _)))
  refine forS_holds (AtReset g t i) (fun n _ x hx => ?_) (forS_holds (AtReset g t i) (fun r _ x hx => hx.csetReset small _ _)
    (forS_establishes (AtReset g t i) mine (fun x => csetReset_own small x) (fun h _ x hx => hx.csetReset small h t) _))
  split
  · exact hx.csetReset small _ _
  · exact hx

/-- What the event and the retried tokens after it leave. -/
theorem tenantFree_rest {t : Nat} {s : State} (down : (tenRec s t).st = .teardown) (reads : tenReads s t = 0) :
    Only [.out, .vnl, .book] (tenantGone t (tenantCleared t s)) (tenantFree t s) := by
  rw [tenantFree_eq down reads]
  exact retryTokens_only (by decide) (by decide) (record_only _ _ _ (by decide) (Only.rfl' _ _))
theorem tenantGone_sec (t : Nat) (s : State) : (tenantGone t s).sec = { s.sec with zero := Map.del s.sec.zero t } := rfl
theorem tenantGone_tens (t : Nat) (s : State) : (tenantGone t s).hif.tens = Map.del s.hif.tens t := rfl
theorem tenantFree_sec {t : Nat} {s : State} (down : (tenRec s t).st = .teardown) (reads : tenReads s t = 0) :
    (tenantFree t s).sec = { s.sec with zero := Map.del s.sec.zero t } := by
  have cleared : (tenantCleared t s).sec = s.sec := tenantCleared_frame t s .sec (by decide)
  have rest : (tenantFree t s).sec = (tenantGone t (tenantCleared t s)).sec := tenantFree_rest down reads .sec (by decide)
  rw [rest, tenantGone_sec, cleared]
theorem tenantFree_tens {t : Nat} {s : State} (down : (tenRec s t).st = .teardown) (reads : tenReads s t = 0) :
    (tenantFree t s).hif.tens = Map.del s.hif.tens t := by
  have cleared : (tenantCleared t s).hif = s.hif := tenantCleared_frame t s .hif (by decide)
  have rest : (tenantFree t s).hif = (tenantGone t (tenantCleared t s)).hif := tenantFree_rest down reads .hif (by decide)
  rw [rest, tenantGone_tens, cleared]

section
variable {t : Nat} {s : State} (running : s.dbg.frost = 0) (down : (tenRec s t).st = .teardown) (reads : tenReads s t = 0)
include running down reads

theorem zeroizeDone_frees (open_ : s.sec.closing = false) :
    Completes (.tenantZeroizeDone t) s (fun u =>
      (tenRec u t).st = .free ∧ Map.find u.sec.zero t = none ∧
      (∀ g ∈ tenGrps, ∀ i, i < 512 → cset u g t i = g.reset s.half i) ∧
      (∀ q, q ≠ t → tenRec u q = tenRec s q) ∧ Only [.grp, .cor, .stp, .rck, .sec, .hif, .book, .out, .vnl] s u) := by
  have sec := tenantFree_sec down reads
  have tens := tenantFree_tens down reads
  have unlocked := unlockTdis_frame (tenantFree t s)
  have hif : (unlockTdis (tenantFree t s)).hif.tens = Map.del s.hif.tens t := (congrArg Hif.tens (unlocked .hif (by decide))).trans tens
  have zero : (unlockTdis (tenantFree t s)).sec.zero = Map.del s.sec.zero t := (congrArg Sec.zero sec :)
  have closing : (unlockTdis (tenantFree t s)).sec.closing = false := (congrArg Sec.closing sec :).trans open_
  have frame : Only [.grp, .cor, .stp, .rck, .sec, .hif, .book, .out, .vnl] s (unlockTdis (tenantFree t s)) :=
    unlockTdis_only (by decide) (tenantFree_only t (by decide) (by decide) (by decide) (by decide) (by decide) (by decide) (by decide) (by decide)
      (by decide) (Only.rfl' _ s))
  refine ⟨unlockTdis (tenantFree t s), (clocked_running running _).trans (congrArg Host.Outcome.next (if_neg (by simp [closing]))), ?_, ?_,
    fun g mine i small => ?_, fun q other => ?_, frame⟩
  · rw [tenRec, hif, get_del, if_pos rfl]
  · rw [zero, find_del, if_pos rfl]
  · have gone : AtReset g t i (tenantGone t (tenantCleared t s)) := (tenantCleared_reset mine small s).of_only
      (modSec_only _ (by decide) (modHif_only _ (by decide) (Only.rfl' _ _)))
    have there : AtReset g t i (unlockTdis (tenantFree t s)) :=
      (gone.of_only ((tenantFree_rest down reads).mono (by decide))).of_only (unlocked.mono (by decide))
    exact there.trans (congrArg (fun h => g.reset h i) (frame .half (by decide)))
  · rw [tenRec, hif, get_del, if_neg other, tenRec]

theorem zeroizeDone_resets (closing : s.sec.closing = true) (last : Map.del s.sec.zero t = []) :
    Completes (.tenantZeroizeDone t) s (fun u => u.boot.cause = 3 ∧ u.hif = {} ∧ u.sec.closing = false) := by
  have sec := tenantFree_sec down reads
  have closes : (unlockTdis (tenantFree t s)).sec.closing = true := (congrArg Sec.closing sec :).trans closing
  have none : (unlockTdis (tenantFree t s)).sec.zero = [] := (congrArg Sec.zero sec :).trans last
  have restart := ownerReset_restarts 3 (unlockTdis (tenantFree t s))
  exact ⟨_, (clocked_running running _).trans (congrArg Host.Outcome.next (if_pos ⟨closes, by rw [none]; rfl⟩)), restart.origin, restart.hif,
    restart.life.2⟩
end

/-- Settles O55: a command is decided by `secCmd`, its effect is `secDo`; CLOSE is `closingDown` and the reset `closed_spec`; a tenant
zeroized is `tenantCleared` and `tenantGone`. -/
theorem lifecycleCommands : Obligations.LifecycleCommands := by
  refine ⟨fun c cmd acc tok s h reach opened field length allowed up => secToken_decides h reach opened field length allowed up,
    fun c cmd acc tok s h reach opened field length denied => secCommand_denied h reach opened field length denied,
    fun acc q s reach open_ field opened up bound => secClose_closes reach open_ field opened up bound,
    fun acc s reach open_ field opened up free zero => secClose_resets reach open_ field opened up free zero,
    fun acc s reach open_ field opened up cap => secClearRetire_clears reach open_ field opened up cap,
    fun q s running opened expired once bound => openedExpiry_closes running opened expired once bound,
    fun s running opened expired once free zero => openedExpiry_resets running opened expired once free zero,
    fun s => openedExpiry_early, fun t s running down reads open_ => zeroizeDone_frees running down reads open_,
    fun t s running down reads closing last => zeroizeDone_resets running down reads closing last,
    fun s running => clocked_running running _⟩

end Sys2Proof.Machine
end
